-- ==== Sys2Proof/Word.lean ====
section
/-! DEFINITION. The word of the block: registers and engine words are 32 bits wide (00 R15). -/

namespace Sys2Proof

/-- A 32-bit register or engine word. -/
abbrev Word := BitVec 32

/-- A byte. -/
abbrev Byte := BitVec 8

end Sys2Proof
end

