-- ==== Sys2Proof/Syntax.lean ====
section
/-! DEFINITION. The commands of the block: `Instr` has one constructor for every row of spec/opcode_table.json, with the
row's operands, and the data the operands are made of. A command carries what comes from outside State: what a wire, a
pin, a host, a partner or a clocked unit of another standard brings at that step (log entry 2). -/

namespace Sys2Proof

/-! ## Unit numbers (00 R8, Table 00-3) -/

/-- Logic die 0 to 7. -/
abbrev Die := Fin 8
/-- Gateway of a die: 0 is A, 1 is B. -/
abbrev Gw := Fin 2
/-- Global port P0 to P63. -/
abbrev PortNo := Fin 64
/-- Headgate class HC0 to HC3. -/
abbrev Hc := Fin 4
/-- Culvert port of a die: 0 W, 1 E, 2 V. -/
abbrev Culv := Fin 3
/-- Crossbar endpoint (01 Table 01-10). -/
abbrev Endpt := Fin 22
/-- Engine of a die. -/
abbrev Eng := Fin 64
/-- Reach of a die. -/
abbrev Reach := Fin 16
/-- Reservoir bank of a die. -/
abbrev Bank := Fin 48
/-- Ditch of a die. -/
abbrev Ditch := Fin 64
/-- Task slot of a die. -/
abbrev TaskNo := Fin 1024
/-- Transaction slot of a directory slice. -/
abbrev Slot := Fin 256
/-- Cell column. -/
abbrev Col := Fin 48
/-- Cell row. -/
abbrev Row := Fin 32
/-- User I/O pin of a die. -/
abbrev Uio := Fin 24
/-- Fabric PLL, and FAB domain, of a die. -/
abbrev Fab := Fin 4
/-- User serial port of a die. -/
abbrev Usp := Fin 2
/-- A user of the two FIFOs of a user serial port (06 R231): CSRs, or the fabric port. -/
structure UspEnd where
  usp : Usp
  fab : Bool
  deriving DecidableEq, Repr
/-- Mailbox. -/
abbrev Mbox := Fin 8

/-! ## Messages -/

/-- The virtual channels of an internal message (03 Table 03-5). -/
inductive Vc where
  | req | rsp | snp | dat | esc
  deriving DecidableEq, Repr

/-- What a link message is in its own standard, as far as the spec tells messages apart (01 R18, R28, Tables 01-6 and
01-8; 02 Table 02-4). `internal` marks a message no link carried. -/
inductive PName where
  | internal
  | ioRead | ioWriteNp | ioAtomic
  /-- configuration requests to a function that the gateway presents (01 R28) -/
  | cfgRead | cfgWrite
  /-- configuration requests to any other function, which the headgate routes (01 R45) -/
  | cfgFwdRead | cfgFwdWrite
  | ioPosted | ioCpl | ioCplD | vendor
  | rdShared | rdOwn | rdOwnNoData | rdCurr | itoMWr | wrInv | cleanEvict | dirtyEvict
  | cacheReqH2D | cacheSnp | cacheRsp | cacheData
  | memRd | memRdData | memInv | memWr | memReqOther | memNdr | memDrs | biSnp | biRsp | memRwDOther
  /-- a message the standard terminates at the receiving port (01 R18) -/
  | terminated
  /-- MCTP over VDM addressed to the device (01 R29) -/
  | mctpVdm
  /-- the one-beat messages of the ESC channel (02 R94): port down, egress acceptance, lock release, lock wake, and the
  abort of a waiting claim -/
  | escDown | escAccept | escRelease | escWake | escAbort
  /-- an engine's access to a bank or a CSR of another die (03 R133, R136) -/
  | bankAcc | csrAcc
  deriving DecidableEq, Repr

/-- CXL.mem MetaValue. -/
inductive MetaV where
  | none | i | s | a
  deriving DecidableEq, Repr

/-- An internal message (01 R34; 03 R117): the header beat of 03 Table 03-5 as one 512-bit word (word w in bits
32w+31..32w), the data beats, and the facts about a link message that its standard's header bytes hold and the spec
names without giving their place: its name, MetaValue, destination bus number, and a snoop response's KEEP and DATA
(02 R73). -/
structure Msg where
  hdr   : BitVec 512
  beats : List (BitVec 512)
  name  : PName
  metaV : MetaV
  bus   : Option (BitVec 8)
  keep  : Bool
  dirty : Bool
  deriving DecidableEq, Repr

/-- Features of the standards that Tables 01-2 and 01-3 mark No, or Yes under a condition of the port (01 R27). -/
inductive Feature where
  | nonFlit | widerThanX8 | l0s | l1 | l1Substates | vcAbove0 | payloadAbove512 | readAbove4096 | dpc | acs | slotPower
  | frs | obff | ptm | ignoredMsg | ide | tdisp | srIov | multicast
  | cxlIo | flit256 | flitLatOpt | flit68 | backInval | isolation | unorderedIo | cxlIde | tsp
  deriving DecidableEq, Repr

/-- A message as a flit delivers it to the transaction shell: the fields of the internal header that the protocol
fills, and how it is addressed. -/
structure LinkMsg where
  msg     : Msg
  /-- the function of the gateway that a configuration request names -/
  fn      : Fin 8
  /-- the conditional feature that the request depends on (01 R27) -/
  depends : Option Feature
  /-- the message has an address (01 Table 01-8, AHI) -/
  hasAddr : Bool
  /-- PBR traffic, or MLD traffic (01 Table 01-8, SRC) -/
  pbr     : Bool
  mld     : Bool
  deriving DecidableEq, Repr

/-- One received flit: FEC corrections made, or the flit failing FEC and CRC and asking a replay (01 R53), and the
messages unpacked. -/
structure Flit where
  fecCorr : Bool
  bad     : Bool
  msgs    : List LinkMsg
  deriving DecidableEq, Repr

/-- How training of a sub-port settled (01 R19 to R25, R32, R55): the codes of GW_LINK_STS. -/
structure Training where
  rate     : Fin 7
  width    : Fin 9
  reversed : Bool
  pol      : BitVec 8
  cxl      : Bool
  /-- L0 was reached at 128 GT/s in extended-rate mode (01 R24) -/
  xrate    : Bool
  deriving DecidableEq, Repr

/-- Why a link went down (01 R54, Table 01-12 LINK_DOWN). -/
inductive DownCause where
  | surprise | perst | hotReset | disable | dpc | image
  deriving DecidableEq, Repr

/-! ## Cells -/

/-! ## Banks and ditches -/

/-- A memory operation on a 64-bit bank word (07 R239 to R241). -/
inductive BankOp where
  | read
  /-- write of the enabled bytes, with the poison tag of the data -/
  | write (be : BitVec 8) (data : BitVec 64) (poison : Bool)
  | fetchAdd (x : BitVec 64)
  | swap (x : BitVec 64)
  deriving DecidableEq, Repr

/-- The port of a bank that grants: the one port of banks 0 to 43, port A, port B, or both ports of a twin bank in one
BANK cycle (07 Table 07-1, R244). -/
inductive GrantPort where
  | single | a | b | ab
  deriving DecidableEq, Repr

/-- The fabric's request on a bank port in one grant cycle. -/
structure FabBankReq where
  reach : Reach
  word  : Fin 16384
  op    : BankOp
  deriving DecidableEq, Repr

/-- An item of a ditch as a producer pushes it (07 R252). -/
structure DitchItem where
  data   : BitVec 64
  prio   : Fin 8
  poison : Bool
  deriving DecidableEq, Repr

/-! ## Steward messages -/

/-- A host (09 R298). -/
inductive HostId where
  | function
  | mctp (eid : BitVec 8)
  | i3c (addr : BitVec 8)
  deriving DecidableEq, Repr

/-- The transport and port a command came by (09 R298 to R302), on I3C and SMBus with the target address that the
controller sent it to; `towpath` is a command relayed from the head. -/
inductive Via where
  | mailbox (k : Mbox)
  | vdm (p : PortNo)
  | i3c (addr : BitVec 7)
  | smbus (addr : BitVec 7)
  | towpath
  deriving DecidableEq, Repr

/-- The header of a command as it arrives (09 Table 09-2), with its sender and the payload bytes received. A row's operands
are the fields of this payload; the bytes are what a relay passes on and what a signature covers. -/
structure CmdHdr where
  host     : HostId
  via      : Via
  tag      : BitVec 16
  seq      : BitVec 16
  chain    : BitVec 8
  flags    : BitVec 8
  status   : BitVec 8
  /-- the reserved header fields are 0 -/
  resZero  : Bool
  length   : Nat
  payload  : List (BitVec 8)
  deriving DecidableEq, Repr

/-- The header with the payload that came with it. -/
def CmdHdr.carry (h : CmdHdr) (pay : List (BitVec 8)) : CmdHdr := { h with payload := pay }

/-- What a command acts on: every die, one die, or one reach. -/
inductive Scope where
  | all
  | die (d : Die)
  | reach (d : Die) (r : Reach)
  deriving DecidableEq, Repr

/-- Who reads or writes a register: a host's message, an engine, or the configuration controller (00 R9 to R13; 03
R136, R137, R151; 09 R311). -/
inductive Access where
  | host (h : HostId)
  | engine (d : Die) (e : Eng)
  | config
  deriving DecidableEq, Repr

/-- A towpath frame (09 Table 09-7): the port it came in by, whether its CRC holds, its type's addresses and link
sequence, and its body, opaque here where the frame is only relayed. -/
structure Frame where
  onOut : Bool
  crcOk : Bool
  dest  : BitVec 8
  src   : BitVec 8
  lseq  : BitVec 8
  body  : List (BitVec 8)
  deriving DecidableEq, Repr

/-- What the boot ROM finds outside State at a start: the HEAD strap (14 R423: low, high or open), and whether an SFDP device
answers on the SPI master (08 R277), with its image. -/
structure StartInfo where
  headHigh : Bool
  headOpen : Bool
  extAnswers : Bool
  /-- the image in external flash, from its first byte (08 Table 08-2) -/
  extImage : List (BitVec 8)
  deriving DecidableEq, Repr


/-- The commands, in the order of spec/opcode_table.json. -/
inductive Instr where
  /-- GATEWAY_FLIT_RECEIVE (R18): A flit arrives on a sub-port, is checked by FEC and CRC, unpacked, and its messages are cut into internal messages that go to the headgate. -/
  | gatewayFlitReceive (p : PortNo) (f : Flit)
  /-- HEADGATE_PASS (R40): A message at the head of its channel is classified, passes its meter test, is stamped and routed into the crossbar. -/
  | headgatePass (p : PortNo) (vc : Vc)
  /-- HG_METER_WRITE (R40): A write to HG_METER changes the refill rate, the cap and the enable of a bucket from the next FLIT cycle. -/
  | hgMeterWrite (p : PortNo) (c : Hc) (v : Word)
  /-- CROSSBAR_FORWARD (R44): A crossbar output chooses its next message by ESC priority and channel round-robin, and forwards it when the sink holds credit. -/
  | crossbarForward (d : Die) (e : Endpt)
  /-- CULVERT_BEAT_ARRIVE (R50): A beat arrives over a culvert and has its SECDED checked and corrected. -/
  | culvertBeatArrive (d : Die) (c : Culv) (errs : List (List (Fin 3)))
  /-- EGRESS_ACCEPT (R79): An egress shell accepts a message for its link, reports the acceptance to the home slice on ESC, and sends the message in the order of acceptance. -/
  | egressAccept (p : PortNo) (vc : Vc)
  /-- LINK_UP (R62): A sub-port's link reaches L0, and LINK_UP is raised. -/
  | linkUp (p : PortNo) (t : Training)
  /-- FLIT_MODE_ABSENT (R20): A link partner does not advertise flit mode, so the LTSSM returns to Detect and FLIT_ABSENT is set. -/
  | flitModeAbsent (p : PortNo)
  /-- XRATE_OFFER (R24): An XRATE_OFFER message is received, and a candidate initiator directs the speed change to 128 GT/s. -/
  | xrateOffer (p : PortNo) (cap en inTime lowerPid : Bool)
  /-- XRATE_FALLBACK (R24): The link does not reach L0 at 128 GT/s within the timeouts, so it returns to 64 GT/s and sets XRATE_FB. -/
  | xrateFallback (p : PortNo)
  /-- XRATE_RECOVERY_FALLBACK (R25): An extended-rate link enters Recovery more than 8 times in 1 ms and is retrained at 64 GT/s. -/
  | xrateRecoveryFallback (p : PortNo)
  /-- LINK_DOWN (R54): A link goes down by surprise, PERST_n, Hot Reset, Disable or DPC: its ingress stops, its egress discards, and the directory is told. -/
  | linkDown (p : PortNo) (cause : DownCause)
  /-- VIRAL_ENTRY (R56): A CXL port enters viral, and viral spreads to every port of its group. -/
  | viralEntry (p : PortNo)
  /-- PERST_ASSERT (R57): A PERST_n ball is asserted: reset kind G takes the gateway's sub-ports down and clears its fields. -/
  | perstAssert (d : Die) (g : Gw)
  /-- PERST_DEASSERT (R23): A PERST_n ball is deasserted after release, and the LTSSMs of the gateway start training. -/
  | perstDeassert (d : Die) (g : Gw)
  /-- CULVERT_TRAINED (R48): Culvert training completes: the culvert comes up, possibly using spare wires, or stays down. -/
  | culvertTrained (d : Die) (c : Culv) (failTx failRx : Nat)
  /-- CV_CTRL_WRITE (R48): A write to CV_CTRL.EN takes a culvert port down, or retrains it at once. -/
  | cvCtrlWrite (d : Die) (c : Culv) (v : Word)
  /-- DIR_REQUEST_ARRIVE (R86): A directory request arrives at its home slice, is checked for lateness, and is queued or started. -/
  | dirRequestArrive (d : Die) (vc : Vc)
  /-- DIR_TXN_START (R75): A transaction opens a slot, makes its line BUSY, and issues its memory read and snoops. -/
  | dirTxnStart (d : Die)
  /-- DIR_SNOOP_ISSUE (R79): Once the egress has accepted earlier responses, the directory issues a waiting snoop to a port. -/
  | dirSnoopIssue (d : Die) (t : Slot) (p : PortNo)
  /-- DIR_SNOOP_RESPONSE (R73): A snoop response arrives and is reduced to the KEEP and DATA facts. -/
  | dirSnoopResponse (d : Die) (vc : Vc)
  /-- DIR_MEMORY_DATA (R74): Memory read data arrives at the directory for an open transaction. -/
  | dirMemoryData (d : Die)
  /-- DIR_COMMIT (R77): A transaction commits: it writes the next state and MS, sends the response, issues any memory write and frees the slot. -/
  | dirCommit (d : Die) (t : Slot)
  /-- SET_WAIT_TIMEOUT (R81): A request has waited 2,000 DIR cycles for a way and is ended with an error, without an entry. -/
  | setWaitTimeout (d : Die) (t : Slot)
  /-- DIR_PORT_DOWN (R82): A port-down message sets DIR_PORT_DOWN and starts or joins the slice walk. -/
  | dirPortDown (d : Die) (p : PortNo)
  /-- DIR_WALK_SET (R82): The port-down walk processes one set, removing sharers and making owned entries LOST. -/
  | dirWalkSet (d : Die)
  /-- WAIT_LIMIT (R96): A wait reaches 4,000 ENG cycles, so the handler is aborted, its locks are released, and the task is requeued or completed with an engine fault. -/
  | waitLimit (d : Die) (e : Eng)
  /-- TASK_DISPATCH (R159): The scheduler picks a ready task, chooses a placeable engine, debits the allotment, and starts the handler. -/
  | taskDispatch (d : Die)
  /-- BUDGET_FAULT (R111): A handler's run-cycle count would exceed its budget, and it ends with fault BUDGET. -/
  | budgetFault (d : Die) (e : Eng)
  /-- ADD (R121): Engine instruction: rd gets rs1 + rs2. -/
  | engAdd (d : Die) (e : Eng)
  /-- SUB (R121): Engine instruction: rd gets rs1 - rs2. -/
  | engSub (d : Die) (e : Eng)
  /-- AND (R121): Engine instruction: rd gets rs1 AND rs2. -/
  | engAnd (d : Die) (e : Eng)
  /-- OR (R121): Engine instruction: rd gets rs1 OR rs2. -/
  | engOr (d : Die) (e : Eng)
  /-- XOR (R121): Engine instruction: rd gets rs1 XOR rs2. -/
  | engXor (d : Die) (e : Eng)
  /-- SLL (R121): Engine instruction: logical left shift. -/
  | engSll (d : Die) (e : Eng)
  /-- SRL (R121): Engine instruction: logical right shift. -/
  | engSrl (d : Die) (e : Eng)
  /-- SRA (R121): Engine instruction: arithmetic right shift. -/
  | engSra (d : Die) (e : Eng)
  /-- SLT (R121): Engine instruction: signed set-less-than. -/
  | engSlt (d : Die) (e : Eng)
  /-- SLTU (R121): Engine instruction: unsigned set-less-than. -/
  | engSltu (d : Die) (e : Eng)
  /-- MUL (R121): Engine instruction: rd gets the low 32 bits of the product. -/
  | engMul (d : Die) (e : Eng)
  /-- ADDI (R121): Engine instruction: add a sign-extended immediate. -/
  | engAddi (d : Die) (e : Eng)
  /-- ANDI (R121): Engine instruction: AND with a zero-extended immediate. -/
  | engAndi (d : Die) (e : Eng)
  /-- ORI (R121): Engine instruction: OR with a zero-extended immediate. -/
  | engOri (d : Die) (e : Eng)
  /-- SLTI (R121): Engine instruction: signed compare with an immediate. -/
  | engSlti (d : Die) (e : Eng)
  /-- SHI (R121): Engine instruction: shift by an immediate amount, of the kind the immediate selects. -/
  | engShi (d : Die) (e : Eng)
  /-- LUI (R121): Engine instruction: rd gets the immediate shifted left by 16. -/
  | engLui (d : Die) (e : Eng)
  /-- EXT (R121): Engine instruction: extracts a bit field. -/
  | engExt (d : Die) (e : Eng)
  /-- INS (R121): Engine instruction: inserts a bit field. -/
  | engIns (d : Die) (e : Eng)
  /-- LD (R113): Engine instruction: loads a word or pair from the engine address space. -/
  | engLd (d : Die) (e : Eng)
  /-- ST (R114): Engine instruction: stores a word or pair. -/
  | engSt (d : Die) (e : Eng)
  /-- BEQ (R121): Engine instruction: branch when equal. -/
  | engBeq (d : Die) (e : Eng)
  /-- BNE (R121): Engine instruction: branch when not equal. -/
  | engBne (d : Die) (e : Eng)
  /-- BLT (R121): Engine instruction: branch when less, signed. -/
  | engBlt (d : Die) (e : Eng)
  /-- BGE (R121): Engine instruction: branch when greater or equal, signed. -/
  | engBge (d : Die) (e : Eng)
  /-- BLTU (R121): Engine instruction: branch when less, unsigned. -/
  | engBltu (d : Die) (e : Eng)
  /-- BGEU (R121): Engine instruction: branch when greater or equal, unsigned. -/
  | engBgeu (d : Die) (e : Eng)
  /-- BST (R121): Engine instruction: branch on an OST condition. -/
  | engBst (d : Die) (e : Eng)
  /-- JR (R121): Engine instruction: jump to a register plus an offset. -/
  | engJr (d : Die) (e : Eng)
  /-- CALL (R104): Engine instruction: opens a new register window and continues at the target. -/
  | engCall (d : Die) (e : Eng)
  /-- RET (R104): Engine instruction: returns to the caller's window. -/
  | engRet (d : Die) (e : Eng)
  /-- TRAP (R107): Engine instruction: takes trap SOFT with a code. -/
  | engTrap (d : Die) (e : Eng)
  /-- TRET (R107): Engine instruction: returns from a trap to TPC. -/
  | engTret (d : Die) (e : Eng)
  /-- END (R129): Engine instruction: releases held locks, answers the IN message if needed, frees buffers, consumes IN and completes the task. -/
  | engEnd (d : Die) (e : Eng)
  /-- WSV_SAVE (R106): Engine instruction: saves window TWIN to the spill area. -/
  | engWsvSave (d : Die) (e : Eng)
  /-- WSV_RESTORE (R106): Engine instruction: restores window TWIN from the spill area. -/
  | engWsvRestore (d : Die) (e : Eng)
  /-- MFS (R123): Engine instruction: reads a special register. -/
  | engMfs (d : Die) (e : Eng)
  /-- MTS (R123): Engine instruction: writes a special register. -/
  | engMts (d : Die) (e : Eng)
  /-- DLOOK (R130): Engine instruction: reads a line's directory entry at its home slice. -/
  | engDlook (d : Die) (e : Eng)
  /-- DWR (R131): Engine instruction: writes a line's directory entry, waiting while the line is BUSY. -/
  | engDwr (d : Die) (e : Eng)
  /-- SEND (R124): Engine instruction: checks and sends the OUT message, reserving a response buffer when asked. -/
  | engSend (d : Die) (e : Eng)
  /-- WAITR (R125): Engine instruction: waits for a tagged response and claims it into the RSP window. -/
  | engWaitr (d : Die) (e : Eng)
  /-- ENGINE_RESPONSE_ARRIVE (R125): A response arrives for an engine's reserved buffer, or is discarded as late. -/
  | engineResponseArrive (d : Die) (c : Fin 8) (vc : Vc)
  /-- FWCP (R121): Engine instruction: copies the IN message to OUT. -/
  | engFwcp (d : Die) (e : Eng)
  /-- BATOM_FETCH_ADD (R241): Engine instruction: 64-bit fetch-and-add at a bank word. -/
  | engBatomFetchAdd (d : Die) (e : Eng)
  /-- BATOM_SWAP (R241): Engine instruction: 64-bit swap at a bank word. -/
  | engBatomSwap (d : Die) (e : Eng)
  /-- DQPUSH (R253): Engine instruction: pushes an item toward a ditch through the push buffer. -/
  | engDqpush (d : Die) (e : Eng)
  /-- DQPOP (R135): Engine instruction: pops an item from a ditch, or the idle item, waiting when W = 1. -/
  | engDqpop (d : Die) (e : Eng)
  /-- ENG_CSR_READ (R136): Engine CSR instruction with W = 0: reads a CSR. -/
  | engCsrRead (d : Die) (e : Eng)
  /-- ENG_CSR_WRITE (R136): Engine CSR instruction with W = 1: writes a CSR. -/
  | engCsrWrite (d : Die) (e : Eng)
  /-- LOCK (R139): Engine instruction with REL = 0: claims a lock of a rank, waiting until it is granted. -/
  | engLock (d : Die) (e : Eng)
  /-- LOCK_RELEASE (R139): Engine instruction with REL = 1: releases a lock and wakes the next waiter. -/
  | engLockRelease (d : Die) (e : Eng)
  /-- LOCK_WAKE (R138): A released lock, or a freed lock-table entry, is granted to the next waiter in order. -/
  | lockWake (d : Die) (key : Option Word)
  /-- FENCE_WAIT (R140): Engine FENCE with MODE 0: waits until earlier effects have landed and returns the milestone. -/
  | engFenceWait (d : Die) (e : Eng)
  /-- FENCE_NOTIFY (R141): Engine FENCE with MODE 1: registers a notify fence for the effects issued before it. -/
  | engFenceNotify (d : Die) (e : Eng)
  /-- FENCE_COMPLETION_SEND (R141): Once the covered effects have landed, a stamped fence completion is sent to the target event. -/
  | fenceCompletionSend (d : Die) (e : Eng)
  /-- ENG_PARK (R149): A write to ENG_CTRL.PARK removes the engine from dispatch, or returns it. -/
  | engPark (d : Die) (e : Eng) (park : Bool)
  /-- ENG_EPOCH_WRITE (R149): A write to ENG_CTRL.EPOCH while parked changes the engine's role epoch. -/
  | engEpochWrite (d : Die) (e : Eng) (epoch : Fin 64)
  /-- ENG_HALT (R151): A write of ENG_CTRL.HALT by an ENGDBG host halts the engine at an instruction boundary. -/
  | engHalt (d : Die) (e : Eng) (h : HostId) (halt : Bool)
  /-- ENG_STEP (R151): A write of ENG_CTRL.STEP by an ENGDBG host executes one instruction while halted. -/
  | engStep (d : Die) (e : Eng) (h : HostId)
  /-- ENG_HS_DATA_ACCESS (R149): An ENG_HS_DATA access reads or writes a parked engine's handler store and advances INDEX. -/
  | engHsDataAccess (d : Die) (w : Option Word)
  /-- ENG_SPILL_WRITE (R106): A write to ENG_SPILL is applied, or is discarded in full when out of range. -/
  | engSpillWrite (d : Die) (e : Eng) (v : Word)
  /-- SCHEDULER_EVENT (R155): A message arrives for a task slot, sets its flag and joins its inbox, or is returned or discarded. -/
  | schedulerEvent (d : Die) (vc : Vc)
  /-- TASK_FLAGS_WRITE (R155): A write to SCH_TASK_n_W2 sets event flags. -/
  | taskFlagsWrite (d : Die) (n : TaskNo) (v : Word)
  /-- TASK_PRIO_WRITE (R168): A write to PRIO moves a ready task between lists, or stores the new priority. -/
  | taskPrioWrite (d : Die) (n : TaskNo) (prio : Fin 8)
  /-- TASK_READINESS_WRITE (R169): A write to MASK or MODE re-evaluates readiness in that cycle. -/
  | taskReadinessWrite (d : Die) (n : TaskNo) (mask : Option Word) (mode : Option Bool)
  /-- TASK_CLMASK_WRITE (R169): A write to CLMASK changes the eligible clusters and may enter or end UNSERVABLE. -/
  | taskClmaskWrite (d : Die) (n : TaskNo) (m : BitVec 8)
  /-- TASK_INVALIDATE (R169): A write of V from 1 to 0 clears FLAGS and empties the inbox, at completion for a running task. -/
  | taskInvalidate (d : Die) (n : TaskNo)
  /-- TASK_VALIDATE (R169): A write of V from 0 to 1 starts the slot IDLE with ESC 0. -/
  | taskValidate (d : Die) (n : TaskNo)
  /-- TASK_EPOCH_WRITE (R167): A write to a slot's EPOCH returns queued messages whose epoch differs. -/
  | taskEpochWrite (d : Die) (n : TaskNo) (epoch : Fin 64)
  /-- AFFINITY_EXPIRE (R164): 64 SCHED cycles after a completion, engine affinity for the task ends. -/
  | affinityExpire (d : Die) (n : TaskNo)
  /-- ALLOT_REFILL (R172): At each 1 us milestone tick, the PMU reads the die temperature and refills every cluster's allotment balance. -/
  | allotRefill (d : Die) (milliC : List Int)
  /-- PLL_UNLOCK (R197): A master or lane PLL loses lock, and its sluices hold every beat. -/
  | pllUnlock (d : Die) (lane : Option Gw)
  /-- PLL_RELOCK (R197): A master or lane PLL relocks, and the milestone is reloaded or slewed. -/
  | pllRelock (d : Die) (lane : Option Gw)
  /-- MILESTONE_SLEW (R195): Each 1 us of correction withholds or adds one milestone tick until the error is within bound. -/
  | milestoneSlew (d : Die)
  /-- MS_LO_READ (R196): A read of MS_LO latches the upper milestone word into MS_HI. -/
  | msLoRead (d : Die)
  /-- CELL_NOP (R203): Cell operation NOP: o0 holds. In the sixteen rows of the cells `edge` says whether an edge of the cell's
  wire clock comes in the cycle (R223); it says nothing of a cell on the clock of its reach. -/
  | cellNop (d : Die) (r : Reach) (col : Col) (row : Row) (edge : Bool)
  /-- CELL_ADD (R203): Cell operation ADD. -/
  | cellAdd (d : Die) (r : Reach) (col : Col) (row : Row) (edge : Bool)
  /-- CELL_SUB (R203): Cell operation SUB. -/
  | cellSub (d : Die) (r : Reach) (col : Col) (row : Row) (edge : Bool)
  /-- CELL_AND (R203): Cell operation AND. -/
  | cellAnd (d : Die) (r : Reach) (col : Col) (row : Row) (edge : Bool)
  /-- CELL_OR (R203): Cell operation OR. -/
  | cellOr (d : Die) (r : Reach) (col : Col) (row : Row) (edge : Bool)
  /-- CELL_XOR (R203): Cell operation XOR. -/
  | cellXor (d : Die) (r : Reach) (col : Col) (row : Row) (edge : Bool)
  /-- ANDN (R203): Cell operation A AND NOT B. -/
  | cellAndn (d : Die) (r : Reach) (col : Col) (row : Row) (edge : Bool)
  /-- ROLC (R203): Cell operation: rotate left through carry. -/
  | cellRolc (d : Die) (r : Reach) (col : Col) (row : Row) (edge : Bool)
  /-- SHL (R203): Cell operation: left shift. -/
  | cellShl (d : Die) (r : Reach) (col : Col) (row : Row) (edge : Bool)
  /-- SHR (R203): Cell operation: logical right shift. -/
  | cellShr (d : Die) (r : Reach) (col : Col) (row : Row) (edge : Bool)
  /-- CELL_SRA (R203): Cell operation: arithmetic right shift. -/
  | cellSra (d : Die) (r : Reach) (col : Col) (row : Row) (edge : Bool)
  /-- CMP (R203): Cell operation: compare and set F. -/
  | cellCmp (d : Die) (r : Reach) (col : Col) (row : Row) (edge : Bool)
  /-- CELL_MUL (R200): Cell operation: 16x16 multiply on an even row. -/
  | cellMul (d : Die) (r : Reach) (col : Col) (row : Row) (edge : Bool)
  /-- MULH (R200): Cell operation: high half of the partner's product on an odd row. -/
  | cellMulh (d : Die) (r : Reach) (col : Col) (row : Row) (edge : Bool)
  /-- MOV (R203): Cell operation: move B. -/
  | cellMov (d : Die) (r : Reach) (col : Col) (row : Row) (edge : Bool)
  /-- SEL (R203): Cell operation: select A or B by p0. -/
  | cellSel (d : Die) (r : Reach) (col : Col) (row : Row) (edge : Bool)
  /-- ENTRY_REWRITE_GO (R212): A write of FAB_IRW_HI with GO = 1 starts a live rewrite of a cell entry, or rejects it. -/
  | entryRewriteGo (d : Die) (hi : BitVec 8)
  /-- REWRITE_COMMIT (R213): A pending rewrite commits at a cell edge where the entry is not selected, and the frame is updated.
  `e` is the entry that the cell selects there. -/
  | rewriteCommit (d : Die) (e : Fin 8)
  /-- REWRITE_TIMEOUT (R214): A rewrite not committed within 4,096 CFG cycles is cancelled with TIMEOUT. -/
  | rewriteTimeout (d : Die)
  /-- FAB_PLL_WRITE (R221): A write to FAB_PLL_CTRL that changes its settings starts a relock, or is discarded. -/
  | fabPllWrite (d : Die) (f : Fab) (v : Word)
  /-- FAB_PLL_LOCK (R221): A fabric PLL locks, and its domain clock restarts. -/
  | fabPllLock (d : Die) (f : Fab)
  /-- FAB_PLL_LOCKLOSS (R221): A fabric PLL loses lock unplanned, and its domain clock stops. -/
  | fabPllLockloss (d : Die) (f : Fab)
  /-- FABSEL_WRITE (R222): A write to REACH_CTRL.FABSEL takes effect while the reach is isolated or in reset, and is discarded otherwise. -/
  | fabselWrite (d : Die) (r : Reach) (sel : Fab)
  /-- UIO_DLY_WRITE (R227): A write of a new TAPS value moves the pin delay one tap per cycle toward it. -/
  | uioDlyWrite (d : Die) (p : Uio) (v : Word)
  /-- USP_TX_WRITE (R231): A word of `u` written to a serial port's transmit FIFO is queued, or discarded when the FIFO is full. -/
  | uspTxWrite (d : Die) (u : UspEnd) (v : BitVec 16)
  /-- USP_RX_READ (R231): A read of USP_RX, or the fabric port, removes and returns the oldest received word. -/
  | uspRxRead (d : Die) (u : UspEnd)
  /-- USP_RECEIVE (R231): A serial port receives a character into its receive FIFO, noting overflow and errors. -/
  | uspReceive (d : Die) (u : Usp) (w : BitVec 16) (ferr perr : Bool)
  /-- USP_TRANSMIT (R230): A serial port finishes sending one word from its transmit FIFO. -/
  | uspTransmit (d : Die) (u : Usp) (cts : Bool) (rxw : BitVec 16)
  /-- UFW_REQUEST (R232): The fabric's user flash port takes a line index and requests the line. -/
  | ufwRequest (d : Die) (r : Reach) (i0 i1 : BitVec 16)
  /-- BANK_GRANT (R238): A bank port grants one eligible request by round-robin and runs its read, write or read-modify-write. -/
  | bankGrant (d : Die) (b : Bank) (port : GrantPort) (fab : Option FabBankReq)
  /-- BANK_CLEAR_DONE (R246): A bank clear ends after 16,384 BANK cycles, and the bank becomes available. -/
  | bankClearDone (d : Die) (b : Bank)
  /-- BT_TEST_CYCLE (R249): At each 64th BANK cycle, the background test performs its next save, March or restore operation. -/
  | btTestCycle (d : Die) (bad : List Bank)
  /-- BT_EN_WRITE (R251): A write to BANK_CTRL.BT_EN stops the background test after the current region, or resumes it. -/
  | btEnWrite (d : Die) (v : Bool)
  /-- DITCH_FABRIC_PUSH (R254): The fabric ditch port pushes an item into the filling bank. -/
  | ditchFabricPush (d : Die) (q : Ditch) (i : DitchItem)
  /-- DITCH_FABRIC_POP (R254): The fabric ditch port pops the most urgent draining item, or the idle item. -/
  | ditchFabricPop (d : Die) (q : Ditch)
  /-- DITCH_FLUSH (R254): A write of DQ_CTRL.FLUSH empties both storage banks of a ditch. -/
  | ditchFlush (d : Die) (q : Ditch)
  /-- DQ_WEIR_WRITE (R260): A write to DQ_WEIR re-evaluates ABOVE and BELOW without an edge. -/
  | dqWeirWrite (d : Die) (q : Ditch) (v : Word)
  /-- IMAGE_LOAD_COMPLETE (R278): A shadow load ends: the CMAC or signature is compared, and the dies are flipped and released or returned to the held state.
  `source` is the source of the load, as CFG_STS.SOURCE codes it. -/
  | imageLoadComplete (source : Fin 8)
  /-- LITERAL (R271): A LITERAL frame-stream record writes frames from its groups, each checked by CRC. -/
  | literal (d : Die) (rec : Word) (groups : List (List Word × Word))
  /-- REPEAT (R271): A REPEAT record copies frames from a source index. -/
  | repeatRecord (d : Die) (rec src crc : Word)
  /-- ZERO (R271): A ZERO record writes zero frames. -/
  | zeroRecord (d : Die) (rec crc : Word)
  /-- FILL_RECORD (R271): A FILL record writes frames repeating a pattern word. -/
  | fillRecord (d : Die) (rec pattern crc : Word)
  /-- HANDLERS_SECTION (R270): A HANDLERS section, with its CRC of the section table (R268), writes instruction words into the masked engines' handler stores. -/
  | handlersSection (d : Die) (mask : BitVec 64) (first : Nat) (words : List Word) (crc : Word)
  /-- REGINIT_SECTION (R269): A REGINIT section writes its address and value pairs in order. -/
  | reginitSection (pairs : List (Word × Word)) (crc : Word)
  /-- BANKINIT_SECTION (R268): A BANKINIT section writes initial bank words. -/
  | bankinitSection (addr : Word) (words : List (BitVec 64)) (crc : Word)
  /-- RELEASE_WRITE_ENABLES (R281): At release cycle 64, write enables toward banks, ditches and CSRs become active. -/
  | releaseWriteEnables (sc : Scope)
  /-- RELEASE_RESETS_DEASSERT (R281): At release cycle 128, fabric resets deassert, the headgates pass and dispatch is enabled. -/
  | releaseResetsDeassert (sc : Scope)
  /-- FAB_PATCH_GO (R283): A write of FAB_PATCH_CTRL with GO = 1 starts a reach patch from bank memory, or rejects it. -/
  | fabPatchGo (d : Die) (r : Reach)
  /-- SHADOW_BUILD_DONE (R290): A reach's shadow built for a patch or a reload is complete, and the reach swap begins by isolating the reach. -/
  | shadowBuildDone (d : Die) (r : Reach)
  /-- REACH_DRAIN_END (R290): After D drain cycles, the reach's planes flip and the reach release starts. -/
  | reachDrainEnd (d : Die) (r : Reach)
  /-- LIVE_SWAP_VERIFIED (R286): The background shadow load of a live swap from `source` ends and is verified, and engine updates are applied. -/
  | liveSwapVerified (source : Fin 8)
  /-- SWAP_DRAIN_START (R288): The drain begins on every die: headgates stop, dispatch stops, reaches are isolated and sluices close. -/
  | swapDrainStart
  /-- SWAP_FLIP (R286): Every die has drained, so every plane and shadow register flips and the flip-applied writes run. -/
  | swapFlip (pause : Nat)
  /-- SWAP_DRAIN_TIMEOUT (R288): A die has not drained within 800 CFG cycles, so the swap is abandoned and traffic resumes. -/
  | swapDrainTimeout (d : Die)
  /-- SCRUB_FRAME (R292): Every 64 CFG cycles, the scrubber reads and checks the next active frame, correcting single-bit errors. -/
  | scrubFrame (d : Die) (upset : List (Fin 2064))
  /-- MB_DOORBELL (R300): A write of MB_DOORBELL.GO submits the mailbox request, or sets OVERRUN. -/
  | mbDoorbell (k : Mbox)
  /-- MB_DONE_WRITE (R300): A write of DONE = 1 frees a mailbox. -/
  | mbDoneWrite (k : Mbox)
  /-- SET_ENDPOINT_ID (R301): MCTP control message that sets a port's EID. -/
  | setEndpointId (p : PortNo) (eid : BitVec 8)
  /-- GET_ENDPOINT_ID (R301): MCTP control message that returns the EID. -/
  | getEndpointId (p : PortNo)
  /-- GET_MCTP_VERSION_SUPPORT (R301): MCTP control message that reports version support. -/
  | getMctpVersionSupport (p : PortNo)
  /-- GET_MESSAGE_TYPE_SUPPORT (R301): MCTP control message that reports message types. -/
  | getMessageTypeSupport (p : PortNo)
  /-- GET_VENDOR_DEFINED_MSG_SUPPORT (R301): MCTP control message that reports vendor-defined message support. -/
  | getVendorDefinedMsgSupport (p : PortNo)
  /-- GET_INFO (R310): Ixken command that returns die count, grade, state, versions and serial number. -/
  | getInfo (h : CmdHdr)
  /-- GET_STATUS (R310): Ixken command that returns power state, start cause, trial and milestone. -/
  | getStatus (h : CmdHdr)
  /-- ABORT (R308): Ixken command that stops an abortable command of the same host. -/
  | abort (h : CmdHdr) (tag : BitVec 16)
  /-- NOTICE_SUBSCRIBE (R310): Ixken command that sets the host's notice subscription mask. -/
  | noticeSubscribe (h : CmdHdr) (mask : BitVec 16)
  /-- NOTICE_STATS (R319): Ixken command that reports the host's lost and overwritten notice counts. -/
  | noticeStats (h : CmdHdr)
  /-- CSR_READ (R311): Ixken command that reads consecutive CSR words. -/
  | csrRead (h : CmdHdr) (addr : Word) (n : BitVec 16)
  /-- CSR_WRITE (R311): Ixken command that writes consecutive CSR words. -/
  | csrWrite (h : CmdHdr) (addr : Word) (vals : List Word) (n : BitVec 16)
  /-- BANK_READ (R312): Ixken command that reads bank memory through the bank DMA. -/
  | bankRead (h : CmdHdr) (addr : Word) (len : BitVec 16)
  /-- BANK_WRITE (R312): Ixken command that writes bank memory through the bank DMA. -/
  | bankWrite (h : CmdHdr) (addr : Word) (len : BitVec 16) (data : List (BitVec 64))
  /-- FRAME_READ (R295): Ixken command that reads back active configuration frames. -/
  | frameRead (h : CmdHdr) (addr : Word) (n : BitVec 16)
  /-- FLASH_READ (R352): Ixken command that reads flash within the protection level. -/
  | flashRead (h : CmdHdr) (off : Word) (len : BitVec 16)
  /-- LOAD_BEGIN (R313): Ixken command that opens the LOAD session for a host image, a slot or a firmware copy. -/
  | loadBegin (h : CmdHdr) (target : BitVec 8) (total : Word)
  /-- LOAD_DATA (R313): Ixken command that delivers the next bytes of the load. -/
  | loadData (h : CmdHdr) (off : Word) (data : List (BitVec 8))
  /-- LOAD_END (R314): Ixken command that checks and finishes the load: it seals, validates or releases. `pay` here, and in the
  rows below that have it, is the payload as it arrived: it is the payload of `h`. -/
  | loadEnd (h : CmdHdr) (pay : List (BitVec 8))
  /-- LOAD_SESSION_TIMEOUT (R313): A LOAD session that receives no message for 1 s ends. -/
  | loadSessionTimeout
  /-- SWAP (R315): Ixken command that starts a live image swap from a slot or a host image. -/
  | swap (h : CmdHdr) (source : BitVec 8) (pay : List (BitVec 8))
  /-- REACH_RELOAD (R293): Ixken command that reloads one reach from the running slot. -/
  | reachReload (h : CmdHdr) (die reach : BitVec 8)
  /-- OPTION_READ (R360): Ixken command that reads the logical option space. -/
  | optionRead (h : CmdHdr) (off : Word) (len : BitVec 16)
  /-- OPTION_WRITE (R357): Ixken command that writes the user option record or the protection level. -/
  | optionWrite (h : CmdHdr) (off : Word) (data : List (BitVec 8))
  /-- UFLASH_ERASE (R344): Ixken command that erases user flash sectors. -/
  | uflashErase (h : CmdHdr) (first count : Word)
  /-- UFLASH_PROGRAM (R344): Ixken command that programs user flash words. -/
  | uflashProgram (h : CmdHdr) (off : Word) (data : List (BitVec 64))
  /-- LC_TRANSITION (R368): Ixken command that moves the life-cycle state by programming OTP. -/
  | lcTransition (h : CmdHdr) (target : BitVec 8) (pay : List (BitVec 8))
  /-- DEBUG_CERT (R376): Ixken command that checks a debug certificate and grants rights. -/
  | debugCert (h : CmdHdr) (pay : List (BitVec 8))
  /-- DEBUG_CERT_RESPONSE (R376): Exactly 8.0 ms after the certificate arrives, the answer is sent. -/
  | debugCertResponse
  /-- REFUSED_RESPONSE (R377): Exactly 256 STW cycles after a refused command arrives, it is answered REFUSED. -/
  | refusedResponse
  /-- OTP_WRITE (R363): Ixken command that ORs a value into one OTP word. -/
  | otpWrite (h : CmdHdr) (word : BitVec 16) (v : BitVec 64)
  /-- KEY_REVOKE (R374): Ixken command that revokes an owner key by signed authorisation. -/
  | keyRevoke (h : CmdHdr) (key signer : BitVec 8) (pay : List (BitVec 8))
  /-- OTP_WORD_PROGRAMMED (R362): An OTP word program completes with verify, or fails. -/
  | otpWordProgrammed (verifyOk : Bool)
  /-- RESET_HOT (R401): RESET kind 0 starts reset kind H of the device. -/
  | resetHot (h : CmdHdr) (st : StartInfo)
  /-- RESET_DIE (R401): RESET kind 1 resets one die, which is reloaded and released alone. -/
  | resetDie (h : CmdHdr) (die : BitVec 8)
  /-- RESET_REACH (R401): RESET kind 2 holds a reach for 16 CFG cycles, then releases it. -/
  | resetReach (h : CmdHdr) (die reach : BitVec 8)
  /-- RESET_ENG (R147): RESET kind 3 resets one engine and ends a running handler with fault RESET. -/
  | resetEng (h : CmdHdr) (die eng : BitVec 8)
  /-- RESET_STEWARD (R331): RESET kind 4 starts reset kind S of the Steward cores. -/
  | resetSteward (h : CmdHdr)
  /-- RESET_TOWPATH (R330): RESET kind 5 at the head starts reset kind T along the chain. -/
  | resetTowpath (h : CmdHdr)
  /-- POWER_STATE_STANDBY (R392): POWER_STATE with state 0 drains the dies and switches them off into STANDBY. -/
  | powerStateStandby (h : CmdHdr) (masks : List (BitVec 16))
  /-- POWER_STATE_RUN (R393): POWER_STATE with state 2 wakes the device from STANDBY or tripped dies, or sets reach gating. -/
  | powerStateRun (h : CmdHdr) (masks : List (BitVec 16))
  /-- RAIL_OK_RISE (R393): RAIL_OK arrives during a wake, so the die power switches close and the dies wake. -/
  | railOkRise
  /-- RAIL_OK_TIMEOUT (R393): RAIL_OK does not arrive within 10 ms, so the device stays in STANDBY. -/
  | railOkTimeout
  /-- REACH_WAKE_CHECK_DONE (R395): A waking reach's frames have been checked and its banks cleared, so it is released. -/
  | reachWakeCheckDone (d : Die) (r : Reach)
  /-- BIST_RUN (R408): Ixken command that resets the selected dies and starts LBIST and or MBIST. -/
  | bistRun (h : CmdHdr) (kind dies mems : BitVec 8) (islands : BitVec 16) (resZero : Bool) (known : Bool) (expected : List (BitVec 64))
  /-- LBIST_COMPLETE (R410): LBIST ends on a die and its MISR is compared. -/
  | lbistComplete (d : Die) (misr : BitVec 64)
  /-- MBIST_COMPLETE (R410): MBIST ends on a die, its MISR is compared, and the die is reloaded. -/
  | mbistComplete (d : Die) (misr : BitVec 64)
  /-- CHAIN_STATUS (R310): Ixken command that reports chain size, flags, break and sync error. -/
  | chainStatus (h : CmdHdr)
  /-- CHAIN_ENUM (R325): Ixken command at the head that starts another enumeration. -/
  | chainEnum (h : CmdHdr)
  /-- NOTICE_DITCH_STORE (R434): Each STW cycle, the notice ditch takes one item from the notice queues in round-robin order. -/
  | noticeDitchStore
  /-- NOTICE_DELIVER (R319): The Steward pops a notice and delivers it to every subscribed host, counting losses. -/
  | noticeDeliver
  /-- TOW_LINK_TRAINED (R321): A towpath link completes training, correcting exchanged pairs or port roles. -/
  | towLinkTrained (out xswap revd : Bool)
  /-- TOW_LINK_DOWN (R321): A towpath link lacks symbol lock for 10 us and goes down. -/
  | towLinkDown (out : Bool)
  /-- TOWPATH_MESSAGE_FRAME (R322): A towpath frame carrying an Ixken message is received, checked, relayed or consumed. -/
  | towpathMessageFrame (f : Frame) (isResponse bcast : Bool)
  /-- TOWPATH_NOTICE_FRAME (R320): A towpath notice frame is relayed toward the head and delivered there. -/
  | towpathNoticeFrame (f : Frame) (code : BitVec 16) (sharedHosts : List HostId)
  /-- ACK (R322): An ACK frame acknowledges sent frames. -/
  | towAck (out : Bool) (lseq : BitVec 8)
  /-- NAK (R322): A NAK frame causes a resend; a third failure takes the link down. -/
  | towNak (out : Bool) (lseq : BitVec 8)
  /-- ENUMERATION_START (R324): When the head is ready, it takes address 0 and sends the ENUM token. -/
  | enumerationStart
  /-- ENUM (R324): An ENUM token is received and held until the package is ready, or returns to the head. -/
  | towEnum (f : Frame) (next : BitVec 8) (ovf : Bool)
  /-- ENUM_TOKEN_FORWARD (R324): A package that becomes ready takes its address, acknowledges, and forwards the token. -/
  | enumTokenForward
  /-- ENUM_ACK (R324): The head receives an ENUM_ACK from a member. -/
  | enumAck (f : Frame)
  /-- ENUM_TIMEOUT (R325): Enumeration has not ended 80 ms after the head was ready. -/
  | enumTimeout
  /-- SYNC_EXCHANGE (R328): Every 10 or 100 us, a member sends SYNC_REQ to its neighbour toward the head. -/
  | syncExchange
  /-- SYNC_REQ (R328): A neighbour stamps a SYNC_REQ and replies with t2 and t3. -/
  | syncReq (f : Frame) (t2 t3 : Int)
  /-- SYNC_RSP (R328): A member computes theta from a SYNC_RSP and adjusts its offset or slews. At the head the end of chain
  synchronisation comes by this row, with the largest theta of the chain in ps (R329). -/
  | syncRsp (f : Frame) (t1 t4 : Int) (worst : Nat)
  /-- RESET_T (R330): A RESET_T frame is forwarded, and the towpath block resets. -/
  | resetT (f : Frame)
  /-- REJOIN (R327): A REJOIN frame makes the head enumerate again. -/
  | rejoin (f : Frame)
  /-- WATCHDOG_EXPIRY (R331): The Steward watchdog expires after 100 ms and causes reset kind S. -/
  | watchdogExpiry
  /-- TRIAL_PROMOTE (R332): A TRIAL firmware copy runs 10 s without watchdog expiry and becomes PRIMARY. -/
  | trialPromote
  /-- FL_KEY_WRITE (R342): A write to FL_KEY advances or breaks the unlock sequence. -/
  | flKeyWrite (v : Word)
  /-- PROGRAM (R342): Flash command that programs one word with ECC, started by the FL_DATA_HI write. -/
  | flProgram (hi : Word)
  /-- BITPROG (R342): Flash command that programs bits to 0 in a raw sector. -/
  | flBitprog (hi : Word)
  /-- ERASE (R345): Flash command that erases one sector under its flag cell. -/
  | flErase (addr : Word)
  /-- RDP_LOWER (R354): Flash command that runs the protection-lowering sequence. -/
  | flRdpLower (lo : Word)
  /-- RDP_LOWER_COMPLETE (R354): The RDP_LOWER erases end, SET is appended, and RDP_CHANGED is raised. -/
  | rdpLowerComplete
  /-- FLASH_PROGRAM_DONE (R344): A program completes with verify, or retires a worn sector. -/
  | flashProgramDone (verifyOk : Bool)
  /-- FLASH_ERASE_DONE (R345): An erase completes: the flag cell is cleared and DONE is set, or the sector is retired. -/
  | flashEraseDone (ok : Bool)
  /-- FL_SUSPEND (R346): A write of FL_CTRL.SUSPEND suspends a running erase. -/
  | flSuspend
  /-- FL_RESUME (R346): A write of FL_CTRL.RESUME resumes a suspended erase. -/
  | flResume
  /-- FLASH_READ_ACCESS (R338): At an access slot, the controller serves one read requester by round-robin and returns a corrected line. -/
  | flashReadAccess
  /-- AUTO_RESUME (R347): 2.0 us without a pending read resumes an auto-suspended erase. -/
  | autoResume
  /-- FLAG_REERASE (R348): After release, a sector with an unfinished-erase flag is re-erased. -/
  | flagReerase
  /-- POWER_ON_RESET (R399): PWRGOOD rises or brown-out ends: reset kind P starts the full start. -/
  | powerOnReset (st : StartInfo)
  /-- HOT_RST_PIN (R401): HOT_RST_n is read low for 800 consecutive STW cycles, and reset kind H starts. -/
  | hotRstPin
  /-- HOT_RST_RISE (R401): HOT_RST_n rises, and the full start after H begins. -/
  | hotRstRise (st : StartInfo)
  /-- THERMAL_TRIP (R396): A PMU sample above 125 C switches its die off. -/
  | thermalTrip (d : Die) (t : Int)
  /-- CORE_UNDERVOLTAGE (R399): VDD_COREd stays below 0.68 V for 1 us, and the die is switched off. -/
  | coreUndervoltage (d : Die)
  /-- VOLTAGE_GOVERNOR_STEP (R400): The governor sets a new VDD_COREd target, at most one step per 100 us, over AVSBus. -/
  | voltageGovernorStep (d : Die) (up ack : Bool)
  /-- PIN_EN_WRITE (R379): A write to PIN_EN changes which block owns each Steward pin. -/
  | pinEnWrite (v : Word)
  /-- GPIO_LOCK_KEY_WRITE (R382): A write to GPIO_LOCK_KEY advances or cancels the pin-lock sequence. -/
  | gpioLockKeyWrite (v : Word)
  /-- GPIO_LOCK_WRITE (R383): A write to GPIO_LOCK as step 3 locks the masked pins. -/
  | gpioLockWrite (v : Word)
  /-- PATTERN_MATCH_FIRE (R386): A pattern matcher's condition holds for DEB + 1 samples: it fires, interrupts, and may wake. -/
  | patternMatchFire (m : Fin 4) (levels : BitVec 32)
  /-- PIN_SHORT (R387): A pin mismatches continuously for 2 us, so its driver turns off. -/
  | pinShort (die : Option Die) (pin : Fin 32)
  /-- SHORT_CLEAR_WRITE (R387): A write of 1 to a GPIO_SHORT or UIO_SHORT bit re-enables the driver. -/
  | shortClearWrite (die : Option Die) (v : Word)
  /-- OPEN_TEST_GO (R388): A write of GO starts the open-wire test with a weak pull-up. -/
  | openTestGo (die : Option Die) (levels : BitVec 32)
  /-- OPEN_TEST_PULLDOWN (R388): After 100 us, the pin is sampled and a weak pull-down is applied. -/
  | openTestPulldown (die : Option Die) (levels : BitVec 32)
  /-- OPEN_TEST_DONE (R388): After 200 us, the pins are sampled, pulls are restored, and open pins are reported. -/
  | openTestDone (die : Option Die) (levels : BitVec 32)
  /-- BYPASS (R413): TAP instruction BYPASS. -/
  | tapBypass
  /-- IDCODE (R414): TAP instruction IDCODE. -/
  | tapIdcode
  /-- SAMPLE_PRELOAD (R416): TAP instruction SAMPLE/PRELOAD, gated. -/
  | tapSamplePreload
  /-- EXTEST (R416): TAP instruction EXTEST: holds every die in reset kind D. -/
  | tapExtest
  /-- EXTEST_PULSE (R416): TAP instruction EXTEST_PULSE. -/
  | tapExtestPulse
  /-- EXTEST_TRAIN (R416): TAP instruction EXTEST_TRAIN. -/
  | tapExtestTrain
  /-- CLAMP (R416): TAP instruction CLAMP. -/
  | tapClamp
  /-- HIGHZ (R416): TAP instruction HIGHZ. -/
  | tapHighz
  /-- TEST_LOGIC_RESET (R416): The TAP enters Test-Logic-Reset and every die is reloaded and released. -/
  | tapTestLogicReset
  /-- RC_READ (R13): A read of an RC field returns its value and clears it. -/
  | rcRead (src : Access) (addr : Word)
  /-- REGISTER_WRITE (R11): A write to a register with no row of its own acts by its fields' access codes. -/
  | registerWrite (src : Access) (addr v : Word)
  /-- ILLEGAL (R120): An engine executes an instruction with a reserved opcode 0x30-0x3F, such as a handler header word, and ends with fault ILLEGAL. -/
  | engIllegal (d : Die) (e : Eng)
  /-- DITCH_ENGINE_PUSH (R253): The engine network delivers a push from an engine's push buffer into the ditch's filling bank. -/
  | ditchEnginePush (d : Die) (q : Ditch)
  /-- ENGINE_PORT_FABRIC (R142): The fabric side of an engine port puts a word into the inward FIFO or takes one from the outward FIFO. -/
  | enginePortFabric (d : Die) (e : Eng) (push : Option Word)
  /-- ENTDAA (R302): An I3C ENTDAA from the bus controller assigns the target a dynamic address. -/
  | entdaa (addr : BitVec 7)
  /-- SETDASA (R302): An I3C SETDASA from the bus controller sets the target's dynamic address from its static address. -/
  | setdasa (static addr : BitVec 7)
  /-- NOTICE_DELIVERY_TIMEOUT (R319): An I3C in-band interrupt or SMBus transfer of a notice is not accepted within 1 ms, so the notice is counted lost for that host. -/
  | noticeDeliveryTimeout (h : HostId)
  /-- UNLISTED_OPCODE (R304): A command whose OPCODE Table 09-4 does not list arrives and is answered NOT_PRESENT with an empty payload. -/
  | unlistedOpcode (h : CmdHdr) (op : BitVec 16)
  /-- FL_CMD_WRITE (R342): A write to FL_CMD selects a command after the unlock, or relocks the controller with ERR = SEQ or ARG when it is locked or the code is reserved. -/
  | flCmdWrite (v : Word)
  /-- PWRGOOD_FALL (R399): PWRGOOD falls or VDD_STW drops below its brown-out threshold, so reset kind P acts and any flash or OTP operation may be cut short. -/
  | pwrgoodFall (word : Option (BitVec 64))
  deriving DecidableEq, Repr

end Sys2Proof
end

