-- ==== Sys2Proof/Machine/Routes.lean ====
section
/-! DEFINITION. The names of what the routing of a reach joins (06 R198, R216, R217, R224, R226): the sinks that take a word
or a bit, and the sources that give one. Which source a sink has is set by configuration frames, whose layout is not
published (R210). -/

namespace Sys2Proof

/-- A source of a word: an output of a cell, a word waypoint, the receiving waypoint of a word channel (edge 0 south, 1
north, 2 west, 3 east), or word `i` of the beat that a border unit presents. -/
inductive WordSrc where
  | o0 (col row : Nat)
  | o1 (col row : Nat)
  | way (i : Nat)
  | chan (edge n : Nat)
  | unit (port i : Nat)
  deriving DecidableEq, Repr

/-- A source of a bit: an output of a cell, a bit waypoint, the receiving waypoint of a bit channel, the valid, poison or idle
bit of a border unit, an input of a user pin (Q0, or Q1), or a ring oscillator. -/
inductive BitSrc where
  | p0 (col row : Nat)
  | p1 (col row : Nat)
  | z (col row : Nat)
  | f (col row : Nat)
  | co (col row : Nat)
  | way (i : Nat)
  | chan (edge n : Nat)
  | valid (port : Nat)
  | poison (port : Nat)
  | idle (port : Nat)
  | pin (p : Nat) (second : Bool)
  | osc (o : Nat)
  deriving DecidableEq, Repr

/-- What takes a routed word or bit: a word input i0 to i3 of a cell, a bit input b0 to b7, a phase input, the wire clock of
a cell, a waypoint, an outgoing channel, the data of a user pin (D0, or D1) or its output enable. -/
inductive Sink where
  | word (col row i : Nat)
  | bit (col row i : Nat)
  | phase (col row i : Nat)
  | clock (col row : Nat)
  | wayWord (i : Nat)
  | wayBit (i : Nat)
  | chanWord (edge n : Nat)
  | chanBit (edge n : Nat)
  | pinData (p : Nat) (second : Bool)
  | pinEnable (p : Nat)
  deriving DecidableEq, Repr

end Sys2Proof
end

