-- ==== Sys2Proof/Config.lean ====
section
/-! DEFINITION. What the spec leaves open as a value: constants without a body, so that nothing can be proved of the
value they give. A free value of a step is one of these applied to the step's own number, which State counts
(`State.draws`). -/

namespace Sys2Proof.Config

/-- A 32-bit value the spec leaves open, one for each draw. -/
opaque freeWord : Nat → BitVec 32

/-- A 64-bit value the spec leaves open, one for each draw. -/
opaque freeWord64 : Nat → BitVec 64

/-- The stepping of a die, Munirex's own (09 Table 09-4 GET_INFO; 13 R414): the spec gives no number. -/
opaque stepping : Nat → BitVec 8

/-- The Ixken version GET_INFO reports (09 Table 09-4): the spec gives no number. -/
opaque ixkenVersion : BitVec 32

/-! The cryptographic algorithms that the spec names and does not repeat. Octet strings are lists of byte values; a digest or a
MAC is a number whose byte 0 is the lowest. -/

/-- SHA-384 (08 R274; 11 R362, R368, R374, R375). -/
opaque sha384 : List Nat → BitVec 384

/-- Whether an ECDSA P-384 signature (R, S) of a digest verifies under a public key (QX, QY) (08 R274; 11 R374, R375). -/
opaque ecdsaOk : List Nat → List Nat → List Nat → List Nat → BitVec 384 → Bool

/-- AES-256-CMAC under a key of four words (08 R275). -/
opaque aesCmac : List (BitVec 64) → List Nat → BitVec 128

/-- Whether the bytes of a firmware copy pass the check against the Munirex firmware key hash of the boot ROM (09 R314, R332):
the layout of a copy and the key are not given. The argument is the copy's content as (address, byte) pairs. -/
opaque fwSigned : List Host.Cell → Bool

/-- Whether an image declares the user I/O bank of a die at 1.2 or 1.5 V (06 R225): the spec gives the declaration no place in
an image. The arguments are the image and the die. -/
opaque bankLow : List Nat → Nat → Bool

/-- The seal key words the entropy source fills in (11 R364). -/
opaque entropy : Nat → BitVec 64

/-- The 64 data bits a read returns of a codeword with an uncorrectable error (07 R242): the SECDED code is not published. -/
opaque eccRead : Nat → BitVec 64 → BitVec 64

/-- Whether a protocol opcode (PROTO, OPCODE) of the REQ channel names a read or an atomic that returns data (03 R435): the
opcodes are those of the protocol standards, which the spec does not repeat. -/
opaque opcodeReads : Nat → Nat → Bool

/-- Whether a PCIe opcode of the DAT channel names a completion (01 R45), likewise. -/
opaque opcodeCompletes : Nat → Bool

/-- The target bus number that a header holds in the place its standard gives it; none for a message that is not ID-routed
(01 R45): the standards' header layouts are not repeated in the spec. -/
opaque targetBus : BitVec 512 → Option (BitVec 8)

/-- What a configuration read of a word below 0x800 returns, by function number, role code, features in effect (one bit
each, in the order of `Feature`), word, and the value last written there (01 R28): the headers and capability structures are
those of the standards. -/
opaque cfgRead : Nat → Nat → Nat → Nat → BitVec 32 → BitVec 32

/-- What a configuration write leaves in a word, by function number, role code, word, the value held, and the request's
header and data beat (01 R28): which bits are writable, and the byte enables, are those of the standards. -/
opaque cfgWrite : Nat → Nat → Nat → BitVec 32 → BitVec 512 → BitVec 512 → BitVec 32

/-- The word at which the Munirex DVSEC begins in the configuration space of a role (01 R26), and its revision (R24). -/
opaque dvsecAt : Nat → Nat
opaque dvsecRev : BitVec 4

/-- Posted stores that an engine's send credit admits to the banks of its own die, less one (03 R114): the spec gives no
number. -/
opaque bankCredits : Nat

/-- The Munirex vendor ID (01 R24; 09 R299), and the revision ID of the Steward function. -/
opaque vendorId : BitVec 16
opaque functionRev : BitVec 8

/-- The word at which the MSI-X capability of the Steward function begins (09 R299), and the pointer to the next capability
in it. -/
opaque msixAt : Nat
opaque msixNext : BitVec 8

/-! What the configuration frames of a reach set, beside its instruction entries (06 R210): the layout of these frames is not
published. The first argument is the reach's frames 240 to 1,279 as the active plane holds them, as (place, byte) pairs. -/

/-- The source of a word sink, none where nothing is routed to it, and what an unrouted sink then reads. -/
opaque wordRoute : List Host.Cell → Sink → Option WordSrc
opaque openWord : List Host.Cell → Sink → BitVec 16

/-- The source of a bit sink, none where nothing is routed to it, and what an unrouted sink then reads. -/
opaque bitRoute : List Host.Cell → Sink → Option BitSrc
opaque openBit : List Host.Cell → Sink → Bool

/-- The truth table of LUT 0 or 1 of a cell, by column and row, and whether its output is registered (R201). -/
opaque lutTable : List Host.Cell → Nat → Nat → Nat → BitVec 64
opaque lutRegistered : List Host.Cell → Nat → Nat → Nat → Bool

/-- The phase source of a cell is the routed phase (R207). -/
opaque phaseRouted : List Host.Cell → Nat → Nat → Bool

/-- The word waypoints and the bit waypoints in use (R216). -/
opaque wordWays : List Host.Cell → List Nat
opaque bitWays : List Host.Cell → List Nat

/-- The latch code of an outgoing word channel (`true`) or bit channel, by edge and number, and the idle word of an edge (08
R291). -/
opaque latchCode : List Host.Cell → Bool → Nat → Nat → BitVec 3
opaque idleWord : List Host.Cell → Nat → BitVec 16

/-- The level of an enabled ring oscillator's output, by die, oscillator and FLIT cycle (R229). -/
opaque oscLevel : Nat → Nat → Nat → Bool

/-- The frequency of the clock at a clock-capable input of a die (REFSEL 0 to 2), in kHz above 10 MHz (R220); what the board
drives there is not the device's. -/
opaque pinClock : Nat → Nat → Nat

/-- The level that a serial port, or on the Steward die (15) an SPI, I3C/SMBus, AVSBus or UART block, drives at a pin of its
own, by die, pin and FLIT cycle (R230; 12 Table 12-1): transfers are not modelled symbol by symbol. -/
opaque serialLevel : Nat → Nat → Nat → Bool

end Sys2Proof.Config
end

