-- ==== Sys2Proof/Machine/Bits.lean ====
section
/-! DEFINITION. Bit fields of words, and the plain number operations the families share. -/

namespace Sys2Proof.Machine

/-- A bit field: bits lo+width-1 .. lo. -/
structure Fld where
  lo    : Nat
  width : Nat
  deriving DecidableEq, Repr

/-- The field of a number. -/
def Fld.ofNat (f : Fld) (n : Nat) : Nat := n / 2 ^ f.lo % 2 ^ f.width

/-- A number with the field replaced by `v` (its low `width` bits). -/
def Fld.inNat (f : Fld) (n v : Nat) : Nat :=
  n % 2 ^ f.lo + v % 2 ^ f.width * 2 ^ f.lo + n / 2 ^ (f.lo + f.width) * 2 ^ (f.lo + f.width)

/-- The field of a bit vector. -/
def Fld.get {n : Nat} (f : Fld) (w : BitVec n) : Nat := f.ofNat w.toNat

/-- A bit vector with the field replaced. -/
def Fld.put {n : Nat} (f : Fld) (w : BitVec n) (v : Nat) : BitVec n := BitVec.ofNat n (f.inNat w.toNat v)

/-- The field read as a flag. -/
def Fld.bit {n : Nat} (f : Fld) (w : BitVec n) : Bool := f.get w ≠ 0

/-- The mask of the bits of the field. -/
def Fld.mask (f : Fld) : Nat := (2 ^ f.width - 1) * 2 ^ f.lo

/-- Saturating addition at the field's width (the saturating counters of the register tables). -/
def Fld.satAdd {n : Nat} (f : Fld) (w : BitVec n) (k : Nat) : BitVec n :=
  f.put w (min (f.get w + k) (2 ^ f.width - 1))

/-- 0 or 1. -/
def b2n (b : Bool) : Nat := if b then 1 else 0

/-- The signed value of the low `n` bits of a number. -/
def signedOf (n x : Nat) : Int :=
  let y := x % 2 ^ n
  if y < 2 ^ (n - 1) then y else (y : Int) - 2 ^ n

/-- The low `n` bits of an integer (two's complement). -/
def wrapInt (n : Nat) (x : Int) : Nat := (x % (2 ^ n : Nat)).toNat

/-- Ceiling of a division. -/
def ceilDiv (a b : Nat) : Nat := (a + b - 1) / b

/-- Bit `i` of a number. -/
def bitOf (x i : Nat) : Bool := x / 2 ^ i % 2 == 1

/-- A number with bit `i` set, or cleared. -/
def setBitN (x i : Nat) : Nat := if bitOf x i then x else x + 2 ^ i
def clrBitN (x i : Nat) : Nat := if bitOf x i then x - 2 ^ i else x

/-- One-bits among the low `n` bits of a number. -/
def popCount : Nat → Nat → Nat
  | 0, _ => 0
  | n + 1, x => x % 2 + popCount n (x / 2)

/-- The indexes below `n` whose bit is set, ascending. -/
def bitsOf (n x : Nat) : List Nat := (List.range n).filter (bitOf x)

/-- Fold of the `k`-bit groups of a number by exclusive or, over `m` groups (02 R65). -/
def foldXor (k : Nat) : Nat → Nat → Nat
  | 0, _ => 0
  | m + 1, x => x % 2 ^ k ^^^ foldXor k m (x / 2 ^ k)

/-- Parity of the one-bits of a number's low `n` bits. -/
def parityOf (n x : Nat) : Nat := popCount n x % 2

/-- One bit of CRC-32C (08 R268), least significant bit first. -/
def crcBit (c : Nat) : Nat := if c % 2 == 1 then c / 2 ^^^ 0x82F63B78 else c / 2

/-- One byte of CRC-32C. -/
def crcByte (c b : Nat) : Nat := crcBit (crcBit (crcBit (crcBit (crcBit (crcBit (crcBit (crcBit (c ^^^ b % 256))))))))

/-- CRC-32C (Castagnoli) of a list of bytes (08 R268). -/
def crc32c (bs : List Nat) : Nat := bs.foldl crcByte 0xFFFFFFFF ^^^ 0xFFFFFFFF

/-- The low `n` bytes of a number, little-endian. -/
def leNats : Nat → Nat → List Nat
  | 0, _ => []
  | n + 1, v => v % 256 :: leNats n (v / 256)

/-- The low `n` bytes of a number as bytes of a message. -/
def leBytes (n v : Nat) : List (BitVec 8) := (leNats n v).map (BitVec.ofNat 8)

/-- A little-endian number. -/
def fromLE : List (BitVec 8) → Nat
  | [] => 0
  | b :: bs => b.toNat + 256 * fromLE bs

end Sys2Proof.Machine
end

