-- ==== Sys2Proof/Machine/Store.lean ====
section
/-! DEFINITION. Sparse storage by number: a list of (key, value) pairs with keys strictly rising, in which a key that is
not listed reads as a default and no listed value equals it. Registers, memories and per-unit records are held so. -/

namespace Sys2Proof.Machine

/-- A sparse map from numbers. -/
abbrev SMap (α : Type) := List (Nat × α)

variable {α : Type}

/-- The listed value of a key. -/
def SMap.find (m : SMap α) (k : Nat) : Option α :=
  match m with
  | [] => none
  | (k', v) :: r => if k' = k then some v else SMap.find r k

/-- The value of a key, `dflt` where none is listed. -/
def SMap.get (dflt : α) (m : SMap α) (k : Nat) : α := (SMap.find m k).getD dflt

/-- Lists `v` at key `k`, in key order. -/
def SMap.put (m : SMap α) (k : Nat) (v : α) : SMap α :=
  match m with
  | [] => [(k, v)]
  | (k', v') :: r =>
    if k' = k then (k, v) :: r else if k' < k then (k', v') :: SMap.put r k v else (k, v) :: (k', v') :: r

/-- Removes a key. -/
def SMap.erase (m : SMap α) (k : Nat) : SMap α := m.filter (fun e => e.1 ≠ k)

/-- Writes `v` at key `k`, keeping the canonical form: a value equal to the default removes the entry. -/
def SMap.set [DecidableEq α] (dflt : α) (m : SMap α) (k : Nat) (v : α) : SMap α :=
  if v = dflt then SMap.erase m k else SMap.put m k v

/-- Rewrites every listed value, dropping what becomes the default. -/
def SMap.mapVals [DecidableEq α] (dflt : Nat → α) (f : Nat → α → α) (m : SMap α) : SMap α :=
  (m.map (fun e => (e.1, f e.1 e.2))).filter (fun e => e.2 ≠ dflt e.1)

/-- Drops the entries whose key meets a test. -/
def SMap.drop (p : Nat → Bool) (m : SMap α) : SMap α := m.filter (fun e => !p e.1)

/-- The canonical form: keys strictly rising, no value equal to what an unlisted key reads as. -/
def SMap.wf [DecidableEq α] (dflt : Nat → α) : SMap α → Bool
  | [] => true
  | [(k, v)] => v ≠ dflt k
  | (k, v) :: (k', v') :: r => v ≠ dflt k && k < k' && SMap.wf dflt ((k', v') :: r)

/-- A byte memory (Host.Cell), in the canonical form of `SMap.wf`. -/
abbrev Memory := List Host.Cell

/-- The canonical form of a memory in which an unlisted byte reads as `d`. -/
def Memory.wf (d : Byte) (m : Memory) : Bool := SMap.wf (fun _ => d) m

/-- Reads one byte. -/
def Memory.read (d : Byte) (m : Memory) (a : Nat) : Byte := SMap.get d m a

/-- Writes one byte. -/
def Memory.write (d : Byte) (m : Memory) (a : Nat) (b : Byte) : Memory := SMap.set d m a b

/-- Reads `n` bytes from `a` as one little-endian number. -/
def Memory.readLE (d : Byte) (m : Memory) (a : Nat) : Nat → Nat
  | 0 => 0
  | n + 1 => (Memory.read d m a).toNat + 256 * Memory.readLE d m (a + 1) n

/-- Writes the low `n` bytes of `v` at `a`, little-endian. -/
def Memory.writeLE (d : Byte) (m : Memory) (a : Nat) : Nat → Nat → Memory
  | 0, _ => m
  | n + 1, v => Memory.writeLE d (Memory.write d m a (BitVec.ofNat 8 v)) (a + 1) n (v / 256)

end Sys2Proof.Machine
end

