-- ==== Sys2Proof/Machine/Message.lean ====
section
/-! DEFINITION. Internal messages: the fields of the header beat, what a message name implies, and the replies that hard
units form. -/

namespace Sys2Proof

open Sys2Proof.Machine

/-! ## Internal message headers (03 Table 03-5): fields by bit position in the 512-bit header -/

def Hd.vc : Fld := ⟨0, 3⟩
def Hd.beats : Fld := ⟨3, 4⟩
def Hd.hc : Fld := ⟨7, 2⟩
def Hd.proto : Fld := ⟨9, 2⟩
def Hd.port : Fld := ⟨11, 6⟩
def Hd.stamped : Fld := ⟨17, 1⟩
def Hd.needRsp : Fld := ⟨18, 1⟩
def Hd.poison : Fld := ⟨19, 8⟩
def Hd.ms24 : Fld := ⟨32, 24⟩
def Hd.srcDie : Fld := ⟨56, 3⟩
def Hd.srcIdx : Fld := ⟨64, 7⟩
def Hd.epoch : Fld := ⟨71, 6⟩
def Hd.dkind : Fld := ⟨77, 3⟩
def Hd.xtag : Fld := ⟨80, 16⟩
def Hd.dest : Fld := ⟨96, 32⟩
def Hd.destPort : Fld := ⟨96, 6⟩
def Hd.destDie : Fld := ⟨96, 3⟩
def Hd.destSlot : Fld := ⟨99, 10⟩
def Hd.destFlag : Fld := ⟨109, 5⟩
def Hd.destRoute : Fld := ⟨96, 3⟩
def Hd.destBank : Fld := ⟨99, 3⟩
def Hd.destKind : Fld := ⟨96, 3⟩
def Hd.destIdx : Fld := ⟨99, 7⟩
def Hd.opcode : Fld := ⟨128, 16⟩
def Hd.len : Fld := ⟨144, 13⟩
def Hd.addrLo : Fld := ⟨160, 32⟩
def Hd.addrHi : Fld := ⟨192, 20⟩
def Hd.addr : Fld := ⟨160, 52⟩
def Hd.spid : Fld := ⟨212, 12⟩
def Hd.dpid : Fld := ⟨224, 12⟩
def Hd.ldid : Fld := ⟨236, 4⟩
def Hd.rid : Fld := ⟨240, 16⟩
def Hd.ptag : Fld := ⟨256, 14⟩
def Hd.tc : Fld := ⟨278, 3⟩
def Hd.entry : Fld := ⟨288, 64⟩
def Hd.commitMs : Fld := ⟨352, 64⟩
def Hd.status : Fld := ⟨416, 8⟩

def Msg.g (m : Msg) (f : Fld) : Nat := f.get m.hdr
def Msg.w (m : Msg) (f : Fld) (v : Nat) : Msg := { m with hdr := f.put m.hdr v }

/-- The bits of header words 0, 1, 4 and 8 that Table 03-5 names; every other word is named whole. -/
def hdrMask : BitVec 512 := BitVec.ofNat 512
  (2 ^ 512 - 1 - (0xF8000000 + 0xF8000000 * 2 ^ 32 + 0xE0000000 * 2 ^ 128 + 0xFE000000 * 2 ^ 256))

/-- A header whose unnamed bits read 0 (03 R117). -/
def Msg.named (m : Msg) : Msg := { m with hdr := m.hdr &&& hdrMask }

/-- A message with header 0 and no data. -/
def Msg.blank : Msg :=
  { hdr := 0, beats := [], name := .internal, metaV := .none, bus := none, keep := false, dirty := false }

/-- The VC code of Table 03-5. -/
def Vc.code : Vc → Nat
  | .req => 0 | .rsp => 1 | .snp => 2 | .dat => 3 | .esc => 4

def Vc.ofCode : Nat → Vc
  | 0 => .req | 1 => .rsp | 2 => .snp | 3 => .dat | _ => .esc

/-- Beats of a message on a link: the header beat and its data beats (01 R34). -/
def Msg.size (m : Msg) : Nat := 1 + m.beats.length

/-- Any data beat is poisoned. -/
def Msg.poisoned (m : Msg) : Bool := m.g Hd.poison ≠ 0

/-- A link request its standard answers: PCIe and CXL.io non-posted requests, and CXL.cache and CXL.mem requests (01
R46; 03 R127). -/
def PName.answered : PName → Bool
  | .ioRead | .ioWriteNp | .ioAtomic | .cfgRead | .cfgWrite | .cfgFwdRead | .cfgFwdWrite
  | .rdShared | .rdOwn | .rdOwnNoData | .rdCurr | .itoMWr | .wrInv | .cleanEvict | .dirtyEvict | .cacheReqH2D
  | .memRd | .memRdData | .memInv | .memWr | .memReqOther | .memRwDOther => true
  | _ => false

/-- A request of its protocol that reads data (03 R435). -/
def PName.reads : PName → Bool
  | .ioRead | .ioAtomic | .cfgRead | .cfgFwdRead | .rdShared | .rdOwn | .rdCurr | .memRd | .memRdData => true
  | _ => false

/-- The PROTO code of a name (01 Table 01-8). -/
def PName.proto : PName → Nat
  | .ioRead | .ioWriteNp | .ioAtomic | .cfgRead | .cfgWrite | .cfgFwdRead | .cfgFwdWrite | .ioPosted | .ioCpl
  | .ioCplD => 0
  | .rdShared | .rdOwn | .rdOwnNoData | .rdCurr | .itoMWr | .wrInv | .cleanEvict | .dirtyEvict | .cacheReqH2D
  | .cacheSnp | .cacheRsp | .cacheData => 1
  | .memRd | .memRdData | .memInv | .memWr | .memReqOther | .memNdr | .memDrs | .biSnp | .biRsp | .memRwDOther => 2
  | .vendor | .terminated | .mctpVdm => 3
  | .internal | .escDown | .escAccept | .escRelease | .escWake | .escAbort | .bankAcc | .csrAcc => 0

/-- The virtual channel of a name (01 Table 01-6). -/
def PName.vc : PName → Vc
  | .ioRead | .ioWriteNp | .ioAtomic | .cfgRead | .cfgWrite | .cfgFwdRead | .cfgFwdWrite
  | .rdShared | .rdOwn | .rdOwnNoData | .rdCurr | .itoMWr | .wrInv | .cleanEvict | .dirtyEvict | .cacheReqH2D
  | .memRd | .memRdData | .memInv | .memReqOther => .req
  | .ioCpl | .cacheRsp | .memNdr | .biRsp => .rsp
  | .cacheSnp | .biSnp => .snp
  | .memWr | .cacheData | .memDrs | .memRwDOther | .ioPosted | .ioCplD | .vendor => .dat
  | .internal | .terminated | .mctpVdm | .bankAcc | .csrAcc => .req
  | .escDown | .escAccept | .escRelease | .escWake | .escAbort => .esc

/-- A response of its protocol, which may pair with a request of the device (03 R126). -/
def PName.responds : PName → Bool
  | .ioCpl | .ioCplD | .cacheRsp | .cacheData | .memNdr | .memDrs | .biRsp => true
  | _ => false

/-- A message asks for data of its protocol: a named link request that reads, or a request an engine composed whose opcode
is that of a read (a free value, log entry 2). -/
def Msg.reads (m : Msg) : Bool :=
  m.name.reads ||
    (m.name == .internal && m.g Hd.vc == 0 && Config.opcodeReads (m.g Hd.proto) (m.g Hd.opcode))

/-- Operations of a bank or CSR access by message (log entry 105): the OPCODE field. -/
def Uop.read : Nat := 0
def Uop.write : Nat := 1
def Uop.fetchAdd : Nat := 2
def Uop.swap : Nat := 3

/-- A bank or CSR access by message. -/
def Msg.unitAcc (m : Msg) : Bool := m.name == .bankAcc || m.name == .csrAcc

/-- The expected data beats of a request, counted from the request alone (03 R435). -/
def Msg.expected (m : Msg) : Nat :=
  if m.unitAcc then (if m.g Hd.opcode == Uop.write then 0 else 1)
  else if m.g Hd.dkind == 3 then (if m.g Hd.destKind ≤ 2 then 1 else 0)
  else if m.reads && m.g Hd.len ≠ 0 then min (ceilDiv (m.g Hd.len) 64) 8
  else 0

/-- The low `n` ones. -/
def ones (n : Nat) : Nat := 2 ^ n - 1

/-- A DKIND 4 reply in place of the target (03 R435): to the sender of `m`, from the unit (die, index), with a status and
the expected data beats, each poisoned; on DAT when it has data, on RSP otherwise. -/
def Msg.replyTo (m : Msg) (die idx status : Nat) : Msg :=
  let n := m.expected
  let r := { Msg.blank with beats := List.replicate n 0 }
  let r := (r.w Hd.vc (if n == 0 then 1 else 3)).w Hd.beats n
  let r := (r.w Hd.poison (ones n)).w Hd.dkind 4
  let r := (r.w Hd.srcDie die).w Hd.srcIdx idx
  let r := (r.w Hd.destDie (m.g Hd.srcDie)).w Hd.destIdx (m.g Hd.srcIdx)
  (r.w Hd.xtag (m.g Hd.xtag)).w Hd.status status

/-- The reply of a unit to an access by message: its value in one data beat for a read, on DAT, and no data for a write,
on RSP. -/
def Msg.unitReply (m : Msg) (die idx status : Nat) (value : Option (BitVec 64 × Bool)) : Msg :=
  let r := { Msg.blank with beats := (value.map (fun (v : BitVec 64 × Bool) => v.1.setWidth 512)).toList }
  let r := (r.w Hd.vc (if value.isSome then 3 else 1)).w Hd.beats value.toList.length
  let r := (r.w Hd.poison (b2n (value.any (fun (v : BitVec 64 × Bool) => v.2)))).w Hd.dkind 4
  let r := (r.w Hd.srcDie die).w Hd.srcIdx idx
  let r := (r.w Hd.destDie (m.g Hd.srcDie)).w Hd.destIdx (m.g Hd.srcIdx)
  (r.w Hd.xtag (m.g Hd.xtag)).w Hd.status status

/-- The original message returned to its sender as a DKIND 4 reply (03 R126; 04 R157, R165): its own content and beats,
on DAT when it has data beats and on RSP otherwise. -/
def Msg.returned (m : Msg) (die status : Nat) : Msg :=
  let r := (m.w Hd.vc (if m.beats.isEmpty then 1 else 3)).w Hd.dkind 4
  let r := (r.w Hd.destDie (m.g Hd.srcDie)).w Hd.destIdx (m.g Hd.srcIdx)
  ((r.w Hd.srcDie die).w Hd.srcIdx 73).w Hd.status status

/-- The successful completion of a configuration request (01 R28): a read returns 0 on DAT, a write completes on RSP. -/
def Msg.cfgDone (m : Msg) (d : Nat) : Msg :=
  let read := m.name == .cfgRead
  let r := { Msg.blank with beats := if read then [0] else [], name := if read then .ioCplD else .ioCpl }
  let r := (r.w Hd.vc (if read then 3 else 1)).w Hd.beats (if read then 1 else 0)
  let r := ((r.w Hd.srcDie d).w Hd.srcIdx 73).w Hd.destPort (m.g Hd.port)
  (((r.w Hd.len (if read then m.g Hd.len else 0)).w Hd.ptag (m.g Hd.ptag)).w Hd.rid (m.g Hd.rid)).w Hd.tc (m.g Hd.tc)

/-! ## Status codes (09 Table 09-3) -/

def St.ok : Nat := 0
def St.refused : Nat := 1
def St.busy : Nat := 2
def St.badArgument : Nat := 3
def St.notPresent : Nat := 4
def St.timeout : Nat := 5
def St.aborted : Nat := 6
def St.alreadyDone : Nat := 7
def St.integrityFail : Nat := 8
def St.worn : Nat := 9
def St.misrouted : Nat := 10

end Sys2Proof
end

