-- ==== Sys2Proof/Machine/Regs.lean ====
section
/-! DEFINITION. The register tables of the spec: one `RegRow` for every register caption of files 01 to 13, with its
fields, access codes (00 R11), reset values and reset kinds (00 R12), an address function and a name for every field.
A value the spec writes as "option area", "scan", "log", "table", "boot ROM", "strap" or "OTP decode" stands here at
its default of 10 R358 or at zero; the start sequence writes the real one (log entry 3). -/

namespace Sys2Proof.Machine

/-- The access codes of 00 Table 00-5. -/
inductive Acc where
  | ro | rw | wo | w1c | w1s | rc | rwl
  deriving DecidableEq, Repr

/-- The reset kinds of 00 Table 00-6. -/
inductive Kind where
  /-- POR -/
  | p
  /-- PERST_n of one port -/
  | g
  /-- HOT -/
  | h
  /-- one logic die -/
  | d
  /-- one reach -/
  | q
  /-- one engine -/
  | e
  /-- Steward watchdog -/
  | s
  /-- towpath-propagated -/
  | t
  deriving DecidableEq, Repr

/-- One field of a register's field table. -/
structure RegField where
  fld   : Fld
  acc   : Acc
  reset : Nat
  clr   : List Kind
  deriving DecidableEq, Repr

/-- One register caption: the offset of its first register in the 28 low address bits, its index dimensions
(count, stride), outermost first, and its fields. -/
structure RegRow where
  base   : Nat
  dims   : List (Nat × Nat)
  fields : List RegField
  deriving DecidableEq, Repr

/-- A CSR address: die digit in bits [31:28] (00 R9); the Steward is 0xF. -/
def csrAddr (d off : Nat) : Nat := d * 0x10000000 + off

/-- The die digit of the Steward die (00 R9). -/
def stw : Nat := 15

/-- GW_MODE, 01_flit_path.md. -/
def Csr.gwMode (d g : Nat) : Nat := csrAddr d (0x0000000 + 0x1000000 * g)
def GwMode.bif : Fld := ⟨0, 2⟩
def GwMode.spEn : Fld := ⟨2, 4⟩
def GwMode.maxRate : Fld := ⟨6, 3⟩
def GwMode.xrateEn : Fld := ⟨9, 1⟩
def GwMode.sris : Fld := ⟨10, 1⟩
def GwMode.l1En : Fld := ⟨11, 1⟩
def Rg.gwMode : RegRow := ⟨0x0000000, [(2, 0x1000000)], [
    ⟨GwMode.bif, .rw, 0, [.p, .h, .d]⟩,
    ⟨GwMode.spEn, .rw, 0, [.p, .h, .d]⟩,
    ⟨GwMode.maxRate, .rw, 5, [.p, .h, .d]⟩,
    ⟨GwMode.xrateEn, .rw, 0, [.p, .h, .d]⟩,
    ⟨GwMode.sris, .rw, 0, [.p, .h, .d]⟩,
    ⟨GwMode.l1En, .rw, 0, [.p, .h, .d]⟩]⟩

/-- GW_ROLE, 01_flit_path.md. -/
def Csr.gwRole (d g : Nat) : Nat := csrAddr d (0x0000004 + 0x1000000 * g)
def GwRole.role : Fld := ⟨0, 16⟩
def GwRole.vgrp : Fld := ⟨16, 16⟩
def Rg.gwRole : RegRow := ⟨0x0000004, [(2, 0x1000000)], [
    ⟨GwRole.role, .rw, 0, [.p, .h, .d]⟩,
    ⟨GwRole.vgrp, .rw, 0, [.p, .h, .d]⟩]⟩

/-- GW_REPLAY_THR, 01_flit_path.md. -/
def Csr.gwReplayThr (d g : Nat) : Nat := csrAddr d (0x0000010 + 0x1000000 * g)
def GwReplayThr.thr : Fld := ⟨0, 16⟩
def Rg.gwReplayThr : RegRow := ⟨0x0000010, [(2, 0x1000000)], [
    ⟨GwReplayThr.thr, .rw, 0x10, [.p, .h, .d]⟩]⟩

/-- GW_LINK_STS, 01_flit_path.md. -/
def Csr.gwLinkSts (d g s : Nat) : Nat := csrAddr d (0x0000100 + 0x1000000 * g + 0x20 * s)
def GwLinkSts.ltssm : Fld := ⟨0, 6⟩
def GwLinkSts.rate : Fld := ⟨6, 3⟩
def GwLinkSts.width : Fld := ⟨9, 4⟩
def GwLinkSts.reversed : Fld := ⟨13, 1⟩
def GwLinkSts.pol : Fld := ⟨14, 8⟩
def GwLinkSts.flit : Fld := ⟨22, 1⟩
def GwLinkSts.xrate : Fld := ⟨23, 1⟩
def GwLinkSts.cxl : Fld := ⟨24, 1⟩
def GwLinkSts.up : Fld := ⟨25, 1⟩
def Rg.gwLinkSts : RegRow := ⟨0x0000100, [(2, 0x1000000), (4, 0x20)], [
    ⟨GwLinkSts.ltssm, .ro, 0, [.p, .h, .d, .g]⟩,
    ⟨GwLinkSts.rate, .ro, 0, [.p, .h, .d, .g]⟩,
    ⟨GwLinkSts.width, .ro, 0, [.p, .h, .d, .g]⟩,
    ⟨GwLinkSts.reversed, .ro, 0, [.p, .h, .d, .g]⟩,
    ⟨GwLinkSts.pol, .ro, 0, [.p, .h, .d, .g]⟩,
    ⟨GwLinkSts.flit, .ro, 0, [.p, .h, .d, .g]⟩,
    ⟨GwLinkSts.xrate, .ro, 0, [.p, .h, .d, .g]⟩,
    ⟨GwLinkSts.cxl, .ro, 0, [.p, .h, .d, .g]⟩,
    ⟨GwLinkSts.up, .ro, 0, [.p, .h, .d, .g]⟩]⟩

/-- GW_ERR, 01_flit_path.md. -/
def Csr.gwErr (d g s : Nat) : Nat := csrAddr d (0x0000104 + 0x1000000 * g + 0x20 * s)
def GwErr.fecUncorr : Fld := ⟨0, 1⟩
def GwErr.replayThr : Fld := ⟨1, 1⟩
def GwErr.degrade : Fld := ⟨2, 1⟩
def GwErr.linkDown : Fld := ⟨3, 1⟩
def GwErr.poisonRx : Fld := ⟨4, 1⟩
def GwErr.xrateFb : Fld := ⟨5, 1⟩
def GwErr.flitAbsent : Fld := ⟨6, 1⟩
def GwErr.routeMiss : Fld := ⟨7, 1⟩
def GwErr.viral : Fld := ⟨8, 1⟩
def Rg.gwErr : RegRow := ⟨0x0000104, [(2, 0x1000000), (4, 0x20)], [
    ⟨GwErr.fecUncorr, .w1c, 0, [.p, .h, .d, .g]⟩,
    ⟨GwErr.replayThr, .w1c, 0, [.p, .h, .d, .g]⟩,
    ⟨GwErr.degrade, .w1c, 0, [.p, .h, .d, .g]⟩,
    ⟨GwErr.linkDown, .w1c, 0, [.p, .h, .d]⟩,
    ⟨GwErr.poisonRx, .w1c, 0, [.p, .h, .d, .g]⟩,
    ⟨GwErr.xrateFb, .w1c, 0, [.p, .h, .d, .g]⟩,
    ⟨GwErr.flitAbsent, .w1c, 0, [.p, .h, .d, .g]⟩,
    ⟨GwErr.routeMiss, .w1c, 0, [.p, .h, .d, .g]⟩,
    ⟨GwErr.viral, .w1c, 0, [.p, .h, .d, .g]⟩]⟩

/-- GW_CNT, 01_flit_path.md. -/
def Csr.gwCnt (d g s : Nat) : Nat := csrAddr d (0x0000108 + 0x1000000 * g + 0x20 * s)
def GwCnt.replays : Fld := ⟨0, 16⟩
def GwCnt.fecCorr : Fld := ⟨16, 16⟩
def Rg.gwCnt : RegRow := ⟨0x0000108, [(2, 0x1000000), (4, 0x20)], [
    ⟨GwCnt.replays, .rc, 0, [.p, .h, .d, .g]⟩,
    ⟨GwCnt.fecCorr, .rc, 0, [.p, .h, .d, .g]⟩]⟩

/-- GW_POISON_CNT, 01_flit_path.md. -/
def Csr.gwPoisonCnt (d g s : Nat) : Nat := csrAddr d (0x000010C + 0x1000000 * g + 0x20 * s)
def GwPoisonCnt.count : Fld := ⟨0, 32⟩
def Rg.gwPoisonCnt : RegRow := ⟨0x000010C, [(2, 0x1000000), (4, 0x20)], [
    ⟨GwPoisonCnt.count, .rc, 0, [.p, .h, .d, .g]⟩]⟩

/-- HG_MATCH_VAL, 01_flit_path.md. -/
def Csr.hgMatchVal (d k i : Nat) : Nat := csrAddr d (0x2000000 + 0x400 * k + 0x10 * i)
def HgMatchVal.val : Fld := ⟨0, 32⟩
def Rg.hgMatchVal : RegRow := ⟨0x2000000, [(8, 0x400), (16, 0x10)], [
    ⟨HgMatchVal.val, .rw, 0, [.p, .h, .d]⟩]⟩

/-- HG_MATCH_MASK, 01_flit_path.md. -/
def Csr.hgMatchMask (d k i : Nat) : Nat := csrAddr d (0x2000004 + 0x400 * k + 0x10 * i)
def HgMatchMask.mask : Fld := ⟨0, 32⟩
def Rg.hgMatchMask : RegRow := ⟨0x2000004, [(8, 0x400), (16, 0x10)], [
    ⟨HgMatchMask.mask, .rw, 0, [.p, .h, .d]⟩]⟩

/-- HG_MATCH_ACT, 01_flit_path.md. -/
def Csr.hgMatchAct (d k i : Nat) : Nat := csrAddr d (0x2000008 + 0x400 * k + 0x10 * i)
def HgMatchAct.en : Fld := ⟨0, 1⟩
def HgMatchAct.cls : Fld := ⟨1, 2⟩
def HgMatchAct.route : Fld := ⟨3, 3⟩
def HgMatchAct.bank : Fld := ⟨6, 3⟩
def HgMatchAct.slot : Fld := ⟨9, 10⟩
def HgMatchAct.flag : Fld := ⟨19, 5⟩
def Rg.hgMatchAct : RegRow := ⟨0x2000008, [(8, 0x400), (16, 0x10)], [
    ⟨HgMatchAct.en, .rw, 0, [.p, .h, .d]⟩,
    ⟨HgMatchAct.cls, .rw, 0, [.p, .h, .d]⟩,
    ⟨HgMatchAct.route, .rw, 0, [.p, .h, .d]⟩,
    ⟨HgMatchAct.bank, .rw, 0, [.p, .h, .d]⟩,
    ⟨HgMatchAct.slot, .rw, 0, [.p, .h, .d]⟩,
    ⟨HgMatchAct.flag, .rw, 0, [.p, .h, .d]⟩]⟩

/-- HG_DEFAULT, 01_flit_path.md. -/
def Csr.hgDefault (d k : Nat) : Nat := csrAddr d (0x2000144 + 0x400 * k)
def HgDefault.en : Fld := ⟨0, 1⟩
def HgDefault.cls : Fld := ⟨1, 2⟩
def HgDefault.route : Fld := ⟨3, 3⟩
def HgDefault.bank : Fld := ⟨6, 3⟩
def HgDefault.slot : Fld := ⟨9, 10⟩
def HgDefault.flag : Fld := ⟨19, 5⟩
def Rg.hgDefault : RegRow := ⟨0x2000144, [(8, 0x400)], [
    ⟨HgDefault.en, .rw, 0, [.p, .h, .d]⟩,
    ⟨HgDefault.cls, .rw, 0, [.p, .h, .d]⟩,
    ⟨HgDefault.route, .rw, 0, [.p, .h, .d]⟩,
    ⟨HgDefault.bank, .rw, 0, [.p, .h, .d]⟩,
    ⟨HgDefault.slot, .rw, 0, [.p, .h, .d]⟩,
    ⟨HgDefault.flag, .rw, 0, [.p, .h, .d]⟩]⟩

/-- HG_METER, 01_flit_path.md. -/
def Csr.hgMeter (d k c : Nat) : Nat := csrAddr d (0x2000100 + 0x400 * k + 0x8 * c)
def HgMeter.rate : Fld := ⟨0, 16⟩
def HgMeter.burst : Fld := ⟨16, 12⟩
def HgMeter.meterEn : Fld := ⟨31, 1⟩
def Rg.hgMeter : RegRow := ⟨0x2000100, [(8, 0x400), (4, 0x8)], [
    ⟨HgMeter.rate, .rw, 0, [.p, .h, .d]⟩,
    ⟨HgMeter.burst, .rw, 0x40, [.p, .h, .d]⟩,
    ⟨HgMeter.meterEn, .rw, 0, [.p, .h, .d]⟩]⟩

/-- HG_BUCKET, 01_flit_path.md. -/
def Csr.hgBucket (d k c : Nat) : Nat := csrAddr d (0x2000104 + 0x400 * k + 0x8 * c)
def HgBucket.count : Fld := ⟨0, 32⟩
def Rg.hgBucket : RegRow := ⟨0x2000104, [(8, 0x400), (4, 0x8)], [
    ⟨HgBucket.count, .ro, 0x10000, [.p, .h, .d]⟩]⟩

/-- HG_HOLD_CNT, 01_flit_path.md. -/
def Csr.hgHoldCnt (d k : Nat) : Nat := csrAddr d (0x2000140 + 0x400 * k)
def HgHoldCnt.cycles : Fld := ⟨0, 32⟩
def Rg.hgHoldCnt : RegRow := ⟨0x2000140, [(8, 0x400)], [
    ⟨HgHoldCnt.cycles, .rc, 0, [.p, .h, .d]⟩]⟩

/-- XB_PID, 01_flit_path.md. -/
def Csr.xbPid (d n : Nat) : Nat := csrAddr d (0x2100000 + 0x4 * n)
def XbPid.v : Fld := ⟨0, 1⟩
def XbPid.port : Fld := ⟨1, 6⟩
def Rg.xbPid : RegRow := ⟨0x2100000, [(4096, 0x4)], [
    ⟨XbPid.v, .rw, 0, [.p, .h, .d]⟩,
    ⟨XbPid.port, .rw, 0, [.p, .h, .d]⟩]⟩

/-- XB_BUS, 01_flit_path.md. -/
def Csr.xbBus (d n : Nat) : Nat := csrAddr d (0x2104000 + 0x4 * n)
def XbBus.v : Fld := ⟨0, 1⟩
def XbBus.port : Fld := ⟨1, 6⟩
def Rg.xbBus : RegRow := ⟨0x2104000, [(2048, 0x4)], [
    ⟨XbBus.v, .rw, 0, [.p, .h, .d]⟩,
    ⟨XbBus.port, .rw, 0, [.p, .h, .d]⟩]⟩

/-- XB_ADDR_W0, 01_flit_path.md. -/
def Csr.xbAddrW0 (d n : Nat) : Nat := csrAddr d (0x2106000 + 0x10 * n)
def XbAddrW0.baseLo : Fld := ⟨12, 20⟩
def Rg.xbAddrW0 : RegRow := ⟨0x2106000, [(32, 0x10)], [
    ⟨XbAddrW0.baseLo, .rw, 0, [.p, .h, .d]⟩]⟩

/-- XB_ADDR_W1, 01_flit_path.md. -/
def Csr.xbAddrW1 (d n : Nat) : Nat := csrAddr d (0x2106004 + 0x10 * n)
def XbAddrW1.baseHi : Fld := ⟨0, 20⟩
def Rg.xbAddrW1 : RegRow := ⟨0x2106004, [(32, 0x10)], [
    ⟨XbAddrW1.baseHi, .rw, 0, [.p, .h, .d]⟩]⟩

/-- XB_ADDR_W2, 01_flit_path.md. -/
def Csr.xbAddrW2 (d n : Nat) : Nat := csrAddr d (0x2106008 + 0x10 * n)
def XbAddrW2.limitLo : Fld := ⟨12, 20⟩
def Rg.xbAddrW2 : RegRow := ⟨0x2106008, [(32, 0x10)], [
    ⟨XbAddrW2.limitLo, .rw, 0, [.p, .h, .d]⟩]⟩

/-- XB_ADDR_W3, 01_flit_path.md. -/
def Csr.xbAddrW3 (d n : Nat) : Nat := csrAddr d (0x210600C + 0x10 * n)
def XbAddrW3.limitHi : Fld := ⟨0, 20⟩
def XbAddrW3.port : Fld := ⟨20, 6⟩
def XbAddrW3.bank : Fld := ⟨26, 3⟩
def XbAddrW3.v : Fld := ⟨31, 1⟩
def Rg.xbAddrW3 : RegRow := ⟨0x210600C, [(32, 0x10)], [
    ⟨XbAddrW3.limitHi, .rw, 0, [.p, .h, .d]⟩,
    ⟨XbAddrW3.port, .rw, 0, [.p, .h, .d]⟩,
    ⟨XbAddrW3.bank, .rw, 0, [.p, .h, .d]⟩,
    ⟨XbAddrW3.v, .rw, 0, [.p, .h, .d]⟩]⟩

/-- XB_CREDIT, 01_flit_path.md. -/
def Csr.xbCredit (d e v : Nat) : Nat := csrAddr d (0x2110000 + 0x20 * e + 0x4 * v)
def XbCredit.avail : Fld := ⟨0, 8⟩
def Rg.xbCredit : RegRow := ⟨0x2110000, [(22, 0x20), (5, 0x4)], [
    ⟨XbCredit.avail, .ro, 0, [.p, .h, .d]⟩]⟩

/-- CV_CTRL, 01_flit_path.md. -/
def Csr.cvCtrl (d c : Nat) : Nat := csrAddr d (0x3000000 + 0x100 * c)
def CvCtrl.en : Fld := ⟨0, 1⟩
def Rg.cvCtrl : RegRow := ⟨0x3000000, [(3, 0x100)], [
    ⟨CvCtrl.en, .rw, 1, [.p, .h, .d]⟩]⟩

/-- CV_STS, 01_flit_path.md. -/
def Csr.cvSts (d c : Nat) : Nat := csrAddr d (0x3000004 + 0x100 * c)
def CvSts.trained : Fld := ⟨0, 1⟩
def CvSts.present : Fld := ⟨1, 1⟩
def CvSts.spareTx : Fld := ⟨2, 5⟩
def CvSts.spareRx : Fld := ⟨7, 5⟩
def Rg.cvSts : RegRow := ⟨0x3000004, [(3, 0x100)], [
    ⟨CvSts.trained, .ro, 0, [.p, .h, .d]⟩,
    ⟨CvSts.present, .ro, 0, [.p, .h, .d]⟩,
    ⟨CvSts.spareTx, .ro, 0, [.p, .h, .d]⟩,
    ⟨CvSts.spareRx, .ro, 0, [.p, .h, .d]⟩]⟩

/-- CV_ECC_CNT, 01_flit_path.md. -/
def Csr.cvEccCnt (d c : Nat) : Nat := csrAddr d (0x3000008 + 0x100 * c)
def CvEccCnt.corr : Fld := ⟨0, 16⟩
def CvEccCnt.uncorr : Fld := ⟨16, 16⟩
def Rg.cvEccCnt : RegRow := ⟨0x3000008, [(3, 0x100)], [
    ⟨CvEccCnt.corr, .rc, 0, [.p, .h, .d]⟩,
    ⟨CvEccCnt.uncorr, .rc, 0, [.p, .h, .d]⟩]⟩

/-- DIR_CTRL, 02_directory_and_order.md. -/
def Csr.dirCtrl (d : Nat) : Nat := csrAddr d (0x4000000)
def DirCtrl.en : Fld := ⟨0, 1⟩
def DirCtrl.settle : Fld := ⟨1, 7⟩
def DirCtrl.memMode : Fld := ⟨8, 1⟩
def DirCtrl.memBank : Fld := ⟨9, 3⟩
def DirCtrl.txnRank : Fld := ⟨12, 4⟩
def DirCtrl.eccViral : Fld := ⟨16, 1⟩
def Rg.dirCtrl : RegRow := ⟨0x4000000, [], [
    ⟨DirCtrl.en, .rw, 0, [.p, .h, .d]⟩,
    ⟨DirCtrl.settle, .rw, 0x28, [.p, .h, .d]⟩,
    ⟨DirCtrl.memMode, .rw, 0, [.p, .h, .d]⟩,
    ⟨DirCtrl.memBank, .rw, 0, [.p, .h, .d]⟩,
    ⟨DirCtrl.txnRank, .rw, 0xc, [.p, .h, .d]⟩,
    ⟨DirCtrl.eccViral, .rw, 0, [.p, .h, .d]⟩]⟩

/-- DIR_WIN, 02_directory_and_order.md. -/
def Csr.dirWin (d : Nat) : Nat := csrAddr d (0x4000004)
def DirWin.base : Fld := ⟨0, 17⟩
def Rg.dirWin : RegRow := ⟨0x4000004, [], [
    ⟨DirWin.base, .rw, 0, [.p, .h, .d]⟩]⟩

/-- DIR_SHARE_EN_LO, 02_directory_and_order.md. -/
def Csr.dirShareEnLo (d : Nat) : Nat := csrAddr d (0x4000008)
def DirShareEnLo.en : Fld := ⟨0, 32⟩
def Rg.dirShareEnLo : RegRow := ⟨0x4000008, [], [
    ⟨DirShareEnLo.en, .rw, 0, [.p, .h, .d]⟩]⟩

/-- DIR_SHARE_EN_HI, 02_directory_and_order.md. -/
def Csr.dirShareEnHi (d : Nat) : Nat := csrAddr d (0x400000C)
def DirShareEnHi.en : Fld := ⟨0, 32⟩
def Rg.dirShareEnHi : RegRow := ⟨0x400000C, [], [
    ⟨DirShareEnHi.en, .rw, 0, [.p, .h, .d]⟩]⟩

/-- DIR_MEM_EVT, 02_directory_and_order.md. -/
def Csr.dirMemEvt (d : Nat) : Nat := csrAddr d (0x4000010)
def DirMemEvt.slot : Fld := ⟨0, 10⟩
def DirMemEvt.flag : Fld := ⟨10, 5⟩
def Rg.dirMemEvt : RegRow := ⟨0x4000010, [], [
    ⟨DirMemEvt.slot, .rw, 0, [.p, .h, .d]⟩,
    ⟨DirMemEvt.flag, .rw, 0, [.p, .h, .d]⟩]⟩

/-- DIR_STS, 02_directory_and_order.md. -/
def Csr.dirSts (d : Nat) : Nat := csrAddr d (0x4000014)
def DirSts.coarse : Fld := ⟨0, 1⟩
def DirSts.walk : Fld := ⟨1, 1⟩
def DirSts.ttUsed : Fld := ⟨2, 9⟩
def Rg.dirSts : RegRow := ⟨0x4000014, [], [
    ⟨DirSts.coarse, .ro, 0, [.p, .h, .d]⟩,
    ⟨DirSts.walk, .ro, 0, [.p, .h, .d]⟩,
    ⟨DirSts.ttUsed, .ro, 0, [.p, .h, .d]⟩]⟩

/-- DIR_PORT_DOWN_LO, 02_directory_and_order.md. -/
def Csr.dirPortDownLo (d : Nat) : Nat := csrAddr d (0x4000018)
def DirPortDownLo.down : Fld := ⟨0, 32⟩
def Rg.dirPortDownLo : RegRow := ⟨0x4000018, [], [
    ⟨DirPortDownLo.down, .ro, 0, [.p, .h, .d]⟩]⟩

/-- DIR_PORT_DOWN_HI, 02_directory_and_order.md. -/
def Csr.dirPortDownHi (d : Nat) : Nat := csrAddr d (0x400001C)
def DirPortDownHi.down : Fld := ⟨0, 32⟩
def Rg.dirPortDownHi : RegRow := ⟨0x400001C, [], [
    ⟨DirPortDownHi.down, .ro, 0, [.p, .h, .d]⟩]⟩

/-- DIR_RACE_CNT, 02_directory_and_order.md. -/
def Csr.dirRaceCnt (d : Nat) : Nat := csrAddr d (0x4000020)
def DirRaceCnt.replays : Fld := ⟨0, 16⟩
def DirRaceCnt.late : Fld := ⟨16, 16⟩
def Rg.dirRaceCnt : RegRow := ⟨0x4000020, [], [
    ⟨DirRaceCnt.replays, .rc, 0, [.p, .h, .d]⟩,
    ⟨DirRaceCnt.late, .rc, 0, [.p, .h, .d]⟩]⟩

/-- DIR_STRAY_CNT, 02_directory_and_order.md. -/
def Csr.dirStrayCnt (d : Nat) : Nat := csrAddr d (0x4000024)
def DirStrayCnt.stray : Fld := ⟨0, 16⟩
def DirStrayCnt.outside : Fld := ⟨16, 16⟩
def Rg.dirStrayCnt : RegRow := ⟨0x4000024, [], [
    ⟨DirStrayCnt.stray, .rc, 0, [.p, .h, .d]⟩,
    ⟨DirStrayCnt.outside, .rc, 0, [.p, .h, .d]⟩]⟩

/-- DIR_ECC_CNT, 02_directory_and_order.md. -/
def Csr.dirEccCnt (d : Nat) : Nat := csrAddr d (0x4000028)
def DirEccCnt.corr : Fld := ⟨0, 16⟩
def DirEccCnt.uncorr : Fld := ⟨16, 16⟩
def Rg.dirEccCnt : RegRow := ⟨0x4000028, [], [
    ⟨DirEccCnt.corr, .rc, 0, [.p, .h, .d]⟩,
    ⟨DirEccCnt.uncorr, .rc, 0, [.p, .h, .d]⟩]⟩

/-- DIR_ECC_LOG, 02_directory_and_order.md. -/
def Csr.dirEccLog (d : Nat) : Nat := csrAddr d (0x400002C)
def DirEccLog.setF : Fld := ⟨0, 14⟩
def DirEccLog.way : Fld := ⟨14, 4⟩
def DirEccLog.valid : Fld := ⟨31, 1⟩
def Rg.dirEccLog : RegRow := ⟨0x400002C, [], [
    ⟨DirEccLog.setF, .ro, 0, [.p, .h, .d]⟩,
    ⟨DirEccLog.way, .ro, 0, [.p, .h, .d]⟩,
    ⟨DirEccLog.valid, .w1c, 0, [.p, .h, .d]⟩]⟩

/-- DIR_WAIT_CNT, 02_directory_and_order.md. -/
def Csr.dirWaitCnt (d : Nat) : Nat := csrAddr d (0x4000030)
def DirWaitCnt.aborts : Fld := ⟨0, 16⟩
def DirWaitCnt.final : Fld := ⟨16, 16⟩
def Rg.dirWaitCnt : RegRow := ⟨0x4000030, [], [
    ⟨DirWaitCnt.aborts, .rc, 0, [.p, .h, .d]⟩,
    ⟨DirWaitCnt.final, .rc, 0, [.p, .h, .d]⟩]⟩

/-- DIR_LOST_CNT, 02_directory_and_order.md. -/
def Csr.dirLostCnt (d : Nat) : Nat := csrAddr d (0x4000034)
def DirLostCnt.lost : Fld := ⟨0, 32⟩
def Rg.dirLostCnt : RegRow := ⟨0x4000034, [], [
    ⟨DirLostCnt.lost, .rc, 0, [.p, .h, .d]⟩]⟩

/-- DIR_SET_CNT, 02_directory_and_order.md. -/
def Csr.dirSetCnt (d : Nat) : Nat := csrAddr d (0x4000038)
def DirSetCnt.exhausted : Fld := ⟨0, 16⟩
def Rg.dirSetCnt : RegRow := ⟨0x4000038, [], [
    ⟨DirSetCnt.exhausted, .rc, 0, [.p, .h, .d]⟩]⟩

/-- ENG_CTRL, 03_protocol_engines.md. -/
def Csr.engCtrl (d e : Nat) : Nat := csrAddr d (0x5000000 + 0x40 * e)
def EngCtrl.park : Fld := ⟨0, 1⟩
def EngCtrl.ptrap : Fld := ⟨1, 1⟩
def EngCtrl.halt : Fld := ⟨2, 1⟩
def EngCtrl.step : Fld := ⟨3, 1⟩
def EngCtrl.epoch : Fld := ⟨4, 6⟩
def Rg.engCtrl : RegRow := ⟨0x5000000, [(64, 0x40)], [
    ⟨EngCtrl.park, .rw, 1, [.p, .h, .d]⟩,
    ⟨EngCtrl.ptrap, .rw, 0, [.p, .h, .d]⟩,
    ⟨EngCtrl.halt, .rw, 0, [.p, .h, .d, .e]⟩,
    ⟨EngCtrl.step, .wo, 0, [.p, .h, .d, .e]⟩,
    ⟨EngCtrl.epoch, .rw, 0, [.p, .h, .d]⟩]⟩

/-- ENG_STS, 03_protocol_engines.md. -/
def Csr.engSts (d e : Nat) : Nat := csrAddr d (0x5000004 + 0x40 * e)
def EngSts.parked : Fld := ⟨0, 1⟩
def EngSts.running : Fld := ⟨1, 1⟩
def EngSts.waiting : Fld := ⟨2, 1⟩
def EngSts.trap : Fld := ⟨3, 1⟩
def EngSts.halted : Fld := ⟨4, 1⟩
def EngSts.pc : Fld := ⟨5, 12⟩
def EngSts.slot : Fld := ⟨17, 10⟩
def EngSts.cwp : Fld := ⟨27, 3⟩
def Rg.engSts : RegRow := ⟨0x5000004, [(64, 0x40)], [
    ⟨EngSts.parked, .ro, 1, [.p, .h, .d]⟩,
    ⟨EngSts.running, .ro, 0, [.p, .h, .d, .e]⟩,
    ⟨EngSts.waiting, .ro, 0, [.p, .h, .d, .e]⟩,
    ⟨EngSts.trap, .ro, 0, [.p, .h, .d, .e]⟩,
    ⟨EngSts.halted, .ro, 0, [.p, .h, .d, .e]⟩,
    ⟨EngSts.pc, .ro, 0, [.p, .h, .d, .e]⟩,
    ⟨EngSts.slot, .ro, 0, [.p, .h, .d, .e]⟩,
    ⟨EngSts.cwp, .ro, 0, [.p, .h, .d, .e]⟩]⟩

/-- ENG_SPILL, 03_protocol_engines.md. -/
def Csr.engSpill (d e : Nat) : Nat := csrAddr d (0x5000008 + 0x40 * e)
def EngSpill.top : Fld := ⟨0, 9⟩
def EngSpill.limit : Fld := ⟨16, 9⟩
def Rg.engSpill : RegRow := ⟨0x5000008, [(64, 0x40)], [
    ⟨EngSpill.top, .rw, 0x100, [.p, .h, .d]⟩,
    ⟨EngSpill.limit, .rw, 0xe0, [.p, .h, .d]⟩]⟩

/-- ENG_FAULT, 03_protocol_engines.md. -/
def Csr.engFault (d e : Nat) : Nat := csrAddr d (0x500000C + 0x40 * e)
def EngFault.cause : Fld := ⟨0, 4⟩
def EngFault.pc : Fld := ⟨4, 12⟩
def EngFault.slot : Fld := ⟨16, 10⟩
def EngFault.valid : Fld := ⟨31, 1⟩
def Rg.engFault : RegRow := ⟨0x500000C, [(64, 0x40)], [
    ⟨EngFault.cause, .ro, 0, [.p, .h, .d]⟩,
    ⟨EngFault.pc, .ro, 0, [.p, .h, .d]⟩,
    ⟨EngFault.slot, .ro, 0, [.p, .h, .d]⟩,
    ⟨EngFault.valid, .w1c, 0, [.p, .h, .d]⟩]⟩

/-- ENG_CNT, 03_protocol_engines.md. -/
def Csr.engCnt (d e : Nat) : Nat := csrAddr d (0x5000010 + 0x40 * e)
def EngCnt.faults : Fld := ⟨0, 16⟩
def EngCnt.spills : Fld := ⟨16, 16⟩
def Rg.engCnt : RegRow := ⟨0x5000010, [(64, 0x40)], [
    ⟨EngCnt.faults, .rc, 0, [.p, .h, .d]⟩,
    ⟨EngCnt.spills, .rc, 0, [.p, .h, .d]⟩]⟩

/-- ENG_HS_SEL, 03_protocol_engines.md. -/
def Csr.engHsSel (d : Nat) : Nat := csrAddr d (0x5010000)
def EngHsSel.index : Fld := ⟨0, 12⟩
def EngHsSel.engine : Fld := ⟨12, 6⟩
def EngHsSel.err : Fld := ⟨31, 1⟩
def Rg.engHsSel : RegRow := ⟨0x5010000, [], [
    ⟨EngHsSel.index, .rw, 0, [.p, .h, .d]⟩,
    ⟨EngHsSel.engine, .rw, 0, [.p, .h, .d]⟩,
    ⟨EngHsSel.err, .w1c, 0, [.p, .h, .d]⟩]⟩

/-- ENG_HS_DATA, 03_protocol_engines.md. -/
def Csr.engHsData (d : Nat) : Nat := csrAddr d (0x5010004)
def EngHsData.word : Fld := ⟨0, 32⟩
def Rg.engHsData : RegRow := ⟨0x5010004, [], [
    ⟨EngHsData.word, .rw, 0, []⟩]⟩

/-- ENG_DBG_SEL, 03_protocol_engines.md. -/
def Csr.engDbgSel (d : Nat) : Nat := csrAddr d (0x5010008)
def EngDbgSel.engine : Fld := ⟨0, 6⟩
def EngDbgSel.reg : Fld := ⟨6, 5⟩
def EngDbgSel.window : Fld := ⟨11, 3⟩
def Rg.engDbgSel : RegRow := ⟨0x5010008, [], [
    ⟨EngDbgSel.engine, .rw, 0, [.p, .h, .d]⟩,
    ⟨EngDbgSel.reg, .rw, 0, [.p, .h, .d]⟩,
    ⟨EngDbgSel.window, .rw, 0, [.p, .h, .d]⟩]⟩

/-- ENG_DBG_DATA, 03_protocol_engines.md. -/
def Csr.engDbgData (d : Nat) : Nat := csrAddr d (0x501000C)
def EngDbgData.value : Fld := ⟨0, 32⟩
def Rg.engDbgData : RegRow := ⟨0x501000C, [], [
    ⟨EngDbgData.value, .ro, 0, []⟩]⟩

/-- ENG_LOCK_STS, 03_protocol_engines.md. -/
def Csr.engLockSts (d : Nat) : Nat := csrAddr d (0x5010010)
def EngLockSts.used : Fld := ⟨0, 9⟩
def Rg.engLockSts : RegRow := ⟨0x5010010, [], [
    ⟨EngLockSts.used, .ro, 0, [.p, .h, .d]⟩]⟩

/-- ENG_MISC_CNT, 03_protocol_engines.md. -/
def Csr.engMiscCnt (d : Nat) : Nat := csrAddr d (0x5010014)
def EngMiscCnt.lateRsp : Fld := ⟨0, 16⟩
def EngMiscCnt.lockLeak : Fld := ⟨16, 16⟩
def Rg.engMiscCnt : RegRow := ⟨0x5010014, [], [
    ⟨EngMiscCnt.lateRsp, .rc, 0, [.p, .h, .d]⟩,
    ⟨EngMiscCnt.lockLeak, .rc, 0, [.p, .h, .d]⟩]⟩

/-- ENG_ECC_CNT, 03_protocol_engines.md. -/
def Csr.engEccCnt (d : Nat) : Nat := csrAddr d (0x5010018)
def EngEccCnt.corr : Fld := ⟨0, 16⟩
def EngEccCnt.uncorr : Fld := ⟨16, 16⟩
def Rg.engEccCnt : RegRow := ⟨0x5010018, [], [
    ⟨EngEccCnt.corr, .rc, 0, [.p, .h, .d]⟩,
    ⟨EngEccCnt.uncorr, .rc, 0, [.p, .h, .d]⟩]⟩

/-- SCH_CTRL, 04_dispatch_and_allotments.md. -/
def Csr.schCtrl (d : Nat) : Nat := csrAddr d (0x6000000)
def SchCtrl.dispEn : Fld := ⟨0, 1⟩
def Rg.schCtrl : RegRow := ⟨0x6000000, [], [
    ⟨SchCtrl.dispEn, .rw, 0, [.p, .h, .d]⟩]⟩

/-- SCH_STS, 04_dispatch_and_allotments.md. -/
def Csr.schSts (d : Nat) : Nat := csrAddr d (0x6000004)
def SchSts.ready : Fld := ⟨0, 11⟩
def SchSts.running : Fld := ⟨11, 7⟩
def SchSts.queued : Fld := ⟨18, 9⟩
def Rg.schSts : RegRow := ⟨0x6000004, [], [
    ⟨SchSts.ready, .ro, 0, [.p, .h, .d]⟩,
    ⟨SchSts.running, .ro, 0, [.p, .h, .d]⟩,
    ⟨SchSts.queued, .ro, 0, [.p, .h, .d]⟩]⟩

/-- SCH_DISP_CNT, 04_dispatch_and_allotments.md. -/
def Csr.schDispCnt (d : Nat) : Nat := csrAddr d (0x6000008)
def SchDispCnt.dispatches : Fld := ⟨0, 32⟩
def Rg.schDispCnt : RegRow := ⟨0x6000008, [], [
    ⟨SchDispCnt.dispatches, .rc, 0, [.p, .h, .d]⟩]⟩

/-- SCH_CNT, 04_dispatch_and_allotments.md. -/
def Csr.schCnt (d : Nat) : Nat := csrAddr d (0x600000C)
def SchCnt.misrouted : Fld := ⟨0, 16⟩
def SchCnt.noTask : Fld := ⟨16, 16⟩
def Rg.schCnt : RegRow := ⟨0x600000C, [], [
    ⟨SchCnt.misrouted, .rc, 0, [.p, .h, .d]⟩,
    ⟨SchCnt.noTask, .rc, 0, [.p, .h, .d]⟩]⟩

/-- SCH_AFF_CNT, 04_dispatch_and_allotments.md. -/
def Csr.schAffCnt (d : Nat) : Nat := csrAddr d (0x6000010)
def SchAffCnt.lastHit : Fld := ⟨0, 16⟩
def SchAffCnt.clusterHit : Fld := ⟨16, 16⟩
def Rg.schAffCnt : RegRow := ⟨0x6000010, [], [
    ⟨SchAffCnt.lastHit, .rc, 0, [.p, .h, .d]⟩,
    ⟨SchAffCnt.clusterHit, .rc, 0, [.p, .h, .d]⟩]⟩

/-- SCH_TASK_n_W0, 04_dispatch_and_allotments.md. -/
def Csr.taskW0 (d n : Nat) : Nat := csrAddr d (0x6010000 + 0x10 * n)
def TaskW0.entry : Fld := ⟨0, 12⟩
def TaskW0.prio : Fld := ⟨12, 3⟩
def TaskW0.mode : Fld := ⟨15, 1⟩
def TaskW0.clmask : Fld := ⟨16, 8⟩
def TaskW0.eclass : Fld := ⟨24, 4⟩
def TaskW0.esc : Fld := ⟨28, 2⟩
def TaskW0.v : Fld := ⟨31, 1⟩
def Rg.taskW0 : RegRow := ⟨0x6010000, [(1024, 0x10)], [
    ⟨TaskW0.entry, .rw, 0, [.p, .h, .d]⟩,
    ⟨TaskW0.prio, .rw, 7, [.p, .h, .d]⟩,
    ⟨TaskW0.mode, .rw, 0, [.p, .h, .d]⟩,
    ⟨TaskW0.clmask, .rw, 0xff, [.p, .h, .d]⟩,
    ⟨TaskW0.eclass, .rw, 0, [.p, .h, .d]⟩,
    ⟨TaskW0.esc, .ro, 0, [.p, .h, .d]⟩,
    ⟨TaskW0.v, .rw, 0, [.p, .h, .d]⟩]⟩

/-- SCH_TASK_n_W1, 04_dispatch_and_allotments.md. -/
def Csr.taskW1 (d n : Nat) : Nat := csrAddr d (0x6010004 + 0x10 * n)
def TaskW1.mask : Fld := ⟨0, 32⟩
def Rg.taskW1 : RegRow := ⟨0x6010004, [(1024, 0x10)], [
    ⟨TaskW1.mask, .rw, 0, [.p, .h, .d]⟩]⟩

/-- SCH_TASK_n_W2, 04_dispatch_and_allotments.md. -/
def Csr.taskW2 (d n : Nat) : Nat := csrAddr d (0x6010008 + 0x10 * n)
def TaskW2.flags : Fld := ⟨0, 32⟩
def Rg.taskW2 : RegRow := ⟨0x6010008, [(1024, 0x10)], [
    ⟨TaskW2.flags, .w1s, 0, [.p, .h, .d]⟩]⟩

/-- SCH_TASK_n_W3, 04_dispatch_and_allotments.md. -/
def Csr.taskW3 (d n : Nat) : Nat := csrAddr d (0x601000C + 0x10 * n)
def TaskW3.epoch : Fld := ⟨0, 6⟩
def TaskW3.last : Fld := ⟨6, 6⟩
def TaskW3.state : Fld := ⟨12, 2⟩
def TaskW3.eprio : Fld := ⟨14, 3⟩
def TaskW3.inbox : Fld := ⟨17, 9⟩
def Rg.taskW3 : RegRow := ⟨0x601000C, [(1024, 0x10)], [
    ⟨TaskW3.epoch, .rw, 0, [.p, .h, .d]⟩,
    ⟨TaskW3.last, .ro, 0, [.p, .h, .d]⟩,
    ⟨TaskW3.state, .ro, 0, [.p, .h, .d]⟩,
    ⟨TaskW3.eprio, .ro, 7, [.p, .h, .d]⟩,
    ⟨TaskW3.inbox, .ro, 0, [.p, .h, .d]⟩]⟩

/-- PMU_ALLOT_CFG, 04_dispatch_and_allotments.md. -/
def Csr.pmuAllotCfg (d : Nat) : Nat := csrAddr d (0xB000000)
def PmuAllotCfg.full : Fld := ⟨0, 13⟩
def PmuAllotCfg.cap : Fld := ⟨16, 13⟩
def Rg.pmuAllotCfg : RegRow := ⟨0xB000000, [], [
    ⟨PmuAllotCfg.full, .rw, 0x800, [.p, .h, .d]⟩,
    ⟨PmuAllotCfg.cap, .rw, 0x1000, [.p, .h, .d]⟩]⟩

/-- PMU_TEMP, 04_dispatch_and_allotments.md. -/
def Csr.pmuTemp (d : Nat) : Nat := csrAddr d (0xB000004)
def PmuTemp.t : Fld := ⟨0, 11⟩
def PmuTemp.taper : Fld := ⟨11, 1⟩
def PmuTemp.zero : Fld := ⟨12, 1⟩
def PmuTemp.refill : Fld := ⟨13, 13⟩
def Rg.pmuTemp : RegRow := ⟨0xB000004, [], [
    ⟨PmuTemp.t, .ro, 0, [.p, .h, .d]⟩,
    ⟨PmuTemp.taper, .ro, 0, [.p, .h, .d]⟩,
    ⟨PmuTemp.zero, .ro, 0, [.p, .h, .d]⟩,
    ⟨PmuTemp.refill, .ro, 0, [.p, .h, .d]⟩]⟩

/-- PMU_TEMP_MAX, 04_dispatch_and_allotments.md. -/
def Csr.pmuTempMax (d : Nat) : Nat := csrAddr d (0xB000008)
def PmuTempMax.t : Fld := ⟨0, 11⟩
def Rg.pmuTempMax : RegRow := ⟨0xB000008, [], [
    ⟨PmuTempMax.t, .rc, 0x400, [.p, .h, .d]⟩]⟩

/-- PMU_ALLOT, 04_dispatch_and_allotments.md. -/
def Csr.pmuAllot (d c : Nat) : Nat := csrAddr d (0xB000100 + 0x4 * c)
def PmuAllot.balance : Fld := ⟨0, 18⟩
def Rg.pmuAllot : RegRow := ⟨0xB000100, [(8, 0x4)], [
    ⟨PmuAllot.balance, .ro, 0x1000, [.p, .h, .d]⟩]⟩

/-- PMU_GATE_CNT, 04_dispatch_and_allotments.md. -/
def Csr.pmuGateCnt (d c : Nat) : Nat := csrAddr d (0xB000140 + 0x4 * c)
def PmuGateCnt.skips : Fld := ⟨0, 16⟩
def PmuGateCnt.overdraws : Fld := ⟨16, 16⟩
def Rg.pmuGateCnt : RegRow := ⟨0xB000140, [(8, 0x4)], [
    ⟨PmuGateCnt.skips, .rc, 0, [.p, .h, .d]⟩,
    ⟨PmuGateCnt.overdraws, .rc, 0, [.p, .h, .d]⟩]⟩

/-- SLU_STS, 05_latency.md. -/
def Csr.sluSts (d : Nat) : Nat := csrAddr d (0x2200000)
def SluSts.drained : Fld := ⟨0, 1⟩
def SluSts.held : Fld := ⟨1, 1⟩
def SluSts.unlock : Fld := ⟨2, 1⟩
def Rg.sluSts : RegRow := ⟨0x2200000, [], [
    ⟨SluSts.drained, .ro, 1, [.p, .h, .d]⟩,
    ⟨SluSts.held, .ro, 0, [.p, .h, .d]⟩,
    ⟨SluSts.unlock, .ro, 0, [.p, .h, .d]⟩]⟩

/-- SLU_LOCK_CNT, 05_latency.md. -/
def Csr.sluLockCnt (d : Nat) : Nat := csrAddr d (0x2200004)
def SluLockCnt.master : Fld := ⟨0, 16⟩
def SluLockCnt.lane : Fld := ⟨16, 16⟩
def Rg.sluLockCnt : RegRow := ⟨0x2200004, [], [
    ⟨SluLockCnt.master, .rc, 0, [.p, .h, .d]⟩,
    ⟨SluLockCnt.lane, .rc, 0, [.p, .h, .d]⟩]⟩

/-- SLU_FAB_COST, 05_latency.md. -/
def Csr.sluFabCost (d f : Nat) : Nat := csrAddr d (0x2200010 + 0x4 * f)
def SluFabCost.toFlit : Fld := ⟨0, 12⟩
def SluFabCost.toBank : Fld := ⟨12, 12⟩
def SluFabCost.free : Fld := ⟨24, 1⟩
def SluFabCost.valid : Fld := ⟨25, 1⟩
def Rg.sluFabCost : RegRow := ⟨0x2200010, [(4, 0x4)], [
    ⟨SluFabCost.toFlit, .ro, 0, [.p, .h, .d]⟩,
    ⟨SluFabCost.toBank, .ro, 0, [.p, .h, .d]⟩,
    ⟨SluFabCost.free, .ro, 0, [.p, .h, .d]⟩,
    ⟨SluFabCost.valid, .ro, 0, [.p, .h, .d]⟩]⟩

/-- MS_LO, 05_latency.md. -/
def Csr.msLo (d : Nat) : Nat := csrAddr d (0xC000000)
def MsLo.ms : Fld := ⟨0, 32⟩
def Rg.msLo : RegRow := ⟨0xC000000, [], [
    ⟨MsLo.ms, .ro, 0, [.p]⟩]⟩

/-- MS_HI, 05_latency.md. -/
def Csr.msHi (d : Nat) : Nat := csrAddr d (0xC000004)
def MsHi.ms : Fld := ⟨0, 32⟩
def Rg.msHi : RegRow := ⟨0xC000004, [], [
    ⟨MsHi.ms, .ro, 0, [.p]⟩]⟩

/-- MS_STS, 05_latency.md. -/
def Csr.msSts (d : Nat) : Nat := csrAddr d (0xC000008)
def MsSts.sync : Fld := ⟨0, 1⟩
def MsSts.slew : Fld := ⟨1, 1⟩
def MsSts.err : Fld := ⟨2, 8⟩
def Rg.msSts : RegRow := ⟨0xC000008, [], [
    ⟨MsSts.sync, .ro, 0, [.p, .h, .d]⟩,
    ⟨MsSts.slew, .ro, 0, [.p, .h, .d]⟩,
    ⟨MsSts.err, .ro, 0, [.p, .h, .d]⟩]⟩

/-- MS_ADJ_CNT, 05_latency.md. -/
def Csr.msAdjCnt (d : Nat) : Nat := csrAddr d (0xC00000C)
def MsAdjCnt.slews : Fld := ⟨0, 16⟩
def MsAdjCnt.reloads : Fld := ⟨16, 16⟩
def Rg.msAdjCnt : RegRow := ⟨0xC00000C, [], [
    ⟨MsAdjCnt.slews, .rc, 0, [.p, .h, .d]⟩,
    ⟨MsAdjCnt.reloads, .rc, 0, [.p, .h, .d]⟩]⟩

/-- FAB_PLL_CTRL, 06_word_fabric.md. -/
def Csr.fabPllCtrl (d f : Nat) : Nat := csrAddr d (0xA000000 + 0x10 * f)
def FabPllCtrl.en : Fld := ⟨0, 1⟩
def FabPllCtrl.mode : Fld := ⟨1, 1⟩
def FabPllCtrl.refsel : Fld := ⟨2, 2⟩
def FabPllCtrl.m : Fld := ⟨4, 8⟩
def FabPllCtrl.n : Fld := ⟨12, 8⟩
def Rg.fabPllCtrl : RegRow := ⟨0xA000000, [(4, 0x10)], [
    ⟨FabPllCtrl.en, .rw, 0, [.p, .h, .d]⟩,
    ⟨FabPllCtrl.mode, .rw, 0, [.p, .h, .d]⟩,
    ⟨FabPllCtrl.refsel, .rw, 0, [.p, .h, .d]⟩,
    ⟨FabPllCtrl.m, .rw, 8, [.p, .h, .d]⟩,
    ⟨FabPllCtrl.n, .rw, 1, [.p, .h, .d]⟩]⟩

/-- FAB_PLL_STS, 06_word_fabric.md. -/
def Csr.fabPllSts (d f : Nat) : Nat := csrAddr d (0xA000004 + 0x10 * f)
def FabPllSts.lock : Fld := ⟨0, 1⟩
def FabPllSts.lockloss : Fld := ⟨1, 1⟩
def FabPllSts.err : Fld := ⟨2, 1⟩
def Rg.fabPllSts : RegRow := ⟨0xA000004, [(4, 0x10)], [
    ⟨FabPllSts.lock, .ro, 0, [.p, .h, .d]⟩,
    ⟨FabPllSts.lockloss, .w1c, 0, [.p, .h, .d]⟩,
    ⟨FabPllSts.err, .w1c, 0, [.p, .h, .d]⟩]⟩

/-- REACH_CTRL, 06_word_fabric.md. -/
def Csr.reachCtrl (d r : Nat) : Nat := csrAddr d (0xA010000 + 0x10 * r)
def ReachCtrl.fabsel : Fld := ⟨0, 2⟩
def ReachCtrl.plen : Fld := ⟨2, 3⟩
def ReachCtrl.palign : Fld := ⟨5, 1⟩
def Rg.reachCtrl : RegRow := ⟨0xA010000, [(16, 0x10)], [
    ⟨ReachCtrl.fabsel, .rw, 0, [.p, .h, .d]⟩,
    ⟨ReachCtrl.plen, .rw, 0, [.p, .h, .d]⟩,
    ⟨ReachCtrl.palign, .rw, 0, [.p, .h, .d]⟩]⟩

/-- REACH_STS, 06_word_fabric.md. -/
def Csr.reachSts (d r : Nat) : Nat := csrAddr d (0xA010004 + 0x10 * r)
def ReachSts.phase : Fld := ⟨0, 3⟩
def ReachSts.badop : Fld := ⟨3, 1⟩
def ReachSts.err : Fld := ⟨4, 1⟩
def Rg.reachSts : RegRow := ⟨0xA010004, [(16, 0x10)], [
    ⟨ReachSts.phase, .ro, 0, [.p, .h, .d, .q]⟩,
    ⟨ReachSts.badop, .w1c, 0, [.p, .h, .d, .q]⟩,
    ⟨ReachSts.err, .w1c, 0, [.p, .h, .d, .q]⟩]⟩

/-- FAB_IRW_SEL, 06_word_fabric.md. -/
def Csr.fabIrwSel (d : Nat) : Nat := csrAddr d (0xA020000)
def FabIrwSel.reach : Fld := ⟨0, 4⟩
def FabIrwSel.col : Fld := ⟨4, 6⟩
def FabIrwSel.row : Fld := ⟨10, 5⟩
def FabIrwSel.entry : Fld := ⟨15, 3⟩
def Rg.fabIrwSel : RegRow := ⟨0xA020000, [], [
    ⟨FabIrwSel.reach, .rw, 0, [.p, .h, .d]⟩,
    ⟨FabIrwSel.col, .rw, 0, [.p, .h, .d]⟩,
    ⟨FabIrwSel.row, .rw, 0, [.p, .h, .d]⟩,
    ⟨FabIrwSel.entry, .rw, 0, [.p, .h, .d]⟩]⟩

/-- FAB_IRW_LO, 06_word_fabric.md. -/
def Csr.fabIrwLo (d : Nat) : Nat := csrAddr d (0xA020004)
def FabIrwLo.entryLo : Fld := ⟨0, 32⟩
def Rg.fabIrwLo : RegRow := ⟨0xA020004, [], [
    ⟨FabIrwLo.entryLo, .rw, 0, [.p, .h, .d]⟩]⟩

/-- FAB_IRW_HI, 06_word_fabric.md. -/
def Csr.fabIrwHi (d : Nat) : Nat := csrAddr d (0xA020008)
def FabIrwHi.entryHi : Fld := ⟨0, 8⟩
def FabIrwHi.go : Fld := ⟨31, 1⟩
def Rg.fabIrwHi : RegRow := ⟨0xA020008, [], [
    ⟨FabIrwHi.entryHi, .rw, 0, [.p, .h, .d]⟩,
    ⟨FabIrwHi.go, .wo, 0, []⟩]⟩

/-- FAB_IRW_STS, 06_word_fabric.md. -/
def Csr.fabIrwSts (d : Nat) : Nat := csrAddr d (0xA02000C)
def FabIrwSts.status : Fld := ⟨0, 8⟩
def FabIrwSts.pending : Fld := ⟨8, 1⟩
def Rg.fabIrwSts : RegRow := ⟨0xA02000C, [], [
    ⟨FabIrwSts.status, .ro, 0, [.p, .h, .d]⟩,
    ⟨FabIrwSts.pending, .ro, 0, [.p, .h, .d]⟩]⟩

/-- UIO_CTRL, 06_word_fabric.md. -/
def Csr.uioCtrl (d p : Nat) : Nat := csrAddr d (0xA030000 + 0x10 * p)
def UioCtrl.std : Fld := ⟨0, 2⟩
def UioCtrl.drive : Fld := ⟨2, 2⟩
def UioCtrl.slow : Fld := ⟨4, 1⟩
def UioCtrl.pull : Fld := ⟨5, 2⟩
def UioCtrl.ibyp : Fld := ⟨7, 1⟩
def UioCtrl.obyp : Fld := ⟨8, 1⟩
def UioCtrl.ddr : Fld := ⟨9, 1⟩
def UioCtrl.term : Fld := ⟨10, 1⟩
def Rg.uioCtrl : RegRow := ⟨0xA030000, [(24, 0x10)], [
    ⟨UioCtrl.std, .rw, 0, [.p, .h, .d]⟩,
    ⟨UioCtrl.drive, .rw, 1, [.p, .h, .d]⟩,
    ⟨UioCtrl.slow, .rw, 0, [.p, .h, .d]⟩,
    ⟨UioCtrl.pull, .rw, 0, [.p, .h, .d]⟩,
    ⟨UioCtrl.ibyp, .rw, 0, [.p, .h, .d]⟩,
    ⟨UioCtrl.obyp, .rw, 0, [.p, .h, .d]⟩,
    ⟨UioCtrl.ddr, .rw, 0, [.p, .h, .d]⟩,
    ⟨UioCtrl.term, .rw, 0, [.p, .h, .d]⟩]⟩

/-- UIO_DLY, 06_word_fabric.md. -/
def Csr.uioDly (d p : Nat) : Nat := csrAddr d (0xA030004 + 0x10 * p)
def UioDly.taps : Fld := ⟨0, 7⟩
def UioDly.path : Fld := ⟨7, 1⟩
def UioDly.cur : Fld := ⟨8, 7⟩
def Rg.uioDly : RegRow := ⟨0xA030004, [(24, 0x10)], [
    ⟨UioDly.taps, .rw, 0, [.p, .h, .d]⟩,
    ⟨UioDly.path, .rw, 0, [.p, .h, .d]⟩,
    ⟨UioDly.cur, .ro, 0, [.p, .h, .d]⟩]⟩

/-- UIO_STS, 06_word_fabric.md. -/
def Csr.uioSts (d p : Nat) : Nat := csrAddr d (0xA030008 + 0x10 * p)
def UioSts.pin : Fld := ⟨0, 1⟩
def UioSts.owned : Fld := ⟨1, 1⟩
def Rg.uioSts : RegRow := ⟨0xA030008, [(24, 0x10)], [
    ⟨UioSts.pin, .ro, 0, [.p, .h, .d]⟩,
    ⟨UioSts.owned, .ro, 0, [.p, .h, .d]⟩]⟩

/-- ROSC_CTRL, 06_word_fabric.md. -/
def Csr.roscCtrl (d o : Nat) : Nat := csrAddr d (0xA040000 + 0x10 * o)
def RoscCtrl.en : Fld := ⟨0, 1⟩
def RoscCtrl.sel : Fld := ⟨1, 3⟩
def Rg.roscCtrl : RegRow := ⟨0xA040000, [(4, 0x10)], [
    ⟨RoscCtrl.en, .rw, 0, [.p, .h, .d]⟩,
    ⟨RoscCtrl.sel, .rw, 0, [.p, .h, .d]⟩]⟩

/-- ROSC_CNT, 06_word_fabric.md. -/
def Csr.roscCnt (d o : Nat) : Nat := csrAddr d (0xA040004 + 0x10 * o)
def RoscCnt.count : Fld := ⟨0, 20⟩
def Rg.roscCnt : RegRow := ⟨0xA040004, [(4, 0x10)], [
    ⟨RoscCnt.count, .ro, 0, [.p, .h, .d]⟩]⟩

/-- USP_CTRL, 06_word_fabric.md. -/
def Csr.uspCtrl (d u : Nat) : Nat := csrAddr d (0xA050000 + 0x40 * u)
def UspCtrl.en : Fld := ⟨0, 1⟩
def UspCtrl.mode : Fld := ⟨1, 1⟩
def UspCtrl.bits : Fld := ⟨2, 1⟩
def UspCtrl.parity : Fld := ⟨3, 2⟩
def UspCtrl.stop2 : Fld := ⟨5, 1⟩
def UspCtrl.flow : Fld := ⟨6, 1⟩
def UspCtrl.spimode : Fld := ⟨7, 2⟩
def Rg.uspCtrl : RegRow := ⟨0xA050000, [(2, 0x40)], [
    ⟨UspCtrl.en, .rw, 0, [.p, .h, .d]⟩,
    ⟨UspCtrl.mode, .rw, 0, [.p, .h, .d]⟩,
    ⟨UspCtrl.bits, .rw, 0, [.p, .h, .d]⟩,
    ⟨UspCtrl.parity, .rw, 0, [.p, .h, .d]⟩,
    ⟨UspCtrl.stop2, .rw, 0, [.p, .h, .d]⟩,
    ⟨UspCtrl.flow, .rw, 0, [.p, .h, .d]⟩,
    ⟨UspCtrl.spimode, .rw, 0, [.p, .h, .d]⟩]⟩

/-- USP_DIV, 06_word_fabric.md. -/
def Csr.uspDiv (d u : Nat) : Nat := csrAddr d (0xA050004 + 0x40 * u)
def UspDiv.div : Fld := ⟨0, 16⟩
def Rg.uspDiv : RegRow := ⟨0xA050004, [(2, 0x40)], [
    ⟨UspDiv.div, .rw, 0x208, [.p, .h, .d]⟩]⟩

/-- USP_TX, 06_word_fabric.md. -/
def Csr.uspTx (d u : Nat) : Nat := csrAddr d (0xA050008 + 0x40 * u)
def UspTx.data : Fld := ⟨0, 16⟩
def Rg.uspTx : RegRow := ⟨0xA050008, [(2, 0x40)], [
    ⟨UspTx.data, .wo, 0, [.p, .h, .d]⟩]⟩

/-- USP_RX, 06_word_fabric.md. -/
def Csr.uspRx (d u : Nat) : Nat := csrAddr d (0xA05000C + 0x40 * u)
def UspRx.data : Fld := ⟨0, 16⟩
def Rg.uspRx : RegRow := ⟨0xA05000C, [(2, 0x40)], [
    ⟨UspRx.data, .rc, 0, [.p, .h, .d]⟩]⟩

/-- USP_STS, 06_word_fabric.md. -/
def Csr.uspSts (d u : Nat) : Nat := csrAddr d (0xA050010 + 0x40 * u)
def UspSts.txlvl : Fld := ⟨0, 5⟩
def UspSts.rxlvl : Fld := ⟨5, 5⟩
def UspSts.txovf : Fld := ⟨10, 1⟩
def UspSts.rxovf : Fld := ⟨11, 1⟩
def UspSts.ferr : Fld := ⟨12, 1⟩
def UspSts.perr : Fld := ⟨13, 1⟩
def Rg.uspSts : RegRow := ⟨0xA050010, [(2, 0x40)], [
    ⟨UspSts.txlvl, .ro, 0, [.p, .h, .d]⟩,
    ⟨UspSts.rxlvl, .ro, 0, [.p, .h, .d]⟩,
    ⟨UspSts.txovf, .w1c, 0, [.p, .h, .d]⟩,
    ⟨UspSts.rxovf, .w1c, 0, [.p, .h, .d]⟩,
    ⟨UspSts.ferr, .w1c, 0, [.p, .h, .d]⟩,
    ⟨UspSts.perr, .w1c, 0, [.p, .h, .d]⟩]⟩

/-- UFW_STS, 06_word_fabric.md. -/
def Csr.ufwSts (d : Nat) : Nat := csrAddr d (0xA060000)
def UfwSts.range : Fld := ⟨0, 1⟩
def UfwSts.poison : Fld := ⟨1, 1⟩
def Rg.ufwSts : RegRow := ⟨0xA060000, [], [
    ⟨UfwSts.range, .w1c, 0, [.p, .h, .d]⟩,
    ⟨UfwSts.poison, .w1c, 0, [.p, .h, .d]⟩]⟩

/-- UFW_CNT, 06_word_fabric.md. -/
def Csr.ufwCnt (d : Nat) : Nat := csrAddr d (0xA060004)
def UfwCnt.lines : Fld := ⟨0, 32⟩
def Rg.ufwCnt : RegRow := ⟨0xA060004, [], [
    ⟨UfwCnt.lines, .rc, 0, [.p, .h, .d]⟩]⟩

/-- BANK_CTRL, 07_banks_and_ditches.md. -/
def Csr.bankCtrl (d : Nat) : Nat := csrAddr d (0x7000000)
def BankCtrl.btEn : Fld := ⟨0, 1⟩
def Rg.bankCtrl : RegRow := ⟨0x7000000, [], [
    ⟨BankCtrl.btEn, .rw, 1, [.p, .h, .d]⟩]⟩

/-- BANK_BT_MASK_LO, 07_banks_and_ditches.md. -/
def Csr.bankBtMaskLo (d : Nat) : Nat := csrAddr d (0x7000004)
def BankBtMaskLo.en : Fld := ⟨0, 32⟩
def Rg.bankBtMaskLo : RegRow := ⟨0x7000004, [], [
    ⟨BankBtMaskLo.en, .rw, 0xffffffff, [.p, .h, .d]⟩]⟩

/-- BANK_BT_MASK_HI, 07_banks_and_ditches.md. -/
def Csr.bankBtMaskHi (d : Nat) : Nat := csrAddr d (0x7000008)
def BankBtMaskHi.en : Fld := ⟨0, 16⟩
def Rg.bankBtMaskHi : RegRow := ⟨0x7000008, [], [
    ⟨BankBtMaskHi.en, .rw, 0xffff, [.p, .h, .d]⟩]⟩

/-- BANK_STS, 07_banks_and_ditches.md. -/
def Csr.bankSts (d : Nat) : Nat := csrAddr d (0x700000C)
def BankSts.region : Fld := ⟨0, 8⟩
def BankSts.clearing : Fld := ⟨8, 1⟩
def Rg.bankSts : RegRow := ⟨0x700000C, [], [
    ⟨BankSts.region, .ro, 0, [.p, .h, .d]⟩,
    ⟨BankSts.clearing, .ro, 0, [.p, .h, .d]⟩]⟩

/-- BANK_BT_CNT, 07_banks_and_ditches.md. -/
def Csr.bankBtCnt (d : Nat) : Nat := csrAddr d (0x7000010)
def BankBtCnt.passes : Fld := ⟨0, 16⟩
def BankBtCnt.fails : Fld := ⟨16, 16⟩
def Rg.bankBtCnt : RegRow := ⟨0x7000010, [], [
    ⟨BankBtCnt.passes, .rc, 0, [.p, .h, .d]⟩,
    ⟨BankBtCnt.fails, .rc, 0, [.p, .h, .d]⟩]⟩

/-- BANK_BT_LOG, 07_banks_and_ditches.md. -/
def Csr.bankBtLog (d : Nat) : Nat := csrAddr d (0x7000014)
def BankBtLog.bank : Fld := ⟨0, 6⟩
def BankBtLog.region : Fld := ⟨6, 8⟩
def BankBtLog.word : Fld := ⟨14, 6⟩
def BankBtLog.element : Fld := ⟨20, 3⟩
def BankBtLog.valid : Fld := ⟨31, 1⟩
def Rg.bankBtLog : RegRow := ⟨0x7000014, [], [
    ⟨BankBtLog.bank, .ro, 0, [.p, .h, .d]⟩,
    ⟨BankBtLog.region, .ro, 0, [.p, .h, .d]⟩,
    ⟨BankBtLog.word, .ro, 0, [.p, .h, .d]⟩,
    ⟨BankBtLog.element, .ro, 0, [.p, .h, .d]⟩,
    ⟨BankBtLog.valid, .w1c, 0, [.p, .h, .d]⟩]⟩

/-- BANK_ECC_CNT, 07_banks_and_ditches.md. -/
def Csr.bankEccCnt (d : Nat) : Nat := csrAddr d (0x7000018)
def BankEccCnt.corr : Fld := ⟨0, 16⟩
def BankEccCnt.uncorr : Fld := ⟨16, 16⟩
def Rg.bankEccCnt : RegRow := ⟨0x7000018, [], [
    ⟨BankEccCnt.corr, .rc, 0, [.p, .h, .d]⟩,
    ⟨BankEccCnt.uncorr, .rc, 0, [.p, .h, .d]⟩]⟩

/-- BANK_ECC_LOG, 07_banks_and_ditches.md. -/
def Csr.bankEccLog (d : Nat) : Nat := csrAddr d (0x700001C)
def BankEccLog.bank : Fld := ⟨0, 6⟩
def BankEccLog.word : Fld := ⟨6, 14⟩
def BankEccLog.valid : Fld := ⟨31, 1⟩
def Rg.bankEccLog : RegRow := ⟨0x700001C, [], [
    ⟨BankEccLog.bank, .ro, 0, [.p, .h, .d]⟩,
    ⟨BankEccLog.word, .ro, 0, [.p, .h, .d]⟩,
    ⟨BankEccLog.valid, .w1c, 0, [.p, .h, .d]⟩]⟩

/-- BANK_MISC_CNT, 07_banks_and_ditches.md. -/
def Csr.bankMiscCnt (d : Nat) : Nat := csrAddr d (0x7000020)
def BankMiscCnt.poisonRd : Fld := ⟨0, 16⟩
def BankMiscCnt.unav : Fld := ⟨16, 16⟩
def Rg.bankMiscCnt : RegRow := ⟨0x7000020, [], [
    ⟨BankMiscCnt.poisonRd, .rc, 0, [.p, .h, .d]⟩,
    ⟨BankMiscCnt.unav, .rc, 0, [.p, .h, .d]⟩]⟩

/-- BANK_TWIN_CNT, 07_banks_and_ditches.md. -/
def Csr.bankTwinCnt (d : Nat) : Nat := csrAddr d (0x7000024)
def BankTwinCnt.ww : Fld := ⟨0, 16⟩
def Rg.bankTwinCnt : RegRow := ⟨0x7000024, [], [
    ⟨BankTwinCnt.ww, .rc, 0, [.p, .h, .d]⟩]⟩

/-- BANK_CONF0, 07_banks_and_ditches.md. -/
def Csr.bankConf0 (d b : Nat) : Nat := csrAddr d (0x7010000 + 0x10 * b)
def BankConf0.fab : Fld := ⟨0, 16⟩
def BankConf0.eng : Fld := ⟨16, 16⟩
def Rg.bankConf0 : RegRow := ⟨0x7010000, [(48, 0x10)], [
    ⟨BankConf0.fab, .rc, 0, [.p, .h, .d]⟩,
    ⟨BankConf0.eng, .rc, 0, [.p, .h, .d]⟩]⟩

/-- BANK_CONF1, 07_banks_and_ditches.md. -/
def Csr.bankConf1 (d b : Nat) : Nat := csrAddr d (0x7010004 + 0x10 * b)
def BankConf1.dma : Fld := ⟨0, 16⟩
def BankConf1.test : Fld := ⟨16, 16⟩
def Rg.bankConf1 : RegRow := ⟨0x7010004, [(48, 0x10)], [
    ⟨BankConf1.dma, .rc, 0, [.p, .h, .d]⟩,
    ⟨BankConf1.test, .rc, 0, [.p, .h, .d]⟩]⟩

/-- BANK_INFO, 07_banks_and_ditches.md. -/
def Csr.bankInfo (d b : Nat) : Nat := csrAddr d (0x7010008 + 0x10 * b)
def BankInfo.unav : Fld := ⟨0, 1⟩
def BankInfo.twin : Fld := ⟨1, 1⟩
def Rg.bankInfo : RegRow := ⟨0x7010008, [(48, 0x10)], [
    ⟨BankInfo.unav, .ro, 0, [.p, .h, .d]⟩,
    ⟨BankInfo.twin, .ro, 0, []⟩]⟩

/-- DQ_CTRL, 07_banks_and_ditches.md. -/
def Csr.dqCtrl (d q : Nat) : Nat := csrAddr d (0x8000000 + 0x40 * q)
def DqCtrl.edgeEn : Fld := ⟨0, 4⟩
def DqCtrl.flush : Fld := ⟨4, 1⟩
def Rg.dqCtrl : RegRow := ⟨0x8000000, [(64, 0x40)], [
    ⟨DqCtrl.edgeEn, .rw, 0, [.p, .h, .d]⟩,
    ⟨DqCtrl.flush, .wo, 0, []⟩]⟩

/-- DQ_WEIR, 07_banks_and_ditches.md. -/
def Csr.dqWeir (d q : Nat) : Nat := csrAddr d (0x8000004 + 0x40 * q)
def DqWeir.high : Fld := ⟨0, 11⟩
def DqWeir.low : Fld := ⟨16, 11⟩
def Rg.dqWeir : RegRow := ⟨0x8000004, [(64, 0x40)], [
    ⟨DqWeir.high, .rw, 0x300, [.p, .h, .d]⟩,
    ⟨DqWeir.low, .rw, 0x100, [.p, .h, .d]⟩]⟩

/-- DQ_IDLE_LO, 07_banks_and_ditches.md. -/
def Csr.dqIdleLo (d q : Nat) : Nat := csrAddr d (0x8000008 + 0x40 * q)
def DqIdleLo.data : Fld := ⟨0, 32⟩
def Rg.dqIdleLo : RegRow := ⟨0x8000008, [(64, 0x40)], [
    ⟨DqIdleLo.data, .rw, 0, [.p, .h, .d]⟩]⟩

/-- DQ_IDLE_HI, 07_banks_and_ditches.md. -/
def Csr.dqIdleHi (d q : Nat) : Nat := csrAddr d (0x800000C + 0x40 * q)
def DqIdleHi.data : Fld := ⟨0, 32⟩
def Rg.dqIdleHi : RegRow := ⟨0x800000C, [(64, 0x40)], [
    ⟨DqIdleHi.data, .rw, 0, [.p, .h, .d]⟩]⟩

/-- DQ_STS, 07_banks_and_ditches.md. -/
def Csr.dqSts (d q : Nat) : Nat := csrAddr d (0x8000010 + 0x40 * q)
def DqSts.fillLvl : Fld := ⟨0, 10⟩
def DqSts.drainLvl : Fld := ⟨10, 10⟩
def DqSts.drainBank : Fld := ⟨20, 1⟩
def DqSts.above : Fld := ⟨21, 1⟩
def DqSts.below : Fld := ⟨22, 1⟩
def Rg.dqSts : RegRow := ⟨0x8000010, [(64, 0x40)], [
    ⟨DqSts.fillLvl, .ro, 0, [.p, .h, .d]⟩,
    ⟨DqSts.drainLvl, .ro, 0, [.p, .h, .d]⟩,
    ⟨DqSts.drainBank, .ro, 1, [.p, .h, .d]⟩,
    ⟨DqSts.above, .ro, 0, [.p, .h, .d]⟩,
    ⟨DqSts.below, .ro, 1, [.p, .h, .d]⟩]⟩

/-- DQ_FLAGS, 07_banks_and_ditches.md. -/
def Csr.dqFlags (d q : Nat) : Nat := csrAddr d (0x8000014 + 0x40 * q)
def DqFlags.crossed : Fld := ⟨0, 4⟩
def Rg.dqFlags : RegRow := ⟨0x8000014, [(64, 0x40)], [
    ⟨DqFlags.crossed, .w1c, 0, [.p, .h, .d]⟩]⟩

/-- DQ_CNT, 07_banks_and_ditches.md. -/
def Csr.dqCnt (d q : Nat) : Nat := csrAddr d (0x8000018 + 0x40 * q)
def DqCnt.lost : Fld := ⟨0, 16⟩
def DqCnt.drop : Fld := ⟨16, 16⟩
def Rg.dqCnt : RegRow := ⟨0x8000018, [(64, 0x40)], [
    ⟨DqCnt.lost, .rc, 0, [.p, .h, .d]⟩,
    ⟨DqCnt.drop, .rc, 0, [.p, .h, .d]⟩]⟩

/-- DQ_ERR_CNT, 07_banks_and_ditches.md. -/
def Csr.dqErrCnt (d q : Nat) : Nat := csrAddr d (0x800001C + 0x40 * q)
def DqErrCnt.parity : Fld := ⟨0, 16⟩
def DqErrCnt.crossings : Fld := ⟨16, 16⟩
def Rg.dqErrCnt : RegRow := ⟨0x800001C, [(64, 0x40)], [
    ⟨DqErrCnt.parity, .rc, 0, [.p, .h, .d]⟩,
    ⟨DqErrCnt.crossings, .rc, 0, [.p, .h, .d]⟩]⟩

/-- CFG_STS, 08_configuration.md. -/
def Csr.cfgSts (d : Nat) : Nat := csrAddr d (0x9000000)
def CfgSts.released : Fld := ⟨0, 1⟩
def CfgSts.plane : Fld := ⟨1, 1⟩
def CfgSts.shadow : Fld := ⟨2, 2⟩
def CfgSts.source : Fld := ⟨4, 3⟩
def CfgSts.swap : Fld := ⟨7, 1⟩
def Rg.cfgSts : RegRow := ⟨0x9000000, [], [
    ⟨CfgSts.released, .ro, 0, [.p, .h, .d]⟩,
    ⟨CfgSts.plane, .ro, 0, [.p, .h, .d]⟩,
    ⟨CfgSts.shadow, .ro, 0, [.p, .h, .d]⟩,
    ⟨CfgSts.source, .ro, 0, [.p, .h]⟩,
    ⟨CfgSts.swap, .ro, 0, [.p, .h, .d]⟩]⟩

/-- CFG_REACH_STS, 08_configuration.md. -/
def Csr.cfgReachSts (d : Nat) : Nat := csrAddr d (0x9000004)
def CfgReachSts.iso : Fld := ⟨0, 16⟩
def CfgReachSts.uncorr : Fld := ⟨16, 16⟩
def Rg.cfgReachSts : RegRow := ⟨0x9000004, [], [
    ⟨CfgReachSts.iso, .ro, 0xffff, [.p, .h, .d]⟩,
    ⟨CfgReachSts.uncorr, .w1c, 0, [.p, .h, .d]⟩]⟩

/-- CFG_PATCHABLE, 08_configuration.md. -/
def Csr.cfgPatchable (d : Nat) : Nat := csrAddr d (0x9000008)
def CfgPatchable.patch : Fld := ⟨0, 16⟩
def Rg.cfgPatchable : RegRow := ⟨0x9000008, [], [
    ⟨CfgPatchable.patch, .ro, 0, [.p, .h, .d]⟩]⟩

/-- CFG_VER, 08_configuration.md. -/
def Csr.cfgVer (d : Nat) : Nat := csrAddr d (0x900000C)
def CfgVer.imageVersion : Fld := ⟨0, 32⟩
def Rg.cfgVer : RegRow := ⟨0x900000C, [], [
    ⟨CfgVer.imageVersion, .ro, 0, [.p, .h, .d]⟩]⟩

/-- CFG_SCRUB_CTRL, 08_configuration.md. -/
def Csr.cfgScrubCtrl (d : Nat) : Nat := csrAddr d (0x9000010)
def CfgScrubCtrl.en : Fld := ⟨0, 1⟩
def CfgScrubCtrl.autoReload : Fld := ⟨1, 1⟩
def CfgScrubCtrl.borderDef : Fld := ⟨2, 2⟩
def CfgScrubCtrl.par : Fld := ⟨31, 1⟩
def Rg.cfgScrubCtrl : RegRow := ⟨0x9000010, [], [
    ⟨CfgScrubCtrl.en, .ro, 1, [.p, .h]⟩,
    ⟨CfgScrubCtrl.autoReload, .ro, 1, [.p, .h]⟩,
    ⟨CfgScrubCtrl.borderDef, .ro, 0, [.p, .h]⟩,
    ⟨CfgScrubCtrl.par, .ro, 0, [.p, .h]⟩]⟩

/-- CFG_SCRUB_STS, 08_configuration.md. -/
def Csr.cfgScrubSts (d : Nat) : Nat := csrAddr d (0x9000014)
def CfgScrubSts.frame : Fld := ⟨0, 15⟩
def CfgScrubSts.passes : Fld := ⟨16, 8⟩
def CfgScrubSts.skips : Fld := ⟨24, 8⟩
def Rg.cfgScrubSts : RegRow := ⟨0x9000014, [], [
    ⟨CfgScrubSts.frame, .ro, 0, [.p, .h, .d]⟩,
    ⟨CfgScrubSts.passes, .ro, 0, [.p, .h, .d]⟩,
    ⟨CfgScrubSts.skips, .ro, 0, [.p, .h, .d]⟩]⟩

/-- CFG_SCRUB_CNT, 08_configuration.md. -/
def Csr.cfgScrubCnt (d : Nat) : Nat := csrAddr d (0x9000018)
def CfgScrubCnt.corr : Fld := ⟨0, 16⟩
def CfgScrubCnt.uncorr : Fld := ⟨16, 16⟩
def Rg.cfgScrubCnt : RegRow := ⟨0x9000018, [], [
    ⟨CfgScrubCnt.corr, .rc, 0, [.p, .h, .d]⟩,
    ⟨CfgScrubCnt.uncorr, .rc, 0, [.p, .h, .d]⟩]⟩

/-- CFG_SCRUB_LOG, 08_configuration.md. -/
def Csr.cfgScrubLog (d : Nat) : Nat := csrAddr d (0x900001C)
def CfgScrubLog.frame : Fld := ⟨0, 15⟩
def CfgScrubLog.valid : Fld := ⟨31, 1⟩
def Rg.cfgScrubLog : RegRow := ⟨0x900001C, [], [
    ⟨CfgScrubLog.frame, .ro, 0, [.p, .h, .d]⟩,
    ⟨CfgScrubLog.valid, .w1c, 0, [.p, .h, .d]⟩]⟩

/-- CFG_SWAP_CNT, 08_configuration.md. -/
def Csr.cfgSwapCnt (d : Nat) : Nat := csrAddr d (0x9000020)
def CfgSwapCnt.swaps : Fld := ⟨0, 16⟩
def CfgSwapCnt.reachSwaps : Fld := ⟨16, 16⟩
def Rg.cfgSwapCnt : RegRow := ⟨0x9000020, [], [
    ⟨CfgSwapCnt.swaps, .rc, 0, [.p, .h, .d]⟩,
    ⟨CfgSwapCnt.reachSwaps, .rc, 0, [.p, .h, .d]⟩]⟩

/-- CFG_LAST_PAUSE, 08_configuration.md. -/
def Csr.cfgLastPause (d : Nat) : Nat := csrAddr d (0x9000024)
def CfgLastPause.device : Fld := ⟨0, 16⟩
def CfgLastPause.reach : Fld := ⟨16, 16⟩
def Rg.cfgLastPause : RegRow := ⟨0x9000024, [], [
    ⟨CfgLastPause.device, .ro, 0, [.p, .h, .d]⟩,
    ⟨CfgLastPause.reach, .ro, 0, [.p, .h, .d]⟩]⟩

/-- CFG_DISCARD_CNT, 08_configuration.md. -/
def Csr.cfgDiscardCnt (d : Nat) : Nat := csrAddr d (0x9000028)
def CfgDiscardCnt.beats : Fld := ⟨0, 32⟩
def Rg.cfgDiscardCnt : RegRow := ⟨0x9000028, [], [
    ⟨CfgDiscardCnt.beats, .rc, 0, [.p, .h, .d]⟩]⟩

/-- CFG_REPAIR_CNT, 08_configuration.md. -/
def Csr.cfgRepairCnt (d : Nat) : Nat := csrAddr d (0x900002C)
def CfgRepairCnt.ctrl : Fld := ⟨0, 16⟩
def Rg.cfgRepairCnt : RegRow := ⟨0x900002C, [], [
    ⟨CfgRepairCnt.ctrl, .rc, 0, [.p, .h, .d]⟩]⟩

/-- FAB_PATCH_SRC, 08_configuration.md. -/
def Csr.fabPatchSrc (d : Nat) : Nat := csrAddr d (0xA070000)
def FabPatchSrc.bank : Fld := ⟨0, 6⟩
def FabPatchSrc.word : Fld := ⟨6, 14⟩
def Rg.fabPatchSrc : RegRow := ⟨0xA070000, [], [
    ⟨FabPatchSrc.bank, .rw, 0, [.p, .h, .d]⟩,
    ⟨FabPatchSrc.word, .rw, 0, [.p, .h, .d]⟩]⟩

/-- FAB_PATCH_LEN, 08_configuration.md. -/
def Csr.fabPatchLen (d : Nat) : Nat := csrAddr d (0xA070004)
def FabPatchLen.len : Fld := ⟨0, 19⟩
def Rg.fabPatchLen : RegRow := ⟨0xA070004, [], [
    ⟨FabPatchLen.len, .rw, 0, [.p, .h, .d]⟩]⟩

/-- FAB_PATCH_CTRL, 08_configuration.md. -/
def Csr.fabPatchCtrl (d : Nat) : Nat := csrAddr d (0xA070008)
def FabPatchCtrl.reach : Fld := ⟨0, 4⟩
def FabPatchCtrl.go : Fld := ⟨31, 1⟩
def Rg.fabPatchCtrl : RegRow := ⟨0xA070008, [], [
    ⟨FabPatchCtrl.reach, .rw, 0, [.p, .h, .d]⟩,
    ⟨FabPatchCtrl.go, .wo, 0, []⟩]⟩

/-- FAB_PATCH_STS, 08_configuration.md. -/
def Csr.fabPatchSts (d : Nat) : Nat := csrAddr d (0xA07000C)
def FabPatchSts.status : Fld := ⟨0, 8⟩
def FabPatchSts.busy : Fld := ⟨8, 1⟩
def FabPatchSts.frame : Fld := ⟨9, 11⟩
def Rg.fabPatchSts : RegRow := ⟨0xA07000C, [], [
    ⟨FabPatchSts.status, .ro, 0, [.p, .h, .d]⟩,
    ⟨FabPatchSts.busy, .ro, 0, [.p, .h, .d]⟩,
    ⟨FabPatchSts.frame, .ro, 0, [.p, .h, .d]⟩]⟩

/-- MB_INFO, 09_steward_and_towpath.md. -/
def Csr.mbInfo : Nat := csrAddr stw (0x4000000)
def MbInfo.mailboxes : Fld := ⟨0, 4⟩
def MbInfo.format : Fld := ⟨8, 8⟩
def MbInfo.ready : Fld := ⟨16, 1⟩
def MbInfo.recovery : Fld := ⟨17, 1⟩
def Rg.mbInfo : RegRow := ⟨0x4000000, [], [
    ⟨MbInfo.mailboxes, .ro, 8, []⟩,
    ⟨MbInfo.format, .ro, 1, []⟩,
    ⟨MbInfo.ready, .ro, 0, [.p, .h, .s]⟩,
    ⟨MbInfo.recovery, .ro, 0, [.p, .h, .s]⟩]⟩

/-- MB_NTC_PROD, 09_steward_and_towpath.md. -/
def Csr.mbNtcProd : Nat := csrAddr stw (0x4000010)
def MbNtcProd.prod : Fld := ⟨0, 9⟩
def Rg.mbNtcProd : RegRow := ⟨0x4000010, [], [
    ⟨MbNtcProd.prod, .ro, 0, [.p, .h, .s, .g]⟩]⟩

/-- MB_NTC_CONS, 09_steward_and_towpath.md. -/
def Csr.mbNtcCons : Nat := csrAddr stw (0x4000014)
def MbNtcCons.cons : Fld := ⟨0, 9⟩
def Rg.mbNtcCons : RegRow := ⟨0x4000014, [], [
    ⟨MbNtcCons.cons, .rw, 0, [.p, .h, .s, .g]⟩]⟩

/-- MB_NTC_CTRL, 09_steward_and_towpath.md. -/
def Csr.mbNtcCtrl : Nat := csrAddr stw (0x4000018)
def MbNtcCtrl.en : Fld := ⟨0, 1⟩
def Rg.mbNtcCtrl : RegRow := ⟨0x4000018, [], [
    ⟨MbNtcCtrl.en, .rw, 0, [.p, .h, .s, .g]⟩]⟩

/-- MB_NTC_LOST, 09_steward_and_towpath.md. -/
def Csr.mbNtcLost : Nat := csrAddr stw (0x400001C)
def MbNtcLost.lost : Fld := ⟨0, 32⟩
def Rg.mbNtcLost : RegRow := ⟨0x400001C, [], [
    ⟨MbNtcLost.lost, .rc, 0, [.p, .h, .s, .g]⟩]⟩

/-- MB_DOORBELL, 09_steward_and_towpath.md. -/
def Csr.mbDoorbell (k : Nat) : Nat := csrAddr stw (0x4020000 + 0x4000 * k)
def MbDoorbell.go : Fld := ⟨0, 1⟩
def Rg.mbDoorbell : RegRow := ⟨0x4020000, [(8, 0x4000)], [
    ⟨MbDoorbell.go, .wo, 0, []⟩]⟩

/-- MB_STS, 09_steward_and_towpath.md. -/
def Csr.mbSts (k : Nat) : Nat := csrAddr stw (0x4020004 + 0x4000 * k)
def MbSts.busy : Fld := ⟨0, 1⟩
def MbSts.done : Fld := ⟨1, 1⟩
def MbSts.overrun : Fld := ⟨2, 1⟩
def Rg.mbSts : RegRow := ⟨0x4020004, [(8, 0x4000)], [
    ⟨MbSts.busy, .ro, 0, [.p, .h, .s, .g]⟩,
    ⟨MbSts.done, .w1c, 0, [.p, .h, .s, .g]⟩,
    ⟨MbSts.overrun, .w1c, 0, [.p, .h, .s, .g]⟩]⟩

/-- ND_STS, 09_steward_and_towpath.md. -/
def Csr.ndSts : Nat := csrAddr stw (0x5000000)
def NdSts.fillLvl : Fld := ⟨0, 9⟩
def NdSts.drainLvl : Fld := ⟨9, 9⟩
def NdSts.drainBank : Fld := ⟨18, 1⟩
def Rg.ndSts : RegRow := ⟨0x5000000, [], [
    ⟨NdSts.fillLvl, .ro, 0, [.p, .h]⟩,
    ⟨NdSts.drainLvl, .ro, 0, [.p, .h]⟩,
    ⟨NdSts.drainBank, .ro, 1, [.p, .h]⟩]⟩

/-- ND_CNT, 09_steward_and_towpath.md. -/
def Csr.ndCnt : Nat := csrAddr stw (0x5000004)
def NdCnt.lost : Fld := ⟨0, 16⟩
def NdCnt.parity : Fld := ⟨16, 16⟩
def Rg.ndCnt : RegRow := ⟨0x5000004, [], [
    ⟨NdCnt.lost, .rc, 0, [.p, .h]⟩,
    ⟨NdCnt.parity, .rc, 0, [.p, .h]⟩]⟩

/-- ND_DELIV_CNT, 09_steward_and_towpath.md. -/
def Csr.ndDelivCnt : Nat := csrAddr stw (0x5000008)
def NdDelivCnt.popped : Fld := ⟨0, 32⟩
def Rg.ndDelivCnt : RegRow := ⟨0x5000008, [], [
    ⟨NdDelivCnt.popped, .rc, 0, [.p, .h]⟩]⟩

/-- ND_QDROP_CNT, 09_steward_and_towpath.md. -/
def Csr.ndQdropCnt (j : Nat) : Nat := csrAddr stw (0x5000010 + 0x4 * j)
def NdQdropCnt.dropped : Fld := ⟨0, 16⟩
def Rg.ndQdropCnt : RegRow := ⟨0x5000010, [(9, 0x4)], [
    ⟨NdQdropCnt.dropped, .rc, 0, [.p, .h]⟩]⟩

/-- TOW_CTRL, 09_steward_and_towpath.md. -/
def Csr.towCtrl : Nat := csrAddr stw (0x3000000)
def TowCtrl.syncEn : Fld := ⟨0, 1⟩
def Rg.towCtrl : RegRow := ⟨0x3000000, [], [
    ⟨TowCtrl.syncEn, .rw, 1, [.p, .t]⟩]⟩

/-- TOW_STS, 09_steward_and_towpath.md. -/
def Csr.towSts : Nat := csrAddr stw (0x3000004)
def TowSts.inUp : Fld := ⟨0, 1⟩
def TowSts.outUp : Fld := ⟨1, 1⟩
def TowSts.inXswap : Fld := ⟨2, 1⟩
def TowSts.outXswap : Fld := ⟨3, 1⟩
def TowSts.reversed : Fld := ⟨4, 1⟩
def TowSts.enumDone : Fld := ⟨5, 1⟩
def TowSts.msSync : Fld := ⟨6, 1⟩
def TowSts.lineMode : Fld := ⟨7, 1⟩
def TowSts.addr : Fld := ⟨8, 8⟩
def TowSts.size : Fld := ⟨16, 8⟩
def TowSts.head : Fld := ⟨24, 1⟩
def TowSts.headDeferred : Fld := ⟨25, 1⟩
def Rg.towSts : RegRow := ⟨0x3000004, [], [
    ⟨TowSts.inUp, .ro, 0, [.p, .t]⟩,
    ⟨TowSts.outUp, .ro, 0, [.p, .t]⟩,
    ⟨TowSts.inXswap, .ro, 0, [.p, .t]⟩,
    ⟨TowSts.outXswap, .ro, 0, [.p, .t]⟩,
    ⟨TowSts.reversed, .ro, 0, [.p, .t]⟩,
    ⟨TowSts.enumDone, .ro, 0, [.p, .t]⟩,
    ⟨TowSts.msSync, .ro, 0, [.p, .t]⟩,
    ⟨TowSts.lineMode, .ro, 0, [.p, .t]⟩,
    ⟨TowSts.addr, .ro, 0xff, [.p, .t]⟩,
    ⟨TowSts.size, .ro, 0, [.p, .t]⟩,
    ⟨TowSts.head, .ro, 0, [.p]⟩,
    ⟨TowSts.headDeferred, .ro, 0, [.p, .t]⟩]⟩

/-- TOW_MS_OFS_LO, 09_steward_and_towpath.md. -/
def Csr.towMsOfsLo : Nat := csrAddr stw (0x3000008)
def TowMsOfsLo.ofs : Fld := ⟨0, 32⟩
def Rg.towMsOfsLo : RegRow := ⟨0x3000008, [], [
    ⟨TowMsOfsLo.ofs, .ro, 0, [.p, .t]⟩]⟩

/-- TOW_MS_OFS_HI, 09_steward_and_towpath.md. -/
def Csr.towMsOfsHi : Nat := csrAddr stw (0x300000C)
def TowMsOfsHi.ofs : Fld := ⟨0, 32⟩
def Rg.towMsOfsHi : RegRow := ⟨0x300000C, [], [
    ⟨TowMsOfsHi.ofs, .ro, 0, [.p, .t]⟩]⟩

/-- TOW_MS_ERR, 09_steward_and_towpath.md. -/
def Csr.towMsErr : Nat := csrAddr stw (0x3000010)
def TowMsErr.theta : Fld := ⟨0, 16⟩
def Rg.towMsErr : RegRow := ⟨0x3000010, [], [
    ⟨TowMsErr.theta, .ro, 0, [.p, .t]⟩]⟩

/-- TOW_CNT, 09_steward_and_towpath.md. -/
def Csr.towCnt : Nat := csrAddr stw (0x3000014)
def TowCnt.retries : Fld := ⟨0, 16⟩
def TowCnt.downs : Fld := ⟨16, 16⟩
def Rg.towCnt : RegRow := ⟨0x3000014, [], [
    ⟨TowCnt.retries, .rc, 0, [.p, .t]⟩,
    ⟨TowCnt.downs, .rc, 0, [.p, .t]⟩]⟩

/-- TOW_RELAY_CNT, 09_steward_and_towpath.md. -/
def Csr.towRelayCnt : Nat := csrAddr stw (0x3000018)
def TowRelayCnt.frames : Fld := ⟨0, 32⟩
def Rg.towRelayCnt : RegRow := ⟨0x3000018, [], [
    ⟨TowRelayCnt.frames, .rc, 0, [.p, .t]⟩]⟩

/-- FL_KEY, 10_flash.md. -/
def Csr.flKey : Nat := csrAddr stw (0x0000000)
def FlKey.key : Fld := ⟨0, 32⟩
def Rg.flKey : RegRow := ⟨0x0000000, [], [
    ⟨FlKey.key, .wo, 0, []⟩]⟩

/-- FL_CMD, 10_flash.md. -/
def Csr.flCmd : Nat := csrAddr stw (0x0000004)
def FlCmd.cmd : Fld := ⟨0, 4⟩
def Rg.flCmd : RegRow := ⟨0x0000004, [], [
    ⟨FlCmd.cmd, .rw, 0, [.p, .h]⟩]⟩

/-- FL_ADDR, 10_flash.md. -/
def Csr.flAddr : Nat := csrAddr stw (0x0000008)
def FlAddr.addr : Fld := ⟨0, 27⟩
def Rg.flAddr : RegRow := ⟨0x0000008, [], [
    ⟨FlAddr.addr, .rw, 0, [.p, .h]⟩]⟩

/-- FL_DATA_LO, 10_flash.md. -/
def Csr.flDataLo : Nat := csrAddr stw (0x000000C)
def FlDataLo.data : Fld := ⟨0, 32⟩
def Rg.flDataLo : RegRow := ⟨0x000000C, [], [
    ⟨FlDataLo.data, .rw, 0, [.p, .h]⟩]⟩

/-- FL_DATA_HI, 10_flash.md. -/
def Csr.flDataHi : Nat := csrAddr stw (0x0000010)
def FlDataHi.data : Fld := ⟨0, 32⟩
def Rg.flDataHi : RegRow := ⟨0x0000010, [], [
    ⟨FlDataHi.data, .rw, 0, [.p, .h]⟩]⟩

/-- FL_CTRL, 10_flash.md. -/
def Csr.flCtrl : Nat := csrAddr stw (0x0000014)
def FlCtrl.suspend : Fld := ⟨0, 1⟩
def FlCtrl.resume : Fld := ⟨1, 1⟩
def FlCtrl.ewThr : Fld := ⟨4, 3⟩
def Rg.flCtrl : RegRow := ⟨0x0000014, [], [
    ⟨FlCtrl.suspend, .w1s, 0, [.p, .h]⟩,
    ⟨FlCtrl.resume, .w1s, 0, [.p, .h]⟩,
    ⟨FlCtrl.ewThr, .rw, 2, [.p, .h]⟩]⟩

/-- FL_STS, 10_flash.md. -/
def Csr.flSts : Nat := csrAddr stw (0x0000018)
def FlSts.state : Fld := ⟨0, 3⟩
def FlSts.unlocked : Fld := ⟨3, 1⟩
def FlSts.autosusp : Fld := ⟨4, 1⟩
def FlSts.done : Fld := ⟨5, 1⟩
def FlSts.err : Fld := ⟨6, 4⟩
def FlSts.errv : Fld := ⟨10, 1⟩
def Rg.flSts : RegRow := ⟨0x0000018, [], [
    ⟨FlSts.state, .ro, 0, [.p, .h]⟩,
    ⟨FlSts.unlocked, .ro, 0, [.p, .h]⟩,
    ⟨FlSts.autosusp, .ro, 0, [.p, .h]⟩,
    ⟨FlSts.done, .w1c, 0, [.p, .h]⟩,
    ⟨FlSts.err, .ro, 0, [.p, .h]⟩,
    ⟨FlSts.errv, .w1c, 0, [.p, .h]⟩]⟩

/-- FL_PROT, 10_flash.md. -/
def Csr.flProt : Nat := csrAddr stw (0x000001C)
def FlProt.level : Fld := ⟨0, 2⟩
def FlProt.intent : Fld := ⟨2, 1⟩
def FlProt.fwRun : Fld := ⟨3, 1⟩
def FlProt.slotLock : Fld := ⟨4, 2⟩
def Rg.flProt : RegRow := ⟨0x000001C, [], [
    ⟨FlProt.level, .ro, 0, [.p, .h]⟩,
    ⟨FlProt.intent, .ro, 0, [.p, .h]⟩,
    ⟨FlProt.fwRun, .ro, 0, [.p, .h]⟩,
    ⟨FlProt.slotLock, .ro, 0, [.p, .h]⟩]⟩

/-- FL_FLAG_STS, 10_flash.md. -/
def Csr.flFlagSts : Nat := csrAddr stw (0x0000020)
def FlFlagSts.first : Fld := ⟨0, 15⟩
def FlFlagSts.pending : Fld := ⟨15, 1⟩
def FlFlagSts.count : Fld := ⟨16, 15⟩
def Rg.flFlagSts : RegRow := ⟨0x0000020, [], [
    ⟨FlFlagSts.first, .ro, 0, [.p, .h]⟩,
    ⟨FlFlagSts.pending, .ro, 0, [.p, .h]⟩,
    ⟨FlFlagSts.count, .ro, 0, [.p, .h]⟩]⟩

/-- FL_EW_CNT, 10_flash.md. -/
def Csr.flEwCnt : Nat := csrAddr stw (0x0000024)
def FlEwCnt.ew : Fld := ⟨0, 16⟩
def FlEwCnt.uncorr : Fld := ⟨16, 16⟩
def Rg.flEwCnt : RegRow := ⟨0x0000024, [], [
    ⟨FlEwCnt.ew, .rc, 0, [.p, .h]⟩,
    ⟨FlEwCnt.uncorr, .rc, 0, [.p, .h]⟩]⟩

/-- FL_CORR_CNT, 10_flash.md. -/
def Csr.flCorrCnt : Nat := csrAddr stw (0x0000028)
def FlCorrCnt.bits : Fld := ⟨0, 32⟩
def Rg.flCorrCnt : RegRow := ⟨0x0000028, [], [
    ⟨FlCorrCnt.bits, .rc, 0, [.p, .h]⟩]⟩

/-- FL_ECC_LOG, 10_flash.md. -/
def Csr.flEccLog : Nat := csrAddr stw (0x000002C)
def FlEccLog.line : Fld := ⟨0, 22⟩
def FlEccLog.req : Fld := ⟨22, 2⟩
def FlEccLog.valid : Fld := ⟨31, 1⟩
def Rg.flEccLog : RegRow := ⟨0x000002C, [], [
    ⟨FlEccLog.line, .ro, 0, [.p, .h]⟩,
    ⟨FlEccLog.req, .ro, 0, [.p, .h]⟩,
    ⟨FlEccLog.valid, .w1c, 0, [.p, .h]⟩]⟩

/-- FL_CACHE_CNT, 10_flash.md. -/
def Csr.flCacheCnt : Nat := csrAddr stw (0x0000030)
def FlCacheCnt.misses : Fld := ⟨0, 16⟩
def FlCacheCnt.inval : Fld := ⟨16, 16⟩
def Rg.flCacheCnt : RegRow := ⟨0x0000030, [], [
    ⟨FlCacheCnt.misses, .rc, 0, [.p, .h]⟩,
    ⟨FlCacheCnt.inval, .rc, 0, [.p, .h]⟩]⟩

/-- FL_BAD_STS, 10_flash.md. -/
def Csr.flBadSts : Nat := csrAddr stw (0x0000034)
def FlBadSts.field : Fld := ⟨0, 10⟩
def FlBadSts.factory : Fld := ⟨10, 5⟩
def FlBadSts.full : Fld := ⟨15, 1⟩
def Rg.flBadSts : RegRow := ⟨0x0000034, [], [
    ⟨FlBadSts.field, .ro, 0, [.p, .h]⟩,
    ⟨FlBadSts.factory, .ro, 0, [.p, .h]⟩,
    ⟨FlBadSts.full, .ro, 0, [.p, .h]⟩]⟩

/-- LC_STS, 11_lifecycle_and_debug.md. -/
def Csr.lcSts : Nat := csrAddr stw (0x2000000)
def LcSts.state : Fld := ⟨0, 8⟩
def LcSts.next : Fld := ⟨8, 8⟩
def LcSts.tokens : Fld := ⟨16, 3⟩
def LcSts.resumed : Fld := ⟨19, 1⟩
def LcSts.keys : Fld := ⟨20, 3⟩
def LcSts.jtagOpen : Fld := ⟨23, 1⟩
def Rg.lcSts : RegRow := ⟨0x2000000, [], [
    ⟨LcSts.state, .ro, 0, [.p, .h]⟩,
    ⟨LcSts.next, .ro, 0, [.p, .h]⟩,
    ⟨LcSts.tokens, .ro, 0, [.p, .h]⟩,
    ⟨LcSts.resumed, .ro, 0, [.p, .h]⟩,
    ⟨LcSts.keys, .ro, 0, [.p, .h]⟩,
    ⟨LcSts.jtagOpen, .ro, 0, [.p, .h]⟩]⟩

/-- LC_CNT, 11_lifecycle_and_debug.md. -/
def Csr.lcCnt : Nat := csrAddr stw (0x2000004)
def LcCnt.counter : Fld := ⟨0, 11⟩
def Rg.lcCnt : RegRow := ⟨0x2000004, [], [
    ⟨LcCnt.counter, .ro, 0, [.p, .h]⟩]⟩

/-- LC_HOST_RIGHTS, 11_lifecycle_and_debug.md. -/
def Csr.lcHostRights : Nat := csrAddr stw (0x2000008)
def LcHostRights.rights : Fld := ⟨0, 8⟩
def Rg.lcHostRights : RegRow := ⟨0x2000008, [], [
    ⟨LcHostRights.rights, .ro, 0, [.p]⟩]⟩

/-- LC_REFUSE_CNT, 11_lifecycle_and_debug.md. -/
def Csr.lcRefuseCnt : Nat := csrAddr stw (0x200000C)
def LcRefuseCnt.refused : Fld := ⟨0, 16⟩
def LcRefuseCnt.certFail : Fld := ⟨16, 16⟩
def Rg.lcRefuseCnt : RegRow := ⟨0x200000C, [], [
    ⟨LcRefuseCnt.refused, .rc, 0, [.p, .h]⟩,
    ⟨LcRefuseCnt.certFail, .rc, 0, [.p, .h]⟩]⟩

/-- OTP_STS, 11_lifecycle_and_debug.md. -/
def Csr.otpSts : Nat := csrAddr stw (0x2000010)
def OtpSts.busy : Fld := ⟨0, 1⟩
def OtpSts.word : Fld := ⟨1, 10⟩
def OtpSts.fail : Fld := ⟨11, 1⟩
def Rg.otpSts : RegRow := ⟨0x2000010, [], [
    ⟨OtpSts.busy, .ro, 0, [.p, .h]⟩,
    ⟨OtpSts.word, .ro, 0, [.p, .h]⟩,
    ⟨OtpSts.fail, .w1c, 0, [.p, .h]⟩]⟩

/-- OTP_RD_LO, 11_lifecycle_and_debug.md. -/
def Csr.otpRdLo (w : Nat) : Nat := csrAddr stw (0x2100000 + 0x8 * w)
def OtpRdLo.data : Fld := ⟨0, 32⟩
def Rg.otpRdLo : RegRow := ⟨0x2100000, [(1024, 0x8)], [
    ⟨OtpRdLo.data, .ro, 0, []⟩]⟩

/-- OTP_RD_HI, 11_lifecycle_and_debug.md. -/
def Csr.otpRdHi (w : Nat) : Nat := csrAddr stw (0x2100004 + 0x8 * w)
def OtpRdHi.data : Fld := ⟨0, 32⟩
def Rg.otpRdHi : RegRow := ⟨0x2100004, [(1024, 0x8)], [
    ⟨OtpRdHi.data, .ro, 0, []⟩]⟩

/-- GPIO_CFG, 12_pins_power_resets.md. -/
def Csr.gpioCfg (n : Nat) : Nat := csrAddr stw (0x1000000 + 0x4 * n)
def GpioCfg.pull : Fld := ⟨0, 2⟩
def GpioCfg.od : Fld := ⟨2, 1⟩
def GpioCfg.drive : Fld := ⟨3, 2⟩
def GpioCfg.slow : Fld := ⟨5, 1⟩
def Rg.gpioCfg : RegRow := ⟨0x1000000, [(32, 0x4)], [
    ⟨GpioCfg.pull, .rwl, 0, [.p, .h]⟩,
    ⟨GpioCfg.od, .rwl, 0, [.p, .h]⟩,
    ⟨GpioCfg.drive, .rwl, 1, [.p, .h]⟩,
    ⟨GpioCfg.slow, .rwl, 0, [.p, .h]⟩]⟩

/-- GPIO_OUT, 12_pins_power_resets.md. -/
def Csr.gpioOut : Nat := csrAddr stw (0x1000080)
def GpioOut.out : Fld := ⟨0, 32⟩
def Rg.gpioOut : RegRow := ⟨0x1000080, [], [
    ⟨GpioOut.out, .rw, 0, [.p, .h]⟩]⟩

/-- GPIO_OE, 12_pins_power_resets.md. -/
def Csr.gpioOe : Nat := csrAddr stw (0x1000084)
def GpioOe.oe : Fld := ⟨0, 32⟩
def Rg.gpioOe : RegRow := ⟨0x1000084, [], [
    ⟨GpioOe.oe, .rwl, 0, [.p, .h]⟩]⟩

/-- GPIO_IN, 12_pins_power_resets.md. -/
def Csr.gpioIn : Nat := csrAddr stw (0x1000088)
def GpioIn.inF : Fld := ⟨0, 32⟩
def Rg.gpioIn : RegRow := ⟨0x1000088, [], [
    ⟨GpioIn.inF, .ro, 0, [.p, .h]⟩]⟩

/-- GPIO_OWNER, 12_pins_power_resets.md. -/
def Csr.gpioOwner (k : Nat) : Nat := csrAddr stw (0x1000090 + 0x4 * k)
def GpioOwner.owner : Fld := ⟨0, 32⟩
def Rg.gpioOwner : RegRow := ⟨0x1000090, [(4, 0x4)], [
    ⟨GpioOwner.owner, .ro, 0, [.p, .h]⟩]⟩

/-- PIN_EN, 12_pins_power_resets.md. -/
def Csr.pinEn : Nat := csrAddr stw (0x1000100)
def PinEn.spi : Fld := ⟨0, 1⟩
def PinEn.tgt : Fld := ⟨1, 1⟩
def PinEn.avs : Fld := ⟨2, 1⟩
def PinEn.uart : Fld := ⟨3, 1⟩
def PinEn.uartLoc : Fld := ⟨4, 1⟩
def PinEn.psig : Fld := ⟨5, 1⟩
def PinEn.alrt : Fld := ⟨6, 1⟩
def Rg.pinEn : RegRow := ⟨0x1000100, [], [
    ⟨PinEn.spi, .rw, 0, [.p, .h]⟩,
    ⟨PinEn.tgt, .rw, 1, [.p, .h]⟩,
    ⟨PinEn.avs, .rw, 0, [.p, .h]⟩,
    ⟨PinEn.uart, .rw, 0, [.p, .h]⟩,
    ⟨PinEn.uartLoc, .rw, 0, [.p, .h]⟩,
    ⟨PinEn.psig, .rw, 0, [.p, .h]⟩,
    ⟨PinEn.alrt, .rw, 0, [.p, .h]⟩]⟩

/-- GPIO_LOCK_KEY, 12_pins_power_resets.md. -/
def Csr.gpioLockKey : Nat := csrAddr stw (0x1000104)
def GpioLockKey.key : Fld := ⟨0, 32⟩
def Rg.gpioLockKey : RegRow := ⟨0x1000104, [], [
    ⟨GpioLockKey.key, .wo, 0, []⟩]⟩

/-- GPIO_LOCK, 12_pins_power_resets.md. -/
def Csr.gpioLock : Nat := csrAddr stw (0x1000108)
def GpioLock.lock : Fld := ⟨0, 32⟩
def Rg.gpioLock : RegRow := ⟨0x1000108, [], [
    ⟨GpioLock.lock, .w1s, 0, [.p, .h]⟩]⟩

/-- GPIO_SHORT, 12_pins_power_resets.md. -/
def Csr.gpioShort : Nat := csrAddr stw (0x100010C)
def GpioShort.short : Fld := ⟨0, 32⟩
def Rg.gpioShort : RegRow := ⟨0x100010C, [], [
    ⟨GpioShort.short, .w1c, 0, [.p, .h]⟩]⟩

/-- GPIO_OPEN_SEL, 12_pins_power_resets.md. -/
def Csr.gpioOpenSel : Nat := csrAddr stw (0x1000110)
def GpioOpenSel.sel : Fld := ⟨0, 32⟩
def Rg.gpioOpenSel : RegRow := ⟨0x1000110, [], [
    ⟨GpioOpenSel.sel, .rw, 0, [.p, .h]⟩]⟩

/-- GPIO_OPEN_CTRL, 12_pins_power_resets.md. -/
def Csr.gpioOpenCtrl : Nat := csrAddr stw (0x1000114)
def GpioOpenCtrl.go : Fld := ⟨0, 1⟩
def GpioOpenCtrl.busy : Fld := ⟨1, 1⟩
def Rg.gpioOpenCtrl : RegRow := ⟨0x1000114, [], [
    ⟨GpioOpenCtrl.go, .wo, 0, []⟩,
    ⟨GpioOpenCtrl.busy, .ro, 0, [.p, .h]⟩]⟩

/-- GPIO_OPEN_RES, 12_pins_power_resets.md. -/
def Csr.gpioOpenRes : Nat := csrAddr stw (0x1000118)
def GpioOpenRes.openF : Fld := ⟨0, 32⟩
def Rg.gpioOpenRes : RegRow := ⟨0x1000118, [], [
    ⟨GpioOpenRes.openF, .ro, 0, [.p, .h]⟩]⟩

/-- PM_CFG, 12_pins_power_resets.md. -/
def Csr.pmCfg (m : Nat) : Nat := csrAddr stw (0x1000200 + 0x10 * m)
def PmCfg.mask : Fld := ⟨0, 8⟩
def PmCfg.value : Fld := ⟨8, 8⟩
def PmCfg.mode : Fld := ⟨16, 1⟩
def PmCfg.en : Fld := ⟨17, 1⟩
def PmCfg.wake : Fld := ⟨18, 1⟩
def PmCfg.deb : Fld := ⟨19, 8⟩
def Rg.pmCfg : RegRow := ⟨0x1000200, [(4, 0x10)], [
    ⟨PmCfg.mask, .rw, 0, [.p, .h]⟩,
    ⟨PmCfg.value, .rw, 0, [.p, .h]⟩,
    ⟨PmCfg.mode, .rw, 0, [.p, .h]⟩,
    ⟨PmCfg.en, .rw, 0, [.p, .h]⟩,
    ⟨PmCfg.wake, .rw, 0, [.p, .h]⟩,
    ⟨PmCfg.deb, .rw, 0, [.p, .h]⟩]⟩

/-- PM_PINS_LO, 12_pins_power_resets.md. -/
def Csr.pmPinsLo (m : Nat) : Nat := csrAddr stw (0x1000204 + 0x10 * m)
def PmPinsLo.sel : Fld := ⟨0, 30⟩
def Rg.pmPinsLo : RegRow := ⟨0x1000204, [(4, 0x10)], [
    ⟨PmPinsLo.sel, .rw, 0, [.p, .h]⟩]⟩

/-- PM_PINS_HI, 12_pins_power_resets.md. -/
def Csr.pmPinsHi (m : Nat) : Nat := csrAddr stw (0x1000208 + 0x10 * m)
def PmPinsHi.sel : Fld := ⟨0, 10⟩
def Rg.pmPinsHi : RegRow := ⟨0x1000208, [(4, 0x10)], [
    ⟨PmPinsHi.sel, .rw, 0, [.p, .h]⟩]⟩

/-- PM_STS, 12_pins_power_resets.md. -/
def Csr.pmSts : Nat := csrAddr stw (0x1000240)
def PmSts.hit : Fld := ⟨0, 4⟩
def PmSts.cond : Fld := ⟨4, 4⟩
def Rg.pmSts : RegRow := ⟨0x1000240, [], [
    ⟨PmSts.hit, .w1c, 0, [.p, .h]⟩,
    ⟨PmSts.cond, .ro, 0, [.p, .h]⟩]⟩

/-- UIO_SHORT, 12_pins_power_resets.md. -/
def Csr.uioShort (d : Nat) : Nat := csrAddr d (0xA080000)
def UioShort.short : Fld := ⟨0, 24⟩
def Rg.uioShort : RegRow := ⟨0xA080000, [], [
    ⟨UioShort.short, .w1c, 0, [.p, .h, .d]⟩]⟩

/-- UIO_OPEN_SEL, 12_pins_power_resets.md. -/
def Csr.uioOpenSel (d : Nat) : Nat := csrAddr d (0xA080004)
def UioOpenSel.sel : Fld := ⟨0, 24⟩
def Rg.uioOpenSel : RegRow := ⟨0xA080004, [], [
    ⟨UioOpenSel.sel, .rw, 0, [.p, .h, .d]⟩]⟩

/-- UIO_OPEN_RES, 12_pins_power_resets.md. -/
def Csr.uioOpenRes (d : Nat) : Nat := csrAddr d (0xA08000C)
def UioOpenRes.openF : Fld := ⟨0, 24⟩
def Rg.uioOpenRes : RegRow := ⟨0xA08000C, [], [
    ⟨UioOpenRes.openF, .ro, 0, [.p, .h, .d, .q]⟩]⟩

/-- UIO_OPEN_CTRL, 12_pins_power_resets.md. -/
def Csr.uioOpenCtrl (d : Nat) : Nat := csrAddr d (0xA080008)
def UioOpenCtrl.go : Fld := ⟨0, 1⟩
def UioOpenCtrl.busy : Fld := ⟨1, 1⟩
def Rg.uioOpenCtrl : RegRow := ⟨0xA080008, [], [
    ⟨UioOpenCtrl.go, .wo, 0, []⟩,
    ⟨UioOpenCtrl.busy, .ro, 0, [.p, .h, .d]⟩]⟩

/-- PWR_STS, 12_pins_power_resets.md. -/
def Csr.pwrSts : Nat := csrAddr stw (0x7000000)
def PwrSts.state : Fld := ⟨0, 2⟩
def PwrSts.dieOn : Fld := ⟨2, 8⟩
def PwrSts.tripped : Fld := ⟨10, 8⟩
def PwrSts.railWait : Fld := ⟨18, 1⟩
def Rg.pwrSts : RegRow := ⟨0x7000000, [], [
    ⟨PwrSts.state, .ro, 1, [.p, .h]⟩,
    ⟨PwrSts.dieOn, .ro, 0, [.p, .h]⟩,
    ⟨PwrSts.tripped, .ro, 0, [.p, .h]⟩,
    ⟨PwrSts.railWait, .ro, 0, [.p, .h]⟩]⟩

/-- PWR_RST_CAUSE, 12_pins_power_resets.md. -/
def Csr.pwrRstCause : Nat := csrAddr stw (0x7000004)
def PwrRstCause.por : Fld := ⟨0, 1⟩
def PwrRstCause.hotPin : Fld := ⟨1, 1⟩
def PwrRstCause.hotMsg : Fld := ⟨2, 1⟩
def PwrRstCause.wdt : Fld := ⟨3, 1⟩
def PwrRstCause.sMsg : Fld := ⟨4, 1⟩
def PwrRstCause.tow : Fld := ⟨5, 1⟩
def PwrRstCause.trip : Fld := ⟨6, 8⟩
def PwrRstCause.coreUv : Fld := ⟨14, 8⟩
def Rg.pwrRstCause : RegRow := ⟨0x7000004, [], [
    ⟨PwrRstCause.por, .w1c, 1, [.p]⟩,
    ⟨PwrRstCause.hotPin, .w1c, 0, [.p]⟩,
    ⟨PwrRstCause.hotMsg, .w1c, 0, [.p]⟩,
    ⟨PwrRstCause.wdt, .w1c, 0, [.p]⟩,
    ⟨PwrRstCause.sMsg, .w1c, 0, [.p]⟩,
    ⟨PwrRstCause.tow, .w1c, 0, [.p]⟩,
    ⟨PwrRstCause.trip, .w1c, 0, [.p]⟩,
    ⟨PwrRstCause.coreUv, .w1c, 0, [.p]⟩]⟩

/-- PWR_GATE, 12_pins_power_resets.md. -/
def Csr.pwrGate (d : Nat) : Nat := csrAddr stw (0x7000010 + 0x4 * d)
def PwrGate.gated : Fld := ⟨0, 16⟩
def Rg.pwrGate : RegRow := ⟨0x7000010, [(8, 0x4)], [
    ⟨PwrGate.gated, .ro, 0, [.p, .h]⟩]⟩

/-- PWR_VCORE, 12_pins_power_resets.md. -/
def Csr.pwrVcore (d : Nat) : Nat := csrAddr stw (0x7000030 + 0x4 * d)
def PwrVcore.target : Fld := ⟨0, 10⟩
def PwrVcore.ack : Fld := ⟨10, 1⟩
def PwrVcore.fault : Fld := ⟨11, 1⟩
def Rg.pwrVcore : RegRow := ⟨0x7000030, [(8, 0x4)], [
    ⟨PwrVcore.target, .ro, 0x320, [.p, .h]⟩,
    ⟨PwrVcore.ack, .ro, 0, [.p, .h]⟩,
    ⟨PwrVcore.fault, .ro, 0, [.p, .h]⟩]⟩

/-- BIST_STS, 13_self_test.md. -/
def Csr.bistSts (d : Nat) : Nat := csrAddr d (0xD000000)
def BistSts.busy : Fld := ⟨0, 1⟩
def BistSts.result : Fld := ⟨1, 4⟩
def Rg.bistSts : RegRow := ⟨0xD000000, [], [
    ⟨BistSts.busy, .ro, 0, [.p, .h]⟩,
    ⟨BistSts.result, .ro, 0, [.p, .h, .d]⟩]⟩

/-- BIST_MISR, 13_self_test.md. -/
def Csr.bistMisr (d k : Nat) : Nat := csrAddr d (0xD000010 + 0x4 * k)
def BistMisr.misr : Fld := ⟨0, 32⟩
def Rg.bistMisr : RegRow := ⟨0xD000010, [(4, 0x4)], [
    ⟨BistMisr.misr, .ro, 0, [.p, .h, .d]⟩]⟩

/-- BIST_EXP, 13_self_test.md. -/
def Csr.bistExp (d k : Nat) : Nat := csrAddr d (0xD000020 + 0x4 * k)
def BistExp.exp : Fld := ⟨0, 32⟩
def Rg.bistExp : RegRow := ⟨0xD000020, [(4, 0x4)], [
    ⟨BistExp.exp, .ro, 0, [.p, .h, .d]⟩]⟩

/-- The registers of each block of a logic die (00 Table 00-4). -/
def logicRows : Nat → List RegRow
  | 0 => [Rg.gwMode,
      Rg.gwRole,
      Rg.gwReplayThr,
      Rg.gwLinkSts,
      Rg.gwErr,
      Rg.gwCnt,
      Rg.gwPoisonCnt]
  | 1 => [Rg.gwMode,
      Rg.gwRole,
      Rg.gwReplayThr,
      Rg.gwLinkSts,
      Rg.gwErr,
      Rg.gwCnt,
      Rg.gwPoisonCnt]
  | 2 => [Rg.hgMatchVal,
      Rg.hgMatchMask,
      Rg.hgMatchAct,
      Rg.hgDefault,
      Rg.hgMeter,
      Rg.hgBucket,
      Rg.hgHoldCnt,
      Rg.xbPid,
      Rg.xbBus,
      Rg.xbAddrW0,
      Rg.xbAddrW1,
      Rg.xbAddrW2,
      Rg.xbAddrW3,
      Rg.xbCredit,
      Rg.sluSts,
      Rg.sluLockCnt,
      Rg.sluFabCost]
  | 3 => [Rg.cvCtrl,
      Rg.cvSts,
      Rg.cvEccCnt]
  | 4 => [Rg.dirCtrl,
      Rg.dirWin,
      Rg.dirShareEnLo,
      Rg.dirShareEnHi,
      Rg.dirMemEvt,
      Rg.dirSts,
      Rg.dirPortDownLo,
      Rg.dirPortDownHi,
      Rg.dirRaceCnt,
      Rg.dirStrayCnt,
      Rg.dirEccCnt,
      Rg.dirEccLog,
      Rg.dirWaitCnt,
      Rg.dirLostCnt,
      Rg.dirSetCnt]
  | 5 => [Rg.engCtrl,
      Rg.engSts,
      Rg.engSpill,
      Rg.engFault,
      Rg.engCnt,
      Rg.engHsSel,
      Rg.engHsData,
      Rg.engDbgSel,
      Rg.engDbgData,
      Rg.engLockSts,
      Rg.engMiscCnt,
      Rg.engEccCnt]
  | 6 => [Rg.schCtrl,
      Rg.schSts,
      Rg.schDispCnt,
      Rg.schCnt,
      Rg.schAffCnt,
      Rg.taskW0,
      Rg.taskW1,
      Rg.taskW2,
      Rg.taskW3]
  | 7 => [Rg.bankCtrl,
      Rg.bankBtMaskLo,
      Rg.bankBtMaskHi,
      Rg.bankSts,
      Rg.bankBtCnt,
      Rg.bankBtLog,
      Rg.bankEccCnt,
      Rg.bankEccLog,
      Rg.bankMiscCnt,
      Rg.bankTwinCnt,
      Rg.bankConf0,
      Rg.bankConf1,
      Rg.bankInfo]
  | 8 => [Rg.dqCtrl,
      Rg.dqWeir,
      Rg.dqIdleLo,
      Rg.dqIdleHi,
      Rg.dqSts,
      Rg.dqFlags,
      Rg.dqCnt,
      Rg.dqErrCnt]
  | 9 => [Rg.cfgSts,
      Rg.cfgReachSts,
      Rg.cfgPatchable,
      Rg.cfgVer,
      Rg.cfgScrubCtrl,
      Rg.cfgScrubSts,
      Rg.cfgScrubCnt,
      Rg.cfgScrubLog,
      Rg.cfgSwapCnt,
      Rg.cfgLastPause,
      Rg.cfgDiscardCnt,
      Rg.cfgRepairCnt]
  | 10 => [Rg.fabPllCtrl,
      Rg.fabPllSts,
      Rg.reachCtrl,
      Rg.reachSts,
      Rg.fabIrwSel,
      Rg.fabIrwLo,
      Rg.fabIrwHi,
      Rg.fabIrwSts,
      Rg.uioCtrl,
      Rg.uioDly,
      Rg.uioSts,
      Rg.roscCtrl,
      Rg.roscCnt,
      Rg.uspCtrl,
      Rg.uspDiv,
      Rg.uspTx,
      Rg.uspRx,
      Rg.uspSts,
      Rg.ufwSts,
      Rg.ufwCnt,
      Rg.fabPatchSrc,
      Rg.fabPatchLen,
      Rg.fabPatchCtrl,
      Rg.fabPatchSts,
      Rg.uioShort,
      Rg.uioOpenSel,
      Rg.uioOpenRes,
      Rg.uioOpenCtrl]
  | 11 => [Rg.pmuAllotCfg,
      Rg.pmuTemp,
      Rg.pmuTempMax,
      Rg.pmuAllot,
      Rg.pmuGateCnt]
  | 12 => [Rg.msLo,
      Rg.msHi,
      Rg.msSts,
      Rg.msAdjCnt]
  | 13 => [Rg.bistSts,
      Rg.bistMisr,
      Rg.bistExp]
  | _ => []

/-- The registers of each block of the Steward die (00 Table 00-4). -/
def stwRows : Nat → List RegRow
  | 0 => [Rg.flKey,
      Rg.flCmd,
      Rg.flAddr,
      Rg.flDataLo,
      Rg.flDataHi,
      Rg.flCtrl,
      Rg.flSts,
      Rg.flProt,
      Rg.flFlagSts,
      Rg.flEwCnt,
      Rg.flCorrCnt,
      Rg.flEccLog,
      Rg.flCacheCnt,
      Rg.flBadSts]
  | 1 => [Rg.gpioCfg,
      Rg.gpioOut,
      Rg.gpioOe,
      Rg.gpioIn,
      Rg.gpioOwner,
      Rg.pinEn,
      Rg.gpioLockKey,
      Rg.gpioLock,
      Rg.gpioShort,
      Rg.gpioOpenSel,
      Rg.gpioOpenCtrl,
      Rg.gpioOpenRes,
      Rg.pmCfg,
      Rg.pmPinsLo,
      Rg.pmPinsHi,
      Rg.pmSts]
  | 2 => [Rg.lcSts,
      Rg.lcCnt,
      Rg.lcHostRights,
      Rg.lcRefuseCnt,
      Rg.otpSts,
      Rg.otpRdLo,
      Rg.otpRdHi]
  | 3 => [Rg.towCtrl,
      Rg.towSts,
      Rg.towMsOfsLo,
      Rg.towMsOfsHi,
      Rg.towMsErr,
      Rg.towCnt,
      Rg.towRelayCnt]
  | 4 => [Rg.mbInfo,
      Rg.mbNtcProd,
      Rg.mbNtcCons,
      Rg.mbNtcCtrl,
      Rg.mbNtcLost,
      Rg.mbDoorbell,
      Rg.mbSts]
  | 5 => [Rg.ndSts,
      Rg.ndCnt,
      Rg.ndDelivCnt,
      Rg.ndQdropCnt]
  | 7 => [Rg.pwrSts,
      Rg.pwrRstCause,
      Rg.pwrGate,
      Rg.pwrVcore]
  | _ => []

/-- Whether the offset remainder `q` lies on the grid of the dimensions. -/
def onGrid : List (Nat × Nat) → Nat → Bool
  | [], q => q == 0
  | (n, st) :: rest, q => q / st < n && onGrid rest (q % st)

/-- The indexes of an offset remainder along the dimensions, outermost first. -/
def gridIdx : List (Nat × Nat) → Nat → List Nat
  | [], _ => []
  | (_, st) :: rest, q => q / st :: gridIdx rest (q % st)

def RegRow.hit (r : RegRow) (off : Nat) : Bool := r.base ≤ off && onGrid r.dims (off - r.base)

/-- The rows of the block an address selects: die digits 0 to 7 are logic dies, 0xF is the Steward, others select
nothing (00 R10). -/
def rowsOf (a : Nat) : List RegRow :=
  let d := a / 0x10000000
  let b := a / 0x1000000 % 16
  if d < 8 then logicRows b else if d == 15 then stwRows b else []

/-- The register row of a word-aligned address. -/
def findRow (a : Nat) : Option RegRow := (rowsOf a).find? (·.hit (a % 0x10000000))

def RegRow.resetNat (r : RegRow) : Nat := r.fields.foldl (fun n f => n + f.reset * 2 ^ f.fld.lo) 0

/-- XB_CREDIT reset values (01 Table 01-7): endpoints 0-7 the local ports, 8-10 the culvert ports W, E, V, 11 the
directory, 12 the scheduler, 13-20 the engine clusters, 21 the bank DMA; channels 0 REQ, 1 RSP, 2 SNP, 3 DAT, 4 ESC. -/
def creditReset (e v : Nat) : Nat :=
  if e < 8 then (match v with | 3 => 64 | 4 => 4 | _ => 32)
  else if e < 11 then (match v with | 3 => 128 | 4 => 8 | _ => 48)
  else if e == 11 then (match v with | 4 => 4 | _ => 32)
  else if e == 12 then (match v with | 3 => 128 | 4 => 4 | _ => 64)
  else if e < 21 then (match v with | 3 => 32 | 4 => 4 | _ => 16)
  else (match v with | 3 => 64 | 4 => 4 | _ => 16)

/-- The value a CSR address holds after reset (00 R12), zero where no register stands. -/
def resetOf (a : Nat) : Word :=
  match findRow a with
  | none => 0
  | some r =>
    let off := a % 0x10000000
    if r.base == Rg.xbCredit.base then
      match gridIdx r.dims (off - r.base) with
      | [e, v] => BitVec.ofNat 32 (creditReset e v)
      | _ => 0
    else if r.base == Rg.bankInfo.base && a / 0x10000000 < 8 then
      match gridIdx r.dims (off - r.base) with
      | [b] => if 44 ≤ b then 2 else 0
      | _ => 0
    else BitVec.ofNat 32 r.resetNat

end Sys2Proof.Machine
end

