-- ==== Sys2Proof/Machine/State.lean ====
section
/-! DEFINITION. The state of the block: one plain record that holds every register, queue, buffer, counter, memory and
mode the spec gives the device, the queue of waiting commands, and the log of what leaves the device. Registers of the
register tables live in `csr`; every unit's other state has a field of its own. -/

namespace Sys2Proof.Machine

/-- No command of this block stops the machine: every error the spec names is a flag, a status, a notice or a
response. The one constructor is raised by no meaning and would be safe. -/
inductive Fault where
  /-- Raised by no command; present so that the type has a name for a stop. Safe. -/
  | none
  deriving DecidableEq, Repr

/-- Why a command has no next state. -/
inductive Refusal where
  /-- A command that is not modelled, by its mnemonic: raised by an arm of `exec` only. Safe. -/
  | notModelled (mnemonic : String)
  deriving DecidableEq, Repr

/-! ## The part -/

/-- The members of the family (00 Table 00-1). -/
inductive Member where
  | pv8_128 | pv8_064 | pv8_032
  deriving DecidableEq, Repr

/-- The part: member and speed grade (00 R2, R4). -/
structure Part where
  member : Member
  grade  : Nat
  deriving DecidableEq, Repr

/-! ## Flit path -/

/-- The credit types of a link (01 Table 01-5): posted, non-posted and completion of PCIe and CXL.io, and each message
channel of CXL.cache and CXL.mem. -/
inductive CreditType where
  | posted | nonPosted | completion
  | cacheReq | cacheRsp | cacheData | memReq | memRwD | memNdr | memDrs | biSnp | biRsp
  deriving DecidableEq, Repr

/-- A message in the crossbar with the die and endpoint it is routed to, and the number of its entry there (the model's
own, by which a fence knows what it covers, 03 R141). -/
structure XMsg where
  id  : Nat
  msg : Msg
  die : Nat
  ep  : Nat
  deriving DecidableEq, Repr

/-- What a sub-port keeps beside its registers (01 R24, R25, R56): the XRATE offers sent and received since L0, whether a
further 128 GT/s attempt is barred, and viral. -/
structure PortSt where
  offerOut  : Bool
  offerIn   : Bool
  barred    : Bool
  viral     : Bool
  deriving DecidableEq, Repr

/-- A protocol tag an egress shell put in place of a sender's own (03 R126). -/
structure TagRec where
  port : Nat
  tag  : Nat
  die  : Nat
  src  : Nat
  xtag : Nat
  ptag : Nat
  deriving DecidableEq, Repr

/-! ## Directory -/

/-- The request kinds of 02 Table 02-4; `memI` and `invI` and `wrI` are MemRd, MemInv and MemWr with MetaValue I, which
the directory decides at the start of the transaction (R72); `none` has no mapping. -/
inductive DKind where
  | rds | rdo | rdc | wri | evc | evd | memI | invI | wrI | none
  deriving DecidableEq, Repr

/-- A directory request with its race key (02 R86). -/
structure DirReq where
  msg   : Msg
  kind  : DKind
  noData : Bool
  addr  : Nat
  stamp : Int
  sdie  : Nat
  sidx  : Nat
  deriving DecidableEq, Repr

/-- A snoop of a transaction: target port, kind (SNI or SND), whether it was issued and answered, and its tag once
issued. -/
structure Snoop where
  port   : Nat
  tag    : Nat
  inval  : Bool
  issued : Bool
  done   : Bool
  addr   : Nat
  deriving DecidableEq, Repr

/-- An open transaction (02 R75, R80): its request as the start resolved it and as it was asked (R72, R87), the way it
holds with the entry that way held before, what the line was before (state, owner, sharers; 0 for a line without an entry),
whether it waits for a way, its victim's line, its snoops, what the snoops answered, and its memory read with its tag. -/
structure Txn where
  req     : DirReq
  asked   : DirReq
  rtag    : Nat
  way     : Nat
  old     : BitVec 64
  state   : Nat
  owner   : Nat
  sharers : Nat
  waitWay : Bool
  victim  : Option Nat
  snoops  : List Snoop
  keep    : Bool
  dirty   : Option (BitVec 512)
  dirtyPois : Bool
  memWait : Bool
  memData : Option (BitVec 512)
  memPois : Bool
  started : Nat
  deriving DecidableEq, Repr

/-- A response sent to a port for a line and not yet accepted by its egress (02 R79). -/
structure AccRec where
  die  : Nat
  port : Nat
  addr : Nat
  deriving DecidableEq, Repr

/-- A response of a replayed or ended transaction that is still to be absorbed (02 R87): its tag, its line's address, and the
port of the snoop that it answers, none for a memory read. -/
structure Orphan where
  die  : Nat
  xtag : Nat
  addr : Nat
  port : Option Nat
  deriving DecidableEq, Repr

/-- A port in the running walk (02 R82): sets still to cover, lines deferred to their next commit, and counts. -/
structure WalkPort where
  port    : Nat
  left    : Nat
  deferred : List Nat
  removed : Nat
  lost    : Nat
  deriving DecidableEq, Repr

/-- The port-down walk of a slice. -/
structure Walk where
  next  : Nat
  ports : List WalkPort
  deriving DecidableEq, Repr

/-! ## Engines -/

/-- A message with the event flag it came for and whether it carries an epoch (04 R155, R165). -/
structure InMsg where
  msg   : Msg
  flag  : Nat
  epoch : Option Nat
  fence : Bool
  deriving DecidableEq, Repr

/-- A response buffer (03 R125): its tag, the response when it has arrived, whether a WAITR has claimed it, whether the
request was a directory request, and whether it is an access to a bank or a CSR of another die (R133, R136). -/
structure RspBuf where
  unit    : Bool
  xtag    : Nat
  rsp     : Option Msg
  claimed : Bool
  dir     : Bool
  deriving DecidableEq, Repr

/-- What an engine waits for. `retry` waits are waits whose instruction is executed again when its row comes; the others
end when the unit that serves them acts: `resp` with the response to an access by message, with its tag, the register or
pair it writes and the half of a word it takes; a `lost` wait, for a response that a culvert discarded (01 R51), ends by the
wait limit. -/
inductive EWait where
  | none
  | retry
  | bank (rd : Nat) (pair : Bool) (atomic : Bool)
  | flash (rd : Nat) (pair : Bool) (off : Nat)
  | resp (tag : Nat) (rd : Option Nat) (pair : Bool) (half : Option Bool)
  | lock (key : Word) (rank : Nat)
  | lost
  deriving DecidableEq, Repr

/-- Whose request waits at a bank (07 R235, R237): an engine of the die; the message of an engine of another die; the
Steward for a host's command, with the place of the word in it; the reading of a reach patch (08 R283). -/
inductive BankWho where
  | engine
  | message (m : Msg)
  | steward (h : CmdHdr) (i : Nat)
  | patch (reach i : Nat)
  deriving DecidableEq, Repr

/-- A request waiting at a bank (07 R235 to R237): who asks, the engine (die 15 for the Steward), the word index, the 32-bit
half it reads, and the operation. -/
structure BankReq where
  id   : Nat
  who  : BankWho
  die  : Nat
  eng  : Nat
  word : Nat
  half : Option Bool
  op   : BankOp
  deriving DecidableEq, Repr

/-- A word that the bank DMA has served the Steward: its place, data, poison and status. -/
structure BankGot where
  i      : Nat
  data   : BitVec 64
  poison : Bool
  status : Nat
  deriving DecidableEq, Repr

/-- An item in an engine's push buffer (07 R253), with its ditch. -/
structure Push where
  id   : Nat
  q    : Nat
  item : DitchItem
  deriving DecidableEq, Repr

/-- A pending notify fence (03 R141): its target word, and the numbers of what was issued before it and had not landed then:
messages on their way, bank requests, and pushes in the push buffer. -/
structure NFence where
  target : Word
  ids    : List Nat
  deriving DecidableEq, Repr

/-- The run state of an engine beside its registers, store and scratch. -/
structure Engine where
  cwp     : Nat
  wres    : Nat
  depth   : Nat
  saved   : Nat
  ost     : Word
  spp     : Word
  spl     : Word
  tpc     : Nat
  tcause  : Word
  twin    : Nat
  mshi    : Word
  run     : Nat
  slot    : Nat
  pc      : Nat
  budget  : Nat
  running : Bool
  wait    : EWait
  v1      : Word
  esc     : Nat
  inMsg   : Option InMsg
  answered : Bool
  out     : Msg
  rsp     : Option Msg
  bufs    : List RspBuf
  locks   : List (Word × Nat)
  fences  : List NFence
  pushes  : List Push
  portOut : List Word
  portIn  : List Word
  deriving DecidableEq, Repr

/-- A lock of a die's lock table (03 R138): the rank of the claim that created it and its holder. -/
structure Lock where
  key    : Word
  rank   : Nat
  holder : Option (Nat × Nat)
  deriving DecidableEq, Repr

/-- A claim that waits for a lock or for a free entry of the table, in order of start of wait (02 R96). -/
structure Claim where
  die  : Nat
  key  : Word
  rank : Nat
  eDie : Nat
  eng  : Nat
  esc  : Nat
  deriving DecidableEq, Repr

/-- What the scheduler keeps for a slot beside its four words (04 R156, R160, R161, R164, R169, R170), and the priority that a RUNNING task was dispatched at (R168). -/
structure TaskX where
  inbox    : List InMsg
  stamp    : Nat
  affinity : Bool
  pendInv  : Bool
  onceAt   : Option Nat
  eng      : Nat
  acting   : Nat
  deriving DecidableEq, Repr

/-- What a scheduler keeps of its SCHED cycles (04 R162, R172, R175): the cycle after the last in which it dispatched or
counted skips, with the cluster it debited then and the amount; the cycle after the last in which a refill acted, with the
balances before it; and the milestone after that of the last refill tick. -/
structure SchedSt where
  stepAt   : Nat
  cluster  : Nat
  debit    : Nat
  refillAt : Nat
  before   : List Int
  refillMs : Nat
  deriving DecidableEq, Repr

/-! ## Fabric -/

/-- The registers of a word cell (06 R198, R201): w0 to w3, F, and the registered LUT outputs. -/
structure CellRegs where
  w0 : BitVec 16
  w1 : BitVec 16
  w2 : BitVec 16
  w3 : BitVec 16
  f  : Bool
  lut0 : Bool
  lut1 : Bool
  deriving DecidableEq, Repr

/-- A word cell (06 R198, R206): its registers, what they take at the clock edge that ends the running cycle, its
combinational outputs, and the product the even cell of a multiply pair offers its partner in the running cycle (R200). -/
structure Cell where
  regs : CellRegs
  next : Option CellRegs
  o0 : BitVec 16
  co : Bool
  z  : Bool
  p0 : Bool
  p1 : Bool
  prod : Option (BitVec 32)
  deriving DecidableEq, Repr

/-- What the border latches of an isolated reach present (06 R217; 08 R291): by outgoing edge (south, north, west, east)
the words and the bits of its 32 channels. -/
structure BorderLatch where
  words : List (List (BitVec 16))
  bits  : List (List Bool)
  deriving DecidableEq, Repr

/-- A beat that a border unit presents to the fabric for one FAB cycle (06 Table 06-5): its words, and the poison and idle
bits. -/
structure FabBeat where
  words  : List (BitVec 16)
  poison : Bool
  idle   : Bool
  deriving DecidableEq, Repr

/-- A pending entry rewrite (06 R212). -/
structure Rewrite where
  reach : Nat
  col   : Nat
  row   : Nat
  entry : Nat
  value : Nat
  deriving DecidableEq, Repr

/-- A user serial port's FIFOs (06 R231), and the words at the end of the transmit FIFO that a CSR wrote in a REF cycle:
that cycle and their number. -/
structure UspSt where
  tx : List (BitVec 16)
  rx : List (BitVec 16)
  csrAt : Nat
  csrIn : Nat
  deriving DecidableEq, Repr

/-- A user I/O pin's registers (06 R226), and the level at the pin in the last cycle. -/
structure UioSt where
  level : Bool
  q0 : Bool
  q1 : Bool
  d0 : Bool
  d1 : Bool
  oe : Bool
  deriving DecidableEq, Repr

/-! ## Banks and ditches -/

/-- How a stored bank word differs from its clean code (07 R242): the poison code, and the flipped bits of the 72. -/
structure WordMark where
  poison : Bool
  flips  : Nat
  deriving DecidableEq, Repr

/-- The background test of a die (07 R248 to R251): the test cycle within the region, the banks tested in it, the banks
that failed in it, the BANK cycle of the die's release, and the BANK cycle after the last test cycle. -/
structure BtSt where
  cycle  : Nat
  banks  : List Nat
  failed : List Nat
  base   : Nat
  last   : Nat
  deriving DecidableEq, Repr

/-- A stored ditch item (07 R252): the item, its arrival number and its parity bits. -/
structure DItem where
  item   : DitchItem
  parity : Nat
  deriving DecidableEq, Repr

/-- A ditch (07 R252 to R260): its two storage banks in arrival order, which one drains, the two conditions of the end of
the previous BANK cycle, and the last step of R254 that the running BANK cycle has done (0 none, 1 flush, 2 the fabric pop, 3
the engine pop, 4 the fabric push, 5 the engine push). -/
structure DitchSt where
  bank0 : List DItem
  bank1 : List DItem
  drain1 : Bool
  above : Bool
  below : Bool
  step  : Nat
  deriving DecidableEq, Repr

/-! ## Configuration -/

/-- What a load builds (08 R277, R280, R286, Table 08-14): a start load of every die, a host image, the background load
of a live swap, or the reload of some dies. -/
inductive LoadKind where
  | start | host | swap | dies (ds : List Nat)
  deriving DecidableEq, Repr

/-- A load in progress: its source code (CFG_STS.SOURCE), its header, the image's bytes where its source is no slot (those
that have arrived, of a host image), the frames written of each die and the place of the next record of each die in the
image, the sections other than FRAMES taken so far, those staged in image order, the bytes staged, the first fault found
(status, die, frame); and for a start load the sources still to try, the statuses of those that failed, and the image in
external flash. -/
structure Load where
  kind     : LoadKind
  source   : Nat
  hdr      : List (BitVec 8)
  bytes    : List (BitVec 8)
  next     : List Nat
  recAt    : List Nat
  secs     : Nat
  reginit  : List (Word × Word)
  handlers : List (Nat × Nat × Nat × List Word)
  bankinit : List (Word × List (BitVec 64))
  staged   : Nat
  bad      : Option (Nat × Nat × Nat)
  rest     : List Nat
  fails    : List (Nat × Nat)
  ext      : List (BitVec 8)
  deriving DecidableEq, Repr

/-- What a job does with one reach (08 R283, R293; 12 R395): a patch, a reload with the command that asked for it, or
the check of a reach that wakes. -/
inductive JobKind where
  | patch
  | reload (by_ : Option CmdHdr)
  | wake
  deriving DecidableEq, Repr

/-- A patch, reload or wake of one reach (08 R283 to R293): the frames written, the first fault found (status, frame), and
whether its reach swap has begun; of a patch, in `next` its 32-bit words, and the bank words read. -/
structure ReachJob where
  die    : Nat
  reach  : Nat
  kind   : JobKind
  swapping : Bool
  next   : Nat
  recAt  : Nat
  bad    : Option (Nat × Nat)
  got    : List BankGot
  deriving DecidableEq, Repr

/-- The phase of a live swap (08 R286). -/
inductive SwapPhase where
  | background | updating | verified | drain | release
  deriving DecidableEq, Repr

/-- The drain has not begun: the swap can still be abandoned without it (08 R286; 09 R315). -/
def SwapPhase.early : SwapPhase → Bool
  | .background | .updating | .verified => true
  | .drain | .release => false

/-- A live swap in progress: its command, source, phase, the engines still to be updated (die, engine), the one in front
being parked (03 R150), and the pause in CFG cycles. -/
structure SwapSt where
  cmd    : CmdHdr
  source : Nat
  phase  : SwapPhase
  todo   : List (Nat × Nat)
  pause  : Nat
  deriving DecidableEq, Repr

/-- What a release ends (08 R281): a load, a live swap, a reach swap with its pause, a held reach of kind Q with whether
a message started it, a reach that wakes. -/
inductive RelWhy where
  | load | swap | job (pause : Nat) | q (byMsg : Bool) | wake
  deriving DecidableEq, Repr

/-- A release in progress (08 R281): its scope, the steps done (0, 1 or 2), what it ends, and the dies that a reset took out
of it. -/
structure Release where
  scope : Scope
  step  : Nat
  why   : RelWhy
  skip  : List Nat
  deriving DecidableEq, Repr

/-! ## Steward -/

/-- A notice item (09 Table 09-5): its stamp is the low 24 bits of the raising die's milestone. -/
structure Notice where
  code   : Nat
  die    : Nat
  prio   : Nat
  chainTime : Bool
  poison : Bool
  ms     : Nat
  payload : BitVec 128
  deriving DecidableEq, Repr

/-- A rate window (09 R433): code, raising die, scope, and the milestone at which it opened. -/
structure Window where
  code  : Nat
  die   : Nat
  scope : Nat
  opened : Nat
  deriving DecidableEq, Repr

/-- A host record (09 R298, R318, R319; 11 R376): `overw` counts the items overwritten in the notice ditch, `overBase` is its
value at the last notice delivered to the host, and `overPrev` at the one before; each right with the key that granted it. -/
structure HostRec where
  host   : HostId
  via    : Via
  mask   : BitVec 16
  seq    : Nat
  lost   : Nat
  overw  : Nat
  overBase : Nat
  overPrev : Nat
  rights : List (Nat × Nat)
  deriving DecidableEq, Repr

/-- What an unanswered command is waiting for; a bank command for its `n` words, with those served. -/
inductive Work where
  | refused (reason right : Nat)
  | load | swap | reachJob | flash | cert | wake | bist | chainEnum | relay
  | bank (n : Nat) (got : List BankGot)
  deriving DecidableEq, Repr

/-- An unanswered command (09 R304, R308): its header, opcode, what it waits for, whether an ABORT has named it past its
point of no return. -/
structure Cmd where
  hdr    : CmdHdr
  op     : Nat
  work   : Work
  aborts : List CmdHdr
  deriving DecidableEq, Repr

/-- The LOAD session (09 R313): its owner, tag, target, total length, accepted bytes, and the half word kept of them. -/
structure LoadSess where
  hdr    : CmdHdr
  target : Nat
  total  : Nat
  got    : Nat
  half   : Option (BitVec 32)
  deriving DecidableEq, Repr

/-- An I3C or MCTP addressing state: the EID of each port (09 R301), the I3C dynamic address (R302). -/
structure Transport where
  eids : SMap (BitVec 8)
  i3c  : Option (BitVec 7)
  deriving DecidableEq, Repr

/-- The notice ditch (09 R318, R434): two banks of 256 items, which one drains, the round-robin pointer over the nine
queues. -/
structure NoticeDitch where
  bank0 : List Notice
  bank1 : List Notice
  drain1 : Bool
  rr    : Nat
  deriving DecidableEq, Repr

/-- A towpath frame that has been sent (09 R322): link sequence, failures, TYPE, DEST, SRC, BODY. -/
structure TowFrame where
  lseq  : Nat
  fails : Nat
  ty    : Nat
  dest  : Nat
  src   : Nat
  body  : List Nat
  deriving DecidableEq, Repr

/-- The sending side of a towpath port (09 R322): the next link sequence, the unacknowledged frames, and those that wait for
a place among them. -/
structure TowLink where
  seq  : Nat
  sent : List TowFrame
  wait : List TowFrame
  deriving DecidableEq, Repr

/-- An ENUM token (09 R324, R326): NEXT, OVERFLOW and the serial number of the head that sent it. -/
structure EnumToken where
  next   : Nat
  ovf    : Bool
  serial : Nat
  deriving DecidableEq, Repr

/-- The slewing of a member's package reference (09 R328): the fraction of a ns it stands ahead of whole ns, in fs; what is
still to be slewed at once, in fs; the standing rate of correction, in fs per µs; and the package reference at the last
exchange. -/
structure Slew where
  frac  : Int
  rest  : Int
  drift : Int
  at_   : Nat
  deriving DecidableEq, Repr

/-- Towpath state beside block 0x3 (09 R321 to R330): the two ports; the start-up load has ended; the package reference when
the head was ready; enumeration runs, the token held, the addresses acknowledged with the serial numbers of their packages,
OVERFLOW, what was acknowledged before an enumeration that a REJOIN started; an address was lost under P; the addresses before
each break; the chain offset, the slew, the largest |θ| in ps, the first exchange done, exchanges every 10 µs, chain sync done;
and broadcast commands of the head with the answers still to come. -/
structure TowSt where
  linkIn   : TowLink
  linkOut  : TowLink
  started  : Bool
  readyAt  : Nat
  enumBusy : Bool
  token    : Option EnumToken
  acked    : List (Nat × Nat)
  overflow : Bool
  former   : Option (List (Nat × Nat))
  reenum   : Bool
  breaks   : List Nat
  ofs      : Int
  slew     : Slew
  theta    : Nat
  exchanged : Bool
  fast     : Bool
  synced   : Bool
  bcasts   : List (CmdHdr × Nat × Nat)
  deriving DecidableEq, Repr

/-! ## Flash, options, OTP -/

/-- A flash operation of the controller (10 R342, R345): a program, a bit program, the erase of a sector, the lowering
sequence of R354, and its erase alone, which a life-cycle transition runs (11 R368). -/
inductive FlOp where
  | prog (addr : Nat) (data : BitVec 64) (raw : Bool)
  | erase (sector : Nat)
  | rdp (code : Nat)
  | wipe
  deriving DecidableEq, Repr

/-- A read of the user window that waits (10 R338), of an engine or of a die's fabric port, by line of the window. The
Steward's own reads are performed within the command that makes them. -/
inductive FlReq where
  | window (line : Nat) (eng : Option (Nat × Nat)) (reach : Option Nat)
  deriving DecidableEq, Repr

/-- The controller's state beside block 0x0: the unlock step (2 after both keys), the selected command, the running and
the suspended operation, whether the running erase is a re-erase of R348, the waiting reads, the next requester of the round-robin, the fetch buffers (10 R341), and the
sectors that a re-erase waits for (R348). -/
structure FlashSt where
  key      : Nat
  selected : Option Nat
  op       : Option FlOp
  susp     : Option Nat
  reRun    : Bool
  reads    : List FlReq
  rr       : Nat
  prefetch : List Nat
  branch   : List Nat
  lastFetch : Option Nat
  reerase  : List Nat
  deriving DecidableEq, Repr

/-- A step of a flash or OTP job that a message started: an erase, a word program, an OTP word program, the erase of a
life-cycle transition or the lowering sequence; and what is done when the steps before it have ended: a level set, a
transition done, a key revoked, a firmware copy validated, the LOAD session closed, the command ended with a status. -/
inductive JobStep where
  | erase (sector : Nat)
  | prog (addr : Nat) (data : BitVec 64)
  | otp (word : Nat) (v : BitVec 64)
  | wipe
  | lower (code : Nat)
  | rdpDone (old new : Nat)
  | lcDone (old new : Nat)
  | keyDone (key signer : Nat)
  | fwDone
  | sessDone
  | result (st : Nat)
  deriving DecidableEq, Repr

/-- A certificate that waits for its answer (11 R376): its command, the status that its checks gave, and the words of the
certificate counter still to be programmed, with their bits. -/
structure CertSt where
  hdr    : CmdHdr
  status : Nat
  words  : List (Nat × BitVec 64)
  deriving DecidableEq, Repr

/-- A running job: its command, its steps still to run, the running one first, and whether an ABORT has stopped it. -/
structure Job where
  cmd   : CmdHdr
  steps : List JobStep
  stop  : Bool
  deriving DecidableEq, Repr

/-! ## Pins, power, self-test -/

/-- An open-wire test that runs (12 R388): the die, 15 for the Steward pins, the pins tested, the levels sampled at GO,
and those sampled under the pull-up. -/
structure OpenTest where
  die    : Nat
  tested : BitVec 32
  seen   : BitVec 32
  up     : Option (BitVec 32)
  deriving DecidableEq, Repr

/-- Pin state beside block 0x1 (12 R379 to R388): the levels last sampled, the steps of the lock sequence done, the count
of samples of each matcher and whether it has fired, the owner of each pin, the width at which SPI claims pins, and the
open-wire tests that run. -/
structure PinSt where
  levels  : BitVec 32
  lockSeq : Nat
  pmCount : List Nat
  pmFired : List Bool
  owners  : List Nat
  spiWidth : Nat
  openRun : List OpenTest
  deriving DecidableEq, Repr

/-- A wake that runs (12 R393, R395, R397): its command, the state it left, whether it waits for RAIL_OK with the gate
masks it will set, and the dies and reaches still to be released. -/
structure WakeSt where
  cmd     : Option CmdHdr
  old     : Nat
  rails   : Bool
  masks   : List (BitVec 16)
  dies    : List Nat
  reaches : List (Nat × Nat)
  deriving DecidableEq, Repr

/-- Power and reset sequencer state beside block 0x7 (12 R390 to R403): PWRGOOD, HOT_RST_n read low, the reference
milestone of the last start, the wake in progress, the dies that are off by a trip (die, reference milestone, by
temperature), the dies whose first sample after a trip counts (R397), the AVS writes not acknowledged in a row by rail, the
reference milestone of each rail's last step, its last acknowledged target, the dies whose DIE reset a message started, the
cause of the Steward's last start (0 P, 1 H, 2 S), and its watchdog expiries since P (09 Table 09-4, GET_STATUS). -/
structure PwrSt where
  pwrgood : Bool
  hotLow  : Bool
  lastStart : Nat
  wake    : Option WakeSt
  tripAt  : List (Nat × Nat × Bool)
  retrip  : List Nat
  nacks   : SMap Nat
  avsAt   : SMap Nat
  acked   : SMap Nat
  resetBy : List Nat
  cause   : Nat
  wdtCount : Nat
  deriving DecidableEq, Repr

/-- A BIST run (13 R408 to R412): its command, kind, dies, the signatures the command expects, and by die: the tests still
to run (bit 0 LBIST, bit 1 MBIST), the two MISRs, and the tests that failed (listed for every die of the run); and the dies
whose reload is still to end. -/
structure BistSt where
  cmd   : CmdHdr
  kind  : Nat
  mems  : Nat
  islands : Nat
  known : Bool
  expected : List (BitVec 64)
  left  : SMap Nat
  misrL : SMap (BitVec 64)
  misrM : SMap (BitVec 64)
  fails : SMap Nat
  settle : List Nat
  deriving DecidableEq, Repr

/-- The dies of a run, ascending. -/
def BistSt.dieList (b : BistSt) : List Nat := b.fails.map (·.1)

/-- TAP instructions (13 Table 13-3). -/
inductive Tap where
  | bypass | idcode | sample | extest | extestPulse | extestTrain | clamp | highz
  deriving DecidableEq, Repr

/-! ## What leaves the device -/

/-- One thing the device does toward the outside world: the model's own log. -/
inductive Emission where
  /-- an egress shell sends a message on a link -/
  | link (port : Nat) (m : Msg)
  /-- an egress or ingress shell answers a link request with an error completion (01 R46) -/
  | linkError (port : Nat) (m : Msg)
  /-- an engine-fault response to a PCIe or CXL.io request: Completer Abort (03 Table 03-10) -/
  | linkAbort (port : Nat) (m : Msg)
  /-- a shell answers a configuration request itself: the word read, none for a write (01 R28) -/
  | shellAnswer (port : Nat) (m : Msg) (value : Option Word)
  /-- a shell answers a request that depends on a feature its port does not have, as the standard prescribes for an absent
  capability (01 R27) -/
  | linkAbsent (port : Nat) (m : Msg) (f : Feature)
  /-- the credits of a type that a shell advertises to its partner, at link-up or as they are returned: header credits and
  data credits (01 R33) -/
  | credits (port : Nat) (t : CreditType) (hdr data : Nat)
  /-- a shell sends an XRATE_OFFER with the content of its Munirex DVSEC (01 R24) -/
  | xrateOffer (port : Nat) (content : Nat)
  /-- a response to a host: header, opcode, status, answering package, payload -/
  | response (h : CmdHdr) (op status chain : Nat) (payload : List (BitVec 8))
  /-- an MCTP control response: port, command, fields -/
  | mctp (port cmd : Nat) (payload : List Nat)
  /-- MSI-X vector -/
  | msix (v : Nat)
  /-- a notice delivered to a host: SEQ, OVERWRITTEN, CHAIN, item -/
  | notice (h : HostId) (seq overw chain : Nat) (item : List (BitVec 8))
  /-- a frame sent on TOW_OUT or TOW_IN: TYPE, DEST, SRC, LSEQ, BODY -/
  | tow (out : Bool) (ty dest src lseq : Nat) (body : List Nat)
  /-- a value delivered to the fabric by a bank, ditch, engine or flash port -/
  | fabric (die port : Nat) (data : BitVec 256) (poison idle : Bool)
  /-- a serial port sends a word -/
  | serial (die usp : Nat) (w : BitVec 16)
  /-- a write on AVSBus: rail, mV -/
  | avs (rail mv : Nat)
  deriving DecidableEq, Repr

/-- The state of the device. -/
structure State where
  /-- the waiting commands, first in first out -/
  pending  : List Instr
  part     : Part
  /-- registers of the register tables, by CSR address -/
  csr      : SMap Word
  /-- shadow copies of the registers that a live swap switches (01 R59, 04 R177, 07 R262), and its flip-applied list -/
  shadowCsr : SMap Word
  flipList : List (Word × Word)
  /-- the next free value (the model's own) -/
  draws    : Nat
  /-- the number of the next message, bank request or push (the model's own) -/
  serial   : Nat
  /-- what left the device (the model's own) -/
  outbox   : List Emission
  /-- FLIT cycles ticked (the model's own clock phase) -/
  ticks    : Nat
  ports    : SMap PortSt
  /-- what was written to the configuration space of each function below 0x800, by port, function and word (01 R28) -/
  cfgWords : SMap Word
  ingress  : SMap (List LinkMsg)
  /-- by port and channel: the FLIT cycle from which the head may be decided (01 R40) -/
  headFree : SMap Nat
  /-- HG_METER words that still act on their buckets in the FLIT cycle of a write, by address (01 R40) -/
  meterOld : SMap Word
  /-- by port: the milestones of the replays of the last 1 ms (01 R53) -/
  replays  : SMap (List Nat)
  /-- messages that wait at their source for the credits of a crossbar input (01 R36) -/
  xsrc     : SMap (List XMsg)
  xin      : SMap (List XMsg)
  xout     : SMap (List XMsg)
  xrr      : SMap Nat
  /-- by crossbar output: the channels of the messages it is sending, each with the FLIT cycle in which its slot is free
  (01 R44) -/
  xbusy    : SMap (List (Nat × Nat))
  tags     : List TagRec
  perst    : Nat
  dirEnt   : SMap (BitVec 64)
  dirBad   : SMap Nat
  dirRr    : SMap Nat
  dirQ     : SMap (List DirReq)
  dirTxn   : SMap Txn
  dirAcc   : List AccRec
  dirOrph  : List Orphan
  dirWalk  : SMap Walk
  engReg   : SMap Word
  engs     : SMap Engine
  store    : SMap Word
  storeBad : SMap Nat
  scratch  : Memory
  scratchBad : SMap Nat
  locks    : SMap (List Lock)
  claims   : List Claim
  tasks    : SMap TaskX
  ageCtr   : SMap Nat
  sched    : SMap SchedSt
  ms       : SMap Nat
  refMs    : Nat
  /-- by die: bit 0 the master PLL is unlocked, bits 1 and 3 the lane PLL of gateway A and of gateway B, bit 2 the next
  milestone tick is withheld (05 R195, R197) -/
  pllLost  : SMap Nat
  /-- by die: the package reference at the last loss of lock of the master PLL (05 R197) -/
  unlockAt : SMap Nat
  cells    : SMap Cell
  /-- word and bit waypoints of the reaches (06 R216) -/
  wayW     : SMap (BitVec 16)
  wayB     : SMap Bool
  /-- the waypoints at the receiving ends of the channels between reaches, and the words in the sluices of cross-domain
  word channels (06 R217) -/
  chanW    : SMap (BitVec 16)
  chanB    : SMap Bool
  chanQ    : SMap (List (BitVec 16))
  /-- what the border latches hold, by reach, while it is isolated, held or gated (08 R291) -/
  border   : SMap BorderLatch
  /-- beats on their way into the fabric, by die and unit port; the head is presented in the running FAB cycle (06 R224) -/
  fabIn    : SMap (List FabBeat)
  /-- entries that a cell's latch still holds after a scrub corrected their frame (06 R213; 08 R292) -/
  entryOld : SMap Nat
  fabRef   : SMap Nat
  fabAcc   : SMap Nat
  rewrite  : SMap Rewrite
  usp      : SMap UspSt
  uio      : SMap UioSt
  bankMem  : Memory
  bankMark : SMap WordMark
  bankQ    : SMap (List BankReq)
  bankRr   : SMap Nat
  /-- by bank port: the BANK cycle after the last in which it arbitrated (07 R238) -/
  bankLast : SMap Nat
  /-- by bank port: the read-modify-writes granted in its last cycles, word and BANK cycle (07 R239) -/
  bankRmw  : SMap (List (Nat × Nat))
  clearing : SMap Bool
  bt       : SMap BtSt
  ditches  : SMap DitchSt
  ditchRr  : SMap Nat
  frames   : Memory
  frameBad : SMap (List Nat)
  planes   : SMap Bool
  /-- the header of the running image, 256 bytes, and all of it when it came from external flash; none before a load (08 R267,
  R296) -/
  image    : List (BitVec 8)
  /-- frames the scrubber skipped in the current pass (08 R292) -/
  scrubSkips : SMap Nat
  load     : Option Load
  /-- the READY host image with what it stages (08 R280), or what a verified live swap will flip to -/
  hostImage : Option Load
  jobs     : List ReachJob
  swap     : Option SwapSt
  releases : List Release
  held     : SMap Nat
  gatesPass : SMap Bool
  writesOn : SMap Nat
  hosts    : List HostRec
  cmds     : List Cmd
  refused  : List Cmd
  mboxes   : SMap CmdHdr
  /-- the memory of BAR0 beside its registers: MSI-X table and pending bits, notice ring, request and response areas
  (09 Table 09-1) -/
  bar      : Memory
  sess     : Option LoadSess
  trans    : Transport
  queues   : SMap (List Notice)
  windows  : List Window
  nditch   : NoticeDitch
  tow      : TowSt
  flash    : Memory
  flashBad : SMap Nat
  flagCells : List Nat
  fl       : FlashSt
  options  : List (BitVec 8)
  job      : Option Job
  /-- firmware copies with a VALID mark, and those whose signature passed at the last restart: bit 0 A, bit 1 B (09 R332) -/
  fwValid  : Nat
  fwSig    : Nat
  fallback : Bool
  otp      : SMap (BitVec 64)
  otpBusy  : Option (Nat × BitVec 64)
  /-- certificates that wait for their answer (11 R376) -/
  certs    : List CertSt
  pins     : PinSt
  pwr      : PwrSt
  bist     : Option BistSt
  tap      : Tap
  /-- a test instruction holds the dies until Test-Logic-Reset (13 R416) -/
  tapHeld  : Bool
  deriving DecidableEq, Repr

/-- An engine after reset: the values dispatch would set are 0 here (log entry 5). -/
def Engine.reset : Engine :=
  { cwp := 0, wres := 1, depth := 0, saved := 0, ost := 0, spp := 0, spl := 0, tpc := 0, tcause := 0, twin := 0,
    mshi := 0, run := 0, slot := 0, pc := 0, budget := 0, running := false, wait := .none, v1 := 0, esc := 0,
    inMsg := none, answered := false,
    out := { hdr := 0, beats := [], name := .internal, metaV := .none, bus := none, keep := false, dirty := false },
    rsp := none, bufs := [], locks := [], fences := [], pushes := [], portOut := [], portIn := [] }

def PortSt.reset : PortSt := { offerOut := false, offerIn := false, barred := false, viral := false }

def TaskX.reset : TaskX := { inbox := [], stamp := 0, affinity := false, pendInv := false, onceAt := none, eng := 0, acting := 0 }

def SchedSt.reset : SchedSt := { stepAt := 0, cluster := 0, debit := 0, refillAt := 0, before := [], refillMs := 0 }

def CellRegs.reset : CellRegs :=
  { w0 := 0, w1 := 0, w2 := 0, w3 := 0, f := false, lut0 := false, lut1 := false }

def Cell.reset : Cell :=
  { regs := CellRegs.reset, next := none, o0 := 0, co := false, z := false, p0 := false, p1 := false, prod := none }

def BorderLatch.reset : BorderLatch := { words := [], bits := [] }

def DitchSt.reset : DitchSt := { bank0 := [], bank1 := [], drain1 := true, above := false, below := true, step := 0 }

def BtSt.reset : BtSt := { cycle := 0, banks := [], failed := [], base := 0, last := 0 }

def WordMark.clean : WordMark := { poison := false, flips := 0 }

def UspSt.reset : UspSt := { tx := [], rx := [], csrAt := 0, csrIn := 0 }

def UioSt.reset : UioSt := { level := false, q0 := false, q1 := false, d0 := false, d1 := false, oe := false }

def TowLink.reset : TowLink := { seq := 0, sent := [], wait := [] }

def Slew.reset : Slew := { frac := 0, rest := 0, drift := 0, at_ := 0 }

def TowSt.reset : TowSt :=
  { linkIn := TowLink.reset, linkOut := TowLink.reset, started := false, readyAt := 0, enumBusy := false, token := none,
    acked := [], overflow := false, former := none, reenum := false, breaks := [], ofs := 0, slew := Slew.reset, theta := 0,
    exchanged := false, fast := true, synced := false, bcasts := [] }

def FlashSt.reset : FlashSt :=
  { key := 0, selected := none, op := none, susp := none, reRun := false, reads := [], rr := 0, prefetch := [],
    branch := [], lastFetch := none, reerase := [] }

/-- Owner codes of the pins at reset: TGT owns GPIO11 and GPIO12. -/
def resetOwners : List Nat := List.replicate 11 0 ++ [2, 2] ++ List.replicate 19 0

def PinSt.reset : PinSt :=
  { levels := 0, lockSeq := 0, pmCount := [0, 0, 0, 0], pmFired := [false, false, false, false], owners := resetOwners,
    spiWidth := 1, openRun := [] }

/-- The option record's bytes 0x00 to 0xFF at the defaults of 10 R358; SCRUB bytes at 0x68 to 0x6F. -/
def defaultOptions : List (BitVec 8) :=
  [0x58, 0x54, 0x50, 0x4F, 0xFF, 0x00, 0x05, 0x02] ++ List.replicate 8 0xFF ++ [0x3A, 0x3A] ++
  List.replicate 86 0 ++ List.replicate 8 0x03 ++ List.replicate 144 0

/-- BAR0 memory at reset: the vector controls of the two MSI-X entries hold their mask bit (the standard's reset value,
PRESUMED, log entry 101). -/
def barReset : Memory := [(0x100C, 1), (0x101C, 1)]

/-- The machine right after reset: every register at its Reset value, every queue empty, every die unpowered. -/
def State.reset : State :=
  { pending := [], part := { member := .pv8_128, grade := 2 }, csr := [], shadowCsr := [], flipList := [], draws := 0, serial := 0,
    outbox := [], ticks := 0, ports := [], cfgWords := [], ingress := [], headFree := [], meterOld := [], replays := [],
    xsrc := [], xin := [], xout := [], xrr := [], xbusy := [], tags := [], perst := 0,
    dirEnt := [], dirBad := [], dirRr := [], dirQ := [], dirTxn := [], dirAcc := [], dirOrph := [],
    dirWalk := [], engReg := [], engs := [], store := [], storeBad := [], scratch := [], scratchBad := [], locks := [],
    claims := [], tasks := [], ageCtr := [], sched := [], ms := [], refMs := 0, pllLost := [], unlockAt := [], cells := [], wayW := [],
    wayB := [], chanW := [], chanB := [], chanQ := [], border := [], fabIn := [], entryOld := [], fabRef := [],
    fabAcc := [], rewrite := [], usp := [], uio := [], bankMem := [], bankMark := [], bankQ := [], bankRr := [], bankLast := [], bankRmw := [],
    clearing := [], bt := [], ditches := [], ditchRr := [], frames := [], frameBad := [], planes := [], image := [], scrubSkips := [],
     load := none, hostImage := none, jobs := [], swap := none, releases := [], held := [], gatesPass := [],
    writesOn := [], hosts := [], cmds := [], refused := [], mboxes := [], bar := barReset, sess := none,
    trans := { eids := [], i3c := none }, queues := [], windows := [],
    nditch := { bank0 := [], bank1 := [], drain1 := true, rr := 0 }, tow := TowSt.reset, flash := [], flashBad := [],
    flagCells := [], fl := FlashSt.reset, options := defaultOptions, job := none, fwValid := 3,
    fwSig := 3, fallback := false, otp := [], otpBusy := none, certs := [], pins := PinSt.reset,
    pwr := { pwrgood := false, hotLow := false, lastStart := 0, wake := none, tripAt := [], retrip := [], nacks := [],
             avsAt := [], acked := [], resetBy := [], cause := 0, wdtCount := 0 },
    bist := none, tap := .idcode, tapHeld := false }

end Sys2Proof.Machine
end

