-- ==== Sys2Proof/Machine/Ops.lean ====
section
/-! DEFINITION. The shared operations over State: which dies and ports exist, register fields, reset kinds, milestones,
notices, free values, and the queues of the crossbar. Every family works through these. -/

namespace Sys2Proof.Machine

/-! ## The part (00 R2, R3) -/

/-- Logic dies populated. -/
def Part.dies (p : Part) : Nat :=
  match p.member with | .pv8_128 => 8 | .pv8_064 => 4 | .pv8_032 => 2

/-- The k of 02 R64. -/
def Part.k (p : Part) : Nat :=
  match p.member with | .pv8_128 => 3 | .pv8_064 => 2 | .pv8_032 => 1

def State.populated (s : State) (d : Nat) : Bool := d < s.part.dies

/-! ## Registers -/

/-- The stored value of a register. -/
def State.csrGet (s : State) (a : Nat) : Word := SMap.get (resetOf a) s.csr a

/-- Writes a register's stored value, whole. -/
def State.csrSet (s : State) (a : Nat) (w : Word) : State :=
  { s with csr := SMap.set (resetOf a) s.csr a w }

/-- A field of a register. -/
def State.fget (s : State) (a : Nat) (f : Fld) : Nat := f.get (s.csrGet a)

/-- A field of a register as a flag. -/
def State.fbit (s : State) (a : Nat) (f : Fld) : Bool := s.fget a f ≠ 0

/-- Writes a field of a register. -/
def State.fset (s : State) (a : Nat) (f : Fld) (v : Nat) : State := s.csrSet a (f.put (s.csrGet a) v)

/-- Sets a one-bit flag. -/
def State.flag (s : State) (a : Nat) (f : Fld) : State := s.fset a f 1

/-- Advances a saturating counter field. -/
def State.count (s : State) (a : Nat) (f : Fld) (k : Nat) : State := s.csrSet a (f.satAdd (s.csrGet a) k)

/-- Sets or clears bit `i` of a field. -/
def State.fsetBit (s : State) (a : Nat) (f : Fld) (i : Nat) (b : Bool) : State :=
  s.fset a f (if b then setBitN (s.fget a f) i else clrBitN (s.fget a f) i)

/-- A register's value after the reset kinds `ks`: every field whose Cleared by column lists one of them takes its Reset
value, the others are kept (00 R12). -/
def clearedBy (ks : List Kind) (a : Nat) (w : Word) : Word :=
  match findRow a with
  | none => w
  | some r =>
    r.fields.foldl (fun w f => if f.clr.any (ks.contains ·) then f.fld.put w (f.fld.get (resetOf a)) else w) w

/-- Applies reset kinds to every register whose address meets a test (00 R12, R13). -/
def State.resetCsr (s : State) (ks : List Kind) (p : Nat → Bool) : State :=
  { s with csr := SMap.mapVals resetOf (fun a w => if p a then clearedBy ks a w else w) s.csr }

/-- The die digit of a CSR address. -/
def dieOf (a : Nat) : Nat := a / 0x10000000

/-- The word an access names: bits [1:0] of the offset are ignored (00 R9). -/
def wordAddr (a : Nat) : Nat := a / 4 * 4

/-- The block digit of a CSR address. -/
def blockOf (a : Nat) : Nat := a / 0x1000000 % 16

/-! ## Power, milestones, free values -/

/-- A logic die that exists and is powered (12 R390). -/
def State.dieOn (s : State) (d : Nat) : Bool := s.populated d && bitOf (s.fget Csr.pwrSts PwrSts.dieOn) d

/-- The clocks of a die run: it is on and its master PLL is locked (05 R197). -/
def State.clockOn (s : State) (d : Nat) : Bool := s.dieOn d && !bitOf (SMap.get 0 s.pllLost d) 0

/-- The sluices of a die pass beats: its clocks run, and the configuration controller does not hold them (05 R197; 08
R288). -/
def State.sluiceOpen (s : State) (d : Nat) : Bool := s.clockOn d && !s.fbit (Csr.sluSts d) SluSts.held

/-- The lane PLL of a gateway is locked (05 R197): bit 1 of the die's record for A, bit 3 for B. -/
def State.laneOn (s : State) (d g : Nat) : Bool := !bitOf (SMap.get 0 s.pllLost d) (1 + 2 * g)

/-- The sluices between the gateway of port `p` and its crossbar pass beats (05 R197). -/
def State.gwSluiceOpen (s : State) (p : Nat) : Bool := s.sluiceOpen (p / 8) && s.laneOn (p / 8) (p / 4 % 2)

/-- The milestone of a die; of the Steward, the package reference (05 R194). -/
def State.msOf (s : State) (d : Nat) : Nat := if d < 8 then SMap.get 0 s.ms d else s.refMs

/-- The full stamp a receiver forms from the low 24 bits of a milestone (02 R84). -/
def fullStamp (m ms24 : Nat) : Int := (m : Int) + signedOf 24 (ms24 + 2 ^ 24 - m % 2 ^ 24)

/-- The next free value's number, taken. -/
def State.draw (s : State) : Nat × State := (s.draws, { s with draws := s.draws + 1 })

/-- A value for a field that the spec gives none. -/
def State.freeByte (s : State) : Nat × State :=
  let (n, s) := s.draw
  ((Config.freeWord n).toNat % 256, s)

/-- Appends to the log of what leaves the device. -/
def State.emit (s : State) (e : Emission) : State := { s with outbox := s.outbox ++ [e] }

/-! ## Notices (09 R316 to R318, R433, R434) -/

/-- Packs payload fields (bytes, value) from byte offset `off`, each aligned to its own size, pad bytes 0 (09 R317). -/
def packAt (off : Nat) : List (Nat × Nat) → Nat
  | [] => 0
  | (n, v) :: r =>
    let o := ceilDiv off n * n
    v % 256 ^ n * 256 ^ o + packAt (o + n) r

/-- A notice's payload. -/
def packFields (fs : List (Nat × Nat)) : BitVec 128 := BitVec.ofNat 128 (packAt 0 fs)

/-- The ditch priority of a notice code (09 Table 09-6). -/
def noticePrio (code : Nat) : Nat :=
  match code / 256 with
  | 7 | 8 => 0
  | 5 | 6 | 9 => 1
  | 2 | 3 => 2
  | _ => 3

/-- The queue of a raising die (09 R434): 0 to 7 the logic dies, 8 the Steward die. -/
def queueOf (d : Nat) : Nat := if d < 8 then d else 8

/-- Raises a notice: it joins its die's queue, or is discarded and counted when the queue holds 64 (09 R434). -/
def State.notice (s : State) (d code : Nat) (fs : List (Nat × Nat)) : State :=
  let q := SMap.get [] s.queues (queueOf d)
  if 64 ≤ q.length then s.count (Csr.ndQdropCnt (queueOf d)) NdQdropCnt.dropped 1
  else
    let n : Notice :=
      { code := code, die := d, prio := noticePrio code, chainTime := s.fbit Csr.towSts TowSts.msSync,
        poison := false, ms := s.msOf d % 2 ^ 24, payload := packFields fs }
    { s with queues := SMap.set [] s.queues (queueOf d) (q ++ [n]) }

/-- Whether a rate window of a code and scope is open on a die (09 R433). -/
def State.windowOpen (s : State) (d code scope : Nat) : Bool :=
  s.windows.any (fun w => w.code == code && w.die == d && w.scope == scope && s.msOf d < w.opened + 1000000)

/-- Raises a rate-limited notice: not raised while its window is open; raising opens a window (09 R433). -/
def State.noticeLim (s : State) (d code scope : Nat) (fs : List (Nat × Nat)) : State :=
  if s.windowOpen d code scope then s
  else
    let w : Window := { code := code, die := d, scope := scope, opened := s.msOf d }
    State.notice
      { s with windows :=
          s.windows.filter (fun x => !(x.code == code && x.die == d && x.scope == scope)) ++ [w] } d code fs

/-! ## Crossbar endpoints and queues (01 Table 01-10, R44, R49) -/

def xkey (d e v : Nat) : Nat := (d * 32 + e) * 8 + v

/-- The endpoint of a source index (03 Table 03-5 word 2). -/
def endpointOf (idx : Nat) : Nat :=
  if idx < 8 then idx
  else if idx < 72 then 13 + (idx - 8) / 8
  else if idx == 72 then 11
  else if idx == 73 then 12
  else 21

/-- Beats waiting in a list of crossbar messages. -/
def beatsIn (l : List XMsg) : Nat := l.foldl (fun n x => n + x.msg.size) 0

/-- Whether a message fits in the credits of a crossbar input (01 R36, Table 01-7): no message waits for them before it,
and the input has room for all of its beats. -/
def State.fitsIn (s : State) (d e : Nat) (m : Msg) : Bool :=
  let k := xkey d e (m.g Hd.vc)
  (SMap.get [] s.xsrc k).isEmpty && beatsIn (SMap.get [] s.xin k) + m.size ≤ creditReset e (m.g Hd.vc)

/-- Hands a message to a crossbar input; its sender keeps it while the input has no credits for it (01 R36). -/
def State.injectX (s : State) (d e : Nat) (x : XMsg) : State :=
  let k := xkey d e (x.msg.g Hd.vc)
  if s.fitsIn d e x.msg then { s with xin := SMap.set [] s.xin k (SMap.get [] s.xin k ++ [x]) }
  else { s with xsrc := SMap.set [] s.xsrc k (SMap.get [] s.xsrc k ++ [x]) }

/-- Hands a new message to a crossbar input, routed to a die and endpoint. -/
def State.inject (s : State) (d e : Nat) (m : Msg) (die ep : Nat) : State :=
  State.injectX { s with serial := s.serial + 1 } d e ⟨s.serial, m, die, ep⟩

/-- The messages of a waiting list that fit in the room of an input, in order, and the rest (01 R36, R37). -/
def takeFits (room : Nat) : List XMsg → List XMsg × List XMsg
  | [] => ([], [])
  | x :: xs =>
    if x.msg.size ≤ room then let (a, b) := takeFits (room - x.msg.size) xs; (x :: a, b) else ([], x :: xs)

/-- A crossbar input takes the messages that waited for its credits (01 R36). -/
def State.refillIn (s : State) (d e v : Nat) : State :=
  let k := xkey d e v
  let (a, b) := takeFits (creditReset e v - beatsIn (SMap.get [] s.xin k)) (SMap.get [] s.xsrc k)
  { s with xin := SMap.set [] s.xin k (SMap.get [] s.xin k ++ a), xsrc := SMap.set [] s.xsrc k b }

/-- Puts a DKIND 4 reply at a crossbar input, routed to the unit its DEST names. -/
def State.injectReply (s : State) (d e : Nat) (m : Msg) : State :=
  s.inject d e m (m.g Hd.destDie) (endpointOf (m.g Hd.destIdx))

/-- The culvert port by which a message from die `d` enters die `h` (01 R49). -/
def entryPort (d h : Nat) : Nat := if d / 4 ≠ h / 4 then 2 else if d % 4 < h % 4 then 0 else 1

/-- The one-beat ESC messages (02 R94). -/
def escMsg (name : PName) : Msg := { Msg.blank with name := name }.w Hd.vc 4

/-- An ESC message on its way that meets a test: at its source, in a crossbar or in a sink's buffer. -/
def State.escOnWay (s : State) (p : XMsg → Bool) : Bool :=
  [s.xsrc, s.xin, s.xout].any (fun q => q.any (fun e => e.1 % 8 == 4 && e.2.any p))

/-- The neighbour of a die across a culvert port, on the member (01 R47, Table 01-11). -/
def State.neighbour (s : State) (d c : Nat) : Option Nat :=
  let n := match c with
    | 0 => if d % 4 == 0 then 8 else d - 1
    | 1 => if d % 4 == 3 then 8 else d + 1
    | _ => if d < 4 then d + 4 else d - 4
  if s.populated d && s.populated n then some n else none

/-- The culvert port that faces a culvert port. -/
def facing (c : Nat) : Nat := match c with | 0 => 1 | 1 => 0 | _ => 2

/-- The endpoint by which a message at die `d` leaves toward its target: along the die row to the column, then across
(01 R49). -/
def nextHop (d : Nat) (x : XMsg) : Nat :=
  if x.die == d then x.ep
  else if d % 4 < x.die % 4 then 9
  else if x.die % 4 < d % 4 then 8
  else 10

/-- The fixed route from a die to die `t` is open within `n` hops: every culvert on it is up, every die on it is on (01
R49, R51). -/
def State.routeUp (s : State) (t : Nat) : Nat → Nat → Bool
  | 0, d => d == t
  | n + 1, d =>
    if d == t then true
    else
      let c := if d % 4 < t % 4 then 1 else if t % 4 < d % 4 then 0 else 2
      match s.neighbour d c with
      | none => false
      | some m => s.fbit (Csr.cvSts d c) CvSts.trained && s.dieOn m && s.routeUp t n m

/-- A message that die `d` sends reaches die `t`, which is on. -/
def State.pathUp (s : State) (d t : Nat) : Bool := s.dieOn t && s.routeUp t 4 d

/-- Answers a message that is discarded in place of its target (01 R46, R51, R54): a link request with the error of its
protocol, a message with NEEDRSP with a DKIND 4 reply NOT_PRESENT from the unit (die, idx) entering at endpoint `e`. -/
def State.discard (s : State) (d e idx : Nat) (m : Msg) : State :=
  if m.g Hd.needRsp == 1 then s.injectReply d e (m.replyTo d idx St.notPresent)
  else if m.name.answered then s.emit (.linkError (m.g Hd.port) m)
  else s

/-! ## Ports (00 R8; 01 R30, R31) -/

def portDie (p : Nat) : Nat := p / 8
def portGw (p : Nat) : Nat := p / 4 % 2
def portSub (p : Nat) : Nat := p % 4

/-- The configured width of a sub-port in a bifurcation mode, 0 where it does not exist (01 Table 01-4). -/
def subWidth (mode sub : Nat) : Nat :=
  match mode, sub with
  | 0, 0 => 8
  | 1, 0 => 4 | 1, 2 => 4
  | 2, 0 => 4 | 2, 2 => 2 | 2, 3 => 2
  | 3, _ => 2
  | _, _ => 0

def State.portWidth (s : State) (p : Nat) : Nat :=
  subWidth (s.fget (Csr.gwMode (portDie p) (portGw p)) GwMode.bif) (portSub p)

/-- The role code of a sub-port (01 Table 01-9). -/
def State.portRole (s : State) (p : Nat) : Nat :=
  s.fget (Csr.gwRole (portDie p) (portGw p)) ⟨4 * portSub p, 4⟩

/-- The viral group of a sub-port. -/
def State.portGroup (s : State) (p : Nat) : Nat :=
  s.fget (Csr.gwRole (portDie p) (portGw p)) ⟨16 + 4 * portSub p, 4⟩

/-- The port exists in the current bifurcation on a populated die, and is enabled. -/
def State.portExists (s : State) (p : Nat) : Bool :=
  p < 64 && s.populated (portDie p) && s.portWidth p ≠ 0 &&
  bitOf (s.fget (Csr.gwMode (portDie p) (portGw p)) GwMode.spEn) (portSub p)

def linkSts (p : Nat) : Nat := Csr.gwLinkSts (portDie p) (portGw p) (portSub p)
def gwErr (p : Nat) : Nat := Csr.gwErr (portDie p) (portGw p) (portSub p)

/-- The port exists, its die is on, and its link is up. -/
def State.portUp (s : State) (p : Nat) : Bool :=
  s.portExists p && s.dieOn (portDie p) && s.fbit (linkSts p) GwLinkSts.up

def State.portSt (s : State) (p : Nat) : PortSt := SMap.get PortSt.reset s.ports p

def State.setPortSt (s : State) (p : Nat) (x : PortSt) : State :=
  { s with ports := SMap.set PortSt.reset s.ports p x }

/-- Ports of every populated die. -/
def State.allPorts (s : State) : List Nat := List.range (s.part.dies * 8)

/-- A role code of a CXL port (01 Table 01-9). -/
def cxlRole (r : Nat) : Bool := 4 ≤ r && r ≤ 7

/-- The ports enabled as sharers (02 R69), as a bit mask over P0 to P63. -/
def State.shareEn (s : State) (d : Nat) : Nat :=
  s.fget (Csr.dirShareEnLo d) DirShareEnLo.en + s.fget (Csr.dirShareEnHi d) DirShareEnHi.en * 2 ^ 32

/-! ## Isolation, gating and release (08 R281, R291; 12 R394) -/

/-- A reach that is isolated (CFG_REACH_STS.ISO). -/
def State.isolated (s : State) (d r : Nat) : Bool := bitOf (s.fget (Csr.cfgReachSts d) CfgReachSts.iso) r

/-- A reach that is gated (PWR_GATE). -/
def State.gated (s : State) (d r : Nat) : Bool := bitOf (s.fget (Csr.pwrGate d) PwrGate.gated) r

/-- The resets of a reach are asserted (08 Table 08-10): every reach of a die that is not released. -/
def State.inReset (s : State) (d r : Nat) : Bool := bitOf (SMap.get 0xFFFF s.held d) r

/-- The reach may drive its border units: released, and neither isolated nor gated. -/
def State.borderOpen (s : State) (d r : Nat) : Bool :=
  s.dieOn d && !s.isolated d r && !s.gated d r && !s.inReset d r

/-- The clock of a reach's FAB domain runs: its PLL is locked (06 R221). -/
def State.fabLocked (s : State) (d r : Nat) : Bool :=
  s.fbit (Csr.fabPllSts d (s.fget (Csr.reachCtrl d r) ReachCtrl.fabsel)) FabPllSts.lock

/-- The border sluices of a reach pass beats: its border is open, its clock runs, and the die's sluices are not held (06
R221, R224; 08 R288, R291). -/
def State.portOpen (s : State) (d r : Nat) : Bool := s.borderOpen d r && s.fabLocked d r && s.sluiceOpen d

/-- Words of 16 bits as one value, the first lowest. -/
def packWords : List (BitVec 16) → Nat
  | [] => 0
  | w :: ws => w.toNat + 65536 * packWords ws

/-- The 16-bit words of a value, the lowest first. -/
def wordsOf (n v : Nat) : List (BitVec 16) := (List.range n).map (fun i => BitVec.ofNat 16 (v / 65536 ^ i))

def fabInKey (d port : Nat) : Nat := d * 4096 + port

/-- The reach an engine borders (00 Table 00-3). -/
def engReach (e : Nat) : Nat := e / 4

/-- The reach that a unit port borders (Table 06-5; 00 Table 00-3): banks from 0x100, ditches from 0x200, engines from 0x300,
the flash port 0x400, serial ports from 0x500. -/
def portReach (port : Nat) : Nat :=
  match port / 256 with
  | 1 => port % 256 / 3
  | 2 => port % 256 / 4
  | 3 => engReach (port % 256)
  | 5 => if port % 256 == 0 then 3 else 2
  | _ => 0

/-- A unit port delivers beats to the fabric, each presented for one FAB cycle (06 R224, R232); into a reach that is isolated,
held or gated they are discarded and counted (08 R288, R290, R291). -/
def State.toFabric (s : State) (d port : Nat) (beats : List FabBeat) : State :=
  let k := fabInKey d port
  if !s.borderOpen d (portReach port) then s.count (Csr.cfgDiscardCnt d) CfgDiscardCnt.beats beats.length
  else
    let s := beats.foldl (fun (s : State) b =>
      s.emit (.fabric d port (BitVec.ofNat 256 (packWords b.words)) b.poison b.idle)) s
    { s with fabIn := SMap.set [] s.fabIn k (SMap.get [] s.fabIn k ++ beats) }

/-- The write enables of a reach toward banks, ditches and CSRs (08 Table 08-10, cycle 64). -/
def State.writesEnabled (s : State) (d r : Nat) : Bool := bitOf (SMap.get 0 s.writesOn d) r

/-! ## Rights of a host (11 R376, Tables 11-2 and 11-6) -/

def Right.jtag : Nat := 0
def Right.csrraw : Nat := 1
def Right.readback : Nat := 2
def Right.engdbg : Nat := 3
def Right.flread : Nat := 4
def Right.bist : Nat := 5
def Right.diag : Nat := 6
def Right.otpwr : Nat := 7

/-- The life-cycle state in effect. -/
def State.lcState (s : State) : Nat := s.fget Csr.lcSts LcSts.state

/-- The rights every host holds in a state (Table 11-2): all eight in TEST_UNLOCKEDk, all but OTPWR in RMA. -/
def stateRight (st r : Nat) : Bool := (0x20 < st && st ≤ 0x27) || (st == 0x50 && r ≠ 7)

/-- A host's record. -/
def State.hostRec (s : State) (h : HostId) : Option HostRec := s.hosts.find? (·.host == h)

/-- Whether a host holds a right. -/
def State.holds (s : State) (h : HostId) (r : Nat) : Bool :=
  stateRight s.lcState r || (s.hostRec h).any (fun x => x.rights.any (·.1 == r))

end Sys2Proof.Machine
end

