-- ==== Sys2Proof/Machine/FlitPath.lean ====
section
/-! DEFINITION. The flit path (01): gateways and shells, headgates, the crossbar and the culverts. -/

namespace Sys2Proof.Machine

/-- Next state of a command whose effect is a function of the state: no command of this block stops. -/
abbrev Ans := Host.Outcome State Fault Refusal

/-! ## Links -/

/-- MAX_RATE in effect: code 7 is treated as 5 (GW_MODE). -/
def State.maxRate (s : State) (p : Nat) : Nat :=
  let r := s.fget (Csr.gwMode (portDie p) (portGw p)) GwMode.maxRate
  if r == 7 then 5 else r

/-- The rates a sub-port may run: its MAX_RATE and the speed grade (01 R19; 00 R5). -/
def State.rateAllowed (s : State) (p rate : Nat) : Bool :=
  rate ≤ s.maxRate p && (rate ≤ 5 || s.part.grade == 2)

/-- A side that has sent and received an offer is a candidate (01 R24 step 3). -/
def State.xrateCandidate (s : State) (p : Nat) : Bool :=
  (s.portSt p).offerOut && (s.portSt p).offerIn

/-- Whether extended-rate mode may run on a sub-port (01 R24). -/
def State.xrateEnabled (s : State) (p : Nat) : Bool :=
  s.part.grade == 2 && s.fbit (Csr.gwMode (portDie p) (portGw p)) GwMode.xrateEn && s.maxRate p == 6

/-- The bits of a GW_LINK_STS word for a trained link at L0. -/
def linkWord (t : Training) : Word :=
  let w : Word := 0
  let w := GwLinkSts.width.put (GwLinkSts.rate.put (GwLinkSts.ltssm.put w 0x20) t.rate.val) t.width.val
  let w := GwLinkSts.pol.put (GwLinkSts.reversed.put w (b2n t.reversed)) t.pol.toNat
  let w := GwLinkSts.xrate.put (GwLinkSts.flit.put w 1) (b2n t.xrate)
  GwLinkSts.up.put (GwLinkSts.cxl.put w (b2n t.cxl)) 1

/-- The output enables of a die are on: its release has passed step 1 (08 Table 08-10). -/
def State.pastStep1 (s : State) (d : Nat) : Bool :=
  s.fbit (Csr.cfgSts d) CfgSts.released ||
  s.releases.any (fun r => 1 ≤ r.step &&
    match r.scope with | .all => !r.skip.contains d | .die x => x.val == d | .reach _ _ => false)

/-- The LTSSM of a port is let out of Detect.Quiet: release step 1 has passed and PERST_n of its gateway is deasserted,
whichever is later (R23). -/
def State.mayTrain (s : State) (p : Nat) : Bool :=
  s.pastStep1 (portDie p) && !bitOf s.perst (2 * portDie p + portGw p)

/-- Whether a training outcome can occur on a port: its LTSSM may train (R23), the width and rate lie within what the
port is set to (R19, R30), CXL only in a CXL role at 8.0 GT/s or above (R21), role 0x7 only as CXL (R21), 128 GT/s in CXL
only in extended-rate mode that both offers allow (R24). -/
def State.canTrain (s : State) (p : Nat) (t : Training) : Bool :=
  let role := s.portRole p
  s.portExists p && s.dieOn (portDie p) && s.mayTrain p && s.laneOn (portDie p) (portGw p) && 1 ≤ role && role ≤ 7 &&
  s.rateAllowed p t.rate.val && [1, 2, 4, 8].contains t.width.val && t.width.val ≤ s.portWidth p &&
  (!t.cxl || (cxlRole role && 2 ≤ t.rate.val)) && (role != 7 || t.cxl) &&
  (if t.xrate then t.rate.val == 6 && t.cxl && s.xrateCandidate p && !(s.portSt p).barred
   else t.rate.val != 6 || !t.cxl)

/-- The port's DIR_PORT_DOWN bit of a die's slice. -/
def downReg (d p : Nat) : Nat := if p < 32 then Csr.dirPortDownLo d else Csr.dirPortDownHi d

def State.portIsDown (s : State) (d p : Nat) : Bool := bitOf (s.fget (downReg d p) DirPortDownLo.down) (p % 32)

/-- A walk's ports still to end. -/
def State.walkPorts (s : State) (d : Nat) : List WalkPort :=
  match SMap.find s.dirWalk d with | some w => w.ports | none => []

/-- A port-down message of a port is on its way to the slice of a die (R54). -/
def State.downOnWay (s : State) (d p : Nat) : Bool :=
  s.escOnWay (fun x => x.msg.name == .escDown && x.die == d && x.msg.g Hd.port == p)

/-- Clears a port's DIR_PORT_DOWN bit at every die whose pass for it has ended (02 R82). -/
def State.clearPortDown (s : State) (p : Nat) : List Nat → State
  | [] => s
  | d :: ds =>
    let s := if (s.walkPorts d).any (·.port == p) || s.downOnWay d p then s
      else s.fsetBit (downReg d p) DirPortDownLo.down (p % 32) false
    s.clearPortDown p ds

/-! ### Credits toward the partner (R33) -/

/-- The credit type that a message of a link uses (Table 01-5). -/
def creditOf : PName → Option CreditType
  | .ioRead | .ioWriteNp | .ioAtomic | .cfgRead | .cfgWrite | .cfgFwdRead | .cfgFwdWrite => some .nonPosted
  | .ioPosted | .vendor | .terminated | .mctpVdm => some .posted
  | .ioCpl | .ioCplD => some .completion
  | .rdShared | .rdOwn | .rdOwnNoData | .rdCurr | .itoMWr | .wrInv | .cleanEvict | .dirtyEvict | .cacheReqH2D
  | .cacheSnp => some .cacheReq
  | .cacheRsp => some .cacheRsp
  | .cacheData => some .cacheData
  | .memRd | .memRdData | .memInv | .memReqOther => some .memReq
  | .memWr | .memRwDOther => some .memRwD
  | .memNdr => some .memNdr
  | .memDrs => some .memDrs
  | .biSnp => some .biSnp
  | .biRsp => some .biRsp
  | .internal | .escDown | .escAccept | .escRelease | .escWake | .escAbort | .bankAcc | .csrAcc => none

/-- Header and data credits advertised (Table 01-5): data in units of 16 bytes for PCIe and CXL.io, of 64 bytes otherwise. -/
def CreditType.limit : CreditType → Nat × Nat
  | .posted | .completion => (128, 2048)
  | .nonPosted => (128, 256)
  | _ => (64, 128)

/-- The credit types of PCIe and CXL.io, and the message channels that a CXL role receives: from a host, from a device, or
both on a fabric port. -/
def creditTypes (role : Nat) (cxl : Bool) : List CreditType :=
  let host : List CreditType := [.memReq, .memRwD, .biRsp]
  let device : List CreditType := [.memNdr, .memDrs, .biSnp]
  [.posted, .nonPosted, .completion] ++
    if !cxl then []
    else [.cacheReq, .cacheRsp, .cacheData] ++ (if role == 5 then [] else host) ++
      (if role == 4 || role == 6 then [] else device)

/-- Data credits that a message uses. -/
def dataCredits (t : CreditType) (m : Msg) : Nat :=
  let bytes := m.beats.length * 64
  if t.limit.1 == 64 then m.beats.length
  else ceilDiv (if m.g Hd.len == 0 then bytes else min (m.g Hd.len) bytes) 16

/-- Header and data credits of a type that the messages in a port's ingress buffer hold. -/
def State.creditsUsed (s : State) (p : Nat) (t : CreditType) : Nat × Nat :=
  let held := ((List.range 4).flatMap (fun v => SMap.get [] s.ingress (p * 8 + v))).filter
    (fun l => creditOf l.msg.name == some t)
  (held.length, (held.map (fun l => dataCredits t l.msg)).sum)

/-- A message is within the credits that its partner holds: no other can arrive (R33). -/
def State.creditsLeft (s : State) (p : Nat) (m : Msg) : Bool :=
  match creditOf m.name with
  | none => true
  | some t =>
    let (h, d) := s.creditsUsed p t
    h + 1 ≤ t.limit.1 && d + dataCredits t m ≤ t.limit.2

/-- The credits of a message that leaves the ingress buffer return to the partner at once (R33). -/
def State.returnCredit (s : State) (p : Nat) (m : Msg) : State :=
  match creditOf m.name with
  | none => s
  | some t => if s.portUp p then s.emit (.credits p t 1 (dataCredits t m)) else s

/-- A port advertises its credits as its link comes up (R33). -/
def State.advertise (s : State) (p : Nat) (cxl : Bool) : State :=
  (creditTypes (s.portRole p) cxl).foldl (fun (s : State) t => s.emit (.credits p t t.limit.1 t.limit.2)) s

/-! ### Link events -/

/-- The content of a sub-port's Munirex DVSEC (R24, R26): XRATE_CAP is 1 on a -2 part, XRATE_EN mirrors GW_MODE. -/
def State.dvsec (s : State) (p : Nat) : Nat :=
  b2n (s.part.grade == 2) + 2 * b2n (s.fbit (Csr.gwMode (portDie p) (portGw p)) GwMode.xrateEn) +
    16 * Config.dvsecRev.toNat

/-- A side with the mode enabled sends one offer after it enters L0 in CXL mode (R24 step 2). -/
def State.offer (s : State) (p : Nat) (t : Training) : State :=
  if t.cxl && !t.xrate && s.xrateEnabled p && !(s.portSt p).offerOut then
    (s.setPortSt p { s.portSt p with offerOut := true }).emit (.xrateOffer p (s.dvsec p))
  else s

/-- LINK_UP: the link reaches L0 (R62), advertises its credits (R33) and may offer extended rate (R24); a narrower width
sets DEGRADE and raises LANE_DEGRADE (R55); the port's down bit clears where its pass has ended (02 R82). -/
def doLinkUp (p : Nat) (t : Training) (s : State) : State :=
  if !s.canTrain p t then s
  else
    let cfg := s.portWidth p
    let s := if s.portUp p then s else s.advertise p t.cxl
    let s := (s.csrSet (linkSts p) (linkWord t)).offer p t
    let s := s.noticeLim (portDie p) 0x0101 p
      [(1, p), (1, t.rate.val), (1, t.width.val), (1, 1), (1, b2n t.cxl), (1, b2n t.xrate)]
    let s := if t.width.val < cfg then
        (s.flag (gwErr p) GwErr.degrade).noticeLim (portDie p) 0x0103 p [(1, p), (1, cfg), (1, t.width.val)]
      else s
    s.clearPortDown p (List.range s.part.dies)

def execLinkUp (p : PortNo) (t : Training) (s : State) : Ans := .next (doLinkUp p.val t s)

/-- FLIT_MODE_ABSENT: the partner has no flit mode, so the LTSSM returns to Detect (R20, R21). -/
def doFlitModeAbsent (p : Nat) (s : State) : State :=
  if !(s.portExists p && s.dieOn (portDie p) && s.mayTrain p && !s.portUp p) then s
  else
    let s := s.csrSet (linkSts p) 0
    (s.flag (gwErr p) GwErr.flitAbsent).noticeLim (portDie p) 0x0105 p [(1, p)]

def execFlitModeAbsent (p : PortNo) (s : State) : Ans := .next (doFlitModeAbsent p.val s)

/-- XRATE_OFFER: an offer arrives on a link in CXL mode; when both sides offered in time the port is a candidate, and the
initiator (the downstream port, or the fabric port with the lower PID) directs the change through Recovery (R24). -/
def doXrateOffer (p : Nat) (cap en inTime lowerPid : Bool) (s : State) : State :=
  if !(s.portUp p && s.fbit (linkSts p) GwLinkSts.cxl && s.xrateEnabled p && !s.fbit (linkSts p) GwLinkSts.xrate)
  then s
  else if cap && en && inTime && (s.portSt p).offerOut && !(s.portSt p).barred then
    let s := s.setPortSt p { s.portSt p with offerIn := true }
    let role := s.portRole p
    if role == 5 || (role == 7 && lowerPid) then s.fset (linkSts p) GwLinkSts.ltssm 0x18 else s
  else s

def execXrateOffer (p : PortNo) (cap en inTime lowerPid : Bool) (s : State) : Ans :=
  .next (doXrateOffer p.val cap en inTime lowerPid s)

/-- Return to 64 GT/s: XRATE_FB, the notice with its reason, and no further attempt until the link goes down. -/
def State.xrateBack (s : State) (p reason : Nat) : State :=
  let s := s.setPortSt p { s.portSt p with barred := true }
  let s := ((s.fset (linkSts p) GwLinkSts.ltssm 0x20).fset (linkSts p) GwLinkSts.rate 5).fset (linkSts p) GwLinkSts.xrate 0
  (s.flag (gwErr p) GwErr.xrateFb).noticeLim (portDie p) 0x0104 p [(1, p), (1, reason)]

/-- XRATE_FALLBACK: L0 at 128 GT/s is not reached in time (R24 step 5). -/
def doXrateFallback (p : Nat) (s : State) : State :=
  if s.portUp p && s.xrateCandidate p && !(s.portSt p).barred && !s.fbit (linkSts p) GwLinkSts.xrate
  then s.xrateBack p 0 else s

def execXrateFallback (p : PortNo) (s : State) : Ans := .next (doXrateFallback p.val s)

/-- XRATE_RECOVERY_FALLBACK: more than 8 Recovery entries in 1 ms (R25). -/
def doXrateRecoveryFallback (p : Nat) (s : State) : State :=
  if s.portUp p && s.fbit (linkSts p) GwLinkSts.xrate then s.xrateBack p 1 else s

def execXrateRecoveryFallback (p : PortNo) (s : State) : Ans := .next (doXrateRecoveryFallback p.val s)

def causeCode : DownCause → Nat
  | .surprise => 0 | .perst => 1 | .hotReset => 2 | .disable => 3 | .dpc => 4 | .image => 5

/-- Discards what waits at the egress of a port and returns its credits, one list of messages on channel `v` (R54). -/
def State.dropEgress (s : State) (d e idx v : Nat) : List XMsg → State
  | [] => s
  | x :: xs =>
    let s := s.csrSet (Csr.xbCredit d e v) (XbCredit.avail.satAdd (s.csrGet (Csr.xbCredit d e v)) x.msg.size)
    (s.discard d e idx x.msg).dropEgress d e idx v xs

/-- Empties every channel of an egress (R51, R54). -/
def State.emptyEgress (s : State) (d e idx : Nat) : List Nat → State
  | [] => s
  | v :: vs =>
    let q := SMap.get [] s.xout (xkey d e v)
    let s := { s with xout := SMap.set [] s.xout (xkey d e v) [] }
    (s.dropEgress d e idx v q).emptyEgress d e idx vs

/-- Sends a port-down message on ESC to the slices of the dies `hs` (R54). A port whose die leaves service (`leaving`) has
sent them by then: they stand at the culverts of the other dies (log entry 19). -/
def State.sendPortDown (s : State) (p : Nat) (leaving : Bool) (hs : List Nat) : State :=
  let d := portDie p
  let m := (((escMsg .escDown).w Hd.port p).w Hd.srcDie d).w Hd.srcIdx (p % 8)
  hs.foldl (fun (s : State) h =>
    if !leaving then s.inject d (p % 8) m h 11
    else if h ≠ d && s.pathUp d h then s.inject h (8 + entryPort d h) m h 11 else s) s

/-- The configuration spaces of a port's functions return to their initial content. -/
def State.cfgClear (s : State) (p : Nat) : State := { s with cfgWords := SMap.drop (fun k => k / 4096 == p) s.cfgWords }

/-- A link goes down (R54): status cleared, egress discarded, LINK_DOWN set and raised with its cause, and every slice
sent a port-down message. Disable and DPC leave the LTSSM in Disabled, every other cause in Detect. What software wrote to
the port's configuration spaces is lost, as PCIe has it for a reset and a link-down (PRESUMED, log entry 101). -/
def State.takeDown (s : State) (p cause : Nat) (quiet : Bool) : State :=
  if !s.fbit (linkSts p) GwLinkSts.up then s
  else
    let d := portDie p
    let s := s.csrSet (linkSts p) (if cause == 3 || cause == 4 then GwLinkSts.ltssm.put (0 : Word) 0x30 else 0)
    let s := (s.setPortSt p PortSt.reset).cfgClear p
    let s := { s with tags := s.tags.filter (·.port != p) }
    let s := s.emptyEgress d (p % 8) (p % 8) [0, 1, 2, 3, 4]
    let s := if quiet then s
      else (s.flag (gwErr p) GwErr.linkDown).noticeLim d 0x0102 p [(1, p), (1, cause)]
    s.sendPortDown p quiet (List.range s.part.dies)

def doLinkDown (p : Nat) (cause : DownCause) (s : State) : State :=
  if s.portExists p then s.takeDown p (causeCode cause) false else s

def execLinkDown (p : PortNo) (cause : DownCause) (s : State) : Ans := .next (doLinkDown p.val cause s)

/-- A CXL port of a viral group. -/
def State.viralMember (s : State) (g p : Nat) : Bool :=
  s.portExists p && s.dieOn (portDie p) && cxlRole (s.portRole p) && s.portGroup p == g

/-- Marks ports viral. -/
def State.setViral (s : State) : List Nat → State
  | [] => s
  | p :: ps => ((s.setPortSt p { s.portSt p with viral := true }).flag (gwErr p) GwErr.viral).setViral ps

/-- Entry into viral at a port: it spreads to every CXL port of its group on every die; VIRAL is raised once for the
group entry with the originating port `by_`; group 0 does not spread (R56). When a port leaves viral the spec does not say:
here it does at its own link-down, and an entry is a new group entry once some member is not viral (DESIGN CHOICE, log
entry 102). -/
def State.viral (s : State) (p by_ : Nat) : State :=
  let g := s.portGroup p
  if g == 0 then s.setViral [p]
  else
    let members := s.allPorts.filter (s.viralMember g)
    if members.all (fun q => (s.portSt q).viral) then s
    else (s.setViral members).noticeLim (portDie p) 0x0109 p [(1, g), (1, by_)]

/-- VIRAL_ENTRY: a link in CXL mode enters viral, by reception or by a fatal error (R56). -/
def doViralEntry (p : Nat) (s : State) : State :=
  if s.portUp p && s.fbit (linkSts p) GwLinkSts.cxl then s.viral p p else s

def execViralEntry (p : PortNo) (s : State) : Ans := .next (doViralEntry p.val s)

/-- The ports of a gateway. -/
def gwPorts (d g : Nat) : List Nat := (List.range 4).map (fun k => d * 8 + g * 4 + k)

def State.takeDownAll (s : State) (cause : Nat) (quiet : Bool) : List Nat → State
  | [] => s
  | p :: ps => (s.takeDown p cause quiet).takeDownAll cause quiet ps

/-- A CSR address of a gateway's block. -/
def isGw (d g a : Nat) : Bool := dieOf a == d && blockOf a == g

/-- The management port's gateway holds the Steward function (09 R299): MGMT_PORT of the option copy. -/
def State.mgmtPort (s : State) : Nat := (s.options.getD 4 0xFF).toNat

/-- PERST_ASSERT: reset kind G of a gateway (R57): its sub-ports go down with cause 1, its fields clear, and on the
management port's gateway the mailboxes do, MB_INFO excepted (12 Table 12-5). -/
def doPerstAssert (d g : Nat) (s : State) : State :=
  if !s.populated d then s
  else
    let s := { s with perst := setBitN s.perst (2 * d + g) }
    let s := s.takeDownAll 1 false (gwPorts d g)
    let s := s.resetCsr [.g] (isGw d g)
    if s.mgmtPort / 4 == 2 * d + g then
      { s.resetCsr [.g] (fun a => dieOf a == stw && blockOf a == 4 && a != Csr.mbInfo) with mboxes := [], bar := barReset }
    else s

def execPerstAssert (d : Die) (g : Gw) (s : State) : Ans := .next (doPerstAssert d.val g.val s)

/-- PERST_DEASSERT: the LTSSMs of the gateway's enabled sub-ports may train (R23: `State.mayTrain`), after release step 1 or
from now, whichever is later. -/
def doPerstDeassert (d g : Nat) (s : State) : State := { s with perst := clrBitN s.perst (2 * d + g) }

def execPerstDeassert (d : Die) (g : Gw) (s : State) : Ans := .next (doPerstDeassert d.val g.val s)

/-! ## The transaction shell -/

/-- Restores the sender's tag in a response that pairs with a request an egress shell sent under a tag of its own: the
message becomes the reply to that sender (03 R126). -/
def restoreTag (p : Nat) (tags : List TagRec) (l : LinkMsg) : LinkMsg × List TagRec :=
  if !l.msg.name.responds then (l, tags)
  else
    match tags.find? (fun t => t.port == p && t.tag == l.msg.g Hd.ptag) with
    | none => (l, tags)
    | some t =>
      let m := (l.msg.w Hd.ptag t.ptag).w Hd.xtag t.xtag
      let m := ((m.w Hd.dkind 4).w Hd.destDie t.die).w Hd.destIdx t.src
      ({ l with msg := m }, tags.filter (· != t))

/-- The header fields the shell fills in a link message (R34; 03 Table 03-5). -/
def shellFill (p : Nat) (m : Msg) : Msg :=
  let m := (m.named.w Hd.vc (Vc.code m.name.vc)).w Hd.beats m.beats.length
  let m := (m.w Hd.proto m.name.proto).w Hd.port p
  let m := ((m.w Hd.stamped 0).w Hd.needRsp 0).w Hd.dkind 0
  (m.w Hd.srcDie (portDie p)).w Hd.srcIdx (p % 8)

/-- A configuration request's offset within its function. -/
def Msg.cfgOffset (m : Msg) : Nat := m.g Hd.addr % 0x1000

/-- The role whose configuration space a shell presents: a port of roles 0x4 to 0x6 whose link is up as PCIe presents that
of the matching PCIe role (R21). -/
def State.shownRole (s : State) (p : Nat) : Nat :=
  let r := s.portRole p
  if cxlRole r && r ≠ 7 && s.fbit (linkSts p) GwLinkSts.up && !s.fbit (linkSts p) GwLinkSts.cxl then r - 3 else r

/-- Every feature of Tables 01-2 and 01-3 that is marked No or holds under a condition of the port. -/
def allFeatures : List Feature :=
  [.nonFlit, .widerThanX8, .l0s, .l1, .l1Substates, .vcAbove0, .payloadAbove512, .readAbove4096, .dpc, .acs, .slotPower,
   .frs, .obff, .ptm, .ignoredMsg, .ide, .tdisp, .srIov, .multicast, .cxlIo, .flit256, .flitLatOpt, .flit68, .backInval,
   .isolation, .unorderedIo, .cxlIde, .tsp]

/-- Whether a port has a feature (Tables 01-2 and 01-3). -/
def State.feature (s : State) (p : Nat) (f : Feature) : Bool :=
  let r := s.shownRole p
  match f with
  | .l1 => s.fbit (Csr.gwMode (portDie p) (portGw p)) GwMode.l1En
  | .dpc | .acs => r == 2 || r == 5
  | .cxlIo | .flit256 | .backInval => cxlRole r
  | .isolation => r == 5
  | _ => false

/-- The features of a port as bits, in the order of `allFeatures`. -/
def State.features (s : State) (p : Nat) : Nat :=
  (allFeatures.zipIdx.filter (fun x => s.feature p x.1)).foldl (fun n x => n + 2 ^ x.2) 0

/-- The Steward function exists: MGMT_PORT names a port of role 0x1, 0x3, 0x4 or 0x6 (09 R299). -/
def State.functionExists (s : State) : Bool := s.mgmtPort < 64 && [1, 3, 4, 6].contains (s.portRole s.mgmtPort)

/-- A function that the gateway of a port presents: its own, and on the management port the Steward function, function 1
(R28; 09 R299). -/
def State.presents (s : State) (p fn : Nat) : Bool := fn == 0 || (fn == 1 && s.functionExists && s.mgmtPort == p)

def cfgKey (p fn w : Nat) : Nat := (p * 8 + fn) * 512 + w

/-- The value last written to a word of a function's configuration space. -/
def State.cfgWord (s : State) (p fn w : Nat) : Word := SMap.get 0 s.cfgWords (cfgKey p fn w)

/-- A vector of the Steward function's MSI-X is masked, by the function mask or by its vector control (the standard's places,
PRESUMED, log entry 101). -/
def State.msixMasked (s : State) (v : Nat) : Bool :=
  bitOf (s.cfgWord s.mgmtPort 1 Config.msixAt).toNat 30 || bitOf (Memory.read 0 s.bar (0x100C + 16 * v)).toNat 0

/-- A vector's pending bit (09 Table 09-1). -/
def State.msixPend (s : State) (v : Nat) (b : Bool) : State :=
  let old := (Memory.read 0 s.bar 0x1800).toNat
  { s with bar := Memory.write 0 s.bar 0x1800 (BitVec.ofNat 8 (if b then setBitN old v else clrBitN old v)) }

/-- An MSI-X vector of the Steward function is raised (09 R299): signalled, or held in its pending bit while it is masked;
nothing while MSI-X is not enabled. -/
def State.msix (s : State) (v : Nat) : State :=
  if !bitOf (s.cfgWord s.mgmtPort 1 Config.msixAt).toNat 31 then s
  else if s.msixMasked v then s.msixPend v true
  else s.emit (.msix v)

/-- Vectors that were pending and are masked no longer are signalled. -/
def State.msixFlush (s : State) : State :=
  ([0, 1].filter (fun v => bitOf (Memory.read 0 s.bar 0x1800).toNat v && !s.msixMasked v)).foldl
    (fun s v => (s.msixPend v false).msix v) s

/-- A word of the Steward function's configuration space that R299 fixes: the IDs, the class code, BAR0 as the 64-bit
non-prefetchable address of a window of 256 KiB, and the MSI-X capability of two vectors with its tables in BAR0 (09 Table
09-1; the standard's places, PRESUMED, log entry 101). -/
def stewardCfg (w : Nat) (held : Word) : Option Word :=
  if w == 0 then some (BitVec.ofNat 32 (Config.vendorId.toNat + 0x0808 * 65536))
  else if w == 2 then some (BitVec.ofNat 32 (Config.functionRev.toNat + 0x088000 * 256))
  else if w == 4 then some (BitVec.ofNat 32 (4 + held.toNat / 2 ^ 18 * 2 ^ 18))
  else if w == 5 then some held
  else if w == Config.msixAt then
    some (BitVec.ofNat 32 (0x11 + Config.msixNext.toNat * 256 + 65536 + held.toNat / 2 ^ 30 * 2 ^ 30))
  else if w == Config.msixAt + 1 then some (BitVec.ofNat 32 0x1000)
  else if w == Config.msixAt + 2 then some (BitVec.ofNat 32 0x1800)
  else none

/-- A word of a CXL function's Munirex DVSEC (R26): its ID 0x0001 in bits [15:0] of its third word, and its content above
(the standard's places, PRESUMED, log entry 101). -/
def State.dvsecCfg (s : State) (p w : Nat) : Option Word :=
  if cxlRole (s.shownRole p) && w == Config.dvsecAt (s.shownRole p) + 2 then
    some (BitVec.ofNat 32 (1 + s.dvsec p * 65536))
  else none

/-- What a configuration read below 0x800 returns (R26, R28; 09 R299): the words the spec fixes, and the standards' own. -/
def State.cfgValue (s : State) (p fn w : Nat) : Word :=
  let held := s.cfgWord p fn w
  let rest := Config.cfgRead fn (s.shownRole p) (s.features p) w held
  if fn == 0 then (s.dvsecCfg p w).getD rest else (stewardCfg w held).getD rest

/-- A shell answers a configuration request to a function of its gateway below 0x800 (R28); one to a function that it does
not present is answered as an unsupported request. -/
def State.cfgAnswer (s : State) (p : Nat) (l : LinkMsg) : State :=
  let fn := l.fn.val
  let w := Msg.cfgOffset l.msg / 4
  if !s.presents p fn then s.emit (.linkError p l.msg)
  else if l.msg.name == .cfgRead then s.emit (.shellAnswer p l.msg (some (s.cfgValue p fn w)))
  else
    let v := Config.cfgWrite fn (s.shownRole p) w (s.cfgWord p fn w) l.msg.hdr (l.msg.beats.headD 0)
    (State.emit { s with cfgWords := SMap.set 0 s.cfgWords (cfgKey p fn w) v } (.shellAnswer p l.msg none)).msixFlush

/-- A request that depends on a feature its port does not have (R27). -/
def State.absentFor (s : State) (p : Nat) (l : LinkMsg) : Option Feature :=
  l.depends.filter (fun f => !s.feature p f)

/-- What the shell consumes itself (R18, R27 to R29): messages that end at the port, MCTP messages to the device, requests of
absent features, and configuration requests below 0x800 or to a function that is not presented. -/
def State.shellConsumes (s : State) (p : Nat) (l : LinkMsg) : Bool :=
  match l.msg.name with
  | .terminated | .mctpVdm | .internal | .escDown | .escAccept | .escRelease | .escWake | .escAbort | .bankAcc
  | .csrAcc => true
  | .cfgRead | .cfgWrite => (s.absentFor p l).isSome || Msg.cfgOffset l.msg < 0x800 || !s.presents p l.fn.val
  | _ => (s.absentFor p l).isSome

/-- The shell's own answer to a message that it consumes. -/
def State.shellAnswers (s : State) (p : Nat) (l : LinkMsg) : State :=
  match s.absentFor p l, l.msg.name with
  | some f, _ => s.emit (.linkAbsent p l.msg f)
  | none, .cfgRead | none, .cfgWrite => s.cfgAnswer p l
  | none, _ => s

/-- One unpacked message, within the partner's credits (R33): a poisoned one is counted and flagged (R52); the shell
consumes it and returns its credits, or it joins its channel's ingress queue. -/
def State.shellTake (s : State) (p : Nat) (l : LinkMsg) : State :=
  if !s.creditsLeft p l.msg then s else
  let s := if l.msg.poisoned then
      let first := !s.fbit (gwErr p) GwErr.poisonRx
      let s := s.count (Csr.gwPoisonCnt (portDie p) (portGw p) (portSub p)) GwPoisonCnt.count 1
      let s := s.flag (gwErr p) GwErr.poisonRx
      if first then s.noticeLim (portDie p) 0x0107 p [(1, p), (1, l.msg.name.proto)] else s
    else s
  if s.shellConsumes p l then (s.shellAnswers p l).returnCredit p l.msg
  else
    let (l, tags) := restoreTag p s.tags { l with msg := shellFill p l.msg }
    let k := p * 8 + l.msg.g Hd.vc
    { s with tags := tags, ingress := SMap.set [] s.ingress k (SMap.get [] s.ingress k ++ [l]) }

def State.shellTakeAll (s : State) (p : Nat) : List LinkMsg → State
  | [] => s
  | l :: ls => (s.shellTake p l).shellTakeAll p ls

/-- A replay of a port: its count in the last 1 ms, with this one, is held against GW_REPLAY_THR (R53). -/
def State.replayFlit (s : State) (p : Nat) : State :=
  let now := s.msOf (portDie p)
  let l := (SMap.get [] s.replays p).filter (fun t => now < t + 1000000) ++ [now]
  let s := { s with replays := SMap.set [] s.replays p l }
  let s := (s.flag (gwErr p) GwErr.fecUncorr).count (Csr.gwCnt (portDie p) (portGw p) (portSub p)) GwCnt.replays 1
  if s.fget (Csr.gwReplayThr (portDie p) (portGw p)) GwReplayThr.thr < l.length then
    (s.flag (gwErr p) GwErr.replayThr).noticeLim (portDie p) 0x0106 p [(1, p), (2, min l.length 65535)]
  else s

/-- GATEWAY_FLIT_RECEIVE: FEC and CRC, replay counting (R53), then every message of a good flit is taken in order. -/
def doGatewayFlitReceive (p : Nat) (f : Flit) (s : State) : State :=
  if !s.portUp p then s
  else
    let cnt := Csr.gwCnt (portDie p) (portGw p) (portSub p)
    let s := if f.fecCorr then s.count cnt GwCnt.fecCorr 1 else s
    if f.bad then s.replayFlit p else s.shellTakeAll p f.msgs

def execGatewayFlitReceive (p : PortNo) (f : Flit) (s : State) : Ans := .next (doGatewayFlitReceive p.val f s)

/-! ## Headgates -/

/-- The classification key of a message (R38, Table 01-8). -/
def classKey (l : LinkMsg) : Nat :=
  let m := l.msg
  let src := if l.pbr then m.g Hd.spid else if l.mld then m.g Hd.ldid else 0
  let ahi := if l.hasAddr then m.g Hd.addr / 2 ^ 45 % 128 else 0
  m.g Hd.proto + m.g Hd.vc % 4 * 2 ^ 2 + m.g Hd.opcode % 64 * 2 ^ 4 +
    (if m.g Hd.proto == 0 || m.g Hd.proto == 3 then m.g Hd.tc else 0) * 2 ^ 10 + src * 2 ^ 13 + ahi * 2 ^ 25

/-- A match entry or default as an action: its register word. -/
def State.classify (s : State) (d k key : Nat) : Word :=
  match (List.range 16).find? (fun i =>
      s.fbit (Csr.hgMatchAct d k i) HgMatchAct.en &&
      (key &&& (s.csrGet (Csr.hgMatchMask d k i)).toNat) ==
        ((s.csrGet (Csr.hgMatchVal d k i)).toNat &&& (s.csrGet (Csr.hgMatchMask d k i)).toNat)) with
  | some i => s.csrGet (Csr.hgMatchAct d k i)
  | none => s.csrGet (Csr.hgDefault d k)

/-- What the headgate decides for a message: class, route, bank, slot, flag (R28, R39). -/
structure Action where
  cls   : Nat
  route : Nat
  bank  : Nat
  slot  : Nat
  flag  : Nat
  deriving DecidableEq, Repr

/-- A configuration request to 0x800 or above takes the default's CLASS, SLOT and FLAG as ROUTE 3 (R28); reserved route
codes are ROUTE 3 with SLOT 0 and FLAG 0 (R39). -/
def State.action (s : State) (d k : Nat) (l : LinkMsg) : Action :=
  if l.msg.name == .cfgRead || l.msg.name == .cfgWrite then
    let w := s.csrGet (Csr.hgDefault d k)
    { cls := HgMatchAct.cls.get w, route := 3, bank := 0, slot := HgMatchAct.slot.get w, flag := HgMatchAct.flag.get w }
  else
    let w := s.classify d k (classKey l)
    let r := HgMatchAct.route.get w
    if 5 ≤ r then { cls := HgMatchAct.cls.get w, route := 3, bank := 0, slot := 0, flag := 0 }
    else { cls := HgMatchAct.cls.get w, route := r, bank := HgMatchAct.bank.get w, slot := HgMatchAct.slot.get w,
           flag := HgMatchAct.flag.get w }

/-- The cap of a bucket: BURST × 1,024, BURST 0 treated as 1 (R40). -/
def burstCap (w : Word) : Nat := max (HgMeter.burst.get w) 1 * 1024

/-- The signed count of a bucket. -/
def State.bucket (s : State) (d k c : Nat) : Int := signedOf 32 (s.fget (Csr.hgBucket d k c) HgBucket.count)

def State.setBucket (s : State) (d k c : Nat) (v : Int) : State :=
  s.fset (Csr.hgBucket d k c) HgBucket.count (wrapInt 32 v)

/-- The HG_METER word that acts on a bucket in this FLIT cycle: a write acts from the next (R40). -/
def State.meterNow (s : State) (d k c : Nat) : Word :=
  (SMap.find s.meterOld (Csr.hgMeter d k c)).getD (s.csrGet (Csr.hgMeter d k c))

/-- Metering is enabled for a class on a channel: RSP is never metered (R41). -/
def State.metered (s : State) (d k c v : Nat) : Bool := v != 1 && HgMeter.meterEn.bit (s.meterNow d k c)

/-- Whether a meter holds a message of a class on a channel (R40, R41). -/
def State.meterHolds (s : State) (d k c v : Nat) : Bool := s.metered d k c v && decide (s.bucket d k c ≤ 0)

/-- Debits a passed message from its bucket (R40, R41). -/
def State.meterDebit (s : State) (d k c v beats : Nat) : State :=
  if s.metered d k c v then
    s.setBucket d k c (s.bucket d k c - beats * 1024)
  else s

/-- A completion of PCIe or CXL.io (R45): every RSP message of that protocol, and the completions with data of DAT, which a
message that an engine composed says by its opcode (a free value, log entry 2). -/
def Msg.completes (m : Msg) : Bool :=
  m.g Hd.proto == 0 && (m.g Hd.vc == 1 || (m.g Hd.vc == 3 &&
    (m.name == .ioCplD || (m.name == .internal && Config.opcodeCompletes (m.g Hd.opcode)))))

/-- The destination bus number of a message (R45): for a completion RID[15:8]; for others the bus of the target ID, which
the standard places in the header. -/
def Msg.destBus (m : Msg) : Option Nat :=
  if Msg.completes m then some (m.g Hd.rid / 256)
  else if m.name == .internal then (Config.targetBus m.hdr).map (·.toNat)
  else m.bus.map (·.toNat)

/-- The global port a route lookup names, before the check that it exists and is up (R45). -/
def State.lookup (s : State) (d route bank : Nat) (m : Msg) : Option Nat :=
  match route with
  | 0 =>
    let a := Csr.xbPid d (m.g Hd.dpid)
    if s.fbit a XbPid.v then some (s.fget a XbPid.port) else none
  | 1 =>
    match Msg.destBus m with
    | none => none
    | some b =>
      let a := Csr.xbBus d (bank * 256 + b)
      if s.fbit a XbBus.v then some (s.fget a XbBus.port) else none
  | _ =>
    let page := m.g Hd.addr / 4096
    match (List.range 32).find? (fun n =>
        s.fbit (Csr.xbAddrW3 d n) XbAddrW3.v && s.fget (Csr.xbAddrW3 d n) XbAddrW3.bank == bank &&
        s.fget (Csr.xbAddrW0 d n) XbAddrW0.baseLo + s.fget (Csr.xbAddrW1 d n) XbAddrW1.baseHi * 2 ^ 20 ≤ page &&
        page ≤ s.fget (Csr.xbAddrW2 d n) XbAddrW2.limitLo + s.fget (Csr.xbAddrW3 d n) XbAddrW3.limitHi * 2 ^ 20) with
    | some n => some (s.fget (Csr.xbAddrW3 d n) XbAddrW3.port)
    | none => none

/-- A route lookup: none is a miss (R46). -/
def State.routeTo (s : State) (d route bank : Nat) (m : Msg) : Option Nat :=
  match s.lookup d route bank m with
  | some p => if s.portUp p then some p else none
  | none => none

/-- A route miss at a headgate (R46). -/
def State.routeMiss (s : State) (p route key : Nat) (m : Msg) : State :=
  let s := s.discard (portDie p) (p % 8) (p % 8) m
  (s.flag (gwErr p) GwErr.routeMiss).noticeLim (portDie p) 0x0108 p [(1, p), (1, route), (4, key)]

/-- Sends a message whose route is a port lookup, from die `d`, endpoint `e`. -/
def State.sendToPort (s : State) (d e : Nat) (m : Msg) (p : Nat) : State :=
  s.inject d e ((m.w Hd.dkind 0).w Hd.dest p) (portDie p) (p % 8)

/-! ### The coherent window (02 R64, R65) -/

/-- Whether an address lies inside the coherent window. -/
def inWindow (k base addr : Nat) : Bool := addr / 2 ^ (35 + k) == base / 2 ^ k

def lineF (k addr : Nat) : Nat := addr / 2 ^ 6 % 2 ^ k
def lineSet (k addr : Nat) : Nat := addr / 2 ^ (6 + k) % 2 ^ 14
def lineTag (k addr : Nat) : Nat := addr / 2 ^ (20 + k) % 2 ^ 15

/-- The home die of a line: F XOR fold(T). -/
def homeDie (k addr : Nat) : Nat := lineF k addr ^^^ foldXor k 15 (lineTag k addr)

/-- The request kind a protocol message maps to (02 Table 02-4); the kinds that depend on the sender are decided at the
start of the transaction (R72). -/
def dirKind (m : Msg) : DKind :=
  match m.name, m.metaV with
  | .rdShared, _ => .rds
  | .rdOwn, _ => .rdo
  | .rdOwnNoData, _ => .rdo
  | .rdCurr, _ => .rdc
  | .itoMWr, _ => .wri
  | .wrInv, _ => .wri
  | .cleanEvict, _ => .evc
  | .dirtyEvict, _ => .evd
  | .memRd, .s => .rds
  | .memRd, .a => .rdo
  | .memRd, .i => .memI
  | .memRdData, _ => .rdc
  | .memInv, .i => .invI
  | .memWr, .i => .wrI
  | _, _ => .none

/-- The kind code of the directory notices: Table 02-4's order, 7 for a message with no mapping (DESIGN CHOICE, log entry
103). -/
def DKind.code : DKind → Nat
  | .rds => 0 | .rdo => 1 | .rdc => 2 | .wri => 3 | .evc => 4 | .evd => 5 | .memI => 2 | .invI => 4 | .wrI => 3 | .none => 7

/-- Stamps a message with the milestone of the die (02 R83). -/
def State.stamp (s : State) (d : Nat) (m : Msg) : Msg := (m.w Hd.stamped 1).w Hd.ms24 (s.msOf d % 2 ^ 24)

/-- Routes a message past the headgate of port `p` by its action (R39, R45, R46; 02 R66, R83). -/
def State.headRoute (s : State) (p : Nat) (l : LinkMsg) (a : Action) : State :=
  let d := portDie p
  let e := p % 8
  let m := l.msg.w Hd.hc a.cls
  let m := if m.g Hd.vc == 2 then s.stamp d m else m
  let toPort (s : State) (route bank : Nat) : State :=
    match s.routeTo d route bank m with
    | some q => s.sendToPort d e m q
    | none => s.routeMiss p route (classKey l) m
  match a.route with
  | 3 =>
    let m := (((m.w Hd.dkind 1).w Hd.dest 0).w Hd.destDie d).w Hd.destSlot a.slot
    s.inject d e (m.w Hd.destFlag a.flag) d 12
  | 4 =>
    let k := s.part.k
    let addr := m.g Hd.addr
    if s.fbit (Csr.dirCtrl d) DirCtrl.en && inWindow k (s.fget (Csr.dirWin d) DirWin.base) addr then
      let m := s.stamp d ((m.w Hd.dkind 3).w Hd.dest (dirKind m).code)
      s.inject d e m (homeDie k addr) 11
    else
      let s := s.count (Csr.dirStrayCnt d) DirStrayCnt.outside 1
      let s := s.noticeLim d 0x0207 0 [(1, d), (1, p), (4, addr / 2 ^ 32)]
      toPort s 2 (s.fget (Csr.dirCtrl d) DirCtrl.memBank)
  | r => toPort s r a.bank

/-- The head of a channel that may be decided in this FLIT cycle: the headgates pass (08 Table 08-10), and the last beat of
the message before it has passed (R40). -/
def State.headOf (s : State) (p v : Nat) : Option LinkMsg :=
  if s.gwSluiceOpen p && SMap.get false s.gatesPass (portDie p) && SMap.get 0 s.headFree (p * 8 + v) ≤ s.ticks then
    (SMap.get [] s.ingress (p * 8 + v)).head?
  else none

/-- The head of a channel with its action, when neither its meter (R40, R41) nor the crossbar's credit (R36) holds it. -/
def State.headPasses (s : State) (p v : Nat) : Option (LinkMsg × Action) :=
  (s.headOf p v).bind (fun l =>
    let a := s.action (portDie p) (p % 8) l
    if s.fitsIn (portDie p) (p % 8) l.msg && !s.meterHolds (portDie p) (p % 8) a.cls v then some (l, a) else none)

/-- A head of the same metered class on a channel tested before `v`, in the order REQ, SNP, DAT, passes first (R40). -/
def State.headBefore (s : State) (p c v : Nat) : Bool :=
  s.metered (portDie p) (p % 8) c v &&
    [0, 2].any (fun u => u < v && (s.headPasses p u).any (fun x => x.2.cls == c))

/-- Takes the head of a channel: its beats pass one a FLIT cycle (R40), and its credits return (R33). -/
def State.popHead (s : State) (p v : Nat) (l : LinkMsg) : State :=
  State.returnCredit { s with
    ingress := SMap.set [] s.ingress (p * 8 + v) (SMap.get [] s.ingress (p * 8 + v)).tail
    headFree := SMap.set 0 s.headFree (p * 8 + v) (s.ticks + l.msg.size) } p l.msg

/-- HEADGATE_PASS: the message at the head of a channel of a port is classified (R38), meets its meter (R40, R41) and
the crossbar's credit (R36), and passes: a response that pairs with a request of the device goes to that sender (03 R126),
every other message by its action. -/
def doHeadgatePass (p : Nat) (vc : Vc) (s : State) : State :=
  let d := portDie p
  let k := p % 8
  let v := Vc.code vc
  match s.headPasses p v with
  | none => s
  | some (l, a) =>
    if s.headBefore p a.cls v then s
    else
      let s := (s.popHead p v l).meterDebit d k a.cls v l.msg.size
      if l.msg.g Hd.dkind == 4 then s.injectReply d k (l.msg.w Hd.hc a.cls) else s.headRoute p l a

def execHeadgatePass (p : PortNo) (vc : Vc) (s : State) : Ans := .next (doHeadgatePass p.val vc s)

/-- HG_METER_WRITE: the bucket follows the old rate, cap and enable to the end of this FLIT cycle (R40): `meterOld` keeps
them until the next, in which a write of METER_EN 0 sets the count to the cap (`State.meterTurn`). -/
def doHgMeterWrite (d k c : Nat) (v : Word) (s : State) : State :=
  let a := Csr.hgMeter d k c
  let s := { s with meterOld := SMap.put s.meterOld a (s.meterNow d k c) }
  ((s.fset a HgMeter.rate (HgMeter.rate.get v)).fset a HgMeter.burst (HgMeter.burst.get v)).fset a
    HgMeter.meterEn (HgMeter.meterEn.get v)

def execHgMeterWrite (p : PortNo) (c : Hc) (v : Word) (s : State) : Ans :=
  .next (if s.dieOn (portDie p.val) then doHgMeterWrite (portDie p.val) (p.val % 8) c.val v s else s)

/-! ## Crossbar -/

/-- The first of a cyclic order that starts at `start` and meets a test. -/
def firstFrom (n start : Nat) (p : Nat → Bool) : Option Nat :=
  ((List.range n).map (fun i => (start + i) % n)).find? p

/-- The head of a crossbar input queue on a channel, when it leaves by output `e`. -/
def State.headFor (s : State) (d e i v : Nat) : Option XMsg :=
  match SMap.get [] s.xin (xkey d i v) with
  | [] => none
  | x :: _ => if nextHop d x == e then some x else none

/-- A culvert port that carries beats: present, trained and enabled on both sides, the neighbour powered (R48, R51). -/
def State.culvertUp (s : State) (d c : Nat) : Bool :=
  match s.neighbour d c with
  | none => false
  | some n =>
    s.dieOn d && s.dieOn n && s.fbit (Csr.cvSts d c) CvSts.trained && s.fbit (Csr.cvCtrl d c) CvCtrl.en &&
    s.fbit (Csr.cvCtrl n (facing c)) CvCtrl.en

/-- The crossbar output's sink accepts messages: a local port whose link is up, a culvert that is up, a unit. -/
def State.sinkUp (s : State) (d e : Nat) : Bool :=
  if e < 8 then s.portUp (d * 8 + e) else if e < 11 then s.culvertUp d (e - 8) else true

/-- The source index of the unit that answers for an output that discards (R46, R51): the local port or culvert port. -/
def outIdx (e : Nat) : Nat := if e < 8 then e else 67 + e

/-- The message that the round-robin order of the inputs selects on a channel of an output, with its input (R44 step 3). -/
def State.xpick (s : State) (d e v : Nat) : Option (Nat × XMsg) :=
  (firstFrom 22 (SMap.get 0 s.xrr (xkey d e v)) (fun i => (s.headFor d e i v).isSome)).bind (fun i =>
    (s.headFor d e i v).map (fun x => (i, x)))

/-- A message fits the credits that the sink of an output holds on a channel; a sink that is down takes every message and
discards it (R36, R51, R54). -/
def State.xfits (s : State) (d e v : Nat) (x : XMsg) : Bool :=
  x.msg.size ≤ s.fget (Csr.xbCredit d e v) XbCredit.avail || !s.sinkUp d e

/-- The channels in the order in which an output looks at them: ESC first, then round-robin (R44 steps 1 and 2). -/
def State.xorder (s : State) (d e : Nat) : List Nat :=
  4 :: (List.range 4).map (fun i => (SMap.get 0 s.xrr (xkey d e 7) + i) % 4)

/-- The channel an output serves next, with its input and message: a channel is skipped when a slot of the output carries
it, and when its selected message is missing or does not fit (R44). -/
def State.xselect (s : State) (d e : Nat) (busy : List Nat) : Option (Nat × Nat × XMsg) :=
  ((s.xorder d e).filter (fun v => !busy.contains v)).findSome? (fun v =>
    (s.xpick d e v).bind (fun y => if s.xfits d e v y.2 then some (v, y.1, y.2) else none))

/-- While the selected message of a channel does not fit, the channel's input pointer stays on it (R44 step 3). -/
def State.holdPointers (s : State) (d e : Nat) : State :=
  (List.range 5).foldl (fun (s : State) v =>
    match s.xpick d e v with
    | some (i, x) => if s.xfits d e v x then s else { s with xrr := SMap.set 0 s.xrr (xkey d e v) i }
    | none => s) s

/-- Beat slots of an output: two on a culvert, each with a message of its own channel, one elsewhere (R44). -/
def outSlots (e : Nat) : Nat := if 8 ≤ e && e ≤ 10 then 2 else 1

/-- The messages that an output is still sending: channel, and the FLIT cycle in which the slot is free. -/
def State.sending (s : State) (d e : Nat) : List (Nat × Nat) :=
  (SMap.get [] s.xbusy (xkey d e 0)).filter (fun q => s.ticks < q.2)

/-- A message leaves a crossbar input: the pointers move past it, its slot is held for its beats, and the input's credits
go to what waited for them (R36, R44). -/
def State.xtake (s : State) (d e v i : Nat) (x : XMsg) : State :=
  State.refillIn { s with
    xin := SMap.set [] s.xin (xkey d i v) (SMap.get [] s.xin (xkey d i v)).tail
    xrr := SMap.set 0 (SMap.set 0 s.xrr (xkey d e v) ((i + 1) % 22)) (xkey d e 7)
      (if v == 4 then SMap.get 0 s.xrr (xkey d e 7) else (v + 1) % 4)
    xbusy := SMap.set [] s.xbusy (xkey d e 0) (s.sending d e ++ [(v, s.ticks + x.msg.size)]) } d i v

/-- Takes the head of a sink's buffer on a channel, and returns its credits (R36). -/
def State.takeOut (s : State) (d e v : Nat) : Option (XMsg × State) :=
  match SMap.get [] s.xout (xkey d e v) with
  | [] => none
  | x :: rest =>
    let s := { s with xout := SMap.set [] s.xout (xkey d e v) rest }
    some (x, s.count (Csr.xbCredit d e v) XbCredit.avail x.msg.size)

/-! ## Culverts -/

/-- 64-bit groups of the beats of a message with a single-bit (1) or a double-bit (2) error (R50). -/
def errCount (n : Nat) (errs : List (List (Fin 3))) : Nat := (errs.flatten.filter (fun e => e.val == n)).length

/-- A beat has a group with a double-bit error (R50). -/
def beatBad (errs : List (List (Fin 3))) (b : Nat) : Bool := (errs.getD b []).any (fun e => e.val == 2)

/-- The poison bits of a message after double-bit errors in its data beats (R50). -/
def beatPoison (m : Msg) (errs : List (List (Fin 3))) : Msg :=
  let hit := (List.range m.beats.length).filter (fun b => beatBad errs (b + 1))
  m.w Hd.poison (hit.foldl setBitN (m.g Hd.poison))

/-- CULVERT_BEAT_ARRIVE: the beats of the next message of a culvert's sender arrive at die `d`, port `c`, with SECDED
checked on each group of a beat (R50). The message is one that the culvert's slots carry: ESC first, then the channels in
round-robin order, when its input buffer has room. -/
def doCulvertBeatArrive (d c : Nat) (errs : List (List (Fin 3))) (s : State) : State :=
  match s.neighbour d c with
  | none => s
  | some n =>
    if !(s.culvertUp d c && s.sluiceOpen d && s.sluiceOpen n) then s
    else
      let e := 8 + facing c
      match (4 :: (List.range 4).map (fun i => (SMap.get 0 s.xrr (xkey d (8 + c) 6) + i) % 4)).find? (fun v =>
          match SMap.get [] s.xout (xkey n e v) with | [] => false | x :: _ => s.fitsIn d (8 + c) x.msg) with
      | none => s
      | some v =>
        match s.takeOut n e v with
        | none => s
        | some (x, s) =>
          let s := if v == 4 then s else { s with xrr := SMap.set 0 s.xrr (xkey d (8 + c) 6) ((v + 1) % 4) }
          let errs := (errs.take x.msg.size).map (·.take 8)
          let s := s.count (Csr.cvEccCnt d c) CvEccCnt.corr (errCount 1 errs)
          let s := s.count (Csr.cvEccCnt d c) CvEccCnt.uncorr (errCount 2 errs)
          let s := if errCount 2 errs == 0 then s
            else s.noticeLim d 0x010A c [(1, d), (1, c), (1, v)]
          if beatBad errs 0 then s
          else s.injectX d (8 + c) { x with msg := beatPoison x.msg errs }

def execCulvertBeatArrive (d : Die) (c : Culv) (errs : List (List (Fin 3))) (s : State) : Ans :=
  .next (doCulvertBeatArrive d.val c.val errs s)

/-- Takes both sides of a culvert down: what waits toward the other die is discarded and answered (R51). -/
def State.culvertDown (s : State) (d c : Nat) : State :=
  match s.neighbour d c with
  | none => s
  | some n =>
    let s := (s.fset (Csr.cvSts d c) CvSts.trained 0).fset (Csr.cvSts n (facing c)) CvSts.trained 0
    let s := s.emptyEgress d (8 + c) (75 + c) [0, 1, 2, 3, 4]
    s.emptyEgress n (8 + facing c) (75 + facing c) [0, 1, 2, 3, 4]

/-- CULVERT_TRAINED: training of a culvert ends with `failTx` and `failRx` failed wires, seen from die `d`: up to 16 in
each direction are replaced by spares, more leave the culvert down (R48); each of its two ports reports it (DEDUCED, log
entry 68). -/
def doCulvertTrained (d c failTx failRx : Nat) (s : State) : State :=
  match s.neighbour d c with
  | none => s
  | some n =>
    let f := facing c
    if !(s.dieOn d && s.dieOn n && s.fbit (Csr.cvCtrl d c) CvCtrl.en && s.fbit (Csr.cvCtrl n f) CvCtrl.en) then s
    else
      let s := (s.fset (Csr.cvSts d c) CvSts.present 1).fset (Csr.cvSts n f) CvSts.present 1
      if 16 < failTx || 16 < failRx then
        ((s.culvertDown d c).noticeLim d 0x010B c [(1, d), (1, c)]).noticeLim n 0x010B f [(1, n), (1, f)]
      else
        let up (s : State) (d c tx rx : Nat) : State :=
          ((s.fset (Csr.cvSts d c) CvSts.trained 1).fset (Csr.cvSts d c) CvSts.spareTx tx).fset
            (Csr.cvSts d c) CvSts.spareRx rx
        let s := up (up s d c failTx failRx) n f failRx failTx
        if failTx + failRx == 0 then s
        else (s.noticeLim d 0x010C c [(1, d), (1, c), (1, failTx), (1, failRx)]).noticeLim n 0x010C f
          [(1, n), (1, f), (1, failRx), (1, failTx)]

def execCulvertTrained (d : Die) (c : Culv) (failTx failRx : Nat) (s : State) : Ans :=
  .next (doCulvertTrained d.val c.val failTx failRx s)

/-- CV_CTRL_WRITE: EN 0 takes the culvert down (R51); EN from 0 to 1 starts training, whose end is CULVERT_TRAINED. -/
def doCvCtrlWrite (d c : Nat) (v : Word) (s : State) : State :=
  let s := s.fset (Csr.cvCtrl d c) CvCtrl.en (CvCtrl.en.get v)
  if CvCtrl.en.bit v then s else s.culvertDown d c

def execCvCtrlWrite (d : Die) (c : Culv) (v : Word) (s : State) : Ans :=
  .next (if s.dieOn d.val then doCvCtrlWrite d.val c.val v s else s)

/-! ## Egress -/

/-- A request of an engine or of the directory whose response must come back to it. -/
def Msg.ownTag (m : Msg) : Bool := m.g Hd.needRsp == 1 && 8 ≤ m.g Hd.srcIdx && m.g Hd.srcIdx ≤ 72

/-- A tag that no outstanding request of a port holds, from a free starting point (03 R126). -/
def State.freeTag (s : State) (p start : Nat) : Nat :=
  let used := s.tags.filter (fun t => t.port == p)
  ((List.range (used.length + 1)).map (fun i => (start + i) % 2 ^ 14)).find? (fun t => !used.any (·.tag == t))
    |>.getD (start % 2 ^ 14)

/-- The egress shell of a port reports an accepted response to its home slice on ESC (02 R79). -/
def State.acceptFor (s : State) (p : Nat) (m : Msg) : State :=
  let a := (((escMsg .escAccept).w Hd.port p).w Hd.addr (m.g Hd.addr)).w Hd.srcDie (portDie p)
  s.inject (portDie p) (p % 8) (a.w Hd.srcIdx (p % 8)) (m.g Hd.srcDie) 11

/-- EGRESS_ACCEPT: the egress shell of a port accepts the next message of a channel for its link, in order, reports it to
the home slice (02 R79) and sends it; a request with a reserved buffer goes out under a tag of the shell's own, which the
spec leaves open (03 R126). -/
def doEgressAccept (p : Nat) (vc : Vc) (s : State) : State :=
  if !(s.portUp p && s.gwSluiceOpen p) then s
  else
    match s.takeOut (portDie p) (p % 8) (Vc.code vc) with
    | none => s
    | some (x, s) =>
      let m := x.msg
      let s := if m.g Hd.srcIdx == 72 && m.name.responds then s.acceptFor p m else s
      if Msg.ownTag m then
        let (n, s) := s.draw
        let tag := s.freeTag p (Config.freeWord n).toNat
        let s := { s with tags := s.tags ++
          [(⟨p, tag, m.g Hd.srcDie, m.g Hd.srcIdx, m.g Hd.xtag, m.g Hd.ptag⟩ : TagRec)] }
        s.emit (.link p (m.w Hd.ptag tag))
      else s.emit (.link p m)

def execEgressAccept (p : PortNo) (vc : Vc) (s : State) : Ans := .next (doEgressAccept p.val vc s)

end Sys2Proof.Machine
end

