-- ==== Sys2Proof/Machine/Directory.lean ====
section
/-! DEFINITION. The coherence directory (02): entries, transactions, snoops, race resolution and the port-down walk. -/

namespace Sys2Proof.Machine

/-! ## Entries (02 R67 to R69) -/

def De.tag : Fld := ⟨49, 15⟩
def De.state : Fld := ⟨46, 3⟩
def De.ms : Fld := ⟨38, 8⟩
def De.owner : Fld := ⟨32, 6⟩
def De.sharers : Fld := ⟨0, 32⟩

/-- An entry in the layout of Table 02-2. -/
def mkEntry (tag st ms owner sharers : Nat) : BitVec 64 :=
  De.sharers.put (De.owner.put (De.ms.put (De.state.put (De.tag.put (0 : BitVec 64) tag) st) ms) owner) sharers

def entKey (d set way : Nat) : Nat := (d * 16384 + set) * 16 + way

def State.entry (s : State) (d set way : Nat) : BitVec 64 := SMap.get 0 s.dirEnt (entKey d set way)

def State.setEntry (s : State) (d set way : Nat) (e : BitVec 64) : State :=
  { s with dirEnt := SMap.set 0 s.dirEnt (entKey d set way) e }

/-- The way that holds a line's entry (R65). -/
def State.wayOf (s : State) (d addr : Nat) : Option Nat :=
  let k := s.part.k
  (List.range 16).find? (fun w =>
    let e := s.entry d (lineSet k addr) w
    De.state.get e ≠ 0 && De.tag.get e == lineTag k addr)

/-- The lowest way in state INV of a set. -/
def State.freeWay (s : State) (d set : Nat) : Option Nat :=
  (List.range 16).find? (fun w => De.state.get (s.entry d set w) == 0)

/-- Coarse sharer mode: more than 32 ports enabled (R69). -/
def coarseMode (mask : Nat) : Bool := 32 < popCount 64 mask

/-- The SHARERS bit of an enabled port (R69). -/
def sharerBit (mask p : Nat) : Option Nat :=
  if !bitOf mask p then none else if coarseMode mask then some (p / 2) else some (popCount p mask)

/-- The SHARERS vector of one port, 0 for a port that is not recorded. -/
def sharerOf (mask p : Nat) : Nat := match sharerBit mask p with | some j => 2 ^ j | none => 0

/-- Whether a sharer vector covers a port: in coarse mode either port of a set pair (R69, R72). -/
def covers (mask v p : Nat) : Bool := match sharerBit mask p with | some j => bitOf v j | none => false

/-- The enabled ports a sharer vector names. -/
def sharerPorts (mask v : Nat) : List Nat := (bitsOf 64 mask).filter (covers mask v)

/-- The window-relative line address of a set and tag at a home die (R65): A[51:6]. -/
def lineFrom (k base d set tag : Nat) : Nat :=
  base / 2 ^ k * 2 ^ (29 + k) + tag * 2 ^ (14 + k) + set * 2 ^ k + (d ^^^ foldXor k 15 tag)

/-- Every CXL port with a non-zero group enters viral (R70); the originating port of the notice, `by_`, is a free value
there. -/
def State.viralAll (s : State) (by_ : Nat) : List Nat → State
  | [] => s
  | p :: ps =>
    State.viralAll (if s.portExists p && s.dieOn (portDie p) && cxlRole (s.portRole p) && s.portGroup p ≠ 0
      then s.viral p by_ else s) by_ ps

/-- The SECDED check of one way: a single-bit error is corrected and counted, an uncorrectable entry is written INV,
logged and reported (R70). -/
def State.eccWay (s : State) (d set w : Nat) : State :=
  let key := entKey d set w
  match SMap.get 0 s.dirBad key with
  | 0 => s
  | 1 => { s with dirBad := SMap.set 0 s.dirBad key 0 }.count (Csr.dirEccCnt d) DirEccCnt.corr 1
  | _ =>
    let s := { s with dirBad := SMap.set 0 s.dirBad key 0 }.setEntry d set w 0
    let log := Csr.dirEccLog d
    let s := if s.fbit log DirEccLog.valid then s
      else s.csrSet log (DirEccLog.valid.put (DirEccLog.way.put (DirEccLog.setF.put (0 : Word) set) w) 1)
    let s := s.count (Csr.dirEccCnt d) DirEccCnt.uncorr 1
    let s := s.noticeLim d 0x0201 0 [(1, d), (2, set), (1, w)]
    if s.fbit (Csr.dirCtrl d) DirCtrl.eccViral then
      let (b, s) := s.freeByte
      s.viralAll b s.allPorts
    else s

def State.eccSet (s : State) (d set : Nat) : State := (List.range 16).foldl (fun s w => s.eccWay d set w) s

/-! ## Transactions -/

def txnKey (d t : Nat) : Nat := d * 256 + t

def State.txn (s : State) (d t : Nat) : Option Txn := SMap.find s.dirTxn (txnKey d t)

def State.setTxn (s : State) (d t : Nat) (x : Txn) : State := { s with dirTxn := SMap.put s.dirTxn (txnKey d t) x }

def State.endTxn (s : State) (d t : Nat) : State := { s with dirTxn := SMap.erase s.dirTxn (txnKey d t) }

/-- The open transactions of a slice, with their slots. -/
def State.txns (s : State) (d : Nat) : List (Nat × Txn) :=
  (s.dirTxn.filter (fun e => e.1 / 256 == d)).map (fun e => (e.1 % 256, e.2))

/-- The open transaction on a line, its victim's line included (R76, R80). -/
def State.openOn (s : State) (d line : Nat) : Option (Nat × Txn) :=
  (s.txns d).find? (fun e => e.2.req.addr / 64 == line || e.2.victim == some line)

/-- A transaction slot that is not open (R75). -/
def State.freeSlot (s : State) (d : Nat) : Option Nat := (List.range 256).find? (fun t => (s.txn d t).isNone)

/-- The race key order: full stamp, die, source index (R86). -/
def earlier (a b : DirReq) : Bool :=
  a.stamp < b.stamp || (a.stamp == b.stamp && (a.sdie < b.sdie || (a.sdie == b.sdie && a.sidx < b.sidx)))

/-- A request of an engine, answered with a DKIND 4 reply. -/
def DirReq.fromEngine (r : DirReq) : Bool := 8 ≤ r.sidx

/-- The requester p: the PORT field (03 Table 03-5). -/
def DirReq.port (r : DirReq) : Nat := r.msg.g Hd.port

/-- "port or engine" of the directory notices: the port number, or the engine's number 0 to 63 within its die; the byte does
not tell the two apart (DESIGN CHOICE, log entry 103). -/
def DirReq.who (r : DirReq) : Nat := if r.fromEngine then r.sidx - 8 else r.port

/-- The name of the directory's response to a link: with or without data, in the requester's protocol. -/
def respName (m : Msg) (data : Bool) : PName :=
  match m.name.proto, data with
  | 1, true => .cacheData
  | 1, false => .cacheRsp
  | _, true => .memDrs
  | _, false => .memNdr

/-- The directory's response to a request (R75, R78, R81; 03 R132). -/
def dirReply (d : Nat) (r : DirReq) (data : Option (BitVec 512)) (pois : Bool) (entry : BitVec 64) (ms status : Nat) :
    Msg :=
  let m := { Msg.blank with beats := data.toList, name := if r.fromEngine then .internal else respName r.msg data.isSome }
  let m := (m.w Hd.vc (if data.isSome then 3 else 1)).w Hd.beats data.toList.length
  let m := (m.w Hd.poison (b2n (data.isSome && pois))).w Hd.proto (r.msg.g Hd.proto)
  let m := ((m.w Hd.port r.port).w Hd.srcDie d).w Hd.srcIdx 72
  let m := ((m.w Hd.xtag (r.msg.g Hd.xtag)).w Hd.ptag (r.msg.g Hd.ptag)).w Hd.rid (r.msg.g Hd.rid)
  let m := (m.w Hd.addr r.addr).w Hd.entry entry.toNat
  (m.w Hd.commitMs ms).w Hd.status status

/-- Sends the response: to the requesting port, recorded until its egress accepts it (R79), or to the engine. -/
def State.dirRespond (s : State) (d : Nat) (r : DirReq) (m : Msg) : State :=
  if r.fromEngine then
    s.injectReply d 11 (((m.w Hd.dkind 4).w Hd.destDie r.sdie).w Hd.destIdx r.sidx)
  else
    let s := if s.portIsDown d r.port then s else { s with dirAcc := s.dirAcc ++ [⟨d, r.port, r.addr / 64⟩] }
    s.sendToPort d 11 m r.port

/-- The expected data beats of a failed request, poisoned (03 R435). -/
def DirReq.failData (r : DirReq) : Option (BitVec 512) :=
  if r.fromEngine && r.msg.expected == 1 then some 0 else none

/-- The kind code a notice carries (`DKind.code`; log entry 103). -/
def DirReq.code (r : DirReq) : Nat := r.kind.code

/-! ### Memory (R74) -/

/-- A memory request of slice `d` for an address: read, or write of one beat. -/
def memMsg (d addr xtag : Nat) (data : Option (BitVec 512)) (pois : Bool) : Msg :=
  let m := { Msg.blank with beats := data.toList, name := if data.isSome then .memWr else .memRd }
  let m := ((m.w Hd.vc (if data.isSome then 3 else 0)).w Hd.beats data.toList.length).w Hd.poison (b2n (data.isSome && pois))
  let m := ((m.w Hd.proto 2).w Hd.needRsp 1).w Hd.srcDie d
  ((m.w Hd.srcIdx 72).w Hd.xtag xtag).w Hd.len 64 |>.w Hd.addr (addr / 64 * 64)

/-- Sends a memory request through the address table, or as an event of the die's memory task (R74); a miss answers it
with a DKIND 4 reply (01 R46). -/
def State.dirMem (s : State) (d : Nat) (m : Msg) : State :=
  if s.fbit (Csr.dirCtrl d) DirCtrl.memMode then
    let m := ((m.w Hd.dkind 1).w Hd.dest 0).w Hd.destDie d
    let m := (m.w Hd.destSlot (s.fget (Csr.dirMemEvt d) DirMemEvt.slot)).w Hd.destFlag (s.fget (Csr.dirMemEvt d) DirMemEvt.flag)
    s.inject d 11 m d 12
  else
    match s.routeTo d 2 (s.fget (Csr.dirCtrl d) DirCtrl.memBank) m with
    | some p => s.sendToPort d 11 m p
    | none => s.injectReply d 11 (m.replyTo d 72 St.notPresent)

/-- The tags of a slice: memory reads have bits 15 and 14 clear, snoops bit 14 set, memory writes the one tag of bit 15. -/
def writeTag : Nat := 32768

/-- The tags of a slice's reads and snoops whose responses are still to come. -/
def State.tagsOut (s : State) (d : Nat) : List Nat :=
  (s.txns d).flatMap (fun e => e.2.rtag :: (e.2.snoops.filter (·.issued)).map (·.tag)) ++
    (s.dirOrph.filter (fun o => o.die == d)).map (·.xtag)

/-- A tag from `base` on that no outstanding read or snoop of the slice holds. -/
def State.newTag (s : State) (d base : Nat) : Nat :=
  let out := s.tagsOut d
  ((List.range 16384).find? (fun i => !out.contains (base + i))).elim base (base + ·)

/-! ### Arrival (R86, R87) -/

/-- The request kind of an arriving directory request: an engine's by DEST, a link's by its message (R72). -/
def arrivalKind (m : Msg) : DKind :=
  if 8 ≤ m.g Hd.srcIdx then
    match m.g Hd.destKind with
    | 0 => .rds | 1 => .rdo | 2 => .rdc | 3 => .wri | 4 => .evc | 5 => .evd | _ => .none
  else dirKind m

/-- The responses of a transaction that are still to come (R87). -/
def Txn.orphans (d : Nat) (x : Txn) : List Orphan :=
  (x.snoops.filter (fun n => n.issued && !n.done)).map (fun n => (⟨d, n.tag, n.addr, some n.port⟩ : Orphan)) ++
    (if x.memWait && x.memData.isNone then [(⟨d, x.rtag, x.req.addr, none⟩ : Orphan)] else [])

/-- Replays the open transaction of a slot (R87): its snoops stay in effect, their outstanding responses are absorbed, DATA
already returned goes to memory, and the request as it was asked returns to the queue, before every other of its race key
(R88). What state the line's entry and a victim's return to the rule does not say: here the way takes its former entry, even
where the snoops have taken copies back (DESIGN CHOICE, log entry 104). -/
def State.replay (s : State) (d t : Nat) (x : Txn) : State :=
  let s := { s with dirOrph := s.dirOrph ++ x.orphans d }
  let s := match x.dirty with
    | some b => s.dirMem d (memMsg d x.req.addr writeTag (some b) x.dirtyPois)
    | none => s
  let s := if x.waitWay then s else s.setEntry d (lineSet s.part.k x.req.addr) x.way x.old
  let s := s.endTxn d t
  let s := { s with dirQ := SMap.set [] s.dirQ d (x.asked :: SMap.get [] s.dirQ d) }
  s.count (Csr.dirRaceCnt d) DirRaceCnt.replays 1

/-- Lateness of a stamp at arrival (R86): the reason and the amount in ns. -/
def lateness (m : Nat) (stamp : Int) (settle : Nat) : Option (Nat × Nat) :=
  if stamp + settle < m then some (0, ((m : Int) - (stamp + settle)).toNat)
  else if (m : Int) + 4 < stamp then some (1, (stamp - m).toNat)
  else none

/-- A request that is not tracked: outside the window, or at a slice that is not enabled (03 R132). -/
def State.untracked (s : State) (d addr : Nat) : Bool :=
  !(s.fbit (Csr.dirCtrl d) DirCtrl.en && inWindow s.part.k (s.fget (Csr.dirWin d) DirWin.base) addr)

/-- A request whose stamp is too old or too far ahead is taken at the settled time, counted and reported (R86). -/
def State.lateArrive (s : State) (d : Nat) (r : DirReq) : DirReq × State :=
  let ms := s.msOf d
  let settle := s.fget (Csr.dirCtrl d) DirCtrl.settle
  match lateness ms r.stamp settle with
  | none => (r, s)
  | some (why, by_) =>
    ({ r with stamp := (ms : Int) - settle },
     (s.count (Csr.dirRaceCnt d) DirRaceCnt.late 1).noticeLim d 0x0203 0
       [(1, d), (1, r.sdie), (1, r.sidx), (1, why), (4, min by_ 0xFFFFFFFF)])

/-- An open transaction on the line with a later key is replayed (R87). -/
def State.replayFor (s : State) (d : Nat) (r : DirReq) : State :=
  match s.openOn d (r.addr / 64) with
  | some (t, x) => if x.req.addr / 64 == r.addr / 64 && earlier r x.req then s.replay d t x else s
  | none => s

/-- A request joins the queue of its slice. -/
def State.queueReq (s : State) (d : Nat) (r : DirReq) : State :=
  { s with dirQ := SMap.set [] s.dirQ d (SMap.get [] s.dirQ d ++ [r]) }

/-- An accepted request: checked for lateness, an engine's untracked one answered (03 R132), the open transaction on its
line replayed when the arrival's key is earlier (R87), and queued. -/
def State.dirArrive (s : State) (d : Nat) (m : Msg) : State :=
  let r : DirReq :=
    { msg := m, kind := arrivalKind m, noData := m.name == .rdOwnNoData, addr := m.g Hd.addr,
      stamp := fullStamp (s.msOf d) (m.g Hd.ms24), sdie := m.g Hd.srcDie, sidx := m.g Hd.srcIdx }
  if r.fromEngine && s.untracked d r.addr then
    s.dirRespond d r (dirReply d r r.failData true 0 0 St.notPresent)
  else
    let a := s.lateArrive d r
    (a.2.replayFor d a.1).queueReq d a.1

/-- DIR_REQUEST_ARRIVE: the next directory request of a channel is accepted; on REQ only while a slot is free (R75). -/
def doDirRequestArrive (d : Nat) (vc : Vc) (s : State) : State :=
  if !s.sluiceOpen d || (vc == .req && (s.freeSlot d).isNone) then s
  else
    match SMap.get [] s.xout (xkey d 11 (Vc.code vc)) with
    | [] => s
    | x :: _ =>
      if x.msg.g Hd.dkind ≠ 3 then s
      else match s.takeOut d 11 (Vc.code vc) with
        | some (x, s) => s.dirArrive d x.msg
        | none => s

def execDirRequestArrive (d : Die) (vc : Vc) (s : State) : Ans := .next (doDirRequestArrive d.val vc s)

/-! ### Start (R72, R75, R80) -/

/-- The kind a request takes at the start, from the line's entry (R72). -/
def resolveKind (k : DKind) (holder owner : Bool) : DKind :=
  match k with
  | .memI => if holder then .evc else .rdc
  | .invI => if holder then .evc else .none
  | .wrI => if owner then .evd else .wri
  | k => k

/-- A request for a copy from a port that is not enabled as a sharer is handled as RDC (R69). -/
def demote (k : DKind) (enabled : Bool) : DKind :=
  if !enabled && (k == .rds || k == .rdo) then .rdc else k

/-- The pairs of state and request that Table 02-5 lists. -/
def pairListed (st : Nat) (k : DKind) (inV isOwner : Bool) : Bool :=
  match k with
  | .rds | .rdo | .rdc | .wri => st ≤ 3
  | .evc => (st == 1 && inV) || (st == 2 && isOwner)
  | .evd => st == 2 && isOwner
  | _ => false

/-- The snoops of Table 02-5. -/
def snoopsFor (mask st owner v : Nat) (k : DKind) (p addr : Nat) : List Snoop :=
  let sni (q : Nat) : Snoop := { port := q, tag := 0, inval := true, issued := false, done := false, addr := addr }
  let snd (q : Nat) : Snoop := { sni q with inval := false }
  match st, k with
  | 1, .rdo => ((sharerPorts mask v).filter (· ≠ p)).map sni
  | 1, .wri => (sharerPorts mask v).map sni
  | 2, .rds => if p == owner then [] else [snd owner]
  | 2, .rdo => if p == owner then [] else [sni owner]
  | 2, .rdc => [snd owner]
  | 2, .wri => [sni owner]
  | _, _ => []

/-- The request reads memory at its start (R74, R77). -/
def readsMem (k : DKind) (noData : Bool) : Bool :=
  match k with
  | .rds | .rdc => true
  | .rdo => !noData
  | _ => false

/-- A stray (R78): answered without data, counted and reported. -/
def State.stray (s : State) (d : Nat) (r : DirReq) (entry : BitVec 64) : State :=
  let ms := s.msOf d
  let s := s.dirRespond d r (dirReply d r r.failData true entry ms St.badArgument)
  let s := s.count (Csr.dirStrayCnt d) DirStrayCnt.stray 1
  s.noticeLim d 0x0204 0 [(1, d), (1, r.who), (1, r.code), (1, De.state.get entry)]

/-- The victim of a set: the first way in SHR or EXC at or after the pointer (R80). -/
def State.victimWay (s : State) (d set : Nat) : Option Nat :=
  firstFrom 16 (SMap.get 0 s.dirRr (d * 16384 + set)) (fun w =>
    let st := De.state.get (s.entry d set w)
    st == 1 || st == 2)

/-- Gives an open transaction a way of its set: an INV way, or a victim's way with the snoops of its ports (R80). None
when the set has neither. Which TAG a victim's way holds while it is BUSY the rule does not say: here the victim's, so that
the requester's line has no entry until the commit (DESIGN CHOICE, log entry 104). -/
def State.giveWay (s : State) (d t : Nat) (x : Txn) : Option State :=
  let k := s.part.k
  let set := lineSet k x.req.addr
  match s.freeWay d set with
  | some w =>
    let s := s.setEntry d set w (mkEntry (lineTag k x.req.addr) 4 0 0 0)
    some (s.setTxn d t { x with way := w, old := 0, waitWay := false })
  | none =>
    match s.victimWay d set with
    | none => none
    | some w =>
      let e := s.entry d set w
      let line := lineFrom k (s.fget (Csr.dirWin d) DirWin.base) d set (De.tag.get e)
      let mask := s.shareEn d
      let ports := if De.state.get e == 2 then [De.owner.get e] else sharerPorts mask (De.sharers.get e)
      let sn := ports.map (fun q => (⟨q, 0, true, false, false, line * 64⟩ : Snoop))
      let s := { s with dirRr := SMap.set 0 s.dirRr (d * 16384 + set) ((w + 1) % 16) }
      let s := s.setEntry d set w (De.sharers.put (De.owner.put (De.state.put e 4) 0) 0)
      some (s.setTxn d t { x with way := w, old := e, waitWay := false, victim := some line, snoops := sn })

/-! ### The port-down walk on one line (R82) -/

/-- One port of the walk applied to one entry: the entry, whether the port was removed, whether it was made LOST (R82). -/
def walkEntry (mask p : Nat) (e : BitVec 64) : BitVec 64 × Bool × Bool :=
  match De.state.get e with
  | 1 =>
    if coarseMode mask || !covers mask (De.sharers.get e) p then (e, false, false)
    else
      let v := De.sharers.get e &&& (2 ^ 32 - 1 - sharerOf mask p)
      (if v == 0 then 0 else De.sharers.put e v, true, false)
  | 2 => if De.owner.get e == p then (De.state.put e 3, false, true) else (e, false, false)
  | _ => (e, false, false)

/-- The walk's port applied to a way: counts in the port's record and DIR_LOST_CNT. -/
def State.walkWay (s : State) (d set w : Nat) (q : WalkPort) : State × WalkPort :=
  let (e, rem, lost) := walkEntry (s.shareEn d) q.port (s.entry d set w)
  let s := s.setEntry d set w e
  let s := if lost then s.count (Csr.dirLostCnt d) DirLostCnt.lost 1 else s
  (s, { q with removed := q.removed + b2n rem, lost := q.lost + b2n lost })

/-- Ends the passes that are complete: covered every set, no deferred line left (R82). -/
def State.endPasses (s : State) (d next : Nat) (todo done : List WalkPort) : State :=
  match todo with
  | [] =>
    if done.isEmpty then { s with dirWalk := SMap.erase s.dirWalk d }
    else { s with dirWalk := SMap.put s.dirWalk d { next := next, ports := done } }
  | q :: qs =>
    if q.left == 0 && q.deferred.isEmpty then
      let s := s.notice d 0x0202 [(1, d), (1, q.port), (4, q.removed), (4, q.lost)]
      let s := if s.portUp q.port then s.fsetBit (downReg d q.port) DirPortDownLo.down (q.port % 32) false else s
      s.endPasses d next qs done
    else s.endPasses d next qs (done ++ [q])

/-- Applies the walk to a deferred line of the listed ports after its commit, at the way that holds its entry (R82). -/
def State.walkDeferred (s : State) (d line set : Nat) (w : Option Nat) (todo done : List WalkPort) :
    State × List WalkPort :=
  match todo with
  | [] => (s, done)
  | q :: qs =>
    if q.deferred.contains line then
      let q := { q with deferred := q.deferred.filter (· ≠ line) }
      let (s, q) := match w with | some w => s.walkWay d set w q | none => (s, q)
      s.walkDeferred d line set w qs (done ++ [q])
    else s.walkDeferred d line set w qs (done ++ [q])

/-- The walk of a slice after a commit on a line (R82); likewise after a request on it that ended without one, while no
other transaction is open on the line, so that the pass can end (DESIGN CHOICE, log entry 104). -/
def State.walkCommit (s : State) (d line set : Nat) (w : Option Nat) : State :=
  match SMap.find s.dirWalk d with
  | none => s
  | some k =>
    let (s, ps) := s.walkDeferred d line set w k.ports []
    s.endPasses d k.next ps []

/-! ### The start of a transaction -/

/-- Starts a request in a free slot (R75). -/
def State.startTxn (s : State) (d t : Nat) (r : DirReq) : State :=
  let k := s.part.k
  let set := lineSet k r.addr
  let s := s.eccSet d set
  let way := s.wayOf d r.addr
  let e : BitVec 64 := match way with | some w => s.entry d set w | none => 0
  let st := De.state.get e
  let mask := s.shareEn d
  let p := r.port
  let inV := st == 1 && covers mask (De.sharers.get e) p
  let isO := st == 2 && De.owner.get e == p
  let asked := r
  let r := { r with kind := demote (resolveKind r.kind (inV || isO) isO) (bitOf mask p) }
  let r := { r with noData := r.noData && r.kind == .rdo }
  if !pairListed st r.kind inV isO then (s.stray d r e).walkCommit d (r.addr / 64) set way
  else
    let reads := readsMem r.kind r.noData
    let x : Txn :=
      { req := r, asked := asked, rtag := s.newTag d 0, way := way.getD 0, old := e, state := st, owner := De.owner.get e, sharers := De.sharers.get e,
        waitWay := way.isNone, victim := none,
        snoops := snoopsFor mask st (De.owner.get e) (De.sharers.get e) r.kind p r.addr, keep := false, dirty := none,
        dirtyPois := false, memWait := reads, memData := none, memPois := false, started := s.msOf d }
    let s := match way with
      | some w =>
        (s.setEntry d set w (De.sharers.put (De.owner.put (De.state.put e 4) 0) 0)).setTxn d t x
      | none =>
        match s.giveWay d t x with
        | some s => s
        | none => s.setTxn d t x
    if reads then s.dirMem d (memMsg d r.addr x.rtag none false) else s

/-- The queued request that starts next: the earliest race key among those whose line is not BUSY (R76). -/
def State.nextStart (s : State) (d : Nat) : Option DirReq :=
  ((SMap.get [] s.dirQ d).filter (fun r => (s.openOn d (r.addr / 64)).isNone)).foldl (fun o r =>
    match o with
    | none => some r
    | some b => if earlier r b then some r else some b) none

/-- A transaction that waits for a way and can have one now (R80). -/
def State.wayReady (s : State) (d : Nat) : Option (Nat × Txn) :=
  (s.txns d).find? (fun e =>
    e.2.waitWay &&
      ((s.freeWay d (lineSet s.part.k e.2.req.addr)).isSome || (s.victimWay d (lineSet s.part.k e.2.req.addr)).isSome))

/-- DIR_TXN_START: a transaction that waited for a way takes one, or the next queued request opens a slot. -/
def doDirTxnStart (d : Nat) (s : State) : State :=
  if !s.clockOn d then s
  else
    match s.wayReady d with
    | some (t, x) => (s.giveWay d t x).getD s
    | none =>
      match s.nextStart d, s.freeSlot d with
      | some r, some t =>
        let s := { s with dirQ := SMap.set [] s.dirQ d ((SMap.get [] s.dirQ d).erase r) }
        s.startTxn d t r
      | _, _ => s

def execDirTxnStart (d : Die) (s : State) : Ans := .next (doDirTxnStart d.val s)

/-! ### Snoops (R73, R79) -/

/-- Replaces the first snoop of a list that meets a test. -/
def replaceFirst (p : Snoop → Bool) (f : Snoop → Snoop) : List Snoop → List Snoop
  | [] => []
  | n :: ns => if p n then f n :: ns else n :: replaceFirst p f ns

/-- A snoop as a message to its port (R73, R83): MetaValue I marks SNI, S marks SND. A port that is neither a CXL.cache
device nor a CXL.mem host, such as a fabric port, gets the CXL.cache form: R73 names none for it (DESIGN CHOICE, log entry
103). -/
def State.snoopMsg (s : State) (d : Nat) (n : Snoop) : Msg :=
  let role := s.portRole n.port
  let host := role == 4 || role == 6
  let m := { Msg.blank with name := if host then .biSnp else .cacheSnp, metaV := if n.inval then .i else .s }
  let m := ((m.w Hd.vc 2).w Hd.proto (if host then 2 else 1)).w Hd.needRsp 1
  s.stamp d ((((m.w Hd.srcDie d).w Hd.srcIdx 72).w Hd.xtag n.tag).w Hd.addr (n.addr / 64 * 64))

/-- DIR_SNOOP_ISSUE: the waiting snoop of a transaction to a port is issued once the port's egress has accepted every
earlier response for the line; to a port that is down it is not sent and counts as answered (R79, R82). -/
def doDirSnoopIssue (d t p : Nat) (s : State) : State :=
  match s.txn d t with
  | none => s
  | some x =>
    if !s.clockOn d then s else
    match x.snoops.find? (fun n => n.port == p && !n.issued && !n.done) with
    | none => s
    | some n =>
      if s.portIsDown d p then
        s.setTxn d t { x with snoops := replaceFirst (· == n) (fun n => { n with done := true }) x.snoops }
      else if s.dirAcc.contains ⟨d, p, n.addr / 64⟩ then s
      else
        let m := { n with issued := true, tag := s.newTag d 16384 }
        let s := s.setTxn d t { x with snoops := replaceFirst (· == n) (fun _ => m) x.snoops }
        s.sendToPort d 11 (s.snoopMsg d m) p

def execDirSnoopIssue (d : Die) (t : Slot) (p : PortNo) (s : State) : Ans := .next (doDirSnoopIssue d.val t.val p.val s)

/-- A snoop that waits for the response with a tag. -/
def Snoop.waits (tag : Nat) (n : Snoop) : Bool := n.tag == tag && n.issued && !n.done

/-- A snoop response reaches its transaction: KEEP and DATA; a victim's DATA goes to memory at once (R73, R80). -/
def State.snoopAnswer (s : State) (d t : Nat) (x : Txn) (m : Msg) : State :=
  match x.snoops.find? (·.waits (m.g Hd.xtag)) with
  | none => s
  | some n =>
    let sn := replaceFirst (· == n) (fun n => { n with done := true }) x.snoops
    let data := if m.dirty then m.beats.head? else none
    let pois := bitOf (m.g Hd.poison) 0
    if x.victim == some (n.addr / 64) then
      let s := s.setTxn d t { x with snoops := sn }
      match data with
      | some b => s.dirMem d (memMsg d n.addr writeTag (some b) pois)
      | none => s
    else
      match data with
      | some b => s.setTxn d t { x with snoops := sn, keep := x.keep || m.keep, dirty := some b, dirtyPois := pois }
      | none => s.setTxn d t { x with snoops := sn, keep := x.keep || m.keep }

/-- Absorbs a response of a replayed or ended transaction: DATA of a snoop goes to memory, read data is dropped (R87). -/
def State.absorb (s : State) (d : Nat) (o : Orphan) (m : Msg) : State :=
  let s := { s with dirOrph := s.dirOrph.erase o }
  if o.port.isNone || !m.dirty then s
  else match m.beats.head? with
    | some b => s.dirMem d (memMsg d o.addr writeTag (some b) (bitOf (m.g Hd.poison) 0))
    | none => s

/-- The head of the directory's buffer on a channel, when it is a reply and its tag meets a test. -/
def State.dirReplyHead (s : State) (d v : Nat) (p : Nat → Bool) : Bool :=
  match SMap.get [] s.xout (xkey d 11 v) with
  | [] => false
  | x :: _ => x.msg.g Hd.dkind == 4 && p (x.msg.g Hd.xtag)

/-- DIR_SNOOP_RESPONSE: the next snoop response of a channel (R73). -/
def doDirSnoopResponse (d : Nat) (vc : Vc) (s : State) : State :=
  if !(s.sluiceOpen d && s.dirReplyHead d (Vc.code vc) (fun x => bitOf x 14)) then s
  else
    match s.takeOut d 11 (Vc.code vc) with
    | none => s
    | some (x, s) =>
      let tag := x.msg.g Hd.xtag
      match s.dirOrph.find? (fun o => o.die == d && o.xtag == tag) with
      | some o => s.absorb d o x.msg
      | none =>
        match (s.txns d).find? (fun y => y.2.snoops.any (·.waits tag)) with
        | some (t, y) => s.snoopAnswer d t y x.msg
        | none => s

def execDirSnoopResponse (d : Die) (vc : Vc) (s : State) : Ans := .next (doDirSnoopResponse d.val vc s)

/-- DIR_MEMORY_DATA: the next memory response: read data for the open transaction (R74), data of a replayed one, which is
discarded (R87), or a write's completion. -/
def doDirMemoryData (d : Nat) (s : State) : State :=
  let isMem (x : Nat) : Bool := !bitOf x 14
  if !s.sluiceOpen d then s
  else
    match [3, 1].find? (fun v => s.dirReplyHead d v isMem) with
    | none => s
    | some v =>
      match s.takeOut d 11 v with
      | none => s
      | some (x, s) =>
        let tag := x.msg.g Hd.xtag
        match s.dirOrph.find? (fun o => o.die == d && o.xtag == tag) with
        | some o => s.absorb d o x.msg
        | none =>
          if bitOf tag 15 then s
          else match (s.txns d).find? (fun y => y.2.rtag == tag && y.2.memWait && y.2.memData.isNone) with
            | some (t, y) =>
              s.setTxn d t
                { y with memData := some (x.msg.beats.headD 0),
                         memPois := x.msg.beats.isEmpty || bitOf (x.msg.g Hd.poison) 0 }
            | none => s

def execDirMemoryData (d : Die) (s : State) : Ans := .next (doDirMemoryData d.val s)

/-! ### Commit (R75, R77, R82) -/

/-- State, OWNER and SHARERS after the commit (Table 02-5). -/
def nextEntry (mask st owner v : Nat) (k : DKind) (p : Nat) (keep : Bool) : Nat × Nat × Nat :=
  let shr (x : Nat) : Nat × Nat × Nat := if x == 0 then (0, 0, 0) else (1, 0, x)
  match st, k with
  | 0, .rds => shr (sharerOf mask p)
  | 0, .rdo => (2, p, 0)
  | 1, .rds => shr (v ||| sharerOf mask p)
  | 1, .rdo => (2, p, 0)
  | 1, .rdc => (1, 0, v)
  | 1, .evc => if coarseMode mask then (1, 0, v) else shr (v &&& (2 ^ 32 - 1 - sharerOf mask p))
  | 2, .rds => if p == owner then (2, owner, 0)
    else shr (sharerOf mask p ||| (if keep then sharerOf mask owner else 0))
  | 2, .rdo => (2, p, 0)
  | 2, .rdc => if keep then shr (sharerOf mask owner) else (0, 0, 0)
  | 3, .rds | 3, .rdo | 3, .rdc => (3, owner, 0)
  | _, _ => (0, 0, 0)

/-- The data that the commit writes to memory (Table 02-5). -/
def Txn.memWrite (x : Txn) : Option (BitVec 512 × Bool) :=
  match x.state, x.req.kind with
  | _, .wri | 2, .evd => x.req.msg.beats.head?.map (·, bitOf (x.req.msg.g Hd.poison) 0)
  | 2, .rds | 2, .rdo | 2, .rdc => x.dirty.map (·, x.dirtyPois)
  | _, _ => none

/-- Every condition of R75 for the commit holds; a snoop's DATA is what the response needs where Table 02-5 says "snoop or
memory", in state EXC. -/
def State.mayCommit (s : State) (d : Nat) (x : Txn) : Bool :=
  s.clockOn d && !x.waitWay && x.snoops.all (fun n => n.done || s.portIsDown d n.port) &&
  (!x.memWait || x.memData.isSome || (x.state == 2 && x.dirty.isSome)) &&
  decide (x.req.stamp + s.fget (Csr.dirCtrl d) DirCtrl.settle ≤ (s.msOf d : Int)) && x.started + 6 ≤ s.msOf d

/-- Commits an open transaction. -/
def State.commit (s : State) (d t : Nat) (x : Txn) : State :=
  let k := s.part.k
  let set := lineSet k x.req.addr
  let ms := s.msOf d
  let (st, o, v) := nextEntry (s.shareEn d) x.state x.owner x.sharers x.req.kind x.req.port x.keep
  let e := if st == 0 then 0 else mkEntry (lineTag k x.req.addr) st ms o v
  let s := s.setEntry d set x.way e
  let needs := readsMem x.req.kind x.req.noData
  let data := if !needs then none
    else some (if x.state == 2 then x.dirty.getD (x.memData.getD 0) else x.memData.getD 0)
  let pois := x.state == 3 || (if x.state == 2 && x.dirty.isSome then x.dirtyPois else x.memPois)
  let s := s.dirRespond d x.req (dirReply d x.req data pois e ms St.ok)
  let s := match x.memWrite with
    | some (b, q) => s.dirMem d (memMsg d x.req.addr writeTag (some b) q)
    | none => s
  let s := { s with dirOrph := s.dirOrph ++ x.orphans d }
  (s.endTxn d t).walkCommit d (x.req.addr / 64) set (some x.way)

/-- DIR_COMMIT: the transaction of a slot commits when R75 allows it. -/
def doDirCommit (d t : Nat) (s : State) : State :=
  match s.txn d t with
  | none => s
  | some x => if s.mayCommit d x then s.commit d t x else s

def execDirCommit (d : Die) (t : Slot) (s : State) : Ans := .next (doDirCommit d.val t.val s)

/-- SET_WAIT_TIMEOUT: a request that has waited 2,000 DIR cycles for a way ends without an entry (R81). The COMMIT_MS of an
engine's reply, which the rule does not give, is the home milestone (DESIGN CHOICE, log entry 104). -/
def doSetWaitTimeout (d t : Nat) (s : State) : State :=
  match s.txn d t with
  | none => s
  | some x =>
    let set := lineSet s.part.k x.req.addr
    if !(s.clockOn d && x.waitWay && x.started + 2000 ≤ s.msOf d && (s.freeWay d set).isNone && (s.victimWay d set).isNone) then s
    else
      let s := { s with dirOrph := s.dirOrph ++ x.orphans d }
      let s := (s.endTxn d t).walkCommit d (x.req.addr / 64) set none
      let s := if x.req.fromEngine then
          s.dirRespond d x.req (dirReply d x.req x.req.failData true 0 (s.msOf d) St.timeout)
        else s.emit (.linkError x.req.port x.req.msg)
      let s := s.count (Csr.dirSetCnt d) DirSetCnt.exhausted 1
      s.noticeLim d 0x0208 0 [(1, d), (2, set), (1, x.req.who), (1, x.req.code)]

def execSetWaitTimeout (d : Die) (t : Slot) (s : State) : Ans := .next (doSetWaitTimeout d.val t.val s)

/-! ### The port-down walk (R82) -/

/-- Marks the snoops of a transaction to a port that went down as answered. -/
def Txn.portGone (p : Nat) (x : Txn) : Txn :=
  { x with snoops := x.snoops.map (fun n => if n.port == p then { n with done := true } else n) }

/-- The port that the next port-down message in the directory's ESC buffer names. -/
def State.downHead (s : State) (d : Nat) : Option Nat :=
  (SMap.get [] s.xout (xkey d 11 4)).head?.bind (fun x =>
    if x.msg.name == .escDown then some (x.msg.g Hd.port) else none)

/-- DIR_PORT_DOWN: a port-down message on ESC arrives at the slice (R82). A new walk starts at set 0, which the rule leaves
open, and a walk leaves the MS of the entries that it alters, which R67 gives to commits (DESIGN CHOICE, log entry 104). -/
def doDirPortDown (d p : Nat) (s : State) : State :=
  if !(s.sluiceOpen d && s.downHead d == some p) then s
  else
    let s := match s.takeOut d 11 4 with | some (_, s) => s | none => s
    let s := s.fsetBit (downReg d p) DirPortDownLo.down (p % 32) true
    let s := { s with
      dirTxn := s.dirTxn.map (fun (e : Nat × Txn) => if e.1 / 256 == d then (e.1, e.2.portGone p) else e)
      dirOrph := s.dirOrph.filter (fun o => !(o.die == d && o.port == some p))
      dirAcc := s.dirAcc.filter (fun a => !(a.die == d && a.port == p)) }
    let w := (SMap.find s.dirWalk d).getD { next := 0, ports := [] }
    if w.ports.any (·.port == p) then s
    else
      let q : WalkPort := { port := p, left := 16384, deferred := [], removed := 0, lost := 0 }
      { s with dirWalk := SMap.put s.dirWalk d { w with ports := w.ports ++ [q] } }

def execDirPortDown (d : Die) (p : PortNo) (s : State) : Ans := .next (doDirPortDown d.val p.val s)

/-- One way of the set for every port still to cover it (R82); `walkEntry` leaves a BUSY entry as it is. -/
def State.walkOne (s : State) (d set w : Nat) (todo done : List WalkPort) : State × List WalkPort :=
  match todo with
  | [] => (s, done)
  | q :: qs =>
    if q.left == 0 then s.walkOne d set w qs (done ++ [q])
    else
      let (s, q) := s.walkWay d set w q
      s.walkOne d set w qs (done ++ [q])

/-- The lines of a set on which a transaction is open: the requests', whether they hold a way or wait for one. A victim's
line is none of them: no commit on it follows, and its entry goes (R80). -/
def State.openLines (s : State) (d set : Nat) : List Nat :=
  ((s.txns d).filter (fun e => lineSet s.part.k e.2.req.addr == set)).map (fun e => e.2.req.addr / 64)

/-- Defers lines of a port (R82). -/
def WalkPort.defer (q : WalkPort) (lines : List Nat) : WalkPort :=
  if q.left == 0 then q else { q with deferred := q.deferred ++ lines.filter (fun l => !q.deferred.contains l) }

/-- DIR_WALK_SET: the walk covers the next set; lines with an open transaction are deferred to their next commit (R82). -/
def doDirWalkSet (d : Nat) (s : State) : State :=
  if !s.clockOn d then s
  else
    match SMap.find s.dirWalk d with
    | none => s
    | some k =>
      let s := s.eccSet d k.next
      let (s, ps) := (List.range 16).foldl (fun (a : State × List WalkPort) w => a.1.walkOne d k.next w a.2 [])
        (s, k.ports.map (·.defer (s.openLines d k.next)))
      s.endPasses d ((k.next + 1) % 16384) (ps.map (fun q => { q with left := q.left - 1 })) []

def execDirWalkSet (d : Die) (s : State) : Ans := .next (doDirWalkSet d.val s)

/-! ### Views and resets -/

/-- DIR_STS as a read shows it. -/
def State.dirStsView (s : State) (d : Nat) : Word :=
  DirSts.ttUsed.put (DirSts.walk.put (DirSts.coarse.put (0 : Word) (b2n (coarseMode (s.shareEn d))))
    (b2n (SMap.find s.dirWalk d).isSome)) (s.txns d).length

/-- DIE reset of a die, or its wake: every entry INV, SLICE_CLEARED when any was not (R71); open transactions, the queue
and the walk end. -/
def State.clearSlice (s : State) (d : Nat) : State :=
  let mine (key : Nat) : Bool := key / (16384 * 16) == d
  let lost := (s.dirEnt.filter (fun e => mine e.1 && De.state.get e.2 ≠ 0)).length
  let s := { s with
    dirEnt := SMap.drop mine s.dirEnt, dirBad := SMap.drop mine s.dirBad
    dirRr := SMap.drop (· / 16384 == d) s.dirRr
    dirQ := SMap.erase s.dirQ d
    dirTxn := SMap.drop (· / 256 == d) s.dirTxn
    dirAcc := s.dirAcc.filter (·.die ≠ d)
    dirOrph := s.dirOrph.filter (·.die ≠ d)
    dirWalk := SMap.erase s.dirWalk d }
  if lost == 0 then s else s.noticeLim d 0x0206 0 [(1, d), (4, lost)]

end Sys2Proof.Machine
end

