-- ==== Sys2Proof/Machine/Tasks.lean ====
section
/-! DEFINITION. Task slots (04): events and the inbox, readiness, the changes of a slot, completion and requeue. -/

namespace Sys2Proof.Machine

/-! ## Slots -/

def taskKey (d n : Nat) : Nat := d * 1024 + n

def State.taskX (s : State) (d n : Nat) : TaskX := SMap.get TaskX.reset s.tasks (taskKey d n)

def State.setTaskX (s : State) (d n : Nat) (x : TaskX) : State :=
  { s with tasks := SMap.set TaskX.reset s.tasks (taskKey d n) x }

/-- V of a slot. -/
def State.taskValid (s : State) (d n : Nat) : Bool := s.fbit (Csr.taskW0 d n) TaskW0.v

/-- STATE codes (R154). -/
def TSt.idle : Nat := 0
def TSt.ready : Nat := 1
def TSt.running : Nat := 2
def TSt.unservable : Nat := 3

def State.taskState (s : State) (d n : Nat) : Nat := s.fget (Csr.taskW3 d n) TaskW3.state

def State.setTaskState (s : State) (d n v : Nat) : State := s.fset (Csr.taskW3 d n) TaskW3.state v

def State.taskFlags (s : State) (d n : Nat) : Nat := s.fget (Csr.taskW2 d n) TaskW2.flags

def State.setTaskFlags (s : State) (d n v : Nat) : State := s.fset (Csr.taskW2 d n) TaskW2.flags v

/-- ORs bits into FLAGS. -/
def State.orFlags (s : State) (d n v : Nat) : State := s.setTaskFlags d n (s.taskFlags d n ||| v)

/-- The readiness condition (R158). -/
def readyCond (all : Bool) (flags mask : Nat) : Bool :=
  if all then mask ≠ 0 && (flags &&& mask) == mask else (flags &&& mask) ≠ 0

def State.taskReady (s : State) (d n : Nat) : Bool :=
  readyCond (s.fbit (Csr.taskW0 d n) TaskW0.mode) (s.taskFlags d n) (s.fget (Csr.taskW1 d n) TaskW1.mask)

/-- Evaluates readiness (R158, R161): an IDLE task that is ready takes a place in its list with the next age stamp; a
READY task that is not ready any more leaves the list and keeps no stamp. -/
def State.evalReady (s : State) (d n : Nat) : State :=
  if !s.taskValid d n then s
  else if s.taskState d n == TSt.idle && s.taskReady d n then
    let c := SMap.get 0 s.ageCtr d
    let s := { s with ageCtr := SMap.set 0 s.ageCtr d ((c + 1) % 2 ^ 32) }
    (s.setTaskX d n { s.taskX d n with stamp := c, onceAt := none }).setTaskState d n TSt.ready
  else if s.taskState d n == TSt.ready && !s.taskReady d n then
    (s.setTaskX d n { s.taskX d n with stamp := 0, onceAt := none }).setTaskState d n TSt.idle
  else s

/-! ## Messages of a slot -/

/-- A message sent by an engine. -/
def InMsg.byEngine (x : InMsg) : Bool := 8 ≤ x.msg.g Hd.srcIdx && x.msg.g Hd.srcIdx ≤ 71

/-- The credit of a message of the scheduler's buffer returns (R156). -/
def State.schedCredit (s : State) (d : Nat) (m : Msg) : State :=
  s.count (Csr.xbCredit d 12 (m.g Hd.vc)) XbCredit.avail m.size

/-- A link request without a slot is answered as 01 R46 states; any other message is discarded. -/
def State.linkOrDrop (s : State) (m : Msg) : State :=
  if m.g Hd.srcIdx < 8 && m.name.answered then s.emit (.linkError (m.g Hd.port) m) else s

/-- A configuration request of a link. -/
def InMsg.isCfg (x : InMsg) : Bool :=
  x.msg.g Hd.srcIdx < 8 && (x.msg.name == .cfgRead || x.msg.name == .cfgWrite)

/-- A message for an invalid slot (R157); a configuration request completes successfully in place of R157, and is not
counted (01 R28; DEDUCED, log entry 69). -/
def State.noTask (s : State) (d : Nat) (x : InMsg) : State :=
  if x.isCfg then
    (s.schedCredit d x.msg).inject d 12 (x.msg.cfgDone d) (portDie (x.msg.g Hd.port)) (x.msg.g Hd.port % 8)
  else
  let s := (s.schedCredit d x.msg).count (Csr.schCnt d) SchCnt.noTask 1
  if x.byEngine then s.injectReply d 12 (x.msg.returned d St.notPresent) else s.linkOrDrop x.msg

/-- A message or fence completion with a stale epoch (R165): returned to the sending engine, a fence discarded. -/
def State.misroute (s : State) (d n : Nat) (x : InMsg) : State :=
  let s := (s.schedCredit d x.msg).count (Csr.schCnt d) SchCnt.misrouted 1
  let s := if x.fence then s else s.injectReply d 12 (x.msg.returned d St.misrouted)
  s.noticeLim d 0x0302 0 [(1, d), (2, n), (1, x.msg.g Hd.srcDie), (1, x.msg.g Hd.srcIdx)]

/-- A message of an UNSERVABLE task (R166). -/
def State.unserved (s : State) (d n : Nat) (x : InMsg) : State :=
  if x.byEngine then s.misroute d n x
  else ((s.schedCredit d x.msg).count (Csr.schCnt d) SchCnt.misrouted 1).linkOrDrop x.msg

def State.unservedAll (s : State) (d n : Nat) : List InMsg → State
  | [] => s
  | x :: xs => (s.unserved d n x).unservedAll d n xs

def State.noTaskAll (s : State) (d : Nat) : List InMsg → State
  | [] => s
  | x :: xs => (s.noTask d x).noTaskAll d xs

def State.misrouteAll (s : State) (d n : Nat) : List InMsg → State
  | [] => s
  | x :: xs => (s.misroute d n x).misrouteAll d n xs

/-- Takes every message out of the inbox. -/
def State.takeInbox (s : State) (d n : Nat) : List InMsg × State :=
  let x := s.taskX d n
  (x.inbox, s.setTaskX d n { x with inbox := [] })

/-! ## Eligible engines (R153, R166) -/

def State.engEpoch (s : State) (d e : Nat) : Nat := s.fget (Csr.engCtrl d e) EngCtrl.epoch

/-- An engine of the eligible set. -/
def State.eligible (s : State) (d n e : Nat) : Bool :=
  bitOf (s.fget (Csr.taskW0 d n) TaskW0.clmask) (e / 8) &&
  s.engEpoch d e == s.fget (Csr.taskW3 d n) TaskW3.epoch

/-- Some engine matches the task, parked or not. -/
def State.servable (s : State) (d n : Nat) : Bool := (List.range 64).any (s.eligible d n)

/-- Enters or ends UNSERVABLE (R166); a RUNNING task is looked at when its handler ends. -/
def State.evalServable (s : State) (d n : Nat) : State :=
  if !s.taskValid d n || s.taskState d n == TSt.running then s
  else if s.servable d n then
    if s.taskState d n == TSt.unservable then (s.setTaskState d n TSt.idle).evalReady d n else s
  else if s.taskState d n == TSt.unservable then s
  else
    let (inbox, s) := s.takeInbox d n
    let s := (s.setTaskX d n { s.taskX d n with stamp := 0, onceAt := none }).setTaskState d n TSt.unservable
    let s := s.unservedAll d n inbox
    s.noticeLim d 0x0306 0 [(1, d), (2, n), (1, s.fget (Csr.taskW3 d n) TaskW3.epoch),
      (1, s.fget (Csr.taskW0 d n) TaskW0.clmask)]

/-- Enters or ends UNSERVABLE for every task of a die. -/
def State.evalServableAll (s : State) (d : Nat) : State :=
  (List.range 1024).foldl (fun s n => s.evalServable d n) s

/-! ## Completion and requeue (R160) -/

/-- The flags of the queued messages. -/
def inboxFlags (l : List InMsg) : Nat := l.foldl (fun f x => f ||| 2 ^ x.flag) 0

/-- The slot is empty again after V went to 0 (R169). -/
def State.emptySlot (s : State) (d n : Nat) : State :=
  let (inbox, s) := s.takeInbox d n
  let s := (s.setTaskFlags d n 0).setTaskState d n TSt.idle
  (s.setTaskX d n { s.taskX d n with pendInv := false, stamp := 0, onceAt := none }).noTaskAll d inbox

/-- The handler of a task has completed (R160; 02 R96; R145): level 0, flags of queued messages set again, IDLE,
readiness evaluated; affinity begins (R164). -/
def State.taskComplete (s : State) (d n : Nat) : State :=
  let s := s.fset (Csr.taskW0 d n) TaskW0.esc 0
  if (s.taskX d n).pendInv || !s.taskValid d n then s.emptySlot d n
  else
    let x := s.taskX d n
    let s := (s.orFlags d n (inboxFlags x.inbox)).setTaskState d n TSt.idle
    let s := s.setTaskX d n { x with affinity := true, onceAt := none, stamp := 0 }
    (s.evalReady d n).evalServable d n

/-- An aborted task is requeued (R160; 03 R144): the dispatch's flags set again, its message at the head of the inbox,
READY at priority `eprio` with the age stamp of the aborted dispatch, at level `esc`; its readiness is then evaluated with
MASK and MODE as they stand (R162 step 2). -/
def State.requeue (s : State) (d n v1 : Nat) (inMsg : Option InMsg) (esc eprio : Nat) : State :=
  let x := s.taskX d n
  let s := s.setTaskX d n { x with inbox := inMsg.toList ++ x.inbox, affinity := false }
  if x.pendInv || !s.taskValid d n then (s.fset (Csr.taskW0 d n) TaskW0.esc 0).emptySlot d n
  else
    let s := (s.orFlags d n v1).fset (Csr.taskW0 d n) TaskW0.esc esc
    let prio := s.fget (Csr.taskW0 d n) TaskW0.prio
    let s := s.setTaskX d n { s.taskX d n with onceAt := if eprio < prio then some eprio else none }
    ((s.setTaskState d n TSt.ready).evalReady d n).evalServable d n

/-! ## Commands -/

/-- SCHEDULER_EVENT: the next message of a channel arrives for its slot (R155 to R157, R165, R166). -/
def doSchedulerEvent (d : Nat) (vc : Vc) (s : State) : State :=
  if !s.sluiceOpen d then s
  else
    let k := xkey d 12 (Vc.code vc)
    match SMap.get [] s.xout k with
    | [] => s
    | y :: rest =>
      let s := { s with xout := SMap.set [] s.xout k rest }
      let m := y.msg
      if m.g Hd.dkind ≠ 1 then s.schedCredit d m
      else
        let n := m.g Hd.destSlot
        let eng := 8 ≤ m.g Hd.srcIdx && m.g Hd.srcIdx ≤ 71
        let x : InMsg :=
          { msg := m, flag := m.g Hd.destFlag, epoch := if eng then some (m.g Hd.epoch) else none,
            fence := eng && m.g Hd.vc == 1 && m.g Hd.stamped == 1 }
        if !s.taskValid d n then s.noTask d x
        else if x.epoch.any (· ≠ s.fget (Csr.taskW3 d n) TaskW3.epoch) then s.misroute d n x
        else if s.taskState d n == TSt.unservable then s.unserved d n x
        else
          let t := s.taskX d n
          ((s.setTaskX d n { t with inbox := t.inbox ++ [x] }).orFlags d n (2 ^ x.flag)).evalReady d n

def execSchedulerEvent (d : Die) (vc : Vc) (s : State) : Ans := .next (doSchedulerEvent d.val vc s)

/-- TASK_FLAGS_WRITE: sets the flags written as 1; discarded for an invalid slot (R155, R157). -/
def doTaskFlagsWrite (d n : Nat) (v : Word) (s : State) : State :=
  if !(s.dieOn d && s.taskValid d n) then s else (s.orFlags d n v.toNat).evalReady d n

def execTaskFlagsWrite (d : Die) (n : TaskNo) (v : Word) (s : State) : Ans := .next (doTaskFlagsWrite d.val n.val v s)

/-- TASK_PRIO_WRITE: the new priority (R168); a READY task moves to that list with its stamp, and a RUNNING task keeps the
one it was dispatched at. -/
def doTaskPrioWrite (d n p : Nat) (s : State) : State :=
  if !s.dieOn d then s
  else
    let s := s.fset (Csr.taskW0 d n) TaskW0.prio p
    if s.taskState d n == TSt.ready then s.setTaskX d n { s.taskX d n with onceAt := none } else s

def execTaskPrioWrite (d : Die) (n : TaskNo) (prio : Fin 8) (s : State) : Ans :=
  .next (doTaskPrioWrite d.val n.val prio.val s)

/-- TASK_READINESS_WRITE: MASK, MODE or both; readiness is evaluated again (R169). -/
def doTaskReadinessWrite (d n : Nat) (mask : Option Word) (mode : Option Bool) (s : State) : State :=
  if !s.dieOn d then s
  else
    let s := match mask with | some m => s.csrSet (Csr.taskW1 d n) m | none => s
    let s := match mode with | some b => s.fset (Csr.taskW0 d n) TaskW0.mode (b2n b) | none => s
    s.evalReady d n

def execTaskReadinessWrite (d : Die) (n : TaskNo) (mask : Option Word) (mode : Option Bool) (s : State) : Ans :=
  .next (doTaskReadinessWrite d.val n.val mask mode s)

/-- TASK_CLMASK_WRITE: the eligible clusters (R169). -/
def doTaskClmaskWrite (d n : Nat) (m : BitVec 8) (s : State) : State :=
  if !s.dieOn d then s else (s.fset (Csr.taskW0 d n) TaskW0.clmask m.toNat).evalServable d n

def execTaskClmaskWrite (d : Die) (n : TaskNo) (m : BitVec 8) (s : State) : Ans :=
  .next (doTaskClmaskWrite d.val n.val m s)

/-- TASK_INVALIDATE: V from 1 to 0; for a RUNNING task the slot is emptied at its completion (R169). -/
def doTaskInvalidate (d n : Nat) (s : State) : State :=
  if !(s.dieOn d && s.taskValid d n) then s
  else
    let s := s.fset (Csr.taskW0 d n) TaskW0.v 0
    if s.taskState d n == TSt.running then s.setTaskX d n { s.taskX d n with pendInv := true }
    else s.emptySlot d n

def execTaskInvalidate (d : Die) (n : TaskNo) (s : State) : Ans := .next (doTaskInvalidate d.val n.val s)

/-- TASK_VALIDATE: V from 0 to 1: IDLE with ESC 0 (R169). -/
def doTaskValidate (d n : Nat) (s : State) : State :=
  if !s.dieOn d || s.taskValid d n then s
  else
    let s := (s.fset (Csr.taskW0 d n) TaskW0.v 1).fset (Csr.taskW0 d n) TaskW0.esc 0
    if s.taskState d n == TSt.running then s
    else ((s.setTaskState d n TSt.idle).evalServable d n).evalReady d n

def execTaskValidate (d : Die) (n : TaskNo) (s : State) : Ans := .next (doTaskValidate d.val n.val s)

/-- TASK_EPOCH_WRITE: queued messages with another epoch are returned or discarded (R167); the task may become
UNSERVABLE or end it (R166). -/
def doTaskEpochWrite (d n epoch : Nat) (s : State) : State :=
  if !s.dieOn d then s
  else
    let s := s.fset (Csr.taskW3 d n) TaskW3.epoch epoch
    let x := s.taskX d n
    let stale (m : InMsg) : Bool := m.epoch.any (· ≠ epoch)
    let s := s.setTaskX d n { x with inbox := x.inbox.filter (fun m => !stale m) }
    (s.misrouteAll d n (x.inbox.filter stale)).evalServable d n

def execTaskEpochWrite (d : Die) (n : TaskNo) (epoch : Fin 64) (s : State) : Ans :=
  .next (doTaskEpochWrite d.val n.val epoch.val s)

/-- AFFINITY_EXPIRE: affinity ends; LAST stays (R164). -/
def doAffinityExpire (d n : Nat) (s : State) : State :=
  if !s.dieOn d then s else s.setTaskX d n { s.taskX d n with affinity := false }

def execAffinityExpire (d : Die) (n : TaskNo) (s : State) : Ans := .next (doAffinityExpire d.val n.val s)

/-- Every slot of a die as after its reset: FLAGS and inboxes empty (R178), the registers cleared by their own rows. -/
def State.clearTasks (s : State) (d : Nat) : State :=
  { s with tasks := SMap.drop (· / 1024 == d) s.tasks, ageCtr := SMap.erase s.ageCtr d, sched := SMap.erase s.sched d }

end Sys2Proof.Machine
end

