-- ==== Sys2Proof/Machine/Operands.lean ====
section
/-! DEFINITION. Operand forms of the engine instructions (03 R100 to R102, R119, R120): the fields of an instruction word,
the register codes and pairs, the flit windows, and the engine address map (R113, R114). -/

namespace Sys2Proof.Machine

/-! ## Fields (Table 03-6) -/

def Ins.op (w : Word) : Nat := w.toNat / 2 ^ 26
def Ins.rd (w : Word) : Nat := w.toNat / 2 ^ 21 % 32
def Ins.rs1 (w : Word) : Nat := w.toNat / 2 ^ 16 % 32
def Ins.rs2 (w : Word) : Nat := w.toNat / 2 ^ 11 % 32
def Ins.fn (w : Word) : Nat := w.toNat % 2 ^ 11
def Ins.imm (w : Word) : Nat := w.toNat % 2 ^ 16
def Ins.simm (w : Word) : Int := signedOf 16 (Ins.imm w)
def Ins.sz (w : Word) : Nat := w.toNat / 2 ^ 14 % 4
def Ins.off (w : Word) : Nat := w.toNat % 2 ^ 14
def Ins.n (w : Word) : Nat := w.toNat / 2 ^ 23 % 8
def Ins.target (w : Word) : Nat := w.toNat % 2 ^ 12
/-- Bits [25:0]. -/
def Ins.low26 (w : Word) : Nat := w.toNat % 2 ^ 26

/-- A register code that exists (Table 03-1). -/
def regOk (c : Nat) : Bool := c < 24

/-- A pair code (R101). -/
def pairOk (c : Nat) : Bool := c % 2 == 0 && (c ≤ 14 || (18 ≤ c && c ≤ 22))

/-! ## Engines, registers and pairs -/

def engKey (d e : Nat) : Nat := d * 64 + e

def State.eng (s : State) (d e : Nat) : Engine := SMap.get Engine.reset s.engs (engKey d e)

def State.setEng (s : State) (d e : Nat) (x : Engine) : State :=
  { s with engs := SMap.set Engine.reset s.engs (engKey d e) x }

/-- The place of register code `c` in window `win`: windows hold 16 registers, the globals follow. -/
def regKey (d e win c : Nat) : Nat := engKey d e * 256 + (if c < 16 then win * 16 + c else 112 + c)

/-- Reads a register of a window; g0 (code 16) reads 0 (R100). -/
def State.regIn (s : State) (d e win c : Nat) : Word :=
  if c == 16 then 0 else SMap.get 0 s.engReg (regKey d e win c)

/-- Writes a register of a window; a write to g0 is discarded (R100). -/
def State.setRegIn (s : State) (d e win c : Nat) (v : Word) : State :=
  if c == 16 then s else { s with engReg := SMap.set 0 s.engReg (regKey d e win c) v }

/-- Reads a register of the current window. -/
def State.reg (s : State) (d e c : Nat) : Word := s.regIn d e (s.eng d e).cwp c

/-- Writes a register of the current window. -/
def State.setReg (s : State) (d e c : Nat) (v : Word) : State := s.setRegIn d e (s.eng d e).cwp c v

/-- Reads a pair: the lower register holds bits [31:0] (R101). -/
def State.pair (s : State) (d e c : Nat) : BitVec 64 := (s.reg d e (c + 1)) ++ (s.reg d e c)

/-- Writes a pair. -/
def State.setPair (s : State) (d e c : Nat) (v : BitVec 64) : State :=
  (s.setReg d e c (v.extractLsb' 0 32)).setReg d e (c + 1) (v.extractLsb' 32 32)

/-- Writes a register or a pair. -/
def State.setRegs (s : State) (d e c : Nat) (pair : Bool) (v : BitVec 64) : State :=
  if pair then s.setPair d e c v else s.setReg d e c (v.extractLsb' 0 32)

/-! ## Flit windows (R116, R118) -/

/-- Word `w` of a 512-bit beat. -/
def beatWord (b : BitVec 512) (w : Nat) : Word := b.extractLsb' (32 * w) 32

/-- A beat with word `w` replaced. -/
def setBeatWord (b : BitVec 512) (w : Nat) (v : Word) : BitVec 512 := Fld.put ⟨32 * w, 32⟩ b v.toNat

/-- The word at byte offset `o` of a window: header beat at 0x000, data beat b at 0x040 + 0x40 × b; a beat the message
does not have reads 0. -/
def windowWord (m : Msg) (o : Nat) : Word :=
  if o < 64 then beatWord m.hdr (o / 4) else beatWord (m.beats.getD (o / 64 - 1) 0) (o % 64 / 4)

/-- A list of beats with beat `b` replaced, zeros before it. -/
def setBeat (l : List (BitVec 512)) (b : Nat) (v : BitVec 512) : List (BitVec 512) :=
  (l ++ List.replicate (b + 1 - l.length) 0).set b v

/-- What a changed header says of the message's standard (log entry 2): one whose VC, PROTO or OPCODE was changed is the
standard's message no more, and one whose protocol words (4 to 15) were changed has its target ID where the header says. -/
def retag (m old : Msg) : Msg :=
  if m.g Hd.vc ≠ old.g Hd.vc || m.g Hd.proto ≠ old.g Hd.proto || m.g Hd.opcode ≠ old.g Hd.opcode then
    { m with name := .internal, metaV := .none, bus := none }
  else if m.hdr >>> 128 ≠ old.hdr >>> 128 then { m with bus := Config.targetBus m.hdr }
  else m

/-- Writes a word of a window; the bits of the header that Table 03-5 does not name stay 0 (R117). -/
def setWindowWord (m : Msg) (o : Nat) (v : Word) : Msg :=
  if o < 64 then retag (Msg.named { m with hdr := setBeatWord m.hdr (o / 4) v }) m
  else
    let b := o / 64 - 1
    { m with beats := setBeat m.beats b (setBeatWord (m.beats.getD b 0) (o % 64 / 4) v) }

/-- The offset lies in a data beat whose POISON bit is 1 (R118). -/
def windowPoison (m : Msg) (o : Nat) : Bool := 64 ≤ o && bitOf (m.g Hd.poison) (o / 64 - 1)

/-! ## Address map (Table 03-4) -/

/-- The units of the engine address space. -/
inductive Unit_ where
  | scratch (off : Nat)
  | store (idx : Nat)
  | winIn (off : Nat)
  | winOut (off : Nat)
  | winRsp (off : Nat)
  | portPush
  | portPop
  | portSts
  | bank (die bank off : Nat)
  | flash (off : Nat)
  | none
  deriving DecidableEq, Repr

/-- An access to the unit leaves the ENG domain through a sluice of the die (05 R197; 08 R288). -/
def Unit_.crosses : Unit_ → Bool
  | .bank _ _ _ | .flash _ => true
  | _ => false

/-- The unit an address names (R113; 00 R16); banks of unpopulated dies and banks 48 to 63 do not exist (R114). -/
def State.unitAt (s : State) (a : Nat) : Unit_ :=
  if a < 0x4000 then .scratch a
  else if a < 0x8000 then .store ((a - 0x4000) / 4)
  else if 0x10000 ≤ a && a < 0x10240 then .winIn (a - 0x10000)
  else if 0x10400 ≤ a && a < 0x10640 then .winOut (a - 0x10400)
  else if 0x10800 ≤ a && a < 0x10A40 then .winRsp (a - 0x10800)
  else if a == 0x11000 then .portPush
  else if a == 0x11004 then .portPop
  else if a == 0x11008 then .portSts
  else if 0x10000000 ≤ a && a < 0x14000000 then
    let d := a / 2 ^ 23 % 8
    let b := a / 2 ^ 17 % 64
    if s.populated d && b < 48 then .bank d b (a % 2 ^ 17) else .none
  else if 0x20000000 ≤ a && a < 0x20780000 then .flash (a - 0x20000000)
  else .none

/-- The byte address of an M-format access. -/
def State.accessAddr (s : State) (d e : Nat) (w : Word) : Nat := (s.reg d e (Ins.rs1 w) + BitVec.ofNat 32 (Ins.off w)).toNat

/-- An access aligned to its size (R114). -/
def aligned (a : Nat) (pair : Bool) : Bool := a % (if pair then 8 else 4) == 0

/-- The access exists for LD: the unit is read, in that size (R113, R114). -/
def State.loadable (s : State) (a : Nat) (pair : Bool) : Bool :=
  aligned a pair &&
  match s.unitAt a with
  | .scratch _ | .winIn _ | .winOut _ | .winRsp _ | .bank _ _ _ | .flash _ => true
  | .store _ | .portPop | .portSts => !pair
  | .portPush | .none => false

/-- The access exists for ST. -/
def State.storable (s : State) (a : Nat) (pair : Bool) : Bool :=
  aligned a pair &&
  match s.unitAt a with
  | .scratch _ | .winOut _ | .bank _ _ _ => true
  | .portPush => !pair
  | _ => false

/-! ## Scratch (R99, R106) -/

def scrKey (d e a : Nat) : Nat := engKey d e * 16384 + a

/-- A 32-bit scratch word at byte address `a`. -/
def State.scratchWord (s : State) (d e a : Nat) : Word :=
  BitVec.ofNat 32 (Memory.readLE 0 s.scratch (scrKey d e a) 4)

/-- Writes a scratch word; a written word has valid check bits. -/
def State.setScratchWord (s : State) (d e a : Nat) (v : Word) : State :=
  { s with scratch := Memory.writeLE 0 s.scratch (scrKey d e a) 4 v.toNat,
           scratchBad := SMap.set 0 s.scratchBad (engKey d e * 4096 + a / 4) 0 }

/-- The SECDED check of a scratch word that is read: corrected and counted, or uncorrectable (R145). -/
def State.scratchCheck (s : State) (d e a : Nat) : Bool × State :=
  let k := engKey d e * 4096 + a / 4
  match SMap.get 0 s.scratchBad k with
  | 0 => (false, s)
  | 1 => (false, { s with scratchBad := SMap.set 0 s.scratchBad k 0 }.count (Csr.engEccCnt d) EngEccCnt.corr 1)
  | _ => (true, s.count (Csr.engEccCnt d) EngEccCnt.uncorr 1)

end Sys2Proof.Machine
end

