-- ==== Sys2Proof/Machine/Flags.lean ====
section
/-! DEFINITION. The status word OST of an engine (03 R123, Table 03-8) and the conditions of the branches, and the flags of
the word cells are computed beside their operations (06). -/

namespace Sys2Proof.Machine

def Ost.status : Fld := ⟨0, 8⟩
def Ost.poison : Fld := ⟨8, 1⟩
def Ost.idle : Fld := ⟨9, 1⟩
def Ost.prio : Fld := ⟨10, 3⟩

/-- The OST of an operation marked S: it replaces all of OST (R123). -/
def ost (status : Nat) (poison idle : Bool) (prio : Nat) : Word :=
  Ost.prio.put (Ost.idle.put (Ost.poison.put (Ost.status.put (0 : Word) status) (b2n poison)) (b2n idle)) prio

/-- The condition of a register branch (Table 03-7), by opcode 0x15 to 0x1A. -/
def branchCond (op : Nat) (a b : Word) : Bool :=
  match op with
  | 0x15 => a == b
  | 0x16 => a != b
  | 0x17 => a.slt b
  | 0x18 => !a.slt b
  | 0x19 => a.ult b
  | _ => !a.ult b

/-- The condition of BST (Table 03-7): 0 STATUS = OK, 1 STATUS ≠ OK, 2 POISON, 3 IDLE. -/
def bstCond (c : Nat) (o : Word) : Bool :=
  match c with
  | 0 => Ost.status.get o == 0
  | 1 => Ost.status.get o ≠ 0
  | 2 => Ost.poison.bit o
  | _ => Ost.idle.bit o

end Sys2Proof.Machine
end

