-- ==== Sys2Proof/Machine/Ditches.lean ====
section
/-! DEFINITION. Ditch queues (07 R252 to R261): storage and service order, full ditches, parity, idle items and weirs. -/

namespace Sys2Proof.Machine

def dqKey (d q : Nat) : Nat := d * 64 + q

def State.ditch (s : State) (d q : Nat) : DitchSt := SMap.get DitchSt.reset s.ditches (dqKey d q)

def State.setDitch (s : State) (d q : Nat) (x : DitchSt) : State :=
  { s with ditches := SMap.set DitchSt.reset s.ditches (dqKey d q) x }

/-- The draining and the filling bank. -/
def DitchSt.drain (x : DitchSt) : List DItem := if x.drain1 then x.bank1 else x.bank0
def DitchSt.fill (x : DitchSt) : List DItem := if x.drain1 then x.bank0 else x.bank1
def DitchSt.setDrain (x : DitchSt) (l : List DItem) : DitchSt :=
  if x.drain1 then { x with bank1 := l } else { x with bank0 := l }
def DitchSt.setFill (x : DitchSt) (l : List DItem) : DitchSt :=
  if x.drain1 then { x with bank0 := l } else { x with bank1 := l }

/-- The level: items in both banks (R259). -/
def DitchSt.level (x : DitchSt) : Nat := x.bank0.length + x.bank1.length

/-- Exchange of the banks' roles when the draining bank is empty and the filling bank is not (R254 step 2). -/
def DitchSt.exchange (x : DitchSt) : DitchSt :=
  if x.drain.isEmpty && !x.fill.isEmpty then { x with drain1 := !x.drain1 } else x

/-- The item a pop takes: the lowest priority number, and among equals the earliest arrival (R254 step 3). -/
def bestItem : List DItem → Option DItem
  | [] => none
  | i :: is =>
    match bestItem is with
    | none => some i
    | some j => if i.item.prio ≤ j.item.prio then some i else some j

/-- Removes the first item equal to `i`. -/
def dropItem (i : DItem) : List DItem → List DItem
  | [] => []
  | j :: js => if j = i then js else j :: dropItem i js

/-- Parity of the four 16-bit lanes of an item's data (R257). -/
def laneParity (b : BitVec 64) : Nat :=
  (List.range 4).foldl (fun p j => p + parityOf 16 (b.toNat / 2 ^ (16 * j)) * 2 ^ j) 0

/-- The idle item of a ditch (R258). -/
def State.idleItem (s : State) (d q : Nat) : DitchItem :=
  { data := (s.csrGet (Csr.dqIdleHi d q)) ++ (s.csrGet (Csr.dqIdleLo d q)), prio := 7, poison := false }

/-- One pop at its turn (R254 step 3): the item with whether it is the idle item, and a parity
failure counted and reported with the consumer (R257). -/
def State.ditchPop (s : State) (d q consumer : Nat) : DitchItem × Bool × State :=
  let x := s.ditch d q
  match bestItem x.drain with
  | none => (s.idleItem d q, true, s)
  | some i =>
    let s := s.setDitch d q (x.setDrain (dropItem i x.drain))
    if laneParity i.item.data == i.parity then (i.item, false, s)
    else
      let s := s.count (Csr.dqErrCnt d q) DqErrCnt.parity 1
      ({ i.item with poison := true }, false, s.noticeLim d 0x0405 0 [(1, d), (1, q), (1, consumer)])

/-- One push into the filling bank; a full bank loses its oldest item (R256). -/
def State.ditchPush (s : State) (d q : Nat) (i : DitchItem) : State :=
  let x := s.ditch d q
  let new : DItem := { item := i, parity := laneParity i.data }
  if x.fill.length < 512 then s.setDitch d q (x.setFill (x.fill ++ [new]))
  else
    let s := s.setDitch d q (x.setFill (x.fill.tail ++ [new]))
    let s := s.count (Csr.dqCnt d q) DqCnt.lost 1
    s.noticeLim d 0x0404 0 [(1, d), (1, q), (2, s.fget (Csr.dqCnt d q) DqCnt.lost)]

/-- The two conditions at a level (R259). -/
def State.weirs (s : State) (d q level : Nat) : Bool × Bool :=
  (decide (s.fget (Csr.dqWeir d q) DqWeir.high < level), decide (level < s.fget (Csr.dqWeir d q) DqWeir.low))

/-- One crossing edge (bit 0 HUP, 1 HDN, 2 LDN, 3 LUP): its sticky flag, CROSSINGS, and the notice when enabled and the
flag was 0 (R259). -/
def State.weirEdge (s : State) (d q edge level : Nat) (b : Bool) : State :=
  if !b then s
  else
    let was := bitOf (s.fget (Csr.dqFlags d q) DqFlags.crossed) edge
    let s := s.fsetBit (Csr.dqFlags d q) DqFlags.crossed edge true
    let s := s.count (Csr.dqErrCnt d q) DqErrCnt.crossings 1
    if !was && bitOf (s.fget (Csr.dqCtrl d q) DqCtrl.edgeEn) edge then
      s.notice d 0x0406 [(1, d), (1, q), (1, edge), (2, level)]
    else s

/-- Step 5 of R254: the level is compared with the weirs, and each change of a condition is an edge. -/
def State.ditchLevel (s : State) (d q : Nat) : State :=
  let x := s.ditch d q
  let (a, b) := s.weirs d q x.level
  let s := s.setDitch d q { x with above := a, below := b }
  let s := s.weirEdge d q 0 x.level (a && !x.above)
  let s := s.weirEdge d q 1 x.level (!a && x.above)
  let s := s.weirEdge d q 2 x.level (b && !x.below)
  s.weirEdge d q 3 x.level (!b && x.below)

/-- The BANK cycle of a ditch ends: step 5 of R254, when it acted in it. -/
def State.ditchEnd (s : State) (d q : Nat) : State :=
  let x := s.ditch d q
  if x.step == 0 then s else State.ditchLevel (s.setDitch d q { x with step := 0 }) d q

/-- The turn of a step of R254 (1 flush, 2 fabric pop, 3 engine pop, 4 fabric push, 5 engine push): it comes in the running
BANK cycle after the steps before it, and otherwise in the next, which begins with the exchange of step 2; the engine pop
finds the banks exchanged again (step 3). -/
def State.ditchTurn (s : State) (d q step : Nat) : State :=
  let x := s.ditch d q
  if x.step ≠ 0 && x.step < step then s.setDitch d q { (if step == 3 then x.exchange else x) with step := step }
  else
    let s := s.ditchEnd d q
    s.setDitch d q { (s.ditch d q).exchange with step := step }

/-- The reach a ditch borders may drive its fabric port (00 Table 00-3: reach q / 4; 08 R291). -/
def ditchReach (q : Nat) : Nat := q / 4

/-- DITCH_FABRIC_PUSH: the push of the fabric port in a BANK cycle (R254, R256). -/
def doDitchFabricPush (d q : Nat) (i : DitchItem) (s : State) : State :=
  if !(s.portOpen d (ditchReach q) && s.writesEnabled d (ditchReach q)) then s
  else (s.ditchTurn d q 4).ditchPush d q i

def execDitchFabricPush (d : Die) (q : Ditch) (i : DitchItem) (s : State) : Ans :=
  .next (doDitchFabricPush d.val q.val i s)

/-- DITCH_FABRIC_POP: the pop of the fabric port in a BANK cycle; it never waits (R254, R258). The beat is the item's data
words and its priority. -/
def doDitchFabricPop (d q : Nat) (s : State) : State :=
  if !s.portOpen d (ditchReach q) then s
  else
    let (i, idle, s) := (s.ditchTurn d q 2).ditchPop d q 64
    s.toFabric d (0x200 + q) [⟨wordsOf 4 i.data.toNat ++ [BitVec.ofNat 16 i.prio.val], i.poison, idle⟩]

def execDitchFabricPop (d : Die) (q : Ditch) (s : State) : Ans := .next (doDitchFabricPop d.val q.val s)

/-- DITCH_FLUSH: both storage banks are emptied (R254 step 1). -/
def doDitchFlush (d q : Nat) (s : State) : State :=
  if !s.dieOn d then s
  else
    let s := s.ditchTurn d q 1
    s.setDitch d q { s.ditch d q with bank0 := [], bank1 := [] }

def execDitchFlush (d : Die) (q : Ditch) (s : State) : Ans := .next (doDitchFlush d.val q.val s)

/-- DQ_WEIR_WRITE: the weirs change, and the conditions are re-evaluated without an edge (R260). -/
def doDqWeirWrite (d q : Nat) (v : Word) (s : State) : State :=
  if !s.dieOn d then s
  else
    let a := Csr.dqWeir d q
    let s := (s.fset a DqWeir.high (DqWeir.high.get v)).fset a DqWeir.low (DqWeir.low.get v)
    let x := s.ditch d q
    let (hi, lo) := s.weirs d q x.level
    s.setDitch d q { x with above := hi, below := lo }

def execDqWeirWrite (d : Die) (q : Ditch) (v : Word) (s : State) : Ans := .next (doDqWeirWrite d.val q.val v s)

/-- The engine whose push the network delivers next to a ditch: round-robin among those whose oldest push is for it
(R253). -/
def State.nextPusher (s : State) (d q : Nat) : Option (Nat × DitchItem) :=
  match firstFrom 64 (SMap.get 0 s.ditchRr (dqKey d q)) (fun e => ((s.eng d e).pushes.head?.map (·.q)) == some q) with
  | none => none
  | some e => (s.eng d e).pushes.head?.map (fun p => (e, p.item))

/-- DITCH_ENGINE_PUSH: the network delivers one engine push in a BANK cycle (R253, R254). -/
def doDitchEnginePush (d q : Nat) (s : State) : State :=
  if !s.sluiceOpen d then s
  else
    match s.nextPusher d q with
    | none => s
    | some (e, i) =>
      let x := s.eng d e
      let s := s.setEng d e { x with pushes := x.pushes.tail }
      let s := { s with ditchRr := SMap.set 0 s.ditchRr (dqKey d q) ((e + 1) % 64) }
      (s.ditchTurn d q 5).ditchPush d q i

def execDitchEnginePush (d : Die) (q : Ditch) (s : State) : Ans := .next (doDitchEnginePush d.val q.val s)

/-- DQ_STS as a read shows it: the banks stand as step 2 of R254 leaves them in the BANK cycle of the read. -/
def State.dqStsView (s : State) (d q : Nat) : Word :=
  let x := (s.ditch d q).exchange
  let w := DqSts.drainLvl.put (DqSts.fillLvl.put (0 : Word) x.fill.length) x.drain.length
  DqSts.below.put (DqSts.above.put (DqSts.drainBank.put w (b2n x.drain1)) (b2n x.above)) (b2n x.below)

/-- Empties every ditch and push buffer of a die (R261). -/
def State.clearDitches (s : State) (d : Nat) : State :=
  { s with ditches := SMap.drop (· / 64 == d) s.ditches, ditchRr := SMap.drop (fun k => k % 512 / 64 == d) s.ditchRr }

end Sys2Proof.Machine
end

