-- ==== Sys2Proof/Machine/EngineBase.lean ====
section
/-! DEFINITION. The run of a protocol engine (03): fetching, run cycles, traps, waits, locks, faults and the end of a
handler. The instructions are in Engines. -/

namespace Sys2Proof.Machine

/-! ## Small parts -/

/-- Fault causes (Table 03-9). -/
def Fc.doubleSpill : Nat := 1
def Fc.budget : Nat := 2
def Fc.illegal : Nat := 3
def Fc.addr : Nat := 4
def Fc.rank : Nat := 5
def Fc.header : Nat := 6
def Fc.reset : Nat := 7
def Fc.unreserved : Nat := 8
def Fc.unanswered : Nat := 9
def Fc.storeEcc : Nat := 10

/-- The crossbar endpoint of an engine's cluster. -/
def engEndpoint (e : Nat) : Nat := 13 + e / 8

/-- The source index of an engine. -/
def engIdx (e : Nat) : Nat := 8 + e

/-- RANKS: bit r is set while a lock of rank r is held (Table 03-8). -/
def ranksOf (l : List (Word × Nat)) : Nat := l.foldl (fun b x => b ||| 2 ^ x.2) 0

/-- The IN message is on the SNP channel (R128). -/
def Engine.onSnp (x : Engine) : Bool := x.inMsg.any (fun m => m.msg.g Hd.vc == 2)

/-- A message expects a response (R127). -/
def expects (m : Msg) : Bool := m.g Hd.needRsp == 1 || (m.g Hd.srcIdx < 8 && m.name.answered)

/-- The engine is halted: HALT is set and it stands at an instruction boundary (R151); an instruction that waits goes on to
its end first. -/
def State.halted (s : State) (d e : Nat) : Bool :=
  s.fbit (Csr.engCtrl d e) EngCtrl.halt && (s.eng d e).wait == .none

/-- PARKED: PARK is set, no handler runs and no notify fence is pending (R149). -/
def State.parked (s : State) (d e : Nat) : Bool :=
  s.fbit (Csr.engCtrl d e) EngCtrl.park && !(s.eng d e).running && (s.eng d e).fences.isEmpty

def storeKey (d e i : Nat) : Nat := engKey d e * 4096 + i

def State.storeWord (s : State) (d e i : Nat) : Word := SMap.get 0 s.store (storeKey d e i)

/-- Writes a handler-store word, with valid check bits. -/
def State.setStoreWord (s : State) (d e i : Nat) (v : Word) : State :=
  { s with store := SMap.set 0 s.store (storeKey d e i) v, storeBad := SMap.set 0 s.storeBad (storeKey d e i) 0 }

/-- The word at PC, when it can be fetched. -/
def State.fetched (s : State) (d e : Nat) : Option Word :=
  let pc := (s.eng d e).pc
  if pc < 4096 && SMap.get 0 s.storeBad (storeKey d e pc) ≤ 1 then some (s.storeWord d e pc) else none

/-- A fetched word with a single-bit error is corrected and counted (R99). -/
def State.fetchEcc (s : State) (d e : Nat) : State :=
  let k := storeKey d e (s.eng d e).pc
  if SMap.get 0 s.storeBad k == 1 then
    { s with storeBad := SMap.set 0 s.storeBad k 0 }.count (Csr.engEccCnt d) EngEccCnt.corr 1
  else s

/-- The SECDED check of a handler-store word that an LD reads: corrected and counted, or uncorrectable (R99, R145). -/
def State.storeCheck (s : State) (d e i : Nat) : Bool × State :=
  let k := storeKey d e i
  match SMap.get 0 s.storeBad k with
  | 0 => (false, s)
  | 1 => (false, { s with storeBad := SMap.set 0 s.storeBad k 0 }.count (Csr.engEccCnt d) EngEccCnt.corr 1)
  | _ => (true, s.count (Csr.engEccCnt d) EngEccCnt.uncorr 1)

/-! ## Locks (R138, R139) -/

/-- The die whose lock table holds a key. -/
def keyDie (key : Word) : Nat := key.toNat / 2 ^ 28 % 8

def State.lockOf (s : State) (key : Word) : Option Lock :=
  (SMap.get [] s.locks (keyDie key)).find? (·.key == key)

def State.setLocks (s : State) (d : Nat) (l : List Lock) : State := { s with locks := SMap.set [] s.locks d l }

/-- A lock exists while it is held or has waiters. -/
def State.sweepLocks (s : State) (d : Nat) : State :=
  s.setLocks d ((SMap.get [] s.locks d).filter (fun l => l.holder.isSome || s.claims.any (·.key == l.key)))

/-- The lock table holds a lock for an engine. -/
def State.holdsLock (s : State) (key : Word) (d e : Nat) : Bool :=
  (s.lockOf key).any (fun l => l.holder == some (d, e))

/-- A release reaches the lock table (R138, R139): the lock has no holder until a waiter is served, and ceases to exist
without one; a release of a lock that the table does not hold for the engine is discarded. -/
def State.releaseLock (s : State) (key : Word) (d e : Nat) : State :=
  if !s.holdsLock key d e then s
  else
    let kd := keyDie key
    let t := (SMap.get [] s.locks kd).map (fun x => if x.key == key then { x with holder := none } else x)
    (s.setLocks kd t).sweepLocks kd

/-- The abort of a claim reaches the lock table (02 R94, R96): the claim goes, and so does a grant already made on it. -/
def State.abortClaim (s : State) (key : Word) (d e : Nat) : State :=
  let s := { s with claims := s.claims.filter (fun c => !(c.eDie == d && c.eng == e && c.key == key)) }
  (s.releaseLock key d e).sweepLocks (keyDie key)

/-- A one-beat message of an engine to a lock table on ESC (02 R94), with the key in ADDR; the tables are reached at
endpoint 12 (log entry 106). -/
def State.lockEsc (s : State) (d e : Nat) (name : PName) (key : Word) : State :=
  let m := (((escMsg name).w Hd.srcDie d).w Hd.srcIdx (engIdx e)).w Hd.addr key.toNat
  s.inject d (engEndpoint e) m (keyDie key) 12

/-- A release or an abort of an engine for a key is on its way. -/
def State.lockOnWay (s : State) (d e : Nat) (key : Word) : Bool :=
  s.escOnWay (fun x => (x.msg.name == .escRelease || x.msg.name == .escAbort) && x.msg.g Hd.srcDie == d &&
    x.msg.g Hd.srcIdx == engIdx e && x.msg.g Hd.addr == key.toNat)

/-- Releases every lock the handler holds, and takes back the claim it waits with, by ESC messages (R129, R143, R146; 02
R96). -/
def State.dropLocks (s : State) (d e : Nat) : State :=
  let x := s.eng d e
  let s := x.locks.foldl (fun (s : State) l => s.lockEsc d e .escRelease l.1) s
  let s := match x.wait with
    | .lock key _ => s.lockEsc d e .escAbort key
    | _ => s
  s.setEng d e { x with locks := [] }

/-- The order in which waiters are served: higher escalation level first, then earlier start of wait (02 R96). -/
def firstClaim : List Claim → Option Claim
  | [] => none
  | c :: cs =>
    match firstClaim cs with
    | none => some c
    | some b => if b.esc ≤ c.esc then some c else some b

/-! ## Effective priority (04 R170) -/

/-- The priority of a task's own: of a RUNNING task the one it was dispatched at, for a write applies from the next dispatch
(R168). -/
def State.ownPrio (s : State) (d n : Nat) : Nat :=
  if s.taskState d n == TSt.running then (s.taskX d n).acting else s.fget (Csr.taskW0 d n) TaskW0.prio

/-- The lowest of a number and of what the tasks that wait for locks of a task's handler hand on, by `f` (R170). -/
def State.inherit (s : State) (d n own : Nat) (f : Nat → Nat → Nat) : Nat :=
  let held := (s.eng d (s.taskX d n).eng).locks
  (s.claims.filter (fun c => held.any (·.1 == c.key))).foldl (fun p c => min p (f c.eDie (s.eng c.eDie c.eng).slot)) own

/-- EPRIO of a slot, following the chain of lock holders at most `fuel` deep. -/
def State.eprioFuel (s : State) (d n : Nat) : Nat → Nat
  | 0 => s.ownPrio d n
  | fuel + 1 =>
    let own := s.ownPrio d n
    if s.taskState d n == TSt.running then s.inherit d n own (fun d n => s.eprioFuel d n fuel)
    else min own ((s.taskX d n).onceAt.getD own)

def State.eprio (s : State) (d n : Nat) : Nat := s.eprioFuel d n 16

/-- The EPRIO at which an abort requeues a task: its PRIO as it now stands, which applies from the next dispatch (R168), and
what its handler inherits (R160, R170; DEDUCED, log entry 108). -/
def State.requeuePrio (s : State) (d n : Nat) : Nat :=
  s.inherit d n (s.fget (Csr.taskW0 d n) TaskW0.prio) (fun d n => s.eprioFuel d n 15)

/-! ## The end of a handler -/

/-- Removes the reads and atomics that an engine waits for (R143: the running instruction has no effect). -/
def State.dropReads (s : State) (d e : Nat) : State :=
  let waits (r : BankReq) : Bool :=
    r.who == .engine && r.die == d && r.eng == e && (match r.op with | .write _ _ _ => false | _ => true)
  { s with
    bankQ := SMap.mapVals (fun _ => []) (fun _ q => q.filter (fun r => !waits r)) s.bankQ
    fl := { s.fl with reads := s.fl.reads.filter (fun r => match r with
      | .window _ (some (a, b)) _ => !(a == d && b == e)
      | _ => true) } }

/-- The engine-fault response of Table 03-10, when the IN message expects a response and is unanswered. -/
def State.faultResponse (s : State) (d e : Nat) : State :=
  let x := s.eng d e
  match x.inMsg with
  | none => s
  | some m =>
    if x.answered || !expects m.msg then s
    else if m.msg.g Hd.needRsp == 1 then s.injectReply d (engEndpoint e) (m.msg.replyTo d (engIdx e) St.aborted)
    else if m.msg.name.proto == 0 then s.emit (.linkAbort (m.msg.g Hd.port) m.msg)
    else s.emit (.linkError (m.msg.g Hd.port) m.msg)

/-- The IN message is consumed and its credit returns (R116). -/
def State.consumeIn (s : State) (d e : Nat) : State :=
  match (s.eng d e).inMsg with
  | none => s
  | some m => (s.schedCredit d m.msg).setEng d e { s.eng d e with inMsg := none }

/-- The engine is idle again: buffers freed, OUT discarded when `out` is set. -/
def State.engIdle (s : State) (d e : Nat) (out : Bool) : State :=
  let x := s.eng d e
  s.setEng d e { x with
    running := false, wait := .none, bufs := [], rsp := none, answered := false, inMsg := none,
    out := if out then Msg.blank else x.out }

/-- The record of a fault (R146 step 6). -/
def State.faultRecord (s : State) (d e cause pc : Nat) : State :=
  let slot := (s.eng d e).slot
  let a := Csr.engFault d e
  let s := if s.fbit a EngFault.valid then s
    else s.csrSet a (EngFault.valid.put (EngFault.slot.put (EngFault.pc.put (EngFault.cause.put (0 : Word) cause) pc) slot) 1)
  let s := s.count (Csr.engCnt d e) EngCnt.faults 1
  s.noticeLim d 0x0301 e [(1, d), (1, e), (2, slot), (1, cause), (2, pc)]

/-- A fault ends the handler (R145, R146). -/
def State.engFault (s : State) (d e cause : Nat) : State :=
  let x := s.eng d e
  let s := s.dropReads d e
  let s := s.dropLocks d e
  let s := (s.faultResponse d e).consumeIn d e
  let s := (s.engIdle d e true).faultRecord d e cause (min x.pc 4095)
  s.taskComplete d x.slot

/-- END (R129): locks released and counted, an unanswered message answered and recorded, buffers freed, IN consumed, the
task completed. -/
def State.engEnd (s : State) (d e : Nat) : State :=
  let x := s.eng d e
  let s := s.count (Csr.engMiscCnt d) EngMiscCnt.lockLeak x.locks.length
  let s := s.dropLocks d e
  let s := if x.inMsg.any (fun m => expects m.msg) && !x.answered then
      (s.faultResponse d e).faultRecord d e Fc.unanswered x.pc
    else s
  let s := (s.consumeIn d e).engIdle d e false
  s.taskComplete d x.slot

/-- The wait-limit abort without its counts (R143): locks released, buffers freed, the task requeued at level `esc` with
its message, its flags and its stamp. -/
def State.engAbort (s : State) (d e esc : Nat) : State :=
  let x := s.eng d e
  let p := s.requeuePrio d x.slot
  let s := (s.dropReads d e).dropLocks d e
  let s := s.engIdle d e false
  s.requeue d x.slot x.v1.toNat x.inMsg esc p

/-! ## Run cycles and traps -/

/-- The engine may execute its next instruction. -/
def State.canRun (s : State) (d e : Nat) : Bool :=
  let x := s.eng d e
  s.clockOn d && x.running && !s.halted d e && (x.wait == .none || x.wait == .retry)

/-- The instruction has run: its cycles are counted and execution goes on at `pc`. -/
def State.engGo (s : State) (d e cost pc : Nat) : State :=
  let x := s.eng d e
  s.setEng d e { x with run := x.run + cost, pc := pc, wait := .none }

def State.engDone (s : State) (d e cost : Nat) : State := s.engGo d e cost ((s.eng d e).pc + 1)

/-- The instruction waits and is executed again (R143). -/
def State.engStall (s : State) (d e : Nat) : State := s.setEng d e { s.eng d e with wait := .retry }

/-- The instruction has run, and its response does not reach the engine. -/
def State.engLost (s : State) (d e cost : Nat) : State :=
  let x := s.eng d e
  s.setEng d e { x with run := x.run + cost, wait := .lost }

/-- Window 7 as a trap finds it: its contents are unspecified (R108). -/
def State.freshWindow (s : State) (d e : Nat) : State :=
  (List.range 16).foldl (fun s v =>
    let (n, s) := s.draw
    s.setRegIn d e 7 v (Config.freeWord n)) s

/-- Trap entry (R107): 2 run cycles; inside window 7 a double spill (R108). For SOFT and POISON at index 4,095 the next
instruction's index does not fit TPC: here the engine keeps 4,096, MFS shows 0, and TRET goes on past the store, which is
illegal there (R120; DESIGN CHOICE, log entry 107). -/
def State.trapEnter (s : State) (d e v tpc code : Nat) (twin : Option Nat) : State :=
  let x := s.eng d e
  if x.cwp == 7 then s.engFault d e Fc.doubleSpill
  else if x.budget < x.run + 2 then s.engFault d e Fc.budget
  else
    let s := if twin.isSome then s.count (Csr.engCnt d e) EngCnt.spills 1 else s
    let s := s.setEng d e { x with
      saved := x.cwp, cwp := 7, tpc := tpc, tcause := BitVec.ofNat 32 (v + code * 256), twin := twin.getD x.twin,
      pc := 4 * v, run := x.run + 2, wait := .none }
    s.freshWindow d e

/-- The end of an operation marked S: it replaces OST, and trap POISON follows when it sets OST.POISON while PTRAP = 1
(R107, R123). -/
def State.engDoneS (s : State) (d e cost : Nat) (o : Word) : State :=
  let s := s.setEng d e { s.eng d e with ost := o }
  let s := s.engDone d e cost
  if Ost.poison.bit o && s.fbit (Csr.engCtrl d e) EngCtrl.ptrap then s.trapEnter d e 3 (s.eng d e).pc 0 none else s

/-- One instruction of an engine: it acts when the word at PC is one that `sel` takes. In order: the budget (R111), the
forms R120 calls illegal, the budget for its run cycles, its effect. -/
def State.engRun (s : State) (d e : Nat) (sel : Word → Bool) (legal : State → Word → Bool) (cost : State → Word → Nat)
    (body : State → Word → State) : State :=
  if !s.canRun d e then s
  else
    match s.fetched d e with
    | none => s
    | some w =>
      if !sel w then s
      else
        let s := s.fetchEcc d e
        let x := s.eng d e
        if x.budget ≤ x.run then s.engFault d e Fc.budget
        else if !legal s w then s.engFault d e Fc.illegal
        else if x.budget < x.run + cost s w then s.engFault d e Fc.budget
        else body s w

/-! ## Fences (R140, R141) -/

/-- A message of this engine. -/
def fromEng (d e : Nat) (m : Msg) : Bool := m.g Hd.srcDie == d && m.g Hd.srcIdx == engIdx e

/-- The messages of an engine that have not entered their sink's buffer: at their source, in a crossbar input or at a
culvert. -/
def State.flying (s : State) (d e : Nat) : List XMsg :=
  let own (l : List XMsg) : List XMsg := l.filter (fun x => fromEng d e x.msg)
  (s.xsrc.map (fun q => own q.2)).flatten ++ (s.xin.map (fun q => own q.2)).flatten ++
    ((s.xout.filter (fun q => 8 ≤ q.1 / 8 % 32 && q.1 / 8 % 32 ≤ 10)).map (fun q => own q.2)).flatten

/-- A request of an engine at a bank, direct or by message. -/
def BankReq.ofEng (d e : Nat) (r : BankReq) : Bool :=
  r.die == d && r.eng == e && (match r.who with | .engine | .message _ => true | _ => false)

/-- The bank requests of an engine that wait. -/
def State.bankWaits (s : State) (d e : Nat) : List BankReq := (s.bankQ.map (fun q => q.2.filter (BankReq.ofEng d e))).flatten

/-- The numbers of what an engine issued and has not taken effect at its target yet (R140). -/
def State.issued (s : State) (d e : Nat) : List Nat :=
  (s.flying d e).map (·.id) ++ (s.bankWaits d e).map (·.id) ++ (s.eng d e).pushes.map (·.id)

/-- Every operation the engine issued has taken effect (R140). -/
def State.landed (s : State) (d e : Nat) : Bool := (s.issued d e).isEmpty

/-- Everything a notify fence covers has landed (R141). -/
def State.fenceClear (s : State) (d e : Nat) (f : NFence) : Bool := !f.ids.any (fun n => (s.issued d e).contains n)

/-! ## Accesses to banks and CSRs of other dies (R133, R136) -/

/-- A tag that no outstanding buffer of the engine holds; which one is not stated (a free value). -/
def pickTag (bufs : List RspBuf) (free : Nat) : Nat :=
  ((List.range 8).map (fun i => (free + i) % 65536)).find? (fun t => !bufs.any (·.xtag == t)) |>.getD (free % 65536)

/-- Reserves a response buffer (R125). -/
def reserve (x : Engine) (tag : Nat) (unit dir : Bool) (r : Option Msg) : Engine :=
  { x with bufs := x.bufs ++ [{ unit := unit, xtag := tag, rsp := r, claimed := false, dir := dir }] }

/-- An access by message (R133, R136; its form is the model's, log entry 105): the address, an operation code, and the
operand in one data beat. -/
def accMsg (d e : Nat) (name : PName) (vc addr op len : Nat) (data : Option (BitVec 64)) : Msg :=
  let m := { Msg.blank with name := name, beats := (data.map (fun (v : BitVec 64) => v.setWidth 512)).toList }
  let m := ((m.w Hd.vc vc).w Hd.beats data.toList.length).w Hd.needRsp 1
  let m := ((m.w Hd.srcDie d).w Hd.srcIdx (engIdx e)).w Hd.addr addr
  (m.w Hd.opcode op).w Hd.len len

/-- Sends an access to a unit of die `t` under a reserved buffer: none while no buffer is free, the crossbar has no credit
for it, or an access of the engine to that die on another channel has not landed (R114, R115). The tag is a free value. -/
def State.accSend (s : State) (d e : Nat) (m : Msg) (t : Nat) : Option (Nat × State) :=
  let x := s.eng d e
  let other := (s.flying d e).any (fun y => y.msg.unitAcc && y.die == t && y.msg.g Hd.vc ≠ m.g Hd.vc)
  if 4 ≤ x.bufs.length || !s.sluiceOpen d || !s.fitsIn d (engEndpoint e) m || other then none
  else
    let (n, s) := s.draw
    let tag := pickTag x.bufs (Config.freeWord n).toNat
    some (tag, (s.setEng d e (reserve x tag true false none)).inject d (engEndpoint e) (m.w Hd.xtag tag) t 21)

/-- The half of a word that a load asks for. -/
def halfOf (h : Option Bool) (v : BitVec 64) : BitVec 64 :=
  match h with
  | none => v
  | some hi => (if hi then v >>> 32 else v) &&& 0xFFFFFFFF

/-- The response to an access by message reaches its engine: its buffer is freed, and the instruction that waits for it ends
(R125, R133, R136). -/
def State.accDone (s : State) (d e : Nat) (m : Msg) : State :=
  let x := s.eng d e
  let s := s.setEng d e { x with bufs := x.bufs.filter (fun b => b.xtag ≠ m.g Hd.xtag) }
  match x.wait with
  | .resp tag rd pair half =>
    if tag ≠ m.g Hd.xtag then s
    else
      let v : BitVec 64 := halfOf half ((m.beats.headD 0).setWidth 64)
      let s := match rd with | some c => s.setRegs d e c pair v | none => s
      s.engDoneS d e 0 (ost (m.g Hd.status) m.poisoned false 0)
  | _ => s

/-! ## Reset of an engine (R147) -/

/-- The registers of an engine cleared: windows and globals. -/
def State.clearEngRegs (s : State) (d e : Nat) : State :=
  { s with engReg := SMap.drop (· / 256 == engKey d e) s.engReg }

/-- ENG reset of one engine (reset kind E): a running handler ends with fault RESET, windows, globals, special registers
and port FIFOs are cleared, notify fences cancelled; scratch and store are kept, the push buffer too. -/
def State.engReset (s : State) (d e : Nat) : State :=
  let s := if (s.eng d e).running then s.engFault d e Fc.reset else s
  let pushes := (s.eng d e).pushes
  let s := (s.clearEngRegs d e).setEng d e { Engine.reset with pushes := pushes }
  s.resetCsr [.e] (fun a => a == Csr.engCtrl d e)

/-! ## Views -/

/-- ENG_STS as a read shows it. -/
def State.engStsView (s : State) (d e : Nat) : Word :=
  let x := s.eng d e
  let w := EngSts.running.put (EngSts.parked.put (0 : Word) (b2n (s.parked d e))) (b2n x.running)
  let w := EngSts.trap.put (EngSts.waiting.put w (b2n (x.wait != .none))) (b2n (x.cwp == 7))
  let w := EngSts.pc.put (EngSts.halted.put w (b2n (s.halted d e))) (min x.pc 4095)
  EngSts.cwp.put (EngSts.slot.put w x.slot) x.cwp

end Sys2Proof.Machine
end

