-- ==== Sys2Proof/Machine/Engines.lean ====
section
/-! DEFINITION. The engine instructions (03 Table 03-7), one meaning each, and the engine events of the table. -/

namespace Sys2Proof.Machine

/-! ## Selectors, costs and common forms -/

def opIs (o : Nat) (w : Word) : Bool := Ins.op w == o

/-- An instruction of a fixed number of run cycles. -/
def cyc (n : Nat) : State → Word → Nat := fun _ _ => n

/-- Three registers, function 0. -/
def legalR (_ : State) (w : Word) : Bool :=
  regOk (Ins.rd w) && regOk (Ins.rs1 w) && regOk (Ins.rs2 w) && Ins.fn w == 0

/-- Two registers and an immediate. -/
def legalI (_ : State) (w : Word) : Bool := regOk (Ins.rd w) && regOk (Ins.rs1 w)

/-- A register-register operation. -/
def State.aluR (s : State) (d e op n : Nat) (f : Word → Word → Word) : State :=
  s.engRun d e (opIs op) legalR (cyc n) (fun s w =>
    (s.setReg d e (Ins.rd w) (f (s.reg d e (Ins.rs1 w)) (s.reg d e (Ins.rs2 w)))).engDone d e n)

/-- A register-immediate operation on the 16-bit immediate. -/
def State.aluI (s : State) (d e op : Nat) (legal : State → Word → Bool) (f : Word → Word → Word) : State :=
  s.engRun d e (opIs op) legal (cyc 1) (fun s w =>
    (s.setReg d e (Ins.rd w) (f (s.reg d e (Ins.rs1 w)) w)).engDone d e 1)

/-- Sign-extended and zero-extended immediates. -/
def immS (w : Word) : Word := (w.setWidth 16).signExtend 32
def immZ (w : Word) : Word := (w.setWidth 16).setWidth 32

/-! ## Arithmetic and logic -/

def doEngAdd (d e : Nat) (s : State) : State := s.aluR d e 0x00 1 (· + ·)
def doEngSub (d e : Nat) (s : State) : State := s.aluR d e 0x01 1 (· - ·)
def doEngAnd (d e : Nat) (s : State) : State := s.aluR d e 0x02 1 (· &&& ·)
def doEngOr (d e : Nat) (s : State) : State := s.aluR d e 0x03 1 (· ||| ·)
def doEngXor (d e : Nat) (s : State) : State := s.aluR d e 0x04 1 (· ^^^ ·)
def doEngSll (d e : Nat) (s : State) : State := s.aluR d e 0x05 1 (fun a b => a <<< (b.toNat % 32))
def doEngSrl (d e : Nat) (s : State) : State := s.aluR d e 0x06 1 (fun a b => a >>> (b.toNat % 32))
def doEngSra (d e : Nat) (s : State) : State := s.aluR d e 0x07 1 (fun a b => a.sshiftRight (b.toNat % 32))
def doEngSlt (d e : Nat) (s : State) : State := s.aluR d e 0x08 1 (fun a b => if a.slt b then 1 else 0)
def doEngSltu (d e : Nat) (s : State) : State := s.aluR d e 0x09 1 (fun a b => if a.ult b then 1 else 0)
def doEngMul (d e : Nat) (s : State) : State := s.aluR d e 0x0A 3 (· * ·)

def execEngAdd (d : Die) (e : Eng) (s : State) : Ans := .next (doEngAdd d.val e.val s)
def execEngSub (d : Die) (e : Eng) (s : State) : Ans := .next (doEngSub d.val e.val s)
def execEngAnd (d : Die) (e : Eng) (s : State) : Ans := .next (doEngAnd d.val e.val s)
def execEngOr (d : Die) (e : Eng) (s : State) : Ans := .next (doEngOr d.val e.val s)
def execEngXor (d : Die) (e : Eng) (s : State) : Ans := .next (doEngXor d.val e.val s)
def execEngSll (d : Die) (e : Eng) (s : State) : Ans := .next (doEngSll d.val e.val s)
def execEngSrl (d : Die) (e : Eng) (s : State) : Ans := .next (doEngSrl d.val e.val s)
def execEngSra (d : Die) (e : Eng) (s : State) : Ans := .next (doEngSra d.val e.val s)
def execEngSlt (d : Die) (e : Eng) (s : State) : Ans := .next (doEngSlt d.val e.val s)
def execEngSltu (d : Die) (e : Eng) (s : State) : Ans := .next (doEngSltu d.val e.val s)
def execEngMul (d : Die) (e : Eng) (s : State) : Ans := .next (doEngMul d.val e.val s)

def doEngAddi (d e : Nat) (s : State) : State := s.aluI d e 0x0B legalI (fun a w => a + immS w)
def doEngAndi (d e : Nat) (s : State) : State := s.aluI d e 0x0C legalI (fun a w => a &&& immZ w)
def doEngOri (d e : Nat) (s : State) : State := s.aluI d e 0x0D legalI (fun a w => a ||| immZ w)
def doEngSlti (d e : Nat) (s : State) : State :=
  s.aluI d e 0x0E legalI (fun a w => if a.slt (immS w) then 1 else 0)

/-- SHI: imm[4:0] amount, imm[6:5] kind 0 to 2, imm[15:7] 0. -/
def legalShi (s : State) (w : Word) : Bool := legalI s w && Ins.imm w / 32 < 3

def shiOf (a w : Word) : Word :=
  let n := Ins.imm w % 32
  match Ins.imm w / 32 % 4 with
  | 0 => a <<< n
  | 1 => a >>> n
  | _ => a.sshiftRight n

def doEngShi (d e : Nat) (s : State) : State := s.aluI d e 0x0F legalShi shiOf

/-- LUI: the rs1 field is 0. -/
def legalLui (_ : State) (w : Word) : Bool := regOk (Ins.rd w) && Ins.rs1 w == 0

def doEngLui (d e : Nat) (s : State) : State := s.aluI d e 0x10 legalLui (fun _ w => immZ w <<< 16)

/-- EXT: imm[4:0] position, imm[9:5] length less 1, imm[15:10] 0; bits above 31 read 0. -/
def legalExt (s : State) (w : Word) : Bool := legalI s w && Ins.imm w < 1024

def extOf (a w : Word) : Word :=
  BitVec.ofNat 32 (a.toNat / 2 ^ (Ins.imm w % 32) % 2 ^ (Ins.imm w / 32 % 32 + 1))

def doEngExt (d e : Nat) (s : State) : State := s.aluI d e 0x11 legalExt extOf

/-- INS: P + L above 32 is reserved. -/
def legalIns (s : State) (w : Word) : Bool :=
  legalI s w && Ins.imm w < 1024 && Ins.imm w % 32 + Ins.imm w / 32 + 1 ≤ 32

def insOf (old a w : Word) : Word := Fld.put ⟨Ins.imm w % 32, Ins.imm w / 32 % 32 + 1⟩ old a.toNat

def doEngIns (d e : Nat) (s : State) : State :=
  s.engRun d e (opIs 0x12) legalIns (cyc 1) (fun s w =>
    (s.setReg d e (Ins.rd w) (insOf (s.reg d e (Ins.rd w)) (s.reg d e (Ins.rs1 w)) w)).engDone d e 1)

def execEngAddi (d : Die) (e : Eng) (s : State) : Ans := .next (doEngAddi d.val e.val s)
def execEngAndi (d : Die) (e : Eng) (s : State) : Ans := .next (doEngAndi d.val e.val s)
def execEngOri (d : Die) (e : Eng) (s : State) : Ans := .next (doEngOri d.val e.val s)
def execEngSlti (d : Die) (e : Eng) (s : State) : Ans := .next (doEngSlti d.val e.val s)
def execEngShi (d : Die) (e : Eng) (s : State) : Ans := .next (doEngShi d.val e.val s)
def execEngLui (d : Die) (e : Eng) (s : State) : Ans := .next (doEngLui d.val e.val s)
def execEngExt (d : Die) (e : Eng) (s : State) : Ans := .next (doEngExt d.val e.val s)
def execEngIns (d : Die) (e : Eng) (s : State) : Ans := .next (doEngIns d.val e.val s)

/-! ## Loads and stores (R113 to R118, R133, R134, R142) -/

/-- M format: SZ 0 or 1, the register or pair, the base. -/
def legalM (_ : State) (w : Word) : Bool :=
  Ins.sz w ≤ 1 && (if Ins.sz w == 1 then pairOk (Ins.rd w) else regOk (Ins.rd w)) && regOk (Ins.rs1 w)

def isPair (w : Word) : Bool := Ins.sz w == 1

/-- LD run cycles (Table 03-4). -/
def State.ldCost (s : State) (d e : Nat) (w : Word) : Nat :=
  match s.unitAt (s.accessAddr d e w) with
  | .scratch _ | .store _ => 2
  | _ => 1

/-- Sends an access to a bank of the own die by the engine network (R133; 07 R237). -/
def State.askBank (s : State) (d e b word : Nat) (half : Option Bool) (op : BankOp) : State :=
  let k := (d * 64 + b) * 4 + 1
  { s with bankQ := SMap.set [] s.bankQ k (SMap.get [] s.bankQ k ++ [⟨s.serial, .engine, d, e, word, half, op⟩]),
           serial := s.serial + 1 }

/-- The operation code, data and length of a bank access as a message carries them (log entry 105). -/
def opCode : BankOp → Nat × Option (BitVec 64) × Nat
  | .read => (Uop.read, none, 8)
  | .write be v _ => (Uop.write, some v, if be == 0xFF then 8 else 4)
  | .fetchAdd v => (Uop.fetchAdd, some v, 8)
  | .swap v => (Uop.swap, some v, 8)

/-- Sends an access to byte offset `o` of a bank of another die over the crossbar, on REQ without data and on DAT with
(R133). -/
def State.askBankMsg (s : State) (d e a t : Nat) (op : BankOp) : Option (Nat × State) :=
  let (code, v, len) := opCode op
  s.accSend d e (accMsg d e .bankAcc (if v.isSome then 3 else 0) a code len v) t

/-- Posted stores of an engine at the banks of its own die; its send credit admits a number that the spec leaves open
(R114). -/
def State.storesOut (s : State) (d e : Nat) : Nat :=
  ((s.bankWaits d e).filter (fun r => match r.op with | .write _ _ _ => r.who == .engine | _ => false)).length

/-- The word or pair at byte offset `o` of a window. -/
def winValue (m : Msg) (o : Nat) (pair : Bool) : BitVec 64 :=
  (if pair then windowWord m (o + 4) else 0) ++ windowWord m o

/-- The value of a load that does not wait, with poison. -/
def State.ldNow (s : State) (d e : Nat) (u : Unit_) (pair : Bool) : BitVec 64 × Bool × State :=
  let x := s.eng d e
  let win (m : Option Msg) (o : Nat) : BitVec 64 × Bool × State :=
    let m := m.getD Msg.blank
    (winValue m o pair, windowPoison m o, s)
  match u with
  | .scratch a =>
    let v := (if pair then s.scratchWord d e (a + 4) else 0) ++ s.scratchWord d e a
    let (b0, s) := s.scratchCheck d e a
    let (b1, s) := if pair then s.scratchCheck d e (a + 4) else (false, s)
    (v, b0 || b1, s)
  | .store i => let (b, s) := s.storeCheck d e i; ((0 : Word) ++ s.storeWord d e i, b, s)
  | .winIn o => win (x.inMsg.map (·.msg)) o
  | .winOut o => win (some x.out) o
  | .winRsp o => win x.rsp o
  | .portSts =>
    let n := (4 - x.portOut.length) + x.portIn.length * 8 + b2n (!s.borderOpen d (engReach e)) * 64
    (BitVec.ofNat 64 n, false, s)
  | _ => (0, false, s)

/-- LD: a word or pair of the engine address space into rd (R113, R114); an address that the table does not list, or a
misaligned one, is fault ADDR. -/
def State.ldBody (s : State) (d e : Nat) (w : Word) : State :=
  let a := s.accessAddr d e w
  let pair := isPair w
  let rd := Ins.rd w
  let x := s.eng d e
  if !s.loadable a pair then s.engFault d e Fc.addr
  else if (s.unitAt a).crosses && !s.sluiceOpen d then s.engStall d e
  else
    match s.unitAt a with
    | .bank dd b o =>
      let half := if pair then none else some (o / 4 % 2 == 1)
      if dd == d then
        (s.askBank d e b (o / 8) half .read).setEng d e { x with run := x.run + 1, wait := .bank rd pair false }
      else
        match s.askBankMsg d e a dd .read with
        | none => s.engStall d e
        | some (tag, s) => s.setEng d e { s.eng d e with run := x.run + 1, wait := .resp tag (some rd) pair half }
    | .flash o =>
      let s := { s with fl := { s.fl with reads := s.fl.reads ++ [FlReq.window (o / 32) (some (d, e)) none] } }
      s.setEng d e { x with run := x.run + 1, wait := .flash rd pair o }
    | .portPop =>
      match x.portIn with
      | [] => s.engStall d e
      | v :: r =>
        if !s.borderOpen d (engReach e) then s.engStall d e
        else
          let s := s.setEng d e { x with portIn := r }
          (s.setReg d e rd v).engDoneS d e 1 (ost 0 false false 0)
    | u =>
      let (v, p, s) := s.ldNow d e u pair
      (s.setRegs d e rd pair v).engDoneS d e (s.ldCost d e w) (ost 0 p false 0)

def doEngLd (d e : Nat) (s : State) : State :=
  s.engRun d e (opIs 0x13) legalM (fun s w => s.ldCost d e w) (fun s w => s.ldBody d e w)

def execEngLd (d : Die) (e : Eng) (s : State) : Ans := .next (doEngLd d.val e.val s)

/-- The write of an engine store into a 64-bit bank word (07 R235, R240). -/
def storeOp (o : Nat) (pair : Bool) (v : BitVec 64) : BankOp :=
  if pair then .write 0xFF v false
  else if o / 4 % 2 == 1 then .write 0xF0 (v <<< 32) false
  else .write 0x0F v false

/-- ST: rd or a pair to the engine address space. -/
def State.stBody (s : State) (d e : Nat) (w : Word) : State :=
  let a := s.accessAddr d e w
  let pair := isPair w
  let lo := s.reg d e (Ins.rd w)
  let hi := if pair then s.reg d e (Ins.rd w + 1) else 0
  let x := s.eng d e
  if !s.storable a pair then s.engFault d e Fc.addr
  else if (s.unitAt a).crosses && !s.sluiceOpen d then s.engStall d e
  else
    match s.unitAt a with
    | .scratch o =>
      let s := s.setScratchWord d e o lo
      (if pair then s.setScratchWord d e (o + 4) hi else s).engDone d e 1
    | .winOut o =>
      let m := setWindowWord x.out o lo
      let m := if pair then setWindowWord m (o + 4) hi else m
      (s.setEng d e { x with out := m }).engDone d e 1
    | .portPush =>
      if 4 ≤ x.portOut.length || !s.borderOpen d (engReach e) then s.engStall d e
      else (s.setEng d e { x with portOut := x.portOut ++ [lo] }).engDone d e 1
    | .bank dd b o =>
      let op := storeOp o pair (hi ++ lo)
      if dd == d then
        if Config.bankCredits < s.storesOut d e then s.engStall d e
        else (s.askBank d e b (o / 8) none op).engDone d e 1
      else
        match s.askBankMsg d e a dd op with
        | none => s.engStall d e
        | some (_, s) => s.engDone d e 1
    | _ => s

def doEngSt (d e : Nat) (s : State) : State :=
  s.engRun d e (opIs 0x14) legalM (cyc 1) (fun s w => s.stBody d e w)

def execEngSt (d : Die) (e : Eng) (s : State) : Ans := .next (doEngSt d.val e.val s)

/-! ## Branches and jumps -/

/-- The target of a B-format instruction: PC + 1 + offset. -/
def branchTarget (pc : Nat) (w : Word) : Int := (pc : Int) + 1 + Ins.simm w

/-- A target inside the handler store. -/
def inStore (t : Int) : Bool := 0 ≤ t && t ≤ 4095

/-- B format: two registers, a target inside the store whether or not the branch is taken (R120). -/
def legalB (d e : Nat) (s : State) (w : Word) : Bool :=
  regOk (Ins.rd w) && regOk (Ins.rs1 w) && inStore (branchTarget (s.eng d e).pc w)

/-- The branch condition of the word: B format names rs1 in [25:21] and rs2 in [20:16]. -/
def State.taken (s : State) (d e : Nat) (w : Word) : Bool :=
  branchCond (Ins.op w) (s.reg d e (Ins.rd w)) (s.reg d e (Ins.rs1 w))

/-- Goes on at the target when taken, in 2 run cycles, else in sequence in 1. -/
def State.branch (s : State) (d e : Nat) (w : Word) (t : Bool) : State :=
  if t then s.engGo d e 2 (branchTarget (s.eng d e).pc w).toNat else s.engDone d e 1

def State.branchOp (s : State) (d e op : Nat) : State :=
  s.engRun d e (opIs op) (legalB d e) (fun s w => if s.taken d e w then 2 else 1)
    (fun s w => s.branch d e w (s.taken d e w))

def doEngBeq (d e : Nat) (s : State) : State := s.branchOp d e 0x15
def doEngBne (d e : Nat) (s : State) : State := s.branchOp d e 0x16
def doEngBlt (d e : Nat) (s : State) : State := s.branchOp d e 0x17
def doEngBge (d e : Nat) (s : State) : State := s.branchOp d e 0x18
def doEngBltu (d e : Nat) (s : State) : State := s.branchOp d e 0x19
def doEngBgeu (d e : Nat) (s : State) : State := s.branchOp d e 0x1A

def execEngBeq (d : Die) (e : Eng) (s : State) : Ans := .next (doEngBeq d.val e.val s)
def execEngBne (d : Die) (e : Eng) (s : State) : Ans := .next (doEngBne d.val e.val s)
def execEngBlt (d : Die) (e : Eng) (s : State) : Ans := .next (doEngBlt d.val e.val s)
def execEngBge (d : Die) (e : Eng) (s : State) : Ans := .next (doEngBge d.val e.val s)
def execEngBltu (d : Die) (e : Eng) (s : State) : Ans := .next (doEngBltu d.val e.val s)
def execEngBgeu (d : Die) (e : Eng) (s : State) : Ans := .next (doEngBgeu d.val e.val s)

/-- BST: COND 0 to 3 in [25:21], rs2 field 0. -/
def legalBst (d e : Nat) (s : State) (w : Word) : Bool :=
  Ins.rd w < 4 && Ins.rs1 w == 0 && inStore (branchTarget (s.eng d e).pc w)

def State.bstTaken (s : State) (d e : Nat) (w : Word) : Bool := bstCond (Ins.rd w) (s.eng d e).ost

def doEngBst (d e : Nat) (s : State) : State :=
  s.engRun d e (opIs 0x1B) (legalBst d e) (fun s w => if s.bstTaken d e w then 2 else 1)
    (fun s w => s.branch d e w (s.bstTaken d e w))

def execEngBst (d : Die) (e : Eng) (s : State) : Ans := .next (doEngBst d.val e.val s)

/-- The target of JR: rs1 + sign-extended immediate. -/
def State.jrTarget (s : State) (d e : Nat) (w : Word) : Nat := (s.reg d e (Ins.rs1 w) + immS w).toNat

/-- JR: rd field 0; the target is checked when it executes (R120). -/
def legalJr (d e : Nat) (s : State) (w : Word) : Bool :=
  Ins.rd w == 0 && regOk (Ins.rs1 w) && s.jrTarget d e w ≤ 4095

def doEngJr (d e : Nat) (s : State) : State :=
  s.engRun d e (opIs 0x1C) (legalJr d e) (cyc 2) (fun s w => s.engGo d e 2 (s.jrTarget d e w))

def execEngJr (d : Die) (e : Eng) (s : State) : Ans := .next (doEngJr d.val e.val s)

/-! ## Windows (R104 to R108) -/

/-- Copies `n` registers between windows. -/
def State.copyRegs (s : State) (d e wa a wb b : Nat) : Nat → State
  | 0 => s
  | n + 1 => (s.copyRegs d e wa a wb b n).setRegIn d e wb (b + n) (s.regIn d e wa (a + n))

/-- CALL: J format with N 0 to 4; illegal at DEPTH 255 (R104). -/
def legalCall (d e : Nat) (s : State) (w : Word) : Bool :=
  Ins.n w ≤ 4 && w.toNat / 2 ^ 12 % 2 ^ 11 == 0 && (s.eng d e).depth < 255

def State.callBody (s : State) (d e : Nat) (w : Word) : State :=
  let x := s.eng d e
  let nw := (x.cwp + 1) % 7
  if 7 ≤ x.wres then s.trapEnter d e 0 x.pc 0 (some nw)
  else
    let s := s.copyRegs d e x.cwp 12 nw 0 (Ins.n w)
    let s := s.setRegIn d e nw 15 (BitVec.ofNat 32 (x.pc + 1))
    let s := s.setEng d e { x with cwp := nw, wres := x.wres + 1, depth := x.depth + 1 }
    s.engGo d e 2 (Ins.target w)

def doEngCall (d e : Nat) (s : State) : State :=
  s.engRun d e (opIs 0x1D) (legalCall d e) (cyc 2) (fun s w => s.callBody d e w)

def execEngCall (d : Die) (e : Eng) (s : State) : Ans := .next (doEngCall d.val e.val s)

/-- RET: N 0 to 4, [22:0] 0; illegal at DEPTH 0 and for a v15 above 4,095 (R104). -/
def legalRet (d e : Nat) (s : State) (w : Word) : Bool :=
  Ins.n w ≤ 4 && w.toNat % 2 ^ 23 == 0 && 0 < (s.eng d e).depth && (s.reg d e 15).toNat ≤ 4095

def State.retBody (s : State) (d e : Nat) (w : Word) : State :=
  let x := s.eng d e
  let pw := (x.cwp + 6) % 7
  if x.wres ≤ 1 then s.trapEnter d e 1 x.pc 0 (some pw)
  else
    let t := (s.reg d e 15).toNat
    let s := s.copyRegs d e x.cwp 0 pw 12 (Ins.n w)
    let s := s.setEng d e { x with cwp := pw, wres := x.wres - 1, depth := x.depth - 1 }
    s.engGo d e 2 t

def doEngRet (d e : Nat) (s : State) : State :=
  s.engRun d e (opIs 0x1E) (legalRet d e) (cyc 2) (fun s w => s.retBody d e w)

def execEngRet (d : Die) (e : Eng) (s : State) : Ans := .next (doEngRet d.val e.val s)

/-- TRAP: trap SOFT with the code; its 2 run cycles are the entry (R107). -/
def legalTrap (_ : State) (w : Word) : Bool := Ins.low26 w < 256

def doEngTrap (d e : Nat) (s : State) : State :=
  s.engRun d e (opIs 0x1F) legalTrap (cyc 2) (fun s w => s.trapEnter d e 2 ((s.eng d e).pc + 1) (Ins.imm w % 256) none)

def execEngTrap (d : Die) (e : Eng) (s : State) : Ans := .next (doEngTrap d.val e.val s)

/-- TRET: only in window 7; CWP from the hidden field, on at TPC (R107, R120). -/
def legalTret (d e : Nat) (s : State) (w : Word) : Bool := Ins.low26 w == 0 && (s.eng d e).cwp == 7

def doEngTret (d e : Nat) (s : State) : State :=
  s.engRun d e (opIs 0x20) (legalTret d e) (cyc 2) (fun s _ =>
    let x := s.eng d e
    (s.setEng d e { x with cwp := x.saved }).engGo d e 2 x.tpc)

def execEngTret (d : Die) (e : Eng) (s : State) : Ans := .next (doEngTret d.val e.val s)

def legalEnd (_ : State) (w : Word) : Bool := Ins.low26 w == 0

def doEngEnd (d e : Nat) (s : State) : State :=
  s.engRun d e (opIs 0x21) legalEnd (cyc 1) (fun s _ => (s.engGo d e 1 (s.eng d e).pc).engEnd d e)

def execEngEnd (d : Die) (e : Eng) (s : State) : Ans := .next (doEngEnd d.val e.val s)

/-- WSV: only in window 7; function [0] RESTORE, all else 0 (R106). -/
def wsvIs (restore : Bool) (w : Word) : Bool := opIs 0x22 w && (Ins.imm w % 2 == 1) == restore

def legalWsv (d e : Nat) (s : State) (w : Word) : Bool := Ins.low26 w ≤ 1 && (s.eng d e).cwp == 7

/-- The 16 registers of a window to scratch bytes from `a`, and back. -/
def State.saveWindow (s : State) (d e win a : Nat) : State :=
  (List.range 16).foldl (fun s v => s.setScratchWord d e (a + 4 * v) (s.regIn d e win v)) s

def State.loadWindow (s : State) (d e win a : Nat) : State :=
  (List.range 16).foldl (fun s v =>
    let (_, s) := s.scratchCheck d e (a + 4 * v)
    s.setRegIn d e win v (s.scratchWord d e (a + 4 * v))) s

/-- WSV save (R106). WRES outside 1 to 7, by a save at 0 or a restore at 7, the rule leaves open: here it counts modulo 8
(DESIGN CHOICE, log entry 107). -/
def State.saveBody (s : State) (d e : Nat) : State :=
  let x := s.eng d e
  let a := x.spp.toNat
  if a < x.spl.toNat + 64 || 0x4000 < a then s.engFault d e Fc.addr
  else
    let s := s.saveWindow d e x.twin (a - 64)
    (s.setEng d e { x with spp := x.spp - 64, wres := (x.wres + 7) % 8 }).engDone d e 8

def doEngWsvSave (d e : Nat) (s : State) : State :=
  s.engRun d e (wsvIs false) (legalWsv d e) (cyc 8) (fun s _ => s.saveBody d e)

def execEngWsvSave (d : Die) (e : Eng) (s : State) : Ans := .next (doEngWsvSave d.val e.val s)

/-- WSV restore (R106); WRES as in `State.saveBody`. -/
def State.restoreBody (s : State) (d e : Nat) : State :=
  let x := s.eng d e
  let a := x.spp.toNat
  if s.fget (Csr.engSpill d e) EngSpill.top * 64 ≤ a || 0x4000 < a + 64 then s.engFault d e Fc.addr
  else
    let s := s.loadWindow d e x.twin a
    (s.setEng d e { s.eng d e with spp := x.spp + 64, wres := (x.wres + 1) % 8 }).engDone d e 8

def doEngWsvRestore (d e : Nat) (s : State) : State :=
  s.engRun d e (wsvIs true) (legalWsv d e) (cyc 8) (fun s _ => s.restoreBody d e)

def execEngWsvRestore (d : Die) (e : Eng) (s : State) : Ans := .next (doEngWsvRestore d.val e.val s)

/-! ## Special registers (R123) -/

/-- The value an MFS reads (Table 03-8); MSLO latches MSHI. -/
def State.special (s : State) (d e n : Nat) : Word :=
  let x := s.eng d e
  match n with
  | 0x00 => x.ost
  | 0x01 => BitVec.ofNat 32 (x.cwp % 8 + x.wres % 8 * 8 + x.depth % 256 * 64)
  | 0x02 => x.spp
  | 0x03 => x.spl
  | 0x04 => BitVec.ofNat 32 (x.tpc % 4096)
  | 0x05 => x.tcause
  | 0x06 => BitVec.ofNat 32 x.twin
  | 0x07 => BitVec.ofNat 32 (s.msOf d)
  | 0x08 => x.mshi
  | 0x09 => BitVec.ofNat 32 x.run
  | 0x0A => BitVec.ofNat 32 (ranksOf x.locks)
  | 0x0B => BitVec.ofNat 32 (e + d * 64 + s.engEpoch d e * 512)
  | _ => BitVec.ofNat 32 x.slot

def legalMfs (_ : State) (w : Word) : Bool := regOk (Ins.rd w) && Ins.rs1 w == 0 && Ins.imm w ≤ 0x0C

def doEngMfs (d e : Nat) (s : State) : State :=
  s.engRun d e (opIs 0x23) legalMfs (cyc 1) (fun s w =>
    let v := s.special d e (Ins.imm w)
    let s := if Ins.imm w == 7 then
        s.setEng d e { s.eng d e with mshi := BitVec.ofNat 32 (s.msOf d / 2 ^ 32) } else s
    (s.setReg d e (Ins.rd w) v).engDone d e 1)

def execEngMfs (d : Die) (e : Eng) (s : State) : Ans := .next (doEngMfs d.val e.val s)

def legalMts (_ : State) (w : Word) : Bool :=
  Ins.rd w == 0 && regOk (Ins.rs1 w) && 2 ≤ Ins.imm w && Ins.imm w ≤ 4

def doEngMts (d e : Nat) (s : State) : State :=
  s.engRun d e (opIs 0x24) legalMts (cyc 1) (fun s w =>
    let v := s.reg d e (Ins.rs1 w)
    let x := s.eng d e
    let x := match Ins.imm w with
      | 2 => { x with spp := v }
      | 3 => { x with spl := v }
      | _ => { x with tpc := v.toNat % 4096 }
    (s.setEng d e x).engDone d e 1)

def execEngMts (d : Die) (e : Eng) (s : State) : Ans := .next (doEngMts d.val e.val s)

/-! ## Directory operations (R130 to R132) -/

/-- A 52-bit line address in a pair. -/
def State.lineAddr (s : State) (d e c : Nat) : Nat := (s.pair d e c).toNat % 2 ^ 52

/-- The home slice answers: it exists, is on and tracks the line. -/
def State.tracked (s : State) (h addr : Nat) : Bool := s.dieOn h && !s.untracked h addr

/-- An earlier directory request of the engine has not reached the slice yet (R115): on its way, or in the slice's
buffer. -/
def State.dirPending (s : State) (d e h : Nat) : Bool :=
  (s.flying d e ++ (SMap.get [] s.xout (xkey h 11 0) ++ SMap.get [] s.xout (xkey h 11 3)).filter
      (fun x => fromEng d e x.msg)).any (fun x => x.msg.g Hd.dkind == 3 && x.die == h)

/-- The slice of die `h` can be reached by an access of an engine: the sluices of both dies pass (05 R197). -/
def State.sliceReady (s : State) (d e h : Nat) : Bool := s.sluiceOpen d && s.sluiceOpen h && !s.dirPending d e h

def legalDlook (_ : State) (w : Word) : Bool :=
  pairOk (Ins.rd w) && pairOk (Ins.rs1 w) && Ins.rs2 w == 0 && Ins.fn w == 0

/-- DLOOK: the entry as stored, or NOT_PRESENT and 0 (R130). -/
def State.dlookBody (s : State) (d e : Nat) (w : Word) : State :=
  let a := s.lineAddr d e (Ins.rs1 w)
  let h := homeDie s.part.k a
  let miss (s : State) : State := (s.setPair d e (Ins.rd w) 0).engDoneS d e 1 (ost St.notPresent false false 0)
  if !s.pathUp d h then miss s
  else if !s.sliceReady d e h then s.engStall d e
  else if !s.pathUp h d then s.engLost d e 1
  else if !s.tracked h a then miss s
  else
    let s := s.eccSet h (lineSet s.part.k a)
    match s.wayOf h a with
    | none => miss s
    | some y => (s.setPair d e (Ins.rd w) (s.entry h (lineSet s.part.k a) y)).engDoneS d e 1 (ost 0 false false 0)

def doEngDlook (d e : Nat) (s : State) : State :=
  s.engRun d e (opIs 0x25) legalDlook (cyc 1) (fun s w => s.dlookBody d e w)

def execEngDlook (d : Die) (e : Eng) (s : State) : Ans := .next (doEngDlook d.val e.val s)

/-- RANKS holds a rank at or above TXN_RANK of the engine's die (R132). -/
def State.rankBlocked (s : State) (d e : Nat) : Bool :=
  (s.eng d e).locks.any (fun l => s.fget (Csr.dirCtrl d) DirCtrl.txnRank ≤ l.2)

def legalDwr (_ : State) (w : Word) : Bool :=
  Ins.rd w == 0 && pairOk (Ins.rs1 w) && pairOk (Ins.rs2 w) && Ins.fn w == 0

/-- DWR: the outcomes of R131. -/
def State.dwrBody (s : State) (d e : Nat) (w : Word) : State :=
  let a := s.lineAddr d e (Ins.rs1 w)
  let v := s.pair d e (Ins.rs2 w)
  let k := s.part.k
  let h := homeDie k a
  let fin (s : State) (st : Nat) : State := s.engDoneS d e 1 (ost st false false 0)
  if s.rankBlocked d e then s.engFault d e Fc.rank
  else if !s.pathUp d h then s.engDoneS d e 1 (ost St.notPresent false false 0)
  else if !s.sliceReady d e h then s.engStall d e
  else if !s.pathUp h d then s.engLost d e 1
  else if !s.tracked h a then fin s St.notPresent
  else if (s.openOn h (a / 64)).isSome then s.engStall d e
  else if 4 ≤ De.state.get v || De.tag.get v ≠ lineTag k a then fin s St.badArgument
  else
    let set := lineSet k a
    let s := s.eccSet h set
    match (s.wayOf h a).orElse (fun _ => s.freeWay h set) with
    | none => fin s St.busy
    | some y => fin (s.setEntry h set y (if De.state.get v == 0 then 0 else De.ms.put v (s.msOf h))) 0

def doEngDwr (d e : Nat) (s : State) : State :=
  s.engRun d e (opIs 0x26) legalDwr (cyc 1) (fun s w => s.dwrBody d e w)

def execEngDwr (d : Die) (e : Eng) (s : State) : Ans := .next (doEngDwr d.val e.val s)

/-! ## Messages (R124 to R128) -/

/-- OUT as SEND transmits it: the header and the first BEATS data beats. -/
def outMsg (x : Engine) : Msg :=
  let n := x.out.g Hd.beats
  { x.out with beats := (x.out.beats ++ List.replicate (n - x.out.beats.length) 0).take n }

/-- SEND: imm[0] RES, imm[1] ANS, imm[15:2] 0, rs1 0; the message rules of R124. -/
def legalSend (d e : Nat) (s : State) (w : Word) : Bool :=
  let m := (s.eng d e).out
  let vc := m.g Hd.vc
  regOk (Ins.rd w) && Ins.rs1 w == 0 && Ins.imm w < 4 && vc ≤ 3 && m.g Hd.beats ≤ 8 &&
  (m.g Hd.beats == 0 || vc == 0 || vc == 3) && m.g Hd.dkind ≤ 4

/-- Where a message goes: the die and endpoint, or none when it is discarded at SEND (R124). -/
def State.sendTarget (s : State) (d : Nat) (m : Msg) : Option (Nat × Nat) :=
  match m.g Hd.dkind with
  | 0 => let p := m.g Hd.destPort; if s.portUp p then some (portDie p, p % 8) else none
  | 1 => if s.populated (m.g Hd.destDie) then some (m.g Hd.destDie, 12) else none
  | 2 =>
    if 3 ≤ m.g Hd.destRoute then none
    else (s.routeTo d (m.g Hd.destRoute) (m.g Hd.destBank) m).map (fun p => (portDie p, p % 8))
  | 3 => some (homeDie s.part.k (m.g Hd.addr), 11)
  | _ => if s.populated (m.g Hd.destDie) then some (m.g Hd.destDie, endpointOf (m.g Hd.destIdx)) else none

/-- A message routed to a port carries DKIND 0 and that port (01 R45). -/
def routed (m : Msg) (die ep : Nat) : Msg :=
  if m.g Hd.dkind == 2 then (m.w Hd.dkind 0).w Hd.dest (die * 8 + ep) else m

/-- SEND: the engine's own header fields, the reserved buffer, and the message's entry into the crossbar (R124, R125).
NEEDRSP is RES, also where DKIND 1 or 3 reserves a buffer without it; XTAG is the engine's own when RES = 1. -/
def State.sendBody (s : State) (d e : Nat) (w : Word) : State :=
  let x := s.eng d e
  let m := outMsg x
  let dk := m.g Hd.dkind
  let rsp := Ins.imm w % 2 == 1
  let res := rsp || dk == 1 || dk == 3
  let vc := m.g Hd.vc
  if x.onSnp && (vc == 0 || vc == 2) then s.engFault d e Fc.rank
  else if res && 4 ≤ x.bufs.length then s.engStall d e
  else if !s.sluiceOpen d || !s.fitsIn d (engEndpoint e) m then s.engStall d e
  else
    let dest := s.sendTarget d m
    let (n, s) := s.draw
    let tag := if rsp then pickTag x.bufs (Config.freeWord n).toNat else m.g Hd.xtag
    let m := ((m.w Hd.srcDie d).w Hd.srcIdx (engIdx e)).w Hd.needRsp (b2n rsp)
    let m := m.w Hd.xtag tag
    let m := if dk == 3 || vc == 2 then s.stamp d m else m.w Hd.stamped 0
    let x := { x with answered := x.answered || Ins.imm w / 2 % 2 == 1 }
    let cost := 1 + m.g Hd.beats
    match dest with
    | none =>
      let x := if res then reserve x tag false (dk == 3) (some (m.replyTo d (engIdx e) St.notPresent)) else x
      let s := (s.setEng d e x).setReg d e (Ins.rd w) (BitVec.ofNat 32 tag)
      s.engDoneS d e cost (ost St.notPresent false false 0)
    | some (die, ep) =>
      let x := if res then reserve x tag false (dk == 3) none else x
      let s := (s.setEng d e x).setReg d e (Ins.rd w) (BitVec.ofNat 32 tag)
      let s := s.inject d (engEndpoint e) (routed m die ep) die ep
      s.engDoneS d e cost (ost 0 false false 0)

def doEngSend (d e : Nat) (s : State) : State :=
  s.engRun d e (opIs 0x27) (legalSend d e) (fun s _ => 1 + (s.eng d e).out.g Hd.beats) (fun s w => s.sendBody d e w)

def execEngSend (d : Die) (e : Eng) (s : State) : Ans := .next (doEngSend d.val e.val s)

def legalWaitr (_ : State) (w : Word) : Bool :=
  Ins.rd w == 0 && regOk (Ins.rs1 w) && Ins.rs2 w == 0 && Ins.fn w == 0

/-- The STATUS of a claimed response: word 13 of a hard unit's or an engine's, OK of a link's, which its headgate sent on
(R125). -/
def rspStatus (m : Msg) : Nat := if m.g Hd.srcIdx < 8 && m.name.responds then 0 else m.g Hd.status

def State.waitrBody (s : State) (d e : Nat) (w : Word) : State :=
  let x := s.eng d e
  let tag := (s.reg d e (Ins.rs1 w)).toNat % 65536
  match x.bufs.find? (fun b => b.xtag == tag && !b.claimed && !b.unit) with
  | none => s.engFault d e Fc.unreserved
  | some b =>
    if b.dir && s.rankBlocked d e then s.engFault d e Fc.rank
    else match b.rsp with
      | none => s.engStall d e
      | some m =>
        let bufs := (x.bufs.filter (fun c => !c.claimed)).map (fun c => if c.xtag == tag then { c with claimed := true } else c)
        let s := s.setEng d e { x with bufs := bufs, rsp := some m }
        s.engDoneS d e 1 (ost (rspStatus m) m.poisoned false 0)

def doEngWaitr (d e : Nat) (s : State) : State :=
  s.engRun d e (opIs 0x28) legalWaitr (cyc 1) (fun s w => s.waitrBody d e w)

def execEngWaitr (d : Die) (e : Eng) (s : State) : Ans := .next (doEngWaitr d.val e.val s)

/-- ENGINE_RESPONSE_ARRIVE: the next response at a cluster's endpoint reaches its engine's buffer, or is late (R125); the
response to an access by message ends that access. -/
def doEngineResponseArrive (d c : Nat) (vc : Vc) (s : State) : State :=
  if !s.sluiceOpen d then s
  else
    match s.takeOut d (13 + c) (Vc.code vc) with
    | none => s
    | some (x, s) =>
      let m := x.msg
      let e := (m.g Hd.destIdx - 8) % 64
      let y := s.eng d e
      if m.g Hd.dkind == 4 && y.bufs.any (fun b => b.xtag == m.g Hd.xtag && b.unit) then s.accDone d e m
      else if m.g Hd.dkind == 4 && y.bufs.any (fun b => b.xtag == m.g Hd.xtag && b.rsp.isNone) then
        s.setEng d e { y with bufs := y.bufs.map (fun b =>
          if b.xtag == m.g Hd.xtag && b.rsp.isNone then { b with rsp := some m } else b) }
      else s.count (Csr.engMiscCnt d) EngMiscCnt.lateRsp 1

def execEngineResponseArrive (d : Die) (c : Fin 8) (vc : Vc) (s : State) : Ans :=
  .next (doEngineResponseArrive d.val c.val vc s)

/-- FWCP: function [0] ALL, the other fields 0. -/
def legalFwcp (_ : State) (w : Word) : Bool := Ins.low26 w ≤ 1

def inBeats (x : Engine) : Nat := match x.inMsg with | some m => m.msg.g Hd.beats | none => 0

def fwcpCost (x : Engine) (w : Word) : Nat := if Ins.fn w == 1 then 1 + inBeats x else 1

/-- The OUT that FWCP leaves: the IN header, and with ALL its data beats in place (R118). -/
def fwcpOut (x : Engine) (all : Bool) : Msg :=
  let m := match x.inMsg with | some m => m.msg | none => Msg.blank
  { m with beats := if all then m.beats ++ x.out.beats.drop m.beats.length else x.out.beats }

def doEngFwcp (d e : Nat) (s : State) : State :=
  s.engRun d e (opIs 0x29) legalFwcp (fun s w => fwcpCost (s.eng d e) w) (fun s w =>
    let x := s.eng d e
    (s.setEng d e { x with out := fwcpOut x (Ins.fn w == 1) }).engDone d e (fwcpCost x w))

def execEngFwcp (d : Die) (e : Eng) (s : State) : Ans := .next (doEngFwcp d.val e.val s)

/-! ## Bank atomics and ditches (R133, R135; 07 R241, R253) -/

def batomIs (swap : Bool) (w : Word) : Bool := opIs 0x2A w && (Ins.fn w % 2 == 1) == swap

def legalBatom (_ : State) (w : Word) : Bool :=
  pairOk (Ins.rd w) && regOk (Ins.rs1 w) && pairOk (Ins.rs2 w) && Ins.fn w ≤ 1

/-- BATOM: sent to the bank; rd receives the old value when the bank grants it (07 R241). -/
def State.batomBody (s : State) (d e : Nat) (w : Word) (op : BitVec 64 → BankOp) : State :=
  let a := (s.reg d e (Ins.rs1 w)).toNat
  let x := s.eng d e
  let op := op (s.pair d e (Ins.rs2 w))
  match s.unitAt a with
  | .bank dd b o =>
    if o % 8 ≠ 0 then s.engFault d e Fc.addr
    else if !s.sluiceOpen d then s.engStall d e
    else if dd == d then
      (s.askBank d e b (o / 8) none op).setEng d e { x with run := x.run + 1, wait := .bank (Ins.rd w) true true }
    else
      match s.askBankMsg d e a dd op with
      | none => s.engStall d e
      | some (tag, s) => s.setEng d e { s.eng d e with run := x.run + 1, wait := .resp tag (some (Ins.rd w)) true none }
  | _ => s.engFault d e Fc.addr

def doEngBatomFetchAdd (d e : Nat) (s : State) : State :=
  s.engRun d e (batomIs false) legalBatom (cyc 1) (fun s w => s.batomBody d e w BankOp.fetchAdd)

def doEngBatomSwap (d e : Nat) (s : State) : State :=
  s.engRun d e (batomIs true) legalBatom (cyc 1) (fun s w => s.batomBody d e w BankOp.swap)

def execEngBatomFetchAdd (d : Die) (e : Eng) (s : State) : Ans := .next (doEngBatomFetchAdd d.val e.val s)
def execEngBatomSwap (d : Die) (e : Eng) (s : State) : Ans := .next (doEngBatomSwap d.val e.val s)

/-- The ditch an instruction names: (rs1 + imm[5:0]) mod 64. -/
def State.ditchOf (s : State) (d e : Nat) (w : Word) : Nat := ((s.reg d e (Ins.rs1 w)).toNat + Ins.imm w % 64) % 64

def legalDqpush (_ : State) (w : Word) : Bool := pairOk (Ins.rd w) && regOk (Ins.rs1 w) && Ins.imm w < 512

/-- DQPUSH: the item joins the engine's push buffer, or is dropped when it is full (07 R253). -/
def State.dqpushBody (s : State) (d e : Nat) (w : Word) : State :=
  let x := s.eng d e
  let q := s.ditchOf d e w
  let i : DitchItem := { data := s.pair d e (Ins.rd w), prio := ⟨Ins.imm w / 64 % 8, by omega⟩, poison := false }
  let s := if x.pushes.length < 4 then
      State.setEng { s with serial := s.serial + 1 } d e { x with pushes := x.pushes ++ [⟨s.serial, q, i⟩] }
    else (s.count (Csr.dqCnt d q) DqCnt.drop 1).noticeLim d 0x0407 0 [(1, d), (1, q), (1, e)]
  s.engDoneS d e 2 (ost 0 false false 0)

def doEngDqpush (d e : Nat) (s : State) : State :=
  s.engRun d e (opIs 0x2B) legalDqpush (cyc 2) (fun s w => s.dqpushBody d e w)

def execEngDqpush (d : Die) (e : Eng) (s : State) : Ans := .next (doEngDqpush d.val e.val s)

def legalDqpop (_ : State) (w : Word) : Bool :=
  pairOk (Ins.rd w) && regOk (Ins.rs1 w) && Ins.imm w < 1024 && Ins.imm w / 64 % 8 == 0

/-- An engine competes for a pop of a ditch: it stands at a DQPOP of it that has been turned away and can be served, `empty`
telling that no item is visible (07 R253). -/
def State.popWaits (s : State) (d q : Nat) (empty : Bool) (e : Nat) : Bool :=
  s.canRun d e && (s.eng d e).wait == .retry && !(s.eng d e).pushes.any (·.q == q) &&
    (s.fetched d e).any (fun w => opIs 0x2C w && s.ditchOf d e w == q && !(empty && Ins.imm w / 512 % 2 == 1))

/-- The engine-pop slot of a ditch goes to an engine: round-robin in order of engine number among those that compete for it
(07 R253). -/
def State.popTurn (s : State) (d q : Nat) (empty : Bool) (e : Nat) : Bool :=
  firstFrom 64 (SMap.get 0 s.ditchRr (512 + dqKey d q)) (fun i => i == e || s.popWaits d q empty i) == some e

/-- DQPOP: the engine pop of a BANK cycle; with W = 1 and no visible item it takes no turn (07 R253, R254). It waits for the
engine's own earlier pushes to the ditch (R115). -/
def State.dqpopBody (s : State) (d e : Nat) (w : Word) : State :=
  let q := s.ditchOf d e w
  let t := s.ditchTurn d q 3
  if !s.sluiceOpen d || (s.eng d e).pushes.any (·.q == q) then s.engStall d e
  else if Ins.imm w / 512 % 2 == 1 && (t.ditch d q).drain.isEmpty then s.engStall d e
  else if !s.popTurn d q (t.ditch d q).drain.isEmpty e then s.engStall d e
  else
    let t := { t with ditchRr := SMap.set 0 t.ditchRr (512 + dqKey d q) ((e + 1) % 64) }
    let (i, idle, s) := t.ditchPop d q e
    (s.setPair d e (Ins.rd w) i.data).engDoneS d e 2 (ost 0 i.poison idle i.prio.val)

def doEngDqpop (d e : Nat) (s : State) : State :=
  s.engRun d e (opIs 0x2C) legalDqpop (cyc 2) (fun s w => s.dqpopBody d e w)

def execEngDqpop (d : Die) (e : Eng) (s : State) : Ans := .next (doEngDqpop d.val e.val s)

/-! ## Locks (R138, R139) -/

def lockIs (rel : Bool) (w : Word) : Bool := opIs 0x2E w && (Ins.imm w / 16 % 2 == 1) == rel

def legalLock (_ : State) (w : Word) : Bool := Ins.rd w == 0 && regOk (Ins.rs1 w) && Ins.imm w < 32

/-- The engine holds the lock: recorded, and the instruction completes (R139 step 2). -/
def State.lockGranted (s : State) (d e : Nat) (key : Word) (rank : Nat) (cost : Nat) : State :=
  let x := s.eng d e
  (s.setEng d e { x with locks := x.locks ++ [(key, rank)] }).engDoneS d e cost (ost 0 false false 0)

/-- A new lock in a table that has room, held by an engine. -/
def State.newLock (s : State) (key : Word) (rank d e : Nat) : State :=
  let kd := keyDie key
  s.setLocks kd (SMap.get [] s.locks kd ++ [{ key := key, rank := rank, holder := some (d, e) }])

/-- Claims wait for a free entry of a die's lock table (R138). -/
def State.entryClaims (s : State) (kd : Nat) : List Claim := s.claims.filter (fun c => c.die == kd && (s.lockOf c.key).isNone)

/-- LOCK with REL = 0 (R138, R139). A claim reaches its table at once (log entry 106); while a release of the key by the
same engine is on its way, the claim waits behind it (R115). A grant that cannot come back leaves the engine waiting. -/
def State.lockBody (s : State) (d e : Nat) (w : Word) : State :=
  let x := s.eng d e
  let key := s.reg d e (Ins.rs1 w)
  let rank := Ins.imm w % 16
  let kd := keyDie key
  let hold (s : State) : State := s.setEng d e { x with run := x.run + 1, wait := .lock key rank }
  let wait (s : State) : State := hold { s with claims := s.claims ++ [(⟨kd, key, rank, d, e, x.esc⟩ : Claim)] }
  if x.onSnp && rank ≤ s.fget (Csr.dirCtrl d) DirCtrl.txnRank then s.engFault d e Fc.rank
  else if x.locks.any (fun l => rank ≤ l.2) then s.engFault d e Fc.rank
  else if bitOf key.toNat 31 then s.engDoneS d e 1 (ost St.badArgument false false 0)
  else if !s.populated kd then s.engDoneS d e 1 (ost St.notPresent false false 0)
  else if !s.pathUp d kd then s.engLost d e 1
  else if s.lockOnWay d e key then s.engStall d e
  else
    match s.lockOf key with
    | some l => if l.rank ≠ rank then s.engFault d e Fc.rank else wait s
    | none =>
      if (SMap.get [] s.locks kd).length < 256 && (s.entryClaims kd).isEmpty then
        let s := s.newLock key rank d e
        if s.pathUp kd d then s.lockGranted d e key rank 1 else hold s
      else wait s

def doEngLock (d e : Nat) (s : State) : State :=
  s.engRun d e (lockIs false) legalLock (cyc 1) (fun s w => s.lockBody d e w)

def execEngLock (d : Die) (e : Eng) (s : State) : Ans := .next (doEngLock d.val e.val s)

/-- LOCK with REL = 1: a held lock is released by an ESC message and its rank bit cleared; a lock not held changes nothing;
where the table was emptied, the status is BAD_ARGUMENT (R138, R139). -/
def State.unlockBody (s : State) (d e : Nat) (w : Word) : State :=
  let x := s.eng d e
  let key := s.reg d e (Ins.rs1 w)
  if !x.locks.any (·.1 == key) then s.engDoneS d e 1 (ost St.badArgument false false 0)
  else
    let ok := s.holdsLock key d e
    let s := (s.setEng d e { x with locks := x.locks.filter (·.1 ≠ key) }).lockEsc d e .escRelease key
    s.engDoneS d e 1 (ost (if ok then 0 else St.badArgument) false false 0)

def doEngLockRelease (d e : Nat) (s : State) : State :=
  s.engRun d e (lockIs true) legalLock (cyc 1) (fun s w => s.unlockBody d e w)

def execEngLockRelease (d : Die) (e : Eng) (s : State) : Ans := .next (doEngLockRelease d.val e.val s)

/-- The wake of a granted claim leaves for its engine on ESC (R139; 02 R94). -/
def State.wakeClaim (s : State) (c : Claim) : State :=
  let m := (((escMsg .escWake).w Hd.srcDie c.die).w Hd.srcIdx 73).w Hd.addr c.key.toNat
  s.inject c.die 12 ((m.w Hd.destDie c.eDie).w Hd.destIdx (engIdx c.eng)) c.eDie (engEndpoint c.eng)

/-- A wake reaches its engine (R139): the instruction that waits for the lock completes. -/
def State.wakeArrives (s : State) (d e : Nat) (key : Word) : State :=
  match (s.eng d e).wait with
  | .lock k rank => if k == key && (s.eng d e).running then s.lockGranted d e key rank 0 else s
  | _ => s

/-- Serves a claim: a rank that differs from the lock's faults, else the lock is the claimant's, and its wake leaves (R139;
02 R95). -/
def State.serveClaim (s : State) (c : Claim) : State :=
  let s := { s with claims := s.claims.erase c }
  match s.lockOf c.key with
  | none => (s.newLock c.key c.rank c.eDie c.eng).wakeClaim c
  | some l =>
    if l.rank ≠ c.rank then (s.engFault c.eDie c.eng Fc.rank).sweepLocks c.die
    else
      let t := (SMap.get [] s.locks c.die).map (fun x =>
        if x.key == c.key then { x with holder := some (c.eDie, c.eng) } else x)
      (s.setLocks c.die t).wakeClaim c

/-- LOCK_WAKE: a released lock, or (no key) a freed entry of the table, goes to the next waiter in order (R138). -/
def doLockWake (d : Nat) (key : Option Word) (s : State) : State :=
  if !s.clockOn d then s
  else
    match key with
    | some k =>
      match s.lockOf k with
      | some l =>
        if keyDie k ≠ d || l.holder.isSome then s
        else match firstClaim (s.claims.filter (·.key == k)) with
          | some c => s.serveClaim c
          | none => s
      | none => s
    | none =>
      if 256 ≤ (SMap.get [] s.locks d).length then s
      else match firstClaim (s.entryClaims d) with
        | some c => s.serveClaim c
        | none => s

def execLockWake (d : Die) (key : Option Word) (s : State) : Ans := .next (doLockWake d.val key s)

/-! ## Fences (R140, R141) -/

def fenceIs (notify : Bool) (w : Word) : Bool := opIs 0x2F w && (Ins.fn w % 2 == 1) == notify

def legalFenceWait (_ : State) (w : Word) : Bool :=
  pairOk (Ins.rd w) && Ins.rs1 w == 0 && Ins.rs2 w == 0 && Ins.fn w == 0

/-- FENCE with MODE 0: waits until the earlier operations have landed, then rd holds the milestone (R140). -/
def State.fenceBody (s : State) (d e : Nat) (w : Word) : State :=
  if s.landed d e then
    (s.setPair d e (Ins.rd w) (BitVec.ofNat 64 (s.msOf d))).engDoneS d e 1 (ost 0 false false 0)
  else s.engStall d e

def doEngFenceWait (d e : Nat) (s : State) : State :=
  s.engRun d e (fenceIs false) legalFenceWait (cyc 1) (fun s w => s.fenceBody d e w)

def execEngFenceWait (d : Die) (e : Eng) (s : State) : Ans := .next (doEngFenceWait d.val e.val s)

def legalFenceNotify (_ : State) (w : Word) : Bool :=
  Ins.rd w == 0 && regOk (Ins.rs1 w) && Ins.rs2 w == 0 && Ins.fn w == 1

/-- FENCE with MODE 1: registers a notify fence over what was issued before it; waits while 4 are pending (R141). -/
def State.notifyBody (s : State) (d e : Nat) (w : Word) : State :=
  let x := s.eng d e
  if 4 ≤ x.fences.length then s.engStall d e
  else
    let f : NFence := { target := s.reg d e (Ins.rs1 w), ids := s.issued d e }
    (s.setEng d e { x with fences := x.fences ++ [f] }).engDoneS d e 1 (ost 0 false false 0)

def doEngFenceNotify (d e : Nat) (s : State) : State :=
  s.engRun d e (fenceIs true) legalFenceNotify (cyc 1) (fun s w => s.notifyBody d e w)

def execEngFenceNotify (d : Die) (e : Eng) (s : State) : Ans := .next (doEngFenceNotify d.val e.val s)

/-- The completion of a notify fence: a one-beat RSP message, stamped, to the event of its target (R141). -/
def State.fenceMsg (s : State) (d e : Nat) (t : Word) : Msg :=
  let m := ((Msg.blank.w Hd.vc 1).w Hd.dkind 1).w Hd.destDie (t.toNat % 8)
  let m := (m.w Hd.destSlot (t.toNat / 8 % 1024)).w Hd.destFlag (t.toNat / 2 ^ 13 % 32)
  s.stamp d (((m.w Hd.epoch (t.toNat / 2 ^ 18 % 64)).w Hd.srcDie d).w Hd.srcIdx (engIdx e))

/-- FENCE_COMPLETION_SEND: the oldest notify fence of the engine, once what it covers has landed (R141). -/
def doFenceCompletionSend (d e : Nat) (s : State) : State :=
  let x := s.eng d e
  match x.fences with
  | [] => s
  | f :: fs =>
    if !(s.clockOn d && s.fenceClear d e f) then s
    else
      let s := s.setEng d e { x with fences := fs }
      let t := f.target.toNat % 8
      if s.populated t then s.inject d (engEndpoint e) (s.fenceMsg d e f.target) t 12 else s

def execFenceCompletionSend (d : Die) (e : Eng) (s : State) : Ans := .next (doFenceCompletionSend d.val e.val s)

/-! ## Illegal instructions, budget and wait limit -/

/-- ILLEGAL: a reserved opcode, or execution past index 4,095; an uncorrectable word at the fetch is fault STORE_ECC
(R109, R120, R145). -/
def doEngIllegal (d e : Nat) (s : State) : State :=
  if !s.canRun d e then s
  else
    let x := s.eng d e
    if x.budget ≤ x.run then s.engFault d e Fc.budget
    else if 4096 ≤ x.pc then s.engFault d e Fc.illegal
    else match s.fetched d e with
      | none => (s.count (Csr.engEccCnt d) EngEccCnt.uncorr 1).engFault d e Fc.storeEcc
      | some w => if 0x30 ≤ Ins.op w then s.engFault d e Fc.illegal else s

def execEngIllegal (d : Die) (e : Eng) (s : State) : Ans := .next (doEngIllegal d.val e.val s)

/-- BUDGET_FAULT: RUN would exceed the budget at the start of the next run cycle (R111). -/
def doBudgetFault (d e : Nat) (s : State) : State :=
  if s.canRun d e && (s.eng d e).budget ≤ (s.eng d e).run then s.engFault d e Fc.budget else s

def execBudgetFault (d : Die) (e : Eng) (s : State) : Ans := .next (doBudgetFault d.val e.val s)

/-- WAIT_LIMIT: a wait has lasted 4,000 ENG cycles (02 R96; R143): below level 3 the task is requeued one level up, at
level 3 its transaction ends with the engine-fault response. -/
def doWaitLimit (d e : Nat) (s : State) : State :=
  let x := s.eng d e
  if !(s.clockOn d && x.running && x.wait != .none) then s
  else
    let fin := 3 ≤ x.esc
    let s := s.count (Csr.dirWaitCnt d) DirWaitCnt.aborts 1
    let s := if fin then s.count (Csr.dirWaitCnt d) DirWaitCnt.final 1 else s
    let fs := [(1, d), (1, e), (2, x.slot), (1, x.esc), (1, b2n fin)]
    let s := if fin then s.notice d 0x0205 fs else s.noticeLim d 0x0205 0 fs
    if fin then
      let s := (s.dropReads d e).dropLocks d e
      let s := ((s.faultResponse d e).consumeIn d e).engIdle d e true
      s.taskComplete d x.slot
    else s.engAbort d e (x.esc + 1)

def execWaitLimit (d : Die) (e : Eng) (s : State) : Ans := .next (doWaitLimit d.val e.val s)

/-! ## Register writes of an engine (R106, R149, R151) -/

/-- ENG_PARK: PARK removes the engine from dispatch, or returns it. -/
def doEngPark (d e : Nat) (p : Bool) (s : State) : State :=
  if s.dieOn d then s.fset (Csr.engCtrl d e) EngCtrl.park (b2n p) else s

def execEngPark (d : Die) (e : Eng) (park : Bool) (s : State) : Ans := .next (doEngPark d.val e.val park s)

/-- ENG_EPOCH_WRITE: the role epoch; ignored while PARKED = 0. Tasks may become UNSERVABLE or end it (04 R166). -/
def doEngEpochWrite (d e epoch : Nat) (s : State) : State :=
  if s.dieOn d && s.parked d e then (s.fset (Csr.engCtrl d e) EngCtrl.epoch epoch).evalServableAll d else s

def execEngEpochWrite (d : Die) (e : Eng) (epoch : Fin 64) (s : State) : Ans :=
  .next (doEngEpochWrite d.val e.val epoch.val s)

/-- ENG_HALT: only by a host that holds ENGDBG (R151). -/
def doEngHalt (d e : Nat) (h : HostId) (halt : Bool) (s : State) : State :=
  if s.dieOn d && s.holds h Right.engdbg then s.fset (Csr.engCtrl d e) EngCtrl.halt (b2n halt) else s

def execEngHalt (d : Die) (e : Eng) (h : HostId) (halt : Bool) (s : State) : Ans :=
  .next (doEngHalt d.val e.val h halt s)

/-- The next index of ENG_HS_SEL, wrapping at 4,095. -/
def State.hsAdvance (s : State) (d : Nat) : State :=
  s.fset (Csr.engHsSel d) EngHsSel.index ((s.fget (Csr.engHsSel d) EngHsSel.index + 1) % 4096)

/-- The word an ENG_HS_DATA read returns: 0 for an engine that is not parked (R149). -/
def State.hsWord (s : State) (d : Nat) : Word :=
  let e := s.fget (Csr.engHsSel d) EngHsSel.engine
  if s.parked d e then s.storeWord d e (s.fget (Csr.engHsSel d) EngHsSel.index) else 0

/-- ENG_HS_DATA_ACCESS: a read (no word) or a write of a parked engine's handler store (R149). -/
def doEngHsDataAccess (d : Nat) (w : Option Word) (s : State) : State :=
  if !s.dieOn d then s
  else
    let e := s.fget (Csr.engHsSel d) EngHsSel.engine
    let i := s.fget (Csr.engHsSel d) EngHsSel.index
    if !s.parked d e then (s.flag (Csr.engHsSel d) EngHsSel.err).hsAdvance d
    else
      let s := match w with
        | some v => s.setStoreWord d e i v
        | none => s
      s.hsAdvance d

def execEngHsDataAccess (d : Die) (w : Option Word) (s : State) : Ans := .next (doEngHsDataAccess d.val w s)

/-- ENG_SPILL_WRITE: discarded in full when TOP is above 256 or LIMIT above TOP (R106). -/
def doEngSpillWrite (d e : Nat) (v : Word) (s : State) : State :=
  let top := EngSpill.top.get v
  let lim := EngSpill.limit.get v
  if !s.dieOn d || 256 < top || top < lim then s
  else (s.fset (Csr.engSpill d e) EngSpill.top top).fset (Csr.engSpill d e) EngSpill.limit lim

def execEngSpillWrite (d : Die) (e : Eng) (v : Word) (s : State) : Ans := .next (doEngSpillWrite d.val e.val v s)

/-- ENGINE_PORT_FABRIC: the fabric puts a word into the inward FIFO, or takes one from the outward FIFO (R142). -/
def doEnginePortFabric (d e : Nat) (push : Option Word) (s : State) : State :=
  let x := s.eng d e
  if !s.portOpen d (engReach e) then s
  else
    match push with
    | some w => if x.portIn.length < 4 then s.setEng d e { x with portIn := x.portIn ++ [w] } else s
    | none =>
      match x.portOut with
      | [] => s
      | w :: r => (s.setEng d e { x with portOut := r }).toFabric d (0x300 + e) [⟨wordsOf 2 w.toNat, false, false⟩]

def execEnginePortFabric (d : Die) (e : Eng) (push : Option Word) (s : State) : Ans :=
  .next (doEnginePortFabric d.val e.val push s)

end Sys2Proof.Machine
end

