-- ==== Sys2Proof/Machine/Scheduler.lean ====
section
/-! DEFINITION. Dispatch (04 R159 to R164), heat allotments (04 R171 to R176), and the milestone and its PLLs (05 R194 to
R197). -/

namespace Sys2Proof.Machine

/-! ## Ready lists (R161, R162) -/

/-- The list a READY task stands in: PRIO, or once the EPRIO of a requeue (R160, R170). -/
def State.listPrio (s : State) (d n : Nat) : Nat :=
  (s.taskX d n).onceAt.getD (s.fget (Csr.taskW0 d n) TaskW0.prio)

/-- Age stamp `a` is older than `b`: their signed difference modulo 2^32 (R161). -/
def older (a b : Nat) : Bool := decide (signedOf 32 (a + 2 ^ 32 - b % 2 ^ 32) < 0)

/-- Inserts a slot into a list kept oldest first. -/
def State.insertAge (s : State) (d n : Nat) : List Nat → List Nat
  | [] => [n]
  | m :: ms => if older (s.taskX d n).stamp (s.taskX d m).stamp then n :: m :: ms else m :: s.insertAge d n ms

/-- A ready list, oldest first. -/
def State.readyList (s : State) (d p : Nat) : List Nat :=
  ((List.range 1024).filter (fun n => s.taskState d n == TSt.ready && s.taskValid d n && s.listPrio d n == p)).foldl
    (fun l n => s.insertAge d n l) []

/-! ## Allotments (R171 to R174) -/

/-- A cluster's balance, signed. -/
def State.balance (s : State) (d c : Nat) : Int := signedOf 18 (s.fget (Csr.pmuAllot d c) PmuAllot.balance)

def State.setBalance (s : State) (d c : Nat) (v : Int) : State :=
  s.fset (Csr.pmuAllot d c) PmuAllot.balance (wrapInt 18 v)

/-- The running SCHED cycle: 0.5 ns, as a FLIT cycle (05 Table 05-1). -/
def State.schedNow (s : State) : Nat := s.ticks

def State.schedSt (s : State) (d : Nat) : SchedSt := SMap.get SchedSt.reset s.sched d

def State.setSched (s : State) (d : Nat) (x : SchedSt) : State :=
  { s with sched := SMap.set SchedSt.reset s.sched d x }

/-- The balance that dispatch looks at: in the cycle of a refill, the one before it (R175). -/
def State.testBalance (s : State) (d c : Nat) : Int :=
  let x := s.schedSt d
  if x.refillAt == s.schedNow + 1 then x.before.getD c (s.balance d c) else s.balance d c

/-- A cluster is open to a task of an EPRIO (R174). -/
def State.clusterOpen (s : State) (d c eprio : Nat) : Bool :=
  if eprio == 0 then decide (-256 < s.testBalance d c) else decide (0 < s.testBalance d c)

/-- A free engine: PARKED, RUNNING and HALTED 0 (R153), and not being parked (03 R149). -/
def State.engFree (s : State) (d e : Nat) : Bool :=
  !s.fbit (Csr.engCtrl d e) EngCtrl.park && !(s.eng d e).running && !s.halted d e

/-- Placeable for a task (R163). -/
def State.placeable (s : State) (d n p e : Nat) : Bool :=
  s.engFree d e && s.eligible d n e && s.clusterOpen d (e / 8) p

/-- The cluster with the largest balance of a list, ties to the first (R163 step 3). -/
def State.richest (s : State) (d : Nat) : List Nat → Option Nat
  | [] => none
  | c :: cs =>
    match s.richest d cs with
    | none => some c
    | some b => if s.testBalance d b ≤ s.testBalance d c then some c else some b

/-- The engine R163 chooses, with the step that chose it. -/
def State.chooseEngine (s : State) (d n p : Nat) : Option (Nat × Nat) :=
  let last := s.fget (Csr.taskW3 d n) TaskW3.last
  let aff := (s.taskX d n).affinity
  let inCluster (c : Nat) : Option Nat := ((List.range 8).map (8 * c + ·)).find? (s.placeable d n p)
  if aff && s.placeable d n p last then some (last, 1)
  else
    match (if aff then inCluster (last / 8) else none) with
    | some e => some (e, 2)
    | none =>
      match s.richest d ((List.range 8).filter (fun c => (inCluster c).isSome)) with
      | none => none
      | some c => (inCluster c).map (·, 3)

/-- A task skipped only because every cluster of its eligible set is closed to it (R174): the clusters. -/
def State.closedOut (s : State) (d n : Nat) : List Nat :=
  let p := s.eprio d n
  let cl := (List.range 8).filter (fun c => (List.range 8).any (fun i => s.eligible d n (8 * c + i)))
  let free := (List.range 64).any (fun e => s.engFree d e && s.eligible d n e)
  if free && cl.all (fun c => !s.clusterOpen d c p) then cl else []

/-- The oldest ready task of each list that is skipped only for heat, with the clusters that hold it back (R174). -/
def State.heldBack (s : State) (d : Nat) : List (Nat × List Nat) :=
  (List.range 8).filterMap (fun p => (s.readyList d p).head?.bind (fun n =>
    match s.closedOut d n with
    | [] => none
    | cl => some (n, cl)))

/-- SKIPS of a cycle: each cluster that holds back the oldest task of some list once, and ALLOT_EMPTY for each such task
(R174). -/
def State.countSkips (s : State) (d : Nat) : State :=
  let held := s.heldBack d
  let cl := (List.range 8).filter (fun c => held.any (fun h => h.2.contains c))
  let s := cl.foldl (fun s c => s.count (Csr.pmuGateCnt d c) PmuGateCnt.skips 1) s
  held.foldl (fun s h =>
    s.noticeLim d 0x0303 0 [(1, d), (2, h.1), (1, s.fget (Csr.taskW0 d h.1) TaskW0.clmask), (1, s.eprio d h.1)]) s

/-! ## Dispatch -/

/-- The task the scan takes: lists 0 to 7, oldest first, the first for which R163 finds an engine (R162 step 3). -/
def State.scan (s : State) (d : Nat) : Option (Nat × Nat × Nat) :=
  (List.range 8).findSome? (fun p => (s.readyList d p).findSome? (fun n =>
    (s.chooseEngine d n (s.eprio d n)).map (fun c => (n, c.1, c.2))))

/-- Window 0 at dispatch (03 R103). -/
def State.loadWindow0 (s : State) (d e n v1 esc : Nat) (m : Option InMsg) : State :=
  let v2 := match m with
    | some m => 1 + m.msg.g Hd.vc * 2 + m.msg.g Hd.beats * 16
    | none => 0
  let vals : List Nat := [n, v1, v2, esc, 0x10000] ++ List.replicate 11 0
  (List.range 16).foldl (fun s i => s.setRegIn d e 0 i (BitVec.ofNat 32 (vals.getD i 0))) s

/-- The handler header word is valid (03 R110, Table 03-3). -/
def headerOk (w : Word) : Bool := w.toNat / 2 ^ 26 == 0x3F && w.toNat / 2 ^ 10 % 2 ^ 16 == 0

/-- Starts the handler of a task on an engine (03 R103, R110; 04 R159). -/
def State.startHandler (s : State) (d e n v1 esc : Nat) (m : Option InMsg) : State :=
  let entry := s.fget (Csr.taskW0 d n) TaskW0.entry
  let x := s.eng d e
  let s := s.setEng d e { x with
    cwp := 0, wres := 1, depth := 0, spp := BitVec.ofNat 32 (s.fget (Csr.engSpill d e) EngSpill.top * 64),
    spl := BitVec.ofNat 32 (s.fget (Csr.engSpill d e) EngSpill.limit * 64), run := 0, slot := n, pc := entry, budget := 0,
    running := true, wait := .none, v1 := BitVec.ofNat 32 v1, esc := esc, inMsg := m, answered := false }
  let s := s.loadWindow0 d e n v1 esc m
  match s.fetched d e with
  | none => (s.count (Csr.engEccCnt d) EngEccCnt.uncorr 1).engFault d e Fc.storeEcc
  | some w =>
    let s := s.fetchEcc d e
    if !headerOk w then s.engFault d e Fc.header
    else s.setEng d e { s.eng d e with pc := entry + 1, budget := w.toNat % 64 + 1 }

/-- The dispatch of a task to an engine (R159, R163, R173, R174). -/
def State.dispatch (s : State) (d n e step : Nat) : State :=
  let p := s.eprio d n
  let c := e / 8
  let bal := s.testBalance d c
  let debit := s.fget (Csr.taskW0 d n) TaskW0.eclass + 1
  let mask := s.fget (Csr.taskW1 d n) TaskW1.mask
  let flags := s.taskFlags d n
  let v1 := flags &&& mask
  let esc := s.fget (Csr.taskW0 d n) TaskW0.esc
  let s := s.setTaskFlags d n (flags - v1)
  let x := s.taskX d n
  let s := s.setTaskX d n { x with
    inbox := x.inbox.tail, onceAt := none, eng := e, acting := s.fget (Csr.taskW0 d n) TaskW0.prio }
  let s := s.setBalance d c (s.balance d c - debit)
  let s := s.setSched d { s.schedSt d with cluster := c, debit := debit }
  let s := if p == 0 && bal ≤ 0 then s.count (Csr.pmuGateCnt d c) PmuGateCnt.overdraws 1 else s
  let s := (s.setTaskState d n TSt.running).fset (Csr.taskW3 d n) TaskW3.last e
  let s := s.count (Csr.schDispCnt d) SchDispCnt.dispatches 1
  let s := if step == 1 then s.count (Csr.schAffCnt d) SchAffCnt.lastHit 1
    else if step == 2 then s.count (Csr.schAffCnt d) SchAffCnt.clusterHit 1 else s
  s.startHandler d e n v1 esc x.inbox.head?

/-- TASK_DISPATCH: step 3 of the running SCHED cycle (R162), once in it: skips are counted and at most one task is
dispatched. -/
def doTaskDispatch (d : Nat) (s : State) : State :=
  if !(s.clockOn d && s.fbit (Csr.schCtrl d) SchCtrl.dispEn) || (s.schedSt d).stepAt == s.schedNow + 1 then s
  else
    let pick := s.scan d
    let s := (s.setSched d { s.schedSt d with stepAt := s.schedNow + 1, cluster := 0, debit := 0 }).countSkips d
    match pick with
    | none => s
    | some (n, e, step) => s.dispatch d n e step

def execTaskDispatch (d : Die) (s : State) : Ans := .next (doTaskDispatch d.val s)

/-! ## Refill (R172, R179) -/

/-- A sample in milli-degrees as units of 0.25 °C, rounded to the nearest, halves up (R172). -/
def quarterDeg (m : Int) : Int := (m + 125) / 250

/-- The highest of a non-empty list. -/
def maxInt : Int → List Int → Int
  | a, [] => a
  | a, b :: l => maxInt (if a < b then b else a) l

/-- The refill of a tick (R172). -/
def refillOf (full : Nat) (t : Int) : Nat :=
  if t ≤ 380 then full else if t < 480 then (full * (480 - t).toNat) / 100 else 0

/-- What dispatch has debited from a cluster in the running cycle. -/
def State.debited (s : State) (d c : Nat) : Nat :=
  let x := s.schedSt d
  if x.stepAt == s.schedNow + 1 && x.cluster == c then x.debit else 0

/-- One cluster's refill: min(balance + refill, CAP), less what the same cycle debits (R172, R175). -/
def State.refill (s : State) (d c r : Nat) : State :=
  let cap := s.fget (Csr.pmuAllotCfg d) PmuAllotCfg.cap
  let v : Int := s.balance d c + s.debited d c + r
  s.setBalance d c (min v cap - s.debited d c)

/-- The balances before a refill of the running cycle, and its milestone, are kept (R175). -/
def State.noteRefill (s : State) (d : Nat) : State :=
  let before := (List.range 8).map (fun c => s.balance d c + s.debited d c)
  s.setSched d { s.schedSt d with refillAt := s.schedNow + 1, before := before, refillMs := s.msOf d + 1 }

/-- ALLOT_REFILL: the refill tick of a milestone, with the samples of the interval in milli-degrees (R172, R179). -/
def doAllotRefill (d : Nat) (milliC : List Int) (s : State) : State :=
  match milliC with
  | [] => s
  | m :: ms =>
    if !(s.clockOn d && s.msOf d % 1000 == 0) || (s.schedSt d).refillMs == s.msOf d + 1 then s
    else
      let t := maxInt (quarterDeg m) (ms.map quarterDeg)
      let full := s.fget (Csr.pmuAllotCfg d) PmuAllotCfg.full
      let r := refillOf full t
      let s := (List.range 8).foldl (fun s c => s.refill d c r) (s.noteRefill d)
      let s := if t < 460 then { s with pwr := { s.pwr with retrip := s.pwr.retrip.filter (· ≠ d) } } else s
      let old := s.csrGet (Csr.pmuTemp d)
      let taper := decide (380 < t)
      let zero := decide (480 ≤ t)
      let w := PmuTemp.taper.put (PmuTemp.t.put (0 : Word) (wrapInt 11 t)) (b2n taper)
      let s := s.csrSet (Csr.pmuTemp d) (PmuTemp.refill.put (PmuTemp.zero.put w (b2n zero)) r)
      let top := signedOf 11 (s.fget (Csr.pmuTempMax d) PmuTempMax.t)
      let s := if top < t then s.fset (Csr.pmuTempMax d) PmuTempMax.t (wrapInt 11 t) else s
      let s := if PmuTemp.taper.bit old == taper then s
        else s.notice d 0x0304 [(1, d), (2, wrapInt 16 t), (2, r), (1, b2n taper)]
      if PmuTemp.zero.bit old == zero then s
      else s.notice d 0x0305 [(1, d), (2, wrapInt 16 t), (1, b2n zero)]

def execAllotRefill (d : Die) (milliC : List Int) (s : State) : Ans := .next (doAllotRefill d.val milliC s)

/-- Every balance of a die set to a value (R171). -/
def State.setBalances (s : State) (d : Nat) (v : Nat) : State :=
  (List.range 8).foldl (fun s c => s.setBalance d c v) s

/-! ## Milestone and PLLs (05 R194 to R197) -/

/-- The offset of a die's milestone from the package reference. -/
def State.msErr (s : State) (d : Nat) : Int := (s.msOf d : Int) - s.refMs

/-- MS_STS as a read shows it, from the present offset (R195, R197). -/
def State.msStsView (s : State) (d : Nat) : Word :=
  let err := s.msErr d
  let ok := decide (-2 ≤ err) && decide (err ≤ 2)
  let w := MsSts.slew.put (MsSts.sync.put (0 : Word) (b2n ok)) (b2n (!ok))
  MsSts.err.put w (wrapInt 8 err)

/-- Loads a die's milestone from the package reference (R194). -/
def State.loadMilestone (s : State) (d : Nat) : State := { s with ms := SMap.set 0 s.ms d s.refMs }

/-- The bit of a PLL in a die's record: 0 the master, 1 and 3 the lane PLLs of gateway A and B. -/
def pllBit (lane : Option Gw) : Nat := match lane with | none => 0 | some g => 1 + 2 * g.val

/-- PLL_UNLOCK: the master PLL of a die or the lane PLL of a gateway loses lock (R197). -/
def doPllUnlock (d : Nat) (lane : Option Gw) (s : State) : State :=
  let was := SMap.get 0 s.pllLost d
  if !s.dieOn d || bitOf was (pllBit lane) then s
  else
    let s := s.flag (Csr.sluSts d) SluSts.unlock
    let s := s.count (Csr.sluLockCnt d) (if lane.isNone then SluLockCnt.master else SluLockCnt.lane) 1
    let s := { s with pllLost := SMap.set 0 s.pllLost d (setBitN was (pllBit lane)) }
    if lane.isNone then { s with unlockAt := SMap.set 0 s.unlockAt d s.refMs } else s

def execPllUnlock (d : Die) (lane : Option Gw) (s : State) : Ans := .next (doPllUnlock d.val lane s)

/-- PLL_RELOCK: the sluices go on; after a master PLL's unlock of more than 1 µs the milestone is loaded again, forward
only, and a shorter one leaves the slew of R195 to correct it (R197). -/
def doPllRelock (d : Nat) (lane : Option Gw) (s : State) : State :=
  let was := SMap.get 0 s.pllLost d
  if !(s.dieOn d && bitOf was (pllBit lane)) then s
  else
    let now := clrBitN was (pllBit lane)
    let s := { s with pllLost := SMap.set 0 s.pllLost d now }
    let s := if bitOf now 0 || bitOf now 1 || bitOf now 3 then s else s.fset (Csr.sluSts d) SluSts.unlock 0
    if lane.isNone && SMap.get 0 s.unlockAt d + 1000 < s.refMs then
      (if s.msOf d < s.refMs then s.loadMilestone d else s).count (Csr.msAdjCnt d) MsAdjCnt.reloads 1
    else s

def execPllRelock (d : Die) (lane : Option Gw) (s : State) : Ans := .next (doPllRelock d.val lane s)

/-- MILESTONE_SLEW: 1 µs of correction: a tick is added while the die lags, or the next one withheld while it leads
(R195); a stopped count takes none. -/
def doMilestoneSlew (d : Nat) (s : State) : State :=
  let err := s.msErr d
  if !(s.clockOn d && (decide (err < -2) || decide (2 < err))) then s
  else if err < 0 then { s with ms := SMap.set 0 s.ms d (s.msOf d + 1) }
  else
    let s := { s with pllLost := SMap.set 0 s.pllLost d (setBitN (SMap.get 0 s.pllLost d) 2) }
    s.count (Csr.msAdjCnt d) MsAdjCnt.slews 1

def execMilestoneSlew (d : Die) (s : State) : Ans := .next (doMilestoneSlew d.val s)

/-- MS_LO_READ: latches the upper word into MS_HI (R196). -/
def doMsLoRead (d : Nat) (s : State) : State :=
  if !s.dieOn d then s
  else s.csrSet (Csr.msHi d) (BitVec.ofNat 32 (s.msOf d / 2 ^ 32))

def execMsLoRead (d : Die) (s : State) : Ans := .next (doMsLoRead d.val s)

/-! ## Views -/

/-- SCH_STS as a read shows it. -/
def State.schStsView (s : State) (d : Nat) : Word :=
  let inState (v : Nat) : Nat := ((List.range 1024).filter (fun n => s.taskState d n == v)).length
  let q := (s.tasks.filter (fun e => e.1 / 1024 == d)).foldl (fun n e => n + e.2.inbox.length) 0
  SchSts.queued.put (SchSts.running.put (SchSts.ready.put (0 : Word) (inState TSt.ready)) (inState TSt.running)) q

/-- SCH_TASK_n_W3 as a read shows it: EPRIO and INBOX. -/
def State.taskW3View (s : State) (d n : Nat) : Word :=
  TaskW3.inbox.put (TaskW3.eprio.put (s.csrGet (Csr.taskW3 d n)) (s.eprio d n)) (s.taskX d n).inbox.length

end Sys2Proof.Machine
end

