-- ==== Sys2Proof/Machine/Latency.lean ====
section
/-! DEFINITION. Cycle-exact latency (05 R180 to R193, R436): the crossing cost of a sluice, segment and path figures,
uncontended waits and flit times, as functions of the configuration. Times are master ticks (1/6 ns) or picoseconds, as
each definition says. The commands of the block take no time themselves (log entry 4). -/

namespace Sys2Proof.Machine

/-- A time in master ticks, as numerator and denominator. -/
structure Ticks where
  num : Nat
  den : Nat
  deriving DecidableEq, Repr

/-- The domains of Table 05-1 that the master divides. -/
inductive Domain where
  | gw128 | flit | culv | dir | eng | sched | bank | cfg
  deriving DecidableEq, Repr

/-- Master ticks per cycle (Table 05-1). -/
def Domain.ticks : Domain → Nat
  | .gw128 | .dir => 6
  | .flit | .culv | .eng | .sched => 3
  | .bank => 4
  | .cfg => 15

/-- The period of a FAB domain in rational mode: 38.4 × N / M master ticks (R181). -/
def fabPeriod (m n : Nat) : Ticks := ⟨192 * n, 5 * m⟩

/-- The GW period at a rate code (Table 05-4). -/
def gwPeriod : Nat → Ticks
  | 0 => ⟨1536, 5⟩
  | 1 => ⟨768, 5⟩
  | 2 => ⟨96, 1⟩
  | 3 => ⟨48, 1⟩
  | 4 => ⟨24, 1⟩
  | 5 => ⟨12, 1⟩
  | _ => ⟨6, 1⟩

/-- The sluice crossing cost of two periods, in master ticks over their common denominator (R182). -/
def crossing (s r : Ticks) : Ticks :=
  let a := s.num * r.den
  let b := r.num * s.den
  let l := Nat.lcm a b
  ⟨l * ceilDiv (2 * max a b) l, s.den * r.den⟩

/-- A crossing between a domain and a period, in whole master ticks: the cost is a multiple of the domain's period. -/
def crossTo (t : Ticks) (d : Domain) : Nat := let c := crossing t ⟨d.ticks, 1⟩; c.num / c.den

/-- The crossing between two master-derived domains (Table 05-2), in master ticks. -/
def Domain.cross (a b : Domain) : Nat := crossTo ⟨a.ticks, 1⟩ b

/-! ## Segments and paths at 128 GT/s, in picoseconds (Tables 05-3 and 05-5) -/

/-- Segments S1 to S17 (Table 05-3). -/
def segment : Nat → Nat
  | 1 => 8000 | 2 => 3000 | 3 => 2000 | 4 => 2000 | 5 => 3000 | 6 => 2000 | 7 => 2000 | 8 => 3000 | 9 => 7000
  | 10 => 2000 | 11 => 3000 | 12 => 8000 | 13 => 6000 | 14 => 6000 | 15 => 3000 | 16 => 1000 | 17 => 1000
  | _ => 0

/-- S1 to S6. -/
def ingressPs : Nat := segment 1 + segment 2 + segment 3 + segment 4 + segment 5 + segment 6

/-- S8 to S12. -/
def egressPs : Nat := segment 8 + segment 9 + segment 10 + segment 11 + segment 12

/-- S7 and the hops of a route of `h` culvert hops: one S7 on the same die, else one at each end (R191). -/
def routePs (h : Nat) : Nat := if h == 0 then segment 7 else 2 * segment 7 + h * segment 13

/-- S18: `run` run cycles of 0.5 ns. -/
def handlerPs (run : Nat) : Nat := 500 * run

/-- Cut-through over `h` hops. -/
def cutThroughPs (h : Nat) : Nat := ingressPs + routePs h + egressPs

/-- A handler on the ingress die and a SEND over `h` hops. -/
def handlerPathPs (run h : Nat) : Nat :=
  ingressPs + segment 7 + 1000 + segment 16 + 1000 + segment 17 + handlerPs run + 1000 + routePs h + egressPs

/-- A directory request to a memory port or snoop target, MEM_MODE 0. -/
def dirRequestPs (h1 h2 : Nat) : Nat := ingressPs + routePs h1 + 2000 + segment 14 + 2000 + routePs h2 + egressPs

/-- Memory data to grant, after the settle point. -/
def dirGrantPs (h1 h2 : Nat) : Nat := ingressPs + routePs h1 + 2000 + segment 15 + 2000 + routePs h2 + egressPs

/-- A directory request, MEM_MODE 1 handler, SEND to a memory port. -/
def dirHandlerPs (run h1 h2 : Nat) : Nat :=
  ingressPs + routePs h1 + 2000 + segment 14 + 2000 + segment 7 + 1000 + segment 16 + 1000 + segment 17 +
    handlerPs run + 1000 + routePs h2 + egressPs

/-- Same-die cut-through by rate code (R190): 22 GW cycles, two GW to FLIT sluices and S4 to S9, in master ticks over
the period's denominator. -/
def cutThroughAt (rate : Nat) : Ticks :=
  let p := gwPeriod rate
  ⟨22 * p.num + (2 * crossTo p .flit + 114) * p.den, p.den⟩

/-! ## Uncontended waits, in ENG cycles (R192, Table 05-6) -/

/-- LD of a bank over `h` hops (0 the own die). -/
def waitLd (h : Nat) : Nat := if h == 0 then 12 else 32 + 24 * h
def waitBatom (h : Nat) : Nat := if h == 0 then 16 else 36 + 24 * h
def waitDlook (h : Nat) : Nat := if h == 0 then 26 else 34 + 24 * h
/-- CSR of a FLIT-domain block. -/
def waitCsr (h : Nat) : Nat := if h == 0 then 18 else 26 + 24 * h

/-! ## Flit times (R436) -/

/-- The lane rate of a rate code, in tenths of GT/s. -/
def laneRate : Nat → Nat
  | 0 => 25 | 1 => 50 | 2 => 80 | 3 => 160 | 4 => 320 | 5 => 640 | _ => 1280

/-- The encoding factor of a rate code, over 1,024. -/
def encFactor (rate : Nat) : Nat := if rate ≤ 1 then 1280 else if rate ≤ 4 then 1040 else 1024

/-- The flit time of a link of `w` lanes, in picoseconds. -/
def flitTimePs (rate w : Nat) : Nat := 2048 * encFactor rate * 10000 / (1024 * w * laneRate rate)

/-! ## Views -/

/-- Every sluice of a die is empty: no beat is on its way into the fabric (`fabIn`), and none in a cross-domain channel between
its reaches (`chanQ`). Other beats cross a sluice within the command that moves them. -/
def State.drained (s : State) (d : Nat) : Bool :=
  !(s.fabIn.any (fun q => q.1 / 4096 == d) || s.chanQ.any (fun q => q.1 / 128 / 16 == d))

/-- SLU_STS as a read shows it (08 R288). -/
def State.sluStsView (s : State) (d : Nat) : Word := SluSts.drained.put (s.csrGet (Csr.sluSts d)) (b2n (s.drained d))

end Sys2Proof.Machine
end

