-- ==== Sys2Proof/Machine/Routing.lean ====
section
/-! DEFINITION. What the fabric of a reach holds and joins (06 R198, R201, R207, R210, R216, R217): its frames and
instruction entries, the cells' registers and outputs, and the routing from sources to sinks. A combinational output holds
what the cell's command of the running FAB cycle gave; the commands of one cycle come in the order of the paths between them
(log entry 110). -/

namespace Sys2Proof.Machine

/-! ## Frames and entries (R210; 08 R263) -/

/-- The place of byte `b` of a frame of a reach in a plane of a die. -/
def frameKey (plane d r frame b : Nat) : Nat := ((plane * 8 + d) * 20480 + r * 1280 + frame) * 256 + b

/-- The active plane of a reach. -/
def State.plane (s : State) (d r : Nat) : Nat := b2n (SMap.get false s.planes (d * 16 + r))

/-- The place of an entry: bit 40 × (48 × row + col) of the run of frames from 30 × i, which is a whole byte. -/
def entryPlace (plane d r col row i : Nat) : Nat := frameKey plane d r (30 * i) (5 * (48 * row + col))

/-- The frames 240 to 1,279 of a reach in its active plane, as configuration functions see them. -/
def State.fabCfg (s : State) (d r : Nat) : List Host.Cell :=
  let lo := frameKey (s.plane d r) d r 240 0
  let hi := frameKey (s.plane d r) d r 1280 0
  (s.frames.filter (fun c => lo ≤ c.1 && c.1 < hi)).map (fun c => (c.1 - lo, c.2))

def cellKey (d r col row : Nat) : Nat := ((d * 16 + r) * 48 + col) * 32 + row

/-- Entry `i` of a cell, from the active plane. -/
def State.frameEntry (s : State) (d r col row i : Nat) : Nat :=
  Memory.readLE 0 s.frames (entryPlace (s.plane d r) d r col row i) 5

/-- Entry `i` of a cell as its latch holds it: a scrub's correction that has not committed yet does not show (R213). -/
def State.cellEntry (s : State) (d r col row i : Nat) : Nat :=
  (SMap.find s.entryOld (cellKey d r col row * 8 + i)).getD (s.frameEntry d r col row i)

/-! ## Entry fields (Table 06-2) -/

def Ent.op : Fld := ⟨0, 5⟩
def Ent.sa : Fld := ⟨5, 3⟩
def Ent.sb : Fld := ⟨8, 4⟩
def Ent.imm : Fld := ⟨12, 8⟩
def Ent.we : Fld := ⟨20, 1⟩
def Ent.wd : Fld := ⟨21, 2⟩
def Ent.cin : Fld := ⟨23, 2⟩
def Ent.pred : Fld := ⟨25, 2⟩
def Ent.o1s : Fld := ⟨27, 2⟩
def Ent.sgn : Fld := ⟨29, 1⟩
def Ent.oh : Fld := ⟨30, 1⟩

/-! ## Cells, waypoints, channels and unit ports -/

def State.cell (s : State) (d r col row : Nat) : Cell := SMap.get Cell.reset s.cells (cellKey d r col row)

def State.setCell (s : State) (d r col row : Nat) (x : Cell) : State :=
  { s with cells := SMap.set Cell.reset s.cells (cellKey d r col row) x }

/-- Register w0 to w3. -/
def CellRegs.w (x : CellRegs) : Nat → BitVec 16
  | 0 => x.w0 | 1 => x.w1 | 2 => x.w2 | _ => x.w3

def CellRegs.setW (x : CellRegs) (i : Nat) (v : BitVec 16) : CellRegs :=
  match i with
  | 0 => { x with w0 := v } | 1 => { x with w1 := v } | 2 => { x with w2 := v } | _ => { x with w3 := v }

def wayKey (d r i : Nat) : Nat := i * 128 + d * 16 + r

/-- The receiving waypoint of channel `n` over an edge of a reach (R217). -/
def chanKey (d r edge n : Nat) : Nat := ((d * 16 + r) * 4 + edge % 4) * 32 + n % 32

/-- The reach across an edge: 0 south, 1 north, 2 west, 3 east (00 Table 00-3). -/
def reachAcross (r edge : Nat) : Option Nat :=
  match edge with
  | 0 => if 4 ≤ r then some (r - 4) else none
  | 1 => if r < 12 then some (r + 4) else none
  | 2 => if r % 4 ≠ 0 then some (r - 1) else none
  | _ => if r % 4 ≠ 3 then some (r + 1) else none

/-- The same edge as the neighbour numbers it. -/
def edgeBack (edge : Nat) : Nat := match edge with | 0 => 1 | 1 => 0 | 2 => 3 | _ => 2

/-- The beat that a unit port presents in the running FAB cycle. -/
def State.fabBeat (s : State) (d port : Nat) : Option FabBeat := (SMap.get [] s.fabIn (fabInKey d port)).head?

def State.uioSt (s : State) (d p : Nat) : UioSt := SMap.get UioSt.reset s.uio (d * 24 + p)

/-! ## What a source gives -/

/-- A bit source. A bypassed input register shows the pin itself (R226); a disabled oscillator drives 0 (R229). -/
def State.bitOfSrc (s : State) (d r : Nat) (cfg : List Host.Cell) : BitSrc → Bool
  | .p0 c w => if Config.lutRegistered cfg c w 0 then (s.cell d r c w).regs.lut0 else (s.cell d r c w).p0
  | .p1 c w => if Config.lutRegistered cfg c w 1 then (s.cell d r c w).regs.lut1 else (s.cell d r c w).p1
  | .z c w => (s.cell d r c w).z
  | .f c w => (s.cell d r c w).regs.f
  | .co c w => (s.cell d r c w).co
  | .way i => SMap.get false s.wayB (wayKey d r i)
  | .chan e n => SMap.get false s.chanB (chanKey d r e n)
  | .valid p => portReach p == r && (s.fabBeat d p).isSome
  | .poison p => portReach p == r && (s.fabBeat d p).any (·.poison)
  | .idle p => portReach p == r && (s.fabBeat d p).any (·.idle)
  | .pin p second =>
    let x := s.uioSt d p
    if s.fbit (Csr.uioCtrl d p) UioCtrl.ibyp then x.level else if second then x.q1 else x.q0
  | .osc o => s.fbit (Csr.roscCtrl d o) RoscCtrl.en && Config.oscLevel d o s.ticks

/-- The bit at a sink of a reach. -/
def State.bitAt (s : State) (d r : Nat) (k : Sink) : Bool :=
  let cfg := s.fabCfg d r
  match Config.bitRoute cfg k with
  | some x => s.bitOfSrc d r cfg x
  | none => Config.openBit cfg k

/-- A routed bit clocks the cell (R223). -/
def State.wireClocked (s : State) (d r col row : Nat) : Bool :=
  (Config.bitRoute (s.fabCfg d r) (.clock col row)).isSome

/-- The phase that selects a cell's entry (R207): the routed one, or the counter of the reach, for which a wire-clocked cell
executes entry 0 only (R223). -/
def State.cellPhase (s : State) (d r col row : Nat) : Nat :=
  if Config.phaseRouted (s.fabCfg d r) col row then
    (List.range 3).foldl (fun n i => n + b2n (s.bitAt d r (.phase col row i)) * 2 ^ i) 0
  else if s.wireClocked d r col row then 0
  else s.fget (Csr.reachSts d r) ReachSts.phase

/-- The entry that a cell executes in the running cycle. -/
def State.selEntry (s : State) (d r col row : Nat) : Nat := s.cellEntry d r col row (s.cellPhase d r col row)

/-- A word source: o1 is the register that the selected entry names (Table 06-2), and a unit port gives the words of its beat;
what it shows without one is not stated. -/
def State.wordOfSrc (s : State) (d r : Nat) (cfg : List Host.Cell) (k : Sink) : WordSrc → BitVec 16
  | .o0 c w => (s.cell d r c w).o0
  | .o1 c w => (s.cell d r c w).regs.w (Ent.o1s.ofNat (s.selEntry d r c w))
  | .way i => SMap.get 0 s.wayW (wayKey d r i)
  | .chan e n => SMap.get 0 s.chanW (chanKey d r e n)
  | .unit p i =>
    match s.fabBeat d p with
    | some b => if portReach p == r then b.words.getD i 0 else Config.openWord cfg k
    | none => Config.openWord cfg k

/-- The word at a sink of a reach. -/
def State.wordAt (s : State) (d r : Nat) (k : Sink) : BitVec 16 :=
  let cfg := s.fabCfg d r
  match Config.wordRoute cfg k with
  | some x => s.wordOfSrc d r cfg k x
  | none => Config.openWord cfg k

/-! ## Channels between reaches (R217; 08 R291) -/

/-- Two reaches of a die run on one FAB domain. -/
def State.sameFab (s : State) (d r q : Nat) : Bool :=
  s.fget (Csr.reachCtrl d r) ReachCtrl.fabsel == s.fget (Csr.reachCtrl d q) ReachCtrl.fabsel

/-- What word channel `n` of reach `r` brings over an edge: the routed word, or what the border latch holds. -/
def State.outWord (s : State) (d r edge n : Nat) : BitVec 16 :=
  match SMap.find s.border (d * 16 + r) with
  | some b => (b.words.getD edge []).getD n 0
  | none => s.wordAt d r (.chanWord edge n)

/-- What bit channel `n` of reach `r` brings over an edge; the valid bits of cross-domain channels are forced to 0 while the
border latch acts. -/
def State.outBit (s : State) (d r edge n : Nat) (cross : Bool) : Bool :=
  match SMap.find s.border (d * 16 + r) with
  | some b => !cross && (b.bits.getD edge []).getD n false
  | none => s.bitAt d r (.chanBit edge n)

/-- The mode of a latch code: 1 HOLD, 2 FORCE0, 3 FORCE1, 4 IDLE; DEFAULT takes CFG_SCRUB_CTRL.BORDER_DEF, and a reserved code
is FORCE0 (Table 08-13). -/
def latchMode (dflt code : Nat) : Nat := match code with | 0 => dflt + 1 | 1 => 1 | 3 => 3 | 4 => 4 | _ => 2

/-- The latched word of an outgoing channel. -/
def State.latchWord (s : State) (d r edge n : Nat) : BitVec 16 :=
  let cfg := s.fabCfg d r
  match latchMode (s.fget (Csr.cfgScrubCtrl d) CfgScrubCtrl.borderDef) (Config.latchCode cfg true edge n).toNat with
  | 1 => s.outWord d r edge n
  | 3 => 0xFFFF
  | 4 => Config.idleWord cfg edge
  | _ => 0

/-- The latched bit of an outgoing channel. -/
def State.latchBit (s : State) (d r edge n : Nat) : Bool :=
  match latchMode (s.fget (Csr.cfgScrubCtrl d) CfgScrubCtrl.borderDef)
      (Config.latchCode (s.fabCfg d r) false edge n).toNat with
  | 1 => s.outBit d r edge n false
  | 3 => true
  | _ => false

/-- The border latches of a reach act from now on: what they present is captured, once (08 R291). -/
def State.captureBorder (s : State) (d r : Nat) : State :=
  if (SMap.find s.border (d * 16 + r)).isSome then s
  else
    let b : BorderLatch :=
      { words := (List.range 4).map (fun e => (List.range 32).map (s.latchWord d r e)),
        bits := (List.range 4).map (fun e => (List.range 32).map (s.latchBit d r e)) }
    { s with border := SMap.put s.border (d * 16 + r) b }

/-- The release of a reach ends its border latches (08 R291). -/
def State.freeBorder (s : State) (d r : Nat) : State := { s with border := SMap.erase s.border (d * 16 + r) }

end Sys2Proof.Machine
end

