-- ==== Sys2Proof/Machine/Cells.lean ====
section
/-! DEFINITION. The word cells (06 R198 to R207, R223). A cell command is one FAB cycle of one cell: it evaluates the entry
that the phase selects and the LUTs, drives the combinational outputs, and fixes what the registers take at the clock edge
that ends the cycle (R206); for a wire-clocked cell the command says whether an edge of its wire clock comes. -/

namespace Sys2Proof.Machine

/-- An entry that R204 names: a reserved OP, field value or bit, MUL on an odd row, MULH on an even row. -/
def badEntry (e row : Nat) : Bool :=
  let op := Ent.op.ofNat e
  0x10 ≤ op || 10 ≤ Ent.sb.ofNat e || e / 2 ^ 31 ≠ 0 || (op == 0x0B && 6 ≤ Ent.imm.ofNat e % 8) ||
    (op == 0x0C && row % 2 == 1) || (op == 0x0D && row % 2 == 0)

/-! ## Inputs (Table 06-1, R201) -/

/-- What a cell finds at its inputs in a cycle: i0 to i3, the carry in CI, and its LUT outputs p0 and p1. -/
structure CellIn where
  i0 : BitVec 16
  i1 : BitVec 16
  i2 : BitVec 16
  i3 : BitVec 16
  ci : Bool
  p0 : Bool
  p1 : Bool
  deriving DecidableEq, Repr

/-- The value of LUT `k`: its table at the index {F, b4..b0} of LUT0 or {F, b7..b3} of LUT1. -/
def State.lutValue (s : State) (d r col row k : Nat) : Bool :=
  let base := 3 * k
  let idx := (List.range 5).foldl (fun n i => n + b2n (s.bitAt d r (.bit col row (base + i))) * 2 ^ i)
    (b2n (s.cell d r col row).regs.f * 32)
  (Config.lutTable (s.fabCfg d r) col row k).getLsbD idx

/-- CI: CO of the row below in the column, 0 in row 0. -/
def State.cellCi (s : State) (d r col row : Nat) : Bool := row ≠ 0 && (s.cell d r col (row - 1)).co

/-- The inputs of a cell in the running cycle; a registered LUT shows what its register holds. -/
def State.cellIn (s : State) (d r col row : Nat) : CellIn :=
  let cfg := s.fabCfg d r
  let g := (s.cell d r col row).regs
  { i0 := s.wordAt d r (.word col row 0), i1 := s.wordAt d r (.word col row 1), i2 := s.wordAt d r (.word col row 2),
    i3 := s.wordAt d r (.word col row 3), ci := s.cellCi d r col row,
    p0 := if Config.lutRegistered cfg col row 0 then g.lut0 else s.lutValue d r col row 0,
    p1 := if Config.lutRegistered cfg col row 1 then g.lut1 else s.lutValue d r col row 1 }

/-- Routed word input i0 to i3. -/
def CellIn.word (x : CellIn) : Nat → BitVec 16
  | 0 => x.i0 | 1 => x.i1 | 2 => x.i2 | _ => x.i3

/-- Operand A. -/
def cellA (e : Nat) (g : CellRegs) (x : CellIn) : BitVec 16 :=
  let a := Ent.sa.ofNat e
  if a < 4 then x.word a else g.w (a - 4)

/-- Operand B; IMM sign-extended or shifted left by 8. -/
def cellB (e : Nat) (g : CellRegs) (x : CellIn) : BitVec 16 :=
  let b := Ent.sb.ofNat e
  let imm : BitVec 8 := BitVec.ofNat 8 (Ent.imm.ofNat e)
  if b < 4 then x.word b else if b < 8 then g.w (b - 4) else if b == 8 then imm.signExtend 16 else imm ++ (0 : BitVec 8)

/-- The carry in c. -/
def cellC (e : Nat) (x : CellIn) : Bool :=
  match Ent.cin.ofNat e with
  | 0 => false | 1 => true | 2 => x.ci | _ => x.p1

/-- PRED holds. -/
def cellPred (e : Nat) (g : CellRegs) (x : CellIn) : Bool :=
  match Ent.pred.ofNat e with
  | 0 => true | 1 => x.p0 | 2 => !x.p0 | _ => g.f

/-! ## Operations (Table 06-3) -/

/-- A + B + c with its carry from bit 15. -/
def addc (a b : BitVec 16) (c : Bool) : BitVec 16 × Bool :=
  let n := a.toNat + b.toNat + b2n c
  (BitVec.ofNat 16 n, 2 ^ 16 ≤ n)

/-- The full product of a multiply pair (R200). -/
def cellProd (sgn : Bool) (a b : BitVec 16) : BitVec 32 :=
  if sgn then BitVec.ofInt 32 (a.toInt * b.toInt) else BitVec.ofNat 32 (a.toNat * b.toNat)

/-- The condition of CMP on the operands, the difference and its carry. -/
def cellCond (k : Nat) (a b r : BitVec 16) (co : Bool) : Bool :=
  let lt := (r.msb != (a.msb != b.msb && r.msb != a.msb))
  match k with
  | 0 => a == b | 1 => a != b | 2 => !co | 3 => co | 4 => lt | _ => !lt

/-- What an operation computes: the result and carry out of Table 06-3, F's new value, and the product of MUL. -/
structure CellRes where
  r    : BitVec 16
  co   : Bool
  f    : Option Bool
  prod : Option (BitVec 32)
  deriving DecidableEq, Repr

def plainRes (r : BitVec 16) : CellRes := { r := r, co := false, f := none, prod := none }

/-- The reach's cells advance: powered, released, neither gated nor isolated (08 R282), and for a cell without a wire clock
the FAB domain's PLL is locked (R221, R223). -/
def State.cellRuns (s : State) (d r col row : Nat) : Bool :=
  s.borderOpen d r && (s.fabLocked d r || s.wireClocked d r col row)

/-- A cell at its clock edge: the registers take what the cycle left them (R206). -/
def Cell.clocked (c : Cell) : Cell := { c with regs := c.next.getD c.regs, next := none, prod := none }

/-- The registers after the cycle of an operation (R203, R205): the LUT registers take the LUT values `l0` and `l1`. -/
def regsNext (e : Nat) (g : CellRegs) (x : CellIn) (l0 l1 : Bool) (q : CellRes) : CellRegs :=
  let p := cellPred e g x
  let g' := if p && Ent.we.ofNat e == 1 then g.setW (Ent.wd.ofNat e) q.r else g
  { g' with f := match q.f with | some v => if p then v else g.f | none => g.f, lut0 := l0, lut1 := l1 }

/-- The cell after its operation (R203, R205, R206). -/
def cellNext (e : Nat) (c : Cell) (x : CellIn) (l0 l1 : Bool) (q : CellRes) : Cell :=
  { c with
    next := some (regsNext e c.regs x l0 l1 q), o0 := if Ent.oh.ofNat e == 1 then c.o0 else q.r, co := q.co,
    z := q.r == 0, p0 := x.p0, p1 := x.p1, prod := q.prod }

/-- A command of a cell leaves it so. The registers of a wire-clocked cell take what the cycle left them at once where the
command brings an `edge` of its wire clock, and hold without one (R223). -/
def State.putCell (s : State) (d r col row : Nat) (edge : Bool) (c : Cell) : State :=
  s.setCell d r col row (if !s.wireClocked d r col row then c
    else if edge then { c.clocked with prod := c.prod } else { c with next := none })

/-- One FAB cycle of a cell whose selected entry has operation `op`. -/
def State.cellRun (s : State) (d r col row op : Nat) (edge : Bool) (f : Nat → BitVec 16 → BitVec 16 → CellIn → CellRes) : State :=
  let e := s.selEntry d r col row
  if !(s.cellRuns d r col row && Ent.op.ofNat e == op && !badEntry e row) then s
  else
    let c := s.cell d r col row
    let x := s.cellIn d r col row
    s.putCell d r col row edge (cellNext e c x (s.lutValue d r col row 0) (s.lutValue d r col row 1)
      (f e (cellA e c.regs x) (cellB e c.regs x) x))

/-- CELL_NOP: o0 holds and nothing is written; the same for a reserved entry, with REACH_STS.BADOP (R204). The spec gives
no result, so z is a free value. -/
def doCellNop (d r col row : Nat) (edge : Bool) (s : State) : State :=
  let e := s.selEntry d r col row
  let bad := badEntry e row
  if !(s.cellRuns d r col row && (bad || Ent.op.ofNat e == 0)) then s
  else
    let c := s.cell d r col row
    let x := s.cellIn d r col row
    let g := { c.regs with lut0 := s.lutValue d r col row 0, lut1 := s.lutValue d r col row 1 }
    let s := if bad then s.flag (Csr.reachSts d r) ReachSts.badop else s
    let (n, s) := s.draw
    s.putCell d r col row edge { c with
      next := some g, co := false, z := (Config.freeWord n).getLsbD 0, p0 := x.p0, p1 := x.p1, prod := none }

def execCellNop (d : Die) (r : Reach) (col : Col) (row : Row) (edge : Bool) (s : State) : Ans :=
  .next (doCellNop d.val r.val col.val row.val edge s)

def resAdd (e : Nat) (a b : BitVec 16) (x : CellIn) : CellRes :=
  { r := (addc a b (cellC e x)).1, co := (addc a b (cellC e x)).2, f := none, prod := none }
def resSub (e : Nat) (a b : BitVec 16) (x : CellIn) : CellRes := resAdd e a (~~~b) x
def resAnd (_ : Nat) (a b : BitVec 16) (_ : CellIn) : CellRes := plainRes (a &&& b)
def resOr (_ : Nat) (a b : BitVec 16) (_ : CellIn) : CellRes := plainRes (a ||| b)
def resXor (_ : Nat) (a b : BitVec 16) (_ : CellIn) : CellRes := plainRes (a ^^^ b)
def resAndn (_ : Nat) (a b : BitVec 16) (_ : CellIn) : CellRes := plainRes (a &&& ~~~b)
def resRolc (e : Nat) (a _b : BitVec 16) (x : CellIn) : CellRes :=
  { r := a.shiftConcat (cellC e x), co := a.msb, f := none, prod := none }
def resShl (_ : Nat) (a b : BitVec 16) (_ : CellIn) : CellRes := plainRes (a <<< (b.toNat % 16))
def resShr (_ : Nat) (a b : BitVec 16) (_ : CellIn) : CellRes := plainRes (a >>> (b.toNat % 16))
def resSra (_ : Nat) (a b : BitVec 16) (_ : CellIn) : CellRes := plainRes (a.sshiftRight (b.toNat % 16))
def resCmp (e : Nat) (a b : BitVec 16) (x : CellIn) : CellRes :=
  let q := addc a (~~~b) (cellC e x)
  { r := q.1, co := q.2, f := some (cellCond (Ent.imm.ofNat e % 8) a b q.1 q.2), prod := none }
def resMul (e : Nat) (a b : BitVec 16) (_ : CellIn) : CellRes :=
  let p := cellProd (Ent.sgn.ofNat e == 1) a b
  { r := p.setWidth 16, co := false, f := none, prod := some p }
def resMov (_ : Nat) (_a b : BitVec 16) (_ : CellIn) : CellRes := plainRes b
def resSel (_ : Nat) (a b : BitVec 16) (x : CellIn) : CellRes := plainRes (if x.p0 then a else b)
/-- MULH: the high half of the partner's product, 0 without one. -/
def resMulh (p : Option (BitVec 32)) (_ : Nat) (_a _b : BitVec 16) (_ : CellIn) : CellRes :=
  plainRes (match p with | some p => p.extractLsb' 16 16 | none => 0)

def doCellAdd (d r col row : Nat) (edge : Bool) (s : State) : State := s.cellRun d r col row 0x01 edge resAdd
def doCellSub (d r col row : Nat) (edge : Bool) (s : State) : State := s.cellRun d r col row 0x02 edge resSub
def doCellAnd (d r col row : Nat) (edge : Bool) (s : State) : State := s.cellRun d r col row 0x03 edge resAnd
def doCellOr (d r col row : Nat) (edge : Bool) (s : State) : State := s.cellRun d r col row 0x04 edge resOr
def doCellXor (d r col row : Nat) (edge : Bool) (s : State) : State := s.cellRun d r col row 0x05 edge resXor
def doCellAndn (d r col row : Nat) (edge : Bool) (s : State) : State := s.cellRun d r col row 0x06 edge resAndn
def doCellRolc (d r col row : Nat) (edge : Bool) (s : State) : State := s.cellRun d r col row 0x07 edge resRolc
def doCellShl (d r col row : Nat) (edge : Bool) (s : State) : State := s.cellRun d r col row 0x08 edge resShl
def doCellShr (d r col row : Nat) (edge : Bool) (s : State) : State := s.cellRun d r col row 0x09 edge resShr
def doCellSra (d r col row : Nat) (edge : Bool) (s : State) : State := s.cellRun d r col row 0x0A edge resSra
def doCellCmp (d r col row : Nat) (edge : Bool) (s : State) : State := s.cellRun d r col row 0x0B edge resCmp
def doCellMul (d r col row : Nat) (edge : Bool) (s : State) : State := s.cellRun d r col row 0x0C edge resMul
def doCellMov (d r col row : Nat) (edge : Bool) (s : State) : State := s.cellRun d r col row 0x0E edge resMov
def doCellSel (d r col row : Nat) (edge : Bool) (s : State) : State := s.cellRun d r col row 0x0F edge resSel

/-- MULH on an odd row takes the product of the even cell below it in the same cycle (R200). -/
def doCellMulh (d r col row : Nat) (edge : Bool) (s : State) : State :=
  s.cellRun d r col row 0x0D edge (resMulh (s.cell d r col (row - 1)).prod)

def execCellAdd (d : Die) (r : Reach) (col : Col) (row : Row) (edge : Bool) (s : State) : Ans :=
  .next (doCellAdd d.val r.val col.val row.val edge s)
def execCellSub (d : Die) (r : Reach) (col : Col) (row : Row) (edge : Bool) (s : State) : Ans :=
  .next (doCellSub d.val r.val col.val row.val edge s)
def execCellAnd (d : Die) (r : Reach) (col : Col) (row : Row) (edge : Bool) (s : State) : Ans :=
  .next (doCellAnd d.val r.val col.val row.val edge s)
def execCellOr (d : Die) (r : Reach) (col : Col) (row : Row) (edge : Bool) (s : State) : Ans :=
  .next (doCellOr d.val r.val col.val row.val edge s)
def execCellXor (d : Die) (r : Reach) (col : Col) (row : Row) (edge : Bool) (s : State) : Ans :=
  .next (doCellXor d.val r.val col.val row.val edge s)
def execCellAndn (d : Die) (r : Reach) (col : Col) (row : Row) (edge : Bool) (s : State) : Ans :=
  .next (doCellAndn d.val r.val col.val row.val edge s)
def execCellRolc (d : Die) (r : Reach) (col : Col) (row : Row) (edge : Bool) (s : State) : Ans :=
  .next (doCellRolc d.val r.val col.val row.val edge s)
def execCellShl (d : Die) (r : Reach) (col : Col) (row : Row) (edge : Bool) (s : State) : Ans :=
  .next (doCellShl d.val r.val col.val row.val edge s)
def execCellShr (d : Die) (r : Reach) (col : Col) (row : Row) (edge : Bool) (s : State) : Ans :=
  .next (doCellShr d.val r.val col.val row.val edge s)
def execCellSra (d : Die) (r : Reach) (col : Col) (row : Row) (edge : Bool) (s : State) : Ans :=
  .next (doCellSra d.val r.val col.val row.val edge s)
def execCellCmp (d : Die) (r : Reach) (col : Col) (row : Row) (edge : Bool) (s : State) : Ans :=
  .next (doCellCmp d.val r.val col.val row.val edge s)
def execCellMul (d : Die) (r : Reach) (col : Col) (row : Row) (edge : Bool) (s : State) : Ans :=
  .next (doCellMul d.val r.val col.val row.val edge s)
def execCellMulh (d : Die) (r : Reach) (col : Col) (row : Row) (edge : Bool) (s : State) : Ans :=
  .next (doCellMulh d.val r.val col.val row.val edge s)
def execCellMov (d : Die) (r : Reach) (col : Col) (row : Row) (edge : Bool) (s : State) : Ans :=
  .next (doCellMov d.val r.val col.val row.val edge s)
def execCellSel (d : Die) (r : Reach) (col : Col) (row : Row) (edge : Bool) (s : State) : Ans :=
  .next (doCellSel d.val r.val col.val row.val edge s)

end Sys2Proof.Machine
end

