-- ==== Sys2Proof/Machine/Fabric.lean ====
section
/-! DEFINITION. The word fabric beside its cells (06 R208 to R233): the edge of a FAB domain with its waypoints, channels,
phase counters and pins, live rewriting of entries, fabric clocks, user I/O, serial ports, ring oscillators and the user
flash port. -/

namespace Sys2Proof.Machine

/-! ## User pins (R226 to R228, R230; 08 R282, R291) -/

/-- The pins of a serial port (R230). -/
def uspPins (u : Nat) : List Nat := if u == 0 then [18, 19, 20, 21] else [12, 13, 14, 15]

/-- UIO_STS.OWNED: an enabled serial port owns the pin. -/
def State.uioOwned (s : State) (d p : Nat) : Bool :=
  [0, 1].any (fun u => s.fbit (Csr.uspCtrl d u) UspCtrl.en && (uspPins u).contains p)

/-- The pins that an enabled serial port drives (R230): TX and RTS_n of a UART; SCK, MOSI and CS_n of an SPI master. -/
def State.uspDrives (s : State) (d p : Nat) : Bool :=
  [0, 1].any (fun u =>
    let outs := if s.fget (Csr.uspCtrl d u) UspCtrl.mode == 0 then [0, 2] else [0, 1, 3]
    s.fbit (Csr.uspCtrl d u) UspCtrl.en && outs.any (fun i => (uspPins u).getD i 24 == p))

/-- The pin is in the held state: before release, or with its reach isolated or gated (R228; 08 R282, R291). -/
def State.pinHeld (s : State) (d p : Nat) : Bool := !s.dieOn d || s.isolated d (p / 6) || s.gated d (p / 6)

/-- The pull of a pin (0 none, 1 down, 2 up, 3 keeper): the option area's while the pin is held, UIO_CTRL.PULL after (R228; 10
Table 10-9 UIO_HOLD_PULL). -/
def State.pinPull (s : State) (d p : Nat) : Nat :=
  if s.pinHeld d p then (s.options.getD (0x18 + 6 * d + p / 4) 0).toNat / 4 ^ (p % 4) % 4
  else s.fget (Csr.uioCtrl d p) UioCtrl.pull

/-- The data and the output enable that the fabric gives a pin: its registers, or the routed bits where OBYP bypasses them
(R226). -/
def State.fabData (s : State) (d p : Nat) (second : Bool) : Bool :=
  if s.fbit (Csr.uioCtrl d p) UioCtrl.obyp then s.bitAt d (p / 6) (.pinData p second)
  else if second then (s.uioSt d p).d1 else (s.uioSt d p).d0

def State.fabEnable (s : State) (d p : Nat) : Bool :=
  if s.fbit (Csr.uioCtrl d p) UioCtrl.obyp then s.bitAt d (p / 6) (.pinEnable p) else (s.uioSt d p).oe

/-- The level that the device drives at a pin, none while it drives none: a held pin and one whose short has turned the driver
off drive nothing (R228; 12 R387), an owned pin what its serial port drives, an LVDS output pair the true pin's data and its
complement, and in DDR mode `second` asks for the level after the falling edge (R225, R226, R230). -/
def State.pinDrive (s : State) (d p : Nat) (second : Bool) : Option Bool :=
  let second := second && s.fbit (Csr.uioCtrl d p) UioCtrl.ddr
  let std := s.fget (Csr.uioCtrl d (p / 2 * 2)) UioCtrl.std
  if s.pinHeld d p || bitOf (s.fget (Csr.uioShort d) UioShort.short) p then none
  else if s.uioOwned d p then (if s.uspDrives d p then some (Config.serialLevel d p s.ticks) else none)
  else if std == 1 then none
  else if std == 2 then
    (if s.fabEnable d (p / 2 * 2) then some (s.fabData d (p / 2 * 2) second != (p % 2 == 1)) else none)
  else if s.fabEnable d p then some (s.fabData d p second)
  else none

/-- The level that inputs see at a pin while an open-wire test runs on it: that of GO (12 R388). -/
def State.testLevel (s : State) (die p : Nat) : Option Bool :=
  (s.pins.openRun.find? (fun (t : OpenTest) => t.die == die && bitOf t.tested.toNat p)).map (fun t => bitOf t.seen.toNat p)

/-- The level of a user pin that the device knows: of a running test, or what it drives. -/
def State.pinKnown (s : State) (d p : Nat) (second : Bool) : Option Bool := (s.testLevel d p).or (s.pinDrive d p second)

/-- The user I/O pins of a reach (Table 06-5). -/
def reachPins (r : Nat) : List Nat := if r < 4 then (List.range 6).map (6 * r + ·) else []

/-- One FAB cycle of a pin (R226): its input registers capture the pin, on both edges in DDR mode, and its output registers
take what the fabric gives. An undriven pin's level is what the board gives it, a free value. `old` is the state before the
edge. -/
def State.pinCycle (old : State) (d p : Nat) (s : State) : State :=
  let (n, s) := s.draw
  let w := Config.freeWord n
  let x := old.uioSt d p
  let ddr := old.fbit (Csr.uioCtrl d p) UioCtrl.ddr
  let lvl := (old.pinKnown d p false).getD (w.getLsbD 0)
  let lvl2 := (old.pinKnown d p true).getD (w.getLsbD 1)
  let x := { x with
    level := lvl, q0 := lvl, q1 := if ddr then lvl2 else x.q1, d0 := old.bitAt d (p / 6) (.pinData p false),
    d1 := if ddr then old.bitAt d (p / 6) (.pinData p true) else x.d1, oe := old.bitAt d (p / 6) (.pinEnable p) }
  { s with uio := SMap.set UioSt.reset s.uio (d * 24 + p) x }

/-- The delay of a pin moves one tap toward TAPS (R227). -/
def State.dlyStep (s : State) (d p : Nat) : State :=
  let t := s.fget (Csr.uioDly d p) UioDly.taps
  let c := s.fget (Csr.uioDly d p) UioDly.cur
  if c < t then s.fset (Csr.uioDly d p) UioDly.cur (c + 1)
  else if t < c then s.fset (Csr.uioDly d p) UioDly.cur (c - 1)
  else s

/-! ## The edge of a FAB domain (R208, R209, R216, R217) -/

/-- PLEN of a reach. -/
def State.plen (s : State) (d r : Nat) : Nat := s.fget (Csr.reachCtrl d r) ReachCtrl.plen + 1

/-- The reach's registers advance with its FAB domain: released, neither isolated nor gated, its PLL locked (R221; 08 R282). -/
def State.reachRuns (s : State) (d r : Nat) : Bool := s.borderOpen d r && s.fabLocked d r

/-- Writes a waypoint, word and bit (R216). -/
def State.setWayW (s : State) (d r i : Nat) (v : BitVec 16) : State :=
  { s with wayW := SMap.set 0 s.wayW (wayKey d r i) v }
def State.setWayB (s : State) (d r i : Nat) (v : Bool) : State :=
  { s with wayB := SMap.set false s.wayB (wayKey d r i) v }

/-- The waypoints of a reach take what is routed to them. -/
def State.wayEdge (old : State) (d r : Nat) (s : State) : State :=
  let cfg := old.fabCfg d r
  let s := (Config.wordWays cfg).foldl (fun (s : State) i => s.setWayW d r i (old.wordAt d r (.wayWord i))) s
  (Config.bitWays cfg).foldl (fun (s : State) i => s.setWayB d r i (old.bitAt d r (.wayBit i))) s

/-- Writes the receiving waypoints of channel `n` over an edge. -/
def State.setChan (s : State) (d r edge n : Nat) (w : BitVec 16) (b : Bool) : State :=
  { s with chanW := SMap.set 0 s.chanW (chanKey d r edge n) w, chanB := SMap.set false s.chanB (chanKey d r edge n) b }

/-- A receiving waypoint takes its channel (R217): from a reach of the same domain the word and the bit as they are, from
another domain the oldest word of the channel's sluice, with the bit telling that there is one. -/
def State.chanIn (old : State) (d r edge n : Nat) (s : State) : State :=
  match reachAcross r edge with
  | none => s
  | some q =>
    if old.sameFab d r q then
      s.setChan d r edge n (old.outWord d q (edgeBack edge) n) (old.outBit d q (edgeBack edge) n false)
    else
      let k := chanKey d r edge n
      match SMap.get [] s.chanQ k with
      | [] => s.setChan d r edge n (SMap.get 0 s.chanW k) false
      | w :: ws => ({ s with chanQ := SMap.set [] s.chanQ k ws }).setChan d r edge n w true

/-- A word channel toward a reach of another domain delivers into its sluice in a cycle in which its bit channel is 1
(R217); toward an isolated reach the word is discarded and counted (08 R288, R290). -/
def State.chanOut (old : State) (d r edge n : Nat) (s : State) : State :=
  match reachAcross r edge with
  | none => s
  | some q =>
    if old.sameFab d r q || !old.outBit d r edge n true then s
    else if old.isolated d q then s.count (Csr.cfgDiscardCnt d) CfgDiscardCnt.beats 1
    else
      let k := chanKey d q (edgeBack edge) n
      { s with chanQ := SMap.set [] s.chanQ k (SMap.get [] s.chanQ k ++ [old.outWord d r edge n]) }

/-- Every channel of a reach, one after the other. -/
def eachChan (f : Nat → Nat → State → State) (s : State) : State :=
  (List.range 4).foldl (fun s e => (List.range 32).foldl (fun s n => f e n s) s) s

/-- The registers of a reach's cells take their new values; wire-clocked cells have edges of their own (R206, R223). -/
def State.cellEdge (old : State) (d r : Nat) (s : State) : State :=
  { s with cells := SMap.mapVals (fun _ => Cell.reset) (fun k c =>
      if k / 1536 == d * 16 + r && !old.wireClocked d r (k % 1536 / 32) (k % 32) then c.clocked else c) s.cells }

/-- Corrected entries reach the latches of the cells that do not select them now (R213; 08 R292). -/
def State.latchEdge (s : State) (d r : Nat) : State :=
  { s with entryOld := s.entryOld.filter (fun x =>
      let c := x.1 / 8
      !(c / 1536 == d * 16 + r && s.cellPhase d r (c % 1536 / 32) (c % 32) ≠ x.1 % 8)) }

/-- The beats that the unit ports of a reach presented have been taken (R224). -/
def State.beatEdge (s : State) (d r : Nat) : State :=
  { s with fabIn := SMap.mapVals (fun _ => []) (fun k q =>
      if k / 4096 == d && portReach (k % 4096) == r then q.tail else q) s.fabIn }

/-- The phase counter of a reach moves on: with PALIGN it follows the reference count (R208, R209). -/
def State.phaseEdge (s : State) (d r ref : Nat) : State :=
  let p := s.fget (Csr.reachSts d r) ReachSts.phase
  s.fset (Csr.reachSts d r) ReachSts.phase
    ((if s.fbit (Csr.reachCtrl d r) ReachCtrl.palign then ref else p + 1) % s.plen d r)

/-- One edge of the FAB domain of a running reach; `old` is the state before it. -/
def State.reachEdge (old : State) (d r ref : Nat) (s : State) : State :=
  let s := old.wayEdge d r s
  let s := eachChan (fun e n s => old.chanOut d r e n s) s
  let s := eachChan (fun e n s => old.chanIn d r e n s) s
  let s := (reachPins r).foldl (fun s p => old.pinCycle d p s) s
  (((old.cellEdge d r s).beatEdge d r).phaseEdge d r ref).latchEdge d r

/-- One FAB cycle of a domain: its reference count advances, the delays of its pins move, and each running reach of it has an
edge. -/
def State.fabCycle (s : State) (d f : Nat) : State :=
  let ref := (SMap.get 0 s.fabRef (d * 4 + f) + 1) % 840
  let mine := (List.range 16).filter (fun r => s.fget (Csr.reachCtrl d r) ReachCtrl.fabsel == f)
  let t := { s with fabRef := SMap.set 0 s.fabRef (d * 4 + f) ref }
  let t := mine.foldl (fun t r => (reachPins r).foldl (fun (t : State) p => t.dlyStep d p) t) t
  (mine.filter (s.reachRuns d)).foldl (fun t r => s.reachEdge d r ref t) t

/-- Beats on their way into a reach are discarded and counted (08 R288, R290). -/
def State.dropBeats (s : State) (d r : Nat) : State :=
  let mine (k : Nat) : Bool := k / 4096 == d && portReach (k % 4096) == r
  let chan (k : Nat) : Bool := k / 128 == d * 16 + r
  let n := (s.fabIn.filter (fun q => mine q.1)).foldl (fun n q => n + q.2.length) 0
  let m := (s.chanQ.filter (fun q => chan q.1)).foldl (fun n q => n + q.2.length) 0
  State.count { s with fabIn := SMap.drop mine s.fabIn, chanQ := SMap.drop chan s.chanQ } (Csr.cfgDiscardCnt d)
    CfgDiscardCnt.beats (n + m)

/-- REACH reset of a reach (R233): the registers of its cells, its waypoints, its phase counter and its pins' I/O registers
are 0. -/
def State.reachClear (s : State) (d r : Nat) : State :=
  let s := { s with
    cells := SMap.drop (· / 1536 == d * 16 + r) s.cells
    entryOld := SMap.drop (· / 8 / 1536 == d * 16 + r) s.entryOld
    wayW := SMap.drop (· % 128 == d * 16 + r) s.wayW
    wayB := SMap.drop (· % 128 == d * 16 + r) s.wayB
    chanW := SMap.drop (· / 128 == d * 16 + r) s.chanW
    chanB := SMap.drop (· / 128 == d * 16 + r) s.chanB
    chanQ := SMap.drop (· / 128 == d * 16 + r) s.chanQ
    uio := SMap.drop (fun k => k / 24 == d && r < 4 && k % 24 / 6 == r) s.uio }
  s.resetCsr [.q] (fun a => a == Csr.reachSts d r)

/-- The phase counter of a reach at its release: 0, or with PALIGN the reference count modulo PLEN (R208, R209). -/
def State.reachStart (s : State) (d r : Nat) : State :=
  if s.fbit (Csr.reachCtrl d r) ReachCtrl.palign then
    s.fset (Csr.reachSts d r) ReachSts.phase
      (SMap.get 0 s.fabRef (d * 4 + s.fget (Csr.reachCtrl d r) ReachCtrl.fabsel) % s.plen d r)
  else s

/-! ## Live rewriting (R211 to R214) -/

/-- PATCHABLE of the running image's header: bit r of die d's half-word at 0x20 + 2d (08 Table 08-3). -/
def State.patchable (s : State) (d r : Nat) : Bool :=
  bitOf ((s.image.getD (0x20 + 2 * d) 0).toNat + 256 * (s.image.getD (0x21 + 2 * d) 0).toNat) r

/-- The number of a frame among the frames of both planes of every die. -/
def frameNo (plane d r frame : Nat) : Nat := (plane * 8 + d) * 20480 + r * 1280 + frame

/-- Writes an entry into the active plane, with the checks of the frames it lies in computed again (R213; 08 R264). -/
def State.setCellEntry (s : State) (d r col row i v : Nat) : State :=
  let pl := s.plane d r
  let off := 5 * (48 * row + col)
  let f0 := frameNo pl d r (30 * i + off / 256)
  let f1 := frameNo pl d r (30 * i + (off + 4) / 256)
  { s with
    frames := Memory.writeLE 0 s.frames (entryPlace pl d r col row i) 5 v
    frameBad := SMap.erase (SMap.erase s.frameBad f0) f1
    entryOld := SMap.erase s.entryOld (cellKey d r col row * 8 + i) }

/-- Records the outcome of a rewrite. -/
def State.rewriteEnd (s : State) (d st : Nat) : State :=
  let s := { s with rewrite := SMap.erase s.rewrite d }
  (s.fset (Csr.fabIrwSts d) FabIrwSts.status st).fset (Csr.fabIrwSts d) FabIrwSts.pending 0

/-- Cancels a pending rewrite of a die that meets a test: ABORTED (R214). -/
def State.cancelRewrite (s : State) (d : Nat) (p : Rewrite → Bool) : State :=
  match SMap.find s.rewrite d with
  | some w => if p w then s.rewriteEnd d St.aborted else s
  | none => s

/-- ENTRY_REWRITE_GO: FAB_IRW_HI is written with GO = 1 (R211, R212). -/
def doEntryRewriteGo (d : Nat) (hi : BitVec 8) (s : State) : State :=
  if !s.dieOn d then s
  else
    let s := s.fset (Csr.fabIrwHi d) FabIrwHi.entryHi hi.toNat
    let r := s.fget (Csr.fabIrwSel d) FabIrwSel.reach
    let col := s.fget (Csr.fabIrwSel d) FabIrwSel.col
    let row := s.fget (Csr.fabIrwSel d) FabIrwSel.row
    let v := s.fget (Csr.fabIrwLo d) FabIrwLo.entryLo + hi.toNat * 2 ^ 32
    let say (st : Nat) : State := s.fset (Csr.fabIrwSts d) FabIrwSts.status st
    if (SMap.find s.rewrite d).isSome then say St.busy
    else if !s.patchable d r || s.isolated d r || s.gated d r || s.swap.isSome || s.load.isSome then say St.refused
    else if s.jobs.any (fun j => j.die == d && j.reach == r) then say St.busy
    else if 47 < col || badEntry v row then say St.badArgument
    else
      let w : Rewrite := ⟨r, col, row, s.fget (Csr.fabIrwSel d) FabIrwSel.entry, v⟩
      State.fset { s with rewrite := SMap.put s.rewrite d w } (Csr.fabIrwSts d) FabIrwSts.pending 1

def execEntryRewriteGo (d : Die) (hi : BitVec 8) (s : State) : Ans := .next (doEntryRewriteGo d.val hi s)

/-- REWRITE_COMMIT: a clock edge of the cell of a pending rewrite, or for a wire-clocked cell a CFG cycle, at which the entry
named is not selected (R213, R223). `e` is the entry selected there; another one is no such edge. -/
def doRewriteCommit (d e : Nat) (s : State) : State :=
  match SMap.find s.rewrite d with
  | none => s
  | some w =>
    if !(s.cellRuns d w.reach w.col w.row) || s.cellPhase d w.reach w.col w.row ≠ e || e == w.entry then s
    else (s.setCellEntry d w.reach w.col w.row w.entry w.value).rewriteEnd d St.ok

def execRewriteCommit (d : Die) (e : Fin 8) (s : State) : Ans := .next (doRewriteCommit d.val e.val s)

/-- REWRITE_TIMEOUT: 4,096 CFG cycles have passed since GO (R214). -/
def doRewriteTimeout (d : Nat) (s : State) : State :=
  if (SMap.find s.rewrite d).isSome then s.rewriteEnd d St.timeout else s

def execRewriteTimeout (d : Die) (s : State) : Ans := .next (doRewriteTimeout d.val s)

/-! ## Fabric clocks (R219 to R222) -/

/-- M and N of a FAB_PLL_CTRL word; 0 is treated as 1. -/
def pllM (w : Word) : Nat := max 1 (FabPllCtrl.m.get w)
def pllN (w : Word) : Nat := max 1 (FabPllCtrl.n.get w)

/-- The reference of a PLL setting in Hz, as numerator and denominator (R219, R220): CREF; the clock at a pin or pair, which
lies between 10 and 200 MHz; or the nominal frequency of ring oscillator f (R229). -/
def State.pllRef (s : State) (d f : Nat) (w : Word) : Nat × Nat :=
  if FabPllCtrl.mode.get w == 0 then (156250000, 1)
  else if FabPllCtrl.refsel.get w == 3 then (400000000, s.fget (Csr.roscCtrl d f) RoscCtrl.sel + 1)
  else (10000000 + Config.pinClock d (FabPllCtrl.refsel.get w) % 190001 * 1000, 1)

/-- A reference that can drive the PLL: a disabled oscillator cannot (R229). -/
def State.pllRefOn (s : State) (d f : Nat) : Bool :=
  let w := s.csrGet (Csr.fabPllCtrl d f)
  FabPllCtrl.mode.get w == 0 || FabPllCtrl.refsel.get w ≠ 3 || s.fbit (Csr.roscCtrl d f) RoscCtrl.en

/-- The grade limit of the fabric clock in Hz (00 R5). -/
def Part.fabMax (p : Part) : Nat := if p.grade == 2 then 1250000000 else 1000000000

/-- The setting keeps the limits of R219: f from 10 MHz to the grade limit, and in rational mode crossing costs toward
FLIT and BANK of at most 4,095 master ticks. -/
def State.pllOk (s : State) (d f : Nat) (w : Word) : Bool :=
  let m := pllM w
  let n := pllN w
  let (a, b) := s.pllRef d f w
  10000000 * n * b ≤ a * m && a * m ≤ s.part.fabMax * n * b &&
  (FabPllCtrl.mode.get w == 1 ||
    (crossTo (fabPeriod m n) .flit ≤ 4095 && crossTo (fabPeriod m n) .bank ≤ 4095))

/-- The fields whose change starts a relock. -/
def pllKey (w : Word) : Nat × Nat × Nat × Nat :=
  (FabPllCtrl.mode.get w, FabPllCtrl.refsel.get w, FabPllCtrl.m.get w, FabPllCtrl.n.get w)

/-- The clock of a domain stops. -/
def State.pllStop (s : State) (d f : Nat) : State := s.fset (Csr.fabPllSts d f) FabPllSts.lock 0

/-- FAB_PLL_WRITE (R221): a write beyond the limits is discarded with ERR; a change of the settings, or of EN, stops the
clock until the lock. -/
def doFabPllWrite (d f : Nat) (v : Word) (s : State) : State :=
  if !s.dieOn d then s
  else if !s.pllOk d f v then s.flag (Csr.fabPllSts d f) FabPllSts.err
  else
    let old := s.csrGet (Csr.fabPllCtrl d f)
    let s := s.csrSet (Csr.fabPllCtrl d f) (BitVec.ofNat 32 (v.toNat % 2 ^ 20))
    if pllKey old ≠ pllKey v || FabPllCtrl.en.get old ≠ FabPllCtrl.en.get v then s.pllStop d f else s

def execFabPllWrite (d : Die) (f : Fab) (v : Word) (s : State) : Ans := .next (doFabPllWrite d.val f.val v s)

/-- SLU_FAB_COST as a read shows it (05 R184): VALID while the PLL is locked, FREE in free mode, and in rational mode the
crossing costs of the setting. -/
def State.fabCostView (s : State) (d f : Nat) : Word :=
  let w := s.csrGet (Csr.fabPllCtrl d f)
  let v := SluFabCost.valid.put (0 : Word) (s.fget (Csr.fabPllSts d f) FabPllSts.lock)
  if FabPllCtrl.mode.get w == 1 then SluFabCost.free.put v 1
  else
    let t := fabPeriod (pllM w) (pllN w)
    SluFabCost.toBank.put (SluFabCost.toFlit.put v (crossTo t .flit)) (crossTo t .bank)

/-- The PLL of a domain is locked: its clock runs from here. -/
def State.pllLocked (s : State) (d f : Nat) : State :=
  State.fset { s with fabAcc := SMap.set 0 s.fabAcc (d * 4 + f) 0 } (Csr.fabPllSts d f) FabPllSts.lock 1

/-- FAB_PLL_LOCK: an enabled PLL with a running reference locks, and its domain's clock restarts (R221). -/
def doFabPllLock (d f : Nat) (s : State) : State :=
  if s.dieOn d && s.fbit (Csr.fabPllCtrl d f) FabPllCtrl.en && s.pllRefOn d f then s.pllLocked d f else s

def execFabPllLock (d : Die) (f : Fab) (s : State) : Ans := .next (doFabPllLock d.val f.val s)

/-- FAB_PLL_LOCKLOSS: an unplanned loss stops the clock and sets LOCKLOSS; everything on the domain holds (R221). -/
def doFabPllLockloss (d f : Nat) (s : State) : State :=
  if s.dieOn d && s.fbit (Csr.fabPllSts d f) FabPllSts.lock then
    (s.pllStop d f).flag (Csr.fabPllSts d f) FabPllSts.lockloss
  else s

def execFabPllLockloss (d : Die) (f : Fab) (s : State) : Ans := .next (doFabPllLockloss d.val f.val s)

/-- FABSEL_WRITE: takes effect while the reach is isolated or in REACH reset, else it is discarded with ERR (R222). -/
def doFabselWrite (d r sel : Nat) (s : State) : State :=
  if !s.dieOn d then s
  else if s.isolated d r || s.inReset d r then s.fset (Csr.reachCtrl d r) ReachCtrl.fabsel sel
  else s.flag (Csr.reachSts d r) ReachSts.err

def execFabselWrite (d : Die) (r : Reach) (sel : Fab) (s : State) : Ans := .next (doFabselWrite d.val r.val sel.val s)

/-! ## User I/O and ring oscillators (R226, R227, R229) -/

/-- UIO_DLY_WRITE: TAPS and PATH are written; CUR moves toward TAPS one tap per FAB cycle. -/
def doUioDlyWrite (d p : Nat) (v : Word) (s : State) : State :=
  if !s.dieOn d then s
  else (s.fset (Csr.uioDly d p) UioDly.taps (UioDly.taps.get v)).fset (Csr.uioDly d p) UioDly.path (UioDly.path.get v)

def execUioDlyWrite (d : Die) (p : Uio) (v : Word) (s : State) : Ans := .next (doUioDlyWrite d.val p.val v s)

/-- UIO_STS as a read shows it: the level known at the pin, or else that of its last cycle. -/
def State.uioStsView (s : State) (d p : Nat) : Word :=
  UioSts.owned.put (UioSts.pin.put (0 : Word) (b2n ((s.pinKnown d p false).getD (s.uioSt d p).level))) (b2n (s.uioOwned d p))

/-- A microsecond of the die milestone ends: ROSC_CNT counts the cycles of each oscillator, nominal within 5 % (R229);
a disabled one counts none. The count within the tolerance is a free value. -/
def State.roscTick (s : State) (d : Nat) : State :=
  (List.range 4).foldl (fun s o =>
    if !s.fbit (Csr.roscCtrl d o) RoscCtrl.en then s.fset (Csr.roscCnt d o) RoscCnt.count 0
    else
      let (n, s) := s.draw
      let nom := 400 / (s.fget (Csr.roscCtrl d o) RoscCtrl.sel + 1)
      let lo := nom * 95 / 100
      s.fset (Csr.roscCnt d o) RoscCnt.count (lo + (Config.freeWord n).toNat % (nom * 105 / 100 + 2 - lo))) s

/-! ## Serial ports (R230, R231) -/

def uspKey (d u : Nat) : Nat := d * 2 + u

def State.uspSt (s : State) (d u : Nat) : UspSt := SMap.get UspSt.reset s.usp (uspKey d u)

def State.setUsp (s : State) (d u : Nat) (x : UspSt) : State :=
  { s with usp := SMap.set UspSt.reset s.usp (uspKey d u) x }

/-- The running REF cycle. -/
def State.refNow (s : State) : Nat := s.ticks / 2

/-- A word joins the transmit FIFO; of the words of one REF cycle the fabric's comes before a CSR's (R231). A word beyond the
16 entries is discarded with TXOVF. -/
def State.uspQueue (s : State) (d u : Nat) (v : BitVec 16) (fab : Bool) : State :=
  let x := s.uspSt d u
  let late := if x.csrAt == s.refNow + 1 then min x.csrIn x.tx.length else 0
  let x :=
    if fab then { x with tx := x.tx.take (x.tx.length - late) ++ [v] ++ x.tx.drop (x.tx.length - late) }
    else { x with tx := x.tx ++ [v], csrAt := s.refNow + 1, csrIn := late + 1 }
  let s := if 16 < x.tx.length then s.flag (Csr.uspSts d u) UspSts.txovf else s
  s.setUsp d u { x with tx := x.tx.take 16 }

/-- The reach whose border has the FIFO of a serial port (Table 06-5). -/
def uspReach (u : Nat) : Nat := if u == 0 then 3 else 2

/-- USP_TX_WRITE: a word of a CSR or of the fabric port. -/
def doUspTxWrite (d u : Nat) (v : BitVec 16) (fab : Bool) (s : State) : State :=
  if !s.dieOn d || (fab && !s.portOpen d (uspReach u)) then s else s.uspQueue d u v fab

def execUspTxWrite (d : Die) (u : UspEnd) (v : BitVec 16) (s : State) : Ans :=
  .next (doUspTxWrite d.val u.usp.val v u.fab s)

/-- What USP_RX reads: the oldest received word, 0 when there is none. -/
def State.uspRxWord (s : State) (d u : Nat) : BitVec 16 := (s.uspSt d u).rx.headD 0

/-- USP_RX_READ: the oldest received word is removed, by a read of USP_RX or by the fabric port, to which an empty FIFO gives
no valid (R231). -/
def doUspRxRead (d u : Nat) (fab : Bool) (s : State) : State :=
  let x := s.uspSt d u
  if !s.dieOn d || (fab && !s.portOpen d (uspReach u)) then s
  else
    match x.rx with
    | [] => s
    | w :: ws =>
      let s := s.setUsp d u { x with rx := ws }
      if fab then s.toFabric d (0x500 + u) [⟨[w], false, false⟩] else s

def execUspRxRead (d : Die) (u : UspEnd) (s : State) : Ans := .next (doUspRxRead d.val u.usp.val u.fab s)

/-- A received word joins the receive FIFO, or is discarded with RXOVF. -/
def State.uspPush (s : State) (d u : Nat) (w : BitVec 16) : State :=
  let x := s.uspSt d u
  if 16 ≤ x.rx.length then s.flag (Csr.uspSts d u) UspSts.rxovf else s.setUsp d u { x with rx := x.rx ++ [w] }

/-- USP_RECEIVE: a character of a UART; framing and parity errors are noted with it. -/
def doUspReceive (d u : Nat) (w : BitVec 16) (ferr perr : Bool) (s : State) : State :=
  if !(s.dieOn d && s.fbit (Csr.uspCtrl d u) UspCtrl.en && s.fget (Csr.uspCtrl d u) UspCtrl.mode == 0) then s
  else
    let w := if s.fbit (Csr.uspCtrl d u) UspCtrl.bits then w &&& 0x7F else w &&& 0xFF
    let s := s.uspPush d u w
    let s := if ferr then s.flag (Csr.uspSts d u) UspSts.ferr else s
    if perr then s.flag (Csr.uspSts d u) UspSts.perr else s

def execUspReceive (d : Die) (u : Usp) (w : BitVec 16) (ferr perr : Bool) (s : State) : Ans :=
  .next (doUspReceive d.val u.val w ferr perr s)

/-- The bits of a word that a port's format carries. -/
def uspMask (c : Word) (w : BitVec 16) : BitVec 16 :=
  if UspCtrl.mode.get c == 0 then (if UspCtrl.bits.bit c then w &&& 0x7F else w &&& 0xFF)
  else (if UspCtrl.bits.bit c then w else w &&& 0xFF)

/-- USP_TRANSMIT: the oldest word has been sent. A UART with flow control sends only while CTS_n is low (`cts`); an SPI
master takes in the word received in the same transfer. A port whose pins are held sends nothing (08 R282, R291). -/
def doUspTransmit (d u : Nat) (cts : Bool) (rxw : BitVec 16) (s : State) : State :=
  let x := s.uspSt d u
  let c := s.csrGet (Csr.uspCtrl d u)
  match x.tx with
  | [] => s
  | w :: r =>
    if !(s.dieOn d && UspCtrl.en.bit c) || s.pinHeld d ((uspPins u).headD 0) || (UspCtrl.mode.get c == 0 && UspCtrl.flow.bit c && !cts) then s
    else
      let s := (s.setUsp d u { x with tx := r }).emit (.serial d u (uspMask c w))
      if UspCtrl.mode.get c == 1 then s.uspPush d u (uspMask c rxw) else s

def execUspTransmit (d : Die) (u : Usp) (cts : Bool) (rxw : BitVec 16) (s : State) : Ans :=
  .next (doUspTransmit d.val u.val cts rxw s)

/-- USP_STS as a read shows it. -/
def State.uspStsView (s : State) (d u : Nat) : Word :=
  let x := s.uspSt d u
  UspSts.rxlvl.put (UspSts.txlvl.put (s.csrGet (Csr.uspSts d u)) x.tx.length) x.rx.length

/-! ## User flash port (R232) -/

/-- Port number of the user flash port. -/
def ufwPort : Nat := 0x400

/-- The 16 words of a line, one a FAB cycle (R232). -/
def lineBeats (v : Nat) (poison : Bool) : List FabBeat := (wordsOf 16 v).map (fun w => ⟨[w], poison, false⟩)

/-- UFW_REQUEST: the port of reach 0 takes a line index and asks the flash controller for the line; it takes no other until
the line has gone into the fabric. An index beyond the window is answered at once with 16 zero words, poisoned. -/
def doUfwRequest (d r : Nat) (i0 i1 : BitVec 16) (s : State) : State :=
  let busy := s.fl.reads.any (fun q => match q with | .window _ _ p => p == some d) ||
    !(SMap.get [] s.fabIn (fabInKey d ufwPort)).isEmpty
  let idx := i0.toNat + i1.toNat % 4 * 65536
  if r ≠ 0 || !s.portOpen d 0 || busy then s
  else if 245759 < idx then (s.toFabric d ufwPort (lineBeats 0 true)).flag (Csr.ufwSts d) UfwSts.range
  else { s with fl := { s.fl with reads := s.fl.reads ++ [.window idx none (some d)] } }

def execUfwRequest (d : Die) (r : Reach) (i0 i1 : BitVec 16) (s : State) : Ans :=
  .next (doUfwRequest d.val r.val i0 i1 s)

end Sys2Proof.Machine
end

