-- ==== Sys2Proof/Machine/Banks.lean ====
section
/-! DEFINITION. Reservoir banks (07 R234 to R251): words and their poison code and SECDED marks, the grant of a bank
port in one BANK cycle, clears, and the background test. A granted access takes its whole effect at its grant: R239
orders two accesses to one word by their grants. -/

namespace Sys2Proof.Machine

/-! ## Words (R234, R242) -/

def bankKey (d b : Nat) : Nat := d * 48 + b

/-- The stored 64 data bits of a word. -/
def State.bankRaw (s : State) (d b w : Nat) : BitVec 64 :=
  BitVec.ofNat 64 (Memory.readLE 0 s.bankMem (bankKey d b * 131072 + 8 * w) 8)

def State.bankMarkOf (s : State) (d b w : Nat) : WordMark := SMap.get WordMark.clean s.bankMark (bankKey d b * 16384 + w)

def State.setBankMark (s : State) (d b w : Nat) (m : WordMark) : State :=
  { s with bankMark := SMap.set WordMark.clean s.bankMark (bankKey d b * 16384 + w) m }

/-- Stores a word with clean check bits, or with the poison code. -/
def State.bankStore (s : State) (d b w : Nat) (v : BitVec 64) (poison : Bool) : State :=
  State.setBankMark { s with bankMem := Memory.writeLE 0 s.bankMem (bankKey d b * 131072 + 8 * w) 8 v.toNat } d b w
    { poison := poison, flips := 0 }

/-- A read of a word for a master (0 FAB, 1 ENG, 2 DMA): the data delivered and whether it is poisoned (R242). The data
of a word with several flipped bits is what the array holds, which the unpublished code does not give. -/
def State.bankLoad (s : State) (d b w master : Nat) : BitVec 64 × Bool × State :=
  let v := s.bankRaw d b w
  let m := s.bankMarkOf d b w
  if m.poison then (v, true, s.count (Csr.bankMiscCnt d) BankMiscCnt.poisonRd 1)
  else
    match popCount 72 m.flips with
    | 0 => (v, false, s)
    | 1 => (v, false, s.count (Csr.bankEccCnt d) BankEccCnt.corr 1)
    | _ =>
      let s := s.count (Csr.bankEccCnt d) BankEccCnt.uncorr 1
      let log := Csr.bankEccLog d
      let s := if s.fbit log BankEccLog.valid then s
        else s.csrSet log (BankEccLog.valid.put (BankEccLog.word.put (BankEccLog.bank.put (0 : Word) b) w) 1)
      (Config.eccRead m.flips v, true, s.noticeLim d 0x0401 0 [(1, d), (1, b), (2, w), (1, master)])

/-- The bytes that byte enables select from `new`, the others from `old`. -/
def mergeBytes (be : BitVec 8) (old new : BitVec 64) : BitVec 64 :=
  BitVec.ofNat 64 ((List.range 8).foldl (fun n i =>
    n + (if be.getLsbD i then new else old).toNat / 256 ^ i % 256 * 256 ^ i) 0)

/-- A read-modify-write (R240, R241). -/
def rmwOp : BankOp → Bool
  | .read => false
  | .write be _ _ => be != 0xFF
  | .fetchAdd _ | .swap _ => true

/-- Performs an access: what it delivers, and whether that is poisoned (R239 to R242). -/
def State.bankDo (s : State) (d b w master : Nat) (op : BankOp) : BitVec 64 × Bool × State :=
  match op with
  | .read => s.bankLoad d b w master
  | .write be v p =>
    if be == 0xFF then (0, false, s.bankStore d b w v p)
    else
      let (old, bad, s) := s.bankLoad d b w master
      (0, false, s.bankStore d b w (mergeBytes be old v) (bad || p))
  | .fetchAdd x =>
    let (old, bad, s) := s.bankLoad d b w master
    (old, bad, if bad then s else s.bankStore d b w (old + x) false)
  | .swap x =>
    let (old, bad, s) := s.bankLoad d b w master
    (old, bad, if bad then s else s.bankStore d b w x false)

/-! ## Availability (R245, R246) -/

def State.released (s : State) (d : Nat) : Bool := s.fbit (Csr.cfgSts d) CfgSts.released

/-- The banks of a die serve the configuration controller alone: the die is being loaded and not released yet (08 R278). -/
def State.bankHeld (s : State) (d : Nat) : Bool :=
  !s.released d && (s.load.any (fun (l : Load) => l.kind != .swap) || s.releases.any (fun (r : Release) => r.why == RelWhy.load))

def State.bankClearing (s : State) (d b : Nat) : Bool := SMap.get false s.clearing (bankKey d b)

/-- The bank is unavailable (R245): power is removed from its bordering reach, or the clear of its wake runs. -/
def State.bankUnav (s : State) (d b : Nat) : Bool := s.fbit (Csr.bankInfo d b) BankInfo.unav

/-- The answer of an unavailable bank: 0 poisoned, UNAV counted and the notice. -/
def State.unavailable (s : State) (d b master : Nat) : State :=
  (s.count (Csr.bankMiscCnt d) BankMiscCnt.unav 1).noticeLim d 0x0403 0 [(1, d), (1, b), (1, master)]

/-- An access that returns data. -/
def answersData : BankOp → Bool
  | .write _ _ _ => false
  | _ => true

/-- An access with its status: NOT_PRESENT from an unavailable bank. -/
def State.bankAccess (s : State) (d b w master : Nat) (op : BankOp) : BitVec 64 × Bool × Nat × State :=
  if s.bankUnav d b then (0, answersData op, St.notPresent, s.unavailable d b master)
  else
    let (v, p, s) := s.bankDo d b w master op
    (v, p, St.ok, s)

/-- A clear of the bank begins; a bank under test leaves the test. -/
def State.startClear (s : State) (d b : Nat) : State :=
  { s with clearing := SMap.set false s.clearing (bankKey d b) true }

/-- BANK_CLEAR_DONE: every word is 0 with valid check bits, and the bank is available (R246). -/
def doBankClearDone (d b : Nat) (s : State) : State :=
  if !(s.dieOn d && s.bankClearing d b) then s
  else
    let k := bankKey d b
    State.fset
      { s with bankMem := SMap.drop (· / 131072 == k) s.bankMem, bankMark := SMap.drop (· / 16384 == k) s.bankMark,
               clearing := SMap.set false s.clearing k false }
      (Csr.bankInfo d b) BankInfo.unav 0

def execBankClearDone (d : Die) (b : Bank) (s : State) : Ans := .next (doBankClearDone d.val b.val s)

/-! ## Time in BANK cycles (05 Table 05-1; R249) -/

/-- The running BANK cycle: three for every four FLIT cycles. -/
def State.bankNow (s : State) : Nat := s.ticks * 3 / 4

def State.btSt (s : State) (d : Nat) : BtSt := SMap.get BtSt.reset s.bt d

def State.setBt (s : State) (d : Nat) (x : BtSt) : State := { s with bt := SMap.set BtSt.reset s.bt d x }

/-- BANK cycle `n` is a test cycle of a released die: its count from release is 63 modulo 64. -/
def State.testCycle (s : State) (d n : Nat) : Bool := s.released d && (n - (s.btSt d).base) % 64 == 63

/-- A bank that the test may take: its mask bit is set, it is neither unavailable nor clearing. -/
def State.testable (s : State) (d b : Nat) : Bool :=
  (if b < 32 then bitOf (s.fget (Csr.bankBtMaskLo d) BankBtMaskLo.en) b
   else bitOf (s.fget (Csr.bankBtMaskHi d) BankBtMaskHi.en) (b - 32)) && !s.bankUnav d b && !s.bankClearing d b

/-- The banks of the region under test (R248): fixed at its first test cycle, less those that have left. -/
def State.tested (s : State) (d : Nat) : List Nat :=
  let x := s.btSt d
  if x.cycle == 0 then
    (if s.fbit (Csr.bankCtrl d) BankCtrl.btEn then (List.range 48).filter (s.testable d) else [])
  else x.banks.filter (fun b => !s.bankUnav d b && !s.bankClearing d b)

/-! ## Requests at a bank port (R235 to R239) -/

/-- A request as a port sees it: its master, word and operation; the fabric's reach or the engine it came from. -/
structure PortReq where
  master : Nat
  word   : Nat
  op     : BankOp
  from_  : Option BankReq
  deriving DecidableEq, Repr

def bankQKey (d b m : Nat) : Nat := (d * 64 + b) * 4 + m

/-- The fabric's request: from the bordering reach b / 3, a read, or a write of whole 16-bit lanes while its write
enables are active (R235; 00 Table 00-3; 08 Table 08-10). -/
def State.fabReq (s : State) (d b : Nat) (f : Option FabBankReq) : Option PortReq :=
  match f with
  | none => none
  | some q =>
    let ok := q.reach.val == b / 3 && s.portOpen d q.reach.val
    match q.op with
    | .read => if ok then some ⟨0, q.word.val, .read, none⟩ else none
    | .write be v _ =>
      let lanes := (List.range 4).all (fun j => be.getLsbD (2 * j) == be.getLsbD (2 * j + 1))
      if ok && lanes && be != 0 && s.writesEnabled d q.reach.val then some ⟨0, q.word.val, .write be v false, none⟩
      else none
    | _ => none

/-- The engine network's request: the oldest of the next engine in round-robin order (R237). -/
def State.engReq (s : State) (d b : Nat) : Option PortReq :=
  let q := SMap.get [] s.bankQ (bankQKey d b 1)
  match firstFrom 64 (SMap.get 0 s.bankRr (bankKey d b * 4 + 2)) (fun e => q.any (·.eng == e)) with
  | none => none
  | some e => (q.find? (·.eng == e)).map (fun r => ⟨1, r.word, r.op, some r⟩)

/-- The bank DMA's request: the oldest (R237). -/
def State.dmaReq (s : State) (d b : Nat) : Option PortReq :=
  (SMap.get [] s.bankQ (bankQKey d b 2)).head?.map (fun r => ⟨2, r.word, r.op, some r⟩)

/-- The requests at a port (Table 07-1): port 0 is the single port or port A, port 1 is port B. -/
def State.portReqs (s : State) (d b port : Nat) (f : Option FabBankReq) : List PortReq :=
  let fab := (s.fabReq d b f).toList
  let nets := (s.engReq d b).toList ++ (s.dmaReq d b).toList
  if b < 44 then fab ++ nets else if port == 0 then fab else nets

/-- Read-modify-writes that a port granted in its last cycles. -/
def State.rmws (s : State) (d b port : Nat) : List (Nat × Nat) := SMap.get [] s.bankRmw (bankKey d b * 2 + port)

/-- R239 defers the request: its array cycle is the write of a read-modify-write of the port, or its word's
read-modify-write was granted in the last three cycles. -/
def State.rmwHolds (s : State) (d b port : Nat) (r : PortReq) : Bool :=
  let n := s.bankNow
  (s.rmws d b port).any (fun x => x.2 + 3 == n) ||
    (s.rmws d b 0 ++ s.rmws d b 1).any (fun x => x.1 == r.word && x.2 < n && n ≤ x.2 + 3)

/-- R249 defers the request: an array cycle of it is a test cycle of the bank. -/
def State.testHolds (s : State) (d b : Nat) (r : PortReq) : Bool :=
  let n := s.bankNow
  (s.testCycle d (n + 1) || (rmwOp r.op && s.testCycle d (n + 4))) && (s.tested d).contains b

/-- A request is eligible (R238, R246; 08 R278); an unavailable bank answers at once (R245). -/
def State.eligibleReq (s : State) (d b port : Nat) (r : PortReq) : Bool :=
  !s.bankHeld d &&
    (s.bankUnav d b || (!s.bankClearing d b && !s.rmwHolds d b port r && !s.testHolds d b r))

/-- The request a port grants: round-robin after the master it granted last. -/
def State.pickReq (s : State) (d b port : Nat) (rs : List PortReq) : Option PortReq :=
  let ok := rs.filter (s.eligibleReq d b port)
  match firstFrom 3 (SMap.get 0 s.bankRr (bankKey d b * 4 + port)) (fun m => ok.any (·.master == m)) with
  | none => none
  | some m => ok.find? (·.master == m)

/-- Counts a conflict cycle of a request without a grant, and TEST where R249 deferred it. -/
def State.conflict (s : State) (d b port : Nat) (r : PortReq) : State :=
  let s' := match r.master with
    | 0 => s.count (Csr.bankConf0 d b) BankConf0.fab 1
    | 1 => s.count (Csr.bankConf0 d b) BankConf0.eng 1
    | _ => s.count (Csr.bankConf1 d b) BankConf1.dma 1
  if !s.bankUnav d b && !s.bankClearing d b && !s.rmwHolds d b port r && s.testHolds d b r then
    s'.count (Csr.bankConf1 d b) BankConf1.test 1
  else s'

/-- Takes a granted request off its queue, and records the grant: the round-robin pointers and a read-modify-write. The
crossbar credit of a message returns (01 R36). -/
def State.takeReq (s : State) (d b port : Nat) (r : PortReq) : State :=
  let s := { s with bankRr := SMap.set 0 s.bankRr (bankKey d b * 4 + port) ((r.master + 1) % 3) }
  let recent := (s.rmws d b port).filter (fun x => s.bankNow ≤ x.2 + 4) ++ [(r.word, s.bankNow)]
  let s := if rmwOp r.op && !s.bankUnav d b then
      { s with bankRmw := SMap.set [] s.bankRmw (bankKey d b * 2 + port) recent }
    else s
  match r.from_ with
  | none => s
  | some q =>
    let k := bankQKey d b r.master
    let s := { s with bankQ := SMap.set [] s.bankQ k ((SMap.get [] s.bankQ k).erase q) }
    let s := match q.who with
      | .message m => s.count (Csr.xbCredit d 21 (m.g Hd.vc)) XbCredit.avail m.size
      | _ => s
    if r.master == 1 then { s with bankRr := SMap.set 0 s.bankRr (bankKey d b * 4 + 2) ((q.eng + 1) % 64) } else s

/-- An engine of the die receives what it waits for (03 R133). -/
def State.deliverEng (s : State) (d e : Nat) (half : Option Bool) (v : BitVec 64) (poison : Bool) (status : Nat) : State :=
  match (s.eng d e).wait with
  | .bank rd pair _ => (s.setRegs d e rd pair (halfOf half v)).engDoneS d e 0 (ost status poison false 0)
  | _ => s

/-- A word of a host's bank command has been served (09 R312). -/
def Cmd.gotWord (h : CmdHdr) (w : BankGot) (c : Cmd) : Cmd :=
  match c.work with
  | .bank n got => if c.hdr == h then { c with work := .bank n (got ++ [w]) } else c
  | _ => c

/-- Delivers what an access gave: to the fabric port, which has no poison signal, to the engine that waits for it, to the
sender of a message, to the host's command or to the reading of a patch (R243; 03 R133). -/
def State.deliver (s : State) (d b : Nat) (r : PortReq) (v : BitVec 64) (poison : Bool) (status : Nat) : State :=
  let data := answersData r.op
  match r.from_ with
  | none => if data then s.toFabric d (0x100 + b) [⟨wordsOf 4 v.toNat, false, false⟩] else s
  | some q =>
    match q.who with
    | .engine => if data then s.deliverEng d q.eng q.half v poison status else s
    | .message m => s.injectReply d 21 (m.unitReply d 74 status (if data then some (v, poison) else none))
    | .steward h i => { s with cmds := s.cmds.map (Cmd.gotWord h ⟨i, v, poison, status⟩) }
    | .patch reach i => { s with jobs := s.jobs.map (fun (j : ReachJob) =>
        if j.die == d && j.reach == reach then { j with got := j.got ++ [⟨i, v, poison, status⟩] } else j) }

/-- A granted request is performed. -/
def State.serve (s : State) (d b port : Nat) (r : PortReq) : State :=
  let s := s.takeReq d b port r
  let (v, p, st, s) := s.bankAccess d b r.word r.master r.op
  s.deliver d b r v p st

/-- The grants of both ports of a twin bank in one cycle (R244, Table 07-2): a read-modify-write of port B on port A's
word, or on which port A's read-modify-write acts, is not granted; otherwise reads see the word before the writes, and
of two writes port A's is stored. -/
def State.serveTwin (s : State) (d b : Nat) (ra rb : PortReq) : State :=
  if s.bankUnav d b || ra.word ≠ rb.word then (s.serve d b 0 ra).serve d b 1 rb
  else if rmwOp ra.op || rmwOp rb.op then (s.conflict d b 1 rb).serve d b 0 ra
  else if ra.op == .read then (s.serve d b 0 ra).serve d b 1 rb
  else if rb.op == .read then (s.serve d b 1 rb).serve d b 0 ra
  else ((s.serve d b 1 rb).serve d b 0 ra).count (Csr.bankTwinCnt d) BankTwinCnt.ww 1

/-- A port may arbitrate in this BANK cycle. -/
def State.portFree (s : State) (d b port : Nat) : Bool :=
  SMap.get 0 s.bankLast (bankKey d b * 2 + port) ≠ s.bankNow + 1

def State.usePort (s : State) (d b port : Nat) : State :=
  { s with bankLast := SMap.set 0 s.bankLast (bankKey d b * 2 + port) (s.bankNow + 1) }

/-- Conflict cycles of the requests of a port other than the granted one. -/
def State.conflicts (s : State) (d b port : Nat) (pick : Option PortReq) (rs : List PortReq) : State :=
  rs.foldl (fun t r => if pick == some r then t else t.conflict d b port r) s

/-- One port's grant in this cycle. -/
def State.grantPort (s : State) (d b port : Nat) (f : Option FabBankReq) : State :=
  if !s.portFree d b port then s
  else
    let rs := s.portReqs d b port f
    let pick := s.pickReq d b port rs
    let s := (s.usePort d b port).conflicts d b port pick rs
    match pick with
    | none => s
    | some r => s.serve d b port r

/-- Both ports' grants in this cycle. -/
def State.grantBoth (s : State) (d b : Nat) (f : Option FabBankReq) : State :=
  if !(s.portFree d b 0 && s.portFree d b 1) then s
  else
    let ra := s.portReqs d b 0 f
    let rb := s.portReqs d b 1 f
    let pa := s.pickReq d b 0 ra
    let pb := s.pickReq d b 1 rb
    let s := ((s.usePort d b 0).usePort d b 1).conflicts d b 0 pa ra
    let s := s.conflicts d b 1 pb rb
    match pa, pb with
    | some x, some y => s.serveTwin d b x y
    | some x, none => s.serve d b 0 x
    | none, some y => s.serve d b 1 y
    | none, none => s

/-- One BANK cycle of a bank, with the fabric's request if it makes one (R238): of its port, or of the ports of a twin bank
that arbitrate in the cycle, which come in one command. -/
def State.grant (s : State) (d b : Nat) (port : GrantPort) (f : Option FabBankReq) : State :=
  let twin := 44 ≤ b && s.portFree d b 0 && s.portFree d b 1
  if !s.clockOn d then s
  else
    match port with
    | .single => if b < 44 then s.grantPort d b 0 f else s
    | .a => if twin then s.grantPort d b 0 f else s
    | .b => if twin then s.grantPort d b 1 f else s
    | .ab => if twin then s.grantBoth d b f else s

/-- A bank access of the Steward joins the queue of the bank DMA (R235, R237). -/
def State.askDma (s : State) (d b word : Nat) (who : BankWho) (op : BankOp) : State :=
  let k := bankQKey d b 2
  { s with bankQ := SMap.set [] s.bankQ k (SMap.get [] s.bankQ k ++ [⟨s.serial, who, stw, 0, word, none, op⟩]),
           serial := s.serial + 1 }

/-- The Steward's requests that meet a test leave the queues. -/
def State.dropDma (s : State) (p : BankWho → Bool) : State :=
  { s with bankQ := SMap.mapVals (fun _ => []) (fun _ q => q.filter (fun (r : BankReq) => !p r.who)) s.bankQ }

/-! ## Background test (R248 to R251) -/

/-- What a March cycle `m` (0 to 639) does: element, word of the region, and whether it reads (R249). -/
def marchAt (m : Nat) : Nat × Nat × Bool :=
  if m < 64 then (0, m, false)
  else if m < 576 then
    let el := 1 + (m - 64) / 128
    let i := (m - 64) % 128 / 2
    (el, if el ≤ 2 then i else 63 - i, (m - 64) % 2 == 0)
  else (5, m - 576, true)

/-- The save of a word into the buffer: a correctable word is corrected and counted (R249 step 1). -/
def State.btSave (s : State) (d b w : Nat) : State :=
  let m := s.bankMarkOf d b w
  if !m.poison && popCount 72 m.flips == 1 then
    (s.setBankMark d b w WordMark.clean).count (Csr.bankEccCnt d) BankEccCnt.corr 1
  else s

/-- A March read of a bank that differs (R251). -/
def State.btFail (s : State) (d b region el w : Nat) : State :=
  let s := s.count (Csr.bankBtCnt d) BankBtCnt.fails 1
  let log := Csr.bankBtLog d
  let s := if s.fbit log BankBtLog.valid then s
    else
      let v := BankBtLog.word.put (BankBtLog.region.put (BankBtLog.bank.put (0 : Word) b) region) w
      s.csrSet log (BankBtLog.valid.put (BankBtLog.element.put v el) 1)
  let x := s.btSt d
  if x.failed.contains b then s
  else (s.setBt d { x with failed := x.failed ++ [b] }).notice d 0x0402 [(1, d), (1, b), (1, region), (1, w), (1, el)]

/-- The end of a region: the next region, and a pass after region 255 (R248, R251). -/
def State.btNext (s : State) (d : Nat) : State :=
  let r := s.fget (Csr.bankSts d) BankSts.region
  let s := if r == 255 then s.count (Csr.bankBtCnt d) BankBtCnt.passes 1 else s
  (s.fset (Csr.bankSts d) BankSts.region ((r + 1) % 256)).setBt d { s.btSt d with cycle := 0, banks := [], failed := [] }

/-- BT_TEST_CYCLE: the test cycle of the present BANK cycle (R249); `bad` are the banks whose March read differs. -/
def doBtTestCycle (d : Nat) (bad : List Nat) (s : State) : State :=
  let x := s.btSt d
  let banks := s.tested d
  if !(s.dieOn d && s.fbit (Csr.cfgSts d) CfgSts.released && s.testCycle d s.bankNow && x.last ≠ s.bankNow + 1) ||
      (x.cycle == 0 && !s.fbit (Csr.bankCtrl d) BankCtrl.btEn) then s
  else
    let region := s.fget (Csr.bankSts d) BankSts.region
    let s := s.setBt d { x with banks := banks, last := s.bankNow + 1, cycle := x.cycle + 1 }
    let s := if x.cycle < 64 then banks.foldl (fun s b => s.btSave d b (64 * region + x.cycle)) s else s
    let s :=
      if 64 ≤ x.cycle && x.cycle < 704 then
        let (el, w, rd) := marchAt (x.cycle - 64)
        if rd then (banks.filter bad.contains).foldl (fun s b => s.btFail d b region el w) s else s
      else s
    if x.cycle == 767 then s.btNext d else s

def execBtTestCycle (d : Die) (bad : List Bank) (s : State) : Ans := .next (doBtTestCycle d.val (bad.map (·.val)) s)

/-- BT_EN_WRITE: clearing BT_EN takes effect after the restore of the current region, setting it resumes the test (R251). -/
def doBtEnWrite (d : Nat) (v : Bool) (s : State) : State :=
  if s.dieOn d then s.fset (Csr.bankCtrl d) BankCtrl.btEn (b2n v) else s

def execBtEnWrite (d : Die) (v : Bool) (s : State) : Ans := .next (doBtEnWrite d.val v s)

/-! ## Views -/

/-- BANK_INFO_b as a read shows it: UNAV while unavailable or clearing. -/
def State.bankInfoView (s : State) (d b : Nat) : Word :=
  BankInfo.unav.put (s.csrGet (Csr.bankInfo d b)) (b2n (s.bankUnav d b || s.bankClearing d b))

/-- BANK_STS as a read shows it. -/
def State.bankStsView (s : State) (d : Nat) : Word :=
  BankSts.clearing.put (s.csrGet (Csr.bankSts d)) (b2n ((List.range 48).any (s.bankClearing d)))

end Sys2Proof.Machine
end

