-- ==== Sys2Proof/Machine/TowLink.lean ====
section
/-! DEFINITION. The sending side of the towpath ports (09 R322, R323): frames with their link sequence, at most four
unacknowledged, and the direction in which a frame leaves. -/

namespace Sys2Proof.Machine

/-! ## Frame types (Table 09-7) -/

def Ft.message : Nat := 1
def Ft.notice : Nat := 2
def Ft.enum : Nat := 3
def Ft.enumAck : Nat := 4
def Ft.syncReq : Nat := 5
def Ft.syncRsp : Nat := 6
def Ft.resetT : Nat := 7
def Ft.ack : Nat := 8
def Ft.nak : Nat := 9
def Ft.rejoin : Nat := 10

/-! ## Ports -/

/-- TOW_STS.ADDR: 0xFF while the package has no address. -/
def State.towAddr (s : State) : Nat := s.fget Csr.towSts TowSts.addr

/-- The package acts as the head of its chain (R323, R326). -/
def State.actingHead (s : State) : Bool := s.fbit Csr.towSts TowSts.head && !s.fbit Csr.towSts TowSts.headDeferred

/-- A port has trained. -/
def State.towUp (s : State) (out : Bool) : Bool := s.fbit Csr.towSts (if out then TowSts.outUp else TowSts.inUp)

def State.towLink (s : State) (out : Bool) : TowLink := if out then s.tow.linkOut else s.tow.linkIn

def State.setTowLink (s : State) (out : Bool) (l : TowLink) : State :=
  { s with tow := if out then { s.tow with linkOut := l } else { s.tow with linkIn := l } }

/-- A frame goes onto the wire. -/
def State.towPut (s : State) (out : Bool) (f : TowFrame) : State := s.emit (.tow out f.ty f.dest f.src f.lseq f.body)

/-- Frames that wait are sent while fewer than four are unacknowledged. -/
def State.towDrain (s : State) (out : Bool) : Nat → State
  | 0 => s
  | n + 1 =>
    let l := s.towLink out
    match l.wait with
    | [] => s
    | f :: r =>
      if 4 ≤ l.sent.length then s
      else
        let f := { f with lseq := l.seq }
        ((s.setTowLink out { seq := (l.seq + 1) % 256, sent := l.sent ++ [f], wait := r }).towPut out f).towDrain out n

/-- A frame is sent by a port; a port that is down sends nothing. -/
def State.towSendFrom (s : State) (out : Bool) (ty dest src : Nat) (body : List Nat) : State :=
  if !s.towUp out then s
  else
    let l := s.towLink out
    let f : TowFrame := { lseq := 0, fails := 0, ty := ty, dest := dest, src := src, body := body }
    (s.setTowLink out { l with wait := l.wait ++ [f] }).towDrain out (l.wait.length + 1)

def State.towSend (s : State) (out : Bool) (ty dest : Nat) (body : List Nat) : State :=
  s.towSendFrom out ty dest s.towAddr body

/-- ACK or NAK of a frame on its port. -/
def State.towReply (s : State) (out : Bool) (ty lseq : Nat) : State := s.emit (.tow out ty 0xFF s.towAddr lseq [])

/-- A frame to the head: on TOW_OUT around the ring, by TOW_IN when TOW_OUT is down (R325, R327). -/
def State.towHome (s : State) (ty : Nat) (body : List Nat) : State := s.towSend (s.towUp true) ty 0 body

/-- A package with chain address `a` lies between two breaks, the first and the last along the chain (R327). -/
def State.unreachablePkg (s : State) (a : Nat) : Bool :=
  match s.tow.breaks with
  | [] => false
  | b :: r => decide (r.foldl min b < a) && decide (a ≤ r.foldl max b)

/-- The port by which frames for a package leave the head: TOW_OUT, or TOW_IN beyond a break. -/
def State.towToward (s : State) (a : Nat) : Bool :=
  match s.tow.breaks with
  | [] => true
  | b :: r => decide (a ≤ r.foldl min b)

end Sys2Proof.Machine
end

