-- ==== Sys2Proof/Machine/StewardBase.lean ====
section
/-! DEFINITION. What every Ixken command shares (09 R298 to R309; 11 R365, R376, R377): hosts, transports, header checks,
refusals, responses, and the commands that are answered later. -/

namespace Sys2Proof.Machine

/-! ## Options the Steward reads (10 Table 10-8) -/

def State.opt (s : State) (o : Nat) : Nat := (s.options.getD o 0).toNat

/-- An option field of `n` bytes. -/
def State.optLE (s : State) (o n : Nat) : Nat := fromLE ((s.options.drop o).take n)

/-- PWR_STS.STATE is STANDBY (12 Table 12-2). -/
def State.inStandby (s : State) : Bool := s.fget Csr.pwrSts PwrSts.state == 0

/-! ## Responses -/

/-- The package's own chain address; 0 while it has none. -/
def State.ownAddr (s : State) : Nat :=
  let a := s.fget Csr.towSts TowSts.addr
  if a == 0xFF then 0 else a

/-- The header of a response (Table 09-2). -/
def respHeader (h : CmdHdr) (op status len chain : Nat) : List (BitVec 8) :=
  leBytes 2 op ++ leBytes 2 h.tag.toNat ++ leBytes 2 len ++ leBytes 1 chain ++ leBytes 1 1 ++ leBytes 1 status ++
  leBytes 1 0 ++ leBytes 2 h.seq.toNat ++ leBytes 4 0

/-- Bytes written to BAR0 memory. -/
def State.barPut (s : State) (a : Nat) (bs : List (BitVec 8)) : State :=
  { s with bar := bs.zipIdx.foldl (fun m x => Memory.write 0 m (a + x.2) x.1) s.bar }

/-- Where the response of mailbox `k` lies in BAR0 (Table 09-1). -/
def responseAt (k : Nat) : Nat := 0x22000 + 0x4000 * k

/-- The header that a response carries: that of its command, on the port that last carried its MCTP host's commands (R301). -/
def State.answerVia (s : State) (h : CmdHdr) : CmdHdr :=
  match h.via, s.hostRec h.host with
  | .vdm _, some r => { h with via := r.via }
  | _, _ => h

/-- A response of the package with chain address `chain`: on the mailbox that carried the command, DONE is set and BUSY
cleared in one write and vector 0 is signalled (R300); a mailbox that a reset cleared takes none. The answer to a command
that came over the towpath goes to the head (R325). -/
def State.respondFrom (s : State) (h : CmdHdr) (op status chain : Nat) (payload : List (BitVec 8)) : State :=
  let bytes := respHeader h op status payload.length chain ++ payload
  match h.via with
  | .mailbox k =>
    if SMap.find s.mboxes k.val ≠ some h then s
    else
      let s := { s with mboxes := SMap.erase s.mboxes k.val }
      let s := s.barPut (responseAt k.val) bytes
      let s := (s.fset (Csr.mbSts k.val) MbSts.busy 0).fset (Csr.mbSts k.val) MbSts.done 1
      (s.emit (.response h op status chain payload)).msix 0
  | .towpath => (s.emit (.response h op status chain payload)).towHome Ft.message (bytes.map BitVec.toNat)
  | _ => s.emit (.response (s.answerVia h) op status chain payload)

/-- A response of this package. -/
def State.respond (s : State) (h : CmdHdr) (op status : Nat) (payload : List (BitVec 8)) : State :=
  s.respondFrom h op status s.ownAddr payload

/-- A command waits for its answer. -/
def State.await (s : State) (h : CmdHdr) (op : Nat) (w : Work) : State :=
  { s with cmds := s.cmds ++ [{ hdr := h, op := op, work := w, aborts := [] }] }

/-- ABORT opcode. -/
def opAbort : Nat := 0x0003

/-- Answers the ABORTs that wait for a command: ALREADY_DONE when it completed, OK when they stopped it (R308). -/
def State.answerAborts (s : State) (st : Nat) : List CmdHdr → State
  | [] => s
  | a :: r => (s.respond a opAbort (if st == St.aborted then St.ok else St.alreadyDone) []).answerAborts st r

/-- Answers a waiting command. -/
def State.finishCmd (s : State) (c : Cmd) (status : Nat) (payload : List (BitVec 8)) : State :=
  let s := { s with cmds := s.cmds.erase c }
  (s.respond c.hdr c.op status payload).answerAborts status c.aborts

/-- Answers the waiting command of a header. -/
def State.finish (s : State) (h : CmdHdr) (status : Nat) (payload : List (BitVec 8)) : State :=
  match s.cmds.find? (·.hdr == h) with
  | some c => s.finishCmd c status payload
  | none => s

/-- Answers the waiting commands of a kind of work. -/
def State.finishWork (s : State) (w : Work) (status : Nat) (payload : List (BitVec 8)) : State :=
  (s.cmds.filter (·.work == w)).foldl (fun s c => s.finishCmd c status payload) s

def State.waitsFor (s : State) (w : Work) : Bool := s.cmds.any (·.work == w)

/-! ## Bank commands (R312) -/

/-- The status of a bank command: an unavailable bank over a poisoned word. -/
def bankStatus (ws : List BankGot) : Nat :=
  if ws.any (fun w => w.status == St.notPresent) then St.notPresent
  else if ws.any (·.poison) then St.integrityFail else St.ok

/-- The words of a bank command in their order. -/
def bankOrder (n : Nat) (got : List BankGot) : List BankGot := (List.range n).filterMap (fun i => got.find? (·.i == i))

/-- A bank command whose words have all been served is answered: a read with its data. -/
def State.bankAnswer (s : State) (c : Cmd) : State :=
  match c.work with
  | .bank n got =>
    if got.length < n then s
    else
      let ws := bankOrder n got
      s.finishCmd c (bankStatus ws) (if c.op == 0x0103 then ws.flatMap (fun w => leBytes 8 w.data.toNat) else [])
  | _ => s

/-- Every bank command that has all its words is answered. -/
def State.bankAnswers (s : State) : State := s.cmds.foldl State.bankAnswer s

/-- The Steward's accesses that wait at the banks of a die without power end: NOT_PRESENT (09 R310). -/
def State.dropBankWork (s : State) (d : Nat) : State :=
  let lost := (s.bankQ.filter (fun q => q.1 / 4 / 64 == d)).flatMap (·.2)
  let s := { s with bankQ := SMap.drop (fun k => k / 4 / 64 == d) s.bankQ }
  let give (s : State) (r : BankReq) : State := match r.who with
    | .steward h i => { s with cmds := s.cmds.map (Cmd.gotWord h ⟨i, 0, false, St.notPresent⟩) }
    | _ => s
  (lost.foldl give s).bankAnswers

/-! ## Hosts (R298) -/

/-- A host's first command creates its record with every subscription bit set, while fewer than 16 exist; every command
records the transport and port. -/
def State.seeHost (s : State) (h : CmdHdr) : State :=
  if s.hosts.any (·.host == h.host) then
    { s with hosts := s.hosts.map (fun r => if r.host == h.host then { r with via := h.via } else r) }
  else if 16 ≤ s.hosts.length then s
  else
    let r : HostRec :=
      { host := h.host, via := h.via, mask := 0xFFFF, seq := 0, lost := 0, overw := 0, overBase := 0, overPrev := 0,
        rights := [] }
    { s with hosts := s.hosts ++ [r] }

/-- The rights of a host as the bits of Table 11-6. -/
def State.rightBits (s : State) (h : HostId) : Nat :=
  (List.range 8).foldl (fun n r => if s.holds h r then n + 2 ^ r else n) 0

/-! ## Arrival -/

def opGetInfo : Nat := 0x0001
def opGetStatus : Nat := 0x0002
def opSubscribe : Nat := 0x0004
def opStats : Nat := 0x0005
def opCsrRead : Nat := 0x0101
def opCsrWrite : Nat := 0x0102
def opBankRead : Nat := 0x0103
def opBankWrite : Nat := 0x0104
def opFrameRead : Nat := 0x0105
def opFlashRead : Nat := 0x0106
def opLoadBegin : Nat := 0x0201
def opLoadData : Nat := 0x0202
def opLoadEnd : Nat := 0x0203
def opSwap : Nat := 0x0204
def opReachReload : Nat := 0x0205
def opOptionRead : Nat := 0x0206
def opOptionWrite : Nat := 0x0207
def opUflashErase : Nat := 0x0301
def opUflashProgram : Nat := 0x0302
def opLcTransition : Nat := 0x0401
def opDebugCert : Nat := 0x0402
def opOtpWrite : Nat := 0x0403
def opKeyRevoke : Nat := 0x0404
def opReset : Nat := 0x0501
def opPowerState : Nat := 0x0502
def opBistRun : Nat := 0x0601
def opChainStatus : Nat := 0x0701
def opChainEnum : Nat := 0x0702

/-- The transport serves messages now: Ixken runs, or in recovery the I3C/SMBus target takes GET_INFO and the LOAD messages
(R332); the mailbox holds a submitted request that no command has taken (R300); the MCTP port is up and has an EID
(R301); the target owns its pins and the controller sent to its address, the I3C dynamic address or before one is assigned
the static one, or the SMBus address (R302); the towpath link is trained. -/
def State.serves (s : State) (h : CmdHdr) (op : Nat) : Bool :=
  let ready := s.fbit Csr.mbInfo MbInfo.ready
  let rec_ := s.fbit Csr.mbInfo MbInfo.recovery
  let target := match h.via with | .i3c _ | .smbus _ => true | _ => false
  (if rec_ then target && (op == opGetInfo || op == opLoadBegin || op == opLoadData || op == opLoadEnd) else ready) &&
  match h.via with
  | .mailbox k => s.functionExists && s.fbit (Csr.mbSts k.val) MbSts.busy && (SMap.find s.mboxes k.val).isNone
  | .vdm p => s.portUp p.val && SMap.get 0 s.trans.eids p.val ≠ 0
  | .i3c a => s.fbit Csr.pinEn PinEn.tgt && a.toNat == (s.trans.i3c.map BitVec.toNat).getD (s.opt 0x10 % 128)
  | .smbus a => s.fbit Csr.pinEn PinEn.tgt && a.toNat == s.opt 0x11 % 128
  | .towpath => s.fbit Csr.towSts TowSts.inUp || s.fbit Csr.towSts TowSts.outUp

/-- Unanswered commands of a host (R304, R308). -/
def State.unanswered (s : State) (h : HostId) : List CmdHdr :=
  ((s.cmds ++ s.refused).flatMap (fun c => c.hdr :: c.aborts)).filter (fun (x : CmdHdr) => x.host == h)

/-- The header checks of R304 in their order: the status that answers the command, if any. -/
def State.headerFault (s : State) (h : CmdHdr) : Option Nat :=
  if 4096 < h.length || h.length ≠ h.payload.length then some St.badArgument
  else if h.status ≠ 0 || !h.resZero || 8 ≤ h.flags.toNat then some St.badArgument
  else if (s.unanswered h.host).any (fun (x : CmdHdr) => x.tag == h.tag) then some St.badArgument
  else if 8 ≤ (s.unanswered h.host).length then some St.busy
  else none

/-! ## Chain addressing (R325) -/

def bcast (h : CmdHdr) : Bool := bitOf h.flags.toNat 2

/-- The command is for another package. -/
def State.elsewhere (s : State) (h : CmdHdr) : Bool := h.chain.toNat ≠ s.ownAddr && !bcast h

/-- A command as a frame on the towpath carries it: its header (Table 09-2), then its payload. -/
def cmdBytes (h : CmdHdr) (op : Nat) : List Nat :=
  leNats 2 op ++ leNats 2 h.tag.toNat ++ leNats 2 h.length ++ [h.chain.toNat, h.flags.toNat, h.status.toNat, 0] ++
  leNats 2 h.seq.toNat ++ leNats 4 0 ++ h.payload.map BitVec.toNat

/-- What happens to a command for another package: BUSY during enumeration, NOT_PRESENT at or above the chain size or
between two breaks, else it is relayed on TOW_OUT, beyond a break on TOW_IN (R325, R327). A member that is not the head
relays nothing for its own hosts: NOT_PRESENT (log entry 20). -/
def State.relayCmd (s : State) (h : CmdHdr) (op : Nat) : State :=
  let a := h.chain.toNat
  if !s.actingHead then s.respond h op St.notPresent []
  else if s.tow.enumBusy then s.respond h op St.busy []
  else if s.fget Csr.towSts TowSts.size ≤ a || s.unreachablePkg a then s.respond h op St.notPresent []
  else (s.await h op .relay).towSend (s.towToward a) Ft.message a (cmdBytes h op)

/-- A broadcast command of a host of the head goes to every package (R325): both ways round a line. -/
def State.broadcast (s : State) (h : CmdHdr) (op : Nat) : State :=
  let n := s.fget Csr.towSts TowSts.size
  if !bcast h || h.via == .towpath || !s.actingHead || s.tow.enumBusy || n ≤ 1 then s
  else
    let s := { s with tow := { s.tow with bcasts := s.tow.bcasts ++ [(h, op, n - 1)] } }
    let s := s.towSend true Ft.message 0xFF (cmdBytes h op)
    if s.tow.breaks.isEmpty then s else s.towSend false Ft.message 0xFF (cmdBytes h op)

/-! ## Refusals (11 R365, R377) -/

/-- Commands that Table 11-2 serves in every state. -/
def alwaysServed (op : Nat) : Bool := [opGetInfo, opGetStatus, opAbort, opSubscribe, opStats].contains op

/-- The life-cycle state serves a command (Table 11-2, R366); what depends on its operands is checked with them. -/
def lcServes (st next op : Nat) : Bool :=
  if next == 0x60 && st ≠ 0x60 then op == opGetInfo || op == opGetStatus
  else if alwaysServed op then true
  else if op == opLcTransition then st ≠ 0x60
  else if op == opDebugCert || op == opKeyRevoke then st == 0x30 || st == 0x40
  else if op == opSwap then st == 0x30 || st == 0x40 || st == 0x50
  else if st == 0 then op == opOtpWrite
  else (0x20 < st && st ≤ 0x27) || st == 0x30 || st == 0x40 || st == 0x50

/-- The checks that refuse a command, with the reason and the missing right that a DIAG host sees. -/
structure Gate where
  right : Option Nat
  lcOk  : Bool
  level : Bool
  token : Bool
  deriving DecidableEq, Repr

/-- No check beyond the life-cycle table. -/
def Gate.open_ : Gate := { right := none, lcOk := true, level := true, token := true }

def Gate.needs (r : Nat) : Gate := { Gate.open_ with right := some r }

/-- The MCTP port that carried a command is enabled by MCTP_PORTS (R301). -/
def State.portServes (s : State) (h : CmdHdr) : Bool := match h.via with | .vdm p => bitOf (s.optLE 8 8) p.val | _ => true

/-- The refusal of a command: reason code and right. -/
def State.refusal (s : State) (h : CmdHdr) (op : Nat) (g : Gate) : Option (Nat × Nat) :=
  let port := s.portServes h
  match g.right with
  | some r =>
    if !s.holds h.host r then some (1, r)
    else if !(lcServes s.lcState (s.fget Csr.lcSts LcSts.next) op && g.lcOk) then some (2, 0xFF)
    else if !g.level then some (3, 0xFF)
    else if !port then some (4, 0xFF)
    else if !g.token then some (5, 0xFF) else none
  | none =>
    if !(lcServes s.lcState (s.fget Csr.lcSts LcSts.next) op && g.lcOk) then some (2, 0xFF)
    else if !g.level then some (3, 0xFF)
    else if !port then some (4, 0xFF)
    else if !g.token then some (5, 0xFF) else none

/-- A refused command: counted, answered 256 STW cycles after its arrival. -/
def State.refuse (s : State) (h : CmdHdr) (op reason right : Nat) : State :=
  let s := s.count Csr.lcRefuseCnt LcRefuseCnt.refused 1
  { s with refused := s.refused ++ [{ hdr := h, op := op, work := .refused reason right, aborts := [] }] }

/-- REFUSED_RESPONSE: the oldest refused command is answered; a DIAG host gets the reason (R377). -/
def doRefusedResponse (s : State) : State :=
  match s.refused with
  | [] => s
  | c :: r =>
    let s := { s with refused := r }
    let body : List (BitVec 8) := match c.work with
      | .refused reason right => if s.holds c.hdr.host Right.diag then leBytes 1 reason ++ leBytes 1 right else []
      | _ => []
    (s.respond c.hdr c.op St.refused body).answerAborts St.refused c.aborts

def execRefusedResponse (s : State) : Ans := .next (doRefusedResponse s)

/-! ## A command -/

/-- A mailbox's submitted request is taken by its command. -/
def State.takeMailbox (s : State) (h : CmdHdr) : State :=
  match h.via with
  | .mailbox k => { s with mboxes := SMap.put s.mboxes k.val h }
  | _ => s

/-- A command arrives (R298, R300, R304, R325): its host is recorded and its mailbox taken, and its header is checked. By a port
that MCTP_PORTS enables, one for another package is relayed, and a broadcast one goes on to the other packages as well; `own`
is what this package does with it. -/
def State.arrive (s : State) (h : CmdHdr) (op : Nat) (own : State → State) : State :=
  if !s.serves h op then s
  else
    let s := (s.seeHost h).takeMailbox h
    match s.headerFault h with
    | some st => s.respond h op st []
    | none =>
      if s.elsewhere h then (if s.portServes h then s.relayCmd h op else s.refuse h op 4 0xFF)
      else own (if s.portServes h then s.broadcast h op else s)

/-- A command of a host, in the order of R377: arrival and header checks, refusals, the one-at-a-time rule, the payload's
length, then its own checks and effect. -/
def State.command (s : State) (h : CmdHdr) (op need : Nat) (g : State → Gate) (busy : State → Bool)
    (body : State → State) : State :=
  s.arrive h op (fun s =>
    match s.refusal h op (g s) with
    | some (reason, right) => s.refuse h op reason right
    | none =>
      if busy s then s.respond h op St.busy []
      else if h.length < need then s.respond h op St.badArgument []
      else body s)

/-- UNLISTED_OPCODE: NOT_PRESENT with an empty payload (R304). -/
def doUnlistedOpcode (h : CmdHdr) (op : Nat) (s : State) : State :=
  s.arrive h op (fun s => s.respond h op St.notPresent [])

def execUnlistedOpcode (h : CmdHdr) (op : BitVec 16) (s : State) : Ans := .next (doUnlistedOpcode h op.toNat s)

/-! ## One at a time (R309) -/

/-- A LOAD session or a SWAP is in progress: a LOAD_END that waits for release included. -/
def State.loadRow (s : State) : Bool := s.sess.isSome || s.swap.isSome || s.waitsFor .load

/-- A flash-writing command is in progress, a LOAD to a slot or firmware copy included. -/
def State.flashRow (s : State) : Bool :=
  s.job.isSome || s.sess.any (fun x => x.target ≠ 0)

/-! ## Sources (08 R277) -/

/-- CFG_STS.SOURCE: the running image. -/
def State.source (s : State) : Nat := s.fget (Csr.cfgSts 0) CfgSts.source

/-- The package has no image, or its dies are in STANDBY (09 R310). -/
def State.noLogic (s : State) : Bool := s.source == 0 || s.inStandby

/-- Sets SOURCE on every die. -/
def State.setSource (s : State) (v : Nat) : State :=
  (List.range s.part.dies).foldl (fun s d => s.fset (Csr.cfgSts d) CfgSts.source v) s

/-- Sets the shadow state of a die: 0 EMPTY, 1 LOADING, 2 READY, 3 STALE (08 R266). -/
def State.setShadow (s : State) (d v : Nat) : State := s.fset (Csr.cfgSts d) CfgSts.shadow v

def State.setShadows (s : State) (v : Nat) : State :=
  (List.range s.part.dies).foldl (fun s d => s.setShadow d v) s

/-- A live swap ends without a flip: shadows STALE, the command answered, SWAP_ABANDONED raised (08 R286, R288, R296). -/
def State.abandonSwap (s : State) (status die : Nat) : State :=
  match s.swap with
  | none => s
  | some w =>
    let s := { s with swap := none, load := if s.load.any (fun (l : Load) => l.kind == LoadKind.swap) then none else s.load, shadowCsr := [],
                      flipList := [] }
    let s := s.setShadows 3
    let s := (List.range s.part.dies).foldl (fun s d => s.fset (Csr.cfgSts d) CfgSts.swap 0) s
    (s.finish w.cmd status []).notice stw 0x0505 [(1, status), (1, die)]

/-- The LOAD session ends without success: target 0 leaves STALE shadows (09 R313). -/
def State.endSession (s : State) : State :=
  match s.sess with
  | none => s
  | some x =>
    let s := { s with sess := none, load := if s.load.any (fun (l : Load) => l.kind == LoadKind.host) then none else s.load }
    if x.target == 0 then s.setShadows 3 else s

end Sys2Proof.Machine
end

