-- ==== Sys2Proof/Machine/DieReset.lean ====
section
/-! DEFINITION. What a reset of a logic die, the loss of its power, and a reset or the gating of a reach do to State (00 R12
to R14; 12 R401 to R404, Table 12-5; 08 Tables 08-10 and 08-14). -/

namespace Sys2Proof.Machine

/-- The option copy's SCRUB byte of a die as CFG_SCRUB_CTRL shows it, with its parity (08 R294; 10 R358). -/
def State.scrubCtrl (s : State) (d : Nat) : Word :=
  let v := s.opt (0x68 + d) % 16
  BitVec.ofNat 32 (v + parityOf 4 v * 2 ^ 31)

/-- The links of a die go down without a notice (12 R392, R401). -/
def State.dieLinksDown (s : State) (d : Nat) : State :=
  (List.range 8).foldl (fun s p =>
    s.takeDown (d * 8 + p) 0 true) s

/-- The culverts of a die go down (01 R51) and no neighbour is left to report it. -/
def State.dieCulvertsQuiet (s : State) (d : Nat) : State :=
  (List.range 3).foldl (fun s c => s.culvertDown d c) s

/-- One culvert of a die that leaves service goes down (01 R51); the neighbour in service reports it (01 Table 01-12). -/
def State.culvertLost (s : State) (d c : Nat) : State :=
  let was := s.fbit (Csr.cvSts d c) CvSts.trained
  let s := s.culvertDown d c
  match s.neighbour d c with
  | none => s
  | some n => if was && s.dieOn n then s.noticeLim n 0x010B (facing c) [(1, n), (1, facing c)] else s

/-- The culverts of a die that leaves service go down, as its neighbours see and report it (01 R51). -/
def State.dieCulvertsDown (s : State) (d : Nat) : State :=
  (List.range 3).foldl (fun s c => s.culvertLost d c) s

/-- Everything the flit path holds on a die. -/
def State.clearFlit (s : State) (d : Nat) : State :=
  let mine (k : Nat) : Bool := k / 256 == d
  { s with
    ports := SMap.drop (· / 8 == d) s.ports, cfgWords := SMap.drop (· / 4096 / 8 == d) s.cfgWords,
    ingress := SMap.drop (· / 8 / 8 == d) s.ingress, headFree := SMap.drop (· / 8 / 8 == d) s.headFree,
    meterOld := SMap.drop (fun a => dieOf a == d) s.meterOld, replays := SMap.drop (· / 8 == d) s.replays,
    xsrc := SMap.drop mine s.xsrc, xin := SMap.drop mine s.xin, xout := SMap.drop mine s.xout,
    xrr := SMap.drop mine s.xrr, xbusy := SMap.drop mine s.xbusy, tags := s.tags.filter (fun t => portDie t.port ≠ d) }

/-- The die that a request of the user window comes from. -/
def FlReq.die : FlReq → Option Nat
  | .window _ (some (a, _)) _ => some a
  | .window _ none a => a

/-- Engines, their registers, scratch and lock table (Table 12-5). A lock table of another die keeps the locks that this
die's engines held: nothing in the spec releases them; claims go, and locks that only they kept alive. -/
def State.clearEngines (s : State) (d : Nat) : State :=
  let s := { s with
    engs := SMap.drop (· / 64 == d) s.engs, engReg := SMap.drop (· / 256 / 64 == d) s.engReg,
    scratch := SMap.drop (· / 16384 / 64 == d) s.scratch, scratchBad := SMap.drop (· / 4096 / 64 == d) s.scratchBad,
    store := SMap.drop (· / 4096 / 64 == d) s.store, storeBad := SMap.drop (· / 4096 / 64 == d) s.storeBad,
    locks := SMap.erase s.locks d, claims := s.claims.filter (fun c => c.die ≠ d && c.eDie ≠ d),
    fl := { s.fl with reads := s.fl.reads.filter (fun r => r.die ≠ some d) } }
  (List.range 8).foldl (fun s k => s.sweepLocks k) s

/-- A request of the Steward for a host's command. -/
def BankWho.ofSteward : BankWho → Bool
  | .steward _ _ => true
  | _ => false

/-- Bank requests, pipelines and background test; the clear of every bank begins (07 R246). The Steward's own accesses, of
another die, go on waiting. -/
def State.clearBanks (s : State) (d : Nat) : State :=
  let s := { s with
    bankQ := SMap.mapVals (fun _ => []) (fun k l => if k / 4 / 64 == d then l.filter (fun r => r.who.ofSteward) else l) s.bankQ,
    bankRr := SMap.drop (fun k => k / 4 / 48 == d) s.bankRr, bankLast := SMap.drop (fun k => k / 2 / 48 == d) s.bankLast,
    bankRmw := SMap.drop (fun k => k / 2 / 48 == d) s.bankRmw, bt := SMap.erase s.bt d }
  (List.range 48).foldl (fun s b => s.startClear d b) s

/-- Cells, waypoints, channels, pins, serial ports, reference counts and the rewrite of a die. -/
def State.clearFabric (s : State) (d : Nat) : State :=
  { s with
    cells := SMap.drop (· / 1536 / 16 == d) s.cells, uio := SMap.drop (· / 24 == d) s.uio,
    wayW := SMap.drop (· % 128 / 16 == d) s.wayW, wayB := SMap.drop (· % 128 / 16 == d) s.wayB,
    chanW := SMap.drop (· / 128 / 16 == d) s.chanW, chanB := SMap.drop (· / 128 / 16 == d) s.chanB,
    chanQ := SMap.drop (· / 128 / 16 == d) s.chanQ, border := SMap.drop (· / 16 == d) s.border,
    fabIn := SMap.drop (· / 4096 == d) s.fabIn, entryOld := SMap.drop (· / 8 / 1536 / 16 == d) s.entryOld,
    usp := SMap.drop (· / 2 == d) s.usp, fabRef := SMap.drop (· / 4 == d) s.fabRef,
    fabAcc := SMap.drop (· / 4 == d) s.fabAcc, rewrite := SMap.erase s.rewrite d }

/-- A release after a die was reset or lost power: gone, or going on without the die. -/
def Release.without (d : Nat) (r : Release) : Option Release :=
  match r.scope with
  | .all => some { r with skip := d :: r.skip }
  | .die x => if x.val == d then none else some r
  | .reach x _ => if x.val == d then none else some r

/-- The held state of a die (08 R282), its jobs and releases ended; a REACH_RELOAD command on it is answered ABORTED. -/
def State.holdDie (s : State) (d : Nat) : State :=
  let cmds := (s.jobs.filter (·.die == d)).filterMap (fun (j : ReachJob) => match j.kind with
    | .reload c => c
    | _ => none)
  let s := { s with
    jobs := s.jobs.filter (·.die ≠ d), releases := s.releases.filterMap (Release.without d),
    held := SMap.erase s.held d, gatesPass := SMap.erase s.gatesPass d, writesOn := SMap.erase s.writesOn d,
    scrubSkips := SMap.erase s.scrubSkips d,
    planes := SMap.drop (· / 16 == d) s.planes, pins := { s.pins with openRun := s.pins.openRun.filter (·.die ≠ d) } }
  cmds.foldl (fun s h => s.finish h St.aborted []) s

/-- The die's notice queue is emptied and its windows restart (09 R433, R434). -/
def State.clearNotices (s : State) (d : Nat) : State :=
  { s with queues := SMap.erase s.queues d, windows := s.windows.filter (·.die ≠ d) }

/-- The three banks that border a reach (00 Table 00-3). -/
def reachBanks (r : Nat) : List Nat := [3 * r, 3 * r + 1, 3 * r + 2]

/-- A bank without power: unavailable, and no clear runs on it (07 R245). -/
def State.bankDead (s : State) (d b : Nat) : State :=
  State.fset { s with clearing := SMap.set false s.clearing (bankKey d b) false } (Csr.bankInfo d b) BankInfo.unav 1

/-- The banks of a die's gated reaches stay unavailable through its resets and its wake (12 R393, R394). -/
def State.gatedBanks (s : State) (d : Nat) : State :=
  ((List.range 16).filter (s.gated d)).foldl (fun s r => (reachBanks r).foldl (fun s b => s.bankDead d b) s) s

/-- What kinds P, H and D and a wake do to a die: its registers by their Cleared by columns, its units, the held state. The
directory reports what it loses after the queue was emptied (02 R71). -/
def State.dieReset (s : State) (d : Nat) (ks : List Kind) : State :=
  let s := (s.dieLinksDown d).dieCulvertsDown d
  let s := (s.resetCsr ks (fun a => dieOf a == d)).clearNotices d
  let s := ((((s.clearFlit d).clearEngines d).clearTasks d).clearDitches d).clearFabric d
  let s := (((s.clearBanks d).gatedBanks d).holdDie d).setBalances d 4096
  let s := { s with pllLost := SMap.erase s.pllLost d, unlockAt := SMap.erase s.unlockAt d, sched := SMap.erase s.sched d, shadowCsr := SMap.drop (fun a => dieOf a == d) s.shadowCsr }
  s.clearSlice d

/-- Reset kind D of a die (12 R401): a live swap in its background load is abandoned, a host load ends. -/
def State.resetD (s : State) (d : Nat) : State :=
  let s := if s.swap.any (fun w => w.phase.early) then s.abandonSwap St.aborted d else s
  let s := if s.sess.any (·.target == 0) then s.endSession else s
  s.dieReset d [.d]

/-- A logic die loses power (12 R392 step 3): its links go down, its neighbours act by 01 R51, and it is off. -/
def State.dieOff (s : State) (d : Nat) : State :=
  let s := (s.dieLinksDown d).dieCulvertsDown d
  let s := (s.holdDie d).dropBankWork d
  s.fsetBit Csr.pwrSts PwrSts.dieOn d false

/-- A die wakes: every register holds its Reset value, but what Table 12-5 keeps; CFG_SCRUB_CTRL is taken from the option
copy, and the milestone is loaded (00 R14; 05 R194). -/
def State.dieWake (s : State) (d : Nat) : State :=
  let s := s.dieReset d [.d]
  let s := (s.fsetBit Csr.pwrSts PwrSts.dieOn d true).csrSet (Csr.cfgScrubCtrl d) (s.scrubCtrl d)
  (s.loadMilestone d).count (Csr.msAdjCnt d) MsAdjCnt.reloads 1

/-! ## Reaches -/

/-- Isolates a reach (08 R291): its border latches capture what they present, beats on their way into it are discarded (R288,
R290), and a pending rewrite of it is cancelled (06 R214). -/
def State.isolate (s : State) (d r : Nat) : State :=
  let s := (s.captureBorder d r).dropBeats d r
  (s.fsetBit (Csr.cfgReachSts d) CfgReachSts.iso r true).cancelRewrite d (·.reach == r)

/-- The resets of a reach are asserted, and its write enables are inactive; an open-wire test leaves out its pins (06 R233; 12
R388). -/
def State.assertReach (s : State) (d r : Nat) : State :=
  let s := s.isolate d r
  let pins := (reachPins r).foldl setBitN 0
  let s := { s with
    held := SMap.set 0xFFFF s.held d (setBitN (SMap.get 0xFFFF s.held d) r),
    writesOn := SMap.set 0 s.writesOn d (clrBitN (SMap.get 0 s.writesOn d) r),
    pins := { s.pins with openRun := s.pins.openRun.map (fun (x : OpenTest) =>
      if x.die == d then { x with tested := x.tested &&& ~~~(BitVec.ofNat 32 pins) } else x) } }
  s.reachClear d r

/-- REACH reset (06 R233): the bits of the reach's pins in UIO_OPEN_RES go too (12 Table 12-5). -/
def State.holdReach (s : State) (d r : Nat) : State :=
  let s := s.assertReach d r
  (reachPins r).foldl (fun s p => s.fsetBit (Csr.uioOpenRes d) UioOpenRes.openF p false) s

/-- A reach is gated (12 R394): isolated, then its cells and bordering banks lose power; UIO_OPEN_RES is kept (12 Table 12-5). -/
def State.gateReach (s : State) (d r : Nat) : State :=
  let s := s.assertReach d r
  let s := s.fsetBit (Csr.pwrGate d) PwrGate.gated r true
  (reachBanks r).foldl (fun s b => s.bankDead d b) s

end Sys2Proof.Machine
end

