-- ==== Sys2Proof/Machine/FlashBase.lean ====
section
/-! DEFINITION. What the flash array and the OTP hold and mean (10 R335, R336, R351 to R360; 11 R362 to R373): sectors,
words, flag cells, tables, records, the protection log, and the life-cycle decode. -/

namespace Sys2Proof.Machine

/-! ## The array (R335, R336) -/

def ones64 : BitVec 64 := BitVec.allOnes 64

/-- The flash word at word index `w` (byte offset 8w): an erased byte reads 0xFF. -/
def State.flWord (s : State) (w : Nat) : BitVec 64 := BitVec.ofNat 64 (Memory.readLE 0xFF s.flash (8 * w) 8)

/-- Flash bytes. -/
def State.flBytes (s : State) (a n : Nat) : List (BitVec 8) := (List.range n).map (fun i => Memory.read 0xFF s.flash (a + i))

/-- Stores a word with the number of its bits that its ECC finds wrong. -/
def State.setFlWord (s : State) (w : Nat) (v : BitVec 64) (bad : Nat) : State :=
  { s with flash := Memory.writeLE 0xFF s.flash (8 * w) 8 v.toNat, flashBad := SMap.set 0 s.flashBad w bad }

/-- The firmware copies whose copy-record sector is not in a range keep their VALID marks. -/
def keptMarks (lo hi v : Nat) : Nat :=
  let v := if lo ≤ 21503 && 21503 < hi then clrBitN v 0 else v
  if lo ≤ 22527 && 22527 < hi then clrBitN v 1 else v

/-- Sectors below `hi` from `lo` are erased; the VALID mark of a firmware copy goes with its copy-record sector, its last one
(09 R313, R332). -/
def State.eraseSectors (s : State) (lo hi : Nat) : State :=
  { s with flash := SMap.drop (fun a => lo ≤ a / 4096 && a / 4096 < hi) s.flash,
           flashBad := SMap.drop (fun w => lo ≤ w / 512 && w / 512 < hi) s.flashBad,
           fwValid := keptMarks lo hi s.fwValid }

/-- A free 64-bit value. -/
def State.free64 (s : State) : BitVec 64 × State :=
  let (n, s) := s.draw
  (Config.freeWord64 n, s)

/-- The content of a sector is no longer known: every word is a free value with an unknown ECC state (R349). -/
def State.spoilSector (s : State) (sec : Nat) : State :=
  let s := { s with fwValid := keptMarks sec (sec + 1) s.fwValid }
  (List.range 512).foldl (fun s i =>
    let (v, s) := s.free64
    let (b, s) := s.freeByte
    s.setFlWord (sec * 512 + i) v (b % 3)) s

/-- The raw sectors of Table 10-7. -/
def rawSector (sec : Nat) : Bool := 24450 ≤ sec && sec ≤ 24453

/-- Firmware copy of a sector: 0 A, 1 B. -/
def fwCopyOf (sec : Nat) : Option Nat :=
  if 20480 ≤ sec && sec < 21504 then some 0 else if 21504 ≤ sec && sec < 22528 then some 1 else none

/-- Slot of a sector: 0 A, 1 B. -/
def slotOf (sec : Nat) : Option Nat := if sec < 10240 then some 0 else if sec < 20480 then some 1 else none

/-- First sector of slot or firmware copy `i`. -/
def slotSector (i : Nat) : Nat := 10240 * i
def fwSector (i : Nat) : Nat := 20480 + 1024 * i

/-- Sorted insertion without repeats. -/
def insertNat (x : Nat) : List Nat → List Nat
  | [] => [x]
  | y :: r => if x == y then y :: r else if x < y then x :: y :: r else y :: insertNat x r

/-- The sector whose erase runs or is suspended. -/
def State.erasing (s : State) : Option Nat :=
  match s.fl.susp, s.fl.op with
  | some x, _ => some x
  | none, some (.erase x) => some x
  | none, _ => none

/-- A list without adjacent repeats. -/
def dedupAdj {α : Type} [BEq α] : List α → List α
  | [] => []
  | a :: r => match dedupAdj r with
    | [] => [a]
    | b :: q => if a == b then b :: q else a :: b :: q

/-! ## Controller state, and reads of the array (R339, R345 to R347) -/

def Fs.idle : Nat := 0
def Fs.prog : Nat := 1
def Fs.erase : Nat := 2
def Fs.eraseSusp : Nat := 3
def Fs.progInSusp : Nat := 4
def Fs.rdpLower : Nat := 5

def State.flState (s : State) : Nat := s.fget Csr.flSts FlSts.state
def State.setFlState (s : State) (v : Nat) : State := s.fset Csr.flSts FlSts.state v

/-- The threshold of R339. -/
def State.ewThr (s : State) : Nat := max 1 (min 4 (s.fget Csr.flCtrl FlCtrl.ewThr))

/-- The four words of a line: bits corrected, and whether one is uncorrectable; a raw sector has no ECC. -/
def State.lineBad (s : State) (line : Nat) : Nat × Bool :=
  if rawSector (line / 128) then (0, false)
  else
    let b := (List.range 4).map (fun i => SMap.get 0 s.flashBad (4 * line + i))
    ((b.filter (· == 1)).length, b.any (1 < ·))

/-- The sector is under erase: running, suspended, or in the erase of R354. -/
def State.underErase (s : State) (sec : Nat) : Bool :=
  s.erasing == some sec ||
  (s.flState == Fs.rdpLower && (sec < 20480 || (22528 ≤ sec && sec < 24450)))

/-- A line has been read for a requester: its effects, and whether it is marked poisoned. -/
def State.lineRead (s : State) (line req : Nat) : Bool × State :=
  let sec := line / 128
  if s.underErase sec then (true, s)
  else
    let (n, bad) := s.lineBad line
    let s := s.count Csr.flCorrCnt FlCorrCnt.bits n
    let s := if s.ewThr ≤ n then
        (s.count Csr.flEwCnt FlEwCnt.ew 1).noticeLim stw 0x0601 sec [(2, sec), (1, n), (1, req)]
      else s
    if !bad then (false, s)
    else
      let s := s.count Csr.flEwCnt FlEwCnt.uncorr 1
      let s := if s.fbit Csr.flEccLog FlEccLog.valid then s
        else s.csrSet Csr.flEccLog
          (FlEccLog.valid.put (FlEccLog.req.put (FlEccLog.line.put (0 : Word) line) req) 1)
      (true, s.noticeLim stw 0x0602 sec [(2, sec), (4, line), (1, req)])

/-- A read request in state ERASE suspends the erase (R347). -/
def State.readSuspends (s : State) : State := if s.flState == Fs.erase then s.flag Csr.flSts FlSts.autosusp else s

/-- The lines of `n` bytes at `a` are read for a requester: those with a wrong bit count (R339). -/
def State.linesRead (s : State) (a n req : Nat) : State :=
  (dedupAdj ((s.flashBad.filter (fun x => a / 32 ≤ x.1 / 4 && 32 * (x.1 / 4) < a + n)).map (fun x => x.1 / 4))).foldl
    (fun s l => (s.lineRead l req).2) s.readSuspends

/-- Requesters of FL_ECC_LOG.REQ. -/
def Rq.steward : Nat := 1
def Rq.image : Nat := 2

/-! ## Tables (R351) -/

/-- The entries of a bad-sector table: words up to the first erased one. -/
def State.tableWords (s : State) (sec : Nat) : List (BitVec 64) :=
  ((List.range 512).map (fun i => s.flWord (sec * 512 + i))).takeWhile (· != ones64)

def State.fieldTable (s : State) : List (BitVec 64) := s.tableWords 24455
def State.factoryTable (s : State) : List (BitVec 64) := (s.tableWords 24454).take 16

/-- A sector listed in either table. -/
def State.worn (s : State) (sec : Nat) : Bool :=
  (s.factoryTable ++ s.fieldTable).any (fun (w : BitVec 64) => w.toNat % 2 ^ 15 == sec)

/-- FL_BAD_STS from the tables. -/
def State.badStsRefresh (s : State) : State :=
  let n := s.fieldTable.length
  s.csrSet Csr.flBadSts
    (FlBadSts.full.put (FlBadSts.factory.put (FlBadSts.field.put (0 : Word) n) s.factoryTable.length) (b2n (n == 512)))

/-- A worn sector is retired: entry, WORN, notice. -/
def State.retire (s : State) (sec cause : Nat) : State :=
  let n := s.fieldTable.length
  let s := if n < 512 then s.setFlWord (24455 * 512 + n) (BitVec.ofNat 64 (sec + cause * 2 ^ 16)) 0 else s
  let s := s.badStsRefresh
  s.notice stw 0x0605 [(2, sec), (1, cause), (2, s.fget Csr.flBadSts FlBadSts.field), (1, s.fget Csr.flBadSts FlBadSts.full)]

/-! ## Words of a raw sector -/

/-- The indexes of the words of a sector that are not erased. -/
def State.usedWords (s : State) (sec : Nat) : List Nat :=
  dedupAdj ((s.flash.filter (fun (c : Host.Cell) => c.1 / 4096 == sec)).map (fun (c : Host.Cell) => c.1 / 8))

/-! ## Protection log (R353) -/

/-- A log entry: level code, kind, sequence. -/
structure ProtEntry where
  code : Nat
  kind : Nat
  seq  : Nat
  sec  : Nat
  deriving DecidableEq, Repr

def protEntry (sec : Nat) (w : BitVec 64) : Option ProtEntry :=
  let lo := w.toNat % 2 ^ 32
  let kind := lo / 256 % 256
  if w.toNat / 2 ^ 32 + lo == 2 ^ 32 - 1 && (kind == 0x5A || kind == 0xA5) then
    some { code := lo % 256, kind := kind, seq := lo / 65536, sec := sec }
  else none

/-- The word of an entry. -/
def protWord (code kind seq : Nat) : BitVec 64 :=
  let lo := code + kind * 256 + seq % 65536 * 65536
  BitVec.ofNat 64 (lo + (2 ^ 32 - 1 - lo) * 2 ^ 32)

def State.protEntries (s : State) : List ProtEntry :=
  ((s.usedWords 24450).map (fun w => protEntry 24450 (s.flWord w)) ++
   (s.usedWords 24451).map (fun w => protEntry 24451 (s.flWord w))).filterMap id

/-- The entry with the highest SEQ, as a signed difference modulo 2^16. -/
def newestProt : List ProtEntry → Option ProtEntry
  | [] => none
  | e :: r => match newestProt r with
    | none => some e
    | some b => if decide (0 < signedOf 16 (e.seq + 65536 - b.seq % 65536)) then some e else some b

/-- The level of a code (Table 10-6). -/
def levelOf (code : Nat) : Nat := if code == 0x0A then 0 else if code == 0x5C then 1 else 2

def levelCode (l : Nat) : Nat := if l == 0 then 0x0A else if l == 1 then 0x5C else 0xC5

/-- The protection level: of the newest SET entry; 2 when words are there and none is valid. -/
def State.protLevel (s : State) : Nat :=
  match newestProt (s.protEntries.filter (·.kind == 0x5A)) with
  | some e => levelOf e.code
  | none =>
    if s.protEntries.isEmpty && !((s.usedWords 24450).isEmpty && (s.usedWords 24451).isEmpty) then 2 else 0

/-- The code of a LOWER_INTENT that is current. -/
def State.protIntent (s : State) : Option Nat :=
  (newestProt s.protEntries).bind (fun e => if e.kind == 0xA5 then some e.code else none)

/-- FL_PROT.LEVEL and INTENT from the log. -/
def State.protRefresh (s : State) : State :=
  (s.fset Csr.flProt FlProt.level s.protLevel).fset Csr.flProt FlProt.intent (b2n s.protIntent.isSome)

/-- The first erased word after the used ones of a sector, if any. -/
def State.appendAt (s : State) (sec : Nat) : Option Nat :=
  (List.range 512).find? (fun i => !(s.usedWords sec).contains (sec * 512 + i))

/-- Where the next entry goes, whether the other sector is erased first, and its word. -/
def State.nextProt (s : State) (code kind : Nat) : Nat × Bool × BitVec 64 :=
  let cur := newestProt s.protEntries
  let sec := match cur with | some e => e.sec | none => 24450
  let w := protWord code kind (match cur with | some e => e.seq + 1 | none => 0)
  match s.appendAt sec with
  | some i => (sec * 512 + i, false, w)
  | none => ((48901 - sec) * 512, true, w)

/-- Appends an entry at once, as the lowering sequence does. -/
def State.appendProt (s : State) (code kind : Nat) : State :=
  let (a, wipe, w) := s.nextProt code kind
  let s := if wipe then s.eraseSectors (a / 512) (a / 512 + 1) else s
  (s.setFlWord a w 0).protRefresh

/-! ## User option record (R356 to R358) -/

/-- The 256 bytes of a copy. -/
def State.optCopy (s : State) (i : Nat) : List (BitVec 8) := s.flBytes ((24448 + i) * 4096) 256

def optMagic (b : List (BitVec 8)) : Bool := fromLE (b.take 4) == 0x4F505458
def optCrc (b : List (BitVec 8)) : Bool := fromLE (b.drop 252) == crc32c ((b.take 252).map BitVec.toNat)
def optSeq (b : List (BitVec 8)) : Nat := fromLE ((b.drop 248).take 4)
def optValid (b : List (BitVec 8)) : Bool := optMagic b && optCrc b

/-- The copy that is current: 0 or 1. -/
def State.optCurrent (s : State) : Option Nat :=
  let a := s.optCopy 0
  let b := s.optCopy 1
  match optValid a, optValid b with
  | false, false => none
  | true, false => some 0
  | false, true => some 1
  | true, true => if decide (0 < signedOf 32 (optSeq b + 2 ^ 32 - optSeq a)) then some 1 else some 0

/-- The current record; the defaults of R358 where no copy is valid. -/
def State.optRecord (s : State) : List (BitVec 8) :=
  match s.optCurrent with
  | some i => s.optCopy i
  | none => defaultOptions

/-! ## Boot record (09 R332; R359) -/

/-- Word `i` of a copy. -/
def State.bootWord (s : State) (c i : Nat) : BitVec 64 := s.flWord ((24452 + c) * 512 + i)

def bootMagic (w : BitVec 64) : Bool := w.toNat % 2 ^ 32 == 0x424F4F54

/-- The current copy of the boot record. -/
def State.bootCurrent (s : State) : Option Nat :=
  let a := s.bootWord 0 0
  let b := s.bootWord 1 0
  match bootMagic a, bootMagic b with
  | false, false => none
  | true, false => some 0
  | false, true => some 1
  | true, true =>
    if decide (0 < signedOf 16 (b.toNat / 2 ^ 32 % 65536 + 65536 - a.toNat / 2 ^ 32 % 65536)) then some 1 else some 0

/-- PRIMARY; without a record, firmware A. -/
def State.bootPrimary (s : State) : Nat :=
  match s.bootCurrent with | some c => (s.bootWord c 1).toNat % 2 | none => 0

/-- The trial is cancelled: word 3 is 0. -/
def State.bootCancelled (s : State) : Bool :=
  match s.bootCurrent with | some c => (s.bootWord c 3).toNat == 0 | none => false

/-- TRIAL in effect. -/
def State.bootTrial (s : State) : Bool :=
  match s.bootCurrent with | some c => (s.bootWord c 1).toNat / 2 % 2 == 1 && !s.bootCancelled | none => false

/-- Starts counted: the 0 bits of word 2. -/
def State.bootStarts (s : State) : Nat :=
  match s.bootCurrent with | some c => 3 - popCount 3 (s.bootWord c 2).toNat | none => 0

/-- Counts a trial start: the next 1 bit of word 2 becomes 0. -/
def State.countStart (s : State) : State :=
  match s.bootCurrent with
  | some c =>
    let w := (s.bootWord c 2).toNat
    match (List.range 3).find? (bitOf w) with
    | some i => s.setFlWord ((24452 + c) * 512 + 2) (BitVec.ofNat 64 (w - 2 ^ i)) 0
    | none => s
  | none => s

/-- Cancels the trial. -/
def State.cancelTrial (s : State) : State :=
  match s.bootCurrent with
  | some c => s.setFlWord ((24452 + c) * 512 + 3) 0 0
  | none => s

/-- A change of PRIMARY or TRIAL: a new copy in the other sector, words 1 to 3 first, then the old sector is erased. -/
def State.setBoot (s : State) (primary : Nat) (trial : Bool) : State :=
  let old := s.bootCurrent
  let c := match old with | some c => 1 - c | none => 0
  let seq := match old with | some o => ((s.bootWord o 0).toNat / 2 ^ 32 + 1) % 65536 | none => 0
  let base := (24452 + c) * 512
  let s := s.eraseSectors (24452 + c) (24453 + c)
  let s := s.setFlWord (base + 1) (BitVec.ofNat 64 (primary + b2n trial * 2)) 0
  let s := s.setFlWord base (BitVec.ofNat 64 (0x424F4F54 + seq * 2 ^ 32)) 0
  match old with
  | some o => s.eraseSectors (24452 + o) (24453 + o)
  | none => s

/-! ## Seals (08 R275) -/

/-- Word index of a slot's seal record. -/
def sealWord (i : Nat) : Nat := (slotSector i + 10239) * 512

/-- The slot is sealed. -/
def State.sealed (s : State) (i : Nat) : Bool := (s.flWord (sealWord i)).toNat % 2 ^ 32 == 0x4C534558

/-- KEY_IDX of the seal. -/
def State.sealKey (s : State) (i : Nat) : Nat := (s.flWord (sealWord i + 1)).toNat % 256

/-- The image header in a slot. -/
def State.slotHeader (s : State) (i : Nat) : List (BitVec 8) := s.flBytes (slotSector i * 4096) 256

/-! ## OTP (11 R362 to R364, R373) -/

def State.otpWord (s : State) (w : Nat) : BitVec 64 := SMap.get 0 s.otp w

/-- Programs bits of a word. -/
def State.otpOr (s : State) (w : Nat) (v : BitVec 64) : State :=
  (s.fset Csr.otpSts OtpSts.word w) |> fun s => { s with otp := SMap.set 0 s.otp w (s.otpWord w ||| v) }

/-- A run of words with any bit set. -/
def State.otpPresent (s : State) (w n : Nat) : Bool := (List.range n).any (fun i => s.otpWord (w + i) != 0)

/-- Owner key hash `i` is present. -/
def State.keyPresent (s : State) (i : Nat) : Bool := s.otpPresent (0x50 + 6 * i) 6

/-- Owner key `i` is usable (R373). -/
def State.keyUsable (s : State) (i : Nat) : Bool := i < 3 && s.keyPresent i && s.otpWord (0x62 + i) == 0

/-- One-bits of the certificate counter. -/
def State.certCount (s : State) : Nat := (List.range 16).foldl (fun n i => n + popCount 64 (s.otpWord (0x70 + i)).toNat) 0

/-- The words OTP_RD shows: no seal key word, no reserved word (Table 11-1). -/
def otpReadable (w : Nat) : Bool :=
  w ≤ 0x15 || (0x20 ≤ w && w ≤ 0x49) || (0x50 ≤ w && w ≤ 0x64) || w == 0x68 || w == 0x69 ||
  (0x70 ≤ w && w ≤ 0x7F) || (0x100 ≤ w && w ≤ 0x1FF) || (0x3F0 ≤ w && w ≤ 0x3FF)

/-! ## Life cycle (11 R365 to R370) -/

/-- The pattern of a life-cycle word (R367). -/
def lcPattern (i : Nat) : BitVec 64 :=
  BitVec.ofNat 64 ((0x4C435700 + i) * 2 ^ 32 + (2 ^ 32 - 1 - (0x4C435700 + i)))

def Lc.invalid : Nat := 0xFF

/-- The intent word and the target word of PROD, RMA, SCRAP. -/
def lcIntent (x : Nat) : Nat := 0x13 + x
def lcTarget (x : Nat) : Nat := 0x10 + x

/-- The decode after the checks of words: test-step and mission words (R367). The second component is the first word that
broke it. -/
def lcSets (r : Nat → BitVec 64) : Nat × Nat :=
  let t := ((List.range 15).filter (fun i => r i == lcPattern i)).length
  match (List.range 15).find? (fun i => (r i == lcPattern i) != decide (i < t)) with
  | some i => (Lc.invalid, i)
  | none =>
    let dev := r 0x0F == lcPattern 0x0F
    let prod := r 0x10 == lcPattern 0x10
    let rma := r 0x11 == lcPattern 0x11
    if !dev && !prod && !rma then
      if t == 0 then (0x00, 0)
      else if t % 2 == 1 then (0x10 + (t - 1) / 2, 0) else (0x20 + t / 2, 0)
    else if t == 0 || t % 2 == 1 then (Lc.invalid, if dev then 0x0F else if prod then 0x10 else 0x11)
    else if !dev then (Lc.invalid, 0x0F)
    else if !prod then (if rma then (Lc.invalid, 0x10) else (0x30, 0))
    else if rma then (0x50, 0) else (0x40, 0)

/-- The decode of R367 over a reading of the life-cycle words. -/
def lcDecode (r : Nat → BitVec 64) : Nat × Nat :=
  if r 0x12 == lcPattern 0x12 then (0x60, 0)
  else
    match (List.range 0x13).find? (fun i => r i != 0 && r i != lcPattern i) with
    | some i => (Lc.invalid, i)
    | none =>
      match (List.range 3).find? (fun x => r (lcIntent x) != 0 && r (lcTarget x) != lcPattern (lcTarget x)) with
      | some x => (Lc.invalid, lcIntent x)
      | none => lcSets r

/-- The base state of R370: partial mission words read as blank, intent words left out. -/
def lcBase (r : Nat → BitVec 64) : Nat :=
  (lcDecode (fun i => if 0x0F ≤ i && i ≤ 0x12 && r i != lcPattern i then 0 else if 0x13 ≤ i then 0 else r i)).1

/-- Test-step words programmed. -/
def State.lcSteps (s : State) : Nat := ((List.range 15).filter (fun i => s.otpWord i == lcPattern i)).length

/-- The JTAG port is open (R376; 13 R415): by state, or in DEV and PROD while a host holds the right. -/
def State.jtagOpen (s : State) : Bool :=
  let st := s.lcState
  st == 0 || (0x20 < st && st ≤ 0x27) || st == 0x50 ||
  ((st == 0x30 || st == 0x40) && s.hosts.any (fun x => x.rights.any (·.1 == Right.jtag)))

/-- The fields of LC_STS and LC_CNT that follow the OTP and the host records. -/
def State.lcRefresh (s : State) : State :=
  let s := s.fset Csr.lcSts LcSts.next (lcDecode s.otpWord).1
  let s := s.fset Csr.lcSts LcSts.tokens (7 - s.lcSteps / 2)
  let s := s.fset Csr.lcSts LcSts.keys (b2n (s.keyUsable 0) + 2 * b2n (s.keyUsable 1) + 4 * b2n (s.keyUsable 2))
  let s := s.fset Csr.lcSts LcSts.jtagOpen (b2n s.jtagOpen)
  s.fset Csr.lcCnt LcCnt.counter s.certCount

/-- The erase of R354 step 3: slots A and B, user flash, user option record, with their flag cells. -/
def State.wipeFlash (s : State) : State :=
  let s := ((s.eraseSectors 0 20480).eraseSectors 22528 24448).eraseSectors 24448 24450
  { s with flagCells := s.flagCells.filter (fun x => !(x < 20480 || (22528 ≤ x && x < 24450))) }

/-- Step 2 of R354: every logic die held as after reset kind D, SOURCE 0. -/
def State.holdAll (s : State) : State :=
  let s := (List.range s.part.dies).foldl (fun s d => if s.dieOn d then s.resetD d else s) s
  s.setSource 0

/-- A transition whose intent qualifies in a base state (R370): 2 SCRAP, 1 RMA, 0 PROD. -/
def lcQualifies (base : Nat) (r : Nat → BitVec 64) : Option Nat :=
  [2, 1, 0].find? (fun x => r (lcIntent x) != 0 &&
    (match x with | 0 => base == 0x30 | 1 => base == 0x40 | _ => base == 0x30 || base == 0x40))

def lcCode (x : Nat) : Nat := 0x40 + 0x10 * x

/-- LC_RESUME (R370): the intent word completed, the erase done again, the target word programmed. -/
def State.lcResume (s : State) : State :=
  let base := lcBase s.otpWord
  match lcQualifies base s.otpWord with
  | none => s
  | some x =>
    let s := s.otpOr (lcIntent x) (lcPattern (lcIntent x))
    let s := if x == 0 then s else s.wipeFlash.holdAll
    let s := s.otpOr (lcTarget x) (lcPattern (lcTarget x))
    (s.fset Csr.lcSts LcSts.resumed 1).notice stw 0x0701 [(1, base), (1, lcCode x), (1, 1)]

/-- LC_DECODE: the state in effect from now on; INVALID raises its notice (R366, R371). -/
def State.lcLatch (s : State) : State :=
  let (st, i) := lcDecode s.otpWord
  let s := (s.fset Csr.lcSts LcSts.state st).lcRefresh
  if st == Lc.invalid then s.notice stw 0x0702 [(1, i)] else s

end Sys2Proof.Machine
end

