-- ==== Sys2Proof/Machine/ImageBytes.lean ====
section
/-! DEFINITION. The bytes of a field image (08 R267 to R275): its header, its section table, its records and sections, and its
signature block. `rd a` is the byte at offset `a` of the image. -/

namespace Sys2Proof.Machine

/-- The bytes of words. -/
def wordBytes (ws : List Word) : List (BitVec 8) := ws.flatMap (fun w => leBytes 4 w.toNat)

/-- Die-local index of a frame (R265). -/
def localIndex (r f : Nat) : Nat := r * 2048 + f

/-! ## Records (R271, R272, R285) -/

/-- What follows a record word. -/
inductive RecBody where
  | lit (groups : List (List Word × Word))
  | rep (src crc : Word)
  | zero (crc : Word)
  | fill (pattern crc : Word)
  deriving DecidableEq, Repr

def RecBody.op : RecBody → Nat
  | .lit _ => 0
  | .rep _ _ => 1
  | .zero _ => 2
  | .fill _ _ => 3

def recFrame (rec : Word) : Nat := rec.toNat / 4 % 32768
def recCount (rec : Word) : Nat := rec.toNat / 2 ^ 17 + 1

/-- Bytes of a record with its record word (Table 08-6). -/
def recSize (rec : Word) : Nat := match rec.toNat % 4 with | 0 => 4 + 260 * recCount rec | 2 => 8 | _ => 12

/-! ## Bytes -/

/-- A little-endian number of `n` bytes at `a`. -/
def leAt (rd : Nat → Nat) (a : Nat) : Nat → Nat
  | 0 => 0
  | n + 1 => rd a + 256 * leAt rd (a + 1) n

/-- Bytes `a` to `a + n − 1`. -/
def bytesAt (rd : Nat → Nat) (a n : Nat) : List Nat := (List.range n).map (fun i => rd (a + i))

/-- A read of a list of bytes. -/
def listRd (l : List (BitVec 8)) (a : Nat) : Nat := (l.getD a 0).toNat

/-- A read of slot `i`. -/
def State.slotRd (s : State) (i a : Nat) : Nat := (Memory.read 0xFF s.flash (slotSector i * 4096 + a)).toNat

/-! ## Header (Table 08-2, R275) -/

def imgLen (rd : Nat → Nat) : Nat := leAt rd 0x08 4
def imgSections (rd : Nat → Nat) : Nat := leAt rd 0x0E 2
def imgVersion (rd : Nat → Nat) : Nat := leAt rd 0x10 4
def imgKey (rd : Nat → Nat) : Nat := rd 0x14

/-- DIES and GRADE suit the part. -/
def Part.imageFits (p : Part) (rd : Nat → Nat) : Bool :=
  rd 0x0C == p.dies && (rd 0x0D == 1 || rd 0x0D == 2) && rd 0x0D ≤ p.grade

/-- The header keeps the rules of R267. -/
def Part.headerOk (p : Part) (rd : Nat → Nat) : Bool :=
  leAt rd 0 4 == 0x38504D58 && leAt rd 4 2 == 1 && leAt rd 6 2 == 0x100 && imgLen rd % 4 == 0 &&
  imgLen rd ≤ 41938944 && p.imageFits rd && 1 ≤ imgSections rd && imgSections rd ≤ 512 && imgKey rd ≤ 2 &&
  (bytesAt rd 0x15 11).all (· == 0) && (bytesAt rd 0x30 208).all (· == 0)

/-! ## Section table (Table 08-3, R268) -/

structure Section where
  type : Nat
  die  : Nat
  off  : Nat
  len  : Nat
  crc  : Nat
  resv : Nat
  deriving DecidableEq, Repr

/-- Entry `k` of the section table. -/
def sectionAt (rd : Nat → Nat) (k : Nat) : Section :=
  let a := 0x100 + 16 * k
  { type := rd a, die := rd (a + 1), resv := leAt rd (a + 2) 2, off := leAt rd (a + 4) 4, len := leAt rd (a + 8) 4,
    crc := leAt rd (a + 12) 4 }

def sectionsOf (rd : Nat → Nat) : List Section := (List.range (min 512 (imgSections rd))).map (sectionAt rd)

/-- The sections lie in table order, without overlap, between `lo` and `hi`. -/
def orderedIn (hi : Nat) : Nat → List Section → Bool
  | _, [] => true
  | lo, x :: r => lo ≤ x.off && x.off % 4 == 0 && x.len % 4 == 0 && x.off + x.len ≤ hi && orderedIn hi (x.off + x.len) r

/-! ## Frame streams (R271, R272) -/

/-- The word at `a`. -/
def wordIn (rd : Nat → Nat) (a : Nat) : Word := BitVec.ofNat 32 (leAt rd a 4)

/-- What follows the record word `rec` at `a`. -/
def bodyIn (rd : Nat → Nat) (a : Nat) (rec : Word) : RecBody :=
  match rec.toNat % 4 with
  | 0 => .lit ((List.range (recCount rec)).map (fun i =>
      ((List.range 64).map (fun j => wordIn rd (a + 4 + 260 * i + 4 * j)), wordIn rd (a + 260 + 260 * i))))
  | 1 => .rep (wordIn rd (a + 4)) (wordIn rd (a + 8))
  | 2 => .zero (wordIn rd (a + 4))
  | _ => .fill (wordIn rd (a + 4)) (wordIn rd (a + 8))

/-- Where the records of reach `r` of a FRAMES section begin and where they end at the latest (R272). -/
def reachAt (rd : Nat → Nat) (x : Section) (r : Nat) : Nat := x.off + leAt rd (x.off + 4 * r) 4
def reachEnd (rd : Nat → Nat) (x : Section) (r : Nat) : Nat := if r == 15 then x.off + x.len else reachAt rd x (r + 1)

/-- The record at `a` whose first frame in reach `r` must be `f`: where the next one stands and its first frame. -/
def recordEnd (rd : Nat → Nat) (d r f a : Nat) : Option (Nat × Nat) :=
  let w := BitVec.ofNat 32 (leAt rd a 4)
  let n := recCount w
  if recFrame w ≠ localIndex r f || 1280 < f + n then none
  else
    match w.toNat % 4 with
    | 0 =>
      if (List.range n).all (fun i =>
          crc32c (leNats 4 (d * 2 ^ 15 + r * 2 ^ 11 + f + i) ++ bytesAt rd (a + 4 + 260 * i) 256) ==
            leAt rd (a + 260 + 260 * i) 4) then
        some (a + 4 + 260 * n, f + n)
      else none
    | 2 => if crc32c (bytesAt rd a 4) == leAt rd (a + 4) 4 then some (a + 8, f + n) else none
    | k =>
      let src := leAt rd (a + 4) 4 % 32768
      if crc32c (bytesAt rd a 8) == leAt rd (a + 8) 4 && (k == 3 || (src / 2048 == r && src % 2048 < f)) then
        some (a + 12, f + n)
      else none

/-- The records of a reach from `a`: they write frames `f` to 1,279 and end no later than `hi`. -/
def recordsOk (rd : Nat → Nat) (d r hi : Nat) : Nat → Nat → Nat → Bool
  | 0, f, a => f == 1280 && a ≤ hi
  | k + 1, f, a =>
    if f == 1280 then decide (a ≤ hi)
    else if hi < a + 8 then false
    else
      match recordEnd rd d r f a with
      | none => false
      | some (a', f') => recordsOk rd d r hi k f' a'

/-- A FRAMES section: the index and the records of its 16 reaches. -/
def framesOk (rd : Nat → Nat) (x : Section) : Bool :=
  64 ≤ x.len && 64 ≤ leAt rd x.off 4 &&
  (List.range 16).all (fun r =>
    reachAt rd x r ≤ reachEnd rd x r && reachEnd rd x r ≤ x.off + x.len &&
      recordsOk rd x.die r (reachEnd rd x r) 1280 0 (reachAt rd x r))

/-- The FRAMES section of a die. -/
def framesOf (rd : Nat → Nat) (d : Nat) : Option Section := (sectionsOf rd).find? (fun x => x.type == 1 && x.die == d)

/-- The sections other than FRAMES, in order. -/
def otherSections (rd : Nat → Nat) : List Section := (sectionsOf rd).filter (fun x => x.type ≠ 1)

/-! ## Contents (Table 08-4, R269, R270) -/

/-- The pairs of a REGINIT section. -/
def pairsAt (rd : Nat → Nat) (off len : Nat) : List (Word × Word) :=
  (List.range (len / 8)).map (fun i =>
    (BitVec.ofNat 32 (leAt rd (off + 8 * i) 4), BitVec.ofNat 32 (leAt rd (off + 8 * i + 4) 4)))

/-- A little-endian 64-bit word at `a`. -/
def word64In (rd : Nat → Nat) (a : Nat) : BitVec 64 := BitVec.ofNat 64 (leAt rd a 8)

/-- What a section of HANDLERS, REGINIT or BANKINIT holds: die, engine mask, first index and words; pairs; address and words. -/
inductive SecBody where
  | handlers (d mask first : Nat) (ws : List Word)
  | reginit (ps : List (Word × Word))
  | bankinit (a : Word) (ws : List (BitVec 64))
  | unknown
  deriving DecidableEq, Repr

/-- The content of a section, as far as its own counts say. -/
def secIn (rd : Nat → Nat) (x : Section) : SecBody :=
  match x.type with
  | 2 => .handlers x.die (leAt rd x.off 8) (leAt rd (x.off + 8) 2)
      ((List.range (leAt rd (x.off + 10) 2)).map (fun i => wordIn rd (x.off + 12 + 4 * i)))
  | 3 => .reginit (pairsAt rd x.off x.len)
  | 4 => .bankinit (wordIn rd x.off) ((List.range (leAt rd (x.off + 4) 4)).map (fun i => word64In rd (x.off + 8 + 8 * i)))
  | _ => .unknown

/-- REGINIT entries with the words that their addresses name (00 R9). -/
def wordPairs (ps : List (Word × Word)) : List (Word × Word) :=
  ps.map (fun p => (BitVec.ofNat 32 (wordAddr p.1.toNat), p.2))

/-- The REGINIT entries of an image, in order. -/
def reginitOf (rd : Nat → Nat) : List (Word × Word) :=
  (sectionsOf rd).flatMap (fun x => if x.type == 3 then wordPairs (pairsAt rd x.off x.len) else [])

/-! ## Signature block (Table 08-7) -/

/-- Where the signature block begins: the signature covers the bytes before it. -/
def sigAt (rd : Nat → Nat) : Nat := imgLen rd - 256

/-- SIG_MAGIC, and the reserved bytes of the block. -/
def sigBlockOk (rd : Nat → Nat) : Bool :=
  leAt rd (sigAt rd) 4 == 0x31534758 && (bytesAt rd (sigAt rd + 0x05) 11).all (· == 0) &&
  (bytesAt rd (sigAt rd + 0xD0) 48).all (· == 0)

/-- Owner key hash `i` of the OTP, byte 0 lowest (11 Table 11-1). -/
def State.keyHash (s : State) (w : Nat) : BitVec 384 :=
  BitVec.ofNat 384 ((List.range 6).foldl (fun n i => n + (s.otpWord (w + i)).toNat * 2 ^ (64 * i)) 0)

/-- The key of QX and QY has the hash that OTP holds as owner key `i`, which is usable (R274; 11 R373). -/
def State.keyIs (s : State) (i : Nat) (qx qy : List Nat) : Bool :=
  s.keyUsable i && Config.sha384 (qx ++ qy) == s.keyHash (0x50 + 6 * i)

/-- signature_valid (R274). -/
def State.signatureValid (s : State) (rd : Nat → Nat) : Bool :=
  let a := sigAt rd
  let qx := bytesAt rd (a + 0x10) 48
  let qy := bytesAt rd (a + 0x40) 48
  rd (a + 4) == imgKey rd && s.keyIs (imgKey rd) qx qy &&
  Config.ecdsaOk qx qy (bytesAt rd (a + 0x70) 48) (bytesAt rd (a + 0xA0) 48) (Config.sha384 (bytesAt rd 0 a))

/-! ## Seal (Table 08-8) -/

/-- Record bytes 0x00 to 0x0F as they are sealed. -/
def sealHead (rd : Nat → Nat) : List Nat := leNats 4 0x4C534558 ++ leNats 4 (imgLen rd) ++ [imgKey rd] ++ List.replicate 7 0

/-- The CMAC of a slot's image and the first bytes of its record, under the seal key (R275). -/
def State.slotMac (s : State) (i : Nat) (head : List Nat) : BitVec 128 :=
  let rd := s.slotRd i
  Config.aesCmac ((List.range 4).map (fun k => s.otpWord (0x80 + k))) (bytesAt rd 0 (imgLen rd) ++ head)

/-- The CMAC of the bytes read back from a slot is the one in its seal record (R277, R286). -/
def State.macMatches (s : State) (i : Nat) : Bool :=
  s.slotMac i ((List.range 16).map (fun k => (Memory.read 0xFF s.flash (sealWord i * 8 + k)).toNat)) ==
    s.flWord (sealWord i + 3) ++ s.flWord (sealWord i + 2)

/-- A flash word of slot `i`'s image reads uncorrectable (10 R336). -/
def State.slotUnread (s : State) (i : Nat) : Bool :=
  s.flashBad.any (fun x => 2 ≤ x.2 && slotSector i * 512 ≤ x.1 && 8 * x.1 < slotSector i * 4096 + imgLen (s.slotRd i))

/-- The image of slot `i` and its seal record are read for a requester. -/
def State.slotRead (s : State) (i req : Nat) : State :=
  (s.linesRead (slotSector i * 4096) (imgLen (s.slotRd i)) req).linesRead (sealWord i * 8) 32 req

/-! ## Firmware copies (09 R314, R332) -/

/-- Firmware copy `i` passes the check of its signature; a word of it that reads uncorrectable fails it. -/
def State.fwPasses (s : State) (i : Nat) : Bool :=
  !s.flashBad.any (fun x => 2 ≤ x.2 && fwSector i * 512 ≤ x.1 && x.1 < (fwSector i + 1023) * 512) &&
  Config.fwSigned (s.flash.filter (fun (c : Host.Cell) => fwSector i * 4096 ≤ c.1 && c.1 < (fwSector i + 1023) * 4096))

end Sys2Proof.Machine
end

