-- ==== Sys2Proof/Machine/ConfigBase.lean ====
section
/-! DEFINITION. Configuration (08): frames, frame-stream records and sections of a load, reach patches, and the scrubber. -/

namespace Sys2Proof.Machine

/-! ## Frames (R264, R265) -/

/-- The 256 bytes of a frame. -/
def State.frame (s : State) (plane d r f : Nat) : List (BitVec 8) :=
  (List.range 256).map (fun b => Memory.read 0 s.frames (frameKey plane d r f b))

/-- Writes a frame with a fresh check. -/
def State.setFrame (s : State) (plane d r f : Nat) (bs : List (BitVec 8)) : State :=
  let k := frameKey plane d r f 0
  { s with frames := bs.zipIdx.foldl (fun m x => Memory.write 0 m (k + x.2) x.1) s.frames,
           frameBad := SMap.erase s.frameBad (k / 256) }

/-! ## Records (R271, R272, R285) -/

/-- The state after a record, the next frame of the reach, and the fault: its status and frame. -/
structure RecRes where
  st   : State
  next : Nat
  bad  : Option (Nat × Nat)

/-- The CRC of a LITERAL group: over the frame address of Table 08-1, then the data. -/
def groupCrc (d r f : Nat) (ws : List Word) : Nat :=
  crc32c (leNats 4 (d * 2 ^ 15 + r * 2 ^ 11 + f) ++ (wordBytes ws).map BitVec.toNat)

/-- Writes the groups of a LITERAL record from frame `f`. -/
def State.literals (s : State) (plane d r f : Nat) : List (List Word × Word) → RecRes
  | [] => ⟨s, f, none⟩
  | (ws, crc) :: g =>
    if groupCrc d r f ws ≠ crc.toNat then ⟨s, f, some (St.integrityFail, f)⟩
    else (s.setFrame plane d r f (wordBytes ws)).literals plane d r (f + 1) g

/-- Copies `n` frames in ascending order. -/
def State.copyFrames (s : State) (plane d r src f : Nat) : Nat → State
  | 0 => s
  | n + 1 => (s.setFrame plane d r f (s.frame plane d r src)).copyFrames plane d r (src + 1) (f + 1) n

/-- Writes one content to `n` frames. -/
def State.fillFrames (s : State) (plane d r f : Nat) (bs : List (BitVec 8)) : Nat → State
  | 0 => s
  | n + 1 => (s.setFrame plane d r f bs).fillFrames plane d r (f + 1) bs n

/-- A record whose first frame in the reach is `f`, into the shadow of the reach. -/
def State.record (s : State) (d r f : Nat) (rec : Word) (b : RecBody) : RecRes :=
  let plane := 1 - s.plane d r
  let n := recCount rec
  let bad (st : Nat) : RecRes := ⟨s, f, some (st, f)⟩
  if 1280 < f + n then bad St.badArgument
  else
    match b with
    | .lit g =>
      if g.length ≠ n || !g.all (fun (x : List Word × Word) => x.1.length == 64) then bad St.badArgument
      else s.literals plane d r f g
    | .rep src crc =>
      let i := src.toNat % 32768
      if crc32c (leNats 4 rec.toNat ++ leNats 4 src.toNat) ≠ crc.toNat then bad St.integrityFail
      else if i / 2048 ≠ r || f ≤ i % 2048 then bad St.badArgument
      else ⟨s.copyFrames plane d r (i % 2048) f n, f + n, none⟩
    | .zero crc =>
      if crc32c (leNats 4 rec.toNat) ≠ crc.toNat then bad St.integrityFail
      else ⟨s.fillFrames plane d r f (List.replicate 256 0) n, f + n, none⟩
    | .fill p crc =>
      if crc32c (leNats 4 rec.toNat ++ leNats 4 p.toNat) ≠ crc.toNat then bad St.integrityFail
      else ⟨s.fillFrames plane d r f (wordBytes (List.replicate 64 p)) n, f + n, none⟩

/-! ## Loads -/

/-- A load builds the shadow of a die, which is on. -/
def State.covers (s : State) (l : Load) (d : Nat) : Bool :=
  s.dieOn d && (match l.kind with | .dies ds => ds.contains d | _ => true)

/-- The first fault of a load is kept. -/
def Load.fail (l : Load) (st die frame : Nat) : Load :=
  if l.bad.isSome then l else { l with bad := some (st, die, frame) }

/-- A fault that names no frame: die and frame are values the spec does not give (log entry 21). -/
def State.failLoad (s : State) (l : Load) (st : Nat) : State :=
  let (a, s) := s.freeByte
  let (b, s) := s.freeByte
  { s with load := some (l.fail st a b) }

/-- The bytes of the image that a load reads: of a slot in flash, or those kept with the load. -/
def State.loadRd (s : State) (l : Load) : Nat → Nat :=
  if l.source == 1 || l.source == 2 then s.slotRd (l.source - 1) else listRd l.bytes

/-- The first `n` bytes of the image are there: of a host image, they have arrived. -/
def Load.arrived (l : Load) (n : Nat) : Bool := l.kind != .host || n ≤ l.bytes.length

/-- Where the next record of a stream stands: its reach and first frame, its place, and where the reach's records end. -/
structure NextRec where
  reach : Nat
  frame : Nat
  at_   : Nat
  end_  : Nat
  deriving DecidableEq, Repr

/-- A record that may not stand there (R272): it does not start at the first frame not yet written, leaves the reach, or goes
on beyond the reach's records. -/
def NextRec.breaks (x : NextRec) (rec : Word) : Bool :=
  recFrame rec ≠ localIndex x.reach x.frame || 1280 < x.frame + recCount rec || x.end_ < x.at_ + recSize rec

/-- The next record of die `d` in a load. -/
def State.nextRec (s : State) (l : Load) (d : Nat) : Option NextRec :=
  let n := l.next.getD d 0
  if 20480 ≤ n then none
  else (framesOf (s.loadRd l) d).map (fun x =>
    { reach := n / 1280, frame := n % 1280,
      at_ := if n % 1280 == 0 then reachAt (s.loadRd l) x (n / 1280) else l.recAt.getD d 0,
      end_ := reachEnd (s.loadRd l) x (n / 1280) })

/-- A record of a load of die `d`, as the image holds it next; one that the image does not hold there is none of it. -/
def State.loadRec (s : State) (l : Load) (d : Nat) (rec : Word) (b : RecBody) : State :=
  match s.nextRec l d with
  | none => s
  | some x =>
    if l.bad.isSome || !l.arrived (x.at_ + 4) || wordIn (s.loadRd l) x.at_ ≠ rec then s
    else if x.breaks rec then { s with load := some (l.fail St.badArgument d (localIndex x.reach x.frame)) }
    else if !l.arrived (x.at_ + recSize rec) || bodyIn (s.loadRd l) x.at_ rec ≠ b then s
    else
      let q := s.record d x.reach x.frame rec b
      let l := { l with next := l.next.set d (x.reach * 1280 + q.next), recAt := l.recAt.set d (x.at_ + recSize rec) }
      { q.st with load := some (match q.bad with | some (st, g) => l.fail st d (localIndex x.reach g) | none => l) }

/-- The image in the running slot. -/
def State.runningRd (s : State) : Nat → Nat := s.slotRd (s.source - 1)

/-- The next record of the reload of one reach, in the running slot from the reach's index offset (R272, R290). -/
def State.reloadNext (s : State) (j : ReachJob) : Option NextRec :=
  if 1280 ≤ j.next then none
  else (framesOf s.runningRd j.die).map (fun x =>
    { reach := j.reach, frame := j.next, at_ := if j.next == 0 then reachAt s.runningRd x j.reach else j.recAt,
      end_ := reachEnd s.runningRd x j.reach })

def State.putJob (s : State) (j j' : ReachJob) : State :=
  { s with jobs := s.jobs.map (fun (x : ReachJob) => if x == j then j' else x) }

/-- A record of the reload of one reach. -/
def State.jobRec (s : State) (j : ReachJob) (x : NextRec) (rec : Word) (b : RecBody) : State :=
  if j.bad.isSome then s
  else if x.breaks rec then s.putJob j { j with bad := some (St.badArgument, j.next) }
  else if bodyIn s.runningRd x.at_ rec ≠ b then s
  else
    let q := s.record j.die j.reach j.next rec b
    (q.st.setShadow j.die 1).putJob j { j with next := q.next, recAt := x.at_ + recSize rec, bad := q.bad }

/-- The job is a reload. -/
def JobKind.isReload : JobKind → Bool
  | .reload _ => true
  | _ => false

/-- A reload that takes records now: no live-swap load or drain runs (R293). -/
def State.jobLoads (s : State) (j : ReachJob) : Bool :=
  s.swap.isNone && !j.swapping && j.kind.isReload

/-- The reload on a die whose next record is `rec`. -/
def State.reloadFor (s : State) (d : Nat) (rec : Word) : Option (ReachJob × NextRec) :=
  (s.jobs.filterMap (fun (j : ReachJob) =>
    if j.die == d && s.jobLoads j then (s.reloadNext j).map (fun x => (j, x)) else none)).find? (fun y =>
      wordIn s.runningRd y.2.at_ == rec)

/-- A frame-stream record that arrives for a die: it belongs to the reload of a reach, or to the load of the die. -/
def State.streamRecord (s : State) (d : Nat) (rec : Word) (b : RecBody) : State :=
  if rec.toNat % 4 ≠ b.op then s
  else
    match s.reloadFor d rec, s.load with
    | some (j, x), _ => s.jobRec j x rec b
    | none, some l => if s.covers l d then s.loadRec l d rec b else s
    | none, none => s

def doLiteral (d : Nat) (rec : Word) (g : List (List Word × Word)) (s : State) : State := s.streamRecord d rec (.lit g)
def doRepeatRecord (d : Nat) (rec src crc : Word) (s : State) : State := s.streamRecord d rec (.rep src crc)
def doZeroRecord (d : Nat) (rec crc : Word) (s : State) : State := s.streamRecord d rec (.zero crc)
def doFillRecord (d : Nat) (rec p crc : Word) (s : State) : State := s.streamRecord d rec (.fill p crc)

def execLiteral (d : Die) (rec : Word) (g : List (List Word × Word)) (s : State) : Ans := .next (doLiteral d.val rec g s)
def execRepeatRecord (d : Die) (rec src crc : Word) (s : State) : Ans := .next (doRepeatRecord d.val rec src crc s)
def execZeroRecord (d : Die) (rec crc : Word) (s : State) : Ans := .next (doZeroRecord d.val rec crc s)
def execFillRecord (d : Die) (rec p crc : Word) (s : State) : Ans := .next (doFillRecord d.val rec p crc s)

/-! ## Sections (R268 to R270, R280) -/

/-- Bytes staged by a host image: more than 384 KiB is BAD_ARGUMENT (R280). -/
def State.stage (s : State) (l : Load) (n : Nat) : State :=
  let l := { l with staged := l.staged + n }
  if l.kind == LoadKind.host && 393216 < l.staged then s.failLoad l St.badArgument else { s with load := some l }

/-- An address that REGINIT may name (R269). -/
def State.reginitOk (s : State) (a : Nat) : Bool :=
  dieOf a < s.part.dies && (blockOf a ≤ 8 || (10 ≤ blockOf a && blockOf a ≤ 12)) && (findRow (wordAddr a)).isSome

/-- A run of `n` words from a bank address lies in one bank of a populated die (Table 08-4; 00 R16). -/
def State.bankRunOk (s : State) (a n : Nat) : Bool :=
  a / 2 ^ 26 == 4 && a % 8 == 0 && a / 2 ^ 23 % 8 < s.part.dies && a / 2 ^ 17 % 64 < 48 && a % 2 ^ 17 + 8 * n ≤ 2 ^ 17

/-- A section that is not FRAMES keeps the rules of its type (Tables 08-3 and 08-4, R269, R270). -/
def State.sectionRules (s : State) (x : Section) : SecBody → Bool
  | .handlers d _ first ws => d < s.part.dies && x.len == 12 + 4 * ws.length && first + ws.length ≤ 4096
  | .reginit ps => x.die == 0xFF && x.len % 8 == 0 && ps.all (fun (p : Word × Word) => s.reginitOk p.1.toNat)
  | .bankinit a ws => x.die == 0xFF && x.len == 8 + 8 * ws.length && s.bankRunOk a.toNat ws.length
  | .unknown => false

/-- A section joins what a load has staged; bits [1:0] of a CSR address are ignored (00 R9). -/
def Load.put (l : Load) : SecBody → Load
  | .handlers d m first ws => { l with handlers := l.handlers ++ [(d, m, first, ws)] }
  | .reginit ps => { l with reginit := l.reginit ++ wordPairs ps }
  | .bankinit a ws => { l with bankinit := l.bankinit ++ [(a, ws)] }
  | .unknown => l

/-- The next section of a load is taken: its CRC, its rules, then its staging. -/
def State.takeSection (s : State) (l : Load) (x : Section) : State :=
  let rd := s.loadRd l
  let l := { l with secs := l.secs + 1 }
  if crc32c (bytesAt rd x.off x.len) ≠ x.crc then s.failLoad l St.integrityFail
  else if x.resv ≠ 0 || !s.sectionRules x (secIn rd x) then s.failLoad l St.badArgument
  else s.stage (l.put (secIn rd x)) x.len

/-- A section of the load in progress, as the image holds it next; one that the image does not hold there is none of it. -/
def State.sectionRow (s : State) (b : SecBody) (crc : Word) : State :=
  match s.load with
  | none => s
  | some l =>
    match (otherSections (s.loadRd l))[l.secs]? with
    | none => s
    | some x => if l.bad.isSome || !l.arrived (x.off + x.len) || secIn (s.loadRd l) x ≠ b || x.crc ≠ crc.toNat then s else s.takeSection l x

def doHandlersSection (d : Nat) (mask : BitVec 64) (first : Nat) (ws : List Word) (crc : Word) (s : State) : State :=
  s.sectionRow (.handlers d mask.toNat first ws) crc
def doReginitSection (ps : List (Word × Word)) (crc : Word) (s : State) : State := s.sectionRow (.reginit ps) crc
def doBankinitSection (a : Word) (ws : List (BitVec 64)) (crc : Word) (s : State) : State :=
  s.sectionRow (.bankinit a ws) crc

def execHandlersSection (d : Die) (mask : BitVec 64) (first : Nat) (ws : List Word) (crc : Word) (s : State) :
    Ans :=
  .next (doHandlersSection d.val mask first ws crc s)
def execReginitSection (ps : List (Word × Word)) (crc : Word) (s : State) : Ans := .next (doReginitSection ps crc s)
def execBankinitSection (a : Word) (ws : List (BitVec 64)) (crc : Word) (s : State) : Ans :=
  .next (doBankinitSection a ws crc s)

/-! ## Reach patches (R283 to R285) -/

/-- A live swap's load, engine updates or drain run. -/
def State.swapRuns (s : State) : Bool := s.swap.isSome

/-- The first word of a die's patch, counted over its banks, and its 32-bit words (R283). -/
def State.patchFirst (s : State) (d : Nat) : Nat :=
  s.fget (Csr.fabPatchSrc d) FabPatchSrc.bank * 16384 + s.fget (Csr.fabPatchSrc d) FabPatchSrc.word
def State.patchLen (s : State) (d : Nat) : Nat := s.fget (Csr.fabPatchLen d) FabPatchLen.len / 4

/-- The controller asks for `n` words of a patch through the bank DMA (R284). -/
def State.patchReads (s : State) (d r first : Nat) : Nat → State
  | 0 => s
  | n + 1 => (s.patchReads d r first n).askDma d ((first + n) / 16384) ((first + n) % 16384) (.patch r n) .read

/-- FAB_PATCH_GO: a write of FAB_PATCH_CTRL with GO = 1. -/
def doFabPatchGo (d r : Nat) (s : State) : State :=
  if !s.dieOn d then s
  else
    let s := s.fset (Csr.fabPatchCtrl d) FabPatchCtrl.reach r
    let first := s.patchFirst d
    let len := 4 * s.patchLen d
    let say (st : Nat) : State := s.fset (Csr.fabPatchSts d) FabPatchSts.status st
    if !s.patchable d r then say St.refused
    else if s.jobs.any (fun (j : ReachJob) => j.die == d) || s.swapRuns ||
        s.load.any (fun (l : Load) => l.kind != LoadKind.host && s.covers l d) ||
        (match SMap.find s.rewrite d with | some w => w.reach == r | none => false) then say St.busy
    else if len == 0 || 48 * 131072 < 8 * first + len then say St.badArgument
    else
      let j : ReachJob := { die := d, reach := r, kind := .patch, swapping := false, next := s.patchLen d, recAt := 0, bad := none, got := [] }
      let s := (State.fset { s with jobs := s.jobs ++ [j] } (Csr.fabPatchSts d) FabPatchSts.busy 1).setShadow d 1
      s.patchReads d r first (ceilDiv len 8)

def execFabPatchGo (d : Die) (r : Reach) (s : State) : Ans := .next (doFabPatchGo d.val r.val s)

/-- The 32-bit words of a patch as the DMA has read them; none where the bank word reads poisoned or unavailable. -/
def patchWords (got : List BankGot) (n : Nat) : List (Option Word) :=
  ((List.range (ceilDiv n 2)).flatMap (fun i =>
    match got.find? (fun w => w.i == i) with
    | some w =>
      if w.poison || w.status ≠ St.ok then [none, none]
      else [some (w.data.setWidth 32), some ((w.data >>> 32).setWidth 32)]
    | none => [none, none])).take n

/-- Takes `n` words, or the status of the fault: a bad word INTEGRITY_FAIL, a stream that ends BAD_ARGUMENT. -/
def takeWords : Nat → List (Option Word) → Except Nat (List Word × List (Option Word))
  | 0, l => .ok ([], l)
  | _ + 1, [] => .error St.badArgument
  | _ + 1, none :: _ => .error St.integrityFail
  | n + 1, some w :: l => (takeWords n l).map (fun x => (w :: x.1, x.2))

/-- The groups of a LITERAL record from frame `f`, `n` of them, each taken and checked before the next (R285); and what is left
of the stream. -/
def State.patchGroups (s : State) (plane d r f : Nat) : Nat → List (Option Word) → RecRes × List (Option Word)
  | 0, l => (⟨s, f, none⟩, l)
  | n + 1, l =>
    match takeWords 65 l with
    | .error e => (⟨s, f, some (e, f)⟩, [])
    | .ok (ws, l) =>
      let q := s.literals plane d r f [(ws.take 64, ws.getD 64 0)]
      if q.bad.isSome then (q, l) else q.st.patchGroups plane d r (f + 1) n l

/-- What follows the word of another record in a stream. -/
def takeBody (rec : Word) (l : List (Option Word)) : Except Nat (RecBody × List (Option Word)) :=
  match rec.toNat % 4 with
  | 2 => (takeWords 1 l).map (fun x => (.zero (x.1.getD 0 0), x.2))
  | 1 => (takeWords 2 l).map (fun x => (.rep (x.1.getD 0 0) (x.1.getD 1 0), x.2))
  | _ => (takeWords 2 l).map (fun x => (.fill (x.1.getD 0 0) (x.1.getD 1 0), x.2))

/-- A record of a patch at frame `g`, and what is left of the stream. -/
def State.patchRecord (s : State) (d r g : Nat) (rec : Word) (l : List (Option Word)) : RecRes × List (Option Word) :=
  if rec.toNat % 4 == 0 then
    if 1280 < g + recCount rec then (⟨s, g, some (St.badArgument, g)⟩, l)
    else s.patchGroups (1 - s.plane d r) d r g (recCount rec) l
  else
    match takeBody rec l with
    | .error e => (⟨s, g, some (e, g)⟩, l)
    | .ok (b, l) => (s.record d r g rec b, l)

/-- Frames `f` to `f + n − 1` of the shadow are taken from the active plane. -/
def State.keepFrames (s : State) (d r f : Nat) : Nat → State
  | 0 => s
  | n + 1 => (s.setFrame (1 - s.plane d r) d r f (s.frame (s.plane d r) d r f)).keepFrames d r (f + 1) n

/-- Builds the shadow of a patch from frame `f`, record by record (R284). -/
def State.buildPatch (s : State) (d r f : Nat) : Nat → List (Option Word) → RecRes
  | _, [] => ⟨s.keepFrames d r f (1280 - f), 1280, none⟩
  | 0, _ => ⟨s, f, some (St.badArgument, f)⟩
  | _ + 1, none :: _ => ⟨s, f, some (St.integrityFail, f)⟩
  | k + 1, some rec :: l =>
    let g := recFrame rec % 2048
    if recFrame rec / 2048 ≠ r || g < f || 1280 ≤ g then ⟨s, f, some (St.badArgument, g)⟩
    else
      let (q, l) := (s.keepFrames d r f (g - f)).patchRecord d r g rec l
      if q.bad.isSome then q else q.st.buildPatch d r q.next k l

/-- A job of a reach. -/
def State.jobOf (s : State) (d r : Nat) : Option ReachJob :=
  s.jobs.find? (fun (j : ReachJob) => j.die == d && j.reach == r)

/-- A request of the reading of a patch of reach `r`. -/
def BankWho.ofPatch (r : Nat) : BankWho → Bool
  | .patch x _ => x == r
  | _ => false

/-- A job of a reach ends; what it still asks of the banks is withdrawn. -/
def State.dropJob (s : State) (d r : Nat) : State :=
  { s with
    jobs := s.jobs.filter (fun (j : ReachJob) => !(j.die == d && j.reach == r))
    bankQ := SMap.mapVals (fun _ => []) (fun k q => if k / 4 / 64 == d then q.filter (fun x => !x.who.ofPatch r) else q) s.bankQ }

/-- A patch fails: its status and frame are shown, the shadow is STALE, PATCH_FAIL is raised. -/
def State.patchFail (s : State) (d r st f : Nat) : State :=
  let s := (s.dropJob d r).setShadow d 3
  let s := ((s.fset (Csr.fabPatchSts d) FabPatchSts.status st).fset (Csr.fabPatchSts d) FabPatchSts.busy 0).fset
    (Csr.fabPatchSts d) FabPatchSts.frame f
  s.notice d 0x0509 [(1, d), (1, r), (2, f), (1, st)]

/-- A reload ends: its notice, and the answer of the command that asked for it. -/
def State.reloadEnd (s : State) (d r st : Nat) (by_ : Option CmdHdr) : State :=
  let s := s.notice d 0x0507 [(1, d), (1, r), (1, st)]
  match by_ with
  | some h => s.finish h st []
  | none => s

/-- A reach swap begins: the reach is isolated (R290). -/
def State.beginReachSwap (s : State) (d r : Nat) : State :=
  let s := (s.isolate d r).fset (Csr.cfgSts d) CfgSts.swap 1
  { s with jobs := s.jobs.map (fun (j : ReachJob) => if j.die == d && j.reach == r then { j with swapping := true } else j) }

/-- The reload of a reach begins: its records come from its index offset in the running slot (R290, R293). -/
def State.startReload (s : State) (d r : Nat) (by_ : Option CmdHdr) : State :=
  let j : ReachJob := { die := d, reach := r, kind := .reload by_, swapping := false, next := 0, recAt := 0, bad := none, got := [] }
  let s := { s with jobs := s.jobs ++ [j] }
  if s.swapRuns then s else s.setShadow d 1

/-- The running image came from a slot. -/
def State.fromSlot (s : State) : Bool := s.source == 1 || s.source == 2

/-- The drain cycles D of a reach swap (R290). -/
def State.drainCycles (s : State) (d r : Nat) : Nat :=
  let f := s.fget (Csr.reachCtrl d r) ReachCtrl.fabsel
  let w := s.csrGet (Csr.fabPllCtrl d f)
  let m := pllM w
  let n := pllN w
  if FabPllCtrl.mode.get w == 0 then
    let t := fabPeriod m n
    let ref := crossing t ⟨6, 1⟩
    ceilDiv (max (max (crossTo t .bank) (crossTo t .eng)) (ref.num / ref.den)) 15
  else
    let (a, b) := s.pllRef d f w
    max 2 (ceilDiv (24000000000 * n * b) (15 * a * m))

/-! ## Scrubbing (R292 to R294) -/

/-- The scrubber skips the frames of a reach that is isolated, held, gated, loading or swapping; a reload that waits for a live
swap has not begun to load. -/
def State.scrubSkipsReach (s : State) (d r : Nat) : Bool :=
  s.isolated d r || s.inReset d r || s.gated d r || (s.jobOf d r).any (fun j => !j.kind.isReload || s.jobLoads j || j.swapping)

/-- CFG_SCRUB_CTRL at the start of a pass: reloaded from the option copy when its parity or the comparison fails. -/
def State.scrubCheck (s : State) (d : Nat) : State :=
  let old := s.csrGet (Csr.cfgScrubCtrl d)
  let new := s.scrubCtrl d
  let parOk := parityOf 4 old.toNat == CfgScrubCtrl.par.get old
  if parOk && old == new then s
  else
    let s := (s.csrSet (Csr.cfgScrubCtrl d) new).count (Csr.cfgRepairCnt d) CfgRepairCnt.ctrl 1
    s.notice d 0x0508 [(1, d), (4, old.toNat), (4, new.toNat)]

/-- The pointer, the pass count and the skip count after a frame. -/
def State.scrubNext (s : State) (d r f : Nat) (skipped : Bool) : State :=
  let n := (if r == 0 && f == 0 then 0 else SMap.get 0 s.scrubSkips d) + b2n skipped
  let s := { s with scrubSkips := SMap.set 0 s.scrubSkips d n }
  let s := s.fset (Csr.cfgScrubSts d) CfgScrubSts.skips (min 255 (n / 1280))
  if f < 1279 then s.fset (Csr.cfgScrubSts d) CfgScrubSts.frame (localIndex r (f + 1))
  else if r < 15 then s.fset (Csr.cfgScrubSts d) CfgScrubSts.frame (localIndex (r + 1) 0)
  else
    (s.fset (Csr.cfgScrubSts d) CfgScrubSts.frame 0).fset (Csr.cfgScrubSts d) CfgScrubSts.passes
      (s.fget (Csr.cfgScrubSts d) CfgScrubSts.passes + 1)

/-- A bit of an active frame, or of its 16-bit check from 2,048 on, changes: the check no longer matches it, or matches again
(R264). -/
def State.flipFrameBit (s : State) (d r f i : Nat) : State :=
  let k := frameKey (s.plane d r) d r f (i / 8)
  let n := frameNo (s.plane d r) d r f
  let bad := SMap.get [] s.frameBad n
  let b := Memory.read 0 s.frames k
  { s with frames := if i < 2048 then Memory.write 0 s.frames k (b ^^^ BitVec.ofNat 8 (2 ^ (i % 8))) else s.frames,
           frameBad := SMap.set [] s.frameBad n (if bad.contains i then bad.erase i else insertNat i bad) }

/-- The latch of the cell whose instruction entry holds bit `i` of frame `f` keeps the entry as it is: the bit's correction
reaches it by the commit rule of 06 R213 (R292). -/
def State.keepLatch (s : State) (d r f i : Nat) : State :=
  let c := ((f % 30) * 256 + i / 8) / 5
  let k := cellKey d r (c % 48) (c / 48) * 8 + f / 30
  if 240 ≤ f || 2048 ≤ i || (SMap.find s.entryOld k).isSome then s
  else { s with entryOld := SMap.put s.entryOld k (s.frameEntry d r (c % 48) (c / 48) (f / 30)) }

/-- An uncorrectable frame (R293). -/
def State.scrubUncorr (s : State) (d r f : Nat) : State :=
  let s := s.fsetBit (Csr.cfgReachSts d) CfgReachSts.uncorr r true
  let s := s.count (Csr.cfgScrubCnt d) CfgScrubCnt.uncorr 1
  let log := Csr.cfgScrubLog d
  let s := if s.fbit log CfgScrubLog.valid then s
    else s.csrSet log (CfgScrubLog.valid.put (CfgScrubLog.frame.put (0 : Word) (localIndex r f)) 1)
  let s := s.noticeLim d 0x0506 0 [(1, d), (1, r), (2, f)]
  if !s.fbit (Csr.cfgScrubCtrl d) CfgScrubCtrl.autoReload || (s.jobOf d r).isSome then s
  else if s.fromSlot then s.startReload d r none
  else s.notice d 0x0507 [(1, d), (1, r), (1, St.notPresent)]

/-- The check of one active frame: a single-bit error is corrected, more is uncorrectable. -/
def State.checkFrame (s : State) (d r f : Nat) : State :=
  match SMap.get [] s.frameBad (frameNo (s.plane d r) d r f) with
  | [] => s
  | [i] => ((s.keepLatch d r f i).flipFrameBit d r f i).count (Csr.cfgScrubCnt d) CfgScrubCnt.corr 1
  | _ => s.scrubUncorr d r f

/-- SCRUB_FRAME: the next active frame of a die is read and checked; `upset` are the bits that an upset changed in it since
the last pass (R292). -/
def doScrubFrame (d : Nat) (upset : List (Fin 2064)) (s : State) : State :=
  if !s.dieOn d then s
  else
    let i := s.fget (Csr.cfgScrubSts d) CfgScrubSts.frame
    let r := i / 2048
    let f := i % 2048
    let s := if i == 0 then s.scrubCheck d else s
    if !s.fbit (Csr.cfgScrubCtrl d) CfgScrubCtrl.en then s
    else if s.scrubSkipsReach d r then s.scrubNext d r f true
    else
      let s := upset.foldl (fun s (b : Fin 2064) => s.flipFrameBit d r f b.val) s
      (s.checkFrame d r f).scrubNext d r f false

def execScrubFrame (d : Die) (upset : List (Fin 2064)) (s : State) : Ans := .next (doScrubFrame d.val upset s)

end Sys2Proof.Machine
end

