-- ==== Sys2Proof/Machine/Pins.lean ====
section
/-! DEFINITION. Steward pins and pin tests (12 R379 to R389): ownership, locks, pattern matchers, shorts, open wires. -/

namespace Sys2Proof.Machine

/-! ## Ownership (R379, R380, R383) -/

/-- Owner codes of GPIO_OWNER. -/
def Own.gpio : Nat := 0
def Own.spi : Nat := 1
def Own.tgt : Nat := 2
def Own.avs : Nat := 3
def Own.uart : Nat := 4
def Own.psig : Nat := 5
def Own.alrt : Nat := 6

/-- The owner of a pin under a PIN_EN value and an SPI width: the enabled block of lowest priority number that claims it. -/
def ownerFor (en : Word) (width p : Nat) : Nat :=
  if PinEn.spi.bit en && (p < 2 || (p == 2 && width == 8) || (3 ≤ p && p < 3 + max 2 width && p < 11)) then Own.spi
  else if PinEn.tgt.bit en && (p == 11 || p == 12) then Own.tgt
  else if PinEn.avs.bit en && 14 ≤ p && p ≤ 16 then Own.avs
  else if PinEn.uart.bit en && (if PinEn.uartLoc.bit en then 24 ≤ p && p ≤ 27 else 7 ≤ p && p ≤ 10) then Own.uart
  else if PinEn.psig.bit en && (p == 19 || p == 20) then Own.psig
  else if PinEn.alrt.bit en && (p == 17 || p == 18) then Own.alrt
  else Own.gpio

def State.pinLocked (s : State) (p : Nat) : Bool := bitOf (s.fget Csr.gpioLock GpioLock.lock) p

def State.pinOwner (s : State) (p : Nat) : Nat := s.pins.owners.getD p 0

/-- The owners after PIN_EN changed: a locked pin keeps its owner. -/
def State.setOwners (s : State) : State :=
  let en := s.csrGet Csr.pinEn
  { s with pins := { s.pins with owners := (List.range 32).map (fun p =>
      if s.pinLocked p then s.pinOwner p else ownerFor en s.pins.spiWidth p) } }

/-- A write to block 0x1 other than the steps of the lock sequence cancels it (R382). -/
def State.cancelLock (s : State) : State := { s with pins := { s.pins with lockSeq := 0 } }

/-- A width for SPI: its own configuration, which the spec does not give; 1, 4 or 8. -/
def State.drawSpiWidth (s : State) : State :=
  let (n, s) := s.freeByte
  { s with pins := { s.pins with spiWidth := [1, 4, 8].getD (n % 3) 1 } }

/-- While AVS is disabled every core target is 0.80 V (R400). -/
def State.avsOff (s : State) : State :=
  if s.fbit Csr.pinEn PinEn.avs then s
  else (List.range s.part.dies).foldl (fun s d => s.fset (Csr.pwrVcore d) PwrVcore.target 800) s

/-- PIN_EN_WRITE: ownership changes in the STW cycle of the write. -/
def doPinEnWrite (v : Word) (s : State) : State :=
  let spi := s.fbit Csr.pinEn PinEn.spi
  let s := (s.cancelLock).csrSet Csr.pinEn (BitVec.ofNat 32 (v.toNat % 2 ^ 7))
  let s := if !spi && PinEn.spi.bit v then s.drawSpiWidth else s
  s.setOwners.avsOff

def execPinEnWrite (v : Word) (s : State) : Ans := .next (doPinEnWrite v s)

/-- GPIO_OWNER_k as a read shows it. -/
def State.ownerView (s : State) (k : Nat) : Word :=
  BitVec.ofNat 32 ((List.range 8).foldl (fun n j => n + s.pinOwner (8 * k + j) * 16 ^ j) 0)

/-! ## Locks (R382, R383) -/

/-- GPIO_LOCK_KEY_WRITE: steps 1 and 2; another value cancels the sequence. -/
def doGpioLockKeyWrite (v : Word) (s : State) : State :=
  let n := if v == 0x1C0C then 1 else if v == 0xE3F3 && s.pins.lockSeq == 1 then 2 else 0
  { s with pins := { s.pins with lockSeq := n } }

def execGpioLockKeyWrite (v : Word) (s : State) : Ans := .next (doGpioLockKeyWrite v s)

/-- GPIO_LOCK_WRITE: as step 3 it locks the pins of the mask; outside step 3 it has no effect. -/
def doGpioLockWrite (v : Word) (s : State) : State :=
  let s' := if s.pins.lockSeq == 2 then s.csrSet Csr.gpioLock (s.csrGet Csr.gpioLock ||| v) else s
  s'.cancelLock

def execGpioLockWrite (v : Word) (s : State) : Ans := .next (doGpioLockWrite v s)

/-! ## What a pin drives (R380, R383, R384) -/

/-- A setting of GPIO_DEFAULT or GPIO_SLEEP: 4 bits of a pin. -/
def State.pinOption (s : State) (o p : Nat) : Nat := (s.opt (o + p / 2)) / 16 ^ (p % 2) % 16

/-- The level ALERT_n drives: low while the notice ditch holds an item or the ring has one to read. -/
def State.alertLow (s : State) : Bool :=
  !(s.nditch.bank0.isEmpty && s.nditch.bank1.isEmpty) ||
  s.fget Csr.mbNtcProd MbNtcProd.prod ≠ s.fget Csr.mbNtcCons MbNtcCons.cons

/-- THERMTRIP_n is low while a die is off by thermal trip (R380); an undervoltage is none. -/
def State.thermLow (s : State) : Bool := s.pwr.tripAt.any (fun (x : Nat × Nat × Bool) => x.2.2)

/-- The level a pin drives in its sleep state, none when it drives none (R384). -/
def State.sleepDrive (s : State) (p : Nat) : Option Bool :=
  match s.pinOption 0x58 p / 4 with | 1 => some false | 2 => some true | _ => none

/-- The output enable of a GPIO-owned pin; in STANDBY that of its sleep state. -/
def State.gpioEnabled (s : State) (p : Nat) : Bool :=
  if s.inStandby then (s.sleepDrive p).isSome else bitOf (s.fget Csr.gpioOe GpioOe.oe) p

/-- What a GPIO-owned pin drives: nothing when shorted or when its output enable is off; in STANDBY its sleep state. -/
def State.gpioDrives (s : State) (p : Nat) : Option Bool :=
  if bitOf (s.fget Csr.gpioShort GpioShort.short) p then none
  else if s.inStandby then s.sleepDrive p
  else if !s.gpioEnabled p then none
  else
    let o := bitOf (s.fget Csr.gpioOut GpioOut.out) p
    if s.fbit (Csr.gpioCfg p) GpioCfg.od && o then none else some o

/-- The bit of PIN_EN that enables an owner. -/
def ownEn (o : Nat) : Fld :=
  match o with | 1 => PinEn.spi | 2 => PinEn.tgt | 3 => PinEn.avs | 4 => PinEn.uart | 5 => PinEn.psig | _ => PinEn.alrt

/-- SLEEP_n is low in STANDBY until a wake begins (R392, R393). -/
def State.sleepLow (s : State) : Bool := s.inStandby && !s.pwr.wake.isSome

/-- What the block that owns a pin drives there while it is enabled (Table 12-1, R380): SCL and SDA, ALERT_n and THERMTRIP_n are
open drain and drive only low; AVS_SDATA, RX, CTS_n and RAIL_OK are inputs. -/
def State.blockDrives (s : State) (p : Nat) : Option Bool :=
  let o := s.pinOwner p
  let low (b : Bool) : Option Bool := if b then some false else none
  let level := Config.serialLevel stw p s.ticks
  if o == Own.tgt then low (!level)
  else if o == Own.alrt then low (if p == 17 then s.alertLow else s.thermLow)
  else if o == Own.psig then (if p == 19 then some (!s.sleepLow) else none)
  else if o == Own.avs then (if p == 16 then none else some level)
  else if o == Own.uart then (if p == 8 || p == 10 || p == 25 || p == 27 then none else some level)
  else some level

/-- The level that the Steward drives at one of its pins, none while it drives none: a pin whose short has turned the driver off,
and a locked pin whose owner is disabled, drive nothing (R383, R387); in STANDBY a pin of SPI or UART takes its sleep state
(R384). -/
def State.stwDrives (s : State) (p : Nat) : Option Bool :=
  let o := s.pinOwner p
  if o == Own.gpio then s.gpioDrives p
  else if bitOf (s.fget Csr.gpioShort GpioShort.short) p then none
  else if s.inStandby && (o == Own.spi || o == Own.uart) then s.sleepDrive p
  else if !s.fbit Csr.pinEn (ownEn o) then none
  else s.blockDrives p

/-! ## Pattern matchers (R385, R386) -/

/-- Selection `k` of a matcher. -/
def State.pmSel (s : State) (m k : Nat) : Nat :=
  if k < 6 then s.fget (Csr.pmPinsLo m) PmPinsLo.sel / 32 ^ k % 32 else s.fget (Csr.pmPinsHi m) PmPinsHi.sel / 32 ^ (k - 6) % 32

/-- The sample s of a matcher. -/
def State.pmByte (s : State) (m : Nat) (levels : BitVec 32) : Nat :=
  (List.range 8).foldl (fun n k => n + b2n (bitOf levels.toNat (s.pmSel m k)) * 2 ^ k) 0

/-- The condition of a matcher on a sample. -/
def State.pmCond (s : State) (m x : Nat) : Bool :=
  let c := Csr.pmCfg m
  let mask := s.fget c PmCfg.mask
  (x &&& mask == s.fget c PmCfg.value &&& mask) != s.fbit c PmCfg.mode

/-- One AON sample of a matcher: its condition, its count, and whether it fires now. -/
def State.pmSample (s : State) (m : Nat) (levels : BitVec 32) : Bool × State :=
  let s := { s.csrSet Csr.gpioIn levels with pins := { s.pins with levels := levels } }
  if !s.fbit (Csr.pmCfg m) PmCfg.en then
    (false, { s with pins := { s.pins with pmCount := s.pins.pmCount.set m 0, pmFired := s.pins.pmFired.set m false } })
  else
    let cond := s.pmCond m (s.pmByte m levels)
    let n := if cond then s.pins.pmCount.getD m 0 + 1 else 0
    let was := s.pins.pmFired.getD m false
    let fire := cond && !was && s.fget (Csr.pmCfg m) PmCfg.deb < n
    let s := s.fsetBit Csr.pmSts PmSts.cond m cond
    (fire, { s with pins := { s.pins with
      pmCount := s.pins.pmCount.set m n, pmFired := s.pins.pmFired.set m (cond && (was || fire)) } })

/-! ## Shorts (R387) -/

/-- The level a pin drives, while it drives and is checked: LVDS outputs are not, open-drain pins only while low. -/
def State.drivenLevel (s : State) (die : Option Nat) (p : Nat) : Option Bool :=
  match die with
  | none => s.stwDrives p
  | some d => if p < 24 && s.fget (Csr.uioCtrl d (p / 2 * 2)) UioCtrl.std ≠ 2 then s.pinDrive d p false else none

/-- PIN_SHORT: every comparison over 2 µs mismatched; the driver turns off until software clears the bit. -/
def doPinShort (die : Option Nat) (p : Nat) (s : State) : State :=
  match s.drivenLevel die p with
  | none => s
  | some v =>
    match die with
    | none =>
      (s.fsetBit Csr.gpioShort GpioShort.short p true).noticeLim stw 0x0802 (480 + p) [(1, stw), (1, p), (1, b2n v)]
    | some d =>
      (s.fsetBit (Csr.uioShort d) UioShort.short p true).noticeLim d 0x0802 (d * 32 + p) [(1, d), (1, p), (1, b2n v)]

def execPinShort (die : Option Die) (pin : Fin 32) (s : State) : Ans := .next (doPinShort (die.map (·.val)) pin.val s)

/-- SHORT_CLEAR_WRITE: 1 clears a bit and turns the driver on again. -/
def doShortClearWrite (die : Option Nat) (v : Word) (s : State) : State :=
  match die with
  | none => (s.csrSet Csr.gpioShort (s.csrGet Csr.gpioShort &&& ~~~v)).cancelLock
  | some d => if s.dieOn d then s.csrSet (Csr.uioShort d) (s.csrGet (Csr.uioShort d) &&& ~~~v) else s

def execShortClearWrite (die : Option Die) (v : Word) (s : State) : Ans := .next (doShortClearWrite (die.map (·.val)) v s)

/-! ## Open wires (R388) -/

/-- A pin that the open-wire test does not skip. -/
def State.openTestable (s : State) (die p : Nat) : Bool :=
  if die == stw then s.pinOwner p == Own.gpio && !s.gpioEnabled p
  else
    p < 24 && !s.fabEnable die p && !s.uioOwned die p && s.fget (Csr.uioCtrl die (p / 2 * 2)) UioCtrl.std == 0 &&
    !s.inReset die (p / 6) && !s.pinHeld die p

def openSel (die : Nat) : Nat := if die == stw then Csr.gpioOpenSel else Csr.uioOpenSel die
def openCtrl (die : Nat) : Nat := if die == stw then Csr.gpioOpenCtrl else Csr.uioOpenCtrl die
def openRes (die : Nat) : Nat := if die == stw then Csr.gpioOpenRes else Csr.uioOpenRes die

/-- A test starts: GO is ignored while BUSY. -/
def State.openGo (s : State) (die : Nat) (levels : BitVec 32) : State :=
  if s.fbit (openCtrl die) GpioOpenCtrl.busy then s
  else
    let sel := (s.csrGet (openSel die)).toNat
    let tested := (List.range 32).foldl (fun n p => if bitOf sel p && s.openTestable die p then n + 2 ^ p else n) 0
    let t : OpenTest := { die := die, tested := BitVec.ofNat 32 tested, seen := levels, up := none }
    State.fset { s with pins := { s.pins with openRun := s.pins.openRun ++ [t] } } (openCtrl die) GpioOpenCtrl.busy 1

def dieNo (die : Option Nat) : Nat := die.getD stw

/-- The die that a test is about can run it. -/
def State.openReady (s : State) (die : Option Nat) : Bool := match die with | none => true | some d => s.dieOn d

def doOpenTestGo (die : Option Nat) (levels : BitVec 32) (s : State) : State :=
  if !s.openReady die then s
  else
    let s := if die.isNone then s.cancelLock else s
    s.openGo (dieNo die) levels

def execOpenTestGo (die : Option Die) (levels : BitVec 32) (s : State) : Ans :=
  .next (doOpenTestGo (die.map (·.val)) levels s)

/-- OPEN_TEST_PULLDOWN: the pins are sampled under the pull-up. -/
def doOpenTestPulldown (die : Option Nat) (levels : BitVec 32) (s : State) : State :=
  { s with pins := { s.pins with openRun := s.pins.openRun.map (fun (t : OpenTest) =>
      if t.die == dieNo die && t.up.isNone then { t with up := some levels } else t) } }

def execOpenTestPulldown (die : Option Die) (levels : BitVec 32) (s : State) : Ans :=
  .next (doOpenTestPulldown (die.map (·.val)) levels s)

/-- OPEN_TEST_DONE: a pin that sampled 1 and then 0 is open. -/
def doOpenTestDone (die : Option Nat) (levels : BitVec 32) (s : State) : State :=
  let n := dieNo die
  match s.pins.openRun.find? (fun (t : OpenTest) => t.die == n) with
  | none => s
  | some t =>
    match t.up with
    | none => s
    | some up =>
      let res := t.tested &&& up &&& ~~~levels
      let s := { s with pins := { s.pins with openRun := s.pins.openRun.filter (fun (t : OpenTest) => t.die != n) } }
      let s := (s.fset (openCtrl n) GpioOpenCtrl.busy 0).csrSet (openRes n) res
      if res == 0 then s else s.notice n 0x0803 [(1, n), (4, res.toNat)]

def execOpenTestDone (die : Option Die) (levels : BitVec 32) (s : State) : Ans :=
  .next (doOpenTestDone (die.map (·.val)) levels s)

/-- GPIO_IN as a read shows it: the level of GO at a pin under test (R388), what the device drives, or what was last sampled. -/
def State.gpioInView (s : State) : Word :=
  BitVec.ofNat 32 ((List.range 32).foldl (fun n p =>
    n + b2n (((s.testLevel stw p).or (s.stwDrives p)).getD (bitOf (s.csrGet Csr.gpioIn).toNat p)) * 2 ^ p) 0)

end Sys2Proof.Machine
end

