-- ==== Sys2Proof/Machine/DieCsr.lean ====
section
/-! DEFINITION. Reads and writes of the registers of a logic die (00 R9 to R13): the access codes of Table 00-5, the
registers whose read shows state held elsewhere, and those whose write does more than store. -/

namespace Sys2Proof.Machine

/-! ## Access codes (R11) -/

/-- A field after a write. -/
def RegField.write (f : RegField) (locked : Bool) (w v : Word) : Word :=
  match f.acc with
  | .ro | .rc | .wo => w
  | .rw => f.fld.put w (f.fld.get v)
  | .w1c => f.fld.put w (f.fld.get w - (f.fld.get w &&& f.fld.get v))
  | .w1s => f.fld.put w (f.fld.get w ||| f.fld.get v)
  | .rwl => if locked then w else f.fld.put w (f.fld.get v)

/-- A register after a plain write. -/
def RegRow.write (r : RegRow) (locked : Bool) (w v : Word) : Word := r.fields.foldl (fun w f => f.write locked w v) w

/-- What a read returns of a stored value: write-only fields read 0. -/
def RegRow.shown (r : RegRow) (w : Word) : Word :=
  r.fields.foldl (fun w f => if f.acc == .wo then f.fld.put w 0 else w) w

/-- The stored value after a read: RC fields return to their reset value. -/
def RegRow.afterRead (r : RegRow) (a : Nat) (w : Word) : Word :=
  r.fields.foldl (fun w f => if f.acc == .rc then f.fld.put w (f.fld.get (resetOf a)) else w) w

/-- A plain write of a register. -/
def State.plainWrite (s : State) (a : Nat) (v : Word) : State :=
  match findRow a with
  | none => s
  | some r => s.csrSet a (r.write false (s.csrGet a) v)

/-- A read without views: the value, and the state after it. -/
def State.plainRead (s : State) (a : Nat) : Word × State :=
  match findRow a with
  | none => (0, s)
  | some r => (r.shown (s.csrGet a), s.csrSet a (r.afterRead a (s.csrGet a)))

/-- The indexes of a register within its caption. -/
def RegRow.ix (r : RegRow) (a : Nat) : List Nat := gridIdx r.dims (a % 0x10000000 - r.base)

/-! ## Reads -/

/-- ENG_DBG_DATA: the selected register of a halted engine (03 R151). -/
def State.dbgData (s : State) (d : Nat) : Word :=
  let e := s.fget (Csr.engDbgSel d) EngDbgSel.engine
  let c := s.fget (Csr.engDbgSel d) EngDbgSel.reg
  if s.halted d e && c < 24 then s.regIn d e (s.fget (Csr.engDbgSel d) EngDbgSel.window) c else 0

/-- Locks that exist in a die's table. -/
def State.lockStsView (s : State) (d : Nat) : Word := BitVec.ofNat 32 (SMap.get [] s.locks d).length

/-- CFG_STS as a read shows it: PLANE is the active plane of reach 0. -/
def State.cfgStsView (s : State) (d : Nat) : Word := CfgSts.plane.put (s.csrGet (Csr.cfgSts d)) (s.plane d 0)

/-- A read of a register of a logic die; `dbg` is a message of a host that holds ENGDBG. -/
def State.dieRead (s : State) (a : Nat) (dbg : Bool) : Word × State :=
  match findRow a with
  | none => (0, s)
  | some r =>
    let d := dieOf a
    let i := (r.ix a).getD 0 0
    let b := r.base
    if b == Rg.dirSts.base then (s.dirStsView d, s)
    else if b == Rg.engCtrl.base then
      let w := s.csrGet a
      (EngCtrl.step.put (if dbg then w else EngCtrl.halt.put w 0) 0, s)
    else if b == Rg.engSts.base then (s.engStsView d i, s)
    else if b == Rg.engHsData.base then (s.hsWord d, doEngHsDataAccess d none s)
    else if b == Rg.engDbgSel.base then (if dbg then s.csrGet a else 0, s)
    else if b == Rg.engDbgData.base then (if dbg then s.dbgData d else 0, s)
    else if b == Rg.engLockSts.base then (s.lockStsView d, s)
    else if b == Rg.schSts.base then (s.schStsView d, s)
    else if b == Rg.taskW3.base then (s.taskW3View d i, s)
    else if b == Rg.sluSts.base then (s.sluStsView d, s)
    else if b == Rg.sluFabCost.base then (s.fabCostView d i, s)
    else if b == Rg.msSts.base then (s.msStsView d, s)
    else if b == Rg.msLo.base then (BitVec.ofNat 32 (s.msOf d), doMsLoRead d s)
    else if b == Rg.uioSts.base then (s.uioStsView d i, s)
    else if b == Rg.uspRx.base then ((s.uspRxWord d i).setWidth 32, doUspRxRead d i false s)
    else if b == Rg.uspSts.base then (s.uspStsView d i, s)
    else if b == Rg.bankInfo.base then (s.bankInfoView d i, s)
    else if b == Rg.bankSts.base then (s.bankStsView d, s)
    else if b == Rg.dqSts.base then (s.dqStsView d i, s)
    else if b == Rg.cfgSts.base then (s.cfgStsView d, s)
    else s.plainRead a

/-! ## Writes -/

/-- GW_ROLE: a reserved role code leaves its field (01 R31). -/
def State.gwRoleWrite (s : State) (a : Nat) (v : Word) : State :=
  let roles := (List.range 4).foldl (fun w k =>
    let f : Fld := ⟨4 * k, 4⟩
    if f.get v < 8 then f.put w (f.get v) else w) (s.csrGet a)
  s.csrSet a (GwRole.vgrp.put roles (GwRole.vgrp.get v))

/-- ENG_CTRL by any access but a debug message: EPOCH while PARKED, PARK, PTRAP (03 R149, R151). -/
def State.engCtrlWrite (s : State) (d e : Nat) (v : Word) : State :=
  let s := doEngEpochWrite d e (EngCtrl.epoch.get v) s
  let s := doEngPark d e (EngCtrl.park.bit v) s
  s.fset (Csr.engCtrl d e) EngCtrl.ptrap (EngCtrl.ptrap.get v)

/-- SCH_TASK_n_W0: each field by its rule (04 R168, R169). -/
def State.taskW0Write (s : State) (d n : Nat) (v : Word) : State :=
  let a := Csr.taskW0 d n
  let old := s.csrGet a
  let s := if TaskW0.v.bit old && !TaskW0.v.bit v then doTaskInvalidate d n s else s
  let s := (s.fset a TaskW0.entry (TaskW0.entry.get v)).fset a TaskW0.eclass (TaskW0.eclass.get v)
  let s := if TaskW0.prio.get old == TaskW0.prio.get v then s else doTaskPrioWrite d n (TaskW0.prio.get v) s
  let s := if TaskW0.clmask.get old == TaskW0.clmask.get v then s
    else doTaskClmaskWrite d n (BitVec.ofNat 8 (TaskW0.clmask.get v)) s
  let s := if TaskW0.mode.get old == TaskW0.mode.get v then s else doTaskReadinessWrite d n none (some (TaskW0.mode.bit v)) s
  if !TaskW0.v.bit old && TaskW0.v.bit v then doTaskValidate d n s else s

/-- A write of a register of a logic die; `dbg` is a message of a host that holds ENGDBG. STEP is the caller's. -/
def State.dieWrite (s : State) (a : Nat) (v : Word) (dbg : Bool) : State :=
  match findRow a with
  | none => s
  | some r =>
    let d := dieOf a
    let ix := r.ix a
    let i := ix.getD 0 0
    let j := ix.getD 1 0
    let b := r.base
    if b == Rg.gwRole.base then s.gwRoleWrite a v
    else if b == Rg.hgMeter.base then doHgMeterWrite d i j v s
    else if b == Rg.cvCtrl.base then doCvCtrlWrite d i v s
    else if b == Rg.engCtrl.base then
      let s := s.engCtrlWrite d i v
      if dbg then s.fset a EngCtrl.halt (EngCtrl.halt.get v) else s
    else if b == Rg.engSpill.base then doEngSpillWrite d i v s
    else if b == Rg.engHsData.base then doEngHsDataAccess d (some v) s
    else if b == Rg.engDbgSel.base then if dbg then s.plainWrite a v else s
    else if b == Rg.taskW0.base then s.taskW0Write d i v
    else if b == Rg.taskW1.base then doTaskReadinessWrite d i (some v) none s
    else if b == Rg.taskW2.base then doTaskFlagsWrite d i v s
    else if b == Rg.taskW3.base then doTaskEpochWrite d i (TaskW3.epoch.get v) s
    else if b == Rg.fabPllCtrl.base then doFabPllWrite d i v s
    else if b == Rg.reachCtrl.base then
      let sel := ReachCtrl.fabsel.get (s.csrGet a)
      let s := (s.fset a ReachCtrl.plen (ReachCtrl.plen.get v)).fset a ReachCtrl.palign (ReachCtrl.palign.get v)
      if sel == ReachCtrl.fabsel.get v then s else doFabselWrite d i (ReachCtrl.fabsel.get v) s
    else if b == Rg.fabIrwHi.base then
      if FabIrwHi.go.bit v then doEntryRewriteGo d (BitVec.ofNat 8 (FabIrwHi.entryHi.get v)) s else s.plainWrite a v
    else if b == Rg.uioDly.base then doUioDlyWrite d i v s
    else if b == Rg.uspTx.base then doUspTxWrite d i (v.setWidth 16) false s
    else if b == Rg.bankCtrl.base then doBtEnWrite d (BankCtrl.btEn.bit v) s
    else if b == Rg.dqCtrl.base then
      let s := s.plainWrite a v
      if DqCtrl.flush.bit v then doDitchFlush d i s else s
    else if b == Rg.dqWeir.base then doDqWeirWrite d i v s
    else if b == Rg.fabPatchCtrl.base then
      if FabPatchCtrl.go.bit v then doFabPatchGo d (FabPatchCtrl.reach.get v) s else s.plainWrite a v
    else if b == Rg.uioOpenCtrl.base then
      if UioOpenCtrl.go.bit v then
        let (x, s) := s.free64
        s.openGo d (x.setWidth 32)
      else s
    else s.plainWrite a v

end Sys2Proof.Machine
end

