-- ==== Sys2Proof/Machine/Image.lean ====
section
/-! DEFINITION. The checks of a whole field image (08 R267 to R272, R276): its sections, and what its register values may be.
`rd a` is the byte at offset `a` of the image. -/

namespace Sys2Proof.Machine

/-- A section keeps the rules of its type. -/
def State.sectionOk (s : State) (rd : Nat → Nat) (x : Section) : Bool :=
  x.resv == 0 && crc32c (bytesAt rd x.off x.len) == x.crc &&
  if x.type == 1 then decide (x.die < s.part.dies) && framesOk rd x else s.sectionRules x (secIn rd x)

/-! ## Register values of an image (01 R31; 03 R106; 06 R219) -/

/-- The values in effect after every entry of an image: a later entry replaces an earlier one (R269). -/
def finalRegs (ps : List (Word × Word)) : SMap Word := ps.foldl (fun m p => SMap.put m p.1.toNat p.2) []

/-- What an image may not set: a reserved role code, an ENG_SPILL out of range, a PLL beyond its limits. -/
def State.regValueOk (s : State) (a : Nat) (v : Word) : Bool :=
  match findRow a with
  | none => false
  | some r =>
    if r.base == Rg.gwRole.base then
      (List.range 4).all (fun k => v.toNat / 16 ^ k % 16 < 8)
    else if r.base == Rg.engSpill.base then
      EngSpill.top.get v ≤ 256 && EngSpill.limit.get v ≤ EngSpill.top.get v
    else if r.base == Rg.fabPllCtrl.base then
      s.pllOk (dieOf a) ((r.ix a).getD 0 0) v
    else true

/-- The register values of an image, each seen with the others in place. -/
def State.regValuesOk (s : State) (ps : List (Word × Word)) : Bool :=
  let fin := finalRegs ps
  let t := fin.foldl (fun (t : State) (p : Nat × Word) => t.csrSet p.1 p.2) s
  fin.all (fun (p : Nat × Word) => t.regValueOk p.1 p.2)

/-- No LVDS output is set on a bank that the image declares at 1.2 or 1.5 V (06 R225); the fields of an even pin govern its
pair. -/
def lvdsAdmits (rd : Nat → Nat) : Bool :=
  (finalRegs (reginitOf rd)).all (fun (p : Nat × Word) =>
    match findRow p.1 with
    | some r =>
      !(r.base == Rg.uioCtrl.base && (r.ix p.1).getD 0 0 % 2 == 0 && UioCtrl.std.get p.2 == 2 &&
        Config.bankLow (bytesAt rd 0 (imgLen rd)) (dieOf p.1))
    | none => true)

/-! ## The whole image -/

/-- structure_valid (R276): R267 to R272, and the register values of an image that is released. -/
def State.structureValid (s : State) (rd : Nat → Nat) : Bool :=
  let l := sectionsOf rd
  s.part.headerOk rd && 0x100 + 16 * imgSections rd + 256 ≤ imgLen rd &&
  sigBlockOk rd && orderedIn (sigAt rd) (0x100 + 16 * imgSections rd) l && l.all (s.sectionOk rd) &&
  (List.range s.part.dies).all (fun d => (l.filter (fun (x : Section) => x.type == 1 && x.die == d)).length == 1) &&
  s.regValuesOk (reginitOf rd)

end Sys2Proof.Machine
end

