-- ==== Sys2Proof/Machine/Load.lean ====
section
/-! DEFINITION. Loads, release, reach swaps and the live swap (08 R277 to R291, R296): what ends a load, the three steps of a
release and what each release ends, the reload of dies, and the sequence of a live swap. -/

namespace Sys2Proof.Machine

/-! ## Power state (12 Table 12-2) -/

/-- PWR_STS.STATE follows the dies: RUN with a released die, LOADED with a powered one, else STANDBY. -/
def State.powerRefresh (s : State) : State :=
  let v := if (List.range 8).any (fun d => s.dieOn d && s.released d) then 2
    else if (List.range 8).any s.dieOn then 1 else 0
  s.fset Csr.pwrSts PwrSts.state v

/-! ## What a release or a reload ends -/

/-- RESET_DONE of a reset that a message started (12 R401); kind D names no reach or engine. -/
def State.resetDone (s : State) (kind d sub st : Nat) : State := s.notice d 0x0809 [(1, kind), (1, d), (1, sub), (1, st)]

/-- The result byte of a die (13 R411). -/
def bistResult (b : BistSt) (d : Nat) : Nat :=
  let run (i : Nat) : Bool := b.kind == i || b.kind == 2
  let pass (i : Nat) : Bool := b.known && run i && !bitOf (SMap.get 0 b.fails d) i
  b2n (run 0) + 2 * b2n (pass 0) + 4 * b2n (run 1) + 8 * b2n (pass 1) + 16 * b2n (!b.known)

/-- The 24 response bytes of a die; a die that went off reports zeros (13 R411). -/
def State.bistBytes (s : State) (b : BistSt) (d : Nat) : List (BitVec 8) :=
  if !s.dieOn d then leBytes 1 d ++ List.replicate 23 0
  else
    leBytes 1 d ++ leBytes 1 (bistResult b d) ++ [Config.stepping d] ++ List.replicate 5 0 ++
    leBytes 8 (SMap.get 0 b.misrL d).toNat ++ leBytes 8 (SMap.get 0 b.misrM d).toNat

/-- The status of a run. -/
def State.bistStatus (s : State) (b : BistSt) : Nat :=
  if b.dieList.any (fun d => !s.dieOn d) then St.notPresent
  else if !b.known || b.dieList.any (fun d => SMap.get 0 b.fails d ≠ 0) then St.integrityFail else St.ok

/-- The signatures of a die in block 0xD. -/
def State.putMisr (s : State) (d : Nat) (l m : BitVec 64) : State :=
  (((s.csrSet (Csr.bistMisr d 0) (l.setWidth 32)).csrSet (Csr.bistMisr d 1) ((l >>> 32).setWidth 32)).csrSet
    (Csr.bistMisr d 2) (m.setWidth 32)).csrSet (Csr.bistMisr d 3) ((m >>> 32).setWidth 32)

/-- Step 6 of R408: the results stand in block 0xD, BIST_DONE is raised, BIST_RUN is answered. -/
def State.bistEnd (s : State) (b : BistSt) : State :=
  let ds := b.dieList
  let st := s.bistStatus b
  let mask := ds.foldl (fun n d => n + 2 ^ d) 0
  let pass := ds.foldl (fun n d => if s.dieOn d && SMap.get 0 b.fails d == 0 && b.known then n + 2 ^ d else n) 0
  let body := ds.flatMap (s.bistBytes b)
  let s := ds.foldl (fun s d =>
    let s := (s.fset (Csr.bistSts d) BistSts.busy 0).fset (Csr.bistSts d) BistSts.result (if s.dieOn d then bistResult b d % 16 else 0)
    if s.dieOn d then s.putMisr d (SMap.get 0 b.misrL d) (SMap.get 0 b.misrM d) else s) s
  let s := { s with bist := none }
  (s.notice stw 0x0A01 [(1, b.kind), (1, mask), (1, pass), (1, st)]).finish b.cmd st body

/-- A wake has no die or reach left: its command is answered, and a wake from STANDBY is reported (12 R393, R395, R397). -/
def State.wakeCheck (s : State) : State :=
  match s.pwr.wake with
  | none => s
  | some w =>
    if w.rails || !w.dies.isEmpty || !w.reaches.isEmpty then s
    else
      let s := State.powerRefresh { s with pwr := { s.pwr with wake := none } }
      let s := if w.old ≠ 0 then s
        else s.notice stw 0x0804 [(1, w.old), (1, s.fget Csr.pwrSts PwrSts.state), (1, s.fget Csr.pwrSts PwrSts.dieOn)]
      match w.cmd with
      | some h => s.finish h St.ok []
      | none => s

/-- The reset, wake or test that rebuilt a die has ended with a status. -/
def State.settle (s : State) (d st : Nat) : State :=
  let s := if s.pwr.resetBy.contains d then
      let s := { s with pwr := { s.pwr with resetBy := s.pwr.resetBy.filter (· ≠ d) } }
      let (x, s) := s.freeByte
      s.resetDone 1 d x st
    else s
  let s := State.wakeCheck { s with pwr := { s.pwr with wake := s.pwr.wake.map (fun (w : WakeSt) =>
    { w with dies := w.dies.filter (· ≠ d), reaches := w.reaches.filter (fun (x : Nat × Nat) => x.1 ≠ d) }) } }
  match s.bist with
  | some b =>
    let b' := { b with settle := b.settle.filter (· ≠ d) }
    if b.settle.contains d && b'.settle.isEmpty then s.bistEnd b' else { s with bist := some b' }
  | none => s

/-- A reach of a wake has been released. -/
def State.settleReach (s : State) (d r : Nat) : State :=
  State.wakeCheck { s with pwr := { s.pwr with wake := s.pwr.wake.map (fun (w : WakeSt) =>
    { w with reaches := w.reaches.filter (· ≠ (d, r)) }) } }

/-! ## Release (R281) -/

/-- The dies a release acts on. -/
def State.relDies (s : State) (r : Release) : List Nat :=
  match r.scope with
  | .all => (List.range s.part.dies).filter (fun d => s.dieOn d && !r.skip.contains d)
  | .die d => [d.val].filter s.dieOn
  | .reach _ _ => []

/-- The reaches a release acts on: a gated reach stays as it is. -/
def State.relReaches (s : State) (r : Release) : List (Nat × Nat) :=
  match r.scope with
  | .reach d x => [(d.val, x.val)].filter (fun y => s.dieOn y.1 && !s.gated y.1 y.2)
  | _ => (s.relDies r).flatMap (fun d => ((List.range 16).filter (fun x => !s.gated d x)).map (fun x => (d, x)))

/-- Step 1: isolation and the pin hold end, the LTSSMs of enabled sub-ports start training, and a load sets every balance to CAP
(01 R23; 04 R171). -/
def State.releaseStep1 (s : State) (r : Release) : State :=
  let s := (s.relReaches r).foldl (fun s (x : Nat × Nat) => s.fsetBit (Csr.cfgReachSts x.1) CfgReachSts.iso x.2 false) s
  (s.relDies r).foldl (fun s d =>
    if r.why == RelWhy.load then s.setBalances d (s.fget (Csr.pmuAllotCfg d) PmuAllotCfg.cap) else s) s

/-- Step 2: the write enables toward banks, ditches and CSRs. -/
def State.releaseStep2 (s : State) (r : Release) : State :=
  (s.relReaches r).foldl (fun s (x : Nat × Nat) =>
    { s with writesOn := SMap.set 0 s.writesOn x.1 (setBitN (SMap.get 0 s.writesOn x.1) x.2) }) s

/-- The part of step 3 that belongs to a die: headgates pass, dispatch runs, sluices accept beats. -/
def State.dieOpens (s : State) (d : Nat) : State :=
  let s := { s with gatesPass := SMap.set false s.gatesPass d true }
  let s := (s.flag (Csr.schCtrl d) SchCtrl.dispEn).fset (Csr.sluSts d) SluSts.held 0
  (s.flag (Csr.cfgSts d) CfgSts.released).fset (Csr.cfgSts d) CfgSts.swap 0

/-- The resets of a reach deassert: its border latches end, and its registers start from 0 (06 R209, R233; 08 R291). -/
def State.reachRelease (s : State) (d r : Nat) : State :=
  let s := { s with held := SMap.set 0xFFFF s.held d (clrBitN (SMap.get 0xFFFF s.held d) r) }
  ((s.reachClear d r).freeBorder d r).reachStart d r

/-- Step 3: resets deassert; on a die the reference counts start from 0 (06 R209), and after a load the count of test
cycles does (07 R249). -/
def State.releaseStep3 (s : State) (r : Release) : State :=
  let ds := s.relDies r
  let s := { s with fabRef := SMap.drop (fun k => ds.contains (k / 4)) s.fabRef,
                    fabAcc := SMap.drop (fun k => ds.contains (k / 4)) s.fabAcc }
  let s := (s.relReaches r).foldl (fun s (x : Nat × Nat) => s.reachRelease x.1 x.2) s
  ds.foldl (fun s d =>
    let s := s.dieOpens d
    if r.why == RelWhy.load then s.setBt d { s.btSt d with base := s.bankNow, last := s.bankNow } else s) s

/-- A release begins with step 1. -/
def State.releaseStart (s : State) (sc : Scope) (why : RelWhy) : State :=
  let rel : Release := { scope := sc, step := 1, why := why, skip := [] }
  State.releaseStep1 { s with releases := s.releases.filter (fun (r : Release) => r.scope ≠ sc) ++ [rel] } rel

def State.releaseOf (s : State) (sc : Scope) : Option Release := s.releases.find? (fun (r : Release) => r.scope == sc)

def State.setReleaseStep (s : State) (sc : Scope) (n : Nat) : State :=
  { s with releases := s.releases.map (fun (r : Release) => if r.scope == sc then { r with step := n } else r) }

/-- RELEASE_WRITE_ENABLES: release cycle 64. The release of a reach reset by message has its step 1 here too (12 R401). -/
def doReleaseWriteEnables (sc : Scope) (s : State) : State :=
  match s.releaseOf sc with
  | none => s
  | some r =>
    if s.tapHeld then s
    else if r.step == 0 then ((s.releaseStep1 r).releaseStep2 r).setReleaseStep sc 2
    else if r.step == 1 then (s.releaseStep2 r).setReleaseStep sc 2
    else s

def execReleaseWriteEnables (sc : Scope) (s : State) : Ans := .next (doReleaseWriteEnables sc s)

/-- µs from power-good or reset. -/
def State.sinceStart (s : State) : Nat := (s.refMs - s.pwr.lastStart) / 1000

/-- A full load of every die ends (R297; 09 R314, R324). -/
def State.loadDone (s : State) : State :=
  let s := s.notice stw 0x0501 [(1, s.source), (4, imgVersion (listRd s.image)), (4, s.sinceStart)]
  State.finishWork { s with tow := { s.tow with started := true } } .load St.ok []

/-- Reloads that waited for a live swap whose image came from no slot end without a reload (R293). -/
def State.endWaitingReloads (s : State) : State :=
  if s.fromSlot then s
  else s.jobs.foldl (fun s (j : ReachJob) =>
    match j.kind with
    | .reload by_ => if j.swapping then s else (s.dropJob j.die j.reach).reloadEnd j.die j.reach St.notPresent by_
    | _ => s) s

/-- A live swap ends (R289, R297; 09 R315). -/
def State.swapDone (s : State) : State :=
  match s.swap with
  | none => s
  | some w =>
    let s := { s with swap := none }
    let s := (List.range s.part.dies).foldl (fun s d =>
      (s.count (Csr.cfgSwapCnt d) CfgSwapCnt.swaps 1).fset (Csr.cfgLastPause d) CfgLastPause.device (min 65535 w.pause)) s
    let s := s.notice stw 0x0504 [(1, s.source), (4, imgVersion (listRd s.image)), (2, w.pause)]
    (s.finish w.cmd St.ok (leBytes 2 w.pause)).endWaitingReloads

/-- A reach swap ends (R283, R290, R293). -/
def State.reachSwapDone (s : State) (d r pause : Nat) : State :=
  let s := (s.count (Csr.cfgSwapCnt d) CfgSwapCnt.reachSwaps 1).fset (Csr.cfgLastPause d) CfgLastPause.reach (min 65535 pause)
  let s := s.fset (Csr.cfgSts d) CfgSts.swap 0
  match s.jobOf d r with
  | none => s
  | some j =>
    let s := s.dropJob d r
    match j.kind with
    | .patch => (s.fset (Csr.fabPatchSts d) FabPatchSts.status St.ok).fset (Csr.fabPatchSts d) FabPatchSts.busy 0
    | .reload by_ => s.reloadEnd d r St.ok by_
    | .wake => s

/-- What a release ends at its step 3. -/
def State.releaseEnds (s : State) (r : Release) : State :=
  match r.scope, r.why with
  | .all, .load => s.loadDone
  | .die d, .load => s.settle d.val St.ok
  | _, .swap => s.swapDone
  | .reach d x, .job p => (s.reachSwapDone d.val x.val p).settleReach d.val x.val
  | .reach d x, .q true => (s.resetDone 2 d.val x.val St.ok).settleReach d.val x.val
  | .reach d x, _ => s.settleReach d.val x.val
  | _, _ => s

/-- RELEASE_RESETS_DEASSERT: release cycle 128. -/
def doReleaseResetsDeassert (sc : Scope) (s : State) : State :=
  match s.releaseOf sc with
  | none => s
  | some r =>
    if r.step ≠ 2 || s.tapHeld then s
    else
      let s := { s with releases := s.releases.filter (fun (x : Release) => x.scope ≠ sc) }
      (s.releaseStep3 r).powerRefresh.releaseEnds r

def execReleaseResetsDeassert (sc : Scope) (s : State) : Ans := .next (doReleaseResetsDeassert sc s)

/-! ## Reach swap (R290) -/

/-- The planes of a reach exchange roles (R266). -/
def State.flip (s : State) (d r : Nat) : State :=
  { s with planes := SMap.set false s.planes (d * 16 + r) (!SMap.get false s.planes (d * 16 + r)) }

def fin8 (d : Nat) : Fin 8 := Fin.ofNat 8 d
def fin16 (r : Nat) : Fin 16 := Fin.ofNat 16 r

/-- REACH_DRAIN_END: the planes flip, the reach is reset, and its release begins. -/
def doReachDrainEnd (d r : Nat) (s : State) : State :=
  match s.jobOf d r with
  | none => s
  | some j =>
    if !j.swapping || (s.releaseOf (.reach (fin8 d) (fin16 r))).isSome then s
    else
      let t := ((s.setShadow d 2).flip d r).setShadow d 3
      (t.holdReach d r).releaseStart (.reach (fin8 d) (fin16 r)) (.job (133 + s.drainCycles d r))

def execReachDrainEnd (d : Die) (r : Reach) (s : State) : Ans := .next (doReachDrainEnd d.val r.val s)

/-! ## Loads (R277, R278, R296) -/

/-- A load begins: its shadows are LOADING. -/
def State.beginLoad (s : State) (l : Load) : State :=
  (((List.range s.part.dies).filter (fun d => s.covers l d)).foldl (fun s d => s.setShadow d 1) { s with load := some l })

/-- A load that has taken nothing yet. `bytes` is the image, or what has arrived of it, where its source is no slot. -/
def freshLoad (kind : LoadKind) (source : Nat) (hdr bytes : List (BitVec 8)) : Load :=
  { kind := kind, source := source, hdr := hdr, bytes := bytes, next := List.replicate 8 0, recAt := List.replicate 8 0, secs := 0,
    reginit := [], handlers := [], bankinit := [], staged := 0, bad := none, rest := [], fails := [], ext := [] }

/-- LOAD_FAIL: source, status, and the die and frame at fault, which a fault without a frame does not name (log
entry 21). -/
def State.loadFail (s : State) (source st : Nat) (at_ : Option (Nat × Nat)) : State :=
  match at_ with
  | some (d, f) => s.notice stw 0x0502 [(1, source), (1, st), (1, d), (2, f)]
  | none =>
    let (a, s) := s.freeByte
    let (b, s) := s.freeByte
    s.notice stw 0x0502 [(1, source), (1, st), (1, a), (2, b)]

/-- The status of a source that was tried; NOT_PRESENT for one that was not. -/
def triedStatus (fails : List (Nat × Nat)) (x : Nat) : Nat :=
  match fails.find? (fun (f : Nat × Nat) => f.1 == x) with
  | some f => f.2
  | none => St.notPresent

/-- A slot is sealed and its seal's key is not revoked. -/
def State.slotLoadable (s : State) (i : Nat) : Bool :=
  s.sealed i && (3 ≤ s.sealKey i || s.otpWord (0x62 + s.sealKey i) == 0)

/-- The header of a source; external flash holds the image `ext`. -/
def State.sourceHdr (s : State) (x : Nat) (ext : List (BitVec 8)) : List (BitVec 8) :=
  if x == 3 then ext.take 256 else s.slotHeader (x - 1)

/-- A load from a slot, or from external flash with its image. -/
def State.sourceLoad (s : State) (kind : LoadKind) (x : Nat) (ext : List (BitVec 8)) : Load :=
  freshLoad kind x (s.sourceHdr x ext) (if x == 3 then ext else [])

/-- The boot ROM enables SPI at the width that the device reports while it reads external flash (12 R381). -/
def State.spiFor (s : State) (on : Bool) : State :=
  let s := s.fset Csr.pinEn PinEn.spi (b2n on)
  (if on then s.drawSpiWidth else s).setOwners

/-- IMAGE_SELECTION: the next source of R277 that can be loaded; NO_IMAGE after the last. -/
def State.nextSource (s : State) (ext : List (BitVec 8)) : List Nat → List (Nat × Nat) → State
  | [], f =>
    State.notice { s with load := none, tow := { s.tow with started := true } } stw 0x0503
      [(1, triedStatus f 1), (1, triedStatus f 2), (1, triedStatus f 3)]
  | x :: r, f =>
    if x ≠ 3 && !s.slotLoadable (x - 1) then s.nextSource ext r f
    else
      let h := s.sourceHdr x ext
      if s.part.headerOk (listRd h) then
        State.beginLoad (if x == 3 then s.spiFor true else s) { s.sourceLoad .start x ext with rest := r, fails := f, ext := ext }
      else (s.loadFail x St.badArgument none).nextSource ext r (f ++ [(x, St.badArgument)])

/-- The life-cycle states in which an image is released (11 Table 11-2). -/
def State.lcPermits (s : State) : Bool := s.lcState == 0x30 || s.lcState == 0x40 || s.lcState == 0x50

/-- The start-up load (R277): the preferred slot, the other one, then external flash. -/
def State.startLoad (s : State) (st : StartInfo) : State :=
  if !s.lcPermits then
    State.loadFail { s with tow := { s.tow with started := true } } 0 St.refused none
  else
    let pref := if s.opt 0x05 == 1 then [2, 1] else [1, 2]
    s.nextSource st.extImage (pref ++ (if s.opt 0x06 % 2 == 1 && st.extAnswers then [3] else [])) []

/-- The records of die `d` that are still to come, as the image holds them. -/
def State.takeRecords (s : State) (d : Nat) : Nat → State
  | 0 => s
  | n + 1 =>
    match s.load with
    | none => s
    | some l =>
      match s.nextRec l d with
      | none => s
      | some x =>
        let rec_ := wordIn (s.loadRd l) x.at_
        if l.bad.isSome || !l.arrived (x.at_ + recSize rec_) then s
        else (s.loadRec l d rec_ (bodyIn (s.loadRd l) x.at_ rec_)).takeRecords d n

/-- The sections of a load that are still to come, in the image's order; `k` counts those that are not FRAMES. -/
def State.takeSections (s : State) : Nat → List Section → State
  | _, [] => s
  | k, x :: xs =>
    match s.load with
    | none => s
    | some l =>
      if x.type == 1 then State.takeSections (if s.covers l x.die then s.takeRecords x.die 20480 else s) k xs
      else
        State.takeSections (if l.bad.isSome || l.secs ≠ k || !l.arrived (x.off + x.len) then s else s.takeSection l x) (k + 1) xs

/-- What a load has not taken yet of its image is taken: its end comes after the whole image has been read (R277, R278, R280,
R286). -/
def State.takeRest (s : State) : State :=
  match s.load with
  | none => s
  | some l => s.takeSections 0 (sectionsOf (s.loadRd l))

/-- A load's source is a slot, whose image the image path reads (10 R338, R339). -/
def State.imageRead (s : State) (source : Nat) : State :=
  if source == 1 || source == 2 then s.slotRead (source - 1) Rq.image else s

/-- The verdict on the source of a load that has been read: a word that cannot be read, a CMAC or signature that does not match,
a section with a wrong CRC, or a structure or a declared bank voltage that breaks the rules. -/
def State.sourceVerdict (s : State) (l : Load) : Nat :=
  let rd := s.loadRd l
  if l.source ≤ 2 && (s.slotUnread (l.source - 1) || !s.macMatches (l.source - 1)) then St.integrityFail
  else if 3 ≤ l.source && !s.signatureValid rd then St.integrityFail
  else if (sectionsOf rd).any (fun x => crc32c (bytesAt rd x.off x.len) ≠ x.crc) then St.integrityFail
  else if !s.structureValid rd || !lvdsAdmits rd then St.badArgument
  else St.ok

/-- The status of a load that has ended, with the die and frame at fault: what stopped it, frames missing, or its source. -/
def State.loadVerdict (s : State) (l : Load) : Nat × Option (Nat × Nat) :=
  match l.bad with
  | some (st, d, f) => (st, some (d, f))
  | none =>
    match ((List.range s.part.dies).filter (s.covers l)).find? (fun d => l.next.getD d 0 ≠ 20480) with
    | some d => (St.badArgument, some (d, localIndex (l.next.getD d 0 / 1280) (l.next.getD d 0 % 1280)))
    | none => (s.sourceVerdict l, none)

/-- Writes handler words into the stores of the masked engines. -/
def State.putHandlers (s : State) (d mask first : Nat) (ws : List Word) : State :=
  (bitsOf 64 mask).foldl (fun s e => ws.zipIdx.foldl (fun s (x : Word × Nat) => s.setStoreWord d e (first + x.2) x.1) s) s

/-- Writes the words of a BANKINIT section. -/
def State.putBank (s : State) (a : Nat) (ws : List (BitVec 64)) : State :=
  ws.zipIdx.foldl (fun s (x : BitVec 64 × Nat) =>
    s.bankStore (a / 2 ^ 23 % 8) (a / 2 ^ 17 % 64) (a % 2 ^ 17 / 8 + x.2) x.1 false) s

/-- CFG_PATCHABLE and CFG_VER of a die from an image header. -/
def State.showImage (s : State) (d : Nat) (h : List (BitVec 8)) : State :=
  (s.fset (Csr.cfgPatchable d) CfgPatchable.patch (leAt (listRd h) (0x20 + 2 * d) 2)).csrSet (Csr.cfgVer d)
    (BitVec.ofNat 32 (imgVersion (listRd h)))

/-- The handler stores and scratch of dies are 0 before an image writes them (R270; 03 R148). -/
def State.zeroStores (s : State) (ds : List Nat) : State :=
  let mine (k : Nat) : Bool := ds.contains (k / 64)
  { s with
    store := SMap.drop (fun k => mine (k / 4096)) s.store, storeBad := SMap.drop (fun k => mine (k / 4096)) s.storeBad,
    scratch := SMap.drop (fun k => mine (k / 16384)) s.scratch, scratchBad := SMap.drop (fun k => mine (k / 4096)) s.scratchBad }

/-- A loaded image takes its place on dies `ds` (R278, R269, R270; 03 R148; 04 R178; 07 R246, R262): bank clears end, handler
words, REGINIT entries and BANKINIT words are written, enabled PLLs lock, and every plane flips. -/
def State.applyImage (s : State) (l : Load) (ds : List Nat) : State :=
  let s := ds.foldl (fun s d => (List.range 48).foldl (fun s b => doBankClearDone d b s) s) (s.zeroStores ds)
  let s := l.handlers.foldl (fun s (x : Nat × Nat × Nat × List Word) =>
    if ds.contains x.1 then s.putHandlers x.1 x.2.1 x.2.2.1 x.2.2.2 else s) s
  let s := l.reginit.foldl (fun s (p : Word × Word) =>
    if ds.contains (dieOf p.1.toNat) then s.dieWrite p.1.toNat p.2 false else s) s
  let s := l.bankinit.foldl (fun s (x : Word × List (BitVec 64)) =>
    if ds.contains (x.1.toNat / 2 ^ 23 % 8) then s.putBank x.1.toNat x.2 else s) s
  ds.foldl (fun s d =>
    let s := (List.range 4).foldl (fun s f => doFabPllLock d f s) s
    let s := (List.range 16).foldl (fun s r => s.flip d r) (s.setShadow d 2)
    (s.setShadow d 3).showImage d l.hdr) s

/-- A load of every die succeeds: the image runs, and the release begins. Of an image in external flash all is kept: a die that
is reset reads it again (R296). -/
def State.imageTaken (s : State) (l : Load) : State :=
  let ds := (List.range s.part.dies).filter s.dieOn
  let s := State.applyImage { s with load := none, image := if l.source == 3 then l.bytes else l.hdr } l ds
  (s.setSource l.source).releaseStart .all .load

/-- The dies of a reload end with a status. -/
def State.settleAll (s : State) (ds : List Nat) (st : Nat) : State := ds.foldl (fun s d => s.settle d st) s

/-- The start load ends with a verdict: the image runs, or every die is held again and the next source is tried. -/
def State.startEnds (s : State) (l : Load) : State :=
  let (st, at_) := s.loadVerdict l
  let s := if l.source == 3 then s.spiFor false else s
  if st == St.ok then s.imageTaken l
  else
    let s := ((List.range s.part.dies).filter s.dieOn).foldl (fun s d => s.dieReset d [.d]) { s with load := none }
    (s.loadFail l.source st at_).nextSource l.ext l.rest (l.fails ++ [(l.source, st)])

/-- The reload of dies ends with a verdict: they are released alone, or held again (R296). -/
def State.diesEnd (s : State) (l : Load) (ds : List Nat) : State :=
  let (st, at_) := s.loadVerdict l
  let on := ds.filter s.dieOn
  let s := { s with load := none }
  if st == St.ok then on.foldl (fun s d => s.releaseStart (.die (fin8 d)) .load) (s.applyImage l on)
  else ((on.foldl (fun s d => s.dieReset d [.d]) s).loadFail l.source st at_).settleAll ds st

/-- IMAGE_LOAD_COMPLETE: the shadow load of a start or of a reload of dies ends: the whole image has been read (R277, R278,
R296). -/
def doImageLoadComplete (source : Nat) (s : State) : State :=
  if s.tapHeld || !s.load.any (fun (l : Load) => l.kind != .host && l.kind != .swap && l.source == source) then s
  else
    let s := s.takeRest
    match s.load with
    | none => s
    | some l =>
      let s := s.imageRead l.source
      match l.kind with
      | .dies ds => s.diesEnd l ds
      | _ => s.startEnds l

def execImageLoadComplete (source : Fin 8) (s : State) : Ans := .next (doImageLoadComplete source.val s)

/-- Dies that were reset or woken are reloaded from the running source and released alone; from a host image they stay held
(Table 08-14). While a start load runs, it covers them; while a test instruction holds the dies, Test-Logic-Reset does (13 R416). -/
def State.reloadDies (s : State) (ds : List Nat) : State :=
  let src := s.source
  if s.tapHeld || s.load.any (fun (l : Load) => l.kind == .start) then s
  else if src == 0 then s.settleAll ds St.ok
  else if src == 4 then
    (ds.foldl (fun s d => s.notice d 0x050A [(1, d)]) s).settleAll ds St.ok
  else
    if !s.part.headerOk (listRd (s.sourceHdr src s.image)) then (s.loadFail src St.badArgument none).settleAll ds St.badArgument
    else
      match s.load with
      | some l =>
        match l.kind with
        | .dies old =>
          let l := { l with kind := .dies (old.filter (fun d => !ds.contains d) ++ ds),
                            next := l.next.zipIdx.map (fun (x : Nat × Nat) => if ds.contains x.2 then 0 else x.1) }
          s.beginLoad l
        | _ => s
      | none => s.beginLoad (s.sourceLoad (.dies ds) src s.image)

/-! ## Live swap (R286 to R289) -/

/-- How a REGINIT entry of a live swap is applied (Table 08-11): 0 into the shadow copy, 1 by R149, 2 equal to the running
value already, 3 after the flip. -/
def swapClass (a : Nat) : Nat :=
  match findRow a with
  | none => 3
  | some r =>
    let b := r.base
    if [Rg.hgMatchVal.base, Rg.hgMatchMask.base, Rg.hgMatchAct.base, Rg.hgDefault.base, Rg.hgMeter.base, Rg.xbPid.base,
        Rg.xbBus.base, Rg.xbAddrW0.base, Rg.xbAddrW1.base, Rg.xbAddrW2.base, Rg.xbAddrW3.base, Rg.taskW0.base,
        Rg.taskW1.base, Rg.taskW3.base, Rg.pmuAllotCfg.base, Rg.bankCtrl.base, Rg.bankBtMaskLo.base,
        Rg.bankBtMaskHi.base, Rg.dqCtrl.base, Rg.dqWeir.base, Rg.dqIdleLo.base, Rg.dqIdleHi.base].contains b then 0
    else if blockOf a == 5 then 1
    else if [Rg.dirShareEnLo.base, Rg.dirShareEnHi.base, Rg.fabPllCtrl.base].contains b then 2
    else 3

/-- R287: an image that a live swap cannot take. -/
def State.swapRefuses (s : State) (rd : Nat → Nat) (ps : List (Word × Word)) : Bool :=
  !s.part.imageFits rd ||
  (finalRegs ps).any (fun (p : Nat × Word) => swapClass p.1 == 2 && s.csrGet p.1 != p.2) ||
  (List.range 8).any (fun d => 256 < (ps.filter (fun (p : Word × Word) => dieOf p.1.toNat == d && swapClass p.1.toNat == 3)).length)

/-- The handler store that an image gives an engine: indices no section writes are 0 (R270). -/
def newStore (hs : List (Nat × Nat × Nat × List Word)) (d e : Nat) : SMap Word :=
  hs.foldl (fun m (x : Nat × Nat × Nat × List Word) =>
    if x.1 == d && bitOf x.2.1 e then x.2.2.2.zipIdx.foldl (fun m (w : Word × Nat) => SMap.set 0 m (storeKey d e (x.2.2.1 + w.2)) w.1) m
    else m) []

def State.oldStore (s : State) (d e : Nat) : SMap Word := s.store.filter (fun (x : Nat × Word) => x.1 / 4096 == d * 64 + e)

/-- The registers of one engine that an image names, with their values (R269). -/
def engEntries (ps : List (Word × Word)) (d e : Nat) : SMap Word :=
  (finalRegs ps).filter (fun (p : Nat × Word) => p.1 == Csr.engCtrl d e || p.1 == Csr.engSpill d e)

/-- An image sets the fields of an engine's register as they are: of ENG_CTRL, those it may set. -/
def State.engSame (s : State) (d e : Nat) (p : Nat × Word) : Bool :=
  if p.1 == Csr.engCtrl d e then
    [EngCtrl.park, EngCtrl.ptrap, EngCtrl.epoch].all (fun f => f.get p.2 == s.fget (Csr.engCtrl d e) f)
  else s.csrGet p.1 == p.2

/-- An engine that a live swap updates. -/
def State.engChanges (s : State) (l : Load) (d e : Nat) : Bool :=
  newStore l.handlers d e != s.oldStore d e || !(engEntries l.reginit d e).all (s.engSame d e)

/-- Every engine. -/
def State.allEngines (s : State) : List (Nat × Nat) :=
  ((List.range s.part.dies).filter s.dieOn).flatMap (fun d => (List.range 64).map (fun e => (d, e)))

/-- The update of a parked engine by steps 3 to 5 of 03 R149: its whole store, then its registers, EPOCH before PARK. PARK ends
as the image sets it, and 0 where the image does not name ENG_CTRL. -/
def State.engUpdate (s : State) (l : Load) (d e : Nat) : State :=
  let mine (k : Nat) : Bool := k / 4096 == d * 64 + e
  let s := { s with store := SMap.drop mine s.store, storeBad := SMap.drop mine s.storeBad }
  let s := (newStore l.handlers d e).foldl (fun s (x : Nat × Word) => s.setStoreWord d e (x.1 % 4096) x.2) s
  let s := match SMap.find (engEntries l.reginit d e) (Csr.engSpill d e) with | some v => doEngSpillWrite d e v s | none => s
  match SMap.find (engEntries l.reginit d e) (Csr.engCtrl d e) with
  | some v =>
    let s := doEngEpochWrite d e (EngCtrl.epoch.get v) s
    doEngPark d e (EngCtrl.park.bit v) (s.fset (Csr.engCtrl d e) EngCtrl.ptrap (EngCtrl.ptrap.get v))
  | none => doEngPark d e false s

/-- The other registers of block 0x5. -/
def State.blockFive (s : State) (ps : List (Word × Word)) : State :=
  ps.foldl (fun s (p : Word × Word) =>
    let a := p.1.toNat
    let b := (findRow a).map (·.base)
    if swapClass a == 1 && b ≠ some Rg.engCtrl.base && b ≠ some Rg.engSpill.base && s.dieOn (dieOf a) then s.dieWrite a p.2 false
    else s) s

/-- What a live swap has loaded: its own load, or the READY host image. -/
def State.swapLoad (s : State) (w : SwapSt) : Option Load := if w.source == 4 then s.hostImage else s.load

/-- Every engine has been updated: the other registers of block 0x5 are written, the shadow copies are loaded, and the
flip-applied writes wait (R286 steps 2 and 4). -/
def State.swapReady (s : State) (w : SwapSt) (l : Load) : State :=
  let s := (s.blockFive l.reginit).setShadows 2
  { s with
    load := if w.source == 4 then s.load else none,
    hostImage := some l,
    shadowCsr := (finalRegs l.reginit).filter (fun (p : Nat × Word) => swapClass p.1 == 0),
    flipList := l.reginit.filter (fun (p : Word × Word) => swapClass p.1.toNat == 3),
    swap := some { w with phase := .verified, todo := [] } }

/-- The engine updates of a live swap go on, one engine at a time (03 R150): the first engine still to be updated is parked; once
its handler has ended and no notify fence of it is pending, it is updated and the next one follows. An engine of a die that has
gone off is left out. -/
def State.swapUpdate (s : State) (w : SwapSt) (l : Load) : List (Nat × Nat) → State
  | [] => s.swapReady w l
  | x :: r =>
    if !s.dieOn x.1 then s.swapUpdate w l r
    else
      let t := doEngPark x.1 x.2 true s
      if t.parked x.1 x.2 then (t.engUpdate l x.1 x.2).swapUpdate w l r
      else { t with swap := some { w with phase := .updating, todo := x :: r } }

/-- A live swap whose engine updates have begun goes on with them, as far as the engines are idle. -/
def State.swapStep (s : State) : State :=
  match s.swap with
  | none => s
  | some w =>
    if w.phase ≠ .updating then s
    else
      match s.swapLoad w with
      | none => s
      | some l => s.swapUpdate w l w.todo

/-- A live swap whose source is not good is abandoned (R286 step 3); a fault without a frame names no die (log entry 21). -/
def State.swapBad (s : State) (st : Nat) (at_ : Option (Nat × Nat)) : State :=
  match at_ with
  | some (d, _) => s.abandonSwap st d
  | none =>
    let (x, s) := s.freeByte
    s.abandonSwap st x

/-- LIVE_SWAP_VERIFIED: the background load ends: the whole image has been read. A fault abandons the swap; else the engine
updates begin (R286 steps 2 to 4). The READY host image was verified when it was loaded (R280). -/
def doLiveSwapVerified (source : Nat) (s : State) : State :=
  match s.swap with
  | none => s
  | some w =>
    if w.phase ≠ .background || w.source ≠ source then s
    else
      let s := if w.source == 4 then s else s.takeRest.imageRead w.source
      match s.swapLoad w with
      | none => s
      | some l =>
        let (st, at_) := if w.source == 4 then (St.ok, none) else s.loadVerdict l
        if st ≠ St.ok then s.swapBad st at_
        else s.swapUpdate w l (s.allEngines.filter (fun (x : Nat × Nat) => s.engChanges l x.1 x.2))

def execLiveSwapVerified (source : Fin 8) (s : State) : Ans := .next (doLiveSwapVerified source.val s)

/-- The drain begins on a die (R288). -/
def State.drainDie (s : State) (d : Nat) : State :=
  let s := { s with gatesPass := SMap.erase s.gatesPass d }
  let s := (s.fset (Csr.schCtrl d) SchCtrl.dispEn 0).fset (Csr.sluSts d) SluSts.held 1
  (List.range 16).foldl (fun s r => s.isolate d r) s

/-- SWAP_DRAIN_START: the drain begins on every die, once every engine update has been made (03 R150). -/
def doSwapDrainStart (s : State) : State :=
  let s := s.swapStep
  match s.swap with
  | none => s
  | some w =>
    if w.phase ≠ .verified then s
    else
      let s := ((List.range 8).filter s.dieOn).foldl (fun s d => s.drainDie d) s
      { s with swap := some { w with phase := .drain } }

def execSwapDrainStart (s : State) : Ans := .next (doSwapDrainStart s)

/-- A die resumes after a drain that is given up: isolation ends without reset, its sluices reopen, and what its release had
enabled goes on (R288). -/
def State.undrainDie (s : State) (d : Nat) : State :=
  let s := ((List.range 16).filter (fun r => !s.gated d r && !s.inReset d r)).foldl (fun s r =>
    (s.fsetBit (Csr.cfgReachSts d) CfgReachSts.iso r false).freeBorder d r) s
  let s := s.fset (Csr.sluSts d) SluSts.held 0
  if s.released d then State.flag { s with gatesPass := SMap.set false s.gatesPass d true } (Csr.schCtrl d) SchCtrl.dispEn else s

/-- SWAP_DRAIN_TIMEOUT: a die has not drained within 800 CFG cycles: everything resumes without reset (R288). -/
def doSwapDrainTimeout (d : Nat) (s : State) : State :=
  match s.swap with
  | none => s
  | some w =>
    if w.phase ≠ .drain then s
    else (((List.range 8).filter s.dieOn).foldl (fun s d => s.undrainDie d) s).abandonSwap St.timeout d

def execSwapDrainTimeout (d : Die) (s : State) : Ans := .next (doSwapDrainTimeout d.val s)

/-- A shadow copy becomes active (01 R59; 04 R177; 07 R262). ESC of a slot carries over, and a new weir is evaluated
without an edge. The words of a slot switch together: `flipShadows` looks at the slots when all have switched.
DESIGN CHOICE (log entry 118): a meter's bucket keeps its present count also where the flip leaves METER_EN = 0, for which 01
R41 and R59 say different things. -/
def State.activate (s : State) (a : Nat) (v : Word) : State :=
  match findRow a with
  | none => s
  | some r =>
    let b := r.base
    if b == Rg.taskW0.base then s.csrSet a (TaskW0.esc.put v (s.fget a TaskW0.esc))
    else if b == Rg.taskW1.base then s.csrSet a v
    else if b == Rg.taskW3.base then s.fset a TaskW3.epoch (TaskW3.epoch.get v)
    else if b == Rg.dqWeir.base then doDqWeirWrite (dieOf a) ((r.ix a).getD 0 0) v s
    else if b == Rg.dqCtrl.base then s.fset a DqCtrl.edgeEn (DqCtrl.edgeEn.get v)
    else s.plainWrite a v

/-- The task slot that a register of the scheduler belongs to. -/
def slotOfReg (a : Nat) : Option (Nat × Nat) :=
  (findRow a).bind (fun r =>
    if [Rg.taskW0.base, Rg.taskW1.base, Rg.taskW3.base].contains r.base then some (dieOf a, (r.ix a).getD 0 0) else none)

/-- Every shadow copy becomes active; then each slot whose words have switched is looked at once (04 R162, R166, R177). -/
def State.flipShadows (s : State) : State :=
  let ps := s.shadowCsr.filter (fun (p : Nat × Word) => s.dieOn (dieOf p.1))
  let s := ps.foldl (fun s (p : Nat × Word) => s.activate p.1 p.2) { s with shadowCsr := [] }
  (dedupAdj (ps.filterMap (fun (p : Nat × Word) => slotOfReg p.1))).foldl (fun s (x : Nat × Nat) =>
    (s.evalServable x.1 x.2).evalReady x.1 x.2) s

/-- The fields whose change takes a gateway down (01 R60). -/
def State.gwKey (s : State) (d g : Nat) : List Nat :=
  let m := Csr.gwMode d g
  [s.fget m GwMode.bif, s.fget m GwMode.maxRate, s.fget m GwMode.xrateEn, s.fget m GwMode.sris, s.fget m GwMode.l1En,
   s.fget (Csr.gwRole d g) GwRole.role]

/-- The flip-applied writes; a gateway whose settings they change goes down with cause 5 (01 R60). DESIGN CHOICE (log entry
119): a sub-port that the new SP_EN alone removes, here or by a run-time write of GW_MODE, does not go down by it. -/
def State.flipWrites (s : State) : State :=
  let t := s.flipList.foldl (fun t (p : Word × Word) =>
    if t.dieOn (dieOf p.1.toNat) then t.dieWrite p.1.toNat p.2 false else t) { s with flipList := [] }
  let gws := ((List.range 8).filter s.dieOn).flatMap (fun d => (List.range 2).map (fun g => (d, g)))
  (gws.filter (fun (x : Nat × Nat) => s.gwKey x.1 x.2 != t.gwKey x.1 x.2)).foldl (fun t (x : Nat × Nat) =>
    t.takeDownAll 5 false (gwPorts x.1 x.2)) t

/-- SWAP_FLIP: every die has drained: every plane flips, running handlers are aborted at their level (03 R144), the shadow
copies become active, the flip-applied registers are written, and the release begins; `pause` is the whole pause in CFG
cycles (R286 steps 6 and 7, R289). -/
def doSwapFlip (pause : Nat) (s : State) : State :=
  match s.swap with
  | none => s
  | some w =>
    if w.phase ≠ .drain then s
    else
      let l := s.hostImage
      let hdr := match l with | some l => l.hdr | none => s.image
      let ds := (List.range 8).filter s.dieOn
      let s := ds.foldl (fun s d => (List.range 16).foldl (fun s r => s.flip d r) (s.setShadow d 3)) s
      let s := s.flipShadows
      let s := (s.allEngines.filter (fun (x : Nat × Nat) => (s.eng x.1 x.2).running)).foldl
        (fun s (x : Nat × Nat) => s.engAbort x.1 x.2 (s.eng x.1 x.2).esc) s
      let s := State.flipWrites { s with image := hdr, hostImage := none }
      let s := (ds.foldl (fun s d => s.showImage d hdr) s).setSource w.source
      let s := (s.relReaches { scope := .all, step := 0, why := .swap, skip := [] }).foldl (fun s (x : Nat × Nat) => s.holdReach x.1 x.2) s
      State.releaseStart { s with swap := some { w with phase := .release, pause := pause } } .all .swap

def execSwapFlip (pause : Nat) (s : State) : Ans := .next (doSwapFlip pause s)

/-! ## Shadow of a reach (R290, R293) -/

/-- A waking reach whose reload failed is released as it is (12 R395). -/
def State.reachStays (s : State) (d r : Nat) : State :=
  let wakes := s.pwr.wake.any (fun (w : WakeSt) => w.reaches.contains (d, r))
  if wakes && s.inReset d r && !s.gated d r then s.releaseStart (.reach (fin8 d) (fin16 r)) .wake else s

/-- The records of a reload that are still to come, as the running slot holds them. -/
def State.takeReload (s : State) (d r : Nat) : Nat → State
  | 0 => s
  | n + 1 =>
    match (s.jobOf d r).filter (fun (j : ReachJob) => s.jobLoads j && j.bad.isNone) with
    | none => s
    | some j =>
      match s.reloadNext j with
      | none => s
      | some x =>
        let rec_ := wordIn s.runningRd x.at_
        (s.jobRec j x rec_ (bodyIn s.runningRd x.at_ rec_)).takeReload d r n

/-- The image path reads the records of a reach in the running slot (10 R338, R339). -/
def State.reloadRead (s : State) (d r : Nat) : State :=
  match framesOf s.runningRd d with
  | some x =>
    s.linesRead (slotSector (s.source - 1) * 4096 + reachAt s.runningRd x r) (reachEnd s.runningRd x r - reachAt s.runningRd x r)
      Rq.image
  | none => s

/-- The shadow of a reach is complete: a patch, all of whose bank words have been read, is decoded and checked; a reload takes
its remaining records, which may have no frames (R272); then the reach swap begins. -/
def State.shadowBuilt (s : State) (d r : Nat) (j : ReachJob) : State :=
  match j.kind with
  | .wake => s
  | .reload by_ =>
    match j.bad with
    | some (st, _) => (((s.dropJob d r).setShadow d 3).reloadEnd d r st by_).reachStays d r
    | none => if j.next == 1280 then (s.reloadRead d r).beginReachSwap d r else s
  | .patch =>
    if j.got.length < ceilDiv j.next 2 then s
    else
      let q := s.buildPatch d r 0 j.next (patchWords j.got j.next)
      match q.bad with
      | some (st, f) => q.st.patchFail d r st f
      | none => q.st.beginReachSwap d r

/-- SHADOW_BUILD_DONE. -/
def doShadowBuildDone (d r : Nat) (s : State) : State :=
  let s := s.takeReload d r 1280
  match s.jobOf d r with
  | none => s
  | some j => if j.swapping || (j.kind.isReload && s.swapRuns) then s else s.shadowBuilt d r j

def execShadowBuildDone (d : Die) (r : Reach) (s : State) : Ans := .next (doShadowBuildDone d.val r.val s)

end Sys2Proof.Machine
end

