-- ==== Sys2Proof/Machine/SelfTest.lean ====
section
/-! DEFINITION. Built-in self-test and boundary scan (13 R406 to R417). -/

namespace Sys2Proof.Machine

/-! ## BIST (R406 to R412) -/

/-- A DIE reset, a wake or a start load rebuilds a die. -/
def State.dieBusy (s : State) : Bool :=
  !s.pwr.resetBy.isEmpty ||
  s.load.any (fun (l : Load) => match l.kind with | .dies _ => true | .start => true | _ => false) ||
  s.releases.any (fun (r : Release) => match r.scope with | .reach _ _ => false | _ => true)

/-- A live swap, reach patch, reach swap, reload, DIE reset, LOAD session or POWER_STATE is in progress (R407). -/
def State.bistBusy (s : State) : Bool :=
  s.swapRuns || !s.jobs.isEmpty || s.dieBusy || s.sess.isSome || s.pwr.wake.isSome

/-- The fields of a BIST_RUN request are well formed (R406, R407). -/
def bistArgsOk (kind dies mems islands : Nat) (resZero : Bool) : Bool :=
  kind ≤ 2 && mems < 32 && islands < 2 ^ 14 && resZero && dies ≠ 0 && (kind == 1 || islands ≠ 0) && (kind == 0 || mems ≠ 0)

/-- BIST_EXP of a die. -/
def State.putExp (s : State) (d : Nat) (l m : BitVec 64) : State :=
  (((s.csrSet (Csr.bistExp d 0) (l.setWidth 32)).csrSet (Csr.bistExp d 1) ((l >>> 32).setWidth 32)).csrSet
    (Csr.bistExp d 2) (m.setWidth 32)).csrSet (Csr.bistExp d 3) ((m >>> 32).setWidth 32)

/-- The expected signatures of the die at place `i` of the run. -/
def BistSt.expOf (b : BistSt) (i : Nat) : BitVec 64 × BitVec 64 :=
  if b.known then (b.expected.getD (2 * i) 0, b.expected.getD (2 * i + 1) 0) else (0, 0)

/-- The place of a die in the run. -/
def BistSt.place (b : BistSt) (d : Nat) : Nat := b.dieList.idxOf d

/-- The tests a kind runs: bit 0 LBIST, bit 1 MBIST. -/
def bistTests (kind : Nat) : Nat := if kind == 0 then 1 else if kind == 1 then 2 else 3

/-- Steps 1 and 2 of R408. -/
def State.bistStart (s : State) (b : BistSt) : State :=
  b.dieList.foldl (fun s d =>
    let (l, m) := b.expOf (b.place d)
    (State.putExp (s.resetD d) d l m).fset (Csr.bistSts d) BistSts.busy 1) { s with bist := some b }

/-- BIST_RUN. -/
def doBistRun (h : CmdHdr) (kind dies mems islands : Nat) (resZero known : Bool) (expected : List (BitVec 64)) (s : State) :
    State :=
  s.command h opBistRun 8 (fun _ => Gate.needs Right.bist) (fun s => s.bist.isSome) (fun s =>
    let ds := bitsOf 8 dies
    if !bistArgsOk kind dies mems islands resZero then s.respond h opBistRun St.badArgument []
    else if s.noLogic || ds.any (fun d => !s.dieOn d) then s.respond h opBistRun St.notPresent []
    else if s.bistBusy then s.respond h opBistRun St.busy []
    else
      let b : BistSt :=
        { cmd := h, kind := kind, mems := mems, islands := islands, known := known, expected := expected,
          left := ds.map (fun d => (d, bistTests kind)), misrL := [], misrM := [], fails := ds.map (fun d => (d, 0)),
          settle := ds }
      (s.await h opBistRun .bist).bistStart b)

def execBistRun (h : CmdHdr) (kind dies mems : BitVec 8) (islands : BitVec 16) (resZero known : Bool)
    (expected : List (BitVec 64)) (s : State) : Ans :=
  .next (doBistRun h kind.toNat dies.toNat mems.toNat islands.toNat resZero known expected s)

/-- A die's tests have ended: MBIST left its March patterns' last value, 0, in what it tested, and the die is reset and
reloaded (R408 step 5, R409). -/
def State.bistReload (s : State) (b : BistSt) (d : Nat) : State :=
  let (l, m) := b.expOf (b.place d)
  let s := if b.kind ≠ 0 && bitOf b.mems 3 then
      { s with frames := SMap.drop (fun k => k / 256 / 20480 % 8 == d) s.frames,
               frameBad := SMap.drop (fun k => k / 20480 % 8 == d) s.frameBad }
    else s
  let s := ((s.dieReset d [.d]).putExp d l m).fset (Csr.bistSts d) BistSts.busy 1
  s.reloadDies [d]

/-- A test of a die ends: its signature is compared in hard logic; a difference is a failure (R408 step 4, R417). -/
def State.bistTest (s : State) (d test : Nat) (misr : BitVec 64) : State :=
  match s.bist with
  | none => s
  | some b =>
    let left := SMap.get 0 b.left d
    if !bitOf left test || (test == 1 && bitOf left 0) || !s.dieOn d then s
    else
      let (l, m) := b.expOf (b.place d)
      let fail := b.known && (if test == 0 then l else m) != misr
      let b := { b with
        left := SMap.set 0 b.left d (clrBitN left test),
        misrL := if test == 0 then SMap.put b.misrL d misr else b.misrL,
        misrM := if test == 1 then SMap.put b.misrM d misr else b.misrM,
        fails := if fail then SMap.put b.fails d (setBitN (SMap.get 0 b.fails d) test) else b.fails }
      let s := { s with bist := some b }
      let s := if fail then s.notice stw 0x0A02 [(1, d), (1, b.kind), (1, test)] else s
      if clrBitN left test == 0 then s.bistReload b d else s

def doLbistComplete (d : Nat) (misr : BitVec 64) (s : State) : State := s.bistTest d 0 misr
def doMbistComplete (d : Nat) (misr : BitVec 64) (s : State) : State := s.bistTest d 1 misr

def execLbistComplete (d : Die) (misr : BitVec 64) (s : State) : Ans := .next (doLbistComplete d.val misr s)
def execMbistComplete (d : Die) (misr : BitVec 64) (s : State) : Ans := .next (doMbistComplete d.val misr s)

/-- A die of the run went off: it is not reloaded (R411). -/
def State.bistOff (s : State) (d : Nat) : State :=
  match s.bist with
  | none => s
  | some b => State.settle { s with bist := some { b with left := SMap.erase b.left d } } d St.notPresent

/-! ## Boundary scan (R413 to R416) -/

/-- The instruction register after a code of Table 13-3: a gated one acts as BYPASS while JTAG_OPEN is 0 (R415). -/
def State.tapLoad (s : State) (gated : Bool) (t : Tap) : State :=
  { s with tap := if gated && !s.jtagOpen then .bypass else t }

/-- Every die is placed in reset kind D and held, whatever ran on it (R416). -/
def State.tapHold (s : State) (code : Nat) : State :=
  let on := (List.range s.part.dies).filter s.dieOn
  let s := on.foldl (fun s d => s.resetD d) s
  let s := s.abandonSwap St.aborted 0
  let keep := s.load.any (fun (l : Load) => l.kind == LoadKind.start)
  let s := { s with releases := [], tapHeld := true, load := if keep then s.load else none }
  let s := if s.waitsFor .load then
      State.finishWork { s with tow := { s.tow with started := true } } .load St.aborted []
    else s
  s.notice stw 0x0A03 [(1, code)]

/-- A test instruction. -/
def State.tapTest (s : State) (code : Nat) (t : Tap) : State :=
  if s.jtagOpen then (s.tapLoad true t).tapHold code else s.tapLoad true t

/-- Test-Logic-Reset: IDCODE is selected; dies that a test instruction holds are reloaded and released (R416). -/
def State.tapReset (s : State) : State :=
  if !s.tapHeld then { s with tap := .idcode }
  else State.reloadDies { s with tap := .idcode, tapHeld := false } ((List.range s.part.dies).filter s.dieOn)

/-- IDCODE's 32 bits (R414). -/
def Part.idcode (p : Part) : BitVec 32 :=
  let part := match p.member with | .pv8_128 => 0x8128 | .pv8_064 => 0x8064 | .pv8_032 => 0x8032
  BitVec.ofNat 32 ((Config.stepping 15).toNat % 16 * 2 ^ 28 + part * 2 ^ 12 + 0x5A3 * 2 + 1)

def doTapBypass (s : State) : State := s.tapLoad false .bypass
def doTapIdcode (s : State) : State := s.tapLoad false .idcode
def doTapSamplePreload (s : State) : State := s.tapLoad true .sample
def doTapExtest (s : State) : State := s.tapTest 0x03 .extest
def doTapExtestPulse (s : State) : State := s.tapTest 0x04 .extestPulse
def doTapExtestTrain (s : State) : State := s.tapTest 0x05 .extestTrain
def doTapClamp (s : State) : State := s.tapTest 0x06 .clamp
def doTapHighz (s : State) : State := s.tapTest 0x07 .highz
def doTapTestLogicReset (s : State) : State := s.tapReset

def execTapBypass (s : State) : Ans := .next (doTapBypass s)
def execTapIdcode (s : State) : Ans := .next (doTapIdcode s)
def execTapSamplePreload (s : State) : Ans := .next (doTapSamplePreload s)
def execTapExtest (s : State) : Ans := .next (doTapExtest s)
def execTapExtestPulse (s : State) : Ans := .next (doTapExtestPulse s)
def execTapExtestTrain (s : State) : Ans := .next (doTapExtestTrain s)
def execTapClamp (s : State) : Ans := .next (doTapClamp s)
def execTapHighz (s : State) : Ans := .next (doTapHighz s)
def execTapTestLogicReset (s : State) : Ans := .next (doTapTestLogicReset s)

end Sys2Proof.Machine
end

