-- ==== Sys2Proof/Machine/Flash.lean ====
section
/-! DEFINITION. The flash controller (10): its commands, their completion, suspension, reads, re-erases, and the jobs that
messages run on the flash and the OTP (10 R342 to R360; 11 R362, R368, R372). -/

namespace Sys2Proof.Machine

/-! ## Errors (R343) -/

def Fe.seq : Nat := 1
def Fe.busy : Nat := 2
def Fe.protected_ : Nat := 3
def Fe.notErased : Nat := 4
def Fe.worn : Nat := 5
def Fe.flagged : Nat := 6
def Fe.arg : Nat := 7

/-- ERR takes a code and ERRV is set. -/
def State.flErr (s : State) (e : Nat) : State := (s.fset Csr.flSts FlSts.err e).flag Csr.flSts FlSts.errv

/-- The controller is locked again. -/
def State.relock (s : State) : State :=
  State.fset { s with fl := { s.fl with key := 0, selected := none } } Csr.flSts FlSts.unlocked 0

/-- Slot `i` is locked: a logic die runs from it, or a swap reads it (Table 10-3). -/
def State.slotLocked (s : State) (i : Nat) : Bool :=
  s.source == i + 1 || s.swap.any (fun (w : SwapSt) => w.source == i + 1)

/-- FL_PROT as a read shows it. -/
def State.flProtView (s : State) : Word :=
  FlProt.slotLock.put (s.csrGet Csr.flProt) (b2n (s.slotLocked 0) + 2 * b2n (s.slotLocked 1))

/-- The target of a program or an erase is protected. -/
def State.protectedSector (s : State) (sec : Nat) : Bool :=
  sec == 24454 || (24456 ≤ sec && sec ≤ 24463) || fwCopyOf sec == some (s.fget Csr.flProt FlProt.fwRun) ||
  (match slotOf sec with | some i => s.slotLocked i | none => false)

/-- The sector of an operation. -/
def FlOp.sector : FlOp → Nat
  | .prog a _ _ => a / 4096
  | .erase x => x
  | _ => 0

/-- The state lets the operation start (Table 10-5). -/
def State.flReady (s : State) (op : FlOp) : Bool :=
  match op with
  | .prog a _ _ => s.flState == Fs.idle || (s.flState == Fs.eraseSusp && s.fl.susp ≠ some (a / 4096))
  | _ => s.flState == Fs.idle

/-- The operands of an operation are out of range. -/
def State.flArg (s : State) (op : FlOp) : Bool :=
  match op with
  | .prog a _ raw => a % 8 ≠ 0 || 24464 ≤ a / 4096 || (raw && !rawSector (a / 4096))
  | .erase x => 24464 ≤ x
  | .rdp c => s.protLevel ≤ levelOf c
  | .wipe => false

/-- Why an operation cannot start: the first of these that holds. -/
def State.flCheck (s : State) (op : FlOp) : Option Nat :=
  let sec := op.sector
  let onSector := match op with | .prog _ _ _ => true | .erase _ => true | _ => false
  let prog := match op with | .prog _ _ _ => true | _ => false
  if !s.flReady op then some Fe.busy
  else if s.flArg op then some Fe.arg
  else if onSector && s.protectedSector sec then some Fe.protected_
  else if onSector && s.worn sec then some Fe.worn
  else if prog && s.flagCells.contains sec then some Fe.flagged
  else
    match op with
    | .prog a _ false => if s.flWord (a / 8) == ones64 then none else some Fe.notErased
    | _ => none

/-- A program or erase within a firmware region invalidates the fetch buffers (R341). -/
def State.fetchInval (s : State) (sec : Nat) : State :=
  if (fwCopyOf sec).isNone then s
  else State.count { s with fl := { s.fl with prefetch := [], branch := [], lastFetch := none } } Csr.flCacheCnt FlCacheCnt.inval 1

/-- An accepted operation starts. -/
def State.flStart (s : State) (op : FlOp) : State :=
  let susp := s.flState == Fs.eraseSusp
  let s := { s with fl := { s.fl with op := some op } }
  match op with
  | .prog a _ _ => (s.fetchInval (a / 4096)).setFlState (if susp then Fs.progInSusp else Fs.prog)
  | .erase x => State.setFlState (State.fetchInval { s with flagCells := insertNat x s.flagCells } x) Fs.erase
  | .rdp c => ((s.appendProt c 0xA5).holdAll).setFlState Fs.rdpLower
  | .wipe => s.holdAll.setFlState Fs.rdpLower

/-- An operation starts, or changes nothing and leaves its error. -/
def State.flTry (s : State) (op : FlOp) : Option Nat × State :=
  match s.flCheck op with
  | some e => (some e, s.flErr e)
  | none => (none, s.flStart op)

/-! ## Commands by register (R342) -/

/-- FL_KEY_WRITE. -/
def doFlKeyWrite (v : Word) (s : State) : State :=
  if s.fl.key == 0 && v == 0x5E1C0A17 then
    { s with fl := { s.fl with key := 1, selected := none } }
  else if s.fl.key == 1 && v == 0xA1E3F5E8 then
    State.flag { s with fl := { s.fl with key := 2 } } Csr.flSts FlSts.unlocked
  else s.relock.flErr Fe.seq

def execFlKeyWrite (v : Word) (s : State) : Ans := .next (doFlKeyWrite v s)

/-- FL_CMD_WRITE: the unlock serves one command. -/
def doFlCmdWrite (v : Word) (s : State) : State :=
  if s.fl.key ≠ 2 then s.relock.flErr Fe.seq
  else
    let c := FlCmd.cmd.get v
    let s := s.relock
    if c == 0 || 4 < c then s.flErr Fe.arg
    else State.fset { s with fl := { s.fl with selected := some c } } Csr.flCmd FlCmd.cmd c

def execFlCmdWrite (v : Word) (s : State) : Ans := .next (doFlCmdWrite v s)

/-- The selected command is used up. -/
def State.flTaken (s : State) : State := { s with fl := { s.fl with selected := none } }

/-- The word that FL_DATA_LO and FL_DATA_HI hold. -/
def State.flData (s : State) : BitVec 64 := (s.csrGet Csr.flDataHi).append (s.csrGet Csr.flDataLo)

/-- The start of PROGRAM or BITPROG by a write of FL_DATA_HI. -/
def State.flHi (s : State) (hi : Word) (raw : Bool) : State :=
  let s := (s.csrSet Csr.flDataHi hi).flTaken
  (s.flTry (.prog (s.fget Csr.flAddr FlAddr.addr) s.flData raw)).2

/-- PROGRAM: the FL_DATA_HI write of a selected PROGRAM. -/
def doFlProgram (hi : Word) (s : State) : State := if s.fl.selected == some 1 then s.flHi hi false else s

/-- BITPROG: the FL_DATA_HI write of a selected BITPROG. -/
def doFlBitprog (hi : Word) (s : State) : State := if s.fl.selected == some 2 then s.flHi hi true else s

/-- ERASE: the FL_ADDR write of a selected ERASE. -/
def doFlErase (a : Word) (s : State) : State :=
  if s.fl.selected == some 3 then
    let s := (s.fset Csr.flAddr FlAddr.addr (FlAddr.addr.get a)).flTaken
    (s.flTry (.erase (s.fget Csr.flAddr FlAddr.addr / 4096))).2
  else s

/-- RDP_LOWER: the FL_DATA_LO write of a selected RDP_LOWER. -/
def doFlRdpLower (lo : Word) (s : State) : State :=
  if s.fl.selected == some 4 then
    let s := (s.csrSet Csr.flDataLo lo).flTaken
    (s.flTry (.rdp (lo.toNat % 256))).2
  else s

def execFlProgram (hi : Word) (s : State) : Ans := .next (doFlProgram hi s)
def execFlBitprog (hi : Word) (s : State) : Ans := .next (doFlBitprog hi s)
def execFlErase (a : Word) (s : State) : Ans := .next (doFlErase a s)
def execFlRdpLower (lo : Word) (s : State) : Ans := .next (doFlRdpLower lo s)

/-! ## OTP words (11 R362) -/

/-- Programming of an OTP word begins. -/
def State.otpStart (s : State) (w : Nat) (v : BitVec 64) : State :=
  (State.fset { s with otpBusy := some (w, v) } Csr.otpSts OtpSts.word w).flag Csr.otpSts OtpSts.busy

/-- The fields that follow the OTP, and Test-Logic-Reset when JTAG_OPEN falls (13 R415). -/
def State.lcUpdate (s : State) : State :=
  let was := s.fbit Csr.lcSts LcSts.jtagOpen
  let s := s.lcRefresh
  if was && !s.jtagOpen then s.tapReset else s

/-! ## Jobs of messages -/

/-- The message status of a command error (Table 10-3). -/
def flStatus (e sec : Nat) : Nat :=
  if e == Fe.protected_ then (if (slotOf sec).isSome || (fwCopyOf sec).isSome then St.busy else St.refused)
  else if e == Fe.notErased || e == Fe.arg then St.badArgument
  else if e == Fe.worn then St.worn
  else St.busy

/-- A command is a LOAD message. -/
def isLoadOp (op : Nat) : Bool := op == opLoadBegin || op == opLoadData || op == opLoadEnd

/-- A job ends: its command is answered; a LOAD message that fails ends its session (09 R313). -/
def State.jobEnd (s : State) (h : CmdHdr) (st : Nat) : State :=
  let s := if st ≠ St.ok && s.cmds.any (fun (c : Cmd) => c.hdr == h && isLoadOp c.op) then { s with sess := none } else s
  State.finish { s with job := none } h st []

/-- Ixken's unlock sequence and operands, as the registers hold them after it (R342). -/
def State.jobRegs (s : State) (op : FlOp) : State :=
  let s := s.relock
  match op with
  | .prog a v _ =>
    (((s.fset Csr.flCmd FlCmd.cmd 1).fset Csr.flAddr FlAddr.addr a).csrSet Csr.flDataLo (v.setWidth 32)).csrSet Csr.flDataHi
      ((v >>> 32).setWidth 32)
  | .erase x => (s.fset Csr.flCmd FlCmd.cmd 3).fset Csr.flAddr FlAddr.addr (x * 4096)
  | .rdp c => (s.fset Csr.flCmd FlCmd.cmd 4).csrSet Csr.flDataLo (BitVec.ofNat 32 c)
  | .wipe => s

/-- A job starts its next operation, or ends with the error's status. -/
def State.jobOp (s : State) (j : Job) (op : FlOp) : State :=
  let (e, s) := (s.jobRegs op).flTry op
  match e with
  | some e => s.jobEnd j.cmd (flStatus e op.sector)
  | none => { s with job := some j }

/-- Rights that a certificate of a key granted are withdrawn (11 R374). -/
def State.dropKeyRights (s : State) (key : Nat) : State :=
  { s with hosts := s.hosts.map (fun (r : HostRec) => { r with rights := r.rights.filter (fun (x : Nat × Nat) => x.2 ≠ key) }) }

/-- What is done between the operations of a job. -/
def State.jobEffect (s : State) : JobStep → State
  | .rdpDone old new => s.protRefresh.notice stw 0x0607 [(1, old), (1, new), (1, 0)]
  | .lcDone old new => s.lcUpdate.notice stw 0x0701 [(1, old), (1, new), (1, 0)]
  | .keyDone key signer => ((s.dropKeyRights key).lcUpdate).notice stw 0x0704 [(1, key), (1, signer)]
  | .fwDone =>
    let run := s.fget Csr.flProt FlProt.fwRun
    let other := 1 - run % 2
    State.setBoot { s with fwValid := setBitN s.fwValid other } run true
  | .sessDone => { s with sess := none }
  | _ => s

/-- A step that only notes what the operation before it has done: its notice and the records that follow it. -/
def JobStep.isNote : JobStep → Bool
  | .rdpDone _ _ | .lcDone _ _ | .keyDone _ _ => true
  | _ => false

/-- The running operation of the job has been completed by a reset: what is noted of it still is (10 R349; 11 R372, R378). -/
def State.jobNotes (s : State) : State :=
  match s.job with
  | none => s
  | some j => (j.steps.tail.takeWhile JobStep.isNote).foldl State.jobEffect s

/-- A job goes on with the steps it has left, until an operation runs or none is left: OK. -/
def State.jobGo (s : State) (h : CmdHdr) (stop : Bool) : List JobStep → State
  | [] => s.jobEnd h St.ok
  | x :: r =>
    let j : Job := { cmd := h, steps := x :: r, stop := stop }
    match x with
    | .erase sec => s.jobOp j (.erase sec)
    | .prog a v => s.jobOp j (.prog a v false)
    | .wipe => s.jobOp j .wipe
    | .lower c => s.jobOp j (.rdp c)
    | .otp w v => if s.otpBusy.isSome then { s with job := some j } else State.otpStart { s with job := some j } w v
    | .result st => s.jobEnd h st
    | _ => (s.jobEffect x).jobGo h stop r

/-- The running operation of a job has ended: WORN or INTEGRITY_FAIL end the job, an ABORT stops it before its next
operation. -/
def State.jobNext (s : State) (st : Nat) : State :=
  match s.job with
  | none => s
  | some j =>
    if st ≠ St.ok then s.jobEnd j.cmd st
    else if j.stop && 1 < j.steps.length then s.jobEnd j.cmd St.aborted
    else s.jobGo j.cmd j.stop j.steps.tail

/-- A message's job begins. -/
def State.startJob (s : State) (h : CmdHdr) (steps : List JobStep) : State := s.jobGo h false steps

/-- The running operation is the job's. -/
def State.jobRuns (s : State) (op : FlOp) : Bool :=
  s.job.any (fun (j : Job) => match j.steps.head?, op with
    | some (.erase x), .erase y => x == y
    | some (.prog a v), .prog b w false => a == b && v == w
    | some .wipe, .wipe => true
    | some (.lower c), .rdp d => c == d
    | _, _ => false)

/-! ## Completion (R344, R345, R351, R354) -/

/-- Registers that follow the content of the option area's sectors. -/
def State.areaRefresh (s : State) (sec : Nat) : State :=
  if sec == 24450 || sec == 24451 then s.protRefresh
  else if sec == 24454 || sec == 24455 then s.badStsRefresh else s

/-- The state after the running operation. -/
def State.flEnd (s : State) : State :=
  State.setFlState { s with fl := { s.fl with op := none, reRun := false } } (if s.fl.susp.isSome then Fs.eraseSusp else Fs.idle)

def State.flDone (s : State) : State := s.flag Csr.flSts FlSts.done

/-- The word that a program leaves when its verify passes. -/
def State.programmed (s : State) (a : Nat) (v : BitVec 64) (raw : Bool) : State :=
  (s.setFlWord (a / 8) (if raw then s.flWord (a / 8) &&& v else v) 0).areaRefresh (a / 4096)

/-- FLASH_PROGRAM_DONE: a program completes, or its verify still fails and the sector is retired; what the word then holds
is a free value. -/
def doFlashProgramDone (ok : Bool) (s : State) : State :=
  match s.fl.op with
  | some (.prog a v raw) =>
    let mine := s.jobRuns (.prog a v raw)
    if ok then
      let s := (s.programmed a v raw).flEnd.flDone
      if mine then s.jobNext St.ok else s
    else
      let (x, s) := s.free64
      let (b, s) := s.freeByte
      let s := ((s.setFlWord (a / 8) x (b % 3)).areaRefresh (a / 4096)).flEnd
      let s := (s.retire (a / 4096) 2).flErr Fe.worn
      if mine then s.jobNext St.worn else s
  | _ => s

def execFlashProgramDone (ok : Bool) (s : State) : Ans := .next (doFlashProgramDone ok s)

/-- FL_FLAG_STS.PENDING follows the sectors left. -/
def State.pendingRefresh (s : State) : State := s.fset Csr.flFlagSts FlFlagSts.pending (b2n (!s.fl.reerase.isEmpty))

/-- A re-erase of R348 ends: its sector leaves the list, and its notice reports the status. -/
def State.reeraseEnd (s : State) (re : Bool) (sec st : Nat) : State :=
  if re then
    (State.pendingRefresh { s with fl := { s.fl with reerase := s.fl.reerase.erase sec } }).notice stw 0x0604 [(2, sec), (1, st)]
  else s

/-- A sector is erased and its flag cell cleared. -/
def State.erased (s : State) (sec : Nat) : State :=
  State.areaRefresh { s.eraseSectors sec (sec + 1) with flagCells := s.flagCells.erase sec } sec

/-- FLASH_ERASE_DONE: the running erase completes; an erase whose verify fails leaves its content free and its flag cell
set, and retires the sector. The erase of a life-cycle transition ends here too. -/
def doFlashEraseDone (ok : Bool) (s : State) : State :=
  match s.fl.op with
  | some (.erase x) =>
    if s.fbit Csr.flSts FlSts.autosusp then s
    else
      let mine := s.jobRuns (.erase x)
      let re := s.fl.reRun
      if ok then
        let s := ((s.erased x).flEnd.flDone).reeraseEnd re x St.ok
        if mine then s.jobNext St.ok else s
      else
        let s := ((s.spoilSector x).areaRefresh x).flEnd
        let s := ((s.reeraseEnd re x St.worn).retire x 1).flErr Fe.worn
        if mine then s.jobNext St.worn else s
  | some .wipe => (s.wipeFlash.flEnd.flDone).jobNext St.ok
  | _ => s

def execFlashEraseDone (ok : Bool) (s : State) : Ans := .next (doFlashEraseDone ok s)

/-- Steps 3 to 5 of R354. -/
def State.rdpEnd (s : State) (c resumed : Nat) : State :=
  let old := s.protLevel
  (s.wipeFlash.appendProt c 0x5A).notice stw 0x0607 [(1, old), (1, levelOf c), (1, resumed)]

/-- RDP_LOWER_COMPLETE. -/
def doRdpLowerComplete (s : State) : State :=
  match s.fl.op with
  | some (.rdp c) =>
    let mine := s.jobRuns (.rdp c)
    let s := (s.rdpEnd c 0).flEnd.flDone
    if mine then s.jobNext St.ok else s
  | _ => s

def execRdpLowerComplete (s : State) : Ans := .next (doRdpLowerComplete s)

/-- A word of the certificate counter (11 Table 11-1), which only certificates program. -/
def certWord (w : Nat) : Bool := 0x70 ≤ w && w ≤ 0x7F

/-- The first certificate with counter words still to be programmed has one less; a failure ends it with INTEGRITY_FAIL and no
further word (11 R362, R376). -/
def certNext (ok : Bool) : List CertSt → List CertSt
  | [] => []
  | c :: r =>
    match c.words with
    | [] => c :: certNext ok r
    | _ :: ws => (if ok then { c with words := ws } else { c with words := [], status := St.integrityFail }) :: r

/-- The OTP controller is idle: the word that the running job waits to program is started, else the next of a certificate. -/
def State.otpGo (s : State) : State :=
  if s.otpBusy.isSome then s
  else
    match s.job.bind (fun (j : Job) => j.steps.head?), s.certs.find? (fun c => !c.words.isEmpty) with
    | some (.otp w v), _ => s.otpStart w v
    | _, some c => match c.words with | (w, v) :: _ => s.otpStart w v | [] => s
    | _, none => s

/-- A word has been programmed, for a certificate or for the job. -/
def State.otpNext (s : State) (w st : Nat) : State :=
  State.otpGo (if certWord w then { s with certs := certNext (st == St.ok) s.certs } else s.jobNext st)

/-- OTP_WORD_PROGRAMMED: a word reads its value, or keeps some of the bits it was to take, FAIL and its notice (11 R362). -/
def doOtpWordProgrammed (ok : Bool) (s : State) : State :=
  match s.otpBusy with
  | none => s
  | some (w, v) =>
    let s := State.fset { s with otpBusy := none } Csr.otpSts OtpSts.busy 0
    if ok then (s.otpOr w v).lcUpdate.otpNext w St.ok
    else
      let (x, s) := s.free64
      let s := ((s.otpOr w (v &&& x)).flag Csr.otpSts OtpSts.fail).lcUpdate
      (s.notice stw 0x0705 [(2, w)]).otpNext w St.integrityFail

def execOtpWordProgrammed (ok : Bool) (s : State) : Ans := .next (doOtpWordProgrammed ok s)

/-! ## Suspension (R346, R347) -/

/-- FL_SUSPEND. -/
def doFlSuspend (s : State) : State :=
  let st := s.flState
  if st == Fs.prog || st == Fs.progInSusp then s.flErr Fe.busy
  else
    match s.fl.op with
    | some (.erase x) =>
      State.fset (State.setFlState { s with fl := { s.fl with op := none, susp := some x } } Fs.eraseSusp) Csr.flSts
        FlSts.autosusp 0
    | _ => s

def execFlSuspend (s : State) : Ans := .next (doFlSuspend s)

/-- FL_RESUME. -/
def doFlResume (s : State) : State :=
  match s.fl.susp with
  | some x =>
    if s.flState == Fs.eraseSusp then
      State.setFlState { s with fl := { s.fl with op := some (.erase x), susp := none } } Fs.erase
    else s
  | none => s

def execFlResume (s : State) : Ans := .next (doFlResume s)

/-- AUTO_RESUME: no read has been pending for 2.0 µs. -/
def doAutoResume (s : State) : State :=
  if s.fbit Csr.flSts FlSts.autosusp && s.fl.reads.isEmpty then s.fset Csr.flSts FlSts.autosusp 0 else s

def execAutoResume (s : State) : Ans := .next (doAutoResume s)

/-- FLAG_REERASE: after release, the controller erases the next unfinished sector (R348). -/
def doFlagReerase (s : State) : State :=
  match s.fl.reerase with
  | [] => s
  | x :: _ =>
    let released := (List.range 8).any (fun d => s.dieOn d && s.released d)
    if !released || s.job.isSome || s.flState ≠ Fs.idle then s
    else
      match s.flCheck (.erase x) with
      | none => State.flStart { s with fl := { s.fl with reRun := true } } (.erase x)
      | some e => (s.flErr e).reeraseEnd true x (flStatus e x)

def execFlagReerase (s : State) : Ans := .next (doFlagReerase s)

/-! ## Reads (R338 to R341) -/

/-- The 256 bits of a line. -/
def State.lineData (s : State) (line : Nat) : BitVec 256 := BitVec.ofNat 256 (Memory.readLE 0xFF s.flash (32 * line) 32)

/-- First line of the user window. -/
def windowLine : Nat := 0x05800000 / 32

/-- A window line reaches the engine that waits for it (03 R134). -/
def State.toEngine (s : State) (d e : Nat) (data : BitVec 256) (poison : Bool) : State :=
  match (s.eng d e).wait with
  | .flash rd pair o =>
    let v : BitVec 64 := (data >>> (8 * (o % 32))).setWidth 64
    (s.setRegs d e rd pair (if pair then v else (v.setWidth 32).setWidth 64)).engDoneS d e 0 (ost 0 poison false 0)
  | _ => s

/-- A window line reaches the fabric port of a die, word by word, or is discarded at a closed border (06 R232; 08 R290). -/
def State.toUfw (s : State) (d : Nat) (data : BitVec 256) (poison : Bool) : State :=
  let t := s.toFabric d ufwPort (lineBeats data.toNat poison)
  if !s.borderOpen d 0 then t
  else
    let t := t.count (Csr.ufwCnt d) UfwCnt.lines 1
    if poison then t.flag (Csr.ufwSts d) UfwSts.poison else t

/-- The oldest request of the user window is served. The first 16 requests are its queue; those behind them wait for a place in
it (R338). -/
def State.serveWindow (s : State) : State :=
  match s.fl.reads with
  | [] => s
  | .window l e r :: rest =>
    let line := windowLine + l
    let (p, s) := State.lineRead { s with fl := { s.fl with reads := rest, rr := 0 } } line 3
    let data := s.lineData line
    match e, r with
    | some (d, x), _ => s.toEngine d x data p
    | none, some d => s.toUfw d data p
    | none, none => s

/-- A line that the Steward fetches: a hit costs no access; a miss is read, with the next three lines when it is
sequential (R341). -/
def State.serveFetch (s : State) (line : Nat) : State :=
  let f := s.fl
  if f.prefetch.contains line then { s with fl := { f with lastFetch := some line } }
  else if f.branch.contains line then { s with fl := { f with lastFetch := some line, branch := line :: f.branch.erase line } }
  else
    let s := s.count Csr.flCacheCnt FlCacheCnt.misses 1
    if f.lastFetch == some (line - 1) && line ≠ 0 then
      let lines := [line, line + 1, line + 2, line + 3]
      let s := { s with fl := { f with prefetch := lines, lastFetch := some line, rr := 3 } }
      lines.foldl (fun s l => (s.lineRead l 0).2) s
    else
      let s := { s with fl := { f with branch := (line :: f.branch).take 16, lastFetch := some line, rr := 3 } }
      (s.lineRead line 0).2

/-- What Ixken fetches now: a free value says whether it fetches, and which line of the running copy. -/
def State.drawFetch (s : State) : Option Nat × State :=
  if !s.fbit Csr.mbInfo MbInfo.ready then (none, s)
  else
    let (v, s) := s.free64
    let line := fwSector (s.fget Csr.flProt FlProt.fwRun) * 128 + v.toNat / 2 % 131072
    (if v.toNat % 2 == 1 then some line else none, s)

/-- FLASH_READ_ACCESS: one access slot. A program in progress makes reads wait; a running erase is suspended first. -/
def doFlashReadAccess (s : State) : State :=
  let st := s.flState
  if st == Fs.prog || st == Fs.progInSusp then s
  else
    let (f, s) := s.drawFetch
    let window := !s.fl.reads.isEmpty
    match f with
    | some line => if window && s.fl.rr == 3 then s.readSuspends.serveWindow else s.readSuspends.serveFetch line
    | none => if window then s.readSuspends.serveWindow else s

def execFlashReadAccess (s : State) : Ans := .next (doFlashReadAccess s)

/-- Bytes that the Steward reads for a message: the data, and whether a line of them is poisoned. -/
def State.stewardRead (s : State) (a n : Nat) : List (BitVec 8) × Bool × State :=
  let s := if n == 0 then s else s.readSuspends
  let lines := if n == 0 then [] else List.range' (a / 32) ((a + n - 1) / 32 - a / 32 + 1)
  let r := lines.foldl (fun (x : Bool × State) l =>
    let (p, s) := x.2.lineRead l 1
    (x.1 || p, s)) (false, s)
  (s.flBytes a n, r.1, r.2)

/-! ## Resets (R349) -/

/-- What S and H do with an operation in progress: it completes, a suspended erase after the program inside it; the unlock
is cancelled and the state is IDLE. A lowering sequence goes on through S. -/
def State.flFinish (s : State) (keepRdp : Bool) : State :=
  let s := s.relock
  let s := match s.fl.op with
    | some (.prog a v raw) =>
      let t := (s.programmed a v raw).flDone
      if s.jobRuns (.prog a v raw) then t.jobNotes else t
    | some (.erase x) => ((s.erased x).flDone).reeraseEnd s.fl.reRun x St.ok
    | some .wipe => s.wipeFlash.flDone
    | _ => s
  let s := match s.fl.susp with
    | some x => (s.erased x).flDone
    | none => s
  let rdp := match s.fl.op with | some (.rdp _) => keepRdp | _ => false
  if rdp then s
  else
    State.fset (State.setFlState { s with fl := { s.fl with op := none, susp := none, reRun := false } } Fs.idle) Csr.flSts
      FlSts.autosusp 0

/-- The OTP word in progress completes (11 R372). -/
def State.otpFinish (s : State) : State :=
  match s.otpBusy with
  | some (w, v) =>
    let s := (State.fset { s with otpBusy := none } Csr.otpSts OtpSts.busy 0).otpOr w v
    if certWord w then s else s.jobNotes
  | none => s

end Sys2Proof.Machine
end

