-- ==== Sys2Proof/Machine/Power.lean ====
section
/-! DEFINITION. Power states and resets (12 R386, R390 to R403; 09 R331, R332; 10 R348, R349, R354, R358; 11 R367, R370, R372):
the full start, reset kinds P, H, D, Q, E and S, STANDBY, wakes, gating, trips and the voltage governor. -/

namespace Sys2Proof.Machine

/-! ## Firmware choice (09 R332) -/

/-- The boot ROM's choice at a restart: the TRIAL copy for its first three starts, then PRIMARY; the other copy when the
chosen one is not valid; recovery when none is. -/
def State.chooseFirmware (s : State) : State :=
  let s := { s with fwSig := b2n (s.fwPasses 0) + 2 * b2n (s.fwPasses 1) }
  let ok (i : Nat) : Bool := bitOf s.fwValid i && bitOf s.fwSig i
  let p := s.bootPrimary
  let trial := s.bootTrial
  let c := if trial && s.bootStarts < 3 then 1 - p else p
  let s := if !trial then s else if s.bootStarts < 3 then s.countStart else s.cancelTrial
  let run := if ok c then c else 1 - c
  let s := { s with fallback := s.bootCancelled || !ok c }
  if ok run then (s.fset Csr.flProt FlProt.fwRun run).flag Csr.mbInfo MbInfo.ready
  else s.flag Csr.mbInfo MbInfo.recovery

/-- STEWARD_RESTART. -/
def State.restartNotice (s : State) (cause aborted : Nat) : State :=
  State.notice { s with pwr := { s.pwr with cause := cause } } stw 0x0908
    [(1, cause), (1, s.fget Csr.flProt FlProt.fwRun), (1, b2n s.fallback), (1, min 255 aborted)]

/-! ## Mailboxes at a restart (09 R331) -/

/-- Mailboxes that are BUSY. -/
def State.busyBoxes (s : State) : List Nat := (List.range 8).filter (fun k => s.fbit (Csr.mbSts k) MbSts.busy)

/-- The opcode of an unanswered command. -/
def State.opOf (s : State) (h : CmdHdr) : Nat :=
  match (s.cmds ++ s.refused).find? (fun (c : Cmd) => c.hdr == h) with
  | some c => c.op
  | none => opAbort

/-- After the reset, the commands that `old` held in BUSY mailboxes are answered ABORTED. -/
def State.answerBusy (s old : State) : State :=
  old.busyBoxes.foldl (fun s k =>
    let s := s.fset (Csr.mbSts k) MbSts.done 1
    let s := match SMap.find old.mboxes k with
      | some h =>
        let s := s.barPut (responseAt k) (respHeader h (old.opOf h) St.aborted 0 s.ownAddr)
        s.emit (.response h (old.opOf h) St.aborted s.ownAddr [])
      | none => s
    if s.functionExists then s.msix 0 else s) s

/-! ## Reset kinds P and H -/

/-- What kinds P and H clear beside the registers of the Steward and the dies (Table 12-5). -/
def State.clearSteward (s : State) : State :=
  { s with
    queues := [], windows := [], nditch := { bank0 := [], bank1 := [], drain1 := true, rr := 0 },
    mboxes := [], bar := barReset, cmds := [], refused := [], sess := none, certs := [], job := none, bist := none, jobs := [], load := none,
    hostImage := none, swap := none, releases := [], flipList := [], image := [],
    trans := { eids := [], i3c := none }, pins := { PinSt.reset with levels := s.pins.levels }, fl := FlashSt.reset,
    otpBusy := none,
    pwr := { s.pwr with wake := none, tripAt := [], retrip := [], nacks := [], avsAt := [], acked := [], resetBy := [] } }

/-- Reset kind P or H of everything it acts on. -/
def State.resetAll (s : State) (k : Kind) : State :=
  let s := s.clearSteward.resetCsr [k] (fun a => dieOf a == stw)
  (List.range s.part.dies).foldl (fun s d => s.dieReset d [k]) s

/-- What P clears and H keeps. -/
def State.resetP (s : State) : State :=
  let tow := { TowSt.reset with reenum := s.tow.reenum || decide (s.fget Csr.towSts TowSts.addr ≠ 0xFF) }
  let s := s.resetAll .p
  { s with hosts := [], ms := [], refMs := 0, tow := tow, tap := .idcode, tapHeld := false,
           pwr := { s.pwr with wdtCount := 0 } }

/-- Kind H: a flash or OTP operation completes first (10 R349; 11 R372). -/
def State.resetH (s : State) : State := (s.flFinish false).otpFinish.resetAll .h

/-! ## The full start (08 R277; 12 R381) -/

/-- The scan of the flag cells (10 R348). -/
def State.scanFlags (s : State) : State :=
  let all := bitOf (s.optRecord.getD 6 0).toNat 2
  let sched (x : Nat) : Bool := all || 24448 ≤ x
  let s := s.flagCells.foldl (fun s x => s.notice stw 0x0603 [(2, x), (1, b2n (sched x))]) s
  let s := (s.fset Csr.flFlagSts FlFlagSts.first (s.flagCells.headD 0)).fset Csr.flFlagSts FlFlagSts.count s.flagCells.length
  { s with fl := { s.fl with reerase := s.flagCells.filter sched } }

/-- An interrupted lowering sequence or life-cycle transition ends, then the life-cycle state is decoded. -/
def State.resumeStart (s : State) : State :=
  let s := match s.protIntent with
    | some c => s.rdpEnd c 1
    | none => s
  let s := s.lcResume.lcLatch
  State.pendingRefresh { s with fl := { s.fl with reerase := s.fl.reerase.filter s.flagCells.contains } }

/-- The option copy, and the registers that take their values from it (R381; 10 R358). -/
def State.takeOptions (s : State) : State :=
  let s := if s.optCurrent.isSome then s
    else s.notice stw 0x0606 [(1, b2n (optCrc (s.optCopy 0))), (1, b2n (optCrc (s.optCopy 1)))]
  let s := { s with options := s.optRecord }
  let thr := s.opt 0x07
  let s := s.fset Csr.flCtrl FlCtrl.ewThr (if 1 ≤ thr && thr ≤ 4 then thr else 4)
  let s := (List.range s.part.dies).foldl (fun s d => s.csrSet (Csr.cfgScrubCtrl d) (s.scrubCtrl d)) s
  (List.range 32).foldl (fun s p =>
    let v := s.pinOption 0x48 p
    let s := s.fset (Csr.gpioCfg p) GpioCfg.pull (v % 4)
    let s := s.fsetBit Csr.gpioOe GpioOe.oe p (v / 4 == 1 || v / 4 == 2)
    s.fsetBit Csr.gpioOut GpioOut.out p (v / 4 == 2)) s

/-- Every populated die is powered; those that were off load their milestones (05 R194). -/
def State.powerDies (s : State) (off : List Nat) : State :=
  let s := s.fset Csr.pwrSts PwrSts.dieOn (2 ^ s.part.dies - 1)
  off.foldl (fun s d => (s.loadMilestone d).count (Csr.msAdjCnt d) MsAdjCnt.reloads 1) s

/-- The full start after P (cause 0) or H (cause 1). `off` are the dies that were off before an H. -/
def State.fullStart (s : State) (cause aborted : Nat) (off : List Nat) (st : StartInfo) : State :=
  let s := ((s.scanFlags.resumeStart).takeOptions).badStsRefresh.protRefresh
  let s := { s with tow := { s.tow with started := false },
                    pwr := { s.pwr with lastStart := s.refMs } }
  let s := s.powerDies off
  let s := if cause ≠ 0 then s
    else
      let s := (List.range s.part.dies).foldl (fun s d => s.loadMilestone d) s
      s.fset Csr.towSts TowSts.head (b2n (st.headHigh || (st.headOpen && s.opt 0x06 / 2 % 2 == 1)))
  ((s.chooseFirmware).powerRefresh.restartNotice cause aborted).startLoad st

/-- Populated dies without power. -/
def State.offDies (s : State) : List Nat := (List.range s.part.dies).filter (fun d => !s.dieOn d)

/-- POWER_ON_RESET: PWRGOOD rises, or a brown-out ends, and 10 µs later the full start runs (R399). -/
def doPowerOnReset (st : StartInfo) (s : State) : State :=
  if s.pwr.pwrgood then s
  else
    let s := s.resetP
    State.fullStart { s with pwr := { s.pwr with pwrgood := true } } 0 0 [] st

def execPowerOnReset (st : StartInfo) (s : State) : Ans := .next (doPowerOnReset st s)

/-- Kind H with its full start, which also answers the mailboxes that were BUSY. -/
def State.hotStart (s : State) (st : StartInfo) : State :=
  let t := (s.resetH.fullStart 1 s.busyBoxes.length s.offDies st)
  t.answerBusy s

/-- HOT_RST_PIN: HOT_RST_n has read low at 800 consecutive STW cycles: H acts and lasts until the pin rises. -/
def doHotRstPin (s : State) : State :=
  if !s.pwr.pwrgood || s.pwr.hotLow then s
  else
    let t := s.resetH.flag Csr.pwrRstCause PwrRstCause.hotPin
    State.answerBusy { t with pwr := { t.pwr with hotLow := true } } s

def execHotRstPin (s : State) : Ans := .next (doHotRstPin s)

/-- HOT_RST_RISE. -/
def doHotRstRise (st : StartInfo) (s : State) : State :=
  if !s.pwr.hotLow then s
  else State.fullStart { s with pwr := { s.pwr with hotLow := false } } 1 s.busyBoxes.length s.offDies st

def execHotRstRise (st : StartInfo) (s : State) : Ans := .next (doHotRstRise st s)

/-! ## Loss of power (R399; 10 R348, R350; 11 R372) -/

/-- The sectors of group `g` of the lowering sequence (10 R354). -/
def rdpGroup (g : Nat) : List Nat :=
  ((List.range 32).map (fun i => 32 * g + i)).filterMap (fun i =>
    if 22402 ≤ i then none else some (if i < 20480 then i else i + 2048))

/-- A sector whose erase was cut: its content is not known and its flag cell stays set. -/
def State.cutErase (s : State) (x : Nat) : State :=
  State.spoilSector { s with flagCells := insertNat x s.flagCells } x

/-- The flash operation and the OTP word in progress are cut short: of the bits still to be programmed, those that are 1 in
`w` were not. A free value says how far a lowering erase had come. -/
def State.cutFlash (s : State) (w : BitVec 64) : State :=
  let s := match s.fl.op with
    | some (.prog a v _) =>
      let (b, s) := s.freeByte
      s.setFlWord (a / 8) (s.flWord (a / 8) &&& (v ||| w)) (b % 3)
    | some (.erase x) => s.cutErase x
    | some .wipe | some (.rdp _) =>
      let (n, s) := s.draw
      let g := (Config.freeWord n).toNat % 701
      let s := ((List.range g).flatMap rdpGroup).foldl State.erased s
      (rdpGroup g).foldl State.cutErase s
    | none => s
  let s := match s.fl.susp with
    | some x => s.cutErase x
    | none => s
  match s.otpBusy with
  | some (i, v) => s.otpOr i (v &&& ~~~w)
  | none => s

/-- PWRGOOD_FALL: kind P acts on everything. With `none` an operation in progress had just ended. -/
def doPwrgoodFall (word : Option (BitVec 64)) (s : State) : State :=
  if !s.pwr.pwrgood then s
  else
    let s := match word with
      | some w => s.cutFlash w
      | none => (s.flFinish true).otpFinish
    let s := s.resetP
    { s with pwr := { s.pwr with pwrgood := false, hotLow := false } }

def execPwrgoodFall (word : Option (BitVec 64)) (s : State) : Ans := .next (doPwrgoodFall word s)

/-! ## Reset kind S (09 R331, R333) -/

/-- An LC_TRANSITION in DEV or PROD was interrupted: it is resumed (11 Table 11-4). -/
def State.lcAtRestart (s : State) : State :=
  if s.lcState == 0x30 || s.lcState == 0x40 then s.lcResume else s

/-- Kind S: operations of the flash and the OTP complete, the LOAD session ends, a live swap before its drain is abandoned,
blocks 0x4 and 0x8 and the cores are reset, and Ixken restarts. -/
def State.stewardReset (s : State) : State :=
  let old := s
  let lc := s.job.any (fun (j : Job) => j.cmd ∈ (s.cmds.filter (fun (c : Cmd) => c.op == opLcTransition)).map (·.hdr))
  let s := (s.flFinish true).otpFinish
  let s := { s with cmds := [], refused := [], mboxes := [], bar := barReset, certs := [], job := none }
  let s := s.dropDma BankWho.ofSteward
  let s := if lc then s.lcAtRestart else s
  let s := s.lcUpdate.endSession
  let s := if s.swap.any (fun w => w.phase.early) then s.abandonSwap St.aborted 0 else s
  let s := s.resetCsr [.s] (fun a => dieOf a == stw)
  let s := { s with trans := { eids := [], i3c := none }, fl := { s.fl with prefetch := [], branch := [], lastFetch := none } }
  (s.chooseFirmware.restartNotice 2 old.busyBoxes.length).answerBusy old

/-- WATCHDOG_EXPIRY: 100 ms without a service. -/
def doWatchdogExpiry (s : State) : State :=
  if !s.pwr.pwrgood || s.pwr.hotLow then s
  else
    let s := s.flag Csr.pwrRstCause PwrRstCause.wdt
    let n := min (2 ^ 32 - 1) (s.pwr.wdtCount + 1)
    State.stewardReset { s with pwr := { s.pwr with wdtCount := n } }

def execWatchdogExpiry (s : State) : Ans := .next (doWatchdogExpiry s)

/-- TRIAL_PROMOTE: the TRIAL copy has run 10 s without watchdog expiry. -/
def doTrialPromote (s : State) : State :=
  let run := s.fget Csr.flProt FlProt.fwRun
  if s.fbit Csr.mbInfo MbInfo.ready && s.bootTrial && run ≠ s.bootPrimary then s.setBoot run false else s

def execTrialPromote (s : State) : Ans := .next (doTrialPromote s)

/-! ## RESET (R401 to R403) -/

/-- A die is being rebuilt already: by a start, its own reload or release, a self-test, a test instruction or a wake. -/
def State.dieRebuilding (s : State) (d : Nat) : Bool :=
  s.load.any (fun (l : Load) => match l.kind with
    | .start => true
    | .dies ds => ds.contains d
    | _ => false) ||
  s.releases.any (fun (r : Release) => match r.scope with
    | .die x => x.val == d
    | .all => r.why == .load && !r.skip.contains d
    | .reach _ _ => false) ||
  s.bist.any (fun (b : BistSt) => b.dieList.contains d) || s.tapHeld || s.pwr.wake.any (fun (w : WakeSt) => w.dies.contains d)

/-- A live swap drains, flips or releases. -/
def State.swapHard (s : State) : Bool := s.swap.any (fun (w : SwapSt) => w.phase == .drain || w.phase == .release)

/-- The die a RESET names cannot be reset (R402; 09 R310). -/
def State.noDie (s : State) (d : Nat) : Bool := !s.dieOn d || s.noLogic

/-- RESET kind 0: answered, then H, and 10 µs later the full start. -/
def doResetHot (h : CmdHdr) (st : StartInfo) (s : State) : State :=
  s.command h opReset 3 (fun _ => Gate.open_) (fun _ => false) (fun s =>
    let s := s.respond h opReset St.ok []
    (s.flag Csr.pwrRstCause PwrRstCause.hotMsg).hotStart st)

def execResetHot (h : CmdHdr) (st : StartInfo) (s : State) : Ans := .next (doResetHot h st s)

/-- RESET kind 1: the die is reset, reloaded and released alone (08 Table 08-14). -/
def doResetDie (h : CmdHdr) (d : Nat) (s : State) : State :=
  s.command h opReset 3 (fun _ => Gate.open_) (fun _ => false) (fun s =>
    if s.noDie d then s.respond h opReset St.notPresent []
    else if s.swapHard then s.respond h opReset St.busy []
    else
      let s := s.respond h opReset St.ok []
      if s.dieRebuilding d then s
      else
        let s := { s with pwr := { s.pwr with resetBy := s.pwr.resetBy ++ [d] } }
        (s.resetD d).powerRefresh.reloadDies [d])

def execResetDie (h : CmdHdr) (die : BitVec 8) (s : State) : Ans := .next (doResetDie h die.toNat s)

/-- A REACH reset adds nothing: the die is not released, or the reach is isolated by a swap or released already (R403; 08
Table 08-14). -/
def State.reachBusy (s : State) (d r : Nat) : Bool :=
  !s.released d || s.dieRebuilding d || s.jobs.any (fun (j : ReachJob) => j.die == d && j.reach == r && (j.swapping || j.kind == .wake)) ||
  (s.releaseOf (.reach (fin8 d) (fin16 r))).isSome

/-- RESET kind 2: the reach is held for 16 CFG cycles, then released alone; its first write enables come at the release's
cycle 64, which RELEASE_WRITE_ENABLES reports. -/
def doResetReach (h : CmdHdr) (d r : Nat) (s : State) : State :=
  s.command h opReset 3 (fun _ => Gate.open_) (fun _ => false) (fun s =>
    if s.noDie d then s.respond h opReset St.notPresent []
    else if 15 < r then s.respond h opReset St.badArgument []
    else if s.swapHard then s.respond h opReset St.busy []
    else if s.gated d r then s.respond h opReset St.notPresent []
    else
      let s := s.respond h opReset St.ok []
      if s.reachBusy d r then s
      else
        let s := s.holdReach d r
        let rel : Release := { scope := .reach (fin8 d) (fin16 r), step := 0, why := .q true, skip := [] }
        { s with releases := s.releases ++ [rel] })

def execResetReach (h : CmdHdr) (die reach : BitVec 8) (s : State) : Ans := .next (doResetReach h die.toNat reach.toNat s)

/-- RESET kind 3: engine d.e (03 R147). -/
def doResetEng (h : CmdHdr) (d e : Nat) (s : State) : State :=
  s.command h opReset 3 (fun _ => Gate.open_) (fun _ => false) (fun s =>
    if s.noDie d then s.respond h opReset St.notPresent []
    else if 63 < e then s.respond h opReset St.badArgument []
    else
      let s := s.respond h opReset St.ok []
      if s.dieRebuilding d then s else (s.engReset d e).resetDone 3 d e St.ok)

def execResetEng (h : CmdHdr) (die eng : BitVec 8) (s : State) : Ans := .next (doResetEng h die.toNat eng.toNat s)

/-- RESET kind 4. -/
def doResetSteward (h : CmdHdr) (s : State) : State :=
  s.command h opReset 3 (fun _ => Gate.open_) (fun _ => false) (fun s =>
    let s := s.respond h opReset St.ok []
    (s.flag Csr.pwrRstCause PwrRstCause.sMsg).stewardReset)

def execResetSteward (h : CmdHdr) (s : State) : Ans := .next (doResetSteward h s)

/-! ## POWER_STATE (R391 to R395) -/

/-- POWER_STATE is answered BUSY (R391). -/
def State.powerBusy (s : State) : Bool :=
  !s.jobs.isEmpty || s.swapRuns || s.sess.any (fun (x : LoadSess) => x.target == 0) || s.bist.isSome || s.dieBusy ||
  s.pwr.wake.isSome || s.pwr.tripAt.any (fun (x : Nat × Nat × Bool) => x.2.2 && s.refMs < x.2.1 + 100000000)

/-- The gate mask of a die. -/
def maskOf (masks : List (BitVec 16)) (d : Nat) : Nat := (masks.getD d 0).toNat

/-- A mask names an unpopulated die. -/
def State.badMasks (s : State) (masks : List (BitVec 16)) : Bool :=
  (List.range 8).any (fun d => !s.populated d && maskOf masks d ≠ 0)

/-- POWER_STATE with state 0: answered, then every die goes off (R392). A READY host image goes with its shadows. -/
def doPowerStateStandby (h : CmdHdr) (masks : List (BitVec 16)) (s : State) : State :=
  s.command h opPowerState 18 (fun _ => Gate.open_) State.powerBusy (fun s =>
    if (List.range 8).any (fun d => maskOf masks d ≠ 0) then s.respond h opPowerState St.badArgument []
    else if s.inStandby then s.respond h opPowerState St.ok []
    else
      let old := s.fget Csr.pwrSts PwrSts.state
      let s := s.respond h opPowerState St.ok []
      let on := (List.range s.part.dies).filter s.dieOn
      let s := on.foldl (fun s d => s.dieOff d) (on.foldl (fun s d => s.dieCulvertsQuiet d) s)
      let s := State.powerRefresh { s with load := none, hostImage := none, releases := [] }
      s.notice stw 0x0804 [(1, old), (1, 0), (1, s.fget Csr.pwrSts PwrSts.dieOn)])

def execPowerStateStandby (h : CmdHdr) (masks : List (BitVec 16)) (s : State) : Ans := .next (doPowerStateStandby h masks s)

/-- Steps 2 and 3 of R393: the power switches close, and every die wakes and is reloaded. -/
def State.wakeDies (s : State) (w : WakeSt) : State :=
  let ds := List.range s.part.dies
  let s := ds.foldl (fun s d => s.fset (Csr.pwrGate d) PwrGate.gated (maskOf w.masks d)) s
  let hot := (s.pwr.tripAt.filter (fun (x : Nat × Nat × Bool) => x.2.2)).map (·.1)
  let s := (s.fset Csr.pwrSts PwrSts.tripped 0).fset Csr.pwrSts PwrSts.railWait 0
  let s := { s with pwr := { s.pwr with tripAt := [], retrip := s.pwr.retrip ++ hot,
                                        wake := some { w with rails := false, dies := ds } } }
  ((ds.foldl (fun s d => s.dieWake d) s).powerRefresh).reloadDies ds

/-- A wake from STANDBY starts: with PSIG enabled it waits for RAIL_OK. -/
def State.startWake (s : State) (cmd : Option CmdHdr) (masks : List (BitVec 16)) : State :=
  let w : WakeSt := { cmd := cmd, old := s.fget Csr.pwrSts PwrSts.state, rails := s.fbit Csr.pinEn PinEn.psig, masks := masks,
                      dies := [], reaches := [] }
  if w.rails then State.flag { s with pwr := { s.pwr with wake := some w } } Csr.pwrSts PwrSts.railWait
  else s.wakeDies w

/-- The dies that are off by trip wake with a mask (R397). -/
def State.wakeTripped (s : State) (masks : List (BitVec 16)) : State :=
  let ds := (List.range s.part.dies).filter (fun d => !s.dieOn d)
  let hot := (s.pwr.tripAt.filter (fun (x : Nat × Nat × Bool) => x.2.2)).map (·.1)
  let s := ds.foldl (fun s d =>
    (s.fset (Csr.pwrGate d) PwrGate.gated (maskOf masks d)).fsetBit Csr.pwrSts PwrSts.tripped d false) s
  let s := { s with pwr := { s.pwr with tripAt := [], retrip := s.pwr.retrip ++ hot,
                                        wake := s.pwr.wake.map (fun (w : WakeSt) => { w with dies := ds }) } }
  let s := (ds.foldl (fun s d => s.dieWake d) s).powerRefresh
  if ds.isEmpty then s else s.reloadDies ds

/-- A gated reach gets its power back: its three banks are cleared, and on a released die its frames are checked before it
is released (R395). -/
def State.ungateReach (s : State) (d r : Nat) : State :=
  let s := s.fsetBit (Csr.pwrGate d) PwrGate.gated r false
  let s := (reachBanks r).foldl (fun s b => s.startClear d b) s
  if !s.released d then s
  else
    let j : ReachJob := { die := d, reach := r, kind := .wake, swapping := false, next := 0, recAt := 0, bad := none, got := [] }
    let s := s.assertReach d r
    { s with jobs := s.jobs ++ [j],
             pwr := { s.pwr with wake := s.pwr.wake.map (fun (w : WakeSt) => { w with reaches := w.reaches ++ [(d, r)] }) } }

/-- The gating of a powered die takes a mask; a die whose mask does not change is left untouched (R394). -/
def State.setGate (s : State) (d mask : Nat) : State :=
  let old := s.fget (Csr.pwrGate d) PwrGate.gated
  if old == mask then s
  else
    let s := (List.range 16).foldl (fun s r =>
      if bitOf mask r && !bitOf old r then s.gateReach d r
      else if !bitOf mask r && bitOf old r then s.ungateReach d r
      else s) s
    s.notice d 0x0805 [(1, d), (2, old), (2, mask)]

/-- POWER_STATE with state 2: a wake from STANDBY, or the gating of each reach and the wake of the dies off by trip; it is
answered once everything it wakes has been released. -/
def doPowerStateRun (h : CmdHdr) (masks : List (BitVec 16)) (s : State) : State :=
  s.command h opPowerState 18 (fun _ => Gate.open_) State.powerBusy (fun s =>
    if s.badMasks masks then s.respond h opPowerState St.badArgument []
    else if s.inStandby then (s.await h opPowerState .wake).startWake (some h) masks
    else
      let w : WakeSt := { cmd := some h, old := s.fget Csr.pwrSts PwrSts.state, rails := false, masks := masks,
                          dies := [], reaches := [] }
      let on := (List.range s.part.dies).filter s.dieOn
      let s := s.await h opPowerState .wake
      let s := State.wakeTripped { s with pwr := { s.pwr with wake := some w } } masks
      (on.foldl (fun s d => s.setGate d (maskOf masks d)) s).wakeCheck)

def execPowerStateRun (h : CmdHdr) (masks : List (BitVec 16)) (s : State) : Ans := .next (doPowerStateRun h masks s)

/-- RAIL_OK_RISE. -/
def doRailOkRise (s : State) : State :=
  match s.pwr.wake with
  | some w => if w.rails then s.wakeDies w else s
  | none => s

def execRailOkRise (s : State) : Ans := .next (doRailOkRise s)

/-- RAIL_OK_TIMEOUT: the device stays in STANDBY. -/
def doRailOkTimeout (s : State) : State :=
  match s.pwr.wake with
  | some w =>
    if !w.rails then s
    else
      let s := State.fset { s with pwr := { s.pwr with wake := none } } Csr.pwrSts PwrSts.railWait 0
      let (x, s) := s.freeByte
      let s := s.notice stw 0x0807 [(1, 0), (1, x)]
      match w.cmd with
      | some h => s.finish h St.timeout []
      | none => s
  | none => s

def execRailOkTimeout (s : State) : Ans := .next (doRailOkTimeout s)

/-- REACH_WAKE_CHECK_DONE: every frame of the waking reach has been checked and its banks are clear; it is released, after
its reload when a frame was uncorrectable. -/
def doReachWakeCheckDone (d r : Nat) (s : State) : State :=
  match s.jobOf d r with
  | some j =>
    if j.kind ≠ .wake then s
    else
      let s := (reachBanks r).foldl (fun s b => doBankClearDone d b s) (s.dropJob d r)
      let s := (List.range 1280).foldl (fun s f => s.checkFrame d r f) s
      if (s.jobOf d r).isSome then s else s.releaseStart (.reach (fin8 d) (fin16 r)) .wake
  | none => s

def execReachWakeCheckDone (d : Die) (r : Reach) (s : State) : Ans := .next (doReachWakeCheckDone d.val r.val s)

/-- PATTERN_MATCH_FIRE: a sample of a matcher; when it fires, HIT, its notice, and a wake from STANDBY (R386). -/
def doPatternMatchFire (m : Nat) (levels : BitVec 32) (s : State) : State :=
  let (fire, s) := s.pmSample m levels
  if !fire then s
  else
    let s := (s.fsetBit Csr.pmSts PmSts.hit m true).notice stw 0x0801 [(1, m), (1, s.pmByte m levels)]
    if s.fbit (Csr.pmCfg m) PmCfg.wake && s.inStandby && s.pwr.wake.isNone then s.startWake none [] else s

def execPatternMatchFire (m : Fin 4) (levels : BitVec 32) (s : State) : Ans := .next (doPatternMatchFire m.val levels s)

/-! ## Trips (R396, R397, R399) -/

/-- A die is switched off by a trip: a live swap is abandoned as for kind D, and whatever rebuilt the die ends. -/
def State.tripOff (s : State) (d : Nat) (thermal : Bool) : State :=
  let s := if s.swap.any (fun w => w.phase.early) then s.abandonSwap St.aborted d else s
  let s := (s.dieOff d).fsetBit Csr.pwrSts PwrSts.tripped d true
  { s with pwr := { s.pwr with tripAt := s.pwr.tripAt.filter (fun (x : Nat × Nat × Bool) => x.1 ≠ d) ++ [(d, s.refMs, thermal)],
                               retrip := s.pwr.retrip.filter (· ≠ d) } }

/-- What waited for the die ends. -/
def State.tripEnds (s : State) (d : Nat) : State := ((s.bistOff d).settle d St.notPresent).powerRefresh

/-- THERMAL_TRIP: a PMU sample in quarter degrees above 125 °C, or the first sample after a trip at 115 °C or more. -/
def doThermalTrip (d : Nat) (t : Int) (s : State) : State :=
  if !s.dieOn d then s
  else if decide (500 < t) || (s.pwr.retrip.contains d && decide (460 ≤ t)) then
    let s := (s.tripOff d true).fsetBit Csr.pwrRstCause PwrRstCause.trip d true
    (s.notice d 0x0806 [(1, d), (2, wrapInt 16 t)]).tripEnds d
  else { s with pwr := { s.pwr with retrip := s.pwr.retrip.filter (· ≠ d) } }

def execThermalTrip (d : Die) (t : Int) (s : State) : Ans := .next (doThermalTrip d.val t s)

/-- CORE_UNDERVOLTAGE. -/
def doCoreUndervoltage (d : Nat) (s : State) : State :=
  if !s.dieOn d then s
  else
    let s := (s.tripOff d false).fsetBit Csr.pwrRstCause PwrRstCause.coreUv d true
    (s.notice d 0x0807 [(1, 1), (1, d)]).tripEnds d

def execCoreUndervoltage (d : Die) (s : State) : Ans := .next (doCoreUndervoltage d.val s)

/-! ## Voltage governor (R400) -/

/-- The governor's next target: one step of 5 mV within 720 to 800 mV; the same again after a write that was not
acknowledged. -/
def State.nextTarget (s : State) (d : Nat) (up : Bool) : Option Nat :=
  let t := s.fget (Csr.pwrVcore d) PwrVcore.target
  if 0 < SMap.get 0 s.pwr.nacks d then some t
  else if SMap.find s.pwr.avsAt d |>.any (fun at_ => s.refMs < at_ + 100000) then none
  else if up then (if t + 5 ≤ 800 then some (t + 5) else none)
  else if 725 ≤ t then some (t - 5) else none

/-- VOLTAGE_GOVERNOR_STEP: the target is written over AVSBus; `ack` says whether it was acknowledged. -/
def doVoltageGovernorStep (d : Nat) (up ack : Bool) (s : State) : State :=
  let r := Csr.pwrVcore d
  if !(s.dieOn d && s.fbit Csr.pinEn PinEn.avs) || s.fbit r PwrVcore.fault then s
  else
    match s.nextTarget d up with
    | none => s
    | some t =>
      let s := ((s.fset r PwrVcore.target t).fset r PwrVcore.ack (b2n ack)).emit (.avs d t)
      let n := if ack then 0 else SMap.get 0 s.pwr.nacks d + 1
      let at_ := if SMap.get 0 s.pwr.nacks d == 0 then SMap.put s.pwr.avsAt d s.refMs else s.pwr.avsAt
      let acked := if ack then SMap.put s.pwr.acked d t else s.pwr.acked
      let s := { s with pwr := { s.pwr with nacks := SMap.set 0 s.pwr.nacks d n, avsAt := at_, acked := acked } }
      if n < 3 then s
      else
        let last := SMap.get 800 s.pwr.acked d
        let s := (s.fset r PwrVcore.target last).flag r PwrVcore.fault
        s.noticeLim d 0x0808 0 [(1, d), (2, last)]

def execVoltageGovernorStep (d : Die) (up ack : Bool) (s : State) : Ans := .next (doVoltageGovernorStep d.val up ack s)

end Sys2Proof.Machine
end

