-- ==== Sys2Proof/Machine/CsrBus.lean ====
section
/-! DEFINITION. Registers of the Steward die and of BAR0, and one access to any register, by whoever makes it (00 R9 to R13;
09 R299, R300, R311; 10 R342; 12 R382, R383). -/

namespace Sys2Proof.Machine

/-! ## Mailboxes (09 R300) -/

/-- MB_DOORBELL: GO submits the request; while BUSY or DONE is 1 it is ignored and sets OVERRUN. -/
def doMbDoorbell (k : Nat) (s : State) : State :=
  let r := Csr.mbSts k
  if s.fbit r MbSts.busy || s.fbit r MbSts.done then s.flag r MbSts.overrun else s.flag r MbSts.busy

def execMbDoorbell (k : Mbox) (s : State) : Ans := .next (doMbDoorbell k.val s)

/-- MB_DONE_WRITE: a write of DONE = 1 frees the mailbox. -/
def doMbDoneWrite (k : Nat) (s : State) : State := s.fset (Csr.mbSts k) MbSts.done 0

def execMbDoneWrite (k : Mbox) (s : State) : Ans := .next (doMbDoneWrite k.val s)

/-! ## BAR0 memory (Table 09-1) -/

/-- Offsets of BAR0 that hold memory: MSI-X table and pending bits, notice ring, request and response areas. -/
def barShown (x : Nat) : Bool :=
  (0x1000 ≤ x && x < 0x1020) || (0x1800 ≤ x && x < 0x1808) || (0x4000 ≤ x && x < 0x8000) ||
  (0x20000 ≤ x && x < 0x40000 &&
    ((0x100 ≤ x % 0x4000 && x % 0x4000 < 0x1110) || (0x2000 ≤ x % 0x4000 && x % 0x4000 < 0x3010)))

/-- Offsets of BAR0 memory that a host writes: the MSI-X table and the request areas. -/
def barWritten (x : Nat) : Bool :=
  (0x1000 ≤ x && x < 0x1020) || (0x20000 ≤ x && x < 0x40000 && 0x100 ≤ x % 0x4000 && x % 0x4000 < 0x1110)

/-- The BAR0 offset of a CSR address of block 0x4. -/
def barOff (a : Nat) : Nat := a % 0x1000000

/-- An address that BAR0 memory answers. -/
def isBar (a : Nat) : Bool := dieOf a == stw && blockOf a == 4 && barShown (barOff a)

/-! ## Reads of the Steward die -/

/-- ND_STS: the levels of the two banks, which have exchanged roles when the draining one ran empty (07 R254 step 2). -/
def State.ndStsView (s : State) : Word :=
  let n := s.nditch
  let drain := if n.drain1 then n.bank1 else n.bank0
  let fill := if n.drain1 then n.bank0 else n.bank1
  let swap := drain.isEmpty && !fill.isEmpty
  let (drain, fill) := if swap then (fill, drain) else (drain, fill)
  NdSts.drainBank.put (NdSts.drainLvl.put (NdSts.fillLvl.put (0 : Word) fill.length) drain.length)
    (b2n (n.drain1 != swap))

/-- Half of an OTP word as OTP_RD shows it. -/
def State.otpView (s : State) (w : Nat) (hi : Bool) : Word :=
  if !otpReadable w then 0 else if hi then ((s.otpWord w) >>> 32).setWidth 32 else (s.otpWord w).setWidth 32

/-- A read of a Steward register; `h` is the host whose message reads it. -/
def State.stwRead (s : State) (a : Nat) (h : Option HostId) : Word × State :=
  match findRow a with
  | none => (if isBar a then BitVec.ofNat 32 (Memory.readLE 0 s.bar (barOff a) 4) else 0, s)
  | some r =>
    let i := (r.ix a).getD 0 0
    let b := r.base
    if b == Rg.flProt.base then (s.flProtView, s)
    else if b == Rg.gpioIn.base then (s.gpioInView, s)
    else if b == Rg.gpioOwner.base then (s.ownerView i, s)
    else if b == Rg.otpRdLo.base then (s.otpView i false, s)
    else if b == Rg.otpRdHi.base then (s.otpView i true, s)
    else if b == Rg.lcHostRights.base then
      (BitVec.ofNat 32 (match h with | some x => s.rightBits x | none => 0), s)
    else if b == Rg.towMsOfsLo.base then
      (BitVec.ofInt 32 s.tow.ofs, s.csrSet Csr.towMsOfsHi (BitVec.ofInt 32 (s.tow.ofs / 2 ^ 32)))
    else if b == Rg.ndSts.base then (s.ndStsView, s)
    else s.plainRead a

/-! ## Writes of the Steward die -/

/-- The flash controller (10 R342, R346). -/
def State.flashWrite (s : State) (b a : Nat) (v : Word) : State :=
  if b == Rg.flKey.base then doFlKeyWrite v s
  else if b == Rg.flCmd.base then doFlCmdWrite v s
  else if b == Rg.flAddr.base && s.fl.selected == some 3 then doFlErase v s
  else if b == Rg.flDataLo.base && s.fl.selected == some 4 then doFlRdpLower v s
  else if b == Rg.flDataHi.base && s.fl.selected == some 1 then doFlProgram v s
  else if b == Rg.flDataHi.base && s.fl.selected == some 2 then doFlBitprog v s
  else if b == Rg.flCtrl.base then
    let s := if FlCtrl.suspend.bit v then doFlSuspend s else s
    let s := if FlCtrl.resume.bit v then doFlResume s else s
    s.fset a FlCtrl.ewThr (FlCtrl.ewThr.get v)
  else s.plainWrite a v

/-- GPIO_OE: the bits of locked pins are frozen. -/
def State.oeWrite (s : State) (v : Word) : State :=
  let lock := s.csrGet Csr.gpioLock
  s.csrSet Csr.gpioOe ((s.csrGet Csr.gpioOe &&& lock) ||| (v &&& ~~~lock))

/-- GPIO and pin mux: any write but the steps of the lock sequence cancels it. -/
def State.pinWrite (s : State) (b i a : Nat) (v : Word) : State :=
  if b == Rg.gpioLockKey.base then doGpioLockKeyWrite v s
  else if b == Rg.gpioLock.base then doGpioLockWrite v s
  else if b == Rg.pinEn.base then doPinEnWrite v s
  else if b == Rg.gpioShort.base then doShortClearWrite none v s
  else if b == Rg.gpioOe.base then (s.oeWrite v).cancelLock
  else if b == Rg.gpioCfg.base && s.pinLocked i then s.cancelLock
  else if b == Rg.gpioOpenCtrl.base then
    if GpioOpenCtrl.go.bit v then
      let (x, s) := s.free64
      s.cancelLock.openGo stw (x.setWidth 32)
    else s.cancelLock
  else (s.plainWrite a v).cancelLock

/-- A write of a Steward register. -/
def State.stwWrite (s : State) (a : Nat) (v : Word) : State :=
  match findRow a with
  | none => if isBar a && barWritten (barOff a) then (s.barPut (barOff a) (leBytes 4 v.toNat)).msixFlush else s
  | some r =>
    let i := (r.ix a).getD 0 0
    let b := r.base
    if blockOf a == 0 then s.flashWrite b a v
    else if blockOf a == 1 then s.pinWrite b i a v
    else if b == Rg.mbDoorbell.base then (if MbDoorbell.go.bit v then doMbDoorbell i s else s)
    else s.plainWrite a v

/-! ## Any register -/

/-- The register exists and its die is there and powered (R10). -/
def State.reachable (s : State) (a : Nat) : Bool :=
  if dieOf a == stw then (findRow a).isSome || isBar a else s.dieOn (dieOf a) && (findRow a).isSome

/-- A read: the value, 0 outside the defined space, and the state after it. `dbg` opens the fields of 03 R151. -/
def State.busRead (s : State) (a : Nat) (h : Option HostId) (dbg : Bool) : Word × State :=
  if !s.reachable a then (0, s)
  else if dieOf a == stw then s.stwRead a h
  else s.dieRead a dbg

/-- A write: discarded outside the defined space. -/
def State.busWrite (s : State) (a : Nat) (v : Word) (dbg : Bool) : State :=
  if !s.reachable a then s
  else if dieOf a == stw then s.stwWrite a v
  else s.dieWrite a v dbg

/-- Steward blocks that need CSRRAW (09 R311). -/
def needsRaw (a : Nat) : Bool := dieOf a == stw && (blockOf a == 0 || blockOf a == 2 || blockOf a == 3 || (6 ≤ blockOf a && blockOf a ≤ 8))

/-- A host may access a register. -/
def State.hostMay (s : State) (h : HostId) (a : Nat) : Bool := !needsRaw a || s.holds h Right.csrraw

end Sys2Proof.Machine
end

