-- ==== Sys2Proof/Machine/EngCsr.lean ====
section
/-! DEFINITION. The CSR instruction of the engines, single steps by ENGDBG, and register accesses with no row of their own
(00 R11, R13; 03 R136, R151). -/

namespace Sys2Proof.Machine

/-! ## The CSR instruction (R136) -/

/-- The row of a CSR instruction: opcode 0x2D with its W bit. -/
def csrIs (w1 : Bool) (w : Word) : Bool := opIs 0x2D w && (Ins.fn w % 2 == 1) == w1

def legalCsr (_ : State) (w : Word) : Bool :=
  regOk (Ins.rd w) && regOk (Ins.rs1 w) && Ins.rs2 w == 0 && Ins.fn w < 2

/-- OST.STATUS of an engine's access, where it reaches the register. -/
def State.csrStatus (s : State) (a : Nat) (write : Bool) : Nat :=
  let b := (findRow a).map (·.base)
  if dieOf a == stw then St.refused
  else if !s.populated (dieOf a) then St.notPresent
  else if write && (blockOf a == 9 || blockOf a == 13) then St.refused
  else if !s.reachable a then St.notPresent
  else if b == some Rg.engDbgSel.base || b == some Rg.engDbgData.base then St.refused
  else St.ok

/-- The same, from an engine of die `d`. -/
def State.engCsrStatus (s : State) (d a : Nat) (write : Bool) : Nat :=
  if dieOf a ≠ stw && s.populated (dieOf a) && !s.pathUp d (dieOf a) then St.notPresent else s.csrStatus a write

/-- The register of another die, which an access reaches by message (R136). -/
def State.csrRemote (s : State) (d a : Nat) : Bool := s.populated (dieOf a) && dieOf a ≠ d

/-- An access by message: the engine waits for the response under the buffer it reserves; `rd` takes the value read. -/
def State.csrAsk (s : State) (d e a op : Nat) (v : Option (BitVec 64)) (rd : Option Nat) : State :=
  match s.accSend d e (accMsg d e .csrAcc (if v.isSome then 3 else 0) a op 4 v) (dieOf a) with
  | none => s.engStall d e
  | some (tag, s) =>
    let x := s.eng d e
    s.setEng d e { x with run := x.run + 1, wait := .resp tag rd false none }

def State.csrReadBody (s : State) (d e : Nat) (w : Word) : State :=
  let a := wordAddr (s.reg d e (Ins.rs1 w)).toNat
  if s.csrRemote d a then s.csrAsk d e a Uop.read none (some (Ins.rd w))
  else if dieOf a == d && !s.sluiceOpen d then s.engStall d e
  else
    let st := s.csrStatus a false
    let (v, s) := if st == St.ok then s.busRead a none false else (0, s)
    (s.setReg d e (Ins.rd w) v).engDoneS d e 1 (ost st false false 0)

def State.csrWriteBody (s : State) (d e : Nat) (w : Word) : State :=
  let a := wordAddr (s.reg d e (Ins.rs1 w)).toNat
  let v := s.reg d e (Ins.rd w)
  if s.csrRemote d a then s.csrAsk d e a Uop.write (some (v.setWidth 64)) none
  else if dieOf a == d && !s.sluiceOpen d then s.engStall d e
  else
    let st := s.csrStatus a true
    (if st == St.ok then s.busWrite a v false else s).engDoneS d e 1 (ost st false false 0)

/-- ENG_CSR_READ. -/
def doEngCsrRead (d e : Nat) (s : State) : State :=
  s.engRun d e (csrIs false) legalCsr (cyc 1) (fun s w => s.csrReadBody d e w)

/-- ENG_CSR_WRITE. -/
def doEngCsrWrite (d e : Nat) (s : State) : State :=
  s.engRun d e (csrIs true) legalCsr (cyc 1) (fun s w => s.csrWriteBody d e w)

def execEngCsrRead (d : Die) (e : Eng) (s : State) : Ans := .next (doEngCsrRead d.val e.val s)
def execEngCsrWrite (d : Die) (e : Eng) (s : State) : Ans := .next (doEngCsrWrite d.val e.val s)

/-! ## One instruction (R121, R151) -/

/-- The instructions of opcodes 0x00 to 0x12. -/
def runAlu (op d e : Nat) (s : State) : State :=
  match op with
  | 0x00 => doEngAdd d e s | 0x01 => doEngSub d e s | 0x02 => doEngAnd d e s | 0x03 => doEngOr d e s
  | 0x04 => doEngXor d e s | 0x05 => doEngSll d e s | 0x06 => doEngSrl d e s | 0x07 => doEngSra d e s
  | 0x08 => doEngSlt d e s | 0x09 => doEngSltu d e s | 0x0A => doEngMul d e s | 0x0B => doEngAddi d e s
  | 0x0C => doEngAndi d e s | 0x0D => doEngOri d e s | 0x0E => doEngSlti d e s | 0x0F => doEngShi d e s
  | 0x10 => doEngLui d e s | 0x11 => doEngExt d e s | _ => doEngIns d e s

/-- The instructions of opcodes 0x13 to 0x24. -/
def runFlow (op d e : Nat) (w : Word) (s : State) : State :=
  match op with
  | 0x13 => doEngLd d e s | 0x14 => doEngSt d e s | 0x15 => doEngBeq d e s | 0x16 => doEngBne d e s
  | 0x17 => doEngBlt d e s | 0x18 => doEngBge d e s | 0x19 => doEngBltu d e s | 0x1A => doEngBgeu d e s
  | 0x1B => doEngBst d e s | 0x1C => doEngJr d e s | 0x1D => doEngCall d e s | 0x1E => doEngRet d e s
  | 0x1F => doEngTrap d e s | 0x20 => doEngTret d e s | 0x21 => doEngEnd d e s
  | 0x22 => if Ins.fn w % 2 == 1 then doEngWsvRestore d e s else doEngWsvSave d e s
  | 0x23 => doEngMfs d e s | _ => doEngMts d e s

/-- The instructions of opcodes 0x25 to 0x2F. -/
def runUnit (op d e : Nat) (w : Word) (s : State) : State :=
  match op with
  | 0x25 => doEngDlook d e s | 0x26 => doEngDwr d e s | 0x27 => doEngSend d e s | 0x28 => doEngWaitr d e s
  | 0x29 => doEngFwcp d e s
  | 0x2A => if Ins.fn w % 2 == 1 then doEngBatomSwap d e s else doEngBatomFetchAdd d e s
  | 0x2B => doEngDqpush d e s | 0x2C => doEngDqpop d e s
  | 0x2D => if Ins.fn w % 2 == 1 then doEngCsrWrite d e s else doEngCsrRead d e s
  | 0x2E => if Ins.imm w / 16 % 2 == 1 then doEngLockRelease d e s else doEngLock d e s
  | _ => if Ins.fn w % 2 == 1 then doEngFenceNotify d e s else doEngFenceWait d e s

/-- The next instruction of an engine, by the opcode of the word at its PC. -/
def State.runNext (s : State) (d e : Nat) : State :=
  match s.fetched d e with
  | none => doEngIllegal d e s
  | some w =>
    let op := Ins.op w
    if op ≤ 0x12 then runAlu op d e s
    else if op ≤ 0x24 then runFlow op d e w s
    else if op ≤ 0x2F then runUnit op d e w s
    else doEngIllegal d e s

/-- STEP of a halted engine: one instruction, then the engine is halted again (R151); one that waits goes on to its end
first. -/
def State.stepHalted (s : State) (d e : Nat) : State :=
  if !s.halted d e then s
  else
    let s := (s.fset (Csr.engCtrl d e) EngCtrl.halt 0).runNext d e
    s.flag (Csr.engCtrl d e) EngCtrl.halt

/-- ENG_STEP. -/
def doEngStep (d e : Nat) (h : HostId) (s : State) : State :=
  if s.dieOn d && s.holds h Right.engdbg then s.stepHalted d e else s

def execEngStep (d : Die) (e : Eng) (h : HostId) (s : State) : Ans := .next (doEngStep d.val e.val h s)

/-! ## Accesses by message -/

/-- A word read by a host's message. -/
def State.msgRead (s : State) (h : HostId) (a : Nat) : Word × State :=
  s.busRead a (some h) (s.holds h Right.engdbg)

/-- A word written by a host's message; STEP of ENG_CTRL acts after the other fields. -/
def State.msgWrite (s : State) (h : HostId) (a : Nat) (v : Word) : State :=
  let dbg := s.holds h Right.engdbg
  let s := s.busWrite a v dbg
  match findRow a with
  | some r =>
    if dbg && dieOf a ≠ stw && r.base == Rg.engCtrl.base && EngCtrl.step.bit v && s.dieOn (dieOf a) then
      s.stepHalted (dieOf a) ((r.ix a).getD 0 0)
    else s
  | none => s

/-- RC_READ: a read of a register, whose RC fields then hold their reset value (00 R11, R13). -/
def doRcRead (src : Access) (a : Nat) (s : State) : State :=
  let a := wordAddr a
  match src with
  | .host h => if s.hostMay h a then (s.msgRead h a).2 else s
  | .engine d _ => if s.engCsrStatus d.val a false == St.ok then (s.busRead a none false).2 else s
  | .config => (s.busRead a none false).2

def execRcRead (src : Access) (addr : Word) (s : State) : Ans := .next (doRcRead src addr.toNat s)

/-- REGISTER_WRITE: each field takes the write by its access code (00 R11). -/
def doRegisterWrite (src : Access) (a : Nat) (v : Word) (s : State) : State :=
  let a := wordAddr a
  match src with
  | .host h => if s.hostMay h a then s.msgWrite h a v else s
  | .engine d _ => if s.engCsrStatus d.val a true == St.ok then s.busWrite a v false else s
  | .config => s.busWrite a v false

def execRegisterWrite (src : Access) (addr v : Word) (s : State) : Ans := .next (doRegisterWrite src addr.toNat v s)

end Sys2Proof.Machine
end

