-- ==== Sys2Proof/Machine/Crossbar.lean ====
section
/-! DEFINITION. CROSSBAR_FORWARD (01 R36, R44, R46) and what its units do at once with a message that reaches them: one-beat ESC
messages (02 R94), and accesses to banks and CSRs from other dies (03 R133, R136). -/

namespace Sys2Proof.Machine

/-! ## ESC (02 R94) -/

/-- A message that its sink consumes as it arrives. -/
def escUnit : PName → Bool
  | .escAccept | .escRelease | .escWake | .escAbort => true
  | _ => false

/-- A one-beat ESC message reaches its unit of die `d`: an acceptance its slice (02 R79), a release or an abort its lock table, a
wake its engine (03 R139, R143; 02 R95, R96). -/
def State.escSink (s : State) (d : Nat) (m : Msg) : State :=
  let key : Word := BitVec.ofNat 32 (m.g Hd.addr)
  match m.name with
  | .escAccept => { s with dirAcc := s.dirAcc.erase ⟨d, m.g Hd.port, m.g Hd.addr / 64⟩ }
  | .escRelease => s.releaseLock key (m.g Hd.srcDie) (m.g Hd.srcIdx - 8)
  | .escAbort => s.abortClaim key (m.g Hd.srcDie) (m.g Hd.srcIdx - 8)
  | .escWake => s.wakeArrives d (m.g Hd.destIdx - 8) key
  | _ => s

/-! ## Endpoint 21 (R133, R136; 07 R235; log entry 105) -/

/-- The operation of a bank access by message: a store of 4 bytes names its half by ADDR bit 2; a poisoned beat stores the poison
code (07 R242). -/
def unitOp (m : Msg) : BankOp :=
  let v : BitVec 64 := (m.beats.headD 0).setWidth 64
  let op := m.g Hd.opcode
  if op == Uop.read then .read
  else if op == Uop.fetchAdd then .fetchAdd v
  else if op == Uop.swap then .swap v
  else .write (if m.g Hd.len == 8 then 0xFF else if m.g Hd.addr / 4 % 2 == 1 then 0xF0 else 0x0F) v m.poisoned

/-- A bank access by message joins the queue of the bank DMA under its own number; its credits return at its grant. -/
def State.dmaArrive (s : State) (d : Nat) (x : XMsg) : State :=
  let m := x.msg
  match s.unitAt (m.g Hd.addr) with
  | .bank _ b o =>
    let k := bankQKey d b 2
    { s with bankQ := SMap.set [] s.bankQ k (SMap.get [] s.bankQ k ++
      [⟨x.id, .message m, m.g Hd.srcDie, m.g Hd.srcIdx - 8, o / 8, none, unitOp m⟩]) }
  | _ => s

/-- A CSR access by message is made and answered (R136, R137). -/
def State.csrArrive (s : State) (d : Nat) (m : Msg) : State :=
  let a := m.g Hd.addr
  let write := m.g Hd.opcode == Uop.write
  let st := s.csrStatus a write
  if write then
    let v : Word := (m.beats.headD 0).setWidth 32
    (if st == St.ok then s.busWrite a v false else s).injectReply d 21 (m.unitReply d 74 st none)
  else
    let (v, s) := if st == St.ok then s.busRead a none false else (0, s)
    s.injectReply d 21 (m.unitReply d 74 st (some (v.setWidth 64, false)))

/-! ## Delivery -/

/-- A message takes its place in a sink's buffer and spends its credits (R36). -/
def State.spend (s : State) (d e v n : Nat) : State :=
  s.fset (Csr.xbCredit d e v) XbCredit.avail (s.fget (Csr.xbCredit d e v) XbCredit.avail - n)

/-- A message leaves an output: its unit consumes it at once, or it enters its sink's buffer. -/
def State.xdeliver (s : State) (d e v : Nat) (x : XMsg) : State :=
  if 11 ≤ e && escUnit x.msg.name then s.escSink d x.msg
  else if e == 21 then
    match x.msg.name with
    | .bankAcc => (s.spend d e v x.msg.size).dmaArrive d x
    | .csrAcc => s.csrArrive d x.msg
    | _ => s
  else
    let s := s.spend d e v x.msg.size
    { s with xout := SMap.set [] s.xout (xkey d e v) (SMap.get [] s.xout (xkey d e v) ++ [x]) }

/-- CROSSBAR_FORWARD: at a message boundary, an output forwards its next message into the sink's buffer (R36, R44); an
output whose port or culvert is down discards it and answers for it (R46, R51, R54). -/
def doCrossbarForward (d e : Nat) (s : State) : State :=
  if !s.clockOn d || outSlots e ≤ (s.sending d e).length then s
  else
    let s := s.holdPointers d e
    match s.xselect d e ((s.sending d e).map (·.1)) with
    | none => s
    | some (v, i, x) =>
      let s := s.xtake d e v i x
      if !s.sinkUp d e then s.discard d e (outIdx e) x.msg else s.xdeliver d e v x

def execCrossbarForward (d : Die) (e : Endpt) (s : State) : Ans := .next (doCrossbarForward d.val e.val s)

end Sys2Proof.Machine
end

