-- ==== Sys2Proof/Machine/Grant.lean ====
section
/-! DEFINITION. BANK_GRANT (07 R238), and the answer to a host's bank command whose last word it serves (09 R312). -/

namespace Sys2Proof.Machine

/-- BANK_GRANT: one BANK cycle of a bank. -/
def doBankGrant (d b : Nat) (port : GrantPort) (f : Option FabBankReq) (s : State) : State := (s.grant d b port f).bankAnswers

def execBankGrant (d : Die) (b : Bank) (port : GrantPort) (fab : Option FabBankReq) (s : State) : Ans :=
  .next (doBankGrant d.val b.val port fab s)

end Sys2Proof.Machine
end

