-- ==== Sys2Proof/Machine/Steward.lean ====
section
/-! DEFINITION. Ixken commands that answer at once (09 R308, R310 to R312, R319; 08 R295; 10 R352, R360): information, ABORT,
subscription, registers, banks, frames, flash and options. -/

namespace Sys2Proof.Machine

/-! ## Information (Table 09-4) -/

/-- The response of GET_INFO. -/
def State.infoBytes (s : State) : List (BitVec 8) :=
  leBytes 1 s.part.dies ++ leBytes 1 s.part.grade ++ leBytes 1 s.lcState ++ leBytes 1 (s.fget Csr.flProt FlProt.fwRun) ++
  leBytes 4 Config.ixkenVersion.toNat ++ (List.range 8).map Config.stepping ++
  leBytes 8 (s.otpWord 0x68).toNat ++ leBytes 8 (s.otpWord 0x69).toNat ++
  leBytes 1 s.source ++ leBytes 1 s.towAddr ++ leBytes 1 (s.fget Csr.towSts TowSts.size) ++ leBytes 1 0 ++
  leBytes 4 (if s.source == 0 then 0 else imgVersion (listRd s.image))

/-- GET_INFO. -/
def doGetInfo (h : CmdHdr) (s : State) : State :=
  s.command h opGetInfo 0 (fun _ => Gate.open_) (fun _ => false) (fun s => s.respond h opGetInfo St.ok s.infoBytes)

def execGetInfo (h : CmdHdr) (s : State) : Ans := .next (doGetInfo h s)

/-- Dies that are released. -/
def State.releasedMask (s : State) : Nat :=
  (List.range 8).foldl (fun n d => if s.dieOn d && s.released d then n + 2 ^ d else n) 0

/-- The response of GET_STATUS. -/
def State.statusBytes (s : State) : List (BitVec 8) :=
  leBytes 1 (s.fget Csr.pwrSts PwrSts.state) ++ leBytes 1 s.pwr.cause ++ leBytes 1 (b2n s.fallback) ++
  leBytes 1 s.bootStarts ++ leBytes 4 s.pwr.wdtCount ++ leBytes 8 s.refMs ++ leBytes 1 s.releasedMask ++
  List.replicate 15 0

/-- GET_STATUS. -/
def doGetStatus (h : CmdHdr) (s : State) : State :=
  s.command h opGetStatus 0 (fun _ => Gate.open_) (fun _ => false) (fun s => s.respond h opGetStatus St.ok s.statusBytes)

def execGetStatus (h : CmdHdr) (s : State) : Ans := .next (doGetStatus h s)

/-! ## ABORT (R308) -/

/-- An ABORT waits for the command that it names, or that the ABORT it names waits for. -/
def State.joinAbort (s : State) (h t : CmdHdr) : State :=
  let add (c : Cmd) : Cmd := if c.hdr == t || c.aborts.contains t then { c with aborts := c.aborts ++ [h] } else c
  { s with cmds := s.cmds.map add, refused := s.refused.map add }

/-- The LOAD session ends by ABORT: a LOAD_BEGIN or LOAD_DATA that is still at work is answered ABORTED (R313). -/
def State.abortSession (s : State) : State :=
  match s.job with
  | some j =>
    if s.cmds.any (fun (c : Cmd) => c.hdr == j.cmd && isLoadOp c.op) then
      State.finish { s.endSession with job := none } j.cmd St.aborted []
    else s.endSession
  | none => s.endSession

/-- A LOAD_END is at work. -/
def State.endAtWork (s : State) : Bool := s.cmds.any (fun (c : Cmd) => c.op == opLoadEnd)

/-- What an ABORT of the unanswered command `t` does. -/
def State.abortCmd (s : State) (h t : CmdHdr) : State :=
  match s.cmds.find? (fun (c : Cmd) => c.hdr == t) with
  | none => s.joinAbort h t
  | some c =>
    if c.op == opSwap && s.swap.any (fun (w : SwapSt) => w.phase.early) then
      (s.abandonSwap St.aborted 0).respond h opAbort St.ok []
    else if c.op == opUflashErase then
      State.joinAbort { s with job := s.job.map (fun (j : Job) => { j with stop := true }) } h t
    else if c.op == opLoadBegin then s.abortSession.respond h opAbort St.ok []
    else s.joinAbort h t

/-- ABORT. A tag that no unanswered command holds may name the host's LOAD session, by its LOAD_BEGIN (R313). -/
def doAbort (h : CmdHdr) (tag : BitVec 16) (s : State) : State :=
  s.command h opAbort 2 (fun _ => Gate.open_) (fun _ => false) (fun s =>
    match (s.unanswered h.host).find? (fun (x : CmdHdr) => x.tag == tag) with
    | some t => s.abortCmd h t
    | none =>
      match s.sess with
      | some x =>
        if x.hdr.host ≠ h.host || x.hdr.tag ≠ tag then s.respond h opAbort St.notPresent []
        else
          match s.cmds.find? (fun (c : Cmd) => c.op == opLoadEnd) with
          | some c => s.joinAbort h c.hdr
          | none => s.abortSession.respond h opAbort St.ok []
      | none => s.respond h opAbort St.notPresent [])

def execAbort (h : CmdHdr) (tag : BitVec 16) (s : State) : Ans := .next (doAbort h tag s)

/-! ## Notices of a host (R310, R319) -/

/-- NOTICE_SUBSCRIBE: a host beyond the 16 records is answered BUSY (R298). -/
def doNoticeSubscribe (h : CmdHdr) (mask : BitVec 16) (s : State) : State :=
  s.command h opSubscribe 2 (fun _ => Gate.open_) (fun _ => false) (fun s =>
    if mask &&& 0xF801#16 ≠ 0 then s.respond h opSubscribe St.badArgument []
    else
      match s.hostRec h.host with
      | none => s.respond h opSubscribe St.busy []
      | some r =>
        let s := { s with hosts := s.hosts.map (fun (x : HostRec) => if x.host == h.host then { x with mask := mask } else x) }
        s.respond h opSubscribe St.ok (leBytes 2 r.seq))

def execNoticeSubscribe (h : CmdHdr) (mask : BitVec 16) (s : State) : Ans := .next (doNoticeSubscribe h mask s)

/-- NOTICE_STATS: a host without a record reads zeros. -/
def doNoticeStats (h : CmdHdr) (s : State) : State :=
  s.command h opStats 0 (fun _ => Gate.open_) (fun _ => false) (fun s =>
    let (q, l, o) := match s.hostRec h.host with | some r => (r.seq, r.lost, r.overw) | none => (0, 0, 0)
    s.respond h opStats St.ok (leBytes 2 q ++ leBytes 2 0 ++ leBytes 4 l ++ leBytes 4 o))

def execNoticeStats (h : CmdHdr) (s : State) : Ans := .next (doNoticeStats h s)

/-! ## Registers (R311) -/

/-- The addresses of `n` consecutive words. -/
def wordsFrom (a n : Nat) : List Nat := (List.range n).map (fun i => wordAddr ((a + 4 * i) % 2 ^ 32))

/-- The right that a register command needs, by its first and last word. -/
def rawGate (a n : Nat) : Gate :=
  if needsRaw (wordAddr a) || needsRaw (wordAddr ((a + 4 * (max n 1 - 1)) % 2 ^ 32)) then Gate.needs Right.csrraw else Gate.open_

/-- A word that needs a logic die of a package without an image or in STANDBY (R310). -/
def State.needsDie (s : State) (as : List Nat) : Bool := s.noLogic && as.any (fun a => s.populated (dieOf a))

/-- Reads words in order: the values, whether every one exists, and the state after. -/
def State.readWords (s : State) (h : HostId) : List Nat → List Word × Bool × State
  | [] => ([], true, s)
  | a :: r =>
    let ok := s.reachable a
    let (v, s) := s.msgRead h a
    let (vs, oks, s) := s.readWords h r
    (v :: vs, ok && oks, s)

/-- CSR_READ. -/
def doCsrRead (h : CmdHdr) (a n : Nat) (s : State) : State :=
  s.command h opCsrRead 6 (fun _ => rawGate a n) (fun _ => false) (fun s =>
    let as := wordsFrom a n
    if n == 0 || 256 < n then s.respond h opCsrRead St.badArgument []
    else if s.needsDie as then s.respond h opCsrRead St.notPresent []
    else
      let (vs, ok, s) := s.readWords h.host as
      s.respond h opCsrRead (if ok then St.ok else St.notPresent) (wordBytes vs))

def execCsrRead (h : CmdHdr) (addr : Word) (n : BitVec 16) (s : State) : Ans := .next (doCsrRead h addr.toNat n.toNat s)

/-- Writes words in order. -/
def State.writeWords (s : State) (h : HostId) : List (Nat × Word) → Bool × State
  | [] => (true, s)
  | (a, v) :: r =>
    let ok := s.reachable a
    let (oks, s) := (s.msgWrite h a v).writeWords h r
    (ok && oks, s)

/-- CSR_WRITE. -/
def doCsrWrite (h : CmdHdr) (a : Nat) (vs : List Word) (n : Nat) (s : State) : State :=
  s.command h opCsrWrite 8 (fun _ => rawGate a n) (fun _ => false) (fun s =>
    let as := wordsFrom a n
    if n == 0 || 256 < n || vs.length ≠ n || h.length ≠ 8 + 4 * n then s.respond h opCsrWrite St.badArgument []
    else if s.needsDie as then s.respond h opCsrWrite St.notPresent []
    else
      let (ok, s) := s.writeWords h.host (as.zip vs)
      s.respond h opCsrWrite (if ok then St.ok else St.notPresent) [])

def execCsrWrite (h : CmdHdr) (addr : Word) (vals : List Word) (n : BitVec 16) (s : State) : Ans :=
  .next (doCsrWrite h addr.toNat vals n.toNat s)

/-! ## Banks (R312; 00 R16) -/

/-- Die, bank and word of a bank address. -/
def bankPlace (a : Nat) : Nat × Nat × Nat := (a / 2 ^ 23 % 8, a / 2 ^ 17 % 64, a % 2 ^ 17 / 8)

/-- A bank word that exists. -/
def State.bankHere (s : State) (a : Nat) : Bool := a / 2 ^ 26 == 4 && s.populated (bankPlace a).1 && (bankPlace a).2.1 < 48

/-- The addresses of a bank command. -/
def bankAddrs (a len : Nat) : List Nat := (List.range (len / 8)).map (fun i => (a + 8 * i) % 2 ^ 32)

/-- The status of a bank command before it acts. -/
def State.bankFault (s : State) (a len : Nat) : Option Nat :=
  let as := bankAddrs a len
  if a % 8 ≠ 0 || len % 8 ≠ 0 || len == 0 || 4096 < len || as.any (fun x => !s.bankHere x) then some St.badArgument
  else if s.noLogic || as.any (fun x => !s.dieOn (bankPlace x).1) then some St.notPresent
  else none

/-- A bank command waits for its words, which it asks of the bank DMA in their order. -/
def State.askWords (s : State) (h : CmdHdr) (op : Nat) (ops : List (Nat × BankOp)) : State :=
  let s := s.await h op (.bank ops.length [])
  ops.zipIdx.foldl (fun (s : State) (x : (Nat × BankOp) × Nat) =>
    let (d, b, w) := bankPlace x.1.1
    s.askDma d b w (.steward h x.2) x.1.2) s

/-- BANK_READ. -/
def doBankRead (h : CmdHdr) (a len : Nat) (s : State) : State :=
  s.command h opBankRead 6 (fun _ => Gate.open_) (fun _ => false) (fun s =>
    match s.bankFault a len with
    | some st => s.respond h opBankRead st []
    | none => s.askWords h opBankRead ((bankAddrs a len).map (fun x => (x, BankOp.read))))

def execBankRead (h : CmdHdr) (addr : Word) (len : BitVec 16) (s : State) : Ans := .next (doBankRead h addr.toNat len.toNat s)

/-- BANK_WRITE. -/
def doBankWrite (h : CmdHdr) (a len : Nat) (data : List (BitVec 64)) (s : State) : State :=
  s.command h opBankWrite 8 (fun _ => Gate.open_) (fun _ => false) (fun s =>
    if h.length ≠ 8 + len || 8 * data.length ≠ len then s.respond h opBankWrite St.badArgument []
    else
      match s.bankFault a len with
      | some st => s.respond h opBankWrite st []
      | none => s.askWords h opBankWrite ((bankAddrs a len).zip (data.map (fun v => BankOp.write 0xFF v false))))

def execBankWrite (h : CmdHdr) (addr : Word) (len : BitVec 16) (data : List (BitVec 64)) (s : State) : Ans :=
  .next (doBankWrite h addr.toNat len.toNat data s)

/-! ## Frames (08 R265, R295) -/

/-- A frame address of a populated die: die, reach, frame. -/
def State.frameHere (s : State) (a : Nat) : Bool :=
  a < 2 ^ 18 && s.populated (a / 2 ^ 15) && a % 2 ^ 11 < 1280

/-- FRAME_READ: the data of active frames. -/
def doFrameRead (h : CmdHdr) (a n : Nat) (s : State) : State :=
  s.command h opFrameRead 6 (fun _ => Gate.needs Right.readback) (fun _ => false) (fun s =>
    let as := (List.range n).map (fun i => a + i)
    if n == 0 || 16 < n || as.any (fun x => !s.frameHere x) then s.respond h opFrameRead St.badArgument []
    else if s.noLogic || as.any (fun x => !s.dieOn (x / 2 ^ 15)) then s.respond h opFrameRead St.notPresent []
    else
      s.respond h opFrameRead St.ok (as.flatMap (fun x =>
        let d := x / 2 ^ 15
        let r := x / 2 ^ 11 % 16
        s.frame (s.plane d r) d r (x % 2 ^ 11))))

def execFrameRead (h : CmdHdr) (addr : Word) (n : BitVec 16) (s : State) : Ans := .next (doFrameRead h addr.toNat n.toNat s)

/-! ## Flash (10 R352) -/

/-- Bytes of the flash array (10 R335). -/
def flashSize : Nat := 24576 * 4096

/-- What the protection level lets FLASH_READ read. -/
def State.levelReads (s : State) (off : Nat) : Bool :=
  match s.protLevel with
  | 0 => true
  | 1 => 20480 * 4096 ≤ off
  | _ => false

/-- FLASH_READ: a poisoned line is returned as read with INTEGRITY_FAIL. -/
def doFlashRead (h : CmdHdr) (off len : Nat) (s : State) : State :=
  s.command h opFlashRead 6 (fun s => { Gate.needs Right.flread with level := s.levelReads off }) (fun _ => false) (fun s =>
    if off % 4 ≠ 0 || len < 4 || 4096 < len || flashSize < off + len then s.respond h opFlashRead St.badArgument []
    else
      let (bs, poison, s) := s.stewardRead off len
      s.respond h opFlashRead (if poison then St.integrityFail else St.ok) bs)

def execFlashRead (h : CmdHdr) (off : Word) (len : BitVec 16) (s : State) : Ans := .next (doFlashRead h off.toNat len.toNat s)

/-! ## Options (10 Table 10-10) -/

/-- The boot record as OPTION_READ shows it. -/
def State.bootBytes (s : State) : List (BitVec 8) :=
  leBytes 1 s.bootPrimary ++ leBytes 1 (b2n s.bootTrial) ++ leBytes 1 (b2n s.bootCancelled) ++ leBytes 1 s.bootStarts ++
  leBytes 4 0

/-- A byte of the two bad-sector tables as 4-byte entries. -/
def State.tableByte (s : State) (i : Nat) : BitVec 8 :=
  let t := s.factoryTable ++ s.fieldTable
  match t[i / 4]? with
  | some w => (leBytes 4 (w.toNat % 2 ^ 15 + w.toNat / 2 ^ 16 % 256 * 2 ^ 16)).getD (i % 4) 0
  | none => 0xFF

/-- An offset of the logical option space. -/
def optionHere (o : Nat) : Bool := o ≤ 0x100 || (0x200 ≤ o && o ≤ 0x207) || (0x1000 ≤ o && o ≤ 0x1FFF)

/-- A byte of the logical option space. -/
def State.optionByte (s : State) (o : Nat) : BitVec 8 :=
  if o < 0x100 then s.optRecord.getD o 0
  else if o == 0x100 then BitVec.ofNat 8 s.protLevel
  else if o < 0x1000 then s.bootBytes.getD (o - 0x200) 0
  else s.tableByte (o - 0x1000)

/-- OPTION_READ: refused for the user option record at level 2. -/
def doOptionRead (h : CmdHdr) (off len : Nat) (s : State) : State :=
  s.command h opOptionRead 6 (fun s => { Gate.open_ with level := !(2 ≤ s.protLevel && off < 0x100 && 0 < len) }) (fun _ => false) (fun s =>
    let os := (List.range len).map (fun i => off + i)
    if 4096 < len || os.any (fun o => !optionHere o) then s.respond h opOptionRead St.badArgument []
    else s.respond h opOptionRead St.ok (os.map s.optionByte))

def execOptionRead (h : CmdHdr) (off : Word) (len : BitVec 16) (s : State) : Ans := .next (doOptionRead h off.toNat len.toNat s)

end Sys2Proof.Machine
end

