-- ==== Sys2Proof/Machine/ImageCmds.lean ====
section
/-! DEFINITION. Ixken commands that move images and flash content (09 R309, R313 to R315; 08 R275, R276, R280, R286, R287, R293;
10 R344, R353, R354, R357): LOAD messages, SWAP, REACH_RELOAD, OPTION_WRITE and the user flash. -/

namespace Sys2Proof.Machine

/-! ## LOAD_BEGIN (R313) -/

/-- The largest total length of a target. -/
def loadLimit (target : Nat) : Nat := if target == 3 then 4190208 else 41938944

/-- A reach swap or a reload is in progress. -/
def State.reachWork (s : State) : Bool :=
  s.jobs.any (fun (j : ReachJob) => j.swapping || (match j.kind with | .reload _ => true | _ => false))

/-- The shadow planes that a host image needs are being built: by a start, the reload of a die, a patch, a self-test or a
wake. -/
def State.shadowsInUse (s : State) : Bool :=
  s.load.isSome || s.dieBusy || !s.jobs.isEmpty || s.bist.isSome || s.pwr.wake.isSome || s.tapHeld

/-- The firmware copy that is not running. -/
def State.otherCopy (s : State) : Nat := 1 - s.fget Csr.flProt FlProt.fwRun % 2

/-- First sector and last sector, the seal or copy record, of a LOAD target. -/
def State.targetSectors (s : State) (target : Nat) : Nat × Nat :=
  if target == 3 then (fwSector s.otherCopy, fwSector s.otherCopy + 1023)
  else (slotSector (target - 1), slotSector (target - 1) + 10239)

/-- LOAD_BEGIN is answered BUSY by R309 or R313. -/
def State.beginBusy (s : State) (target : Nat) : Bool := s.loadRow || (target ≠ 0 && s.flashRow)

/-- LOAD_BEGIN. -/
def doLoadBegin (h : CmdHdr) (target total : Nat) (s : State) : State :=
  s.command h opLoadBegin 8 (fun _ => Gate.open_) (fun s => s.beginBusy target) (fun s =>
    if 3 < target || loadLimit target < total then s.respond h opLoadBegin St.badArgument []
    else if s.swapRuns || s.reachWork || ((target == 1 || target == 2) && s.slotLocked (target - 1)) then
      s.respond h opLoadBegin St.busy []
    else
      let x : LoadSess := { hdr := h, target := target, total := total, got := 0, half := none }
      if target == 0 then
        if s.inStandby then s.respond h opLoadBegin St.notPresent []
        else if s.shadowsInUse then s.respond h opLoadBegin St.busy []
        else (State.beginLoad { s with sess := some x, hostImage := none } (freshLoad .host 4 [] [])).respond h opLoadBegin St.ok []
      else (State.await { s with sess := some x } h opLoadBegin .flash).startJob h [.erase (s.targetSectors target).2])

def execLoadBegin (h : CmdHdr) (target : BitVec 8) (total : Word) (s : State) : Ans :=
  .next (doLoadBegin h target.toNat total.toNat s)

/-! ## LOAD_DATA -/

/-- The words that a message completes, from byte `a` of the target, with the half word kept before; and the half word left. -/
def pairWords (a : Nat) (half : Option (BitVec 32)) : List (BitVec 8) → List (Nat × BitVec 64) × Option (BitVec 32)
  | b0 :: b1 :: b2 :: b3 :: r =>
    let w := BitVec.ofNat 32 (fromLE [b0, b1, b2, b3])
    match half with
    | some lo =>
      let (ps, k) := pairWords (a + 4) none r
      ((a - 4, w ++ lo) :: ps, k)
    | none => pairWords (a + 4) (some w) r
  | _ => ([], half)

/-- The steps that program words: the erase of each sector on first reaching it, then its words (10 R344). -/
def progSteps (base : Nat) : List (Nat × BitVec 64) → List JobStep
  | [] => []
  | (a, v) :: r =>
    let at_ := base * 4096 + a
    (if a % 4096 == 0 then [.erase (at_ / 4096), .prog at_ v] else [.prog at_ v]) ++ progSteps base r

/-- The session belongs to the host. -/
def State.ownSession (s : State) (h : CmdHdr) : Option LoadSess := s.sess.filter (fun (x : LoadSess) => x.hdr.host == h.host)

/-- The flash cannot take the session's next operation now. -/
def State.flashTaken (s : State) : Bool := s.job.isSome || s.flState ≠ Fs.idle

/-- LOAD_DATA: the offset must equal the bytes accepted, and the total is not passed. The payloads form a host image in order
(08 R280). -/
def doLoadData (h : CmdHdr) (off : Nat) (data : List (BitVec 8)) (s : State) : State :=
  s.command h opLoadData 8 (fun _ => Gate.open_) (fun _ => false) (fun s =>
    match s.ownSession h with
    | none => s.respond h opLoadData St.notPresent []
    | some x =>
      let n := data.length
      if h.length ≠ 4 + n || n % 4 ≠ 0 || off ≠ x.got || x.total < x.got + n then s.respond h opLoadData St.badArgument []
      else if x.target == 0 then
        let s := { s with sess := some { x with got := x.got + n },
                          load := s.load.map (fun (l : Load) =>
                            { l with bytes := l.bytes ++ data, hdr := (l.bytes ++ data).take 256 }) }
        s.respond h opLoadData St.ok []
      else if s.flashTaken then s.respond h opLoadData St.busy []
      else
        let (ps, k) := pairWords x.got x.half data
        let s := { s with sess := some { x with got := x.got + n, half := k } }
        (s.await h opLoadData .flash).startJob h (progSteps (s.targetSectors x.target).1 ps))

def execLoadData (h : CmdHdr) (off : Word) (data : List (BitVec 8)) (s : State) : Ans := .next (doLoadData h off.toNat data s)

/-! ## LOAD_END (R314) -/

/-- A host image ends: what is left of it is taken and checked, then release when no image runs, or a READY host image; a
failure leaves STALE shadows (08 R280). -/
def State.endHost (s : State) (h : CmdHdr) : State :=
  let s := s.takeRest
  match s.load with
  | none => s.endSession.respond h opLoadEnd St.aborted []
  | some l =>
    let (st, at_) := s.loadVerdict l
    if st ≠ St.ok then (s.endSession.loadFail 4 st at_).respond h opLoadEnd st []
    else
      let s := { s with sess := none }
      if s.source == 0 then (s.await h opLoadEnd .load).imageTaken l
      else (State.setShadows { s with load := none, hostImage := some l } 2).respond h opLoadEnd St.ok []

/-- The half word that is left at the end, padded (10 R344). -/
def lastHalf (x : LoadSess) : List (Nat × BitVec 64) :=
  match x.half with
  | some lo => [(x.got - 4, BitVec.allOnes 32 ++ lo)]
  | none => []

/-- The words as flash will hold them. -/
def State.withWords (s : State) (base : Nat) (ps : List (Nat × BitVec 64)) : State :=
  ps.foldl (fun s (p : Nat × BitVec 64) => s.setFlWord ((base * 4096 + p.1) / 8) p.2 0) s

/-- The verdict on a written slot: its signature, then its structure (08 R276). -/
def State.slotVerdict (s : State) (i : Nat) : Nat :=
  let rd := s.slotRd i
  if s.slotUnread i || !s.signatureValid rd then St.integrityFail
  else if !s.structureValid rd || !lvdsAdmits rd then St.badArgument
  else St.ok

/-- The steps that seal slot `i`: words 1 to 3, with the CMAC of the bytes read back and of record bytes 0x00 to 0x0F, then
word 0 (08 R276). -/
def State.sealSteps (s : State) (i : Nat) : List JobStep :=
  let head := sealHead (s.slotRd i)
  let mac := s.slotMac i head
  let a := sealWord i * 8
  let w (k : Nat) : BitVec 64 := BitVec.ofNat 64 (leAt (fun n => head.getD n 0) (8 * k) 8)
  [.prog (a + 8) (w 1), .prog (a + 16) (mac.setWidth 64), .prog (a + 24) ((mac >>> 64).setWidth 64), .prog a (w 0), .sessDone]

/-- The steps that program the copy record of the other firmware copy, whose layout the spec does not give, and its VALID
mark. -/
def State.markSteps (s : State) : List JobStep × State :=
  let a := (fwSector s.otherCopy + 1023) * 4096
  let (m0, s) := s.free64
  let (m1, s) := s.free64
  let (m2, s) := s.free64
  let (m3, s) := s.free64
  ([.prog (a + 8) m1, .prog (a + 16) m2, .prog (a + 24) m3, .prog a m0, .fwDone, .sessDone], s)

/-- A slot or firmware copy ends: what is checked and sealed is what the flash holds when the last words are programmed. -/
def State.endFlash (s : State) (h : CmdHdr) (x : LoadSess) : State :=
  let base := (s.targetSectors x.target).1
  let half := lastHalf x
  let s := s.await h opLoadEnd .flash
  let s := if x.target == 3 then s.linesRead (base * 4096) (1023 * 4096) Rq.steward else s.slotRead (x.target - 1) Rq.steward
  let t := s.withWords base half
  let st := if x.target == 3 then (if t.fwPasses s.otherCopy then St.ok else St.integrityFail) else t.slotVerdict (x.target - 1)
  if st ≠ St.ok then s.startJob h (progSteps base half ++ [.result st])
  else if x.target ≠ 3 then s.startJob h (progSteps base half ++ t.sealSteps (x.target - 1))
  else
    let (steps, s) := s.markSteps
    s.startJob h (progSteps base half ++ steps)

/-- LOAD_END: before the total length has arrived it ends the session. To target 0 it is refused where the life-cycle state
does not permit an image (11 R365). -/
def doLoadEnd (h : CmdHdr) (s : State) : State :=
  s.command h opLoadEnd 0 (fun s => { Gate.open_ with lcOk := s.lcPermits || !(s.sess.any (fun (x : LoadSess) => x.target == 0)) })
    (fun _ => false) (fun s =>
    match s.ownSession h with
    | none => s.respond h opLoadEnd St.notPresent []
    | some x =>
      if x.target ≠ 0 && s.flashTaken then s.respond h opLoadEnd St.busy []
      else if x.got < x.total then s.endSession.respond h opLoadEnd St.badArgument []
      else if x.target == 0 then s.endHost h
      else s.endFlash h x)

def execLoadEnd (h : CmdHdr) (pay : List (BitVec 8)) (s : State) : Ans := .next (doLoadEnd (h.carry pay) s)

/-- LOAD_SESSION_TIMEOUT: a session without a LOAD message for 1 s ends; a LOAD message at work keeps it. -/
def doLoadSessionTimeout (s : State) : State :=
  if s.cmds.any (fun (c : Cmd) => isLoadOp c.op) then s else s.endSession

def execLoadSessionTimeout (s : State) : Ans := .next (doLoadSessionTimeout s)

/-! ## SWAP (R315; 08 R286, R287) -/

/-- A READY host image. -/
def State.readyHost (s : State) : Option Load :=
  if ((List.range s.part.dies).filter s.dieOn).all (fun d => s.fget (Csr.cfgSts d) CfgSts.shadow == 2) then s.hostImage else none

/-- A live swap begins its background load. -/
def State.beginSwap (s : State) (h : CmdHdr) (source : Nat) : State :=
  let w : SwapSt := { cmd := h, source := source, phase := .background, todo := [], pause := 0 }
  let s := State.await { s with swap := some w } h opSwap .swap
  let s := (List.range s.part.dies).foldl (fun s d => s.fset (Csr.cfgSts d) CfgSts.swap 1) s
  if source == 4 then s
  else State.beginLoad { s with hostImage := none } (s.sourceLoad .swap source [])

/-- Register entries and key of a swap source. -/
def State.swapSource (s : State) (source : Nat) : (Nat → Nat) × List (Word × Word) × Nat :=
  match s.readyHost, source with
  | some l, 4 => (listRd l.hdr, l.reginit, imgKey (listRd l.hdr))
  | _, _ => (s.slotRd (source - 1), reginitOf (s.slotRd (source - 1)), s.sealKey (source - 1))

/-- The checks of step 1 of R286, and R274 for a key that is not usable. -/
def State.swapFault (s : State) (source : Nat) : Option Nat :=
  let (rd, ps, key) := s.swapSource source
  if source ≠ 1 && source ≠ 2 && source ≠ 4 then some St.badArgument
  else if s.noLogic then some St.notPresent
  else if source == 4 && s.readyHost.isNone then some St.notPresent
  else if source == s.source && source ≠ 4 then some St.badArgument
  else if source ≠ 4 && !s.sealed (source - 1) then some St.notPresent
  else if !s.jobs.isEmpty || s.dieBusy || s.load.isSome then some St.busy
  else if (source ≠ 4 && s.slotUnread (source - 1)) || !s.keyUsable key then some St.integrityFail
  else if s.swapRefuses rd ps then some St.badArgument
  else none

/-- SWAP. -/
def doSwap (h : CmdHdr) (source : Nat) (s : State) : State :=
  s.command h opSwap 1 (fun s => { Gate.open_ with lcOk := s.lcPermits }) State.loadRow (fun s =>
    match s.swapFault source with
    | some st => s.respond h opSwap st []
    | none => s.beginSwap h source)

def execSwap (h : CmdHdr) (source : BitVec 8) (pay : List (BitVec 8)) (s : State) : Ans :=
  .next (doSwap (h.carry pay) source.toNat s)

/-! ## REACH_RELOAD (08 R293) -/

/-- A reload of a reach cannot start now: the reach is being rebuilt, held or isolated, or its shadow is in use. -/
def State.reloadBusy (s : State) (d r : Nat) : Bool :=
  (s.jobOf d r).isSome || !s.released d || (s.isolated d r && !s.swapHard) || s.inReset d r || s.dieRebuilding d ||
  s.sess.any (fun (x : LoadSess) => x.target == 0)

/-- REACH_RELOAD: the reload waits while a live swap loads or drains, and it is answered when it ends. -/
def doReachReload (h : CmdHdr) (d r : Nat) (s : State) : State :=
  s.command h opReachReload 2 (fun _ => Gate.open_) (fun _ => false) (fun s =>
    if s.noLogic || !s.dieOn d then s.respond h opReachReload St.notPresent []
    else if 15 < r then s.respond h opReachReload St.badArgument []
    else if s.gated d r then s.respond h opReachReload St.notPresent []
    else if !s.fromSlot then
      (s.notice d 0x0507 [(1, d), (1, r), (1, St.notPresent)]).respond h opReachReload St.notPresent []
    else if s.reloadBusy d r then s.respond h opReachReload St.busy []
    else (s.await h opReachReload .reachJob).startReload d r (some h))

def execReachReload (h : CmdHdr) (die reach : BitVec 8) (s : State) : Ans := .next (doReachReload h die.toNat reach.toNat s)

/-! ## OPTION_WRITE (10 R354, R357) -/

/-- Bytes of a list replaced from offset `o`. -/
def putBytes (l : List (BitVec 8)) (o : Nat) (bs : List (BitVec 8)) : List (BitVec 8) :=
  l.take o ++ bs ++ l.drop (o + bs.length)

/-- The new record: the bytes merged, SEQ + 1, and the CRC. -/
def State.newOptions (s : State) (o : Nat) (bs : List (BitVec 8)) : List (BitVec 8) :=
  let old := s.optRecord
  let l := (putBytes old o bs).take 248 ++ leBytes 4 (optSeq old + 1)
  l ++ leBytes 4 (crc32c (l.map BitVec.toNat))

/-- The eight bytes of word `i` of a list. -/
def wordOf (l : List (BitVec 8)) (i : Nat) : BitVec 64 := BitVec.ofNat 64 (fromLE ((l.drop (8 * i)).take 8))

/-- The steps of a write of the user option record: the other copy is erased and programmed, its last word last. -/
def State.optionSteps (s : State) (o : Nat) (bs : List (BitVec 8)) : List JobStep :=
  let c := match s.optCurrent with | some c => 1 - c | none => 0
  let l := s.newOptions o bs
  .erase (24448 + c) :: (List.range 32).map (fun i => .prog ((24448 + c) * 4096 + 8 * i) (wordOf l i))

/-- The steps that set the protection level. -/
def State.levelSteps (s : State) (new : Nat) : List JobStep :=
  let old := s.protLevel
  if new == old then []
  else if new < old then [.lower (levelCode new)]
  else
    let (w, wipe, v) := s.nextProt (levelCode new) 0x5A
    (if wipe then [.erase (w / 512)] else []) ++ [.prog (8 * w) v, .rdpDone old new]

/-- OPTION_WRITE. -/
def doOptionWrite (h : CmdHdr) (off : Nat) (data : List (BitVec 8)) (s : State) : State :=
  s.command h opOptionWrite 5 (fun _ => Gate.open_) State.flashRow (fun s =>
    let n := data.length
    if h.length ≠ 4 + n then s.respond h opOptionWrite St.badArgument []
    else if off + n ≤ 0xF8 then (s.await h opOptionWrite .flash).startJob h (s.optionSteps off data)
    else if off == 0x100 && n == 1 && (data.getD 0 0).toNat ≤ 2 then
      (s.await h opOptionWrite .flash).startJob h (s.levelSteps (data.getD 0 0).toNat)
    else s.respond h opOptionWrite St.badArgument [])

def execOptionWrite (h : CmdHdr) (off : Word) (data : List (BitVec 8)) (s : State) : Ans :=
  .next (doOptionWrite h off.toNat data s)

/-! ## User flash (10 R344) -/

/-- First sector and sectors of the user flash (10 R335). -/
def userFirst : Nat := 22528
def userSectors : Nat := 1920

/-- UFLASH_ERASE: sector by sector. -/
def doUflashErase (h : CmdHdr) (first count : Nat) (s : State) : State :=
  s.command h opUflashErase 8 (fun _ => Gate.open_) State.flashRow (fun s =>
    if userSectors < first + count then s.respond h opUflashErase St.badArgument []
    else (s.await h opUflashErase .flash).startJob h ((List.range count).map (fun i => .erase (userFirst + first + i))))

def execUflashErase (h : CmdHdr) (first count : Word) (s : State) : Ans := .next (doUflashErase h first.toNat count.toNat s)

/-- UFLASH_PROGRAM: word by word. -/
def doUflashProgram (h : CmdHdr) (off : Nat) (data : List (BitVec 64)) (s : State) : State :=
  s.command h opUflashProgram 4 (fun _ => Gate.open_) State.flashRow (fun s =>
    let n := data.length
    if h.length ≠ 4 + 8 * n || off % 8 ≠ 0 || userSectors * 4096 < off + 8 * n then
      s.respond h opUflashProgram St.badArgument []
    else
      (s.await h opUflashProgram .flash).startJob h
        (data.zipIdx.map (fun (x : BitVec 64 × Nat) => .prog (userFirst * 4096 + off + 8 * x.2) x.1)))

def execUflashProgram (h : CmdHdr) (off : Word) (data : List (BitVec 64)) (s : State) : Ans :=
  .next (doUflashProgram h off.toNat data s)

end Sys2Proof.Machine
end

