-- ==== Sys2Proof/Machine/Security.lean ====
section
/-! DEFINITION. Ixken commands on the OTP (11 R362 to R377): life-cycle transitions, debug certificates, OTP writes and key
revocation. -/

namespace Sys2Proof.Machine

/-! ## LC_TRANSITION (R368, Table 11-3) -/

/-- A step of a transition that programs word `i` to its pattern. -/
def lcStep (i : Nat) : JobStep := .otp i (lcPattern i)

/-- The index of the test token that an unlock names, where the transition is one. -/
def lcToken (st tgt : Nat) : Option Nat :=
  if 0x10 ≤ st && st ≤ 0x16 && tgt == 0x21 + (st - 0x10) then some (st - 0x10) else none

/-- A transition that needs OTPWR. -/
def lcNeedsRight (st tgt : Nat) : Bool := (st == 0x30 && (tgt == 0x40 || tgt == 0x60)) || (st == 0x40 && (tgt == 0x50 || tgt == 0x60))

/-- The words that a transition programs, in order, and whether it erases; none for a pair that Table 11-3 does not list. -/
def lcPlan (st tgt : Nat) : Option (List Nat × Bool × List Nat) :=
  if st == 0x60 then none
  else if tgt == 0x60 then some (if st == 0x30 || st == 0x40 then [0x15] else [], true, [0x12])
  else if st == 0x00 && tgt == 0x10 then some ([], false, [0])
  else if (lcToken st tgt).isSome then some ([], false, [2 * (st - 0x10) + 1])
  else if 0x21 ≤ st && st ≤ 0x27 && tgt == st - 0x10 then some ([], false, [2 * (st - 0x20)])
  else if 0x21 ≤ st && st ≤ 0x27 && tgt == 0x30 then some ([], false, [0x0F])
  else if st == 0x30 && tgt == 0x40 then some ([0x13], false, [0x10])
  else if st == 0x40 && tgt == 0x50 then some ([0x14], true, [0x11])
  else none

/-- The conditions of Table 11-3 that are answered BAD_ARGUMENT. -/
def State.lcReady (s : State) (st tgt : Nat) : Bool :=
  if st == 0x00 && tgt == 0x10 then s.otpPresent 0x68 2 && (List.range 7).all (fun i => s.otpPresent (0x20 + 6 * i) 6)
  else if st == 0x30 && tgt == 0x40 then (List.range 3).any s.keyUsable
  else true

/-- The blank seal-key words that the transition from RAW fills from the entropy source (R364). -/
def State.sealKeySteps (s : State) (st tgt : Nat) : List JobStep :=
  if st == 0x00 && tgt == 0x10 then
    ((List.range 4).filter (fun i => s.otpWord (0x80 + i) == 0)).map (fun i => .otp (0x80 + i) (Config.entropy (s.draws + i)))
  else []

/-- The steps of a transition in their order. -/
def State.lcStepsOf (s : State) (st tgt : Nat) (p : List Nat × Bool × List Nat) : List JobStep :=
  s.sealKeySteps st tgt ++ p.1.map lcStep ++ (if p.2.1 then [.wipe] else []) ++ p.2.2.map lcStep ++ [.lcDone st tgt]

/-- The token of a payload has the hash that OTP holds for it; where none is named it is not read. -/
def State.tokenOk (s : State) (h : CmdHdr) (tgt : Nat) : Bool :=
  match lcToken s.lcState tgt with
  | none => true
  | some i => Config.sha384 (bytesAt (listRd h.payload) 4 32) == s.keyHash (0x20 + 6 * i)

/-- What refuses an LC_TRANSITION: a right, the state INVALID but for SCRAP, or the token. -/
def State.lcGate (s : State) (h : CmdHdr) (tgt : Nat) : Gate :=
  { right := if lcNeedsRight s.lcState tgt then some Right.otpwr else none, lcOk := s.lcState ≠ Lc.invalid || tgt == 0x60,
    level := true, token := s.tokenOk h tgt }

/-- LC_TRANSITION. -/
def doLcTransition (h : CmdHdr) (tgt : Nat) (s : State) : State :=
  s.command h opLcTransition 36 (fun s => s.lcGate h tgt) State.flashRow (fun s =>
    match lcPlan s.lcState tgt with
    | none => s.respond h opLcTransition St.badArgument []
    | some p =>
      if !s.lcReady s.lcState tgt then s.respond h opLcTransition St.badArgument []
      else if p.2.1 && s.flState ≠ Fs.idle then s.respond h opLcTransition St.busy []
      else
        let steps := s.lcStepsOf s.lcState tgt p
        let s := s.await h opLcTransition .flash
        State.startJob { s with draws := s.draws + 4 } h steps)

def execLcTransition (h : CmdHdr) (target : BitVec 8) (pay : List (BitVec 8)) (s : State) : Ans :=
  .next (doLcTransition (h.carry pay) target.toNat s)

/-! ## DEBUG_CERT (R375, R376) -/

/-! The fields of a certificate (Table 11-5). -/

def certKey (rd : Nat → Nat) : Nat := rd 0x04
def certCounter (rd : Nat → Nat) : Nat := leAt rd 0x18 4
def certRights (rd : Nat → Nat) : Nat := rd 0x1C

/-- A certificate of the right length and form. -/
def certForm (h : CmdHdr) : Bool :=
  let rd := listRd h.payload
  h.length == 240 && leAt rd 0 4 == 0x54524344 && rd 5 == 1 && leAt rd 6 2 == 0 && leAt rd 0x1D 3 == 0 &&
  (bytesAt rd 0x20 16).all (· == 0) && 1 ≤ certCounter rd && certCounter rd ≤ 1024

/-- The serial number of the OTP, byte 0 first. -/
def State.serialBytes (s : State) : List Nat := leNats 8 (s.otpWord 0x68).toNat ++ leNats 8 (s.otpWord 0x69).toNat

/-- The count that a new COUNTER must pass: the one-bits of the certificate counter, with those that certificates accepted
before will still add. -/
def State.certReached (s : State) : Nat :=
  s.certs.foldl (fun n c => if c.status == St.ok then max n (certCounter (listRd c.hdr.payload)) else n) s.certCount

/-- A certificate's serial number, key, COUNTER and signature hold. -/
def State.certGood (s : State) (h : CmdHdr) : Bool :=
  let rd := listRd h.payload
  let qx := bytesAt rd 0x30 48
  let qy := bytesAt rd 0x60 48
  bytesAt rd 0x08 16 == s.serialBytes && s.keyIs (certKey rd) qx qy && s.certReached < certCounter rd &&
  Config.ecdsaOk qx qy (bytesAt rd 0x90 48) (bytesAt rd 0xC0 48) (Config.sha384 (bytesAt rd 0 0x90))

/-- The outcome of a certificate's checks. -/
def State.certStatus (s : State) (h : CmdHdr) : Nat :=
  if !certForm h then St.badArgument else if s.certGood h then St.ok else St.integrityFail

/-- Counter bits `a` to `b − 1` by the words of the OTP that hold them, ascending. -/
def counterWords (a b : Nat) : List (Nat × BitVec 64) :=
  (List.range 16).filterMap (fun w =>
    let v := ((List.range 64).filter (fun i => a ≤ 64 * w + i && 64 * w + i < b)).foldl (fun n i => n + 2 ^ i) 0
    if v == 0 then none else some (0x70 + w, BitVec.ofNat 64 v))

/-- DEBUG_CERT: the certificate is checked at its arrival; the programming of the counter begins, and the answer waits. -/
def doDebugCert (h : CmdHdr) (s : State) : State :=
  s.command h opDebugCert 0 (fun _ => Gate.open_) (fun _ => false) (fun s =>
    let st := s.certStatus h
    let ws := if st == St.ok then counterWords s.certReached (certCounter (listRd h.payload)) else []
    (State.await { s with certs := s.certs ++ [{ hdr := h, status := st, words := ws }] } h opDebugCert .cert).otpGo)

def execDebugCert (h : CmdHdr) (pay : List (BitVec 8)) (s : State) : Ans := .next (doDebugCert (h.carry pay) s)

/-- Rights join a host's record, each with the key that granted it. -/
def State.grantRights (s : State) (h : HostId) (rights key : Nat) : State :=
  let new := (bitsOf 8 rights).map (fun r => (r, key))
  { s with hosts := s.hosts.map (fun (x : HostRec) =>
      if x.host == h then { x with rights := x.rights ++ new.filter (fun (y : Nat × Nat) => !x.rights.contains y) } else x) }

/-- The words of a certificate that no OTP_WORD_PROGRAMMED has reported by the time of its answer have been programmed: 8.0 ms
hold more than the 16 word programs of 50 µs (R362, R376). -/
def State.certFinish (s : State) (c : CertSt) : State :=
  let s := if !c.words.isEmpty && s.otpBusy.any (fun (x : Nat × BitVec 64) => certWord x.1) then
      State.fset { s with otpBusy := none } Csr.otpSts OtpSts.busy 0
    else s
  c.words.foldl (fun s (x : Nat × BitVec 64) => s.otpOr x.1 x.2) s

/-- The oldest certificate takes its effect and is answered. -/
def State.certAnswer (s : State) (c : CertSt) : State :=
  let rd := listRd c.hdr.payload
  if c.status == St.ok then
    let s := (s.grantRights c.hdr.host (certRights rd) (certKey rd)).lcUpdate
    let s := s.notice stw 0x0703 [(1, certKey rd), (2, certCounter rd), (1, certRights rd)]
    s.finish c.hdr St.ok (leBytes 4 (s.rightBits c.hdr.host))
  else
    let s := if c.status == St.integrityFail then s.count Csr.lcRefuseCnt LcRefuseCnt.certFail 1 else s
    s.finish c.hdr c.status []

/-- DEBUG_CERT_RESPONSE: exactly 8.0 ms after the oldest certificate arrived. -/
def doDebugCertResponse (s : State) : State :=
  match s.certs with
  | [] => s
  | c :: r => ((State.certFinish { s with certs := r } c).certAnswer c).otpGo

def execDebugCertResponse (s : State) : Ans := .next (doDebugCertResponse s)

/-! ## OTP_WRITE (R363) -/

def otpIsTest (w : Nat) : Bool := 0x20 ≤ w && w ≤ 0x49
def otpIsSerial (w : Nat) : Bool := w == 0x68 || w == 0x69
def otpIsKey (w : Nat) : Bool := 0x50 ≤ w && w ≤ 0x61
def otpIsRevoke (w : Nat) : Bool := 0x62 ≤ w && w ≤ 0x64
def otpIsUser (w : Nat) : Bool := 0x100 ≤ w && w ≤ 0x1FF

/-- The word's range allows a write in a state (Table 11-1); words that OTP_WRITE never programs are left to the payload
checks, but in RAW, which serves the test tokens and the serial number only. -/
def otpRange (st w : Nat) : Bool :=
  if st == 0x00 then otpIsTest w || otpIsSerial w
  else if otpIsTest w || otpIsSerial w then false
  else if otpIsKey w then (0x20 < st && st ≤ 0x27) || st == 0x30
  else if otpIsUser w then st == 0x30 || st == 0x40
  else true

/-- OTPWR is needed, but in RAW and for the first owner keys of a DEV part. -/
def State.otpNeeds (s : State) (w : Nat) : Option Nat :=
  if s.lcState == 0x00 || (s.lcState == 0x30 && otpIsKey w && !s.otpPresent 0x50 18) then none else some Right.otpwr

/-- OTP_WRITE. -/
def doOtpWrite (h : CmdHdr) (w : Nat) (v : BitVec 64) (s : State) : State :=
  s.command h opOtpWrite 12
    (fun s => { Gate.open_ with right := if otpRange s.lcState w then s.otpNeeds w else none, lcOk := otpRange s.lcState w })
    State.flashRow (fun s =>
    let once := otpIsTest w || otpIsSerial w || otpIsKey w
    if !(once || otpIsUser w) || (once && s.otpWord w != 0) then s.respond h opOtpWrite St.badArgument []
    else (s.await h opOtpWrite .flash).startJob h [.otp w v])

def execOtpWrite (h : CmdHdr) (word : BitVec 16) (v : BitVec 64) (s : State) : Ans := .next (doOtpWrite h word.toNat v s)

/-! ## KEY_REVOKE (R374) -/

/-- The 24 bytes that the signature of a revocation covers. -/
def State.revokeText (s : State) (key signer : Nat) : List Nat :=
  leNats 4 0x5645524B ++ s.serialBytes ++ [key, signer, 0, 0]

/-- The signer of a revocation is usable, and the signature of the payload holds. -/
def State.revokeSigned (s : State) (h : CmdHdr) (key signer : Nat) : Bool :=
  let rd := listRd h.payload
  let qx := bytesAt rd 8 48
  let qy := bytesAt rd 56 48
  s.keyIs signer qx qy &&
  Config.ecdsaOk qx qy (bytesAt rd 104 48) (bytesAt rd 152 48) (Config.sha384 (s.revokeText key signer))

/-- KEY_REVOKE. -/
def doKeyRevoke (h : CmdHdr) (key signer : Nat) (s : State) : State :=
  s.command h opKeyRevoke 200 (fun _ => Gate.open_) State.flashRow (fun s =>
    if 2 < key || !s.keyPresent key || !((List.range 3).any (fun i => i ≠ key && s.keyUsable i)) then
      s.respond h opKeyRevoke St.badArgument []
    else if !s.revokeSigned h key signer then s.respond h opKeyRevoke St.integrityFail []
    else if s.otpWord (0x62 + key) != 0 then s.respond h opKeyRevoke St.ok []
    else (s.await h opKeyRevoke .flash).startJob h [.otp (0x62 + key) ones64, .keyDone key signer])

def execKeyRevoke (h : CmdHdr) (key signer : BitVec 8) (pay : List (BitVec 8)) (s : State) : Ans :=
  .next (doKeyRevoke (h.carry pay) key.toNat signer.toNat s)

end Sys2Proof.Machine
end

