-- ==== Sys2Proof/Machine/Notices.lean ====
section
/-! DEFINITION. Notices on their way to hosts (09 R316 to R320, R434) and the addressing of the transports (09 R301, R302): the
notice ditch, delivery, MCTP control messages and I3C addresses. -/

namespace Sys2Proof.Machine

/-! ## The notice ditch (R318, R434) -/

def NoticeDitch.drain (x : NoticeDitch) : List Notice := if x.drain1 then x.bank1 else x.bank0
def NoticeDitch.fill (x : NoticeDitch) : List Notice := if x.drain1 then x.bank0 else x.bank1
def NoticeDitch.setDrain (x : NoticeDitch) (l : List Notice) : NoticeDitch :=
  if x.drain1 then { x with bank1 := l } else { x with bank0 := l }
def NoticeDitch.setFill (x : NoticeDitch) (l : List Notice) : NoticeDitch :=
  if x.drain1 then { x with bank0 := l } else { x with bank1 := l }

/-- The banks exchange roles when the draining one is empty and the filling one is not (07 R254). -/
def NoticeDitch.exchange (x : NoticeDitch) : NoticeDitch :=
  if x.drain.isEmpty && !x.fill.isEmpty then { x with drain1 := !x.drain1 } else x

/-- The most urgent notice, and the earliest among equals. -/
def bestNotice : List Notice → Option Notice
  | [] => none
  | i :: is =>
    match bestNotice is with
    | none => some i
    | some j => if i.prio ≤ j.prio then some i else some j

/-- A notice is overwritten: ND_CNT.LOST and the count of every host advance (R319). -/
def State.noticeOverwritten (s : State) : State :=
  let s := s.count Csr.ndCnt NdCnt.lost 1
  { s with hosts := s.hosts.map (fun (r : HostRec) => { r with overw := min (2 ^ 32 - 1) (r.overw + 1) }) }

/-- The next queue in round-robin order that is not empty. -/
def State.nextQueue (s : State) : Option Nat :=
  ((List.range 9).map (fun i => (s.nditch.rr + i) % 9)).find? (fun j => !(SMap.get [] s.queues j).isEmpty)

/-- NOTICE_DITCH_STORE: the ditch takes one notice; a full filling bank loses its oldest (07 R256). -/
def doNoticeDitchStore (s : State) : State :=
  match s.nextQueue with
  | none => s
  | some j =>
    match SMap.get [] s.queues j with
    | [] => s
    | n :: q =>
      let x := { s.nditch.exchange with rr := (j + 1) % 9 }
      let s := { s with queues := SMap.set [] s.queues j q }
      if x.fill.length < 256 then { s with nditch := x.setFill (x.fill ++ [n]) }
      else State.noticeOverwritten { s with nditch := x.setFill (x.fill.tail ++ [n]) }

def execNoticeDitchStore (s : State) : Ans := .next (doNoticeDitchStore s)

/-! ## Items and headers (Tables 09-2, 09-5) -/

/-- The 32 bytes of a notice item: its stamp completed (R84), as chain time when its flag says so. -/
def State.itemBytes (s : State) (n : Notice) : List (BitVec 8) :=
  let ms := fullStamp s.refMs n.ms + (if n.chainTime then s.tow.ofs else 0)
  leBytes 2 n.code ++ leBytes 1 n.die ++ leBytes 1 (n.prio + 8 * b2n n.chainTime + 16 * b2n n.poison) ++ leBytes 4 0 ++
  leBytes 8 (wrapInt 64 ms) ++ leBytes 16 n.payload.toNat

/-- The header of a notice. -/
def noticeHeader (seq overw chain : Nat) : List (BitVec 8) :=
  leBytes 2 0xFF01 ++ leBytes 2 0 ++ leBytes 2 32 ++ leBytes 1 chain ++ leBytes 1 2 ++ leBytes 2 0 ++ leBytes 2 seq ++
  leBytes 2 overw ++ leBytes 2 0

/-! ## Delivery (R319) -/

/-- The ring takes no notice. -/
def State.ringBlocked (s : State) : Bool :=
  !s.functionExists || !s.fbit Csr.mbNtcCtrl MbNtcCtrl.en ||
  (s.fget Csr.mbNtcProd MbNtcProd.prod + 512 - s.fget Csr.mbNtcCons MbNtcCons.cons) % 512 == 256

/-- A notice is lost in delivery to a host of a transport. -/
def State.deliveryBlocked (s : State) (v : Via) : Bool :=
  match v with
  | .mailbox _ => s.ringBlocked
  | .vdm p => !s.portUp p.val || SMap.get 0 s.trans.eids p.val == 0
  | _ => false

/-- A ring entry is written, then MB_NTC_PROD advances, then vector 1 is signalled. -/
def State.ringPut (s : State) (bytes : List (BitVec 8)) : State :=
  let p := s.fget Csr.mbNtcProd MbNtcProd.prod
  let s := s.barPut (0x4000 + 64 * (p % 256)) bytes
  (s.fset Csr.mbNtcProd MbNtcProd.prod ((p + 1) % 512)).msix 1

def State.putHost (s : State) (r : HostRec) : State :=
  { s with hosts := s.hosts.map (fun (x : HostRec) => if x.host == r.host then r else x) }

/-- A notice that was lost. -/
def HostRec.lose (r : HostRec) : HostRec := { r with lost := min (2 ^ 32 - 1) (r.lost + 1) }

/-- One notice for one host: SEQ advances whether it is delivered or lost. -/
def State.deliverTo (s : State) (item : List (BitVec 8)) (chain : Nat) (r : HostRec) : State :=
  let r' := { r with seq := (r.seq + 1) % 65536 }
  if s.deliveryBlocked r.via then
    let s := s.putHost r'.lose
    match r.via with
    | .mailbox _ => s.count Csr.mbNtcLost MbNtcLost.lost 1
    | _ => s
  else
    let ov := min 65535 (r.overw - r.overBase)
    let s := s.putHost { r' with overBase := r.overw, overPrev := r.overBase }
    let s := s.emit (.notice r.host r.seq ov chain item)
    match r.via with
    | .mailbox _ => s.ringPut (noticeHeader r.seq ov chain ++ item ++ List.replicate 16 0)
    | _ => s

/-- A notice goes to every host whose mask has the bit of its range. A host of the chain's head that came over the towpath
gets it from the head (R320). -/
def State.deliverAll (s : State) (item : List (BitVec 8)) (code chain : Nat) (not_ : List HostId) : State :=
  (s.hosts.filter (fun (r : HostRec) => bitOf r.mask.toNat (code / 256) && r.via ≠ .towpath && !not_.contains r.host)).foldl
    (fun s r => s.deliverTo item chain r) s

/-- The package is a member of a chain: it has an address and is not the head. -/
def State.isMember (s : State) : Bool := !s.actingHead && s.towAddr ≠ 0xFF

/-- NOTICE_DELIVER: Ixken pops one notice; an item that fails parity is sent with POISON. A member forwards it to the head. -/
def doNoticeDeliver (s : State) : State :=
  if !s.fbit Csr.mbInfo MbInfo.ready then s
  else
    let x := s.nditch.exchange
    match bestNotice x.drain with
    | none => { s with nditch := x }
    | some n =>
      let s := State.count { s with nditch := x.setDrain (x.drain.erase n) } Csr.ndDelivCnt NdDelivCnt.popped 1
      let s := if n.poison then s.count Csr.ndCnt NdCnt.parity 1 else s
      let item := s.itemBytes n
      let s := s.deliverAll item n.code s.ownAddr []
      if s.isMember then s.towHome Ft.notice ((noticeHeader 0 0 s.ownAddr ++ item).map BitVec.toNat) else s

def execNoticeDeliver (s : State) : Ans := .next (doNoticeDeliver s)

/-- A host of the I3C/SMBus target. -/
def onTarget : Via → Bool
  | .i3c _ | .smbus _ => true
  | _ => false

/-- NOTICE_DELIVERY_TIMEOUT: the notice sent last to a host of the I3C/SMBus target was not accepted. -/
def doNoticeDeliveryTimeout (h : HostId) (s : State) : State :=
  match s.hostRec h with
  | none => s
  | some r =>
    if onTarget r.via then s.putHost { r.lose with overBase := r.overPrev } else s

def execNoticeDeliveryTimeout (h : HostId) (s : State) : Ans := .next (doNoticeDeliveryTimeout h s)

/-! ## MCTP control messages (R301) -/

def mcSetEid : Nat := 1
def mcGetEid : Nat := 2
def mcVersion : Nat := 4
def mcTypes : Nat := 5
def mcVendor : Nat := 6

/-- The port answers MCTP control messages. -/
def State.mctpPort (s : State) (p : Nat) : Bool := s.portUp p && s.fbit Csr.mbInfo MbInfo.ready

/-- SET_ENDPOINT_ID: the port takes the EID. The null and broadcast EIDs are answered as invalid data (log entry 57). -/
def doSetEndpointId (p eid : Nat) (s : State) : State :=
  if !s.mctpPort p then s
  else if eid == 0 || eid == 0xFF then s.emit (.mctp p mcSetEid [2])
  else
    let t := { s.trans with eids := SMap.set 0 s.trans.eids p (BitVec.ofNat 8 eid) }
    State.emit { s with trans := t } (.mctp p mcSetEid [0, eid])

/-- GET_ENDPOINT_ID. -/
def doGetEndpointId (p : Nat) (s : State) : State :=
  if !s.mctpPort p then s else s.emit (.mctp p mcGetEid [0, (SMap.get 0 s.trans.eids p).toNat])

/-- GET_MCTP_VERSION_SUPPORT: the version number is a value that the spec does not give. -/
def doGetMctpVersionSupport (p : Nat) (s : State) : State :=
  if !s.mctpPort p then s
  else
    let (n, s) := s.draw
    s.emit (.mctp p mcVersion (0 :: 1 :: leNats 4 (Config.freeWord n).toNat))

/-- GET_MESSAGE_TYPE_SUPPORT: one message type, 0x7E. -/
def doGetMessageTypeSupport (p : Nat) (s : State) : State :=
  if !s.mctpPort p then s else s.emit (.mctp p mcTypes [0, 1, 0x7E])

/-- GET_VENDOR_DEFINED_MSG_SUPPORT: the PCI vendor ID of Munirex, which the spec does not give. -/
def doGetVendorDefinedMsgSupport (p : Nat) (s : State) : State :=
  if !s.mctpPort p then s else s.emit (.mctp p mcVendor ([0, 0xFF, 0] ++ leNats 2 Config.vendorId.toNat))

def execSetEndpointId (p : PortNo) (eid : BitVec 8) (s : State) : Ans := .next (doSetEndpointId p.val eid.toNat s)
def execGetEndpointId (p : PortNo) (s : State) : Ans := .next (doGetEndpointId p.val s)
def execGetMctpVersionSupport (p : PortNo) (s : State) : Ans := .next (doGetMctpVersionSupport p.val s)
def execGetMessageTypeSupport (p : PortNo) (s : State) : Ans := .next (doGetMessageTypeSupport p.val s)
def execGetVendorDefinedMsgSupport (p : PortNo) (s : State) : Ans := .next (doGetVendorDefinedMsgSupport p.val s)

/-! ## I3C addresses (R302) -/

/-- ENTDAA: the target takes a dynamic address. -/
def doEntdaa (a : BitVec 7) (s : State) : State :=
  if s.fbit Csr.pinEn PinEn.tgt then { s with trans := { s.trans with i3c := some a } } else s

/-- SETDASA: addressed by the option area's I3C_STATIC. -/
def doSetdasa (static a : BitVec 7) (s : State) : State :=
  if s.fbit Csr.pinEn PinEn.tgt && static.toNat == s.opt 0x10 % 128 then { s with trans := { s.trans with i3c := some a } } else s

def execEntdaa (addr : BitVec 7) (s : State) : Ans := .next (doEntdaa addr s)
def execSetdasa (static addr : BitVec 7) (s : State) : Ans := .next (doSetdasa static addr s)

end Sys2Proof.Machine
end

