-- ==== Sys2Proof/Machine/Towpath.lean ====
section
/-! DEFINITION. The towpath (09 R320 to R330): links, frames and their acknowledgement, relaying, enumeration, breaks, chain
milestones, and reset kind T. -/

namespace Sys2Proof.Machine

/-! ## Relaying (R322, R323) -/

/-- A frame that came in by a port leaves by the other one; a frame for the head that finds that link down turns back
(R327). -/
def State.towRelay (s : State) (f : Frame) (ty : Nat) (home : Bool) : State :=
  let body := f.body.map BitVec.toNat
  let send (out : Bool) : State :=
    (s.towSendFrom out ty f.dest.toNat f.src.toNat body).count Csr.towRelayCnt TowRelayCnt.frames 1
  if s.towUp (!f.onOut) then send (!f.onOut) else if home && s.towUp f.onOut then send f.onOut else s

/-- A received frame: NAKed when its CRC fails, else acknowledged and taken. -/
def State.towTake (s : State) (f : Frame) (take : State → State) : State :=
  if !f.crcOk then s.towReply f.onOut Ft.nak f.lseq.toNat else take (s.towReply f.onOut Ft.ack f.lseq.toNat)

/-- ACK: frames up to LSEQ need no resending, and frames that waited are sent. -/
def doTowAck (out : Bool) (lseq : Nat) (s : State) : State :=
  let l := s.towLink out
  match l.sent.findIdx? (fun (f : TowFrame) => f.lseq == lseq) with
  | none => s
  | some i => (s.setTowLink out { l with sent := l.sent.drop (i + 1) }).towDrain out l.wait.length

def execTowAck (out : Bool) (lseq : BitVec 8) (s : State) : Ans := .next (doTowAck out lseq.toNat s)

/-! ## Links (R321, R327) -/

/-- The report of a break or of its end: a notice frame, upstream and downstream. -/
def State.towReport (s : State) (code before after : Nat) : State :=
  let n : Notice :=
    { code := code, die := stw, prio := noticePrio code, chainTime := false, poison := false, ms := s.refMs % 2 ^ 24,
      payload := packFields [(1, before), (1, after)] }
  let body := (noticeHeader 0 0 s.ownAddr ++ s.itemBytes n).map BitVec.toNat
  (s.towSend true Ft.notice 0 body).towSend false Ft.notice 0 body

/-- The head learns of a break after address `b`. -/
def State.addBreak (s : State) (b after : Nat) : State :=
  if s.tow.breaks.contains b then s
  else
    let s := { s with tow := { s.tow with breaks := s.tow.breaks ++ [b] } }
    (s.flag Csr.towSts TowSts.lineMode).notice stw 0x0903 [(1, b), (1, after)]

/-- The head learns that the break after address `b` has ended. -/
def State.endBreak (s : State) (b : Nat) : State :=
  if !s.tow.breaks.contains b then s
  else
    let s := { s with tow := { s.tow with breaks := s.tow.breaks.erase b } }
    let s := if s.tow.breaks.isEmpty then s.fset Csr.towSts TowSts.lineMode 0 else s
    s.notice stw 0x0904 [(1, b)]

/-- The addresses before and after the link at a port. -/
def State.breakAt (s : State) (out : Bool) : Nat × Nat :=
  let a := s.towAddr
  if out then (a, if a + 1 == s.fget Csr.towSts TowSts.size then 0 else a + 1)
  else if a == 0 then (s.fget Csr.towSts TowSts.size - 1, 0) else (a - 1, a)

/-- A port goes down: what it had sent is lost; after enumeration the ring has a break. -/
def State.towDown (s : State) (out : Bool) : State :=
  if !s.towUp out then s
  else
    let s := s.fset Csr.towSts (if out then TowSts.outUp else TowSts.inUp) 0
    let s := (s.setTowLink out TowLink.reset).count Csr.towCnt TowCnt.downs 1
    let (b, a) := s.breakAt out
    if !s.fbit Csr.towSts TowSts.enumDone then s
    else if s.actingHead then s.addBreak b a
    else s.towReport 0x0903 b a

/-- TOW_LINK_DOWN. -/
def doTowLinkDown (out : Bool) (s : State) : State := s.towDown out

def execTowLinkDown (out : Bool) (s : State) : Ans := .next (doTowLinkDown out s)

/-- A package that lost its address under P sends REJOIN once its links have trained (R327). -/
def State.sendRejoin (s : State) : State :=
  if s.tow.reenum && !s.actingHead && s.towUp true && s.towUp false then
    (State.towSend { s with tow := { s.tow with reenum := false } } false Ft.rejoin 0 [])
  else s

/-- The link at a port is up again: a break there has ended. -/
def State.towMended (s : State) (out : Bool) : State :=
  let (b, a) := s.breakAt out
  if !s.fbit Csr.towSts TowSts.enumDone then s
  else if s.actingHead then s.endBreak b
  else s.towReport 0x0904 b a

/-- TOW_LINK_TRAINED: `xswap` when the pairs were found exchanged, `revd` when the two ports exchange their roles; either
correction is reported. -/
def doTowLinkTrained (out xswap revd : Bool) (s : State) : State :=
  if s.towUp out then s
  else
    let s := s.flag Csr.towSts (if out then TowSts.outUp else TowSts.inUp)
    let s := s.fset Csr.towSts (if out then TowSts.outXswap else TowSts.inXswap) (b2n xswap)
    let s := if xswap then s.notice stw 0x0907 [(1, b2n out), (1, 0)] else s
    let s := if revd then (s.flag Csr.towSts TowSts.reversed).notice stw 0x0907 [(1, b2n out), (1, 1)] else s
    (s.towMended out).sendRejoin

def execTowLinkTrained (out xswap revd : Bool) (s : State) : Ans := .next (doTowLinkTrained out xswap revd s)

/-- NAK: the frame is sent again; its third failure takes the link down (R322). -/
def doTowNak (out : Bool) (lseq : Nat) (s : State) : State :=
  let l := s.towLink out
  match l.sent.find? (fun (f : TowFrame) => f.lseq == lseq) with
  | none => s
  | some f =>
    if 2 ≤ f.fails then s.towDown out
    else
      let f' := { f with fails := f.fails + 1 }
      let s := s.setTowLink out { l with sent := l.sent.map (fun (x : TowFrame) => if x == f then f' else x) }
      (s.towPut out f').count Csr.towCnt TowCnt.retries 1

def execTowNak (out : Bool) (lseq : BitVec 8) (s : State) : Ans := .next (doTowNak out lseq.toNat s)

/-! ## Messages (R325) -/

/-- A byte of a frame's body. -/
def bodyAt (f : Frame) (i : Nat) : Nat := (f.body.getD i 0).toNat

/-- A response reaches the head: it answers the relayed command of its tag, or a broadcast one. -/
def State.relayedAnswer (s : State) (f : Frame) (bc : Bool) : State :=
  let op := bodyAt f 0 + 256 * bodyAt f 1
  let tag := bodyAt f 2 + 256 * bodyAt f 3
  let chain := bodyAt f 6
  let st := bodyAt f 8
  let payload := f.body.drop 16
  if bc then
    match s.tow.bcasts.find? (fun (x : CmdHdr × Nat × Nat) => x.1.tag.toNat == tag && x.2.1 == op) with
    | some (h, o, n) =>
      let rest := s.tow.bcasts.erase (h, o, n)
      let s := { s with tow := { s.tow with bcasts := if n ≤ 1 then rest else rest ++ [(h, o, n - 1)] } }
      s.respondFrom h op st chain payload
    | none => s
  else
    match s.cmds.find? (fun (c : Cmd) => c.work == Work.relay && c.hdr.tag.toNat == tag && c.hdr.chain.toNat == chain) with
    | some c =>
      let s := { s with cmds := s.cmds.erase c }
      (s.respondFrom c.hdr c.op st chain payload).answerAborts st c.aborts
    | none => s

/-- TOWPATH_MESSAGE_FRAME: the head consumes responses; a member consumes a command for its address, which its own row
then carries out, and a broadcast one, which it also relays; every other frame is relayed. -/
def doTowpathMessageFrame (f : Frame) (isResponse bc : Bool) (s : State) : State :=
  s.towTake f (fun s =>
    if s.actingHead then (if isResponse then s.relayedAnswer f bc else s)
    else if isResponse then s.towRelay f Ft.message true
    else if bc then s.towRelay f Ft.message false
    else if f.dest.toNat == s.towAddr && s.towAddr ≠ 0xFF then s
    else s.towRelay f Ft.message false)

def execTowpathMessageFrame (f : Frame) (isResponse bcast : Bool) (s : State) : Ans :=
  .next (doTowpathMessageFrame f isResponse bcast s)

/-- TOWPATH_NOTICE_FRAME: relayed toward the head; the head takes the reports of breaks, and delivers a member's notice to
its own hosts, not to those it shares with the member (R320). -/
def doTowpathNoticeFrame (f : Frame) (code : Nat) (shared : List HostId) (s : State) : State :=
  s.towTake f (fun s =>
    if !s.actingHead then s.towRelay f Ft.notice true
    else if code == 0x0903 then s.addBreak (bodyAt f 32) (bodyAt f 33)
    else if code == 0x0904 then s.endBreak (bodyAt f 32)
    else if s.fbit Csr.mbInfo MbInfo.ready then s.deliverAll ((f.body.drop 16).take 32) code f.src.toNat shared
    else s)

def execTowpathNoticeFrame (f : Frame) (code : BitVec 16) (sharedHosts : List HostId) (s : State) : Ans :=
  .next (doTowpathNoticeFrame f code.toNat sharedHosts s)

/-! ## Enumeration (R324 to R327) -/

/-- The package is ready: its start-up load has ended and TOW_OUT has trained. -/
def State.towReady (s : State) : Bool := s.tow.started && s.towUp true

/-- The serial number of the package (11 Table 11-1). -/
def State.ownSerial (s : State) : Nat := (s.otpWord 0x69 ++ s.otpWord 0x68).toNat

/-- The body of an ENUM frame: NEXT, OVERFLOW and the serial number of the head, 16 bytes (its form is the model's, log entry
120). -/
def enumBody (t : EnumToken) : List Nat := [t.next, b2n t.ovf] ++ leNats 16 t.serial

/-- The token of a received ENUM frame, with its fields NEXT and OVERFLOW. -/
def tokenOf (f : Frame) (next : Nat) (ovf : Bool) : EnumToken :=
  { next := next, ovf := ovf, serial := fromLE ((f.body.drop 2).take 16) }

/-- Step 1: the head takes address 0 and sends the token. -/
def State.startEnum (s : State) : State :=
  let s := { s with tow := { s.tow with enumBusy := true, acked := [], overflow := false, readyAt := s.refMs, breaks := [] } }
  let s := ((s.fset Csr.towSts TowSts.addr 0).fset Csr.towSts TowSts.enumDone 0).fset Csr.towSts TowSts.lineMode 0
  s.towSend true Ft.enum 0xFF (enumBody { next := 1, ovf := false, serial := s.ownSerial })

/-- ENUMERATION_START: the head has become ready. -/
def doEnumerationStart (s : State) : State :=
  if s.actingHead && s.towReady && !s.tow.enumBusy && s.towAddr == 0xFF then s.startEnum else s

def execEnumerationStart (s : State) : Ans := .next (doEnumerationStart s)

/-- Step 2: the package takes the token's address, acknowledges it with its serial number, and forwards. Step 3: with NEXT = 64
it takes none and sets OVERFLOW. -/
def State.forwardToken (s : State) (t : EnumToken) : State :=
  let s := { s with tow := { s.tow with token := none } }
  if 64 ≤ t.next then s.towSend true Ft.enum 0xFF (enumBody { t with next := 64, ovf := true })
  else
    let s := (s.fset Csr.towSts TowSts.addr t.next).flag Csr.towSts TowSts.enumDone
    (s.towSend false Ft.enumAck 0 ([t.next] ++ leNats 16 s.ownSerial)).towSend true Ft.enum 0xFF
      (enumBody { t with next := t.next + 1 })

/-- A package that was known before stands at another address now, or at none. -/
def addrsMoved (old new : List (Nat × Nat)) : Bool := old.any (fun x => !new.contains x)

/-- The chain is counted: SIZE, ENUM_DONE, and the answers that waited. -/
def State.enumDone (s : State) (next : Nat) (ov : Bool) : State :=
  let n := min 64 next
  let old := s.tow.former
  let us := (s.refMs - s.tow.readyAt) / 1000
  let s := { s with tow := { s.tow with enumBusy := false, overflow := ov, former := none, synced := false } }
  let s := (s.fset Csr.towSts TowSts.size n).flag Csr.towSts TowSts.enumDone
  let s := s.notice stw 0x0901 [(1, n), (1, b2n ov), (4, us)]
  let s := match old with
    | some o => s.notice stw 0x090B [(1, n), (1, b2n (addrsMoved o s.tow.acked))]
    | none => s
  s.finishWork .chainEnum St.ok (leBytes 1 n)

/-- The package acts as a member from now on (R326). -/
def State.defer_ (s : State) (other : Nat) : State :=
  let s := { s with tow := { s.tow with enumBusy := false, former := none } }
  let s := (s.flag Csr.towSts TowSts.headDeferred).fset Csr.towSts TowSts.addr 0xFF
  let s := s.notice stw 0x090A [(8, other % 2 ^ 64)]
  s.finishWork .chainEnum St.aborted []

/-- A member holds the token until it is ready. -/
def State.holdToken (s : State) (t : EnumToken) : State :=
  if s.towReady then s.forwardToken t else { s with tow := { s.tow with token := some t } }

/-- A token reaches a package: on the head its own, or another head's. -/
def State.takeToken (s : State) (t : EnumToken) : State :=
  if !s.actingHead then s.holdToken t
  else if t.serial == s.ownSerial then (if s.tow.enumBusy then s.enumDone t.next t.ovf else s)
  else if t.serial < s.ownSerial then (s.defer_ t.serial).holdToken t
  else s

/-- ENUM. -/
def doTowEnum (f : Frame) (next : Nat) (ovf : Bool) (s : State) : State :=
  s.towTake f (fun s => s.takeToken (tokenOf f next ovf))

def execTowEnum (f : Frame) (next : BitVec 8) (ovf : Bool) (s : State) : Ans := .next (doTowEnum f next.toNat ovf s)

/-- ENUM_TOKEN_FORWARD. -/
def doEnumTokenForward (s : State) : State :=
  match s.tow.token with
  | some t => if s.towReady then s.forwardToken t else s
  | none => s

def execEnumTokenForward (s : State) : Ans := .next (doEnumTokenForward s)

/-- The head notes an address with the serial number of its package. -/
def State.noteAck (s : State) (a serial : Nat) : State :=
  { s with tow := { s.tow with acked := s.tow.acked.filter (fun (x : Nat × Nat) => x.1 ≠ a) ++ [(a, serial)] } }

/-- ENUM_ACK: noted by the head, relayed toward it by a member. -/
def doEnumAck (f : Frame) (s : State) : State :=
  s.towTake f (fun s =>
    if !s.actingHead then s.towRelay f Ft.enumAck true
    else if s.tow.enumBusy then s.noteAck (bodyAt f 0) (fromLE ((f.body.drop 1).take 16))
    else s)

def execEnumAck (f : Frame) (s : State) : Ans := .next (doEnumAck f s)

/-- ENUM_TIMEOUT: the packages found are served (R325). -/
def doEnumTimeout (s : State) : State :=
  if !s.tow.enumBusy then s
  else
    let n := (s.tow.acked.map (·.1)).foldl max 0 + 1
    let s := State.fset { s with tow := { s.tow with enumBusy := false, former := none } } Csr.towSts TowSts.size n
    (s.notice stw 0x0902 [(1, n)]).finishWork .chainEnum St.timeout (leBytes 1 n)

def execEnumTimeout (s : State) : Ans := .next (doEnumTimeout s)

/-- REJOIN: the head enumerates again; a member relays the frame toward it. -/
def doRejoin (f : Frame) (s : State) : State :=
  s.towTake f (fun s =>
    if !s.actingHead then s.towRelay f Ft.rejoin true
    else if s.tow.enumBusy then s
    else State.startEnum { s with tow := { s.tow with former := some s.tow.acked } })

def execRejoin (f : Frame) (s : State) : Ans := .next (doRejoin f s)

/-- CHAIN_STATUS. -/
def doChainStatus (h : CmdHdr) (s : State) : State :=
  s.command h opChainStatus 0 (fun _ => Gate.open_) (fun _ => false) (fun s =>
    let flags := b2n (s.fbit Csr.towSts TowSts.enumDone) + 2 * b2n s.tow.synced + 4 * s.fget Csr.towSts TowSts.lineMode +
      8 * b2n s.tow.overflow
    let brk := match s.tow.breaks with | [] => 0xFF | b :: r => r.foldl min b
    s.respond h opChainStatus St.ok (leBytes 1 (s.fget Csr.towSts TowSts.size) ++ leBytes 1 flags ++ leBytes 1 brk ++
      leBytes 1 0 ++ leBytes 4 s.tow.theta))

def execChainStatus (h : CmdHdr) (s : State) : Ans := .next (doChainStatus h s)

/-- CHAIN_ENUM: answered when the enumeration that it starts has ended. -/
def doChainEnum (h : CmdHdr) (s : State) : State :=
  s.command h opChainEnum 0 (fun _ => Gate.open_) (fun _ => false) (fun s =>
    if !s.actingHead then s.respond h opChainEnum St.badArgument []
    else if s.tow.enumBusy then s.respond h opChainEnum St.busy []
    else (s.await h opChainEnum .chainEnum).startEnum)

def execChainEnum (h : CmdHdr) (s : State) : Ans := .next (doChainEnum h s)

/-! ## Chain milestone (R328, R329) -/

/-- SYNC_EXCHANGE: a member sends SYNC_REQ to its neighbour toward the head. -/
def doSyncExchange (s : State) : State :=
  if s.isMember && s.fbit Csr.towSts TowSts.enumDone && s.fbit Csr.towCtrl TowCtrl.syncEn then
    s.towSend (!s.towUp false) Ft.syncReq 0xFF []
  else s

def execSyncExchange (s : State) : Ans := .next (doSyncExchange s)

/-- SYNC_REQ: the stamps of arrival and reply go back by the port. -/
def doSyncReq (f : Frame) (t2 t3 : Int) (s : State) : State :=
  s.towTake f (fun s => s.towSend f.onOut Ft.syncRsp f.src.toNat (leNats 8 (wrapInt 64 t2) ++ leNats 8 (wrapInt 64 t3)))

def execSyncReq (f : Frame) (t2 t3 : Int) (s : State) : Ans := .next (doSyncReq f t2 t3 s)

/-- θ of an exchange, in ps. -/
def syncTheta (t1 t2 t3 t4 : Int) : Int := ((t2 - t1) - (t4 - t3)) / 2

/-- TOW_MS_ERR takes θ, saturating. -/
def State.showTheta (s : State) (th : Int) : State :=
  s.fset Csr.towMsErr TowMsErr.theta (wrapInt 16 (max (-32767) (min 32767 th)))

/-- A member's correction: the first exchange sets the chain offset by the whole nanoseconds of θ, and what is left of it is
slewed. Of a later θ, the part that no earlier θ had told is a drift: per µs since the last exchange it joins the standing rate,
and θ itself is slewed (log entry 121). -/
def State.correct (s : State) (th : Int) : State :=
  let sl := s.tow.slew
  let fs := th * 1000
  if !s.tow.exchanged then
    let ns := Int.tdiv th 1000
    { s with tow := { s.tow with ofs := s.tow.ofs + ns, exchanged := true,
                                 slew := { sl with rest := fs - ns * 1000000, drift := 0, at_ := s.refMs } } }
  else
    let us := ((s.refMs - sl.at_) / 1000 : Nat)
    let rate := if us == 0 then 0 else Int.tdiv (fs - sl.rest) us
    { s with tow := { s.tow with slew := { sl with rest := fs, drift := sl.drift + rate, at_ := s.refMs } } }

/-- A member measures θ: within 6 ns it is in bound; above that it loses sync, which each such measurement reports (R329). -/
def State.measured (s : State) (th : Int) : State :=
  let s := (s.showTheta th).correct th
  let s := { s with tow := { s.tow with theta := max s.tow.theta th.natAbs } }
  if th.natAbs ≤ 6000 then
    State.flag { s with tow := { s.tow with fast := false } } Csr.towSts TowSts.msSync
  else
    (State.fset { s with tow := { s.tow with fast := true } } Csr.towSts TowSts.msSync 0).noticeLim stw 0x0906 0
      [(1, s.towAddr), (4, wrapInt 32 th)]

/-- Chain synchronisation has ended, with the largest |θ| (R329). -/
def State.chainSynced (s : State) (th : Nat) : State :=
  if !s.fbit Csr.towSts TowSts.enumDone || s.tow.synced || !s.fbit Csr.towCtrl TowCtrl.syncEn then s
  else
    let s := State.flag { s with tow := { s.tow with synced := true, theta := th } } Csr.towSts TowSts.msSync
    s.notice stw 0x0905 [(1, s.fget Csr.towSts TowSts.size), (4, th)]

/-- A stamp in a frame's body, signed ps. -/
def stampAt (f : Frame) (i : Nat) : Int := signedOf 64 (fromLE ((f.body.drop i).take 8))

/-- SYNC_RSP: it carries t2 and t3. At a member, an exchange ends; at the head the row stands for the end of chain
synchronisation with the largest |θ|, `worst` (log entry 58). -/
def doSyncRsp (f : Frame) (t1 t4 : Int) (worst : Nat) (s : State) : State :=
  let th := syncTheta t1 (stampAt f 0) (stampAt f 8) t4
  s.towTake f (fun s => if s.actingHead then s.chainSynced worst else if s.isMember then s.measured th else s)

def execSyncRsp (f : Frame) (t1 t4 : Int) (worst : Nat) (s : State) : Ans := .next (doSyncRsp f t1 t4 worst s)

/-- One µs of a member's slewing: its standing rate and what is left of θ, at most 1 ns; whole nanoseconds move the package
reference by `c` (R195, R328). -/
def Slew.step (sl : Slew) : Int × Slew :=
  let d := max (-1000000) (min 1000000 (sl.drift + sl.rest))
  let f := sl.frac + d
  (f / 1000000, { sl with frac := f % 1000000, rest := sl.rest - (d - sl.drift) })

/-! ## Reset kind T (R330) -/

/-- Block 0x3 and the towpath state return to their Reset values. -/
def State.resetTow (s : State) : State :=
  let s := s.resetCsr [.t] (fun a => dieOf a == stw && blockOf a == 3)
  { s with tow := { TowSt.reset with started := s.tow.started, reenum := s.tow.reenum } }

/-- The head's commands whose frames were in flight are answered ABORTED. -/
def State.abortRelayed (s : State) : State :=
  let s := s.tow.bcasts.foldl (fun s (x : CmdHdr × Nat × Nat) => s.respond x.1 x.2.1 St.aborted []) s
  (s.finishWork .relay St.aborted []).finishWork .chainEnum St.aborted []

/-- RESET kind 5: at the head; in line mode the packages beyond the break are reached by TOW_IN (R327). -/
def doResetTowpath (h : CmdHdr) (s : State) : State :=
  s.command h opReset 3 (fun _ => Gate.open_) (fun _ => false) (fun s =>
    if !s.actingHead then s.respond h opReset St.badArgument []
    else
      let s := s.respond h opReset St.ok []
      let line := s.fbit Csr.towSts TowSts.lineMode
      let s := s.towSend true Ft.resetT 0xFF []
      let s := if line then s.towSend false Ft.resetT 0xFF [] else s
      let a := s.ownAddr
      (s.abortRelayed.resetTow).notice stw 0x0909 [(1, a)])

def execResetTowpath (h : CmdHdr) (s : State) : Ans := .next (doResetTowpath h s)

/-- RESET_T: forwarded before the block is reset; the head drops its own frame when it returns. -/
def doResetT (f : Frame) (s : State) : State :=
  s.towTake f (fun s =>
    if s.actingHead then s
    else ((s.towRelay f Ft.resetT false).flag Csr.pwrRstCause PwrRstCause.tow).resetTow)

def execResetT (f : Frame) (s : State) : Ans := .next (doResetT f s)

end Sys2Proof.Machine
end

