-- ==== Sys2Proof/Machine/Dispatch.lean ====
section
/-! DEFINITION. One arm for every command: a direct call of its meaning, or its name refused. -/

namespace Sys2Proof.Machine

def exec (i : Instr) (s : State) : Host.Outcome State Fault Refusal :=
  match i with
  | .gatewayFlitReceive p f => Sys2Proof.Machine.execGatewayFlitReceive p f s
  | .headgatePass p vc => Sys2Proof.Machine.execHeadgatePass p vc s
  | .hgMeterWrite p c v => Sys2Proof.Machine.execHgMeterWrite p c v s
  | .crossbarForward d e => Sys2Proof.Machine.execCrossbarForward d e s
  | .culvertBeatArrive d c errs => Sys2Proof.Machine.execCulvertBeatArrive d c errs s
  | .egressAccept p vc => Sys2Proof.Machine.execEgressAccept p vc s
  | .linkUp p t => Sys2Proof.Machine.execLinkUp p t s
  | .flitModeAbsent p => Sys2Proof.Machine.execFlitModeAbsent p s
  | .xrateOffer p cap en inTime lowerPid => Sys2Proof.Machine.execXrateOffer p cap en inTime lowerPid s
  | .xrateFallback p => Sys2Proof.Machine.execXrateFallback p s
  | .xrateRecoveryFallback p => Sys2Proof.Machine.execXrateRecoveryFallback p s
  | .linkDown p cause => Sys2Proof.Machine.execLinkDown p cause s
  | .viralEntry p => Sys2Proof.Machine.execViralEntry p s
  | .perstAssert d g => Sys2Proof.Machine.execPerstAssert d g s
  | .perstDeassert d g => Sys2Proof.Machine.execPerstDeassert d g s
  | .culvertTrained d c failTx failRx => Sys2Proof.Machine.execCulvertTrained d c failTx failRx s
  | .cvCtrlWrite d c v => Sys2Proof.Machine.execCvCtrlWrite d c v s
  | .dirRequestArrive d vc => Sys2Proof.Machine.execDirRequestArrive d vc s
  | .dirTxnStart d => Sys2Proof.Machine.execDirTxnStart d s
  | .dirSnoopIssue d t p => Sys2Proof.Machine.execDirSnoopIssue d t p s
  | .dirSnoopResponse d vc => Sys2Proof.Machine.execDirSnoopResponse d vc s
  | .dirMemoryData d => Sys2Proof.Machine.execDirMemoryData d s
  | .dirCommit d t => Sys2Proof.Machine.execDirCommit d t s
  | .setWaitTimeout d t => Sys2Proof.Machine.execSetWaitTimeout d t s
  | .dirPortDown d p => Sys2Proof.Machine.execDirPortDown d p s
  | .dirWalkSet d => Sys2Proof.Machine.execDirWalkSet d s
  | .waitLimit d e => Sys2Proof.Machine.execWaitLimit d e s
  | .taskDispatch d => Sys2Proof.Machine.execTaskDispatch d s
  | .budgetFault d e => Sys2Proof.Machine.execBudgetFault d e s
  | .engAdd d e => Sys2Proof.Machine.execEngAdd d e s
  | .engSub d e => Sys2Proof.Machine.execEngSub d e s
  | .engAnd d e => Sys2Proof.Machine.execEngAnd d e s
  | .engOr d e => Sys2Proof.Machine.execEngOr d e s
  | .engXor d e => Sys2Proof.Machine.execEngXor d e s
  | .engSll d e => Sys2Proof.Machine.execEngSll d e s
  | .engSrl d e => Sys2Proof.Machine.execEngSrl d e s
  | .engSra d e => Sys2Proof.Machine.execEngSra d e s
  | .engSlt d e => Sys2Proof.Machine.execEngSlt d e s
  | .engSltu d e => Sys2Proof.Machine.execEngSltu d e s
  | .engMul d e => Sys2Proof.Machine.execEngMul d e s
  | .engAddi d e => Sys2Proof.Machine.execEngAddi d e s
  | .engAndi d e => Sys2Proof.Machine.execEngAndi d e s
  | .engOri d e => Sys2Proof.Machine.execEngOri d e s
  | .engSlti d e => Sys2Proof.Machine.execEngSlti d e s
  | .engShi d e => Sys2Proof.Machine.execEngShi d e s
  | .engLui d e => Sys2Proof.Machine.execEngLui d e s
  | .engExt d e => Sys2Proof.Machine.execEngExt d e s
  | .engIns d e => Sys2Proof.Machine.execEngIns d e s
  | .engLd d e => Sys2Proof.Machine.execEngLd d e s
  | .engSt d e => Sys2Proof.Machine.execEngSt d e s
  | .engBeq d e => Sys2Proof.Machine.execEngBeq d e s
  | .engBne d e => Sys2Proof.Machine.execEngBne d e s
  | .engBlt d e => Sys2Proof.Machine.execEngBlt d e s
  | .engBge d e => Sys2Proof.Machine.execEngBge d e s
  | .engBltu d e => Sys2Proof.Machine.execEngBltu d e s
  | .engBgeu d e => Sys2Proof.Machine.execEngBgeu d e s
  | .engBst d e => Sys2Proof.Machine.execEngBst d e s
  | .engJr d e => Sys2Proof.Machine.execEngJr d e s
  | .engCall d e => Sys2Proof.Machine.execEngCall d e s
  | .engRet d e => Sys2Proof.Machine.execEngRet d e s
  | .engTrap d e => Sys2Proof.Machine.execEngTrap d e s
  | .engTret d e => Sys2Proof.Machine.execEngTret d e s
  | .engEnd d e => Sys2Proof.Machine.execEngEnd d e s
  | .engWsvSave d e => Sys2Proof.Machine.execEngWsvSave d e s
  | .engWsvRestore d e => Sys2Proof.Machine.execEngWsvRestore d e s
  | .engMfs d e => Sys2Proof.Machine.execEngMfs d e s
  | .engMts d e => Sys2Proof.Machine.execEngMts d e s
  | .engDlook d e => Sys2Proof.Machine.execEngDlook d e s
  | .engDwr d e => Sys2Proof.Machine.execEngDwr d e s
  | .engSend d e => Sys2Proof.Machine.execEngSend d e s
  | .engWaitr d e => Sys2Proof.Machine.execEngWaitr d e s
  | .engineResponseArrive d c vc => Sys2Proof.Machine.execEngineResponseArrive d c vc s
  | .engFwcp d e => Sys2Proof.Machine.execEngFwcp d e s
  | .engBatomFetchAdd d e => Sys2Proof.Machine.execEngBatomFetchAdd d e s
  | .engBatomSwap d e => Sys2Proof.Machine.execEngBatomSwap d e s
  | .engDqpush d e => Sys2Proof.Machine.execEngDqpush d e s
  | .engDqpop d e => Sys2Proof.Machine.execEngDqpop d e s
  | .engCsrRead d e => Sys2Proof.Machine.execEngCsrRead d e s
  | .engCsrWrite d e => Sys2Proof.Machine.execEngCsrWrite d e s
  | .engLock d e => Sys2Proof.Machine.execEngLock d e s
  | .engLockRelease d e => Sys2Proof.Machine.execEngLockRelease d e s
  | .lockWake d key => Sys2Proof.Machine.execLockWake d key s
  | .engFenceWait d e => Sys2Proof.Machine.execEngFenceWait d e s
  | .engFenceNotify d e => Sys2Proof.Machine.execEngFenceNotify d e s
  | .fenceCompletionSend d e => Sys2Proof.Machine.execFenceCompletionSend d e s
  | .engPark d e park => Sys2Proof.Machine.execEngPark d e park s
  | .engEpochWrite d e epoch => Sys2Proof.Machine.execEngEpochWrite d e epoch s
  | .engHalt d e h halt => Sys2Proof.Machine.execEngHalt d e h halt s
  | .engStep d e h => Sys2Proof.Machine.execEngStep d e h s
  | .engHsDataAccess d w => Sys2Proof.Machine.execEngHsDataAccess d w s
  | .engSpillWrite d e v => Sys2Proof.Machine.execEngSpillWrite d e v s
  | .schedulerEvent d vc => Sys2Proof.Machine.execSchedulerEvent d vc s
  | .taskFlagsWrite d n v => Sys2Proof.Machine.execTaskFlagsWrite d n v s
  | .taskPrioWrite d n prio => Sys2Proof.Machine.execTaskPrioWrite d n prio s
  | .taskReadinessWrite d n mask mode => Sys2Proof.Machine.execTaskReadinessWrite d n mask mode s
  | .taskClmaskWrite d n m => Sys2Proof.Machine.execTaskClmaskWrite d n m s
  | .taskInvalidate d n => Sys2Proof.Machine.execTaskInvalidate d n s
  | .taskValidate d n => Sys2Proof.Machine.execTaskValidate d n s
  | .taskEpochWrite d n epoch => Sys2Proof.Machine.execTaskEpochWrite d n epoch s
  | .affinityExpire d n => Sys2Proof.Machine.execAffinityExpire d n s
  | .allotRefill d milliC => Sys2Proof.Machine.execAllotRefill d milliC s
  | .pllUnlock d lane => Sys2Proof.Machine.execPllUnlock d lane s
  | .pllRelock d lane => Sys2Proof.Machine.execPllRelock d lane s
  | .milestoneSlew d => Sys2Proof.Machine.execMilestoneSlew d s
  | .msLoRead d => Sys2Proof.Machine.execMsLoRead d s
  | .cellNop d r col row edge => Sys2Proof.Machine.execCellNop d r col row edge s
  | .cellAdd d r col row edge => Sys2Proof.Machine.execCellAdd d r col row edge s
  | .cellSub d r col row edge => Sys2Proof.Machine.execCellSub d r col row edge s
  | .cellAnd d r col row edge => Sys2Proof.Machine.execCellAnd d r col row edge s
  | .cellOr d r col row edge => Sys2Proof.Machine.execCellOr d r col row edge s
  | .cellXor d r col row edge => Sys2Proof.Machine.execCellXor d r col row edge s
  | .cellAndn d r col row edge => Sys2Proof.Machine.execCellAndn d r col row edge s
  | .cellRolc d r col row edge => Sys2Proof.Machine.execCellRolc d r col row edge s
  | .cellShl d r col row edge => Sys2Proof.Machine.execCellShl d r col row edge s
  | .cellShr d r col row edge => Sys2Proof.Machine.execCellShr d r col row edge s
  | .cellSra d r col row edge => Sys2Proof.Machine.execCellSra d r col row edge s
  | .cellCmp d r col row edge => Sys2Proof.Machine.execCellCmp d r col row edge s
  | .cellMul d r col row edge => Sys2Proof.Machine.execCellMul d r col row edge s
  | .cellMulh d r col row edge => Sys2Proof.Machine.execCellMulh d r col row edge s
  | .cellMov d r col row edge => Sys2Proof.Machine.execCellMov d r col row edge s
  | .cellSel d r col row edge => Sys2Proof.Machine.execCellSel d r col row edge s
  | .entryRewriteGo d hi => Sys2Proof.Machine.execEntryRewriteGo d hi s
  | .rewriteCommit d e => Sys2Proof.Machine.execRewriteCommit d e s
  | .rewriteTimeout d => Sys2Proof.Machine.execRewriteTimeout d s
  | .fabPllWrite d f v => Sys2Proof.Machine.execFabPllWrite d f v s
  | .fabPllLock d f => Sys2Proof.Machine.execFabPllLock d f s
  | .fabPllLockloss d f => Sys2Proof.Machine.execFabPllLockloss d f s
  | .fabselWrite d r sel => Sys2Proof.Machine.execFabselWrite d r sel s
  | .uioDlyWrite d p v => Sys2Proof.Machine.execUioDlyWrite d p v s
  | .uspTxWrite d u v => Sys2Proof.Machine.execUspTxWrite d u v s
  | .uspRxRead d u => Sys2Proof.Machine.execUspRxRead d u s
  | .uspReceive d u w ferr perr => Sys2Proof.Machine.execUspReceive d u w ferr perr s
  | .uspTransmit d u cts rxw => Sys2Proof.Machine.execUspTransmit d u cts rxw s
  | .ufwRequest d r i0 i1 => Sys2Proof.Machine.execUfwRequest d r i0 i1 s
  | .bankGrant d b port fab => Sys2Proof.Machine.execBankGrant d b port fab s
  | .bankClearDone d b => Sys2Proof.Machine.execBankClearDone d b s
  | .btTestCycle d bad => Sys2Proof.Machine.execBtTestCycle d bad s
  | .btEnWrite d v => Sys2Proof.Machine.execBtEnWrite d v s
  | .ditchFabricPush d q it => Sys2Proof.Machine.execDitchFabricPush d q it s
  | .ditchFabricPop d q => Sys2Proof.Machine.execDitchFabricPop d q s
  | .ditchFlush d q => Sys2Proof.Machine.execDitchFlush d q s
  | .dqWeirWrite d q v => Sys2Proof.Machine.execDqWeirWrite d q v s
  | .imageLoadComplete source => Sys2Proof.Machine.execImageLoadComplete source s
  | .literal d rw groups => Sys2Proof.Machine.execLiteral d rw groups s
  | .repeatRecord d rw src crc => Sys2Proof.Machine.execRepeatRecord d rw src crc s
  | .zeroRecord d rw crc => Sys2Proof.Machine.execZeroRecord d rw crc s
  | .fillRecord d rw pattern crc => Sys2Proof.Machine.execFillRecord d rw pattern crc s
  | .handlersSection d mask first words crc => Sys2Proof.Machine.execHandlersSection d mask first words crc s
  | .reginitSection pairs crc => Sys2Proof.Machine.execReginitSection pairs crc s
  | .bankinitSection addr words crc => Sys2Proof.Machine.execBankinitSection addr words crc s
  | .releaseWriteEnables sc => Sys2Proof.Machine.execReleaseWriteEnables sc s
  | .releaseResetsDeassert sc => Sys2Proof.Machine.execReleaseResetsDeassert sc s
  | .fabPatchGo d r => Sys2Proof.Machine.execFabPatchGo d r s
  | .shadowBuildDone d r => Sys2Proof.Machine.execShadowBuildDone d r s
  | .reachDrainEnd d r => Sys2Proof.Machine.execReachDrainEnd d r s
  | .liveSwapVerified source => Sys2Proof.Machine.execLiveSwapVerified source s
  | .swapDrainStart => Sys2Proof.Machine.execSwapDrainStart s
  | .swapFlip pause => Sys2Proof.Machine.execSwapFlip pause s
  | .swapDrainTimeout d => Sys2Proof.Machine.execSwapDrainTimeout d s
  | .scrubFrame d upset => Sys2Proof.Machine.execScrubFrame d upset s
  | .mbDoorbell k => Sys2Proof.Machine.execMbDoorbell k s
  | .mbDoneWrite k => Sys2Proof.Machine.execMbDoneWrite k s
  | .setEndpointId p eid => Sys2Proof.Machine.execSetEndpointId p eid s
  | .getEndpointId p => Sys2Proof.Machine.execGetEndpointId p s
  | .getMctpVersionSupport p => Sys2Proof.Machine.execGetMctpVersionSupport p s
  | .getMessageTypeSupport p => Sys2Proof.Machine.execGetMessageTypeSupport p s
  | .getVendorDefinedMsgSupport p => Sys2Proof.Machine.execGetVendorDefinedMsgSupport p s
  | .getInfo h => Sys2Proof.Machine.execGetInfo h s
  | .getStatus h => Sys2Proof.Machine.execGetStatus h s
  | .abort h tag => Sys2Proof.Machine.execAbort h tag s
  | .noticeSubscribe h mask => Sys2Proof.Machine.execNoticeSubscribe h mask s
  | .noticeStats h => Sys2Proof.Machine.execNoticeStats h s
  | .csrRead h addr n => Sys2Proof.Machine.execCsrRead h addr n s
  | .csrWrite h addr vals n => Sys2Proof.Machine.execCsrWrite h addr vals n s
  | .bankRead h addr len => Sys2Proof.Machine.execBankRead h addr len s
  | .bankWrite h addr len data => Sys2Proof.Machine.execBankWrite h addr len data s
  | .frameRead h addr n => Sys2Proof.Machine.execFrameRead h addr n s
  | .flashRead h off len => Sys2Proof.Machine.execFlashRead h off len s
  | .loadBegin h target total => Sys2Proof.Machine.execLoadBegin h target total s
  | .loadData h off data => Sys2Proof.Machine.execLoadData h off data s
  | .loadEnd h pay => Sys2Proof.Machine.execLoadEnd h pay s
  | .loadSessionTimeout => Sys2Proof.Machine.execLoadSessionTimeout s
  | .swap h source pay => Sys2Proof.Machine.execSwap h source pay s
  | .reachReload h die reach => Sys2Proof.Machine.execReachReload h die reach s
  | .optionRead h off len => Sys2Proof.Machine.execOptionRead h off len s
  | .optionWrite h off data => Sys2Proof.Machine.execOptionWrite h off data s
  | .uflashErase h first count => Sys2Proof.Machine.execUflashErase h first count s
  | .uflashProgram h off data => Sys2Proof.Machine.execUflashProgram h off data s
  | .lcTransition h target pay => Sys2Proof.Machine.execLcTransition h target pay s
  | .debugCert h pay => Sys2Proof.Machine.execDebugCert h pay s
  | .debugCertResponse => Sys2Proof.Machine.execDebugCertResponse s
  | .refusedResponse => Sys2Proof.Machine.execRefusedResponse s
  | .otpWrite h word v => Sys2Proof.Machine.execOtpWrite h word v s
  | .keyRevoke h key signer pay => Sys2Proof.Machine.execKeyRevoke h key signer pay s
  | .otpWordProgrammed verifyOk => Sys2Proof.Machine.execOtpWordProgrammed verifyOk s
  | .resetHot h st => Sys2Proof.Machine.execResetHot h st s
  | .resetDie h die => Sys2Proof.Machine.execResetDie h die s
  | .resetReach h die reach => Sys2Proof.Machine.execResetReach h die reach s
  | .resetEng h die eng => Sys2Proof.Machine.execResetEng h die eng s
  | .resetSteward h => Sys2Proof.Machine.execResetSteward h s
  | .resetTowpath h => Sys2Proof.Machine.execResetTowpath h s
  | .powerStateStandby h masks => Sys2Proof.Machine.execPowerStateStandby h masks s
  | .powerStateRun h masks => Sys2Proof.Machine.execPowerStateRun h masks s
  | .railOkRise => Sys2Proof.Machine.execRailOkRise s
  | .railOkTimeout => Sys2Proof.Machine.execRailOkTimeout s
  | .reachWakeCheckDone d r => Sys2Proof.Machine.execReachWakeCheckDone d r s
  | .bistRun h kind dies mems islands resZero known expected => Sys2Proof.Machine.execBistRun h kind dies mems islands resZero known expected s
  | .lbistComplete d misr => Sys2Proof.Machine.execLbistComplete d misr s
  | .mbistComplete d misr => Sys2Proof.Machine.execMbistComplete d misr s
  | .chainStatus h => Sys2Proof.Machine.execChainStatus h s
  | .chainEnum h => Sys2Proof.Machine.execChainEnum h s
  | .noticeDitchStore => Sys2Proof.Machine.execNoticeDitchStore s
  | .noticeDeliver => Sys2Proof.Machine.execNoticeDeliver s
  | .towLinkTrained onOut xswap revd => Sys2Proof.Machine.execTowLinkTrained onOut xswap revd s
  | .towLinkDown onOut => Sys2Proof.Machine.execTowLinkDown onOut s
  | .towpathMessageFrame f isResponse bcast => Sys2Proof.Machine.execTowpathMessageFrame f isResponse bcast s
  | .towpathNoticeFrame f code sharedHosts => Sys2Proof.Machine.execTowpathNoticeFrame f code sharedHosts s
  | .towAck onOut lseq => Sys2Proof.Machine.execTowAck onOut lseq s
  | .towNak onOut lseq => Sys2Proof.Machine.execTowNak onOut lseq s
  | .enumerationStart => Sys2Proof.Machine.execEnumerationStart s
  | .towEnum f next ovf => Sys2Proof.Machine.execTowEnum f next ovf s
  | .enumTokenForward => Sys2Proof.Machine.execEnumTokenForward s
  | .enumAck f => Sys2Proof.Machine.execEnumAck f s
  | .enumTimeout => Sys2Proof.Machine.execEnumTimeout s
  | .syncExchange => Sys2Proof.Machine.execSyncExchange s
  | .syncReq f t2 t3 => Sys2Proof.Machine.execSyncReq f t2 t3 s
  | .syncRsp f t1 t4 worst => Sys2Proof.Machine.execSyncRsp f t1 t4 worst s
  | .resetT f => Sys2Proof.Machine.execResetT f s
  | .rejoin f => Sys2Proof.Machine.execRejoin f s
  | .watchdogExpiry => Sys2Proof.Machine.execWatchdogExpiry s
  | .trialPromote => Sys2Proof.Machine.execTrialPromote s
  | .flKeyWrite v => Sys2Proof.Machine.execFlKeyWrite v s
  | .flProgram hi => Sys2Proof.Machine.execFlProgram hi s
  | .flBitprog hi => Sys2Proof.Machine.execFlBitprog hi s
  | .flErase addr => Sys2Proof.Machine.execFlErase addr s
  | .flRdpLower lo => Sys2Proof.Machine.execFlRdpLower lo s
  | .rdpLowerComplete => Sys2Proof.Machine.execRdpLowerComplete s
  | .flashProgramDone verifyOk => Sys2Proof.Machine.execFlashProgramDone verifyOk s
  | .flashEraseDone ok => Sys2Proof.Machine.execFlashEraseDone ok s
  | .flSuspend => Sys2Proof.Machine.execFlSuspend s
  | .flResume => Sys2Proof.Machine.execFlResume s
  | .flashReadAccess => Sys2Proof.Machine.execFlashReadAccess s
  | .autoResume => Sys2Proof.Machine.execAutoResume s
  | .flagReerase => Sys2Proof.Machine.execFlagReerase s
  | .powerOnReset st => Sys2Proof.Machine.execPowerOnReset st s
  | .hotRstPin => Sys2Proof.Machine.execHotRstPin s
  | .hotRstRise st => Sys2Proof.Machine.execHotRstRise st s
  | .thermalTrip d t => Sys2Proof.Machine.execThermalTrip d t s
  | .coreUndervoltage d => Sys2Proof.Machine.execCoreUndervoltage d s
  | .voltageGovernorStep d up ack => Sys2Proof.Machine.execVoltageGovernorStep d up ack s
  | .pinEnWrite v => Sys2Proof.Machine.execPinEnWrite v s
  | .gpioLockKeyWrite v => Sys2Proof.Machine.execGpioLockKeyWrite v s
  | .gpioLockWrite v => Sys2Proof.Machine.execGpioLockWrite v s
  | .patternMatchFire m levels => Sys2Proof.Machine.execPatternMatchFire m levels s
  | .pinShort die pin => Sys2Proof.Machine.execPinShort die pin s
  | .shortClearWrite die v => Sys2Proof.Machine.execShortClearWrite die v s
  | .openTestGo die levels => Sys2Proof.Machine.execOpenTestGo die levels s
  | .openTestPulldown die levels => Sys2Proof.Machine.execOpenTestPulldown die levels s
  | .openTestDone die levels => Sys2Proof.Machine.execOpenTestDone die levels s
  | .tapBypass => Sys2Proof.Machine.execTapBypass s
  | .tapIdcode => Sys2Proof.Machine.execTapIdcode s
  | .tapSamplePreload => Sys2Proof.Machine.execTapSamplePreload s
  | .tapExtest => Sys2Proof.Machine.execTapExtest s
  | .tapExtestPulse => Sys2Proof.Machine.execTapExtestPulse s
  | .tapExtestTrain => Sys2Proof.Machine.execTapExtestTrain s
  | .tapClamp => Sys2Proof.Machine.execTapClamp s
  | .tapHighz => Sys2Proof.Machine.execTapHighz s
  | .tapTestLogicReset => Sys2Proof.Machine.execTapTestLogicReset s
  | .rcRead src addr => Sys2Proof.Machine.execRcRead src addr s
  | .registerWrite src addr v => Sys2Proof.Machine.execRegisterWrite src addr v s
  | .engIllegal d e => Sys2Proof.Machine.execEngIllegal d e s
  | .ditchEnginePush d q => Sys2Proof.Machine.execDitchEnginePush d q s
  | .enginePortFabric d e push => Sys2Proof.Machine.execEnginePortFabric d e push s
  | .entdaa addr => Sys2Proof.Machine.execEntdaa addr s
  | .setdasa static addr => Sys2Proof.Machine.execSetdasa static addr s
  | .noticeDeliveryTimeout h => Sys2Proof.Machine.execNoticeDeliveryTimeout h s
  | .unlistedOpcode h op => Sys2Proof.Machine.execUnlistedOpcode h op s
  | .flCmdWrite v => Sys2Proof.Machine.execFlCmdWrite v s
  | .pwrgoodFall word => Sys2Proof.Machine.execPwrgoodFall word s

end Sys2Proof.Machine
end

