-- ==== Sys2Proof/Machine/Tick.lean ====
section
/-! DEFINITION. What passes when no command waits: one FLIT cycle, 0.5 ns (log entry 4). Meters refill, milestones and
fabric clocks advance, BANK cycles of the ditches end, the ring-oscillator counts are taken, the package reference is slewed,
and the engine updates of a live swap go on. -/

namespace Sys2Proof.Machine

/-- A meter holds a message at the head of a channel of port `k` of die `d` in this cycle (01 R40, R41). -/
def State.portHeld (s : State) (d k : Nat) : Bool :=
  [0, 2, 3].any (fun (v : Nat) => (s.headOf (d * 8 + k) v).any (fun l => s.meterHolds d k (s.action d k l).cls v))

/-- The turn of the FLIT cycle for a bucket whose HG_METER was written (01 R40): the new word acts from here, and one with
METER_EN 0 sets the count to its cap. -/
def State.meterTurn (s : State) (d k c : Nat) : State :=
  let w := s.csrGet (Csr.hgMeter d k c)
  if (SMap.find s.meterOld (Csr.hgMeter d k c)).isSome && !HgMeter.meterEn.bit w then s.setBucket d k c (burstCap w) else s

/-- The refill of one bucket at the start of a FLIT cycle: RATE units, capped (01 R40). -/
def State.meterRefill (s : State) (d k c : Nat) : State :=
  let w := s.csrGet (Csr.hgMeter d k c)
  if HgMeter.meterEn.bit w then s.setBucket d k c (min (s.bucket d k c + HgMeter.rate.get w) (burstCap w)) else s

/-- The headgates of a die: held cycles of the cycle that ends are counted, then the buckets refill. -/
def State.tickMeters (s : State) (d : Nat) : State :=
  let ports := (List.range 8).filter (fun (k : Nat) => s.portHeld d k)
  let s := ports.foldl (fun (s : State) k => s.count (Csr.hgHoldCnt d k) HgHoldCnt.cycles 1) s
  let each (f : State → Nat → Nat → State) (s : State) : State :=
    (List.range 8).foldl (fun (s : State) k => (List.range 4).foldl (fun (s : State) c => f s k c) s) s
  let s := each (fun s k c => s.meterTurn d k c) s
  each (fun s k c => s.meterRefill d k c) { s with meterOld := SMap.drop (fun a => dieOf a == d) s.meterOld }

/-- The deviation of a domain's reference in thousandths of its nominal frequency: of a ring oscillator a free value within
5 % (06 R229), of any other none. -/
def State.refDeviation (s : State) (w : Word) : Nat × State :=
  if FabPllCtrl.mode.bit w && FabPllCtrl.refsel.get w == 3 then
    let (n, s) := s.draw
    (950 + (Config.freeWord n).toNat % 101, s)
  else (1000, s)

/-- The fabric clock of a domain: reference × M / N, of which a FLIT cycle holds the 2,000,000,000th part of a second (05 R181; 06
R219, R220); a stopped reference gives no edge (06 R229). -/
def State.tickFab (s : State) (d f : Nat) : State :=
  let w := s.csrGet (Csr.fabPllCtrl d f)
  if !(FabPllCtrl.en.bit w && s.fbit (Csr.fabPllSts d f) FabPllSts.lock && s.pllRefOn d f) then s
  else
    let (a, b) := s.pllRef d f w
    let (dev, s) := s.refDeviation w
    let acc := SMap.get 0 s.fabAcc (d * 4 + f) + a * pllM w * dev
    let lim := 2000000000000 * b * pllN w
    if lim ≤ acc then { s with fabAcc := SMap.set 0 s.fabAcc (d * 4 + f) (acc - lim) }.fabCycle d f
    else { s with fabAcc := SMap.set 0 s.fabAcc (d * 4 + f) acc }

/-- A REF cycle of a die: its milestone advances, unless its master PLL is unlocked or this tick is withheld
(05 R194, R195, R197); at a full microsecond of it the oscillator counts are taken (06 R229). -/
def State.tickMs (s : State) (d : Nat) : State :=
  let lost := SMap.get 0 s.pllLost d
  if bitOf lost 0 then s
  else if bitOf lost 2 then { s with pllLost := SMap.set 0 s.pllLost d (clrBitN lost 2) }
  else
    let m := s.msOf d + 1
    let s := { s with ms := SMap.set 0 s.ms d m }
    if m % 1000 == 0 then s.roscTick d else s

/-- The BANK cycle ends in which ditches of a die have acted: their levels are compared with the weirs (07 R254 step 5). -/
def State.tickDitches (s : State) (d : Nat) : State :=
  (s.ditches.filter (fun (x : Nat × DitchSt) => x.1 / 64 == d && x.2.step ≠ 0)).foldl
    (fun s x => s.ditchEnd d (x.1 % 64)) s

/-- One FLIT cycle of a die; `ref` and `bank` tell that a REF cycle and that a BANK cycle ends with it. What divides the master
PLL stands still while that is unlocked; the fabric clocks do not (05 R181). -/
def State.tickDie (s : State) (ref bank : Bool) (d : Nat) : State :=
  if !s.dieOn d then s
  else
    let s := if s.clockOn d then (if bank then s.tickDitches d else s).tickMeters d else s
    let s := (List.range 4).foldl (fun (s : State) f => s.tickFab d f) s
    if ref then s.tickMs d else s

/-- One µs of chain synchronisation: the package reference is slewed (09 R328). -/
def State.tickSlew (s : State) : State :=
  let (c, sl) := s.tow.slew.step
  { s with refMs := ((s.refMs : Int) + c).toNat, tow := { s.tow with slew := sl } }

/-- One FLIT cycle of the device; every second one ends a REF cycle, in which the package reference advances while
PWRGOOD is high. The engine updates of a live swap go on. -/
def State.tick (s : State) : State :=
  let n := s.ticks + 1
  let ref := n % 2 == 0 && s.pwr.pwrgood
  let bank := n * 3 / 4 ≠ s.bankNow
  let s := { s with ticks := n, refMs := if ref then s.refMs + 1 else s.refMs }
  let s := if ref && n % 2000 == 0 then s.tickSlew else s
  ((List.range s.part.dies).foldl (fun (s : State) d => s.tickDie ref bank d) s).swapStep

end Sys2Proof.Machine
end

