-- ==== Sys2Proof/Safety.lean ====
section
/-! DEFINITION. What a safe step is, the canonical form of what a state stores, and the terms the claims are made in: that a
command completes, that an engine is about to execute a word, and what an engine or a register write leaves alone. -/

namespace Sys2Proof

/-- The canonical form of the stored bytes and registers of a state: the register file, the reservoir banks, the engines'
data scratch, the configuration frames, the memory of BAR0 and the flash list their addresses strictly rising, and list no
entry equal to what an unlisted address reads as. Equal contents are then equal data. -/
structure Machine.State.Canonical (s : Machine.State) : Prop where
  csr     : Machine.SMap.wf Machine.resetOf s.csr = true
  bankMem : Machine.Memory.wf 0 s.bankMem = true
  scratch : Machine.Memory.wf 0 s.scratch = true
  frames  : Machine.Memory.wf 0 s.frames = true
  bar     : Machine.Memory.wf 0 s.bar = true
  flash   : Machine.Memory.wf 0xFF s.flash = true

/-- A step is safe when it answers a next state: nothing stops the block. -/
def SafeStep (s : Machine.State) : Prop := ∃ t, Machine.step s = Host.Outcome.next t

namespace Machine

/-- A command answers a next state of which `P` holds. -/
def Completes (c : Instr) (s : State) (P : State → Prop) : Prop := ∃ t, exec c s = Host.Outcome.next t ∧ P t

/-- `t` reads every register as `s`, but for those of the list. -/
def OnlyRegs (s t : State) (as : List Nat) : Prop := ∀ a, a ∉ as → t.csrGet a = s.csrGet a

/-! ## Notices -/

/-- The notices a die has raised that wait, oldest first. -/
def State.waiting (s : State) (d : Nat) : List Notice := SMap.get [] s.queues (queueOf d)

/-- The notice a die raises in state `s` with a code and payload fields. -/
def State.item (s : State) (d code : Nat) (fs : List (Nat × Nat)) : Notice :=
  { code := code, die := d, prio := noticePrio code, chainTime := s.fbit Csr.towSts TowSts.msSync, poison := false,
    ms := s.msOf d % 2 ^ 24, payload := packFields fs }

/-- No bank command of a host has all its words and awaits its answer (09 R312): the model answers one with the grant of its
last word. -/
def State.NoBankAnswerDue (s : State) : Prop := ∀ c ∈ s.cmds, ∀ n got, c.work = .bank n got → got.length < n

/-! ## Messages in the crossbar (01 R36, R44) -/

/-- From `s` to `t`, the message `x` was handed to crossbar input `e` of die `d`: it entered it, or waits at its source for the
input's credits. -/
def Entered (s t : State) (d e : Nat) (x : XMsg) : Prop := t.xin = (s.injectX d e x).xin ∧ t.xsrc = (s.injectX d e x).xsrc

/-- Output `ep` of die `d`, whose sink is up and which has a free slot, sends the message `x` of input `i` on channel `v`. -/
abbrev State.Forwards (s : State) (d ep v i : Nat) (x : XMsg) : Prop :=
  s.clockOn d = true ∧ (s.sending d ep).length < outSlots ep ∧ s.sinkUp d ep = true ∧
    (s.holdPointers d ep).xselect d ep ((s.sending d ep).map (·.1)) = some (v, i, x)

/-- The crossbar after output `ep` of die `d` took that message. -/
abbrev State.took (s : State) (d ep v i : Nat) (x : XMsg) : State := (s.holdPointers d ep).xtake d ep v i x

/-! ## Engines -/

/-- Engine `e` of die `d` is about to execute the word `w`, whose `n` run cycles its budget has: the die is on, a handler
runs and is not halted, no unit holds its result back, and the word at PC is `w` and can be read. -/
abbrev State.Executing (s : State) (d e : Nat) (w : Word) (n : Nat) : Prop :=
  s.canRun d e = true ∧ s.fetched d e = some w ∧ (s.eng d e).run + n ≤ (s.eng d e).budget

/-- From `s` to `t`, only engine (d, e) ran: its record is `x`, no other engine's changed, and beside the engines' records and
registers nothing did, but for the correction of the fetched word. -/
def EngRan (s t : State) (d : Die) (e : Eng) (x : Engine) : Prop :=
  t.eng d e = x ∧ (∀ (d' : Die) (e' : Eng), (d', e') ≠ (d, e) → t.eng d' e' = s.eng d' e') ∧
    t = { s.fetchEcc d e with engs := t.engs, engReg := t.engReg }

/-- The record of an engine whose instruction of `n` run cycles goes on at `pc`. -/
def Engine.went (x : Engine) (n pc : Nat) : Engine := { x with run := x.run + n, pc := pc, wait := .none }

/-- Engine (d, e) of `s` can send the access `m` to a unit of another die `die`: the die's sluices pass, a response buffer is
free, the crossbar has credits, and no access of the engine to that die is on its way on another channel (03 R114, R115). -/
abbrev State.CanAsk (s : State) (d e : Nat) (m : Msg) (die : Nat) : Prop :=
  s.sluiceOpen d = true ∧ (s.eng d e).bufs.length < 4 ∧ s.fitsIn d (13 + e / 8) m = true ∧
    ∀ y ∈ s.flying d e, y.msg.unitAcc = true → y.die = die → y.msg.g Hd.vc = m.g Hd.vc

/-- From `s` to `t`, engine (d, e) sent the access `m` to a unit of die `die` and reserved the buffer of its response, under a
tag that none of its buffers holds (03 R133, R136); beside that and the engine's record nothing changed, but for the correction
of the fetched word. -/
def SentAccess (s t : State) (d : Die) (e : Eng) (m : Msg) (die : Nat) (tag : Nat) : Prop :=
  let k := xkey d (13 + e / 8) (m.g Hd.vc)
  tag < 2 ^ 16 ∧ (∀ b ∈ (s.eng d e).bufs, b.xtag ≠ tag) ∧
    (t.eng d e).bufs = (s.eng d e).bufs ++ [{ unit := true, xtag := tag, rsp := none, claimed := false, dir := false }] ∧
    (∀ (d' : Die) (e' : Eng), (d', e') ≠ (d, e) → t.eng d' e' = s.eng d' e') ∧
    SMap.get [] t.xin k = SMap.get [] s.xin k ++ [⟨s.serial, m.w Hd.xtag tag, die, 21⟩] ∧
    (∀ j ≠ k, SMap.get [] t.xin j = SMap.get [] s.xin j) ∧
    t = { s.fetchEcc d e with draws := s.draws + 1, serial := s.serial + 1, xin := t.xin, engs := t.engs }

/-- From `s` to `t`, the request with operation `op` on word `word` of bank `b` joined the engine network of the die of engine
(d, e) (03 R133); beside that and the engine's record nothing changed, but for the correction of the fetched word. -/
def AskedBank (s t : State) (d : Die) (e : Eng) (b word : Nat) (half : Option Bool) (op : BankOp) : Prop :=
  let q := (d.val * 64 + b) * 4 + 1
  SMap.get [] t.bankQ q = SMap.get [] s.bankQ q ++ [⟨s.serial, .engine, d, e, word, half, op⟩] ∧
    (∀ k ≠ q, SMap.get [] t.bankQ k = SMap.get [] s.bankQ k) ∧
    (∀ (d' : Die) (e' : Eng), (d', e') ≠ (d, e) → t.eng d' e' = s.eng d' e') ∧
    t = { s.fetchEcc d e with bankQ := t.bankQ, serial := s.serial + 1, engs := t.engs }

/-- `t` holds `v` in register `c` of the current window of engine (d, e), a write to g0 being discarded, and every other
register of every engine as `s`. -/
def WroteReg (s t : State) (d e c : Nat) (v : Word) : Prop :=
  t.regIn d e (s.eng d e).cwp c = (if c = 16 then 0 else v) ∧
    ∀ k, (c = 16 ∨ k ≠ regKey d e (s.eng d e).cwp c) → SMap.get 0 t.engReg k = SMap.get 0 s.engReg k

/-- `t` holds `v` in the register pair `c` of the current window, and every other register as `s`. -/
def WrotePair (s t : State) (d e c : Nat) (v : BitVec 64) : Prop :=
  t.regIn d e (s.eng d e).cwp c = v.extractLsb' 0 32 ∧ t.regIn d e (s.eng d e).cwp (c + 1) = v.extractLsb' 32 32 ∧
    ∀ k, k ≠ regKey d e (s.eng d e).cwp c → k ≠ regKey d e (s.eng d e).cwp (c + 1) →
      SMap.get 0 t.engReg k = SMap.get 0 s.engReg k

/-- `t` holds `v` in the register `c`, or in the pair `c`. -/
def WroteRegs (s t : State) (d e c : Nat) (pair : Bool) (v : BitVec 64) : Prop :=
  if pair then WrotePair s t d e c v else WroteReg s t d e c (v.extractLsb' 0 32)

/-- Operand forms of LD and ST: the register or the pair exists, and so does the base. -/
def memOperands (w : Word) : Prop :=
  Ins.sz w ≤ 1 ∧ (if Ins.sz w = 1 then pairOk (Ins.rd w) = true else Ins.rd w < 24) ∧ Ins.rs1 w < 24

/-! ## Tasks -/

/-- From `s` to `t`, the readiness of slot `n` of die `d` was evaluated on the flags, mask and mode that `t` holds (04 R158,
R161): an IDLE task that is ready takes a place in its list with the next age stamp, a READY task that is not ready leaves it. -/
def Evaluated (s t : State) (d n : Nat) : Prop :=
  let flags := t.taskFlags d n
  let mask := t.fget (Csr.taskW1 d n) TaskW1.mask
  let ready : Prop := if t.fbit (Csr.taskW0 d n) TaskW0.mode then mask ≠ 0 ∧ (flags &&& mask) = mask else (flags &&& mask) ≠ 0
  let was := s.taskState d n
  (was = TSt.idle → ready → t.taskState d n = TSt.ready ∧ (t.taskX d n).stamp = SMap.get 0 s.ageCtr d ∧
    SMap.get 0 t.ageCtr d = (SMap.get 0 s.ageCtr d + 1) % 2 ^ 32) ∧
  (was = TSt.ready → ¬ ready → t.taskState d n = TSt.idle) ∧
  (¬ (was = TSt.idle ∧ ready) → ¬ (was = TSt.ready ∧ ¬ ready) → t.taskState d n = was)

/-! ## Resets of a die (12 R404, Table 12-5; 08 R282) -/

/-- A die as kinds P, H and D and a wake leave it: its engines, their registers, scratch and handler stores, its scheduler,
ditches, lock table and directory hold nothing, its balances are CAP, and every reach is held, without write enables and
behind closed headgates. -/
structure State.DieHeld (t : State) (d : Nat) : Prop where
  engines  : ∀ e < 64, t.eng d e = Engine.reset
  regs     : ∀ k, k / 256 / 64 = d → SMap.get 0 t.engReg k = 0
  scratch  : ∀ k, k / 16384 / 64 = d → Memory.read 0 t.scratch k = 0
  stores   : ∀ k, k / 4096 / 64 = d → SMap.get 0 t.store k = 0
  locks    : SMap.get [] t.locks d = []
  tasks    : ∀ n < 1024, t.taskX d n = TaskX.reset
  ditches  : ∀ q < 64, SMap.get DitchSt.reset t.ditches (d * 64 + q) = DitchSt.reset
  entries  : ∀ k, k / 262144 = d → SMap.get 0 t.dirEnt k = 0
  balances : ∀ c < 8, t.balance d c = 4096
  held     : ∀ r < 16, t.inReset d r = true
  writes   : ∀ r < 16, t.writesEnabled d r = false
  gates    : SMap.get false t.gatesPass d = false
  released : t.released d = false

/-! ## Commands of hosts (09 R304, R325, R377) -/

/-- The state in which a command of a host is checked: its record exists, and its mailbox is taken. -/
abbrev State.arrived (s : State) (h : CmdHdr) : State := (s.seeHost h).takeMailbox h

/-- The header and opcode of a command of Table 09-4. -/
def hostCommand : Instr → Option (CmdHdr × Nat)
  | .getInfo h => some (h, 0x0001)
  | .getStatus h => some (h, 0x0002)
  | .abort h _ => some (h, 0x0003)
  | .noticeSubscribe h _ => some (h, 0x0004)
  | .noticeStats h => some (h, 0x0005)
  | .csrRead h _ _ => some (h, 0x0101)
  | .csrWrite h _ _ _ => some (h, 0x0102)
  | .bankRead h _ _ => some (h, 0x0103)
  | .bankWrite h _ _ _ => some (h, 0x0104)
  | .frameRead h _ _ => some (h, 0x0105)
  | .flashRead h _ _ => some (h, 0x0106)
  | .loadBegin h _ _ => some (h, 0x0201)
  | .loadData h _ _ => some (h, 0x0202)
  | .loadEnd h pay => some (h.carry pay, 0x0203)
  | .swap h _ pay => some (h.carry pay, 0x0204)
  | .reachReload h _ _ => some (h, 0x0205)
  | .optionRead h _ _ => some (h, 0x0206)
  | .optionWrite h _ _ => some (h, 0x0207)
  | .uflashErase h _ _ => some (h, 0x0301)
  | .uflashProgram h _ _ => some (h, 0x0302)
  | .lcTransition h _ pay => some (h.carry pay, 0x0401)
  | .debugCert h pay => some (h.carry pay, 0x0402)
  | .otpWrite h _ _ => some (h, 0x0403)
  | .keyRevoke h _ _ pay => some (h.carry pay, 0x0404)
  | .resetHot h _ => some (h, 0x0501)
  | .resetDie h _ => some (h, 0x0501)
  | .resetReach h _ _ => some (h, 0x0501)
  | .resetEng h _ _ => some (h, 0x0501)
  | .resetSteward h => some (h, 0x0501)
  | .resetTowpath h => some (h, 0x0501)
  | .powerStateStandby h _ => some (h, 0x0502)
  | .powerStateRun h _ => some (h, 0x0502)
  | .bistRun h _ _ _ _ _ _ _ => some (h, 0x0601)
  | .chainStatus h => some (h, 0x0701)
  | .chainEnum h => some (h, 0x0702)
  | _ => none

/-- A command of a host that its transport brings to this package, and to no other. -/
abbrev State.Receives (s : State) (h : CmdHdr) (op : Nat) : Prop :=
  s.serves h op = true ∧ h.chain.toNat = s.ownAddr ∧ bcast h = false

/-- A received command whose header passes, which nothing refuses, with a payload of at least `need` bytes. -/
abbrev State.Takes (s : State) (h : CmdHdr) (op need : Nat) (g : Gate) : Prop :=
  s.Receives h op ∧ (s.arrived h).headerFault h = none ∧ (s.arrived h).refusal h op g = none ∧ need ≤ h.length

end Machine

end Sys2Proof
end

