-- ==== Sys2Proof/Certificates/Slice0/Obligations.lean ====
section
/-! DEFINITION. The statements of this model for the provers: what each family of commands does and leaves unchanged, the
canonical form that every step keeps, and the state after reset. The words they use stand in Safety.lean. -/

section

open Sys2Proof Sys2Proof.Machine

/-- A step runs the command at the front of the queue on the state with the queue's rest, and answers its outcome. The queue is
the model's own (log entry 95). -/
def Obligations.StepRunsFrontCommand : Prop :=
  ∀ (c : Instr) (rest : List Instr) (s : State), step { s with pending := c :: rest } = exec c { s with pending := rest }

/-- Every command answers a next state, whatever the state and its operands: nothing is refused and nothing faults; no command
changes the part or the commands that wait. That a command whose event cannot occur leaves the state unchanged is log entry 8.
-/
def Obligations.EveryCommandCompletes : Prop :=
  ∀ (c : Instr) (s : State), Completes c s fun t => t.part = s.part ∧ t.pending = s.pending

/-- A step keeps the canonical form of the registers, the banks, the engines' scratch, the frames, the memory of BAR0 and the
flash; it takes one command from the queue, or none when the queue is empty, and never changes the part. The canonical form and
the queue are the model's own (log entries 5, 95). -/
def Obligations.EveryStepKeepsCanonical : Prop :=
  ∀ s t : State, s.Canonical → step s = .next t → t.Canonical ∧ t.part = s.part ∧ t.pending = s.pending.tail

/-- R12 and the Reset columns (12 Table 12-2; 09 R323; 07 R246): at State.reset the canonical form holds, no command waits,
every register reads its Reset value, the bits that a table gives a value other than 0 among them, no die is powered, and every
byte of the banks, the scratch words and the frames is 0; so is every byte of the memory of BAR0 but the two mask bits of its
MSI-X entries (the model's choice, log entry 101). Values without a Reset column are the model's (log entries 1, 3, 5). -/
def Obligations.ResetState : Prop :=
  let s := State.reset
  s.Canonical ∧ s.pending = [] ∧ (∀ a, s.csrGet a = resetOf a) ∧
    (∀ (a : Nat) (r : RegRow), findRow a = some r → r.base ≠ Rg.xbCredit.base → r.base ≠ Rg.bankInfo.base → ∀ f ∈ r.fields,
      f.fld.get (s.csrGet a) = f.reset % 2 ^ f.fld.width) ∧
    s.fget Csr.pwrRstCause PwrRstCause.por = 1 ∧ s.fget Csr.pinEn PinEn.tgt = 1 ∧ s.ownerView 1 = 0x00022000 ∧
    s.fget Csr.towSts TowSts.addr = 0xFF ∧ s.fget Csr.pwrSts PwrSts.state = 1 ∧
    (∀ d < 8, s.fget (Csr.pwrVcore d) PwrVcore.target = 800 ∧ s.dieOn d = false ∧ s.waiting d = []) ∧
    (∀ (d : Die) (e : Eng), s.eng d e = Engine.reset ∧ ∀ win c, s.regIn d e win c = 0) ∧
    (∀ k, Memory.read 0 s.bankMem k = 0 ∧ Memory.read 0 s.scratch k = 0 ∧ Memory.read 0 s.frames k = 0 ∧
      Memory.read 0 s.bar k = (if k = 0x100C ∨ k = 0x101C then 1 else 0)) ∧
    s.hosts = [] ∧ s.cmds = [] ∧ s.load = none ∧ s.image = [] ∧ s.tap = .idcode

/-- 05 R194, R195, R197, 01 R40 (log entry 4): when no command waits one FLIT cycle passes: on every second one the package
reference and the milestone of every die that is on and whose master PLL is locked advance by one; a milestone that is to slew
back stands once instead, and once in 1,000 REF cycles the reference takes the step of the chain's slew. A bucket refills by
RATE up to its cap, one whose HG_METER was written with METER_EN 0 goes to the cap, and a die that is off does nothing. That an
empty queue lets one cycle pass, and that a die without its PLL stands still, are log entries 4, 50, 51. -/
def Obligations.IdleCycle : Prop :=
  ∀ s : State, s.pending = [] → ∃ t, step s = .next t ∧
    let ref : Prop := s.ticks % 2 = 1 ∧ s.pwr.pwrgood = true
    let slew : Prop := (s.ticks + 1) % 2000 = 0
    t.ticks = s.ticks + 1 ∧ t.pending = [] ∧ (ref → ¬ slew → t.refMs = s.refMs + 1) ∧
    (ref → slew → t.refMs = (((s.refMs + 1 : Nat) : Int) + s.tow.slew.step.1).toNat) ∧ (¬ ref → t.refMs = s.refMs) ∧
    (∀ d < s.part.dies, s.dieOn d = true → ref → bitOf (SMap.get 0 s.pllLost d) 0 = false →
      t.msOf d = (if bitOf (SMap.get 0 s.pllLost d) 2 then s.msOf d else s.msOf d + 1) ∧ bitOf (SMap.get 0 t.pllLost d) 2 = false) ∧
    (∀ d < s.part.dies, s.dieOn d = true → bitOf (SMap.get 0 s.pllLost d) 0 = true → t.msOf d = s.msOf d) ∧
    (∀ d < 8, (s.dieOn d = false ∨ ¬ ref) → t.msOf d = s.msOf d) ∧
    ((∀ w, s.swap = some w → w.phase ≠ .updating) → ∀ d < s.part.dies, s.clockOn d = true → ∀ k < 8, ∀ c < 4,
      let w := s.csrGet (Csr.hgMeter d k c)
      t.bucket d k c = (if HgMeter.meterEn.bit w then min (s.bucket d k c + HgMeter.rate.get w) (burstCap w)
        else if (SMap.find s.meterOld (Csr.hgMeter d k c)).isSome then burstCap w else s.bucket d k c)) ∧
    t.flash = s.flash ∧ t.hosts = s.hosts ∧ t.cmds = s.cmds

/-- R433, R434 (R319): a raised notice joins the queue of its die, with the milestone and the chain-time flag; a queue that
holds 64 drops it and counts. A rate-limited notice is raised once per scope in 1 ms of its die, and raising it opens the
window. -/
def Obligations.NoticeQueuesAndRateWindows : Prop :=
  ∀ (s : State) (d code scope : Nat) (fs : List (Nat × Nat)),
    ((s.waiting d).length < 64 → s.notice d code fs = { s with queues := (s.notice d code fs).queues } ∧
      (s.notice d code fs).waiting d = s.waiting d ++ [s.item d code fs] ∧
      ∀ j ≠ queueOf d, SMap.get [] (s.notice d code fs).queues j = SMap.get [] s.queues j) ∧
    (64 ≤ (s.waiting d).length → let t := s.notice d code fs
      t = { s with csr := t.csr } ∧ OnlyRegs s t [Csr.ndQdropCnt (queueOf d)] ∧
      t.fget (Csr.ndQdropCnt (queueOf d)) NdQdropCnt.dropped =
        min (s.fget (Csr.ndQdropCnt (queueOf d)) NdQdropCnt.dropped + 1) (2 ^ NdQdropCnt.dropped.width - 1)) ∧
    ((∃ w ∈ s.windows, w.code = code ∧ w.die = d ∧ w.scope = scope ∧ s.msOf d < w.opened + 1000000) → s.noticeLim d code scope fs = s) ∧
    ((∀ w ∈ s.windows, w.code = code → w.die = d → w.scope = scope → w.opened + 1000000 ≤ s.msOf d) →
      let t := s.noticeLim d code scope fs
      t.queues = (s.notice d code fs).queues ∧ t.csr = (s.notice d code fs).csr ∧
      (∃ w ∈ t.windows, w.code = code ∧ w.die = d ∧ w.scope = scope ∧ w.opened = s.msOf d) ∧
      ∀ w, (w.code ≠ code ∨ w.die ≠ d ∨ w.scope ≠ scope) → (w ∈ t.windows ↔ w ∈ s.windows))

/-- R121 (Table 03-7), R122: each register-register operation writes its result into rd, counts its run cycles and goes on at
the next word; no other register, and nothing else of any unit, changes. R121 (Table 03-7), R122: each register-immediate
operation. -/
def Obligations.EngineArithmetic : Prop :=
  (
  ∀ (d : Die) (e : Eng) (s : State) (w : Word),
    Ins.rd w < 24 → Ins.rs1 w < 24 → Ins.rs2 w < 24 → Ins.fn w = 0 →
    let a := s.reg d e (Ins.rs1 w)
    let b := s.reg d e (Ins.rs2 w)
    ∀ r ∈ [(Instr.engAdd d e, 0x00, 1, a + b), (.engSub d e, 0x01, 1, a - b), (.engAnd d e, 0x02, 1, a &&& b),
        (.engOr d e, 0x03, 1, a ||| b), (.engXor d e, 0x04, 1, a ^^^ b), (.engSll d e, 0x05, 1, a <<< (b.toNat % 32)),
        (.engSrl d e, 0x06, 1, a >>> (b.toNat % 32)), (.engSra d e, 0x07, 1, a.sshiftRight (b.toNat % 32)),
        (.engSlt d e, 0x08, 1, if a.toInt < b.toInt then 1 else 0), (.engSltu d e, 0x09, 1, if a.toNat < b.toNat then 1 else 0),
        (.engMul d e, 0x0A, 3, a * b)],
      Ins.op w = r.2.1 → s.Executing d e w r.2.2.1 →
      Completes r.1 s fun t => WroteReg s t d e (Ins.rd w) r.2.2.2 ∧
        EngRan s t d e ((s.eng d e).went r.2.2.1 ((s.eng d e).pc + 1))) ∧
  (
  ∀ (d : Die) (e : Eng) (s : State) (w : Word), Ins.rd w < 24 →
    let a := s.reg d e (Ins.rs1 w)
    let imm := w.extractLsb' 0 16
    let n := Ins.imm w % 32
    let l := Ins.imm w / 32 % 32 + 1
    ∀ r ∈ [(Instr.engAddi d e, 0x0B, Ins.rs1 w < 24, a + imm.signExtend 32),
        (.engAndi d e, 0x0C, Ins.rs1 w < 24, a &&& imm.setWidth 32), (.engOri d e, 0x0D, Ins.rs1 w < 24, a ||| imm.setWidth 32),
        (.engSlti d e, 0x0E, Ins.rs1 w < 24, if a.toInt < imm.toInt then 1 else 0),
        (.engShi d e, 0x0F, Ins.rs1 w < 24 ∧ Ins.imm w / 32 = 0, a <<< n),
        (.engShi d e, 0x0F, Ins.rs1 w < 24 ∧ Ins.imm w / 32 = 1, a >>> n),
        (.engShi d e, 0x0F, Ins.rs1 w < 24 ∧ Ins.imm w / 32 = 2, a.sshiftRight n),
        (.engLui d e, 0x10, Ins.rs1 w = 0, BitVec.ofNat 32 (Ins.imm w * 2 ^ 16)),
        (.engExt d e, 0x11, Ins.rs1 w < 24 ∧ Ins.imm w < 1024, BitVec.ofNat 32 (a.toNat / 2 ^ n % 2 ^ l)),
        (.engIns d e, 0x12, Ins.rs1 w < 24 ∧ Ins.imm w < 1024 ∧ n + l ≤ 32,
          Fld.put ⟨n, l⟩ (s.reg d e (Ins.rd w)) a.toNat)],
      Ins.op w = r.2.1 → r.2.2.1 → s.Executing d e w 1 →
      Completes r.1 s fun t => WroteReg s t d e (Ins.rd w) r.2.2.2 ∧
        EngRan s t d e ((s.eng d e).went 1 ((s.eng d e).pc + 1)))

/-- R104: CALL N, t copies N registers into the next window of the ring, writes the return index into its v15 and goes on at t;
RET N copies N registers into the window before and goes on at v15. No other register moves. R105, R107, R108: outside window 7,
TRAP, a CALL found with WRES = 7 and a RET found with WRES = 1 enter their trap: CWP is saved, TPC names the next instruction
for SOFT and the trapping one for SPILL and FILL, CWP becomes 7 and execution goes on at 4 × v in 2 run cycles; TRET restores
CWP and goes on at TPC. The registers outside window 7 stay. In window 7 the fault DOUBLE_SPILL ends the handler; CALL at DEPTH
255, RET at DEPTH 0 and RET to an index above 4,095 end it as illegal. -/
def Obligations.EngineCallsAndTraps : Prop :=
  (
  ∀ (d : Die) (e : Eng) (s : State) (w : Word),
    let x := s.eng d e
    (Ins.op w = 0x1D → Ins.n w ≤ 4 → w.toNat / 2 ^ 12 % 2 ^ 11 = 0 → x.depth < 255 → x.wres < 7 → s.Executing d e w 2 →
      let nw := (x.cwp + 1) % 7
      Completes (.engCall d e) s fun t =>
        (∀ i < Ins.n w, t.regIn d e nw i = s.regIn d e x.cwp (12 + i)) ∧ t.regIn d e nw 15 = BitVec.ofNat 32 (x.pc + 1) ∧
        (∀ k, (∀ i < Ins.n w, k ≠ regKey d e nw i) → k ≠ regKey d e nw 15 → SMap.get 0 t.engReg k = SMap.get 0 s.engReg k) ∧
        EngRan s t d e { x.went 2 (w.toNat % 2 ^ 12) with cwp := nw, wres := x.wres + 1, depth := x.depth + 1 }) ∧
    (Ins.op w = 0x1E → Ins.n w ≤ 4 → w.toNat % 2 ^ 23 = 0 → 0 < x.depth → 1 < x.wres → (s.reg d e 15).toNat ≤ 4095 →
      s.Executing d e w 2 →
      let pw := (x.cwp + 6) % 7
      Completes (.engRet d e) s fun t =>
        (∀ i < Ins.n w, t.regIn d e pw (12 + i) = s.regIn d e x.cwp i) ∧
        (∀ k, (∀ i < Ins.n w, k ≠ regKey d e pw (12 + i)) → SMap.get 0 t.engReg k = SMap.get 0 s.engReg k) ∧
        EngRan s t d e { x.went 2 (s.reg d e 15).toNat with cwp := pw, wres := x.wres - 1, depth := x.depth - 1 })) ∧
  (
  ∀ (d : Die) (e : Eng) (s : State) (w : Word),
    let x := s.eng d e
    let entered (t : State) (v tpc code twin : Nat) (spill : Bool) : Prop :=
      t.eng d e = { x.went 2 (4 * v) with
        saved := x.cwp, cwp := 7, tpc := tpc, tcause := BitVec.ofNat 32 (v + code * 256), twin := twin } ∧
      (∀ k, (∀ i < 16, k ≠ regKey d e 7 i) → SMap.get 0 t.engReg k = SMap.get 0 s.engReg k) ∧
      (∀ (d' : Die) (e' : Eng), (d', e') ≠ (d, e) → t.eng d' e' = s.eng d' e') ∧
      (let u := if spill then (s.fetchEcc d e).count (Csr.engCnt d e) EngCnt.spills 1 else s.fetchEcc d e
       t = { u with engs := t.engs, engReg := t.engReg, draws := t.draws })
    (Ins.op w = 0x1F → Ins.low26 w < 256 → x.cwp ≠ 7 → s.Executing d e w 2 →
      Completes (.engTrap d e) s fun t => entered t 2 (x.pc + 1) (Ins.low26 w) x.twin false) ∧
    (Ins.op w = 0x1D → Ins.n w ≤ 4 → w.toNat / 2 ^ 12 % 2 ^ 11 = 0 → x.depth < 255 → x.wres = 7 → x.cwp ≠ 7 →
      s.Executing d e w 2 →
      Completes (.engCall d e) s fun t => entered t 0 x.pc 0 ((x.cwp + 1) % 7) true) ∧
    (Ins.op w = 0x1E → Ins.n w ≤ 4 → w.toNat % 2 ^ 23 = 0 → 0 < x.depth → x.wres = 1 → (s.reg d e 15).toNat ≤ 4095 →
      x.cwp ≠ 7 → s.Executing d e w 2 →
      Completes (.engRet d e) s fun t => entered t 1 x.pc 0 ((x.cwp + 6) % 7) true) ∧
    (Ins.op w = 0x20 → Ins.low26 w = 0 → x.cwp = 7 → s.Executing d e w 2 →
      Completes (.engTret d e) s fun t => t.engReg = s.engReg ∧ EngRan s t d e { x.went 2 x.tpc with cwp := x.saved }) ∧
    (x.slot < 1024 → s.Executing d e w 2 →
      let call : Prop := Ins.op w = 0x1D ∧ Ins.n w ≤ 4 ∧ w.toNat / 2 ^ 12 % 2 ^ 11 = 0
      let ret : Prop := Ins.op w = 0x1E ∧ Ins.n w ≤ 4 ∧ w.toNat % 2 ^ 23 = 0
      let back := (s.reg d e 15).toNat
      let faulted (cause : Nat) (t : State) : Prop :=
        (t.eng d e).running = false ∧ t.engReg = s.engReg ∧
        t.fget (Csr.engCnt d e) EngCnt.faults = min (s.fget (Csr.engCnt d e) EngCnt.faults + 1) (2 ^ EngCnt.faults.width - 1) ∧
        (s.fbit (Csr.engFault d e) EngFault.valid = false →
          t.fget (Csr.engFault d e) EngFault.valid = 1 ∧ t.fget (Csr.engFault d e) EngFault.cause = cause ∧
          t.fget (Csr.engFault d e) EngFault.slot = x.slot ∧ t.fget (Csr.engFault d e) EngFault.pc = x.pc)
      (call → 255 ≤ x.depth → Completes (.engCall d e) s (faulted Fc.illegal)) ∧
      (ret → x.depth = 0 ∨ 4095 < back → Completes (.engRet d e) s (faulted Fc.illegal)) ∧
      (call → x.depth < 255 → x.wres = 7 → x.cwp = 7 → Completes (.engCall d e) s (faulted Fc.doubleSpill)) ∧
      (ret → 0 < x.depth → back ≤ 4095 → x.wres = 1 → x.cwp = 7 → Completes (.engRet d e) s (faulted Fc.doubleSpill)) ∧
      (Ins.op w = 0x1F → Ins.low26 w < 256 → x.cwp = 7 → Completes (.engTrap d e) s (faulted Fc.doubleSpill))))

/-- R106: in window 7, WSV with RESTORE = 0 writes v0 to v15 of window TWIN to the 64 scratch bytes below SPP, and with RESTORE
= 1 it loads them from the 64 bytes at SPP; SPP moves by 64 and WRES by 1. -/
def Obligations.EngineWindowSaveRestore : Prop :=
  ∀ (d : Die) (e : Eng) (s : State) (w : Word),
    let x := s.eng d e
    let a := x.spp.toNat
    Ins.op w = 0x22 → x.cwp = 7 → s.Executing d e w 8 →
    (Ins.low26 w = 0 → x.spl.toNat + 64 ≤ a → a ≤ 0x4000 → 1 ≤ x.wres → x.wres ≤ 7 →
      Completes (.engWsvSave d e) s fun t =>
        (∀ v < 16, t.scratchWord d e (a - 64 + 4 * v) = s.regIn d e x.twin v) ∧
        (∀ k, (k < scrKey d e (a - 64) ∨ scrKey d e a ≤ k) → Memory.read 0 t.scratch k = Memory.read 0 s.scratch k) ∧
        t.eng d e = { x.went 8 (x.pc + 1) with spp := x.spp - 64, wres := x.wres - 1 } ∧
        (∀ (d' : Die) (e' : Eng), (d', e') ≠ (d, e) → t.eng d' e' = s.eng d' e') ∧
        t = { s.fetchEcc d e with engs := t.engs, scratch := t.scratch, scratchBad := t.scratchBad }) ∧
    (Ins.low26 w = 1 → a < s.fget (Csr.engSpill d e) EngSpill.top * 64 → a + 64 ≤ 0x4000 → x.wres < 7 →
      Completes (.engWsvRestore d e) s fun t =>
        (∀ v < 16, t.regIn d e x.twin v = s.scratchWord d e (a + 4 * v)) ∧
        (∀ k, (∀ v < 16, k ≠ regKey d e x.twin v) → SMap.get 0 t.engReg k = SMap.get 0 s.engReg k) ∧
        t.eng d e = { x.went 8 (x.pc + 1) with spp := x.spp + 64, wres := x.wres + 1 } ∧
        (∀ (d' : Die) (e' : Eng), (d', e') ≠ (d, e) → t.eng d' e' = s.eng d' e') ∧
        OnlyRegs s t [Csr.engEccCnt d] ∧
        t = { s with csr := t.csr, storeBad := t.storeBad, scratchBad := t.scratchBad, engs := t.engs, engReg := t.engReg })

/-- R104, R120, R121: a branch compares its two registers and goes on at PC + 1 + offset in 2 run cycles when its condition
holds, else at PC + 1 in 1; BST tests OST; JR goes on at rs1 + immediate. No register changes. R123: MFS reads the special
register its number names, MSLO latching the upper half of the milestone into MSHI; MTS writes SPP, SPL or TPC. What RUN counts
is log entry 27. -/
def Obligations.EngineBranchesAndSpecialRegisters : Prop :=
  (
  ∀ (d : Die) (e : Eng) (s : State) (w : Word),
    let x := s.eng d e
    let a := s.reg d e (Ins.rd w)
    let b := s.reg d e (Ins.rs1 w)
    let target : Int := x.pc + 1 + signedOf 16 (Ins.imm w)
    (∀ r ∈ [(Instr.engBeq d e, 0x15, a = b), (.engBne d e, 0x16, a ≠ b), (.engBlt d e, 0x17, a.toInt < b.toInt),
        (.engBge d e, 0x18, b.toInt ≤ a.toInt), (.engBltu d e, 0x19, a.toNat < b.toNat), (.engBgeu d e, 0x1A, b.toNat ≤ a.toNat)],
      Ins.op w = r.2.1 → Ins.rd w < 24 → Ins.rs1 w < 24 → 0 ≤ target → target ≤ 4095 →
      (r.2.2 → s.Executing d e w 2 →
        Completes r.1 s fun t => t.engReg = s.engReg ∧ EngRan s t d e (x.went 2 target.toNat)) ∧
      (¬ r.2.2 → s.Executing d e w 1 →
        Completes r.1 s fun t => t.engReg = s.engReg ∧ EngRan s t d e (x.went 1 (x.pc + 1)))) ∧
    (∀ r ∈ [(0, Ost.status.get x.ost = 0), (1, Ost.status.get x.ost ≠ 0), (2, Ost.poison.get x.ost = 1),
        (3, Ost.idle.get x.ost = 1)],
      Ins.op w = 0x1B → Ins.rd w = r.1 → Ins.rs1 w = 0 → 0 ≤ target → target ≤ 4095 →
      (r.2 → s.Executing d e w 2 →
        Completes (.engBst d e) s fun t => t.engReg = s.engReg ∧ EngRan s t d e (x.went 2 target.toNat)) ∧
      (¬ r.2 → s.Executing d e w 1 →
        Completes (.engBst d e) s fun t => t.engReg = s.engReg ∧ EngRan s t d e (x.went 1 (x.pc + 1)))) ∧
    (Ins.op w = 0x1C → Ins.rd w = 0 → Ins.rs1 w < 24 → (b + (w.extractLsb' 0 16).signExtend 32).toNat ≤ 4095 →
      s.Executing d e w 2 →
      Completes (.engJr d e) s fun t => t.engReg = s.engReg ∧
        EngRan s t d e (x.went 2 (b + (w.extractLsb' 0 16).signExtend 32).toNat))) ∧
  (
  ∀ (d : Die) (e : Eng) (s : State) (w : Word),
    let x := s.eng d e
    let ranks (r : Nat) : Bool := x.locks.any (fun l => l.2 == r)
    (∀ r ∈ [(0x00, x.ost), (0x02, x.spp), (0x03, x.spl), (0x05, x.tcause), (0x08, x.mshi),
        (0x01, BitVec.ofNat 32 (x.cwp % 8 + x.wres % 8 * 8 + x.depth % 256 * 64)), (0x04, BitVec.ofNat 32 (x.tpc % 4096)),
        (0x06, BitVec.ofNat 32 x.twin), (0x07, BitVec.ofNat 32 (s.msOf d)), (0x09, BitVec.ofNat 32 x.run),
        (0x0B, BitVec.ofNat 32 (e + d * 64 + s.fget (Csr.engCtrl d e) EngCtrl.epoch * 512)),
        (0x0C, BitVec.ofNat 32 x.slot)],
      Ins.op w = 0x23 → Ins.rd w < 24 → Ins.rs1 w = 0 → Ins.imm w = r.1 → s.Executing d e w 1 →
      Completes (.engMfs d e) s fun t => WroteReg s t d e (Ins.rd w) r.2 ∧
        EngRan s t d e { x.went 1 (x.pc + 1) with
          mshi := if r.1 = 7 then BitVec.ofNat 32 (s.msOf d / 2 ^ 32) else x.mshi }) ∧
    (Ins.op w = 0x23 → Ins.rd w < 24 → Ins.rd w ≠ 16 → Ins.rs1 w = 0 → Ins.imm w = 0x0A → s.Executing d e w 1 →
      Completes (.engMfs d e) s fun t => (∀ r < 16, (t.reg d e (Ins.rd w)).getLsbD r = ranks r) ∧
        (∀ k, k ≠ regKey d e x.cwp (Ins.rd w) → SMap.get 0 t.engReg k = SMap.get 0 s.engReg k) ∧
        EngRan s t d e (x.went 1 (x.pc + 1))) ∧
    (∀ r ∈ [(2, { x with spp := s.reg d e (Ins.rs1 w) }), (3, { x with spl := s.reg d e (Ins.rs1 w) }),
        (4, { x with tpc := (s.reg d e (Ins.rs1 w)).toNat % 4096 })],
      Ins.op w = 0x24 → Ins.rd w = 0 → Ins.rs1 w < 24 → Ins.imm w = r.1 → s.Executing d e w 1 →
      Completes (.engMts d e) s fun t => t.engReg = s.engReg ∧ EngRan s t d e (Engine.went r.2 1 (x.pc + 1))))

/-- R113, R114, R116, R133, R134, R142 and R123: LD of an aligned word or pair. From the scratch, the handler store, a flit
window or the port status the value is in rd at once, with its poison in OST; from the port it is the oldest inward word; a bank
or flash access is asked for, of a bank of another die by a message, and the engine waits for it. The message of an access to
another die is log entry 105. -/
def Obligations.EngineLoads : Prop :=
  ∀ (d : Die) (e : Eng) (s : State) (w : Word),
    let x := s.eng d e
    let pair := isPair w
    let a := s.accessAddr d e w
    let now (n : Nat) (v : BitVec 64) (p : Bool) (t : State) : Prop :=
      WroteRegs s t d e (Ins.rd w) pair v ∧ t.eng d e = { x.went n (x.pc + 1) with ost := ost 0 p false 0 } ∧
      (∀ (d' : Die) (e' : Eng), (d', e') ≠ (d, e) → t.eng d' e' = s.eng d' e') ∧ OnlyRegs s t [Csr.engEccCnt d] ∧
      t = { s with csr := t.csr, storeBad := t.storeBad, scratchBad := t.scratchBad, engs := t.engs, engReg := t.engReg }
    let window (m : Option Msg) (o : Nat) : Prop :=
      let m := m.getD Msg.blank
      Completes (.engLd d e) s
        (now 1 ((if pair then windowWord m (o + 4) else 0) ++ windowWord m o) (windowPoison m o))
    Ins.op w = 0x13 → memOperands w → a % (if pair then 8 else 4) = 0 → s.fbit (Csr.engCtrl d e) EngCtrl.ptrap = false →
    (a < 0x4000 → s.Executing d e w 2 →
      Completes (.engLd d e) s (now 2 ((if pair then s.scratchWord d e (a + 4) else 0) ++ s.scratchWord d e a)
        (2 ≤ SMap.get 0 s.scratchBad (engKey d e * 4096 + a / 4) ||
          (pair && 2 ≤ SMap.get 0 s.scratchBad (engKey d e * 4096 + (a + 4) / 4))))) ∧
    (0x4000 ≤ a → a < 0x8000 → pair = false → s.Executing d e w 2 →
      Completes (.engLd d e) s (now 2 ((0 : Word) ++ s.storeWord d e ((a - 0x4000) / 4))
        (2 ≤ SMap.get 0 s.storeBad (storeKey d e ((a - 0x4000) / 4))))) ∧
    (0x10000 ≤ a → a < 0x10240 → s.Executing d e w 1 → window (x.inMsg.map (·.msg)) (a - 0x10000)) ∧
    (0x10400 ≤ a → a < 0x10640 → s.Executing d e w 1 → window (some x.out) (a - 0x10400)) ∧
    (0x10800 ≤ a → a < 0x10A40 → s.Executing d e w 1 → window x.rsp (a - 0x10800)) ∧
    (a = 0x11004 → pair = false → s.Executing d e w 1 → s.borderOpen d (e / 4) = true →
      ∀ v r, x.portIn = v :: r → Completes (.engLd d e) s fun t =>
        WroteReg s t d e (Ins.rd w) v ∧ EngRan s t d e { x.went 1 (x.pc + 1) with portIn := r, ost := ost 0 false false 0 }) ∧
    (a = 0x11008 → pair = false → s.Executing d e w 1 →
      let n := 4 - x.portOut.length + x.portIn.length * 8 + (if s.borderOpen d (e / 4) then 0 else 64)
      Completes (.engLd d e) s (now 1 (BitVec.ofNat 64 n) false)) ∧
    (0x10000000 ≤ a → a < 0x14000000 → s.Executing d e w 1 →
      let dd : Nat := a / 2 ^ 23 % 8
      let b : Nat := a / 2 ^ 17 % 64
      let half := if pair then none else some (a / 4 % 2 == 1)
      let m := accMsg d e .bankAcc 0 a Uop.read 8 none
      s.populated dd = true → b < 48 →
      (dd = d.val → s.sluiceOpen d = true → Completes (.engLd d e) s fun t =>
        AskedBank s t d e b (a % 2 ^ 17 / 8) half .read ∧
        t.eng d e = { x with run := x.run + 1, wait := .bank (Ins.rd w) pair false }) ∧
      (dd ≠ d.val → s.CanAsk d e m dd → Completes (.engLd d e) s fun t => ∃ tag, SentAccess s t d e m dd tag ∧
        t.eng d e = { x with run := x.run + 1, wait := .resp tag (some (Ins.rd w)) pair half, bufs := (t.eng d e).bufs })) ∧
    (0x20000000 ≤ a → a < 0x20780000 → s.Executing d e w 1 → s.sluiceOpen d = true → Completes (.engLd d e) s fun t =>
        t.fl = { s.fl with reads := s.fl.reads ++ [.window ((a - 0x20000000) / 32) (some (d, e)) none] } ∧
        t.eng d e = { x with run := x.run + 1, wait := .flash (Ins.rd w) pair (a - 0x20000000) } ∧
        t = { s.fetchEcc d e with fl := t.fl, engs := t.engs })

/-- R113, R114, R116, R133, R142: ST of an aligned word or pair to the scratch, the OUT window, the engine port or a bank: the
bytes stored to hold rd or the pair, the bits of the header that Table 03-5 does not name staying 0, and every other byte is as
before; a bank of another die is stored to by a message, and the store does not wait for its response. R142: while the border
sluices of its reach pass beats, the fabric puts a word into the inward FIFO of an engine port that holds fewer than 4, and
takes the oldest word of the outward FIFO. The message of an access to another die is log entry 105, how many stores the send
credit admits 117. -/
def Obligations.EngineStoresAndPorts : Prop :=
  (
  ∀ (d : Die) (e : Eng) (s : State) (w : Word),
    let x := s.eng d e
    let pair := isPair w
    let a := s.accessAddr d e w
    let n := if pair then 8 else 4
    let lo := s.reg d e (Ins.rd w)
    let hi := s.reg d e (Ins.rd w + 1)
    Ins.op w = 0x14 → memOperands w → a % n = 0 → s.Executing d e w 1 →
    (a < 0x4000 → Completes (.engSt d e) s fun t =>
      t.scratchWord d e a = lo ∧ (pair = true → t.scratchWord d e (a + 4) = hi) ∧
      (∀ k, (k < scrKey d e a ∨ scrKey d e a + n ≤ k) → Memory.read 0 t.scratch k = Memory.read 0 s.scratch k) ∧
      t.engReg = s.engReg ∧ t.eng d e = x.went 1 (x.pc + 1) ∧
      t = { s.fetchEcc d e with engs := t.engs, scratch := t.scratch, scratchBad := t.scratchBad }) ∧
    (0x10400 ≤ a → a < 0x10640 → Completes (.engSt d e) s fun t =>
      let o := a - 0x10400
      let named (k : Nat) (v : Word) : Word := if k < 16 then v &&& beatWord hdrMask k else v
      windowWord (t.eng d e).out o = named (o / 4) lo ∧
      (pair = true → windowWord (t.eng d e).out (o + 4) = named (o / 4 + 1) hi) ∧
      (∀ k, k < 144 → (4 * k < o ∨ o + n ≤ 4 * k) →
        named k (windowWord (t.eng d e).out (4 * k)) = named k (windowWord x.out (4 * k))) ∧
      t.engReg = s.engReg ∧ EngRan s t d e { x.went 1 (x.pc + 1) with out := (t.eng d e).out }) ∧
    (a = 0x11000 → pair = false → x.portOut.length < 4 → s.borderOpen d (e / 4) = true → Completes (.engSt d e) s fun t =>
      t.engReg = s.engReg ∧ EngRan s t d e { x.went 1 (x.pc + 1) with portOut := x.portOut ++ [lo] }) ∧
    (0x10000000 ≤ a → a < 0x14000000 →
      let dd : Nat := a / 2 ^ 23 % 8
      let b : Nat := a / 2 ^ 17 % 64
      let v : BitVec 64 := if pair then hi ++ lo else if a / 4 % 2 = 1 then lo ++ (0 : Word) else (0 : Word) ++ lo
      let be : BitVec 8 := if pair then 0xFF else if a / 4 % 2 = 1 then 0xF0 else 0x0F
      let m := accMsg d e .bankAcc 3 a Uop.write n (some v)
      s.populated dd = true → b < 48 →
      (dd = d.val → s.sluiceOpen d = true → s.storesOut d e ≤ Config.bankCredits → Completes (.engSt d e) s fun t =>
        AskedBank s t d e b (a % 2 ^ 17 / 8) none (.write be v false) ∧ t.eng d e = x.went 1 (x.pc + 1)) ∧
      (dd ≠ d.val → s.CanAsk d e m dd → Completes (.engSt d e) s fun t => ∃ tag, SentAccess s t d e m dd tag ∧
        t.eng d e = { x.went 1 (x.pc + 1) with bufs := (t.eng d e).bufs }))) ∧
  (
  ∀ (d : Die) (e : Eng) (s : State), s.portOpen d (e / 4) = true →
    let x := s.eng d e
    (∀ w, x.portIn.length < 4 → Completes (.enginePortFabric d e (some w)) s fun t =>
      t.eng d e = { x with portIn := x.portIn ++ [w] } ∧
      (∀ (d' : Die) (e' : Eng), (d', e') ≠ (d, e) → t.eng d' e' = s.eng d' e') ∧ t = { s with engs := t.engs }) ∧
    (∀ w r, x.portOut = w :: r → Completes (.enginePortFabric d e none) s fun t =>
      t.eng d e = { x with portOut := r } ∧
      (∀ (d' : Die) (e' : Eng), (d', e') ≠ (d, e) → t.eng d' e' = s.eng d' e') ∧
      (let b : FabBeat := ⟨[w.extractLsb' 0 16, w.extractLsb' 16 16], false, false⟩
       let k := fabInKey d (0x300 + e)
       SMap.get [] t.fabIn k = SMap.get [] s.fabIn k ++ [b] ∧ ∀ j ≠ k, SMap.get [] t.fabIn j = SMap.get [] s.fabIn j) ∧
      t = { s with
        engs := t.engs, fabIn := t.fabIn, outbox := s.outbox ++ [.fabric d (0x300 + e) (w.setWidth 256) false false] }))

/-- R124, R125, R128: SEND of a legal OUT message whose target exists: the message, its sender fields filled in by the engine
(NEEDRSP is RES), enters the crossbar toward its target, a buffer is reserved for its response, rd holds its XTAG and OST is OK;
one whose port or die does not exist is discarded, OST is NOT_PRESENT, and a reserved buffer holds the NOT_PRESENT reply at
once. R116, R118, R125: WAITR shows the response with the tag of rs1 in the RSP window, frees the buffer of the response claimed
before and sets OST from it; a response that arrives at its cluster's endpoint fills the buffer that reserved its tag, and the
response to an access by message frees its buffer and ends the instruction that waits for it, with its data in rd; FWCP copies
the IN header, and with ALL the IN data beats, to OUT. Which tags SEND picks and what FWCP copies are log entries 18, 24. -/
def Obligations.EngineMessages : Prop :=
  (
  ∀ (d : Die) (e : Eng) (s : State) (w : Word),
    let x := s.eng d e
    let o := x.out
    let dk := o.g Hd.dkind
    let vc := o.g Hd.vc
    let rsp : Bool := Ins.imm w % 2 == 1
    let res : Bool := rsp || dk == 1 || dk == 3
    let filled (tag : Nat) : Msg :=
      let m := ((((outMsg x).w Hd.srcDie d).w Hd.srcIdx (8 + e)).w Hd.needRsp (b2n rsp)).w Hd.xtag tag
      if dk == 3 || vc == 2 then (m.w Hd.stamped 1).w Hd.ms24 (s.msOf d % 2 ^ 24) else m.w Hd.stamped 0
    let goodTag (tag : Nat) : Prop := tag < 2 ^ 16 ∧
      (if rsp then x.bufs.all (fun b => b.xtag != tag) = true else tag = o.g Hd.xtag)
    let done (t : State) (tag st : Nat) (r : Option Msg) : Prop :=
      WroteReg s t d e (Ins.rd w) (BitVec.ofNat 32 tag) ∧
      t.eng d e = { x.went (1 + o.g Hd.beats) (x.pc + 1) with
        answered := x.answered || Ins.imm w / 2 % 2 == 1, ost := ost st false false 0,
        bufs := if res then x.bufs ++ [{ unit := false, xtag := tag, rsp := r, claimed := false, dir := dk == 3 }] else x.bufs } ∧
      (∀ (d' : Die) (e' : Eng), (d', e') ≠ (d, e) → t.eng d' e' = s.eng d' e')
    Ins.op w = 0x27 → Ins.rd w < 24 → Ins.rs1 w = 0 → Ins.imm w < 4 →
    vc ≤ 3 → o.g Hd.beats ≤ 8 → (o.g Hd.beats = 0 ∨ vc = 0 ∨ vc = 3) → dk ≤ 4 →
    (x.onSnp = true → vc ≠ 0 ∧ vc ≠ 2) → (res = true → x.bufs.length < 4) →
    s.sluiceOpen d = true → s.fitsIn d (13 + e / 8) (outMsg x) = true → s.Executing d e w (1 + o.g Hd.beats) →
    (∀ die ep, s.sendTarget d (outMsg x) = some (die, ep) → Completes (.engSend d e) s fun t => ∃ tag, goodTag tag ∧
      done t tag 0 none ∧
      SMap.get [] t.xin (xkey d (13 + e / 8) vc) = SMap.get [] s.xin (xkey d (13 + e / 8) vc) ++
        [⟨s.serial, routed (filled tag) die ep, die, ep⟩] ∧
      (∀ k ≠ xkey d (13 + e / 8) vc, SMap.get [] t.xin k = SMap.get [] s.xin k) ∧
      t = { s.fetchEcc d e with
        draws := s.draws + 1, serial := s.serial + 1, engs := t.engs, engReg := t.engReg, xin := t.xin }) ∧
    (s.sendTarget d (outMsg x) = none → Completes (.engSend d e) s fun t => ∃ tag, goodTag tag ∧
      done t tag St.notPresent (some ((filled tag).replyTo d (8 + e) St.notPresent)) ∧
      t = { s.fetchEcc d e with draws := s.draws + 1, engs := t.engs, engReg := t.engReg })) ∧
  (
  ∀ (d : Die) (e : Eng) (s : State) (w : Word),
    let x := s.eng d e
    (∀ b m, Ins.op w = 0x28 → Ins.rd w = 0 → Ins.rs1 w < 24 → Ins.rs2 w = 0 → Ins.fn w = 0 →
      x.bufs.find? (fun b => b.xtag == (s.reg d e (Ins.rs1 w)).toNat % 2 ^ 16 && !b.claimed && !b.unit) = some b →
      (b.dir = true → s.rankBlocked d e = false) → b.rsp = some m →
      (m.g Hd.poison = 0 ∨ s.fbit (Csr.engCtrl d e) EngCtrl.ptrap = false) → s.Executing d e w 1 →
      Completes (.engWaitr d e) s fun t => t.engReg = s.engReg ∧
        EngRan s t d e { x.went 1 (x.pc + 1) with
          rsp := some m,
          ost := ost (if m.g Hd.srcIdx < 8 && m.name.responds then 0 else m.g Hd.status) (m.g Hd.poison ≠ 0) false 0,
          bufs := (x.bufs.filter (fun c => !c.claimed)).map
            (fun c => if c.xtag == b.xtag then { c with claimed := true } else c) }) ∧
    (∀ (c : Fin 8) (vc : Vc) (y : XMsg) (rest : List XMsg), s.sluiceOpen d = true →
      SMap.get [] s.xout (xkey d (13 + c) (Vc.code vc)) = y :: rest → y.msg.g Hd.dkind = 4 → y.msg.g Hd.destIdx = 8 + e →
      x.bufs.any (fun b => b.xtag == y.msg.g Hd.xtag && b.unit) = false →
      x.bufs.any (fun b => b.xtag == y.msg.g Hd.xtag && b.rsp.isNone) = true →
      Completes (.engineResponseArrive d c vc) s fun t =>
        t.eng d e = { x with bufs := x.bufs.map (fun b =>
          if b.xtag == y.msg.g Hd.xtag && b.rsp.isNone then { b with rsp := some y.msg } else b) } ∧
        (∀ (d' : Die) (e' : Eng), (d', e') ≠ (d, e) → t.eng d' e' = s.eng d' e') ∧
        SMap.get [] t.xout (xkey d (13 + c) (Vc.code vc)) = rest ∧
        OnlyRegs s t [Csr.xbCredit d (13 + c) (Vc.code vc)] ∧
        t = { s with csr := t.csr, xout := t.xout, engs := t.engs }) ∧
    (∀ (c : Fin 8) (vc : Vc) (y : XMsg) (rest : List XMsg) (rd : Option Nat) (pair : Bool) (half : Option Bool),
      s.sluiceOpen d = true → SMap.get [] s.xout (xkey d (13 + c) (Vc.code vc)) = y :: rest → y.msg.g Hd.dkind = 4 →
      y.msg.g Hd.destIdx = 8 + e → x.bufs.any (fun b => b.xtag == y.msg.g Hd.xtag && b.unit) = true →
      x.wait = .resp (y.msg.g Hd.xtag) rd pair half → (∀ r, rd = some r → if pair then pairOk r = true else r < 24) →
      (y.msg.g Hd.poison = 0 ∨ s.fbit (Csr.engCtrl d e) EngCtrl.ptrap = false) →
      Completes (.engineResponseArrive d c vc) s fun t =>
        (∀ r, rd = some r → WroteRegs s t d e r pair (halfOf half ((y.msg.beats.headD 0).setWidth 64))) ∧
        (rd = none → t.engReg = s.engReg) ∧
        t.eng d e = { x.went 0 (x.pc + 1) with
          ost := ost (y.msg.g Hd.status) (y.msg.g Hd.poison ≠ 0) false 0,
          bufs := x.bufs.filter (fun b => b.xtag ≠ y.msg.g Hd.xtag) } ∧
        (∀ (d' : Die) (e' : Eng), (d', e') ≠ (d, e) → t.eng d' e' = s.eng d' e') ∧
        SMap.get [] t.xout (xkey d (13 + c) (Vc.code vc)) = rest ∧
        OnlyRegs s t [Csr.xbCredit d (13 + c) (Vc.code vc)] ∧
        t = { s with csr := t.csr, xout := t.xout, engs := t.engs, engReg := t.engReg }) ∧
    (∀ im, x.inMsg = some im → Ins.op w = 0x29 → Ins.low26 w ≤ 1 →
      let all := Ins.fn w = 1
      let n := if Ins.fn w = 1 then 1 + im.msg.g Hd.beats else 1
      s.Executing d e w n →
      Completes (.engFwcp d e) s fun t =>
        (∀ o < 64, windowWord (t.eng d e).out o = windowWord im.msg o) ∧
        (all → ∀ o, 64 ≤ o → o < 64 + 64 * im.msg.beats.length → windowWord (t.eng d e).out o = windowWord im.msg o) ∧
        (∀ o, 64 ≤ o → (all → 64 + 64 * im.msg.beats.length ≤ o) → windowWord (t.eng d e).out o = windowWord x.out o) ∧
        t.engReg = s.engReg ∧ EngRan s t d e { x.went n (x.pc + 1) with out := (t.eng d e).out }))

/-- R133, R135 (07 R241, R253, R254): BATOM asks an 8-byte aligned bank word for its atomic, of another die by a message, and
waits for the old value; DQPUSH puts the item into the push buffer, or drops and counts it when the buffer is full; DQPOP, at
its turn, takes the first item of the lowest priority number of the draining bank, or the idle item, with OST OK; it waits while
another engine's turn comes first. The message of an access to another die is log entry 105, the order of a ditch's operations
109. -/
def Obligations.EngineAtomicsAndDitches : Prop :=
  ∀ (d : Die) (e : Eng) (s : State) (w : Word),
    let x := s.eng d e
    let a := (s.reg d e (Ins.rs1 w)).toNat
    let q := (a + Ins.imm w % 64) % 64
    (∀ r ∈ [(Instr.engBatomFetchAdd d e, 0, BankOp.fetchAdd), (.engBatomSwap d e, 1, BankOp.swap)],
      Ins.op w = 0x2A → pairOk (Ins.rd w) = true → Ins.rs1 w < 24 → pairOk (Ins.rs2 w) = true → Ins.fn w = r.2.1 →
      0x10000000 ≤ a → a < 0x14000000 → a % 8 = 0 → s.Executing d e w 1 →
      let dd : Nat := a / 2 ^ 23 % 8
      let b : Nat := a / 2 ^ 17 % 64
      let v := s.pair d e (Ins.rs2 w)
      let m := accMsg d e .bankAcc 3 a (if r.2.1 = 0 then Uop.fetchAdd else Uop.swap) 8 (some v)
      s.populated dd = true → b < 48 →
      (dd = d.val → s.sluiceOpen d = true → Completes r.1 s fun t =>
        AskedBank s t d e b (a % 2 ^ 17 / 8) none (r.2.2 v) ∧
        t.eng d e = { x with run := x.run + 1, wait := .bank (Ins.rd w) true true }) ∧
      (dd ≠ d.val → s.CanAsk d e m dd → Completes r.1 s fun t => ∃ tag, SentAccess s t d e m dd tag ∧
        t.eng d e = { x with run := x.run + 1, wait := .resp tag (some (Ins.rd w)) true none, bufs := (t.eng d e).bufs })) ∧
    (Ins.op w = 0x2B → pairOk (Ins.rd w) = true → Ins.rs1 w < 24 → Ins.imm w < 512 → s.Executing d e w 2 →
      let i : DitchItem := { data := s.pair d e (Ins.rd w), prio := ⟨Ins.imm w / 64 % 8, by omega⟩, poison := false }
      (x.pushes.length < 4 → Completes (.engDqpush d e) s fun t =>
        t.eng d e = { x.went 2 (x.pc + 1) with pushes := x.pushes ++ [⟨s.serial, q, i⟩], ost := ost 0 false false 0 } ∧
        (∀ (d' : Die) (e' : Eng), (d', e') ≠ (d, e) → t.eng d' e' = s.eng d' e') ∧
        t = { s.fetchEcc d e with engs := t.engs, serial := s.serial + 1 }) ∧
      (4 ≤ x.pushes.length → Completes (.engDqpush d e) s fun t => t.engReg = s.engReg ∧
        t.eng d e = { x.went 2 (x.pc + 1) with ost := ost 0 false false 0 } ∧
        t = { ((s.fetchEcc d e).count (Csr.dqCnt d q) DqCnt.drop 1).noticeLim d 0x0407 0 [(1, d), (1, q), (1, e)] with
          engs := t.engs })) ∧
    (∀ i, Ins.op w = 0x2C → pairOk (Ins.rd w) = true → Ins.rs1 w < 24 → Ins.imm w < 1024 → Ins.imm w / 64 % 8 = 0 →
      s.fbit (Csr.engCtrl d e) EngCtrl.ptrap = false → s.Executing d e w 2 → s.sluiceOpen d = true →
      (∀ p ∈ x.pushes, p.q ≠ q) →
      let y := (s.ditch d q).exchange
      (y.drain ≠ [] ∨ Ins.imm w / 512 = 0 → s.popTurn d q y.drain.isEmpty e = false → Completes (.engDqpop d e) s fun t =>
        t.engReg = s.engReg ∧ EngRan s t d e { x with wait := .retry }) ∧
      (y.drain = [] → Ins.imm w / 512 = 1 → Completes (.engDqpop d e) s fun t =>
        t.engReg = s.engReg ∧ EngRan s t d e { x with wait := .retry }) ∧
      (s.popTurn d q y.drain.isEmpty e = true →
      (bestItem y.drain = some i → laneParity i.item.data = i.parity → Completes (.engDqpop d e) s fun t =>
        WrotePair s t d e (Ins.rd w) i.item.data ∧
        t.eng d e = { x.went 2 (x.pc + 1) with ost := ost 0 i.item.poison false i.item.prio } ∧
        (t.ditch d q).drain = dropItem i y.drain ∧ (t.ditch d q).fill = y.fill) ∧
      (bestItem y.drain = none → Ins.imm w / 512 = 0 → Completes (.engDqpop d e) s fun t =>
        WrotePair s t d e (Ins.rd w) (s.csrGet (Csr.dqIdleHi d q) ++ s.csrGet (Csr.dqIdleLo d q)) ∧
        t.eng d e = { x.went 2 (x.pc + 1) with ost := ost 0 false true 7 } ∧
        (t.ditch d q).drain = [] ∧ (t.ditch d q).fill = [])))

/-- R130, R131: DLOOK answers a line's entry as its home slice stores it, or NOT_PRESENT and 0; DWR writes the entry with the
home slice's milestone in MS, BAD_ARGUMENT for a STATE of 4 to 7 or another TAG, BUSY when no way is free, NOT_PRESENT for a
line that is not tracked. The set that is read has its check bits looked at first (R70). R136: a CSR access of an engine. Of a
register of its die the read's value is in rd, or the write takes effect, and OST is OK; a write to block 0x9 or 0xD and an
access to die 0xF are REFUSED; an access outside the defined space or of a die that is not populated reads 0 or is discarded,
NOT_PRESENT. An access to another die goes there by a message, and the engine waits for its response under the buffer that it
reserves. The order of DWR's checks and the messages of CSR accesses are log entries 26, 105. -/
def Obligations.EngineDirectoryAndCsrAccess : Prop :=
  (
  ∀ (d : Die) (e : Eng) (s : State) (w : Word),
    let x := s.eng d e
    let k := s.part.k
    let a := (s.pair d e (Ins.rs1 w)).toNat % 2 ^ 52
    let h := homeDie k a
    let set := lineSet k a
    let tracked : Prop := s.fbit (Csr.dirCtrl h) DirCtrl.en = true ∧ inWindow k (s.fget (Csr.dirWin h) DirWin.base) a = true
    let u := (s.fetchEcc d e).eccSet h set
    let after (st : Nat) (t : State) : Prop := t.eng d e = { x.went 1 (x.pc + 1) with ost := ost st false false 0 } ∧
      (∀ (d' : Die) (e' : Eng), (d', e') ≠ (d, e) → t.eng d' e' = s.eng d' e')
    pairOk (Ins.rs1 w) = true → Ins.fn w = 0 → s.pathUp d h = true → s.sliceReady d e h = true → s.pathUp h d = true →
    s.Executing d e w 1 →
    (Ins.op w = 0x25 → pairOk (Ins.rd w) = true → Ins.rs2 w = 0 →
      (tracked → ∀ y, u.wayOf h a = some y → Completes (.engDlook d e) s fun t =>
        WrotePair s t d e (Ins.rd w) (u.entry h set y) ∧ after 0 t ∧ t = { u with engs := t.engs, engReg := t.engReg }) ∧
      (tracked → u.wayOf h a = none → Completes (.engDlook d e) s fun t =>
        WrotePair s t d e (Ins.rd w) 0 ∧ after St.notPresent t ∧ t = { u with engs := t.engs, engReg := t.engReg }) ∧
      (¬ tracked → Completes (.engDlook d e) s fun t =>
        WrotePair s t d e (Ins.rd w) 0 ∧ after St.notPresent t ∧
          t = { s.fetchEcc d e with engs := t.engs, engReg := t.engReg })) ∧
    (Ins.op w = 0x26 → Ins.rd w = 0 → pairOk (Ins.rs2 w) = true → s.rankBlocked d e = false →
      let v := s.pair d e (Ins.rs2 w)
      let good := De.state.get v < 4 ∧ De.tag.get v = lineTag k a
      (¬ tracked → Completes (.engDwr d e) s fun t => after St.notPresent t ∧ t = { s.fetchEcc d e with engs := t.engs }) ∧
      (tracked → s.openOn h (a / 64) = none → ¬ good → Completes (.engDwr d e) s fun t => after St.badArgument t ∧
        t = { s.fetchEcc d e with engs := t.engs }) ∧
      (tracked → s.openOn h (a / 64) = none → good → u.wayOf h a = none → u.freeWay h set = none →
        Completes (.engDwr d e) s fun t => after St.busy t ∧ t = { u with engs := t.engs }) ∧
      (tracked → s.openOn h (a / 64) = none → good → ∀ y, (u.wayOf h a = some y ∨ u.wayOf h a = none ∧ u.freeWay h set = some y) →
        Completes (.engDwr d e) s fun t => after 0 t ∧
          (let n := t.entry h set y
           De.state.get n = De.state.get v ∧ (De.state.get v ≠ 0 → De.tag.get n = De.tag.get v ∧
             De.owner.get n = De.owner.get v ∧ De.sharers.get n = De.sharers.get v ∧ De.ms.get n = s.msOf h % 2 ^ 8)) ∧
          (∀ j ≠ entKey h set y, SMap.get 0 t.dirEnt j = SMap.get 0 u.dirEnt j) ∧
          t = { u with engs := t.engs, dirEnt := t.dirEnt }))) ∧
  (
  ∀ (d : Die) (e : Eng) (s : State) (w : Word),
    let x := s.eng d e
    let a := (s.reg d e (Ins.rs1 w)).toNat / 4 * 4
    let die := a / 2 ^ 28
    let v := s.reg d e (Ins.rd w)
    let blk := a / 2 ^ 24 % 16
    let u := s.fetchEcc d e
    let ended (st : Nat) : Engine := { x.went 1 (x.pc + 1) with ost := ost st false false 0 }
    Ins.op w = 0x2D → Ins.rd w < 24 → Ins.rs1 w < 24 → Ins.rs2 w = 0 → s.Executing d e w 1 →
    let over_ (y t : State) : Prop := t.eng d e = { (y.eng d e).went 1 ((y.eng d e).pc + 1) with ost := ost 0 false false 0 } ∧
      (∀ (d' : Die) (e' : Eng), (d', e') ≠ (d, e) → t.eng d' e' = y.eng d' e') ∧ t = { y with engs := t.engs }
    let dbg : Prop := (findRow a).map (·.base) = some Rg.engDbgSel.base ∨ (findRow a).map (·.base) = some Rg.engDbgData.base
    (die = d.val → s.sluiceOpen d = true → s.populated d = true → (findRow a).isSome = true → ¬ dbg →
      (Ins.fn w = 0 → Completes (.engCsrRead d e) s fun t =>
        over_ ((u.busRead a none false).2.setReg d e (Ins.rd w) (u.busRead a none false).1) t) ∧
      (Ins.fn w = 1 → blk ≠ 9 → blk ≠ 13 → Completes (.engCsrWrite d e) s fun t => over_ (u.busWrite a v false) t)) ∧
    (die = d.val → s.sluiceOpen d = true → s.populated d = true →
      (Ins.fn w = 1 → (blk = 9 ∨ blk = 13 ∨ ((findRow a).isSome = true ∧ dbg)) → Completes (.engCsrWrite d e) s fun t =>
        t.engReg = s.engReg ∧ EngRan s t d e (ended St.refused)) ∧
      (Ins.fn w = 0 → (findRow a).isSome = true → dbg → Completes (.engCsrRead d e) s fun t =>
        WroteReg s t d e (Ins.rd w) 0 ∧ EngRan s t d e (ended St.refused))) ∧
    (die ≠ d.val → s.populated die = true →
      (Ins.fn w = 0 → let m := accMsg d e .csrAcc 0 a Uop.read 4 none
        s.CanAsk d e m die → Completes (.engCsrRead d e) s fun t => ∃ tag, SentAccess s t d e m die tag ∧
          t.eng d e = { x with
            run := x.run + 1, wait := .resp tag (some (Ins.rd w)) false none, bufs := (t.eng d e).bufs }) ∧
      (Ins.fn w = 1 → let m := accMsg d e .csrAcc 3 a Uop.write 4 (some (v.setWidth 64))
        s.CanAsk d e m die → Completes (.engCsrWrite d e) s fun t => ∃ tag, SentAccess s t d e m die tag ∧
          t.eng d e = { x with run := x.run + 1, wait := .resp tag none false none, bufs := (t.eng d e).bufs })) ∧
    (∀ r ∈ [(die = 15, St.refused), (die ≠ 15 ∧ s.populated die = false, St.notPresent),
        (die = d.val ∧ s.populated die = true ∧ s.sluiceOpen d = true ∧ (findRow a).isSome = false ∧ (Ins.fn w = 1 → blk ≠ 9 ∧ blk ≠ 13),
          St.notPresent)],
      r.1 → (die = d.val → s.sluiceOpen d = true) →
      (Ins.fn w = 0 → Completes (.engCsrRead d e) s fun t =>
        WroteReg s t d e (Ins.rd w) 0 ∧ EngRan s t d e (ended r.2)) ∧
      (Ins.fn w = 1 → Completes (.engCsrWrite d e) s fun t => t.engReg = s.engReg ∧ EngRan s t d e (ended r.2))))

/-- R138, R139 (02 R94 to R96): LOCK of a key that no engine holds is granted while the table has room for it, and otherwise it
waits; its release, a message on ESC, frees the lock for the next waiter; LOCK_WAKE grants it to the first in the order of R96,
whose wake, a message on ESC, completes its instruction; the abort of a claim takes it and a grant made on it back. R140, R141:
FENCE in wait mode ends when everything the handler issued has taken effect, with the milestone in rd; in notify mode it
registers a fence over what is under way; a fence whose operations have landed sends its stamped completion to its event. That a
claim takes effect without transit is log entry 106. -/
def Obligations.EngineLocksAndFences : Prop :=
  (
  ∀ (d : Die) (e : Eng) (s : State) (w : Word),
    let x := s.eng d e
    let key := s.reg d e (Ins.rs1 w)
    let kd := key.toNat / 2 ^ 28 % 8
    let rank := Ins.imm w % 16
    let table (t : State) (n : Nat) : List Lock := SMap.get [] t.locks n
    (Ins.op w = 0x2E → Ins.rd w = 0 → Ins.rs1 w < 24 → Ins.imm w < 32 → s.Executing d e w 1 →
      key.toNat < 2 ^ 31 →
      (Ins.imm w < 16 → s.pathUp d kd = true → s.pathUp kd d = true → s.lockOnWay d e key = false → x.locks.all (fun l => decide (l.2 < rank)) = true →
        (x.onSnp = true → s.fget (Csr.dirCtrl d) DirCtrl.txnRank < rank) →
        let queued (t : State) : Prop :=
          t.claims = s.claims ++ [{ die := kd, key := key, rank := rank, eDie := d, eng := e, esc := x.esc }] ∧
          t.eng d e = { x with run := x.run + 1, wait := .lock key rank } ∧
          (∀ (d' : Die) (e' : Eng), (d', e') ≠ (d, e) → t.eng d' e' = s.eng d' e') ∧
          t = { s.fetchEcc d e with engs := t.engs, claims := t.claims }
        let room : Prop := (table s kd).length < 256 ∧ ∀ c ∈ s.claims, c.die = kd → (s.lockOf c.key).isSome = true
        (s.lockOf key = none → room → Completes (.engLock d e) s fun t =>
          table t kd = table s kd ++ [{ key := key, rank := rank, holder := some (d.val, e.val) }] ∧
          (∀ n ≠ kd, table t n = table s n) ∧
          t.eng d e = { x.went 1 (x.pc + 1) with locks := x.locks ++ [(key, rank)], ost := ost 0 false false 0 } ∧
          t = { s.fetchEcc d e with engs := t.engs, locks := t.locks }) ∧
        (s.lockOf key = none → ¬ room → Completes (.engLock d e) s queued) ∧
        (∀ l, s.lockOf key = some l → l.rank = rank → Completes (.engLock d e) s queued)) ∧
      (16 ≤ Ins.imm w → x.locks.any (·.1 == key) = true → ∀ l, s.lockOf key = some l → l.holder = some (d.val, e.val) →
        Completes (.engLockRelease d e) s fun t =>
          let m := (((escMsg .escRelease).w Hd.srcDie d).w Hd.srcIdx (8 + e)).w Hd.addr key.toNat
          Entered s t d (13 + e / 8) ⟨s.serial, m, kd, 12⟩ ∧
          t.eng d e = { x.went 1 (x.pc + 1) with locks := x.locks.filter (·.1 ≠ key), ost := ost 0 false false 0 } ∧
          (∀ (d' : Die) (e' : Eng), (d', e') ≠ (d, e) → t.eng d' e' = s.eng d' e') ∧
          t = { s.fetchEcc d e with engs := t.engs, xin := t.xin, xsrc := t.xsrc, serial := s.serial + 1 })) ∧
    (∀ (i : Nat) (y : XMsg) (ep : Fin 22), 11 ≤ ep.val → s.Forwards d ep 4 i y →
      let u := s.took d ep 4 i y
      let key : Word := BitVec.ofNat 32 (y.msg.g Hd.addr)
      let from_ : Nat × Nat := (y.msg.g Hd.srcDie, y.msg.g Hd.srcIdx - 8)
      let freed (t : State) (cs : List Claim) : Prop := ∀ l, s.lockOf key = some l → l.holder = some from_ →
        t.lockOf key = if cs.any (·.key == key) then some { l with holder := none } else none
      (y.msg.name = .escRelease → Completes (.crossbarForward d ep) s fun t =>
        freed t s.claims ∧ ((∀ l, s.lockOf key = some l → l.holder ≠ some from_) → t = u) ∧ t = { u with locks := t.locks }) ∧
      (y.msg.name = .escAbort → Completes (.crossbarForward d ep) s fun t =>
        t.claims = s.claims.filter (fun c => !(c.eDie == from_.1 && c.eng == from_.2 && c.key == key)) ∧ freed t t.claims ∧
        t = { u with locks := t.locks, claims := t.claims }) ∧
      (∀ (e : Eng) (rank : Nat), y.msg.name = .escWake → y.msg.g Hd.destIdx = 8 + e → (s.eng d e).wait = .lock key rank →
        (s.eng d e).running = true → Completes (.crossbarForward d ep) s fun t =>
          (let z := s.eng d e
           t.eng d e = { z.went 0 (z.pc + 1) with locks := z.locks ++ [(key, rank)], ost := ost 0 false false 0 }) ∧
          (∀ (d' : Die) (e' : Eng), (d', e') ≠ (d, e) → t.eng d' e' = s.eng d' e') ∧ t = { u with engs := t.engs })) ∧
    let woken (t : State) (c : Claim) : Prop :=
      let m := (((escMsg .escWake).w Hd.srcDie d).w Hd.srcIdx 73).w Hd.addr c.key.toNat
      Entered s t d 12 ⟨s.serial, (m.w Hd.destDie c.eDie).w Hd.destIdx (8 + c.eng), c.eDie, 13 + c.eng / 8⟩ ∧
      t.claims = s.claims.erase c ∧
      t = { s with locks := t.locks, claims := t.claims, xin := t.xin, xsrc := t.xsrc, serial := s.serial + 1 }
    (∀ (key : Word) (l : Lock) (c : Claim), s.clockOn d = true → key.toNat / 2 ^ 28 % 8 = d → s.lockOf key = some l →
      l.holder = none → firstClaim (s.claims.filter (·.key == key)) = some c → c.die = d → c.rank = l.rank →
      Completes (.lockWake d (some key)) s fun t =>
        t.lockOf key = some { l with holder := some (c.eDie, c.eng) } ∧ woken t c) ∧
    (∀ (c : Claim), s.clockOn d = true → (table s d).length < 256 →
      firstClaim (s.claims.filter (fun c => c.die == d && (s.lockOf c.key).isNone)) = some c → c.key.toNat / 2 ^ 28 % 8 = d →
      Completes (.lockWake d none) s fun t =>
        t.lockOf c.key = some { key := c.key, rank := c.rank, holder := some (c.eDie, c.eng) } ∧ woken t c)) ∧
  (
  ∀ (d : Die) (e : Eng) (s : State) (w : Word),
    let x := s.eng d e
    (Ins.op w = 0x2F → pairOk (Ins.rd w) = true → Ins.rs1 w = 0 → Ins.rs2 w = 0 → Ins.fn w = 0 → s.Executing d e w 1 →
      s.landed d e = true → Completes (.engFenceWait d e) s fun t =>
        WrotePair s t d e (Ins.rd w) (BitVec.ofNat 64 (s.msOf d)) ∧
        EngRan s t d e { x.went 1 (x.pc + 1) with ost := ost 0 false false 0 }) ∧
    (Ins.op w = 0x2F → Ins.rd w = 0 → Ins.rs1 w < 24 → Ins.rs2 w = 0 → Ins.fn w = 1 → s.Executing d e w 1 →
      x.fences.length < 4 → Completes (.engFenceNotify d e) s fun t => t.engReg = s.engReg ∧
        (let f : NFence := { target := s.reg d e (Ins.rs1 w), ids := s.issued d e }
         EngRan s t d e { x.went 1 (x.pc + 1) with ost := ost 0 false false 0, fences := x.fences ++ [f] })) ∧
    (∀ f fs, x.fences = f :: fs → s.clockOn d = true → s.fenceClear d e f = true → s.populated (f.target.toNat % 8) = true →
      Completes (.fenceCompletionSend d e) s fun t => ∃ m : Msg,
        Entered s t d (13 + e / 8) ⟨s.serial, m, f.target.toNat % 8, 12⟩ ∧
        m.beats = [] ∧ m.g Hd.vc = 1 ∧ m.g Hd.dkind = 1 ∧ m.g Hd.destDie = f.target.toNat % 8 ∧
        m.g Hd.destSlot = f.target.toNat / 2 ^ 3 % 2 ^ 10 ∧ m.g Hd.destFlag = f.target.toNat / 2 ^ 13 % 2 ^ 5 ∧
        m.g Hd.epoch = f.target.toNat / 2 ^ 18 % 2 ^ 6 ∧ m.g Hd.stamped = 1 ∧ m.g Hd.ms24 = s.msOf d % 2 ^ 24 ∧
        m.g Hd.srcDie = d ∧ m.g Hd.srcIdx = 8 + e ∧
        t.eng d e = { x with fences := fs } ∧
        t = { s with xin := t.xin, xsrc := t.xsrc, serial := s.serial + 1, engs := t.engs }))

/-- R111, R120, R129, R145, R146: END and a fault end the handler: the engine is idle, holds no lock, buffer or IN message,
keeps its notify fences, and its task is not RUNNING and has level 0. END counts the locks it releases and keeps OUT; a fault
discards OUT, is counted, and is recorded in ENG_FAULT when VALID is 0. BUDGET at the end of the budget, ILLEGAL for a reserved
opcode and past index 4,095, STORE_ECC for a word that cannot be read. R96, R143, R160, R162: a wait at its limit is counted and
aborted: below level 3 the task is READY again one level up with its message at the head of its inbox and its dispatch's flags
set, unless MASK and MODE as they now stand leave it IDLE; at level 3 the handler's transaction ends. The order of the budget
test and the legality test is log entry 25. -/
def Obligations.HandlerEndsAndWaitLimits : Prop :=
  (
  ∀ (d : Die) (e : Eng) (s : State),
    let x := s.eng d e
    let over_ (t : State) : Prop :=
      (t.eng d e).running = false ∧ (t.eng d e).wait = .none ∧ (t.eng d e).bufs = [] ∧ (t.eng d e).locks = [] ∧
      (t.eng d e).inMsg = none ∧ (t.eng d e).fences = x.fences ∧ t.engReg = s.engReg ∧
      (∀ (d' : Die) (e' : Eng), (d', e') ≠ (d, e) → t.eng d' e' = s.eng d' e') ∧
      t.taskState d x.slot ≠ TSt.running ∧ t.fget (Csr.taskW0 d x.slot) TaskW0.esc = 0
    let faulted (t : State) (cause : Nat) : Prop :=
      t.fget (Csr.engCnt d e) EngCnt.faults = min (s.fget (Csr.engCnt d e) EngCnt.faults + 1) (2 ^ EngCnt.faults.width - 1) ∧
      (s.fbit (Csr.engFault d e) EngFault.valid = true → t.csrGet (Csr.engFault d e) = s.csrGet (Csr.engFault d e)) ∧
      (s.fbit (Csr.engFault d e) EngFault.valid = false →
        t.fget (Csr.engFault d e) EngFault.valid = 1 ∧ t.fget (Csr.engFault d e) EngFault.cause = cause ∧
        t.fget (Csr.engFault d e) EngFault.slot = x.slot ∧ t.fget (Csr.engFault d e) EngFault.pc = min x.pc 4095)
    x.slot < 1024 →
    (∀ w, Ins.op w = 0x21 → Ins.low26 w = 0 → s.Executing d e w 1 → Completes (.engEnd d e) s fun t =>
      over_ t ∧ (t.eng d e).out = x.out ∧
      t.fget (Csr.engMiscCnt d) EngMiscCnt.lockLeak =
        min (s.fget (Csr.engMiscCnt d) EngMiscCnt.lockLeak + x.locks.length) (2 ^ EngMiscCnt.lockLeak.width - 1) ∧
      (x.inMsg.any (fun m => expects m.msg) = true → x.answered = false → faulted t Fc.unanswered)) ∧
    (s.canRun d e = true →
      (x.budget ≤ x.run → Completes (.budgetFault d e) s fun t =>
        over_ t ∧ (t.eng d e).out = Msg.blank ∧ faulted t Fc.budget) ∧
      (x.run < x.budget →
        (∀ w, s.fetched d e = some w → 0x30 ≤ Ins.op w → Completes (.engIllegal d e) s fun t =>
          over_ t ∧ (t.eng d e).out = Msg.blank ∧ faulted t Fc.illegal) ∧
        (4096 ≤ x.pc → Completes (.engIllegal d e) s fun t =>
          over_ t ∧ (t.eng d e).out = Msg.blank ∧ faulted t Fc.illegal) ∧
        (x.pc < 4096 → 2 ≤ SMap.get 0 s.storeBad (storeKey d e x.pc) → Completes (.engIllegal d e) s fun t =>
          over_ t ∧ (t.eng d e).out = Msg.blank ∧ faulted t Fc.storeEcc)))) ∧
  (
  ∀ (d : Die) (e : Eng) (s : State),
    let x := s.eng d e
    let n := x.slot
    let idle (t : State) : Prop := (t.eng d e).running = false ∧ (t.eng d e).wait = .none ∧ (t.eng d e).bufs = [] ∧
      (t.eng d e).locks = [] ∧ (t.eng d e).inMsg = none ∧ (t.eng d e).fences = x.fences ∧ t.engReg = s.engReg ∧
      t.fget (Csr.dirWaitCnt d) DirWaitCnt.aborts =
        min (s.fget (Csr.dirWaitCnt d) DirWaitCnt.aborts + 1) (2 ^ DirWaitCnt.aborts.width - 1)
    s.clockOn d = true → x.running = true → x.wait ≠ .none → n < 1024 →
    (x.esc < 3 → s.taskValid d n = true → (s.taskX d n).pendInv = false → s.servable d n = true →
      Completes (.waitLimit d e) s fun t => idle t ∧
        (let flags := s.taskFlags d n ||| x.v1.toNat
         let mask := s.fget (Csr.taskW1 d n) TaskW1.mask
         let ready : Prop := if s.fbit (Csr.taskW0 d n) TaskW0.mode then mask ≠ 0 ∧ flags &&& mask = mask else flags &&& mask ≠ 0
         (ready → t.taskState d n = TSt.ready) ∧ (¬ ready → t.taskState d n = TSt.idle)) ∧ t.fget (Csr.taskW0 d n) TaskW0.esc = x.esc + 1 ∧
        t.taskFlags d n = (s.taskFlags d n ||| x.v1.toNat) ∧
        (t.taskX d n).inbox = x.inMsg.toList ++ (s.taskX d n).inbox) ∧
    (3 ≤ x.esc → Completes (.waitLimit d e) s fun t => idle t ∧ t.taskState d n ≠ TSt.running ∧
      t.fget (Csr.taskW0 d n) TaskW0.esc = 0 ∧
      t.fget (Csr.dirWaitCnt d) DirWaitCnt.final =
        min (s.fget (Csr.dirWaitCnt d) DirWaitCnt.final + 1) (2 ^ DirWaitCnt.final.width - 1)))

/-- R106, R149, R151 and R166: the engine registers by message or CSR write. PARK; EPOCH while PARKED; HALT for a host that
holds ENGDBG; ENG_HS_DATA reads or writes the selected word of a parked engine's handler store and advances the index, or sets
ERR; ENG_SPILL takes a TOP up to 256 and a LIMIT up to TOP, and keeps its value otherwise. R151: for a host that holds ENGDBG,
ENG_STEP lets a halted engine execute the instruction at its PC, as the command of that instruction's row does with HALT = 0,
and halts it again. -/
def Obligations.EngineDebugRegisters : Prop :=
  (
  ∀ (d : Die) (e : Eng) (s : State), s.dieOn d = true →
    let c := Csr.engCtrl d e
    let sel := Csr.engHsSel d
    let he := s.fget sel EngHsSel.engine
    let hi := s.fget sel EngHsSel.index
    (∀ b : Bool, Completes (.engPark d e b) s fun t =>
      t.csrGet c = EngCtrl.park.put (s.csrGet c) (b2n b) ∧ OnlyRegs s t [c] ∧ t = { s with csr := t.csr }) ∧
    (∀ ep : Fin 64, s.parked d e = true → (∀ n : Nat, n < 1024 → s.taskValid d n = false) →
      Completes (.engEpochWrite d e ep) s fun t =>
        t.csrGet c = EngCtrl.epoch.put (s.csrGet c) ep ∧ OnlyRegs s t [c] ∧ t = { s with csr := t.csr }) ∧
    (∀ (ep : Fin 64) (n : TaskNo), s.parked d e = true → s.taskValid d n = true → s.taskState d n = TSt.idle →
      (∀ m : Nat, m < 1024 → m ≠ n.val → s.taskValid d m = false) →
      (∀ f : Eng, f ≠ e → s.eligible d n f = false) → ep.val ≠ s.fget (Csr.taskW3 d n) TaskW3.epoch →
      Completes (.engEpochWrite d e ep) s fun t => t.taskState d n = TSt.unservable ∧ (t.taskX d n).inbox = []) ∧
    (∀ (h : HostId) (b : Bool), s.holds h Right.engdbg = true → Completes (.engHalt d e h b) s fun t =>
      t.csrGet c = EngCtrl.halt.put (s.csrGet c) (b2n b) ∧ OnlyRegs s t [c] ∧ t = { s with csr := t.csr }) ∧
    (∀ w : Option Word, s.parked d he = true → Completes (.engHsDataAccess d w) s fun t =>
      t.csrGet sel = EngHsSel.index.put (s.csrGet sel) ((hi + 1) % 2 ^ 12) ∧ OnlyRegs s t [sel] ∧
      (∀ v, w = some v → t.storeWord d he hi = v ∧ SMap.get 0 t.storeBad (storeKey d he hi) = 0 ∧
        ∀ k ≠ storeKey d he hi, SMap.get 0 t.store k = SMap.get 0 s.store k ∧ SMap.get 0 t.storeBad k = SMap.get 0 s.storeBad k) ∧
      (w = none → t.store = s.store ∧ t.storeBad = s.storeBad) ∧
      t = { s with csr := t.csr, store := t.store, storeBad := t.storeBad }) ∧
    (∀ w : Option Word, s.parked d he = false → Completes (.engHsDataAccess d w) s fun t =>
      t.fget sel EngHsSel.err = 1 ∧ t.fget sel EngHsSel.index = (hi + 1) % 2 ^ 12 ∧ OnlyRegs s t [sel] ∧
        t = { s with csr := t.csr }) ∧
    (∀ v : Word, let r := Csr.engSpill d e
      (EngSpill.top.get v ≤ 256 → EngSpill.limit.get v ≤ EngSpill.top.get v → Completes (.engSpillWrite d e v) s fun t =>
        t.fget r EngSpill.top = EngSpill.top.get v ∧ t.fget r EngSpill.limit = EngSpill.limit.get v ∧ OnlyRegs s t [r] ∧
        t = { s with csr := t.csr }) ∧
      ((256 < EngSpill.top.get v ∨ EngSpill.top.get v < EngSpill.limit.get v) →
        Completes (.engSpillWrite d e v) s fun t => t = s))) ∧
  (
  ∀ (d : Die) (e : Eng) (h : HostId) (s : State) (w : Word),
    s.dieOn d = true → s.halted d e = true → s.holds h Right.engdbg = true → s.fetched d e = some w →
    ∀ r ∈ [(0x00, 0, Instr.engAdd d e), (0x01, 0, .engSub d e), (0x02, 0, .engAnd d e), (0x03, 0, .engOr d e),
        (0x04, 0, .engXor d e), (0x05, 0, .engSll d e), (0x06, 0, .engSrl d e), (0x07, 0, .engSra d e), (0x08, 0, .engSlt d e),
        (0x09, 0, .engSltu d e), (0x0A, 0, .engMul d e), (0x0B, 0, .engAddi d e), (0x0C, 0, .engAndi d e),
        (0x0D, 0, .engOri d e), (0x0E, 0, .engSlti d e), (0x0F, 0, .engShi d e), (0x10, 0, .engLui d e),
        (0x11, 0, .engExt d e), (0x12, 0, .engIns d e), (0x13, 0, .engLd d e), (0x14, 0, .engSt d e), (0x15, 0, .engBeq d e),
        (0x16, 0, .engBne d e), (0x17, 0, .engBlt d e), (0x18, 0, .engBge d e), (0x19, 0, .engBltu d e),
        (0x1A, 0, .engBgeu d e), (0x1B, 0, .engBst d e), (0x1C, 0, .engJr d e), (0x1D, 0, .engCall d e), (0x1E, 0, .engRet d e),
        (0x1F, 0, .engTrap d e), (0x20, 0, .engTret d e), (0x21, 0, .engEnd d e), (0x22, 1, .engWsvSave d e),
        (0x22, 2, .engWsvRestore d e), (0x23, 0, .engMfs d e), (0x24, 0, .engMts d e), (0x25, 0, .engDlook d e),
        (0x26, 0, .engDwr d e), (0x27, 0, .engSend d e), (0x28, 0, .engWaitr d e), (0x29, 0, .engFwcp d e),
        (0x2A, 1, .engBatomFetchAdd d e), (0x2A, 2, .engBatomSwap d e), (0x2B, 0, .engDqpush d e), (0x2C, 0, .engDqpop d e),
        (0x2D, 1, .engCsrRead d e), (0x2D, 2, .engCsrWrite d e), (0x2F, 1, .engFenceWait d e), (0x2F, 2, .engFenceNotify d e),
        (0x2E, 3, .engLock d e), (0x2E, 4, .engLockRelease d e)],
      Ins.op w = r.1 → (r.2.1 = 1 → w.toNat % 2 = 0) → (r.2.1 = 2 → w.toNat % 2 = 1) →
      (r.2.1 = 3 → w.toNat / 16 % 2 = 0) → (r.2.1 = 4 → w.toNat / 16 % 2 = 1) →
      ∃ u, exec r.2.2 (s.fset (Csr.engCtrl d e) EngCtrl.halt 0) = .next u ∧
        exec (.engStep d e h) s = .next (u.fset (Csr.engCtrl d e) EngCtrl.halt 1))

/-- R103, R110, R159, R163, R173: the scheduler's pick of a task and an engine, made once in a SCHED cycle, starts the handler:
the slot is RUNNING with LAST, its FLAGS lose the bits of MASK, the cluster is debited ECLASS + 1, the engine holds the message
at the head of the inbox, and window 0 is loaded; execution begins after the header word with its budget. The scan's order is
log entry 32. -/
def Obligations.TaskDispatchStarts : Prop :=
  ∀ (d : Die) (s : State) (n e step : Nat),
    let a := Csr.taskW0 d n
    let entry := s.fget a TaskW0.entry
    let hw := s.storeWord d e entry
    let flags := s.taskFlags d n
    let mask := s.fget (Csr.taskW1 d n) TaskW1.mask
    let m := (s.taskX d n).inbox.head?
    let x := s.eng d e
    n < 1024 → e < 64 → s.clockOn d = true → s.fbit (Csr.schCtrl d) SchCtrl.dispEn = true → (s.schedSt d).stepAt ≠ s.ticks + 1 →
    s.scan d = some (n, e, step) →
    hw.toNat / 2 ^ 26 = 0x3F → hw.toNat / 2 ^ 10 % 2 ^ 16 = 0 → SMap.get 0 s.storeBad (storeKey d e entry) ≤ 1 →
    Completes (.taskDispatch d) s fun t =>
      t.taskState d n = TSt.running ∧ t.fget (Csr.taskW3 d n) TaskW3.last = e ∧ t.taskFlags d n = flags - (flags &&& mask) ∧
      (t.taskX d n).inbox = (s.taskX d n).inbox.tail ∧
      t.fget (Csr.pmuAllot d (e / 8)) PmuAllot.balance = wrapInt 18 (s.balance d (e / 8) - (s.fget a TaskW0.eclass + 1)) ∧
      t.eng d e = { x with
        cwp := 0, wres := 1, depth := 0, spp := BitVec.ofNat 32 (s.fget (Csr.engSpill d e) EngSpill.top * 64),
        spl := BitVec.ofNat 32 (s.fget (Csr.engSpill d e) EngSpill.limit * 64), run := 0, slot := n, pc := entry + 1,
        budget := hw.toNat % 2 ^ 6 + 1, running := true, wait := .none, v1 := BitVec.ofNat 32 (flags &&& mask),
        esc := s.fget a TaskW0.esc, inMsg := m, answered := false } ∧
      t.regIn d e 0 0 = BitVec.ofNat 32 n ∧ t.regIn d e 0 1 = BitVec.ofNat 32 (flags &&& mask) ∧
      t.regIn d e 0 2 = BitVec.ofNat 32 (match m with
        | some m => 1 + m.msg.g Hd.vc * 2 ^ 1 + m.msg.g Hd.beats * 2 ^ 4
        | none => 0) ∧
      t.regIn d e 0 3 = BitVec.ofNat 32 (s.fget a TaskW0.esc) ∧ t.regIn d e 0 4 = 0x00010000 ∧
      (∀ v, 5 ≤ v → v < 16 → t.regIn d e 0 v = 0) ∧
      (∀ k, (∀ v < 16, k ≠ regKey d e 0 v) → SMap.get 0 t.engReg k = SMap.get 0 s.engReg k)

/-- R155 to R158, R165: a message that reaches the scheduler for a valid slot joins its inbox, sets its flag and readiness is
evaluated; for an invalid slot it is counted in NO_TASK and an engine's message returns as NOT_PRESENT; with a stale epoch it is
counted as misrouted and returned. Its credit returns where it is not kept. A flag write sets the flags written as 1; a new MASK
or MODE evaluates readiness again. -/
def Obligations.TaskEventsAndReadiness : Prop :=
  ∀ (d : Die) (s : State),
    (∀ (vc : Vc) (y : XMsg) (rest : List XMsg), s.sluiceOpen d = true →
      SMap.get [] s.xout (xkey d 12 (Vc.code vc)) = y :: rest → y.msg.g Hd.dkind = 1 →
      let m := y.msg
      let n := m.g Hd.destSlot
      let eng := 8 ≤ m.g Hd.srcIdx ∧ m.g Hd.srcIdx ≤ 71
      let reply (t : State) (st : Nat) : Prop :=
        let r := m.returned d st
        Entered s t d 12 ⟨s.serial, r, m.g Hd.srcDie, endpointOf (m.g Hd.srcIdx)⟩
      let cnt (t : State) (f : Fld) : Prop :=
        t.fget (Csr.schCnt d) f = min (s.fget (Csr.schCnt d) f + 1) (2 ^ f.width - 1)
      (s.taskValid d n = true → s.taskState d n ≠ TSt.unservable →
        (eng → m.g Hd.epoch = s.fget (Csr.taskW3 d n) TaskW3.epoch) →
        Completes (.schedulerEvent d vc) s fun t =>
          (∃ x : InMsg, (t.taskX d n).inbox = (s.taskX d n).inbox ++ [x] ∧ x.msg = m ∧ x.flag = m.g Hd.destFlag) ∧
          t.taskFlags d n = (s.taskFlags d n ||| 2 ^ m.g Hd.destFlag) ∧ Evaluated s t d n ∧
          SMap.get [] t.xout (xkey d 12 (Vc.code vc)) = rest ∧ OnlyRegs s t [Csr.taskW2 d n, Csr.taskW3 d n] ∧
          t = { s with csr := t.csr, xout := t.xout, tasks := t.tasks, ageCtr := t.ageCtr }) ∧
      (s.taskValid d n = false → eng → Completes (.schedulerEvent d vc) s fun t =>
        cnt t SchCnt.noTask ∧ reply t St.notPresent ∧ SMap.get [] t.xout (xkey d 12 (Vc.code vc)) = rest ∧
        OnlyRegs s t [Csr.schCnt d, Csr.xbCredit d 12 (m.g Hd.vc)] ∧
        t = { s with csr := t.csr, xout := t.xout, xin := t.xin, xsrc := t.xsrc, serial := s.serial + 1 }) ∧
      (s.taskValid d n = true → eng → m.g Hd.epoch ≠ s.fget (Csr.taskW3 d n) TaskW3.epoch →
        ¬ (m.g Hd.vc = 1 ∧ m.g Hd.stamped = 1) → Completes (.schedulerEvent d vc) s fun t =>
        cnt t SchCnt.misrouted ∧ reply t St.misrouted ∧ SMap.get [] t.xout (xkey d 12 (Vc.code vc)) = rest)) ∧
    (∀ (n : TaskNo) (v : Word), s.dieOn d = true → s.taskValid d n = true → Completes (.taskFlagsWrite d n v) s fun t =>
      t.taskFlags d n = (s.taskFlags d n ||| v.toNat) ∧ Evaluated s t d n ∧ OnlyRegs s t [Csr.taskW2 d n, Csr.taskW3 d n] ∧
      t = { s with csr := t.csr, tasks := t.tasks, ageCtr := t.ageCtr }) ∧
    (∀ (n : TaskNo) (mask : Option Word) (mode : Option Bool), s.dieOn d = true → s.taskValid d n = true →
      Completes (.taskReadinessWrite d n mask mode) s fun t =>
        t.csrGet (Csr.taskW1 d n) = mask.getD (s.csrGet (Csr.taskW1 d n)) ∧
        t.fbit (Csr.taskW0 d n) TaskW0.mode = mode.getD (s.fbit (Csr.taskW0 d n) TaskW0.mode) ∧ Evaluated s t d n ∧
        OnlyRegs s t [Csr.taskW0 d n, Csr.taskW1 d n, Csr.taskW3 d n] ∧
        t = { s with csr := t.csr, tasks := t.tasks, ageCtr := t.ageCtr })

/-- R164, R166 to R169: writes of a task slot. A new PRIO moves a READY task to that list; a CLMASK under which some engine
matches leaves the task as it is, and ends or begins UNSERVABLE otherwise; V to 0 empties the slot, after the handler for a
RUNNING task; V to 1 makes it IDLE at level 0; a new EPOCH sends away the queued messages of another epoch; affinity ends. What
V = 0 keeps and what a requeue inherits are log entries 34, 108. -/
def Obligations.TaskSlotWrites : Prop :=
  ∀ (d : Die) (n : TaskNo) (s : State), s.dieOn d = true →
    let w0 := Csr.taskW0 d n
    let x := s.taskX d n
    (∀ p : Fin 8, Completes (.taskPrioWrite d n p) s fun t =>
      t.csrGet w0 = TaskW0.prio.put (s.csrGet w0) p ∧ OnlyRegs s t [w0] ∧
      (s.taskState d n = TSt.ready → t.listPrio d n = p) ∧ (t.taskX d n).stamp = x.stamp ∧
      t = { s with csr := t.csr, tasks := t.tasks }) ∧
    (∀ m : BitVec 8,
      let matched := ∃ e : Eng, m.getLsbD (e / 8) = true ∧ s.engEpoch d e = s.fget (Csr.taskW3 d n) TaskW3.epoch
      (matched → s.taskState d n ≠ TSt.unservable → Completes (.taskClmaskWrite d n m) s fun t =>
        t.csrGet w0 = TaskW0.clmask.put (s.csrGet w0) m.toNat ∧ OnlyRegs s t [w0] ∧ t = { s with csr := t.csr }) ∧
      (¬ matched → s.taskValid d n = true → (s.taskState d n = TSt.ready ∨ s.taskState d n = TSt.idle) →
        Completes (.taskClmaskWrite d n m) s fun t => t.csrGet w0 = TaskW0.clmask.put (s.csrGet w0) m.toNat ∧
          t.taskState d n = TSt.unservable ∧ (t.taskX d n).inbox = [])) ∧
    (s.taskValid d n = true →
      (s.taskState d n = TSt.running → Completes (.taskInvalidate d n) s fun t =>
        t.csrGet w0 = TaskW0.v.put (s.csrGet w0) 0 ∧ t.taskX d n = { x with pendInv := true } ∧ OnlyRegs s t [w0] ∧
        t = { s with csr := t.csr, tasks := t.tasks }) ∧
      (s.taskState d n ≠ TSt.running → Completes (.taskInvalidate d n) s fun t =>
        t.csrGet w0 = TaskW0.v.put (s.csrGet w0) 0 ∧ t.taskFlags d n = 0 ∧ t.taskState d n = TSt.idle ∧
        (t.taskX d n).inbox = [])) ∧
    (s.taskValid d n = false → s.taskState d n ≠ TSt.running → s.servable d n = true → s.taskReady d n = false →
      Completes (.taskValidate d n) s fun t =>
        t.csrGet w0 = TaskW0.esc.put (TaskW0.v.put (s.csrGet w0) 1) 0 ∧ t.taskState d n = TSt.idle ∧
        OnlyRegs s t [w0, Csr.taskW3 d n] ∧ t = { s with csr := t.csr }) ∧
    (∀ ep : Fin 64, (∃ e : Eng, bitOf (s.fget w0 TaskW0.clmask) (e / 8) = true ∧ s.engEpoch d e = ep) →
      s.taskState d n ≠ TSt.unservable →
      Completes (.taskEpochWrite d n ep) s fun t => t.fget (Csr.taskW3 d n) TaskW3.epoch = ep ∧
        t.taskState d n = s.taskState d n ∧
        t.taskX d n = { x with inbox := x.inbox.filter (fun m => m.epoch.all (· == ep.val)) }) ∧
    Completes (.affinityExpire d n) s fun t => t.taskX d n = { x with affinity := false } ∧
      (∀ m : TaskNo, m ≠ n → t.taskX d m = s.taskX d m) ∧ t = { s with tasks := t.tasks }

/-- R171, R172, R179: at a refill tick each cluster's balance grows by the refill, no further than CAP: FULL up to 95 °C, a
share that falls linearly to nothing at 120 °C, from the highest sample in quarters of a degree, which PMU_TEMP then shows. What
dispatch debits in the same cycle is subtracted from the refilled balance, and dispatch in it looks at the balance before. R195
to R197: an unlock of a PLL that was locked is counted and shown, and marks it, the reference of a master PLL's unlock being
kept; a relock clears the mark, UNLOCK with the last of the die, and after a master PLL's unlock of more than 1 µs the milestone
is loaded again, forward only; a slew moves a milestone that is more than 2 ns off by one tick; a read of MS_LO latches the
upper word into MS_HI. -/
def Obligations.AllotmentsAndMilestones : Prop :=
  (
  ∀ (d : Die) (s : State) (m : Int) (ms : List Int),
    let temp : Int := (m :: ms).foldl (fun a b => max a ((b + 125) / 250)) ((m + 125) / 250)
    let full := s.fget (Csr.pmuAllotCfg d) PmuAllotCfg.full
    let cap := s.fget (Csr.pmuAllotCfg d) PmuAllotCfg.cap
    s.clockOn d = true → s.msOf d % 1000 = 0 → (s.schedSt d).refillMs ≠ s.msOf d + 1 →
    (∀ c, s.debited d c ≤ 2 ^ 10) → -1024 ≤ temp → temp < 1024 →
    Completes (.allotRefill d (m :: ms)) s fun t =>
      let r := t.fget (Csr.pmuTemp d) PmuTemp.refill
      (temp ≤ 4 * 95 → r = full) ∧ (4 * 95 < temp → temp < 4 * 120 → (r : Int) = full * (480 - temp) / 100) ∧
      (4 * 120 ≤ temp → r = 0) ∧
      (∀ c < 8, t.balance d c = min (s.balance d c + s.debited d c + r) cap - s.debited d c ∧
        t.testBalance d c = s.balance d c + s.debited d c) ∧
      signedOf 11 (t.fget (Csr.pmuTemp d) PmuTemp.t) = temp ∧
      t.fbit (Csr.pmuTemp d) PmuTemp.taper = decide (4 * 95 < temp) ∧
      t.fbit (Csr.pmuTemp d) PmuTemp.zero = decide (4 * 120 ≤ temp) ∧ t.tasks = s.tasks ∧ t.engs = s.engs) ∧
  (
  ∀ (d : Die) (s : State), s.dieOn d = true →
    let lost (t : State) : Nat := SMap.get 0 t.pllLost d
    let mark (lane : Option Gw) : Nat := match lane with | none => 0 | some g => if g.val = 0 then 1 else 3
    let now : Nat := SMap.get 0 s.ms d
    let err : Int := (now : Int) - s.refMs
    (∀ lane : Option Gw, bitOf (lost s) (mark lane) = false → Completes (.pllUnlock d lane) s fun t =>
      bitOf (lost t) (mark lane) = true ∧ (∀ i, i ≠ mark lane → bitOf (lost t) i = bitOf (lost s) i) ∧
      t.fget (Csr.sluSts d) SluSts.unlock = 1 ∧
      (let f := if lane = none then SluLockCnt.master else SluLockCnt.lane
       t.fget (Csr.sluLockCnt d) f = min (s.fget (Csr.sluLockCnt d) f + 1) (2 ^ f.width - 1)) ∧
      (lane = none → SMap.get 0 t.unlockAt d = s.refMs) ∧ (lane ≠ none → t.unlockAt = s.unlockAt) ∧
      OnlyRegs s t [Csr.sluSts d, Csr.sluLockCnt d] ∧
      t = { s with csr := t.csr, pllLost := t.pllLost, unlockAt := t.unlockAt }) ∧
    (∀ lane : Option Gw, bitOf (lost s) (mark lane) = true → Completes (.pllRelock d lane) s fun t =>
      let long : Prop := lane = none ∧ SMap.get 0 s.unlockAt d + 1000 < s.refMs
      bitOf (lost t) (mark lane) = false ∧ (∀ i, i ≠ mark lane → bitOf (lost t) i = bitOf (lost s) i) ∧
      t.fget (Csr.sluSts d) SluSts.unlock =
        (if [0, 1, 3].all (fun j => j == mark lane || !bitOf (lost s) j) then 0 else s.fget (Csr.sluSts d) SluSts.unlock) ∧
      (long → SMap.get 0 t.ms d = max now s.refMs ∧ (∀ c ≠ d.val, SMap.get 0 t.ms c = SMap.get 0 s.ms c) ∧
        t.fget (Csr.msAdjCnt d) MsAdjCnt.reloads = min (s.fget (Csr.msAdjCnt d) MsAdjCnt.reloads + 1) (2 ^ MsAdjCnt.reloads.width - 1)) ∧
      (¬ long → t.ms = s.ms) ∧ OnlyRegs s t [Csr.sluSts d, Csr.msAdjCnt d] ∧
      t = { s with csr := t.csr, pllLost := t.pllLost, ms := t.ms }) ∧
    (err < -2 → s.clockOn d = true → Completes (.milestoneSlew d) s fun t => SMap.get 0 t.ms d = now + 1 ∧
      (∀ c ≠ d.val, SMap.get 0 t.ms c = SMap.get 0 s.ms c) ∧ t = { s with ms := t.ms }) ∧
    (2 < err → s.clockOn d = true → Completes (.milestoneSlew d) s fun t => bitOf (lost t) 2 = true ∧ t.ms = s.ms ∧
      t.fget (Csr.msAdjCnt d) MsAdjCnt.slews = min (s.fget (Csr.msAdjCnt d) MsAdjCnt.slews + 1) (2 ^ MsAdjCnt.slews.width - 1) ∧
      OnlyRegs s t [Csr.msAdjCnt d] ∧ t = { s with csr := t.csr, pllLost := t.pllLost }) ∧
    Completes (.msLoRead d) s fun t => t.csrGet (Csr.msHi d) = BitVec.ofNat 32 (SMap.get 0 s.ms d / 2 ^ 32) ∧
      OnlyRegs s t [Csr.msHi d] ∧ t = { s with csr := t.csr })

/-- R18, R27, R28, R33, R34, R53: on a port that is up, a message of a good flit within its credits joins the ingress queue of
its channel with the header the shell fills; a configuration request below offset 0x800 is answered by the shell, with the word
read or with the word written in place, one to a function that the gateway does not present is answered as an error, a request
of an absent feature as the standard prescribes, and one its standard terminates goes no further: what the shell consumes
returns its credits; the messages of a flit are taken in order. A flit that fails sets FEC_UNCORR, advances REPLAYS, is counted
among the replays of the last 1 ms, which GW_REPLAY_THR bounds, and delivers nothing. The tag that a response is given, and what
a message beyond the credits does, are log entries 13, 117. -/
def Obligations.FlitReceive : Prop :=
  ∀ (p : PortNo) (s : State), s.portUp p = true →
    let good (ls : List LinkMsg) : Instr := .gatewayFlitReceive p { fecCorr := false, bad := false, msgs := ls }
    (∀ l : LinkMsg, l.msg.g Hd.poison = 0 → l.msg.name.responds = false → l.msg.beats.length ≤ 8 →
      s.creditsLeft p l.msg = true →
      let name := l.msg.name
      let fn : Nat := l.fn
      let w := l.msg.g Hd.addr % 0x1000 / 4
      let own := l.msg.g Hd.addr % 0x1000 < 0x800
      let paid : List Emission := match creditOf name with | some c => [.credits p c 1 (dataCredits c l.msg)] | none => []
      (∀ f, l.depends = some f → s.feature p f = false → Completes (good [l]) s fun t =>
        t = { s with outbox := s.outbox ++ .linkAbsent p l.msg f :: paid }) ∧
      ((∀ f, l.depends = some f → s.feature p f = true) →
        (name ∈ [PName.terminated, .mctpVdm] → Completes (good [l]) s fun t => t = { s with outbox := s.outbox ++ paid }) ∧
        (name ∈ [PName.cfgRead, .cfgWrite] → s.presents p fn = false → Completes (good [l]) s fun t =>
          t = { s with outbox := s.outbox ++ .linkError p l.msg :: paid }) ∧
        (name = .cfgRead → own → s.presents p fn = true → Completes (good [l]) s fun t =>
          t = { s with outbox := s.outbox ++ .shellAnswer p l.msg (some (s.cfgValue p fn w)) :: paid }) ∧
        (name = .cfgWrite → own → s.presents p fn = true → Completes (good [l]) s fun t =>
          let k := (p.val * 8 + fn) * 512 + w
          SMap.get 0 t.cfgWords k =
            Config.cfgWrite fn (s.shownRole p) w (SMap.get 0 s.cfgWords k) l.msg.hdr (l.msg.beats.headD 0) ∧
          (∀ j ≠ k, SMap.get 0 t.cfgWords j = SMap.get 0 s.cfgWords j) ∧
          (∃ r, t.outbox = s.outbox ++ .shellAnswer p l.msg none :: r) ∧
          t = { s with cfgWords := t.cfgWords, outbox := t.outbox, bar := t.bar }) ∧
        (name ∉ [PName.terminated, .mctpVdm, .internal, .escDown, .escAccept, .escRelease, .escWake, .escAbort, .bankAcc, .csrAcc] →
          (name ∈ [PName.cfgRead, .cfgWrite] → ¬ own ∧ s.presents p fn = true) →
          Completes (good [l]) s fun t => ∃ m : Msg,
            let k := p * 8 + Vc.code name.vc
            SMap.get [] t.ingress k = SMap.get [] s.ingress k ++ [{ l with msg := m }] ∧
            (∀ j ≠ k, SMap.get [] t.ingress j = SMap.get [] s.ingress j) ∧
            m.beats = l.msg.beats ∧ m.name = name ∧ m.g Hd.vc = Vc.code name.vc ∧
            m.g Hd.beats = l.msg.beats.length ∧ m.g Hd.proto = name.proto ∧ m.g Hd.port = p ∧ m.g Hd.srcDie = p / 8 ∧
            m.g Hd.srcIdx = p % 8 ∧ m.g Hd.stamped = 0 ∧ m.g Hd.needRsp = 0 ∧ m.g Hd.dkind = 0 ∧
            m.g Hd.addr = l.msg.g Hd.addr ∧ m.g Hd.opcode = l.msg.g Hd.opcode ∧ m.g Hd.ptag = l.msg.g Hd.ptag ∧
            t = { s with ingress := t.ingress }))) ∧
    (∀ l ls u, exec (good [l]) s = .next u → ∃ t, exec (good (l :: ls)) s = .next t ∧ exec (good ls) u = .next t) ∧
    (∀ ls, Completes (.gatewayFlitReceive p { fecCorr := false, bad := true, msgs := ls }) s fun t =>
      let a := Csr.gwErr (p / 8) (p / 4 % 2) (p % 4)
      let c := Csr.gwCnt (p / 8) (p / 4 % 2) (p % 4)
      let now := s.msOf (p / 8)
      let recent := (SMap.get [] s.replays p).filter (fun m => now < m + 1000000) ++ [now]
      let over_ : Bool := s.fget (Csr.gwReplayThr (p / 8) (p / 4 % 2)) GwReplayThr.thr < recent.length
      SMap.get [] t.replays p = recent ∧ (∀ q ≠ p.val, SMap.get [] t.replays q = SMap.get [] s.replays q) ∧
      t.fget a GwErr.fecUncorr = 1 ∧ t.fget a GwErr.replayThr = (if over_ then 1 else s.fget a GwErr.replayThr) ∧
      t.fget c GwCnt.replays = min (s.fget c GwCnt.replays + 1) (2 ^ 16 - 1) ∧
      OnlyRegs s t [a, c, Csr.ndQdropCnt (queueOf (p / 8))] ∧
      t = { s with csr := t.csr, replays := t.replays, queues := t.queues, windows := t.windows })

/-- R33, R38 to R41, R45, R83 (02), R126 (03): the message at the head of its channel that its meter and the crossbar admit, and
that no head of its metered class on an earlier channel comes before, leaves the headgate with its class, its bucket debited
1,024 a beat, its credits returned and its channel busy for its beats: a response that pairs with a request of the device to
that sender; ROUTE 3 as an event of the die's scheduler, ROUTE 4 inside the coherent window stamped, to its home slice, a lookup
that hits to its port; a message on SNP is stamped. A write of HG_METER sets rate, cap and enable, and the word before acts to
the end of the FLIT cycle. R36, R44, R46 (R92, R94 of 02; R133, R136 of 03): a message enters a crossbar input within its
credits, and waits at its source otherwise; an output sends the message it selects on a free slot, ESC first, and its input
takes what waited: into the sink's buffer, whose credits it spends, an access to a bank to the bank DMA of the die, an
acceptance to its directory slice; while the sink is down it is discarded, with a NOT_PRESENT reply where one is needed. R79
(02), R126 (03): an egress takes the next message of a channel, returns its credits, reports an accepted directory response on
ESC and sends it; a request whose response comes back to a buffer leaves under a tag no other holds. Where a message without
credits waits, and free tags, are log entries 15, 18. -/
def Obligations.HeadgateAndCrossbar : Prop :=
  (
  ∀ (p : PortNo) (s : State),
    let d := p.val / 8
    let k := p.val % 8
    (∀ (vc : Vc) (l : LinkMsg) (rest : List LinkMsg), s.gwSluiceOpen p = true → SMap.get false s.gatesPass d = true →
      SMap.get 0 s.headFree (p * 8 + Vc.code vc) ≤ s.ticks →
      SMap.get [] s.ingress (p * 8 + Vc.code vc) = l :: rest → s.fitsIn d k l.msg = true →
      let a := s.action d k l
      let m := l.msg
      let classed := m.w Hd.hc a.cls
      let sent := if m.g Hd.vc = 2 then (classed.w Hd.stamped 1).w Hd.ms24 (s.msOf d % 2 ^ 24) else classed
      let metered : Bool := Vc.code vc != 1 && HgMeter.meterEn.bit (s.meterNow d k a.cls)
      (metered = true → 0 < s.bucket d k a.cls) → s.headBefore p a.cls (Vc.code vc) = false →
      let left (t : State) (die ep : Nat) (want : Msg → Prop) : Prop := ∃ n : Msg,
        Entered s t d k ⟨s.serial, n, die, ep⟩ ∧ n.beats = m.beats ∧ n.g Hd.hc = a.cls ∧ want n ∧
        SMap.get [] t.ingress (p * 8 + Vc.code vc) = rest ∧
        SMap.get 0 t.headFree (p * 8 + Vc.code vc) = s.ticks + m.size ∧
        (metered = true → t.fget (Csr.hgBucket d k a.cls) HgBucket.count = wrapInt 32 (s.bucket d k a.cls - m.size * 1024)) ∧
        (metered = false → t.csr = s.csr) ∧ OnlyRegs s t [Csr.hgBucket d k a.cls] ∧
        t.outbox = s.outbox ++ (match creditOf m.name with
          | some c => if s.portUp p then [.credits p c 1 (dataCredits c m)] else []
          | none => []) ∧
        t = { s with
          csr := t.csr, ingress := t.ingress, headFree := t.headFree, outbox := t.outbox, xin := t.xin, xsrc := t.xsrc,
          serial := s.serial + 1 }
      (m.g Hd.dkind = 4 → Completes (.headgatePass p vc) s fun t =>
        left t (m.g Hd.destDie) (endpointOf (m.g Hd.destIdx)) fun n => n = classed) ∧
      (m.g Hd.dkind ≠ 4 →
        (a.route = 3 → Completes (.headgatePass p vc) s fun t => left t d 12 fun n =>
          n.g Hd.dkind = 1 ∧ n.g Hd.destDie = d ∧ n.g Hd.destSlot = a.slot ∧ n.g Hd.destFlag = a.flag ∧
            (m.g Hd.vc = 2 → n.g Hd.stamped = 1 ∧ n.g Hd.ms24 = s.msOf d % 2 ^ 24)) ∧
        (a.route = 4 → s.fbit (Csr.dirCtrl d) DirCtrl.en = true →
          inWindow s.part.k (s.fget (Csr.dirWin d) DirWin.base) (m.g Hd.addr) = true →
          Completes (.headgatePass p vc) s fun t => left t (homeDie s.part.k (m.g Hd.addr)) 11 fun n =>
            n.g Hd.dkind = 3 ∧ n.g Hd.stamped = 1 ∧ n.g Hd.ms24 = s.msOf d % 2 ^ 24 ∧ n.g Hd.addr = m.g Hd.addr) ∧
        (∀ q, a.route < 3 → s.routeTo d a.route a.bank sent = some q → Completes (.headgatePass p vc) s fun t =>
          left t (q / 8) (q % 8) fun n => n = (sent.w Hd.dkind 0).w Hd.dest q) ∧
        (a.route < 3 → s.routeTo d a.route a.bank sent = none → Completes (.headgatePass p vc) s fun t =>
          t.fget (Csr.gwErr d (p / 4 % 2) (p % 4)) GwErr.routeMiss = 1 ∧
          SMap.get [] t.ingress (p * 8 + Vc.code vc) = rest))) ∧
    (∀ (c : Hc) (v : Word), Completes (.hgMeterWrite p c v) s fun t =>
      let a := Csr.hgMeter d k c
      t.fget a HgMeter.rate = HgMeter.rate.get v ∧ t.fget a HgMeter.burst = HgMeter.burst.get v ∧
      t.fget a HgMeter.meterEn = HgMeter.meterEn.get v ∧ t.meterNow d k c = s.meterNow d k c ∧
      (∀ b ≠ a, SMap.find t.meterOld b = SMap.find s.meterOld b) ∧ OnlyRegs s t [a] ∧
      t = { s with csr := t.csr, meterOld := t.meterOld })) ∧
  (
  (∀ (d e : Nat) (s : State) (x : XMsg),
    let k := xkey d e (x.msg.g Hd.vc)
    let t := s.injectX d e x
    (s.fitsIn d e x.msg = true → SMap.get [] t.xin k = SMap.get [] s.xin k ++ [x] ∧
      (∀ j ≠ k, SMap.get [] t.xin j = SMap.get [] s.xin j) ∧ t = { s with xin := t.xin }) ∧
    (s.fitsIn d e x.msg = false → SMap.get [] t.xsrc k = SMap.get [] s.xsrc k ++ [x] ∧
      (∀ j ≠ k, SMap.get [] t.xsrc j = SMap.get [] s.xsrc j) ∧ t = { s with xsrc := t.xsrc })) ∧
  (∀ (d : Die) (e : Endpt) (s : State) (v i : Nat) (x : XMsg), s.clockOn d = true → (s.sending d e).length < outSlots e →
    (s.holdPointers d e).xselect d e ((s.sending d e).map (·.1)) = some (v, i, x) →
    let a := Csr.xbCredit d e v
    let u := s.took d e v i x
    (SMap.get [] s.xin (xkey d i v)).head? = some x ∧ nextHop d x = e ∧
    SMap.get [] u.xin (xkey d i v) ++ SMap.get [] u.xsrc (xkey d i v) =
      (SMap.get [] s.xin (xkey d i v)).tail ++ SMap.get [] s.xsrc (xkey d i v) ∧
    (∀ j ≠ xkey d i v, SMap.get [] u.xin j = SMap.get [] s.xin j ∧ SMap.get [] u.xsrc j = SMap.get [] s.xsrc j) ∧
    SMap.get 0 u.xrr (xkey d e v) = (i + 1) % 22 ∧ (v < 4 → SMap.get 0 u.xrr (xkey d e 7) = (v + 1) % 4) ∧
    SMap.get [] u.xbusy (xkey d e 0) = s.sending d e ++ [(v, s.ticks + x.msg.size)] ∧
    u = { s with xin := u.xin, xsrc := u.xsrc, xrr := u.xrr, xbusy := u.xbusy } ∧
    (s.sinkUp d e = true → ¬ (11 ≤ e.val ∧ escUnit x.msg.name = true) → e.val ≠ 21 →
      Completes (.crossbarForward d e) s fun t =>
        SMap.get [] t.xout (xkey d e v) = SMap.get [] s.xout (xkey d e v) ++ [x] ∧
        (∀ j ≠ xkey d e v, SMap.get [] t.xout j = SMap.get [] s.xout j) ∧
        x.msg.size ≤ s.fget a XbCredit.avail ∧ t.fget a XbCredit.avail = s.fget a XbCredit.avail - x.msg.size ∧
        OnlyRegs s t [a] ∧ t = { u with csr := t.csr, xout := t.xout }) ∧
    (e.val = 21 → x.msg.name = .bankAcc → ∀ dd b o, s.unitAt (x.msg.g Hd.addr) = .bank dd b o →
      Completes (.crossbarForward d e) s fun t =>
        let q := (d.val * 64 + b) * 4 + 2
        SMap.get [] t.bankQ q = SMap.get [] s.bankQ q ++
          [⟨x.id, .message x.msg, x.msg.g Hd.srcDie, x.msg.g Hd.srcIdx - 8, o / 8, none, unitOp x.msg⟩] ∧
        (∀ j ≠ q, SMap.get [] t.bankQ j = SMap.get [] s.bankQ j) ∧
        t.fget a XbCredit.avail = s.fget a XbCredit.avail - x.msg.size ∧
        OnlyRegs s t [a] ∧ t = { u with csr := t.csr, bankQ := t.bankQ }) ∧
    (11 ≤ e.val → x.msg.name = .escAccept → Completes (.crossbarForward d e) s fun t =>
      t = { u with dirAcc := s.dirAcc.erase ⟨d, x.msg.g Hd.port, x.msg.g Hd.addr / 64⟩ }) ∧
    (s.sinkUp d e = false → x.msg.g Hd.needRsp = 0 → Completes (.crossbarForward d e) s fun t =>
      t = { u with
        outbox := if x.msg.name.answered then s.outbox ++ [.linkError (x.msg.g Hd.port) x.msg] else s.outbox }) ∧
    (s.sinkUp d e = false → x.msg.g Hd.needRsp = 1 → Completes (.crossbarForward d e) s fun t =>
      (∃ r : XMsg, r.id = s.serial ∧ r.msg.g Hd.dkind = 4 ∧ r.msg.g Hd.status = St.notPresent ∧
        r.msg.g Hd.xtag = x.msg.g Hd.xtag ∧ r.msg.g Hd.destDie = x.msg.g Hd.srcDie ∧
        r.msg.g Hd.destIdx = x.msg.g Hd.srcIdx ∧ r.die = x.msg.g Hd.srcDie ∧ r.ep = endpointOf (x.msg.g Hd.srcIdx) ∧
        Entered u t d e r) ∧ t = { u with xin := t.xin, xsrc := t.xsrc, serial := s.serial + 1 })) ∧
  (∀ (p : PortNo) (vc : Vc) (s : State) (x : XMsg) (rest : List XMsg), s.portUp p = true →
    s.gwSluiceOpen p = true → SMap.get [] s.xout (xkey (p / 8) (p % 8) (Vc.code vc)) = x :: rest →
    let m := x.msg
    let a := Csr.xbCredit (p / 8) (p % 8) (Vc.code vc)
    let accepted : Prop := m.g Hd.srcIdx = 72 ∧ m.name.responds = true
    let own : Prop := m.g Hd.needRsp = 1 ∧ 8 ≤ m.g Hd.srcIdx ∧ m.g Hd.srcIdx ≤ 72
    let taken (t : State) : Prop := SMap.get [] t.xout (xkey (p / 8) (p % 8) (Vc.code vc)) = rest ∧
      t.csrGet a = XbCredit.avail.satAdd (s.csrGet a) m.size ∧ OnlyRegs s t [a]
    (¬ accepted → ¬ own → Completes (.egressAccept p vc) s fun t => taken t ∧
      t = { s with csr := t.csr, xout := t.xout, outbox := s.outbox ++ [.link p m] }) ∧
    (accepted → ¬ own → Completes (.egressAccept p vc) s fun t => taken t ∧
      (let y := (((escMsg .escAccept).w Hd.port p).w Hd.addr (m.g Hd.addr)).w Hd.srcDie (p / 8)
       Entered s t (p / 8) (p % 8) ⟨s.serial, y.w Hd.srcIdx (p % 8), m.g Hd.srcDie, 11⟩) ∧
      t = { s with csr := t.csr, xout := t.xout, xin := t.xin, xsrc := t.xsrc, serial := s.serial + 1,
                   outbox := s.outbox ++ [.link p m] }) ∧
    (¬ accepted → own → s.tags.length < 2 ^ 14 →
      Completes (.egressAccept p vc) s fun t => taken t ∧ ∃ tag, tag < 2 ^ 14 ∧ (∀ r ∈ s.tags, r.port = p → r.tag ≠ tag) ∧
        t = { s with csr := t.csr, xout := t.xout, draws := s.draws + 1, outbox := s.outbox ++ [.link p (m.w Hd.ptag tag)],
                     tags := s.tags ++ [{ port := p, tag := tag, die := m.g Hd.srcDie, src := m.g Hd.srcIdx,
                                          xtag := m.g Hd.xtag, ptag := m.g Hd.ptag }] })))

/-- R48, R50, R51: a culvert whose ports are enabled comes up with up to 16 spare wires in each direction, and stays down with
more; the message at the head of the neighbour's output arrives, single-bit errors of its 64-bit groups corrected and counted, a
double-bit error of a data beat poisoning it and one of the header beat losing the message; EN = 0 takes both sides down. One
message a command, and notices of both ports, are log entries 16, 68. -/
def Obligations.Culverts : Prop :=
  ∀ (d : Die) (c : Culv) (s : State) (n : Nat), s.neighbour d c = some n →
    let f := facing c
    let sd := Csr.cvSts d c
    let sn := Csr.cvSts n f
    let dropped (d : Nat) : Nat := Csr.ndQdropCnt (queueOf d)
    (∀ tx rx, s.dieOn d = true → s.dieOn n = true → s.fbit (Csr.cvCtrl d c) CvCtrl.en = true →
      s.fbit (Csr.cvCtrl n f) CvCtrl.en = true →
      (tx ≤ 16 → rx ≤ 16 → Completes (.culvertTrained d c tx rx) s fun t =>
        t.fget sd CvSts.present = 1 ∧ t.fget sd CvSts.trained = 1 ∧ t.fget sd CvSts.spareTx = tx ∧ t.fget sd CvSts.spareRx = rx ∧
        t.fget sn CvSts.present = 1 ∧ t.fget sn CvSts.trained = 1 ∧ t.fget sn CvSts.spareTx = rx ∧ t.fget sn CvSts.spareRx = tx ∧
        OnlyRegs s t [sd, sn, dropped d, dropped n] ∧ t = { s with csr := t.csr, queues := t.queues, windows := t.windows }) ∧
      ((16 < tx ∨ 16 < rx) → Completes (.culvertTrained d c tx rx) s fun t =>
        t.fget sd CvSts.trained = 0 ∧ t.fget sn CvSts.trained = 0)) ∧
    (∀ v : Word, s.dieOn d = true → Completes (.cvCtrlWrite d c v) s fun t =>
      t.fget (Csr.cvCtrl d c) CvCtrl.en = CvCtrl.en.get v ∧
      (CvCtrl.en.get v = 1 → OnlyRegs s t [Csr.cvCtrl d c] ∧ t = { s with csr := t.csr }) ∧
      (CvCtrl.en.get v = 0 → t.fget sd CvSts.trained = 0 ∧ t.fget sn CvSts.trained = 0 ∧
        (∀ w < 5, SMap.get [] t.xout (xkey d (8 + c) w) = []) ∧ ∀ w < 5, SMap.get [] t.xout (xkey n (8 + f) w) = [])) ∧
    (∀ (errs : List (List (Fin 3))) (v : Nat) (x : XMsg) (rest : List XMsg), v < 5 → s.culvertUp d c = true →
      s.sluiceOpen d = true → s.sluiceOpen n = true → SMap.get [] s.xout (xkey n (8 + f) v) = x :: rest →
      (∀ w < 5, w ≠ v → SMap.get [] s.xout (xkey n (8 + f) w) = []) → s.fitsIn d (8 + c) x.msg = true → x.msg.beats.length ≤ 8 →
      Completes (.culvertBeatArrive d c errs) s fun t =>
        let k := xkey d (8 + c) (x.msg.g Hd.vc)
        let num (i : Nat) : Nat := (((errs.take x.msg.size).map (·.take 8)).flatten.filter (fun y => y.val == i)).length
        let bad (b : Nat) : Bool := ((errs.getD b []).take 8).any (fun y => y.val == 2)
        SMap.get [] t.xout (xkey n (8 + f) v) = rest ∧
        t.fget (Csr.cvEccCnt d c) CvEccCnt.corr = min (s.fget (Csr.cvEccCnt d c) CvEccCnt.corr + num 1) (2 ^ 16 - 1) ∧
        t.fget (Csr.cvEccCnt d c) CvEccCnt.uncorr = min (s.fget (Csr.cvEccCnt d c) CvEccCnt.uncorr + num 2) (2 ^ 16 - 1) ∧
        (bad 0 = true → SMap.get [] t.xin k = SMap.get [] s.xin k) ∧
        (bad 0 = false → ∃ m : Msg, SMap.get [] t.xin k = SMap.get [] s.xin k ++ [⟨x.id, m, x.die, x.ep⟩] ∧
          m.beats = x.msg.beats ∧ (∀ b < x.msg.beats.length, bitOf (m.g Hd.poison) b =
            (bitOf (x.msg.g Hd.poison) b || bad (b + 1))) ∧
          ∀ g : Fld, g.lo + g.width ≤ Hd.poison.lo ∨ Hd.poison.lo + Hd.poison.width ≤ g.lo → m.g g = x.msg.g g) ∧
        OnlyRegs s t [Csr.xbCredit n (8 + f) v, Csr.cvEccCnt d c, dropped d] ∧
        t = { s with csr := t.csr, xout := t.xout, xrr := t.xrr, xin := t.xin, queues := t.queues, windows := t.windows })

/-- R19, R20, R24, R25, R33, R55, R62: how a sub-port's link comes up and changes rate. LINK_UP: the status shows the trained
link, its credits are advertised, an offer of extended rate is sent where the mode is enabled on a CXL link, and a width below
the configured one sets DEGRADE; a partner without flit mode returns the LTSSM to Detect with FLIT_ABSENT; an offer sent and one
received make a candidate, and the initiator enters Recovery; a failed attempt and the ninth Recovery return the link to 64
GT/s. R54, R56, R57, R23: a link that goes down shows UP 0 and LINK_DOWN, empties its egress and sends every slice a port-down
message on ESC; viral marks every CXL port of a group on every die, and one port of group 0; PERST_n takes the sub-ports of a
gateway down, stops their training and clears the fields of kind G; its release after step 1 lets the enabled ones train. The
status of a link that is down, when ports train and when a port leaves viral are log entries 11, 12, 99, 102. -/
def Obligations.LinkStates : Prop :=
  (
  ∀ (p : PortNo) (s : State),
    let ls := Csr.gwLinkSts (p / 8) (p / 4 % 2) (p % 4)
    let er := Csr.gwErr (p / 8) (p / 4 % 2) (p % 4)
    let drop := Csr.ndQdropCnt (queueOf (p / 8))
    let role := s.portRole p
    (∀ t : Training, s.canTrain p t = true → Completes (.linkUp p t) s fun u =>
      u.fget ls GwLinkSts.ltssm = 0x20 ∧ u.fget ls GwLinkSts.up = 1 ∧ u.fget ls GwLinkSts.flit = 1 ∧
      u.fget ls GwLinkSts.rate = t.rate ∧ u.fget ls GwLinkSts.width = t.width ∧ u.fget ls GwLinkSts.pol = t.pol.toNat ∧
      u.fbit ls GwLinkSts.reversed = t.reversed ∧ u.fbit ls GwLinkSts.cxl = t.cxl ∧ u.fbit ls GwLinkSts.xrate = t.xrate ∧
      u.fget er GwErr.degrade = (if t.width.val < s.portWidth p then 1 else s.fget er GwErr.degrade) ∧
      (∀ d < s.part.dies, (s.walkPorts d).any (fun w => w.port == p) = false → s.downOnWay d p = false →
        u.portIsDown d p = false) ∧
      (let offers : Bool := t.cxl && !t.xrate && s.xrateEnabled p && !(s.portSt p).offerOut
       u.outbox = s.outbox ++
          (if s.portUp p then [] else (creditTypes role t.cxl).map (fun c => .credits p c c.limit.1 c.limit.2)) ++
          (if offers then [.xrateOffer p (s.dvsec p)] else []) ∧
        u.portSt p = { s.portSt p with offerOut := (s.portSt p).offerOut || offers } ∧
        ∀ q ≠ p.val, u.portSt q = s.portSt q) ∧
      u = { s with csr := u.csr, ports := u.ports, outbox := u.outbox, queues := u.queues, windows := u.windows }) ∧
    (s.portExists p = true → s.dieOn (p / 8) = true → s.mayTrain p = true → s.fbit ls GwLinkSts.up = false →
      Completes (.flitModeAbsent p) s fun t => t.csrGet ls = 0 ∧ t.fget er GwErr.flitAbsent = 1 ∧
        OnlyRegs s t [ls, er, drop] ∧ t = { s with csr := t.csr, queues := t.queues, windows := t.windows }) ∧
    (∀ lower : Bool, s.portUp p = true → s.fbit ls GwLinkSts.cxl = true → s.xrateEnabled p = true →
      s.fbit ls GwLinkSts.xrate = false → (s.portSt p).barred = false → (s.portSt p).offerOut = true →
      Completes (.xrateOffer p true true true lower) s fun t => t.portSt p = { s.portSt p with offerIn := true } ∧
        ((role = 5 ∨ role = 7 ∧ lower = true) → t.csrGet ls = GwLinkSts.ltssm.put (s.csrGet ls) 0x18) ∧
        (¬ (role = 5 ∨ role = 7 ∧ lower = true) → t.csrGet ls = s.csrGet ls) ∧
        OnlyRegs s t [ls] ∧ t = { s with csr := t.csr, ports := t.ports }) ∧
    (∀ r ∈ [(Instr.xrateFallback p, (s.portSt p).offerOut = true ∧ (s.portSt p).offerIn = true ∧ (s.portSt p).barred = false ∧ s.fbit ls GwLinkSts.xrate = false),
        (.xrateRecoveryFallback p, s.fbit ls GwLinkSts.xrate = true)],
      s.portUp p = true → r.2 → Completes r.1 s fun t =>
        t.fget ls GwLinkSts.rate = 5 ∧ t.fget ls GwLinkSts.xrate = 0 ∧ t.fget ls GwLinkSts.ltssm = 0x20 ∧
        t.fget ls GwLinkSts.up = 1 ∧ t.fget er GwErr.xrateFb = 1 ∧ (t.portSt p).barred = true ∧
        OnlyRegs s t [ls, er, drop] ∧
        t = { s with csr := t.csr, ports := t.ports, queues := t.queues, windows := t.windows })) ∧
  (
  (∀ (p : PortNo) (c : DownCause) (s : State),
    let d := p.val / 8
    let ls := Csr.gwLinkSts d (p / 4 % 2) (p % 4)
    s.portExists p = true → s.fbit ls GwLinkSts.up = true → Completes (.linkDown p c) s fun t =>
      t.csrGet ls = (if c = .disable ∨ c = .dpc then GwLinkSts.ltssm.put (0 : Word) 0x30 else 0) ∧
      t.fget (Csr.gwErr d (p / 4 % 2) (p % 4)) GwErr.linkDown = 1 ∧
      (∀ v < 5, SMap.get [] t.xout (xkey d (p % 8) v) = []) ∧ (∀ r ∈ t.tags, r.port ≠ p.val) ∧
      (∀ h < s.part.dies, t.downOnWay h p = true) ∧ t.portSt p = PortSt.reset ∧ (∀ fn < 8, ∀ w < 512, t.cfgWord p fn w = 0) ∧
      t.ingress = s.ingress) ∧
  (∀ (p : PortNo) (s : State), s.portUp p = true →
    s.fbit (Csr.gwLinkSts (p / 8) (p / 4 % 2) (p % 4)) GwLinkSts.cxl = true →
    let g := s.portGroup p
    let marked (t : State) (q : Nat) : Prop := (t.portSt q).viral = true
    (g = 0 → Completes (.viralEntry p) s fun t => marked t p ∧ t.fget (gwErr p) GwErr.viral = 1 ∧
      (∀ q ≠ p.val, t.portSt q = s.portSt q) ∧ OnlyRegs s t [gwErr p] ∧ t = { s with csr := t.csr, ports := t.ports }) ∧
    (g ≠ 0 → (∃ q < s.part.dies * 8, s.viralMember g q = true ∧ (s.portSt q).viral = false) →
      Completes (.viralEntry p) s fun t =>
        (∀ q < s.part.dies * 8, s.viralMember g q = true → marked t q ∧ t.fget (gwErr q) GwErr.viral = 1) ∧
        (∀ q, ¬ (q < s.part.dies * 8 ∧ s.viralMember g q = true) → t.portSt q = s.portSt q) ∧
        t = { s with csr := t.csr, ports := t.ports, queues := t.queues, windows := t.windows })) ∧
  (∀ (d : Die) (g : Gw) (s : State), s.populated d = true →
    (Completes (.perstAssert d g) s fun t => bitOf t.perst (2 * d + g) = true ∧
      (∀ k : Fin 4, (∀ f ∈ [GwLinkSts.ltssm, GwLinkSts.rate, GwLinkSts.width, GwLinkSts.up], t.fget (Csr.gwLinkSts d g k) f = 0) ∧
        t.mayTrain (d * 8 + g * 4 + k) = false ∧
        t.fget (Csr.gwErr d g k) GwErr.flitAbsent = 0 ∧
        (s.fbit (Csr.gwLinkSts d g k) GwLinkSts.up = true → t.fget (Csr.gwErr d g k) GwErr.linkDown = 1))) ∧
    (Completes (.perstDeassert d g) s fun t => bitOf t.perst (2 * d + g) = false ∧
      (s.pastStep1 d = true → ∀ k : Fin 4, t.mayTrain (d * 8 + g * 4 + k) = true) ∧ t = { s with perst := t.perst })))

/-- R75, R86, R87, R132: a directory request that reaches its home slice joins the queue there with its full stamp; a stamp that
is late is replaced by the milestone less SETTLE, counted and reported; an open transaction of a later key on the line is
replayed: its request as it was asked returns to the front of the queue and its way takes its former entry (log entry 104); an
engine's request for an untracked line is answered. -/
def Obligations.DirectoryArrival : Prop :=
  ∀ (d : Die) (vc : Vc) (y : XMsg) (rest : List XMsg) (s : State), s.sluiceOpen d = true →
    SMap.get [] s.xout (xkey d 11 (Vc.code vc)) = y :: rest → y.msg.g Hd.dkind = 3 →
    (vc = .req → (s.freeSlot d).isSome = true) →
    let m := y.msg
    let home := s.msOf d
    let settle := s.fget (Csr.dirCtrl d) DirCtrl.settle
    let stamp := fullStamp home (m.g Hd.ms24)
    let line := m.g Hd.addr / 64
    let fromEngine := 8 ≤ m.g Hd.srcIdx
    let tracked := s.fbit (Csr.dirCtrl d) DirCtrl.en = true ∧ inWindow s.part.k (s.fget (Csr.dirWin d) DirWin.base) (m.g Hd.addr) = true
    let onTime := (home : Int) ≤ stamp + settle ∧ stamp ≤ (home : Int) + 4
    let credit := Csr.xbCredit d 11 (Vc.code vc)
    let taken (t : State) : Prop := SMap.get [] t.xout (xkey d 11 (Vc.code vc)) = rest
    let isReq (r : DirReq) (st : Int) : Prop :=
      r.msg = m ∧ r.addr = m.g Hd.addr ∧ r.stamp = st ∧ r.sdie = m.g Hd.srcDie ∧ r.sidx = m.g Hd.srcIdx
    ((fromEngine → tracked) →
      (onTime → s.openOn d line = none → Completes (.dirRequestArrive d vc) s fun t =>
        (∃ r, isReq r stamp ∧ SMap.get [] t.dirQ d = SMap.get [] s.dirQ d ++ [r]) ∧ taken t ∧ OnlyRegs s t [credit] ∧
        t = { s with csr := t.csr, xout := t.xout, dirQ := t.dirQ }) ∧
      (¬ onTime → s.openOn d line = none → Completes (.dirRequestArrive d vc) s fun t =>
        (∃ r, isReq r ((home : Int) - settle) ∧ SMap.get [] t.dirQ d = SMap.get [] s.dirQ d ++ [r]) ∧ taken t ∧
        t.fget (Csr.dirRaceCnt d) DirRaceCnt.late =
          min (s.fget (Csr.dirRaceCnt d) DirRaceCnt.late + 1) (2 ^ DirRaceCnt.late.width - 1) ∧
        (s.windowOpen d 0x0203 0 = false → (s.waiting d).length < 64 → ∃ n : Notice,
          n.code = 0x0203 ∧ n.die = d ∧ t.waiting d = s.waiting d ++ [n]) ∧
        OnlyRegs s t [credit, Csr.dirRaceCnt d, Csr.ndQdropCnt (queueOf d)] ∧
        t = { s with csr := t.csr, xout := t.xout, dirQ := t.dirQ, queues := t.queues, windows := t.windows }) ∧
      (∀ (k : Nat) (x : Txn), onTime → s.openOn d line = some (k, x) → s.txn d k = some x → x.req.addr / 64 = line →
        (stamp < x.req.stamp ∨ stamp = x.req.stamp ∧ (m.g Hd.srcDie < x.req.sdie ∨
          m.g Hd.srcDie = x.req.sdie ∧ m.g Hd.srcIdx < x.req.sidx)) → x.dirty = none → x.waitWay = false →
        Completes (.dirRequestArrive d vc) s fun t =>
          (∃ r, isReq r stamp ∧ SMap.get [] t.dirQ d = x.asked :: (SMap.get [] s.dirQ d ++ [r])) ∧ taken t ∧
          t.txn d k = none ∧ t.entry d (lineSet s.part.k x.req.addr) x.way = x.old ∧
          t.fget (Csr.dirRaceCnt d) DirRaceCnt.replays =
            min (s.fget (Csr.dirRaceCnt d) DirRaceCnt.replays + 1) (2 ^ DirRaceCnt.replays.width - 1) ∧
          OnlyRegs s t [credit, Csr.dirRaceCnt d] ∧
          t = { s with csr := t.csr, xout := t.xout, dirQ := t.dirQ, dirTxn := t.dirTxn, dirOrph := t.dirOrph,
                       dirEnt := t.dirEnt })) ∧
    (fromEngine → ¬ tracked → Completes (.dirRequestArrive d vc) s fun t =>
      (∃ z : XMsg, z.msg.g Hd.dkind = 4 ∧ z.msg.g Hd.status = St.notPresent ∧ z.msg.g Hd.xtag = m.g Hd.xtag ∧
        z.die = m.g Hd.srcDie ∧ z.ep = endpointOf (m.g Hd.srcIdx) ∧ z.id = s.serial ∧ Entered s t d 11 z) ∧ taken t ∧
      OnlyRegs s t [credit] ∧ t = { s with csr := t.csr, xout := t.xout, xin := t.xin, xsrc := t.xsrc, serial := s.serial + 1 })

/-- R75 to R78, R80, Table 02-5: a transaction starts with the snoops the table names and makes its entry BUSY, on the line's
own way, an INV way or a victim's way, whose ports are then snooped; it reads memory where the table does; a pair the table does
not list is a stray, which changes no entry. When memory is read, which INV way is taken and a victim's TAG are log entries 36,
37, 104. -/
def Obligations.DirectoryStart : Prop :=
  ∀ (d : Die) (k : Nat) (r : DirReq) (s : State), s.clockOn d = true →
    let set := lineSet s.part.k r.addr
    let mask := s.shareEn d
    let p := r.port
    (∀ w < 16, SMap.get 0 s.dirBad (entKey d set w) = 0) →
    (s.wayReady d = none → s.nextStart d = some r → s.freeSlot d = some k → bitOf mask p = true →
      (∀ w, s.wayOf d r.addr = some w →
        let e := s.entry d set w
        let st := De.state.get e
        let o := De.owner.get e
        let V := sharerPorts mask (De.sharers.get e)
        (st ≤ 3 → (r.kind = .rds ∨ r.kind = .rdo ∨ r.kind = .rdc ∨ r.kind = .wri) →
          Completes (.dirTxnStart d) s fun t =>
            (∃ x, t.txn d k = some x ∧ x.req.addr = r.addr ∧ x.req.kind = r.kind ∧ x.way = w ∧ x.old = e ∧ x.waitWay = false ∧
              x.victim = none ∧ (∀ n ∈ x.snoops, n.issued = false ∧ n.done = false) ∧
              x.snoops.map (fun n => (n.port, n.inval)) =
                (if st = 2 ∧ (r.kind = .rdc ∨ r.kind = .rds ∧ p ≠ o) then [(o, false)]
                 else if st = 2 ∧ (r.kind = .wri ∨ r.kind = .rdo ∧ p ≠ o) then [(o, true)]
                 else if st = 1 ∧ r.kind = .wri then V.map (·, true)
                 else if st = 1 ∧ r.kind = .rdo then (V.filter (· ≠ p)).map (·, true) else []) ∧
              x.memWait = decide (r.kind = .rds ∨ r.kind = .rdc ∨ r.kind = .rdo ∧ r.noData = false)) ∧
            De.state.get (t.entry d set w) = 4 ∧ De.tag.get (t.entry d set w) = De.tag.get e ∧
            (∀ key, key ≠ entKey d set w → SMap.get 0 t.dirEnt key = SMap.get 0 s.dirEnt key) ∧
            SMap.get [] t.dirQ d = (SMap.get [] s.dirQ d).erase r ∧
            (s.fbit (Csr.dirCtrl d) DirCtrl.memMode = true → (r.kind = .rds ∨ r.kind = .rdc) → ∃ y : XMsg,
              y.id = s.serial ∧ Entered s t d 11 y ∧ y.die = d ∧ y.ep = 12 ∧
                y.msg.name = .memRd ∧ y.msg.g Hd.addr = r.addr % 2 ^ 52 / 64 * 64) ∧
            (∀ a, t.csrGet a = s.csrGet a)) ∧
        (r.kind = .evd → ¬ (st = 2 ∧ o = p) → SMap.find s.dirWalk d = none → Completes (.dirTxnStart d) s fun t =>
          t.dirEnt = s.dirEnt ∧ t.dirTxn = s.dirTxn ∧ SMap.get [] t.dirQ d = (SMap.get [] s.dirQ d).erase r ∧
          t.fget (Csr.dirStrayCnt d) DirStrayCnt.stray =
            min (s.fget (Csr.dirStrayCnt d) DirStrayCnt.stray + 1) (2 ^ DirStrayCnt.stray.width - 1) ∧
          t = { s with csr := t.csr, xin := t.xin, xsrc := t.xsrc, serial := s.serial + 1, dirQ := t.dirQ, dirAcc := t.dirAcc,
                       queues := t.queues, windows := t.windows })) ∧
      (∀ w, s.wayOf d r.addr = none → s.freeWay d set = some w → r.kind = .rds → Completes (.dirTxnStart d) s fun t =>
        (∃ x, t.txn d k = some x ∧ x.way = w ∧ x.old = 0 ∧ x.waitWay = false ∧ x.snoops = []) ∧
        t.entry d set w = mkEntry (lineTag s.part.k r.addr) 4 0 0 0)) ∧
    (∀ (x : Txn) (w : Nat), s.wayReady d = some (k, x) → x.req = r → s.freeWay d set = none → s.victimWay d set = some w →
      Completes (.dirTxnStart d) s fun t =>
        let e := s.entry d set w
        (∃ x', t.txn d k = some x' ∧ x'.way = w ∧ x'.old = e ∧ x'.waitWay = false ∧ x'.victim.isSome = true ∧
          x'.snoops.map (fun n => (n.port, n.inval)) =
            (if De.state.get e = 2 then [(De.owner.get e, true)] else (sharerPorts mask (De.sharers.get e)).map (·, true))) ∧
        De.state.get (t.entry d set w) = 4 ∧ t = { s with dirEnt := t.dirEnt, dirRr := t.dirRr, dirTxn := t.dirTxn })

/-- R73, R74, R79, R82, R87: a waiting snoop leaves for its port once the port's egress has accepted every earlier response for
the line, and counts as answered at a port that is down; its response brings KEEP and DATA to the transaction; read data waits
in the transaction; the late response of a replayed transaction is absorbed. R75, R77, Table 02-5: a transaction all of whose
conditions hold commits: the entry takes the state, owner and sharers of the table with the milestone of the commit, the slot is
free, and the requesting port is sent its response, with the data the table names: the snoop's when it brought some in state
EXC, else memory's. A snoop to a port that is neither device nor host, and what a replay restores, are log entries 103, 104. -/
def Obligations.DirectorySnoopsAndCommit : Prop :=
  (
  ∀ (d : Die) (s : State), s.clockOn d = true →
    (∀ (k : Slot) (p : PortNo) (x : Txn) (n : Snoop), s.txn d k = some x →
      x.snoops.find? (fun n => n.port == p.val && !n.issued && !n.done) = some n →
      (s.portIsDown d p = true → Completes (.dirSnoopIssue d k p) s fun t =>
        (∃ x', t.txn d k = some x' ∧
          x' = { x with snoops := x'.snoops } ∧ { n with done := true } ∈ x'.snoops ∧ x'.snoops.length = x.snoops.length) ∧
        t = { s with dirTxn := t.dirTxn }) ∧
      (s.portIsDown d p = false → (⟨d, p, n.addr / 64⟩ : AccRec) ∉ s.dirAcc → Completes (.dirSnoopIssue d k p) s fun t =>
        ∃ tag, 2 ^ 14 ≤ tag ∧ tag < 2 ^ 15 ∧ ((s.tagsOut d).length < 2 ^ 14 → tag ∉ s.tagsOut d) ∧
        (∃ x', t.txn d k = some x' ∧ x' = { x with snoops := x'.snoops } ∧ { n with issued := true, tag := tag } ∈ x'.snoops ∧
          x'.snoops.length = x.snoops.length) ∧
        (∃ y : XMsg, y.id = s.serial ∧ Entered s t d 11 y ∧ y.die = p.val / 8 ∧ y.ep = p.val % 8 ∧ y.msg.g Hd.vc = 2 ∧
          y.msg.g Hd.xtag = tag ∧ y.msg.g Hd.addr = n.addr % 2 ^ 52 / 64 * 64 ∧
          y.msg.metaV = (if n.inval then .i else .s) ∧ y.msg.g Hd.stamped = 1 ∧ y.msg.g Hd.ms24 = s.msOf d % 2 ^ 24) ∧
        t = { s with dirTxn := t.dirTxn, xin := t.xin, xsrc := t.xsrc, serial := s.serial + 1 })) ∧
    (∀ (vc : Vc) (y : XMsg) (rest : List XMsg), s.sluiceOpen d = true →
      SMap.get [] s.xout (xkey d 11 (Vc.code vc)) = y :: rest → y.msg.g Hd.dkind = 4 →
      let tag := y.msg.g Hd.xtag
      let taken (t : State) : Prop :=
        SMap.get [] t.xout (xkey d 11 (Vc.code vc)) = rest ∧ OnlyRegs s t [Csr.xbCredit d 11 (Vc.code vc)]
      (bitOf tag 14 = true → (∀ o ∈ s.dirOrph, ¬ (o.die = d ∧ o.xtag = tag)) →
        ∀ (k : Nat) (x : Txn) (n : Snoop), (s.txns d).find? (fun e => e.2.snoops.any (·.waits tag)) = some (k, x) →
          x.victim = none → x.snoops.find? (·.waits tag) = some n →
          Completes (.dirSnoopResponse d vc) s fun t =>
            (∃ x', t.txn d k = some x' ∧ { n with done := true } ∈ x'.snoops ∧ x'.keep = (x.keep || y.msg.keep) ∧
              x'.dirty = (if y.msg.dirty then y.msg.beats.head? <|> x.dirty else x.dirty) ∧ x'.req = x.req) ∧
            taken t ∧ t = { s with csr := t.csr, xout := t.xout, dirTxn := t.dirTxn }) ∧
      (bitOf tag 14 = true → y.msg.dirty = false → ∀ o ∈ s.dirOrph, o.die = d.val → o.xtag = tag →
        Completes (.dirSnoopResponse d vc) s fun t =>
          t.dirOrph.length + 1 = s.dirOrph.length ∧ taken t ∧
            t = { s with csr := t.csr, xout := t.xout, dirOrph := t.dirOrph })) ∧
    (∀ (y : XMsg) (rest : List XMsg) (k : Nat) (x : Txn), s.sluiceOpen d = true → SMap.get [] s.xout (xkey d 11 3) = y :: rest →
      y.msg.g Hd.dkind = 4 → y.msg.g Hd.xtag < 2 ^ 14 → (∀ o ∈ s.dirOrph, ¬ (o.die = d ∧ o.xtag = y.msg.g Hd.xtag)) →
      (s.txns d).find? (fun e => e.2.rtag == y.msg.g Hd.xtag && e.2.memWait && e.2.memData.isNone) = some (k, x) →
      y.msg.beats ≠ [] →
      Completes (.dirMemoryData d) s fun t =>
        (∃ x', t.txn d k = some x' ∧
          x' = { x with memData := y.msg.beats.head?, memPois := bitOf (y.msg.g Hd.poison) 0 }) ∧
        SMap.get [] t.xout (xkey d 11 3) = rest ∧ OnlyRegs s t [Csr.xbCredit d 11 3] ∧
        t = { s with csr := t.csr, xout := t.xout, dirTxn := t.dirTxn })) ∧
  (
  ∀ (d : Die) (k : Slot) (x : Txn) (s : State), s.clockOn d = true → s.txn d k = some x → x.waitWay = false →
    (∀ n ∈ x.snoops, n.done = true ∨ s.portIsDown d n.port = true) →
    (x.memWait = true → x.memData.isSome = true ∨ x.state = 2 ∧ x.dirty.isSome = true) →
    x.req.stamp + s.fget (Csr.dirCtrl d) DirCtrl.settle ≤ (s.msOf d : Int) → x.started + 6 ≤ s.msOf d →
    SMap.find s.dirWalk d = none → x.victim = none → x.req.sidx < 8 →
    let mask := s.shareEn d
    let set := lineSet s.part.k x.req.addr
    let p := x.req.port
    let P := sharerOf mask p
    let O := sharerOf mask x.owner
    let V := x.sharers
    let st := x.state
    let kind := x.req.kind
    let reads := kind = .rds ∨ kind = .rdc ∨ kind = .rdo ∧ x.req.noData = false
    (st = 0 ∧ (kind = .rds ∨ kind = .rdo ∨ kind = .rdc ∨ kind = .wri) ∨ st = 1 ∧ (kind = .rds ∨ kind = .rdo ∨ kind = .rdc ∨ kind = .wri ∨ kind = .evc) ∨
      st = 2 ∧ (kind = .rds ∨ kind = .rdo ∨ kind = .rdc ∨ kind = .wri ∨ kind = .evc ∨ kind = .evd) ∨
      st = 3 ∧ (kind = .rds ∨ kind = .rdo ∨ kind = .rdc ∨ kind = .wri)) →
    Completes (.dirCommit d k) s fun t =>
      let is (st' o v : Nat) : Prop := t.entry d set x.way = mkEntry (lineTag s.part.k x.req.addr) st' (s.msOf d) o v
      let shr (v : Nat) : Prop := if v = 0 then t.entry d set x.way = 0 else is 1 0 v
      let inv := t.entry d set x.way = 0
      (kind = .wri ∨ st = 0 ∧ kind = .rdc ∨ st = 2 ∧ (kind = .evc ∨ kind = .evd) → inv) ∧
      (st ≤ 2 ∧ kind = .rdo → is 2 p 0) ∧
      (st = 0 ∧ kind = .rds → shr P) ∧
      (st = 1 ∧ kind = .rds → shr (V ||| P)) ∧
      (st = 1 ∧ kind = .rdc → is 1 0 V) ∧
      (st = 1 ∧ kind = .evc → if coarseMode mask = true then is 1 0 V else shr (V &&& (2 ^ 32 - 1 - P))) ∧
      (st = 2 ∧ kind = .rds ∧ p = x.owner → is 2 x.owner 0) ∧
      (st = 2 ∧ kind = .rds ∧ p ≠ x.owner → shr (P ||| (if x.keep then O else 0))) ∧
      (st = 2 ∧ kind = .rdc → if x.keep = true then shr O else inv) ∧
      (st = 3 ∧ reads → is 3 x.owner 0) ∧
      (∀ key, key ≠ entKey d set x.way → SMap.get 0 t.dirEnt key = SMap.get 0 s.dirEnt key) ∧
      t.txn d k = none ∧ (∀ key, key ≠ txnKey d k → SMap.find t.dirTxn key = SMap.find s.dirTxn key) ∧
      (∃ y : XMsg,
        let c := if reads then 3 else 1
        let all (t : State) : List XMsg := SMap.get [] t.xin (xkey d 11 c) ++ SMap.get [] t.xsrc (xkey d 11 c)
        (all s ++ [y] <+: all t) ∧ y.id = s.serial ∧ y.die = p / 8 ∧ y.ep = p % 8 ∧
        y.msg.beats = (if reads then [if st = 2 then x.dirty.getD (x.memData.getD 0) else x.memData.getD 0] else []) ∧
        (st = 3 → reads → bitOf (y.msg.g Hd.poison) 0 = true)) ∧
      (∀ a, t.csrGet a = s.csrGet a) ∧
      t = { s with xin := t.xin, xsrc := t.xsrc, serial := t.serial, dirEnt := t.dirEnt, dirTxn := t.dirTxn, dirOrph := t.dirOrph, dirAcc := t.dirAcc })

/-- R81, R82: a request that has waited 2,000 DIR cycles for a way ends without an entry, is counted and reported, and an engine
gets TIMEOUT. A port-down message sets the port's bit, answers its snoops and starts its walk; the walk takes one set a command:
it removes the port from precise sharers, makes its exclusive lines LOST and defers the lines of open requests; a pass that is
complete ends. COMMIT_MS of a timeout, and where a walk starts, are log entry 104. -/
def Obligations.DirectoryWaitAndWalk : Prop :=
  ∀ (d : Die) (s : State), s.clockOn d = true →
    (∀ (k : Slot) (x : Txn), s.txn d k = some x → x.waitWay = true → x.started + 2000 ≤ s.msOf d →
      let set := lineSet s.part.k x.req.addr
      (∀ w < 16, De.state.get (s.entry d set w) = 3 ∨ De.state.get (s.entry d set w) = 4) → SMap.find s.dirWalk d = none →
      Completes (.setWaitTimeout d k) s fun t =>
        t.txn d k = none ∧ t.dirEnt = s.dirEnt ∧
        t.fget (Csr.dirSetCnt d) DirSetCnt.exhausted =
          min (s.fget (Csr.dirSetCnt d) DirSetCnt.exhausted + 1) (2 ^ DirSetCnt.exhausted.width - 1) ∧
        OnlyRegs s t [Csr.dirSetCnt d, Csr.ndQdropCnt (queueOf d)] ∧
        (s.windowOpen d 0x0208 0 = false → (s.waiting d).length < 64 → t.waiting d = s.waiting d ++
          [s.item d 0x0208 [(1, d), (2, set), (1, if 8 ≤ x.req.sidx then x.req.sidx - 8 else x.req.port), (1, x.req.kind.code)]]) ∧
        (8 ≤ x.req.sidx → ∃ y : XMsg, y.msg.g Hd.dkind = 4 ∧ y.msg.g Hd.status = St.timeout ∧ y.die = x.req.sdie % 8 ∧
          y.id = s.serial ∧ Entered s t d 11 y) ∧
        (x.req.sidx < 8 → t.xin = s.xin ∧ t.xsrc = s.xsrc ∧ t.outbox = s.outbox ++ [.linkError x.req.port x.req.msg])) ∧
    (∀ (p : PortNo) (y : XMsg) (rest : List XMsg), s.sluiceOpen d = true → SMap.get [] s.xout (xkey d 11 4) = y :: rest →
      y.msg.name = .escDown → y.msg.g Hd.port = p → Completes (.dirPortDown d p) s fun t =>
      SMap.get [] t.xout (xkey d 11 4) = rest ∧ t.portIsDown d p = true ∧
      (∀ (k : Slot) (x : Txn), s.txn d k = some x → ∃ x', t.txn d k = some x' ∧ x' = { x with snoops := x'.snoops } ∧
        ∀ n ∈ x'.snoops, n.port = p.val → n.done = true) ∧
      (∃ k, SMap.find t.dirWalk d = some k ∧ (k.ports.any (·.port == p.val)) = true ∧
        (SMap.find s.dirWalk d = none →
          k = { next := 0, ports := [{ port := p.val, left := 16384, deferred := [], removed := 0, lost := 0 }] }) ∧
        (∀ k', SMap.find s.dirWalk d = some k' → (k'.ports.any (·.port == p.val)) = true → k = k')) ∧
      OnlyRegs s t [downReg d p, Csr.xbCredit d 11 4] ∧
      t = { s with csr := t.csr, xout := t.xout, dirTxn := t.dirTxn, dirOrph := t.dirOrph, dirAcc := t.dirAcc,
                   dirWalk := t.dirWalk }) ∧
    (∀ (k : Walk) (q : WalkPort), SMap.find s.dirWalk d = some k → k.ports = [q] → 1 ≤ q.left →
      (∀ w < 16, SMap.get 0 s.dirBad (entKey d k.next w) = 0) →
      let mask := s.shareEn d
      let st (w : Nat) : Nat := De.state.get (s.entry d k.next w)
      let shared (w : Nat) : Bool := st w == 1 && !coarseMode mask && covers mask (De.sharers.get (s.entry d k.next w)) q.port
      let owned (w : Nat) : Bool := st w == 2 && De.owner.get (s.entry d k.next w) == q.port
      let number (f : Nat → Bool) : Nat := ((List.range 16).filter f).length
      let walked (t : State) : Prop :=
        (∀ w < 16,
          (shared w = true → let v := De.sharers.get (s.entry d k.next w) &&& (2 ^ 32 - 1 - sharerOf mask q.port)
            t.entry d k.next w = if v = 0 then 0 else De.sharers.put (s.entry d k.next w) v) ∧
          (owned w = true → t.entry d k.next w = De.state.put (s.entry d k.next w) 3) ∧
          (shared w = false → owned w = false → t.entry d k.next w = s.entry d k.next w)) ∧
        (∀ key, (∀ w < 16, key ≠ entKey d k.next w) → SMap.get 0 t.dirEnt key = SMap.get 0 s.dirEnt key) ∧
        t.fget (Csr.dirLostCnt d) DirLostCnt.lost =
          min (s.fget (Csr.dirLostCnt d) DirLostCnt.lost + number owned) (2 ^ DirLostCnt.lost.width - 1)
      (2 ≤ q.left → Completes (.dirWalkSet d) s fun t =>
        walked t ∧ OnlyRegs s t [Csr.dirLostCnt d] ∧
        (∃ q', SMap.find t.dirWalk d = some { next := (k.next + 1) % 16384, ports := [q'] } ∧ q'.port = q.port ∧
          q'.left = q.left - 1 ∧ q'.removed = q.removed + number shared ∧ q'.lost = q.lost + number owned ∧
          (∀ l, l ∈ q'.deferred ↔ l ∈ q.deferred ∨
            ∃ e ∈ s.txns d, lineSet s.part.k e.2.req.addr = k.next ∧ l = e.2.req.addr / 64)) ∧
        t = { s with csr := t.csr, dirEnt := t.dirEnt, dirWalk := t.dirWalk }) ∧
      (q.left = 1 → q.deferred = [] → (∀ e ∈ s.txns d, lineSet s.part.k e.2.req.addr ≠ k.next) → (s.waiting d).length < 64 → Completes (.dirWalkSet d) s fun t =>
        walked t ∧ SMap.find t.dirWalk d = none ∧
        t.waiting d = s.waiting d ++
          [s.item d 0x0202 [(1, d), (1, q.port), (4, q.removed + number shared), (4, q.lost + number owned)]] ∧
        (s.portUp q.port = true → t.portIsDown d q.port = false)))

/-- R201 to R206: one FAB cycle of a running cell, on the entry its phase selects and what its routes bring it. The result of
the operation and its carry are those of Table 06-3; with WE and a true PRED the register WD takes the result; o0 shows it
unless OH holds it; F and the other registers keep their values, and the LUT registers take the LUTs. The registers take these
at the edge that ends the cycle, those of a wire-clocked cell at once where its command brings an edge, and else never. R203 to R206: CMP computes as
SUB and sets F to its condition when PRED holds; the least significant cell (c = 1) compares the whole words. NOP, and an entry
that R204 names, which sets BADOP, write no register but those of the LUTs and hold o0 with CO 0. At the edge of the FAB domain
the registers of every cell of the reach that has no wire clock take what its cycle left them. -/
def Obligations.FabricCells : Prop :=
  (
  ∀ (d : Die) (r : Reach) (col : Col) (row : Row) (edge : Bool) (s : State),
    let holds : Bool := s.wireClocked d r col row && !edge
    let e := s.selEntry d r col row
    let c := s.cell d r col row
    let x := s.cellIn d r col row
    let A := cellA e c.regs x
    let B := cellB e c.regs x
    let k := cellC e x
    let sum := A.toNat + B.toNat + k.toNat
    let dif := A.toNat + (~~~B).toNat + k.toNat
    let sh := B.toNat % 16
    let below := (s.cell d r col (row.val - 1)).prod
    let p : Bool := match Ent.pred.ofNat e with | 0 => true | 1 => x.p0 | 2 => !x.p0 | _ => c.regs.f
    s.cellRuns d r col row = true → badEntry e row = false →
    ∀ q ∈ ([(.cellAdd d r col row edge, 0x01, BitVec.ofNat 16 sum, decide (2 ^ 16 ≤ sum)),
        (.cellSub d r col row edge, 0x02, BitVec.ofNat 16 dif, decide (2 ^ 16 ≤ dif)),
        (.cellAnd d r col row edge, 0x03, A &&& B, false), (.cellOr d r col row edge, 0x04, A ||| B, false),
        (.cellXor d r col row edge, 0x05, A ^^^ B, false), (.cellAndn d r col row edge, 0x06, A &&& ~~~B, false),
        (.cellRolc d r col row edge, 0x07, BitVec.ofNat 16 (2 * A.toNat + k.toNat), A.msb),
        (.cellShl d r col row edge, 0x08, A <<< sh, false), (.cellShr d r col row edge, 0x09, A >>> sh, false),
        (.cellSra d r col row edge, 0x0A, A.sshiftRight sh, false),
        (.cellMul d r col row edge, 0x0C, BitVec.ofNat 16 (A.toNat * B.toNat), false),
        (.cellMulh d r col row edge, 0x0D, (below.getD 0).extractLsb' 16 16, false),
        (.cellMov d r col row edge, 0x0E, B, false), (.cellSel d r col row edge, 0x0F, if x.p0 then A else B, false)]
        : List (Instr × Nat × BitVec 16 × Bool)),
      Ent.op.ofNat e = q.2.1 → Completes q.1 s fun t =>
        let n := t.cell d r col row
        let g := n.next.getD n.regs
        (holds = false →
          (∀ i < 4, g.w i = if p = true ∧ Ent.we.ofNat e = 1 ∧ Ent.wd.ofNat e = i then q.2.2.1 else c.regs.w i) ∧
          g.f = c.regs.f ∧ g.lut0 = s.lutValue d r col row 0 ∧ g.lut1 = s.lutValue d r col row 1) ∧
        (holds = true → g = c.regs) ∧
        (if s.wireClocked d r col row then n.next = none else n.regs = c.regs ∧ n.next.isSome = true) ∧
        n.o0 = (if Ent.oh.ofNat e = 1 then c.o0 else q.2.2.1) ∧ n.co = q.2.2.2 ∧ n.z = (q.2.2.1 == 0) ∧ n.p0 = x.p0 ∧ n.p1 = x.p1 ∧
        (q.2.1 = 0x0C → n.prod = some (if Ent.sgn.ofNat e = 1 then BitVec.ofInt 32 (A.toInt * B.toInt)
          else BitVec.ofNat 32 (A.toNat * B.toNat))) ∧
        (∀ key, key ≠ cellKey d r col row → SMap.get Cell.reset t.cells key = SMap.get Cell.reset s.cells key) ∧
        t = { s with cells := t.cells }) ∧
  (
  ∀ (d : Die) (r : Reach) (col : Col) (row : Row) (edge : Bool) (s : State),
    let holds : Bool := s.wireClocked d r col row && !edge
    let e := s.selEntry d r col row
    let c := s.cell d r col row
    let x := s.cellIn d r col row
    let A := cellA e c.regs x
    let B := cellB e c.regs x
    let k := cellC e x
    let dif := A.toNat + (~~~B).toNat + k.toNat
    let cond := Ent.imm.ofNat e % 8
    let others (t : State) : Prop :=
      (∀ key, key ≠ cellKey d r col row → SMap.get Cell.reset t.cells key = SMap.get Cell.reset s.cells key)
    (s.cellRuns d r col row = true → badEntry e row = false → Ent.op.ofNat e = 0x0B → Completes (.cellCmp d r col row edge) s fun t =>
      let n := t.cell d r col row
      let g := n.next.getD n.regs
      let p := cellPred e c.regs x
      n.o0 = (if Ent.oh.ofNat e = 1 then c.o0 else BitVec.ofNat 16 dif) ∧ n.co = decide (2 ^ 16 ≤ dif) ∧
      (holds = true → n.next = none ∧ n.regs = c.regs) ∧
      (holds = false → ∀ i < 4,
        g.w i = if p = true ∧ Ent.we.ofNat e = 1 ∧ Ent.wd.ofNat e = i then BitVec.ofNat 16 dif else c.regs.w i) ∧
      (s.wireClocked d r col row = false → n.regs = c.regs) ∧ (p = false → g.f = c.regs.f) ∧
      (holds = false → p = true → (cond = 2 → g.f = !n.co) ∧ (cond = 3 → g.f = n.co)) ∧
      (holds = false → p = true → k = true → (cond = 0 → g.f = decide (A = B)) ∧ (cond = 1 → g.f = decide (A ≠ B)) ∧
        (cond = 2 → g.f = decide (A.toNat < B.toNat)) ∧ (cond = 3 → g.f = decide (B.toNat ≤ A.toNat)) ∧
        (cond = 4 → g.f = decide (A.toInt < B.toInt)) ∧ (cond = 5 → g.f = decide (B.toInt ≤ A.toInt))) ∧
      others t ∧ t = { s with cells := t.cells }) ∧
    (s.cellRuns d r col row = true → (badEntry e row = true ∨ Ent.op.ofNat e = 0) → Completes (.cellNop d r col row edge) s fun t =>
      let n := t.cell d r col row
      let g := n.next.getD n.regs
      n.o0 = c.o0 ∧ n.co = false ∧ g.f = c.regs.f ∧ (∀ i < 4, g.w i = c.regs.w i) ∧
      (holds = false → g.lut0 = s.lutValue d r col row 0 ∧ g.lut1 = s.lutValue d r col row 1) ∧ (holds = true → g = c.regs) ∧
      (s.wireClocked d r col row = false → n.regs = c.regs) ∧
      (badEntry e row = true → t.fget (Csr.reachSts d r) ReachSts.badop = 1) ∧
      (badEntry e row = false → t.csrGet (Csr.reachSts d r) = s.csrGet (Csr.reachSts d r)) ∧
      OnlyRegs s t [Csr.reachSts d r] ∧ others t ∧ t = { s with csr := t.csr, cells := t.cells, draws := s.draws + 1 }) ∧
    ∀ old : State, SMap.wf (fun _ => Cell.reset) s.cells = true → let n := (State.cellEdge old d r s).cell d r col row
      (old.wireClocked d r col row = false → n.regs = c.next.getD c.regs ∧ n.next = none ∧ n.o0 = c.o0 ∧ n.co = c.co ∧ n.z = c.z) ∧
      (old.wireClocked d r col row = true → n = c))

/-- R211 to R214: GO rejects a rewrite at once with its status and changes nothing, or makes it pending; it commits at an edge
at which the entry is not selected, writing the entry of the active plane, whose frames are then without a mark of a bad bit,
with STATUS OK; past its time it is cancelled. The order of its reasons to refuse is log entry 45. -/
def Obligations.LiveRewriting : Prop :=
  ∀ (d : Die) (s : State),
    let sts := Csr.fabIrwSts d
    (∀ hi : BitVec 8, s.dieOn d = true →
      let sel := Csr.fabIrwSel d
      let r := s.fget sel FabIrwSel.reach
      let col := s.fget sel FabIrwSel.col
      let row := s.fget sel FabIrwSel.row
      let v := (s.csrGet (Csr.fabIrwLo d)).toNat + hi.toNat * 2 ^ 32
      let open_ : Prop := s.patchable d r = true ∧ s.isolated d r = false ∧ s.gated d r = false ∧ s.swap = none ∧ s.load = none
      let job : Prop := ∃ j ∈ s.jobs, j.die = d ∧ j.reach = r
      let none_ : Prop := SMap.find s.rewrite d = none
      let rejected (st : Nat) : Prop := Completes (.entryRewriteGo d hi) s fun t =>
        t.fget sts FabIrwSts.status = st ∧ t.fget sts FabIrwSts.pending = s.fget sts FabIrwSts.pending ∧
        OnlyRegs s t [sts, Csr.fabIrwHi d] ∧ t = { s with csr := t.csr }
      (¬ none_ → rejected St.busy) ∧
      (none_ → ¬ open_ → rejected St.refused) ∧
      (none_ → open_ → job → rejected St.busy) ∧
      (none_ → open_ → ¬ job → (47 < col ∨ badEntry v row = true) → rejected St.badArgument) ∧
      (none_ → open_ → ¬ job → col ≤ 47 → badEntry v row = false → Completes (.entryRewriteGo d hi) s fun t =>
        SMap.find t.rewrite d = some { reach := r, col := col, row := row, entry := s.fget sel FabIrwSel.entry, value := v } ∧
        t.fget sts FabIrwSts.pending = 1 ∧ OnlyRegs s t [sts, Csr.fabIrwHi d] ∧
        t = { s with csr := t.csr, rewrite := t.rewrite })) ∧
    (∀ w : Rewrite, SMap.find s.rewrite d = some w →
      let place := entryPlace (s.plane d w.reach) d w.reach w.col w.row w.entry
      let ended (t : State) (st : Nat) : Prop :=
        SMap.find t.rewrite d = none ∧ t.fget sts FabIrwSts.status = st ∧ t.fget sts FabIrwSts.pending = 0 ∧ OnlyRegs s t [sts]
      let off := 5 * (48 * w.row + w.col)
      let frameOf (o : Nat) : Nat := frameNo (s.plane d w.reach) d w.reach (30 * w.entry + o / 256)
      let selected : Prop := s.cellPhase d w.reach w.col w.row = w.entry
      (∀ e : Fin 8, s.cellRuns d w.reach w.col w.row = true → ¬ selected → s.cellPhase d w.reach w.col w.row = e →
        Completes (.rewriteCommit d e) s fun t =>
        t.cellEntry d w.reach w.col w.row w.entry = w.value % 2 ^ 40 ∧
        (∀ a, (a < place ∨ place + 5 ≤ a) → Memory.read 0 t.frames a = Memory.read 0 s.frames a) ∧
        SMap.find t.frameBad (frameOf off) = none ∧ SMap.find t.frameBad (frameOf (off + 4)) = none ∧
        (∀ k, k ≠ frameOf off → k ≠ frameOf (off + 4) → SMap.find t.frameBad k = SMap.find s.frameBad k) ∧ ended t St.ok ∧
        t = { s with csr := t.csr, frames := t.frames, frameBad := t.frameBad, entryOld := t.entryOld, rewrite := t.rewrite }) ∧
      (∀ e : Fin 8, (selected ∨ s.cellPhase d w.reach w.col w.row ≠ e) → Completes (.rewriteCommit d e) s fun t => t = s) ∧
      (Completes (.rewriteTimeout d) s fun t => ended t St.timeout ∧ t = { s with csr := t.csr, rewrite := t.rewrite }))

/-- R184, R219 to R222, R227, R229: a setting beyond the limits, those of a free mode among them, is discarded with ERR; a
change of the settings stops the clock until the lock, which a stopped reference cannot give; a loss stops it with LOCKLOSS;
SLU_FAB_COST shows the lock and the mode's crossing costs. The clock at a pin has a free frequency of 10 to 200 MHz (log entry
44). FABSEL changes only while the reach is isolated or held in reset. A pin's delay takes TAPS and PATH, and CUR follows. R224,
R230 to R232: the FIFOs of the serial ports keep 16 words in order, which a CSR and the fabric port share: of the words of one
REF cycle the fabric's comes first, and it takes a received word with no valid on an empty FIFO; a word too many is discarded
with TXOVF or RXOVF; a framing or parity error stores the character and is flagged; a transmitted word leaves the port. The
flash port of reach 0 asks for a line of the window, and answers a greater index at once with zero words, poisoned, and RANGE.
The clock at a reference pin is a free value, log entry 44. -/
def Obligations.FabricClocksAndPorts : Prop :=
  (
  ∀ (d : Die) (s : State), s.dieOn d = true →
    (∀ (f : Fab) (v : Word),
      let ctrl := Csr.fabPllCtrl d f
      let sts := Csr.fabPllSts d f
      let M := max 1 (FabPllCtrl.m.get v)
      let N := max 1 (FabPllCtrl.n.get v)
      let rational : Prop := FabPllCtrl.mode.get v = 0
      let ref := s.pllRef d f v
      let top := if s.part.grade = 2 then 1250000000 else 1000000000
      let old := s.csrGet ctrl
      let same : Prop := FabPllCtrl.mode.get old = FabPllCtrl.mode.get v ∧ FabPllCtrl.refsel.get old = FabPllCtrl.refsel.get v ∧
        FabPllCtrl.m.get old = FabPllCtrl.m.get v ∧ FabPllCtrl.n.get old = FabPllCtrl.n.get v ∧
        FabPllCtrl.en.get old = FabPllCtrl.en.get v
      (rational → ref = (156250000, 1)) ∧
      (¬ rational → FabPllCtrl.refsel.get v = 3 → ref = (400000000, s.fget (Csr.roscCtrl d f) RoscCtrl.sel + 1)) ∧
      (¬ rational → FabPllCtrl.refsel.get v ≠ 3 → 10000000 ≤ ref.1 ∧ ref.1 ≤ 200000000 ∧ ref.2 = 1) ∧
      ((ref.1 * M < 10000000 * N * ref.2 ∨ top * N * ref.2 < ref.1 * M) →
        Completes (.fabPllWrite d f v) s fun t => t.fget sts FabPllSts.err = 1 ∧ OnlyRegs s t [sts] ∧ t = { s with csr := t.csr }) ∧
      (s.pllOk d f v = true → Completes (.fabPllWrite d f v) s fun t =>
        t.csrGet ctrl = BitVec.ofNat 32 (v.toNat % 2 ^ 20) ∧ (same → OnlyRegs s t [ctrl]) ∧
        (¬ same → t.fget sts FabPllSts.lock = 0 ∧ OnlyRegs s t [ctrl, sts]) ∧
        t = { s with csr := t.csr })) ∧
    (∀ f : Fab,
      let ctrl := Csr.fabPllCtrl d f
      let sts := Csr.fabPllSts d f
      let cost (t : State) : Word := t.fabCostView d f
      let free : Prop := FabPllCtrl.mode.get (s.csrGet ctrl) = 1
      let period := fabPeriod (pllM (s.csrGet ctrl)) (pllN (s.csrGet ctrl))
      let shown (t : State) (valid : Nat) : Prop := SluFabCost.valid.get (cost t) = valid ∧
        (free → SluFabCost.free.get (cost t) = 1 ∧ SluFabCost.toFlit.get (cost t) = 0 ∧ SluFabCost.toBank.get (cost t) = 0) ∧
        (¬ free → SluFabCost.toFlit.get (cost t) = crossTo period .flit % 2 ^ SluFabCost.toFlit.width ∧
          SluFabCost.toBank.get (cost t) = crossTo period .bank % 2 ^ SluFabCost.toBank.width ∧ SluFabCost.free.get (cost t) = 0)
      let stopped : Prop := free ∧ s.fget ctrl FabPllCtrl.refsel = 3 ∧ s.fget (Csr.roscCtrl d f) RoscCtrl.en = 0
      (s.fget ctrl FabPllCtrl.en = 1 → ¬ stopped → Completes (.fabPllLock d f) s fun t =>
        t.fget sts FabPllSts.lock = 1 ∧ shown t 1 ∧ SMap.get 0 t.fabAcc (d * 4 + f) = 0 ∧
        OnlyRegs s t [sts] ∧ t = { s with csr := t.csr, fabAcc := t.fabAcc }) ∧
      ((s.fget ctrl FabPllCtrl.en = 0 ∨ stopped) → Completes (.fabPllLock d f) s fun t => t = s) ∧
      (s.fget sts FabPllSts.lock = 1 → Completes (.fabPllLockloss d f) s fun t =>
        t.fget sts FabPllSts.lock = 0 ∧ t.fget sts FabPllSts.lockloss = 1 ∧ shown t 0 ∧
        OnlyRegs s t [sts] ∧ t = { s with csr := t.csr })) ∧
    (∀ (r : Reach) (sel : Fab),
      ((s.isolated d r = true ∨ s.inReset d r = true) → Completes (.fabselWrite d r sel) s fun t =>
        t.csrGet (Csr.reachCtrl d r) = ReachCtrl.fabsel.put (s.csrGet (Csr.reachCtrl d r)) sel ∧
        OnlyRegs s t [Csr.reachCtrl d r] ∧ t = { s with csr := t.csr }) ∧
      (s.isolated d r = false → s.inReset d r = false → Completes (.fabselWrite d r sel) s fun t =>
        t.fget (Csr.reachSts d r) ReachSts.err = 1 ∧ OnlyRegs s t [Csr.reachSts d r] ∧ t = { s with csr := t.csr })) ∧
    (∀ (p : Uio) (v : Word), Completes (.uioDlyWrite d p v) s fun t =>
      t.fget (Csr.uioDly d p) UioDly.taps = UioDly.taps.get v ∧ t.fget (Csr.uioDly d p) UioDly.path = UioDly.path.get v ∧
      t.fget (Csr.uioDly d p) UioDly.cur = s.fget (Csr.uioDly d p) UioDly.cur ∧ OnlyRegs s t [Csr.uioDly d p] ∧
      t = { s with csr := t.csr })) ∧
  (
  ∀ (d : Die) (u : Usp) (s : State), s.dieOn d = true →
    let sts := Csr.uspSts d u
    let c := s.csrGet (Csr.uspCtrl d u)
    let x := s.uspSt d u
    let uart : Prop := UspCtrl.mode.get c = 0
    let keeps (w : BitVec 16) : BitVec 16 :=
      if UspCtrl.mode.get c = 0 then (if UspCtrl.bits.get c ≠ 0 then w &&& 0x7F else w &&& 0xFF)
      else (if UspCtrl.bits.get c ≠ 0 then w else w &&& 0xFF)
    (∀ (v : BitVec 16) (fab : Bool), (fab = true → s.portOpen d (uspReach u) = true) →
      let late := if x.csrAt = s.refNow + 1 then min x.csrIn x.tx.length else 0
      let at_ := if fab then x.tx.length - late else x.tx.length
      let q := x.tx.take at_ ++ v :: x.tx.drop at_
      Completes (.uspTxWrite d ⟨u, fab⟩ v) s fun t =>
        (t.uspSt d u).tx = q.take 16 ∧ (t.uspSt d u).rx = x.rx ∧
        (fab = false → (t.uspSt d u).csrAt = s.refNow + 1 ∧ (t.uspSt d u).csrIn = late + 1) ∧
        t.fget sts UspSts.txovf = (if q.length ≤ 16 then s.fget sts UspSts.txovf else 1) ∧
        OnlyRegs s t [sts] ∧ t = { s with csr := t.csr, usp := t.usp }) ∧
    (Completes (.uspRxRead d ⟨u, false⟩) s fun t => t.uspSt d u = { x with rx := x.rx.drop 1 } ∧ t = { s with usp := t.usp }) ∧
    (s.portOpen d (uspReach u) = true → Completes (.uspRxRead d ⟨u, true⟩) s fun t =>
      let k := fabInKey d (0x500 + u)
      t.uspSt d u = { x with rx := x.rx.drop 1 } ∧
      SMap.get [] t.fabIn k = SMap.get [] s.fabIn k ++ (x.rx.take 1).map (fun w => ⟨[w], false, false⟩) ∧
      t = { s with usp := t.usp, fabIn := t.fabIn, outbox := t.outbox }) ∧
    (∀ (w : BitVec 16) (ferr perr : Bool), s.fget (Csr.uspCtrl d u) UspCtrl.en = 1 → uart →
      Completes (.uspReceive d u w ferr perr) s fun t =>
        (x.rx.length < 16 → t.uspSt d u = { x with rx := x.rx ++ [keeps w] } ∧ t.fget sts UspSts.rxovf = s.fget sts UspSts.rxovf) ∧
        (16 ≤ x.rx.length → t.usp = s.usp ∧ t.fget sts UspSts.rxovf = 1) ∧
        t.fget sts UspSts.ferr = (if ferr then 1 else s.fget sts UspSts.ferr) ∧
        t.fget sts UspSts.perr = (if perr then 1 else s.fget sts UspSts.perr) ∧
        OnlyRegs s t [sts] ∧ t = { s with csr := t.csr, usp := t.usp }) ∧
    (∀ (w rxw : BitVec 16) (rest : List (BitVec 16)) (cts : Bool), x.tx = w :: rest → UspCtrl.en.bit c = true →
      s.pinHeld d ((uspPins u).headD 0) = false →
      (uart → UspCtrl.flow.bit c = true → cts = true) → Completes (.uspTransmit d u cts rxw) s fun t =>
        (t.uspSt d u).tx = rest ∧ t.outbox = s.outbox ++ [.serial d u (keeps w)] ∧
        (uart → (t.uspSt d u).rx = x.rx ∧ t.csr = s.csr) ∧
        (UspCtrl.mode.get c = 1 → x.rx.length < 16 → (t.uspSt d u).rx = x.rx ++ [keeps rxw]) ∧
        OnlyRegs s t [sts] ∧ t = { s with csr := t.csr, usp := t.usp, outbox := t.outbox }) ∧
    (∀ i0 i1 : BitVec 16, s.portOpen d 0 = true → (∀ l e, .window l e (some d.val) ∉ s.fl.reads) →
      SMap.get [] s.fabIn (fabInKey d ufwPort) = [] →
      let line := i0.toNat + i1.toNat % 4 * 65536
      (line ≤ 245759 → Completes (.ufwRequest d 0 i0 i1) s fun t =>
        t.fl = { s.fl with reads := s.fl.reads ++ [.window line none (some d.val)] } ∧ t = { s with fl := t.fl }) ∧
      (245759 < line → Completes (.ufwRequest d 0 i0 i1) s fun t =>
        t.outbox = s.outbox ++ List.replicate 16 (.fabric d 0x400 0 true false) ∧
        (let w := SMap.get [] t.fabIn (fabInKey d ufwPort)
         w.length = 16 ∧ ∀ b ∈ w, b.poison = true ∧ ∀ z ∈ b.words, z = 0) ∧
        t.fget (Csr.ufwSts d) UfwSts.range = 1 ∧
        OnlyRegs s t [Csr.ufwSts d] ∧ t = { s with csr := t.csr, fabIn := t.fabIn, outbox := t.outbox })))

/-- R235, R238 to R243: a fabric request alone at its bank port. A read delivers the word of a clean or correctable line and the
stored one of a poisoned line, with the counts of R242; an uncorrectable word is counted, logged and reported. A whole write
stores the word; a write of some lanes merges them, and a word that was poisoned stays so. The data of an uncorrectable word is
log entry 7. -/
def Obligations.BankFabricAccess : Prop :=
  ∀ (d : Die) (b : Bank) (port : GrantPort) (q : FabBankReq) (s : State),
    (port = .single ∧ b.val < 44 ∨ port = .a ∧ 44 ≤ b.val ∧ s.portFree d b 1 = true) → s.portFree d b 0 = true →
    q.reach.val = b.val / 3 → s.portOpen d q.reach = true → s.bankUnav d b = false → s.NoBankAnswerDue →
    SMap.get [] s.bankQ (bankQKey d b 1) = [] → SMap.get [] s.bankQ (bankQKey d b 2) = [] →
    let v := s.bankRaw d b q.word
    let m := s.bankMarkOf d b q.word
    let base := bankKey d b * 131072 + 8 * q.word.val
    let misc := Csr.bankMiscCnt d
    let ecc := Csr.bankEccCnt d
    let log := Csr.bankEccLog d
    let elsewhere (t : State) : Prop :=
      (∀ a, (a < base ∨ base + 8 ≤ a) → Memory.read 0 t.bankMem a = Memory.read 0 s.bankMem a) ∧
      (∀ b' w', (b' ≠ b.val ∨ w' ≠ q.word.val) → w' < 16384 → t.bankMarkOf d b' w' = s.bankMarkOf d b' w')
    (q.op = .read → s.eligibleReq d b 0 ⟨0, q.word, .read, none⟩ = true → Completes (.bankGrant d b port (some q)) s fun t =>
      let k := fabInKey d (0x100 + b.val)
      let gave (x : BitVec 64) : Prop := t.outbox = s.outbox ++ [.fabric d (0x100 + b.val) (x.setWidth 256) false false] ∧
        SMap.get [] t.fabIn k = SMap.get [] s.fabIn k ++ [⟨wordsOf 4 x.toNat, false, false⟩] ∧
        ∀ j ≠ k, SMap.get [] t.fabIn j = SMap.get [] s.fabIn j
      (m.poison = true → gave v ∧ t.fget misc BankMiscCnt.poisonRd =
        min (s.fget misc BankMiscCnt.poisonRd + 1) (2 ^ BankMiscCnt.poisonRd.width - 1) ∧ OnlyRegs s t [misc]) ∧
      (m.poison = false → popCount 72 m.flips = 0 → gave v ∧ t.csr = s.csr) ∧
      (m.poison = false → popCount 72 m.flips = 1 → gave v ∧ t.fget ecc BankEccCnt.corr =
        min (s.fget ecc BankEccCnt.corr + 1) (2 ^ BankEccCnt.corr.width - 1) ∧ OnlyRegs s t [ecc]) ∧
      (m.poison = false → 2 ≤ popCount 72 m.flips → gave (Config.eccRead m.flips v) ∧ t.fget ecc BankEccCnt.uncorr =
        min (s.fget ecc BankEccCnt.uncorr + 1) (2 ^ BankEccCnt.uncorr.width - 1) ∧ t.fget log BankEccLog.valid = 1 ∧
        (s.fget log BankEccLog.valid = 0 → t.fget log BankEccLog.bank = b ∧ t.fget log BankEccLog.word = q.word) ∧
        (s.fget log BankEccLog.valid = 1 → t.csrGet log = s.csrGet log) ∧
        (s.windowOpen d 0x0401 0 = false → (s.waiting d).length < 64 →
          t.waiting d = s.waiting d ++ [s.item d 0x0401 [(1, d), (1, b), (2, q.word), (1, 0)]]) ∧
        OnlyRegs s t [ecc, log, Csr.ndQdropCnt (queueOf d)]) ∧
      t = { s with csr := t.csr, outbox := t.outbox, fabIn := t.fabIn, bankLast := t.bankLast, bankRr := t.bankRr,
                   queues := t.queues, windows := t.windows }) ∧
    (∀ (be : BitVec 8) (x : BitVec 64) (p : Bool), q.op = .write be x p → s.writesEnabled d q.reach = true → be ≠ 0 →
      (∀ j < 4, be.getLsbD (2 * j) = be.getLsbD (2 * j + 1)) → m.flips = 0 →
      s.eligibleReq d b 0 ⟨0, q.word, .write be x false, none⟩ = true → Completes (.bankGrant d b port (some q)) s fun t =>
      (∀ i < 8, (t.bankRaw d b q.word).toNat / 256 ^ i % 256 = (if be.getLsbD i then x else v).toNat / 256 ^ i % 256) ∧
      t.bankMarkOf d b q.word = { poison := m.poison && be != 0xFF, flips := 0 } ∧ elsewhere t ∧ OnlyRegs s t [misc] ∧
      t = { s with csr := t.csr, bankMem := t.bankMem, bankMark := t.bankMark, bankLast := t.bankLast, bankRr := t.bankRr,
                   bankRmw := t.bankRmw })

/-- R237, R239 to R243, R245 (03 R133): an engine's request alone at a bank whose die's clocks run. A load brings the word, or
the half it names, an atomic brings the old word and stores the sum or the operand, and nothing into a poisoned word; the engine
goes on with the status and poison in OST. An unavailable bank answers 0, poisoned, NOT_PRESENT, and counts it. R238, R244,
Table 07-2: two ports of a twin bank in one cycle. Of two whole writes of one word port A's is stored and WW advances; a read
beside a whole write sees the word before it. Of two requests of different masters at one port the next in round-robin order is
granted and the other counts a conflict. R133, R235, R237, R241, R242, R245, R312 (01 R36): a message's or a host's access alone
at the bank DMA. A message's read is answered on DAT with the word in one beat, and its poison, any other access on RSP with its
status; the crossbar credit of the message returns; a poisoned write stores the poison code. A host's word joins those of its
command. Where a round robin starts, two ports in one command, and when a bank command is answered are log entries 47, 109, 122.
-/
def Obligations.BankEngineAccessAndConflicts : Prop :=
  (
  ∀ (d : Die) (b : Bank) (e : Eng) (w : Nat) (half : Option Bool) (op : BankOp) (rd : Nat) (pair atomic : Bool) (id : Nat) (s : State),
    s.clockOn d = true → s.NoBankAnswerDue → b.val < 44 → s.portFree d b 0 = true → SMap.get [] s.bankQ (bankQKey d b 2) = [] →
    let q : BankReq := ⟨id, .engine, d, e, w, half, op⟩
    let x := s.eng d e
    SMap.get [] s.bankQ (bankQKey d b 1) = [q] → x.wait = .bank rd pair atomic → (if pair = true then pairOk rd = true else rd < 24) →
    s.fbit (Csr.engCtrl d e) EngCtrl.ptrap = false → s.eligibleReq d b 0 ⟨1, w, op, some q⟩ = true → w < 16384 →
    let old := s.bankRaw d b w
    let m := s.bankMarkOf d b w
    let base := bankKey d b * 131072 + 8 * w
    let went (t : State) (st : Nat) (poison : Bool) : Prop :=
      t.eng d e = { x.went 0 (x.pc + 1) with ost := ost st poison false 0 } ∧
      (∀ (d' : Die) (e' : Eng), (d', e') ≠ (d, e) → t.eng d' e' = s.eng d' e') ∧ SMap.get [] t.bankQ (bankQKey d b 1) = []
    let frame (t : State) : Prop :=
      t = { s with csr := t.csr, bankMem := t.bankMem, bankMark := t.bankMark, bankQ := t.bankQ, bankLast := t.bankLast,
                   bankRr := t.bankRr, bankRmw := t.bankRmw, engs := t.engs, engReg := t.engReg, queues := t.queues,
                   windows := t.windows }
    let stored (t : State) (y : BitVec 64) : Prop := t.bankRaw d b w = y ∧ t.bankMarkOf d b w = WordMark.clean ∧
      (∀ a, (a < base ∨ base + 8 ≤ a) → Memory.read 0 t.bankMem a = Memory.read 0 s.bankMem a)
    (s.bankUnav d b = false → m.flips = 0 →
      (op = .read → Completes (.bankGrant d b .single none) s fun t =>
        WroteRegs s t d e rd pair (match half with
          | none => old | some false => (old.setWidth 32).setWidth 64 | some true => (old >>> 32).setWidth 64) ∧
        went t 0 m.poison ∧ t.bankMem = s.bankMem ∧ t.bankMark = s.bankMark ∧ frame t) ∧
      (∀ y : BitVec 64, half = none → m.poison = false →
        ∀ r ∈ [(BankOp.fetchAdd y, old + y), (BankOp.swap y, y)], op = r.1 → Completes (.bankGrant d b .single none) s fun t =>
          WroteRegs s t d e rd pair old ∧ went t 0 false ∧ stored t r.2 ∧ t.csr = s.csr ∧ frame t) ∧
      (∀ y : BitVec 64, half = none → m.poison = true → (op = .fetchAdd y ∨ op = .swap y) →
        Completes (.bankGrant d b .single none) s fun t =>
          WroteRegs s t d e rd pair old ∧ went t 0 true ∧ t.bankMem = s.bankMem ∧ t.bankMark = s.bankMark ∧ frame t)) ∧
    (s.bankUnav d b = true → op = .read → Completes (.bankGrant d b .single none) s fun t =>
      WroteRegs s t d e rd pair 0 ∧ went t St.notPresent true ∧ t.bankMem = s.bankMem ∧ t.bankMark = s.bankMark ∧
      t.fget (Csr.bankMiscCnt d) BankMiscCnt.unav =
        min (s.fget (Csr.bankMiscCnt d) BankMiscCnt.unav + 1) (2 ^ BankMiscCnt.unav.width - 1) ∧ frame t)) ∧
  (
  ∀ (d : Die) (b : Bank) (f : FabBankReq) (w : Nat) (x : BitVec 64) (e : Eng) (id : Nat) (s : State),
    s.bankUnav d b = false → s.NoBankAnswerDue → f.reach.val = b.val / 3 → s.portOpen d f.reach = true →
    s.writesEnabled d f.reach = true → f.word.val = w → f.op = .write 0xFF x false →
    (SMap.get [] s.bankQ (bankQKey d b 2) = [] → ∀ op, let q : BankReq := ⟨id, .engine, d, e, w, none, op⟩
      SMap.get [] s.bankQ (bankQKey d b 1) = [q] →
      let rb : PortReq := ⟨1, w, op, some q⟩
      let ra : PortReq := ⟨0, w, .write 0xFF x false, none⟩
      (44 ≤ b.val → s.portFree d b 0 = true → s.portFree d b 1 = true → s.eligibleReq d b 0 ra = true →
        s.eligibleReq d b 1 rb = true →
        (∀ y, op = .write 0xFF y false → Completes (.bankGrant d b .ab (some f)) s fun t =>
          t.bankRaw d b w = x ∧ t.bankMarkOf d b w = WordMark.clean ∧ SMap.get [] t.bankQ (bankQKey d b 1) = [] ∧
          t.fget (Csr.bankTwinCnt d) BankTwinCnt.ww =
            min (s.fget (Csr.bankTwinCnt d) BankTwinCnt.ww + 1) (2 ^ BankTwinCnt.ww.width - 1) ∧
          OnlyRegs s t [Csr.bankTwinCnt d] ∧ t.engReg = s.engReg) ∧
        (∀ rd, op = .read → (s.eng d e).wait = .bank rd true false → pairOk rd = true → s.bankMarkOf d b w = WordMark.clean →
          Completes (.bankGrant d b .ab (some f)) s fun t =>
            t.bankRaw d b w = x ∧ WrotePair s t d e rd (s.bankRaw d b w) ∧ (∀ a, t.csrGet a = s.csrGet a))) ∧
      (b.val < 44 → s.portFree d b 0 = true → s.eligibleReq d b 0 ra = true → s.eligibleReq d b 0 rb = true →
        SMap.get 0 s.bankRr (bankKey d b * 4) = 0 → Completes (.bankGrant d b .single (some f)) s fun t =>
          t.bankRaw d b w = x ∧ SMap.get [] t.bankQ (bankQKey d b 1) = [q] ∧
          SMap.get 0 t.bankRr (bankKey d b * 4) = 1 ∧
          t.fget (Csr.bankConf0 d b) BankConf0.eng =
            min (s.fget (Csr.bankConf0 d b) BankConf0.eng + 1) (2 ^ BankConf0.eng.width - 1) ∧
          OnlyRegs s t [Csr.bankConf0 d b]))) ∧
  (
  ∀ (d : Die) (b : Bank) (q : BankReq) (s : State),
    s.clockOn d = true → s.NoBankAnswerDue → b.val < 44 → s.portFree d b 0 = true → SMap.get [] s.bankQ (bankQKey d b 1) = [] →
    SMap.get [] s.bankQ (bankQKey d b 2) = [q] → s.eligibleReq d b 0 ⟨2, q.word, q.op, some q⟩ = true → q.word < 16384 →
    s.bankUnav d b = false →
    let old := s.bankRaw d b q.word
    let mark := s.bankMarkOf d b q.word
    let grant : Instr := .bankGrant d b .single none
    let frame (t : State) : Prop :=
      SMap.get [] t.bankQ (bankQKey d b 2) = [] ∧
      t = { s with csr := t.csr, bankMem := t.bankMem, bankMark := t.bankMark, bankQ := t.bankQ, bankLast := t.bankLast,
                   bankRr := t.bankRr, bankRmw := t.bankRmw, serial := t.serial, xin := t.xin, xsrc := t.xsrc, cmds := t.cmds }
    mark.flips = 0 →
    (∀ m : Msg, q.who = .message m → m.g Hd.vc < 4 →
      let room (t : State) : Prop := t.fget (Csr.xbCredit d 21 (m.g Hd.vc)) XbCredit.avail =
        min (s.fget (Csr.xbCredit d 21 (m.g Hd.vc)) XbCredit.avail + m.size) (2 ^ XbCredit.avail.width - 1) ∧
          OnlyRegs s t [Csr.xbCredit d 21 (m.g Hd.vc), Csr.bankMiscCnt d]
      let answered (t : State) (value : Option (BitVec 64 × Bool)) : Prop :=
        let r := m.unitReply d 74 St.ok value
        r.g Hd.dkind = 4 ∧ r.g Hd.xtag = m.g Hd.xtag ∧ r.g Hd.destDie = m.g Hd.srcDie ∧ r.g Hd.destIdx = m.g Hd.srcIdx ∧
        Entered s t d 21 ⟨s.serial, r, r.g Hd.destDie, endpointOf (r.g Hd.destIdx)⟩ ∧ t.serial = s.serial + 1
      (q.op = .read → Completes grant s fun t => answered t (some (old, mark.poison)) ∧ room t ∧ t.bankMem = s.bankMem ∧ frame t) ∧
      (∀ (v : BitVec 64) (p : Bool), q.op = .write 0xFF v p → Completes grant s fun t =>
        answered t none ∧ room t ∧ t.bankRaw d b q.word = v ∧ t.bankMarkOf d b q.word = ⟨p, 0⟩ ∧ frame t)) ∧
    (∀ (h : CmdHdr) (i : Nat), q.who = .steward h i → (∀ c ∈ s.cmds, c.hdr ≠ h) → q.op = .read →
      Completes grant s fun t => t.cmds = s.cmds ∧ t.xin = s.xin ∧ t.bankMem = s.bankMem ∧ OnlyRegs s t [Csr.bankMiscCnt d] ∧ frame t) ∧
    (∀ (c : Cmd) (i n : Nat) (got : List BankGot), s.cmds = [c] → q.who = .steward c.hdr i → c.work = .bank n got →
      q.op = .read →
      (n = got.length + 1 → Completes grant s fun t => ∃ u : State, let all := got ++ [⟨i, old, mark.poison, St.ok⟩]
        let ws := bankOrder n all
        t = u.finishCmd { c with work := .bank n all } (bankStatus ws)
          (if c.op = 0x0103 then ws.flatMap (fun x => leBytes 8 x.data.toNat) else []) ∧
        u.cmds = [{ c with work := .bank n all }] ∧ u.outbox = s.outbox ∧ u.xin = s.xin ∧ frame u) ∧
      (got.length + 1 < n → Completes grant s fun t =>
        t.cmds = [{ c with work := .bank n (got ++ [⟨i, old, mark.poison, St.ok⟩]) }] ∧ t.xin = s.xin ∧ t.bankMem = s.bankMem ∧
        OnlyRegs s t [Csr.bankMiscCnt d] ∧ frame t)))

/-- R246, R248, R249, R251: a clear leaves every word of its bank 0 and clean, and the bank available. A test cycle of the
background test advances the region's count and corrects the word it saves; a March read that differs is counted, logged and
reported; the last cycle ends the region. BT_EN is written. -/
def Obligations.BankClearAndTest : Prop :=
  ∀ (d : Die) (s : State), s.dieOn d = true →
    (∀ b : Bank, s.bankClearing d b = true → Completes (.bankClearDone d b) s fun t =>
      (∀ w < 16384, t.bankRaw d b w = 0 ∧ t.bankMarkOf d b w = WordMark.clean) ∧
      (∀ b' : Bank, b' ≠ b → ∀ w < 16384, t.bankRaw d b' w = s.bankRaw d b' w ∧ t.bankMarkOf d b' w = s.bankMarkOf d b' w) ∧
      t.bankUnav d b = false ∧ t.bankClearing d b = false ∧ OnlyRegs s t [Csr.bankInfo d b] ∧
      t = { s with csr := t.csr, bankMem := t.bankMem, bankMark := t.bankMark, clearing := t.clearing }) ∧
    (∀ v : Bool, Completes (.btEnWrite d v) s fun t =>
      t.fbit (Csr.bankCtrl d) BankCtrl.btEn = v ∧
      (∀ f, f.lo + f.width ≤ BankCtrl.btEn.lo ∨ BankCtrl.btEn.lo + BankCtrl.btEn.width ≤ f.lo →
        f.lo + f.width ≤ 32 → t.fget (Csr.bankCtrl d) f = s.fget (Csr.bankCtrl d) f) ∧
      OnlyRegs s t [Csr.bankCtrl d] ∧ t = { s with csr := t.csr }) ∧
    (∀ bad : List Bank,
      let x := s.btSt d
      let region := s.fget (Csr.bankSts d) BankSts.region
      let tested := s.tested d
      s.fbit (Csr.cfgSts d) CfgSts.released = true → s.testCycle d s.bankNow = true → x.last ≠ s.bankNow + 1 →
      (x.cycle = 0 → s.fbit (Csr.bankCtrl d) BankCtrl.btEn = true) →
      (x.cycle < 64 → Completes (.btTestCycle d bad) s fun t =>
        (t.btSt d).cycle = x.cycle + 1 ∧ (t.btSt d).banks = tested ∧
        (∀ b ∈ tested, let w := 64 * region + x.cycle
          t.bankRaw d b w = s.bankRaw d b w ∧
          t.bankMarkOf d b w = (if (s.bankMarkOf d b w).poison = false ∧ popCount 72 (s.bankMarkOf d b w).flips = 1
            then WordMark.clean else s.bankMarkOf d b w)) ∧
        OnlyRegs s t [Csr.bankEccCnt d] ∧ t = { s with csr := t.csr, bt := t.bt, bankMark := t.bankMark }) ∧
      (64 ≤ x.cycle → x.cycle < 767 → (x.cycle < 704 → ∀ b ∈ bad, b.val ∉ tested) → Completes (.btTestCycle d bad) s fun t =>
        (t.btSt d).cycle = x.cycle + 1 ∧ t = { s with bt := t.bt }) ∧
      (∀ b : Bank, tested = [b.val] → b ∈ bad → x.failed = [] → 64 ≤ x.cycle → x.cycle < 704 →
        (marchAt (x.cycle - 64)).2.2 = true → (s.waiting d).length < 64 →
        let el := (marchAt (x.cycle - 64)).1
        let w := (marchAt (x.cycle - 64)).2.1
        Completes (.btTestCycle d bad) s fun t =>
          t.fget (Csr.bankBtCnt d) BankBtCnt.fails =
            min (s.fget (Csr.bankBtCnt d) BankBtCnt.fails + 1) (2 ^ BankBtCnt.fails.width - 1) ∧
          (t.btSt d).cycle = x.cycle + 1 ∧ (t.btSt d).failed = [b.val] ∧
          t.waiting d = s.waiting d ++ [s.item d 0x0402 [(1, d), (1, b), (1, region), (1, w), (1, el)]] ∧
          (s.fget (Csr.bankBtLog d) BankBtLog.valid = 0 → t.fget (Csr.bankBtLog d) BankBtLog.bank = b ∧
            t.fget (Csr.bankBtLog d) BankBtLog.region = region ∧ t.fget (Csr.bankBtLog d) BankBtLog.valid = 1) ∧
          OnlyRegs s t [Csr.bankBtCnt d, Csr.bankBtLog d] ∧ t = { s with csr := t.csr, bt := t.bt, queues := t.queues }) ∧
      (x.cycle = 767 → Completes (.btTestCycle d bad) s fun t =>
        t.fget (Csr.bankSts d) BankSts.region = (region + 1) % 256 ∧ (t.btSt d).cycle = 0 ∧ (t.btSt d).failed = [] ∧
        t.fget (Csr.bankBtCnt d) BankBtCnt.passes = (if region = 255
          then min (s.fget (Csr.bankBtCnt d) BankBtCnt.passes + 1) (2 ^ BankBtCnt.passes.width - 1)
          else s.fget (Csr.bankBtCnt d) BankBtCnt.passes) ∧
        OnlyRegs s t [Csr.bankSts d, Csr.bankBtCnt d] ∧ t = { s with csr := t.csr, bt := t.bt }))

/-- R252 to R260: the steps of a BANK cycle of a ditch come in the order of R254: a command whose step the cycle has passed
begins the next, after the comparison of the level with the weirs, whose changes set their flags and count, and with the
exchange of the banks. A push appends to the filling bank, and to a full one in place of its oldest item, counted in LOST; a pop
takes the first item of the lowest priority number of the draining bank, or the idle item, and never waits; a flush empties both
banks; new weirs re-evaluate the conditions without an edge. The commands of one BANK cycle are log entry 109. -/
def Obligations.DitchQueues : Prop :=
  ∀ (d : Die) (q : Ditch) (s : State),
    let flags := Csr.dqFlags d q
    let count := Csr.dqErrCnt d q
    let level (t : State) : Nat := (t.ditch d q).bank0.length + (t.ditch d q).bank1.length
    let now := s.ditch d q
    let kept (t : State) : Prop := (t.ditch d q).bank0 = now.bank0 ∧ (t.ditch d q).bank1 = now.bank1 ∧ (t.ditch d q).drain1 = now.drain1
    let high := decide (s.fget (Csr.dqWeir d q) DqWeir.high < level s)
    let low := decide (level s < s.fget (Csr.dqWeir d q) DqWeir.low)
    let edge (n : Nat) : Bool := match n with
      | 0 => high && !now.above | 1 => !high && now.above | 2 => low && !now.below | _ => !low && now.below
    let same (n : Nat) : Prop := 0 < now.step ∧ now.step < n
    let u (n : Nat) : State := if same n then s else s.ditchEnd d q
    let x (n : Nat) : DitchSt := if same n then now else now.exchange
    let lost := s.fget (Csr.dqCnt d q) DqCnt.lost
    let pushed (t : State) (n : Nat) (i : DitchItem) : Prop :=
      ((x n).fill.length < 512 → (t.ditch d q).fill = (x n).fill ++ [⟨i, laneParity i.data⟩] ∧
        t.fget (Csr.dqCnt d q) DqCnt.lost = lost) ∧
      (512 ≤ (x n).fill.length → (t.ditch d q).fill = (x n).fill.drop 1 ++ [⟨i, laneParity i.data⟩] ∧
        t.fget (Csr.dqCnt d q) DqCnt.lost = min (lost + 1) (2 ^ DqCnt.lost.width - 1)) ∧
      (t.ditch d q).drain = (x n).drain ∧ (t.ditch d q).step = n ∧
      OnlyRegs (u n) t [Csr.dqCnt d q, Csr.ndQdropCnt (queueOf d)]
    let fabKey := fabInKey d (0x200 + q.val)
    let border := s.portOpen d (q.val / 4) = true
    (now.step ≠ 0 → let t := s.ditchEnd d q
      kept t ∧ (t.ditch d q).step = 0 ∧ (t.ditch d q).above = high ∧ (t.ditch d q).below = low ∧
      (∀ n < 4, bitOf (t.fget flags DqFlags.crossed) n = (edge n || bitOf (s.fget flags DqFlags.crossed) n)) ∧
      t.fget count DqErrCnt.crossings = min (s.fget count DqErrCnt.crossings + ((List.range 4).filter edge).length)
        (2 ^ DqErrCnt.crossings.width - 1) ∧
      OnlyRegs s t [flags, count, Csr.ndQdropCnt (queueOf d)] ∧
      t = { s with csr := t.csr, ditches := t.ditches, queues := t.queues }) ∧
    (now.step = 0 → s.ditchEnd d q = s) ∧
    (s.pending = [] → d.val < s.part.dies → s.clockOn d = true → (s.ticks + 1) * 3 / 4 ≠ s.ticks * 3 / 4 →
      ∃ t, step s = .next t ∧ kept t ∧ (t.ditch d q).step = 0 ∧
        (now.step ≠ 0 → (t.ditch d q).above = high ∧ (t.ditch d q).below = low)) ∧
    (∀ i : DitchItem, border → s.writesEnabled d (q.val / 4) = true → Completes (.ditchFabricPush d q i) s fun t =>
      pushed t 4 i ∧ t = { u 4 with csr := t.csr, ditches := t.ditches, queues := t.queues, windows := t.windows }) ∧
    (∀ (e : Eng) (p : Push) (rest : List Push), s.sluiceOpen d = true → s.nextPusher d q = some (e.val, p.item) → p.q = q.val →
      (s.eng d e).pushes = p :: rest → Completes (.ditchEnginePush d q) s fun t =>
        pushed t 5 p.item ∧ t.eng d e = { s.eng d e with pushes := rest } ∧
        SMap.get 0 t.ditchRr (dqKey d q) = (e.val + 1) % 64 ∧
        t = { u 5 with csr := t.csr, ditches := t.ditches, queues := t.queues, windows := t.windows, engs := t.engs,
                       ditchRr := t.ditchRr }) ∧
    (∀ i : DItem, border → bestItem (x 2).drain = some i →
      Completes (.ditchFabricPop d q) s fun t =>
        let bad := i.item.poison || laneParity i.item.data != i.parity
        (∀ j ∈ (x 2).drain, i.item.prio ≤ j.item.prio) ∧ (t.ditch d q).drain = dropItem i (x 2).drain ∧
        (t.ditch d q).fill = (x 2).fill ∧ (t.ditch d q).step = 2 ∧
        t.outbox = s.outbox ++
          [.fabric d (0x200 + q.val) ((BitVec.ofNat 3 i.item.prio.val ++ i.item.data).setWidth 256) bad false] ∧
        SMap.get [] t.fabIn fabKey = SMap.get [] s.fabIn fabKey ++
          [⟨wordsOf 4 i.item.data.toNat ++ [BitVec.ofNat 16 i.item.prio.val], bad, false⟩] ∧
        t.fget count DqErrCnt.parity = (if laneParity i.item.data = i.parity then s.fget count DqErrCnt.parity
          else min (s.fget count DqErrCnt.parity + 1) (2 ^ DqErrCnt.parity.width - 1)) ∧
        OnlyRegs (u 2) t [count, Csr.ndQdropCnt (queueOf d)] ∧
        t = { u 2 with csr := t.csr, ditches := t.ditches, queues := t.queues, windows := t.windows, outbox := t.outbox,
                       fabIn := t.fabIn }) ∧
    (border → (x 2).drain = [] → Completes (.ditchFabricPop d q) s fun t =>
      let idle := s.csrGet (Csr.dqIdleHi d q) ++ s.csrGet (Csr.dqIdleLo d q)
      (t.ditch d q).drain = [] ∧ (t.ditch d q).fill = (x 2).fill ∧ (t.ditch d q).step = 2 ∧
      t.outbox = s.outbox ++ [.fabric d (0x200 + q.val) ((BitVec.ofNat 3 7 ++ idle).setWidth 256) false true] ∧
      SMap.get [] t.fabIn fabKey = SMap.get [] s.fabIn fabKey ++ [⟨wordsOf 4 idle.toNat ++ [7], false, true⟩] ∧
      t = { u 2 with ditches := t.ditches, outbox := t.outbox, fabIn := t.fabIn }) ∧
    (s.dieOn d = true →
      (Completes (.ditchFlush d q) s fun t => level t = 0 ∧ (t.ditch d q).step = 1 ∧ t = { u 1 with ditches := t.ditches }) ∧
      (∀ v : Word, Completes (.dqWeirWrite d q v) s fun t =>
        t.fget (Csr.dqWeir d q) DqWeir.high = DqWeir.high.get v ∧ t.fget (Csr.dqWeir d q) DqWeir.low = DqWeir.low.get v ∧
        kept t ∧ (t.ditch d q).step = now.step ∧
        (t.ditch d q).above = decide (DqWeir.high.get v < level s) ∧ (t.ditch d q).below = decide (level s < DqWeir.low.get v) ∧
        OnlyRegs s t [Csr.dqWeir d q] ∧ t = { s with csr := t.csr, ditches := t.ditches }))

/-- R9, R267 to R272, R280: the records and sections of a load, which are those the image holds next. A record that starts at
the next frame of its reach, stays between the reach's offsets, and whose check holds writes its frames into the shadow plane,
ZERO and FILL one content, LITERAL its groups, REPEAT copies of earlier frames; a wrong check, or a record that does not stand
there, writes nothing and is kept as the load's fault. A section whose CRC and rules hold joins what the load stages; a fault of
it is kept too. How rows stand beside an image's bytes, and the status of a section, are log entries 111, 112. -/
def Obligations.LoadRecordsAndSections : Prop :=
  ∀ (d : Die) (l : Load) (s : State), s.load = some l → l.bad = none →
    let rd := s.loadRd l
    (∀ (rec : Word) (sec : Section),
      let n := l.next.getD d 0
      let r := n / 1280
      let f := n % 1280
      let k := rec.toNat / 2 ^ 17 + 1
      let plane := 1 - s.plane d r
      let place := if f = 0 then reachAt rd sec r else l.recAt.getD d 0
      let size := match rec.toNat % 4 with | 0 => 4 + 260 * k | 2 => 8 | _ => 12
      s.covers l d = true → (∀ j ∈ s.jobs, j.die ≠ d) → n < 20480 → framesOf rd d = some sec → wordIn rd place = rec →
      l.arrived (place + size) = true →
      let stands : Prop := rec.toNat / 4 % 32768 = r * 2048 + f ∧ f + k ≤ 1280 ∧ place + size ≤ reachEnd rd sec r
      let l' : Load := { l with recAt := l.recAt.set d (place + size) }
      let wrote (t : State) (content : Nat → List (BitVec 8)) : Prop :=
        (∀ i < k, t.frame plane d r (f + i) = content i) ∧
        (∀ p' < 2, ∀ d' < 8, ∀ r' < 16, ∀ g < 1280, ¬ (p' = plane ∧ d' = d.val ∧ r' = r ∧ f ≤ g ∧ g < f + k) →
          t.frame p' d' r' g = s.frame p' d' r' g) ∧
        t.load = some { l' with next := l.next.set d (n + k) } ∧
        t = { s with frames := t.frames, frameBad := t.frameBad, load := t.load }
      let failed (t : State) (st : Nat) : Prop :=
        t.load = some { l' with next := l.next.set d n, bad := some (st, d, r * 2048 + f) } ∧ t = { s with load := t.load }
      let misplaced (t : State) : Prop :=
        t.load = some { l with bad := some (St.badArgument, d, r * 2048 + f) } ∧ t = { s with load := t.load }
      (∀ crc : Word, rec.toNat % 4 = 2 →
        (stands → bodyIn rd place rec = .zero crc →
          (crc.toNat = crc32c (leNats 4 rec.toNat) → Completes (.zeroRecord d rec crc) s fun t =>
            wrote t (fun _ => List.replicate 256 0)) ∧
          (crc.toNat ≠ crc32c (leNats 4 rec.toNat) → Completes (.zeroRecord d rec crc) s fun t => failed t St.integrityFail)) ∧
        (¬ stands → Completes (.zeroRecord d rec crc) s misplaced)) ∧
      (∀ pattern crc : Word, rec.toNat % 4 = 3 →
        (stands → bodyIn rd place rec = .fill pattern crc →
          (crc.toNat = crc32c (leNats 4 rec.toNat ++ leNats 4 pattern.toNat) → Completes (.fillRecord d rec pattern crc) s fun t =>
            wrote t (fun _ => wordBytes (List.replicate 64 pattern))) ∧
          (crc.toNat ≠ crc32c (leNats 4 rec.toNat ++ leNats 4 pattern.toNat) →
            Completes (.fillRecord d rec pattern crc) s fun t => failed t St.integrityFail)) ∧
        (¬ stands → Completes (.fillRecord d rec pattern crc) s misplaced)) ∧
      (∀ src crc : Word, rec.toNat % 4 = 1 →
        (stands → bodyIn rd place rec = .rep src crc →
          let a := src.toNat % 2048
          let ok : Prop := crc.toNat = crc32c (leNats 4 rec.toNat ++ leNats 4 src.toNat)
          (ok → src.toNat % 32768 / 2048 = r → a < f → Completes (.repeatRecord d rec src crc) s fun t =>
            wrote t (fun i => (if a + i < f then s else t).frame plane d r (a + i))) ∧
          (ok → (src.toNat % 32768 / 2048 ≠ r ∨ f ≤ a) → Completes (.repeatRecord d rec src crc) s fun t => failed t St.badArgument) ∧
          (¬ ok → Completes (.repeatRecord d rec src crc) s fun t => failed t St.integrityFail)) ∧
        (¬ stands → Completes (.repeatRecord d rec src crc) s misplaced)) ∧
      (∀ groups : List (List Word × Word), rec.toNat % 4 = 0 →
        (stands → bodyIn rd place rec = .lit groups →
          (∀ i < k, (groups.getD i ([], 0)).2.toNat = groupCrc d r (f + i) (groups.getD i ([], 0)).1) →
          Completes (.literal d rec groups) s fun t => wrote t (fun i => wordBytes (groups.getD i ([], 0)).1)) ∧
        (¬ stands → Completes (.literal d rec groups) s misplaced))) ∧
    (∀ (c : Instr) (x : Section) (body : SecBody) (good : Prop) (l' : Load),
      ((∃ mask first words crc, c = .handlersSection d mask first words crc ∧ crc.toNat = x.crc ∧ body = .handlers d mask.toNat first words ∧
          (good ↔ d.val < s.part.dies ∧ x.len = 12 + 4 * words.length ∧ first + words.length ≤ 4096) ∧
          l' = { l with handlers := l.handlers ++ [(d.val, mask.toNat, first, words)] }) ∨
        (∃ (pairs : List (Word × Word)) (crc : Word), c = .reginitSection pairs crc ∧ crc.toNat = x.crc ∧ body = .reginit pairs ∧
          (good ↔ x.die = 0xFF ∧ x.len % 8 = 0 ∧ ∀ p ∈ pairs, s.reginitOk p.1.toNat = true) ∧
          l' = { l with reginit := l.reginit ++ pairs.map (fun p => (BitVec.ofNat 32 (p.1.toNat / 4 * 4), p.2)) }) ∨
        (∃ addr words crc, c = .bankinitSection addr words crc ∧ crc.toNat = x.crc ∧ body = .bankinit addr words ∧
          (good ↔ x.die = 0xFF ∧ x.len = 8 + 8 * words.length ∧ s.bankRunOk addr.toNat words.length = true) ∧
          l' = { l with bankinit := l.bankinit ++ [(addr, words)] })) →
      (otherSections rd)[l.secs]? = some x → secIn rd x = body → l.arrived (x.off + x.len) = true →
      let failed (t : State) (q : Load) (st : Nat) : Prop :=
        (∃ a b, t.load = some { q with bad := some (st, a, b) }) ∧ t = { s with load := t.load, draws := s.draws + 2 }
      let crcOk : Prop := crc32c (bytesAt rd x.off x.len) = x.crc
      let keeps : Prop := x.resv = 0 ∧ good
      let q := { l' with secs := l.secs + 1, staged := l.staged + x.len }
      (crcOk → keeps → (l.kind = .host → l.staged + x.len ≤ 393216) → Completes c s fun t =>
        t.load = some q ∧ t = { s with load := t.load }) ∧
      (crcOk → keeps → l.kind = .host → 393216 < l.staged + x.len → Completes c s fun t => failed t q St.badArgument) ∧
      (¬ crcOk → Completes c s fun t => failed t { l with secs := l.secs + 1 } St.integrityFail) ∧
      (crcOk → ¬ keeps → Completes c s fun t => failed t { l with secs := l.secs + 1 } St.badArgument))

/-- R270, R277, R278, R281, Table 08-10: a load ends when its whole image has been taken; it is good when no record or section
of it was at fault, every frame came, its CMAC or signature and its sections' CRCs hold, and its structure is valid. A good
start load takes effect: every plane of the powered dies flips, bank clears end, handler words reach their engines, the other
words of the stores being 0, the version shows, and release step 1 ends the pin hold. Cycle 64 activates the write enables;
cycle 128 deasserts the resets, opens the headgates and dispatch, and LOAD_DONE is raised. R286 to R289 (03 R149, R150): the
steps of a live swap. A verified background load has its engines updated one at a time, the first that is to change parked until
it is idle, then its store and registers written; without any left it is READY, its shadow copies loaded and its flip-applied
writes waiting; the drain closes dispatch, headgates, sluices and reaches of every powered die; a drain that is late resumes
them and the swap is abandoned; the flip exchanges the planes, takes the new image and begins the release. What a swap keeps,
verification and engine updates are log entries 54, 111, 113. -/
def Obligations.LoadEndAndLiveSwap : Prop :=
  (
  ∀ s : State,
    let on (d : Nat) : Prop := d < s.part.dies ∧ s.dieOn d = true
    (∀ l : Load, s.load = some l → s.tapHeld = false →
      let rd := s.loadRd l
      let u := s.takeRest
      let read := u.imageRead l.source
      ((l.bad.isSome = true ∨ (∀ d, s.covers l d = true → 20480 ≤ l.next.getD d 0) ∧ (otherSections rd).length ≤ l.secs) → u = s) ∧
      ((∀ st a b, l.bad = some (st, a, b) → st ≠ St.ok) → ((s.loadVerdict l).1 = St.ok ↔ l.bad = none ∧ (∀ d < s.part.dies, s.covers l d = true → l.next.getD d 0 = 20480) ∧
        (l.source ≤ 2 → s.slotUnread (l.source - 1) = false ∧ s.macMatches (l.source - 1) = true) ∧
        (3 ≤ l.source → s.signatureValid rd = true) ∧ (∀ x ∈ sectionsOf rd, crc32c (bytesAt rd x.off x.len) = x.crc) ∧
        s.structureValid rd = true ∧ lvdsAdmits rd = true)) ∧
      (∀ source : Fin 8, l.source ≠ source → Completes (.imageLoadComplete source) s fun t => t = s) ∧
      (l.kind = .start → ∀ (source : Fin 8) (m : Load), l.source = source → u.load = some m → m.source ≤ 2 →
        (read.loadVerdict m).1 = St.ok → m.reginit = [] → m.bankinit = [] → m.kind = l.kind → m.source = l.source →
        Completes (.imageLoadComplete source) s fun t =>
        t.load = none ∧ t.image = m.hdr ∧ t.source = m.source ∧
        t.releases = read.releases.filter (fun r => r.scope ≠ .all) ++ [{ scope := .all, step := 1, why := .load, skip := [] }] ∧
        (∀ d, on d →
          (∀ r < 16, t.plane d r = 1 - read.plane d r) ∧
          (∀ r < 16, t.gated d r = false → t.isolated d r = false) ∧
          (∀ b < 48, t.bankClearing d b = false) ∧
          t.csrGet (Csr.cfgVer d) = BitVec.ofNat 32 (imgVersion (listRd m.hdr)) ∧
          t.fget (Csr.cfgSts d) CfgSts.shadow = 3) ∧
        (∀ (mask first : Nat) (ws : List Word) (d : Die) (e : Eng), m.handlers = [(d.val, mask, first, ws)] → on d →
          first + ws.length ≤ 4096 → bitOf mask e = true → ∀ i < 4096,
            t.storeWord d e i = if first ≤ i ∧ i < first + ws.length then ws.getD (i - first) 0 else 0))) ∧
    (∀ (sc : Scope) (r : Release), s.releaseOf sc = some r → s.tapHeld = false →
      let acts (d x : Nat) : Prop := (d, x) ∈ s.relReaches r
      (r.step = 1 → Completes (.releaseWriteEnables sc) s fun t =>
        (∀ d x, acts d x → t.writesEnabled d x = true) ∧
        (∀ d, (∀ x, ¬ acts d x) → SMap.get 0 t.writesOn d = SMap.get 0 s.writesOn d) ∧
        t.releases = s.releases.map (fun q => if q.scope = sc then { q with step := 2 } else q) ∧
        t = { s with writesOn := t.writesOn, releases := t.releases }) ∧
      (r.step = 0 → Completes (.releaseWriteEnables sc) s fun t =>
        ∀ d x, acts d x → t.writesEnabled d x = true ∧ t.isolated d x = false)) ∧
    (∀ r : Release, s.releaseOf .all = some r → r.step = 2 → s.tapHeld = false → r.why = .load → s.waitsFor .load = false →
      (∃ d, d ∈ s.relDies r) → (s.waiting stw).length < 64 → Completes (.releaseResetsDeassert .all) s fun t =>
        (∀ d ∈ s.relDies r, t.released d = true ∧ t.fget (Csr.cfgSts d) CfgSts.swap = 0 ∧
          t.fbit (Csr.schCtrl d) SchCtrl.dispEn = true ∧ t.fget (Csr.sluSts d) SluSts.held = 0 ∧
          SMap.get false t.gatesPass d = true) ∧
        (∀ d x, (d, x) ∈ s.relReaches r → t.inReset d x = false ∧ ∀ col < 48, ∀ row < 32, t.cell d x col row = Cell.reset) ∧
        (∀ q ∈ t.releases, q.scope ≠ .all) ∧ t.fget Csr.pwrSts PwrSts.state = 2 ∧
        t.waiting stw = s.waiting stw ++
          [s.item stw 0x0501 [(1, s.source), (4, imgVersion (listRd s.image)), (4, (s.refMs - s.pwr.lastStart) / 1000)]]) ∧
    (∀ (d : Die) (x : Reach) (r : Release), s.releaseOf (.reach d x) = some r → r.step = 2 → s.tapHeld = false → r.why = .wake →
      s.dieOn d = true → s.gated d x = false → s.pwr.wake = none → Completes (.releaseResetsDeassert (.reach d x)) s fun t =>
        t.inReset d x = false ∧ (∀ col < 48, ∀ row < 32, t.cell d x col row = Cell.reset) ∧
        (∀ q ∈ t.releases, q.scope ≠ .reach d x) ∧ t.engs = s.engs ∧ t.frames = s.frames ∧ t.planes = s.planes)) ∧
  (
  ∀ (w : SwapSt) (s : State), s.swap = some w →
    let on (d : Nat) : Prop := d < 8 ∧ s.dieOn d = true
    (∀ source : Fin 8, w.source ≠ source → Completes (.liveSwapVerified source) s fun t => t = s) ∧
    (∀ (l : Load) (source : Fin 8), w.phase = .background → w.source = source →
      let u := if w.source = 4 then s else s.takeRest.imageRead w.source
      let changed := u.allEngines.filter (fun x => u.engChanges l x.1 x.2)
      u.swapLoad w = some l → (w.source = 4 ∨ (u.loadVerdict l).1 = St.ok) →
      (changed = [] → (∀ p ∈ l.reginit, swapClass p.1.toNat ≠ 1) → Completes (.liveSwapVerified source) s fun t =>
        t.swap = some { w with phase := .verified, todo := [] } ∧ t.hostImage = some l ∧ (w.source ≠ 4 → t.load = none) ∧
        (w.source = 4 → t.load = s.load) ∧
        (∀ d < s.part.dies, t.fget (Csr.cfgSts d) CfgSts.shadow = 2) ∧
        t.shadowCsr = (finalRegs l.reginit).filter (fun p => swapClass p.1 == 0) ∧
        t.flipList = l.reginit.filter (fun p => swapClass p.1.toNat == 3) ∧
        OnlyRegs u t ((List.range s.part.dies).map (fun d => Csr.cfgSts d)) ∧
        t = { u with csr := t.csr, load := t.load, hostImage := t.hostImage, shadowCsr := t.shadowCsr, flipList := t.flipList,
                     swap := t.swap }) ∧
      (∀ x rest, changed = x :: rest → ((u.eng x.1 x.2).running = true ∨ (u.eng x.1 x.2).fences ≠ []) → u.dieOn x.1 = true →
        Completes (.liveSwapVerified source) s fun t =>
        t.swap = some { w with phase := .updating, todo := x :: rest } ∧ t.fget (Csr.engCtrl x.1 x.2) EngCtrl.park = 1 ∧
        OnlyRegs u t [Csr.engCtrl x.1 x.2] ∧ t = { u with csr := t.csr, swap := t.swap })) ∧
    (∀ (l : Load) (d : Die) (e : Eng), w.phase = .updating → w.todo = [(d.val, e.val)] → s.swapLoad w = some l → s.dieOn d = true →
      (s.eng d e).running = false → (s.eng d e).fences = [] → (∀ x ∈ l.handlers, x.2.2.1 + x.2.2.2.length ≤ 4096) →
      (∀ p ∈ l.reginit, swapClass p.1.toNat = 1 → p.1.toNat = Csr.engCtrl d e ∨ p.1.toNat = Csr.engSpill d e) → let t := s.swapStep
      t.swap = some { w with phase := .verified, todo := [] } ∧
      t.fbit (Csr.engCtrl d e) EngCtrl.park = (match SMap.find (engEntries l.reginit d e) (Csr.engCtrl d e) with
        | some v => EngCtrl.park.bit v | none => false) ∧
      (∀ i < 4096, t.storeWord d e i = SMap.get 0 (newStore l.handlers d e) (storeKey d e i)) ∧
      (∀ k, k / 4096 ≠ d.val * 64 + e.val → SMap.get 0 t.store k = SMap.get 0 s.store k)) ∧
    (w.phase = .verified → Completes .swapDrainStart s fun t =>
      t.swap = some { w with phase := .drain } ∧
      (∀ d, on d → t.fget (Csr.schCtrl d) SchCtrl.dispEn = 0 ∧ t.fget (Csr.sluSts d) SluSts.held = 1 ∧
        SMap.get false t.gatesPass d = false ∧ (∀ r < 16, t.isolated d r = true) ∧
        (∀ x, SMap.find s.rewrite d = some x → x.reach < 16 → SMap.find t.rewrite d = none ∧
          t.fget (Csr.fabIrwSts d) FabIrwSts.status = St.aborted)) ∧
      t = { s with csr := t.csr, swap := t.swap, gatesPass := t.gatesPass, rewrite := t.rewrite, border := t.border,
                   fabIn := t.fabIn, chanQ := t.chanQ }) ∧
    (∀ d : Die, w.phase = .drain → s.cmds.find? (·.hdr == w.cmd) = none → (s.waiting stw).length < 64 →
      Completes (.swapDrainTimeout d) s fun t =>
        t.swap = none ∧ t.shadowCsr = [] ∧ t.flipList = [] ∧
        (∀ x, on x → t.fget (Csr.sluSts x) SluSts.held = 0 ∧
          (∀ r < 16, s.gated x r = false → s.inReset x r = false → t.isolated x r = false) ∧
          (s.released x = true → t.fbit (Csr.schCtrl x) SchCtrl.dispEn = true ∧ SMap.get false t.gatesPass x = true)) ∧
        (∀ x < s.part.dies, t.fget (Csr.cfgSts x) CfgSts.shadow = 3 ∧ t.fget (Csr.cfgSts x) CfgSts.swap = 0) ∧
        t.waiting stw = s.waiting stw ++ [s.item stw 0x0505 [(1, St.timeout), (1, d)]] ∧ t.planes = s.planes ∧
        t.engs = s.engs) ∧
    (∀ (pause : Nat) (l : Load), w.phase = .drain → s.hostImage = some l → s.shadowCsr = [] → s.flipList = [] →
      (∀ x ∈ s.allEngines, (s.eng x.1 x.2).running = false) → Completes (.swapFlip pause) s fun t =>
        t.swap = some { w with phase := .release, pause := pause } ∧ t.image = l.hdr ∧ t.hostImage = none ∧
        t.source = w.source % 8 ∧
        (∀ d, on d → d < s.part.dies → (∀ r < 16, t.plane d r = 1 - s.plane d r) ∧
          t.csrGet (Csr.cfgVer d) = BitVec.ofNat 32 (imgVersion (listRd l.hdr)) ∧
          (∀ r < 16, s.gated d r = false → t.inReset d r = true ∧ t.writesEnabled d r = false ∧
            ∀ col < 48, ∀ row < 32, t.cell d r col row = Cell.reset)) ∧
        t.releases = s.releases.filter (fun q => q.scope ≠ .all) ++ [{ scope := .all, step := 1, why := .swap, skip := [] }] ∧
        t.engs = s.engs ∧ t.bankMem = s.bankMem ∧ t.ditches = s.ditches))

/-- R237, R283 to R285, R290, R292, R293: GO of a patch is refused with its status and changes nothing, or the job begins and
asks the bank DMA for the patch's words; a reload that has its frames, or a patch that decodes, isolates its reach for the swap,
a failed one is reported; the drain's end flips the planes of the reach, holds it in reset and begins its release. The scrubber
corrects a single-bit error and counts it, while the cells still execute what their latches hold, logs and reports an
uncorrectable frame, and skips a held reach. Statuses of two reasons, and what the scrubber skips, are log entries 45, 59, 70,
115. -/
def Obligations.PatchReachSwapAndScrub : Prop :=
  ∀ (d : Die) (r : Reach) (s : State),
    let sts := Csr.fabPatchSts d
    let src := Csr.fabPatchSrc d
    let first := s.fget src FabPatchSrc.bank * 16384 + s.fget src FabPatchSrc.word
    let len := s.fget (Csr.fabPatchLen d) FabPatchLen.len / 4 * 4
    let lockedOut : Prop := (∃ j ∈ s.jobs, j.die = d) ∨ s.swap.isSome = true ∨ ∃ w, SMap.find s.rewrite d = some w ∧ w.reach = r
    let loading : Prop := ∃ l, s.load = some l ∧ l.kind ≠ .host ∧ s.covers l d = true
    (s.dieOn d = true →
      let rejected (st : Nat) : Prop := Completes (.fabPatchGo d r) s fun t =>
        t.fget sts FabPatchSts.status = st ∧ OnlyRegs s t [sts, Csr.fabPatchCtrl d] ∧ t = { s with csr := t.csr }
      (s.patchable d r = false → rejected St.refused) ∧
      (s.patchable d r = true → lockedOut ∨ loading → rejected St.busy) ∧
      (s.patchable d r = true → ¬ lockedOut → ¬ loading → (len = 0 ∨ 48 * 131072 < 8 * first + len) → rejected St.badArgument) ∧
      (s.patchable d r = true → ¬ lockedOut → ¬ loading → len ≠ 0 → 8 * first + len ≤ 48 * 131072 → Completes (.fabPatchGo d r) s fun t =>
        let n := (len + 7) / 8
        t.jobs = s.jobs ++
          [{ die := d, reach := r, kind := .patch, swapping := false, next := len / 4, recAt := 0, bad := none, got := [] }] ∧
        (∀ b < 48, SMap.get [] t.bankQ (bankQKey d b 2) = SMap.get [] s.bankQ (bankQKey d b 2) ++
          ((List.range n).filter (fun i => (first + i) / 16384 == b)).map (fun i =>
            ⟨s.serial + i, .patch r i, stw, 0, (first + i) % 16384, none, .read⟩)) ∧ t.serial = s.serial + n ∧
        t.fget sts FabPatchSts.busy = 1 ∧ t.fget (Csr.cfgSts d) CfgSts.shadow = 1 ∧
        OnlyRegs s t [sts, Csr.fabPatchCtrl d, Csr.cfgSts d] ∧
        t = { s with csr := t.csr, jobs := t.jobs, bankQ := t.bankQ, serial := t.serial })) ∧
    (∀ (j : ReachJob) (by_ : Option CmdHdr), s.jobOf d r = some j → j.kind = .reload by_ → j.swapping = false → s.swap = none →
      (j.bad = none → j.next = 1280 → SMap.find s.rewrite d = none → Completes (.shadowBuildDone d r) s fun t =>
        let u := s.reloadRead d r
        t.isolated d r = true ∧ t.fget (Csr.cfgSts d) CfgSts.swap = 1 ∧ (∃ j', t.jobOf d r = some j' ∧ j'.swapping = true) ∧
        (∀ q ∈ t.fabIn, q.1 / 4096 ≠ d ∨ portReach (q.1 % 4096) ≠ r) ∧
        OnlyRegs u t [Csr.cfgReachSts d, Csr.cfgSts d, Csr.cfgDiscardCnt d] ∧
        t = { u with csr := t.csr, jobs := t.jobs, border := t.border, fabIn := t.fabIn, chanQ := t.chanQ }) ∧
      (∀ st f, j.bad = some (st, f) → by_ = none → s.pwr.wake = none → (s.waiting d).length < 64 →
        Completes (.shadowBuildDone d r) s fun t =>
          t.jobOf d r = none ∧ t.waiting d = s.waiting d ++ [s.item d 0x0507 [(1, d), (1, r), (1, st)]] ∧
          t.fget (Csr.cfgSts d) CfgSts.shadow = 3 ∧ OnlyRegs s t [Csr.cfgSts d] ∧ t.frames = s.frames ∧ t.planes = s.planes)) ∧
    (∀ j : ReachJob, s.jobOf d r = some j → j.kind = .patch → j.swapping = false →
      let q := s.buildPatch d r 0 j.next (patchWords j.got j.next)
      (j.got.length < (j.next + 1) / 2 → Completes (.shadowBuildDone d r) s fun t => t = s) ∧
      ((j.next + 1) / 2 ≤ j.got.length → q.bad = none → Completes (.shadowBuildDone d r) s fun t =>
        t.isolated d r = true ∧ t.fget (Csr.cfgSts d) CfgSts.swap = 1 ∧ (∃ j', t.jobOf d r = some j' ∧ j'.swapping = true) ∧
        t.frames = q.st.frames ∧ t.planes = s.planes ∧ t.cells = s.cells) ∧
      (∀ st f, (j.next + 1) / 2 ≤ j.got.length → q.bad = some (st, f) → (s.waiting d).length < 64 →
        Completes (.shadowBuildDone d r) s fun t =>
          t.jobOf d r = none ∧ t.waiting d = s.waiting d ++ [s.item d 0x0509 [(1, d), (1, r), (2, f), (1, st)]] ∧
          t.fget sts FabPatchSts.status = st % 2 ^ FabPatchSts.status.width ∧ t.fget sts FabPatchSts.busy = 0 ∧
          t.fget sts FabPatchSts.frame = f % 2 ^ FabPatchSts.frame.width ∧
          t.fget (Csr.cfgSts d) CfgSts.shadow = 3 ∧ OnlyRegs s t [sts, Csr.cfgSts d] ∧ t.planes = s.planes)) ∧
    (∀ j : ReachJob, s.jobOf d r = some j → j.swapping = true → s.releaseOf (.reach d r) = none → Completes (.reachDrainEnd d r) s fun t =>
      t.plane d r = 1 - s.plane d r ∧ (∀ d' r', (d' * 16 + r' ≠ d.val * 16 + r.val) → t.plane d' r' = s.plane d' r') ∧
      t.inReset d r = true ∧ t.writesEnabled d r = false ∧ (∀ col < 48, ∀ row < 32, t.cell d r col row = Cell.reset) ∧
      t.fget (Csr.cfgSts d) CfgSts.shadow = 3 ∧
      (∃ n, t.releases = s.releases.filter (fun q => q.scope ≠ .reach d r) ++
        [{ scope := .reach d r, step := 1, why := .job (133 + n), skip := [] }]) ∧ t.frames = s.frames) ∧
    (∀ i : Nat, s.dieOn d = true → s.fget (Csr.cfgScrubSts d) CfgScrubSts.frame = i → i % 2048 < 1279 → i ≠ 0 →
      s.fbit (Csr.cfgScrubCtrl d) CfgScrubCtrl.en = true →
      let x := i / 2048
      let f := i % 2048
      let place := frameNo (s.plane d x) d x f
      let bad := SMap.get [] s.frameBad place
      let at_ (t : State) : Prop := t.fget (Csr.cfgScrubSts d) CfgScrubSts.frame = i + 1
      let cnt := Csr.cfgScrubCnt d
      let log := Csr.cfgScrubLog d
      (s.scrubSkipsReach d x = true → ∀ upset, Completes (.scrubFrame d upset) s fun t =>
        at_ t ∧ OnlyRegs s t [Csr.cfgScrubSts d] ∧ t = { s with csr := t.csr, scrubSkips := t.scrubSkips }) ∧
      (s.scrubSkipsReach d x = false → bad = [] → Completes (.scrubFrame d []) s fun t =>
        at_ t ∧ OnlyRegs s t [Csr.cfgScrubSts d] ∧ t = { s with csr := t.csr, scrubSkips := t.scrubSkips }) ∧
      (s.scrubSkipsReach d x = false → ∀ b < 2064, bad = [b] → Completes (.scrubFrame d []) s fun t =>
        at_ t ∧ SMap.get [] t.frameBad place = [] ∧
        (∀ y < 256, (t.frame (s.plane d x) d x f).getD y 0 = (s.frame (s.plane d x) d x f).getD y 0 ^^^
          (if y = b / 8 then BitVec.ofNat 8 (2 ^ (b % 8)) else 0)) ∧
        (∀ col < 48, ∀ row < 32, ∀ k < 8, t.cellEntry d x col row k = s.cellEntry d x col row k) ∧
        t.fget cnt CfgScrubCnt.corr = min (s.fget cnt CfgScrubCnt.corr + 1) (2 ^ CfgScrubCnt.corr.width - 1) ∧
        OnlyRegs s t [Csr.cfgScrubSts d, cnt] ∧
        t = { s with csr := t.csr, scrubSkips := t.scrubSkips, frames := t.frames, frameBad := t.frameBad, entryOld := t.entryOld }) ∧
      (s.scrubSkipsReach d x = false → 2 ≤ bad.length → s.fbit (Csr.cfgScrubCtrl d) CfgScrubCtrl.autoReload = false →
        Completes (.scrubFrame d []) s fun t =>
          at_ t ∧ bitOf (t.fget (Csr.cfgReachSts d) CfgReachSts.uncorr) x = true ∧
          t.fget cnt CfgScrubCnt.uncorr = min (s.fget cnt CfgScrubCnt.uncorr + 1) (2 ^ CfgScrubCnt.uncorr.width - 1) ∧
          t.fget log CfgScrubLog.valid = 1 ∧ (s.fget log CfgScrubLog.valid = 0 → t.fget log CfgScrubLog.frame = i) ∧
          (s.windowOpen d 0x0506 0 = false → (s.waiting d).length < 64 →
            t.waiting d = s.waiting d ++ [s.item d 0x0506 [(1, d), (1, x), (2, f)]]) ∧
          OnlyRegs s t [Csr.cfgScrubSts d, cnt, log, Csr.cfgReachSts d, Csr.ndQdropCnt (queueOf d)] ∧ t.frames = s.frames))

/-- R300, R301, R302, R304: GO submits a mailbox's request, and a second GO sets OVERRUN; a write of DONE frees it; the answer
of a mailbox's command lies in its response area with the header of Table 09-2, clears BUSY, sets DONE and raises vector 0,
signalled while MSI-X is enabled, or held in its pending bit while it is masked. The ports answer MCTP control messages; the I3C
target takes its address. R304, R325, R365, R377: the checks that every command of a host meets, in order: a bad header or a tag
in use is BAD_ARGUMENT, a ninth command BUSY; a command for another package goes on toward it with its payload, or is answered
NOT_PRESENT or BUSY, by a port that is masked it is refused; a missing right or life-cycle state refuses it: it is counted and
answered later, REFUSED, with the reason to a host that holds DIAG. Ignored flag bits, the count of unanswered commands,
relaying members and EID checks are log entries 20, 57, 62, 93. -/
def Obligations.HostCommandEntry : Prop :=
  (
  ∀ (k : Mbox) (s : State),
    let sts := Csr.mbSts k
    let free : Prop := s.fget sts MbSts.busy = 0 ∧ s.fget sts MbSts.done = 0
    (free → Completes (.mbDoorbell k) s fun t =>
      t.csrGet sts = MbSts.busy.put (s.csrGet sts) 1 ∧ OnlyRegs s t [sts] ∧ t = { s with csr := t.csr }) ∧
    (¬ free → Completes (.mbDoorbell k) s fun t =>
      t.csrGet sts = MbSts.overrun.put (s.csrGet sts) 1 ∧ OnlyRegs s t [sts] ∧ t = { s with csr := t.csr }) ∧
    (Completes (.mbDoneWrite k) s fun t =>
      t.csrGet sts = MbSts.done.put (s.csrGet sts) 0 ∧ OnlyRegs s t [sts] ∧ t = { s with csr := t.csr }) ∧
    (∀ h : CmdHdr, h.via = .mailbox k → s.Takes h 0x0005 0 Gate.open_ → s.hostRec h.host = none → s.hosts.length = 16 →
      let payload : List (BitVec 8) := List.replicate 12 0
      let header : List (BitVec 8) := leBytes 2 0x0005 ++ leBytes 2 h.tag.toNat ++ leBytes 2 12 ++ leBytes 1 s.ownAddr ++
        [1, 0, 0] ++ leBytes 2 h.seq.toNat ++ leBytes 4 0
      let on := bitOf (s.cfgWord s.mgmtPort 1 Config.msixAt).toNat 31
      let masked := s.msixMasked 0
      Completes (.noticeStats h) s fun t =>
        (∀ i < 28, Memory.read 0 t.bar (0x22000 + 0x4000 * k.val + i) = (header ++ payload).getD i 0) ∧
        (∀ a, (a < 0x22000 + 0x4000 * k.val ∨ 0x22000 + 0x4000 * k.val + 28 ≤ a) → ¬ (a = 0x1800 ∧ on = true ∧ masked = true) →
          Memory.read 0 t.bar a = Memory.read 0 s.bar a) ∧
        (on = true → masked = true → (Memory.read 0 t.bar 0x1800).getLsbD 0 = true) ∧
        t.fget sts MbSts.busy = 0 ∧ t.fget sts MbSts.done = 1 ∧ OnlyRegs s t [sts] ∧ SMap.find t.mboxes k = none ∧
        t.outbox = s.outbox ++ .response h 0x0005 0 s.ownAddr payload :: (if on && !masked then [.msix 0] else []) ∧
        t = { s with csr := t.csr, bar := t.bar, mboxes := t.mboxes, outbox := t.outbox }) ∧
    (∀ p : PortNo, s.mctpPort p = true →
      let said (t : State) (cmd : Nat) (fs : List Nat) : Prop := t.outbox = s.outbox ++ [.mctp p cmd fs]
      (∀ eid : BitVec 8, eid ≠ 0 → eid ≠ 0xFF → Completes (.setEndpointId p eid) s fun t =>
        SMap.get 0 t.trans.eids p = eid ∧ (∀ q ≠ p.val, SMap.get 0 t.trans.eids q = SMap.get 0 s.trans.eids q) ∧
        said t 1 [0, eid.toNat] ∧ t = { s with trans := t.trans, outbox := t.outbox }) ∧
      (Completes (.getEndpointId p) s fun t => said t 2 [0, (SMap.get 0 s.trans.eids p).toNat] ∧ t = { s with outbox := t.outbox }) ∧
      (Completes (.getMctpVersionSupport p) s fun t => (∃ v, said t 4 (0 :: 1 :: leNats 4 v)) ∧
        t = { s with outbox := t.outbox, draws := s.draws + 1 }) ∧
      (Completes (.getMessageTypeSupport p) s fun t => said t 5 [0, 1, 0x7E] ∧ t = { s with outbox := t.outbox }) ∧
      (∀ eid0 : BitVec 8, (eid0 = 0 ∨ eid0 = 0xFF) → Completes (.setEndpointId p eid0) s fun t => said t 1 [2] ∧ t = { s with outbox := t.outbox }) ∧
      (Completes (.getVendorDefinedMsgSupport p) s fun t => said t 6 ([0, 0xFF, 0] ++ leNats 2 Config.vendorId.toNat) ∧
        t = { s with outbox := t.outbox })) ∧
    (s.fbit Csr.pinEn PinEn.tgt = true →
      (∀ a : BitVec 7, Completes (.entdaa a) s fun t => t = { s with trans := { s.trans with i3c := some a } }) ∧
      (∀ static a : BitVec 7, static.toNat = s.opt 0x10 % 128 → Completes (.setdasa static a) s fun t =>
        t = { s with trans := { s.trans with i3c := some a } }))) ∧
  (
  (∀ (c : Instr) (h : CmdHdr) (op : Nat) (s : State), hostCommand c = some (h, op) →
    let a := s.arrived h
    let answered (st : Nat) : Prop := Completes c s fun t => t = a.respond h op st []
    let open_ := s.unanswered h.host
    let badHeader : Prop := 4096 < h.length ∨ h.length ≠ h.payload.length ∨ h.status ≠ 0 ∨ h.resZero = false ∨ 8 ≤ h.flags.toNat
    (s.serves h op = false → Completes c s fun t => t = s) ∧
    (s.serves h op = true →
      (badHeader → answered St.badArgument) ∧
      (¬ badHeader → (∃ x ∈ open_, x.tag = h.tag) → answered St.badArgument) ∧
      (¬ badHeader → (∀ x ∈ open_, x.tag ≠ h.tag) → 8 ≤ open_.length → answered St.busy)) ∧
    (s.serves h op = true → a.headerFault h = none → h.chain.toNat ≠ s.ownAddr → bcast h = false → s.portServes h = false →
      Completes c s fun t => t = a.refuse h op 4 0xFF) ∧
    (s.serves h op = true → a.headerFault h = none → h.chain.toNat ≠ s.ownAddr → bcast h = false → s.portServes h = true →
      let far := h.chain.toNat
      let size := s.fget Csr.towSts TowSts.size
      (s.actingHead = false → answered St.notPresent) ∧
      (s.actingHead = true → s.tow.enumBusy = true → answered St.busy) ∧
      (s.actingHead = true → s.tow.enumBusy = false → (size ≤ far ∨ s.unreachablePkg far = true) → answered St.notPresent) ∧
      (s.actingHead = true → s.tow.enumBusy = false → far < size → s.unreachablePkg far = false → Completes c s fun t =>
        let header := leNats 2 op ++ leNats 2 h.tag.toNat ++ leNats 2 h.length ++ [far, h.flags.toNat, h.status.toNat, 0] ++
          leNats 2 h.seq.toNat ++ leNats 4 0
        t.cmds = s.cmds ++ [{ hdr := h, op := op, work := .relay, aborts := [] }] ∧
        t = State.towSend { a with cmds := t.cmds } (s.towToward far) 1 far (header ++ h.payload.map BitVec.toNat) ∧
        t = { a with cmds := t.cmds, tow := t.tow, outbox := t.outbox }))) ∧
  (∀ (h : CmdHdr) (s : State),
    let a := s.arrived h
    let refused (c : Instr) (op reason right : Nat) : Prop := Completes c s fun t =>
      t.refused = s.refused ++ [{ hdr := h, op := op, work := .refused reason right, aborts := [] }] ∧
      t.fget Csr.lcRefuseCnt LcRefuseCnt.refused =
        min (s.fget Csr.lcRefuseCnt LcRefuseCnt.refused + 1) (2 ^ LcRefuseCnt.refused.width - 1) ∧
      OnlyRegs s t [Csr.lcRefuseCnt] ∧ t = { a with csr := t.csr, refused := t.refused }
    (∀ addr n, s.Receives h 0x0105 → a.headerFault h = none → a.holds h.host Right.readback = false →
      refused (.frameRead h addr n) 0x0105 1 Right.readback) ∧
    (∀ off len, s.Receives h 0x0106 → a.headerFault h = none → a.holds h.host Right.flread = false →
      refused (.flashRead h off len) 0x0106 1 Right.flread) ∧
    (s.Receives h 0x0005 → a.headerFault h = none → s.fget Csr.lcSts LcSts.next = 0x60 → s.lcState ≠ 0x60 →
      refused (.noticeStats h) 0x0005 2 0xFF) ∧
    (∀ op : BitVec 16, s.Receives h op.toNat → a.headerFault h = none → Completes (.unlistedOpcode h op) s fun t => t = a.respond h op.toNat St.notPresent [])) ∧
  (∀ (h : CmdHdr) (op reason right : Nat) (rest : List Cmd) (s : State),
    s.refused = { hdr := h, op := op, work := .refused reason right, aborts := [] } :: rest →
    Completes .refusedResponse s fun t =>
      t = State.respond { s with refused := rest } h op St.refused
        (if s.holds h.host Right.diag then leBytes 1 reason ++ leBytes 1 right else [])))

/-- R308, R310, R319, Table 09-4: GET_INFO and GET_STATUS answer OK with the fields of Table 09-4; NOTICE_SUBSCRIBE sets the
host's mask and answers its next SEQ; NOTICE_STATS answers the host's counts; ABORT of a tag that names nothing is NOT_PRESENT,
one that names the host's LOAD session ends it. What ABORT names is log entry 63. -/
def Obligations.HostInformation : Prop :=
  ∀ (h : CmdHdr) (s : State),
    let a := s.arrived h
    (s.Takes h 0x0001 0 Gate.open_ → Completes (.getInfo h) s fun t => ∃ p : List (BitVec 8),
      t = a.respond h 0x0001 St.ok p ∧ p.length = 40 ∧ (p.getD 0 0).toNat = s.part.dies ∧
      (p.getD 1 0).toNat = s.part.grade % 256 ∧ (p.getD 2 0).toNat = s.lcState ∧
      p.drop 16 = leBytes 8 (s.otpWord 0x68).toNat ++ leBytes 8 (s.otpWord 0x69).toNat ++
        leBytes 1 s.source ++ leBytes 1 s.towAddr ++ leBytes 1 (s.fget Csr.towSts TowSts.size) ++ leBytes 1 0 ++
        leBytes 4 (if s.source = 0 then 0 else imgVersion (listRd s.image))) ∧
    (s.Takes h 0x0002 0 Gate.open_ → Completes (.getStatus h) s fun t => ∃ p : List (BitVec 8),
      t = a.respond h 0x0002 St.ok p ∧ p.length = 32 ∧ (p.getD 0 0).toNat = s.fget Csr.pwrSts PwrSts.state ∧
      (p.getD 1 0).toNat = s.pwr.cause % 256 ∧ (p.drop 4).take 4 = leBytes 4 s.pwr.wdtCount ∧
      (p.drop 8).take 8 = leBytes 8 s.refMs ∧
      (∀ d < 8, ((p.getD 16 0).getLsbD d = true ↔ s.dieOn d = true ∧ s.released d = true)) ∧ p.drop 17 = List.replicate 15 0) ∧
    (∀ (mask : BitVec 16) (r : HostRec), s.Takes h 0x0004 2 Gate.open_ → a.hostRec h.host = some r →
      (mask &&& 0xF801#16 = 0 → Completes (.noticeSubscribe h mask) s fun t =>
        t = State.respond { a with hosts := a.hosts.map (fun x => if x.host = h.host then { x with mask := mask } else x) } h
          0x0004 St.ok (leBytes 2 r.seq)) ∧
      (mask &&& 0xF801#16 ≠ 0 → Completes (.noticeSubscribe h mask) s fun t => t = a.respond h 0x0004 St.badArgument [])) ∧
    (∀ r : HostRec, s.Takes h 0x0005 0 Gate.open_ → a.hostRec h.host = some r → Completes (.noticeStats h) s fun t =>
      t = a.respond h 0x0005 St.ok (leBytes 2 r.seq ++ [0, 0] ++ leBytes 4 r.lost ++ leBytes 4 r.overw)) ∧
    (∀ tag : BitVec 16, s.Takes h 0x0003 2 Gate.open_ → (∀ x ∈ s.unanswered h.host, x.tag ≠ tag) →
      (s.sess = none → Completes (.abort h tag) s fun t => t = a.respond h 0x0003 St.notPresent []) ∧
      (∀ x, s.sess = some x → (x.hdr.host ≠ h.host ∨ x.hdr.tag ≠ tag) →
        Completes (.abort h tag) s fun t => t = a.respond h 0x0003 St.notPresent []) ∧
      (∀ x, s.sess = some x → x.hdr.host = h.host → x.hdr.tag = tag → s.cmds = [] → s.job = none →
        Completes (.abort h tag) s fun t => t.sess = none ∧ t = a.endSession.respond h 0x0003 St.ok [])) ∧
    (∀ (tag : BitVec 16) (w : SwapSt) (c : Cmd), s.Takes h 0x0003 2 Gate.open_ → s.unanswered h.host = [c.hdr] → c.hdr.tag = tag →
      s.cmds = [c] → c.op = 0x0204 → s.swap = some w → (w.phase = .background ∨ w.phase = .updating ∨ w.phase = .verified) →
      Completes (.abort h tag) s fun t => t.swap = none ∧ t = (a.abandonSwap St.aborted 0).respond h 0x0003 St.ok [])

/-- R311, R312, R295, R352, R360 (00 R9): the commands that read and write registers, banks, frames, flash and options answer OK
with the words they name in address order, a wrong range BAD_ARGUMENT. The bank commands ask the bank DMA for each of their
words in order, and are answered when all have been served. A flash read during an erase suspends it. Range checks and
OPTION_READ without a copy are log entries 64, 67. -/
def Obligations.HostReadsAndWrites : Prop :=
  ∀ (h : CmdHdr) (s : State),
    let a := s.arrived h
    (∀ (addr : Word) (n : BitVec 16),
      let as := (List.range n.toNat).map (fun i => (addr.toNat + 4 * i) % 2 ^ 32 / 4 * 4)
      s.Takes h 0x0101 6 (rawGate addr.toNat n.toNat) →
      ((n.toNat = 0 ∨ 256 < n.toNat) → Completes (.csrRead h addr n) s fun t => t = a.respond h 0x0101 St.badArgument []) ∧
      (1 ≤ n.toNat → n.toNat ≤ 256 → s.needsDie as = false → (∀ x ∈ as, s.reachable x = true) →
        (∀ x ∈ as, (a.msgRead h.host x).2 = a) → Completes (.csrRead h addr n) s fun t =>
          t = a.respond h 0x0101 St.ok (wordBytes (as.map (fun x => (a.msgRead h.host x).1))))) ∧
    (∀ (addr v : Word), s.Takes h 0x0102 8 (rawGate addr.toNat 1) → h.length = 12 →
      let x := addr.toNat / 4 * 4
      s.needsDie [x] = false → s.reachable x = true → Completes (.csrWrite h addr [v] 1) s fun t =>
        t = (a.msgWrite h.host x v).respond h 0x0102 St.ok []) ∧
    (∀ (addr : Word) (len : BitVec 16),
      let d := addr.toNat / 2 ^ 23 % 8
      let b := addr.toNat / 2 ^ 17 % 64
      let w := addr.toNat % 2 ^ 17 / 8
      let n := len.toNat / 8
      let good : Prop := addr.toNat / 2 ^ 26 = 4 ∧ addr.toNat % 8 = 0 ∧ len.toNat % 8 = 0 ∧ 8 ≤ len.toNat ∧ len.toNat ≤ 4096 ∧
        s.populated d = true ∧ b < 48 ∧ w + n ≤ 16384
      let up : Prop := s.noLogic = false ∧ s.dieOn d = true
      let k := bankQKey d b 2
      let asks (t : State) (op : Nat) (what : Nat → BankOp) : Prop :=
        t.cmds = s.cmds ++ [{ hdr := h, op := op, work := .bank n [], aborts := [] }] ∧ t.serial = s.serial + n ∧
        SMap.get [] t.bankQ k = SMap.get [] s.bankQ k ++
          (List.range n).map (fun i => ⟨s.serial + i, .steward h i, stw, 0, w + i, none, what i⟩) ∧
        (∀ j ≠ k, SMap.get [] t.bankQ j = SMap.get [] s.bankQ j) ∧
        t = { a with cmds := t.cmds, bankQ := t.bankQ, serial := t.serial }
      (s.Takes h 0x0103 6 Gate.open_ →
        (good → up → Completes (.bankRead h addr len) s fun t => asks t 0x0103 (fun _ => .read)) ∧
        (good → s.noLogic = true → Completes (.bankRead h addr len) s fun t => t = a.respond h 0x0103 St.notPresent []) ∧
        ((addr.toNat % 8 ≠ 0 ∨ len.toNat % 8 ≠ 0 ∨ len.toNat = 0 ∨ 4096 < len.toNat) →
          Completes (.bankRead h addr len) s fun t => t = a.respond h 0x0103 St.badArgument [])) ∧
      (∀ data : List (BitVec 64), s.Takes h 0x0104 8 Gate.open_ → good → up → h.length = 8 + len.toNat → data.length = n →
        Completes (.bankWrite h addr len data) s fun t => asks t 0x0104 (fun i => .write 0xFF (data.getD i 0) false))) ∧
    (∀ (c : Cmd) (n : Nat) (got : List BankGot), c.work = .bank n got →
      let ws := (List.range n).filterMap (fun i => got.find? (·.i == i))
      (got.length < n → s.bankAnswer c = s) ∧
      (n ≤ got.length → s.bankAnswer c = s.finishCmd c
        (if ws.any (·.status == St.notPresent) then St.notPresent else if ws.any (·.poison) then St.integrityFail else St.ok)
        (if c.op = 0x0103 then ws.flatMap (fun x => leBytes 8 x.data.toNat) else []))) ∧
    (∀ (addr : Word) (n : BitVec 16), s.Takes h 0x0105 6 (Gate.needs Right.readback) →
      let as := (List.range n.toNat).map (fun i => addr.toNat + i)
      let there : Prop := 1 ≤ n.toNat ∧ n.toNat ≤ 16 ∧ ∀ x ∈ as, s.frameHere x = true
      (there → s.noLogic = false → (∀ x ∈ as, s.dieOn (x / 2 ^ 15) = true) → Completes (.frameRead h addr n) s fun t =>
        t = a.respond h 0x0105 St.ok (as.flatMap (fun x =>
          s.frame (s.plane (x / 2 ^ 15) (x / 2 ^ 11 % 16)) (x / 2 ^ 15) (x / 2 ^ 11 % 16) (x % 2 ^ 11)))) ∧
      (¬ there → Completes (.frameRead h addr n) s fun t => t = a.respond h 0x0105 St.badArgument [])) ∧
    (∀ (off : Word) (len : BitVec 16),
      s.Takes h 0x0106 6 { Gate.needs Right.flread with level := s.levelReads off.toNat } →
      let there : Prop := off.toNat % 4 = 0 ∧ 4 ≤ len.toNat ∧ len.toNat ≤ 4096 ∧ off.toNat + len.toNat ≤ 24576 * 4096
      (there → s.flashBad = [] → s.fl.op = none → s.fl.susp = none → s.flState = Fs.idle →
        Completes (.flashRead h off len) s fun t => ∃ u : State,
          t = u.respond h 0x0106 St.ok ((List.range len.toNat).map (fun i => Memory.read 0xFF s.flash (off.toNat + i))) ∧
          (∀ x, u.csrGet x = s.csrGet x) ∧ u = { a with csr := u.csr }) ∧
      (there → s.flState = Fs.erase → Completes (.flashRead h off len) s fun t => t.fget Csr.flSts FlSts.autosusp = 1) ∧
      (¬ there → Completes (.flashRead h off len) s fun t => t = a.respond h 0x0106 St.badArgument [])) ∧
    (∀ (off : Word) (len : BitVec 16), s.Takes h 0x0206 6 Gate.open_ → s.protLevel < 2 →
      let os := (List.range len.toNat).map (fun i => off.toNat + i)
      let there : Prop := len.toNat ≤ 4096 ∧ ∀ o ∈ os, o ≤ 0x100 ∨ (0x200 ≤ o ∧ o ≤ 0x207) ∨ (0x1000 ≤ o ∧ o ≤ 0x1FFF)
      (there → Completes (.optionRead h off len) s fun t => t = a.respond h 0x0206 St.ok (os.map s.optionByte)) ∧
      (¬ there → Completes (.optionRead h off len) s fun t => t = a.respond h 0x0206 St.badArgument []))

/-- R309, R313, R314 (08 R280; 10 R344): a LOAD session. LOAD_BEGIN to target 0 opens it with LOADING shadows, to a slot or
firmware copy it first erases the record sector; LOAD_DATA takes the bytes at the next offset, keeps them in order as the host
image, and programs them for a flash target; LOAD_END before the total ends the session, of a host image it takes what is left
and, when it passes, makes the shadow READY, or takes it where no image runs, and else reports the failure. Without a message
for 1 s it ends. Foreign hosts, BUSY, and open bits of the record are log entries 65, 66. -/
def Obligations.LoadSessions : Prop :=
  ∀ (h : CmdHdr) (s : State),
    let a := s.arrived h
    (∀ (target : BitVec 8) (total : Word), s.Takes h 0x0201 8 Gate.open_ →
      let x : LoadSess := { hdr := h, target := target.toNat, total := total.toNat, got := 0, half := none }
      let fits : Prop := target.toNat ≤ 3 ∧ total.toNat ≤ (if target.toNat = 3 then 4190208 else 41938944)
      let free : Prop := s.loadRow = false ∧ s.reachWork = false ∧ s.swap = none
      (s.loadRow = true → Completes (.loadBegin h target total) s fun t => t = a.respond h 0x0201 St.busy []) ∧
      (s.loadRow = false → s.flashRow = false → ¬ fits → Completes (.loadBegin h target total) s fun t =>
        t = a.respond h 0x0201 St.badArgument []) ∧
      (target = 0 → free → fits → s.inStandby = false → s.shadowsInUse = false → Completes (.loadBegin h target total) s fun t =>
        t = (State.beginLoad { a with sess := some x, hostImage := none } (freshLoad .host 4 [] [])).respond h 0x0201 St.ok [] ∧
        t.sess = some x ∧ t.hostImage = none ∧ t.load = some (freshLoad .host 4 [] []) ∧
        ∀ d < s.part.dies, t.fget (Csr.cfgSts d) CfgSts.shadow = 1) ∧
      (target ≠ 0 → free → fits → s.flashRow = false → (target.toNat ≤ 2 → s.slotLocked (target.toNat - 1) = false) →
        let sec := if target.toNat = 3 then 20480 + 1024 * s.otherCopy + 1023 else 10240 * (target.toNat - 1) + 10239
        s.flCheck (.erase sec) = none → Completes (.loadBegin h target total) s fun t =>
          t.sess = some x ∧ t.cmds = s.cmds ++ [{ hdr := h, op := 0x0201, work := .flash, aborts := [] }] ∧
          t.job = some { cmd := h, steps := [.erase sec], stop := false } ∧ t.fl.op = some (.erase sec) ∧
          t.flState = Fs.erase ∧ sec ∈ t.flagCells ∧ t.flash = s.flash)) ∧
    (∀ (off : Word) (data : List (BitVec 8)) (x : LoadSess), s.Takes h 0x0202 8 Gate.open_ → s.sess = some x →
      let n := data.length
      let next : Prop := h.length = 4 + n ∧ n % 4 = 0 ∧ off.toNat = x.got ∧ x.got + n ≤ x.total
      (x.hdr.host ≠ h.host → Completes (.loadData h off data) s fun t => t = a.respond h 0x0202 St.notPresent []) ∧
      (x.hdr.host = h.host → ¬ next → Completes (.loadData h off data) s fun t => t = a.respond h 0x0202 St.badArgument []) ∧
      (x.hdr.host = h.host → next → x.target = 0 → Completes (.loadData h off data) s fun t =>
        t = State.respond { a with
            sess := some { x with got := x.got + n }
            load := s.load.map (fun l => { l with bytes := l.bytes ++ data, hdr := (l.bytes ++ data).take 256 }) } h 0x0202 St.ok []) ∧
      (x.hdr.host = h.host → next → x.target ≠ 0 → s.flashTaken = true → Completes (.loadData h off data) s fun t =>
        t = a.respond h 0x0202 St.busy []) ∧
      (x.hdr.host = h.host → next → x.target = 1 → s.flashTaken = false → x.half = none → n = 8 → x.got % 4096 ≠ 0 →
        let v : BitVec 64 := BitVec.ofNat 64 (fromLE data)
        s.flCheck (.prog x.got v false) = none → Completes (.loadData h off data) s fun t =>
          t.sess = some { x with got := x.got + n } ∧
          t.job = some { cmd := h, steps := [.prog x.got v], stop := false } ∧ t.fl.op = some (.prog x.got v false) ∧
          t.flState = Fs.prog ∧ t.flash = s.flash)) ∧
    (∀ x : LoadSess, s.sess = some x → x.hdr.host = h.host →
      s.Takes h 0x0203 0 { Gate.open_ with lcOk := s.lcPermits || x.target ≠ 0 } →
      (x.target = 0 → x.got < x.total → Completes (.loadEnd h h.payload) s fun t =>
        t.sess = none ∧ t = a.endSession.respond h 0x0203 St.badArgument []) ∧
      (∀ l, x.target = 0 → x.total ≤ x.got → let u := a.takeRest
        u.load = some l →
        Completes (.loadEnd h h.payload) s fun t =>
        ((u.loadVerdict l).1 ≠ St.ok → t.sess = none ∧
          t = (u.endSession.loadFail 4 (u.loadVerdict l).1 (u.loadVerdict l).2).respond h 0x0203 (u.loadVerdict l).1 []) ∧
        ((u.loadVerdict l).1 = St.ok → s.source ≠ 0 →
          t = (State.setShadows { u with sess := none, load := none, hostImage := some l } 2).respond h 0x0203 St.ok [] ∧
          t.hostImage = some l ∧ ∀ d < s.part.dies, t.fget (Csr.cfgSts d) CfgSts.shadow = 2) ∧
        ((u.loadVerdict l).1 = St.ok → s.source = 0 → l.source = 4 → l.reginit = [] → t.sess = none ∧ t.load = none ∧ t.image = l.hdr ∧
          t.cmds = s.cmds ++ [{ hdr := h, op := 0x0203, work := .load, aborts := [] }] ∧
          ∃ r ∈ t.releases, r.scope = .all ∧ r.step = 1 ∧ r.why = .load))) ∧
    ((∀ c ∈ s.cmds, c.op ≠ 0x0201 ∧ c.op ≠ 0x0202 ∧ c.op ≠ 0x0203) → Completes .loadSessionTimeout s fun t =>
      t.sess = none ∧ (∀ x, s.sess = some x → x.target = 0 → ∀ d < s.part.dies, t.fget (Csr.cfgSts d) CfgSts.shadow = 3) ∧
      (∀ d ≥ s.part.dies, t.csrGet (Csr.cfgSts d) = s.csrGet (Csr.cfgSts d)) ∧
      t = { s with csr := t.csr, sess := none, load := t.load })

/-- R286, R293, R309, R315 (10 R344, R354, R357): SWAP begins the background load of a live swap; REACH_RELOAD begins the reload
of a reach and is answered when it ends; OPTION_WRITE begins the erase of the other copy of the record, or the next entry of the
protection log; the user flash is erased and programmed sector by sector and word by word. Their statuses are log entries 67,
70. -/
def Obligations.SwapReloadAndFlashWrites : Prop :=
  ∀ (h : CmdHdr) (s : State),
    let a := s.arrived h
    let waits (t : State) (op : Nat) (w : Work) : Prop := t.cmds = s.cmds ++ [{ hdr := h, op := op, work := w, aborts := [] }]
    let runs (t : State) (steps : List JobStep) (op : FlOp) : Prop :=
      t.job = some { cmd := h, steps := steps, stop := false } ∧ t.fl.op = some op
    (∀ source : BitVec 8, s.Takes h 0x0204 1 { Gate.open_ with lcOk := s.lcPermits } →
      (s.loadRow = true → Completes (.swap h source h.payload) s fun t => t = a.respond h 0x0204 St.busy []) ∧
      (∀ st, s.loadRow = false → s.swapFault source.toNat = some st → Completes (.swap h source h.payload) s fun t =>
        t = a.respond h 0x0204 st []) ∧
      (s.loadRow = false → s.swapFault source.toNat = none → Completes (.swap h source h.payload) s fun t =>
        t.swap = some { cmd := h, source := source.toNat, phase := .background, todo := [], pause := 0 } ∧ waits t 0x0204 .swap ∧
        (∀ d < s.part.dies, t.fget (Csr.cfgSts d) CfgSts.swap = 1) ∧
        (source.toNat ≠ 4 → t.hostImage = none ∧
          t.load = some (freshLoad .swap source.toNat (s.slotHeader (source.toNat - 1)) []) ∧
          ∀ d < s.part.dies, t.fget (Csr.cfgSts d) CfgSts.shadow = 1) ∧
        (source.toNat = 4 → t.hostImage = s.hostImage ∧ t.load = s.load))) ∧
    (∀ die reach : BitVec 8, s.Takes h 0x0205 2 Gate.open_ →
      let d := die.toNat
      let r := reach.toNat
      let on : Prop := s.noLogic = false ∧ s.dieOn d = true
      (¬ on → Completes (.reachReload h die reach) s fun t => t = a.respond h 0x0205 St.notPresent []) ∧
      (on → 15 < r → Completes (.reachReload h die reach) s fun t => t = a.respond h 0x0205 St.badArgument []) ∧
      (on → r ≤ 15 → s.gated d r = false → s.fromSlot = true → s.reloadBusy d r = true →
        Completes (.reachReload h die reach) s fun t => t = a.respond h 0x0205 St.busy []) ∧
      (on → r ≤ 15 → s.gated d r = false → s.fromSlot = true → s.reloadBusy d r = false → s.swap = none →
        Completes (.reachReload h die reach) s fun t =>
          t.jobs = s.jobs ++ [{ die := d, reach := r, kind := .reload (some h), swapping := false, next := 0, recAt := 0, bad := none, got := [] }] ∧
          waits t 0x0205 .reachJob ∧ t.fget (Csr.cfgSts d) CfgSts.shadow = 1 ∧ OnlyRegs s t [Csr.cfgSts d] ∧
          t = { a with csr := t.csr, cmds := t.cmds, jobs := t.jobs })) ∧
    (∀ (off : Word) (data : List (BitVec 8)), s.Takes h 0x0207 5 Gate.open_ → h.length = 4 + data.length →
      (s.flashRow = true → Completes (.optionWrite h off data) s fun t => t = a.respond h 0x0207 St.busy []) ∧
      (s.flashRow = false → off.toNat + data.length ≤ 0xF8 →
        let copy := match s.optCurrent with | some c => 1 - c | none => 0
        s.flCheck (.erase (24448 + copy)) = none → Completes (.optionWrite h off data) s fun t =>
          waits t 0x0207 .flash ∧ runs t (s.optionSteps off.toNat data) (.erase (24448 + copy)) ∧
          (s.optionSteps off.toNat data).length = 33 ∧ t.flash = s.flash) ∧
      (s.flashRow = false → off.toNat = 0x100 → data = [BitVec.ofNat 8 s.protLevel] → Completes (.optionWrite h off data) s fun t =>
        t = a.respond h 0x0207 St.ok []) ∧
      (s.flashRow = false → 0xF8 < off.toNat + data.length → off.toNat ≠ 0x100 → Completes (.optionWrite h off data) s fun t =>
        t = a.respond h 0x0207 St.badArgument [])) ∧
    (∀ first count : Word, s.Takes h 0x0301 8 Gate.open_ → s.flashRow = false →
      (1920 < first.toNat + count.toNat → Completes (.uflashErase h first count) s fun t => t = a.respond h 0x0301 St.badArgument []) ∧
      (first.toNat + count.toNat ≤ 1920 → count.toNat ≠ 0 → s.flCheck (.erase (22528 + first.toNat)) = none →
        Completes (.uflashErase h first count) s fun t =>
          waits t 0x0301 .flash ∧ runs t ((List.range count.toNat).map (fun i => .erase (22528 + first.toNat + i)))
            (.erase (22528 + first.toNat)) ∧ t.flash = s.flash)) ∧
    (∀ (off : Word) (v : BitVec 64) (rest : List (BitVec 64)), s.Takes h 0x0302 4 Gate.open_ → s.flashRow = false →
      h.length = 4 + 8 * (rest.length + 1) →
      let base := 22528 * 4096 + off.toNat
      ((off.toNat % 8 ≠ 0 ∨ 1920 * 4096 < off.toNat + 8 * (rest.length + 1)) →
        Completes (.uflashProgram h off (v :: rest)) s fun t => t = a.respond h 0x0302 St.badArgument []) ∧
      (off.toNat % 8 = 0 → off.toNat + 8 * (rest.length + 1) ≤ 1920 * 4096 → s.flCheck (.prog base v false) = none →
        Completes (.uflashProgram h off (v :: rest)) s fun t =>
          waits t 0x0302 .flash ∧ t.fl.op = some (.prog base v false) ∧ t.flash = s.flash ∧
          ∃ j, t.job = some j ∧ j.cmd = h ∧ j.steps.length = rest.length + 1 ∧
            ∀ i ≤ rest.length, j.steps.getD i .wipe = .prog (base + 8 * i) ((v :: rest).getD i 0)))

/-- R362 to R364, R367, R368, R373 to R377: an OTP word joins the bits it takes, or keeps some of them with FAIL; OTP_WRITE
starts the word it may write; a transition of Table 11-3 whose token holds programs its words in order; KEY_REVOKE needs another
usable key and a signature of a usable one; a certificate has its verdict at its arrival, its counter words are programmed, and
it is answered with the rights it adds, or counted when it fails. The order of the checks, the decode's corners and the
certificate words are log entries 71, 72, 73, 74, 114. -/
def Obligations.OtpAndLifeCycle : Prop :=
  ∀ (h : CmdHdr) (s : State),
    let a := s.arrived h
    let waits (t : State) (op : Nat) (w : Work) : Prop := t.cmds = s.cmds ++ [{ hdr := h, op := op, work := w, aborts := [] }]
    let starts (t : State) (steps : List JobStep) (w : Nat) (v : BitVec 64) : Prop :=
      t.job = some { cmd := h, steps := steps, stop := false } ∧ t.otpBusy = some (w, v) ∧
      t.fget Csr.otpSts OtpSts.busy = 1 ∧ t.fget Csr.otpSts OtpSts.word = w ∧ t.otp = s.otp
    (∀ (w : Nat) (v : BitVec 64), s.otpBusy = some (w, v) → s.job = none → (∀ c ∈ s.certs, c.words = []) →
      (Completes (.otpWordProgrammed true) s fun t =>
        t.otpWord w = s.otpWord w ||| v ∧ (∀ x ≠ w, t.otpWord x = s.otpWord x) ∧ t.otpBusy = none ∧
        t.fget Csr.otpSts OtpSts.busy = 0 ∧ t.fget Csr.otpSts OtpSts.fail = s.fget Csr.otpSts OtpSts.fail) ∧
      (s.tapHeld = false → (s.waiting stw).length < 64 → Completes (.otpWordProgrammed false) s fun t =>
        (∃ x, t.otpWord w = s.otpWord w ||| (v &&& x)) ∧ (∀ x ≠ w, t.otpWord x = s.otpWord x) ∧ t.otpBusy = none ∧
        t.fget Csr.otpSts OtpSts.busy = 0 ∧ t.fget Csr.otpSts OtpSts.fail = 1 ∧
        t.waiting stw = s.waiting stw ++ [s.item stw 0x0705 [(2, w)]])) ∧
    (∀ (word : BitVec 16) (v : BitVec 64), s.flashRow = false → s.otpBusy = none → 0x100 ≤ word.toNat → word.toNat ≤ 0x1FF →
      (s.lcState = 0x30 ∨ s.lcState = 0x40) → s.Takes h 0x0403 12 (Gate.needs Right.otpwr) →
      Completes (.otpWrite h word v) s fun t =>
        waits t 0x0403 .flash ∧ starts t [.otp word.toNat v] word.toNat v) ∧
    (∀ (word : BitVec 16) (v : BitVec 64), s.flashRow = false → s.lcState = 0 → s.Takes h 0x0403 12 Gate.open_ →
      (0x20 ≤ word.toNat ∧ word.toNat ≤ 0x49 ∨ word.toNat = 0x68 ∨ word.toNat = 0x69) →
      (s.otpWord word.toNat = 0 → s.otpBusy = none → Completes (.otpWrite h word v) s fun t =>
        waits t 0x0403 .flash ∧ starts t [.otp word.toNat v] word.toNat v) ∧
      (s.otpWord word.toNat ≠ 0 → Completes (.otpWrite h word v) s fun t => t = a.respond h 0x0403 St.badArgument [])) ∧
    (∀ (target : BitVec 8) (words : List Nat), s.flashRow = false → s.otpBusy = none →
      ((s.lcState = 0x10 ∧ target = 0x21 ∧ words = [1]) ∨ (s.lcState = 0x21 ∧ target = 0x11 ∧ words = [2]) ∨
        (s.lcState = 0x21 ∧ target = 0x30 ∧ words = [0x0F]) ∨
        (s.lcState = 0x30 ∧ target = 0x40 ∧ words = [0x13, 0x10] ∧ ∃ i < 3, s.keyUsable i = true)) →
      s.Takes h 0x0401 36 { Gate.open_ with right := if s.lcState = 0x30 then some Right.otpwr else none } →
      Completes (.lcTransition h target h.payload) s fun t =>
        (s.tokenOk h target.toNat = true → waits t 0x0401 .flash ∧
          starts t (words.map (fun i => .otp i (lcPattern i)) ++ [.lcDone s.lcState target.toNat]) (words.headD 0)
            (lcPattern (words.headD 0))) ∧
        (s.tokenOk h target.toNat = false → t = a.refuse h 0x0401 5 0xFF)) ∧
    (s.lcState = 0x10 → s.fget Csr.lcSts LcSts.next ≠ 0x60 → s.portServes h = true → s.Receives h 0x0401 → a.headerFault h = none →
      Completes (.lcTransition h 0x21 h.payload) s fun t =>
        Config.sha384 (bytesAt (listRd h.payload) 4 32) ≠ s.keyHash 0x20 → t = a.refuse h 0x0401 5 0xFF) ∧
    (∀ key signer : BitVec 8, s.flashRow = false → s.Takes h 0x0404 200 Gate.open_ →
      let k := key.toNat
      let good : Prop := k ≤ 2 ∧ s.keyPresent k = true ∧ ∃ i < 3, i ≠ k ∧ s.keyUsable i = true
      let rd := listRd h.payload
      let qx := bytesAt rd 8 48
      let qy := bytesAt rd 56 48
      let text := leNats 4 0x5645524B ++ leNats 8 (s.otpWord 0x68).toNat ++ leNats 8 (s.otpWord 0x69).toNat ++
        [key.toNat, signer.toNat, 0, 0]
      let signed : Prop := s.keyUsable signer.toNat = true ∧ Config.sha384 (qx ++ qy) = s.keyHash (0x50 + 6 * signer.toNat) ∧
        Config.ecdsaOk qx qy (bytesAt rd 104 48) (bytesAt rd 152 48) (Config.sha384 text) = true
      (¬ good → Completes (.keyRevoke h key signer h.payload) s fun t => t = a.respond h 0x0404 St.badArgument []) ∧
      (good → Completes (.keyRevoke h key signer h.payload) s fun t =>
        (¬ signed → t = a.respond h 0x0404 St.integrityFail []) ∧
        (signed → s.otpWord (0x62 + k) ≠ 0 → t = a.respond h 0x0404 St.ok []) ∧
        (signed → s.otpWord (0x62 + k) = 0 → s.otpBusy = none → waits t 0x0404 .flash ∧
          starts t [.otp (0x62 + k) (BitVec.allOnes 64), .keyDone k signer.toNat] (0x62 + k) (BitVec.allOnes 64)))) ∧
    (let rd := listRd h.payload
      let counter := leAt rd 0x18 4
      let qx := bytesAt rd 0x30 48
      let qy := bytesAt rd 0x60 48
      let format : Prop := h.length = 240 ∧ leAt rd 0 4 = 0x54524344 ∧ rd 5 = 1 ∧ leAt rd 6 2 = 0 ∧ leAt rd 0x1D 3 = 0 ∧
        (∀ i < 16, rd (0x20 + i) = 0) ∧ 1 ≤ counter ∧ counter ≤ 1024
      let valid : Prop := bytesAt rd 0x08 16 = leNats 8 (s.otpWord 0x68).toNat ++ leNats 8 (s.otpWord 0x69).toNat ∧
        s.keyUsable (rd 4) = true ∧ Config.sha384 (qx ++ qy) = s.keyHash (0x50 + 6 * rd 4) ∧ s.certReached < counter ∧
        Config.ecdsaOk qx qy (bytesAt rd 0x90 48) (bytesAt rd 0xC0 48) (Config.sha384 (bytesAt rd 0 0x90)) = true
      let kept (t : State) (st : Nat) (ws : List (Nat × BitVec 64)) : Prop :=
        t.certs = s.certs ++ [{ hdr := h, status := st, words := ws }] ∧ waits t 0x0402 .cert ∧ t.otp = s.otp ∧ t.hosts = a.hosts
      s.Takes h 0x0402 0 Gate.open_ →
      (¬ format → Completes (.debugCert h h.payload) s fun t => kept t St.badArgument []) ∧
      (format → Completes (.debugCert h h.payload) s fun t =>
        let ws := counterWords s.certReached counter
        (¬ valid → kept t St.integrityFail []) ∧
        (valid → kept t St.ok ws ∧
          (s.otpBusy = none → s.job = none → (∀ c ∈ s.certs, c.words = []) → t.otpBusy = ws.head?)))) ∧
    (∀ a b : Nat, b ≤ 1024 → ∀ j < 1024, (∃ x ∈ counterWords a b, x.1 = 0x70 + j / 64 ∧ bitOf x.2.toNat (j % 64) = true) ↔
      a ≤ j ∧ j < b) ∧
    (∀ (c : CertSt) (rest : List CertSt) (q : Cmd), s.certs = c :: rest → c.hdr = h → (∀ x ∈ rest, x.words = []) → s.job = none →
      s.cmds = [q] → q.hdr = h → q.aborts = [] →
      let rd := listRd h.payload
      (c.status = St.badArgument → c.words = [] → Completes .debugCertResponse s fun t =>
        t = State.respond { s with certs := rest, cmds := [] } h q.op St.badArgument []) ∧
      (c.status = St.integrityFail → c.words = [] → Completes .debugCertResponse s fun t =>
        t.certs = rest ∧ t.cmds = [] ∧ t.otp = s.otp ∧ t.hosts = s.hosts ∧
        t.fget Csr.lcRefuseCnt LcRefuseCnt.certFail =
          min (s.fget Csr.lcRefuseCnt LcRefuseCnt.certFail + 1) (2 ^ LcRefuseCnt.certFail.width - 1)) ∧
      (c.status = St.ok → (∀ x ∈ c.words, 0x70 ≤ x.1 ∧ x.1 ≤ 0x7F) → (s.waiting stw).length < 64 →
        Completes .debugCertResponse s fun t => t.certs = rest ∧ t.cmds = [] ∧
        (∀ j < 1024, bitOf (t.otpWord (0x70 + j / 64)).toNat (j % 64) = true ↔
          bitOf (s.otpWord (0x70 + j / 64)).toNat (j % 64) = true ∨
            ∃ x ∈ c.words, x.1 = 0x70 + j / 64 ∧ bitOf x.2.toNat (j % 64) = true) ∧
        (∀ w, (w < 0x70 ∨ 0x7F < w) → t.otpWord w = s.otpWord w) ∧
        (∀ r < 8, (∃ x, s.hostRec h.host = some x) → bitOf (rd 0x1C) r = true → t.holds h.host r = true)))

/-- R342 to R345: the unlock sequence and the selection of a command; any other write locks with ERR SEQ. The selected PROGRAM,
BITPROG, ERASE or RDP_LOWER starts when the checks of R345 pass, else it leaves its error and changes nothing in the array. The
order of its checks is log entry 76. -/
def Obligations.FlashCommands : Prop :=
  ∀ s : State,
    let sts := Csr.flSts
    let err (t : State) (e : Nat) : Prop := t.fget sts FlSts.err = e ∧ t.fget sts FlSts.errv = 1
    let locked (t : State) : Prop := t.fl.key = 0 ∧ t.fl.selected = none ∧ t.fget sts FlSts.unlocked = 0
    let quiet (t : State) : Prop := t.flash = s.flash ∧ t.flashBad = s.flashBad ∧ t.flagCells = s.flagCells
    (s.fl.key = 0 → Completes (.flKeyWrite 0x5E1C0A17) s fun t => t = { s with fl := { s.fl with key := 1, selected := none } }) ∧
    (s.fl.key = 1 → Completes (.flKeyWrite 0xA1E3F5E8) s fun t =>
      t.fl = { s.fl with key := 2 } ∧ t.fget sts FlSts.unlocked = 1 ∧ OnlyRegs s t [sts] ∧ t = { s with csr := t.csr, fl := t.fl }) ∧
    (∀ v : Word, ¬ (s.fl.key = 0 ∧ v = 0x5E1C0A17) → ¬ (s.fl.key = 1 ∧ v = 0xA1E3F5E8) → Completes (.flKeyWrite v) s fun t =>
      locked t ∧ err t 1 ∧ OnlyRegs s t [sts] ∧ t = { s with csr := t.csr, fl := t.fl }) ∧
    (∀ v : Word,
      (s.fl.key ≠ 2 → Completes (.flCmdWrite v) s fun t => locked t ∧ err t 1 ∧ OnlyRegs s t [sts]) ∧
      (s.fl.key = 2 → 1 ≤ FlCmd.cmd.get v → FlCmd.cmd.get v ≤ 4 → Completes (.flCmdWrite v) s fun t =>
        t.fl.selected = some (FlCmd.cmd.get v) ∧ t.fl.key = 0 ∧ t.fget sts FlSts.unlocked = 0 ∧
        t.fget Csr.flCmd FlCmd.cmd = FlCmd.cmd.get v ∧ OnlyRegs s t [sts, Csr.flCmd] ∧ t = { s with csr := t.csr, fl := t.fl }) ∧
      (s.fl.key = 2 → (FlCmd.cmd.get v = 0 ∨ 4 < FlCmd.cmd.get v) → Completes (.flCmdWrite v) s fun t =>
        locked t ∧ err t 7 ∧ OnlyRegs s t [sts])) ∧
    (∀ (v : Word) (raw : Bool), s.fl.selected = some (if raw then 2 else 1) →
      let c : Instr := if raw then .flBitprog v else .flProgram v
      let a := s.fget Csr.flAddr FlAddr.addr
      let op : FlOp := .prog a (v ++ s.csrGet Csr.flDataLo) raw
      let sec := a / 4096
      let idle : Prop := s.flState = 0
      (s.flCheck op = none → idle → Completes c s fun t =>
        t.fl.op = some op ∧ t.fl.selected = none ∧ t.flState = 1 ∧ quiet t) ∧
      (∀ e, s.flCheck op = some e → Completes c s fun t => err t e ∧ t.fl = { s.fl with selected := none } ∧ quiet t ∧
        OnlyRegs s t [sts, Csr.flDataHi]) ∧
      (idle → a % 8 ≠ 0 → s.flCheck op = some 7) ∧
      (idle → a % 8 = 0 → sec < 24464 → (raw = true → 24450 ≤ sec ∧ sec ≤ 24453) → (sec = 24454 ∨ 24456 ≤ sec) →
        s.flCheck op = some 3) ∧
      (idle → a % 8 = 0 → sec < 24450 → s.protectedSector sec = false → raw = false → s.worn sec = true → s.flCheck op = some 5) ∧
      (idle → a % 8 = 0 → sec < 24450 → s.protectedSector sec = false → raw = false → s.worn sec = false →
        (sec ∈ s.flagCells → s.flCheck op = some 6) ∧
        (sec ∉ s.flagCells → s.flWord (a / 8) ≠ BitVec.allOnes 64 → s.flCheck op = some 4) ∧
        (sec ∉ s.flagCells → s.flWord (a / 8) = BitVec.allOnes 64 → s.flCheck op = none))) ∧
    (∀ v : Word, s.fl.selected = some 3 →
      let sec := FlAddr.addr.get v / 4096
      (s.flCheck (.erase sec) = none → Completes (.flErase v) s fun t =>
        t.fl.op = some (.erase sec) ∧ t.flState = 2 ∧ sec ∈ t.flagCells ∧ t.flash = s.flash ∧ t.fl.selected = none) ∧
      (∀ e, s.flCheck (.erase sec) = some e → Completes (.flErase v) s fun t => err t e ∧ quiet t ∧ t.fl.op = s.fl.op)) ∧
    (∀ v : Word, s.fl.selected = some 4 →
      let code := v.toNat % 256
      (s.flState = 0 → levelOf code < s.protLevel → Completes (.flRdpLower v) s fun t =>
        t.fl.op = some (.rdp code) ∧ t.flState = 5 ∧ t.source = 0) ∧
      (s.flState = 0 → s.protLevel ≤ levelOf code → Completes (.flRdpLower v) s fun t => err t 7 ∧ quiet t ∧ t.fl.op = s.fl.op))

/-- R344, R345, R351, R354: a program that verifies leaves its word, an erase that verifies leaves its sector erased and its
flag cell clear, both with DONE; one that does not retires its sector with ERR WORN and a notice. The lowering sequence ends
with its regions erased and a SET entry. A message's job goes on with its next operation, or is answered. DONE beside WORN and
the contents after a failure are log entries 76, 77. -/
def Obligations.FlashCompletion : Prop :=
  ∀ s : State,
    let sts := Csr.flSts
    let after : Nat := if s.fl.susp.isSome then Fs.eraseSusp else Fs.idle
    let ended (t : State) : Prop := t.fl.op = none ∧ t.fl.susp = s.fl.susp ∧ t.flState = after
    let done (t : State) : Prop := ended t ∧ t.fget sts FlSts.done = 1
    let only (t : State) (p : Nat → Prop) : Prop := ∀ w, ¬ p w → t.flWord w = s.flWord w ∧ SMap.get 0 t.flashBad w = SMap.get 0 s.flashBad w
    let field := 24455 * 512 + s.fieldTable.length
    let retired (t : State) (sec cause : Nat) : Prop :=
      ended t ∧ t.fget sts FlSts.err = 5 ∧ t.fget sts FlSts.errv = 1 ∧
      (s.fieldTable.length < 512 → t.flWord field = BitVec.ofNat 64 (sec + cause * 2 ^ 16)) ∧
      t.fget Csr.flBadSts FlBadSts.field = t.fieldTable.length ∧
      t.fget Csr.flBadSts FlBadSts.full = (if t.fieldTable.length = 512 then 1 else 0) ∧
      ((s.waiting stw).length < 64 → t.waiting stw = s.waiting stw ++ [s.item stw 0x0605 [(2, sec), (1, cause),
        (2, t.fieldTable.length), (1, if t.fieldTable.length = 512 then 1 else 0)]])
    (∀ (a : Nat) (v : BitVec 64) (raw : Bool), s.fl.op = some (.prog a v raw) →
      (s.job = none → Completes (.flashProgramDone true) s fun t =>
        done t ∧ t.flWord (a / 8) = (if raw then s.flWord (a / 8) &&& v else v) ∧ SMap.get 0 t.flashBad (a / 8) = 0 ∧
        only t (· = a / 8) ∧ t.flagCells = s.flagCells ∧ OnlyRegs s t [sts, Csr.flProt, Csr.flBadSts] ∧
        t = { s with csr := t.csr, flash := t.flash, flashBad := t.flashBad, fl := t.fl }) ∧
      (s.job = none → a / 4096 ≠ 24455 → Completes (.flashProgramDone false) s fun t =>
        retired t (a / 4096) 2 ∧ only t (fun w => w = a / 8 ∨ w = field) ∧ t.flagCells = s.flagCells)) ∧
    (∀ x : Nat, s.fl.op = some (.erase x) →
      (s.fbit sts FlSts.autosusp = true → ∀ ok, Completes (.flashEraseDone ok) s fun t => t = s) ∧
      (s.fbit sts FlSts.autosusp = false → s.job = none → Completes (.flashEraseDone true) s fun t =>
        done t ∧ (∀ w, w / 512 = x → t.flWord w = BitVec.allOnes 64 ∧ SMap.get 0 t.flashBad w = 0) ∧ only t (· / 512 = x) ∧
        t.flagCells = s.flagCells.erase x ∧
        (s.fl.reRun = true → t.fl.reerase = s.fl.reerase.erase x ∧
          ((s.waiting stw).length < 64 → t.waiting stw = s.waiting stw ++ [s.item stw 0x0604 [(2, x), (1, 0)]])) ∧
        (s.fl.reRun = false → t.fl.reerase = s.fl.reerase ∧ t.queues = s.queues)) ∧
      (s.fbit sts FlSts.autosusp = false → s.job = none → s.fl.reRun = false → x ≠ 24455 →
        Completes (.flashEraseDone false) s fun t =>
          retired t x 1 ∧ only t (fun w => w / 512 = x ∨ w = field) ∧ t.flagCells = s.flagCells)) ∧
    (∀ c : Nat, s.fl.op = some (.rdp c) → s.job = none → Completes .rdpLowerComplete s fun t =>
      let gone (sec : Nat) : Prop := sec < 20480 ∨ 22528 ≤ sec ∧ sec < 24450
      done t ∧ (∀ w, gone (w / 512) → t.flWord w = BitVec.allOnes 64) ∧ (∀ sec ∈ t.flagCells, sec ∈ s.flagCells ∧ ¬ gone sec) ∧
      only t (fun w => gone (w / 512) ∨ w / 512 = 24450 ∨ w / 512 = 24451) ∧
      (∀ i, s.nextProt c 0x5A = (i, false, (s.nextProt c 0x5A).2.2) →
        t.flWord i = (s.nextProt c 0x5A).2.2 ∧ ∀ w ≠ i, ¬ gone (w / 512) → t.flWord w = s.flWord w) ∧
      ((s.waiting stw).length < 64 → t.waiting stw = s.waiting stw ++ [s.item stw 0x0607 [(1, s.protLevel), (1, levelOf c), (1, 0)]])) ∧
    (∀ (a : Nat) (v : BitVec 64) (h : CmdHdr) (q : Cmd) (rest : List JobStep) (stop : Bool), s.fl.op = some (.prog a v false) →
      s.job = some { cmd := h, steps := .prog a v :: rest, stop := stop } →
      s.cmds = [q] → q.hdr = h → q.op = 0x0302 → q.aborts = [] →
      ∀ u, exec (.flashProgramDone true) { s with job := none } = .next u →
        (rest = [] ∨ stop = true → Completes (.flashProgramDone true) s fun t =>
          t = State.respond { u with cmds := [] } h 0x0302 (if rest = [] then St.ok else St.aborted) []) ∧
        (∀ b w r, rest = .prog b w :: r → stop = false → u.flCheck (.prog b w false) = none →
          Completes (.flashProgramDone true) s fun t =>
            t.job = some { cmd := h, steps := rest, stop := false } ∧ t.fl.op = some (.prog b w false) ∧ t.cmds = s.cmds ∧
            t.flash = u.flash ∧ t.fget Csr.flCmd FlCmd.cmd = 1 ∧ t.fget Csr.flAddr FlAddr.addr = b % 2 ^ 27 ∧
            t.csrGet Csr.flDataHi ++ t.csrGet Csr.flDataLo = w) ∧
        (∀ b w r e, rest = .prog b w :: r → stop = false → u.flCheck (.prog b w false) = some e →
          Completes (.flashProgramDone true) s fun t =>
            t.job = none ∧ t.cmds = [] ∧ t.fget sts FlSts.err = e ∧ t.fget sts FlSts.errv = 1 ∧ t.flash = u.flash))

/-- R338 to R341, R345 to R348 (03 R134; 06 R232): a running erase is suspended and resumed as Table 10-5 states, and by reads;
an unfinished sector is erased again after release; an access serves the oldest request of the user window, or a line that the
Steward fetches, with the counts, the notices, the log and the poison of R339. A program in progress makes reads wait. Ixken's
own fetches are log entry 84. -/
def Obligations.FlashSuspendAndReads : Prop :=
  ∀ s : State,
    let sts := Csr.flSts
    let idleLeft (c : Instr) : Prop := Completes c s fun t => t = s
    let st := s.flState
    ((st = 1 ∨ st = 4) →
      (Completes .flSuspend s fun t => t.fget sts FlSts.err = 2 ∧ t.fget sts FlSts.errv = 1 ∧ OnlyRegs s t [sts] ∧ t = { s with csr := t.csr }) ∧
      idleLeft .flashReadAccess) ∧
    (∀ x, st ≠ 1 → st ≠ 4 → s.fl.op = some (.erase x) → Completes .flSuspend s fun t =>
      t.fl = { s.fl with op := none, susp := some x } ∧ t.flState = 3 ∧ t.fget sts FlSts.autosusp = 0 ∧ OnlyRegs s t [sts] ∧
      t = { s with csr := t.csr, fl := t.fl }) ∧
    (st ≠ 1 → st ≠ 4 → s.fl.op = none → idleLeft .flSuspend) ∧
    (∀ x, s.fl.susp = some x → st = 3 → Completes .flResume s fun t =>
      t.fl = { s.fl with op := some (.erase x), susp := none } ∧ t.flState = 2 ∧ OnlyRegs s t [sts] ∧ t = { s with csr := t.csr, fl := t.fl }) ∧
    ((s.fl.susp = none ∨ st ≠ 3) → idleLeft .flResume) ∧
    (s.fbit sts FlSts.autosusp = true → s.fl.reads = [] → Completes .autoResume s fun t =>
      t.fget sts FlSts.autosusp = 0 ∧ OnlyRegs s t [sts] ∧ t = { s with csr := t.csr }) ∧
    ((s.fbit sts FlSts.autosusp = false ∨ s.fl.reads ≠ []) → idleLeft .autoResume) ∧
    (∀ x rest, s.fl.reerase = x :: rest →
      let released : Prop := ∃ d < 8, s.dieOn d = true ∧ s.released d = true
      ((¬ released ∨ s.job ≠ none ∨ st ≠ 0) → idleLeft .flagReerase) ∧
      (released → s.job = none → st = 0 → s.flCheck (.erase x) = none → Completes .flagReerase s fun t =>
        t.fl.op = some (.erase x) ∧ t.fl.reRun = true ∧ t.flState = 2 ∧ x ∈ t.flagCells ∧ t.flash = s.flash) ∧
      (∀ e, released → s.job = none → st = 0 → s.flCheck (.erase x) = some e → Completes .flagReerase s fun t =>
        t.fl.reerase = s.fl.reerase.erase x ∧ t.fget sts FlSts.err = e ∧ t.flash = s.flash ∧ t.fl.op = s.fl.op)) ∧
    (∀ (l : Nat) (who : Option (Nat × Nat)) (die : Option Nat) (rest : List FlReq), st ≠ 1 → st ≠ 4 →
      (s.fbit Csr.mbInfo MbInfo.ready = false ∨ s.fl.rr = 3) → s.fl.reads = .window l who die :: rest →
      let line := 0x05800000 / 32 + l
      let sec := line / 128
      let n := (s.lineBad line).1
      let bad := (s.lineBad line).2
      let under := s.underErase sec
      let data := BitVec.ofNat 256 (Memory.readLE 0xFF s.flash (32 * line) 32)
      let poison := under || bad
      let suspends (t : State) : Prop :=
        t.fget sts FlSts.autosusp = (if st = 2 then 1 else s.fget sts FlSts.autosusp) ∧ t.fl.reads = rest ∧ t.fl.rr = 0
      let counted (t : State) : Prop :=
        t.fget Csr.flCorrCnt FlCorrCnt.bits = (if under then s.fget Csr.flCorrCnt FlCorrCnt.bits
          else min (s.fget Csr.flCorrCnt FlCorrCnt.bits + n) (2 ^ 32 - 1)) ∧
        t.fget Csr.flEwCnt FlEwCnt.ew = (if under = false ∧ s.ewThr ≤ n then min (s.fget Csr.flEwCnt FlEwCnt.ew + 1) (2 ^ 16 - 1)
          else s.fget Csr.flEwCnt FlEwCnt.ew) ∧
        t.fget Csr.flEwCnt FlEwCnt.uncorr = (if under = false ∧ bad = true then min (s.fget Csr.flEwCnt FlEwCnt.uncorr + 1) (2 ^ 16 - 1)
          else s.fget Csr.flEwCnt FlEwCnt.uncorr) ∧
        (under = false → bad = true → s.fbit Csr.flEccLog FlEccLog.valid = false →
          t.fget Csr.flEccLog FlEccLog.valid = 1 ∧ t.fget Csr.flEccLog FlEccLog.req = 3 ∧
          t.fget Csr.flEccLog FlEccLog.line = line % 2 ^ 22) ∧
        ((under = true ∨ bad = false ∨ s.fbit Csr.flEccLog FlEccLog.valid = true) → t.csrGet Csr.flEccLog = s.csrGet Csr.flEccLog)
      (∀ (d : Die) (e : Eng) (rd o : Nat) (pair : Bool), who = some (d.val, e.val) → (s.eng d e).wait = .flash rd pair o →
        (if pair then pairOk rd = true else rd < 24) →
        (poison = true → s.fbit (Csr.engCtrl d e) EngCtrl.ptrap = false) →
        Completes .flashReadAccess s fun t =>
          let v : BitVec 64 := (data >>> (8 * (o % 32))).setWidth 64
          suspends t ∧ counted t ∧ WroteRegs s t d e rd pair v ∧
          t.eng d e = { (s.eng d e).went 0 ((s.eng d e).pc + 1) with ost := ost 0 poison false 0 } ∧ t.flash = s.flash) ∧
      (∀ d : Die, who = none → die = some d.val →
        (s.borderOpen d 0 = true → Completes .flashReadAccess s fun t =>
          suspends t ∧ counted t ∧ t.flash = s.flash ∧
          t.outbox = s.outbox ++ (List.range 16).map (fun i =>
            .fabric d ufwPort (((data >>> (16 * i)).setWidth 16).setWidth 256) poison false) ∧
          SMap.get [] t.fabIn (fabInKey d ufwPort) = SMap.get [] s.fabIn (fabInKey d ufwPort) ++
            (List.range 16).map (fun i => ⟨[(data >>> (16 * i)).setWidth 16], poison, false⟩) ∧
          t.fget (Csr.ufwCnt d) UfwCnt.lines =
            min (s.fget (Csr.ufwCnt d) UfwCnt.lines + 1) (2 ^ UfwCnt.lines.width - 1) ∧
          (poison = true → t.fget (Csr.ufwSts d) UfwSts.poison = 1)) ∧
        (s.borderOpen d 0 = false → Completes .flashReadAccess s fun t => suspends t ∧ counted t ∧ t.outbox = s.outbox))) ∧
    (st ≠ 1 → st ≠ 4 → s.fl.reads = [] →
      (s.fbit Csr.mbInfo MbInfo.ready = false → idleLeft .flashReadAccess) ∧
      (Completes .flashReadAccess s fun t => t = { s with draws := t.draws } ∨
        ∃ line, fwCopyOf (line / 128) = some (s.fget Csr.flProt FlProt.fwRun) ∧ t.fl.lastFetch = some line ∧
          let hit : Prop := line ∈ s.fl.prefetch ∨ line ∈ s.fl.branch
          let next : Prop := s.fl.lastFetch = some (line - 1) ∧ line ≠ 0
          t.fget Csr.flCacheCnt FlCacheCnt.misses = (if hit then s.fget Csr.flCacheCnt FlCacheCnt.misses
            else min (s.fget Csr.flCacheCnt FlCacheCnt.misses + 1) (2 ^ 16 - 1)) ∧
          t.fl.prefetch = (if ¬ hit ∧ next then [line, line + 1, line + 2, line + 3] else s.fl.prefetch) ∧
          (¬ hit → ¬ next → t.fl.branch = (line :: s.fl.branch).take 16)))

/-- R310, R331, R332, R402, R403 (10 R349; 11 R372): RESET kinds 1 to 3 are refused as R402 lists; kind 1 resets the die and
reloads it, kind 2 holds the reach until it is released alone, kind 3 resets the engine with its notice. Kind 4 and the watchdog
restart Ixken: waiting commands, sessions and jobs end, the logic dies go on. A trial copy that ran 10 s becomes PRIMARY.
NOT_PRESENT without an image, resets of a die being rebuilt, and operations that S completes are log entries 55, 60, 61, 79. -/
def Obligations.ResetsByMessage : Prop :=
  ∀ (h : CmdHdr) (s : State),
    let a := s.arrived h
    let taken : Prop := s.Takes h 0x0501 3 Gate.open_
    let answers (c : Instr) (st : Nat) : Prop := Completes c s fun t => t = a.respond h 0x0501 st []
    let answered (t : State) : Prop := (a.respond h 0x0501 St.ok []).outbox <+: t.outbox
    (∀ die : BitVec 8, taken →
      let d := die.toNat
      let c := Instr.resetDie h die
      (s.noDie d = true → answers c St.notPresent) ∧
      (s.noDie d = false → s.swapHard = true → answers c St.busy) ∧
      (s.noDie d = false → s.swapHard = false → s.dieRebuilding d = true → answers c St.ok) ∧
      (s.noDie d = false → s.swapHard = false → s.dieRebuilding d = false → Completes c s fun t =>
        answered t ∧ t.DieHeld d ∧ (∀ d' < 8, d' ≠ d → ∀ e < 64, t.eng d' e = s.eng d' e) ∧ t.bankMem = s.bankMem ∧ t.flash = s.flash ∧
        t.dieOn d = true ∧
        (s.fromSlot = true → s.part.headerOk (listRd (s.slotHeader (s.source - 1))) = true → s.load = none →
          t.load = some (freshLoad (.dies [d]) s.source (s.slotHeader (s.source - 1)) []) ∧
          t.fget (Csr.cfgSts d) CfgSts.shadow = 1 ∧ t.pwr.resetBy = s.pwr.resetBy ++ [d]))) ∧
    (∀ die reach : BitVec 8, taken →
      let d := die.toNat
      let r := reach.toNat
      let c := Instr.resetReach h die reach
      let may : Prop := s.noDie d = false ∧ r ≤ 15 ∧ s.swapHard = false
      (s.noDie d = true → answers c St.notPresent) ∧
      (s.noDie d = false → 15 < r → answers c St.badArgument) ∧
      (s.noDie d = false → r ≤ 15 → s.swapHard = true → answers c St.busy) ∧
      (may → s.gated d r = true → answers c St.notPresent) ∧
      (may → s.gated d r = false → s.reachBusy d r = true → answers c St.ok) ∧
      (∀ (dd : Die) (rr : Reach), d = dd.val → r = rr.val → may → s.gated d r = false → s.reachBusy d r = false → Completes c s fun t =>
        answered t ∧ t.inReset d r = true ∧ t.isolated d r = true ∧ t.writesEnabled d r = false ∧
        (∀ col < 48, ∀ row < 32, t.cell d r col row = Cell.reset) ∧
        t.releases = s.releases ++ [{ scope := .reach dd rr, step := 0, why := .q true, skip := [] }] ∧
        t.engs = s.engs ∧ t.bankMem = s.bankMem ∧ t.frames = s.frames ∧ t.planes = s.planes)) ∧
    (∀ die eng : BitVec 8, taken →
      let d := die.toNat
      let e := eng.toNat
      let c := Instr.resetEng h die eng
      (s.noDie d = true → answers c St.notPresent) ∧
      (s.noDie d = false → 63 < e → answers c St.badArgument) ∧
      (s.noDie d = false → e ≤ 63 → s.dieRebuilding d = true → answers c St.ok) ∧
      (s.noDie d = false → e ≤ 63 → s.dieRebuilding d = false → Completes c s fun t =>
        answered t ∧ t.eng d e = { Engine.reset with pushes := (t.eng d e).pushes } ∧
        (∀ win < 7, ∀ r < 24, t.regIn d e win r = 0) ∧ t.scratch = s.scratch ∧ t.store = s.store ∧
        ((s.eng d e).running = false → (t.eng d e).pushes = (s.eng d e).pushes ∧
          ∀ d' e', e' < 64 → (d', e') ≠ (d, e) → t.eng d' e' = s.eng d' e') ∧
        ((s.eng d e).running = false → (s.waiting d).length < 64 →
          t.waiting d = s.waiting d ++ [s.item d 0x0809 [(1, 3), (1, d), (1, e), (1, 0)]]))) ∧
    (∀ r ∈ [(Instr.resetSteward h, taken, PwrRstCause.sMsg, s.pwr.wdtCount),
        (.watchdogExpiry, s.pwr.pwrgood = true ∧ s.pwr.hotLow = false, PwrRstCause.wdt, min (2 ^ 32 - 1) (s.pwr.wdtCount + 1))],
      r.2.1 → s.job = none → (∀ c, s.fl.op ≠ some (.rdp c)) → Completes r.1 s fun t =>
        t.fget Csr.pwrRstCause r.2.2.1 = 1 ∧ t.pwr.wdtCount = r.2.2.2 ∧ t.pwr.cause = 2 ∧
        t.cmds = [] ∧ t.refused = [] ∧ t.mboxes = [] ∧ t.sess = none ∧ t.certs = [] ∧ t.job = none ∧ t.otpBusy = none ∧
        t.fl.op = none ∧ t.fl.susp = none ∧ t.flState = 0 ∧ t.trans = { eids := [], i3c := none } ∧
        t.engs = s.engs ∧ t.bankMem = s.bankMem ∧ t.planes = s.planes ∧ t.tasks = s.tasks ∧ t.ditches = s.ditches ∧
        (∀ d, s.dieOn d = true → t.dieOn d = true ∧ (s.tapHeld = false → t.released d = s.released d)) ∧
        (∀ w v, s.otpBusy = some (w, v) → t.otpWord w = s.otpWord w ||| v)) ∧
    (taken → Completes (.resetSteward h) s fun t => answered t) ∧
    (let run := s.fget Csr.flProt FlProt.fwRun
      let due : Prop := s.fbit Csr.mbInfo MbInfo.ready = true ∧ s.bootTrial = true ∧ run ≠ s.bootPrimary
      (due → Completes .trialPromote s fun t =>
        t.bootPrimary = run ∧ t.bootTrial = false ∧ (∀ w, w / 512 ≠ 24452 → w / 512 ≠ 24453 → t.flWord w = s.flWord w) ∧
        t = { s with flash := t.flash, flashBad := t.flashBad }) ∧
      (¬ due → Completes .trialPromote s fun t => t = s))

/-- R14, R348, R358, R366, R367, R399, R401, R404 (08 R277; 12 R381): kinds P and H. Both leave every die held and no command
waiting; P clears the hosts and the milestone, H keeps them; the flash and OTP operation completes before H, and is cut by a
fall of PWRGOOD. The full start takes the option copy, decodes the life cycle, powers every die and loads the preferred slot.
The order of the start and the cut of power are log entries 79, 80, 82. -/
def Obligations.FullStart : Prop :=
  ∀ s : State,
    let held (t : State) : Prop := ∀ d < s.part.dies, t.DieHeld d
    let quiet (t : State) : Prop :=
      t.cmds = [] ∧ t.refused = [] ∧ t.sess = none ∧ t.swap = none ∧ t.jobs = [] ∧ t.job = none ∧ t.fl.op = none ∧ t.flState = 0 ∧
      t.otpBusy = none ∧ t.releases = [] ∧ t.source = 0 ∧ t.image = []
    let started (t : State) : Prop :=
      let pref := if t.opt 5 = 1 then 2 else 1
      t.options = t.optRecord ∧ t.fget Csr.lcSts LcSts.state = (lcDecode t.otpWord).1 ∧
      t.fget Csr.flFlagSts FlFlagSts.count = s.flagCells.length % 2 ^ 15 ∧ t.fget Csr.flProt FlProt.level = t.protLevel ∧
      (∀ d < s.part.dies, t.dieOn d = true) ∧ t.fget Csr.pwrSts PwrSts.state = 1 ∧
      (t.lcPermits = false → t.load = none ∧ t.tow.started = true) ∧
      (t.lcPermits = true → t.slotLoadable (pref - 1) = true → t.part.headerOk (listRd (t.slotHeader (pref - 1))) = true →
        ∃ l, t.load = some l ∧ l.kind = .start ∧ l.source = pref ∧ l.hdr = t.slotHeader (pref - 1) ∧ l.next = List.replicate 8 0 ∧
          ∀ d < s.part.dies, t.fget (Csr.cfgSts d) CfgSts.shadow = 1)
    (∀ st : StartInfo,
      (s.pwr.pwrgood = true → Completes (.powerOnReset st) s fun t => t = s) ∧
      (s.pwr.pwrgood = false → Completes (.powerOnReset st) s fun t =>
        held t ∧ quiet t ∧ started t ∧ t.pwr.pwrgood = true ∧ t.hosts = [] ∧ t.refMs = 0 ∧ t.tap = .idcode ∧
        t.fget Csr.pwrRstCause PwrRstCause.por = 1 ∧ t.fget Csr.pwrRstCause PwrRstCause.wdt = 0 ∧
        (∀ d < s.part.dies, t.msOf d = 0) ∧
        t.fget Csr.towSts TowSts.head = (if st.headHigh ∨ (st.headOpen ∧ bitOf (t.opt 6) 1 = true) then 1 else 0))) ∧
    ((s.pwr.pwrgood = true ∧ s.pwr.hotLow = false → Completes .hotRstPin s fun t =>
        held t ∧ quiet t ∧ t.pwr.hotLow = true ∧ t.hosts = s.hosts ∧ t.refMs = s.refMs ∧ t.ms = s.ms ∧
        t.fget Csr.pwrRstCause PwrRstCause.hotPin = 1 ∧
        (∀ f ∈ [PwrRstCause.por, PwrRstCause.hotMsg, PwrRstCause.wdt, PwrRstCause.sMsg, PwrRstCause.tow],
          t.fget Csr.pwrRstCause f = s.fget Csr.pwrRstCause f) ∧
        (∀ d < 8, t.dieOn d = false) ∧
        (∀ w v, s.otpBusy = some (w, v) → t.otpWord w = s.otpWord w ||| v) ∧
        (∀ x b v, s.fl.op = some (.prog x v b) → s.fl.susp = none → t.flWord (x / 8) = (if b then s.flWord (x / 8) &&& v else v))) ∧
      (¬ (s.pwr.pwrgood = true ∧ s.pwr.hotLow = false) → Completes .hotRstPin s fun t => t = s)) ∧
    (∀ st : StartInfo,
      (s.pwr.hotLow = true → s.load = none → (∀ d < 8, s.released d = false) → Completes (.hotRstRise st) s fun t => started t ∧ t.pwr.hotLow = false ∧ t.hosts = s.hosts ∧ t.refMs = s.refMs) ∧
      (s.pwr.hotLow = false → Completes (.hotRstRise st) s fun t => t = s)) ∧
    (∀ (h : CmdHdr) (st : StartInfo), s.Takes h 0x0501 3 Gate.open_ → s.fl.op = none → s.fl.susp = none →
      Completes (.resetHot h st) s fun t =>
        held t ∧ quiet t ∧ started t ∧ t.hosts = (s.arrived h).hosts ∧ t.refMs = s.refMs ∧
        t.fget Csr.pwrRstCause PwrRstCause.hotMsg = 1 ∧ ((s.arrived h).respond h 0x0501 St.ok []).outbox <+: t.outbox) ∧
    (∀ word : Option (BitVec 64),
      (s.pwr.pwrgood = false → Completes (.pwrgoodFall word) s fun t => t = s) ∧
      (s.pwr.pwrgood = true → Completes (.pwrgoodFall word) s fun t =>
        held t ∧ quiet t ∧ t.pwr.pwrgood = false ∧ t.pwr.hotLow = false ∧ t.hosts = [] ∧ t.refMs = 0 ∧ (∀ d < 8, t.dieOn d = false) ∧
        (s.fl.op = none → s.fl.susp = none → s.otpBusy = none → t.flash = s.flash ∧ t.otp = s.otp ∧ t.flagCells = s.flagCells) ∧
        (∀ x v b, s.fl.op = some (.prog x v b) → s.fl.susp = none →
          (∀ n ≠ x / 8, t.flWord n = s.flWord n) ∧
          t.flWord (x / 8) = (match word with
            | some w => s.flWord (x / 8) &&& (v ||| w)
            | none => if b then s.flWord (x / 8) &&& v else v)) ∧
        (∀ x w, s.fl.op = some (.erase x) → s.fl.susp = none → word = some w →
          x ∈ t.flagCells ∧ ∀ n, n / 512 ≠ x → t.flWord n = s.flWord n) ∧
        (∀ i v w, s.otpBusy = some (i, v) → word = some w → t.otpWord i = s.otpWord i ||| (v &&& ~~~w))))

/-- R386, R390 to R395, R397: STANDBY switches every die off after its answer; a wake powers every die, with PSIG only once
RAIL_OK rises, takes the gate masks and reloads; without RAIL_OK the device stays in STANDBY. A mask that changes nothing
changes nothing; a reach that becomes gated is isolated and its banks lose power; a waking reach is checked, then released. A
matcher fires at DEB + 1 samples. Banks of gated reaches and matcher samples are log entries 49, 85. -/
def Obligations.PowerStates : Prop :=
  ∀ s : State,
    (∀ (h : CmdHdr) (masks : List (BitVec 16)), s.Takes h 0x0502 18 Gate.open_ →
      let a := s.arrived h
      let off := Instr.powerStateStandby h masks
      let run := Instr.powerStateRun h masks
      let answers (c : Instr) (st : Nat) : Prop := Completes c s fun t => t = a.respond h 0x0502 st []
      let fit : Prop := s.powerBusy = false ∧ s.badMasks masks = false
      (s.powerBusy = true → answers off St.busy ∧ answers run St.busy) ∧
      (s.powerBusy = false → (∃ d < 8, maskOf masks d ≠ 0) → answers off St.badArgument) ∧
      (s.powerBusy = false → s.badMasks masks = true → answers run St.badArgument) ∧
      (s.powerBusy = false → (∀ d < 8, maskOf masks d = 0) →
        (s.inStandby = true → answers off St.ok) ∧
        (s.inStandby = false → Completes off s fun t =>
          (∀ d < 8, t.dieOn d = false) ∧ t.inStandby = true ∧ t.load = none ∧ t.hostImage = none ∧ t.releases = [] ∧
          (∀ p < s.part.dies * 8, s.dieOn (p / 8) = true → t.fbit (Csr.gwLinkSts (p / 8) (p / 4 % 2) (p % 4)) GwLinkSts.up = false) ∧
          (a.respond h 0x0502 St.ok []).outbox <+: t.outbox ∧ t.source = s.source ∧
          ((s.waiting stw).length < 64 → t.waiting stw = s.waiting stw ++
            [s.item stw 0x0804 [(1, s.fget Csr.pwrSts PwrSts.state), (1, 0), (1, t.fget Csr.pwrSts PwrSts.dieOn)]]))) ∧
      (fit → s.inStandby = true → s.fbit Csr.pinEn PinEn.psig = true → Completes run s fun t =>
        t.fget Csr.pwrSts PwrSts.railWait = 1 ∧ t.inStandby = true ∧
        t.cmds = s.cmds ++ [{ hdr := h, op := 0x0502, work := .wake, aborts := [] }] ∧
        t.pwr = { s.pwr with wake := some { cmd := some h, old := 0, rails := true, masks := masks, dies := [], reaches := [] } } ∧
        OnlyRegs s t [Csr.pwrSts]) ∧
      (fit → s.inStandby = true → s.fbit Csr.pinEn PinEn.psig = false → s.fromSlot = true → s.tapHeld = false → s.load = none →
        s.part.headerOk (listRd (s.slotHeader (s.source - 1))) = true → Completes run s fun t =>
          (∀ d < s.part.dies, t.dieOn d = true ∧ t.DieHeld d ∧ t.fget (Csr.pwrGate d) PwrGate.gated = maskOf masks d) ∧
          t.fget Csr.pwrSts PwrSts.state = 1 ∧
          t.cmds = s.cmds ++ [{ hdr := h, op := 0x0502, work := .wake, aborts := [] }] ∧
          t.pwr.wake = some { cmd := some h, old := 0, rails := false, masks := masks, dies := List.range s.part.dies, reaches := [] } ∧
          t.load = some (freshLoad (.dies (List.range s.part.dies)) s.source (s.slotHeader (s.source - 1)) [])) ∧
      (fit → s.inStandby = false → (∀ d < s.part.dies, s.dieOn d = true) →
        ((∀ d < s.part.dies, s.fget (Csr.pwrGate d) PwrGate.gated = maskOf masks d) → Completes run s fun t =>
          t.cmds = s.cmds ∧ t.outbox = (a.respond h 0x0502 St.ok []).outbox ∧ t.engs = s.engs ∧ t.bankMem = s.bankMem ∧
          t.held = s.held ∧ t.clearing = s.clearing ∧ t.queues = s.queues ∧ t.pwr.wake = none) ∧
        (∀ (d : Die) (r : Reach), d.val < s.part.dies → s.gated d r = false → bitOf (maskOf masks d) r = true →
          Completes run s fun t =>
            t.gated d r = true ∧ t.isolated d r = true ∧ t.inReset d r = true ∧
            ∀ b ∈ [3 * r.val, 3 * r.val + 1, 3 * r.val + 2], t.bankUnav d b = true))) ∧
    (let waits : Prop := ∃ w, s.pwr.wake = some w ∧ w.rails = true;
      (¬ waits → (Completes .railOkRise s fun t => t = s) ∧ Completes .railOkTimeout s fun t => t = s) ∧
      (∀ w : WakeSt, s.pwr.wake = some w → w.rails = true →
        (s.fromSlot = true → s.tapHeld = false → s.load = none → s.part.headerOk (listRd (s.slotHeader (s.source - 1))) = true →
          Completes .railOkRise s fun t =>
            (∀ d < s.part.dies, t.dieOn d = true ∧ t.DieHeld d ∧ t.fget (Csr.pwrGate d) PwrGate.gated = maskOf w.masks d) ∧
            t.fget Csr.pwrSts PwrSts.railWait = 0 ∧ t.pwr.wake = some { w with rails := false, dies := List.range s.part.dies }) ∧
        (∀ (h : CmdHdr) (q : Cmd), w.cmd = some h → s.cmds = [q] → q.hdr = h → q.aborts = [] → (s.waiting stw).length < 64 →
          Completes .railOkTimeout s fun t =>
            t.pwr = { s.pwr with wake := none } ∧ t.fget Csr.pwrSts PwrSts.railWait = 0 ∧ t.cmds = [] ∧
            t.fget Csr.pwrSts PwrSts.dieOn = s.fget Csr.pwrSts PwrSts.dieOn ∧
            (∃ x, t.waiting stw = s.waiting stw ++ [s.item stw 0x0807 [(1, 0), (1, x)]]) ∧
            ∃ u, t = State.respond u h q.op St.timeout []))) ∧
    (∀ (d : Die) (r : Reach) (j : ReachJob), s.jobOf d r = some j → j.kind = .wake → s.dieOn d = true →
      (∀ f < 1280, SMap.get [] s.frameBad (frameNo (s.plane d r) d r f) = []) → Completes (.reachWakeCheckDone d r) s fun t =>
        t.jobOf d r = none ∧ t.frames = s.frames ∧
        (∀ b ∈ [3 * r.val, 3 * r.val + 1, 3 * r.val + 2], t.bankClearing d b = false ∧
          (s.bankClearing d b = true → t.bankUnav d b = false)) ∧
        t.releases = s.releases.filter (fun x => x.scope ≠ .reach d r) ++ [{ scope := .reach d r, step := 1, why := .wake, skip := [] }] ∧
        (s.gated d r = false → t.isolated d r = false)) ∧
    (∀ (m : Fin 4) (levels : BitVec 32),
      let cfg := Csr.pmCfg m
      let u := { s.csrSet Csr.gpioIn levels with pins := { s.pins with levels := levels } }
      let x := u.pmByte m levels
      let cond : Prop := ((x &&& s.fget cfg PmCfg.mask) = (s.fget cfg PmCfg.value &&& s.fget cfg PmCfg.mask)) ↔ s.fget cfg PmCfg.mode = 0
      let n := s.pins.pmCount.getD m 0
      let was := s.pins.pmFired.getD m false
      let on : Prop := s.fbit cfg PmCfg.en = true
      let fires : Prop := cond ∧ was = false ∧ s.fget cfg PmCfg.deb < n + 1
      (∀ k < 8, bitOf x k = levels.getLsbD (u.pmSel m k)) ∧
      (s.pins.pmCount.length = 4 → s.pins.pmFired.length = 4 → Completes (.patternMatchFire m levels) s fun t =>
        t.csrGet Csr.gpioIn = levels ∧ t.pins.levels = levels ∧
        (on → ¬ cond → t.pins.pmCount.getD m 0 = 0 ∧ t.pins.pmFired.getD m false = false ∧
          bitOf (t.fget Csr.pmSts PmSts.cond) m = false ∧ t.queues = s.queues) ∧
        (on → cond → t.pins.pmCount.getD m 0 = n + 1 ∧ bitOf (t.fget Csr.pmSts PmSts.cond) m = true) ∧
        (on → fires → bitOf (t.fget Csr.pmSts PmSts.hit) m = true ∧ t.pins.pmFired.getD m false = true) ∧
        (on → fires → s.inStandby = false → (s.waiting stw).length < 64 →
          t.waiting stw = s.waiting stw ++ [s.item stw 0x0801 [(1, m), (1, x)]]) ∧
        (on → fires → s.fbit cfg PmCfg.wake = true → s.inStandby = true → s.pwr.wake = none → s.fbit Csr.pinEn PinEn.psig = true →
          t.pwr.wake = some { cmd := none, old := 0, rails := true, masks := [], dies := [], reaches := [] }) ∧
        (on → ¬ fires → t.queues = s.queues ∧ t.fget Csr.pmSts PmSts.hit = s.fget Csr.pmSts PmSts.hit)))

/-- R395 to R397, R399, R400 (05 R172): a sample above 125 °C switches its die off with TRIPPED, TRIP and the notice, as does an
undervoltage with CORE_UV; the first sample after a trip does at 115 °C or more. A governor step writes one 5 mV step over
AVSBus; the third write in a row that is not acknowledged sets FAULT and keeps the last acknowledged target. A governor step of
a die that is off is log entry 83. -/
def Obligations.TripsAndGovernor : Prop :=
  ∀ (d : Die) (s : State),
    let off (t : State) : Prop :=
      t.dieOn d = false ∧ bitOf (t.fget Csr.pwrSts PwrSts.tripped) d = true ∧
      (∀ d' < 8, d' ≠ d.val → t.dieOn d' = s.dieOn d' ∧ ∀ e < 64, t.eng d' e = s.eng d' e) ∧ t.swap = none
    let quiet : Prop := s.swap = none ∧ s.pwr.resetBy = [] ∧ s.pwr.wake = none ∧ s.bist = none
    let lost (t : State) (thermal : Bool) : Prop :=
      t.pwr.tripAt = s.pwr.tripAt.filter (fun x => x.1 ≠ d.val) ++ [(d.val, s.refMs, thermal)] ∧
      t.pwr.retrip = s.pwr.retrip.filter (· ≠ d.val)
    (s.dieOn d = false → (∀ x, Completes (.thermalTrip d x) s fun t => t = s) ∧ (Completes (.coreUndervoltage d) s fun t => t = s)) ∧
    (∀ x : Int, s.dieOn d = true →
      let trips : Prop := 500 < x ∨ d.val ∈ s.pwr.retrip ∧ 460 ≤ x
      (¬ trips → Completes (.thermalTrip d x) s fun t =>
        t = { s with pwr := { s.pwr with retrip := s.pwr.retrip.filter (· ≠ d.val) } }) ∧
      (trips → quiet → Completes (.thermalTrip d x) s fun t =>
        off t ∧ lost t true ∧ bitOf (t.fget Csr.pwrRstCause PwrRstCause.trip) d = true ∧
        (∃ rest, t.waiting d = rest ++ [s.item d 0x0806 [(1, d), (2, wrapInt 16 x)]] ∨ 64 ≤ rest.length ∧ t.waiting d = rest))) ∧
    (s.dieOn d = true → quiet → Completes (.coreUndervoltage d) s fun t =>
      off t ∧ lost t false ∧ bitOf (t.fget Csr.pwrRstCause PwrRstCause.coreUv) d = true) ∧
    (let r := Csr.pwrVcore d
      let may : Prop := s.dieOn d = true ∧ s.fbit Csr.pinEn PinEn.avs = true ∧ s.fbit r PwrVcore.fault = false
      let now := s.fget r PwrVcore.target
      let bad := SMap.get 0 s.pwr.nacks d
      let due : Prop := ∀ m, SMap.find s.pwr.avsAt d = some m → m + 100000 ≤ s.refMs
      ∀ up ack : Bool,
        (¬ may → Completes (.voltageGovernorStep d up ack) s fun t => t = s) ∧
        (may → bad = 0 → ¬ due → Completes (.voltageGovernorStep d up ack) s fun t => t = s) ∧
        (may → bad = 0 → (up = true → 795 < now) → (up = false → now < 725) → Completes (.voltageGovernorStep d up ack) s fun t => t = s) ∧
        (∀ v < 1024, may → (bad ≠ 0 ∧ v = now ∨ bad = 0 ∧ due ∧ (up = true ∧ v = now + 5 ∧ v ≤ 800 ∨ up = false ∧ now = v + 5 ∧ 720 ≤ v)) →
          (ack = true ∨ bad < 2 → Completes (.voltageGovernorStep d up ack) s fun t =>
            t.fget r PwrVcore.target = v ∧ t.fget r PwrVcore.ack = (if ack then 1 else 0) ∧ t.fget r PwrVcore.fault = 0 ∧
            t.outbox = s.outbox ++ [.avs d v] ∧ SMap.get 0 t.pwr.nacks d = (if ack then 0 else bad + 1) ∧
            (ack = true → SMap.find t.pwr.acked d = some v) ∧ OnlyRegs s t [r] ∧
            t = { s with csr := t.csr, outbox := t.outbox, pwr := t.pwr }) ∧
          (ack = false → 2 ≤ bad → Completes (.voltageGovernorStep d up ack) s fun t =>
            t.fget r PwrVcore.target = SMap.get 800 s.pwr.acked d % 1024 ∧ t.fget r PwrVcore.fault = 1 ∧
            t.outbox = s.outbox ++ [.avs d v] ∧ OnlyRegs s t [r, Csr.ndQdropCnt (queueOf d)])))

/-- R379, R380, R382, R383, R387, R388, R400: PIN_EN gives every pin that is not locked to the enabled block of lowest priority
number that claims it; three writes in a row lock pins; a short turns its driver off until 1 is written to its bit; the
open-wire test takes the pins that are selected and not skipped, and a pin that samples 1 under the pull-up and 0 under the
pull-down is open. The width of SPI and the levels of the blocks' pins are log entries 85, 116. -/
def Obligations.StewardPins : Prop :=
  ∀ s : State,
    (∀ v : Word, Completes (.pinEnWrite v) s fun t =>
      let b (i : Nat) : Prop := v.getLsbD i = true
      let w := t.pins.spiWidth
      let spi (p : Nat) : Prop := p ≤ 1 ∨ p = 3 ∨ p = 4 ∨ 4 ≤ w ∧ (p = 5 ∨ p = 6) ∨ w = 8 ∧ (p = 2 ∨ 7 ≤ p ∧ p ≤ 10)
      let uart (p : Nat) : Prop := b 4 ∧ 24 ≤ p ∧ p ≤ 27 ∨ ¬ b 4 ∧ 7 ≤ p ∧ p ≤ 10
      let free (p : Nat) : Prop := p < 32 ∧ s.pinLocked p = false
      t.csrGet Csr.pinEn = BitVec.ofNat 32 (v.toNat % 128) ∧ t.pins.lockSeq = 0 ∧
      (∀ p < 32, s.pinLocked p = true → t.pinOwner p = s.pinOwner p) ∧
      (w = 1 ∨ w = 4 ∨ w = 8 → ∀ p, free p →
        (b 0 → spi p → t.pinOwner p = 1) ∧
        (¬ (b 0 ∧ spi p) →
          (b 1 → p = 11 ∨ p = 12 → t.pinOwner p = 2) ∧ (b 2 → 14 ≤ p → p ≤ 16 → t.pinOwner p = 3) ∧
          (b 3 → uart p → t.pinOwner p = 4) ∧ (b 5 → p = 19 ∨ p = 20 → t.pinOwner p = 5) ∧ (b 6 → p = 17 ∨ p = 18 → t.pinOwner p = 6) ∧
          (¬ (b 1 ∧ (p = 11 ∨ p = 12)) → ¬ (b 2 ∧ 14 ≤ p ∧ p ≤ 16) → ¬ (b 3 ∧ uart p) → ¬ (b 5 ∧ (p = 19 ∨ p = 20)) →
            ¬ (b 6 ∧ (p = 17 ∨ p = 18)) → t.pinOwner p = 0))) ∧
      (b 0 → s.fbit Csr.pinEn PinEn.spi = false → w = 1 ∨ w = 4 ∨ w = 8) ∧
      ((¬ b 0 ∨ s.fbit Csr.pinEn PinEn.spi = true) → w = s.pins.spiWidth) ∧
      (¬ b 2 → ∀ d < s.part.dies, t.fget (Csr.pwrVcore d) PwrVcore.target = 800) ∧
      OnlyRegs s t (Csr.pinEn :: (List.range s.part.dies).map Csr.pwrVcore) ∧ (b 2 → OnlyRegs s t [Csr.pinEn]) ∧
      t = { s with csr := t.csr, pins := t.pins, draws := t.draws }) ∧
    (∀ v : Word,
      (Completes (.gpioLockKeyWrite v) s fun t =>
        t = { s with pins := { s.pins with lockSeq := if v = 0x1C0C then 1 else if v = 0xE3F3 ∧ s.pins.lockSeq = 1 then 2 else 0 } }) ∧
      (Completes (.gpioLockWrite v) s fun t =>
        t.csrGet Csr.gpioLock = (if s.pins.lockSeq = 2 then s.csrGet Csr.gpioLock ||| v else s.csrGet Csr.gpioLock) ∧
        OnlyRegs s t [Csr.gpioLock] ∧ t = { s with csr := t.csr, pins := { s.pins with lockSeq := 0 } }) ∧
      (Completes (.shortClearWrite none v) s fun t =>
        t.csrGet Csr.gpioShort = (s.csrGet Csr.gpioShort &&& ~~~v) ∧ OnlyRegs s t [Csr.gpioShort] ∧
        t = { s with csr := t.csr, pins := { s.pins with lockSeq := 0 } }) ∧
      (∀ d : Die, s.dieOn d = true → Completes (.shortClearWrite (some d) v) s fun t =>
        t.csrGet (Csr.uioShort d) = (s.csrGet (Csr.uioShort d) &&& ~~~v) ∧ OnlyRegs s t [Csr.uioShort d] ∧ t = { s with csr := t.csr })) ∧
    (∀ p : Fin 32,
      (s.stwDrives p = none → Completes (.pinShort none p) s fun t => t = s) ∧
      (s.stwDrives p ≠ none → Completes (.pinShort none p) s fun t =>
        bitOf (t.fget Csr.gpioShort GpioShort.short) p = true ∧ t.stwDrives p = none ∧
        (∀ q < 32, q ≠ p.val → bitOf (t.fget Csr.gpioShort GpioShort.short) q = bitOf (s.fget Csr.gpioShort GpioShort.short) q) ∧
        OnlyRegs s t [Csr.gpioShort, Csr.ndQdropCnt (queueOf stw)] ∧ t = { s with csr := t.csr, queues := t.queues, windows := t.windows }) ∧
      (∀ d : Die,
        let checked : Prop := p.val < 24 ∧ s.fget (Csr.uioCtrl d (p.val / 2 * 2)) UioCtrl.std ≠ 2 ∧ s.pinDrive d p false ≠ none
        (¬ checked → Completes (.pinShort (some d) p) s fun t => t = s) ∧
        (checked → Completes (.pinShort (some d) p) s fun t =>
          bitOf (t.fget (Csr.uioShort d) UioShort.short) p = true ∧ t.pinDrive d p false = none ∧ t.pinDrive d p true = none ∧
          OnlyRegs s t [Csr.uioShort d, Csr.ndQdropCnt (queueOf d)] ∧ t = { s with csr := t.csr, queues := t.queues, windows := t.windows }))) ∧
    (∀ (die : Option Die) (levels : BitVec 32),
      let n : Nat := match die with | none => 15 | some d => d.val
      let on : Prop := ∀ d, die = some d → s.dieOn d = true
      let ctrl := openCtrl n
      let busy := s.fbit ctrl GpioOpenCtrl.busy
      (on → busy = true → Completes (.openTestGo die levels) s fun t => t = { s with pins := t.pins } ∧ t.pins.openRun = s.pins.openRun) ∧
      (on → busy = false → Completes (.openTestGo die levels) s fun t =>
        t.fget ctrl GpioOpenCtrl.busy = 1 ∧ OnlyRegs s t [ctrl] ∧ t = { s with csr := t.csr, pins := t.pins } ∧
        ∃ x : OpenTest, t.pins.openRun = s.pins.openRun ++ [x] ∧ x.die = n ∧ x.seen = levels ∧ x.up = none ∧
          (∀ p < 32, x.tested.getLsbD p = true → (s.csrGet (openSel n)).getLsbD p = true) ∧
          (∀ p < 32, die = none → (s.csrGet Csr.gpioOpenSel).getLsbD p = true →
            x.tested.getLsbD p = (decide (s.pinOwner p = 0) && !s.gpioEnabled p)) ∧
          (∀ (d : Die) (p : Nat), die = some d → p < 24 → (s.csrGet (Csr.uioOpenSel d)).getLsbD p = true →
            (x.tested.getLsbD p = true ↔ s.fabEnable d p = false ∧ s.uioOwned d p = false ∧
              s.fget (Csr.uioCtrl d (p / 2 * 2)) UioCtrl.std = 0 ∧ s.inReset d (p / 6) = false ∧ s.pinHeld d p = false)) ∧
          (∀ p, die ≠ none → 24 ≤ p → x.tested.getLsbD p = false)) ∧
      (Completes (.openTestPulldown die levels) s fun t =>
        let run := s.pins.openRun.map (fun x => if x.die = n ∧ x.up = none then { x with up := some levels } else x)
        t = { s with pins := { s.pins with openRun := run } }) ∧
      (∀ (x : OpenTest) (up : BitVec 32), s.pins.openRun = [x] → x.die = n → x.up = some up → Completes (.openTestDone die levels) s fun t =>
        let res := x.tested &&& up &&& ~~~levels
        t.pins = { s.pins with openRun := [] } ∧ t.fget ctrl GpioOpenCtrl.busy = 0 ∧ t.csrGet (openRes n) = res ∧
        (res = 0 → t.queues = s.queues) ∧
        (res ≠ 0 → (s.waiting n).length < 64 → t.waiting n = s.waiting n ++ [s.item n 0x0803 [(1, n), (4, res.toNat)]]) ∧
        OnlyRegs s t [ctrl, openRes n, Csr.ndQdropCnt (queueOf n)]))

/-- R406 to R409, R411, R417: BIST_RUN is answered at once for bad fields, a die that is off, or a machine that is busy; else it
takes each selected die into kind D with BUSY set and the signatures expected. The end of a test records its signature, a
difference is a failure with its notice, and after a die's last test the die is held and reloaded. R413, R415, R416: BYPASS and
IDCODE are loaded always, a gated instruction only while the port is open, else it acts as BYPASS; a test instruction holds
every die in kind D, with its notice; Test-Logic-Reset selects IDCODE and reloads the dies that were held. NOT_PRESENT without
an image, unknown signatures and releases under a test instruction are log entries 61, 86. -/
def Obligations.SelfTestAndBoundaryScan : Prop :=
  (
  ∀ s : State,
    (∀ (h : CmdHdr) (kind dies mems : BitVec 8) (islands : BitVec 16) (resZero known : Bool) (ex : List (BitVec 64)),
      s.Takes h 0x0601 8 (Gate.needs Right.bist) →
      let c := Instr.bistRun h kind dies mems islands resZero known ex
      let answers (st : Nat) : Prop := Completes c s fun t => t = (s.arrived h).respond h 0x0601 st []
      let k := kind.toNat
      let fields : Prop := k ≤ 2 ∧ dies ≠ 0 ∧ mems.toNat < 32 ∧ islands.toNat < 16384 ∧ resZero = true ∧ (k ≠ 1 → islands ≠ 0) ∧ (k ≠ 0 → mems ≠ 0)
      let picked (d : Nat) : Prop := d < 8 ∧ dies.getLsbD d = true
      let there : Prop := s.noLogic = false ∧ ∀ d, picked d → s.dieOn d = true
      let idle : Prop := s.bist = none
      (s.bist ≠ none → answers St.busy) ∧
      (idle → ¬ fields → answers St.badArgument) ∧
      (idle → fields → ¬ there → answers St.notPresent) ∧
      (idle → fields → there → s.bistBusy = true → answers St.busy) ∧
      (idle → fields → there → s.bistBusy = false → Completes c s fun t =>
        t.cmds = s.cmds ++ [{ hdr := h, op := 0x0601, work := .bist, aborts := [] }] ∧
        (∀ d, picked d → t.DieHeld d ∧ t.fget (Csr.bistSts d) BistSts.busy = 1 ∧ t.dieOn d = true) ∧
        (∀ d < 8, ¬ picked d → ∀ e < 64, t.eng d e = s.eng d e) ∧ t.flash = s.flash ∧
        ∃ b : BistSt, t.bist = some b ∧ b.cmd = h ∧ b.kind = k ∧ b.mems = mems.toNat ∧ b.known = known ∧
          (∀ d, picked d → SMap.get 0 b.left d = (if k = 0 then 1 else if k = 1 then 2 else 3)) ∧ (∀ d, d ∈ b.settle ↔ picked d))) ∧
    (∀ (d : Die) (misr : BitVec 64) (b : BistSt), s.bist = some b → s.dieOn d = true →
      let left := SMap.get 0 b.left d
      ∀ r ∈ [(Instr.lbistComplete d misr, 0, (left = 1 ∨ left = 3)), (.mbistComplete d misr, 1, left = 2)], r.2.2 →
        let exp := if r.2.1 = 0 then (b.expOf (b.place d)).1 else (b.expOf (b.place d)).2
        let fail : Prop := b.known = true ∧ exp ≠ misr
        let last : Prop := left ≤ 2
        Completes r.1 s fun t =>
          (¬ last → ∃ b' : BistSt, t.bist = some b' ∧ SMap.get 0 b'.left d = 2 ∧ SMap.find b'.misrL d = some misr ∧
            b'.misrM = b.misrM ∧ b'.settle = b.settle ∧
            (SMap.get 0 b'.fails d = if fail then setBitN (SMap.get 0 b.fails d) 0 else SMap.get 0 b.fails d) ∧
            t = { s with csr := t.csr, queues := t.queues, windows := t.windows, bist := t.bist }) ∧
          (fail → (s.waiting stw).length < 64 → ¬ last →
            t.waiting stw = s.waiting stw ++ [s.item stw 0x0A02 [(1, d), (1, b.kind), (1, r.2.1)]]) ∧
          (¬ fail → ¬ last → t.queues = s.queues) ∧
          (last → t.DieHeld d ∧ (∀ d' < 8, d' ≠ d.val → ∀ e < 64, t.eng d' e = s.eng d' e) ∧ t.flash = s.flash ∧ t.otp = s.otp) ∧
          (last → s.fromSlot = true → s.tapHeld = false → s.load = none →
            s.part.headerOk (listRd (s.slotHeader (s.source - 1))) = true →
            t.load = some (freshLoad (.dies [d.val]) s.source (s.slotHeader (s.source - 1)) []) ∧
            t.fget (Csr.bistSts d) BistSts.busy = 1 ∧
            ∃ b' : BistSt, t.bist = some b' ∧ SMap.get 0 b'.left d = 0 ∧
              (if r.2.1 = 0 then SMap.find b'.misrL d else SMap.find b'.misrM d) = some misr)) ∧
    (∀ (d : Die) (misr : BitVec 64), s.bist = none →
      (Completes (.lbistComplete d misr) s fun t => t = s) ∧ Completes (.mbistComplete d misr) s fun t => t = s)) ∧
  (
  ∀ s : State,
    (Completes .tapBypass s fun t => t = { s with tap := .bypass }) ∧
    (Completes .tapIdcode s fun t => t = { s with tap := .idcode }) ∧
    (Completes .tapSamplePreload s fun t => t = { s with tap := if s.jtagOpen then .sample else .bypass }) ∧
    (∀ r ∈ [(Instr.tapExtest, Tap.extest, 3), (.tapExtestPulse, .extestPulse, 4), (.tapExtestTrain, .extestTrain, 5),
        (.tapClamp, .clamp, 6), (.tapHighz, .highz, 7)],
      (s.jtagOpen = false → Completes r.1 s fun t => t = { s with tap := .bypass }) ∧
      (s.jtagOpen = true → Completes r.1 s fun t =>
        t.tap = r.2.1 ∧ t.tapHeld = true ∧ t.releases = [] ∧ t.swap = none ∧
        (∀ d : Nat, s.dieOn d = true → t.dieOn d = true ∧ t.DieHeld d) ∧
        (s.swap = none → s.waitsFor .load = false → (s.waiting stw).length < 64 →
          t.waiting stw = s.waiting stw ++ [s.item stw 0x0A03 [(1, r.2.2)]]) ∧
        t.flash = s.flash ∧ t.otp = s.otp)) ∧
    (s.tapHeld = false → Completes .tapTestLogicReset s fun t => t = { s with tap := .idcode }) ∧
    (s.tapHeld = true → s.fromSlot = true → s.load = none → s.part.headerOk (listRd (s.slotHeader (s.source - 1))) = true →
      Completes .tapTestLogicReset s fun t =>
        t.tap = .idcode ∧ t.tapHeld = false ∧ t.engs = s.engs ∧
        t.load = some (freshLoad (.dies ((List.range s.part.dies).filter s.dieOn)) s.source (s.slotHeader (s.source - 1)) []) ∧
        ∀ d < s.part.dies, s.dieOn d = true → t.fget (Csr.cfgSts d) CfgSts.shadow = 1))

/-- R9 to R11, R13 (09 R311; 10 R342; 12 R382, R383): a write gives every field of a register what its access code of Table 00-5
says, but for the registers whose write has its own row, which it then does; an access outside the defined space, and a host's
to a Steward block without CSRRAW, changes nothing. A read returns RC fields to their reset value and leaves every other field.
Blocks without registers are log entry 94. -/
def Obligations.RegisterAccess : Prop :=
  ∀ (addr v : Word) (s : State),
    let a := addr.toNat / 4 * 4
    let d := a / 2 ^ 28
    let may (src : Access) : Prop := match src with
      | .host h => s.hostMay h a = true
      | .engine e _ => s.engCsrStatus e.val a true = St.ok
      | .config => True
    (d ≠ 15 → s.dieOn d = false → ∀ src, (Completes (.registerWrite src addr v) s fun t => t = s) ∧ Completes (.rcRead src addr) s fun t => t = s) ∧
    ((findRow a).isSome = false → isBar a = false → ∀ src,
      (Completes (.registerWrite src addr v) s fun t => t = s) ∧ Completes (.rcRead src addr) s fun t => t = s) ∧
    (∀ h, d = 15 → a / 2 ^ 24 % 16 ∈ [0, 2, 3, 6, 7, 8] → s.holds h Right.csrraw = false →
      (Completes (.registerWrite (.host h) addr v) s fun t => t = s) ∧ Completes (.rcRead (.host h) addr) s fun t => t = s) ∧
    (∀ (r : RegRow) (src : Access), findRow a = some r → s.reachable a = true → may src →
      let dies := [Rg.gwRole, Rg.hgMeter, Rg.cvCtrl, Rg.engCtrl, Rg.engSpill, Rg.engHsData, Rg.engDbgSel, Rg.taskW0, Rg.taskW1, Rg.taskW2,
        Rg.taskW3, Rg.fabPllCtrl, Rg.reachCtrl, Rg.fabIrwHi, Rg.uioDly, Rg.uspTx, Rg.bankCtrl, Rg.dqCtrl, Rg.dqWeir, Rg.fabPatchCtrl,
        Rg.uioOpenCtrl]
      let steward := [Rg.flKey, Rg.flCmd, Rg.flAddr, Rg.flDataLo, Rg.flDataHi, Rg.flCtrl, Rg.gpioLockKey, Rg.gpioLock, Rg.pinEn,
        Rg.gpioShort, Rg.gpioOe, Rg.gpioCfg, Rg.gpioOpenCtrl, Rg.mbDoorbell]
      (∀ x ∈ (if d = 15 then steward else dies), r.base ≠ x.base) → Completes (.registerWrite src addr v) s fun t =>
        (∀ f ∈ r.fields,
          let old := f.fld.get (s.csrGet a)
          let new := f.fld.get v
          f.fld.get (t.csrGet a) = (match f.acc with
            | .rw | .rwl => new
            | .w1c => old - (old &&& new)
            | .w1s => old ||| new
            | .ro | .rc | .wo => old)) ∧
        OnlyRegs s t [a] ∧
        t = { s with csr := t.csr, pins := if d = 15 ∧ a / 2 ^ 24 % 16 = 1 then { s.pins with lockSeq := 0 } else s.pins }) ∧
    (∀ (r : RegRow) (src : Access), findRow a = some r → s.reachable a = true →
      (match src with
        | .host h => s.hostMay h a = true
        | .engine e _ => s.engCsrStatus e.val a false = St.ok
        | .config => True) →
      let dies := [Rg.dirSts, Rg.engCtrl, Rg.engSts, Rg.engHsData, Rg.engDbgSel, Rg.engDbgData, Rg.engLockSts, Rg.schSts, Rg.taskW3,
        Rg.sluSts, Rg.sluFabCost, Rg.msSts, Rg.msLo, Rg.uioSts, Rg.uspRx, Rg.uspSts, Rg.bankInfo, Rg.bankSts, Rg.dqSts, Rg.cfgSts]
      let steward := [Rg.flProt, Rg.gpioIn, Rg.gpioOwner, Rg.otpRdLo, Rg.otpRdHi, Rg.lcHostRights, Rg.towMsOfsLo, Rg.ndSts]
      (∀ x ∈ (if d = 15 then steward else dies), r.base ≠ x.base) → Completes (.rcRead src addr) s fun t =>
        (∀ f ∈ r.fields, f.fld.get (t.csrGet a) = if f.acc = .rc then f.fld.get (resetOf a) else f.fld.get (s.csrGet a)) ∧
        OnlyRegs s t [a] ∧ t = { s with csr := t.csr }) ∧
    (let same (r : Nat) (c : Instr) : Prop := addr.toNat = r → ∃ t, exec c s = .next t ∧ exec (.registerWrite .config addr v) s = .next t;
      same Csr.flKey (.flKeyWrite v) ∧ same Csr.flCmd (.flCmdWrite v) ∧ same Csr.gpioLockKey (.gpioLockKeyWrite v) ∧
      same Csr.gpioLock (.gpioLockWrite v) ∧ same Csr.pinEn (.pinEnWrite v) ∧ same Csr.gpioShort (.shortClearWrite none v) ∧
      (∀ k : Mbox, v.getLsbD 0 = true → same (Csr.mbDoorbell k) (.mbDoorbell k)) ∧
      (∀ x : Die, s.dieOn x = true →
        (∀ c : Culv, same (Csr.cvCtrl x c) (.cvCtrlWrite x c v)) ∧ (∀ e : Eng, same (Csr.engSpill x e) (.engSpillWrite x e v)) ∧
        same (Csr.engHsData x) (.engHsDataAccess x (some v)) ∧
        (∀ n : TaskNo, same (Csr.taskW1 x n) (.taskReadinessWrite x n (some v) none) ∧ same (Csr.taskW2 x n) (.taskFlagsWrite x n v)) ∧
        (∀ f : Fab, same (Csr.fabPllCtrl x f) (.fabPllWrite x f v)) ∧
        (∀ u : Usp, same (Csr.uspTx x u) (.uspTxWrite x ⟨u, false⟩ (v.setWidth 16))) ∧ same (Csr.bankCtrl x) (.btEnWrite x (BankCtrl.btEn.bit v)) ∧
        (∀ q : Ditch, same (Csr.dqWeir x q) (.dqWeirWrite x q v)))) ∧
    (∀ p : Fin 32, addr.toNat = Csr.gpioCfg p →
      (s.pinLocked p = true → Completes (.registerWrite .config addr v) s fun t => t = { s with pins := { s.pins with lockSeq := 0 } }) ∧
      (s.pinLocked p = false → Completes (.registerWrite .config addr v) s fun t =>
        (∀ f ∈ [GpioCfg.pull, GpioCfg.od, GpioCfg.drive, GpioCfg.slow], t.fget a f = f.get v) ∧ OnlyRegs s t [a])) ∧
    (addr.toNat = Csr.gpioOe → Completes (.registerWrite .config addr v) s fun t =>
      (∀ p < 32, (t.csrGet a).getLsbD p = if s.pinLocked p then (s.csrGet a).getLsbD p else v.getLsbD p) ∧ OnlyRegs s t [a])

/-- R318 to R320 (07 R254, R256): the notice ditch takes the next queue's oldest notice, and loses the oldest of a full filling
bank, which every host's count shows. Ixken pops the most urgent, the earliest among equals, and sends it to every host whose
mask has its range, with the host's SEQ; where it cannot be delivered it counts as lost. Delivery corners are log entry 87. -/
def Obligations.NoticeDitchAndDelivery : Prop :=
  ∀ s : State,
    let x := s.nditch.exchange
    let queue (j : Nat) : List Notice := SMap.get [] s.queues j
    (s.nditch.drain = [] → s.nditch.fill ≠ [] → x.drain = s.nditch.fill ∧ x.fill = []) ∧
    ((s.nditch.drain ≠ [] ∨ s.nditch.fill = []) → x = s.nditch) ∧
    ((∀ j < 9, queue j = []) → Completes .noticeDitchStore s fun t => t = s) ∧
    (∀ (i : Nat) (n : Notice) (q : List Notice), i < 9 → (∀ k < i, queue ((s.nditch.rr + k) % 9) = []) →
      queue ((s.nditch.rr + i) % 9) = n :: q → Completes .noticeDitchStore s fun t =>
        let j := (s.nditch.rr + i) % 9
        let full : Bool := decide (256 ≤ x.fill.length)
        SMap.get [] t.queues j = q ∧ (∀ k ≠ j, SMap.get [] t.queues k = queue k) ∧ t.nditch.rr = (j + 1) % 9 ∧
        t.nditch.drain = x.drain ∧ t.nditch.fill = (if full then x.fill.tail else x.fill) ++ [n] ∧
        t.fget Csr.ndCnt NdCnt.lost = (if full then min (s.fget Csr.ndCnt NdCnt.lost + 1) (2 ^ NdCnt.lost.width - 1)
          else s.fget Csr.ndCnt NdCnt.lost) ∧
        t.hosts = (if full then s.hosts.map (fun r => { r with overw := min (2 ^ 32 - 1) (r.overw + 1) }) else s.hosts) ∧
        OnlyRegs s t [Csr.ndCnt] ∧ t = { s with csr := t.csr, queues := t.queues, nditch := t.nditch, hosts := t.hosts }) ∧
    (s.fbit Csr.mbInfo MbInfo.ready = false → Completes .noticeDeliver s fun t => t = s) ∧
    (s.fbit Csr.mbInfo MbInfo.ready = true → x.drain = [] → Completes .noticeDeliver s fun t => t = { s with nditch := x }) ∧
    (∀ (pre : List Notice) (n : Notice) (post : List Notice), s.fbit Csr.mbInfo MbInfo.ready = true → x.drain = pre ++ n :: post →
      (∀ m ∈ pre, n.prio < m.prio) → (∀ m ∈ post, n.prio ≤ m.prio) → n ∉ pre →
      let item := s.itemBytes n
      let own := s.ownAddr
      let wants (r : HostRec) : Prop := bitOf r.mask.toNat (n.code / 256) = true ∧ r.via ≠ .towpath
      item.length = 32 ∧ item.take 2 = leBytes 2 n.code ∧ item.getD 2 0 = BitVec.ofNat 8 n.die ∧
      item.getD 3 0 = BitVec.ofNat 8 (n.prio + (if n.chainTime then 8 else 0) + (if n.poison then 16 else 0)) ∧
      item.drop 16 = leBytes 16 n.payload.toNat ∧
      (Completes .noticeDeliver s fun t =>
        t.nditch.drain = pre ++ post ∧ t.nditch.fill = x.fill ∧ t.queues = s.queues ∧
        t.fget Csr.ndDelivCnt NdDelivCnt.popped =
          min (s.fget Csr.ndDelivCnt NdDelivCnt.popped + 1) (2 ^ NdDelivCnt.popped.width - 1) ∧
        t.fget Csr.ndCnt NdCnt.parity = (if n.poison then min (s.fget Csr.ndCnt NdCnt.parity + 1) (2 ^ NdCnt.parity.width - 1)
          else s.fget Csr.ndCnt NdCnt.parity)) ∧
      (s.hosts = [] → s.isMember = true → Completes .noticeDeliver s fun t =>
        ∃ u : State, u.tow = s.tow ∧ u.outbox = s.outbox ∧ u.csr = t.csr ∧
          t = u.towHome Ft.notice ((noticeHeader 0 0 own ++ item).map BitVec.toNat)) ∧
      (∀ r : HostRec, s.hosts = [r] → s.isMember = false →
        (¬ wants r → Completes .noticeDeliver s fun t => t.hosts = [r] ∧ t.outbox = s.outbox) ∧
        (wants r → s.deliveryBlocked r.via = true → Completes .noticeDeliver s fun t =>
          t.hosts = [{ r with seq := (r.seq + 1) % 65536, lost := min (2 ^ 32 - 1) (r.lost + 1) }] ∧ t.outbox = s.outbox) ∧
        (wants r → s.deliveryBlocked r.via = false →
          let ov := min 65535 (r.overw - r.overBase)
          let note := Emission.notice r.host r.seq ov own item
          let prod := s.fget Csr.mbNtcProd MbNtcProd.prod
          let on : Prop := (s.cfgWord s.mgmtPort 1 Config.msixAt).getLsbD 31 = true
          Completes .noticeDeliver s fun t =>
            t.hosts = [{ r with seq := (r.seq + 1) % 65536, overBase := r.overw, overPrev := r.overBase }] ∧
            ((∀ k, r.via ≠ .mailbox k) → t.outbox = s.outbox ++ [note] ∧ t.bar = s.bar) ∧
            (∀ k, r.via = .mailbox k → t.outbox = s.outbox ++ note :: (if on ∧ s.msixMasked 1 = false then [.msix 1] else []) ∧
              t.fget Csr.mbNtcProd MbNtcProd.prod = (prod + 1) % 512 ∧
              (∀ i < 64, Memory.read 0 t.bar (0x4000 + 64 * (prod % 256) + i) =
                (noticeHeader r.seq ov own ++ item ++ List.replicate 16 0).getD i 0) ∧
              (Memory.read 0 t.bar 0x1800).getLsbD 1 = (decide (on ∧ s.msixMasked 1 = true) || (Memory.read 0 s.bar 0x1800).getLsbD 1) ∧
              ∀ y, y ≠ 0x1800 → (y < 0x4000 + 64 * (prod % 256) ∨ 0x4000 + 64 * (prod % 256) + 64 ≤ y) →
                Memory.read 0 t.bar y = Memory.read 0 s.bar y)))) ∧
    (∀ (h : HostId) (r : HostRec), s.hosts = [r] → r.host = h →
      (∀ a, (r.via = .i3c a ∨ r.via = .smbus a) → Completes (.noticeDeliveryTimeout h) s fun t =>
        t = { s with hosts := [{ r with lost := min (2 ^ 32 - 1) (r.lost + 1), overBase := r.overPrev }] }) ∧
      ((∀ a, r.via ≠ .i3c a ∧ r.via ≠ .smbus a) → Completes (.noticeDeliveryTimeout h) s fun t => t = s))

/-- R321, R322, R327: a towpath port sends a frame while fewer than four are unacknowledged, else the frame waits; ACK releases
frames up to its LSEQ, NAK sends the frame again, its third failure takes the link down. A link that trains sets its bits and
reports corrections; a link that goes down loses what it sent, and after enumeration the head notes the break with its notice.
R320, R322, R325, R327: a frame whose CRC fails is NAKed, any other acknowledged. A member relays frames by the port they did
not come in by, those for the head back where that port is down, and keeps a command for its own address; the head answers the
command a response belongs to, notes breaks and their ends, and sends a member's notices to its own hosts. Break reports and
cumulative ACK are log entry 89. -/
def Obligations.TowpathFramesAndLinks : Prop :=
  (
  ∀ (out : Bool) (s : State),
    let up := if out then TowSts.outUp else TowSts.inUp
    let l := s.towLink out
    let towOnly (t : State) : Prop := t = { s with tow := t.tow, outbox := t.outbox }
    (∀ (ty dest src : Nat) (body : List Nat),
      let t := s.towSendFrom out ty dest src body
      (s.towUp out = false → t = s) ∧
      (s.towUp out = true → l.wait = [] → l.sent.length < 4 →
        t.towLink out = { seq := (l.seq + 1) % 256, sent := l.sent ++ [⟨l.seq, 0, ty, dest, src, body⟩], wait := [] } ∧
        t.towLink (!out) = s.towLink (!out) ∧ t.outbox = s.outbox ++ [.tow out ty dest src l.seq body] ∧ towOnly t) ∧
      (s.towUp out = true → 4 ≤ l.sent.length →
        t.towLink out = { l with wait := l.wait ++ [⟨0, 0, ty, dest, src, body⟩] } ∧ t.outbox = s.outbox ∧ towOnly t)) ∧
    (∀ (lseq : BitVec 8) (pre : List TowFrame) (f : TowFrame) (post : List TowFrame), l.sent = pre ++ f :: post →
      f.lseq = lseq.toNat → (∀ x ∈ pre, x.lseq ≠ lseq.toNat) → l.wait = [] → Completes (.towAck out lseq) s fun t =>
        t.towLink out = { l with sent := post } ∧ t.towLink (!out) = s.towLink (!out) ∧ t.outbox = s.outbox ∧ towOnly t) ∧
    (∀ lseq : BitVec 8, (∀ x ∈ l.sent, x.lseq ≠ lseq.toNat) →
      (Completes (.towAck out lseq) s fun t => t = s) ∧ (Completes (.towNak out lseq) s fun t => t = s)) ∧
    (∀ (lseq : BitVec 8) (f : TowFrame), l.sent = [f] → f.lseq = lseq.toNat →
      (f.fails < 2 → Completes (.towNak out lseq) s fun t =>
        t.towLink out = { l with sent := [{ f with fails := f.fails + 1 }] } ∧
        t.outbox = s.outbox ++ [.tow out f.ty f.dest f.src f.lseq f.body] ∧
        t.fget Csr.towCnt TowCnt.retries = min (s.fget Csr.towCnt TowCnt.retries + 1) (2 ^ TowCnt.retries.width - 1) ∧
        OnlyRegs s t [Csr.towCnt] ∧ t = { s with csr := t.csr, tow := t.tow, outbox := t.outbox }) ∧
      (2 ≤ f.fails → ∀ u, exec (.towLinkDown out) s = .next u → Completes (.towNak out lseq) s fun t => t = u)) ∧
    (s.towUp out = false → Completes (.towLinkDown out) s fun t => t = s) ∧
    (s.towUp out = true → Completes (.towLinkDown out) s fun t =>
      let size := s.fget Csr.towSts TowSts.size
      let a := s.towAddr
      let before := if out then a else if a = 0 then size - 1 else a - 1
      let after := if out then (if a + 1 = size then 0 else a + 1) else if a = 0 then 0 else a
      t.fget Csr.towSts up = 0 ∧
      t.fget Csr.towCnt TowCnt.downs = min (s.fget Csr.towCnt TowCnt.downs + 1) (2 ^ TowCnt.downs.width - 1) ∧
      t.towLink out = TowLink.reset ∧ OnlyRegs s t [Csr.towSts, Csr.towCnt, Csr.ndQdropCnt (queueOf stw)] ∧
      (s.fbit Csr.towSts TowSts.enumDone = false → t.queues = s.queues ∧ t.tow.breaks = s.tow.breaks) ∧
      (s.fbit Csr.towSts TowSts.enumDone = true → s.actingHead = true → before ∉ s.tow.breaks →
        t.tow.breaks = s.tow.breaks ++ [before] ∧ t.fget Csr.towSts TowSts.lineMode = 1 ∧
        ((s.waiting stw).length < 64 → t.waiting stw = s.waiting stw ++ [s.item stw 0x0903 [(1, before), (1, after)]]))) ∧
    (∀ xswap revd : Bool,
      (s.towUp out = true → Completes (.towLinkTrained out xswap revd) s fun t => t = s) ∧
      (s.towUp out = false → s.fbit Csr.towSts TowSts.enumDone = false → Completes (.towLinkTrained out xswap revd) s fun t =>
        t.fget Csr.towSts up = 1 ∧ t.fbit Csr.towSts (if out then TowSts.outXswap else TowSts.inXswap) = xswap ∧
        (revd = true → t.fget Csr.towSts TowSts.reversed = 1) ∧
        ((s.waiting stw).length < 63 → t.waiting stw = s.waiting stw ++
          (if xswap then [s.item stw 0x0907 [(1, if out then 1 else 0), (1, 0)]] else []) ++
          (if revd then [s.item stw 0x0907 [(1, if out then 1 else 0), (1, 1)]] else [])) ∧
        OnlyRegs s t [Csr.towSts, Csr.ndQdropCnt (queueOf stw)]) ∧
      (∀ b, s.towUp out = false → s.fbit Csr.towSts TowSts.enumDone = true → s.actingHead = true → xswap = false → revd = false →
        (s.breakAt out).1 = b → s.tow.breaks = [b] → Completes (.towLinkTrained out xswap revd) s fun t =>
          t.tow.breaks = [] ∧ t.fget Csr.towSts TowSts.lineMode = 0 ∧
          ((s.waiting stw).length < 64 → t.waiting stw = s.waiting stw ++ [s.item stw 0x0904 [(1, b)]])))) ∧
  (
  ∀ (f : Frame) (s : State),
    let nak := s.towReply f.onOut Ft.nak f.lseq.toNat
    let u := s.towReply f.onOut Ft.ack f.lseq.toNat
    let body := f.body.map BitVec.toNat
    let other := !f.onOut
    let relays (c : Instr) (ty : Nat) (home : Bool) : Prop :=
      (s.towUp other = true → Completes c s fun t =>
        t.outbox = (u.towSendFrom other ty f.dest.toNat f.src.toNat body).outbox ∧
        t.fget Csr.towRelayCnt TowRelayCnt.frames =
          min (s.fget Csr.towRelayCnt TowRelayCnt.frames + 1) (2 ^ TowRelayCnt.frames.width - 1) ∧ OnlyRegs s t [Csr.towRelayCnt] ∧
        t = { s with csr := t.csr, tow := t.tow, outbox := t.outbox }) ∧
      (s.towUp other = false → home = true → s.towUp f.onOut = true → Completes c s fun t =>
        t.outbox = (u.towSendFrom f.onOut ty f.dest.toNat f.src.toNat body).outbox ∧ OnlyRegs s t [Csr.towRelayCnt]) ∧
      (s.towUp other = false → (home = false ∨ s.towUp f.onOut = false) → Completes c s fun t => t = u)
    (nak.outbox = s.outbox ++ [.tow f.onOut Ft.nak 0xFF s.towAddr f.lseq.toNat []]) ∧
    (u.outbox = s.outbox ++ [.tow f.onOut Ft.ack 0xFF s.towAddr f.lseq.toNat []]) ∧
    (∀ (rsp bc ovf : Bool) (code : BitVec 16) (next : BitVec 8) (worst : Nat) (hs : List HostId) (t2 t3 : Int),
      ∀ c ∈ [Instr.towpathMessageFrame f rsp bc, .towpathNoticeFrame f code hs, .towEnum f next ovf, .enumAck f, .rejoin f, .syncReq f t2 t3,
        .syncRsp f t2 t3 worst, .resetT f],
        f.crcOk = false → Completes c s fun t => t = nak) ∧
    (f.crcOk = true → s.actingHead = false →
      (∀ (bc : Bool) (code : BitVec 16) (hs : List HostId),
        relays (.towpathNoticeFrame f code hs) Ft.notice true ∧
        relays (.towpathMessageFrame f true bc) Ft.message true ∧
        relays (.towpathMessageFrame f false true) Ft.message false ∧
        ((f.dest.toNat ≠ s.towAddr ∨ s.towAddr = 0xFF) → relays (.towpathMessageFrame f false false) Ft.message false)) ∧
      (f.dest.toNat = s.towAddr → s.towAddr ≠ 0xFF → Completes (.towpathMessageFrame f false false) s fun t => t = u)) ∧
    (f.crcOk = true → s.actingHead = true →
      (∀ bc, Completes (.towpathMessageFrame f false bc) s fun t => t = u) ∧
      (∀ q : Cmd, s.cmds = [q] → q.work = .relay → q.hdr.tag.toNat = bodyAt f 2 + 256 * bodyAt f 3 →
        q.hdr.chain.toNat = bodyAt f 6 → q.aborts = [] → Completes (.towpathMessageFrame f true false) s fun t =>
          t = State.respondFrom { u with cmds := [] } q.hdr q.op (bodyAt f 8) (bodyAt f 6) (f.body.drop 16)) ∧
      (∀ (h : CmdHdr) (n : Nat), s.tow.bcasts = [(h, bodyAt f 0 + 256 * bodyAt f 1, n)] →
        h.tag.toNat = bodyAt f 2 + 256 * bodyAt f 3 → h.via ≠ .towpath → Completes (.towpathMessageFrame f true true) s fun t =>
          let rest := if n ≤ 1 then [] else [(h, bodyAt f 0 + 256 * bodyAt f 1, n - 1)]
          t = State.respondFrom { u with tow := { s.tow with bcasts := rest } } h (bodyAt f 0 + 256 * bodyAt f 1) (bodyAt f 8)
            (bodyAt f 6) (f.body.drop 16)) ∧
      (∀ hs, bodyAt f 32 ∉ s.tow.breaks → Completes (.towpathNoticeFrame f 0x0903 hs) s fun t =>
        t.tow.breaks = s.tow.breaks ++ [bodyAt f 32] ∧ t.fget Csr.towSts TowSts.lineMode = 1 ∧
        ((s.waiting stw).length < 64 →
          t.waiting stw = s.waiting stw ++ [s.item stw 0x0903 [(1, bodyAt f 32), (1, bodyAt f 33)]])) ∧
      (∀ hs, s.tow.breaks = [bodyAt f 32] → Completes (.towpathNoticeFrame f 0x0904 hs) s fun t =>
        t.tow.breaks = [] ∧ t.fget Csr.towSts TowSts.lineMode = 0) ∧
      (∀ (code : BitVec 16) (hs : List HostId) (r : HostRec), code ≠ 0x0903 → code ≠ 0x0904 → s.hosts = [r] →
        s.fbit Csr.mbInfo MbInfo.ready = true → s.deliveryBlocked r.via = false → (∀ k, r.via ≠ .mailbox k) →
        let wants : Prop := bitOf r.mask.toNat (code.toNat / 256) = true ∧ r.via ≠ .towpath ∧ r.host ∉ hs
        (wants → Completes (.towpathNoticeFrame f code hs) s fun t =>
          t.outbox = u.outbox ++ [.notice r.host r.seq (min 65535 (r.overw - r.overBase)) f.src.toNat ((f.body.drop 16).take 32)] ∧
          t.hosts = [{ r with seq := (r.seq + 1) % 65536, overBase := r.overw, overPrev := r.overBase }]) ∧
        (¬ wants → Completes (.towpathNoticeFrame f code hs) s fun t => t.outbox = u.outbox ∧ t.hosts = [r]))))

/-- R323 to R326: the head that is ready takes address 0 and sends the token; a member that is ready takes the token's address,
acknowledges and forwards it, one that is not holds it; the token's return gives SIZE and ENUM_DONE, with CHAIN_REENUM after a
REJOIN; a head that meets the token of a head with a lower serial number defers. CHAIN_ENUM waits for the end that it starts; a
timeout serves the packages found; REJOIN makes the head enumerate again. Late tokens and timeouts, and the bodies of the
frames, are log entries 90, 120. -/
def Obligations.ChainEnumeration : Prop :=
  ∀ s : State,
    let begun (u t : State) : Prop :=
      t.tow.enumBusy = true ∧ t.tow.acked = [] ∧ t.tow.overflow = false ∧ t.tow.breaks = [] ∧ t.tow.readyAt = s.refMs ∧ t.towAddr = 0 ∧ t.fget Csr.towSts TowSts.enumDone = 0 ∧
      t.fget Csr.towSts TowSts.lineMode = 0 ∧
      t.outbox = (State.towSendFrom u true Ft.enum 0xFF 0 (enumBody ⟨1, false, s.ownSerial⟩)).outbox
    let ready : Prop := s.tow.started = true ∧ s.towUp true = true
    let passed (u t : State) (k : EnumToken) : Prop :=
      t.towAddr = k.next ∧ t.fget Csr.towSts TowSts.enumDone = 1 ∧ t.tow.token = none ∧
      t.outbox = ((u.towSendFrom false Ft.enumAck 0 k.next (k.next :: leNats 16 s.ownSerial)).towSendFrom true Ft.enum 0xFF k.next
        (enumBody { k with next := k.next + 1 })).outbox ∧
      OnlyRegs s t [Csr.towSts]
    let took (f : Frame) : State := s.towReply f.onOut Ft.ack f.lseq.toNat
    (s.actingHead = true → ready → s.tow.enumBusy = false → s.towAddr = 0xFF → Completes .enumerationStart s fun t =>
      begun s t ∧ OnlyRegs s t [Csr.towSts] ∧ t = { s with csr := t.csr, tow := t.tow, outbox := t.outbox }) ∧
    (¬ (s.actingHead = true ∧ ready ∧ s.tow.enumBusy = false ∧ s.towAddr = 0xFF) → Completes .enumerationStart s fun t => t = s) ∧
    (∀ (f : Frame) (next : BitVec 8) (ovf : Bool), f.crcOk = true → s.actingHead = false →
      let k := tokenOf f next.toNat ovf
      let u := took f
      (ready → k.next < 64 → Completes (.towEnum f next ovf) s fun t => passed u t k) ∧
      (ready → 64 ≤ k.next → Completes (.towEnum f next ovf) s fun t =>
        t.outbox = (u.towSend true Ft.enum 0xFF (enumBody { k with next := 64, ovf := true })).outbox ∧ t.csr = s.csr) ∧
      (¬ ready → Completes (.towEnum f next ovf) s fun t => t = { u with tow := { s.tow with token := some k } })) ∧
    (∀ k : EnumToken, s.tow.token = some k → ready → k.next < 64 → Completes .enumTokenForward s fun t => passed s t k) ∧
    ((s.tow.token = none ∨ ¬ ready) → Completes .enumTokenForward s fun t => t = s) ∧
    (∀ (f : Frame) (next : BitVec 8) (ovf : Bool), f.crcOk = true → s.actingHead = true →
      let k := tokenOf f next.toNat ovf
      let u := took f
      let n := min 64 k.next
      let moved (o : List (Nat × Nat)) : Prop := ∃ x ∈ o, x ∉ s.tow.acked
      (k.serial = s.ownSerial → s.tow.enumBusy = false → Completes (.towEnum f next ovf) s fun t => t = u) ∧
      (s.ownSerial < k.serial → Completes (.towEnum f next ovf) s fun t => t = u) ∧
      (k.serial = s.ownSerial → s.tow.enumBusy = true → Completes (.towEnum f next ovf) s fun t =>
        t.tow.enumBusy = false ∧ t.tow.overflow = k.ovf ∧ t.fget Csr.towSts TowSts.size = n ∧ t.fget Csr.towSts TowSts.enumDone = 1 ∧
        ((s.waiting stw).length < 63 →
          let done := s.item stw 0x0901 [(1, n), (1, if k.ovf then 1 else 0), (4, (s.refMs - s.tow.readyAt) / 1000)]
          (s.tow.former = none → t.waiting stw = s.waiting stw ++ [done]) ∧
          (∀ o, s.tow.former = some o →
            (moved o → t.waiting stw = s.waiting stw ++ [done, s.item stw 0x090B [(1, n), (1, 1)]]) ∧
            (¬ moved o → t.waiting stw = s.waiting stw ++ [done, s.item stw 0x090B [(1, n), (1, 0)]]))) ∧
        (∀ q, s.cmds = [q] → q.work = .chainEnum → q.aborts = [] → t.cmds = [] ∧
          ∃ v : State, v.outbox = u.outbox ∧ v.mboxes = s.mboxes ∧ v.hosts = s.hosts ∧
            t.outbox = (v.respond q.hdr q.op St.ok (leBytes 1 n)).outbox)) ∧
      (k.serial < s.ownSerial → Completes (.towEnum f next ovf) s fun t =>
        t.fget Csr.towSts TowSts.headDeferred = 1 ∧ t.actingHead = false ∧ t.tow.enumBusy = false ∧
        (∀ q ∈ t.cmds, q.work ≠ .chainEnum) ∧
        ((s.waiting stw).length < 64 → t.waiting stw = s.waiting stw ++ [s.item stw 0x090A [(8, k.serial % 2 ^ 64)]]) ∧
        (¬ ready → t.towAddr = 0xFF ∧ t.tow.token = some k))) ∧
    (∀ f : Frame, f.crcOk = true →
      let u := took f
      let x := (bodyAt f 0, fromLE ((f.body.drop 1).take 16))
      (s.actingHead = true → s.tow.enumBusy = true → Completes (.enumAck f) s fun t =>
        t = { u with tow := { s.tow with acked := s.tow.acked.filter (fun y => y.1 ≠ x.1) ++ [x] } }) ∧
      (s.actingHead = true → s.tow.enumBusy = false → Completes (.enumAck f) s fun t => t = u) ∧
      (s.actingHead = false → Completes (.enumAck f) s fun t => t = u.towRelay f Ft.enumAck true)) ∧
    (s.tow.enumBusy = false → Completes .enumTimeout s fun t => t = s) ∧
    (∀ n, s.tow.enumBusy = true → (∀ a ∈ s.tow.acked, a.1 + 1 ≤ n) → (n = 1 ∨ ∃ a ∈ s.tow.acked, n = a.1 + 1) → n ≤ 64 →
      Completes .enumTimeout s fun t =>
        t.tow.enumBusy = false ∧ t.fget Csr.towSts TowSts.size = n ∧ t.fget Csr.towSts TowSts.enumDone = s.fget Csr.towSts TowSts.enumDone ∧
        ((s.waiting stw).length < 64 → t.waiting stw = s.waiting stw ++ [s.item stw 0x0902 [(1, n)]]) ∧
        (∀ q, s.cmds = [q] → q.work = .chainEnum → t.cmds = [])) ∧
    (∀ f : Frame, f.crcOk = true →
      let u := took f
      (s.actingHead = false → Completes (.rejoin f) s fun t => t = u.towRelay f Ft.rejoin true) ∧
      (s.actingHead = true → s.tow.enumBusy = true → Completes (.rejoin f) s fun t => t = u) ∧
      (s.actingHead = true → s.tow.enumBusy = false → Completes (.rejoin f) s fun t =>
        begun u t ∧ t.tow.former = some s.tow.acked)) ∧
    (∀ h : CmdHdr,
      let a := s.arrived h
      (s.Takes h 0x0702 0 Gate.open_ →
        (s.actingHead = false → Completes (.chainEnum h) s fun t => t = a.respond h 0x0702 St.badArgument []) ∧
        (s.actingHead = true → s.tow.enumBusy = true → Completes (.chainEnum h) s fun t => t = a.respond h 0x0702 St.busy []) ∧
        (s.actingHead = true → s.tow.enumBusy = false → Completes (.chainEnum h) s fun t =>
          begun a t ∧ t.cmds = s.cmds ++ [{ hdr := h, op := 0x0702, work := .chainEnum, aborts := [] }])) ∧
      (s.Takes h 0x0701 0 Gate.open_ → Completes (.chainStatus h) s fun t =>
        let b (x : Bool) (i : Nat) : Nat := if x then 2 ^ i else 0
        ∃ brk, (s.tow.breaks = [] → brk = 0xFF) ∧ (∀ x r, s.tow.breaks = x :: r → brk ∈ s.tow.breaks ∧ ∀ y ∈ s.tow.breaks, brk ≤ y) ∧
          t = a.respond h 0x0701 St.ok (leBytes 1 (s.fget Csr.towSts TowSts.size) ++
            leBytes 1 (b (s.fbit Csr.towSts TowSts.enumDone) 0 + b s.tow.synced 1 + b (s.fbit Csr.towSts TowSts.lineMode) 2 +
              b s.tow.overflow 3) ++ leBytes 1 brk ++ leBytes 1 0 ++ leBytes 4 s.tow.theta)))

/-- R328 to R330: a member asks its neighbour toward the head, which answers with its two stamps; an exchange shows θ in
TOW_MS_ERR, the first sets the chain offset, a later one gives what is slewed, at most 1 ns per µs; within 6 ns MS_SYNC is set,
above it is lost with its notice. At the head the end of the synchronisation raises its notice (log entry 58). Reset kind T
clears block 0x3 of every package and ends the commands on the way. Rounding, slewing and reset corners are log entries 58, 90,
91, 121. -/
def Obligations.ChainMilestoneAndResetT : Prop :=
  ∀ s : State,
    let asks : Prop := s.isMember = true ∧ s.fbit Csr.towSts TowSts.enumDone = true ∧ s.fbit Csr.towCtrl TowCtrl.syncEn = true
    let block3 (t : State) : Prop :=
      t.towAddr = 0xFF ∧ t.fget Csr.towSts TowSts.enumDone = 0 ∧ t.fget Csr.towSts TowSts.size = 0 ∧
      t.fget Csr.towSts TowSts.msSync = 0 ∧ t.fget Csr.towMsErr TowMsErr.theta = 0 ∧ t.tow = { TowSt.reset with started := s.tow.started, reenum := s.tow.reenum }
    (asks → Completes .syncExchange s fun t => t = s.towSend (!s.towUp false) Ft.syncReq 0xFF []) ∧
    (¬ asks → Completes .syncExchange s fun t => t = s) ∧
    (∀ (f : Frame) (t2 t3 : Int), f.crcOk = true → Completes (.syncReq f t2 t3) s fun t =>
      t = (s.towReply f.onOut Ft.ack f.lseq.toNat).towSend f.onOut Ft.syncRsp f.src.toNat
        (leNats 8 (wrapInt 64 t2) ++ leNats 8 (wrapInt 64 t3))) ∧
    (∀ (f : Frame) (t1 t4 : Int) (worst : Nat), f.crcOk = true →
      let u := s.towReply f.onOut Ft.ack f.lseq.toNat
      let th := ((stampAt f 0 - t1) - (t4 - stampAt f 8)) / 2
      let ns := Int.tdiv th 1000
      let us := (s.refMs - s.tow.slew.at_) / 1000
      (s.isMember = true → Completes (.syncRsp f t1 t4 worst) s fun t =>
        t.fget Csr.towMsErr TowMsErr.theta = wrapInt 16 (max (-32767) (min 32767 th)) ∧
        t.refMs = s.refMs ∧ t.outbox = u.outbox ∧ t.tow.slew.at_ = s.refMs ∧ t.tow.slew.frac = s.tow.slew.frac ∧
        (s.tow.exchanged = false → t.tow.ofs = s.tow.ofs + ns ∧ t.tow.exchanged = true ∧ t.tow.slew.drift = 0 ∧
          t.tow.slew.rest = th * 1000 - ns * 1000000) ∧
        (s.tow.exchanged = true → t.tow.ofs = s.tow.ofs ∧ t.tow.slew.rest = th * 1000 ∧ t.tow.slew.drift =
          s.tow.slew.drift + (if us = 0 then 0 else Int.tdiv (th * 1000 - s.tow.slew.rest) us)) ∧
        t.tow.theta = max s.tow.theta th.natAbs ∧
        t.fbit Csr.towSts TowSts.msSync = decide (th.natAbs ≤ 6000) ∧ t.tow.fast = decide (6000 < th.natAbs) ∧
        ((th.natAbs ≤ 6000 ∨ s.windowOpen stw 0x0906 0 = true) → t.queues = s.queues) ∧
        (6000 < th.natAbs → s.windowOpen stw 0x0906 0 = false → (s.waiting stw).length < 64 → ∃ n, t.waiting stw = s.waiting stw ++ [n] ∧ n.code = 0x0906 ∧
            n.payload = packFields [(1, s.towAddr), (4, wrapInt 32 th)]) ∧
        OnlyRegs s t [Csr.towMsErr, Csr.towSts, Csr.ndQdropCnt (queueOf stw)]) ∧
      (let ends : Prop := s.fbit Csr.towSts TowSts.enumDone = true ∧ s.tow.synced = false ∧ s.fbit Csr.towCtrl TowCtrl.syncEn = true;
        s.actingHead = true →
        (¬ ends → Completes (.syncRsp f t1 t4 worst) s fun t => t = u) ∧
        (ends → Completes (.syncRsp f t1 t4 worst) s fun t =>
          t.tow = { s.tow with synced := true, theta := worst } ∧ t.fget Csr.towSts TowSts.msSync = 1 ∧
          ((s.waiting stw).length < 64 → ∃ n, t.waiting stw = s.waiting stw ++ [n] ∧ n.code = 0x0905 ∧ n.chainTime = true ∧
            n.payload = packFields [(1, s.fget Csr.towSts TowSts.size), (4, worst)])))) ∧
    (∀ sl : Slew, let x := sl.step
      0 ≤ x.2.frac ∧ x.2.frac < 1000000 ∧ x.2.drift = sl.drift ∧ x.2.at_ = sl.at_ ∧
      ∃ moved : Int, moved.natAbs ≤ 1000000 ∧ x.1 * 1000000 + x.2.frac = sl.frac + moved ∧ x.2.rest = sl.rest + sl.drift - moved ∧
        ((sl.drift + sl.rest).natAbs ≤ 1000000 → x.2.rest = 0)) ∧
    (∀ f : Frame, f.crcOk = true →
      let u := s.towReply f.onOut Ft.ack f.lseq.toNat
      (s.actingHead = true → Completes (.resetT f) s fun t => t = u) ∧
      (s.actingHead = false → Completes (.resetT f) s fun t =>
        block3 t ∧ t.outbox = (u.towRelay f Ft.resetT false).outbox ∧ t.fget Csr.pwrRstCause PwrRstCause.tow = 1 ∧
        t.engs = s.engs ∧ t.hosts = s.hosts ∧ t.cmds = s.cmds ∧ t.flash = s.flash)) ∧
    (∀ h : CmdHdr, s.Takes h 0x0501 3 Gate.open_ →
      let a := s.arrived h
      (s.actingHead = false → Completes (.resetTowpath h) s fun t => t = a.respond h 0x0501 St.badArgument []) ∧
      (s.actingHead = true → Completes (.resetTowpath h) s fun t =>
        block3 t ∧
        (let sent := (a.respond h 0x0501 St.ok []).towSend true Ft.resetT 0xFF [];
          (if s.fbit Csr.towSts TowSts.lineMode = true then sent.towSend false Ft.resetT 0xFF [] else sent).outbox <+: t.outbox) ∧
        (∀ q ∈ t.cmds, q.work ≠ .relay ∧ q.work ≠ .chainEnum) ∧ t.engs = s.engs ∧ t.flash = s.flash ∧
        ((s.waiting stw).length < 64 → ∃ n, t.waiting stw = s.waiting stw ++ [n] ∧ n.code = 0x0909)))

end
end

