-- ==== Sys2Proof/Laws/Store.lean ====
section
/-! SUPPORT. Laws of the sparse storage: a read after a write, and the canonical form, which every operation keeps. -/

namespace Sys2Proof.Machine

variable {α : Type}

theorem SMap.find_cons (k' k : Nat) (v : α) (r : SMap α) :
    SMap.find ((k', v) :: r) k = if k' = k then some v else SMap.find r k := rfl

theorem SMap.find_put_same (m : SMap α) (k : Nat) (v : α) : SMap.find (SMap.put m k v) k = some v := by
  induction m with
  | nil => simp [SMap.put, SMap.find]
  | cons e r ih =>
    obtain ⟨k', v'⟩ := e
    unfold SMap.put
    split
    · simp [SMap.find]
    · split
      · rename_i h _; simp [SMap.find, h, ih]
      · simp [SMap.find]

theorem SMap.find_put_ne (m : SMap α) {k j : Nat} (v : α) (h : j ≠ k) :
    SMap.find (SMap.put m k v) j = SMap.find m j := by
  induction m with
  | nil => simp [SMap.put, SMap.find, h.symm]
  | cons e r ih =>
    obtain ⟨k', v'⟩ := e
    unfold SMap.put
    split
    · rename_i h'; simp [SMap.find, h', h.symm]
    · split
      · simp [SMap.find, ih]
      · simp [SMap.find, h.symm]

theorem SMap.find_erase_same (m : SMap α) (k : Nat) : SMap.find (SMap.erase m k) k = none := by
  induction m with
  | nil => rfl
  | cons e r ih =>
    obtain ⟨k', v'⟩ := e
    by_cases h : k' = k
    · simpa [SMap.erase, h] using ih
    · simpa [SMap.erase, h, SMap.find] using ih

theorem SMap.find_erase_ne (m : SMap α) {k j : Nat} (h : j ≠ k) : SMap.find (SMap.erase m k) j = SMap.find m j := by
  induction m with
  | nil => rfl
  | cons e r ih =>
    obtain ⟨k', v'⟩ := e
    by_cases h' : k' = k
    · subst h'; simpa [SMap.erase, SMap.find, h.symm] using ih
    · by_cases hj : k' = j
      · simp [SMap.erase, SMap.find, hj, h]
      · simpa [SMap.erase, h', SMap.find, hj] using ih

/-- A read after a write to the same key gives the value written. -/
@[simp] theorem SMap.get_set_same [DecidableEq α] (d : α) (m : SMap α) (k : Nat) (v : α) :
    SMap.get d (SMap.set d m k v) k = v := by
  unfold SMap.get SMap.set
  split
  · rename_i h; simp [SMap.find_erase_same, h]
  · simp [SMap.find_put_same]

/-- A write leaves every other key alone, whatever each key reads as when it is not listed. -/
theorem SMap.get_set_ne [DecidableEq α] (d e : α) (m : SMap α) {k j : Nat} (v : α) (h : j ≠ k) :
    SMap.get e (SMap.set d m k v) j = SMap.get e m j := by
  unfold SMap.get SMap.set
  split
  · rw [SMap.find_erase_ne m h]
  · rw [SMap.find_put_ne m v h]

/-- The canonical form, said of the list. -/
theorem SMap.wf_iff [DecidableEq α] (d : Nat → α) (m : SMap α) :
    SMap.wf d m = true ↔ m.Pairwise (fun a b => a.1 < b.1) ∧ ∀ e ∈ m, e.2 ≠ d e.1 := by
  induction m with
  | nil => simp [SMap.wf]
  | cons e r ih =>
    obtain ⟨k, v⟩ := e
    cases r with
    | nil => simp [SMap.wf]
    | cons e' r' =>
      obtain ⟨k', v'⟩ := e'
      simp only [SMap.wf, Bool.and_eq_true, ih, decide_eq_true_eq, List.pairwise_cons, List.mem_cons, forall_eq_or_imp]
      constructor
      · rintro ⟨⟨h1, h2⟩, ⟨h3, h4⟩, h5, h6⟩
        exact ⟨⟨⟨h2, fun a ha => h2.trans (h3 a ha)⟩, h3, h4⟩, h1, h5, h6⟩
      · rintro ⟨⟨⟨h2, _⟩, h3, h4⟩, h1, h5, h6⟩
        exact ⟨⟨h1, h2⟩, ⟨h3, h4⟩, h5, h6⟩

theorem SMap.wf_filter [DecidableEq α] {d : Nat → α} {m : SMap α} (p : Nat × α → Bool) (h : SMap.wf d m = true) :
    SMap.wf d (m.filter p) = true := by
  rw [SMap.wf_iff] at h ⊢
  exact ⟨h.1.filter p, fun e he => h.2 e (List.mem_of_mem_filter he)⟩

theorem SMap.wf_drop [DecidableEq α] {d : Nat → α} {m : SMap α} (p : Nat → Bool) (h : SMap.wf d m = true) :
    SMap.wf d (SMap.drop p m) = true := SMap.wf_filter _ h

theorem SMap.wf_erase [DecidableEq α] {d : Nat → α} {m : SMap α} (k : Nat) (h : SMap.wf d m = true) :
    SMap.wf d (SMap.erase m k) = true := SMap.wf_filter _ h

theorem SMap.mem_put {m : SMap α} {k : Nat} {v : α} {e : Nat × α} (h : e ∈ SMap.put m k v) : e = (k, v) ∨ e ∈ m := by
  induction m with
  | nil => simpa [SMap.put] using h
  | cons x r ih =>
    obtain ⟨k', v'⟩ := x
    unfold SMap.put at h
    split at h
    · simp only [List.mem_cons] at h ⊢; tauto
    · split at h
      · simp only [List.mem_cons] at h ⊢
        rcases h with h | h
        · exact .inr (.inl h)
        · rcases ih h with h | h
          · exact .inl h
          · exact .inr (.inr h)
      · simp only [List.mem_cons] at h ⊢; tauto

theorem SMap.wf_put [DecidableEq α] {d : Nat → α} {m : SMap α} {k : Nat} {v : α} (hv : v ≠ d k)
    (h : SMap.wf d m = true) : SMap.wf d (SMap.put m k v) = true := by
  rw [SMap.wf_iff] at h ⊢
  refine ⟨?_, fun e he => ?_⟩
  · have hp := h.1
    clear h
    induction m with
    | nil => simp [SMap.put]
    | cons x r ih =>
      obtain ⟨k', v'⟩ := x
      simp only [List.pairwise_cons] at hp
      unfold SMap.put
      split
      · rename_i hk; subst hk; exact List.pairwise_cons.2 ⟨hp.1, hp.2⟩
      · split
        · rename_i hk hlt
          refine List.pairwise_cons.2 ⟨fun a ha => ?_, ih hp.2⟩
          rcases SMap.mem_put ha with rfl | ha
          · exact hlt
          · exact hp.1 a ha
        · rename_i hk hlt
          have hlt' : k < k' := by omega
          refine List.pairwise_cons.2 ⟨fun a ha => ?_, List.pairwise_cons.2 hp⟩
          rcases List.mem_cons.1 ha with rfl | ha
          · exact hlt'
          · exact hlt'.trans (hp.1 a ha)
  · rcases SMap.mem_put he with rfl | he
    · exact hv
    · exact h.2 e he

/-- A write keeps the canonical form. -/
theorem SMap.wf_set [DecidableEq α] {d : Nat → α} {m : SMap α} (k : Nat) (v : α) (h : SMap.wf d m = true) :
    SMap.wf d (SMap.set (d k) m k v) = true := by
  unfold SMap.set
  split
  · exact SMap.wf_erase k h
  · exact SMap.wf_put ‹_› h

/-- Rewriting every listed value keeps the canonical form. -/
theorem SMap.wf_mapVals [DecidableEq α] {d : Nat → α} {m : SMap α} (f : Nat → α → α) (h : SMap.wf d m = true) :
    SMap.wf d (SMap.mapVals d f m) = true := by
  rw [SMap.wf_iff] at h ⊢
  refine ⟨(List.Pairwise.filter _ (List.pairwise_map.2 h.1)), fun e he => ?_⟩
  simpa [SMap.mapVals] using (List.mem_filter.1 he).2

/-! ## Byte memories -/

/-- A byte read after a write to its address is the byte written. -/
@[simp] theorem Memory.read_write_same (d : Byte) (m : Memory) (a : Nat) (b : Byte) :
    Memory.read d (Memory.write d m a b) a = b := SMap.get_set_same d m a b

/-- A write of one byte leaves every other byte alone. -/
theorem Memory.read_write_ne (d : Byte) (m : Memory) {a x : Nat} (b : Byte) (h : x ≠ a) :
    Memory.read d (Memory.write d m a b) x = Memory.read d m x := SMap.get_set_ne d d m b h

/-- A write of one byte keeps the canonical form. -/
theorem Memory.wf_write {d : Byte} {m : Memory} (a : Nat) (b : Byte) (h : Memory.wf d m = true) :
    Memory.wf d (Memory.write d m a b) = true := SMap.wf_set (d := fun _ => d) a b h

/-- A little-endian write of `n` bytes keeps the canonical form. -/
theorem Memory.wf_writeLE {d : Byte} {m : Memory} (n a v : Nat) (h : Memory.wf d m = true) :
    Memory.wf d (Memory.writeLE d m a n v) = true := by
  induction n generalizing m a v with
  | zero => exact h
  | succ n ih => exact ih _ _ (Memory.wf_write _ _ h)

/-- A little-endian write leaves the bytes outside it alone. -/
theorem Memory.read_writeLE_ne (d : Byte) (m : Memory) (n a v : Nat) {x : Nat} (h : x < a ∨ a + n ≤ x) :
    Memory.read d (Memory.writeLE d m a n v) x = Memory.read d m x := by
  induction n generalizing m a v with
  | zero => rfl
  | succ n ih =>
    rw [Memory.writeLE, ih _ _ _ (by omega), Memory.read_write_ne d m _ (by omega)]

/-- A little-endian read after a write of the same width gives the value's low bytes. -/
theorem Memory.readLE_writeLE (d : Byte) (m : Memory) (n a v : Nat) :
    Memory.readLE d (Memory.writeLE d m a n v) a n = v % 256 ^ n := by
  induction n generalizing m a v with
  | zero => simp [Memory.readLE, Nat.mod_one]
  | succ n ih =>
    have hb : (BitVec.ofNat 8 v).toNat = v % 256 := by simp
    rw [Memory.readLE, Memory.writeLE, ih, Memory.read_writeLE_ne d _ n (a + 1) _ (by omega),
      Memory.read_write_same, hb, pow_succ' 256 n, Nat.mod_mul]

/-- An empty memory is in canonical form. -/
theorem Memory.wf_nil (d : Byte) : Memory.wf d [] = true := rfl

/-- Dropping addresses keeps the canonical form. -/
theorem Memory.wf_drop {d : Byte} {m : Memory} (p : Nat → Bool) (h : Memory.wf d m = true) :
    Memory.wf d (SMap.drop p m) = true := SMap.wf_drop p h

/-- The canonical form of a filtered memory. -/
theorem Memory.wf_filter {d : Byte} {m : Memory} (p : Host.Cell → Bool) (h : Memory.wf d m = true) :
    Memory.wf d (m.filter p) = true := SMap.wf_filter p h

end Sys2Proof.Machine
end

