-- ==== Sys2Proof/Laws/Fields.lean ====
section
/-! SUPPORT. Laws of bit fields and of the registers that hold them: a field reads what was put into it, and a write of one
field leaves every other bit alone. -/

namespace Sys2Proof.Machine

/-- Two fields that share no bit. -/
def Fld.apart (f g : Fld) : Prop := f.lo + f.width ≤ g.lo ∨ g.lo + g.width ≤ f.lo

theorem Fld.inNat_testBit (f : Fld) (n v i : Nat) :
    (f.inNat n v).testBit i =
      if f.lo ≤ i ∧ i < f.lo + f.width then v.testBit (i - f.lo) else n.testBit i := by
  have e : f.inNat n v =
      2 ^ f.lo * (2 ^ f.width * (n / 2 ^ (f.lo + f.width)) + v % 2 ^ f.width) + n % 2 ^ f.lo := by
    unfold Fld.inNat; rw [pow_add]; ring
  rw [e, Nat.testBit_two_pow_mul_add _ (Nat.mod_lt _ (by positivity)), Nat.testBit_two_pow_mul_add _ (Nat.mod_lt _ (by positivity))]
  by_cases h1 : i < f.lo
  · rw [if_pos h1, if_neg (by omega), Nat.testBit_mod_two_pow]; simp [h1]
  · rw [if_neg h1]
    by_cases h2 : i - f.lo < f.width
    · rw [if_pos h2, if_pos (by omega), Nat.testBit_mod_two_pow]; simp [h2]
    · rw [if_neg h2, if_neg (by omega), Nat.testBit_div_two_pow]; congr 1; omega

theorem Fld.ofNat_testBit (f : Fld) (n i : Nat) :
    (f.ofNat n).testBit i = (decide (i < f.width) && n.testBit (f.lo + i)) := by
  unfold Fld.ofNat; rw [Nat.testBit_mod_two_pow, Nat.testBit_div_two_pow]; congr 2; omega

/-- A field inside the word reads what was put into it. -/
theorem Fld.get_put_same {n : Nat} (f : Fld) (w : BitVec n) (v : Nat) (h : f.lo + f.width ≤ n) :
    f.get (f.put w v) = v % 2 ^ f.width := by
  apply Nat.eq_of_testBit_eq; intro i
  unfold Fld.get Fld.put
  rw [Fld.ofNat_testBit, BitVec.toNat_ofNat, Nat.testBit_mod_two_pow, Nat.testBit_mod_two_pow, Fld.inNat_testBit]
  by_cases hi : i < f.width
  · rw [if_pos (by omega)]; simp only [hi, decide_true, Bool.true_and]
    have : f.lo + i < n := by omega
    simp [this]
  · simp [hi]

/-- A field that shares no bit with the one written reads as before. -/
theorem Fld.get_put_apart {n : Nat} (f g : Fld) (w : BitVec n) (v : Nat) (h : f.apart g) :
    g.get (f.put w v) = g.get w := by
  apply Nat.eq_of_testBit_eq; intro i
  unfold Fld.get Fld.put
  rw [Fld.ofNat_testBit, Fld.ofNat_testBit, BitVec.toNat_ofNat, Nat.testBit_mod_two_pow, Fld.inNat_testBit]
  by_cases hi : i < g.width
  · rw [if_neg (by unfold Fld.apart at h; omega)]
    by_cases hn : g.lo + i < n
    · simp [hn]
    · have : w.toNat.testBit (g.lo + i) = false :=
        Nat.testBit_lt_two_pow (lt_of_lt_of_le w.isLt (Nat.pow_le_pow_right (by norm_num) (by omega)))
      simp [this]
  · simp [hi]

/-- A bit outside the field is the bit of the word. -/
theorem Fld.put_bit_apart {n : Nat} (f : Fld) (w : BitVec n) (v i : Nat) (h : i < f.lo ∨ f.lo + f.width ≤ i) :
    (f.put w v).getLsbD i = w.getLsbD i := by
  unfold Fld.put
  rw [BitVec.getLsbD_ofNat, Fld.inNat_testBit, if_neg (by omega)]
  by_cases hn : i < n
  · simp [hn, BitVec.testBit_toNat]
  · simp [hn, BitVec.getLsbD_of_ge w i (by omega)]

theorem Fld.get_lt {n : Nat} (f : Fld) (w : BitVec n) : f.get w < 2 ^ f.width := Nat.mod_lt _ (by positivity)

/-! ## Registers -/

/-- A register reads what was written to it. -/
@[simp] theorem State.csrGet_csrSet_same (s : State) (a : Nat) (w : Word) : (s.csrSet a w).csrGet a = w := by
  simp [State.csrGet, State.csrSet]

/-- A register write leaves every other register alone. -/
theorem State.csrGet_csrSet_ne (s : State) {a b : Nat} (w : Word) (h : b ≠ a) : (s.csrSet a w).csrGet b = s.csrGet b := by
  simp [State.csrGet, State.csrSet, SMap.get_set_ne _ _ _ _ h]

@[simp] theorem State.csrGet_fset_same (s : State) (a : Nat) (f : Fld) (v : Nat) :
    (s.fset a f v).csrGet a = f.put (s.csrGet a) v := by simp [State.fset]

theorem State.csrGet_fset_ne (s : State) {a b : Nat} (f : Fld) (v : Nat) (h : b ≠ a) :
    (s.fset a f v).csrGet b = s.csrGet b := State.csrGet_csrSet_ne s _ h

@[simp] theorem State.csrGet_flag_same (s : State) (a : Nat) (f : Fld) :
    (s.flag a f).csrGet a = f.put (s.csrGet a) 1 := by simp [State.flag]

theorem State.csrGet_flag_ne (s : State) {a b : Nat} (f : Fld) (h : b ≠ a) :
    (s.flag a f).csrGet b = s.csrGet b := State.csrGet_csrSet_ne s _ h

@[simp] theorem State.csrGet_count_same (s : State) (a : Nat) (f : Fld) (k : Nat) :
    (s.count a f k).csrGet a = f.satAdd (s.csrGet a) k := by simp [State.count]

theorem State.csrGet_count_ne (s : State) {a b : Nat} (f : Fld) (k : Nat) (h : b ≠ a) :
    (s.count a f k).csrGet b = s.csrGet b := State.csrGet_csrSet_ne s _ h

/-- A field reads what was written to it, cut to its width. -/
theorem State.fget_fset_same (s : State) (a : Nat) (f : Fld) (v : Nat) (h : f.lo + f.width ≤ 32) :
    (s.fset a f v).fget a f = v % 2 ^ f.width := by simp [State.fget, Fld.get_put_same f _ v h]

theorem State.fget_fset_apart (s : State) (a : Nat) (f g : Fld) (v : Nat) (h : f.apart g) :
    (s.fset a f v).fget a g = s.fget a g := by simp [State.fget, Fld.get_put_apart f g _ v h]

theorem State.fget_fset_ne (s : State) {a b : Nat} (f g : Fld) (v : Nat) (h : b ≠ a) :
    (s.fset a f v).fget b g = s.fget b g := by simp [State.fget, State.csrGet_fset_ne s f v h]

theorem State.fget_fset (s : State) (a b : Nat) (f g : Fld) (v : Nat) (h : b ≠ a ∨ f.apart g) :
    (s.fset a f v).fget b g = s.fget b g := by
  by_cases e : b = a
  · subst e; exact State.fget_fset_apart s b f g v (by simpa using h)
  · exact State.fget_fset_ne s f g v e

/-- The rest of a state is untouched by a register write. -/
theorem State.csrSet_rest (s : State) (a : Nat) (w : Word) : s.csrSet a w = { s with csr := (s.csrSet a w).csr } := rfl

end Sys2Proof.Machine
end

