-- ==== Sys2Proof/Laws/State.lean ====
section
/-! SUPPORT. One lemma for each field of State and each of the updates the meanings are built of: a field that the update
does not write is unchanged. Two ends of a field's life, the writes of `csr` and of the other containers, are in Fields and
Updates. -/

namespace Sys2Proof.Machine.State

section

variable (s : State) (a n i j : Nat) (w : Word) (f : Fld) (b : Bool) (em : Emission) (m : Msg) (fs : List (Nat × Nat))
  (ps : PortSt) (tx : TaskX) (en : Engine)

@[simp] theorem csrSet_pending : (s.csrSet a w).pending = s.pending := rfl
@[simp] theorem csrSet_part : (s.csrSet a w).part = s.part := rfl
@[simp] theorem csrSet_shadowCsr : (s.csrSet a w).shadowCsr = s.shadowCsr := rfl
@[simp] theorem csrSet_flipList : (s.csrSet a w).flipList = s.flipList := rfl
@[simp] theorem csrSet_draws : (s.csrSet a w).draws = s.draws := rfl
@[simp] theorem csrSet_serial : (s.csrSet a w).serial = s.serial := rfl
@[simp] theorem csrSet_outbox : (s.csrSet a w).outbox = s.outbox := rfl
@[simp] theorem csrSet_ticks : (s.csrSet a w).ticks = s.ticks := rfl
@[simp] theorem csrSet_ports : (s.csrSet a w).ports = s.ports := rfl
@[simp] theorem csrSet_cfgWords : (s.csrSet a w).cfgWords = s.cfgWords := rfl
@[simp] theorem csrSet_ingress : (s.csrSet a w).ingress = s.ingress := rfl
@[simp] theorem csrSet_headFree : (s.csrSet a w).headFree = s.headFree := rfl
@[simp] theorem csrSet_meterOld : (s.csrSet a w).meterOld = s.meterOld := rfl
@[simp] theorem csrSet_replays : (s.csrSet a w).replays = s.replays := rfl
@[simp] theorem csrSet_xsrc : (s.csrSet a w).xsrc = s.xsrc := rfl
@[simp] theorem csrSet_xin : (s.csrSet a w).xin = s.xin := rfl
@[simp] theorem csrSet_xout : (s.csrSet a w).xout = s.xout := rfl
@[simp] theorem csrSet_xrr : (s.csrSet a w).xrr = s.xrr := rfl
@[simp] theorem csrSet_xbusy : (s.csrSet a w).xbusy = s.xbusy := rfl
@[simp] theorem csrSet_tags : (s.csrSet a w).tags = s.tags := rfl
@[simp] theorem csrSet_perst : (s.csrSet a w).perst = s.perst := rfl
@[simp] theorem csrSet_dirEnt : (s.csrSet a w).dirEnt = s.dirEnt := rfl
@[simp] theorem csrSet_dirBad : (s.csrSet a w).dirBad = s.dirBad := rfl
@[simp] theorem csrSet_dirRr : (s.csrSet a w).dirRr = s.dirRr := rfl
@[simp] theorem csrSet_dirQ : (s.csrSet a w).dirQ = s.dirQ := rfl
@[simp] theorem csrSet_dirTxn : (s.csrSet a w).dirTxn = s.dirTxn := rfl
@[simp] theorem csrSet_dirAcc : (s.csrSet a w).dirAcc = s.dirAcc := rfl
@[simp] theorem csrSet_dirOrph : (s.csrSet a w).dirOrph = s.dirOrph := rfl
@[simp] theorem csrSet_dirWalk : (s.csrSet a w).dirWalk = s.dirWalk := rfl
@[simp] theorem csrSet_engReg : (s.csrSet a w).engReg = s.engReg := rfl
@[simp] theorem csrSet_engs : (s.csrSet a w).engs = s.engs := rfl
@[simp] theorem csrSet_store : (s.csrSet a w).store = s.store := rfl
@[simp] theorem csrSet_storeBad : (s.csrSet a w).storeBad = s.storeBad := rfl
@[simp] theorem csrSet_scratch : (s.csrSet a w).scratch = s.scratch := rfl
@[simp] theorem csrSet_scratchBad : (s.csrSet a w).scratchBad = s.scratchBad := rfl
@[simp] theorem csrSet_locks : (s.csrSet a w).locks = s.locks := rfl
@[simp] theorem csrSet_claims : (s.csrSet a w).claims = s.claims := rfl
@[simp] theorem csrSet_tasks : (s.csrSet a w).tasks = s.tasks := rfl
@[simp] theorem csrSet_ageCtr : (s.csrSet a w).ageCtr = s.ageCtr := rfl
@[simp] theorem csrSet_sched : (s.csrSet a w).sched = s.sched := rfl
@[simp] theorem csrSet_ms : (s.csrSet a w).ms = s.ms := rfl
@[simp] theorem csrSet_refMs : (s.csrSet a w).refMs = s.refMs := rfl
@[simp] theorem csrSet_pllLost : (s.csrSet a w).pllLost = s.pllLost := rfl
@[simp] theorem csrSet_unlockAt : (s.csrSet a w).unlockAt = s.unlockAt := rfl
@[simp] theorem csrSet_cells : (s.csrSet a w).cells = s.cells := rfl
@[simp] theorem csrSet_wayW : (s.csrSet a w).wayW = s.wayW := rfl
@[simp] theorem csrSet_wayB : (s.csrSet a w).wayB = s.wayB := rfl
@[simp] theorem csrSet_chanW : (s.csrSet a w).chanW = s.chanW := rfl
@[simp] theorem csrSet_chanB : (s.csrSet a w).chanB = s.chanB := rfl
@[simp] theorem csrSet_chanQ : (s.csrSet a w).chanQ = s.chanQ := rfl
@[simp] theorem csrSet_border : (s.csrSet a w).border = s.border := rfl
@[simp] theorem csrSet_fabIn : (s.csrSet a w).fabIn = s.fabIn := rfl
@[simp] theorem csrSet_entryOld : (s.csrSet a w).entryOld = s.entryOld := rfl
@[simp] theorem csrSet_fabRef : (s.csrSet a w).fabRef = s.fabRef := rfl
@[simp] theorem csrSet_fabAcc : (s.csrSet a w).fabAcc = s.fabAcc := rfl
@[simp] theorem csrSet_rewrite : (s.csrSet a w).rewrite = s.rewrite := rfl
@[simp] theorem csrSet_usp : (s.csrSet a w).usp = s.usp := rfl
@[simp] theorem csrSet_uio : (s.csrSet a w).uio = s.uio := rfl
@[simp] theorem csrSet_bankMem : (s.csrSet a w).bankMem = s.bankMem := rfl
@[simp] theorem csrSet_bankMark : (s.csrSet a w).bankMark = s.bankMark := rfl
@[simp] theorem csrSet_bankQ : (s.csrSet a w).bankQ = s.bankQ := rfl
@[simp] theorem csrSet_bankRr : (s.csrSet a w).bankRr = s.bankRr := rfl
@[simp] theorem csrSet_bankLast : (s.csrSet a w).bankLast = s.bankLast := rfl
@[simp] theorem csrSet_bankRmw : (s.csrSet a w).bankRmw = s.bankRmw := rfl
@[simp] theorem csrSet_clearing : (s.csrSet a w).clearing = s.clearing := rfl
@[simp] theorem csrSet_bt : (s.csrSet a w).bt = s.bt := rfl
@[simp] theorem csrSet_ditches : (s.csrSet a w).ditches = s.ditches := rfl
@[simp] theorem csrSet_ditchRr : (s.csrSet a w).ditchRr = s.ditchRr := rfl
@[simp] theorem csrSet_frames : (s.csrSet a w).frames = s.frames := rfl
@[simp] theorem csrSet_frameBad : (s.csrSet a w).frameBad = s.frameBad := rfl
@[simp] theorem csrSet_planes : (s.csrSet a w).planes = s.planes := rfl
@[simp] theorem csrSet_image : (s.csrSet a w).image = s.image := rfl
@[simp] theorem csrSet_scrubSkips : (s.csrSet a w).scrubSkips = s.scrubSkips := rfl
@[simp] theorem csrSet_load : (s.csrSet a w).load = s.load := rfl
@[simp] theorem csrSet_hostImage : (s.csrSet a w).hostImage = s.hostImage := rfl
@[simp] theorem csrSet_jobs : (s.csrSet a w).jobs = s.jobs := rfl
@[simp] theorem csrSet_swap : (s.csrSet a w).swap = s.swap := rfl
@[simp] theorem csrSet_releases : (s.csrSet a w).releases = s.releases := rfl
@[simp] theorem csrSet_held : (s.csrSet a w).held = s.held := rfl
@[simp] theorem csrSet_gatesPass : (s.csrSet a w).gatesPass = s.gatesPass := rfl
@[simp] theorem csrSet_writesOn : (s.csrSet a w).writesOn = s.writesOn := rfl
@[simp] theorem csrSet_hosts : (s.csrSet a w).hosts = s.hosts := rfl
@[simp] theorem csrSet_cmds : (s.csrSet a w).cmds = s.cmds := rfl
@[simp] theorem csrSet_refused : (s.csrSet a w).refused = s.refused := rfl
@[simp] theorem csrSet_mboxes : (s.csrSet a w).mboxes = s.mboxes := rfl
@[simp] theorem csrSet_bar : (s.csrSet a w).bar = s.bar := rfl
@[simp] theorem csrSet_sess : (s.csrSet a w).sess = s.sess := rfl
@[simp] theorem csrSet_trans : (s.csrSet a w).trans = s.trans := rfl
@[simp] theorem csrSet_queues : (s.csrSet a w).queues = s.queues := rfl
@[simp] theorem csrSet_windows : (s.csrSet a w).windows = s.windows := rfl
@[simp] theorem csrSet_nditch : (s.csrSet a w).nditch = s.nditch := rfl
@[simp] theorem csrSet_tow : (s.csrSet a w).tow = s.tow := rfl
@[simp] theorem csrSet_flash : (s.csrSet a w).flash = s.flash := rfl
@[simp] theorem csrSet_flashBad : (s.csrSet a w).flashBad = s.flashBad := rfl
@[simp] theorem csrSet_flagCells : (s.csrSet a w).flagCells = s.flagCells := rfl
@[simp] theorem csrSet_fl : (s.csrSet a w).fl = s.fl := rfl
@[simp] theorem csrSet_options : (s.csrSet a w).options = s.options := rfl
@[simp] theorem csrSet_job : (s.csrSet a w).job = s.job := rfl
@[simp] theorem csrSet_fwValid : (s.csrSet a w).fwValid = s.fwValid := rfl
@[simp] theorem csrSet_fwSig : (s.csrSet a w).fwSig = s.fwSig := rfl
@[simp] theorem csrSet_fallback : (s.csrSet a w).fallback = s.fallback := rfl
@[simp] theorem csrSet_otp : (s.csrSet a w).otp = s.otp := rfl
@[simp] theorem csrSet_otpBusy : (s.csrSet a w).otpBusy = s.otpBusy := rfl
@[simp] theorem csrSet_certs : (s.csrSet a w).certs = s.certs := rfl
@[simp] theorem csrSet_pins : (s.csrSet a w).pins = s.pins := rfl
@[simp] theorem csrSet_pwr : (s.csrSet a w).pwr = s.pwr := rfl
@[simp] theorem csrSet_bist : (s.csrSet a w).bist = s.bist := rfl
@[simp] theorem csrSet_tap : (s.csrSet a w).tap = s.tap := rfl
@[simp] theorem csrSet_tapHeld : (s.csrSet a w).tapHeld = s.tapHeld := rfl

@[simp] theorem fset_pending : (s.fset a f n).pending = s.pending := rfl
@[simp] theorem fset_part : (s.fset a f n).part = s.part := rfl
@[simp] theorem fset_shadowCsr : (s.fset a f n).shadowCsr = s.shadowCsr := rfl
@[simp] theorem fset_flipList : (s.fset a f n).flipList = s.flipList := rfl
@[simp] theorem fset_draws : (s.fset a f n).draws = s.draws := rfl
@[simp] theorem fset_serial : (s.fset a f n).serial = s.serial := rfl
@[simp] theorem fset_outbox : (s.fset a f n).outbox = s.outbox := rfl
@[simp] theorem fset_ticks : (s.fset a f n).ticks = s.ticks := rfl
@[simp] theorem fset_ports : (s.fset a f n).ports = s.ports := rfl
@[simp] theorem fset_cfgWords : (s.fset a f n).cfgWords = s.cfgWords := rfl
@[simp] theorem fset_ingress : (s.fset a f n).ingress = s.ingress := rfl
@[simp] theorem fset_headFree : (s.fset a f n).headFree = s.headFree := rfl
@[simp] theorem fset_meterOld : (s.fset a f n).meterOld = s.meterOld := rfl
@[simp] theorem fset_replays : (s.fset a f n).replays = s.replays := rfl
@[simp] theorem fset_xsrc : (s.fset a f n).xsrc = s.xsrc := rfl
@[simp] theorem fset_xin : (s.fset a f n).xin = s.xin := rfl
@[simp] theorem fset_xout : (s.fset a f n).xout = s.xout := rfl
@[simp] theorem fset_xrr : (s.fset a f n).xrr = s.xrr := rfl
@[simp] theorem fset_xbusy : (s.fset a f n).xbusy = s.xbusy := rfl
@[simp] theorem fset_tags : (s.fset a f n).tags = s.tags := rfl
@[simp] theorem fset_perst : (s.fset a f n).perst = s.perst := rfl
@[simp] theorem fset_dirEnt : (s.fset a f n).dirEnt = s.dirEnt := rfl
@[simp] theorem fset_dirBad : (s.fset a f n).dirBad = s.dirBad := rfl
@[simp] theorem fset_dirRr : (s.fset a f n).dirRr = s.dirRr := rfl
@[simp] theorem fset_dirQ : (s.fset a f n).dirQ = s.dirQ := rfl
@[simp] theorem fset_dirTxn : (s.fset a f n).dirTxn = s.dirTxn := rfl
@[simp] theorem fset_dirAcc : (s.fset a f n).dirAcc = s.dirAcc := rfl
@[simp] theorem fset_dirOrph : (s.fset a f n).dirOrph = s.dirOrph := rfl
@[simp] theorem fset_dirWalk : (s.fset a f n).dirWalk = s.dirWalk := rfl
@[simp] theorem fset_engReg : (s.fset a f n).engReg = s.engReg := rfl
@[simp] theorem fset_engs : (s.fset a f n).engs = s.engs := rfl
@[simp] theorem fset_store : (s.fset a f n).store = s.store := rfl
@[simp] theorem fset_storeBad : (s.fset a f n).storeBad = s.storeBad := rfl
@[simp] theorem fset_scratch : (s.fset a f n).scratch = s.scratch := rfl
@[simp] theorem fset_scratchBad : (s.fset a f n).scratchBad = s.scratchBad := rfl
@[simp] theorem fset_locks : (s.fset a f n).locks = s.locks := rfl
@[simp] theorem fset_claims : (s.fset a f n).claims = s.claims := rfl
@[simp] theorem fset_tasks : (s.fset a f n).tasks = s.tasks := rfl
@[simp] theorem fset_ageCtr : (s.fset a f n).ageCtr = s.ageCtr := rfl
@[simp] theorem fset_sched : (s.fset a f n).sched = s.sched := rfl
@[simp] theorem fset_ms : (s.fset a f n).ms = s.ms := rfl
@[simp] theorem fset_refMs : (s.fset a f n).refMs = s.refMs := rfl
@[simp] theorem fset_pllLost : (s.fset a f n).pllLost = s.pllLost := rfl
@[simp] theorem fset_unlockAt : (s.fset a f n).unlockAt = s.unlockAt := rfl
@[simp] theorem fset_cells : (s.fset a f n).cells = s.cells := rfl
@[simp] theorem fset_wayW : (s.fset a f n).wayW = s.wayW := rfl
@[simp] theorem fset_wayB : (s.fset a f n).wayB = s.wayB := rfl
@[simp] theorem fset_chanW : (s.fset a f n).chanW = s.chanW := rfl
@[simp] theorem fset_chanB : (s.fset a f n).chanB = s.chanB := rfl
@[simp] theorem fset_chanQ : (s.fset a f n).chanQ = s.chanQ := rfl
@[simp] theorem fset_border : (s.fset a f n).border = s.border := rfl
@[simp] theorem fset_fabIn : (s.fset a f n).fabIn = s.fabIn := rfl
@[simp] theorem fset_entryOld : (s.fset a f n).entryOld = s.entryOld := rfl
@[simp] theorem fset_fabRef : (s.fset a f n).fabRef = s.fabRef := rfl
@[simp] theorem fset_fabAcc : (s.fset a f n).fabAcc = s.fabAcc := rfl
@[simp] theorem fset_rewrite : (s.fset a f n).rewrite = s.rewrite := rfl
@[simp] theorem fset_usp : (s.fset a f n).usp = s.usp := rfl
@[simp] theorem fset_uio : (s.fset a f n).uio = s.uio := rfl
@[simp] theorem fset_bankMem : (s.fset a f n).bankMem = s.bankMem := rfl
@[simp] theorem fset_bankMark : (s.fset a f n).bankMark = s.bankMark := rfl
@[simp] theorem fset_bankQ : (s.fset a f n).bankQ = s.bankQ := rfl
@[simp] theorem fset_bankRr : (s.fset a f n).bankRr = s.bankRr := rfl
@[simp] theorem fset_bankLast : (s.fset a f n).bankLast = s.bankLast := rfl
@[simp] theorem fset_bankRmw : (s.fset a f n).bankRmw = s.bankRmw := rfl
@[simp] theorem fset_clearing : (s.fset a f n).clearing = s.clearing := rfl
@[simp] theorem fset_bt : (s.fset a f n).bt = s.bt := rfl
@[simp] theorem fset_ditches : (s.fset a f n).ditches = s.ditches := rfl
@[simp] theorem fset_ditchRr : (s.fset a f n).ditchRr = s.ditchRr := rfl
@[simp] theorem fset_frames : (s.fset a f n).frames = s.frames := rfl
@[simp] theorem fset_frameBad : (s.fset a f n).frameBad = s.frameBad := rfl
@[simp] theorem fset_planes : (s.fset a f n).planes = s.planes := rfl
@[simp] theorem fset_image : (s.fset a f n).image = s.image := rfl
@[simp] theorem fset_scrubSkips : (s.fset a f n).scrubSkips = s.scrubSkips := rfl
@[simp] theorem fset_load : (s.fset a f n).load = s.load := rfl
@[simp] theorem fset_hostImage : (s.fset a f n).hostImage = s.hostImage := rfl
@[simp] theorem fset_jobs : (s.fset a f n).jobs = s.jobs := rfl
@[simp] theorem fset_swap : (s.fset a f n).swap = s.swap := rfl
@[simp] theorem fset_releases : (s.fset a f n).releases = s.releases := rfl
@[simp] theorem fset_held : (s.fset a f n).held = s.held := rfl
@[simp] theorem fset_gatesPass : (s.fset a f n).gatesPass = s.gatesPass := rfl
@[simp] theorem fset_writesOn : (s.fset a f n).writesOn = s.writesOn := rfl
@[simp] theorem fset_hosts : (s.fset a f n).hosts = s.hosts := rfl
@[simp] theorem fset_cmds : (s.fset a f n).cmds = s.cmds := rfl
@[simp] theorem fset_refused : (s.fset a f n).refused = s.refused := rfl
@[simp] theorem fset_mboxes : (s.fset a f n).mboxes = s.mboxes := rfl
@[simp] theorem fset_bar : (s.fset a f n).bar = s.bar := rfl
@[simp] theorem fset_sess : (s.fset a f n).sess = s.sess := rfl
@[simp] theorem fset_trans : (s.fset a f n).trans = s.trans := rfl
@[simp] theorem fset_queues : (s.fset a f n).queues = s.queues := rfl
@[simp] theorem fset_windows : (s.fset a f n).windows = s.windows := rfl
@[simp] theorem fset_nditch : (s.fset a f n).nditch = s.nditch := rfl
@[simp] theorem fset_tow : (s.fset a f n).tow = s.tow := rfl
@[simp] theorem fset_flash : (s.fset a f n).flash = s.flash := rfl
@[simp] theorem fset_flashBad : (s.fset a f n).flashBad = s.flashBad := rfl
@[simp] theorem fset_flagCells : (s.fset a f n).flagCells = s.flagCells := rfl
@[simp] theorem fset_fl : (s.fset a f n).fl = s.fl := rfl
@[simp] theorem fset_options : (s.fset a f n).options = s.options := rfl
@[simp] theorem fset_job : (s.fset a f n).job = s.job := rfl
@[simp] theorem fset_fwValid : (s.fset a f n).fwValid = s.fwValid := rfl
@[simp] theorem fset_fwSig : (s.fset a f n).fwSig = s.fwSig := rfl
@[simp] theorem fset_fallback : (s.fset a f n).fallback = s.fallback := rfl
@[simp] theorem fset_otp : (s.fset a f n).otp = s.otp := rfl
@[simp] theorem fset_otpBusy : (s.fset a f n).otpBusy = s.otpBusy := rfl
@[simp] theorem fset_certs : (s.fset a f n).certs = s.certs := rfl
@[simp] theorem fset_pins : (s.fset a f n).pins = s.pins := rfl
@[simp] theorem fset_pwr : (s.fset a f n).pwr = s.pwr := rfl
@[simp] theorem fset_bist : (s.fset a f n).bist = s.bist := rfl
@[simp] theorem fset_tap : (s.fset a f n).tap = s.tap := rfl
@[simp] theorem fset_tapHeld : (s.fset a f n).tapHeld = s.tapHeld := rfl

@[simp] theorem flag_pending : (s.flag a f).pending = s.pending := rfl
@[simp] theorem flag_part : (s.flag a f).part = s.part := rfl
@[simp] theorem flag_shadowCsr : (s.flag a f).shadowCsr = s.shadowCsr := rfl
@[simp] theorem flag_flipList : (s.flag a f).flipList = s.flipList := rfl
@[simp] theorem flag_draws : (s.flag a f).draws = s.draws := rfl
@[simp] theorem flag_serial : (s.flag a f).serial = s.serial := rfl
@[simp] theorem flag_outbox : (s.flag a f).outbox = s.outbox := rfl
@[simp] theorem flag_ticks : (s.flag a f).ticks = s.ticks := rfl
@[simp] theorem flag_ports : (s.flag a f).ports = s.ports := rfl
@[simp] theorem flag_cfgWords : (s.flag a f).cfgWords = s.cfgWords := rfl
@[simp] theorem flag_ingress : (s.flag a f).ingress = s.ingress := rfl
@[simp] theorem flag_headFree : (s.flag a f).headFree = s.headFree := rfl
@[simp] theorem flag_meterOld : (s.flag a f).meterOld = s.meterOld := rfl
@[simp] theorem flag_replays : (s.flag a f).replays = s.replays := rfl
@[simp] theorem flag_xsrc : (s.flag a f).xsrc = s.xsrc := rfl
@[simp] theorem flag_xin : (s.flag a f).xin = s.xin := rfl
@[simp] theorem flag_xout : (s.flag a f).xout = s.xout := rfl
@[simp] theorem flag_xrr : (s.flag a f).xrr = s.xrr := rfl
@[simp] theorem flag_xbusy : (s.flag a f).xbusy = s.xbusy := rfl
@[simp] theorem flag_tags : (s.flag a f).tags = s.tags := rfl
@[simp] theorem flag_perst : (s.flag a f).perst = s.perst := rfl
@[simp] theorem flag_dirEnt : (s.flag a f).dirEnt = s.dirEnt := rfl
@[simp] theorem flag_dirBad : (s.flag a f).dirBad = s.dirBad := rfl
@[simp] theorem flag_dirRr : (s.flag a f).dirRr = s.dirRr := rfl
@[simp] theorem flag_dirQ : (s.flag a f).dirQ = s.dirQ := rfl
@[simp] theorem flag_dirTxn : (s.flag a f).dirTxn = s.dirTxn := rfl
@[simp] theorem flag_dirAcc : (s.flag a f).dirAcc = s.dirAcc := rfl
@[simp] theorem flag_dirOrph : (s.flag a f).dirOrph = s.dirOrph := rfl
@[simp] theorem flag_dirWalk : (s.flag a f).dirWalk = s.dirWalk := rfl
@[simp] theorem flag_engReg : (s.flag a f).engReg = s.engReg := rfl
@[simp] theorem flag_engs : (s.flag a f).engs = s.engs := rfl
@[simp] theorem flag_store : (s.flag a f).store = s.store := rfl
@[simp] theorem flag_storeBad : (s.flag a f).storeBad = s.storeBad := rfl
@[simp] theorem flag_scratch : (s.flag a f).scratch = s.scratch := rfl
@[simp] theorem flag_scratchBad : (s.flag a f).scratchBad = s.scratchBad := rfl
@[simp] theorem flag_locks : (s.flag a f).locks = s.locks := rfl
@[simp] theorem flag_claims : (s.flag a f).claims = s.claims := rfl
@[simp] theorem flag_tasks : (s.flag a f).tasks = s.tasks := rfl
@[simp] theorem flag_ageCtr : (s.flag a f).ageCtr = s.ageCtr := rfl
@[simp] theorem flag_sched : (s.flag a f).sched = s.sched := rfl
@[simp] theorem flag_ms : (s.flag a f).ms = s.ms := rfl
@[simp] theorem flag_refMs : (s.flag a f).refMs = s.refMs := rfl
@[simp] theorem flag_pllLost : (s.flag a f).pllLost = s.pllLost := rfl
@[simp] theorem flag_unlockAt : (s.flag a f).unlockAt = s.unlockAt := rfl
@[simp] theorem flag_cells : (s.flag a f).cells = s.cells := rfl
@[simp] theorem flag_wayW : (s.flag a f).wayW = s.wayW := rfl
@[simp] theorem flag_wayB : (s.flag a f).wayB = s.wayB := rfl
@[simp] theorem flag_chanW : (s.flag a f).chanW = s.chanW := rfl
@[simp] theorem flag_chanB : (s.flag a f).chanB = s.chanB := rfl
@[simp] theorem flag_chanQ : (s.flag a f).chanQ = s.chanQ := rfl
@[simp] theorem flag_border : (s.flag a f).border = s.border := rfl
@[simp] theorem flag_fabIn : (s.flag a f).fabIn = s.fabIn := rfl
@[simp] theorem flag_entryOld : (s.flag a f).entryOld = s.entryOld := rfl
@[simp] theorem flag_fabRef : (s.flag a f).fabRef = s.fabRef := rfl
@[simp] theorem flag_fabAcc : (s.flag a f).fabAcc = s.fabAcc := rfl
@[simp] theorem flag_rewrite : (s.flag a f).rewrite = s.rewrite := rfl
@[simp] theorem flag_usp : (s.flag a f).usp = s.usp := rfl
@[simp] theorem flag_uio : (s.flag a f).uio = s.uio := rfl
@[simp] theorem flag_bankMem : (s.flag a f).bankMem = s.bankMem := rfl
@[simp] theorem flag_bankMark : (s.flag a f).bankMark = s.bankMark := rfl
@[simp] theorem flag_bankQ : (s.flag a f).bankQ = s.bankQ := rfl
@[simp] theorem flag_bankRr : (s.flag a f).bankRr = s.bankRr := rfl
@[simp] theorem flag_bankLast : (s.flag a f).bankLast = s.bankLast := rfl
@[simp] theorem flag_bankRmw : (s.flag a f).bankRmw = s.bankRmw := rfl
@[simp] theorem flag_clearing : (s.flag a f).clearing = s.clearing := rfl
@[simp] theorem flag_bt : (s.flag a f).bt = s.bt := rfl
@[simp] theorem flag_ditches : (s.flag a f).ditches = s.ditches := rfl
@[simp] theorem flag_ditchRr : (s.flag a f).ditchRr = s.ditchRr := rfl
@[simp] theorem flag_frames : (s.flag a f).frames = s.frames := rfl
@[simp] theorem flag_frameBad : (s.flag a f).frameBad = s.frameBad := rfl
@[simp] theorem flag_planes : (s.flag a f).planes = s.planes := rfl
@[simp] theorem flag_image : (s.flag a f).image = s.image := rfl
@[simp] theorem flag_scrubSkips : (s.flag a f).scrubSkips = s.scrubSkips := rfl
@[simp] theorem flag_load : (s.flag a f).load = s.load := rfl
@[simp] theorem flag_hostImage : (s.flag a f).hostImage = s.hostImage := rfl
@[simp] theorem flag_jobs : (s.flag a f).jobs = s.jobs := rfl
@[simp] theorem flag_swap : (s.flag a f).swap = s.swap := rfl
@[simp] theorem flag_releases : (s.flag a f).releases = s.releases := rfl
@[simp] theorem flag_held : (s.flag a f).held = s.held := rfl
@[simp] theorem flag_gatesPass : (s.flag a f).gatesPass = s.gatesPass := rfl
@[simp] theorem flag_writesOn : (s.flag a f).writesOn = s.writesOn := rfl
@[simp] theorem flag_hosts : (s.flag a f).hosts = s.hosts := rfl
@[simp] theorem flag_cmds : (s.flag a f).cmds = s.cmds := rfl
@[simp] theorem flag_refused : (s.flag a f).refused = s.refused := rfl
@[simp] theorem flag_mboxes : (s.flag a f).mboxes = s.mboxes := rfl
@[simp] theorem flag_bar : (s.flag a f).bar = s.bar := rfl
@[simp] theorem flag_sess : (s.flag a f).sess = s.sess := rfl
@[simp] theorem flag_trans : (s.flag a f).trans = s.trans := rfl
@[simp] theorem flag_queues : (s.flag a f).queues = s.queues := rfl
@[simp] theorem flag_windows : (s.flag a f).windows = s.windows := rfl
@[simp] theorem flag_nditch : (s.flag a f).nditch = s.nditch := rfl
@[simp] theorem flag_tow : (s.flag a f).tow = s.tow := rfl
@[simp] theorem flag_flash : (s.flag a f).flash = s.flash := rfl
@[simp] theorem flag_flashBad : (s.flag a f).flashBad = s.flashBad := rfl
@[simp] theorem flag_flagCells : (s.flag a f).flagCells = s.flagCells := rfl
@[simp] theorem flag_fl : (s.flag a f).fl = s.fl := rfl
@[simp] theorem flag_options : (s.flag a f).options = s.options := rfl
@[simp] theorem flag_job : (s.flag a f).job = s.job := rfl
@[simp] theorem flag_fwValid : (s.flag a f).fwValid = s.fwValid := rfl
@[simp] theorem flag_fwSig : (s.flag a f).fwSig = s.fwSig := rfl
@[simp] theorem flag_fallback : (s.flag a f).fallback = s.fallback := rfl
@[simp] theorem flag_otp : (s.flag a f).otp = s.otp := rfl
@[simp] theorem flag_otpBusy : (s.flag a f).otpBusy = s.otpBusy := rfl
@[simp] theorem flag_certs : (s.flag a f).certs = s.certs := rfl
@[simp] theorem flag_pins : (s.flag a f).pins = s.pins := rfl
@[simp] theorem flag_pwr : (s.flag a f).pwr = s.pwr := rfl
@[simp] theorem flag_bist : (s.flag a f).bist = s.bist := rfl
@[simp] theorem flag_tap : (s.flag a f).tap = s.tap := rfl
@[simp] theorem flag_tapHeld : (s.flag a f).tapHeld = s.tapHeld := rfl

@[simp] theorem count_pending : (s.count a f n).pending = s.pending := rfl
@[simp] theorem count_part : (s.count a f n).part = s.part := rfl
@[simp] theorem count_shadowCsr : (s.count a f n).shadowCsr = s.shadowCsr := rfl
@[simp] theorem count_flipList : (s.count a f n).flipList = s.flipList := rfl
@[simp] theorem count_draws : (s.count a f n).draws = s.draws := rfl
@[simp] theorem count_serial : (s.count a f n).serial = s.serial := rfl
@[simp] theorem count_outbox : (s.count a f n).outbox = s.outbox := rfl
@[simp] theorem count_ticks : (s.count a f n).ticks = s.ticks := rfl
@[simp] theorem count_ports : (s.count a f n).ports = s.ports := rfl
@[simp] theorem count_cfgWords : (s.count a f n).cfgWords = s.cfgWords := rfl
@[simp] theorem count_ingress : (s.count a f n).ingress = s.ingress := rfl
@[simp] theorem count_headFree : (s.count a f n).headFree = s.headFree := rfl
@[simp] theorem count_meterOld : (s.count a f n).meterOld = s.meterOld := rfl
@[simp] theorem count_replays : (s.count a f n).replays = s.replays := rfl
@[simp] theorem count_xsrc : (s.count a f n).xsrc = s.xsrc := rfl
@[simp] theorem count_xin : (s.count a f n).xin = s.xin := rfl
@[simp] theorem count_xout : (s.count a f n).xout = s.xout := rfl
@[simp] theorem count_xrr : (s.count a f n).xrr = s.xrr := rfl
@[simp] theorem count_xbusy : (s.count a f n).xbusy = s.xbusy := rfl
@[simp] theorem count_tags : (s.count a f n).tags = s.tags := rfl
@[simp] theorem count_perst : (s.count a f n).perst = s.perst := rfl
@[simp] theorem count_dirEnt : (s.count a f n).dirEnt = s.dirEnt := rfl
@[simp] theorem count_dirBad : (s.count a f n).dirBad = s.dirBad := rfl
@[simp] theorem count_dirRr : (s.count a f n).dirRr = s.dirRr := rfl
@[simp] theorem count_dirQ : (s.count a f n).dirQ = s.dirQ := rfl
@[simp] theorem count_dirTxn : (s.count a f n).dirTxn = s.dirTxn := rfl
@[simp] theorem count_dirAcc : (s.count a f n).dirAcc = s.dirAcc := rfl
@[simp] theorem count_dirOrph : (s.count a f n).dirOrph = s.dirOrph := rfl
@[simp] theorem count_dirWalk : (s.count a f n).dirWalk = s.dirWalk := rfl
@[simp] theorem count_engReg : (s.count a f n).engReg = s.engReg := rfl
@[simp] theorem count_engs : (s.count a f n).engs = s.engs := rfl
@[simp] theorem count_store : (s.count a f n).store = s.store := rfl
@[simp] theorem count_storeBad : (s.count a f n).storeBad = s.storeBad := rfl
@[simp] theorem count_scratch : (s.count a f n).scratch = s.scratch := rfl
@[simp] theorem count_scratchBad : (s.count a f n).scratchBad = s.scratchBad := rfl
@[simp] theorem count_locks : (s.count a f n).locks = s.locks := rfl
@[simp] theorem count_claims : (s.count a f n).claims = s.claims := rfl
@[simp] theorem count_tasks : (s.count a f n).tasks = s.tasks := rfl
@[simp] theorem count_ageCtr : (s.count a f n).ageCtr = s.ageCtr := rfl
@[simp] theorem count_sched : (s.count a f n).sched = s.sched := rfl
@[simp] theorem count_ms : (s.count a f n).ms = s.ms := rfl
@[simp] theorem count_refMs : (s.count a f n).refMs = s.refMs := rfl
@[simp] theorem count_pllLost : (s.count a f n).pllLost = s.pllLost := rfl
@[simp] theorem count_unlockAt : (s.count a f n).unlockAt = s.unlockAt := rfl
@[simp] theorem count_cells : (s.count a f n).cells = s.cells := rfl
@[simp] theorem count_wayW : (s.count a f n).wayW = s.wayW := rfl
@[simp] theorem count_wayB : (s.count a f n).wayB = s.wayB := rfl
@[simp] theorem count_chanW : (s.count a f n).chanW = s.chanW := rfl
@[simp] theorem count_chanB : (s.count a f n).chanB = s.chanB := rfl
@[simp] theorem count_chanQ : (s.count a f n).chanQ = s.chanQ := rfl
@[simp] theorem count_border : (s.count a f n).border = s.border := rfl
@[simp] theorem count_fabIn : (s.count a f n).fabIn = s.fabIn := rfl
@[simp] theorem count_entryOld : (s.count a f n).entryOld = s.entryOld := rfl
@[simp] theorem count_fabRef : (s.count a f n).fabRef = s.fabRef := rfl
@[simp] theorem count_fabAcc : (s.count a f n).fabAcc = s.fabAcc := rfl
@[simp] theorem count_rewrite : (s.count a f n).rewrite = s.rewrite := rfl
@[simp] theorem count_usp : (s.count a f n).usp = s.usp := rfl
@[simp] theorem count_uio : (s.count a f n).uio = s.uio := rfl
@[simp] theorem count_bankMem : (s.count a f n).bankMem = s.bankMem := rfl
@[simp] theorem count_bankMark : (s.count a f n).bankMark = s.bankMark := rfl
@[simp] theorem count_bankQ : (s.count a f n).bankQ = s.bankQ := rfl
@[simp] theorem count_bankRr : (s.count a f n).bankRr = s.bankRr := rfl
@[simp] theorem count_bankLast : (s.count a f n).bankLast = s.bankLast := rfl
@[simp] theorem count_bankRmw : (s.count a f n).bankRmw = s.bankRmw := rfl
@[simp] theorem count_clearing : (s.count a f n).clearing = s.clearing := rfl
@[simp] theorem count_bt : (s.count a f n).bt = s.bt := rfl
@[simp] theorem count_ditches : (s.count a f n).ditches = s.ditches := rfl
@[simp] theorem count_ditchRr : (s.count a f n).ditchRr = s.ditchRr := rfl
@[simp] theorem count_frames : (s.count a f n).frames = s.frames := rfl
@[simp] theorem count_frameBad : (s.count a f n).frameBad = s.frameBad := rfl
@[simp] theorem count_planes : (s.count a f n).planes = s.planes := rfl
@[simp] theorem count_image : (s.count a f n).image = s.image := rfl
@[simp] theorem count_scrubSkips : (s.count a f n).scrubSkips = s.scrubSkips := rfl
@[simp] theorem count_load : (s.count a f n).load = s.load := rfl
@[simp] theorem count_hostImage : (s.count a f n).hostImage = s.hostImage := rfl
@[simp] theorem count_jobs : (s.count a f n).jobs = s.jobs := rfl
@[simp] theorem count_swap : (s.count a f n).swap = s.swap := rfl
@[simp] theorem count_releases : (s.count a f n).releases = s.releases := rfl
@[simp] theorem count_held : (s.count a f n).held = s.held := rfl
@[simp] theorem count_gatesPass : (s.count a f n).gatesPass = s.gatesPass := rfl
@[simp] theorem count_writesOn : (s.count a f n).writesOn = s.writesOn := rfl
@[simp] theorem count_hosts : (s.count a f n).hosts = s.hosts := rfl
@[simp] theorem count_cmds : (s.count a f n).cmds = s.cmds := rfl
@[simp] theorem count_refused : (s.count a f n).refused = s.refused := rfl
@[simp] theorem count_mboxes : (s.count a f n).mboxes = s.mboxes := rfl
@[simp] theorem count_bar : (s.count a f n).bar = s.bar := rfl
@[simp] theorem count_sess : (s.count a f n).sess = s.sess := rfl
@[simp] theorem count_trans : (s.count a f n).trans = s.trans := rfl
@[simp] theorem count_queues : (s.count a f n).queues = s.queues := rfl
@[simp] theorem count_windows : (s.count a f n).windows = s.windows := rfl
@[simp] theorem count_nditch : (s.count a f n).nditch = s.nditch := rfl
@[simp] theorem count_tow : (s.count a f n).tow = s.tow := rfl
@[simp] theorem count_flash : (s.count a f n).flash = s.flash := rfl
@[simp] theorem count_flashBad : (s.count a f n).flashBad = s.flashBad := rfl
@[simp] theorem count_flagCells : (s.count a f n).flagCells = s.flagCells := rfl
@[simp] theorem count_fl : (s.count a f n).fl = s.fl := rfl
@[simp] theorem count_options : (s.count a f n).options = s.options := rfl
@[simp] theorem count_job : (s.count a f n).job = s.job := rfl
@[simp] theorem count_fwValid : (s.count a f n).fwValid = s.fwValid := rfl
@[simp] theorem count_fwSig : (s.count a f n).fwSig = s.fwSig := rfl
@[simp] theorem count_fallback : (s.count a f n).fallback = s.fallback := rfl
@[simp] theorem count_otp : (s.count a f n).otp = s.otp := rfl
@[simp] theorem count_otpBusy : (s.count a f n).otpBusy = s.otpBusy := rfl
@[simp] theorem count_certs : (s.count a f n).certs = s.certs := rfl
@[simp] theorem count_pins : (s.count a f n).pins = s.pins := rfl
@[simp] theorem count_pwr : (s.count a f n).pwr = s.pwr := rfl
@[simp] theorem count_bist : (s.count a f n).bist = s.bist := rfl
@[simp] theorem count_tap : (s.count a f n).tap = s.tap := rfl
@[simp] theorem count_tapHeld : (s.count a f n).tapHeld = s.tapHeld := rfl

@[simp] theorem fsetBit_pending : (s.fsetBit a f n b).pending = s.pending := rfl
@[simp] theorem fsetBit_part : (s.fsetBit a f n b).part = s.part := rfl
@[simp] theorem fsetBit_shadowCsr : (s.fsetBit a f n b).shadowCsr = s.shadowCsr := rfl
@[simp] theorem fsetBit_flipList : (s.fsetBit a f n b).flipList = s.flipList := rfl
@[simp] theorem fsetBit_draws : (s.fsetBit a f n b).draws = s.draws := rfl
@[simp] theorem fsetBit_serial : (s.fsetBit a f n b).serial = s.serial := rfl
@[simp] theorem fsetBit_outbox : (s.fsetBit a f n b).outbox = s.outbox := rfl
@[simp] theorem fsetBit_ticks : (s.fsetBit a f n b).ticks = s.ticks := rfl
@[simp] theorem fsetBit_ports : (s.fsetBit a f n b).ports = s.ports := rfl
@[simp] theorem fsetBit_cfgWords : (s.fsetBit a f n b).cfgWords = s.cfgWords := rfl
@[simp] theorem fsetBit_ingress : (s.fsetBit a f n b).ingress = s.ingress := rfl
@[simp] theorem fsetBit_headFree : (s.fsetBit a f n b).headFree = s.headFree := rfl
@[simp] theorem fsetBit_meterOld : (s.fsetBit a f n b).meterOld = s.meterOld := rfl
@[simp] theorem fsetBit_replays : (s.fsetBit a f n b).replays = s.replays := rfl
@[simp] theorem fsetBit_xsrc : (s.fsetBit a f n b).xsrc = s.xsrc := rfl
@[simp] theorem fsetBit_xin : (s.fsetBit a f n b).xin = s.xin := rfl
@[simp] theorem fsetBit_xout : (s.fsetBit a f n b).xout = s.xout := rfl
@[simp] theorem fsetBit_xrr : (s.fsetBit a f n b).xrr = s.xrr := rfl
@[simp] theorem fsetBit_xbusy : (s.fsetBit a f n b).xbusy = s.xbusy := rfl
@[simp] theorem fsetBit_tags : (s.fsetBit a f n b).tags = s.tags := rfl
@[simp] theorem fsetBit_perst : (s.fsetBit a f n b).perst = s.perst := rfl
@[simp] theorem fsetBit_dirEnt : (s.fsetBit a f n b).dirEnt = s.dirEnt := rfl
@[simp] theorem fsetBit_dirBad : (s.fsetBit a f n b).dirBad = s.dirBad := rfl
@[simp] theorem fsetBit_dirRr : (s.fsetBit a f n b).dirRr = s.dirRr := rfl
@[simp] theorem fsetBit_dirQ : (s.fsetBit a f n b).dirQ = s.dirQ := rfl
@[simp] theorem fsetBit_dirTxn : (s.fsetBit a f n b).dirTxn = s.dirTxn := rfl
@[simp] theorem fsetBit_dirAcc : (s.fsetBit a f n b).dirAcc = s.dirAcc := rfl
@[simp] theorem fsetBit_dirOrph : (s.fsetBit a f n b).dirOrph = s.dirOrph := rfl
@[simp] theorem fsetBit_dirWalk : (s.fsetBit a f n b).dirWalk = s.dirWalk := rfl
@[simp] theorem fsetBit_engReg : (s.fsetBit a f n b).engReg = s.engReg := rfl
@[simp] theorem fsetBit_engs : (s.fsetBit a f n b).engs = s.engs := rfl
@[simp] theorem fsetBit_store : (s.fsetBit a f n b).store = s.store := rfl
@[simp] theorem fsetBit_storeBad : (s.fsetBit a f n b).storeBad = s.storeBad := rfl
@[simp] theorem fsetBit_scratch : (s.fsetBit a f n b).scratch = s.scratch := rfl
@[simp] theorem fsetBit_scratchBad : (s.fsetBit a f n b).scratchBad = s.scratchBad := rfl
@[simp] theorem fsetBit_locks : (s.fsetBit a f n b).locks = s.locks := rfl
@[simp] theorem fsetBit_claims : (s.fsetBit a f n b).claims = s.claims := rfl
@[simp] theorem fsetBit_tasks : (s.fsetBit a f n b).tasks = s.tasks := rfl
@[simp] theorem fsetBit_ageCtr : (s.fsetBit a f n b).ageCtr = s.ageCtr := rfl
@[simp] theorem fsetBit_sched : (s.fsetBit a f n b).sched = s.sched := rfl
@[simp] theorem fsetBit_ms : (s.fsetBit a f n b).ms = s.ms := rfl
@[simp] theorem fsetBit_refMs : (s.fsetBit a f n b).refMs = s.refMs := rfl
@[simp] theorem fsetBit_pllLost : (s.fsetBit a f n b).pllLost = s.pllLost := rfl
@[simp] theorem fsetBit_unlockAt : (s.fsetBit a f n b).unlockAt = s.unlockAt := rfl
@[simp] theorem fsetBit_cells : (s.fsetBit a f n b).cells = s.cells := rfl
@[simp] theorem fsetBit_wayW : (s.fsetBit a f n b).wayW = s.wayW := rfl
@[simp] theorem fsetBit_wayB : (s.fsetBit a f n b).wayB = s.wayB := rfl
@[simp] theorem fsetBit_chanW : (s.fsetBit a f n b).chanW = s.chanW := rfl
@[simp] theorem fsetBit_chanB : (s.fsetBit a f n b).chanB = s.chanB := rfl
@[simp] theorem fsetBit_chanQ : (s.fsetBit a f n b).chanQ = s.chanQ := rfl
@[simp] theorem fsetBit_border : (s.fsetBit a f n b).border = s.border := rfl
@[simp] theorem fsetBit_fabIn : (s.fsetBit a f n b).fabIn = s.fabIn := rfl
@[simp] theorem fsetBit_entryOld : (s.fsetBit a f n b).entryOld = s.entryOld := rfl
@[simp] theorem fsetBit_fabRef : (s.fsetBit a f n b).fabRef = s.fabRef := rfl
@[simp] theorem fsetBit_fabAcc : (s.fsetBit a f n b).fabAcc = s.fabAcc := rfl
@[simp] theorem fsetBit_rewrite : (s.fsetBit a f n b).rewrite = s.rewrite := rfl
@[simp] theorem fsetBit_usp : (s.fsetBit a f n b).usp = s.usp := rfl
@[simp] theorem fsetBit_uio : (s.fsetBit a f n b).uio = s.uio := rfl
@[simp] theorem fsetBit_bankMem : (s.fsetBit a f n b).bankMem = s.bankMem := rfl
@[simp] theorem fsetBit_bankMark : (s.fsetBit a f n b).bankMark = s.bankMark := rfl
@[simp] theorem fsetBit_bankQ : (s.fsetBit a f n b).bankQ = s.bankQ := rfl
@[simp] theorem fsetBit_bankRr : (s.fsetBit a f n b).bankRr = s.bankRr := rfl
@[simp] theorem fsetBit_bankLast : (s.fsetBit a f n b).bankLast = s.bankLast := rfl
@[simp] theorem fsetBit_bankRmw : (s.fsetBit a f n b).bankRmw = s.bankRmw := rfl
@[simp] theorem fsetBit_clearing : (s.fsetBit a f n b).clearing = s.clearing := rfl
@[simp] theorem fsetBit_bt : (s.fsetBit a f n b).bt = s.bt := rfl
@[simp] theorem fsetBit_ditches : (s.fsetBit a f n b).ditches = s.ditches := rfl
@[simp] theorem fsetBit_ditchRr : (s.fsetBit a f n b).ditchRr = s.ditchRr := rfl
@[simp] theorem fsetBit_frames : (s.fsetBit a f n b).frames = s.frames := rfl
@[simp] theorem fsetBit_frameBad : (s.fsetBit a f n b).frameBad = s.frameBad := rfl
@[simp] theorem fsetBit_planes : (s.fsetBit a f n b).planes = s.planes := rfl
@[simp] theorem fsetBit_image : (s.fsetBit a f n b).image = s.image := rfl
@[simp] theorem fsetBit_scrubSkips : (s.fsetBit a f n b).scrubSkips = s.scrubSkips := rfl
@[simp] theorem fsetBit_load : (s.fsetBit a f n b).load = s.load := rfl
@[simp] theorem fsetBit_hostImage : (s.fsetBit a f n b).hostImage = s.hostImage := rfl
@[simp] theorem fsetBit_jobs : (s.fsetBit a f n b).jobs = s.jobs := rfl
@[simp] theorem fsetBit_swap : (s.fsetBit a f n b).swap = s.swap := rfl
@[simp] theorem fsetBit_releases : (s.fsetBit a f n b).releases = s.releases := rfl
@[simp] theorem fsetBit_held : (s.fsetBit a f n b).held = s.held := rfl
@[simp] theorem fsetBit_gatesPass : (s.fsetBit a f n b).gatesPass = s.gatesPass := rfl
@[simp] theorem fsetBit_writesOn : (s.fsetBit a f n b).writesOn = s.writesOn := rfl
@[simp] theorem fsetBit_hosts : (s.fsetBit a f n b).hosts = s.hosts := rfl
@[simp] theorem fsetBit_cmds : (s.fsetBit a f n b).cmds = s.cmds := rfl
@[simp] theorem fsetBit_refused : (s.fsetBit a f n b).refused = s.refused := rfl
@[simp] theorem fsetBit_mboxes : (s.fsetBit a f n b).mboxes = s.mboxes := rfl
@[simp] theorem fsetBit_bar : (s.fsetBit a f n b).bar = s.bar := rfl
@[simp] theorem fsetBit_sess : (s.fsetBit a f n b).sess = s.sess := rfl
@[simp] theorem fsetBit_trans : (s.fsetBit a f n b).trans = s.trans := rfl
@[simp] theorem fsetBit_queues : (s.fsetBit a f n b).queues = s.queues := rfl
@[simp] theorem fsetBit_windows : (s.fsetBit a f n b).windows = s.windows := rfl
@[simp] theorem fsetBit_nditch : (s.fsetBit a f n b).nditch = s.nditch := rfl
@[simp] theorem fsetBit_tow : (s.fsetBit a f n b).tow = s.tow := rfl
@[simp] theorem fsetBit_flash : (s.fsetBit a f n b).flash = s.flash := rfl
@[simp] theorem fsetBit_flashBad : (s.fsetBit a f n b).flashBad = s.flashBad := rfl
@[simp] theorem fsetBit_flagCells : (s.fsetBit a f n b).flagCells = s.flagCells := rfl
@[simp] theorem fsetBit_fl : (s.fsetBit a f n b).fl = s.fl := rfl
@[simp] theorem fsetBit_options : (s.fsetBit a f n b).options = s.options := rfl
@[simp] theorem fsetBit_job : (s.fsetBit a f n b).job = s.job := rfl
@[simp] theorem fsetBit_fwValid : (s.fsetBit a f n b).fwValid = s.fwValid := rfl
@[simp] theorem fsetBit_fwSig : (s.fsetBit a f n b).fwSig = s.fwSig := rfl
@[simp] theorem fsetBit_fallback : (s.fsetBit a f n b).fallback = s.fallback := rfl
@[simp] theorem fsetBit_otp : (s.fsetBit a f n b).otp = s.otp := rfl
@[simp] theorem fsetBit_otpBusy : (s.fsetBit a f n b).otpBusy = s.otpBusy := rfl
@[simp] theorem fsetBit_certs : (s.fsetBit a f n b).certs = s.certs := rfl
@[simp] theorem fsetBit_pins : (s.fsetBit a f n b).pins = s.pins := rfl
@[simp] theorem fsetBit_pwr : (s.fsetBit a f n b).pwr = s.pwr := rfl
@[simp] theorem fsetBit_bist : (s.fsetBit a f n b).bist = s.bist := rfl
@[simp] theorem fsetBit_tap : (s.fsetBit a f n b).tap = s.tap := rfl
@[simp] theorem fsetBit_tapHeld : (s.fsetBit a f n b).tapHeld = s.tapHeld := rfl

@[simp] theorem emit_pending : (s.emit em).pending = s.pending := rfl
@[simp] theorem emit_part : (s.emit em).part = s.part := rfl
@[simp] theorem emit_csr : (s.emit em).csr = s.csr := rfl
@[simp] theorem emit_shadowCsr : (s.emit em).shadowCsr = s.shadowCsr := rfl
@[simp] theorem emit_flipList : (s.emit em).flipList = s.flipList := rfl
@[simp] theorem emit_draws : (s.emit em).draws = s.draws := rfl
@[simp] theorem emit_serial : (s.emit em).serial = s.serial := rfl
@[simp] theorem emit_ticks : (s.emit em).ticks = s.ticks := rfl
@[simp] theorem emit_ports : (s.emit em).ports = s.ports := rfl
@[simp] theorem emit_cfgWords : (s.emit em).cfgWords = s.cfgWords := rfl
@[simp] theorem emit_ingress : (s.emit em).ingress = s.ingress := rfl
@[simp] theorem emit_headFree : (s.emit em).headFree = s.headFree := rfl
@[simp] theorem emit_meterOld : (s.emit em).meterOld = s.meterOld := rfl
@[simp] theorem emit_replays : (s.emit em).replays = s.replays := rfl
@[simp] theorem emit_xsrc : (s.emit em).xsrc = s.xsrc := rfl
@[simp] theorem emit_xin : (s.emit em).xin = s.xin := rfl
@[simp] theorem emit_xout : (s.emit em).xout = s.xout := rfl
@[simp] theorem emit_xrr : (s.emit em).xrr = s.xrr := rfl
@[simp] theorem emit_xbusy : (s.emit em).xbusy = s.xbusy := rfl
@[simp] theorem emit_tags : (s.emit em).tags = s.tags := rfl
@[simp] theorem emit_perst : (s.emit em).perst = s.perst := rfl
@[simp] theorem emit_dirEnt : (s.emit em).dirEnt = s.dirEnt := rfl
@[simp] theorem emit_dirBad : (s.emit em).dirBad = s.dirBad := rfl
@[simp] theorem emit_dirRr : (s.emit em).dirRr = s.dirRr := rfl
@[simp] theorem emit_dirQ : (s.emit em).dirQ = s.dirQ := rfl
@[simp] theorem emit_dirTxn : (s.emit em).dirTxn = s.dirTxn := rfl
@[simp] theorem emit_dirAcc : (s.emit em).dirAcc = s.dirAcc := rfl
@[simp] theorem emit_dirOrph : (s.emit em).dirOrph = s.dirOrph := rfl
@[simp] theorem emit_dirWalk : (s.emit em).dirWalk = s.dirWalk := rfl
@[simp] theorem emit_engReg : (s.emit em).engReg = s.engReg := rfl
@[simp] theorem emit_engs : (s.emit em).engs = s.engs := rfl
@[simp] theorem emit_store : (s.emit em).store = s.store := rfl
@[simp] theorem emit_storeBad : (s.emit em).storeBad = s.storeBad := rfl
@[simp] theorem emit_scratch : (s.emit em).scratch = s.scratch := rfl
@[simp] theorem emit_scratchBad : (s.emit em).scratchBad = s.scratchBad := rfl
@[simp] theorem emit_locks : (s.emit em).locks = s.locks := rfl
@[simp] theorem emit_claims : (s.emit em).claims = s.claims := rfl
@[simp] theorem emit_tasks : (s.emit em).tasks = s.tasks := rfl
@[simp] theorem emit_ageCtr : (s.emit em).ageCtr = s.ageCtr := rfl
@[simp] theorem emit_sched : (s.emit em).sched = s.sched := rfl
@[simp] theorem emit_ms : (s.emit em).ms = s.ms := rfl
@[simp] theorem emit_refMs : (s.emit em).refMs = s.refMs := rfl
@[simp] theorem emit_pllLost : (s.emit em).pllLost = s.pllLost := rfl
@[simp] theorem emit_unlockAt : (s.emit em).unlockAt = s.unlockAt := rfl
@[simp] theorem emit_cells : (s.emit em).cells = s.cells := rfl
@[simp] theorem emit_wayW : (s.emit em).wayW = s.wayW := rfl
@[simp] theorem emit_wayB : (s.emit em).wayB = s.wayB := rfl
@[simp] theorem emit_chanW : (s.emit em).chanW = s.chanW := rfl
@[simp] theorem emit_chanB : (s.emit em).chanB = s.chanB := rfl
@[simp] theorem emit_chanQ : (s.emit em).chanQ = s.chanQ := rfl
@[simp] theorem emit_border : (s.emit em).border = s.border := rfl
@[simp] theorem emit_fabIn : (s.emit em).fabIn = s.fabIn := rfl
@[simp] theorem emit_entryOld : (s.emit em).entryOld = s.entryOld := rfl
@[simp] theorem emit_fabRef : (s.emit em).fabRef = s.fabRef := rfl
@[simp] theorem emit_fabAcc : (s.emit em).fabAcc = s.fabAcc := rfl
@[simp] theorem emit_rewrite : (s.emit em).rewrite = s.rewrite := rfl
@[simp] theorem emit_usp : (s.emit em).usp = s.usp := rfl
@[simp] theorem emit_uio : (s.emit em).uio = s.uio := rfl
@[simp] theorem emit_bankMem : (s.emit em).bankMem = s.bankMem := rfl
@[simp] theorem emit_bankMark : (s.emit em).bankMark = s.bankMark := rfl
@[simp] theorem emit_bankQ : (s.emit em).bankQ = s.bankQ := rfl
@[simp] theorem emit_bankRr : (s.emit em).bankRr = s.bankRr := rfl
@[simp] theorem emit_bankLast : (s.emit em).bankLast = s.bankLast := rfl
@[simp] theorem emit_bankRmw : (s.emit em).bankRmw = s.bankRmw := rfl
@[simp] theorem emit_clearing : (s.emit em).clearing = s.clearing := rfl
@[simp] theorem emit_bt : (s.emit em).bt = s.bt := rfl
@[simp] theorem emit_ditches : (s.emit em).ditches = s.ditches := rfl
@[simp] theorem emit_ditchRr : (s.emit em).ditchRr = s.ditchRr := rfl
@[simp] theorem emit_frames : (s.emit em).frames = s.frames := rfl
@[simp] theorem emit_frameBad : (s.emit em).frameBad = s.frameBad := rfl
@[simp] theorem emit_planes : (s.emit em).planes = s.planes := rfl
@[simp] theorem emit_image : (s.emit em).image = s.image := rfl
@[simp] theorem emit_scrubSkips : (s.emit em).scrubSkips = s.scrubSkips := rfl
@[simp] theorem emit_load : (s.emit em).load = s.load := rfl
@[simp] theorem emit_hostImage : (s.emit em).hostImage = s.hostImage := rfl
@[simp] theorem emit_jobs : (s.emit em).jobs = s.jobs := rfl
@[simp] theorem emit_swap : (s.emit em).swap = s.swap := rfl
@[simp] theorem emit_releases : (s.emit em).releases = s.releases := rfl
@[simp] theorem emit_held : (s.emit em).held = s.held := rfl
@[simp] theorem emit_gatesPass : (s.emit em).gatesPass = s.gatesPass := rfl
@[simp] theorem emit_writesOn : (s.emit em).writesOn = s.writesOn := rfl
@[simp] theorem emit_hosts : (s.emit em).hosts = s.hosts := rfl
@[simp] theorem emit_cmds : (s.emit em).cmds = s.cmds := rfl
@[simp] theorem emit_refused : (s.emit em).refused = s.refused := rfl
@[simp] theorem emit_mboxes : (s.emit em).mboxes = s.mboxes := rfl
@[simp] theorem emit_bar : (s.emit em).bar = s.bar := rfl
@[simp] theorem emit_sess : (s.emit em).sess = s.sess := rfl
@[simp] theorem emit_trans : (s.emit em).trans = s.trans := rfl
@[simp] theorem emit_queues : (s.emit em).queues = s.queues := rfl
@[simp] theorem emit_windows : (s.emit em).windows = s.windows := rfl
@[simp] theorem emit_nditch : (s.emit em).nditch = s.nditch := rfl
@[simp] theorem emit_tow : (s.emit em).tow = s.tow := rfl
@[simp] theorem emit_flash : (s.emit em).flash = s.flash := rfl
@[simp] theorem emit_flashBad : (s.emit em).flashBad = s.flashBad := rfl
@[simp] theorem emit_flagCells : (s.emit em).flagCells = s.flagCells := rfl
@[simp] theorem emit_fl : (s.emit em).fl = s.fl := rfl
@[simp] theorem emit_options : (s.emit em).options = s.options := rfl
@[simp] theorem emit_job : (s.emit em).job = s.job := rfl
@[simp] theorem emit_fwValid : (s.emit em).fwValid = s.fwValid := rfl
@[simp] theorem emit_fwSig : (s.emit em).fwSig = s.fwSig := rfl
@[simp] theorem emit_fallback : (s.emit em).fallback = s.fallback := rfl
@[simp] theorem emit_otp : (s.emit em).otp = s.otp := rfl
@[simp] theorem emit_otpBusy : (s.emit em).otpBusy = s.otpBusy := rfl
@[simp] theorem emit_certs : (s.emit em).certs = s.certs := rfl
@[simp] theorem emit_pins : (s.emit em).pins = s.pins := rfl
@[simp] theorem emit_pwr : (s.emit em).pwr = s.pwr := rfl
@[simp] theorem emit_bist : (s.emit em).bist = s.bist := rfl
@[simp] theorem emit_tap : (s.emit em).tap = s.tap := rfl
@[simp] theorem emit_tapHeld : (s.emit em).tapHeld = s.tapHeld := rfl

theorem inject_rest : s.inject a n m i j = { s with serial := (s.inject a n m i j).serial, xsrc := (s.inject a n m i j).xsrc, xin := (s.inject a n m i j).xin } := by
  let s' : State := { s with serial := s.serial + 1 }
  let x : XMsg := ⟨s.serial, m, i, j⟩
  by_cases h : s'.fitsIn a n m = true
  · have e : ∃ q, s.inject a n m i j = { s' with xin := q } := ⟨_, if_pos h⟩
    obtain ⟨q, e⟩ := e
    rw [e]
  · have e : ∃ q, s.inject a n m i j = { s' with xsrc := q } := ⟨_, if_neg h⟩
    obtain ⟨q, e⟩ := e
    rw [e]

@[simp] theorem inject_pending : (s.inject a n m i j).pending = s.pending := (congrArg State.pending (inject_rest s a n i j m) :)
@[simp] theorem inject_part : (s.inject a n m i j).part = s.part := (congrArg State.part (inject_rest s a n i j m) :)
@[simp] theorem inject_csr : (s.inject a n m i j).csr = s.csr := (congrArg State.csr (inject_rest s a n i j m) :)
@[simp] theorem inject_shadowCsr : (s.inject a n m i j).shadowCsr = s.shadowCsr := (congrArg State.shadowCsr (inject_rest s a n i j m) :)
@[simp] theorem inject_flipList : (s.inject a n m i j).flipList = s.flipList := (congrArg State.flipList (inject_rest s a n i j m) :)
@[simp] theorem inject_draws : (s.inject a n m i j).draws = s.draws := (congrArg State.draws (inject_rest s a n i j m) :)
@[simp] theorem inject_outbox : (s.inject a n m i j).outbox = s.outbox := (congrArg State.outbox (inject_rest s a n i j m) :)
@[simp] theorem inject_ticks : (s.inject a n m i j).ticks = s.ticks := (congrArg State.ticks (inject_rest s a n i j m) :)
@[simp] theorem inject_ports : (s.inject a n m i j).ports = s.ports := (congrArg State.ports (inject_rest s a n i j m) :)
@[simp] theorem inject_cfgWords : (s.inject a n m i j).cfgWords = s.cfgWords := (congrArg State.cfgWords (inject_rest s a n i j m) :)
@[simp] theorem inject_ingress : (s.inject a n m i j).ingress = s.ingress := (congrArg State.ingress (inject_rest s a n i j m) :)
@[simp] theorem inject_headFree : (s.inject a n m i j).headFree = s.headFree := (congrArg State.headFree (inject_rest s a n i j m) :)
@[simp] theorem inject_meterOld : (s.inject a n m i j).meterOld = s.meterOld := (congrArg State.meterOld (inject_rest s a n i j m) :)
@[simp] theorem inject_replays : (s.inject a n m i j).replays = s.replays := (congrArg State.replays (inject_rest s a n i j m) :)
@[simp] theorem inject_xout : (s.inject a n m i j).xout = s.xout := (congrArg State.xout (inject_rest s a n i j m) :)
@[simp] theorem inject_xrr : (s.inject a n m i j).xrr = s.xrr := (congrArg State.xrr (inject_rest s a n i j m) :)
@[simp] theorem inject_xbusy : (s.inject a n m i j).xbusy = s.xbusy := (congrArg State.xbusy (inject_rest s a n i j m) :)
@[simp] theorem inject_tags : (s.inject a n m i j).tags = s.tags := (congrArg State.tags (inject_rest s a n i j m) :)
@[simp] theorem inject_perst : (s.inject a n m i j).perst = s.perst := (congrArg State.perst (inject_rest s a n i j m) :)
@[simp] theorem inject_dirEnt : (s.inject a n m i j).dirEnt = s.dirEnt := (congrArg State.dirEnt (inject_rest s a n i j m) :)
@[simp] theorem inject_dirBad : (s.inject a n m i j).dirBad = s.dirBad := (congrArg State.dirBad (inject_rest s a n i j m) :)
@[simp] theorem inject_dirRr : (s.inject a n m i j).dirRr = s.dirRr := (congrArg State.dirRr (inject_rest s a n i j m) :)
@[simp] theorem inject_dirQ : (s.inject a n m i j).dirQ = s.dirQ := (congrArg State.dirQ (inject_rest s a n i j m) :)
@[simp] theorem inject_dirTxn : (s.inject a n m i j).dirTxn = s.dirTxn := (congrArg State.dirTxn (inject_rest s a n i j m) :)
@[simp] theorem inject_dirAcc : (s.inject a n m i j).dirAcc = s.dirAcc := (congrArg State.dirAcc (inject_rest s a n i j m) :)
@[simp] theorem inject_dirOrph : (s.inject a n m i j).dirOrph = s.dirOrph := (congrArg State.dirOrph (inject_rest s a n i j m) :)
@[simp] theorem inject_dirWalk : (s.inject a n m i j).dirWalk = s.dirWalk := (congrArg State.dirWalk (inject_rest s a n i j m) :)
@[simp] theorem inject_engReg : (s.inject a n m i j).engReg = s.engReg := (congrArg State.engReg (inject_rest s a n i j m) :)
@[simp] theorem inject_engs : (s.inject a n m i j).engs = s.engs := (congrArg State.engs (inject_rest s a n i j m) :)
@[simp] theorem inject_store : (s.inject a n m i j).store = s.store := (congrArg State.store (inject_rest s a n i j m) :)
@[simp] theorem inject_storeBad : (s.inject a n m i j).storeBad = s.storeBad := (congrArg State.storeBad (inject_rest s a n i j m) :)
@[simp] theorem inject_scratch : (s.inject a n m i j).scratch = s.scratch := (congrArg State.scratch (inject_rest s a n i j m) :)
@[simp] theorem inject_scratchBad : (s.inject a n m i j).scratchBad = s.scratchBad := (congrArg State.scratchBad (inject_rest s a n i j m) :)
@[simp] theorem inject_locks : (s.inject a n m i j).locks = s.locks := (congrArg State.locks (inject_rest s a n i j m) :)
@[simp] theorem inject_claims : (s.inject a n m i j).claims = s.claims := (congrArg State.claims (inject_rest s a n i j m) :)
@[simp] theorem inject_tasks : (s.inject a n m i j).tasks = s.tasks := (congrArg State.tasks (inject_rest s a n i j m) :)
@[simp] theorem inject_ageCtr : (s.inject a n m i j).ageCtr = s.ageCtr := (congrArg State.ageCtr (inject_rest s a n i j m) :)
@[simp] theorem inject_sched : (s.inject a n m i j).sched = s.sched := (congrArg State.sched (inject_rest s a n i j m) :)
@[simp] theorem inject_ms : (s.inject a n m i j).ms = s.ms := (congrArg State.ms (inject_rest s a n i j m) :)
@[simp] theorem inject_refMs : (s.inject a n m i j).refMs = s.refMs := (congrArg State.refMs (inject_rest s a n i j m) :)
@[simp] theorem inject_pllLost : (s.inject a n m i j).pllLost = s.pllLost := (congrArg State.pllLost (inject_rest s a n i j m) :)
@[simp] theorem inject_unlockAt : (s.inject a n m i j).unlockAt = s.unlockAt := (congrArg State.unlockAt (inject_rest s a n i j m) :)
@[simp] theorem inject_cells : (s.inject a n m i j).cells = s.cells := (congrArg State.cells (inject_rest s a n i j m) :)
@[simp] theorem inject_wayW : (s.inject a n m i j).wayW = s.wayW := (congrArg State.wayW (inject_rest s a n i j m) :)
@[simp] theorem inject_wayB : (s.inject a n m i j).wayB = s.wayB := (congrArg State.wayB (inject_rest s a n i j m) :)
@[simp] theorem inject_chanW : (s.inject a n m i j).chanW = s.chanW := (congrArg State.chanW (inject_rest s a n i j m) :)
@[simp] theorem inject_chanB : (s.inject a n m i j).chanB = s.chanB := (congrArg State.chanB (inject_rest s a n i j m) :)
@[simp] theorem inject_chanQ : (s.inject a n m i j).chanQ = s.chanQ := (congrArg State.chanQ (inject_rest s a n i j m) :)
@[simp] theorem inject_border : (s.inject a n m i j).border = s.border := (congrArg State.border (inject_rest s a n i j m) :)
@[simp] theorem inject_fabIn : (s.inject a n m i j).fabIn = s.fabIn := (congrArg State.fabIn (inject_rest s a n i j m) :)
@[simp] theorem inject_entryOld : (s.inject a n m i j).entryOld = s.entryOld := (congrArg State.entryOld (inject_rest s a n i j m) :)
@[simp] theorem inject_fabRef : (s.inject a n m i j).fabRef = s.fabRef := (congrArg State.fabRef (inject_rest s a n i j m) :)
@[simp] theorem inject_fabAcc : (s.inject a n m i j).fabAcc = s.fabAcc := (congrArg State.fabAcc (inject_rest s a n i j m) :)
@[simp] theorem inject_rewrite : (s.inject a n m i j).rewrite = s.rewrite := (congrArg State.rewrite (inject_rest s a n i j m) :)
@[simp] theorem inject_usp : (s.inject a n m i j).usp = s.usp := (congrArg State.usp (inject_rest s a n i j m) :)
@[simp] theorem inject_uio : (s.inject a n m i j).uio = s.uio := (congrArg State.uio (inject_rest s a n i j m) :)
@[simp] theorem inject_bankMem : (s.inject a n m i j).bankMem = s.bankMem := (congrArg State.bankMem (inject_rest s a n i j m) :)
@[simp] theorem inject_bankMark : (s.inject a n m i j).bankMark = s.bankMark := (congrArg State.bankMark (inject_rest s a n i j m) :)
@[simp] theorem inject_bankQ : (s.inject a n m i j).bankQ = s.bankQ := (congrArg State.bankQ (inject_rest s a n i j m) :)
@[simp] theorem inject_bankRr : (s.inject a n m i j).bankRr = s.bankRr := (congrArg State.bankRr (inject_rest s a n i j m) :)
@[simp] theorem inject_bankLast : (s.inject a n m i j).bankLast = s.bankLast := (congrArg State.bankLast (inject_rest s a n i j m) :)
@[simp] theorem inject_bankRmw : (s.inject a n m i j).bankRmw = s.bankRmw := (congrArg State.bankRmw (inject_rest s a n i j m) :)
@[simp] theorem inject_clearing : (s.inject a n m i j).clearing = s.clearing := (congrArg State.clearing (inject_rest s a n i j m) :)
@[simp] theorem inject_bt : (s.inject a n m i j).bt = s.bt := (congrArg State.bt (inject_rest s a n i j m) :)
@[simp] theorem inject_ditches : (s.inject a n m i j).ditches = s.ditches := (congrArg State.ditches (inject_rest s a n i j m) :)
@[simp] theorem inject_ditchRr : (s.inject a n m i j).ditchRr = s.ditchRr := (congrArg State.ditchRr (inject_rest s a n i j m) :)
@[simp] theorem inject_frames : (s.inject a n m i j).frames = s.frames := (congrArg State.frames (inject_rest s a n i j m) :)
@[simp] theorem inject_frameBad : (s.inject a n m i j).frameBad = s.frameBad := (congrArg State.frameBad (inject_rest s a n i j m) :)
@[simp] theorem inject_planes : (s.inject a n m i j).planes = s.planes := (congrArg State.planes (inject_rest s a n i j m) :)
@[simp] theorem inject_image : (s.inject a n m i j).image = s.image := (congrArg State.image (inject_rest s a n i j m) :)
@[simp] theorem inject_scrubSkips : (s.inject a n m i j).scrubSkips = s.scrubSkips := (congrArg State.scrubSkips (inject_rest s a n i j m) :)
@[simp] theorem inject_load : (s.inject a n m i j).load = s.load := (congrArg State.load (inject_rest s a n i j m) :)
@[simp] theorem inject_hostImage : (s.inject a n m i j).hostImage = s.hostImage := (congrArg State.hostImage (inject_rest s a n i j m) :)
@[simp] theorem inject_jobs : (s.inject a n m i j).jobs = s.jobs := (congrArg State.jobs (inject_rest s a n i j m) :)
@[simp] theorem inject_swap : (s.inject a n m i j).swap = s.swap := (congrArg State.swap (inject_rest s a n i j m) :)
@[simp] theorem inject_releases : (s.inject a n m i j).releases = s.releases := (congrArg State.releases (inject_rest s a n i j m) :)
@[simp] theorem inject_held : (s.inject a n m i j).held = s.held := (congrArg State.held (inject_rest s a n i j m) :)
@[simp] theorem inject_gatesPass : (s.inject a n m i j).gatesPass = s.gatesPass := (congrArg State.gatesPass (inject_rest s a n i j m) :)
@[simp] theorem inject_writesOn : (s.inject a n m i j).writesOn = s.writesOn := (congrArg State.writesOn (inject_rest s a n i j m) :)
@[simp] theorem inject_hosts : (s.inject a n m i j).hosts = s.hosts := (congrArg State.hosts (inject_rest s a n i j m) :)
@[simp] theorem inject_cmds : (s.inject a n m i j).cmds = s.cmds := (congrArg State.cmds (inject_rest s a n i j m) :)
@[simp] theorem inject_refused : (s.inject a n m i j).refused = s.refused := (congrArg State.refused (inject_rest s a n i j m) :)
@[simp] theorem inject_mboxes : (s.inject a n m i j).mboxes = s.mboxes := (congrArg State.mboxes (inject_rest s a n i j m) :)
@[simp] theorem inject_bar : (s.inject a n m i j).bar = s.bar := (congrArg State.bar (inject_rest s a n i j m) :)
@[simp] theorem inject_sess : (s.inject a n m i j).sess = s.sess := (congrArg State.sess (inject_rest s a n i j m) :)
@[simp] theorem inject_trans : (s.inject a n m i j).trans = s.trans := (congrArg State.trans (inject_rest s a n i j m) :)
@[simp] theorem inject_queues : (s.inject a n m i j).queues = s.queues := (congrArg State.queues (inject_rest s a n i j m) :)
@[simp] theorem inject_windows : (s.inject a n m i j).windows = s.windows := (congrArg State.windows (inject_rest s a n i j m) :)
@[simp] theorem inject_nditch : (s.inject a n m i j).nditch = s.nditch := (congrArg State.nditch (inject_rest s a n i j m) :)
@[simp] theorem inject_tow : (s.inject a n m i j).tow = s.tow := (congrArg State.tow (inject_rest s a n i j m) :)
@[simp] theorem inject_flash : (s.inject a n m i j).flash = s.flash := (congrArg State.flash (inject_rest s a n i j m) :)
@[simp] theorem inject_flashBad : (s.inject a n m i j).flashBad = s.flashBad := (congrArg State.flashBad (inject_rest s a n i j m) :)
@[simp] theorem inject_flagCells : (s.inject a n m i j).flagCells = s.flagCells := (congrArg State.flagCells (inject_rest s a n i j m) :)
@[simp] theorem inject_fl : (s.inject a n m i j).fl = s.fl := (congrArg State.fl (inject_rest s a n i j m) :)
@[simp] theorem inject_options : (s.inject a n m i j).options = s.options := (congrArg State.options (inject_rest s a n i j m) :)
@[simp] theorem inject_job : (s.inject a n m i j).job = s.job := (congrArg State.job (inject_rest s a n i j m) :)
@[simp] theorem inject_fwValid : (s.inject a n m i j).fwValid = s.fwValid := (congrArg State.fwValid (inject_rest s a n i j m) :)
@[simp] theorem inject_fwSig : (s.inject a n m i j).fwSig = s.fwSig := (congrArg State.fwSig (inject_rest s a n i j m) :)
@[simp] theorem inject_fallback : (s.inject a n m i j).fallback = s.fallback := (congrArg State.fallback (inject_rest s a n i j m) :)
@[simp] theorem inject_otp : (s.inject a n m i j).otp = s.otp := (congrArg State.otp (inject_rest s a n i j m) :)
@[simp] theorem inject_otpBusy : (s.inject a n m i j).otpBusy = s.otpBusy := (congrArg State.otpBusy (inject_rest s a n i j m) :)
@[simp] theorem inject_certs : (s.inject a n m i j).certs = s.certs := (congrArg State.certs (inject_rest s a n i j m) :)
@[simp] theorem inject_pins : (s.inject a n m i j).pins = s.pins := (congrArg State.pins (inject_rest s a n i j m) :)
@[simp] theorem inject_pwr : (s.inject a n m i j).pwr = s.pwr := (congrArg State.pwr (inject_rest s a n i j m) :)
@[simp] theorem inject_bist : (s.inject a n m i j).bist = s.bist := (congrArg State.bist (inject_rest s a n i j m) :)
@[simp] theorem inject_tap : (s.inject a n m i j).tap = s.tap := (congrArg State.tap (inject_rest s a n i j m) :)
@[simp] theorem inject_tapHeld : (s.inject a n m i j).tapHeld = s.tapHeld := (congrArg State.tapHeld (inject_rest s a n i j m) :)

theorem notice_rest : s.notice a n fs = { s with csr := (s.notice a n fs).csr, queues := (s.notice a n fs).queues } := by
  by_cases h : 64 ≤ (SMap.get [] s.queues (queueOf a)).length
  · have e : s.notice a n fs = s.count (Csr.ndQdropCnt (queueOf a)) NdQdropCnt.dropped 1 := if_pos h
    rw [e]; rfl
  · have e : ∃ q, s.notice a n fs = { s with queues := q } := ⟨_, if_neg h⟩
    obtain ⟨q, e⟩ := e
    rw [e]

@[simp] theorem notice_pending : (s.notice a n fs).pending = s.pending := (congrArg State.pending (notice_rest s a n fs) :)
@[simp] theorem notice_part : (s.notice a n fs).part = s.part := (congrArg State.part (notice_rest s a n fs) :)
@[simp] theorem notice_shadowCsr : (s.notice a n fs).shadowCsr = s.shadowCsr := (congrArg State.shadowCsr (notice_rest s a n fs) :)
@[simp] theorem notice_flipList : (s.notice a n fs).flipList = s.flipList := (congrArg State.flipList (notice_rest s a n fs) :)
@[simp] theorem notice_draws : (s.notice a n fs).draws = s.draws := (congrArg State.draws (notice_rest s a n fs) :)
@[simp] theorem notice_serial : (s.notice a n fs).serial = s.serial := (congrArg State.serial (notice_rest s a n fs) :)
@[simp] theorem notice_outbox : (s.notice a n fs).outbox = s.outbox := (congrArg State.outbox (notice_rest s a n fs) :)
@[simp] theorem notice_ticks : (s.notice a n fs).ticks = s.ticks := (congrArg State.ticks (notice_rest s a n fs) :)
@[simp] theorem notice_ports : (s.notice a n fs).ports = s.ports := (congrArg State.ports (notice_rest s a n fs) :)
@[simp] theorem notice_cfgWords : (s.notice a n fs).cfgWords = s.cfgWords := (congrArg State.cfgWords (notice_rest s a n fs) :)
@[simp] theorem notice_ingress : (s.notice a n fs).ingress = s.ingress := (congrArg State.ingress (notice_rest s a n fs) :)
@[simp] theorem notice_headFree : (s.notice a n fs).headFree = s.headFree := (congrArg State.headFree (notice_rest s a n fs) :)
@[simp] theorem notice_meterOld : (s.notice a n fs).meterOld = s.meterOld := (congrArg State.meterOld (notice_rest s a n fs) :)
@[simp] theorem notice_replays : (s.notice a n fs).replays = s.replays := (congrArg State.replays (notice_rest s a n fs) :)
@[simp] theorem notice_xsrc : (s.notice a n fs).xsrc = s.xsrc := (congrArg State.xsrc (notice_rest s a n fs) :)
@[simp] theorem notice_xin : (s.notice a n fs).xin = s.xin := (congrArg State.xin (notice_rest s a n fs) :)
@[simp] theorem notice_xout : (s.notice a n fs).xout = s.xout := (congrArg State.xout (notice_rest s a n fs) :)
@[simp] theorem notice_xrr : (s.notice a n fs).xrr = s.xrr := (congrArg State.xrr (notice_rest s a n fs) :)
@[simp] theorem notice_xbusy : (s.notice a n fs).xbusy = s.xbusy := (congrArg State.xbusy (notice_rest s a n fs) :)
@[simp] theorem notice_tags : (s.notice a n fs).tags = s.tags := (congrArg State.tags (notice_rest s a n fs) :)
@[simp] theorem notice_perst : (s.notice a n fs).perst = s.perst := (congrArg State.perst (notice_rest s a n fs) :)
@[simp] theorem notice_dirEnt : (s.notice a n fs).dirEnt = s.dirEnt := (congrArg State.dirEnt (notice_rest s a n fs) :)
@[simp] theorem notice_dirBad : (s.notice a n fs).dirBad = s.dirBad := (congrArg State.dirBad (notice_rest s a n fs) :)
@[simp] theorem notice_dirRr : (s.notice a n fs).dirRr = s.dirRr := (congrArg State.dirRr (notice_rest s a n fs) :)
@[simp] theorem notice_dirQ : (s.notice a n fs).dirQ = s.dirQ := (congrArg State.dirQ (notice_rest s a n fs) :)
@[simp] theorem notice_dirTxn : (s.notice a n fs).dirTxn = s.dirTxn := (congrArg State.dirTxn (notice_rest s a n fs) :)
@[simp] theorem notice_dirAcc : (s.notice a n fs).dirAcc = s.dirAcc := (congrArg State.dirAcc (notice_rest s a n fs) :)
@[simp] theorem notice_dirOrph : (s.notice a n fs).dirOrph = s.dirOrph := (congrArg State.dirOrph (notice_rest s a n fs) :)
@[simp] theorem notice_dirWalk : (s.notice a n fs).dirWalk = s.dirWalk := (congrArg State.dirWalk (notice_rest s a n fs) :)
@[simp] theorem notice_engReg : (s.notice a n fs).engReg = s.engReg := (congrArg State.engReg (notice_rest s a n fs) :)
@[simp] theorem notice_engs : (s.notice a n fs).engs = s.engs := (congrArg State.engs (notice_rest s a n fs) :)
@[simp] theorem notice_store : (s.notice a n fs).store = s.store := (congrArg State.store (notice_rest s a n fs) :)
@[simp] theorem notice_storeBad : (s.notice a n fs).storeBad = s.storeBad := (congrArg State.storeBad (notice_rest s a n fs) :)
@[simp] theorem notice_scratch : (s.notice a n fs).scratch = s.scratch := (congrArg State.scratch (notice_rest s a n fs) :)
@[simp] theorem notice_scratchBad : (s.notice a n fs).scratchBad = s.scratchBad := (congrArg State.scratchBad (notice_rest s a n fs) :)
@[simp] theorem notice_locks : (s.notice a n fs).locks = s.locks := (congrArg State.locks (notice_rest s a n fs) :)
@[simp] theorem notice_claims : (s.notice a n fs).claims = s.claims := (congrArg State.claims (notice_rest s a n fs) :)
@[simp] theorem notice_tasks : (s.notice a n fs).tasks = s.tasks := (congrArg State.tasks (notice_rest s a n fs) :)
@[simp] theorem notice_ageCtr : (s.notice a n fs).ageCtr = s.ageCtr := (congrArg State.ageCtr (notice_rest s a n fs) :)
@[simp] theorem notice_sched : (s.notice a n fs).sched = s.sched := (congrArg State.sched (notice_rest s a n fs) :)
@[simp] theorem notice_ms : (s.notice a n fs).ms = s.ms := (congrArg State.ms (notice_rest s a n fs) :)
@[simp] theorem notice_refMs : (s.notice a n fs).refMs = s.refMs := (congrArg State.refMs (notice_rest s a n fs) :)
@[simp] theorem notice_pllLost : (s.notice a n fs).pllLost = s.pllLost := (congrArg State.pllLost (notice_rest s a n fs) :)
@[simp] theorem notice_unlockAt : (s.notice a n fs).unlockAt = s.unlockAt := (congrArg State.unlockAt (notice_rest s a n fs) :)
@[simp] theorem notice_cells : (s.notice a n fs).cells = s.cells := (congrArg State.cells (notice_rest s a n fs) :)
@[simp] theorem notice_wayW : (s.notice a n fs).wayW = s.wayW := (congrArg State.wayW (notice_rest s a n fs) :)
@[simp] theorem notice_wayB : (s.notice a n fs).wayB = s.wayB := (congrArg State.wayB (notice_rest s a n fs) :)
@[simp] theorem notice_chanW : (s.notice a n fs).chanW = s.chanW := (congrArg State.chanW (notice_rest s a n fs) :)
@[simp] theorem notice_chanB : (s.notice a n fs).chanB = s.chanB := (congrArg State.chanB (notice_rest s a n fs) :)
@[simp] theorem notice_chanQ : (s.notice a n fs).chanQ = s.chanQ := (congrArg State.chanQ (notice_rest s a n fs) :)
@[simp] theorem notice_border : (s.notice a n fs).border = s.border := (congrArg State.border (notice_rest s a n fs) :)
@[simp] theorem notice_fabIn : (s.notice a n fs).fabIn = s.fabIn := (congrArg State.fabIn (notice_rest s a n fs) :)
@[simp] theorem notice_entryOld : (s.notice a n fs).entryOld = s.entryOld := (congrArg State.entryOld (notice_rest s a n fs) :)
@[simp] theorem notice_fabRef : (s.notice a n fs).fabRef = s.fabRef := (congrArg State.fabRef (notice_rest s a n fs) :)
@[simp] theorem notice_fabAcc : (s.notice a n fs).fabAcc = s.fabAcc := (congrArg State.fabAcc (notice_rest s a n fs) :)
@[simp] theorem notice_rewrite : (s.notice a n fs).rewrite = s.rewrite := (congrArg State.rewrite (notice_rest s a n fs) :)
@[simp] theorem notice_usp : (s.notice a n fs).usp = s.usp := (congrArg State.usp (notice_rest s a n fs) :)
@[simp] theorem notice_uio : (s.notice a n fs).uio = s.uio := (congrArg State.uio (notice_rest s a n fs) :)
@[simp] theorem notice_bankMem : (s.notice a n fs).bankMem = s.bankMem := (congrArg State.bankMem (notice_rest s a n fs) :)
@[simp] theorem notice_bankMark : (s.notice a n fs).bankMark = s.bankMark := (congrArg State.bankMark (notice_rest s a n fs) :)
@[simp] theorem notice_bankQ : (s.notice a n fs).bankQ = s.bankQ := (congrArg State.bankQ (notice_rest s a n fs) :)
@[simp] theorem notice_bankRr : (s.notice a n fs).bankRr = s.bankRr := (congrArg State.bankRr (notice_rest s a n fs) :)
@[simp] theorem notice_bankLast : (s.notice a n fs).bankLast = s.bankLast := (congrArg State.bankLast (notice_rest s a n fs) :)
@[simp] theorem notice_bankRmw : (s.notice a n fs).bankRmw = s.bankRmw := (congrArg State.bankRmw (notice_rest s a n fs) :)
@[simp] theorem notice_clearing : (s.notice a n fs).clearing = s.clearing := (congrArg State.clearing (notice_rest s a n fs) :)
@[simp] theorem notice_bt : (s.notice a n fs).bt = s.bt := (congrArg State.bt (notice_rest s a n fs) :)
@[simp] theorem notice_ditches : (s.notice a n fs).ditches = s.ditches := (congrArg State.ditches (notice_rest s a n fs) :)
@[simp] theorem notice_ditchRr : (s.notice a n fs).ditchRr = s.ditchRr := (congrArg State.ditchRr (notice_rest s a n fs) :)
@[simp] theorem notice_frames : (s.notice a n fs).frames = s.frames := (congrArg State.frames (notice_rest s a n fs) :)
@[simp] theorem notice_frameBad : (s.notice a n fs).frameBad = s.frameBad := (congrArg State.frameBad (notice_rest s a n fs) :)
@[simp] theorem notice_planes : (s.notice a n fs).planes = s.planes := (congrArg State.planes (notice_rest s a n fs) :)
@[simp] theorem notice_image : (s.notice a n fs).image = s.image := (congrArg State.image (notice_rest s a n fs) :)
@[simp] theorem notice_scrubSkips : (s.notice a n fs).scrubSkips = s.scrubSkips := (congrArg State.scrubSkips (notice_rest s a n fs) :)
@[simp] theorem notice_load : (s.notice a n fs).load = s.load := (congrArg State.load (notice_rest s a n fs) :)
@[simp] theorem notice_hostImage : (s.notice a n fs).hostImage = s.hostImage := (congrArg State.hostImage (notice_rest s a n fs) :)
@[simp] theorem notice_jobs : (s.notice a n fs).jobs = s.jobs := (congrArg State.jobs (notice_rest s a n fs) :)
@[simp] theorem notice_swap : (s.notice a n fs).swap = s.swap := (congrArg State.swap (notice_rest s a n fs) :)
@[simp] theorem notice_releases : (s.notice a n fs).releases = s.releases := (congrArg State.releases (notice_rest s a n fs) :)
@[simp] theorem notice_held : (s.notice a n fs).held = s.held := (congrArg State.held (notice_rest s a n fs) :)
@[simp] theorem notice_gatesPass : (s.notice a n fs).gatesPass = s.gatesPass := (congrArg State.gatesPass (notice_rest s a n fs) :)
@[simp] theorem notice_writesOn : (s.notice a n fs).writesOn = s.writesOn := (congrArg State.writesOn (notice_rest s a n fs) :)
@[simp] theorem notice_hosts : (s.notice a n fs).hosts = s.hosts := (congrArg State.hosts (notice_rest s a n fs) :)
@[simp] theorem notice_cmds : (s.notice a n fs).cmds = s.cmds := (congrArg State.cmds (notice_rest s a n fs) :)
@[simp] theorem notice_refused : (s.notice a n fs).refused = s.refused := (congrArg State.refused (notice_rest s a n fs) :)
@[simp] theorem notice_mboxes : (s.notice a n fs).mboxes = s.mboxes := (congrArg State.mboxes (notice_rest s a n fs) :)
@[simp] theorem notice_bar : (s.notice a n fs).bar = s.bar := (congrArg State.bar (notice_rest s a n fs) :)
@[simp] theorem notice_sess : (s.notice a n fs).sess = s.sess := (congrArg State.sess (notice_rest s a n fs) :)
@[simp] theorem notice_trans : (s.notice a n fs).trans = s.trans := (congrArg State.trans (notice_rest s a n fs) :)
@[simp] theorem notice_windows : (s.notice a n fs).windows = s.windows := (congrArg State.windows (notice_rest s a n fs) :)
@[simp] theorem notice_nditch : (s.notice a n fs).nditch = s.nditch := (congrArg State.nditch (notice_rest s a n fs) :)
@[simp] theorem notice_tow : (s.notice a n fs).tow = s.tow := (congrArg State.tow (notice_rest s a n fs) :)
@[simp] theorem notice_flash : (s.notice a n fs).flash = s.flash := (congrArg State.flash (notice_rest s a n fs) :)
@[simp] theorem notice_flashBad : (s.notice a n fs).flashBad = s.flashBad := (congrArg State.flashBad (notice_rest s a n fs) :)
@[simp] theorem notice_flagCells : (s.notice a n fs).flagCells = s.flagCells := (congrArg State.flagCells (notice_rest s a n fs) :)
@[simp] theorem notice_fl : (s.notice a n fs).fl = s.fl := (congrArg State.fl (notice_rest s a n fs) :)
@[simp] theorem notice_options : (s.notice a n fs).options = s.options := (congrArg State.options (notice_rest s a n fs) :)
@[simp] theorem notice_job : (s.notice a n fs).job = s.job := (congrArg State.job (notice_rest s a n fs) :)
@[simp] theorem notice_fwValid : (s.notice a n fs).fwValid = s.fwValid := (congrArg State.fwValid (notice_rest s a n fs) :)
@[simp] theorem notice_fwSig : (s.notice a n fs).fwSig = s.fwSig := (congrArg State.fwSig (notice_rest s a n fs) :)
@[simp] theorem notice_fallback : (s.notice a n fs).fallback = s.fallback := (congrArg State.fallback (notice_rest s a n fs) :)
@[simp] theorem notice_otp : (s.notice a n fs).otp = s.otp := (congrArg State.otp (notice_rest s a n fs) :)
@[simp] theorem notice_otpBusy : (s.notice a n fs).otpBusy = s.otpBusy := (congrArg State.otpBusy (notice_rest s a n fs) :)
@[simp] theorem notice_certs : (s.notice a n fs).certs = s.certs := (congrArg State.certs (notice_rest s a n fs) :)
@[simp] theorem notice_pins : (s.notice a n fs).pins = s.pins := (congrArg State.pins (notice_rest s a n fs) :)
@[simp] theorem notice_pwr : (s.notice a n fs).pwr = s.pwr := (congrArg State.pwr (notice_rest s a n fs) :)
@[simp] theorem notice_bist : (s.notice a n fs).bist = s.bist := (congrArg State.bist (notice_rest s a n fs) :)
@[simp] theorem notice_tap : (s.notice a n fs).tap = s.tap := (congrArg State.tap (notice_rest s a n fs) :)
@[simp] theorem notice_tapHeld : (s.notice a n fs).tapHeld = s.tapHeld := (congrArg State.tapHeld (notice_rest s a n fs) :)

theorem noticeLim_rest : s.noticeLim a n i fs = { s with csr := (s.noticeLim a n i fs).csr, queues := (s.noticeLim a n i fs).queues, windows := (s.noticeLim a n i fs).windows } := by
  by_cases h : s.windowOpen a n i = true
  · have e : s.noticeLim a n i fs = s := if_pos h
    rw [e]
  · have e : ∃ w, s.noticeLim a n i fs = State.notice { s with windows := w } a n fs := ⟨_, if_neg h⟩
    obtain ⟨w, e⟩ := e
    rw [e, notice_rest]

@[simp] theorem noticeLim_pending : (s.noticeLim a n i fs).pending = s.pending := (congrArg State.pending (noticeLim_rest s a n i fs) :)
@[simp] theorem noticeLim_part : (s.noticeLim a n i fs).part = s.part := (congrArg State.part (noticeLim_rest s a n i fs) :)
@[simp] theorem noticeLim_shadowCsr : (s.noticeLim a n i fs).shadowCsr = s.shadowCsr := (congrArg State.shadowCsr (noticeLim_rest s a n i fs) :)
@[simp] theorem noticeLim_flipList : (s.noticeLim a n i fs).flipList = s.flipList := (congrArg State.flipList (noticeLim_rest s a n i fs) :)
@[simp] theorem noticeLim_draws : (s.noticeLim a n i fs).draws = s.draws := (congrArg State.draws (noticeLim_rest s a n i fs) :)
@[simp] theorem noticeLim_serial : (s.noticeLim a n i fs).serial = s.serial := (congrArg State.serial (noticeLim_rest s a n i fs) :)
@[simp] theorem noticeLim_outbox : (s.noticeLim a n i fs).outbox = s.outbox := (congrArg State.outbox (noticeLim_rest s a n i fs) :)
@[simp] theorem noticeLim_ticks : (s.noticeLim a n i fs).ticks = s.ticks := (congrArg State.ticks (noticeLim_rest s a n i fs) :)
@[simp] theorem noticeLim_ports : (s.noticeLim a n i fs).ports = s.ports := (congrArg State.ports (noticeLim_rest s a n i fs) :)
@[simp] theorem noticeLim_cfgWords : (s.noticeLim a n i fs).cfgWords = s.cfgWords := (congrArg State.cfgWords (noticeLim_rest s a n i fs) :)
@[simp] theorem noticeLim_ingress : (s.noticeLim a n i fs).ingress = s.ingress := (congrArg State.ingress (noticeLim_rest s a n i fs) :)
@[simp] theorem noticeLim_headFree : (s.noticeLim a n i fs).headFree = s.headFree := (congrArg State.headFree (noticeLim_rest s a n i fs) :)
@[simp] theorem noticeLim_meterOld : (s.noticeLim a n i fs).meterOld = s.meterOld := (congrArg State.meterOld (noticeLim_rest s a n i fs) :)
@[simp] theorem noticeLim_replays : (s.noticeLim a n i fs).replays = s.replays := (congrArg State.replays (noticeLim_rest s a n i fs) :)
@[simp] theorem noticeLim_xsrc : (s.noticeLim a n i fs).xsrc = s.xsrc := (congrArg State.xsrc (noticeLim_rest s a n i fs) :)
@[simp] theorem noticeLim_xin : (s.noticeLim a n i fs).xin = s.xin := (congrArg State.xin (noticeLim_rest s a n i fs) :)
@[simp] theorem noticeLim_xout : (s.noticeLim a n i fs).xout = s.xout := (congrArg State.xout (noticeLim_rest s a n i fs) :)
@[simp] theorem noticeLim_xrr : (s.noticeLim a n i fs).xrr = s.xrr := (congrArg State.xrr (noticeLim_rest s a n i fs) :)
@[simp] theorem noticeLim_xbusy : (s.noticeLim a n i fs).xbusy = s.xbusy := (congrArg State.xbusy (noticeLim_rest s a n i fs) :)
@[simp] theorem noticeLim_tags : (s.noticeLim a n i fs).tags = s.tags := (congrArg State.tags (noticeLim_rest s a n i fs) :)
@[simp] theorem noticeLim_perst : (s.noticeLim a n i fs).perst = s.perst := (congrArg State.perst (noticeLim_rest s a n i fs) :)
@[simp] theorem noticeLim_dirEnt : (s.noticeLim a n i fs).dirEnt = s.dirEnt := (congrArg State.dirEnt (noticeLim_rest s a n i fs) :)
@[simp] theorem noticeLim_dirBad : (s.noticeLim a n i fs).dirBad = s.dirBad := (congrArg State.dirBad (noticeLim_rest s a n i fs) :)
@[simp] theorem noticeLim_dirRr : (s.noticeLim a n i fs).dirRr = s.dirRr := (congrArg State.dirRr (noticeLim_rest s a n i fs) :)
@[simp] theorem noticeLim_dirQ : (s.noticeLim a n i fs).dirQ = s.dirQ := (congrArg State.dirQ (noticeLim_rest s a n i fs) :)
@[simp] theorem noticeLim_dirTxn : (s.noticeLim a n i fs).dirTxn = s.dirTxn := (congrArg State.dirTxn (noticeLim_rest s a n i fs) :)
@[simp] theorem noticeLim_dirAcc : (s.noticeLim a n i fs).dirAcc = s.dirAcc := (congrArg State.dirAcc (noticeLim_rest s a n i fs) :)
@[simp] theorem noticeLim_dirOrph : (s.noticeLim a n i fs).dirOrph = s.dirOrph := (congrArg State.dirOrph (noticeLim_rest s a n i fs) :)
@[simp] theorem noticeLim_dirWalk : (s.noticeLim a n i fs).dirWalk = s.dirWalk := (congrArg State.dirWalk (noticeLim_rest s a n i fs) :)
@[simp] theorem noticeLim_engReg : (s.noticeLim a n i fs).engReg = s.engReg := (congrArg State.engReg (noticeLim_rest s a n i fs) :)
@[simp] theorem noticeLim_engs : (s.noticeLim a n i fs).engs = s.engs := (congrArg State.engs (noticeLim_rest s a n i fs) :)
@[simp] theorem noticeLim_store : (s.noticeLim a n i fs).store = s.store := (congrArg State.store (noticeLim_rest s a n i fs) :)
@[simp] theorem noticeLim_storeBad : (s.noticeLim a n i fs).storeBad = s.storeBad := (congrArg State.storeBad (noticeLim_rest s a n i fs) :)
@[simp] theorem noticeLim_scratch : (s.noticeLim a n i fs).scratch = s.scratch := (congrArg State.scratch (noticeLim_rest s a n i fs) :)
@[simp] theorem noticeLim_scratchBad : (s.noticeLim a n i fs).scratchBad = s.scratchBad := (congrArg State.scratchBad (noticeLim_rest s a n i fs) :)
@[simp] theorem noticeLim_locks : (s.noticeLim a n i fs).locks = s.locks := (congrArg State.locks (noticeLim_rest s a n i fs) :)
@[simp] theorem noticeLim_claims : (s.noticeLim a n i fs).claims = s.claims := (congrArg State.claims (noticeLim_rest s a n i fs) :)
@[simp] theorem noticeLim_tasks : (s.noticeLim a n i fs).tasks = s.tasks := (congrArg State.tasks (noticeLim_rest s a n i fs) :)
@[simp] theorem noticeLim_ageCtr : (s.noticeLim a n i fs).ageCtr = s.ageCtr := (congrArg State.ageCtr (noticeLim_rest s a n i fs) :)
@[simp] theorem noticeLim_sched : (s.noticeLim a n i fs).sched = s.sched := (congrArg State.sched (noticeLim_rest s a n i fs) :)
@[simp] theorem noticeLim_ms : (s.noticeLim a n i fs).ms = s.ms := (congrArg State.ms (noticeLim_rest s a n i fs) :)
@[simp] theorem noticeLim_refMs : (s.noticeLim a n i fs).refMs = s.refMs := (congrArg State.refMs (noticeLim_rest s a n i fs) :)
@[simp] theorem noticeLim_pllLost : (s.noticeLim a n i fs).pllLost = s.pllLost := (congrArg State.pllLost (noticeLim_rest s a n i fs) :)
@[simp] theorem noticeLim_unlockAt : (s.noticeLim a n i fs).unlockAt = s.unlockAt := (congrArg State.unlockAt (noticeLim_rest s a n i fs) :)
@[simp] theorem noticeLim_cells : (s.noticeLim a n i fs).cells = s.cells := (congrArg State.cells (noticeLim_rest s a n i fs) :)
@[simp] theorem noticeLim_wayW : (s.noticeLim a n i fs).wayW = s.wayW := (congrArg State.wayW (noticeLim_rest s a n i fs) :)
@[simp] theorem noticeLim_wayB : (s.noticeLim a n i fs).wayB = s.wayB := (congrArg State.wayB (noticeLim_rest s a n i fs) :)
@[simp] theorem noticeLim_chanW : (s.noticeLim a n i fs).chanW = s.chanW := (congrArg State.chanW (noticeLim_rest s a n i fs) :)
@[simp] theorem noticeLim_chanB : (s.noticeLim a n i fs).chanB = s.chanB := (congrArg State.chanB (noticeLim_rest s a n i fs) :)
@[simp] theorem noticeLim_chanQ : (s.noticeLim a n i fs).chanQ = s.chanQ := (congrArg State.chanQ (noticeLim_rest s a n i fs) :)
@[simp] theorem noticeLim_border : (s.noticeLim a n i fs).border = s.border := (congrArg State.border (noticeLim_rest s a n i fs) :)
@[simp] theorem noticeLim_fabIn : (s.noticeLim a n i fs).fabIn = s.fabIn := (congrArg State.fabIn (noticeLim_rest s a n i fs) :)
@[simp] theorem noticeLim_entryOld : (s.noticeLim a n i fs).entryOld = s.entryOld := (congrArg State.entryOld (noticeLim_rest s a n i fs) :)
@[simp] theorem noticeLim_fabRef : (s.noticeLim a n i fs).fabRef = s.fabRef := (congrArg State.fabRef (noticeLim_rest s a n i fs) :)
@[simp] theorem noticeLim_fabAcc : (s.noticeLim a n i fs).fabAcc = s.fabAcc := (congrArg State.fabAcc (noticeLim_rest s a n i fs) :)
@[simp] theorem noticeLim_rewrite : (s.noticeLim a n i fs).rewrite = s.rewrite := (congrArg State.rewrite (noticeLim_rest s a n i fs) :)
@[simp] theorem noticeLim_usp : (s.noticeLim a n i fs).usp = s.usp := (congrArg State.usp (noticeLim_rest s a n i fs) :)
@[simp] theorem noticeLim_uio : (s.noticeLim a n i fs).uio = s.uio := (congrArg State.uio (noticeLim_rest s a n i fs) :)
@[simp] theorem noticeLim_bankMem : (s.noticeLim a n i fs).bankMem = s.bankMem := (congrArg State.bankMem (noticeLim_rest s a n i fs) :)
@[simp] theorem noticeLim_bankMark : (s.noticeLim a n i fs).bankMark = s.bankMark := (congrArg State.bankMark (noticeLim_rest s a n i fs) :)
@[simp] theorem noticeLim_bankQ : (s.noticeLim a n i fs).bankQ = s.bankQ := (congrArg State.bankQ (noticeLim_rest s a n i fs) :)
@[simp] theorem noticeLim_bankRr : (s.noticeLim a n i fs).bankRr = s.bankRr := (congrArg State.bankRr (noticeLim_rest s a n i fs) :)
@[simp] theorem noticeLim_bankLast : (s.noticeLim a n i fs).bankLast = s.bankLast := (congrArg State.bankLast (noticeLim_rest s a n i fs) :)
@[simp] theorem noticeLim_bankRmw : (s.noticeLim a n i fs).bankRmw = s.bankRmw := (congrArg State.bankRmw (noticeLim_rest s a n i fs) :)
@[simp] theorem noticeLim_clearing : (s.noticeLim a n i fs).clearing = s.clearing := (congrArg State.clearing (noticeLim_rest s a n i fs) :)
@[simp] theorem noticeLim_bt : (s.noticeLim a n i fs).bt = s.bt := (congrArg State.bt (noticeLim_rest s a n i fs) :)
@[simp] theorem noticeLim_ditches : (s.noticeLim a n i fs).ditches = s.ditches := (congrArg State.ditches (noticeLim_rest s a n i fs) :)
@[simp] theorem noticeLim_ditchRr : (s.noticeLim a n i fs).ditchRr = s.ditchRr := (congrArg State.ditchRr (noticeLim_rest s a n i fs) :)
@[simp] theorem noticeLim_frames : (s.noticeLim a n i fs).frames = s.frames := (congrArg State.frames (noticeLim_rest s a n i fs) :)
@[simp] theorem noticeLim_frameBad : (s.noticeLim a n i fs).frameBad = s.frameBad := (congrArg State.frameBad (noticeLim_rest s a n i fs) :)
@[simp] theorem noticeLim_planes : (s.noticeLim a n i fs).planes = s.planes := (congrArg State.planes (noticeLim_rest s a n i fs) :)
@[simp] theorem noticeLim_image : (s.noticeLim a n i fs).image = s.image := (congrArg State.image (noticeLim_rest s a n i fs) :)
@[simp] theorem noticeLim_scrubSkips : (s.noticeLim a n i fs).scrubSkips = s.scrubSkips := (congrArg State.scrubSkips (noticeLim_rest s a n i fs) :)
@[simp] theorem noticeLim_load : (s.noticeLim a n i fs).load = s.load := (congrArg State.load (noticeLim_rest s a n i fs) :)
@[simp] theorem noticeLim_hostImage : (s.noticeLim a n i fs).hostImage = s.hostImage := (congrArg State.hostImage (noticeLim_rest s a n i fs) :)
@[simp] theorem noticeLim_jobs : (s.noticeLim a n i fs).jobs = s.jobs := (congrArg State.jobs (noticeLim_rest s a n i fs) :)
@[simp] theorem noticeLim_swap : (s.noticeLim a n i fs).swap = s.swap := (congrArg State.swap (noticeLim_rest s a n i fs) :)
@[simp] theorem noticeLim_releases : (s.noticeLim a n i fs).releases = s.releases := (congrArg State.releases (noticeLim_rest s a n i fs) :)
@[simp] theorem noticeLim_held : (s.noticeLim a n i fs).held = s.held := (congrArg State.held (noticeLim_rest s a n i fs) :)
@[simp] theorem noticeLim_gatesPass : (s.noticeLim a n i fs).gatesPass = s.gatesPass := (congrArg State.gatesPass (noticeLim_rest s a n i fs) :)
@[simp] theorem noticeLim_writesOn : (s.noticeLim a n i fs).writesOn = s.writesOn := (congrArg State.writesOn (noticeLim_rest s a n i fs) :)
@[simp] theorem noticeLim_hosts : (s.noticeLim a n i fs).hosts = s.hosts := (congrArg State.hosts (noticeLim_rest s a n i fs) :)
@[simp] theorem noticeLim_cmds : (s.noticeLim a n i fs).cmds = s.cmds := (congrArg State.cmds (noticeLim_rest s a n i fs) :)
@[simp] theorem noticeLim_refused : (s.noticeLim a n i fs).refused = s.refused := (congrArg State.refused (noticeLim_rest s a n i fs) :)
@[simp] theorem noticeLim_mboxes : (s.noticeLim a n i fs).mboxes = s.mboxes := (congrArg State.mboxes (noticeLim_rest s a n i fs) :)
@[simp] theorem noticeLim_bar : (s.noticeLim a n i fs).bar = s.bar := (congrArg State.bar (noticeLim_rest s a n i fs) :)
@[simp] theorem noticeLim_sess : (s.noticeLim a n i fs).sess = s.sess := (congrArg State.sess (noticeLim_rest s a n i fs) :)
@[simp] theorem noticeLim_trans : (s.noticeLim a n i fs).trans = s.trans := (congrArg State.trans (noticeLim_rest s a n i fs) :)
@[simp] theorem noticeLim_nditch : (s.noticeLim a n i fs).nditch = s.nditch := (congrArg State.nditch (noticeLim_rest s a n i fs) :)
@[simp] theorem noticeLim_tow : (s.noticeLim a n i fs).tow = s.tow := (congrArg State.tow (noticeLim_rest s a n i fs) :)
@[simp] theorem noticeLim_flash : (s.noticeLim a n i fs).flash = s.flash := (congrArg State.flash (noticeLim_rest s a n i fs) :)
@[simp] theorem noticeLim_flashBad : (s.noticeLim a n i fs).flashBad = s.flashBad := (congrArg State.flashBad (noticeLim_rest s a n i fs) :)
@[simp] theorem noticeLim_flagCells : (s.noticeLim a n i fs).flagCells = s.flagCells := (congrArg State.flagCells (noticeLim_rest s a n i fs) :)
@[simp] theorem noticeLim_fl : (s.noticeLim a n i fs).fl = s.fl := (congrArg State.fl (noticeLim_rest s a n i fs) :)
@[simp] theorem noticeLim_options : (s.noticeLim a n i fs).options = s.options := (congrArg State.options (noticeLim_rest s a n i fs) :)
@[simp] theorem noticeLim_job : (s.noticeLim a n i fs).job = s.job := (congrArg State.job (noticeLim_rest s a n i fs) :)
@[simp] theorem noticeLim_fwValid : (s.noticeLim a n i fs).fwValid = s.fwValid := (congrArg State.fwValid (noticeLim_rest s a n i fs) :)
@[simp] theorem noticeLim_fwSig : (s.noticeLim a n i fs).fwSig = s.fwSig := (congrArg State.fwSig (noticeLim_rest s a n i fs) :)
@[simp] theorem noticeLim_fallback : (s.noticeLim a n i fs).fallback = s.fallback := (congrArg State.fallback (noticeLim_rest s a n i fs) :)
@[simp] theorem noticeLim_otp : (s.noticeLim a n i fs).otp = s.otp := (congrArg State.otp (noticeLim_rest s a n i fs) :)
@[simp] theorem noticeLim_otpBusy : (s.noticeLim a n i fs).otpBusy = s.otpBusy := (congrArg State.otpBusy (noticeLim_rest s a n i fs) :)
@[simp] theorem noticeLim_certs : (s.noticeLim a n i fs).certs = s.certs := (congrArg State.certs (noticeLim_rest s a n i fs) :)
@[simp] theorem noticeLim_pins : (s.noticeLim a n i fs).pins = s.pins := (congrArg State.pins (noticeLim_rest s a n i fs) :)
@[simp] theorem noticeLim_pwr : (s.noticeLim a n i fs).pwr = s.pwr := (congrArg State.pwr (noticeLim_rest s a n i fs) :)
@[simp] theorem noticeLim_bist : (s.noticeLim a n i fs).bist = s.bist := (congrArg State.bist (noticeLim_rest s a n i fs) :)
@[simp] theorem noticeLim_tap : (s.noticeLim a n i fs).tap = s.tap := (congrArg State.tap (noticeLim_rest s a n i fs) :)
@[simp] theorem noticeLim_tapHeld : (s.noticeLim a n i fs).tapHeld = s.tapHeld := (congrArg State.tapHeld (noticeLim_rest s a n i fs) :)

@[simp] theorem setPortSt_pending : (s.setPortSt a ps).pending = s.pending := rfl
@[simp] theorem setPortSt_part : (s.setPortSt a ps).part = s.part := rfl
@[simp] theorem setPortSt_csr : (s.setPortSt a ps).csr = s.csr := rfl
@[simp] theorem setPortSt_shadowCsr : (s.setPortSt a ps).shadowCsr = s.shadowCsr := rfl
@[simp] theorem setPortSt_flipList : (s.setPortSt a ps).flipList = s.flipList := rfl
@[simp] theorem setPortSt_draws : (s.setPortSt a ps).draws = s.draws := rfl
@[simp] theorem setPortSt_serial : (s.setPortSt a ps).serial = s.serial := rfl
@[simp] theorem setPortSt_outbox : (s.setPortSt a ps).outbox = s.outbox := rfl
@[simp] theorem setPortSt_ticks : (s.setPortSt a ps).ticks = s.ticks := rfl
@[simp] theorem setPortSt_cfgWords : (s.setPortSt a ps).cfgWords = s.cfgWords := rfl
@[simp] theorem setPortSt_ingress : (s.setPortSt a ps).ingress = s.ingress := rfl
@[simp] theorem setPortSt_headFree : (s.setPortSt a ps).headFree = s.headFree := rfl
@[simp] theorem setPortSt_meterOld : (s.setPortSt a ps).meterOld = s.meterOld := rfl
@[simp] theorem setPortSt_replays : (s.setPortSt a ps).replays = s.replays := rfl
@[simp] theorem setPortSt_xsrc : (s.setPortSt a ps).xsrc = s.xsrc := rfl
@[simp] theorem setPortSt_xin : (s.setPortSt a ps).xin = s.xin := rfl
@[simp] theorem setPortSt_xout : (s.setPortSt a ps).xout = s.xout := rfl
@[simp] theorem setPortSt_xrr : (s.setPortSt a ps).xrr = s.xrr := rfl
@[simp] theorem setPortSt_xbusy : (s.setPortSt a ps).xbusy = s.xbusy := rfl
@[simp] theorem setPortSt_tags : (s.setPortSt a ps).tags = s.tags := rfl
@[simp] theorem setPortSt_perst : (s.setPortSt a ps).perst = s.perst := rfl
@[simp] theorem setPortSt_dirEnt : (s.setPortSt a ps).dirEnt = s.dirEnt := rfl
@[simp] theorem setPortSt_dirBad : (s.setPortSt a ps).dirBad = s.dirBad := rfl
@[simp] theorem setPortSt_dirRr : (s.setPortSt a ps).dirRr = s.dirRr := rfl
@[simp] theorem setPortSt_dirQ : (s.setPortSt a ps).dirQ = s.dirQ := rfl
@[simp] theorem setPortSt_dirTxn : (s.setPortSt a ps).dirTxn = s.dirTxn := rfl
@[simp] theorem setPortSt_dirAcc : (s.setPortSt a ps).dirAcc = s.dirAcc := rfl
@[simp] theorem setPortSt_dirOrph : (s.setPortSt a ps).dirOrph = s.dirOrph := rfl
@[simp] theorem setPortSt_dirWalk : (s.setPortSt a ps).dirWalk = s.dirWalk := rfl
@[simp] theorem setPortSt_engReg : (s.setPortSt a ps).engReg = s.engReg := rfl
@[simp] theorem setPortSt_engs : (s.setPortSt a ps).engs = s.engs := rfl
@[simp] theorem setPortSt_store : (s.setPortSt a ps).store = s.store := rfl
@[simp] theorem setPortSt_storeBad : (s.setPortSt a ps).storeBad = s.storeBad := rfl
@[simp] theorem setPortSt_scratch : (s.setPortSt a ps).scratch = s.scratch := rfl
@[simp] theorem setPortSt_scratchBad : (s.setPortSt a ps).scratchBad = s.scratchBad := rfl
@[simp] theorem setPortSt_locks : (s.setPortSt a ps).locks = s.locks := rfl
@[simp] theorem setPortSt_claims : (s.setPortSt a ps).claims = s.claims := rfl
@[simp] theorem setPortSt_tasks : (s.setPortSt a ps).tasks = s.tasks := rfl
@[simp] theorem setPortSt_ageCtr : (s.setPortSt a ps).ageCtr = s.ageCtr := rfl
@[simp] theorem setPortSt_sched : (s.setPortSt a ps).sched = s.sched := rfl
@[simp] theorem setPortSt_ms : (s.setPortSt a ps).ms = s.ms := rfl
@[simp] theorem setPortSt_refMs : (s.setPortSt a ps).refMs = s.refMs := rfl
@[simp] theorem setPortSt_pllLost : (s.setPortSt a ps).pllLost = s.pllLost := rfl
@[simp] theorem setPortSt_unlockAt : (s.setPortSt a ps).unlockAt = s.unlockAt := rfl
@[simp] theorem setPortSt_cells : (s.setPortSt a ps).cells = s.cells := rfl
@[simp] theorem setPortSt_wayW : (s.setPortSt a ps).wayW = s.wayW := rfl
@[simp] theorem setPortSt_wayB : (s.setPortSt a ps).wayB = s.wayB := rfl
@[simp] theorem setPortSt_chanW : (s.setPortSt a ps).chanW = s.chanW := rfl
@[simp] theorem setPortSt_chanB : (s.setPortSt a ps).chanB = s.chanB := rfl
@[simp] theorem setPortSt_chanQ : (s.setPortSt a ps).chanQ = s.chanQ := rfl
@[simp] theorem setPortSt_border : (s.setPortSt a ps).border = s.border := rfl
@[simp] theorem setPortSt_fabIn : (s.setPortSt a ps).fabIn = s.fabIn := rfl
@[simp] theorem setPortSt_entryOld : (s.setPortSt a ps).entryOld = s.entryOld := rfl
@[simp] theorem setPortSt_fabRef : (s.setPortSt a ps).fabRef = s.fabRef := rfl
@[simp] theorem setPortSt_fabAcc : (s.setPortSt a ps).fabAcc = s.fabAcc := rfl
@[simp] theorem setPortSt_rewrite : (s.setPortSt a ps).rewrite = s.rewrite := rfl
@[simp] theorem setPortSt_usp : (s.setPortSt a ps).usp = s.usp := rfl
@[simp] theorem setPortSt_uio : (s.setPortSt a ps).uio = s.uio := rfl
@[simp] theorem setPortSt_bankMem : (s.setPortSt a ps).bankMem = s.bankMem := rfl
@[simp] theorem setPortSt_bankMark : (s.setPortSt a ps).bankMark = s.bankMark := rfl
@[simp] theorem setPortSt_bankQ : (s.setPortSt a ps).bankQ = s.bankQ := rfl
@[simp] theorem setPortSt_bankRr : (s.setPortSt a ps).bankRr = s.bankRr := rfl
@[simp] theorem setPortSt_bankLast : (s.setPortSt a ps).bankLast = s.bankLast := rfl
@[simp] theorem setPortSt_bankRmw : (s.setPortSt a ps).bankRmw = s.bankRmw := rfl
@[simp] theorem setPortSt_clearing : (s.setPortSt a ps).clearing = s.clearing := rfl
@[simp] theorem setPortSt_bt : (s.setPortSt a ps).bt = s.bt := rfl
@[simp] theorem setPortSt_ditches : (s.setPortSt a ps).ditches = s.ditches := rfl
@[simp] theorem setPortSt_ditchRr : (s.setPortSt a ps).ditchRr = s.ditchRr := rfl
@[simp] theorem setPortSt_frames : (s.setPortSt a ps).frames = s.frames := rfl
@[simp] theorem setPortSt_frameBad : (s.setPortSt a ps).frameBad = s.frameBad := rfl
@[simp] theorem setPortSt_planes : (s.setPortSt a ps).planes = s.planes := rfl
@[simp] theorem setPortSt_image : (s.setPortSt a ps).image = s.image := rfl
@[simp] theorem setPortSt_scrubSkips : (s.setPortSt a ps).scrubSkips = s.scrubSkips := rfl
@[simp] theorem setPortSt_load : (s.setPortSt a ps).load = s.load := rfl
@[simp] theorem setPortSt_hostImage : (s.setPortSt a ps).hostImage = s.hostImage := rfl
@[simp] theorem setPortSt_jobs : (s.setPortSt a ps).jobs = s.jobs := rfl
@[simp] theorem setPortSt_swap : (s.setPortSt a ps).swap = s.swap := rfl
@[simp] theorem setPortSt_releases : (s.setPortSt a ps).releases = s.releases := rfl
@[simp] theorem setPortSt_held : (s.setPortSt a ps).held = s.held := rfl
@[simp] theorem setPortSt_gatesPass : (s.setPortSt a ps).gatesPass = s.gatesPass := rfl
@[simp] theorem setPortSt_writesOn : (s.setPortSt a ps).writesOn = s.writesOn := rfl
@[simp] theorem setPortSt_hosts : (s.setPortSt a ps).hosts = s.hosts := rfl
@[simp] theorem setPortSt_cmds : (s.setPortSt a ps).cmds = s.cmds := rfl
@[simp] theorem setPortSt_refused : (s.setPortSt a ps).refused = s.refused := rfl
@[simp] theorem setPortSt_mboxes : (s.setPortSt a ps).mboxes = s.mboxes := rfl
@[simp] theorem setPortSt_bar : (s.setPortSt a ps).bar = s.bar := rfl
@[simp] theorem setPortSt_sess : (s.setPortSt a ps).sess = s.sess := rfl
@[simp] theorem setPortSt_trans : (s.setPortSt a ps).trans = s.trans := rfl
@[simp] theorem setPortSt_queues : (s.setPortSt a ps).queues = s.queues := rfl
@[simp] theorem setPortSt_windows : (s.setPortSt a ps).windows = s.windows := rfl
@[simp] theorem setPortSt_nditch : (s.setPortSt a ps).nditch = s.nditch := rfl
@[simp] theorem setPortSt_tow : (s.setPortSt a ps).tow = s.tow := rfl
@[simp] theorem setPortSt_flash : (s.setPortSt a ps).flash = s.flash := rfl
@[simp] theorem setPortSt_flashBad : (s.setPortSt a ps).flashBad = s.flashBad := rfl
@[simp] theorem setPortSt_flagCells : (s.setPortSt a ps).flagCells = s.flagCells := rfl
@[simp] theorem setPortSt_fl : (s.setPortSt a ps).fl = s.fl := rfl
@[simp] theorem setPortSt_options : (s.setPortSt a ps).options = s.options := rfl
@[simp] theorem setPortSt_job : (s.setPortSt a ps).job = s.job := rfl
@[simp] theorem setPortSt_fwValid : (s.setPortSt a ps).fwValid = s.fwValid := rfl
@[simp] theorem setPortSt_fwSig : (s.setPortSt a ps).fwSig = s.fwSig := rfl
@[simp] theorem setPortSt_fallback : (s.setPortSt a ps).fallback = s.fallback := rfl
@[simp] theorem setPortSt_otp : (s.setPortSt a ps).otp = s.otp := rfl
@[simp] theorem setPortSt_otpBusy : (s.setPortSt a ps).otpBusy = s.otpBusy := rfl
@[simp] theorem setPortSt_certs : (s.setPortSt a ps).certs = s.certs := rfl
@[simp] theorem setPortSt_pins : (s.setPortSt a ps).pins = s.pins := rfl
@[simp] theorem setPortSt_pwr : (s.setPortSt a ps).pwr = s.pwr := rfl
@[simp] theorem setPortSt_bist : (s.setPortSt a ps).bist = s.bist := rfl
@[simp] theorem setPortSt_tap : (s.setPortSt a ps).tap = s.tap := rfl
@[simp] theorem setPortSt_tapHeld : (s.setPortSt a ps).tapHeld = s.tapHeld := rfl

@[simp] theorem setTaskX_pending : (s.setTaskX a n tx).pending = s.pending := rfl
@[simp] theorem setTaskX_part : (s.setTaskX a n tx).part = s.part := rfl
@[simp] theorem setTaskX_csr : (s.setTaskX a n tx).csr = s.csr := rfl
@[simp] theorem setTaskX_shadowCsr : (s.setTaskX a n tx).shadowCsr = s.shadowCsr := rfl
@[simp] theorem setTaskX_flipList : (s.setTaskX a n tx).flipList = s.flipList := rfl
@[simp] theorem setTaskX_draws : (s.setTaskX a n tx).draws = s.draws := rfl
@[simp] theorem setTaskX_serial : (s.setTaskX a n tx).serial = s.serial := rfl
@[simp] theorem setTaskX_outbox : (s.setTaskX a n tx).outbox = s.outbox := rfl
@[simp] theorem setTaskX_ticks : (s.setTaskX a n tx).ticks = s.ticks := rfl
@[simp] theorem setTaskX_ports : (s.setTaskX a n tx).ports = s.ports := rfl
@[simp] theorem setTaskX_cfgWords : (s.setTaskX a n tx).cfgWords = s.cfgWords := rfl
@[simp] theorem setTaskX_ingress : (s.setTaskX a n tx).ingress = s.ingress := rfl
@[simp] theorem setTaskX_headFree : (s.setTaskX a n tx).headFree = s.headFree := rfl
@[simp] theorem setTaskX_meterOld : (s.setTaskX a n tx).meterOld = s.meterOld := rfl
@[simp] theorem setTaskX_replays : (s.setTaskX a n tx).replays = s.replays := rfl
@[simp] theorem setTaskX_xsrc : (s.setTaskX a n tx).xsrc = s.xsrc := rfl
@[simp] theorem setTaskX_xin : (s.setTaskX a n tx).xin = s.xin := rfl
@[simp] theorem setTaskX_xout : (s.setTaskX a n tx).xout = s.xout := rfl
@[simp] theorem setTaskX_xrr : (s.setTaskX a n tx).xrr = s.xrr := rfl
@[simp] theorem setTaskX_xbusy : (s.setTaskX a n tx).xbusy = s.xbusy := rfl
@[simp] theorem setTaskX_tags : (s.setTaskX a n tx).tags = s.tags := rfl
@[simp] theorem setTaskX_perst : (s.setTaskX a n tx).perst = s.perst := rfl
@[simp] theorem setTaskX_dirEnt : (s.setTaskX a n tx).dirEnt = s.dirEnt := rfl
@[simp] theorem setTaskX_dirBad : (s.setTaskX a n tx).dirBad = s.dirBad := rfl
@[simp] theorem setTaskX_dirRr : (s.setTaskX a n tx).dirRr = s.dirRr := rfl
@[simp] theorem setTaskX_dirQ : (s.setTaskX a n tx).dirQ = s.dirQ := rfl
@[simp] theorem setTaskX_dirTxn : (s.setTaskX a n tx).dirTxn = s.dirTxn := rfl
@[simp] theorem setTaskX_dirAcc : (s.setTaskX a n tx).dirAcc = s.dirAcc := rfl
@[simp] theorem setTaskX_dirOrph : (s.setTaskX a n tx).dirOrph = s.dirOrph := rfl
@[simp] theorem setTaskX_dirWalk : (s.setTaskX a n tx).dirWalk = s.dirWalk := rfl
@[simp] theorem setTaskX_engReg : (s.setTaskX a n tx).engReg = s.engReg := rfl
@[simp] theorem setTaskX_engs : (s.setTaskX a n tx).engs = s.engs := rfl
@[simp] theorem setTaskX_store : (s.setTaskX a n tx).store = s.store := rfl
@[simp] theorem setTaskX_storeBad : (s.setTaskX a n tx).storeBad = s.storeBad := rfl
@[simp] theorem setTaskX_scratch : (s.setTaskX a n tx).scratch = s.scratch := rfl
@[simp] theorem setTaskX_scratchBad : (s.setTaskX a n tx).scratchBad = s.scratchBad := rfl
@[simp] theorem setTaskX_locks : (s.setTaskX a n tx).locks = s.locks := rfl
@[simp] theorem setTaskX_claims : (s.setTaskX a n tx).claims = s.claims := rfl
@[simp] theorem setTaskX_ageCtr : (s.setTaskX a n tx).ageCtr = s.ageCtr := rfl
@[simp] theorem setTaskX_sched : (s.setTaskX a n tx).sched = s.sched := rfl
@[simp] theorem setTaskX_ms : (s.setTaskX a n tx).ms = s.ms := rfl
@[simp] theorem setTaskX_refMs : (s.setTaskX a n tx).refMs = s.refMs := rfl
@[simp] theorem setTaskX_pllLost : (s.setTaskX a n tx).pllLost = s.pllLost := rfl
@[simp] theorem setTaskX_unlockAt : (s.setTaskX a n tx).unlockAt = s.unlockAt := rfl
@[simp] theorem setTaskX_cells : (s.setTaskX a n tx).cells = s.cells := rfl
@[simp] theorem setTaskX_wayW : (s.setTaskX a n tx).wayW = s.wayW := rfl
@[simp] theorem setTaskX_wayB : (s.setTaskX a n tx).wayB = s.wayB := rfl
@[simp] theorem setTaskX_chanW : (s.setTaskX a n tx).chanW = s.chanW := rfl
@[simp] theorem setTaskX_chanB : (s.setTaskX a n tx).chanB = s.chanB := rfl
@[simp] theorem setTaskX_chanQ : (s.setTaskX a n tx).chanQ = s.chanQ := rfl
@[simp] theorem setTaskX_border : (s.setTaskX a n tx).border = s.border := rfl
@[simp] theorem setTaskX_fabIn : (s.setTaskX a n tx).fabIn = s.fabIn := rfl
@[simp] theorem setTaskX_entryOld : (s.setTaskX a n tx).entryOld = s.entryOld := rfl
@[simp] theorem setTaskX_fabRef : (s.setTaskX a n tx).fabRef = s.fabRef := rfl
@[simp] theorem setTaskX_fabAcc : (s.setTaskX a n tx).fabAcc = s.fabAcc := rfl
@[simp] theorem setTaskX_rewrite : (s.setTaskX a n tx).rewrite = s.rewrite := rfl
@[simp] theorem setTaskX_usp : (s.setTaskX a n tx).usp = s.usp := rfl
@[simp] theorem setTaskX_uio : (s.setTaskX a n tx).uio = s.uio := rfl
@[simp] theorem setTaskX_bankMem : (s.setTaskX a n tx).bankMem = s.bankMem := rfl
@[simp] theorem setTaskX_bankMark : (s.setTaskX a n tx).bankMark = s.bankMark := rfl
@[simp] theorem setTaskX_bankQ : (s.setTaskX a n tx).bankQ = s.bankQ := rfl
@[simp] theorem setTaskX_bankRr : (s.setTaskX a n tx).bankRr = s.bankRr := rfl
@[simp] theorem setTaskX_bankLast : (s.setTaskX a n tx).bankLast = s.bankLast := rfl
@[simp] theorem setTaskX_bankRmw : (s.setTaskX a n tx).bankRmw = s.bankRmw := rfl
@[simp] theorem setTaskX_clearing : (s.setTaskX a n tx).clearing = s.clearing := rfl
@[simp] theorem setTaskX_bt : (s.setTaskX a n tx).bt = s.bt := rfl
@[simp] theorem setTaskX_ditches : (s.setTaskX a n tx).ditches = s.ditches := rfl
@[simp] theorem setTaskX_ditchRr : (s.setTaskX a n tx).ditchRr = s.ditchRr := rfl
@[simp] theorem setTaskX_frames : (s.setTaskX a n tx).frames = s.frames := rfl
@[simp] theorem setTaskX_frameBad : (s.setTaskX a n tx).frameBad = s.frameBad := rfl
@[simp] theorem setTaskX_planes : (s.setTaskX a n tx).planes = s.planes := rfl
@[simp] theorem setTaskX_image : (s.setTaskX a n tx).image = s.image := rfl
@[simp] theorem setTaskX_scrubSkips : (s.setTaskX a n tx).scrubSkips = s.scrubSkips := rfl
@[simp] theorem setTaskX_load : (s.setTaskX a n tx).load = s.load := rfl
@[simp] theorem setTaskX_hostImage : (s.setTaskX a n tx).hostImage = s.hostImage := rfl
@[simp] theorem setTaskX_jobs : (s.setTaskX a n tx).jobs = s.jobs := rfl
@[simp] theorem setTaskX_swap : (s.setTaskX a n tx).swap = s.swap := rfl
@[simp] theorem setTaskX_releases : (s.setTaskX a n tx).releases = s.releases := rfl
@[simp] theorem setTaskX_held : (s.setTaskX a n tx).held = s.held := rfl
@[simp] theorem setTaskX_gatesPass : (s.setTaskX a n tx).gatesPass = s.gatesPass := rfl
@[simp] theorem setTaskX_writesOn : (s.setTaskX a n tx).writesOn = s.writesOn := rfl
@[simp] theorem setTaskX_hosts : (s.setTaskX a n tx).hosts = s.hosts := rfl
@[simp] theorem setTaskX_cmds : (s.setTaskX a n tx).cmds = s.cmds := rfl
@[simp] theorem setTaskX_refused : (s.setTaskX a n tx).refused = s.refused := rfl
@[simp] theorem setTaskX_mboxes : (s.setTaskX a n tx).mboxes = s.mboxes := rfl
@[simp] theorem setTaskX_bar : (s.setTaskX a n tx).bar = s.bar := rfl
@[simp] theorem setTaskX_sess : (s.setTaskX a n tx).sess = s.sess := rfl
@[simp] theorem setTaskX_trans : (s.setTaskX a n tx).trans = s.trans := rfl
@[simp] theorem setTaskX_queues : (s.setTaskX a n tx).queues = s.queues := rfl
@[simp] theorem setTaskX_windows : (s.setTaskX a n tx).windows = s.windows := rfl
@[simp] theorem setTaskX_nditch : (s.setTaskX a n tx).nditch = s.nditch := rfl
@[simp] theorem setTaskX_tow : (s.setTaskX a n tx).tow = s.tow := rfl
@[simp] theorem setTaskX_flash : (s.setTaskX a n tx).flash = s.flash := rfl
@[simp] theorem setTaskX_flashBad : (s.setTaskX a n tx).flashBad = s.flashBad := rfl
@[simp] theorem setTaskX_flagCells : (s.setTaskX a n tx).flagCells = s.flagCells := rfl
@[simp] theorem setTaskX_fl : (s.setTaskX a n tx).fl = s.fl := rfl
@[simp] theorem setTaskX_options : (s.setTaskX a n tx).options = s.options := rfl
@[simp] theorem setTaskX_job : (s.setTaskX a n tx).job = s.job := rfl
@[simp] theorem setTaskX_fwValid : (s.setTaskX a n tx).fwValid = s.fwValid := rfl
@[simp] theorem setTaskX_fwSig : (s.setTaskX a n tx).fwSig = s.fwSig := rfl
@[simp] theorem setTaskX_fallback : (s.setTaskX a n tx).fallback = s.fallback := rfl
@[simp] theorem setTaskX_otp : (s.setTaskX a n tx).otp = s.otp := rfl
@[simp] theorem setTaskX_otpBusy : (s.setTaskX a n tx).otpBusy = s.otpBusy := rfl
@[simp] theorem setTaskX_certs : (s.setTaskX a n tx).certs = s.certs := rfl
@[simp] theorem setTaskX_pins : (s.setTaskX a n tx).pins = s.pins := rfl
@[simp] theorem setTaskX_pwr : (s.setTaskX a n tx).pwr = s.pwr := rfl
@[simp] theorem setTaskX_bist : (s.setTaskX a n tx).bist = s.bist := rfl
@[simp] theorem setTaskX_tap : (s.setTaskX a n tx).tap = s.tap := rfl
@[simp] theorem setTaskX_tapHeld : (s.setTaskX a n tx).tapHeld = s.tapHeld := rfl

@[simp] theorem setEng_pending : (s.setEng a n en).pending = s.pending := rfl
@[simp] theorem setEng_part : (s.setEng a n en).part = s.part := rfl
@[simp] theorem setEng_csr : (s.setEng a n en).csr = s.csr := rfl
@[simp] theorem setEng_shadowCsr : (s.setEng a n en).shadowCsr = s.shadowCsr := rfl
@[simp] theorem setEng_flipList : (s.setEng a n en).flipList = s.flipList := rfl
@[simp] theorem setEng_draws : (s.setEng a n en).draws = s.draws := rfl
@[simp] theorem setEng_serial : (s.setEng a n en).serial = s.serial := rfl
@[simp] theorem setEng_outbox : (s.setEng a n en).outbox = s.outbox := rfl
@[simp] theorem setEng_ticks : (s.setEng a n en).ticks = s.ticks := rfl
@[simp] theorem setEng_ports : (s.setEng a n en).ports = s.ports := rfl
@[simp] theorem setEng_cfgWords : (s.setEng a n en).cfgWords = s.cfgWords := rfl
@[simp] theorem setEng_ingress : (s.setEng a n en).ingress = s.ingress := rfl
@[simp] theorem setEng_headFree : (s.setEng a n en).headFree = s.headFree := rfl
@[simp] theorem setEng_meterOld : (s.setEng a n en).meterOld = s.meterOld := rfl
@[simp] theorem setEng_replays : (s.setEng a n en).replays = s.replays := rfl
@[simp] theorem setEng_xsrc : (s.setEng a n en).xsrc = s.xsrc := rfl
@[simp] theorem setEng_xin : (s.setEng a n en).xin = s.xin := rfl
@[simp] theorem setEng_xout : (s.setEng a n en).xout = s.xout := rfl
@[simp] theorem setEng_xrr : (s.setEng a n en).xrr = s.xrr := rfl
@[simp] theorem setEng_xbusy : (s.setEng a n en).xbusy = s.xbusy := rfl
@[simp] theorem setEng_tags : (s.setEng a n en).tags = s.tags := rfl
@[simp] theorem setEng_perst : (s.setEng a n en).perst = s.perst := rfl
@[simp] theorem setEng_dirEnt : (s.setEng a n en).dirEnt = s.dirEnt := rfl
@[simp] theorem setEng_dirBad : (s.setEng a n en).dirBad = s.dirBad := rfl
@[simp] theorem setEng_dirRr : (s.setEng a n en).dirRr = s.dirRr := rfl
@[simp] theorem setEng_dirQ : (s.setEng a n en).dirQ = s.dirQ := rfl
@[simp] theorem setEng_dirTxn : (s.setEng a n en).dirTxn = s.dirTxn := rfl
@[simp] theorem setEng_dirAcc : (s.setEng a n en).dirAcc = s.dirAcc := rfl
@[simp] theorem setEng_dirOrph : (s.setEng a n en).dirOrph = s.dirOrph := rfl
@[simp] theorem setEng_dirWalk : (s.setEng a n en).dirWalk = s.dirWalk := rfl
@[simp] theorem setEng_engReg : (s.setEng a n en).engReg = s.engReg := rfl
@[simp] theorem setEng_store : (s.setEng a n en).store = s.store := rfl
@[simp] theorem setEng_storeBad : (s.setEng a n en).storeBad = s.storeBad := rfl
@[simp] theorem setEng_scratch : (s.setEng a n en).scratch = s.scratch := rfl
@[simp] theorem setEng_scratchBad : (s.setEng a n en).scratchBad = s.scratchBad := rfl
@[simp] theorem setEng_locks : (s.setEng a n en).locks = s.locks := rfl
@[simp] theorem setEng_claims : (s.setEng a n en).claims = s.claims := rfl
@[simp] theorem setEng_tasks : (s.setEng a n en).tasks = s.tasks := rfl
@[simp] theorem setEng_ageCtr : (s.setEng a n en).ageCtr = s.ageCtr := rfl
@[simp] theorem setEng_sched : (s.setEng a n en).sched = s.sched := rfl
@[simp] theorem setEng_ms : (s.setEng a n en).ms = s.ms := rfl
@[simp] theorem setEng_refMs : (s.setEng a n en).refMs = s.refMs := rfl
@[simp] theorem setEng_pllLost : (s.setEng a n en).pllLost = s.pllLost := rfl
@[simp] theorem setEng_unlockAt : (s.setEng a n en).unlockAt = s.unlockAt := rfl
@[simp] theorem setEng_cells : (s.setEng a n en).cells = s.cells := rfl
@[simp] theorem setEng_wayW : (s.setEng a n en).wayW = s.wayW := rfl
@[simp] theorem setEng_wayB : (s.setEng a n en).wayB = s.wayB := rfl
@[simp] theorem setEng_chanW : (s.setEng a n en).chanW = s.chanW := rfl
@[simp] theorem setEng_chanB : (s.setEng a n en).chanB = s.chanB := rfl
@[simp] theorem setEng_chanQ : (s.setEng a n en).chanQ = s.chanQ := rfl
@[simp] theorem setEng_border : (s.setEng a n en).border = s.border := rfl
@[simp] theorem setEng_fabIn : (s.setEng a n en).fabIn = s.fabIn := rfl
@[simp] theorem setEng_entryOld : (s.setEng a n en).entryOld = s.entryOld := rfl
@[simp] theorem setEng_fabRef : (s.setEng a n en).fabRef = s.fabRef := rfl
@[simp] theorem setEng_fabAcc : (s.setEng a n en).fabAcc = s.fabAcc := rfl
@[simp] theorem setEng_rewrite : (s.setEng a n en).rewrite = s.rewrite := rfl
@[simp] theorem setEng_usp : (s.setEng a n en).usp = s.usp := rfl
@[simp] theorem setEng_uio : (s.setEng a n en).uio = s.uio := rfl
@[simp] theorem setEng_bankMem : (s.setEng a n en).bankMem = s.bankMem := rfl
@[simp] theorem setEng_bankMark : (s.setEng a n en).bankMark = s.bankMark := rfl
@[simp] theorem setEng_bankQ : (s.setEng a n en).bankQ = s.bankQ := rfl
@[simp] theorem setEng_bankRr : (s.setEng a n en).bankRr = s.bankRr := rfl
@[simp] theorem setEng_bankLast : (s.setEng a n en).bankLast = s.bankLast := rfl
@[simp] theorem setEng_bankRmw : (s.setEng a n en).bankRmw = s.bankRmw := rfl
@[simp] theorem setEng_clearing : (s.setEng a n en).clearing = s.clearing := rfl
@[simp] theorem setEng_bt : (s.setEng a n en).bt = s.bt := rfl
@[simp] theorem setEng_ditches : (s.setEng a n en).ditches = s.ditches := rfl
@[simp] theorem setEng_ditchRr : (s.setEng a n en).ditchRr = s.ditchRr := rfl
@[simp] theorem setEng_frames : (s.setEng a n en).frames = s.frames := rfl
@[simp] theorem setEng_frameBad : (s.setEng a n en).frameBad = s.frameBad := rfl
@[simp] theorem setEng_planes : (s.setEng a n en).planes = s.planes := rfl
@[simp] theorem setEng_image : (s.setEng a n en).image = s.image := rfl
@[simp] theorem setEng_scrubSkips : (s.setEng a n en).scrubSkips = s.scrubSkips := rfl
@[simp] theorem setEng_load : (s.setEng a n en).load = s.load := rfl
@[simp] theorem setEng_hostImage : (s.setEng a n en).hostImage = s.hostImage := rfl
@[simp] theorem setEng_jobs : (s.setEng a n en).jobs = s.jobs := rfl
@[simp] theorem setEng_swap : (s.setEng a n en).swap = s.swap := rfl
@[simp] theorem setEng_releases : (s.setEng a n en).releases = s.releases := rfl
@[simp] theorem setEng_held : (s.setEng a n en).held = s.held := rfl
@[simp] theorem setEng_gatesPass : (s.setEng a n en).gatesPass = s.gatesPass := rfl
@[simp] theorem setEng_writesOn : (s.setEng a n en).writesOn = s.writesOn := rfl
@[simp] theorem setEng_hosts : (s.setEng a n en).hosts = s.hosts := rfl
@[simp] theorem setEng_cmds : (s.setEng a n en).cmds = s.cmds := rfl
@[simp] theorem setEng_refused : (s.setEng a n en).refused = s.refused := rfl
@[simp] theorem setEng_mboxes : (s.setEng a n en).mboxes = s.mboxes := rfl
@[simp] theorem setEng_bar : (s.setEng a n en).bar = s.bar := rfl
@[simp] theorem setEng_sess : (s.setEng a n en).sess = s.sess := rfl
@[simp] theorem setEng_trans : (s.setEng a n en).trans = s.trans := rfl
@[simp] theorem setEng_queues : (s.setEng a n en).queues = s.queues := rfl
@[simp] theorem setEng_windows : (s.setEng a n en).windows = s.windows := rfl
@[simp] theorem setEng_nditch : (s.setEng a n en).nditch = s.nditch := rfl
@[simp] theorem setEng_tow : (s.setEng a n en).tow = s.tow := rfl
@[simp] theorem setEng_flash : (s.setEng a n en).flash = s.flash := rfl
@[simp] theorem setEng_flashBad : (s.setEng a n en).flashBad = s.flashBad := rfl
@[simp] theorem setEng_flagCells : (s.setEng a n en).flagCells = s.flagCells := rfl
@[simp] theorem setEng_fl : (s.setEng a n en).fl = s.fl := rfl
@[simp] theorem setEng_options : (s.setEng a n en).options = s.options := rfl
@[simp] theorem setEng_job : (s.setEng a n en).job = s.job := rfl
@[simp] theorem setEng_fwValid : (s.setEng a n en).fwValid = s.fwValid := rfl
@[simp] theorem setEng_fwSig : (s.setEng a n en).fwSig = s.fwSig := rfl
@[simp] theorem setEng_fallback : (s.setEng a n en).fallback = s.fallback := rfl
@[simp] theorem setEng_otp : (s.setEng a n en).otp = s.otp := rfl
@[simp] theorem setEng_otpBusy : (s.setEng a n en).otpBusy = s.otpBusy := rfl
@[simp] theorem setEng_certs : (s.setEng a n en).certs = s.certs := rfl
@[simp] theorem setEng_pins : (s.setEng a n en).pins = s.pins := rfl
@[simp] theorem setEng_pwr : (s.setEng a n en).pwr = s.pwr := rfl
@[simp] theorem setEng_bist : (s.setEng a n en).bist = s.bist := rfl
@[simp] theorem setEng_tap : (s.setEng a n en).tap = s.tap := rfl
@[simp] theorem setEng_tapHeld : (s.setEng a n en).tapHeld = s.tapHeld := rfl

theorem setRegIn_rest : s.setRegIn a n i j w = { s with engReg := (s.setRegIn a n i j w).engReg } := by
  by_cases h : (j == 16) = true
  · have e : s.setRegIn a n i j w = s := if_pos h
    rw [e]
  · have e : ∃ x, s.setRegIn a n i j w = { s with engReg := x } := ⟨_, if_neg h⟩
    obtain ⟨x, e⟩ := e
    rw [e]

@[simp] theorem setRegIn_pending : (s.setRegIn a n i j w).pending = s.pending := (congrArg State.pending (setRegIn_rest s a n i j w) :)
@[simp] theorem setRegIn_part : (s.setRegIn a n i j w).part = s.part := (congrArg State.part (setRegIn_rest s a n i j w) :)
@[simp] theorem setRegIn_csr : (s.setRegIn a n i j w).csr = s.csr := (congrArg State.csr (setRegIn_rest s a n i j w) :)
@[simp] theorem setRegIn_shadowCsr : (s.setRegIn a n i j w).shadowCsr = s.shadowCsr := (congrArg State.shadowCsr (setRegIn_rest s a n i j w) :)
@[simp] theorem setRegIn_flipList : (s.setRegIn a n i j w).flipList = s.flipList := (congrArg State.flipList (setRegIn_rest s a n i j w) :)
@[simp] theorem setRegIn_draws : (s.setRegIn a n i j w).draws = s.draws := (congrArg State.draws (setRegIn_rest s a n i j w) :)
@[simp] theorem setRegIn_serial : (s.setRegIn a n i j w).serial = s.serial := (congrArg State.serial (setRegIn_rest s a n i j w) :)
@[simp] theorem setRegIn_outbox : (s.setRegIn a n i j w).outbox = s.outbox := (congrArg State.outbox (setRegIn_rest s a n i j w) :)
@[simp] theorem setRegIn_ticks : (s.setRegIn a n i j w).ticks = s.ticks := (congrArg State.ticks (setRegIn_rest s a n i j w) :)
@[simp] theorem setRegIn_ports : (s.setRegIn a n i j w).ports = s.ports := (congrArg State.ports (setRegIn_rest s a n i j w) :)
@[simp] theorem setRegIn_cfgWords : (s.setRegIn a n i j w).cfgWords = s.cfgWords := (congrArg State.cfgWords (setRegIn_rest s a n i j w) :)
@[simp] theorem setRegIn_ingress : (s.setRegIn a n i j w).ingress = s.ingress := (congrArg State.ingress (setRegIn_rest s a n i j w) :)
@[simp] theorem setRegIn_headFree : (s.setRegIn a n i j w).headFree = s.headFree := (congrArg State.headFree (setRegIn_rest s a n i j w) :)
@[simp] theorem setRegIn_meterOld : (s.setRegIn a n i j w).meterOld = s.meterOld := (congrArg State.meterOld (setRegIn_rest s a n i j w) :)
@[simp] theorem setRegIn_replays : (s.setRegIn a n i j w).replays = s.replays := (congrArg State.replays (setRegIn_rest s a n i j w) :)
@[simp] theorem setRegIn_xsrc : (s.setRegIn a n i j w).xsrc = s.xsrc := (congrArg State.xsrc (setRegIn_rest s a n i j w) :)
@[simp] theorem setRegIn_xin : (s.setRegIn a n i j w).xin = s.xin := (congrArg State.xin (setRegIn_rest s a n i j w) :)
@[simp] theorem setRegIn_xout : (s.setRegIn a n i j w).xout = s.xout := (congrArg State.xout (setRegIn_rest s a n i j w) :)
@[simp] theorem setRegIn_xrr : (s.setRegIn a n i j w).xrr = s.xrr := (congrArg State.xrr (setRegIn_rest s a n i j w) :)
@[simp] theorem setRegIn_xbusy : (s.setRegIn a n i j w).xbusy = s.xbusy := (congrArg State.xbusy (setRegIn_rest s a n i j w) :)
@[simp] theorem setRegIn_tags : (s.setRegIn a n i j w).tags = s.tags := (congrArg State.tags (setRegIn_rest s a n i j w) :)
@[simp] theorem setRegIn_perst : (s.setRegIn a n i j w).perst = s.perst := (congrArg State.perst (setRegIn_rest s a n i j w) :)
@[simp] theorem setRegIn_dirEnt : (s.setRegIn a n i j w).dirEnt = s.dirEnt := (congrArg State.dirEnt (setRegIn_rest s a n i j w) :)
@[simp] theorem setRegIn_dirBad : (s.setRegIn a n i j w).dirBad = s.dirBad := (congrArg State.dirBad (setRegIn_rest s a n i j w) :)
@[simp] theorem setRegIn_dirRr : (s.setRegIn a n i j w).dirRr = s.dirRr := (congrArg State.dirRr (setRegIn_rest s a n i j w) :)
@[simp] theorem setRegIn_dirQ : (s.setRegIn a n i j w).dirQ = s.dirQ := (congrArg State.dirQ (setRegIn_rest s a n i j w) :)
@[simp] theorem setRegIn_dirTxn : (s.setRegIn a n i j w).dirTxn = s.dirTxn := (congrArg State.dirTxn (setRegIn_rest s a n i j w) :)
@[simp] theorem setRegIn_dirAcc : (s.setRegIn a n i j w).dirAcc = s.dirAcc := (congrArg State.dirAcc (setRegIn_rest s a n i j w) :)
@[simp] theorem setRegIn_dirOrph : (s.setRegIn a n i j w).dirOrph = s.dirOrph := (congrArg State.dirOrph (setRegIn_rest s a n i j w) :)
@[simp] theorem setRegIn_dirWalk : (s.setRegIn a n i j w).dirWalk = s.dirWalk := (congrArg State.dirWalk (setRegIn_rest s a n i j w) :)
@[simp] theorem setRegIn_engs : (s.setRegIn a n i j w).engs = s.engs := (congrArg State.engs (setRegIn_rest s a n i j w) :)
@[simp] theorem setRegIn_store : (s.setRegIn a n i j w).store = s.store := (congrArg State.store (setRegIn_rest s a n i j w) :)
@[simp] theorem setRegIn_storeBad : (s.setRegIn a n i j w).storeBad = s.storeBad := (congrArg State.storeBad (setRegIn_rest s a n i j w) :)
@[simp] theorem setRegIn_scratch : (s.setRegIn a n i j w).scratch = s.scratch := (congrArg State.scratch (setRegIn_rest s a n i j w) :)
@[simp] theorem setRegIn_scratchBad : (s.setRegIn a n i j w).scratchBad = s.scratchBad := (congrArg State.scratchBad (setRegIn_rest s a n i j w) :)
@[simp] theorem setRegIn_locks : (s.setRegIn a n i j w).locks = s.locks := (congrArg State.locks (setRegIn_rest s a n i j w) :)
@[simp] theorem setRegIn_claims : (s.setRegIn a n i j w).claims = s.claims := (congrArg State.claims (setRegIn_rest s a n i j w) :)
@[simp] theorem setRegIn_tasks : (s.setRegIn a n i j w).tasks = s.tasks := (congrArg State.tasks (setRegIn_rest s a n i j w) :)
@[simp] theorem setRegIn_ageCtr : (s.setRegIn a n i j w).ageCtr = s.ageCtr := (congrArg State.ageCtr (setRegIn_rest s a n i j w) :)
@[simp] theorem setRegIn_sched : (s.setRegIn a n i j w).sched = s.sched := (congrArg State.sched (setRegIn_rest s a n i j w) :)
@[simp] theorem setRegIn_ms : (s.setRegIn a n i j w).ms = s.ms := (congrArg State.ms (setRegIn_rest s a n i j w) :)
@[simp] theorem setRegIn_refMs : (s.setRegIn a n i j w).refMs = s.refMs := (congrArg State.refMs (setRegIn_rest s a n i j w) :)
@[simp] theorem setRegIn_pllLost : (s.setRegIn a n i j w).pllLost = s.pllLost := (congrArg State.pllLost (setRegIn_rest s a n i j w) :)
@[simp] theorem setRegIn_unlockAt : (s.setRegIn a n i j w).unlockAt = s.unlockAt := (congrArg State.unlockAt (setRegIn_rest s a n i j w) :)
@[simp] theorem setRegIn_cells : (s.setRegIn a n i j w).cells = s.cells := (congrArg State.cells (setRegIn_rest s a n i j w) :)
@[simp] theorem setRegIn_wayW : (s.setRegIn a n i j w).wayW = s.wayW := (congrArg State.wayW (setRegIn_rest s a n i j w) :)
@[simp] theorem setRegIn_wayB : (s.setRegIn a n i j w).wayB = s.wayB := (congrArg State.wayB (setRegIn_rest s a n i j w) :)
@[simp] theorem setRegIn_chanW : (s.setRegIn a n i j w).chanW = s.chanW := (congrArg State.chanW (setRegIn_rest s a n i j w) :)
@[simp] theorem setRegIn_chanB : (s.setRegIn a n i j w).chanB = s.chanB := (congrArg State.chanB (setRegIn_rest s a n i j w) :)
@[simp] theorem setRegIn_chanQ : (s.setRegIn a n i j w).chanQ = s.chanQ := (congrArg State.chanQ (setRegIn_rest s a n i j w) :)
@[simp] theorem setRegIn_border : (s.setRegIn a n i j w).border = s.border := (congrArg State.border (setRegIn_rest s a n i j w) :)
@[simp] theorem setRegIn_fabIn : (s.setRegIn a n i j w).fabIn = s.fabIn := (congrArg State.fabIn (setRegIn_rest s a n i j w) :)
@[simp] theorem setRegIn_entryOld : (s.setRegIn a n i j w).entryOld = s.entryOld := (congrArg State.entryOld (setRegIn_rest s a n i j w) :)
@[simp] theorem setRegIn_fabRef : (s.setRegIn a n i j w).fabRef = s.fabRef := (congrArg State.fabRef (setRegIn_rest s a n i j w) :)
@[simp] theorem setRegIn_fabAcc : (s.setRegIn a n i j w).fabAcc = s.fabAcc := (congrArg State.fabAcc (setRegIn_rest s a n i j w) :)
@[simp] theorem setRegIn_rewrite : (s.setRegIn a n i j w).rewrite = s.rewrite := (congrArg State.rewrite (setRegIn_rest s a n i j w) :)
@[simp] theorem setRegIn_usp : (s.setRegIn a n i j w).usp = s.usp := (congrArg State.usp (setRegIn_rest s a n i j w) :)
@[simp] theorem setRegIn_uio : (s.setRegIn a n i j w).uio = s.uio := (congrArg State.uio (setRegIn_rest s a n i j w) :)
@[simp] theorem setRegIn_bankMem : (s.setRegIn a n i j w).bankMem = s.bankMem := (congrArg State.bankMem (setRegIn_rest s a n i j w) :)
@[simp] theorem setRegIn_bankMark : (s.setRegIn a n i j w).bankMark = s.bankMark := (congrArg State.bankMark (setRegIn_rest s a n i j w) :)
@[simp] theorem setRegIn_bankQ : (s.setRegIn a n i j w).bankQ = s.bankQ := (congrArg State.bankQ (setRegIn_rest s a n i j w) :)
@[simp] theorem setRegIn_bankRr : (s.setRegIn a n i j w).bankRr = s.bankRr := (congrArg State.bankRr (setRegIn_rest s a n i j w) :)
@[simp] theorem setRegIn_bankLast : (s.setRegIn a n i j w).bankLast = s.bankLast := (congrArg State.bankLast (setRegIn_rest s a n i j w) :)
@[simp] theorem setRegIn_bankRmw : (s.setRegIn a n i j w).bankRmw = s.bankRmw := (congrArg State.bankRmw (setRegIn_rest s a n i j w) :)
@[simp] theorem setRegIn_clearing : (s.setRegIn a n i j w).clearing = s.clearing := (congrArg State.clearing (setRegIn_rest s a n i j w) :)
@[simp] theorem setRegIn_bt : (s.setRegIn a n i j w).bt = s.bt := (congrArg State.bt (setRegIn_rest s a n i j w) :)
@[simp] theorem setRegIn_ditches : (s.setRegIn a n i j w).ditches = s.ditches := (congrArg State.ditches (setRegIn_rest s a n i j w) :)
@[simp] theorem setRegIn_ditchRr : (s.setRegIn a n i j w).ditchRr = s.ditchRr := (congrArg State.ditchRr (setRegIn_rest s a n i j w) :)
@[simp] theorem setRegIn_frames : (s.setRegIn a n i j w).frames = s.frames := (congrArg State.frames (setRegIn_rest s a n i j w) :)
@[simp] theorem setRegIn_frameBad : (s.setRegIn a n i j w).frameBad = s.frameBad := (congrArg State.frameBad (setRegIn_rest s a n i j w) :)
@[simp] theorem setRegIn_planes : (s.setRegIn a n i j w).planes = s.planes := (congrArg State.planes (setRegIn_rest s a n i j w) :)
@[simp] theorem setRegIn_image : (s.setRegIn a n i j w).image = s.image := (congrArg State.image (setRegIn_rest s a n i j w) :)
@[simp] theorem setRegIn_scrubSkips : (s.setRegIn a n i j w).scrubSkips = s.scrubSkips := (congrArg State.scrubSkips (setRegIn_rest s a n i j w) :)
@[simp] theorem setRegIn_load : (s.setRegIn a n i j w).load = s.load := (congrArg State.load (setRegIn_rest s a n i j w) :)
@[simp] theorem setRegIn_hostImage : (s.setRegIn a n i j w).hostImage = s.hostImage := (congrArg State.hostImage (setRegIn_rest s a n i j w) :)
@[simp] theorem setRegIn_jobs : (s.setRegIn a n i j w).jobs = s.jobs := (congrArg State.jobs (setRegIn_rest s a n i j w) :)
@[simp] theorem setRegIn_swap : (s.setRegIn a n i j w).swap = s.swap := (congrArg State.swap (setRegIn_rest s a n i j w) :)
@[simp] theorem setRegIn_releases : (s.setRegIn a n i j w).releases = s.releases := (congrArg State.releases (setRegIn_rest s a n i j w) :)
@[simp] theorem setRegIn_held : (s.setRegIn a n i j w).held = s.held := (congrArg State.held (setRegIn_rest s a n i j w) :)
@[simp] theorem setRegIn_gatesPass : (s.setRegIn a n i j w).gatesPass = s.gatesPass := (congrArg State.gatesPass (setRegIn_rest s a n i j w) :)
@[simp] theorem setRegIn_writesOn : (s.setRegIn a n i j w).writesOn = s.writesOn := (congrArg State.writesOn (setRegIn_rest s a n i j w) :)
@[simp] theorem setRegIn_hosts : (s.setRegIn a n i j w).hosts = s.hosts := (congrArg State.hosts (setRegIn_rest s a n i j w) :)
@[simp] theorem setRegIn_cmds : (s.setRegIn a n i j w).cmds = s.cmds := (congrArg State.cmds (setRegIn_rest s a n i j w) :)
@[simp] theorem setRegIn_refused : (s.setRegIn a n i j w).refused = s.refused := (congrArg State.refused (setRegIn_rest s a n i j w) :)
@[simp] theorem setRegIn_mboxes : (s.setRegIn a n i j w).mboxes = s.mboxes := (congrArg State.mboxes (setRegIn_rest s a n i j w) :)
@[simp] theorem setRegIn_bar : (s.setRegIn a n i j w).bar = s.bar := (congrArg State.bar (setRegIn_rest s a n i j w) :)
@[simp] theorem setRegIn_sess : (s.setRegIn a n i j w).sess = s.sess := (congrArg State.sess (setRegIn_rest s a n i j w) :)
@[simp] theorem setRegIn_trans : (s.setRegIn a n i j w).trans = s.trans := (congrArg State.trans (setRegIn_rest s a n i j w) :)
@[simp] theorem setRegIn_queues : (s.setRegIn a n i j w).queues = s.queues := (congrArg State.queues (setRegIn_rest s a n i j w) :)
@[simp] theorem setRegIn_windows : (s.setRegIn a n i j w).windows = s.windows := (congrArg State.windows (setRegIn_rest s a n i j w) :)
@[simp] theorem setRegIn_nditch : (s.setRegIn a n i j w).nditch = s.nditch := (congrArg State.nditch (setRegIn_rest s a n i j w) :)
@[simp] theorem setRegIn_tow : (s.setRegIn a n i j w).tow = s.tow := (congrArg State.tow (setRegIn_rest s a n i j w) :)
@[simp] theorem setRegIn_flash : (s.setRegIn a n i j w).flash = s.flash := (congrArg State.flash (setRegIn_rest s a n i j w) :)
@[simp] theorem setRegIn_flashBad : (s.setRegIn a n i j w).flashBad = s.flashBad := (congrArg State.flashBad (setRegIn_rest s a n i j w) :)
@[simp] theorem setRegIn_flagCells : (s.setRegIn a n i j w).flagCells = s.flagCells := (congrArg State.flagCells (setRegIn_rest s a n i j w) :)
@[simp] theorem setRegIn_fl : (s.setRegIn a n i j w).fl = s.fl := (congrArg State.fl (setRegIn_rest s a n i j w) :)
@[simp] theorem setRegIn_options : (s.setRegIn a n i j w).options = s.options := (congrArg State.options (setRegIn_rest s a n i j w) :)
@[simp] theorem setRegIn_job : (s.setRegIn a n i j w).job = s.job := (congrArg State.job (setRegIn_rest s a n i j w) :)
@[simp] theorem setRegIn_fwValid : (s.setRegIn a n i j w).fwValid = s.fwValid := (congrArg State.fwValid (setRegIn_rest s a n i j w) :)
@[simp] theorem setRegIn_fwSig : (s.setRegIn a n i j w).fwSig = s.fwSig := (congrArg State.fwSig (setRegIn_rest s a n i j w) :)
@[simp] theorem setRegIn_fallback : (s.setRegIn a n i j w).fallback = s.fallback := (congrArg State.fallback (setRegIn_rest s a n i j w) :)
@[simp] theorem setRegIn_otp : (s.setRegIn a n i j w).otp = s.otp := (congrArg State.otp (setRegIn_rest s a n i j w) :)
@[simp] theorem setRegIn_otpBusy : (s.setRegIn a n i j w).otpBusy = s.otpBusy := (congrArg State.otpBusy (setRegIn_rest s a n i j w) :)
@[simp] theorem setRegIn_certs : (s.setRegIn a n i j w).certs = s.certs := (congrArg State.certs (setRegIn_rest s a n i j w) :)
@[simp] theorem setRegIn_pins : (s.setRegIn a n i j w).pins = s.pins := (congrArg State.pins (setRegIn_rest s a n i j w) :)
@[simp] theorem setRegIn_pwr : (s.setRegIn a n i j w).pwr = s.pwr := (congrArg State.pwr (setRegIn_rest s a n i j w) :)
@[simp] theorem setRegIn_bist : (s.setRegIn a n i j w).bist = s.bist := (congrArg State.bist (setRegIn_rest s a n i j w) :)
@[simp] theorem setRegIn_tap : (s.setRegIn a n i j w).tap = s.tap := (congrArg State.tap (setRegIn_rest s a n i j w) :)
@[simp] theorem setRegIn_tapHeld : (s.setRegIn a n i j w).tapHeld = s.tapHeld := (congrArg State.tapHeld (setRegIn_rest s a n i j w) :)

theorem setReg_rest : s.setReg a n i w = { s with engReg := (s.setReg a n i w).engReg } := by
  unfold State.setReg; rw [setRegIn_rest]

@[simp] theorem setReg_pending : (s.setReg a n i w).pending = s.pending := (congrArg State.pending (setReg_rest s a n i w) :)
@[simp] theorem setReg_part : (s.setReg a n i w).part = s.part := (congrArg State.part (setReg_rest s a n i w) :)
@[simp] theorem setReg_csr : (s.setReg a n i w).csr = s.csr := (congrArg State.csr (setReg_rest s a n i w) :)
@[simp] theorem setReg_shadowCsr : (s.setReg a n i w).shadowCsr = s.shadowCsr := (congrArg State.shadowCsr (setReg_rest s a n i w) :)
@[simp] theorem setReg_flipList : (s.setReg a n i w).flipList = s.flipList := (congrArg State.flipList (setReg_rest s a n i w) :)
@[simp] theorem setReg_draws : (s.setReg a n i w).draws = s.draws := (congrArg State.draws (setReg_rest s a n i w) :)
@[simp] theorem setReg_serial : (s.setReg a n i w).serial = s.serial := (congrArg State.serial (setReg_rest s a n i w) :)
@[simp] theorem setReg_outbox : (s.setReg a n i w).outbox = s.outbox := (congrArg State.outbox (setReg_rest s a n i w) :)
@[simp] theorem setReg_ticks : (s.setReg a n i w).ticks = s.ticks := (congrArg State.ticks (setReg_rest s a n i w) :)
@[simp] theorem setReg_ports : (s.setReg a n i w).ports = s.ports := (congrArg State.ports (setReg_rest s a n i w) :)
@[simp] theorem setReg_cfgWords : (s.setReg a n i w).cfgWords = s.cfgWords := (congrArg State.cfgWords (setReg_rest s a n i w) :)
@[simp] theorem setReg_ingress : (s.setReg a n i w).ingress = s.ingress := (congrArg State.ingress (setReg_rest s a n i w) :)
@[simp] theorem setReg_headFree : (s.setReg a n i w).headFree = s.headFree := (congrArg State.headFree (setReg_rest s a n i w) :)
@[simp] theorem setReg_meterOld : (s.setReg a n i w).meterOld = s.meterOld := (congrArg State.meterOld (setReg_rest s a n i w) :)
@[simp] theorem setReg_replays : (s.setReg a n i w).replays = s.replays := (congrArg State.replays (setReg_rest s a n i w) :)
@[simp] theorem setReg_xsrc : (s.setReg a n i w).xsrc = s.xsrc := (congrArg State.xsrc (setReg_rest s a n i w) :)
@[simp] theorem setReg_xin : (s.setReg a n i w).xin = s.xin := (congrArg State.xin (setReg_rest s a n i w) :)
@[simp] theorem setReg_xout : (s.setReg a n i w).xout = s.xout := (congrArg State.xout (setReg_rest s a n i w) :)
@[simp] theorem setReg_xrr : (s.setReg a n i w).xrr = s.xrr := (congrArg State.xrr (setReg_rest s a n i w) :)
@[simp] theorem setReg_xbusy : (s.setReg a n i w).xbusy = s.xbusy := (congrArg State.xbusy (setReg_rest s a n i w) :)
@[simp] theorem setReg_tags : (s.setReg a n i w).tags = s.tags := (congrArg State.tags (setReg_rest s a n i w) :)
@[simp] theorem setReg_perst : (s.setReg a n i w).perst = s.perst := (congrArg State.perst (setReg_rest s a n i w) :)
@[simp] theorem setReg_dirEnt : (s.setReg a n i w).dirEnt = s.dirEnt := (congrArg State.dirEnt (setReg_rest s a n i w) :)
@[simp] theorem setReg_dirBad : (s.setReg a n i w).dirBad = s.dirBad := (congrArg State.dirBad (setReg_rest s a n i w) :)
@[simp] theorem setReg_dirRr : (s.setReg a n i w).dirRr = s.dirRr := (congrArg State.dirRr (setReg_rest s a n i w) :)
@[simp] theorem setReg_dirQ : (s.setReg a n i w).dirQ = s.dirQ := (congrArg State.dirQ (setReg_rest s a n i w) :)
@[simp] theorem setReg_dirTxn : (s.setReg a n i w).dirTxn = s.dirTxn := (congrArg State.dirTxn (setReg_rest s a n i w) :)
@[simp] theorem setReg_dirAcc : (s.setReg a n i w).dirAcc = s.dirAcc := (congrArg State.dirAcc (setReg_rest s a n i w) :)
@[simp] theorem setReg_dirOrph : (s.setReg a n i w).dirOrph = s.dirOrph := (congrArg State.dirOrph (setReg_rest s a n i w) :)
@[simp] theorem setReg_dirWalk : (s.setReg a n i w).dirWalk = s.dirWalk := (congrArg State.dirWalk (setReg_rest s a n i w) :)
@[simp] theorem setReg_engs : (s.setReg a n i w).engs = s.engs := (congrArg State.engs (setReg_rest s a n i w) :)
@[simp] theorem setReg_store : (s.setReg a n i w).store = s.store := (congrArg State.store (setReg_rest s a n i w) :)
@[simp] theorem setReg_storeBad : (s.setReg a n i w).storeBad = s.storeBad := (congrArg State.storeBad (setReg_rest s a n i w) :)
@[simp] theorem setReg_scratch : (s.setReg a n i w).scratch = s.scratch := (congrArg State.scratch (setReg_rest s a n i w) :)
@[simp] theorem setReg_scratchBad : (s.setReg a n i w).scratchBad = s.scratchBad := (congrArg State.scratchBad (setReg_rest s a n i w) :)
@[simp] theorem setReg_locks : (s.setReg a n i w).locks = s.locks := (congrArg State.locks (setReg_rest s a n i w) :)
@[simp] theorem setReg_claims : (s.setReg a n i w).claims = s.claims := (congrArg State.claims (setReg_rest s a n i w) :)
@[simp] theorem setReg_tasks : (s.setReg a n i w).tasks = s.tasks := (congrArg State.tasks (setReg_rest s a n i w) :)
@[simp] theorem setReg_ageCtr : (s.setReg a n i w).ageCtr = s.ageCtr := (congrArg State.ageCtr (setReg_rest s a n i w) :)
@[simp] theorem setReg_sched : (s.setReg a n i w).sched = s.sched := (congrArg State.sched (setReg_rest s a n i w) :)
@[simp] theorem setReg_ms : (s.setReg a n i w).ms = s.ms := (congrArg State.ms (setReg_rest s a n i w) :)
@[simp] theorem setReg_refMs : (s.setReg a n i w).refMs = s.refMs := (congrArg State.refMs (setReg_rest s a n i w) :)
@[simp] theorem setReg_pllLost : (s.setReg a n i w).pllLost = s.pllLost := (congrArg State.pllLost (setReg_rest s a n i w) :)
@[simp] theorem setReg_unlockAt : (s.setReg a n i w).unlockAt = s.unlockAt := (congrArg State.unlockAt (setReg_rest s a n i w) :)
@[simp] theorem setReg_cells : (s.setReg a n i w).cells = s.cells := (congrArg State.cells (setReg_rest s a n i w) :)
@[simp] theorem setReg_wayW : (s.setReg a n i w).wayW = s.wayW := (congrArg State.wayW (setReg_rest s a n i w) :)
@[simp] theorem setReg_wayB : (s.setReg a n i w).wayB = s.wayB := (congrArg State.wayB (setReg_rest s a n i w) :)
@[simp] theorem setReg_chanW : (s.setReg a n i w).chanW = s.chanW := (congrArg State.chanW (setReg_rest s a n i w) :)
@[simp] theorem setReg_chanB : (s.setReg a n i w).chanB = s.chanB := (congrArg State.chanB (setReg_rest s a n i w) :)
@[simp] theorem setReg_chanQ : (s.setReg a n i w).chanQ = s.chanQ := (congrArg State.chanQ (setReg_rest s a n i w) :)
@[simp] theorem setReg_border : (s.setReg a n i w).border = s.border := (congrArg State.border (setReg_rest s a n i w) :)
@[simp] theorem setReg_fabIn : (s.setReg a n i w).fabIn = s.fabIn := (congrArg State.fabIn (setReg_rest s a n i w) :)
@[simp] theorem setReg_entryOld : (s.setReg a n i w).entryOld = s.entryOld := (congrArg State.entryOld (setReg_rest s a n i w) :)
@[simp] theorem setReg_fabRef : (s.setReg a n i w).fabRef = s.fabRef := (congrArg State.fabRef (setReg_rest s a n i w) :)
@[simp] theorem setReg_fabAcc : (s.setReg a n i w).fabAcc = s.fabAcc := (congrArg State.fabAcc (setReg_rest s a n i w) :)
@[simp] theorem setReg_rewrite : (s.setReg a n i w).rewrite = s.rewrite := (congrArg State.rewrite (setReg_rest s a n i w) :)
@[simp] theorem setReg_usp : (s.setReg a n i w).usp = s.usp := (congrArg State.usp (setReg_rest s a n i w) :)
@[simp] theorem setReg_uio : (s.setReg a n i w).uio = s.uio := (congrArg State.uio (setReg_rest s a n i w) :)
@[simp] theorem setReg_bankMem : (s.setReg a n i w).bankMem = s.bankMem := (congrArg State.bankMem (setReg_rest s a n i w) :)
@[simp] theorem setReg_bankMark : (s.setReg a n i w).bankMark = s.bankMark := (congrArg State.bankMark (setReg_rest s a n i w) :)
@[simp] theorem setReg_bankQ : (s.setReg a n i w).bankQ = s.bankQ := (congrArg State.bankQ (setReg_rest s a n i w) :)
@[simp] theorem setReg_bankRr : (s.setReg a n i w).bankRr = s.bankRr := (congrArg State.bankRr (setReg_rest s a n i w) :)
@[simp] theorem setReg_bankLast : (s.setReg a n i w).bankLast = s.bankLast := (congrArg State.bankLast (setReg_rest s a n i w) :)
@[simp] theorem setReg_bankRmw : (s.setReg a n i w).bankRmw = s.bankRmw := (congrArg State.bankRmw (setReg_rest s a n i w) :)
@[simp] theorem setReg_clearing : (s.setReg a n i w).clearing = s.clearing := (congrArg State.clearing (setReg_rest s a n i w) :)
@[simp] theorem setReg_bt : (s.setReg a n i w).bt = s.bt := (congrArg State.bt (setReg_rest s a n i w) :)
@[simp] theorem setReg_ditches : (s.setReg a n i w).ditches = s.ditches := (congrArg State.ditches (setReg_rest s a n i w) :)
@[simp] theorem setReg_ditchRr : (s.setReg a n i w).ditchRr = s.ditchRr := (congrArg State.ditchRr (setReg_rest s a n i w) :)
@[simp] theorem setReg_frames : (s.setReg a n i w).frames = s.frames := (congrArg State.frames (setReg_rest s a n i w) :)
@[simp] theorem setReg_frameBad : (s.setReg a n i w).frameBad = s.frameBad := (congrArg State.frameBad (setReg_rest s a n i w) :)
@[simp] theorem setReg_planes : (s.setReg a n i w).planes = s.planes := (congrArg State.planes (setReg_rest s a n i w) :)
@[simp] theorem setReg_image : (s.setReg a n i w).image = s.image := (congrArg State.image (setReg_rest s a n i w) :)
@[simp] theorem setReg_scrubSkips : (s.setReg a n i w).scrubSkips = s.scrubSkips := (congrArg State.scrubSkips (setReg_rest s a n i w) :)
@[simp] theorem setReg_load : (s.setReg a n i w).load = s.load := (congrArg State.load (setReg_rest s a n i w) :)
@[simp] theorem setReg_hostImage : (s.setReg a n i w).hostImage = s.hostImage := (congrArg State.hostImage (setReg_rest s a n i w) :)
@[simp] theorem setReg_jobs : (s.setReg a n i w).jobs = s.jobs := (congrArg State.jobs (setReg_rest s a n i w) :)
@[simp] theorem setReg_swap : (s.setReg a n i w).swap = s.swap := (congrArg State.swap (setReg_rest s a n i w) :)
@[simp] theorem setReg_releases : (s.setReg a n i w).releases = s.releases := (congrArg State.releases (setReg_rest s a n i w) :)
@[simp] theorem setReg_held : (s.setReg a n i w).held = s.held := (congrArg State.held (setReg_rest s a n i w) :)
@[simp] theorem setReg_gatesPass : (s.setReg a n i w).gatesPass = s.gatesPass := (congrArg State.gatesPass (setReg_rest s a n i w) :)
@[simp] theorem setReg_writesOn : (s.setReg a n i w).writesOn = s.writesOn := (congrArg State.writesOn (setReg_rest s a n i w) :)
@[simp] theorem setReg_hosts : (s.setReg a n i w).hosts = s.hosts := (congrArg State.hosts (setReg_rest s a n i w) :)
@[simp] theorem setReg_cmds : (s.setReg a n i w).cmds = s.cmds := (congrArg State.cmds (setReg_rest s a n i w) :)
@[simp] theorem setReg_refused : (s.setReg a n i w).refused = s.refused := (congrArg State.refused (setReg_rest s a n i w) :)
@[simp] theorem setReg_mboxes : (s.setReg a n i w).mboxes = s.mboxes := (congrArg State.mboxes (setReg_rest s a n i w) :)
@[simp] theorem setReg_bar : (s.setReg a n i w).bar = s.bar := (congrArg State.bar (setReg_rest s a n i w) :)
@[simp] theorem setReg_sess : (s.setReg a n i w).sess = s.sess := (congrArg State.sess (setReg_rest s a n i w) :)
@[simp] theorem setReg_trans : (s.setReg a n i w).trans = s.trans := (congrArg State.trans (setReg_rest s a n i w) :)
@[simp] theorem setReg_queues : (s.setReg a n i w).queues = s.queues := (congrArg State.queues (setReg_rest s a n i w) :)
@[simp] theorem setReg_windows : (s.setReg a n i w).windows = s.windows := (congrArg State.windows (setReg_rest s a n i w) :)
@[simp] theorem setReg_nditch : (s.setReg a n i w).nditch = s.nditch := (congrArg State.nditch (setReg_rest s a n i w) :)
@[simp] theorem setReg_tow : (s.setReg a n i w).tow = s.tow := (congrArg State.tow (setReg_rest s a n i w) :)
@[simp] theorem setReg_flash : (s.setReg a n i w).flash = s.flash := (congrArg State.flash (setReg_rest s a n i w) :)
@[simp] theorem setReg_flashBad : (s.setReg a n i w).flashBad = s.flashBad := (congrArg State.flashBad (setReg_rest s a n i w) :)
@[simp] theorem setReg_flagCells : (s.setReg a n i w).flagCells = s.flagCells := (congrArg State.flagCells (setReg_rest s a n i w) :)
@[simp] theorem setReg_fl : (s.setReg a n i w).fl = s.fl := (congrArg State.fl (setReg_rest s a n i w) :)
@[simp] theorem setReg_options : (s.setReg a n i w).options = s.options := (congrArg State.options (setReg_rest s a n i w) :)
@[simp] theorem setReg_job : (s.setReg a n i w).job = s.job := (congrArg State.job (setReg_rest s a n i w) :)
@[simp] theorem setReg_fwValid : (s.setReg a n i w).fwValid = s.fwValid := (congrArg State.fwValid (setReg_rest s a n i w) :)
@[simp] theorem setReg_fwSig : (s.setReg a n i w).fwSig = s.fwSig := (congrArg State.fwSig (setReg_rest s a n i w) :)
@[simp] theorem setReg_fallback : (s.setReg a n i w).fallback = s.fallback := (congrArg State.fallback (setReg_rest s a n i w) :)
@[simp] theorem setReg_otp : (s.setReg a n i w).otp = s.otp := (congrArg State.otp (setReg_rest s a n i w) :)
@[simp] theorem setReg_otpBusy : (s.setReg a n i w).otpBusy = s.otpBusy := (congrArg State.otpBusy (setReg_rest s a n i w) :)
@[simp] theorem setReg_certs : (s.setReg a n i w).certs = s.certs := (congrArg State.certs (setReg_rest s a n i w) :)
@[simp] theorem setReg_pins : (s.setReg a n i w).pins = s.pins := (congrArg State.pins (setReg_rest s a n i w) :)
@[simp] theorem setReg_pwr : (s.setReg a n i w).pwr = s.pwr := (congrArg State.pwr (setReg_rest s a n i w) :)
@[simp] theorem setReg_bist : (s.setReg a n i w).bist = s.bist := (congrArg State.bist (setReg_rest s a n i w) :)
@[simp] theorem setReg_tap : (s.setReg a n i w).tap = s.tap := (congrArg State.tap (setReg_rest s a n i w) :)
@[simp] theorem setReg_tapHeld : (s.setReg a n i w).tapHeld = s.tapHeld := (congrArg State.tapHeld (setReg_rest s a n i w) :)

theorem fetchEcc_rest : s.fetchEcc a n = { s with csr := (s.fetchEcc a n).csr, storeBad := (s.fetchEcc a n).storeBad } := by
  by_cases h : (SMap.get 0 s.storeBad (storeKey a n (s.eng a n).pc) == 1) = true
  · have e : s.fetchEcc a n = State.count { s with storeBad := SMap.set 0 s.storeBad (storeKey a n (s.eng a n).pc) 0 }
        (Csr.engEccCnt a) EngEccCnt.corr 1 := if_pos h
    rw [e]; rfl
  · have e : s.fetchEcc a n = s := if_neg h
    rw [e]

@[simp] theorem fetchEcc_pending : (s.fetchEcc a n).pending = s.pending := (congrArg State.pending (fetchEcc_rest s a n) :)
@[simp] theorem fetchEcc_part : (s.fetchEcc a n).part = s.part := (congrArg State.part (fetchEcc_rest s a n) :)
@[simp] theorem fetchEcc_shadowCsr : (s.fetchEcc a n).shadowCsr = s.shadowCsr := (congrArg State.shadowCsr (fetchEcc_rest s a n) :)
@[simp] theorem fetchEcc_flipList : (s.fetchEcc a n).flipList = s.flipList := (congrArg State.flipList (fetchEcc_rest s a n) :)
@[simp] theorem fetchEcc_draws : (s.fetchEcc a n).draws = s.draws := (congrArg State.draws (fetchEcc_rest s a n) :)
@[simp] theorem fetchEcc_serial : (s.fetchEcc a n).serial = s.serial := (congrArg State.serial (fetchEcc_rest s a n) :)
@[simp] theorem fetchEcc_outbox : (s.fetchEcc a n).outbox = s.outbox := (congrArg State.outbox (fetchEcc_rest s a n) :)
@[simp] theorem fetchEcc_ticks : (s.fetchEcc a n).ticks = s.ticks := (congrArg State.ticks (fetchEcc_rest s a n) :)
@[simp] theorem fetchEcc_ports : (s.fetchEcc a n).ports = s.ports := (congrArg State.ports (fetchEcc_rest s a n) :)
@[simp] theorem fetchEcc_cfgWords : (s.fetchEcc a n).cfgWords = s.cfgWords := (congrArg State.cfgWords (fetchEcc_rest s a n) :)
@[simp] theorem fetchEcc_ingress : (s.fetchEcc a n).ingress = s.ingress := (congrArg State.ingress (fetchEcc_rest s a n) :)
@[simp] theorem fetchEcc_headFree : (s.fetchEcc a n).headFree = s.headFree := (congrArg State.headFree (fetchEcc_rest s a n) :)
@[simp] theorem fetchEcc_meterOld : (s.fetchEcc a n).meterOld = s.meterOld := (congrArg State.meterOld (fetchEcc_rest s a n) :)
@[simp] theorem fetchEcc_replays : (s.fetchEcc a n).replays = s.replays := (congrArg State.replays (fetchEcc_rest s a n) :)
@[simp] theorem fetchEcc_xsrc : (s.fetchEcc a n).xsrc = s.xsrc := (congrArg State.xsrc (fetchEcc_rest s a n) :)
@[simp] theorem fetchEcc_xin : (s.fetchEcc a n).xin = s.xin := (congrArg State.xin (fetchEcc_rest s a n) :)
@[simp] theorem fetchEcc_xout : (s.fetchEcc a n).xout = s.xout := (congrArg State.xout (fetchEcc_rest s a n) :)
@[simp] theorem fetchEcc_xrr : (s.fetchEcc a n).xrr = s.xrr := (congrArg State.xrr (fetchEcc_rest s a n) :)
@[simp] theorem fetchEcc_xbusy : (s.fetchEcc a n).xbusy = s.xbusy := (congrArg State.xbusy (fetchEcc_rest s a n) :)
@[simp] theorem fetchEcc_tags : (s.fetchEcc a n).tags = s.tags := (congrArg State.tags (fetchEcc_rest s a n) :)
@[simp] theorem fetchEcc_perst : (s.fetchEcc a n).perst = s.perst := (congrArg State.perst (fetchEcc_rest s a n) :)
@[simp] theorem fetchEcc_dirEnt : (s.fetchEcc a n).dirEnt = s.dirEnt := (congrArg State.dirEnt (fetchEcc_rest s a n) :)
@[simp] theorem fetchEcc_dirBad : (s.fetchEcc a n).dirBad = s.dirBad := (congrArg State.dirBad (fetchEcc_rest s a n) :)
@[simp] theorem fetchEcc_dirRr : (s.fetchEcc a n).dirRr = s.dirRr := (congrArg State.dirRr (fetchEcc_rest s a n) :)
@[simp] theorem fetchEcc_dirQ : (s.fetchEcc a n).dirQ = s.dirQ := (congrArg State.dirQ (fetchEcc_rest s a n) :)
@[simp] theorem fetchEcc_dirTxn : (s.fetchEcc a n).dirTxn = s.dirTxn := (congrArg State.dirTxn (fetchEcc_rest s a n) :)
@[simp] theorem fetchEcc_dirAcc : (s.fetchEcc a n).dirAcc = s.dirAcc := (congrArg State.dirAcc (fetchEcc_rest s a n) :)
@[simp] theorem fetchEcc_dirOrph : (s.fetchEcc a n).dirOrph = s.dirOrph := (congrArg State.dirOrph (fetchEcc_rest s a n) :)
@[simp] theorem fetchEcc_dirWalk : (s.fetchEcc a n).dirWalk = s.dirWalk := (congrArg State.dirWalk (fetchEcc_rest s a n) :)
@[simp] theorem fetchEcc_engReg : (s.fetchEcc a n).engReg = s.engReg := (congrArg State.engReg (fetchEcc_rest s a n) :)
@[simp] theorem fetchEcc_engs : (s.fetchEcc a n).engs = s.engs := (congrArg State.engs (fetchEcc_rest s a n) :)
@[simp] theorem fetchEcc_store : (s.fetchEcc a n).store = s.store := (congrArg State.store (fetchEcc_rest s a n) :)
@[simp] theorem fetchEcc_scratch : (s.fetchEcc a n).scratch = s.scratch := (congrArg State.scratch (fetchEcc_rest s a n) :)
@[simp] theorem fetchEcc_scratchBad : (s.fetchEcc a n).scratchBad = s.scratchBad := (congrArg State.scratchBad (fetchEcc_rest s a n) :)
@[simp] theorem fetchEcc_locks : (s.fetchEcc a n).locks = s.locks := (congrArg State.locks (fetchEcc_rest s a n) :)
@[simp] theorem fetchEcc_claims : (s.fetchEcc a n).claims = s.claims := (congrArg State.claims (fetchEcc_rest s a n) :)
@[simp] theorem fetchEcc_tasks : (s.fetchEcc a n).tasks = s.tasks := (congrArg State.tasks (fetchEcc_rest s a n) :)
@[simp] theorem fetchEcc_ageCtr : (s.fetchEcc a n).ageCtr = s.ageCtr := (congrArg State.ageCtr (fetchEcc_rest s a n) :)
@[simp] theorem fetchEcc_sched : (s.fetchEcc a n).sched = s.sched := (congrArg State.sched (fetchEcc_rest s a n) :)
@[simp] theorem fetchEcc_ms : (s.fetchEcc a n).ms = s.ms := (congrArg State.ms (fetchEcc_rest s a n) :)
@[simp] theorem fetchEcc_refMs : (s.fetchEcc a n).refMs = s.refMs := (congrArg State.refMs (fetchEcc_rest s a n) :)
@[simp] theorem fetchEcc_pllLost : (s.fetchEcc a n).pllLost = s.pllLost := (congrArg State.pllLost (fetchEcc_rest s a n) :)
@[simp] theorem fetchEcc_unlockAt : (s.fetchEcc a n).unlockAt = s.unlockAt := (congrArg State.unlockAt (fetchEcc_rest s a n) :)
@[simp] theorem fetchEcc_cells : (s.fetchEcc a n).cells = s.cells := (congrArg State.cells (fetchEcc_rest s a n) :)
@[simp] theorem fetchEcc_wayW : (s.fetchEcc a n).wayW = s.wayW := (congrArg State.wayW (fetchEcc_rest s a n) :)
@[simp] theorem fetchEcc_wayB : (s.fetchEcc a n).wayB = s.wayB := (congrArg State.wayB (fetchEcc_rest s a n) :)
@[simp] theorem fetchEcc_chanW : (s.fetchEcc a n).chanW = s.chanW := (congrArg State.chanW (fetchEcc_rest s a n) :)
@[simp] theorem fetchEcc_chanB : (s.fetchEcc a n).chanB = s.chanB := (congrArg State.chanB (fetchEcc_rest s a n) :)
@[simp] theorem fetchEcc_chanQ : (s.fetchEcc a n).chanQ = s.chanQ := (congrArg State.chanQ (fetchEcc_rest s a n) :)
@[simp] theorem fetchEcc_border : (s.fetchEcc a n).border = s.border := (congrArg State.border (fetchEcc_rest s a n) :)
@[simp] theorem fetchEcc_fabIn : (s.fetchEcc a n).fabIn = s.fabIn := (congrArg State.fabIn (fetchEcc_rest s a n) :)
@[simp] theorem fetchEcc_entryOld : (s.fetchEcc a n).entryOld = s.entryOld := (congrArg State.entryOld (fetchEcc_rest s a n) :)
@[simp] theorem fetchEcc_fabRef : (s.fetchEcc a n).fabRef = s.fabRef := (congrArg State.fabRef (fetchEcc_rest s a n) :)
@[simp] theorem fetchEcc_fabAcc : (s.fetchEcc a n).fabAcc = s.fabAcc := (congrArg State.fabAcc (fetchEcc_rest s a n) :)
@[simp] theorem fetchEcc_rewrite : (s.fetchEcc a n).rewrite = s.rewrite := (congrArg State.rewrite (fetchEcc_rest s a n) :)
@[simp] theorem fetchEcc_usp : (s.fetchEcc a n).usp = s.usp := (congrArg State.usp (fetchEcc_rest s a n) :)
@[simp] theorem fetchEcc_uio : (s.fetchEcc a n).uio = s.uio := (congrArg State.uio (fetchEcc_rest s a n) :)
@[simp] theorem fetchEcc_bankMem : (s.fetchEcc a n).bankMem = s.bankMem := (congrArg State.bankMem (fetchEcc_rest s a n) :)
@[simp] theorem fetchEcc_bankMark : (s.fetchEcc a n).bankMark = s.bankMark := (congrArg State.bankMark (fetchEcc_rest s a n) :)
@[simp] theorem fetchEcc_bankQ : (s.fetchEcc a n).bankQ = s.bankQ := (congrArg State.bankQ (fetchEcc_rest s a n) :)
@[simp] theorem fetchEcc_bankRr : (s.fetchEcc a n).bankRr = s.bankRr := (congrArg State.bankRr (fetchEcc_rest s a n) :)
@[simp] theorem fetchEcc_bankLast : (s.fetchEcc a n).bankLast = s.bankLast := (congrArg State.bankLast (fetchEcc_rest s a n) :)
@[simp] theorem fetchEcc_bankRmw : (s.fetchEcc a n).bankRmw = s.bankRmw := (congrArg State.bankRmw (fetchEcc_rest s a n) :)
@[simp] theorem fetchEcc_clearing : (s.fetchEcc a n).clearing = s.clearing := (congrArg State.clearing (fetchEcc_rest s a n) :)
@[simp] theorem fetchEcc_bt : (s.fetchEcc a n).bt = s.bt := (congrArg State.bt (fetchEcc_rest s a n) :)
@[simp] theorem fetchEcc_ditches : (s.fetchEcc a n).ditches = s.ditches := (congrArg State.ditches (fetchEcc_rest s a n) :)
@[simp] theorem fetchEcc_ditchRr : (s.fetchEcc a n).ditchRr = s.ditchRr := (congrArg State.ditchRr (fetchEcc_rest s a n) :)
@[simp] theorem fetchEcc_frames : (s.fetchEcc a n).frames = s.frames := (congrArg State.frames (fetchEcc_rest s a n) :)
@[simp] theorem fetchEcc_frameBad : (s.fetchEcc a n).frameBad = s.frameBad := (congrArg State.frameBad (fetchEcc_rest s a n) :)
@[simp] theorem fetchEcc_planes : (s.fetchEcc a n).planes = s.planes := (congrArg State.planes (fetchEcc_rest s a n) :)
@[simp] theorem fetchEcc_image : (s.fetchEcc a n).image = s.image := (congrArg State.image (fetchEcc_rest s a n) :)
@[simp] theorem fetchEcc_scrubSkips : (s.fetchEcc a n).scrubSkips = s.scrubSkips := (congrArg State.scrubSkips (fetchEcc_rest s a n) :)
@[simp] theorem fetchEcc_load : (s.fetchEcc a n).load = s.load := (congrArg State.load (fetchEcc_rest s a n) :)
@[simp] theorem fetchEcc_hostImage : (s.fetchEcc a n).hostImage = s.hostImage := (congrArg State.hostImage (fetchEcc_rest s a n) :)
@[simp] theorem fetchEcc_jobs : (s.fetchEcc a n).jobs = s.jobs := (congrArg State.jobs (fetchEcc_rest s a n) :)
@[simp] theorem fetchEcc_swap : (s.fetchEcc a n).swap = s.swap := (congrArg State.swap (fetchEcc_rest s a n) :)
@[simp] theorem fetchEcc_releases : (s.fetchEcc a n).releases = s.releases := (congrArg State.releases (fetchEcc_rest s a n) :)
@[simp] theorem fetchEcc_held : (s.fetchEcc a n).held = s.held := (congrArg State.held (fetchEcc_rest s a n) :)
@[simp] theorem fetchEcc_gatesPass : (s.fetchEcc a n).gatesPass = s.gatesPass := (congrArg State.gatesPass (fetchEcc_rest s a n) :)
@[simp] theorem fetchEcc_writesOn : (s.fetchEcc a n).writesOn = s.writesOn := (congrArg State.writesOn (fetchEcc_rest s a n) :)
@[simp] theorem fetchEcc_hosts : (s.fetchEcc a n).hosts = s.hosts := (congrArg State.hosts (fetchEcc_rest s a n) :)
@[simp] theorem fetchEcc_cmds : (s.fetchEcc a n).cmds = s.cmds := (congrArg State.cmds (fetchEcc_rest s a n) :)
@[simp] theorem fetchEcc_refused : (s.fetchEcc a n).refused = s.refused := (congrArg State.refused (fetchEcc_rest s a n) :)
@[simp] theorem fetchEcc_mboxes : (s.fetchEcc a n).mboxes = s.mboxes := (congrArg State.mboxes (fetchEcc_rest s a n) :)
@[simp] theorem fetchEcc_bar : (s.fetchEcc a n).bar = s.bar := (congrArg State.bar (fetchEcc_rest s a n) :)
@[simp] theorem fetchEcc_sess : (s.fetchEcc a n).sess = s.sess := (congrArg State.sess (fetchEcc_rest s a n) :)
@[simp] theorem fetchEcc_trans : (s.fetchEcc a n).trans = s.trans := (congrArg State.trans (fetchEcc_rest s a n) :)
@[simp] theorem fetchEcc_queues : (s.fetchEcc a n).queues = s.queues := (congrArg State.queues (fetchEcc_rest s a n) :)
@[simp] theorem fetchEcc_windows : (s.fetchEcc a n).windows = s.windows := (congrArg State.windows (fetchEcc_rest s a n) :)
@[simp] theorem fetchEcc_nditch : (s.fetchEcc a n).nditch = s.nditch := (congrArg State.nditch (fetchEcc_rest s a n) :)
@[simp] theorem fetchEcc_tow : (s.fetchEcc a n).tow = s.tow := (congrArg State.tow (fetchEcc_rest s a n) :)
@[simp] theorem fetchEcc_flash : (s.fetchEcc a n).flash = s.flash := (congrArg State.flash (fetchEcc_rest s a n) :)
@[simp] theorem fetchEcc_flashBad : (s.fetchEcc a n).flashBad = s.flashBad := (congrArg State.flashBad (fetchEcc_rest s a n) :)
@[simp] theorem fetchEcc_flagCells : (s.fetchEcc a n).flagCells = s.flagCells := (congrArg State.flagCells (fetchEcc_rest s a n) :)
@[simp] theorem fetchEcc_fl : (s.fetchEcc a n).fl = s.fl := (congrArg State.fl (fetchEcc_rest s a n) :)
@[simp] theorem fetchEcc_options : (s.fetchEcc a n).options = s.options := (congrArg State.options (fetchEcc_rest s a n) :)
@[simp] theorem fetchEcc_job : (s.fetchEcc a n).job = s.job := (congrArg State.job (fetchEcc_rest s a n) :)
@[simp] theorem fetchEcc_fwValid : (s.fetchEcc a n).fwValid = s.fwValid := (congrArg State.fwValid (fetchEcc_rest s a n) :)
@[simp] theorem fetchEcc_fwSig : (s.fetchEcc a n).fwSig = s.fwSig := (congrArg State.fwSig (fetchEcc_rest s a n) :)
@[simp] theorem fetchEcc_fallback : (s.fetchEcc a n).fallback = s.fallback := (congrArg State.fallback (fetchEcc_rest s a n) :)
@[simp] theorem fetchEcc_otp : (s.fetchEcc a n).otp = s.otp := (congrArg State.otp (fetchEcc_rest s a n) :)
@[simp] theorem fetchEcc_otpBusy : (s.fetchEcc a n).otpBusy = s.otpBusy := (congrArg State.otpBusy (fetchEcc_rest s a n) :)
@[simp] theorem fetchEcc_certs : (s.fetchEcc a n).certs = s.certs := (congrArg State.certs (fetchEcc_rest s a n) :)
@[simp] theorem fetchEcc_pins : (s.fetchEcc a n).pins = s.pins := (congrArg State.pins (fetchEcc_rest s a n) :)
@[simp] theorem fetchEcc_pwr : (s.fetchEcc a n).pwr = s.pwr := (congrArg State.pwr (fetchEcc_rest s a n) :)
@[simp] theorem fetchEcc_bist : (s.fetchEcc a n).bist = s.bist := (congrArg State.bist (fetchEcc_rest s a n) :)
@[simp] theorem fetchEcc_tap : (s.fetchEcc a n).tap = s.tap := (congrArg State.tap (fetchEcc_rest s a n) :)
@[simp] theorem fetchEcc_tapHeld : (s.fetchEcc a n).tapHeld = s.tapHeld := (congrArg State.tapHeld (fetchEcc_rest s a n) :)

@[simp] theorem setStoreWord_pending : (s.setStoreWord a n i w).pending = s.pending := rfl
@[simp] theorem setStoreWord_part : (s.setStoreWord a n i w).part = s.part := rfl
@[simp] theorem setStoreWord_csr : (s.setStoreWord a n i w).csr = s.csr := rfl
@[simp] theorem setStoreWord_shadowCsr : (s.setStoreWord a n i w).shadowCsr = s.shadowCsr := rfl
@[simp] theorem setStoreWord_flipList : (s.setStoreWord a n i w).flipList = s.flipList := rfl
@[simp] theorem setStoreWord_draws : (s.setStoreWord a n i w).draws = s.draws := rfl
@[simp] theorem setStoreWord_serial : (s.setStoreWord a n i w).serial = s.serial := rfl
@[simp] theorem setStoreWord_outbox : (s.setStoreWord a n i w).outbox = s.outbox := rfl
@[simp] theorem setStoreWord_ticks : (s.setStoreWord a n i w).ticks = s.ticks := rfl
@[simp] theorem setStoreWord_ports : (s.setStoreWord a n i w).ports = s.ports := rfl
@[simp] theorem setStoreWord_cfgWords : (s.setStoreWord a n i w).cfgWords = s.cfgWords := rfl
@[simp] theorem setStoreWord_ingress : (s.setStoreWord a n i w).ingress = s.ingress := rfl
@[simp] theorem setStoreWord_headFree : (s.setStoreWord a n i w).headFree = s.headFree := rfl
@[simp] theorem setStoreWord_meterOld : (s.setStoreWord a n i w).meterOld = s.meterOld := rfl
@[simp] theorem setStoreWord_replays : (s.setStoreWord a n i w).replays = s.replays := rfl
@[simp] theorem setStoreWord_xsrc : (s.setStoreWord a n i w).xsrc = s.xsrc := rfl
@[simp] theorem setStoreWord_xin : (s.setStoreWord a n i w).xin = s.xin := rfl
@[simp] theorem setStoreWord_xout : (s.setStoreWord a n i w).xout = s.xout := rfl
@[simp] theorem setStoreWord_xrr : (s.setStoreWord a n i w).xrr = s.xrr := rfl
@[simp] theorem setStoreWord_xbusy : (s.setStoreWord a n i w).xbusy = s.xbusy := rfl
@[simp] theorem setStoreWord_tags : (s.setStoreWord a n i w).tags = s.tags := rfl
@[simp] theorem setStoreWord_perst : (s.setStoreWord a n i w).perst = s.perst := rfl
@[simp] theorem setStoreWord_dirEnt : (s.setStoreWord a n i w).dirEnt = s.dirEnt := rfl
@[simp] theorem setStoreWord_dirBad : (s.setStoreWord a n i w).dirBad = s.dirBad := rfl
@[simp] theorem setStoreWord_dirRr : (s.setStoreWord a n i w).dirRr = s.dirRr := rfl
@[simp] theorem setStoreWord_dirQ : (s.setStoreWord a n i w).dirQ = s.dirQ := rfl
@[simp] theorem setStoreWord_dirTxn : (s.setStoreWord a n i w).dirTxn = s.dirTxn := rfl
@[simp] theorem setStoreWord_dirAcc : (s.setStoreWord a n i w).dirAcc = s.dirAcc := rfl
@[simp] theorem setStoreWord_dirOrph : (s.setStoreWord a n i w).dirOrph = s.dirOrph := rfl
@[simp] theorem setStoreWord_dirWalk : (s.setStoreWord a n i w).dirWalk = s.dirWalk := rfl
@[simp] theorem setStoreWord_engReg : (s.setStoreWord a n i w).engReg = s.engReg := rfl
@[simp] theorem setStoreWord_engs : (s.setStoreWord a n i w).engs = s.engs := rfl
@[simp] theorem setStoreWord_scratch : (s.setStoreWord a n i w).scratch = s.scratch := rfl
@[simp] theorem setStoreWord_scratchBad : (s.setStoreWord a n i w).scratchBad = s.scratchBad := rfl
@[simp] theorem setStoreWord_locks : (s.setStoreWord a n i w).locks = s.locks := rfl
@[simp] theorem setStoreWord_claims : (s.setStoreWord a n i w).claims = s.claims := rfl
@[simp] theorem setStoreWord_tasks : (s.setStoreWord a n i w).tasks = s.tasks := rfl
@[simp] theorem setStoreWord_ageCtr : (s.setStoreWord a n i w).ageCtr = s.ageCtr := rfl
@[simp] theorem setStoreWord_sched : (s.setStoreWord a n i w).sched = s.sched := rfl
@[simp] theorem setStoreWord_ms : (s.setStoreWord a n i w).ms = s.ms := rfl
@[simp] theorem setStoreWord_refMs : (s.setStoreWord a n i w).refMs = s.refMs := rfl
@[simp] theorem setStoreWord_pllLost : (s.setStoreWord a n i w).pllLost = s.pllLost := rfl
@[simp] theorem setStoreWord_unlockAt : (s.setStoreWord a n i w).unlockAt = s.unlockAt := rfl
@[simp] theorem setStoreWord_cells : (s.setStoreWord a n i w).cells = s.cells := rfl
@[simp] theorem setStoreWord_wayW : (s.setStoreWord a n i w).wayW = s.wayW := rfl
@[simp] theorem setStoreWord_wayB : (s.setStoreWord a n i w).wayB = s.wayB := rfl
@[simp] theorem setStoreWord_chanW : (s.setStoreWord a n i w).chanW = s.chanW := rfl
@[simp] theorem setStoreWord_chanB : (s.setStoreWord a n i w).chanB = s.chanB := rfl
@[simp] theorem setStoreWord_chanQ : (s.setStoreWord a n i w).chanQ = s.chanQ := rfl
@[simp] theorem setStoreWord_border : (s.setStoreWord a n i w).border = s.border := rfl
@[simp] theorem setStoreWord_fabIn : (s.setStoreWord a n i w).fabIn = s.fabIn := rfl
@[simp] theorem setStoreWord_entryOld : (s.setStoreWord a n i w).entryOld = s.entryOld := rfl
@[simp] theorem setStoreWord_fabRef : (s.setStoreWord a n i w).fabRef = s.fabRef := rfl
@[simp] theorem setStoreWord_fabAcc : (s.setStoreWord a n i w).fabAcc = s.fabAcc := rfl
@[simp] theorem setStoreWord_rewrite : (s.setStoreWord a n i w).rewrite = s.rewrite := rfl
@[simp] theorem setStoreWord_usp : (s.setStoreWord a n i w).usp = s.usp := rfl
@[simp] theorem setStoreWord_uio : (s.setStoreWord a n i w).uio = s.uio := rfl
@[simp] theorem setStoreWord_bankMem : (s.setStoreWord a n i w).bankMem = s.bankMem := rfl
@[simp] theorem setStoreWord_bankMark : (s.setStoreWord a n i w).bankMark = s.bankMark := rfl
@[simp] theorem setStoreWord_bankQ : (s.setStoreWord a n i w).bankQ = s.bankQ := rfl
@[simp] theorem setStoreWord_bankRr : (s.setStoreWord a n i w).bankRr = s.bankRr := rfl
@[simp] theorem setStoreWord_bankLast : (s.setStoreWord a n i w).bankLast = s.bankLast := rfl
@[simp] theorem setStoreWord_bankRmw : (s.setStoreWord a n i w).bankRmw = s.bankRmw := rfl
@[simp] theorem setStoreWord_clearing : (s.setStoreWord a n i w).clearing = s.clearing := rfl
@[simp] theorem setStoreWord_bt : (s.setStoreWord a n i w).bt = s.bt := rfl
@[simp] theorem setStoreWord_ditches : (s.setStoreWord a n i w).ditches = s.ditches := rfl
@[simp] theorem setStoreWord_ditchRr : (s.setStoreWord a n i w).ditchRr = s.ditchRr := rfl
@[simp] theorem setStoreWord_frames : (s.setStoreWord a n i w).frames = s.frames := rfl
@[simp] theorem setStoreWord_frameBad : (s.setStoreWord a n i w).frameBad = s.frameBad := rfl
@[simp] theorem setStoreWord_planes : (s.setStoreWord a n i w).planes = s.planes := rfl
@[simp] theorem setStoreWord_image : (s.setStoreWord a n i w).image = s.image := rfl
@[simp] theorem setStoreWord_scrubSkips : (s.setStoreWord a n i w).scrubSkips = s.scrubSkips := rfl
@[simp] theorem setStoreWord_load : (s.setStoreWord a n i w).load = s.load := rfl
@[simp] theorem setStoreWord_hostImage : (s.setStoreWord a n i w).hostImage = s.hostImage := rfl
@[simp] theorem setStoreWord_jobs : (s.setStoreWord a n i w).jobs = s.jobs := rfl
@[simp] theorem setStoreWord_swap : (s.setStoreWord a n i w).swap = s.swap := rfl
@[simp] theorem setStoreWord_releases : (s.setStoreWord a n i w).releases = s.releases := rfl
@[simp] theorem setStoreWord_held : (s.setStoreWord a n i w).held = s.held := rfl
@[simp] theorem setStoreWord_gatesPass : (s.setStoreWord a n i w).gatesPass = s.gatesPass := rfl
@[simp] theorem setStoreWord_writesOn : (s.setStoreWord a n i w).writesOn = s.writesOn := rfl
@[simp] theorem setStoreWord_hosts : (s.setStoreWord a n i w).hosts = s.hosts := rfl
@[simp] theorem setStoreWord_cmds : (s.setStoreWord a n i w).cmds = s.cmds := rfl
@[simp] theorem setStoreWord_refused : (s.setStoreWord a n i w).refused = s.refused := rfl
@[simp] theorem setStoreWord_mboxes : (s.setStoreWord a n i w).mboxes = s.mboxes := rfl
@[simp] theorem setStoreWord_bar : (s.setStoreWord a n i w).bar = s.bar := rfl
@[simp] theorem setStoreWord_sess : (s.setStoreWord a n i w).sess = s.sess := rfl
@[simp] theorem setStoreWord_trans : (s.setStoreWord a n i w).trans = s.trans := rfl
@[simp] theorem setStoreWord_queues : (s.setStoreWord a n i w).queues = s.queues := rfl
@[simp] theorem setStoreWord_windows : (s.setStoreWord a n i w).windows = s.windows := rfl
@[simp] theorem setStoreWord_nditch : (s.setStoreWord a n i w).nditch = s.nditch := rfl
@[simp] theorem setStoreWord_tow : (s.setStoreWord a n i w).tow = s.tow := rfl
@[simp] theorem setStoreWord_flash : (s.setStoreWord a n i w).flash = s.flash := rfl
@[simp] theorem setStoreWord_flashBad : (s.setStoreWord a n i w).flashBad = s.flashBad := rfl
@[simp] theorem setStoreWord_flagCells : (s.setStoreWord a n i w).flagCells = s.flagCells := rfl
@[simp] theorem setStoreWord_fl : (s.setStoreWord a n i w).fl = s.fl := rfl
@[simp] theorem setStoreWord_options : (s.setStoreWord a n i w).options = s.options := rfl
@[simp] theorem setStoreWord_job : (s.setStoreWord a n i w).job = s.job := rfl
@[simp] theorem setStoreWord_fwValid : (s.setStoreWord a n i w).fwValid = s.fwValid := rfl
@[simp] theorem setStoreWord_fwSig : (s.setStoreWord a n i w).fwSig = s.fwSig := rfl
@[simp] theorem setStoreWord_fallback : (s.setStoreWord a n i w).fallback = s.fallback := rfl
@[simp] theorem setStoreWord_otp : (s.setStoreWord a n i w).otp = s.otp := rfl
@[simp] theorem setStoreWord_otpBusy : (s.setStoreWord a n i w).otpBusy = s.otpBusy := rfl
@[simp] theorem setStoreWord_certs : (s.setStoreWord a n i w).certs = s.certs := rfl
@[simp] theorem setStoreWord_pins : (s.setStoreWord a n i w).pins = s.pins := rfl
@[simp] theorem setStoreWord_pwr : (s.setStoreWord a n i w).pwr = s.pwr := rfl
@[simp] theorem setStoreWord_bist : (s.setStoreWord a n i w).bist = s.bist := rfl
@[simp] theorem setStoreWord_tap : (s.setStoreWord a n i w).tap = s.tap := rfl
@[simp] theorem setStoreWord_tapHeld : (s.setStoreWord a n i w).tapHeld = s.tapHeld := rfl

@[simp] theorem setScratchWord_pending : (s.setScratchWord a n i w).pending = s.pending := rfl
@[simp] theorem setScratchWord_part : (s.setScratchWord a n i w).part = s.part := rfl
@[simp] theorem setScratchWord_csr : (s.setScratchWord a n i w).csr = s.csr := rfl
@[simp] theorem setScratchWord_shadowCsr : (s.setScratchWord a n i w).shadowCsr = s.shadowCsr := rfl
@[simp] theorem setScratchWord_flipList : (s.setScratchWord a n i w).flipList = s.flipList := rfl
@[simp] theorem setScratchWord_draws : (s.setScratchWord a n i w).draws = s.draws := rfl
@[simp] theorem setScratchWord_serial : (s.setScratchWord a n i w).serial = s.serial := rfl
@[simp] theorem setScratchWord_outbox : (s.setScratchWord a n i w).outbox = s.outbox := rfl
@[simp] theorem setScratchWord_ticks : (s.setScratchWord a n i w).ticks = s.ticks := rfl
@[simp] theorem setScratchWord_ports : (s.setScratchWord a n i w).ports = s.ports := rfl
@[simp] theorem setScratchWord_cfgWords : (s.setScratchWord a n i w).cfgWords = s.cfgWords := rfl
@[simp] theorem setScratchWord_ingress : (s.setScratchWord a n i w).ingress = s.ingress := rfl
@[simp] theorem setScratchWord_headFree : (s.setScratchWord a n i w).headFree = s.headFree := rfl
@[simp] theorem setScratchWord_meterOld : (s.setScratchWord a n i w).meterOld = s.meterOld := rfl
@[simp] theorem setScratchWord_replays : (s.setScratchWord a n i w).replays = s.replays := rfl
@[simp] theorem setScratchWord_xsrc : (s.setScratchWord a n i w).xsrc = s.xsrc := rfl
@[simp] theorem setScratchWord_xin : (s.setScratchWord a n i w).xin = s.xin := rfl
@[simp] theorem setScratchWord_xout : (s.setScratchWord a n i w).xout = s.xout := rfl
@[simp] theorem setScratchWord_xrr : (s.setScratchWord a n i w).xrr = s.xrr := rfl
@[simp] theorem setScratchWord_xbusy : (s.setScratchWord a n i w).xbusy = s.xbusy := rfl
@[simp] theorem setScratchWord_tags : (s.setScratchWord a n i w).tags = s.tags := rfl
@[simp] theorem setScratchWord_perst : (s.setScratchWord a n i w).perst = s.perst := rfl
@[simp] theorem setScratchWord_dirEnt : (s.setScratchWord a n i w).dirEnt = s.dirEnt := rfl
@[simp] theorem setScratchWord_dirBad : (s.setScratchWord a n i w).dirBad = s.dirBad := rfl
@[simp] theorem setScratchWord_dirRr : (s.setScratchWord a n i w).dirRr = s.dirRr := rfl
@[simp] theorem setScratchWord_dirQ : (s.setScratchWord a n i w).dirQ = s.dirQ := rfl
@[simp] theorem setScratchWord_dirTxn : (s.setScratchWord a n i w).dirTxn = s.dirTxn := rfl
@[simp] theorem setScratchWord_dirAcc : (s.setScratchWord a n i w).dirAcc = s.dirAcc := rfl
@[simp] theorem setScratchWord_dirOrph : (s.setScratchWord a n i w).dirOrph = s.dirOrph := rfl
@[simp] theorem setScratchWord_dirWalk : (s.setScratchWord a n i w).dirWalk = s.dirWalk := rfl
@[simp] theorem setScratchWord_engReg : (s.setScratchWord a n i w).engReg = s.engReg := rfl
@[simp] theorem setScratchWord_engs : (s.setScratchWord a n i w).engs = s.engs := rfl
@[simp] theorem setScratchWord_store : (s.setScratchWord a n i w).store = s.store := rfl
@[simp] theorem setScratchWord_storeBad : (s.setScratchWord a n i w).storeBad = s.storeBad := rfl
@[simp] theorem setScratchWord_locks : (s.setScratchWord a n i w).locks = s.locks := rfl
@[simp] theorem setScratchWord_claims : (s.setScratchWord a n i w).claims = s.claims := rfl
@[simp] theorem setScratchWord_tasks : (s.setScratchWord a n i w).tasks = s.tasks := rfl
@[simp] theorem setScratchWord_ageCtr : (s.setScratchWord a n i w).ageCtr = s.ageCtr := rfl
@[simp] theorem setScratchWord_sched : (s.setScratchWord a n i w).sched = s.sched := rfl
@[simp] theorem setScratchWord_ms : (s.setScratchWord a n i w).ms = s.ms := rfl
@[simp] theorem setScratchWord_refMs : (s.setScratchWord a n i w).refMs = s.refMs := rfl
@[simp] theorem setScratchWord_pllLost : (s.setScratchWord a n i w).pllLost = s.pllLost := rfl
@[simp] theorem setScratchWord_unlockAt : (s.setScratchWord a n i w).unlockAt = s.unlockAt := rfl
@[simp] theorem setScratchWord_cells : (s.setScratchWord a n i w).cells = s.cells := rfl
@[simp] theorem setScratchWord_wayW : (s.setScratchWord a n i w).wayW = s.wayW := rfl
@[simp] theorem setScratchWord_wayB : (s.setScratchWord a n i w).wayB = s.wayB := rfl
@[simp] theorem setScratchWord_chanW : (s.setScratchWord a n i w).chanW = s.chanW := rfl
@[simp] theorem setScratchWord_chanB : (s.setScratchWord a n i w).chanB = s.chanB := rfl
@[simp] theorem setScratchWord_chanQ : (s.setScratchWord a n i w).chanQ = s.chanQ := rfl
@[simp] theorem setScratchWord_border : (s.setScratchWord a n i w).border = s.border := rfl
@[simp] theorem setScratchWord_fabIn : (s.setScratchWord a n i w).fabIn = s.fabIn := rfl
@[simp] theorem setScratchWord_entryOld : (s.setScratchWord a n i w).entryOld = s.entryOld := rfl
@[simp] theorem setScratchWord_fabRef : (s.setScratchWord a n i w).fabRef = s.fabRef := rfl
@[simp] theorem setScratchWord_fabAcc : (s.setScratchWord a n i w).fabAcc = s.fabAcc := rfl
@[simp] theorem setScratchWord_rewrite : (s.setScratchWord a n i w).rewrite = s.rewrite := rfl
@[simp] theorem setScratchWord_usp : (s.setScratchWord a n i w).usp = s.usp := rfl
@[simp] theorem setScratchWord_uio : (s.setScratchWord a n i w).uio = s.uio := rfl
@[simp] theorem setScratchWord_bankMem : (s.setScratchWord a n i w).bankMem = s.bankMem := rfl
@[simp] theorem setScratchWord_bankMark : (s.setScratchWord a n i w).bankMark = s.bankMark := rfl
@[simp] theorem setScratchWord_bankQ : (s.setScratchWord a n i w).bankQ = s.bankQ := rfl
@[simp] theorem setScratchWord_bankRr : (s.setScratchWord a n i w).bankRr = s.bankRr := rfl
@[simp] theorem setScratchWord_bankLast : (s.setScratchWord a n i w).bankLast = s.bankLast := rfl
@[simp] theorem setScratchWord_bankRmw : (s.setScratchWord a n i w).bankRmw = s.bankRmw := rfl
@[simp] theorem setScratchWord_clearing : (s.setScratchWord a n i w).clearing = s.clearing := rfl
@[simp] theorem setScratchWord_bt : (s.setScratchWord a n i w).bt = s.bt := rfl
@[simp] theorem setScratchWord_ditches : (s.setScratchWord a n i w).ditches = s.ditches := rfl
@[simp] theorem setScratchWord_ditchRr : (s.setScratchWord a n i w).ditchRr = s.ditchRr := rfl
@[simp] theorem setScratchWord_frames : (s.setScratchWord a n i w).frames = s.frames := rfl
@[simp] theorem setScratchWord_frameBad : (s.setScratchWord a n i w).frameBad = s.frameBad := rfl
@[simp] theorem setScratchWord_planes : (s.setScratchWord a n i w).planes = s.planes := rfl
@[simp] theorem setScratchWord_image : (s.setScratchWord a n i w).image = s.image := rfl
@[simp] theorem setScratchWord_scrubSkips : (s.setScratchWord a n i w).scrubSkips = s.scrubSkips := rfl
@[simp] theorem setScratchWord_load : (s.setScratchWord a n i w).load = s.load := rfl
@[simp] theorem setScratchWord_hostImage : (s.setScratchWord a n i w).hostImage = s.hostImage := rfl
@[simp] theorem setScratchWord_jobs : (s.setScratchWord a n i w).jobs = s.jobs := rfl
@[simp] theorem setScratchWord_swap : (s.setScratchWord a n i w).swap = s.swap := rfl
@[simp] theorem setScratchWord_releases : (s.setScratchWord a n i w).releases = s.releases := rfl
@[simp] theorem setScratchWord_held : (s.setScratchWord a n i w).held = s.held := rfl
@[simp] theorem setScratchWord_gatesPass : (s.setScratchWord a n i w).gatesPass = s.gatesPass := rfl
@[simp] theorem setScratchWord_writesOn : (s.setScratchWord a n i w).writesOn = s.writesOn := rfl
@[simp] theorem setScratchWord_hosts : (s.setScratchWord a n i w).hosts = s.hosts := rfl
@[simp] theorem setScratchWord_cmds : (s.setScratchWord a n i w).cmds = s.cmds := rfl
@[simp] theorem setScratchWord_refused : (s.setScratchWord a n i w).refused = s.refused := rfl
@[simp] theorem setScratchWord_mboxes : (s.setScratchWord a n i w).mboxes = s.mboxes := rfl
@[simp] theorem setScratchWord_bar : (s.setScratchWord a n i w).bar = s.bar := rfl
@[simp] theorem setScratchWord_sess : (s.setScratchWord a n i w).sess = s.sess := rfl
@[simp] theorem setScratchWord_trans : (s.setScratchWord a n i w).trans = s.trans := rfl
@[simp] theorem setScratchWord_queues : (s.setScratchWord a n i w).queues = s.queues := rfl
@[simp] theorem setScratchWord_windows : (s.setScratchWord a n i w).windows = s.windows := rfl
@[simp] theorem setScratchWord_nditch : (s.setScratchWord a n i w).nditch = s.nditch := rfl
@[simp] theorem setScratchWord_tow : (s.setScratchWord a n i w).tow = s.tow := rfl
@[simp] theorem setScratchWord_flash : (s.setScratchWord a n i w).flash = s.flash := rfl
@[simp] theorem setScratchWord_flashBad : (s.setScratchWord a n i w).flashBad = s.flashBad := rfl
@[simp] theorem setScratchWord_flagCells : (s.setScratchWord a n i w).flagCells = s.flagCells := rfl
@[simp] theorem setScratchWord_fl : (s.setScratchWord a n i w).fl = s.fl := rfl
@[simp] theorem setScratchWord_options : (s.setScratchWord a n i w).options = s.options := rfl
@[simp] theorem setScratchWord_job : (s.setScratchWord a n i w).job = s.job := rfl
@[simp] theorem setScratchWord_fwValid : (s.setScratchWord a n i w).fwValid = s.fwValid := rfl
@[simp] theorem setScratchWord_fwSig : (s.setScratchWord a n i w).fwSig = s.fwSig := rfl
@[simp] theorem setScratchWord_fallback : (s.setScratchWord a n i w).fallback = s.fallback := rfl
@[simp] theorem setScratchWord_otp : (s.setScratchWord a n i w).otp = s.otp := rfl
@[simp] theorem setScratchWord_otpBusy : (s.setScratchWord a n i w).otpBusy = s.otpBusy := rfl
@[simp] theorem setScratchWord_certs : (s.setScratchWord a n i w).certs = s.certs := rfl
@[simp] theorem setScratchWord_pins : (s.setScratchWord a n i w).pins = s.pins := rfl
@[simp] theorem setScratchWord_pwr : (s.setScratchWord a n i w).pwr = s.pwr := rfl
@[simp] theorem setScratchWord_bist : (s.setScratchWord a n i w).bist = s.bist := rfl
@[simp] theorem setScratchWord_tap : (s.setScratchWord a n i w).tap = s.tap := rfl
@[simp] theorem setScratchWord_tapHeld : (s.setScratchWord a n i w).tapHeld = s.tapHeld := rfl

@[simp] theorem engGo_pending : (s.engGo a n i j).pending = s.pending := rfl
@[simp] theorem engGo_part : (s.engGo a n i j).part = s.part := rfl
@[simp] theorem engGo_csr : (s.engGo a n i j).csr = s.csr := rfl
@[simp] theorem engGo_shadowCsr : (s.engGo a n i j).shadowCsr = s.shadowCsr := rfl
@[simp] theorem engGo_flipList : (s.engGo a n i j).flipList = s.flipList := rfl
@[simp] theorem engGo_draws : (s.engGo a n i j).draws = s.draws := rfl
@[simp] theorem engGo_serial : (s.engGo a n i j).serial = s.serial := rfl
@[simp] theorem engGo_outbox : (s.engGo a n i j).outbox = s.outbox := rfl
@[simp] theorem engGo_ticks : (s.engGo a n i j).ticks = s.ticks := rfl
@[simp] theorem engGo_ports : (s.engGo a n i j).ports = s.ports := rfl
@[simp] theorem engGo_cfgWords : (s.engGo a n i j).cfgWords = s.cfgWords := rfl
@[simp] theorem engGo_ingress : (s.engGo a n i j).ingress = s.ingress := rfl
@[simp] theorem engGo_headFree : (s.engGo a n i j).headFree = s.headFree := rfl
@[simp] theorem engGo_meterOld : (s.engGo a n i j).meterOld = s.meterOld := rfl
@[simp] theorem engGo_replays : (s.engGo a n i j).replays = s.replays := rfl
@[simp] theorem engGo_xsrc : (s.engGo a n i j).xsrc = s.xsrc := rfl
@[simp] theorem engGo_xin : (s.engGo a n i j).xin = s.xin := rfl
@[simp] theorem engGo_xout : (s.engGo a n i j).xout = s.xout := rfl
@[simp] theorem engGo_xrr : (s.engGo a n i j).xrr = s.xrr := rfl
@[simp] theorem engGo_xbusy : (s.engGo a n i j).xbusy = s.xbusy := rfl
@[simp] theorem engGo_tags : (s.engGo a n i j).tags = s.tags := rfl
@[simp] theorem engGo_perst : (s.engGo a n i j).perst = s.perst := rfl
@[simp] theorem engGo_dirEnt : (s.engGo a n i j).dirEnt = s.dirEnt := rfl
@[simp] theorem engGo_dirBad : (s.engGo a n i j).dirBad = s.dirBad := rfl
@[simp] theorem engGo_dirRr : (s.engGo a n i j).dirRr = s.dirRr := rfl
@[simp] theorem engGo_dirQ : (s.engGo a n i j).dirQ = s.dirQ := rfl
@[simp] theorem engGo_dirTxn : (s.engGo a n i j).dirTxn = s.dirTxn := rfl
@[simp] theorem engGo_dirAcc : (s.engGo a n i j).dirAcc = s.dirAcc := rfl
@[simp] theorem engGo_dirOrph : (s.engGo a n i j).dirOrph = s.dirOrph := rfl
@[simp] theorem engGo_dirWalk : (s.engGo a n i j).dirWalk = s.dirWalk := rfl
@[simp] theorem engGo_engReg : (s.engGo a n i j).engReg = s.engReg := rfl
@[simp] theorem engGo_store : (s.engGo a n i j).store = s.store := rfl
@[simp] theorem engGo_storeBad : (s.engGo a n i j).storeBad = s.storeBad := rfl
@[simp] theorem engGo_scratch : (s.engGo a n i j).scratch = s.scratch := rfl
@[simp] theorem engGo_scratchBad : (s.engGo a n i j).scratchBad = s.scratchBad := rfl
@[simp] theorem engGo_locks : (s.engGo a n i j).locks = s.locks := rfl
@[simp] theorem engGo_claims : (s.engGo a n i j).claims = s.claims := rfl
@[simp] theorem engGo_tasks : (s.engGo a n i j).tasks = s.tasks := rfl
@[simp] theorem engGo_ageCtr : (s.engGo a n i j).ageCtr = s.ageCtr := rfl
@[simp] theorem engGo_sched : (s.engGo a n i j).sched = s.sched := rfl
@[simp] theorem engGo_ms : (s.engGo a n i j).ms = s.ms := rfl
@[simp] theorem engGo_refMs : (s.engGo a n i j).refMs = s.refMs := rfl
@[simp] theorem engGo_pllLost : (s.engGo a n i j).pllLost = s.pllLost := rfl
@[simp] theorem engGo_unlockAt : (s.engGo a n i j).unlockAt = s.unlockAt := rfl
@[simp] theorem engGo_cells : (s.engGo a n i j).cells = s.cells := rfl
@[simp] theorem engGo_wayW : (s.engGo a n i j).wayW = s.wayW := rfl
@[simp] theorem engGo_wayB : (s.engGo a n i j).wayB = s.wayB := rfl
@[simp] theorem engGo_chanW : (s.engGo a n i j).chanW = s.chanW := rfl
@[simp] theorem engGo_chanB : (s.engGo a n i j).chanB = s.chanB := rfl
@[simp] theorem engGo_chanQ : (s.engGo a n i j).chanQ = s.chanQ := rfl
@[simp] theorem engGo_border : (s.engGo a n i j).border = s.border := rfl
@[simp] theorem engGo_fabIn : (s.engGo a n i j).fabIn = s.fabIn := rfl
@[simp] theorem engGo_entryOld : (s.engGo a n i j).entryOld = s.entryOld := rfl
@[simp] theorem engGo_fabRef : (s.engGo a n i j).fabRef = s.fabRef := rfl
@[simp] theorem engGo_fabAcc : (s.engGo a n i j).fabAcc = s.fabAcc := rfl
@[simp] theorem engGo_rewrite : (s.engGo a n i j).rewrite = s.rewrite := rfl
@[simp] theorem engGo_usp : (s.engGo a n i j).usp = s.usp := rfl
@[simp] theorem engGo_uio : (s.engGo a n i j).uio = s.uio := rfl
@[simp] theorem engGo_bankMem : (s.engGo a n i j).bankMem = s.bankMem := rfl
@[simp] theorem engGo_bankMark : (s.engGo a n i j).bankMark = s.bankMark := rfl
@[simp] theorem engGo_bankQ : (s.engGo a n i j).bankQ = s.bankQ := rfl
@[simp] theorem engGo_bankRr : (s.engGo a n i j).bankRr = s.bankRr := rfl
@[simp] theorem engGo_bankLast : (s.engGo a n i j).bankLast = s.bankLast := rfl
@[simp] theorem engGo_bankRmw : (s.engGo a n i j).bankRmw = s.bankRmw := rfl
@[simp] theorem engGo_clearing : (s.engGo a n i j).clearing = s.clearing := rfl
@[simp] theorem engGo_bt : (s.engGo a n i j).bt = s.bt := rfl
@[simp] theorem engGo_ditches : (s.engGo a n i j).ditches = s.ditches := rfl
@[simp] theorem engGo_ditchRr : (s.engGo a n i j).ditchRr = s.ditchRr := rfl
@[simp] theorem engGo_frames : (s.engGo a n i j).frames = s.frames := rfl
@[simp] theorem engGo_frameBad : (s.engGo a n i j).frameBad = s.frameBad := rfl
@[simp] theorem engGo_planes : (s.engGo a n i j).planes = s.planes := rfl
@[simp] theorem engGo_image : (s.engGo a n i j).image = s.image := rfl
@[simp] theorem engGo_scrubSkips : (s.engGo a n i j).scrubSkips = s.scrubSkips := rfl
@[simp] theorem engGo_load : (s.engGo a n i j).load = s.load := rfl
@[simp] theorem engGo_hostImage : (s.engGo a n i j).hostImage = s.hostImage := rfl
@[simp] theorem engGo_jobs : (s.engGo a n i j).jobs = s.jobs := rfl
@[simp] theorem engGo_swap : (s.engGo a n i j).swap = s.swap := rfl
@[simp] theorem engGo_releases : (s.engGo a n i j).releases = s.releases := rfl
@[simp] theorem engGo_held : (s.engGo a n i j).held = s.held := rfl
@[simp] theorem engGo_gatesPass : (s.engGo a n i j).gatesPass = s.gatesPass := rfl
@[simp] theorem engGo_writesOn : (s.engGo a n i j).writesOn = s.writesOn := rfl
@[simp] theorem engGo_hosts : (s.engGo a n i j).hosts = s.hosts := rfl
@[simp] theorem engGo_cmds : (s.engGo a n i j).cmds = s.cmds := rfl
@[simp] theorem engGo_refused : (s.engGo a n i j).refused = s.refused := rfl
@[simp] theorem engGo_mboxes : (s.engGo a n i j).mboxes = s.mboxes := rfl
@[simp] theorem engGo_bar : (s.engGo a n i j).bar = s.bar := rfl
@[simp] theorem engGo_sess : (s.engGo a n i j).sess = s.sess := rfl
@[simp] theorem engGo_trans : (s.engGo a n i j).trans = s.trans := rfl
@[simp] theorem engGo_queues : (s.engGo a n i j).queues = s.queues := rfl
@[simp] theorem engGo_windows : (s.engGo a n i j).windows = s.windows := rfl
@[simp] theorem engGo_nditch : (s.engGo a n i j).nditch = s.nditch := rfl
@[simp] theorem engGo_tow : (s.engGo a n i j).tow = s.tow := rfl
@[simp] theorem engGo_flash : (s.engGo a n i j).flash = s.flash := rfl
@[simp] theorem engGo_flashBad : (s.engGo a n i j).flashBad = s.flashBad := rfl
@[simp] theorem engGo_flagCells : (s.engGo a n i j).flagCells = s.flagCells := rfl
@[simp] theorem engGo_fl : (s.engGo a n i j).fl = s.fl := rfl
@[simp] theorem engGo_options : (s.engGo a n i j).options = s.options := rfl
@[simp] theorem engGo_job : (s.engGo a n i j).job = s.job := rfl
@[simp] theorem engGo_fwValid : (s.engGo a n i j).fwValid = s.fwValid := rfl
@[simp] theorem engGo_fwSig : (s.engGo a n i j).fwSig = s.fwSig := rfl
@[simp] theorem engGo_fallback : (s.engGo a n i j).fallback = s.fallback := rfl
@[simp] theorem engGo_otp : (s.engGo a n i j).otp = s.otp := rfl
@[simp] theorem engGo_otpBusy : (s.engGo a n i j).otpBusy = s.otpBusy := rfl
@[simp] theorem engGo_certs : (s.engGo a n i j).certs = s.certs := rfl
@[simp] theorem engGo_pins : (s.engGo a n i j).pins = s.pins := rfl
@[simp] theorem engGo_pwr : (s.engGo a n i j).pwr = s.pwr := rfl
@[simp] theorem engGo_bist : (s.engGo a n i j).bist = s.bist := rfl
@[simp] theorem engGo_tap : (s.engGo a n i j).tap = s.tap := rfl
@[simp] theorem engGo_tapHeld : (s.engGo a n i j).tapHeld = s.tapHeld := rfl

end

end Sys2Proof.Machine.State
end

