-- ==== Sys2Proof/Laws/Engine.lean ====
section
/-! SUPPORT. Laws of the engines: a record or register that was written reads as written, every other as before, and one
instruction whose word is fetched, legal and in budget has the effect of its body. -/

namespace Sys2Proof.Machine

@[simp] theorem State.eng_setEng_same (s : State) (d e : Nat) (x : Engine) : (s.setEng d e x).eng d e = x := by
  simp [State.eng, State.setEng]

theorem engKey_inj {d d' e e' : Nat} (he : e < 64) (he' : e' < 64) (h : engKey d e = engKey d' e') : d = d' ∧ e = e' := by
  unfold engKey at h; omega

theorem State.eng_setEng_ne (s : State) (x : Engine) {d d' : Die} {e e' : Eng} (h : (d', e') ≠ (d, e)) :
    (s.setEng d e x).eng d' e' = s.eng d' e' := by
  have k : engKey d'.val e'.val ≠ engKey d.val e.val := by
    intro hk; apply h
    obtain ⟨h1, h2⟩ := engKey_inj e'.isLt e.isLt hk
    exact Prod.ext (Fin.ext h1) (Fin.ext h2)
  simp [State.eng, State.setEng, SMap.get_set_ne _ _ _ _ k]

@[simp] theorem State.eng_csrSet (s : State) (a : Nat) (w : Word) (d e : Nat) : (s.csrSet a w).eng d e = s.eng d e := rfl

@[simp] theorem State.eng_setReg (s : State) (d e c : Nat) (v : Word) (d' e' : Nat) :
    (s.setReg d e c v).eng d' e' = s.eng d' e' := by simp [State.eng]

@[simp] theorem State.eng_setRegIn (s : State) (d e win c : Nat) (v : Word) (d' e' : Nat) :
    (s.setRegIn d e win c v).eng d' e' = s.eng d' e' := by simp [State.eng]

@[simp] theorem State.eng_fetchEcc (s : State) (d e d' e' : Nat) : (s.fetchEcc d e).eng d' e' = s.eng d' e' := by
  simp [State.eng]

@[simp] theorem State.regIn_fetchEcc (s : State) (d e d' e' w c : Nat) :
    (s.fetchEcc d e).regIn d' e' w c = s.regIn d' e' w c := by simp [State.regIn]

@[simp] theorem State.reg_fetchEcc (s : State) (d e d' e' c : Nat) : (s.fetchEcc d e).reg d' e' c = s.reg d' e' c := by
  simp [State.reg]

@[simp] theorem State.pair_fetchEcc (s : State) (d e d' e' c : Nat) : (s.fetchEcc d e).pair d' e' c = s.pair d' e' c := by
  simp [State.pair]

/-- The word at the fetch of an engine that reads it without an error is left alone. -/
theorem State.fetchEcc_clean (s : State) (d e : Nat) (h : SMap.get 0 s.storeBad (storeKey d e (s.eng d e).pc) = 0) :
    s.fetchEcc d e = s := by
  unfold State.fetchEcc; simp [h]

/-- A register of a window reads what was written to it, and g0 reads 0. -/
theorem State.regIn_setRegIn_same (s : State) (d e w c : Nat) (v : Word) :
    (s.setRegIn d e w c v).regIn d e w c = if c = 16 then 0 else v := by
  unfold State.setRegIn State.regIn
  by_cases h : c = 16 <;> simp [h]

/-- A register write changes no other register. -/
theorem State.setRegIn_others (s : State) (d e w c k : Nat) (v : Word) (h : c = 16 ∨ k ≠ regKey d e w c) :
    SMap.get 0 (s.setRegIn d e w c v).engReg k = SMap.get 0 s.engReg k := by
  unfold State.setRegIn
  by_cases hc : c = 16
  · simp [hc]
  · rcases h with h | h
    · exact absurd h hc
    · simp [hc, SMap.get_set_ne _ _ _ _ h]

theorem regKey_ne {d e w c c' : Nat} (h : c < 24) (h' : c' < 24) (hw : w < 8) (hne : c ≠ c') :
    regKey d e w c ≠ regKey d e w c' := by
  unfold regKey; split <;> split <;> omega

/-- One instruction that its engine is about to execute, of the kind the command names, legal and in budget: its body. -/
theorem State.engRun_body {s : State} {d e n : Nat} {w : Word} {sel : Word → Bool} {legal : State → Word → Bool}
    {cost : State → Word → Nat} {body : State → Word → State} (hx : s.Executing d e w n) (hn : 0 < n)
    (hs : sel w = true) (hl : legal (s.fetchEcc d e) w = true) (hc : cost (s.fetchEcc d e) w = n) :
    s.engRun d e sel legal cost body = body (s.fetchEcc d e) w := by
  obtain ⟨h1, h2, h3⟩ := hx
  unfold State.engRun
  simp only [h1, h2, hs, hl, hc, Bool.not_true, State.eng_fetchEcc, Bool.false_eq_true, if_false]
  rw [if_neg (by omega), if_neg (by omega)]

/-- An instruction goes on at a place: its record. -/
theorem State.engGo_eng (s : State) (d e n pc : Nat) : (s.engGo d e n pc).eng d e = (s.eng d e).went n pc := by
  simp [State.engGo, Engine.went]

/-- What the end of an instruction leaves alone. -/
theorem State.engGo_ran (s u : State) (d : Die) (e : Eng) (n pc : Nat) (h1 : ∀ d' e', u.eng d' e' = s.eng d' e')
    (h2 : u = { s.fetchEcc d e with engReg := u.engReg }) : EngRan s (u.engGo d e n pc) d e ((s.eng d e).went n pc) := by
  refine ⟨?_, ?_, ?_⟩
  · rw [State.engGo_eng, h1]
  · intro d' e' h
    unfold State.engGo; rw [State.eng_setEng_ne _ _ h, h1]
  · unfold State.engGo State.setEng; dsimp only; rw [h2]

/-- An instruction that writes one register and goes on. -/
theorem State.setReg_go (s : State) (d : Die) (e : Eng) (n pc c : Nat) (v : Word) :
    WroteReg s (((s.fetchEcc d e).setReg d e c v).engGo d e n pc) d e c v ∧
      EngRan s (((s.fetchEcc d e).setReg d e c v).engGo d e n pc) d e ((s.eng d e).went n pc) := by
  refine ⟨⟨?_, ?_⟩, State.engGo_ran _ _ _ _ _ _ (by simp) (by rw [State.setReg_rest])⟩
  · have := State.regIn_setRegIn_same (s.fetchEcc d e) d e (s.eng d e).cwp c v
    simpa [State.regIn, State.setReg] using this
  · intro k hk
    have := State.setRegIn_others (s.fetchEcc d e) d e (s.eng d e).cwp c k v hk
    simpa [State.setReg] using this

end Sys2Proof.Machine
end

