-- ==== Sys2Proof/Laws/Keeps.lean ====
section
/-! SUPPORT. What every operation of the block keeps: the part, the queue of waiting commands, and the canonical form of
what is stored. `Keeps s₀ s` says that a state `s` reached from `s₀` kept them; one lemma per operation, in the other
files of this folder, says that the operation keeps them. -/

namespace Sys2Proof.Machine

/-- `t` has the part and the waiting commands of `s`, and its stored bytes and registers are in canonical form if those of
`s` are. -/
structure Keeps (s t : State) : Prop where
  part : t.part = s.part
  pending : t.pending = s.pending
  canonical : s.Canonical → t.Canonical

/-- What the canonical form is about. -/
def State.stored (s : State) : SMap Word × Memory × Memory × Memory × Memory × Memory :=
  (s.csr, s.bankMem, s.scratch, s.frames, s.bar, s.flash)

theorem State.Canonical.of_stored {s t : State} (h : t.stored = s.stored) (hs : s.Canonical) : t.Canonical := by
  simp only [State.stored, Prod.mk.injEq] at h
  obtain ⟨h1, h2, h3, h4, h5, h6⟩ := h
  exact ⟨h1 ▸ hs.1, h2 ▸ hs.2, h3 ▸ hs.3, h4 ▸ hs.4, h5 ▸ hs.5, h6 ▸ hs.6⟩

theorem Keeps.refl (s : State) : Keeps s s := ⟨rfl, rfl, id⟩

theorem Keeps.trans {r s t : State} (h : Keeps r s) (h' : Keeps s t) : Keeps r t :=
  ⟨h'.part.trans h.part, h'.pending.trans h.pending, h'.canonical ∘ h.canonical⟩

/-- An update of fields beside these. -/
theorem Keeps.upd {r s : State}
    {x0 : SMap Word} {x1 : List (Word × Word)} {x2 : Nat} {x3 : Nat} {x4 : List Emission} {x5 : Nat} {x6 : SMap
    PortSt} {x7 : SMap Word} {x8 : SMap (List LinkMsg)} {x9 : SMap Nat} {x10 : SMap Word} {x11 : SMap (List Nat)} {x12
    : SMap (List XMsg)} {x13 : SMap (List XMsg)} {x14 : SMap (List XMsg)} {x15 : SMap Nat} {x16 : SMap (List (Nat ×
    Nat))} {x17 : List TagRec} {x18 : Nat} {x19 : SMap (BitVec 64)} {x20 : SMap Nat} {x21 : SMap Nat} {x22 : SMap
    (List DirReq)} {x23 : SMap Txn} {x24 : List AccRec} {x25 : List Orphan} {x26 : SMap Walk} {x27 : SMap Word} {x28 :
    SMap Engine} {x29 : SMap Word} {x30 : SMap Nat} {x31 : SMap Nat} {x32 : SMap (List Lock)} {x33 : List Claim} {x34
    : SMap TaskX} {x35 : SMap Nat} {x36 : SMap SchedSt} {x37 : SMap Nat} {x38 : Nat} {x39 : SMap Nat} {x40 : SMap Nat}
    {x41 : SMap Cell} {x42 : SMap (BitVec 16)} {x43 : SMap Bool} {x44 : SMap (BitVec 16)} {x45 : SMap Bool} {x46 :
    SMap (List (BitVec 16))} {x47 : SMap BorderLatch} {x48 : SMap (List FabBeat)} {x49 : SMap Nat} {x50 : SMap Nat}
    {x51 : SMap Nat} {x52 : SMap Rewrite} {x53 : SMap UspSt} {x54 : SMap UioSt} {x55 : SMap WordMark} {x56 : SMap
    (List BankReq)} {x57 : SMap Nat} {x58 : SMap Nat} {x59 : SMap (List (Nat × Nat))} {x60 : SMap Bool} {x61 : SMap
    BtSt} {x62 : SMap DitchSt} {x63 : SMap Nat} {x64 : SMap (List Nat)} {x65 : SMap Bool} {x66 : List (BitVec 8)} {x67
    : SMap Nat} {x68 : Option Load} {x69 : Option Load} {x70 : List ReachJob} {x71 : Option SwapSt} {x72 : List
    Release} {x73 : SMap Nat} {x74 : SMap Bool} {x75 : SMap Nat} {x76 : List HostRec} {x77 : List Cmd} {x78 : List
    Cmd} {x79 : SMap CmdHdr} {x80 : Option LoadSess} {x81 : Transport} {x82 : SMap (List Notice)} {x83 : List Window}
    {x84 : NoticeDitch} {x85 : TowSt} {x86 : SMap Nat} {x87 : List Nat} {x88 : FlashSt} {x89 : List (BitVec 8)} {x90 :
    Option Job} {x91 : Nat} {x92 : Nat} {x93 : Bool} {x94 : SMap (BitVec 64)} {x95 : Option (Nat × BitVec 64)} {x96 :
    List CertSt} {x97 : PinSt} {x98 : PwrSt} {x99 : Option BistSt} {x100 : Tap} {x101 : Bool}
    (h : Keeps r s) :
    Keeps r ⟨s.pending, s.part, s.csr, x0, x1, x2, x3, x4, x5, x6, x7, x8, x9, x10, x11, x12, x13, x14, x15, x16,
      x17, x18, x19, x20, x21, x22, x23, x24, x25, x26, x27, x28, x29, x30, s.scratch, x31, x32, x33, x34, x35, x36,
      x37, x38, x39, x40, x41, x42, x43, x44, x45, x46, x47, x48, x49, x50, x51, x52, x53, x54, s.bankMem, x55, x56,
      x57, x58, x59, x60, x61, x62, x63, s.frames, x64, x65, x66, x67, x68, x69, x70, x71, x72, x73, x74, x75, x76,
      x77, x78, x79, s.bar, x80, x81, x82, x83, x84, x85, s.flash, x86, x87, x88, x89, x90, x91, x92, x93, x94, x95,
      x96, x97, x98, x99, x100, x101⟩ :=
  h.trans ⟨rfl, rfl, State.Canonical.of_stored rfl⟩

/-- An update that also writes stored bytes or registers. -/
theorem Keeps.put {r s : State}
    {x0 : SMap Word} {x1 : SMap Word} {x2 : List (Word × Word)} {x3 : Nat} {x4 : Nat} {x5 : List Emission} {x6 : Nat}
    {x7 : SMap PortSt} {x8 : SMap Word} {x9 : SMap (List LinkMsg)} {x10 : SMap Nat} {x11 : SMap Word} {x12 : SMap
    (List Nat)} {x13 : SMap (List XMsg)} {x14 : SMap (List XMsg)} {x15 : SMap (List XMsg)} {x16 : SMap Nat} {x17 :
    SMap (List (Nat × Nat))} {x18 : List TagRec} {x19 : Nat} {x20 : SMap (BitVec 64)} {x21 : SMap Nat} {x22 : SMap
    Nat} {x23 : SMap (List DirReq)} {x24 : SMap Txn} {x25 : List AccRec} {x26 : List Orphan} {x27 : SMap Walk} {x28 :
    SMap Word} {x29 : SMap Engine} {x30 : SMap Word} {x31 : SMap Nat} {x32 : Memory} {x33 : SMap Nat} {x34 : SMap
    (List Lock)} {x35 : List Claim} {x36 : SMap TaskX} {x37 : SMap Nat} {x38 : SMap SchedSt} {x39 : SMap Nat} {x40 :
    Nat} {x41 : SMap Nat} {x42 : SMap Nat} {x43 : SMap Cell} {x44 : SMap (BitVec 16)} {x45 : SMap Bool} {x46 : SMap
    (BitVec 16)} {x47 : SMap Bool} {x48 : SMap (List (BitVec 16))} {x49 : SMap BorderLatch} {x50 : SMap (List
    FabBeat)} {x51 : SMap Nat} {x52 : SMap Nat} {x53 : SMap Nat} {x54 : SMap Rewrite} {x55 : SMap UspSt} {x56 : SMap
    UioSt} {x57 : Memory} {x58 : SMap WordMark} {x59 : SMap (List BankReq)} {x60 : SMap Nat} {x61 : SMap Nat} {x62 :
    SMap (List (Nat × Nat))} {x63 : SMap Bool} {x64 : SMap BtSt} {x65 : SMap DitchSt} {x66 : SMap Nat} {x67 : Memory}
    {x68 : SMap (List Nat)} {x69 : SMap Bool} {x70 : List (BitVec 8)} {x71 : SMap Nat} {x72 : Option Load} {x73 :
    Option Load} {x74 : List ReachJob} {x75 : Option SwapSt} {x76 : List Release} {x77 : SMap Nat} {x78 : SMap Bool}
    {x79 : SMap Nat} {x80 : List HostRec} {x81 : List Cmd} {x82 : List Cmd} {x83 : SMap CmdHdr} {x84 : Memory} {x85 :
    Option LoadSess} {x86 : Transport} {x87 : SMap (List Notice)} {x88 : List Window} {x89 : NoticeDitch} {x90 :
    TowSt} {x91 : Memory} {x92 : SMap Nat} {x93 : List Nat} {x94 : FlashSt} {x95 : List (BitVec 8)} {x96 : Option Job}
    {x97 : Nat} {x98 : Nat} {x99 : Bool} {x100 : SMap (BitVec 64)} {x101 : Option (Nat × BitVec 64)} {x102 : List
    CertSt} {x103 : PinSt} {x104 : PwrSt} {x105 : Option BistSt} {x106 : Tap} {x107 : Bool}
    (hcsr : s.Canonical → SMap.wf resetOf x0 = true) (hbankMem : s.Canonical → Memory.wf 0 x57 = true) (hscratch :
    s.Canonical → Memory.wf 0 x32 = true) (hframes : s.Canonical → Memory.wf 0 x67 = true) (hbar : s.Canonical →
    Memory.wf 0 x84 = true) (hflash : s.Canonical → Memory.wf 0xFF x91 = true)
    (h : Keeps r s) :
    Keeps r ⟨s.pending, s.part, x0, x1, x2, x3, x4, x5, x6, x7, x8, x9, x10, x11, x12, x13, x14, x15, x16, x17, x18,
      x19, x20, x21, x22, x23, x24, x25, x26, x27, x28, x29, x30, x31, x32, x33, x34, x35, x36, x37, x38, x39, x40,
      x41, x42, x43, x44, x45, x46, x47, x48, x49, x50, x51, x52, x53, x54, x55, x56, x57, x58, x59, x60, x61, x62,
      x63, x64, x65, x66, x67, x68, x69, x70, x71, x72, x73, x74, x75, x76, x77, x78, x79, x80, x81, x82, x83, x84,
      x85, x86, x87, x88, x89, x90, x91, x92, x93, x94, x95, x96, x97, x98, x99, x100, x101, x102, x103, x104, x105,
      x106, x107⟩ :=
  h.trans ⟨rfl, rfl, fun c => ⟨hcsr c, hbankMem c, hscratch c, hframes c, hbar c, hflash c⟩⟩

theorem Memory.wf_writes {d : Byte} {m : Memory} (k : Nat) (bs : List (Byte × Nat)) (h : Memory.wf d m = true) :
    Memory.wf d (bs.foldl (fun m x => Memory.write d m (k + x.2) x.1) m) = true := by
  induction bs generalizing m with
  | nil => exact h
  | cons x xs ih => exact ih (Memory.wf_write _ _ h)

theorem barReset_wf : Memory.wf 0 barReset = true := rfl

theorem Keeps.snd {α : Type} {r t : State} {p : α × State} {a : α} (e : p = (a, t)) (h : Keeps r p.2) : Keeps r t := by
  subst e; exact h

theorem Keeps.fst {α : Type} {r t : State} {p : State × α} {a : α} (e : p = (t, a)) (h : Keeps r p.1) : Keeps r t := by
  subst e; exact h

theorem Keeps.snd2 {α β : Type} {r t : State} {p : α × β × State} {a : α} {b : β} (e : p = (a, b, t))
    (h : Keeps r p.2.2) : Keeps r t := by
  subst e; exact h

theorem Keeps.snd3 {α β γ : Type} {r t : State} {p : α × β × γ × State} {a : α} {b : β} {c : γ} (e : p = (a, b, c, t))
    (h : Keeps r p.2.2.2) : Keeps r t := by
  subst e; exact h

theorem Keeps.foldl {α : Type} {r : State} {f : State → α → State} {l : List α} {s : State} (h : Keeps r s)
    (hf : ∀ t x, Keeps r t → Keeps r (f t x)) : Keeps r (l.foldl f s) := by
  induction l generalizing s with
  | nil => exact h
  | cons x xs ih => exact ih (hf s x h)

theorem Keeps.foldl_fst {α β : Type} {r : State} {f : State × β → α → State × β} {l : List α} {p : State × β}
    (h : Keeps r p.1) (hf : ∀ q x, Keeps r q.1 → Keeps r (f q x).1) : Keeps r (l.foldl f p).1 := by
  induction l generalizing p with
  | nil => exact h
  | cons x xs ih => exact ih (hf p x h)

theorem Keeps.foldl_snd {α β : Type} {r : State} {f : β × State → α → β × State} {l : List α} {p : β × State}
    (h : Keeps r p.2) (hf : ∀ q x, Keeps r q.2 → Keeps r (f q x).2) : Keeps r (l.foldl f p).2 := by
  induction l generalizing p with
  | nil => exact h
  | cons x xs ih => exact ih (hf p x h)

theorem Keeps.ite {r a b : State} {c : Prop} [Decidable c] (ha : Keeps r a) (hb : Keeps r b) :
    Keeps r (if c then a else b) := by
  split
  · exact ha
  · exact hb

theorem Keeps.ite_snd {α : Type} {r : State} {a b : α × State} {c : Prop} [Decidable c] (ha : Keeps r a.2)
    (hb : Keeps r b.2) : Keeps r (if c then a else b).2 := by
  split
  · exact ha
  · exact hb

theorem Keeps.ite_fst {α : Type} {r : State} {a b : State × α} {c : Prop} [Decidable c] (ha : Keeps r a.1)
    (hb : Keeps r b.1) : Keeps r (if c then a else b).1 := by
  split
  · exact ha
  · exact hb

end Sys2Proof.Machine
end

