-- ==== Sys2Proof/Laws/KeepsOps.lean ====
section
/-! SUPPORT. What the operations of Sys2Proof/Machine/Ops.lean keep. -/

set_option linter.all false

namespace Sys2Proof.Machine

theorem State.csrSet_keeps {s₀ s : State} (a : Nat) (w : Word) (h : Keeps s₀ s) : Keeps s₀ (s.csrSet a w) :=
  h.trans ⟨rfl, rfl, fun c => { c with csr := SMap.wf_set a w c.csr }⟩

theorem State.count_keeps {s₀ : State} {s : State}  (a : Nat) (f : Fld) (k : Nat)  (hk : Keeps s₀ s) :
    Keeps s₀ (State.count s a f k ) := by
  unfold State.count
  try dsimp only
  repeat' first | (with_reducible assumption) | with_reducible exact Keeps.refl _ | (with_reducible apply State.csrSet_keeps) | split | (intro _ _ _) | (intro _ _) | dsimp only

theorem State.notice_keeps {s₀ : State} {s : State}  (d : Nat) (code : Nat) (fs : List (Nat × Nat))  (hk : Keeps s₀ s) :
    Keeps s₀ (State.notice s d code fs ) := by
  unfold State.notice
  try dsimp only
  repeat' first | (with_reducible assumption) | with_reducible exact Keeps.refl _ | (with_reducible apply State.count_keeps) | (fail_if_no_progress (with_reducible refine Keeps.upd ?_)) | (with_reducible apply Keeps.ite) | split | (intro _ _ _) | (intro _ _) | (with_reducible refine Keeps.snd (by with_reducible assumption) ?_) | (with_reducible refine Keeps.fst (by with_reducible assumption) ?_) | (with_reducible refine Keeps.snd2 (by with_reducible assumption) ?_) | (with_reducible refine Keeps.snd3 (by with_reducible assumption) ?_) | dsimp only

theorem State.noticeLim_keeps {s₀ : State} {s : State}  (d : Nat) (code : Nat) (scope : Nat) (fs : List (Nat × Nat))  (hk : Keeps s₀ s) :
    Keeps s₀ (State.noticeLim s d code scope fs ) := by
  unfold State.noticeLim
  try dsimp only
  repeat' first | (with_reducible assumption) | with_reducible exact Keeps.refl _ | (with_reducible apply State.notice_keeps) | (fail_if_no_progress (with_reducible refine Keeps.upd ?_)) | (with_reducible apply Keeps.ite) | split | (intro _ _ _) | (intro _ _) | (with_reducible refine Keeps.snd (by with_reducible assumption) ?_) | (with_reducible refine Keeps.fst (by with_reducible assumption) ?_) | (with_reducible refine Keeps.snd2 (by with_reducible assumption) ?_) | (with_reducible refine Keeps.snd3 (by with_reducible assumption) ?_) | dsimp only

theorem State.fset_keeps {s₀ : State} {s : State}  (a : Nat) (f : Fld) (v : Nat)  (hk : Keeps s₀ s) :
    Keeps s₀ (State.fset s a f v ) := by
  unfold State.fset
  try dsimp only
  repeat' first | (with_reducible assumption) | with_reducible exact Keeps.refl _ | (with_reducible apply State.csrSet_keeps) | split | (intro _ _ _) | (intro _ _) | dsimp only

theorem State.emit_keeps {s₀ : State} {s : State}  (e : Emission)  (hk : Keeps s₀ s) :
    Keeps s₀ (State.emit s e ) := by
  unfold State.emit
  try dsimp only
  repeat' first | (with_reducible assumption) | with_reducible exact Keeps.refl _ | (fail_if_no_progress (with_reducible refine Keeps.upd ?_)) | split | (intro _ _ _) | (intro _ _) | dsimp only

theorem State.injectX_keeps {s₀ : State} {s : State}  (d : Nat) (e : Nat) (x : XMsg)  (hk : Keeps s₀ s) :
    Keeps s₀ (State.injectX s d e x ) := by
  unfold State.injectX
  try dsimp only
  repeat' first | (with_reducible assumption) | with_reducible exact Keeps.refl _ | (fail_if_no_progress (with_reducible refine Keeps.upd ?_)) | (with_reducible apply Keeps.ite) | split | (intro _ _ _) | (intro _ _) | dsimp only

theorem State.inject_keeps {s₀ : State} {s : State}  (d : Nat) (e : Nat) (m : Msg) (die : Nat) (ep : Nat)  (hk : Keeps s₀ s) :
    Keeps s₀ (State.inject s d e m die ep ) := by
  unfold State.inject
  try dsimp only
  repeat' first | (with_reducible assumption) | with_reducible exact Keeps.refl _ | (with_reducible apply State.injectX_keeps) | (fail_if_no_progress (with_reducible refine Keeps.upd ?_)) | split | (intro _ _ _) | (intro _ _) | (with_reducible refine Keeps.snd (by with_reducible assumption) ?_) | (with_reducible refine Keeps.fst (by with_reducible assumption) ?_) | (with_reducible refine Keeps.snd2 (by with_reducible assumption) ?_) | (with_reducible refine Keeps.snd3 (by with_reducible assumption) ?_) | dsimp only

theorem State.injectReply_keeps {s₀ : State} {s : State}  (d : Nat) (e : Nat) (m : Msg)  (hk : Keeps s₀ s) :
    Keeps s₀ (State.injectReply s d e m ) := by
  unfold State.injectReply
  try dsimp only
  repeat' first | (with_reducible assumption) | with_reducible exact Keeps.refl _ | (with_reducible apply State.inject_keeps) | split | (intro _ _ _) | (intro _ _) | dsimp only

theorem State.draw_keeps {s₀ : State} {s : State}    (hk : Keeps s₀ s) :
    Keeps s₀ (State.draw s ).2 := by
  unfold State.draw
  try dsimp only
  repeat' first | (with_reducible assumption) | with_reducible exact Keeps.refl _ | (fail_if_no_progress (with_reducible refine Keeps.upd ?_)) | split | (intro _ _ _) | (intro _ _) | (with_reducible refine Keeps.snd (by with_reducible assumption) ?_) | (with_reducible refine Keeps.fst (by with_reducible assumption) ?_) | (with_reducible refine Keeps.snd2 (by with_reducible assumption) ?_) | (with_reducible refine Keeps.snd3 (by with_reducible assumption) ?_) | dsimp only

theorem State.toFabric_keeps {s₀ : State} {s : State}  (d : Nat) (port : Nat) (beats : List FabBeat)  (hk : Keeps s₀ s) :
    Keeps s₀ (State.toFabric s d port beats ) := by
  unfold State.toFabric
  try dsimp only
  repeat' first | (with_reducible assumption) | with_reducible exact Keeps.refl _ | (with_reducible apply State.count_keeps) | (with_reducible apply State.emit_keeps) | (with_reducible apply Keeps.foldl) | (with_reducible apply Keeps.foldl_fst) | (with_reducible apply Keeps.foldl_snd) | (fail_if_no_progress (with_reducible refine Keeps.upd ?_)) | (with_reducible apply Keeps.ite) | split | (intro _ _ _) | (intro _ _) | dsimp only

theorem State.flag_keeps {s₀ : State} {s : State}  (a : Nat) (f : Fld)  (hk : Keeps s₀ s) :
    Keeps s₀ (State.flag s a f ) := by
  unfold State.flag
  try dsimp only
  repeat' first | (with_reducible assumption) | with_reducible exact Keeps.refl _ | (with_reducible apply State.fset_keeps) | split | (intro _ _ _) | (intro _ _) | dsimp only

theorem State.freeByte_keeps {s₀ : State} {s : State}    (hk : Keeps s₀ s) :
    Keeps s₀ (State.freeByte s ).2 := by
  unfold State.freeByte
  try dsimp only
  repeat' first | (with_reducible assumption) | with_reducible exact Keeps.refl _ | (with_reducible apply State.draw_keeps) | split | (intro _ _ _) | (intro _ _) | (with_reducible refine Keeps.snd (by with_reducible assumption) ?_) | (with_reducible refine Keeps.fst (by with_reducible assumption) ?_) | (with_reducible refine Keeps.snd2 (by with_reducible assumption) ?_) | (with_reducible refine Keeps.snd3 (by with_reducible assumption) ?_) | dsimp only

theorem State.fsetBit_keeps {s₀ : State} {s : State}  (a : Nat) (f : Fld) (i : Nat) (b : Bool)  (hk : Keeps s₀ s) :
    Keeps s₀ (State.fsetBit s a f i b ) := by
  unfold State.fsetBit
  try dsimp only
  repeat' first | (with_reducible assumption) | with_reducible exact Keeps.refl _ | (with_reducible apply State.fset_keeps) | (with_reducible apply Keeps.ite) | split | (intro _ _ _) | (intro _ _) | dsimp only

theorem State.resetCsr_keeps {s₀ : State} {s : State}  (ks : List Kind) (p : Nat → Bool)  (hk : Keeps s₀ s) :
    Keeps s₀ (State.resetCsr s ks p ) := by
  unfold State.resetCsr
  try dsimp only
  repeat' first | (with_reducible assumption) | with_reducible exact Keeps.refl _ | split | (fail_if_no_progress (with_reducible refine Keeps.put ?_ ?_ ?_ ?_ ?_ ?_ ?_)) | (intro c; with_reducible first | exact c.csr | exact c.bankMem | exact c.scratch | exact c.frames | exact c.bar | exact c.flash | exact Memory.wf_drop _ c.scratch | exact Memory.wf_drop _ c.frames | exact Memory.wf_drop _ c.bankMem | exact Memory.wf_drop _ c.flash | exact Memory.wf_drop _ c.bar | exact SMap.wf_mapVals _ c.csr | exact Memory.wf_writeLE _ _ _ c.bankMem | exact Memory.wf_writeLE _ _ _ c.scratch | exact Memory.wf_writeLE _ _ _ c.frames | exact Memory.wf_writeLE _ _ _ c.flash | exact Memory.wf_writes _ _ c.frames | exact Memory.wf_writes _ _ c.bar | exact Memory.wf_write _ _ c.frames | exact Memory.wf_write _ _ c.bar | exact Memory.wf_filter _ c.bar | exact Memory.wf_nil _ | exact barReset_wf) | (fail_if_no_progress (with_reducible refine Keeps.upd ?_)) | (with_reducible apply Keeps.ite) | split | (intro _ _ _) | (intro _ _) | dsimp only

theorem State.setPortSt_keeps {s₀ : State} {s : State}  (p : Nat) (x : PortSt)  (hk : Keeps s₀ s) :
    Keeps s₀ (State.setPortSt s p x ) := by
  unfold State.setPortSt
  try dsimp only
  repeat' first | (with_reducible assumption) | with_reducible exact Keeps.refl _ | (fail_if_no_progress (with_reducible refine Keeps.upd ?_)) | split | (intro _ _ _) | (intro _ _) | dsimp only

theorem State.discard_keeps {s₀ : State} {s : State}  (d : Nat) (e : Nat) (idx : Nat) (m : Msg)  (hk : Keeps s₀ s) :
    Keeps s₀ (State.discard s d e idx m ) := by
  unfold State.discard
  try dsimp only
  repeat' first | (with_reducible assumption) | with_reducible exact Keeps.refl _ | (with_reducible apply State.injectReply_keeps) | (with_reducible apply State.emit_keeps) | (with_reducible apply Keeps.ite) | split | (intro _ _ _) | (intro _ _) | dsimp only

theorem State.refillIn_keeps {s₀ : State} {s : State}  (d : Nat) (e : Nat) (v : Nat)  (hk : Keeps s₀ s) :
    Keeps s₀ (State.refillIn s d e v ) := by
  unfold State.refillIn
  try dsimp only
  repeat' first | (with_reducible assumption) | with_reducible exact Keeps.refl _ | (fail_if_no_progress (with_reducible refine Keeps.upd ?_)) | split | (intro _ _ _) | (intro _ _) | (with_reducible refine Keeps.snd (by with_reducible assumption) ?_) | (with_reducible refine Keeps.fst (by with_reducible assumption) ?_) | (with_reducible refine Keeps.snd2 (by with_reducible assumption) ?_) | (with_reducible refine Keeps.snd3 (by with_reducible assumption) ?_) | dsimp only

end Sys2Proof.Machine
end

