-- ==== Sys2Proof/Laws/KeepsOperands.lean ====
section
/-! SUPPORT. What the operations of Sys2Proof/Machine/Operands.lean keep. -/

set_option linter.all false

namespace Sys2Proof.Machine

theorem State.setRegIn_keeps {s₀ : State} {s : State}  (d : Nat) (e : Nat) (win : Nat) (c : Nat) (v : Word)  (hk : Keeps s₀ s) :
    Keeps s₀ (State.setRegIn s d e win c v ) := by
  unfold State.setRegIn
  try dsimp only
  repeat' first | (with_reducible assumption) | with_reducible exact Keeps.refl _ | (fail_if_no_progress (with_reducible refine Keeps.upd ?_)) | (with_reducible apply Keeps.ite) | split | (intro _ _ _) | (intro _ _) | dsimp only

theorem State.setReg_keeps {s₀ : State} {s : State}  (d : Nat) (e : Nat) (c : Nat) (v : Word)  (hk : Keeps s₀ s) :
    Keeps s₀ (State.setReg s d e c v ) := by
  unfold State.setReg
  try dsimp only
  repeat' first | (with_reducible assumption) | with_reducible exact Keeps.refl _ | (with_reducible apply State.setRegIn_keeps) | split | (intro _ _ _) | (intro _ _) | dsimp only

theorem State.setPair_keeps {s₀ : State} {s : State}  (d : Nat) (e : Nat) (c : Nat) (v : BitVec 64)  (hk : Keeps s₀ s) :
    Keeps s₀ (State.setPair s d e c v ) := by
  unfold State.setPair
  try dsimp only
  repeat' first | (with_reducible assumption) | with_reducible exact Keeps.refl _ | (with_reducible apply State.setReg_keeps) | split | (intro _ _ _) | (intro _ _) | dsimp only

theorem State.setRegs_keeps {s₀ : State} {s : State}  (d : Nat) (e : Nat) (c : Nat) (pair : Bool) (v : BitVec 64)  (hk : Keeps s₀ s) :
    Keeps s₀ (State.setRegs s d e c pair v ) := by
  unfold State.setRegs
  try dsimp only
  repeat' first | (with_reducible assumption) | with_reducible exact Keeps.refl _ | (with_reducible apply State.setReg_keeps) | (with_reducible apply State.setPair_keeps) | (with_reducible apply Keeps.ite) | split | (intro _ _ _) | (intro _ _) | dsimp only

theorem State.setEng_keeps {s₀ : State} {s : State}  (d : Nat) (e : Nat) (x : Engine)  (hk : Keeps s₀ s) :
    Keeps s₀ (State.setEng s d e x ) := by
  unfold State.setEng
  try dsimp only
  repeat' first | (with_reducible assumption) | with_reducible exact Keeps.refl _ | (fail_if_no_progress (with_reducible refine Keeps.upd ?_)) | split | (intro _ _ _) | (intro _ _) | dsimp only

theorem State.setScratchWord_keeps {s₀ : State} {s : State}  (d : Nat) (e : Nat) (a : Nat) (v : Word)  (hk : Keeps s₀ s) :
    Keeps s₀ (State.setScratchWord s d e a v ) := by
  unfold State.setScratchWord
  try dsimp only
  repeat' first | (with_reducible assumption) | with_reducible exact Keeps.refl _ | split | (fail_if_no_progress (with_reducible refine Keeps.put ?_ ?_ ?_ ?_ ?_ ?_ ?_)) | (intro c; with_reducible first | exact c.csr | exact c.bankMem | exact c.scratch | exact c.frames | exact c.bar | exact c.flash | exact Memory.wf_drop _ c.scratch | exact Memory.wf_drop _ c.frames | exact Memory.wf_drop _ c.bankMem | exact Memory.wf_drop _ c.flash | exact Memory.wf_drop _ c.bar | exact SMap.wf_mapVals _ c.csr | exact Memory.wf_writeLE _ _ _ c.bankMem | exact Memory.wf_writeLE _ _ _ c.scratch | exact Memory.wf_writeLE _ _ _ c.frames | exact Memory.wf_writeLE _ _ _ c.flash | exact Memory.wf_writes _ _ c.frames | exact Memory.wf_writes _ _ c.bar | exact Memory.wf_write _ _ c.frames | exact Memory.wf_write _ _ c.bar | exact Memory.wf_filter _ c.bar | exact Memory.wf_nil _ | exact barReset_wf) | (fail_if_no_progress (with_reducible refine Keeps.upd ?_)) | split | (intro _ _ _) | (intro _ _) | dsimp only

theorem State.scratchCheck_keeps {s₀ : State} {s : State}  (d : Nat) (e : Nat) (a : Nat)  (hk : Keeps s₀ s) :
    Keeps s₀ (State.scratchCheck s d e a ).2 := by
  unfold State.scratchCheck
  try dsimp only
  repeat' first | (with_reducible assumption) | with_reducible exact Keeps.refl _ | (with_reducible apply State.count_keeps) | (fail_if_no_progress (with_reducible refine Keeps.upd ?_)) | split | (intro _ _ _) | (intro _ _) | (with_reducible refine Keeps.snd (by with_reducible assumption) ?_) | (with_reducible refine Keeps.fst (by with_reducible assumption) ?_) | (with_reducible refine Keeps.snd2 (by with_reducible assumption) ?_) | (with_reducible refine Keeps.snd3 (by with_reducible assumption) ?_) | dsimp only

end Sys2Proof.Machine
end

