-- ==== Sys2Proof/Laws/KeepsTasks.lean ====
section
/-! SUPPORT. What the operations of Sys2Proof/Machine/Tasks.lean keep. -/

set_option linter.all false

namespace Sys2Proof.Machine

theorem State.setTaskFlags_keeps {s₀ : State} {s : State}  (d : Nat) (n : Nat) (v : Nat)  (hk : Keeps s₀ s) :
    Keeps s₀ (State.setTaskFlags s d n v ) := by
  unfold State.setTaskFlags
  try dsimp only
  repeat' first | (with_reducible assumption) | with_reducible exact Keeps.refl _ | (with_reducible apply State.fset_keeps) | split | (intro _ _ _) | (intro _ _) | dsimp only

theorem State.orFlags_keeps {s₀ : State} {s : State}  (d : Nat) (n : Nat) (v : Nat)  (hk : Keeps s₀ s) :
    Keeps s₀ (State.orFlags s d n v ) := by
  unfold State.orFlags
  try dsimp only
  repeat' first | (with_reducible assumption) | with_reducible exact Keeps.refl _ | (with_reducible apply State.setTaskFlags_keeps) | split | (intro _ _ _) | (intro _ _) | dsimp only

theorem State.setTaskState_keeps {s₀ : State} {s : State}  (d : Nat) (n : Nat) (v : Nat)  (hk : Keeps s₀ s) :
    Keeps s₀ (State.setTaskState s d n v ) := by
  unfold State.setTaskState
  try dsimp only
  repeat' first | (with_reducible assumption) | with_reducible exact Keeps.refl _ | (with_reducible apply State.fset_keeps) | split | (intro _ _ _) | (intro _ _) | dsimp only

theorem State.schedCredit_keeps {s₀ : State} {s : State}  (d : Nat) (m : Msg)  (hk : Keeps s₀ s) :
    Keeps s₀ (State.schedCredit s d m ) := by
  unfold State.schedCredit
  try dsimp only
  repeat' first | (with_reducible assumption) | with_reducible exact Keeps.refl _ | (with_reducible apply State.count_keeps) | split | (intro _ _ _) | (intro _ _) | dsimp only

theorem State.linkOrDrop_keeps {s₀ : State} {s : State}  (m : Msg)  (hk : Keeps s₀ s) :
    Keeps s₀ (State.linkOrDrop s m ) := by
  unfold State.linkOrDrop
  try dsimp only
  repeat' first | (with_reducible assumption) | with_reducible exact Keeps.refl _ | (with_reducible apply State.emit_keeps) | (with_reducible apply Keeps.ite) | split | (intro _ _ _) | (intro _ _) | dsimp only

theorem State.misroute_keeps {s₀ : State} {s : State}  (d : Nat) (n : Nat) (x : InMsg)  (hk : Keeps s₀ s) :
    Keeps s₀ (State.misroute s d n x ) := by
  unfold State.misroute
  try dsimp only
  repeat' first | (with_reducible assumption) | with_reducible exact Keeps.refl _ | (with_reducible apply State.schedCredit_keeps) | (with_reducible apply State.count_keeps) | (with_reducible apply State.injectReply_keeps) | (with_reducible apply State.noticeLim_keeps) | (with_reducible apply Keeps.ite) | split | (intro _ _ _) | (intro _ _) | (with_reducible refine Keeps.snd (by with_reducible assumption) ?_) | (with_reducible refine Keeps.fst (by with_reducible assumption) ?_) | (with_reducible refine Keeps.snd2 (by with_reducible assumption) ?_) | (with_reducible refine Keeps.snd3 (by with_reducible assumption) ?_) | dsimp only

theorem State.unserved_keeps {s₀ : State} {s : State}  (d : Nat) (n : Nat) (x : InMsg)  (hk : Keeps s₀ s) :
    Keeps s₀ (State.unserved s d n x ) := by
  unfold State.unserved
  try dsimp only
  repeat' first | (with_reducible assumption) | with_reducible exact Keeps.refl _ | (with_reducible apply State.schedCredit_keeps) | (with_reducible apply State.count_keeps) | (with_reducible apply State.linkOrDrop_keeps) | (with_reducible apply State.misroute_keeps) | (with_reducible apply Keeps.ite) | split | (intro _ _ _) | (intro _ _) | dsimp only

theorem State.unservedAll_keeps {s₀ : State} {s : State}  (d : Nat) (n : Nat) (x0 : List InMsg) (hk : Keeps s₀ s) :
    Keeps s₀ (State.unservedAll s d n x0) := by
  induction x0 generalizing s d n with
  | nil =>
    unfold State.unservedAll
    try dsimp only
    repeat' first | (with_reducible assumption) | with_reducible exact Keeps.refl _ | (with_reducible apply ih) | (with_reducible apply State.unserved_keeps) | split | (intro _ _ _) | (intro _ _) | dsimp only
  | cons _ _ ih =>
    unfold State.unservedAll
    try dsimp only
    repeat' first | (with_reducible assumption) | with_reducible exact Keeps.refl _ | (with_reducible apply ih) | (with_reducible apply State.unserved_keeps) | split | (intro _ _ _) | (intro _ _) | dsimp only

theorem State.setTaskX_keeps {s₀ : State} {s : State}  (d : Nat) (n : Nat) (x : TaskX)  (hk : Keeps s₀ s) :
    Keeps s₀ (State.setTaskX s d n x ) := by
  unfold State.setTaskX
  try dsimp only
  repeat' first | (with_reducible assumption) | with_reducible exact Keeps.refl _ | (fail_if_no_progress (with_reducible refine Keeps.upd ?_)) | split | (intro _ _ _) | (intro _ _) | dsimp only

theorem State.takeInbox_keeps {s₀ : State} {s : State}  (d : Nat) (n : Nat)  (hk : Keeps s₀ s) :
    Keeps s₀ (State.takeInbox s d n ).2 := by
  unfold State.takeInbox
  try dsimp only
  repeat' first | (with_reducible assumption) | with_reducible exact Keeps.refl _ | (with_reducible apply State.setTaskX_keeps) | (fail_if_no_progress (with_reducible refine Keeps.upd ?_)) | split | (intro _ _ _) | (intro _ _) | (with_reducible refine Keeps.snd (by with_reducible assumption) ?_) | (with_reducible refine Keeps.fst (by with_reducible assumption) ?_) | (with_reducible refine Keeps.snd2 (by with_reducible assumption) ?_) | (with_reducible refine Keeps.snd3 (by with_reducible assumption) ?_) | dsimp only

theorem State.evalReady_keeps {s₀ : State} {s : State}  (d : Nat) (n : Nat)  (hk : Keeps s₀ s) :
    Keeps s₀ (State.evalReady s d n ) := by
  unfold State.evalReady
  try dsimp only
  repeat' first | (with_reducible assumption) | with_reducible exact Keeps.refl _ | (with_reducible apply State.setTaskState_keeps) | (with_reducible apply State.setTaskX_keeps) | (fail_if_no_progress (with_reducible refine Keeps.upd ?_)) | (with_reducible apply Keeps.ite) | split | (intro _ _ _) | (intro _ _) | (with_reducible refine Keeps.snd (by with_reducible assumption) ?_) | (with_reducible refine Keeps.fst (by with_reducible assumption) ?_) | (with_reducible refine Keeps.snd2 (by with_reducible assumption) ?_) | (with_reducible refine Keeps.snd3 (by with_reducible assumption) ?_) | dsimp only

theorem State.evalServable_keeps {s₀ : State} {s : State}  (d : Nat) (n : Nat)  (hk : Keeps s₀ s) :
    Keeps s₀ (State.evalServable s d n ) := by
  unfold State.evalServable
  try dsimp only
  repeat' first | (with_reducible assumption) | with_reducible exact Keeps.refl _ | (with_reducible apply State.setTaskState_keeps) | (with_reducible apply State.unservedAll_keeps) | (with_reducible apply State.noticeLim_keeps) | (with_reducible apply State.takeInbox_keeps) | (with_reducible apply State.evalReady_keeps) | (with_reducible apply State.setTaskX_keeps) | (fail_if_no_progress (with_reducible refine Keeps.upd ?_)) | (with_reducible apply Keeps.ite) | split | (intro _ _ _) | (intro _ _) | (with_reducible refine Keeps.snd (by with_reducible assumption) ?_) | (with_reducible refine Keeps.fst (by with_reducible assumption) ?_) | (with_reducible refine Keeps.snd2 (by with_reducible assumption) ?_) | (with_reducible refine Keeps.snd3 (by with_reducible assumption) ?_) | dsimp only

theorem State.noTask_keeps {s₀ : State} {s : State}  (d : Nat) (x : InMsg)  (hk : Keeps s₀ s) :
    Keeps s₀ (State.noTask s d x ) := by
  unfold State.noTask
  try dsimp only
  repeat' first | (with_reducible assumption) | with_reducible exact Keeps.refl _ | (with_reducible apply ih) | (with_reducible apply State.schedCredit_keeps) | (with_reducible apply State.count_keeps) | (with_reducible apply State.injectReply_keeps) | (with_reducible apply State.linkOrDrop_keeps) | (with_reducible apply State.inject_keeps) | (with_reducible apply Keeps.ite) | split | (intro _ _ _) | (intro _ _) | dsimp only

theorem State.noTaskAll_keeps {s₀ : State} {s : State}  (d : Nat) (x0 : List InMsg) (hk : Keeps s₀ s) :
    Keeps s₀ (State.noTaskAll s d x0) := by
  induction x0 generalizing s d with
  | nil =>
    unfold State.noTaskAll
    try dsimp only
    repeat' first | (with_reducible assumption) | with_reducible exact Keeps.refl _ | (with_reducible apply ih) | (with_reducible apply State.noTask_keeps) | split | (intro _ _ _) | (intro _ _) | dsimp only
  | cons _ _ ih =>
    unfold State.noTaskAll
    try dsimp only
    repeat' first | (with_reducible assumption) | with_reducible exact Keeps.refl _ | (with_reducible apply ih) | (with_reducible apply State.noTask_keeps) | split | (intro _ _ _) | (intro _ _) | dsimp only

theorem State.emptySlot_keeps {s₀ : State} {s : State}  (d : Nat) (n : Nat)  (hk : Keeps s₀ s) :
    Keeps s₀ (State.emptySlot s d n ) := by
  unfold State.emptySlot
  try dsimp only
  repeat' first | (with_reducible assumption) | with_reducible exact Keeps.refl _ | (with_reducible apply State.takeInbox_keeps) | (with_reducible apply State.noTaskAll_keeps) | (with_reducible apply State.setTaskFlags_keeps) | (with_reducible apply State.setTaskState_keeps) | (with_reducible apply State.setTaskX_keeps) | (fail_if_no_progress (with_reducible refine Keeps.upd ?_)) | split | (intro _ _ _) | (intro _ _) | (with_reducible refine Keeps.snd (by with_reducible assumption) ?_) | (with_reducible refine Keeps.fst (by with_reducible assumption) ?_) | (with_reducible refine Keeps.snd2 (by with_reducible assumption) ?_) | (with_reducible refine Keeps.snd3 (by with_reducible assumption) ?_) | dsimp only

theorem State.taskComplete_keeps {s₀ : State} {s : State}  (d : Nat) (n : Nat)  (hk : Keeps s₀ s) :
    Keeps s₀ (State.taskComplete s d n ) := by
  unfold State.taskComplete
  try dsimp only
  repeat' first | (with_reducible assumption) | with_reducible exact Keeps.refl _ | (with_reducible apply State.fset_keeps) | (with_reducible apply State.orFlags_keeps) | (with_reducible apply State.evalServable_keeps) | (with_reducible apply State.setTaskState_keeps) | (with_reducible apply State.evalReady_keeps) | (with_reducible apply State.emptySlot_keeps) | (with_reducible apply State.setTaskX_keeps) | (fail_if_no_progress (with_reducible refine Keeps.upd ?_)) | (with_reducible apply Keeps.ite) | split | (intro _ _ _) | (intro _ _) | (with_reducible refine Keeps.snd (by with_reducible assumption) ?_) | (with_reducible refine Keeps.fst (by with_reducible assumption) ?_) | (with_reducible refine Keeps.snd2 (by with_reducible assumption) ?_) | (with_reducible refine Keeps.snd3 (by with_reducible assumption) ?_) | dsimp only

theorem State.clearTasks_keeps {s₀ : State} {s : State}  (d : Nat)  (hk : Keeps s₀ s) :
    Keeps s₀ (State.clearTasks s d ) := by
  unfold State.clearTasks
  try dsimp only
  repeat' first | (with_reducible assumption) | with_reducible exact Keeps.refl _ | (fail_if_no_progress (with_reducible refine Keeps.upd ?_)) | split | (intro _ _ _) | (intro _ _) | (with_reducible refine Keeps.snd (by with_reducible assumption) ?_) | (with_reducible refine Keeps.fst (by with_reducible assumption) ?_) | (with_reducible refine Keeps.snd2 (by with_reducible assumption) ?_) | (with_reducible refine Keeps.snd3 (by with_reducible assumption) ?_) | dsimp only

theorem State.evalServableAll_keeps {s₀ : State} {s : State}  (d : Nat)  (hk : Keeps s₀ s) :
    Keeps s₀ (State.evalServableAll s d ) := by
  unfold State.evalServableAll
  try dsimp only
  repeat' first | (with_reducible assumption) | with_reducible exact Keeps.refl _ | (with_reducible apply State.evalServable_keeps) | (with_reducible apply Keeps.foldl) | (with_reducible apply Keeps.foldl_fst) | (with_reducible apply Keeps.foldl_snd) | split | (intro _ _ _) | (intro _ _) | dsimp only

theorem doTaskPrioWrite_keeps {s₀ : State} {s : State}  (d : Nat) (n : Nat) (p : Nat)  (hk : Keeps s₀ s) :
    Keeps s₀ (doTaskPrioWrite d n p s ) := by
  unfold doTaskPrioWrite
  try dsimp only
  repeat' first | (with_reducible assumption) | with_reducible exact Keeps.refl _ | (with_reducible apply State.fset_keeps) | (with_reducible apply State.setTaskX_keeps) | (fail_if_no_progress (with_reducible refine Keeps.upd ?_)) | (with_reducible apply Keeps.ite) | split | (intro _ _ _) | (intro _ _) | dsimp only

theorem doTaskInvalidate_keeps {s₀ : State} {s : State}  (d : Nat) (n : Nat)  (hk : Keeps s₀ s) :
    Keeps s₀ (doTaskInvalidate d n s ) := by
  unfold doTaskInvalidate
  try dsimp only
  repeat' first | (with_reducible assumption) | with_reducible exact Keeps.refl _ | (with_reducible apply State.fset_keeps) | (with_reducible apply State.emptySlot_keeps) | (with_reducible apply State.setTaskX_keeps) | (fail_if_no_progress (with_reducible refine Keeps.upd ?_)) | (with_reducible apply Keeps.ite) | split | (intro _ _ _) | (intro _ _) | dsimp only

theorem doTaskValidate_keeps {s₀ : State} {s : State}  (d : Nat) (n : Nat)  (hk : Keeps s₀ s) :
    Keeps s₀ (doTaskValidate d n s ) := by
  unfold doTaskValidate
  try dsimp only
  repeat' first | (with_reducible assumption) | with_reducible exact Keeps.refl _ | (with_reducible apply State.fset_keeps) | (with_reducible apply State.evalServable_keeps) | (with_reducible apply State.setTaskState_keeps) | (with_reducible apply State.evalReady_keeps) | (with_reducible apply Keeps.ite) | split | (intro _ _ _) | (intro _ _) | dsimp only

theorem doTaskClmaskWrite_keeps {s₀ : State} {s : State}  (d : Nat) (n : Nat) (m : BitVec 8)  (hk : Keeps s₀ s) :
    Keeps s₀ (doTaskClmaskWrite d n m s ) := by
  unfold doTaskClmaskWrite
  try dsimp only
  repeat' first | (with_reducible assumption) | with_reducible exact Keeps.refl _ | (with_reducible apply State.fset_keeps) | (with_reducible apply State.evalServable_keeps) | (with_reducible apply Keeps.ite) | split | (intro _ _ _) | (intro _ _) | dsimp only

theorem doTaskReadinessWrite_keeps {s₀ : State} {s : State}  (d : Nat) (n : Nat) (mask : Option Word) (mode : Option Bool)  (hk : Keeps s₀ s) :
    Keeps s₀ (doTaskReadinessWrite d n mask mode s ) := by
  unfold doTaskReadinessWrite
  try dsimp only
  repeat' first | (with_reducible assumption) | with_reducible exact Keeps.refl _ | (with_reducible apply State.fset_keeps) | (with_reducible apply State.evalReady_keeps) | (with_reducible apply State.csrSet_keeps) | (with_reducible apply Keeps.ite) | split | (intro _ _ _) | (intro _ _) | dsimp only

theorem doTaskFlagsWrite_keeps {s₀ : State} {s : State}  (d : Nat) (n : Nat) (v : Word)  (hk : Keeps s₀ s) :
    Keeps s₀ (doTaskFlagsWrite d n v s ) := by
  unfold doTaskFlagsWrite
  try dsimp only
  repeat' first | (with_reducible assumption) | with_reducible exact Keeps.refl _ | (with_reducible apply State.orFlags_keeps) | (with_reducible apply State.evalReady_keeps) | (with_reducible apply Keeps.ite) | split | (intro _ _ _) | (intro _ _) | dsimp only

theorem State.misrouteAll_keeps {s₀ : State} {s : State}  (d : Nat) (n : Nat) (x0 : List InMsg) (hk : Keeps s₀ s) :
    Keeps s₀ (State.misrouteAll s d n x0) := by
  induction x0 generalizing s d n with
  | nil =>
    unfold State.misrouteAll
    try dsimp only
    repeat' first | (with_reducible assumption) | with_reducible exact Keeps.refl _ | (with_reducible apply ih) | (with_reducible apply State.misroute_keeps) | split | (intro _ _ _) | (intro _ _) | dsimp only
  | cons _ _ ih =>
    unfold State.misrouteAll
    try dsimp only
    repeat' first | (with_reducible assumption) | with_reducible exact Keeps.refl _ | (with_reducible apply ih) | (with_reducible apply State.misroute_keeps) | split | (intro _ _ _) | (intro _ _) | dsimp only

theorem doTaskEpochWrite_keeps {s₀ : State} {s : State}  (d : Nat) (n : Nat) (epoch : Nat)  (hk : Keeps s₀ s) :
    Keeps s₀ (doTaskEpochWrite d n epoch s ) := by
  unfold doTaskEpochWrite
  try dsimp only
  repeat' first | (with_reducible assumption) | with_reducible exact Keeps.refl _ | (with_reducible apply State.fset_keeps) | (with_reducible apply State.evalServable_keeps) | (with_reducible apply State.setTaskX_keeps) | (with_reducible apply State.misrouteAll_keeps) | (fail_if_no_progress (with_reducible refine Keeps.upd ?_)) | (with_reducible apply Keeps.ite) | split | (intro _ _ _) | (intro _ _) | dsimp only

theorem State.requeue_keeps {s₀ : State} {s : State}  (d : Nat) (n : Nat) (v1 : Nat) (inMsg : Option InMsg) (esc : Nat) (eprio : Nat)  (hk : Keeps s₀ s) :
    Keeps s₀ (State.requeue s d n v1 inMsg esc eprio ) := by
  unfold State.requeue
  try dsimp only
  repeat' first | (with_reducible assumption) | with_reducible exact Keeps.refl _ | (with_reducible apply State.fset_keeps) | (with_reducible apply State.orFlags_keeps) | (with_reducible apply State.evalServable_keeps) | (with_reducible apply State.setTaskState_keeps) | (with_reducible apply State.evalReady_keeps) | (with_reducible apply State.emptySlot_keeps) | (with_reducible apply State.setTaskX_keeps) | (fail_if_no_progress (with_reducible refine Keeps.upd ?_)) | (with_reducible apply Keeps.ite) | split | (intro _ _ _) | (intro _ _) | (with_reducible refine Keeps.snd (by with_reducible assumption) ?_) | (with_reducible refine Keeps.fst (by with_reducible assumption) ?_) | (with_reducible refine Keeps.snd2 (by with_reducible assumption) ?_) | (with_reducible refine Keeps.snd3 (by with_reducible assumption) ?_) | dsimp only

theorem doSchedulerEvent_keeps {s₀ : State} {s : State}  (d : Nat) (vc : Vc)  (hk : Keeps s₀ s) :
    Keeps s₀ (doSchedulerEvent d vc s ) := by
  unfold doSchedulerEvent
  try dsimp only
  repeat' first | (with_reducible assumption) | with_reducible exact Keeps.refl _ | (with_reducible apply State.unserved_keeps) | (with_reducible apply State.noTask_keeps) | (with_reducible apply State.flag_keeps) | (with_reducible apply State.evalReady_keeps) | (with_reducible apply State.schedCredit_keeps) | (with_reducible apply State.orFlags_keeps) | (with_reducible apply State.setTaskX_keeps) | (with_reducible apply State.misroute_keeps) | (fail_if_no_progress (with_reducible refine Keeps.upd ?_)) | (with_reducible apply Keeps.ite) | split | (intro _ _ _) | (intro _ _) | (with_reducible refine Keeps.snd (by with_reducible assumption) ?_) | (with_reducible refine Keeps.fst (by with_reducible assumption) ?_) | (with_reducible refine Keeps.snd2 (by with_reducible assumption) ?_) | (with_reducible refine Keeps.snd3 (by with_reducible assumption) ?_) | dsimp only

theorem doAffinityExpire_keeps {s₀ : State} {s : State}  (d : Nat) (n : Nat)  (hk : Keeps s₀ s) :
    Keeps s₀ (doAffinityExpire d n s ) := by
  unfold doAffinityExpire
  try dsimp only
  repeat' first | (with_reducible assumption) | with_reducible exact Keeps.refl _ | (with_reducible apply State.setTaskX_keeps) | (fail_if_no_progress (with_reducible refine Keeps.upd ?_)) | (with_reducible apply Keeps.ite) | split | (intro _ _ _) | (intro _ _) | dsimp only

end Sys2Proof.Machine
end

