-- ==== Sys2Proof/Laws/KeepsEngineBase.lean ====
section
/-! SUPPORT. What the operations of Sys2Proof/Machine/EngineBase.lean keep. -/

set_option linter.all false

namespace Sys2Proof.Machine

theorem State.faultRecord_keeps {s₀ : State} {s : State}  (d : Nat) (e : Nat) (cause : Nat) (pc : Nat)  (hk : Keeps s₀ s) :
    Keeps s₀ (State.faultRecord s d e cause pc ) := by
  unfold State.faultRecord
  try dsimp only
  repeat' first | (with_reducible assumption) | with_reducible exact Keeps.refl _ | (with_reducible apply State.count_keeps) | (with_reducible apply State.engFault_keeps) | (with_reducible apply State.noticeLim_keeps) | (with_reducible apply State.csrSet_keeps) | (with_reducible apply Keeps.ite) | split | (intro _ _ _) | (intro _ _) | (with_reducible refine Keeps.snd (by with_reducible assumption) ?_) | (with_reducible refine Keeps.fst (by with_reducible assumption) ?_) | (with_reducible refine Keeps.snd2 (by with_reducible assumption) ?_) | (with_reducible refine Keeps.snd3 (by with_reducible assumption) ?_) | dsimp only

theorem State.lockEsc_keeps {s₀ : State} {s : State}  (d : Nat) (e : Nat) (name : PName) (key : Word)  (hk : Keeps s₀ s) :
    Keeps s₀ (State.lockEsc s d e name key ) := by
  unfold State.lockEsc
  try dsimp only
  repeat' first | (with_reducible assumption) | with_reducible exact Keeps.refl _ | (with_reducible apply State.inject_keeps) | split | (intro _ _ _) | (intro _ _) | dsimp only

theorem State.dropLocks_keeps {s₀ : State} {s : State}  (d : Nat) (e : Nat)  (hk : Keeps s₀ s) :
    Keeps s₀ (State.dropLocks s d e ) := by
  unfold State.dropLocks
  try dsimp only
  repeat' first | (with_reducible assumption) | with_reducible exact Keeps.refl _ | (with_reducible apply State.setEng_keeps) | (with_reducible apply State.lockEsc_keeps) | (with_reducible apply Keeps.foldl) | (with_reducible apply Keeps.foldl_fst) | (with_reducible apply Keeps.foldl_snd) | (fail_if_no_progress (with_reducible refine Keeps.upd ?_)) | split | (intro _ _ _) | (intro _ _) | dsimp only

theorem State.dropReads_keeps {s₀ : State} {s : State}  (d : Nat) (e : Nat)  (hk : Keeps s₀ s) :
    Keeps s₀ (State.dropReads s d e ) := by
  unfold State.dropReads
  try dsimp only
  repeat' first | (with_reducible assumption) | with_reducible exact Keeps.refl _ | (fail_if_no_progress (with_reducible refine Keeps.upd ?_)) | split | (intro _ _ _) | (intro _ _) | (with_reducible refine Keeps.snd (by with_reducible assumption) ?_) | (with_reducible refine Keeps.fst (by with_reducible assumption) ?_) | (with_reducible refine Keeps.snd2 (by with_reducible assumption) ?_) | (with_reducible refine Keeps.snd3 (by with_reducible assumption) ?_) | dsimp only

theorem State.consumeIn_keeps {s₀ : State} {s : State}  (d : Nat) (e : Nat)  (hk : Keeps s₀ s) :
    Keeps s₀ (State.consumeIn s d e ) := by
  unfold State.consumeIn
  try dsimp only
  repeat' first | (with_reducible assumption) | with_reducible exact Keeps.refl _ | (with_reducible apply State.schedCredit_keeps) | (with_reducible apply State.setEng_keeps) | (fail_if_no_progress (with_reducible refine Keeps.upd ?_)) | split | (intro _ _ _) | (intro _ _) | dsimp only

theorem State.faultResponse_keeps {s₀ : State} {s : State}  (d : Nat) (e : Nat)  (hk : Keeps s₀ s) :
    Keeps s₀ (State.faultResponse s d e ) := by
  unfold State.faultResponse
  try dsimp only
  repeat' first | (with_reducible assumption) | with_reducible exact Keeps.refl _ | (with_reducible apply State.injectReply_keeps) | (with_reducible apply State.emit_keeps) | (with_reducible apply Keeps.ite) | split | (intro _ _ _) | (intro _ _) | dsimp only

theorem State.engIdle_keeps {s₀ : State} {s : State}  (d : Nat) (e : Nat) (out : Bool)  (hk : Keeps s₀ s) :
    Keeps s₀ (State.engIdle s d e out ) := by
  unfold State.engIdle
  try dsimp only
  repeat' first | (with_reducible assumption) | with_reducible exact Keeps.refl _ | (with_reducible apply State.setEng_keeps) | (fail_if_no_progress (with_reducible refine Keeps.upd ?_)) | (with_reducible apply Keeps.ite) | split | (intro _ _ _) | (intro _ _) | (with_reducible refine Keeps.snd (by with_reducible assumption) ?_) | (with_reducible refine Keeps.fst (by with_reducible assumption) ?_) | (with_reducible refine Keeps.snd2 (by with_reducible assumption) ?_) | (with_reducible refine Keeps.snd3 (by with_reducible assumption) ?_) | dsimp only

theorem State.engFault_keeps {s₀ : State} {s : State}  (d : Nat) (e : Nat) (cause : Nat)  (hk : Keeps s₀ s) :
    Keeps s₀ (State.engFault s d e cause ) := by
  unfold State.engFault
  try dsimp only
  repeat' first | (with_reducible assumption) | with_reducible exact Keeps.refl _ | (with_reducible apply State.faultRecord_keeps) | (with_reducible apply State.taskComplete_keeps) | (with_reducible apply State.dropLocks_keeps) | (with_reducible apply State.dropReads_keeps) | (with_reducible apply State.consumeIn_keeps) | (with_reducible apply State.faultResponse_keeps) | (with_reducible apply State.engIdle_keeps) | split | (intro _ _ _) | (intro _ _) | dsimp only

theorem State.freshWindow_keeps {s₀ : State} {s : State}  (d : Nat) (e : Nat)  (hk : Keeps s₀ s) :
    Keeps s₀ (State.freshWindow s d e ) := by
  unfold State.freshWindow
  try dsimp only
  repeat' first | (with_reducible assumption) | with_reducible exact Keeps.refl _ | (with_reducible apply State.setRegIn_keeps) | (with_reducible apply State.draw_keeps) | (with_reducible apply Keeps.foldl) | (with_reducible apply Keeps.foldl_fst) | (with_reducible apply Keeps.foldl_snd) | split | (intro _ _ _) | (intro _ _) | (with_reducible refine Keeps.snd (by with_reducible assumption) ?_) | (with_reducible refine Keeps.fst (by with_reducible assumption) ?_) | (with_reducible refine Keeps.snd2 (by with_reducible assumption) ?_) | (with_reducible refine Keeps.snd3 (by with_reducible assumption) ?_) | dsimp only

theorem State.trapEnter_keeps {s₀ : State} {s : State}  (d : Nat) (e : Nat) (v : Nat) (tpc : Nat) (code : Nat) (twin : Option Nat)  (hk : Keeps s₀ s) :
    Keeps s₀ (State.trapEnter s d e v tpc code twin ) := by
  unfold State.trapEnter
  try dsimp only
  repeat' first | (with_reducible assumption) | with_reducible exact Keeps.refl _ | (with_reducible apply State.count_keeps) | (with_reducible apply State.setEng_keeps) | (with_reducible apply State.engFault_keeps) | (with_reducible apply State.freshWindow_keeps) | (fail_if_no_progress (with_reducible refine Keeps.upd ?_)) | (with_reducible apply Keeps.ite) | split | (intro _ _ _) | (intro _ _) | (with_reducible refine Keeps.snd (by with_reducible assumption) ?_) | (with_reducible refine Keeps.fst (by with_reducible assumption) ?_) | (with_reducible refine Keeps.snd2 (by with_reducible assumption) ?_) | (with_reducible refine Keeps.snd3 (by with_reducible assumption) ?_) | dsimp only

theorem State.engGo_keeps {s₀ : State} {s : State}  (d : Nat) (e : Nat) (cost : Nat) (pc : Nat)  (hk : Keeps s₀ s) :
    Keeps s₀ (State.engGo s d e cost pc ) := by
  unfold State.engGo
  try dsimp only
  repeat' first | (with_reducible assumption) | with_reducible exact Keeps.refl _ | (with_reducible apply State.setEng_keeps) | (fail_if_no_progress (with_reducible refine Keeps.upd ?_)) | split | (intro _ _ _) | (intro _ _) | (with_reducible refine Keeps.snd (by with_reducible assumption) ?_) | (with_reducible refine Keeps.fst (by with_reducible assumption) ?_) | (with_reducible refine Keeps.snd2 (by with_reducible assumption) ?_) | (with_reducible refine Keeps.snd3 (by with_reducible assumption) ?_) | dsimp only

theorem State.engDone_keeps {s₀ : State} {s : State}  (d : Nat) (e : Nat) (cost : Nat)  (hk : Keeps s₀ s) :
    Keeps s₀ (State.engDone s d e cost ) := by
  unfold State.engDone
  try dsimp only
  repeat' first | (with_reducible assumption) | with_reducible exact Keeps.refl _ | (with_reducible apply State.engGo_keeps) | split | (intro _ _ _) | (intro _ _) | dsimp only

theorem State.engDoneS_keeps {s₀ : State} {s : State}  (d : Nat) (e : Nat) (cost : Nat) (o : Word)  (hk : Keeps s₀ s) :
    Keeps s₀ (State.engDoneS s d e cost o ) := by
  unfold State.engDoneS
  try dsimp only
  repeat' first | (with_reducible assumption) | with_reducible exact Keeps.refl _ | (with_reducible apply State.setEng_keeps) | (with_reducible apply State.trapEnter_keeps) | (with_reducible apply State.engDone_keeps) | (fail_if_no_progress (with_reducible refine Keeps.upd ?_)) | (with_reducible apply Keeps.ite) | split | (intro _ _ _) | (intro _ _) | dsimp only

theorem State.setLocks_keeps {s₀ : State} {s : State}  (d : Nat) (l : List Lock)  (hk : Keeps s₀ s) :
    Keeps s₀ (State.setLocks s d l ) := by
  unfold State.setLocks
  try dsimp only
  repeat' first | (with_reducible assumption) | with_reducible exact Keeps.refl _ | (fail_if_no_progress (with_reducible refine Keeps.upd ?_)) | split | (intro _ _ _) | (intro _ _) | dsimp only

theorem State.sweepLocks_keeps {s₀ : State} {s : State}  (d : Nat)  (hk : Keeps s₀ s) :
    Keeps s₀ (State.sweepLocks s d ) := by
  unfold State.sweepLocks
  try dsimp only
  repeat' first | (with_reducible assumption) | with_reducible exact Keeps.refl _ | (with_reducible apply State.setLocks_keeps) | split | (intro _ _ _) | (intro _ _) | dsimp only

theorem State.releaseLock_keeps {s₀ : State} {s : State}  (key : Word) (d : Nat) (e : Nat)  (hk : Keeps s₀ s) :
    Keeps s₀ (State.releaseLock s key d e ) := by
  unfold State.releaseLock
  try dsimp only
  repeat' first | (with_reducible assumption) | with_reducible exact Keeps.refl _ | (with_reducible apply State.setLocks_keeps) | (with_reducible apply State.sweepLocks_keeps) | (fail_if_no_progress (with_reducible refine Keeps.upd ?_)) | (with_reducible apply Keeps.ite) | split | (intro _ _ _) | (intro _ _) | dsimp only

theorem State.abortClaim_keeps {s₀ : State} {s : State}  (key : Word) (d : Nat) (e : Nat)  (hk : Keeps s₀ s) :
    Keeps s₀ (State.abortClaim s key d e ) := by
  unfold State.abortClaim
  try dsimp only
  repeat' first | (with_reducible assumption) | with_reducible exact Keeps.refl _ | (with_reducible apply State.sweepLocks_keeps) | (with_reducible apply State.releaseLock_keeps) | (fail_if_no_progress (with_reducible refine Keeps.upd ?_)) | split | (intro _ _ _) | (intro _ _) | dsimp only

theorem State.setStoreWord_keeps {s₀ : State} {s : State}  (d : Nat) (e : Nat) (i : Nat) (v : Word)  (hk : Keeps s₀ s) :
    Keeps s₀ (State.setStoreWord s d e i v ) := by
  unfold State.setStoreWord
  try dsimp only
  repeat' first | (with_reducible assumption) | with_reducible exact Keeps.refl _ | (fail_if_no_progress (with_reducible refine Keeps.upd ?_)) | split | (intro _ _ _) | (intro _ _) | (with_reducible refine Keeps.snd (by with_reducible assumption) ?_) | (with_reducible refine Keeps.fst (by with_reducible assumption) ?_) | (with_reducible refine Keeps.snd2 (by with_reducible assumption) ?_) | (with_reducible refine Keeps.snd3 (by with_reducible assumption) ?_) | dsimp only

theorem State.engStall_keeps {s₀ : State} {s : State}  (d : Nat) (e : Nat)  (hk : Keeps s₀ s) :
    Keeps s₀ (State.engStall s d e ) := by
  unfold State.engStall
  try dsimp only
  repeat' first | (with_reducible assumption) | with_reducible exact Keeps.refl _ | (with_reducible apply State.setEng_keeps) | (fail_if_no_progress (with_reducible refine Keeps.upd ?_)) | split | (intro _ _ _) | (intro _ _) | dsimp only

theorem State.accSend_keeps {s₀ s u : State} {d e t n : Nat} {m : Msg} (he : s.accSend d e m t = some (n, u))
    (hk : Keeps s₀ s) : Keeps s₀ u := by
  unfold State.accSend at he
  dsimp only at he
  split at he
  · cases he
  · simp only [Option.some.injEq, Prod.mk.injEq] at he
    rw [← he.2]
    exact State.inject_keeps _ _ _ _ _ (State.setEng_keeps _ _ _ (State.draw_keeps hk))

theorem State.fetchEcc_keeps {s₀ : State} {s : State}  (d : Nat) (e : Nat)  (hk : Keeps s₀ s) :
    Keeps s₀ (State.fetchEcc s d e ) := by
  unfold State.fetchEcc
  try dsimp only
  repeat' first | (with_reducible assumption) | with_reducible exact Keeps.refl _ | (with_reducible apply State.count_keeps) | (fail_if_no_progress (with_reducible refine Keeps.upd ?_)) | (with_reducible apply Keeps.ite) | split | (intro _ _ _) | (intro _ _) | dsimp only

theorem State.engRun_keeps {s₀ : State} {s : State}  (d : Nat) (e : Nat) (sel : Word → Bool) (legal : State → Word → Bool) (cost : State → Word → Nat) (body : State → Word → State)  (hk : Keeps s₀ s) (hbody : ∀ t y0, Keeps s₀ t → Keeps s₀ (body t y0)) :
    Keeps s₀ (State.engRun s d e sel legal cost body ) := by
  unfold State.engRun
  try dsimp only
  repeat' first | (with_reducible assumption) | with_reducible exact Keeps.refl _ | (with_reducible apply hbody) | (with_reducible apply State.fetchEcc_keeps) | (with_reducible apply State.engFault_keeps) | (with_reducible apply Keeps.ite) | split | (intro _ _ _) | (intro _ _) | dsimp only

theorem State.storeCheck_keeps {s₀ : State} {s : State}  (d : Nat) (e : Nat) (i : Nat)  (hk : Keeps s₀ s) :
    Keeps s₀ (State.storeCheck s d e i ).2 := by
  unfold State.storeCheck
  try dsimp only
  repeat' first | (with_reducible assumption) | with_reducible exact Keeps.refl _ | (with_reducible apply State.count_keeps) | (fail_if_no_progress (with_reducible refine Keeps.upd ?_)) | split | (intro _ _ _) | (intro _ _) | (with_reducible refine Keeps.snd (by with_reducible assumption) ?_) | (with_reducible refine Keeps.fst (by with_reducible assumption) ?_) | (with_reducible refine Keeps.snd2 (by with_reducible assumption) ?_) | (with_reducible refine Keeps.snd3 (by with_reducible assumption) ?_) | dsimp only

theorem State.engEnd_keeps {s₀ : State} {s : State}  (d : Nat) (e : Nat)  (hk : Keeps s₀ s) :
    Keeps s₀ (State.engEnd s d e ) := by
  unfold State.engEnd
  try dsimp only
  repeat' first | (with_reducible assumption) | with_reducible exact Keeps.refl _ | (with_reducible apply State.count_keeps) | (with_reducible apply State.faultRecord_keeps) | (with_reducible apply State.taskComplete_keeps) | (with_reducible apply State.dropLocks_keeps) | (with_reducible apply State.faultResponse_keeps) | (with_reducible apply State.engIdle_keeps) | (with_reducible apply State.consumeIn_keeps) | (with_reducible apply Keeps.ite) | split | (intro _ _ _) | (intro _ _) | dsimp only

theorem State.engLost_keeps {s₀ : State} {s : State}  (d : Nat) (e : Nat) (cost : Nat)  (hk : Keeps s₀ s) :
    Keeps s₀ (State.engLost s d e cost ) := by
  unfold State.engLost
  try dsimp only
  repeat' first | (with_reducible assumption) | with_reducible exact Keeps.refl _ | (with_reducible apply State.setEng_keeps) | (fail_if_no_progress (with_reducible refine Keeps.upd ?_)) | split | (intro _ _ _) | (intro _ _) | (with_reducible refine Keeps.snd (by with_reducible assumption) ?_) | (with_reducible refine Keeps.fst (by with_reducible assumption) ?_) | (with_reducible refine Keeps.snd2 (by with_reducible assumption) ?_) | (with_reducible refine Keeps.snd3 (by with_reducible assumption) ?_) | dsimp only

theorem State.engAbort_keeps {s₀ : State} {s : State}  (d : Nat) (e : Nat) (esc : Nat)  (hk : Keeps s₀ s) :
    Keeps s₀ (State.engAbort s d e esc ) := by
  unfold State.engAbort
  try dsimp only
  repeat' first | (with_reducible assumption) | with_reducible exact Keeps.refl _ | (with_reducible apply State.dropLocks_keeps) | (with_reducible apply State.dropReads_keeps) | (with_reducible apply State.requeue_keeps) | (with_reducible apply State.engIdle_keeps) | split | (intro _ _ _) | (intro _ _) | dsimp only

theorem State.accDone_keeps {s₀ : State} {s : State}  (d : Nat) (e : Nat) (m : Msg)  (hk : Keeps s₀ s) :
    Keeps s₀ (State.accDone s d e m ) := by
  unfold State.accDone
  try dsimp only
  repeat' first | (with_reducible assumption) | with_reducible exact Keeps.refl _ | (with_reducible apply State.setEng_keeps) | (with_reducible apply State.setRegs_keeps) | (with_reducible apply State.engDoneS_keeps) | (fail_if_no_progress (with_reducible refine Keeps.upd ?_)) | (with_reducible apply Keeps.ite) | split | (intro _ _ _) | (intro _ _) | dsimp only

theorem State.clearEngRegs_keeps {s₀ : State} {s : State}  (d : Nat) (e : Nat)  (hk : Keeps s₀ s) :
    Keeps s₀ (State.clearEngRegs s d e ) := by
  unfold State.clearEngRegs
  try dsimp only
  repeat' first | (with_reducible assumption) | with_reducible exact Keeps.refl _ | (fail_if_no_progress (with_reducible refine Keeps.upd ?_)) | split | (intro _ _ _) | (intro _ _) | dsimp only

theorem State.engReset_keeps {s₀ : State} {s : State}  (d : Nat) (e : Nat)  (hk : Keeps s₀ s) :
    Keeps s₀ (State.engReset s d e ) := by
  unfold State.engReset
  try dsimp only
  repeat' first | (with_reducible assumption) | with_reducible exact Keeps.refl _ | (with_reducible apply State.setEng_keeps) | (with_reducible apply State.engFault_keeps) | (with_reducible apply State.resetCsr_keeps) | (with_reducible apply State.clearEngRegs_keeps) | (fail_if_no_progress (with_reducible refine Keeps.upd ?_)) | (with_reducible apply Keeps.ite) | split | (intro _ _ _) | (intro _ _) | dsimp only

end Sys2Proof.Machine
end

