-- ==== Sys2Proof/Laws/KeepsBanks.lean ====
section
/-! SUPPORT. What the operations of Sys2Proof/Machine/Banks.lean keep. -/

set_option linter.all false

namespace Sys2Proof.Machine

theorem State.setBankMark_keeps {s₀ : State} {s : State}  (d : Nat) (b : Nat) (w : Nat) (m : WordMark)  (hk : Keeps s₀ s) :
    Keeps s₀ (State.setBankMark s d b w m ) := by
  unfold State.setBankMark
  try dsimp only
  repeat' first | (with_reducible assumption) | with_reducible exact Keeps.refl _ | (fail_if_no_progress (with_reducible refine Keeps.upd ?_)) | split | (intro _ _ _) | (intro _ _) | dsimp only

theorem State.bankStore_keeps {s₀ : State} {s : State}  (d : Nat) (b : Nat) (w : Nat) (v : BitVec 64) (poison : Bool)  (hk : Keeps s₀ s) :
    Keeps s₀ (State.bankStore s d b w v poison ) := by
  unfold State.bankStore
  try dsimp only
  repeat' first | (with_reducible assumption) | with_reducible exact Keeps.refl _ | (with_reducible apply State.setBankMark_keeps) | split | (fail_if_no_progress (with_reducible refine Keeps.put ?_ ?_ ?_ ?_ ?_ ?_ ?_)) | (intro c; with_reducible first | exact c.csr | exact c.bankMem | exact c.scratch | exact c.frames | exact c.bar | exact c.flash | exact Memory.wf_drop _ c.scratch | exact Memory.wf_drop _ c.frames | exact Memory.wf_drop _ c.bankMem | exact Memory.wf_drop _ c.flash | exact Memory.wf_drop _ c.bar | exact SMap.wf_mapVals _ c.csr | exact Memory.wf_writeLE _ _ _ c.bankMem | exact Memory.wf_writeLE _ _ _ c.scratch | exact Memory.wf_writeLE _ _ _ c.frames | exact Memory.wf_writeLE _ _ _ c.flash | exact Memory.wf_writes _ _ c.frames | exact Memory.wf_writes _ _ c.bar | exact Memory.wf_write _ _ c.frames | exact Memory.wf_write _ _ c.bar | exact Memory.wf_filter _ c.bar | exact Memory.wf_nil _ | exact barReset_wf) | (fail_if_no_progress (with_reducible refine Keeps.upd ?_)) | split | (intro _ _ _) | (intro _ _) | (with_reducible refine Keeps.snd (by with_reducible assumption) ?_) | (with_reducible refine Keeps.fst (by with_reducible assumption) ?_) | (with_reducible refine Keeps.snd2 (by with_reducible assumption) ?_) | (with_reducible refine Keeps.snd3 (by with_reducible assumption) ?_) | dsimp only

theorem State.bankLoad_keeps {s₀ : State} {s : State}  (d : Nat) (b : Nat) (w : Nat) (master : Nat)  (hk : Keeps s₀ s) :
    Keeps s₀ (State.bankLoad s d b w master ).2.2 := by
  unfold State.bankLoad
  try dsimp only
  repeat' first | (with_reducible assumption) | with_reducible exact Keeps.refl _ | (with_reducible apply State.count_keeps) | (with_reducible apply State.noticeLim_keeps) | (with_reducible apply State.csrSet_keeps) | (with_reducible apply Keeps.ite) | (with_reducible apply Keeps.ite_snd) | (with_reducible apply Keeps.ite_fst) | split | (intro _ _ _) | (intro _ _) | (with_reducible refine Keeps.snd (by with_reducible assumption) ?_) | (with_reducible refine Keeps.fst (by with_reducible assumption) ?_) | (with_reducible refine Keeps.snd2 (by with_reducible assumption) ?_) | (with_reducible refine Keeps.snd3 (by with_reducible assumption) ?_) | dsimp only

theorem State.bankDo_keeps {s₀ : State} {s : State}  (d : Nat) (b : Nat) (w : Nat) (master : Nat) (op : BankOp)  (hk : Keeps s₀ s) :
    Keeps s₀ (State.bankDo s d b w master op ).2.2 := by
  unfold State.bankDo
  try dsimp only
  repeat' first | (with_reducible assumption) | with_reducible exact Keeps.refl _ | (with_reducible apply State.bankLoad_keeps) | (with_reducible apply State.bankStore_keeps) | (with_reducible apply Keeps.ite) | (with_reducible apply Keeps.ite_snd) | (with_reducible apply Keeps.ite_fst) | split | (intro _ _ _) | (intro _ _) | (with_reducible refine Keeps.snd (by with_reducible assumption) ?_) | (with_reducible refine Keeps.fst (by with_reducible assumption) ?_) | (with_reducible refine Keeps.snd2 (by with_reducible assumption) ?_) | (with_reducible refine Keeps.snd3 (by with_reducible assumption) ?_) | dsimp only

theorem State.unavailable_keeps {s₀ : State} {s : State}  (d : Nat) (b : Nat) (master : Nat)  (hk : Keeps s₀ s) :
    Keeps s₀ (State.unavailable s d b master ) := by
  unfold State.unavailable
  try dsimp only
  repeat' first | (with_reducible assumption) | with_reducible exact Keeps.refl _ | (with_reducible apply State.count_keeps) | (with_reducible apply State.noticeLim_keeps) | split | (intro _ _ _) | (intro _ _) | (with_reducible refine Keeps.snd (by with_reducible assumption) ?_) | (with_reducible refine Keeps.fst (by with_reducible assumption) ?_) | (with_reducible refine Keeps.snd2 (by with_reducible assumption) ?_) | (with_reducible refine Keeps.snd3 (by with_reducible assumption) ?_) | dsimp only

theorem State.bankAccess_keeps {s₀ : State} {s : State}  (d : Nat) (b : Nat) (w : Nat) (master : Nat) (op : BankOp)  (hk : Keeps s₀ s) :
    Keeps s₀ (State.bankAccess s d b w master op ).2.2.2 := by
  unfold State.bankAccess
  try dsimp only
  repeat' first | (with_reducible assumption) | with_reducible exact Keeps.refl _ | (with_reducible apply State.bankDo_keeps) | (with_reducible apply State.unavailable_keeps) | (with_reducible apply Keeps.ite) | (with_reducible apply Keeps.ite_snd) | (with_reducible apply Keeps.ite_fst) | split | (intro _ _ _) | (intro _ _) | (with_reducible refine Keeps.snd (by with_reducible assumption) ?_) | (with_reducible refine Keeps.fst (by with_reducible assumption) ?_) | (with_reducible refine Keeps.snd2 (by with_reducible assumption) ?_) | (with_reducible refine Keeps.snd3 (by with_reducible assumption) ?_) | dsimp only

theorem State.startClear_keeps {s₀ : State} {s : State}  (d : Nat) (b : Nat)  (hk : Keeps s₀ s) :
    Keeps s₀ (State.startClear s d b ) := by
  unfold State.startClear
  try dsimp only
  repeat' first | (with_reducible assumption) | with_reducible exact Keeps.refl _ | (fail_if_no_progress (with_reducible refine Keeps.upd ?_)) | split | (intro _ _ _) | (intro _ _) | dsimp only

theorem doBankClearDone_keeps {s₀ : State} {s : State}  (d : Nat) (b : Nat)  (hk : Keeps s₀ s) :
    Keeps s₀ (doBankClearDone d b s ) := by
  unfold doBankClearDone
  try dsimp only
  repeat' first | (with_reducible assumption) | with_reducible exact Keeps.refl _ | (with_reducible apply State.fset_keeps) | split | (fail_if_no_progress (with_reducible refine Keeps.put ?_ ?_ ?_ ?_ ?_ ?_ ?_)) | (intro c; with_reducible first | exact c.csr | exact c.bankMem | exact c.scratch | exact c.frames | exact c.bar | exact c.flash | exact Memory.wf_drop _ c.scratch | exact Memory.wf_drop _ c.frames | exact Memory.wf_drop _ c.bankMem | exact Memory.wf_drop _ c.flash | exact Memory.wf_drop _ c.bar | exact SMap.wf_mapVals _ c.csr | exact Memory.wf_writeLE _ _ _ c.bankMem | exact Memory.wf_writeLE _ _ _ c.scratch | exact Memory.wf_writeLE _ _ _ c.frames | exact Memory.wf_writeLE _ _ _ c.flash | exact Memory.wf_writes _ _ c.frames | exact Memory.wf_writes _ _ c.bar | exact Memory.wf_write _ _ c.frames | exact Memory.wf_write _ _ c.bar | exact Memory.wf_filter _ c.bar | exact Memory.wf_nil _ | exact barReset_wf) | (fail_if_no_progress (with_reducible refine Keeps.upd ?_)) | (with_reducible apply Keeps.ite) | split | (intro _ _ _) | (intro _ _) | (with_reducible refine Keeps.snd (by with_reducible assumption) ?_) | (with_reducible refine Keeps.fst (by with_reducible assumption) ?_) | (with_reducible refine Keeps.snd2 (by with_reducible assumption) ?_) | (with_reducible refine Keeps.snd3 (by with_reducible assumption) ?_) | dsimp only

theorem State.setBt_keeps {s₀ : State} {s : State}  (d : Nat) (x : BtSt)  (hk : Keeps s₀ s) :
    Keeps s₀ (State.setBt s d x ) := by
  unfold State.setBt
  try dsimp only
  repeat' first | (with_reducible assumption) | with_reducible exact Keeps.refl _ | (fail_if_no_progress (with_reducible refine Keeps.upd ?_)) | split | (intro _ _ _) | (intro _ _) | dsimp only

theorem State.conflict_keeps {s₀ : State} {s : State}  (d : Nat) (b : Nat) (port : Nat) (r : PortReq)  (hk : Keeps s₀ s) :
    Keeps s₀ (State.conflict s d b port r ) := by
  unfold State.conflict
  try dsimp only
  repeat' first | (with_reducible assumption) | with_reducible exact Keeps.refl _ | (with_reducible apply State.count_keeps) | (with_reducible apply Keeps.ite) | split | (intro _ _ _) | (intro _ _) | dsimp only

theorem State.takeReq_keeps {s₀ : State} {s : State}  (d : Nat) (b : Nat) (port : Nat) (r : PortReq)  (hk : Keeps s₀ s) :
    Keeps s₀ (State.takeReq s d b port r ) := by
  unfold State.takeReq
  try dsimp only
  repeat' first | (with_reducible assumption) | with_reducible exact Keeps.refl _ | (with_reducible apply State.count_keeps) | (fail_if_no_progress (with_reducible refine Keeps.upd ?_)) | (with_reducible apply Keeps.ite) | split | (intro _ _ _) | (intro _ _) | (with_reducible refine Keeps.snd (by with_reducible assumption) ?_) | (with_reducible refine Keeps.fst (by with_reducible assumption) ?_) | (with_reducible refine Keeps.snd2 (by with_reducible assumption) ?_) | (with_reducible refine Keeps.snd3 (by with_reducible assumption) ?_) | dsimp only

theorem State.deliverEng_keeps {s₀ : State} {s : State}  (d : Nat) (e : Nat) (half : Option Bool) (v : BitVec 64) (poison : Bool) (status : Nat)  (hk : Keeps s₀ s) :
    Keeps s₀ (State.deliverEng s d e half v poison status ) := by
  unfold State.deliverEng
  try dsimp only
  repeat' first | (with_reducible assumption) | with_reducible exact Keeps.refl _ | (with_reducible apply State.setRegs_keeps) | (with_reducible apply State.engDoneS_keeps) | split | (intro _ _ _) | (intro _ _) | dsimp only

theorem State.deliver_keeps {s₀ : State} {s : State}  (d : Nat) (b : Nat) (r : PortReq) (v : BitVec 64) (poison : Bool) (status : Nat)  (hk : Keeps s₀ s) :
    Keeps s₀ (State.deliver s d b r v poison status ) := by
  unfold State.deliver
  try dsimp only
  repeat' first | (with_reducible assumption) | with_reducible exact Keeps.refl _ | (with_reducible apply State.injectReply_keeps) | (with_reducible apply State.toFabric_keeps) | (with_reducible apply State.deliverEng_keeps) | (fail_if_no_progress (with_reducible refine Keeps.upd ?_)) | (with_reducible apply Keeps.ite) | split | (intro _ _ _) | (intro _ _) | (with_reducible refine Keeps.snd (by with_reducible assumption) ?_) | (with_reducible refine Keeps.fst (by with_reducible assumption) ?_) | (with_reducible refine Keeps.snd2 (by with_reducible assumption) ?_) | (with_reducible refine Keeps.snd3 (by with_reducible assumption) ?_) | dsimp only

theorem State.serve_keeps {s₀ : State} {s : State}  (d : Nat) (b : Nat) (port : Nat) (r : PortReq)  (hk : Keeps s₀ s) :
    Keeps s₀ (State.serve s d b port r ) := by
  unfold State.serve
  try dsimp only
  repeat' first | (with_reducible assumption) | with_reducible exact Keeps.refl _ | (with_reducible apply State.takeReq_keeps) | (with_reducible apply State.deliver_keeps) | (with_reducible apply State.bankAccess_keeps) | split | (intro _ _ _) | (intro _ _) | (with_reducible refine Keeps.snd (by with_reducible assumption) ?_) | (with_reducible refine Keeps.fst (by with_reducible assumption) ?_) | (with_reducible refine Keeps.snd2 (by with_reducible assumption) ?_) | (with_reducible refine Keeps.snd3 (by with_reducible assumption) ?_) | dsimp only

theorem State.serveTwin_keeps {s₀ : State} {s : State}  (d : Nat) (b : Nat) (ra : PortReq) (rb : PortReq)  (hk : Keeps s₀ s) :
    Keeps s₀ (State.serveTwin s d b ra rb ) := by
  unfold State.serveTwin
  try dsimp only
  repeat' first | (with_reducible assumption) | with_reducible exact Keeps.refl _ | (with_reducible apply State.count_keeps) | (with_reducible apply State.serve_keeps) | (with_reducible apply State.conflict_keeps) | (with_reducible apply Keeps.ite) | split | (intro _ _ _) | (intro _ _) | dsimp only

theorem State.usePort_keeps {s₀ : State} {s : State}  (d : Nat) (b : Nat) (port : Nat)  (hk : Keeps s₀ s) :
    Keeps s₀ (State.usePort s d b port ) := by
  unfold State.usePort
  try dsimp only
  repeat' first | (with_reducible assumption) | with_reducible exact Keeps.refl _ | (fail_if_no_progress (with_reducible refine Keeps.upd ?_)) | split | (intro _ _ _) | (intro _ _) | dsimp only

theorem State.conflicts_keeps {s₀ : State} {s : State}  (d : Nat) (b : Nat) (port : Nat) (pick : Option PortReq) (rs : List PortReq)  (hk : Keeps s₀ s) :
    Keeps s₀ (State.conflicts s d b port pick rs ) := by
  unfold State.conflicts
  try dsimp only
  repeat' first | (with_reducible assumption) | with_reducible exact Keeps.refl _ | (with_reducible apply State.conflict_keeps) | (with_reducible apply Keeps.foldl) | (with_reducible apply Keeps.foldl_fst) | (with_reducible apply Keeps.foldl_snd) | (with_reducible apply Keeps.ite) | split | (intro _ _ _) | (intro _ _) | dsimp only

theorem State.grantPort_keeps {s₀ : State} {s : State}  (d : Nat) (b : Nat) (port : Nat) (f : Option FabBankReq)  (hk : Keeps s₀ s) :
    Keeps s₀ (State.grantPort s d b port f ) := by
  unfold State.grantPort
  try dsimp only
  repeat' first | (with_reducible assumption) | with_reducible exact Keeps.refl _ | (with_reducible apply State.usePort_keeps) | (with_reducible apply State.serve_keeps) | (with_reducible apply State.conflicts_keeps) | (with_reducible apply Keeps.ite) | split | (intro _ _ _) | (intro _ _) | dsimp only

theorem State.grantBoth_keeps {s₀ : State} {s : State}  (d : Nat) (b : Nat) (f : Option FabBankReq)  (hk : Keeps s₀ s) :
    Keeps s₀ (State.grantBoth s d b f ) := by
  unfold State.grantBoth
  try dsimp only
  repeat' first | (with_reducible assumption) | with_reducible exact Keeps.refl _ | (with_reducible apply State.usePort_keeps) | (with_reducible apply State.serve_keeps) | (with_reducible apply State.conflicts_keeps) | (with_reducible apply State.serveTwin_keeps) | (with_reducible apply Keeps.ite) | split | (intro _ _ _) | (intro _ _) | (with_reducible refine Keeps.snd (by with_reducible assumption) ?_) | (with_reducible refine Keeps.fst (by with_reducible assumption) ?_) | (with_reducible refine Keeps.snd2 (by with_reducible assumption) ?_) | (with_reducible refine Keeps.snd3 (by with_reducible assumption) ?_) | dsimp only

theorem State.grant_keeps {s₀ : State} {s : State}  (d : Nat) (b : Nat) (port : GrantPort) (f : Option FabBankReq)  (hk : Keeps s₀ s) :
    Keeps s₀ (State.grant s d b port f ) := by
  unfold State.grant
  try dsimp only
  repeat' first | (with_reducible assumption) | with_reducible exact Keeps.refl _ | (with_reducible apply State.grantBoth_keeps) | (with_reducible apply State.grantPort_keeps) | (with_reducible apply Keeps.ite) | split | (intro _ _ _) | (intro _ _) | dsimp only

theorem State.askDma_keeps {s₀ : State} {s : State}  (d : Nat) (b : Nat) (word : Nat) (who : BankWho) (op : BankOp)  (hk : Keeps s₀ s) :
    Keeps s₀ (State.askDma s d b word who op ) := by
  unfold State.askDma
  try dsimp only
  repeat' first | (with_reducible assumption) | with_reducible exact Keeps.refl _ | (fail_if_no_progress (with_reducible refine Keeps.upd ?_)) | split | (intro _ _ _) | (intro _ _) | (with_reducible refine Keeps.snd (by with_reducible assumption) ?_) | (with_reducible refine Keeps.fst (by with_reducible assumption) ?_) | (with_reducible refine Keeps.snd2 (by with_reducible assumption) ?_) | (with_reducible refine Keeps.snd3 (by with_reducible assumption) ?_) | dsimp only

theorem State.dropDma_keeps {s₀ : State} {s : State}  (p : BankWho → Bool)  (hk : Keeps s₀ s) :
    Keeps s₀ (State.dropDma s p ) := by
  unfold State.dropDma
  try dsimp only
  repeat' first | (with_reducible assumption) | with_reducible exact Keeps.refl _ | (fail_if_no_progress (with_reducible refine Keeps.upd ?_)) | split | (intro _ _ _) | (intro _ _) | dsimp only

theorem State.btSave_keeps {s₀ : State} {s : State}  (d : Nat) (b : Nat) (w : Nat)  (hk : Keeps s₀ s) :
    Keeps s₀ (State.btSave s d b w ) := by
  unfold State.btSave
  try dsimp only
  repeat' first | (with_reducible assumption) | with_reducible exact Keeps.refl _ | (with_reducible apply State.count_keeps) | (with_reducible apply State.setBankMark_keeps) | (with_reducible apply Keeps.ite) | split | (intro _ _ _) | (intro _ _) | dsimp only

theorem State.btFail_keeps {s₀ : State} {s : State}  (d : Nat) (b : Nat) (region : Nat) (el : Nat) (w : Nat)  (hk : Keeps s₀ s) :
    Keeps s₀ (State.btFail s d b region el w ) := by
  unfold State.btFail
  try dsimp only
  repeat' first | (with_reducible assumption) | with_reducible exact Keeps.refl _ | (with_reducible apply State.count_keeps) | (with_reducible apply State.notice_keeps) | (with_reducible apply State.setBt_keeps) | (with_reducible apply State.csrSet_keeps) | (fail_if_no_progress (with_reducible refine Keeps.upd ?_)) | (with_reducible apply Keeps.ite) | split | (intro _ _ _) | (intro _ _) | (with_reducible refine Keeps.snd (by with_reducible assumption) ?_) | (with_reducible refine Keeps.fst (by with_reducible assumption) ?_) | (with_reducible refine Keeps.snd2 (by with_reducible assumption) ?_) | (with_reducible refine Keeps.snd3 (by with_reducible assumption) ?_) | dsimp only

theorem State.btNext_keeps {s₀ : State} {s : State}  (d : Nat)  (hk : Keeps s₀ s) :
    Keeps s₀ (State.btNext s d ) := by
  unfold State.btNext
  try dsimp only
  repeat' first | (with_reducible assumption) | with_reducible exact Keeps.refl _ | (with_reducible apply State.count_keeps) | (with_reducible apply State.fset_keeps) | (with_reducible apply State.setBt_keeps) | (fail_if_no_progress (with_reducible refine Keeps.upd ?_)) | (with_reducible apply Keeps.ite) | split | (intro _ _ _) | (intro _ _) | (with_reducible refine Keeps.snd (by with_reducible assumption) ?_) | (with_reducible refine Keeps.fst (by with_reducible assumption) ?_) | (with_reducible refine Keeps.snd2 (by with_reducible assumption) ?_) | (with_reducible refine Keeps.snd3 (by with_reducible assumption) ?_) | dsimp only

theorem doBtTestCycle_keeps {s₀ : State} {s : State}  (d : Nat) (bad : List Nat)  (hk : Keeps s₀ s) :
    Keeps s₀ (doBtTestCycle d bad s ) := by
  unfold doBtTestCycle
  try dsimp only
  repeat' first | (with_reducible assumption) | with_reducible exact Keeps.refl _ | (with_reducible apply State.btSave_keeps) | (with_reducible apply State.btNext_keeps) | (with_reducible apply State.btFail_keeps) | (with_reducible apply State.setBt_keeps) | (with_reducible apply Keeps.foldl) | (with_reducible apply Keeps.foldl_fst) | (with_reducible apply Keeps.foldl_snd) | (fail_if_no_progress (with_reducible refine Keeps.upd ?_)) | (with_reducible apply Keeps.ite) | split | (intro _ _ _) | (intro _ _) | (with_reducible refine Keeps.snd (by with_reducible assumption) ?_) | (with_reducible refine Keeps.fst (by with_reducible assumption) ?_) | (with_reducible refine Keeps.snd2 (by with_reducible assumption) ?_) | (with_reducible refine Keeps.snd3 (by with_reducible assumption) ?_) | dsimp only

theorem doBtEnWrite_keeps {s₀ : State} {s : State}  (d : Nat) (v : Bool)  (hk : Keeps s₀ s) :
    Keeps s₀ (doBtEnWrite d v s ) := by
  unfold doBtEnWrite
  try dsimp only
  repeat' first | (with_reducible assumption) | with_reducible exact Keeps.refl _ | (with_reducible apply State.fset_keeps) | (with_reducible apply Keeps.ite) | split | (intro _ _ _) | (intro _ _) | dsimp only

end Sys2Proof.Machine
end

