-- ==== Sys2Proof/Laws/KeepsRouting.lean ====
section
/-! SUPPORT. What the operations of Sys2Proof/Machine/Routing.lean keep. -/

set_option linter.all false

namespace Sys2Proof.Machine

theorem State.setCell_keeps {s₀ : State} {s : State}  (d : Nat) (r : Nat) (col : Nat) (row : Nat) (x : Cell)  (hk : Keeps s₀ s) :
    Keeps s₀ (State.setCell s d r col row x ) := by
  unfold State.setCell
  try dsimp only
  repeat' first | (with_reducible assumption) | with_reducible exact Keeps.refl _ | (fail_if_no_progress (with_reducible refine Keeps.upd ?_)) | split | (intro _ _ _) | (intro _ _) | dsimp only

theorem State.captureBorder_keeps {s₀ : State} {s : State}  (d : Nat) (r : Nat)  (hk : Keeps s₀ s) :
    Keeps s₀ (State.captureBorder s d r ) := by
  unfold State.captureBorder
  try dsimp only
  repeat' first | (with_reducible assumption) | with_reducible exact Keeps.refl _ | (fail_if_no_progress (with_reducible refine Keeps.upd ?_)) | (with_reducible apply Keeps.ite) | split | (intro _ _ _) | (intro _ _) | dsimp only

theorem State.freeBorder_keeps {s₀ : State} {s : State}  (d : Nat) (r : Nat)  (hk : Keeps s₀ s) :
    Keeps s₀ (State.freeBorder s d r ) := by
  unfold State.freeBorder
  try dsimp only
  repeat' first | (with_reducible assumption) | with_reducible exact Keeps.refl _ | (fail_if_no_progress (with_reducible refine Keeps.upd ?_)) | split | (intro _ _ _) | (intro _ _) | dsimp only

end Sys2Proof.Machine
end

