-- ==== Sys2Proof/Laws/KeepsCells.lean ====
section
/-! SUPPORT. What the operations of Sys2Proof/Machine/Cells.lean keep. -/

set_option linter.all false

namespace Sys2Proof.Machine

theorem State.putCell_keeps {s₀ : State} {s : State}  (d : Nat) (r : Nat) (col : Nat) (row : Nat) (edge : Bool) (c : Cell)  (hk : Keeps s₀ s) :
    Keeps s₀ (State.putCell s d r col row edge c ) := by
  unfold State.putCell
  try dsimp only
  repeat' first | (with_reducible assumption) | with_reducible exact Keeps.refl _ | (with_reducible apply State.setCell_keeps) | (fail_if_no_progress (with_reducible refine Keeps.upd ?_)) | (with_reducible apply Keeps.ite) | split | (intro _ _ _) | (intro _ _) | dsimp only

theorem State.cellRun_keeps {s₀ : State} {s : State}  (d : Nat) (r : Nat) (col : Nat) (row : Nat) (op : Nat) (edge : Bool) (f : Nat → BitVec 16 → BitVec 16 → CellIn → CellRes)  (hk : Keeps s₀ s) :
    Keeps s₀ (State.cellRun s d r col row op edge f ) := by
  unfold State.cellRun
  try dsimp only
  repeat' first | (with_reducible assumption) | with_reducible exact Keeps.refl _ | (with_reducible apply State.putCell_keeps) | (with_reducible apply Keeps.ite) | split | (intro _ _ _) | (intro _ _) | dsimp only

theorem doCellNop_keeps {s₀ : State} {s : State}  (d : Nat) (r : Nat) (col : Nat) (row : Nat) (edge : Bool)  (hk : Keeps s₀ s) :
    Keeps s₀ (doCellNop d r col row edge s ) := by
  unfold doCellNop
  try dsimp only
  repeat' first | (with_reducible assumption) | with_reducible exact Keeps.refl _ | (with_reducible apply State.putCell_keeps) | (with_reducible apply State.draw_keeps) | (with_reducible apply State.flag_keeps) | (fail_if_no_progress (with_reducible refine Keeps.upd ?_)) | (with_reducible apply Keeps.ite) | split | (intro _ _ _) | (intro _ _) | (with_reducible refine Keeps.snd (by with_reducible assumption) ?_) | (with_reducible refine Keeps.fst (by with_reducible assumption) ?_) | (with_reducible refine Keeps.snd2 (by with_reducible assumption) ?_) | (with_reducible refine Keeps.snd3 (by with_reducible assumption) ?_) | dsimp only

theorem doCellAdd_keeps {s₀ : State} {s : State}  (d : Nat) (r : Nat) (col : Nat) (row : Nat) (edge : Bool)  (hk : Keeps s₀ s) :
    Keeps s₀ (doCellAdd d r col row edge s ) := by
  unfold doCellAdd
  try dsimp only
  repeat' first | (with_reducible assumption) | with_reducible exact Keeps.refl _ | (with_reducible apply State.cellRun_keeps) | split | (intro _ _ _) | (intro _ _) | dsimp only

theorem doCellSub_keeps {s₀ : State} {s : State}  (d : Nat) (r : Nat) (col : Nat) (row : Nat) (edge : Bool)  (hk : Keeps s₀ s) :
    Keeps s₀ (doCellSub d r col row edge s ) := by
  unfold doCellSub
  try dsimp only
  repeat' first | (with_reducible assumption) | with_reducible exact Keeps.refl _ | (with_reducible apply State.cellRun_keeps) | split | (intro _ _ _) | (intro _ _) | dsimp only

theorem doCellAnd_keeps {s₀ : State} {s : State}  (d : Nat) (r : Nat) (col : Nat) (row : Nat) (edge : Bool)  (hk : Keeps s₀ s) :
    Keeps s₀ (doCellAnd d r col row edge s ) := by
  unfold doCellAnd
  try dsimp only
  repeat' first | (with_reducible assumption) | with_reducible exact Keeps.refl _ | (with_reducible apply State.cellRun_keeps) | split | (intro _ _ _) | (intro _ _) | dsimp only

theorem doCellOr_keeps {s₀ : State} {s : State}  (d : Nat) (r : Nat) (col : Nat) (row : Nat) (edge : Bool)  (hk : Keeps s₀ s) :
    Keeps s₀ (doCellOr d r col row edge s ) := by
  unfold doCellOr
  try dsimp only
  repeat' first | (with_reducible assumption) | with_reducible exact Keeps.refl _ | (with_reducible apply State.cellRun_keeps) | split | (intro _ _ _) | (intro _ _) | dsimp only

theorem doCellXor_keeps {s₀ : State} {s : State}  (d : Nat) (r : Nat) (col : Nat) (row : Nat) (edge : Bool)  (hk : Keeps s₀ s) :
    Keeps s₀ (doCellXor d r col row edge s ) := by
  unfold doCellXor
  try dsimp only
  repeat' first | (with_reducible assumption) | with_reducible exact Keeps.refl _ | (with_reducible apply State.cellRun_keeps) | split | (intro _ _ _) | (intro _ _) | dsimp only

theorem doCellAndn_keeps {s₀ : State} {s : State}  (d : Nat) (r : Nat) (col : Nat) (row : Nat) (edge : Bool)  (hk : Keeps s₀ s) :
    Keeps s₀ (doCellAndn d r col row edge s ) := by
  unfold doCellAndn
  try dsimp only
  repeat' first | (with_reducible assumption) | with_reducible exact Keeps.refl _ | (with_reducible apply State.cellRun_keeps) | split | (intro _ _ _) | (intro _ _) | dsimp only

theorem doCellRolc_keeps {s₀ : State} {s : State}  (d : Nat) (r : Nat) (col : Nat) (row : Nat) (edge : Bool)  (hk : Keeps s₀ s) :
    Keeps s₀ (doCellRolc d r col row edge s ) := by
  unfold doCellRolc
  try dsimp only
  repeat' first | (with_reducible assumption) | with_reducible exact Keeps.refl _ | (with_reducible apply State.cellRun_keeps) | split | (intro _ _ _) | (intro _ _) | dsimp only

theorem doCellShl_keeps {s₀ : State} {s : State}  (d : Nat) (r : Nat) (col : Nat) (row : Nat) (edge : Bool)  (hk : Keeps s₀ s) :
    Keeps s₀ (doCellShl d r col row edge s ) := by
  unfold doCellShl
  try dsimp only
  repeat' first | (with_reducible assumption) | with_reducible exact Keeps.refl _ | (with_reducible apply State.cellRun_keeps) | split | (intro _ _ _) | (intro _ _) | dsimp only

theorem doCellShr_keeps {s₀ : State} {s : State}  (d : Nat) (r : Nat) (col : Nat) (row : Nat) (edge : Bool)  (hk : Keeps s₀ s) :
    Keeps s₀ (doCellShr d r col row edge s ) := by
  unfold doCellShr
  try dsimp only
  repeat' first | (with_reducible assumption) | with_reducible exact Keeps.refl _ | (with_reducible apply State.cellRun_keeps) | split | (intro _ _ _) | (intro _ _) | dsimp only

theorem doCellSra_keeps {s₀ : State} {s : State}  (d : Nat) (r : Nat) (col : Nat) (row : Nat) (edge : Bool)  (hk : Keeps s₀ s) :
    Keeps s₀ (doCellSra d r col row edge s ) := by
  unfold doCellSra
  try dsimp only
  repeat' first | (with_reducible assumption) | with_reducible exact Keeps.refl _ | (with_reducible apply State.cellRun_keeps) | split | (intro _ _ _) | (intro _ _) | dsimp only

theorem doCellCmp_keeps {s₀ : State} {s : State}  (d : Nat) (r : Nat) (col : Nat) (row : Nat) (edge : Bool)  (hk : Keeps s₀ s) :
    Keeps s₀ (doCellCmp d r col row edge s ) := by
  unfold doCellCmp
  try dsimp only
  repeat' first | (with_reducible assumption) | with_reducible exact Keeps.refl _ | (with_reducible apply State.cellRun_keeps) | split | (intro _ _ _) | (intro _ _) | dsimp only

theorem doCellMul_keeps {s₀ : State} {s : State}  (d : Nat) (r : Nat) (col : Nat) (row : Nat) (edge : Bool)  (hk : Keeps s₀ s) :
    Keeps s₀ (doCellMul d r col row edge s ) := by
  unfold doCellMul
  try dsimp only
  repeat' first | (with_reducible assumption) | with_reducible exact Keeps.refl _ | (with_reducible apply State.cellRun_keeps) | split | (intro _ _ _) | (intro _ _) | dsimp only

theorem doCellMov_keeps {s₀ : State} {s : State}  (d : Nat) (r : Nat) (col : Nat) (row : Nat) (edge : Bool)  (hk : Keeps s₀ s) :
    Keeps s₀ (doCellMov d r col row edge s ) := by
  unfold doCellMov
  try dsimp only
  repeat' first | (with_reducible assumption) | with_reducible exact Keeps.refl _ | (with_reducible apply State.cellRun_keeps) | split | (intro _ _ _) | (intro _ _) | dsimp only

theorem doCellSel_keeps {s₀ : State} {s : State}  (d : Nat) (r : Nat) (col : Nat) (row : Nat) (edge : Bool)  (hk : Keeps s₀ s) :
    Keeps s₀ (doCellSel d r col row edge s ) := by
  unfold doCellSel
  try dsimp only
  repeat' first | (with_reducible assumption) | with_reducible exact Keeps.refl _ | (with_reducible apply State.cellRun_keeps) | split | (intro _ _ _) | (intro _ _) | dsimp only

theorem doCellMulh_keeps {s₀ : State} {s : State}  (d : Nat) (r : Nat) (col : Nat) (row : Nat) (edge : Bool)  (hk : Keeps s₀ s) :
    Keeps s₀ (doCellMulh d r col row edge s ) := by
  unfold doCellMulh
  try dsimp only
  repeat' first | (with_reducible assumption) | with_reducible exact Keeps.refl _ | (with_reducible apply State.cellRun_keeps) | split | (intro _ _ _) | (intro _ _) | dsimp only

end Sys2Proof.Machine
end

