-- ==== Sys2Proof/Laws/KeepsFlitPath.lean ====
section
/-! SUPPORT. What the operations of Sys2Proof/Machine/FlitPath.lean keep. -/

set_option linter.all false

namespace Sys2Proof.Machine

theorem State.msixPend_keeps {s₀ : State} {s : State}  (v : Nat) (b : Bool)  (hk : Keeps s₀ s) :
    Keeps s₀ (State.msixPend s v b ) := by
  unfold State.msixPend
  try dsimp only
  repeat' first | (with_reducible assumption) | with_reducible exact Keeps.refl _ | split | (fail_if_no_progress (with_reducible refine Keeps.put ?_ ?_ ?_ ?_ ?_ ?_ ?_)) | (intro c; with_reducible first | exact c.csr | exact c.bankMem | exact c.scratch | exact c.frames | exact c.bar | exact c.flash | exact Memory.wf_drop _ c.scratch | exact Memory.wf_drop _ c.frames | exact Memory.wf_drop _ c.bankMem | exact Memory.wf_drop _ c.flash | exact Memory.wf_drop _ c.bar | exact SMap.wf_mapVals _ c.csr | exact Memory.wf_writeLE _ _ _ c.bankMem | exact Memory.wf_writeLE _ _ _ c.scratch | exact Memory.wf_writeLE _ _ _ c.frames | exact Memory.wf_writeLE _ _ _ c.flash | exact Memory.wf_writes _ _ c.frames | exact Memory.wf_writes _ _ c.bar | exact Memory.wf_write _ _ c.frames | exact Memory.wf_write _ _ c.bar | exact Memory.wf_filter _ c.bar | exact Memory.wf_nil _ | exact barReset_wf) | (fail_if_no_progress (with_reducible refine Keeps.upd ?_)) | (with_reducible apply Keeps.ite) | split | (intro _ _ _) | (intro _ _) | dsimp only

theorem State.msix_keeps {s₀ : State} {s : State}  (v : Nat)  (hk : Keeps s₀ s) :
    Keeps s₀ (State.msix s v ) := by
  unfold State.msix
  try dsimp only
  repeat' first | (with_reducible assumption) | with_reducible exact Keeps.refl _ | (with_reducible apply ih) | (with_reducible apply State.emit_keeps) | (with_reducible apply State.msixPend_keeps) | (with_reducible apply Keeps.ite) | split | (intro _ _ _) | (intro _ _) | dsimp only

theorem State.dropEgress_keeps {s₀ : State} {s : State}  (d : Nat) (e : Nat) (idx : Nat) (v : Nat) (x0 : List XMsg) (hk : Keeps s₀ s) :
    Keeps s₀ (State.dropEgress s d e idx v x0) := by
  induction x0 generalizing s d e idx v with
  | nil =>
    unfold State.dropEgress
    try dsimp only
    repeat' first | (with_reducible assumption) | with_reducible exact Keeps.refl _ | (with_reducible apply ih) | (with_reducible apply State.discard_keeps) | (with_reducible apply State.csrSet_keeps) | split | (intro _ _ _) | (intro _ _) | dsimp only
  | cons _ _ ih =>
    unfold State.dropEgress
    try dsimp only
    repeat' first | (with_reducible assumption) | with_reducible exact Keeps.refl _ | (with_reducible apply ih) | (with_reducible apply State.discard_keeps) | (with_reducible apply State.csrSet_keeps) | split | (intro _ _ _) | (intro _ _) | dsimp only

theorem State.emptyEgress_keeps {s₀ : State} {s : State}  (d : Nat) (e : Nat) (idx : Nat) (x0 : List Nat) (hk : Keeps s₀ s) :
    Keeps s₀ (State.emptyEgress s d e idx x0) := by
  induction x0 generalizing s d e idx with
  | nil =>
    unfold State.emptyEgress
    try dsimp only
    repeat' first | (with_reducible assumption) | with_reducible exact Keeps.refl _ | (with_reducible apply ih) | (with_reducible apply State.dropEgress_keeps) | (fail_if_no_progress (with_reducible refine Keeps.upd ?_)) | split | (intro _ _ _) | (intro _ _) | dsimp only
  | cons _ _ ih =>
    unfold State.emptyEgress
    try dsimp only
    repeat' first | (with_reducible assumption) | with_reducible exact Keeps.refl _ | (with_reducible apply ih) | (with_reducible apply State.dropEgress_keeps) | (fail_if_no_progress (with_reducible refine Keeps.upd ?_)) | split | (intro _ _ _) | (intro _ _) | dsimp only

theorem State.sendPortDown_keeps {s₀ : State} {s : State}  (p : Nat) (leaving : Bool) (hs : List Nat)  (hk : Keeps s₀ s) :
    Keeps s₀ (State.sendPortDown s p leaving hs ) := by
  unfold State.sendPortDown
  try dsimp only
  repeat' first | (with_reducible assumption) | with_reducible exact Keeps.refl _ | (with_reducible apply State.inject_keeps) | (with_reducible apply Keeps.foldl) | (with_reducible apply Keeps.foldl_fst) | (with_reducible apply Keeps.foldl_snd) | (with_reducible apply Keeps.ite) | split | (intro _ _ _) | (intro _ _) | dsimp only

theorem State.cfgClear_keeps {s₀ : State} {s : State}  (p : Nat)  (hk : Keeps s₀ s) :
    Keeps s₀ (State.cfgClear s p ) := by
  unfold State.cfgClear
  try dsimp only
  repeat' first | (with_reducible assumption) | with_reducible exact Keeps.refl _ | (fail_if_no_progress (with_reducible refine Keeps.upd ?_)) | split | (intro _ _ _) | (intro _ _) | dsimp only

theorem State.takeDown_keeps {s₀ : State} {s : State}  (p : Nat) (cause : Nat) (quiet : Bool)  (hk : Keeps s₀ s) :
    Keeps s₀ (State.takeDown s p cause quiet ) := by
  unfold State.takeDown
  try dsimp only
  repeat' first | (with_reducible assumption) | with_reducible exact Keeps.refl _ | (with_reducible apply State.flag_keeps) | (with_reducible apply State.noticeLim_keeps) | (with_reducible apply State.setPortSt_keeps) | (with_reducible apply State.emptyEgress_keeps) | (with_reducible apply State.sendPortDown_keeps) | (with_reducible apply State.cfgClear_keeps) | (with_reducible apply State.csrSet_keeps) | (fail_if_no_progress (with_reducible refine Keeps.upd ?_)) | (with_reducible apply Keeps.ite) | split | (intro _ _ _) | (intro _ _) | (with_reducible refine Keeps.snd (by with_reducible assumption) ?_) | (with_reducible refine Keeps.fst (by with_reducible assumption) ?_) | (with_reducible refine Keeps.snd2 (by with_reducible assumption) ?_) | (with_reducible refine Keeps.snd3 (by with_reducible assumption) ?_) | dsimp only

theorem State.culvertDown_keeps {s₀ : State} {s : State}  (d : Nat) (c : Nat)  (hk : Keeps s₀ s) :
    Keeps s₀ (State.culvertDown s d c ) := by
  unfold State.culvertDown
  try dsimp only
  repeat' first | (with_reducible assumption) | with_reducible exact Keeps.refl _ | (with_reducible apply State.fset_keeps) | (with_reducible apply State.emptyEgress_keeps) | split | (intro _ _ _) | (intro _ _) | (with_reducible refine Keeps.snd (by with_reducible assumption) ?_) | (with_reducible refine Keeps.fst (by with_reducible assumption) ?_) | (with_reducible refine Keeps.snd2 (by with_reducible assumption) ?_) | (with_reducible refine Keeps.snd3 (by with_reducible assumption) ?_) | dsimp only

theorem State.msixFlush_keeps {s₀ : State} {s : State}    (hk : Keeps s₀ s) :
    Keeps s₀ (State.msixFlush s ) := by
  unfold State.msixFlush
  try dsimp only
  repeat' first | (with_reducible assumption) | with_reducible exact Keeps.refl _ | (with_reducible apply State.msix_keeps) | (with_reducible apply State.msixPend_keeps) | (with_reducible apply Keeps.foldl) | (with_reducible apply Keeps.foldl_fst) | (with_reducible apply Keeps.foldl_snd) | split | (intro _ _ _) | (intro _ _) | (with_reducible refine Keeps.snd (by with_reducible assumption) ?_) | (with_reducible refine Keeps.fst (by with_reducible assumption) ?_) | (with_reducible refine Keeps.snd2 (by with_reducible assumption) ?_) | (with_reducible refine Keeps.snd3 (by with_reducible assumption) ?_) | dsimp only

theorem doCvCtrlWrite_keeps {s₀ : State} {s : State}  (d : Nat) (c : Nat) (v : Word)  (hk : Keeps s₀ s) :
    Keeps s₀ (doCvCtrlWrite d c v s ) := by
  unfold doCvCtrlWrite
  try dsimp only
  repeat' first | (with_reducible assumption) | with_reducible exact Keeps.refl _ | (with_reducible apply State.culvertDown_keeps) | (with_reducible apply State.fset_keeps) | (with_reducible apply Keeps.ite) | split | (intro _ _ _) | (intro _ _) | dsimp only

theorem doHgMeterWrite_keeps {s₀ : State} {s : State}  (d : Nat) (k : Nat) (c : Nat) (v : Word)  (hk : Keeps s₀ s) :
    Keeps s₀ (doHgMeterWrite d k c v s ) := by
  unfold doHgMeterWrite
  try dsimp only
  repeat' first | (with_reducible assumption) | with_reducible exact Keeps.refl _ | (with_reducible apply State.fset_keeps) | (fail_if_no_progress (with_reducible refine Keeps.upd ?_)) | split | (intro _ _ _) | (intro _ _) | dsimp only

theorem State.holdPointers_keeps {s₀ : State} {s : State}  (d : Nat) (e : Nat)  (hk : Keeps s₀ s) :
    Keeps s₀ (State.holdPointers s d e ) := by
  unfold State.holdPointers
  try dsimp only
  repeat' first | (with_reducible assumption) | with_reducible exact Keeps.refl _ | (with_reducible apply Keeps.foldl) | (with_reducible apply Keeps.foldl_fst) | (with_reducible apply Keeps.foldl_snd) | (fail_if_no_progress (with_reducible refine Keeps.upd ?_)) | (with_reducible apply Keeps.ite) | split | (intro _ _ _) | (intro _ _) | (with_reducible refine Keeps.snd (by with_reducible assumption) ?_) | (with_reducible refine Keeps.fst (by with_reducible assumption) ?_) | (with_reducible refine Keeps.snd2 (by with_reducible assumption) ?_) | (with_reducible refine Keeps.snd3 (by with_reducible assumption) ?_) | dsimp only

theorem State.xtake_keeps {s₀ : State} {s : State}  (d : Nat) (e : Nat) (v : Nat) (i : Nat) (x : XMsg)  (hk : Keeps s₀ s) :
    Keeps s₀ (State.xtake s d e v i x ) := by
  unfold State.xtake
  try dsimp only
  repeat' first | (with_reducible assumption) | with_reducible exact Keeps.refl _ | (with_reducible apply State.refillIn_keeps) | (fail_if_no_progress (with_reducible refine Keeps.upd ?_)) | (with_reducible apply Keeps.ite) | split | (intro _ _ _) | (intro _ _) | (with_reducible refine Keeps.snd (by with_reducible assumption) ?_) | (with_reducible refine Keeps.fst (by with_reducible assumption) ?_) | (with_reducible refine Keeps.snd2 (by with_reducible assumption) ?_) | (with_reducible refine Keeps.snd3 (by with_reducible assumption) ?_) | dsimp only

theorem State.setViral_keeps {s₀ : State} {s : State}   (x0 : List Nat) (hk : Keeps s₀ s) :
    Keeps s₀ (State.setViral s x0) := by
  induction x0 generalizing s with
  | nil =>
    unfold State.setViral
    try dsimp only
    repeat' first | (with_reducible assumption) | with_reducible exact Keeps.refl _ | (with_reducible apply ih) | (with_reducible apply State.flag_keeps) | (with_reducible apply State.setPortSt_keeps) | (with_reducible apply State.viral_keeps) | (fail_if_no_progress (with_reducible refine Keeps.upd ?_)) | split | (intro _ _ _) | (intro _ _) | dsimp only
  | cons _ _ ih =>
    unfold State.setViral
    try dsimp only
    repeat' first | (with_reducible assumption) | with_reducible exact Keeps.refl _ | (with_reducible apply ih) | (with_reducible apply State.flag_keeps) | (with_reducible apply State.setPortSt_keeps) | (with_reducible apply State.viral_keeps) | (fail_if_no_progress (with_reducible refine Keeps.upd ?_)) | split | (intro _ _ _) | (intro _ _) | dsimp only

theorem State.viral_keeps {s₀ : State} {s : State}  (p : Nat) (by_ : Nat)  (hk : Keeps s₀ s) :
    Keeps s₀ (State.viral s p by_ ) := by
  unfold State.viral
  try dsimp only
  repeat' first | (with_reducible assumption) | with_reducible exact Keeps.refl _ | (with_reducible apply ih) | (with_reducible apply State.setViral_keeps) | (with_reducible apply State.noticeLim_keeps) | (with_reducible apply Keeps.ite) | split | (intro _ _ _) | (intro _ _) | (with_reducible refine Keeps.snd (by with_reducible assumption) ?_) | (with_reducible refine Keeps.fst (by with_reducible assumption) ?_) | (with_reducible refine Keeps.snd2 (by with_reducible assumption) ?_) | (with_reducible refine Keeps.snd3 (by with_reducible assumption) ?_) | dsimp only

theorem State.sendToPort_keeps {s₀ : State} {s : State}  (d : Nat) (e : Nat) (m : Msg) (p : Nat)  (hk : Keeps s₀ s) :
    Keeps s₀ (State.sendToPort s d e m p ) := by
  unfold State.sendToPort
  try dsimp only
  repeat' first | (with_reducible assumption) | with_reducible exact Keeps.refl _ | (with_reducible apply State.inject_keeps) | split | (intro _ _ _) | (intro _ _) | dsimp only

theorem State.takeOut_keeps {s₀ s t : State} {d e v : Nat} {x : XMsg} (he : s.takeOut d e v = some (x, t))
    (h : Keeps s₀ s) : Keeps s₀ t := by
  unfold State.takeOut at he
  split at he
  · cases he
  · dsimp only at he
    simp only [Option.some.injEq, Prod.mk.injEq] at he
    rw [← he.2]
    exact State.count_keeps _ _ _ (Keeps.upd h)

theorem State.clearPortDown_keeps {s₀ : State} {s : State}  (p : Nat) (x0 : List Nat) (hk : Keeps s₀ s) :
    Keeps s₀ (State.clearPortDown s p x0) := by
  induction x0 generalizing s p with
  | nil =>
    unfold State.clearPortDown
    try dsimp only
    repeat' first | (with_reducible assumption) | with_reducible exact Keeps.refl _ | (with_reducible apply ih) | (with_reducible apply State.fsetBit_keeps) | (with_reducible apply Keeps.ite) | split | (intro _ _ _) | (intro _ _) | dsimp only
  | cons _ _ ih =>
    unfold State.clearPortDown
    try dsimp only
    repeat' first | (with_reducible assumption) | with_reducible exact Keeps.refl _ | (with_reducible apply ih) | (with_reducible apply State.fsetBit_keeps) | (with_reducible apply Keeps.ite) | split | (intro _ _ _) | (intro _ _) | dsimp only

theorem State.returnCredit_keeps {s₀ : State} {s : State}  (p : Nat) (m : Msg)  (hk : Keeps s₀ s) :
    Keeps s₀ (State.returnCredit s p m ) := by
  unfold State.returnCredit
  try dsimp only
  repeat' first | (with_reducible assumption) | with_reducible exact Keeps.refl _ | (with_reducible apply State.emit_keeps) | (with_reducible apply Keeps.ite) | split | (intro _ _ _) | (intro _ _) | dsimp only

theorem State.advertise_keeps {s₀ : State} {s : State}  (p : Nat) (cxl : Bool)  (hk : Keeps s₀ s) :
    Keeps s₀ (State.advertise s p cxl ) := by
  unfold State.advertise
  try dsimp only
  repeat' first | (with_reducible assumption) | with_reducible exact Keeps.refl _ | (with_reducible apply State.emit_keeps) | (with_reducible apply Keeps.foldl) | (with_reducible apply Keeps.foldl_fst) | (with_reducible apply Keeps.foldl_snd) | split | (intro _ _ _) | (intro _ _) | dsimp only

theorem State.offer_keeps {s₀ : State} {s : State}  (p : Nat) (t : Training)  (hk : Keeps s₀ s) :
    Keeps s₀ (State.offer s p t ) := by
  unfold State.offer
  try dsimp only
  repeat' first | (with_reducible assumption) | with_reducible exact Keeps.refl _ | (with_reducible apply State.setPortSt_keeps) | (with_reducible apply State.emit_keeps) | (fail_if_no_progress (with_reducible refine Keeps.upd ?_)) | (with_reducible apply Keeps.ite) | split | (intro _ _ _) | (intro _ _) | dsimp only

theorem doLinkUp_keeps {s₀ : State} {s : State}  (p : Nat) (t : Training)  (hk : Keeps s₀ s) :
    Keeps s₀ (doLinkUp p t s ) := by
  unfold doLinkUp
  try dsimp only
  repeat' first | (with_reducible assumption) | with_reducible exact Keeps.refl _ | (with_reducible apply State.advertise_keeps) | (with_reducible apply State.flag_keeps) | (with_reducible apply State.noticeLim_keeps) | (with_reducible apply State.offer_keeps) | (with_reducible apply State.clearPortDown_keeps) | (with_reducible apply State.csrSet_keeps) | (with_reducible apply Keeps.ite) | split | (intro _ _ _) | (intro _ _) | (with_reducible refine Keeps.snd (by with_reducible assumption) ?_) | (with_reducible refine Keeps.fst (by with_reducible assumption) ?_) | (with_reducible refine Keeps.snd2 (by with_reducible assumption) ?_) | (with_reducible refine Keeps.snd3 (by with_reducible assumption) ?_) | dsimp only

theorem doFlitModeAbsent_keeps {s₀ : State} {s : State}  (p : Nat)  (hk : Keeps s₀ s) :
    Keeps s₀ (doFlitModeAbsent p s ) := by
  unfold doFlitModeAbsent
  try dsimp only
  repeat' first | (with_reducible assumption) | with_reducible exact Keeps.refl _ | (with_reducible apply State.flag_keeps) | (with_reducible apply State.noticeLim_keeps) | (with_reducible apply State.csrSet_keeps) | (with_reducible apply Keeps.ite) | split | (intro _ _ _) | (intro _ _) | (with_reducible refine Keeps.snd (by with_reducible assumption) ?_) | (with_reducible refine Keeps.fst (by with_reducible assumption) ?_) | (with_reducible refine Keeps.snd2 (by with_reducible assumption) ?_) | (with_reducible refine Keeps.snd3 (by with_reducible assumption) ?_) | dsimp only

theorem doXrateOffer_keeps {s₀ : State} {s : State}  (p : Nat) (cap : Bool) (en : Bool) (inTime : Bool) (lowerPid : Bool)  (hk : Keeps s₀ s) :
    Keeps s₀ (doXrateOffer p cap en inTime lowerPid s ) := by
  unfold doXrateOffer
  try dsimp only
  repeat' first | (with_reducible assumption) | with_reducible exact Keeps.refl _ | (with_reducible apply State.fset_keeps) | (with_reducible apply State.setPortSt_keeps) | (fail_if_no_progress (with_reducible refine Keeps.upd ?_)) | (with_reducible apply Keeps.ite) | split | (intro _ _ _) | (intro _ _) | dsimp only

theorem State.xrateBack_keeps {s₀ : State} {s : State}  (p : Nat) (reason : Nat)  (hk : Keeps s₀ s) :
    Keeps s₀ (State.xrateBack s p reason ) := by
  unfold State.xrateBack
  try dsimp only
  repeat' first | (with_reducible assumption) | with_reducible exact Keeps.refl _ | (with_reducible apply State.fset_keeps) | (with_reducible apply State.flag_keeps) | (with_reducible apply State.setPortSt_keeps) | (with_reducible apply State.noticeLim_keeps) | (fail_if_no_progress (with_reducible refine Keeps.upd ?_)) | split | (intro _ _ _) | (intro _ _) | (with_reducible refine Keeps.snd (by with_reducible assumption) ?_) | (with_reducible refine Keeps.fst (by with_reducible assumption) ?_) | (with_reducible refine Keeps.snd2 (by with_reducible assumption) ?_) | (with_reducible refine Keeps.snd3 (by with_reducible assumption) ?_) | dsimp only

theorem doXrateFallback_keeps {s₀ : State} {s : State}  (p : Nat)  (hk : Keeps s₀ s) :
    Keeps s₀ (doXrateFallback p s ) := by
  unfold doXrateFallback
  try dsimp only
  repeat' first | (with_reducible assumption) | with_reducible exact Keeps.refl _ | (with_reducible apply State.xrateBack_keeps) | (with_reducible apply Keeps.ite) | split | (intro _ _ _) | (intro _ _) | dsimp only

theorem doXrateRecoveryFallback_keeps {s₀ : State} {s : State}  (p : Nat)  (hk : Keeps s₀ s) :
    Keeps s₀ (doXrateRecoveryFallback p s ) := by
  unfold doXrateRecoveryFallback
  try dsimp only
  repeat' first | (with_reducible assumption) | with_reducible exact Keeps.refl _ | (with_reducible apply State.xrateBack_keeps) | (with_reducible apply Keeps.ite) | split | (intro _ _ _) | (intro _ _) | dsimp only

theorem doLinkDown_keeps {s₀ : State} {s : State}  (p : Nat) (cause : DownCause)  (hk : Keeps s₀ s) :
    Keeps s₀ (doLinkDown p cause s ) := by
  unfold doLinkDown
  try dsimp only
  repeat' first | (with_reducible assumption) | with_reducible exact Keeps.refl _ | (with_reducible apply State.takeDown_keeps) | (with_reducible apply Keeps.ite) | split | (intro _ _ _) | (intro _ _) | dsimp only

theorem doViralEntry_keeps {s₀ : State} {s : State}  (p : Nat)  (hk : Keeps s₀ s) :
    Keeps s₀ (doViralEntry p s ) := by
  unfold doViralEntry
  try dsimp only
  repeat' first | (with_reducible assumption) | with_reducible exact Keeps.refl _ | (with_reducible apply State.viral_keeps) | (with_reducible apply Keeps.ite) | split | (intro _ _ _) | (intro _ _) | dsimp only

theorem State.takeDownAll_keeps {s₀ : State} {s : State}  (cause : Nat) (quiet : Bool) (x0 : List Nat) (hk : Keeps s₀ s) :
    Keeps s₀ (State.takeDownAll s cause quiet x0) := by
  induction x0 generalizing s cause quiet with
  | nil =>
    unfold State.takeDownAll
    try dsimp only
    repeat' first | (with_reducible assumption) | with_reducible exact Keeps.refl _ | (with_reducible apply ih) | (with_reducible apply State.takeDown_keeps) | split | (intro _ _ _) | (intro _ _) | dsimp only
  | cons _ _ ih =>
    unfold State.takeDownAll
    try dsimp only
    repeat' first | (with_reducible assumption) | with_reducible exact Keeps.refl _ | (with_reducible apply ih) | (with_reducible apply State.takeDown_keeps) | split | (intro _ _ _) | (intro _ _) | dsimp only

theorem doPerstAssert_keeps {s₀ s : State} (d g : Nat) (h : Keeps s₀ s) : Keeps s₀ (doPerstAssert d g s) := by
  unfold doPerstAssert
  split
  · exact h
  · have h1 : Keeps s₀ { s with perst := setBitN s.perst (2 * d + g) } := Keeps.upd h
    have h2 := State.resetCsr_keeps [.g] (isGw d g) (State.takeDownAll_keeps 1 false (gwPorts d g) h1)
    dsimp only
    split
    · exact Keeps.put (fun c => c.csr) (fun c => c.bankMem) (fun c => c.scratch) (fun c => c.frames)
        (fun _ => barReset_wf) (fun c => c.flash) (State.resetCsr_keeps _ _ h2)
    · exact h2

theorem doPerstDeassert_keeps {s₀ : State} {s : State}  (d : Nat) (g : Nat)  (hk : Keeps s₀ s) :
    Keeps s₀ (doPerstDeassert d g s ) := by
  unfold doPerstDeassert
  try dsimp only
  repeat' first | (with_reducible assumption) | with_reducible exact Keeps.refl _ | (fail_if_no_progress (with_reducible refine Keeps.upd ?_)) | split | (intro _ _ _) | (intro _ _) | dsimp only

theorem State.cfgAnswer_keeps {s₀ : State} {s : State}  (p : Nat) (l : LinkMsg)  (hk : Keeps s₀ s) :
    Keeps s₀ (State.cfgAnswer s p l ) := by
  unfold State.cfgAnswer
  try dsimp only
  repeat' first | (with_reducible assumption) | with_reducible exact Keeps.refl _ | (with_reducible apply State.msixFlush_keeps) | (with_reducible apply State.emit_keeps) | (fail_if_no_progress (with_reducible refine Keeps.upd ?_)) | (with_reducible apply Keeps.ite) | split | (intro _ _ _) | (intro _ _) | dsimp only

theorem State.shellAnswers_keeps {s₀ : State} {s : State}  (p : Nat) (l : LinkMsg)  (hk : Keeps s₀ s) :
    Keeps s₀ (State.shellAnswers s p l ) := by
  unfold State.shellAnswers
  try dsimp only
  repeat' first | (with_reducible assumption) | with_reducible exact Keeps.refl _ | (with_reducible apply State.emit_keeps) | (with_reducible apply State.cfgAnswer_keeps) | split | (intro _ _ _) | (intro _ _) | (with_reducible refine Keeps.snd (by with_reducible assumption) ?_) | (with_reducible refine Keeps.fst (by with_reducible assumption) ?_) | (with_reducible refine Keeps.snd2 (by with_reducible assumption) ?_) | (with_reducible refine Keeps.snd3 (by with_reducible assumption) ?_) | dsimp only

theorem State.shellTake_keeps {s₀ : State} {s : State}  (p : Nat) (l : LinkMsg)  (hk : Keeps s₀ s) :
    Keeps s₀ (State.shellTake s p l ) := by
  unfold State.shellTake
  try dsimp only
  repeat' first | (with_reducible assumption) | with_reducible exact Keeps.refl _ | (with_reducible apply State.noticeLim_keeps) | (with_reducible apply State.count_keeps) | (with_reducible apply State.shellAnswers_keeps) | (with_reducible apply State.flag_keeps) | (with_reducible apply State.returnCredit_keeps) | (fail_if_no_progress (with_reducible refine Keeps.upd ?_)) | (with_reducible apply Keeps.ite) | split | (intro _ _ _) | (intro _ _) | (with_reducible refine Keeps.snd (by with_reducible assumption) ?_) | (with_reducible refine Keeps.fst (by with_reducible assumption) ?_) | (with_reducible refine Keeps.snd2 (by with_reducible assumption) ?_) | (with_reducible refine Keeps.snd3 (by with_reducible assumption) ?_) | dsimp only

theorem State.shellTakeAll_keeps {s₀ : State} {s : State}  (p : Nat) (x0 : List LinkMsg) (hk : Keeps s₀ s) :
    Keeps s₀ (State.shellTakeAll s p x0) := by
  induction x0 generalizing s p with
  | nil =>
    unfold State.shellTakeAll
    try dsimp only
    repeat' first | (with_reducible assumption) | with_reducible exact Keeps.refl _ | (with_reducible apply ih) | (with_reducible apply State.shellTake_keeps) | split | (intro _ _ _) | (intro _ _) | dsimp only
  | cons _ _ ih =>
    unfold State.shellTakeAll
    try dsimp only
    repeat' first | (with_reducible assumption) | with_reducible exact Keeps.refl _ | (with_reducible apply ih) | (with_reducible apply State.shellTake_keeps) | split | (intro _ _ _) | (intro _ _) | dsimp only

theorem State.replayFlit_keeps {s₀ : State} {s : State}  (p : Nat)  (hk : Keeps s₀ s) :
    Keeps s₀ (State.replayFlit s p ) := by
  unfold State.replayFlit
  try dsimp only
  repeat' first | (with_reducible assumption) | with_reducible exact Keeps.refl _ | (with_reducible apply State.count_keeps) | (with_reducible apply State.flag_keeps) | (with_reducible apply State.noticeLim_keeps) | (fail_if_no_progress (with_reducible refine Keeps.upd ?_)) | (with_reducible apply Keeps.ite) | split | (intro _ _ _) | (intro _ _) | (with_reducible refine Keeps.snd (by with_reducible assumption) ?_) | (with_reducible refine Keeps.fst (by with_reducible assumption) ?_) | (with_reducible refine Keeps.snd2 (by with_reducible assumption) ?_) | (with_reducible refine Keeps.snd3 (by with_reducible assumption) ?_) | dsimp only

theorem doGatewayFlitReceive_keeps {s₀ : State} {s : State}  (p : Nat) (f : Flit)  (hk : Keeps s₀ s) :
    Keeps s₀ (doGatewayFlitReceive p f s ) := by
  unfold doGatewayFlitReceive
  try dsimp only
  repeat' first | (with_reducible assumption) | with_reducible exact Keeps.refl _ | (with_reducible apply State.count_keeps) | (with_reducible apply State.replayFlit_keeps) | (with_reducible apply State.shellTakeAll_keeps) | (with_reducible apply Keeps.ite) | split | (intro _ _ _) | (intro _ _) | dsimp only

theorem State.setBucket_keeps {s₀ : State} {s : State}  (d : Nat) (k : Nat) (c : Nat) (v : Int)  (hk : Keeps s₀ s) :
    Keeps s₀ (State.setBucket s d k c v ) := by
  unfold State.setBucket
  try dsimp only
  repeat' first | (with_reducible assumption) | with_reducible exact Keeps.refl _ | (with_reducible apply State.count_keeps) | (with_reducible apply State.fset_keeps) | split | (intro _ _ _) | (intro _ _) | dsimp only

theorem State.meterDebit_keeps {s₀ : State} {s : State}  (d : Nat) (k : Nat) (c : Nat) (v : Nat) (beats : Nat)  (hk : Keeps s₀ s) :
    Keeps s₀ (State.meterDebit s d k c v beats ) := by
  unfold State.meterDebit
  try dsimp only
  repeat' first | (with_reducible assumption) | with_reducible exact Keeps.refl _ | (with_reducible apply State.setBucket_keeps) | (with_reducible apply Keeps.ite) | split | (intro _ _ _) | (intro _ _) | dsimp only

theorem State.routeMiss_keeps {s₀ : State} {s : State}  (p : Nat) (route : Nat) (key : Nat) (m : Msg)  (hk : Keeps s₀ s) :
    Keeps s₀ (State.routeMiss s p route key m ) := by
  unfold State.routeMiss
  try dsimp only
  repeat' first | (with_reducible assumption) | with_reducible exact Keeps.refl _ | (with_reducible apply ih) | (with_reducible apply State.flag_keeps) | (with_reducible apply State.discard_keeps) | (with_reducible apply State.noticeLim_keeps) | split | (intro _ _ _) | (intro _ _) | (with_reducible refine Keeps.snd (by with_reducible assumption) ?_) | (with_reducible refine Keeps.fst (by with_reducible assumption) ?_) | (with_reducible refine Keeps.snd2 (by with_reducible assumption) ?_) | (with_reducible refine Keeps.snd3 (by with_reducible assumption) ?_) | dsimp only

theorem State.headRoute_keeps {s₀ : State} {s : State}  (p : Nat) (l : LinkMsg) (a : Action)  (hk : Keeps s₀ s) :
    Keeps s₀ (State.headRoute s p l a ) := by
  unfold State.headRoute
  try dsimp only
  repeat' first | (with_reducible assumption) | with_reducible exact Keeps.refl _ | (with_reducible apply State.routeMiss_keeps) | (with_reducible apply State.inject_keeps) | (with_reducible apply State.noticeLim_keeps) | (with_reducible apply State.sendToPort_keeps) | (with_reducible apply State.count_keeps) | (with_reducible apply State.flag_keeps) | (with_reducible apply Keeps.ite) | split | (intro _ _ _) | (intro _ _) | (with_reducible refine Keeps.snd (by with_reducible assumption) ?_) | (with_reducible refine Keeps.fst (by with_reducible assumption) ?_) | (with_reducible refine Keeps.snd2 (by with_reducible assumption) ?_) | (with_reducible refine Keeps.snd3 (by with_reducible assumption) ?_) | dsimp only

theorem State.popHead_keeps {s₀ : State} {s : State}  (p : Nat) (v : Nat) (l : LinkMsg)  (hk : Keeps s₀ s) :
    Keeps s₀ (State.popHead s p v l ) := by
  unfold State.popHead
  try dsimp only
  repeat' first | (with_reducible assumption) | with_reducible exact Keeps.refl _ | (with_reducible apply State.returnCredit_keeps) | (fail_if_no_progress (with_reducible refine Keeps.upd ?_)) | split | (intro _ _ _) | (intro _ _) | dsimp only

theorem doHeadgatePass_keeps {s₀ : State} {s : State}  (p : Nat) (vc : Vc)  (hk : Keeps s₀ s) :
    Keeps s₀ (doHeadgatePass p vc s ) := by
  unfold doHeadgatePass
  try dsimp only
  repeat' first | (with_reducible assumption) | with_reducible exact Keeps.refl _ | (with_reducible apply State.injectReply_keeps) | (with_reducible apply State.popHead_keeps) | (with_reducible apply State.headRoute_keeps) | (with_reducible apply State.meterDebit_keeps) | (with_reducible apply Keeps.ite) | split | (intro _ _ _) | (intro _ _) | (with_reducible refine Keeps.snd (by with_reducible assumption) ?_) | (with_reducible refine Keeps.fst (by with_reducible assumption) ?_) | (with_reducible refine Keeps.snd2 (by with_reducible assumption) ?_) | (with_reducible refine Keeps.snd3 (by with_reducible assumption) ?_) | dsimp only

theorem doCulvertBeatArrive_keeps {s₀ : State} {s : State}  (d : Nat) (c : Nat) (errs : List (List (Fin 3)))  (hk : Keeps s₀ s) :
    Keeps s₀ (doCulvertBeatArrive d c errs s ) := by
  unfold doCulvertBeatArrive
  try dsimp only
  repeat' first | (with_reducible assumption) | with_reducible exact Keeps.refl _ | (with_reducible refine State.takeOut_keeps (by with_reducible assumption) ?_) | (with_reducible apply State.noticeLim_keeps) | (with_reducible apply State.count_keeps) | (with_reducible apply State.injectX_keeps) | (fail_if_no_progress (with_reducible refine Keeps.upd ?_)) | (with_reducible apply Keeps.ite) | split | (intro _ _ _) | (intro _ _) | (with_reducible refine Keeps.snd (by with_reducible assumption) ?_) | (with_reducible refine Keeps.fst (by with_reducible assumption) ?_) | (with_reducible refine Keeps.snd2 (by with_reducible assumption) ?_) | (with_reducible refine Keeps.snd3 (by with_reducible assumption) ?_) | dsimp only

theorem doCulvertTrained_keeps {s₀ : State} {s : State}  (d : Nat) (c : Nat) (failTx : Nat) (failRx : Nat)  (hk : Keeps s₀ s) :
    Keeps s₀ (doCulvertTrained d c failTx failRx s ) := by
  unfold doCulvertTrained
  try dsimp only
  repeat' first | (with_reducible assumption) | with_reducible exact Keeps.refl _ | (with_reducible apply State.culvertDown_keeps) | (with_reducible apply State.fset_keeps) | (with_reducible apply State.noticeLim_keeps) | (with_reducible apply Keeps.ite) | split | (intro _ _ _) | (intro _ _) | (with_reducible refine Keeps.snd (by with_reducible assumption) ?_) | (with_reducible refine Keeps.fst (by with_reducible assumption) ?_) | (with_reducible refine Keeps.snd2 (by with_reducible assumption) ?_) | (with_reducible refine Keeps.snd3 (by with_reducible assumption) ?_) | dsimp only

theorem State.acceptFor_keeps {s₀ : State} {s : State}  (p : Nat) (m : Msg)  (hk : Keeps s₀ s) :
    Keeps s₀ (State.acceptFor s p m ) := by
  unfold State.acceptFor
  try dsimp only
  repeat' first | (with_reducible assumption) | with_reducible exact Keeps.refl _ | (with_reducible apply State.inject_keeps) | split | (intro _ _ _) | (intro _ _) | dsimp only

theorem doEgressAccept_keeps {s₀ : State} {s : State}  (p : Nat) (vc : Vc)  (hk : Keeps s₀ s) :
    Keeps s₀ (doEgressAccept p vc s ) := by
  unfold doEgressAccept
  try dsimp only
  repeat' first | (with_reducible assumption) | with_reducible exact Keeps.refl _ | (with_reducible refine State.takeOut_keeps (by with_reducible assumption) ?_) | (with_reducible apply State.draw_keeps) | (with_reducible apply State.emit_keeps) | (with_reducible apply State.acceptFor_keeps) | (fail_if_no_progress (with_reducible refine Keeps.upd ?_)) | (with_reducible apply Keeps.ite) | split | (intro _ _ _) | (intro _ _) | (with_reducible refine Keeps.snd (by with_reducible assumption) ?_) | (with_reducible refine Keeps.fst (by with_reducible assumption) ?_) | (with_reducible refine Keeps.snd2 (by with_reducible assumption) ?_) | (with_reducible refine Keeps.snd3 (by with_reducible assumption) ?_) | dsimp only

end Sys2Proof.Machine
end

