-- ==== Sys2Proof/Laws/KeepsDirectory.lean ====
section
/-! SUPPORT. What the operations of Sys2Proof/Machine/Directory.lean keep. -/

set_option linter.all false

namespace Sys2Proof.Machine

theorem State.clearSlice_keeps {s₀ : State} {s : State}  (d : Nat)  (hk : Keeps s₀ s) :
    Keeps s₀ (State.clearSlice s d ) := by
  unfold State.clearSlice
  try dsimp only
  repeat' first | (with_reducible assumption) | with_reducible exact Keeps.refl _ | (with_reducible apply State.noticeLim_keeps) | (fail_if_no_progress (with_reducible refine Keeps.upd ?_)) | (with_reducible apply Keeps.ite) | split | (intro _ _ _) | (intro _ _) | (with_reducible refine Keeps.snd (by with_reducible assumption) ?_) | (with_reducible refine Keeps.fst (by with_reducible assumption) ?_) | (with_reducible refine Keeps.snd2 (by with_reducible assumption) ?_) | (with_reducible refine Keeps.snd3 (by with_reducible assumption) ?_) | dsimp only

theorem State.setEntry_keeps {s₀ : State} {s : State}  (d : Nat) (set : Nat) (way : Nat) (e : BitVec 64)  (hk : Keeps s₀ s) :
    Keeps s₀ (State.setEntry s d set way e ) := by
  unfold State.setEntry
  try dsimp only
  repeat' first | (with_reducible assumption) | with_reducible exact Keeps.refl _ | (fail_if_no_progress (with_reducible refine Keeps.upd ?_)) | split | (intro _ _ _) | (intro _ _) | dsimp only

theorem State.viralAll_keeps {s₀ : State} {s : State}  (by_ : Nat) (x0 : List Nat) (hk : Keeps s₀ s) :
    Keeps s₀ (State.viralAll s by_ x0) := by
  induction x0 generalizing s by_ with
  | nil =>
    unfold State.viralAll
    try dsimp only
    repeat' first | (with_reducible assumption) | with_reducible exact Keeps.refl _ | (with_reducible apply ih) | (with_reducible apply State.viral_keeps) | (with_reducible apply Keeps.ite) | split | (intro _ _ _) | (intro _ _) | dsimp only
  | cons _ _ ih =>
    unfold State.viralAll
    try dsimp only
    repeat' first | (with_reducible assumption) | with_reducible exact Keeps.refl _ | (with_reducible apply ih) | (with_reducible apply State.viral_keeps) | (with_reducible apply Keeps.ite) | split | (intro _ _ _) | (intro _ _) | dsimp only

theorem State.eccWay_keeps {s₀ : State} {s : State}  (d : Nat) (set : Nat) (w : Nat)  (hk : Keeps s₀ s) :
    Keeps s₀ (State.eccWay s d set w ) := by
  unfold State.eccWay
  try dsimp only
  repeat' first | (with_reducible assumption) | with_reducible exact Keeps.refl _ | (with_reducible apply State.count_keeps) | (with_reducible apply State.noticeLim_keeps) | (with_reducible apply State.viralAll_keeps) | (with_reducible apply State.setEntry_keeps) | (with_reducible apply State.csrSet_keeps) | (with_reducible apply State.freeByte_keeps) | (fail_if_no_progress (with_reducible refine Keeps.upd ?_)) | (with_reducible apply Keeps.ite) | split | (intro _ _ _) | (intro _ _) | (with_reducible refine Keeps.snd (by with_reducible assumption) ?_) | (with_reducible refine Keeps.fst (by with_reducible assumption) ?_) | (with_reducible refine Keeps.snd2 (by with_reducible assumption) ?_) | (with_reducible refine Keeps.snd3 (by with_reducible assumption) ?_) | dsimp only

theorem State.eccSet_keeps {s₀ : State} {s : State}  (d : Nat) (set : Nat)  (hk : Keeps s₀ s) :
    Keeps s₀ (State.eccSet s d set ) := by
  unfold State.eccSet
  try dsimp only
  repeat' first | (with_reducible assumption) | with_reducible exact Keeps.refl _ | (with_reducible apply State.eccWay_keeps) | (with_reducible apply Keeps.foldl) | (with_reducible apply Keeps.foldl_fst) | (with_reducible apply Keeps.foldl_snd) | split | (intro _ _ _) | (intro _ _) | dsimp only

theorem State.setTxn_keeps {s₀ : State} {s : State}  (d : Nat) (t : Nat) (x : Txn)  (hk : Keeps s₀ s) :
    Keeps s₀ (State.setTxn s d t x ) := by
  unfold State.setTxn
  try dsimp only
  repeat' first | (with_reducible assumption) | with_reducible exact Keeps.refl _ | (fail_if_no_progress (with_reducible refine Keeps.upd ?_)) | split | (intro _ _ _) | (intro _ _) | dsimp only

theorem State.endTxn_keeps {s₀ : State} {s : State}  (d : Nat) (t : Nat)  (hk : Keeps s₀ s) :
    Keeps s₀ (State.endTxn s d t ) := by
  unfold State.endTxn
  try dsimp only
  repeat' first | (with_reducible assumption) | with_reducible exact Keeps.refl _ | (fail_if_no_progress (with_reducible refine Keeps.upd ?_)) | split | (intro _ _ _) | (intro _ _) | dsimp only

theorem State.dirRespond_keeps {s₀ : State} {s : State}  (d : Nat) (r : DirReq) (m : Msg)  (hk : Keeps s₀ s) :
    Keeps s₀ (State.dirRespond s d r m ) := by
  unfold State.dirRespond
  try dsimp only
  repeat' first | (with_reducible assumption) | with_reducible exact Keeps.refl _ | (with_reducible apply State.injectReply_keeps) | (with_reducible apply State.sendToPort_keeps) | (fail_if_no_progress (with_reducible refine Keeps.upd ?_)) | (with_reducible apply Keeps.ite) | split | (intro _ _ _) | (intro _ _) | (with_reducible refine Keeps.snd (by with_reducible assumption) ?_) | (with_reducible refine Keeps.fst (by with_reducible assumption) ?_) | (with_reducible refine Keeps.snd2 (by with_reducible assumption) ?_) | (with_reducible refine Keeps.snd3 (by with_reducible assumption) ?_) | dsimp only

theorem State.dirMem_keeps {s₀ : State} {s : State}  (d : Nat) (m : Msg)  (hk : Keeps s₀ s) :
    Keeps s₀ (State.dirMem s d m ) := by
  unfold State.dirMem
  try dsimp only
  repeat' first | (with_reducible assumption) | with_reducible exact Keeps.refl _ | (with_reducible apply State.sendToPort_keeps) | (with_reducible apply State.injectReply_keeps) | (with_reducible apply State.inject_keeps) | (with_reducible apply State.flag_keeps) | (with_reducible apply Keeps.ite) | split | (intro _ _ _) | (intro _ _) | dsimp only

theorem State.replay_keeps {s₀ : State} {s : State}  (d : Nat) (t : Nat) (x : Txn)  (hk : Keeps s₀ s) :
    Keeps s₀ (State.replay s d t x ) := by
  unfold State.replay
  try dsimp only
  repeat' first | (with_reducible assumption) | with_reducible exact Keeps.refl _ | (with_reducible apply State.count_keeps) | (with_reducible apply State.dirMem_keeps) | (with_reducible apply State.endTxn_keeps) | (with_reducible apply State.setEntry_keeps) | (fail_if_no_progress (with_reducible refine Keeps.upd ?_)) | (with_reducible apply Keeps.ite) | split | (intro _ _ _) | (intro _ _) | dsimp only

theorem State.lateArrive_keeps {s₀ : State} {s : State}  (d : Nat) (r : DirReq)  (hk : Keeps s₀ s) :
    Keeps s₀ (State.lateArrive s d r ).2 := by
  unfold State.lateArrive
  try dsimp only
  repeat' first | (with_reducible assumption) | with_reducible exact Keeps.refl _ | (with_reducible apply State.count_keeps) | (with_reducible apply State.noticeLim_keeps) | (fail_if_no_progress (with_reducible refine Keeps.upd ?_)) | split | (intro _ _ _) | (intro _ _) | (with_reducible refine Keeps.snd (by with_reducible assumption) ?_) | (with_reducible refine Keeps.fst (by with_reducible assumption) ?_) | (with_reducible refine Keeps.snd2 (by with_reducible assumption) ?_) | (with_reducible refine Keeps.snd3 (by with_reducible assumption) ?_) | dsimp only

theorem State.replayFor_keeps {s₀ : State} {s : State}  (d : Nat) (r : DirReq)  (hk : Keeps s₀ s) :
    Keeps s₀ (State.replayFor s d r ) := by
  unfold State.replayFor
  try dsimp only
  repeat' first | (with_reducible assumption) | with_reducible exact Keeps.refl _ | (with_reducible apply State.replay_keeps) | (with_reducible apply Keeps.ite) | split | (intro _ _ _) | (intro _ _) | (with_reducible refine Keeps.snd (by with_reducible assumption) ?_) | (with_reducible refine Keeps.fst (by with_reducible assumption) ?_) | (with_reducible refine Keeps.snd2 (by with_reducible assumption) ?_) | (with_reducible refine Keeps.snd3 (by with_reducible assumption) ?_) | dsimp only

theorem State.queueReq_keeps {s₀ : State} {s : State}  (d : Nat) (r : DirReq)  (hk : Keeps s₀ s) :
    Keeps s₀ (State.queueReq s d r ) := by
  unfold State.queueReq
  try dsimp only
  repeat' first | (with_reducible assumption) | with_reducible exact Keeps.refl _ | (fail_if_no_progress (with_reducible refine Keeps.upd ?_)) | split | (intro _ _ _) | (intro _ _) | dsimp only

theorem State.dirArrive_keeps {s₀ : State} {s : State}  (d : Nat) (m : Msg)  (hk : Keeps s₀ s) :
    Keeps s₀ (State.dirArrive s d m ) := by
  unfold State.dirArrive
  try dsimp only
  repeat' first | (with_reducible assumption) | with_reducible exact Keeps.refl _ | (with_reducible apply State.queueReq_keeps) | (with_reducible apply State.lateArrive_keeps) | (with_reducible apply State.dirRespond_keeps) | (with_reducible apply State.replayFor_keeps) | (with_reducible apply Keeps.ite) | split | (intro _ _ _) | (intro _ _) | (with_reducible refine Keeps.snd (by with_reducible assumption) ?_) | (with_reducible refine Keeps.fst (by with_reducible assumption) ?_) | (with_reducible refine Keeps.snd2 (by with_reducible assumption) ?_) | (with_reducible refine Keeps.snd3 (by with_reducible assumption) ?_) | dsimp only

theorem doDirRequestArrive_keeps {s₀ : State} {s : State}  (d : Nat) (vc : Vc)  (hk : Keeps s₀ s) :
    Keeps s₀ (doDirRequestArrive d vc s ) := by
  unfold doDirRequestArrive
  try dsimp only
  repeat' first | (with_reducible assumption) | with_reducible exact Keeps.refl _ | (with_reducible refine State.takeOut_keeps (by with_reducible assumption) ?_) | (with_reducible apply State.dirArrive_keeps) | (with_reducible apply Keeps.ite) | split | (intro _ _ _) | (intro _ _) | (with_reducible refine Keeps.snd (by with_reducible assumption) ?_) | (with_reducible refine Keeps.fst (by with_reducible assumption) ?_) | (with_reducible refine Keeps.snd2 (by with_reducible assumption) ?_) | (with_reducible refine Keeps.snd3 (by with_reducible assumption) ?_) | dsimp only

theorem State.stray_keeps {s₀ : State} {s : State}  (d : Nat) (r : DirReq) (entry : BitVec 64)  (hk : Keeps s₀ s) :
    Keeps s₀ (State.stray s d r entry ) := by
  unfold State.stray
  try dsimp only
  repeat' first | (with_reducible assumption) | with_reducible exact Keeps.refl _ | (with_reducible apply ih) | (with_reducible apply State.count_keeps) | (with_reducible apply State.dirRespond_keeps) | (with_reducible apply State.noticeLim_keeps) | split | (intro _ _ _) | (intro _ _) | (with_reducible refine Keeps.snd (by with_reducible assumption) ?_) | (with_reducible refine Keeps.fst (by with_reducible assumption) ?_) | (with_reducible refine Keeps.snd2 (by with_reducible assumption) ?_) | (with_reducible refine Keeps.snd3 (by with_reducible assumption) ?_) | dsimp only

theorem State.giveWay_keeps {s₀ s t : State} {d i : Nat} {x : Txn} (he : s.giveWay d i x = some t)
    (h : Keeps s₀ s) : Keeps s₀ t := by
  unfold State.giveWay at he
  dsimp only at he
  split at he
  · simp only [Option.some.injEq] at he
    rw [← he]
    exact State.setTxn_keeps _ _ _ (State.setEntry_keeps _ _ _ _ h)
  · split at he
    · cases he
    · simp only [Option.some.injEq] at he
      rw [← he]
      exact State.setTxn_keeps _ _ _ (State.setEntry_keeps _ _ _ _ (Keeps.upd h))

theorem State.walkWay_keeps {s₀ : State} {s : State}  (d : Nat) (set : Nat) (w : Nat) (q : WalkPort)  (hk : Keeps s₀ s) :
    Keeps s₀ (State.walkWay s d set w q ).1 := by
  unfold State.walkWay
  try dsimp only
  repeat' first | (with_reducible assumption) | with_reducible exact Keeps.refl _ | (with_reducible apply State.count_keeps) | (with_reducible apply State.setEntry_keeps) | (fail_if_no_progress (with_reducible refine Keeps.upd ?_)) | (with_reducible apply Keeps.ite) | (with_reducible apply Keeps.ite_snd) | (with_reducible apply Keeps.ite_fst) | split | (intro _ _ _) | (intro _ _) | (with_reducible refine Keeps.snd (by with_reducible assumption) ?_) | (with_reducible refine Keeps.fst (by with_reducible assumption) ?_) | (with_reducible refine Keeps.snd2 (by with_reducible assumption) ?_) | (with_reducible refine Keeps.snd3 (by with_reducible assumption) ?_) | dsimp only

theorem State.endPasses_keeps {s₀ s : State} (d next : Nat) (todo done : List WalkPort) (hk : Keeps s₀ s) :
    Keeps s₀ (s.endPasses d next todo done) := by
  induction todo generalizing s done with
  | nil =>
    unfold State.endPasses
    split
    · exact Keeps.upd hk
    · exact Keeps.upd hk
  | cons q qs ih =>
    unfold State.endPasses
    dsimp only
    split
    · refine ih _ ?_
      split
      · exact State.fsetBit_keeps _ _ _ _ (State.notice_keeps _ _ _ hk)
      · exact State.notice_keeps _ _ _ hk
    · exact ih _ hk

theorem State.walkDeferred_keeps {s₀ s : State} (d line set : Nat) (w : Option Nat) (todo done : List WalkPort)
    (hk : Keeps s₀ s) : Keeps s₀ (s.walkDeferred d line set w todo done).1 := by
  induction todo generalizing s done with
  | nil => exact hk
  | cons q qs ih =>
    unfold State.walkDeferred
    split
    · cases w with
      | none => exact ih _ hk
      | some w => exact ih _ (State.walkWay_keeps _ _ _ _ hk)
    · exact ih _ hk

theorem State.walkCommit_keeps {s₀ : State} {s : State}  (d : Nat) (line : Nat) (set : Nat) (w : Option Nat)  (hk : Keeps s₀ s) :
    Keeps s₀ (State.walkCommit s d line set w ) := by
  unfold State.walkCommit
  try dsimp only
  repeat' first | (with_reducible assumption) | with_reducible exact Keeps.refl _ | (with_reducible apply State.walkDeferred_keeps) | (with_reducible apply State.endPasses_keeps) | split | (intro _ _ _) | (intro _ _) | (with_reducible refine Keeps.snd (by with_reducible assumption) ?_) | (with_reducible refine Keeps.fst (by with_reducible assumption) ?_) | (with_reducible refine Keeps.snd2 (by with_reducible assumption) ?_) | (with_reducible refine Keeps.snd3 (by with_reducible assumption) ?_) | dsimp only

theorem State.startTxn_keeps {s₀ : State} {s : State}  (d : Nat) (t : Nat) (r : DirReq)  (hk : Keeps s₀ s) :
    Keeps s₀ (State.startTxn s d t r ) := by
  unfold State.startTxn
  try dsimp only
  repeat' first | (with_reducible assumption) | with_reducible exact Keeps.refl _ | (with_reducible refine State.giveWay_keeps (by with_reducible assumption) ?_) | (with_reducible apply State.walkCommit_keeps) | (with_reducible apply State.dirMem_keeps) | (with_reducible apply State.setEntry_keeps) | (with_reducible apply State.stray_keeps) | (with_reducible apply State.setTxn_keeps) | (with_reducible apply State.eccSet_keeps) | (fail_if_no_progress (with_reducible refine Keeps.upd ?_)) | (with_reducible apply Keeps.ite) | split | (intro _ _ _) | (intro _ _) | (with_reducible refine Keeps.snd (by with_reducible assumption) ?_) | (with_reducible refine Keeps.fst (by with_reducible assumption) ?_) | (with_reducible refine Keeps.snd2 (by with_reducible assumption) ?_) | (with_reducible refine Keeps.snd3 (by with_reducible assumption) ?_) | dsimp only

theorem doDirTxnStart_keeps {s₀ s : State} (d : Nat) (hk : Keeps s₀ s) : Keeps s₀ (doDirTxnStart d s) := by
  unfold doDirTxnStart
  split
  · exact hk
  · split
    · rename_i t x _
      cases he : s.giveWay d t x with
      | none => exact hk
      | some t' => exact State.giveWay_keeps he hk
    · split
      · exact State.startTxn_keeps _ _ _ (Keeps.upd hk)
      · exact hk

theorem doDirSnoopIssue_keeps {s₀ : State} {s : State}  (d : Nat) (t : Nat) (p : Nat)  (hk : Keeps s₀ s) :
    Keeps s₀ (doDirSnoopIssue d t p s ) := by
  unfold doDirSnoopIssue
  try dsimp only
  repeat' first | (with_reducible assumption) | with_reducible exact Keeps.refl _ | (with_reducible apply State.sendToPort_keeps) | (with_reducible apply State.setTxn_keeps) | (fail_if_no_progress (with_reducible refine Keeps.upd ?_)) | (with_reducible apply Keeps.ite) | split | (intro _ _ _) | (intro _ _) | (with_reducible refine Keeps.snd (by with_reducible assumption) ?_) | (with_reducible refine Keeps.fst (by with_reducible assumption) ?_) | (with_reducible refine Keeps.snd2 (by with_reducible assumption) ?_) | (with_reducible refine Keeps.snd3 (by with_reducible assumption) ?_) | dsimp only

theorem State.snoopAnswer_keeps {s₀ : State} {s : State}  (d : Nat) (t : Nat) (x : Txn) (m : Msg)  (hk : Keeps s₀ s) :
    Keeps s₀ (State.snoopAnswer s d t x m ) := by
  unfold State.snoopAnswer
  try dsimp only
  repeat' first | (with_reducible assumption) | with_reducible exact Keeps.refl _ | (with_reducible apply State.setTxn_keeps) | (with_reducible apply State.dirMem_keeps) | (fail_if_no_progress (with_reducible refine Keeps.upd ?_)) | (with_reducible apply Keeps.ite) | split | (intro _ _ _) | (intro _ _) | (with_reducible refine Keeps.snd (by with_reducible assumption) ?_) | (with_reducible refine Keeps.fst (by with_reducible assumption) ?_) | (with_reducible refine Keeps.snd2 (by with_reducible assumption) ?_) | (with_reducible refine Keeps.snd3 (by with_reducible assumption) ?_) | dsimp only

theorem State.absorb_keeps {s₀ : State} {s : State}  (d : Nat) (o : Orphan) (m : Msg)  (hk : Keeps s₀ s) :
    Keeps s₀ (State.absorb s d o m ) := by
  unfold State.absorb
  try dsimp only
  repeat' first | (with_reducible assumption) | with_reducible exact Keeps.refl _ | (with_reducible apply State.dirMem_keeps) | (fail_if_no_progress (with_reducible refine Keeps.upd ?_)) | (with_reducible apply Keeps.ite) | split | (intro _ _ _) | (intro _ _) | dsimp only

theorem doDirSnoopResponse_keeps {s₀ : State} {s : State}  (d : Nat) (vc : Vc)  (hk : Keeps s₀ s) :
    Keeps s₀ (doDirSnoopResponse d vc s ) := by
  unfold doDirSnoopResponse
  try dsimp only
  repeat' first | (with_reducible assumption) | with_reducible exact Keeps.refl _ | (with_reducible refine State.takeOut_keeps (by with_reducible assumption) ?_) | (with_reducible apply State.absorb_keeps) | (with_reducible apply State.snoopAnswer_keeps) | (with_reducible apply Keeps.ite) | split | (intro _ _ _) | (intro _ _) | (with_reducible refine Keeps.snd (by with_reducible assumption) ?_) | (with_reducible refine Keeps.fst (by with_reducible assumption) ?_) | (with_reducible refine Keeps.snd2 (by with_reducible assumption) ?_) | (with_reducible refine Keeps.snd3 (by with_reducible assumption) ?_) | dsimp only

theorem doDirMemoryData_keeps {s₀ : State} {s : State}  (d : Nat)  (hk : Keeps s₀ s) :
    Keeps s₀ (doDirMemoryData d s ) := by
  unfold doDirMemoryData
  try dsimp only
  repeat' first | (with_reducible assumption) | with_reducible exact Keeps.refl _ | (with_reducible refine State.takeOut_keeps (by with_reducible assumption) ?_) | (with_reducible apply State.setTxn_keeps) | (with_reducible apply State.absorb_keeps) | (fail_if_no_progress (with_reducible refine Keeps.upd ?_)) | (with_reducible apply Keeps.ite) | split | (intro _ _ _) | (intro _ _) | (with_reducible refine Keeps.snd (by with_reducible assumption) ?_) | (with_reducible refine Keeps.fst (by with_reducible assumption) ?_) | (with_reducible refine Keeps.snd2 (by with_reducible assumption) ?_) | (with_reducible refine Keeps.snd3 (by with_reducible assumption) ?_) | dsimp only

theorem State.commit_keeps {s₀ : State} {s : State}  (d : Nat) (t : Nat) (x : Txn)  (hk : Keeps s₀ s) :
    Keeps s₀ (State.commit s d t x ) := by
  unfold State.commit
  try dsimp only
  repeat' first | (with_reducible assumption) | with_reducible exact Keeps.refl _ | (with_reducible apply State.dirMem_keeps) | (with_reducible apply State.walkCommit_keeps) | (with_reducible apply State.endTxn_keeps) | (with_reducible apply State.dirRespond_keeps) | (with_reducible apply State.setEntry_keeps) | (fail_if_no_progress (with_reducible refine Keeps.upd ?_)) | (with_reducible apply Keeps.ite) | split | (intro _ _ _) | (intro _ _) | (with_reducible refine Keeps.snd (by with_reducible assumption) ?_) | (with_reducible refine Keeps.fst (by with_reducible assumption) ?_) | (with_reducible refine Keeps.snd2 (by with_reducible assumption) ?_) | (with_reducible refine Keeps.snd3 (by with_reducible assumption) ?_) | dsimp only

theorem doDirCommit_keeps {s₀ : State} {s : State}  (d : Nat) (t : Nat)  (hk : Keeps s₀ s) :
    Keeps s₀ (doDirCommit d t s ) := by
  unfold doDirCommit
  try dsimp only
  repeat' first | (with_reducible assumption) | with_reducible exact Keeps.refl _ | (with_reducible apply State.commit_keeps) | (with_reducible apply Keeps.ite) | split | (intro _ _ _) | (intro _ _) | dsimp only

theorem doSetWaitTimeout_keeps {s₀ : State} {s : State}  (d : Nat) (t : Nat)  (hk : Keeps s₀ s) :
    Keeps s₀ (doSetWaitTimeout d t s ) := by
  unfold doSetWaitTimeout
  try dsimp only
  repeat' first | (with_reducible assumption) | with_reducible exact Keeps.refl _ | (with_reducible apply State.walkCommit_keeps) | (with_reducible apply State.endTxn_keeps) | (with_reducible apply State.noticeLim_keeps) | (with_reducible apply State.count_keeps) | (with_reducible apply State.dirRespond_keeps) | (with_reducible apply State.emit_keeps) | (fail_if_no_progress (with_reducible refine Keeps.upd ?_)) | (with_reducible apply Keeps.ite) | split | (intro _ _ _) | (intro _ _) | (with_reducible refine Keeps.snd (by with_reducible assumption) ?_) | (with_reducible refine Keeps.fst (by with_reducible assumption) ?_) | (with_reducible refine Keeps.snd2 (by with_reducible assumption) ?_) | (with_reducible refine Keeps.snd3 (by with_reducible assumption) ?_) | dsimp only

theorem doDirPortDown_keeps {s₀ : State} {s : State}  (d : Nat) (p : Nat)  (hk : Keeps s₀ s) :
    Keeps s₀ (doDirPortDown d p s ) := by
  unfold doDirPortDown
  try dsimp only
  repeat' first | (with_reducible assumption) | with_reducible exact Keeps.refl _ | (with_reducible refine State.takeOut_keeps (by with_reducible assumption) ?_) | (with_reducible apply State.fsetBit_keeps) | (fail_if_no_progress (with_reducible refine Keeps.upd ?_)) | (with_reducible apply Keeps.ite) | split | (intro _ _ _) | (intro _ _) | (with_reducible refine Keeps.snd (by with_reducible assumption) ?_) | (with_reducible refine Keeps.fst (by with_reducible assumption) ?_) | (with_reducible refine Keeps.snd2 (by with_reducible assumption) ?_) | (with_reducible refine Keeps.snd3 (by with_reducible assumption) ?_) | dsimp only

theorem State.walkOne_keeps {s₀ s : State} (d set w : Nat) (todo done : List WalkPort) (hk : Keeps s₀ s) :
    Keeps s₀ (s.walkOne d set w todo done).1 := by
  induction todo generalizing s done with
  | nil => exact hk
  | cons q qs ih =>
    unfold State.walkOne
    split
    · exact ih _ hk
    · exact ih _ (State.walkWay_keeps _ _ _ _ hk)

theorem doDirWalkSet_keeps {s₀ s : State} (d : Nat) (hk : Keeps s₀ s) : Keeps s₀ (doDirWalkSet d s) := by
  unfold doDirWalkSet
  split
  · exact hk
  · split
    · exact hk
    · dsimp only
      with_reducible apply State.endPasses_keeps
      with_reducible apply Keeps.foldl_fst
      · dsimp only
        with_reducible exact State.eccSet_keeps _ _ hk
      · intro _ _ h
        with_reducible exact State.walkOne_keeps _ _ _ _ _ h

end Sys2Proof.Machine
end

