-- ==== Sys2Proof/Laws/KeepsDitches.lean ====
section
/-! SUPPORT. What the operations of Sys2Proof/Machine/Ditches.lean keep. -/

set_option linter.all false

namespace Sys2Proof.Machine

theorem State.clearDitches_keeps {s₀ : State} {s : State}  (d : Nat)  (hk : Keeps s₀ s) :
    Keeps s₀ (State.clearDitches s d ) := by
  unfold State.clearDitches
  try dsimp only
  repeat' first | (with_reducible assumption) | with_reducible exact Keeps.refl _ | (fail_if_no_progress (with_reducible refine Keeps.upd ?_)) | split | (intro _ _ _) | (intro _ _) | (with_reducible refine Keeps.snd (by with_reducible assumption) ?_) | (with_reducible refine Keeps.fst (by with_reducible assumption) ?_) | (with_reducible refine Keeps.snd2 (by with_reducible assumption) ?_) | (with_reducible refine Keeps.snd3 (by with_reducible assumption) ?_) | dsimp only

theorem State.setDitch_keeps {s₀ : State} {s : State}  (d : Nat) (q : Nat) (x : DitchSt)  (hk : Keeps s₀ s) :
    Keeps s₀ (State.setDitch s d q x ) := by
  unfold State.setDitch
  try dsimp only
  repeat' first | (with_reducible assumption) | with_reducible exact Keeps.refl _ | (fail_if_no_progress (with_reducible refine Keeps.upd ?_)) | split | (intro _ _ _) | (intro _ _) | dsimp only

theorem State.weirEdge_keeps {s₀ : State} {s : State}  (d : Nat) (q : Nat) (edge : Nat) (level : Nat) (b : Bool)  (hk : Keeps s₀ s) :
    Keeps s₀ (State.weirEdge s d q edge level b ) := by
  unfold State.weirEdge
  try dsimp only
  repeat' first | (with_reducible assumption) | with_reducible exact Keeps.refl _ | (with_reducible apply State.count_keeps) | (with_reducible apply State.notice_keeps) | (with_reducible apply State.fsetBit_keeps) | (with_reducible apply Keeps.ite) | split | (intro _ _ _) | (intro _ _) | (with_reducible refine Keeps.snd (by with_reducible assumption) ?_) | (with_reducible refine Keeps.fst (by with_reducible assumption) ?_) | (with_reducible refine Keeps.snd2 (by with_reducible assumption) ?_) | (with_reducible refine Keeps.snd3 (by with_reducible assumption) ?_) | dsimp only

theorem State.ditchLevel_keeps {s₀ : State} {s : State}  (d : Nat) (q : Nat)  (hk : Keeps s₀ s) :
    Keeps s₀ (State.ditchLevel s d q ) := by
  unfold State.ditchLevel
  try dsimp only
  repeat' first | (with_reducible assumption) | with_reducible exact Keeps.refl _ | (with_reducible apply State.setDitch_keeps) | (with_reducible apply State.weirEdge_keeps) | (fail_if_no_progress (with_reducible refine Keeps.upd ?_)) | split | (intro _ _ _) | (intro _ _) | (with_reducible refine Keeps.snd (by with_reducible assumption) ?_) | (with_reducible refine Keeps.fst (by with_reducible assumption) ?_) | (with_reducible refine Keeps.snd2 (by with_reducible assumption) ?_) | (with_reducible refine Keeps.snd3 (by with_reducible assumption) ?_) | dsimp only

theorem State.ditchEnd_keeps {s₀ : State} {s : State}  (d : Nat) (q : Nat)  (hk : Keeps s₀ s) :
    Keeps s₀ (State.ditchEnd s d q ) := by
  unfold State.ditchEnd
  try dsimp only
  repeat' first | (with_reducible assumption) | with_reducible exact Keeps.refl _ | (with_reducible apply State.ditchLevel_keeps) | (with_reducible apply State.setDitch_keeps) | (fail_if_no_progress (with_reducible refine Keeps.upd ?_)) | (with_reducible apply Keeps.ite) | split | (intro _ _ _) | (intro _ _) | dsimp only

theorem State.ditchTurn_keeps {s₀ : State} {s : State}  (d : Nat) (q : Nat) (step : Nat)  (hk : Keeps s₀ s) :
    Keeps s₀ (State.ditchTurn s d q step ) := by
  unfold State.ditchTurn
  try dsimp only
  repeat' first | (with_reducible assumption) | with_reducible exact Keeps.refl _ | (with_reducible apply State.setDitch_keeps) | (with_reducible apply State.ditchEnd_keeps) | (fail_if_no_progress (with_reducible refine Keeps.upd ?_)) | (with_reducible apply Keeps.ite) | split | (intro _ _ _) | (intro _ _) | dsimp only

theorem doDitchFlush_keeps {s₀ : State} {s : State}  (d : Nat) (q : Nat)  (hk : Keeps s₀ s) :
    Keeps s₀ (doDitchFlush d q s ) := by
  unfold doDitchFlush
  try dsimp only
  repeat' first | (with_reducible assumption) | with_reducible exact Keeps.refl _ | (with_reducible apply State.ditchTurn_keeps) | (with_reducible apply State.setDitch_keeps) | (fail_if_no_progress (with_reducible refine Keeps.upd ?_)) | (with_reducible apply Keeps.ite) | split | (intro _ _ _) | (intro _ _) | (with_reducible refine Keeps.snd (by with_reducible assumption) ?_) | (with_reducible refine Keeps.fst (by with_reducible assumption) ?_) | (with_reducible refine Keeps.snd2 (by with_reducible assumption) ?_) | (with_reducible refine Keeps.snd3 (by with_reducible assumption) ?_) | dsimp only

theorem doDqWeirWrite_keeps {s₀ : State} {s : State}  (d : Nat) (q : Nat) (v : Word)  (hk : Keeps s₀ s) :
    Keeps s₀ (doDqWeirWrite d q v s ) := by
  unfold doDqWeirWrite
  try dsimp only
  repeat' first | (with_reducible assumption) | with_reducible exact Keeps.refl _ | (with_reducible apply State.fset_keeps) | (with_reducible apply State.setDitch_keeps) | (fail_if_no_progress (with_reducible refine Keeps.upd ?_)) | (with_reducible apply Keeps.ite) | split | (intro _ _ _) | (intro _ _) | (with_reducible refine Keeps.snd (by with_reducible assumption) ?_) | (with_reducible refine Keeps.fst (by with_reducible assumption) ?_) | (with_reducible refine Keeps.snd2 (by with_reducible assumption) ?_) | (with_reducible refine Keeps.snd3 (by with_reducible assumption) ?_) | dsimp only

theorem State.ditchPop_keeps {s₀ : State} {s : State}  (d : Nat) (q : Nat) (consumer : Nat)  (hk : Keeps s₀ s) :
    Keeps s₀ (State.ditchPop s d q consumer ).2.2 := by
  unfold State.ditchPop
  try dsimp only
  repeat' first | (with_reducible assumption) | with_reducible exact Keeps.refl _ | (with_reducible apply State.count_keeps) | (with_reducible apply State.setDitch_keeps) | (with_reducible apply State.noticeLim_keeps) | (fail_if_no_progress (with_reducible refine Keeps.upd ?_)) | (with_reducible apply Keeps.ite) | (with_reducible apply Keeps.ite_snd) | (with_reducible apply Keeps.ite_fst) | split | (intro _ _ _) | (intro _ _) | (with_reducible refine Keeps.snd (by with_reducible assumption) ?_) | (with_reducible refine Keeps.fst (by with_reducible assumption) ?_) | (with_reducible refine Keeps.snd2 (by with_reducible assumption) ?_) | (with_reducible refine Keeps.snd3 (by with_reducible assumption) ?_) | dsimp only

theorem State.ditchPush_keeps {s₀ : State} {s : State}  (d : Nat) (q : Nat) (i : DitchItem)  (hk : Keeps s₀ s) :
    Keeps s₀ (State.ditchPush s d q i ) := by
  unfold State.ditchPush
  try dsimp only
  repeat' first | (with_reducible assumption) | with_reducible exact Keeps.refl _ | (with_reducible apply State.count_keeps) | (with_reducible apply State.setDitch_keeps) | (with_reducible apply State.noticeLim_keeps) | (with_reducible apply Keeps.ite) | split | (intro _ _ _) | (intro _ _) | (with_reducible refine Keeps.snd (by with_reducible assumption) ?_) | (with_reducible refine Keeps.fst (by with_reducible assumption) ?_) | (with_reducible refine Keeps.snd2 (by with_reducible assumption) ?_) | (with_reducible refine Keeps.snd3 (by with_reducible assumption) ?_) | dsimp only

theorem doDitchFabricPush_keeps {s₀ : State} {s : State}  (d : Nat) (q : Nat) (i : DitchItem)  (hk : Keeps s₀ s) :
    Keeps s₀ (doDitchFabricPush d q i s ) := by
  unfold doDitchFabricPush
  try dsimp only
  repeat' first | (with_reducible assumption) | with_reducible exact Keeps.refl _ | (with_reducible apply State.ditchPush_keeps) | (with_reducible apply State.ditchTurn_keeps) | (with_reducible apply Keeps.ite) | split | (intro _ _ _) | (intro _ _) | dsimp only

theorem doDitchFabricPop_keeps {s₀ : State} {s : State}  (d : Nat) (q : Nat)  (hk : Keeps s₀ s) :
    Keeps s₀ (doDitchFabricPop d q s ) := by
  unfold doDitchFabricPop
  try dsimp only
  repeat' first | (with_reducible assumption) | with_reducible exact Keeps.refl _ | (with_reducible apply State.ditchPop_keeps) | (with_reducible apply State.toFabric_keeps) | (with_reducible apply State.ditchTurn_keeps) | (with_reducible apply Keeps.ite) | split | (intro _ _ _) | (intro _ _) | (with_reducible refine Keeps.snd (by with_reducible assumption) ?_) | (with_reducible refine Keeps.fst (by with_reducible assumption) ?_) | (with_reducible refine Keeps.snd2 (by with_reducible assumption) ?_) | (with_reducible refine Keeps.snd3 (by with_reducible assumption) ?_) | dsimp only

theorem doDitchEnginePush_keeps {s₀ : State} {s : State}  (d : Nat) (q : Nat)  (hk : Keeps s₀ s) :
    Keeps s₀ (doDitchEnginePush d q s ) := by
  unfold doDitchEnginePush
  try dsimp only
  repeat' first | (with_reducible assumption) | with_reducible exact Keeps.refl _ | (with_reducible apply State.setEng_keeps) | (with_reducible apply State.ditchPush_keeps) | (with_reducible apply State.ditchTurn_keeps) | (fail_if_no_progress (with_reducible refine Keeps.upd ?_)) | (with_reducible apply Keeps.ite) | split | (intro _ _ _) | (intro _ _) | (with_reducible refine Keeps.snd (by with_reducible assumption) ?_) | (with_reducible refine Keeps.fst (by with_reducible assumption) ?_) | (with_reducible refine Keeps.snd2 (by with_reducible assumption) ?_) | (with_reducible refine Keeps.snd3 (by with_reducible assumption) ?_) | dsimp only

end Sys2Proof.Machine
end

