-- ==== Sys2Proof/Laws/KeepsFabric.lean ====
section
/-! SUPPORT. What the operations of Sys2Proof/Machine/Fabric.lean keep. -/

set_option linter.all false

namespace Sys2Proof.Machine

theorem State.dropBeats_keeps {s₀ : State} {s : State}  (d : Nat) (r : Nat)  (hk : Keeps s₀ s) :
    Keeps s₀ (State.dropBeats s d r ) := by
  unfold State.dropBeats
  try dsimp only
  repeat' first | (with_reducible assumption) | with_reducible exact Keeps.refl _ | (with_reducible apply State.count_keeps) | (with_reducible apply Keeps.foldl) | (with_reducible apply Keeps.foldl_fst) | (with_reducible apply Keeps.foldl_snd) | (fail_if_no_progress (with_reducible refine Keeps.upd ?_)) | split | (intro _ _ _) | (intro _ _) | (with_reducible refine Keeps.snd (by with_reducible assumption) ?_) | (with_reducible refine Keeps.fst (by with_reducible assumption) ?_) | (with_reducible refine Keeps.snd2 (by with_reducible assumption) ?_) | (with_reducible refine Keeps.snd3 (by with_reducible assumption) ?_) | dsimp only

theorem State.rewriteEnd_keeps {s₀ : State} {s : State}  (d : Nat) (st : Nat)  (hk : Keeps s₀ s) :
    Keeps s₀ (State.rewriteEnd s d st ) := by
  unfold State.rewriteEnd
  try dsimp only
  repeat' first | (with_reducible assumption) | with_reducible exact Keeps.refl _ | (with_reducible apply State.fset_keeps) | (fail_if_no_progress (with_reducible refine Keeps.upd ?_)) | split | (intro _ _ _) | (intro _ _) | dsimp only

theorem State.cancelRewrite_keeps {s₀ : State} {s : State}  (d : Nat) (p : Rewrite → Bool)  (hk : Keeps s₀ s) :
    Keeps s₀ (State.cancelRewrite s d p ) := by
  unfold State.cancelRewrite
  try dsimp only
  repeat' first | (with_reducible assumption) | with_reducible exact Keeps.refl _ | (with_reducible apply State.rewriteEnd_keeps) | (with_reducible apply Keeps.ite) | split | (intro _ _ _) | (intro _ _) | dsimp only

theorem doEntryRewriteGo_keeps {s₀ : State} {s : State}  (d : Nat) (hi : BitVec 8)  (hk : Keeps s₀ s) :
    Keeps s₀ (doEntryRewriteGo d hi s ) := by
  unfold doEntryRewriteGo
  try dsimp only
  repeat' first | (with_reducible assumption) | with_reducible exact Keeps.refl _ | (with_reducible apply State.fset_keeps) | (fail_if_no_progress (with_reducible refine Keeps.upd ?_)) | (with_reducible apply Keeps.ite) | split | (intro _ _ _) | (intro _ _) | (with_reducible refine Keeps.snd (by with_reducible assumption) ?_) | (with_reducible refine Keeps.fst (by with_reducible assumption) ?_) | (with_reducible refine Keeps.snd2 (by with_reducible assumption) ?_) | (with_reducible refine Keeps.snd3 (by with_reducible assumption) ?_) | dsimp only

theorem doFabselWrite_keeps {s₀ : State} {s : State}  (d : Nat) (r : Nat) (sel : Nat)  (hk : Keeps s₀ s) :
    Keeps s₀ (doFabselWrite d r sel s ) := by
  unfold doFabselWrite
  try dsimp only
  repeat' first | (with_reducible assumption) | with_reducible exact Keeps.refl _ | (with_reducible apply State.fset_keeps) | (with_reducible apply State.flag_keeps) | (with_reducible apply Keeps.ite) | split | (intro _ _ _) | (intro _ _) | dsimp only

theorem doUioDlyWrite_keeps {s₀ : State} {s : State}  (d : Nat) (p : Nat) (v : Word)  (hk : Keeps s₀ s) :
    Keeps s₀ (doUioDlyWrite d p v s ) := by
  unfold doUioDlyWrite
  try dsimp only
  repeat' first | (with_reducible assumption) | with_reducible exact Keeps.refl _ | (with_reducible apply State.fset_keeps) | (with_reducible apply Keeps.ite) | split | (intro _ _ _) | (intro _ _) | dsimp only

theorem State.pllStop_keeps {s₀ : State} {s : State}  (d : Nat) (f : Nat)  (hk : Keeps s₀ s) :
    Keeps s₀ (State.pllStop s d f ) := by
  unfold State.pllStop
  try dsimp only
  repeat' first | (with_reducible assumption) | with_reducible exact Keeps.refl _ | (with_reducible apply State.fset_keeps) | split | (intro _ _ _) | (intro _ _) | dsimp only

theorem doFabPllWrite_keeps {s₀ : State} {s : State}  (d : Nat) (f : Nat) (v : Word)  (hk : Keeps s₀ s) :
    Keeps s₀ (doFabPllWrite d f v s ) := by
  unfold doFabPllWrite
  try dsimp only
  repeat' first | (with_reducible assumption) | with_reducible exact Keeps.refl _ | (with_reducible apply State.pllStop_keeps) | (with_reducible apply State.flag_keeps) | (with_reducible apply State.csrSet_keeps) | (with_reducible apply Keeps.ite) | split | (intro _ _ _) | (intro _ _) | dsimp only

theorem State.setUsp_keeps {s₀ : State} {s : State}  (d : Nat) (u : Nat) (x : UspSt)  (hk : Keeps s₀ s) :
    Keeps s₀ (State.setUsp s d u x ) := by
  unfold State.setUsp
  try dsimp only
  repeat' first | (with_reducible assumption) | with_reducible exact Keeps.refl _ | (fail_if_no_progress (with_reducible refine Keeps.upd ?_)) | split | (intro _ _ _) | (intro _ _) | dsimp only

theorem State.uspQueue_keeps {s₀ : State} {s : State}  (d : Nat) (u : Nat) (v : BitVec 16) (fab : Bool)  (hk : Keeps s₀ s) :
    Keeps s₀ (State.uspQueue s d u v fab ) := by
  unfold State.uspQueue
  try dsimp only
  repeat' first | (with_reducible assumption) | with_reducible exact Keeps.refl _ | (with_reducible apply State.flag_keeps) | (with_reducible apply State.setUsp_keeps) | (fail_if_no_progress (with_reducible refine Keeps.upd ?_)) | (with_reducible apply Keeps.ite) | split | (intro _ _ _) | (intro _ _) | (with_reducible refine Keeps.snd (by with_reducible assumption) ?_) | (with_reducible refine Keeps.fst (by with_reducible assumption) ?_) | (with_reducible refine Keeps.snd2 (by with_reducible assumption) ?_) | (with_reducible refine Keeps.snd3 (by with_reducible assumption) ?_) | dsimp only

theorem doUspTxWrite_keeps {s₀ : State} {s : State}  (d : Nat) (u : Nat) (v : BitVec 16) (fab : Bool)  (hk : Keeps s₀ s) :
    Keeps s₀ (doUspTxWrite d u v fab s ) := by
  unfold doUspTxWrite
  try dsimp only
  repeat' first | (with_reducible assumption) | with_reducible exact Keeps.refl _ | (with_reducible apply State.uspQueue_keeps) | (with_reducible apply Keeps.ite) | split | (intro _ _ _) | (intro _ _) | dsimp only

theorem doUspRxRead_keeps {s₀ : State} {s : State}  (d : Nat) (u : Nat) (fab : Bool)  (hk : Keeps s₀ s) :
    Keeps s₀ (doUspRxRead d u fab s ) := by
  unfold doUspRxRead
  try dsimp only
  repeat' first | (with_reducible assumption) | with_reducible exact Keeps.refl _ | (with_reducible apply State.toFabric_keeps) | (with_reducible apply State.setUsp_keeps) | (fail_if_no_progress (with_reducible refine Keeps.upd ?_)) | (with_reducible apply Keeps.ite) | split | (intro _ _ _) | (intro _ _) | (with_reducible refine Keeps.snd (by with_reducible assumption) ?_) | (with_reducible refine Keeps.fst (by with_reducible assumption) ?_) | (with_reducible refine Keeps.snd2 (by with_reducible assumption) ?_) | (with_reducible refine Keeps.snd3 (by with_reducible assumption) ?_) | dsimp only

theorem State.reachClear_keeps {s₀ : State} {s : State}  (d : Nat) (r : Nat)  (hk : Keeps s₀ s) :
    Keeps s₀ (State.reachClear s d r ) := by
  unfold State.reachClear
  try dsimp only
  repeat' first | (with_reducible assumption) | with_reducible exact Keeps.refl _ | (with_reducible apply State.resetCsr_keeps) | (fail_if_no_progress (with_reducible refine Keeps.upd ?_)) | split | (intro _ _ _) | (intro _ _) | dsimp only

theorem State.pinCycle_keeps {s₀ : State} {s : State}  (old : State) (d : Nat) (p : Nat)  (hk : Keeps s₀ s) :
    Keeps s₀ (State.pinCycle old d p s ) := by
  unfold State.pinCycle
  try dsimp only
  repeat' first | (with_reducible assumption) | with_reducible exact Keeps.refl _ | (with_reducible apply State.draw_keeps) | (fail_if_no_progress (with_reducible refine Keeps.upd ?_)) | (with_reducible apply Keeps.ite) | split | (intro _ _ _) | (intro _ _) | (with_reducible refine Keeps.snd (by with_reducible assumption) ?_) | (with_reducible refine Keeps.fst (by with_reducible assumption) ?_) | (with_reducible refine Keeps.snd2 (by with_reducible assumption) ?_) | (with_reducible refine Keeps.snd3 (by with_reducible assumption) ?_) | dsimp only

theorem State.dlyStep_keeps {s₀ : State} {s : State}  (d : Nat) (p : Nat)  (hk : Keeps s₀ s) :
    Keeps s₀ (State.dlyStep s d p ) := by
  unfold State.dlyStep
  try dsimp only
  repeat' first | (with_reducible assumption) | with_reducible exact Keeps.refl _ | (with_reducible apply State.fset_keeps) | (with_reducible apply Keeps.ite) | split | (intro _ _ _) | (intro _ _) | dsimp only

theorem State.setWayW_keeps {s₀ : State} {s : State}  (d : Nat) (r : Nat) (i : Nat) (v : BitVec 16)  (hk : Keeps s₀ s) :
    Keeps s₀ (State.setWayW s d r i v ) := by
  unfold State.setWayW
  try dsimp only
  repeat' first | (with_reducible assumption) | with_reducible exact Keeps.refl _ | (fail_if_no_progress (with_reducible refine Keeps.upd ?_)) | split | (intro _ _ _) | (intro _ _) | dsimp only

theorem State.setWayB_keeps {s₀ : State} {s : State}  (d : Nat) (r : Nat) (i : Nat) (v : Bool)  (hk : Keeps s₀ s) :
    Keeps s₀ (State.setWayB s d r i v ) := by
  unfold State.setWayB
  try dsimp only
  repeat' first | (with_reducible assumption) | with_reducible exact Keeps.refl _ | (fail_if_no_progress (with_reducible refine Keeps.upd ?_)) | split | (intro _ _ _) | (intro _ _) | dsimp only

theorem State.wayEdge_keeps {s₀ : State} {s : State}  (old : State) (d : Nat) (r : Nat)  (hk : Keeps s₀ s) :
    Keeps s₀ (State.wayEdge old d r s ) := by
  unfold State.wayEdge
  try dsimp only
  repeat' first | (with_reducible assumption) | with_reducible exact Keeps.refl _ | (with_reducible apply State.setWayW_keeps) | (with_reducible apply State.setWayB_keeps) | (with_reducible apply Keeps.foldl) | (with_reducible apply Keeps.foldl_fst) | (with_reducible apply Keeps.foldl_snd) | split | (intro _ _ _) | (intro _ _) | dsimp only

theorem State.setChan_keeps {s₀ : State} {s : State}  (d : Nat) (r : Nat) (edge : Nat) (n : Nat) (w : BitVec 16) (b : Bool)  (hk : Keeps s₀ s) :
    Keeps s₀ (State.setChan s d r edge n w b ) := by
  unfold State.setChan
  try dsimp only
  repeat' first | (with_reducible assumption) | with_reducible exact Keeps.refl _ | (fail_if_no_progress (with_reducible refine Keeps.upd ?_)) | split | (intro _ _ _) | (intro _ _) | (with_reducible refine Keeps.snd (by with_reducible assumption) ?_) | (with_reducible refine Keeps.fst (by with_reducible assumption) ?_) | (with_reducible refine Keeps.snd2 (by with_reducible assumption) ?_) | (with_reducible refine Keeps.snd3 (by with_reducible assumption) ?_) | dsimp only

theorem State.chanIn_keeps {s₀ : State} {s : State}  (old : State) (d : Nat) (r : Nat) (edge : Nat) (n : Nat)  (hk : Keeps s₀ s) :
    Keeps s₀ (State.chanIn old d r edge n s ) := by
  unfold State.chanIn
  try dsimp only
  repeat' first | (with_reducible assumption) | with_reducible exact Keeps.refl _ | (with_reducible apply State.setChan_keeps) | (fail_if_no_progress (with_reducible refine Keeps.upd ?_)) | (with_reducible apply Keeps.ite) | split | (intro _ _ _) | (intro _ _) | dsimp only

theorem State.chanOut_keeps {s₀ : State} {s : State}  (old : State) (d : Nat) (r : Nat) (edge : Nat) (n : Nat)  (hk : Keeps s₀ s) :
    Keeps s₀ (State.chanOut old d r edge n s ) := by
  unfold State.chanOut
  try dsimp only
  repeat' first | (with_reducible assumption) | with_reducible exact Keeps.refl _ | (with_reducible apply State.count_keeps) | (fail_if_no_progress (with_reducible refine Keeps.upd ?_)) | (with_reducible apply Keeps.ite) | split | (intro _ _ _) | (intro _ _) | dsimp only

theorem eachChan_keeps {s₀ s : State} (f : Nat → Nat → State → State) (hf : ∀ e n t, Keeps s₀ t → Keeps s₀ (f e n t))
    (hk : Keeps s₀ s) : Keeps s₀ (eachChan f s) :=
  Keeps.foldl hk (fun _ _ h => Keeps.foldl h (fun _ _ h => hf _ _ _ h))

theorem State.cellEdge_keeps {s₀ : State} {s : State}  (old : State) (d : Nat) (r : Nat)  (hk : Keeps s₀ s) :
    Keeps s₀ (State.cellEdge old d r s ) := by
  unfold State.cellEdge
  try dsimp only
  repeat' first | (with_reducible assumption) | with_reducible exact Keeps.refl _ | (fail_if_no_progress (with_reducible refine Keeps.upd ?_)) | (with_reducible apply Keeps.ite) | split | (intro _ _ _) | (intro _ _) | dsimp only

theorem State.latchEdge_keeps {s₀ : State} {s : State}  (d : Nat) (r : Nat)  (hk : Keeps s₀ s) :
    Keeps s₀ (State.latchEdge s d r ) := by
  unfold State.latchEdge
  try dsimp only
  repeat' first | (with_reducible assumption) | with_reducible exact Keeps.refl _ | (fail_if_no_progress (with_reducible refine Keeps.upd ?_)) | split | (intro _ _ _) | (intro _ _) | dsimp only

theorem State.beatEdge_keeps {s₀ : State} {s : State}  (d : Nat) (r : Nat)  (hk : Keeps s₀ s) :
    Keeps s₀ (State.beatEdge s d r ) := by
  unfold State.beatEdge
  try dsimp only
  repeat' first | (with_reducible assumption) | with_reducible exact Keeps.refl _ | (fail_if_no_progress (with_reducible refine Keeps.upd ?_)) | (with_reducible apply Keeps.ite) | split | (intro _ _ _) | (intro _ _) | dsimp only

theorem State.phaseEdge_keeps {s₀ : State} {s : State}  (d : Nat) (r : Nat) (ref : Nat)  (hk : Keeps s₀ s) :
    Keeps s₀ (State.phaseEdge s d r ref ) := by
  unfold State.phaseEdge
  try dsimp only
  repeat' first | (with_reducible assumption) | with_reducible exact Keeps.refl _ | (with_reducible apply State.fset_keeps) | (with_reducible apply Keeps.ite) | split | (intro _ _ _) | (intro _ _) | dsimp only

theorem State.reachEdge_keeps {s₀ s : State} (old : State) (d r ref : Nat) (hk : Keeps s₀ s) :
    Keeps s₀ (old.reachEdge d r ref s) := by
  unfold State.reachEdge
  dsimp only
  refine State.latchEdge_keeps _ _ (State.phaseEdge_keeps _ _ _ (State.beatEdge_keeps _ _ (State.cellEdge_keeps _ _ _ ?_)))
  refine Keeps.foldl ?_ (fun _ _ h => State.pinCycle_keeps _ _ _ h)
  refine eachChan_keeps _ (fun _ _ _ h => State.chanIn_keeps _ _ _ _ _ h) ?_
  exact eachChan_keeps _ (fun _ _ _ h => State.chanOut_keeps _ _ _ _ _ h) (State.wayEdge_keeps _ _ _ hk)

theorem State.fabCycle_keeps {s₀ : State} {s : State}  (d : Nat) (f : Nat)  (hk : Keeps s₀ s) :
    Keeps s₀ (State.fabCycle s d f ) := by
  unfold State.fabCycle
  try dsimp only
  repeat' first | (with_reducible assumption) | with_reducible exact Keeps.refl _ | (with_reducible apply State.reachEdge_keeps) | (with_reducible apply State.dlyStep_keeps) | (with_reducible apply Keeps.foldl) | (with_reducible apply Keeps.foldl_fst) | (with_reducible apply Keeps.foldl_snd) | (fail_if_no_progress (with_reducible refine Keeps.upd ?_)) | split | (intro _ _ _) | (intro _ _) | dsimp only

theorem State.reachStart_keeps {s₀ : State} {s : State}  (d : Nat) (r : Nat)  (hk : Keeps s₀ s) :
    Keeps s₀ (State.reachStart s d r ) := by
  unfold State.reachStart
  try dsimp only
  repeat' first | (with_reducible assumption) | with_reducible exact Keeps.refl _ | (with_reducible apply State.fset_keeps) | (with_reducible apply Keeps.ite) | split | (intro _ _ _) | (intro _ _) | dsimp only

theorem State.setCellEntry_keeps {s₀ : State} {s : State}  (d : Nat) (r : Nat) (col : Nat) (row : Nat) (i : Nat) (v : Nat)  (hk : Keeps s₀ s) :
    Keeps s₀ (State.setCellEntry s d r col row i v ) := by
  unfold State.setCellEntry
  try dsimp only
  repeat' first | (with_reducible assumption) | with_reducible exact Keeps.refl _ | split | (fail_if_no_progress (with_reducible refine Keeps.put ?_ ?_ ?_ ?_ ?_ ?_ ?_)) | (intro c; with_reducible first | exact c.csr | exact c.bankMem | exact c.scratch | exact c.frames | exact c.bar | exact c.flash | exact Memory.wf_drop _ c.scratch | exact Memory.wf_drop _ c.frames | exact Memory.wf_drop _ c.bankMem | exact Memory.wf_drop _ c.flash | exact Memory.wf_drop _ c.bar | exact SMap.wf_mapVals _ c.csr | exact Memory.wf_writeLE _ _ _ c.bankMem | exact Memory.wf_writeLE _ _ _ c.scratch | exact Memory.wf_writeLE _ _ _ c.frames | exact Memory.wf_writeLE _ _ _ c.flash | exact Memory.wf_writes _ _ c.frames | exact Memory.wf_writes _ _ c.bar | exact Memory.wf_write _ _ c.frames | exact Memory.wf_write _ _ c.bar | exact Memory.wf_filter _ c.bar | exact Memory.wf_nil _ | exact barReset_wf) | (fail_if_no_progress (with_reducible refine Keeps.upd ?_)) | split | (intro _ _ _) | (intro _ _) | dsimp only

theorem doRewriteCommit_keeps {s₀ : State} {s : State}  (d e : Nat)  (hk : Keeps s₀ s) :
    Keeps s₀ (doRewriteCommit d e s ) := by
  unfold doRewriteCommit
  try dsimp only
  repeat' first | (with_reducible assumption) | with_reducible exact Keeps.refl _ | (with_reducible apply State.rewriteEnd_keeps) | (with_reducible apply State.setCellEntry_keeps) | (with_reducible apply Keeps.ite) | split | (intro _ _ _) | (intro _ _) | dsimp only

theorem doRewriteTimeout_keeps {s₀ : State} {s : State}  (d : Nat)  (hk : Keeps s₀ s) :
    Keeps s₀ (doRewriteTimeout d s ) := by
  unfold doRewriteTimeout
  try dsimp only
  repeat' first | (with_reducible assumption) | with_reducible exact Keeps.refl _ | (with_reducible apply State.rewriteEnd_keeps) | (with_reducible apply Keeps.ite) | split | (intro _ _ _) | (intro _ _) | dsimp only

theorem State.pllLocked_keeps {s₀ : State} {s : State}  (d : Nat) (f : Nat)  (hk : Keeps s₀ s) :
    Keeps s₀ (State.pllLocked s d f ) := by
  unfold State.pllLocked
  try dsimp only
  repeat' first | (with_reducible assumption) | with_reducible exact Keeps.refl _ | (with_reducible apply State.fset_keeps) | (fail_if_no_progress (with_reducible refine Keeps.upd ?_)) | split | (intro _ _ _) | (intro _ _) | dsimp only

theorem doFabPllLock_keeps {s₀ : State} {s : State}  (d : Nat) (f : Nat)  (hk : Keeps s₀ s) :
    Keeps s₀ (doFabPllLock d f s ) := by
  unfold doFabPllLock
  try dsimp only
  repeat' first | (with_reducible assumption) | with_reducible exact Keeps.refl _ | (with_reducible apply State.pllLocked_keeps) | (with_reducible apply Keeps.ite) | split | (intro _ _ _) | (intro _ _) | dsimp only

theorem doFabPllLockloss_keeps {s₀ : State} {s : State}  (d : Nat) (f : Nat)  (hk : Keeps s₀ s) :
    Keeps s₀ (doFabPllLockloss d f s ) := by
  unfold doFabPllLockloss
  try dsimp only
  repeat' first | (with_reducible assumption) | with_reducible exact Keeps.refl _ | (with_reducible apply State.pllStop_keeps) | (with_reducible apply State.flag_keeps) | (with_reducible apply Keeps.ite) | split | (intro _ _ _) | (intro _ _) | dsimp only

theorem State.roscTick_keeps {s₀ : State} {s : State}  (d : Nat)  (hk : Keeps s₀ s) :
    Keeps s₀ (State.roscTick s d ) := by
  unfold State.roscTick
  try dsimp only
  repeat' first | (with_reducible assumption) | with_reducible exact Keeps.refl _ | (with_reducible apply State.count_keeps) | (with_reducible apply State.fset_keeps) | (with_reducible apply State.draw_keeps) | (with_reducible apply Keeps.foldl) | (with_reducible apply Keeps.foldl_fst) | (with_reducible apply Keeps.foldl_snd) | (with_reducible apply Keeps.ite) | split | (intro _ _ _) | (intro _ _) | (with_reducible refine Keeps.snd (by with_reducible assumption) ?_) | (with_reducible refine Keeps.fst (by with_reducible assumption) ?_) | (with_reducible refine Keeps.snd2 (by with_reducible assumption) ?_) | (with_reducible refine Keeps.snd3 (by with_reducible assumption) ?_) | dsimp only

theorem State.uspPush_keeps {s₀ : State} {s : State}  (d : Nat) (u : Nat) (w : BitVec 16)  (hk : Keeps s₀ s) :
    Keeps s₀ (State.uspPush s d u w ) := by
  unfold State.uspPush
  try dsimp only
  repeat' first | (with_reducible assumption) | with_reducible exact Keeps.refl _ | (with_reducible apply State.flag_keeps) | (with_reducible apply State.setUsp_keeps) | (fail_if_no_progress (with_reducible refine Keeps.upd ?_)) | (with_reducible apply Keeps.ite) | split | (intro _ _ _) | (intro _ _) | dsimp only

theorem doUspReceive_keeps {s₀ : State} {s : State}  (d : Nat) (u : Nat) (w : BitVec 16) (ferr : Bool) (perr : Bool)  (hk : Keeps s₀ s) :
    Keeps s₀ (doUspReceive d u w ferr perr s ) := by
  unfold doUspReceive
  try dsimp only
  repeat' first | (with_reducible assumption) | with_reducible exact Keeps.refl _ | (with_reducible apply State.flag_keeps) | (with_reducible apply State.uspPush_keeps) | (with_reducible apply Keeps.ite) | split | (intro _ _ _) | (intro _ _) | dsimp only

theorem doUspTransmit_keeps {s₀ : State} {s : State}  (d : Nat) (u : Nat) (cts : Bool) (rxw : BitVec 16)  (hk : Keeps s₀ s) :
    Keeps s₀ (doUspTransmit d u cts rxw s ) := by
  unfold doUspTransmit
  try dsimp only
  repeat' first | (with_reducible assumption) | with_reducible exact Keeps.refl _ | (with_reducible apply State.emit_keeps) | (with_reducible apply State.uspPush_keeps) | (with_reducible apply State.setUsp_keeps) | (fail_if_no_progress (with_reducible refine Keeps.upd ?_)) | (with_reducible apply Keeps.ite) | split | (intro _ _ _) | (intro _ _) | dsimp only

theorem doUfwRequest_keeps {s₀ : State} {s : State}  (d : Nat) (r : Nat) (i0 : BitVec 16) (i1 : BitVec 16)  (hk : Keeps s₀ s) :
    Keeps s₀ (doUfwRequest d r i0 i1 s ) := by
  unfold doUfwRequest
  try dsimp only
  repeat' first | (with_reducible assumption) | with_reducible exact Keeps.refl _ | (with_reducible apply State.toFabric_keeps) | (with_reducible apply State.flag_keeps) | (fail_if_no_progress (with_reducible refine Keeps.upd ?_)) | (with_reducible apply Keeps.ite) | split | (intro _ _ _) | (intro _ _) | dsimp only

end Sys2Proof.Machine
end

