-- ==== Sys2Proof/Laws/KeepsScheduler.lean ====
section
/-! SUPPORT. What the operations of Sys2Proof/Machine/Scheduler.lean keep. -/

set_option linter.all false

namespace Sys2Proof.Machine

theorem State.setBalance_keeps {s₀ : State} {s : State}  (d : Nat) (c : Nat) (v : Int)  (hk : Keeps s₀ s) :
    Keeps s₀ (State.setBalance s d c v ) := by
  unfold State.setBalance
  try dsimp only
  repeat' first | (with_reducible assumption) | with_reducible exact Keeps.refl _ | (with_reducible apply State.fset_keeps) | split | (intro _ _ _) | (intro _ _) | dsimp only

theorem State.setBalances_keeps {s₀ : State} {s : State}  (d : Nat) (v : Nat)  (hk : Keeps s₀ s) :
    Keeps s₀ (State.setBalances s d v ) := by
  unfold State.setBalances
  try dsimp only
  repeat' first | (with_reducible assumption) | with_reducible exact Keeps.refl _ | (with_reducible apply State.setBalance_keeps) | (with_reducible apply Keeps.foldl) | (with_reducible apply Keeps.foldl_fst) | (with_reducible apply Keeps.foldl_snd) | split | (intro _ _ _) | (intro _ _) | dsimp only

theorem doMsLoRead_keeps {s₀ : State} {s : State}  (d : Nat)  (hk : Keeps s₀ s) :
    Keeps s₀ (doMsLoRead d s ) := by
  unfold doMsLoRead
  try dsimp only
  repeat' first | (with_reducible assumption) | with_reducible exact Keeps.refl _ | (with_reducible apply State.csrSet_keeps) | (with_reducible apply Keeps.ite) | split | (intro _ _ _) | (intro _ _) | dsimp only

theorem State.loadMilestone_keeps {s₀ : State} {s : State}  (d : Nat)  (hk : Keeps s₀ s) :
    Keeps s₀ (State.loadMilestone s d ) := by
  unfold State.loadMilestone
  try dsimp only
  repeat' first | (with_reducible assumption) | with_reducible exact Keeps.refl _ | (fail_if_no_progress (with_reducible refine Keeps.upd ?_)) | split | (intro _ _ _) | (intro _ _) | dsimp only

theorem State.setSched_keeps {s₀ : State} {s : State}  (d : Nat) (x : SchedSt)  (hk : Keeps s₀ s) :
    Keeps s₀ (State.setSched s d x ) := by
  unfold State.setSched
  try dsimp only
  repeat' first | (with_reducible assumption) | with_reducible exact Keeps.refl _ | (fail_if_no_progress (with_reducible refine Keeps.upd ?_)) | split | (intro _ _ _) | (intro _ _) | dsimp only

theorem State.countSkips_keeps {s₀ : State} {s : State}  (d : Nat)  (hk : Keeps s₀ s) :
    Keeps s₀ (State.countSkips s d ) := by
  unfold State.countSkips
  try dsimp only
  repeat' first | (with_reducible assumption) | with_reducible exact Keeps.refl _ | (with_reducible apply State.count_keeps) | (with_reducible apply State.noticeLim_keeps) | (with_reducible apply Keeps.foldl) | (with_reducible apply Keeps.foldl_fst) | (with_reducible apply Keeps.foldl_snd) | split | (intro _ _ _) | (intro _ _) | (with_reducible refine Keeps.snd (by with_reducible assumption) ?_) | (with_reducible refine Keeps.fst (by with_reducible assumption) ?_) | (with_reducible refine Keeps.snd2 (by with_reducible assumption) ?_) | (with_reducible refine Keeps.snd3 (by with_reducible assumption) ?_) | dsimp only

theorem State.loadWindow0_keeps {s₀ : State} {s : State}  (d : Nat) (e : Nat) (n : Nat) (v1 : Nat) (esc : Nat) (m : Option InMsg)  (hk : Keeps s₀ s) :
    Keeps s₀ (State.loadWindow0 s d e n v1 esc m ) := by
  unfold State.loadWindow0
  try dsimp only
  repeat' first | (with_reducible assumption) | with_reducible exact Keeps.refl _ | (with_reducible apply State.setRegIn_keeps) | (with_reducible apply Keeps.foldl) | (with_reducible apply Keeps.foldl_fst) | (with_reducible apply Keeps.foldl_snd) | split | (intro _ _ _) | (intro _ _) | (with_reducible refine Keeps.snd (by with_reducible assumption) ?_) | (with_reducible refine Keeps.fst (by with_reducible assumption) ?_) | (with_reducible refine Keeps.snd2 (by with_reducible assumption) ?_) | (with_reducible refine Keeps.snd3 (by with_reducible assumption) ?_) | dsimp only

theorem State.startHandler_keeps {s₀ : State} {s : State}  (d : Nat) (e : Nat) (n : Nat) (v1 : Nat) (esc : Nat) (m : Option InMsg)  (hk : Keeps s₀ s) :
    Keeps s₀ (State.startHandler s d e n v1 esc m ) := by
  unfold State.startHandler
  try dsimp only
  repeat' first | (with_reducible assumption) | with_reducible exact Keeps.refl _ | (with_reducible apply State.setEng_keeps) | (with_reducible apply State.engFault_keeps) | (with_reducible apply State.count_keeps) | (with_reducible apply State.fetchEcc_keeps) | (with_reducible apply State.loadWindow0_keeps) | (fail_if_no_progress (with_reducible refine Keeps.upd ?_)) | (with_reducible apply Keeps.ite) | split | (intro _ _ _) | (intro _ _) | (with_reducible refine Keeps.snd (by with_reducible assumption) ?_) | (with_reducible refine Keeps.fst (by with_reducible assumption) ?_) | (with_reducible refine Keeps.snd2 (by with_reducible assumption) ?_) | (with_reducible refine Keeps.snd3 (by with_reducible assumption) ?_) | dsimp only

theorem State.dispatch_keeps {s₀ : State} {s : State}  (d : Nat) (n : Nat) (e : Nat) (step : Nat)  (hk : Keeps s₀ s) :
    Keeps s₀ (State.dispatch s d n e step ) := by
  unfold State.dispatch
  try dsimp only
  repeat' first | (with_reducible assumption) | with_reducible exact Keeps.refl _ | (with_reducible apply State.setSched_keeps) | (with_reducible apply State.fset_keeps) | (with_reducible apply State.setTaskState_keeps) | (with_reducible apply State.startHandler_keeps) | (with_reducible apply State.count_keeps) | (with_reducible apply State.setTaskFlags_keeps) | (with_reducible apply State.setBalance_keeps) | (with_reducible apply State.setTaskX_keeps) | (fail_if_no_progress (with_reducible refine Keeps.upd ?_)) | (with_reducible apply Keeps.ite) | split | (intro _ _ _) | (intro _ _) | (with_reducible refine Keeps.snd (by with_reducible assumption) ?_) | (with_reducible refine Keeps.fst (by with_reducible assumption) ?_) | (with_reducible refine Keeps.snd2 (by with_reducible assumption) ?_) | (with_reducible refine Keeps.snd3 (by with_reducible assumption) ?_) | dsimp only

theorem doTaskDispatch_keeps {s₀ : State} {s : State}  (d : Nat)  (hk : Keeps s₀ s) :
    Keeps s₀ (doTaskDispatch d s ) := by
  unfold doTaskDispatch
  try dsimp only
  repeat' first | (with_reducible assumption) | with_reducible exact Keeps.refl _ | (with_reducible apply State.setSched_keeps) | (with_reducible apply State.countSkips_keeps) | (with_reducible apply State.dispatch_keeps) | (fail_if_no_progress (with_reducible refine Keeps.upd ?_)) | (with_reducible apply Keeps.ite) | split | (intro _ _ _) | (intro _ _) | (with_reducible refine Keeps.snd (by with_reducible assumption) ?_) | (with_reducible refine Keeps.fst (by with_reducible assumption) ?_) | (with_reducible refine Keeps.snd2 (by with_reducible assumption) ?_) | (with_reducible refine Keeps.snd3 (by with_reducible assumption) ?_) | dsimp only

theorem State.refill_keeps {s₀ : State} {s : State}  (d : Nat) (c : Nat) (r : Nat)  (hk : Keeps s₀ s) :
    Keeps s₀ (State.refill s d c r ) := by
  unfold State.refill
  try dsimp only
  repeat' first | (with_reducible assumption) | with_reducible exact Keeps.refl _ | (with_reducible apply State.setBalance_keeps) | split | (intro _ _ _) | (intro _ _) | dsimp only

theorem State.noteRefill_keeps {s₀ : State} {s : State}  (d : Nat)  (hk : Keeps s₀ s) :
    Keeps s₀ (State.noteRefill s d ) := by
  unfold State.noteRefill
  try dsimp only
  repeat' first | (with_reducible assumption) | with_reducible exact Keeps.refl _ | (with_reducible apply State.setSched_keeps) | (fail_if_no_progress (with_reducible refine Keeps.upd ?_)) | split | (intro _ _ _) | (intro _ _) | (with_reducible refine Keeps.snd (by with_reducible assumption) ?_) | (with_reducible refine Keeps.fst (by with_reducible assumption) ?_) | (with_reducible refine Keeps.snd2 (by with_reducible assumption) ?_) | (with_reducible refine Keeps.snd3 (by with_reducible assumption) ?_) | dsimp only

theorem doAllotRefill_keeps {s₀ : State} {s : State}  (d : Nat) (milliC : List Int)  (hk : Keeps s₀ s) :
    Keeps s₀ (doAllotRefill d milliC s ) := by
  unfold doAllotRefill
  try dsimp only
  repeat' first | (with_reducible assumption) | with_reducible exact Keeps.refl _ | (with_reducible apply State.fset_keeps) | (with_reducible apply State.csrSet_keeps) | (with_reducible apply State.notice_keeps) | (with_reducible apply State.noteRefill_keeps) | (with_reducible apply State.refill_keeps) | (with_reducible apply Keeps.foldl) | (with_reducible apply Keeps.foldl_fst) | (with_reducible apply Keeps.foldl_snd) | (fail_if_no_progress (with_reducible refine Keeps.upd ?_)) | (with_reducible apply Keeps.ite) | split | (intro _ _ _) | (intro _ _) | (with_reducible refine Keeps.snd (by with_reducible assumption) ?_) | (with_reducible refine Keeps.fst (by with_reducible assumption) ?_) | (with_reducible refine Keeps.snd2 (by with_reducible assumption) ?_) | (with_reducible refine Keeps.snd3 (by with_reducible assumption) ?_) | dsimp only

theorem doPllUnlock_keeps {s₀ : State} {s : State}  (d : Nat) (lane : Option Gw)  (hk : Keeps s₀ s) :
    Keeps s₀ (doPllUnlock d lane s ) := by
  unfold doPllUnlock
  try dsimp only
  repeat' first | (with_reducible assumption) | with_reducible exact Keeps.refl _ | (with_reducible apply State.count_keeps) | (with_reducible apply State.flag_keeps) | (fail_if_no_progress (with_reducible refine Keeps.upd ?_)) | (with_reducible apply Keeps.ite) | split | (intro _ _ _) | (intro _ _) | dsimp only

theorem doPllRelock_keeps {s₀ : State} {s : State}  (d : Nat) (lane : Option Gw)  (hk : Keeps s₀ s) :
    Keeps s₀ (doPllRelock d lane s ) := by
  unfold doPllRelock
  try dsimp only
  repeat' first | (with_reducible assumption) | with_reducible exact Keeps.refl _ | (with_reducible apply State.count_keeps) | (with_reducible apply State.loadMilestone_keeps) | (with_reducible apply State.fset_keeps) | (fail_if_no_progress (with_reducible refine Keeps.upd ?_)) | (with_reducible apply Keeps.ite) | split | (intro _ _ _) | (intro _ _) | dsimp only

theorem doMilestoneSlew_keeps {s₀ : State} {s : State}  (d : Nat)  (hk : Keeps s₀ s) :
    Keeps s₀ (doMilestoneSlew d s ) := by
  unfold doMilestoneSlew
  try dsimp only
  repeat' first | (with_reducible assumption) | with_reducible exact Keeps.refl _ | (with_reducible apply State.count_keeps) | (fail_if_no_progress (with_reducible refine Keeps.upd ?_)) | (with_reducible apply Keeps.ite) | split | (intro _ _ _) | (intro _ _) | dsimp only

end Sys2Proof.Machine
end

