-- ==== Sys2Proof/Laws/KeepsTowLink.lean ====
section
/-! SUPPORT. What the operations of Sys2Proof/Machine/TowLink.lean keep. -/

set_option linter.all false

namespace Sys2Proof.Machine

theorem State.setTowLink_keeps {s₀ : State} {s : State}  (out : Bool) (l : TowLink)  (hk : Keeps s₀ s) :
    Keeps s₀ (State.setTowLink s out l ) := by
  unfold State.setTowLink
  try dsimp only
  repeat' first | (with_reducible assumption) | with_reducible exact Keeps.refl _ | (fail_if_no_progress (with_reducible refine Keeps.upd ?_)) | (with_reducible apply Keeps.ite) | split | (intro _ _ _) | (intro _ _) | dsimp only

theorem State.towPut_keeps {s₀ : State} {s : State}  (out : Bool) (f : TowFrame)  (hk : Keeps s₀ s) :
    Keeps s₀ (State.towPut s out f ) := by
  unfold State.towPut
  try dsimp only
  repeat' first | (with_reducible assumption) | with_reducible exact Keeps.refl _ | (with_reducible apply State.emit_keeps) | split | (intro _ _ _) | (intro _ _) | dsimp only

theorem State.towDrain_keeps {s₀ : State} {s : State}  (out : Bool) (x0 : Nat) (hk : Keeps s₀ s) :
    Keeps s₀ (State.towDrain s out x0) := by
  induction x0 generalizing s out with
  | zero =>
    unfold State.towDrain
    try dsimp only
    repeat' first | (with_reducible assumption) | with_reducible exact Keeps.refl _ | (with_reducible apply ih) | (with_reducible apply State.setTowLink_keeps) | (with_reducible apply State.towPut_keeps) | (fail_if_no_progress (with_reducible refine Keeps.upd ?_)) | (with_reducible apply Keeps.ite) | split | (intro _ _ _) | (intro _ _) | (with_reducible refine Keeps.snd (by with_reducible assumption) ?_) | (with_reducible refine Keeps.fst (by with_reducible assumption) ?_) | (with_reducible refine Keeps.snd2 (by with_reducible assumption) ?_) | (with_reducible refine Keeps.snd3 (by with_reducible assumption) ?_) | dsimp only
  | succ _ ih =>
    unfold State.towDrain
    try dsimp only
    repeat' first | (with_reducible assumption) | with_reducible exact Keeps.refl _ | (with_reducible apply ih) | (with_reducible apply State.setTowLink_keeps) | (with_reducible apply State.towPut_keeps) | (fail_if_no_progress (with_reducible refine Keeps.upd ?_)) | (with_reducible apply Keeps.ite) | split | (intro _ _ _) | (intro _ _) | (with_reducible refine Keeps.snd (by with_reducible assumption) ?_) | (with_reducible refine Keeps.fst (by with_reducible assumption) ?_) | (with_reducible refine Keeps.snd2 (by with_reducible assumption) ?_) | (with_reducible refine Keeps.snd3 (by with_reducible assumption) ?_) | dsimp only

theorem State.towSendFrom_keeps {s₀ : State} {s : State}  (out : Bool) (ty : Nat) (dest : Nat) (src : Nat) (body : List Nat)  (hk : Keeps s₀ s) :
    Keeps s₀ (State.towSendFrom s out ty dest src body ) := by
  unfold State.towSendFrom
  try dsimp only
  repeat' first | (with_reducible assumption) | with_reducible exact Keeps.refl _ | (with_reducible apply State.towDrain_keeps) | (with_reducible apply State.setTowLink_keeps) | (fail_if_no_progress (with_reducible refine Keeps.upd ?_)) | (with_reducible apply Keeps.ite) | split | (intro _ _ _) | (intro _ _) | (with_reducible refine Keeps.snd (by with_reducible assumption) ?_) | (with_reducible refine Keeps.fst (by with_reducible assumption) ?_) | (with_reducible refine Keeps.snd2 (by with_reducible assumption) ?_) | (with_reducible refine Keeps.snd3 (by with_reducible assumption) ?_) | dsimp only

theorem State.towSend_keeps {s₀ : State} {s : State}  (out : Bool) (ty : Nat) (dest : Nat) (body : List Nat)  (hk : Keeps s₀ s) :
    Keeps s₀ (State.towSend s out ty dest body ) := by
  unfold State.towSend
  try dsimp only
  repeat' first | (with_reducible assumption) | with_reducible exact Keeps.refl _ | (with_reducible apply State.towSendFrom_keeps) | split | (intro _ _ _) | (intro _ _) | dsimp only

theorem State.towHome_keeps {s₀ : State} {s : State}  (ty : Nat) (body : List Nat)  (hk : Keeps s₀ s) :
    Keeps s₀ (State.towHome s ty body ) := by
  unfold State.towHome
  try dsimp only
  repeat' first | (with_reducible assumption) | with_reducible exact Keeps.refl _ | (with_reducible apply State.towSend_keeps) | split | (intro _ _ _) | (intro _ _) | dsimp only

theorem State.towReply_keeps {s₀ : State} {s : State}  (out : Bool) (ty : Nat) (lseq : Nat)  (hk : Keeps s₀ s) :
    Keeps s₀ (State.towReply s out ty lseq ) := by
  unfold State.towReply
  try dsimp only
  repeat' first | (with_reducible assumption) | with_reducible exact Keeps.refl _ | (with_reducible apply State.emit_keeps) | split | (intro _ _ _) | (intro _ _) | dsimp only

end Sys2Proof.Machine
end

