-- ==== Sys2Proof/Laws/KeepsStewardBase.lean ====
section
/-! SUPPORT. What the operations of Sys2Proof/Machine/StewardBase.lean keep. -/

set_option linter.all false

namespace Sys2Proof.Machine

theorem State.setShadow_keeps {s₀ : State} {s : State}  (d : Nat) (v : Nat)  (hk : Keeps s₀ s) :
    Keeps s₀ (State.setShadow s d v ) := by
  unfold State.setShadow
  try dsimp only
  repeat' first | (with_reducible assumption) | with_reducible exact Keeps.refl _ | (with_reducible apply State.fset_keeps) | split | (intro _ _ _) | (intro _ _) | dsimp only

theorem State.barPut_keeps {s₀ : State} {s : State}  (a : Nat) (bs : List (BitVec 8))  (hk : Keeps s₀ s) :
    Keeps s₀ (State.barPut s a bs ) := by
  unfold State.barPut
  try dsimp only
  repeat' first | (with_reducible assumption) | with_reducible exact Keeps.refl _ | (with_reducible apply Keeps.foldl) | (with_reducible apply Keeps.foldl_fst) | (with_reducible apply Keeps.foldl_snd) | split | (fail_if_no_progress (with_reducible refine Keeps.put ?_ ?_ ?_ ?_ ?_ ?_ ?_)) | (intro c; with_reducible first | exact c.csr | exact c.bankMem | exact c.scratch | exact c.frames | exact c.bar | exact c.flash | exact Memory.wf_drop _ c.scratch | exact Memory.wf_drop _ c.frames | exact Memory.wf_drop _ c.bankMem | exact Memory.wf_drop _ c.flash | exact Memory.wf_drop _ c.bar | exact SMap.wf_mapVals _ c.csr | exact Memory.wf_writeLE _ _ _ c.bankMem | exact Memory.wf_writeLE _ _ _ c.scratch | exact Memory.wf_writeLE _ _ _ c.frames | exact Memory.wf_writeLE _ _ _ c.flash | exact Memory.wf_writes _ _ c.frames | exact Memory.wf_writes _ _ c.bar | exact Memory.wf_write _ _ c.frames | exact Memory.wf_write _ _ c.bar | exact Memory.wf_filter _ c.bar | exact Memory.wf_nil _ | exact barReset_wf) | (fail_if_no_progress (with_reducible refine Keeps.upd ?_)) | split | (intro _ _ _) | (intro _ _) | dsimp only

theorem State.respondFrom_keeps {s₀ : State} {s : State}  (h : CmdHdr) (op : Nat) (status : Nat) (chain : Nat) (payload : List (BitVec 8))  (hk : Keeps s₀ s) :
    Keeps s₀ (State.respondFrom s h op status chain payload ) := by
  unfold State.respondFrom
  try dsimp only
  repeat' first | (with_reducible assumption) | with_reducible exact Keeps.refl _ | (with_reducible apply State.fset_keeps) | (with_reducible apply State.barPut_keeps) | (with_reducible apply State.emit_keeps) | (with_reducible apply State.msix_keeps) | (with_reducible apply State.towHome_keeps) | (fail_if_no_progress (with_reducible refine Keeps.upd ?_)) | (with_reducible apply Keeps.ite) | split | (intro _ _ _) | (intro _ _) | dsimp only

theorem State.respond_keeps {s₀ : State} {s : State}  (h : CmdHdr) (op : Nat) (status : Nat) (payload : List (BitVec 8))  (hk : Keeps s₀ s) :
    Keeps s₀ (State.respond s h op status payload ) := by
  unfold State.respond
  try dsimp only
  repeat' first | (with_reducible assumption) | with_reducible exact Keeps.refl _ | (with_reducible apply State.respondFrom_keeps) | split | (intro _ _ _) | (intro _ _) | dsimp only

theorem State.answerAborts_keeps {s₀ : State} {s : State}  (st : Nat) (x0 : List CmdHdr) (hk : Keeps s₀ s) :
    Keeps s₀ (State.answerAborts s st x0) := by
  induction x0 generalizing s st with
  | nil =>
    unfold State.answerAborts
    try dsimp only
    repeat' first | (with_reducible assumption) | with_reducible exact Keeps.refl _ | (with_reducible apply ih) | (with_reducible apply State.respond_keeps) | (with_reducible apply Keeps.ite) | split | (intro _ _ _) | (intro _ _) | dsimp only
  | cons _ _ ih =>
    unfold State.answerAborts
    try dsimp only
    repeat' first | (with_reducible assumption) | with_reducible exact Keeps.refl _ | (with_reducible apply ih) | (with_reducible apply State.respond_keeps) | (with_reducible apply Keeps.ite) | split | (intro _ _ _) | (intro _ _) | dsimp only

theorem State.finishCmd_keeps {s₀ : State} {s : State}  (c : Cmd) (status : Nat) (payload : List (BitVec 8))  (hk : Keeps s₀ s) :
    Keeps s₀ (State.finishCmd s c status payload ) := by
  unfold State.finishCmd
  try dsimp only
  repeat' first | (with_reducible assumption) | with_reducible exact Keeps.refl _ | (with_reducible apply State.respond_keeps) | (with_reducible apply State.answerAborts_keeps) | (fail_if_no_progress (with_reducible refine Keeps.upd ?_)) | split | (intro _ _ _) | (intro _ _) | dsimp only

theorem State.finish_keeps {s₀ : State} {s : State}  (h : CmdHdr) (status : Nat) (payload : List (BitVec 8))  (hk : Keeps s₀ s) :
    Keeps s₀ (State.finish s h status payload ) := by
  unfold State.finish
  try dsimp only
  repeat' first | (with_reducible assumption) | with_reducible exact Keeps.refl _ | (with_reducible apply State.finishCmd_keeps) | split | (intro _ _ _) | (intro _ _) | dsimp only

theorem State.setShadows_keeps {s₀ : State} {s : State}  (v : Nat)  (hk : Keeps s₀ s) :
    Keeps s₀ (State.setShadows s v ) := by
  unfold State.setShadows
  try dsimp only
  repeat' first | (with_reducible assumption) | with_reducible exact Keeps.refl _ | (with_reducible apply State.setShadow_keeps) | (with_reducible apply Keeps.foldl) | (with_reducible apply Keeps.foldl_fst) | (with_reducible apply Keeps.foldl_snd) | split | (intro _ _ _) | (intro _ _) | dsimp only

theorem State.abandonSwap_keeps {s₀ : State} {s : State}  (status : Nat) (die : Nat)  (hk : Keeps s₀ s) :
    Keeps s₀ (State.abandonSwap s status die ) := by
  unfold State.abandonSwap
  try dsimp only
  repeat' first | (with_reducible assumption) | with_reducible exact Keeps.refl _ | (with_reducible apply State.setShadows_keeps) | (with_reducible apply State.notice_keeps) | (with_reducible apply State.fset_keeps) | (with_reducible apply State.finish_keeps) | (with_reducible apply Keeps.foldl) | (with_reducible apply Keeps.foldl_fst) | (with_reducible apply Keeps.foldl_snd) | (fail_if_no_progress (with_reducible refine Keeps.upd ?_)) | (with_reducible apply Keeps.ite) | split | (intro _ _ _) | (intro _ _) | (with_reducible refine Keeps.snd (by with_reducible assumption) ?_) | (with_reducible refine Keeps.fst (by with_reducible assumption) ?_) | (with_reducible refine Keeps.snd2 (by with_reducible assumption) ?_) | (with_reducible refine Keeps.snd3 (by with_reducible assumption) ?_) | dsimp only

theorem State.endSession_keeps {s₀ : State} {s : State}    (hk : Keeps s₀ s) :
    Keeps s₀ (State.endSession s ) := by
  unfold State.endSession
  try dsimp only
  repeat' first | (with_reducible assumption) | with_reducible exact Keeps.refl _ | (with_reducible apply State.setShadows_keeps) | (fail_if_no_progress (with_reducible refine Keeps.upd ?_)) | (with_reducible apply Keeps.ite) | split | (intro _ _ _) | (intro _ _) | (with_reducible refine Keeps.snd (by with_reducible assumption) ?_) | (with_reducible refine Keeps.fst (by with_reducible assumption) ?_) | (with_reducible refine Keeps.snd2 (by with_reducible assumption) ?_) | (with_reducible refine Keeps.snd3 (by with_reducible assumption) ?_) | dsimp only

theorem State.setSource_keeps {s₀ : State} {s : State}  (v : Nat)  (hk : Keeps s₀ s) :
    Keeps s₀ (State.setSource s v ) := by
  unfold State.setSource
  try dsimp only
  repeat' first | (with_reducible assumption) | with_reducible exact Keeps.refl _ | (with_reducible apply State.fset_keeps) | (with_reducible apply Keeps.foldl) | (with_reducible apply Keeps.foldl_fst) | (with_reducible apply Keeps.foldl_snd) | split | (intro _ _ _) | (intro _ _) | dsimp only

theorem State.bankAnswer_keeps {s₀ : State} {s : State}  (c : Cmd)  (hk : Keeps s₀ s) :
    Keeps s₀ (State.bankAnswer s c ) := by
  unfold State.bankAnswer
  try dsimp only
  repeat' first | (with_reducible assumption) | with_reducible exact Keeps.refl _ | (with_reducible apply State.finishCmd_keeps) | (with_reducible apply Keeps.ite) | split | (intro _ _ _) | (intro _ _) | dsimp only

theorem State.bankAnswers_keeps {s₀ : State} {s : State}    (hk : Keeps s₀ s) :
    Keeps s₀ (State.bankAnswers s ) := by
  unfold State.bankAnswers
  try dsimp only
  repeat' first | (with_reducible assumption) | with_reducible exact Keeps.refl _ | (with_reducible apply State.bankAnswer_keeps) | (with_reducible apply Keeps.foldl) | (with_reducible apply Keeps.foldl_fst) | (with_reducible apply Keeps.foldl_snd) | split | (intro _ _ _) | (intro _ _) | dsimp only

theorem State.dropBankWork_keeps {s₀ : State} {s : State}  (d : Nat)  (hk : Keeps s₀ s) :
    Keeps s₀ (State.dropBankWork s d ) := by
  unfold State.dropBankWork
  try dsimp only
  repeat' first | (with_reducible assumption) | with_reducible exact Keeps.refl _ | (with_reducible apply State.bankAnswers_keeps) | (with_reducible apply Keeps.foldl) | (with_reducible apply Keeps.foldl_fst) | (with_reducible apply Keeps.foldl_snd) | (fail_if_no_progress (with_reducible refine Keeps.upd ?_)) | split | (intro _ _ _) | (intro _ _) | (with_reducible refine Keeps.snd (by with_reducible assumption) ?_) | (with_reducible refine Keeps.fst (by with_reducible assumption) ?_) | (with_reducible refine Keeps.snd2 (by with_reducible assumption) ?_) | (with_reducible refine Keeps.snd3 (by with_reducible assumption) ?_) | dsimp only

theorem State.seeHost_keeps {s₀ : State} {s : State}  (h : CmdHdr)  (hk : Keeps s₀ s) :
    Keeps s₀ (State.seeHost s h ) := by
  unfold State.seeHost
  try dsimp only
  repeat' first | (with_reducible assumption) | with_reducible exact Keeps.refl _ | (fail_if_no_progress (with_reducible refine Keeps.upd ?_)) | (with_reducible apply Keeps.ite) | split | (intro _ _ _) | (intro _ _) | (with_reducible refine Keeps.snd (by with_reducible assumption) ?_) | (with_reducible refine Keeps.fst (by with_reducible assumption) ?_) | (with_reducible refine Keeps.snd2 (by with_reducible assumption) ?_) | (with_reducible refine Keeps.snd3 (by with_reducible assumption) ?_) | dsimp only

theorem State.broadcast_keeps {s₀ : State} {s : State}  (h : CmdHdr) (op : Nat)  (hk : Keeps s₀ s) :
    Keeps s₀ (State.broadcast s h op ) := by
  unfold State.broadcast
  try dsimp only
  repeat' first | (with_reducible assumption) | with_reducible exact Keeps.refl _ | (with_reducible apply State.towSend_keeps) | (fail_if_no_progress (with_reducible refine Keeps.upd ?_)) | (with_reducible apply Keeps.ite) | split | (intro _ _ _) | (intro _ _) | (with_reducible refine Keeps.snd (by with_reducible assumption) ?_) | (with_reducible refine Keeps.fst (by with_reducible assumption) ?_) | (with_reducible refine Keeps.snd2 (by with_reducible assumption) ?_) | (with_reducible refine Keeps.snd3 (by with_reducible assumption) ?_) | dsimp only

theorem State.takeMailbox_keeps {s₀ : State} {s : State}  (h : CmdHdr)  (hk : Keeps s₀ s) :
    Keeps s₀ (State.takeMailbox s h ) := by
  unfold State.takeMailbox
  try dsimp only
  repeat' first | (with_reducible assumption) | with_reducible exact Keeps.refl _ | (fail_if_no_progress (with_reducible refine Keeps.upd ?_)) | split | (intro _ _ _) | (intro _ _) | dsimp only

theorem State.refuse_keeps {s₀ : State} {s : State}  (h : CmdHdr) (op : Nat) (reason : Nat) (right : Nat)  (hk : Keeps s₀ s) :
    Keeps s₀ (State.refuse s h op reason right ) := by
  unfold State.refuse
  try dsimp only
  repeat' first | (with_reducible assumption) | with_reducible exact Keeps.refl _ | (with_reducible apply State.count_keeps) | (fail_if_no_progress (with_reducible refine Keeps.upd ?_)) | split | (intro _ _ _) | (intro _ _) | (with_reducible refine Keeps.snd (by with_reducible assumption) ?_) | (with_reducible refine Keeps.fst (by with_reducible assumption) ?_) | (with_reducible refine Keeps.snd2 (by with_reducible assumption) ?_) | (with_reducible refine Keeps.snd3 (by with_reducible assumption) ?_) | dsimp only

theorem State.await_keeps {s₀ : State} {s : State}  (h : CmdHdr) (op : Nat) (w : Work)  (hk : Keeps s₀ s) :
    Keeps s₀ (State.await s h op w ) := by
  unfold State.await
  try dsimp only
  repeat' first | (with_reducible assumption) | with_reducible exact Keeps.refl _ | (fail_if_no_progress (with_reducible refine Keeps.upd ?_)) | split | (intro _ _ _) | (intro _ _) | (with_reducible refine Keeps.snd (by with_reducible assumption) ?_) | (with_reducible refine Keeps.fst (by with_reducible assumption) ?_) | (with_reducible refine Keeps.snd2 (by with_reducible assumption) ?_) | (with_reducible refine Keeps.snd3 (by with_reducible assumption) ?_) | dsimp only

theorem State.relayCmd_keeps {s₀ : State} {s : State}  (h : CmdHdr) (op : Nat)  (hk : Keeps s₀ s) :
    Keeps s₀ (State.relayCmd s h op ) := by
  unfold State.relayCmd
  try dsimp only
  repeat' first | (with_reducible assumption) | with_reducible exact Keeps.refl _ | (with_reducible apply State.respond_keeps) | (with_reducible apply State.await_keeps) | (with_reducible apply State.towSend_keeps) | (with_reducible apply Keeps.ite) | split | (intro _ _ _) | (intro _ _) | dsimp only

theorem State.arrive_keeps {s₀ : State} {s : State}  (h : CmdHdr) (op : Nat) (own : State → State)  (hk : Keeps s₀ s) (hown : ∀ t , Keeps s₀ t → Keeps s₀ (own t )) :
    Keeps s₀ (State.arrive s h op own ) := by
  unfold State.arrive
  try dsimp only
  repeat' first | (with_reducible assumption) | with_reducible exact Keeps.refl _ | (with_reducible apply hown) | (with_reducible apply State.seeHost_keeps) | (with_reducible apply State.respond_keeps) | (with_reducible apply State.broadcast_keeps) | (with_reducible apply State.takeMailbox_keeps) | (with_reducible apply State.refuse_keeps) | (with_reducible apply State.relayCmd_keeps) | (with_reducible apply Keeps.ite) | split | (intro _ _ _) | (intro _ _) | dsimp only

theorem State.command_keeps {s₀ : State} {s : State}  (h : CmdHdr) (op : Nat) (need : Nat) (g : State → Gate) (busy : State → Bool) (body : State → State)  (hk : Keeps s₀ s) (hbody : ∀ t , Keeps s₀ t → Keeps s₀ (body t )) :
    Keeps s₀ (State.command s h op need g busy body ) := by
  unfold State.command
  try dsimp only
  repeat' first | (with_reducible assumption) | with_reducible exact Keeps.refl _ | (with_reducible apply hbody) | (with_reducible apply State.arrive_keeps) | (with_reducible apply State.respond_keeps) | (with_reducible apply State.refuse_keeps) | (with_reducible apply Keeps.ite) | split | (intro _ _ _) | (intro _ _) | (with_reducible refine Keeps.snd (by with_reducible assumption) ?_) | (with_reducible refine Keeps.fst (by with_reducible assumption) ?_) | (with_reducible refine Keeps.snd2 (by with_reducible assumption) ?_) | (with_reducible refine Keeps.snd3 (by with_reducible assumption) ?_) | dsimp only

theorem State.finishWork_keeps {s₀ : State} {s : State}  (w : Work) (status : Nat) (payload : List (BitVec 8))  (hk : Keeps s₀ s) :
    Keeps s₀ (State.finishWork s w status payload ) := by
  unfold State.finishWork
  try dsimp only
  repeat' first | (with_reducible assumption) | with_reducible exact Keeps.refl _ | (with_reducible apply State.finishCmd_keeps) | (with_reducible apply Keeps.foldl) | (with_reducible apply Keeps.foldl_fst) | (with_reducible apply Keeps.foldl_snd) | split | (intro _ _ _) | (intro _ _) | dsimp only

theorem doRefusedResponse_keeps {s₀ : State} {s : State}    (hk : Keeps s₀ s) :
    Keeps s₀ (doRefusedResponse s ) := by
  unfold doRefusedResponse
  try dsimp only
  repeat' first | (with_reducible assumption) | with_reducible exact Keeps.refl _ | (with_reducible apply State.respond_keeps) | (with_reducible apply State.answerAborts_keeps) | (fail_if_no_progress (with_reducible refine Keeps.upd ?_)) | (with_reducible apply Keeps.ite) | split | (intro _ _ _) | (intro _ _) | dsimp only

theorem doUnlistedOpcode_keeps {s₀ : State} {s : State}  (h : CmdHdr) (op : Nat)  (hk : Keeps s₀ s) :
    Keeps s₀ (doUnlistedOpcode h op s ) := by
  unfold doUnlistedOpcode
  try dsimp only
  repeat' first | (with_reducible assumption) | with_reducible exact Keeps.refl _ | (with_reducible apply State.arrive_keeps) | (with_reducible apply State.respond_keeps) | split | (intro _ _ _) | (intro _ _) | dsimp only

end Sys2Proof.Machine
end

