-- ==== Sys2Proof/Laws/KeepsConfigBase.lean ====
section
/-! SUPPORT. What the operations of Sys2Proof/Machine/ConfigBase.lean keep. -/

set_option linter.all false

namespace Sys2Proof.Machine

theorem State.setFrame_keeps {s₀ : State} {s : State}  (plane : Nat) (d : Nat) (r : Nat) (f : Nat) (bs : List (BitVec 8))  (hk : Keeps s₀ s) :
    Keeps s₀ (State.setFrame s plane d r f bs ) := by
  unfold State.setFrame
  try dsimp only
  repeat' first | (with_reducible assumption) | with_reducible exact Keeps.refl _ | (with_reducible apply Keeps.foldl) | (with_reducible apply Keeps.foldl_fst) | (with_reducible apply Keeps.foldl_snd) | split | (fail_if_no_progress (with_reducible refine Keeps.put ?_ ?_ ?_ ?_ ?_ ?_ ?_)) | (intro c; with_reducible first | exact c.csr | exact c.bankMem | exact c.scratch | exact c.frames | exact c.bar | exact c.flash | exact Memory.wf_drop _ c.scratch | exact Memory.wf_drop _ c.frames | exact Memory.wf_drop _ c.bankMem | exact Memory.wf_drop _ c.flash | exact Memory.wf_drop _ c.bar | exact SMap.wf_mapVals _ c.csr | exact Memory.wf_writeLE _ _ _ c.bankMem | exact Memory.wf_writeLE _ _ _ c.scratch | exact Memory.wf_writeLE _ _ _ c.frames | exact Memory.wf_writeLE _ _ _ c.flash | exact Memory.wf_writes _ _ c.frames | exact Memory.wf_writes _ _ c.bar | exact Memory.wf_write _ _ c.frames | exact Memory.wf_write _ _ c.bar | exact Memory.wf_filter _ c.bar | exact Memory.wf_nil _ | exact barReset_wf) | (fail_if_no_progress (with_reducible refine Keeps.upd ?_)) | split | (intro _ _ _) | (intro _ _) | dsimp only

theorem State.literals_keeps {s₀ : State} {s : State}  (plane : Nat) (d : Nat) (r : Nat) (f : Nat) (x0 : List (List Word × Word)) (hk : Keeps s₀ s) :
    Keeps s₀ (State.literals s plane d r f x0).st := by
  induction x0 generalizing s plane d r f with
  | nil =>
    unfold State.literals
    try dsimp only
    repeat' first | (with_reducible assumption) | with_reducible exact Keeps.refl _ | (with_reducible apply ih) | (with_reducible apply State.setFrame_keeps) | (with_reducible apply Keeps.ite) | (with_reducible apply Keeps.ite_snd) | (with_reducible apply Keeps.ite_fst) | split | (intro _ _ _) | (intro _ _) | (with_reducible refine Keeps.snd (by with_reducible assumption) ?_) | (with_reducible refine Keeps.fst (by with_reducible assumption) ?_) | (with_reducible refine Keeps.snd2 (by with_reducible assumption) ?_) | (with_reducible refine Keeps.snd3 (by with_reducible assumption) ?_) | dsimp only
  | cons _ _ ih =>
    unfold State.literals
    try dsimp only
    repeat' first | (with_reducible assumption) | with_reducible exact Keeps.refl _ | (with_reducible apply ih) | (with_reducible apply State.setFrame_keeps) | (with_reducible apply Keeps.ite) | (with_reducible apply Keeps.ite_snd) | (with_reducible apply Keeps.ite_fst) | split | (intro _ _ _) | (intro _ _) | (with_reducible refine Keeps.snd (by with_reducible assumption) ?_) | (with_reducible refine Keeps.fst (by with_reducible assumption) ?_) | (with_reducible refine Keeps.snd2 (by with_reducible assumption) ?_) | (with_reducible refine Keeps.snd3 (by with_reducible assumption) ?_) | dsimp only

theorem State.copyFrames_keeps {s₀ : State} {s : State}  (plane : Nat) (d : Nat) (r : Nat) (src : Nat) (f : Nat) (x0 : Nat) (hk : Keeps s₀ s) :
    Keeps s₀ (State.copyFrames s plane d r src f x0) := by
  induction x0 generalizing s plane d r src f with
  | zero =>
    unfold State.copyFrames
    try dsimp only
    repeat' first | (with_reducible assumption) | with_reducible exact Keeps.refl _ | (with_reducible apply ih) | (with_reducible apply State.setFrame_keeps) | split | (intro _ _ _) | (intro _ _) | dsimp only
  | succ _ ih =>
    unfold State.copyFrames
    try dsimp only
    repeat' first | (with_reducible assumption) | with_reducible exact Keeps.refl _ | (with_reducible apply ih) | (with_reducible apply State.setFrame_keeps) | split | (intro _ _ _) | (intro _ _) | dsimp only

theorem State.fillFrames_keeps {s₀ : State} {s : State}  (plane : Nat) (d : Nat) (r : Nat) (f : Nat) (bs : List (BitVec 8)) (x0 : Nat) (hk : Keeps s₀ s) :
    Keeps s₀ (State.fillFrames s plane d r f bs x0) := by
  induction x0 generalizing s plane d r f bs with
  | zero =>
    unfold State.fillFrames
    try dsimp only
    repeat' first | (with_reducible assumption) | with_reducible exact Keeps.refl _ | (with_reducible apply ih) | (with_reducible apply State.setFrame_keeps) | split | (intro _ _ _) | (intro _ _) | dsimp only
  | succ _ ih =>
    unfold State.fillFrames
    try dsimp only
    repeat' first | (with_reducible assumption) | with_reducible exact Keeps.refl _ | (with_reducible apply ih) | (with_reducible apply State.setFrame_keeps) | split | (intro _ _ _) | (intro _ _) | dsimp only

theorem State.record_keeps {s₀ : State} {s : State}  (d : Nat) (r : Nat) (f : Nat) (rec : Word) (b : RecBody)  (hk : Keeps s₀ s) :
    Keeps s₀ (State.record s d r f rec b ).st := by
  unfold State.record
  try dsimp only
  repeat' first | (with_reducible assumption) | with_reducible exact Keeps.refl _ | (with_reducible apply State.copyFrames_keeps) | (with_reducible apply State.fillFrames_keeps) | (with_reducible apply State.literals_keeps) | (with_reducible apply Keeps.ite) | (with_reducible apply Keeps.ite_snd) | (with_reducible apply Keeps.ite_fst) | split | (intro _ _ _) | (intro _ _) | (with_reducible refine Keeps.snd (by with_reducible assumption) ?_) | (with_reducible refine Keeps.fst (by with_reducible assumption) ?_) | (with_reducible refine Keeps.snd2 (by with_reducible assumption) ?_) | (with_reducible refine Keeps.snd3 (by with_reducible assumption) ?_) | dsimp only

theorem State.failLoad_keeps {s₀ : State} {s : State}  (l : Load) (st : Nat)  (hk : Keeps s₀ s) :
    Keeps s₀ (State.failLoad s l st ) := by
  unfold State.failLoad
  try dsimp only
  repeat' first | (with_reducible assumption) | with_reducible exact Keeps.refl _ | (with_reducible apply State.freeByte_keeps) | (fail_if_no_progress (with_reducible refine Keeps.upd ?_)) | split | (intro _ _ _) | (intro _ _) | (with_reducible refine Keeps.snd (by with_reducible assumption) ?_) | (with_reducible refine Keeps.fst (by with_reducible assumption) ?_) | (with_reducible refine Keeps.snd2 (by with_reducible assumption) ?_) | (with_reducible refine Keeps.snd3 (by with_reducible assumption) ?_) | dsimp only

theorem State.loadRec_keeps {s₀ : State} {s : State}  (l : Load) (d : Nat) (rec : Word) (b : RecBody)  (hk : Keeps s₀ s) :
    Keeps s₀ (State.loadRec s l d rec b ) := by
  unfold State.loadRec
  try dsimp only
  repeat' first | (with_reducible assumption) | with_reducible exact Keeps.refl _ | (with_reducible apply State.record_keeps) | (fail_if_no_progress (with_reducible refine Keeps.upd ?_)) | (with_reducible apply Keeps.ite) | split | (intro _ _ _) | (intro _ _) | (with_reducible refine Keeps.snd (by with_reducible assumption) ?_) | (with_reducible refine Keeps.fst (by with_reducible assumption) ?_) | (with_reducible refine Keeps.snd2 (by with_reducible assumption) ?_) | (with_reducible refine Keeps.snd3 (by with_reducible assumption) ?_) | dsimp only

theorem State.putJob_keeps {s₀ : State} {s : State}  (j : ReachJob) (j' : ReachJob)  (hk : Keeps s₀ s) :
    Keeps s₀ (State.putJob s j j' ) := by
  unfold State.putJob
  try dsimp only
  repeat' first | (with_reducible assumption) | with_reducible exact Keeps.refl _ | (fail_if_no_progress (with_reducible refine Keeps.upd ?_)) | (with_reducible apply Keeps.ite) | split | (intro _ _ _) | (intro _ _) | dsimp only

theorem State.jobRec_keeps {s₀ : State} {s : State}  (j : ReachJob) (x : NextRec) (rec : Word) (b : RecBody)  (hk : Keeps s₀ s) :
    Keeps s₀ (State.jobRec s j x rec b ) := by
  unfold State.jobRec
  try dsimp only
  repeat' first | (with_reducible assumption) | with_reducible exact Keeps.refl _ | (with_reducible apply State.record_keeps) | (with_reducible apply State.putJob_keeps) | (with_reducible apply State.setShadow_keeps) | (fail_if_no_progress (with_reducible refine Keeps.upd ?_)) | (with_reducible apply Keeps.ite) | split | (intro _ _ _) | (intro _ _) | (with_reducible refine Keeps.snd (by with_reducible assumption) ?_) | (with_reducible refine Keeps.fst (by with_reducible assumption) ?_) | (with_reducible refine Keeps.snd2 (by with_reducible assumption) ?_) | (with_reducible refine Keeps.snd3 (by with_reducible assumption) ?_) | dsimp only

theorem State.streamRecord_keeps {s₀ : State} {s : State}  (d : Nat) (rec : Word) (b : RecBody)  (hk : Keeps s₀ s) :
    Keeps s₀ (State.streamRecord s d rec b ) := by
  unfold State.streamRecord
  try dsimp only
  repeat' first | (with_reducible assumption) | with_reducible exact Keeps.refl _ | (with_reducible apply State.loadRec_keeps) | (with_reducible apply State.jobRec_keeps) | (with_reducible apply Keeps.ite) | split | (intro _ _ _) | (intro _ _) | (with_reducible refine Keeps.snd (by with_reducible assumption) ?_) | (with_reducible refine Keeps.fst (by with_reducible assumption) ?_) | (with_reducible refine Keeps.snd2 (by with_reducible assumption) ?_) | (with_reducible refine Keeps.snd3 (by with_reducible assumption) ?_) | dsimp only

theorem doLiteral_keeps {s₀ : State} {s : State}  (d : Nat) (rec : Word) (g : List (List Word × Word))  (hk : Keeps s₀ s) :
    Keeps s₀ (doLiteral d rec g s ) := by
  unfold doLiteral
  try dsimp only
  repeat' first | (with_reducible assumption) | with_reducible exact Keeps.refl _ | (with_reducible apply State.streamRecord_keeps) | split | (intro _ _ _) | (intro _ _) | dsimp only

theorem doRepeatRecord_keeps {s₀ : State} {s : State}  (d : Nat) (rec : Word) (src : Word) (crc : Word)  (hk : Keeps s₀ s) :
    Keeps s₀ (doRepeatRecord d rec src crc s ) := by
  unfold doRepeatRecord
  try dsimp only
  repeat' first | (with_reducible assumption) | with_reducible exact Keeps.refl _ | (with_reducible apply State.streamRecord_keeps) | split | (intro _ _ _) | (intro _ _) | dsimp only

theorem doZeroRecord_keeps {s₀ : State} {s : State}  (d : Nat) (rec : Word) (crc : Word)  (hk : Keeps s₀ s) :
    Keeps s₀ (doZeroRecord d rec crc s ) := by
  unfold doZeroRecord
  try dsimp only
  repeat' first | (with_reducible assumption) | with_reducible exact Keeps.refl _ | (with_reducible apply State.streamRecord_keeps) | split | (intro _ _ _) | (intro _ _) | dsimp only

theorem doFillRecord_keeps {s₀ : State} {s : State}  (d : Nat) (rec : Word) (p : Word) (crc : Word)  (hk : Keeps s₀ s) :
    Keeps s₀ (doFillRecord d rec p crc s ) := by
  unfold doFillRecord
  try dsimp only
  repeat' first | (with_reducible assumption) | with_reducible exact Keeps.refl _ | (with_reducible apply State.streamRecord_keeps) | split | (intro _ _ _) | (intro _ _) | dsimp only

theorem State.stage_keeps {s₀ : State} {s : State}  (l : Load) (n : Nat)  (hk : Keeps s₀ s) :
    Keeps s₀ (State.stage s l n ) := by
  unfold State.stage
  try dsimp only
  repeat' first | (with_reducible assumption) | with_reducible exact Keeps.refl _ | (with_reducible apply State.failLoad_keeps) | (fail_if_no_progress (with_reducible refine Keeps.upd ?_)) | (with_reducible apply Keeps.ite) | split | (intro _ _ _) | (intro _ _) | dsimp only

theorem State.takeSection_keeps {s₀ : State} {s : State}  (l : Load) (x : Section)  (hk : Keeps s₀ s) :
    Keeps s₀ (State.takeSection s l x ) := by
  unfold State.takeSection
  try dsimp only
  repeat' first | (with_reducible assumption) | with_reducible exact Keeps.refl _ | (with_reducible apply State.stage_keeps) | (with_reducible apply State.failLoad_keeps) | (fail_if_no_progress (with_reducible refine Keeps.upd ?_)) | (with_reducible apply Keeps.ite) | split | (intro _ _ _) | (intro _ _) | dsimp only

theorem State.sectionRow_keeps {s₀ : State} {s : State}  (b : SecBody) (crc : Word)  (hk : Keeps s₀ s) :
    Keeps s₀ (State.sectionRow s b crc ) := by
  unfold State.sectionRow
  try dsimp only
  repeat' first | (with_reducible assumption) | with_reducible exact Keeps.refl _ | (with_reducible apply State.takeSection_keeps) | (with_reducible apply Keeps.ite) | split | (intro _ _ _) | (intro _ _) | dsimp only

theorem doHandlersSection_keeps {s₀ : State} {s : State}  (d : Nat) (mask : BitVec 64) (first : Nat) (ws : List Word) (crc : Word)  (hk : Keeps s₀ s) :
    Keeps s₀ (doHandlersSection d mask first ws crc s ) := by
  unfold doHandlersSection
  try dsimp only
  repeat' first | (with_reducible assumption) | with_reducible exact Keeps.refl _ | (with_reducible apply State.sectionRow_keeps) | split | (intro _ _ _) | (intro _ _) | dsimp only

theorem doReginitSection_keeps {s₀ : State} {s : State}  (ps : List (Word × Word))  (crc : Word)  (hk : Keeps s₀ s) :
    Keeps s₀ (doReginitSection ps crc s ) := by
  unfold doReginitSection
  try dsimp only
  repeat' first | (with_reducible assumption) | with_reducible exact Keeps.refl _ | (with_reducible apply State.sectionRow_keeps) | split | (intro _ _ _) | (intro _ _) | dsimp only

theorem doBankinitSection_keeps {s₀ : State} {s : State}  (a : Word) (ws : List (BitVec 64))  (crc : Word)  (hk : Keeps s₀ s) :
    Keeps s₀ (doBankinitSection a ws crc s ) := by
  unfold doBankinitSection
  try dsimp only
  repeat' first | (with_reducible assumption) | with_reducible exact Keeps.refl _ | (with_reducible apply State.sectionRow_keeps) | split | (intro _ _ _) | (intro _ _) | dsimp only

theorem State.patchReads_keeps {s₀ : State} {s : State}  (d : Nat) (r : Nat) (first : Nat) (x0 : Nat) (hk : Keeps s₀ s) :
    Keeps s₀ (State.patchReads s d r first x0) := by
  induction x0 generalizing s d r first with
  | zero =>
    unfold State.patchReads
    try dsimp only
    repeat' first | (with_reducible assumption) | with_reducible exact Keeps.refl _ | (with_reducible apply ih) | (with_reducible apply State.askDma_keeps) | split | (intro _ _ _) | (intro _ _) | dsimp only
  | succ _ ih =>
    unfold State.patchReads
    try dsimp only
    repeat' first | (with_reducible assumption) | with_reducible exact Keeps.refl _ | (with_reducible apply ih) | (with_reducible apply State.askDma_keeps) | split | (intro _ _ _) | (intro _ _) | dsimp only

theorem doFabPatchGo_keeps {s₀ : State} {s : State}  (d : Nat) (r : Nat)  (hk : Keeps s₀ s) :
    Keeps s₀ (doFabPatchGo d r s ) := by
  unfold doFabPatchGo
  try dsimp only
  repeat' first | (with_reducible assumption) | with_reducible exact Keeps.refl _ | (with_reducible apply State.fset_keeps) | (with_reducible apply State.patchReads_keeps) | (with_reducible apply State.setShadow_keeps) | (fail_if_no_progress (with_reducible refine Keeps.upd ?_)) | (with_reducible apply Keeps.ite) | split | (intro _ _ _) | (intro _ _) | (with_reducible refine Keeps.snd (by with_reducible assumption) ?_) | (with_reducible refine Keeps.fst (by with_reducible assumption) ?_) | (with_reducible refine Keeps.snd2 (by with_reducible assumption) ?_) | (with_reducible refine Keeps.snd3 (by with_reducible assumption) ?_) | dsimp only

theorem State.patchGroups_keeps {s₀ : State} {s : State}  (plane : Nat) (d : Nat) (r : Nat) (f : Nat) (x0 : Nat) (x1 : List (Option Word)) (hk : Keeps s₀ s) :
    Keeps s₀ (State.patchGroups s plane d r f x0 x1).1.st := by
  induction x0 generalizing s plane d r f x1 with
  | zero =>
    unfold State.patchGroups
    try dsimp only
    repeat' first | (with_reducible assumption) | with_reducible exact Keeps.refl _ | (with_reducible apply ih) | (with_reducible apply State.literals_keeps) | (with_reducible apply Keeps.ite) | (with_reducible apply Keeps.ite_snd) | (with_reducible apply Keeps.ite_fst) | split | (intro _ _ _) | (intro _ _) | (with_reducible refine Keeps.snd (by with_reducible assumption) ?_) | (with_reducible refine Keeps.fst (by with_reducible assumption) ?_) | (with_reducible refine Keeps.snd2 (by with_reducible assumption) ?_) | (with_reducible refine Keeps.snd3 (by with_reducible assumption) ?_) | dsimp only
  | succ _ ih =>
    unfold State.patchGroups
    try dsimp only
    repeat' first | (with_reducible assumption) | with_reducible exact Keeps.refl _ | (with_reducible apply ih) | (with_reducible apply State.literals_keeps) | (with_reducible apply Keeps.ite) | (with_reducible apply Keeps.ite_snd) | (with_reducible apply Keeps.ite_fst) | split | (intro _ _ _) | (intro _ _) | (with_reducible refine Keeps.snd (by with_reducible assumption) ?_) | (with_reducible refine Keeps.fst (by with_reducible assumption) ?_) | (with_reducible refine Keeps.snd2 (by with_reducible assumption) ?_) | (with_reducible refine Keeps.snd3 (by with_reducible assumption) ?_) | dsimp only

theorem State.patchRecord_keeps {s₀ : State} {s : State}  (d : Nat) (r : Nat) (g : Nat) (rec : Word) (l : List (Option Word))  (hk : Keeps s₀ s) :
    Keeps s₀ (State.patchRecord s d r g rec l ).1.st := by
  unfold State.patchRecord
  try dsimp only
  repeat' first | (with_reducible assumption) | with_reducible exact Keeps.refl _ | (with_reducible apply State.record_keeps) | (with_reducible apply State.patchGroups_keeps) | (with_reducible apply Keeps.ite) | (with_reducible apply Keeps.ite_snd) | (with_reducible apply Keeps.ite_fst) | split | (intro _ _ _) | (intro _ _) | (with_reducible refine Keeps.snd (by with_reducible assumption) ?_) | (with_reducible refine Keeps.fst (by with_reducible assumption) ?_) | (with_reducible refine Keeps.snd2 (by with_reducible assumption) ?_) | (with_reducible refine Keeps.snd3 (by with_reducible assumption) ?_) | dsimp only

theorem State.keepFrames_keeps {s₀ : State} {s : State}  (d : Nat) (r : Nat) (f : Nat) (x0 : Nat) (hk : Keeps s₀ s) :
    Keeps s₀ (State.keepFrames s d r f x0) := by
  induction x0 generalizing s d r f with
  | zero =>
    unfold State.keepFrames
    try dsimp only
    repeat' first | (with_reducible assumption) | with_reducible exact Keeps.refl _ | (with_reducible apply ih) | (with_reducible apply State.setFrame_keeps) | split | (intro _ _ _) | (intro _ _) | dsimp only
  | succ _ ih =>
    unfold State.keepFrames
    try dsimp only
    repeat' first | (with_reducible assumption) | with_reducible exact Keeps.refl _ | (with_reducible apply ih) | (with_reducible apply State.setFrame_keeps) | split | (intro _ _ _) | (intro _ _) | dsimp only

theorem State.buildPatch_keeps {s₀ s : State} (d r f k : Nat) (l : List (Option Word)) (hk : Keeps s₀ s) :
    Keeps s₀ (s.buildPatch d r f k l).st := by
  induction k generalizing s f l with
  | zero =>
    cases l with
    | nil => exact State.keepFrames_keeps _ _ _ _ hk
    | cons x xs => exact hk
  | succ k ih =>
    cases l with
    | nil => exact State.keepFrames_keeps _ _ _ _ hk
    | cons x xs =>
      cases x with
      | none => exact hk
      | some rec =>
        unfold State.buildPatch
        dsimp only
        have h1 := State.patchRecord_keeps d r (recFrame rec % 2048) rec xs
          (State.keepFrames_keeps d r f (recFrame rec % 2048 - f) hk)
        split
        · exact hk
        · split
          · exact h1
          · exact ih _ _ h1

theorem State.dropJob_keeps {s₀ : State} {s : State}  (d : Nat) (r : Nat)  (hk : Keeps s₀ s) :
    Keeps s₀ (State.dropJob s d r ) := by
  unfold State.dropJob
  try dsimp only
  repeat' first | (with_reducible assumption) | with_reducible exact Keeps.refl _ | (fail_if_no_progress (with_reducible refine Keeps.upd ?_)) | (with_reducible apply Keeps.ite) | split | (intro _ _ _) | (intro _ _) | dsimp only

theorem State.patchFail_keeps {s₀ : State} {s : State}  (d : Nat) (r : Nat) (st : Nat) (f : Nat)  (hk : Keeps s₀ s) :
    Keeps s₀ (State.patchFail s d r st f ) := by
  unfold State.patchFail
  try dsimp only
  repeat' first | (with_reducible assumption) | with_reducible exact Keeps.refl _ | (with_reducible apply State.dropJob_keeps) | (with_reducible apply State.notice_keeps) | (with_reducible apply State.fset_keeps) | (with_reducible apply State.setShadow_keeps) | split | (intro _ _ _) | (intro _ _) | (with_reducible refine Keeps.snd (by with_reducible assumption) ?_) | (with_reducible refine Keeps.fst (by with_reducible assumption) ?_) | (with_reducible refine Keeps.snd2 (by with_reducible assumption) ?_) | (with_reducible refine Keeps.snd3 (by with_reducible assumption) ?_) | dsimp only

theorem State.reloadEnd_keeps {s₀ : State} {s : State}  (d : Nat) (r : Nat) (st : Nat) (by_ : Option CmdHdr)  (hk : Keeps s₀ s) :
    Keeps s₀ (State.reloadEnd s d r st by_ ) := by
  unfold State.reloadEnd
  try dsimp only
  repeat' first | (with_reducible assumption) | with_reducible exact Keeps.refl _ | (with_reducible apply State.notice_keeps) | (with_reducible apply State.finish_keeps) | split | (intro _ _ _) | (intro _ _) | (with_reducible refine Keeps.snd (by with_reducible assumption) ?_) | (with_reducible refine Keeps.fst (by with_reducible assumption) ?_) | (with_reducible refine Keeps.snd2 (by with_reducible assumption) ?_) | (with_reducible refine Keeps.snd3 (by with_reducible assumption) ?_) | dsimp only

theorem State.beginReachSwap_keeps {s₀ : State} {s : State}  (d : Nat) (r : Nat)  (hk : Keeps s₀ s) :
    Keeps s₀ (State.beginReachSwap s d r ) := by
  unfold State.beginReachSwap
  try dsimp only
  repeat' first | (with_reducible assumption) | with_reducible exact Keeps.refl _ | (with_reducible apply State.fset_keeps) | (with_reducible apply State.isolate_keeps) | (fail_if_no_progress (with_reducible refine Keeps.upd ?_)) | (with_reducible apply Keeps.ite) | split | (intro _ _ _) | (intro _ _) | dsimp only

theorem State.startReload_keeps {s₀ : State} {s : State}  (d : Nat) (r : Nat) (by_ : Option CmdHdr)  (hk : Keeps s₀ s) :
    Keeps s₀ (State.startReload s d r by_ ) := by
  unfold State.startReload
  try dsimp only
  repeat' first | (with_reducible assumption) | with_reducible exact Keeps.refl _ | (with_reducible apply State.setShadow_keeps) | (fail_if_no_progress (with_reducible refine Keeps.upd ?_)) | (with_reducible apply Keeps.ite) | split | (intro _ _ _) | (intro _ _) | (with_reducible refine Keeps.snd (by with_reducible assumption) ?_) | (with_reducible refine Keeps.fst (by with_reducible assumption) ?_) | (with_reducible refine Keeps.snd2 (by with_reducible assumption) ?_) | (with_reducible refine Keeps.snd3 (by with_reducible assumption) ?_) | dsimp only

theorem State.scrubCheck_keeps {s₀ : State} {s : State}  (d : Nat)  (hk : Keeps s₀ s) :
    Keeps s₀ (State.scrubCheck s d ) := by
  unfold State.scrubCheck
  try dsimp only
  repeat' first | (with_reducible assumption) | with_reducible exact Keeps.refl _ | (with_reducible apply State.count_keeps) | (with_reducible apply State.notice_keeps) | (with_reducible apply State.csrSet_keeps) | (with_reducible apply Keeps.ite) | split | (intro _ _ _) | (intro _ _) | (with_reducible refine Keeps.snd (by with_reducible assumption) ?_) | (with_reducible refine Keeps.fst (by with_reducible assumption) ?_) | (with_reducible refine Keeps.snd2 (by with_reducible assumption) ?_) | (with_reducible refine Keeps.snd3 (by with_reducible assumption) ?_) | dsimp only

theorem State.scrubNext_keeps {s₀ : State} {s : State}  (d : Nat) (r : Nat) (f : Nat) (skipped : Bool)  (hk : Keeps s₀ s) :
    Keeps s₀ (State.scrubNext s d r f skipped ) := by
  unfold State.scrubNext
  try dsimp only
  repeat' first | (with_reducible assumption) | with_reducible exact Keeps.refl _ | (with_reducible apply State.fset_keeps) | (fail_if_no_progress (with_reducible refine Keeps.upd ?_)) | (with_reducible apply Keeps.ite) | split | (intro _ _ _) | (intro _ _) | dsimp only

theorem State.flipFrameBit_keeps {s₀ : State} {s : State}  (d : Nat) (r : Nat) (f : Nat) (i : Nat)  (hk : Keeps s₀ s) :
    Keeps s₀ (State.flipFrameBit s d r f i ) := by
  unfold State.flipFrameBit
  try dsimp only
  repeat' first | (with_reducible assumption) | with_reducible exact Keeps.refl _ | split | (fail_if_no_progress (with_reducible refine Keeps.put ?_ ?_ ?_ ?_ ?_ ?_ ?_)) | (intro c; with_reducible first | exact c.csr | exact c.bankMem | exact c.scratch | exact c.frames | exact c.bar | exact c.flash | exact Memory.wf_drop _ c.scratch | exact Memory.wf_drop _ c.frames | exact Memory.wf_drop _ c.bankMem | exact Memory.wf_drop _ c.flash | exact Memory.wf_drop _ c.bar | exact SMap.wf_mapVals _ c.csr | exact Memory.wf_writeLE _ _ _ c.bankMem | exact Memory.wf_writeLE _ _ _ c.scratch | exact Memory.wf_writeLE _ _ _ c.frames | exact Memory.wf_writeLE _ _ _ c.flash | exact Memory.wf_writes _ _ c.frames | exact Memory.wf_writes _ _ c.bar | exact Memory.wf_write _ _ c.frames | exact Memory.wf_write _ _ c.bar | exact Memory.wf_filter _ c.bar | exact Memory.wf_nil _ | exact barReset_wf) | (fail_if_no_progress (with_reducible refine Keeps.upd ?_)) | (with_reducible apply Keeps.ite) | split | (intro _ _ _) | (intro _ _) | dsimp only

theorem State.keepLatch_keeps {s₀ : State} {s : State}  (d : Nat) (r : Nat) (f : Nat) (i : Nat)  (hk : Keeps s₀ s) :
    Keeps s₀ (State.keepLatch s d r f i ) := by
  unfold State.keepLatch
  try dsimp only
  repeat' first | (with_reducible assumption) | with_reducible exact Keeps.refl _ | (fail_if_no_progress (with_reducible refine Keeps.upd ?_)) | (with_reducible apply Keeps.ite) | split | (intro _ _ _) | (intro _ _) | dsimp only

theorem State.scrubUncorr_keeps {s₀ : State} {s : State}  (d : Nat) (r : Nat) (f : Nat)  (hk : Keeps s₀ s) :
    Keeps s₀ (State.scrubUncorr s d r f ) := by
  unfold State.scrubUncorr
  try dsimp only
  repeat' first | (with_reducible assumption) | with_reducible exact Keeps.refl _ | (with_reducible apply State.count_keeps) | (with_reducible apply State.notice_keeps) | (with_reducible apply State.startReload_keeps) | (with_reducible apply State.fsetBit_keeps) | (with_reducible apply State.noticeLim_keeps) | (with_reducible apply State.csrSet_keeps) | (with_reducible apply Keeps.ite) | split | (intro _ _ _) | (intro _ _) | (with_reducible refine Keeps.snd (by with_reducible assumption) ?_) | (with_reducible refine Keeps.fst (by with_reducible assumption) ?_) | (with_reducible refine Keeps.snd2 (by with_reducible assumption) ?_) | (with_reducible refine Keeps.snd3 (by with_reducible assumption) ?_) | dsimp only

theorem State.checkFrame_keeps {s₀ : State} {s : State}  (d : Nat) (r : Nat) (f : Nat)  (hk : Keeps s₀ s) :
    Keeps s₀ (State.checkFrame s d r f ) := by
  unfold State.checkFrame
  try dsimp only
  repeat' first | (with_reducible assumption) | with_reducible exact Keeps.refl _ | (with_reducible apply State.flipFrameBit_keeps) | (with_reducible apply State.count_keeps) | (with_reducible apply State.scrubUncorr_keeps) | (with_reducible apply State.keepLatch_keeps) | split | (intro _ _ _) | (intro _ _) | dsimp only

theorem doScrubFrame_keeps {s₀ : State} {s : State}  (d : Nat) (upset : List (Fin 2064))  (hk : Keeps s₀ s) :
    Keeps s₀ (doScrubFrame d upset s ) := by
  unfold doScrubFrame
  try dsimp only
  repeat' first | (with_reducible assumption) | with_reducible exact Keeps.refl _ | (with_reducible apply State.flipFrameBit_keeps) | (with_reducible apply State.checkFrame_keeps) | (with_reducible apply State.scrubNext_keeps) | (with_reducible apply State.scrubCheck_keeps) | (with_reducible apply Keeps.foldl) | (with_reducible apply Keeps.foldl_fst) | (with_reducible apply Keeps.foldl_snd) | (with_reducible apply Keeps.ite) | split | (intro _ _ _) | (intro _ _) | dsimp only

end Sys2Proof.Machine
end

