-- ==== Sys2Proof/Laws/KeepsEngines.lean ====
section
/-! SUPPORT. What the operations of Sys2Proof/Machine/Engines.lean keep. -/

set_option linter.all false

namespace Sys2Proof.Machine

theorem State.lockGranted_keeps {s₀ : State} {s : State}  (d : Nat) (e : Nat) (key : Word) (rank : Nat) (cost : Nat)  (hk : Keeps s₀ s) :
    Keeps s₀ (State.lockGranted s d e key rank cost ) := by
  unfold State.lockGranted
  try dsimp only
  repeat' first | (with_reducible assumption) | with_reducible exact Keeps.refl _ | (with_reducible apply State.setEng_keeps) | (with_reducible apply State.engDoneS_keeps) | (fail_if_no_progress (with_reducible refine Keeps.upd ?_)) | split | (intro _ _ _) | (intro _ _) | (with_reducible refine Keeps.snd (by with_reducible assumption) ?_) | (with_reducible refine Keeps.fst (by with_reducible assumption) ?_) | (with_reducible refine Keeps.snd2 (by with_reducible assumption) ?_) | (with_reducible refine Keeps.snd3 (by with_reducible assumption) ?_) | dsimp only

theorem State.wakeArrives_keeps {s₀ : State} {s : State}  (d : Nat) (e : Nat) (key : Word)  (hk : Keeps s₀ s) :
    Keeps s₀ (State.wakeArrives s d e key ) := by
  unfold State.wakeArrives
  try dsimp only
  repeat' first | (with_reducible assumption) | with_reducible exact Keeps.refl _ | (with_reducible apply State.lockGranted_keeps) | (with_reducible apply Keeps.ite) | split | (intro _ _ _) | (intro _ _) | dsimp only

theorem State.branch_keeps {s₀ : State} {s : State}  (d : Nat) (e : Nat) (w : Word) (t : Bool)  (hk : Keeps s₀ s) :
    Keeps s₀ (State.branch s d e w t ) := by
  unfold State.branch
  try dsimp only
  repeat' first | (with_reducible assumption) | with_reducible exact Keeps.refl _ | (with_reducible apply State.engDone_keeps) | (with_reducible apply State.engGo_keeps) | (with_reducible apply Keeps.ite) | split | (intro _ _ _) | (intro _ _) | dsimp only

theorem doEngPark_keeps {s₀ : State} {s : State}  (d : Nat) (e : Nat) (p : Bool)  (hk : Keeps s₀ s) :
    Keeps s₀ (doEngPark d e p s ) := by
  unfold doEngPark
  try dsimp only
  repeat' first | (with_reducible assumption) | with_reducible exact Keeps.refl _ | (with_reducible apply State.fset_keeps) | (with_reducible apply Keeps.ite) | split | (intro _ _ _) | (intro _ _) | dsimp only

theorem doEngEpochWrite_keeps {s₀ : State} {s : State}  (d : Nat) (e : Nat) (epoch : Nat)  (hk : Keeps s₀ s) :
    Keeps s₀ (doEngEpochWrite d e epoch s ) := by
  unfold doEngEpochWrite
  try dsimp only
  repeat' first | (with_reducible assumption) | with_reducible exact Keeps.refl _ | (with_reducible apply State.evalServableAll_keeps) | (with_reducible apply State.fset_keeps) | (with_reducible apply Keeps.ite) | split | (intro _ _ _) | (intro _ _) | dsimp only

theorem State.hsAdvance_keeps {s₀ : State} {s : State}  (d : Nat)  (hk : Keeps s₀ s) :
    Keeps s₀ (State.hsAdvance s d ) := by
  unfold State.hsAdvance
  try dsimp only
  repeat' first | (with_reducible assumption) | with_reducible exact Keeps.refl _ | (with_reducible apply State.fset_keeps) | split | (intro _ _ _) | (intro _ _) | dsimp only

theorem doEngHsDataAccess_keeps {s₀ : State} {s : State}  (d : Nat) (w : Option Word)  (hk : Keeps s₀ s) :
    Keeps s₀ (doEngHsDataAccess d w s ) := by
  unfold doEngHsDataAccess
  try dsimp only
  repeat' first | (with_reducible assumption) | with_reducible exact Keeps.refl _ | (with_reducible apply State.flag_keeps) | (with_reducible apply State.setStoreWord_keeps) | (with_reducible apply State.hsAdvance_keeps) | (with_reducible apply Keeps.ite) | split | (intro _ _ _) | (intro _ _) | dsimp only

theorem doEngSpillWrite_keeps {s₀ : State} {s : State}  (d : Nat) (e : Nat) (v : Word)  (hk : Keeps s₀ s) :
    Keeps s₀ (doEngSpillWrite d e v s ) := by
  unfold doEngSpillWrite
  try dsimp only
  repeat' first | (with_reducible assumption) | with_reducible exact Keeps.refl _ | (with_reducible apply State.fset_keeps) | (with_reducible apply Keeps.ite) | split | (intro _ _ _) | (intro _ _) | dsimp only

theorem State.aluI_keeps {s₀ : State} {s : State}  (d : Nat) (e : Nat) (op : Nat) (legal : State → Word → Bool) (f : Word → Word → Word)  (hk : Keeps s₀ s) :
    Keeps s₀ (State.aluI s d e op legal f ) := by
  unfold State.aluI
  try dsimp only
  repeat' first | (with_reducible assumption) | with_reducible exact Keeps.refl _ | (with_reducible apply State.setReg_keeps) | (with_reducible apply State.engDone_keeps) | (with_reducible apply State.engRun_keeps) | split | (intro _ _ _) | (intro _ _) | dsimp only

theorem doEngAndi_keeps {s₀ : State} {s : State}  (d : Nat) (e : Nat)  (hk : Keeps s₀ s) :
    Keeps s₀ (doEngAndi d e s ) := by
  unfold doEngAndi
  try dsimp only
  repeat' first | (with_reducible assumption) | with_reducible exact Keeps.refl _ | (with_reducible apply State.aluI_keeps) | split | (intro _ _ _) | (intro _ _) | dsimp only

theorem doEngLui_keeps {s₀ : State} {s : State}  (d : Nat) (e : Nat)  (hk : Keeps s₀ s) :
    Keeps s₀ (doEngLui d e s ) := by
  unfold doEngLui
  try dsimp only
  repeat' first | (with_reducible assumption) | with_reducible exact Keeps.refl _ | (with_reducible apply State.aluI_keeps) | split | (intro _ _ _) | (intro _ _) | dsimp only

theorem doEngShi_keeps {s₀ : State} {s : State}  (d : Nat) (e : Nat)  (hk : Keeps s₀ s) :
    Keeps s₀ (doEngShi d e s ) := by
  unfold doEngShi
  try dsimp only
  repeat' first | (with_reducible assumption) | with_reducible exact Keeps.refl _ | (with_reducible apply State.aluI_keeps) | split | (intro _ _ _) | (intro _ _) | dsimp only

theorem State.aluR_keeps {s₀ : State} {s : State}  (d : Nat) (e : Nat) (op : Nat) (n : Nat) (f : Word → Word → Word)  (hk : Keeps s₀ s) :
    Keeps s₀ (State.aluR s d e op n f ) := by
  unfold State.aluR
  try dsimp only
  repeat' first | (with_reducible assumption) | with_reducible exact Keeps.refl _ | (with_reducible apply State.setReg_keeps) | (with_reducible apply State.engDone_keeps) | (with_reducible apply State.engRun_keeps) | split | (intro _ _ _) | (intro _ _) | dsimp only

theorem doEngAnd_keeps {s₀ : State} {s : State}  (d : Nat) (e : Nat)  (hk : Keeps s₀ s) :
    Keeps s₀ (doEngAnd d e s ) := by
  unfold doEngAnd
  try dsimp only
  repeat' first | (with_reducible assumption) | with_reducible exact Keeps.refl _ | (with_reducible apply State.aluR_keeps) | split | (intro _ _ _) | (intro _ _) | dsimp only

theorem doEngSub_keeps {s₀ : State} {s : State}  (d : Nat) (e : Nat)  (hk : Keeps s₀ s) :
    Keeps s₀ (doEngSub d e s ) := by
  unfold doEngSub
  try dsimp only
  repeat' first | (with_reducible assumption) | with_reducible exact Keeps.refl _ | (with_reducible apply State.aluR_keeps) | split | (intro _ _ _) | (intro _ _) | dsimp only

theorem doEngOr_keeps {s₀ : State} {s : State}  (d : Nat) (e : Nat)  (hk : Keeps s₀ s) :
    Keeps s₀ (doEngOr d e s ) := by
  unfold doEngOr
  try dsimp only
  repeat' first | (with_reducible assumption) | with_reducible exact Keeps.refl _ | (with_reducible apply State.aluR_keeps) | split | (intro _ _ _) | (intro _ _) | dsimp only

theorem doEngOri_keeps {s₀ : State} {s : State}  (d : Nat) (e : Nat)  (hk : Keeps s₀ s) :
    Keeps s₀ (doEngOri d e s ) := by
  unfold doEngOri
  try dsimp only
  repeat' first | (with_reducible assumption) | with_reducible exact Keeps.refl _ | (with_reducible apply State.aluI_keeps) | split | (intro _ _ _) | (intro _ _) | dsimp only

theorem doEngSra_keeps {s₀ : State} {s : State}  (d : Nat) (e : Nat)  (hk : Keeps s₀ s) :
    Keeps s₀ (doEngSra d e s ) := by
  unfold doEngSra
  try dsimp only
  repeat' first | (with_reducible assumption) | with_reducible exact Keeps.refl _ | (with_reducible apply State.aluR_keeps) | split | (intro _ _ _) | (intro _ _) | dsimp only

theorem doEngSrl_keeps {s₀ : State} {s : State}  (d : Nat) (e : Nat)  (hk : Keeps s₀ s) :
    Keeps s₀ (doEngSrl d e s ) := by
  unfold doEngSrl
  try dsimp only
  repeat' first | (with_reducible assumption) | with_reducible exact Keeps.refl _ | (with_reducible apply State.aluR_keeps) | split | (intro _ _ _) | (intro _ _) | dsimp only

theorem doEngIns_keeps {s₀ : State} {s : State}  (d : Nat) (e : Nat)  (hk : Keeps s₀ s) :
    Keeps s₀ (doEngIns d e s ) := by
  unfold doEngIns
  try dsimp only
  repeat' first | (with_reducible assumption) | with_reducible exact Keeps.refl _ | (with_reducible apply State.setReg_keeps) | (with_reducible apply State.engDone_keeps) | (with_reducible apply State.engRun_keeps) | split | (intro _ _ _) | (intro _ _) | dsimp only

theorem doEngMul_keeps {s₀ : State} {s : State}  (d : Nat) (e : Nat)  (hk : Keeps s₀ s) :
    Keeps s₀ (doEngMul d e s ) := by
  unfold doEngMul
  try dsimp only
  repeat' first | (with_reducible assumption) | with_reducible exact Keeps.refl _ | (with_reducible apply State.aluR_keeps) | split | (intro _ _ _) | (intro _ _) | dsimp only

theorem doEngXor_keeps {s₀ : State} {s : State}  (d : Nat) (e : Nat)  (hk : Keeps s₀ s) :
    Keeps s₀ (doEngXor d e s ) := by
  unfold doEngXor
  try dsimp only
  repeat' first | (with_reducible assumption) | with_reducible exact Keeps.refl _ | (with_reducible apply State.aluR_keeps) | split | (intro _ _ _) | (intro _ _) | dsimp only

theorem doEngExt_keeps {s₀ : State} {s : State}  (d : Nat) (e : Nat)  (hk : Keeps s₀ s) :
    Keeps s₀ (doEngExt d e s ) := by
  unfold doEngExt
  try dsimp only
  repeat' first | (with_reducible assumption) | with_reducible exact Keeps.refl _ | (with_reducible apply State.aluI_keeps) | split | (intro _ _ _) | (intro _ _) | dsimp only

theorem doEngSlti_keeps {s₀ : State} {s : State}  (d : Nat) (e : Nat)  (hk : Keeps s₀ s) :
    Keeps s₀ (doEngSlti d e s ) := by
  unfold doEngSlti
  try dsimp only
  repeat' first | (with_reducible assumption) | with_reducible exact Keeps.refl _ | (with_reducible apply State.aluI_keeps) | (with_reducible apply Keeps.ite) | split | (intro _ _ _) | (intro _ _) | dsimp only

theorem doEngSlt_keeps {s₀ : State} {s : State}  (d : Nat) (e : Nat)  (hk : Keeps s₀ s) :
    Keeps s₀ (doEngSlt d e s ) := by
  unfold doEngSlt
  try dsimp only
  repeat' first | (with_reducible assumption) | with_reducible exact Keeps.refl _ | (with_reducible apply State.aluR_keeps) | (with_reducible apply Keeps.ite) | split | (intro _ _ _) | (intro _ _) | dsimp only

theorem doEngAddi_keeps {s₀ : State} {s : State}  (d : Nat) (e : Nat)  (hk : Keeps s₀ s) :
    Keeps s₀ (doEngAddi d e s ) := by
  unfold doEngAddi
  try dsimp only
  repeat' first | (with_reducible assumption) | with_reducible exact Keeps.refl _ | (with_reducible apply State.aluI_keeps) | split | (intro _ _ _) | (intro _ _) | dsimp only

theorem doEngSll_keeps {s₀ : State} {s : State}  (d : Nat) (e : Nat)  (hk : Keeps s₀ s) :
    Keeps s₀ (doEngSll d e s ) := by
  unfold doEngSll
  try dsimp only
  repeat' first | (with_reducible assumption) | with_reducible exact Keeps.refl _ | (with_reducible apply State.aluR_keeps) | split | (intro _ _ _) | (intro _ _) | dsimp only

theorem doEngSltu_keeps {s₀ : State} {s : State}  (d : Nat) (e : Nat)  (hk : Keeps s₀ s) :
    Keeps s₀ (doEngSltu d e s ) := by
  unfold doEngSltu
  try dsimp only
  repeat' first | (with_reducible assumption) | with_reducible exact Keeps.refl _ | (with_reducible apply State.aluR_keeps) | (with_reducible apply Keeps.ite) | split | (intro _ _ _) | (intro _ _) | dsimp only

theorem doEngAdd_keeps {s₀ : State} {s : State}  (d : Nat) (e : Nat)  (hk : Keeps s₀ s) :
    Keeps s₀ (doEngAdd d e s ) := by
  unfold doEngAdd
  try dsimp only
  repeat' first | (with_reducible assumption) | with_reducible exact Keeps.refl _ | (with_reducible apply State.aluR_keeps) | split | (intro _ _ _) | (intro _ _) | dsimp only

theorem doEngMfs_keeps {s₀ : State} {s : State}  (d : Nat) (e : Nat)  (hk : Keeps s₀ s) :
    Keeps s₀ (doEngMfs d e s ) := by
  unfold doEngMfs
  try dsimp only
  repeat' first | (with_reducible assumption) | with_reducible exact Keeps.refl _ | (with_reducible apply State.setReg_keeps) | (with_reducible apply State.setEng_keeps) | (with_reducible apply State.engDone_keeps) | (with_reducible apply State.engRun_keeps) | (fail_if_no_progress (with_reducible refine Keeps.upd ?_)) | (with_reducible apply Keeps.ite) | split | (intro _ _ _) | (intro _ _) | dsimp only

theorem State.branchOp_keeps {s₀ : State} {s : State}  (d : Nat) (e : Nat) (op : Nat)  (hk : Keeps s₀ s) :
    Keeps s₀ (State.branchOp s d e op ) := by
  unfold State.branchOp
  try dsimp only
  repeat' first | (with_reducible assumption) | with_reducible exact Keeps.refl _ | (with_reducible apply State.engRun_keeps) | (with_reducible apply State.branch_keeps) | (with_reducible apply Keeps.ite) | split | (intro _ _ _) | (intro _ _) | dsimp only

theorem doEngBltu_keeps {s₀ : State} {s : State}  (d : Nat) (e : Nat)  (hk : Keeps s₀ s) :
    Keeps s₀ (doEngBltu d e s ) := by
  unfold doEngBltu
  try dsimp only
  repeat' first | (with_reducible assumption) | with_reducible exact Keeps.refl _ | (with_reducible apply State.branchOp_keeps) | split | (intro _ _ _) | (intro _ _) | dsimp only

theorem doEngBne_keeps {s₀ : State} {s : State}  (d : Nat) (e : Nat)  (hk : Keeps s₀ s) :
    Keeps s₀ (doEngBne d e s ) := by
  unfold doEngBne
  try dsimp only
  repeat' first | (with_reducible assumption) | with_reducible exact Keeps.refl _ | (with_reducible apply State.branchOp_keeps) | split | (intro _ _ _) | (intro _ _) | dsimp only

theorem State.askBank_keeps {s₀ : State} {s : State}  (d : Nat) (e : Nat) (b : Nat) (word : Nat) (half : Option Bool) (op : BankOp)  (hk : Keeps s₀ s) :
    Keeps s₀ (State.askBank s d e b word half op ) := by
  unfold State.askBank
  try dsimp only
  repeat' first | (with_reducible assumption) | with_reducible exact Keeps.refl _ | (fail_if_no_progress (with_reducible refine Keeps.upd ?_)) | split | (intro _ _ _) | (intro _ _) | (with_reducible refine Keeps.snd (by with_reducible assumption) ?_) | (with_reducible refine Keeps.fst (by with_reducible assumption) ?_) | (with_reducible refine Keeps.snd2 (by with_reducible assumption) ?_) | (with_reducible refine Keeps.snd3 (by with_reducible assumption) ?_) | dsimp only

theorem State.askBankMsg_keeps {s₀ s u : State} {d e a t n : Nat} {op : BankOp}
    (he : s.askBankMsg d e a t op = some (n, u)) (hk : Keeps s₀ s) : Keeps s₀ u := State.accSend_keeps he hk

theorem State.stBody_keeps {s₀ : State} {s : State}  (d : Nat) (e : Nat) (w : Word)  (hk : Keeps s₀ s) :
    Keeps s₀ (State.stBody s d e w ) := by
  unfold State.stBody
  try dsimp only
  repeat' first | (with_reducible assumption) | with_reducible exact Keeps.refl _ | (with_reducible refine State.askBankMsg_keeps (by with_reducible assumption) ?_) | (with_reducible apply State.setEng_keeps) | (with_reducible apply State.engFault_keeps) | (with_reducible apply State.engStall_keeps) | (with_reducible apply State.engDone_keeps) | (with_reducible apply State.setScratchWord_keeps) | (with_reducible apply State.askBank_keeps) | (fail_if_no_progress (with_reducible refine Keeps.upd ?_)) | (with_reducible apply Keeps.ite) | split | (intro _ _ _) | (intro _ _) | (with_reducible refine Keeps.snd (by with_reducible assumption) ?_) | (with_reducible refine Keeps.fst (by with_reducible assumption) ?_) | (with_reducible refine Keeps.snd2 (by with_reducible assumption) ?_) | (with_reducible refine Keeps.snd3 (by with_reducible assumption) ?_) | dsimp only

theorem doEngSt_keeps {s₀ : State} {s : State}  (d : Nat) (e : Nat)  (hk : Keeps s₀ s) :
    Keeps s₀ (doEngSt d e s ) := by
  unfold doEngSt
  try dsimp only
  repeat' first | (with_reducible assumption) | with_reducible exact Keeps.refl _ | (with_reducible apply State.engRun_keeps) | (with_reducible apply State.stBody_keeps) | split | (intro _ _ _) | (intro _ _) | dsimp only

theorem doEngTret_keeps {s₀ : State} {s : State}  (d : Nat) (e : Nat)  (hk : Keeps s₀ s) :
    Keeps s₀ (doEngTret d e s ) := by
  unfold doEngTret
  try dsimp only
  repeat' first | (with_reducible assumption) | with_reducible exact Keeps.refl _ | (with_reducible apply State.setEng_keeps) | (with_reducible apply State.engRun_keeps) | (with_reducible apply State.engGo_keeps) | (fail_if_no_progress (with_reducible refine Keeps.upd ?_)) | split | (intro _ _ _) | (intro _ _) | dsimp only

theorem State.loadWindow_keeps {s₀ : State} {s : State}  (d : Nat) (e : Nat) (win : Nat) (a : Nat)  (hk : Keeps s₀ s) :
    Keeps s₀ (State.loadWindow s d e win a ) := by
  unfold State.loadWindow
  try dsimp only
  repeat' first | (with_reducible assumption) | with_reducible exact Keeps.refl _ | (with_reducible apply State.scratchCheck_keeps) | (with_reducible apply State.setRegIn_keeps) | (with_reducible apply Keeps.foldl) | (with_reducible apply Keeps.foldl_fst) | (with_reducible apply Keeps.foldl_snd) | split | (intro _ _ _) | (intro _ _) | (with_reducible refine Keeps.snd (by with_reducible assumption) ?_) | (with_reducible refine Keeps.fst (by with_reducible assumption) ?_) | (with_reducible refine Keeps.snd2 (by with_reducible assumption) ?_) | (with_reducible refine Keeps.snd3 (by with_reducible assumption) ?_) | dsimp only

theorem State.restoreBody_keeps {s₀ : State} {s : State}  (d : Nat) (e : Nat)  (hk : Keeps s₀ s) :
    Keeps s₀ (State.restoreBody s d e ) := by
  unfold State.restoreBody
  try dsimp only
  repeat' first | (with_reducible assumption) | with_reducible exact Keeps.refl _ | (with_reducible apply State.setEng_keeps) | (with_reducible apply State.engFault_keeps) | (with_reducible apply State.loadWindow_keeps) | (with_reducible apply State.engDone_keeps) | (fail_if_no_progress (with_reducible refine Keeps.upd ?_)) | (with_reducible apply Keeps.ite) | split | (intro _ _ _) | (intro _ _) | (with_reducible refine Keeps.snd (by with_reducible assumption) ?_) | (with_reducible refine Keeps.fst (by with_reducible assumption) ?_) | (with_reducible refine Keeps.snd2 (by with_reducible assumption) ?_) | (with_reducible refine Keeps.snd3 (by with_reducible assumption) ?_) | dsimp only

theorem doEngWsvRestore_keeps {s₀ : State} {s : State}  (d : Nat) (e : Nat)  (hk : Keeps s₀ s) :
    Keeps s₀ (doEngWsvRestore d e s ) := by
  unfold doEngWsvRestore
  try dsimp only
  repeat' first | (with_reducible assumption) | with_reducible exact Keeps.refl _ | (with_reducible apply State.restoreBody_keeps) | (with_reducible apply State.engRun_keeps) | split | (intro _ _ _) | (intro _ _) | dsimp only

theorem State.ldNow_keeps {s₀ : State} {s : State}  (d : Nat) (e : Nat) (u : Unit_) (pair : Bool)  (hk : Keeps s₀ s) :
    Keeps s₀ (State.ldNow s d e u pair ).2.2 := by
  unfold State.ldNow
  try dsimp only
  repeat' first | (with_reducible assumption) | with_reducible exact Keeps.refl _ | (with_reducible apply State.scratchCheck_keeps) | (with_reducible apply State.storeCheck_keeps) | (with_reducible apply Keeps.ite) | (with_reducible apply Keeps.ite_snd) | (with_reducible apply Keeps.ite_fst) | split | (intro _ _ _) | (intro _ _) | (with_reducible refine Keeps.snd (by with_reducible assumption) ?_) | (with_reducible refine Keeps.fst (by with_reducible assumption) ?_) | (with_reducible refine Keeps.snd2 (by with_reducible assumption) ?_) | (with_reducible refine Keeps.snd3 (by with_reducible assumption) ?_) | dsimp only

theorem State.ldBody_keeps {s₀ : State} {s : State}  (d : Nat) (e : Nat) (w : Word)  (hk : Keeps s₀ s) :
    Keeps s₀ (State.ldBody s d e w ) := by
  unfold State.ldBody
  try dsimp only
  repeat' first | (with_reducible assumption) | with_reducible exact Keeps.refl _ | (with_reducible refine State.askBankMsg_keeps (by with_reducible assumption) ?_) | (with_reducible apply State.setEng_keeps) | (with_reducible apply State.engFault_keeps) | (with_reducible apply State.setRegs_keeps) | (with_reducible apply State.engStall_keeps) | (with_reducible apply State.setReg_keeps) | (with_reducible apply State.askBank_keeps) | (with_reducible apply State.ldNow_keeps) | (with_reducible apply State.engDoneS_keeps) | (fail_if_no_progress (with_reducible refine Keeps.upd ?_)) | (with_reducible apply Keeps.ite) | split | (intro _ _ _) | (intro _ _) | (with_reducible refine Keeps.snd (by with_reducible assumption) ?_) | (with_reducible refine Keeps.fst (by with_reducible assumption) ?_) | (with_reducible refine Keeps.snd2 (by with_reducible assumption) ?_) | (with_reducible refine Keeps.snd3 (by with_reducible assumption) ?_) | dsimp only

theorem doEngLd_keeps {s₀ : State} {s : State}  (d : Nat) (e : Nat)  (hk : Keeps s₀ s) :
    Keeps s₀ (doEngLd d e s ) := by
  unfold doEngLd
  try dsimp only
  repeat' first | (with_reducible assumption) | with_reducible exact Keeps.refl _ | (with_reducible apply State.engRun_keeps) | (with_reducible apply State.ldBody_keeps) | split | (intro _ _ _) | (intro _ _) | dsimp only

theorem doEngJr_keeps {s₀ : State} {s : State}  (d : Nat) (e : Nat)  (hk : Keeps s₀ s) :
    Keeps s₀ (doEngJr d e s ) := by
  unfold doEngJr
  try dsimp only
  repeat' first | (with_reducible assumption) | with_reducible exact Keeps.refl _ | (with_reducible apply State.engRun_keeps) | (with_reducible apply State.engGo_keeps) | split | (intro _ _ _) | (intro _ _) | dsimp only

theorem State.saveWindow_keeps {s₀ : State} {s : State}  (d : Nat) (e : Nat) (win : Nat) (a : Nat)  (hk : Keeps s₀ s) :
    Keeps s₀ (State.saveWindow s d e win a ) := by
  unfold State.saveWindow
  try dsimp only
  repeat' first | (with_reducible assumption) | with_reducible exact Keeps.refl _ | (with_reducible apply State.setScratchWord_keeps) | (with_reducible apply Keeps.foldl) | (with_reducible apply Keeps.foldl_fst) | (with_reducible apply Keeps.foldl_snd) | split | (intro _ _ _) | (intro _ _) | dsimp only

theorem State.saveBody_keeps {s₀ : State} {s : State}  (d : Nat) (e : Nat)  (hk : Keeps s₀ s) :
    Keeps s₀ (State.saveBody s d e ) := by
  unfold State.saveBody
  try dsimp only
  repeat' first | (with_reducible assumption) | with_reducible exact Keeps.refl _ | (with_reducible apply State.setEng_keeps) | (with_reducible apply State.engFault_keeps) | (with_reducible apply State.engDone_keeps) | (with_reducible apply State.saveWindow_keeps) | (fail_if_no_progress (with_reducible refine Keeps.upd ?_)) | (with_reducible apply Keeps.ite) | split | (intro _ _ _) | (intro _ _) | (with_reducible refine Keeps.snd (by with_reducible assumption) ?_) | (with_reducible refine Keeps.fst (by with_reducible assumption) ?_) | (with_reducible refine Keeps.snd2 (by with_reducible assumption) ?_) | (with_reducible refine Keeps.snd3 (by with_reducible assumption) ?_) | dsimp only

theorem doEngWsvSave_keeps {s₀ : State} {s : State}  (d : Nat) (e : Nat)  (hk : Keeps s₀ s) :
    Keeps s₀ (doEngWsvSave d e s ) := by
  unfold doEngWsvSave
  try dsimp only
  repeat' first | (with_reducible assumption) | with_reducible exact Keeps.refl _ | (with_reducible apply State.engRun_keeps) | (with_reducible apply State.saveBody_keeps) | split | (intro _ _ _) | (intro _ _) | dsimp only

theorem State.copyRegs_keeps {s₀ : State} {s : State}  (d : Nat) (e : Nat) (wa : Nat) (a : Nat) (wb : Nat) (b : Nat) (x0 : Nat) (hk : Keeps s₀ s) :
    Keeps s₀ (State.copyRegs s d e wa a wb b x0) := by
  induction x0 generalizing s d e wa a wb b with
  | zero =>
    unfold State.copyRegs
    try dsimp only
    repeat' first | (with_reducible assumption) | with_reducible exact Keeps.refl _ | (with_reducible apply ih) | (with_reducible apply State.setRegIn_keeps) | split | (intro _ _ _) | (intro _ _) | dsimp only
  | succ _ ih =>
    unfold State.copyRegs
    try dsimp only
    repeat' first | (with_reducible assumption) | with_reducible exact Keeps.refl _ | (with_reducible apply ih) | (with_reducible apply State.setRegIn_keeps) | split | (intro _ _ _) | (intro _ _) | dsimp only

theorem State.callBody_keeps {s₀ : State} {s : State}  (d : Nat) (e : Nat) (w : Word)  (hk : Keeps s₀ s) :
    Keeps s₀ (State.callBody s d e w ) := by
  unfold State.callBody
  try dsimp only
  repeat' first | (with_reducible assumption) | with_reducible exact Keeps.refl _ | (with_reducible apply State.setEng_keeps) | (with_reducible apply State.trapEnter_keeps) | (with_reducible apply State.engGo_keeps) | (with_reducible apply State.setRegIn_keeps) | (with_reducible apply State.copyRegs_keeps) | (fail_if_no_progress (with_reducible refine Keeps.upd ?_)) | (with_reducible apply Keeps.ite) | split | (intro _ _ _) | (intro _ _) | (with_reducible refine Keeps.snd (by with_reducible assumption) ?_) | (with_reducible refine Keeps.fst (by with_reducible assumption) ?_) | (with_reducible refine Keeps.snd2 (by with_reducible assumption) ?_) | (with_reducible refine Keeps.snd3 (by with_reducible assumption) ?_) | dsimp only

theorem doEngCall_keeps {s₀ : State} {s : State}  (d : Nat) (e : Nat)  (hk : Keeps s₀ s) :
    Keeps s₀ (doEngCall d e s ) := by
  unfold doEngCall
  try dsimp only
  repeat' first | (with_reducible assumption) | with_reducible exact Keeps.refl _ | (with_reducible apply State.callBody_keeps) | (with_reducible apply State.engRun_keeps) | split | (intro _ _ _) | (intro _ _) | dsimp only

theorem doEngBst_keeps {s₀ : State} {s : State}  (d : Nat) (e : Nat)  (hk : Keeps s₀ s) :
    Keeps s₀ (doEngBst d e s ) := by
  unfold doEngBst
  try dsimp only
  repeat' first | (with_reducible assumption) | with_reducible exact Keeps.refl _ | (with_reducible apply State.engRun_keeps) | (with_reducible apply State.branch_keeps) | (with_reducible apply Keeps.ite) | split | (intro _ _ _) | (intro _ _) | dsimp only

theorem doEngBlt_keeps {s₀ : State} {s : State}  (d : Nat) (e : Nat)  (hk : Keeps s₀ s) :
    Keeps s₀ (doEngBlt d e s ) := by
  unfold doEngBlt
  try dsimp only
  repeat' first | (with_reducible assumption) | with_reducible exact Keeps.refl _ | (with_reducible apply State.branchOp_keeps) | split | (intro _ _ _) | (intro _ _) | dsimp only

theorem doEngBgeu_keeps {s₀ : State} {s : State}  (d : Nat) (e : Nat)  (hk : Keeps s₀ s) :
    Keeps s₀ (doEngBgeu d e s ) := by
  unfold doEngBgeu
  try dsimp only
  repeat' first | (with_reducible assumption) | with_reducible exact Keeps.refl _ | (with_reducible apply State.branchOp_keeps) | split | (intro _ _ _) | (intro _ _) | dsimp only

theorem doEngTrap_keeps {s₀ : State} {s : State}  (d : Nat) (e : Nat)  (hk : Keeps s₀ s) :
    Keeps s₀ (doEngTrap d e s ) := by
  unfold doEngTrap
  try dsimp only
  repeat' first | (with_reducible assumption) | with_reducible exact Keeps.refl _ | (with_reducible apply State.trapEnter_keeps) | (with_reducible apply State.engRun_keeps) | split | (intro _ _ _) | (intro _ _) | dsimp only

theorem State.retBody_keeps {s₀ : State} {s : State}  (d : Nat) (e : Nat) (w : Word)  (hk : Keeps s₀ s) :
    Keeps s₀ (State.retBody s d e w ) := by
  unfold State.retBody
  try dsimp only
  repeat' first | (with_reducible assumption) | with_reducible exact Keeps.refl _ | (with_reducible apply State.setEng_keeps) | (with_reducible apply State.trapEnter_keeps) | (with_reducible apply State.engGo_keeps) | (with_reducible apply State.copyRegs_keeps) | (fail_if_no_progress (with_reducible refine Keeps.upd ?_)) | (with_reducible apply Keeps.ite) | split | (intro _ _ _) | (intro _ _) | (with_reducible refine Keeps.snd (by with_reducible assumption) ?_) | (with_reducible refine Keeps.fst (by with_reducible assumption) ?_) | (with_reducible refine Keeps.snd2 (by with_reducible assumption) ?_) | (with_reducible refine Keeps.snd3 (by with_reducible assumption) ?_) | dsimp only

theorem doEngRet_keeps {s₀ : State} {s : State}  (d : Nat) (e : Nat)  (hk : Keeps s₀ s) :
    Keeps s₀ (doEngRet d e s ) := by
  unfold doEngRet
  try dsimp only
  repeat' first | (with_reducible assumption) | with_reducible exact Keeps.refl _ | (with_reducible apply State.engRun_keeps) | (with_reducible apply State.retBody_keeps) | split | (intro _ _ _) | (intro _ _) | dsimp only

theorem doEngBeq_keeps {s₀ : State} {s : State}  (d : Nat) (e : Nat)  (hk : Keeps s₀ s) :
    Keeps s₀ (doEngBeq d e s ) := by
  unfold doEngBeq
  try dsimp only
  repeat' first | (with_reducible assumption) | with_reducible exact Keeps.refl _ | (with_reducible apply State.branchOp_keeps) | split | (intro _ _ _) | (intro _ _) | dsimp only

theorem doEngEnd_keeps {s₀ : State} {s : State}  (d : Nat) (e : Nat)  (hk : Keeps s₀ s) :
    Keeps s₀ (doEngEnd d e s ) := by
  unfold doEngEnd
  try dsimp only
  repeat' first | (with_reducible assumption) | with_reducible exact Keeps.refl _ | (with_reducible apply State.engEnd_keeps) | (with_reducible apply State.engRun_keeps) | (with_reducible apply State.engGo_keeps) | split | (intro _ _ _) | (intro _ _) | dsimp only

theorem doEngBge_keeps {s₀ : State} {s : State}  (d : Nat) (e : Nat)  (hk : Keeps s₀ s) :
    Keeps s₀ (doEngBge d e s ) := by
  unfold doEngBge
  try dsimp only
  repeat' first | (with_reducible assumption) | with_reducible exact Keeps.refl _ | (with_reducible apply State.branchOp_keeps) | split | (intro _ _ _) | (intro _ _) | dsimp only

theorem doEngMts_keeps {s₀ : State} {s : State}  (d : Nat) (e : Nat)  (hk : Keeps s₀ s) :
    Keeps s₀ (doEngMts d e s ) := by
  unfold doEngMts
  try dsimp only
  repeat' first | (with_reducible assumption) | with_reducible exact Keeps.refl _ | (with_reducible apply State.setEng_keeps) | (with_reducible apply State.engDone_keeps) | (with_reducible apply State.engRun_keeps) | (fail_if_no_progress (with_reducible refine Keeps.upd ?_)) | split | (intro _ _ _) | (intro _ _) | dsimp only

theorem State.waitrBody_keeps {s₀ : State} {s : State}  (d : Nat) (e : Nat) (w : Word)  (hk : Keeps s₀ s) :
    Keeps s₀ (State.waitrBody s d e w ) := by
  unfold State.waitrBody
  try dsimp only
  repeat' first | (with_reducible assumption) | with_reducible exact Keeps.refl _ | (with_reducible apply State.setEng_keeps) | (with_reducible apply State.engFault_keeps) | (with_reducible apply State.engStall_keeps) | (with_reducible apply State.engDoneS_keeps) | (fail_if_no_progress (with_reducible refine Keeps.upd ?_)) | (with_reducible apply Keeps.ite) | split | (intro _ _ _) | (intro _ _) | (with_reducible refine Keeps.snd (by with_reducible assumption) ?_) | (with_reducible refine Keeps.fst (by with_reducible assumption) ?_) | (with_reducible refine Keeps.snd2 (by with_reducible assumption) ?_) | (with_reducible refine Keeps.snd3 (by with_reducible assumption) ?_) | dsimp only

theorem doEngWaitr_keeps {s₀ : State} {s : State}  (d : Nat) (e : Nat)  (hk : Keeps s₀ s) :
    Keeps s₀ (doEngWaitr d e s ) := by
  unfold doEngWaitr
  try dsimp only
  repeat' first | (with_reducible assumption) | with_reducible exact Keeps.refl _ | (with_reducible apply State.waitrBody_keeps) | (with_reducible apply State.engRun_keeps) | split | (intro _ _ _) | (intro _ _) | dsimp only

theorem State.batomBody_keeps {s₀ : State} {s : State}  (d : Nat) (e : Nat) (w : Word) (op : BitVec 64 → BankOp)  (hk : Keeps s₀ s) :
    Keeps s₀ (State.batomBody s d e w op ) := by
  unfold State.batomBody
  try dsimp only
  repeat' first | (with_reducible assumption) | with_reducible exact Keeps.refl _ | (with_reducible refine State.askBankMsg_keeps (by with_reducible assumption) ?_) | (with_reducible apply State.setEng_keeps) | (with_reducible apply State.engFault_keeps) | (with_reducible apply State.engStall_keeps) | (with_reducible apply State.askBank_keeps) | (fail_if_no_progress (with_reducible refine Keeps.upd ?_)) | (with_reducible apply Keeps.ite) | split | (intro _ _ _) | (intro _ _) | (with_reducible refine Keeps.snd (by with_reducible assumption) ?_) | (with_reducible refine Keeps.fst (by with_reducible assumption) ?_) | (with_reducible refine Keeps.snd2 (by with_reducible assumption) ?_) | (with_reducible refine Keeps.snd3 (by with_reducible assumption) ?_) | dsimp only

theorem doEngBatomSwap_keeps {s₀ : State} {s : State}  (d : Nat) (e : Nat)  (hk : Keeps s₀ s) :
    Keeps s₀ (doEngBatomSwap d e s ) := by
  unfold doEngBatomSwap
  try dsimp only
  repeat' first | (with_reducible assumption) | with_reducible exact Keeps.refl _ | (with_reducible apply State.engRun_keeps) | (with_reducible apply State.batomBody_keeps) | split | (intro _ _ _) | (intro _ _) | dsimp only

theorem State.unlockBody_keeps {s₀ : State} {s : State}  (d : Nat) (e : Nat) (w : Word)  (hk : Keeps s₀ s) :
    Keeps s₀ (State.unlockBody s d e w ) := by
  unfold State.unlockBody
  try dsimp only
  repeat' first | (with_reducible assumption) | with_reducible exact Keeps.refl _ | (with_reducible apply State.setEng_keeps) | (with_reducible apply State.engDoneS_keeps) | (with_reducible apply State.lockEsc_keeps) | (fail_if_no_progress (with_reducible refine Keeps.upd ?_)) | (with_reducible apply Keeps.ite) | split | (intro _ _ _) | (intro _ _) | dsimp only

theorem doEngLockRelease_keeps {s₀ : State} {s : State}  (d : Nat) (e : Nat)  (hk : Keeps s₀ s) :
    Keeps s₀ (doEngLockRelease d e s ) := by
  unfold doEngLockRelease
  try dsimp only
  repeat' first | (with_reducible assumption) | with_reducible exact Keeps.refl _ | (with_reducible apply State.unlockBody_keeps) | (with_reducible apply State.engRun_keeps) | split | (intro _ _ _) | (intro _ _) | dsimp only

theorem State.fenceBody_keeps {s₀ : State} {s : State}  (d : Nat) (e : Nat) (w : Word)  (hk : Keeps s₀ s) :
    Keeps s₀ (State.fenceBody s d e w ) := by
  unfold State.fenceBody
  try dsimp only
  repeat' first | (with_reducible assumption) | with_reducible exact Keeps.refl _ | (with_reducible apply State.engStall_keeps) | (with_reducible apply State.engDoneS_keeps) | (with_reducible apply State.setPair_keeps) | (with_reducible apply Keeps.ite) | split | (intro _ _ _) | (intro _ _) | dsimp only

theorem doEngFenceWait_keeps {s₀ : State} {s : State}  (d : Nat) (e : Nat)  (hk : Keeps s₀ s) :
    Keeps s₀ (doEngFenceWait d e s ) := by
  unfold doEngFenceWait
  try dsimp only
  repeat' first | (with_reducible assumption) | with_reducible exact Keeps.refl _ | (with_reducible apply State.engRun_keeps) | (with_reducible apply State.fenceBody_keeps) | split | (intro _ _ _) | (intro _ _) | dsimp only

theorem doEngBatomFetchAdd_keeps {s₀ : State} {s : State}  (d : Nat) (e : Nat)  (hk : Keeps s₀ s) :
    Keeps s₀ (doEngBatomFetchAdd d e s ) := by
  unfold doEngBatomFetchAdd
  try dsimp only
  repeat' first | (with_reducible assumption) | with_reducible exact Keeps.refl _ | (with_reducible apply State.engRun_keeps) | (with_reducible apply State.batomBody_keeps) | split | (intro _ _ _) | (intro _ _) | dsimp only

theorem State.newLock_keeps {s₀ : State} {s : State}  (key : Word) (rank : Nat) (d : Nat) (e : Nat)  (hk : Keeps s₀ s) :
    Keeps s₀ (State.newLock s key rank d e ) := by
  unfold State.newLock
  try dsimp only
  repeat' first | (with_reducible assumption) | with_reducible exact Keeps.refl _ | (with_reducible apply State.setLocks_keeps) | split | (intro _ _ _) | (intro _ _) | (with_reducible refine Keeps.snd (by with_reducible assumption) ?_) | (with_reducible refine Keeps.fst (by with_reducible assumption) ?_) | (with_reducible refine Keeps.snd2 (by with_reducible assumption) ?_) | (with_reducible refine Keeps.snd3 (by with_reducible assumption) ?_) | dsimp only

theorem State.lockBody_keeps {s₀ : State} {s : State}  (d : Nat) (e : Nat) (w : Word)  (hk : Keeps s₀ s) :
    Keeps s₀ (State.lockBody s d e w ) := by
  unfold State.lockBody
  try dsimp only
  repeat' first | (with_reducible assumption) | with_reducible exact Keeps.refl _ | (with_reducible apply State.setEng_keeps) | (with_reducible apply State.engFault_keeps) | (with_reducible apply State.engStall_keeps) | (with_reducible apply State.engLost_keeps) | (with_reducible apply State.engDoneS_keeps) | (with_reducible apply State.lockGranted_keeps) | (with_reducible apply State.newLock_keeps) | (fail_if_no_progress (with_reducible refine Keeps.upd ?_)) | (with_reducible apply Keeps.ite) | split | (intro _ _ _) | (intro _ _) | (with_reducible refine Keeps.snd (by with_reducible assumption) ?_) | (with_reducible refine Keeps.fst (by with_reducible assumption) ?_) | (with_reducible refine Keeps.snd2 (by with_reducible assumption) ?_) | (with_reducible refine Keeps.snd3 (by with_reducible assumption) ?_) | dsimp only

theorem doEngLock_keeps {s₀ : State} {s : State}  (d : Nat) (e : Nat)  (hk : Keeps s₀ s) :
    Keeps s₀ (doEngLock d e s ) := by
  unfold doEngLock
  try dsimp only
  repeat' first | (with_reducible assumption) | with_reducible exact Keeps.refl _ | (with_reducible apply State.lockBody_keeps) | (with_reducible apply State.engRun_keeps) | split | (intro _ _ _) | (intro _ _) | dsimp only

theorem State.dqpushBody_keeps {s₀ : State} {s : State}  (d : Nat) (e : Nat) (w : Word)  (hk : Keeps s₀ s) :
    Keeps s₀ (State.dqpushBody s d e w ) := by
  unfold State.dqpushBody
  try dsimp only
  repeat' first | (with_reducible assumption) | with_reducible exact Keeps.refl _ | (with_reducible apply State.count_keeps) | (with_reducible apply State.setEng_keeps) | (with_reducible apply State.engDoneS_keeps) | (with_reducible apply State.noticeLim_keeps) | (fail_if_no_progress (with_reducible refine Keeps.upd ?_)) | (with_reducible apply Keeps.ite) | split | (intro _ _ _) | (intro _ _) | (with_reducible refine Keeps.snd (by with_reducible assumption) ?_) | (with_reducible refine Keeps.fst (by with_reducible assumption) ?_) | (with_reducible refine Keeps.snd2 (by with_reducible assumption) ?_) | (with_reducible refine Keeps.snd3 (by with_reducible assumption) ?_) | dsimp only

theorem doEngDqpush_keeps {s₀ : State} {s : State}  (d : Nat) (e : Nat)  (hk : Keeps s₀ s) :
    Keeps s₀ (doEngDqpush d e s ) := by
  unfold doEngDqpush
  try dsimp only
  repeat' first | (with_reducible assumption) | with_reducible exact Keeps.refl _ | (with_reducible apply State.engRun_keeps) | (with_reducible apply State.dqpushBody_keeps) | split | (intro _ _ _) | (intro _ _) | dsimp only

theorem State.dqpopBody_keeps {s₀ : State} {s : State}  (d : Nat) (e : Nat) (w : Word)  (hk : Keeps s₀ s) :
    Keeps s₀ (State.dqpopBody s d e w ) := by
  unfold State.dqpopBody
  try dsimp only
  repeat' first | (with_reducible assumption) | with_reducible exact Keeps.refl _ | (with_reducible apply State.engStall_keeps) | (with_reducible apply State.setPair_keeps) | (with_reducible apply State.ditchTurn_keeps) | (with_reducible apply State.engDoneS_keeps) | (with_reducible apply State.ditchPop_keeps) | (fail_if_no_progress (with_reducible refine Keeps.upd ?_)) | (with_reducible apply Keeps.ite) | split | (intro _ _ _) | (intro _ _) | (with_reducible refine Keeps.snd (by with_reducible assumption) ?_) | (with_reducible refine Keeps.fst (by with_reducible assumption) ?_) | (with_reducible refine Keeps.snd2 (by with_reducible assumption) ?_) | (with_reducible refine Keeps.snd3 (by with_reducible assumption) ?_) | dsimp only

theorem doEngDqpop_keeps {s₀ : State} {s : State}  (d : Nat) (e : Nat)  (hk : Keeps s₀ s) :
    Keeps s₀ (doEngDqpop d e s ) := by
  unfold doEngDqpop
  try dsimp only
  repeat' first | (with_reducible assumption) | with_reducible exact Keeps.refl _ | (with_reducible apply State.engRun_keeps) | (with_reducible apply State.dqpopBody_keeps) | split | (intro _ _ _) | (intro _ _) | dsimp only

theorem State.dwrBody_keeps {s₀ : State} {s : State}  (d : Nat) (e : Nat) (w : Word)  (hk : Keeps s₀ s) :
    Keeps s₀ (State.dwrBody s d e w ) := by
  unfold State.dwrBody
  try dsimp only
  repeat' first | (with_reducible assumption) | with_reducible exact Keeps.refl _ | (with_reducible apply State.engFault_keeps) | (with_reducible apply State.engStall_keeps) | (with_reducible apply State.engLost_keeps) | (with_reducible apply State.engDoneS_keeps) | (with_reducible apply State.eccSet_keeps) | (with_reducible apply State.setEntry_keeps) | (with_reducible apply Keeps.ite) | split | (intro _ _ _) | (intro _ _) | dsimp only

theorem doEngDwr_keeps {s₀ : State} {s : State}  (d : Nat) (e : Nat)  (hk : Keeps s₀ s) :
    Keeps s₀ (doEngDwr d e s ) := by
  unfold doEngDwr
  try dsimp only
  repeat' first | (with_reducible assumption) | with_reducible exact Keeps.refl _ | (with_reducible apply State.engRun_keeps) | (with_reducible apply State.dwrBody_keeps) | split | (intro _ _ _) | (intro _ _) | dsimp only

theorem doEngFwcp_keeps {s₀ : State} {s : State}  (d : Nat) (e : Nat)  (hk : Keeps s₀ s) :
    Keeps s₀ (doEngFwcp d e s ) := by
  unfold doEngFwcp
  try dsimp only
  repeat' first | (with_reducible assumption) | with_reducible exact Keeps.refl _ | (with_reducible apply State.setEng_keeps) | (with_reducible apply State.engDone_keeps) | (with_reducible apply State.engRun_keeps) | (fail_if_no_progress (with_reducible refine Keeps.upd ?_)) | split | (intro _ _ _) | (intro _ _) | dsimp only

theorem State.dlookBody_keeps {s₀ : State} {s : State}  (d : Nat) (e : Nat) (w : Word)  (hk : Keeps s₀ s) :
    Keeps s₀ (State.dlookBody s d e w ) := by
  unfold State.dlookBody
  try dsimp only
  repeat' first | (with_reducible assumption) | with_reducible exact Keeps.refl _ | (with_reducible apply State.engStall_keeps) | (with_reducible apply State.engLost_keeps) | (with_reducible apply State.setPair_keeps) | (with_reducible apply State.engDoneS_keeps) | (with_reducible apply State.eccSet_keeps) | (with_reducible apply Keeps.ite) | split | (intro _ _ _) | (intro _ _) | dsimp only

theorem doEngDlook_keeps {s₀ : State} {s : State}  (d : Nat) (e : Nat)  (hk : Keeps s₀ s) :
    Keeps s₀ (doEngDlook d e s ) := by
  unfold doEngDlook
  try dsimp only
  repeat' first | (with_reducible assumption) | with_reducible exact Keeps.refl _ | (with_reducible apply State.dlookBody_keeps) | (with_reducible apply State.engRun_keeps) | split | (intro _ _ _) | (intro _ _) | dsimp only

theorem State.sendBody_keeps {s₀ : State} {s : State}  (d : Nat) (e : Nat) (w : Word)  (hk : Keeps s₀ s) :
    Keeps s₀ (State.sendBody s d e w ) := by
  unfold State.sendBody
  try dsimp only
  repeat' first | (with_reducible assumption) | with_reducible exact Keeps.refl _ | (with_reducible apply State.setEng_keeps) | (with_reducible apply State.engFault_keeps) | (with_reducible apply State.engStall_keeps) | (with_reducible apply State.setReg_keeps) | (with_reducible apply State.inject_keeps) | (with_reducible apply State.engDoneS_keeps) | (with_reducible apply State.draw_keeps) | (fail_if_no_progress (with_reducible refine Keeps.upd ?_)) | (with_reducible apply Keeps.ite) | split | (intro _ _ _) | (intro _ _) | (with_reducible refine Keeps.snd (by with_reducible assumption) ?_) | (with_reducible refine Keeps.fst (by with_reducible assumption) ?_) | (with_reducible refine Keeps.snd2 (by with_reducible assumption) ?_) | (with_reducible refine Keeps.snd3 (by with_reducible assumption) ?_) | dsimp only

theorem doEngSend_keeps {s₀ : State} {s : State}  (d : Nat) (e : Nat)  (hk : Keeps s₀ s) :
    Keeps s₀ (doEngSend d e s ) := by
  unfold doEngSend
  try dsimp only
  repeat' first | (with_reducible assumption) | with_reducible exact Keeps.refl _ | (with_reducible apply State.sendBody_keeps) | (with_reducible apply State.engRun_keeps) | split | (intro _ _ _) | (intro _ _) | dsimp only

theorem State.notifyBody_keeps {s₀ : State} {s : State}  (d : Nat) (e : Nat) (w : Word)  (hk : Keeps s₀ s) :
    Keeps s₀ (State.notifyBody s d e w ) := by
  unfold State.notifyBody
  try dsimp only
  repeat' first | (with_reducible assumption) | with_reducible exact Keeps.refl _ | (with_reducible apply State.setEng_keeps) | (with_reducible apply State.engStall_keeps) | (with_reducible apply State.engDoneS_keeps) | (fail_if_no_progress (with_reducible refine Keeps.upd ?_)) | (with_reducible apply Keeps.ite) | split | (intro _ _ _) | (intro _ _) | (with_reducible refine Keeps.snd (by with_reducible assumption) ?_) | (with_reducible refine Keeps.fst (by with_reducible assumption) ?_) | (with_reducible refine Keeps.snd2 (by with_reducible assumption) ?_) | (with_reducible refine Keeps.snd3 (by with_reducible assumption) ?_) | dsimp only

theorem doEngFenceNotify_keeps {s₀ : State} {s : State}  (d : Nat) (e : Nat)  (hk : Keeps s₀ s) :
    Keeps s₀ (doEngFenceNotify d e s ) := by
  unfold doEngFenceNotify
  try dsimp only
  repeat' first | (with_reducible assumption) | with_reducible exact Keeps.refl _ | (with_reducible apply State.engRun_keeps) | (with_reducible apply State.notifyBody_keeps) | split | (intro _ _ _) | (intro _ _) | dsimp only

theorem doEngIllegal_keeps {s₀ : State} {s : State}  (d : Nat) (e : Nat)  (hk : Keeps s₀ s) :
    Keeps s₀ (doEngIllegal d e s ) := by
  unfold doEngIllegal
  try dsimp only
  repeat' first | (with_reducible assumption) | with_reducible exact Keeps.refl _ | (with_reducible apply State.count_keeps) | (with_reducible apply State.engFault_keeps) | (with_reducible apply Keeps.ite) | split | (intro _ _ _) | (intro _ _) | dsimp only

theorem doEngineResponseArrive_keeps {s₀ : State} {s : State}  (d : Nat) (c : Nat) (vc : Vc)  (hk : Keeps s₀ s) :
    Keeps s₀ (doEngineResponseArrive d c vc s ) := by
  unfold doEngineResponseArrive
  try dsimp only
  repeat' first | (with_reducible assumption) | with_reducible exact Keeps.refl _ | (with_reducible refine State.takeOut_keeps (by with_reducible assumption) ?_) | (with_reducible apply State.setEng_keeps) | (with_reducible apply State.accDone_keeps) | (with_reducible apply State.count_keeps) | (fail_if_no_progress (with_reducible refine Keeps.upd ?_)) | (with_reducible apply Keeps.ite) | split | (intro _ _ _) | (intro _ _) | (with_reducible refine Keeps.snd (by with_reducible assumption) ?_) | (with_reducible refine Keeps.fst (by with_reducible assumption) ?_) | (with_reducible refine Keeps.snd2 (by with_reducible assumption) ?_) | (with_reducible refine Keeps.snd3 (by with_reducible assumption) ?_) | dsimp only

theorem State.wakeClaim_keeps {s₀ : State} {s : State}  (c : Claim)  (hk : Keeps s₀ s) :
    Keeps s₀ (State.wakeClaim s c ) := by
  unfold State.wakeClaim
  try dsimp only
  repeat' first | (with_reducible assumption) | with_reducible exact Keeps.refl _ | (with_reducible apply State.inject_keeps) | split | (intro _ _ _) | (intro _ _) | dsimp only

theorem State.serveClaim_keeps {s₀ : State} {s : State}  (c : Claim)  (hk : Keeps s₀ s) :
    Keeps s₀ (State.serveClaim s c ) := by
  unfold State.serveClaim
  try dsimp only
  repeat' first | (with_reducible assumption) | with_reducible exact Keeps.refl _ | (with_reducible apply State.wakeClaim_keeps) | (with_reducible apply State.engFault_keeps) | (with_reducible apply State.setLocks_keeps) | (with_reducible apply State.sweepLocks_keeps) | (with_reducible apply State.newLock_keeps) | (fail_if_no_progress (with_reducible refine Keeps.upd ?_)) | (with_reducible apply Keeps.ite) | split | (intro _ _ _) | (intro _ _) | (with_reducible refine Keeps.snd (by with_reducible assumption) ?_) | (with_reducible refine Keeps.fst (by with_reducible assumption) ?_) | (with_reducible refine Keeps.snd2 (by with_reducible assumption) ?_) | (with_reducible refine Keeps.snd3 (by with_reducible assumption) ?_) | dsimp only

theorem doLockWake_keeps {s₀ : State} {s : State}  (d : Nat) (key : Option Word)  (hk : Keeps s₀ s) :
    Keeps s₀ (doLockWake d key s ) := by
  unfold doLockWake
  try dsimp only
  repeat' first | (with_reducible assumption) | with_reducible exact Keeps.refl _ | (with_reducible apply State.serveClaim_keeps) | (with_reducible apply Keeps.ite) | split | (intro _ _ _) | (intro _ _) | dsimp only

theorem doFenceCompletionSend_keeps {s₀ : State} {s : State}  (d : Nat) (e : Nat)  (hk : Keeps s₀ s) :
    Keeps s₀ (doFenceCompletionSend d e s ) := by
  unfold doFenceCompletionSend
  try dsimp only
  repeat' first | (with_reducible assumption) | with_reducible exact Keeps.refl _ | (with_reducible apply State.setEng_keeps) | (with_reducible apply State.inject_keeps) | (fail_if_no_progress (with_reducible refine Keeps.upd ?_)) | (with_reducible apply Keeps.ite) | split | (intro _ _ _) | (intro _ _) | dsimp only

theorem doBudgetFault_keeps {s₀ : State} {s : State}  (d : Nat) (e : Nat)  (hk : Keeps s₀ s) :
    Keeps s₀ (doBudgetFault d e s ) := by
  unfold doBudgetFault
  try dsimp only
  repeat' first | (with_reducible assumption) | with_reducible exact Keeps.refl _ | (with_reducible apply State.engFault_keeps) | (with_reducible apply Keeps.ite) | split | (intro _ _ _) | (intro _ _) | dsimp only

theorem doWaitLimit_keeps {s₀ : State} {s : State}  (d : Nat) (e : Nat)  (hk : Keeps s₀ s) :
    Keeps s₀ (doWaitLimit d e s ) := by
  unfold doWaitLimit
  try dsimp only
  repeat' first | (with_reducible assumption) | with_reducible exact Keeps.refl _ | (with_reducible apply State.count_keeps) | (with_reducible apply State.taskComplete_keeps) | (with_reducible apply State.notice_keeps) | (with_reducible apply State.engAbort_keeps) | (with_reducible apply State.dropLocks_keeps) | (with_reducible apply State.dropReads_keeps) | (with_reducible apply State.faultResponse_keeps) | (with_reducible apply State.consumeIn_keeps) | (with_reducible apply State.noticeLim_keeps) | (with_reducible apply State.engIdle_keeps) | (with_reducible apply Keeps.ite) | split | (intro _ _ _) | (intro _ _) | (with_reducible refine Keeps.snd (by with_reducible assumption) ?_) | (with_reducible refine Keeps.fst (by with_reducible assumption) ?_) | (with_reducible refine Keeps.snd2 (by with_reducible assumption) ?_) | (with_reducible refine Keeps.snd3 (by with_reducible assumption) ?_) | dsimp only

theorem doEngHalt_keeps {s₀ : State} {s : State}  (d : Nat) (e : Nat) (h : HostId) (halt : Bool)  (hk : Keeps s₀ s) :
    Keeps s₀ (doEngHalt d e h halt s ) := by
  unfold doEngHalt
  try dsimp only
  repeat' first | (with_reducible assumption) | with_reducible exact Keeps.refl _ | (with_reducible apply State.fset_keeps) | (with_reducible apply Keeps.ite) | split | (intro _ _ _) | (intro _ _) | dsimp only

theorem doEnginePortFabric_keeps {s₀ : State} {s : State}  (d : Nat) (e : Nat) (push : Option Word)  (hk : Keeps s₀ s) :
    Keeps s₀ (doEnginePortFabric d e push s ) := by
  unfold doEnginePortFabric
  try dsimp only
  repeat' first | (with_reducible assumption) | with_reducible exact Keeps.refl _ | (with_reducible apply State.setEng_keeps) | (with_reducible apply State.toFabric_keeps) | (fail_if_no_progress (with_reducible refine Keeps.upd ?_)) | (with_reducible apply Keeps.ite) | split | (intro _ _ _) | (intro _ _) | (with_reducible refine Keeps.snd (by with_reducible assumption) ?_) | (with_reducible refine Keeps.fst (by with_reducible assumption) ?_) | (with_reducible refine Keeps.snd2 (by with_reducible assumption) ?_) | (with_reducible refine Keeps.snd3 (by with_reducible assumption) ?_) | dsimp only

end Sys2Proof.Machine
end

