-- ==== Sys2Proof/Laws/KeepsFlashBase.lean ====
section
/-! SUPPORT. What the operations of Sys2Proof/Machine/FlashBase.lean keep. -/

set_option linter.all false

namespace Sys2Proof.Machine

theorem State.setFlState_keeps {s₀ : State} {s : State}  (v : Nat)  (hk : Keeps s₀ s) :
    Keeps s₀ (State.setFlState s v ) := by
  unfold State.setFlState
  try dsimp only
  repeat' first | (with_reducible assumption) | with_reducible exact Keeps.refl _ | (with_reducible apply State.fset_keeps) | split | (intro _ _ _) | (intro _ _) | dsimp only

theorem State.holdAll_keeps {s₀ : State} {s : State}    (hk : Keeps s₀ s) :
    Keeps s₀ (State.holdAll s ) := by
  unfold State.holdAll
  try dsimp only
  repeat' first | (with_reducible assumption) | with_reducible exact Keeps.refl _ | (with_reducible apply State.resetD_keeps) | (with_reducible apply State.setSource_keeps) | (with_reducible apply Keeps.foldl) | (with_reducible apply Keeps.foldl_fst) | (with_reducible apply Keeps.foldl_snd) | (with_reducible apply Keeps.ite) | split | (intro _ _ _) | (intro _ _) | dsimp only

theorem State.protRefresh_keeps {s₀ : State} {s : State}    (hk : Keeps s₀ s) :
    Keeps s₀ (State.protRefresh s ) := by
  unfold State.protRefresh
  try dsimp only
  repeat' first | (with_reducible assumption) | with_reducible exact Keeps.refl _ | (with_reducible apply State.fset_keeps) | split | (intro _ _ _) | (intro _ _) | dsimp only

theorem State.setFlWord_keeps {s₀ : State} {s : State}  (w : Nat) (v : BitVec 64) (bad : Nat)  (hk : Keeps s₀ s) :
    Keeps s₀ (State.setFlWord s w v bad ) := by
  unfold State.setFlWord
  try dsimp only
  repeat' first | (with_reducible assumption) | with_reducible exact Keeps.refl _ | split | (fail_if_no_progress (with_reducible refine Keeps.put ?_ ?_ ?_ ?_ ?_ ?_ ?_)) | (intro c; with_reducible first | exact c.csr | exact c.bankMem | exact c.scratch | exact c.frames | exact c.bar | exact c.flash | exact Memory.wf_drop _ c.scratch | exact Memory.wf_drop _ c.frames | exact Memory.wf_drop _ c.bankMem | exact Memory.wf_drop _ c.flash | exact Memory.wf_drop _ c.bar | exact SMap.wf_mapVals _ c.csr | exact Memory.wf_writeLE _ _ _ c.bankMem | exact Memory.wf_writeLE _ _ _ c.scratch | exact Memory.wf_writeLE _ _ _ c.frames | exact Memory.wf_writeLE _ _ _ c.flash | exact Memory.wf_writes _ _ c.frames | exact Memory.wf_writes _ _ c.bar | exact Memory.wf_write _ _ c.frames | exact Memory.wf_write _ _ c.bar | exact Memory.wf_filter _ c.bar | exact Memory.wf_nil _ | exact barReset_wf) | (fail_if_no_progress (with_reducible refine Keeps.upd ?_)) | split | (intro _ _ _) | (intro _ _) | (with_reducible refine Keeps.snd (by with_reducible assumption) ?_) | (with_reducible refine Keeps.fst (by with_reducible assumption) ?_) | (with_reducible refine Keeps.snd2 (by with_reducible assumption) ?_) | (with_reducible refine Keeps.snd3 (by with_reducible assumption) ?_) | dsimp only

theorem State.eraseSectors_keeps {s₀ : State} {s : State}  (lo : Nat) (hi : Nat)  (hk : Keeps s₀ s) :
    Keeps s₀ (State.eraseSectors s lo hi ) := by
  unfold State.eraseSectors
  try dsimp only
  repeat' first | (with_reducible assumption) | with_reducible exact Keeps.refl _ | split | (fail_if_no_progress (with_reducible refine Keeps.put ?_ ?_ ?_ ?_ ?_ ?_ ?_)) | (intro c; with_reducible first | exact c.csr | exact c.bankMem | exact c.scratch | exact c.frames | exact c.bar | exact c.flash | exact Memory.wf_drop _ c.scratch | exact Memory.wf_drop _ c.frames | exact Memory.wf_drop _ c.bankMem | exact Memory.wf_drop _ c.flash | exact Memory.wf_drop _ c.bar | exact SMap.wf_mapVals _ c.csr | exact Memory.wf_writeLE _ _ _ c.bankMem | exact Memory.wf_writeLE _ _ _ c.scratch | exact Memory.wf_writeLE _ _ _ c.frames | exact Memory.wf_writeLE _ _ _ c.flash | exact Memory.wf_writes _ _ c.frames | exact Memory.wf_writes _ _ c.bar | exact Memory.wf_write _ _ c.frames | exact Memory.wf_write _ _ c.bar | exact Memory.wf_filter _ c.bar | exact Memory.wf_nil _ | exact barReset_wf) | (fail_if_no_progress (with_reducible refine Keeps.upd ?_)) | split | (intro _ _ _) | (intro _ _) | dsimp only

theorem State.appendProt_keeps {s₀ : State} {s : State}  (code : Nat) (kind : Nat)  (hk : Keeps s₀ s) :
    Keeps s₀ (State.appendProt s code kind ) := by
  unfold State.appendProt
  try dsimp only
  repeat' first | (with_reducible assumption) | with_reducible exact Keeps.refl _ | (with_reducible apply State.protRefresh_keeps) | (with_reducible apply State.setFlWord_keeps) | (with_reducible apply State.eraseSectors_keeps) | (with_reducible apply Keeps.ite) | split | (intro _ _ _) | (intro _ _) | (with_reducible refine Keeps.snd (by with_reducible assumption) ?_) | (with_reducible refine Keeps.fst (by with_reducible assumption) ?_) | (with_reducible refine Keeps.snd2 (by with_reducible assumption) ?_) | (with_reducible refine Keeps.snd3 (by with_reducible assumption) ?_) | dsimp only

theorem State.free64_keeps {s₀ : State} {s : State}    (hk : Keeps s₀ s) :
    Keeps s₀ (State.free64 s ).2 := by
  unfold State.free64
  try dsimp only
  repeat' first | (with_reducible assumption) | with_reducible exact Keeps.refl _ | (with_reducible apply State.draw_keeps) | split | (intro _ _ _) | (intro _ _) | (with_reducible refine Keeps.snd (by with_reducible assumption) ?_) | (with_reducible refine Keeps.fst (by with_reducible assumption) ?_) | (with_reducible refine Keeps.snd2 (by with_reducible assumption) ?_) | (with_reducible refine Keeps.snd3 (by with_reducible assumption) ?_) | dsimp only

theorem State.lcRefresh_keeps {s₀ : State} {s : State}    (hk : Keeps s₀ s) :
    Keeps s₀ (State.lcRefresh s ) := by
  unfold State.lcRefresh
  try dsimp only
  repeat' first | (with_reducible assumption) | with_reducible exact Keeps.refl _ | (with_reducible apply State.fset_keeps) | split | (intro _ _ _) | (intro _ _) | dsimp only

theorem State.setBoot_keeps {s₀ : State} {s : State}  (primary : Nat) (trial : Bool)  (hk : Keeps s₀ s) :
    Keeps s₀ (State.setBoot s primary trial ) := by
  unfold State.setBoot
  try dsimp only
  repeat' first | (with_reducible assumption) | with_reducible exact Keeps.refl _ | (with_reducible apply State.setFlWord_keeps) | (with_reducible apply State.eraseSectors_keeps) | split | (intro _ _ _) | (intro _ _) | dsimp only

theorem State.badStsRefresh_keeps {s₀ : State} {s : State}    (hk : Keeps s₀ s) :
    Keeps s₀ (State.badStsRefresh s ) := by
  unfold State.badStsRefresh
  try dsimp only
  repeat' first | (with_reducible assumption) | with_reducible exact Keeps.refl _ | (with_reducible apply State.csrSet_keeps) | split | (intro _ _ _) | (intro _ _) | dsimp only

theorem State.retire_keeps {s₀ : State} {s : State}  (sec : Nat) (cause : Nat)  (hk : Keeps s₀ s) :
    Keeps s₀ (State.retire s sec cause ) := by
  unfold State.retire
  try dsimp only
  repeat' first | (with_reducible assumption) | with_reducible exact Keeps.refl _ | (with_reducible apply State.notice_keeps) | (with_reducible apply State.badStsRefresh_keeps) | (with_reducible apply State.setFlWord_keeps) | (with_reducible apply Keeps.ite) | split | (intro _ _ _) | (intro _ _) | (with_reducible refine Keeps.snd (by with_reducible assumption) ?_) | (with_reducible refine Keeps.fst (by with_reducible assumption) ?_) | (with_reducible refine Keeps.snd2 (by with_reducible assumption) ?_) | (with_reducible refine Keeps.snd3 (by with_reducible assumption) ?_) | dsimp only

theorem State.wipeFlash_keeps {s₀ : State} {s : State}    (hk : Keeps s₀ s) :
    Keeps s₀ (State.wipeFlash s ) := by
  unfold State.wipeFlash
  try dsimp only
  repeat' first | (with_reducible assumption) | with_reducible exact Keeps.refl _ | (with_reducible apply State.eraseSectors_keeps) | (fail_if_no_progress (with_reducible refine Keeps.upd ?_)) | split | (intro _ _ _) | (intro _ _) | dsimp only

theorem State.spoilSector_keeps {s₀ : State} {s : State}  (sec : Nat)  (hk : Keeps s₀ s) :
    Keeps s₀ (State.spoilSector s sec ) := by
  unfold State.spoilSector
  try dsimp only
  repeat' first | (with_reducible assumption) | with_reducible exact Keeps.refl _ | (with_reducible apply State.setFlWord_keeps) | (with_reducible apply State.free64_keeps) | (with_reducible apply State.freeByte_keeps) | (with_reducible apply Keeps.foldl) | (with_reducible apply Keeps.foldl_fst) | (with_reducible apply Keeps.foldl_snd) | (fail_if_no_progress (with_reducible refine Keeps.upd ?_)) | split | (intro _ _ _) | (intro _ _) | (with_reducible refine Keeps.snd (by with_reducible assumption) ?_) | (with_reducible refine Keeps.fst (by with_reducible assumption) ?_) | (with_reducible refine Keeps.snd2 (by with_reducible assumption) ?_) | (with_reducible refine Keeps.snd3 (by with_reducible assumption) ?_) | dsimp only

theorem State.otpOr_keeps {s₀ : State} {s : State}  (w : Nat) (v : BitVec 64)  (hk : Keeps s₀ s) :
    Keeps s₀ (State.otpOr s w v ) := by
  unfold State.otpOr
  try dsimp only
  repeat' first | (with_reducible assumption) | with_reducible exact Keeps.refl _ | (with_reducible apply State.fset_keeps) | (fail_if_no_progress (with_reducible refine Keeps.upd ?_)) | split | (intro _ _ _) | (intro _ _) | dsimp only

theorem State.lineRead_keeps {s₀ : State} {s : State}  (line : Nat) (req : Nat)  (hk : Keeps s₀ s) :
    Keeps s₀ (State.lineRead s line req ).2 := by
  unfold State.lineRead
  try dsimp only
  repeat' first | (with_reducible assumption) | with_reducible exact Keeps.refl _ | (with_reducible apply State.count_keeps) | (with_reducible apply State.csrSet_keeps) | (with_reducible apply State.noticeLim_keeps) | (with_reducible apply Keeps.ite) | (with_reducible apply Keeps.ite_snd) | (with_reducible apply Keeps.ite_fst) | split | (intro _ _ _) | (intro _ _) | (with_reducible refine Keeps.snd (by with_reducible assumption) ?_) | (with_reducible refine Keeps.fst (by with_reducible assumption) ?_) | (with_reducible refine Keeps.snd2 (by with_reducible assumption) ?_) | (with_reducible refine Keeps.snd3 (by with_reducible assumption) ?_) | dsimp only

theorem State.readSuspends_keeps {s₀ : State} {s : State}    (hk : Keeps s₀ s) :
    Keeps s₀ (State.readSuspends s ) := by
  unfold State.readSuspends
  try dsimp only
  repeat' first | (with_reducible assumption) | with_reducible exact Keeps.refl _ | (with_reducible apply State.flag_keeps) | (with_reducible apply Keeps.ite) | split | (intro _ _ _) | (intro _ _) | dsimp only

theorem State.linesRead_keeps {s₀ : State} {s : State}  (a : Nat) (n : Nat) (req : Nat)  (hk : Keeps s₀ s) :
    Keeps s₀ (State.linesRead s a n req ) := by
  unfold State.linesRead
  try dsimp only
  repeat' first | (with_reducible assumption) | with_reducible exact Keeps.refl _ | (with_reducible apply State.lineRead_keeps) | (with_reducible apply State.readSuspends_keeps) | (with_reducible apply Keeps.foldl) | (with_reducible apply Keeps.foldl_fst) | (with_reducible apply Keeps.foldl_snd) | split | (intro _ _ _) | (intro _ _) | dsimp only

theorem State.countStart_keeps {s₀ : State} {s : State}    (hk : Keeps s₀ s) :
    Keeps s₀ (State.countStart s ) := by
  unfold State.countStart
  try dsimp only
  repeat' first | (with_reducible assumption) | with_reducible exact Keeps.refl _ | (with_reducible apply State.setFlWord_keeps) | split | (intro _ _ _) | (intro _ _) | dsimp only

theorem State.cancelTrial_keeps {s₀ : State} {s : State}    (hk : Keeps s₀ s) :
    Keeps s₀ (State.cancelTrial s ) := by
  unfold State.cancelTrial
  try dsimp only
  repeat' first | (with_reducible assumption) | with_reducible exact Keeps.refl _ | (with_reducible apply State.setFlWord_keeps) | split | (intro _ _ _) | (intro _ _) | dsimp only

theorem State.lcResume_keeps {s₀ : State} {s : State}    (hk : Keeps s₀ s) :
    Keeps s₀ (State.lcResume s ) := by
  unfold State.lcResume
  try dsimp only
  repeat' first | (with_reducible assumption) | with_reducible exact Keeps.refl _ | (with_reducible apply State.otpOr_keeps) | (with_reducible apply State.notice_keeps) | (with_reducible apply State.fset_keeps) | (with_reducible apply State.holdAll_keeps) | (with_reducible apply State.wipeFlash_keeps) | (with_reducible apply Keeps.ite) | split | (intro _ _ _) | (intro _ _) | (with_reducible refine Keeps.snd (by with_reducible assumption) ?_) | (with_reducible refine Keeps.fst (by with_reducible assumption) ?_) | (with_reducible refine Keeps.snd2 (by with_reducible assumption) ?_) | (with_reducible refine Keeps.snd3 (by with_reducible assumption) ?_) | dsimp only

theorem State.lcLatch_keeps {s₀ : State} {s : State}    (hk : Keeps s₀ s) :
    Keeps s₀ (State.lcLatch s ) := by
  unfold State.lcLatch
  try dsimp only
  repeat' first | (with_reducible assumption) | with_reducible exact Keeps.refl _ | (with_reducible apply State.notice_keeps) | (with_reducible apply State.fset_keeps) | (with_reducible apply State.lcRefresh_keeps) | (with_reducible apply Keeps.ite) | split | (intro _ _ _) | (intro _ _) | (with_reducible refine Keeps.snd (by with_reducible assumption) ?_) | (with_reducible refine Keeps.fst (by with_reducible assumption) ?_) | (with_reducible refine Keeps.snd2 (by with_reducible assumption) ?_) | (with_reducible refine Keeps.snd3 (by with_reducible assumption) ?_) | dsimp only

end Sys2Proof.Machine
end

