-- ==== Sys2Proof/Laws/KeepsPins.lean ====
section
/-! SUPPORT. What the operations of Sys2Proof/Machine/Pins.lean keep. -/

set_option linter.all false

namespace Sys2Proof.Machine

theorem State.openGo_keeps {s₀ : State} {s : State}  (die : Nat) (levels : BitVec 32)  (hk : Keeps s₀ s) :
    Keeps s₀ (State.openGo s die levels ) := by
  unfold State.openGo
  try dsimp only
  repeat' first | (with_reducible assumption) | with_reducible exact Keeps.refl _ | (with_reducible apply State.fset_keeps) | (with_reducible apply Keeps.foldl) | (with_reducible apply Keeps.foldl_fst) | (with_reducible apply Keeps.foldl_snd) | (fail_if_no_progress (with_reducible refine Keeps.upd ?_)) | (with_reducible apply Keeps.ite) | split | (intro _ _ _) | (intro _ _) | (with_reducible refine Keeps.snd (by with_reducible assumption) ?_) | (with_reducible refine Keeps.fst (by with_reducible assumption) ?_) | (with_reducible refine Keeps.snd2 (by with_reducible assumption) ?_) | (with_reducible refine Keeps.snd3 (by with_reducible assumption) ?_) | dsimp only

theorem State.cancelLock_keeps {s₀ : State} {s : State}    (hk : Keeps s₀ s) :
    Keeps s₀ (State.cancelLock s ) := by
  unfold State.cancelLock
  try dsimp only
  repeat' first | (with_reducible assumption) | with_reducible exact Keeps.refl _ | (fail_if_no_progress (with_reducible refine Keeps.upd ?_)) | split | (intro _ _ _) | (intro _ _) | dsimp only

theorem doShortClearWrite_keeps {s₀ : State} {s : State}  (die : Option Nat) (v : Word)  (hk : Keeps s₀ s) :
    Keeps s₀ (doShortClearWrite die v s ) := by
  unfold doShortClearWrite
  try dsimp only
  repeat' first | (with_reducible assumption) | with_reducible exact Keeps.refl _ | (with_reducible apply State.cancelLock_keeps) | (with_reducible apply State.csrSet_keeps) | (with_reducible apply Keeps.ite) | split | (intro _ _ _) | (intro _ _) | dsimp only

theorem doGpioLockWrite_keeps {s₀ : State} {s : State}  (v : Word)  (hk : Keeps s₀ s) :
    Keeps s₀ (doGpioLockWrite v s ) := by
  unfold doGpioLockWrite
  try dsimp only
  repeat' first | (with_reducible assumption) | with_reducible exact Keeps.refl _ | (with_reducible apply State.csrSet_keeps) | (with_reducible apply State.cancelLock_keeps) | (with_reducible apply Keeps.ite) | split | (intro _ _ _) | (intro _ _) | dsimp only

theorem doGpioLockKeyWrite_keeps {s₀ : State} {s : State}  (v : Word)  (hk : Keeps s₀ s) :
    Keeps s₀ (doGpioLockKeyWrite v s ) := by
  unfold doGpioLockKeyWrite
  try dsimp only
  repeat' first | (with_reducible assumption) | with_reducible exact Keeps.refl _ | (fail_if_no_progress (with_reducible refine Keeps.upd ?_)) | (with_reducible apply Keeps.ite) | split | (intro _ _ _) | (intro _ _) | dsimp only

theorem State.drawSpiWidth_keeps {s₀ : State} {s : State}    (hk : Keeps s₀ s) :
    Keeps s₀ (State.drawSpiWidth s ) := by
  unfold State.drawSpiWidth
  try dsimp only
  repeat' first | (with_reducible assumption) | with_reducible exact Keeps.refl _ | (with_reducible apply State.freeByte_keeps) | (fail_if_no_progress (with_reducible refine Keeps.upd ?_)) | split | (intro _ _ _) | (intro _ _) | (with_reducible refine Keeps.snd (by with_reducible assumption) ?_) | (with_reducible refine Keeps.fst (by with_reducible assumption) ?_) | (with_reducible refine Keeps.snd2 (by with_reducible assumption) ?_) | (with_reducible refine Keeps.snd3 (by with_reducible assumption) ?_) | dsimp only

theorem State.setOwners_keeps {s₀ : State} {s : State}    (hk : Keeps s₀ s) :
    Keeps s₀ (State.setOwners s ) := by
  unfold State.setOwners
  try dsimp only
  repeat' first | (with_reducible assumption) | with_reducible exact Keeps.refl _ | (fail_if_no_progress (with_reducible refine Keeps.upd ?_)) | (with_reducible apply Keeps.ite) | split | (intro _ _ _) | (intro _ _) | dsimp only

theorem State.avsOff_keeps {s₀ : State} {s : State}    (hk : Keeps s₀ s) :
    Keeps s₀ (State.avsOff s ) := by
  unfold State.avsOff
  try dsimp only
  repeat' first | (with_reducible assumption) | with_reducible exact Keeps.refl _ | (with_reducible apply State.fset_keeps) | (with_reducible apply Keeps.foldl) | (with_reducible apply Keeps.foldl_fst) | (with_reducible apply Keeps.foldl_snd) | (with_reducible apply Keeps.ite) | split | (intro _ _ _) | (intro _ _) | dsimp only

theorem doPinEnWrite_keeps {s₀ : State} {s : State}  (v : Word)  (hk : Keeps s₀ s) :
    Keeps s₀ (doPinEnWrite v s ) := by
  unfold doPinEnWrite
  try dsimp only
  repeat' first | (with_reducible assumption) | with_reducible exact Keeps.refl _ | (with_reducible apply State.drawSpiWidth_keeps) | (with_reducible apply State.setOwners_keeps) | (with_reducible apply State.avsOff_keeps) | (with_reducible apply State.cancelLock_keeps) | (with_reducible apply State.csrSet_keeps) | (with_reducible apply Keeps.ite) | split | (intro _ _ _) | (intro _ _) | dsimp only

theorem State.pmSample_keeps {s₀ : State} {s : State}  (m : Nat) (levels : BitVec 32)  (hk : Keeps s₀ s) :
    Keeps s₀ (State.pmSample s m levels ).2 := by
  unfold State.pmSample
  try dsimp only
  repeat' first | (with_reducible assumption) | with_reducible exact Keeps.refl _ | (with_reducible apply State.fsetBit_keeps) | (with_reducible apply State.csrSet_keeps) | (fail_if_no_progress (with_reducible refine Keeps.upd ?_)) | (with_reducible apply Keeps.ite) | (with_reducible apply Keeps.ite_snd) | (with_reducible apply Keeps.ite_fst) | split | (intro _ _ _) | (intro _ _) | (with_reducible refine Keeps.snd (by with_reducible assumption) ?_) | (with_reducible refine Keeps.fst (by with_reducible assumption) ?_) | (with_reducible refine Keeps.snd2 (by with_reducible assumption) ?_) | (with_reducible refine Keeps.snd3 (by with_reducible assumption) ?_) | dsimp only

theorem doPinShort_keeps {s₀ : State} {s : State}  (die : Option Nat) (p : Nat)  (hk : Keeps s₀ s) :
    Keeps s₀ (doPinShort die p s ) := by
  unfold doPinShort
  try dsimp only
  repeat' first | (with_reducible assumption) | with_reducible exact Keeps.refl _ | (with_reducible apply State.fsetBit_keeps) | (with_reducible apply State.noticeLim_keeps) | split | (intro _ _ _) | (intro _ _) | (with_reducible refine Keeps.snd (by with_reducible assumption) ?_) | (with_reducible refine Keeps.fst (by with_reducible assumption) ?_) | (with_reducible refine Keeps.snd2 (by with_reducible assumption) ?_) | (with_reducible refine Keeps.snd3 (by with_reducible assumption) ?_) | dsimp only

theorem doOpenTestGo_keeps {s₀ : State} {s : State}  (die : Option Nat) (levels : BitVec 32)  (hk : Keeps s₀ s) :
    Keeps s₀ (doOpenTestGo die levels s ) := by
  unfold doOpenTestGo
  try dsimp only
  repeat' first | (with_reducible assumption) | with_reducible exact Keeps.refl _ | (with_reducible apply State.openGo_keeps) | (with_reducible apply State.cancelLock_keeps) | (with_reducible apply Keeps.ite) | split | (intro _ _ _) | (intro _ _) | dsimp only

theorem doOpenTestPulldown_keeps {s₀ : State} {s : State}  (die : Option Nat) (levels : BitVec 32)  (hk : Keeps s₀ s) :
    Keeps s₀ (doOpenTestPulldown die levels s ) := by
  unfold doOpenTestPulldown
  try dsimp only
  repeat' first | (with_reducible assumption) | with_reducible exact Keeps.refl _ | (fail_if_no_progress (with_reducible refine Keeps.upd ?_)) | (with_reducible apply Keeps.ite) | split | (intro _ _ _) | (intro _ _) | dsimp only

theorem doOpenTestDone_keeps {s₀ : State} {s : State}  (die : Option Nat) (levels : BitVec 32)  (hk : Keeps s₀ s) :
    Keeps s₀ (doOpenTestDone die levels s ) := by
  unfold doOpenTestDone
  try dsimp only
  repeat' first | (with_reducible assumption) | with_reducible exact Keeps.refl _ | (with_reducible apply State.csrSet_keeps) | (with_reducible apply State.notice_keeps) | (with_reducible apply State.fset_keeps) | (fail_if_no_progress (with_reducible refine Keeps.upd ?_)) | (with_reducible apply Keeps.ite) | split | (intro _ _ _) | (intro _ _) | (with_reducible refine Keeps.snd (by with_reducible assumption) ?_) | (with_reducible refine Keeps.fst (by with_reducible assumption) ?_) | (with_reducible refine Keeps.snd2 (by with_reducible assumption) ?_) | (with_reducible refine Keeps.snd3 (by with_reducible assumption) ?_) | dsimp only

end Sys2Proof.Machine
end

