-- ==== Sys2Proof/Laws/KeepsDieCsr.lean ====
section
/-! SUPPORT. What the operations of Sys2Proof/Machine/DieCsr.lean keep. -/

set_option linter.all false

namespace Sys2Proof.Machine

theorem State.plainWrite_keeps {s₀ : State} {s : State}  (a : Nat) (v : Word)  (hk : Keeps s₀ s) :
    Keeps s₀ (State.plainWrite s a v ) := by
  unfold State.plainWrite
  try dsimp only
  repeat' first | (with_reducible assumption) | with_reducible exact Keeps.refl _ | (with_reducible apply State.csrSet_keeps) | split | (intro _ _ _) | (intro _ _) | dsimp only

theorem State.engCtrlWrite_keeps {s₀ : State} {s : State}  (d : Nat) (e : Nat) (v : Word)  (hk : Keeps s₀ s) :
    Keeps s₀ (State.engCtrlWrite s d e v ) := by
  unfold State.engCtrlWrite
  try dsimp only
  repeat' first | (with_reducible assumption) | with_reducible exact Keeps.refl _ | (with_reducible apply State.fset_keeps) | (with_reducible apply doEngPark_keeps) | (with_reducible apply doEngEpochWrite_keeps) | split | (intro _ _ _) | (intro _ _) | dsimp only

theorem State.taskW0Write_keeps {s₀ : State} {s : State}  (d : Nat) (n : Nat) (v : Word)  (hk : Keeps s₀ s) :
    Keeps s₀ (State.taskW0Write s d n v ) := by
  unfold State.taskW0Write
  try dsimp only
  repeat' first | (with_reducible assumption) | with_reducible exact Keeps.refl _ | (with_reducible apply doTaskPrioWrite_keeps) | (with_reducible apply doTaskInvalidate_keeps) | (with_reducible apply State.fset_keeps) | (with_reducible apply doTaskValidate_keeps) | (with_reducible apply doTaskClmaskWrite_keeps) | (with_reducible apply doTaskReadinessWrite_keeps) | (with_reducible apply Keeps.ite) | split | (intro _ _ _) | (intro _ _) | dsimp only

theorem State.gwRoleWrite_keeps {s₀ : State} {s : State}  (a : Nat) (v : Word)  (hk : Keeps s₀ s) :
    Keeps s₀ (State.gwRoleWrite s a v ) := by
  unfold State.gwRoleWrite
  try dsimp only
  repeat' first | (with_reducible assumption) | with_reducible exact Keeps.refl _ | (with_reducible apply State.csrSet_keeps) | (with_reducible apply Keeps.foldl) | (with_reducible apply Keeps.foldl_fst) | (with_reducible apply Keeps.foldl_snd) | (with_reducible apply Keeps.ite) | split | (intro _ _ _) | (intro _ _) | (with_reducible refine Keeps.snd (by with_reducible assumption) ?_) | (with_reducible refine Keeps.fst (by with_reducible assumption) ?_) | (with_reducible refine Keeps.snd2 (by with_reducible assumption) ?_) | (with_reducible refine Keeps.snd3 (by with_reducible assumption) ?_) | dsimp only

theorem State.dieWrite_keeps {s₀ : State} {s : State}  (a : Nat) (v : Word) (dbg : Bool)  (hk : Keeps s₀ s) :
    Keeps s₀ (State.dieWrite s a v dbg ) := by
  unfold State.dieWrite
  try dsimp only
  repeat' first | (with_reducible assumption) | with_reducible exact Keeps.refl _ | (with_reducible apply doDitchFlush_keeps) | (with_reducible apply State.engCtrlWrite_keeps) | (with_reducible apply State.fset_keeps) | (with_reducible apply State.taskW0Write_keeps) | (with_reducible apply doTaskFlagsWrite_keeps) | (with_reducible apply doTaskEpochWrite_keeps) | (with_reducible apply State.free64_keeps) | (with_reducible apply State.openGo_keeps) | (with_reducible apply doFabPatchGo_keeps) | (with_reducible apply doBtEnWrite_keeps) | (with_reducible apply doEntryRewriteGo_keeps) | (with_reducible apply doCvCtrlWrite_keeps) | (with_reducible apply doDqWeirWrite_keeps) | (with_reducible apply doTaskReadinessWrite_keeps) | (with_reducible apply doEngHsDataAccess_keeps) | (with_reducible apply doFabselWrite_keeps) | (with_reducible apply State.gwRoleWrite_keeps) | (with_reducible apply State.plainWrite_keeps) | (with_reducible apply doUioDlyWrite_keeps) | (with_reducible apply doFabPllWrite_keeps) | (with_reducible apply doUspTxWrite_keeps) | (with_reducible apply doHgMeterWrite_keeps) | (with_reducible apply doEngSpillWrite_keeps) | (with_reducible apply Keeps.ite) | split | (intro _ _ _) | (intro _ _) | (with_reducible refine Keeps.snd (by with_reducible assumption) ?_) | (with_reducible refine Keeps.fst (by with_reducible assumption) ?_) | (with_reducible refine Keeps.snd2 (by with_reducible assumption) ?_) | (with_reducible refine Keeps.snd3 (by with_reducible assumption) ?_) | dsimp only

theorem State.plainRead_keeps {s₀ : State} {s : State}  (a : Nat)  (hk : Keeps s₀ s) :
    Keeps s₀ (State.plainRead s a ).2 := by
  unfold State.plainRead
  try dsimp only
  repeat' first | (with_reducible assumption) | with_reducible exact Keeps.refl _ | (with_reducible apply State.csrSet_keeps) | split | (intro _ _ _) | (intro _ _) | (with_reducible refine Keeps.snd (by with_reducible assumption) ?_) | (with_reducible refine Keeps.fst (by with_reducible assumption) ?_) | (with_reducible refine Keeps.snd2 (by with_reducible assumption) ?_) | (with_reducible refine Keeps.snd3 (by with_reducible assumption) ?_) | dsimp only

theorem State.dieRead_keeps {s₀ : State} {s : State}  (a : Nat) (dbg : Bool)  (hk : Keeps s₀ s) :
    Keeps s₀ (State.dieRead s a dbg ).2 := by
  unfold State.dieRead
  try dsimp only
  repeat' first | (with_reducible assumption) | with_reducible exact Keeps.refl _ | (with_reducible apply doMsLoRead_keeps) | (with_reducible apply State.plainRead_keeps) | (with_reducible apply doUspRxRead_keeps) | (with_reducible apply doEngHsDataAccess_keeps) | (with_reducible apply Keeps.ite) | (with_reducible apply Keeps.ite_snd) | (with_reducible apply Keeps.ite_fst) | split | (intro _ _ _) | (intro _ _) | (with_reducible refine Keeps.snd (by with_reducible assumption) ?_) | (with_reducible refine Keeps.fst (by with_reducible assumption) ?_) | (with_reducible refine Keeps.snd2 (by with_reducible assumption) ?_) | (with_reducible refine Keeps.snd3 (by with_reducible assumption) ?_) | dsimp only

end Sys2Proof.Machine
end

