-- ==== Sys2Proof/Laws/KeepsImageBytes.lean ====
section
/-! SUPPORT. What the operations of Sys2Proof/Machine/ImageBytes.lean keep. -/

set_option linter.all false

namespace Sys2Proof.Machine

theorem State.slotRead_keeps {s₀ : State} {s : State}  (i : Nat) (req : Nat)  (hk : Keeps s₀ s) :
    Keeps s₀ (State.slotRead s i req ) := by
  unfold State.slotRead
  try dsimp only
  repeat' first | (with_reducible assumption) | with_reducible exact Keeps.refl _ | (with_reducible apply State.linesRead_keeps) | split | (intro _ _ _) | (intro _ _) | dsimp only

end Sys2Proof.Machine
end

