-- ==== Sys2Proof/Laws/KeepsLoad.lean ====
section
/-! SUPPORT. What the operations of Sys2Proof/Machine/Load.lean keep. -/

set_option linter.all false

namespace Sys2Proof.Machine

theorem State.loadFail_keeps {s₀ : State} {s : State}  (source : Nat) (st : Nat) (at_ : Option (Nat × Nat))  (hk : Keeps s₀ s) :
    Keeps s₀ (State.loadFail s source st at_ ) := by
  unfold State.loadFail
  try dsimp only
  repeat' first | (with_reducible assumption) | with_reducible exact Keeps.refl _ | (with_reducible apply State.notice_keeps) | (with_reducible apply State.freeByte_keeps) | split | (intro _ _ _) | (intro _ _) | (with_reducible refine Keeps.snd (by with_reducible assumption) ?_) | (with_reducible refine Keeps.fst (by with_reducible assumption) ?_) | (with_reducible refine Keeps.snd2 (by with_reducible assumption) ?_) | (with_reducible refine Keeps.snd3 (by with_reducible assumption) ?_) | dsimp only

theorem State.beginLoad_keeps {s₀ : State} {s : State}  (l : Load)  (hk : Keeps s₀ s) :
    Keeps s₀ (State.beginLoad s l ) := by
  unfold State.beginLoad
  try dsimp only
  repeat' first | (with_reducible assumption) | with_reducible exact Keeps.refl _ | (with_reducible apply State.setShadow_keeps) | (with_reducible apply Keeps.foldl) | (with_reducible apply Keeps.foldl_fst) | (with_reducible apply Keeps.foldl_snd) | (fail_if_no_progress (with_reducible refine Keeps.upd ?_)) | split | (intro _ _ _) | (intro _ _) | dsimp only

theorem State.powerRefresh_keeps {s₀ : State} {s : State}    (hk : Keeps s₀ s) :
    Keeps s₀ (State.powerRefresh s ) := by
  unfold State.powerRefresh
  try dsimp only
  repeat' first | (with_reducible assumption) | with_reducible exact Keeps.refl _ | (with_reducible apply State.fset_keeps) | (with_reducible apply Keeps.ite) | split | (intro _ _ _) | (intro _ _) | dsimp only

theorem State.wakeCheck_keeps {s₀ : State} {s : State}    (hk : Keeps s₀ s) :
    Keeps s₀ (State.wakeCheck s ) := by
  unfold State.wakeCheck
  try dsimp only
  repeat' first | (with_reducible assumption) | with_reducible exact Keeps.refl _ | (with_reducible apply State.notice_keeps) | (with_reducible apply State.powerRefresh_keeps) | (with_reducible apply State.finish_keeps) | (fail_if_no_progress (with_reducible refine Keeps.upd ?_)) | (with_reducible apply Keeps.ite) | split | (intro _ _ _) | (intro _ _) | (with_reducible refine Keeps.snd (by with_reducible assumption) ?_) | (with_reducible refine Keeps.fst (by with_reducible assumption) ?_) | (with_reducible refine Keeps.snd2 (by with_reducible assumption) ?_) | (with_reducible refine Keeps.snd3 (by with_reducible assumption) ?_) | dsimp only

theorem State.resetDone_keeps {s₀ : State} {s : State}  (kind : Nat) (d : Nat) (sub : Nat) (st : Nat)  (hk : Keeps s₀ s) :
    Keeps s₀ (State.resetDone s kind d sub st ) := by
  unfold State.resetDone
  try dsimp only
  repeat' first | (with_reducible assumption) | with_reducible exact Keeps.refl _ | (with_reducible apply State.notice_keeps) | split | (intro _ _ _) | (intro _ _) | (with_reducible refine Keeps.snd (by with_reducible assumption) ?_) | (with_reducible refine Keeps.fst (by with_reducible assumption) ?_) | (with_reducible refine Keeps.snd2 (by with_reducible assumption) ?_) | (with_reducible refine Keeps.snd3 (by with_reducible assumption) ?_) | dsimp only

theorem State.putMisr_keeps {s₀ : State} {s : State}  (d : Nat) (l : BitVec 64) (m : BitVec 64)  (hk : Keeps s₀ s) :
    Keeps s₀ (State.putMisr s d l m ) := by
  unfold State.putMisr
  try dsimp only
  repeat' first | (with_reducible assumption) | with_reducible exact Keeps.refl _ | (with_reducible apply State.csrSet_keeps) | split | (intro _ _ _) | (intro _ _) | dsimp only

theorem State.bistEnd_keeps {s₀ : State} {s : State}  (b : BistSt)  (hk : Keeps s₀ s) :
    Keeps s₀ (State.bistEnd s b ) := by
  unfold State.bistEnd
  try dsimp only
  repeat' first | (with_reducible assumption) | with_reducible exact Keeps.refl _ | (with_reducible apply State.putMisr_keeps) | (with_reducible apply State.notice_keeps) | (with_reducible apply State.fset_keeps) | (with_reducible apply State.finish_keeps) | (with_reducible apply Keeps.foldl) | (with_reducible apply Keeps.foldl_fst) | (with_reducible apply Keeps.foldl_snd) | (fail_if_no_progress (with_reducible refine Keeps.upd ?_)) | (with_reducible apply Keeps.ite) | split | (intro _ _ _) | (intro _ _) | (with_reducible refine Keeps.snd (by with_reducible assumption) ?_) | (with_reducible refine Keeps.fst (by with_reducible assumption) ?_) | (with_reducible refine Keeps.snd2 (by with_reducible assumption) ?_) | (with_reducible refine Keeps.snd3 (by with_reducible assumption) ?_) | dsimp only

theorem State.settle_keeps {s₀ : State} {s : State}  (d : Nat) (st : Nat)  (hk : Keeps s₀ s) :
    Keeps s₀ (State.settle s d st ) := by
  unfold State.settle
  try dsimp only
  repeat' first | (with_reducible assumption) | with_reducible exact Keeps.refl _ | (with_reducible apply ih) | (with_reducible apply State.wakeCheck_keeps) | (with_reducible apply State.resetDone_keeps) | (with_reducible apply State.bistEnd_keeps) | (with_reducible apply State.freeByte_keeps) | (fail_if_no_progress (with_reducible refine Keeps.upd ?_)) | (with_reducible apply Keeps.ite) | split | (intro _ _ _) | (intro _ _) | (with_reducible refine Keeps.snd (by with_reducible assumption) ?_) | (with_reducible refine Keeps.fst (by with_reducible assumption) ?_) | (with_reducible refine Keeps.snd2 (by with_reducible assumption) ?_) | (with_reducible refine Keeps.snd3 (by with_reducible assumption) ?_) | dsimp only

theorem State.settleAll_keeps {s₀ : State} {s : State}  (ds : List Nat) (st : Nat)  (hk : Keeps s₀ s) :
    Keeps s₀ (State.settleAll s ds st ) := by
  unfold State.settleAll
  try dsimp only
  repeat' first | (with_reducible assumption) | with_reducible exact Keeps.refl _ | (with_reducible apply State.settle_keeps) | (with_reducible apply Keeps.foldl) | (with_reducible apply Keeps.foldl_fst) | (with_reducible apply Keeps.foldl_snd) | split | (intro _ _ _) | (intro _ _) | dsimp only

theorem State.reloadDies_keeps {s₀ : State} {s : State}  (ds : List Nat)  (hk : Keeps s₀ s) :
    Keeps s₀ (State.reloadDies s ds ) := by
  unfold State.reloadDies
  try dsimp only
  repeat' first | (with_reducible assumption) | with_reducible exact Keeps.refl _ | (with_reducible apply State.notice_keeps) | (with_reducible apply State.loadFail_keeps) | (with_reducible apply State.beginLoad_keeps) | (with_reducible apply State.settleAll_keeps) | (with_reducible apply Keeps.foldl) | (with_reducible apply Keeps.foldl_fst) | (with_reducible apply Keeps.foldl_snd) | (fail_if_no_progress (with_reducible refine Keeps.upd ?_)) | (with_reducible apply Keeps.ite) | split | (intro _ _ _) | (intro _ _) | (with_reducible refine Keeps.snd (by with_reducible assumption) ?_) | (with_reducible refine Keeps.fst (by with_reducible assumption) ?_) | (with_reducible refine Keeps.snd2 (by with_reducible assumption) ?_) | (with_reducible refine Keeps.snd3 (by with_reducible assumption) ?_) | dsimp only

theorem State.putBank_keeps {s₀ : State} {s : State}  (a : Nat) (ws : List (BitVec 64))  (hk : Keeps s₀ s) :
    Keeps s₀ (State.putBank s a ws ) := by
  unfold State.putBank
  try dsimp only
  repeat' first | (with_reducible assumption) | with_reducible exact Keeps.refl _ | (with_reducible apply State.bankStore_keeps) | (with_reducible apply Keeps.foldl) | (with_reducible apply Keeps.foldl_fst) | (with_reducible apply Keeps.foldl_snd) | split | (intro _ _ _) | (intro _ _) | dsimp only

theorem State.zeroStores_keeps {s₀ : State} {s : State}  (ds : List Nat)  (hk : Keeps s₀ s) :
    Keeps s₀ (State.zeroStores s ds ) := by
  unfold State.zeroStores
  try dsimp only
  repeat' first | (with_reducible assumption) | with_reducible exact Keeps.refl _ | split | (fail_if_no_progress (with_reducible refine Keeps.put ?_ ?_ ?_ ?_ ?_ ?_ ?_)) | (intro c; with_reducible first | exact c.csr | exact c.bankMem | exact c.scratch | exact c.frames | exact c.bar | exact c.flash | exact Memory.wf_drop _ c.scratch | exact Memory.wf_drop _ c.frames | exact Memory.wf_drop _ c.bankMem | exact Memory.wf_drop _ c.flash | exact Memory.wf_drop _ c.bar | exact SMap.wf_mapVals _ c.csr | exact Memory.wf_writeLE _ _ _ c.bankMem | exact Memory.wf_writeLE _ _ _ c.scratch | exact Memory.wf_writeLE _ _ _ c.frames | exact Memory.wf_writeLE _ _ _ c.flash | exact Memory.wf_writes _ _ c.frames | exact Memory.wf_writes _ _ c.bar | exact Memory.wf_write _ _ c.frames | exact Memory.wf_write _ _ c.bar | exact Memory.wf_filter _ c.bar | exact Memory.wf_nil _ | exact barReset_wf) | (fail_if_no_progress (with_reducible refine Keeps.upd ?_)) | split | (intro _ _ _) | (intro _ _) | (with_reducible refine Keeps.snd (by with_reducible assumption) ?_) | (with_reducible refine Keeps.fst (by with_reducible assumption) ?_) | (with_reducible refine Keeps.snd2 (by with_reducible assumption) ?_) | (with_reducible refine Keeps.snd3 (by with_reducible assumption) ?_) | dsimp only

theorem State.showImage_keeps {s₀ : State} {s : State}  (d : Nat) (h : List (BitVec 8))  (hk : Keeps s₀ s) :
    Keeps s₀ (State.showImage s d h ) := by
  unfold State.showImage
  try dsimp only
  repeat' first | (with_reducible assumption) | with_reducible exact Keeps.refl _ | (with_reducible apply State.fset_keeps) | (with_reducible apply State.csrSet_keeps) | split | (intro _ _ _) | (intro _ _) | dsimp only

theorem State.putHandlers_keeps {s₀ : State} {s : State}  (d : Nat) (mask : Nat) (first : Nat) (ws : List Word)  (hk : Keeps s₀ s) :
    Keeps s₀ (State.putHandlers s d mask first ws ) := by
  unfold State.putHandlers
  try dsimp only
  repeat' first | (with_reducible assumption) | with_reducible exact Keeps.refl _ | (with_reducible apply State.setStoreWord_keeps) | (with_reducible apply Keeps.foldl) | (with_reducible apply Keeps.foldl_fst) | (with_reducible apply Keeps.foldl_snd) | split | (intro _ _ _) | (intro _ _) | dsimp only

theorem State.flip_keeps {s₀ : State} {s : State}  (d : Nat) (r : Nat)  (hk : Keeps s₀ s) :
    Keeps s₀ (State.flip s d r ) := by
  unfold State.flip
  try dsimp only
  repeat' first | (with_reducible assumption) | with_reducible exact Keeps.refl _ | (fail_if_no_progress (with_reducible refine Keeps.upd ?_)) | split | (intro _ _ _) | (intro _ _) | dsimp only

theorem State.applyImage_keeps {s₀ : State} {s : State}  (l : Load) (ds : List Nat)  (hk : Keeps s₀ s) :
    Keeps s₀ (State.applyImage s l ds ) := by
  unfold State.applyImage
  try dsimp only
  repeat' first | (with_reducible assumption) | with_reducible exact Keeps.refl _ | (with_reducible apply State.putBank_keeps) | (with_reducible apply State.zeroStores_keeps) | (with_reducible apply doBankClearDone_keeps) | (with_reducible apply State.dieWrite_keeps) | (with_reducible apply doFabPllLock_keeps) | (with_reducible apply State.showImage_keeps) | (with_reducible apply State.setShadow_keeps) | (with_reducible apply State.putHandlers_keeps) | (with_reducible apply State.flip_keeps) | (with_reducible apply Keeps.foldl) | (with_reducible apply Keeps.foldl_fst) | (with_reducible apply Keeps.foldl_snd) | (with_reducible apply Keeps.ite) | split | (intro _ _ _) | (intro _ _) | dsimp only

theorem State.releaseStep1_keeps {s₀ : State} {s : State}  (r : Release)  (hk : Keeps s₀ s) :
    Keeps s₀ (State.releaseStep1 s r ) := by
  unfold State.releaseStep1
  try dsimp only
  repeat' first | (with_reducible assumption) | with_reducible exact Keeps.refl _ | (with_reducible apply State.setBalances_keeps) | (with_reducible apply State.fsetBit_keeps) | (with_reducible apply Keeps.foldl) | (with_reducible apply Keeps.foldl_fst) | (with_reducible apply Keeps.foldl_snd) | (with_reducible apply Keeps.ite) | split | (intro _ _ _) | (intro _ _) | dsimp only

theorem State.releaseStart_keeps {s₀ : State} {s : State}  (sc : Scope) (why : RelWhy)  (hk : Keeps s₀ s) :
    Keeps s₀ (State.releaseStart s sc why ) := by
  unfold State.releaseStart
  try dsimp only
  repeat' first | (with_reducible assumption) | with_reducible exact Keeps.refl _ | (with_reducible apply State.releaseStep1_keeps) | (fail_if_no_progress (with_reducible refine Keeps.upd ?_)) | split | (intro _ _ _) | (intro _ _) | (with_reducible refine Keeps.snd (by with_reducible assumption) ?_) | (with_reducible refine Keeps.fst (by with_reducible assumption) ?_) | (with_reducible refine Keeps.snd2 (by with_reducible assumption) ?_) | (with_reducible refine Keeps.snd3 (by with_reducible assumption) ?_) | dsimp only

theorem State.imageTaken_keeps {s₀ : State} {s : State}  (l : Load)  (hk : Keeps s₀ s) :
    Keeps s₀ (State.imageTaken s l ) := by
  unfold State.imageTaken
  try dsimp only
  repeat' first | (with_reducible assumption) | with_reducible exact Keeps.refl _ | (with_reducible apply State.applyImage_keeps) | (with_reducible apply State.setSource_keeps) | (with_reducible apply State.releaseStart_keeps) | (fail_if_no_progress (with_reducible refine Keeps.upd ?_)) | (with_reducible apply Keeps.ite) | split | (intro _ _ _) | (intro _ _) | (with_reducible refine Keeps.snd (by with_reducible assumption) ?_) | (with_reducible refine Keeps.fst (by with_reducible assumption) ?_) | (with_reducible refine Keeps.snd2 (by with_reducible assumption) ?_) | (with_reducible refine Keeps.snd3 (by with_reducible assumption) ?_) | dsimp only

theorem State.takeRecords_keeps {s₀ : State} {s : State}  (d : Nat) (x0 : Nat) (hk : Keeps s₀ s) :
    Keeps s₀ (State.takeRecords s d x0) := by
  induction x0 generalizing s d with
  | zero =>
    unfold State.takeRecords
    try dsimp only
    repeat' first | (with_reducible assumption) | with_reducible exact Keeps.refl _ | (with_reducible apply ih) | (with_reducible apply State.loadRec_keeps) | (with_reducible apply Keeps.ite) | split | (intro _ _ _) | (intro _ _) | dsimp only
  | succ _ ih =>
    unfold State.takeRecords
    try dsimp only
    repeat' first | (with_reducible assumption) | with_reducible exact Keeps.refl _ | (with_reducible apply ih) | (with_reducible apply State.loadRec_keeps) | (with_reducible apply Keeps.ite) | split | (intro _ _ _) | (intro _ _) | dsimp only

theorem State.takeSections_keeps {s₀ s : State} (k : Nat) (l : List Section) (hk : Keeps s₀ s) :
    Keeps s₀ (s.takeSections k l) := by
  induction l generalizing s k with
  | nil => exact hk
  | cons x xs ih =>
    unfold State.takeSections
    split
    · exact hk
    · split
      · exact ih _ (Keeps.ite (State.takeRecords_keeps _ _ hk) hk)
      · exact ih _ (Keeps.ite hk (State.takeSection_keeps _ _ hk))

theorem State.takeRest_keeps {s₀ : State} {s : State}    (hk : Keeps s₀ s) :
    Keeps s₀ (State.takeRest s ) := by
  unfold State.takeRest
  try dsimp only
  repeat' first | (with_reducible assumption) | with_reducible exact Keeps.refl _ | (with_reducible apply State.takeSections_keeps) | split | (intro _ _ _) | (intro _ _) | dsimp only

theorem State.settleReach_keeps {s₀ : State} {s : State}  (d : Nat) (r : Nat)  (hk : Keeps s₀ s) :
    Keeps s₀ (State.settleReach s d r ) := by
  unfold State.settleReach
  try dsimp only
  repeat' first | (with_reducible assumption) | with_reducible exact Keeps.refl _ | (with_reducible apply State.wakeCheck_keeps) | (fail_if_no_progress (with_reducible refine Keeps.upd ?_)) | split | (intro _ _ _) | (intro _ _) | (with_reducible refine Keeps.snd (by with_reducible assumption) ?_) | (with_reducible refine Keeps.fst (by with_reducible assumption) ?_) | (with_reducible refine Keeps.snd2 (by with_reducible assumption) ?_) | (with_reducible refine Keeps.snd3 (by with_reducible assumption) ?_) | dsimp only

theorem State.releaseStep2_keeps {s₀ : State} {s : State}  (r : Release)  (hk : Keeps s₀ s) :
    Keeps s₀ (State.releaseStep2 s r ) := by
  unfold State.releaseStep2
  try dsimp only
  repeat' first | (with_reducible assumption) | with_reducible exact Keeps.refl _ | (with_reducible apply Keeps.foldl) | (with_reducible apply Keeps.foldl_fst) | (with_reducible apply Keeps.foldl_snd) | (fail_if_no_progress (with_reducible refine Keeps.upd ?_)) | split | (intro _ _ _) | (intro _ _) | dsimp only

theorem State.dieOpens_keeps {s₀ : State} {s : State}  (d : Nat)  (hk : Keeps s₀ s) :
    Keeps s₀ (State.dieOpens s d ) := by
  unfold State.dieOpens
  try dsimp only
  repeat' first | (with_reducible assumption) | with_reducible exact Keeps.refl _ | (with_reducible apply State.fset_keeps) | (with_reducible apply State.flag_keeps) | (fail_if_no_progress (with_reducible refine Keeps.upd ?_)) | split | (intro _ _ _) | (intro _ _) | dsimp only

theorem State.reachRelease_keeps {s₀ : State} {s : State}  (d : Nat) (r : Nat)  (hk : Keeps s₀ s) :
    Keeps s₀ (State.reachRelease s d r ) := by
  unfold State.reachRelease
  try dsimp only
  repeat' first | (with_reducible assumption) | with_reducible exact Keeps.refl _ | (with_reducible apply State.freeBorder_keeps) | (with_reducible apply State.reachStart_keeps) | (with_reducible apply State.reachClear_keeps) | (fail_if_no_progress (with_reducible refine Keeps.upd ?_)) | split | (intro _ _ _) | (intro _ _) | dsimp only

theorem State.releaseStep3_keeps {s₀ : State} {s : State}  (r : Release)  (hk : Keeps s₀ s) :
    Keeps s₀ (State.releaseStep3 s r ) := by
  unfold State.releaseStep3
  try dsimp only
  repeat' first | (with_reducible assumption) | with_reducible exact Keeps.refl _ | (with_reducible apply State.reachRelease_keeps) | (with_reducible apply State.dieOpens_keeps) | (with_reducible apply State.setBt_keeps) | (with_reducible apply Keeps.foldl) | (with_reducible apply Keeps.foldl_fst) | (with_reducible apply Keeps.foldl_snd) | (fail_if_no_progress (with_reducible refine Keeps.upd ?_)) | (with_reducible apply Keeps.ite) | split | (intro _ _ _) | (intro _ _) | (with_reducible refine Keeps.snd (by with_reducible assumption) ?_) | (with_reducible refine Keeps.fst (by with_reducible assumption) ?_) | (with_reducible refine Keeps.snd2 (by with_reducible assumption) ?_) | (with_reducible refine Keeps.snd3 (by with_reducible assumption) ?_) | dsimp only

theorem State.setReleaseStep_keeps {s₀ : State} {s : State}  (sc : Scope) (n : Nat)  (hk : Keeps s₀ s) :
    Keeps s₀ (State.setReleaseStep s sc n ) := by
  unfold State.setReleaseStep
  try dsimp only
  repeat' first | (with_reducible assumption) | with_reducible exact Keeps.refl _ | (fail_if_no_progress (with_reducible refine Keeps.upd ?_)) | (with_reducible apply Keeps.ite) | split | (intro _ _ _) | (intro _ _) | dsimp only

theorem doReleaseWriteEnables_keeps {s₀ : State} {s : State}  (sc : Scope)  (hk : Keeps s₀ s) :
    Keeps s₀ (doReleaseWriteEnables sc s ) := by
  unfold doReleaseWriteEnables
  try dsimp only
  repeat' first | (with_reducible assumption) | with_reducible exact Keeps.refl _ | (with_reducible apply State.setReleaseStep_keeps) | (with_reducible apply State.releaseStep2_keeps) | (with_reducible apply State.releaseStep1_keeps) | (with_reducible apply Keeps.ite) | split | (intro _ _ _) | (intro _ _) | dsimp only

theorem State.loadDone_keeps {s₀ : State} {s : State}    (hk : Keeps s₀ s) :
    Keeps s₀ (State.loadDone s ) := by
  unfold State.loadDone
  try dsimp only
  repeat' first | (with_reducible assumption) | with_reducible exact Keeps.refl _ | (with_reducible apply State.notice_keeps) | (with_reducible apply State.finishWork_keeps) | (fail_if_no_progress (with_reducible refine Keeps.upd ?_)) | split | (intro _ _ _) | (intro _ _) | (with_reducible refine Keeps.snd (by with_reducible assumption) ?_) | (with_reducible refine Keeps.fst (by with_reducible assumption) ?_) | (with_reducible refine Keeps.snd2 (by with_reducible assumption) ?_) | (with_reducible refine Keeps.snd3 (by with_reducible assumption) ?_) | dsimp only

theorem State.endWaitingReloads_keeps {s₀ : State} {s : State}    (hk : Keeps s₀ s) :
    Keeps s₀ (State.endWaitingReloads s ) := by
  unfold State.endWaitingReloads
  try dsimp only
  repeat' first | (with_reducible assumption) | with_reducible exact Keeps.refl _ | (with_reducible apply State.dropJob_keeps) | (with_reducible apply State.reloadEnd_keeps) | (with_reducible apply Keeps.foldl) | (with_reducible apply Keeps.foldl_fst) | (with_reducible apply Keeps.foldl_snd) | (with_reducible apply Keeps.ite) | split | (intro _ _ _) | (intro _ _) | dsimp only

theorem State.swapDone_keeps {s₀ : State} {s : State}    (hk : Keeps s₀ s) :
    Keeps s₀ (State.swapDone s ) := by
  unfold State.swapDone
  try dsimp only
  repeat' first | (with_reducible assumption) | with_reducible exact Keeps.refl _ | (with_reducible apply State.endWaitingReloads_keeps) | (with_reducible apply State.count_keeps) | (with_reducible apply State.finish_keeps) | (with_reducible apply State.notice_keeps) | (with_reducible apply State.fset_keeps) | (with_reducible apply Keeps.foldl) | (with_reducible apply Keeps.foldl_fst) | (with_reducible apply Keeps.foldl_snd) | (fail_if_no_progress (with_reducible refine Keeps.upd ?_)) | split | (intro _ _ _) | (intro _ _) | (with_reducible refine Keeps.snd (by with_reducible assumption) ?_) | (with_reducible refine Keeps.fst (by with_reducible assumption) ?_) | (with_reducible refine Keeps.snd2 (by with_reducible assumption) ?_) | (with_reducible refine Keeps.snd3 (by with_reducible assumption) ?_) | dsimp only

theorem State.reachSwapDone_keeps {s₀ : State} {s : State}  (d : Nat) (r : Nat) (pause : Nat)  (hk : Keeps s₀ s) :
    Keeps s₀ (State.reachSwapDone s d r pause ) := by
  unfold State.reachSwapDone
  try dsimp only
  repeat' first | (with_reducible assumption) | with_reducible exact Keeps.refl _ | (with_reducible apply State.count_keeps) | (with_reducible apply State.dropJob_keeps) | (with_reducible apply State.reloadEnd_keeps) | (with_reducible apply State.fset_keeps) | split | (intro _ _ _) | (intro _ _) | dsimp only

theorem State.releaseEnds_keeps {s₀ : State} {s : State}  (r : Release)  (hk : Keeps s₀ s) :
    Keeps s₀ (State.releaseEnds s r ) := by
  unfold State.releaseEnds
  try dsimp only
  repeat' first | (with_reducible assumption) | with_reducible exact Keeps.refl _ | (with_reducible apply State.settleReach_keeps) | (with_reducible apply State.swapDone_keeps) | (with_reducible apply State.settle_keeps) | (with_reducible apply State.reachSwapDone_keeps) | (with_reducible apply State.loadDone_keeps) | (with_reducible apply State.resetDone_keeps) | split | (intro _ _ _) | (intro _ _) | (with_reducible refine Keeps.snd (by with_reducible assumption) ?_) | (with_reducible refine Keeps.fst (by with_reducible assumption) ?_) | (with_reducible refine Keeps.snd2 (by with_reducible assumption) ?_) | (with_reducible refine Keeps.snd3 (by with_reducible assumption) ?_) | dsimp only

theorem doReleaseResetsDeassert_keeps {s₀ : State} {s : State}  (sc : Scope)  (hk : Keeps s₀ s) :
    Keeps s₀ (doReleaseResetsDeassert sc s ) := by
  unfold doReleaseResetsDeassert
  try dsimp only
  repeat' first | (with_reducible assumption) | with_reducible exact Keeps.refl _ | (with_reducible apply State.releaseStep3_keeps) | (with_reducible apply State.powerRefresh_keeps) | (with_reducible apply State.releaseEnds_keeps) | (fail_if_no_progress (with_reducible refine Keeps.upd ?_)) | (with_reducible apply Keeps.ite) | split | (intro _ _ _) | (intro _ _) | dsimp only

theorem doReachDrainEnd_keeps {s₀ : State} {s : State}  (d : Nat) (r : Nat)  (hk : Keeps s₀ s) :
    Keeps s₀ (doReachDrainEnd d r s ) := by
  unfold doReachDrainEnd
  try dsimp only
  repeat' first | (with_reducible assumption) | with_reducible exact Keeps.refl _ | (with_reducible apply State.releaseStart_keeps) | (with_reducible apply State.holdReach_keeps) | (with_reducible apply State.setShadow_keeps) | (with_reducible apply State.flip_keeps) | (with_reducible apply Keeps.ite) | split | (intro _ _ _) | (intro _ _) | dsimp only

theorem State.spiFor_keeps {s₀ : State} {s : State}  (on : Bool)  (hk : Keeps s₀ s) :
    Keeps s₀ (State.spiFor s on ) := by
  unfold State.spiFor
  try dsimp only
  repeat' first | (with_reducible assumption) | with_reducible exact Keeps.refl _ | (with_reducible apply State.drawSpiWidth_keeps) | (with_reducible apply State.setOwners_keeps) | (with_reducible apply State.fset_keeps) | (with_reducible apply Keeps.ite) | split | (intro _ _ _) | (intro _ _) | dsimp only

theorem State.nextSource_keeps {s₀ : State} {s : State}  (ext : List (BitVec 8)) (x0 : List Nat) (x1 : List (Nat × Nat)) (hk : Keeps s₀ s) :
    Keeps s₀ (State.nextSource s ext x0 x1) := by
  induction x0 generalizing s ext x1 with
  | nil =>
    unfold State.nextSource
    try dsimp only
    repeat' first | (with_reducible assumption) | with_reducible exact Keeps.refl _ | (with_reducible apply ih) | (with_reducible apply State.notice_keeps) | (with_reducible apply State.loadFail_keeps) | (with_reducible apply State.spiFor_keeps) | (with_reducible apply State.beginLoad_keeps) | (fail_if_no_progress (with_reducible refine Keeps.upd ?_)) | (with_reducible apply Keeps.ite) | split | (intro _ _ _) | (intro _ _) | (with_reducible refine Keeps.snd (by with_reducible assumption) ?_) | (with_reducible refine Keeps.fst (by with_reducible assumption) ?_) | (with_reducible refine Keeps.snd2 (by with_reducible assumption) ?_) | (with_reducible refine Keeps.snd3 (by with_reducible assumption) ?_) | dsimp only
  | cons _ _ ih =>
    unfold State.nextSource
    try dsimp only
    repeat' first | (with_reducible assumption) | with_reducible exact Keeps.refl _ | (with_reducible apply ih) | (with_reducible apply State.notice_keeps) | (with_reducible apply State.loadFail_keeps) | (with_reducible apply State.spiFor_keeps) | (with_reducible apply State.beginLoad_keeps) | (fail_if_no_progress (with_reducible refine Keeps.upd ?_)) | (with_reducible apply Keeps.ite) | split | (intro _ _ _) | (intro _ _) | (with_reducible refine Keeps.snd (by with_reducible assumption) ?_) | (with_reducible refine Keeps.fst (by with_reducible assumption) ?_) | (with_reducible refine Keeps.snd2 (by with_reducible assumption) ?_) | (with_reducible refine Keeps.snd3 (by with_reducible assumption) ?_) | dsimp only

theorem State.startLoad_keeps {s₀ : State} {s : State}  (st : StartInfo)  (hk : Keeps s₀ s) :
    Keeps s₀ (State.startLoad s st ) := by
  unfold State.startLoad
  try dsimp only
  repeat' first | (with_reducible assumption) | with_reducible exact Keeps.refl _ | (with_reducible apply State.loadFail_keeps) | (with_reducible apply State.nextSource_keeps) | (fail_if_no_progress (with_reducible refine Keeps.upd ?_)) | (with_reducible apply Keeps.ite) | split | (intro _ _ _) | (intro _ _) | (with_reducible refine Keeps.snd (by with_reducible assumption) ?_) | (with_reducible refine Keeps.fst (by with_reducible assumption) ?_) | (with_reducible refine Keeps.snd2 (by with_reducible assumption) ?_) | (with_reducible refine Keeps.snd3 (by with_reducible assumption) ?_) | dsimp only

theorem State.imageRead_keeps {s₀ : State} {s : State}  (source : Nat)  (hk : Keeps s₀ s) :
    Keeps s₀ (State.imageRead s source ) := by
  unfold State.imageRead
  try dsimp only
  repeat' first | (with_reducible assumption) | with_reducible exact Keeps.refl _ | (with_reducible apply State.slotRead_keeps) | (with_reducible apply Keeps.ite) | split | (intro _ _ _) | (intro _ _) | dsimp only

theorem State.startEnds_keeps {s₀ : State} {s : State}  (l : Load)  (hk : Keeps s₀ s) :
    Keeps s₀ (State.startEnds s l ) := by
  unfold State.startEnds
  try dsimp only
  repeat' first | (with_reducible assumption) | with_reducible exact Keeps.refl _ | (with_reducible apply State.dieReset_keeps) | (with_reducible apply State.loadFail_keeps) | (with_reducible apply State.spiFor_keeps) | (with_reducible apply State.imageTaken_keeps) | (with_reducible apply State.nextSource_keeps) | (with_reducible apply Keeps.foldl) | (with_reducible apply Keeps.foldl_fst) | (with_reducible apply Keeps.foldl_snd) | (fail_if_no_progress (with_reducible refine Keeps.upd ?_)) | (with_reducible apply Keeps.ite) | split | (intro _ _ _) | (intro _ _) | (with_reducible refine Keeps.snd (by with_reducible assumption) ?_) | (with_reducible refine Keeps.fst (by with_reducible assumption) ?_) | (with_reducible refine Keeps.snd2 (by with_reducible assumption) ?_) | (with_reducible refine Keeps.snd3 (by with_reducible assumption) ?_) | dsimp only

theorem State.diesEnd_keeps {s₀ : State} {s : State}  (l : Load) (ds : List Nat)  (hk : Keeps s₀ s) :
    Keeps s₀ (State.diesEnd s l ds ) := by
  unfold State.diesEnd
  try dsimp only
  repeat' first | (with_reducible assumption) | with_reducible exact Keeps.refl _ | (with_reducible apply State.dieReset_keeps) | (with_reducible apply State.applyImage_keeps) | (with_reducible apply State.loadFail_keeps) | (with_reducible apply State.settleAll_keeps) | (with_reducible apply State.releaseStart_keeps) | (with_reducible apply Keeps.foldl) | (with_reducible apply Keeps.foldl_fst) | (with_reducible apply Keeps.foldl_snd) | (fail_if_no_progress (with_reducible refine Keeps.upd ?_)) | (with_reducible apply Keeps.ite) | split | (intro _ _ _) | (intro _ _) | (with_reducible refine Keeps.snd (by with_reducible assumption) ?_) | (with_reducible refine Keeps.fst (by with_reducible assumption) ?_) | (with_reducible refine Keeps.snd2 (by with_reducible assumption) ?_) | (with_reducible refine Keeps.snd3 (by with_reducible assumption) ?_) | dsimp only

theorem doImageLoadComplete_keeps {s₀ : State} {s : State}  (source : Nat)  (hk : Keeps s₀ s) :
    Keeps s₀ (doImageLoadComplete source s ) := by
  unfold doImageLoadComplete
  try dsimp only
  repeat' first | (with_reducible assumption) | with_reducible exact Keeps.refl _ | (with_reducible apply State.startEnds_keeps) | (with_reducible apply State.imageRead_keeps) | (with_reducible apply State.diesEnd_keeps) | (with_reducible apply State.takeRest_keeps) | (with_reducible apply Keeps.ite) | split | (intro _ _ _) | (intro _ _) | dsimp only

theorem State.engUpdate_keeps {s₀ : State} {s : State}  (l : Load) (d : Nat) (e : Nat)  (hk : Keeps s₀ s) :
    Keeps s₀ (State.engUpdate s l d e ) := by
  unfold State.engUpdate
  try dsimp only
  repeat' first | (with_reducible assumption) | with_reducible exact Keeps.refl _ | (with_reducible apply State.fset_keeps) | (with_reducible apply doEngPark_keeps) | (with_reducible apply doEngEpochWrite_keeps) | (with_reducible apply doEngSpillWrite_keeps) | (with_reducible apply State.setStoreWord_keeps) | (with_reducible apply Keeps.foldl) | (with_reducible apply Keeps.foldl_fst) | (with_reducible apply Keeps.foldl_snd) | (fail_if_no_progress (with_reducible refine Keeps.upd ?_)) | split | (intro _ _ _) | (intro _ _) | (with_reducible refine Keeps.snd (by with_reducible assumption) ?_) | (with_reducible refine Keeps.fst (by with_reducible assumption) ?_) | (with_reducible refine Keeps.snd2 (by with_reducible assumption) ?_) | (with_reducible refine Keeps.snd3 (by with_reducible assumption) ?_) | dsimp only

theorem State.blockFive_keeps {s₀ : State} {s : State}  (ps : List (Word × Word))  (hk : Keeps s₀ s) :
    Keeps s₀ (State.blockFive s ps ) := by
  unfold State.blockFive
  try dsimp only
  repeat' first | (with_reducible assumption) | with_reducible exact Keeps.refl _ | (with_reducible apply State.dieWrite_keeps) | (with_reducible apply Keeps.foldl) | (with_reducible apply Keeps.foldl_fst) | (with_reducible apply Keeps.foldl_snd) | (with_reducible apply Keeps.ite) | split | (intro _ _ _) | (intro _ _) | dsimp only

theorem State.swapReady_keeps {s₀ : State} {s : State}  (w : SwapSt) (l : Load)  (hk : Keeps s₀ s) :
    Keeps s₀ (State.swapReady s w l ) := by
  unfold State.swapReady
  try dsimp only
  repeat' first | (with_reducible assumption) | with_reducible exact Keeps.refl _ | (with_reducible apply State.setShadows_keeps) | (with_reducible apply State.blockFive_keeps) | (fail_if_no_progress (with_reducible refine Keeps.upd ?_)) | (with_reducible apply Keeps.ite) | split | (intro _ _ _) | (intro _ _) | (with_reducible refine Keeps.snd (by with_reducible assumption) ?_) | (with_reducible refine Keeps.fst (by with_reducible assumption) ?_) | (with_reducible refine Keeps.snd2 (by with_reducible assumption) ?_) | (with_reducible refine Keeps.snd3 (by with_reducible assumption) ?_) | dsimp only

theorem State.swapUpdate_keeps {s₀ : State} {s : State}  (w : SwapSt) (l : Load) (x0 : List (Nat × Nat)) (hk : Keeps s₀ s) :
    Keeps s₀ (State.swapUpdate s w l x0) := by
  induction x0 generalizing s w l with
  | nil =>
    unfold State.swapUpdate
    try dsimp only
    repeat' first | (with_reducible assumption) | with_reducible exact Keeps.refl _ | (with_reducible apply ih) | (with_reducible apply doEngPark_keeps) | (with_reducible apply State.engUpdate_keeps) | (with_reducible apply State.swapReady_keeps) | (fail_if_no_progress (with_reducible refine Keeps.upd ?_)) | (with_reducible apply Keeps.ite) | split | (intro _ _ _) | (intro _ _) | (with_reducible refine Keeps.snd (by with_reducible assumption) ?_) | (with_reducible refine Keeps.fst (by with_reducible assumption) ?_) | (with_reducible refine Keeps.snd2 (by with_reducible assumption) ?_) | (with_reducible refine Keeps.snd3 (by with_reducible assumption) ?_) | dsimp only
  | cons _ _ ih =>
    unfold State.swapUpdate
    try dsimp only
    repeat' first | (with_reducible assumption) | with_reducible exact Keeps.refl _ | (with_reducible apply ih) | (with_reducible apply doEngPark_keeps) | (with_reducible apply State.engUpdate_keeps) | (with_reducible apply State.swapReady_keeps) | (fail_if_no_progress (with_reducible refine Keeps.upd ?_)) | (with_reducible apply Keeps.ite) | split | (intro _ _ _) | (intro _ _) | (with_reducible refine Keeps.snd (by with_reducible assumption) ?_) | (with_reducible refine Keeps.fst (by with_reducible assumption) ?_) | (with_reducible refine Keeps.snd2 (by with_reducible assumption) ?_) | (with_reducible refine Keeps.snd3 (by with_reducible assumption) ?_) | dsimp only

theorem State.swapStep_keeps {s₀ : State} {s : State}    (hk : Keeps s₀ s) :
    Keeps s₀ (State.swapStep s ) := by
  unfold State.swapStep
  try dsimp only
  repeat' first | (with_reducible assumption) | with_reducible exact Keeps.refl _ | (with_reducible apply State.swapUpdate_keeps) | (with_reducible apply Keeps.ite) | split | (intro _ _ _) | (intro _ _) | dsimp only

theorem State.swapBad_keeps {s₀ : State} {s : State}  (st : Nat) (at_ : Option (Nat × Nat))  (hk : Keeps s₀ s) :
    Keeps s₀ (State.swapBad s st at_ ) := by
  unfold State.swapBad
  try dsimp only
  repeat' first | (with_reducible assumption) | with_reducible exact Keeps.refl _ | (with_reducible apply State.abandonSwap_keeps) | (with_reducible apply State.freeByte_keeps) | split | (intro _ _ _) | (intro _ _) | (with_reducible refine Keeps.snd (by with_reducible assumption) ?_) | (with_reducible refine Keeps.fst (by with_reducible assumption) ?_) | (with_reducible refine Keeps.snd2 (by with_reducible assumption) ?_) | (with_reducible refine Keeps.snd3 (by with_reducible assumption) ?_) | dsimp only

theorem doLiveSwapVerified_keeps {s₀ : State} {s : State}  (source : Nat)  (hk : Keeps s₀ s) :
    Keeps s₀ (doLiveSwapVerified source s ) := by
  unfold doLiveSwapVerified
  try dsimp only
  repeat' first | (with_reducible assumption) | with_reducible exact Keeps.refl _ | (with_reducible apply State.swapBad_keeps) | (with_reducible apply State.swapUpdate_keeps) | (with_reducible apply State.imageRead_keeps) | (with_reducible apply State.takeRest_keeps) | (with_reducible apply Keeps.ite) | split | (intro _ _ _) | (intro _ _) | (with_reducible refine Keeps.snd (by with_reducible assumption) ?_) | (with_reducible refine Keeps.fst (by with_reducible assumption) ?_) | (with_reducible refine Keeps.snd2 (by with_reducible assumption) ?_) | (with_reducible refine Keeps.snd3 (by with_reducible assumption) ?_) | dsimp only

theorem State.drainDie_keeps {s₀ : State} {s : State}  (d : Nat)  (hk : Keeps s₀ s) :
    Keeps s₀ (State.drainDie s d ) := by
  unfold State.drainDie
  try dsimp only
  repeat' first | (with_reducible assumption) | with_reducible exact Keeps.refl _ | (with_reducible apply State.fset_keeps) | (with_reducible apply State.isolate_keeps) | (with_reducible apply Keeps.foldl) | (with_reducible apply Keeps.foldl_fst) | (with_reducible apply Keeps.foldl_snd) | (fail_if_no_progress (with_reducible refine Keeps.upd ?_)) | split | (intro _ _ _) | (intro _ _) | dsimp only

theorem doSwapDrainStart_keeps {s₀ : State} {s : State}    (hk : Keeps s₀ s) :
    Keeps s₀ (doSwapDrainStart s ) := by
  unfold doSwapDrainStart
  try dsimp only
  repeat' first | (with_reducible assumption) | with_reducible exact Keeps.refl _ | (with_reducible apply State.drainDie_keeps) | (with_reducible apply State.swapStep_keeps) | (with_reducible apply Keeps.foldl) | (with_reducible apply Keeps.foldl_fst) | (with_reducible apply Keeps.foldl_snd) | (fail_if_no_progress (with_reducible refine Keeps.upd ?_)) | (with_reducible apply Keeps.ite) | split | (intro _ _ _) | (intro _ _) | dsimp only

theorem State.undrainDie_keeps {s₀ : State} {s : State}  (d : Nat)  (hk : Keeps s₀ s) :
    Keeps s₀ (State.undrainDie s d ) := by
  unfold State.undrainDie
  try dsimp only
  repeat' first | (with_reducible assumption) | with_reducible exact Keeps.refl _ | (with_reducible apply State.fset_keeps) | (with_reducible apply State.flag_keeps) | (with_reducible apply State.fsetBit_keeps) | (with_reducible apply State.freeBorder_keeps) | (with_reducible apply Keeps.foldl) | (with_reducible apply Keeps.foldl_fst) | (with_reducible apply Keeps.foldl_snd) | (fail_if_no_progress (with_reducible refine Keeps.upd ?_)) | (with_reducible apply Keeps.ite) | split | (intro _ _ _) | (intro _ _) | dsimp only

theorem doSwapDrainTimeout_keeps {s₀ : State} {s : State}  (d : Nat)  (hk : Keeps s₀ s) :
    Keeps s₀ (doSwapDrainTimeout d s ) := by
  unfold doSwapDrainTimeout
  try dsimp only
  repeat' first | (with_reducible assumption) | with_reducible exact Keeps.refl _ | (with_reducible apply State.abandonSwap_keeps) | (with_reducible apply State.undrainDie_keeps) | (with_reducible apply Keeps.foldl) | (with_reducible apply Keeps.foldl_fst) | (with_reducible apply Keeps.foldl_snd) | (with_reducible apply Keeps.ite) | split | (intro _ _ _) | (intro _ _) | dsimp only

theorem State.activate_keeps {s₀ : State} {s : State}  (a : Nat) (v : Word)  (hk : Keeps s₀ s) :
    Keeps s₀ (State.activate s a v ) := by
  unfold State.activate
  try dsimp only
  repeat' first | (with_reducible assumption) | with_reducible exact Keeps.refl _ | (with_reducible apply State.plainWrite_keeps) | (with_reducible apply State.fset_keeps) | (with_reducible apply doDqWeirWrite_keeps) | (with_reducible apply State.csrSet_keeps) | (with_reducible apply Keeps.ite) | split | (intro _ _ _) | (intro _ _) | dsimp only

theorem State.flipShadows_keeps {s₀ : State} {s : State}    (hk : Keeps s₀ s) :
    Keeps s₀ (State.flipShadows s ) := by
  unfold State.flipShadows
  try dsimp only
  repeat' first | (with_reducible assumption) | with_reducible exact Keeps.refl _ | (with_reducible apply State.activate_keeps) | (with_reducible apply State.evalServable_keeps) | (with_reducible apply State.evalReady_keeps) | (with_reducible apply Keeps.foldl) | (with_reducible apply Keeps.foldl_fst) | (with_reducible apply Keeps.foldl_snd) | (fail_if_no_progress (with_reducible refine Keeps.upd ?_)) | split | (intro _ _ _) | (intro _ _) | dsimp only

theorem State.flipWrites_keeps {s₀ : State} {s : State}    (hk : Keeps s₀ s) :
    Keeps s₀ (State.flipWrites s ) := by
  unfold State.flipWrites
  try dsimp only
  repeat' first | (with_reducible assumption) | with_reducible exact Keeps.refl _ | (with_reducible apply State.takeDownAll_keeps) | (with_reducible apply State.dieWrite_keeps) | (with_reducible apply Keeps.foldl) | (with_reducible apply Keeps.foldl_fst) | (with_reducible apply Keeps.foldl_snd) | (fail_if_no_progress (with_reducible refine Keeps.upd ?_)) | (with_reducible apply Keeps.ite) | split | (intro _ _ _) | (intro _ _) | (with_reducible refine Keeps.snd (by with_reducible assumption) ?_) | (with_reducible refine Keeps.fst (by with_reducible assumption) ?_) | (with_reducible refine Keeps.snd2 (by with_reducible assumption) ?_) | (with_reducible refine Keeps.snd3 (by with_reducible assumption) ?_) | dsimp only

theorem doSwapFlip_keeps {s₀ : State} {s : State}  (pause : Nat)  (hk : Keeps s₀ s) :
    Keeps s₀ (doSwapFlip pause s ) := by
  unfold doSwapFlip
  try dsimp only
  repeat' first | (with_reducible assumption) | with_reducible exact Keeps.refl _ | (with_reducible apply State.flipWrites_keeps) | (with_reducible apply State.showImage_keeps) | (with_reducible apply State.holdReach_keeps) | (with_reducible apply State.flip_keeps) | (with_reducible apply State.engAbort_keeps) | (with_reducible apply State.flipShadows_keeps) | (with_reducible apply State.setSource_keeps) | (with_reducible apply State.setShadow_keeps) | (with_reducible apply State.releaseStart_keeps) | (with_reducible apply Keeps.foldl) | (with_reducible apply Keeps.foldl_fst) | (with_reducible apply Keeps.foldl_snd) | (fail_if_no_progress (with_reducible refine Keeps.upd ?_)) | (with_reducible apply Keeps.ite) | split | (intro _ _ _) | (intro _ _) | (with_reducible refine Keeps.snd (by with_reducible assumption) ?_) | (with_reducible refine Keeps.fst (by with_reducible assumption) ?_) | (with_reducible refine Keeps.snd2 (by with_reducible assumption) ?_) | (with_reducible refine Keeps.snd3 (by with_reducible assumption) ?_) | dsimp only

theorem State.reachStays_keeps {s₀ : State} {s : State}  (d : Nat) (r : Nat)  (hk : Keeps s₀ s) :
    Keeps s₀ (State.reachStays s d r ) := by
  unfold State.reachStays
  try dsimp only
  repeat' first | (with_reducible assumption) | with_reducible exact Keeps.refl _ | (with_reducible apply State.releaseStart_keeps) | (with_reducible apply Keeps.ite) | split | (intro _ _ _) | (intro _ _) | (with_reducible refine Keeps.snd (by with_reducible assumption) ?_) | (with_reducible refine Keeps.fst (by with_reducible assumption) ?_) | (with_reducible refine Keeps.snd2 (by with_reducible assumption) ?_) | (with_reducible refine Keeps.snd3 (by with_reducible assumption) ?_) | dsimp only

theorem State.takeReload_keeps {s₀ : State} {s : State}  (d : Nat) (r : Nat) (x0 : Nat) (hk : Keeps s₀ s) :
    Keeps s₀ (State.takeReload s d r x0) := by
  induction x0 generalizing s d r with
  | zero =>
    unfold State.takeReload
    try dsimp only
    repeat' first | (with_reducible assumption) | with_reducible exact Keeps.refl _ | (with_reducible apply ih) | (with_reducible apply State.jobRec_keeps) | split | (intro _ _ _) | (intro _ _) | dsimp only
  | succ _ ih =>
    unfold State.takeReload
    try dsimp only
    repeat' first | (with_reducible assumption) | with_reducible exact Keeps.refl _ | (with_reducible apply ih) | (with_reducible apply State.jobRec_keeps) | split | (intro _ _ _) | (intro _ _) | dsimp only

theorem State.reloadRead_keeps {s₀ : State} {s : State}  (d : Nat) (r : Nat)  (hk : Keeps s₀ s) :
    Keeps s₀ (State.reloadRead s d r ) := by
  unfold State.reloadRead
  try dsimp only
  repeat' first | (with_reducible assumption) | with_reducible exact Keeps.refl _ | (with_reducible apply State.linesRead_keeps) | split | (intro _ _ _) | (intro _ _) | dsimp only

theorem State.shadowBuilt_keeps {s₀ : State} {s : State}  (d : Nat) (r : Nat) (j : ReachJob)  (hk : Keeps s₀ s) :
    Keeps s₀ (State.shadowBuilt s d r j ) := by
  unfold State.shadowBuilt
  try dsimp only
  repeat' first | (with_reducible assumption) | with_reducible exact Keeps.refl _ | (with_reducible apply State.reloadRead_keeps) | (with_reducible apply State.dropJob_keeps) | (with_reducible apply State.patchFail_keeps) | (with_reducible apply State.reloadEnd_keeps) | (with_reducible apply State.reachStays_keeps) | (with_reducible apply State.buildPatch_keeps) | (with_reducible apply State.beginReachSwap_keeps) | (with_reducible apply State.setShadow_keeps) | (with_reducible apply Keeps.ite) | split | (intro _ _ _) | (intro _ _) | (with_reducible refine Keeps.snd (by with_reducible assumption) ?_) | (with_reducible refine Keeps.fst (by with_reducible assumption) ?_) | (with_reducible refine Keeps.snd2 (by with_reducible assumption) ?_) | (with_reducible refine Keeps.snd3 (by with_reducible assumption) ?_) | dsimp only

theorem doShadowBuildDone_keeps {s₀ : State} {s : State}  (d : Nat) (r : Nat)  (hk : Keeps s₀ s) :
    Keeps s₀ (doShadowBuildDone d r s ) := by
  unfold doShadowBuildDone
  try dsimp only
  repeat' first | (with_reducible assumption) | with_reducible exact Keeps.refl _ | (with_reducible apply State.takeReload_keeps) | (with_reducible apply State.shadowBuilt_keeps) | (with_reducible apply Keeps.ite) | split | (intro _ _ _) | (intro _ _) | dsimp only

end Sys2Proof.Machine
end

