-- ==== Sys2Proof/Laws/KeepsSelfTest.lean ====
section
/-! SUPPORT. What the operations of Sys2Proof/Machine/SelfTest.lean keep. -/

set_option linter.all false

namespace Sys2Proof.Machine

theorem State.tapReset_keeps {s₀ : State} {s : State}    (hk : Keeps s₀ s) :
    Keeps s₀ (State.tapReset s ) := by
  unfold State.tapReset
  try dsimp only
  repeat' first | (with_reducible assumption) | with_reducible exact Keeps.refl _ | (with_reducible apply State.reloadDies_keeps) | (fail_if_no_progress (with_reducible refine Keeps.upd ?_)) | (with_reducible apply Keeps.ite) | split | (intro _ _ _) | (intro _ _) | (with_reducible refine Keeps.snd (by with_reducible assumption) ?_) | (with_reducible refine Keeps.fst (by with_reducible assumption) ?_) | (with_reducible refine Keeps.snd2 (by with_reducible assumption) ?_) | (with_reducible refine Keeps.snd3 (by with_reducible assumption) ?_) | dsimp only

theorem State.bistOff_keeps {s₀ : State} {s : State}  (d : Nat)  (hk : Keeps s₀ s) :
    Keeps s₀ (State.bistOff s d ) := by
  unfold State.bistOff
  try dsimp only
  repeat' first | (with_reducible assumption) | with_reducible exact Keeps.refl _ | (with_reducible apply State.settle_keeps) | (fail_if_no_progress (with_reducible refine Keeps.upd ?_)) | split | (intro _ _ _) | (intro _ _) | dsimp only

theorem State.putExp_keeps {s₀ : State} {s : State}  (d : Nat) (l : BitVec 64) (m : BitVec 64)  (hk : Keeps s₀ s) :
    Keeps s₀ (State.putExp s d l m ) := by
  unfold State.putExp
  try dsimp only
  repeat' first | (with_reducible assumption) | with_reducible exact Keeps.refl _ | (with_reducible apply State.csrSet_keeps) | split | (intro _ _ _) | (intro _ _) | dsimp only

theorem State.bistStart_keeps {s₀ : State} {s : State}  (b : BistSt)  (hk : Keeps s₀ s) :
    Keeps s₀ (State.bistStart s b ) := by
  unfold State.bistStart
  try dsimp only
  repeat' first | (with_reducible assumption) | with_reducible exact Keeps.refl _ | (with_reducible apply State.fset_keeps) | (with_reducible apply State.resetD_keeps) | (with_reducible apply State.putExp_keeps) | (with_reducible apply Keeps.foldl) | (with_reducible apply Keeps.foldl_fst) | (with_reducible apply Keeps.foldl_snd) | (fail_if_no_progress (with_reducible refine Keeps.upd ?_)) | split | (intro _ _ _) | (intro _ _) | (with_reducible refine Keeps.snd (by with_reducible assumption) ?_) | (with_reducible refine Keeps.fst (by with_reducible assumption) ?_) | (with_reducible refine Keeps.snd2 (by with_reducible assumption) ?_) | (with_reducible refine Keeps.snd3 (by with_reducible assumption) ?_) | dsimp only

theorem doBistRun_keeps {s₀ : State} {s : State}  (h : CmdHdr) (kind : Nat) (dies : Nat) (mems : Nat) (islands : Nat) (resZero : Bool) (known : Bool) (expected : List (BitVec 64))  (hk : Keeps s₀ s) :
    Keeps s₀ (doBistRun h kind dies mems islands resZero known expected s ) := by
  unfold doBistRun
  try dsimp only
  repeat' first | (with_reducible assumption) | with_reducible exact Keeps.refl _ | (with_reducible apply State.settle_keeps) | (with_reducible apply State.command_keeps) | (with_reducible apply State.respond_keeps) | (with_reducible apply State.bistStart_keeps) | (with_reducible apply State.await_keeps) | (with_reducible apply Keeps.ite) | split | (intro _ _ _) | (intro _ _) | (with_reducible refine Keeps.snd (by with_reducible assumption) ?_) | (with_reducible refine Keeps.fst (by with_reducible assumption) ?_) | (with_reducible refine Keeps.snd2 (by with_reducible assumption) ?_) | (with_reducible refine Keeps.snd3 (by with_reducible assumption) ?_) | dsimp only

theorem State.bistReload_keeps {s₀ : State} {s : State}  (b : BistSt) (d : Nat)  (hk : Keeps s₀ s) :
    Keeps s₀ (State.bistReload s b d ) := by
  unfold State.bistReload
  try dsimp only
  repeat' first | (with_reducible assumption) | with_reducible exact Keeps.refl _ | (with_reducible apply State.dieReset_keeps) | (with_reducible apply State.fset_keeps) | (with_reducible apply State.putExp_keeps) | (with_reducible apply State.reloadDies_keeps) | split | (fail_if_no_progress (with_reducible refine Keeps.put ?_ ?_ ?_ ?_ ?_ ?_ ?_)) | (intro c; with_reducible first | exact c.csr | exact c.bankMem | exact c.scratch | exact c.frames | exact c.bar | exact c.flash | exact Memory.wf_drop _ c.scratch | exact Memory.wf_drop _ c.frames | exact Memory.wf_drop _ c.bankMem | exact Memory.wf_drop _ c.flash | exact Memory.wf_drop _ c.bar | exact SMap.wf_mapVals _ c.csr | exact Memory.wf_writeLE _ _ _ c.bankMem | exact Memory.wf_writeLE _ _ _ c.scratch | exact Memory.wf_writeLE _ _ _ c.frames | exact Memory.wf_writeLE _ _ _ c.flash | exact Memory.wf_writes _ _ c.frames | exact Memory.wf_writes _ _ c.bar | exact Memory.wf_write _ _ c.frames | exact Memory.wf_write _ _ c.bar | exact Memory.wf_filter _ c.bar | exact Memory.wf_nil _ | exact barReset_wf) | (fail_if_no_progress (with_reducible refine Keeps.upd ?_)) | (with_reducible apply Keeps.ite) | split | (intro _ _ _) | (intro _ _) | (with_reducible refine Keeps.snd (by with_reducible assumption) ?_) | (with_reducible refine Keeps.fst (by with_reducible assumption) ?_) | (with_reducible refine Keeps.snd2 (by with_reducible assumption) ?_) | (with_reducible refine Keeps.snd3 (by with_reducible assumption) ?_) | dsimp only

theorem State.bistTest_keeps {s₀ : State} {s : State}  (d : Nat) (test : Nat) (misr : BitVec 64)  (hk : Keeps s₀ s) :
    Keeps s₀ (State.bistTest s d test misr ) := by
  unfold State.bistTest
  try dsimp only
  repeat' first | (with_reducible assumption) | with_reducible exact Keeps.refl _ | (with_reducible apply State.notice_keeps) | (with_reducible apply State.bistReload_keeps) | (fail_if_no_progress (with_reducible refine Keeps.upd ?_)) | (with_reducible apply Keeps.ite) | split | (intro _ _ _) | (intro _ _) | (with_reducible refine Keeps.snd (by with_reducible assumption) ?_) | (with_reducible refine Keeps.fst (by with_reducible assumption) ?_) | (with_reducible refine Keeps.snd2 (by with_reducible assumption) ?_) | (with_reducible refine Keeps.snd3 (by with_reducible assumption) ?_) | dsimp only

theorem doLbistComplete_keeps {s₀ : State} {s : State}  (d : Nat) (misr : BitVec 64)  (hk : Keeps s₀ s) :
    Keeps s₀ (doLbistComplete d misr s ) := by
  unfold doLbistComplete
  try dsimp only
  repeat' first | (with_reducible assumption) | with_reducible exact Keeps.refl _ | (with_reducible apply State.bistTest_keeps) | split | (intro _ _ _) | (intro _ _) | dsimp only

theorem doMbistComplete_keeps {s₀ : State} {s : State}  (d : Nat) (misr : BitVec 64)  (hk : Keeps s₀ s) :
    Keeps s₀ (doMbistComplete d misr s ) := by
  unfold doMbistComplete
  try dsimp only
  repeat' first | (with_reducible assumption) | with_reducible exact Keeps.refl _ | (with_reducible apply State.bistTest_keeps) | split | (intro _ _ _) | (intro _ _) | dsimp only

theorem State.tapLoad_keeps {s₀ : State} {s : State}  (gated : Bool) (t : Tap)  (hk : Keeps s₀ s) :
    Keeps s₀ (State.tapLoad s gated t ) := by
  unfold State.tapLoad
  try dsimp only
  repeat' first | (with_reducible assumption) | with_reducible exact Keeps.refl _ | (fail_if_no_progress (with_reducible refine Keeps.upd ?_)) | (with_reducible apply Keeps.ite) | split | (intro _ _ _) | (intro _ _) | dsimp only

theorem State.tapHold_keeps {s₀ : State} {s : State}  (code : Nat)  (hk : Keeps s₀ s) :
    Keeps s₀ (State.tapHold s code ) := by
  unfold State.tapHold
  try dsimp only
  repeat' first | (with_reducible assumption) | with_reducible exact Keeps.refl _ | (with_reducible apply State.notice_keeps) | (with_reducible apply State.finishWork_keeps) | (with_reducible apply State.resetD_keeps) | (with_reducible apply State.abandonSwap_keeps) | (with_reducible apply Keeps.foldl) | (with_reducible apply Keeps.foldl_fst) | (with_reducible apply Keeps.foldl_snd) | (fail_if_no_progress (with_reducible refine Keeps.upd ?_)) | (with_reducible apply Keeps.ite) | split | (intro _ _ _) | (intro _ _) | (with_reducible refine Keeps.snd (by with_reducible assumption) ?_) | (with_reducible refine Keeps.fst (by with_reducible assumption) ?_) | (with_reducible refine Keeps.snd2 (by with_reducible assumption) ?_) | (with_reducible refine Keeps.snd3 (by with_reducible assumption) ?_) | dsimp only

theorem State.tapTest_keeps {s₀ : State} {s : State}  (code : Nat) (t : Tap)  (hk : Keeps s₀ s) :
    Keeps s₀ (State.tapTest s code t ) := by
  unfold State.tapTest
  try dsimp only
  repeat' first | (with_reducible assumption) | with_reducible exact Keeps.refl _ | (with_reducible apply State.tapHold_keeps) | (with_reducible apply State.tapLoad_keeps) | (with_reducible apply Keeps.ite) | split | (intro _ _ _) | (intro _ _) | dsimp only

theorem doTapBypass_keeps {s₀ : State} {s : State}    (hk : Keeps s₀ s) :
    Keeps s₀ (doTapBypass s ) := by
  unfold doTapBypass
  try dsimp only
  repeat' first | (with_reducible assumption) | with_reducible exact Keeps.refl _ | (with_reducible apply State.tapLoad_keeps) | split | (intro _ _ _) | (intro _ _) | dsimp only

theorem doTapIdcode_keeps {s₀ : State} {s : State}    (hk : Keeps s₀ s) :
    Keeps s₀ (doTapIdcode s ) := by
  unfold doTapIdcode
  try dsimp only
  repeat' first | (with_reducible assumption) | with_reducible exact Keeps.refl _ | (with_reducible apply State.tapLoad_keeps) | split | (intro _ _ _) | (intro _ _) | dsimp only

theorem doTapSamplePreload_keeps {s₀ : State} {s : State}    (hk : Keeps s₀ s) :
    Keeps s₀ (doTapSamplePreload s ) := by
  unfold doTapSamplePreload
  try dsimp only
  repeat' first | (with_reducible assumption) | with_reducible exact Keeps.refl _ | (with_reducible apply State.tapLoad_keeps) | split | (intro _ _ _) | (intro _ _) | dsimp only

theorem doTapExtest_keeps {s₀ : State} {s : State}    (hk : Keeps s₀ s) :
    Keeps s₀ (doTapExtest s ) := by
  unfold doTapExtest
  try dsimp only
  repeat' first | (with_reducible assumption) | with_reducible exact Keeps.refl _ | (with_reducible apply State.tapTest_keeps) | split | (intro _ _ _) | (intro _ _) | dsimp only

theorem doTapExtestPulse_keeps {s₀ : State} {s : State}    (hk : Keeps s₀ s) :
    Keeps s₀ (doTapExtestPulse s ) := by
  unfold doTapExtestPulse
  try dsimp only
  repeat' first | (with_reducible assumption) | with_reducible exact Keeps.refl _ | (with_reducible apply State.tapTest_keeps) | split | (intro _ _ _) | (intro _ _) | dsimp only

theorem doTapExtestTrain_keeps {s₀ : State} {s : State}    (hk : Keeps s₀ s) :
    Keeps s₀ (doTapExtestTrain s ) := by
  unfold doTapExtestTrain
  try dsimp only
  repeat' first | (with_reducible assumption) | with_reducible exact Keeps.refl _ | (with_reducible apply State.tapTest_keeps) | split | (intro _ _ _) | (intro _ _) | dsimp only

theorem doTapClamp_keeps {s₀ : State} {s : State}    (hk : Keeps s₀ s) :
    Keeps s₀ (doTapClamp s ) := by
  unfold doTapClamp
  try dsimp only
  repeat' first | (with_reducible assumption) | with_reducible exact Keeps.refl _ | (with_reducible apply State.tapTest_keeps) | split | (intro _ _ _) | (intro _ _) | dsimp only

theorem doTapHighz_keeps {s₀ : State} {s : State}    (hk : Keeps s₀ s) :
    Keeps s₀ (doTapHighz s ) := by
  unfold doTapHighz
  try dsimp only
  repeat' first | (with_reducible assumption) | with_reducible exact Keeps.refl _ | (with_reducible apply State.tapTest_keeps) | split | (intro _ _ _) | (intro _ _) | dsimp only

theorem doTapTestLogicReset_keeps {s₀ : State} {s : State}    (hk : Keeps s₀ s) :
    Keeps s₀ (doTapTestLogicReset s ) := by
  unfold doTapTestLogicReset
  try dsimp only
  repeat' first | (with_reducible assumption) | with_reducible exact Keeps.refl _ | (with_reducible apply State.tapReset_keeps) | split | (intro _ _ _) | (intro _ _) | dsimp only

end Sys2Proof.Machine
end

