-- ==== Sys2Proof/Laws/KeepsFlash.lean ====
section
/-! SUPPORT. What the operations of Sys2Proof/Machine/Flash.lean keep. -/

set_option linter.all false

namespace Sys2Proof.Machine

theorem State.flErr_keeps {s₀ : State} {s : State}  (e : Nat)  (hk : Keeps s₀ s) :
    Keeps s₀ (State.flErr s e ) := by
  unfold State.flErr
  try dsimp only
  repeat' first | (with_reducible assumption) | with_reducible exact Keeps.refl _ | (with_reducible apply State.flag_keeps) | (with_reducible apply State.fset_keeps) | split | (intro _ _ _) | (intro _ _) | dsimp only

theorem State.fetchInval_keeps {s₀ : State} {s : State}  (sec : Nat)  (hk : Keeps s₀ s) :
    Keeps s₀ (State.fetchInval s sec ) := by
  unfold State.fetchInval
  try dsimp only
  repeat' first | (with_reducible assumption) | with_reducible exact Keeps.refl _ | (with_reducible apply State.branch_keeps) | (with_reducible apply State.count_keeps) | (fail_if_no_progress (with_reducible refine Keeps.upd ?_)) | (with_reducible apply Keeps.ite) | split | (intro _ _ _) | (intro _ _) | (with_reducible refine Keeps.snd (by with_reducible assumption) ?_) | (with_reducible refine Keeps.fst (by with_reducible assumption) ?_) | (with_reducible refine Keeps.snd2 (by with_reducible assumption) ?_) | (with_reducible refine Keeps.snd3 (by with_reducible assumption) ?_) | dsimp only

theorem State.flStart_keeps {s₀ : State} {s : State}  (op : FlOp)  (hk : Keeps s₀ s) :
    Keeps s₀ (State.flStart s op ) := by
  unfold State.flStart
  try dsimp only
  repeat' first | (with_reducible assumption) | with_reducible exact Keeps.refl _ | (with_reducible apply State.setFlState_keeps) | (with_reducible apply State.holdAll_keeps) | (with_reducible apply State.appendProt_keeps) | (with_reducible apply State.fetchInval_keeps) | (fail_if_no_progress (with_reducible refine Keeps.upd ?_)) | (with_reducible apply Keeps.ite) | split | (intro _ _ _) | (intro _ _) | dsimp only

theorem State.flTry_keeps {s₀ : State} {s : State}  (op : FlOp)  (hk : Keeps s₀ s) :
    Keeps s₀ (State.flTry s op ).2 := by
  unfold State.flTry
  try dsimp only
  repeat' first | (with_reducible assumption) | with_reducible exact Keeps.refl _ | (with_reducible apply State.flErr_keeps) | (with_reducible apply State.flStart_keeps) | split | (intro _ _ _) | (intro _ _) | (with_reducible refine Keeps.snd (by with_reducible assumption) ?_) | (with_reducible refine Keeps.fst (by with_reducible assumption) ?_) | (with_reducible refine Keeps.snd2 (by with_reducible assumption) ?_) | (with_reducible refine Keeps.snd3 (by with_reducible assumption) ?_) | dsimp only

theorem State.flTaken_keeps {s₀ : State} {s : State}    (hk : Keeps s₀ s) :
    Keeps s₀ (State.flTaken s ) := by
  unfold State.flTaken
  try dsimp only
  repeat' first | (with_reducible assumption) | with_reducible exact Keeps.refl _ | (fail_if_no_progress (with_reducible refine Keeps.upd ?_)) | split | (intro _ _ _) | (intro _ _) | dsimp only

theorem State.flHi_keeps {s₀ : State} {s : State}  (hi : Word) (raw : Bool)  (hk : Keeps s₀ s) :
    Keeps s₀ (State.flHi s hi raw ) := by
  unfold State.flHi
  try dsimp only
  repeat' first | (with_reducible assumption) | with_reducible exact Keeps.refl _ | (with_reducible apply State.flTry_keeps) | (with_reducible apply State.flTaken_keeps) | (with_reducible apply State.csrSet_keeps) | split | (intro _ _ _) | (intro _ _) | dsimp only

theorem doFlProgram_keeps {s₀ : State} {s : State}  (hi : Word)  (hk : Keeps s₀ s) :
    Keeps s₀ (doFlProgram hi s ) := by
  unfold doFlProgram
  try dsimp only
  repeat' first | (with_reducible assumption) | with_reducible exact Keeps.refl _ | (with_reducible apply State.flHi_keeps) | (with_reducible apply Keeps.ite) | split | (intro _ _ _) | (intro _ _) | dsimp only

theorem State.relock_keeps {s₀ : State} {s : State}    (hk : Keeps s₀ s) :
    Keeps s₀ (State.relock s ) := by
  unfold State.relock
  try dsimp only
  repeat' first | (with_reducible assumption) | with_reducible exact Keeps.refl _ | (with_reducible apply State.fset_keeps) | (fail_if_no_progress (with_reducible refine Keeps.upd ?_)) | split | (intro _ _ _) | (intro _ _) | (with_reducible refine Keeps.snd (by with_reducible assumption) ?_) | (with_reducible refine Keeps.fst (by with_reducible assumption) ?_) | (with_reducible refine Keeps.snd2 (by with_reducible assumption) ?_) | (with_reducible refine Keeps.snd3 (by with_reducible assumption) ?_) | dsimp only

theorem doFlKeyWrite_keeps {s₀ : State} {s : State}  (v : Word)  (hk : Keeps s₀ s) :
    Keeps s₀ (doFlKeyWrite v s ) := by
  unfold doFlKeyWrite
  try dsimp only
  repeat' first | (with_reducible assumption) | with_reducible exact Keeps.refl _ | (with_reducible apply State.flag_keeps) | (with_reducible apply State.relock_keeps) | (with_reducible apply State.flErr_keeps) | (fail_if_no_progress (with_reducible refine Keeps.upd ?_)) | (with_reducible apply Keeps.ite) | split | (intro _ _ _) | (intro _ _) | (with_reducible refine Keeps.snd (by with_reducible assumption) ?_) | (with_reducible refine Keeps.fst (by with_reducible assumption) ?_) | (with_reducible refine Keeps.snd2 (by with_reducible assumption) ?_) | (with_reducible refine Keeps.snd3 (by with_reducible assumption) ?_) | dsimp only

theorem doFlBitprog_keeps {s₀ : State} {s : State}  (hi : Word)  (hk : Keeps s₀ s) :
    Keeps s₀ (doFlBitprog hi s ) := by
  unfold doFlBitprog
  try dsimp only
  repeat' first | (with_reducible assumption) | with_reducible exact Keeps.refl _ | (with_reducible apply State.flHi_keeps) | (with_reducible apply Keeps.ite) | split | (intro _ _ _) | (intro _ _) | dsimp only

theorem doFlResume_keeps {s₀ : State} {s : State}    (hk : Keeps s₀ s) :
    Keeps s₀ (doFlResume s ) := by
  unfold doFlResume
  try dsimp only
  repeat' first | (with_reducible assumption) | with_reducible exact Keeps.refl _ | (with_reducible apply State.setFlState_keeps) | (fail_if_no_progress (with_reducible refine Keeps.upd ?_)) | (with_reducible apply Keeps.ite) | split | (intro _ _ _) | (intro _ _) | (with_reducible refine Keeps.snd (by with_reducible assumption) ?_) | (with_reducible refine Keeps.fst (by with_reducible assumption) ?_) | (with_reducible refine Keeps.snd2 (by with_reducible assumption) ?_) | (with_reducible refine Keeps.snd3 (by with_reducible assumption) ?_) | dsimp only

theorem doFlErase_keeps {s₀ : State} {s : State}  (a : Word)  (hk : Keeps s₀ s) :
    Keeps s₀ (doFlErase a s ) := by
  unfold doFlErase
  try dsimp only
  repeat' first | (with_reducible assumption) | with_reducible exact Keeps.refl _ | (with_reducible apply State.flTry_keeps) | (with_reducible apply State.fset_keeps) | (with_reducible apply State.flTaken_keeps) | (with_reducible apply Keeps.ite) | split | (intro _ _ _) | (intro _ _) | dsimp only

theorem doFlSuspend_keeps {s₀ : State} {s : State}    (hk : Keeps s₀ s) :
    Keeps s₀ (doFlSuspend s ) := by
  unfold doFlSuspend
  try dsimp only
  repeat' first | (with_reducible assumption) | with_reducible exact Keeps.refl _ | (with_reducible apply State.flErr_keeps) | (with_reducible apply State.fset_keeps) | (with_reducible apply State.setFlState_keeps) | (fail_if_no_progress (with_reducible refine Keeps.upd ?_)) | (with_reducible apply Keeps.ite) | split | (intro _ _ _) | (intro _ _) | (with_reducible refine Keeps.snd (by with_reducible assumption) ?_) | (with_reducible refine Keeps.fst (by with_reducible assumption) ?_) | (with_reducible refine Keeps.snd2 (by with_reducible assumption) ?_) | (with_reducible refine Keeps.snd3 (by with_reducible assumption) ?_) | dsimp only

theorem doFlCmdWrite_keeps {s₀ : State} {s : State}  (v : Word)  (hk : Keeps s₀ s) :
    Keeps s₀ (doFlCmdWrite v s ) := by
  unfold doFlCmdWrite
  try dsimp only
  repeat' first | (with_reducible assumption) | with_reducible exact Keeps.refl _ | (with_reducible apply State.flErr_keeps) | (with_reducible apply State.fset_keeps) | (with_reducible apply State.relock_keeps) | (fail_if_no_progress (with_reducible refine Keeps.upd ?_)) | (with_reducible apply Keeps.ite) | split | (intro _ _ _) | (intro _ _) | dsimp only

theorem doFlRdpLower_keeps {s₀ : State} {s : State}  (lo : Word)  (hk : Keeps s₀ s) :
    Keeps s₀ (doFlRdpLower lo s ) := by
  unfold doFlRdpLower
  try dsimp only
  repeat' first | (with_reducible assumption) | with_reducible exact Keeps.refl _ | (with_reducible apply State.flTry_keeps) | (with_reducible apply State.csrSet_keeps) | (with_reducible apply State.flTaken_keeps) | (with_reducible apply Keeps.ite) | split | (intro _ _ _) | (intro _ _) | dsimp only

theorem State.otpStart_keeps {s₀ : State} {s : State}  (w : Nat) (v : BitVec 64)  (hk : Keeps s₀ s) :
    Keeps s₀ (State.otpStart s w v ) := by
  unfold State.otpStart
  try dsimp only
  repeat' first | (with_reducible assumption) | with_reducible exact Keeps.refl _ | (with_reducible apply State.fset_keeps) | (with_reducible apply State.flag_keeps) | (fail_if_no_progress (with_reducible refine Keeps.upd ?_)) | split | (intro _ _ _) | (intro _ _) | (with_reducible refine Keeps.snd (by with_reducible assumption) ?_) | (with_reducible refine Keeps.fst (by with_reducible assumption) ?_) | (with_reducible refine Keeps.snd2 (by with_reducible assumption) ?_) | (with_reducible refine Keeps.snd3 (by with_reducible assumption) ?_) | dsimp only

theorem State.lcUpdate_keeps {s₀ : State} {s : State}    (hk : Keeps s₀ s) :
    Keeps s₀ (State.lcUpdate s ) := by
  unfold State.lcUpdate
  try dsimp only
  repeat' first | (with_reducible assumption) | with_reducible exact Keeps.refl _ | (with_reducible apply State.lcRefresh_keeps) | (with_reducible apply State.tapReset_keeps) | (with_reducible apply Keeps.ite) | split | (intro _ _ _) | (intro _ _) | dsimp only

theorem State.jobEnd_keeps {s₀ : State} {s : State}  (h : CmdHdr) (st : Nat)  (hk : Keeps s₀ s) :
    Keeps s₀ (State.jobEnd s h st ) := by
  unfold State.jobEnd
  try dsimp only
  repeat' first | (with_reducible assumption) | with_reducible exact Keeps.refl _ | (with_reducible apply State.finish_keeps) | (fail_if_no_progress (with_reducible refine Keeps.upd ?_)) | (with_reducible apply Keeps.ite) | split | (intro _ _ _) | (intro _ _) | dsimp only

theorem State.jobRegs_keeps {s₀ : State} {s : State}  (op : FlOp)  (hk : Keeps s₀ s) :
    Keeps s₀ (State.jobRegs s op ) := by
  unfold State.jobRegs
  try dsimp only
  repeat' first | (with_reducible assumption) | with_reducible exact Keeps.refl _ | (with_reducible apply State.fset_keeps) | (with_reducible apply State.relock_keeps) | (with_reducible apply State.csrSet_keeps) | split | (intro _ _ _) | (intro _ _) | dsimp only

theorem State.jobOp_keeps {s₀ : State} {s : State}  (j : Job) (op : FlOp)  (hk : Keeps s₀ s) :
    Keeps s₀ (State.jobOp s j op ) := by
  unfold State.jobOp
  try dsimp only
  repeat' first | (with_reducible assumption) | with_reducible exact Keeps.refl _ | (with_reducible apply State.flTry_keeps) | (with_reducible apply State.jobRegs_keeps) | (with_reducible apply State.jobEnd_keeps) | (fail_if_no_progress (with_reducible refine Keeps.upd ?_)) | split | (intro _ _ _) | (intro _ _) | (with_reducible refine Keeps.snd (by with_reducible assumption) ?_) | (with_reducible refine Keeps.fst (by with_reducible assumption) ?_) | (with_reducible refine Keeps.snd2 (by with_reducible assumption) ?_) | (with_reducible refine Keeps.snd3 (by with_reducible assumption) ?_) | dsimp only

theorem State.dropKeyRights_keeps {s₀ : State} {s : State}  (key : Nat)  (hk : Keeps s₀ s) :
    Keeps s₀ (State.dropKeyRights s key ) := by
  unfold State.dropKeyRights
  try dsimp only
  repeat' first | (with_reducible assumption) | with_reducible exact Keeps.refl _ | (fail_if_no_progress (with_reducible refine Keeps.upd ?_)) | split | (intro _ _ _) | (intro _ _) | dsimp only

theorem State.jobEffect_keeps {s₀ : State} {s : State}   (x0 : JobStep) (hk : Keeps s₀ s) :
    Keeps s₀ (State.jobEffect s x0) := by
  cases x0 <;> unfold State.jobEffect <;> (try dsimp only) <;> (repeat' first | (with_reducible assumption) | with_reducible exact Keeps.refl _ | (with_reducible apply State.notice_keeps) | (with_reducible apply State.lcUpdate_keeps) | (with_reducible apply State.dropKeyRights_keeps) | (with_reducible apply State.protRefresh_keeps) | (with_reducible apply State.setBoot_keeps) | (fail_if_no_progress (with_reducible refine Keeps.upd ?_)) | split | (intro _ _ _) | (intro _ _) | (with_reducible refine Keeps.snd (by with_reducible assumption) ?_) | (with_reducible refine Keeps.fst (by with_reducible assumption) ?_) | (with_reducible refine Keeps.snd2 (by with_reducible assumption) ?_) | (with_reducible refine Keeps.snd3 (by with_reducible assumption) ?_) | dsimp only)

theorem State.jobNotes_keeps {s₀ : State} {s : State}    (hk : Keeps s₀ s) :
    Keeps s₀ (State.jobNotes s ) := by
  unfold State.jobNotes
  try dsimp only
  repeat' first | (with_reducible assumption) | with_reducible exact Keeps.refl _ | (with_reducible apply State.jobEffect_keeps) | (with_reducible apply Keeps.foldl) | (with_reducible apply Keeps.foldl_fst) | (with_reducible apply Keeps.foldl_snd) | split | (intro _ _ _) | (intro _ _) | dsimp only

theorem State.jobGo_keeps {s₀ : State} {s : State}  (h : CmdHdr) (stop : Bool) (x0 : List JobStep) (hk : Keeps s₀ s) :
    Keeps s₀ (State.jobGo s h stop x0) := by
  induction x0 generalizing s h stop with
  | nil =>
    unfold State.jobGo
    try dsimp only
    repeat' first | (with_reducible assumption) | with_reducible exact Keeps.refl _ | (with_reducible apply ih) | (with_reducible apply State.jobEffect_keeps) | (with_reducible apply State.jobOp_keeps) | (with_reducible apply State.otpStart_keeps) | (with_reducible apply State.jobEnd_keeps) | (fail_if_no_progress (with_reducible refine Keeps.upd ?_)) | (with_reducible apply Keeps.ite) | split | (intro _ _ _) | (intro _ _) | (with_reducible refine Keeps.snd (by with_reducible assumption) ?_) | (with_reducible refine Keeps.fst (by with_reducible assumption) ?_) | (with_reducible refine Keeps.snd2 (by with_reducible assumption) ?_) | (with_reducible refine Keeps.snd3 (by with_reducible assumption) ?_) | dsimp only
  | cons _ _ ih =>
    unfold State.jobGo
    try dsimp only
    repeat' first | (with_reducible assumption) | with_reducible exact Keeps.refl _ | (with_reducible apply ih) | (with_reducible apply State.jobEffect_keeps) | (with_reducible apply State.jobOp_keeps) | (with_reducible apply State.otpStart_keeps) | (with_reducible apply State.jobEnd_keeps) | (fail_if_no_progress (with_reducible refine Keeps.upd ?_)) | (with_reducible apply Keeps.ite) | split | (intro _ _ _) | (intro _ _) | (with_reducible refine Keeps.snd (by with_reducible assumption) ?_) | (with_reducible refine Keeps.fst (by with_reducible assumption) ?_) | (with_reducible refine Keeps.snd2 (by with_reducible assumption) ?_) | (with_reducible refine Keeps.snd3 (by with_reducible assumption) ?_) | dsimp only

theorem State.jobNext_keeps {s₀ : State} {s : State}  (st : Nat)  (hk : Keeps s₀ s) :
    Keeps s₀ (State.jobNext s st ) := by
  unfold State.jobNext
  try dsimp only
  repeat' first | (with_reducible assumption) | with_reducible exact Keeps.refl _ | (with_reducible apply State.jobEnd_keeps) | (with_reducible apply State.jobGo_keeps) | (with_reducible apply Keeps.ite) | split | (intro _ _ _) | (intro _ _) | dsimp only

theorem State.startJob_keeps {s₀ : State} {s : State}  (h : CmdHdr) (steps : List JobStep)  (hk : Keeps s₀ s) :
    Keeps s₀ (State.startJob s h steps ) := by
  unfold State.startJob
  try dsimp only
  repeat' first | (with_reducible assumption) | with_reducible exact Keeps.refl _ | (with_reducible apply State.jobGo_keeps) | split | (intro _ _ _) | (intro _ _) | dsimp only

theorem State.areaRefresh_keeps {s₀ : State} {s : State}  (sec : Nat)  (hk : Keeps s₀ s) :
    Keeps s₀ (State.areaRefresh s sec ) := by
  unfold State.areaRefresh
  try dsimp only
  repeat' first | (with_reducible assumption) | with_reducible exact Keeps.refl _ | (with_reducible apply State.badStsRefresh_keeps) | (with_reducible apply State.protRefresh_keeps) | (with_reducible apply Keeps.ite) | split | (intro _ _ _) | (intro _ _) | dsimp only

theorem State.flEnd_keeps {s₀ : State} {s : State}    (hk : Keeps s₀ s) :
    Keeps s₀ (State.flEnd s ) := by
  unfold State.flEnd
  try dsimp only
  repeat' first | (with_reducible assumption) | with_reducible exact Keeps.refl _ | (with_reducible apply State.setFlState_keeps) | (fail_if_no_progress (with_reducible refine Keeps.upd ?_)) | (with_reducible apply Keeps.ite) | split | (intro _ _ _) | (intro _ _) | (with_reducible refine Keeps.snd (by with_reducible assumption) ?_) | (with_reducible refine Keeps.fst (by with_reducible assumption) ?_) | (with_reducible refine Keeps.snd2 (by with_reducible assumption) ?_) | (with_reducible refine Keeps.snd3 (by with_reducible assumption) ?_) | dsimp only

theorem State.flDone_keeps {s₀ : State} {s : State}    (hk : Keeps s₀ s) :
    Keeps s₀ (State.flDone s ) := by
  unfold State.flDone
  try dsimp only
  repeat' first | (with_reducible assumption) | with_reducible exact Keeps.refl _ | (with_reducible apply State.flag_keeps) | split | (intro _ _ _) | (intro _ _) | dsimp only

theorem State.programmed_keeps {s₀ : State} {s : State}  (a : Nat) (v : BitVec 64) (raw : Bool)  (hk : Keeps s₀ s) :
    Keeps s₀ (State.programmed s a v raw ) := by
  unfold State.programmed
  try dsimp only
  repeat' first | (with_reducible assumption) | with_reducible exact Keeps.refl _ | (with_reducible apply State.setFlWord_keeps) | (with_reducible apply State.areaRefresh_keeps) | (with_reducible apply Keeps.ite) | split | (intro _ _ _) | (intro _ _) | dsimp only

theorem doFlashProgramDone_keeps {s₀ : State} {s : State}  (ok : Bool)  (hk : Keeps s₀ s) :
    Keeps s₀ (doFlashProgramDone ok s ) := by
  unfold doFlashProgramDone
  try dsimp only
  repeat' first | (with_reducible assumption) | with_reducible exact Keeps.refl _ | (with_reducible apply State.jobNext_keeps) | (with_reducible apply State.flErr_keeps) | (with_reducible apply State.free64_keeps) | (with_reducible apply State.setFlWord_keeps) | (with_reducible apply State.flEnd_keeps) | (with_reducible apply State.programmed_keeps) | (with_reducible apply State.retire_keeps) | (with_reducible apply State.areaRefresh_keeps) | (with_reducible apply State.flDone_keeps) | (with_reducible apply State.freeByte_keeps) | (with_reducible apply Keeps.ite) | split | (intro _ _ _) | (intro _ _) | (with_reducible refine Keeps.snd (by with_reducible assumption) ?_) | (with_reducible refine Keeps.fst (by with_reducible assumption) ?_) | (with_reducible refine Keeps.snd2 (by with_reducible assumption) ?_) | (with_reducible refine Keeps.snd3 (by with_reducible assumption) ?_) | dsimp only

theorem State.pendingRefresh_keeps {s₀ : State} {s : State}    (hk : Keeps s₀ s) :
    Keeps s₀ (State.pendingRefresh s ) := by
  unfold State.pendingRefresh
  try dsimp only
  repeat' first | (with_reducible assumption) | with_reducible exact Keeps.refl _ | (with_reducible apply State.fset_keeps) | split | (intro _ _ _) | (intro _ _) | dsimp only

theorem State.reeraseEnd_keeps {s₀ : State} {s : State}  (re : Bool) (sec : Nat) (st : Nat)  (hk : Keeps s₀ s) :
    Keeps s₀ (State.reeraseEnd s re sec st ) := by
  unfold State.reeraseEnd
  try dsimp only
  repeat' first | (with_reducible assumption) | with_reducible exact Keeps.refl _ | (with_reducible apply State.notice_keeps) | (with_reducible apply State.pendingRefresh_keeps) | (fail_if_no_progress (with_reducible refine Keeps.upd ?_)) | (with_reducible apply Keeps.ite) | split | (intro _ _ _) | (intro _ _) | (with_reducible refine Keeps.snd (by with_reducible assumption) ?_) | (with_reducible refine Keeps.fst (by with_reducible assumption) ?_) | (with_reducible refine Keeps.snd2 (by with_reducible assumption) ?_) | (with_reducible refine Keeps.snd3 (by with_reducible assumption) ?_) | dsimp only

theorem State.erased_keeps {s₀ : State} {s : State}  (sec : Nat)  (hk : Keeps s₀ s) :
    Keeps s₀ (State.erased s sec ) := by
  unfold State.erased
  try dsimp only
  repeat' first | (with_reducible assumption) | with_reducible exact Keeps.refl _ | (with_reducible apply State.areaRefresh_keeps) | (with_reducible apply State.eraseSectors_keeps) | (fail_if_no_progress (with_reducible refine Keeps.upd ?_)) | split | (intro _ _ _) | (intro _ _) | dsimp only

theorem doFlashEraseDone_keeps {s₀ : State} {s : State}  (ok : Bool)  (hk : Keeps s₀ s) :
    Keeps s₀ (doFlashEraseDone ok s ) := by
  unfold doFlashEraseDone
  try dsimp only
  repeat' first | (with_reducible assumption) | with_reducible exact Keeps.refl _ | (with_reducible apply State.jobNext_keeps) | (with_reducible apply State.flErr_keeps) | (with_reducible apply State.flEnd_keeps) | (with_reducible apply State.wipeFlash_keeps) | (with_reducible apply State.spoilSector_keeps) | (with_reducible apply State.erased_keeps) | (with_reducible apply State.retire_keeps) | (with_reducible apply State.reeraseEnd_keeps) | (with_reducible apply State.areaRefresh_keeps) | (with_reducible apply State.flDone_keeps) | (with_reducible apply Keeps.ite) | split | (intro _ _ _) | (intro _ _) | dsimp only

theorem State.rdpEnd_keeps {s₀ : State} {s : State}  (c : Nat) (resumed : Nat)  (hk : Keeps s₀ s) :
    Keeps s₀ (State.rdpEnd s c resumed ) := by
  unfold State.rdpEnd
  try dsimp only
  repeat' first | (with_reducible assumption) | with_reducible exact Keeps.refl _ | (with_reducible apply State.notice_keeps) | (with_reducible apply State.wipeFlash_keeps) | (with_reducible apply State.appendProt_keeps) | split | (intro _ _ _) | (intro _ _) | (with_reducible refine Keeps.snd (by with_reducible assumption) ?_) | (with_reducible refine Keeps.fst (by with_reducible assumption) ?_) | (with_reducible refine Keeps.snd2 (by with_reducible assumption) ?_) | (with_reducible refine Keeps.snd3 (by with_reducible assumption) ?_) | dsimp only

theorem doRdpLowerComplete_keeps {s₀ : State} {s : State}    (hk : Keeps s₀ s) :
    Keeps s₀ (doRdpLowerComplete s ) := by
  unfold doRdpLowerComplete
  try dsimp only
  repeat' first | (with_reducible assumption) | with_reducible exact Keeps.refl _ | (with_reducible apply State.rdpEnd_keeps) | (with_reducible apply State.jobNext_keeps) | (with_reducible apply State.flDone_keeps) | (with_reducible apply State.flEnd_keeps) | (with_reducible apply Keeps.ite) | split | (intro _ _ _) | (intro _ _) | dsimp only

theorem State.otpGo_keeps {s₀ : State} {s : State}    (hk : Keeps s₀ s) :
    Keeps s₀ (State.otpGo s ) := by
  unfold State.otpGo
  try dsimp only
  repeat' first | (with_reducible assumption) | with_reducible exact Keeps.refl _ | (with_reducible apply State.otpStart_keeps) | (with_reducible apply Keeps.ite) | split | (intro _ _ _) | (intro _ _) | (with_reducible refine Keeps.snd (by with_reducible assumption) ?_) | (with_reducible refine Keeps.fst (by with_reducible assumption) ?_) | (with_reducible refine Keeps.snd2 (by with_reducible assumption) ?_) | (with_reducible refine Keeps.snd3 (by with_reducible assumption) ?_) | dsimp only

theorem State.otpNext_keeps {s₀ : State} {s : State}  (w : Nat) (st : Nat)  (hk : Keeps s₀ s) :
    Keeps s₀ (State.otpNext s w st ) := by
  unfold State.otpNext
  try dsimp only
  repeat' first | (with_reducible assumption) | with_reducible exact Keeps.refl _ | (with_reducible apply State.jobNext_keeps) | (with_reducible apply State.otpGo_keeps) | (fail_if_no_progress (with_reducible refine Keeps.upd ?_)) | (with_reducible apply Keeps.ite) | split | (intro _ _ _) | (intro _ _) | dsimp only

theorem doOtpWordProgrammed_keeps {s₀ : State} {s : State}  (ok : Bool)  (hk : Keeps s₀ s) :
    Keeps s₀ (doOtpWordProgrammed ok s ) := by
  unfold doOtpWordProgrammed
  try dsimp only
  repeat' first | (with_reducible assumption) | with_reducible exact Keeps.refl _ | (with_reducible apply State.otpOr_keeps) | (with_reducible apply State.notice_keeps) | (with_reducible apply State.otpNext_keeps) | (with_reducible apply State.lcUpdate_keeps) | (with_reducible apply State.fset_keeps) | (with_reducible apply State.flag_keeps) | (with_reducible apply State.free64_keeps) | (fail_if_no_progress (with_reducible refine Keeps.upd ?_)) | (with_reducible apply Keeps.ite) | split | (intro _ _ _) | (intro _ _) | (with_reducible refine Keeps.snd (by with_reducible assumption) ?_) | (with_reducible refine Keeps.fst (by with_reducible assumption) ?_) | (with_reducible refine Keeps.snd2 (by with_reducible assumption) ?_) | (with_reducible refine Keeps.snd3 (by with_reducible assumption) ?_) | dsimp only

theorem doAutoResume_keeps {s₀ : State} {s : State}    (hk : Keeps s₀ s) :
    Keeps s₀ (doAutoResume s ) := by
  unfold doAutoResume
  try dsimp only
  repeat' first | (with_reducible assumption) | with_reducible exact Keeps.refl _ | (with_reducible apply State.fset_keeps) | (with_reducible apply Keeps.ite) | split | (intro _ _ _) | (intro _ _) | dsimp only

theorem doFlagReerase_keeps {s₀ : State} {s : State}    (hk : Keeps s₀ s) :
    Keeps s₀ (doFlagReerase s ) := by
  unfold doFlagReerase
  try dsimp only
  repeat' first | (with_reducible assumption) | with_reducible exact Keeps.refl _ | (with_reducible apply State.flErr_keeps) | (with_reducible apply State.reeraseEnd_keeps) | (with_reducible apply State.flStart_keeps) | (fail_if_no_progress (with_reducible refine Keeps.upd ?_)) | (with_reducible apply Keeps.ite) | split | (intro _ _ _) | (intro _ _) | dsimp only

theorem State.toEngine_keeps {s₀ : State} {s : State}  (d : Nat) (e : Nat) (data : BitVec 256) (poison : Bool)  (hk : Keeps s₀ s) :
    Keeps s₀ (State.toEngine s d e data poison ) := by
  unfold State.toEngine
  try dsimp only
  repeat' first | (with_reducible assumption) | with_reducible exact Keeps.refl _ | (with_reducible apply State.setRegs_keeps) | (with_reducible apply State.engDoneS_keeps) | (with_reducible apply Keeps.ite) | split | (intro _ _ _) | (intro _ _) | dsimp only

theorem State.toUfw_keeps {s₀ : State} {s : State}  (d : Nat) (data : BitVec 256) (poison : Bool)  (hk : Keeps s₀ s) :
    Keeps s₀ (State.toUfw s d data poison ) := by
  unfold State.toUfw
  try dsimp only
  repeat' first | (with_reducible assumption) | with_reducible exact Keeps.refl _ | (with_reducible apply State.count_keeps) | (with_reducible apply State.toFabric_keeps) | (with_reducible apply State.flag_keeps) | (with_reducible apply Keeps.ite) | split | (intro _ _ _) | (intro _ _) | dsimp only

theorem State.serveWindow_keeps {s₀ : State} {s : State}    (hk : Keeps s₀ s) :
    Keeps s₀ (State.serveWindow s ) := by
  unfold State.serveWindow
  try dsimp only
  repeat' first | (with_reducible assumption) | with_reducible exact Keeps.refl _ | (with_reducible apply State.lineRead_keeps) | (with_reducible apply State.toEngine_keeps) | (with_reducible apply State.toUfw_keeps) | (fail_if_no_progress (with_reducible refine Keeps.upd ?_)) | split | (intro _ _ _) | (intro _ _) | (with_reducible refine Keeps.snd (by with_reducible assumption) ?_) | (with_reducible refine Keeps.fst (by with_reducible assumption) ?_) | (with_reducible refine Keeps.snd2 (by with_reducible assumption) ?_) | (with_reducible refine Keeps.snd3 (by with_reducible assumption) ?_) | dsimp only

theorem State.serveFetch_keeps {s₀ : State} {s : State}  (line : Nat)  (hk : Keeps s₀ s) :
    Keeps s₀ (State.serveFetch s line ) := by
  unfold State.serveFetch
  try dsimp only
  repeat' first | (with_reducible assumption) | with_reducible exact Keeps.refl _ | (with_reducible apply State.count_keeps) | (with_reducible apply State.lineRead_keeps) | (with_reducible apply State.branch_keeps) | (with_reducible apply Keeps.foldl) | (with_reducible apply Keeps.foldl_fst) | (with_reducible apply Keeps.foldl_snd) | (fail_if_no_progress (with_reducible refine Keeps.upd ?_)) | (with_reducible apply Keeps.ite) | split | (intro _ _ _) | (intro _ _) | (with_reducible refine Keeps.snd (by with_reducible assumption) ?_) | (with_reducible refine Keeps.fst (by with_reducible assumption) ?_) | (with_reducible refine Keeps.snd2 (by with_reducible assumption) ?_) | (with_reducible refine Keeps.snd3 (by with_reducible assumption) ?_) | dsimp only

theorem State.drawFetch_keeps {s₀ : State} {s : State}    (hk : Keeps s₀ s) :
    Keeps s₀ (State.drawFetch s ).2 := by
  unfold State.drawFetch
  try dsimp only
  repeat' first | (with_reducible assumption) | with_reducible exact Keeps.refl _ | (with_reducible apply State.free64_keeps) | (with_reducible apply Keeps.ite) | (with_reducible apply Keeps.ite_snd) | (with_reducible apply Keeps.ite_fst) | split | (intro _ _ _) | (intro _ _) | (with_reducible refine Keeps.snd (by with_reducible assumption) ?_) | (with_reducible refine Keeps.fst (by with_reducible assumption) ?_) | (with_reducible refine Keeps.snd2 (by with_reducible assumption) ?_) | (with_reducible refine Keeps.snd3 (by with_reducible assumption) ?_) | dsimp only

theorem doFlashReadAccess_keeps {s₀ : State} {s : State}    (hk : Keeps s₀ s) :
    Keeps s₀ (doFlashReadAccess s ) := by
  unfold doFlashReadAccess
  try dsimp only
  repeat' first | (with_reducible assumption) | with_reducible exact Keeps.refl _ | (with_reducible apply State.serveFetch_keeps) | (with_reducible apply State.serveWindow_keeps) | (with_reducible apply State.readSuspends_keeps) | (with_reducible apply State.drawFetch_keeps) | (with_reducible apply Keeps.ite) | split | (intro _ _ _) | (intro _ _) | (with_reducible refine Keeps.snd (by with_reducible assumption) ?_) | (with_reducible refine Keeps.fst (by with_reducible assumption) ?_) | (with_reducible refine Keeps.snd2 (by with_reducible assumption) ?_) | (with_reducible refine Keeps.snd3 (by with_reducible assumption) ?_) | dsimp only

theorem State.stewardRead_keeps {s₀ : State} {s : State}  (a : Nat) (n : Nat)  (hk : Keeps s₀ s) :
    Keeps s₀ (State.stewardRead s a n ).2.2 := by
  unfold State.stewardRead
  try dsimp only
  repeat' first | (with_reducible assumption) | with_reducible exact Keeps.refl _ | (with_reducible apply State.readSuspends_keeps) | (with_reducible apply State.lineRead_keeps) | (with_reducible apply Keeps.foldl) | (with_reducible apply Keeps.foldl_fst) | (with_reducible apply Keeps.foldl_snd) | (with_reducible apply Keeps.ite) | (with_reducible apply Keeps.ite_snd) | (with_reducible apply Keeps.ite_fst) | split | (intro _ _ _) | (intro _ _) | (with_reducible refine Keeps.snd (by with_reducible assumption) ?_) | (with_reducible refine Keeps.fst (by with_reducible assumption) ?_) | (with_reducible refine Keeps.snd2 (by with_reducible assumption) ?_) | (with_reducible refine Keeps.snd3 (by with_reducible assumption) ?_) | dsimp only

theorem State.flFinish_keeps {s₀ : State} {s : State}  (keepRdp : Bool)  (hk : Keeps s₀ s) :
    Keeps s₀ (State.flFinish s keepRdp ) := by
  unfold State.flFinish
  try dsimp only
  repeat' first | (with_reducible assumption) | with_reducible exact Keeps.refl _ | (with_reducible apply State.fset_keeps) | (with_reducible apply State.setFlState_keeps) | (with_reducible apply State.programmed_keeps) | (with_reducible apply State.jobNotes_keeps) | (with_reducible apply State.wipeFlash_keeps) | (with_reducible apply State.relock_keeps) | (with_reducible apply State.flDone_keeps) | (with_reducible apply State.erased_keeps) | (with_reducible apply State.reeraseEnd_keeps) | (fail_if_no_progress (with_reducible refine Keeps.upd ?_)) | (with_reducible apply Keeps.ite) | split | (intro _ _ _) | (intro _ _) | (with_reducible refine Keeps.snd (by with_reducible assumption) ?_) | (with_reducible refine Keeps.fst (by with_reducible assumption) ?_) | (with_reducible refine Keeps.snd2 (by with_reducible assumption) ?_) | (with_reducible refine Keeps.snd3 (by with_reducible assumption) ?_) | dsimp only

theorem State.otpFinish_keeps {s₀ : State} {s : State}    (hk : Keeps s₀ s) :
    Keeps s₀ (State.otpFinish s ) := by
  unfold State.otpFinish
  try dsimp only
  repeat' first | (with_reducible assumption) | with_reducible exact Keeps.refl _ | (with_reducible apply State.otpOr_keeps) | (with_reducible apply State.fset_keeps) | (with_reducible apply State.jobNotes_keeps) | (fail_if_no_progress (with_reducible refine Keeps.upd ?_)) | (with_reducible apply Keeps.ite) | split | (intro _ _ _) | (intro _ _) | (with_reducible refine Keeps.snd (by with_reducible assumption) ?_) | (with_reducible refine Keeps.fst (by with_reducible assumption) ?_) | (with_reducible refine Keeps.snd2 (by with_reducible assumption) ?_) | (with_reducible refine Keeps.snd3 (by with_reducible assumption) ?_) | dsimp only

end Sys2Proof.Machine
end

