-- ==== Sys2Proof/Laws/KeepsCsrBus.lean ====
section
/-! SUPPORT. What the operations of Sys2Proof/Machine/CsrBus.lean keep. -/

set_option linter.all false

namespace Sys2Proof.Machine

theorem State.flashWrite_keeps {s₀ : State} {s : State}  (b : Nat) (a : Nat) (v : Word)  (hk : Keeps s₀ s) :
    Keeps s₀ (State.flashWrite s b a v ) := by
  unfold State.flashWrite
  try dsimp only
  repeat' first | (with_reducible assumption) | with_reducible exact Keeps.refl _ | (with_reducible apply doFlProgram_keeps) | (with_reducible apply doFlKeyWrite_keeps) | (with_reducible apply doFlBitprog_keeps) | (with_reducible apply doFlResume_keeps) | (with_reducible apply State.plainWrite_keeps) | (with_reducible apply doFlErase_keeps) | (with_reducible apply State.fset_keeps) | (with_reducible apply doFlSuspend_keeps) | (with_reducible apply doFlCmdWrite_keeps) | (with_reducible apply doFlRdpLower_keeps) | (with_reducible apply Keeps.ite) | split | (intro _ _ _) | (intro _ _) | dsimp only

theorem State.oeWrite_keeps {s₀ : State} {s : State}  (v : Word)  (hk : Keeps s₀ s) :
    Keeps s₀ (State.oeWrite s v ) := by
  unfold State.oeWrite
  try dsimp only
  repeat' first | (with_reducible assumption) | with_reducible exact Keeps.refl _ | (with_reducible apply State.csrSet_keeps) | split | (intro _ _ _) | (intro _ _) | dsimp only

theorem State.pinWrite_keeps {s₀ : State} {s : State}  (b : Nat) (i : Nat) (a : Nat) (v : Word)  (hk : Keeps s₀ s) :
    Keeps s₀ (State.pinWrite s b i a v ) := by
  unfold State.pinWrite
  try dsimp only
  repeat' first | (with_reducible assumption) | with_reducible exact Keeps.refl _ | (with_reducible apply State.openGo_keeps) | (with_reducible apply State.plainWrite_keeps) | (with_reducible apply State.oeWrite_keeps) | (with_reducible apply doShortClearWrite_keeps) | (with_reducible apply doGpioLockWrite_keeps) | (with_reducible apply doGpioLockKeyWrite_keeps) | (with_reducible apply State.cancelLock_keeps) | (with_reducible apply State.free64_keeps) | (with_reducible apply doPinEnWrite_keeps) | (with_reducible apply Keeps.ite) | split | (intro _ _ _) | (intro _ _) | (with_reducible refine Keeps.snd (by with_reducible assumption) ?_) | (with_reducible refine Keeps.fst (by with_reducible assumption) ?_) | (with_reducible refine Keeps.snd2 (by with_reducible assumption) ?_) | (with_reducible refine Keeps.snd3 (by with_reducible assumption) ?_) | dsimp only

theorem doMbDoorbell_keeps {s₀ : State} {s : State}  (k : Nat)  (hk : Keeps s₀ s) :
    Keeps s₀ (doMbDoorbell k s ) := by
  unfold doMbDoorbell
  try dsimp only
  repeat' first | (with_reducible assumption) | with_reducible exact Keeps.refl _ | (with_reducible apply State.flag_keeps) | (with_reducible apply Keeps.ite) | split | (intro _ _ _) | (intro _ _) | dsimp only

theorem State.stwWrite_keeps {s₀ : State} {s : State}  (a : Nat) (v : Word)  (hk : Keeps s₀ s) :
    Keeps s₀ (State.stwWrite s a v ) := by
  unfold State.stwWrite
  try dsimp only
  repeat' first | (with_reducible assumption) | with_reducible exact Keeps.refl _ | (with_reducible apply State.flashWrite_keeps) | (with_reducible apply State.plainWrite_keeps) | (with_reducible apply State.pinWrite_keeps) | (with_reducible apply State.barPut_keeps) | (with_reducible apply State.msixFlush_keeps) | (with_reducible apply doMbDoorbell_keeps) | (with_reducible apply Keeps.ite) | split | (intro _ _ _) | (intro _ _) | dsimp only

theorem State.busWrite_keeps {s₀ : State} {s : State}  (a : Nat) (v : Word) (dbg : Bool)  (hk : Keeps s₀ s) :
    Keeps s₀ (State.busWrite s a v dbg ) := by
  unfold State.busWrite
  try dsimp only
  repeat' first | (with_reducible assumption) | with_reducible exact Keeps.refl _ | (with_reducible apply State.stwWrite_keeps) | (with_reducible apply State.dieWrite_keeps) | (with_reducible apply Keeps.ite) | split | (intro _ _ _) | (intro _ _) | dsimp only

theorem State.stwRead_keeps {s₀ : State} {s : State}  (a : Nat) (h : Option HostId)  (hk : Keeps s₀ s) :
    Keeps s₀ (State.stwRead s a h ).2 := by
  unfold State.stwRead
  try dsimp only
  repeat' first | (with_reducible assumption) | with_reducible exact Keeps.refl _ | (with_reducible apply State.plainRead_keeps) | (with_reducible apply State.csrSet_keeps) | (with_reducible apply Keeps.ite) | (with_reducible apply Keeps.ite_snd) | (with_reducible apply Keeps.ite_fst) | split | (intro _ _ _) | (intro _ _) | (with_reducible refine Keeps.snd (by with_reducible assumption) ?_) | (with_reducible refine Keeps.fst (by with_reducible assumption) ?_) | (with_reducible refine Keeps.snd2 (by with_reducible assumption) ?_) | (with_reducible refine Keeps.snd3 (by with_reducible assumption) ?_) | dsimp only

theorem State.busRead_keeps {s₀ : State} {s : State}  (a : Nat) (h : Option HostId) (dbg : Bool)  (hk : Keeps s₀ s) :
    Keeps s₀ (State.busRead s a h dbg ).2 := by
  unfold State.busRead
  try dsimp only
  repeat' first | (with_reducible assumption) | with_reducible exact Keeps.refl _ | (with_reducible apply State.dieRead_keeps) | (with_reducible apply State.stwRead_keeps) | (with_reducible apply Keeps.ite) | (with_reducible apply Keeps.ite_snd) | (with_reducible apply Keeps.ite_fst) | split | (intro _ _ _) | (intro _ _) | (with_reducible refine Keeps.snd (by with_reducible assumption) ?_) | (with_reducible refine Keeps.fst (by with_reducible assumption) ?_) | (with_reducible refine Keeps.snd2 (by with_reducible assumption) ?_) | (with_reducible refine Keeps.snd3 (by with_reducible assumption) ?_) | dsimp only

theorem doMbDoneWrite_keeps {s₀ : State} {s : State}  (k : Nat)  (hk : Keeps s₀ s) :
    Keeps s₀ (doMbDoneWrite k s ) := by
  unfold doMbDoneWrite
  try dsimp only
  repeat' first | (with_reducible assumption) | with_reducible exact Keeps.refl _ | (with_reducible apply State.fset_keeps) | split | (intro _ _ _) | (intro _ _) | dsimp only

end Sys2Proof.Machine
end

