-- ==== Sys2Proof/Laws/KeepsCrossbar.lean ====
section
/-! SUPPORT. What the operations of Sys2Proof/Machine/Crossbar.lean keep. -/

set_option linter.all false

namespace Sys2Proof.Machine

theorem State.escSink_keeps {s₀ : State} {s : State}  (d : Nat) (m : Msg)  (hk : Keeps s₀ s) :
    Keeps s₀ (State.escSink s d m ) := by
  unfold State.escSink
  try dsimp only
  repeat' first | (with_reducible assumption) | with_reducible exact Keeps.refl _ | (with_reducible apply State.releaseLock_keeps) | (with_reducible apply State.abortClaim_keeps) | (with_reducible apply State.wakeArrives_keeps) | (fail_if_no_progress (with_reducible refine Keeps.upd ?_)) | split | (intro _ _ _) | (intro _ _) | (with_reducible refine Keeps.snd (by with_reducible assumption) ?_) | (with_reducible refine Keeps.fst (by with_reducible assumption) ?_) | (with_reducible refine Keeps.snd2 (by with_reducible assumption) ?_) | (with_reducible refine Keeps.snd3 (by with_reducible assumption) ?_) | dsimp only

theorem State.dmaArrive_keeps {s₀ : State} {s : State}  (d : Nat) (x : XMsg)  (hk : Keeps s₀ s) :
    Keeps s₀ (State.dmaArrive s d x ) := by
  unfold State.dmaArrive
  try dsimp only
  repeat' first | (with_reducible assumption) | with_reducible exact Keeps.refl _ | (fail_if_no_progress (with_reducible refine Keeps.upd ?_)) | split | (intro _ _ _) | (intro _ _) | (with_reducible refine Keeps.snd (by with_reducible assumption) ?_) | (with_reducible refine Keeps.fst (by with_reducible assumption) ?_) | (with_reducible refine Keeps.snd2 (by with_reducible assumption) ?_) | (with_reducible refine Keeps.snd3 (by with_reducible assumption) ?_) | dsimp only

theorem State.csrArrive_keeps {s₀ : State} {s : State}  (d : Nat) (m : Msg)  (hk : Keeps s₀ s) :
    Keeps s₀ (State.csrArrive s d m ) := by
  unfold State.csrArrive
  try dsimp only
  repeat' first | (with_reducible assumption) | with_reducible exact Keeps.refl _ | (with_reducible apply State.injectReply_keeps) | (with_reducible apply State.busWrite_keeps) | (with_reducible apply State.busRead_keeps) | (with_reducible apply Keeps.ite) | split | (intro _ _ _) | (intro _ _) | (with_reducible refine Keeps.snd (by with_reducible assumption) ?_) | (with_reducible refine Keeps.fst (by with_reducible assumption) ?_) | (with_reducible refine Keeps.snd2 (by with_reducible assumption) ?_) | (with_reducible refine Keeps.snd3 (by with_reducible assumption) ?_) | dsimp only

theorem State.spend_keeps {s₀ : State} {s : State}  (d : Nat) (e : Nat) (v : Nat) (n : Nat)  (hk : Keeps s₀ s) :
    Keeps s₀ (State.spend s d e v n ) := by
  unfold State.spend
  try dsimp only
  repeat' first | (with_reducible assumption) | with_reducible exact Keeps.refl _ | (with_reducible apply State.fset_keeps) | split | (intro _ _ _) | (intro _ _) | dsimp only

theorem State.xdeliver_keeps {s₀ : State} {s : State}  (d : Nat) (e : Nat) (v : Nat) (x : XMsg)  (hk : Keeps s₀ s) :
    Keeps s₀ (State.xdeliver s d e v x ) := by
  unfold State.xdeliver
  try dsimp only
  repeat' first | (with_reducible assumption) | with_reducible exact Keeps.refl _ | (with_reducible apply State.dmaArrive_keeps) | (with_reducible apply State.spend_keeps) | (with_reducible apply State.escSink_keeps) | (with_reducible apply State.csrArrive_keeps) | (fail_if_no_progress (with_reducible refine Keeps.upd ?_)) | (with_reducible apply Keeps.ite) | split | (intro _ _ _) | (intro _ _) | dsimp only

theorem doCrossbarForward_keeps {s₀ : State} {s : State}  (d : Nat) (e : Nat)  (hk : Keeps s₀ s) :
    Keeps s₀ (doCrossbarForward d e s ) := by
  unfold doCrossbarForward
  try dsimp only
  repeat' first | (with_reducible assumption) | with_reducible exact Keeps.refl _ | (with_reducible apply State.holdPointers_keeps) | (with_reducible apply State.discard_keeps) | (with_reducible apply State.xdeliver_keeps) | (with_reducible apply State.xtake_keeps) | (with_reducible apply Keeps.ite) | split | (intro _ _ _) | (intro _ _) | (with_reducible refine Keeps.snd (by with_reducible assumption) ?_) | (with_reducible refine Keeps.fst (by with_reducible assumption) ?_) | (with_reducible refine Keeps.snd2 (by with_reducible assumption) ?_) | (with_reducible refine Keeps.snd3 (by with_reducible assumption) ?_) | dsimp only

end Sys2Proof.Machine
end

