-- ==== Sys2Proof/Laws/KeepsEngCsr.lean ====
section
/-! SUPPORT. What the operations of Sys2Proof/Machine/EngCsr.lean keep. -/

set_option linter.all false

namespace Sys2Proof.Machine

theorem State.csrAsk_keeps {s₀ : State} {s : State}  (d : Nat) (e : Nat) (a : Nat) (op : Nat) (v : Option (BitVec 64)) (rd : Option Nat)  (hk : Keeps s₀ s) :
    Keeps s₀ (State.csrAsk s d e a op v rd ) := by
  unfold State.csrAsk
  try dsimp only
  repeat' first | (with_reducible assumption) | with_reducible exact Keeps.refl _ | (with_reducible refine State.accSend_keeps (by with_reducible assumption) ?_) | (with_reducible apply State.setEng_keeps) | (with_reducible apply State.engStall_keeps) | (fail_if_no_progress (with_reducible refine Keeps.upd ?_)) | (with_reducible apply Keeps.ite) | split | (intro _ _ _) | (intro _ _) | (with_reducible refine Keeps.snd (by with_reducible assumption) ?_) | (with_reducible refine Keeps.fst (by with_reducible assumption) ?_) | (with_reducible refine Keeps.snd2 (by with_reducible assumption) ?_) | (with_reducible refine Keeps.snd3 (by with_reducible assumption) ?_) | dsimp only

theorem State.csrReadBody_keeps {s₀ : State} {s : State}  (d : Nat) (e : Nat) (w : Word)  (hk : Keeps s₀ s) :
    Keeps s₀ (State.csrReadBody s d e w ) := by
  unfold State.csrReadBody
  try dsimp only
  repeat' first | (with_reducible assumption) | with_reducible exact Keeps.refl _ | (with_reducible apply State.engStall_keeps) | (with_reducible apply State.setReg_keeps) | (with_reducible apply State.engDoneS_keeps) | (with_reducible apply State.busRead_keeps) | (with_reducible apply State.csrAsk_keeps) | (with_reducible apply Keeps.ite) | split | (intro _ _ _) | (intro _ _) | (with_reducible refine Keeps.snd (by with_reducible assumption) ?_) | (with_reducible refine Keeps.fst (by with_reducible assumption) ?_) | (with_reducible refine Keeps.snd2 (by with_reducible assumption) ?_) | (with_reducible refine Keeps.snd3 (by with_reducible assumption) ?_) | dsimp only

theorem State.csrWriteBody_keeps {s₀ : State} {s : State}  (d : Nat) (e : Nat) (w : Word)  (hk : Keeps s₀ s) :
    Keeps s₀ (State.csrWriteBody s d e w ) := by
  unfold State.csrWriteBody
  try dsimp only
  repeat' first | (with_reducible assumption) | with_reducible exact Keeps.refl _ | (with_reducible apply State.engStall_keeps) | (with_reducible apply State.engDoneS_keeps) | (with_reducible apply State.busWrite_keeps) | (with_reducible apply State.csrAsk_keeps) | (with_reducible apply Keeps.ite) | split | (intro _ _ _) | (intro _ _) | dsimp only

theorem doEngCsrRead_keeps {s₀ : State} {s : State}  (d : Nat) (e : Nat)  (hk : Keeps s₀ s) :
    Keeps s₀ (doEngCsrRead d e s ) := by
  unfold doEngCsrRead
  try dsimp only
  repeat' first | (with_reducible assumption) | with_reducible exact Keeps.refl _ | (with_reducible apply State.csrReadBody_keeps) | (with_reducible apply State.engRun_keeps) | split | (intro _ _ _) | (intro _ _) | dsimp only

theorem doEngCsrWrite_keeps {s₀ : State} {s : State}  (d : Nat) (e : Nat)  (hk : Keeps s₀ s) :
    Keeps s₀ (doEngCsrWrite d e s ) := by
  unfold doEngCsrWrite
  try dsimp only
  repeat' first | (with_reducible assumption) | with_reducible exact Keeps.refl _ | (with_reducible apply State.engRun_keeps) | (with_reducible apply State.csrWriteBody_keeps) | split | (intro _ _ _) | (intro _ _) | dsimp only

theorem runAlu_keeps {s₀ : State} {s : State}  (op : Nat) (d : Nat) (e : Nat)  (hk : Keeps s₀ s) :
    Keeps s₀ (runAlu op d e s ) := by
  unfold runAlu
  try dsimp only
  repeat' first | (with_reducible assumption) | with_reducible exact Keeps.refl _ | (with_reducible apply doEngAndi_keeps) | (with_reducible apply doEngLui_keeps) | (with_reducible apply doEngShi_keeps) | (with_reducible apply doEngAnd_keeps) | (with_reducible apply doEngSub_keeps) | (with_reducible apply doEngOr_keeps) | (with_reducible apply doEngOri_keeps) | (with_reducible apply doEngSra_keeps) | (with_reducible apply doEngSrl_keeps) | (with_reducible apply doEngIns_keeps) | (with_reducible apply doEngMul_keeps) | (with_reducible apply doEngXor_keeps) | (with_reducible apply doEngExt_keeps) | (with_reducible apply doEngSlti_keeps) | (with_reducible apply doEngSlt_keeps) | (with_reducible apply doEngAddi_keeps) | (with_reducible apply doEngSll_keeps) | (with_reducible apply doEngSltu_keeps) | (with_reducible apply doEngAdd_keeps) | split | (intro _ _ _) | (intro _ _) | dsimp only

theorem runFlow_keeps {s₀ : State} {s : State}  (op : Nat) (d : Nat) (e : Nat) (w : Word)  (hk : Keeps s₀ s) :
    Keeps s₀ (runFlow op d e w s ) := by
  unfold runFlow
  try dsimp only
  repeat' first | (with_reducible assumption) | with_reducible exact Keeps.refl _ | (with_reducible apply doEngMfs_keeps) | (with_reducible apply doEngBltu_keeps) | (with_reducible apply doEngBne_keeps) | (with_reducible apply doEngSt_keeps) | (with_reducible apply doEngTret_keeps) | (with_reducible apply doEngWsvRestore_keeps) | (with_reducible apply doEngLd_keeps) | (with_reducible apply doEngJr_keeps) | (with_reducible apply doEngWsvSave_keeps) | (with_reducible apply doEngCall_keeps) | (with_reducible apply doEngBst_keeps) | (with_reducible apply doEngBlt_keeps) | (with_reducible apply doEngBgeu_keeps) | (with_reducible apply doEngTrap_keeps) | (with_reducible apply doEngRet_keeps) | (with_reducible apply doEngBeq_keeps) | (with_reducible apply doEngEnd_keeps) | (with_reducible apply doEngBge_keeps) | (with_reducible apply doEngMts_keeps) | (with_reducible apply Keeps.ite) | split | (intro _ _ _) | (intro _ _) | dsimp only

theorem runUnit_keeps {s₀ : State} {s : State}  (op : Nat) (d : Nat) (e : Nat) (w : Word)  (hk : Keeps s₀ s) :
    Keeps s₀ (runUnit op d e w s ) := by
  unfold runUnit
  try dsimp only
  repeat' first | (with_reducible assumption) | with_reducible exact Keeps.refl _ | (with_reducible apply doEngWaitr_keeps) | (with_reducible apply doEngBatomSwap_keeps) | (with_reducible apply doEngLockRelease_keeps) | (with_reducible apply doEngFenceWait_keeps) | (with_reducible apply doEngBatomFetchAdd_keeps) | (with_reducible apply doEngLock_keeps) | (with_reducible apply doEngDqpush_keeps) | (with_reducible apply doEngDqpop_keeps) | (with_reducible apply doEngDwr_keeps) | (with_reducible apply doEngFwcp_keeps) | (with_reducible apply doEngCsrWrite_keeps) | (with_reducible apply doEngDlook_keeps) | (with_reducible apply doEngSend_keeps) | (with_reducible apply doEngFenceNotify_keeps) | (with_reducible apply doEngCsrRead_keeps) | (with_reducible apply Keeps.ite) | split | (intro _ _ _) | (intro _ _) | dsimp only

theorem State.runNext_keeps {s₀ : State} {s : State}  (d : Nat) (e : Nat)  (hk : Keeps s₀ s) :
    Keeps s₀ (State.runNext s d e ) := by
  unfold State.runNext
  try dsimp only
  repeat' first | (with_reducible assumption) | with_reducible exact Keeps.refl _ | (with_reducible apply runFlow_keeps) | (with_reducible apply runAlu_keeps) | (with_reducible apply doEngIllegal_keeps) | (with_reducible apply runUnit_keeps) | (with_reducible apply Keeps.ite) | split | (intro _ _ _) | (intro _ _) | dsimp only

theorem State.stepHalted_keeps {s₀ : State} {s : State}  (d : Nat) (e : Nat)  (hk : Keeps s₀ s) :
    Keeps s₀ (State.stepHalted s d e ) := by
  unfold State.stepHalted
  try dsimp only
  repeat' first | (with_reducible assumption) | with_reducible exact Keeps.refl _ | (with_reducible apply State.flag_keeps) | (with_reducible apply State.fset_keeps) | (with_reducible apply State.runNext_keeps) | (with_reducible apply Keeps.ite) | split | (intro _ _ _) | (intro _ _) | dsimp only

theorem doEngStep_keeps {s₀ : State} {s : State}  (d : Nat) (e : Nat) (h : HostId)  (hk : Keeps s₀ s) :
    Keeps s₀ (doEngStep d e h s ) := by
  unfold doEngStep
  try dsimp only
  repeat' first | (with_reducible assumption) | with_reducible exact Keeps.refl _ | (with_reducible apply State.stepHalted_keeps) | (with_reducible apply Keeps.ite) | split | (intro _ _ _) | (intro _ _) | dsimp only

theorem State.msgRead_keeps {s₀ : State} {s : State}  (h : HostId) (a : Nat)  (hk : Keeps s₀ s) :
    Keeps s₀ (State.msgRead s h a ).2 := by
  unfold State.msgRead
  try dsimp only
  repeat' first | (with_reducible assumption) | with_reducible exact Keeps.refl _ | (with_reducible apply State.busRead_keeps) | split | (intro _ _ _) | (intro _ _) | dsimp only

theorem State.msgWrite_keeps {s₀ : State} {s : State}  (h : HostId) (a : Nat) (v : Word)  (hk : Keeps s₀ s) :
    Keeps s₀ (State.msgWrite s h a v ) := by
  unfold State.msgWrite
  try dsimp only
  repeat' first | (with_reducible assumption) | with_reducible exact Keeps.refl _ | (with_reducible apply State.stepHalted_keeps) | (with_reducible apply State.busWrite_keeps) | (with_reducible apply Keeps.ite) | split | (intro _ _ _) | (intro _ _) | dsimp only

theorem doRcRead_keeps {s₀ : State} {s : State}  (src : Access) (a : Nat)  (hk : Keeps s₀ s) :
    Keeps s₀ (doRcRead src a s ) := by
  unfold doRcRead
  try dsimp only
  repeat' first | (with_reducible assumption) | with_reducible exact Keeps.refl _ | (with_reducible apply State.msgRead_keeps) | (with_reducible apply State.busRead_keeps) | (with_reducible apply Keeps.ite) | split | (intro _ _ _) | (intro _ _) | dsimp only

theorem doRegisterWrite_keeps {s₀ : State} {s : State}  (src : Access) (a : Nat) (v : Word)  (hk : Keeps s₀ s) :
    Keeps s₀ (doRegisterWrite src a v s ) := by
  unfold doRegisterWrite
  try dsimp only
  repeat' first | (with_reducible assumption) | with_reducible exact Keeps.refl _ | (with_reducible apply State.busWrite_keeps) | (with_reducible apply State.msgWrite_keeps) | (with_reducible apply Keeps.ite) | split | (intro _ _ _) | (intro _ _) | dsimp only

end Sys2Proof.Machine
end

