-- ==== Sys2Proof/Laws/KeepsGrant.lean ====
section
/-! SUPPORT. What the operations of Sys2Proof/Machine/Grant.lean keep. -/

set_option linter.all false

namespace Sys2Proof.Machine

theorem doBankGrant_keeps {s₀ : State} {s : State}  (d : Nat) (b : Nat) (port : GrantPort) (f : Option FabBankReq)  (hk : Keeps s₀ s) :
    Keeps s₀ (doBankGrant d b port f s ) := by
  unfold doBankGrant
  try dsimp only
  repeat' first | (with_reducible assumption) | with_reducible exact Keeps.refl _ | (with_reducible apply State.grant_keeps) | (with_reducible apply State.bankAnswers_keeps) | split | (intro _ _ _) | (intro _ _) | dsimp only

end Sys2Proof.Machine
end

