-- ==== Sys2Proof/Laws/KeepsImageCmds.lean ====
section
/-! SUPPORT. What the operations of Sys2Proof/Machine/ImageCmds.lean keep. -/

set_option linter.all false

namespace Sys2Proof.Machine

theorem doLoadBegin_keeps {s₀ : State} {s : State}  (h : CmdHdr) (target : Nat) (total : Nat)  (hk : Keeps s₀ s) :
    Keeps s₀ (doLoadBegin h target total s ) := by
  unfold doLoadBegin
  try dsimp only
  repeat' first | (with_reducible assumption) | with_reducible exact Keeps.refl _ | (with_reducible apply State.beginLoad_keeps) | (with_reducible apply State.command_keeps) | (with_reducible apply State.startJob_keeps) | (with_reducible apply State.respond_keeps) | (with_reducible apply State.await_keeps) | (fail_if_no_progress (with_reducible refine Keeps.upd ?_)) | (with_reducible apply Keeps.ite) | split | (intro _ _ _) | (intro _ _) | (with_reducible refine Keeps.snd (by with_reducible assumption) ?_) | (with_reducible refine Keeps.fst (by with_reducible assumption) ?_) | (with_reducible refine Keeps.snd2 (by with_reducible assumption) ?_) | (with_reducible refine Keeps.snd3 (by with_reducible assumption) ?_) | dsimp only

theorem doLoadData_keeps {s₀ : State} {s : State}  (h : CmdHdr) (off : Nat) (data : List (BitVec 8))  (hk : Keeps s₀ s) :
    Keeps s₀ (doLoadData h off data s ) := by
  unfold doLoadData
  try dsimp only
  repeat' first | (with_reducible assumption) | with_reducible exact Keeps.refl _ | (with_reducible apply State.command_keeps) | (with_reducible apply State.startJob_keeps) | (with_reducible apply State.respond_keeps) | (with_reducible apply State.await_keeps) | (fail_if_no_progress (with_reducible refine Keeps.upd ?_)) | (with_reducible apply Keeps.ite) | split | (intro _ _ _) | (intro _ _) | (with_reducible refine Keeps.snd (by with_reducible assumption) ?_) | (with_reducible refine Keeps.fst (by with_reducible assumption) ?_) | (with_reducible refine Keeps.snd2 (by with_reducible assumption) ?_) | (with_reducible refine Keeps.snd3 (by with_reducible assumption) ?_) | dsimp only

theorem State.endHost_keeps {s₀ : State} {s : State}  (h : CmdHdr)  (hk : Keeps s₀ s) :
    Keeps s₀ (State.endHost s h ) := by
  unfold State.endHost
  try dsimp only
  repeat' first | (with_reducible assumption) | with_reducible exact Keeps.refl _ | (with_reducible apply State.respond_keeps) | (with_reducible apply State.setShadows_keeps) | (with_reducible apply State.endSession_keeps) | (with_reducible apply State.loadFail_keeps) | (with_reducible apply State.imageTaken_keeps) | (with_reducible apply State.await_keeps) | (with_reducible apply State.takeRest_keeps) | (fail_if_no_progress (with_reducible refine Keeps.upd ?_)) | (with_reducible apply Keeps.ite) | split | (intro _ _ _) | (intro _ _) | (with_reducible refine Keeps.snd (by with_reducible assumption) ?_) | (with_reducible refine Keeps.fst (by with_reducible assumption) ?_) | (with_reducible refine Keeps.snd2 (by with_reducible assumption) ?_) | (with_reducible refine Keeps.snd3 (by with_reducible assumption) ?_) | dsimp only

theorem State.withWords_keeps {s₀ : State} {s : State}  (base : Nat) (ps : List (Nat × BitVec 64))  (hk : Keeps s₀ s) :
    Keeps s₀ (State.withWords s base ps ) := by
  unfold State.withWords
  try dsimp only
  repeat' first | (with_reducible assumption) | with_reducible exact Keeps.refl _ | (with_reducible apply State.setFlWord_keeps) | (with_reducible apply Keeps.foldl) | (with_reducible apply Keeps.foldl_fst) | (with_reducible apply Keeps.foldl_snd) | split | (intro _ _ _) | (intro _ _) | dsimp only

theorem State.markSteps_keeps {s₀ : State} {s : State}    (hk : Keeps s₀ s) :
    Keeps s₀ (State.markSteps s ).2 := by
  unfold State.markSteps
  try dsimp only
  repeat' first | (with_reducible assumption) | with_reducible exact Keeps.refl _ | (with_reducible apply State.free64_keeps) | split | (intro _ _ _) | (intro _ _) | (with_reducible refine Keeps.snd (by with_reducible assumption) ?_) | (with_reducible refine Keeps.fst (by with_reducible assumption) ?_) | (with_reducible refine Keeps.snd2 (by with_reducible assumption) ?_) | (with_reducible refine Keeps.snd3 (by with_reducible assumption) ?_) | dsimp only

theorem State.endFlash_keeps {s₀ : State} {s : State}  (h : CmdHdr) (x : LoadSess)  (hk : Keeps s₀ s) :
    Keeps s₀ (State.endFlash s h x ) := by
  unfold State.endFlash
  try dsimp only
  repeat' first | (with_reducible assumption) | with_reducible exact Keeps.refl _ | (with_reducible apply State.markSteps_keeps) | (with_reducible apply State.linesRead_keeps) | (with_reducible apply State.startJob_keeps) | (with_reducible apply State.await_keeps) | (with_reducible apply State.slotRead_keeps) | (with_reducible apply State.withWords_keeps) | (with_reducible apply Keeps.ite) | split | (intro _ _ _) | (intro _ _) | (with_reducible refine Keeps.snd (by with_reducible assumption) ?_) | (with_reducible refine Keeps.fst (by with_reducible assumption) ?_) | (with_reducible refine Keeps.snd2 (by with_reducible assumption) ?_) | (with_reducible refine Keeps.snd3 (by with_reducible assumption) ?_) | dsimp only

theorem doLoadEnd_keeps {s₀ : State} {s : State}  (h : CmdHdr)  (hk : Keeps s₀ s) :
    Keeps s₀ (doLoadEnd h s ) := by
  unfold doLoadEnd
  try dsimp only
  repeat' first | (with_reducible assumption) | with_reducible exact Keeps.refl _ | (with_reducible apply State.endHost_keeps) | (with_reducible apply State.respond_keeps) | (with_reducible apply State.endSession_keeps) | (with_reducible apply State.endFlash_keeps) | (with_reducible apply State.command_keeps) | (fail_if_no_progress (with_reducible refine Keeps.upd ?_)) | (with_reducible apply Keeps.ite) | split | (intro _ _ _) | (intro _ _) | dsimp only

theorem doLoadSessionTimeout_keeps {s₀ : State} {s : State}    (hk : Keeps s₀ s) :
    Keeps s₀ (doLoadSessionTimeout s ) := by
  unfold doLoadSessionTimeout
  try dsimp only
  repeat' first | (with_reducible assumption) | with_reducible exact Keeps.refl _ | (with_reducible apply State.endSession_keeps) | (with_reducible apply Keeps.ite) | split | (intro _ _ _) | (intro _ _) | dsimp only

theorem State.beginSwap_keeps {s₀ : State} {s : State}  (h : CmdHdr) (source : Nat)  (hk : Keeps s₀ s) :
    Keeps s₀ (State.beginSwap s h source ) := by
  unfold State.beginSwap
  try dsimp only
  repeat' first | (with_reducible assumption) | with_reducible exact Keeps.refl _ | (with_reducible apply State.fset_keeps) | (with_reducible apply State.await_keeps) | (with_reducible apply State.beginLoad_keeps) | (with_reducible apply Keeps.foldl) | (with_reducible apply Keeps.foldl_fst) | (with_reducible apply Keeps.foldl_snd) | (fail_if_no_progress (with_reducible refine Keeps.upd ?_)) | (with_reducible apply Keeps.ite) | split | (intro _ _ _) | (intro _ _) | (with_reducible refine Keeps.snd (by with_reducible assumption) ?_) | (with_reducible refine Keeps.fst (by with_reducible assumption) ?_) | (with_reducible refine Keeps.snd2 (by with_reducible assumption) ?_) | (with_reducible refine Keeps.snd3 (by with_reducible assumption) ?_) | dsimp only

theorem doSwap_keeps {s₀ : State} {s : State}  (h : CmdHdr) (source : Nat)  (hk : Keeps s₀ s) :
    Keeps s₀ (doSwap h source s ) := by
  unfold doSwap
  try dsimp only
  repeat' first | (with_reducible assumption) | with_reducible exact Keeps.refl _ | (with_reducible apply State.respond_keeps) | (with_reducible apply State.beginSwap_keeps) | (with_reducible apply State.command_keeps) | (fail_if_no_progress (with_reducible refine Keeps.upd ?_)) | split | (intro _ _ _) | (intro _ _) | dsimp only

theorem doReachReload_keeps {s₀ : State} {s : State}  (h : CmdHdr) (d : Nat) (r : Nat)  (hk : Keeps s₀ s) :
    Keeps s₀ (doReachReload h d r s ) := by
  unfold doReachReload
  try dsimp only
  repeat' first | (with_reducible assumption) | with_reducible exact Keeps.refl _ | (with_reducible apply State.respond_keeps) | (with_reducible apply State.notice_keeps) | (with_reducible apply State.startReload_keeps) | (with_reducible apply State.await_keeps) | (with_reducible apply State.command_keeps) | (with_reducible apply Keeps.ite) | split | (intro _ _ _) | (intro _ _) | (with_reducible refine Keeps.snd (by with_reducible assumption) ?_) | (with_reducible refine Keeps.fst (by with_reducible assumption) ?_) | (with_reducible refine Keeps.snd2 (by with_reducible assumption) ?_) | (with_reducible refine Keeps.snd3 (by with_reducible assumption) ?_) | dsimp only

theorem doOptionWrite_keeps {s₀ : State} {s : State}  (h : CmdHdr) (off : Nat) (data : List (BitVec 8))  (hk : Keeps s₀ s) :
    Keeps s₀ (doOptionWrite h off data s ) := by
  unfold doOptionWrite
  try dsimp only
  repeat' first | (with_reducible assumption) | with_reducible exact Keeps.refl _ | (with_reducible apply State.startJob_keeps) | (with_reducible apply State.respond_keeps) | (with_reducible apply State.await_keeps) | (with_reducible apply State.command_keeps) | (with_reducible apply Keeps.ite) | split | (intro _ _ _) | (intro _ _) | dsimp only

theorem doUflashErase_keeps {s₀ : State} {s : State}  (h : CmdHdr) (first : Nat) (count : Nat)  (hk : Keeps s₀ s) :
    Keeps s₀ (doUflashErase h first count s ) := by
  unfold doUflashErase
  try dsimp only
  repeat' first | (with_reducible assumption) | with_reducible exact Keeps.refl _ | (with_reducible apply State.count_keeps) | (with_reducible apply State.startJob_keeps) | (with_reducible apply State.respond_keeps) | (with_reducible apply State.await_keeps) | (with_reducible apply State.command_keeps) | (with_reducible apply Keeps.ite) | split | (intro _ _ _) | (intro _ _) | dsimp only

theorem doUflashProgram_keeps {s₀ : State} {s : State}  (h : CmdHdr) (off : Nat) (data : List (BitVec 64))  (hk : Keeps s₀ s) :
    Keeps s₀ (doUflashProgram h off data s ) := by
  unfold doUflashProgram
  try dsimp only
  repeat' first | (with_reducible assumption) | with_reducible exact Keeps.refl _ | (with_reducible apply State.startJob_keeps) | (with_reducible apply State.respond_keeps) | (with_reducible apply State.await_keeps) | (with_reducible apply State.command_keeps) | (with_reducible apply Keeps.ite) | split | (intro _ _ _) | (intro _ _) | dsimp only

end Sys2Proof.Machine
end

