-- ==== Sys2Proof/Laws/KeepsNotices.lean ====
section
/-! SUPPORT. What the operations of Sys2Proof/Machine/Notices.lean keep. -/

set_option linter.all false

namespace Sys2Proof.Machine

theorem State.noticeOverwritten_keeps {s₀ : State} {s : State}    (hk : Keeps s₀ s) :
    Keeps s₀ (State.noticeOverwritten s ) := by
  unfold State.noticeOverwritten
  try dsimp only
  repeat' first | (with_reducible assumption) | with_reducible exact Keeps.refl _ | (with_reducible apply State.count_keeps) | (fail_if_no_progress (with_reducible refine Keeps.upd ?_)) | split | (intro _ _ _) | (intro _ _) | dsimp only

theorem doNoticeDitchStore_keeps {s₀ : State} {s : State}    (hk : Keeps s₀ s) :
    Keeps s₀ (doNoticeDitchStore s ) := by
  unfold doNoticeDitchStore
  try dsimp only
  repeat' first | (with_reducible assumption) | with_reducible exact Keeps.refl _ | (with_reducible apply State.noticeOverwritten_keeps) | (fail_if_no_progress (with_reducible refine Keeps.upd ?_)) | (with_reducible apply Keeps.ite) | split | (intro _ _ _) | (intro _ _) | dsimp only

theorem State.ringPut_keeps {s₀ : State} {s : State}  (bytes : List (BitVec 8))  (hk : Keeps s₀ s) :
    Keeps s₀ (State.ringPut s bytes ) := by
  unfold State.ringPut
  try dsimp only
  repeat' first | (with_reducible assumption) | with_reducible exact Keeps.refl _ | (with_reducible apply State.barPut_keeps) | (with_reducible apply State.msix_keeps) | (with_reducible apply State.fset_keeps) | split | (intro _ _ _) | (intro _ _) | dsimp only

theorem State.putHost_keeps {s₀ : State} {s : State}  (r : HostRec)  (hk : Keeps s₀ s) :
    Keeps s₀ (State.putHost s r ) := by
  unfold State.putHost
  try dsimp only
  repeat' first | (with_reducible assumption) | with_reducible exact Keeps.refl _ | (fail_if_no_progress (with_reducible refine Keeps.upd ?_)) | (with_reducible apply Keeps.ite) | split | (intro _ _ _) | (intro _ _) | dsimp only

theorem State.deliverTo_keeps {s₀ : State} {s : State}  (item : List (BitVec 8)) (chain : Nat) (r : HostRec)  (hk : Keeps s₀ s) :
    Keeps s₀ (State.deliverTo s item chain r ) := by
  unfold State.deliverTo
  try dsimp only
  repeat' first | (with_reducible assumption) | with_reducible exact Keeps.refl _ | (with_reducible apply State.count_keeps) | (with_reducible apply State.notice_keeps) | (with_reducible apply State.ringPut_keeps) | (with_reducible apply State.putHost_keeps) | (with_reducible apply State.emit_keeps) | (fail_if_no_progress (with_reducible refine Keeps.upd ?_)) | (with_reducible apply Keeps.ite) | split | (intro _ _ _) | (intro _ _) | (with_reducible refine Keeps.snd (by with_reducible assumption) ?_) | (with_reducible refine Keeps.fst (by with_reducible assumption) ?_) | (with_reducible refine Keeps.snd2 (by with_reducible assumption) ?_) | (with_reducible refine Keeps.snd3 (by with_reducible assumption) ?_) | dsimp only

theorem State.deliverAll_keeps {s₀ : State} {s : State}  (item : List (BitVec 8)) (code : Nat) (chain : Nat) (not_ : List HostId)  (hk : Keeps s₀ s) :
    Keeps s₀ (State.deliverAll s item code chain not_ ) := by
  unfold State.deliverAll
  try dsimp only
  repeat' first | (with_reducible assumption) | with_reducible exact Keeps.refl _ | (with_reducible apply State.deliverTo_keeps) | (with_reducible apply Keeps.foldl) | (with_reducible apply Keeps.foldl_fst) | (with_reducible apply Keeps.foldl_snd) | split | (intro _ _ _) | (intro _ _) | dsimp only

theorem doNoticeDeliver_keeps {s₀ : State} {s : State}    (hk : Keeps s₀ s) :
    Keeps s₀ (doNoticeDeliver s ) := by
  unfold doNoticeDeliver
  try dsimp only
  repeat' first | (with_reducible assumption) | with_reducible exact Keeps.refl _ | (with_reducible apply State.deliverAll_keeps) | (with_reducible apply State.count_keeps) | (with_reducible apply State.notice_keeps) | (with_reducible apply State.towHome_keeps) | (fail_if_no_progress (with_reducible refine Keeps.upd ?_)) | (with_reducible apply Keeps.ite) | split | (intro _ _ _) | (intro _ _) | dsimp only

theorem doNoticeDeliveryTimeout_keeps {s₀ : State} {s : State}  (h : HostId)  (hk : Keeps s₀ s) :
    Keeps s₀ (doNoticeDeliveryTimeout h s ) := by
  unfold doNoticeDeliveryTimeout
  try dsimp only
  repeat' first | (with_reducible assumption) | with_reducible exact Keeps.refl _ | (with_reducible apply State.putHost_keeps) | (fail_if_no_progress (with_reducible refine Keeps.upd ?_)) | (with_reducible apply Keeps.ite) | split | (intro _ _ _) | (intro _ _) | dsimp only

theorem doSetEndpointId_keeps {s₀ : State} {s : State}  (p : Nat) (eid : Nat)  (hk : Keeps s₀ s) :
    Keeps s₀ (doSetEndpointId p eid s ) := by
  unfold doSetEndpointId
  try dsimp only
  repeat' first | (with_reducible assumption) | with_reducible exact Keeps.refl _ | (with_reducible apply State.emit_keeps) | (fail_if_no_progress (with_reducible refine Keeps.upd ?_)) | (with_reducible apply Keeps.ite) | split | (intro _ _ _) | (intro _ _) | (with_reducible refine Keeps.snd (by with_reducible assumption) ?_) | (with_reducible refine Keeps.fst (by with_reducible assumption) ?_) | (with_reducible refine Keeps.snd2 (by with_reducible assumption) ?_) | (with_reducible refine Keeps.snd3 (by with_reducible assumption) ?_) | dsimp only

theorem doGetEndpointId_keeps {s₀ : State} {s : State}  (p : Nat)  (hk : Keeps s₀ s) :
    Keeps s₀ (doGetEndpointId p s ) := by
  unfold doGetEndpointId
  try dsimp only
  repeat' first | (with_reducible assumption) | with_reducible exact Keeps.refl _ | (with_reducible apply State.emit_keeps) | (with_reducible apply Keeps.ite) | split | (intro _ _ _) | (intro _ _) | (with_reducible refine Keeps.snd (by with_reducible assumption) ?_) | (with_reducible refine Keeps.fst (by with_reducible assumption) ?_) | (with_reducible refine Keeps.snd2 (by with_reducible assumption) ?_) | (with_reducible refine Keeps.snd3 (by with_reducible assumption) ?_) | dsimp only

theorem doGetMctpVersionSupport_keeps {s₀ : State} {s : State}  (p : Nat)  (hk : Keeps s₀ s) :
    Keeps s₀ (doGetMctpVersionSupport p s ) := by
  unfold doGetMctpVersionSupport
  try dsimp only
  repeat' first | (with_reducible assumption) | with_reducible exact Keeps.refl _ | (with_reducible apply State.emit_keeps) | (with_reducible apply State.draw_keeps) | (with_reducible apply Keeps.ite) | split | (intro _ _ _) | (intro _ _) | (with_reducible refine Keeps.snd (by with_reducible assumption) ?_) | (with_reducible refine Keeps.fst (by with_reducible assumption) ?_) | (with_reducible refine Keeps.snd2 (by with_reducible assumption) ?_) | (with_reducible refine Keeps.snd3 (by with_reducible assumption) ?_) | dsimp only

theorem doGetMessageTypeSupport_keeps {s₀ : State} {s : State}  (p : Nat)  (hk : Keeps s₀ s) :
    Keeps s₀ (doGetMessageTypeSupport p s ) := by
  unfold doGetMessageTypeSupport
  try dsimp only
  repeat' first | (with_reducible assumption) | with_reducible exact Keeps.refl _ | (with_reducible apply State.emit_keeps) | (with_reducible apply Keeps.ite) | split | (intro _ _ _) | (intro _ _) | (with_reducible refine Keeps.snd (by with_reducible assumption) ?_) | (with_reducible refine Keeps.fst (by with_reducible assumption) ?_) | (with_reducible refine Keeps.snd2 (by with_reducible assumption) ?_) | (with_reducible refine Keeps.snd3 (by with_reducible assumption) ?_) | dsimp only

theorem doGetVendorDefinedMsgSupport_keeps {s₀ : State} {s : State}  (p : Nat)  (hk : Keeps s₀ s) :
    Keeps s₀ (doGetVendorDefinedMsgSupport p s ) := by
  unfold doGetVendorDefinedMsgSupport
  try dsimp only
  repeat' first | (with_reducible assumption) | with_reducible exact Keeps.refl _ | (with_reducible apply State.emit_keeps) | (with_reducible apply Keeps.ite) | split | (intro _ _ _) | (intro _ _) | (with_reducible refine Keeps.snd (by with_reducible assumption) ?_) | (with_reducible refine Keeps.fst (by with_reducible assumption) ?_) | (with_reducible refine Keeps.snd2 (by with_reducible assumption) ?_) | (with_reducible refine Keeps.snd3 (by with_reducible assumption) ?_) | dsimp only

theorem doEntdaa_keeps {s₀ : State} {s : State}  (a : BitVec 7)  (hk : Keeps s₀ s) :
    Keeps s₀ (doEntdaa a s ) := by
  unfold doEntdaa
  try dsimp only
  repeat' first | (with_reducible assumption) | with_reducible exact Keeps.refl _ | (fail_if_no_progress (with_reducible refine Keeps.upd ?_)) | (with_reducible apply Keeps.ite) | split | (intro _ _ _) | (intro _ _) | dsimp only

theorem doSetdasa_keeps {s₀ : State} {s : State}  (static : BitVec 7) (a : BitVec 7)  (hk : Keeps s₀ s) :
    Keeps s₀ (doSetdasa static a s ) := by
  unfold doSetdasa
  try dsimp only
  repeat' first | (with_reducible assumption) | with_reducible exact Keeps.refl _ | (fail_if_no_progress (with_reducible refine Keeps.upd ?_)) | (with_reducible apply Keeps.ite) | split | (intro _ _ _) | (intro _ _) | dsimp only

end Sys2Proof.Machine
end

