-- ==== Sys2Proof/Laws/KeepsPower.lean ====
section
/-! SUPPORT. What the operations of Sys2Proof/Machine/Power.lean keep. -/

set_option linter.all false

namespace Sys2Proof.Machine

theorem State.chooseFirmware_keeps {s₀ : State} {s : State}    (hk : Keeps s₀ s) :
    Keeps s₀ (State.chooseFirmware s ) := by
  unfold State.chooseFirmware
  try dsimp only
  repeat' first | (with_reducible assumption) | with_reducible exact Keeps.refl _ | (with_reducible apply State.cancelTrial_keeps) | (with_reducible apply State.countStart_keeps) | (with_reducible apply State.fset_keeps) | (with_reducible apply State.flag_keeps) | (fail_if_no_progress (with_reducible refine Keeps.upd ?_)) | (with_reducible apply Keeps.ite) | split | (intro _ _ _) | (intro _ _) | dsimp only

theorem State.restartNotice_keeps {s₀ : State} {s : State}  (cause : Nat) (aborted : Nat)  (hk : Keeps s₀ s) :
    Keeps s₀ (State.restartNotice s cause aborted ) := by
  unfold State.restartNotice
  try dsimp only
  repeat' first | (with_reducible assumption) | with_reducible exact Keeps.refl _ | (with_reducible apply State.notice_keeps) | (fail_if_no_progress (with_reducible refine Keeps.upd ?_)) | split | (intro _ _ _) | (intro _ _) | (with_reducible refine Keeps.snd (by with_reducible assumption) ?_) | (with_reducible refine Keeps.fst (by with_reducible assumption) ?_) | (with_reducible refine Keeps.snd2 (by with_reducible assumption) ?_) | (with_reducible refine Keeps.snd3 (by with_reducible assumption) ?_) | dsimp only

theorem State.answerBusy_keeps {s₀ : State} {s : State}  (old : State)  (hk : Keeps s₀ s) :
    Keeps s₀ (State.answerBusy s old ) := by
  unfold State.answerBusy
  try dsimp only
  repeat' first | (with_reducible assumption) | with_reducible exact Keeps.refl _ | (with_reducible apply State.emit_keeps) | (with_reducible apply State.fset_keeps) | (with_reducible apply State.msix_keeps) | (with_reducible apply State.barPut_keeps) | (with_reducible apply Keeps.foldl) | (with_reducible apply Keeps.foldl_fst) | (with_reducible apply Keeps.foldl_snd) | (with_reducible apply Keeps.ite) | split | (intro _ _ _) | (intro _ _) | dsimp only

theorem State.clearSteward_keeps {s₀ : State} {s : State}    (hk : Keeps s₀ s) :
    Keeps s₀ (State.clearSteward s ) := by
  unfold State.clearSteward
  try dsimp only
  repeat' first | (with_reducible assumption) | with_reducible exact Keeps.refl _ | split | (fail_if_no_progress (with_reducible refine Keeps.put ?_ ?_ ?_ ?_ ?_ ?_ ?_)) | (intro c; with_reducible first | exact c.csr | exact c.bankMem | exact c.scratch | exact c.frames | exact c.bar | exact c.flash | exact Memory.wf_drop _ c.scratch | exact Memory.wf_drop _ c.frames | exact Memory.wf_drop _ c.bankMem | exact Memory.wf_drop _ c.flash | exact Memory.wf_drop _ c.bar | exact SMap.wf_mapVals _ c.csr | exact Memory.wf_writeLE _ _ _ c.bankMem | exact Memory.wf_writeLE _ _ _ c.scratch | exact Memory.wf_writeLE _ _ _ c.frames | exact Memory.wf_writeLE _ _ _ c.flash | exact Memory.wf_writes _ _ c.frames | exact Memory.wf_writes _ _ c.bar | exact Memory.wf_write _ _ c.frames | exact Memory.wf_write _ _ c.bar | exact Memory.wf_filter _ c.bar | exact Memory.wf_nil _ | exact barReset_wf) | (fail_if_no_progress (with_reducible refine Keeps.upd ?_)) | split | (intro _ _ _) | (intro _ _) | (with_reducible refine Keeps.snd (by with_reducible assumption) ?_) | (with_reducible refine Keeps.fst (by with_reducible assumption) ?_) | (with_reducible refine Keeps.snd2 (by with_reducible assumption) ?_) | (with_reducible refine Keeps.snd3 (by with_reducible assumption) ?_) | dsimp only

theorem State.resetAll_keeps {s₀ : State} {s : State}  (k : Kind)  (hk : Keeps s₀ s) :
    Keeps s₀ (State.resetAll s k ) := by
  unfold State.resetAll
  try dsimp only
  repeat' first | (with_reducible assumption) | with_reducible exact Keeps.refl _ | (with_reducible apply State.dieReset_keeps) | (with_reducible apply State.resetCsr_keeps) | (with_reducible apply State.clearSteward_keeps) | (with_reducible apply Keeps.foldl) | (with_reducible apply Keeps.foldl_fst) | (with_reducible apply Keeps.foldl_snd) | split | (intro _ _ _) | (intro _ _) | dsimp only

theorem State.resetP_keeps {s₀ : State} {s : State}    (hk : Keeps s₀ s) :
    Keeps s₀ (State.resetP s ) := by
  unfold State.resetP
  try dsimp only
  repeat' first | (with_reducible assumption) | with_reducible exact Keeps.refl _ | (with_reducible apply State.resetAll_keeps) | (fail_if_no_progress (with_reducible refine Keeps.upd ?_)) | split | (intro _ _ _) | (intro _ _) | (with_reducible refine Keeps.snd (by with_reducible assumption) ?_) | (with_reducible refine Keeps.fst (by with_reducible assumption) ?_) | (with_reducible refine Keeps.snd2 (by with_reducible assumption) ?_) | (with_reducible refine Keeps.snd3 (by with_reducible assumption) ?_) | dsimp only

theorem State.resetH_keeps {s₀ : State} {s : State}    (hk : Keeps s₀ s) :
    Keeps s₀ (State.resetH s ) := by
  unfold State.resetH
  try dsimp only
  repeat' first | (with_reducible assumption) | with_reducible exact Keeps.refl _ | (with_reducible apply State.flFinish_keeps) | (with_reducible apply State.otpFinish_keeps) | (with_reducible apply State.resetAll_keeps) | split | (intro _ _ _) | (intro _ _) | dsimp only

theorem State.scanFlags_keeps {s₀ : State} {s : State}    (hk : Keeps s₀ s) :
    Keeps s₀ (State.scanFlags s ) := by
  unfold State.scanFlags
  try dsimp only
  repeat' first | (with_reducible assumption) | with_reducible exact Keeps.refl _ | (with_reducible apply State.count_keeps) | (with_reducible apply State.notice_keeps) | (with_reducible apply State.fset_keeps) | (with_reducible apply Keeps.foldl) | (with_reducible apply Keeps.foldl_fst) | (with_reducible apply Keeps.foldl_snd) | (fail_if_no_progress (with_reducible refine Keeps.upd ?_)) | split | (intro _ _ _) | (intro _ _) | (with_reducible refine Keeps.snd (by with_reducible assumption) ?_) | (with_reducible refine Keeps.fst (by with_reducible assumption) ?_) | (with_reducible refine Keeps.snd2 (by with_reducible assumption) ?_) | (with_reducible refine Keeps.snd3 (by with_reducible assumption) ?_) | dsimp only

theorem State.resumeStart_keeps {s₀ : State} {s : State}    (hk : Keeps s₀ s) :
    Keeps s₀ (State.resumeStart s ) := by
  unfold State.resumeStart
  try dsimp only
  repeat' first | (with_reducible assumption) | with_reducible exact Keeps.refl _ | (with_reducible apply State.rdpEnd_keeps) | (with_reducible apply State.lcLatch_keeps) | (with_reducible apply State.lcResume_keeps) | (with_reducible apply State.pendingRefresh_keeps) | (fail_if_no_progress (with_reducible refine Keeps.upd ?_)) | split | (intro _ _ _) | (intro _ _) | dsimp only

theorem State.takeOptions_keeps {s₀ : State} {s : State}    (hk : Keeps s₀ s) :
    Keeps s₀ (State.takeOptions s ) := by
  unfold State.takeOptions
  try dsimp only
  repeat' first | (with_reducible assumption) | with_reducible exact Keeps.refl _ | (with_reducible apply State.csrSet_keeps) | (with_reducible apply State.notice_keeps) | (with_reducible apply State.fset_keeps) | (with_reducible apply State.fsetBit_keeps) | (with_reducible apply Keeps.foldl) | (with_reducible apply Keeps.foldl_fst) | (with_reducible apply Keeps.foldl_snd) | (fail_if_no_progress (with_reducible refine Keeps.upd ?_)) | (with_reducible apply Keeps.ite) | split | (intro _ _ _) | (intro _ _) | (with_reducible refine Keeps.snd (by with_reducible assumption) ?_) | (with_reducible refine Keeps.fst (by with_reducible assumption) ?_) | (with_reducible refine Keeps.snd2 (by with_reducible assumption) ?_) | (with_reducible refine Keeps.snd3 (by with_reducible assumption) ?_) | dsimp only

theorem State.powerDies_keeps {s₀ : State} {s : State}  (off : List Nat)  (hk : Keeps s₀ s) :
    Keeps s₀ (State.powerDies s off ) := by
  unfold State.powerDies
  try dsimp only
  repeat' first | (with_reducible assumption) | with_reducible exact Keeps.refl _ | (with_reducible apply State.count_keeps) | (with_reducible apply State.loadMilestone_keeps) | (with_reducible apply State.fset_keeps) | (with_reducible apply Keeps.foldl) | (with_reducible apply Keeps.foldl_fst) | (with_reducible apply Keeps.foldl_snd) | split | (intro _ _ _) | (intro _ _) | dsimp only

theorem State.fullStart_keeps {s₀ : State} {s : State}  (cause : Nat) (aborted : Nat) (off : List Nat) (st : StartInfo)  (hk : Keeps s₀ s) :
    Keeps s₀ (State.fullStart s cause aborted off st ) := by
  unfold State.fullStart
  try dsimp only
  repeat' first | (with_reducible assumption) | with_reducible exact Keeps.refl _ | (with_reducible apply State.resumeStart_keeps) | (with_reducible apply State.takeOptions_keeps) | (with_reducible apply State.loadMilestone_keeps) | (with_reducible apply State.badStsRefresh_keeps) | (with_reducible apply State.scanFlags_keeps) | (with_reducible apply State.chooseFirmware_keeps) | (with_reducible apply State.fset_keeps) | (with_reducible apply State.protRefresh_keeps) | (with_reducible apply State.restartNotice_keeps) | (with_reducible apply State.powerRefresh_keeps) | (with_reducible apply State.startLoad_keeps) | (with_reducible apply State.powerDies_keeps) | (with_reducible apply Keeps.foldl) | (with_reducible apply Keeps.foldl_fst) | (with_reducible apply Keeps.foldl_snd) | (fail_if_no_progress (with_reducible refine Keeps.upd ?_)) | (with_reducible apply Keeps.ite) | split | (intro _ _ _) | (intro _ _) | dsimp only

theorem doPowerOnReset_keeps {s₀ : State} {s : State}  (st : StartInfo)  (hk : Keeps s₀ s) :
    Keeps s₀ (doPowerOnReset st s ) := by
  unfold doPowerOnReset
  try dsimp only
  repeat' first | (with_reducible assumption) | with_reducible exact Keeps.refl _ | (with_reducible apply State.resetP_keeps) | (with_reducible apply State.fullStart_keeps) | (fail_if_no_progress (with_reducible refine Keeps.upd ?_)) | (with_reducible apply Keeps.ite) | split | (intro _ _ _) | (intro _ _) | dsimp only

theorem State.hotStart_keeps {s₀ : State} {s : State}  (st : StartInfo)  (hk : Keeps s₀ s) :
    Keeps s₀ (State.hotStart s st ) := by
  unfold State.hotStart
  try dsimp only
  repeat' first | (with_reducible assumption) | with_reducible exact Keeps.refl _ | (with_reducible apply State.resetH_keeps) | (with_reducible apply State.fullStart_keeps) | (with_reducible apply State.answerBusy_keeps) | split | (intro _ _ _) | (intro _ _) | dsimp only

theorem doHotRstPin_keeps {s₀ : State} {s : State}    (hk : Keeps s₀ s) :
    Keeps s₀ (doHotRstPin s ) := by
  unfold doHotRstPin
  try dsimp only
  repeat' first | (with_reducible assumption) | with_reducible exact Keeps.refl _ | (with_reducible apply State.flag_keeps) | (with_reducible apply State.resetH_keeps) | (with_reducible apply State.answerBusy_keeps) | (fail_if_no_progress (with_reducible refine Keeps.upd ?_)) | (with_reducible apply Keeps.ite) | split | (intro _ _ _) | (intro _ _) | dsimp only

theorem doHotRstRise_keeps {s₀ : State} {s : State}  (st : StartInfo)  (hk : Keeps s₀ s) :
    Keeps s₀ (doHotRstRise st s ) := by
  unfold doHotRstRise
  try dsimp only
  repeat' first | (with_reducible assumption) | with_reducible exact Keeps.refl _ | (with_reducible apply State.fullStart_keeps) | (fail_if_no_progress (with_reducible refine Keeps.upd ?_)) | (with_reducible apply Keeps.ite) | split | (intro _ _ _) | (intro _ _) | dsimp only

theorem State.cutErase_keeps {s₀ : State} {s : State}  (x : Nat)  (hk : Keeps s₀ s) :
    Keeps s₀ (State.cutErase s x ) := by
  unfold State.cutErase
  try dsimp only
  repeat' first | (with_reducible assumption) | with_reducible exact Keeps.refl _ | (with_reducible apply State.spoilSector_keeps) | (fail_if_no_progress (with_reducible refine Keeps.upd ?_)) | split | (intro _ _ _) | (intro _ _) | dsimp only

theorem State.cutFlash_keeps {s₀ : State} {s : State}  (w : BitVec 64)  (hk : Keeps s₀ s) :
    Keeps s₀ (State.cutFlash s w ) := by
  unfold State.cutFlash
  try dsimp only
  repeat' first | (with_reducible assumption) | with_reducible exact Keeps.refl _ | (with_reducible apply State.cutErase_keeps) | (with_reducible apply State.erased_keeps) | (with_reducible apply State.otpOr_keeps) | (with_reducible apply State.setFlWord_keeps) | (with_reducible apply State.freeByte_keeps) | (with_reducible apply State.draw_keeps) | (with_reducible apply Keeps.foldl) | (with_reducible apply Keeps.foldl_fst) | (with_reducible apply Keeps.foldl_snd) | split | (intro _ _ _) | (intro _ _) | (with_reducible refine Keeps.snd (by with_reducible assumption) ?_) | (with_reducible refine Keeps.fst (by with_reducible assumption) ?_) | (with_reducible refine Keeps.snd2 (by with_reducible assumption) ?_) | (with_reducible refine Keeps.snd3 (by with_reducible assumption) ?_) | dsimp only

theorem doPwrgoodFall_keeps {s₀ : State} {s : State}  (word : Option (BitVec 64))  (hk : Keeps s₀ s) :
    Keeps s₀ (doPwrgoodFall word s ) := by
  unfold doPwrgoodFall
  try dsimp only
  repeat' first | (with_reducible assumption) | with_reducible exact Keeps.refl _ | (with_reducible apply State.flFinish_keeps) | (with_reducible apply State.otpFinish_keeps) | (with_reducible apply State.cutFlash_keeps) | (with_reducible apply State.resetP_keeps) | (fail_if_no_progress (with_reducible refine Keeps.upd ?_)) | (with_reducible apply Keeps.ite) | split | (intro _ _ _) | (intro _ _) | (with_reducible refine Keeps.snd (by with_reducible assumption) ?_) | (with_reducible refine Keeps.fst (by with_reducible assumption) ?_) | (with_reducible refine Keeps.snd2 (by with_reducible assumption) ?_) | (with_reducible refine Keeps.snd3 (by with_reducible assumption) ?_) | dsimp only

theorem State.lcAtRestart_keeps {s₀ : State} {s : State}    (hk : Keeps s₀ s) :
    Keeps s₀ (State.lcAtRestart s ) := by
  unfold State.lcAtRestart
  try dsimp only
  repeat' first | (with_reducible assumption) | with_reducible exact Keeps.refl _ | (with_reducible apply State.lcResume_keeps) | (with_reducible apply Keeps.ite) | split | (intro _ _ _) | (intro _ _) | dsimp only

theorem State.stewardReset_keeps {s₀ : State} {s : State}    (hk : Keeps s₀ s) :
    Keeps s₀ (State.stewardReset s ) := by
  unfold State.stewardReset
  try dsimp only
  repeat' first | (with_reducible assumption) | with_reducible exact Keeps.refl _ | (with_reducible apply State.flFinish_keeps) | (with_reducible apply State.lcAtRestart_keeps) | (with_reducible apply State.lcUpdate_keeps) | (with_reducible apply State.branch_keeps) | (with_reducible apply State.restartNotice_keeps) | (with_reducible apply State.abandonSwap_keeps) | (with_reducible apply State.answerBusy_keeps) | (with_reducible apply State.otpFinish_keeps) | (with_reducible apply State.dropDma_keeps) | (with_reducible apply State.resetCsr_keeps) | (with_reducible apply State.chooseFirmware_keeps) | (with_reducible apply State.endSession_keeps) | split | (fail_if_no_progress (with_reducible refine Keeps.put ?_ ?_ ?_ ?_ ?_ ?_ ?_)) | (intro c; with_reducible first | exact c.csr | exact c.bankMem | exact c.scratch | exact c.frames | exact c.bar | exact c.flash | exact Memory.wf_drop _ c.scratch | exact Memory.wf_drop _ c.frames | exact Memory.wf_drop _ c.bankMem | exact Memory.wf_drop _ c.flash | exact Memory.wf_drop _ c.bar | exact SMap.wf_mapVals _ c.csr | exact Memory.wf_writeLE _ _ _ c.bankMem | exact Memory.wf_writeLE _ _ _ c.scratch | exact Memory.wf_writeLE _ _ _ c.frames | exact Memory.wf_writeLE _ _ _ c.flash | exact Memory.wf_writes _ _ c.frames | exact Memory.wf_writes _ _ c.bar | exact Memory.wf_write _ _ c.frames | exact Memory.wf_write _ _ c.bar | exact Memory.wf_filter _ c.bar | exact Memory.wf_nil _ | exact barReset_wf) | (fail_if_no_progress (with_reducible refine Keeps.upd ?_)) | (with_reducible apply Keeps.ite) | split | (intro _ _ _) | (intro _ _) | (with_reducible refine Keeps.snd (by with_reducible assumption) ?_) | (with_reducible refine Keeps.fst (by with_reducible assumption) ?_) | (with_reducible refine Keeps.snd2 (by with_reducible assumption) ?_) | (with_reducible refine Keeps.snd3 (by with_reducible assumption) ?_) | dsimp only

theorem doWatchdogExpiry_keeps {s₀ : State} {s : State}    (hk : Keeps s₀ s) :
    Keeps s₀ (doWatchdogExpiry s ) := by
  unfold doWatchdogExpiry
  try dsimp only
  repeat' first | (with_reducible assumption) | with_reducible exact Keeps.refl _ | (with_reducible apply State.flag_keeps) | (with_reducible apply State.stewardReset_keeps) | (fail_if_no_progress (with_reducible refine Keeps.upd ?_)) | (with_reducible apply Keeps.ite) | split | (intro _ _ _) | (intro _ _) | dsimp only

theorem doTrialPromote_keeps {s₀ : State} {s : State}    (hk : Keeps s₀ s) :
    Keeps s₀ (doTrialPromote s ) := by
  unfold doTrialPromote
  try dsimp only
  repeat' first | (with_reducible assumption) | with_reducible exact Keeps.refl _ | (with_reducible apply State.setBoot_keeps) | (with_reducible apply Keeps.ite) | split | (intro _ _ _) | (intro _ _) | dsimp only

theorem doResetHot_keeps {s₀ : State} {s : State}  (h : CmdHdr) (st : StartInfo)  (hk : Keeps s₀ s) :
    Keeps s₀ (doResetHot h st s ) := by
  unfold doResetHot
  try dsimp only
  repeat' first | (with_reducible assumption) | with_reducible exact Keeps.refl _ | (with_reducible apply State.respond_keeps) | (with_reducible apply State.hotStart_keeps) | (with_reducible apply State.flag_keeps) | (with_reducible apply State.command_keeps) | split | (intro _ _ _) | (intro _ _) | dsimp only

theorem doResetDie_keeps {s₀ : State} {s : State}  (h : CmdHdr) (d : Nat)  (hk : Keeps s₀ s) :
    Keeps s₀ (doResetDie h d s ) := by
  unfold doResetDie
  try dsimp only
  repeat' first | (with_reducible assumption) | with_reducible exact Keeps.refl _ | (with_reducible apply State.respond_keeps) | (with_reducible apply State.resetD_keeps) | (with_reducible apply State.reloadDies_keeps) | (with_reducible apply State.powerRefresh_keeps) | (with_reducible apply State.command_keeps) | (fail_if_no_progress (with_reducible refine Keeps.upd ?_)) | (with_reducible apply Keeps.ite) | split | (intro _ _ _) | (intro _ _) | dsimp only

theorem doResetReach_keeps {s₀ : State} {s : State}  (h : CmdHdr) (d : Nat) (r : Nat)  (hk : Keeps s₀ s) :
    Keeps s₀ (doResetReach h d r s ) := by
  unfold doResetReach
  try dsimp only
  repeat' first | (with_reducible assumption) | with_reducible exact Keeps.refl _ | (with_reducible apply State.respond_keeps) | (with_reducible apply State.command_keeps) | (with_reducible apply State.holdReach_keeps) | (fail_if_no_progress (with_reducible refine Keeps.upd ?_)) | (with_reducible apply Keeps.ite) | split | (intro _ _ _) | (intro _ _) | (with_reducible refine Keeps.snd (by with_reducible assumption) ?_) | (with_reducible refine Keeps.fst (by with_reducible assumption) ?_) | (with_reducible refine Keeps.snd2 (by with_reducible assumption) ?_) | (with_reducible refine Keeps.snd3 (by with_reducible assumption) ?_) | dsimp only

theorem doResetEng_keeps {s₀ : State} {s : State}  (h : CmdHdr) (d : Nat) (e : Nat)  (hk : Keeps s₀ s) :
    Keeps s₀ (doResetEng h d e s ) := by
  unfold doResetEng
  try dsimp only
  repeat' first | (with_reducible assumption) | with_reducible exact Keeps.refl _ | (with_reducible apply State.respond_keeps) | (with_reducible apply State.engReset_keeps) | (with_reducible apply State.resetDone_keeps) | (with_reducible apply State.command_keeps) | (with_reducible apply Keeps.ite) | split | (intro _ _ _) | (intro _ _) | dsimp only

theorem doResetSteward_keeps {s₀ : State} {s : State}  (h : CmdHdr)  (hk : Keeps s₀ s) :
    Keeps s₀ (doResetSteward h s ) := by
  unfold doResetSteward
  try dsimp only
  repeat' first | (with_reducible assumption) | with_reducible exact Keeps.refl _ | (with_reducible apply State.respond_keeps) | (with_reducible apply State.flag_keeps) | (with_reducible apply State.stewardReset_keeps) | (with_reducible apply State.command_keeps) | split | (intro _ _ _) | (intro _ _) | dsimp only

theorem doPowerStateStandby_keeps {s₀ : State} {s : State}  (h : CmdHdr) (masks : List (BitVec 16))  (hk : Keeps s₀ s) :
    Keeps s₀ (doPowerStateStandby h masks s ) := by
  unfold doPowerStateStandby
  try dsimp only
  repeat' first | (with_reducible assumption) | with_reducible exact Keeps.refl _ | (with_reducible apply State.respond_keeps) | (with_reducible apply State.notice_keeps) | (with_reducible apply State.dieCulvertsQuiet_keeps) | (with_reducible apply State.powerRefresh_keeps) | (with_reducible apply State.command_keeps) | (with_reducible apply State.dieOff_keeps) | (with_reducible apply Keeps.foldl) | (with_reducible apply Keeps.foldl_fst) | (with_reducible apply Keeps.foldl_snd) | (fail_if_no_progress (with_reducible refine Keeps.upd ?_)) | (with_reducible apply Keeps.ite) | split | (intro _ _ _) | (intro _ _) | (with_reducible refine Keeps.snd (by with_reducible assumption) ?_) | (with_reducible refine Keeps.fst (by with_reducible assumption) ?_) | (with_reducible refine Keeps.snd2 (by with_reducible assumption) ?_) | (with_reducible refine Keeps.snd3 (by with_reducible assumption) ?_) | dsimp only

theorem State.wakeDies_keeps {s₀ : State} {s : State}  (w : WakeSt)  (hk : Keeps s₀ s) :
    Keeps s₀ (State.wakeDies s w ) := by
  unfold State.wakeDies
  try dsimp only
  repeat' first | (with_reducible assumption) | with_reducible exact Keeps.refl _ | (with_reducible apply State.fset_keeps) | (with_reducible apply State.dieWake_keeps) | (with_reducible apply State.powerRefresh_keeps) | (with_reducible apply State.reloadDies_keeps) | (with_reducible apply Keeps.foldl) | (with_reducible apply Keeps.foldl_fst) | (with_reducible apply Keeps.foldl_snd) | (fail_if_no_progress (with_reducible refine Keeps.upd ?_)) | split | (intro _ _ _) | (intro _ _) | (with_reducible refine Keeps.snd (by with_reducible assumption) ?_) | (with_reducible refine Keeps.fst (by with_reducible assumption) ?_) | (with_reducible refine Keeps.snd2 (by with_reducible assumption) ?_) | (with_reducible refine Keeps.snd3 (by with_reducible assumption) ?_) | dsimp only

theorem State.startWake_keeps {s₀ : State} {s : State}  (cmd : Option CmdHdr) (masks : List (BitVec 16))  (hk : Keeps s₀ s) :
    Keeps s₀ (State.startWake s cmd masks ) := by
  unfold State.startWake
  try dsimp only
  repeat' first | (with_reducible assumption) | with_reducible exact Keeps.refl _ | (with_reducible apply State.wakeDies_keeps) | (with_reducible apply State.flag_keeps) | (fail_if_no_progress (with_reducible refine Keeps.upd ?_)) | (with_reducible apply Keeps.ite) | split | (intro _ _ _) | (intro _ _) | (with_reducible refine Keeps.snd (by with_reducible assumption) ?_) | (with_reducible refine Keeps.fst (by with_reducible assumption) ?_) | (with_reducible refine Keeps.snd2 (by with_reducible assumption) ?_) | (with_reducible refine Keeps.snd3 (by with_reducible assumption) ?_) | dsimp only

theorem State.wakeTripped_keeps {s₀ : State} {s : State}  (masks : List (BitVec 16))  (hk : Keeps s₀ s) :
    Keeps s₀ (State.wakeTripped s masks ) := by
  unfold State.wakeTripped
  try dsimp only
  repeat' first | (with_reducible assumption) | with_reducible exact Keeps.refl _ | (with_reducible apply State.fset_keeps) | (with_reducible apply State.dieWake_keeps) | (with_reducible apply State.fsetBit_keeps) | (with_reducible apply State.powerRefresh_keeps) | (with_reducible apply State.reloadDies_keeps) | (with_reducible apply Keeps.foldl) | (with_reducible apply Keeps.foldl_fst) | (with_reducible apply Keeps.foldl_snd) | (fail_if_no_progress (with_reducible refine Keeps.upd ?_)) | (with_reducible apply Keeps.ite) | split | (intro _ _ _) | (intro _ _) | (with_reducible refine Keeps.snd (by with_reducible assumption) ?_) | (with_reducible refine Keeps.fst (by with_reducible assumption) ?_) | (with_reducible refine Keeps.snd2 (by with_reducible assumption) ?_) | (with_reducible refine Keeps.snd3 (by with_reducible assumption) ?_) | dsimp only

theorem State.ungateReach_keeps {s₀ : State} {s : State}  (d : Nat) (r : Nat)  (hk : Keeps s₀ s) :
    Keeps s₀ (State.ungateReach s d r ) := by
  unfold State.ungateReach
  try dsimp only
  repeat' first | (with_reducible assumption) | with_reducible exact Keeps.refl _ | (with_reducible apply State.assertReach_keeps) | (with_reducible apply State.startClear_keeps) | (with_reducible apply State.fsetBit_keeps) | (with_reducible apply Keeps.foldl) | (with_reducible apply Keeps.foldl_fst) | (with_reducible apply Keeps.foldl_snd) | (fail_if_no_progress (with_reducible refine Keeps.upd ?_)) | (with_reducible apply Keeps.ite) | split | (intro _ _ _) | (intro _ _) | (with_reducible refine Keeps.snd (by with_reducible assumption) ?_) | (with_reducible refine Keeps.fst (by with_reducible assumption) ?_) | (with_reducible refine Keeps.snd2 (by with_reducible assumption) ?_) | (with_reducible refine Keeps.snd3 (by with_reducible assumption) ?_) | dsimp only

theorem State.setGate_keeps {s₀ : State} {s : State}  (d : Nat) (mask : Nat)  (hk : Keeps s₀ s) :
    Keeps s₀ (State.setGate s d mask ) := by
  unfold State.setGate
  try dsimp only
  repeat' first | (with_reducible assumption) | with_reducible exact Keeps.refl _ | (with_reducible apply State.notice_keeps) | (with_reducible apply State.gateReach_keeps) | (with_reducible apply State.ungateReach_keeps) | (with_reducible apply Keeps.foldl) | (with_reducible apply Keeps.foldl_fst) | (with_reducible apply Keeps.foldl_snd) | (with_reducible apply Keeps.ite) | split | (intro _ _ _) | (intro _ _) | (with_reducible refine Keeps.snd (by with_reducible assumption) ?_) | (with_reducible refine Keeps.fst (by with_reducible assumption) ?_) | (with_reducible refine Keeps.snd2 (by with_reducible assumption) ?_) | (with_reducible refine Keeps.snd3 (by with_reducible assumption) ?_) | dsimp only

theorem doPowerStateRun_keeps {s₀ : State} {s : State}  (h : CmdHdr) (masks : List (BitVec 16))  (hk : Keeps s₀ s) :
    Keeps s₀ (doPowerStateRun h masks s ) := by
  unfold doPowerStateRun
  try dsimp only
  repeat' first | (with_reducible assumption) | with_reducible exact Keeps.refl _ | (with_reducible apply State.command_keeps) | (with_reducible apply State.startWake_keeps) | (with_reducible apply State.setGate_keeps) | (with_reducible apply State.respond_keeps) | (with_reducible apply State.wakeTripped_keeps) | (with_reducible apply State.wakeCheck_keeps) | (with_reducible apply State.await_keeps) | (with_reducible apply Keeps.foldl) | (with_reducible apply Keeps.foldl_fst) | (with_reducible apply Keeps.foldl_snd) | (fail_if_no_progress (with_reducible refine Keeps.upd ?_)) | (with_reducible apply Keeps.ite) | split | (intro _ _ _) | (intro _ _) | (with_reducible refine Keeps.snd (by with_reducible assumption) ?_) | (with_reducible refine Keeps.fst (by with_reducible assumption) ?_) | (with_reducible refine Keeps.snd2 (by with_reducible assumption) ?_) | (with_reducible refine Keeps.snd3 (by with_reducible assumption) ?_) | dsimp only

theorem doRailOkRise_keeps {s₀ : State} {s : State}    (hk : Keeps s₀ s) :
    Keeps s₀ (doRailOkRise s ) := by
  unfold doRailOkRise
  try dsimp only
  repeat' first | (with_reducible assumption) | with_reducible exact Keeps.refl _ | (with_reducible apply State.wakeDies_keeps) | (with_reducible apply Keeps.ite) | split | (intro _ _ _) | (intro _ _) | dsimp only

theorem doRailOkTimeout_keeps {s₀ : State} {s : State}    (hk : Keeps s₀ s) :
    Keeps s₀ (doRailOkTimeout s ) := by
  unfold doRailOkTimeout
  try dsimp only
  repeat' first | (with_reducible assumption) | with_reducible exact Keeps.refl _ | (with_reducible apply State.notice_keeps) | (with_reducible apply State.fset_keeps) | (with_reducible apply State.finish_keeps) | (with_reducible apply State.freeByte_keeps) | (fail_if_no_progress (with_reducible refine Keeps.upd ?_)) | (with_reducible apply Keeps.ite) | split | (intro _ _ _) | (intro _ _) | (with_reducible refine Keeps.snd (by with_reducible assumption) ?_) | (with_reducible refine Keeps.fst (by with_reducible assumption) ?_) | (with_reducible refine Keeps.snd2 (by with_reducible assumption) ?_) | (with_reducible refine Keeps.snd3 (by with_reducible assumption) ?_) | dsimp only

theorem doReachWakeCheckDone_keeps {s₀ : State} {s : State}  (d : Nat) (r : Nat)  (hk : Keeps s₀ s) :
    Keeps s₀ (doReachWakeCheckDone d r s ) := by
  unfold doReachWakeCheckDone
  try dsimp only
  repeat' first | (with_reducible assumption) | with_reducible exact Keeps.refl _ | (with_reducible apply State.checkFrame_keeps) | (with_reducible apply State.dropJob_keeps) | (with_reducible apply doBankClearDone_keeps) | (with_reducible apply State.releaseStart_keeps) | (with_reducible apply Keeps.foldl) | (with_reducible apply Keeps.foldl_fst) | (with_reducible apply Keeps.foldl_snd) | (with_reducible apply Keeps.ite) | split | (intro _ _ _) | (intro _ _) | dsimp only

theorem doPatternMatchFire_keeps {s₀ : State} {s : State}  (m : Nat) (levels : BitVec 32)  (hk : Keeps s₀ s) :
    Keeps s₀ (doPatternMatchFire m levels s ) := by
  unfold doPatternMatchFire
  try dsimp only
  repeat' first | (with_reducible assumption) | with_reducible exact Keeps.refl _ | (with_reducible apply State.pmSample_keeps) | (with_reducible apply State.notice_keeps) | (with_reducible apply State.startWake_keeps) | (with_reducible apply State.fsetBit_keeps) | (with_reducible apply Keeps.ite) | split | (intro _ _ _) | (intro _ _) | (with_reducible refine Keeps.snd (by with_reducible assumption) ?_) | (with_reducible refine Keeps.fst (by with_reducible assumption) ?_) | (with_reducible refine Keeps.snd2 (by with_reducible assumption) ?_) | (with_reducible refine Keeps.snd3 (by with_reducible assumption) ?_) | dsimp only

theorem State.tripOff_keeps {s₀ : State} {s : State}  (d : Nat) (thermal : Bool)  (hk : Keeps s₀ s) :
    Keeps s₀ (State.tripOff s d thermal ) := by
  unfold State.tripOff
  try dsimp only
  repeat' first | (with_reducible assumption) | with_reducible exact Keeps.refl _ | (with_reducible apply State.fsetBit_keeps) | (with_reducible apply State.abandonSwap_keeps) | (with_reducible apply State.dieOff_keeps) | (fail_if_no_progress (with_reducible refine Keeps.upd ?_)) | (with_reducible apply Keeps.ite) | split | (intro _ _ _) | (intro _ _) | (with_reducible refine Keeps.snd (by with_reducible assumption) ?_) | (with_reducible refine Keeps.fst (by with_reducible assumption) ?_) | (with_reducible refine Keeps.snd2 (by with_reducible assumption) ?_) | (with_reducible refine Keeps.snd3 (by with_reducible assumption) ?_) | dsimp only

theorem State.tripEnds_keeps {s₀ : State} {s : State}  (d : Nat)  (hk : Keeps s₀ s) :
    Keeps s₀ (State.tripEnds s d ) := by
  unfold State.tripEnds
  try dsimp only
  repeat' first | (with_reducible assumption) | with_reducible exact Keeps.refl _ | (with_reducible apply State.bistOff_keeps) | (with_reducible apply State.powerRefresh_keeps) | (with_reducible apply State.settle_keeps) | split | (intro _ _ _) | (intro _ _) | dsimp only

theorem doThermalTrip_keeps {s₀ : State} {s : State}  (d : Nat) (t : Int)  (hk : Keeps s₀ s) :
    Keeps s₀ (doThermalTrip d t s ) := by
  unfold doThermalTrip
  try dsimp only
  repeat' first | (with_reducible assumption) | with_reducible exact Keeps.refl _ | (with_reducible apply State.tripOff_keeps) | (with_reducible apply State.notice_keeps) | (with_reducible apply State.fsetBit_keeps) | (with_reducible apply State.tripEnds_keeps) | (fail_if_no_progress (with_reducible refine Keeps.upd ?_)) | (with_reducible apply Keeps.ite) | split | (intro _ _ _) | (intro _ _) | (with_reducible refine Keeps.snd (by with_reducible assumption) ?_) | (with_reducible refine Keeps.fst (by with_reducible assumption) ?_) | (with_reducible refine Keeps.snd2 (by with_reducible assumption) ?_) | (with_reducible refine Keeps.snd3 (by with_reducible assumption) ?_) | dsimp only

theorem doCoreUndervoltage_keeps {s₀ : State} {s : State}  (d : Nat)  (hk : Keeps s₀ s) :
    Keeps s₀ (doCoreUndervoltage d s ) := by
  unfold doCoreUndervoltage
  try dsimp only
  repeat' first | (with_reducible assumption) | with_reducible exact Keeps.refl _ | (with_reducible apply State.tripOff_keeps) | (with_reducible apply State.notice_keeps) | (with_reducible apply State.fsetBit_keeps) | (with_reducible apply State.tripEnds_keeps) | (with_reducible apply Keeps.ite) | split | (intro _ _ _) | (intro _ _) | (with_reducible refine Keeps.snd (by with_reducible assumption) ?_) | (with_reducible refine Keeps.fst (by with_reducible assumption) ?_) | (with_reducible refine Keeps.snd2 (by with_reducible assumption) ?_) | (with_reducible refine Keeps.snd3 (by with_reducible assumption) ?_) | dsimp only

theorem doVoltageGovernorStep_keeps {s₀ : State} {s : State}  (d : Nat) (up : Bool) (ack : Bool)  (hk : Keeps s₀ s) :
    Keeps s₀ (doVoltageGovernorStep d up ack s ) := by
  unfold doVoltageGovernorStep
  try dsimp only
  repeat' first | (with_reducible assumption) | with_reducible exact Keeps.refl _ | (with_reducible apply State.fset_keeps) | (with_reducible apply State.flag_keeps) | (with_reducible apply State.noticeLim_keeps) | (with_reducible apply State.emit_keeps) | (fail_if_no_progress (with_reducible refine Keeps.upd ?_)) | (with_reducible apply Keeps.ite) | split | (intro _ _ _) | (intro _ _) | (with_reducible refine Keeps.snd (by with_reducible assumption) ?_) | (with_reducible refine Keeps.fst (by with_reducible assumption) ?_) | (with_reducible refine Keeps.snd2 (by with_reducible assumption) ?_) | (with_reducible refine Keeps.snd3 (by with_reducible assumption) ?_) | dsimp only

end Sys2Proof.Machine
end

