-- ==== Sys2Proof/Laws/KeepsSecurity.lean ====
section
/-! SUPPORT. What the operations of Sys2Proof/Machine/Security.lean keep. -/

set_option linter.all false

namespace Sys2Proof.Machine

theorem doLcTransition_keeps {s₀ : State} {s : State}  (h : CmdHdr) (tgt : Nat)  (hk : Keeps s₀ s) :
    Keeps s₀ (doLcTransition h tgt s ) := by
  unfold doLcTransition
  try dsimp only
  repeat' first | (with_reducible assumption) | with_reducible exact Keeps.refl _ | (with_reducible apply State.command_keeps) | (with_reducible apply State.startJob_keeps) | (with_reducible apply State.respond_keeps) | (with_reducible apply State.await_keeps) | (fail_if_no_progress (with_reducible refine Keeps.upd ?_)) | (with_reducible apply Keeps.ite) | split | (intro _ _ _) | (intro _ _) | dsimp only

theorem doDebugCert_keeps {s₀ : State} {s : State}  (h : CmdHdr)  (hk : Keeps s₀ s) :
    Keeps s₀ (doDebugCert h s ) := by
  unfold doDebugCert
  try dsimp only
  repeat' first | (with_reducible assumption) | with_reducible exact Keeps.refl _ | (with_reducible apply State.otpGo_keeps) | (with_reducible apply State.await_keeps) | (with_reducible apply State.command_keeps) | (fail_if_no_progress (with_reducible refine Keeps.upd ?_)) | (with_reducible apply Keeps.ite) | split | (intro _ _ _) | (intro _ _) | (with_reducible refine Keeps.snd (by with_reducible assumption) ?_) | (with_reducible refine Keeps.fst (by with_reducible assumption) ?_) | (with_reducible refine Keeps.snd2 (by with_reducible assumption) ?_) | (with_reducible refine Keeps.snd3 (by with_reducible assumption) ?_) | dsimp only

theorem State.grantRights_keeps {s₀ : State} {s : State}  (h : HostId) (rights : Nat) (key : Nat)  (hk : Keeps s₀ s) :
    Keeps s₀ (State.grantRights s h rights key ) := by
  unfold State.grantRights
  try dsimp only
  repeat' first | (with_reducible assumption) | with_reducible exact Keeps.refl _ | (fail_if_no_progress (with_reducible refine Keeps.upd ?_)) | (with_reducible apply Keeps.ite) | split | (intro _ _ _) | (intro _ _) | (with_reducible refine Keeps.snd (by with_reducible assumption) ?_) | (with_reducible refine Keeps.fst (by with_reducible assumption) ?_) | (with_reducible refine Keeps.snd2 (by with_reducible assumption) ?_) | (with_reducible refine Keeps.snd3 (by with_reducible assumption) ?_) | dsimp only

theorem State.certFinish_keeps {s₀ : State} {s : State}  (c : CertSt)  (hk : Keeps s₀ s) :
    Keeps s₀ (State.certFinish s c ) := by
  unfold State.certFinish
  try dsimp only
  repeat' first | (with_reducible assumption) | with_reducible exact Keeps.refl _ | (with_reducible apply State.otpOr_keeps) | (with_reducible apply State.fset_keeps) | (with_reducible apply Keeps.foldl) | (with_reducible apply Keeps.foldl_fst) | (with_reducible apply Keeps.foldl_snd) | (fail_if_no_progress (with_reducible refine Keeps.upd ?_)) | (with_reducible apply Keeps.ite) | split | (intro _ _ _) | (intro _ _) | dsimp only

theorem State.certAnswer_keeps {s₀ : State} {s : State}  (c : CertSt)  (hk : Keeps s₀ s) :
    Keeps s₀ (State.certAnswer s c ) := by
  unfold State.certAnswer
  try dsimp only
  repeat' first | (with_reducible assumption) | with_reducible exact Keeps.refl _ | (with_reducible apply State.count_keeps) | (with_reducible apply State.notice_keeps) | (with_reducible apply State.grantRights_keeps) | (with_reducible apply State.lcUpdate_keeps) | (with_reducible apply State.finish_keeps) | (with_reducible apply Keeps.ite) | split | (intro _ _ _) | (intro _ _) | (with_reducible refine Keeps.snd (by with_reducible assumption) ?_) | (with_reducible refine Keeps.fst (by with_reducible assumption) ?_) | (with_reducible refine Keeps.snd2 (by with_reducible assumption) ?_) | (with_reducible refine Keeps.snd3 (by with_reducible assumption) ?_) | dsimp only

theorem doDebugCertResponse_keeps {s₀ : State} {s : State}    (hk : Keeps s₀ s) :
    Keeps s₀ (doDebugCertResponse s ) := by
  unfold doDebugCertResponse
  try dsimp only
  repeat' first | (with_reducible assumption) | with_reducible exact Keeps.refl _ | (with_reducible apply State.otpGo_keeps) | (with_reducible apply State.certFinish_keeps) | (with_reducible apply State.certAnswer_keeps) | (fail_if_no_progress (with_reducible refine Keeps.upd ?_)) | split | (intro _ _ _) | (intro _ _) | dsimp only

theorem doOtpWrite_keeps {s₀ : State} {s : State}  (h : CmdHdr) (w : Nat) (v : BitVec 64)  (hk : Keeps s₀ s) :
    Keeps s₀ (doOtpWrite h w v s ) := by
  unfold doOtpWrite
  try dsimp only
  repeat' first | (with_reducible assumption) | with_reducible exact Keeps.refl _ | (with_reducible apply State.startJob_keeps) | (with_reducible apply State.respond_keeps) | (with_reducible apply State.await_keeps) | (with_reducible apply State.command_keeps) | (fail_if_no_progress (with_reducible refine Keeps.upd ?_)) | (with_reducible apply Keeps.ite) | split | (intro _ _ _) | (intro _ _) | (with_reducible refine Keeps.snd (by with_reducible assumption) ?_) | (with_reducible refine Keeps.fst (by with_reducible assumption) ?_) | (with_reducible refine Keeps.snd2 (by with_reducible assumption) ?_) | (with_reducible refine Keeps.snd3 (by with_reducible assumption) ?_) | dsimp only

theorem doKeyRevoke_keeps {s₀ : State} {s : State}  (h : CmdHdr) (key : Nat) (signer : Nat)  (hk : Keeps s₀ s) :
    Keeps s₀ (doKeyRevoke h key signer s ) := by
  unfold doKeyRevoke
  try dsimp only
  repeat' first | (with_reducible assumption) | with_reducible exact Keeps.refl _ | (with_reducible apply State.startJob_keeps) | (with_reducible apply State.respond_keeps) | (with_reducible apply State.await_keeps) | (with_reducible apply State.command_keeps) | (with_reducible apply Keeps.ite) | split | (intro _ _ _) | (intro _ _) | (with_reducible refine Keeps.snd (by with_reducible assumption) ?_) | (with_reducible refine Keeps.fst (by with_reducible assumption) ?_) | (with_reducible refine Keeps.snd2 (by with_reducible assumption) ?_) | (with_reducible refine Keeps.snd3 (by with_reducible assumption) ?_) | dsimp only

end Sys2Proof.Machine
end

