-- ==== Sys2Proof/Laws/KeepsSteward.lean ====
section
/-! SUPPORT. What the operations of Sys2Proof/Machine/Steward.lean keep. -/

set_option linter.all false

namespace Sys2Proof.Machine

theorem doGetInfo_keeps {s₀ : State} {s : State}  (h : CmdHdr)  (hk : Keeps s₀ s) :
    Keeps s₀ (doGetInfo h s ) := by
  unfold doGetInfo
  try dsimp only
  repeat' first | (with_reducible assumption) | with_reducible exact Keeps.refl _ | (with_reducible apply State.respond_keeps) | (with_reducible apply State.command_keeps) | split | (intro _ _ _) | (intro _ _) | dsimp only

theorem doGetStatus_keeps {s₀ : State} {s : State}  (h : CmdHdr)  (hk : Keeps s₀ s) :
    Keeps s₀ (doGetStatus h s ) := by
  unfold doGetStatus
  try dsimp only
  repeat' first | (with_reducible assumption) | with_reducible exact Keeps.refl _ | (with_reducible apply State.respond_keeps) | (with_reducible apply State.command_keeps) | split | (intro _ _ _) | (intro _ _) | dsimp only

theorem State.joinAbort_keeps {s₀ : State} {s : State}  (h : CmdHdr) (t : CmdHdr)  (hk : Keeps s₀ s) :
    Keeps s₀ (State.joinAbort s h t ) := by
  unfold State.joinAbort
  try dsimp only
  repeat' first | (with_reducible assumption) | with_reducible exact Keeps.refl _ | (fail_if_no_progress (with_reducible refine Keeps.upd ?_)) | (with_reducible apply Keeps.ite) | split | (intro _ _ _) | (intro _ _) | (with_reducible refine Keeps.snd (by with_reducible assumption) ?_) | (with_reducible refine Keeps.fst (by with_reducible assumption) ?_) | (with_reducible refine Keeps.snd2 (by with_reducible assumption) ?_) | (with_reducible refine Keeps.snd3 (by with_reducible assumption) ?_) | dsimp only

theorem State.abortSession_keeps {s₀ : State} {s : State}    (hk : Keeps s₀ s) :
    Keeps s₀ (State.abortSession s ) := by
  unfold State.abortSession
  try dsimp only
  repeat' first | (with_reducible assumption) | with_reducible exact Keeps.refl _ | (with_reducible apply State.endSession_keeps) | (with_reducible apply State.finish_keeps) | (fail_if_no_progress (with_reducible refine Keeps.upd ?_)) | (with_reducible apply Keeps.ite) | split | (intro _ _ _) | (intro _ _) | dsimp only

theorem State.abortCmd_keeps {s₀ : State} {s : State}  (h : CmdHdr) (t : CmdHdr)  (hk : Keeps s₀ s) :
    Keeps s₀ (State.abortCmd s h t ) := by
  unfold State.abortCmd
  try dsimp only
  repeat' first | (with_reducible assumption) | with_reducible exact Keeps.refl _ | (with_reducible apply State.respond_keeps) | (with_reducible apply State.joinAbort_keeps) | (with_reducible apply State.abandonSwap_keeps) | (with_reducible apply State.abortSession_keeps) | (fail_if_no_progress (with_reducible refine Keeps.upd ?_)) | (with_reducible apply Keeps.ite) | split | (intro _ _ _) | (intro _ _) | dsimp only

theorem doAbort_keeps {s₀ : State} {s : State}  (h : CmdHdr) (tag : BitVec 16)  (hk : Keeps s₀ s) :
    Keeps s₀ (doAbort h tag s ) := by
  unfold doAbort
  try dsimp only
  repeat' first | (with_reducible assumption) | with_reducible exact Keeps.refl _ | (with_reducible apply State.respond_keeps) | (with_reducible apply State.joinAbort_keeps) | (with_reducible apply State.abortSession_keeps) | (with_reducible apply State.command_keeps) | (with_reducible apply State.abortCmd_keeps) | (with_reducible apply Keeps.ite) | split | (intro _ _ _) | (intro _ _) | dsimp only

theorem doNoticeSubscribe_keeps {s₀ : State} {s : State}  (h : CmdHdr) (mask : BitVec 16)  (hk : Keeps s₀ s) :
    Keeps s₀ (doNoticeSubscribe h mask s ) := by
  unfold doNoticeSubscribe
  try dsimp only
  repeat' first | (with_reducible assumption) | with_reducible exact Keeps.refl _ | (with_reducible apply State.respond_keeps) | (with_reducible apply State.command_keeps) | (fail_if_no_progress (with_reducible refine Keeps.upd ?_)) | (with_reducible apply Keeps.ite) | split | (intro _ _ _) | (intro _ _) | dsimp only

theorem doNoticeStats_keeps {s₀ : State} {s : State}  (h : CmdHdr)  (hk : Keeps s₀ s) :
    Keeps s₀ (doNoticeStats h s ) := by
  unfold doNoticeStats
  try dsimp only
  repeat' first | (with_reducible assumption) | with_reducible exact Keeps.refl _ | (with_reducible apply State.respond_keeps) | (with_reducible apply State.command_keeps) | split | (intro _ _ _) | (intro _ _) | (with_reducible refine Keeps.snd (by with_reducible assumption) ?_) | (with_reducible refine Keeps.fst (by with_reducible assumption) ?_) | (with_reducible refine Keeps.snd2 (by with_reducible assumption) ?_) | (with_reducible refine Keeps.snd3 (by with_reducible assumption) ?_) | dsimp only

theorem State.readWords_keeps {s₀ : State} {s : State}  (h : HostId) (x0 : List Nat) (hk : Keeps s₀ s) :
    Keeps s₀ (State.readWords s h x0).2.2 := by
  induction x0 generalizing s h with
  | nil =>
    unfold State.readWords
    try dsimp only
    repeat' first | (with_reducible assumption) | with_reducible exact Keeps.refl _ | (with_reducible apply ih) | (with_reducible apply State.msgRead_keeps) | split | (intro _ _ _) | (intro _ _) | (with_reducible refine Keeps.snd (by with_reducible assumption) ?_) | (with_reducible refine Keeps.fst (by with_reducible assumption) ?_) | (with_reducible refine Keeps.snd2 (by with_reducible assumption) ?_) | (with_reducible refine Keeps.snd3 (by with_reducible assumption) ?_) | dsimp only
  | cons _ _ ih =>
    unfold State.readWords
    try dsimp only
    repeat' first | (with_reducible assumption) | with_reducible exact Keeps.refl _ | (with_reducible apply ih) | (with_reducible apply State.msgRead_keeps) | split | (intro _ _ _) | (intro _ _) | (with_reducible refine Keeps.snd (by with_reducible assumption) ?_) | (with_reducible refine Keeps.fst (by with_reducible assumption) ?_) | (with_reducible refine Keeps.snd2 (by with_reducible assumption) ?_) | (with_reducible refine Keeps.snd3 (by with_reducible assumption) ?_) | dsimp only

theorem doCsrRead_keeps {s₀ : State} {s : State}  (h : CmdHdr) (a : Nat) (n : Nat)  (hk : Keeps s₀ s) :
    Keeps s₀ (doCsrRead h a n s ) := by
  unfold doCsrRead
  try dsimp only
  repeat' first | (with_reducible assumption) | with_reducible exact Keeps.refl _ | (with_reducible apply State.respond_keeps) | (with_reducible apply State.readWords_keeps) | (with_reducible apply State.command_keeps) | (with_reducible apply Keeps.ite) | split | (intro _ _ _) | (intro _ _) | (with_reducible refine Keeps.snd (by with_reducible assumption) ?_) | (with_reducible refine Keeps.fst (by with_reducible assumption) ?_) | (with_reducible refine Keeps.snd2 (by with_reducible assumption) ?_) | (with_reducible refine Keeps.snd3 (by with_reducible assumption) ?_) | dsimp only

theorem State.writeWords_keeps {s₀ : State} {s : State}  (h : HostId) (x0 : List (Nat × Word)) (hk : Keeps s₀ s) :
    Keeps s₀ (State.writeWords s h x0).2 := by
  induction x0 generalizing s h with
  | nil =>
    unfold State.writeWords
    try dsimp only
    repeat' first | (with_reducible assumption) | with_reducible exact Keeps.refl _ | (with_reducible apply ih) | (with_reducible apply State.msgWrite_keeps) | split | (intro _ _ _) | (intro _ _) | (with_reducible refine Keeps.snd (by with_reducible assumption) ?_) | (with_reducible refine Keeps.fst (by with_reducible assumption) ?_) | (with_reducible refine Keeps.snd2 (by with_reducible assumption) ?_) | (with_reducible refine Keeps.snd3 (by with_reducible assumption) ?_) | dsimp only
  | cons _ _ ih =>
    unfold State.writeWords
    try dsimp only
    repeat' first | (with_reducible assumption) | with_reducible exact Keeps.refl _ | (with_reducible apply ih) | (with_reducible apply State.msgWrite_keeps) | split | (intro _ _ _) | (intro _ _) | (with_reducible refine Keeps.snd (by with_reducible assumption) ?_) | (with_reducible refine Keeps.fst (by with_reducible assumption) ?_) | (with_reducible refine Keeps.snd2 (by with_reducible assumption) ?_) | (with_reducible refine Keeps.snd3 (by with_reducible assumption) ?_) | dsimp only

theorem doCsrWrite_keeps {s₀ : State} {s : State}  (h : CmdHdr) (a : Nat) (vs : List Word) (n : Nat)  (hk : Keeps s₀ s) :
    Keeps s₀ (doCsrWrite h a vs n s ) := by
  unfold doCsrWrite
  try dsimp only
  repeat' first | (with_reducible assumption) | with_reducible exact Keeps.refl _ | (with_reducible apply State.respond_keeps) | (with_reducible apply State.writeWords_keeps) | (with_reducible apply State.command_keeps) | (with_reducible apply Keeps.ite) | split | (intro _ _ _) | (intro _ _) | (with_reducible refine Keeps.snd (by with_reducible assumption) ?_) | (with_reducible refine Keeps.fst (by with_reducible assumption) ?_) | (with_reducible refine Keeps.snd2 (by with_reducible assumption) ?_) | (with_reducible refine Keeps.snd3 (by with_reducible assumption) ?_) | dsimp only

theorem State.askWords_keeps {s₀ : State} {s : State}  (h : CmdHdr) (op : Nat) (ops : List (Nat × BankOp))  (hk : Keeps s₀ s) :
    Keeps s₀ (State.askWords s h op ops ) := by
  unfold State.askWords
  try dsimp only
  repeat' first | (with_reducible assumption) | with_reducible exact Keeps.refl _ | (with_reducible apply State.askDma_keeps) | (with_reducible apply State.await_keeps) | (with_reducible apply Keeps.foldl) | (with_reducible apply Keeps.foldl_fst) | (with_reducible apply Keeps.foldl_snd) | split | (intro _ _ _) | (intro _ _) | (with_reducible refine Keeps.snd (by with_reducible assumption) ?_) | (with_reducible refine Keeps.fst (by with_reducible assumption) ?_) | (with_reducible refine Keeps.snd2 (by with_reducible assumption) ?_) | (with_reducible refine Keeps.snd3 (by with_reducible assumption) ?_) | dsimp only

theorem doBankRead_keeps {s₀ : State} {s : State}  (h : CmdHdr) (a : Nat) (len : Nat)  (hk : Keeps s₀ s) :
    Keeps s₀ (doBankRead h a len s ) := by
  unfold doBankRead
  try dsimp only
  repeat' first | (with_reducible assumption) | with_reducible exact Keeps.refl _ | (with_reducible apply State.respond_keeps) | (with_reducible apply State.askWords_keeps) | (with_reducible apply State.command_keeps) | split | (intro _ _ _) | (intro _ _) | (with_reducible refine Keeps.snd (by with_reducible assumption) ?_) | (with_reducible refine Keeps.fst (by with_reducible assumption) ?_) | (with_reducible refine Keeps.snd2 (by with_reducible assumption) ?_) | (with_reducible refine Keeps.snd3 (by with_reducible assumption) ?_) | dsimp only

theorem doBankWrite_keeps {s₀ : State} {s : State}  (h : CmdHdr) (a : Nat) (len : Nat) (data : List (BitVec 64))  (hk : Keeps s₀ s) :
    Keeps s₀ (doBankWrite h a len data s ) := by
  unfold doBankWrite
  try dsimp only
  repeat' first | (with_reducible assumption) | with_reducible exact Keeps.refl _ | (with_reducible apply State.respond_keeps) | (with_reducible apply State.askWords_keeps) | (with_reducible apply State.command_keeps) | (with_reducible apply Keeps.ite) | split | (intro _ _ _) | (intro _ _) | dsimp only

theorem doFrameRead_keeps {s₀ : State} {s : State}  (h : CmdHdr) (a : Nat) (n : Nat)  (hk : Keeps s₀ s) :
    Keeps s₀ (doFrameRead h a n s ) := by
  unfold doFrameRead
  try dsimp only
  repeat' first | (with_reducible assumption) | with_reducible exact Keeps.refl _ | (with_reducible apply State.respond_keeps) | (with_reducible apply State.command_keeps) | (with_reducible apply Keeps.ite) | split | (intro _ _ _) | (intro _ _) | dsimp only

theorem doFlashRead_keeps {s₀ : State} {s : State}  (h : CmdHdr) (off : Nat) (len : Nat)  (hk : Keeps s₀ s) :
    Keeps s₀ (doFlashRead h off len s ) := by
  unfold doFlashRead
  try dsimp only
  repeat' first | (with_reducible assumption) | with_reducible exact Keeps.refl _ | (with_reducible apply State.respond_keeps) | (with_reducible apply State.stewardRead_keeps) | (with_reducible apply State.command_keeps) | (fail_if_no_progress (with_reducible refine Keeps.upd ?_)) | (with_reducible apply Keeps.ite) | split | (intro _ _ _) | (intro _ _) | (with_reducible refine Keeps.snd (by with_reducible assumption) ?_) | (with_reducible refine Keeps.fst (by with_reducible assumption) ?_) | (with_reducible refine Keeps.snd2 (by with_reducible assumption) ?_) | (with_reducible refine Keeps.snd3 (by with_reducible assumption) ?_) | dsimp only

theorem doOptionRead_keeps {s₀ : State} {s : State}  (h : CmdHdr) (off : Nat) (len : Nat)  (hk : Keeps s₀ s) :
    Keeps s₀ (doOptionRead h off len s ) := by
  unfold doOptionRead
  try dsimp only
  repeat' first | (with_reducible assumption) | with_reducible exact Keeps.refl _ | (with_reducible apply State.respond_keeps) | (with_reducible apply State.command_keeps) | (fail_if_no_progress (with_reducible refine Keeps.upd ?_)) | (with_reducible apply Keeps.ite) | split | (intro _ _ _) | (intro _ _) | dsimp only

end Sys2Proof.Machine
end

