-- ==== Sys2Proof/Laws/KeepsTowpath.lean ====
section
/-! SUPPORT. What the operations of Sys2Proof/Machine/Towpath.lean keep. -/

set_option linter.all false

namespace Sys2Proof.Machine

theorem State.towRelay_keeps {s₀ : State} {s : State}  (f : Frame) (ty : Nat) (home : Bool)  (hk : Keeps s₀ s) :
    Keeps s₀ (State.towRelay s f ty home ) := by
  unfold State.towRelay
  try dsimp only
  repeat' first | (with_reducible assumption) | with_reducible exact Keeps.refl _ | (with_reducible apply State.towSendFrom_keeps) | (with_reducible apply State.count_keeps) | (with_reducible apply Keeps.ite) | split | (intro _ _ _) | (intro _ _) | dsimp only

theorem State.towTake_keeps {s₀ : State} {s : State}  (f : Frame) (take : State → State)  (hk : Keeps s₀ s) (htake : ∀ t , Keeps s₀ t → Keeps s₀ (take t )) :
    Keeps s₀ (State.towTake s f take ) := by
  unfold State.towTake
  try dsimp only
  repeat' first | (with_reducible assumption) | with_reducible exact Keeps.refl _ | (with_reducible apply htake) | (with_reducible apply State.towReply_keeps) | (with_reducible apply Keeps.ite) | split | (intro _ _ _) | (intro _ _) | dsimp only

theorem doTowAck_keeps {s₀ : State} {s : State}  (out : Bool) (lseq : Nat)  (hk : Keeps s₀ s) :
    Keeps s₀ (doTowAck out lseq s ) := by
  unfold doTowAck
  try dsimp only
  repeat' first | (with_reducible assumption) | with_reducible exact Keeps.refl _ | (with_reducible apply State.setTowLink_keeps) | (with_reducible apply State.towDrain_keeps) | (fail_if_no_progress (with_reducible refine Keeps.upd ?_)) | split | (intro _ _ _) | (intro _ _) | dsimp only

theorem State.towReport_keeps {s₀ : State} {s : State}  (code : Nat) (before : Nat) (after : Nat)  (hk : Keeps s₀ s) :
    Keeps s₀ (State.towReport s code before after ) := by
  unfold State.towReport
  try dsimp only
  repeat' first | (with_reducible assumption) | with_reducible exact Keeps.refl _ | (with_reducible apply State.notice_keeps) | (with_reducible apply State.towSend_keeps) | split | (intro _ _ _) | (intro _ _) | (with_reducible refine Keeps.snd (by with_reducible assumption) ?_) | (with_reducible refine Keeps.fst (by with_reducible assumption) ?_) | (with_reducible refine Keeps.snd2 (by with_reducible assumption) ?_) | (with_reducible refine Keeps.snd3 (by with_reducible assumption) ?_) | dsimp only

theorem State.addBreak_keeps {s₀ : State} {s : State}  (b : Nat) (after : Nat)  (hk : Keeps s₀ s) :
    Keeps s₀ (State.addBreak s b after ) := by
  unfold State.addBreak
  try dsimp only
  repeat' first | (with_reducible assumption) | with_reducible exact Keeps.refl _ | (with_reducible apply State.flag_keeps) | (with_reducible apply State.notice_keeps) | (fail_if_no_progress (with_reducible refine Keeps.upd ?_)) | (with_reducible apply Keeps.ite) | split | (intro _ _ _) | (intro _ _) | (with_reducible refine Keeps.snd (by with_reducible assumption) ?_) | (with_reducible refine Keeps.fst (by with_reducible assumption) ?_) | (with_reducible refine Keeps.snd2 (by with_reducible assumption) ?_) | (with_reducible refine Keeps.snd3 (by with_reducible assumption) ?_) | dsimp only

theorem State.endBreak_keeps {s₀ : State} {s : State}  (b : Nat)  (hk : Keeps s₀ s) :
    Keeps s₀ (State.endBreak s b ) := by
  unfold State.endBreak
  try dsimp only
  repeat' first | (with_reducible assumption) | with_reducible exact Keeps.refl _ | (with_reducible apply State.notice_keeps) | (with_reducible apply State.fset_keeps) | (fail_if_no_progress (with_reducible refine Keeps.upd ?_)) | (with_reducible apply Keeps.ite) | split | (intro _ _ _) | (intro _ _) | (with_reducible refine Keeps.snd (by with_reducible assumption) ?_) | (with_reducible refine Keeps.fst (by with_reducible assumption) ?_) | (with_reducible refine Keeps.snd2 (by with_reducible assumption) ?_) | (with_reducible refine Keeps.snd3 (by with_reducible assumption) ?_) | dsimp only

theorem State.enumDone_keeps {s₀ : State} {s : State}  (next : Nat) (ov : Bool)  (hk : Keeps s₀ s) :
    Keeps s₀ (State.enumDone s next ov ) := by
  unfold State.enumDone
  try dsimp only
  repeat' first | (with_reducible assumption) | with_reducible exact Keeps.refl _ | (with_reducible apply ih) | (with_reducible apply State.notice_keeps) | (with_reducible apply State.finishWork_keeps) | (with_reducible apply State.fset_keeps) | (with_reducible apply State.flag_keeps) | (fail_if_no_progress (with_reducible refine Keeps.upd ?_)) | split | (intro _ _ _) | (intro _ _) | (with_reducible refine Keeps.snd (by with_reducible assumption) ?_) | (with_reducible refine Keeps.fst (by with_reducible assumption) ?_) | (with_reducible refine Keeps.snd2 (by with_reducible assumption) ?_) | (with_reducible refine Keeps.snd3 (by with_reducible assumption) ?_) | dsimp only

theorem State.towDown_keeps {s₀ : State} {s : State}  (out : Bool)  (hk : Keeps s₀ s) :
    Keeps s₀ (State.towDown s out ) := by
  unfold State.towDown
  try dsimp only
  repeat' first | (with_reducible assumption) | with_reducible exact Keeps.refl _ | (with_reducible apply State.count_keeps) | (with_reducible apply State.addBreak_keeps) | (with_reducible apply State.enumDone_keeps) | (with_reducible apply State.fset_keeps) | (with_reducible apply State.towReport_keeps) | (with_reducible apply State.setTowLink_keeps) | (with_reducible apply Keeps.ite) | split | (intro _ _ _) | (intro _ _) | (with_reducible refine Keeps.snd (by with_reducible assumption) ?_) | (with_reducible refine Keeps.fst (by with_reducible assumption) ?_) | (with_reducible refine Keeps.snd2 (by with_reducible assumption) ?_) | (with_reducible refine Keeps.snd3 (by with_reducible assumption) ?_) | dsimp only

theorem doTowLinkDown_keeps {s₀ : State} {s : State}  (out : Bool)  (hk : Keeps s₀ s) :
    Keeps s₀ (doTowLinkDown out s ) := by
  unfold doTowLinkDown
  try dsimp only
  repeat' first | (with_reducible assumption) | with_reducible exact Keeps.refl _ | (with_reducible apply State.towDown_keeps) | split | (intro _ _ _) | (intro _ _) | dsimp only

theorem State.sendRejoin_keeps {s₀ : State} {s : State}    (hk : Keeps s₀ s) :
    Keeps s₀ (State.sendRejoin s ) := by
  unfold State.sendRejoin
  try dsimp only
  repeat' first | (with_reducible assumption) | with_reducible exact Keeps.refl _ | (with_reducible apply State.towSend_keeps) | (fail_if_no_progress (with_reducible refine Keeps.upd ?_)) | (with_reducible apply Keeps.ite) | split | (intro _ _ _) | (intro _ _) | dsimp only

theorem State.towMended_keeps {s₀ : State} {s : State}  (out : Bool)  (hk : Keeps s₀ s) :
    Keeps s₀ (State.towMended s out ) := by
  unfold State.towMended
  try dsimp only
  repeat' first | (with_reducible assumption) | with_reducible exact Keeps.refl _ | (with_reducible apply State.endBreak_keeps) | (with_reducible apply State.enumDone_keeps) | (with_reducible apply State.towReport_keeps) | (with_reducible apply Keeps.ite) | split | (intro _ _ _) | (intro _ _) | (with_reducible refine Keeps.snd (by with_reducible assumption) ?_) | (with_reducible refine Keeps.fst (by with_reducible assumption) ?_) | (with_reducible refine Keeps.snd2 (by with_reducible assumption) ?_) | (with_reducible refine Keeps.snd3 (by with_reducible assumption) ?_) | dsimp only

theorem doTowLinkTrained_keeps {s₀ : State} {s : State}  (out : Bool) (xswap : Bool) (revd : Bool)  (hk : Keeps s₀ s) :
    Keeps s₀ (doTowLinkTrained out xswap revd s ) := by
  unfold doTowLinkTrained
  try dsimp only
  repeat' first | (with_reducible assumption) | with_reducible exact Keeps.refl _ | (with_reducible apply State.towMended_keeps) | (with_reducible apply State.notice_keeps) | (with_reducible apply State.fset_keeps) | (with_reducible apply State.flag_keeps) | (with_reducible apply State.sendRejoin_keeps) | (with_reducible apply Keeps.ite) | split | (intro _ _ _) | (intro _ _) | (with_reducible refine Keeps.snd (by with_reducible assumption) ?_) | (with_reducible refine Keeps.fst (by with_reducible assumption) ?_) | (with_reducible refine Keeps.snd2 (by with_reducible assumption) ?_) | (with_reducible refine Keeps.snd3 (by with_reducible assumption) ?_) | dsimp only

theorem doTowNak_keeps {s₀ : State} {s : State}  (out : Bool) (lseq : Nat)  (hk : Keeps s₀ s) :
    Keeps s₀ (doTowNak out lseq s ) := by
  unfold doTowNak
  try dsimp only
  repeat' first | (with_reducible assumption) | with_reducible exact Keeps.refl _ | (with_reducible apply State.count_keeps) | (with_reducible apply State.towDown_keeps) | (with_reducible apply State.setTowLink_keeps) | (with_reducible apply State.towPut_keeps) | (fail_if_no_progress (with_reducible refine Keeps.upd ?_)) | (with_reducible apply Keeps.ite) | split | (intro _ _ _) | (intro _ _) | dsimp only

theorem State.relayedAnswer_keeps {s₀ : State} {s : State}  (f : Frame) (bc : Bool)  (hk : Keeps s₀ s) :
    Keeps s₀ (State.relayedAnswer s f bc ) := by
  unfold State.relayedAnswer
  try dsimp only
  repeat' first | (with_reducible assumption) | with_reducible exact Keeps.refl _ | (with_reducible apply State.respondFrom_keeps) | (with_reducible apply State.answerAborts_keeps) | (fail_if_no_progress (with_reducible refine Keeps.upd ?_)) | (with_reducible apply Keeps.ite) | split | (intro _ _ _) | (intro _ _) | (with_reducible refine Keeps.snd (by with_reducible assumption) ?_) | (with_reducible refine Keeps.fst (by with_reducible assumption) ?_) | (with_reducible refine Keeps.snd2 (by with_reducible assumption) ?_) | (with_reducible refine Keeps.snd3 (by with_reducible assumption) ?_) | dsimp only

theorem doTowpathMessageFrame_keeps {s₀ : State} {s : State}  (f : Frame) (isResponse : Bool) (bc : Bool)  (hk : Keeps s₀ s) :
    Keeps s₀ (doTowpathMessageFrame f isResponse bc s ) := by
  unfold doTowpathMessageFrame
  try dsimp only
  repeat' first | (with_reducible assumption) | with_reducible exact Keeps.refl _ | (with_reducible apply State.towRelay_keeps) | (with_reducible apply State.relayedAnswer_keeps) | (with_reducible apply State.towTake_keeps) | (with_reducible apply Keeps.ite) | split | (intro _ _ _) | (intro _ _) | dsimp only

theorem doTowpathNoticeFrame_keeps {s₀ : State} {s : State}  (f : Frame) (code : Nat) (shared : List HostId)  (hk : Keeps s₀ s) :
    Keeps s₀ (doTowpathNoticeFrame f code shared s ) := by
  unfold doTowpathNoticeFrame
  try dsimp only
  repeat' first | (with_reducible assumption) | with_reducible exact Keeps.refl _ | (with_reducible apply State.addBreak_keeps) | (with_reducible apply State.notice_keeps) | (with_reducible apply State.towRelay_keeps) | (with_reducible apply State.endBreak_keeps) | (with_reducible apply State.deliverAll_keeps) | (with_reducible apply State.towTake_keeps) | (with_reducible apply Keeps.ite) | split | (intro _ _ _) | (intro _ _) | dsimp only

theorem State.startEnum_keeps {s₀ : State} {s : State}    (hk : Keeps s₀ s) :
    Keeps s₀ (State.startEnum s ) := by
  unfold State.startEnum
  try dsimp only
  repeat' first | (with_reducible assumption) | with_reducible exact Keeps.refl _ | (with_reducible apply State.enumDone_keeps) | (with_reducible apply State.fset_keeps) | (with_reducible apply State.towSend_keeps) | (fail_if_no_progress (with_reducible refine Keeps.upd ?_)) | split | (intro _ _ _) | (intro _ _) | (with_reducible refine Keeps.snd (by with_reducible assumption) ?_) | (with_reducible refine Keeps.fst (by with_reducible assumption) ?_) | (with_reducible refine Keeps.snd2 (by with_reducible assumption) ?_) | (with_reducible refine Keeps.snd3 (by with_reducible assumption) ?_) | dsimp only

theorem doEnumerationStart_keeps {s₀ : State} {s : State}    (hk : Keeps s₀ s) :
    Keeps s₀ (doEnumerationStart s ) := by
  unfold doEnumerationStart
  try dsimp only
  repeat' first | (with_reducible assumption) | with_reducible exact Keeps.refl _ | (with_reducible apply State.startEnum_keeps) | (with_reducible apply Keeps.ite) | split | (intro _ _ _) | (intro _ _) | dsimp only

theorem State.forwardToken_keeps {s₀ : State} {s : State}  (t : EnumToken)  (hk : Keeps s₀ s) :
    Keeps s₀ (State.forwardToken s t ) := by
  unfold State.forwardToken
  try dsimp only
  repeat' first | (with_reducible assumption) | with_reducible exact Keeps.refl _ | (with_reducible apply State.enumDone_keeps) | (with_reducible apply State.fset_keeps) | (with_reducible apply State.flag_keeps) | (with_reducible apply State.towSend_keeps) | (fail_if_no_progress (with_reducible refine Keeps.upd ?_)) | (with_reducible apply Keeps.ite) | split | (intro _ _ _) | (intro _ _) | (with_reducible refine Keeps.snd (by with_reducible assumption) ?_) | (with_reducible refine Keeps.fst (by with_reducible assumption) ?_) | (with_reducible refine Keeps.snd2 (by with_reducible assumption) ?_) | (with_reducible refine Keeps.snd3 (by with_reducible assumption) ?_) | dsimp only

theorem State.defer__keeps {s₀ : State} {s : State}  (other : Nat)  (hk : Keeps s₀ s) :
    Keeps s₀ (State.defer_ s other ) := by
  unfold State.defer_
  try dsimp only
  repeat' first | (with_reducible assumption) | with_reducible exact Keeps.refl _ | (with_reducible apply State.notice_keeps) | (with_reducible apply State.finishWork_keeps) | (with_reducible apply State.fset_keeps) | (with_reducible apply State.flag_keeps) | (fail_if_no_progress (with_reducible refine Keeps.upd ?_)) | split | (intro _ _ _) | (intro _ _) | (with_reducible refine Keeps.snd (by with_reducible assumption) ?_) | (with_reducible refine Keeps.fst (by with_reducible assumption) ?_) | (with_reducible refine Keeps.snd2 (by with_reducible assumption) ?_) | (with_reducible refine Keeps.snd3 (by with_reducible assumption) ?_) | dsimp only

theorem State.holdToken_keeps {s₀ : State} {s : State}  (t : EnumToken)  (hk : Keeps s₀ s) :
    Keeps s₀ (State.holdToken s t ) := by
  unfold State.holdToken
  try dsimp only
  repeat' first | (with_reducible assumption) | with_reducible exact Keeps.refl _ | (with_reducible apply State.forwardToken_keeps) | (fail_if_no_progress (with_reducible refine Keeps.upd ?_)) | (with_reducible apply Keeps.ite) | split | (intro _ _ _) | (intro _ _) | dsimp only

theorem State.takeToken_keeps {s₀ : State} {s : State}  (t : EnumToken)  (hk : Keeps s₀ s) :
    Keeps s₀ (State.takeToken s t ) := by
  unfold State.takeToken
  try dsimp only
  repeat' first | (with_reducible assumption) | with_reducible exact Keeps.refl _ | (with_reducible apply State.holdToken_keeps) | (with_reducible apply State.enumDone_keeps) | (with_reducible apply State.defer__keeps) | (with_reducible apply Keeps.ite) | split | (intro _ _ _) | (intro _ _) | dsimp only

theorem doTowEnum_keeps {s₀ : State} {s : State}  (f : Frame) (next : Nat) (ovf : Bool)  (hk : Keeps s₀ s) :
    Keeps s₀ (doTowEnum f next ovf s ) := by
  unfold doTowEnum
  try dsimp only
  repeat' first | (with_reducible assumption) | with_reducible exact Keeps.refl _ | (with_reducible apply State.towTake_keeps) | (with_reducible apply State.takeToken_keeps) | split | (intro _ _ _) | (intro _ _) | dsimp only

theorem doEnumTokenForward_keeps {s₀ : State} {s : State}    (hk : Keeps s₀ s) :
    Keeps s₀ (doEnumTokenForward s ) := by
  unfold doEnumTokenForward
  try dsimp only
  repeat' first | (with_reducible assumption) | with_reducible exact Keeps.refl _ | (with_reducible apply State.forwardToken_keeps) | (with_reducible apply Keeps.ite) | split | (intro _ _ _) | (intro _ _) | dsimp only

theorem State.noteAck_keeps {s₀ : State} {s : State}  (a : Nat) (serial : Nat)  (hk : Keeps s₀ s) :
    Keeps s₀ (State.noteAck s a serial ) := by
  unfold State.noteAck
  try dsimp only
  repeat' first | (with_reducible assumption) | with_reducible exact Keeps.refl _ | (fail_if_no_progress (with_reducible refine Keeps.upd ?_)) | split | (intro _ _ _) | (intro _ _) | (with_reducible refine Keeps.snd (by with_reducible assumption) ?_) | (with_reducible refine Keeps.fst (by with_reducible assumption) ?_) | (with_reducible refine Keeps.snd2 (by with_reducible assumption) ?_) | (with_reducible refine Keeps.snd3 (by with_reducible assumption) ?_) | dsimp only

theorem doEnumAck_keeps {s₀ : State} {s : State}  (f : Frame)  (hk : Keeps s₀ s) :
    Keeps s₀ (doEnumAck f s ) := by
  unfold doEnumAck
  try dsimp only
  repeat' first | (with_reducible assumption) | with_reducible exact Keeps.refl _ | (with_reducible apply State.noteAck_keeps) | (with_reducible apply State.towRelay_keeps) | (with_reducible apply State.towTake_keeps) | (with_reducible apply Keeps.ite) | split | (intro _ _ _) | (intro _ _) | dsimp only

theorem doEnumTimeout_keeps {s₀ : State} {s : State}    (hk : Keeps s₀ s) :
    Keeps s₀ (doEnumTimeout s ) := by
  unfold doEnumTimeout
  try dsimp only
  repeat' first | (with_reducible assumption) | with_reducible exact Keeps.refl _ | (with_reducible apply State.notice_keeps) | (with_reducible apply State.finishWork_keeps) | (with_reducible apply State.fset_keeps) | (with_reducible apply Keeps.foldl) | (with_reducible apply Keeps.foldl_fst) | (with_reducible apply Keeps.foldl_snd) | (fail_if_no_progress (with_reducible refine Keeps.upd ?_)) | (with_reducible apply Keeps.ite) | split | (intro _ _ _) | (intro _ _) | (with_reducible refine Keeps.snd (by with_reducible assumption) ?_) | (with_reducible refine Keeps.fst (by with_reducible assumption) ?_) | (with_reducible refine Keeps.snd2 (by with_reducible assumption) ?_) | (with_reducible refine Keeps.snd3 (by with_reducible assumption) ?_) | dsimp only

theorem doRejoin_keeps {s₀ : State} {s : State}  (f : Frame)  (hk : Keeps s₀ s) :
    Keeps s₀ (doRejoin f s ) := by
  unfold doRejoin
  try dsimp only
  repeat' first | (with_reducible assumption) | with_reducible exact Keeps.refl _ | (with_reducible apply State.startEnum_keeps) | (with_reducible apply State.towRelay_keeps) | (with_reducible apply State.towTake_keeps) | (fail_if_no_progress (with_reducible refine Keeps.upd ?_)) | (with_reducible apply Keeps.ite) | split | (intro _ _ _) | (intro _ _) | dsimp only

theorem doChainStatus_keeps {s₀ : State} {s : State}  (h : CmdHdr)  (hk : Keeps s₀ s) :
    Keeps s₀ (doChainStatus h s ) := by
  unfold doChainStatus
  try dsimp only
  repeat' first | (with_reducible assumption) | with_reducible exact Keeps.refl _ | (with_reducible apply State.respond_keeps) | (with_reducible apply State.enumDone_keeps) | (with_reducible apply State.command_keeps) | (with_reducible apply Keeps.foldl) | (with_reducible apply Keeps.foldl_fst) | (with_reducible apply Keeps.foldl_snd) | split | (intro _ _ _) | (intro _ _) | dsimp only

theorem doChainEnum_keeps {s₀ : State} {s : State}  (h : CmdHdr)  (hk : Keeps s₀ s) :
    Keeps s₀ (doChainEnum h s ) := by
  unfold doChainEnum
  try dsimp only
  repeat' first | (with_reducible assumption) | with_reducible exact Keeps.refl _ | (with_reducible apply State.respond_keeps) | (with_reducible apply State.startEnum_keeps) | (with_reducible apply State.await_keeps) | (with_reducible apply State.command_keeps) | (with_reducible apply Keeps.ite) | split | (intro _ _ _) | (intro _ _) | dsimp only

theorem doSyncExchange_keeps {s₀ : State} {s : State}    (hk : Keeps s₀ s) :
    Keeps s₀ (doSyncExchange s ) := by
  unfold doSyncExchange
  try dsimp only
  repeat' first | (with_reducible assumption) | with_reducible exact Keeps.refl _ | (with_reducible apply State.enumDone_keeps) | (with_reducible apply State.towSend_keeps) | (with_reducible apply Keeps.ite) | split | (intro _ _ _) | (intro _ _) | dsimp only

theorem doSyncReq_keeps {s₀ : State} {s : State}  (f : Frame) (t2 : Int) (t3 : Int)  (hk : Keeps s₀ s) :
    Keeps s₀ (doSyncReq f t2 t3 s ) := by
  unfold doSyncReq
  try dsimp only
  repeat' first | (with_reducible assumption) | with_reducible exact Keeps.refl _ | (with_reducible apply State.towTake_keeps) | (with_reducible apply State.towSend_keeps) | split | (intro _ _ _) | (intro _ _) | dsimp only

theorem State.showTheta_keeps {s₀ : State} {s : State}  (th : Int)  (hk : Keeps s₀ s) :
    Keeps s₀ (State.showTheta s th ) := by
  unfold State.showTheta
  try dsimp only
  repeat' first | (with_reducible assumption) | with_reducible exact Keeps.refl _ | (with_reducible apply State.fset_keeps) | split | (intro _ _ _) | (intro _ _) | dsimp only

theorem State.correct_keeps {s₀ : State} {s : State}  (th : Int)  (hk : Keeps s₀ s) :
    Keeps s₀ (State.correct s th ) := by
  unfold State.correct
  try dsimp only
  repeat' first | (with_reducible assumption) | with_reducible exact Keeps.refl _ | (fail_if_no_progress (with_reducible refine Keeps.upd ?_)) | (with_reducible apply Keeps.ite) | split | (intro _ _ _) | (intro _ _) | (with_reducible refine Keeps.snd (by with_reducible assumption) ?_) | (with_reducible refine Keeps.fst (by with_reducible assumption) ?_) | (with_reducible refine Keeps.snd2 (by with_reducible assumption) ?_) | (with_reducible refine Keeps.snd3 (by with_reducible assumption) ?_) | dsimp only

theorem State.measured_keeps {s₀ : State} {s : State}  (th : Int)  (hk : Keeps s₀ s) :
    Keeps s₀ (State.measured s th ) := by
  unfold State.measured
  try dsimp only
  repeat' first | (with_reducible assumption) | with_reducible exact Keeps.refl _ | (with_reducible apply State.correct_keeps) | (with_reducible apply State.showTheta_keeps) | (with_reducible apply State.fset_keeps) | (with_reducible apply State.flag_keeps) | (with_reducible apply State.noticeLim_keeps) | (fail_if_no_progress (with_reducible refine Keeps.upd ?_)) | (with_reducible apply Keeps.ite) | split | (intro _ _ _) | (intro _ _) | (with_reducible refine Keeps.snd (by with_reducible assumption) ?_) | (with_reducible refine Keeps.fst (by with_reducible assumption) ?_) | (with_reducible refine Keeps.snd2 (by with_reducible assumption) ?_) | (with_reducible refine Keeps.snd3 (by with_reducible assumption) ?_) | dsimp only

theorem State.chainSynced_keeps {s₀ : State} {s : State}  (th : Nat)  (hk : Keeps s₀ s) :
    Keeps s₀ (State.chainSynced s th ) := by
  unfold State.chainSynced
  try dsimp only
  repeat' first | (with_reducible assumption) | with_reducible exact Keeps.refl _ | (with_reducible apply State.notice_keeps) | (with_reducible apply State.enumDone_keeps) | (with_reducible apply State.flag_keeps) | (fail_if_no_progress (with_reducible refine Keeps.upd ?_)) | (with_reducible apply Keeps.ite) | split | (intro _ _ _) | (intro _ _) | (with_reducible refine Keeps.snd (by with_reducible assumption) ?_) | (with_reducible refine Keeps.fst (by with_reducible assumption) ?_) | (with_reducible refine Keeps.snd2 (by with_reducible assumption) ?_) | (with_reducible refine Keeps.snd3 (by with_reducible assumption) ?_) | dsimp only

theorem doSyncRsp_keeps {s₀ : State} {s : State}  (f : Frame) (t1 : Int) (t4 : Int) (worst : Nat)  (hk : Keeps s₀ s) :
    Keeps s₀ (doSyncRsp f t1 t4 worst s ) := by
  unfold doSyncRsp
  try dsimp only
  repeat' first | (with_reducible assumption) | with_reducible exact Keeps.refl _ | (with_reducible apply State.chainSynced_keeps) | (with_reducible apply State.towTake_keeps) | (with_reducible apply State.measured_keeps) | (with_reducible apply Keeps.ite) | split | (intro _ _ _) | (intro _ _) | dsimp only

theorem State.resetTow_keeps {s₀ : State} {s : State}    (hk : Keeps s₀ s) :
    Keeps s₀ (State.resetTow s ) := by
  unfold State.resetTow
  try dsimp only
  repeat' first | (with_reducible assumption) | with_reducible exact Keeps.refl _ | (with_reducible apply State.resetCsr_keeps) | (fail_if_no_progress (with_reducible refine Keeps.upd ?_)) | split | (intro _ _ _) | (intro _ _) | (with_reducible refine Keeps.snd (by with_reducible assumption) ?_) | (with_reducible refine Keeps.fst (by with_reducible assumption) ?_) | (with_reducible refine Keeps.snd2 (by with_reducible assumption) ?_) | (with_reducible refine Keeps.snd3 (by with_reducible assumption) ?_) | dsimp only

theorem State.abortRelayed_keeps {s₀ : State} {s : State}    (hk : Keeps s₀ s) :
    Keeps s₀ (State.abortRelayed s ) := by
  unfold State.abortRelayed
  try dsimp only
  repeat' first | (with_reducible assumption) | with_reducible exact Keeps.refl _ | (with_reducible apply State.finishWork_keeps) | (with_reducible apply State.respond_keeps) | (with_reducible apply Keeps.foldl) | (with_reducible apply Keeps.foldl_fst) | (with_reducible apply Keeps.foldl_snd) | split | (intro _ _ _) | (intro _ _) | dsimp only

theorem doResetTowpath_keeps {s₀ : State} {s : State}  (h : CmdHdr)  (hk : Keeps s₀ s) :
    Keeps s₀ (doResetTowpath h s ) := by
  unfold doResetTowpath
  try dsimp only
  repeat' first | (with_reducible assumption) | with_reducible exact Keeps.refl _ | (with_reducible apply State.respond_keeps) | (with_reducible apply State.notice_keeps) | (with_reducible apply State.resetTow_keeps) | (with_reducible apply State.towSend_keeps) | (with_reducible apply State.abortRelayed_keeps) | (with_reducible apply State.command_keeps) | (with_reducible apply Keeps.ite) | split | (intro _ _ _) | (intro _ _) | (with_reducible refine Keeps.snd (by with_reducible assumption) ?_) | (with_reducible refine Keeps.fst (by with_reducible assumption) ?_) | (with_reducible refine Keeps.snd2 (by with_reducible assumption) ?_) | (with_reducible refine Keeps.snd3 (by with_reducible assumption) ?_) | dsimp only

theorem doResetT_keeps {s₀ : State} {s : State}  (f : Frame)  (hk : Keeps s₀ s) :
    Keeps s₀ (doResetT f s ) := by
  unfold doResetT
  try dsimp only
  repeat' first | (with_reducible assumption) | with_reducible exact Keeps.refl _ | (with_reducible apply State.towRelay_keeps) | (with_reducible apply State.resetTow_keeps) | (with_reducible apply State.flag_keeps) | (with_reducible apply State.towTake_keeps) | (with_reducible apply Keeps.ite) | split | (intro _ _ _) | (intro _ _) | dsimp only

end Sys2Proof.Machine
end

