-- ==== Sys2Proof/Laws/Windows.lean ====
section
/-! SUPPORT. Laws of the register windows (03 R104 to R108): copying registers between windows, the trap entry, and saving a
window to the scratch. -/

namespace Sys2Proof.Machine

theorem State.copyRegs_rest (s : State) (d e wa a wb b n : Nat) :
    s.copyRegs d e wa a wb b n = { s with engReg := (s.copyRegs d e wa a wb b n).engReg } := by
  induction n with
  | zero => rfl
  | succ n ih => unfold State.copyRegs; rw [State.setRegIn_rest, ih]

/-- A copy of registers writes only its targets. -/
theorem State.copyRegs_others (s : State) (d e wa a wb b n k : Nat) (h : ∀ i < n, k ≠ regKey d e wb (b + i)) :
    SMap.get 0 (s.copyRegs d e wa a wb b n).engReg k = SMap.get 0 s.engReg k := by
  induction n with
  | zero => rfl
  | succ n ih =>
    unfold State.copyRegs
    rw [State.setRegIn_others _ _ _ _ _ _ _ (.inr (h n (by omega))), ih (fun i hi => h i (by omega))]

/-- A copy of registers between two windows that do not meet. -/
theorem State.copyRegs_get (s : State) (d e wa a wb b n : Nat) (hb : b + n ≤ 16)
    {i : Nat} (hi : i < n) : (s.copyRegs d e wa a wb b n).regIn d e wb (b + i) = s.regIn d e wa (a + i) := by
  induction n with
  | zero => omega
  | succ n ih =>
    have key : ∀ k, k ≠ regKey d e wb (b + n) → SMap.get 0 (s.copyRegs d e wa a wb b (n + 1)).engReg k =
        SMap.get 0 (s.copyRegs d e wa a wb b n).engReg k := by
      intro k hk; rw [State.copyRegs]; exact State.setRegIn_others _ _ _ _ _ _ _ (.inr hk)
    by_cases h : i = n
    · subst h
      unfold State.copyRegs
      rw [State.regIn_setRegIn_same, if_neg (by omega)]
    · have := ih (by omega) (by omega)
      rw [← this]; unfold State.regIn
      rw [key _ (by unfold regKey; split <;> split <;> omega)]

theorem State.freshWindow_rest (s : State) (d e : Nat) :
    s.freshWindow d e = { s with engReg := (s.freshWindow d e).engReg, draws := (s.freshWindow d e).draws } := by
  unfold State.freshWindow
  generalize List.range 16 = l
  induction l generalizing s with
  | nil => rfl
  | cons v l ih =>
    simp only [List.foldl_cons]
    rw [ih]; unfold State.draw; dsimp only
    rw [State.setRegIn_rest]

/-- A trap leaves every register outside window 7 alone. -/
theorem State.freshWindow_others (s : State) (d e k : Nat) (h : ∀ i < 16, k ≠ regKey d e 7 i) :
    SMap.get 0 (s.freshWindow d e).engReg k = SMap.get 0 s.engReg k := by
  unfold State.freshWindow
  have h' : ∀ i ∈ List.range 16, k ≠ regKey d e 7 i := by intro i hi; exact h i (List.mem_range.1 hi)
  revert h'
  generalize List.range 16 = l
  intro h'
  induction l generalizing s with
  | nil => rfl
  | cons v l ih =>
    simp only [List.foldl_cons]
    rw [ih _ (fun i hi => h' i (by simp [hi])), State.setRegIn_others _ _ _ _ _ _ _ (.inr (h' v (by simp)))]
    rfl

end Sys2Proof.Machine
end

