-- ==== Sys2Proof/WellFormed.lean ====
section
/-! DEFINITION. Which commands can arrive: the facts the operand types do not already say. A meaning is total on every
command; a command outside these bounds is none that the spec's interfaces can deliver. -/

namespace Sys2Proof

/-- An internal message has at most 8 data beats (01 R34). -/
def Msg.wellFormed (m : Msg) : Bool := m.beats.length ≤ 8

/-- LENGTH is a 16-bit field, and a command has no more payload bytes than it can count (09 Table 09-2, R303). -/
def CmdHdr.wellFormed (h : CmdHdr) : Bool := h.length < 65536 && h.payload.length < 65536

/-- The header of a command that a host sends, where the row is one. -/
def Instr.header : Instr → Option CmdHdr
  | .getInfo h | .getStatus h | .abort h _ | .noticeSubscribe h _ | .noticeStats h | .csrRead h _ _ | .csrWrite h _ _ _
  | .bankRead h _ _ | .bankWrite h _ _ _ | .frameRead h _ _ | .flashRead h _ _ | .loadBegin h _ _ | .loadData h _ _
  | .loadEnd h _ | .swap h _ _ | .reachReload h _ _ | .optionRead h _ _ | .optionWrite h _ _ | .uflashErase h _ _
  | .uflashProgram h _ _ | .lcTransition h _ _ | .debugCert h _ | .otpWrite h _ _ | .keyRevoke h _ _ _
  | .resetHot h _ | .resetDie h _ | .resetReach h _ _ | .resetEng h _ _ | .resetSteward h | .resetTowpath h
  | .powerStateStandby h _ | .powerStateRun h _ | .bistRun h _ _ _ _ _ _ _ | .chainStatus h | .chainEnum h
  | .unlistedOpcode h _ => some h
  | _ => none

/-- A command that can arrive. -/
def Instr.wellFormed (i : Instr) : Bool :=
  (match i.header with | some h => h.wellFormed | none => true) &&
  match i with
  | .gatewayFlitReceive _ f => f.msgs.all (fun m => m.msg.wellFormed)
  | .culvertBeatArrive _ _ errs => errs.length ≤ 9 && errs.all (fun e => e.length ≤ 8)
  | .allotRefill _ xs => xs.length ≠ 0
  | .literal _ _ groups => groups.length ≤ 32768 && groups.all (fun g => g.1.length == 64)
  | .handlersSection _ _ first words _ => first < 65536 && words.length < 65536
  | .towEnum f next ovf => f.body.head? == some next && (f.body.drop 1).head?.any (fun b => (b != 0) == ovf)
  | .loadEnd h pay | .swap h _ pay | .lcTransition h _ pay | .debugCert h pay | .keyRevoke h _ _ pay => pay == h.payload
  | _ => true

end Sys2Proof
end

