-- ==== Sys2Proof/Tests/Slice0.lean ====
section
/-! SUPPORT. The model's own tests: for every statement that has hypotheses, a state and operands that meet them; the spec's
worked examples, each one step or one value; and the commands that WellFormed refuses. -/

namespace Sys2Proof.Tests

open Machine

set_option Elab.async false

/-! ## States -/

/-- Every die on. -/
def on : State := State.reset.fset Csr.pwrSts PwrSts.dieOn 0xFF

/-- An instruction word: operation, two register codes, and the low 16 bits. -/
def asm (op rd rs1 low : Nat) : Word := BitVec.ofNat 32 (op * 2 ^ 26 + rd * 2 ^ 21 + rs1 * 2 ^ 16 + low)

/-- A handler of slot 5 about to execute the word at index 16. -/
def x0 : Engine := { Engine.reset with running := true, pc := 16, budget := 64, slot := 5, depth := 3, wres := 2 }

def run (w : Word) (x : Engine := x0) : State := (on.setEng 0 0 x).setStoreWord 0 0 16 w

/-- The same with register 1 of its window at `v`, and register 2 at `u`. -/
def runR (w v : Word) (u : Word := 0) (x : Engine := x0) : State := ((run w x).setReg 0 0 1 v).setReg 0 0 2 u

/-- Every reach of every die released, with its write enables. -/
def free (s : State) : State :=
  { (List.range 8).foldl (fun (s : State) d => s.csrSet (Csr.cfgReachSts d) 0) s with held := (List.range 8).map (fun d => (d, 0)), writesOn := (List.range 8).map (fun d => (d, 0xFFFF)) }

/-- A link request of port 0 for the device. -/
def msg (vc dk beats : Nat) : Msg :=
  { ((Msg.blank.w Hd.vc vc).w Hd.dkind dk).w Hd.beats beats with beats := List.replicate beats 0 }

/-! ## The engines' statements: states that meet their hypotheses -/

theorem witness_StepRunsFrontCommand : step { on with pending := [.tapIdcode] } = .next on := rfl

theorem witness_EveryStepKeepsCanonical : (Memory.wf 0 on.scratch ∧ Memory.wf 0 on.bankMem) ∧ ∃ t, step on = .next t :=
  ⟨by decide, _, rfl⟩

theorem witness_IdleCycle :
    on.pending = [] ∧ (0 < on.part.dies ∧ on.dieOn 0 = true ∧ SMap.get 0 on.pllLost 0 = 0 ∧ on.clockOn 0 = true ∧ on.swap = none) ∧
    (∀ k ∈ [1, 1999], let s := { on with ticks := k, pwr := { on.pwr with pwrgood := true } }
     s.pending = [] ∧ s.ticks % 2 = 1 ∧ s.pwr.pwrgood = true ∧ s.dieOn 0 = true ∧ ((s.ticks + 1) % 2000 = 0 ↔ k = 1999)) ∧
    (let s := { on with pllLost := [(7, 1)] }; s.dieOn 7 = true ∧ bitOf (SMap.get 0 s.pllLost 7) 0 = true) ∧
    (let s := { on with pllLost := [(7, 4)] }; bitOf (SMap.get 0 s.pllLost 7) 0 = false ∧ bitOf (SMap.get 0 s.pllLost 7) 2 = true) ∧
    (SMap.find ({ on with meterOld := [(Csr.hgMeter 7 7 3, 0)] } : State).meterOld (Csr.hgMeter 7 7 3)).isSome = true ∧
    State.reset.dieOn 7 = false := by and_intros <;> decide

/-- Die 3 with 63 and with 64 notices waiting, and with an open window. -/
def waits (n : Nat) : State := { on with queues := [(3, List.replicate n (on.item 3 0x0301 []))] }

theorem witness_NoticeQueuesAndRateWindows :
    ((waits 63).waiting 3).length < 64 ∧ 64 ≤ ((waits 64).waiting 3).length ∧
    (let s := { on with windows := [{ code := 0x0301, die := 3, scope := 9, opened := 0 }], ms := [(3, 999999)] }
     ∃ w ∈ s.windows, w.code = 0x0301 ∧ w.die = 3 ∧ w.scope = 9 ∧ s.msOf 3 < w.opened + 1000000) ∧
    (let s := { on with windows := [{ code := 0x0301, die := 3, scope := 9, opened := 0 }], ms := [(3, 1000000)] }
     ∀ w ∈ s.windows, w.code = 0x0301 → w.die = 3 → w.scope = 9 → w.opened + 1000000 ≤ s.msOf 3) := by and_intros <;> decide

theorem witness_EngineArithmetic :
    (∀ r ∈ [(0x01, 1), (0x02, 1), (0x03, 1), (0x04, 1), (0x05, 1), (0x06, 1), (0x07, 1), (0x08, 1), (0x09, 1), (0x0A, 3)],
      let w := asm r.1 23 1 0x1000
      Ins.op w = r.1 ∧ Ins.rd w < 24 ∧ Ins.rs1 w < 24 ∧ Ins.rs2 w < 24 ∧ Ins.fn w = 0 ∧ (run w).Executing 0 0 w r.2) ∧
    (∀ r ∈ [(0x0B, 1, 0xFFFF), (0x0C, 1, 0xFFFF), (0x0D, 1, 0), (0x0E, 1, 0x8000), (0x0F, 1, 31), (0x0F, 1, 63), (0x0F, 1, 95),
        (0x10, 0, 0xFFFF), (0x11, 1, 1023), (0x12, 1, 992)],
      let w := asm r.1 16 r.2.1 r.2.2
      Ins.op w = r.1 ∧ Ins.rd w < 24 ∧ Ins.rs1 w < 24 ∧ (run w).Executing 0 0 w 1) ∧
    (Ins.imm (asm 0x0F 16 1 31) / 32 = 0 ∧ Ins.imm (asm 0x0F 16 1 63) / 32 = 1 ∧ Ins.imm (asm 0x0F 16 1 95) / 32 = 2 ∧
      Ins.imm (asm 0x11 16 1 1023) < 1024 ∧ Ins.imm (asm 0x12 16 1 992) % 32 + (Ins.imm (asm 0x12 16 1 992) / 32 % 32 + 1) ≤ 32) := by
  and_intros <;> decide

/-- CALL 4, RET 4, TRAP and TRET. -/
def call : Word := asm 0x1D 16 0 4095
def ret : Word := asm 0x1E 16 0 0

theorem witness_EngineCallsAndTraps :
    (Ins.op call = 0x1D ∧ Ins.n call = 4 ∧ call.toNat / 2 ^ 12 % 2 ^ 11 = 0) ∧ (Ins.op ret = 0x1E ∧ Ins.n ret = 4 ∧ ret.toNat % 2 ^ 23 = 0) ∧
    (let x := { x0 with depth := 254, wres := 6 }; x.depth < 255 ∧ x.wres < 7 ∧ (run call x).Executing 0 0 call 2) ∧
    (let s := run ret; 0 < (s.eng 0 0).depth ∧ 1 < (s.eng 0 0).wres ∧ (s.reg 0 0 15).toNat ≤ 4095 ∧ s.Executing 0 0 ret 2) ∧
    (let w := asm 0x1F 0 0 255; Ins.op w = 0x1F ∧ Ins.low26 w < 256 ∧ x0.cwp ≠ 7 ∧ (run w).Executing 0 0 w 2) ∧
    (let x := { x0 with wres := 7 }; x.wres = 7 ∧ x.cwp ≠ 7 ∧ (run call x).Executing 0 0 call 2) ∧
    (let x := { x0 with wres := 1 }; 0 < x.depth ∧ x.wres = 1 ∧ x.cwp ≠ 7 ∧ (run ret x).Executing 0 0 ret 2) ∧
    (let w := asm 0x20 0 0 0; let x := { x0 with cwp := 7 }
     Ins.op w = 0x20 ∧ Ins.low26 w = 0 ∧ x.cwp = 7 ∧ (run w x).Executing 0 0 w 2) ∧
    (let x := { x0 with depth := 255 }; x.slot < 1024 ∧ 255 ≤ x.depth ∧ (run call x).Executing 0 0 call 2) ∧
    (let s := (run ret).setReg 0 0 15 4096; 4095 < (s.reg 0 0 15).toNat ∧ s.Executing 0 0 ret 2) ∧
    (let x := { x0 with wres := 7, cwp := 7 }; (run call x).Executing 0 0 call 2 ∧ x.wres = 7 ∧ x.cwp = 7 ∧ x.depth < 255) ∧
    (let x := { x0 with wres := 1, cwp := 7 }; (run ret x).Executing 0 0 ret 2 ∧ ((run ret x).reg 0 0 15).toNat ≤ 4095) ∧
    (let w := asm 0x1F 0 0 0; let x := { x0 with cwp := 7 }; (run w x).Executing 0 0 w 2) := by and_intros <;> decide

theorem witness_EngineWindowSaveRestore :
    (let w := asm 0x22 0 0 0; let x := { x0 with cwp := 7, spp := 0x4000, spl := 0x3FC0 }
     Ins.op w = 0x22 ∧ x.cwp = 7 ∧ (run w x).Executing 0 0 w 8 ∧ Ins.low26 w = 0 ∧ x.spl.toNat + 64 ≤ x.spp.toNat ∧
     x.spp.toNat ≤ 0x4000 ∧ 1 ≤ x.wres ∧ x.wres ≤ 7) ∧
    (let w := asm 0x22 0 0 1; let x := { x0 with cwp := 7, spp := 0x3FC0 }; let s := run w x
     Ins.op w = 0x22 ∧ s.Executing 0 0 w 8 ∧ Ins.low26 w = 1 ∧ x.spp.toNat < s.fget (Csr.engSpill 0 0) EngSpill.top * 64 ∧
     x.spp.toNat + 64 ≤ 0x4000 ∧ x.wres < 7) := by and_intros <;> decide

theorem witness_EngineBranchesAndSpecialRegisters :
    (∀ op ∈ [0x15, 0x18, 0x1A], let w := asm op 1 2 0xFFEF; let s := run w
      Ins.op w = op ∧ Ins.rd w < 24 ∧ Ins.rs1 w < 24 ∧ (16 : Int) + 1 + signedOf 16 (Ins.imm w) = 0 ∧ s.Executing 0 0 w 2 ∧
      s.reg 0 0 1 = s.reg 0 0 2) ∧
    (∀ op ∈ [0x16, 0x17, 0x19], let w := asm op 1 2 4078; let s := runR w 0 1
      (16 : Int) + 1 + signedOf 16 (Ins.imm w) = 4095 ∧ s.Executing 0 0 w 2 ∧ (s.reg 0 0 1).toInt < (s.reg 0 0 2).toInt) ∧
    (∀ c ∈ [0, 1, 2, 3], let w := asm 0x1B c 0 4; Ins.op w = 0x1B ∧ Ins.rd w = c ∧ Ins.rs1 w = 0 ∧ (run w).Executing 0 0 w 2) ∧
    (let x := { x0 with ost := ost 3 true true 0 }; Ost.status.get x.ost ≠ 0 ∧ Ost.poison.get x.ost = 1 ∧ Ost.idle.get x.ost = 1) ∧
    (let w := asm 0x1C 0 1 0xFFFF; let s := runR w 4096
     Ins.op w = 0x1C ∧ Ins.rd w = 0 ∧ Ins.rs1 w < 24 ∧ (s.reg 0 0 1 + (w.extractLsb' 0 16).signExtend 32).toNat ≤ 4095 ∧
     s.Executing 0 0 w 2) ∧
    (∀ n ∈ [0, 1, 2, 3, 4, 5, 6, 7, 8, 9, 0x0A, 0x0B, 0x0C], let w := asm 0x23 1 0 n
      Ins.op w = 0x23 ∧ Ins.rd w < 24 ∧ Ins.rd w ≠ 16 ∧ Ins.rs1 w = 0 ∧ Ins.imm w = n ∧ (run w).Executing 0 0 w 1) ∧
    (∀ n ∈ [2, 3, 4], let w := asm 0x24 0 1 n
      Ins.op w = 0x24 ∧ Ins.rd w = 0 ∧ Ins.rs1 w < 24 ∧ Ins.imm w = n ∧ (run w).Executing 0 0 w 1) := by and_intros <;> decide

/-- LD and ST of a word and of a pair at register 1. -/
def ld : Word := asm 0x13 4 1 0
def ldp : Word := asm 0x13 4 1 0x4000
def st : Word := asm 0x14 4 1 0
def stp : Word := asm 0x14 4 1 0x4000

theorem witness_mem_operands : memOperands ld ∧ memOperands ldp ∧ memOperands st ∧ memOperands stp := by
  unfold memOperands
  and_intros <;> decide

theorem witness_EngineLoads :
    (Ins.op ld = 0x13 ∧ isPair ld = false ∧ isPair ldp = true ∧ (run ld).fbit (Csr.engCtrl 0 0) EngCtrl.ptrap = false) ∧
    (let s := runR ldp 0x3FF8; s.accessAddr 0 0 ldp = 0x3FF8 ∧ s.accessAddr 0 0 ldp % 8 = 0 ∧ s.Executing 0 0 ldp 2) ∧
    (let s := runR ld 0x7FFC; s.accessAddr 0 0 ld = 0x7FFC ∧ s.Executing 0 0 ld 2) ∧
    (∀ a ∈ [0x10000, 0x1023C, 0x10400, 0x1063C, 0x10800, 0x10A3C], let s := runR ld (BitVec.ofNat 32 a)
      s.accessAddr 0 0 ld = a ∧ s.Executing 0 0 ld 1) ∧
    (let x := { x0 with portIn := [7] }; let s := free (runR ld 0x11004 0 x)
     s.accessAddr 0 0 ld = 0x11004 ∧ s.Executing 0 0 ld 1 ∧ s.borderOpen 0 0 = true ∧ (s.eng 0 0).portIn = [7]) ∧
    (let s := runR ld 0x11008; s.accessAddr 0 0 ld = 0x11008 ∧ s.Executing 0 0 ld 1) ∧
    (let s := runR ldp 0x105E0000; let a := s.accessAddr 0 0 ldp
     0x10000000 ≤ a ∧ a < 0x14000000 ∧ a / 2 ^ 17 % 64 < 48 ∧ s.populated (a / 2 ^ 23 % 8) = true ∧ a / 2 ^ 23 % 8 = 0 ∧ s.sluiceOpen 0 = true ∧
     s.Executing 0 0 ldp 1) ∧
    (let s := runR ld 0x13DFFFFC; let a := s.accessAddr 0 0 ld
     a / 2 ^ 17 % 64 = 47 ∧ a / 2 ^ 23 % 8 = 7 ∧ s.populated 7 = true ∧ s.CanAsk 0 0 (accMsg 0 0 .bankAcc 0 a Uop.read 8 none) 7 ∧
     s.Executing 0 0 ld 1) ∧
    (let s := runR ld 0x2077FFFC; let a := s.accessAddr 0 0 ld; 0x20000000 ≤ a ∧ a < 0x20780000 ∧ s.sluiceOpen 0 = true ∧ s.Executing 0 0 ld 1) := by and_intros <;> decide +kernel

theorem witness_EngineStoresAndPorts :
    (Ins.op st = 0x14 ∧ Ins.op stp = 0x14 ∧ isPair st = false ∧ isPair stp = true) ∧
    (∀ a ∈ [0x3FF8, 0x10400, 0x10638], let s := runR stp (BitVec.ofNat 32 a); s.accessAddr 0 0 stp = a ∧ a % 8 = 0 ∧ s.Executing 0 0 stp 1) ∧
    (let s := free (runR st 0x11000 0 { x0 with portOut := [1, 2, 3] })
     s.accessAddr 0 0 st = 0x11000 ∧ s.Executing 0 0 st 1 ∧ (s.eng 0 0).portOut.length < 4 ∧ s.borderOpen 0 0 = true) ∧
    (let s := runR st 0x105FFFFC; let a := s.accessAddr 0 0 st
     0x10000000 ≤ a ∧ a < 0x14000000 ∧ a / 2 ^ 17 % 64 = 47 ∧ s.populated (a / 2 ^ 23 % 8) = true ∧ a / 2 ^ 23 % 8 = 0 ∧
     s.sluiceOpen 0 = true ∧ s.storesOut 0 0 = 0 ∧ s.Executing 0 0 st 1) ∧
    (let s := runR stp 0x13DFFFF8; let a := s.accessAddr 0 0 stp
     a / 2 ^ 23 % 8 = 7 ∧ s.populated 7 = true ∧ s.CanAsk 0 0 (accMsg 0 0 .bankAcc 3 a Uop.write 8 (some 0)) 7 ∧ s.Executing 0 0 stp 1) ∧
    (let s := free ((on.fset (Csr.fabPllSts 7 0) FabPllSts.lock 1).setEng 7 63 { x0 with portIn := [1, 2, 3], portOut := [9] })
     s.portOpen 7 15 = true ∧ (s.eng 7 63).portIn.length < 4 ∧ (s.eng 7 63).portOut = [9]) := by and_intros <;> decide +kernel

/-- An engine message in OUT: to task slot 5 of die 0, on VC `vc`. -/
def outTo (vc dk beats : Nat) : Engine := { x0 with out := msg vc dk beats }

theorem witness_EngineMessages :
    (let w := asm 0x27 1 0 3; let x := outTo 0 1 8; let s := run w x
     Ins.op w = 0x27 ∧ Ins.rd w < 24 ∧ Ins.rs1 w = 0 ∧ Ins.imm w < 4 ∧ x.out.g Hd.vc ≤ 3 ∧ x.out.g Hd.beats ≤ 8 ∧
     x.out.g Hd.dkind ≤ 4 ∧ x.onSnp = false ∧ x.bufs.length < 4 ∧ s.sluiceOpen 0 = true ∧ s.fitsIn 0 13 (outMsg x) = true ∧ s.Executing 0 0 w 9 ∧
     s.sendTarget 0 (outMsg x) = some (0, 12)) ∧
    (let w := asm 0x27 1 0 0; let x := outTo 1 0 0; let s := run w x
     x.out.g Hd.vc = 1 ∧ x.out.g Hd.beats = 0 ∧ s.fitsIn 0 13 (outMsg x) = true ∧ s.Executing 0 0 w 1 ∧
     s.sendTarget 0 (outMsg x) = none) ∧
    (let w := asm 0x28 0 1 0; let b : RspBuf := { unit := false, xtag := 7, rsp := some (msg 1 4 0), claimed := false, dir := false }
     let x := { x0 with bufs := [b] }; let s := runR w 7 0 x
     Ins.op w = 0x28 ∧ Ins.rd w = 0 ∧ Ins.rs1 w < 24 ∧ Ins.rs2 w = 0 ∧ Ins.fn w = 0 ∧
     x.bufs.find? (fun b => b.xtag == (s.reg 0 0 (Ins.rs1 w)).toNat % 2 ^ 16 && !b.claimed && !b.unit) = some b ∧ (msg 1 4 0).g Hd.poison = 0 ∧
     s.Executing 0 0 w 1) ∧
    (let y : XMsg := ⟨5, ((msg 1 4 0).w Hd.destIdx 71).w Hd.xtag 65535, 0, 20⟩
     let x := { x0 with bufs := [{ unit := false, xtag := 65535, rsp := none, claimed := false, dir := false }] }
     let s := { on.setEng 0 63 x with xout := [(xkey 0 20 1, [y])] }
     s.sluiceOpen 0 = true ∧ SMap.get [] s.xout (xkey 0 20 (Vc.code .rsp)) = [y] ∧ y.msg.g Hd.dkind = 4 ∧ y.msg.g Hd.destIdx = 8 + 63 ∧
     x.bufs.any (fun b => b.xtag == y.msg.g Hd.xtag && b.rsp.isNone) = true ∧
     x.bufs.any (fun b => b.xtag == y.msg.g Hd.xtag && b.unit) = false) ∧
    (let y : XMsg := ⟨5, ((msg 3 4 1).w Hd.destIdx 71).w Hd.xtag 65535, 0, 20⟩
     let x := { x0 with bufs := [{ unit := true, xtag := 65535, rsp := none, claimed := false, dir := false }], wait := .resp 65535 (some 22) true none }
     let s := { on.setEng 0 63 x with xout := [(xkey 0 20 3, [y])] }
     s.sluiceOpen 0 = true ∧ SMap.get [] s.xout (xkey 0 20 (Vc.code .dat)) = [y] ∧ y.msg.g Hd.dkind = 4 ∧ y.msg.g Hd.destIdx = 8 + 63 ∧
     x.bufs.any (fun b => b.xtag == y.msg.g Hd.xtag && b.unit) = true ∧ x.wait = .resp (y.msg.g Hd.xtag) (some 22) true none ∧
     pairOk 22 = true ∧ y.msg.g Hd.poison = 0) ∧
    (let im : InMsg := { msg := msg 0 1 8, flag := 0, epoch := none, fence := false }; let w := asm 0x29 0 0 1
     let s := run w { x0 with inMsg := some im }
     Ins.op w = 0x29 ∧ Ins.low26 w ≤ 1 ∧ (s.eng 0 0).inMsg = some im ∧ s.Executing 0 0 w 9) := by and_intros <;> decide +kernel

def item (p : Fin 8) : DitchItem := { data := 5, prio := p, poison := false }

theorem witness_EngineAtomicsAndDitches :
    (∀ fn ∈ [0, 1], let w := asm 0x2A 4 1 (2 * 2 ^ 11 + fn); let s := runR w 0x105FFFF8; let a := (s.reg 0 0 1).toNat
     Ins.op w = 0x2A ∧ pairOk (Ins.rd w) = true ∧ Ins.rs1 w = 1 ∧ pairOk (Ins.rs2 w) = true ∧ Ins.fn w = fn ∧ 0x10000000 ≤ a ∧
     a < 0x14000000 ∧ a % 8 = 0 ∧ s.Executing 0 0 w 1 ∧ s.populated (a / 2 ^ 23 % 8) = true ∧ a / 2 ^ 17 % 64 < 48 ∧
     a / 2 ^ 23 % 8 = 0 ∧ s.sluiceOpen 0 = true ∧
     (let t := runR w 0x13DFFFF8; (t.reg 0 0 1).toNat / 2 ^ 23 % 8 = 7 ∧
      t.CanAsk 0 0 (accMsg 0 0 .bankAcc 3 0x13DFFFF8 Uop.swap 8 (some 0)) 7)) ∧
    (let w := asm 0x2B 4 1 511
     Ins.op w = 0x2B ∧ pairOk (Ins.rd w) = true ∧ Ins.rs1 w < 24 ∧ Ins.imm w < 512 ∧
     (run w { x0 with pushes := List.replicate 3 ⟨1, 0, item 0⟩ }).Executing 0 0 w 2 ∧
     (run w { x0 with pushes := List.replicate 4 ⟨1, 0, item 0⟩ }).Executing 0 0 w 2) ∧
    (let w := asm 0x2C 4 1 63; let i : DItem := ⟨item 7, laneParity 5⟩
     let s := (runR w 0).setDitch 0 63 { DitchSt.reset with bank0 := [i] }; let y := (s.ditch 0 63).exchange
     Ins.op w = 0x2C ∧ pairOk (Ins.rd w) = true ∧ Ins.imm w < 1024 ∧ Ins.imm w / 64 % 8 = 0 ∧ s.Executing 0 0 w 2 ∧
     ((s.reg 0 0 1).toNat + Ins.imm w % 64) % 64 = 63 ∧ bestItem y.drain = some i ∧ laneParity i.item.data = i.parity ∧
     s.sluiceOpen 0 = true ∧ (s.eng 0 0).pushes = [] ∧ s.popTurn 0 63 y.drain.isEmpty 0 = true ∧
     (let t := { (s.setEng 0 9 { x0 with wait := .retry }).setStoreWord 0 9 16 w with ditchRr := [(512 + 63, 1)] }
      t.popTurn 0 63 false 0 = false ∧ t.Executing 0 0 w 2)) ∧
    (let w := asm 0x2C 4 1 0; let s := run w
     bestItem (s.ditch 0 0).exchange.drain = none ∧ Ins.imm w / 512 = 0 ∧ s.Executing 0 0 w 2 ∧
     s.fbit (Csr.engCtrl 0 0) EngCtrl.ptrap = false) := by and_intros <;> decide +kernel

/-- The directory slice of die 0 is on. -/
def dirOn (s : State) : State := s.fset (Csr.dirCtrl 0) DirCtrl.en 1
def dlook : Word := asm 0x25 4 2 0
def dwr : Word := asm 0x26 0 2 (4 * 2 ^ 11)

theorem witness_EngineDirectoryAndCsrAccess :
    (let s := dirOn (run dlook)
     pairOk (Ins.rs1 dlook) = true ∧ Ins.fn dlook = 0 ∧ homeDie s.part.k 0 = 0 ∧ s.pathUp 0 0 = true ∧ s.sliceReady 0 0 0 = true ∧ s.Executing 0 0 dlook 1 ∧
     Ins.op dlook = 0x25 ∧ pairOk (Ins.rd dlook) = true ∧ Ins.rs2 dlook = 0 ∧ (s.pair 0 0 2).toNat = 0 ∧
     s.fbit (Csr.dirCtrl 0) DirCtrl.en = true ∧ inWindow s.part.k (s.fget (Csr.dirWin 0) DirWin.base) 0 = true ∧
     ((s.fetchEcc 0 0).eccSet 0 0).wayOf 0 0 = none) ∧
    (let s := (dirOn (run dlook)).setEntry 0 0 15 (mkEntry 0 1 0 0 1); ((s.fetchEcc 0 0).eccSet 0 0).wayOf 0 0 = some 15) ∧
    (let s := run dlook; s.fbit (Csr.dirCtrl 0) DirCtrl.en = false) ∧
    (let s := (dirOn (run dwr)).setReg 0 0 5 0
     Ins.op dwr = 0x26 ∧ Ins.rd dwr = 0 ∧ Ins.rs1 dwr = 2 ∧ pairOk (Ins.rs2 dwr) = true ∧ s.rankBlocked 0 0 = false ∧
     s.openOn 0 0 = none ∧ De.state.get (s.pair 0 0 4) < 4 ∧ De.tag.get (s.pair 0 0 4) = lineTag s.part.k 0 ∧
     ((s.fetchEcc 0 0).eccSet 0 0).freeWay 0 0 = some 0 ∧ s.Executing 0 0 dwr 1) ∧
    (let s := (List.range 16).foldl (fun (s : State) y => s.setEntry 0 0 y (mkEntry 1 1 0 0 1)) (dirOn (run dwr))
     ((s.fetchEcc 0 0).eccSet 0 0).wayOf 0 0 = none ∧ ((s.fetchEcc 0 0).eccSet 0 0).freeWay 0 0 = none) ∧
    (let s := (dirOn (run dwr)).setReg 0 0 4 0xFFFFFFFF; let t := s.setReg 0 0 5 0xFFFFFFFF
     ¬ (De.state.get (t.pair 0 0 4) < 4 ∧ De.tag.get (t.pair 0 0 4) = lineTag t.part.k 0)) ∧
    (∀ r ∈ [(0, Csr.msHi 0), (1, Csr.dqWeir 0 63)],
      let w := asm 0x2D 4 1 r.1; let s := runR w (BitVec.ofNat 32 r.2); let a := (s.reg 0 0 1).toNat / 4 * 4
      Ins.op w = 0x2D ∧ Ins.rd w < 24 ∧ Ins.rs1 w = 1 ∧ Ins.rs2 w = 0 ∧ Ins.fn w = r.1 ∧ s.Executing 0 0 w 1 ∧ a / 2 ^ 28 = 0 ∧
      s.sluiceOpen 0 = true ∧ s.populated 0 = true ∧ (findRow a).isSome = true ∧ (findRow a).map (·.base) ≠ some Rg.engDbgSel.base ∧
      (findRow a).map (·.base) ≠ some Rg.engDbgData.base ∧ a / 2 ^ 24 % 16 ≠ 9 ∧ a / 2 ^ 24 % 16 ≠ 13) ∧
    (∀ r ∈ [(0, 0, none), (1, 3, some 0)], let w := asm 0x2D 4 1 r.1; let s := runR w (BitVec.ofNat 32 (Csr.msHi 7)); let a := Csr.msHi 7
      (s.reg 0 0 1).toNat / 4 * 4 = a ∧ a / 2 ^ 28 = 7 ∧ s.populated 7 = true ∧
      s.CanAsk 0 0 (accMsg 0 0 .csrAcc r.2.1 a (if r.1 = 0 then Uop.read else Uop.write) 4 r.2.2) 7 ∧ s.Executing 0 0 w 1) ∧
    (∀ a ∈ [Csr.engDbgSel 0, Csr.engDbgData 0], (findRow a).map (·.base) = some Rg.engDbgSel.base ∨ (findRow a).map (·.base) = some Rg.engDbgData.base) ∧
    (∀ r ∈ [(1, 0x79000000), (1, 0x0D000000), (0, 0xF0000000), (1, 0xFFFFFFFC), (0, 0x00FFFFFC), (1, 0x80000000)],
      let w := asm 0x2D 4 1 r.1; (runR w (BitVec.ofNat 32 r.2)).Executing 0 0 w 1 ∧ Ins.fn w = r.1) ∧
    ((findRow 0x00FFFFFC).isSome = false ∧ on.populated 8 = false) := by and_intros <;> decide +kernel

def lock (key : Word) (h : Option (Nat × Nat)) : Lock := { key := key, rank := 3, holder := h }
def claim (key : Word) : Claim := { die := 7, key := key, rank := 3, eDie := 0, eng := 63, esc := 0 }

theorem witness_EngineLocksAndFences :
    (let w := asm 0x2E 0 1 3; let s := runR w 0x0FFFFFFF
     Ins.op w = 0x2E ∧ Ins.rd w = 0 ∧ Ins.rs1 w = 1 ∧ Ins.imm w < 16 ∧ (s.reg 0 0 1).toNat < 2 ^ 31 ∧ s.Executing 0 0 w 1 ∧
     (s.reg 0 0 1).toNat / 2 ^ 28 % 8 = 0 ∧ s.pathUp 0 0 = true ∧ (s.eng 0 0).onSnp = false ∧ s.lockOnWay 0 0 0x0FFFFFFF = false ∧
     (s.eng 0 0).locks.all (fun l => decide (l.2 < Ins.imm w % 16)) = true ∧ s.lockOf 0x0FFFFFFF = none ∧
     (SMap.get [] s.locks 0).length < 256 ∧ s.claims = [] ∧
     (let t := { s with claims := [{ claim 5 with die := 0 }] }; t.lockOf 0x0FFFFFFF = none ∧ t.lockOf 5 = none)) ∧
    (let w := asm 0x2E 0 1 3; let l := lock 5 (some (0, 1)); let s := { runR w 5 with locks := [(0, [l])] }
     s.Executing 0 0 w 1 ∧ s.lockOf 5 = some l ∧ l.rank = Ins.imm w % 16) ∧
    (let w := asm 0x2E 0 1 16; let l := lock 5 (some (0, 0)); let s := { runR w 5 0 { x0 with locks := [(5, 3)] } with locks := [(0, [l])] }
     s.Executing 0 0 w 1 ∧ 16 ≤ Ins.imm w ∧ Ins.imm w < 32 ∧ (s.eng 0 0).locks.any (·.1 == 5) = true ∧ s.lockOf 5 = some l ∧
     l.holder = some (0, 0)) ∧
    (∀ n ∈ [PName.escRelease, .escAbort], let m := (((escMsg n).w Hd.srcDie 0).w Hd.srcIdx 8).w Hd.addr 5; let y : XMsg := ⟨5, m, 0, 12⟩
     let l := lock 5 (some (0, 0)); let s := { on with xin := [(xkey 0 13 4, [y])], locks := [(0, [l])] }
     s.Forwards 0 12 4 13 y ∧ y.msg.name = n ∧ s.lockOf (BitVec.ofNat 32 (y.msg.g Hd.addr)) = some l ∧
     l.holder = some (y.msg.g Hd.srcDie, y.msg.g Hd.srcIdx - 8)) ∧
    (let y : XMsg := ⟨5, ((escMsg .escWake).w Hd.addr 5).w Hd.destIdx 71, 0, 20⟩
     let s := { on.setEng 0 63 { x0 with wait := .lock 5 3 } with xin := [(xkey 0 12 4, [y])] }
     s.Forwards 0 20 4 12 y ∧ y.msg.name = .escWake ∧ y.msg.g Hd.destIdx = 8 + 63 ∧ (s.eng 0 63).wait = .lock 5 3 ∧
     (s.eng 0 63).running = true ∧ BitVec.ofNat 32 (y.msg.g Hd.addr) = (5 : Word)) ∧
    (let c : Claim := { claim 5 with die := 0 }; let l := lock 5 none; let s := { on with locks := [(0, [l])], claims := [c] }
     s.clockOn 0 = true ∧ s.lockOf 5 = some l ∧ l.holder = none ∧ firstClaim (s.claims.filter (·.key == 5)) = some c ∧ c.die = 0 ∧
     c.rank = l.rank ∧ (5 : Word).toNat / 2 ^ 28 % 8 = 0) ∧
    (let c : Claim := { claim 5 with die := 0 }; let s := { on with claims := [c] }
     (SMap.get [] s.locks 0).length < 256 ∧ firstClaim (s.claims.filter (fun c => c.die == 0 && (s.lockOf c.key).isNone)) = some c ∧
     c.key.toNat / 2 ^ 28 % 8 = 0) ∧
    (let w := asm 0x2F 22 0 0; let s := run w
     Ins.op w = 0x2F ∧ pairOk (Ins.rd w) = true ∧ Ins.rs1 w = 0 ∧ Ins.rs2 w = 0 ∧ Ins.fn w = 0 ∧ s.Executing 0 0 w 1 ∧
     s.landed 0 0 = true) ∧
    (let w := asm 0x2F 0 1 1; let f : NFence := { target := 0, ids := [] }
     let s := run w { x0 with fences := [f, f, f] }
     Ins.op w = 0x2F ∧ Ins.rd w = 0 ∧ Ins.rs2 w = 0 ∧ Ins.fn w = 1 ∧ s.Executing 0 0 w 1 ∧ (s.eng 0 0).fences.length < 4) ∧
    (let f : NFence := { target := 0xFFFFFF, ids := [3] }; let s := on.setEng 7 63 { x0 with fences := [f] }
     s.clockOn 7 = true ∧ s.fenceClear 7 63 f = true ∧ s.populated (f.target.toNat % 8) = true) := by and_intros <;> decide +kernel

/-- Slot 5 of die 0, valid, any cluster, with a field of word 3. -/
def slot5 (s : State) (st : Nat) : State :=
  ((s.fset (Csr.taskW0 0 5) TaskW0.v 1).fset (Csr.taskW0 0 5) TaskW0.clmask 255).setTaskState 0 5 st

theorem witness_HandlerEndsAndWaitLimits :
    (let w := asm 0x21 0 0 0; Ins.op w = 0x21 ∧ Ins.low26 w = 0 ∧ x0.slot < 1024 ∧ (run w).Executing 0 0 w 1) ∧
    (let x := { x0 with run := 64 }; (run 0 x).canRun 0 0 = true ∧ x.budget ≤ x.run) ∧
    (let w := asm 0x30 0 0 0; (run w).canRun 0 0 = true ∧ x0.run < x0.budget ∧ (run w).fetched 0 0 = some w ∧ 0x30 ≤ Ins.op w) ∧
    (let x := { x0 with pc := 4096 }; (run 0 x).canRun 0 0 = true ∧ 4096 ≤ x.pc) ∧
    (let s := { run 0 with storeBad := [(storeKey 0 0 16, 2)] }; s.canRun 0 0 = true ∧ 2 ≤ SMap.get 0 s.storeBad (storeKey 0 0 16)) ∧
    (let s := slot5 (run 0 { x0 with wait := .retry, esc := 2 }) TSt.running; let x := s.eng 0 0
     s.clockOn 0 = true ∧ x.running = true ∧ x.wait ≠ .none ∧ x.slot < 1024 ∧ x.esc < 3 ∧ s.taskValid 0 5 = true ∧
     (s.taskX 0 5).pendInv = false ∧ s.servable 0 5 = true) ∧
    (let x := { x0 with wait := .lost, esc := 3 }; 3 ≤ x.esc ∧ x.wait ≠ .none) := by and_intros <;> decide +kernel

/-- A part in RMA, where every host holds every right but one. -/
def rma : State := on.fset Csr.lcSts LcSts.state 0x50

/-- Engine (0, 0) parked, or halted. -/
def parked (s : State) : State := s.fset (Csr.engCtrl 0 0) EngCtrl.park 1
def halt (s : State) : State := s.fset (Csr.engCtrl 0 0) EngCtrl.halt 1

theorem witness_EngineDebugRegisters :
    (on.dieOn 0 = true ∧ (parked on).parked 0 0 = true ∧ (∀ n : Fin 1024, (parked on).taskValid 0 n = false)) ∧
    (let s := (slot5 (parked on) TSt.idle).fset (Csr.taskW3 0 5) TaskW3.epoch 0
     let t := s.fset (Csr.taskW0 0 5) TaskW0.clmask 1
     let u := (List.range 64).foldl (fun (s : State) e => if e = 0 then s else s.fset (Csr.engCtrl 0 e) EngCtrl.epoch 1) t
     u.parked 0 0 = true ∧ u.taskValid 0 5 = true ∧ u.taskState 0 5 = TSt.idle ∧ (∀ f : Eng, f ≠ 0 → u.eligible 0 5 f = false) ∧
     63 ≠ u.fget (Csr.taskW3 0 5) TaskW3.epoch) ∧
    (rma.holds .function Right.engdbg = true) ∧
    (let s := on.fset (Csr.engCtrl 0 0) EngCtrl.park 0; s.parked 0 (s.fget (Csr.engHsSel 0) EngHsSel.engine) = false) ∧
    (let v : Word := 0x100; EngSpill.top.get v ≤ 256 ∧ EngSpill.limit.get v ≤ EngSpill.top.get v) ∧
    (256 < EngSpill.top.get (EngSpill.top.put (0 : Word) 257)) ∧ (let v := EngSpill.limit.put (0 : Word) 1; EngSpill.top.get v < EngSpill.limit.get v) ∧
    (let w := asm 0x00 1 1 0; let s := halt ((run w).fset Csr.lcSts LcSts.state 0x50)
     s.dieOn 0 = true ∧ s.halted 0 0 = true ∧ s.holds .function Right.engdbg = true ∧ s.fetched 0 0 = some w ∧ Ins.op w = 0) := by
  and_intros <;> decide +kernel

theorem witness_TaskDispatchStarts :
    (let hw : Word := asm 0x3F 0 0 63
     let s := ((slot5 on TSt.ready).fset (Csr.engCtrl 0 7) EngCtrl.park 0).fset (Csr.schCtrl 0) SchCtrl.dispEn 1
     let s := s.setStoreWord 0 7 0 hw
     (s.clockOn 0 = true ∧ s.fbit (Csr.schCtrl 0) SchCtrl.dispEn = true ∧ (s.schedSt 0).stepAt ≠ s.ticks + 1 ∧ s.scan 0 = some (5, 7, 3)) ∧
     (hw.toNat / 2 ^ 26 = 0x3F ∧ hw.toNat / 2 ^ 10 % 2 ^ 16 = 0 ∧ s.storeWord 0 7 (s.fget (Csr.taskW0 0 5) TaskW0.entry) = hw ∧
      SMap.get 0 s.storeBad (storeKey 0 7 (s.fget (Csr.taskW0 0 5) TaskW0.entry)) ≤ 1)) := by
  decide +kernel

/-- A message of engine (3, 63) for slot 5 of die 0, epoch 0, flag 31. -/
def evt (ep : Nat) : XMsg :=
  ⟨0, ((((((msg 1 1 0).w Hd.srcDie 3).w Hd.srcIdx 71).w Hd.destSlot 5).w Hd.destFlag 31).w Hd.epoch ep), 0, 12⟩

theorem witness_TaskEventsAndReadiness :
    (let s := { slot5 on TSt.idle with xout := [(xkey 0 12 1, [evt 0])] }; let m := (evt 0).msg
     s.sluiceOpen 0 = true ∧ SMap.get [] s.xout (xkey 0 12 (Vc.code .rsp)) = [evt 0] ∧ m.g Hd.dkind = 1 ∧ m.g Hd.destSlot = 5 ∧
     m.g Hd.srcIdx = 71 ∧ s.taskValid 0 5 = true ∧ s.taskState 0 5 ≠ TSt.unservable ∧
     m.g Hd.epoch = s.fget (Csr.taskW3 0 5) TaskW3.epoch ∧ on.taskValid 0 5 = false) ∧
    (let m := (evt 63).msg; m.g Hd.epoch ≠ (slot5 on TSt.idle).fget (Csr.taskW3 0 5) TaskW3.epoch ∧ m.g Hd.stamped = 0) := by
  and_intros <;> decide +kernel

theorem witness_TaskSlotWrites :
    on.dieOn 0 = true ∧
    (let s := slot5 on TSt.ready; s.taskState 0 5 = TSt.ready ∧ s.taskState 0 5 ≠ TSt.unservable ∧ s.taskValid 0 5 = true ∧
     (∃ e : Eng, (0x80 : BitVec 8).getLsbD (e / 8) = true ∧ s.engEpoch 0 e = s.fget (Csr.taskW3 0 5) TaskW3.epoch) ∧
     ¬ (∃ e : Eng, (0 : BitVec 8).getLsbD (e / 8) = true ∧ s.engEpoch 0 e = s.fget (Csr.taskW3 0 5) TaskW3.epoch)) ∧
    (let s := slot5 on TSt.running; s.taskValid 0 5 = true ∧ s.taskState 0 5 = TSt.running) ∧
    (let s := (slot5 on TSt.idle).fset (Csr.taskW0 0 5) TaskW0.v 0
     s.taskValid 0 5 = false ∧ s.taskState 0 5 ≠ TSt.running ∧ s.servable 0 5 = true ∧ s.taskReady 0 5 = false) ∧
    (let s := slot5 (on.fset (Csr.engCtrl 0 63) EngCtrl.epoch 63) TSt.idle
     (∃ e : Eng, bitOf (s.fget (Csr.taskW0 0 5) TaskW0.clmask) (e / 8) = true ∧ s.engEpoch 0 e = (63 : Fin 64)) ∧
     s.taskState 0 5 ≠ TSt.unservable) := by
  and_intros <;> decide +kernel

theorem witness_AllotmentsAndMilestones :
    (∀ m ∈ [(-256000 : Int), 95000, 95250, 119750, 120000, 255000], let t : Int := (m + 125) / 250; let s := { on with ms := [(0, 7000)] }
      s.clockOn 0 = true ∧ s.msOf 0 % 1000 = 0 ∧ (s.schedSt 0).refillMs ≠ s.msOf 0 + 1 ∧
      -1024 ≤ t ∧ t < 1024) ∧
    (∀ c, ({ on with ms := [(0, 7000)] } : State).debited 0 c ≤ 2 ^ 10) ∧
    (let x : SchedSt := { SchedSt.reset with stepAt := 1, cluster := 3, debit := 16 }
     let s := { on with sched := [(0, x)], ms := [(0, 7000)] }
     s.debited 0 3 = 16 ∧ s.debited 0 4 = 0 ∧ s.clockOn 0 = true) ∧
    (let s := { on with pllLost := [(0, 11)], refMs := 2002, ms := [(0, 999)], unlockAt := [(0, 1001)] }
     (∀ i ∈ [0, 1, 3], bitOf (SMap.get 0 s.pllLost 0) i = true) ∧ SMap.get 0 s.unlockAt 0 + 1000 < s.refMs) ∧
    (∀ i ∈ [0, 1, 3], bitOf (SMap.get 0 on.pllLost 0) i = false) ∧
    ((let s := { on with refMs := 3 }; ((SMap.get 0 s.ms 0 : Nat) : Int) - s.refMs < -2) ∧
     (let s := { on with ms := [(0, 3)] }; 2 < ((SMap.get 0 s.ms 0 : Nat) : Int) - s.refMs) ∧ on.dieOn 0 = true ∧ on.clockOn 0 = true) := by
  refine ⟨?_, fun c => Nat.zero_le _, ?_⟩ <;> and_intros <;> decide +kernel

/-- Port 0 with one sub-port of eight lanes, enabled with a role, and its link up in CXL mode. -/
def port (s : State) (role : Nat) : State :=
  ((s.fset (Csr.gwMode 0 0) GwMode.spEn 1).fset (Csr.gwRole 0 0) GwRole.role role).csrSet (linkSts 0)
    (GwLinkSts.cxl.put (GwLinkSts.up.put (0 : Word) 1) 1)

def link (n : PName) (addr : Nat) : LinkMsg :=
  { msg := { (msg 0 0 0).w Hd.addrLo addr with name := n }, fn := 0, depends := none, hasAddr := true, pbr := false, mld := false }

theorem witness_FlitReceive :
    (port on 1).portUp 0 = true ∧
    (∀ n ∈ [PName.terminated, .mctpVdm, .cfgRead, .cfgWrite, .memRd], let l := link n 0x7FC; let s := port on 1
      l.msg.g Hd.poison = 0 ∧ l.msg.name.responds = false ∧ l.msg.beats.length ≤ 8 ∧ s.creditsLeft 0 l.msg = true ∧
      l.depends = none ∧ s.presents 0 l.fn = true ∧ l.msg.g Hd.addr % 0x1000 < 0x800) ∧
    (port on 1).presents 0 7 = false ∧ (port on 1).feature 0 .ptm = false ∧ (port on 2).feature 0 .dpc = true ∧
    0x800 ≤ (link .cfgRead 0x800).msg.g Hd.addr % 0x1000 ∧
    (link .memRd 0).msg.name ∉ [PName.terminated, .mctpVdm, .internal, .escDown, .escAccept, .escRelease, .escWake, .escAbort, .bankAcc, .csrAcc] ∧
    ∃ u, exec (.gatewayFlitReceive 0 { fecCorr := false, bad := false, msgs := [link .terminated 0] }) (port on 1) =
      .next u := by
  refine ⟨?_, ?_, ?_, ?_, ?_, ?_, ?_, _, rfl⟩ <;> decide +kernel

/-- A message at the head of channel REQ of port 0, whose default action is `act`. -/
def headOf (act : Nat) (m : Msg) : State :=
  { ((port on 1).fset (Csr.hgDefault 0 0) HgDefault.route act) with
    gatesPass := [(0, true)], ingress := [(0, [{ link .internal 0 with msg := m }])] }

theorem witness_HeadgateAndCrossbar :
    (∀ r ∈ [(0, 0), (3, 0), (4, 0), (0, 4)], let m := msg 0 r.2 0; let s := headOf r.1 m; let l := { link .internal 0 with msg := m }
      s.gwSluiceOpen 0 = true ∧ SMap.get false s.gatesPass 0 = true ∧ SMap.get 0 s.headFree 0 ≤ s.ticks ∧
      SMap.get [] s.ingress (0 * 8 + Vc.code .req) = [l] ∧ s.fitsIn 0 0 m = true ∧ m.g Hd.dkind = r.2 ∧
      (s.action 0 0 l).route = r.1 ∧ HgMeter.meterEn.bit (s.meterNow 0 0 (s.action 0 0 l).cls) = false ∧
      s.headBefore 0 (s.action 0 0 l).cls (Vc.code .req) = false) ∧
    (let m := msg 2 0 0; let l := { link .internal 0 with msg := m }
     let s := { ((headOf 0 m).fset (Csr.hgMeter 0 0 0) HgMeter.meterEn 1).setBucket 0 0 0 1 with ingress := [(Vc.code .snp, [l])] }
     HgMeter.meterEn.bit (s.meterNow 0 0 0) = true ∧ 0 < s.bucket 0 0 0 ∧ s.headBefore 0 0 (Vc.code .snp) = false ∧ m.g Hd.vc = 2) ∧
    (let s := dirOn (headOf 4 (msg 0 0 0)); s.fbit (Csr.dirCtrl 0) DirCtrl.en = true ∧
      inWindow s.part.k (s.fget (Csr.dirWin 0) DirWin.base) ((msg 0 0 0).g Hd.addr) = true) ∧
    (let s := (headOf 0 (msg 0 0 0)).csrSet (Csr.xbPid 0 0) (XbPid.v.put (0 : Word) 1)
     s.routeTo 0 0 0 (msg 0 0 0) = some 0 ∧ (headOf 0 (msg 0 0 0)).routeTo 0 0 0 (msg 0 0 0) = none) ∧
    (on.fitsIn 0 12 (msg 1 0 0) = true ∧
     (let x : XMsg := ⟨0, msg 1 0 0, 0, 12⟩; { on with xsrc := [(xkey 0 12 1, [x])] : State }.fitsIn 0 12 (msg 1 0 0) = false)) ∧
    (let x : XMsg := ⟨0, msg 3 1 8, 0, 12⟩; let s := { on with xin := [(xkey 0 21 3, [x])] }
     s.Forwards 0 12 3 21 x ∧ ¬ (escUnit x.msg.name = true)) ∧
    (let x : XMsg := ⟨0, accMsg 7 63 .bankAcc 0 0x105FFFF8 Uop.read 8 none, 0, 21⟩; let s := { on with xin := [(xkey 0 9 0, [x])] }
     s.Forwards 0 21 0 9 x ∧ x.msg.name = .bankAcc ∧ s.unitAt (x.msg.g Hd.addr) = .bank 0 47 0x1FFF8) ∧
    (let x : XMsg := ⟨0, (escMsg .escAccept).w Hd.port 63, 0, 11⟩; let s := { on with xin := [(xkey 0 10 4, [x])] }
     s.Forwards 0 11 4 10 x ∧ x.msg.name = .escAccept) ∧
    (∀ b ∈ [0, 1], let x : XMsg := ⟨0, (msg 0 0 0).w Hd.needRsp b, 0, 7⟩; let s := { on with xin := [(xkey 0 13 0, [x])] }
     s.clockOn 0 = true ∧ (s.sending 0 7).length < outSlots 7 ∧
     (s.holdPointers 0 7).xselect 0 7 ((s.sending 0 7).map (·.1)) = some (0, 13, x) ∧ s.sinkUp 0 7 = false ∧ x.msg.g Hd.needRsp = b) ∧
    (∀ r ∈ [(0, 0, PName.internal), (8, 1, .internal), (72, 1, .internal), (72, 0, .memNdr)],
     let x : XMsg := ⟨0, { ((msg 0 0 0).w Hd.srcIdx r.1).w Hd.needRsp r.2.1 with name := r.2.2 }, 0, 0⟩
     let s := { port on 1 with xout := [(xkey 0 0 0, [x])] }
     s.portUp 0 = true ∧ s.gwSluiceOpen 0 = true ∧ SMap.get [] s.xout (xkey 0 0 (Vc.code .req)) = [x] ∧ x.msg.g Hd.srcIdx = r.1 ∧
     x.msg.g Hd.needRsp = r.2.1 ∧ x.msg.name.responds = decide (r.2.2 = .memNdr) ∧ s.tags.length < 2 ^ 14) := by
  and_intros <;> decide +kernel

/-- The culvert between dies 0 and 1, enabled, and up. -/
def culvert : State :=
  ((((on.fset (Csr.cvCtrl 0 1) CvCtrl.en 1).fset (Csr.cvCtrl 1 0) CvCtrl.en 1).fset (Csr.cvSts 0 1) CvSts.trained 1).fset
    (Csr.cvSts 1 0) CvSts.trained 1)

theorem witness_Culverts :
    culvert.neighbour 0 1 = some 1 ∧ facing 1 = 0 ∧ culvert.dieOn 0 = true ∧ culvert.dieOn 1 = true ∧
    culvert.fbit (Csr.cvCtrl 0 1) CvCtrl.en = true ∧ culvert.fbit (Csr.cvCtrl 1 0) CvCtrl.en = true ∧
    (let x : XMsg := ⟨4, msg 3 1 8, 0, 12⟩; let s := { culvert with xout := [(xkey 1 8 3, [x])] }
     s.culvertUp 0 1 = true ∧ s.sluiceOpen 0 = true ∧ s.sluiceOpen 1 = true ∧ SMap.get [] s.xout (xkey 1 8 3) = [x] ∧
     (∀ w < 5, w ≠ 3 → SMap.get [] s.xout (xkey 1 8 w) = []) ∧ s.fitsIn 0 9 x.msg = true ∧ x.msg.beats.length ≤ 8) := by
  and_intros <;> decide +kernel

def train : Training := { rate := 5, width := 8, reversed := false, pol := 0, cxl := false, xrate := false }

/-- The same past release step 1. -/
def portFree (role : Nat) : State := (port on role).fset (Csr.cfgSts 0) CfgSts.released 1

theorem witness_LinkStates :
    (portFree 1).canTrain 0 train = true ∧
    (let s := (portFree 1).csrSet (linkSts 0) 0
     s.portExists 0 = true ∧ s.dieOn 0 = true ∧ s.mayTrain 0 = true ∧ s.fbit (linkSts 0) GwLinkSts.up = false) ∧
    (let s := ((port on 5).fset (Csr.gwMode 0 0) GwMode.xrateEn 1).fset (Csr.gwMode 0 0) GwMode.maxRate 6
     let s := s.setPortSt 0 { PortSt.reset with offerOut := true }
     s.portUp 0 = true ∧ s.fbit (linkSts 0) GwLinkSts.cxl = true ∧ s.xrateEnabled 0 = true ∧ s.fbit (linkSts 0) GwLinkSts.xrate = false ∧
     (s.portSt 0).barred = false ∧ (s.portSt 0).offerOut = true ∧ s.portRole 0 = 5) ∧
    (let s := (port on 5).setPortSt 0 { PortSt.reset with offerIn := true, offerOut := true }
     s.portUp 0 = true ∧ (s.portSt 0).offerIn = true ∧ (s.portSt 0).offerOut = true ∧ (s.portSt 0).barred = false ∧
     s.fbit (linkSts 0) GwLinkSts.xrate = false) ∧
    (let s := (port on 5).fset (linkSts 0) GwLinkSts.xrate 1; s.portUp 0 = true ∧ s.fbit (linkSts 0) GwLinkSts.xrate = true) ∧
    ((port on 5).portExists 0 = true ∧ (port on 5).fbit (linkSts 0) GwLinkSts.up = true ∧ (port on 5).portGroup 0 = 0) ∧
    (let s := (port on 5).fset (Csr.gwRole 0 0) GwRole.vgrp 15
     s.portGroup 0 = 15 ∧ s.portUp 0 = true ∧ 0 < s.part.dies * 8 ∧ s.viralMember 15 0 = true ∧ (s.portSt 0).viral = false) ∧
    ((portFree 5).populated 0 = true ∧ (portFree 5).pastStep1 0 = true) := by
  and_intros <;> decide +kernel

/-- A directory request of port `i`, or of engine `i` - 8, of die 0 for line 0, and its message. -/
def dreq (k : DKind) (i : Nat) (t : Int) : DirReq :=
  { msg := ((msg 0 3 0).w Hd.srcIdx i).w Hd.stamped 1, kind := k, noData := false, addr := 0, stamp := t, sdie := 0, sidx := i }

def txn (r : DirReq) : Txn :=
  { req := r, asked := r, rtag := 255, way := 3, old := 0, state := 0, owner := 0, sharers := 0, waitWay := false, victim := none, snoops := [], keep := false,
    dirty := none, dirtyPois := false, memWait := false, memData := none, memPois := false, started := 0 }

/-- The slice of die 0 on, with port 0 enabled as a sharer. -/
def slice : State := dirOn (on.fset (Csr.dirShareEnLo 0) DirShareEnLo.en 1)

def arriving (m : Msg) (s : State) : State := { s with xout := [(xkey 0 11 0, [⟨0, m, 0, 11⟩])] }

theorem witness_DirectoryArrival :
    (∀ t ∈ [996, 1004, 995, 1005], let m := (dreq .rds 0 0).msg.w Hd.ms24 t; let s := arriving m { slice with ms := [(0, 1000)] }
     let s := s.fset (Csr.dirCtrl 0) DirCtrl.settle 4
     s.sluiceOpen 0 = true ∧ (SMap.get [] s.xout (xkey 0 11 (Vc.code .req))).length = 1 ∧ m.g Hd.dkind = 3 ∧ (s.freeSlot 0).isSome = true ∧
     s.openOn 0 (m.g Hd.addr / 64) = none ∧
     (((s.msOf 0 : Int) ≤ fullStamp (s.msOf 0) (m.g Hd.ms24) + s.fget (Csr.dirCtrl 0) DirCtrl.settle ∧
       fullStamp (s.msOf 0) (m.g Hd.ms24) ≤ (s.msOf 0 : Int) + 4) ↔ (t = 996 ∨ t = 1004))) ∧
    (let m := (dreq .rds 0 0).msg.w Hd.ms24 1000; let x := txn (dreq .rds 1 1000)
     let s := (arriving m { slice with ms := [(0, 1000)] }).setTxn 0 255 x
     s.openOn 0 0 = some (255, x) ∧ s.txn 0 255 = some x ∧ fullStamp (s.msOf 0) (m.g Hd.ms24) = x.req.stamp ∧ m.g Hd.srcDie = x.req.sdie ∧
     m.g Hd.srcIdx < x.req.sidx ∧ x.dirty = none ∧ x.waitWay = false) ∧
    (let s := arriving (dreq .rds 8 0).msg on; 8 ≤ (dreq .rds 8 0).msg.g Hd.srcIdx ∧ s.fbit (Csr.dirCtrl 0) DirCtrl.en = false ∧
     (s.freeSlot 0).isSome = true) := by
  and_intros <;> decide +kernel

theorem witness_DirectoryStart :
    (∀ k ∈ [DKind.rds, .rdo, .rdc, .wri, .evd], let r := dreq k 0 0
     let s := { slice with dirQ := [(0, [r])] }.setEntry 0 0 15 (mkEntry 0 2 0 63 0)
     s.clockOn 0 = true ∧ (∀ w < 16, SMap.get 0 s.dirBad (entKey 0 0 w) = 0) ∧ s.wayReady 0 = none ∧ s.nextStart 0 = some r ∧
     s.freeSlot 0 = some 0 ∧ bitOf (s.shareEn 0) r.port = true ∧ s.wayOf 0 r.addr = some 15 ∧ De.state.get (s.entry 0 0 15) = 2 ∧
     De.owner.get (s.entry 0 0 15) ≠ r.port) ∧
    (let r := dreq .evd 0 0; let s := { slice with dirQ := [(0, [r])] }.setEntry 0 0 15 (mkEntry 0 1 0 0 1)
     ¬ (De.state.get (s.entry 0 0 15) = 2 ∧ De.owner.get (s.entry 0 0 15) = r.port) ∧ s.nextStart 0 = some r ∧ SMap.find s.dirWalk 0 = none) ∧
    (let r := dreq .rds 0 0; let s := { slice with dirQ := [(0, [r])] }; s.wayOf 0 0 = none ∧ s.freeWay 0 0 = some 0 ∧ s.nextStart 0 = some r) ∧
    (let x := { txn (dreq .rds 0 0) with waitWay := true }
     let s := (List.range 16).foldl (fun (s : State) w => s.setEntry 0 0 w (mkEntry 1 (if w = 15 then 1 else 3) 0 0 1)) (slice.setTxn 0 0 x)
     s.clockOn 0 = true ∧ s.wayReady 0 = some (0, x) ∧ s.freeWay 0 0 = none ∧ s.victimWay 0 0 = some 15) := by
  and_intros <;> decide +kernel

def snoop (issued : Bool) (tag : Nat := 0) : Snoop :=
  { port := 63, tag := tag, inval := true, issued := issued, done := false, addr := 0 }

theorem witness_DirectorySnoopsAndCommit :
    (let x := { txn (dreq .rds 0 0) with snoops := [snoop false] }; let s := slice.setTxn 0 255 x
     let t := s.fsetBit (downReg 0 63) DirPortDownLo.down 31 true
     s.clockOn 0 = true ∧ s.txn 0 255 = some x ∧ x.snoops.find? (fun n => n.port == 63 && !n.issued && !n.done) = some (snoop false) ∧
     s.portIsDown 0 63 = false ∧ t.portIsDown 0 63 = true ∧ (⟨0, 63, 0⟩ : AccRec) ∉ s.dirAcc ∧
     (s.tagsOut 0).length < 2 ^ 14) ∧
    (∀ tag ∈ [2 ^ 14, 2 ^ 15 - 1], let y : XMsg := ⟨0, (msg 1 4 0).w Hd.xtag tag, 0, 11⟩
     let x := { txn (dreq .rds 0 0) with snoops := [snoop true tag] }
     let s := { slice.setTxn 0 255 x with xout := [(xkey 0 11 1, [y])] }
     s.sluiceOpen 0 = true ∧ SMap.get [] s.xout (xkey 0 11 (Vc.code .rsp)) = [y] ∧ y.msg.g Hd.dkind = 4 ∧ y.msg.g Hd.xtag = tag ∧
     bitOf tag 14 = true ∧ s.dirOrph = [] ∧ (s.txns 0).find? (fun e => e.2.snoops.any (·.waits tag)) = some (255, x) ∧
     x.victim = none ∧ x.snoops.find? (·.waits tag) = some (snoop true tag) ∧ y.msg.dirty = false ∧
     (let o : Orphan := ⟨0, tag, 0, some 63⟩; o ∈ ({ s with dirOrph := [o] } : State).dirOrph ∧ o.die = 0 ∧ o.xtag = tag)) ∧
    (let y : XMsg := ⟨0, (msg 3 4 1).w Hd.xtag 255, 0, 11⟩; let x := { txn (dreq .rds 0 0) with memWait := true }
     let s := { slice.setTxn 0 7 x with xout := [(xkey 0 11 3, [y])] }
     SMap.get [] s.xout (xkey 0 11 3) = [y] ∧ y.msg.g Hd.dkind = 4 ∧ y.msg.g Hd.xtag < 2 ^ 14 ∧ s.dirOrph = [] ∧
     (s.txns 0).find? (fun e => e.2.rtag == y.msg.g Hd.xtag && e.2.memWait && e.2.memData.isNone) = some (7, x) ∧
     y.msg.beats ≠ []) ∧
    (∀ q ∈ [(DKind.evd, 2, false, 0), (.rds, 0, true, 0), (.rdo, 2, true, 1), (.wri, 3, false, 0), (.rdc, 1, true, 0), (.evc, 1, false, 0)],
     let n := { snoop true 7 with done := true }
     let x := { txn (dreq q.1 0 0) with state := q.2.1, memWait := q.2.2.1, snoops := [n],
                                        memData := if q.2.2.2 = 0 then some 0 else none, dirty := if q.2.2.2 = 1 then some 5 else none }
     let s := { slice.setTxn 0 255 x with ms := [(0, 100)] }
     s.clockOn 0 = true ∧ s.txn 0 255 = some x ∧ x.waitWay = false ∧ (∀ n ∈ x.snoops, n.done = true) ∧
     (x.memWait = true → x.memData.isSome = true ∨ x.state = 2 ∧ x.dirty.isSome = true) ∧
     x.req.stamp + s.fget (Csr.dirCtrl 0) DirCtrl.settle ≤ (s.msOf 0 : Int) ∧ x.started + 6 ≤ s.msOf 0 ∧ SMap.find s.dirWalk 0 = none ∧
     x.victim = none ∧ x.req.sidx < 8 ∧ x.state = q.2.1 ∧ x.req.kind = q.1) := by
  and_intros <;> decide +kernel

theorem witness_DirectoryWaitAndWalk :
    (∀ i ∈ [7, 8], let x := { txn (dreq .rds i 0) with waitWay := true }
     let s := (List.range 16).foldl (fun (s : State) w => s.setEntry 0 0 w (mkEntry 1 4 0 0 0)) { slice.setTxn 0 255 x with ms := [(0, 2000)] }
     s.clockOn 0 = true ∧ SMap.find s.dirWalk 0 = none ∧ s.txn 0 255 = some x ∧ x.waitWay = true ∧ x.started + 2000 ≤ s.msOf 0 ∧
     (∀ w < 16, De.state.get (s.entry 0 0 w) = 3 ∨ De.state.get (s.entry 0 0 w) = 4) ∧ s.windowOpen 0 0x0208 0 = false ∧
     (s.waiting 0).length < 64) ∧
    (let y : XMsg := ⟨0, (escMsg .escDown).w Hd.port 63, 0, 11⟩; let s := { slice with xout := [(xkey 0 11 4, [y])] }
     s.sluiceOpen 0 = true ∧ SMap.get [] s.xout (xkey 0 11 4) = [y] ∧ y.msg.name = .escDown ∧ y.msg.g Hd.port = 63) ∧
    (∀ n ∈ [1, 2], let q : WalkPort := { port := 0, left := n, deferred := [], removed := 0, lost := 0 }; let k : Walk := { next := 16383, ports := [q] }
     let s := { slice with dirWalk := [(0, k)] }.setEntry 0 16383 0 (mkEntry 1 1 0 0 1)
     SMap.find s.dirWalk 0 = some k ∧ k.ports = [q] ∧ q.deferred = [] ∧ s.txns 0 = [] ∧ (s.waiting 0).length < 64 ∧ 1 ≤ q.left ∧ (∀ w < 16, SMap.get 0 s.dirBad (entKey 0 16383 w) = 0) ∧
     (∀ w < 16, De.state.get (s.entry 0 16383 w) ≠ 4)) := by
  and_intros <;> decide +kernel

/-! ## Fabric, banks and ditches -/

/-- Every clock of die 0 locked and every reach running. -/
def fab : State := (free on).fset (Csr.fabPllSts 0 0) FabPllSts.lock 1

def cin : CellIn := { i0 := 7, i1 := 0xFFFF, i2 := 0, i3 := 0, ci := false, p0 := true, p1 := false }

/-- All eight entries of a cell of column 47 of reach 15. -/
def cells8 (row e : Nat) : State := (List.range 8).foldl (fun (s : State) i => s.setCellEntry 0 15 47 row i e) fab

theorem phase_lt (s : State) (d r col row : Nat) : s.cellPhase d r col row < 8 := by
  have h (b : Bool) : b2n b ≤ 1 := by cases b <;> decide
  unfold State.cellPhase
  split
  · have h0 := h (s.bitAt d r (.phase col row 0))
    have h1 := h (s.bitAt d r (.phase col row 1))
    have h2 := h (s.bitAt d r (.phase col row 2))
    simp only [List.range_succ, List.range_zero, List.nil_append, List.cons_append, List.foldl_cons, List.foldl_nil]
    omega
  · split
    · decide
    · exact Fld.get_lt ReachSts.phase _

theorem entry_of {s : State} {d r col row e : Nat} (h : ∀ i < 8, s.cellEntry d r col row i = e) : s.selEntry d r col row = e :=
  h _ (phase_lt s d r col row)

/-- Whatever its phase, the cell runs on the entry `e`. -/
def onEntry (row e : Nat) : Prop := (cells8 row e).cellRuns 0 15 47 row = true ∧ (cells8 row e).selEntry 0 15 47 row = e

theorem witness_FabricCells :
    (∀ r ∈ [0x01, 0x02, 0x03, 0x04, 0x05, 0x06, 0x07, 0x08, 0x09, 0x0A, 0x0B, 0x0C, 0x0E, 0x0F, 0x00],
      onEntry 30 r ∧ badEntry r 30 = false ∧ Ent.op.ofNat r = r) ∧
    (onEntry 31 0x0D ∧ badEntry 0x0D 31 = false) ∧ (∀ e ∈ [0x1F, 0x0C], onEntry 31 e ∧ badEntry e 31 = true) ∧
    (let e := 0x0B + 5 * 2 ^ 12 + 1 * 2 ^ 23; badEntry e 0 = false ∧ Ent.imm.ofNat e % 8 = 5 ∧ cellC e cin = true ∧
      cellPred e CellRegs.reset cin = true ∧ cellPred (e + 3 * 2 ^ 25) CellRegs.reset cin = false) ∧
    SMap.wf (fun _ => Cell.reset) fab.cells = true := by
  have h30 : ∀ r ∈ [0x01, 0x02, 0x03, 0x04, 0x05, 0x06, 0x07, 0x08, 0x09, 0x0A, 0x0B, 0x0C, 0x0E, 0x0F, 0x00],
      (cells8 30 r).cellRuns 0 15 47 30 = true ∧ (∀ i < 8, (cells8 30 r).cellEntry 0 15 47 30 i = r) ∧ badEntry r 30 = false ∧
        Ent.op.ofNat r = r := by decide +kernel
  have h31 : ∀ r ∈ [0x0D, 0x1F, 0x0C],
      (cells8 31 r).cellRuns 0 15 47 31 = true ∧ (∀ i < 8, (cells8 31 r).cellEntry 0 15 47 31 i = r) := by decide +kernel
  have on31 {r : Nat} (h : r ∈ [0x0D, 0x1F, 0x0C]) : onEntry 31 r := ⟨(h31 r h).1, entry_of (h31 r h).2⟩
  refine ⟨fun r h => ⟨⟨(h30 r h).1, entry_of (h30 r h).2.1⟩, (h30 r h).2.2⟩, ⟨on31 (by decide), by decide⟩, ?_, by decide, by decide +kernel⟩
  intro e h
  have : e = 0x1F ∨ e = 0x0C := by simpa using h
  rcases this with rfl | rfl
  · exact ⟨on31 (by decide), by decide⟩
  · exact ⟨on31 (by decide), by decide⟩

/-- An image whose PATCHABLE names reach 15 of die 7, a rewrite pending there, and a patch job of it. -/
def patches : State := { free on with image := (List.replicate 0x2F 0) ++ [0x80] }
def rew (e : Nat) : Rewrite := { reach := 15, col := 47, row := 31, entry := e, value := 0xFF }
def jobAt : ReachJob := { die := 7, reach := 15, kind := .patch, swapping := false, next := 0, recAt := 0, bad := none, got := [] }

/-- Rewriting at reach 15 of die 7 with its clock running. -/
def irw : State := patches.fset (Csr.fabPllSts 7 0) FabPllSts.lock 1

theorem phase_rewrite (s : State) (w : SMap Rewrite) (d r col row : Nat) :
    ({ s with rewrite := w } : State).cellPhase d r col row = s.cellPhase d r col row := rfl

theorem witness_LiveRewriting :
    (let s := patches.fset (Csr.fabIrwSel 7) FabIrwSel.reach 15
     let r := s.fget (Csr.fabIrwSel 7) FabIrwSel.reach
     s.dieOn 7 = true ∧ SMap.find s.rewrite 7 = none ∧ r = 15 ∧
     (s.patchable 7 r = true ∧ s.isolated 7 r = false ∧ s.gated 7 r = false ∧ s.swap = none ∧ s.load = none) ∧
     (¬ ∃ j ∈ s.jobs, j.die = 7 ∧ j.reach = r) ∧ s.fget (Csr.fabIrwSel 7) FabIrwSel.col ≤ 47 ∧
     47 < (s.fset (Csr.fabIrwSel 7) FabIrwSel.col 48).fget (Csr.fabIrwSel 7) FabIrwSel.col ∧
     badEntry ((s.csrGet (Csr.fabIrwLo 7)).toNat + 0) 0 = false ∧ badEntry (2 ^ 32) 0 = true ∧
     (∃ j ∈ ({ s with jobs := [jobAt] } : State).jobs, j.die = 7 ∧ j.reach = r) ∧
     SMap.find ({ s with rewrite := [(7, rew 1)] } : State).rewrite 7 ≠ none ∧ on.patchable 7 15 = false) ∧
    irw.cellRuns 7 15 47 31 = true ∧
    (∃ e < 8, ({ irw with rewrite := [(7, rew e)] } : State).cellPhase 7 15 47 31 = (rew e).entry) ∧
    (∃ e < 8, ({ irw with rewrite := [(7, rew e)] } : State).cellPhase 7 15 47 31 ≠ (rew e).entry) ∧
    (∃ x : Fin 8, irw.cellPhase 7 15 47 31 = x) ∧
    ∀ e, SMap.find ({ irw with rewrite := [(7, rew e)] } : State).rewrite 7 = some (rew e) := by
  have h := phase_lt irw 7 15 47 31
  refine ⟨by decide +kernel, by decide +kernel, ⟨_, h, phase_rewrite irw _ 7 15 47 31⟩,
    ⟨(irw.cellPhase 7 15 47 31 + 1) % 8, Nat.mod_lt _ (by decide), ?_⟩, ⟨⟨_, h⟩, rfl⟩, fun _ => rfl⟩
  rw [phase_rewrite]
  show irw.cellPhase 7 15 47 31 ≠ (irw.cellPhase 7 15 47 31 + 1) % 8
  omega

theorem witness_FabricClocksAndPorts :
    on.dieOn 0 = true ∧
    (let M (v : Word) := max 1 (FabPllCtrl.m.get v); let N (v : Word) := max 1 (FabPllCtrl.n.get v)
     let low : Word := FabPllCtrl.n.put (FabPllCtrl.m.put (0 : Word) 1) 16; let high : Word := FabPllCtrl.n.put (FabPllCtrl.m.put (0 : Word) 33) 4
     let ring : Word := FabPllCtrl.refsel.put (FabPllCtrl.mode.put high 1) 3; let pin : Word := FabPllCtrl.mode.put low 1
     FabPllCtrl.mode.get low = 0 ∧ 156250000 * M low < 10000000 * N low ∧ (on.pllRef 0 3 low) = (156250000, 1) ∧
     (if on.part.grade = 2 then 1250000000 else 1000000000) * N high < 156250000 * M high ∧
     FabPllCtrl.mode.get ring = 1 ∧ FabPllCtrl.refsel.get ring = 3 ∧ FabPllCtrl.mode.get pin = 1 ∧ FabPllCtrl.refsel.get pin = 0 ∧
     on.pllOk 0 3 (FabPllCtrl.n.put (FabPllCtrl.m.put (0 : Word) 16) 3) = true ∧ on.pllOk 0 0 (FabPllCtrl.en.put (0 : Word) 1) = true) ∧
    (let s := on.fset (Csr.fabPllCtrl 0 3) FabPllCtrl.en 1; let t := (s.fset (Csr.fabPllCtrl 0 3) FabPllCtrl.mode 1).fset (Csr.fabPllCtrl 0 3) FabPllCtrl.refsel 3
     s.fget (Csr.fabPllCtrl 0 3) FabPllCtrl.en = 1 ∧ s.fget (Csr.fabPllCtrl 0 3) FabPllCtrl.mode = 0 ∧
     FabPllCtrl.mode.get (t.csrGet (Csr.fabPllCtrl 0 3)) = 1 ∧ t.fget (Csr.fabPllCtrl 0 3) FabPllCtrl.refsel = 3 ∧
     t.fget (Csr.roscCtrl 0 3) RoscCtrl.en = 0 ∧ (t.fset (Csr.roscCtrl 0 3) RoscCtrl.en 1).fget (Csr.roscCtrl 0 3) RoscCtrl.en ≠ 0 ∧
     (s.fset (Csr.fabPllSts 0 3) FabPllSts.lock 1).fget (Csr.fabPllSts 0 3) FabPllSts.lock = 1) ∧
    (on.isolated 0 0 = true ∧ (free on).isolated 0 0 = false ∧ (free on).inReset 0 0 = false) ∧
    (let c : Word := UspCtrl.en.put (0 : Word) 1; let s := fab.csrSet (Csr.uspCtrl 0 1) c
     let full := s.setUsp 0 1 { tx := List.replicate 16 5, rx := List.replicate 16 9, csrAt := 1, csrIn := 3 }
     s.portOpen 0 (uspReach 1) = true ∧ s.pinHeld 0 ((uspPins 1).headD 0) = false ∧
     s.fget (Csr.uspCtrl 0 1) UspCtrl.en = 1 ∧ UspCtrl.mode.get c = 0 ∧ (s.uspSt 0 1).tx.length < 16 ∧ 16 ≤ (full.uspSt 0 1).tx.length ∧
     (full.uspSt 0 1).csrAt = full.refNow + 1 ∧ min 3 (full.uspSt 0 1).tx.length = 3 ∧
     (full.uspSt 0 1).tx = 5 :: List.replicate 15 5 ∧ UspCtrl.en.bit c = true ∧ (s.uspSt 0 1).rx.length < 16 ∧
     UspCtrl.mode.get (UspCtrl.mode.put c 1) = 1) ∧
    (fab.portOpen 0 0 = true ∧ fab.fl.reads = [] ∧ SMap.get [] fab.fabIn (fabInKey 0 ufwPort) = [] ∧
     (0xBFFF : BitVec 16).toNat + (3 : BitVec 16).toNat % 4 * 65536 = 245759) := by
  and_intros <;> decide +kernel

/-- The banks of die 0 that reach 15 owns, with their reach open; the fabric's request at word 16383. -/
def bankOn : State := fab.fset (Csr.bankInfo 0 47) BankInfo.unav 0 |>.fset (Csr.bankInfo 0 43) BankInfo.unav 0
def freq (r : Reach) (op : BankOp) : FabBankReq := { reach := r, word := 16383, op := op }

theorem witness_BankFabricAccess :
    (∀ r ∈ [(47, (15 : Reach)), (43, 14)],
      bankOn.cmds = [] ∧ bankOn.portFree 0 47 1 = true ∧ bankOn.portFree 0 r.1 0 = true ∧ r.2.val = r.1 / 3 ∧ bankOn.portOpen 0 r.2 = true ∧
      bankOn.writesEnabled 0 r.2 = true ∧ bankOn.bankUnav 0 r.1 = false ∧ SMap.get [] bankOn.bankQ (bankQKey 0 r.1 1) = [] ∧
      SMap.get [] bankOn.bankQ (bankQKey 0 r.1 2) = [] ∧
      (∀ m ∈ [WordMark.clean, ⟨true, 0⟩, ⟨false, 1⟩, ⟨false, 3⟩], let s := bankOn.setBankMark 0 r.1 16383 m
        s.eligibleReq 0 r.1 0 ⟨0, 16383, .read, none⟩ = true ∧ s.bankMarkOf 0 r.1 16383 = m) ∧
      bankOn.eligibleReq 0 r.1 0 ⟨0, 16383, .write 0xC3 5 false, none⟩ = true) ∧
    (popCount 72 (WordMark.clean).flips = 0 ∧ popCount 72 1 = 1 ∧ 2 ≤ popCount 72 3 ∧
     ∀ j < 4, (0xC3 : BitVec 8).getLsbD (2 * j) = (0xC3 : BitVec 8).getLsbD (2 * j + 1)) ∧
    bankOn.windowOpen 0 0x0401 0 = false ∧ (bankOn.waiting 0).length < 64 := by
  and_intros <;> decide +kernel

/-- Engine 63 of die 0 waits for word 16383 of a bank. -/
def waitsFor (b : Nat) (op : BankOp) (pair atomic : Bool) : State :=
  let s := bankOn.setEng 0 63 { x0 with wait := .bank 22 pair atomic }
  { s with bankQ := [(bankQKey 0 b 1, [⟨7, .engine, 0, 63, 16383, none, op⟩])] }

theorem noBankAnswerDue {s : State} (h : s.cmds = []) : s.NoBankAnswerDue := fun c hc => by rw [h] at hc; cases hc

/-- A request of a message of engine (7, 63), or of a command, at bank 43 of die 0. -/
def dmaAsks (who : BankWho) (op : BankOp) : State :=
  { bankOn with bankQ := [(bankQKey 0 43 2, [⟨7, who, 7, 63, 16383, none, op⟩])] }
def host0 : CmdHdr :=
  { host := .i3c 8, via := .i3c 58, tag := 7, seq := 3, chain := 0, flags := 0, status := 0, resZero := true, length := 0, payload := [] }
def bankCmd (n : Nat) (got : List BankGot) : Cmd := { hdr := host0, op := 0x0103, work := .bank n got, aborts := [] }

theorem witness_BankEngineAccessAndConflicts :
    (∀ r ∈ [(BankOp.read, true), (.fetchAdd 1, true), (.swap 1, true), (.read, false)], let s := waitsFor 43 r.1 r.2 false
      let q : BankReq := ⟨7, .engine, 0, 63, 16383, none, r.1⟩
      s.clockOn 0 = true ∧ s.cmds = [] ∧ s.portFree 0 43 0 = true ∧ SMap.get [] s.bankQ (bankQKey 0 43 2) = [] ∧
      SMap.get [] s.bankQ (bankQKey 0 43 1) = [q] ∧ (s.eng 0 63).wait = .bank 22 r.2 false ∧ pairOk 22 = true ∧
      s.fbit (Csr.engCtrl 0 63) EngCtrl.ptrap = false ∧ s.eligibleReq 0 43 0 ⟨1, 16383, r.1, some q⟩ = true ∧
      s.bankUnav 0 43 = false ∧ (s.bankMarkOf 0 43 16383).flips = 0) ∧
    ((bankOn.setBankMark 0 43 16383 ⟨true, 0⟩).bankMarkOf 0 43 16383).poison = true ∧
    (let s := (waitsFor 43 .read true false).fset (Csr.bankInfo 0 43) BankInfo.unav 1
     s.bankUnav 0 43 = true ∧ s.eligibleReq 0 43 0 ⟨1, 16383, .read, some ⟨7, .engine, 0, 63, 16383, none, .read⟩⟩ = true) ∧
    (∀ op ∈ [BankOp.read, .write 0xFF 9 false], ∀ b ∈ [(47, (15 : Reach), 1), (43, 14, 0)], let s := waitsFor b.1 op true false
      s.bankUnav 0 b.1 = false ∧ b.2.1.val = b.1 / 3 ∧ s.portOpen 0 b.2.1 = true ∧ s.writesEnabled 0 b.2.1 = true ∧
      SMap.get [] s.bankQ (bankQKey 0 b.1 2) = [] ∧ SMap.get [] s.bankQ (bankQKey 0 b.1 1) = [⟨7, .engine, 0, 63, 16383, none, op⟩] ∧
      s.portFree 0 b.1 0 = true ∧ s.portFree 0 b.1 1 = true ∧ s.eligibleReq 0 b.1 0 ⟨0, 16383, .write 0xFF 5 false, none⟩ = true ∧
      s.eligibleReq 0 b.1 b.2.2 ⟨1, 16383, op, some ⟨7, .engine, 0, 63, 16383, none, op⟩⟩ = true ∧
      SMap.get 0 s.bankRr (bankKey 0 b.1 * 4) = 0 ∧ s.bankMarkOf 0 b.1 16383 = WordMark.clean ∧ (s.eng 0 63).wait = .bank 22 true false) ∧
    (∀ op ∈ [BankOp.read, .write 0xFF 9 true], ∀ who ∈ [BankWho.message (accMsg 7 63 .bankAcc 3 0x105DFFF8 Uop.write 8 none), .steward host0 0],
      let s := dmaAsks who op; let q : BankReq := ⟨7, who, 7, 63, 16383, none, op⟩
      s.clockOn 0 = true ∧ s.cmds = [] ∧ s.portFree 0 43 0 = true ∧ SMap.get [] s.bankQ (bankQKey 0 43 1) = [] ∧
      SMap.get [] s.bankQ (bankQKey 0 43 2) = [q] ∧ s.eligibleReq 0 43 0 ⟨2, q.word, q.op, some q⟩ = true ∧
      s.bankUnav 0 43 = false ∧ (s.bankMarkOf 0 43 q.word).flips = 0) ∧
    (accMsg 7 63 .bankAcc 3 0x105DFFF8 Uop.write 8 none).g Hd.vc < 4 ∧
    (∀ n ∈ [1, 2], ∀ c ∈ ({ dmaAsks (.steward host0 0) .read with cmds := [bankCmd n []] } : State).cmds, ∀ m got,
      c.work = .bank m got → got.length < m) := by
  refine ⟨?_, ?_, ?_, ?_, ?_, ?_, ?_⟩
  iterate 6 decide +kernel
  intro n hn c hc m got h
  simp only [List.mem_cons, List.not_mem_nil, or_false] at hc hn
  subst hc
  cases h
  rcases hn with rfl | rfl <;> decide

/-- Die 0 released, with the background test of banks 47 on or 47 alone at `c`, in a test cycle. -/
def testing (c : Nat) (banks : List Nat) : State :=
  let s := ((bankOn.fset (Csr.cfgSts 0) CfgSts.released 1).fset (Csr.bankCtrl 0) BankCtrl.btEn 1)
  ({ s with ticks := 84 }).setBt 0 { cycle := c, banks := banks, failed := [], base := 0, last := 0 }

theorem witness_BankClearAndTest :
    (let s := { bankOn with clearing := [(bankKey 0 47, true)] }; s.dieOn 0 = true ∧ s.bankClearing 0 47 = true) ∧
    (∀ c ∈ [0, 63, 64, 703, 704, 766, 767], let s := testing c [47]
      s.fbit (Csr.cfgSts 0) CfgSts.released = true ∧ s.testCycle 0 s.bankNow = true ∧ (s.btSt 0).last ≠ s.bankNow + 1 ∧
      s.fbit (Csr.bankCtrl 0) BankCtrl.btEn = true ∧ (s.btSt 0).cycle = c) ∧
    (∀ c ∈ [128, 703], let s := testing c [47]; s.tested 0 = [47] ∧ (s.btSt 0).failed = [] ∧ (marchAt (c - 64)).2.2 = true ∧
      (s.waiting 0).length < 64) := by
  and_intros <;> decide +kernel

/-- Ditch 63 of die 0, at its reach 15, with `n` items to fill and one that drains. -/
def ditchOn (n : Nat) (drain : List DItem) (step : Nat := 0) : State :=
  fab.setDitch 0 63
    { bank0 := List.replicate n ⟨⟨5, 7, false⟩, 0⟩, bank1 := drain, drain1 := true, above := false, below := true, step := step }

theorem witness_DitchQueues :
    fab.portOpen 0 (63 / 4) = true ∧ fab.writesEnabled 0 (63 / 4) = true ∧ fab.sluiceOpen 0 = true ∧ fab.dieOn 0 = true ∧
    (let i : DItem := ⟨⟨5, 7, false⟩, laneParity 5⟩
     ((ditchOn 511 [i]).ditch 0 63).exchange.fill.length < 512 ∧ 512 ≤ ((ditchOn 512 [i]).ditch 0 63).exchange.fill.length ∧
     bestItem ((ditchOn 511 [i]).ditch 0 63).exchange.drain = some i ∧
     ((ditchOn 511 [i] 5).ditch 0 63).step ≠ 0 ∧ ((ditchOn 511 [i]).ditch 0 63).step = 0 ∧
     bestItem ((ditchOn 511 [i] 1).ditch 0 63).drain = some i ∧ 0 < ((ditchOn 511 [i] 1).ditch 0 63).step ∧
     ((ditchOn 511 [i] 1).ditch 0 63).step < 2) ∧
    (fab.ditch 0 63).exchange.drain = [] ∧
    (let s := { ditchOn 5 [] 4 with ticks := 3 }; s.pending = [] ∧ 0 < s.part.dies ∧ s.clockOn 0 = true ∧
     (s.ticks + 1) * 3 / 4 ≠ s.ticks * 3 / 4 ∧ (s.ditch 0 63).step ≠ 0) ∧
    (let i : DitchItem := ⟨5, 0, true⟩; let s := fab.setEng 0 63 { x0 with pushes := [⟨0, 63, i⟩] }
     s.sluiceOpen 0 = true ∧ s.nextPusher 0 63 = some (63, i) ∧ (s.eng 0 63).pushes = [⟨0, 63, i⟩]) := by
  and_intros <;> decide +kernel

/-! ## Images -/

/-- A load at frame `n` of die 0. -/
def loadAt (k : LoadKind) (n : Nat) : Load :=
  { kind := k, source := 4, hdr := [], bytes := [], next := List.replicate 8 n, recAt := List.replicate 8 0x150, secs := 0, reginit := [],
    handlers := [], bankinit := [], staged := 0, bad := none, rest := [], fails := [], ext := [] }

/-- A header that keeps the rules for the whole part, of an image with one section. -/
def header : List (BitVec 8) :=
  [0x58, 0x4D, 0x50, 0x38, 1, 0, 0, 1, 0, 8, 0, 0, 8, 1, 1, 0, 9] ++ List.replicate 239 0

/-- The bytes of a number, and what a read of them gives. -/
def bytesOf (len num : Nat) : List (BitVec 8) := (List.range len).map (fun i => BitVec.ofNat 8 (num / 256 ^ i))
def byteIn (len num a : Nat) : Nat := if a < len then num / 256 ^ a % 256 else 0

theorem read_bytes (len num : Nat) : listRd (bytesOf len num) = byteIn len num := by
  funext a
  unfold listRd bytesOf byteIn
  split
  · next h => simp [List.getD, h]
  · next h => simp [List.getD, h]

/-- The number of an image whose one section is `len` bytes of `body`. -/
def image1 (ty die len body crc : Nat) : Nat :=
  0x900010108000008000100000138504D58 + 256 ^ 256 * (ty + 2 ^ 8 * die + 2 ^ 32 * 0x110 + 2 ^ 64 * len + 2 ^ 96 * crc) + 256 ^ 272 * body

/-- A record of mode `m` of `k` frames whose first is frame `f` of reach `r`. -/
def rec_ (r f k m : Nat) : Word := BitVec.ofNat 32 ((k - 1) * 2 ^ 17 + (r * 2048 + f) * 4 + m)

/-- The record of one frame that stands next at frame 0 or 20,479 of die 0, in a mode, with its check. -/
def nextRec (n m : Nat) : Word := rec_ (n / 1280) (n % 1280) 1 m
def checkOf : Nat → Nat → Word
  | 0, 0 => 0xBC017CE3
  | 0, 1 => 0xC514CFAD
  | 0, 2 => 0xF7006846
  | 0, 3 => 0x4E6C8D29
  | 20479, 0 => 0x96105EAE
  | 20479, 1 => 0x7DE3C8D7
  | 20479, 2 => 0x9909203D
  | _, _ => 0xF3D15431

/-- What follows its word, with the right check or a wrong one. -/
def bodyOf (n m : Nat) (bad : Bool) : RecBody :=
  let src : Word := BitVec.ofNat 32 (n / 1280 * 2048 + n % 1280 - 1)
  let c : Word := if bad then checkOf n m + 1 else checkOf n m
  match m with
  | 0 => .lit [(List.replicate 64 5, c)]
  | 1 => .rep src c
  | 2 => .zero c
  | _ => .fill 7 c

/-- The words after the record word. -/
def recWords : RecBody → List Word
  | .lit gs => gs.flatMap (fun g => g.1 ++ [g.2])
  | .rep a b => [a, b]
  | .zero a => [a]
  | .fill a b => [a, b]

/-- The check of a record is the one its bytes have. -/
def checked (n m : Nat) : RecBody → Bool
  | .lit _ => true
  | .rep a c => c.toNat == crc32c (leNats 4 (nextRec n m).toNat ++ leNats 4 a.toNat)
  | .zero c => c.toNat == crc32c (leNats 4 (nextRec n m).toNat)
  | .fill a c => c.toNat == crc32c (leNats 4 (nextRec n m).toNat ++ leNats 4 a.toNat)

def wordsNum (ws : List Word) : Nat := ws.foldr (fun w n => w.toNat + 2 ^ 32 * n) 0

/-- The image of a FRAMES section whose reach 0 has that record: its length, its number. -/
def recImage (n m : Nat) (bad : Bool) : Nat × Nat :=
  let ws := nextRec n m :: recWords (bodyOf n m bad)
  let len := 64 + 4 * ws.length
  (0x110 + len, image1 1 0 len (64 + len * (2 ^ 32 * ((2 ^ 480 - 1) / (2 ^ 32 - 1))) + 256 ^ 64 * wordsNum ws) 0)

/-- A load to which that image has come, and its bytes. -/
def loadRec_ (n m : Nat) (bad : Bool) : Load :=
  { loadAt .host n with bytes := bytesOf (recImage n m bad).1 (recImage n m bad).2 }
def recRd (n m : Nat) (bad : Bool) : Nat → Nat := byteIn (recImage n m bad).1 (recImage n m bad).2

/-- A load to which the image of one other section has come, and its bytes. -/
def loadSec (ty die len body crc : Nat) : Load := { loadAt .host 0 with bytes := bytesOf (0x110 + len) (image1 ty die len body crc) }
def secRd (ty die len body crc : Nat) : Nat → Nat := byteIn (0x110 + len) (image1 ty die len body crc)

def stores7 : Nat := 2 ^ 63 + 2 ^ 64 * 4095 + 2 ^ 80 + 2 ^ 96 * 9
def setCtrl : Nat := Csr.engCtrl 0 0 + 3 + 2 ^ 32
def bank4 : Nat := 4 * 2 ^ 26 + 2 ^ 32 + 2 ^ 64 * 6

theorem read_host (s : State) (l : Load) (h : l.source = 4) : s.loadRd l = listRd l.bytes := by
  unfold State.loadRd
  simp [h]

theorem read_rec (s : State) (n m : Nat) (bad : Bool) : s.loadRd (loadRec_ n m bad) = recRd n m bad := by
  rw [read_host _ _ rfl]
  exact read_bytes _ _

theorem read_sec (s : State) (ty die len body crc : Nat) : s.loadRd (loadSec ty die len body crc) = secRd ty die len body crc := by
  rw [read_host _ _ rfl]
  exact read_bytes _ _

theorem witness_LoadRecordsAndSections :
    ((∀ n m bad, ({ on with load := some (loadRec_ n m bad) } : State).loadRd (loadRec_ n m bad) = recRd n m bad) ∧
     ∀ n ∈ [0, 20479], ∀ m < 4, ∀ bad ∈ [false, true],
      let l := loadRec_ n m bad; let s := { on with load := some l }; let rd := recRd n m bad; let w := nextRec n m
      let size := match w.toNat % 4 with | 0 => 4 + 260 * 1 | 2 => 8 | _ => 12
      s.load = some l ∧ l.bad = none ∧ s.covers l 0 = true ∧ s.jobs = [] ∧ l.next.getD 0 0 = n ∧ l.recAt.getD 0 0 = 0x150 ∧
      (∃ sec ∈ sectionsOf rd, framesOf rd 0 = some sec ∧ (n = 0 → reachAt rd sec 0 = 0x150) ∧ 0x150 + size ≤ reachEnd rd sec (n / 1280)) ∧
      wordIn rd 0x150 = w ∧ l.arrived (0x150 + size) = true ∧ bodyIn rd 0x150 w = bodyOf n m bad ∧ w.toNat % 4 = m ∧
      w.toNat / 4 % 32768 = n / 1280 * 2048 + n % 1280 ∧ n % 1280 + (w.toNat / 2 ^ 17 + 1) ≤ 1280 ∧
      (m ≠ 0 → checked n m (bodyOf n m bad) = !bad)) ∧
    ((nextRec 0 2).toNat / 4 % 32768 ≠ 0 * 2048 + 1) ∧
    ((∀ ty die len body crc, ({ on with load := some (loadSec ty die len body crc) } : State).loadRd (loadSec ty die len body crc) =
        secRd ty die len body crc) ∧
     ∀ q ∈ [(2, 7, 16, stores7, SecBody.handlers 7 (2 ^ 63) 4095 [9]), (3, 0xFF, 8, setCtrl, .reginit [(BitVec.ofNat 32 setCtrl, 1)]),
        (4, 0xFF, 16, bank4, .bankinit (4 * 2 ^ 26) [6])], ∀ bad ∈ [0, 1],
      let crc := crc32c (leNats q.2.2.1 q.2.2.2.1) ^^^ bad
      let l := loadSec q.1 q.2.1 q.2.2.1 q.2.2.2.1 crc; let rd := secRd q.1 q.2.1 q.2.2.1 q.2.2.2.1 crc
      ∃ x ∈ sectionsOf rd, (otherSections rd)[l.secs]? = some x ∧ secIn rd x = q.2.2.2.2 ∧ l.arrived (x.off + x.len) = true ∧
        (crc32c (bytesAt rd x.off x.len) = x.crc ↔ bad = 0) ∧ (BitVec.ofNat 32 x.crc).toNat = x.crc ∧ x.resv = 0 ∧ on.sectionRules x q.2.2.2.2 = true ∧ l.staged + x.len ≤ 393216) ∧
    (let l := { loadSec 3 0xFF 8 (0xFFFFFFFC + 2 ^ 32) 0 with staged := 393216 }; let rd := secRd 3 0xFF 8 (0xFFFFFFFC + 2 ^ 32) 0
      ∃ x ∈ sectionsOf rd, (otherSections rd)[l.secs]? = some x ∧ on.sectionRules x (secIn rd x) = false ∧ 393216 < l.staged + x.len) ∧
    (on.reginitOk (Csr.engCtrl 0 0) = true ∧ on.reginitOk 0xFFFFFFFC = false ∧ on.bankRunOk (4 * 2 ^ 26) 1 = true ∧ on.bankRunOk 0 1 = false) := by
  refine ⟨⟨?_, ?_⟩, ?_, ⟨?_, ?_⟩, ?_, ?_⟩
  · intro n m bad
    exact read_rec _ n m bad
  · decide +kernel
  · decide
  · intro ty die len body crc
    exact read_sec _ ty die len body crc
  · decide +kernel
  · decide +kernel
  · decide +kernel

theorem crcBit_lt {c : Nat} (h : c < 2 ^ 32) : crcBit c < 2 ^ 32 := by
  unfold crcBit
  split
  · exact Nat.xor_lt_two_pow (by omega) (by decide)
  · omega

theorem crcByte_lt {c : Nat} (b : Nat) (h : c < 2 ^ 32) : crcByte c b < 2 ^ 32 := by
  unfold crcByte
  exact crcBit_lt (crcBit_lt (crcBit_lt (crcBit_lt (crcBit_lt (crcBit_lt (crcBit_lt (crcBit_lt (Nat.xor_lt_two_pow h (by omega)))))))))

theorem crc32c_lt (bs : List Nat) : crc32c bs < 2 ^ 32 := by
  have fold : ∀ (bs : List Nat) (c : Nat), c < 2 ^ 32 → bs.foldl crcByte c < 2 ^ 32 := by
    intro bs
    induction bs with
    | nil => exact fun _ h => h
    | cons b r ih => exact fun c h => ih _ (crcByte_lt b h)
  exact Nat.xor_lt_two_pow (fold bs _ (by decide)) (by decide)

/-- A function of a number that is worked out first. -/
def onNumber (f : Nat → Nat) : Nat → Nat
  | 0 => f 0
  | n + 1 => f (n + 1)

theorem onNumber_eq (f : Nat → Nat) (n : Nat) : onNumber f n = f n := by cases n <;> rfl

/-- The CRC with every byte's result worked out before the next. -/
def crcSteps (c : Nat) : List Nat → Nat
  | [] => c
  | b :: r => onNumber (fun n => crcSteps n r) (crcByte c b)

theorem crcSteps_eq (bs : List Nat) (c : Nat) : crcSteps c bs = bs.foldl crcByte c := by
  induction bs generalizing c with
  | nil => rfl
  | cons b r ih =>
    rw [List.foldl_cons, ← ih, crcSteps, onNumber_eq]

theorem crc_steps (bs : List Nat) : crc32c bs = crcSteps 0xFFFFFFFF bs ^^^ 0xFFFFFFFF := by rw [crcSteps_eq]; rfl

theorem witness_GroupChecks :
    (checkOf 0 0).toNat = groupCrc 0 0 0 (List.replicate 64 5) ∧ (checkOf 20479 0).toNat = groupCrc 0 15 1279 (List.replicate 64 5) := by
  unfold groupCrc
  rw [crc_steps, crc_steps]
  decide +kernel

/-- A load that has taken everything. -/
def fullLoad (k : LoadKind) : Load := { loadAt k 20480 with hdr := header, handlers := [(0, 1, 4095, [7])] }

/-! ### A sealed image of a part with two dies -/

/-- An image of 960 bytes, 64 in a number: a header, three sections (every frame of both dies 0; the handler word 7 at index
4,095 of engine (1, 0)), and a signature block. -/
def image2 : Nat := List.foldr (fun p n => p + 2 ^ 512 * n) 0 [
   0x900030102000003C00100000138504D58,
   0x0,
   0x0,
   0x0,
   0x580000005000000048000000400A9139B800000010000002B000000102E93CD3E8000000C0000001F000000101E93CD3E8000000C00000013000000001,
   0xDEB7F46A09FE20023FF30F7E09FE0002000000B8000000B0000000A8000000A00000009800000090000000880000008000000078000000700000006800000060,
   0xCD156C1D09FF20022C51970909FF000292F503F009FEE00273B1F8E409FEC0025590832909FEA002B4D4783D09FE800219D274B309FE6002F8968FA709FE4002,
   0x5800000050000000480000004081579B8709FFE0026013609309FFC00246321B5E09FFA002A776E04A09FF80020A70ECC409FF6002EB3417D009FF4002,
   0xDEB7F46A09FE20023FF30F7E09FE0002000000B8000000B0000000A8000000A00000009800000090000000880000008000000078000000700000006800000060,
   0xCD156C1D09FF20022C51970909FF000292F503F009FEE00273B1F8E409FEC0025590832909FEA002B4D4783D09FE800219D274B309FE6002F8968FA709FE4002,
   0x700010FFF000000000000000181579B8709FFE0026013609309FFC00246321B5E09FFA002A776E04A09FF80020A70ECC409FF6002EB3417D009FF4002,
   0x31534758,
   0x0,
   0x0,
   0x0]

def sectionsTwo : List Section :=
  [⟨1, 0, 0x130, 192, 0xE93CD3E8, 0⟩, ⟨1, 1, 0x1F0, 192, 0xE93CD3E8, 0⟩, ⟨2, 1, 0x2B0, 16, 0x0A9139B8, 0⟩]

/-- Its header. -/
def head2 : List (BitVec 8) := (List.range 256).map (fun i => BitVec.ofNat 8 (image2 / 256 ^ i))

/-- Where the CMAC of slot A stands. -/
def macAt : Nat := sealWord 0 * 8 + 16

/-- The image, as slot A holds it. -/
def inSlot : Memory := (List.range 960).map (fun i => (i, BitVec.ofNat 8 (image2 / 256 ^ i)))

/-- Slot A with the image and the first bytes of its seal record. -/
def unsealed : Memory :=
  inSlot ++ (leNats 4 0x4C534558 ++ leNats 4 960 ++ List.replicate 8 0).zipIdx.map (fun (x : Nat × Nat) => (sealWord 0 * 8 + x.2, BitVec.ofNat 8 x.1))

def sealHead0 : List Nat := (List.range 16).map (fun k => (Memory.read 0xFF unsealed (sealWord 0 * 8 + k)).toNat)

/-- The CMAC of those bytes under the seal key 0. -/
def mac : BitVec 128 := ({ on with flash := unsealed } : State).slotMac 0 sealHead0

def macCells : Memory := (List.range 16).map (fun k => (macAt + k, mac.extractLsb' (8 * k) 8))

/-- The start-up load of slot A, of which everything has been taken. -/
def slotLoad : Load := { loadAt .start 20480 with source := 1, hdr := head2, secs := 1, handlers := [(1, 1, 4095, [7])] }

def sealed : State := { on with part := ⟨.pv8_032, 2⟩, flash := unsealed ++ macCells, load := some slotLoad }

theorem find_append {α : Type} (a b : SMap α) (k : Nat) : SMap.find (a ++ b) k = (SMap.find a k).or (SMap.find b k) := by
  induction a with
  | nil => simp [SMap.find]
  | cons x r ih => simp only [List.cons_append, SMap.find]; split <;> simp [ih]

theorem find_apart {α : Type} (m : SMap α) (k : Nat) (h : ∀ e ∈ m, e.1 ≠ k) : SMap.find m k = none := by
  induction m with
  | nil => rfl
  | cons x r ih =>
    simp only [List.mem_cons, forall_eq_or_imp] at h
    simp [SMap.find, h.1, ih h.2]

theorem find_listed {β : Type} (f : Nat → Nat) (g : Nat → β) (inj : ∀ i j, f i = f j → i = j) (l : List Nat) (k : Nat) (h : k ∈ l) :
    SMap.find (l.map (fun i => (f i, g i))) (f k) = some (g k) := by
  induction l with
  | nil => cases h
  | cons x r ih =>
    simp only [List.map_cons, SMap.find]
    split
    · next e => rw [inj x k e]
    · next e =>
      rcases List.mem_cons.mp h with rfl | hr
      · exact absurd rfl e
      · exact ih hr

/-- The bytes before the CMAC are those of the image and its record. -/
theorem read_before (k : Nat) (h : k < macAt) : Memory.read 0xFF sealed.flash k = Memory.read 0xFF unsealed k := by
  have : SMap.find macCells k = none := by
    apply find_apart
    intro e he
    simp only [macCells, List.mem_map, List.mem_range] at he
    obtain ⟨i, _, rfl⟩ := he
    show macAt + i ≠ k
    omega
  show (SMap.find (unsealed ++ macCells) k).getD 0xFF = (SMap.find unsealed k).getD 0xFF
  rw [find_append, this, Option.or_none]

theorem read_mac (k : Nat) (h : k < 16) : Memory.read 0xFF sealed.flash (macAt + k) = mac.extractLsb' (8 * k) 8 := by
  have none_ : SMap.find unsealed (macAt + k) = none := by
    have at_ : macAt = 41938960 := by decide
    have record : sealWord 0 * 8 = 41938944 := by decide
    rw [unsealed, find_append, find_apart inSlot, find_apart]
    · rfl
    · intro e he
      simp only [List.mem_map] at he
      obtain ⟨x, hx, rfl⟩ := he
      have := (List.mem_zipIdx hx).2.1
      simp only [List.length_append, List.length_replicate] at this
      have : (leNats 4 0x4C534558).length = 4 := rfl
      have : (leNats 4 960).length = 4 := rfl
      show sealWord 0 * 8 + x.2 ≠ macAt + k
      omega
    · intro e he
      simp only [inSlot, List.mem_map, List.mem_range] at he
      obtain ⟨i, _, rfl⟩ := he
      show i ≠ macAt + k
      omega
  have cell : SMap.find macCells (macAt + k) = some (mac.extractLsb' (8 * k) 8) :=
    find_listed (fun k => macAt + k) _ (fun i j h => by simpa using h) _ k (List.mem_range.mpr h)
  show (SMap.find (unsealed ++ macCells) (macAt + k)).getD 0xFF = _
  rw [find_append, none_, cell]
  rfl

/-- The bytes of slot A, read from the number. -/
def slotByte (a : Nat) : Nat := if a < 960 then image2 / 256 ^ a % 256 else (Memory.read 0xFF sealed.flash a).toNat

theorem slot_bytes : sealed.slotRd 0 = slotByte := by
  funext a
  have : slotSector 0 * 4096 + a = a := by simp [slotSector]
  unfold State.slotRd slotByte
  rw [this]
  split
  · next h =>
    have at_ : macAt = 41938960 := by decide
    rw [read_before a (by omega)]
    show ((SMap.find unsealed a).getD 0xFF).toNat = _
    rw [unsealed, find_append, inSlot, find_listed (fun i => i) _ (fun i j h => h) _ a (List.mem_range.mpr h)]
    rfl
  · rfl

theorem halves (v : BitVec 128) : v.extractLsb' 64 64 ++ v.extractLsb' 0 64 = v := by
  apply BitVec.eq_of_getLsbD_eq
  intro i hi
  rw [BitVec.getLsbD_append]
  by_cases h : i < 64
  · simp [h]
  · have : 64 + (i - 64) = i := by omega
    simp [h, this]
    omega

theorem half_bytes (v : BitVec 128) (o : Nat) (a : Nat → BitVec 8) (h : ∀ k < 8, a k = v.extractLsb' (o + 8 * k) 8) :
    BitVec.ofNat 64 ((a 0).toNat + 256 * ((a 1).toNat + 256 * ((a 2).toNat + 256 * ((a 3).toNat + 256 * ((a 4).toNat +
      256 * ((a 5).toNat + 256 * ((a 6).toNat + 256 * ((a 7).toNat + 256 * 0)))))))) = v.extractLsb' o 64 := by
  apply BitVec.eq_of_toNat_eq
  rw [h 0 (by omega), h 1 (by omega), h 2 (by omega), h 3 (by omega), h 4 (by omega), h 5 (by omega), h 6 (by omega), h 7 (by omega)]
  simp only [BitVec.extractLsb'_toNat, BitVec.toNat_ofNat, Nat.shiftRight_eq_div_pow, Nat.pow_add, ← Nat.div_div_eq_div_mul,
    Nat.mul_zero, Nat.add_zero]
  generalize v.toNat / 2 ^ o = n
  norm_num
  omega

theorem sealed_half (o : Nat) (w : Nat) (ho : o = 0 ∨ o = 64) (hw : 8 * w = macAt + o / 8) : sealed.flWord w = mac.extractLsb' o 64 := by
  show BitVec.ofNat 64 (Memory.readLE 0xFF sealed.flash (8 * w) 8) = _
  rw [hw]
  exact half_bytes mac o (fun k => Memory.read 0xFF sealed.flash (macAt + o / 8 + k)) (fun k hk => by
    show Memory.read 0xFF sealed.flash (macAt + o / 8 + k) = _
    rw [Nat.add_assoc, read_mac (o / 8 + k) (by omega), show 8 * (o / 8 + k) = o + 8 * k by omega])

/-- Slot A carries a valid seal. -/
theorem sealed_mac : sealed.macMatches 0 = true := by
  have hd : (List.range 16).map (fun k => (Memory.read 0xFF sealed.flash (sealWord 0 * 8 + k)).toNat) = sealHead0 := by
    apply List.map_congr_left
    intro k hk
    rw [read_before _ (by simp only [List.mem_range] at hk; unfold macAt; omega)]
  have body : bytesAt (sealed.slotRd 0) 0 (imgLen (sealed.slotRd 0)) =
      bytesAt (({ on with flash := unsealed } : State).slotRd 0) 0 (imgLen (({ on with flash := unsealed } : State).slotRd 0)) := by
    have rd : ∀ a < 960, sealed.slotRd 0 a = ({ on with flash := unsealed } : State).slotRd 0 a := by
      intro a ha
      have at_ : macAt = 41938960 := by decide
      exact congrArg BitVec.toNat (read_before _ (by simp only [slotSector]; omega))
    have len : imgLen (({ on with flash := unsealed } : State).slotRd 0) = imgLen (sealed.slotRd 0) := by
      simp only [imgLen, leAt, rd 8 (by decide), rd (8 + 1) (by decide), rd (8 + 1 + 1) (by decide), rd (8 + 1 + 1 + 1) (by decide)]
    have n : imgLen (sealed.slotRd 0) = 960 := by rw [slot_bytes]; decide +kernel
    rw [len, n]
    exact List.map_congr_left (fun i hi => rd _ (by simp only [List.mem_range] at hi; omega))
  unfold State.macMatches
  rw [hd, sealed_half 64 (sealWord 0 + 3) (Or.inr rfl) (by decide), sealed_half 0 (sealWord 0 + 2) (Or.inl rfl) (by decide), halves]
  show (Config.aesCmac _ (bytesAt (sealed.slotRd 0) 0 (imgLen (sealed.slotRd 0)) ++ sealHead0) == mac) = true
  rw [body]
  exact beq_self_eq_true _

/-- Nothing of it is left to take. -/
theorem takeSections_done (s : State) (l : Load) (hl : s.load = some l) (xs : List Section) (k : Nat)
    (hf : ∀ x ∈ xs, x.type = 1 → s.nextRec l x.die = none) (hk : k + (xs.filter (fun x => x.type ≠ 1)).length ≤ l.secs) :
    s.takeSections k xs = s := by
  induction xs generalizing k with
  | nil => rfl
  | cons x r ih =>
    have hr := fun y hy => hf y (List.mem_cons_of_mem _ hy)
    simp only [State.takeSections, hl]
    split
    · next h =>
      have none_ := hf x (List.mem_cons_self ..) (by simpa using h)
      have : s.takeRecords x.die 20480 = s := by simp [State.takeRecords, hl, none_]
      rw [this, ite_self]
      have : x.type = 1 := by simpa using h
      exact ih k hr (by rwa [List.filter_cons_of_neg (by simp [this])] at hk)
    · next h =>
      have : x.type ≠ 1 := by simpa using h
      rw [List.filter_cons_of_pos (by simp [this]), List.length_cons] at hk
      have hk' : k + 1 + (r.filter (fun x => x.type ≠ 1)).length ≤ l.secs := by omega
      have : (l.secs ≠ k) := by omega
      simp only [this, ne_eq, not_false_eq_true, decide_true, Bool.or_true, Bool.true_or, if_true]
      exact ih (k + 1) hr hk'

theorem slot_load : sealed.loadRd slotLoad = slotByte := by
  have one : slotLoad.source = 1 := rfl
  simp only [State.loadRd, one]
  rw [if_pos (by decide)]
  exact slot_bytes

theorem slot_sections : sectionsOf slotByte = sectionsTwo := by decide +kernel

theorem sealed_rest : sealed.takeRest = sealed := by
  show sealed.takeSections 0 (sectionsOf (sealed.loadRd slotLoad)) = sealed
  rw [slot_load, slot_sections]
  exact takeSections_done sealed slotLoad rfl _ 0 (by decide +kernel) (by decide)

theorem sealed_read : sealed.imageRead 1 = sealed := rfl

theorem slot_crcs : ∀ x ∈ sectionsTwo, crc32c (bytesAt slotByte x.off x.len) = x.crc := by
  simp only [crc_steps]
  decide +kernel

theorem slot_structure : sealed.structureValid slotByte = true := by
  have part : (sealed.part.headerOk slotByte && decide (0x100 + 16 * imgSections slotByte + 256 ≤ imgLen slotByte) &&
      sigBlockOk slotByte && orderedIn (sigAt slotByte) (0x100 + 16 * imgSections slotByte) sectionsTwo) = true := by decide +kernel
  have rules : ∀ x ∈ sectionsTwo, (x.resv == 0 && (if x.type == 1 then decide (x.die < sealed.part.dies) && framesOk slotByte x
      else sealed.sectionRules x (secIn slotByte x))) = true := by decide +kernel
  have each : sectionsTwo.all (sealed.sectionOk slotByte) = true := by
    rw [List.all_eq_true]
    intro x hx
    have r := rules x hx
    simp only [Bool.and_eq_true] at r
    unfold State.sectionOk
    rw [slot_crcs x hx, r.1, r.2]
    simp
  have one : (List.range sealed.part.dies).all (fun d =>
      (sectionsTwo.filter (fun (x : Section) => x.type == 1 && x.die == d)).length == 1) = true := by decide
  have regs : sealed.regValuesOk (reginitOf slotByte) = true := by
    unfold reginitOf
    rw [slot_sections]
    decide
  unfold State.structureValid
  rw [slot_sections]
  simp only [part, each, one, regs, Bool.and_self]

/-- The image passes every check of a start-up load. -/
theorem sealed_source : sealed.sourceVerdict slotLoad = St.ok := by
  have crc : sectionsTwo.any (fun x => decide (crc32c (bytesAt slotByte x.off x.len) ≠ x.crc)) = false := by
    rw [List.any_eq_false]
    intro x hx
    simp [slot_crcs x hx]
  have lv : lvdsAdmits slotByte = true := by
    unfold lvdsAdmits reginitOf
    rw [slot_sections]
    decide
  have unread : sealed.slotUnread 0 = false := rfl
  unfold State.sourceVerdict
  simp only [slot_load, show slotLoad.source = 1 from rfl, Nat.sub_self, unread, sealed_mac, slot_sections, crc, slot_structure, lv]
  rfl

theorem sealed_ok : (sealed.loadVerdict slotLoad).1 = St.ok := by
  have dies : ((List.range sealed.part.dies).filter (sealed.covers slotLoad)).find? (fun d => slotLoad.next.getD d 0 ≠ 20480) = none := by
    decide +kernel
  unfold State.loadVerdict
  rw [show slotLoad.bad = none from rfl]
  simp only [dies]
  exact sealed_source

/-- The same image, loaded by a live swap that has changed no engine. -/
def swapLoad1 : Load := { slotLoad with kind := .swap, handlers := [] }
def sealedSwap : State := { sealed with load := some swapLoad1 }

theorem unread_of (s : State) (x : Option Load) (k : Nat) : State.slotUnread { s with load := x } k = s.slotUnread k := rfl
theorem slotRd_of (s : State) (x : Option Load) (k : Nat) : State.slotRd { s with load := x } k = s.slotRd k := rfl
theorem mac_of (s : State) (x : Option Load) (k : Nat) : State.macMatches { s with load := x } k = s.macMatches k := rfl
theorem signature_of (s : State) (x : Option Load) (rd : Nat → Nat) :
    State.signatureValid { s with load := x } rd = s.signatureValid rd := rfl
theorem rules_of (s : State) (x : Option Load) (y : Section) (b : SecBody) :
    State.sectionRules { s with load := x } y b = s.sectionRules y b := by cases b <;> rfl
theorem values_of (s : State) (x : Option Load) (ps : List (Word × Word)) :
    State.regValuesOk { s with load := x } ps = s.regValuesOk ps := by
  have fold : ∀ (l : SMap Word) (s : State), l.foldl (fun (t : State) (p : Nat × Word) => t.csrSet p.1 p.2) { s with load := x } =
      { l.foldl (fun (t : State) (p : Nat × Word) => t.csrSet p.1 p.2) s with load := x } := by
    intro l
    induction l with
    | nil => exact fun _ => rfl
    | cons p r ih => exact fun s => ih (s.csrSet p.1 p.2)
  unfold State.regValuesOk
  dsimp only
  rw [fold (finalRegs ps) s]
  rfl
theorem structure_of (s : State) (x : Option Load) (rd : Nat → Nat) :
    State.structureValid { s with load := x } rd = s.structureValid rd := by
  unfold State.structureValid State.sectionOk
  simp only [rules_of, values_of]

theorem source_of (s : State) (l : Load) (x : Option Load) (k : LoadKind) (h : List (Nat × Nat × Nat × List Word)) :
    State.sourceVerdict { s with load := x } { l with kind := k, handlers := h } = s.sourceVerdict l := by
  unfold State.sourceVerdict State.loadRd
  simp only [unread_of, slotRd_of, mac_of, signature_of, structure_of]
  rfl

theorem swap_source : sealedSwap.sourceVerdict swapLoad1 = sealed.sourceVerdict slotLoad :=
  source_of sealed slotLoad (some swapLoad1) .swap []

theorem swap_ok : (sealedSwap.loadVerdict swapLoad1).1 = St.ok := by
  have dies : ((List.range sealedSwap.part.dies).filter (sealedSwap.covers swapLoad1)).find? (fun d => swapLoad1.next.getD d 0 ≠ 20480) = none := by
    decide +kernel
  unfold State.loadVerdict
  rw [show swapLoad1.bad = none from rfl]
  simp only [dies]
  rw [swap_source]
  exact sealed_source

theorem swap_rest : sealedSwap.takeRest = sealedSwap := by
  show sealedSwap.takeSections 0 (sectionsOf (sealed.loadRd slotLoad)) = sealedSwap
  rw [slot_load, slot_sections]
  exact takeSections_done sealedSwap swapLoad1 rfl _ 0 (by decide +kernel) (by decide)

def rel (sc : Scope) (step : Nat) (why : RelWhy) : Release := { scope := sc, step := step, why := why, skip := [] }
def swapOf (src : Nat) (p : SwapPhase) : SwapSt :=
  { cmd := { host := .i3c 8, via := .i3c 58, tag := 1, seq := 0, chain := 0, flags := 0, status := 0, resZero := true, length := 1, payload := [0] },
    source := src, phase := p, todo := [], pause := 0 }

/-- No engine changes where the stores are empty and the image names neither a handler nor a register. -/
theorem engChanges_nothing (s : State) (l : Load) (hs : s.store = []) (hh : l.handlers = []) (hr : l.reginit = []) (d e : Nat) :
    s.engChanges l d e = false := by
  simp [State.engChanges, State.oldStore, engEntries, finalRegs, newStore, hs, hh, hr]

/-- No engine runs where no engine has a record. -/
theorem eng_idle (s : State) (h : s.engs = []) (d e : Nat) : (s.eng d e).running = false := by
  simp [State.eng, h]; rfl

theorem witness_LoadEndAndLiveSwap :
    (let l := slotLoad; let s := sealed
     s.load = some l ∧ s.tapHeld = false ∧ (∀ d, s.covers l d = true → 20480 ≤ l.next.getD d 0) ∧
     (otherSections (s.loadRd l)).length ≤ l.secs ∧ l.bad = none ∧ l.kind = .start ∧ s.takeRest.load = some l ∧ l.source = 1 ∧
     ((s.takeRest.imageRead l.source).loadVerdict l).1 = St.ok ∧ l.reginit = [] ∧ l.bankinit = [] ∧
     l.handlers = [((1 : Die).val, 1, 4095, [7])] ∧ s.dieOn 1 = true ∧ 1 < s.part.dies ∧ 4095 + [7].length ≤ 4096 ∧ bitOf 1 0 = true) ∧
    (∀ k < 3, let s := { on with releases := [rel .all k .load] }
      s.releaseOf .all = some (rel .all k .load) ∧ s.tapHeld = false ∧ s.waitsFor .load = false ∧ (7, 15) ∈ s.relReaches (rel .all k .load) ∧
      7 ∈ s.relDies (rel .all k .load) ∧ (s.waiting stw).length < 64) ∧
    (let sc : Scope := .reach 7 15; let s := { on with releases := [rel sc 2 .wake] }
     s.releaseOf sc = some (rel sc 2 .wake) ∧ s.dieOn 7 = true ∧ s.gated 7 15 = false ∧ s.pwr.wake = none) ∧
    (let w := swapOf 4 .background; let l := { fullLoad .host with handlers := [] }; let s := { on with swap := some w, hostImage := some l }
     s.swap = some w ∧ s.swapLoad w = some l ∧ s.allEngines.filter (fun x => s.engChanges l x.1 x.2) = [] ∧
     (∀ p ∈ l.reginit, swapClass p.1.toNat ≠ 1)) ∧
    (let s := sealedSwap
     (s.takeRest.imageRead 1).swapLoad (swapOf 1 .background) = some swapLoad1 ∧
     ((s.takeRest.imageRead 1).loadVerdict swapLoad1).1 = St.ok) ∧
    (let s := (on.setEng 0 0 x0); let l := { fullLoad .host with handlers := [(0, 1, 4095, [7])] }
     (∃ rest, s.allEngines.filter (fun x => s.engChanges l x.1 x.2) = (0, 0) :: rest) ∧ (s.eng 0 0).running = true ∧ s.dieOn 0 = true) ∧
    (let w := { swapOf 4 .updating with todo := [(7, 63)] }; let s := { on with swap := some w, hostImage := some (fullLoad .host) }
     s.swapLoad w = some (fullLoad .host) ∧ s.dieOn 7 = true ∧ (s.eng 7 63).running = false ∧ (s.eng 7 63).fences = [] ∧
     (∀ x ∈ (fullLoad .host).handlers, x.2.2.1 + x.2.2.2.length ≤ 4096)) ∧
    (let w := swapOf 1 .drain; let s := { on with swap := some w, hostImage := some (fullLoad .swap), rewrite := [(7, rew 0)] }
     s.cmds.find? (·.hdr == w.cmd) = none ∧ (s.waiting stw).length < 64 ∧ s.shadowCsr = [] ∧ s.flipList = [] ∧
     (∀ x ∈ s.allEngines, (s.eng x.1 x.2).running = false) ∧ SMap.find s.rewrite 7 = some (rew 0) ∧ (rew 0).reach < 16) := by
  refine ⟨⟨rfl, rfl, ?_, ?_, rfl, rfl, ?_, rfl, ?_, rfl, rfl, rfl, ?_⟩, ?_, ?_, ⟨rfl, rfl, ?_, fun p hp => nomatch hp⟩, ⟨?_, ?_⟩,
    ⟨⟨_, List.filter_cons_of_pos (by decide +kernel)⟩, by decide +kernel, by decide +kernel⟩, ?_, ⟨?_, ?_, ?_, ?_, fun x _ => eng_idle _ rfl _ _, ?_, ?_⟩⟩
  · intro d h
    have : d < 2 := by
      by_contra hd
      have : sealed.populated d = false := by
        simp only [State.populated, show sealed.part.dies = 2 from rfl]
        simpa using hd
      simp [State.covers, State.dieOn, this] at h
    interval_cases d <;> decide +kernel
  · rw [slot_load]
    unfold otherSections
    rw [slot_sections]
    decide
  · rw [sealed_rest]
    rfl
  · rw [sealed_rest]
    exact sealed_ok
  · decide +kernel
  · decide +kernel
  · decide +kernel
  · rw [List.filter_eq_nil_iff]
    intro x _
    rw [engChanges_nothing _ _ rfl rfl rfl]
    decide
  · rw [swap_rest]
    rfl
  · rw [swap_rest]
    exact swap_ok
  · decide +kernel
  all_goals decide +kernel

def scrubAt (i : Nat) (bad : List Nat) : State :=
  let s := ((free on).fset (Csr.cfgScrubSts 0) CfgScrubSts.frame i).fset (Csr.cfgScrubCtrl 0) CfgScrubCtrl.en 1 |>.fset (Csr.cfgScrubCtrl 0) CfgScrubCtrl.autoReload 0
  { s with frameBad := [(frameNo 0 0 (i / 2048) (i % 2048), bad)] }

/-- A patch of reach 15 of die 7 that fills it with zeros, and has been read: one record, and its check. -/
def patchJob (crc : Nat) (poison : Bool) : ReachJob :=
  { jobAt with next := 2, got := [⟨0, BitVec.ofNat 64 (0x09FFE002 + 2 ^ 32 * crc), poison, St.ok⟩] }

theorem witness_PatchReachSwapAndScrub :
    (let s := patches.fset (Csr.fabPatchLen 7) FabPatchLen.len 8
     s.dieOn 7 = true ∧ s.patchable 7 15 = true ∧ s.patchable 7 14 = false ∧
     (∀ x ∈ [(patches, 0), (s, 8)], x.1.fget (Csr.fabPatchLen 7) FabPatchLen.len / 4 * 4 = x.2) ∧
     8 * (s.fget (Csr.fabPatchSrc 7) FabPatchSrc.bank * 16384 + s.fget (Csr.fabPatchSrc 7) FabPatchSrc.word) + 8 ≤ 48 * 131072 ∧
     (let t := (s.fset (Csr.fabPatchSrc 7) FabPatchSrc.bank 47).fset (Csr.fabPatchSrc 7) FabPatchSrc.word 16383
      let u := t.fset (Csr.fabPatchLen 7) FabPatchLen.len 12
      8 * (t.fget (Csr.fabPatchSrc 7) FabPatchSrc.bank * 16384 + t.fget (Csr.fabPatchSrc 7) FabPatchSrc.word) + 8 = 48 * 131072 ∧
      48 * 131072 < 8 * (t.fget (Csr.fabPatchSrc 7) FabPatchSrc.bank * 16384 + t.fget (Csr.fabPatchSrc 7) FabPatchSrc.word) +
        u.fget (Csr.fabPatchLen 7) FabPatchLen.len / 4 * 4) ∧
     ¬ ((∃ j ∈ s.jobs, j.die = 7) ∨ s.swap.isSome = true) ∧ SMap.find s.rewrite 7 = none ∧ s.load = none ∧
     (loadAt .start 0).kind ≠ .host ∧ ({ s with load := some (loadAt .start 0) } : State).covers (loadAt .start 0) 7 = true ∧
     (∃ j ∈ ({ s with jobs := [jobAt] } : State).jobs, j.die = 7)) ∧
    (let j := { jobAt with kind := .reload none, next := 1280 }; let k := { j with bad := some (4, 9) }
     ({ on with jobs := [j] } : State).jobOf 7 15 = some j ∧ j.swapping = false ∧ on.swap = none ∧ SMap.find on.rewrite 7 = none ∧
     ({ on with jobs := [k] } : State).jobOf 7 15 = some k ∧ on.pwr.wake = none ∧ (on.waiting 7).length < 64) ∧
    (let j := patchJob 0x81579B87 false; let s := { patches with jobs := [j] }
     s.jobOf 7 15 = some j ∧ j.kind = .patch ∧ j.swapping = false ∧ (j.next + 1) / 2 ≤ j.got.length ∧
     (s.buildPatch 7 15 0 j.next (patchWords j.got j.next)).bad = none) ∧
    (∀ j ∈ [patchJob 0x81579B86 false, patchJob 0x81579B87 true], let s := { patches with jobs := [j] }
     s.jobOf 7 15 = some j ∧ j.kind = .patch ∧ j.swapping = false ∧ (j.next + 1) / 2 ≤ j.got.length ∧ (s.waiting 7).length < 64 ∧
     (s.buildPatch 7 15 0 j.next (patchWords j.got j.next)).bad = some (St.integrityFail, 0)) ∧
    (let j := { patchJob 0 false with got := [] }; j.kind = .patch ∧ j.swapping = false ∧ j.got.length < (j.next + 1) / 2) ∧
    (let j := { jobAt with swapping := true }; let s := { on with jobs := [j] }
     s.jobOf 7 15 = some j ∧ s.releaseOf (.reach 7 15) = none) ∧
    (∀ i ∈ [1, 15 * 2048 + 1278], ∀ b ∈ [0, 2047, 2063], let s := scrubAt i [b]
      s.fget (Csr.cfgScrubSts 0) CfgScrubSts.frame = i ∧ i % 2048 < 1279 ∧ s.fbit (Csr.cfgScrubCtrl 0) CfgScrubCtrl.en = true ∧
      s.scrubSkipsReach 0 (i / 2048) = false ∧ SMap.get [] s.frameBad (frameNo (s.plane 0 (i / 2048)) 0 (i / 2048) (i % 2048)) = [b]) ∧
    (on.scrubSkipsReach 0 0 = true ∧ (scrubAt 1 [0, 1]).fbit (Csr.cfgScrubCtrl 0) CfgScrubCtrl.autoReload = false ∧
     (scrubAt 1 []).windowOpen 0 0x0506 0 = false) := by
  and_intros <;> decide +kernel

/-! ## Hosts -/

/-- The Steward serves, in RMA, an image of slot 0 runs. -/
def stw_ : State := (rma.fset Csr.mbInfo MbInfo.ready 1).setSource 1

/-- A command by I3C with a payload of `n` bytes. -/
def hdr (n : Nat) : CmdHdr :=
  { host := .i3c 8, via := .i3c 58, tag := 7, seq := 3, chain := 0, flags := 0, status := 0, resZero := true, length := n, payload := List.replicate n 0 }

/-- The function commands by mailbox 0 of a link with an endpoint role, and sixteen other hosts are known. -/
def byMailbox : CmdHdr := { hdr 0 with host := .function, via := .mailbox 0 }
def others : List HostRec :=
  (List.range 16).map (fun i => ⟨.i3c (BitVec.ofNat 8 i), .i3c 58, 0xFFFF, 0, 0, 0, 0, 0, []⟩)
def full16 : State := { (port stw_ 1).fset (Csr.mbSts 0) MbSts.busy 1 with hosts := others, options := [0, 0, 0, 0, 0] }

def cmdOf (tag : BitVec 16) (op : Nat) (w : Work) : Cmd := { hdr := { hdr 0 with tag := tag }, op := op, work := w, aborts := [] }

theorem witness_HostCommandEntry :
    (on.fget (Csr.mbSts 0) MbSts.busy = 0 ∧ on.fget (Csr.mbSts 0) MbSts.done = 0 ∧ full16.fget (Csr.mbSts 0) MbSts.busy ≠ 0) ∧
    (full16.Takes byMailbox 0x0005 0 Gate.open_ ∧ full16.hostRec byMailbox.host = none ∧ full16.hosts.length = 16) ∧
    ((port stw_ 1).mctpPort 0 = true ∧ (5 : BitVec 8) ≠ 0 ∧ stw_.fbit Csr.pinEn PinEn.tgt = true ∧
      (58 : BitVec 7).toNat = stw_.opt 0x10 % 128) ∧
    (hostCommand (.noticeStats (hdr 0)) = some (hdr 0, 0x0005) ∧ on.serves (hdr 0) 0x0005 = false ∧ stw_.serves (hdr 0) 0x0005 = true ∧
      stw_.Receives (hdr 0) 0x0005 ∧ 4096 < (hdr 4097).length) ∧
    (let h := { hdr 0 with chain := 31 }; let s := (stw_.fset Csr.towSts TowSts.head 1).fset Csr.towSts TowSts.size 32
     let b := { s with tow := { s.tow with enumBusy := true } }; let u := { s with tow := { s.tow with breaks := [31, 0] } }
     stw_.serves h 5 = true ∧ h.chain.toNat ≠ stw_.ownAddr ∧ bcast h = false ∧ stw_.actingHead = false ∧ s.actingHead = true ∧
     h.chain.toNat ≠ s.ownAddr ∧ s.tow.enumBusy = false ∧ h.chain.toNat < s.fget Csr.towSts TowSts.size ∧ s.unreachablePkg 31 = false ∧
     b.tow.enumBusy = true ∧ b.serves h 5 = true ∧ (s.fset Csr.towSts TowSts.size 31).fget Csr.towSts TowSts.size ≤ 31 ∧
     u.serves h 5 = true ∧ ({ s with tow := { s.tow with breaks := [30, 31] } } : State).unreachablePkg 31 = true) ∧
    (let s := { port stw_ 1 with options := List.replicate 32 0 }; let s := { s with trans := { s.trans with eids := [(0, 9)] } }
     let h := { hdr 0 with host := .mctp 9, via := .vdm 0, chain := 31 }
     s.serves h 5 = true ∧ (s.arrived h).headerFault h = none ∧ h.chain.toNat ≠ s.ownAddr ∧ bcast h = false ∧ s.portServes h = false ∧
     full16.portServes byMailbox = true) ∧
    (let s := { stw_ with cmds := [cmdOf 7 0x0204 .swap] }; let t := { stw_ with cmds := (List.range 8).map (fun i => cmdOf (BitVec.ofNat 16 (i + 8)) 5 .relay) }
     s.Receives (hdr 0) 5 ∧ (∃ x ∈ s.unanswered (hdr 0).host, x.tag = (hdr 0).tag) ∧ t.Receives (hdr 0) 5 ∧
     (∀ x ∈ t.unanswered (hdr 0).host, x.tag ≠ (hdr 0).tag) ∧ 8 ≤ (t.unanswered (hdr 0).host).length) ∧
    (let s := stw_.fset Csr.lcSts LcSts.state 0x30; let a := s.arrived (hdr 6)
     s.Receives (hdr 6) 0x0105 ∧ a.headerFault (hdr 6) = none ∧ a.holds (hdr 6).host Right.readback = false ∧
     a.holds (hdr 6).host Right.flread = false ∧ s.Receives (hdr 6) 0x0106 ∧
     (let t := s.fset Csr.lcSts LcSts.next 0x60; t.fget Csr.lcSts LcSts.next = 0x60 ∧ t.lcState ≠ 0x60 ∧ t.Receives (hdr 6) 0x0005 ∧
      (t.arrived (hdr 6)).headerFault (hdr 6) = none)) ∧
    (stw_.Receives (hdr 0) 0xFFFF ∧ (hdr 0).length ≤ 4096 ∧ (hdr 0).length = (hdr 0).payload.length ∧ (hdr 0).flags.toNat < 8) ∧
    (let c : Cmd := { hdr := hdr 0, op := 5, work := .refused 1 3, aborts := [] }
     ({ stw_ with refused := [c] } : State).refused = c :: [] ∧ stw_.holds (hdr 0).host Right.diag = true) := by
  and_intros <;> decide +kernel

theorem witness_HostInformation :
    (stw_.Takes (hdr 0) 0x0001 0 Gate.open_ ∧ stw_.Takes (hdr 0) 0x0002 0 Gate.open_ ∧ stw_.Takes (hdr 2) 0x0004 2 Gate.open_ ∧
      stw_.Takes (hdr 0) 0x0005 0 Gate.open_ ∧ stw_.Takes (hdr 2) 0x0003 2 Gate.open_) ∧
    (((stw_.arrived (hdr 0)).hostRec (hdr 0).host).isSome = true ∧ (0x07FE : BitVec 16) &&& 0xF801#16 = 0 ∧ (0x0800 : BitVec 16) &&& 0xF801#16 ≠ 0) ∧
    ((∀ x ∈ stw_.unanswered (hdr 2).host, x.tag ≠ 9) ∧ stw_.sess = none) ∧
    (let x : LoadSess := { hdr := { hdr 8 with tag := 9 }, target := 0, total := 8, got := 0, half := none }; let s := { stw_ with sess := some x }
     s.sess = some x ∧ x.hdr.host = (hdr 2).host ∧ x.hdr.tag = 9 ∧ s.cmds = [] ∧ s.job = none ∧ s.Takes (hdr 2) 0x0003 2 Gate.open_ ∧
     (∀ y ∈ s.unanswered (hdr 2).host, y.tag ≠ 9) ∧ x.hdr.tag ≠ 8) ∧
    (∀ p ∈ [SwapPhase.background, .updating, .verified], let c := cmdOf 9 0x0204 .swap; let w := swapOf 1 p; let s := { stw_ with cmds := [c], swap := some w }
     s.Takes (hdr 2) 0x0003 2 Gate.open_ ∧ s.unanswered (hdr 2).host = [c.hdr] ∧ c.hdr.tag = 9 ∧ s.swap = some w ∧
     (w.phase = .background ∨ w.phase = .updating ∨ w.phase = .verified)) := by
  and_intros <;> decide +kernel

theorem witness_HostReadsAndWrites :
    (let a := stw_.arrived (hdr 6); let as := (List.range 256).map (fun i => (Csr.engCtrl 0 0 + 4 * i) % 2 ^ 32 / 4 * 4)
     stw_.Takes (hdr 6) 0x0101 6 (rawGate (Csr.engCtrl 0 0) 256) ∧ stw_.needsDie as = false ∧ stw_.Takes (hdr 6) 0x0101 6 (rawGate Csr.pwrSts 1) ∧
     stw_.reachable Csr.pwrSts = true ∧ (∀ x ∈ [Csr.pwrSts], (a.msgRead (hdr 6).host x).2 = a)) ∧
    (let h := hdr 12; stw_.Takes h 0x0102 8 (rawGate (Csr.pwrVcore 7) 1) ∧ h.length = 12 ∧ stw_.needsDie [Csr.pwrVcore 7 / 4 * 4] = false ∧
      stw_.reachable (Csr.pwrVcore 7 / 4 * 4) = true) ∧
    (let addr : Word := 0x13DFFFF8; let d := addr.toNat / 2 ^ 23 % 8; let b := addr.toNat / 2 ^ 17 % 64; let w := addr.toNat % 2 ^ 17 / 8
     let s := stw_.fset (Csr.bankInfo 7 47) BankInfo.unav 0
     d = 7 ∧ b = 47 ∧ addr.toNat / 2 ^ 26 = 4 ∧ addr.toNat % 8 = 0 ∧ w = 16383 ∧ s.populated d = true ∧ b < 48 ∧
     w + (8 : BitVec 16).toNat / 8 ≤ 16384 ∧ s.noLogic = false ∧ s.dieOn d = true ∧ (s.fset (Csr.bankInfo d b) BankInfo.unav 0).bankUnav d b = false ∧
     (∀ i < 1, s.bankMarkOf d b (w + i) = WordMark.clean) ∧ s.Takes (hdr 6) 0x0103 6 Gate.open_ ∧ s.Takes (hdr 16) 0x0104 8 Gate.open_ ∧
     (s.setSource 0).noLogic = true ∧ (s.setSource 0).Takes (hdr 6) 0x0103 6 Gate.open_) ∧
    (let as := (List.range 16).map (fun i => 7 * 2 ^ 15 + 15 * 2 ^ 11 + 1264 + i)
     stw_.Takes (hdr 6) 0x0105 6 (Gate.needs Right.readback) ∧ (∀ x ∈ as, stw_.frameHere x = true) ∧ (∀ x ∈ as, stw_.dieOn (x / 2 ^ 15) = true) ∧
     stw_.frameHere (7 * 2 ^ 15 + 15 * 2 ^ 11 + 1280) = false) ∧
    (let off := 24576 * 4096 - 4
     stw_.Takes (hdr 6) 0x0106 6 { Gate.needs Right.flread with level := stw_.levelReads off } ∧ off % 4 = 0 ∧ off + 4 ≤ 24576 * 4096 ∧
     stw_.flashBad = [] ∧ stw_.fl.op = none ∧ stw_.fl.susp = none ∧ stw_.flState = Fs.idle ∧ 24576 * 4096 < off + 4096 ∧
     (let s := stw_.fset Csr.flSts FlSts.state Fs.erase
      s.flState = Fs.erase ∧ s.Takes (hdr 6) 0x0106 6 { Gate.needs Right.flread with level := s.levelReads off })) ∧
    (stw_.Takes (hdr 6) 0x0206 6 Gate.open_ ∧ stw_.protLevel < 2 ∧ (∀ o ∈ [0, 0x100, 0x200, 0x207, 0x1000, 0x1FFF],
      o ≤ 0x100 ∨ (0x200 ≤ o ∧ o ≤ 0x207) ∨ (0x1000 ≤ o ∧ o ≤ 0x1FFF))) := by
  and_intros <;> decide +kernel

/-- A session of a target. -/
def sessOf (target total got : Nat) : LoadSess := { hdr := hdr 8, target := target, total := total, got := got, half := none }

theorem witness_LoadSessions :
    (stw_.Takes (hdr 8) 0x0201 8 Gate.open_ ∧ stw_.loadRow = false ∧ stw_.flashRow = false ∧ stw_.reachWork = false ∧ stw_.swap = none ∧
      stw_.inStandby = false ∧ stw_.shadowsInUse = false ∧ ({ stw_ with sess := some (sessOf 0 8 0) } : State).loadRow = true ∧
      ({ stw_ with sess := some (sessOf 0 8 0) } : State).Takes (hdr 8) 0x0201 8 Gate.open_) ∧
    (∀ x ∈ [(1, 1), (2, 1), (3, 1)], (x.1 ≤ 2 → ((stw_.setSource 3).slotLocked (x.1 - 1) = false)) ∧
      (stw_.setSource 3).flCheck (.erase (if x.1 = 3 then 20480 + 1024 * stw_.otherCopy + 1023 else 10240 * (x.1 - 1) + 10239)) = none) ∧
    (let h := hdr 12; let x := sessOf 0 16 8; let s := { stw_ with sess := some x }
     s.Takes h 0x0202 8 Gate.open_ ∧ h.length = 4 + 8 ∧ x.hdr.host = h.host ∧ x.got + 8 ≤ x.total ∧ h.host ≠ .function) ∧
    (let x := sessOf 1 16 8; let s := { stw_.setSource 3 with sess := some x }
     s.Takes (hdr 12) 0x0202 8 Gate.open_ ∧ s.flashTaken = false ∧ x.half = none ∧ x.got % 4096 ≠ 0 ∧ s.flCheck (.prog x.got 9 false) = none ∧
     (s.fset Csr.flSts FlSts.state 1).flashTaken = true) ∧
    (let s := { stw_ with sess := some (sessOf 0 16 8) }; s.Takes (hdr 0) 0x0203 0 { Gate.open_ with lcOk := s.lcPermits || false }) ∧
    (∀ src ∈ [0, 1], let l := fullLoad .host; let s := { stw_.setSource src with sess := some (sessOf 0 16 16), load := some l }
     s.Takes (hdr 0) 0x0203 0 { Gate.open_ with lcOk := s.lcPermits || false } ∧ (s.arrived (hdr 0)).takeRest.load = some l ∧ l.source = 4 ∧
     s.source = src ∧ l.reginit = []) ∧
    (∀ c ∈ stw_.cmds, c.op ≠ 0x0201 ∧ c.op ≠ 0x0202 ∧ c.op ≠ 0x0203) := by
  and_intros <;> decide +kernel

/-! ## Images in flash, OTP, flash and resets -/

/-- A READY host image. -/
def readyImage : State :=
  let s := { stw_ with hostImage := some (fullLoad .host), otp := [(0x50, 1)] }
  s.setShadows 2

/-- Every die released. -/
def relAll (s : State) : State := (List.range 8).foldl (fun (s : State) d => s.fset (Csr.cfgSts d) CfgSts.released 1) s

theorem witness_SwapReloadAndFlashWrites :
    (let s := readyImage; s.Takes (hdr 1) 0x0204 1 { Gate.open_ with lcOk := s.lcPermits } ∧ s.loadRow = false ∧ s.swapFault 4 = none ∧
      s.swapFault 0 = some St.badArgument ∧ s.swapFault 1 = some St.badArgument ∧ s.swapFault 2 = some St.notPresent ∧
      ({ s with otp := [] } : State).swapFault 4 = some St.integrityFail ∧ ({ s with swap := some (swapOf 4 .drain) } : State).loadRow = true ∧
      ({ s with swap := some (swapOf 4 .drain) } : State).Takes (hdr 1) 0x0204 1 { Gate.open_ with lcOk := s.lcPermits }) ∧
    (let s := relAll (free stw_)
     s.Takes (hdr 2) 0x0205 2 Gate.open_ ∧ s.noLogic = false ∧ s.dieOn 7 = true ∧ s.gated 7 15 = false ∧ s.fromSlot = true ∧
     s.reloadBusy 7 15 = false ∧ s.swap = none ∧ stw_.reloadBusy 7 15 = true ∧ (stw_.setSource 0).noLogic = true ∧
     (stw_.setSource 0).Takes (hdr 2) 0x0205 2 Gate.open_) ∧
    (∀ n ∈ [1, 0xF8], stw_.Takes (hdr (4 + n)) 0x0207 5 Gate.open_ ∧ (hdr (4 + n)).length = 4 + n) ∧
    (stw_.Takes (hdr 5) 0x0207 5 Gate.open_ ∧ stw_.flashRow = false ∧ stw_.optCurrent = none ∧ stw_.flCheck (.erase 24448) = none ∧
      [BitVec.ofNat 8 stw_.protLevel] = [0]) ∧
    (let j : Job := { cmd := hdr 0, steps := [], stop := false }; let s := { stw_ with job := some j }
     s.flashRow = true ∧ s.Takes (hdr 5) 0x0207 5 Gate.open_) ∧
    (stw_.Takes (hdr 8) 0x0301 8 Gate.open_ ∧ (1919 : Word).toNat + (1 : Word).toNat ≤ 1920 ∧ stw_.flCheck (.erase (22528 + 1919)) = none) ∧
    (stw_.Takes (hdr 12) 0x0302 4 Gate.open_ ∧ (hdr 12).length = 4 + 8 * (0 + 1) ∧ (7864312 : Word).toNat % 8 = 0 ∧
      (7864312 : Word).toNat + 8 * (0 + 1) = 1920 * 4096 ∧ stw_.flCheck (.prog (22528 * 4096 + 7864312) 9 false) = none ∧
      1920 * 4096 < (7864312 : Word).toNat + 8 * (1 + 1)) := by
  and_intros <;> decide +kernel

/-- The life cycle in a state of Table 11-2, with keys 0 and 1 usable. -/
def life (st : Nat) : State := { stw_.fset Csr.lcSts LcSts.state st with otp := [(0x50, 1), (0x56, 1)] }

/-- A host with every right. -/
def rights (s : State) : State := { s with hosts := [⟨.i3c 8, .i3c 58, 0xFFFF, 0, 0, 0, 0, 0, (List.range 8).map (fun r => (r, 0))⟩] }

/-- A command of the host that carries these bytes. -/
def carries (len num : Nat) : CmdHdr := { hdr 0 with length := len, payload := bytesOf len num }

/-- A certificate of key 0 with this counter, for the serial number 0. -/
def certOf (n : Nat) : CmdHdr := carries 240 (0x54524344 + 2 ^ 40 + 2 ^ 192 * n + 2 ^ 224 * 0xFF)

theorem witness_OtpAndLifeCycle :
    (let s := { stw_ with otpBusy := some (1023, 5) }; s.otpBusy = some (1023, 5) ∧ s.job = none ∧ s.tapHeld = false ∧
      (s.waiting stw).length < 64) ∧
    (∀ st ∈ [0x30, 0x40], let s := rights (life st); s.flashRow = false ∧ (s.lcState = 0x30 ∨ s.lcState = 0x40) ∧
      s.Takes (hdr 12) 0x0403 12 (Gate.needs Right.otpwr)) ∧
    (let s := life 0; s.flashRow = false ∧ s.lcState = 0 ∧ s.Takes (hdr 12) 0x0403 12 Gate.open_ ∧ s.otpWord 0x49 = 0 ∧
      (let t := { s with otp := [(0x69, 1)] }; t.otpWord 0x69 ≠ 0 ∧ t.Takes (hdr 12) 0x0403 12 Gate.open_)) ∧
    (∀ x ∈ [0x10, 0x21], (life x).lcState = x ∧ (life x).Takes (hdr 36) 0x0401 36 { Gate.open_ with right := none }) ∧
    (let s := rights (life 0x30); s.lcState = 0x30 ∧ (∃ i < 3, s.keyUsable i = true) ∧
      s.Takes (hdr 36) 0x0401 36 { Gate.open_ with right := some Right.otpwr }) ∧
    (let s := life 0x40; s.Takes (hdr 200) 0x0404 200 Gate.open_ ∧ s.keyPresent 1 = true ∧ (∃ i < 3, i ≠ 1 ∧ s.keyUsable i = true) ∧
      s.keyUsable 0 = true ∧ s.keyUsable 2 = false ∧ s.otpWord (0x62 + 1) = 0 ∧ ¬ s.keyPresent 2 = true) ∧
    (life 0x40).Takes (hdr 0) 0x0402 0 Gate.open_ ∧
    ((life 0x10).fget Csr.lcSts LcSts.next ≠ 0x60 ∧ (life 0x10).portServes (hdr 36) = true ∧ (life 0x10).Receives (hdr 36) 0x0401 ∧
      ((life 0x10).arrived (hdr 36)).headerFault (hdr 36) = none) ∧
    (∀ n ∈ [0, 1, 1024, 1025], let h := certOf n; let rd := listRd h.payload; let counter := leAt rd 0x18 4
      (life 0x40).Takes h 0x0402 0 Gate.open_ ∧ (life 0x40).otpBusy = none ∧
      ((h.length = 240 ∧ leAt rd 0 4 = 0x54524344 ∧ rd 5 = 1 ∧ leAt rd 6 2 = 0 ∧ leAt rd 0x1D 3 = 0 ∧ (∀ i < 16, rd (0x20 + i) = 0) ∧
        1 ≤ counter ∧ counter ≤ 1024) ↔ n = 1 ∨ n = 1024)) ∧
    (∃ x ∈ counterWords 1023 1024, x.1 = 0x70 + 1023 / 64 ∧ bitOf x.2.toNat (1023 % 64) = true) ∧
    (∀ c ∈ [(⟨certOf 0, St.badArgument, []⟩ : CertSt), ⟨certOf 1, St.integrityFail, []⟩, ⟨certOf 1024, St.ok, counterWords 0 1024⟩],
      let q : Cmd := { hdr := c.hdr, op := 0x0402, work := .cert, aborts := [] }
      let s := { rights (life 0x40) with certs := [c], cmds := [q] }
      s.certs = [c] ∧ s.job = none ∧ s.cmds = [q] ∧ q.hdr = c.hdr ∧ q.aborts = [] ∧ (s.waiting stw).length < 64 ∧
      (∀ x ∈ c.words, 0x70 ≤ x.1 ∧ x.1 ≤ 0x7F) ∧ (s.hostRec c.hdr.host).isSome = true ∧
      bitOf (listRd c.hdr.payload 0x1C) 7 = true) := by
  and_intros <;> decide +kernel

def fl (f : FlashSt → FlashSt) : State := { stw_ with fl := f stw_.fl }
/-- Flash word `w` holds `v`. -/
def holding (s : State) (w : Nat) (v : BitVec 64) : State := s.setFlWord w v 0

theorem witness_FlashCommands :
    (∀ k < 3, (fl (fun f => { f with key := k })).fl.key = k) ∧ (FlCmd.cmd.get (4 : Word) = 4 ∧ FlCmd.cmd.get (5 : Word) = 5) ∧
    (∀ raw ∈ [true, false], let s := fl (fun f => { f with selected := some (if raw then 2 else 1) })
      s.fl.selected = some (if raw then 2 else 1) ∧ s.flState = 0 ∧ s.flCheck (.prog 4 9 raw) = some 7) ∧
    (let a := 24449 * 4096 + 4088; let s := fl (fun f => { f with selected := some 1 })
     s.flCheck (.prog a 9 false) = none ∧ s.protectedSector (a / 4096) = false ∧ s.worn (a / 4096) = false ∧ a / 4096 ∉ s.flagCells ∧
     s.flWord (a / 8) = BitVec.allOnes 64 ∧ (holding s (a / 8) 9).flWord (a / 8) ≠ BitVec.allOnes 64 ∧
     (holding s (24455 * 512) (24449 + 65536)).worn (a / 4096) = true ∧ s.flCheck (.prog (24454 * 4096) 9 false) = some 3 ∧
     s.flCheck (.prog (24453 * 4096) 9 true) = none) ∧
    (let s := fl (fun f => { f with selected := some 3 })
     s.fl.selected = some 3 ∧ s.flCheck (.erase (24449 * 4096 / 4096)) = none ∧ s.flCheck (.erase 24464) = some 7) ∧
    (let s := fl (fun f => { f with selected := some 4 }); let t := holding s (24450 * 512) (protWord (levelCode 1) 0x5A 0)
     s.flState = 0 ∧ s.protLevel ≤ levelOf (levelCode 0) ∧ t.fl.selected = some 4 ∧ t.flState = 0 ∧ levelOf (levelCode 0) < t.protLevel) := by
  and_intros <;> decide +kernel

theorem witness_FlashCompletion :
    (∀ raw ∈ [true, false], let s := fl (fun f => { f with op := some (.prog 8 9 raw) })
      s.fl.op = some (.prog 8 9 raw) ∧ s.job = none ∧ 8 / 4096 ≠ 24455 ∧ s.fieldTable.length < 512 ∧ (s.waiting stw).length < 64) ∧
    (let s := fl (fun f => { f with op := some (.erase 24449) })
     s.fl.op = some (.erase 24449) ∧ s.fbit Csr.flSts FlSts.autosusp = false ∧ s.job = none ∧ s.fl.reRun = false ∧
     (s.fset Csr.flSts FlSts.autosusp 1).fbit Csr.flSts FlSts.autosusp = true ∧ (fl (fun f => { f with op := some (.erase 24449), reRun := true })).fl.reRun = true) ∧
    (let c := levelCode 0; let s := holding (fl (fun f => { f with op := some (.rdp c) })) (24450 * 512) (protWord (levelCode 1) 0x5A 0)
     s.fl.op = some (.rdp c) ∧ s.job = none ∧ s.nextProt c 0x5A = (24450 * 512 + 1, false, (s.nextProt c 0x5A).2.2)) ∧
    (∀ stop ∈ [true, false], ∀ rest ∈ [[], [JobStep.prog 0x5800010 7]], let h := hdr 20
      let q : Cmd := { hdr := h, op := 0x0302, work := .flash, aborts := [] }
      let s := { fl (fun f => { f with op := some (.prog 8 9 false) }) with
        cmds := [q], job := some { cmd := h, steps := .prog 8 9 :: rest, stop := stop } }
      s.fl.op = some (.prog 8 9 false) ∧ s.cmds = [q]) ∧
    (let u := fl (fun f => { f with op := none }); u.flCheck (.prog 0x5800010 7 false) = none ∧ (holding u 0xB00002 5).flCheck (.prog 0x5800010 7 false) = some 4) := by
  and_intros <;> decide +kernel

def reads (st : Nat) (r : List FlReq) : State :=
  (fl (fun f => { f with reads := r, rr := 3 })).fset Csr.flSts FlSts.state st

theorem witness_FlashSuspendAndReads :
    (∀ st ∈ [1, 4], (reads st []).flState = st) ∧
    (let s := fl (fun f => { f with op := some (.erase 5) }); let t := s.fset Csr.flSts FlSts.state 2
     t.flState ≠ 1 ∧ t.flState ≠ 4 ∧ t.fl.op = some (.erase 5) ∧ (reads 0 []).fl.op = none) ∧
    (let s := (fl (fun f => { f with susp := some 5 })).fset Csr.flSts FlSts.state 3; s.fl.susp = some 5 ∧ s.flState = 3) ∧
    ((reads 2 []).fset Csr.flSts FlSts.autosusp 1).fbit Csr.flSts FlSts.autosusp = true ∧ (reads 2 []).fl.reads = [] ∧
    (let s := { relAll stw_ with fl := { stw_.fl with reerase := [5] } }
     s.fl.reerase = 5 :: [] ∧ (∃ d < 8, s.dieOn d = true ∧ s.released d = true) ∧ s.job = none ∧ s.flState = 0 ∧
     (s.setSource 3).flCheck (.erase 5) = none ∧ s.flCheck (.erase 5) = some 3 ∧ ¬ (∃ d < 8, stw_.dieOn d = true ∧ stw_.released d = true)) ∧
    (∀ pair ∈ [true, false], let r := FlReq.window 245759 (some (7, 63)) none; let s := (reads 2 [r]).setEng 7 63 { x0 with wait := .flash 22 pair 31 }
      s.flState ≠ 1 ∧ s.flState ≠ 4 ∧ s.fl.rr = 3 ∧ s.fl.reads = r :: [] ∧ (s.eng 7 63).wait = .flash 22 pair 31 ∧ pairOk 22 = true ∧
      s.fbit (Csr.engCtrl 7 63) EngCtrl.ptrap = false) ∧
    (let r := FlReq.window 0 none (some 7); let s := free (reads 0 [r]); let line := 0x05800000 / 32 + 0
     s.fl.reads = r :: [] ∧ s.borderOpen 7 0 = true ∧ (reads 0 [r]).borderOpen 7 0 = false ∧ (s.lineBad line).2 = false ∧
     (s.setFlWord (4 * line + 3) 0 2).lineBad line = (0, true) ∧ s.underErase (line / 128) = false) := by
  and_intros <;> decide +kernel

theorem witness_ResetsByMessage :
    (let s := relAll (free stw_); let h := hdr 3
     s.Takes h 0x0501 3 Gate.open_ ∧ s.noDie 7 = false ∧ s.swapHard = false ∧ s.dieRebuilding 7 = false ∧ s.gated 7 15 = false ∧
     s.reachBusy 7 15 = false ∧ stw_.reachBusy 7 15 = true ∧ s.noDie 8 = true ∧ (s.setSource 0).noDie 0 = true ∧ s.fromSlot = true ∧
     s.load = none ∧ (s.eng 7 63).running = false ∧ (s.waiting 7).length < 64 ∧ s.job = none ∧ s.fl.op = none ∧
     ({ s with swap := some (swapOf 2 .drain) } : State).swapHard = true ∧
     ({ s with load := some (fullLoad (.dies [7])) } : State).dieRebuilding 7 = true) ∧
    (let s := { on with pwr := { on.pwr with pwrgood := true } }; s.pwr.pwrgood = true ∧ s.pwr.hotLow = false ∧ s.job = none ∧
      s.fl.op = none) ∧
    (let s := (holding (holding stw_ (24452 * 512) 0x424F4F54) (24452 * 512 + 1) 2).fset Csr.flProt FlProt.fwRun 1
     s.fbit Csr.mbInfo MbInfo.ready = true ∧ s.bootTrial = true ∧ s.fget Csr.flProt FlProt.fwRun ≠ s.bootPrimary ∧ stw_.bootTrial = false) := by
  and_intros <;> decide +kernel

/-! ## Power, pins, self-test, registers -/

def powered (s : State) (good low : Bool) : State := { s with pwr := { s.pwr with pwrgood := good, hotLow := low } }

/-- A part whose slot 0 is sealed and holds an image, in the life-cycle state PROD. -/
def sealedSlot (s : State) : State :=
  let t := header.zipIdx.foldl (fun (s : State) (b : BitVec 8 × Nat) => { s with flash := Memory.write 0xFF s.flash b.2 b.1 }) s
  holding (holding t (sealWord 0) 0x4C534558) (sealWord 0 + 1) 0

theorem witness_FullStart :
    State.reset.pwr.pwrgood = false ∧ (powered on true false).pwr.pwrgood = true ∧ (powered on true false).pwr.hotLow = false ∧
    (let s := { powered on true false with otpBusy := some (5, 9) }; s.otpBusy = some (5, 9)) ∧
    (∀ op ∈ [FlOp.prog 8 9 true, .erase 5], let s := powered (fl (fun f => { f with op := some op })) true false
      s.fl.op = some op ∧ s.fl.susp = none ∧ s.pwr.pwrgood = true) ∧
    (let s := powered on true true; s.pwr.hotLow = true ∧ s.load = none ∧ (∀ d < 8, s.released d = false)) ∧
    (stw_.Takes (hdr 3) 0x0501 3 Gate.open_ ∧ stw_.fl.op = none ∧ stw_.fl.susp = none) ∧
    (let s := sealedSlot on; s.slotLoadable 0 = true ∧ s.part.headerOk (listRd (s.slotHeader 0)) = true ∧ rma.lcPermits = true ∧
      on.lcPermits = false) := by
  and_intros <;> decide +kernel

def standby (s : State) : State := (s.fset Csr.pwrSts PwrSts.state 0).fset Csr.pwrSts PwrSts.dieOn 0
def wakes (rails : Bool) (h : Option CmdHdr) (s : State) : State :=
  { s with pwr := { s.pwr with wake := some { cmd := h, old := 0, rails := rails, masks := [0x8000], dies := [], reaches := [] } } }

theorem witness_PowerStates :
    (let h := hdr 18; let s := stw_
     s.Takes h 0x0502 18 Gate.open_ ∧ s.powerBusy = false ∧ s.badMasks [] = false ∧ (∀ d < 8, maskOf [] d = 0) ∧
     (∃ d < 8, maskOf [0, 1] d ≠ 0) ∧ s.inStandby = false ∧ (s.waiting stw).length < 64 ∧ (∀ d < s.part.dies, s.dieOn d = true) ∧
     (∀ d < s.part.dies, s.fget (Csr.pwrGate d) PwrGate.gated = maskOf [] d) ∧ s.gated 0 15 = false ∧ bitOf (maskOf [0x8000] 0) 15 = true ∧
     (wakes false none s).powerBusy = true ∧ (wakes false none s).Takes h 0x0502 18 Gate.open_) ∧
    (let h := hdr 18; let s := standby (sealedSlot stw_); let t := s.fset Csr.pinEn PinEn.psig 1
     s.Takes h 0x0502 18 Gate.open_ ∧ s.powerBusy = false ∧ s.badMasks [] = false ∧ s.inStandby = true ∧ s.fbit Csr.pinEn PinEn.psig = false ∧
     t.fbit Csr.pinEn PinEn.psig = true ∧ t.Takes h 0x0502 18 Gate.open_ ∧ s.fromSlot = true ∧ s.tapHeld = false ∧ s.load = none ∧
     s.part.headerOk (listRd (s.slotHeader (s.source - 1))) = true) ∧
    (let h := hdr 18; let q : Cmd := { hdr := h, op := 0x0502, work := .wake, aborts := [] }
     let s := { wakes true (some h) (sealedSlot stw_) with cmds := [q] }
     s.pwr.wake ≠ none ∧ s.fromSlot = true ∧ s.tapHeld = false ∧ s.load = none ∧ s.part.headerOk (listRd (s.slotHeader (s.source - 1))) = true ∧
     s.cmds = [q] ∧ (s.waiting stw).length < 64) ∧
    (let j := { jobAt with kind := .wake }; let s := { on with jobs := [j], clearing := [(bankKey 7 47, true)] }
     s.jobOf 7 15 = some j ∧ s.dieOn 7 = true ∧ s.frameBad = [] ∧ s.gated 7 15 = false ∧ s.bankClearing 7 47 = true) ∧
    (∀ deb ∈ [0, 1], let s := ((stw_.fset (Csr.pmCfg 3) PmCfg.en 1).fset (Csr.pmCfg 3) PmCfg.deb deb).fset (Csr.pmCfg 3) PmCfg.mask 0
      s.pins.pmCount.length = 4 ∧ s.pins.pmFired.length = 4 ∧ s.fbit (Csr.pmCfg 3) PmCfg.en = true ∧ s.fget (Csr.pmCfg 3) PmCfg.mode = 0 ∧
      s.pins.pmFired.getD 3 false = false ∧ (s.fget (Csr.pmCfg 3) PmCfg.deb < s.pins.pmCount.getD 3 0 + 1 ↔ deb = 0) ∧ s.inStandby = false) := by
  and_intros <;> decide +kernel

theorem witness_TripsAndGovernor :
    (let s := { on with pwr := { on.pwr with retrip := [7] } }
     s.dieOn 7 = true ∧ State.reset.dieOn 7 = false ∧ (s.swap = none ∧ s.pwr.resetBy = [] ∧ s.pwr.wake = none ∧ s.bist = none) ∧
     ((500 : Int) < 501) ∧ ((7 : Nat) ∈ s.pwr.retrip ∧ (460 : Int) ≤ 460) ∧ ¬ ((500 : Int) < 500 ∨ 7 ∈ on.pwr.retrip ∧ (460 : Int) ≤ 500)) ∧
    (let s := on.fset Csr.pinEn PinEn.avs 1; let r := Csr.pwrVcore 7
     s.dieOn 7 = true ∧ s.fbit Csr.pinEn PinEn.avs = true ∧ s.fbit r PwrVcore.fault = false ∧ s.fget r PwrVcore.target = 800 ∧
     SMap.get 0 s.pwr.nacks 7 = 0 ∧ SMap.find s.pwr.avsAt 7 = none ∧ 795 < s.fget r PwrVcore.target ∧
     (let t := s.fset r PwrVcore.target 795; 795 + 5 = 800 ∧ t.fget r PwrVcore.target = 795) ∧
     (let t := s.fset r PwrVcore.target 725; t.fget r PwrVcore.target = 720 + 5) ∧ ((s.fset r PwrVcore.target 720).fget r PwrVcore.target < 725) ∧
     (let t := { s with pwr := { s.pwr with nacks := [(7, 2)], avsAt := [(7, 0)] } }
      SMap.get 0 t.pwr.nacks 7 = 2 ∧ ¬ (0 + 100000 ≤ t.refMs) ∧ 800 = t.fget r PwrVcore.target)) := by
  and_intros <;> decide +kernel

theorem witness_StewardPins :
    (let v : Word := 0x7F; v.getLsbD 0 = true ∧ v.getLsbD 4 = true ∧ on.pinLocked 31 = false ∧ (0 : Word).getLsbD 0 = false ∧
      (0 : Word).getLsbD 2 = false ∧ on.fbit Csr.pinEn PinEn.spi = false ∧ on.pins.spiWidth ∈ [1, 4, 8] ∧
      (on.fset Csr.gpioLock GpioLock.lock (2 ^ 31)).pinLocked 31 = true) ∧
    (let s := on.fset Csr.gpioOe GpioOe.oe (2 ^ 31)
     s.pinOwner 31 = 0 ∧ on.gpioDrives 31 = none ∧ s.gpioDrives 31 ≠ none ∧ on.pinOwner 0 = 0 ∧ on.stwDrives 31 = none ∧ s.stwDrives 31 ≠ none) ∧
    (let s := { free on with uio := [(0 * 24 + 23, { UioSt.reset with oe := true })] }
     s.dieOn 0 = true ∧ s.fget (Csr.uioCtrl 0 22) UioCtrl.std ≠ 2 ∧ s.pinDrive 0 23 false ≠ none ∧ on.pinDrive 0 23 false = none) ∧
    (on.fbit (openCtrl 15) GpioOpenCtrl.busy = false ∧ on.fbit (openCtrl 7) GpioOpenCtrl.busy = false ∧
     (on.fset (openCtrl 15) GpioOpenCtrl.busy 1).fbit (openCtrl 15) GpioOpenCtrl.busy = true) ∧
    (let x : OpenTest := { die := 15, tested := 0x80000000, seen := 0, up := some 0x80000000 }
     let s := { on with pins := { on.pins with openRun := [x] } }
     s.pins.openRun = [x] ∧ x.tested &&& 0x80000000 &&& ~~~(0xFFFFFFFF : BitVec 32) = 0 ∧
     x.tested &&& 0x80000000 &&& ~~~(0 : BitVec 32) ≠ 0 ∧ (s.waiting 15).length < 64) := by
  and_intros <;> decide +kernel

def bistOf (left : Nat) (known : Bool) : BistSt :=
  { cmd := hdr 8, kind := 2, mems := 1, islands := 1, known := known, expected := [1, 2], left := [(7, left)], misrL := [], misrM := [],
    fails := [(7, 0)], settle := [7] }

theorem witness_SelfTestAndBoundaryScan :
    (let s := stw_; let h := hdr 8
     s.Takes h 0x0601 8 (Gate.needs Right.bist) ∧ s.bist = none ∧ s.noLogic = false ∧ s.bistBusy = false ∧ s.dieOn 7 = true ∧
     (31 : BitVec 8).toNat < 32 ∧ (16383 : BitVec 16).toNat < 16384 ∧ (0x80 : BitVec 8).getLsbD 7 = true ∧
     (s.setSource 0).noLogic = true ∧ (s.setSource 0).Takes h 0x0601 8 (Gate.needs Right.bist) ∧
     (let t := { s with bist := some (bistOf 1 true) }; t.bist ≠ none ∧ t.Takes h 0x0601 8 (Gate.needs Right.bist)) ∧
     (let t := { s with jobs := [jobAt] }; t.bistBusy = true ∧ t.Takes h 0x0601 8 (Gate.needs Right.bist))) ∧
    (∀ k ∈ [1, 2, 3], let b := bistOf k true; let s := { sealedSlot stw_ with bist := some b }
      s.bist = some b ∧ s.dieOn 7 = true ∧ SMap.get 0 b.left 7 = k ∧ (b.expOf (b.place 7)).1 ≠ 5 ∧ (b.expOf (b.place 7)).2 ≠ 5 ∧
      s.fromSlot = true ∧ s.tapHeld = false ∧ s.load = none ∧ (k = 1 → s.part.headerOk (listRd (s.slotHeader (s.source - 1))) = true) ∧
      (s.waiting stw).length < 64) ∧
    (stw_.jtagOpen = true ∧ (stw_.fset Csr.lcSts LcSts.state 0x30).jtagOpen = false ∧ stw_.swap = none ∧ stw_.waitsFor .load = false) ∧
    (let s := { sealedSlot stw_ with tapHeld := true }
     s.tapHeld = true ∧ s.fromSlot = true ∧ s.load = none ∧ s.flash = (sealedSlot stw_).flash) := by
  and_intros <;> decide +kernel

theorem witness_RegisterAccess :
    (State.reset.dieOn 0 = false ∧ (findRow 0xFFFFFFFC).isSome = false ∧ isBar 0xFFFFFFFC = false) ∧
    (let a := Csr.otpSts; a / 2 ^ 28 = 15 ∧ a / 2 ^ 24 % 16 ∈ [0, 2, 3, 6, 7, 8] ∧ on.holds (.i3c 8) Right.csrraw = false) ∧
    (∀ a ∈ [Csr.hgDefault 7 7, Csr.pmCfg 3], (findRow a).isSome = true ∧ on.reachable a = true ∧ on.hostMay (.i3c 8) a = true ∧
      ((findRow a).any (fun r =>
        (if a / 2 ^ 28 = 15 then
          [Rg.flKey, Rg.flCmd, Rg.flAddr, Rg.flDataLo, Rg.flDataHi, Rg.flCtrl, Rg.gpioLockKey, Rg.gpioLock, Rg.pinEn,
            Rg.gpioShort, Rg.gpioOe, Rg.gpioCfg, Rg.gpioOpenCtrl, Rg.mbDoorbell, Rg.flProt, Rg.gpioIn, Rg.gpioOwner, Rg.otpRdLo,
            Rg.otpRdHi, Rg.lcHostRights, Rg.towMsOfsLo, Rg.ndSts]
        else
          [Rg.gwRole, Rg.hgMeter, Rg.cvCtrl, Rg.engCtrl, Rg.engSpill, Rg.engHsData, Rg.engDbgSel, Rg.taskW0, Rg.taskW1, Rg.taskW2,
            Rg.taskW3, Rg.fabPllCtrl, Rg.reachCtrl, Rg.fabIrwHi, Rg.uioDly, Rg.uspTx, Rg.bankCtrl, Rg.dqCtrl, Rg.dqWeir,
            Rg.fabPatchCtrl, Rg.uioOpenCtrl, Rg.dirSts, Rg.engSts, Rg.engDbgData, Rg.engLockSts, Rg.schSts, Rg.sluSts,
            Rg.sluFabCost, Rg.msSts, Rg.msLo, Rg.uioSts, Rg.uspRx, Rg.uspSts, Rg.bankInfo, Rg.bankSts, Rg.dqSts, Rg.cfgSts]).all
          (fun x => r.base ≠ x.base))) = true) ∧
    (on.engCsrStatus 7 (Csr.hgDefault 7 7) true = St.ok ∧ on.engCsrStatus 7 (Csr.hgDefault 7 7) false = St.ok) ∧
    (Csr.flKey < 2 ^ 32 ∧ Csr.mbDoorbell 7 < 2 ^ 32 ∧ Csr.taskW1 7 1023 < 2 ^ 32 ∧ on.pinLocked 31 = false ∧
      (on.fset Csr.gpioLock GpioLock.lock (2 ^ 31)).pinLocked 31 = true ∧ Csr.gpioCfg 31 < 2 ^ 32) := by
  and_intros <;> decide +kernel

/-! ## Notices and the towpath -/

def note (prio : Nat) : Notice := { code := 0x0301, die := 3, prio := prio, chainTime := false, poison := true, ms := 5, payload := 9 }

/-- The only host of the package, of a transport. -/
def hostBy (v : Via) (mask : BitVec 16) : HostRec := ⟨.i3c 8, v, mask, 65535, 0, 0, 0, 0, []⟩

theorem witness_NoticeDitchAndDelivery :
    (∀ n ∈ [0, 255, 256], let s := { on with queues := [(0, [note 3])], nditch := { on.nditch with bank0 := List.replicate n (note 1), bank1 := List.replicate n (note 2), rr := 1 } }
      (∀ k < 8, SMap.get [] s.queues ((s.nditch.rr + k) % 9) = []) ∧ SMap.get [] s.queues ((s.nditch.rr + 8) % 9) = note 3 :: [] ∧
      (256 ≤ s.nditch.exchange.fill.length ↔ n = 256)) ∧
    (on.nditch.drain = [] ∧ on.nditch.fill = [] ∧ on.fbit Csr.mbInfo MbInfo.ready = false ∧ stw_.nditch.exchange.drain = []) ∧
    (let x := [note 5] ++ note 2 :: [note 2]; let s := { stw_ with nditch := { stw_.nditch with bank0 := x, bank1 := [], drain1 := true } }
     s.nditch.exchange.drain = x ∧ (∀ m ∈ [note 5], (note 2).prio < m.prio) ∧ (∀ m ∈ [note 2], (note 2).prio ≤ m.prio) ∧ note 2 ∉ [note 5] ∧
     s.nditch.drain = [] ∧ s.nditch.fill ≠ [] ∧ s.hosts = [] ∧ s.isMember = false ∧
     (s.fset Csr.towSts TowSts.addr 5).isMember = true ∧
     (∀ v ∈ [Via.i3c 58, .mailbox 3, .smbus 97], let r := hostBy v 0xFFFF; let t := { s with hosts := [r] }
       t.hosts = [r] ∧ bitOf r.mask.toNat ((note 2).code / 256) = true ∧ r.via ≠ .towpath ∧ t.deliveryBlocked (.vdm 0) = true) ∧
     s.deliveryBlocked (.i3c 58) = false ∧ bitOf (hostBy (.i3c 58) 0).mask.toNat ((note 2).code / 256) = false) := by
  and_intros <;> decide +kernel

theorem witness_RingIsFree : (full16.fset Csr.mbNtcCtrl MbNtcCtrl.en 1).deliveryBlocked (.mailbox 3) = false := by decide +kernel

/-- Both towpath ports up. -/
def ports (s : State) : State := (s.fset Csr.towSts TowSts.outUp 1).fset Csr.towSts TowSts.inUp 1
def sentFrames (n fails : Nat) (s : State) : State :=
  { s with tow := { s.tow with linkOut := { seq := n, sent := (List.range n).map (fun i => ⟨i, fails, 5, 1, 0, []⟩), wait := [] } } }

/-- The package is the acting head of an enumerated chain of `n`. -/
def headOfChain (n : Nat) (s : State) : State :=
  (((s.fset Csr.towSts TowSts.head 1).fset Csr.towSts TowSts.size n).fset Csr.towSts TowSts.enumDone 1).fset Csr.towSts TowSts.addr 0

def frame_ (dest : BitVec 8) (body : List (BitVec 8)) : Frame :=
  { onOut := true, crcOk := true, dest := dest, src := 5, lseq := 255, body := body }

theorem witness_TowpathFramesAndLinks :
    (on.towUp true = false ∧ (ports on).towUp true = true ∧
     (let s := sentFrames 3 0 (ports on); (s.towLink true).wait = [] ∧ (s.towLink true).sent.length < 4) ∧
     (let s := sentFrames 4 0 (ports on); 4 ≤ (s.towLink true).sent.length ∧
       (s.towLink true).sent = [⟨0, 0, 5, 1, 0, []⟩, ⟨1, 0, 5, 1, 0, []⟩] ++ ⟨2, 0, 5, 1, 0, []⟩ :: [⟨3, 0, 5, 1, 0, []⟩] ∧
       (∀ x ∈ (s.towLink true).sent, x.lseq ≠ 255) ∧ (s.towLink true).wait = []) ∧
     (∀ k ∈ [1, 2], let s := sentFrames 1 k (ports on); (s.towLink true).sent = [⟨0, k, 5, 1, 0, []⟩] ∧ (k < 2 ∨ 2 ≤ k)) ∧
     (let s := headOfChain 32 (ports on); s.fbit Csr.towSts TowSts.enumDone = true ∧ s.actingHead = true ∧ s.tow.breaks = [] ∧
       (s.waiting stw).length < 63 ∧ (ports on).fbit Csr.towSts TowSts.enumDone = false) ∧
     (let s := headOfChain 32 on; let b := (s.breakAt true).1; let t := { s with tow := { s.tow with breaks := [b] } }
      t.towUp true = false ∧ t.fbit Csr.towSts TowSts.enumDone = true ∧ t.actingHead = true ∧ (t.breakAt true).1 = b ∧ t.tow.breaks = [b])) ∧
    (let f := frame_ 7 []; let s := ports on; let m := s.fset Csr.towSts TowSts.addr 7
     f.crcOk = true ∧ s.actingHead = false ∧ s.towUp (!f.onOut) = true ∧ on.towUp (!f.onOut) = false ∧
     (f.dest.toNat ≠ s.towAddr ∨ s.towAddr = 0xFF) ∧ f.dest.toNat = m.towAddr ∧ m.towAddr ≠ 0xFF ∧
     (on.fset Csr.towSts TowSts.outUp 1).towUp f.onOut = true) ∧
    (let f := frame_ 0 [5, 0, 7, 0, 0, 0, 31, 1, 0]; let h := { hdr 0 with chain := 31 }
     let q : Cmd := { hdr := h, op := 5, work := .relay, aborts := [] }; let s := { headOfChain 32 (ports stw_) with cmds := [q] }
     s.actingHead = true ∧ s.cmds = [q] ∧ q.hdr.tag.toNat = bodyAt f 2 + 256 * bodyAt f 3 ∧ q.hdr.chain.toNat = bodyAt f 6 ∧
     (let t := { s with tow := { s.tow with bcasts := [(h, bodyAt f 0 + 256 * bodyAt f 1, 31)] } }
      t.tow.bcasts = [(h, bodyAt f 0 + 256 * bodyAt f 1, 31)] ∧ h.via ≠ .towpath) ∧
     bodyAt f 32 ∉ s.tow.breaks ∧ ({ s with tow := { s.tow with breaks := [0] } } : State).tow.breaks = [bodyAt f 32]) ∧
    (let s := { headOfChain 32 (ports stw_) with hosts := [hostBy (.i3c 58) 0xFFFF] }; let r := hostBy (.i3c 58) 0xFFFF
     s.hosts = [r] ∧ s.fbit Csr.mbInfo MbInfo.ready = true ∧ s.deliveryBlocked r.via = false ∧ bitOf r.mask.toNat ((0x0301 : BitVec 16).toNat / 256) = true ∧
     (∀ k, r.via ≠ .mailbox k) ∧ r.via ≠ .towpath ∧ r.host ∉ ([] : List HostId) ∧ ¬ r.host ∉ [r.host]) := by
  and_intros <;> decide +kernel

def readyChain (s : State) : State := { ports s with tow := { s.tow with started := true } }
def enumerates (s : State) : State := { s with tow := { s.tow with enumBusy := true } }

/-- A frame that carries a token. -/
def tokenFrame (n serial : Nat) : Frame := frame_ 0xFF ((enumBody ⟨n, false, serial⟩).map (BitVec.ofNat 8))

theorem witness_ChainEnumeration :
    (let s := (readyChain on).fset Csr.towSts TowSts.head 1
     s.actingHead = true ∧ s.tow.started = true ∧ s.towUp true = true ∧ s.tow.enumBusy = false ∧ s.towAddr = 0xFF) ∧
    ((readyChain on).actingHead = false ∧ on.tow.started = false ∧
      ({ readyChain on with tow := { (readyChain on).tow with token := some ⟨63, true, 9⟩ } } : State).tow.token = some ⟨63, true, 9⟩ ∧
      (∀ n ∈ [63, 64], let f := tokenFrame n 9; f.crcOk = true ∧ (tokenOf f n false).next = n ∧ (tokenOf f n false).serial = 9)) ∧
    (let q : Cmd := { hdr := hdr 0, op := 0x0702, work := .chainEnum, aborts := [] }
     let s := { enumerates (headOfChain 1 (readyChain stw_)) with cmds := [q] }
     s.actingHead = true ∧ s.tow.enumBusy = true ∧ s.tow.former = none ∧ (s.waiting stw).length < 64 ∧ s.cmds = [q] ∧ q.work = .chainEnum) ∧
    (let s := { headOfChain 1 on with otp := [(0x68, 5)] }
     s.actingHead = true ∧ (tokenOf (tokenFrame 1 5) 1 false).serial = s.ownSerial ∧ (tokenOf (tokenFrame 1 4) 1 false).serial < s.ownSerial ∧
      s.ownSerial < (tokenOf (tokenFrame 1 (2 ^ 127)) 1 false).serial ∧ s.tow.enumBusy = false ∧ (enumerates s).tow.enumBusy = true ∧
      (let t := { enumerates s with tow := { (enumerates s).tow with acked := [(1, 7)], former := some [(1, 6)] } }
       t.tow.former = some [(1, 6)] ∧ (1, 6) ∉ t.tow.acked)) ∧
    (let s := enumerates (headOfChain 1 on); s.tow.acked = [] ∧ (∀ a ∈ s.tow.acked, a.1 + 1 ≤ 1) ∧
      (let t := { s with tow := { s.tow with acked := [(1, 7), (63, 8)] } }; (∀ a ∈ t.tow.acked, a.1 + 1 ≤ 64) ∧ (∃ a ∈ t.tow.acked, 64 = a.1 + 1))) ∧
    (stw_.Takes (hdr 0) 0x0702 0 Gate.open_ ∧ stw_.actingHead = false ∧ stw_.Takes (hdr 0) 0x0701 0 Gate.open_ ∧
      (headOfChain 1 stw_).Takes (hdr 0) 0x0702 0 Gate.open_ ∧ (enumerates (headOfChain 1 stw_)).Takes (hdr 0) 0x0702 0 Gate.open_ ∧
      stw_.tow.breaks = []) := by
  and_intros <;> decide +kernel

theorem witness_ChainMilestoneAndResetT :
    (let s := ((ports stw_).fset Csr.towSts TowSts.addr 5).fset Csr.towSts TowSts.enumDone 1; let t := s.fset Csr.towCtrl TowCtrl.syncEn 1
     t.isMember = true ∧ t.fbit Csr.towSts TowSts.enumDone = true ∧ t.fbit Csr.towCtrl TowCtrl.syncEn = true ∧ on.isMember = false ∧
     t.tow.exchanged = false ∧ ({ t with tow := { t.tow with exchanged := true } } : State).tow.exchanged = true ∧
     (t.fset Csr.towSts TowSts.msSync 1).fbit Csr.towSts TowSts.msSync = true ∧ t.windowOpen stw 0x0906 0 = false ∧ (t.waiting stw).length < 64) ∧
    (let f := frame_ 5 (List.replicate 16 0); f.crcOk = true ∧
      (((stampAt f 0 - (-12000)) - (0 - stampAt f 8)) / 2).natAbs = 6000 ∧ (((stampAt f 0 - 0) - (12002 - stampAt f 8)) / 2).natAbs = 6001) ∧
    (let s := (headOfChain 2 stw_).fset Csr.towCtrl TowCtrl.syncEn 1; s.actingHead = true ∧ s.fbit Csr.towSts TowSts.enumDone = true ∧
      s.tow.synced = false ∧ s.fbit Csr.towCtrl TowCtrl.syncEn = true) ∧
    ((frame_ 0 []).crcOk = true ∧ stw_.Takes (hdr 3) 0x0501 3 Gate.open_ ∧ (headOfChain 2 stw_).Takes (hdr 3) 0x0501 3 Gate.open_ ∧
      (headOfChain 2 stw_).actingHead = true ∧ stw_.actingHead = false) := by
  and_intros <;> decide +kernel

/-! ## The spec's worked examples -/

/-- A reading of the state after a command. -/
def after (c : Instr) (s : State) {α : Type} (f : State → α) : Option α :=
  match exec c s with | .next t => some (f t) | _ => none

/-- 00, after Table 00-3 and R16: the port, register and bank addresses of its examples. -/
theorem test_addresses :
    (Csr.gwMode 6 1) / 2 ^ 16 = 0x6100 ∧ Csr.fabIrwSel 6 = 0x6A020000 ∧ Csr.pmPinsLo 1 = 0xF1000214 ∧ Csr.pmPinsHi 1 = 0xF1000218 ∧
    Csr.pmCfg 1 = 0xF1000210 ∧ on.bankRunOk 0x11DA0100 1 = true := by and_intros <;> decide +kernel

/-- 01 R40: bucket 32,768 passes a message of 9 beats and keeps 23,552; at -1,792 the message is held. -/
def metered (v : Int) : State :=
  let m := msg 3 0 8
  let s := { port on 1 with gatesPass := [(0, true)], ingress := [(3, [{ msg := m, fn := 0, depends := none, hasAddr := true, pbr := false, mld := false }])] }
  let s := (s.csrSet (Csr.hgMeter 0 0 0) (HgMeter.burst.put (HgMeter.rate.put (HgMeter.meterEn.put (0 : Word) 1) 64) 32)).setBucket 0 0 0 v
  (s.fset (Csr.hgDefault 0 0) HgDefault.route 0).csrSet (Csr.xbPid 0 0) (XbPid.v.put (0 : Word) 1)

theorem test_meter_pass : after (.headgatePass 0 .dat) (metered 32768) (fun t => (t.bucket 0 0 0, SMap.get [] t.ingress 3)) =
    some (23552, []) := by decide +kernel

theorem test_meter_hold : after (.headgatePass 0 .dat) (metered (-1792)) (fun t => (t.bucket 0 0 0, (SMap.get [] t.ingress 3).length)) =
    some (-1792, 1) := by decide +kernel

/-- 01, after R49: the route from die 0 to die 7 goes east three times, then vertical. -/
theorem test_route : [0, 1, 2, 3].map (fun d => nextHop d ⟨0, msg 0 0 0, 7, 12⟩) = [9, 9, 9, 10] := by decide

/-- 02, after R65: the home, set and tag of a line. -/
theorem test_home : homeDie 3 0x1632A469C0 = 3 ∧ lineSet 3 0x1632A469C0 = 0x1234 ∧ lineTag 3 0x1632A469C0 = 0x2C65 := by
  and_intros <;> decide +kernel

/-- 03, after R108: the seventh CALL traps to SPILL with TWIN 0, and the CALL after it moves to window 0. -/
theorem test_spill : after (.engCall 0 0) (run call { x0 with cwp := 6, wres := 7, depth := 6 })
    (fun t => ((t.eng 0 0).cwp, (t.eng 0 0).saved, (t.eng 0 0).twin, (t.eng 0 0).wres, (t.eng 0 0).depth)) = some (7, 6, 0, 7, 6) := by
  decide +kernel

theorem test_call : after (.engCall 0 0) (run call { x0 with cwp := 6, wres := 6, depth := 6 })
    (fun t => ((t.eng 0 0).cwp, (t.eng 0 0).wres, (t.eng 0 0).depth)) = some (0, 7, 7) := by decide +kernel

/-- 03 R108: with one window resident a RET fills. -/
theorem test_fill : after (.engRet 0 0) (run ret { x0 with cwp := 1, wres := 1, depth := 1 })
    (fun t => ((t.eng 0 0).cwp, (t.eng 0 0).twin)) = some (7, 0) := by decide +kernel

/-- 03 Example: LUI v8, 0x100A is 0x4100_100A; ADDI v10, g0, 1 is 0x2D50_0001, where g0 reads 0 whatever is written to it. -/
theorem test_lui : after (.engLui 0 0) (run 0x4100100A) (fun t => t.reg 0 0 8) = some 0x100A0000 := by decide +kernel

theorem test_addi : after (.engAddi 0 0) ((run 0x2D500001).setReg 0 0 16 0x41) (fun t => (t.reg 0 0 10, (t.eng 0 0).pc)) =
    some (1, 17) := by decide +kernel

theorem test_words : Ins.op 0x4CC40014 = 0x13 ∧ Ins.rd 0x4CC40014 = 6 ∧ Ins.rs1 0x4CC40014 = 4 ∧ Ins.op 0xACD000CC = 0x2B ∧
    Ins.op 0xA9885000 = 0x2A ∧ Ins.rs2 0xA9885000 = 10 ∧ Ins.op 0x84000000 = 0x21 := by and_intros <;> decide

/-- 04, after R175: the refill at 107.5 °C and at 119.5 °C. -/
theorem test_refill : refillOf 2048 430 = 1024 ∧ refillOf 2048 478 = 40 := by decide

/-- 05, after R186: FAB1 at 1.25 GHz costs 24 ticks toward FLIT and BANK; at 1.000 GHz 12 ticks toward FLIT. -/
theorem test_crossing : crossTo (fabPeriod 8 1) .flit = 24 ∧ crossTo (fabPeriod 8 1) .bank = 24 ∧ crossTo (fabPeriod 32 5) .flit = 12 := by
  and_intros <;> decide +kernel

/-- 06, after R210: the accumulator's low cell adds i0; its high cell adds the carry; the place of an entry. -/
theorem test_accumulate : let g := { CellRegs.reset with w0 := 0xFFFF }; let e := 0x00100401
    let c := cellNext e { Cell.reset with regs := g } cin false false (resAdd e (cellA e g cin) (cellB e g cin) cin)
    (c.next.map (·.w0), c.co) = (some 6, true) := by decide +kernel

theorem test_carry : let g := { CellRegs.reset with w0 := 41 }; let e := 0x01100881; let x := { cin with ci := true }
    let c := cellNext e { Cell.reset with regs := g } x false false (resAdd e (cellA e g x) (cellB e g x) x)
    (c.next.map (·.w0), c.co) = (some 42, false) := by decide +kernel

theorem test_entry_place : entryPlace 0 6 9 10 4 1 = frameKey 0 6 9 33 242 := by decide +kernel

/-- 07, after R260: ditch 5.22 with b filling and c and d as they come: cycle 12's pop takes a; a drained bank is exchanged. -/
def ditched (fill drain : List DItem) : State :=
  ((free on).fset (Csr.fabPllSts 5 0) FabPllSts.lock 1).setDitch 5 22 { bank0 := drain, bank1 := fill, drain1 := false, above := true, below := false, step := 0 }
def ditem (prio : Fin 8) : DItem := ⟨⟨prio.val, prio, false⟩, laneParity prio.val⟩

theorem test_ditch_pop : after (.ditchFabricPop 5 22) (ditched [ditem 6] [ditem 5])
    (fun t => ((t.ditch 5 22).drain, (t.ditch 5 22).fill)) = some ([], [ditem 6]) := by decide +kernel

theorem test_ditch_exchange : after (.ditchFabricPop 5 22) (ditched [ditem 6, ditem 1] [])
    (fun t => ((t.ditch 5 22).drain, (t.ditch 5 22).fill)) = some ([ditem 6], []) := by decide +kernel

/-- 08, after R273: the record words of its stream. -/
theorem test_records : recCount 0x01DA0009 = 238 ∧ recFrame 0x01DA0009 = 2 ∧ recCount 0x061E03C2 = 784 ∧ recFrame 0x061E03C2 = 240 ∧
    recCount 0x01FE1003 = 256 ∧ recFrame 0x01FE1003 = 1024 ∧ recCount 0x00020000 = 2 := by and_intros <;> decide

/-- 09, after R317: how ENGINE_FAULT packs. -/
theorem test_packing : packFields [(1, 0x11), (1, 0x22), (2, 0x0344), (1, 0x55), (2, 0x0677)] = 0x067700550344_2211#128 := by decide +kernel

/-- 11, after R370: the patterns, and a PROD transition that a loss of power cut. -/
theorem test_lifecycle : lcPattern 0x0F = 0x4C43570FB3BCA8F0 ∧ lcPattern 0x10 = 0x4C435710B3BCA8EF ∧ lcPattern 0x13 = 0x4C435713B3BCA8EC := by
  and_intros <;> decide +kernel

/-- 12, after R386: matcher 1 of the button. -/
def matcher (n : Nat) : State :=
  let s := ((on.csrSet (Csr.pmPinsLo 1) 0x3BCDEB38).csrSet (Csr.pmPinsHi 1) 0x3FE).csrSet (Csr.pmCfg 1) 0x1E2030
  { s with pins := { s.pins with pmCount := [0, n, 0, 0] } }

theorem test_matcher_bounce : after (.patternMatchFire 1 0x30000000) (matcher 1) (fun t => (t.pins.pmCount.getD 1 9, t.pins.pmFired.getD 1 true)) =
    some (0, false) := by decide +kernel

theorem test_matcher_fires : after (.patternMatchFire 1 0x20000000) (matcher 3)
    (fun t => (t.pins.pmCount.getD 1 9, t.pins.pmFired.getD 1 false, bitOf (t.fget Csr.pmSts PmSts.hit) 1)) = some (4, true, true) := by
  decide +kernel

/-! ## Ill-formed commands -/

theorem test_illformed_beats : (Instr.gatewayFlitReceive 0
    { fecCorr := false, bad := false, msgs := [{ msg := msg 3 0 9, fn := 0, depends := none, hasAddr := true, pbr := false, mld := false }] }).wellFormed = false := by
  decide

theorem test_illformed_length : (Instr.getInfo { hdr 0 with length := 65536 }).wellFormed = false := by decide
theorem test_illformed_payload : (Instr.getInfo { hdr 0 with payload := List.replicate 65536 0 }).wellFormed = false := by
  simp only [Instr.wellFormed, Instr.header, CmdHdr.wellFormed, List.length_replicate]
  decide
theorem test_illformed_errors : (Instr.culvertBeatArrive 0 1 (List.replicate 10 [])).wellFormed = false := by decide
theorem test_illformed_groupErrors : (Instr.culvertBeatArrive 0 1 [List.replicate 9 0]).wellFormed = false := by decide
theorem test_illformed_refill : (Instr.allotRefill 0 []).wellFormed = false := by decide
theorem test_illformed_groups : (Instr.literal 0 0 (List.replicate 32769 ([], 0))).wellFormed = false := by
  simp only [Instr.wellFormed, Instr.header, List.length_replicate]
  decide
theorem test_illformed_group : (Instr.literal 0 0 [([0], 0)]).wellFormed = false := by decide
theorem test_illformed_first : (Instr.handlersSection 0 0 65536 [] 0).wellFormed = false := by decide
theorem test_illformed_words : (Instr.handlersSection 0 0 0 (List.replicate 65536 0) 0).wellFormed = false := by
  simp only [Instr.wellFormed, Instr.header, List.length_replicate]
  decide
theorem test_illformed_pay : (Instr.swap (hdr 0) 1 [0]).wellFormed = false := by decide
theorem test_illformed_next : (Instr.towEnum (tokenFrame 1 5) 2 false).wellFormed = false := by decide
theorem test_illformed_ovf : (Instr.towEnum (tokenFrame 1 5) 1 true).wellFormed = false := by decide
theorem test_wellformed_enum : (Instr.towEnum (tokenFrame 1 5) 1 false).wellFormed = true := by decide
theorem test_wellformed : (Instr.getInfo (hdr 0)).wellFormed = true := by decide

end Sys2Proof.Tests
end

section
/-! PROOFS. Every command, and so every step, keeps the part, the queue and the canonical form (O3). -/

namespace Sys2Proof.Machine

/-- Every command answers a next state that keeps the part, the queue and the canonical form: for each command, what its
meaning keeps. -/
theorem exec_keeps : (c : Instr) → (s : State) → Completes c s (Keeps s)
  | .gatewayFlitReceive .., s => ⟨_, rfl, doGatewayFlitReceive_keeps (hk := .refl s) ..⟩
  | .headgatePass .., s => ⟨_, rfl, doHeadgatePass_keeps (hk := .refl s) ..⟩
  | .hgMeterWrite .., s => ⟨_, rfl, .ite (doHgMeterWrite_keeps (hk := .refl s) ..) (.refl s)⟩
  | .crossbarForward .., s => ⟨_, rfl, doCrossbarForward_keeps (hk := .refl s) ..⟩
  | .culvertBeatArrive .., s => ⟨_, rfl, doCulvertBeatArrive_keeps (hk := .refl s) ..⟩
  | .egressAccept .., s => ⟨_, rfl, doEgressAccept_keeps (hk := .refl s) ..⟩
  | .linkUp .., s => ⟨_, rfl, doLinkUp_keeps (hk := .refl s) ..⟩
  | .flitModeAbsent .., s => ⟨_, rfl, doFlitModeAbsent_keeps (hk := .refl s) ..⟩
  | .xrateOffer .., s => ⟨_, rfl, doXrateOffer_keeps (hk := .refl s) ..⟩
  | .xrateFallback .., s => ⟨_, rfl, doXrateFallback_keeps (hk := .refl s) ..⟩
  | .xrateRecoveryFallback .., s => ⟨_, rfl, doXrateRecoveryFallback_keeps (hk := .refl s) ..⟩
  | .linkDown .., s => ⟨_, rfl, doLinkDown_keeps (hk := .refl s) ..⟩
  | .viralEntry .., s => ⟨_, rfl, doViralEntry_keeps (hk := .refl s) ..⟩
  | .perstAssert .., s => ⟨_, rfl, doPerstAssert_keeps (h := .refl s) ..⟩
  | .perstDeassert .., s => ⟨_, rfl, doPerstDeassert_keeps (hk := .refl s) ..⟩
  | .culvertTrained .., s => ⟨_, rfl, doCulvertTrained_keeps (hk := .refl s) ..⟩
  | .cvCtrlWrite .., s => ⟨_, rfl, .ite (doCvCtrlWrite_keeps (hk := .refl s) ..) (.refl s)⟩
  | .dirRequestArrive .., s => ⟨_, rfl, doDirRequestArrive_keeps (hk := .refl s) ..⟩
  | .dirTxnStart .., s => ⟨_, rfl, doDirTxnStart_keeps (hk := .refl s) ..⟩
  | .dirSnoopIssue .., s => ⟨_, rfl, doDirSnoopIssue_keeps (hk := .refl s) ..⟩
  | .dirSnoopResponse .., s => ⟨_, rfl, doDirSnoopResponse_keeps (hk := .refl s) ..⟩
  | .dirMemoryData .., s => ⟨_, rfl, doDirMemoryData_keeps (hk := .refl s) ..⟩
  | .dirCommit .., s => ⟨_, rfl, doDirCommit_keeps (hk := .refl s) ..⟩
  | .setWaitTimeout .., s => ⟨_, rfl, doSetWaitTimeout_keeps (hk := .refl s) ..⟩
  | .dirPortDown .., s => ⟨_, rfl, doDirPortDown_keeps (hk := .refl s) ..⟩
  | .dirWalkSet .., s => ⟨_, rfl, doDirWalkSet_keeps (hk := .refl s) ..⟩
  | .waitLimit .., s => ⟨_, rfl, doWaitLimit_keeps (hk := .refl s) ..⟩
  | .taskDispatch .., s => ⟨_, rfl, doTaskDispatch_keeps (hk := .refl s) ..⟩
  | .budgetFault .., s => ⟨_, rfl, doBudgetFault_keeps (hk := .refl s) ..⟩
  | .engAdd .., s => ⟨_, rfl, doEngAdd_keeps (hk := .refl s) ..⟩
  | .engSub .., s => ⟨_, rfl, doEngSub_keeps (hk := .refl s) ..⟩
  | .engAnd .., s => ⟨_, rfl, doEngAnd_keeps (hk := .refl s) ..⟩
  | .engOr .., s => ⟨_, rfl, doEngOr_keeps (hk := .refl s) ..⟩
  | .engXor .., s => ⟨_, rfl, doEngXor_keeps (hk := .refl s) ..⟩
  | .engSll .., s => ⟨_, rfl, doEngSll_keeps (hk := .refl s) ..⟩
  | .engSrl .., s => ⟨_, rfl, doEngSrl_keeps (hk := .refl s) ..⟩
  | .engSra .., s => ⟨_, rfl, doEngSra_keeps (hk := .refl s) ..⟩
  | .engSlt .., s => ⟨_, rfl, doEngSlt_keeps (hk := .refl s) ..⟩
  | .engSltu .., s => ⟨_, rfl, doEngSltu_keeps (hk := .refl s) ..⟩
  | .engMul .., s => ⟨_, rfl, doEngMul_keeps (hk := .refl s) ..⟩
  | .engAddi .., s => ⟨_, rfl, doEngAddi_keeps (hk := .refl s) ..⟩
  | .engAndi .., s => ⟨_, rfl, doEngAndi_keeps (hk := .refl s) ..⟩
  | .engOri .., s => ⟨_, rfl, doEngOri_keeps (hk := .refl s) ..⟩
  | .engSlti .., s => ⟨_, rfl, doEngSlti_keeps (hk := .refl s) ..⟩
  | .engShi .., s => ⟨_, rfl, doEngShi_keeps (hk := .refl s) ..⟩
  | .engLui .., s => ⟨_, rfl, doEngLui_keeps (hk := .refl s) ..⟩
  | .engExt .., s => ⟨_, rfl, doEngExt_keeps (hk := .refl s) ..⟩
  | .engIns .., s => ⟨_, rfl, doEngIns_keeps (hk := .refl s) ..⟩
  | .engLd .., s => ⟨_, rfl, doEngLd_keeps (hk := .refl s) ..⟩
  | .engSt .., s => ⟨_, rfl, doEngSt_keeps (hk := .refl s) ..⟩
  | .engBeq .., s => ⟨_, rfl, doEngBeq_keeps (hk := .refl s) ..⟩
  | .engBne .., s => ⟨_, rfl, doEngBne_keeps (hk := .refl s) ..⟩
  | .engBlt .., s => ⟨_, rfl, doEngBlt_keeps (hk := .refl s) ..⟩
  | .engBge .., s => ⟨_, rfl, doEngBge_keeps (hk := .refl s) ..⟩
  | .engBltu .., s => ⟨_, rfl, doEngBltu_keeps (hk := .refl s) ..⟩
  | .engBgeu .., s => ⟨_, rfl, doEngBgeu_keeps (hk := .refl s) ..⟩
  | .engBst .., s => ⟨_, rfl, doEngBst_keeps (hk := .refl s) ..⟩
  | .engJr .., s => ⟨_, rfl, doEngJr_keeps (hk := .refl s) ..⟩
  | .engCall .., s => ⟨_, rfl, doEngCall_keeps (hk := .refl s) ..⟩
  | .engRet .., s => ⟨_, rfl, doEngRet_keeps (hk := .refl s) ..⟩
  | .engTrap .., s => ⟨_, rfl, doEngTrap_keeps (hk := .refl s) ..⟩
  | .engTret .., s => ⟨_, rfl, doEngTret_keeps (hk := .refl s) ..⟩
  | .engEnd .., s => ⟨_, rfl, doEngEnd_keeps (hk := .refl s) ..⟩
  | .engWsvSave .., s => ⟨_, rfl, doEngWsvSave_keeps (hk := .refl s) ..⟩
  | .engWsvRestore .., s => ⟨_, rfl, doEngWsvRestore_keeps (hk := .refl s) ..⟩
  | .engMfs .., s => ⟨_, rfl, doEngMfs_keeps (hk := .refl s) ..⟩
  | .engMts .., s => ⟨_, rfl, doEngMts_keeps (hk := .refl s) ..⟩
  | .engDlook .., s => ⟨_, rfl, doEngDlook_keeps (hk := .refl s) ..⟩
  | .engDwr .., s => ⟨_, rfl, doEngDwr_keeps (hk := .refl s) ..⟩
  | .engSend .., s => ⟨_, rfl, doEngSend_keeps (hk := .refl s) ..⟩
  | .engWaitr .., s => ⟨_, rfl, doEngWaitr_keeps (hk := .refl s) ..⟩
  | .engineResponseArrive .., s => ⟨_, rfl, doEngineResponseArrive_keeps (hk := .refl s) ..⟩
  | .engFwcp .., s => ⟨_, rfl, doEngFwcp_keeps (hk := .refl s) ..⟩
  | .engBatomFetchAdd .., s => ⟨_, rfl, doEngBatomFetchAdd_keeps (hk := .refl s) ..⟩
  | .engBatomSwap .., s => ⟨_, rfl, doEngBatomSwap_keeps (hk := .refl s) ..⟩
  | .engDqpush .., s => ⟨_, rfl, doEngDqpush_keeps (hk := .refl s) ..⟩
  | .engDqpop .., s => ⟨_, rfl, doEngDqpop_keeps (hk := .refl s) ..⟩
  | .engCsrRead .., s => ⟨_, rfl, doEngCsrRead_keeps (hk := .refl s) ..⟩
  | .engCsrWrite .., s => ⟨_, rfl, doEngCsrWrite_keeps (hk := .refl s) ..⟩
  | .engLock .., s => ⟨_, rfl, doEngLock_keeps (hk := .refl s) ..⟩
  | .engLockRelease .., s => ⟨_, rfl, doEngLockRelease_keeps (hk := .refl s) ..⟩
  | .lockWake .., s => ⟨_, rfl, doLockWake_keeps (hk := .refl s) ..⟩
  | .engFenceWait .., s => ⟨_, rfl, doEngFenceWait_keeps (hk := .refl s) ..⟩
  | .engFenceNotify .., s => ⟨_, rfl, doEngFenceNotify_keeps (hk := .refl s) ..⟩
  | .fenceCompletionSend .., s => ⟨_, rfl, doFenceCompletionSend_keeps (hk := .refl s) ..⟩
  | .engPark .., s => ⟨_, rfl, doEngPark_keeps (hk := .refl s) ..⟩
  | .engEpochWrite .., s => ⟨_, rfl, doEngEpochWrite_keeps (hk := .refl s) ..⟩
  | .engHalt .., s => ⟨_, rfl, doEngHalt_keeps (hk := .refl s) ..⟩
  | .engStep .., s => ⟨_, rfl, doEngStep_keeps (hk := .refl s) ..⟩
  | .engHsDataAccess .., s => ⟨_, rfl, doEngHsDataAccess_keeps (hk := .refl s) ..⟩
  | .engSpillWrite .., s => ⟨_, rfl, doEngSpillWrite_keeps (hk := .refl s) ..⟩
  | .schedulerEvent .., s => ⟨_, rfl, doSchedulerEvent_keeps (hk := .refl s) ..⟩
  | .taskFlagsWrite .., s => ⟨_, rfl, doTaskFlagsWrite_keeps (hk := .refl s) ..⟩
  | .taskPrioWrite .., s => ⟨_, rfl, doTaskPrioWrite_keeps (hk := .refl s) ..⟩
  | .taskReadinessWrite .., s => ⟨_, rfl, doTaskReadinessWrite_keeps (hk := .refl s) ..⟩
  | .taskClmaskWrite .., s => ⟨_, rfl, doTaskClmaskWrite_keeps (hk := .refl s) ..⟩
  | .taskInvalidate .., s => ⟨_, rfl, doTaskInvalidate_keeps (hk := .refl s) ..⟩
  | .taskValidate .., s => ⟨_, rfl, doTaskValidate_keeps (hk := .refl s) ..⟩
  | .taskEpochWrite .., s => ⟨_, rfl, doTaskEpochWrite_keeps (hk := .refl s) ..⟩
  | .affinityExpire .., s => ⟨_, rfl, doAffinityExpire_keeps (hk := .refl s) ..⟩
  | .allotRefill .., s => ⟨_, rfl, doAllotRefill_keeps (hk := .refl s) ..⟩
  | .pllUnlock .., s => ⟨_, rfl, doPllUnlock_keeps (hk := .refl s) ..⟩
  | .pllRelock .., s => ⟨_, rfl, doPllRelock_keeps (hk := .refl s) ..⟩
  | .milestoneSlew .., s => ⟨_, rfl, doMilestoneSlew_keeps (hk := .refl s) ..⟩
  | .msLoRead .., s => ⟨_, rfl, doMsLoRead_keeps (hk := .refl s) ..⟩
  | .cellNop .., s => ⟨_, rfl, doCellNop_keeps (hk := .refl s) ..⟩
  | .cellAdd .., s => ⟨_, rfl, doCellAdd_keeps (hk := .refl s) ..⟩
  | .cellSub .., s => ⟨_, rfl, doCellSub_keeps (hk := .refl s) ..⟩
  | .cellAnd .., s => ⟨_, rfl, doCellAnd_keeps (hk := .refl s) ..⟩
  | .cellOr .., s => ⟨_, rfl, doCellOr_keeps (hk := .refl s) ..⟩
  | .cellXor .., s => ⟨_, rfl, doCellXor_keeps (hk := .refl s) ..⟩
  | .cellAndn .., s => ⟨_, rfl, doCellAndn_keeps (hk := .refl s) ..⟩
  | .cellRolc .., s => ⟨_, rfl, doCellRolc_keeps (hk := .refl s) ..⟩
  | .cellShl .., s => ⟨_, rfl, doCellShl_keeps (hk := .refl s) ..⟩
  | .cellShr .., s => ⟨_, rfl, doCellShr_keeps (hk := .refl s) ..⟩
  | .cellSra .., s => ⟨_, rfl, doCellSra_keeps (hk := .refl s) ..⟩
  | .cellCmp .., s => ⟨_, rfl, doCellCmp_keeps (hk := .refl s) ..⟩
  | .cellMul .., s => ⟨_, rfl, doCellMul_keeps (hk := .refl s) ..⟩
  | .cellMulh .., s => ⟨_, rfl, doCellMulh_keeps (hk := .refl s) ..⟩
  | .cellMov .., s => ⟨_, rfl, doCellMov_keeps (hk := .refl s) ..⟩
  | .cellSel .., s => ⟨_, rfl, doCellSel_keeps (hk := .refl s) ..⟩
  | .entryRewriteGo .., s => ⟨_, rfl, doEntryRewriteGo_keeps (hk := .refl s) ..⟩
  | .rewriteCommit .., s => ⟨_, rfl, doRewriteCommit_keeps (hk := .refl s) ..⟩
  | .rewriteTimeout .., s => ⟨_, rfl, doRewriteTimeout_keeps (hk := .refl s) ..⟩
  | .fabPllWrite .., s => ⟨_, rfl, doFabPllWrite_keeps (hk := .refl s) ..⟩
  | .fabPllLock .., s => ⟨_, rfl, doFabPllLock_keeps (hk := .refl s) ..⟩
  | .fabPllLockloss .., s => ⟨_, rfl, doFabPllLockloss_keeps (hk := .refl s) ..⟩
  | .fabselWrite .., s => ⟨_, rfl, doFabselWrite_keeps (hk := .refl s) ..⟩
  | .uioDlyWrite .., s => ⟨_, rfl, doUioDlyWrite_keeps (hk := .refl s) ..⟩
  | .uspTxWrite .., s => ⟨_, rfl, doUspTxWrite_keeps (hk := .refl s) ..⟩
  | .uspRxRead .., s => ⟨_, rfl, doUspRxRead_keeps (hk := .refl s) ..⟩
  | .uspReceive .., s => ⟨_, rfl, doUspReceive_keeps (hk := .refl s) ..⟩
  | .uspTransmit .., s => ⟨_, rfl, doUspTransmit_keeps (hk := .refl s) ..⟩
  | .ufwRequest .., s => ⟨_, rfl, doUfwRequest_keeps (hk := .refl s) ..⟩
  | .bankGrant .., s => ⟨_, rfl, doBankGrant_keeps (hk := .refl s) ..⟩
  | .bankClearDone .., s => ⟨_, rfl, doBankClearDone_keeps (hk := .refl s) ..⟩
  | .btTestCycle .., s => ⟨_, rfl, doBtTestCycle_keeps (hk := .refl s) ..⟩
  | .btEnWrite .., s => ⟨_, rfl, doBtEnWrite_keeps (hk := .refl s) ..⟩
  | .ditchFabricPush .., s => ⟨_, rfl, doDitchFabricPush_keeps (hk := .refl s) ..⟩
  | .ditchFabricPop .., s => ⟨_, rfl, doDitchFabricPop_keeps (hk := .refl s) ..⟩
  | .ditchFlush .., s => ⟨_, rfl, doDitchFlush_keeps (hk := .refl s) ..⟩
  | .dqWeirWrite .., s => ⟨_, rfl, doDqWeirWrite_keeps (hk := .refl s) ..⟩
  | .imageLoadComplete .., s => ⟨_, rfl, doImageLoadComplete_keeps (hk := .refl s) ..⟩
  | .literal .., s => ⟨_, rfl, doLiteral_keeps (hk := .refl s) ..⟩
  | .repeatRecord .., s => ⟨_, rfl, doRepeatRecord_keeps (hk := .refl s) ..⟩
  | .zeroRecord .., s => ⟨_, rfl, doZeroRecord_keeps (hk := .refl s) ..⟩
  | .fillRecord .., s => ⟨_, rfl, doFillRecord_keeps (hk := .refl s) ..⟩
  | .handlersSection .., s => ⟨_, rfl, doHandlersSection_keeps (hk := .refl s) ..⟩
  | .reginitSection .., s => ⟨_, rfl, doReginitSection_keeps (hk := .refl s) ..⟩
  | .bankinitSection .., s => ⟨_, rfl, doBankinitSection_keeps (hk := .refl s) ..⟩
  | .releaseWriteEnables .., s => ⟨_, rfl, doReleaseWriteEnables_keeps (hk := .refl s) ..⟩
  | .releaseResetsDeassert .., s => ⟨_, rfl, doReleaseResetsDeassert_keeps (hk := .refl s) ..⟩
  | .fabPatchGo .., s => ⟨_, rfl, doFabPatchGo_keeps (hk := .refl s) ..⟩
  | .shadowBuildDone .., s => ⟨_, rfl, doShadowBuildDone_keeps (hk := .refl s) ..⟩
  | .reachDrainEnd .., s => ⟨_, rfl, doReachDrainEnd_keeps (hk := .refl s) ..⟩
  | .liveSwapVerified .., s => ⟨_, rfl, doLiveSwapVerified_keeps (hk := .refl s) ..⟩
  | .swapDrainStart, s => ⟨_, rfl, doSwapDrainStart_keeps (hk := .refl s) ..⟩
  | .swapFlip .., s => ⟨_, rfl, doSwapFlip_keeps (hk := .refl s) ..⟩
  | .swapDrainTimeout .., s => ⟨_, rfl, doSwapDrainTimeout_keeps (hk := .refl s) ..⟩
  | .scrubFrame .., s => ⟨_, rfl, doScrubFrame_keeps (hk := .refl s) ..⟩
  | .mbDoorbell .., s => ⟨_, rfl, doMbDoorbell_keeps (hk := .refl s) ..⟩
  | .mbDoneWrite .., s => ⟨_, rfl, doMbDoneWrite_keeps (hk := .refl s) ..⟩
  | .setEndpointId .., s => ⟨_, rfl, doSetEndpointId_keeps (hk := .refl s) ..⟩
  | .getEndpointId .., s => ⟨_, rfl, doGetEndpointId_keeps (hk := .refl s) ..⟩
  | .getMctpVersionSupport .., s => ⟨_, rfl, doGetMctpVersionSupport_keeps (hk := .refl s) ..⟩
  | .getMessageTypeSupport .., s => ⟨_, rfl, doGetMessageTypeSupport_keeps (hk := .refl s) ..⟩
  | .getVendorDefinedMsgSupport .., s => ⟨_, rfl, doGetVendorDefinedMsgSupport_keeps (hk := .refl s) ..⟩
  | .getInfo .., s => ⟨_, rfl, doGetInfo_keeps (hk := .refl s) ..⟩
  | .getStatus .., s => ⟨_, rfl, doGetStatus_keeps (hk := .refl s) ..⟩
  | .abort .., s => ⟨_, rfl, doAbort_keeps (hk := .refl s) ..⟩
  | .noticeSubscribe .., s => ⟨_, rfl, doNoticeSubscribe_keeps (hk := .refl s) ..⟩
  | .noticeStats .., s => ⟨_, rfl, doNoticeStats_keeps (hk := .refl s) ..⟩
  | .csrRead .., s => ⟨_, rfl, doCsrRead_keeps (hk := .refl s) ..⟩
  | .csrWrite .., s => ⟨_, rfl, doCsrWrite_keeps (hk := .refl s) ..⟩
  | .bankRead .., s => ⟨_, rfl, doBankRead_keeps (hk := .refl s) ..⟩
  | .bankWrite .., s => ⟨_, rfl, doBankWrite_keeps (hk := .refl s) ..⟩
  | .frameRead .., s => ⟨_, rfl, doFrameRead_keeps (hk := .refl s) ..⟩
  | .flashRead .., s => ⟨_, rfl, doFlashRead_keeps (hk := .refl s) ..⟩
  | .loadBegin .., s => ⟨_, rfl, doLoadBegin_keeps (hk := .refl s) ..⟩
  | .loadData .., s => ⟨_, rfl, doLoadData_keeps (hk := .refl s) ..⟩
  | .loadEnd .., s => ⟨_, rfl, doLoadEnd_keeps (hk := .refl s) ..⟩
  | .loadSessionTimeout, s => ⟨_, rfl, doLoadSessionTimeout_keeps (hk := .refl s) ..⟩
  | .swap .., s => ⟨_, rfl, doSwap_keeps (hk := .refl s) ..⟩
  | .reachReload .., s => ⟨_, rfl, doReachReload_keeps (hk := .refl s) ..⟩
  | .optionRead .., s => ⟨_, rfl, doOptionRead_keeps (hk := .refl s) ..⟩
  | .optionWrite .., s => ⟨_, rfl, doOptionWrite_keeps (hk := .refl s) ..⟩
  | .uflashErase .., s => ⟨_, rfl, doUflashErase_keeps (hk := .refl s) ..⟩
  | .uflashProgram .., s => ⟨_, rfl, doUflashProgram_keeps (hk := .refl s) ..⟩
  | .lcTransition .., s => ⟨_, rfl, doLcTransition_keeps (hk := .refl s) ..⟩
  | .debugCert .., s => ⟨_, rfl, doDebugCert_keeps (hk := .refl s) ..⟩
  | .debugCertResponse, s => ⟨_, rfl, doDebugCertResponse_keeps (hk := .refl s) ..⟩
  | .refusedResponse, s => ⟨_, rfl, doRefusedResponse_keeps (hk := .refl s) ..⟩
  | .otpWrite .., s => ⟨_, rfl, doOtpWrite_keeps (hk := .refl s) ..⟩
  | .keyRevoke .., s => ⟨_, rfl, doKeyRevoke_keeps (hk := .refl s) ..⟩
  | .otpWordProgrammed .., s => ⟨_, rfl, doOtpWordProgrammed_keeps (hk := .refl s) ..⟩
  | .resetHot .., s => ⟨_, rfl, doResetHot_keeps (hk := .refl s) ..⟩
  | .resetDie .., s => ⟨_, rfl, doResetDie_keeps (hk := .refl s) ..⟩
  | .resetReach .., s => ⟨_, rfl, doResetReach_keeps (hk := .refl s) ..⟩
  | .resetEng .., s => ⟨_, rfl, doResetEng_keeps (hk := .refl s) ..⟩
  | .resetSteward .., s => ⟨_, rfl, doResetSteward_keeps (hk := .refl s) ..⟩
  | .resetTowpath .., s => ⟨_, rfl, doResetTowpath_keeps (hk := .refl s) ..⟩
  | .powerStateStandby .., s => ⟨_, rfl, doPowerStateStandby_keeps (hk := .refl s) ..⟩
  | .powerStateRun .., s => ⟨_, rfl, doPowerStateRun_keeps (hk := .refl s) ..⟩
  | .railOkRise, s => ⟨_, rfl, doRailOkRise_keeps (hk := .refl s) ..⟩
  | .railOkTimeout, s => ⟨_, rfl, doRailOkTimeout_keeps (hk := .refl s) ..⟩
  | .reachWakeCheckDone .., s => ⟨_, rfl, doReachWakeCheckDone_keeps (hk := .refl s) ..⟩
  | .bistRun .., s => ⟨_, rfl, doBistRun_keeps (hk := .refl s) ..⟩
  | .lbistComplete .., s => ⟨_, rfl, doLbistComplete_keeps (hk := .refl s) ..⟩
  | .mbistComplete .., s => ⟨_, rfl, doMbistComplete_keeps (hk := .refl s) ..⟩
  | .chainStatus .., s => ⟨_, rfl, doChainStatus_keeps (hk := .refl s) ..⟩
  | .chainEnum .., s => ⟨_, rfl, doChainEnum_keeps (hk := .refl s) ..⟩
  | .noticeDitchStore, s => ⟨_, rfl, doNoticeDitchStore_keeps (hk := .refl s) ..⟩
  | .noticeDeliver, s => ⟨_, rfl, doNoticeDeliver_keeps (hk := .refl s) ..⟩
  | .towLinkTrained .., s => ⟨_, rfl, doTowLinkTrained_keeps (hk := .refl s) ..⟩
  | .towLinkDown .., s => ⟨_, rfl, doTowLinkDown_keeps (hk := .refl s) ..⟩
  | .towpathMessageFrame .., s => ⟨_, rfl, doTowpathMessageFrame_keeps (hk := .refl s) ..⟩
  | .towpathNoticeFrame .., s => ⟨_, rfl, doTowpathNoticeFrame_keeps (hk := .refl s) ..⟩
  | .towAck .., s => ⟨_, rfl, doTowAck_keeps (hk := .refl s) ..⟩
  | .towNak .., s => ⟨_, rfl, doTowNak_keeps (hk := .refl s) ..⟩
  | .enumerationStart, s => ⟨_, rfl, doEnumerationStart_keeps (hk := .refl s) ..⟩
  | .towEnum .., s => ⟨_, rfl, doTowEnum_keeps (hk := .refl s) ..⟩
  | .enumTokenForward, s => ⟨_, rfl, doEnumTokenForward_keeps (hk := .refl s) ..⟩
  | .enumAck .., s => ⟨_, rfl, doEnumAck_keeps (hk := .refl s) ..⟩
  | .enumTimeout, s => ⟨_, rfl, doEnumTimeout_keeps (hk := .refl s) ..⟩
  | .syncExchange, s => ⟨_, rfl, doSyncExchange_keeps (hk := .refl s) ..⟩
  | .syncReq .., s => ⟨_, rfl, doSyncReq_keeps (hk := .refl s) ..⟩
  | .syncRsp .., s => ⟨_, rfl, doSyncRsp_keeps (hk := .refl s) ..⟩
  | .resetT .., s => ⟨_, rfl, doResetT_keeps (hk := .refl s) ..⟩
  | .rejoin .., s => ⟨_, rfl, doRejoin_keeps (hk := .refl s) ..⟩
  | .watchdogExpiry, s => ⟨_, rfl, doWatchdogExpiry_keeps (hk := .refl s) ..⟩
  | .trialPromote, s => ⟨_, rfl, doTrialPromote_keeps (hk := .refl s) ..⟩
  | .flKeyWrite .., s => ⟨_, rfl, doFlKeyWrite_keeps (hk := .refl s) ..⟩
  | .flProgram .., s => ⟨_, rfl, doFlProgram_keeps (hk := .refl s) ..⟩
  | .flBitprog .., s => ⟨_, rfl, doFlBitprog_keeps (hk := .refl s) ..⟩
  | .flErase .., s => ⟨_, rfl, doFlErase_keeps (hk := .refl s) ..⟩
  | .flRdpLower .., s => ⟨_, rfl, doFlRdpLower_keeps (hk := .refl s) ..⟩
  | .rdpLowerComplete, s => ⟨_, rfl, doRdpLowerComplete_keeps (hk := .refl s) ..⟩
  | .flashProgramDone .., s => ⟨_, rfl, doFlashProgramDone_keeps (hk := .refl s) ..⟩
  | .flashEraseDone .., s => ⟨_, rfl, doFlashEraseDone_keeps (hk := .refl s) ..⟩
  | .flSuspend, s => ⟨_, rfl, doFlSuspend_keeps (hk := .refl s) ..⟩
  | .flResume, s => ⟨_, rfl, doFlResume_keeps (hk := .refl s) ..⟩
  | .flashReadAccess, s => ⟨_, rfl, doFlashReadAccess_keeps (hk := .refl s) ..⟩
  | .autoResume, s => ⟨_, rfl, doAutoResume_keeps (hk := .refl s) ..⟩
  | .flagReerase, s => ⟨_, rfl, doFlagReerase_keeps (hk := .refl s) ..⟩
  | .powerOnReset .., s => ⟨_, rfl, doPowerOnReset_keeps (hk := .refl s) ..⟩
  | .hotRstPin, s => ⟨_, rfl, doHotRstPin_keeps (hk := .refl s) ..⟩
  | .hotRstRise .., s => ⟨_, rfl, doHotRstRise_keeps (hk := .refl s) ..⟩
  | .thermalTrip .., s => ⟨_, rfl, doThermalTrip_keeps (hk := .refl s) ..⟩
  | .coreUndervoltage .., s => ⟨_, rfl, doCoreUndervoltage_keeps (hk := .refl s) ..⟩
  | .voltageGovernorStep .., s => ⟨_, rfl, doVoltageGovernorStep_keeps (hk := .refl s) ..⟩
  | .pinEnWrite .., s => ⟨_, rfl, doPinEnWrite_keeps (hk := .refl s) ..⟩
  | .gpioLockKeyWrite .., s => ⟨_, rfl, doGpioLockKeyWrite_keeps (hk := .refl s) ..⟩
  | .gpioLockWrite .., s => ⟨_, rfl, doGpioLockWrite_keeps (hk := .refl s) ..⟩
  | .patternMatchFire .., s => ⟨_, rfl, doPatternMatchFire_keeps (hk := .refl s) ..⟩
  | .pinShort .., s => ⟨_, rfl, doPinShort_keeps (hk := .refl s) ..⟩
  | .shortClearWrite .., s => ⟨_, rfl, doShortClearWrite_keeps (hk := .refl s) ..⟩
  | .openTestGo .., s => ⟨_, rfl, doOpenTestGo_keeps (hk := .refl s) ..⟩
  | .openTestPulldown .., s => ⟨_, rfl, doOpenTestPulldown_keeps (hk := .refl s) ..⟩
  | .openTestDone .., s => ⟨_, rfl, doOpenTestDone_keeps (hk := .refl s) ..⟩
  | .tapBypass, s => ⟨_, rfl, doTapBypass_keeps (hk := .refl s) ..⟩
  | .tapIdcode, s => ⟨_, rfl, doTapIdcode_keeps (hk := .refl s) ..⟩
  | .tapSamplePreload, s => ⟨_, rfl, doTapSamplePreload_keeps (hk := .refl s) ..⟩
  | .tapExtest, s => ⟨_, rfl, doTapExtest_keeps (hk := .refl s) ..⟩
  | .tapExtestPulse, s => ⟨_, rfl, doTapExtestPulse_keeps (hk := .refl s) ..⟩
  | .tapExtestTrain, s => ⟨_, rfl, doTapExtestTrain_keeps (hk := .refl s) ..⟩
  | .tapClamp, s => ⟨_, rfl, doTapClamp_keeps (hk := .refl s) ..⟩
  | .tapHighz, s => ⟨_, rfl, doTapHighz_keeps (hk := .refl s) ..⟩
  | .tapTestLogicReset, s => ⟨_, rfl, doTapTestLogicReset_keeps (hk := .refl s) ..⟩
  | .rcRead .., s => ⟨_, rfl, doRcRead_keeps (hk := .refl s) ..⟩
  | .registerWrite .., s => ⟨_, rfl, doRegisterWrite_keeps (hk := .refl s) ..⟩
  | .engIllegal .., s => ⟨_, rfl, doEngIllegal_keeps (hk := .refl s) ..⟩
  | .ditchEnginePush .., s => ⟨_, rfl, doDitchEnginePush_keeps (hk := .refl s) ..⟩
  | .enginePortFabric .., s => ⟨_, rfl, doEnginePortFabric_keeps (hk := .refl s) ..⟩
  | .entdaa .., s => ⟨_, rfl, doEntdaa_keeps (hk := .refl s) ..⟩
  | .setdasa .., s => ⟨_, rfl, doSetdasa_keeps (hk := .refl s) ..⟩
  | .noticeDeliveryTimeout .., s => ⟨_, rfl, doNoticeDeliveryTimeout_keeps (hk := .refl s) ..⟩
  | .unlistedOpcode .., s => ⟨_, rfl, doUnlistedOpcode_keeps (hk := .refl s) ..⟩
  | .flCmdWrite .., s => ⟨_, rfl, doFlCmdWrite_keeps (hk := .refl s) ..⟩
  | .pwrgoodFall .., s => ⟨_, rfl, doPwrgoodFall_keeps (hk := .refl s) ..⟩

/-- A step on an empty queue is a tick. -/
theorem step_nil {s : State} (h : s.pending = []) : step s = .next s.tick := by
  unfold step; rw [h]

/-- A step on a queue with a front command runs it on the state with the queue's rest. -/
theorem step_cons {s : State} {c : Instr} {rest : List Instr} (h : s.pending = c :: rest) :
    step s = exec c { s with pending := rest } := by
  unfold step; rw [h]

/-- Settles O3: a tick keeps what the canonical form speaks of, and so does every command on the queue's rest. -/
theorem everyStepKeepsCanonical : Obligations.EveryStepKeepsCanonical := by
  intro s t hs hstep
  cases hq : s.pending with
  | nil =>
    rw [step_nil hq] at hstep
    cases hstep
    have k : Keeps s s.tick := State.tick_keeps (.refl s)
    exact ⟨k.canonical hs, k.part, k.pending.trans hq⟩
  | cons c rest =>
    obtain ⟨u, hu, k⟩ := exec_keeps c { s with pending := rest }
    rw [step_cons hq, hu] at hstep
    cases hstep
    exact ⟨k.canonical (.of_stored (s := s) rfl hs), k.part, k.pending⟩

end Sys2Proof.Machine
end

section
/-! PROOFS. The register tables as data, and the state after reset (O4). -/

namespace Sys2Proof.Machine

/-- Every register row of the tables. -/
def everyRow : List RegRow := (List.range 16).flatMap logicRows ++ (List.range 16).flatMap stwRows

/-- A register that exists has a row of the tables. -/
theorem findRow_mem {a : Nat} {r : RegRow} (h : findRow a = some r) : r ∈ everyRow := by
  have hm := List.mem_of_find?_eq_some h
  have hb : a / 0x1000000 % 16 ∈ List.range 16 := List.mem_range.2 (Nat.mod_lt _ (by norm_num))
  unfold rowsOf at hm
  dsimp only at hm
  split at hm
  · exact List.mem_append_left _ (List.mem_flatMap.2 ⟨_, hb, hm⟩)
  · split at hm
    · exact List.mem_append_right _ (List.mem_flatMap.2 ⟨_, hb, hm⟩)
    · simp at hm

/-- The fields of a row share no bit and lie in the word. -/
theorem everyRow_fields_sound : ∀ r ∈ everyRow, (r.fields.Pairwise fun f g => f.fld.apart g.fld) ∧
    ∀ f ∈ r.fields, f.fld.lo + f.fld.width ≤ 32 := by
  unfold Fld.apart
  decide +kernel

/-- The sum of the reset values of a row holds each of them in its field. -/
theorem everyRow_reset_fields : ∀ r ∈ everyRow, ∀ f ∈ r.fields,
    f.fld.get (BitVec.ofNat 32 r.resetNat) = f.reset % 2 ^ f.fld.width := by
  decide +kernel

theorem resetOf_field {a : Nat} {r : RegRow} (h : findRow a = some r) (hx : r.base ≠ Rg.xbCredit.base)
    (hb : r.base ≠ Rg.bankInfo.base) {f : RegField} (hf : f ∈ r.fields) :
    f.fld.get (resetOf a) = f.reset % 2 ^ f.fld.width := by
  have e : resetOf a = BitVec.ofNat 32 r.resetNat := by simp [resetOf, h, hx, hb]
  rw [e]
  exact everyRow_reset_fields r (findRow_mem h) f hf

theorem State.reset_canonical : State.reset.Canonical := ⟨rfl, rfl, rfl, rfl, barReset_wf, rfl⟩

theorem State.reset_die {d : Nat} (h : d < 8) : State.reset.fget (Csr.pwrVcore d) PwrVcore.target = 800 ∧
    State.reset.dieOn d = false ∧ State.reset.waiting d = [] := by
  refine ⟨?_, ?_, rfl⟩
  · revert d; decide +kernel
  · revert d; decide +kernel

theorem barReset_read (k : Nat) : Memory.read 0 barReset k = if k = 0x100C ∨ k = 0x101C then 1 else 0 := by
  simp only [Memory.read, barReset, SMap.get, SMap.find, eq_comm (b := k)]
  split_ifs <;> simp_all

/-- Settles O4: what State.reset lists is evaluated, and every register reads its Reset value because none is listed. -/
theorem resetState : Obligations.ResetState := by
  refine ⟨State.reset_canonical, rfl, fun _ => rfl, fun a r h hx hb f hf => resetOf_field h hx hb hf,
    ?_, ?_, ?_, ?_, ?_, fun d hd => State.reset_die hd, fun d e => ⟨rfl, fun win c => ?_⟩,
    fun k => ⟨rfl, rfl, rfl, barReset_read k⟩, rfl, rfl, rfl, rfl, rfl⟩
  case refine_6 => exact ite_self _
  all_goals decide +kernel

end Sys2Proof.Machine
end

section
/-! PROOFS. Writes and reads of registers by their access codes, and by whom (O56). -/

namespace Sys2Proof.Machine

/-! ## Fields of a register under a fold over its row -/

theorem Fld.apart.symm {f g : Fld} (h : f.apart g) : g.apart f := Or.symm h

/-- A fold that writes field after field leaves a field that none of them shares a bit with. -/
theorem foldl_fields_apart {step : Word → RegField → Word}
    (hother : ∀ (w : Word) (f g : RegField), f.fld.apart g.fld → g.fld.get (step w f) = g.fld.get w)
    {fs : List RegField} {g : RegField} (h : ∀ f ∈ fs, f.fld.apart g.fld) (w : Word) :
    g.fld.get (fs.foldl step w) = g.fld.get w := by
  induction fs generalizing w with
  | nil => rfl
  | cons f fs ih =>
    rw [List.foldl_cons, ih (fun x hx => h x (List.mem_cons_of_mem _ hx)), hother w f g (h f List.mem_cons_self)]

/-- A fold that writes field after field, each by a function of its own old value, gives every field of a row what its function
says. -/
theorem foldl_fields_get {step : Word → RegField → Word} {val : RegField → Nat → Nat} {fs : List RegField}
    (hother : ∀ (w : Word) (f g : RegField), f.fld.apart g.fld → g.fld.get (step w f) = g.fld.get w)
    (hown : ∀ f ∈ fs, ∀ w : Word, f.fld.get (step w f) = val f (f.fld.get w))
    (hp : fs.Pairwise fun f g => f.fld.apart g.fld) {g : RegField} (hg : g ∈ fs) (w : Word) :
    g.fld.get (fs.foldl step w) = val g (g.fld.get w) := by
  induction fs generalizing w with
  | nil => simp at hg
  | cons f fs ih =>
    obtain ⟨hf, hfs⟩ := List.pairwise_cons.1 hp
    rw [List.foldl_cons]
    rcases List.mem_cons.1 hg with rfl | hg'
    · rw [foldl_fields_apart hother (fun x hx => (hf x hx).symm), hown g List.mem_cons_self]
    · rw [ih (fun x hx => hown x (List.mem_cons_of_mem _ hx)) hfs hg', hother w f g (hf g hg')]

/-- What a write of `new` leaves in a field by its access code (00 Table 00-5), its lock open. -/
def RegField.taken (f : RegField) (new old : Nat) : Nat :=
  match f.acc with
  | .rw | .rwl => new
  | .w1c => old - (old &&& new)
  | .w1s => old ||| new
  | .ro | .rc | .wo => old

theorem RegField.write_apart (f g : RegField) (w v : Word) (h : f.fld.apart g.fld) :
    g.fld.get (f.write false w v) = g.fld.get w := by
  unfold RegField.write
  cases f.acc <;> simp [Fld.get_put_apart f.fld g.fld w _ h]

theorem RegField.write_get (f : RegField) (w v : Word) (h : f.fld.lo + f.fld.width ≤ 32) :
    f.fld.get (f.write false w v) = f.taken (f.fld.get v) (f.fld.get w) := by
  have ho := f.fld.get_lt w
  have hn := f.fld.get_lt v
  unfold RegField.write RegField.taken
  cases f.acc with
  | ro | rc | wo => rfl
  | rw | rwl => simp [Fld.get_put_same _ _ _ h, Nat.mod_eq_of_lt hn]
  | w1c => simp only [Fld.get_put_same _ _ _ h]; exact Nat.mod_eq_of_lt (lt_of_le_of_lt (Nat.sub_le _ _) ho)
  | w1s => simp only [Fld.get_put_same _ _ _ h]; exact Nat.mod_eq_of_lt (Nat.or_lt_two_pow ho hn)

/-- A plain write of a register gives each of its fields what its access code says. -/
theorem RegRow.write_get {a : Nat} {r : RegRow} (h : findRow a = some r) {f : RegField} (hf : f ∈ r.fields) (w v : Word) :
    f.fld.get (r.write false w v) = f.taken (f.fld.get v) (f.fld.get w) := by
  obtain ⟨hp, hl⟩ := everyRow_fields_sound r (findRow_mem h)
  exact foldl_fields_get (step := fun w f => f.write false w v) (val := fun f old => f.taken (f.fld.get v) old)
    (fun w f g hfg => f.write_apart g w v hfg) (fun f hf w => f.write_get w v (hl f hf)) hp hf w

/-- A read of a register returns its RC fields to their Reset values and leaves the others. -/
theorem RegRow.afterRead_get {a : Nat} {r : RegRow} (h : findRow a = some r) {f : RegField} (hf : f ∈ r.fields) (w : Word) :
    f.fld.get (r.afterRead a w) = if f.acc = .rc then f.fld.get (resetOf a) else f.fld.get w := by
  obtain ⟨hp, hl⟩ := everyRow_fields_sound r (findRow_mem h)
  refine foldl_fields_get (val := fun f old => if f.acc = .rc then f.fld.get (resetOf a) else old)
    (fun w f g hfg => ?_) (fun f hf w => ?_) hp hf w
  · split
    · exact Fld.get_put_apart f.fld g.fld w _ hfg
    · rfl
  · simp only [beq_iff_eq]
    split
    · rw [Fld.get_put_same _ _ _ (hl f hf), Nat.mod_eq_of_lt (f.fld.get_lt _)]
    · rfl

/-! ## Plain writes and reads -/

theorem OnlyRegs.csrSet (s : State) (a : Nat) (w : Word) : OnlyRegs s (s.csrSet a w) [a] :=
  fun _ hb => s.csrGet_csrSet_ne w (by simpa using hb)

theorem State.plainWrite_row {a : Nat} {r : RegRow} (h : findRow a = some r) (s : State) (v : Word) :
    s.plainWrite a v = s.csrSet a (r.write false (s.csrGet a) v) := by
  simp [State.plainWrite, h]

theorem State.plainRead_row {a : Nat} {r : RegRow} (h : findRow a = some r) (s : State) :
    (s.plainRead a).2 = s.csrSet a (r.afterRead a (s.csrGet a)) := by
  simp [State.plainRead, h]

/-- The registers of a logic die whose write does more than store. -/
def actingDieRows : List RegRow :=
  [Rg.gwRole, Rg.hgMeter, Rg.cvCtrl, Rg.engCtrl, Rg.engSpill, Rg.engHsData, Rg.engDbgSel, Rg.taskW0, Rg.taskW1, Rg.taskW2,
    Rg.taskW3, Rg.fabPllCtrl, Rg.reachCtrl, Rg.fabIrwHi, Rg.uioDly, Rg.uspTx, Rg.bankCtrl, Rg.dqCtrl, Rg.dqWeir, Rg.fabPatchCtrl,
    Rg.uioOpenCtrl]

/-- The registers of the Steward die whose write does more than store. -/
def actingStwRows : List RegRow :=
  [Rg.flKey, Rg.flCmd, Rg.flAddr, Rg.flDataLo, Rg.flDataHi, Rg.flCtrl, Rg.gpioLockKey, Rg.gpioLock, Rg.pinEn,
    Rg.gpioShort, Rg.gpioOe, Rg.gpioCfg, Rg.gpioOpenCtrl, Rg.mbDoorbell]

/-- The registers of a logic die whose read shows state held elsewhere. -/
def viewDieRows : List RegRow :=
  [Rg.dirSts, Rg.engCtrl, Rg.engSts, Rg.engHsData, Rg.engDbgSel, Rg.engDbgData, Rg.engLockSts, Rg.schSts, Rg.taskW3,
    Rg.sluSts, Rg.sluFabCost, Rg.msSts, Rg.msLo, Rg.uioSts, Rg.uspRx, Rg.uspSts, Rg.bankInfo, Rg.bankSts, Rg.dqSts, Rg.cfgSts]

/-- The registers of the Steward die whose read shows state held elsewhere. -/
def viewStwRows : List RegRow :=
  [Rg.flProt, Rg.gpioIn, Rg.gpioOwner, Rg.otpRdLo, Rg.otpRdHi, Rg.lcHostRights, Rg.towMsOfsLo, Rg.ndSts]

theorem State.dieWrite_plain {a : Nat} {r : RegRow} (h : findRow a = some r) (hx : ∀ x ∈ actingDieRows, r.base ≠ x.base)
    (s : State) (v : Word) (dbg : Bool) : s.dieWrite a v dbg = s.plainWrite a v := by
  simp only [actingDieRows, List.forall_mem_cons] at hx
  simp [State.dieWrite, h, hx]

theorem State.stwWrite_plain {a : Nat} {r : RegRow} (h : findRow a = some r) (hx : ∀ x ∈ actingStwRows, r.base ≠ x.base)
    (s : State) (v : Word) :
    s.stwWrite a v = if blockOf a = 1 then (s.plainWrite a v).cancelLock else s.plainWrite a v := by
  simp only [actingStwRows, List.forall_mem_cons] at hx
  by_cases h0 : blockOf a = 0
  · simp [State.stwWrite, State.flashWrite, h, hx, h0]
  · by_cases h1 : blockOf a = 1
    · simp [State.stwWrite, State.pinWrite, h, hx, h1]
    · simp [State.stwWrite, h, hx, h0, h1]

theorem State.dieRead_plain {a : Nat} {r : RegRow} (h : findRow a = some r) (hx : ∀ x ∈ viewDieRows, r.base ≠ x.base)
    (s : State) (dbg : Bool) : s.dieRead a dbg = s.plainRead a := by
  simp only [viewDieRows, List.forall_mem_cons] at hx
  simp [State.dieRead, h, hx]

theorem State.stwRead_plain {a : Nat} {r : RegRow} (h : findRow a = some r) (hx : ∀ x ∈ viewStwRows, r.base ≠ x.base)
    (s : State) (who : Option HostId) : s.stwRead a who = s.plainRead a := by
  simp only [viewStwRows, List.forall_mem_cons] at hx
  simp [State.stwRead, h, hx]

/-! ## Where no register answers -/

theorem State.busWrite_unreachable {s : State} {a : Nat} (h : s.reachable a = false) (v : Word) (dbg : Bool) :
    s.busWrite a v dbg = s := by
  simp [State.busWrite, h]

theorem State.busRead_unreachable {s : State} {a : Nat} (h : s.reachable a = false) (who : Option HostId) (dbg : Bool) :
    s.busRead a who dbg = (0, s) := by
  simp [State.busRead, h]

theorem State.reachable_die {s : State} {a : Nat} (h : dieOf a ≠ stw) :
    s.reachable a = (s.dieOn (dieOf a) && (findRow a).isSome) := by
  simp [State.reachable, h]

theorem State.reachable_off {s : State} {a : Nat} (h : dieOf a ≠ stw) (hd : s.dieOn (dieOf a) = false) :
    s.reachable a = false := by
  simp [State.reachable_die h, hd]

theorem State.reachable_undefined {s : State} {a : Nat} (h : (findRow a).isSome = false) (hb : isBar a = false) :
    s.reachable a = false := by
  simp [State.reachable, h, hb]

/-! ## Accesses by who makes them -/

/-- A host's message to a register writes it, and nothing is stepped, unless it is an ENG_CTRL that answers (03 R151). -/
theorem State.msgWrite_eq_busWrite {s : State} {a : Nat}
    (h : ∀ r, findRow a = some r → dieOf a ≠ stw → r.base = Rg.engCtrl.base → s.reachable a = false) (who : HostId) (v : Word) :
    s.msgWrite who a v = s.busWrite a v (s.holds who Right.engdbg) := by
  unfold State.msgWrite
  dsimp only
  split
  · rename_i r hr
    rw [if_neg]
    intro hc
    simp only [Bool.and_eq_true, decide_eq_true_eq, beq_iff_eq] at hc
    obtain ⟨⟨⟨⟨-, hdie⟩, hbase⟩, -⟩, hon⟩ := hc
    have hu := h r hr hdie hbase
    rw [State.busWrite_unreachable hu] at hon
    simp [State.reachable_die hdie, hon, hr] at hu
  · rfl

/-- Who may access the register at `a` (03 R136; 09 R311). -/
def State.mayAccess (s : State) (a : Nat) (write : Bool) : Access → Prop
  | .host h => s.hostMay h a = true
  | .engine e _ => s.engCsrStatus e.val a write = St.ok
  | .config => True

/-- The Steward blocks of 09 R311. -/
theorem needsRaw_of_block {a : Nat} (hd : dieOf a = stw) (h : blockOf a ∈ [0, 2, 3, 6, 7, 8]) : needsRaw a = true := by
  simp only [List.mem_cons, List.not_mem_nil, or_false] at h
  unfold needsRaw
  rcases h with h | h | h | h | h | h <;> simp [hd, h]

/-- An access that reaches no register changes nothing. -/
theorem doRegisterWrite_unreachable {s : State} {addr : Nat} (h : s.reachable (wordAddr addr) = false) (src : Access) (v : Word) :
    doRegisterWrite src addr v s = s := by
  cases src with
  | host who =>
    simp [doRegisterWrite, State.msgWrite_eq_busWrite (fun _ _ _ _ => h), State.busWrite_unreachable h]
  | engine d e => simp [doRegisterWrite, State.busWrite_unreachable h]
  | config => exact State.busWrite_unreachable h v false

theorem doRcRead_unreachable {s : State} {addr : Nat} (h : s.reachable (wordAddr addr) = false) (src : Access) :
    doRcRead src addr s = s := by
  cases src <;> simp [doRcRead, State.msgRead, State.busRead_unreachable h]

/-- A write that is allowed, of no ENG_CTRL, is one access to the register. -/
theorem doRegisterWrite_allowed {s : State} {addr : Nat} {src : Access} (hm : s.mayAccess (wordAddr addr) true src)
    (h : ∀ r, findRow (wordAddr addr) = some r → dieOf (wordAddr addr) ≠ stw → r.base ≠ Rg.engCtrl.base) (v : Word) :
    ∃ dbg, doRegisterWrite src addr v s = s.busWrite (wordAddr addr) v dbg := by
  cases src with
  | host who =>
    have hm : s.hostMay who (wordAddr addr) = true := hm
    exact ⟨_, by rw [← State.msgWrite_eq_busWrite (fun r hr hd hb => absurd hb (h r hr hd)) who v]; simp [doRegisterWrite, hm]⟩
  | engine d e =>
    have hm : s.engCsrStatus d.val (wordAddr addr) true = St.ok := hm
    exact ⟨false, by simp [doRegisterWrite, hm]⟩
  | config => exact ⟨false, rfl⟩

theorem doRcRead_allowed {s : State} {addr : Nat} {src : Access} (hm : s.mayAccess (wordAddr addr) false src) :
    ∃ who dbg, doRcRead src addr s = (s.busRead (wordAddr addr) who dbg).2 := by
  cases src with
  | host who =>
    have hm : s.hostMay who (wordAddr addr) = true := hm
    exact ⟨some who, s.holds who Right.engdbg, by simp [doRcRead, hm, State.msgRead]⟩
  | engine d e =>
    have hm : s.engCsrStatus d.val (wordAddr addr) false = St.ok := hm
    exact ⟨none, false, by simp [doRcRead, hm]⟩
  | config => exact ⟨none, false, rfl⟩

/-- A write of a register without an action of its own stores, and in the pin block it also cancels the lock sequence. -/
theorem State.busWrite_plain {s : State} {a : Nat} {r : RegRow} (h : findRow a = some r) (hr : s.reachable a = true)
    (hx : ∀ x ∈ (if dieOf a = stw then actingStwRows else actingDieRows), r.base ≠ x.base) (v : Word) (dbg : Bool) :
    s.busWrite a v dbg = if dieOf a = stw ∧ blockOf a = 1 then (s.plainWrite a v).cancelLock else s.plainWrite a v := by
  by_cases hd : dieOf a = stw
  · rw [if_pos hd] at hx
    simp [State.busWrite, hr, hd, State.stwWrite_plain h hx]
  · rw [if_neg hd] at hx
    simp [State.busWrite, hr, hd, State.dieWrite_plain h hx]

theorem State.busRead_plain {s : State} {a : Nat} {r : RegRow} (h : findRow a = some r) (hr : s.reachable a = true)
    (hx : ∀ x ∈ (if dieOf a = stw then viewStwRows else viewDieRows), r.base ≠ x.base) (who : Option HostId) (dbg : Bool) :
    s.busRead a who dbg = s.plainRead a := by
  by_cases hd : dieOf a = stw
  · rw [if_pos hd] at hx
    simp [State.busRead, hr, hd, State.stwRead_plain h hx]
  · rw [if_neg hd] at hx
    simp [State.busRead, hr, hd, State.dieRead_plain h hx]

/-! ## The registers whose write has its own row -/

/-- Offset `off` of a logic die is the register of row `r` with the indexes `is`. -/
def RowAt (off : Nat) (r : RegRow) (is : List Nat) : Prop :=
  off < 0x10000000 ∧ off % 4 = 0 ∧ (logicRows (off / 0x1000000)).find? (·.hit off) = some r ∧ gridIdx r.dims (off - r.base) = is

theorem State.dieOn_lt {s : State} {d : Nat} (h : s.dieOn d = true) : d < 8 := by
  unfold State.dieOn State.populated at h
  simp only [Bool.and_eq_true, decide_eq_true_eq] at h
  have : s.part.dies ≤ 8 := by unfold Part.dies; split <;> decide
  omega

/-- A write by the configuration controller to a register of a logic die that is on does what the die does for its row. -/
theorem registerWrite_die {s t : State} {d off : Nat} {r : RegRow} {is : List Nat} {addr v : Word} (hrow : RowAt off r is)
    (hon : s.dieOn d = true) (ha : addr.toNat = csrAddr d off)
    (hw : ∀ a, findRow a = some r → dieOf a = d → r.ix a = is → s.dieWrite a v false = t) :
    exec (.registerWrite .config addr v) s = .next t := by
  obtain ⟨ho, h4, hfind, hix⟩ := hrow
  have hd : d < 8 := State.dieOn_lt hon
  have hdie : dieOf (csrAddr d off) = d := by unfold dieOf csrAddr; omega
  have hoff : csrAddr d off % 0x10000000 = off := by unfold csrAddr; omega
  have hblk : csrAddr d off / 0x1000000 % 16 = off / 0x1000000 := by unfold csrAddr; omega
  have hf : findRow (csrAddr d off) = some r := by
    have hdie : csrAddr d off / 0x10000000 = d := hdie
    simp only [findRow, rowsOf, hdie, hoff, hblk, if_pos hd, hfind]
  have hs : d ≠ stw := by unfold stw; omega
  have hr : s.reachable (csrAddr d off) = true := by
    rw [State.reachable_die (by rwa [hdie]), hdie, hon, hf]; rfl
  have hword : wordAddr addr.toNat = csrAddr d off := by
    rw [ha]; unfold wordAddr csrAddr; omega
  have hbus : s.busWrite (csrAddr d off) v false = t := by
    rw [← hw (csrAddr d off) hf hdie (by unfold RegRow.ix; rw [hoff, hix])]
    simp [State.busWrite, hr, hdie, hs]
  show Host.Outcome.next (s.busWrite (wordAddr addr.toNat) v false) = .next t
  rw [hword, hbus]

theorem rowAt_cvCtrl : ∀ c : Culv, RowAt (0x3000000 + 0x100 * c) Rg.cvCtrl [c.val] := by unfold RowAt; decide +kernel
theorem rowAt_engSpill : ∀ e : Eng, RowAt (0x5000008 + 0x40 * e) Rg.engSpill [e.val] := by unfold RowAt; decide +kernel
theorem rowAt_engHsData : RowAt 0x5010004 Rg.engHsData [] := by unfold RowAt; decide +kernel
theorem rowAt_taskW1 : ∀ n : TaskNo, RowAt (0x6010004 + 0x10 * n) Rg.taskW1 [n.val] := by unfold RowAt; decide +kernel
theorem rowAt_taskW2 : ∀ n : TaskNo, RowAt (0x6010008 + 0x10 * n) Rg.taskW2 [n.val] := by unfold RowAt; decide +kernel
theorem rowAt_fabPllCtrl : ∀ f : Fab, RowAt (0xA000000 + 0x10 * f) Rg.fabPllCtrl [f.val] := by unfold RowAt; decide +kernel
theorem rowAt_uspTx : ∀ u : Usp, RowAt (0xA050008 + 0x40 * u) Rg.uspTx [u.val] := by unfold RowAt; decide +kernel
theorem rowAt_bankCtrl : RowAt 0x7000000 Rg.bankCtrl [] := by unfold RowAt; decide +kernel
theorem rowAt_dqWeir : ∀ q : Ditch, RowAt (0x8000004 + 0x40 * q) Rg.dqWeir [q.val] := by unfold RowAt; decide +kernel

/-- Where the registers of a logic die stand whose write does more than store. -/
theorem actingDieBases : Rg.gwRole.base = 0x0000004 ∧ Rg.hgMeter.base = 0x2000100 ∧ Rg.cvCtrl.base = 0x3000000 ∧ Rg.engCtrl.base = 0x5000000 ∧
    Rg.engSpill.base = 0x5000008 ∧ Rg.engHsData.base = 0x5010004 ∧ Rg.engDbgSel.base = 0x5010008 ∧ Rg.taskW0.base = 0x6010000 ∧
    Rg.taskW1.base = 0x6010004 ∧ Rg.taskW2.base = 0x6010008 ∧ Rg.taskW3.base = 0x601000C ∧ Rg.fabPllCtrl.base = 0xA000000 ∧
    Rg.reachCtrl.base = 0xA010000 ∧ Rg.fabIrwHi.base = 0xA020008 ∧ Rg.uioDly.base = 0xA030004 ∧ Rg.uspTx.base = 0xA050008 ∧
    Rg.bankCtrl.base = 0x7000000 ∧ Rg.dqCtrl.base = 0x8000000 ∧ Rg.dqWeir.base = 0x8000004 := by
  and_intros <;> rfl

/-- The register writes with rows of their own, on a logic die that is on. -/
theorem registerWrite_die_rows {s : State} {addr v : Word} (x : Die) (hon : s.dieOn x = true) :
    let same (r : Nat) (c : Instr) : Prop := addr.toNat = r → ∃ t, exec c s = .next t ∧ exec (.registerWrite .config addr v) s = .next t
    (∀ c : Culv, same (Csr.cvCtrl x c) (.cvCtrlWrite x c v)) ∧ (∀ e : Eng, same (Csr.engSpill x e) (.engSpillWrite x e v)) ∧
      same (Csr.engHsData x) (.engHsDataAccess x (some v)) ∧
      (∀ n : TaskNo, same (Csr.taskW1 x n) (.taskReadinessWrite x n (some v) none) ∧ same (Csr.taskW2 x n) (.taskFlagsWrite x n v)) ∧
      (∀ f : Fab, same (Csr.fabPllCtrl x f) (.fabPllWrite x f v)) ∧
      (∀ u : Usp, same (Csr.uspTx x u) (.uspTxWrite x ⟨u, false⟩ (v.setWidth 16))) ∧
      same (Csr.bankCtrl x) (.btEnWrite x (BankCtrl.btEn.bit v)) ∧
      (∀ q : Ditch, same (Csr.dqWeir x q) (.dqWeirWrite x q v)) := by
  refine ⟨fun c ha => ⟨doCvCtrlWrite x c v s, by simp [exec, execCvCtrlWrite, hon], ?_⟩, fun e ha => ⟨_, rfl, ?_⟩, fun ha => ⟨_, rfl, ?_⟩,
    fun n => ⟨fun ha => ⟨_, rfl, ?_⟩, fun ha => ⟨_, rfl, ?_⟩⟩, fun f ha => ⟨_, rfl, ?_⟩, fun u ha => ⟨_, rfl, ?_⟩,
    fun ha => ⟨_, rfl, ?_⟩, fun q ha => ⟨_, rfl, ?_⟩⟩
  · exact registerWrite_die (rowAt_cvCtrl c) hon ha fun a h hd hi => by simp [State.dieWrite, h, hd, hi, actingDieBases]
  · exact registerWrite_die (rowAt_engSpill e) hon ha fun a h hd hi => by simp [State.dieWrite, h, hd, hi, actingDieBases]
  · exact registerWrite_die rowAt_engHsData hon ha fun a h hd _ => by simp [State.dieWrite, h, hd, actingDieBases]
  · exact registerWrite_die (rowAt_taskW1 n) hon ha fun a h hd hi => by simp [State.dieWrite, h, hd, hi, actingDieBases]
  · exact registerWrite_die (rowAt_taskW2 n) hon ha fun a h hd hi => by simp [State.dieWrite, h, hd, hi, actingDieBases]
  · exact registerWrite_die (rowAt_fabPllCtrl f) hon ha fun a h hd hi => by simp [State.dieWrite, h, hd, hi, actingDieBases]
  · exact registerWrite_die (rowAt_uspTx u) hon ha fun a h hd hi => by simp [State.dieWrite, h, hd, hi, actingDieBases]
  · exact registerWrite_die rowAt_bankCtrl hon ha fun a h hd _ => by simp [State.dieWrite, h, hd, actingDieBases]
  · exact registerWrite_die (rowAt_dqWeir q) hon ha fun a h hd hi => by simp [State.dieWrite, h, hd, hi, actingDieBases]

/-- A write by the configuration controller to a register of the Steward die. -/
theorem registerWrite_stw {s : State} {a : Nat} {r : RegRow} {addr v : Word} (hrow : findRow a = some r) (hd : dieOf a = stw)
    (h4 : wordAddr a = a) (ha : addr.toNat = a) : exec (.registerWrite .config addr v) s = .next (s.stwWrite a v) := by
  have hr : s.reachable a = true := by simp [State.reachable, hd, hrow]
  have hbus : s.busWrite a v false = s.stwWrite a v := by simp [State.busWrite, hr, hd]
  show Host.Outcome.next (s.busWrite (wordAddr addr.toNat) v false) = _
  rw [ha, h4, hbus]

theorem findRow_mbDoorbell : ∀ k : Mbox, findRow (Csr.mbDoorbell k) = some Rg.mbDoorbell ∧ dieOf (Csr.mbDoorbell k) = stw ∧
    wordAddr (Csr.mbDoorbell k) = Csr.mbDoorbell k ∧ blockOf (Csr.mbDoorbell k) = 4 ∧ Rg.mbDoorbell.ix (Csr.mbDoorbell k) = [k.val] := by
  decide +kernel

theorem findRow_gpioCfg : ∀ p : Fin 32, findRow (Csr.gpioCfg p) = some Rg.gpioCfg ∧ dieOf (Csr.gpioCfg p) = stw ∧
    wordAddr (Csr.gpioCfg p) = Csr.gpioCfg p ∧ blockOf (Csr.gpioCfg p) = 1 ∧ Rg.gpioCfg.ix (Csr.gpioCfg p) = [p.val] := by
  decide +kernel

/-- Where the registers of the pin block stand whose write does more than store. -/
theorem actingPinBases : Rg.gpioCfg.base = 0x1000000 ∧ Rg.gpioOe.base = 0x1000084 ∧ Rg.pinEn.base = 0x1000100 ∧
    Rg.gpioLockKey.base = 0x1000104 ∧ Rg.gpioLock.base = 0x1000108 ∧ Rg.gpioShort.base = 0x100010C ∧
    Rg.gpioOpenCtrl.base = 0x1000114 := by
  and_intros <;> rfl

theorem State.stwWrite_mbDoorbell (s : State) (k : Mbox) {v : Word} (hv : v.getLsbD 0 = true) :
    s.stwWrite (Csr.mbDoorbell k) v = doMbDoorbell k s := by
  obtain ⟨hrow, -, -, hblk, hix⟩ := findRow_mbDoorbell k
  have hgo : MbDoorbell.go.bit v = true := by
    have : v.toNat % 2 = 1 := by simpa [BitVec.getLsbD, Nat.testBit_zero] using hv
    simp [Fld.bit, Fld.get, Fld.ofNat, MbDoorbell.go, this]
  simp [State.stwWrite, hrow, hblk, hix, hgo]

/-- The lock of a pin decides what a write of its GPIO_CFG does (12 R383). -/
theorem State.stwWrite_gpioCfg (s : State) (p : Fin 32) (v : Word) :
    s.stwWrite (Csr.gpioCfg p) v =
      if s.pinLocked p then s.cancelLock else (s.plainWrite (Csr.gpioCfg p) v).cancelLock := by
  obtain ⟨hrow, -, -, hblk, hix⟩ := findRow_gpioCfg p
  cases hl : s.pinLocked p <;>
    simp [State.stwWrite, State.pinWrite, hrow, hblk, hix, hl, actingPinBases]

/-- GPIO_OE takes the bits of the pins that are not locked. -/
theorem State.oeWrite_bit (s : State) (v : Word) {p : Nat} (hp : p < 32) :
    ((s.oeWrite v).csrGet Csr.gpioOe).getLsbD p =
      if s.pinLocked p then (s.csrGet Csr.gpioOe).getLsbD p else v.getLsbD p := by
  have hl : s.pinLocked p = (s.csrGet Csr.gpioLock).getLsbD p := by
    have e : s.fget Csr.gpioLock GpioLock.lock = (s.csrGet Csr.gpioLock).toNat := by
      simp [State.fget, Fld.get, Fld.ofNat, GpioLock.lock, Nat.mod_eq_of_lt (s.csrGet Csr.gpioLock).isLt]
    unfold State.pinLocked
    rw [e]
    rw [BitVec.getLsbD, Nat.testBit_eq_decide_div_mod_eq]; exact Bool.beq_eq_decide_eq _ _
  rw [hl, State.oeWrite]
  simp only [State.csrGet_csrSet_same, BitVec.getLsbD_or, BitVec.getLsbD_and, BitVec.getLsbD_not, hp, decide_true, Bool.true_and]
  cases (s.csrGet Csr.gpioLock).getLsbD p <;> simp

/-- The write clause: a register without a row of its own takes the write by its access codes. -/
theorem registerWrite_plain {s : State} {addr v : Word} {r : RegRow} {src : Access} (h : findRow (wordAddr addr.toNat) = some r)
    (hr : s.reachable (wordAddr addr.toNat) = true) (hm : s.mayAccess (wordAddr addr.toNat) true src)
    (hx : ∀ x ∈ (if dieOf (wordAddr addr.toNat) = stw then actingStwRows else actingDieRows), r.base ≠ x.base) :
    Completes (.registerWrite src addr v) s fun t =>
      (∀ f ∈ r.fields, f.fld.get (t.csrGet (wordAddr addr.toNat)) = f.taken (f.fld.get v) (f.fld.get (s.csrGet (wordAddr addr.toNat)))) ∧
      OnlyRegs s t [wordAddr addr.toNat] ∧
      t = { s with csr := t.csr,
                   pins := if dieOf (wordAddr addr.toNat) = stw ∧ blockOf (wordAddr addr.toNat) = 1 then { s.pins with lockSeq := 0 } else s.pins } := by
  obtain ⟨dbg, hw⟩ := doRegisterWrite_allowed (v := v) hm fun r' hr' hd hb => by
    rw [h] at hr'; cases hr'
    rw [if_neg hd] at hx
    exact hx Rg.engCtrl (by simp [actingDieRows]) hb
  refine ⟨_, rfl, ?_⟩
  rw [hw, State.busWrite_plain h hr hx, State.plainWrite_row h]
  refine ⟨fun f hf => ?_, ?_, ?_⟩
  · rw [← RegRow.write_get h hf]
    split
    · exact congrArg _ (s.csrGet_csrSet_same _ _)
    · rw [State.csrGet_csrSet_same]
  · split
    · exact OnlyRegs.csrSet s _ _
    · exact OnlyRegs.csrSet s _ _
  · split
    · rfl
    · rfl

theorem rcRead_plain {s : State} {addr : Word} {r : RegRow} {src : Access} (h : findRow (wordAddr addr.toNat) = some r)
    (hr : s.reachable (wordAddr addr.toNat) = true) (hm : s.mayAccess (wordAddr addr.toNat) false src)
    (hx : ∀ x ∈ (if dieOf (wordAddr addr.toNat) = stw then viewStwRows else viewDieRows), r.base ≠ x.base) :
    Completes (.rcRead src addr) s fun t =>
      (∀ f ∈ r.fields, f.fld.get (t.csrGet (wordAddr addr.toNat)) =
        if f.acc = .rc then f.fld.get (resetOf (wordAddr addr.toNat)) else f.fld.get (s.csrGet (wordAddr addr.toNat))) ∧
      OnlyRegs s t [wordAddr addr.toNat] ∧ t = { s with csr := t.csr } := by
  obtain ⟨who, dbg, hw⟩ := doRcRead_allowed hm
  refine ⟨_, rfl, ?_⟩
  rw [hw, State.busRead_plain h hr hx, State.plainRead_row h]
  refine ⟨fun f hf => ?_, OnlyRegs.csrSet s _ _, rfl⟩
  rw [State.csrGet_csrSet_same, RegRow.afterRead_get h hf]

/-- A write of GPIO_CFG of a pin that is not locked. -/
theorem State.plainWrite_gpioCfg (s : State) (p : Fin 32) (v : Word) {f : Fld}
    (hf : f ∈ [GpioCfg.pull, GpioCfg.od, GpioCfg.drive, GpioCfg.slow]) :
    (s.plainWrite (Csr.gpioCfg p) v).fget (Csr.gpioCfg p) f = f.get v := by
  have hrow := (findRow_gpioCfg p).1
  obtain ⟨x, hx, rfl, hacc⟩ : ∃ x ∈ Rg.gpioCfg.fields, x.fld = f ∧ x.acc = .rwl := by
    revert f; decide
  rw [State.fget, State.plainWrite_row hrow, State.csrGet_csrSet_same, RegRow.write_get hrow hx, RegField.taken, hacc]

/-- Settles O56: accesses that reach no register, the plain ones by the access codes of a row's fields, and the registers whose
write is a row of its own. -/
theorem registerAccess : Obligations.RegisterAccess := by
  intro addr v s
  refine ⟨fun hd hon src => ?_, fun hrow hbar src => ?_, fun h hd hblk hraw => ?_, fun r src h hr hm hx => ?_,
    fun r src h hr hm hx => ?_, ⟨?_, ?_, ?_, ?_, ?_, ?_, fun k hv ha => ?_, fun x hon => registerWrite_die_rows x hon⟩,
    fun p ha => ⟨fun hl => ?_, fun hl => ?_⟩, fun ha => ?_⟩
  · have hu : s.reachable (wordAddr addr.toNat) = false := State.reachable_off hd hon
    exact ⟨⟨_, rfl, doRegisterWrite_unreachable hu src v⟩, ⟨_, rfl, doRcRead_unreachable hu src⟩⟩
  · have hu : s.reachable (wordAddr addr.toNat) = false := State.reachable_undefined hrow hbar
    exact ⟨⟨_, rfl, doRegisterWrite_unreachable hu src v⟩, ⟨_, rfl, doRcRead_unreachable hu src⟩⟩
  · have hmay : s.hostMay h (wordAddr addr.toNat) = false := by
      have hneeds : needsRaw (wordAddr addr.toNat) = true := needsRaw_of_block hd hblk
      simp [State.hostMay, hneeds, hraw]
    exact ⟨⟨_, rfl, by simp [doRegisterWrite, hmay]⟩, ⟨_, rfl, by simp [doRcRead, hmay]⟩⟩
  · exact registerWrite_plain h hr (by cases src <;> exact hm) hx
  · exact rcRead_plain h hr (by cases src <;> exact hm) hx
  · exact fun ha => ⟨_, rfl, registerWrite_stw (r := Rg.flKey) rfl rfl rfl ha⟩
  · exact fun ha => ⟨_, rfl, registerWrite_stw (r := Rg.flCmd) rfl rfl rfl ha⟩
  · exact fun ha => ⟨_, rfl, registerWrite_stw (r := Rg.gpioLockKey) rfl rfl rfl ha⟩
  · exact fun ha => ⟨_, rfl, registerWrite_stw (r := Rg.gpioLock) rfl rfl rfl ha⟩
  · exact fun ha => ⟨_, rfl, registerWrite_stw (r := Rg.pinEn) rfl rfl rfl ha⟩
  · exact fun ha => ⟨_, rfl, registerWrite_stw (r := Rg.gpioShort) rfl rfl rfl ha⟩
  · obtain ⟨hrow, hdie, hword, -, -⟩ := findRow_mbDoorbell k
    exact ⟨_, rfl, (registerWrite_stw hrow hdie hword ha).trans (congrArg _ (s.stwWrite_mbDoorbell k hv))⟩
  · obtain ⟨hrow, hdie, hword, -, -⟩ := findRow_gpioCfg p
    refine ⟨_, registerWrite_stw hrow hdie hword ha, ?_⟩
    rw [s.stwWrite_gpioCfg, hl]; rfl
  · obtain ⟨hrow, hdie, hword, -, -⟩ := findRow_gpioCfg p
    have haddr : wordAddr addr.toNat = Csr.gpioCfg p := by rw [ha, hword]
    refine ⟨_, registerWrite_stw hrow hdie hword ha, ?_⟩
    rw [s.stwWrite_gpioCfg, hl]
    refine ⟨fun f hf => ?_, ?_⟩
    · exact (congrArg (State.fget _ · f) haddr).trans (s.plainWrite_gpioCfg p v hf)
    · exact haddr ▸ (State.plainWrite_row hrow s v ▸ OnlyRegs.csrSet s _ _ : OnlyRegs s (s.plainWrite (Csr.gpioCfg p) v) [Csr.gpioCfg p])
  · have haddr : wordAddr addr.toNat = Csr.gpioOe := by rw [ha]; rfl
    refine ⟨_, registerWrite_stw (r := Rg.gpioOe) rfl rfl rfl ha, fun p hp => ?_, ?_⟩
    · exact (congrArg (fun a => ((s.oeWrite v).csrGet a).getLsbD p) haddr).trans
        ((s.oeWrite_bit v hp).trans (congrArg (fun a => if s.pinLocked p then (s.csrGet a).getLsbD p else v.getLsbD p) haddr.symm))
    · exact (congrArg (fun a => OnlyRegs s (s.stwWrite Csr.gpioOe v) [a]) haddr).mpr (OnlyRegs.csrSet s Csr.gpioOe _)

end Sys2Proof.Machine
end

section
/-! PROOFS. The hot reset completes a running KEY_REVOKE, whose rights it then withdraws (O51 fails). -/

namespace Sys2Proof.Machine

/-- The command of a host that revokes owner key 1. -/
def revokeCmd : CmdHdr :=
  { host := .i3c 8, via := .i3c 58, tag := 1, seq := 0, chain := 0, flags := 0, status := 0, resZero := true, length := 200, payload := [] }

/-- PWRGOOD is high; KEY_REVOKE of owner key 1, signed with key 0, programs its OTP word as `doKeyRevoke` starts it, and the host
holds FLREAD by a certificate of key 1. -/
def revoking : State :=
  { State.reset with
    pwr := { State.reset.pwr with pwrgood := true }
    hosts := [⟨.i3c 8, .i3c 58, 0xFFFF, 0, 0, 0, 0, 0, [(Right.flread, 1)]⟩]
    otpBusy := some (0x63, ones64)
    job := some { cmd := revokeCmd, steps := [.otp 0x63 ones64, .keyDone 1 0], stop := false } }

/-- HOT_RST_n completes the revocation (11 R372), which withdraws the right that key 1 granted (11 R374). -/
theorem hotRstPin_revoking_rights : (doHotRstPin revoking).hosts.map (·.rights) = [[]] := by decide +kernel

/-- Refutes O51: HOT_RST_PIN does not keep the hosts' records as they were when it completes the OTP word of a KEY_REVOKE, since the
rights that the revoked key granted are withdrawn. -/
theorem not_fullStart : ¬ Obligations.FullStart := by
  intro h
  obtain ⟨-, ⟨hpin, -⟩, -⟩ := h revoking
  obtain ⟨t, ht, -, -, -, hhosts, -⟩ := hpin ⟨rfl, rfl⟩
  have e : t = doHotRstPin revoking := (Host.Outcome.next.inj ht).symm
  have hrights := hotRstPin_revoking_rights
  rw [← e, hhosts] at hrights
  exact absurd hrights (by decide)

end Sys2Proof.Machine
end

section

/-! PROOFS. The records and sections of a load (O38). -/

namespace Sys2Proof.Machine

/-! ## Runs of bytes in a memory -/

/-- A run of bytes written from `k`, the first of them `n` places on: the bytes of the run read as written, every other as before. -/
theorem Memory.read_writes (dflt : Byte) (bs : List Byte) (m : Memory) (k n a : Nat) :
    Memory.read dflt ((bs.zipIdx n).foldl (fun m x => Memory.write dflt m (k + x.2) x.1) m) a =
      if k + n ≤ a ∧ a < k + n + bs.length then bs.getD (a - (k + n)) 0 else Memory.read dflt m a := by
  induction bs generalizing m n with
  | nil => simp only [List.zipIdx_nil, List.foldl_nil, List.length_nil]; rw [if_neg (by omega)]
  | cons b bs ih =>
    rw [List.zipIdx_cons, List.foldl_cons, ih, List.length_cons]
    by_cases h : a = k + n
    · subst h
      rw [if_neg (by omega), if_pos (by omega), Memory.read_write_same]
      simp
    · rw [Memory.read_write_ne _ _ _ h]
      by_cases h' : k + (n + 1) ≤ a ∧ a < k + (n + 1) + bs.length
      · obtain ⟨i, hi⟩ : ∃ i, a - (k + n) = i + 1 := ⟨a - (k + n) - 1, by omega⟩
        rw [if_pos h', if_pos (by omega), hi, List.getD_cons_succ, show a - (k + (n + 1)) = i by omega]
      · rw [if_neg h', if_neg (by omega)]

/-! ## Frames (08 R264, R265) -/

theorem frameKey_byte (p d r f b : Nat) : frameKey p d r f b = frameKey p d r f 0 + b := by
  unfold frameKey; omega

/-- Two frames of the device that share a byte are one. -/
theorem frameKey_overlap {p d r f p' d' r' f' b : Nat} (hd : d < 8) (hd' : d' < 8) (hr : r < 16) (hr' : r' < 16) (hf : f < 1280)
    (hf' : f' < 1280) (hb : b < 256) (h : frameKey p d r f 0 ≤ frameKey p' d' r' f' b)
    (h' : frameKey p' d' r' f' b < frameKey p d r f 0 + 256) : p' = p ∧ d' = d ∧ r' = r ∧ f' = f := by
  unfold frameKey at h h'; omega

theorem State.frame_length (s : State) (p d r f : Nat) : (s.frame p d r f).length = 256 := by
  simp [State.frame]

/-- A frame reads the bytes written to it. -/
theorem State.frame_setFrame_same (s : State) (p d r f : Nat) {bs : List (BitVec 8)} (hb : bs.length = 256) :
    (s.setFrame p d r f bs).frame p d r f = bs := by
  refine List.ext_getElem (by rw [State.frame_length, hb]) fun i hi hi' => ?_
  have hlt : i < 256 := by rwa [State.frame_length] at hi
  simp only [State.frame, State.setFrame, List.getElem_map, List.getElem_range, Memory.read_writes, hb]
  rw [frameKey_byte p d r f i, if_pos (by omega), Nat.add_zero, Nat.add_sub_cancel_left, List.getD_eq_getElem _ _ hi']

/-- A frame that is written leaves every other frame. -/
theorem State.frame_setFrame_ne (s : State) {p d r f p' d' r' f' : Nat} {bs : List (BitVec 8)} (hb : bs.length = 256) (hd : d < 8)
    (hd' : d' < 8) (hr : r < 16) (hr' : r' < 16) (hf : f < 1280) (hf' : f' < 1280) (h : ¬ (p' = p ∧ d' = d ∧ r' = r ∧ f' = f)) :
    (s.setFrame p d r f bs).frame p' d' r' f' = s.frame p' d' r' f' := by
  refine List.map_congr_left fun b hmem => ?_
  have hlt : b < 256 := List.mem_range.1 hmem
  simp only [State.setFrame, Memory.read_writes, hb, Nat.add_zero]
  rw [if_neg]
  rintro ⟨h1, h2⟩
  exact h (frameKey_overlap hd hd' hr hr' hf hf' hlt h1 h2)

/-- From `s` to `t`, the `k` frames from `f` of a reach's plane took `content`, every other frame of the device is as before, and
nothing else changed but the marks of the frames. -/
structure FramesWritten (s t : State) (plane d r f k : Nat) (content : Nat → List (BitVec 8)) : Prop where
  wrote : ∀ i < k, t.frame plane d r (f + i) = content i
  others : ∀ p' < 2, ∀ d' < 8, ∀ r' < 16, ∀ g < 1280, ¬ (p' = plane ∧ d' = d ∧ r' = r ∧ f ≤ g ∧ g < f + k) →
    t.frame p' d' r' g = s.frame p' d' r' g
  rest : t = { s with frames := t.frames, frameBad := t.frameBad }

theorem FramesWritten.congr {s t : State} {plane d r f k : Nat} {content content' : Nat → List (BitVec 8)}
    (h : FramesWritten s t plane d r f k content) (he : ∀ i < k, content i = content' i) :
    FramesWritten s t plane d r f k content' :=
  ⟨fun i hi => (h.wrote i hi).trans (he i hi), h.others, h.rest⟩

theorem FramesWritten.none (s : State) (plane d r f : Nat) (content : Nat → List (BitVec 8)) :
    FramesWritten s s plane d r f 0 content :=
  ⟨fun _ hi => absurd hi (Nat.not_lt_zero _), fun _ _ _ _ _ _ _ _ _ => rfl, rfl⟩

/-- One frame written, then those behind it. -/
theorem FramesWritten.cons {s t : State} {plane d r f k : Nat} {bs : List (BitVec 8)} {content : Nat → List (BitVec 8)}
    (hb : bs.length = 256) (hp : plane < 2) (hd : d < 8) (hr : r < 16) (hf : f + (k + 1) ≤ 1280)
    (h : FramesWritten (s.setFrame plane d r f bs) t plane d r (f + 1) k content) :
    FramesWritten s t plane d r f (k + 1) (fun | 0 => bs | i + 1 => content i) where
  wrote i hi := by
    cases i with
    | zero =>
      rw [Nat.add_zero, h.others plane hp d hd r hr f (by omega) (by omega), s.frame_setFrame_same _ _ _ _ hb]
    | succ i =>
      rw [show f + (i + 1) = f + 1 + i by omega]; exact h.wrote i (by omega)
  others p' hp' d' hd' r' hr' g hg hn := by
    rw [h.others p' hp' d' hd' r' hr' g hg (by omega)]
    exact s.frame_setFrame_ne hb hd hd' hr hr' (by omega) hg (by omega)
  rest := by rw [h.rest]; rfl

/-- ZERO and FILL write one content to their frames. -/
theorem State.fillFrames_written (s : State) {plane d r f : Nat} {bs : List (BitVec 8)} (hb : bs.length = 256) (hp : plane < 2)
    (hd : d < 8) (hr : r < 16) (k : Nat) (hf : f + k ≤ 1280) :
    FramesWritten s (s.fillFrames plane d r f bs k) plane d r f k (fun _ => bs) := by
  induction k generalizing s f with
  | zero => exact .none s plane d r f _
  | succ k ih =>
    refine (FramesWritten.cons hb hp hd hr hf (ih (s.setFrame plane d r f bs) (by omega))).congr fun i _ => ?_
    cases i <;> rfl

/-- REPEAT copies earlier frames in ascending order: a source frame that the record itself writes is read as written. -/
theorem State.copyFrames_written (s : State) {plane d r a f : Nat} (ha : a < f) (hp : plane < 2) (hd : d < 8) (hr : r < 16) (k : Nat)
    (hf : f + k ≤ 1280) :
    let t := s.copyFrames plane d r a f k
    FramesWritten s t plane d r f k (fun i => (if a + i < f then s else t).frame plane d r (a + i)) := by
  induction k generalizing s a f with
  | zero => exact .none s plane d r f _
  | succ k ih =>
    have hb := s.frame_length plane d r a
    have hrec := ih (s.setFrame plane d r f (s.frame plane d r a)) (Nat.succ_lt_succ ha) (by omega)
    refine (FramesWritten.cons hb hp hd hr hf hrec).congr fun i hi => ?_
    cases i with
    | zero => rw [Nat.add_zero, if_pos ha]
    | succ i =>
      show State.frame (if a + 1 + i < f + 1 then _ else _) _ _ _ (a + 1 + i) = State.frame (if a + (i + 1) < f then _ else _) _ _ _ (a + (i + 1))
      rw [show a + (i + 1) = a + 1 + i by omega]
      rcases Nat.lt_trichotomy (a + 1 + i) f with h | h | h
      · rw [if_pos (by omega), if_pos h]
        exact s.frame_setFrame_ne hb hd hd hr hr (by omega) (by omega) (by omega)
      · rw [if_pos (by omega), if_neg (by omega)]
        exact (hrec.others plane hp d hd r hr _ (by omega) (by omega)).symm
      · rw [if_neg (by omega), if_neg (by omega)]; rfl

theorem wordBytes_length (ws : List Word) : (wordBytes ws).length = 4 * ws.length := by
  induction ws with
  | nil => rfl
  | cons w ws ih =>
    rw [wordBytes, List.flatMap_cons, List.length_append, List.length_cons]
    have : (leBytes 4 w.toNat).length = 4 := rfl
    rw [this]; unfold wordBytes at ih; omega

/-- LITERAL writes its groups, whose checks hold. -/
theorem State.literals_written (s : State) {plane d r f : Nat} (hp : plane < 2) (hd : d < 8) (hr : r < 16)
    (groups : List (List Word × Word)) (h64 : ∀ g ∈ groups, g.1.length = 64) (hf : f + groups.length ≤ 1280)
    (hcrc : ∀ i < groups.length, (groups.getD i ([], 0)).2.toNat = groupCrc d r (f + i) (groups.getD i ([], 0)).1) :
    ∃ t, s.literals plane d r f groups = ⟨t, f + groups.length, none⟩ ∧
      FramesWritten s t plane d r f groups.length (fun i => wordBytes (groups.getD i ([], 0)).1) := by
  induction groups generalizing s f with
  | nil => exact ⟨s, rfl, .none s plane d r f _⟩
  | cons g groups ih =>
    obtain ⟨ws, crc⟩ := g
    rw [List.length_cons] at hf
    have h0 : groupCrc d r f ws = crc.toNat := (hcrc 0 (by simp)).symm
    have hb : (wordBytes ws).length = 256 := by rw [wordBytes_length, h64 (ws, crc) List.mem_cons_self]
    obtain ⟨t, ht, hw⟩ := ih (s.setFrame plane d r f (wordBytes ws)) (f := f + 1) (fun x hx => h64 x (List.mem_cons_of_mem _ hx))
      (by omega) (fun i hi => by
        have := hcrc (i + 1) (by rw [List.length_cons]; omega)
        rwa [List.getD_cons_succ, show f + (i + 1) = f + 1 + i by omega] at this)
    refine ⟨t, ?_, (FramesWritten.cons hb hp hd hr hf hw).congr fun i _ => ?_⟩
    · rw [State.literals, if_neg (by simp [h0]), ht, List.length_cons]
      simp only [RecRes.mk.injEq, and_true, true_and]; omega
    · cases i <;> rfl

/-! ## The next record of a load (08 R271, R272) -/

/-- The record `rec` of die `d`, which stands as `x` says, is the one that the load takes next. -/
structure RecordDue (s : State) (l : Load) (d : Nat) (rec : Word) (x : NextRec) : Prop where
  load : s.load = some l
  good : l.bad = none
  covers : s.covers l d = true
  noJob : ∀ j ∈ s.jobs, j.die ≠ d
  next : s.nextRec l d = some x
  index : x.reach * 1280 + x.frame = l.next.getD d 0
  word : wordIn (s.loadRd l) x.at_ = rec
  arrived : l.arrived (x.at_ + recSize rec) = true

theorem State.reloadFor_none {s : State} {d : Nat} (h : ∀ j ∈ s.jobs, j.die ≠ d) (rec : Word) : s.reloadFor d rec = none := by
  unfold State.reloadFor
  have e : s.jobs.filterMap (fun (j : ReachJob) =>
      if j.die == d && s.jobLoads j then (s.reloadNext j).map (fun x => (j, x)) else none) = [] := by
    refine List.filterMap_eq_nil_iff.2 fun j hj => ?_
    rw [if_neg]; simp [h j hj]
  rw [e]; rfl

theorem recSize_ge (rec : Word) : 4 ≤ recSize rec := by
  unfold recSize; split <;> omega

theorem Load.arrived_mono {l : Load} {m n : Nat} (hmn : m ≤ n) (h : l.arrived n = true) : l.arrived m = true := by
  unfold Load.arrived at h ⊢
  simp only [Bool.or_eq_true, decide_eq_true_eq] at h ⊢
  exact h.imp id (hmn.trans ·)

theorem Load.fail_good {l : Load} (h : l.bad = none) (st die frame : Nat) :
    l.fail st die frame = { l with bad := some (st, die, frame) } := by
  simp [Load.fail, h]

/-- A record that is due reaches the load. -/
theorem RecordDue.streamRecord {s : State} {l : Load} {d : Nat} {rec : Word} {x : NextRec} (h : RecordDue s l d rec x) {b : RecBody}
    (hop : rec.toNat % 4 = b.op) : s.streamRecord d rec b = s.loadRec l d rec b := by
  simp [State.streamRecord, hop, State.reloadFor_none h.noJob, h.load, h.covers]

/-- A record that may not stand there writes nothing and is the load's fault. -/
theorem RecordDue.loadRec_breaks {s : State} {l : Load} {d : Nat} {rec : Word} {x : NextRec} (h : RecordDue s l d rec x)
    (hb : x.breaks rec = true) (b : RecBody) :
    s.loadRec l d rec b = { s with load := some { l with bad := some (St.badArgument, d, localIndex x.reach x.frame) } } := by
  have h4 := Load.arrived_mono (Nat.add_le_add_left (recSize_ge rec) x.at_) h.arrived
  simp [State.loadRec, h.next, h.good, h4, h.word, hb, Load.fail_good h.good]

/-- From `s` to `t` the record that stands as `x` was taken: its frames took `content`, and the load goes on behind it. -/
def RecordWrote (s t : State) (l : Load) (d : Nat) (rec : Word) (x : NextRec) (content : Nat → List (BitVec 8)) : Prop :=
  let plane := 1 - s.plane d x.reach
  (∀ i < recCount rec, t.frame plane d x.reach (x.frame + i) = content i) ∧
    (∀ p' < 2, ∀ d' < 8, ∀ r' < 16, ∀ g < 1280,
      ¬ (p' = plane ∧ d' = d ∧ r' = x.reach ∧ x.frame ≤ g ∧ g < x.frame + recCount rec) → t.frame p' d' r' g = s.frame p' d' r' g) ∧
    t.load = some { l with recAt := l.recAt.set d (x.at_ + recSize rec),
                           next := l.next.set d (l.next.getD d 0 + recCount rec) } ∧
    t = { s with frames := t.frames, frameBad := t.frameBad, load := t.load }

/-- From `s` to `t` the record that stands as `x` was taken and found wrong: it wrote nothing and is the load's fault. -/
def RecordFailed (s t : State) (l : Load) (d : Nat) (rec : Word) (x : NextRec) (st : Nat) : Prop :=
  t.load = some { l with recAt := l.recAt.set d (x.at_ + recSize rec), next := l.next.set d (l.next.getD d 0),
                         bad := some (st, d, localIndex x.reach x.frame) } ∧ t = { s with load := t.load }

/-- A record that stands there and whose frames were written. -/
theorem RecordDue.wrote {s u : State} {l : Load} {d : Nat} {rec : Word} {x : NextRec} (h : RecordDue s l d rec x)
    (hb : x.breaks rec = false) {b : RecBody} (hbody : bodyIn (s.loadRd l) x.at_ rec = b) {content : Nat → List (BitVec 8)}
    (hrec : s.record d x.reach x.frame rec b = ⟨u, x.frame + recCount rec, none⟩)
    (hw : FramesWritten s u (1 - s.plane d x.reach) d x.reach x.frame (recCount rec) content) :
    RecordWrote s (s.loadRec l d rec b) l d rec x content := by
  have h4 := Load.arrived_mono (Nat.add_le_add_left (recSize_ge rec) x.at_) h.arrived
  have e : s.loadRec l d rec b =
      { u with load := some { l with recAt := l.recAt.set d (x.at_ + recSize rec),
                                     next := l.next.set d (l.next.getD d 0 + recCount rec) } } := by
    have hi : x.reach * 1280 + (x.frame + recCount rec) = l.next.getD d 0 + recCount rec := by rw [← Nat.add_assoc, h.index]
    simp only [List.getD_eq_getElem?_getD] at hi
    simp [hi, State.loadRec, h.next, h.good, h4, h.word, hb, h.arrived, hbody, hrec]
  rw [e]
  refine ⟨hw.wrote, hw.others, rfl, ?_⟩
  dsimp only; rw [hw.rest]

/-- A record that stands there and that its check or its source refuses. -/
theorem RecordDue.failed {s : State} {l : Load} {d : Nat} {rec : Word} {x : NextRec} (h : RecordDue s l d rec x)
    (hb : x.breaks rec = false) {b : RecBody} (hbody : bodyIn (s.loadRd l) x.at_ rec = b) {st : Nat}
    (hrec : s.record d x.reach x.frame rec b = ⟨s, x.frame, some (st, x.frame)⟩) :
    RecordFailed s (s.loadRec l d rec b) l d rec x st := by
  have h4 := Load.arrived_mono (Nat.add_le_add_left (recSize_ge rec) x.at_) h.arrived
  have e : s.loadRec l d rec b =
      { s with load := some { l with recAt := l.recAt.set d (x.at_ + recSize rec), next := l.next.set d (l.next.getD d 0),
                                     bad := some (st, d, localIndex x.reach x.frame) } } := by
    have hi := h.index
    simp only [List.getD_eq_getElem?_getD] at hi
    simp [hi, State.loadRec, h.next, h.good, h4, h.word, hb, h.arrived, hbody, hrec, Load.fail]
  rw [e]
  exact ⟨rfl, rfl⟩

/-! ## What a record does to the frames -/

theorem State.record_zero (s : State) (d r f : Nat) (rec crc : Word) (hf : f + recCount rec ≤ 1280) :
    s.record d r f rec (.zero crc) =
      if crc.toNat = crc32c (leNats 4 rec.toNat) then
        ⟨s.fillFrames (1 - s.plane d r) d r f (List.replicate 256 0) (recCount rec), f + recCount rec, none⟩
      else ⟨s, f, some (St.integrityFail, f)⟩ := by
  rw [State.record, if_neg (by omega)]
  simp only [ne_eq, ite_not, eq_comm]

theorem State.record_fill (s : State) (d r f : Nat) (rec pattern crc : Word) (hf : f + recCount rec ≤ 1280) :
    s.record d r f rec (.fill pattern crc) =
      if crc.toNat = crc32c (leNats 4 rec.toNat ++ leNats 4 pattern.toNat) then
        ⟨s.fillFrames (1 - s.plane d r) d r f (wordBytes (List.replicate 64 pattern)) (recCount rec), f + recCount rec, none⟩
      else ⟨s, f, some (St.integrityFail, f)⟩ := by
  rw [State.record, if_neg (by omega)]
  simp only [ne_eq, ite_not, eq_comm]

theorem State.record_repeat (s : State) (d r f : Nat) (rec src crc : Word) (hf : f + recCount rec ≤ 1280) :
    s.record d r f rec (.rep src crc) =
      if crc.toNat = crc32c (leNats 4 rec.toNat ++ leNats 4 src.toNat) then
        if src.toNat % 32768 / 2048 ≠ r ∨ f ≤ src.toNat % 2048 then ⟨s, f, some (St.badArgument, f)⟩
        else ⟨s.copyFrames (1 - s.plane d r) d r (src.toNat % 2048) f (recCount rec), f + recCount rec, none⟩
      else ⟨s, f, some (St.integrityFail, f)⟩ := by
  have hmod : src.toNat % 32768 % 2048 = src.toNat % 2048 := Nat.mod_mod_of_dvd _ (by norm_num)
  rw [State.record, if_neg (by omega)]
  simp only [hmod, ne_eq, ite_not, eq_comm (b := crc.toNat), Bool.or_eq_true, decide_eq_true_eq]

theorem State.record_literal (s : State) (d r f : Nat) (rec : Word) {groups : List (List Word × Word)} (hf : f + recCount rec ≤ 1280)
    (hlen : groups.length = recCount rec) (h64 : ∀ g ∈ groups, g.1.length = 64) :
    s.record d r f rec (.lit groups) = s.literals (1 - s.plane d r) d r f groups := by
  have hall : groups.all (fun (x : List Word × Word) => x.1.length == 64) = true := by simpa using h64
  rw [State.record, if_neg (by omega)]
  simp [hlen, hall]

/-- The groups that an image holds behind a LITERAL record word. -/
theorem bodyIn_literal {rd : Nat → Nat} {a : Nat} {rec : Word} {groups : List (List Word × Word)} (hop : rec.toNat % 4 = 0)
    (h : bodyIn rd a rec = .lit groups) : groups.length = recCount rec ∧ ∀ g ∈ groups, g.1.length = 64 := by
  simp only [bodyIn, hop, RecBody.lit.injEq] at h
  subst h
  refine ⟨by simp, fun g hg => ?_⟩
  obtain ⟨i, -, rfl⟩ := List.mem_map.1 hg
  simp

/-! ## The sections of a load (08 R268 to R270, R280) -/

/-- The section `x`, whose content is `body`, is the one that the load takes next. -/
structure SectionDue (s : State) (l : Load) (x : Section) (body : SecBody) : Prop where
  load : s.load = some l
  good : l.bad = none
  next : (otherSections (s.loadRd l))[l.secs]? = some x
  content : secIn (s.loadRd l) x = body
  arrived : l.arrived (x.off + x.len) = true

theorem SectionDue.sectionRow {s : State} {l : Load} {x : Section} {body : SecBody} (h : SectionDue s l x body) {crc : Word}
    (hc : crc.toNat = x.crc) : s.sectionRow body crc = s.takeSection l x := by
  simp [State.sectionRow, h.load, h.next, h.good, h.arrived, h.content, hc]

/-- A fault of a load that names no frame draws the two values that the spec does not give. -/
theorem State.failLoad_good (s : State) {l : Load} (h : l.bad = none) (st : Nat) :
    ∃ a b, s.failLoad l st = { s with load := some { l with bad := some (st, a, b) }, draws := s.draws + 2 } := by
  refine ⟨s.freeByte.1, s.freeByte.2.freeByte.1, ?_⟩
  rw [State.failLoad]
  dsimp only
  rw [Load.fail_good h]
  rfl

theorem Load.put_bad (l : Load) (b : SecBody) : (l.put b).bad = l.bad := by
  cases b <;> rfl

theorem Load.put_kind (l : Load) (b : SecBody) : (l.put b).kind = l.kind := by
  cases b <;> rfl

theorem Load.put_staged (l : Load) (b : SecBody) : (l.put b).staged = l.staged := by
  cases b <;> rfl

/-- What the end of a section leaves: `q` staged, or the fault `st` of it. -/
def SectionFailed (s t : State) (q : Load) (st : Nat) : Prop :=
  (∃ a b, t.load = some { q with bad := some (st, a, b) }) ∧ t = { s with load := t.load, draws := s.draws + 2 }

theorem State.failLoad_failed (s : State) {q : Load} (h : q.bad = none) (st : Nat) : SectionFailed s (s.failLoad q st) q st := by
  obtain ⟨a, b, e⟩ := s.failLoad_good h st
  rw [e]
  exact ⟨⟨a, b, rfl⟩, rfl⟩

section
variable {s : State} {l : Load} {x : Section} {body : SecBody} (h : SectionDue s l x body)
include h

/-- A section with a wrong CRC. -/
theorem SectionDue.take_crc (hcrc : crc32c (bytesAt (s.loadRd l) x.off x.len) ≠ x.crc) :
    SectionFailed s (s.takeSection l x) { l with secs := l.secs + 1 } St.integrityFail := by
  rw [State.takeSection, if_pos hcrc]
  exact s.failLoad_failed (q := { l with secs := l.secs + 1 }) h.good _

/-- A section that breaks a rule of its type. -/
theorem SectionDue.take_rules (hcrc : crc32c (bytesAt (s.loadRd l) x.off x.len) = x.crc)
    (hrules : ¬ (x.resv = 0 ∧ s.sectionRules x body = true)) :
    SectionFailed s (s.takeSection l x) { l with secs := l.secs + 1 } St.badArgument := by
  have hc : (decide (x.resv ≠ 0) || !s.sectionRules x (secIn (s.loadRd l) x)) = true := by
    rw [h.content]
    simp only [Bool.or_eq_true, decide_eq_true_eq, Bool.not_eq_true']
    by_contra hn
    simp only [not_or, Bool.not_eq_false, ne_eq, not_not] at hn
    exact hrules hn
  rw [State.takeSection, if_neg (by simpa using hcrc), if_pos hc]
  exact s.failLoad_failed (q := { l with secs := l.secs + 1 }) h.good _

/-- A section that keeps the rules is staged, unless a host image has no room for it. -/
theorem SectionDue.take_good (hcrc : crc32c (bytesAt (s.loadRd l) x.off x.len) = x.crc) (hresv : x.resv = 0)
    (hrules : s.sectionRules x body = true) :
    s.takeSection l x = s.stage (Load.put { l with secs := l.secs + 1 } body) x.len := by
  rw [State.takeSection, if_neg (by simpa using hcrc), if_neg (by simp [h.content, hresv, hrules]), h.content]

end

/-- The bytes that a load stages: what a host image has no room for is its fault. -/
theorem State.stage_room (s : State) (l : Load) (n : Nat) (h : l.kind = .host → l.staged + n ≤ 393216) :
    s.stage l n = { s with load := some { l with staged := l.staged + n } } := by
  rw [State.stage]
  dsimp only
  rw [if_neg]
  simp only [Bool.and_eq_true, beq_iff_eq, decide_eq_true_eq, not_and, not_lt]
  exact h

theorem State.stage_full (s : State) (l : Load) (n : Nat) (hk : l.kind = .host) (h : 393216 < l.staged + n) :
    s.stage l n = s.failLoad { l with staged := l.staged + n } St.badArgument := by
  rw [State.stage]
  dsimp only
  rw [if_pos (by simp [hk, h])]

/-- What the row of a section that is due does: it is staged, or one of the faults is the load's. -/
theorem SectionDue.row {s : State} {l : Load} {x : Section} {body : SecBody} (h : SectionDue s l x body) {c : Instr} {good : Prop}
    {l' : Load} (hexec : exec c s = .next (s.takeSection l x)) (hgood : s.sectionRules x body = true ↔ good)
    (hput : Load.put { l with secs := l.secs + 1 } body = { l' with secs := l.secs + 1 }) :
    let crcOk : Prop := crc32c (bytesAt (s.loadRd l) x.off x.len) = x.crc
    let keeps : Prop := x.resv = 0 ∧ good
    let q := { l' with secs := l.secs + 1, staged := l.staged + x.len }
    (crcOk → keeps → (l.kind = .host → l.staged + x.len ≤ 393216) → Completes c s fun t => t.load = some q ∧ t = { s with load := t.load }) ∧
      (crcOk → keeps → l.kind = .host → 393216 < l.staged + x.len → Completes c s fun t => SectionFailed s t q St.badArgument) ∧
      (¬ crcOk → Completes c s fun t => SectionFailed s t { l with secs := l.secs + 1 } St.integrityFail) ∧
      (crcOk → ¬ keeps → Completes c s fun t => SectionFailed s t { l with secs := l.secs + 1 } St.badArgument) := by
  have hkind : ({ l' with secs := l.secs + 1 } : Load).kind = l.kind := by rw [← hput, Load.put_kind]
  have hstaged : ({ l' with secs := l.secs + 1 } : Load).staged = l.staged := by rw [← hput, Load.put_staged]
  have hbad : ({ l' with secs := l.secs + 1 } : Load).bad = none := by rw [← hput, Load.put_bad]; exact h.good
  refine ⟨fun hc ⟨hr, hg⟩ hroom => ⟨_, hexec, ?_⟩, fun hc ⟨hr, hg⟩ hk hfull => ⟨_, hexec, ?_⟩, fun hc => ⟨_, hexec, h.take_crc hc⟩,
    fun hc hk => ⟨_, hexec, h.take_rules hc (fun ⟨hr, hs⟩ => hk ⟨hr, hgood.1 hs⟩)⟩⟩
  · rw [h.take_good hc hr (hgood.2 hg), hput, State.stage_room _ _ _ (by rwa [hkind, hstaged]), hstaged]
    exact ⟨rfl, rfl⟩
  · rw [h.take_good hc hr (hgood.2 hg), hput, State.stage_full _ _ _ (by rwa [hkind]) (by rwa [hstaged]), hstaged]
    exact s.failLoad_failed (q := { l' with secs := l.secs + 1, staged := l.staged + x.len }) hbad _

/-- A record may stand where the image holds it: it starts at the next frame of its reach and stays in it. -/
theorem NextRec.breaks_eq_false {x : NextRec} {rec : Word} : x.breaks rec = false ↔
    recFrame rec = localIndex x.reach x.frame ∧ x.frame + recCount rec ≤ 1280 ∧ x.at_ + recSize rec ≤ x.end_ := by
  simp [NextRec.breaks, and_assoc]

/-- What the row of a record that is due does by its place: it is misplaced, or its body acts. -/
theorem RecordDue.row {s : State} {l : Load} {d : Nat} {rec : Word} {x : NextRec} (h : RecordDue s l d rec x) {b : RecBody}
    {c : Instr} (hexec : exec c s = .next (s.streamRecord d rec b)) (hop : rec.toNat % 4 = b.op) (hb : x.breaks rec = true) :
    Completes c s fun t => t.load = some { l with bad := some (St.badArgument, d, localIndex x.reach x.frame) } ∧
      t = { s with load := t.load } := by
  refine ⟨_, hexec, ?_⟩
  rw [h.streamRecord hop, h.loadRec_breaks hb]
  exact ⟨rfl, rfl⟩

theorem State.plane_lt (s : State) (d r : Nat) : 1 - s.plane d r < 2 := by omega

section
variable {s : State} {l : Load} {d : Nat} {rec : Word} {x : NextRec} (h : RecordDue s l d rec x) (hd : d < 8) (hr : x.reach < 16)
  (hb : x.breaks rec = false)
include h hd hr hb

/-- ZERO writes zeros where its check holds. -/
theorem RecordDue.zero {crc : Word} (hop : rec.toNat % 4 = 2) (hbody : bodyIn (s.loadRd l) x.at_ rec = .zero crc) :
    let t := s.streamRecord d rec (.zero crc)
    (crc.toNat = crc32c (leNats 4 rec.toNat) → RecordWrote s t l d rec x (fun _ => List.replicate 256 0)) ∧
      (crc.toNat ≠ crc32c (leNats 4 rec.toNat) → RecordFailed s t l d rec x St.integrityFail) := by
  obtain ⟨-, hf, -⟩ := NextRec.breaks_eq_false.1 hb
  have hrec := s.record_zero d x.reach x.frame rec crc hf
  intro t
  rw [show t = _ from h.streamRecord (b := .zero crc) hop]
  exact ⟨fun hc => h.wrote hb hbody (hrec.trans (if_pos hc)) (s.fillFrames_written List.length_replicate (s.plane_lt _ _) hd hr _ hf),
    fun hc => h.failed hb hbody (hrec.trans (if_neg hc))⟩

/-- FILL writes its pattern where its check holds. -/
theorem RecordDue.fill {pattern crc : Word} (hop : rec.toNat % 4 = 3) (hbody : bodyIn (s.loadRd l) x.at_ rec = .fill pattern crc) :
    let t := s.streamRecord d rec (.fill pattern crc)
    let ok : Prop := crc.toNat = crc32c (leNats 4 rec.toNat ++ leNats 4 pattern.toNat)
    (ok → RecordWrote s t l d rec x (fun _ => wordBytes (List.replicate 64 pattern))) ∧
      (¬ ok → RecordFailed s t l d rec x St.integrityFail) := by
  obtain ⟨-, hf, -⟩ := NextRec.breaks_eq_false.1 hb
  have hrec := s.record_fill d x.reach x.frame rec pattern crc hf
  have hlen : (wordBytes (List.replicate 64 pattern)).length = 256 := by rw [wordBytes_length, List.length_replicate]
  intro t
  rw [show t = _ from h.streamRecord (b := .fill pattern crc) hop]
  exact ⟨fun hc => h.wrote hb hbody (hrec.trans (if_pos hc)) (s.fillFrames_written hlen (s.plane_lt _ _) hd hr _ hf),
    fun hc => h.failed hb hbody (hrec.trans (if_neg hc))⟩

/-- REPEAT copies earlier frames of its reach where its check holds. -/
theorem RecordDue.repeat {src crc : Word} (hop : rec.toNat % 4 = 1) (hbody : bodyIn (s.loadRd l) x.at_ rec = .rep src crc) :
    let t := s.streamRecord d rec (.rep src crc)
    let a := src.toNat % 2048
    let ok : Prop := crc.toNat = crc32c (leNats 4 rec.toNat ++ leNats 4 src.toNat)
    (ok → src.toNat % 32768 / 2048 = x.reach → a < x.frame → RecordWrote s t l d rec x fun i =>
      (if a + i < x.frame then s else t).frame (1 - s.plane d x.reach) d x.reach (a + i)) ∧
      (ok → (src.toNat % 32768 / 2048 ≠ x.reach ∨ x.frame ≤ a) → RecordFailed s t l d rec x St.badArgument) ∧
      (¬ ok → RecordFailed s t l d rec x St.integrityFail) := by
  obtain ⟨-, hf, -⟩ := NextRec.breaks_eq_false.1 hb
  have hrec := s.record_repeat d x.reach x.frame rec src crc hf
  intro t
  rw [show t = _ from h.streamRecord (b := .rep src crc) hop]
  refine ⟨fun hc hreach ha => ?_, fun hc hsrc => h.failed hb hbody (hrec.trans ((if_pos hc).trans (if_pos hsrc))),
    fun hc => h.failed hb hbody (hrec.trans (if_neg hc))⟩
  have hsrc : ¬ (src.toNat % 32768 / 2048 ≠ x.reach ∨ x.frame ≤ src.toNat % 2048) := by omega
  have hw := s.copyFrames_written ha (s.plane_lt d x.reach) hd hr _ hf
  have hwrote := h.wrote hb hbody (hrec.trans ((if_pos hc).trans (if_neg hsrc))) hw
  refine ⟨fun i hi => (hwrote.1 i hi).trans ?_, hwrote.2⟩
  dsimp only
  split
  · rfl
  · have hframes := (hwrote.1 (src.toNat % 2048 + i - x.frame) (by omega)).trans (hw.wrote _ (by omega)).symm
    rw [show x.frame + (src.toNat % 2048 + i - x.frame) = src.toNat % 2048 + i by omega] at hframes
    exact hframes.symm

/-- LITERAL writes its groups, whose checks hold. -/
theorem RecordDue.literal {groups : List (List Word × Word)} (hop : rec.toNat % 4 = 0)
    (hbody : bodyIn (s.loadRd l) x.at_ rec = .lit groups)
    (hcrc : ∀ i < recCount rec, (groups.getD i ([], 0)).2.toNat = groupCrc d x.reach (x.frame + i) (groups.getD i ([], 0)).1) :
    RecordWrote s (s.streamRecord d rec (.lit groups)) l d rec x (fun i => wordBytes (groups.getD i ([], 0)).1) := by
  obtain ⟨-, hf, -⟩ := NextRec.breaks_eq_false.1 hb
  obtain ⟨hlen, h64⟩ := bodyIn_literal hop hbody
  obtain ⟨u, hu, hw⟩ := s.literals_written (s.plane_lt d x.reach) hd hr groups h64 (by rwa [hlen]) (by rwa [hlen])
  rw [hlen] at hu hw
  rw [h.streamRecord (b := .lit groups) hop]
  exact h.wrote hb hbody ((s.record_literal d x.reach x.frame rec hf hlen h64).trans hu) hw

end

/-- Settles O38: a record that is due by its place, its check and its body, and a section that is due by its CRC and its rules. -/
theorem loadRecordsAndSections : Obligations.LoadRecordsAndSections := by
  intro d l s hl hbad rd
  refine ⟨fun rec sec => ?_,
    fun c x body good l' hrow hnext hbody harr => ?_⟩
  · intro n r f k plane place size hcov hjobs hn hsec hword harr stands l' wrote failed misplaced
    let x : NextRec := ⟨r, f, place, reachEnd rd sec r⟩
    have hx : s.nextRec l d = some x := by
      simp only [State.nextRec]
      rw [if_neg (by omega), hsec]
      simp [x, r, f, n, place, rd]
    have h : RecordDue s l d rec x := ⟨hl, hbad, hcov, hjobs, hx, Nat.div_add_mod' n 1280, hword, harr⟩
    have hr : x.reach < 16 := Nat.div_lt_of_lt_mul hn
    have hstands : x.breaks rec = false ↔ stands := NextRec.breaks_eq_false
    have hb : stands → x.breaks rec = false := hstands.2
    have hmis : ¬ stands → x.breaks rec = true := fun hs => Bool.of_not_eq_false fun hx => hs (hstands.1 hx)
    refine ⟨fun crc hop => ⟨fun hs hbody => ?_, fun hs => h.row rfl hop (hmis hs)⟩,
      fun pattern crc hop => ⟨fun hs hbody => ?_, fun hs => h.row rfl hop (hmis hs)⟩,
      fun src crc hop => ⟨fun hs hbody => ?_, fun hs => h.row rfl hop (hmis hs)⟩,
      fun groups hop => ⟨fun hs hbody hcrc => ⟨_, rfl, h.literal d.isLt hr (hb hs) hop hbody hcrc⟩, fun hs => h.row rfl hop (hmis hs)⟩⟩
    · obtain ⟨hgood, hfault⟩ := h.zero d.isLt hr (hb hs) hop hbody
      exact ⟨fun hc => ⟨_, rfl, hgood hc⟩, fun hc => ⟨_, rfl, hfault hc⟩⟩
    · obtain ⟨hgood, hfault⟩ := h.fill d.isLt hr (hb hs) hop hbody
      exact ⟨fun hc => ⟨_, rfl, hgood hc⟩, fun hc => ⟨_, rfl, hfault hc⟩⟩
    · obtain ⟨hgood, hsrc, hfault⟩ := h.repeat d.isLt hr (hb hs) hop hbody
      exact ⟨fun hc hreach ha => ⟨_, rfl, hgood hc hreach ha⟩, fun hc hbad => ⟨_, rfl, hsrc hc hbad⟩, fun hc => ⟨_, rfl, hfault hc⟩⟩
  · have h : SectionDue s l x body := ⟨hl, hbad, hnext, hbody, harr⟩
    rcases hrow with ⟨mask, first, words, crc, rfl, hcrc, rfl, hgood, rfl⟩ | ⟨pairs, crc, rfl, hcrc, rfl, hgood, rfl⟩ |
      ⟨addr, words, crc, rfl, hcrc, rfl, hgood, rfl⟩
    · exact h.row (congrArg _ (h.sectionRow hcrc)) (by rw [hgood]; simp [State.sectionRules, and_assoc]) rfl
    · exact h.row (congrArg _ (h.sectionRow hcrc)) (by rw [hgood]; simp [State.sectionRules, and_assoc]) rfl
    · exact h.row (congrArg _ (h.sectionRow hcrc)) (by rw [hgood]; simp [State.sectionRules, and_assoc]) rfl

end Sys2Proof.Machine

end

section

/-! PROOFS. A command that reaches its package: what its arrival leaves alone, and that its body runs. -/

namespace Sys2Proof.Machine

/-! ## A command that its package takes (09 R304, R325, R377) -/

/-- The arrival of a command changes the record of its host and its mailbox, and nothing else. -/
theorem State.arrived_eq (s : State) (h : CmdHdr) : ∃ hosts mboxes, s.arrived h = { s with hosts := hosts, mboxes := mboxes } := by
  have hsee : ∃ hosts, s.seeHost h = { s with hosts := hosts } := by
    unfold State.seeHost
    split
    · exact ⟨_, rfl⟩
    · split
      · exact ⟨s.hosts, rfl⟩
      · exact ⟨_, rfl⟩
  obtain ⟨hosts, e⟩ := hsee
  rw [State.arrived, e, State.takeMailbox]
  split
  · exact ⟨_, _, rfl⟩
  · exact ⟨_, _, rfl⟩

section
variable (s : State) (h : CmdHdr)

@[simp] theorem State.arrived_csr : (s.arrived h).csr = s.csr := by obtain ⟨_, _, e⟩ := s.arrived_eq h; rw [e]
@[simp] theorem State.arrived_cmds : (s.arrived h).cmds = s.cmds := by obtain ⟨_, _, e⟩ := s.arrived_eq h; rw [e]
@[simp] theorem State.arrived_serial : (s.arrived h).serial = s.serial := by obtain ⟨_, _, e⟩ := s.arrived_eq h; rw [e]
@[simp] theorem State.arrived_bankQ : (s.arrived h).bankQ = s.bankQ := by obtain ⟨_, _, e⟩ := s.arrived_eq h; rw [e]
@[simp] theorem State.arrived_flash : (s.arrived h).flash = s.flash := by obtain ⟨_, _, e⟩ := s.arrived_eq h; rw [e]
@[simp] theorem State.arrived_flashBad : (s.arrived h).flashBad = s.flashBad := by obtain ⟨_, _, e⟩ := s.arrived_eq h; rw [e]
@[simp] theorem State.arrived_fl : (s.arrived h).fl = s.fl := by obtain ⟨_, _, e⟩ := s.arrived_eq h; rw [e]
@[simp] theorem State.arrived_csrGet (a : Nat) : (s.arrived h).csrGet a = s.csrGet a := by
  unfold State.csrGet; rw [State.arrived_csr]
@[simp] theorem State.arrived_flState : (s.arrived h).flState = s.flState := by
  unfold State.flState State.fget; rw [State.arrived_csrGet]
@[simp] theorem State.arrived_noLogic : (s.arrived h).noLogic = s.noLogic := by obtain ⟨_, _, e⟩ := s.arrived_eq h; rw [e]; rfl
@[simp] theorem State.arrived_dieOn (d : Nat) : (s.arrived h).dieOn d = s.dieOn d := by
  obtain ⟨_, _, e⟩ := s.arrived_eq h; rw [e]; rfl
@[simp] theorem State.arrived_populated (d : Nat) : (s.arrived h).populated d = s.populated d := by
  obtain ⟨_, _, e⟩ := s.arrived_eq h; rw [e]; rfl
@[simp] theorem State.arrived_reachable (a : Nat) : (s.arrived h).reachable a = s.reachable a := by
  obtain ⟨_, _, e⟩ := s.arrived_eq h; rw [e]; rfl
@[simp] theorem State.arrived_needsDie (as : List Nat) : (s.arrived h).needsDie as = s.needsDie as := by
  obtain ⟨_, _, e⟩ := s.arrived_eq h; rw [e]; rfl
@[simp] theorem State.arrived_bankFault (a n : Nat) : (s.arrived h).bankFault a n = s.bankFault a n := by
  obtain ⟨_, _, e⟩ := s.arrived_eq h; rw [e]; rfl
@[simp] theorem State.arrived_frameHere (a : Nat) : (s.arrived h).frameHere a = s.frameHere a := by
  obtain ⟨_, _, e⟩ := s.arrived_eq h; rw [e]; rfl
@[simp] theorem State.arrived_plane (d r : Nat) : (s.arrived h).plane d r = s.plane d r := by
  obtain ⟨_, _, e⟩ := s.arrived_eq h; rw [e]; rfl
@[simp] theorem State.arrived_frame (p d r f : Nat) : (s.arrived h).frame p d r f = s.frame p d r f := by
  obtain ⟨_, _, e⟩ := s.arrived_eq h; rw [e]; rfl
@[simp] theorem State.arrived_protLevel : (s.arrived h).protLevel = s.protLevel := by
  obtain ⟨_, _, e⟩ := s.arrived_eq h; rw [e]; rfl
@[simp] theorem State.arrived_optRecord : (s.arrived h).optRecord = s.optRecord := by
  obtain ⟨_, _, e⟩ := s.arrived_eq h; rw [e]; rfl
@[simp] theorem State.arrived_flWord : (s.arrived h).flWord = s.flWord := by
  obtain ⟨_, _, e⟩ := s.arrived_eq h; rw [e]; rfl
@[simp] theorem State.arrived_bootCurrent : (s.arrived h).bootCurrent = s.bootCurrent := by
  unfold State.bootCurrent State.bootWord; rw [State.arrived_flWord]
@[simp] theorem State.arrived_bootBytes : (s.arrived h).bootBytes = s.bootBytes := by
  unfold State.bootBytes State.bootPrimary State.bootTrial State.bootCancelled State.bootStarts State.bootWord
  rw [State.arrived_bootCurrent, State.arrived_flWord]
@[simp] theorem State.arrived_tableWords : (s.arrived h).tableWords = s.tableWords := by
  unfold State.tableWords; rw [State.arrived_flWord]
@[simp] theorem State.arrived_tableByte : (s.arrived h).tableByte = s.tableByte := by
  unfold State.tableByte State.factoryTable State.fieldTable; rw [State.arrived_tableWords]
@[simp] theorem State.arrived_optionByte (o : Nat) : (s.arrived h).optionByte o = s.optionByte o := by
  simp only [State.optionByte, State.arrived_optRecord, State.arrived_protLevel, State.arrived_bootBytes, State.arrived_tableByte]
@[simp] theorem State.arrived_levelReads (o : Nat) : (s.arrived h).levelReads o = s.levelReads o := by
  simp only [State.levelReads, State.arrived_protLevel]
@[simp] theorem State.arrived_ownAddr : (s.arrived h).ownAddr = s.ownAddr := by obtain ⟨_, _, e⟩ := s.arrived_eq h; rw [e]; rfl

end

/-- A command that its package takes runs its body. -/
theorem State.Takes.command {s : State} {h : CmdHdr} {op need : Nat} {g : Gate} (ht : s.Takes h op need g) {gate : State → Gate}
    (hg : gate (s.arrived h) = g) (body : State → State) :
    s.command h op need gate (fun _ => false) body = body (s.arrived h) := by
  obtain ⟨⟨hserves, hchain, hbcast⟩, hheader, hrefusal, hneed⟩ := ht
  have helse : (s.arrived h).elsewhere h = false := by simp [State.elsewhere, hchain]
  have hcast : (s.arrived h).broadcast h op = s.arrived h := by simp [State.broadcast, hbcast]
  rw [State.command, State.arrive, if_neg (by simp [hserves])]
  show (match (s.arrived h).headerFault h with | some st => _ | none => _) = _
  simp only [hheader, helse, hcast, Bool.false_eq_true, if_false, ite_self, hg, hrefusal]
  exact if_neg (Nat.not_lt.2 hneed)

end Sys2Proof.Machine

end

section

/-! PROOFS. The commands that read and write registers, banks, frames, flash and options (O43). -/

namespace Sys2Proof.Machine

/-! ## Registers (R311) -/

/-- Words whose reads change nothing are read in order. -/
theorem State.readWords_quiet {s : State} {who : HostId} {as : List Nat} (hr : ∀ x ∈ as, s.reachable x = true)
    (hq : ∀ x ∈ as, (s.msgRead who x).2 = s) : s.readWords who as = (as.map (fun x => (s.msgRead who x).1), true, s) := by
  induction as with
  | nil => rfl
  | cons x as ih =>
    have ih := ih (fun y hy => hr y (List.mem_cons_of_mem _ hy)) (fun y hy => hq y (List.mem_cons_of_mem _ hy))
    simp [State.readWords, hq x List.mem_cons_self, hr x List.mem_cons_self, ih]

/-! ## Banks (R312) -/

theorem zipIdx_map_range {α : Type} (n : Nat) (g : Nat → α) :
    ((List.range n).map g).zipIdx = (List.range n).map (fun i => (g i, i)) :=
  List.ext_getElem (by simp) (fun i _ _ => by simp)

/-- From `s` to `t`, the Steward asked for the words from `w` of one bank, in their order. -/
structure WordsAsked (s t : State) (h : CmdHdr) (d b w n : Nat) (what : Nat → BankOp) : Prop where
  serial : t.serial = s.serial + n
  queue : SMap.get [] t.bankQ (bankQKey d b 2) = SMap.get [] s.bankQ (bankQKey d b 2) ++
    (List.range n).map (fun i => ⟨s.serial + i, .steward h i, stw, 0, w + i, none, what i⟩)
  others : ∀ j ≠ bankQKey d b 2, SMap.get [] t.bankQ j = SMap.get [] s.bankQ j
  rest : t = { s with bankQ := t.bankQ, serial := t.serial }

theorem WordsAsked.snoc {s u : State} {h : CmdHdr} {d b w n : Nat} {what : Nat → BankOp} (ha : WordsAsked s u h d b w n what) :
    WordsAsked s (u.askDma d b (w + n) (.steward h n) (what n)) h d b w (n + 1) what := by
  obtain ⟨hserial, hqueue, hothers, hrest⟩ := ha
  refine ⟨?_, ?_, fun j hj => ?_, ?_⟩
  · show u.serial + 1 = _
    rw [hserial]; rfl
  · simp only [State.askDma, SMap.get_set_same, hqueue, hserial, List.range_succ, List.map_append, List.append_assoc, List.map_cons,
      List.map_nil]
  · rw [← hothers j hj]; exact SMap.get_set_ne _ _ _ _ hj
  · rw [hrest]; rfl

theorem State.askDmas_asked (s : State) (h : CmdHdr) (d b w n : Nat) (what : Nat → BankOp) :
    WordsAsked s ((List.range n).foldl (fun s i => s.askDma d b (w + i) (.steward h i) (what i)) s) h d b w n what := by
  induction n with
  | zero => exact ⟨rfl, (List.append_nil _).symm, fun _ _ => rfl, rfl⟩
  | succ n ih =>
    rw [List.range_succ, List.foldl_append]
    exact ih.snoc

theorem State.askWords_asked (s : State) (h : CmdHdr) (op d b w n : Nat) {at_ : Nat → Nat} (what : Nat → BankOp)
    (hat : ∀ i < n, bankPlace (at_ i) = (d, b, w + i)) :
    WordsAsked (s.await h op (.bank n [])) (s.askWords h op ((List.range n).map (fun i => (at_ i, what i)))) h d b w n what := by
  have e : s.askWords h op ((List.range n).map (fun i => (at_ i, what i))) =
      (List.range n).foldl (fun s i => s.askDma d b (w + i) (.steward h i) (what i)) (s.await h op (.bank n [])) := by
    rw [State.askWords, zipIdx_map_range, List.length_map, List.length_range, List.foldl_map]
    exact List.foldl_ext _ _ _ fun s i hi => by simp only [hat i (List.mem_range.1 hi)]
  rw [e]
  exact State.askDmas_asked _ h d b w n what

/-- The words of a bank command that stays in one bank. -/
theorem bankPlace_run {a n : Nat} (h4 : a / 2 ^ 26 = 4) (h8 : a % 8 = 0) (hn : a % 2 ^ 17 / 8 + n ≤ 16384) {i : Nat} (hi : i < n) :
    (a + 8 * i) % 2 ^ 32 / 2 ^ 26 = 4 ∧
      bankPlace ((a + 8 * i) % 2 ^ 32) = (a / 2 ^ 23 % 8, a / 2 ^ 17 % 64, a % 2 ^ 17 / 8 + i) := by
  unfold bankPlace
  simp only [Prod.mk.injEq]
  omega

/-- A bank command whose words lie in one bank of a populated die. -/
structure BankRun (s : State) (a len : Nat) : Prop where
  space : a / 2 ^ 26 = 4
  aligned : a % 8 = 0
  words : len % 8 = 0
  least : 8 ≤ len
  most : len ≤ 4096
  there : s.populated (a / 2 ^ 23 % 8) = true
  bank : a / 2 ^ 17 % 64 < 48
  room : a % 2 ^ 17 / 8 + len / 8 ≤ 16384

theorem BankRun.bankFault {s : State} {a len : Nat} (h : BankRun s a len) :
    s.bankFault a len = if s.noLogic = true ∨ s.dieOn (a / 2 ^ 23 % 8) = false then some St.notPresent else none := by
  have hrun := fun i hi => bankPlace_run (i := i) h.space h.aligned h.room hi
  have hhere : ∀ i < len / 8, s.bankHere ((a + 8 * i) % 2 ^ 32) = true := fun i hi => by
    obtain ⟨h4, hp⟩ := hrun i hi
    simp only [State.bankHere, h4, hp, h.there, h.bank, BEq.rfl, decide_true, Bool.and_true]
  have hargs : (decide (a % 8 ≠ 0) || decide (len % 8 ≠ 0) || len == 0 || decide (4096 < len) ||
      (bankAddrs a len).any (fun x => !s.bankHere x)) = false := by
    have := h.aligned; have := h.words; have := h.least; have := h.most
    simp only [bankAddrs, List.any_map, Bool.or_eq_false_iff, List.any_eq_false, List.mem_range, Function.comp_apply,
      decide_eq_false_iff_not, beq_eq_false_iff_ne]
    exact ⟨⟨⟨⟨by omega, by omega⟩, by omega⟩, by omega⟩, fun i hi => by simp only [hhere i hi, Bool.not_true, Bool.false_eq_true, not_false_eq_true]⟩
  have hdies : (bankAddrs a len).any (fun x => !s.dieOn (bankPlace x).1) = !s.dieOn (a / 2 ^ 23 % 8) := by
    have h0 := h.least
    rw [Bool.eq_iff_iff]
    simp only [bankAddrs, List.any_map, List.any_eq_true, List.mem_range, Function.comp_apply]
    constructor
    · rintro ⟨i, hi, hd⟩; rwa [(hrun i hi).2] at hd
    · exact fun hd => ⟨0, by omega, by rwa [(hrun 0 (by omega)).2]⟩
  rw [State.bankFault]
  simp only [hargs, hdies, Bool.false_eq_true, if_false, Bool.or_eq_true, Bool.not_eq_true']

/-- A bank command that is not of whole words, or of none, or of too many. -/
theorem State.bankFault_length {s : State} {a len : Nat} (h : a % 8 ≠ 0 ∨ len % 8 ≠ 0 ∨ len = 0 ∨ 4096 < len) :
    s.bankFault a len = some St.badArgument := by
  rw [State.bankFault, if_pos]
  simp only [Bool.or_eq_true, decide_eq_true_eq, beq_iff_eq]
  tauto

theorem bankAddrs_zip (a len : Nat) (what : Nat → BankOp) :
    (bankAddrs a len).zip ((List.range (len / 8)).map what) = (List.range (len / 8)).map (fun i => ((a + 8 * i) % 2 ^ 32, what i)) := by
  rw [bankAddrs, List.zip_map']

/-- A bank command whose words have all been served is answered. -/
theorem State.bankAnswer_bank (s : State) {c : Cmd} {n : Nat} {got : List BankGot} (h : c.work = .bank n got) :
    s.bankAnswer c = if got.length < n then s else s.finishCmd c (bankStatus (bankOrder n got))
      (if c.op = 0x0103 then (bankOrder n got).flatMap (fun x => leBytes 8 x.data.toNat) else []) := by
  simp only [State.bankAnswer, h, beq_iff_eq]

/-! ## Flash (R352; 10 R339, R347) -/

/-- A counter that counts nothing keeps its register. -/
theorem Fld.satAdd_zero {n : Nat} (f : Fld) (w : BitVec n) : f.satAdd w 0 = w := by
  have hmin : min (f.get w + 0) (2 ^ f.width - 1) = f.get w := by have := f.get_lt w; omega
  refine BitVec.eq_of_getLsbD_eq fun i hi => ?_
  rw [Fld.satAdd, hmin]
  by_cases hf : f.lo ≤ i ∧ i < f.lo + f.width
  · rw [Fld.put, BitVec.getLsbD_ofNat, Fld.inNat_testBit, if_pos hf, Fld.get, Fld.ofNat_testBit, Nat.add_sub_cancel' hf.1,
      BitVec.testBit_toNat, decide_eq_true hi, decide_eq_true (by omega : i - f.lo < f.width), Bool.true_and, Bool.true_and]
  · exact f.put_bit_apart w _ i (by omega)

/-- From `s` to `u` every register reads as before, and nothing but the way that registers are kept may differ. -/
def Quiet (s u : State) : Prop := (∀ x, u.csrGet x = s.csrGet x) ∧ u = { s with csr := u.csr }

theorem Quiet.trans {s u v : State} (h : Quiet s u) (h' : Quiet u v) : Quiet s v :=
  ⟨fun x => (h'.1 x).trans (h.1 x), by rw [h'.2, h.2]⟩

theorem State.count_zero_quiet (s : State) (a : Nat) (f : Fld) : Quiet s (s.count a f 0) := by
  refine ⟨fun x => ?_, rfl⟩
  by_cases hx : x = a
  · rw [hx, State.csrGet_count_same, Fld.satAdd_zero]
  · exact s.csrGet_count_ne f 0 hx

/-- No erase runs or is suspended, and every word of the flash has a right bit count. -/
structure State.FlashRests (s : State) : Prop where
  bad : s.flashBad = []
  op : s.fl.op = none
  susp : s.fl.susp = none
  idle : s.flState = Fs.idle

theorem Quiet.flashRests {s u : State} (h : Quiet s u) (hs : s.FlashRests) : u.FlashRests := by
  obtain ⟨hcsr, hrest⟩ := h
  have hst : u.flState = s.flState := by unfold State.flState State.fget; rw [hcsr]
  exact ⟨by rw [hrest]; exact hs.bad, by rw [hrest]; exact hs.op, by rw [hrest]; exact hs.susp, hst.trans hs.idle⟩

theorem State.FlashRests.lineRead {s : State} (hs : s.FlashRests) (line req : Nat) :
    (s.lineRead line req).1 = false ∧ Quiet s (s.lineRead line req).2 := by
  have herase : s.underErase (line / 128) = false := by
    simp [State.underErase, State.erasing, hs.op, hs.susp, hs.idle, Fs.idle, Fs.rdpLower]
  have hline : s.lineBad line = (0, false) := by
    unfold State.lineBad; rw [hs.bad]; split <;> rfl
  have hthr : ¬ (s.count Csr.flCorrCnt FlCorrCnt.bits 0).ewThr ≤ 0 := by unfold State.ewThr; omega
  have e : s.lineRead line req = (false, s.count Csr.flCorrCnt FlCorrCnt.bits 0) := by
    simp only [State.lineRead, herase, hline, if_neg hthr, Bool.false_eq_true, if_false, Bool.not_false, if_true]
  rw [e]
  exact ⟨rfl, s.count_zero_quiet _ _⟩

theorem State.FlashRests.linesRead {s : State} (hs : s.FlashRests) (lines : List Nat) :
    let r := lines.foldl (fun (x : Bool × State) l => (x.1 || (x.2.lineRead l 1).1, (x.2.lineRead l 1).2)) (false, s)
    r.1 = false ∧ Quiet s r.2 := by
  induction lines generalizing s with
  | nil => exact ⟨rfl, fun _ => rfl, rfl⟩
  | cons l lines ih =>
    obtain ⟨hp, hq⟩ := hs.lineRead l 1
    obtain ⟨hp', hq'⟩ := ih (hq.flashRests hs)
    rw [List.foldl_cons, hp]
    exact ⟨hp', hq.trans hq'⟩

/-- The Steward reads bytes of a flash at rest: as they stand, and no register changes. -/
theorem State.FlashRests.stewardRead {s : State} (hs : s.FlashRests) (a n : Nat) :
    ∃ u, s.stewardRead a n = (s.flBytes a n, false, u) ∧ Quiet s u := by
  have hsusp : (if (n == 0) = true then s else s.readSuspends) = s := by
    simp [State.readSuspends, hs.idle, Fs.idle, Fs.erase]
  obtain ⟨hp, hq⟩ := hs.linesRead (if (n == 0) = true then [] else List.range' (a / 32) ((a + n - 1) / 32 - a / 32 + 1))
  refine ⟨_, ?_, hq⟩
  rw [State.stewardRead]
  simp only [hsusp, Prod.mk.injEq, true_and, and_true]
  exact hp

/-! ## Registers that a read of the flash and a response leave alone -/

theorem OnlyRegs.trans {s t u : State} {as : List Nat} (h : OnlyRegs s t as) (h' : OnlyRegs t u as) : OnlyRegs s u as :=
  fun a ha => (h' a ha).trans (h a ha)

theorem OnlyRegs.mono {s t : State} {as bs : List Nat} (h : OnlyRegs s t as) (hs : as ⊆ bs) : OnlyRegs s t bs :=
  fun a ha => h a fun hm => ha (hs hm)

theorem OnlyRegs.of_csr {s t : State} (h : t.csr = s.csr) (as : List Nat) : OnlyRegs s t as := fun a _ => by
  unfold State.csrGet; rw [h]

theorem State.notice_onlyRegs (s : State) (d code : Nat) (fs : List (Nat × Nat)) :
    OnlyRegs s (s.notice d code fs) [Csr.ndQdropCnt (queueOf d)] := by
  rw [State.notice]
  dsimp only
  split
  · exact .csrSet _ _ _
  · exact .of_csr rfl _

theorem State.noticeLim_onlyRegs (s : State) (d code scope : Nat) (fs : List (Nat × Nat)) :
    OnlyRegs s (s.noticeLim d code scope fs) [Csr.ndQdropCnt (queueOf d)] := by
  rw [State.noticeLim]
  split
  · exact .of_csr rfl _
  · exact .trans (.of_csr rfl _) (State.notice_onlyRegs _ _ _ _)

/-- The registers that the read of a line may change (10 R339). -/
def lineReadRegs : List Nat := [Csr.flCorrCnt, Csr.flEwCnt, Csr.flEccLog, Csr.ndQdropCnt (queueOf stw)]

theorem State.lineRead_onlyRegs (s : State) (line req : Nat) : OnlyRegs s (s.lineRead line req).2 lineReadRegs := by
  have hcount : ∀ (s : State) (a : Nat) (f : Fld) (k : Nat), a ∈ lineReadRegs → OnlyRegs s (s.count a f k) lineReadRegs :=
    fun s a f k ha => (OnlyRegs.csrSet s a _).mono (List.cons_subset.2 ⟨ha, List.nil_subset _⟩)
  have hnotice : ∀ (s : State) (code scope : Nat) (fs : List (Nat × Nat)),
      OnlyRegs s (s.noticeLim stw code scope fs) lineReadRegs :=
    fun s code scope fs => (s.noticeLim_onlyRegs _ _ _ _).mono (by simp [lineReadRegs])
  rw [State.lineRead]
  dsimp only
  split
  · exact .of_csr rfl _
  · generalize hc : s.count Csr.flCorrCnt FlCorrCnt.bits (s.lineBad line).1 = u
    have hu : OnlyRegs s u lineReadRegs := hc ▸ hcount s _ _ _ (by simp [lineReadRegs])
    generalize hv : (if u.ewThr ≤ (s.lineBad line).1 then _ else u) = v
    have hv' : OnlyRegs u v lineReadRegs := by
      rw [← hv]
      split
      · exact (hcount u _ _ _ (by simp [lineReadRegs])).trans (hnotice _ _ _ _)
      · exact .of_csr rfl _
    split
    · exact hu.trans hv'
    · refine (hu.trans hv').trans (((hcount v Csr.flEwCnt FlEwCnt.uncorr 1 (by simp [lineReadRegs])).trans ?_).trans (hnotice _ _ _ _))
      split
      · exact .of_csr rfl _
      · exact (OnlyRegs.csrSet _ _ _).mono (by simp [lineReadRegs])

theorem State.linesRead_onlyRegs (s : State) (p : Bool) (lines : List Nat) :
    OnlyRegs s (lines.foldl (fun (x : Bool × State) l => (x.1 || (x.2.lineRead l 1).1, (x.2.lineRead l 1).2)) (p, s)).2 lineReadRegs := by
  induction lines generalizing s p with
  | nil => exact .of_csr rfl _
  | cons l lines ih => exact (s.lineRead_onlyRegs l 1).trans (ih _ _)

/-- Reading the flash while it is in state ERASE suspends the erase (R347). -/
theorem State.stewardRead_suspends {s : State} (hs : s.flState = Fs.erase) (a : Nat) {n : Nat} (hn : n ≠ 0) :
    (s.stewardRead a n).2.2.fget Csr.flSts FlSts.autosusp = 1 := by
  have hsusp : (if (n == 0) = true then s else s.readSuspends) = s.flag Csr.flSts FlSts.autosusp := by
    rw [if_neg (by simpa using hn), State.readSuspends, if_pos (by rw [hs]; rfl)]
  rw [State.stewardRead]
  simp only [hsusp]
  rw [State.fget, State.linesRead_onlyRegs _ _ _ _ (by decide)]
  have e := State.fget_fset_same s Csr.flSts FlSts.autosusp 1 (by decide)
  rw [State.fget] at e
  rw [State.flag, e]
  rfl

theorem State.towDrain_csr (s : State) (out : Bool) (n : Nat) : (s.towDrain out n).csr = s.csr := by
  induction n generalizing s with
  | zero => rfl
  | succ n ih =>
    rw [State.towDrain]
    dsimp only
    split
    · rfl
    · split
      · rfl
      · exact ih _

@[simp] theorem State.towHome_csr (s : State) (ty : Nat) (body : List Nat) : (s.towHome ty body).csr = s.csr := by
  rw [State.towHome, State.towSend, State.towSendFrom]
  split
  · rfl
  · exact State.towDrain_csr _ _ _

@[simp] theorem State.msix_csr (s : State) (v : Nat) : (s.msix v).csr = s.csr := by
  rw [State.msix]
  split
  · rfl
  · split <;> rfl

/-- A response changes no register but the status of the mailbox that carried its command. -/
theorem State.respond_csrGet (s : State) (h : CmdHdr) (op st : Nat) (bs : List (BitVec 8)) {a : Nat} (ha : ∀ k, a ≠ Csr.mbSts k) :
    (s.respond h op st bs).csrGet a = s.csrGet a := by
  rw [State.respond, State.respondFrom]
  dsimp only
  split
  · next k _ =>
    split
    · rfl
    · rw [OnlyRegs.of_csr ((State.msix_csr _ 0).trans (State.emit_csr _ _)) [] a (by simp), State.csrGet_fset_ne _ _ _ (ha k),
        State.csrGet_fset_ne _ _ _ (ha k)]
      rfl
  · rw [OnlyRegs.of_csr (State.towHome_csr _ _ _) [] a (by simp)]
    rfl
  · rfl

/-! ## The commands -/

section
variable {s : State} {h : CmdHdr}

theorem State.Takes.csrRead {addr : Word} {n : BitVec 16} (ht : s.Takes h 0x0101 6 (rawGate addr.toNat n.toNat)) :
    let a := s.arrived h
    let as := wordsFrom addr.toNat n.toNat
    ((n.toNat = 0 ∨ 256 < n.toNat) → Completes (.csrRead h addr n) s fun t => t = a.respond h 0x0101 St.badArgument []) ∧
      (1 ≤ n.toNat → n.toNat ≤ 256 → s.needsDie as = false → (∀ x ∈ as, s.reachable x = true) →
        (∀ x ∈ as, (a.msgRead h.host x).2 = a) → Completes (.csrRead h addr n) s fun t =>
          t = a.respond h 0x0101 St.ok (wordBytes (as.map (fun x => (a.msgRead h.host x).1)))) := by
  refine ⟨fun hn => ⟨_, rfl, ?_⟩, fun h1 h2 hneeds hreach hquiet => ⟨_, rfl, ?_⟩⟩
  · rw [doCsrRead, opCsrRead, ht.command rfl]
    exact if_pos (by simpa using hn)
  · have hread := State.readWords_quiet (s := s.arrived h) (fun x hx => (s.arrived_reachable h x).trans (hreach x hx)) hquiet
    have hn : ¬ ((n.toNat == 0 || decide (256 < n.toNat)) = true) := by
      simp only [Bool.or_eq_true, beq_iff_eq, decide_eq_true_eq]; omega
    rw [doCsrRead, opCsrRead, ht.command rfl]
    simp only [if_neg hn, State.arrived_needsDie, hneeds, hread, Bool.false_eq_true, if_false, if_true]

theorem State.Takes.csrWrite {addr v : Word} (ht : s.Takes h 0x0102 8 (rawGate addr.toNat 1)) (hlen : h.length = 12)
    (hneeds : s.needsDie [wordAddr addr.toNat] = false) (hreach : s.reachable (wordAddr addr.toNat) = true) :
    Completes (.csrWrite h addr [v] 1) s fun t =>
      t = ((s.arrived h).msgWrite h.host (wordAddr addr.toNat) v).respond h 0x0102 St.ok [] := by
  refine ⟨_, rfl, ?_⟩
  have hone : wordsFrom addr.toNat 1 = [wordAddr addr.toNat] := by
    simp [wordsFrom, Nat.mod_eq_of_lt addr.isLt]
  rw [doCsrWrite, opCsrWrite, show BitVec.toNat (1 : BitVec 16) = 1 from rfl, ht.command rfl]
  simp [hone, hlen, hneeds, hreach, State.writeWords]

theorem State.Takes.bankRead_fault {addr : Word} {len : BitVec 16} (ht : s.Takes h 0x0103 6 Gate.open_) {st : Nat}
    (hf : s.bankFault addr.toNat len.toNat = some st) :
    Completes (.bankRead h addr len) s fun t => t = (s.arrived h).respond h 0x0103 st [] := by
  refine ⟨_, rfl, ?_⟩
  rw [doBankRead, opBankRead, ht.command rfl]
  simp only [State.arrived_bankFault, hf]

theorem State.Takes.bankRead {addr : Word} {len : BitVec 16} (ht : s.Takes h 0x0103 6 Gate.open_)
    (hf : s.bankFault addr.toNat len.toNat = none) :
    Completes (.bankRead h addr len) s fun t => t = (s.arrived h).askWords h 0x0103
      ((List.range (len.toNat / 8)).map (fun i => ((addr.toNat + 8 * i) % 2 ^ 32, BankOp.read))) := by
  refine ⟨_, rfl, ?_⟩
  rw [doBankRead, opBankRead, ht.command rfl]
  simp only [State.arrived_bankFault, hf, bankAddrs, List.map_map, Function.comp_def]

theorem State.Takes.bankWrite {addr : Word} {len : BitVec 16} {data : List (BitVec 64)} (ht : s.Takes h 0x0104 8 Gate.open_)
    (hlen : h.length = 8 + len.toNat) (h8 : len.toNat % 8 = 0) (hdata : data.length = len.toNat / 8)
    (hf : s.bankFault addr.toNat len.toNat = none) :
    Completes (.bankWrite h addr len data) s fun t => t = (s.arrived h).askWords h 0x0104 ((List.range (len.toNat / 8)).map
      (fun i => ((addr.toNat + 8 * i) % 2 ^ 32, BankOp.write 0xFF (data.getD i 0) false))) := by
  have hwords : data.map (fun v => BankOp.write 0xFF v false) =
      (List.range (len.toNat / 8)).map (fun i => BankOp.write 0xFF (data.getD i 0) false) :=
    List.ext_getElem (by simp [hdata]) (fun i hi _ => by
      rw [List.length_map] at hi
      simp [List.getElem?_eq_getElem hi])
  have hn : ¬ ((decide (h.length ≠ 8 + len.toNat) || decide (8 * data.length ≠ len.toNat)) = true) := by
    simp only [Bool.or_eq_true, decide_eq_true_eq]; omega
  refine ⟨_, rfl, ?_⟩
  rw [doBankWrite, opBankWrite, ht.command rfl, if_neg hn, hwords]
  simp only [State.arrived_bankFault, hf, bankAddrs_zip]

theorem State.Takes.frameRead {addr : Word} {n : BitVec 16} (ht : s.Takes h 0x0105 6 (Gate.needs Right.readback)) :
    let a := s.arrived h
    let as := (List.range n.toNat).map (fun i => addr.toNat + i)
    let there : Prop := 1 ≤ n.toNat ∧ n.toNat ≤ 16 ∧ ∀ x ∈ as, s.frameHere x = true
    (there → s.noLogic = false → (∀ x ∈ as, s.dieOn (x / 2 ^ 15) = true) → Completes (.frameRead h addr n) s fun t =>
      t = a.respond h 0x0105 St.ok (as.flatMap (fun x =>
        s.frame (s.plane (x / 2 ^ 15) (x / 2 ^ 11 % 16)) (x / 2 ^ 15) (x / 2 ^ 11 % 16) (x % 2 ^ 11)))) ∧
      (¬ there → Completes (.frameRead h addr n) s fun t => t = a.respond h 0x0105 St.badArgument []) := by
  intro a as there
  have hargs : (n.toNat == 0 || decide (16 < n.toNat) || as.any (fun x => !s.frameHere x)) = true ↔ ¬ there := by
    simp only [there, Bool.or_eq_true, beq_iff_eq, decide_eq_true_eq, List.any_eq_true, Bool.not_eq_true', not_and_or, not_forall,
      exists_prop, Bool.not_eq_true, or_assoc, not_le, Nat.lt_one_iff]
  refine ⟨fun hthere hlogic hon => ⟨_, rfl, ?_⟩, fun hthere => ⟨_, rfl, ?_⟩⟩
  · have hoff : as.any (fun x => !s.dieOn (x / 2 ^ 15)) = false := by simpa using hon
    rw [doFrameRead, opFrameRead, ht.command rfl]
    simp only [State.arrived_frameHere, State.arrived_noLogic, State.arrived_dieOn, State.arrived_frame, State.arrived_plane]
    rw [if_neg (fun hc => hargs.1 hc hthere), if_neg (by rw [hlogic, hoff]; simp)]
  · rw [doFrameRead, opFrameRead, ht.command rfl]
    simp only [State.arrived_frameHere]
    exact if_pos (hargs.2 hthere)

/-- A flash read whose bytes lie in the array, from a word on. -/
def FlashRange (off len : Nat) : Prop := off % 4 = 0 ∧ 4 ≤ len ∧ len ≤ 4096 ∧ off + len ≤ flashSize

theorem flashRange_iff (off len : Nat) : FlashRange off len ↔
    ¬ ((decide (off % 4 ≠ 0) || decide (len < 4) || decide (4096 < len) || decide (flashSize < off + len)) = true) := by
  simp only [FlashRange, Bool.or_eq_true, decide_eq_true_eq, not_or, ne_eq, not_not, not_lt, and_assoc]

section
variable {off : Word} {len : BitVec 16} (ht : s.Takes h 0x0106 6 { Gate.needs Right.flread with level := s.levelReads off.toNat })
include ht

theorem State.Takes.flashRead_range (hr : FlashRange off.toNat len.toNat) : Completes (.flashRead h off len) s fun t =>
    t = ((s.arrived h).stewardRead off.toNat len.toNat).2.2.respond h 0x0106
      (if ((s.arrived h).stewardRead off.toNat len.toNat).2.1 = true then St.integrityFail else St.ok)
      ((s.arrived h).stewardRead off.toNat len.toNat).1 := by
  refine ⟨_, rfl, ?_⟩
  rw [doFlashRead, opFlashRead, ht.command (by rw [State.arrived_levelReads]), if_neg ((flashRange_iff _ _).1 hr)]

theorem State.Takes.flashRead_outside (hr : ¬ FlashRange off.toNat len.toNat) : Completes (.flashRead h off len) s fun t =>
    t = (s.arrived h).respond h 0x0106 St.badArgument [] := by
  refine ⟨_, rfl, ?_⟩
  rw [doFlashRead, opFlashRead, ht.command (by rw [State.arrived_levelReads])]
  exact if_pos (by rwa [flashRange_iff, not_not] at hr)

end

theorem State.Takes.optionRead {off : Word} {len : BitVec 16} (ht : s.Takes h 0x0206 6 Gate.open_) (hl : s.protLevel < 2) :
    let a := s.arrived h
    let os := (List.range len.toNat).map (fun i => off.toNat + i)
    let there : Prop := len.toNat ≤ 4096 ∧ ∀ o ∈ os, o ≤ 0x100 ∨ (0x200 ≤ o ∧ o ≤ 0x207) ∨ (0x1000 ≤ o ∧ o ≤ 0x1FFF)
    (there → Completes (.optionRead h off len) s fun t => t = a.respond h 0x0206 St.ok (os.map s.optionByte)) ∧
      (¬ there → Completes (.optionRead h off len) s fun t => t = a.respond h 0x0206 St.badArgument []) := by
  intro a os there
  have hgate : ({ Gate.open_ with level := !(decide (2 ≤ (s.arrived h).protLevel) && decide (off.toNat < 0x100) &&
      decide (0 < len.toNat)) } : Gate) = Gate.open_ := by
    rw [State.arrived_protLevel, decide_eq_false (by omega : ¬ 2 ≤ s.protLevel)]; rfl
  have hargs : (decide (4096 < len.toNat) || os.any (fun o => !optionHere o)) = true ↔ ¬ there := by
    simp only [there, optionHere, Bool.or_eq_true, decide_eq_true_eq, List.any_eq_true, Bool.not_eq_true', not_and_or, not_forall,
      exists_prop, not_le, Bool.or_eq_false_iff, Bool.and_eq_false_iff, decide_eq_false_iff_not, not_or, and_assoc]
  refine ⟨fun hthere => ⟨_, rfl, ?_⟩, fun hthere => ⟨_, rfl, ?_⟩⟩
  · rw [doOptionRead, opOptionRead, ht.command hgate, if_neg (fun hc => hargs.1 hc hthere)]
    exact congrArg _ (List.map_congr_left fun o _ => s.arrived_optionByte h o)
  · rw [doOptionRead, opOptionRead, ht.command hgate]
    exact if_pos (hargs.2 hthere)

end

/-- Settles O43: each command is the body that its package runs, by the clauses of that body. -/
theorem hostReadsAndWrites : Obligations.HostReadsAndWrites := by
  intro h s a
  refine ⟨fun addr n => State.Takes.csrRead, fun addr v ht hlen => ht.csrWrite hlen, ?_, ?_,
    fun addr n ht => ht.frameRead, ?_, fun off len ht hl => ht.optionRead hl⟩
  · intro addr len d b w n good up k asks
    have hrun : good → BankRun s addr.toNat len.toNat := fun ⟨h1, h2, h3, h4, h5, h6, h7, h8⟩ => ⟨h1, h2, h3, h4, h5, h6, h7, h8⟩
    have hup : good → up → s.bankFault addr.toNat len.toNat = none := fun hg ⟨hlogic, hon⟩ => by
      rw [(hrun hg).bankFault, hlogic, show s.dieOn (addr.toNat / 2 ^ 23 % 8) = true from hon]; rfl
    have hasks : good → ∀ (op : Nat) (what : Nat → BankOp),
        asks (a.askWords h op ((List.range n).map (fun i => ((addr.toNat + 8 * i) % 2 ^ 32, what i)))) op what := fun hg op what => by
      obtain ⟨hserial, hqueue, hothers, hrest⟩ := a.askWords_asked h op d b w n what
        (fun i hi => (bankPlace_run (hrun hg).space (hrun hg).aligned (hrun hg).room hi).2)
      refine ⟨?_, hserial.trans (congrArg (· + n) (s.arrived_serial h)), ?_, fun j hj => ?_, ?_⟩
      · rw [hrest, ← s.arrived_cmds h]; rfl
      · rw [hqueue, ← s.arrived_bankQ h, ← s.arrived_serial h]; rfl
      · rw [hothers j hj, ← s.arrived_bankQ h]; rfl
      · rw [hrest]; rfl
    refine ⟨fun ht => ⟨fun hg hu => ?_, fun hg hl => ?_, fun hbad => ht.bankRead_fault (State.bankFault_length hbad)⟩,
      fun data ht hg hu hlen hdata => ?_⟩
    · obtain ⟨t, hexec, rfl⟩ := ht.bankRead (hup hg hu)
      exact ⟨_, hexec, hasks hg _ _⟩
    · exact ht.bankRead_fault ((hrun hg).bankFault.trans (if_pos (Or.inl hl)))
    · obtain ⟨t, hexec, rfl⟩ := ht.bankWrite hlen (hrun hg).words hdata (hup hg hu)
      exact ⟨_, hexec, hasks hg _ _⟩
  · intro c n got hc ws
    rw [s.bankAnswer_bank hc]
    exact ⟨fun hlt => if_pos hlt, fun hge => if_neg (Nat.not_lt.2 hge)⟩
  · intro off len ht there
    refine ⟨fun hr hbad hop hsusp hidle => ?_, fun hr herase => ?_, ht.flashRead_outside⟩
    · obtain ⟨t, hexec, rfl⟩ := ht.flashRead_range hr
      have hrests : a.FlashRests :=
        ⟨(s.arrived_flashBad h).trans hbad, by rw [s.arrived_fl h, hop], by rw [s.arrived_fl h, hsusp], (s.arrived_flState h).trans hidle⟩
      obtain ⟨u, e, hcsr, hrest⟩ := hrests.stewardRead off.toNat len.toNat
      refine ⟨_, hexec, u, ?_, fun x => (hcsr x).trans (s.arrived_csrGet h x), hrest⟩
      rw [e, ← s.arrived_flash h]; rfl
    · obtain ⟨t, hexec, rfl⟩ := ht.flashRead_range hr
      refine ⟨_, hexec, ?_⟩
      obtain ⟨-, h4, -⟩ := hr
      rw [State.fget, State.respond_csrGet _ _ _ _ _ (fun k => by unfold Csr.flSts Csr.mbSts csrAddr; omega)]
      exact State.stewardRead_suspends ((s.arrived_flState h).trans herase) off.toNat (by omega)

end Sys2Proof.Machine

end

section

/-! PROOFS. The flit path's shared rules: header fields, registers, reports, and what it rests on whether a port is up. -/

namespace Sys2Proof.Machine

/-! ## Header fields -/

theorem Msg.g_w_same (m : Msg) (f : Fld) (v : Nat) (h : f.lo + f.width ≤ 512) : (m.w f v).g f = v % 2 ^ f.width :=
  Fld.get_put_same f m.hdr v h

theorem Msg.g_w_apart (m : Msg) (f g : Fld) (v : Nat) (h : f.lo + f.width ≤ g.lo ∨ g.lo + g.width ≤ f.lo) :
    (m.w f v).g g = m.g g :=
  Fld.get_put_apart f g m.hdr v h

@[simp] theorem Msg.w_name (m : Msg) (f : Fld) (v : Nat) : (m.w f v).name = m.name := by cases m; rfl
@[simp] theorem Msg.w_beats (m : Msg) (f : Fld) (v : Nat) : (m.w f v).beats = m.beats := by cases m; rfl
@[simp] theorem Msg.named_name (m : Msg) : m.named.name = m.name := by cases m; rfl
@[simp] theorem Msg.named_beats (m : Msg) : m.named.beats = m.beats := by cases m; rfl

/-- A field of which every bit has a name in Table 03-5 reads as before once the unnamed bits are cleared. -/
theorem Msg.g_named (m : Msg) (f : Fld) (h : ∀ i < f.width, hdrMask.getLsbD (f.lo + i) = true) : m.named.g f = m.g f := by
  refine Nat.eq_of_testBit_eq fun i => ?_
  unfold Msg.named Msg.g Fld.get
  rw [Fld.ofNat_testBit, Fld.ofNat_testBit, BitVec.testBit_toNat, BitVec.testBit_toNat, BitVec.getLsbD_and]
  by_cases hi : i < f.width
  · rw [h i hi, Bool.and_true]
  · simp [hi]

/-! ## Registers -/

theorem State.fget_congr {s t : State} {a : Nat} (h : t.csrGet a = s.csrGet a) (f : Fld) : t.fget a f = s.fget a f := by
  unfold State.fget; rw [h]

theorem State.fget_fset_disjoint (s : State) (a : Nat) (f g : Fld) (v : Nat) (h : f.lo + f.width ≤ g.lo ∨ g.lo + g.width ≤ f.lo) :
    (s.fset a f v).fget a g = s.fget a g :=
  s.fget_fset_apart a f g v h

theorem State.fget_count_same (s : State) (a : Nat) (f : Fld) (k : Nat) (h : f.lo + f.width ≤ 32) :
    (s.count a f k).fget a f = min (s.fget a f + k) (2 ^ f.width - 1) := by
  have hpos := Nat.two_pow_pos f.width
  rw [State.fget, State.csrGet_count_same, Fld.satAdd, Fld.get_put_same f _ _ h, Nat.mod_eq_of_lt (by omega)]
  rfl

theorem State.fget_count_disjoint (s : State) (a : Nat) (f g : Fld) (k : Nat) (h : f.lo + f.width ≤ g.lo ∨ g.lo + g.width ≤ f.lo) :
    (s.count a f k).fget a g = s.fget a g := by
  rw [State.fget, State.csrGet_count_same, Fld.satAdd, Fld.get_put_apart f g _ _ h]
  rfl

theorem State.fget_flag_same (s : State) (a : Nat) (f : Fld) (h : f.lo + f.width ≤ 32) (hw : 0 < f.width) :
    (s.flag a f).fget a f = 1 :=
  (s.fget_fset_same a f 1 h).trans (Nat.mod_eq_of_lt (Nat.one_lt_two_pow hw.ne'))

section
variable {s t : State} {as : List Nat} {a : Nat}

theorem OnlyRegs.refl (s : State) (as : List Nat) : OnlyRegs s s as := fun _ _ => rfl

theorem OnlyRegs.set (h : OnlyRegs s t as) (ha : a ∈ as) (w : Word) : OnlyRegs s (t.csrSet a w) as :=
  h.trans ((OnlyRegs.csrSet t a w).mono (List.cons_subset.2 ⟨ha, List.nil_subset _⟩))

theorem OnlyRegs.fset (h : OnlyRegs s t as) (ha : a ∈ as) (f : Fld) (v : Nat) : OnlyRegs s (t.fset a f v) as := h.set ha _

theorem OnlyRegs.flag (h : OnlyRegs s t as) (ha : a ∈ as) (f : Fld) : OnlyRegs s (t.flag a f) as := h.set ha _

theorem OnlyRegs.count (h : OnlyRegs s t as) (ha : a ∈ as) (f : Fld) (k : Nat) : OnlyRegs s (t.count a f k) as := h.set ha _

theorem OnlyRegs.noticeLim {d : Nat} (h : OnlyRegs s t as) (ha : Csr.ndQdropCnt (queueOf d) ∈ as) (code scope : Nat)
    (fs : List (Nat × Nat)) : OnlyRegs s (t.noticeLim d code scope fs) as :=
  h.trans ((t.noticeLim_onlyRegs d code scope fs).mono (List.cons_subset.2 ⟨ha, List.nil_subset _⟩))

end

theorem State.fget_noticeLim {s : State} {d code scope a : Nat} {fs : List (Nat × Nat)} (h : a ≠ Csr.ndQdropCnt (queueOf d)) (f : Fld) :
    (s.noticeLim d code scope fs).fget a f = s.fget a f :=
  State.fget_congr (State.noticeLim_onlyRegs s d code scope fs a (by simpa using h)) f

theorem queueOf_le (d : Nat) : queueOf d ≤ 8 := by
  unfold queueOf
  split <;> omega

/-! ## What reports leave alone -/

/-- From `s` to `t` nothing changed but registers, notices that wait, and their rate windows. -/
def Reports (s t : State) : Prop := t = { s with csr := t.csr, queues := t.queues, windows := t.windows }

theorem Reports.refl (s : State) : Reports s s := rfl

section
variable {s t u : State}

theorem Reports.trans (h : Reports s t) (h' : Reports t u) : Reports s u := by
  unfold Reports at h'
  rw [h'.trans (by rw [h] : _ = { s with csr := u.csr, queues := u.queues, windows := u.windows })]
  rfl

theorem Reports.part (h : Reports s t) : t.part = s.part := (congrArg State.part h :)

theorem Reports.set (h : Reports s t) (a : Nat) (w : Word) : Reports s (t.csrSet a w) := h.trans (t.csrSet_rest a w)

theorem Reports.fset (h : Reports s t) (a : Nat) (f : Fld) (v : Nat) : Reports s (t.fset a f v) := h.set a _

theorem Reports.flag (h : Reports s t) (a : Nat) (f : Fld) : Reports s (t.flag a f) := h.set a _

theorem Reports.count (h : Reports s t) (a : Nat) (f : Fld) (k : Nat) : Reports s (t.count a f k) := h.set a _

theorem Reports.noticeLim (h : Reports s t) (d code scope : Nat) (fs : List (Nat × Nat)) : Reports s (t.noticeLim d code scope fs) :=
  h.trans (t.noticeLim_rest d code scope fs)

end

/-! ## Ports -/

theorem State.portExists_congr {s t : State} {p : Nat} (hpart : t.part = s.part)
    (hmode : t.csrGet (Csr.gwMode (portDie p) (portGw p)) = s.csrGet (Csr.gwMode (portDie p) (portGw p))) :
    t.portExists p = s.portExists p := by
  unfold State.portExists State.portWidth State.populated
  rw [State.fget_congr hmode, State.fget_congr hmode, hpart]

theorem State.dieOn_congr {s t : State} (d : Nat) (hpart : t.part = s.part) (hpwr : t.csrGet Csr.pwrSts = s.csrGet Csr.pwrSts) :
    t.dieOn d = s.dieOn d := by
  unfold State.dieOn State.populated
  rw [State.fget_congr hpwr, hpart]

theorem State.portUp_congr {s t : State} {p : Nat} (hpart : t.part = s.part)
    (hmode : t.csrGet (Csr.gwMode (portDie p) (portGw p)) = s.csrGet (Csr.gwMode (portDie p) (portGw p)))
    (hlink : t.csrGet (linkSts p) = s.csrGet (linkSts p)) (hpwr : t.csrGet Csr.pwrSts = s.csrGet Csr.pwrSts) :
    t.portUp p = s.portUp p := by
  unfold State.portUp State.fbit
  rw [State.portExists_congr hpart hmode, State.dieOn_congr _ hpart hpwr, State.fget_congr hlink]

/-- The registers on which it rests whether a port is up. -/
def portRegs (p : Nat) : List Nat := [Csr.gwMode (portDie p) (portGw p), linkSts p, Csr.pwrSts]

theorem State.portUp_of_onlyRegs {s t : State} {p : Nat} {as : List Nat} (hpart : t.part = s.part) (h : OnlyRegs s t as)
    (has : ∀ a ∈ portRegs p, a ∉ as) : t.portUp p = s.portUp p :=
  State.portUp_congr hpart (h _ (has _ (by simp [portRegs]))) (h _ (has _ (by simp [portRegs]))) (h _ (has _ (by simp [portRegs])))

end Sys2Proof.Machine

end

section

/-! PROOFS. A flit received at a sub-port (O23). -/

namespace Sys2Proof.Machine

/-! ## What the transaction shell fills (R34) -/

/-- The fields that the shell fills. -/
theorem shellFill_filled (p : Nat) (m : Msg) (hp : p < 64) (hb : m.beats.length ≤ 8) :
    (shellFill p m).g Hd.vc = Vc.code m.name.vc ∧ (shellFill p m).g Hd.beats = m.beats.length ∧
      (shellFill p m).g Hd.proto = m.name.proto ∧ (shellFill p m).g Hd.port = p ∧ (shellFill p m).g Hd.srcDie = p / 8 ∧
      (shellFill p m).g Hd.srcIdx = p % 8 ∧ (shellFill p m).g Hd.stamped = 0 ∧ (shellFill p m).g Hd.needRsp = 0 ∧
      (shellFill p m).g Hd.dkind = 0 := by
  have hvc : Vc.code m.name.vc < 8 := by cases m.name <;> decide
  have hproto : m.name.proto < 4 := by cases m.name <;> decide
  unfold shellFill portDie
  simp (disch := decide) only [Msg.g_w_same, Msg.g_w_apart]
  exact ⟨Nat.mod_eq_of_lt hvc, Nat.mod_eq_of_lt (show m.beats.length < 16 by omega), Nat.mod_eq_of_lt hproto, Nat.mod_eq_of_lt hp,
    Nat.mod_eq_of_lt (show p / 8 < 8 by omega), Nat.mod_eq_of_lt (show p % 8 < 128 by omega), rfl, rfl, rfl⟩

/-- The fields of the protocol pass the shell. -/
theorem shellFill_kept (p : Nat) (m : Msg) : ∀ f ∈ [Hd.addr, Hd.opcode, Hd.ptag], (shellFill p m).g f = m.g f := by
  intro f hf
  have hnamed : ∀ f ∈ [Hd.addr, Hd.opcode, Hd.ptag], ∀ i < f.width, hdrMask.getLsbD (f.lo + i) = true := by decide +kernel
  have hapart : ∀ f ∈ [Hd.addr, Hd.opcode, Hd.ptag], ∀ g ∈ [Hd.vc, Hd.beats, Hd.proto, Hd.port, Hd.stamped, Hd.needRsp, Hd.dkind,
    Hd.srcDie, Hd.srcIdx], g.lo + g.width ≤ f.lo ∨ f.lo + f.width ≤ g.lo := by decide
  unfold shellFill
  dsimp only
  iterate 9 rw [Msg.g_w_apart _ _ _ _ (hapart f hf _ (by simp))]
  exact Msg.g_named m f (hnamed f hf)

@[simp] theorem shellFill_name (p : Nat) (m : Msg) : (shellFill p m).name = m.name := by
  simp [shellFill]

@[simp] theorem shellFill_beats (p : Nat) (m : Msg) : (shellFill p m).beats = m.beats := by
  simp [shellFill]

/-! ## Credits and answers (R18, R27, R28, R33) -/

/-- The credits of a message that its port returns at once. -/
def creditBack (p : Nat) (m : Msg) : List Emission :=
  match creditOf m.name with
  | some c => [.credits p c 1 (dataCredits c m)]
  | none => []

theorem State.returnCredit_up {s : State} {p : Nat} (h : s.portUp p = true) (m : Msg) :
    s.returnCredit p m = { s with outbox := s.outbox ++ creditBack p m } := by
  unfold State.returnCredit creditBack
  cases creditOf m.name with
  | none => simp
  | some c => exact if_pos h

@[simp] theorem State.returnCredit_csr (s : State) (p : Nat) (m : Msg) : (s.returnCredit p m).csr = s.csr := by
  unfold State.returnCredit
  split
  · rfl
  · split <;> rfl

theorem State.absentFor_some {s : State} {p : Nat} {l : LinkMsg} {f : Feature} (hd : l.depends = some f) (hf : s.feature p f = false) :
    s.absentFor p l = some f := by
  simp [State.absentFor, hd, hf]

theorem State.absentFor_none {s : State} {p : Nat} {l : LinkMsg} (h : ∀ f, l.depends = some f → s.feature p f = true) :
    s.absentFor p l = none := by
  cases hd : l.depends with
  | none => simp [State.absentFor, hd]
  | some f => simp [State.absentFor, hd, h f hd]

theorem State.shellConsumes_absent {s : State} {p : Nat} {l : LinkMsg} {f : Feature} (h : s.absentFor p l = some f) :
    s.shellConsumes p l = true := by
  unfold State.shellConsumes
  rw [h]
  split <;> rfl

/-- The names that end at the shell of a port whatever they ask for (R18, R29). -/
def endsAtPort : List PName :=
  [.terminated, .mctpVdm, .internal, .escDown, .escAccept, .escRelease, .escWake, .escAbort, .bankAcc, .csrAcc]

theorem State.shellConsumes_ends {s : State} {p : Nat} {l : LinkMsg} (h : l.msg.name ∈ endsAtPort) : s.shellConsumes p l = true := by
  unfold State.shellConsumes
  revert h
  cases l.msg.name <;> simp [endsAtPort]

theorem State.shellConsumes_cfg {s : State} {p : Nat} {l : LinkMsg} (ha : s.absentFor p l = none)
    (h : l.msg.name ∈ [PName.cfgRead, .cfgWrite]) :
    s.shellConsumes p l = (decide (Msg.cfgOffset l.msg < 0x800) || !s.presents p l.fn) := by
  unfold State.shellConsumes
  rw [ha]
  revert h
  cases l.msg.name <;> simp

theorem State.shellConsumes_other {s : State} {p : Nat} {l : LinkMsg} (ha : s.absentFor p l = none)
    (hends : l.msg.name ∉ endsAtPort) (hcfg : l.msg.name ∉ [PName.cfgRead, .cfgWrite]) : s.shellConsumes p l = false := by
  unfold State.shellConsumes
  rw [ha]
  revert hends hcfg
  cases l.msg.name <;> simp [endsAtPort]

/-- What raising an MSI-X vector writes. -/
theorem State.msix_writes (s : State) (v : Nat) : ∃ b r, s.msix v = { s with bar := b, outbox := s.outbox ++ r } := by
  unfold State.msix
  split
  · exact ⟨s.bar, [], by rw [List.append_nil]⟩
  · split
    · exact ⟨_, [], by rw [List.append_nil]; rfl⟩
    · exact ⟨s.bar, [.msix v], rfl⟩

theorem State.msixFlush_writes (s : State) : ∃ b r, s.msixFlush = { s with bar := b, outbox := s.outbox ++ r } := by
  unfold State.msixFlush
  generalize [0, 1].filter _ = l
  induction l generalizing s with
  | nil => exact ⟨s.bar, [], by rw [List.append_nil]; rfl⟩
  | cons v l ih =>
    obtain ⟨b, r, e⟩ := (s.msixPend v false).msix_writes v
    obtain ⟨b', r', e'⟩ := ih ((s.msixPend v false).msix v)
    exact ⟨b', r ++ r', by rw [List.foldl_cons, e', e, ← List.append_assoc]; rfl⟩

section
variable {s : State} {p : Nat} {l : LinkMsg}

theorem State.cfgAnswer_hidden (h : s.presents p l.fn = false) : s.cfgAnswer p l = s.emit (.linkError p l.msg) := by
  simp [State.cfgAnswer, h]

theorem State.cfgAnswer_read (h : s.presents p l.fn = true) (hn : l.msg.name = .cfgRead) :
    s.cfgAnswer p l = s.emit (.shellAnswer p l.msg (some (s.cfgValue p l.fn (Msg.cfgOffset l.msg / 4)))) := by
  simp [State.cfgAnswer, h, hn]

theorem State.cfgAnswer_write (h : s.presents p l.fn = true) (hn : l.msg.name = .cfgWrite) :
    let w := Msg.cfgOffset l.msg / 4
    let v := Config.cfgWrite l.fn (s.shownRole p) w (s.cfgWord p l.fn w) l.msg.hdr (l.msg.beats.headD 0)
    ∃ b r, s.cfgAnswer p l = { s with
      cfgWords := SMap.set 0 s.cfgWords (cfgKey p l.fn w) v, outbox := s.outbox ++ .shellAnswer p l.msg none :: r, bar := b } := by
  intro w v
  obtain ⟨b, r, e⟩ := State.msixFlush_writes
    (State.emit { s with cfgWords := SMap.set 0 s.cfgWords (cfgKey p l.fn w) v } (.shellAnswer p l.msg none))
  refine ⟨b, r, ?_⟩
  have ha : s.cfgAnswer p l = State.msixFlush
      (State.emit { s with cfgWords := SMap.set 0 s.cfgWords (cfgKey p l.fn w) v } (.shellAnswer p l.msg none)) := by
    simp [State.cfgAnswer, h, hn, w, v]
  rw [ha, e]
  simp [State.emit]

theorem State.shellAnswers_absent {f : Feature} (h : s.absentFor p l = some f) : s.shellAnswers p l = s.emit (.linkAbsent p l.msg f) := by
  unfold State.shellAnswers
  rw [h]

theorem State.shellAnswers_cfg (ha : s.absentFor p l = none) (h : l.msg.name ∈ [PName.cfgRead, .cfgWrite]) :
    s.shellAnswers p l = s.cfgAnswer p l := by
  unfold State.shellAnswers
  rw [ha]
  revert h
  cases l.msg.name <;> simp

theorem State.shellAnswers_none (ha : s.absentFor p l = none) (h : l.msg.name ∉ [PName.cfgRead, .cfgWrite]) : s.shellAnswers p l = s := by
  unfold State.shellAnswers
  rw [ha]
  revert h
  cases l.msg.name <;> simp

@[simp] theorem State.cfgAnswer_csr (s : State) (p : Nat) (l : LinkMsg) : (s.cfgAnswer p l).csr = s.csr := by
  unfold State.cfgAnswer
  dsimp only
  split
  · rfl
  · split
    · rfl
    · obtain ⟨b, r, e⟩ := State.msixFlush_writes _
      rw [e]; rfl

@[simp] theorem State.shellAnswers_csr (s : State) (p : Nat) (l : LinkMsg) : (s.shellAnswers p l).csr = s.csr := by
  unfold State.shellAnswers
  split
  · rfl
  · exact s.cfgAnswer_csr p l
  · exact s.cfgAnswer_csr p l
  · rfl

/-! ## One message of a flit -/

/-- A message that the shell consumes. -/
theorem State.shellTake_consumed (hpoison : l.msg.g Hd.poison = 0) (hcredits : s.creditsLeft p l.msg = true)
    (h : s.shellConsumes p l = true) : s.shellTake p l = (s.shellAnswers p l).returnCredit p l.msg := by
  simp [State.shellTake, hcredits, Msg.poisoned, hpoison, h]

/-- A message that goes on to its channel's ingress queue. -/
theorem State.shellTake_queued (hpoison : l.msg.g Hd.poison = 0) (hcredits : s.creditsLeft p l.msg = true)
    (h : s.shellConsumes p l = false) (hrsp : l.msg.name.responds = false) :
    let k := p * 8 + (shellFill p l.msg).g Hd.vc
    s.shellTake p l =
      { s with ingress := SMap.set [] s.ingress k (SMap.get [] s.ingress k ++ [{ l with msg := shellFill p l.msg }]) } := by
  simp [State.shellTake, hcredits, Msg.poisoned, hpoison, h, restoreTag, hrsp]

end

/-! ## A flit -/

theorem doGatewayFlitReceive_good {s : State} {p : Nat} (h : s.portUp p = true) (ls : List LinkMsg) :
    doGatewayFlitReceive p { fecCorr := false, bad := false, msgs := ls } s = s.shellTakeAll p ls := by
  simp [doGatewayFlitReceive, h]

theorem doGatewayFlitReceive_bad {s : State} {p : Nat} (h : s.portUp p = true) (ls : List LinkMsg) :
    doGatewayFlitReceive p { fecCorr := false, bad := true, msgs := ls } s = s.replayFlit p := by
  simp [doGatewayFlitReceive, h]

/-- The registers that a message may change at its shell: those of poison (R52), and the count of notices discarded. -/
theorem State.shellTake_onlyRegs (s : State) (p : Nat) (l : LinkMsg) : OnlyRegs s (s.shellTake p l)
    [Csr.gwPoisonCnt (portDie p) (portGw p) (portSub p), gwErr p, Csr.ndQdropCnt (queueOf (portDie p))] := by
  rw [State.shellTake]
  split
  · exact .of_csr rfl _
  · generalize hv : (if l.msg.poisoned = true then _ else s) = v
    have hsv : OnlyRegs s v [Csr.gwPoisonCnt (portDie p) (portGw p) (portSub p), gwErr p, Csr.ndQdropCnt (queueOf (portDie p))] := by
      rw [← hv]
      split
      · have hflag := ((OnlyRegs.refl s [Csr.gwPoisonCnt (portDie p) (portGw p) (portSub p), gwErr p,
          Csr.ndQdropCnt (queueOf (portDie p))]).count List.mem_cons_self GwPoisonCnt.count 1).flag (by simp : gwErr p ∈ _) GwErr.poisonRx
        dsimp only
        split
        · exact hflag.noticeLim (by simp) _ _ _
        · exact hflag
      · exact .refl _ _
    refine hsv.trans ?_
    dsimp only
    split
    · exact .of_csr (by rw [State.returnCredit_csr, State.shellAnswers_csr]) _
    · exact .of_csr rfl _

theorem State.shellTake_portUp (s : State) (p : Nat) (l : LinkMsg) : (s.shellTake p l).portUp p = s.portUp p := by
  refine State.portUp_of_onlyRegs (State.shellTake_keeps p l (Keeps.refl s)).part (s.shellTake_onlyRegs p l) ?_
  have hq := queueOf_le (portDie p)
  simp only [portRegs, List.mem_cons, List.not_mem_nil, or_false, forall_eq_or_imp, forall_eq]
  simp only [linkSts, gwErr, portDie, portGw, portSub, Csr.gwMode, Csr.gwLinkSts, Csr.gwErr, Csr.gwPoisonCnt, Csr.ndQdropCnt, Csr.pwrSts,
    csrAddr, stw] at hq ⊢
  omega

/-- The first message of a flit is taken as a flit of its own would be. -/
theorem doGatewayFlitReceive_cons {s : State} {p : Nat} (h : s.portUp p = true) (l : LinkMsg) (ls : List LinkMsg) :
    doGatewayFlitReceive p { fecCorr := false, bad := false, msgs := l :: ls } s =
      doGatewayFlitReceive p { fecCorr := false, bad := false, msgs := ls }
        (doGatewayFlitReceive p { fecCorr := false, bad := false, msgs := [l] } s) := by
  have hone : s.shellTakeAll p [l] = s.shellTake p l := rfl
  rw [doGatewayFlitReceive_good h, doGatewayFlitReceive_good h, hone,
    doGatewayFlitReceive_good ((s.shellTake_portUp p l).trans h)]
  rfl

/-! ## A flit that fails (R53) -/

/-- The replays of a port in the last 1 ms, with one now. -/
def State.recentReplays (s : State) (p : Nat) : List Nat :=
  (SMap.get [] s.replays p).filter (fun m => s.msOf (portDie p) < m + 1000000) ++ [s.msOf (portDie p)]

/-- A state in which a replay of a port is counted. -/
def State.countReplay (s : State) (p : Nat) : State :=
  (State.flag { s with replays := SMap.set [] s.replays p (s.recentReplays p) } (gwErr p) GwErr.fecUncorr).count
    (Csr.gwCnt (portDie p) (portGw p) (portSub p)) GwCnt.replays 1

theorem State.countReplay_onlyRegs (s : State) (p : Nat) :
    OnlyRegs s (s.countReplay p) [gwErr p, Csr.gwCnt (portDie p) (portGw p) (portSub p)] :=
  .count (.flag (.of_csr rfl _) (by simp) _) (by simp) _ _

theorem State.countReplay_reports (s : State) (p : Nat) :
    Reports { s with replays := SMap.set [] s.replays p (s.recentReplays p) } (s.countReplay p) :=
  ((Reports.refl _).flag _ _).count _ _ _

theorem Reports.with_replays {s t : State} {r : SMap (List Nat)} (h : Reports { s with replays := r } t) :
    t.replays = r ∧ t = { s with csr := t.csr, replays := t.replays, queues := t.queues, windows := t.windows } := by
  have hr : t.replays = r := congrArg State.replays h
  exact ⟨hr, by rw [hr]; exact h⟩

theorem State.replayFlit_eq (s : State) (p : Nat) : s.replayFlit p =
    if s.fget (Csr.gwReplayThr (portDie p) (portGw p)) GwReplayThr.thr < (s.recentReplays p).length then
      ((s.countReplay p).flag (gwErr p) GwErr.replayThr).noticeLim (portDie p) 0x0106 p
        [(1, p), (2, min (s.recentReplays p).length 65535)]
    else s.countReplay p := by
  have hthr : (s.countReplay p).fget (Csr.gwReplayThr (portDie p) (portGw p)) GwReplayThr.thr =
      s.fget (Csr.gwReplayThr (portDie p) (portGw p)) GwReplayThr.thr := by
    refine State.fget_congr (s.countReplay_onlyRegs p _ ?_) _
    simp only [List.mem_cons, List.not_mem_nil, or_false, gwErr, portDie, portGw, portSub, Csr.gwErr, Csr.gwCnt, Csr.gwReplayThr, csrAddr]
    omega
  rw [← hthr]
  rfl

theorem gwErr_ne_gwCnt (p q : Nat) : gwErr p ≠ Csr.gwCnt (portDie q) (portGw q) (portSub q) := by
  simp only [gwErr, portDie, portGw, portSub, Csr.gwErr, Csr.gwCnt, csrAddr]
  omega

theorem State.countReplay_fields (s : State) (p : Nat) :
    (s.countReplay p).fget (gwErr p) GwErr.fecUncorr = 1 ∧
      (s.countReplay p).fget (gwErr p) GwErr.replayThr = s.fget (gwErr p) GwErr.replayThr ∧
      (s.countReplay p).fget (Csr.gwCnt (portDie p) (portGw p) (portSub p)) GwCnt.replays =
        min (s.fget (Csr.gwCnt (portDie p) (portGw p) (portSub p)) GwCnt.replays + 1) (2 ^ 16 - 1) := by
  have herr : ∀ f, (s.countReplay p).fget (gwErr p) f = (s.flag (gwErr p) GwErr.fecUncorr).fget (gwErr p) f :=
    State.fget_congr (State.csrGet_count_ne _ _ _ (gwErr_ne_gwCnt p p))
  refine ⟨?_, ?_, ?_⟩
  · rw [herr, State.fget_flag_same _ _ _ (by decide) (by decide)]
  · rw [herr]
    exact State.fget_fset_disjoint _ _ _ _ _ (by decide)
  · rw [State.countReplay, State.fget_count_same _ _ _ _ (by decide), State.flag,
      State.fget_fset_ne _ _ _ _ (gwErr_ne_gwCnt p p).symm]
    rfl

/-- What a flit that fails changes. -/
theorem State.replayFlit_writes (s : State) (p : Nat) :
    let t := s.replayFlit p
    let a := gwErr p
    let c := Csr.gwCnt (portDie p) (portGw p) (portSub p)
    let over_ : Bool := s.fget (Csr.gwReplayThr (portDie p) (portGw p)) GwReplayThr.thr < (s.recentReplays p).length
    t.replays = SMap.set [] s.replays p (s.recentReplays p) ∧
      t.fget a GwErr.fecUncorr = 1 ∧ t.fget a GwErr.replayThr = (if over_ then 1 else s.fget a GwErr.replayThr) ∧
      t.fget c GwCnt.replays = min (s.fget c GwCnt.replays + 1) (2 ^ 16 - 1) ∧
      OnlyRegs s t [a, c, Csr.ndQdropCnt (queueOf (portDie p))] ∧
      t = { s with csr := t.csr, replays := t.replays, queues := t.queues, windows := t.windows } := by
  obtain ⟨hfec, hthr, hcnt⟩ := s.countReplay_fields p
  have hregs := (s.countReplay_onlyRegs p).mono
    (show _ ⊆ [gwErr p, Csr.gwCnt (portDie p) (portGw p) (portSub p), Csr.ndQdropCnt (queueOf (portDie p))] by simp)
  have hdrop : gwErr p ≠ Csr.ndQdropCnt (queueOf (portDie p)) ∧
      Csr.gwCnt (portDie p) (portGw p) (portSub p) ≠ Csr.ndQdropCnt (queueOf (portDie p)) := by
    have hq := queueOf_le (portDie p)
    simp only [gwErr, portDie, portGw, portSub, Csr.gwErr, Csr.gwCnt, Csr.ndQdropCnt, csrAddr, stw] at hq ⊢
    omega
  intro t a c over_
  by_cases hover : s.fget (Csr.gwReplayThr (portDie p) (portGw p)) GwReplayThr.thr < (s.recentReplays p).length
  · generalize hu : (s.countReplay p).flag a GwErr.replayThr = u
    have ht : t = u.noticeLim (portDie p) 0x0106 p [(1, p), (2, min (s.recentReplays p).length 65535)] := by
      rw [← hu]
      exact (s.replayFlit_eq p).trans (if_pos hover)
    have hnotice := u.noticeLim_onlyRegs (portDie p) 0x0106 p [(1, p), (2, min (s.recentReplays p).length 65535)]
    rw [← ht] at hnotice
    have ha : ∀ f, t.fget a f = u.fget a f := State.fget_congr (hnotice _ (by simpa using hdrop.1))
    have hc : ∀ f, t.fget c f = u.fget c f := State.fget_congr (hnotice _ (by simpa using hdrop.2))
    have hrep : Reports { s with replays := SMap.set [] s.replays p (s.recentReplays p) } t := by
      rw [ht, ← hu]; exact ((s.countReplay_reports p).flag a GwErr.replayThr).noticeLim _ _ _ _
    obtain ⟨hreplays, hframe⟩ := hrep.with_replays
    refine ⟨hreplays, ?_, ?_, ?_, ?_, hframe⟩
    · rw [ha, ← hu]; exact (State.fget_fset_disjoint _ _ _ _ _ (by decide)).trans hfec
    · rw [ha, ← hu, State.fget_flag_same _ _ _ (by decide) (by decide), if_pos (decide_eq_true hover)]
    · rw [hc, ← hu]; exact (State.fget_fset_ne _ _ _ _ (gwErr_ne_gwCnt p p).symm).trans hcnt
    · rw [ht, ← hu]; exact (hregs.flag List.mem_cons_self _).noticeLim (by simp) _ _ _
  · have ht : t = s.countReplay p := (s.replayFlit_eq p).trans (if_neg hover)
    rw [ht]
    obtain ⟨hreplays, hframe⟩ := (s.countReplay_reports p).with_replays
    exact ⟨hreplays, hfec, by rw [if_neg (by simpa [over_] using hover), hthr], hcnt, hregs, hframe⟩

theorem exec_gatewayFlitReceive (p : PortNo) (f : Flit) (s : State) :
    exec (.gatewayFlitReceive p f) s = .next (doGatewayFlitReceive p f s) := rfl

/-! ## One message within its credits -/

section
variable {s : State} {p : PortNo} {l : LinkMsg}

/-- A port that is up takes a message that is not poisoned and within the credits that its partner holds. -/
structure State.Arrives (s : State) (p : PortNo) (l : LinkMsg) : Prop where
  up : s.portUp p = true
  clean : l.msg.g Hd.poison = 0
  credits : s.creditsLeft p l.msg = true

/-- What the shell consumes is answered, and returns its credits. -/
theorem State.Arrives.consumed (h : s.Arrives p l) {u : State} (hs : s.shellConsumes p l = true) (hans : s.shellAnswers p l = u)
    (hu : u.portUp p = true) :
    Completes (.gatewayFlitReceive p { fecCorr := false, bad := false, msgs := [l] }) s fun t =>
      t = { u with outbox := u.outbox ++ creditBack p l.msg } := by
  refine ⟨_, exec_gatewayFlitReceive _ _ _, ?_⟩
  rw [doGatewayFlitReceive_good h.up]
  exact (State.shellTake_consumed h.clean h.credits hs).trans (by rw [hans, State.returnCredit_up hu])

/-- An answer of the shell leaves its port up. -/
theorem State.emit_portUp (s : State) (e : Emission) (p : Nat) : (s.emit e).portUp p = s.portUp p :=
  State.portUp_congr rfl rfl rfl rfl

theorem State.Arrives.answered (h : s.Arrives p l) {e : Emission} (hs : s.shellConsumes p l = true) (hans : s.shellAnswers p l = s.emit e) :
    Completes (.gatewayFlitReceive p { fecCorr := false, bad := false, msgs := [l] }) s fun t =>
      t = { s with outbox := s.outbox ++ e :: creditBack p l.msg } := by
  obtain ⟨t, hexec, rfl⟩ := h.consumed hs hans ((s.emit_portUp e p).trans h.up)
  refine ⟨_, hexec, ?_⟩
  simp [State.emit]

/-- A message that its standard ends at the port. -/
theorem State.Arrives.ended (h : s.Arrives p l) (ha : s.absentFor p l = none) (hname : l.msg.name ∈ [PName.terminated, .mctpVdm]) :
    Completes (.gatewayFlitReceive p { fecCorr := false, bad := false, msgs := [l] }) s fun t =>
      t = { s with outbox := s.outbox ++ creditBack p l.msg } := by
  have hends : l.msg.name ∈ endsAtPort ∧ l.msg.name ∉ [PName.cfgRead, .cfgWrite] := by
    rcases List.mem_pair.1 hname with e | e <;> rw [e] <;> decide
  exact h.consumed (State.shellConsumes_ends hends.1) (State.shellAnswers_none ha hends.2) h.up

theorem State.Arrives.hidden (h : s.Arrives p l) (ha : s.absentFor p l = none) (hname : l.msg.name ∈ [PName.cfgRead, .cfgWrite])
    (hp : s.presents p l.fn = false) :
    Completes (.gatewayFlitReceive p { fecCorr := false, bad := false, msgs := [l] }) s fun t =>
      t = { s with outbox := s.outbox ++ .linkError p l.msg :: creditBack p l.msg } :=
  h.answered (by simp [State.shellConsumes_cfg ha hname, hp]) ((State.shellAnswers_cfg ha hname).trans (State.cfgAnswer_hidden hp))

theorem State.Arrives.cfgRead (h : s.Arrives p l) (ha : s.absentFor p l = none) (hname : l.msg.name = .cfgRead)
    (hown : Msg.cfgOffset l.msg < 0x800) (hp : s.presents p l.fn = true) :
    Completes (.gatewayFlitReceive p { fecCorr := false, bad := false, msgs := [l] }) s fun t =>
      let e := Emission.shellAnswer p l.msg (some (s.cfgValue p l.fn (Msg.cfgOffset l.msg / 4)))
      t = { s with outbox := s.outbox ++ e :: creditBack p l.msg } := by
  have hcfg : l.msg.name ∈ [PName.cfgRead, .cfgWrite] := by simp [hname]
  exact h.answered (by simp [State.shellConsumes_cfg ha hcfg, hown])
    ((State.shellAnswers_cfg ha hcfg).trans (State.cfgAnswer_read hp hname))

theorem State.Arrives.cfgWrite (h : s.Arrives p l) (ha : s.absentFor p l = none) (hname : l.msg.name = .cfgWrite)
    (hown : Msg.cfgOffset l.msg < 0x800) (hp : s.presents p l.fn = true) :
    Completes (.gatewayFlitReceive p { fecCorr := false, bad := false, msgs := [l] }) s fun t =>
      let w := Msg.cfgOffset l.msg / 4
      let v := Config.cfgWrite l.fn (s.shownRole p) w (s.cfgWord p l.fn w) l.msg.hdr (l.msg.beats.headD 0)
      ∃ b r, t = { s with
        cfgWords := SMap.set 0 s.cfgWords (cfgKey p l.fn w) v, outbox := s.outbox ++ .shellAnswer p l.msg none :: r, bar := b } := by
  have hcfg : l.msg.name ∈ [PName.cfgRead, .cfgWrite] := by simp [hname]
  obtain ⟨b, r, e⟩ := State.cfgAnswer_write hp hname
  obtain ⟨t, hexec, rfl⟩ := h.consumed (by simp [State.shellConsumes_cfg ha hcfg, hown])
    ((State.shellAnswers_cfg ha hcfg).trans e) ((State.portUp_congr rfl rfl rfl rfl).trans h.up)
  exact ⟨_, hexec, b, r ++ creditBack p l.msg, by simp⟩

/-- A message that goes on joins the ingress queue of its channel. -/
theorem State.Arrives.queued (h : s.Arrives p l) (hs : s.shellConsumes p l = false) (hrsp : l.msg.name.responds = false)
    (hbeats : l.msg.beats.length ≤ 8) :
    Completes (.gatewayFlitReceive p { fecCorr := false, bad := false, msgs := [l] }) s fun t =>
      let k := p * 8 + Vc.code l.msg.name.vc
      t = { s with ingress := SMap.set [] s.ingress k (SMap.get [] s.ingress k ++ [{ l with msg := shellFill p l.msg }]) } := by
  refine ⟨_, exec_gatewayFlitReceive _ _ _, ?_⟩
  rw [doGatewayFlitReceive_good h.up, ← (shellFill_filled p l.msg p.isLt hbeats).1]
  exact State.shellTake_queued h.clean h.credits hs hrsp

end

/-- Settles O23: a message that the shell consumes is answered and its credits return, any other is queued; a flit that fails is
a replay. -/
theorem flitReceive : Obligations.FlitReceive := by
  intro p s hup good
  refine ⟨?_, ?_, ?_⟩
  · intro l hclean hrsp hbeats hcredits name fn w own paid
    have harr : s.Arrives p l := ⟨hup, hclean, hcredits⟩
    have hpaid : paid = creditBack p l.msg := rfl
    rw [hpaid]
    refine ⟨fun f hd hf => ?_, fun hfeat => ?_⟩
    · have ha := State.absentFor_some hd hf
      exact harr.answered (State.shellConsumes_absent ha) (State.shellAnswers_absent ha)
    · have ha := State.absentFor_none hfeat
      refine ⟨harr.ended ha, harr.hidden ha, harr.cfgRead ha, fun hname hown hshown => ?_, fun hends hcfg => ?_⟩
      · obtain ⟨t, hexec, b, r, rfl⟩ := harr.cfgWrite ha hname hown hshown
        exact ⟨_, hexec, SMap.get_set_same _ _ _ _, fun j hj => SMap.get_set_ne _ _ _ _ hj, ⟨r, rfl⟩, rfl⟩
      · have hs : s.shellConsumes p l = false := by
          by_cases hc : l.msg.name ∈ [PName.cfgRead, .cfgWrite]
          · obtain ⟨hfar, hshown⟩ := hcfg hc
            rw [State.shellConsumes_cfg ha hc, hshown, decide_eq_false (show ¬ Msg.cfgOffset l.msg < 0x800 from hfar)]
            rfl
          · exact State.shellConsumes_other ha hends hc
        obtain ⟨t, hexec, rfl⟩ := harr.queued hs hrsp hbeats
        obtain ⟨hvc, hb, hproto, hport, hdie, hidx, hstamped, hneed, hdkind⟩ := shellFill_filled p l.msg p.isLt hbeats
        exact ⟨_, hexec, shellFill p l.msg, SMap.get_set_same _ _ _ _, fun j hj => SMap.get_set_ne _ _ _ _ hj,
          shellFill_beats _ _, shellFill_name _ _, hvc, hb, hproto, hport, hdie, hidx, hstamped, hneed, hdkind,
          shellFill_kept _ _ _ (by simp), shellFill_kept _ _ _ (by simp), shellFill_kept _ _ _ (by simp), rfl⟩
  · intro l ls u hu
    cases hu
    exact ⟨_, exec_gatewayFlitReceive _ _ _, congrArg _ (doGatewayFlitReceive_cons hup l ls).symm⟩
  · intro ls
    refine ⟨_, exec_gatewayFlitReceive _ _ _, ?_⟩
    rw [doGatewayFlitReceive_bad hup]
    obtain ⟨hreplays, hfec, hthr, hcnt, hregs, hframe⟩ := s.replayFlit_writes p
    refine ⟨?_, fun q hq => ?_, hfec, hthr, hcnt, hregs, hframe⟩
    · rw [hreplays]; exact SMap.get_set_same _ _ _ _
    · rw [hreplays]; exact SMap.get_set_ne _ _ _ _ hq

end Sys2Proof.Machine

end

section

/-! PROOFS. Bits of numbers, and what empties an egress: the rules for culverts and links that go down. -/

namespace Sys2Proof.Machine

/-! ## Bits -/

theorem bitOf_eq_testBit (x i : Nat) : bitOf x i = x.testBit i := by
  rw [Nat.testBit_eq_decide_div_mod_eq]; rfl

/-- A number is the one with bit `i` put to its own value. -/
theorem eq_inNat_bit (x i : Nat) : x = Fld.inNat ⟨i, 1⟩ x (x / 2 ^ i) := by
  refine Nat.eq_of_testBit_eq fun j => ?_
  rw [Fld.inNat_testBit]
  split
  · next h =>
    obtain rfl : i = j := by dsimp only at h; omega
    rw [Nat.testBit_div_two_pow]; simp
  · rfl

theorem setBitN_eq_inNat (x i : Nat) : setBitN x i = Fld.inNat ⟨i, 1⟩ x 1 := by
  have hx := eq_inNat_bit x i
  unfold setBitN bitOf
  unfold Fld.inNat at hx ⊢
  dsimp only at hx ⊢
  split
  · next h => rw [beq_iff_eq] at h; rw [pow_one, h] at hx; rw [pow_one]; exact hx
  · next h => rw [beq_iff_eq] at h; rw [pow_one, Nat.mod_two_ne_one.1 h] at hx; rw [pow_one]; omega

theorem clrBitN_eq_inNat (x i : Nat) : clrBitN x i = Fld.inNat ⟨i, 1⟩ x 0 := by
  have hx := eq_inNat_bit x i
  unfold clrBitN bitOf
  unfold Fld.inNat at hx ⊢
  dsimp only at hx ⊢
  split
  · next h => rw [beq_iff_eq] at h; rw [pow_one, h] at hx; rw [pow_one]; omega
  · next h => rw [beq_iff_eq] at h; rw [pow_one, Nat.mod_two_ne_one.1 h] at hx; rw [pow_one]; exact hx

theorem bitOf_setBitN (x i j : Nat) : bitOf (setBitN x i) j = (bitOf x j || decide (j = i)) := by
  rw [setBitN_eq_inNat, bitOf_eq_testBit, bitOf_eq_testBit, Fld.inNat_testBit]
  by_cases h : j = i
  · subst h; simp
  · rw [if_neg (by dsimp only; omega)]; simp [h]

theorem bitOf_clrBitN (x i j : Nat) : bitOf (clrBitN x i) j = (bitOf x j && decide (j ≠ i)) := by
  rw [clrBitN_eq_inNat, bitOf_eq_testBit, bitOf_eq_testBit, Fld.inNat_testBit]
  by_cases h : j = i
  · subst h; simp
  · rw [if_neg (by dsimp only; omega)]; simp [h]

/-- Setting every bit of a list. -/
theorem bitOf_foldl_setBitN (l : List Nat) (x j : Nat) : bitOf (l.foldl setBitN x) j = (bitOf x j || decide (j ∈ l)) := by
  induction l generalizing x with
  | nil => simp
  | cons i l ih => rw [List.foldl_cons, ih, bitOf_setBitN]; simp [Bool.or_assoc]

theorem bitOf_mod_two_pow {x n j : Nat} (h : j < n) : bitOf (x % 2 ^ n) j = bitOf x j := by
  rw [bitOf_eq_testBit, bitOf_eq_testBit, Nat.testBit_mod_two_pow, decide_eq_true h, Bool.true_and]

/-! ## What waits at an egress (R51, R54) -/

/-- From `s` to `t` nothing changed but registers, what waits in the crossbar, and what left the device. -/
def Drains (s t : State) : Prop :=
  t = { s with csr := t.csr, xout := t.xout, xsrc := t.xsrc, xin := t.xin, serial := t.serial, outbox := t.outbox }

section
variable {s t u : State}

theorem Drains.trans (h : Drains s t) (h' : Drains t u) : Drains s u := by
  unfold Drains at h'
  rw [h'.trans (by rw [h] : _ = { s with
    csr := u.csr, xout := u.xout, xsrc := u.xsrc, xin := u.xin, serial := u.serial, outbox := u.outbox })]
  rfl

theorem Drains.refl (s : State) : Drains s s := rfl

theorem Drains.set (h : Drains s t) (a : Nat) (w : Word) : Drains s (t.csrSet a w) := h.trans (t.csrSet_rest a w)

theorem Drains.inject (h : Drains s t) (d e : Nat) (m : Msg) (die ep : Nat) : Drains s (t.inject d e m die ep) :=
  h.trans (by unfold Drains; rw [State.inject_csr, State.inject_xout, State.inject_outbox]; exact t.inject_rest d e die ep m)

theorem Drains.emit (h : Drains s t) (e : Emission) : Drains s (t.emit e) := h.trans rfl

end

theorem State.discard_drains (s : State) (d e idx : Nat) (m : Msg) :
    Drains s (s.discard d e idx m) ∧ (s.discard d e idx m).csr = s.csr ∧ (s.discard d e idx m).xout = s.xout := by
  unfold State.discard State.injectReply
  split
  · exact ⟨(Drains.refl s).inject _ _ _ _ _, State.inject_csr .., State.inject_xout ..⟩
  · split
    · exact ⟨(Drains.refl s).emit _, rfl, rfl⟩
    · exact ⟨.refl s, rfl, rfl⟩

theorem State.dropEgress_drains (s : State) (d e idx v : Nat) (q : List XMsg) :
    Drains s (s.dropEgress d e idx v q) ∧ OnlyRegs s (s.dropEgress d e idx v q) [Csr.xbCredit d e v] ∧
      (s.dropEgress d e idx v q).xout = s.xout := by
  induction q generalizing s with
  | nil => exact ⟨.refl s, .refl s _, rfl⟩
  | cons x q ih =>
    rw [State.dropEgress]
    generalize hu : s.csrSet (Csr.xbCredit d e v) _ = u
    obtain ⟨hdrains, hcsr, hxout⟩ := u.discard_drains d e idx x.msg
    obtain ⟨hd, hr, hx⟩ := ih (u.discard d e idx x.msg)
    have hsu : Drains s u ∧ OnlyRegs s u [Csr.xbCredit d e v] ∧ u.xout = s.xout :=
      hu ▸ ⟨(Drains.refl s).set _ _, (OnlyRegs.refl s _).set (by simp) _, State.csrSet_xout ..⟩
    exact ⟨(hsu.1.trans hdrains).trans hd, (hsu.2.1.trans (.of_csr hcsr _)).trans hr, hx.trans (hxout.trans hsu.2.2)⟩

/-- Emptying an egress: its channels hold nothing, every other queue stands, and of the registers only its credits change. -/
theorem State.emptyEgress_drains (s : State) (d e idx : Nat) (vs : List Nat) :
    Drains s (s.emptyEgress d e idx vs) ∧ OnlyRegs s (s.emptyEgress d e idx vs) (vs.map (Csr.xbCredit d e)) ∧
      ∀ k, SMap.get [] (s.emptyEgress d e idx vs).xout k = if k ∈ vs.map (xkey d e) then [] else SMap.get [] s.xout k := by
  induction vs generalizing s with
  | nil => exact ⟨.refl s, .refl s _, fun k => rfl⟩
  | cons v vs ih =>
    rw [State.emptyEgress]
    generalize hu : ({ s with xout := SMap.set [] s.xout (xkey d e v) [] } : State) = u
    obtain ⟨hd, hr, hx⟩ := u.dropEgress_drains d e idx v (SMap.get [] s.xout (xkey d e v))
    generalize u.dropEgress d e idx v (SMap.get [] s.xout (xkey d e v)) = w at hd hr hx ⊢
    obtain ⟨hd', hr', hx'⟩ := ih w
    have hsu : Drains s u ∧ OnlyRegs s u [] ∧ u.xout = SMap.set [] s.xout (xkey d e v) [] := hu ▸ ⟨rfl, .of_csr rfl _, rfl⟩
    refine ⟨(hsu.1.trans hd).trans hd', ?_, fun k => ?_⟩
    · exact ((hsu.2.1.mono (by simp)).trans (hr.mono (by simp))).trans (hr'.mono (by simp))
    · rw [hx', hx, hsu.2.2]
      by_cases hk : k = xkey d e v
      · rw [hk, SMap.get_set_same]; simp
      · rw [SMap.get_set_ne _ _ _ _ hk]; simp [hk]

end Sys2Proof.Machine

end

section

/-! PROOFS. Culverts: training, beats that arrive, and EN (O25). -/

namespace Sys2Proof.Machine

/-! ## The two sides of a culvert -/

theorem State.neighbour_congr {s t : State} (hpart : t.part = s.part) (d c : Nat) : t.neighbour d c = s.neighbour d c := by
  unfold State.neighbour State.populated
  rw [hpart]

theorem State.populated_lt {s : State} {d : Nat} (h : s.populated d = true) : d < 8 := by
  have hdies : s.part.dies ≤ 8 := by unfold Part.dies; split <;> decide
  exact Nat.lt_of_lt_of_le (of_decide_eq_true h) hdies

theorem State.neighbour_ne {s : State} {d n : Nat} {c : Culv} (h : s.neighbour d c = some n) : n ≠ d := by
  obtain ⟨hpop, hn⟩ := Option.ite_none_right_eq_some.1 h
  have hd := State.populated_lt (Bool.and_eq_true_iff.1 hpop).1
  rw [Option.some.injEq] at hn
  rw [← hn]
  fin_cases c
  · change (if d % 4 == 0 then 8 else d - 1) ≠ d
    simp only [beq_iff_eq]
    split <;> omega
  · change (if d % 4 == 3 then 8 else d + 1) ≠ d
    split <;> omega
  · change (if d < 4 then d + 4 else d - 4) ≠ d
    split <;> omega

theorem cvSts_ne {d n : Nat} {c c' : Nat} (hc : c < 3) (hc' : c' < 3) (h : n ≠ d) : Csr.cvSts n c' ≠ Csr.cvSts d c := by
  unfold Csr.cvSts csrAddr
  omega

theorem facing_lt (c : Nat) : facing c < 3 := by
  unfold facing
  split <;> omega

/-! ## A culvert that goes down (R51) -/

/-- What taking a culvert down does to its two sides. -/
theorem State.culvertDown_both {s : State} {d n : Nat} {c : Culv} (h : s.neighbour d c = some n) :
    let t := s.culvertDown d c
    let f := facing c
    t.fget (Csr.cvSts d c) CvSts.trained = 0 ∧ t.fget (Csr.cvSts n f) CvSts.trained = 0 ∧
      (∀ w < 5, SMap.get [] t.xout (xkey d (8 + c) w) = []) ∧ (∀ w < 5, SMap.get [] t.xout (xkey n (8 + f) w) = []) ∧
      OnlyRegs s t (Csr.cvSts d c :: Csr.cvSts n f :: ([0, 1, 2, 3, 4].map (Csr.xbCredit d (8 + c)) ++
        [0, 1, 2, 3, 4].map (Csr.xbCredit n (8 + f)))) := by
  intro t f
  have hne := cvSts_ne c.isLt (facing_lt c) (State.neighbour_ne h)
  generalize hu : (s.fset (Csr.cvSts d c) CvSts.trained 0).fset (Csr.cvSts n f) CvSts.trained 0 = u
  obtain ⟨-, hregs₁, hxout₁⟩ := u.emptyEgress_drains d (8 + c) (75 + c) [0, 1, 2, 3, 4]
  generalize hv : u.emptyEgress d (8 + c) (75 + c) [0, 1, 2, 3, 4] = v at hregs₁ hxout₁
  obtain ⟨-, hregs₂, hxout₂⟩ := v.emptyEgress_drains n (8 + f) (75 + f) [0, 1, 2, 3, 4]
  have ht : t = v.emptyEgress n (8 + f) (75 + f) [0, 1, 2, 3, 4] := by
    rw [← hv, ← hu]
    simp only [t, State.culvertDown, h, f]
  rw [← ht] at hregs₂ hxout₂
  have hcredit : ∀ x, ∀ y < 3, Csr.cvSts x y ∉ [0, 1, 2, 3, 4].map (Csr.xbCredit d (8 + c)) ∧
      Csr.cvSts x y ∉ [0, 1, 2, 3, 4].map (Csr.xbCredit n (8 + f)) := by
    have hf := facing_lt c
    simp only [List.map_cons, List.map_nil, List.mem_cons, List.not_mem_nil, or_false, Csr.cvSts, Csr.xbCredit, csrAddr]
    intro x y hy
    omega
  have hsts : ∀ x, ∀ y < 3, t.fget (Csr.cvSts x y) CvSts.trained = u.fget (Csr.cvSts x y) CvSts.trained := fun x y hy =>
    State.fget_congr ((hregs₂ _ (hcredit x y hy).2).trans (hregs₁ _ (hcredit x y hy).1)) _
  refine ⟨?_, ?_, fun w hw => ?_, fun w hw => ?_, ?_⟩
  · rw [hsts _ _ c.isLt, ← hu, State.fget_fset_ne _ _ _ _ hne.symm, State.fget_fset_same _ _ _ _ (by decide)]; rfl
  · rw [hsts _ _ (facing_lt c), ← hu, State.fget_fset_same _ _ _ _ (by decide)]; rfl
  · rw [hxout₂, hxout₁, if_pos (List.mem_map_of_mem (by simp; omega)), ite_self]
  · rw [hxout₂, if_pos (List.mem_map_of_mem (by simp; omega))]
  · rw [← hu] at hregs₁
    exact ((((OnlyRegs.refl s _).fset (by simp) _ _).fset (by simp) _ _).trans (hregs₁.mono (by simp))).trans (hregs₂.mono (by simp))

/-! ## Training (R48) -/

/-- One side of a culvert that comes up with spare wires. -/
def State.cvSide (s : State) (d c tx rx : Nat) : State :=
  ((s.fset (Csr.cvSts d c) CvSts.trained 1).fset (Csr.cvSts d c) CvSts.spareTx tx).fset (Csr.cvSts d c) CvSts.spareRx rx

theorem State.cvSide_fields (s : State) (d c : Nat) {tx rx : Nat} (htx : tx ≤ 16) (hrx : rx ≤ 16) :
    let a := Csr.cvSts d c
    let t := s.cvSide d c tx rx
    t.fget a CvSts.present = s.fget a CvSts.present ∧ t.fget a CvSts.trained = 1 ∧ t.fget a CvSts.spareTx = tx ∧
      t.fget a CvSts.spareRx = rx := by
  unfold State.cvSide
  simp (disch := decide) only [State.fget_fset_same, State.fget_fset_disjoint]
  exact ⟨trivial, rfl, Nat.mod_eq_of_lt (show tx < 32 by omega), Nat.mod_eq_of_lt (show rx < 32 by omega)⟩

theorem State.cvSide_onlyRegs {s t : State} {as : List Nat} {d c : Nat} (h : OnlyRegs s t as) (ha : Csr.cvSts d c ∈ as) (tx rx : Nat) :
    OnlyRegs s (t.cvSide d c tx rx) as :=
  ((h.fset ha _ _).fset ha _ _).fset ha _ _

theorem State.cvSide_reports {s t : State} (h : Reports s t) (d c tx rx : Nat) : Reports s (t.cvSide d c tx rx) :=
  ((h.fset _ _ _).fset _ _ _).fset _ _ _

/-- A culvert both of whose ports are enabled and whose dies are on. -/
structure State.CanTrain (s : State) (d : Nat) (c : Culv) (n : Nat) : Prop where
  next : s.neighbour d c = some n
  here : s.dieOn d = true
  there : s.dieOn n = true
  enHere : s.fbit (Csr.cvCtrl d c) CvCtrl.en = true
  enThere : s.fbit (Csr.cvCtrl n (facing c)) CvCtrl.en = true

section
variable {s : State} {d n tx rx : Nat} {c : Culv}

/-- Both sides of a culvert present. -/
def State.cvPresent (s : State) (d c n : Nat) : State :=
  (s.fset (Csr.cvSts d c) CvSts.present 1).fset (Csr.cvSts n (facing c)) CvSts.present 1

theorem State.CanTrain.comes_up (h : s.CanTrain d c n) (htx : tx ≤ 16) (hrx : rx ≤ 16) :
    let f := facing c
    let u := ((s.cvPresent d c n).cvSide d c tx rx).cvSide n f rx tx
    doCulvertTrained d c tx rx s = if tx + rx = 0 then u else
      (u.noticeLim d 0x010C c [(1, d), (1, c), (1, tx), (1, rx)]).noticeLim n 0x010C f [(1, n), (1, f), (1, rx), (1, tx)] := by
  intro f u
  unfold doCulvertTrained
  simp only [h.next, h.here, h.there, h.enHere, h.enThere, Bool.and_self, Bool.not_true, Bool.false_eq_true, if_false,
    show ¬ 16 < tx by omega, show ¬ 16 < rx by omega, beq_iff_eq, f, u, State.cvSide, State.cvPresent, decide_false, Bool.or_self]

theorem State.CanTrain.stays_down (h : s.CanTrain d c n) (hover : 16 < tx ∨ 16 < rx) :
    doCulvertTrained d c tx rx s = (((s.cvPresent d c n).culvertDown d c).noticeLim d 0x010B c [(1, d), (1, c)]).noticeLim n 0x010B
      (facing c) [(1, n), (1, facing c)] := by
  unfold doCulvertTrained
  simp [h.next, h.here, h.there, h.enHere, h.enThere, hover, State.cvPresent]

/-- The status of a side of a culvert is no count of discarded notices. -/
theorem cvSts_ne_drop (d c e : Nat) : Csr.cvSts d c ≠ Csr.ndQdropCnt (queueOf e) := by
  have hq := queueOf_le e
  unfold Csr.cvSts Csr.ndQdropCnt csrAddr stw
  omega

/-- Two sides that come up one after the other. -/
theorem State.cvSides_fields (s : State) (d n c : Nat) {f : Nat} (hne : Csr.cvSts n f ≠ Csr.cvSts d c) (htx : tx ≤ 16) (hrx : rx ≤ 16)
    (hhere : s.fget (Csr.cvSts d c) CvSts.present = 1) (hthere : s.fget (Csr.cvSts n f) CvSts.present = 1) :
    let sd := Csr.cvSts d c
    let sn := Csr.cvSts n f
    let u := (s.cvSide d c tx rx).cvSide n f rx tx
    u.fget sd CvSts.present = 1 ∧ u.fget sd CvSts.trained = 1 ∧ u.fget sd CvSts.spareTx = tx ∧ u.fget sd CvSts.spareRx = rx ∧
      u.fget sn CvSts.present = 1 ∧ u.fget sn CvSts.trained = 1 ∧ u.fget sn CvSts.spareTx = rx ∧ u.fget sn CvSts.spareRx = tx := by
  intro sd sn u
  obtain ⟨hp, ht, hstx, hsrx⟩ := s.cvSide_fields d c htx hrx
  obtain ⟨hp', ht', hstx', hsrx'⟩ := (s.cvSide d c tx rx).cvSide_fields n f hrx htx
  have hother : ∀ g, (s.cvSide d c tx rx).fget sn g = s.fget sn g :=
    State.fget_congr (State.cvSide_onlyRegs (.refl s [sd]) (by simp [sd]) tx rx sn (by simpa using hne))
  have hkept : ∀ g, u.fget sd g = (s.cvSide d c tx rx).fget sd g :=
    State.fget_congr (State.cvSide_onlyRegs (.refl _ [sn]) (by simp [sn]) rx tx sd (by simpa using hne.symm))
  exact ⟨(hkept _).trans (hp.trans hhere), (hkept _).trans ht, (hkept _).trans hstx, (hkept _).trans hsrx,
    hp'.trans ((hother _).trans hthere), ht', hstx', hsrx'⟩

theorem State.cvPresent_fields (s : State) {d n c : Nat} (hne : Csr.cvSts n (facing c) ≠ Csr.cvSts d c) :
    (s.cvPresent d c n).fget (Csr.cvSts d c) CvSts.present = 1 ∧ (s.cvPresent d c n).fget (Csr.cvSts n (facing c)) CvSts.present = 1 := by
  unfold State.cvPresent
  refine ⟨?_, State.fget_fset_same _ _ _ _ (by decide)⟩
  rw [State.fget_fset_ne _ _ _ _ hne.symm]
  exact State.fget_fset_same _ _ _ _ (by decide)

/-- Both sides of a culvert that has come up. -/
theorem State.CanTrain.up_fields (h : s.CanTrain d c n) (htx : tx ≤ 16) (hrx : rx ≤ 16) :
    let f := facing c
    let sd := Csr.cvSts d c
    let sn := Csr.cvSts n f
    let u := ((s.cvPresent d c n).cvSide d c tx rx).cvSide n f rx tx
    u.fget sd CvSts.present = 1 ∧ u.fget sd CvSts.trained = 1 ∧ u.fget sd CvSts.spareTx = tx ∧ u.fget sd CvSts.spareRx = rx ∧
      u.fget sn CvSts.present = 1 ∧ u.fget sn CvSts.trained = 1 ∧ u.fget sn CvSts.spareTx = rx ∧ u.fget sn CvSts.spareRx = tx := by
  have hne : Csr.cvSts n (facing c) ≠ Csr.cvSts d c := cvSts_ne c.isLt (facing_lt c) (State.neighbour_ne h.next)
  obtain ⟨hhere, hthere⟩ := s.cvPresent_fields hne
  exact State.cvSides_fields _ d n c hne htx hrx hhere hthere

theorem State.cvPresent_onlyRegs (s : State) (d c n : Nat) {as : List Nat} (hd : Csr.cvSts d c ∈ as) (hn : Csr.cvSts n (facing c) ∈ as) :
    OnlyRegs s (s.cvPresent d c n) as :=
  ((OnlyRegs.refl s as).fset hd _ _).fset hn _ _

theorem State.cvPresent_reports (s : State) (d c n : Nat) : Reports s (s.cvPresent d c n) :=
  ((Reports.refl s).fset _ _ _).fset _ _ _

/-- Training that ends within the spare wires. -/
theorem State.CanTrain.trained (h : s.CanTrain d c n) (htx : tx ≤ 16) (hrx : rx ≤ 16) :
    let f := facing c
    let sd := Csr.cvSts d c
    let sn := Csr.cvSts n f
    let u := ((s.cvPresent d c n).cvSide d c tx rx).cvSide n f rx tx
    let t := doCulvertTrained d c tx rx s
    (∀ g, t.fget sd g = u.fget sd g) ∧ (∀ g, t.fget sn g = u.fget sn g) ∧
      OnlyRegs s t [sd, sn, Csr.ndQdropCnt (queueOf d), Csr.ndQdropCnt (queueOf n)] ∧ Reports s t := by
  intro f sd sn u t
  have hu : OnlyRegs s u [sd, sn, Csr.ndQdropCnt (queueOf d), Csr.ndQdropCnt (queueOf n)] :=
    State.cvSide_onlyRegs (State.cvSide_onlyRegs (s.cvPresent_onlyRegs d c n (by simp [sd]) (by simp [sn, f])) (by simp [sd]) _ _)
      (by simp [sn]) _ _
  have hr : Reports s u := State.cvSide_reports (State.cvSide_reports (s.cvPresent_reports d c n) _ _ _ _) _ _ _ _
  have ht : t = _ := h.comes_up htx hrx
  by_cases hz : tx + rx = 0
  · rw [if_pos hz] at ht
    rw [ht]
    exact ⟨fun _ => rfl, fun _ => rfl, hu, hr⟩
  · rw [if_neg hz] at ht
    rw [ht]
    exact ⟨fun g => (State.fget_noticeLim (cvSts_ne_drop _ _ _) _).trans (State.fget_noticeLim (cvSts_ne_drop _ _ _) _),
      fun g => (State.fget_noticeLim (cvSts_ne_drop _ _ _) _).trans (State.fget_noticeLim (cvSts_ne_drop _ _ _) _),
      (hu.noticeLim (by simp) _ _ _).noticeLim (by simp) _ _ _, (hr.noticeLim _ _ _ _).noticeLim _ _ _ _⟩

/-- Training that ends beyond the spare wires. -/
theorem State.CanTrain.untrained (h : s.CanTrain d c n) (hover : 16 < tx ∨ 16 < rx) :
    let t := doCulvertTrained d c tx rx s
    t.fget (Csr.cvSts d c) CvSts.trained = 0 ∧ t.fget (Csr.cvSts n (facing c)) CvSts.trained = 0 := by
  have hnext : (s.cvPresent d c n).neighbour d c = some n := (State.neighbour_congr (s.cvPresent_reports d c n).part d c).trans h.next
  obtain ⟨hhere, hthere, -⟩ := State.culvertDown_both hnext
  intro t
  have ht : t = _ := h.stays_down hover
  rw [ht]
  rw [State.fget_noticeLim (cvSts_ne_drop _ _ _), State.fget_noticeLim (cvSts_ne_drop _ _ _),
    State.fget_noticeLim (cvSts_ne_drop _ _ _), State.fget_noticeLim (cvSts_ne_drop _ _ _)]
  exact ⟨hhere, hthere⟩

end

/-! ## EN (R51) -/

/-- EN of a port, as a write leaves it. -/
theorem State.fset_en (s : State) (d c : Nat) (v : Word) :
    (s.fset (Csr.cvCtrl d c) CvCtrl.en (CvCtrl.en.get v)).fget (Csr.cvCtrl d c) CvCtrl.en = CvCtrl.en.get v :=
  (State.fget_fset_same _ _ _ _ (by decide)).trans (Nat.mod_eq_of_lt (CvCtrl.en.get_lt v))

theorem doCvCtrlWrite_one (s : State) (d c : Nat) {v : Word} (h : CvCtrl.en.get v = 1) :
    doCvCtrlWrite d c v s = s.fset (Csr.cvCtrl d c) CvCtrl.en (CvCtrl.en.get v) := by
  have hbit : CvCtrl.en.bit v = true := decide_eq_true (by rw [h]; decide)
  exact if_pos hbit

theorem doCvCtrlWrite_zero (s : State) (d c : Nat) {v : Word} (h : CvCtrl.en.get v = 0) :
    doCvCtrlWrite d c v s = (s.fset (Csr.cvCtrl d c) CvCtrl.en (CvCtrl.en.get v)).culvertDown d c := by
  have hbit : ¬ (CvCtrl.en.bit v = true) := by rw [Fld.bit, h]; decide
  exact if_neg hbit

theorem doCvCtrlWrite_on (s : State) (d c : Nat) {v : Word} (h : CvCtrl.en.get v = 1) :
    let t := doCvCtrlWrite d c v s
    t.fget (Csr.cvCtrl d c) CvCtrl.en = CvCtrl.en.get v ∧ OnlyRegs s t [Csr.cvCtrl d c] ∧ t = { s with csr := t.csr } := by
  rw [doCvCtrlWrite_one s d c h]
  exact ⟨s.fset_en d c v, .csrSet s _ _, s.csrSet_rest _ _⟩

theorem doCvCtrlWrite_off {s : State} {d n : Nat} {c : Culv} (hn : s.neighbour d c = some n) {v : Word} (h : CvCtrl.en.get v = 0) :
    let t := doCvCtrlWrite d c v s
    t.fget (Csr.cvCtrl d c) CvCtrl.en = CvCtrl.en.get v ∧ t.fget (Csr.cvSts d c) CvSts.trained = 0 ∧
      t.fget (Csr.cvSts n (facing c)) CvSts.trained = 0 ∧ (∀ w < 5, SMap.get [] t.xout (xkey d (8 + c) w) = []) ∧
      ∀ w < 5, SMap.get [] t.xout (xkey n (8 + facing c) w) = [] := by
  rw [doCvCtrlWrite_zero s d c h]
  have hen := s.fset_en d c v
  have hpart := ((Reports.refl s).fset (Csr.cvCtrl d c) CvCtrl.en (CvCtrl.en.get v)).part
  generalize s.fset (Csr.cvCtrl d c) CvCtrl.en (CvCtrl.en.get v) = u at hen hpart ⊢
  obtain ⟨hhere, hthere, hout, hout', hregs⟩ := State.culvertDown_both ((State.neighbour_congr hpart d c).trans hn)
  refine ⟨(State.fget_congr (hregs _ ?_) _).trans hen, hhere, hthere, hout, hout'⟩
  have hf := facing_lt c
  simp only [List.map_cons, List.map_nil, List.cons_append, List.nil_append, List.mem_cons, List.not_mem_nil, or_false, Csr.cvCtrl,
    Csr.cvSts, Csr.xbCredit, csrAddr]
  omega

/-! ## A message that arrives (R50) -/

/-- A test that one member of a list meets, and no other value, finds it. -/
theorem find?_unique {α : Type} {l : List α} {p : α → Bool} {x : α} (hx : x ∈ l) (hp : p x = true) (h : ∀ y ∈ l, p y = true → y = x) :
    l.find? p = some x := by
  obtain ⟨y, hy⟩ := Option.isSome_iff_exists.1 (List.find?_isSome.2 ⟨x, hx, hp⟩)
  rw [hy, h y (List.mem_of_find?_eq_some hy) (List.find?_some hy)]

theorem State.takeOut_cons {s : State} {d e v : Nat} {x : XMsg} {rest : List XMsg} (h : SMap.get [] s.xout (xkey d e v) = x :: rest) :
    s.takeOut d e v = some (x, State.count { s with xout := SMap.set [] s.xout (xkey d e v) rest } (Csr.xbCredit d e v)
      XbCredit.avail x.msg.size) := by
  unfold State.takeOut
  rw [h]

/-- The channels in the order in which a culvert's receiver looks at them, ESC first: the only one that it can serve is found. -/
theorem find?_channel {p : Nat → Bool} {v : Nat} (r : Nat) (hv : v < 5) (hp : p v = true) (h : ∀ w < 5, w ≠ v → p w = false) :
    (4 :: (List.range 4).map (fun i => (r + i) % 4)).find? p = some v := by
  refine find?_unique ?_ hp fun w hw hpw => ?_
  · by_cases h4 : v = 4
    · exact h4 ▸ List.mem_cons_self
    · refine List.mem_cons_of_mem _ (List.mem_map.2 ⟨(v + 4 - r % 4) % 4, List.mem_range.2 (Nat.mod_lt _ (by decide)), ?_⟩)
      omega
  · have hw5 : w < 5 := by
      rcases List.mem_cons.1 hw with rfl | hw
      · decide
      · obtain ⟨i, -, rfl⟩ := List.mem_map.1 hw
        omega
    by_contra hne
    exact absurd hpw (by rw [h w hw5 hne]; decide)

/-- The receiver's side after it took the message: the credits of its sender return, and the round-robin order moves on. -/
def State.culvertTakes (s : State) (d c n e v : Nat) (x : XMsg) (rest : List XMsg) : State :=
  let u := State.count { s with xout := SMap.set [] s.xout (xkey n e v) rest } (Csr.xbCredit n e v) XbCredit.avail x.msg.size
  if v == 4 then u else { u with xrr := SMap.set 0 u.xrr (xkey d (8 + c) 6) ((v + 1) % 4) }

/-- The errors of its beats counted and reported. -/
def State.beatErrors (s : State) (d c v : Nat) (errs : List (List (Fin 3))) : State :=
  let u := (s.count (Csr.cvEccCnt d c) CvEccCnt.corr (errCount 1 errs)).count (Csr.cvEccCnt d c) CvEccCnt.uncorr (errCount 2 errs)
  if errCount 2 errs == 0 then u else u.noticeLim d 0x010A c [(1, d), (1, c), (1, v)]

/-- The group errors of the beats that a message has. -/
def errsOf (m : Msg) (errs : List (List (Fin 3))) : List (List (Fin 3)) := (errs.take m.size).map (·.take 8)

/-- A culvert that carries the head `x` of the neighbour's output on channel `v`, and nothing on another. -/
structure State.Carries (s : State) (d : Nat) (c : Culv) (n v : Nat) (x : XMsg) (rest : List XMsg) : Prop where
  next : s.neighbour d c = some n
  chan : v < 5
  up : s.culvertUp d c = true
  here : s.sluiceOpen d = true
  there : s.sluiceOpen n = true
  head : SMap.get [] s.xout (xkey n (8 + facing c) v) = x :: rest
  alone : ∀ w < 5, w ≠ v → SMap.get [] s.xout (xkey n (8 + facing c) w) = []
  fits : s.fitsIn d (8 + c) x.msg = true

theorem State.Carries.arrives {s : State} {d n v : Nat} {c : Culv} {x : XMsg} {rest : List XMsg} (h : s.Carries d c n v x rest)
    (errs : List (List (Fin 3))) :
    let es := errsOf x.msg errs
    let u := (s.culvertTakes d c n (8 + facing c) v x rest).beatErrors d c v es
    doCulvertBeatArrive d c errs s = if beatBad es 0 then u else u.injectX d (8 + c) { x with msg := beatPoison x.msg es } := by
  intro es u
  unfold doCulvertBeatArrive
  simp only [h.next, h.up, h.here, h.there, Bool.and_self, Bool.not_true, Bool.false_eq_true, if_false]
  rw [find?_channel _ h.chan (by simp only [h.head, h.fits]) fun w hw hne => by simp only [h.alone w hw hne]]
  dsimp only
  rw [State.takeOut_cons h.head]
  rfl

theorem State.culvertTakes_onlyRegs (s : State) (d c n e v : Nat) (x : XMsg) (rest : List XMsg) :
    OnlyRegs s (s.culvertTakes d c n e v x rest) [Csr.xbCredit n e v] := by
  have hcount : OnlyRegs s (State.count { s with xout := SMap.set [] s.xout (xkey n e v) rest } (Csr.xbCredit n e v) XbCredit.avail x.msg.size)
      [Csr.xbCredit n e v] := .count (.of_csr rfl _) (by simp) _ _
  unfold State.culvertTakes
  split
  · exact hcount
  · exact hcount.trans (.of_csr rfl _)

theorem State.culvertTakes_writes (s : State) (d c n e v : Nat) (x : XMsg) (rest : List XMsg) :
    ∃ regs r, s.culvertTakes d c n e v x rest =
      { s with csr := regs, xout := SMap.set [] s.xout (xkey n e v) rest, xrr := r } := by
  unfold State.culvertTakes
  have hcount := State.csrSet_rest { s with xout := SMap.set [] s.xout (xkey n e v) rest } (Csr.xbCredit n e v)
    (XbCredit.avail.satAdd (s.csrGet (Csr.xbCredit n e v)) x.msg.size)
  generalize hu : State.count { s with xout := SMap.set [] s.xout (xkey n e v) rest } (Csr.xbCredit n e v) XbCredit.avail x.msg.size = u
  have hrest : u = { s with csr := u.csr, xout := SMap.set [] s.xout (xkey n e v) rest } := hu ▸ hcount
  split
  · exact ⟨u.csr, s.xrr, hrest⟩
  · exact ⟨u.csr, SMap.set 0 u.xrr (xkey d (8 + c) 6) ((v + 1) % 4), by rw [hrest]⟩

/-- The two counts of a port's group errors, and what else their report changes. -/
theorem State.beatErrors_writes (s : State) (d c v : Nat) (errs : List (List (Fin 3))) :
    let t := s.beatErrors d c v errs
    let a := Csr.cvEccCnt d c
    t.fget a CvEccCnt.corr = min (s.fget a CvEccCnt.corr + errCount 1 errs) (2 ^ 16 - 1) ∧
      t.fget a CvEccCnt.uncorr = min (s.fget a CvEccCnt.uncorr + errCount 2 errs) (2 ^ 16 - 1) ∧
      OnlyRegs s t [a, Csr.ndQdropCnt (queueOf d)] ∧ Reports s t := by
  intro t a
  have hdrop : a ≠ Csr.ndQdropCnt (queueOf d) := by
    have hq := queueOf_le d
    simp only [a, Csr.cvEccCnt, Csr.ndQdropCnt, csrAddr, stw]
    omega
  generalize hu : (s.count a CvEccCnt.corr (errCount 1 errs)).count a CvEccCnt.uncorr (errCount 2 errs) = u
  have hcorr : u.fget a CvEccCnt.corr = min (s.fget a CvEccCnt.corr + errCount 1 errs) (2 ^ 16 - 1) := by
    rw [← hu, State.fget_count_disjoint _ _ _ _ _ (by decide), State.fget_count_same _ _ _ _ (by decide)]
    rfl
  have huncorr : u.fget a CvEccCnt.uncorr = min (s.fget a CvEccCnt.uncorr + errCount 2 errs) (2 ^ 16 - 1) := by
    rw [← hu, State.fget_count_same _ _ _ _ (by decide), State.fget_count_disjoint _ _ _ _ _ (by decide)]
    rfl
  have hregs : OnlyRegs s u [a, Csr.ndQdropCnt (queueOf d)] := hu ▸ ((OnlyRegs.refl s _).count (by simp) _ _).count (by simp) _ _
  have hreps : Reports s u := hu ▸ ((Reports.refl s).count _ _ _).count _ _ _
  have ht : t = if errCount 2 errs == 0 then u else u.noticeLim d 0x010A c [(1, d), (1, c), (1, v)] := by rw [← hu]; rfl
  rw [ht]
  split
  · exact ⟨hcorr, huncorr, hregs, hreps⟩
  · exact ⟨(State.fget_noticeLim hdrop _).trans hcorr, (State.fget_noticeLim hdrop _).trans huncorr,
      hregs.noticeLim (by simp) _ _ _, hreps.noticeLim _ _ _ _⟩

/-- The poison of a message whose beats had errors: no other field, and no beat, changes. -/
theorem beatPoison_fields (m : Msg) (es : List (List (Fin 3))) (hb : m.beats.length ≤ 8) :
    (beatPoison m es).beats = m.beats ∧
      (∀ b < m.beats.length, bitOf ((beatPoison m es).g Hd.poison) b = (bitOf (m.g Hd.poison) b || beatBad es (b + 1))) ∧
      ∀ g : Fld, g.lo + g.width ≤ Hd.poison.lo ∨ Hd.poison.lo + Hd.poison.width ≤ g.lo → (beatPoison m es).g g = m.g g := by
  unfold beatPoison
  refine ⟨Msg.w_beats _ _ _, fun b hlt => ?_, fun g hg => Msg.g_w_apart _ _ _ _ hg.symm⟩
  rw [Msg.g_w_same _ _ _ (by decide), bitOf_mod_two_pow (show b < Hd.poison.width from Nat.lt_of_lt_of_le hlt hb),
    bitOf_foldl_setBitN]
  simp [hlt]

theorem beatBad_errsOf (m : Msg) (errs : List (List (Fin 3))) {b : Nat} (hb : b < m.size) :
    beatBad (errsOf m errs) b = ((errs.getD b []).take 8).any (fun y => y.val == 2) := by
  unfold beatBad errsOf
  rw [List.getD_eq_getElem?_getD, List.getD_eq_getElem?_getD, List.getElem?_map, List.getElem?_take_of_lt hb]
  cases errs[b]? <;> rfl

theorem State.injectX_fits {s : State} {d e : Nat} {x : XMsg} (h : s.fitsIn d e x.msg = true) :
    let k := xkey d e (x.msg.g Hd.vc)
    s.injectX d e x = { s with xin := SMap.set [] s.xin k (SMap.get [] s.xin k ++ [x]) } :=
  if_pos h

theorem State.fitsIn_congr {s t : State} {m m' : Msg} (hsrc : t.xsrc = s.xsrc) (hin : t.xin = s.xin) (hvc : m'.g Hd.vc = m.g Hd.vc)
    (hbeats : m'.beats = m.beats) (d e : Nat) : t.fitsIn d e m' = s.fitsIn d e m := by
  unfold State.fitsIn Msg.size
  rw [hsrc, hin, hvc, hbeats]

/-- Reports after the neighbour's output gave a message. -/
theorem Reports.after_take {s w u : State} {regs : SMap Word} {out : SMap (List XMsg)} {r : SMap Nat} (h : Reports w u)
    (hw : w = { s with csr := regs, xout := out, xrr := r }) :
    u = { s with csr := u.csr, xout := out, xrr := r, queues := u.queues, windows := u.windows } := by
  subst hw
  exact h

/-- The receiver's state before the message enters its crossbar input: the sender's credits have returned, and the errors are
counted at the port. -/
theorem State.Carries.taken {s : State} {d n v : Nat} {c : Culv} {x : XMsg} {rest : List XMsg} (h : s.Carries d c n v x rest)
    (es : List (List (Fin 3))) :
    let a := Csr.cvEccCnt d c
    let u := (s.culvertTakes d c n (8 + facing c) v x rest).beatErrors d c v es
    u.fget a CvEccCnt.corr = min (s.fget a CvEccCnt.corr + errCount 1 es) (2 ^ 16 - 1) ∧
      u.fget a CvEccCnt.uncorr = min (s.fget a CvEccCnt.uncorr + errCount 2 es) (2 ^ 16 - 1) ∧
      OnlyRegs s u [Csr.xbCredit n (8 + facing c) v, a, Csr.ndQdropCnt (queueOf d)] ∧
      ∃ regs r q w, u = { s with
        csr := regs, xout := SMap.set [] s.xout (xkey n (8 + facing c) v) rest, xrr := r, queues := q, windows := w } := by
  intro a u
  have hkept := s.culvertTakes_onlyRegs d c n (8 + facing c) v x rest
  obtain ⟨regs, r, hw⟩ := s.culvertTakes_writes d c n (8 + facing c) v x rest
  obtain ⟨hcorr, huncorr, hregs, hreps⟩ := (s.culvertTakes d c n (8 + facing c) v x rest).beatErrors_writes d c v es
  have ha : a ≠ Csr.xbCredit n (8 + facing c) v := by
    have hf := facing_lt c
    have hv := h.chan
    simp only [a, Csr.cvEccCnt, Csr.xbCredit, csrAddr]
    omega
  have hsame : ∀ g, (s.culvertTakes d c n (8 + facing c) v x rest).fget a g = s.fget a g :=
    State.fget_congr (hkept a (by simpa using ha))
  refine ⟨hcorr.trans (by rw [hsame]), huncorr.trans (by rw [hsame]), (hkept.mono (by simp)).trans (hregs.mono (by simp [a])), u.csr, r,
    u.queues, u.windows, hreps.after_take hw⟩

/-- What the arrival of a message changes beside registers: it leaves the neighbour's output, and enters this input unless its
header beat is lost. -/
structure State.Received (s t : State) (d : Nat) (c : Culv) (n v : Nat) (x : XMsg) (rest : List XMsg) (es : List (List (Fin 3))) : Prop where
  sent : t.xout = SMap.set [] s.xout (xkey n (8 + facing c) v) rest
  lost : beatBad es 0 = true → t.xin = s.xin
  entered : beatBad es 0 = false → t.xin = SMap.set [] s.xin (xkey d (8 + c) (x.msg.g Hd.vc))
    (SMap.get [] s.xin (xkey d (8 + c) (x.msg.g Hd.vc)) ++ [{ x with msg := beatPoison x.msg es }])
  frame : t = { s with csr := t.csr, xout := t.xout, xrr := t.xrr, xin := t.xin, queues := t.queues, windows := t.windows }

theorem State.Carries.received {s : State} {d n v : Nat} {c : Culv} {x : XMsg} {rest : List XMsg} (h : s.Carries d c n v x rest)
    (hb : x.msg.beats.length ≤ 8) (errs : List (List (Fin 3))) :
    let es := errsOf x.msg errs
    let t := doCulvertBeatArrive d c errs s
    t.csr = ((s.culvertTakes d c n (8 + facing c) v x rest).beatErrors d c v es).csr ∧ s.Received t d c n v x rest es := by
  intro es t
  have ht : t = _ := h.arrives errs
  obtain ⟨-, -, -, regs, r, q, w, hu⟩ := h.taken es
  generalize (s.culvertTakes d c n (8 + facing c) v x rest).beatErrors d c v es = u at ht hu ⊢
  clear_value t
  have hxin : u.xin = s.xin := (congrArg State.xin hu :)
  have hxsrc : u.xsrc = s.xsrc := (congrArg State.xsrc hu :)
  obtain ⟨hbeats, -, hfields⟩ := beatPoison_fields x.msg es hb
  have hvc := hfields Hd.vc (by decide)
  by_cases hbad : beatBad es 0 = true
  · rw [if_pos hbad] at ht
    subst ht hu
    exact ⟨rfl, rfl, fun _ => rfl, fun hgood => absurd (hbad.symm.trans hgood) (by decide), rfl⟩
  · have hfits : u.fitsIn d (8 + c) (beatPoison x.msg es) = true := (State.fitsIn_congr hxsrc hxin hvc hbeats d (8 + c)).trans h.fits
    rw [if_neg hbad, State.injectX_fits (x := { x with msg := beatPoison x.msg es }) hfits] at ht
    dsimp only at ht
    rw [hvc] at ht
    subst ht hu
    exact ⟨rfl, rfl, fun hlost => absurd hlost hbad, fun _ => rfl, rfl⟩

/-- Settles O25: training by the two sides that come up or stay down, EN 0 by the culvert taken down, and an arrival by what the
receiver takes and what its error counts say. -/
theorem culverts : Obligations.Culverts := by
  intro d c s n hn f sd sn dropped
  refine ⟨?_, ?_, ?_⟩
  · intro tx rx hd hnon hen hen'
    have htrain : s.CanTrain d c n := ⟨hn, hd, hnon, hen, hen'⟩
    refine ⟨fun htx hrx => ⟨_, rfl, ?_⟩, fun hover => ⟨_, rfl, htrain.untrained hover⟩⟩
    obtain ⟨hhere, hthere, hregs, hreps⟩ := htrain.trained htx hrx
    obtain ⟨hp, ht, hstx, hsrx, hp', ht', hstx', hsrx'⟩ := htrain.up_fields htx hrx
    exact ⟨(hhere _).trans hp, (hhere _).trans ht, (hhere _).trans hstx, (hhere _).trans hsrx, (hthere _).trans hp',
      (hthere _).trans ht', (hthere _).trans hstx', (hthere _).trans hsrx', hregs, hreps⟩
  · intro v hd
    refine ⟨doCvCtrlWrite d c v s, congrArg _ (if_pos hd), ?_⟩
    have hen : CvCtrl.en.get v = 0 ∨ CvCtrl.en.get v = 1 := by
      have := CvCtrl.en.get_lt v
      have hw : CvCtrl.en.width = 1 := rfl
      rw [hw] at this
      omega
    rcases hen with hen | hen
    · obtain ⟨hkept, hrest⟩ := doCvCtrlWrite_off hn hen
      exact ⟨hkept, fun h1 => absurd (hen.symm.trans h1) (by decide), fun _ => hrest⟩
    · obtain ⟨hkept, hrest⟩ := doCvCtrlWrite_on s d c hen
      exact ⟨hkept, fun _ => hrest, fun h0 => absurd (hen.symm.trans h0) (by decide)⟩
  · intro errs v x rest hv hup hhere hthere hhead halone hfits hbeats
    have hcar : s.Carries d c n v x rest := ⟨hn, hv, hup, hhere, hthere, hhead, halone, hfits⟩
    obtain ⟨hcorr, huncorr, hregs, -⟩ := hcar.taken (errsOf x.msg errs)
    obtain ⟨hcsr, hsent, hlost, hentered, hframe⟩ := hcar.received hbeats errs
    have hread : ∀ a, (doCulvertBeatArrive d c errs s).csrGet a = _ := fun a => OnlyRegs.of_csr hcsr [] a (by simp)
    obtain ⟨hsame, hpoison, hfields⟩ := beatPoison_fields x.msg (errsOf x.msg errs) hbeats
    have hbad : ∀ b < x.msg.size, beatBad (errsOf x.msg errs) b = _ := fun b hb => beatBad_errsOf x.msg errs hb
    have hsize : x.msg.size = 1 + x.msg.beats.length := rfl
    refine ⟨_, rfl, ?_, (State.fget_congr (hread _) _).trans hcorr, (State.fget_congr (hread _) _).trans huncorr, fun hhdr => ?_,
      fun hhdr => ⟨beatPoison x.msg (errsOf x.msg errs), ?_, hsame, fun b hb => ?_, hfields⟩, hregs.trans (.of_csr hcsr _), hframe⟩
    · rw [hsent]; exact SMap.get_set_same _ _ _ _
    · rw [hlost ((hbad 0 (by omega)).trans hhdr)]
    · rw [hentered ((hbad 0 (by omega)).trans hhdr)]; exact SMap.get_set_same _ _ _ _
    · rw [hpoison b hb, hbad (b + 1) (by omega)]

end Sys2Proof.Machine

end

section

/-! PROOFS. A port's registers, its down bits, and a link at L0: what O26 rests on. -/

namespace Sys2Proof.Machine

/-! ## Ports and their registers -/

@[simp] theorem State.portSt_setPortSt_same (s : State) (p : Nat) (x : PortSt) : (s.setPortSt p x).portSt p = x :=
  SMap.get_set_same _ _ _ _

theorem State.portSt_setPortSt_ne (s : State) {p q : Nat} (x : PortSt) (h : q ≠ p) : (s.setPortSt p x).portSt q = s.portSt q :=
  SMap.get_set_ne _ _ _ _ h

theorem State.portSt_congr {s t : State} (h : t.ports = s.ports) (p : Nat) : t.portSt p = s.portSt p := by
  unfold State.portSt; rw [h]

theorem linkSts_ne_gwErr (p q : Nat) : linkSts p ≠ gwErr q := by
  simp only [linkSts, gwErr, portDie, portGw, portSub, Csr.gwLinkSts, Csr.gwErr, csrAddr]
  omega

theorem linkSts_ne_drop (p d : Nat) : linkSts p ≠ Csr.ndQdropCnt (queueOf d) := by
  have hq := queueOf_le d
  simp only [linkSts, portDie, portGw, portSub, Csr.gwLinkSts, Csr.ndQdropCnt, csrAddr, stw]
  omega

theorem gwErr_ne_drop (p d : Nat) : gwErr p ≠ Csr.ndQdropCnt (queueOf d) := by
  have hq := queueOf_le d
  simp only [gwErr, portDie, portGw, portSub, Csr.gwErr, Csr.ndQdropCnt, csrAddr, stw]
  omega

theorem linkSts_inj {p q : Nat} (h : linkSts p = linkSts q) : p = q := by
  simp only [linkSts, portDie, portGw, portSub, Csr.gwLinkSts, csrAddr] at h
  omega

theorem Fld.get_put_disjoint {n : Nat} (f g : Fld) (w : BitVec n) (v : Nat) (h : f.lo + f.width ≤ g.lo ∨ g.lo + g.width ≤ f.lo) :
    g.get (f.put w v) = g.get w :=
  Fld.get_put_apart f g w v h

/-! ## The word of a trained link (R62) -/

theorem linkWord_fields (t : Training) :
    GwLinkSts.ltssm.get (linkWord t) = 0x20 ∧ GwLinkSts.up.get (linkWord t) = 1 ∧ GwLinkSts.flit.get (linkWord t) = 1 ∧
      GwLinkSts.rate.get (linkWord t) = t.rate ∧ GwLinkSts.width.get (linkWord t) = t.width ∧
      GwLinkSts.pol.get (linkWord t) = t.pol.toNat ∧ GwLinkSts.reversed.get (linkWord t) = b2n t.reversed ∧
      GwLinkSts.cxl.get (linkWord t) = b2n t.cxl ∧ GwLinkSts.xrate.get (linkWord t) = b2n t.xrate := by
  have hb : ∀ b : Bool, b2n b < 2 := by decide
  unfold linkWord
  simp (disch := decide) only [Fld.get_put_same, Fld.get_put_disjoint]
  exact ⟨rfl, rfl, rfl, Nat.mod_eq_of_lt (show t.rate.val < 8 by omega), Nat.mod_eq_of_lt (show t.width.val < 16 by omega),
    Nat.mod_eq_of_lt t.pol.isLt, Nat.mod_eq_of_lt (hb _), Nat.mod_eq_of_lt (hb _), Nat.mod_eq_of_lt (hb _)⟩

theorem b2n_ne_zero (b : Bool) : decide (b2n b ≠ 0) = b := by cases b <;> rfl

/-! ## The down bits of a port (02 R82) -/

theorem State.walkPorts_congr {s t : State} (h : Reports s t) (d : Nat) : t.walkPorts d = s.walkPorts d := by
  unfold State.walkPorts
  rw [show t.dirWalk = s.dirWalk from (congrArg State.dirWalk h :)]

theorem State.downOnWay_congr {s t : State} (h : Reports s t) (d p : Nat) : t.downOnWay d p = s.downOnWay d p := by
  unfold State.downOnWay State.escOnWay
  rw [show t.xsrc = s.xsrc from (congrArg State.xsrc h :), show t.xin = s.xin from (congrArg State.xin h :),
    show t.xout = s.xout from (congrArg State.xout h :)]

theorem downReg_inj {d e p : Nat} (h : downReg d p = downReg e p) : d = e := by
  unfold downReg at h
  split at h <;> simp only [Csr.dirPortDownLo, Csr.dirPortDownHi, csrAddr] at h <;> omega

theorem State.portIsDown_fsetBit (s : State) (d p : Nat) :
    (s.fsetBit (downReg d p) DirPortDownLo.down (p % 32) false).portIsDown d p = false := by
  unfold State.portIsDown State.fsetBit
  rw [if_neg (by decide), State.fget_fset_same _ _ _ _ (by decide),
    bitOf_mod_two_pow (show p % 32 < DirPortDownLo.down.width from Nat.mod_lt _ (by decide)), bitOf_clrBitN]
  simp

/-- The down bits of a port clear at every die of a list whose pass for it has ended. -/
theorem State.clearPortDown_clears (s : State) (p : Nat) (ds : List Nat) :
    let t := s.clearPortDown p ds
    Reports s t ∧ OnlyRegs s t (ds.map (downReg · p)) ∧
      ∀ d ∈ ds, (s.walkPorts d).any (fun w => w.port == p) = false → s.downOnWay d p = false → t.portIsDown d p = false := by
  induction ds generalizing s with
  | nil => exact ⟨.refl s, .refl s _, by simp⟩
  | cons d ds ih =>
    intro t
    generalize hu : (if (s.walkPorts d).any (fun w => w.port == p) || s.downOnWay d p then s
      else s.fsetBit (downReg d p) DirPortDownLo.down (p % 32) false) = u
    have hsu : Reports s u ∧ OnlyRegs s u [downReg d p] := by
      rw [← hu]
      split
      · exact ⟨.refl s, .refl s _⟩
      · exact ⟨(Reports.refl s).fset _ _ _, (OnlyRegs.refl s _).fset (by simp) _ _⟩
    have ht : t = u.clearPortDown p ds := by rw [← hu]; rfl
    obtain ⟨hreps, hregs, hclear⟩ := ih u
    rw [ht]
    refine ⟨hsu.1.trans hreps, (hsu.2.mono (by simp)).trans (hregs.mono (by simp)), fun e he hwalk hway => ?_⟩
    by_cases hmem : e ∈ ds
    · exact hclear e hmem (by rw [State.walkPorts_congr hsu.1]; exact hwalk) ((State.downOnWay_congr hsu.1 e p).trans hway)
    · obtain rfl : e = d := (List.mem_cons.1 he).resolve_right hmem
      have hkept : (u.clearPortDown p ds).portIsDown e p = u.portIsDown e p := by
        unfold State.portIsDown
        rw [State.fget_congr (hregs _ fun hin => ?_)]
        obtain ⟨x, hx, hxe⟩ := List.mem_map.1 hin
        exact hmem (downReg_inj hxe ▸ hx)
      rw [hkept, ← hu, hwalk, hway]
      exact s.portIsDown_fsetBit e p

/-! ## LINK_UP (R24, R33, R55, R62) -/

theorem State.foldl_emit {α : Type} (s : State) (f : α → Emission) (l : List α) :
    l.foldl (fun (s : State) x => s.emit (f x)) s = { s with outbox := s.outbox ++ l.map f } := by
  induction l generalizing s with
  | nil => simp
  | cons x l ih => rw [List.foldl_cons, ih]; simp [State.emit]

/-- What the credits of a port advertise. -/
theorem State.advertise_eq (s : State) (p : Nat) (cxl : Bool) : s.advertise p cxl =
    { s with outbox := s.outbox ++ (creditTypes (s.portRole p) cxl).map (fun c => .credits p c c.limit.1 c.limit.2) } :=
  s.foldl_emit (fun c : CreditType => .credits p c c.limit.1 c.limit.2) _

/-- The link's side sends an offer of extended rate (R24 step 2). -/
def State.offers (s : State) (p : Nat) (t : Training) : Bool := t.cxl && !t.xrate && s.xrateEnabled p && !(s.portSt p).offerOut

theorem State.offer_writes (s : State) (p : Nat) (t : Training) :
    ∃ ports, s.offer p t = { s with
        ports := ports, outbox := s.outbox ++ if s.offers p t then [.xrateOffer p (s.dvsec p)] else [] } ∧
      SMap.get PortSt.reset ports p = { s.portSt p with offerOut := (s.portSt p).offerOut || s.offers p t } ∧
      ∀ q ≠ p, SMap.get PortSt.reset ports q = s.portSt q := by
  have hoffer : s.offer p t =
      if s.offers p t then (s.setPortSt p { s.portSt p with offerOut := true }).emit (.xrateOffer p (s.dvsec p)) else s := rfl
  cases ho : s.offers p t with
  | true =>
    rw [hoffer, ho, if_pos rfl]
    exact ⟨_, rfl, (s.portSt_setPortSt_same p _).trans (by rw [Bool.or_true]), fun q hq => s.portSt_setPortSt_ne _ hq⟩
  | false =>
    rw [hoffer, ho, if_neg (by decide)]
    exact ⟨s.ports, by simp, by rw [Bool.or_false]; rfl, fun _ _ => rfl⟩

/-- The mode and the role of a port, and what rests on them, follow the registers of its gateway. -/
theorem State.xrate_congr {s t : State} {p : Nat} (hpart : t.part = s.part)
    (hmode : t.csrGet (Csr.gwMode (portDie p) (portGw p)) = s.csrGet (Csr.gwMode (portDie p) (portGw p))) :
    t.xrateEnabled p = s.xrateEnabled p ∧ t.dvsec p = s.dvsec p := by
  unfold State.xrateEnabled State.dvsec State.maxRate State.fbit
  rw [State.fget_congr hmode, State.fget_congr hmode, hpart]
  exact ⟨rfl, rfl⟩

theorem State.offers_congr {s t : State} {p : Nat} (hpart : t.part = s.part) (hports : t.ports = s.ports)
    (hmode : t.csrGet (Csr.gwMode (portDie p) (portGw p)) = s.csrGet (Csr.gwMode (portDie p) (portGw p))) (x : Training) :
    t.offers p x = s.offers p x := by
  unfold State.offers
  rw [(State.xrate_congr hpart hmode).1, State.portSt_congr hports]

/-- The offer of a state that differs from `s` in registers and the outbox. -/
theorem State.offer_after {s b : State} {p : Nat} {out : List Emission} (hb : b = { s with csr := b.csr, outbox := out })
    (hmode : b.csrGet (Csr.gwMode (portDie p) (portGw p)) = s.csrGet (Csr.gwMode (portDie p) (portGw p))) (t : Training) :
    let u := b.offer p t
    u.csr = b.csr ∧ u.outbox = out ++ (if s.offers p t then [.xrateOffer p (s.dvsec p)] else []) ∧
      u.portSt p = { s.portSt p with offerOut := (s.portSt p).offerOut || s.offers p t } ∧ (∀ q ≠ p, u.portSt q = s.portSt q) ∧
      u = { s with csr := u.csr, ports := u.ports, outbox := u.outbox } := by
  have hpart : b.part = s.part := (congrArg State.part hb :)
  have hports : b.ports = s.ports := (congrArg State.ports hb :)
  obtain ⟨ports, hu, hp, hq⟩ := b.offer_writes p t
  rw [State.offers_congr hpart hports hmode, (State.xrate_congr hpart hmode).2] at hu
  rw [State.offers_congr hpart hports hmode, State.portSt_congr hports] at hp
  intro u
  have hu' : u = _ := hu
  clear_value u
  rw [hb] at hu'
  subst hu'
  exact ⟨rfl, rfl, hp, fun q hne => (hq q hne).trans (State.portSt_congr hports q), rfl⟩

/-- The credits that a port advertises as its link comes up (R33). -/
def State.advertised (s : State) (p : Nat) (cxl : Bool) : List Emission :=
  if s.portUp p then [] else (creditTypes (s.portRole p) cxl).map (fun c => .credits p c c.limit.1 c.limit.2)

theorem State.advertised_eq (s : State) (p : Nat) (cxl : Bool) :
    (if s.portUp p then s else s.advertise p cxl) = { s with outbox := s.outbox ++ s.advertised p cxl } := by
  unfold State.advertised
  split
  · rw [List.append_nil]
  · exact s.advertise_eq p cxl

/-- A link at L0, before it is reported: its status, credits and offer. -/
def State.linkAtL0 (s : State) (p : Nat) (t : Training) : State :=
  (State.csrSet { s with outbox := s.outbox ++ s.advertised p t.cxl } (linkSts p) (linkWord t)).offer p t

theorem State.linkAtL0_writes (s : State) (p : Nat) (t : Training) :
    let u := s.linkAtL0 p t
    u.csrGet (linkSts p) = linkWord t ∧ OnlyRegs s u [linkSts p] ∧
      u.outbox = s.outbox ++ s.advertised p t.cxl ++ (if s.offers p t then [.xrateOffer p (s.dvsec p)] else []) ∧
      u.portSt p = { s.portSt p with offerOut := (s.portSt p).offerOut || s.offers p t } ∧ (∀ q ≠ p, u.portSt q = s.portSt q) ∧
      u = { s with csr := u.csr, ports := u.ports, outbox := u.outbox } := by
  have hmode : Csr.gwMode (portDie p) (portGw p) ∉ [linkSts p] := by
    simp only [List.mem_singleton, linkSts, portDie, portGw, portSub, Csr.gwLinkSts, Csr.gwMode, csrAddr]
    omega
  unfold State.linkAtL0
  generalize s.advertised p t.cxl = es
  have hregs : OnlyRegs s (State.csrSet { s with outbox := s.outbox ++ es } (linkSts p) (linkWord t)) [linkSts p] :=
    .set (.of_csr rfl _) (by simp) _
  have hlink := State.csrGet_csrSet_same { s with outbox := s.outbox ++ es } (linkSts p) (linkWord t)
  have hrest := State.csrSet_rest { s with outbox := s.outbox ++ es } (linkSts p) (linkWord t)
  generalize State.csrSet { s with outbox := s.outbox ++ es } (linkSts p) (linkWord t) = b at hregs hlink hrest ⊢
  obtain ⟨hcsr, hout, hp, hq, hframe⟩ := State.offer_after hrest (hregs _ hmode) t
  exact ⟨(OnlyRegs.of_csr hcsr [] _ (by simp)).trans hlink, hregs.trans (.of_csr hcsr _), hout, hp, hq, hframe⟩

end Sys2Proof.Machine

end

section

/-! PROOFS. Links that come up, find no flit mode, and change rate: the first part of O26. -/

namespace Sys2Proof.Machine

/-! ## The registers that a port's events write -/

theorem downReg_ne (d p q : Nat) : downReg d p ≠ linkSts q ∧ downReg d p ≠ gwErr q := by
  unfold downReg
  simp only [linkSts, gwErr, portDie, portGw, portSub, Csr.gwLinkSts, Csr.gwErr, Csr.dirPortDownLo, Csr.dirPortDownHi, csrAddr]
  split <;> omega

theorem not_mem_downRegs {a p : Nat} (h : ∀ d, downReg d p ≠ a) (ds : List Nat) : a ∉ ds.map (downReg · p) := by
  simpa using fun d _ => h d

/-- What a change of `csr`, `ports` and `outbox` leaves alone, reports leave alone too. -/
theorem Reports.after_link {s u t : State} (hu : u = { s with csr := u.csr, ports := u.ports, outbox := u.outbox }) (h : Reports u t) :
    t = { s with csr := t.csr, ports := u.ports, outbox := u.outbox, queues := t.queues, windows := t.windows } := by
  unfold Reports at h
  rw [h, hu]

/-- What a change of `csr` and `ports` leaves alone, reports leave alone too. -/
theorem Reports.after_ports {s u t : State} (hu : u = { s with csr := u.csr, ports := u.ports }) (h : Reports u t) :
    t = { s with csr := t.csr, ports := t.ports, queues := t.queues, windows := t.windows } := by
  unfold Reports at h
  rw [h, hu]

theorem csrSet_after_ports {s u : State} (hu : u = { s with ports := u.ports }) (a : Nat) (w : Word) :
    u.csrSet a w = { s with csr := (u.csrSet a w).csr, ports := (u.csrSet a w).ports } := by
  have hset := u.csrSet_rest a w
  generalize u.csrSet a w = t at hset ⊢
  rw [hset, hu]

/-! ## LINK_UP (R24, R33, R55, R62) -/

/-- The reports of a link that came up: LINK_UP, and LANE_DEGRADE with its flag where the width is below the configured one. -/
def State.upReported (s : State) (p cfg : Nat) (t : Training) : State :=
  let u := s.noticeLim (portDie p) 0x0101 p
    [(1, p), (1, t.rate.val), (1, t.width.val), (1, 1), (1, b2n t.cxl), (1, b2n t.xrate)]
  if t.width.val < cfg then
    (u.flag (gwErr p) GwErr.degrade).noticeLim (portDie p) 0x0103 p [(1, p), (1, cfg), (1, t.width.val)]
  else u

theorem doLinkUp_eq {s : State} {p : Nat} {t : Training} (h : s.canTrain p t = true) :
    doLinkUp p t s = let u := (s.linkAtL0 p t).upReported p (s.portWidth p) t
      u.clearPortDown p (List.range u.part.dies) := by
  unfold doLinkUp State.linkAtL0
  rw [← State.advertised_eq, h]
  rfl

theorem State.upReported_writes (s : State) (p cfg : Nat) (t : Training) :
    let u := s.upReported p cfg t
    Reports s u ∧ OnlyRegs s u [gwErr p, Csr.ndQdropCnt (queueOf (portDie p))] ∧
      u.fget (gwErr p) GwErr.degrade = if t.width.val < cfg then 1 else s.fget (gwErr p) GwErr.degrade := by
  unfold State.upReported
  split
  · refine ⟨(((Reports.refl s).noticeLim ..).flag ..).noticeLim .., ?_, ?_⟩
    · exact (((OnlyRegs.refl s _).noticeLim (by simp) _ _ _).flag (by simp) _).noticeLim (by simp) _ _ _
    · rw [State.fget_noticeLim (gwErr_ne_drop _ _)]
      exact State.fget_flag_same _ _ _ (by decide) (by decide)
  · exact ⟨(Reports.refl s).noticeLim .., (OnlyRegs.refl s _).noticeLim (by simp) _ _ _, State.fget_noticeLim (gwErr_ne_drop _ _) _⟩

/-- LINK_UP: the status, the degrade flag, the down bits, the credits and the offer sent. -/
theorem doLinkUp_writes {s : State} {p : Nat} {t : Training} (h : s.canTrain p t = true) :
    let u := doLinkUp p t s
    u.csrGet (linkSts p) = linkWord t ∧
      u.fget (gwErr p) GwErr.degrade = (if t.width.val < s.portWidth p then 1 else s.fget (gwErr p) GwErr.degrade) ∧
      (∀ d < s.part.dies, (s.walkPorts d).any (fun w => w.port == p) = false → s.downOnWay d p = false →
        u.portIsDown d p = false) ∧
      u.outbox = s.outbox ++ s.advertised p t.cxl ++ (if s.offers p t then [.xrateOffer p (s.dvsec p)] else []) ∧
      u.portSt p = { s.portSt p with offerOut := (s.portSt p).offerOut || s.offers p t } ∧ (∀ q ≠ p, u.portSt q = s.portSt q) ∧
      u = { s with csr := u.csr, ports := u.ports, outbox := u.outbox, queues := u.queues, windows := u.windows } := by
  obtain ⟨hword, hregs, hout, hport, hothers, hframe⟩ := s.linkAtL0_writes p t
  rw [doLinkUp_eq h]
  generalize s.linkAtL0 p t = b at hword hregs hout hport hothers hframe ⊢
  obtain ⟨hrep, hrepRegs, hdegrade⟩ := b.upReported_writes p (s.portWidth p) t
  generalize b.upReported p (s.portWidth p) t = u at hrep hrepRegs hdegrade ⊢
  obtain ⟨hclear, hclearRegs, hbits⟩ := u.clearPortDown_clears p (List.range u.part.dies)
  have hpart : u.part = s.part := hrep.part.trans (congrArg State.part hframe :)
  intro w
  have hw : w = u.clearPortDown p (List.range u.part.dies) := rfl
  rw [← hw] at hclear hclearRegs hbits
  clear_value w
  have hbw : Reports b w := hrep.trans hclear
  have hcsr : ∀ a, (∀ d, downReg d p ≠ a) → w.csrGet a = u.csrGet a := fun a ha => hclearRegs a (not_mem_downRegs ha _)
  have hports : w.ports = b.ports := (congrArg State.ports hbw :)
  refine ⟨?_, ?_, fun d hd hwalk hway => ?_, ?_, ?_, fun q hq => ?_, ?_⟩
  · rw [hcsr _ fun d => (downReg_ne d p p).1, hrepRegs _ (by simp [linkSts_ne_gwErr, linkSts_ne_drop]), hword]
  · rw [State.fget_congr (hcsr _ fun d => (downReg_ne d p p).2), hdegrade,
      State.fget_congr (hregs _ (by simp [(linkSts_ne_gwErr p p).symm]))]
  · refine hbits d (List.mem_range.2 (hpart ▸ hd)) ?_ ?_
    · rw [State.walkPorts_congr hrep, State.walkPorts, show b.dirWalk = s.dirWalk from (congrArg State.dirWalk hframe :)]
      exact hwalk
    · rw [State.downOnWay_congr hrep, State.downOnWay, State.escOnWay, show b.xsrc = s.xsrc from (congrArg State.xsrc hframe :),
        show b.xin = s.xin from (congrArg State.xin hframe :), show b.xout = s.xout from (congrArg State.xout hframe :)]
      exact hway
  · rw [← hout]; exact (congrArg State.outbox hbw :)
  · rw [State.portSt_congr hports, hport]
  · rw [State.portSt_congr hports, hothers q hq]
  · rw [hports, show w.outbox = b.outbox from (congrArg State.outbox hbw :)]
    exact hbw.after_link hframe

/-! ## No flit mode (R20) -/

theorem doFlitModeAbsent_writes {s : State} {p : Nat} (h : s.portExists p = true) (hdie : s.dieOn (portDie p) = true)
    (hmay : s.mayTrain p = true) (hdown : s.fbit (linkSts p) GwLinkSts.up = false) :
    let t := doFlitModeAbsent p s
    t.csrGet (linkSts p) = 0 ∧ t.fget (gwErr p) GwErr.flitAbsent = 1 ∧
      OnlyRegs s t [linkSts p, gwErr p, Csr.ndQdropCnt (queueOf (portDie p))] ∧ Reports s t := by
  have hup : s.portUp p = false := by unfold State.portUp; rw [hdown, Bool.and_false]
  have heq : doFlitModeAbsent p s =
      ((s.csrSet (linkSts p) 0).flag (gwErr p) GwErr.flitAbsent).noticeLim (portDie p) 0x0105 p [(1, p)] := by
    unfold doFlitModeAbsent
    rw [h, hdie, hmay, hup]
    rfl
  rw [heq]
  refine ⟨?_, ?_, ?_, (((Reports.refl s).set ..).flag ..).noticeLim ..⟩
  · rw [State.noticeLim_onlyRegs _ _ _ _ _ _ (by simp [linkSts_ne_drop])]
    exact (State.csrGet_csrSet_ne _ _ (linkSts_ne_gwErr p p)).trans (State.csrGet_csrSet_same ..)
  · rw [State.fget_noticeLim (gwErr_ne_drop _ _)]
    exact State.fget_flag_same _ _ _ (by decide) (by decide)
  · exact (((OnlyRegs.refl s _).set (by simp) _).flag (by simp) _).noticeLim (by simp) _ _ _

/-! ## Extended rate (R24, R25) -/

/-- The offer of the partner makes a candidate, and the initiator enters Recovery. -/
theorem doXrateOffer_eq {s : State} {p : Nat} (lower : Bool) (hup : s.portUp p = true) (hcxl : s.fbit (linkSts p) GwLinkSts.cxl = true)
    (hen : s.xrateEnabled p = true) (hx : s.fbit (linkSts p) GwLinkSts.xrate = false) (hbar : (s.portSt p).barred = false)
    (hout : (s.portSt p).offerOut = true) :
    doXrateOffer p true true true lower s =
      let u := s.setPortSt p { s.portSt p with offerIn := true }
      if s.portRole p = 5 ∨ s.portRole p = 7 ∧ lower = true then u.fset (linkSts p) GwLinkSts.ltssm 0x18 else u := by
  have hcond : (s.portRole p == 5 || (s.portRole p == 7 && lower)) = decide (s.portRole p = 5 ∨ s.portRole p = 7 ∧ lower = true) := by
    rw [Bool.eq_iff_iff]; simp
  have hmodel : doXrateOffer p true true true lower s =
      let u := s.setPortSt p { s.portSt p with offerIn := true }
      if s.portRole p == 5 || (s.portRole p == 7 && lower) then u.fset (linkSts p) GwLinkSts.ltssm 0x18 else u := by
    unfold doXrateOffer
    rw [hup, hcxl, hen, hx, hout, hbar]
    rfl
  rw [hmodel, hcond]
  simp only [decide_eq_true_eq]

/-- A port whose record changed and whose LTSSM enters Recovery under a condition. -/
theorem recovers_writes {s u : State} (hu : u = { s with ports := u.ports }) (c : Prop) [Decidable c] (a p : Nat) :
    let t := if c then u.fset a GwLinkSts.ltssm 0x18 else u
    t.portSt p = u.portSt p ∧ (c → t.csrGet a = GwLinkSts.ltssm.put (s.csrGet a) 0x18) ∧ (¬ c → t.csrGet a = s.csrGet a) ∧
      OnlyRegs s t [a] ∧ t = { s with csr := t.csr, ports := t.ports } := by
  have hcsr : u.csr = s.csr := (congrArg State.csr hu :)
  have hread : ∀ a, u.csrGet a = s.csrGet a := fun a => OnlyRegs.of_csr hcsr [] a (by simp)
  by_cases h : c
  · rw [if_pos h]
    refine ⟨State.portSt_congr (congrArg State.ports (u.csrSet_rest _ _) :) p, fun _ => ?_, absurd h,
      (OnlyRegs.of_csr hcsr _).fset (by simp) _ _, csrSet_after_ports hu _ _⟩
    exact (State.csrGet_csrSet_same ..).trans (by rw [hread])
  · rw [if_neg h]
    exact ⟨rfl, fun hc => absurd hc h, fun _ => hread a, .of_csr hcsr _, by rw [hu]⟩

theorem doXrateOffer_writes {s : State} {p : Nat} (lower : Bool) (hup : s.portUp p = true) (hcxl : s.fbit (linkSts p) GwLinkSts.cxl = true)
    (hen : s.xrateEnabled p = true) (hx : s.fbit (linkSts p) GwLinkSts.xrate = false) (hbar : (s.portSt p).barred = false)
    (hout : (s.portSt p).offerOut = true) :
    let t := doXrateOffer p true true true lower s
    t.portSt p = { s.portSt p with offerIn := true } ∧
      ((s.portRole p = 5 ∨ s.portRole p = 7 ∧ lower = true) → t.csrGet (linkSts p) = GwLinkSts.ltssm.put (s.csrGet (linkSts p)) 0x18) ∧
      (¬ (s.portRole p = 5 ∨ s.portRole p = 7 ∧ lower = true) → t.csrGet (linkSts p) = s.csrGet (linkSts p)) ∧
      OnlyRegs s t [linkSts p] ∧ t = { s with csr := t.csr, ports := t.ports } := by
  rw [doXrateOffer_eq lower hup hcxl hen hx hbar hout]
  have hframe : s.setPortSt p { s.portSt p with offerIn := true } =
    { s with ports := (s.setPortSt p { s.portSt p with offerIn := true }).ports } := rfl
  obtain ⟨hport, hrest⟩ := recovers_writes hframe (s.portRole p = 5 ∨ s.portRole p = 7 ∧ lower = true) (linkSts p) p
  exact ⟨hport.trans (s.portSt_setPortSt_same p _), hrest⟩

theorem State.up_of_portUp {s : State} {p : Nat} (h : s.portUp p = true) : s.fget (linkSts p) GwLinkSts.up = 1 := by
  have hbit : s.fget (linkSts p) GwLinkSts.up ≠ 0 := of_decide_eq_true (Bool.and_eq_true_iff.1 h).2
  have hlt : s.fget (linkSts p) GwLinkSts.up < 2 := GwLinkSts.up.get_lt _
  omega

/-- A return to 64 GT/s. -/
theorem State.xrateBack_writes {s : State} {p : Nat} (reason : Nat) (hup : s.portUp p = true) :
    let t := s.xrateBack p reason
    t.fget (linkSts p) GwLinkSts.rate = 5 ∧ t.fget (linkSts p) GwLinkSts.xrate = 0 ∧ t.fget (linkSts p) GwLinkSts.ltssm = 0x20 ∧
      t.fget (linkSts p) GwLinkSts.up = 1 ∧ t.fget (gwErr p) GwErr.xrateFb = 1 ∧
      (t.portSt p).barred = true ∧ OnlyRegs s t [linkSts p, gwErr p, Csr.ndQdropCnt (queueOf (portDie p))] ∧
      t = { s with csr := t.csr, ports := t.ports, queues := t.queues, windows := t.windows } := by
  unfold State.xrateBack
  have hport := s.portSt_setPortSt_same p { s.portSt p with barred := true }
  have hframe : s.setPortSt p { s.portSt p with barred := true } =
    { s with ports := (s.setPortSt p { s.portSt p with barred := true }).ports } := rfl
  have hcsr : (s.setPortSt p { s.portSt p with barred := true }).csr = s.csr := rfl
  generalize s.setPortSt p { s.portSt p with barred := true } = u at hport hframe hcsr ⊢
  have hread : ∀ a, u.csrGet a = s.csrGet a := fun a => OnlyRegs.of_csr hcsr [] a (by simp)
  obtain ⟨w, hw⟩ : ∃ w, w = ((u.fset (linkSts p) GwLinkSts.ltssm 0x20).fset (linkSts p) GwLinkSts.rate 5).fset (linkSts p) GwLinkSts.xrate 0 :=
    ⟨_, rfl⟩
  have hfields : w.fget (linkSts p) GwLinkSts.rate = 5 ∧ w.fget (linkSts p) GwLinkSts.xrate = 0 ∧
      w.fget (linkSts p) GwLinkSts.ltssm = 0x20 ∧ w.fget (linkSts p) GwLinkSts.up = u.fget (linkSts p) GwLinkSts.up := by
    rw [hw]
    simp (disch := decide) only [State.fget_fset_same, State.fget_fset_disjoint]
    decide
  have huw : Reports u w ∧ OnlyRegs u w [linkSts p] := hw ▸
    ⟨(((Reports.refl u).fset ..).fset ..).fset .., (((OnlyRegs.refl u _).fset (by simp) _ _).fset (by simp) _ _).fset (by simp) _ _⟩
  simp only [← hw]
  have hreps : Reports u ((w.flag (gwErr p) GwErr.xrateFb).noticeLim (portDie p) 0x0104 p [(1, p), (1, reason)]) :=
    (huw.1.flag ..).noticeLim ..
  have hlink : ((w.flag (gwErr p) GwErr.xrateFb).noticeLim (portDie p) 0x0104 p [(1, p), (1, reason)]).csrGet (linkSts p) =
      w.csrGet (linkSts p) :=
    (State.noticeLim_onlyRegs _ _ _ _ _ _ (by simp [linkSts_ne_drop])).trans (State.csrGet_csrSet_ne _ _ (linkSts_ne_gwErr p p))
  have hfb : ((w.flag (gwErr p) GwErr.xrateFb).noticeLim (portDie p) 0x0104 p [(1, p), (1, reason)]).fget (gwErr p) GwErr.xrateFb = 1 := by
    rw [State.fget_noticeLim (gwErr_ne_drop _ _)]
    exact State.fget_flag_same _ _ _ (by decide) (by decide)
  have hregs : OnlyRegs u ((w.flag (gwErr p) GwErr.xrateFb).noticeLim (portDie p) 0x0104 p [(1, p), (1, reason)])
      [linkSts p, gwErr p, Csr.ndQdropCnt (queueOf (portDie p))] :=
    ((huw.2.mono (by simp)).flag (by simp) _).noticeLim (by simp) _ _ _
  generalize (w.flag (gwErr p) GwErr.xrateFb).noticeLim (portDie p) 0x0104 p [(1, p), (1, reason)] = t at hreps hlink hfb hregs ⊢
  obtain ⟨hrate, hxrate, hltssm, hkept⟩ := hfields
  refine ⟨(State.fget_congr hlink _).trans hrate, (State.fget_congr hlink _).trans hxrate, (State.fget_congr hlink _).trans hltssm,
    (State.fget_congr hlink _).trans (hkept.trans ((State.fget_congr (hread _) _).trans (State.up_of_portUp hup))), hfb, ?_,
    fun a ha => (hregs a ha).trans (hread a), ?_⟩
  · exact congrArg PortSt.barred ((State.portSt_congr (congrArg State.ports hreps :) p).trans hport)
  · exact hreps.after_ports (by rw [hframe])

/-- A failed attempt returns the link to 64 GT/s. -/
theorem doXrateFallback_eq {s : State} {p : Nat} (hup : s.portUp p = true) (hout : (s.portSt p).offerOut = true)
    (hin : (s.portSt p).offerIn = true) (hbar : (s.portSt p).barred = false) (hx : s.fbit (linkSts p) GwLinkSts.xrate = false) :
    doXrateFallback p s = s.xrateBack p 0 := by
  unfold doXrateFallback State.xrateCandidate
  rw [hup, hout, hin, hbar, hx]
  rfl

/-- The ninth Recovery within 1 ms does too. -/
theorem doXrateRecoveryFallback_eq {s : State} {p : Nat} (hup : s.portUp p = true) (hx : s.fbit (linkSts p) GwLinkSts.xrate = true) :
    doXrateRecoveryFallback p s = s.xrateBack p 1 := by
  unfold doXrateRecoveryFallback
  rw [hup, hx]
  rfl

end Sys2Proof.Machine

end

section

/-! PROOFS. Links that go down, and viral: the second part of O26. -/

namespace Sys2Proof.Machine

/-! ## What waits to enter a crossbar (01 R36) -/

/-- A message waits at a crossbar input, or at its source for credits there. -/
def State.Waits (s : State) (k : Nat) (x : XMsg) : Prop := x ∈ SMap.get [] s.xin k ∨ x ∈ SMap.get [] s.xsrc k

theorem SMap.mem_get_set {m : SMap (List XMsg)} {k j : Nat} {x y : XMsg} (h : x ∈ SMap.get [] m j) :
    x ∈ SMap.get [] (SMap.set [] m k (SMap.get [] m k ++ [y])) j := by
  by_cases hj : j = k
  · rw [hj, SMap.get_set_same]
    exact List.mem_append_left _ (hj ▸ h)
  · rwa [SMap.get_set_ne _ _ _ _ hj]

theorem SMap.get_set_last (m : SMap (List XMsg)) (k : Nat) (y : XMsg) :
    y ∈ SMap.get [] (SMap.set [] m k (SMap.get [] m k ++ [y])) k := by
  rw [SMap.get_set_same]
  exact List.mem_append_right _ (List.mem_singleton_self y)

/-- A message handed to a crossbar waits there, and what waited still does. -/
theorem State.inject_waits (s : State) (d e : Nat) (m : Msg) (die ep : Nat) :
    let t := s.inject d e m die ep
    t.Waits (xkey d e (m.g Hd.vc)) ⟨s.serial, m, die, ep⟩ ∧ ∀ k x, s.Waits k x → t.Waits k x := by
  unfold State.inject State.injectX
  split
  · exact ⟨.inl (SMap.get_set_last _ _ _), fun k x h => h.imp_left SMap.mem_get_set⟩
  · exact ⟨.inr (SMap.get_set_last _ _ _), fun k x h => h.imp_right SMap.mem_get_set⟩

/-- One message handed to a crossbar for each of several dies. -/
theorem State.foldl_inject (s : State) (d e : Nat) (m : Msg) (ep : Nat) (hs : List Nat) :
    let t := hs.foldl (fun (s : State) h => s.inject d e m h ep) s
    Drains s t ∧ t.csr = s.csr ∧ t.xout = s.xout ∧ (∀ k x, s.Waits k x → t.Waits k x) ∧
      ∀ h ∈ hs, ∃ x : XMsg, t.Waits (xkey d e (m.g Hd.vc)) x ∧ x.msg = m ∧ x.die = h := by
  induction hs generalizing s with
  | nil => exact ⟨.refl s, rfl, rfl, fun _ _ h => h, by simp⟩
  | cons h hs ih =>
    rw [List.foldl_cons]
    obtain ⟨hnew, hold⟩ := s.inject_waits d e m h ep
    have hdrains := (Drains.refl s).inject d e m h ep
    have hcsr : (s.inject d e m h ep).csr = s.csr := State.inject_csr ..
    have hxout : (s.inject d e m h ep).xout = s.xout := State.inject_xout ..
    generalize s.inject d e m h ep = u at hnew hold hdrains hcsr hxout ⊢
    obtain ⟨hd, hc, hx, hkept, hall⟩ := ih u
    refine ⟨hdrains.trans hd, hc.trans hcsr, hx.trans hxout, fun k x hw => hkept k x (hold k x hw), fun j hj => ?_⟩
    rcases List.mem_cons.1 hj with rfl | hj
    · exact ⟨_, hkept _ _ hnew, rfl, rfl⟩
    · exact hall j hj

theorem SMap.mem_of_mem_get {m : SMap (List XMsg)} {k : Nat} {x : XMsg} (h : x ∈ SMap.get [] m k) : ∃ e ∈ m, e.1 = k ∧ x ∈ e.2 := by
  induction m with
  | nil => exact absurd h (by simp [SMap.get, SMap.find])
  | cons e m ih =>
    obtain ⟨j, q⟩ := e
    by_cases hj : j = k
    · rw [SMap.get, SMap.find_cons, if_pos hj] at h
      exact ⟨(j, q), by simp, hj, h⟩
    · rw [SMap.get, SMap.find_cons, if_neg hj] at h
      obtain ⟨e, he, hk, hx⟩ := ih h
      exact ⟨e, List.mem_cons_of_mem _ he, hk, hx⟩

/-- An ESC message that waits is on its way. -/
theorem State.Waits.escOnWay {s : State} {k : Nat} {x : XMsg} {p : XMsg → Bool} (h : s.Waits k x) (hk : k % 8 = 4) (hp : p x = true) :
    s.escOnWay p = true := by
  have hany : ∀ m : SMap (List XMsg), x ∈ SMap.get [] m k → m.any (fun e => e.1 % 8 == 4 && e.2.any p) = true := fun m hx => by
    obtain ⟨e, he, rfl, hxe⟩ := SMap.mem_of_mem_get hx
    rw [List.any_eq_true]
    exact ⟨e, he, by rw [hk]; exact List.any_eq_true.2 ⟨x, hxe, hp⟩⟩
  rw [State.escOnWay, List.any_eq_true]
  rcases h with h | h
  · exact ⟨s.xin, by simp, hany _ h⟩
  · exact ⟨s.xsrc, by simp, hany _ h⟩

/-! ## The port-down messages (01 R54) -/

/-- The message of a port that went down. -/
def downMsg (p : Nat) : Msg := (((escMsg .escDown).w Hd.port p).w Hd.srcDie (portDie p)).w Hd.srcIdx (p % 8)

theorem downMsg_fields {p : Nat} (hp : p < 64) : (downMsg p).name = .escDown ∧ (downMsg p).g Hd.port = p ∧ (downMsg p).g Hd.vc = 4 := by
  have hsame : ((escMsg .escDown).w Hd.port p).g Hd.port = p :=
    (Msg.g_w_same _ _ _ (by decide)).trans (Nat.mod_eq_of_lt hp)
  unfold downMsg
  refine ⟨by simp [escMsg], ?_, ?_⟩
  · rw [Msg.g_w_apart _ _ _ _ (by decide), Msg.g_w_apart _ _ _ _ (by decide), hsame]
  · rw [Msg.g_w_apart _ _ _ _ (by decide), Msg.g_w_apart _ _ _ _ (by decide), Msg.g_w_apart _ _ _ _ (by decide), escMsg,
      Msg.g_w_same _ _ _ (by decide)]
    rfl

/-- Every die's slice is told of a port that went down. -/
def State.downTold (s : State) (p : Nat) : State := s.sendPortDown p false (List.range s.part.dies)

theorem State.downTold_drains (s : State) {p : Nat} (hp : p < 64) :
    let t := s.downTold p
    Drains s t ∧ t.csr = s.csr ∧ t.xout = s.xout ∧ ∀ h < s.part.dies, t.downOnWay h p = true := by
  obtain ⟨hname, hport, hvc⟩ := downMsg_fields hp
  obtain ⟨hdrains, hcsr, hxout, -, hall⟩ := s.foldl_inject (portDie p) (p % 8) (downMsg p) 11 (List.range s.part.dies)
  refine ⟨hdrains, hcsr, hxout, fun h hh => ?_⟩
  obtain ⟨x, hw, hm, hd⟩ := hall h (List.mem_range.2 hh)
  refine hw.escOnWay (by rw [hvc]; unfold xkey; omega) ?_
  rw [hm, hd, hname, hport]
  simp

/-! ## A link goes down (01 R54) -/

/-- From `s` to `t` nothing changed but registers, the crossbar, what left the device, and notices. -/
def Sends (s t : State) : Prop :=
  t = { s with
    csr := t.csr, xout := t.xout, xsrc := t.xsrc, xin := t.xin, serial := t.serial, outbox := t.outbox, queues := t.queues,
    windows := t.windows }

/-- From `s` to `t` nothing changed but what a link that goes down changes. -/
def Falls (s t : State) : Prop :=
  t = { s with
    csr := t.csr, ports := t.ports, cfgWords := t.cfgWords, tags := t.tags, xout := t.xout, xsrc := t.xsrc, xin := t.xin,
    serial := t.serial, outbox := t.outbox, queues := t.queues, windows := t.windows }

section
variable {s t u : State}

theorem Sends.trans (h : Sends s t) (h' : Sends t u) : Sends s u := by
  unfold Sends at h'
  rw [h'.trans (by rw [h] : _ = { s with
    csr := u.csr, xout := u.xout, xsrc := u.xsrc, xin := u.xin, serial := u.serial, outbox := u.outbox, queues := u.queues,
    windows := u.windows })]
  rfl

theorem Drains.sends (h : Drains s t) : Sends s t := by
  unfold Drains at h
  rw [h]
  rfl

theorem Reports.sends (h : Reports s t) : Sends s t := by
  unfold Reports at h
  rw [h]
  rfl

theorem Falls.refl (s : State) : Falls s s := rfl

theorem Falls.trans (h : Falls s t) (h' : Falls t u) : Falls s u := by
  unfold Falls at h'
  rw [h'.trans (by rw [h] : _ = { s with
    csr := u.csr, ports := u.ports, cfgWords := u.cfgWords, tags := u.tags, xout := u.xout, xsrc := u.xsrc, xin := u.xin,
    serial := u.serial, outbox := u.outbox, queues := u.queues, windows := u.windows })]
  rfl

theorem Sends.falls (h : Sends s t) : Falls s t := by
  unfold Sends at h
  rw [h]
  rfl

end

/-- What a port forgets as its link goes down: its record, what software wrote to its configuration spaces, its tags. -/
def State.linkForgotten (s : State) (p : Nat) : State :=
  let u := (s.setPortSt p PortSt.reset).cfgClear p
  { u with tags := u.tags.filter (·.port != p) }

/-- The report of a link that went down. -/
def State.downReported (s : State) (p cause : Nat) : State :=
  (s.flag (gwErr p) GwErr.linkDown).noticeLim (portDie p) 0x0102 p [(1, p), (1, cause)]

/-- The status of a link that is down: Disabled, or Detect. -/
def downWord (cause : Nat) : Word := if cause == 3 || cause == 4 then GwLinkSts.ltssm.put (0 : Word) 0x30 else 0

theorem State.takeDown_up {s : State} {p : Nat} (cause : Nat) (h : s.fbit (linkSts p) GwLinkSts.up = true) :
    s.takeDown p cause false =
      ((((s.csrSet (linkSts p) (downWord cause)).linkForgotten p).emptyEgress (portDie p) (p % 8) (p % 8)
        [0, 1, 2, 3, 4]).downReported p cause).downTold p := by
  unfold State.takeDown State.downTold State.linkForgotten State.downReported downWord
  simp only [h, Bool.not_true, Bool.false_eq_true, if_false]

theorem State.takeDown_down {s : State} {p : Nat} (cause : Nat) (quiet : Bool) (h : s.fbit (linkSts p) GwLinkSts.up = false) :
    s.takeDown p cause quiet = s := by
  unfold State.takeDown
  simp only [h, Bool.not_false, if_true]

/-- The registers that a link's going down writes. -/
def downRegs (p : Nat) : List Nat :=
  [linkSts p, gwErr p, Csr.ndQdropCnt (queueOf (portDie p))] ++ [0, 1, 2, 3, 4].map (Csr.xbCredit (portDie p) (p % 8))

theorem SMap.get_drop {α : Type} (dflt : α) (m : SMap α) {f : Nat → Bool} {k : Nat} (h : f k = true) :
    SMap.get dflt (SMap.drop f m) k = dflt := by
  induction m with
  | nil => rfl
  | cons e m ih =>
    obtain ⟨j, v⟩ := e
    by_cases hj : f j = true
    · rw [SMap.drop, List.filter_cons_of_neg (by simp [hj])]; exact ih
    · rw [SMap.drop, List.filter_cons_of_pos (by simp [hj]), SMap.get, SMap.find_cons, if_neg (fun hjk : j = k => hj (hjk ▸ h))]; exact ih

theorem State.linkForgotten_writes (s : State) (p : Nat) :
    let t := s.linkForgotten p
    t.csr = s.csr ∧ t.portSt p = PortSt.reset ∧ (∀ r ∈ t.tags, r.port ≠ p) ∧
      (∀ fn < 8, ∀ i < 512, t.cfgWord p fn i = 0) ∧ Falls s t := by
  refine ⟨rfl, s.portSt_setPortSt_same p PortSt.reset, fun r hr => ?_, fun fn hfn i hi => ?_, rfl⟩
  · simpa using (List.mem_filter.1 hr).2
  · have hkey : cfgKey p fn i / 4096 = p := by unfold cfgKey; omega
    exact SMap.get_drop 0 s.cfgWords (f := fun k => k / 4096 == p) (beq_iff_eq.2 hkey)

theorem State.downReported_writes (s : State) (p cause : Nat) :
    let t := s.downReported p cause
    t.fget (gwErr p) GwErr.linkDown = 1 ∧ OnlyRegs s t [gwErr p, Csr.ndQdropCnt (queueOf (portDie p))] ∧ Reports s t := by
  unfold State.downReported
  refine ⟨?_, ((OnlyRegs.refl s _).flag (by simp) _).noticeLim (by simp) _ _ _, ((Reports.refl s).flag ..).noticeLim ..⟩
  rw [State.fget_noticeLim (gwErr_ne_drop _ _)]
  exact State.fget_flag_same _ _ _ (by decide) (by decide)

theorem xbCredit_ne (d p q v : Nat) (hv : v < 5) : Csr.xbCredit d (p % 8) v ≠ linkSts q ∧ Csr.xbCredit d (p % 8) v ≠ gwErr q := by
  simp only [linkSts, gwErr, portDie, portGw, portSub, Csr.gwLinkSts, Csr.gwErr, Csr.xbCredit, csrAddr]
  omega

/-- The status and the errors of a port are no credits of an egress. -/
theorem not_mem_credits (d p q : Nat) :
    linkSts q ∉ [0, 1, 2, 3, 4].map (Csr.xbCredit d (p % 8)) ∧ gwErr q ∉ [0, 1, 2, 3, 4].map (Csr.xbCredit d (p % 8)) := by
  constructor <;> intro h <;> obtain ⟨v, hv, he⟩ := List.mem_map.1 h
  · exact (xbCredit_ne d p q v (by simp at hv; omega)).1 he
  · exact (xbCredit_ne d p q v (by simp at hv; omega)).2 he

/-- A link that was up goes down: what its registers say, what is discarded, and who is told. -/
theorem State.takeDown_writes {s : State} {p : Nat} (hp : p < 64) (cause : Nat) (h : s.fbit (linkSts p) GwLinkSts.up = true) :
    let t := s.takeDown p cause false
    t.csrGet (linkSts p) = downWord cause ∧ t.fget (gwErr p) GwErr.linkDown = 1 ∧
      (∀ v < 5, SMap.get [] t.xout (xkey (portDie p) (p % 8) v) = []) ∧ (∀ r ∈ t.tags, r.port ≠ p) ∧
      (∀ d < s.part.dies, t.downOnWay d p = true) ∧ t.portSt p = PortSt.reset ∧ (∀ fn < 8, ∀ i < 512, t.cfgWord p fn i = 0) ∧
      OnlyRegs s t (downRegs p) ∧ Falls s t := by
  rw [State.takeDown_up cause h]
  have hword := s.csrGet_csrSet_same (linkSts p) (downWord cause)
  have hset : OnlyRegs s _ [linkSts p] := (OnlyRegs.refl s _).set (List.mem_singleton_self _) (downWord cause)
  have hsetFalls : Falls s _ := ((Reports.refl s).set (linkSts p) (downWord cause)).sends.falls
  generalize s.csrSet (linkSts p) (downWord cause) = a at hword hset hsetFalls ⊢
  obtain ⟨hcsr, hport, htags, hcfg, hfalls⟩ := a.linkForgotten_writes p
  generalize a.linkForgotten p = b at hcsr hport htags hcfg hfalls ⊢
  obtain ⟨hdrains, hcredits, hout⟩ := b.emptyEgress_drains (portDie p) (p % 8) (p % 8) [0, 1, 2, 3, 4]
  generalize b.emptyEgress (portDie p) (p % 8) (p % 8) [0, 1, 2, 3, 4] = c at hdrains hcredits hout ⊢
  obtain ⟨hdown, hrepRegs, hreps⟩ := c.downReported_writes p cause
  generalize c.downReported p cause = u at hdown hrepRegs hreps ⊢
  obtain ⟨hsent, hsentCsr, hsentOut, hway⟩ := u.downTold_drains hp
  generalize u.downTold p = t at hsent hsentCsr hsentOut hway ⊢
  have hbu : Sends b u := hdrains.sends.trans hreps.sends
  have hbt : Sends b t := hbu.trans hsent.sends
  have hsu : Falls s u := (hsetFalls.trans hfalls).trans hbu.falls
  have hxout : t.xout = c.xout := hsentOut.trans (congrArg State.xout hreps :)
  have hbtRegs : OnlyRegs b t ([gwErr p, Csr.ndQdropCnt (queueOf (portDie p))] ++ [0, 1, 2, 3, 4].map (Csr.xbCredit (portDie p) (p % 8))) :=
    ((hcredits.mono (List.subset_append_right _ _)).trans (hrepRegs.mono (List.subset_append_left _ _))).trans (.of_csr hsentCsr _)
  have hstRegs : OnlyRegs s t (downRegs p) :=
    ((hset.mono (by simp [downRegs])).trans (.of_csr hcsr _)).trans (hbtRegs.mono (by simp [downRegs]))
  refine ⟨?_, ?_, fun v hv => ?_, fun r hr => ?_, fun d hd => ?_, ?_, fun fn hfn i hi => ?_, hstRegs, hsu.trans hsent.sends.falls⟩
  · have hnot : linkSts p ∉ [gwErr p, Csr.ndQdropCnt (queueOf (portDie p))] ++ [0, 1, 2, 3, 4].map (Csr.xbCredit (portDie p) (p % 8)) := by
      rw [List.mem_append, not_or]
      exact ⟨by simp [linkSts_ne_gwErr, linkSts_ne_drop], (not_mem_credits _ _ _).1⟩
    exact (hbtRegs _ hnot).trans ((OnlyRegs.of_csr hcsr [] _ (by simp)).trans hword)
  · exact (State.fget_congr (OnlyRegs.of_csr hsentCsr [] _ (by simp)) _).trans hdown
  · rw [hxout, hout, if_pos (List.mem_map.2 ⟨v, by simp; omega, rfl⟩)]
  · exact htags r ((congrArg State.tags hbt :) ▸ hr)
  · exact hway d ((congrArg Part.dies (congrArg State.part hsu :)) ▸ hd)
  · exact (State.portSt_congr (show t.ports = b.ports from (congrArg State.ports hbt :)) p).trans hport
  · exact (congrArg (SMap.get 0 · (cfgKey p fn i)) (congrArg State.cfgWords hbt :)).trans (hcfg fn hfn i hi)

theorem downWord_causeCode (c : DownCause) :
    downWord (causeCode c) = if c = .disable ∨ c = .dpc then GwLinkSts.ltssm.put (0 : Word) 0x30 else 0 := by
  cases c <;> rfl

/-! ## Viral (01 R56) -/

theorem gwErr_inj {p q : Nat} (h : gwErr p = gwErr q) : p = q := by
  simp only [gwErr, portDie, portGw, portSub, Csr.gwErr, csrAddr] at h
  omega

/-- A port marked viral. -/
def State.markViral (s : State) (p : Nat) : State := (s.setPortSt p { s.portSt p with viral := true }).flag (gwErr p) GwErr.viral

theorem State.markViral_writes (s : State) (p : Nat) :
    let t := s.markViral p
    (t.portSt p).viral = true ∧ t.fget (gwErr p) GwErr.viral = 1 ∧ (∀ q ≠ p, t.portSt q = s.portSt q) ∧ OnlyRegs s t [gwErr p] ∧
      t = { s with csr := t.csr, ports := t.ports } := by
  unfold State.markViral
  have hport := s.portSt_setPortSt_same p { s.portSt p with viral := true }
  have hothers : ∀ q ≠ p, _ := fun q hq => s.portSt_setPortSt_ne { s.portSt p with viral := true } hq
  have hframe : s.setPortSt p { s.portSt p with viral := true } =
    { s with ports := (s.setPortSt p { s.portSt p with viral := true }).ports } := rfl
  generalize s.setPortSt p { s.portSt p with viral := true } = u at hport hothers hframe ⊢
  have hports : (u.flag (gwErr p) GwErr.viral).ports = u.ports := (congrArg State.ports (u.csrSet_rest _ _) :)
  refine ⟨congrArg PortSt.viral ((State.portSt_congr hports p).trans hport), State.fget_flag_same _ _ _ (by decide) (by decide),
    fun q hq => (State.portSt_congr hports q).trans (hothers q hq), ?_, csrSet_after_ports hframe _ _⟩
  exact (OnlyRegs.of_csr (congrArg State.csr hframe :) _).flag (List.mem_singleton_self _) _

/-- The ports of a list marked viral, in order. -/
theorem State.setViral_writes (s : State) (ps : List Nat) :
    let t := s.setViral ps
    (∀ q ∈ ps, (t.portSt q).viral = true ∧ t.fget (gwErr q) GwErr.viral = 1) ∧ (∀ q ∉ ps, t.portSt q = s.portSt q) ∧
      OnlyRegs s t (ps.map gwErr) ∧ t = { s with csr := t.csr, ports := t.ports } := by
  induction ps generalizing s with
  | nil => exact ⟨by simp, fun _ _ => rfl, .refl s _, rfl⟩
  | cons p ps ih =>
    obtain ⟨hviral, herr, hothers, hregs, hframe⟩ := s.markViral_writes p
    have hstep : s.setViral (p :: ps) = (s.markViral p).setViral ps := rfl
    rw [hstep]
    generalize s.markViral p = u at hviral herr hothers hregs hframe ⊢
    obtain ⟨hall, hkept, hregs', hframe'⟩ := ih u
    generalize u.setViral ps = t at hall hkept hregs' hframe' ⊢
    refine ⟨fun q hq => ?_, fun q hq => ?_, ?_, by rw [hframe', hframe]⟩
    · by_cases hmem : q ∈ ps
      · exact hall q hmem
      · obtain rfl : q = p := (List.mem_cons.1 hq).resolve_right hmem
        have hreg : gwErr q ∉ ps.map gwErr := fun h => by
          obtain ⟨r, hr, he⟩ := List.mem_map.1 h
          exact hmem (gwErr_inj he ▸ hr)
        exact ⟨(congrArg PortSt.viral (hkept q hmem)).trans hviral, (State.fget_congr (hregs' _ hreg) _).trans herr⟩
    · rw [List.mem_cons, not_or] at hq
      exact (hkept q hq.2).trans (hothers q hq.1)
    · exact (hregs.mono (by simp)).trans (hregs'.mono (by simp))

/-- Viral at a port of group 0 stays with that port. -/
theorem State.viral_alone {s : State} {p by_ : Nat} (h : s.portGroup p = 0) : s.viral p by_ = s.setViral [p] := by
  unfold State.viral
  rw [h]
  rfl

/-- Viral at a port of another group marks every member, and is reported once. -/
theorem State.viral_group {s : State} {p by_ : Nat} (h : s.portGroup p ≠ 0)
    (hnew : ∃ q < s.part.dies * 8, s.viralMember (s.portGroup p) q = true ∧ (s.portSt q).viral = false) :
    s.viral p by_ = (s.setViral (s.allPorts.filter (s.viralMember (s.portGroup p)))).noticeLim (portDie p) 0x0109 p
      [(1, s.portGroup p), (1, by_)] := by
  have hall : ((s.allPorts.filter (s.viralMember (s.portGroup p))).all fun q => (s.portSt q).viral) = false := by
    obtain ⟨q, hq, hmem, hno⟩ := hnew
    rw [List.all_eq_false]
    exact ⟨q, List.mem_filter.2 ⟨List.mem_range.2 hq, hmem⟩, by simp [hno]⟩
  unfold State.viral
  simp only [beq_iff_eq, h, hall, if_false, Bool.false_eq_true]

theorem State.viral_group_writes {s : State} {p by_ : Nat} (h : s.portGroup p ≠ 0)
    (hnew : ∃ q < s.part.dies * 8, s.viralMember (s.portGroup p) q = true ∧ (s.portSt q).viral = false) :
    let t := s.viral p by_
    (∀ q < s.part.dies * 8, s.viralMember (s.portGroup p) q = true → (t.portSt q).viral = true ∧ t.fget (gwErr q) GwErr.viral = 1) ∧
      (∀ q, ¬ (q < s.part.dies * 8 ∧ s.viralMember (s.portGroup p) q = true) → t.portSt q = s.portSt q) ∧
      t = { s with csr := t.csr, ports := t.ports, queues := t.queues, windows := t.windows } := by
  rw [State.viral_group h hnew]
  have hmem : ∀ q, q ∈ s.allPorts.filter (s.viralMember (s.portGroup p)) ↔ q < s.part.dies * 8 ∧ s.viralMember (s.portGroup p) q = true :=
    fun q => by rw [List.mem_filter, State.allPorts, List.mem_range]
  obtain ⟨hall, hkept, -, hframe⟩ := s.setViral_writes (s.allPorts.filter (s.viralMember (s.portGroup p)))
  generalize s.setViral (s.allPorts.filter (s.viralMember (s.portGroup p))) = u at hall hkept hframe ⊢
  have hports : ∀ fs, (u.noticeLim (portDie p) 0x0109 p fs).ports = u.ports := fun fs => (congrArg State.ports (u.noticeLim_rest _ _ _ _) :)
  refine ⟨fun q hq hm => ?_, fun q hq => (State.portSt_congr (hports _) q).trans (hkept q (mt (hmem q).1 hq)), ?_⟩
  · obtain ⟨hviral, herr⟩ := hall q ((hmem q).2 ⟨hq, hm⟩)
    exact ⟨(congrArg PortSt.viral (State.portSt_congr (hports _) q)).trans hviral, (State.fget_noticeLim (gwErr_ne_drop _ _) _).trans herr⟩
  · exact Reports.after_ports hframe ((Reports.refl u).noticeLim ..)

end Sys2Proof.Machine

end

section

/-! PROOFS. PERST_n, and O26. -/

namespace Sys2Proof.Machine

/-! ## Reset kinds (00 R12) -/

/-- A field after reset kinds: its Reset value where its row says so, else as before. -/
theorem clearedBy_get {a : Nat} {r : RegRow} (h : findRow a = some r) {f : RegField} (hf : f ∈ r.fields) (ks : List Kind) (w : Word) :
    f.fld.get (clearedBy ks a w) = if f.clr.any (ks.contains ·) then f.fld.get (resetOf a) else f.fld.get w := by
  obtain ⟨hp, hl⟩ := everyRow_fields_sound r (findRow_mem h)
  unfold clearedBy
  rw [h]
  refine foldl_fields_get (val := fun f old => if f.clr.any (ks.contains ·) then f.fld.get (resetOf a) else old)
    (fun w f g hfg => ?_) (fun f hf w => ?_) hp hf w
  · split
    · exact Fld.get_put_apart f.fld g.fld w _ hfg
    · rfl
  · split
    · rw [Fld.get_put_same _ _ _ (hl f hf)]
      exact Nat.mod_eq_of_lt (f.fld.get_lt _)
    · rfl

/-- Every listed word of a register has 0 in a field. -/
def State.FieldZero (s : State) (a : Nat) (f : Fld) : Prop := ∀ e ∈ s.csr, e.1 = a → f.get e.2 = 0

theorem SMap.mem_of_find {α : Type} {m : SMap α} {k : Nat} {v : α} (h : SMap.find m k = some v) : (k, v) ∈ m := by
  induction m with
  | nil => exact absurd h (by simp [SMap.find])
  | cons e m ih =>
    obtain ⟨j, w⟩ := e
    rw [SMap.find_cons] at h
    split at h
    · next hj => rw [← hj, Option.some.inj h]; exact List.mem_cons_self
    · exact List.mem_cons_of_mem _ (ih h)

theorem State.FieldZero.fget {s : State} {a : Nat} {f : Fld} (h : s.FieldZero a f) (hreset : f.get (resetOf a) = 0) : s.fget a f = 0 := by
  unfold State.fget State.csrGet SMap.get
  cases hfind : SMap.find s.csr a with
  | none => exact hreset
  | some w => exact h _ (SMap.mem_of_find hfind) rfl

theorem State.mem_resetCsr {s : State} {ks : List Kind} {p : Nat → Bool} {e : Nat × Word} (h : e ∈ (s.resetCsr ks p).csr) :
    ∃ w, (e.1, w) ∈ s.csr ∧ e.2 = if p e.1 then clearedBy ks e.1 w else w := by
  obtain ⟨b, hb, rfl⟩ := List.mem_map.1 (List.mem_filter.1 h).1
  exact ⟨b.2, hb, rfl⟩

/-- Reset kinds bring a field they clear to 0. -/
theorem State.resetCsr_clears (s : State) {a : Nat} {r : RegRow} (h : findRow a = some r) {f : RegField} (hf : f ∈ r.fields)
    {ks : List Kind} (hclr : f.clr.any (ks.contains ·) = true) {p : Nat → Bool} (hp : p a = true) (hreset : f.fld.get (resetOf a) = 0) :
    (s.resetCsr ks p).FieldZero a f.fld := by
  rintro e he rfl
  obtain ⟨w, -, hw⟩ := State.mem_resetCsr he
  rw [hw, if_pos hp, clearedBy_get h hf, if_pos hclr, hreset]

/-- Reset kinds leave a field at 0 in registers that they do not reach. -/
theorem State.FieldZero.resetCsr {s : State} {a : Nat} {f : Fld} (h : s.FieldZero a f) (ks : List Kind) {p : Nat → Bool} (hp : p a = false) :
    (s.resetCsr ks p).FieldZero a f := by
  rintro e he rfl
  obtain ⟨w, hmem, hw⟩ := State.mem_resetCsr he
  rw [hw, if_neg (by simp [hp])]
  exact h _ hmem rfl

theorem SMap.find_mapVals {α : Type} [DecidableEq α] {dflt : Nat → α} {f : Nat → α → α} {m : SMap α} {k : Nat} {v : α}
    (h : SMap.find m k = some v) (hne : f k v ≠ dflt k) : SMap.find (SMap.mapVals dflt f m) k = some (f k v) := by
  induction m with
  | nil => exact absurd h (by simp [SMap.find])
  | cons e m ih =>
    obtain ⟨j, w⟩ := e
    unfold SMap.mapVals at ih ⊢
    rw [SMap.find_cons] at h
    rw [List.map_cons]
    split at h
    · next hj =>
      obtain rfl : w = v := Option.some.inj h
      subst hj
      rw [List.filter_cons_of_pos (by simpa using hne), SMap.find_cons, if_pos rfl]
    · next hj =>
      by_cases hw : f j w ≠ dflt j
      · rw [List.filter_cons_of_pos (by simpa using hw), SMap.find_cons, if_neg hj]; exact ih h
      · rw [List.filter_cons_of_neg (by simpa using hw)]; exact ih h

/-- A field that reset kinds do not clear keeps a value other than its Reset value. -/
theorem State.resetCsr_keeps_field {s : State} {a : Nat} {r : RegRow} (h : findRow a = some r) {f : RegField} (hf : f ∈ r.fields)
    {ks : List Kind} (hclr : f.clr.any (ks.contains ·) = false) (p : Nat → Bool) (hne : s.fget a f.fld ≠ f.fld.get (resetOf a)) :
    (s.resetCsr ks p).fget a f.fld = s.fget a f.fld := by
  have hreads : ∀ {u : State} {w : Word}, SMap.find u.csr a = some w → u.csrGet a = w := fun hu => by
    unfold State.csrGet SMap.get; rw [hu]; rfl
  cases hfind : SMap.find s.csr a with
  | none => exact absurd (by unfold State.fget State.csrGet SMap.get; rw [hfind]; rfl) hne
  | some w =>
    have hget : f.fld.get (if p a then clearedBy ks a w else w) = f.fld.get w := by
      split
      · rw [clearedBy_get h hf, hclr]; rfl
      · rfl
    unfold State.fget at hne ⊢
    rw [hreads hfind] at hne ⊢
    rw [hreads (SMap.find_mapVals (f := fun a w => if p a then clearedBy ks a w else w) hfind
      fun he => hne (by rw [← hget]; exact congrArg f.fld.get he)), hget]

/-! ## The rows of a port's status and errors -/

theorem findRow_port : ∀ d < 8, ∀ g < 2, ∀ k < 4,
    findRow (Csr.gwLinkSts d g k) = some Rg.gwLinkSts ∧ findRow (Csr.gwErr d g k) = some Rg.gwErr := by
  decide +kernel

theorem isGw_port {d g k : Nat} (hg : g < 2) (hk : k < 4) :
    isGw d g (Csr.gwLinkSts d g k) = true ∧ isGw d g (Csr.gwErr d g k) = true := by
  simp only [isGw, dieOf, blockOf, Csr.gwLinkSts, Csr.gwErr, csrAddr, Bool.and_eq_true, beq_iff_eq]
  omega

/-- The fields of a port's status and errors that reset kind G clears (Table 01-2). -/
theorem gwLinkSts_cleared : ∀ f ∈ [GwLinkSts.ltssm, GwLinkSts.rate, GwLinkSts.width, GwLinkSts.up],
    ∃ rf ∈ Rg.gwLinkSts.fields, rf.fld = f ∧ rf.clr.any ([Kind.g].contains ·) = true ∧ rf.reset = 0 := by
  decide

theorem gwErr_cleared : ∃ rf ∈ Rg.gwErr.fields, rf.fld = GwErr.flitAbsent ∧ rf.clr.any ([Kind.g].contains ·) = true ∧ rf.reset = 0 := by
  decide

theorem gwErr_linkDown_kept :
    ∃ rf ∈ Rg.gwErr.fields, rf.fld = GwErr.linkDown ∧ rf.clr.any ([Kind.g].contains ·) = false ∧ rf.reset = 0 := by
  decide

theorem resetOf_zero {a : Nat} {r : RegRow} (h : findRow a = some r) (hr : r = Rg.gwLinkSts ∨ r = Rg.gwErr) {f : RegField} (hf : f ∈ r.fields)
    (hz : f.reset = 0) : f.fld.get (resetOf a) = 0 := by
  have hbase : r.base ≠ Rg.xbCredit.base ∧ r.base ≠ Rg.bankInfo.base := by rcases hr with rfl | rfl <;> decide
  rw [resetOf_field h hbase.1 hbase.2 hf, hz, Nat.zero_mod]

/-! ## The reset of a gateway (01 R57) -/

/-- The mailboxes' registers, MB_INFO excepted. -/
def mailboxReg (a : Nat) : Bool := dieOf a == stw && blockOf a == 4 && a != Csr.mbInfo

/-- Reset kind G of a gateway, on the management port's with the mailboxes. -/
def State.gwReset (s : State) (d g : Nat) : State :=
  let u := s.resetCsr [.g] (isGw d g)
  if u.mgmtPort / 4 == 2 * d + g then
    { u.resetCsr [.g] mailboxReg with mboxes := [], bar := barReset }
  else u

theorem doPerstAssert_eq {s : State} {d : Nat} (g : Nat) (h : s.populated d = true) :
    doPerstAssert d g s =
      (State.takeDownAll { s with perst := setBitN s.perst (2 * d + g) } 1 false (gwPorts d g)).gwReset d g := by
  unfold doPerstAssert State.gwReset mailboxReg
  simp only [h, Bool.not_true, Bool.false_eq_true, if_false]

theorem State.gwReset_perst (s : State) (d g : Nat) : (s.gwReset d g).perst = s.perst := by
  unfold State.gwReset
  dsimp only
  split <;> rfl

/-- The registers after the reset are those of one pass, or of a second over the mailboxes. -/
theorem State.gwReset_csr (s : State) (d g : Nat) :
    (s.gwReset d g).csr = (s.resetCsr [.g] (isGw d g)).csr ∨
      (s.gwReset d g).csr = ((s.resetCsr [.g] (isGw d g)).resetCsr [.g] mailboxReg).csr := by
  unfold State.gwReset
  dsimp only
  split
  · exact .inr rfl
  · exact .inl rfl

theorem State.fget_of_csr {s t : State} (h : t.csr = s.csr) (a : Nat) (f : Fld) : t.fget a f = s.fget a f :=
  State.fget_congr (OnlyRegs.of_csr h [] a (by simp)) f

section
variable {s : State} {d g a : Nat} {r : RegRow} {f : RegField}

/-- A field of a gateway's register that kind G clears reads 0. -/
theorem State.gwReset_clears (s : State) (ha : isGw d g a = true) (hd : d ≠ stw) (h : findRow a = some r) (hf : f ∈ r.fields)
    (hclr : f.clr.any ([Kind.g].contains ·) = true) (hz : f.fld.get (resetOf a) = 0) : (s.gwReset d g).fget a f.fld = 0 := by
  have hfirst := s.resetCsr_clears h hf hclr ha hz
  have hout : mailboxReg a = false := by
    have hdie : dieOf a = d := beq_iff_eq.1 (Bool.and_eq_true_iff.1 ha).1
    unfold mailboxReg
    rw [hdie, beq_eq_false_iff_ne.2 hd, Bool.false_and, Bool.false_and]
  rcases s.gwReset_csr d g with hcsr | hcsr
  · exact (State.fget_of_csr hcsr _ _).trans (hfirst.fget hz)
  · exact (State.fget_of_csr hcsr _ _).trans ((hfirst.resetCsr [.g] hout).fget hz)

/-- A field of a register that kind G does not clear keeps a value other than its Reset value. -/
theorem State.gwReset_keeps (h : findRow a = some r) (hf : f ∈ r.fields) (hclr : f.clr.any ([Kind.g].contains ·) = false)
    (hne : s.fget a f.fld ≠ f.fld.get (resetOf a)) (d g : Nat) : (s.gwReset d g).fget a f.fld = s.fget a f.fld := by
  have hfirst := State.resetCsr_keeps_field h hf hclr (isGw d g) hne
  rcases s.gwReset_csr d g with hcsr | hcsr
  · exact (State.fget_of_csr hcsr _ _).trans hfirst
  · exact (State.fget_of_csr hcsr _ _).trans ((State.resetCsr_keeps_field h hf hclr mailboxReg (hfirst.symm ▸ hne)).trans hfirst)

end

/-! ## The ports of a gateway taken down (01 R57) -/

theorem not_mem_downRegs_of_ne {p q : Nat} (h : q ≠ p) : linkSts q ∉ downRegs p ∧ gwErr q ∉ downRegs p := by
  have hlink : linkSts q ≠ linkSts p := fun he => h (linkSts_inj he)
  have herr : gwErr q ≠ gwErr p := fun he => h (gwErr_inj he)
  obtain ⟨hcl, hce⟩ := not_mem_credits (portDie p) p q
  unfold downRegs
  rw [List.mem_append, List.mem_append, not_or, not_or]
  exact ⟨⟨by simp [hlink, linkSts_ne_gwErr, linkSts_ne_drop], hcl⟩,
    by simp [herr, (linkSts_ne_gwErr p q).symm, gwErr_ne_drop], hce⟩

/-- A link taken down, up or not: LINK_DOWN stays set at every port, and no other port's link changes. -/
theorem State.takeDown_sets_linkDown (s : State) {p : Nat} (hp : p < 64) (cause : Nat) :
    let t := s.takeDown p cause false
    Falls s t ∧ (∀ q, s.fget (gwErr q) GwErr.linkDown = 1 → t.fget (gwErr q) GwErr.linkDown = 1) ∧
      (s.fbit (linkSts p) GwLinkSts.up = true → t.fget (gwErr p) GwErr.linkDown = 1) ∧
      ∀ q ≠ p, t.fbit (linkSts q) GwLinkSts.up = s.fbit (linkSts q) GwLinkSts.up := by
  cases hup : s.fbit (linkSts p) GwLinkSts.up with
  | false =>
    rw [State.takeDown_down cause false hup]
    exact ⟨.refl s, fun _ h => h, fun h => absurd h (by decide), fun _ _ => rfl⟩
  | true =>
    obtain ⟨-, hdown, -, -, -, -, -, hregs, hfalls⟩ := State.takeDown_writes hp cause hup
    refine ⟨hfalls, fun q hq => ?_, fun _ => hdown, fun q hq => ?_⟩
    · by_cases hqp : q = p
      · rw [hqp]; exact hdown
      · exact (State.fget_congr (hregs _ (not_mem_downRegs_of_ne hqp).2) _).trans hq
    · unfold State.fbit
      rw [State.fget_congr (hregs _ (not_mem_downRegs_of_ne hq).1)]

theorem State.takeDownAll_writes (s : State) (cause : Nat) {ps : List Nat} (hps : ∀ p ∈ ps, p < 64) :
    let t := s.takeDownAll cause false ps
    Falls s t ∧ (∀ q, s.fget (gwErr q) GwErr.linkDown = 1 → t.fget (gwErr q) GwErr.linkDown = 1) ∧
      ∀ p ∈ ps, s.fbit (linkSts p) GwLinkSts.up = true → t.fget (gwErr p) GwErr.linkDown = 1 := by
  induction ps generalizing s with
  | nil => exact ⟨.refl s, fun _ h => h, by simp⟩
  | cons p ps ih =>
    obtain ⟨hfalls, hkept, hdown, hothers⟩ := s.takeDown_sets_linkDown (hps p (by simp)) cause
    rw [State.takeDownAll]
    generalize s.takeDown p cause false = u at hfalls hkept hdown hothers ⊢
    obtain ⟨hfalls', hkept', hall⟩ := ih u fun q hq => hps q (List.mem_cons_of_mem _ hq)
    refine ⟨hfalls.trans hfalls', fun q hq => hkept' q (hkept q hq), fun q hq hup => ?_⟩
    by_cases hqp : q = p
    · rw [hqp] at hup ⊢; exact hkept' p (hdown hup)
    · exact hall q ((List.mem_cons.1 hq).resolve_left hqp) ((hothers q hqp).trans hup)

/-- PERST_n asserted: the gateway's ports are down, kept from training, and their fields of kind G clear. -/
theorem doPerstAssert_writes {s : State} {d g : Nat} (hd : d < 8) (hg : g < 2) (h : s.populated d = true) :
    let t := doPerstAssert d g s
    bitOf t.perst (2 * d + g) = true ∧ ∀ k < 4,
      (∀ f ∈ [GwLinkSts.ltssm, GwLinkSts.rate, GwLinkSts.width, GwLinkSts.up], t.fget (Csr.gwLinkSts d g k) f = 0) ∧
      t.fget (Csr.gwErr d g k) GwErr.flitAbsent = 0 ∧
      (s.fbit (Csr.gwLinkSts d g k) GwLinkSts.up = true → t.fget (Csr.gwErr d g k) GwErr.linkDown = 1) := by
  have hports : ∀ p ∈ gwPorts d g, p < 64 := by
    intro p hp
    obtain ⟨k, hk, rfl⟩ := List.mem_map.1 hp
    rw [List.mem_range] at hk
    omega
  rw [doPerstAssert_eq g h]
  obtain ⟨hfalls, -, hdown⟩ := State.takeDownAll_writes { s with perst := setBitN s.perst (2 * d + g) } 1 hports
  have hstart : ∀ a f, State.fbit { s with perst := setBitN s.perst (2 * d + g) } a f = s.fbit a f := fun _ _ => rfl
  have hperst : State.perst { s with perst := setBitN s.perst (2 * d + g) } = setBitN s.perst (2 * d + g) := rfl
  generalize ({ s with perst := setBitN s.perst (2 * d + g) } : State) = u at hfalls hdown hstart hperst ⊢
  generalize u.takeDownAll 1 false (gwPorts d g) = w at hfalls hdown ⊢
  refine ⟨?_, fun k hk => ?_⟩
  · rw [State.gwReset_perst, show w.perst = u.perst from (congrArg State.perst hfalls :), hperst, bitOf_setBitN]
    simp
  · obtain ⟨hlinkRow, herrRow⟩ := findRow_port d hd g hg k hk
    obtain ⟨hlinkGw, herrGw⟩ := isGw_port (d := d) hg hk
    have hstw : d ≠ stw := by unfold stw; omega
    refine ⟨fun f hf => ?_, ?_, fun hup => ?_⟩
    · obtain ⟨rf, hrf, rfl, hclr, hz⟩ := gwLinkSts_cleared f hf
      exact w.gwReset_clears hlinkGw hstw hlinkRow hrf hclr (resetOf_zero hlinkRow (.inl rfl) hrf hz)
    · obtain ⟨rf, hrf, hfld, hclr, hz⟩ := gwErr_cleared
      exact hfld ▸ w.gwReset_clears herrGw hstw herrRow hrf hclr (resetOf_zero herrRow (.inr rfl) hrf hz)
    · obtain ⟨rf, hrf, hfld, hclr, hz⟩ := gwErr_linkDown_kept
      have hnames : gwErr (d * 8 + g * 4 + k) = Csr.gwErr d g k ∧ linkSts (d * 8 + g * 4 + k) = Csr.gwLinkSts d g k := by
        simp only [gwErr, linkSts, portDie, portGw, portSub, Csr.gwErr, Csr.gwLinkSts, csrAddr]
        omega
      have hset : w.fget (Csr.gwErr d g k) GwErr.linkDown = 1 := by
        rw [← hnames.1]
        exact hdown _ (List.mem_map.2 ⟨k, List.mem_range.2 hk, rfl⟩) (by rw [hstart, hnames.2]; exact hup)
      rw [← hfld] at hset ⊢
      exact (State.gwReset_keeps herrRow hrf hclr (by rw [hset, resetOf_zero herrRow (.inr rfl) hrf hz]; decide) d g).trans hset

theorem State.mayTrain_gateway (s : State) {d g k : Nat} (hg : g < 2) (hk : k < 4) :
    s.mayTrain (d * 8 + g * 4 + k) = (s.pastStep1 d && !bitOf s.perst (2 * d + g)) := by
  have hdie : portDie (d * 8 + g * 4 + k) = d := by unfold portDie; omega
  have hgw : portGw (d * 8 + g * 4 + k) = g := by unfold portGw; omega
  rw [State.mayTrain, hdie, hgw]

theorem doPerstDeassert_writes (s : State) (d : Nat) {g : Nat} (hg : g < 2) :
    let t := doPerstDeassert d g s
    bitOf t.perst (2 * d + g) = false ∧ (s.pastStep1 d = true → ∀ k < 4, t.mayTrain (d * 8 + g * 4 + k) = true) ∧
      t = { s with perst := t.perst } := by
  have hbit : bitOf (doPerstDeassert d g s).perst (2 * d + g) = false := by
    unfold doPerstDeassert
    rw [bitOf_clrBitN]
    simp
  refine ⟨hbit, fun hpast k hk => ?_, rfl⟩
  rw [State.mayTrain_gateway _ hg hk, hbit]
  exact (Bool.and_true _).trans hpast

/-! ## O26 -/

/-- Settles O26: each event by what its own lemma says it writes; at a link that goes down by the port-down messages that wait
for every slice, and at PERST_n by the fields that reset kind G clears in every listed word. -/
theorem linkStates : Obligations.LinkStates := by
  refine ⟨?_, ?_, ?_, ?_⟩
  · intro p s ls er drop role
    refine ⟨fun t ht => ⟨_, rfl, ?_⟩, fun hex hdie hmay hdown => ⟨_, rfl, doFlitModeAbsent_writes hex hdie hmay hdown⟩,
      fun lower hup hcxl hen hx hbar hout => ⟨_, rfl, doXrateOffer_writes lower hup hcxl hen hx hbar hout⟩, ?_⟩
    · obtain ⟨hword, hdegrade, hbits, hout, hport, hothers, hframe⟩ := doLinkUp_writes ht
      obtain ⟨hltssm, hup, hflit, hrate, hwidth, hpol, hrev, hcxl, hxrate⟩ := linkWord_fields t
      have hget : ∀ f : Fld, (doLinkUp p t s).fget ls f = f.get (linkWord t) := fun f => congrArg f.get hword
      have hbit : ∀ (f : Fld) (b : Bool), f.get (linkWord t) = b2n b → (doLinkUp p t s).fbit ls f = b := fun f b h => by
        unfold State.fbit
        rw [hget, h, b2n_ne_zero]
      exact ⟨(hget _).trans hltssm, (hget _).trans hup, (hget _).trans hflit, (hget _).trans hrate, (hget _).trans hwidth,
        (hget _).trans hpol, hbit _ _ hrev, hbit _ _ hcxl, hbit _ _ hxrate, hdegrade, hbits, ⟨hout, hport, hothers⟩, hframe⟩
    · refine List.forall_mem_cons.2 ⟨fun hup hcand => ?_, List.forall_mem_singleton.2 fun hup hx => ?_⟩
      · obtain ⟨hout, hin, hbar, hx⟩ := hcand
        exact ⟨_, congrArg Host.Outcome.next (doXrateFallback_eq hup hout hin hbar hx), State.xrateBack_writes 0 hup⟩
      · exact ⟨_, congrArg Host.Outcome.next (doXrateRecoveryFallback_eq hup hx), State.xrateBack_writes 1 hup⟩
  · intro p c s d ls hex hup
    obtain ⟨hword, hdown, hout, htags, hway, hport, hcfg, -, hfalls⟩ := State.takeDown_writes p.isLt (causeCode c) hup
    exact ⟨_, congrArg Host.Outcome.next (if_pos hex), hword.trans (downWord_causeCode c), hdown, hout, htags, hway, hport, hcfg,
      (congrArg State.ingress hfalls :)⟩
  · intro p s hup hcxl g marked
    have hentry : doViralEntry p s = s.viral p p := if_pos (Bool.and_eq_true_iff.2 ⟨hup, hcxl⟩)
    refine ⟨fun hg => ?_, fun hg hnew => ⟨_, congrArg Host.Outcome.next hentry, State.viral_group_writes hg hnew⟩⟩
    obtain ⟨hall, hkept, hregs, hframe⟩ := s.setViral_writes [p]
    obtain ⟨hviral, herr⟩ := hall p (List.mem_singleton_self _)
    exact ⟨_, congrArg Host.Outcome.next (hentry.trans (State.viral_alone hg)), hviral, herr,
      fun q hq => hkept q (by simpa using hq), hregs, hframe⟩
  · intro d g s hpop
    obtain ⟨hperst, hports⟩ := doPerstAssert_writes d.isLt g.isLt hpop
    obtain ⟨hclear, htrain, hframe⟩ := doPerstDeassert_writes s d g.isLt
    refine ⟨⟨_, rfl, hperst, fun k => ?_⟩, _, rfl, hclear, fun hpast k => htrain hpast k k.isLt, hframe⟩
    obtain ⟨hfields, habsent, hdown⟩ := hports k k.isLt
    refine ⟨hfields, ?_, habsent, hdown⟩
    rw [State.mayTrain_gateway _ g.isLt k.isLt, hperst]
    exact Bool.and_false _

end Sys2Proof.Machine

end

section

/-! PROOFS. The directory's shared rules: what a slice hands to its crossbar input and takes out of its buffer, the fields of its
messages, its notices, and its entries and transactions. -/

namespace Sys2Proof.Machine

/-! ## Messages handed to a crossbar input -/

@[simp] theorem Msg.w_metaV (m : Msg) (f : Fld) (v : Nat) : (m.w f v).metaV = m.metaV := rfl

theorem State.inject_serial (s : State) (d e : Nat) (m : Msg) (die ep : Nat) : (s.inject d e m die ep).serial = s.serial + 1 := by
  unfold State.inject State.injectX
  split <;> rfl

/-- The queues of the crossbar's inputs, the number of the next message: a message handed over changes nothing else. -/
theorem State.inject_eq (s : State) (d e : Nat) (m : Msg) (die ep : Nat) :
    let t := s.inject d e m die ep
    t = { s with xin := t.xin, xsrc := t.xsrc, serial := s.serial + 1 } :=
  (s.inject_rest d e die ep m).trans (by rw [State.inject_serial])

theorem State.inject_frame {s t : State} {d e : Nat} {m : Msg} {die ep : Nat} (h : t = s.inject d e m die ep) :
    t = { s with xin := t.xin, xsrc := t.xsrc, serial := s.serial + 1 } := by
  subst h
  exact s.inject_eq d e m die ep

/-- Where a message goes rests only on what waits at the input. -/
theorem State.inject_entered {s u : State} (hin : u.xin = s.xin) (hsrc : u.xsrc = s.xsrc) (hserial : u.serial = s.serial)
    (d e : Nat) (m : Msg) (die ep : Nat) : Entered s (u.inject d e m die ep) d e ⟨s.serial, m, die, ep⟩ := by
  unfold Entered State.inject State.injectX State.fitsIn
  rw [hin, hsrc, hserial]
  split <;> exact ⟨rfl, rfl⟩

theorem Entered.of_queues {s u t : State} {d e : Nat} {x : XMsg} (h : Entered u t d e x) (hin : u.xin = s.xin) (hsrc : u.xsrc = s.xsrc) :
    Entered s t d e x := by
  unfold Entered State.injectX State.fitsIn at h ⊢
  rw [hin, hsrc] at h
  split at h
  · rename_i hfits
    rwa [if_pos hfits]
  · rename_i hfits
    rwa [if_neg hfits]

/-- What is on its way into a crossbar through one channel of an input, oldest first. -/
def State.queued (s : State) (k : Nat) : List XMsg := SMap.get [] s.xin k ++ SMap.get [] s.xsrc k

theorem State.inject_queued (s : State) (d e : Nat) (m : Msg) (die ep k : Nat) :
    (s.inject d e m die ep).queued k = s.queued k ++ if k = xkey d e (m.g Hd.vc) then [⟨s.serial, m, die, ep⟩] else [] := by
  unfold State.queued State.inject State.injectX
  by_cases hk : k = xkey d e (m.g Hd.vc)
  · subst hk
    rw [if_pos rfl]
    split
    · rename_i hfits
      have hempty : SMap.get [] s.xsrc (xkey d e (m.g Hd.vc)) = [] :=
        List.isEmpty_iff.1 (Bool.and_eq_true_iff.1 hfits).1
      simp [hempty]
    · simp
  · rw [if_neg hk, List.append_nil]
    split
    · rw [SMap.get_set_ne _ _ _ _ hk]
    · rw [SMap.get_set_ne _ _ _ _ hk]

/-! ## What a slice sends -/

/-- A request to memory, or the reply in its place when its route misses, is handed to the slice's crossbar input (02 R74). -/
theorem State.dirMem_injects (s : State) (d : Nat) (m : Msg) : ∃ m' die ep, s.dirMem d m = s.inject d 11 m' die ep := by
  unfold State.dirMem
  dsimp only
  split
  · exact ⟨_, _, _, rfl⟩
  · split
    · exact ⟨_, _, _, rfl⟩
    · exact ⟨_, _, _, rfl⟩

theorem State.dirRespond_engine (s : State) (d : Nat) {r : DirReq} (h : 8 ≤ r.sidx) (m : Msg) :
    s.dirRespond d r m = s.injectReply d 11 (((m.w Hd.dkind 4).w Hd.destDie r.sdie).w Hd.destIdx r.sidx) :=
  if_pos (decide_eq_true h)

theorem State.dirRespond_port (s : State) (d : Nat) {r : DirReq} (h : r.sidx < 8) (m : Msg) :
    ∃ acc, s.dirRespond d r m = State.sendToPort { s with dirAcc := acc } d 11 m r.port := by
  unfold State.dirRespond
  rw [if_neg (by simpa [DirReq.fromEngine] using h)]
  dsimp only
  split
  · exact ⟨s.dirAcc, rfl⟩
  · exact ⟨_, rfl⟩

/-- A response of the directory changes what waits to enter the crossbar, and what a port's egress is to accept (R79). -/
theorem State.dirRespond_frame (s : State) (d : Nat) (r : DirReq) (m : Msg) :
    let t := s.dirRespond d r m
    t = { s with xin := t.xin, xsrc := t.xsrc, serial := s.serial + 1, dirAcc := t.dirAcc } := by
  intro t
  by_cases h : 8 ≤ r.sidx
  · have ht : t = s.inject d 11 _ _ _ := s.dirRespond_engine d h m
    clear_value t
    rw [State.inject_frame ht]
  · obtain ⟨acc, ht⟩ := s.dirRespond_port d (Nat.not_le.1 h) m
    change t = _ at ht
    clear_value t
    rw [State.inject_frame ht]

/-- The fields of the directory's response that tell its channel, its poison, its request and its outcome (02 R75; 03 R132). -/
theorem dirReply_fields (d : Nat) (r : DirReq) (data : Option (BitVec 512)) (pois : Bool) (entry : BitVec 64) (ms status : Nat) :
    let m := dirReply d r data pois entry ms status
    m.g Hd.vc = (if data.isSome then 3 else 1) ∧ m.g Hd.poison = b2n (data.isSome && pois) ∧ m.g Hd.xtag = r.msg.g Hd.xtag ∧
      m.g Hd.status = status % 2 ^ 8 ∧ m.beats = data.toList := by
  have hxtag : r.msg.g Hd.xtag < 2 ^ 16 := Fld.get_lt Hd.xtag r.msg.hdr
  unfold dirReply
  refine ⟨?_, ?_, ?_, ?_, by simp⟩
  · simp (disch := decide) only [Msg.g_w_same, Msg.g_w_apart]
    cases data <;> rfl
  · simp (disch := decide) only [Msg.g_w_same, Msg.g_w_apart]
    cases data <;> cases pois <;> rfl
  · simp (disch := decide) only [Msg.g_w_same, Msg.g_w_apart]
    exact Nat.mod_eq_of_lt hxtag
  · simp (disch := decide) only [Msg.g_w_same]
    rfl

/-- The answer to an engine: a reply to the die and endpoint of its source index (03 R132). -/
theorem State.dirRespond_engine_reply {s u : State} (hin : u.xin = s.xin) (hsrc : u.xsrc = s.xsrc) (hserial : u.serial = s.serial)
    (d : Nat) {r : DirReq} (h : 8 ≤ r.sidx) (m : Msg) :
    ∃ z : XMsg, z.msg.g Hd.dkind = 4 ∧ z.msg.g Hd.status = m.g Hd.status ∧ z.msg.g Hd.xtag = m.g Hd.xtag ∧ z.die = r.sdie % 8 ∧
      z.ep = endpointOf (r.sidx % 2 ^ 7) ∧ z.id = s.serial ∧ Entered s (u.dirRespond d r m) d 11 z := by
  rw [State.dirRespond_engine u d h, State.injectReply]
  refine ⟨_, ?_, ?_, ?_, ?_, ?_, ?_, State.inject_entered hin hsrc hserial d 11 _ _ _⟩
  · simp (disch := decide) only [Msg.g_w_same, Msg.g_w_apart]; rfl
  · simp (disch := decide) only [Msg.g_w_apart]
  · simp (disch := decide) only [Msg.g_w_apart]
  · simp (disch := decide) only [Msg.g_w_same, Msg.g_w_apart]; rfl
  · simp (disch := decide) only [Msg.g_w_same]; rfl
  · rfl

/-! ## What a slice takes out of its buffer -/

/-- From `s` to `u` the slice of die `d` took the head of its buffer on channel `v`, and returned its credits (01 R36). -/
structure State.Took (s u : State) (d v : Nat) (rest : List XMsg) : Prop where
  taken : SMap.get [] u.xout (xkey d 11 v) = rest
  regs : OnlyRegs s u [Csr.xbCredit d 11 v]
  frame : u = { s with csr := u.csr, xout := u.xout }

theorem State.takeOut_took {s : State} {d v : Nat} {x : XMsg} {rest : List XMsg} (h : SMap.get [] s.xout (xkey d 11 v) = x :: rest) :
    ∃ u, s.takeOut d 11 v = some (x, u) ∧ s.Took u d v rest :=
  ⟨_, State.takeOut_cons h, SMap.get_set_same _ _ _ _, .count (.of_csr rfl _) (by simp) _ _, rfl⟩

section
variable {s u : State} {d v : Nat} {rest : List XMsg}

theorem State.Took.part (h : s.Took u d v rest) : u.part = s.part := (congrArg State.part h.frame :)
theorem State.Took.ms (h : s.Took u d v rest) : u.ms = s.ms := (congrArg State.ms h.frame :)
theorem State.Took.refMs (h : s.Took u d v rest) : u.refMs = s.refMs := (congrArg State.refMs h.frame :)
theorem State.Took.queues (h : s.Took u d v rest) : u.queues = s.queues := (congrArg State.queues h.frame :)
theorem State.Took.windows (h : s.Took u d v rest) : u.windows = s.windows := (congrArg State.windows h.frame :)
theorem State.Took.dirQ (h : s.Took u d v rest) : u.dirQ = s.dirQ := (congrArg State.dirQ h.frame :)
theorem State.Took.dirTxn (h : s.Took u d v rest) : u.dirTxn = s.dirTxn := (congrArg State.dirTxn h.frame :)
theorem State.Took.dirOrph (h : s.Took u d v rest) : u.dirOrph = s.dirOrph := (congrArg State.dirOrph h.frame :)
theorem State.Took.xin (h : s.Took u d v rest) : u.xin = s.xin := (congrArg State.xin h.frame :)
theorem State.Took.xsrc (h : s.Took u d v rest) : u.xsrc = s.xsrc := (congrArg State.xsrc h.frame :)
theorem State.Took.serial (h : s.Took u d v rest) : u.serial = s.serial := (congrArg State.serial h.frame :)

/-- The registers of a slice stand in another block than the credits of its buffer. -/
theorem State.Took.csrGet_dir (h : s.Took u d v rest) (hv : v < 8) {off : Nat} (hoff : 0x4000000 ≤ off) :
    u.csrGet (csrAddr d off) = s.csrGet (csrAddr d off) := by
  refine h.regs _ fun hm => ?_
  have heq := List.mem_singleton.1 hm
  simp only [Csr.xbCredit, csrAddr] at heq
  omega

end

theorem vcCode_lt (vc : Vc) : Vc.code vc < 8 := by cases vc <;> decide

/-! ## Notices (09 R433, R434) -/

theorem State.waiting_notice {s : State} {d : Nat} (h : (s.waiting d).length < 64) (code : Nat) (fs : List (Nat × Nat)) :
    (s.notice d code fs).waiting d = s.waiting d ++ [s.item d code fs] ∧ (s.notice d code fs).csr = s.csr := by
  have hroom : ¬ 64 ≤ (SMap.get [] s.queues (queueOf d)).length := Nat.not_le.2 h
  unfold State.notice
  dsimp only
  rw [if_neg hroom]
  exact ⟨SMap.get_set_same _ _ _ _, rfl⟩

theorem State.waiting_noticeLim {s : State} {d code scope : Nat} (hw : s.windowOpen d code scope = false)
    (h : (s.waiting d).length < 64) (fs : List (Nat × Nat)) :
    (s.noticeLim d code scope fs).waiting d = s.waiting d ++ [s.item d code fs] := by
  unfold State.noticeLim
  rw [if_neg (by simp [hw])]
  dsimp only
  exact (State.waiting_notice (by exact h) code fs).1

theorem State.waiting_congr {s t : State} (h : t.queues = s.queues) (d : Nat) : t.waiting d = s.waiting d := by
  unfold State.waiting
  rw [h]

theorem State.windowOpen_congr {s t : State} (h : t.windows = s.windows) (hms : t.ms = s.ms) (href : t.refMs = s.refMs)
    (d code scope : Nat) : t.windowOpen d code scope = s.windowOpen d code scope := by
  unfold State.windowOpen State.msOf
  rw [h, hms, href]

/-- What a notice says rests on the chain-time flag and the milestone. -/
theorem State.item_congr {s t : State} (hsync : t.csrGet Csr.towSts = s.csrGet Csr.towSts) (hms : t.ms = s.ms) (href : t.refMs = s.refMs)
    (d code : Nat) (fs : List (Nat × Nat)) : t.item d code fs = s.item d code fs := by
  unfold State.item State.fbit State.msOf
  rw [State.fget_congr hsync, hms, href]

/-! ## Entries and transactions -/

theorem State.msOf_congr {s t : State} (hms : t.ms = s.ms) (href : t.refMs = s.refMs) (d : Nat) : t.msOf d = s.msOf d := by
  unfold State.msOf
  rw [hms, href]

theorem State.txns_congr {s t : State} (h : t.dirTxn = s.dirTxn) (d : Nat) : t.txns d = s.txns d := by
  unfold State.txns
  rw [h]

theorem State.openOn_congr {s t : State} (h : t.dirTxn = s.dirTxn) (d line : Nat) : t.openOn d line = s.openOn d line := by
  unfold State.openOn
  rw [State.txns_congr h]

theorem State.txn_congr {s t : State} (h : t.dirTxn = s.dirTxn) (d k : Nat) : t.txn d k = s.txn d k := by
  unfold State.txn
  rw [h]

@[simp] theorem State.txn_setTxn_same (s : State) (d t : Nat) (x : Txn) : (s.setTxn d t x).txn d t = some x :=
  SMap.find_put_same _ _ _

@[simp] theorem State.txn_endTxn_same (s : State) (d t : Nat) : (s.endTxn d t).txn d t = none :=
  SMap.find_erase_same _ _

@[simp] theorem State.entry_setEntry_same (s : State) (d set w : Nat) (e : BitVec 64) : (s.setEntry d set w e).entry d set w = e :=
  SMap.get_set_same _ _ _ _

theorem State.dirEnt_setEntry_ne (s : State) {d set w key : Nat} (e : BitVec 64) (h : key ≠ entKey d set w) :
    SMap.get 0 (s.setEntry d set w e).dirEnt key = SMap.get 0 s.dirEnt key :=
  SMap.get_set_ne _ _ _ _ h

/-- A set all of whose entries read without an error is left alone by the check of its ways (02 R70). -/
theorem State.eccSet_clean {s : State} {d set : Nat} (h : ∀ w < 16, SMap.get 0 s.dirBad (entKey d set w) = 0) : s.eccSet d set = s := by
  have hfold : ∀ ws : List Nat, (∀ w ∈ ws, w < 16) → ws.foldl (fun s w => s.eccWay d set w) s = s := by
    intro ws hws
    induction ws with
    | nil => rfl
    | cons w ws ih =>
      obtain ⟨hw, hws⟩ := List.forall_mem_cons.1 hws
      have hway : s.eccWay d set w = s := by
        unfold State.eccWay
        simp only [h w hw]
      rw [List.foldl_cons, hway, ih hws]
  exact hfold _ fun w hw => List.mem_range.1 hw

/-- A register of a logic die is none of the notice queues' (09). -/
theorem dieReg_ne_drop (d : Die) (j : Nat) {off : Nat} (h : off < 0x10000000) : csrAddr d off ≠ Csr.ndQdropCnt j := by
  have := d.isLt
  simp only [Csr.ndQdropCnt, csrAddr, stw]
  omega

end Sys2Proof.Machine

end

section

/-! PROOFS. A directory request arrives at its home slice (02 R75, R86, R87; 03 R132). -/

namespace Sys2Proof.Machine

/-! ## Stamps (R86) -/

theorem lateness_onTime {m : Nat} {stamp : Int} {settle : Nat} (h : (m : Int) ≤ stamp + settle ∧ stamp ≤ (m : Int) + 4) :
    lateness m stamp settle = none := by
  unfold lateness
  rw [if_neg (by omega), if_neg (by omega)]

theorem lateness_late {m : Nat} {stamp : Int} {settle : Nat} (h : ¬ ((m : Int) ≤ stamp + settle ∧ stamp ≤ (m : Int) + 4)) :
    ∃ why by_, lateness m stamp settle = some (why, by_) := by
  unfold lateness
  split
  · exact ⟨_, _, rfl⟩
  · rw [if_pos (by omega)]
    exact ⟨_, _, rfl⟩

section
variable {s : State} {d : Nat} {r : DirReq}

theorem State.lateArrive_onTime
    (h : (s.msOf d : Int) ≤ r.stamp + s.fget (Csr.dirCtrl d) DirCtrl.settle ∧ r.stamp ≤ (s.msOf d : Int) + 4) :
    s.lateArrive d r = (r, s) := by
  unfold State.lateArrive
  dsimp only
  rw [lateness_onTime h]

/-- A late request is taken at the settled time, counted and reported. -/
theorem State.lateArrive_late
    (h : ¬ ((s.msOf d : Int) ≤ r.stamp + s.fget (Csr.dirCtrl d) DirCtrl.settle ∧ r.stamp ≤ (s.msOf d : Int) + 4)) :
    ∃ fs, s.lateArrive d r = ({ r with stamp := (s.msOf d : Int) - s.fget (Csr.dirCtrl d) DirCtrl.settle },
      (s.count (Csr.dirRaceCnt d) DirRaceCnt.late 1).noticeLim d 0x0203 0 fs) := by
  obtain ⟨why, by_, hlate⟩ := lateness_late h
  unfold State.lateArrive
  dsimp only
  rw [hlate]
  exact ⟨_, rfl⟩

/-- The count and the notice of a late request. -/
theorem State.lateNoted_writes (s : State) (d : Die) (fs : List (Nat × Nat)) :
    let t := (s.count (Csr.dirRaceCnt d) DirRaceCnt.late 1).noticeLim d 0x0203 0 fs
    t.fget (Csr.dirRaceCnt d) DirRaceCnt.late =
        min (s.fget (Csr.dirRaceCnt d) DirRaceCnt.late + 1) (2 ^ DirRaceCnt.late.width - 1) ∧
      (s.windowOpen d 0x0203 0 = false → (s.waiting d).length < 64 →
        ∃ n : Notice, n.code = 0x0203 ∧ n.die = d ∧ t.waiting d = s.waiting d ++ [n]) ∧
      OnlyRegs s t [Csr.dirRaceCnt d, Csr.ndQdropCnt (queueOf d)] ∧ Reports s t := by
  refine ⟨?_, fun hwin hroom => ⟨State.item (s.count (Csr.dirRaceCnt d) DirRaceCnt.late 1) d 0x0203 fs, rfl, rfl, ?_⟩,
    .noticeLim (.count (.refl s _) (by simp) _ _) (by simp) _ _ _, ((Reports.refl s).count _ _ _).noticeLim _ _ _ _⟩
  · exact (State.fget_noticeLim (dieReg_ne_drop d _ (off := 0x4000020) (by decide)) _).trans (State.fget_count_same _ _ _ _ (by decide))
  · have hwait := State.waiting_congr (State.count_queues s (Csr.dirRaceCnt d) 1 DirRaceCnt.late) d
    rw [← State.windowOpen_congr (State.count_windows s (Csr.dirRaceCnt d) 1 DirRaceCnt.late) (State.count_ms ..) (State.count_refMs ..)] at hwin
    rw [← hwait] at hroom ⊢
    exact State.waiting_noticeLim hwin hroom fs

/-! ## The replay of an open transaction (R87) -/

theorem State.replayFor_none (h : s.openOn d (r.addr / 64) = none) : s.replayFor d r = s := by
  unfold State.replayFor
  rw [h]

theorem State.replayFor_later {t : Nat} {x : Txn} (h : s.openOn d (r.addr / 64) = some (t, x)) (hline : x.req.addr / 64 = r.addr / 64)
    (hearly : earlier r x.req = true) : s.replayFor d r = s.replay d t x := by
  unfold State.replayFor
  rw [h]
  exact if_pos (by simp [hline, hearly])

/-- A replay to which no snoop has brought DATA: the way takes its former entry, the slot is free, the request as it was asked is
at the front of the queue, and the replay is counted. -/
theorem State.replay_clean (t : Nat) {x : Txn} (hdirty : x.dirty = none) (hway : x.waitWay = false) :
    let u := s.replay d t x
    SMap.get [] u.dirQ d = x.asked :: SMap.get [] s.dirQ d ∧ u.txn d t = none ∧
      u.entry d (lineSet s.part.k x.req.addr) x.way = x.old ∧
      u.fget (Csr.dirRaceCnt d) DirRaceCnt.replays =
        min (s.fget (Csr.dirRaceCnt d) DirRaceCnt.replays + 1) (2 ^ DirRaceCnt.replays.width - 1) ∧
      OnlyRegs s u [Csr.dirRaceCnt d] ∧
      u = { s with csr := u.csr, dirQ := u.dirQ, dirTxn := u.dirTxn, dirOrph := u.dirOrph, dirEnt := u.dirEnt } := by
  intro u
  have hu : u = State.count { s with
      dirOrph := s.dirOrph ++ x.orphans d
      dirEnt := SMap.set 0 s.dirEnt (entKey d (lineSet s.part.k x.req.addr) x.way) x.old
      dirTxn := SMap.erase s.dirTxn (txnKey d t)
      dirQ := SMap.set [] s.dirQ d (x.asked :: SMap.get [] s.dirQ d) } (Csr.dirRaceCnt d) DirRaceCnt.replays 1 := by
    change s.replay d t x = _
    unfold State.replay
    rw [hdirty, hway]
    rfl
  clear_value u
  subst hu
  refine ⟨?_, ?_, ?_, State.fget_count_same _ _ _ _ (by decide), .count (.of_csr rfl _) (by simp) _ _, State.csrSet_rest _ _ _⟩
  · rw [State.count_dirQ, SMap.get_set_same]
  · rw [State.txn, State.count_dirTxn, SMap.find_erase_same]
  · rw [State.entry, State.count_dirEnt, SMap.get_set_same]

end

theorem earlier_of {a b : DirReq} (h : a.stamp < b.stamp ∨ a.stamp = b.stamp ∧ (a.sdie < b.sdie ∨ a.sdie = b.sdie ∧ a.sidx < b.sidx)) :
    earlier a b = true := by
  unfold earlier
  simpa using h

theorem State.queueReq_last (s : State) (d : Nat) (r : DirReq) : SMap.get [] (s.queueReq d r).dirQ d = SMap.get [] s.dirQ d ++ [r] :=
  SMap.get_set_same _ _ _ _

/-! ## Arrival -/

/-- The request that a message brings: its full stamp is formed at the home slice (R84, R86). -/
def State.requestOf (s : State) (d : Nat) (m : Msg) : DirReq :=
  { msg := m, kind := arrivalKind m, noData := m.name == .rdOwnNoData, addr := m.g Hd.addr,
    stamp := fullStamp (s.msOf d) (m.g Hd.ms24), sdie := m.g Hd.srcDie, sidx := m.g Hd.srcIdx }

/-- The line is tracked by the slice: inside the coherent window, at a slice that is enabled (03 R132). -/
def State.Tracks (s : State) (d : Nat) (m : Msg) : Prop :=
  s.fbit (Csr.dirCtrl d) DirCtrl.en = true ∧ inWindow s.part.k (s.fget (Csr.dirWin d) DirWin.base) (m.g Hd.addr) = true

theorem State.untracked_eq_false {s : State} {d : Nat} {m : Msg} : s.untracked d (m.g Hd.addr) = false ↔ s.Tracks d m := by
  unfold State.untracked State.Tracks
  rw [Bool.not_eq_false', Bool.and_eq_true_iff]

section
variable {s : State} {d : Nat} {m : Msg}

/-- A request that is taken into the queue: checked for lateness, then the open transaction on its line is looked at. -/
theorem State.dirArrive_queued (h : 8 ≤ m.g Hd.srcIdx → s.Tracks d m) :
    let a := s.lateArrive d (s.requestOf d m)
    s.dirArrive d m = (a.2.replayFor d a.1).queueReq d a.1 := by
  refine if_neg fun hc => ?_
  obtain ⟨heng, hun⟩ := Bool.and_eq_true_iff.1 hc
  have hfalse : s.untracked d (m.g Hd.addr) = false := State.untracked_eq_false.2 (h (of_decide_eq_true heng))
  exact absurd (hun.symm.trans hfalse) (by decide)

theorem State.dirArrive_untracked (heng : 8 ≤ m.g Hd.srcIdx) (h : ¬ s.Tracks d m) :
    ∃ data pois, s.dirArrive d m = s.dirRespond d (s.requestOf d m) (dirReply d (s.requestOf d m) data pois 0 0 St.notPresent) := by
  have hun : s.untracked d (m.g Hd.addr) = true := by
    rw [← Bool.not_eq_false]
    exact fun hf => h (State.untracked_eq_false.1 hf)
  exact ⟨_, _, if_pos (Bool.and_eq_true_iff.2 ⟨decide_eq_true heng, hun⟩)⟩

end

/-- A directory request waits at the head of the slice's buffer, and the slice can take it. -/
structure State.RequestDue (s : State) (d : Die) (vc : Vc) (y : XMsg) (rest : List XMsg) : Prop where
  passes : s.sluiceOpen d = true
  head : SMap.get [] s.xout (xkey d 11 (Vc.code vc)) = y :: rest
  kind : y.msg.g Hd.dkind = 3
  slot : vc = .req → (s.freeSlot d).isSome = true

theorem State.RequestDue.arrives {s : State} {d : Die} {vc : Vc} {y : XMsg} {rest : List XMsg} (h : s.RequestDue d vc y rest) :
    ∃ u, s.Took u d (Vc.code vc) rest ∧ exec (.dirRequestArrive d vc) s = .next (u.dirArrive d y.msg) := by
  obtain ⟨u, htake, hu⟩ := State.takeOut_took h.head
  have hslot : (vc == .req && (s.freeSlot d).isNone) = false := by
    by_cases hvc : vc = .req
    · rw [Bool.and_eq_false_iff, Option.isNone_eq_false_iff]
      exact .inr (h.slot hvc)
    · rw [beq_eq_false_iff_ne.2 hvc, Bool.false_and]
  refine ⟨u, hu, congrArg Host.Outcome.next ?_⟩
  unfold doDirRequestArrive
  rw [h.passes, hslot, h.head, htake]
  dsimp only
  rw [h.kind, if_neg (by decide), if_neg (by decide)]

/-- The stamp of a message fits what R86 allows at its home slice. -/
abbrev State.OnTime (s : State) (d : Nat) (m : Msg) : Prop :=
  (s.msOf d : Int) ≤ fullStamp (s.msOf d) (m.g Hd.ms24) + s.fget (Csr.dirCtrl d) DirCtrl.settle ∧
    fullStamp (s.msOf d) (m.g Hd.ms24) ≤ (s.msOf d : Int) + 4

section
variable {s u : State} {d : Die} {vc : Vc} {rest : List XMsg} (h : s.Took u d (Vc.code vc) rest) {m : Msg}
include h

theorem State.Took.tracks : u.Tracks d m ↔ s.Tracks d m := by
  have hctrl : u.csrGet (Csr.dirCtrl d) = s.csrGet (Csr.dirCtrl d) := h.csrGet_dir (vcCode_lt vc) (by decide)
  have hwin : u.csrGet (Csr.dirWin d) = s.csrGet (Csr.dirWin d) := h.csrGet_dir (vcCode_lt vc) (by decide)
  unfold State.Tracks State.fbit
  rw [State.fget_congr hctrl, State.fget_congr hwin, h.part]

theorem State.Took.settle : u.fget (Csr.dirCtrl d) DirCtrl.settle = s.fget (Csr.dirCtrl d) DirCtrl.settle :=
  State.fget_congr (h.csrGet_dir (vcCode_lt vc) (off := 0x4000000) (by decide)) _

theorem State.Took.raceCnt (f : Fld) : u.fget (Csr.dirRaceCnt d) f = s.fget (Csr.dirRaceCnt d) f :=
  State.fget_congr (h.csrGet_dir (vcCode_lt vc) (off := 0x4000020) (by decide)) f

theorem State.Took.msOf (i : Nat) : u.msOf i = s.msOf i := State.msOf_congr h.ms h.refMs i

theorem State.Took.openOn (line : Nat) : u.openOn d line = s.openOn d line := State.openOn_congr h.dirTxn d line

theorem State.Took.requestOf : u.requestOf d m = s.requestOf d m := by
  unfold State.requestOf
  rw [h.msOf]

theorem State.Took.windowOpen (code scope : Nat) : u.windowOpen d code scope = s.windowOpen d code scope :=
  State.windowOpen_congr h.windows h.ms h.refMs d code scope

theorem State.Took.waiting : u.waiting d = s.waiting d := State.waiting_congr h.queues d

/-- A request on time of a line on which nothing is open joins the queue. -/
theorem State.Took.arrives_onTime (htr : 8 ≤ m.g Hd.srcIdx → s.Tracks d m) (ht : s.OnTime d m)
    (hopen : s.openOn d (m.g Hd.addr / 64) = none) : u.dirArrive d m = u.queueReq d (s.requestOf d m) := by
  have htime : u.lateArrive d (s.requestOf d m) = (s.requestOf d m, u) :=
    State.lateArrive_onTime (by rw [h.settle, h.msOf]; exact ht)
  rw [State.dirArrive_queued fun he => h.tracks.2 (htr he), h.requestOf, htime, State.replayFor_none ((h.openOn _).trans hopen)]

/-- A late one joins it at the settled time, counted and reported. -/
theorem State.Took.arrives_late (htr : 8 ≤ m.g Hd.srcIdx → s.Tracks d m) (ht : ¬ s.OnTime d m)
    (hopen : s.openOn d (m.g Hd.addr / 64) = none) :
    ∃ fs, u.dirArrive d m = ((u.count (Csr.dirRaceCnt d) DirRaceCnt.late 1).noticeLim d 0x0203 0 fs).queueReq d
      { s.requestOf d m with stamp := (s.msOf d : Int) - s.fget (Csr.dirCtrl d) DirCtrl.settle } := by
  have htime : ¬ ((u.msOf d : Int) ≤ (s.requestOf d m).stamp + u.fget (Csr.dirCtrl d) DirCtrl.settle ∧
      (s.requestOf d m).stamp ≤ (u.msOf d : Int) + 4) := by
    rw [h.settle, h.msOf]
    exact ht
  obtain ⟨fs, hlate⟩ := State.lateArrive_late htime
  refine ⟨fs, ?_⟩
  rw [State.dirArrive_queued fun he => h.tracks.2 (htr he), h.requestOf, hlate, h.settle, h.msOf, State.replayFor_none]
  exact (State.openOn_congr ((State.noticeLim_dirTxn ..).trans (State.count_dirTxn ..)) d _).trans ((h.openOn _).trans hopen)

/-- One that comes before the open transaction on its line has it replayed, and joins the queue. -/
theorem State.Took.arrives_replay (htr : 8 ≤ m.g Hd.srcIdx → s.Tracks d m) (ht : s.OnTime d m) {k : Nat} {x : Txn}
    (hopen : s.openOn d (m.g Hd.addr / 64) = some (k, x)) (hline : x.req.addr / 64 = m.g Hd.addr / 64)
    (hearly : earlier (s.requestOf d m) x.req = true) : u.dirArrive d m = (u.replay d k x).queueReq d (s.requestOf d m) := by
  have htime : u.lateArrive d (s.requestOf d m) = (s.requestOf d m, u) :=
    State.lateArrive_onTime (by rw [h.settle, h.msOf]; exact ht)
  rw [State.dirArrive_queued fun he => h.tracks.2 (htr he), h.requestOf, htime,
    State.replayFor_later ((h.openOn _).trans hopen) hline hearly]

/-- The answer to an engine whose line the slice does not track. -/
theorem State.Took.arrives_untracked (heng : 8 ≤ m.g Hd.srcIdx) (hun : ¬ s.Tracks d m) :
    let t := u.dirArrive d m
    (∃ z : XMsg, z.msg.g Hd.dkind = 4 ∧ z.msg.g Hd.status = St.notPresent ∧ z.msg.g Hd.xtag = m.g Hd.xtag ∧ z.die = m.g Hd.srcDie ∧
      z.ep = endpointOf (m.g Hd.srcIdx) ∧ z.id = s.serial ∧ Entered s t d 11 z) ∧
      t = { u with xin := t.xin, xsrc := t.xsrc, serial := u.serial + 1 } := by
  obtain ⟨data, pois, hans⟩ := State.dirArrive_untracked heng fun hc => hun (h.tracks.1 hc)
  rw [h.requestOf] at hans
  obtain ⟨-, -, hxtag, hstatus, -⟩ := dirReply_fields d (s.requestOf d m) data pois 0 0 St.notPresent
  obtain ⟨z, hk, hs, hx, hdie, hep, hid, hent⟩ := State.dirRespond_engine_reply h.xin h.xsrc h.serial d (r := s.requestOf d m) heng
    (dirReply d (s.requestOf d m) data pois 0 0 St.notPresent)
  refine ⟨⟨z, hk, hs.trans hstatus, hx.trans hxtag, hdie.trans ?_, hep.trans ?_, hid, hans ▸ hent⟩, ?_⟩
  · exact Nat.mod_eq_of_lt (Fld.get_lt Hd.srcDie m.hdr)
  · exact congrArg endpointOf (Nat.mod_eq_of_lt (Fld.get_lt Hd.srcIdx m.hdr))
  · rw [hans, State.dirRespond_engine u d heng]
    exact State.inject_eq ..

end

/-- Settles O27: the arrival is what the slice took from its buffer, followed by the queue, the replay or the answer. -/
theorem directoryArrival : Obligations.DirectoryArrival := by
  intro d vc y rest s hopen hhead hkind hslot m home settle stamp line fromEngine tracked onTime credit taken isReq
  obtain ⟨u, hu, hexec⟩ := (⟨hopen, hhead, hkind, hslot⟩ : s.RequestDue d vc y rest).arrives
  refine ⟨fun htr => ⟨fun ht hnone => ?_, fun ht hnone => ?_, fun k x ht hsome hk hline hkey hdirty hway => ?_⟩, fun heng hun => ?_⟩
  · rw [Completes, hexec, hu.arrives_onTime htr ht hnone]
    refine ⟨_, rfl, ⟨s.requestOf d m, ⟨rfl, rfl, rfl, rfl, rfl⟩, ?_⟩, hu.taken, hu.regs.trans (.of_csr rfl _), ?_⟩
    · rw [State.queueReq_last, hu.dirQ]
    · rw [State.queueReq, hu.frame]
  · obtain ⟨fs, harr⟩ := hu.arrives_late htr ht hnone
    obtain ⟨hcount, hnote, hregs, hrep⟩ := u.lateNoted_writes d fs
    rw [Completes, hexec, harr]
    generalize (u.count (Csr.dirRaceCnt d) DirRaceCnt.late 1).noticeLim d 0x0203 0 fs = w at hcount hnote hregs hrep
    have hq : w.dirQ = s.dirQ := (congrArg State.dirQ hrep :).trans hu.dirQ
    have hout : w.xout = u.xout := (congrArg State.xout hrep :)
    refine ⟨_, rfl, ⟨{ s.requestOf d m with stamp := (home : Int) - settle }, ⟨rfl, rfl, rfl, rfl, rfl⟩, ?_⟩,
      (congrArg (SMap.get [] · (xkey d 11 (Vc.code vc))) hout).trans hu.taken, hcount.trans (by rw [hu.raceCnt]),
      fun hwin hroom => ?_, ((hu.regs.mono (by simp [credit])).trans (hregs.mono (by simp))).trans (.of_csr rfl _), ?_⟩
    · rw [State.queueReq_last, hq]
    · rw [hu.waiting] at hnote
      exact hnote ((hu.windowOpen _ _).trans hwin) hroom
    · rw [State.queueReq, hrep, hu.frame]
  · rw [Completes, hexec, hu.arrives_replay htr ht hsome hline (earlier_of hkey)]
    obtain ⟨hq, htxn, hent, hcount, hregs, hframe⟩ := State.replay_clean (s := u) (d := d) k hdirty hway
    generalize u.replay d k x = w at hq htxn hent hcount hregs hframe ⊢
    have hout : w.xout = u.xout := (congrArg State.xout hframe :)
    refine ⟨_, rfl, ⟨s.requestOf d m, ⟨rfl, rfl, rfl, rfl, rfl⟩, ?_⟩,
      (congrArg (SMap.get [] · (xkey d 11 (Vc.code vc))) hout).trans hu.taken, htxn, hu.part ▸ hent, hcount.trans (by rw [hu.raceCnt]),
      ((hu.regs.mono (by simp [credit])).trans (hregs.mono (by simp))).trans (.of_csr rfl _), ?_⟩
    · rw [State.queueReq_last, hq, hu.dirQ]
      rfl
    · rw [State.queueReq, hframe, hu.frame]
  · rw [Completes, hexec]
    obtain ⟨hz, hframe⟩ := hu.arrives_untracked heng hun
    generalize u.dirArrive d m = t at hz hframe ⊢
    have hout : t.xout = u.xout := (congrArg State.xout hframe :)
    refine ⟨t, rfl, hz, (congrArg (SMap.get [] · (xkey d 11 (Vc.code vc))) hout).trans hu.taken,
      hu.regs.trans (.of_csr (congrArg State.csr hframe :) _), ?_⟩
    rw [hframe, hu.serial, hu.frame]

end Sys2Proof.Machine

end

section

/-! PROOFS. A directory transaction starts (02 R75 to R78, R80, Table 02-5). -/

namespace Sys2Proof.Machine

/-! ## Requests that take no decision at the start -/

/-- The request kinds of Table 02-5 that every state of the line lists. -/
abbrev DKind.Plain (k : DKind) : Prop := k = .rds ∨ k = .rdo ∨ k = .rdc ∨ k = .wri

/-- Such a request is started as it was asked, by a port enabled as a sharer. -/
theorem DKind.Plain.started {k : DKind} (h : k.Plain) (holder owner : Bool) : demote (resolveKind k holder owner) true = k := by
  rcases h with rfl | rfl | rfl | rfl <;> rfl

theorem DKind.Plain.listed {k : DKind} (h : k.Plain) {st : Nat} (hst : st ≤ 3) (inV isO : Bool) : pairListed st k inV isO = true := by
  rcases h with rfl | rfl | rfl | rfl <;> exact decide_eq_true hst

theorem DKind.Plain.reads {k : DKind} (h : k.Plain) (noData : Bool) :
    readsMem k (noData && k == .rdo) = decide (k = .rds ∨ k = .rdc ∨ k = .rdo ∧ noData = false) := by
  rcases h with rfl | rfl | rfl | rfl <;> cases noData <;> rfl

/-- No snoop of a transaction that starts was issued or answered. -/
theorem snoopsFor_fresh (mask st owner v : Nat) (k : DKind) (p addr : Nat) :
    ∀ n ∈ snoopsFor mask st owner v k p addr, n.issued = false ∧ n.done = false := by
  intro n hn
  unfold snoopsFor at hn
  dsimp only at hn
  split at hn
  · obtain ⟨q, -, rfl⟩ := List.mem_map.1 hn; exact ⟨rfl, rfl⟩
  · obtain ⟨q, -, rfl⟩ := List.mem_map.1 hn; exact ⟨rfl, rfl⟩
  · split at hn
    · cases hn
    · rw [List.mem_singleton.1 hn]; exact ⟨rfl, rfl⟩
  · split at hn
    · cases hn
    · rw [List.mem_singleton.1 hn]; exact ⟨rfl, rfl⟩
  · rw [List.mem_singleton.1 hn]; exact ⟨rfl, rfl⟩
  · rw [List.mem_singleton.1 hn]; exact ⟨rfl, rfl⟩
  · cases hn

/-- The snoops of Table 02-5, by port and kind: SND to the owner for a copy, SNI to the owner or to the sharers for ownership or
a write. -/
theorem snoopsFor_table {mask st owner v p addr : Nat} {k : DKind} (hst : st ≤ 3) (hk : k.Plain) :
    (snoopsFor mask st owner v k p addr).map (fun n => (n.port, n.inval)) =
      (if st = 2 ∧ (k = .rdc ∨ k = .rds ∧ p ≠ owner) then [(owner, false)]
       else if st = 2 ∧ (k = .wri ∨ k = .rdo ∧ p ≠ owner) then [(owner, true)]
       else if st = 1 ∧ k = .wri then (sharerPorts mask v).map (·, true)
       else if st = 1 ∧ k = .rdo then ((sharerPorts mask v).filter (· ≠ p)).map (·, true) else []) := by
  obtain rfl | rfl | rfl | rfl : st = 0 ∨ st = 1 ∨ st = 2 ∨ st = 3 := by omega
  · rcases hk with rfl | rfl | rfl | rfl <;> simp [snoopsFor]
  · rcases hk with rfl | rfl | rfl | rfl <;> simp [snoopsFor, Function.comp_def]
  · by_cases hp : p = owner
    · rcases hk with rfl | rfl | rfl | rfl <;> simp [snoopsFor, hp]
    · rcases hk with rfl | rfl | rfl | rfl <;> simp [snoopsFor, hp]
  · rcases hk with rfl | rfl | rfl | rfl <;> simp [snoopsFor]

/-! ## The entry of a transaction that is open -/

/-- An entry made BUSY keeps its TAG (R76). -/
def busyEntry (e : BitVec 64) : BitVec 64 := De.sharers.put (De.owner.put (De.state.put e 4) 0) 0

theorem busyEntry_fields (e : BitVec 64) : De.state.get (busyEntry e) = 4 ∧ De.tag.get (busyEntry e) = De.tag.get e := by
  unfold busyEntry
  constructor
  · rw [Fld.get_put_apart _ _ _ _ (by unfold Fld.apart; decide), Fld.get_put_apart _ _ _ _ (by unfold Fld.apart; decide),
      Fld.get_put_same _ _ _ (by decide)]
    rfl
  · rw [Fld.get_put_apart _ _ _ _ (by unfold Fld.apart; decide), Fld.get_put_apart _ _ _ _ (by unfold Fld.apart; decide),
      Fld.get_put_apart _ _ _ _ (by unfold Fld.apart; decide)]

/-! ## The memory read (R74, R77) -/

theorem memMsg_read (d addr xtag : Nat) :
    (memMsg d addr xtag none false).name = .memRd ∧ (memMsg d addr xtag none false).g Hd.addr = addr % 2 ^ 52 / 64 * 64 := by
  have haddr : (memMsg d addr xtag none false).g Hd.addr = addr / 64 * 64 % 2 ^ 52 := by
    unfold memMsg
    rw [Msg.g_w_same _ _ _ (by decide)]
    rfl
  exact ⟨by simp [memMsg], haddr.trans (by omega)⟩

/-- With MEMMODE set, a memory request is an event of the die's memory task. -/
theorem State.dirMem_event {s : State} {d : Nat} (h : s.fbit (Csr.dirCtrl d) DirCtrl.memMode = true) (m : Msg) :
    ∃ m', s.dirMem d m = s.inject d 11 m' d 12 ∧ m'.name = m.name ∧ m'.g Hd.addr = m.g Hd.addr := by
  unfold State.dirMem
  rw [if_pos h]
  exact ⟨_, rfl, by simp only [Msg.w_name], by simp (disch := decide) only [Msg.g_w_apart]⟩

/-- The memory read at the start, where there is one, changes only what waits to enter the crossbar. -/
theorem State.dirMem_frame {s t : State} {d : Nat} {m : Msg} {c : Bool} (h : t = if c then s.dirMem d m else s) :
    t = { s with xin := t.xin, xsrc := t.xsrc, serial := t.serial } := by
  cases c with
  | false => rw [show t = s from h]
  | true =>
    obtain ⟨m', die, ep, hm⟩ := s.dirMem_injects d m
    rw [State.inject_frame (h.trans hm)]

/-! ## The start -/

/-- From `s` to `u` a way took an entry, and a slot a transaction. -/
structure State.Wrote (s u : State) (d set w : Nat) (e : BitVec 64) (t : Nat) (x : Txn) : Prop where
  txn : u.txn d t = some x
  ent : u.dirEnt = (s.setEntry d set w e).dirEnt
  frame : u = { s with dirEnt := u.dirEnt, dirTxn := u.dirTxn }

theorem State.wrote (s : State) (d set w : Nat) (e : BitVec 64) (t : Nat) (x : Txn) :
    s.Wrote ((s.setEntry d set w e).setTxn d t x) d set w e t x :=
  ⟨State.txn_setTxn_same _ _ _ _, rfl, rfl⟩

section
variable {s u v : State} {d set w t : Nat} {e : BitVec 64} {x : Txn} {m : Msg} {c : Bool}

theorem State.Wrote.mem (h : s.Wrote v d set w e t x) (hu : u = if c then v.dirMem d m else v) :
    u.txn d t = some x ∧ u.entry d set w = e ∧ (∀ key, key ≠ entKey d set w → SMap.get 0 u.dirEnt key = SMap.get 0 s.dirEnt key) ∧
      u.dirQ = s.dirQ ∧ u.csr = s.csr := by
  have hframe := State.dirMem_frame hu
  have hent := (congrArg State.dirEnt hframe :).trans h.ent
  refine ⟨(congrArg (State.txn · d t) hframe :).trans h.txn, ?_, fun key hkey => ?_, (congrArg State.dirQ hframe :).trans ?_,
    (congrArg State.csr hframe :).trans ?_⟩
  · exact (congrArg (fun m => SMap.get 0 m (entKey d set w)) hent).trans (SMap.get_set_same _ _ _ _)
  · rw [hent]; exact State.dirEnt_setEntry_ne s _ hkey
  · exact (congrArg State.dirQ h.frame :)
  · exact (congrArg State.csr h.frame :)

/-- With MEMMODE set, the read that the start makes is an event of the die's memory task. -/
theorem State.Wrote.read (h : s.Wrote v d set w e t x) {addr tag : Nat} (hu : u = if c then v.dirMem d (memMsg d addr tag none false) else v)
    (hmode : s.fbit (Csr.dirCtrl d) DirCtrl.memMode = true) (hc : c = true) :
    ∃ y : XMsg, y.id = s.serial ∧ Entered s u d 11 y ∧ y.die = d ∧ y.ep = 12 ∧ y.msg.name = .memRd ∧
      y.msg.g Hd.addr = addr % 2 ^ 52 / 64 * 64 := by
  have hcsr : v.csr = s.csr := (congrArg State.csr h.frame :)
  have hmode : v.fbit (Csr.dirCtrl d) DirCtrl.memMode = true := by
    unfold State.fbit at hmode ⊢
    rwa [State.fget_congr (OnlyRegs.of_csr hcsr [] _ List.not_mem_nil)]
  obtain ⟨m', hm, hname, haddr⟩ := State.dirMem_event hmode (memMsg d addr tag none false)
  obtain ⟨hrd, hrdaddr⟩ := memMsg_read d addr tag
  rw [hu, if_pos hc, hm]
  exact ⟨⟨s.serial, m', d, 12⟩, rfl, State.inject_entered (s := s) (congrArg State.xin h.frame :) (congrArg State.xsrc h.frame :)
    (congrArg State.serial h.frame :) d 11 m' d 12, rfl, rfl, hname.trans hrd, haddr.trans hrdaddr⟩

end

/-- The transaction of a request that takes no decision at its start, on the way of its line when it has one. -/
def State.opened (s : State) (d : Nat) (r : DirReq) (way : Option Nat) (e : BitVec 64) : Txn :=
  { req := { r with noData := r.noData && r.kind == .rdo }, asked := r, rtag := s.newTag d 0, way := way.getD 0, old := e,
    state := De.state.get e, owner := De.owner.get e, sharers := De.sharers.get e, waitWay := way.isNone, victim := none,
    snoops := snoopsFor (s.shareEn d) (De.state.get e) (De.owner.get e) (De.sharers.get e) r.kind r.port r.addr, keep := false,
    dirty := none, dirtyPois := false, memWait := readsMem r.kind (r.noData && r.kind == .rdo), memData := none, memPois := false,
    started := s.msOf d }

section
variable {s : State} {d t : Nat} {r : DirReq} (hclean : ∀ w < 16, SMap.get 0 s.dirBad (entKey d (lineSet s.part.k r.addr) w) = 0)
include hclean

/-- On the way of its line. -/
theorem State.startTxn_way (hen : bitOf (s.shareEn d) r.port = true) (hk : r.kind.Plain) {w : Nat} (hw : s.wayOf d r.addr = some w)
    (hst : De.state.get (s.entry d (lineSet s.part.k r.addr) w) ≤ 3) :
    let e := s.entry d (lineSet s.part.k r.addr) w
    let x := s.opened d r (some w) e
    ∃ u, s.Wrote u d (lineSet s.part.k r.addr) w (busyEntry e) t x ∧
      s.startTxn d t r = if x.memWait then u.dirMem d (memMsg d r.addr x.rtag none false) else u := by
  intro e x
  refine ⟨_, s.wrote d _ w (busyEntry e) t x, ?_⟩
  unfold State.startTxn
  dsimp only
  rw [State.eccSet_clean hclean, hw]
  dsimp only
  rw [hen, hk.started, hk.listed hst, if_neg (by decide)]
  simp only [x, e, State.opened, busyEntry, Option.getD_some]

/-- On a way that the set gives it. -/
theorem State.startTxn_noWay (hen : bitOf (s.shareEn d) r.port = true) (hk : r.kind.Plain) (hw : s.wayOf d r.addr = none) {x : Txn}
    (hx : s.opened d r none 0 = x) {u : State} (hu : s.giveWay d t x = some u) :
    s.startTxn d t r = if x.memWait then u.dirMem d (memMsg d r.addr x.rtag none false) else u := by
  subst hx
  unfold State.startTxn
  dsimp only
  rw [State.eccSet_clean hclean, hw]
  dsimp only
  rw [hen, hk.started, hk.listed (by decide), if_neg (by decide)]
  unfold State.opened at hu ⊢
  simp only [Option.getD_none] at hu ⊢
  rw [hu]

/-- A dirty eviction by a port that does not own the line is a pair that Table 02-5 does not list: a stray (R78). -/
theorem State.startTxn_stray {w : Nat} (hw : s.wayOf d r.addr = some w) (hk : r.kind = .evd)
    (hown : ¬ (De.state.get (s.entry d (lineSet s.part.k r.addr) w) = 2 ∧ De.owner.get (s.entry d (lineSet s.part.k r.addr) w) = r.port)) :
    ∃ r', s.startTxn d t r =
      (s.stray d r' (s.entry d (lineSet s.part.k r.addr) w)).walkCommit d (r.addr / 64) (lineSet s.part.k r.addr) (some w) := by
  have hkind : ∀ holder owner en, demote (resolveKind r.kind holder owner) en = .evd := fun _ _ en => by
    rw [hk]
    cases en <;> rfl
  have hunlisted : ∀ inV, pairListed (De.state.get (s.entry d (lineSet s.part.k r.addr) w)) .evd inV
      (De.state.get (s.entry d (lineSet s.part.k r.addr) w) == 2 && De.owner.get (s.entry d (lineSet s.part.k r.addr) w) == r.port) = false := by
    intro inV
    unfold pairListed
    rw [← Bool.not_eq_true]
    simpa using fun h2 => hown ∘ And.intro h2
  unfold State.startTxn
  dsimp only
  rw [State.eccSet_clean hclean, hw]
  dsimp only
  rw [hkind, hunlisted, if_pos (by decide)]
  exact ⟨_, rfl⟩

end

/-- A stray is answered, counted and reported. -/
theorem State.stray_writes (s : State) (d : Die) (r : DirReq) (e : BitVec 64) :
    let t := s.stray d r e
    t.fget (Csr.dirStrayCnt d) DirStrayCnt.stray =
        min (s.fget (Csr.dirStrayCnt d) DirStrayCnt.stray + 1) (2 ^ DirStrayCnt.stray.width - 1) ∧
      t = { s with csr := t.csr, xin := t.xin, xsrc := t.xsrc, serial := s.serial + 1, dirAcc := t.dirAcc, queues := t.queues,
                   windows := t.windows } := by
  unfold State.stray
  dsimp only
  have hframe := s.dirRespond_frame d r (dirReply d r r.failData true e (s.msOf d) St.badArgument)
  generalize s.dirRespond d r _ = u at hframe ⊢
  have hcsr : u.csr = s.csr := (congrArg State.csr hframe :)
  have hread : u.fget (Csr.dirStrayCnt d) DirStrayCnt.stray = s.fget (Csr.dirStrayCnt d) DirStrayCnt.stray :=
    State.fget_congr (OnlyRegs.of_csr hcsr [] _ List.not_mem_nil) _
  constructor
  · rw [← hread]
    exact (State.fget_noticeLim (dieReg_ne_drop d _ (off := 0x4000024) (by decide)) _).trans (State.fget_count_same _ _ _ _ (by decide))
  · have hrep := ((Reports.refl u).count (Csr.dirStrayCnt d) DirStrayCnt.stray 1).noticeLim d 0x0204 0
      [(1, d), (1, r.who), (1, r.code), (1, De.state.get e)]
    generalize State.noticeLim _ _ _ _ _ = t at hrep ⊢
    rw [hrep, hframe]

theorem State.walkCommit_none {s : State} {d : Nat} (h : SMap.find s.dirWalk d = none) (line set : Nat) (w : Option Nat) :
    s.walkCommit d line set w = s := by
  unfold State.walkCommit
  rw [h]

/-! ## Ways (R80) -/

section
variable {s : State} {d t : Nat} {x : Txn}

/-- A set with an INV way gives it. -/
theorem State.giveWay_free {w : Nat} (h : s.freeWay d (lineSet s.part.k x.req.addr) = some w) :
    s.giveWay d t x = some ((s.setEntry d (lineSet s.part.k x.req.addr) w (mkEntry (lineTag s.part.k x.req.addr) 4 0 0 0)).setTxn d t
      { x with way := w, old := 0, waitWay := false }) := by
  unfold State.giveWay
  dsimp only
  rw [h]

theorem State.gave_frame (s : State) (d set w t : Nat) (rr : SMap Nat) (e : BitVec 64) (x : Txn) :
    let u := (State.setEntry { s with dirRr := rr } d set w e).setTxn d t x
    u = { s with dirEnt := u.dirEnt, dirRr := u.dirRr, dirTxn := u.dirTxn } := rfl

/-- A set without one gives a victim's, whose ports are snooped for the line that leaves. -/
theorem State.giveWay_victim {w : Nat} (hfree : s.freeWay d (lineSet s.part.k x.req.addr) = none)
    (h : s.victimWay d (lineSet s.part.k x.req.addr) = some w) :
    let set := lineSet s.part.k x.req.addr
    let e := s.entry d set w
    ∃ u x', s.giveWay d t x = some u ∧ u.txn d t = some x' ∧ x'.way = w ∧ x'.old = e ∧ x'.waitWay = false ∧ x'.victim.isSome = true ∧
      x'.snoops.map (fun n => (n.port, n.inval)) =
        (if De.state.get e = 2 then [(De.owner.get e, true)] else (sharerPorts (s.shareEn d) (De.sharers.get e)).map (·, true)) ∧
      u.entry d set w = busyEntry e ∧ u = { s with dirEnt := u.dirEnt, dirRr := u.dirRr, dirTxn := u.dirTxn } := by
  intro set e
  unfold State.giveWay
  dsimp only
  rw [hfree]
  dsimp only
  rw [h]
  refine ⟨_, _, rfl, State.txn_setTxn_same _ _ _ _, rfl, rfl, rfl, rfl, ?_, State.entry_setEntry_same _ _ _ _ _,
    State.gave_frame _ _ _ _ _ _ _ _⟩
  by_cases hexc : De.state.get e = 2
  · rw [if_pos hexc, if_pos (beq_iff_eq.2 hexc)]
    rfl
  · rw [if_neg hexc, if_neg (mt beq_iff_eq.1 hexc), List.map_map]
    rfl

end

/-- A line without an entry takes the INV way of its set. -/
theorem State.startTxn_free {s : State} {d t : Nat} {r : DirReq} (hclean : ∀ w < 16, SMap.get 0 s.dirBad (entKey d (lineSet s.part.k r.addr) w) = 0)
    (hen : bitOf (s.shareEn d) r.port = true) (hk : r.kind.Plain) (hw : s.wayOf d r.addr = none) {w : Nat}
    (hfree : s.freeWay d (lineSet s.part.k r.addr) = some w) {x : Txn} (hx : s.opened d r none 0 = x) {u : State}
    (hu : s.startTxn d t r = u) :
    u.txn d t = some { x with way := w, old := 0, waitWay := false } ∧
      u.entry d (lineSet s.part.k r.addr) w = mkEntry (lineTag s.part.k r.addr) 4 0 0 0 := by
  have haddr : x.req.addr = r.addr := by rw [← hx]; rfl
  have hgive := State.giveWay_free (t := t) (x := x) (haddr.symm ▸ hfree)
  rw [haddr] at hgive
  have hstart := hu.symm.trans (State.startTxn_noWay hclean hen hk hw hx hgive)
  obtain ⟨htxn, hent, -⟩ := (s.wrote d _ w _ t _).mem hstart
  exact ⟨htxn, hent⟩

/-! ## The command -/

/-- The slice without the request in its queue. -/
def State.unqueued (s : State) (d : Nat) (r : DirReq) : State :=
  { s with dirQ := SMap.set [] s.dirQ d ((SMap.get [] s.dirQ d).erase r) }

section
variable {s : State} {d : Die}

/-- The next request in the queue starts in a free slot, when no open transaction can have the way it waits for. -/
theorem exec_dirTxnStart_next (hclk : s.clockOn d = true) (hway : s.wayReady d = none) {r : DirReq} {k : Nat} (hnext : s.nextStart d = some r)
    (hslot : s.freeSlot d = some k) : exec (.dirTxnStart d) s = .next ((s.unqueued d r).startTxn d k r) := by
  refine congrArg Host.Outcome.next ?_
  unfold doDirTxnStart State.unqueued
  rw [hclk, if_neg (by decide), hway]
  dsimp only
  rw [hnext, hslot]

/-- A transaction that waited for a way takes one. -/
theorem exec_dirTxnStart_way (hclk : s.clockOn d = true) {x : Txn} {k : Nat} (hway : s.wayReady d = some (k, x)) {u : State}
    (hu : s.giveWay d k x = some u) : exec (.dirTxnStart d) s = .next u := by
  refine congrArg Host.Outcome.next ?_
  unfold doDirTxnStart
  rw [hclk, if_neg (by decide), hway]
  dsimp only
  rw [hu]
  rfl

end

/-- Settles O28: the start is the request's removal from the queue, the entry made BUSY, the slot opened and the memory read; a
stray leaves entries and slots alone; a way given to a transaction that waited is a victim's. -/
theorem directoryStart : Obligations.DirectoryStart := by
  intro d k r s hclk set mask p hclean
  refine ⟨fun hway hnext hslot hen => ⟨fun w hw => ?_, fun w hw hfree hk => ?_⟩, fun x w hway hx hfree hvict => ?_⟩
  · intro e st o V
    rw [Completes, Completes, exec_dirTxnStart_next hclk hway hnext hslot]
    refine ⟨fun hst hk => ?_, fun hk hown hwalk => ?_⟩
    · obtain ⟨u, hu, hstart⟩ := State.startTxn_way (s := s.unqueued d r) (t := k) hclean hen hk hw hst
      generalize (s.unqueued d r).startTxn d k r = t at hstart ⊢
      obtain ⟨htxn, hent, hothers, hq, hcsr⟩ := hu.mem hstart
      obtain ⟨hbusy, htag⟩ := busyEntry_fields e
      have hreads := DKind.Plain.reads hk r.noData
      refine ⟨t, rfl, ⟨_, htxn, rfl, rfl, rfl, rfl, rfl, rfl, snoopsFor_fresh _ _ _ _ _ _ _, snoopsFor_table hst hk, hreads⟩,
        (congrArg De.state.get hent).trans hbusy, (congrArg De.tag.get hent).trans htag, hothers, ?_, fun hmode hrd => ?_,
        fun a => OnlyRegs.of_csr hcsr [] a List.not_mem_nil⟩
      · rw [hq]; exact SMap.get_set_same _ _ _ _
      · obtain ⟨y, hid, hentered, hy⟩ := hu.read hstart hmode (hreads.trans (decide_eq_true (hrd.imp_right .inl)))
        exact ⟨y, hid, hentered.of_queues rfl rfl, hy⟩
    · obtain ⟨r', hstart⟩ := State.startTxn_stray (s := s.unqueued d r) (t := k) hclean hw hk hown
      obtain ⟨hcount, hframe⟩ := (s.unqueued d r).stray_writes d r' e
      rw [hstart]
      have hsame : (s.unqueued d r).entry d (lineSet (s.unqueued d r).part.k r.addr) w = e := rfl
      rw [hsame]
      generalize (s.unqueued d r).stray d r' e = v at hcount hframe ⊢
      rw [State.walkCommit_none (hframe ▸ hwalk)]
      refine ⟨v, rfl, (congrArg State.dirEnt hframe :), (congrArg State.dirTxn hframe :), ?_, hcount, ?_⟩
      · rw [(congrArg State.dirQ hframe :)]; exact SMap.get_set_same _ _ _ _
      · rw [hframe]; rfl
  · obtain ⟨htxn, hent⟩ := State.startTxn_free (s := s.unqueued d r) (t := k) hclean hen (.inl hk) hw hfree rfl rfl
    rw [Completes, exec_dirTxnStart_next hclk hway hnext hslot]
    refine ⟨_, rfl, ⟨_, htxn, rfl, rfl, rfl, ?_⟩, hent⟩
    unfold State.opened
    rw [hk]
    rfl
  · subst hx
    obtain ⟨u, x', hgive, htxn, hrest⟩ := State.giveWay_victim (t := k) hfree hvict
    obtain ⟨hxway, hold, hwait, hvic, hsnoops, hent, hframe⟩ := hrest
    rw [Completes, exec_dirTxnStart_way hclk hway hgive]
    exact ⟨u, rfl, ⟨x', htxn, hxway, hold, hwait, hvic, hsnoops⟩, (congrArg De.state.get hent).trans (busyEntry_fields _).1, hframe⟩

end Sys2Proof.Machine

end

section

/-! PROOFS. Snoops, memory data and the commit of a directory transaction (02 R73 to R79, R82, R87, Table 02-5). -/

namespace Sys2Proof.Machine

/-! ## Lists of snoops -/

@[simp] theorem length_replaceFirst (p : Snoop → Bool) (f : Snoop → Snoop) (ns : List Snoop) :
    (replaceFirst p f ns).length = ns.length := by
  induction ns with
  | nil => rfl
  | cons n ns ih =>
    unfold replaceFirst
    split
    · rfl
    · rw [List.length_cons, List.length_cons, ih]

theorem mem_replaceFirst {n : Snoop} (f : Snoop → Snoop) {ns : List Snoop} (h : n ∈ ns) : f n ∈ replaceFirst (· == n) f ns := by
  induction ns with
  | nil => exact absurd h List.not_mem_nil
  | cons a ns ih =>
    unfold replaceFirst
    by_cases ha : a = n
    · rw [if_pos (beq_iff_eq.2 ha), ha]
      exact List.mem_cons_self
    · rw [if_neg (mt beq_iff_eq.1 ha)]
      exact List.mem_cons_of_mem _ (ih ((List.mem_cons.1 h).resolve_left (Ne.symm ha)))

/-! ## Tags -/

/-- More numbers than a list is long are not all in it. -/
theorem exists_not_mem_of_length_lt {l : List Nat} {b n : Nat} (h : l.length < n) : ∃ i < n, b + i ∉ l := by
  by_contra hall
  have hsub : (List.range n).map (b + ·) ⊆ l := fun x hx => by
    obtain ⟨i, hi, rfl⟩ := List.mem_map.1 hx
    exact by_contra fun hn => hall ⟨i, List.mem_range.1 hi, hn⟩
  have hnodup : ((List.range n).map (b + ·)).Nodup := List.nodup_range.map (add_right_injective b)
  have hlen := (hnodup.subperm hsub).length_le
  rw [List.length_map, List.length_range] at hlen
  exact absurd h (Nat.not_lt.2 hlen)

/-- The first of `n` numbers from `b` on that a list does not hold. -/
theorem firstFree_spec (l : List Nat) (b : Nat) {n : Nat} (hn : 0 < n) :
    let x := ((List.range n).find? (fun i => !l.contains (b + i))).elim b (b + ·)
    b ≤ x ∧ x < b + n ∧ (l.length < n → x ∉ l) := by
  intro x
  have hx : x = ((List.range n).find? (fun i => !l.contains (b + i))).elim b (b + ·) := rfl
  clear_value x
  cases hfind : (List.range n).find? (fun i => !l.contains (b + i)) with
  | none =>
    rw [hfind] at hx
    refine ⟨by simp [hx], by simp [hx, hn], fun hlen => ?_⟩
    obtain ⟨i, hi, hfree⟩ := exists_not_mem_of_length_lt (b := b) hlen
    exact absurd (List.find?_eq_none.1 hfind i (List.mem_range.2 hi)) (by simpa using hfree)
  | some i =>
    rw [hfind] at hx
    have hi := List.mem_range.1 (List.mem_of_find?_eq_some hfind)
    have hfree := List.find?_some hfind
    refine ⟨by simp [hx], by simp [hx, hi], fun _ => ?_⟩
    rw [hx]
    simpa using hfree

theorem State.newTag_spec (s : State) (d base : Nat) :
    base ≤ s.newTag d base ∧ s.newTag d base < base + 2 ^ 14 ∧ ((s.tagsOut d).length < 2 ^ 14 → s.newTag d base ∉ s.tagsOut d) := by
  have h := firstFree_spec (s.tagsOut d) base (n := 2 ^ 14) (by decide)
  exact h

/-! ## Snoops (R73, R79, R82, R83) -/

section
variable {s : State} {d : Die}

/-- What a snoop tells its port. -/
theorem State.snoopMsg_fields (s : State) (d : Nat) (n : Snoop) :
    let m := s.snoopMsg d n
    m.g Hd.vc = 2 ∧ m.g Hd.xtag = n.tag % 2 ^ 16 ∧ m.g Hd.addr = n.addr % 2 ^ 52 / 64 * 64 ∧ m.metaV = (if n.inval then .i else .s) ∧
      m.g Hd.stamped = 1 ∧ m.g Hd.ms24 = s.msOf d % 2 ^ 24 := by
  unfold State.snoopMsg State.stamp
  refine ⟨?_, ?_, ?_, ?_, ?_, ?_⟩
  · simp (disch := decide) only [Msg.g_w_same, Msg.g_w_apart]; rfl
  · simp (disch := decide) only [Msg.g_w_same, Msg.g_w_apart]; rfl
  · have haddr : n.addr / 64 * 64 % 2 ^ 52 = n.addr % 2 ^ 52 / 64 * 64 := by omega
    rw [← haddr]
    simp (disch := decide) only [Msg.g_w_same, Msg.g_w_apart]
    rfl
  · simp only [Msg.w_metaV]
  · simp (disch := decide) only [Msg.g_w_same, Msg.g_w_apart]; rfl
  · simp (disch := decide) only [Msg.g_w_same]
    exact Nat.mod_mod _ _

/-- A message to a port keeps every field but its destination. -/
theorem State.sendToPort_entered {s u : State} (hin : u.xin = s.xin) (hsrc : u.xsrc = s.xsrc) (hserial : u.serial = s.serial)
    (d e : Nat) (m : Msg) (p : Nat) :
    Entered s (u.sendToPort d e m p) d e ⟨s.serial, (m.w Hd.dkind 0).w Hd.dest p, p / 8, p % 8⟩ :=
  State.inject_entered hin hsrc hserial d e _ _ _

/-- A snoop to a port that is down counts as answered. -/
theorem exec_dirSnoopIssue_down (hclk : s.clockOn d = true) {k : Slot} {p : PortNo} {x : Txn} {n : Snoop} (hx : s.txn d k = some x)
    (hn : x.snoops.find? (fun n => n.port == p.val && !n.issued && !n.done) = some n) (hdown : s.portIsDown d p = true) :
    exec (.dirSnoopIssue d k p) s =
      .next (s.setTxn d k { x with snoops := replaceFirst (· == n) (fun n => { n with done := true }) x.snoops }) := by
  refine congrArg Host.Outcome.next ?_
  unfold doDirSnoopIssue
  rw [hx]
  dsimp only
  rw [hclk, if_neg (by decide), hn]
  exact if_pos hdown

/-- The snoop that leaves, and the transaction that it belongs to. -/
theorem State.snoopSent {u : State} (hu : u = { s with dirTxn := u.dirTxn }) (d : Die) (n : Snoop) (p : PortNo) :
    let t := u.sendToPort d 11 (u.snoopMsg d n) p
    (∃ m : Msg, Entered s t d 11 ⟨s.serial, m, p.val / 8, p.val % 8⟩ ∧ m.g Hd.vc = 2 ∧ m.g Hd.xtag = n.tag % 2 ^ 16 ∧
      m.g Hd.addr = n.addr % 2 ^ 52 / 64 * 64 ∧ m.metaV = (if n.inval then .i else .s) ∧ m.g Hd.stamped = 1 ∧
      m.g Hd.ms24 = s.msOf d % 2 ^ 24) ∧
      t.dirTxn = u.dirTxn ∧ t = { s with dirTxn := u.dirTxn, xin := t.xin, xsrc := t.xsrc, serial := s.serial + 1 } := by
  intro t
  obtain ⟨hvc, hxtag, haddr, hmeta, hst, hms⟩ := u.snoopMsg_fields d n
  rw [State.msOf_congr (congrArg State.ms hu :) (congrArg State.refMs hu :)] at hms
  have ht : t = u.sendToPort d 11 (u.snoopMsg d n) p := rfl
  clear_value t
  have hframe := State.inject_frame ht
  have hent := State.sendToPort_entered (s := s) (congrArg State.xin hu :) (congrArg State.xsrc hu :) (congrArg State.serial hu :) d 11
    (u.snoopMsg d n) p
  rw [← ht] at hent
  refine ⟨⟨((u.snoopMsg d n).w Hd.dkind 0).w Hd.dest p, hent, ?_, ?_, ?_, ?_, ?_, ?_⟩, (congrArg State.dirTxn hframe :), ?_⟩
  · simp (disch := decide) only [Msg.g_w_apart]; exact hvc
  · simp (disch := decide) only [Msg.g_w_apart]; exact hxtag
  · simp (disch := decide) only [Msg.g_w_apart]; exact haddr
  · rw [Msg.w_metaV, Msg.w_metaV]; exact hmeta
  · simp (disch := decide) only [Msg.g_w_apart]; exact hst
  · simp (disch := decide) only [Msg.g_w_apart]; exact hms
  · rw [hframe, hu]

/-- Else it leaves with a tag of its own. -/
theorem exec_dirSnoopIssue_up (hclk : s.clockOn d = true) {k : Slot} {p : PortNo} {x : Txn} {n : Snoop} (hx : s.txn d k = some x)
    (hn : x.snoops.find? (fun n => n.port == p.val && !n.issued && !n.done) = some n) (hdown : s.portIsDown d p = false)
    (hacc : (⟨d, p, n.addr / 64⟩ : AccRec) ∉ s.dirAcc) {m : Snoop} (hm : { n with issued := true, tag := s.newTag d 16384 } = m) :
    let u := s.setTxn d k { x with snoops := replaceFirst (· == n) (fun _ => m) x.snoops }
    exec (.dirSnoopIssue d k p) s = .next (u.sendToPort d 11 (u.snoopMsg d m) p) := by
  intro u
  refine congrArg Host.Outcome.next ?_
  unfold doDirSnoopIssue
  rw [hx]
  dsimp only
  rw [hclk, if_neg (by decide), hn]
  dsimp only
  rw [hdown, if_neg (by decide), if_neg (by simpa using hacc), hm]

end

section
variable {s : State} {d : Die}

/-! ## Responses (R73, R74, R87) -/

/-- The response of a snoop reaches its transaction: KEEP, and DATA where it brought some. -/
theorem State.snoopAnswer_open (k : Nat) {x : Txn} {m : Msg} {n : Snoop} (hn : x.snoops.find? (·.waits (m.g Hd.xtag)) = some n)
    (hvictim : x.victim = none) :
    ∃ x', s.snoopAnswer d k x m = s.setTxn d k x' ∧ { n with done := true } ∈ x'.snoops ∧ x'.keep = (x.keep || m.keep) ∧
      x'.dirty = (if m.dirty then m.beats.head? <|> x.dirty else x.dirty) ∧ x'.req = x.req := by
  have hmem := mem_replaceFirst (fun n => { n with done := true }) (List.mem_of_find?_eq_some hn)
  unfold State.snoopAnswer
  rw [hn]
  dsimp only
  rw [hvictim, if_neg (by simp)]
  cases hdirty : m.dirty with
  | false => exact ⟨_, rfl, hmem, rfl, rfl, rfl⟩
  | true =>
    cases hbeat : m.beats.head? with
    | none => exact ⟨_, rfl, hmem, rfl, rfl, rfl⟩
    | some b => exact ⟨_, rfl, hmem, rfl, rfl, rfl⟩

/-- The head of the slice's buffer on a channel is a reply whose tag meets the test. -/
theorem State.dirReplyHead_eq {v : Nat} {y : XMsg} {rest : List XMsg} (hhead : SMap.get [] s.xout (xkey d 11 v) = y :: rest)
    (hkind : y.msg.g Hd.dkind = 4) (p : Nat → Bool) : s.dirReplyHead d v p = p (y.msg.g Hd.xtag) := by
  unfold State.dirReplyHead
  rw [hhead]
  dsimp only
  rw [hkind, beq_self_eq_true, Bool.true_and]

/-- A snoop response waits at the head of the slice's buffer. -/
structure State.AnswerDue (s : State) (d : Die) (vc : Vc) (y : XMsg) (rest : List XMsg) : Prop where
  passes : s.sluiceOpen d = true
  head : SMap.get [] s.xout (xkey d 11 (Vc.code vc)) = y :: rest
  kind : y.msg.g Hd.dkind = 4
  snoop : bitOf (y.msg.g Hd.xtag) 14 = true

section
variable {vc : Vc} {y : XMsg} {rest : List XMsg}

theorem State.AnswerDue.exec_orphan (h : s.AnswerDue d vc y rest) {o : Orphan}
    (ho : s.dirOrph.find? (fun o => o.die == d.val && o.xtag == y.msg.g Hd.xtag) = some o) :
    ∃ u, s.Took u d (Vc.code vc) rest ∧ exec (.dirSnoopResponse d vc) s = .next (u.absorb d o y.msg) := by
  obtain ⟨u, htake, hu⟩ := State.takeOut_took h.head
  refine ⟨u, hu, congrArg Host.Outcome.next ?_⟩
  unfold doDirSnoopResponse
  rw [h.passes, State.dirReplyHead_eq h.head h.kind, h.snoop, if_neg (by decide), htake]
  dsimp only
  rw [hu.dirOrph, ho]

theorem State.AnswerDue.exec_open (h : s.AnswerDue d vc y rest) (ho : ∀ o ∈ s.dirOrph, ¬ (o.die = d.val ∧ o.xtag = y.msg.g Hd.xtag))
    {k : Nat} {x : Txn} (hfind : (s.txns d).find? (fun e => e.2.snoops.any (·.waits (y.msg.g Hd.xtag))) = some (k, x)) :
    ∃ u, s.Took u d (Vc.code vc) rest ∧ exec (.dirSnoopResponse d vc) s = .next (u.snoopAnswer d k x y.msg) := by
  obtain ⟨u, htake, hu⟩ := State.takeOut_took h.head
  refine ⟨u, hu, congrArg Host.Outcome.next ?_⟩
  have hnone : s.dirOrph.find? (fun o => o.die == d.val && o.xtag == y.msg.g Hd.xtag) = none :=
    List.find?_eq_none.2 fun o hmem => by simpa using ho o hmem
  unfold doDirSnoopResponse
  rw [h.passes, State.dirReplyHead_eq h.head h.kind, h.snoop, if_neg (by decide), htake]
  dsimp only
  rw [hu.dirOrph, hnone]
  dsimp only
  rw [State.txns_congr hu.dirTxn, hfind]

/-- The late response of a replayed transaction that brings no DATA is absorbed. -/
theorem State.absorb_clean {u : State} (o : Orphan) {m : Msg} (hm : m.dirty = false) (d : Nat) :
    u.absorb d o m = { u with dirOrph := u.dirOrph.erase o } := by
  unfold State.absorb
  rw [hm, if_pos (by simp)]

/-- Read data waits in the transaction that reads. -/
theorem exec_dirMemoryData_open (hsluice : s.sluiceOpen d = true) (hhead : SMap.get [] s.xout (xkey d 11 3) = y :: rest)
    (hkind : y.msg.g Hd.dkind = 4) (htag : y.msg.g Hd.xtag < 2 ^ 14)
    (ho : ∀ o ∈ s.dirOrph, ¬ (o.die = d.val ∧ o.xtag = y.msg.g Hd.xtag)) {k : Nat} {x : Txn}
    (hfind : (s.txns d).find? (fun e => e.2.rtag == y.msg.g Hd.xtag && e.2.memWait && e.2.memData.isNone) = some (k, x))
    (hbeats : y.msg.beats ≠ []) :
    ∃ u, s.Took u d 3 rest ∧ exec (.dirMemoryData d) s =
      .next (u.setTxn d k { x with memData := y.msg.beats.head?, memPois := bitOf (y.msg.g Hd.poison) 0 }) := by
  obtain ⟨u, htake, hu⟩ := State.takeOut_took hhead
  refine ⟨u, hu, congrArg Host.Outcome.next ?_⟩
  have hnone : s.dirOrph.find? (fun o => o.die == d.val && o.xtag == y.msg.g Hd.xtag) = none :=
    List.find?_eq_none.2 fun o hmem => by simpa using ho o hmem
  have hbit : ∀ i, 14 ≤ i → bitOf (y.msg.g Hd.xtag) i = false := fun i hi => by
    have hlt : y.msg.g Hd.xtag < 2 ^ i := htag.trans_le (Nat.pow_le_pow_right (by decide) hi)
    rw [bitOf, Nat.div_eq_of_lt hlt]
    rfl
  have hfirst : [3, 1].find? (fun v => s.dirReplyHead d v (fun x => !bitOf x 14)) = some 3 := by
    rw [List.find?_cons_of_pos]
    rw [State.dirReplyHead_eq hhead hkind, hbit 14 (by decide)]
    rfl
  obtain ⟨b, bs, hcons⟩ := List.exists_cons_of_ne_nil hbeats
  unfold doDirMemoryData
  dsimp only
  rw [hsluice, if_neg (by decide), hfirst]
  dsimp only
  rw [htake]
  dsimp only
  rw [hu.dirOrph, hnone]
  dsimp only
  rw [hbit 15 (by decide), if_neg (by decide), State.txns_congr hu.dirTxn, hfind, hcons]
  rfl

end

end

/-! ## The commit (R75, R77, Table 02-5) -/

/-- The entry that a commit leaves. -/
def State.commitEntry (s : State) (d : Nat) (x : Txn) : BitVec 64 :=
  let n := nextEntry (s.shareEn d) x.state x.owner x.sharers x.req.kind x.req.port x.keep
  if n.1 == 0 then 0 else mkEntry (lineTag s.part.k x.req.addr) n.1 (s.msOf d) n.2.1 n.2.2

/-- The data and the poison of the response. -/
def Txn.answer (x : Txn) : Option (BitVec 512) :=
  if !readsMem x.req.kind x.req.noData then none
  else some (if x.state == 2 then x.dirty.getD (x.memData.getD 0) else x.memData.getD 0)

def Txn.answerPois (x : Txn) : Bool :=
  x.state == 3 || (if x.state == 2 && x.dirty.isSome then x.dirtyPois else x.memPois)

/-- The write that Table 02-5 names for a commit. -/
def State.memWritten (s : State) (d : Nat) (x : Txn) : State :=
  match x.memWrite with
  | some (b, q) => s.dirMem d (memMsg d x.req.addr writeTag (some b) q)
  | none => s

theorem State.memWritten_queues (s : State) (d : Nat) (x : Txn) :
    let t := s.memWritten d x
    (∀ key, s.queued key <+: t.queued key) ∧ t = { s with xin := t.xin, xsrc := t.xsrc, serial := t.serial } := by
  intro t
  have ht : t = s.memWritten d x := rfl
  clear_value t
  unfold State.memWritten at ht
  split at ht
  · obtain ⟨m', die, ep, hm⟩ := s.dirMem_injects d (memMsg d x.req.addr writeTag _ _)
    rw [hm] at ht
    refine ⟨fun key => ?_, ?_⟩
    · rw [ht, State.inject_queued]
      exact List.prefix_append _ _
    · rw [State.inject_frame ht]
  · rw [ht]
    exact ⟨fun _ => List.prefix_refl _, rfl⟩

/-- The commit by stages: the entry, the response, the write to memory, the slot. -/
theorem State.commit_stages (s : State) (d t : Nat) (x : Txn) :
    let u := (s.setEntry d (lineSet s.part.k x.req.addr) x.way (s.commitEntry d x)).dirRespond d x.req
      (dirReply d x.req x.answer x.answerPois (s.commitEntry d x) (s.msOf d) St.ok)
    let v := u.memWritten d x
    s.commit d t x = (State.endTxn { v with dirOrph := v.dirOrph ++ x.orphans d } d t).walkCommit d (x.req.addr / 64)
      (lineSet s.part.k x.req.addr) (some x.way) := rfl

theorem State.sendToPort_queued (s : State) (d e : Nat) (m : Msg) (p : Nat) :
    (s.sendToPort d e m p).queued (xkey d e (m.g Hd.vc)) =
      s.queued (xkey d e (m.g Hd.vc)) ++ [⟨s.serial, (m.w Hd.dkind 0).w Hd.dest p, p / 8, p % 8⟩] := by
  have hvc : ((m.w Hd.dkind 0).w Hd.dest p).g Hd.vc = m.g Hd.vc := by simp (disch := decide) only [Msg.g_w_apart]
  have hq := s.inject_queued d e ((m.w Hd.dkind 0).w Hd.dest p) (p / 8) (p % 8) (xkey d e (m.g Hd.vc))
  rw [hvc, if_pos rfl] at hq
  exact hq

/-- What a commit writes, and the response of a port's request. -/
theorem State.commit_writes {s : State} {d t : Nat} {x : Txn} (hwalk : SMap.find s.dirWalk d = none) (hport : x.req.sidx < 8) {u : State}
    (hu : s.commit d t x = u) :
    u.dirEnt = (s.setEntry d (lineSet s.part.k x.req.addr) x.way (s.commitEntry d x)).dirEnt ∧
      u.dirTxn = SMap.erase s.dirTxn (txnKey d t) ∧
      (∃ y : XMsg, s.queued (xkey d 11 (if x.answer.isSome then 3 else 1)) ++ [y] <+: u.queued (xkey d 11 (if x.answer.isSome then 3 else 1)) ∧
        y.id = s.serial ∧ y.die = x.req.port / 8 ∧ y.ep = x.req.port % 8 ∧ y.msg.beats = x.answer.toList ∧
        y.msg.g Hd.poison = b2n (x.answer.isSome && x.answerPois)) ∧
      u = { s with xin := u.xin, xsrc := u.xsrc, serial := u.serial, dirEnt := u.dirEnt, dirTxn := u.dirTxn, dirOrph := u.dirOrph,
                   dirAcc := u.dirAcc } := by
  obtain ⟨hvc, hpois, -, -, hbeats⟩ := dirReply_fields d x.req x.answer x.answerPois (s.commitEntry d x) (s.msOf d) St.ok
  have hstages := hu.symm.trans (s.commit_stages d t x)
  generalize dirReply d x.req x.answer x.answerPois (s.commitEntry d x) (s.msOf d) St.ok = m at hvc hpois hbeats hstages
  obtain ⟨acc, hresp⟩ := (s.setEntry d (lineSet s.part.k x.req.addr) x.way (s.commitEntry d x)).dirRespond_port d hport m
  obtain ⟨a, ha⟩ : ∃ a, a = { s.setEntry d (lineSet s.part.k x.req.addr) x.way (s.commitEntry d x) with dirAcc := acc } := ⟨_, rfl⟩
  have haent : a.dirEnt = (s.setEntry d (lineSet s.part.k x.req.addr) x.way (s.commitEntry d x)).dirEnt := by rw [ha]
  have haframe : a = { s with dirEnt := a.dirEnt, dirAcc := a.dirAcc } := by rw [ha]; rfl
  rw [hresp, ← ha] at hstages
  clear ha hresp
  obtain ⟨b, hb⟩ : ∃ b, b = a.sendToPort d 11 m x.req.port := ⟨_, rfl⟩
  rw [← hb] at hstages
  have hbframe := State.inject_frame hb
  obtain ⟨hgrow, hvframe⟩ := b.memWritten_queues d x
  generalize b.memWritten d x = v at hstages hgrow hvframe
  have hwalk' : SMap.find ({ v with dirOrph := v.dirOrph ++ x.orphans d }.endTxn d t).dirWalk d = none := by
    change SMap.find v.dirWalk d = none
    rw [hvframe, hbframe, haframe]
    exact hwalk
  rw [State.walkCommit_none hwalk'] at hstages
  have hsame : ∀ key, a.queued key = s.queued key := fun key => by
    unfold State.queued
    rw [haframe]
  have hsent := State.sendToPort_queued a d 11 m x.req.port
  rw [hvc, ← hb, hsame] at hsent
  have hqueued : ∀ key, u.queued key = v.queued key := fun key => by rw [hstages]; rfl
  have hvtxn : v.dirTxn = s.dirTxn := by rw [hvframe, hbframe, haframe]
  have hvent : v.dirEnt = a.dirEnt := by rw [hvframe, hbframe]
  refine ⟨?_, ?_, ⟨⟨a.serial, (m.w Hd.dkind 0).w Hd.dest x.req.port, x.req.port / 8, x.req.port % 8⟩, ?_, ?_, rfl, rfl, ?_, ?_⟩, ?_⟩
  · rw [hstages]; exact hvent.trans haent
  · rw [hstages, ← hvtxn]; rfl
  · rw [hqueued, ← hsent]; exact hgrow _
  · rw [haframe]
  · exact hbeats
  · simp (disch := decide) only [Msg.g_w_apart]; exact hpois
  · rw [hstages, State.endTxn, hvframe, hbframe, haframe]

theorem State.mayCommit_of {s : State} {d : Nat} {x : Txn} (hclk : s.clockOn d = true) (hway : x.waitWay = false)
    (hsnoops : ∀ n ∈ x.snoops, n.done = true ∨ s.portIsDown d n.port = true)
    (hmem : x.memWait = true → x.memData.isSome = true ∨ x.state = 2 ∧ x.dirty.isSome = true)
    (hstamp : x.req.stamp + s.fget (Csr.dirCtrl d) DirCtrl.settle ≤ (s.msOf d : Int)) (hstart : x.started + 6 ≤ s.msOf d) :
    s.mayCommit d x = true := by
  have hall : x.snoops.all (fun n => n.done || s.portIsDown d n.port) = true :=
    List.all_eq_true.2 fun n hn => Bool.or_eq_true_iff.2 (hsnoops n hn)
  have hdata : (!x.memWait || x.memData.isSome || (x.state == 2 && x.dirty.isSome)) = true := by
    cases hw : x.memWait with
    | false => simp
    | true => simpa using hmem hw
  unfold State.mayCommit
  rw [hclk, hway, hall, hdata, decide_eq_true hstamp, decide_eq_true hstart]
  rfl

/-- A transaction all of whose conditions hold commits. -/
theorem exec_dirCommit {s : State} {d : Die} {k : Slot} {x : Txn} (hx : s.txn d k = some x) (h : s.mayCommit d x = true) :
    exec (.dirCommit d k) s = .next (s.commit d k x) := by
  refine congrArg Host.Outcome.next ?_
  unfold doDirCommit
  rw [hx]
  exact if_pos h

/-- The response carries data for the requests that read. -/
theorem Txn.answer_eq (x : Txn) :
    x.answer = if x.req.kind = .rds ∨ x.req.kind = .rdc ∨ x.req.kind = .rdo ∧ x.req.noData = false then
      some (if x.state = 2 then x.dirty.getD (x.memData.getD 0) else x.memData.getD 0) else none := by
  have hreads : readsMem x.req.kind x.req.noData =
      decide (x.req.kind = .rds ∨ x.req.kind = .rdc ∨ x.req.kind = .rdo ∧ x.req.noData = false) := by
    cases x.req.kind <;> cases x.req.noData <;> rfl
  unfold Txn.answer
  rw [hreads]
  by_cases h : x.req.kind = .rds ∨ x.req.kind = .rdc ∨ x.req.kind = .rdo ∧ x.req.noData = false
  · rw [decide_eq_true h, if_pos h, if_neg (by decide)]
    simp only [beq_iff_eq]
  · rw [decide_eq_false h, if_neg h]
    rfl

section
variable (mask st owner v p : Nat) (keep : Bool)

theorem nextEntry_wri : nextEntry mask st owner v .wri p keep = (0, 0, 0) := by
  match st with
  | 0 | 1 | 2 | 3 => rfl
  | n + 4 => rfl

theorem nextEntry_inv_rds : nextEntry mask 0 owner v .rds p keep = if sharerOf mask p == 0 then (0, 0, 0) else (1, 0, sharerOf mask p) := by
  simp only [nextEntry]

theorem nextEntry_shr_rds :
    nextEntry mask 1 owner v .rds p keep = if (v ||| sharerOf mask p) == 0 then (0, 0, 0) else (1, 0, v ||| sharerOf mask p) := by
  simp only [nextEntry]

theorem nextEntry_shr_evc : nextEntry mask 1 owner v .evc p keep = if coarseMode mask then (1, 0, v) else
    if (v &&& (2 ^ 32 - 1 - sharerOf mask p)) == 0 then (0, 0, 0) else (1, 0, v &&& (2 ^ 32 - 1 - sharerOf mask p)) := by
  simp only [nextEntry]

theorem nextEntry_exc_rds : nextEntry mask 2 owner v .rds p keep = if p == owner then (2, owner, 0) else
    if (sharerOf mask p ||| (if keep then sharerOf mask owner else 0)) == 0 then (0, 0, 0)
      else (1, 0, sharerOf mask p ||| (if keep then sharerOf mask owner else 0)) := by
  simp only [nextEntry]

theorem nextEntry_exc_rdc : nextEntry mask 2 owner v .rdc p keep = if keep then
    (if sharerOf mask owner == 0 then (0, 0, 0) else (1, 0, sharerOf mask owner)) else (0, 0, 0) := by
  simp only [nextEntry]

end

section
variable {s : State} {d : Nat} {x : Txn}

theorem State.commitEntry_inv (h : nextEntry (s.shareEn d) x.state x.owner x.sharers x.req.kind x.req.port x.keep = (0, 0, 0)) :
    s.commitEntry d x = 0 := by
  unfold State.commitEntry
  rw [h]
  rfl

/-- The entry of a commit that leaves the line tracked. -/
theorem State.commitEntry_is {st o v : Nat}
    (h : nextEntry (s.shareEn d) x.state x.owner x.sharers x.req.kind x.req.port x.keep = (st, o, v)) (hst : st ≠ 0) :
    s.commitEntry d x = mkEntry (lineTag s.part.k x.req.addr) st (s.msOf d) o v := by
  unfold State.commitEntry
  rw [h]
  exact if_neg (mt beq_iff_eq.1 hst)

/-- The entry of a line with these sharers: INV when there are none. -/
def State.SharedBy (s : State) (d : Nat) (x : Txn) (e : BitVec 64) (v : Nat) : Prop :=
  if v = 0 then e = 0 else e = mkEntry (lineTag s.part.k x.req.addr) 1 (s.msOf d) 0 v

theorem State.commitEntry_shr {v : Nat} (h : nextEntry (s.shareEn d) x.state x.owner x.sharers x.req.kind x.req.port x.keep =
    if v == 0 then (0, 0, 0) else (1, 0, v)) : s.SharedBy d x (s.commitEntry d x) v := by
  unfold State.SharedBy
  by_cases hv : v = 0
  · rewrite [if_pos hv]
    exact State.commitEntry_inv (h.trans (if_pos (beq_iff_eq.2 hv)))
  · rewrite [if_neg hv]
    exact State.commitEntry_is (h.trans (if_neg (mt beq_iff_eq.1 hv))) (by decide)

theorem ite_of {c A B : Prop} [Decidable c] (hA : c → A) (hB : ¬ c → B) : if c then A else B := by
  split
  · exact hA ‹c›
  · exact hB ‹¬ c›

/-! The rows of Table 02-5. -/

theorem nextEntry_at (mask : Nat) {x : Txn} {st : Nat} {k : DKind} (hst : x.state = st) (hk : x.req.kind = k) :
    nextEntry mask x.state x.owner x.sharers x.req.kind x.req.port x.keep = nextEntry mask st x.owner x.sharers k x.req.port x.keep := by
  rw [hst, hk]

theorem State.commitEntry_gone (h : x.req.kind = .wri ∨ x.state = 0 ∧ x.req.kind = .rdc ∨
    x.state = 2 ∧ (x.req.kind = .evc ∨ x.req.kind = .evd)) : s.commitEntry d x = 0 := by
  obtain hk | ⟨hst, hk⟩ | ⟨hst, hk | hk⟩ := h
  · exact State.commitEntry_inv ((nextEntry_at _ rfl hk).trans (nextEntry_wri ..))
  · exact State.commitEntry_inv (nextEntry_at _ hst hk)
  · exact State.commitEntry_inv (nextEntry_at _ hst hk)
  · exact State.commitEntry_inv (nextEntry_at _ hst hk)

theorem State.commitEntry_rdo (hst : x.state ≤ 2) (hk : x.req.kind = .rdo) :
    s.commitEntry d x = mkEntry (lineTag s.part.k x.req.addr) 2 (s.msOf d) x.req.port 0 := by
  obtain h | h | h : x.state = 0 ∨ x.state = 1 ∨ x.state = 2 := by omega
  · exact State.commitEntry_is (nextEntry_at _ h hk) (by decide)
  · exact State.commitEntry_is (nextEntry_at _ h hk) (by decide)
  · exact State.commitEntry_is (nextEntry_at _ h hk) (by decide)

theorem State.commitEntry_inv_rds (hst : x.state = 0) (hk : x.req.kind = .rds) :
    s.SharedBy d x (s.commitEntry d x) (sharerOf (s.shareEn d) x.req.port) :=
  State.commitEntry_shr ((nextEntry_at _ hst hk).trans (nextEntry_inv_rds ..))

theorem State.commitEntry_shr_rds (hst : x.state = 1) (hk : x.req.kind = .rds) :
    s.SharedBy d x (s.commitEntry d x) (x.sharers ||| sharerOf (s.shareEn d) x.req.port) :=
  State.commitEntry_shr ((nextEntry_at _ hst hk).trans (nextEntry_shr_rds ..))

theorem State.commitEntry_shr_rdc (hst : x.state = 1) (hk : x.req.kind = .rdc) :
    s.commitEntry d x = mkEntry (lineTag s.part.k x.req.addr) 1 (s.msOf d) 0 x.sharers :=
  State.commitEntry_is (nextEntry_at _ hst hk) (by decide)

theorem State.commitEntry_shr_evc_coarse (hst : x.state = 1) (hk : x.req.kind = .evc) (hc : coarseMode (s.shareEn d) = true) :
    s.commitEntry d x = mkEntry (lineTag s.part.k x.req.addr) 1 (s.msOf d) 0 x.sharers :=
  State.commitEntry_is (((nextEntry_at _ hst hk).trans (nextEntry_shr_evc ..)).trans (if_pos hc)) (by decide)

theorem State.commitEntry_shr_evc (hst : x.state = 1) (hk : x.req.kind = .evc) (hc : ¬ coarseMode (s.shareEn d) = true) :
    s.SharedBy d x (s.commitEntry d x) (x.sharers &&& (2 ^ 32 - 1 - sharerOf (s.shareEn d) x.req.port)) :=
  State.commitEntry_shr (((nextEntry_at _ hst hk).trans (nextEntry_shr_evc ..)).trans (if_neg hc))

theorem State.commitEntry_exc_owner (hst : x.state = 2) (hk : x.req.kind = .rds) (hp : x.req.port = x.owner) :
    s.commitEntry d x = mkEntry (lineTag s.part.k x.req.addr) 2 (s.msOf d) x.owner 0 :=
  State.commitEntry_is (((nextEntry_at _ hst hk).trans (nextEntry_exc_rds ..)).trans (if_pos (beq_iff_eq.2 hp))) (by decide)

theorem State.commitEntry_exc_rds (hst : x.state = 2) (hk : x.req.kind = .rds) (hp : x.req.port ≠ x.owner) :
    s.SharedBy d x (s.commitEntry d x)
      (sharerOf (s.shareEn d) x.req.port ||| (if x.keep then sharerOf (s.shareEn d) x.owner else 0)) :=
  State.commitEntry_shr (((nextEntry_at _ hst hk).trans (nextEntry_exc_rds ..)).trans (if_neg (mt beq_iff_eq.1 hp)))

theorem State.commitEntry_exc_rdc_keep (hst : x.state = 2) (hk : x.req.kind = .rdc) (hkeep : x.keep = true) :
    s.SharedBy d x (s.commitEntry d x) (sharerOf (s.shareEn d) x.owner) :=
  State.commitEntry_shr (((nextEntry_at _ hst hk).trans (nextEntry_exc_rdc ..)).trans (if_pos hkeep))

theorem State.commitEntry_exc_rdc (hst : x.state = 2) (hk : x.req.kind = .rdc) (hkeep : ¬ x.keep = true) : s.commitEntry d x = 0 :=
  State.commitEntry_inv (((nextEntry_at _ hst hk).trans (nextEntry_exc_rdc ..)).trans (if_neg hkeep))

theorem State.commitEntry_lost (hst : x.state = 3)
    (hk : x.req.kind = .rds ∨ x.req.kind = .rdc ∨ x.req.kind = .rdo ∧ x.req.noData = false) :
    s.commitEntry d x = mkEntry (lineTag s.part.k x.req.addr) 3 (s.msOf d) x.owner 0 := by
  obtain hk | hk | ⟨hk, -⟩ := hk
  · exact State.commitEntry_is (nextEntry_at _ hst hk) (by decide)
  · exact State.commitEntry_is (nextEntry_at _ hst hk) (by decide)
  · exact State.commitEntry_is (nextEntry_at _ hst hk) (by decide)

end

/-- Settles O29: a snoop's issue and what its response, read data or a late response change in the transaction; a commit by its
stages, its entry by Table 02-5. -/
theorem directorySnoopsAndCommit : Obligations.DirectorySnoopsAndCommit := by
  refine ⟨fun d s hclk => ⟨fun k p x n hx hn => ⟨fun hdown => ?_, fun hdown hacc => ?_⟩, ?_, ?_⟩, ?_⟩
  · have hmem := mem_replaceFirst (fun n => { n with done := true }) (List.mem_of_find?_eq_some hn)
    rw [Completes, exec_dirSnoopIssue_down hclk hx hn hdown]
    exact ⟨_, rfl, ⟨_, State.txn_setTxn_same _ _ _ _, rfl, hmem, length_replaceFirst _ _ _⟩, rfl⟩
  · obtain ⟨hlo, hhi, hnew⟩ := s.newTag_spec d 16384
    have hexec := exec_dirSnoopIssue_up hclk hx hn hdown hacc rfl
    generalize s.newTag d 16384 = tag at hlo hhi hnew hexec
    have hmem := mem_replaceFirst (fun _ => { n with issued := true, tag := tag }) (List.mem_of_find?_eq_some hn)
    obtain ⟨⟨m, hent, hvc, hxtag, hm⟩, htxn, hframe⟩ := State.snoopSent (s := s)
      (u := s.setTxn d k { x with snoops := replaceFirst (· == n) (fun _ => { n with issued := true, tag := tag }) x.snoops }) rfl d
      { n with issued := true, tag := tag } p
    have htag : tag % 2 ^ 16 = tag := Nat.mod_eq_of_lt (by omega)
    refine ⟨_, hexec, tag, hlo, hhi, hnew,
      ⟨{ x with snoops := replaceFirst (· == n) (fun _ => { n with issued := true, tag := tag }) x.snoops }, ?_, rfl, hmem,
        length_replaceFirst _ _ _⟩, ⟨_, rfl, hent, rfl, rfl, hvc, hxtag.trans htag, hm⟩, ?_⟩
    · exact (congrArg (SMap.find · (txnKey d k)) htxn).trans (SMap.find_put_same _ _ _)
    · rw [htxn]; exact hframe
  · intro vc y rest hsluice hhead hkind tag taken
    refine ⟨fun hbit ho k x n hfind hvictim hn => ?_, fun hbit hclean o ho hdie htag => ?_⟩
    · obtain ⟨u, hu, hexec⟩ := (⟨hsluice, hhead, hkind, hbit⟩ : s.AnswerDue d vc y rest).exec_open ho hfind
      obtain ⟨x', hans, hx'⟩ := State.snoopAnswer_open (s := u) (d := d) k hn hvictim
      rw [Completes, hexec, hans]
      refine ⟨_, rfl, ⟨x', State.txn_setTxn_same _ _ _ _, hx'⟩, ⟨hu.taken, hu.regs⟩, ?_⟩
      rw [State.setTxn, hu.frame]
    · have hsome : (s.dirOrph.find? (fun o => o.die == d.val && o.xtag == tag)).isSome = true :=
        List.find?_isSome.2 ⟨o, ho, by simp [hdie, htag]⟩
      obtain ⟨o', ho'⟩ := Option.isSome_iff_exists.1 hsome
      obtain ⟨u, hu, hexec⟩ := (⟨hsluice, hhead, hkind, hbit⟩ : s.AnswerDue d vc y rest).exec_orphan ho'
      rw [Completes, hexec, State.absorb_clean o' hclean, hu.dirOrph]
      have hlen := List.length_erase_add_one (List.mem_of_find?_eq_some ho')
      refine ⟨_, rfl, hlen, ⟨hu.taken, hu.regs⟩, ?_⟩
      rw [hu.frame]
  · intro y rest k x hsluice hhead hkind htag ho hfind hbeats
    obtain ⟨u, hu, hexec⟩ := exec_dirMemoryData_open hsluice hhead hkind htag ho hfind hbeats
    rw [Completes, hexec]
    refine ⟨_, rfl, ⟨_, State.txn_setTxn_same _ _ _ _, rfl⟩, hu.taken, hu.regs, ?_⟩
    rw [State.setTxn, hu.frame]
  · intro d k x s hclk hx hway hsnoops hmem hstamp hstart hwalk _ hport mask set p P O V st kind reads _
    rw [Completes, exec_dirCommit hx (State.mayCommit_of hclk hway hsnoops hmem hstamp hstart)]
    refine ⟨_, rfl, ?_⟩
    generalize hu : s.commit d k x = t
    obtain ⟨hent, htxn, ⟨y, hsent, hid, hdie, hep, hbeats, hpois⟩, hframe⟩ := State.commit_writes hwalk hport hu
    have hentry : t.entry d set x.way = s.commitEntry d x :=
      (congrArg (fun m => SMap.get 0 m (entKey d set x.way)) hent).trans (SMap.get_set_same _ _ _ _)
    have hanswer := x.answer_eq
    have hreads : x.answer.isSome = decide reads := by
      rw [hanswer]
      by_cases h : reads
      · rw [if_pos h, decide_eq_true h]; rfl
      · rw [if_neg h, decide_eq_false h]; rfl
    obtain ⟨c, hc⟩ : ∃ c, coarseMode mask = c := ⟨_, rfl⟩
    rw [hentry, hc]
    intro is shr inv
    refine ⟨State.commitEntry_gone, fun h => State.commitEntry_rdo h.1 h.2, fun h => State.commitEntry_inv_rds h.1 h.2,
      fun h => State.commitEntry_shr_rds h.1 h.2, fun h => State.commitEntry_shr_rdc h.1 h.2,
      ?_,
      fun h => State.commitEntry_exc_owner h.1 h.2.1 h.2.2, fun h => State.commitEntry_exc_rds h.1 h.2.1 h.2.2,
      ?_,
      fun h => State.commitEntry_lost h.1 h.2, fun key hkey => ?_, ?_, fun key hkey => ?_,
      ⟨y, ?_, hid, hdie, hep, ?_, ?_⟩, fun a => OnlyRegs.of_csr (congrArg State.csr hframe :) [] a List.not_mem_nil, hframe⟩
    · intro h
      cases c with
      | true => exact State.commitEntry_shr_evc_coarse h.1 h.2 hc
      | false => exact State.commitEntry_shr_evc h.1 h.2 (Bool.not_eq_true _ ▸ hc)
    · intro h
      exact ite_of (State.commitEntry_exc_rdc_keep h.1 h.2) (State.commitEntry_exc_rdc h.1 h.2)
    · rw [hent]; exact State.dirEnt_setEntry_ne s _ hkey
    · rw [State.txn, htxn]; exact SMap.find_erase_same _ _
    · rw [htxn]; exact SMap.find_erase_ne _ hkey
    · have hchan : (if x.answer.isSome = true then 3 else 1) = if reads then 3 else 1 := by
        rw [hreads]
        simp only [decide_eq_true_eq]
      rw [hchan] at hsent
      exact hsent
    · rw [hbeats, hanswer]
      by_cases h : reads
      · rw [if_pos h, if_pos h]; rfl
      · rw [if_neg h, if_neg h]; rfl
    · intro hst h
      have hlost : x.answerPois = true := by
        unfold Txn.answerPois
        rw [beq_iff_eq.2 hst]
        rfl
      rw [hpois, hreads, hlost, decide_eq_true h]
      rfl

end Sys2Proof.Machine

end

section

/-! PROOFS. The wait for a way, the port-down message and the port-down walk of the directory (02 R81, R82). -/

namespace Sys2Proof.Machine

/-! ## A request that waits for a way (R81) -/

section
variable {s : State} {d : Die}

/-- A set all of whose ways are LOST or BUSY has no way to give. -/
theorem State.freeWay_none {set : Nat} (h : ∀ w < 16, De.state.get (s.entry d set w) = 3 ∨ De.state.get (s.entry d set w) = 4) :
    s.freeWay d set = none := by
  refine List.find?_eq_none.2 fun w hw => ?_
  rcases h w (List.mem_range.1 hw) with hst | hst <;> simp [hst]

theorem State.victimWay_none {set : Nat} (h : ∀ w < 16, De.state.get (s.entry d set w) = 3 ∨ De.state.get (s.entry d set w) = 4) :
    s.victimWay d set = none := by
  refine List.find?_eq_none.2 fun w hw => ?_
  obtain ⟨i, -, hi⟩ := List.mem_map.1 hw
  have hlt : w < 16 := hi ▸ Nat.mod_lt _ (by decide)
  rcases h w hlt with hst | hst <;> simp [hst]

/-- The transaction ends without an entry, and its requester is answered. -/
def State.waitEnded (s : State) (d k : Nat) (x : Txn) : State :=
  let u := State.endTxn { s with dirOrph := s.dirOrph ++ x.orphans d } d k
  if x.req.fromEngine then u.dirRespond d x.req (dirReply d x.req x.req.failData true 0 (u.msOf d) St.timeout)
  else u.emit (.linkError x.req.port x.req.msg)

theorem exec_setWaitTimeout (hclk : s.clockOn d = true) {k : Slot} {x : Txn} (hx : s.txn d k = some x) (hway : x.waitWay = true)
    (hms : x.started + 2000 ≤ s.msOf d) (hset : ∀ w < 16, De.state.get (s.entry d (lineSet s.part.k x.req.addr) w) = 3 ∨
      De.state.get (s.entry d (lineSet s.part.k x.req.addr) w) = 4) (hwalk : SMap.find s.dirWalk d = none) :
    exec (.setWaitTimeout d k) s = .next (((s.waitEnded d k x).count (Csr.dirSetCnt d) DirSetCnt.exhausted 1).noticeLim d 0x0208 0
      [(1, d), (2, lineSet s.part.k x.req.addr), (1, x.req.who), (1, x.req.code)]) := by
  refine congrArg Host.Outcome.next ?_
  unfold doSetWaitTimeout
  rw [hx]
  dsimp only
  rw [hclk, hway, decide_eq_true hms, State.freeWay_none hset, State.victimWay_none hset, if_neg (by decide),
    State.walkCommit_none (s := State.endTxn { s with dirOrph := s.dirOrph ++ x.orphans d } d k) hwalk, State.waitEnded]

/-- A link's request: an error of the link. -/
theorem State.waitEnded_port (s : State) (d k : Nat) {x : Txn} (h : x.req.sidx < 8) :
    let u := s.waitEnded d k x
    u.txn d k = none ∧ u.outbox = s.outbox ++ [.linkError x.req.port x.req.msg] ∧
      u = { s with dirOrph := u.dirOrph, dirTxn := u.dirTxn, outbox := u.outbox } := by
  have hport : x.req.fromEngine = false := decide_eq_false (Nat.not_le.2 h)
  unfold State.waitEnded
  rw [hport]
  exact ⟨State.txn_endTxn_same _ _ _, rfl, rfl⟩

/-- An engine's request: TIMEOUT. -/
theorem State.waitEnded_engine (s : State) (d k : Nat) {x : Txn} (h : 8 ≤ x.req.sidx) :
    let u := s.waitEnded d k x
    (∃ y : XMsg, y.msg.g Hd.dkind = 4 ∧ y.msg.g Hd.status = St.timeout ∧ y.die = x.req.sdie % 8 ∧ y.id = s.serial ∧ Entered s u d 11 y) ∧
      u.txn d k = none ∧
      u = { s with dirOrph := u.dirOrph, dirTxn := u.dirTxn, xin := u.xin, xsrc := u.xsrc, serial := u.serial, dirAcc := u.dirAcc } := by
  have heng : x.req.fromEngine = true := decide_eq_true h
  unfold State.waitEnded
  dsimp only
  rw [if_pos heng]
  obtain ⟨v, hv⟩ : ∃ v, v = State.endTxn { s with dirOrph := s.dirOrph ++ x.orphans d } d k := ⟨_, rfl⟩
  have hframe : v = { s with dirOrph := v.dirOrph, dirTxn := v.dirTxn } := by rw [hv]; rfl
  have htxn : v.txn d k = none := by rw [hv]; exact State.txn_endTxn_same _ _ _
  rw [← hv]
  clear hv
  obtain ⟨-, -, -, hstatus, -⟩ := dirReply_fields d x.req x.req.failData true 0 (v.msOf d) St.timeout
  generalize dirReply d x.req x.req.failData true 0 (v.msOf d) St.timeout = m at hstatus ⊢
  obtain ⟨y, hk, hst, -, hdie, -, hid, hent⟩ := State.dirRespond_engine_reply (s := s) (u := v) (congrArg State.xin hframe :)
    (congrArg State.xsrc hframe :) (congrArg State.serial hframe :) d h m
  have hsent := v.dirRespond_frame d x.req m
  generalize v.dirRespond d x.req m = u at hent hsent ⊢
  refine ⟨⟨y, hk, hst.trans hstatus, hdie, hid, hent⟩, (congrArg (State.txn · d k) hsent :).trans htxn, ?_⟩
  rw [hsent, hframe]

/-- Either way nothing changes but slots, late responses, acceptances and what leaves the slice. -/
theorem State.waitEnded_writes (s : State) (d k : Nat) (x : Txn) :
    let u := s.waitEnded d k x
    u.txn d k = none ∧ u = { s with dirOrph := u.dirOrph, dirTxn := u.dirTxn, outbox := u.outbox, xin := u.xin, xsrc := u.xsrc,
                                    serial := u.serial, dirAcc := u.dirAcc } := by
  by_cases h : 8 ≤ x.req.sidx
  · obtain ⟨-, htxn, hframe⟩ := s.waitEnded_engine d k h
    exact ⟨htxn, by rw [hframe]⟩
  · obtain ⟨htxn, -, hframe⟩ := s.waitEnded_port d k (Nat.not_le.1 h)
    exact ⟨htxn, by rw [hframe]⟩

/-- The count and the notice of a request that has waited too long. -/
theorem State.waitNoted_writes {s u : State} (hu : u = { s with
      dirOrph := u.dirOrph, dirTxn := u.dirTxn, outbox := u.outbox, xin := u.xin, xsrc := u.xsrc, serial := u.serial, dirAcc := u.dirAcc })
    (d : Die) (fs : List (Nat × Nat)) :
    let t := (u.count (Csr.dirSetCnt d) DirSetCnt.exhausted 1).noticeLim d 0x0208 0 fs
    t.fget (Csr.dirSetCnt d) DirSetCnt.exhausted =
        min (s.fget (Csr.dirSetCnt d) DirSetCnt.exhausted + 1) (2 ^ DirSetCnt.exhausted.width - 1) ∧
      OnlyRegs s t [Csr.dirSetCnt d, Csr.ndQdropCnt (queueOf d)] ∧
      (s.windowOpen d 0x0208 0 = false → (s.waiting d).length < 64 → t.waiting d = s.waiting d ++ [s.item d 0x0208 fs]) ∧
      t.dirEnt = s.dirEnt ∧ t.dirTxn = u.dirTxn ∧ t.xin = u.xin ∧ t.xsrc = u.xsrc ∧ t.outbox = u.outbox := by
  have hcsr : u.csr = s.csr := (congrArg State.csr hu :)
  have hms : u.ms = s.ms := (congrArg State.ms hu :)
  have href : u.refMs = s.refMs := (congrArg State.refMs hu :)
  have hq : u.queues = s.queues := (congrArg State.queues hu :)
  have hw : u.windows = s.windows := (congrArg State.windows hu :)
  have hrep := ((Reports.refl u).count (Csr.dirSetCnt d) DirSetCnt.exhausted 1).noticeLim d 0x0208 0 fs
  have hread : u.fget (Csr.dirSetCnt d) DirSetCnt.exhausted = s.fget (Csr.dirSetCnt d) DirSetCnt.exhausted :=
    State.fget_congr (OnlyRegs.of_csr hcsr [] _ List.not_mem_nil) _
  have hwait : (u.count (Csr.dirSetCnt d) DirSetCnt.exhausted 1).waiting d = s.waiting d :=
    (State.waiting_congr (State.count_queues u (Csr.dirSetCnt d) 1 DirSetCnt.exhausted) d).trans (State.waiting_congr hq d)
  have hopen : (u.count (Csr.dirSetCnt d) DirSetCnt.exhausted 1).windowOpen d 0x0208 0 = s.windowOpen d 0x0208 0 :=
    (State.windowOpen_congr (State.count_windows ..) (State.count_ms ..) (State.count_refMs ..) d _ _).trans
      (State.windowOpen_congr hw hms href d _ _)
  have hregs : OnlyRegs s (u.count (Csr.dirSetCnt d) DirSetCnt.exhausted 1) [Csr.dirSetCnt d] := .count (.of_csr hcsr _) (by simp) _ _
  have hitem : (u.count (Csr.dirSetCnt d) DirSetCnt.exhausted 1).item d 0x0208 fs = s.item d 0x0208 fs := by
    refine State.item_congr (hregs _ ?_) ((State.count_ms ..).trans hms) ((State.count_refMs ..).trans href) d _ fs
    have := d.isLt
    simp only [List.mem_singleton, Csr.dirSetCnt, Csr.towSts, csrAddr, stw]
    omega
  refine ⟨?_, .noticeLim (hregs.mono (by simp)) (by simp) _ _ _, fun hwin hroom => ?_,
    (congrArg State.dirEnt hrep :).trans (congrArg State.dirEnt hu :), (congrArg State.dirTxn hrep :), (congrArg State.xin hrep :),
    (congrArg State.xsrc hrep :), (congrArg State.outbox hrep :)⟩
  · rw [← hread]
    exact (State.fget_noticeLim (dieReg_ne_drop d _ (off := 0x4000038) (by decide)) _).trans (State.fget_count_same _ _ _ _ (by decide))
  · rw [← hwait, ← hitem]
    rw [← hopen] at hwin
    rw [← hwait] at hroom
    exact State.waiting_noticeLim hwin hroom fs

end

/-! ## The port-down message (R82) -/

theorem State.portIsDown_fsetBit_true (s : State) (d p : Nat) :
    (s.fsetBit (downReg d p) DirPortDownLo.down (p % 32) true).portIsDown d p = true := by
  unfold State.portIsDown State.fsetBit
  rw [if_pos rfl, State.fget_fset_same _ _ _ _ (by decide),
    bitOf_mod_two_pow (show p % 32 < DirPortDownLo.down.width from Nat.mod_lt _ (by decide)), bitOf_setBitN]
  simp

theorem State.fsetBit_rest (s : State) (a : Nat) (f : Fld) (i : Nat) (b : Bool) :
    let t := s.fsetBit a f i b
    t = { s with csr := t.csr } := s.csrSet_rest _ _

theorem State.portIsDown_congr {s t : State} (h : t.csr = s.csr) (d p : Nat) : t.portIsDown d p = s.portIsDown d p := by
  unfold State.portIsDown
  rw [State.fget_congr (OnlyRegs.of_csr h [] _ List.not_mem_nil)]

/-- What a map of the entries of one group makes of an entry. -/
theorem find_map_group (f : Txn → Txn) (d : Nat) (m : SMap Txn) (key : Nat) :
    SMap.find (m.map (fun (e : Nat × Txn) => if e.1 / 256 == d then (e.1, f e.2) else e)) key =
      (SMap.find m key).map (if key / 256 = d then f else id) := by
  induction m with
  | nil => rfl
  | cons e m ih =>
    have hkey : (if e.1 / 256 == d then (e.1, f e.2) else e).1 = e.1 := by split <;> rfl
    rw [List.map_cons, SMap.find, SMap.find, hkey]
    by_cases h : e.1 = key
    · rw [if_pos h, if_pos h, ← h, Option.map_some]
      by_cases hd : e.1 / 256 = d
      · rw [if_pos (beq_iff_eq.2 hd), if_pos hd]
      · rw [if_neg (mt beq_iff_eq.1 hd), if_neg hd]
        rfl
    · rw [if_neg h, if_neg h, ih]

section
variable {s : State} {d : Die} {p : PortNo} {y : XMsg} {rest : List XMsg}

/-- The snoops, the late responses and the acceptances of a port that nobody waits for any more. -/
def State.portQuiet (s : State) (d p : Nat) : State :=
  { s with
    dirTxn := s.dirTxn.map (fun (e : Nat × Txn) => if e.1 / 256 == d then (e.1, e.2.portGone p) else e)
    dirOrph := s.dirOrph.filter (fun o => !(o.die == d && o.port == some p))
    dirAcc := s.dirAcc.filter (fun a => !(a.die == d && a.port == p)) }

/-- The port's bit is set as well. -/
def State.portFell (s : State) (d p : Nat) : State := (s.fsetBit (downReg d p) DirPortDownLo.down (p % 32) true).portQuiet d p

/-- A port joins the walk of a slice, unless it is there. -/
def State.walkJoined (s : State) (d p : Nat) : State :=
  let w := (SMap.find s.dirWalk d).getD { next := 0, ports := [] }
  if w.ports.any (·.port == p) then s
  else
    let q : WalkPort := { port := p, left := 16384, deferred := [], removed := 0, lost := 0 }
    { s with dirWalk := SMap.put s.dirWalk d { w with ports := w.ports ++ [q] } }

theorem exec_dirPortDown (hopen : s.sluiceOpen d = true) (hhead : SMap.get [] s.xout (xkey d 11 4) = y :: rest) (hname : y.msg.name = .escDown)
    (hport : y.msg.g Hd.port = p) :
    ∃ u, s.Took u d 4 rest ∧ exec (.dirPortDown d p) s = .next ((u.portFell d p).walkJoined d p) := by
  obtain ⟨u, htake, hu⟩ := State.takeOut_took hhead
  have hdown : s.downHead d = some p.val := by
    unfold State.downHead
    rw [hhead, List.head?_cons, Option.bind_some, hname, if_pos (by decide), hport]
  refine ⟨u, hu, congrArg Host.Outcome.next ?_⟩
  unfold doDirPortDown
  rw [hopen, hdown, beq_self_eq_true, if_neg (by decide), htake]
  rfl

end

theorem State.txn_portQuiet {s : State} {d : Die} {k : Slot} {x : Txn} (hx : s.txn d k = some x) (p : Nat) :
    (s.portQuiet d p).txn d k = some (x.portGone p) := by
  have hgroup : txnKey d k / 256 = d.val := by
    have := k.isLt
    unfold txnKey
    omega
  have hfind := find_map_group (Txn.portGone p) d s.dirTxn (txnKey d k)
  rw [if_pos hgroup, show SMap.find s.dirTxn (txnKey d k) = some x from hx] at hfind
  exact hfind

theorem State.portQuiet_writes {s u : State} (hu : u = { s with csr := u.csr }) (d : Die) (p : Nat) :
    let t := u.portQuiet d p
    (∀ (k : Slot) (x : Txn), s.txn d k = some x → t.txn d k = some (x.portGone p)) ∧ t.dirWalk = s.dirWalk ∧ t.csr = u.csr ∧
      t = { s with csr := t.csr, dirTxn := t.dirTxn, dirOrph := t.dirOrph, dirAcc := t.dirAcc } := by
  refine ⟨fun k x hx => State.txn_portQuiet ((State.txn_congr (congrArg State.dirTxn hu :) d k).trans hx) p, ?_, rfl, ?_⟩
  · exact (congrArg State.dirWalk hu :)
  · unfold State.portQuiet
    rw [hu]

theorem State.portFell_writes (s : State) (d : Die) (p : PortNo) :
    let t := s.portFell d p
    t.portIsDown d p = true ∧ OnlyRegs s t [downReg d p] ∧
      (∀ (k : Slot) (x : Txn), s.txn d k = some x → t.txn d k = some (x.portGone p)) ∧ t.dirWalk = s.dirWalk ∧
      t = { s with csr := t.csr, dirTxn := t.dirTxn, dirOrph := t.dirOrph, dirAcc := t.dirAcc } := by
  obtain ⟨htxn, hwalk, hcsr, hframe⟩ :=
    State.portQuiet_writes (s.fsetBit_rest (downReg d p) DirPortDownLo.down (p % 32) true) d p
  have hregs : OnlyRegs s (s.fsetBit (downReg d p) DirPortDownLo.down (p % 32) true) [downReg d p] :=
    (OnlyRegs.refl s _).fset (by simp) _ _
  exact ⟨(State.portIsDown_congr hcsr d p).trans (s.portIsDown_fsetBit_true d p), hregs.trans (.of_csr hcsr _), htxn, hwalk, hframe⟩

/-- The walk of a slice that a port has joined. -/
theorem State.walkJoined_writes (s : State) (d p : Nat) :
    let t := s.walkJoined d p
    (∃ k, SMap.find t.dirWalk d = some k ∧ k.ports.any (·.port == p) = true ∧
      (SMap.find s.dirWalk d = none → k = { next := 0, ports := [{ port := p, left := 16384, deferred := [], removed := 0, lost := 0 }] }) ∧
      (∀ k', SMap.find s.dirWalk d = some k' → k'.ports.any (·.port == p) = true → k = k')) ∧
      t = { s with dirWalk := t.dirWalk } := by
  unfold State.walkJoined
  dsimp only
  by_cases hany : ((SMap.find s.dirWalk d).getD { next := 0, ports := [] }).ports.any (·.port == p) = true
  · rw [if_pos hany]
    cases hfind : SMap.find s.dirWalk d with
    | none =>
      rw [hfind] at hany
      exact absurd hany Bool.false_ne_true
    | some k =>
      rw [hfind] at hany
      exact ⟨⟨k, rfl, hany, fun h => absurd h (by simp), fun k' h _ => Option.some.inj h⟩, rfl⟩
  · rw [if_neg hany]
    refine ⟨⟨_, SMap.find_put_same _ _ _, ?_, fun h => ?_, fun k' h hk' => ?_⟩, rfl⟩
    · simp
    · rw [h]
      rfl
    · rw [h] at hany
      exact absurd hk' hany

theorem Txn.portGone_spec (p : Nat) (x : Txn) :
    x.portGone p = { x with snoops := (x.portGone p).snoops } ∧ ∀ n ∈ (x.portGone p).snoops, n.port = p → n.done = true := by
  refine ⟨rfl, fun n hn hp => ?_⟩
  obtain ⟨m, -, rfl⟩ := List.mem_map.1 hn
  by_cases h : m.port = p
  · rw [if_pos (beq_iff_eq.2 h)]
  · rw [if_neg (mt beq_iff_eq.1 h)] at hp
    exact absurd hp h

/-! ## One set of the walk (R82) -/

section
variable {mask p : Nat} {e : BitVec 64}

/-- The entry of a precise sharer, and the entry of an owner. -/
def walkShared (mask p : Nat) (e : BitVec 64) : Bool := De.state.get e == 1 && !coarseMode mask && covers mask (De.sharers.get e) p

def walkOwned (p : Nat) (e : BitVec 64) : Bool := De.state.get e == 2 && De.owner.get e == p

theorem walkEntry_removed : (walkEntry mask p e).2.1 = walkShared mask p e := by
  unfold walkEntry walkShared
  split
  · rename_i h
    rw [h]
    cases coarseMode mask <;> cases covers mask (De.sharers.get e) p <;> rfl
  · rename_i h
    rw [h]
    split <;> rfl
  · rename_i h1 h2
    rw [beq_eq_false_iff_ne.2 h1]
    rfl

theorem walkEntry_lost : (walkEntry mask p e).2.2 = walkOwned p e := by
  unfold walkEntry walkOwned
  split
  · rename_i h
    rw [h]
    split <;> rfl
  · rename_i h
    rw [h]
    cases De.owner.get e == p <;> rfl
  · rename_i h1 h2
    rw [beq_eq_false_iff_ne.2 h2]
    rfl

theorem walkEntry_shared (h : walkShared mask p e = true) : (walkEntry mask p e).1 =
    if De.sharers.get e &&& (2 ^ 32 - 1 - sharerOf mask p) = 0 then 0
    else De.sharers.put e (De.sharers.get e &&& (2 ^ 32 - 1 - sharerOf mask p)) := by
  unfold walkShared at h
  obtain ⟨h12, hcov⟩ := Bool.and_eq_true_iff.1 h
  obtain ⟨hst, hfine⟩ := Bool.and_eq_true_iff.1 h12
  unfold walkEntry
  rw [beq_iff_eq.1 hst, hcov, (Bool.not_eq_true' _).mp hfine]
  simp only [Bool.not_true, Bool.or_self, Bool.false_eq_true, if_false, beq_iff_eq]

theorem walkEntry_owned (h : walkOwned p e = true) : (walkEntry mask p e).1 = De.state.put e 3 := by
  unfold walkOwned at h
  obtain ⟨hst, hown⟩ := Bool.and_eq_true_iff.1 h
  unfold walkEntry
  rw [beq_iff_eq.1 hst, hown]
  rfl

theorem walkEntry_other (hs : walkShared mask p e = false) (ho : walkOwned p e = false) : (walkEntry mask p e).1 = e := by
  unfold walkShared at hs
  unfold walkOwned at ho
  unfold walkEntry
  split
  · rename_i h
    have hc : (coarseMode mask || !covers mask (De.sharers.get e) p) = true := by
      rw [h, beq_self_eq_true, Bool.true_and] at hs
      rw [← Bool.not_eq_false', Bool.not_or, Bool.not_not]
      exact hs
    rw [if_pos hc]
  · rename_i h
    have hc : ¬ (De.owner.get e == p) = true := by
      rw [h, beq_self_eq_true, Bool.true_and] at ho
      exact Bool.eq_false_iff.1 ho
    rw [if_neg hc]
  · rfl

end

/-- The number of ways of a list whose entries meet a test. -/
def State.waysWith (s : State) (d set : Nat) (f : BitVec 64 → Bool) (ws : List Nat) : Nat :=
  (ws.filter (fun w => f (s.entry d set w))).length

/-- The record of a port after its walk has covered some ways of a set. -/
def State.walkedPort (s : State) (d set : Nat) (q : WalkPort) (ws : List Nat) : WalkPort :=
  { q with
    removed := q.removed + s.waysWith d set (walkShared (s.shareEn d) q.port) ws
    lost := q.lost + s.waysWith d set (walkOwned q.port) ws }

/-- From `s` to `u` the walk of a port covered some ways of a set. -/
structure State.Walked (s u : State) (d set : Nat) (q : WalkPort) (ws : List Nat) : Prop where
  done : ∀ w ∈ ws, u.entry d set w = (walkEntry (s.shareEn d) q.port (s.entry d set w)).1
  others : ∀ key, (∀ w ∈ ws, key ≠ entKey d set w) → SMap.get 0 u.dirEnt key = SMap.get 0 s.dirEnt key
  count : u.fget (Csr.dirLostCnt d) DirLostCnt.lost =
    min (s.fget (Csr.dirLostCnt d) DirLostCnt.lost + s.waysWith d set (walkOwned q.port) ws) (2 ^ DirLostCnt.lost.width - 1)
  regs : OnlyRegs s u [Csr.dirLostCnt d]
  frame : u = { s with csr := u.csr, dirEnt := u.dirEnt }

section
variable {s u : State} {d : Nat} {set : Nat} {q : WalkPort} {ws : List Nat}

theorem State.Walked.none (s : State) (d set : Nat) (q : WalkPort) : s.Walked s d set q [] := by
  have hlt : s.fget (Csr.dirLostCnt d) DirLostCnt.lost < 2 ^ DirLostCnt.lost.width := Fld.get_lt _ _
  refine ⟨fun w hw => absurd hw List.not_mem_nil, fun _ _ => rfl, ?_, .refl s _, rfl⟩
  exact (Nat.min_eq_left (Nat.le_sub_one_of_lt hlt)).symm

theorem State.Walked.shareEn (h : s.Walked u d set q ws) : u.shareEn d = s.shareEn d := by
  have hreg : ∀ off, off ≠ 0x4000034 → u.csrGet (csrAddr d off) = s.csrGet (csrAddr d off) := fun off hoff => by
    refine h.regs _ fun hm => hoff ?_
    have heq := List.mem_singleton.1 hm
    simp only [Csr.dirLostCnt, csrAddr] at heq
    omega
  have hlo : u.csrGet (Csr.dirShareEnLo d) = s.csrGet (Csr.dirShareEnLo d) := hreg 0x4000008 (by decide)
  have hhi : u.csrGet (Csr.dirShareEnHi d) = s.csrGet (Csr.dirShareEnHi d) := hreg 0x400000C (by decide)
  unfold State.shareEn
  rw [State.fget_congr hlo, State.fget_congr hhi]

theorem State.waysWith_append (s : State) (d set : Nat) (f : BitVec 64 → Bool) (ws : List Nat) (w : Nat) :
    s.waysWith d set f (ws ++ [w]) = s.waysWith d set f ws + b2n (f (s.entry d set w)) := by
  unfold State.waysWith
  rw [List.filter_append, List.length_append]
  cases h : f (s.entry d set w) <;> simp [h, b2n]

/-- The walk's port at one way. -/
theorem State.walkWay_eq (s : State) (d set w : Nat) (q : WalkPort) :
    let e := s.entry d set w
    let mask := s.shareEn d
    let u := s.setEntry d set w (walkEntry mask q.port e).1
    s.walkWay d set w q = (if walkOwned q.port e then u.count (Csr.dirLostCnt d) DirLostCnt.lost 1 else u,
      { q with removed := q.removed + b2n (walkShared mask q.port e), lost := q.lost + b2n (walkOwned q.port e) }) := by
  intro e mask u
  unfold State.walkWay
  dsimp only
  rw [walkEntry_removed, walkEntry_lost]

/-- A line that is lost is counted. -/
theorem State.lostCounted (s : State) (d : Nat) (b : Bool) :
    let t := if b then s.count (Csr.dirLostCnt d) DirLostCnt.lost 1 else s
    t.fget (Csr.dirLostCnt d) DirLostCnt.lost =
        min (s.fget (Csr.dirLostCnt d) DirLostCnt.lost + b2n b) (2 ^ DirLostCnt.lost.width - 1) ∧
      OnlyRegs s t [Csr.dirLostCnt d] ∧ t = { s with csr := t.csr } := by
  cases b with
  | true => exact ⟨State.fget_count_same _ _ _ _ (by decide), (OnlyRegs.refl s _).count (by simp) _ _, s.csrSet_rest _ _⟩
  | false =>
    have hlt : s.fget (Csr.dirLostCnt d) DirLostCnt.lost < 2 ^ DirLostCnt.lost.width := Fld.get_lt _ _
    exact ⟨(Nat.min_eq_left (Nat.le_sub_one_of_lt hlt)).symm, .refl s _, rfl⟩

theorem entKey_inj {d set w w' : Nat} (h : entKey d set w = entKey d set w') : w = w' := Nat.add_left_cancel h

theorem State.Walked.entry_left (h : s.Walked u d set q ws) {w : Nat} (hw : w ∉ ws) : u.entry d set w = s.entry d set w :=
  h.others _ fun _ hm he => hw (entKey_inj he ▸ hm)

/-- One more way. -/
theorem State.Walked.next (h : s.Walked u d set q ws) {w : Nat} {v t : State}
    (hv : v.dirEnt = SMap.set 0 u.dirEnt (entKey d set w) (walkEntry (s.shareEn d) q.port (s.entry d set w)).1)
    (hvrest : v = { u with dirEnt := v.dirEnt })
    (hcount : t.fget (Csr.dirLostCnt d) DirLostCnt.lost =
      min (v.fget (Csr.dirLostCnt d) DirLostCnt.lost + b2n (walkOwned q.port (s.entry d set w))) (2 ^ DirLostCnt.lost.width - 1))
    (hregs : OnlyRegs v t [Csr.dirLostCnt d]) (ht : t = { v with csr := t.csr }) : s.Walked t d set q (ws ++ [w]) := by
  have hcsr : v.csr = u.csr := (congrArg State.csr hvrest :)
  have hent : t.dirEnt = SMap.set 0 u.dirEnt (entKey d set w) (walkEntry (s.shareEn d) q.port (s.entry d set w)).1 :=
    (congrArg State.dirEnt ht :).trans hv
  refine ⟨fun w' hw' => ?_, fun key hkey => ?_, ?_, h.regs.trans ((OnlyRegs.of_csr hcsr _).trans hregs), ?_⟩
  · unfold State.entry
    rw [hent]
    by_cases heq : w' = w
    · rw [heq, SMap.get_set_same]
      rfl
    · have hold : w' ∈ ws := (List.mem_append.1 hw').resolve_right (by simpa using heq)
      rw [SMap.get_set_ne _ _ _ _ fun he => heq (entKey_inj he)]
      exact h.done w' hold
  · rw [hent, SMap.get_set_ne _ _ _ _ (hkey w (by simp))]
    exact h.others key fun w' hw' => hkey w' (by simp [hw'])
  · have hread : v.fget (Csr.dirLostCnt d) DirLostCnt.lost = u.fget (Csr.dirLostCnt d) DirLostCnt.lost :=
      State.fget_congr (OnlyRegs.of_csr hcsr [] _ List.not_mem_nil) _
    rw [hcount, hread, h.count, State.waysWith_append]
    omega
  · rw [ht, hvrest, h.frame]

theorem State.walkOne_one (s : State) (d set w : Nat) {q : WalkPort} (hleft : q.left ≠ 0) :
    s.walkOne d set w [q] [] = ((s.walkWay d set w q).1, [(s.walkWay d set w q).2]) := by
  unfold State.walkOne
  rw [if_neg (mt beq_iff_eq.1 hleft)]
  rfl

theorem State.walkedPort_append (s : State) (d set : Nat) (q : WalkPort) (ws : List Nat) (w : Nat) :
    s.walkedPort d set q (ws ++ [w]) =
      { s.walkedPort d set q ws with
        removed := (s.walkedPort d set q ws).removed + b2n (walkShared (s.shareEn d) q.port (s.entry d set w))
        lost := (s.walkedPort d set q ws).lost + b2n (walkOwned q.port (s.entry d set w)) } := by
  unfold State.walkedPort
  rw [State.waysWith_append, State.waysWith_append, Nat.add_assoc, Nat.add_assoc]

/-- The walk of one port over ways of a set. -/
theorem State.walk_ways (s : State) (d set : Nat) {q : WalkPort} (hleft : q.left ≠ 0) {ws : List Nat} (hws : ws.Nodup) :
    ∃ u, ws.foldl (fun (a : State × List WalkPort) w => a.1.walkOne d set w a.2 []) (s, [q]) = (u, [s.walkedPort d set q ws]) ∧
      s.Walked u d set q ws := by
  induction ws using List.reverseRecOn with
  | nil => exact ⟨s, rfl, .none s d set q⟩
  | append_singleton ws w ih =>
    obtain ⟨hnodup, hw⟩ : ws.Nodup ∧ w ∉ ws := by
      rw [List.nodup_append] at hws
      exact ⟨hws.1, fun hm => hws.2.2 w hm w (by simp) rfl⟩
    obtain ⟨u, hfold, h⟩ := ih hnodup
    have hway := u.walkWay_eq d set w (s.walkedPort d set q ws)
    dsimp only at hway
    rw [h.entry_left hw, h.shareEn, show (s.walkedPort d set q ws).port = q.port from rfl] at hway
    obtain ⟨v, hv⟩ : ∃ v, v = u.setEntry d set w (walkEntry (s.shareEn d) q.port (s.entry d set w)).1 := ⟨_, rfl⟩
    rw [← hv] at hway
    obtain ⟨hcount, hregs, hrest⟩ := v.lostCounted d (walkOwned q.port (s.entry d set w))
    refine ⟨_, ?_, h.next (by rw [hv]; rfl) (by rw [hv]; rfl) hcount hregs hrest⟩
    rw [List.foldl_append, hfold, List.foldl_cons, List.foldl_nil, State.walkOne_one u d set w (q := s.walkedPort d set q ws) hleft, hway,
      State.walkedPort_append]
    rfl

end

/-! ## The command -/

section
variable {s u : State} {d : Die} {q : WalkPort}

/-- The lines that the walk defers for its port. -/
theorem WalkPort.mem_defer {q : WalkPort} (hleft : q.left ≠ 0) (lines : List Nat) (l : Nat) :
    l ∈ (q.defer lines).deferred ↔ l ∈ q.deferred ∨ l ∈ lines := by
  unfold WalkPort.defer
  rw [if_neg (mt beq_iff_eq.1 hleft)]
  by_cases h : l ∈ q.deferred <;> simp [h]

theorem WalkPort.defer_rest (q : WalkPort) (lines : List Nat) :
    (q.defer lines).port = q.port ∧ (q.defer lines).left = q.left ∧ (q.defer lines).removed = q.removed ∧
      (q.defer lines).lost = q.lost := by
  unfold WalkPort.defer
  split
  · exact ⟨rfl, rfl, rfl, rfl⟩
  · exact ⟨rfl, rfl, rfl, rfl⟩

theorem WalkPort.defer_nil (q : WalkPort) : q.defer [] = q := by
  unfold WalkPort.defer
  split
  · rfl
  · simp

theorem State.mem_openLines (s : State) (d set l : Nat) :
    l ∈ s.openLines d set ↔ ∃ e ∈ s.txns d, lineSet s.part.k e.2.req.addr = set ∧ l = e.2.req.addr / 64 := by
  unfold State.openLines
  simp only [List.mem_map, List.mem_filter, beq_iff_eq]
  exact ⟨fun ⟨e, ⟨he, hset⟩, hl⟩ => ⟨e, he, hset, hl.symm⟩, fun ⟨e, he, hset, hl⟩ => ⟨e, ⟨he, hset⟩, hl.symm⟩⟩

/-- The walk of a slice with one port at its next set: the ways, then the end of the pass. -/
theorem exec_dirWalkSet (hclk : s.clockOn d = true) {k : Walk} (hk : SMap.find s.dirWalk d = some k) (hports : k.ports = [q])
    (hleft : q.left ≠ 0) (hclean : ∀ w < 16, SMap.get 0 s.dirBad (entKey d k.next w) = 0) :
    ∃ u, s.Walked u d k.next (q.defer (s.openLines d k.next)) (List.range 16) ∧
      exec (.dirWalkSet d) s = .next (u.endPasses d ((k.next + 1) % 16384)
        [{ s.walkedPort d k.next (q.defer (s.openLines d k.next)) (List.range 16) with left := q.left - 1 }] []) := by
  have hdefer : (q.defer (s.openLines d k.next)).left = q.left := (q.defer_rest _).2.1
  obtain ⟨u, hfold, hu⟩ := s.walk_ways d k.next (q := q.defer (s.openLines d k.next)) (by rwa [hdefer]) (List.nodup_range (n := 16))
  refine ⟨u, hu, congrArg Host.Outcome.next ?_⟩
  unfold doDirWalkSet
  rw [hclk, if_neg (by decide), hk]
  dsimp only
  rw [State.eccSet_clean hclean, hports, List.map_cons, List.map_nil, hfold]
  dsimp only
  rw [List.map_cons, List.map_nil, ← hdefer]
  rfl

theorem State.endPasses_nil (u : State) (d next : Nat) : u.endPasses d next [] [] = { u with dirWalk := SMap.erase u.dirWalk d } := by
  unfold State.endPasses
  exact if_pos rfl

/-- A pass that is not complete goes on. -/
theorem State.endPasses_goes (u : State) (d next : Nat) {q : WalkPort} (h : q.left ≠ 0) :
    u.endPasses d next [q] [] = { u with dirWalk := SMap.put u.dirWalk d { next := next, ports := [q] } } := by
  unfold State.endPasses
  rw [if_neg (by simp [h])]
  unfold State.endPasses
  rw [if_neg (by simp)]
  rfl

/-- A pass that is complete ends: it is reported, and the port's bit is cleared when the port is up. -/
theorem State.endPasses_ends (u : State) (d next : Nat) {q : WalkPort} (h : q.left = 0) (hdef : q.deferred = []) :
    let v := u.notice d 0x0202 [(1, d), (1, q.port), (4, q.removed), (4, q.lost)]
    let t := if v.portUp q.port then v.fsetBit (downReg d q.port) DirPortDownLo.down (q.port % 32) false else v
    u.endPasses d next [q] [] = { t with dirWalk := SMap.erase t.dirWalk d } := by
  intro v t
  unfold State.endPasses
  rw [if_pos (by simp [h, hdef])]
  exact State.endPasses_nil t d next

theorem State.notice_room {s : State} {d : Nat} (h : (s.waiting d).length < 64) (code : Nat) (fs : List (Nat × Nat)) :
    s.notice d code fs = { s with queues := SMap.set [] s.queues (queueOf d) (s.waiting d ++ [s.item d code fs]) } := by
  unfold State.notice
  exact if_neg (Nat.not_le.2 h)

theorem State.Walked.item {set : Nat} {ws : List Nat} (h : s.Walked u d set q ws) (code : Nat) (fs : List (Nat × Nat)) :
    u.item d code fs = s.item d code fs := by
  refine State.item_congr (h.regs _ ?_) (congrArg State.ms h.frame :) (congrArg State.refMs h.frame :) d code fs
  have := d.isLt
  simp only [List.mem_singleton, Csr.dirLostCnt, Csr.towSts, csrAddr, stw]
  omega

theorem State.Walked.portUp {set : Nat} {ws : List Nat} (h : s.Walked u d set q ws) (p : Nat) : u.portUp p = s.portUp p := by
  by_cases hp : p < 64
  · refine State.portUp_of_onlyRegs (congrArg State.part h.frame :) h.regs fun a ha => ?_
    have := d.isLt
    simp only [portRegs, List.mem_cons, List.not_mem_nil, or_false, linkSts, Csr.gwMode, Csr.gwLinkSts, Csr.pwrSts, csrAddr, stw, portDie,
      portGw, portSub] at ha
    simp only [List.mem_singleton, Csr.dirLostCnt, csrAddr]
    omega
  · have hno : ∀ v : State, v.portUp p = false := fun v => by simp [State.portUp, State.portExists, hp]
    rw [hno, hno]

/-- The report of a pass that is complete. -/
theorem State.Walked.notice {set : Nat} {ws : List Nat} (h : s.Walked u d set q ws) (hroom : (s.waiting d).length < 64)
    (fs : List (Nat × Nat)) :
    let v := u.notice d 0x0202 fs
    v.waiting d = s.waiting d ++ [s.item d 0x0202 fs] ∧ v = { u with queues := v.queues } := by
  have hwait : u.waiting d = s.waiting d := State.waiting_congr (congrArg State.queues h.frame :) d
  have hv := State.notice_room (hwait.symm ▸ hroom) 0x0202 fs
  intro v
  rw [show v = _ from hv, hwait, h.item]
  exact ⟨SMap.get_set_same _ _ _ _, rfl⟩

theorem lostCnt_ne_downReg (d p : Nat) : Csr.dirLostCnt d ≠ downReg d p := by
  unfold downReg
  split
  · simp only [Csr.dirLostCnt, Csr.dirPortDownLo, csrAddr]
    omega
  · simp only [Csr.dirLostCnt, Csr.dirPortDownHi, csrAddr]
    omega

/-- The port's bit, cleared when the port is up. -/
theorem State.bitCleared (v : State) (d p : Nat) :
    let t := if v.portUp p then v.fsetBit (downReg d p) DirPortDownLo.down (p % 32) false else v
    t.fget (Csr.dirLostCnt d) DirLostCnt.lost = v.fget (Csr.dirLostCnt d) DirLostCnt.lost ∧
      (v.portUp p = true → t.portIsDown d p = false) ∧ t = { v with csr := t.csr } := by
  by_cases h : v.portUp p = true
  · rw [if_pos h]
    exact ⟨State.fget_congr (State.csrGet_csrSet_ne _ _ (lostCnt_ne_downReg d p)) _, fun _ => v.portIsDown_fsetBit d p,
      v.fsetBit_rest _ _ _ _⟩
  · rw [if_neg h]
    exact ⟨rfl, fun hup => absurd hup h, rfl⟩

/-- What the walk of one set did to the entries, as R82 tells it. -/
theorem State.Walked.entries {set : Nat} {ws : List Nat} (h : s.Walked u d set q ws) {w : Nat} (hw : w ∈ ws) :
    (walkShared (s.shareEn d) q.port (s.entry d set w) = true → u.entry d set w =
      if De.sharers.get (s.entry d set w) &&& (2 ^ 32 - 1 - sharerOf (s.shareEn d) q.port) = 0 then 0
      else De.sharers.put (s.entry d set w) (De.sharers.get (s.entry d set w) &&& (2 ^ 32 - 1 - sharerOf (s.shareEn d) q.port))) ∧
      (walkOwned q.port (s.entry d set w) = true → u.entry d set w = De.state.put (s.entry d set w) 3) ∧
      (walkShared (s.shareEn d) q.port (s.entry d set w) = false → walkOwned q.port (s.entry d set w) = false →
        u.entry d set w = s.entry d set w) := by
  rw [h.done w hw]
  exact ⟨walkEntry_shared, walkEntry_owned, walkEntry_other⟩

end

/-- Settles O30: the wait's end is the slot, the answer, the count and the notice; the message sets the port's bit and starts its
walk; the walk of a set is an induction over its ways. -/
theorem directoryWaitAndWalk : Obligations.DirectoryWaitAndWalk := by
  intro d s hclk
  refine ⟨fun k x hx hway hms => ?_, fun p y rest hopen hhead hname hport => ?_, fun k q hk hports hleft hclean => ?_⟩
  · intro set hset hwalk
    obtain ⟨htxn, hframe⟩ := s.waitEnded_writes d k x
    obtain ⟨hcount, hregs, hnote, hent, hdtxn, hin, hsrc, hout⟩ := State.waitNoted_writes hframe d
      [(1, d), (2, lineSet s.part.k x.req.addr), (1, x.req.who), (1, x.req.code)]
    have hwho : x.req.who = if 8 ≤ x.req.sidx then x.req.sidx - 8 else x.req.port := by
      unfold DirReq.who DirReq.fromEngine
      simp only [decide_eq_true_eq]
    rw [Completes, ← hwho, exec_setWaitTimeout hclk hx hway hms hset hwalk]
    refine ⟨_, rfl, (State.txn_congr hdtxn d k).trans htxn, hent, hcount, hregs, hnote, fun heng => ?_, fun hport => ?_⟩
    · obtain ⟨⟨y, hk, hst, hdie, hid, hentered⟩, -⟩ := s.waitEnded_engine d k heng
      exact ⟨y, hk, hst, hdie, hid, hin.trans hentered.1, hsrc.trans hentered.2⟩
    · obtain ⟨-, hsent, hrest⟩ := s.waitEnded_port d k hport
      exact ⟨hin.trans (congrArg State.xin hrest :), hsrc.trans (congrArg State.xsrc hrest :), hout.trans hsent⟩
  · obtain ⟨u, hu, hexec⟩ := exec_dirPortDown hopen hhead hname hport
    obtain ⟨v, hv⟩ : ∃ v, v = u.portFell d p := ⟨_, rfl⟩
    obtain ⟨t, ht⟩ : ∃ t, t = v.walkJoined d p := ⟨_, rfl⟩
    obtain ⟨hdown, hregs, htxn, hwalk, hframe⟩ := u.portFell_writes d p
    obtain ⟨⟨w, hfind, hany, hnew, hold⟩, hjoin⟩ := v.walkJoined_writes d p
    rw [Completes, hexec, ← hv, ← ht]
    rw [← hv] at hdown hregs htxn hwalk hframe
    rw [← ht] at hfind hjoin
    have hwalk' : v.dirWalk = s.dirWalk := hwalk.trans (congrArg State.dirWalk hu.frame :)
    rw [hwalk'] at hnew hold
    have hcsr : t.csr = v.csr := (congrArg State.csr hjoin :)
    refine ⟨t, rfl, ?_, (State.portIsDown_congr hcsr d p).trans hdown, fun k x hx => ⟨x.portGone p, ?_, x.portGone_spec p⟩,
      ⟨w, hfind, hany, hnew, hold⟩, ?_, ?_⟩
    · have hout : t.xout = u.xout := (congrArg State.xout hjoin :).trans (congrArg State.xout hframe :)
      rw [hout]
      exact hu.taken
    · have hdtxn : t.dirTxn = v.dirTxn := (congrArg State.dirTxn hjoin :)
      exact (State.txn_congr hdtxn d k).trans (htxn k x ((State.txn_congr hu.dirTxn d k).trans hx))
    · exact ((hu.regs.mono (by simp)).trans (hregs.mono (by simp))).trans (.of_csr hcsr _)
    · rw [hjoin, hframe, hu.frame]
  · intro mask st shared owned number walked
    obtain ⟨u, hu, hexec⟩ := exec_dirWalkSet hclk hk hports (Nat.ne_of_gt hleft) hclean
    obtain ⟨hport, -, hremoved, hlost⟩ := q.defer_rest (s.openLines d k.next)
    have hentries : ∀ w < 16, _ := fun w hw => hu.entries (List.mem_range.2 hw)
    have hothers : ∀ key, (∀ w < 16, key ≠ entKey d k.next w) → SMap.get 0 u.dirEnt key = SMap.get 0 s.dirEnt key :=
      fun key hkey => hu.others key fun w hw => hkey w (List.mem_range.1 hw)
    have hcount := hu.count
    rw [hport] at hentries hcount
    refine ⟨fun htwo => ?_, fun hone hdef hnone hroom => ?_⟩
    · rw [Completes, hexec, State.endPasses_goes u d _ (show q.left - 1 ≠ 0 by omega)]
      refine ⟨_, rfl, ⟨hentries, hothers, hcount⟩, hu.regs.trans (.of_csr rfl _),
        ⟨_, SMap.find_put_same _ _ _, hport, rfl, ?_, ?_, fun l => ?_⟩, ?_⟩
      · rw [State.walkedPort, hport, hremoved]; rfl
      · rw [State.walkedPort, hport, hlost]; rfl
      · exact (WalkPort.mem_defer (Nat.ne_of_gt hleft) _ l).trans (or_congr_right (s.mem_openLines d k.next l))
      · rw [hu.frame]
    · have hlines : s.openLines d k.next = [] := List.eq_nil_iff_forall_not_mem.2 fun l hl => by
        obtain ⟨e, he, hset, -⟩ := (s.mem_openLines d k.next l).1 hl
        exact hnone e he hset
      rw [hlines, WalkPort.defer_nil] at hu hexec
      obtain ⟨v, hv⟩ : ∃ v, v = u.notice d 0x0202 [(1, d.val), (1, q.port), (4, q.removed + number shared), (4, q.lost + number owned)] :=
        ⟨_, rfl⟩
      obtain ⟨hwait, hrest⟩ := hu.notice hroom [(1, d.val), (1, q.port), (4, q.removed + number shared), (4, q.lost + number owned)]
      rw [← hv] at hwait hrest
      obtain ⟨t, ht⟩ : ∃ t, t = if v.portUp q.port then v.fsetBit (downReg d q.port) DirPortDownLo.down (q.port % 32) false else v :=
        ⟨_, rfl⟩
      obtain ⟨hlostCnt, hdown, htrest⟩ := v.bitCleared d q.port
      rw [← ht] at hlostCnt hdown htrest
      have hends : u.endPasses d ((k.next + 1) % 16384) [{ s.walkedPort d k.next q (List.range 16) with left := q.left - 1 }] [] =
          { t with dirWalk := SMap.erase t.dirWalk d } := by
        rw [ht, hv]
        exact u.endPasses_ends d _ (q := { s.walkedPort d k.next q (List.range 16) with left := q.left - 1 })
          (show q.left - 1 = 0 by omega) hdef
      have hent : t.dirEnt = u.dirEnt := (congrArg State.dirEnt htrest :).trans (congrArg State.dirEnt hrest :)
      have hread : t.fget (Csr.dirLostCnt d) DirLostCnt.lost = u.fget (Csr.dirLostCnt d) DirLostCnt.lost :=
        hlostCnt.trans (State.fget_congr (OnlyRegs.of_csr (congrArg State.csr hrest :) [] _ List.not_mem_nil) _)
      have hqueue : t.waiting d = v.waiting d := State.waiting_congr (congrArg State.queues htrest :) d
      have hup : v.portUp q.port = s.portUp q.port :=
        (State.portUp_of_onlyRegs (as := []) (congrArg State.part hrest :) (.of_csr (congrArg State.csr hrest :) _) (by simp)).trans
          (hu.portUp q.port)
      have hentry : ∀ w, t.entry d k.next w = u.entry d k.next w := fun w => by
        unfold State.entry
        rw [hent]
      rw [Completes, hexec, hends]
      refine ⟨_, rfl, ⟨fun w hw => ?_, fun key hkey => ?_, ?_⟩, SMap.find_erase_same _ _, hqueue.trans hwait, fun h => ?_⟩
      · exact hentry w ▸ hentries w hw
      · exact (congrArg (SMap.get 0 · key) hent).trans (hothers key hkey)
      · exact hread.trans hcount
      · exact hdown (hup.trans h)

end Sys2Proof.Machine

end

section

/-! PROOFS. What the end of a handler does to its task (04 R157, R160, R165, R166): what returned messages and the changes of a
slot leave alone. -/

namespace Sys2Proof.Machine

/-! ## Messages that a slot gives back -/

/-- The registers that messages given back by a die's scheduler write: its counts and the credits of its buffer. -/
def schedRegs (d : Nat) : List Nat := [Csr.schCnt d, Csr.ndQdropCnt (queueOf d)] ++ (List.range 8).map (Csr.xbCredit d 12)

/-- From `s` to `t` messages of a slot were given back, answered or discarded. -/
structure State.Returns (s t : State) (d : Nat) : Prop where
  sends : Sends s t
  regs : OnlyRegs s t (schedRegs d)

section
variable {s t u : State} {d : Nat}

theorem Sends.refl (s : State) : Sends s s := rfl

theorem Sends.inject (h : Sends s t) (d e : Nat) (m : Msg) (die ep : Nat) : Sends s (t.inject d e m die ep) :=
  h.trans ((Drains.refl t).inject d e m die ep).sends

theorem Sends.emit (h : Sends s t) (e : Emission) : Sends s (t.emit e) := h.trans ((Drains.refl t).emit e).sends

theorem State.Returns.refl (s : State) (d : Nat) : s.Returns s d := ⟨.refl s, .refl s _⟩

theorem State.Returns.trans (h : s.Returns t d) (h' : t.Returns u d) : s.Returns u d :=
  ⟨h.sends.trans h'.sends, h.regs.trans h'.regs⟩

theorem State.Returns.inject (h : s.Returns t d) (d' e : Nat) (m : Msg) (die ep : Nat) : s.Returns (t.inject d' e m die ep) d :=
  ⟨h.sends.inject d' e m die ep, h.regs.trans (.of_csr (State.inject_csr ..) _)⟩

theorem State.Returns.linkOrDrop (h : s.Returns t d) (m : Msg) : s.Returns (t.linkOrDrop m) d := by
  unfold State.linkOrDrop
  split
  · exact ⟨h.sends.emit _, h.regs.trans (.of_csr rfl _)⟩
  · exact h

theorem xbCredit_mem_schedRegs (d : Nat) (m : Msg) : Csr.xbCredit d 12 (m.g Hd.vc) ∈ schedRegs d :=
  List.mem_append_right _ (List.mem_map_of_mem (List.mem_range.2 (Fld.get_lt Hd.vc m.hdr)))

theorem State.Returns.schedCredit (h : s.Returns t d) (m : Msg) : s.Returns (t.schedCredit d m) d :=
  ⟨h.sends.trans ((Reports.refl t).count _ _ _).sends, h.regs.count (xbCredit_mem_schedRegs d m) _ _⟩

theorem State.Returns.countSch (h : s.Returns t d) (f : Fld) : s.Returns (t.count (Csr.schCnt d) f 1) d :=
  ⟨h.sends.trans ((Reports.refl t).count _ _ _).sends, h.regs.count (by simp [schedRegs]) _ _⟩

theorem State.Returns.noticeLim (h : s.Returns t d) (code scope : Nat) (fs : List (Nat × Nat)) :
    s.Returns (t.noticeLim d code scope fs) d :=
  ⟨h.sends.trans ((Reports.refl t).noticeLim _ _ _ _).sends, h.regs.noticeLim (by simp [schedRegs]) _ _ _⟩

theorem State.noTask_returns (s : State) (d : Nat) (x : InMsg) : s.Returns (s.noTask d x) d := by
  have h := (State.Returns.refl s d).schedCredit x.msg
  unfold State.noTask
  split
  · exact h.inject _ _ _ _ _
  · split
    · exact (h.countSch _).inject _ _ _ _ _
    · exact (h.countSch _).linkOrDrop _

theorem State.misroute_returns (s : State) (d n : Nat) (x : InMsg) : s.Returns (s.misroute d n x) d := by
  have h := ((State.Returns.refl s d).schedCredit x.msg).countSch SchCnt.misrouted
  unfold State.misroute
  dsimp only
  split
  · exact h.noticeLim _ _ _
  · exact (h.inject _ _ _ _ _).noticeLim _ _ _

theorem State.unserved_returns (s : State) (d n : Nat) (x : InMsg) : s.Returns (s.unserved d n x) d := by
  unfold State.unserved
  split
  · exact s.misroute_returns d n x
  · exact (((State.Returns.refl s d).schedCredit x.msg).countSch _).linkOrDrop _

theorem State.noTaskAll_returns (s : State) (d : Nat) (xs : List InMsg) : s.Returns (s.noTaskAll d xs) d := by
  induction xs generalizing s with
  | nil => exact .refl s d
  | cons x xs ih => exact (s.noTask_returns d x).trans (ih _)

theorem State.unservedAll_returns (s : State) (d n : Nat) (xs : List InMsg) : s.Returns (s.unservedAll d n xs) d := by
  induction xs generalizing s with
  | nil => exact .refl s d
  | cons x xs ih => exact (s.unserved_returns d n x).trans (ih _)

end

/-! ## Changes of a slot -/

/-- The registers of a slot that the end of its handler writes, with those of messages given back. -/
def taskRegs (d n : Nat) : List Nat := [Csr.taskW0 d n, Csr.taskW2 d n, Csr.taskW3 d n] ++ schedRegs d

/-- From `s` to `t` a slot changed, but not its level, and it did not begin to run; no engine changed. -/
structure State.Moves (s t : State) (d n : Nat) : Prop where
  engs : t.engs = s.engs
  engReg : t.engReg = s.engReg
  regs : OnlyRegs s t (taskRegs d n)
  esc : t.fget (Csr.taskW0 d n) TaskW0.esc = s.fget (Csr.taskW0 d n) TaskW0.esc
  asleep : s.taskState d n ≠ TSt.running → t.taskState d n ≠ TSt.running

theorem taskW_not_mem_schedRegs {d : Die} {n : Nat} (hn : n < 1024) {a : Nat}
    (ha : a ∈ [Csr.taskW0 d n, Csr.taskW1 d n, Csr.taskW2 d n, Csr.taskW3 d n]) : a ∉ schedRegs d := by
  have hd := d.isLt
  intro hm
  simp only [List.mem_cons, List.not_mem_nil, or_false, Csr.taskW0, Csr.taskW1, Csr.taskW2, Csr.taskW3, csrAddr] at ha
  rcases List.mem_append.1 hm with hm | hm
  · simp only [List.mem_cons, List.not_mem_nil, or_false, Csr.schCnt, Csr.ndQdropCnt, csrAddr, stw] at hm
    omega
  · obtain ⟨v, hv, he⟩ := List.mem_map.1 hm
    have := List.mem_range.1 hv
    simp only [Csr.xbCredit, csrAddr] at he
    omega

section
variable {s t u : State} {d : Die} {n : Nat}

theorem State.Moves.refl (s : State) (d n : Nat) : s.Moves s d n := ⟨rfl, rfl, .refl s _, rfl, id⟩

theorem State.Moves.trans (h : s.Moves t d n) (h' : t.Moves u d n) : s.Moves u d n :=
  ⟨h'.engs.trans h.engs, h'.engReg.trans h.engReg, h.regs.trans h'.regs, h'.esc.trans h.esc, h'.asleep ∘ h.asleep⟩

/-- A change that writes no register. -/
theorem State.Moves.of_csr (hengs : t.engs = s.engs) (hreg : t.engReg = s.engReg) (hcsr : t.csr = s.csr) : s.Moves t d n := by
  have hget : ∀ a f, t.fget a f = s.fget a f := fun a f => State.fget_congr (OnlyRegs.of_csr hcsr [] a List.not_mem_nil) f
  refine ⟨hengs, hreg, .of_csr hcsr _, hget _ _, fun h => ?_⟩
  unfold State.taskState
  rw [hget]
  exact h

theorem State.Returns.moves (h : s.Returns t d) (hn : n < 1024) : s.Moves t d n := by
  have hget : ∀ a ∈ [Csr.taskW0 d n, Csr.taskW1 d n, Csr.taskW2 d n, Csr.taskW3 d n], ∀ f, t.fget a f = s.fget a f := fun a ha f =>
    State.fget_congr (h.regs a (taskW_not_mem_schedRegs hn ha)) f
  refine ⟨(congrArg State.engs h.sends :), (congrArg State.engReg h.sends :), h.regs.mono (List.subset_append_right _ _),
    hget _ (by simp) _, fun hs => ?_⟩
  unfold State.taskState
  rw [hget _ (by simp)]
  exact hs

theorem State.Moves.setTaskX (s : State) (x : TaskX) : s.Moves (s.setTaskX d n x) d n := .of_csr rfl rfl rfl

theorem taskW_distinct (d n : Nat) : Csr.taskW0 d n ≠ Csr.taskW2 d n ∧ Csr.taskW0 d n ≠ Csr.taskW3 d n ∧
    Csr.taskW2 d n ≠ Csr.taskW3 d n ∧ Csr.taskW0 d n ≠ Csr.taskW1 d n ∧ Csr.taskW1 d n ≠ Csr.taskW2 d n ∧ Csr.taskW1 d n ≠ Csr.taskW3 d n := by
  simp only [Csr.taskW0, Csr.taskW1, Csr.taskW2, Csr.taskW3, csrAddr]
  omega

theorem State.taskState_setTaskState (s : State) (d n : Nat) {v : Nat} (hv : v < 4) : (s.setTaskState d n v).taskState d n = v :=
  (State.fget_fset_same _ _ _ _ (by decide)).trans (Nat.mod_eq_of_lt hv)

/-- A register of the slot is written: neither its level, nor its state. -/
theorem State.Moves.fset (s : State) {a : Nat} (f : Fld) (v : Nat) (ha : a ∈ taskRegs d n) (h0 : a ≠ Csr.taskW0 d n)
    (hstate : s.taskState d n ≠ TSt.running → (s.fset a f v).taskState d n ≠ TSt.running) : s.Moves (s.fset a f v) d n :=
  ⟨State.fset_engs .., State.fset_engReg .., (OnlyRegs.refl s _).fset ha f v, s.fget_fset_ne f _ v h0.symm, hstate⟩

/-- A state other than RUNNING. -/
theorem State.Moves.setTaskState (s : State) {v : Nat} (hv : v < 4) (hrun : v ≠ TSt.running) : s.Moves (s.setTaskState d n v) d n :=
  .fset s _ v (by simp [taskRegs]) (taskW_distinct d n).2.1.symm fun _ => by
    rw [← State.setTaskState, State.taskState_setTaskState s d n hv]
    exact hrun

theorem State.Moves.setTaskFlags (s : State) (v : Nat) : s.Moves (s.setTaskFlags d n v) d n :=
  .fset s _ v (by simp [taskRegs]) (taskW_distinct d n).1.symm fun h => by
    unfold State.taskState
    rw [State.fget_fset_ne _ _ _ _ (taskW_distinct d n).2.2.1.symm]
    exact h

theorem State.evalReady_moves (s : State) : s.Moves (s.evalReady d n) d n := by
  unfold State.evalReady
  split
  · exact .refl s d n
  · split
    · refine State.Moves.trans (.of_csr ?_ ?_ ?_) (.setTaskState _ (by decide) (by decide))
      · rfl
      · rfl
      · rfl
    · split
      · exact State.Moves.trans (.setTaskX s _) (.setTaskState _ (by decide) (by decide))
      · exact .refl s d n

theorem State.evalServable_moves (hn : n < 1024) (s : State) : s.Moves (s.evalServable d n) d n := by
  unfold State.evalServable
  split
  · exact .refl s d n
  · split
    · split
      · exact State.Moves.trans (.setTaskState s (by decide) (by decide)) (State.evalReady_moves _)
      · exact .refl s d n
    · split
      · exact .refl s d n
      · unfold State.takeInbox
        dsimp only
        have hquiet := (((State.Moves.setTaskX (d := d) (n := n) s { s.taskX d n with inbox := [] }).trans (.setTaskX _
          { (s.setTaskX d n { s.taskX d n with inbox := [] }).taskX d n with stamp := 0, onceAt := none })).trans
            (.setTaskState _ (v := TSt.unservable) (by decide) (by decide)))
        exact hquiet.trans (((State.unservedAll_returns _ d n _).noticeLim _ _ _).moves hn)

/-! ## Completion (R160, R169) -/

/-- A slot is emptied: its task does not run. -/
theorem State.emptySlot_moves (hn : n < 1024) (s : State) :
    s.Moves (s.emptySlot d n) d n ∧ (s.emptySlot d n).taskState d n ≠ TSt.running := by
  obtain ⟨a, ha⟩ : ∃ a, a = (s.setTaskX d n { s.taskX d n with inbox := [] }).setTaskFlags d n 0 := ⟨_, rfl⟩
  have hsa : s.Moves a d n := by rw [ha]; exact .trans (.setTaskX s _) (.setTaskFlags _ _)
  obtain ⟨b, hb⟩ : ∃ b, b = a.setTaskState d n TSt.idle := ⟨_, rfl⟩
  have hab : a.Moves b d n := by rw [hb]; exact .setTaskState a (by decide) (by decide)
  have hidle : b.taskState d n ≠ TSt.running := by rw [hb, State.taskState_setTaskState a d n (by decide)]; decide
  have hbt : b.Moves (s.emptySlot d n) d n := by
    unfold State.emptySlot State.takeInbox
    dsimp only
    rw [← ha, ← hb]
    exact .trans (.setTaskX b _) ((State.noTaskAll_returns _ d _).moves hn)
  exact ⟨(hsa.trans hab).trans hbt, hbt.asleep hidle⟩

/-- The completion of a handler, but for the level. -/
theorem State.completed_moves (hn : n < 1024) (s : State) (x : TaskX) (v : Nat) :
    let t := ((((s.orFlags d n v).setTaskState d n TSt.idle).setTaskX d n x).evalReady d n).evalServable d n
    s.Moves t d n ∧ t.taskState d n ≠ TSt.running := by
  intro t
  have hsa : s.Moves (s.orFlags d n v) d n := .setTaskFlags s _
  have hab : (s.orFlags d n v).Moves ((s.orFlags d n v).setTaskState d n TSt.idle) d n := .setTaskState _ (by decide) (by decide)
  have hidle : ((s.orFlags d n v).setTaskState d n TSt.idle).taskState d n ≠ TSt.running := by
    rw [State.taskState_setTaskState _ d n (by decide)]
    decide
  have hbt : ((s.orFlags d n v).setTaskState d n TSt.idle).Moves t d n :=
    ((State.Moves.setTaskX _ x).trans (State.evalReady_moves _)).trans (State.evalServable_moves hn _)
  exact ⟨(hsa.trans hab).trans hbt, hbt.asleep hidle⟩

/-- From `s` to `t` the handler of a slot's task ended. -/
structure State.TaskEnded (s t : State) (d n : Nat) : Prop where
  engs : t.engs = s.engs
  engReg : t.engReg = s.engReg
  regs : OnlyRegs s t (taskRegs d n)
  esc : t.fget (Csr.taskW0 d n) TaskW0.esc = 0
  ended : t.taskState d n ≠ TSt.running

theorem State.taskComplete_ends (hn : n < 1024) (s : State) : s.TaskEnded (s.taskComplete d n) d n := by
  obtain ⟨u, hu⟩ : ∃ u, u = s.fset (Csr.taskW0 d n) TaskW0.esc 0 := ⟨_, rfl⟩
  have hesc : u.fget (Csr.taskW0 d n) TaskW0.esc = 0 := by rw [hu]; exact State.fget_fset_same _ _ _ _ (by decide)
  have hregs : OnlyRegs s u (taskRegs d n) := by rw [hu]; exact (OnlyRegs.refl s _).fset (by simp [taskRegs]) _ _
  have hengs : u.engs = s.engs := by rw [hu]; exact State.fset_engs ..
  have hengReg : u.engReg = s.engReg := by rw [hu]; exact State.fset_engReg ..
  have hends : u.Moves (s.taskComplete d n) d n ∧ (s.taskComplete d n).taskState d n ≠ TSt.running := by
    unfold State.taskComplete
    dsimp only
    rw [← hu]
    split
    · exact u.emptySlot_moves hn
    · exact u.completed_moves hn _ _
  obtain ⟨hmoves, hover⟩ := hends
  exact ⟨hmoves.engs.trans hengs, hmoves.engReg.trans hengReg, hregs.trans hmoves.regs, hmoves.esc.trans hesc, hover⟩

end

end Sys2Proof.Machine

end

section

/-! PROOFS. The end of a handler (03 R111, R120, R129, R143, R145, R146): what faults and END do to an engine, its record of
faults, and its task. -/

namespace Sys2Proof.Machine

/-! ## The engine's record -/

/-- From `s` to `t` engine (d, e) took the record `y`; no other engine and no slot changed, and only registers of `as` did. -/
structure State.EngWrote (s t : State) (d : Die) (e : Eng) (y : Engine) (as : List Nat) : Prop where
  eng : t.eng d e = y
  others : ∀ (d' : Die) (e' : Eng), (d', e') ≠ (d, e) → t.eng d' e' = s.eng d' e'
  engReg : t.engReg = s.engReg
  tasks : t.tasks = s.tasks
  regs : OnlyRegs s t as

section
variable {s t u : State} {d : Die} {e : Eng} {x y : Engine} {as : List Nat}

theorem State.eng_congr (h : t.engs = s.engs) (d e : Nat) : t.eng d e = s.eng d e := by
  unfold State.eng
  rw [h]

theorem State.EngWrote.trans (h : s.EngWrote t d e x as) (h' : t.EngWrote u d e y as) : s.EngWrote u d e y as :=
  ⟨h'.eng, fun d' e' hne => (h'.others d' e' hne).trans (h.others d' e' hne), h'.engReg.trans h.engReg, h'.tasks.trans h.tasks,
    h.regs.trans h'.regs⟩

theorem State.EngWrote.mono {bs : List Nat} (h : s.EngWrote t d e y as) (hs : as ⊆ bs) : s.EngWrote t d e y bs :=
  ⟨h.eng, h.others, h.engReg, h.tasks, h.regs.mono hs⟩

/-- A change of registers and of what is sent. -/
theorem State.EngWrote.of_sends (h : Sends s t) (hregs : OnlyRegs s t as) : s.EngWrote t d e (s.eng d e) as := by
  have hengs : t.engs = s.engs := (congrArg State.engs h :)
  exact ⟨State.eng_congr hengs d e, fun d' e' _ => State.eng_congr hengs d' e', (congrArg State.engReg h :), (congrArg State.tasks h :), hregs⟩

theorem State.EngWrote.setEng (s : State) (d : Die) (e : Eng) (y : Engine) (as : List Nat) : s.EngWrote (s.setEng d e y) d e y as :=
  ⟨State.eng_setEng_same s d e y, fun _ _ hne => State.eng_setEng_ne s y hne, rfl, rfl, .of_csr rfl _⟩

/-- What an engine that ends a handler says. -/
structure State.Says (s t : State) : Prop where
  sends : Sends s t
  csr : t.csr = s.csr

theorem State.Says.refl (s : State) : s.Says s := ⟨.refl s, rfl⟩

theorem State.Says.trans (h : s.Says t) (h' : t.Says u) : s.Says u := ⟨h.sends.trans h'.sends, h'.csr.trans h.csr⟩

theorem State.Says.inject (s : State) (d e : Nat) (m : Msg) (die ep : Nat) : s.Says (s.inject d e m die ep) :=
  ⟨(Sends.refl s).inject d e m die ep, State.inject_csr ..⟩

theorem State.Says.emit (s : State) (e : Emission) : s.Says (s.emit e) := ⟨(Sends.refl s).emit e, rfl⟩

theorem State.Says.wrote (h : s.Says t) : s.EngWrote t d e (s.eng d e) as := .of_sends h.sends (.of_csr h.csr _)

theorem State.lockEscs_says (s : State) (d e : Nat) (name : PName) (ls : List (Word × Nat)) :
    s.Says (ls.foldl (fun (s : State) l => s.lockEsc d e name l.1) s) := by
  induction ls generalizing s with
  | nil => exact .refl s
  | cons l ls ih => exact (State.Says.inject s _ _ _ _ _).trans (ih _)

theorem State.dropReads_wrote (s : State) : s.EngWrote (s.dropReads d e) d e (s.eng d e) as :=
  ⟨rfl, fun _ _ _ => rfl, rfl, rfl, .of_csr rfl _⟩

/-- The locks are released, and the claim that waits is taken back (R129, R143, R146). -/
theorem State.dropLocks_wrote (s : State) : s.EngWrote (s.dropLocks d e) d e { s.eng d e with locks := [] } as := by
  have hfold := s.lockEscs_says d e .escRelease (s.eng d e).locks
  unfold State.dropLocks
  dsimp only
  split
  · exact (hfold.trans (State.Says.inject _ _ _ _ _ _)).wrote.trans (.setEng _ d e _ as)
  · exact hfold.wrote.trans (.setEng _ d e _ as)

theorem State.faultResponse_says (s : State) (d e : Nat) : s.Says (s.faultResponse d e) := by
  unfold State.faultResponse
  dsimp only
  split
  · exact .refl s
  · split
    · exact .refl s
    · split
      · exact .inject s _ _ _ _ _
      · split
        · exact .emit s _
        · exact .emit s _

/-- The IN message is consumed (R116). -/
theorem State.consumeIn_wrote (s : State) : s.EngWrote (s.consumeIn d e) d e { s.eng d e with inMsg := none } (schedRegs d) := by
  unfold State.consumeIn
  cases hin : (s.eng d e).inMsg with
  | none =>
    have hsame : ({ s.eng d e with inMsg := none } : Engine) = s.eng d e := by rw [← hin]
    dsimp only
    rw [hsame]
    exact .of_sends (.refl s) (.refl s _)
  | some m =>
    have hcredit := (State.Returns.refl s d).schedCredit m.msg
    exact (State.EngWrote.of_sends hcredit.sends hcredit.regs).trans (.setEng _ d e _ _)

/-- The record of an engine whose handler has ended. -/
def Engine.ended (x : Engine) (out : Msg) : Engine :=
  { x with running := false, wait := .none, bufs := [], rsp := none, answered := false, inMsg := none, locks := [], out := out }

end

/-! ## The record of faults (R146) -/

/-- The registers of an engine's faults, with those that a scheduler writes. -/
def faultRegs (d e : Nat) : List Nat := [Csr.engFault d e, Csr.engCnt d e] ++ schedRegs d

theorem schedRegs_subset (d e : Nat) : schedRegs d ⊆ faultRegs d e := List.subset_append_right _ _

/-- A register of a die's engines or of its directory is none that the scheduler writes. -/
theorem dieReg_not_mem_schedRegs (d : Die) {off : Nat} (h : 0x4000000 ≤ off ∧ off < 0x6000000) : csrAddr d off ∉ schedRegs d := by
  have hd := d.isLt
  intro hm
  rcases List.mem_append.1 hm with hm | hm
  · simp only [List.mem_cons, List.not_mem_nil, or_false, Csr.schCnt, Csr.ndQdropCnt, csrAddr, stw] at hm
    omega
  · obtain ⟨v, hv, he⟩ := List.mem_map.1 hm
    have := List.mem_range.1 hv
    simp only [Csr.xbCredit, csrAddr] at he
    omega

theorem dieReg_not_mem_taskRegs (d : Die) (n : Nat) {off : Nat} (h : 0x4000000 ≤ off ∧ off < 0x6000000) :
    csrAddr d off ∉ taskRegs d n := by
  intro hm
  rcases List.mem_append.1 hm with hm | hm
  · simp only [List.mem_cons, List.not_mem_nil, or_false, Csr.taskW0, Csr.taskW2, Csr.taskW3, csrAddr] at hm
    omega
  · exact dieReg_not_mem_schedRegs d h hm

theorem engRegs_off (e : Eng) : (0x4000000 ≤ 0x500000C + 0x40 * e.val ∧ 0x500000C + 0x40 * e.val < 0x6000000) ∧
    (0x4000000 ≤ 0x5000010 + 0x40 * e.val ∧ 0x5000010 + 0x40 * e.val < 0x6000000) := by
  have := e.isLt
  omega

/-- What a fault of engine (d, e) leaves in its registers: it is counted, and recorded when VALID is 0. -/
structure State.Faulted (s t : State) (d e : Nat) (cause slot pc : Nat) : Prop where
  count : t.fget (Csr.engCnt d e) EngCnt.faults = min (s.fget (Csr.engCnt d e) EngCnt.faults + 1) (2 ^ EngCnt.faults.width - 1)
  kept : s.fbit (Csr.engFault d e) EngFault.valid = true → t.csrGet (Csr.engFault d e) = s.csrGet (Csr.engFault d e)
  recorded : s.fbit (Csr.engFault d e) EngFault.valid = false →
    t.fget (Csr.engFault d e) EngFault.valid = 1 ∧ t.fget (Csr.engFault d e) EngFault.cause = cause ∧
      t.fget (Csr.engFault d e) EngFault.slot = slot ∧ t.fget (Csr.engFault d e) EngFault.pc = pc

/-- It rests on the two registers only. -/
theorem State.Faulted.of_regs {s s' t t' : State} {d e cause slot pc : Nat} (h : s.Faulted t d e cause slot pc)
    (hcnt : s'.csrGet (Csr.engCnt d e) = s.csrGet (Csr.engCnt d e)) (hflt : s'.csrGet (Csr.engFault d e) = s.csrGet (Csr.engFault d e))
    (hcnt' : t'.csrGet (Csr.engCnt d e) = t.csrGet (Csr.engCnt d e)) (hflt' : t'.csrGet (Csr.engFault d e) = t.csrGet (Csr.engFault d e)) :
    s'.Faulted t' d e cause slot pc := by
  have hbit : s'.fbit (Csr.engFault d e) EngFault.valid = s.fbit (Csr.engFault d e) EngFault.valid := by
    unfold State.fbit
    rw [State.fget_congr hflt]
  refine ⟨?_, fun hv => ?_, fun hv => ?_⟩
  · rw [State.fget_congr hcnt, State.fget_congr hcnt', h.count]
  · rw [hflt', hflt, h.kept (hbit ▸ hv)]
  · simp only [State.fget_congr hflt']
    exact h.recorded (hbit ▸ hv)

/-- The word of a fault's record. -/
def faultWord (cause pc slot : Nat) : Word :=
  EngFault.valid.put (EngFault.slot.put (EngFault.pc.put (EngFault.cause.put (0 : Word) cause) pc) slot) 1

theorem faultWord_fields {cause pc slot : Nat} (hcause : cause < 16) (hpc : pc < 4096) (hslot : slot < 1024) :
    let w := faultWord cause pc slot
    EngFault.valid.get w = 1 ∧ EngFault.cause.get w = cause ∧ EngFault.slot.get w = slot ∧ EngFault.pc.get w = pc := by
  have hapart : ∀ f ∈ [EngFault.valid, EngFault.slot, EngFault.pc, EngFault.cause],
      ∀ g ∈ [EngFault.valid, EngFault.slot, EngFault.pc, EngFault.cause], f ≠ g → f.apart g := by unfold Fld.apart; decide
  unfold faultWord
  refine ⟨?_, ?_, ?_, ?_⟩
  · rw [Fld.get_put_same _ _ _ (by decide)]; rfl
  · rw [Fld.get_put_apart _ _ _ _ (hapart _ (by simp) _ (by simp) (by decide)),
      Fld.get_put_apart _ _ _ _ (hapart _ (by simp) _ (by simp) (by decide)),
      Fld.get_put_apart _ _ _ _ (hapart _ (by simp) _ (by simp) (by decide)), Fld.get_put_same _ _ _ (by decide)]
    exact Nat.mod_eq_of_lt hcause
  · rw [Fld.get_put_apart _ _ _ _ (hapart _ (by simp) _ (by simp) (by decide)), Fld.get_put_same _ _ _ (by decide)]
    exact Nat.mod_eq_of_lt hslot
  · rw [Fld.get_put_apart _ _ _ _ (hapart _ (by simp) _ (by simp) (by decide)),
      Fld.get_put_apart _ _ _ _ (hapart _ (by simp) _ (by simp) (by decide)), Fld.get_put_same _ _ _ (by decide)]
    exact Nat.mod_eq_of_lt hpc

/-- A fault is recorded unless one is. -/
def State.faultKept (s : State) (d e cause pc slot : Nat) : State :=
  if s.fbit (Csr.engFault d e) EngFault.valid then s else s.csrSet (Csr.engFault d e) (faultWord cause pc slot)

theorem State.faultKept_writes (s : State) (d e cause pc slot : Nat) :
    let t := s.faultKept d e cause pc slot
    (s.fbit (Csr.engFault d e) EngFault.valid = true → t.csrGet (Csr.engFault d e) = s.csrGet (Csr.engFault d e)) ∧
      (s.fbit (Csr.engFault d e) EngFault.valid = false → t.csrGet (Csr.engFault d e) = faultWord cause pc slot) ∧
      OnlyRegs s t [Csr.engFault d e] ∧ Reports s t := by
  unfold State.faultKept
  cases s.fbit (Csr.engFault d e) EngFault.valid with
  | true => exact ⟨fun _ => rfl, fun h => absurd h (by decide), .refl s _, .refl s⟩
  | false => exact ⟨fun h => absurd h (by decide), fun _ => s.csrGet_csrSet_same _ _, (OnlyRegs.refl s _).set (by simp) _, (Reports.refl s).set _ _⟩

theorem engFault_ne_engCnt (d e : Nat) : Csr.engFault d e ≠ Csr.engCnt d e := by
  simp only [Csr.engFault, Csr.engCnt, csrAddr]
  omega

/-- The count and the record of a fault. -/
theorem State.faultRecord_writes (s : State) (d : Die) (e : Eng) {cause pc : Nat} (hcause : cause < 16) (hpc : pc < 4096)
    (hslot : (s.eng d e).slot < 1024) :
    let t := s.faultRecord d e cause pc
    s.Faulted t d e cause (s.eng d e).slot pc ∧ OnlyRegs s t (faultRegs d e) ∧ Reports s t := by
  have he := engRegs_off e
  obtain ⟨a, ha⟩ : ∃ a, a = s.faultKept d e cause pc (s.eng d e).slot := ⟨_, rfl⟩
  obtain ⟨hkept, hrec, hregs, hrep⟩ := s.faultKept_writes d e cause pc (s.eng d e).slot
  rw [← ha] at hkept hrec hregs hrep
  obtain ⟨t, ht⟩ : ∃ t, t = (a.count (Csr.engCnt d e) EngCnt.faults 1).noticeLim d 0x0301 e
    [(1, d.val), (1, e.val), (2, (s.eng d e).slot), (1, cause), (2, pc)] := ⟨_, rfl⟩
  have hstages : s.faultRecord d e cause pc = t := by rw [ht, ha]; rfl
  have hcntDrop : Csr.engCnt d e ≠ Csr.ndQdropCnt (queueOf d) := dieReg_ne_drop d _ (off := 0x5000010 + 0x40 * e.val) (by omega)
  have hfltDrop : Csr.engFault d e ≠ Csr.ndQdropCnt (queueOf d) := dieReg_ne_drop d _ (off := 0x500000C + 0x40 * e.val) (by omega)
  have hcnt : t.fget (Csr.engCnt d e) EngCnt.faults = min (a.fget (Csr.engCnt d e) EngCnt.faults + 1) (2 ^ EngCnt.faults.width - 1) := by
    rw [ht, State.fget_noticeLim hcntDrop]
    exact State.fget_count_same _ _ _ _ (by decide)
  have hat : OnlyRegs a t [Csr.engCnt d e, Csr.ndQdropCnt (queueOf d)] := by
    rw [ht]
    exact ((OnlyRegs.refl a _).count (by simp) _ _).noticeLim (by simp) _ _ _
  have hword : t.csrGet (Csr.engFault d e) = a.csrGet (Csr.engFault d e) := by
    refine hat _ ?_
    simp only [List.mem_cons, List.not_mem_nil, or_false, not_or]
    exact ⟨engFault_ne_engCnt d e, hfltDrop⟩
  have hold : a.csrGet (Csr.engCnt d e) = s.csrGet (Csr.engCnt d e) := hregs _ (by simpa using (engFault_ne_engCnt d e).symm)
  rw [hstages]
  refine ⟨⟨?_, fun hv => hword.trans (hkept hv), fun hv => ?_⟩, ?_, ?_⟩
  · rw [hcnt, State.fget_congr hold]
  · have hfields := faultWord_fields hcause hpc hslot
    unfold State.fget
    rw [hword, hrec hv]
    exact hfields
  · exact (hregs.mono (by simp [faultRegs])).trans (hat.mono (by simp [faultRegs, schedRegs]))
  · rw [ht]
    exact (hrep.count _ _ _).noticeLim _ _ _ _

/-! ## The end of a handler by a fault (R145, R146) -/

section
variable {s : State} {d : Die} {e : Eng}

/-- The engine is idle. -/
theorem State.engIdle_wrote (s : State) (out : Bool) (as : List Nat) : s.EngWrote (s.engIdle d e out) d e
    { s.eng d e with running := false, wait := .none, bufs := [], rsp := none, answered := false, inMsg := none,
                     out := if out then Msg.blank else (s.eng d e).out } as := .setEng s d e _ as

/-- Reads dropped, locks released, the message answered and consumed, OUT discarded. -/
def State.stopped (s : State) (d e : Nat) : State :=
  ((((s.dropReads d e).dropLocks d e).faultResponse d e).consumeIn d e).engIdle d e true

theorem State.stopped_wrote (s : State) : s.EngWrote (s.stopped d e) d e ((s.eng d e).ended Msg.blank) (schedRegs d) := by
  have h1 := s.dropReads_wrote (d := d) (e := e) (as := schedRegs d)
  have h2 := h1.trans (State.dropLocks_wrote _)
  have h3 := h2.trans (State.faultResponse_says _ d e).wrote
  have h4 := h3.trans (State.consumeIn_wrote _)
  have h5 := h4.trans (State.engIdle_wrote _ true _)
  rw [h4.eng, h3.eng, h2.eng, h1.eng] at h5
  exact h5

theorem State.engFault_ends (s : State) {cause : Nat} (hcause : cause < 16) (hslot : (s.eng d e).slot < 1024) :
    ∃ u, s.EngWrote u d e ((s.eng d e).ended Msg.blank) (faultRegs d e) ∧
      s.Faulted u d e cause (s.eng d e).slot (min (s.eng d e).pc 4095) ∧ u.TaskEnded (s.engFault d e cause) d (s.eng d e).slot := by
  have hstop := s.stopped_wrote (d := d) (e := e)
  have hslot' : ((s.stopped d e).eng d e).slot = (s.eng d e).slot := by rw [hstop.eng]; rfl
  obtain ⟨hflt, hregs, hrep⟩ := (s.stopped d e).faultRecord_writes d e hcause (pc := min (s.eng d e).pc 4095) (by omega) (hslot' ▸ hslot)
  rw [hslot'] at hflt
  have hrecord := State.EngWrote.of_sends (d := d) (e := e) hrep.sends hregs
  rw [hstop.eng] at hrecord
  have hoff := engRegs_off e
  refine ⟨_, (hstop.mono (schedRegs_subset d e)).trans hrecord, hflt.of_regs ?_ ?_ rfl rfl, State.taskComplete_ends hslot _⟩
  · exact (hstop.regs _ (dieReg_not_mem_schedRegs d hoff.2)).symm
  · exact (hstop.regs _ (dieReg_not_mem_schedRegs d hoff.1)).symm

/-! ## END (R129) -/

/-- A register of the die's engines as a whole is none of an engine's own faults. -/
theorem dieReg_not_mem_faultRegs (d : Die) (e : Eng) {off : Nat} (h : 0x5001000 ≤ off ∧ off < 0x6000000) : csrAddr d off ∉ faultRegs d e := by
  have he := e.isLt
  intro hm
  rcases List.mem_append.1 hm with hm | hm
  · simp only [List.mem_cons, List.not_mem_nil, or_false, Csr.engFault, Csr.engCnt, csrAddr] at hm
    omega
  · exact dieReg_not_mem_schedRegs d (by omega) hm

theorem engRegs_ne (d : Nat) (e : Eng) {off : Nat} (h : 0x5001000 ≤ off) :
    Csr.engFault d e ≠ csrAddr d off ∧ Csr.engCnt d e ≠ csrAddr d off := by
  have he := e.isLt
  simp only [Csr.engFault, Csr.engCnt, csrAddr]
  omega

/-- An unanswered message is answered, and the fault recorded. -/
def State.leftUnanswered (s : State) (d e pc : Nat) (b : Bool) : State :=
  if b then (s.faultResponse d e).faultRecord d e Fc.unanswered pc else s

theorem State.leftUnanswered_writes (s : State) {pc : Nat} (hpc : pc < 4096) (hslot : (s.eng d e).slot < 1024) (b : Bool) :
    let t := s.leftUnanswered d e pc b
    s.EngWrote t d e (s.eng d e) (faultRegs d e) ∧ (b = true → s.Faulted t d e Fc.unanswered (s.eng d e).slot pc) := by
  cases b with
  | false => exact ⟨.of_sends (.refl s) (.refl s _), fun h => absurd h (by decide)⟩
  | true =>
    have hsays := s.faultResponse_says d e
    have heng : (s.faultResponse d e).eng d e = s.eng d e := State.eng_congr (congrArg State.engs hsays.sends :) d e
    obtain ⟨hflt, hregs, hrep⟩ := (s.faultResponse d e).faultRecord_writes d e (cause := Fc.unanswered) (by decide) hpc (heng ▸ hslot)
    rw [heng] at hflt
    have hget : ∀ a, s.csrGet a = (s.faultResponse d e).csrGet a := fun a => (OnlyRegs.of_csr hsays.csr [] a List.not_mem_nil).symm
    exact ⟨.of_sends (hsays.sends.trans hrep.sends) ((OnlyRegs.of_csr hsays.csr _).trans hregs),
      fun _ => hflt.of_regs (hget _) (hget _) rfl rfl⟩

theorem State.engEnd_ends (s : State) (hpc : (s.eng d e).pc < 4096) (hslot : (s.eng d e).slot < 1024) :
    ∃ u, s.EngWrote u d e ((s.eng d e).ended (s.eng d e).out) (Csr.engMiscCnt d :: faultRegs d e) ∧
      u.fget (Csr.engMiscCnt d) EngMiscCnt.lockLeak =
        min (s.fget (Csr.engMiscCnt d) EngMiscCnt.lockLeak + (s.eng d e).locks.length) (2 ^ EngMiscCnt.lockLeak.width - 1) ∧
      ((s.eng d e).inMsg.any (fun m => expects m.msg) = true → (s.eng d e).answered = false →
        s.Faulted u d e Fc.unanswered (s.eng d e).slot (s.eng d e).pc) ∧
      u.TaskEnded (s.engEnd d e) d (s.eng d e).slot := by
  obtain ⟨a, ha⟩ : ∃ a, a = s.count (Csr.engMiscCnt d) EngMiscCnt.lockLeak (s.eng d e).locks.length := ⟨_, rfl⟩
  have hleak : a.fget (Csr.engMiscCnt d) EngMiscCnt.lockLeak =
      min (s.fget (Csr.engMiscCnt d) EngMiscCnt.lockLeak + (s.eng d e).locks.length) (2 ^ EngMiscCnt.lockLeak.width - 1) := by
    rw [ha]; exact State.fget_count_same _ _ _ _ (by decide)
  have hsa : OnlyRegs s a [Csr.engMiscCnt d] := by rw [ha]; exact (OnlyRegs.refl s _).count (by simp) _ _
  have hrep : Reports s a := by rw [ha]; exact (Reports.refl s).count _ _ _
  have h1 : s.EngWrote a d e (s.eng d e) (Csr.engMiscCnt d :: faultRegs d e) := .of_sends hrep.sends (hsa.mono (by simp))
  obtain ⟨b, hb⟩ : ∃ b, b = a.dropLocks d e := ⟨_, rfl⟩
  have hab := a.dropLocks_wrote (d := d) (e := e) (as := [])
  rw [h1.eng, ← hb] at hab
  obtain ⟨c, hc⟩ : ∃ c, c = b.leftUnanswered d e (s.eng d e).pc ((s.eng d e).inMsg.any (fun m => expects m.msg) && !(s.eng d e).answered) := ⟨_, rfl⟩
  obtain ⟨hbc, hflt⟩ := b.leftUnanswered_writes (d := d) (e := e) hpc (by rw [hab.eng]; exact hslot)
    ((s.eng d e).inMsg.any (fun m => expects m.msg) && !(s.eng d e).answered)
  rw [← hc] at hbc hflt
  rw [hab.eng] at hbc hflt
  have hcu : c.EngWrote ((c.consumeIn d e).engIdle d e false) d e ((s.eng d e).ended (s.eng d e).out) (schedRegs d) := by
    have hconsumed := c.consumeIn_wrote (d := d) (e := e)
    have hidle := hconsumed.trans (State.engIdle_wrote _ false _)
    rw [hconsumed.eng, hbc.eng] at hidle
    exact hidle
  obtain ⟨u, hu⟩ : ∃ u, u = (c.consumeIn d e).engIdle d e false := ⟨_, rfl⟩
  rw [← hu] at hcu
  have hstages : s.engEnd d e = u.taskComplete d (s.eng d e).slot := by
    rw [hu, hc, hb, ha]
    rfl
  have hau : OnlyRegs a u (faultRegs d e) :=
    ((hab.regs.mono (List.nil_subset _)).trans hbc.regs).trans (hcu.regs.mono (schedRegs_subset d e))
  have hwrote := ((h1.trans (hab.mono (List.nil_subset _))).trans (hbc.mono (by simp))).trans
    (hcu.mono (List.Subset.trans (schedRegs_subset d e) (List.subset_cons_self _ _)))
  refine ⟨u, hwrote, ?_,
    fun hin hans => ?_, hstages ▸ State.taskComplete_ends hslot u⟩
  · have hmisc : u.csrGet (Csr.engMiscCnt d) = a.csrGet (Csr.engMiscCnt d) := hau _ (dieReg_not_mem_faultRegs d e (off := 0x5010014) (by decide))
    rw [State.fget_congr hmisc, hleak]
  · have hsb : OnlyRegs s b [Csr.engMiscCnt d] := hsa.trans (hab.regs.mono (List.nil_subset _))
    obtain ⟨hfne, hcne⟩ := engRegs_ne d e (off := 0x5010014) (by decide)
    have hoff := engRegs_off e
    exact (hflt (by simp [hin, hans])).of_regs (hsb _ fun h => hcne (List.mem_singleton.1 h)).symm
      (hsb _ fun h => hfne (List.mem_singleton.1 h)).symm
      (hcu.regs _ (dieReg_not_mem_schedRegs d hoff.2)) (hcu.regs _ (dieReg_not_mem_schedRegs d hoff.1))

end

end Sys2Proof.Machine

end

section

/-! PROOFS. Waits at their limit (02 R96; 03 R143; 04 R160, R162), and O17. -/

namespace Sys2Proof.Machine

/-! ## The requeue of a task (R160, R162) -/

section
variable {s t : State} {d : Die} {n : Nat}

theorem State.taskX_setTaskX_same (s : State) (d n : Nat) (x : TaskX) : (s.setTaskX d n x).taskX d n = x := SMap.get_set_same _ _ _ _

/-- Who serves a slot rests on its CLMASK and epoch, and on the epochs of the engines. -/
theorem State.servable_congr (hctrl : ∀ e < 64, t.csrGet (Csr.engCtrl d e) = s.csrGet (Csr.engCtrl d e))
    (hclmask : t.fget (Csr.taskW0 d n) TaskW0.clmask = s.fget (Csr.taskW0 d n) TaskW0.clmask)
    (hepoch : t.fget (Csr.taskW3 d n) TaskW3.epoch = s.fget (Csr.taskW3 d n) TaskW3.epoch) : t.servable d n = s.servable d n := by
  have helig : ∀ e < 64, t.eligible d n e = s.eligible d n e := fun e he => by
    unfold State.eligible State.engEpoch
    rw [hclmask, hepoch, State.fget_congr (hctrl e he)]
  unfold State.servable
  rw [Bool.eq_iff_iff, List.any_eq_true, List.any_eq_true]
  exact exists_congr fun e => and_congr_right fun he => by rw [helig e (List.mem_range.1 he)]

/-- The slot of a requeued task before its readiness is evaluated. -/
structure State.Requeued (s t : State) (d n : Nat) (v1 : Word) (inMsg : Option InMsg) (esc : Nat) : Prop where
  engs : t.engs = s.engs
  engReg : t.engReg = s.engReg
  regs : OnlyRegs s t (taskRegs d n)
  word0 : t.csrGet (Csr.taskW0 d n) = TaskW0.esc.put (s.csrGet (Csr.taskW0 d n)) esc
  flags : t.taskFlags d n = (s.taskFlags d n ||| v1.toNat)
  epoch : t.fget (Csr.taskW3 d n) TaskW3.epoch = s.fget (Csr.taskW3 d n) TaskW3.epoch
  inbox : (t.taskX d n).inbox = inMsg.toList ++ (s.taskX d n).inbox

section
variable {v1 : Word} {inMsg : Option InMsg} {esc : Nat} (h : s.Requeued t d n v1 inMsg esc)
include h

theorem State.Requeued.field {f : Fld} (hf : TaskW0.esc.apart f) : t.fget (Csr.taskW0 d n) f = s.fget (Csr.taskW0 d n) f := by
  unfold State.fget
  rw [h.word0, Fld.get_put_apart _ _ _ _ hf]

theorem State.Requeued.valid : t.taskValid d n = s.taskValid d n := by
  unfold State.taskValid State.fbit
  rw [h.field (by unfold Fld.apart; decide)]

theorem State.Requeued.esc_eq (hesc : esc < 4) : t.fget (Csr.taskW0 d n) TaskW0.esc = esc := by
  unfold State.fget
  rw [h.word0, Fld.get_put_same _ _ _ (by decide)]
  exact Nat.mod_eq_of_lt hesc

theorem State.Requeued.ready (hn : n < 1024) : t.taskReady d n =
    readyCond (s.fbit (Csr.taskW0 d n) TaskW0.mode) (s.taskFlags d n ||| v1.toNat) (s.fget (Csr.taskW1 d n) TaskW1.mask) := by
  have hmask : t.csrGet (Csr.taskW1 d n) = s.csrGet (Csr.taskW1 d n) := by
    refine h.regs _ fun hm => ?_
    obtain ⟨h01, h12, h13⟩ := (taskW_distinct d n).2.2.2
    rcases List.mem_append.1 hm with hm | hm
    · simp only [List.mem_cons, List.not_mem_nil, or_false] at hm
      exact hm.elim h01.symm (Or.elim · h12 h13)
    · exact taskW_not_mem_schedRegs hn (by simp) hm
  unfold State.taskReady State.fbit
  rw [h.field (by unfold Fld.apart; decide), h.flags, State.fget_congr hmask]

theorem State.Requeued.servable : t.servable d n = s.servable d n :=
  State.servable_congr (fun e he => h.regs _ (dieReg_not_mem_taskRegs d n (off := 0x5000000 + 0x40 * e) (by omega)))
    (h.field (by unfold Fld.apart; decide)) h.epoch

theorem State.Requeued.setTaskX {x : TaskX} (hx : x.inbox = (t.taskX d n).inbox) :
    s.Requeued (t.setTaskX d n x) d n v1 inMsg esc :=
  ⟨h.engs, h.engReg, h.regs.trans (.of_csr rfl _), h.word0, h.flags, h.epoch, by rw [State.taskX_setTaskX_same, hx]; exact h.inbox⟩

theorem State.Requeued.setTaskState (v : Nat) : s.Requeued (t.setTaskState d n v) d n v1 inMsg esc := by
  obtain ⟨h02, h03, h23, -⟩ := taskW_distinct d n
  obtain ⟨u, hu⟩ : ∃ u, u = t.setTaskState d n v := ⟨_, rfl⟩
  have hengs : u.engs = t.engs := by rw [hu]; exact State.fset_engs ..
  have hengReg : u.engReg = t.engReg := by rw [hu]; exact State.fset_engReg ..
  have htasks : u.tasks = t.tasks := by rw [hu]; exact State.fset_tasks ..
  have hregs : OnlyRegs t u [Csr.taskW3 d n] := by rw [hu]; exact (OnlyRegs.refl t _).fset (by simp) _ _
  have hepoch : u.fget (Csr.taskW3 d n) TaskW3.epoch = t.fget (Csr.taskW3 d n) TaskW3.epoch := by
    rw [hu]; exact State.fget_fset_apart _ _ _ _ _ (by unfold Fld.apart; decide)
  rw [← hu]
  refine ⟨hengs.trans h.engs, hengReg.trans h.engReg, h.regs.trans (hregs.mono (by simp [taskRegs])),
    (hregs _ (by simpa using h03)).trans h.word0, ?_, hepoch.trans h.epoch, ?_⟩
  · exact (State.fget_congr (hregs _ (by simpa using h23)) _).trans h.flags
  · unfold State.taskX
    rw [htasks]
    exact h.inbox

end

/-- The slot with its message, its flags and its level. -/
theorem State.requeued_start (s : State) (v1 : Word) (inMsg : Option InMsg) (esc : Nat) :
    s.Requeued (((s.setTaskX d n { s.taskX d n with inbox := inMsg.toList ++ (s.taskX d n).inbox, affinity := false }).orFlags d n
      v1.toNat).fset (Csr.taskW0 d n) TaskW0.esc esc) d n v1 inMsg esc := by
  obtain ⟨h02, h03, h23, -⟩ := taskW_distinct d n
  obtain ⟨a, ha⟩ : ∃ a, a = s.setTaskX d n { s.taskX d n with inbox := inMsg.toList ++ (s.taskX d n).inbox, affinity := false } := ⟨_, rfl⟩
  have hacsr : a.csr = s.csr := by rw [ha]; rfl
  have hget : ∀ r, a.csrGet r = s.csrGet r := fun r => OnlyRegs.of_csr hacsr [] r List.not_mem_nil
  have hbox : (a.taskX d n).inbox = inMsg.toList ++ (s.taskX d n).inbox := by rw [ha, State.taskX_setTaskX_same]
  have haengs : a.engs = s.engs ∧ a.engReg = s.engReg := by rw [ha]; exact ⟨rfl, rfl⟩
  have hflags : a.taskFlags d n = s.taskFlags d n := State.fget_congr (hget _) _
  obtain ⟨b, hb⟩ : ∃ b, b = a.orFlags d n v1.toNat := ⟨_, rfl⟩
  have hbengs : b.engs = a.engs := by rw [hb]; exact State.fset_engs ..
  have hbreg : b.engReg = a.engReg := by rw [hb]; exact State.fset_engReg ..
  have hbtasks : b.tasks = a.tasks := by rw [hb]; exact State.fset_tasks ..
  have hbregs : OnlyRegs a b [Csr.taskW2 d n] := by rw [hb]; exact (OnlyRegs.refl a _).fset (by simp) _ _
  have hbflags : b.taskFlags d n = (s.taskFlags d n ||| v1.toNat) := by
    have hlt : (s.taskFlags d n ||| v1.toNat) < 2 ^ 32 := Nat.or_lt_two_pow (Fld.get_lt TaskW2.flags _) v1.isLt
    rw [hb, ← hflags]
    exact (State.fget_fset_same _ _ _ _ (by decide)).trans (Nat.mod_eq_of_lt (hflags ▸ hlt))
  rw [← ha, ← hb]
  obtain ⟨c, hc⟩ : ∃ c, c = b.fset (Csr.taskW0 d n) TaskW0.esc esc := ⟨_, rfl⟩
  have hcengs : c.engs = b.engs := by rw [hc]; exact State.fset_engs ..
  have hcreg : c.engReg = b.engReg := by rw [hc]; exact State.fset_engReg ..
  have hctasks : c.tasks = b.tasks := by rw [hc]; exact State.fset_tasks ..
  have hcregs : OnlyRegs b c [Csr.taskW0 d n] := by rw [hc]; exact (OnlyRegs.refl b _).fset (by simp) _ _
  have hcword : c.csrGet (Csr.taskW0 d n) = TaskW0.esc.put (b.csrGet (Csr.taskW0 d n)) esc := by rw [hc]; exact State.csrGet_fset_same ..
  rw [← hc]
  have h3 : c.csrGet (Csr.taskW3 d n) = s.csrGet (Csr.taskW3 d n) :=
    ((hcregs _ (by simpa using h03.symm)).trans (hbregs _ (by simpa using h23.symm))).trans (hget _)
  refine ⟨hcengs.trans (hbengs.trans haengs.1), hcreg.trans (hbreg.trans haengs.2), ?_, ?_, ?_, State.fget_congr h3 _, ?_⟩
  · exact ((OnlyRegs.of_csr hacsr _).trans (hbregs.mono (by simp [taskRegs]))).trans (hcregs.mono (by simp [taskRegs]))
  · rw [hcword, hbregs _ (by simpa using h02), hget]
  · exact (State.fget_congr (hcregs _ (by simpa using h02.symm)) _).trans hbflags
  · unfold State.taskX
    rw [hctasks, hbtasks]
    exact hbox

/-- The readiness of a task that has just been made READY (R162 step 2). -/
theorem State.evalReady_requeued {v1 : Word} {inMsg : Option InMsg} {esc : Nat} (h : s.Requeued t d n v1 inMsg esc)
    (hstate : t.taskState d n = TSt.ready) (hvalid : t.taskValid d n = true) :
    s.Requeued (t.evalReady d n) d n v1 inMsg esc ∧ (t.evalReady d n).taskState d n = if t.taskReady d n then TSt.ready else TSt.idle := by
  unfold State.evalReady
  rw [hvalid, hstate, if_neg (by decide), if_neg (by simp [TSt.ready, TSt.idle])]
  cases t.taskReady d n with
  | true => exact ⟨h, hstate⟩
  | false =>
    rw [if_pos (by decide)]
    exact ⟨(h.setTaskX (x := { t.taskX d n with stamp := 0, onceAt := none }) rfl).setTaskState TSt.idle,
      State.taskState_setTaskState _ d n (by decide)⟩

/-- A task that some engine serves is left as it is. -/
theorem State.evalServable_served (hvalid : s.taskValid d n = true) (hrun : s.taskState d n ≠ TSt.running) (hserv : s.servable d n = true)
    (hstate : s.taskState d n ≠ TSt.unservable) : s.evalServable d n = s := by
  unfold State.evalServable
  rw [hvalid, beq_eq_false_iff_ne.2 hrun, hserv, beq_eq_false_iff_ne.2 hstate]
  rfl

theorem State.taskValid_setTaskX (s : State) (d n : Nat) (x : TaskX) : (s.setTaskX d n x).taskValid d n = s.taskValid d n := rfl

/-- A requeued task that some engine serves: READY as MASK and MODE as they stand say, one level up, its message at the head. -/
theorem State.requeue_writes {v1 : Word} {inMsg : Option InMsg} {esc : Nat} (hn : n < 1024) (hvalid : s.taskValid d n = true)
    (hpend : (s.taskX d n).pendInv = false) (hserv : s.servable d n = true) (p : Nat) :
    let t := s.requeue d n v1.toNat inMsg esc p
    s.Requeued t d n v1 inMsg esc ∧ t.taskState d n =
      if readyCond (s.fbit (Csr.taskW0 d n) TaskW0.mode) (s.taskFlags d n ||| v1.toNat) (s.fget (Csr.taskW1 d n) TaskW1.mask)
      then TSt.ready else TSt.idle := by
  have h1 := s.requeued_start (d := d) (n := n) v1 inMsg esc
  obtain ⟨a, ha⟩ : ∃ a, a = ((s.setTaskX d n { s.taskX d n with inbox := inMsg.toList ++ (s.taskX d n).inbox, affinity := false }).orFlags d n
    v1.toNat).fset (Csr.taskW0 d n) TaskW0.esc esc := ⟨_, rfl⟩
  rw [← ha] at h1
  obtain ⟨b, hb⟩ : ∃ b, b = (a.setTaskX d n { a.taskX d n with
    onceAt := if p < a.fget (Csr.taskW0 d n) TaskW0.prio then some p else none }).setTaskState d n TSt.ready := ⟨_, rfl⟩
  have h2 : s.Requeued b d n v1 inMsg esc := by rw [hb]; exact (h1.setTaskX (x := { a.taskX d n with
    onceAt := if p < a.fget (Csr.taskW0 d n) TaskW0.prio then some p else none }) rfl).setTaskState _
  have hstate : b.taskState d n = TSt.ready := by rw [hb]; exact State.taskState_setTaskState _ d n (by decide)
  obtain ⟨h3, hafter⟩ := State.evalReady_requeued h2 hstate (h2.valid.trans hvalid)
  rw [h2.ready hn] at hafter
  have hserved : (b.evalReady d n).evalServable d n = b.evalReady d n := by
    refine State.evalServable_served (h3.valid.trans hvalid) ?_ (h3.servable.trans hserv) ?_
    · rw [hafter]
      split <;> decide
    · rw [hafter]
      split <;> decide
  have hstages : s.requeue d n v1.toNat inMsg esc p = (b.evalReady d n).evalServable d n := by
    unfold State.requeue
    rw [hb, ha]
    dsimp only
    rw [State.taskValid_setTaskX, hvalid, if_neg (by simp [hpend])]
  rw [hstages, hserved]
  exact ⟨h3, hafter⟩

end

end Sys2Proof.Machine

end

section

/-! PROOFS. The commands that end a handler or abort its wait (02 R96; 03 R111, R120, R129, R143, R145; 04 R160, R162), and O17. -/

namespace Sys2Proof.Machine

section
variable {s u t : State} {d : Die} {e : Eng} {x : Engine} {as : List Nat} {n : Nat} {out : Msg}

/-! ## After the end of a handler -/

/-- From `s` to `t` the handler that engine (d, e) ran with record `x` ended: the engine is idle and holds nothing but its notify
fences, and its task does not run and has level 0 (R111, R129, R146). -/
def State.HandlerOver (s t : State) (d : Die) (e : Eng) (x : Engine) : Prop :=
  (t.eng d e).running = false ∧ (t.eng d e).wait = .none ∧ (t.eng d e).bufs = [] ∧ (t.eng d e).locks = [] ∧
  (t.eng d e).inMsg = none ∧ (t.eng d e).fences = x.fences ∧ t.engReg = s.engReg ∧
  (∀ (d' : Die) (e' : Eng), (d', e') ≠ (d, e) → t.eng d' e' = s.eng d' e') ∧
  t.taskState d x.slot ≠ TSt.running ∧ t.fget (Csr.taskW0 d x.slot) TaskW0.esc = 0

theorem State.TaskEnded.handlerOver (h' : u.TaskEnded t d x.slot) (h : s.EngWrote u d e (x.ended out) as) :
    s.HandlerOver t d e x ∧ (t.eng d e).out = out := by
  have heng : t.eng d e = x.ended out := (State.eng_congr h'.engs d e).trans h.eng
  unfold State.HandlerOver
  rw [heng]
  exact ⟨⟨rfl, rfl, rfl, rfl, rfl, rfl, h'.engReg.trans h.engReg,
    fun d' e' hne => (State.eng_congr h'.engs d' e').trans (h.others d' e' hne), h'.ended, h'.esc⟩, rfl⟩

/-- The slot's end writes neither the count nor the record of the fault. -/
theorem State.Faulted.task_ended {cause slot pc : Nat} (h : s.Faulted u d e cause slot pc) (h' : u.TaskEnded t d n) :
    s.Faulted t d e cause slot pc :=
  h.of_regs rfl rfl (h'.regs _ (dieReg_not_mem_taskRegs d n (engRegs_off e).2)) (h'.regs _ (dieReg_not_mem_taskRegs d n (engRegs_off e).1))

theorem State.fetchEcc_onlyRegs (s : State) (d e : Nat) : OnlyRegs s (s.fetchEcc d e) [Csr.engEccCnt d] := by
  unfold State.fetchEcc
  dsimp only
  split
  · exact (OnlyRegs.of_csr rfl _).count (by simp) _ _
  · exact .refl s _

/-- The fetched word is corrected, and END has run its cycle. -/
theorem State.endFetched_wrote (s : State) :
    s.EngWrote ((s.fetchEcc d e).engGo d e 1 (s.eng d e).pc) d e ((s.eng d e).went 1 (s.eng d e).pc) [Csr.engEccCnt d] := by
  have hfetch : s.EngWrote (s.fetchEcc d e) d e (s.eng d e) [Csr.engEccCnt d] :=
    ⟨State.eng_fetchEcc .., fun _ _ _ => State.eng_fetchEcc .., State.fetchEcc_engReg .., State.fetchEcc_tasks .., s.fetchEcc_onlyRegs d e⟩
  have hgo := hfetch.trans (.setEng (s.fetchEcc d e) d e (((s.fetchEcc d e).eng d e).went 1 (s.eng d e).pc) _)
  rw [hfetch.eng] at hgo
  unfold State.engGo
  dsimp only
  rw [hfetch.eng]
  exact hgo

theorem doEngEnd_eq {w : Word} (hop : Ins.op w = 0x21) (hlow : Ins.low26 w = 0) (hx : s.Executing d e w 1) :
    doEngEnd d e s = ((s.fetchEcc d e).engGo d e 1 (s.eng d e).pc).engEnd d e := by
  unfold doEngEnd
  rw [State.engRun_body hx (by decide) (by simp [opIs, hop]) (by simp [legalEnd, hlow]) rfl, State.eng_fetchEcc]

theorem State.fetched_pc {w : Word} (h : s.fetched d e = some w) : (s.eng d e).pc < 4096 := by
  unfold State.fetched at h
  dsimp only at h
  split at h
  next hpc => simp at hpc; exact hpc.1
  next => cases h

/-- Neither the fault's count nor its record is a count of the die's corrected words. -/
theorem State.engWrote_faultRegs (h : s.EngWrote t d e x [Csr.engEccCnt d]) :
    t.csrGet (Csr.engCnt d e) = s.csrGet (Csr.engCnt d e) ∧ t.csrGet (Csr.engFault d e) = s.csrGet (Csr.engFault d e) := by
  obtain ⟨hfne, hcne⟩ := engRegs_ne d e (off := 0x5010018) (by decide)
  exact ⟨h.regs _ fun hm => hcne (List.mem_singleton.1 hm), h.regs _ fun hm => hfne (List.mem_singleton.1 hm)⟩

/-- The outcome of a fault of engine (d, e). -/
structure State.EndsByFault (s t : State) (d : Die) (e : Eng) (cause : Nat) : Prop where
  idle : s.HandlerOver t d e (s.eng d e)
  out : (t.eng d e).out = Msg.blank
  faulted : s.Faulted t d e cause (s.eng d e).slot (min (s.eng d e).pc 4095)

/-- A fault, when at most the count of the die's bad words changed before it. -/
theorem State.engFault_over (h : s.EngWrote t d e (s.eng d e) [Csr.engEccCnt d]) {cause : Nat} (hcause : cause < 16)
    (hslot : (s.eng d e).slot < 1024) : s.EndsByFault (t.engFault d e cause) d e cause := by
  obtain ⟨u, hwrote, hflt, hended⟩ := t.engFault_ends (d := d) (e := e) hcause (by rw [h.eng]; exact hslot)
  rw [h.eng] at hwrote hflt hended
  obtain ⟨hcnt, hrec⟩ := State.engWrote_faultRegs h
  have hall := (h.mono (bs := Csr.engEccCnt d :: faultRegs d e) (by simp)).trans (hwrote.mono (List.subset_cons_self _ _))
  obtain ⟨hover, hout⟩ := hended.handlerOver hall
  exact ⟨hover, hout, (hflt.of_regs hcnt.symm hrec.symm rfl rfl).task_ended hended⟩

theorem State.engWrote_self (s : State) : s.EngWrote s d e (s.eng d e) as := .of_sends (.refl s) (.refl s _)

theorem State.badWord_wrote (s : State) :
    s.EngWrote (s.count (Csr.engEccCnt d) EngEccCnt.uncorr 1) d e (s.eng d e) [Csr.engEccCnt d] :=
  .of_sends ((Reports.refl s).count _ _ _).sends ((OnlyRegs.refl s _).count (by simp) _ _)

theorem State.fetched_none (h : 2 ≤ SMap.get 0 s.storeBad (storeKey d e (s.eng d e).pc)) : s.fetched d e = none := by
  unfold State.fetched
  dsimp only
  rw [if_neg]
  simp only [Bool.and_eq_true, decide_eq_true_eq, not_and]
  omega

theorem doBudgetFault_eq (hrun : s.canRun d e = true) (hb : (s.eng d e).budget ≤ (s.eng d e).run) :
    doBudgetFault d e s = s.engFault d e Fc.budget :=
  if_pos (by rw [hrun, decide_eq_true hb]; rfl)

section
variable (hrun : s.canRun d e = true) (hb : (s.eng d e).run < (s.eng d e).budget)
include hrun hb

theorem doEngIllegal_pastEnd (hpc : 4096 ≤ (s.eng d e).pc) : doEngIllegal d e s = s.engFault d e Fc.illegal := by
  unfold doEngIllegal
  rw [hrun, if_neg (by decide)]
  dsimp only
  rw [if_neg (by omega), if_pos hpc]

theorem doEngIllegal_reserved {w : Word} (hw : s.fetched d e = some w) (hop : 0x30 ≤ Ins.op w) :
    doEngIllegal d e s = s.engFault d e Fc.illegal := by
  have hpc := s.fetched_pc hw
  unfold doEngIllegal
  rw [hrun, if_neg (by decide)]
  dsimp only
  rw [if_neg (by omega), if_neg (by omega), hw]
  exact if_pos hop

theorem doEngIllegal_badWord (hpc : (s.eng d e).pc < 4096) (hw : s.fetched d e = none) :
    doEngIllegal d e s = (s.count (Csr.engEccCnt d) EngEccCnt.uncorr 1).engFault d e Fc.storeEcc := by
  unfold doEngIllegal
  rw [hrun, if_neg (by decide)]
  dsimp only
  rw [if_neg (by omega), if_neg (by omega), hw]

end

/-- The outcome of END. -/
structure State.EndsByEnd (s t : State) (d : Die) (e : Eng) : Prop where
  idle : s.HandlerOver t d e (s.eng d e)
  out : (t.eng d e).out = (s.eng d e).out
  leaks : t.fget (Csr.engMiscCnt d) EngMiscCnt.lockLeak =
    min (s.fget (Csr.engMiscCnt d) EngMiscCnt.lockLeak + (s.eng d e).locks.length) (2 ^ EngMiscCnt.lockLeak.width - 1)
  faulted : (s.eng d e).inMsg.any (fun m => expects m.msg) = true → (s.eng d e).answered = false →
    s.Faulted t d e Fc.unanswered (s.eng d e).slot (min (s.eng d e).pc 4095)

theorem doEngEnd_ends {w : Word} (hop : Ins.op w = 0x21) (hlow : Ins.low26 w = 0) (hx : s.Executing d e w 1)
    (hslot : (s.eng d e).slot < 1024) : s.EndsByEnd (doEngEnd d e s) d e := by
  have hpc := s.fetched_pc hx.2.1
  have hfetch := s.endFetched_wrote (d := d) (e := e)
  rw [doEngEnd_eq hop hlow hx]
  obtain ⟨a, ha⟩ : ∃ a, a = (s.fetchEcc d e).engGo d e 1 (s.eng d e).pc := ⟨_, rfl⟩
  rw [← ha] at hfetch ⊢
  obtain ⟨u, hwrote, hleak, hflt, hended⟩ := a.engEnd_ends (d := d) (e := e) (by rw [hfetch.eng]; exact hpc) (by rw [hfetch.eng]; exact hslot)
  rw [hfetch.eng] at hwrote hleak hflt hended
  obtain ⟨hcnt, hrec⟩ := State.engWrote_faultRegs hfetch
  have hall := (hfetch.mono (bs := Csr.engEccCnt d :: Csr.engMiscCnt d :: faultRegs d e) (by simp)).trans (hwrote.mono (List.subset_cons_self _ _))
  obtain ⟨hover, hout⟩ := hended.handlerOver hall
  have hmisc : a.csrGet (Csr.engMiscCnt d) = s.csrGet (Csr.engMiscCnt d) :=
    hfetch.regs _ (by simp [Csr.engMiscCnt, Csr.engEccCnt, csrAddr])
  refine ⟨hover, hout, ?_, fun hin hans => ?_⟩
  · have hlast : (a.engEnd d e).csrGet (Csr.engMiscCnt d) = u.csrGet (Csr.engMiscCnt d) :=
      hended.regs _ (dieReg_not_mem_taskRegs d _ (off := 0x5010014) (by decide))
    rw [State.fget_congr hlast, hleak, State.fget_congr hmisc]
    rfl
  · rw [Nat.min_eq_left (by omega)]
    exact ((hflt hin hans).of_regs hcnt.symm hrec.symm rfl rfl).task_ended hended

/-! ## A wait at its limit (R96, R143, R160) -/

theorem Reports.notice (h : Reports s t) (d code : Nat) (fs : List (Nat × Nat)) : Reports s (t.notice d code fs) := by
  refine h.trans ?_
  have hwin : (t.notice d code fs).windows = t.windows := State.notice_windows ..
  unfold Reports
  rw [hwin]
  exact State.notice_rest ..

theorem OnlyRegs.notice (h : OnlyRegs s t as) {d : Nat} (ha : Csr.ndQdropCnt (queueOf d) ∈ as) (code : Nat) (fs : List (Nat × Nat)) :
    OnlyRegs s (t.notice d code fs) as :=
  h.trans ((t.notice_onlyRegs d code fs).mono (List.cons_subset.2 ⟨ha, List.nil_subset _⟩))

/-- The fields of the notice of a wait's end. -/
def waitFields (x : Engine) (d e : Nat) : List (Nat × Nat) := [(1, d), (1, e), (2, x.slot), (1, x.esc), (1, b2n (3 ≤ x.esc))]

/-- The registers that the report of a wait's end writes. -/
def waitRegs (d : Nat) : List Nat := [Csr.dirWaitCnt d, Csr.ndQdropCnt (queueOf d)]

/-- From `s` to `t` the end of a wait was counted and reported. -/
structure State.WaitCounted (s t : State) (d : Nat) : Prop where
  reports : Reports s t
  regs : OnlyRegs s t (waitRegs d)
  aborts : t.fget (Csr.dirWaitCnt d) DirWaitCnt.aborts =
    min (s.fget (Csr.dirWaitCnt d) DirWaitCnt.aborts + 1) (2 ^ DirWaitCnt.aborts.width - 1)

theorem dirWaitCnt_ne_drop (d : Die) : Csr.dirWaitCnt d ≠ Csr.ndQdropCnt (queueOf d) :=
  dieReg_ne_drop d _ (off := 0x4000030) (by decide)

theorem State.abort_counted (s : State) (d : Die) : s.WaitCounted (s.count (Csr.dirWaitCnt d) DirWaitCnt.aborts 1) d :=
  ⟨(Reports.refl s).count _ _ _, (OnlyRegs.refl s _).count (by simp [waitRegs]) _ _, State.fget_count_same _ _ _ _ (by decide)⟩

theorem State.WaitCounted.noticeLim (h : s.WaitCounted t d) (code scope : Nat) (fs : List (Nat × Nat)) :
    s.WaitCounted (t.noticeLim d code scope fs) d :=
  ⟨h.reports.noticeLim _ _ _ _, h.regs.noticeLim (by simp [waitRegs]) _ _ _, (State.fget_noticeLim (dirWaitCnt_ne_drop d) _).trans h.aborts⟩

theorem State.fget_notice (s : State) (d : Die) (code : Nat) (fs : List (Nat × Nat)) (f : Fld) :
    (s.notice d code fs).fget (Csr.dirWaitCnt d) f = s.fget (Csr.dirWaitCnt d) f :=
  State.fget_congr (s.notice_onlyRegs d code fs _ fun hm => dirWaitCnt_ne_drop d (List.mem_singleton.1 hm)) f

theorem State.WaitCounted.notice (h : s.WaitCounted t d) (code : Nat) (fs : List (Nat × Nat)) : s.WaitCounted (t.notice d code fs) d :=
  ⟨h.reports.notice _ _ _, h.regs.notice (by simp [waitRegs]) _ _, (t.fget_notice d code fs _).trans h.aborts⟩

theorem State.WaitCounted.final (h : s.WaitCounted t d) :
    s.WaitCounted (t.count (Csr.dirWaitCnt d) DirWaitCnt.final 1) d ∧
      (t.count (Csr.dirWaitCnt d) DirWaitCnt.final 1).fget (Csr.dirWaitCnt d) DirWaitCnt.final =
        min (t.fget (Csr.dirWaitCnt d) DirWaitCnt.final + 1) (2 ^ DirWaitCnt.final.width - 1) :=
  ⟨⟨h.reports.count _ _ _, h.regs.count (by simp [waitRegs]) _ _, (State.fget_count_disjoint _ _ _ _ _ (by decide)).trans h.aborts⟩,
    State.fget_count_same _ _ _ _ (by decide)⟩

theorem State.WaitCounted.wrote (h : s.WaitCounted t d) : s.EngWrote t d e (s.eng d e) (waitRegs d) := .of_sends h.reports.sends h.regs

/-- The engine's record and registers, and the count, after a wait's end. -/
def State.WaitOver (s t : State) (d : Die) (e : Eng) : Prop :=
  (t.eng d e).running = false ∧ (t.eng d e).wait = .none ∧ (t.eng d e).bufs = [] ∧ (t.eng d e).locks = [] ∧ (t.eng d e).inMsg = none ∧
  (t.eng d e).fences = (s.eng d e).fences ∧ t.engReg = s.engReg ∧
  t.fget (Csr.dirWaitCnt d) DirWaitCnt.aborts =
    min (s.fget (Csr.dirWaitCnt d) DirWaitCnt.aborts + 1) (2 ^ DirWaitCnt.aborts.width - 1)

/-- It rests on the record, the engines' registers and the count. -/
theorem State.EngWrote.waitOver (h : s.EngWrote u d e ((s.eng d e).ended out) as) (hengs : t.engs = u.engs) (hreg : t.engReg = u.engReg)
    (hcnt : t.fget (Csr.dirWaitCnt d) DirWaitCnt.aborts =
      min (s.fget (Csr.dirWaitCnt d) DirWaitCnt.aborts + 1) (2 ^ DirWaitCnt.aborts.width - 1)) : s.WaitOver t d e := by
  have heng : t.eng d e = (s.eng d e).ended out := (State.eng_congr hengs d e).trans h.eng
  unfold State.WaitOver
  rw [heng]
  exact ⟨rfl, rfl, rfl, rfl, rfl, rfl, hreg.trans h.engReg, hcnt⟩

/-- The abort of a wait: the engine is idle, and the task is requeued. -/
theorem State.engAbort_requeues (s : State) (d : Die) (e : Eng) (esc : Nat) :
    ∃ u p, s.EngWrote u d e ((s.eng d e).ended (s.eng d e).out) [] ∧
      s.engAbort d e esc = u.requeue d (s.eng d e).slot (s.eng d e).v1.toNat (s.eng d e).inMsg esc p := by
  have h1 := s.dropReads_wrote (d := d) (e := e) (as := [])
  have h2 := h1.trans (State.dropLocks_wrote _)
  have h3 := h2.trans (State.engIdle_wrote _ false _)
  rw [h2.eng, h1.eng] at h3
  exact ⟨_, s.requeuePrio d (s.eng d e).slot, h3, rfl⟩

section
variable (hclk : s.clockOn d = true) (hrun : (s.eng d e).running = true) (hwait : (s.eng d e).wait ≠ .none)
include hclk hrun hwait

theorem doWaitLimit_aborts (hesc : (s.eng d e).esc < 3) :
    ∃ a, s.WaitCounted a d ∧ doWaitLimit d e s = a.engAbort d e ((s.eng d e).esc + 1) := by
  refine ⟨_, (s.abort_counted d).noticeLim 0x0205 0 (waitFields (s.eng d e) d e), ?_⟩
  unfold doWaitLimit
  dsimp only
  rw [hclk, hrun, bne_iff_ne.2 hwait, if_neg (by decide), if_neg (Nat.not_le.2 hesc), if_neg (Nat.not_le.2 hesc),
    if_neg (Nat.not_le.2 hesc)]
  rfl

theorem doWaitLimit_ends (hesc : 3 ≤ (s.eng d e).esc) :
    ∃ a, s.WaitCounted a d ∧ a.fget (Csr.dirWaitCnt d) DirWaitCnt.final =
        min (s.fget (Csr.dirWaitCnt d) DirWaitCnt.final + 1) (2 ^ DirWaitCnt.final.width - 1) ∧
      doWaitLimit d e s = (a.stopped d e).taskComplete d (s.eng d e).slot := by
  obtain ⟨hcounted, hfinal⟩ := (s.abort_counted d).final
  have hold : (s.count (Csr.dirWaitCnt d) DirWaitCnt.aborts 1).fget (Csr.dirWaitCnt d) DirWaitCnt.final =
      s.fget (Csr.dirWaitCnt d) DirWaitCnt.final := State.fget_count_disjoint _ _ _ _ _ (by decide)
  refine ⟨_, hcounted.notice 0x0205 (waitFields (s.eng d e) d e), (State.fget_notice _ d _ _ _).trans (by rw [hfinal, hold]), ?_⟩
  unfold doWaitLimit
  dsimp only
  rw [hclk, hrun, bne_iff_ne.2 hwait, if_neg (by decide), if_pos hesc, if_pos hesc, if_pos hesc]
  rfl

end

/-- The outcome of an abort below level 3. -/
structure State.Retried (s t : State) (d : Die) (e : Eng) : Prop where
  over_ : s.WaitOver t d e
  state : t.taskState d (s.eng d e).slot =
    if readyCond (s.fbit (Csr.taskW0 d (s.eng d e).slot) TaskW0.mode) (s.taskFlags d (s.eng d e).slot ||| (s.eng d e).v1.toNat)
      (s.fget (Csr.taskW1 d (s.eng d e).slot) TaskW1.mask) then TSt.ready else TSt.idle
  esc : t.fget (Csr.taskW0 d (s.eng d e).slot) TaskW0.esc = (s.eng d e).esc + 1
  flags : t.taskFlags d (s.eng d e).slot = (s.taskFlags d (s.eng d e).slot ||| (s.eng d e).v1.toNat)
  inbox : (t.taskX d (s.eng d e).slot).inbox = (s.eng d e).inMsg.toList ++ (s.taskX d (s.eng d e).slot).inbox

theorem taskW_not_mem_waitRegs (hn : n < 1024) {a : Nat} (ha : a ∈ [Csr.taskW0 d n, Csr.taskW1 d n, Csr.taskW2 d n, Csr.taskW3 d n]) :
    a ∉ waitRegs d := by
  have hd := d.isLt
  simp only [List.mem_cons, List.not_mem_nil, or_false, Csr.taskW0, Csr.taskW1, Csr.taskW2, Csr.taskW3, csrAddr] at ha
  simp only [waitRegs, List.mem_cons, List.not_mem_nil, or_false, Csr.dirWaitCnt, Csr.ndQdropCnt, csrAddr, stw]
  omega

theorem engCtrl_not_mem_waitRegs {i : Nat} (hi : i < 64) : Csr.engCtrl d i ∉ waitRegs d := by
  have hd := d.isLt
  simp only [waitRegs, List.mem_cons, List.not_mem_nil, or_false, Csr.engCtrl, Csr.dirWaitCnt, Csr.ndQdropCnt, csrAddr, stw]
  omega

theorem doWaitLimit_retries (hclk : s.clockOn d = true) (hrun : (s.eng d e).running = true) (hwait : (s.eng d e).wait ≠ .none)
    (hn : (s.eng d e).slot < 1024) (hesc : (s.eng d e).esc < 3) (hvalid : s.taskValid d (s.eng d e).slot = true)
    (hpend : (s.taskX d (s.eng d e).slot).pendInv = false) (hserv : s.servable d (s.eng d e).slot = true) :
    s.Retried (doWaitLimit d e s) d e := by
  obtain ⟨a, hcounted, hstages⟩ := doWaitLimit_aborts hclk hrun hwait hesc
  have hsa := hcounted.wrote (e := e)
  obtain ⟨u, p, hau, habort⟩ := a.engAbort_requeues d e ((s.eng d e).esc + 1)
  rw [hsa.eng] at hau habort
  have hsu := hsa.trans (hau.mono (List.nil_subset _))
  obtain ⟨n, hslot⟩ : ∃ n, n = (s.eng d e).slot := ⟨_, rfl⟩
  rw [← hslot] at habort hn hvalid hpend hserv
  have hget : ∀ r ∈ [Csr.taskW0 d n, Csr.taskW1 d n, Csr.taskW2 d n, Csr.taskW3 d n], ∀ f, u.fget r f = s.fget r f := fun r hr =>
    State.fget_congr (hsu.regs r (taskW_not_mem_waitRegs hn hr))
  have htask : u.taskX d n = s.taskX d n := by unfold State.taskX; rw [hsu.tasks]
  have hbit : ∀ f, u.fbit (Csr.taskW0 d n) f = s.fbit (Csr.taskW0 d n) f := fun f => by unfold State.fbit; rw [hget _ (by simp)]
  have hflags : u.taskFlags d n = s.taskFlags d n := hget _ (by simp) _
  have hserv' : u.servable d n = true :=
    (State.servable_congr (fun i hi => hsu.regs _ (engCtrl_not_mem_waitRegs hi)) (hget _ (by simp) _) (hget _ (by simp) _)).trans hserv
  obtain ⟨hreq, hstate⟩ := u.requeue_writes (v1 := (s.eng d e).v1) (inMsg := (s.eng d e).inMsg) (esc := (s.eng d e).esc + 1) hn
    ((hbit _).trans hvalid) (by rw [htask]; exact hpend) hserv' p
  rw [hstages, habort]
  have hcnt : ∀ f, (u.requeue d n (s.eng d e).v1.toNat (s.eng d e).inMsg ((s.eng d e).esc + 1) p).fget (Csr.dirWaitCnt d) f =
      a.fget (Csr.dirWaitCnt d) f :=
    State.fget_congr ((hreq.regs _ (dieReg_not_mem_taskRegs d n (off := 0x4000030) (by decide))).trans (hau.regs _ List.not_mem_nil))
  rw [hbit, hflags, hget _ (by simp)] at hstate
  refine ⟨hsu.waitOver hreq.engs hreq.engReg ((hcnt _).trans hcounted.aborts), ?_, ?_, ?_, ?_⟩
  · rw [← hslot]; exact hstate
  · rw [← hslot]; exact hreq.esc_eq (by omega)
  · rw [← hslot]; exact hreq.flags.trans (by rw [hflags])
  · rw [← hslot]; exact hreq.inbox.trans (by rw [htask])

theorem doWaitLimit_over (hclk : s.clockOn d = true) (hrun : (s.eng d e).running = true) (hwait : (s.eng d e).wait ≠ .none)
    (hn : (s.eng d e).slot < 1024) (hesc : 3 ≤ (s.eng d e).esc) :
    s.WaitOver (doWaitLimit d e s) d e ∧ (doWaitLimit d e s).taskState d (s.eng d e).slot ≠ TSt.running ∧
      (doWaitLimit d e s).fget (Csr.taskW0 d (s.eng d e).slot) TaskW0.esc = 0 ∧
      (doWaitLimit d e s).fget (Csr.dirWaitCnt d) DirWaitCnt.final =
        min (s.fget (Csr.dirWaitCnt d) DirWaitCnt.final + 1) (2 ^ DirWaitCnt.final.width - 1) := by
  obtain ⟨a, hcounted, hfinal, hstages⟩ := doWaitLimit_ends hclk hrun hwait hesc
  have hsa := hcounted.wrote (e := e)
  have hau := a.stopped_wrote (d := d) (e := e)
  rw [hsa.eng] at hau
  have hsu := (hsa.mono (bs := waitRegs d ++ schedRegs d) (List.subset_append_left _ _)).trans (hau.mono (List.subset_append_right _ _))
  have hended := State.taskComplete_ends hn (a.stopped d e) (d := d)
  rw [← hstages] at hended
  have hcnt : ∀ f, (doWaitLimit d e s).fget (Csr.dirWaitCnt d) f = a.fget (Csr.dirWaitCnt d) f :=
    State.fget_congr ((hended.regs _ (dieReg_not_mem_taskRegs d _ (off := 0x4000030) (by decide))).trans
      (hau.regs _ (dieReg_not_mem_schedRegs d (off := 0x4000030) (by decide))))
  exact ⟨hsu.waitOver hended.engs hended.engReg ((hcnt _).trans hcounted.aborts), hended.ended, hended.esc, (hcnt _).trans hfinal⟩

/-- The readiness condition of R158, as a slot's state after it shows it. -/
theorem readyCond_split {all : Bool} {flags mask st : Nat} (h : st = if readyCond all flags mask then TSt.ready else TSt.idle) :
    let ready : Prop := if all then mask ≠ 0 ∧ flags &&& mask = mask else flags &&& mask ≠ 0
    (ready → st = TSt.ready) ∧ (¬ ready → st = TSt.idle) := by
  have hiff : readyCond all flags mask = true ↔ (if all then mask ≠ 0 ∧ flags &&& mask = mask else flags &&& mask ≠ 0 : Prop) := by
    unfold readyCond
    cases all <;> simp
  exact ⟨fun hr => h.trans (if_pos (hiff.2 hr)), fun hr => h.trans (if_neg (mt hiff.1 hr))⟩

end

/-! ## O17 -/

/-- Settles O17, for each command by the outcome of END, of a fault, of an abort and of a final wait. -/
theorem handlerEndsAndWaitLimits : Obligations.HandlerEndsAndWaitLimits := by
  unfold Obligations.HandlerEndsAndWaitLimits
  constructor
  · intro d e s x over_ faulted hslot
    have hfault : ∀ {t : State} {cause : Nat}, s.EndsByFault t d e cause → over_ t ∧ (t.eng d e).out = Msg.blank ∧ faulted t cause :=
      fun ⟨hidle, hout, hflt⟩ => ⟨hidle, hout, hflt.count, hflt.kept, hflt.recorded⟩
    refine ⟨fun w hop hlow hx => ⟨_, rfl, ?_⟩, fun hcan => ⟨fun hb => ⟨_, rfl, hfault ?_⟩,
      fun hb => ⟨fun w hw hop => ⟨_, rfl, hfault ?_⟩, fun hpc => ⟨_, rfl, hfault ?_⟩, fun hpc hbad => ⟨_, rfl, hfault ?_⟩⟩⟩⟩
    · obtain ⟨hidle, hout, hleak, hflt⟩ := doEngEnd_ends hop hlow hx hslot
      exact ⟨hidle, hout, hleak, fun hin hans => ⟨(hflt hin hans).count, (hflt hin hans).kept, (hflt hin hans).recorded⟩⟩
    · rw [doBudgetFault_eq hcan hb]
      exact State.engFault_over s.engWrote_self (by decide) hslot
    · rw [doEngIllegal_reserved hcan hb hw hop]
      exact State.engFault_over s.engWrote_self (by decide) hslot
    · rw [doEngIllegal_pastEnd hcan hb hpc]
      exact State.engFault_over s.engWrote_self (by decide) hslot
    · rw [doEngIllegal_badWord hcan hb hpc (State.fetched_none hbad)]
      exact State.engFault_over s.badWord_wrote (by decide) hslot
  · intro d e s x n idle hclk hrun hwait hn
    refine ⟨fun hesc hvalid hpend hserv => ?_, fun hesc => ⟨_, rfl, doWaitLimit_over hclk hrun hwait hn hesc⟩⟩
    obtain ⟨hidle, hstate, hlevel, hflags, hinbox⟩ := doWaitLimit_retries hclk hrun hwait hn hesc hvalid hpend hserv
    exact ⟨_, rfl, hidle, readyCond_split hstate, hlevel, hflags, hinbox⟩

end Sys2Proof.Machine

end

section

/-! PROOFS. What one instruction of an engine writes: the records of engines, their registers and their faults (03 R100 to R104,
R123, R145). -/

namespace Sys2Proof.Machine

section
variable {s t u : State} {d : Die} {e : Eng} {x y : Engine}

/-! ## What an instruction leaves alone -/

/-- From `s` to `t` only records and registers of engines changed. -/
def EngOnly (s t : State) : Prop := t = { s with engs := t.engs, engReg := t.engReg }

theorem EngOnly.refl (s : State) : EngOnly s s := rfl

theorem EngOnly.trans (h : EngOnly s t) (h' : EngOnly t u) : EngOnly s u := by
  unfold EngOnly at *
  rw [h', h]

theorem EngOnly.csr (h : EngOnly s t) : t.csr = s.csr := (congrArg State.csr h :)

theorem EngOnly.setEng (h : EngOnly s t) (d e : Nat) (y : Engine) : EngOnly s (t.setEng d e y) := h.trans rfl

theorem EngOnly.engGo (h : EngOnly s t) (d e n pc : Nat) : EngOnly s (t.engGo d e n pc) := h.trans rfl

theorem EngOnly.setRegIn (h : EngOnly s t) (d e win c : Nat) (v : Word) : EngOnly s (t.setRegIn d e win c v) :=
  h.trans (by rw [State.setRegIn_rest]; rfl)

theorem EngOnly.setReg (h : EngOnly s t) (d e c : Nat) (v : Word) : EngOnly s (t.setReg d e c v) := h.setRegIn d e _ c v

theorem EngOnly.setPair (h : EngOnly s t) (d e c : Nat) (v : BitVec 64) : EngOnly s (t.setPair d e c v) := (h.setReg d e c _).setReg d e _ _

theorem EngOnly.setRegs (h : EngOnly s t) (d e c : Nat) (pair : Bool) (v : BitVec 64) : EngOnly s (t.setRegs d e c pair v) := by
  cases pair with
  | false => exact h.setReg d e c _
  | true => exact h.setPair d e c v

/-- From `s` to `t` only records of engines changed. -/
def OnlyRecords (s t : State) : Prop := t = { s with engs := t.engs }

theorem OnlyRecords.refl (s : State) : OnlyRecords s s := rfl

theorem OnlyRecords.trans (h : OnlyRecords s t) (h' : OnlyRecords t u) : OnlyRecords s u := by
  unfold OnlyRecords at *
  rw [h', h]

theorem OnlyRecords.setEng (h : OnlyRecords s t) (d e : Nat) (y : Engine) : OnlyRecords s (t.setEng d e y) := h.trans rfl

theorem OnlyRecords.engGo (h : OnlyRecords s t) (d e n pc : Nat) : OnlyRecords s (t.engGo d e n pc) := h.trans rfl

theorem OnlyRecords.engDone (h : OnlyRecords s t) (d e n : Nat) : OnlyRecords s (t.engDone d e n) := h.engGo d e n _

theorem OnlyRecords.engReg (h : OnlyRecords s t) : t.engReg = s.engReg := (congrArg State.engReg h :)

theorem OnlyRecords.csr (h : OnlyRecords s t) : t.csr = s.csr := (congrArg State.csr h :)

theorem OnlyRecords.scratch (h : OnlyRecords s t) : t.scratch = s.scratch := (congrArg State.scratch h :)

theorem OnlyRecords.engOnly (h : OnlyRecords s t) : EngOnly s t := by
  unfold OnlyRecords at h
  unfold EngOnly
  rw [h]

/-- From `s` to `t` engine (d, e) took the record `y`, and no other engine's record changed. -/
structure State.Runs (s t : State) (d : Die) (e : Eng) (y : Engine) : Prop where
  eng : t.eng d e = y
  others : ∀ (d' : Die) (e' : Eng), (d', e') ≠ (d, e) → t.eng d' e' = s.eng d' e'

theorem State.Runs.of_engs (h : t.engs = s.engs) : s.Runs t d e (s.eng d e) :=
  ⟨State.eng_congr h d e, fun d' e' _ => State.eng_congr h d' e'⟩

theorem State.Runs.trans (h : s.Runs t d e x) (h' : t.Runs u d e y) : s.Runs u d e y :=
  ⟨h'.eng, fun d' e' hne => (h'.others d' e' hne).trans (h.others d' e' hne)⟩

/-- A step that changes no record. -/
theorem State.Runs.keep (h : s.Runs t d e y) (hu : u.engs = t.engs) : s.Runs u d e y :=
  ⟨(State.eng_congr hu d e).trans h.eng, fun d' e' hne => (State.eng_congr hu d' e').trans (h.others d' e' hne)⟩

theorem State.Runs.setEng (h : s.Runs t d e x) (y : Engine) : s.Runs (t.setEng d e y) d e y :=
  h.trans ⟨t.eng_setEng_same d e y, fun _ _ hne => t.eng_setEng_ne y hne⟩

theorem State.Runs.engGo (h : s.Runs t d e y) (n pc : Nat) : s.Runs (t.engGo d e n pc) d e (y.went n pc) := by
  have hgo := h.setEng ((t.eng d e).went n pc)
  rw [h.eng] at hgo
  unfold State.engGo
  rw [h.eng]
  exact hgo

theorem State.Runs.engDone (h : s.Runs t d e y) (n : Nat) : s.Runs (t.engDone d e n) d e (y.went n (y.pc + 1)) := by
  unfold State.engDone
  rw [h.eng]
  exact h.engGo n _

@[simp] theorem State.setPair_engs (s : State) (d e c : Nat) (v : BitVec 64) : (s.setPair d e c v).engs = s.engs := by
  simp [State.setPair]

@[simp] theorem State.setRegs_engs (s : State) (d e c : Nat) (pair : Bool) (v : BitVec 64) : (s.setRegs d e c pair v).engs = s.engs := by
  cases pair <;> simp [State.setRegs]

/-- An instruction that left all but engines alone. -/
theorem EngRan.of (h : s.Runs t d e y) (ho : EngOnly (s.fetchEcc d e) t) : EngRan s t d e y := ⟨h.eng, h.others, ho⟩

theorem State.Runs.fetched (s : State) (d : Die) (e : Eng) : s.Runs (s.fetchEcc d e) d e (s.eng d e) := .of_engs (State.fetchEcc_engs ..)

/-! ## The end of an operation marked S (R123) -/

/-- OST's POISON bit. -/
@[simp] theorem ost_poison (st : Nat) (p idle : Bool) (prio : Nat) : Ost.poison.bit (ost st p idle prio) = p := by
  unfold Fld.bit ost
  rw [Fld.get_put_disjoint _ _ _ _ (by decide), Fld.get_put_disjoint _ _ _ _ (by decide), Fld.get_put_same _ _ _ (by decide)]
  cases p <;> rfl

/-- Without trap POISON. -/
theorem State.engDoneS_calm (s : State) (d e n : Nat) {o : Word}
    (h : Ost.poison.bit o = false ∨ s.fbit (Csr.engCtrl d e) EngCtrl.ptrap = false) :
    s.engDoneS d e n o = (s.setEng d e { s.eng d e with ost := o }).engDone d e n := by
  unfold State.engDoneS
  dsimp only
  rw [if_neg]
  simp only [Bool.and_eq_true, not_and, Bool.not_eq_true]
  intro hp
  rcases h with h | h
  · rw [h] at hp; cases hp
  · exact h

theorem OnlyRecords.engDoneS (h : OnlyRecords s t) (d e n : Nat) {o : Word}
    (hcalm : Ost.poison.bit o = false ∨ t.fbit (Csr.engCtrl d e) EngCtrl.ptrap = false) : OnlyRecords s (t.engDoneS d e n o) := by
  rw [t.engDoneS_calm d e n hcalm]
  exact (h.setEng ..).engDone ..

theorem EngOnly.engDoneS (h : EngOnly s t) (d e n : Nat) {o : Word}
    (hcalm : Ost.poison.bit o = false ∨ t.fbit (Csr.engCtrl d e) EngCtrl.ptrap = false) : EngOnly s (t.engDoneS d e n o) := by
  exact h.trans ((OnlyRecords.refl t).engDoneS d e n hcalm).engOnly

theorem State.Runs.engDoneS (h : s.Runs t d e y) (n : Nat) {o : Word}
    (hcalm : Ost.poison.bit o = false ∨ t.fbit (Csr.engCtrl d e) EngCtrl.ptrap = false) :
    s.Runs (t.engDoneS d e n o) d e { y.went n (y.pc + 1) with ost := o } := by
  rw [t.engDoneS_calm d e n hcalm, h.eng]
  exact (h.setEng _).engDone n

/-! ## Registers and pairs written (R100, R101) -/

theorem State.regIn_congr (h : t.engReg = s.engReg) (d e win c : Nat) : t.regIn d e win c = s.regIn d e win c := by
  unfold State.regIn
  rw [h]

theorem State.reg_congr (h : t.engReg = s.engReg) {d e : Nat} (hcwp : (t.eng d e).cwp = (s.eng d e).cwp) (c : Nat) :
    t.reg d e c = s.reg d e c := by
  unfold State.reg
  rw [hcwp, State.regIn_congr h]

/-- `t` holds what a write of one register leaves. -/
theorem WroteReg.of {d e c : Nat} {v : Word} (hreg : u.engReg = s.engReg) (hcwp : (u.eng d e).cwp = (s.eng d e).cwp)
    (ht : t.engReg = (u.setReg d e c v).engReg) : WroteReg s t d e c v := by
  rw [State.setReg, hcwp] at ht
  refine ⟨?_, fun k hk => ?_⟩
  · rw [State.regIn_congr ht, State.regIn_setRegIn_same]
  · rw [ht, State.setRegIn_others _ _ _ _ _ _ _ hk, hreg]

theorem pairOk_codes {c : Nat} (h : pairOk c = true) : c ≠ 16 ∧ c + 1 ≠ 16 ∧ c + 1 < 24 ∧ (c < 16 ↔ c + 1 < 16) := by
  simp only [pairOk, Bool.and_eq_true, Bool.or_eq_true, beq_iff_eq, decide_eq_true_eq] at h
  omega

theorem regKey_succ_ne {c : Nat} (h : pairOk c = true) (d e win : Nat) : regKey d e win c ≠ regKey d e win (c + 1) := by
  have hc := pairOk_codes h
  unfold regKey
  split <;> split <;> omega

/-- `t` holds what a write of a pair leaves. -/
theorem WrotePair.of {d e c : Nat} {v : BitVec 64} (hc : pairOk c = true) (hreg : u.engReg = s.engReg)
    (hcwp : (u.eng d e).cwp = (s.eng d e).cwp) (ht : t.engReg = (u.setPair d e c v).engReg) : WrotePair s t d e c v := by
  obtain ⟨hlow, hhigh, -⟩ := pairOk_codes hc
  rw [State.setPair, State.setReg, State.setReg, State.eng_setRegIn, hcwp] at ht
  refine ⟨?_, ?_, fun k hk hk' => ?_⟩
  · unfold State.regIn
    rw [ht, State.setRegIn_others _ _ _ _ _ _ _ (.inr (regKey_succ_ne hc d e _))]
    exact (State.regIn_setRegIn_same u d e _ c _).trans (if_neg hlow)
  · rw [State.regIn_congr ht, State.regIn_setRegIn_same, if_neg hhigh]
  · rw [ht, State.setRegIn_others _ _ _ _ _ _ _ (.inr hk'), State.setRegIn_others _ _ _ _ _ _ _ (.inr hk), hreg]

/-- `t` holds what a write of a register or a pair leaves. -/
theorem WroteRegs.of {d e c : Nat} {pair : Bool} {v : BitVec 64} (hc : pair = true → pairOk c = true) (hreg : u.engReg = s.engReg)
    (hcwp : (u.eng d e).cwp = (s.eng d e).cwp) (ht : t.engReg = (u.setRegs d e c pair v).engReg) : WroteRegs s t d e c pair v := by
  cases pair with
  | false => exact WroteReg.of hreg hcwp ht
  | true => exact WrotePair.of (hc rfl) hreg hcwp ht

/-! ## Instructions that fault (R120, R145) -/

/-- The correction of the fetched word writes no record. -/
theorem State.fetchEcc_wrote (s : State) (d : Die) (e : Eng) : s.EngWrote (s.fetchEcc d e) d e (s.eng d e) [Csr.engEccCnt d] :=
  ⟨State.eng_fetchEcc .., fun _ _ _ => State.eng_fetchEcc .., State.fetchEcc_engReg .., State.fetchEcc_tasks .., s.fetchEcc_onlyRegs d e⟩

/-- One instruction of a form that R120 calls illegal. -/
theorem State.engRun_illegal {s : State} {d e n : Nat} {w : Word} {sel : Word → Bool} {legal : State → Word → Bool}
    {cost : State → Word → Nat} {body : State → Word → State} (hx : s.Executing d e w n) (hn : 0 < n)
    (hs : sel w = true) (hl : legal (s.fetchEcc d e) w = false) :
    s.engRun d e sel legal cost body = (s.fetchEcc d e).engFault d e Fc.illegal := by
  obtain ⟨hrun, hw, hb⟩ := hx
  unfold State.engRun
  simp only [hrun, hw, hs, hl, Bool.not_true, Bool.not_false, State.eng_fetchEcc, Bool.false_eq_true, if_false, if_true]
  rw [if_neg (by omega)]

end

end Sys2Proof.Machine

end

section

/-! PROOFS. Arithmetic and logic of the engines (03 R121, R122), and O7. -/

namespace Sys2Proof.Machine

section
variable {s : State} {d : Die} {e : Eng} {w : Word}

/-- A legal register-register operation in budget. -/
theorem State.aluR_writes {op n : Nat} (f : Word → Word → Word) (hn : 0 < n) (hop : Ins.op w = op) (hrd : Ins.rd w < 24)
    (hrs1 : Ins.rs1 w < 24) (hrs2 : Ins.rs2 w < 24) (hfn : Ins.fn w = 0) (hx : s.Executing d e w n) :
    WroteReg s (s.aluR d e op n f) d e (Ins.rd w) (f (s.reg d e (Ins.rs1 w)) (s.reg d e (Ins.rs2 w))) ∧
      EngRan s (s.aluR d e op n f) d e ((s.eng d e).went n ((s.eng d e).pc + 1)) := by
  unfold State.aluR
  rw [State.engRun_body hx hn (by simp [opIs, hop]) (by simp [legalR, regOk, hrd, hrs1, hrs2, hfn]) rfl]
  simpa [State.engDone] using s.setReg_go d e n ((s.eng d e).pc + 1) (Ins.rd w) _

/-- A legal register-immediate operation in budget. -/
theorem State.aluI_writes {op : Nat} {legal : State → Word → Bool} (f : Word → Word → Word) (hop : Ins.op w = op)
    (hlegal : legal (s.fetchEcc d e) w = true) (hx : s.Executing d e w 1) :
    WroteReg s (s.aluI d e op legal f) d e (Ins.rd w) (f (s.reg d e (Ins.rs1 w)) w) ∧
      EngRan s (s.aluI d e op legal f) d e ((s.eng d e).went 1 ((s.eng d e).pc + 1)) := by
  unfold State.aluI
  rw [State.engRun_body hx Nat.one_pos (by simp [opIs, hop]) hlegal rfl]
  simpa [State.engDone] using s.setReg_go d e 1 ((s.eng d e).pc + 1) (Ins.rd w) _

/-- INS, whose result depends on rd too. -/
theorem doEngIns_writes (hop : Ins.op w = 0x12) (hlegal : legalIns (s.fetchEcc d e) w = true) (hx : s.Executing d e w 1) :
    WroteReg s (doEngIns d e s) d e (Ins.rd w) (insOf (s.reg d e (Ins.rd w)) (s.reg d e (Ins.rs1 w)) w) ∧
      EngRan s (doEngIns d e s) d e ((s.eng d e).went 1 ((s.eng d e).pc + 1)) := by
  unfold doEngIns
  rw [State.engRun_body hx Nat.one_pos (by simp [opIs, hop]) hlegal rfl]
  simpa [State.engDone] using s.setReg_go d e 1 ((s.eng d e).pc + 1) (Ins.rd w) _

/-! ## The immediate -/

theorem immS_eq (w : Word) : immS w = (w.extractLsb' 0 16).signExtend 32 := by
  unfold immS
  congr 1

theorem immZ_eq (w : Word) : immZ w = (w.extractLsb' 0 16).setWidth 32 := by
  unfold immZ
  congr 1

theorem immS_toInt (w : Word) : (immS w).toInt = (w.extractLsb' 0 16).toInt := by
  rw [immS_eq, BitVec.toInt_signExtend_of_le (by decide)]

theorem immZ_toNat (w : Word) : (immZ w).toNat = Ins.imm w := by
  simp [immZ, Ins.imm]
  omega

theorem immZ_shift (w : Word) : immZ w <<< 16 = BitVec.ofNat 32 (Ins.imm w * 2 ^ 16) := by
  apply BitVec.eq_of_toNat_eq
  rw [BitVec.toNat_shiftLeft, immZ_toNat, BitVec.toNat_ofNat, Nat.shiftLeft_eq]

/-! ## O7 -/

theorem slt_eq (a b : Word) : (if a.slt b then (1 : Word) else 0) = if a.toInt < b.toInt then 1 else 0 := by
  simp [BitVec.slt]

theorem ult_eq (a b : Word) : (if a.ult b then (1 : Word) else 0) = if a.toNat < b.toNat then 1 else 0 := by
  simp [BitVec.ult]

/-- SHI of kind `k`, whose result is `v`. -/
theorem doEngShi_writes {k : Nat} {v : Word} (hk : k < 3) (hrd : Ins.rd w < 24) (hform : Ins.rs1 w < 24 ∧ Ins.imm w / 32 = k)
    (hop : Ins.op w = 0x0F) (hv : shiOf (s.reg d e (Ins.rs1 w)) w = v) (hx : s.Executing d e w 1) :
    WroteReg s (doEngShi d e s) d e (Ins.rd w) v ∧ EngRan s (doEngShi d e s) d e ((s.eng d e).went 1 ((s.eng d e).pc + 1)) := by
  rw [← hv]
  exact State.aluI_writes shiOf hop (by simp [legalShi, legalI, regOk, hrd, hform, hk]) hx

end

/-- Settles O7: each operation is one of the two forms, with its own result. -/
theorem engineArithmetic : Obligations.EngineArithmetic := by
  unfold Obligations.EngineArithmetic
  constructor
  · intro d e s w hrd hrs1 hrs2 hfn a b
    have run {op n : Nat} (f : Word → Word → Word) (hn : 0 < n) (hop : Ins.op w = op) (hx : s.Executing d e w n) :=
      State.aluR_writes f hn hop hrd hrs1 hrs2 hfn hx
    simp only [List.forall_mem_cons, List.not_mem_nil, false_implies, implies_true, and_true]
    refine ⟨fun hop hx => ⟨_, rfl, run _ (by decide) hop hx⟩, fun hop hx => ⟨_, rfl, run _ (by decide) hop hx⟩,
      fun hop hx => ⟨_, rfl, run _ (by decide) hop hx⟩, fun hop hx => ⟨_, rfl, run _ (by decide) hop hx⟩,
      fun hop hx => ⟨_, rfl, run _ (by decide) hop hx⟩, fun hop hx => ⟨_, rfl, run _ (by decide) hop hx⟩,
      fun hop hx => ⟨_, rfl, run _ (by decide) hop hx⟩, fun hop hx => ⟨_, rfl, run _ (by decide) hop hx⟩,
      fun hop hx => ⟨_, rfl, ?_⟩, fun hop hx => ⟨_, rfl, ?_⟩, fun hop hx => ⟨_, rfl, run _ (by decide) hop hx⟩⟩
    · rw [← slt_eq]
      exact run (fun a b => if a.slt b then 1 else 0) (by decide) hop hx
    · rw [← ult_eq]
      exact run (fun a b => if a.ult b then 1 else 0) (by decide) hop hx
  · intro d e s w hrd a imm n l
    have legal (hrs1 : Ins.rs1 w < 24) : legalI (s.fetchEcc d e) w = true := by simp [legalI, regOk, hrd, hrs1]
    simp only [List.forall_mem_cons, List.not_mem_nil, false_implies, implies_true, and_true]
    refine ⟨fun hop hrs1 hx => ⟨_, rfl, ?_⟩, fun hop hrs1 hx => ⟨_, rfl, ?_⟩, fun hop hrs1 hx => ⟨_, rfl, ?_⟩,
      fun hop hrs1 hx => ⟨_, rfl, ?_⟩, fun hop hform hx => ⟨_, rfl, ?_⟩, fun hop hform hx => ⟨_, rfl, ?_⟩,
      fun hop hform hx => ⟨_, rfl, ?_⟩, fun hop hrs1 hx => ⟨_, rfl, ?_⟩, fun hop hform hx => ⟨_, rfl, ?_⟩,
      fun hop hform hx => ⟨_, rfl, ?_⟩⟩
    · rw [← immS_eq]
      exact State.aluI_writes (fun a w => a + immS w) hop (legal hrs1) hx
    · rw [← immZ_eq]
      exact State.aluI_writes (fun a w => a &&& immZ w) hop (legal hrs1) hx
    · rw [← immZ_eq]
      exact State.aluI_writes (fun a w => a ||| immZ w) hop (legal hrs1) hx
    · rw [← immS_toInt, ← slt_eq]
      exact State.aluI_writes (fun a w => if a.slt (immS w) then 1 else 0) hop (legal hrs1) hx
    · exact doEngShi_writes (by decide) hrd hform hop (by simp [shiOf, hform.2, a, n]) hx
    · exact doEngShi_writes (by decide) hrd hform hop (by simp [shiOf, hform.2, a, n]) hx
    · exact doEngShi_writes (by decide) hrd hform hop (by simp [shiOf, hform.2, a, n]) hx
    · rw [← immZ_shift]
      exact State.aluI_writes (fun _ w => immZ w <<< 16) hop (by simp [legalLui, regOk, hrd, hrs1]) hx
    · exact State.aluI_writes extOf hop (by simp [legalExt, legal hform.1, hform.2]) hx
    · obtain ⟨hrs1, himm, hfit⟩ := hform
      exact doEngIns_writes hop (by simp [legalIns, legal hrs1, himm]; omega) hx

end Sys2Proof.Machine

end

section

/-! PROOFS. CALL, RET and the traps (03 R104, R105, R107, R108), and O8. -/

namespace Sys2Proof.Machine

section
variable {s t : State} {d : Die} {e : Eng} {w : Word}

theorem EngOnly.copyRegs (h : EngOnly s t) (d e wa a wb b n : Nat) : EngOnly s (t.copyRegs d e wa a wb b n) :=
  h.trans (by rw [State.copyRegs_rest]; rfl)

@[simp] theorem State.copyRegs_engs (s : State) (d e wa a wb b n : Nat) : (s.copyRegs d e wa a wb b n).engs = s.engs :=
  (congrArg State.engs (s.copyRegs_rest d e wa a wb b n) :)

theorem regKey_window_ne {d e win c c' : Nat} (hc : c < 16) (hc' : c' < 16) (hne : c ≠ c') : regKey d e win c ≠ regKey d e win c' := by
  unfold regKey
  rw [if_pos hc, if_pos hc']
  omega

/-! ## CALL and RET that move a window (R104) -/

/-- The legal form of CALL, and of RET. -/
def callForm (w : Word) : Prop := Ins.op w = 0x1D ∧ Ins.n w ≤ 4 ∧ w.toNat / 2 ^ 12 % 2 ^ 11 = 0

def retForm (w : Word) : Prop := Ins.op w = 0x1E ∧ Ins.n w ≤ 4 ∧ w.toNat % 2 ^ 23 = 0

theorem doEngCall_eq (h : callForm w) (hdepth : (s.eng d e).depth < 255) (hx : s.Executing d e w 2) :
    doEngCall d e s = (s.fetchEcc d e).callBody d e w := by
  obtain ⟨hop, hn, hresv⟩ := h
  exact State.engRun_body hx (by decide) (by simp [opIs, hop]) (by simp [legalCall, hn, hdepth]; omega) rfl

theorem doEngRet_eq (h : retForm w) (hdepth : 0 < (s.eng d e).depth) (hback : (s.reg d e 15).toNat ≤ 4095) (hx : s.Executing d e w 2) :
    doEngRet d e s = (s.fetchEcc d e).retBody d e w := by
  obtain ⟨hop, hn, hresv⟩ := h
  exact State.engRun_body hx (by decide) (by simp [opIs, hop]) (by simp [legalRet, hn, hdepth, hback]; omega) rfl

theorem doEngCall_writes (h : callForm w) (hdepth : (s.eng d e).depth < 255) (hwres : (s.eng d e).wres < 7) (hx : s.Executing d e w 2) :
    let x := s.eng d e
    let nw := (x.cwp + 1) % 7
    let t := doEngCall d e s
    (∀ i < Ins.n w, t.regIn d e nw i = s.regIn d e x.cwp (12 + i)) ∧ t.regIn d e nw 15 = BitVec.ofNat 32 (x.pc + 1) ∧
      (∀ k, (∀ i < Ins.n w, k ≠ regKey d e nw i) → k ≠ regKey d e nw 15 → SMap.get 0 t.engReg k = SMap.get 0 s.engReg k) ∧
      EngRan s t d e { x.went 2 (w.toNat % 2 ^ 12) with cwp := nw, wres := x.wres + 1, depth := x.depth + 1 } := by
  intro x nw t
  have hn := h.2.1
  obtain ⟨u, hu⟩ : ∃ u, u = (s.fetchEcc d e).copyRegs d e x.cwp 12 nw 0 (Ins.n w) := ⟨_, rfl⟩
  obtain ⟨v, hv⟩ : ∃ v, v = u.setRegIn d e nw 15 (BitVec.ofNat 32 (x.pc + 1)) := ⟨_, rfl⟩
  have ht : t = (v.setEng d e { x with cwp := nw, wres := x.wres + 1, depth := x.depth + 1 }).engGo d e 2 (Ins.target w) := by
    rw [hv, hu, show t = doEngCall d e s from rfl, doEngCall_eq h hdepth hx]
    unfold State.callBody
    simp only [State.eng_fetchEcc]
    exact if_neg (by omega)
  have hreg : t.engReg = v.engReg := by rw [ht]; rfl
  refine ⟨fun i hi => ?_, ?_, fun k hk hk15 => ?_, .of ?_ ?_⟩
  · have hcopy := (s.fetchEcc d e).copyRegs_get d e x.cwp 12 nw 0 (Ins.n w) (by omega) hi
    rw [← hu, Nat.zero_add, State.regIn_fetchEcc] at hcopy
    rw [← hcopy]
    unfold State.regIn
    rw [hreg, hv, State.setRegIn_others _ _ _ _ _ _ _ (.inr (regKey_window_ne (by omega) (by decide) (by omega)))]
  · rw [State.regIn_congr hreg, hv, State.regIn_setRegIn_same, if_neg (by decide)]
  · rw [hreg, hv, State.setRegIn_others _ _ _ _ _ _ _ (.inr hk15), hu,
      State.copyRegs_others _ _ _ _ _ _ _ _ _ (by simpa using hk), State.fetchEcc_engReg]
  · rw [ht]
    exact (((State.Runs.fetched s d e).keep (by rw [hv, hu]; simp)).setEng _).engGo _ _
  · rw [ht, hv, hu]
    exact (((EngOnly.refl _).copyRegs ..).setRegIn ..).trans rfl

theorem doEngRet_writes (h : retForm w) (hdepth : 0 < (s.eng d e).depth) (hwres : 1 < (s.eng d e).wres)
    (hback : (s.reg d e 15).toNat ≤ 4095) (hx : s.Executing d e w 2) :
    let x := s.eng d e
    let pw := (x.cwp + 6) % 7
    let t := doEngRet d e s
    (∀ i < Ins.n w, t.regIn d e pw (12 + i) = s.regIn d e x.cwp i) ∧
      (∀ k, (∀ i < Ins.n w, k ≠ regKey d e pw (12 + i)) → SMap.get 0 t.engReg k = SMap.get 0 s.engReg k) ∧
      EngRan s t d e { x.went 2 (s.reg d e 15).toNat with cwp := pw, wres := x.wres - 1, depth := x.depth - 1 } := by
  intro x pw t
  have hn := h.2.1
  obtain ⟨u, hu⟩ : ∃ u, u = (s.fetchEcc d e).copyRegs d e x.cwp 0 pw 12 (Ins.n w) := ⟨_, rfl⟩
  have ht : t = (u.setEng d e { x with cwp := pw, wres := x.wres - 1, depth := x.depth - 1 }).engGo d e 2 (s.reg d e 15).toNat := by
    rw [hu, show t = doEngRet d e s from rfl, doEngRet_eq h hdepth hback hx]
    unfold State.retBody
    simp only [State.eng_fetchEcc, State.reg_fetchEcc]
    exact if_neg (by omega)
  have hreg : t.engReg = u.engReg := by rw [ht]; rfl
  refine ⟨fun i hi => ?_, fun k hk => ?_, .of ?_ ?_⟩
  · rw [State.regIn_congr hreg, hu, State.copyRegs_get _ _ _ _ _ _ _ _ (by omega) hi, Nat.zero_add, State.regIn_fetchEcc]
  · rw [hreg, hu, State.copyRegs_others _ _ _ _ _ _ _ _ _ hk, State.fetchEcc_engReg]
  · rw [ht]
    exact (((State.Runs.fetched s d e).keep (by rw [hu]; simp)).setEng _).engGo _ _
  · rw [ht, hu]
    exact ((EngOnly.refl _).copyRegs ..).trans rfl

/-! ## Trap entry (R105, R107) -/

@[simp] theorem State.freshWindow_engs (s : State) (d e : Nat) : (s.freshWindow d e).engs = s.engs :=
  (congrArg State.engs (s.freshWindow_rest d e) :)

/-- The record of an engine, outside window 7, that entered trap `v` with window `twin`. -/
def Engine.trapped (x : Engine) (v tpc code twin : Nat) : Engine :=
  { x.went 2 (4 * v) with saved := x.cwp, cwp := 7, tpc := tpc, tcause := BitVec.ofNat 32 (v + code * 256), twin := twin }

/-- A trap that names a window is counted. -/
def State.spillCounted (s : State) (d e : Nat) (spill : Bool) : State :=
  if spill then s.count (Csr.engCnt d e) EngCnt.spills 1 else s

@[simp] theorem State.spillCounted_engs (s : State) (d e : Nat) (b : Bool) : (s.spillCounted d e b).engs = s.engs := by
  cases b with
  | false => rfl
  | true => exact State.count_engs ..

@[simp] theorem State.spillCounted_engReg (s : State) (d e : Nat) (b : Bool) : (s.spillCounted d e b).engReg = s.engReg := by
  cases b with
  | false => rfl
  | true => exact State.count_engReg ..

theorem State.trapEnter_eq (s : State) {d e : Nat} (v tpc code : Nat) (twin : Option Nat) (hcwp : (s.eng d e).cwp ≠ 7)
    (hb : (s.eng d e).run + 2 ≤ (s.eng d e).budget) : s.trapEnter d e v tpc code twin =
      ((s.spillCounted d e twin.isSome).setEng d e ((s.eng d e).trapped v tpc code (twin.getD (s.eng d e).twin))).freshWindow d e := by
  unfold State.trapEnter
  dsimp only
  rw [if_neg (by simpa using hcwp), if_neg (by omega)]
  rfl

/-- From `s` to `t` engine (d, e), outside window 7, entered trap `v`. -/
def State.TrapEntered (s t : State) (d : Die) (e : Eng) (v tpc code twin : Nat) (spill : Bool) : Prop :=
  t.eng d e = (s.eng d e).trapped v tpc code twin ∧
  (∀ k, (∀ i < 16, k ≠ regKey d e 7 i) → SMap.get 0 t.engReg k = SMap.get 0 s.engReg k) ∧
  (∀ (d' : Die) (e' : Eng), (d', e') ≠ (d, e) → t.eng d' e' = s.eng d' e') ∧
  t = { (s.fetchEcc d e).spillCounted d e spill with engs := t.engs, engReg := t.engReg, draws := t.draws }

theorem State.trapEnter_enters (s : State) (d : Die) (e : Eng) (v tpc code : Nat) (twin : Option Nat)
    (hcwp : (s.eng d e).cwp ≠ 7) (hb : (s.eng d e).run + 2 ≤ (s.eng d e).budget) :
    s.TrapEntered ((s.fetchEcc d e).trapEnter d e v tpc code twin) d e v tpc code (twin.getD (s.eng d e).twin) twin.isSome := by
  have ht := (s.fetchEcc d e).trapEnter_eq (d := d) (e := e) v tpc code twin (by rwa [State.eng_fetchEcc]) (by rwa [State.eng_fetchEcc])
  rw [State.eng_fetchEcc] at ht
  obtain ⟨u, hu⟩ : ∃ u, u = (s.fetchEcc d e).spillCounted d e twin.isSome := ⟨_, rfl⟩
  obtain ⟨y, hy⟩ : ∃ y, y = (s.eng d e).trapped v tpc code (twin.getD (s.eng d e).twin) := ⟨_, rfl⟩
  rw [← hu, ← hy] at ht
  have hreg : u.engReg = s.engReg := by rw [hu]; simp
  have hruns : s.Runs ((u.setEng d e y).freshWindow d e) d e y :=
    ((State.Runs.of_engs (by rw [hu]; simp)).setEng y).keep (State.freshWindow_engs _ d e)
  unfold State.TrapEntered
  rw [ht, ← hu, ← hy]
  refine ⟨hruns.eng, fun k hk => ?_, hruns.others, ?_⟩
  · rw [State.freshWindow_others _ _ _ _ hk]
    exact congrArg (SMap.get 0 · k) hreg
  · rw [State.freshWindow_rest]
    rfl

/-! ## Handlers that end in a fault (R104, R108) -/

/-- From `s` to `t` the handler of engine (d, e) ended in the fault `cause`, and its registers stayed. -/
def State.FaultedAt (s t : State) (d : Die) (e : Eng) (cause : Nat) : Prop :=
  (t.eng d e).running = false ∧ t.engReg = s.engReg ∧
  t.fget (Csr.engCnt d e) EngCnt.faults = min (s.fget (Csr.engCnt d e) EngCnt.faults + 1) (2 ^ EngCnt.faults.width - 1) ∧
  (s.fbit (Csr.engFault d e) EngFault.valid = false →
    t.fget (Csr.engFault d e) EngFault.valid = 1 ∧ t.fget (Csr.engFault d e) EngFault.cause = cause ∧
    t.fget (Csr.engFault d e) EngFault.slot = (s.eng d e).slot ∧ t.fget (Csr.engFault d e) EngFault.pc = (s.eng d e).pc)

theorem State.Executing.fault_at {n : Nat} (hx : s.Executing d e w n) (hslot : (s.eng d e).slot < 1024) {cause : Nat} (hcause : cause < 16) :
    s.FaultedAt ((s.fetchEcc d e).engFault d e cause) d e cause := by
  have hpc := s.fetched_pc hx.2.1
  obtain ⟨hidle, -, hflt⟩ := State.engFault_over (s.fetchEcc_wrote d e) hcause hslot
  obtain ⟨hrun, -, -, -, -, -, hreg, -⟩ := hidle
  rw [Nat.min_eq_left (by omega)] at hflt
  exact ⟨hrun, hreg, hflt.count, hflt.recorded⟩

/-- A trap found in window 7 (R108). -/
theorem State.trapEnter_inWindow7 (s : State) {d e : Nat} (h : (s.eng d e).cwp = 7) (v tpc code : Nat) (twin : Option Nat) :
    s.trapEnter d e v tpc code twin = s.engFault d e Fc.doubleSpill := by
  unfold State.trapEnter
  simp [h]

theorem doEngCall_spills (h : callForm w) (hdepth : (s.eng d e).depth < 255) (hwres : (s.eng d e).wres = 7) (hx : s.Executing d e w 2) :
    doEngCall d e s = (s.fetchEcc d e).trapEnter d e 0 (s.eng d e).pc 0 (some (((s.eng d e).cwp + 1) % 7)) := by
  rw [doEngCall_eq h hdepth hx]
  unfold State.callBody
  simp only [State.eng_fetchEcc]
  exact if_pos (by omega)

theorem doEngRet_fills (h : retForm w) (hdepth : 0 < (s.eng d e).depth) (hback : (s.reg d e 15).toNat ≤ 4095)
    (hwres : (s.eng d e).wres = 1) (hx : s.Executing d e w 2) :
    doEngRet d e s = (s.fetchEcc d e).trapEnter d e 1 (s.eng d e).pc 0 (some (((s.eng d e).cwp + 6) % 7)) := by
  rw [doEngRet_eq h hdepth hback hx]
  unfold State.retBody
  simp only [State.eng_fetchEcc]
  exact if_pos (by omega)

theorem doEngTrap_traps (hop : Ins.op w = 0x1F) (hcode : Ins.low26 w < 256) (hx : s.Executing d e w 2) :
    doEngTrap d e s = (s.fetchEcc d e).trapEnter d e 2 ((s.eng d e).pc + 1) (Ins.low26 w) none := by
  have himm : Ins.imm w % 256 = Ins.low26 w := by
    unfold Ins.low26 at hcode
    unfold Ins.imm Ins.low26
    omega
  unfold doEngTrap
  rw [State.engRun_body hx (by decide) (by simp [opIs, hop]) (by simp [legalTrap, hcode]) rfl, State.eng_fetchEcc, himm]

theorem doEngTret_writes (hop : Ins.op w = 0x20) (hlow : Ins.low26 w = 0) (hcwp : (s.eng d e).cwp = 7) (hx : s.Executing d e w 2) :
    (doEngTret d e s).engReg = s.engReg ∧
      EngRan s (doEngTret d e s) d e { (s.eng d e).went 2 (s.eng d e).tpc with cwp := (s.eng d e).saved } := by
  unfold doEngTret
  rw [State.engRun_body hx (by decide) (by simp [opIs, hop]) (by simp [legalTret, hlow, hcwp]) rfl]
  simp only [State.eng_fetchEcc]
  exact ⟨State.fetchEcc_engReg .., .of (((State.Runs.fetched s d e).setEng _).engGo _ _) ((EngOnly.refl _).trans rfl)⟩

theorem doEngCall_illegal (h : callForm w) (hdepth : 255 ≤ (s.eng d e).depth) (hx : s.Executing d e w 2) :
    doEngCall d e s = (s.fetchEcc d e).engFault d e Fc.illegal := by
  obtain ⟨hop, -, -⟩ := h
  exact State.engRun_illegal hx (by decide) (by simp [opIs, hop]) (by simp [legalCall]; omega)

theorem doEngRet_illegal (h : retForm w) (hbad : (s.eng d e).depth = 0 ∨ 4095 < (s.reg d e 15).toNat) (hx : s.Executing d e w 2) :
    doEngRet d e s = (s.fetchEcc d e).engFault d e Fc.illegal := by
  obtain ⟨hop, -, -⟩ := h
  exact State.engRun_illegal hx (by decide) (by simp [opIs, hop]) (by simp [legalRet]; omega)

end

/-! ## O8 -/

/-- Settles O8: a window moved, a trap entered, or a fault, by the depth and the windows that the instruction finds. -/
theorem engineCallsAndTraps : Obligations.EngineCallsAndTraps := by
  unfold Obligations.EngineCallsAndTraps
  constructor
  · intro d e s w x
    exact ⟨fun hop hn hresv hdepth hwres hx => ⟨_, rfl, doEngCall_writes ⟨hop, hn, hresv⟩ hdepth hwres hx⟩,
      fun hop hn hresv hdepth hwres hback hx => ⟨_, rfl, doEngRet_writes ⟨hop, hn, hresv⟩ hdepth hwres hback hx⟩⟩
  · intro d e s w x entered
    have enters (hx : s.Executing d e w 2) (hcwp : x.cwp ≠ 7) (v tpc code : Nat) (twin : Option Nat) :=
      s.trapEnter_enters d e v tpc code twin hcwp hx.2.2
    refine ⟨fun hop hcode hcwp hx => ⟨_, rfl, ?_⟩, fun hop hn hresv hdepth hwres hcwp hx => ⟨_, rfl, ?_⟩,
      fun hop hn hresv hdepth hwres hback hcwp hx => ⟨_, rfl, ?_⟩,
      fun hop hlow hcwp hx => ⟨_, rfl, doEngTret_writes hop hlow hcwp hx⟩, fun hslot hx => ?_⟩
    · rw [doEngTrap_traps hop hcode hx]
      exact enters hx hcwp 2 (x.pc + 1) (Ins.low26 w) none
    · rw [doEngCall_spills ⟨hop, hn, hresv⟩ hdepth hwres hx]
      exact enters hx hcwp 0 x.pc 0 (some ((x.cwp + 1) % 7))
    · rw [doEngRet_fills ⟨hop, hn, hresv⟩ hdepth hback hwres hx]
      exact enters hx hcwp 1 x.pc 0 (some ((x.cwp + 6) % 7))
    · intro call ret back faulted
      have hspill (hcwp : x.cwp = 7) (v tpc code : Nat) (twin : Option Nat) :
          faulted Fc.doubleSpill ((s.fetchEcc d e).trapEnter d e v tpc code twin) := by
        rw [State.trapEnter_inWindow7 _ (by rw [State.eng_fetchEcc]; exact hcwp)]
        exact hx.fault_at hslot (by decide)
      refine ⟨fun hc hdepth => ⟨_, rfl, ?_⟩, fun hr hbad => ⟨_, rfl, ?_⟩, fun hc hdepth hwres hcwp => ⟨_, rfl, ?_⟩,
        fun hr hdepth hback hwres hcwp => ⟨_, rfl, ?_⟩, fun hop hcode hcwp => ⟨_, rfl, ?_⟩⟩
      · rw [doEngCall_illegal hc hdepth hx]
        exact hx.fault_at hslot (by decide)
      · rw [doEngRet_illegal hr hbad hx]
        exact hx.fault_at hslot (by decide)
      · rw [doEngCall_spills hc hdepth hwres hx]
        exact hspill hcwp _ _ _ _
      · rw [doEngRet_fills hr hdepth hback hwres hx]
        exact hspill hcwp _ _ _ _
      · rw [doEngTrap_traps hop hcode hx]
        exact hspill hcwp _ _ _ _

end Sys2Proof.Machine

end

section

/-! PROOFS. Scratch words and their check bits (03 R99, R106, R145), a window saved and restored, and O9. -/

namespace Sys2Proof.Machine

section
variable {s t u : State} {d : Die} {e : Eng} {w : Word}

/-! ## Check bits that a read looks at (R99, R145) -/

/-- From `s` to `t` beside records and registers of engines only check bits and the die's count of their errors changed. -/
structure State.Checks (s t : State) (d : Nat) : Prop where
  regs : OnlyRegs s t [Csr.engEccCnt d]
  frame : t = { s with csr := t.csr, storeBad := t.storeBad, scratchBad := t.scratchBad, engs := t.engs, engReg := t.engReg }

theorem State.Checks.trans {d : Nat} (h : s.Checks t d) (h' : t.Checks u d) : s.Checks u d := by
  refine ⟨h.regs.trans h'.regs, ?_⟩
  rw [h'.frame, h.frame]

theorem EngOnly.checks {d : Nat} (h : EngOnly s t) : s.Checks t d :=
  ⟨.of_csr h.csr _, by unfold EngOnly at h; rw [h]⟩

theorem State.Checks.refl (s : State) (d : Nat) : s.Checks s d := (EngOnly.refl s).checks

theorem State.fetchEcc_checks (s : State) (d e : Nat) : s.Checks (s.fetchEcc d e) d :=
  ⟨s.fetchEcc_onlyRegs d e, by rw [State.fetchEcc_rest]⟩

theorem State.Checks.count {d a : Nat} (h : s.Checks t d) (ha : a ∈ [Csr.engEccCnt d]) (f : Fld) (k : Nat) : s.Checks (t.count a f k) d :=
  ⟨h.regs.count ha f k, by rw [show t.count a f k = { t with csr := (t.count a f k).csr } from rfl, h.frame]⟩

theorem State.Checks.setScratchBad {d : Nat} (h : s.Checks t d) (m : SMap Nat) : s.Checks { t with scratchBad := m } d :=
  h.trans ⟨.of_csr rfl _, rfl⟩

theorem State.Checks.setStoreBad {d : Nat} (h : s.Checks t d) (m : SMap Nat) : s.Checks { t with storeBad := m } d :=
  h.trans ⟨.of_csr rfl _, rfl⟩

theorem State.scratchCheck_checks (s : State) (d e a : Nat) : s.Checks (s.scratchCheck d e a).2 d := by
  unfold State.scratchCheck
  dsimp only
  split
  · exact .refl s d
  · exact ((State.Checks.refl s d).setScratchBad _).count (List.mem_singleton_self _) _ _
  · exact (State.Checks.refl s d).count (List.mem_singleton_self _) _ _

theorem State.storeCheck_checks (s : State) (d e i : Nat) : s.Checks (s.storeCheck d e i).2 d := by
  unfold State.storeCheck
  dsimp only
  split
  · exact .refl s d
  · exact ((State.Checks.refl s d).setStoreBad _).count (List.mem_singleton_self _) _ _
  · exact (State.Checks.refl s d).count (List.mem_singleton_self _) _ _

@[simp] theorem State.scratchCheck_engs (s : State) (d e a : Nat) : (s.scratchCheck d e a).2.engs = s.engs := by
  unfold State.scratchCheck
  dsimp only
  split
  · rfl
  · exact State.count_engs ..
  · exact State.count_engs ..

@[simp] theorem State.scratchCheck_engReg (s : State) (d e a : Nat) : (s.scratchCheck d e a).2.engReg = s.engReg := by
  unfold State.scratchCheck
  dsimp only
  split
  · rfl
  · exact State.count_engReg ..
  · exact State.count_engReg ..

theorem State.Checks.scratch {d : Nat} (h : s.Checks t d) : t.scratch = s.scratch := (congrArg State.scratch h.frame :)

/-! ## Scratch words -/

theorem Memory.readLE_congr {dflt : Byte} {m m' : Memory} {a n : Nat}
    (h : ∀ i < n, Memory.read dflt m (a + i) = Memory.read dflt m' (a + i)) : Memory.readLE dflt m a n = Memory.readLE dflt m' a n := by
  induction n generalizing a with
  | zero => rfl
  | succ n ih =>
    have hhead := h 0 (by omega)
    rw [Nat.add_zero] at hhead
    rw [Memory.readLE, Memory.readLE, hhead, ih fun i hi => by
      have hi' := h (i + 1) (by omega)
      rwa [← Nat.add_assoc, Nat.add_right_comm] at hi']

theorem State.scratchWord_congr (h : t.scratch = s.scratch) (d e a : Nat) : t.scratchWord d e a = s.scratchWord d e a := by
  unfold State.scratchWord
  rw [h]

theorem State.scratchWord_setScratchWord_same (s : State) (d e a : Nat) (v : Word) : (s.setScratchWord d e a v).scratchWord d e a = v := by
  unfold State.scratchWord State.setScratchWord
  dsimp only
  rw [Memory.readLE_writeLE]
  apply BitVec.eq_of_toNat_eq
  have := v.isLt
  simp only [BitVec.toNat_ofNat]
  omega

/-- A scratch word elsewhere is as before. -/
theorem State.scratchWord_setScratchWord_ne (s : State) (d e : Nat) {a b : Nat} (v : Word) (h : a + 4 ≤ b ∨ b + 4 ≤ a) :
    (s.setScratchWord d e b v).scratchWord d e a = s.scratchWord d e a := by
  unfold State.scratchWord State.setScratchWord
  dsimp only
  congr 1
  refine Memory.readLE_congr fun i hi => Memory.read_writeLE_ne _ _ _ _ _ ?_
  unfold scrKey
  omega

theorem scrKey_sub {d e a : Nat} (h : 64 ≤ a) : scrKey d e (a - 64) + 4 * 16 = scrKey d e a := by
  unfold scrKey
  omega

/-- The bytes beside the word are as before. -/
theorem State.scratch_setScratchWord_ne (s : State) (d e b : Nat) (v : Word) {k : Nat} (h : k < scrKey d e b ∨ scrKey d e b + 4 ≤ k) :
    Memory.read 0 (s.setScratchWord d e b v).scratch k = Memory.read 0 s.scratch k := Memory.read_writeLE_ne _ _ _ _ _ h

/-! ## A window saved and restored (R106) -/

/-- From `s` to `t` the first `n` registers of window `win` of engine (d, e) went to the scratch from `a`. -/
structure State.Saved (s t : State) (d e win a n : Nat) : Prop where
  words : ∀ v < n, t.scratchWord d e (a + 4 * v) = s.regIn d e win v
  rest : ∀ k, (k < scrKey d e a ∨ scrKey d e a + 4 * n ≤ k) → Memory.read 0 t.scratch k = Memory.read 0 s.scratch k
  frame : t = { s with scratch := t.scratch, scratchBad := t.scratchBad }

theorem State.saveWords_saved (s : State) (d e win a n : Nat) :
    s.Saved ((List.range n).foldl (fun s v => s.setScratchWord d e (a + 4 * v) (s.regIn d e win v)) s) d e win a n := by
  induction n with
  | zero => exact ⟨fun v hv => absurd hv (Nat.not_lt_zero v), fun _ _ => rfl, rfl⟩
  | succ n ih =>
    rw [List.range_succ, List.foldl_append]
    obtain ⟨u, hu⟩ : ∃ u, u = (List.range n).foldl (fun s v => s.setScratchWord d e (a + 4 * v) (s.regIn d e win v)) s := ⟨_, rfl⟩
    rw [← hu] at ih ⊢
    have hreg : u.regIn d e win n = s.regIn d e win n := State.regIn_congr (congrArg State.engReg ih.frame :) ..
    simp only [List.foldl_cons, List.foldl_nil, hreg]
    refine ⟨fun v hv => ?_, fun k hk => ?_, ?_⟩
    · rcases Nat.lt_succ_iff_lt_or_eq.1 hv with hlt | rfl
      · rw [State.scratchWord_setScratchWord_ne _ _ _ _ (by omega), ih.words v hlt]
      · exact State.scratchWord_setScratchWord_same ..
    · rw [State.scratch_setScratchWord_ne _ _ _ _ _ (by unfold scrKey at hk ⊢; omega), ih.rest k (by omega)]
    · unfold State.setScratchWord
      rw [ih.frame]

/-- From `s` to `t` the first `n` registers of window `win` of engine (d, e) came from the scratch at `a`. -/
structure State.Loaded (s t : State) (d e win a n : Nat) : Prop where
  regs : ∀ v < n, t.regIn d e win v = s.scratchWord d e (a + 4 * v)
  rest : ∀ k, (∀ v < n, k ≠ regKey d e win v) → SMap.get 0 t.engReg k = SMap.get 0 s.engReg k
  engs : t.engs = s.engs
  checks : s.Checks t d

theorem State.loadWords_loaded (s : State) (d e win a : Nat) {n : Nat} (hn : n ≤ 16) :
    s.Loaded ((List.range n).foldl (fun s v =>
      let (_, s) := s.scratchCheck d e (a + 4 * v)
      s.setRegIn d e win v (s.scratchWord d e (a + 4 * v))) s) d e win a n := by
  induction n with
  | zero => exact ⟨fun v hv => absurd hv (Nat.not_lt_zero v), fun _ _ => rfl, rfl, .refl s d⟩
  | succ n ih =>
    specialize ih (by omega)
    rw [List.range_succ, List.foldl_append]
    obtain ⟨u, hu⟩ : ∃ u, u = (List.range n).foldl (fun s v =>
      let (_, s) := s.scratchCheck d e (a + 4 * v)
      s.setRegIn d e win v (s.scratchWord d e (a + 4 * v))) s := ⟨_, rfl⟩
    rw [← hu] at ih ⊢
    have hword : (u.scratchCheck d e (a + 4 * n)).2.scratchWord d e (a + 4 * n) = s.scratchWord d e (a + 4 * n) :=
      State.scratchWord_congr ((u.scratchCheck_checks d e _).scratch.trans ih.checks.scratch) ..
    simp only [List.foldl_cons, List.foldl_nil, hword]
    refine ⟨fun v hv => ?_, fun k hk => ?_, ?_, (ih.checks.trans (u.scratchCheck_checks d e _)).trans ((EngOnly.refl _).setRegIn ..).checks⟩
    · rcases Nat.lt_succ_iff_lt_or_eq.1 hv with hlt | rfl
      · rw [← ih.regs v hlt]
        unfold State.regIn
        rw [State.setRegIn_others _ _ _ _ _ _ _ (.inr (regKey_window_ne (by omega) (by omega) (by omega))), State.scratchCheck_engReg]
      · rw [State.regIn_setRegIn_same, if_neg (by omega)]
    · rw [State.setRegIn_others _ _ _ _ _ _ _ (.inr (hk n (by omega))), State.scratchCheck_engReg, ih.rest k fun v hv => hk v (by omega)]
    · simp [ih.engs]

theorem doEngWsvSave_eq (hop : Ins.op w = 0x22) (hlow : Ins.low26 w = 0) (hcwp : (s.eng d e).cwp = 7) (hx : s.Executing d e w 8) :
    doEngWsvSave d e s = (s.fetchEcc d e).saveBody d e := by
  have himm : Ins.imm w = 0 := by unfold Ins.low26 at hlow; unfold Ins.imm; omega
  exact State.engRun_body hx (by decide) (by simp [wsvIs, opIs, hop, himm]) (by simp [legalWsv, hlow, hcwp]) rfl

theorem doEngWsvRestore_eq (hop : Ins.op w = 0x22) (hlow : Ins.low26 w = 1) (hcwp : (s.eng d e).cwp = 7) (hx : s.Executing d e w 8) :
    doEngWsvRestore d e s = (s.fetchEcc d e).restoreBody d e := by
  have himm : Ins.imm w % 2 = 1 := by unfold Ins.low26 at hlow; unfold Ins.imm; omega
  exact State.engRun_body hx (by decide) (by simp [wsvIs, opIs, hop, himm]) (by simp [legalWsv, hlow, hcwp]) rfl

theorem State.saveBody_writes (s : State) (d : Die) (e : Eng) (hlow : (s.eng d e).spl.toNat + 64 ≤ (s.eng d e).spp.toNat)
    (hhigh : (s.eng d e).spp.toNat ≤ 0x4000) (h1 : 1 ≤ (s.eng d e).wres) (h7 : (s.eng d e).wres ≤ 7) :
    let x := s.eng d e
    let t := (s.fetchEcc d e).saveBody d e
    s.Runs t d e { x.went 8 (x.pc + 1) with spp := x.spp - 64, wres := x.wres - 1 } ∧
      ∃ u, (s.fetchEcc d e).Saved u d e x.twin (x.spp.toNat - 64) 16 ∧ OnlyRecords u t := by
  intro x t
  obtain ⟨u, hu⟩ : ∃ u, u = (s.fetchEcc d e).saveWindow d e x.twin (x.spp.toNat - 64) := ⟨_, rfl⟩
  have hsaved : (s.fetchEcc d e).Saved u d e x.twin (x.spp.toNat - 64) 16 := hu ▸ State.saveWords_saved _ d e x.twin _ 16
  have ht : t = (u.setEng d e { x with spp := x.spp - 64, wres := ((s.eng d e).wres + 7) % 8 }).engDone d e 8 := by
    rw [hu, show t = (s.fetchEcc d e).saveBody d e from rfl]
    unfold State.saveBody
    simp only [State.eng_fetchEcc]
    rw [if_neg (by simp; omega)]
  have hruns : s.Runs t d e ({ x with spp := x.spp - 64, wres := ((s.eng d e).wres + 7) % 8 }.went 8 (x.pc + 1)) := by
    rw [ht]
    exact (((State.Runs.fetched s d e).keep (congrArg State.engs hsaved.frame :)).setEng _).engDone 8
  rw [show ((s.eng d e).wres + 7) % 8 = (s.eng d e).wres - 1 by omega] at hruns
  exact ⟨hruns, u, hsaved, by rw [ht]; exact ((OnlyRecords.refl u).setEng ..).engDone ..⟩

theorem State.restoreBody_writes (s : State) (d : Die) (e : Eng)
    (hlow : (s.eng d e).spp.toNat < s.fget (Csr.engSpill d e) EngSpill.top * 64)
    (hhigh : (s.eng d e).spp.toNat + 64 ≤ 0x4000) (h7 : (s.eng d e).wres < 7) :
    let x := s.eng d e
    let t := (s.fetchEcc d e).restoreBody d e
    s.Runs t d e { x.went 8 (x.pc + 1) with spp := x.spp + 64, wres := x.wres + 1 } ∧
      ∃ u, (s.fetchEcc d e).Loaded u d e x.twin x.spp.toNat 16 ∧ t.engReg = u.engReg ∧ u.Checks t d := by
  intro x t
  have htop : (s.fetchEcc d e).fget (Csr.engSpill d e) EngSpill.top = s.fget (Csr.engSpill d e) EngSpill.top :=
    State.fget_congr (s.fetchEcc_onlyRegs d e _ (by have := e.isLt; simp [Csr.engSpill, Csr.engEccCnt, csrAddr]; omega)) _
  obtain ⟨u, hu⟩ : ∃ u, u = (s.fetchEcc d e).loadWindow d e x.twin x.spp.toNat := ⟨_, rfl⟩
  have hloaded : (s.fetchEcc d e).Loaded u d e x.twin x.spp.toNat 16 := hu ▸ State.loadWords_loaded _ d e x.twin _ (by decide)
  have hkept : s.Runs u d e x := (State.Runs.fetched s d e).keep hloaded.engs
  have ht : t = (u.setEng d e { x with spp := x.spp + 64, wres := ((s.eng d e).wres + 1) % 8 }).engDone d e 8 := by
    rw [show t = (s.fetchEcc d e).restoreBody d e from rfl]
    unfold State.restoreBody
    simp only [State.eng_fetchEcc, htop]
    rw [if_neg (by simp; omega), ← hu, hkept.eng]
  have hruns : s.Runs t d e ({ x with spp := x.spp + 64, wres := ((s.eng d e).wres + 1) % 8 }.went 8 (x.pc + 1)) := by
    rw [ht]
    exact (hkept.setEng _).engDone 8
  rw [show ((s.eng d e).wres + 1) % 8 = (s.eng d e).wres + 1 by omega] at hruns
  refine ⟨hruns, u, hloaded, by rw [ht]; rfl, ?_⟩
  rw [ht]
  exact (((EngOnly.refl u).setEng ..).engGo ..).checks

end

/-! ## O9 -/

/-- Settles O9: the sixteen words in turn, then SPP, WRES and PC. -/
theorem engineWindowSaveRestore : Obligations.EngineWindowSaveRestore := by
  unfold Obligations.EngineWindowSaveRestore
  intro d e s w x a hop hcwp hx
  constructor
  · intro hlow hspl hhigh h1 h7
    obtain ⟨hruns, u, hsaved, honly⟩ := s.saveBody_writes d e hspl hhigh h1 h7
    refine ⟨_, rfl, ?_⟩
    rw [doEngWsvSave_eq hop hlow hcwp hx]
    refine ⟨fun v hv => ?_, fun k hk => ?_, hruns.eng, hruns.others, ?_⟩
    · rw [State.scratchWord_congr honly.scratch, hsaved.words v hv, State.regIn_fetchEcc]
    · rw [honly.scratch, hsaved.rest k ?_, State.fetchEcc_scratch]
      rwa [scrKey_sub ((Nat.le_add_left 64 _).trans hspl)]
    · unfold OnlyRecords at honly
      rw [honly, hsaved.frame]
  · intro hlow htop hhigh h7
    obtain ⟨hruns, u, hloaded, hreg, hchecks⟩ := s.restoreBody_writes d e htop hhigh h7
    have hall := ((s.fetchEcc_checks d e).trans hloaded.checks).trans hchecks
    refine ⟨_, rfl, ?_⟩
    rw [doEngWsvRestore_eq hop hlow hcwp hx]
    refine ⟨fun v hv => ?_, fun k hk => ?_, hruns.eng, hruns.others, hall.regs, hall.frame⟩
    · rw [State.regIn_congr hreg, hloaded.regs v hv, State.scratchWord_congr (State.fetchEcc_scratch ..)]
    · rw [hreg, hloaded.rest k hk, State.fetchEcc_engReg]

end Sys2Proof.Machine

end

section

/-! PROOFS. Branches and the special registers of an engine (03 R104, R120, R121, R123), and O10. -/

namespace Sys2Proof.Machine

section
variable {s t : State} {d : Die} {e : Eng} {w : Word}

/-! ## Branches -/

/-- From `s` to `t` engine (d, e) ran an instruction of `n` cycles that writes no register, and goes on at `pc`. -/
theorem State.goes_on (s : State) (d : Die) (e : Eng) (n pc : Nat) :
    ((s.fetchEcc d e).engGo d e n pc).engReg = s.engReg ∧ EngRan s ((s.fetchEcc d e).engGo d e n pc) d e ((s.eng d e).went n pc) :=
  ⟨State.fetchEcc_engReg .., .of ((State.Runs.fetched s d e).engGo n pc) ((EngOnly.refl _).engGo ..)⟩

theorem State.branch_taken (s : State) (d : Die) (e : Eng) (w : Word) :
    let t := (s.fetchEcc d e).branch d e w true
    t.engReg = s.engReg ∧ EngRan s t d e ((s.eng d e).went 2 (branchTarget (s.eng d e).pc w).toNat) := by
  unfold State.branch
  rw [State.eng_fetchEcc, if_pos rfl]
  exact s.goes_on d e 2 _

theorem State.branch_passed (s : State) (d : Die) (e : Eng) (w : Word) :
    let t := (s.fetchEcc d e).branch d e w false
    t.engReg = s.engReg ∧ EngRan s t d e ((s.eng d e).went 1 ((s.eng d e).pc + 1)) := by
  unfold State.branch State.engDone
  rw [State.eng_fetchEcc, if_neg (by decide)]
  exact s.goes_on d e 1 _

theorem inStore_iff (t : Int) : inStore t = true ↔ 0 ≤ t ∧ t ≤ 4095 := by
  simp [inStore]

/-- The outcome of a branch whose condition is `p`. -/
def State.Branches (s t : State) (d : Die) (e : Eng) (w : Word) (p : Prop) : Prop :=
  (p → s.Executing d e w 2 → t.engReg = s.engReg ∧ EngRan s t d e ((s.eng d e).went 2 (branchTarget (s.eng d e).pc w).toNat)) ∧
  (¬ p → s.Executing d e w 1 → t.engReg = s.engReg ∧ EngRan s t d e ((s.eng d e).went 1 ((s.eng d e).pc + 1)))

/-- An instruction that is a branch on `taken`. -/
theorem State.engRun_branches {sel : Word → Bool} {legal : State → Word → Bool} {taken : State → Word → Bool} {p : Prop}
    (hsel : sel w = true) (hlegal : legal (s.fetchEcc d e) w = true) (htaken : taken (s.fetchEcc d e) w = true ↔ p) :
    s.Branches (s.engRun d e sel legal (fun s w => if taken s w then 2 else 1) (fun s w => s.branch d e w (taken s w))) d e w p := by
  refine ⟨fun hp hx => ?_, fun hp hx => ?_⟩
  · have ht := htaken.2 hp
    rw [State.engRun_body hx (by decide) hsel hlegal (by rw [ht]; rfl), ht]
    exact s.branch_taken d e w
  · have ht : taken (s.fetchEcc d e) w = false := Bool.eq_false_iff.2 (mt htaken.1 hp)
    rw [State.engRun_body hx (by decide) hsel hlegal (by rw [ht]; rfl), ht]
    exact s.branch_passed d e w

theorem State.branchOp_branches {op : Nat} {p : Prop} (hop : Ins.op w = op) (hrd : Ins.rd w < 24) (hrs1 : Ins.rs1 w < 24)
    (htarget : inStore (branchTarget (s.eng d e).pc w) = true)
    (hp : branchCond op (s.reg d e (Ins.rd w)) (s.reg d e (Ins.rs1 w)) = true ↔ p) : s.Branches (s.branchOp d e op) d e w p :=
  State.engRun_branches (by simp [opIs, hop]) (by simp [legalB, regOk, hrd, hrs1, htarget]) (by simpa [State.taken, hop] using hp)

/-- The conditions of the branches (Table 03-7). -/
theorem branchCond_iff (a b : Word) : (branchCond 0x15 a b = true ↔ a = b) ∧ (branchCond 0x16 a b = true ↔ a ≠ b) ∧
    (branchCond 0x17 a b = true ↔ a.toInt < b.toInt) ∧ (branchCond 0x18 a b = true ↔ b.toInt ≤ a.toInt) ∧
    (branchCond 0x19 a b = true ↔ a.toNat < b.toNat) ∧ (branchCond 0x1A a b = true ↔ b.toNat ≤ a.toNat) := by
  simp [branchCond, BitVec.slt, BitVec.ult]

theorem Fld.bit_iff {n : Nat} {f : Fld} (hf : f.width = 1) (w : BitVec n) : f.bit w = true ↔ f.get w = 1 := by
  have := f.get_lt w
  rw [hf] at this
  unfold Fld.bit
  rw [decide_eq_true_eq]
  omega

/-- The conditions of BST (Table 03-7). -/
theorem bstCond_iff (o : Word) : (bstCond 0 o = true ↔ Ost.status.get o = 0) ∧ (bstCond 1 o = true ↔ Ost.status.get o ≠ 0) ∧
    (bstCond 2 o = true ↔ Ost.poison.get o = 1) ∧ (bstCond 3 o = true ↔ Ost.idle.get o = 1) :=
  ⟨beq_iff_eq, decide_eq_true_iff, Fld.bit_iff rfl o, Fld.bit_iff rfl o⟩

theorem doEngBst_branches {c : Nat} {p : Prop} (hop : Ins.op w = 0x1B) (hrd : Ins.rd w = c) (hc : c < 4) (hrs1 : Ins.rs1 w = 0)
    (htarget : inStore (branchTarget (s.eng d e).pc w) = true) (hp : bstCond c (s.eng d e).ost = true ↔ p) :
    s.Branches (doEngBst d e s) d e w p :=
  State.engRun_branches (by simp [opIs, hop]) (by simp [legalBst, hrd, hc, hrs1, htarget]) (by simpa [State.bstTaken, hrd] using hp)

theorem doEngJr_jumps (hop : Ins.op w = 0x1C) (hrd : Ins.rd w = 0) (hrs1 : Ins.rs1 w < 24)
    (htarget : (s.reg d e (Ins.rs1 w) + immS w).toNat ≤ 4095) (hx : s.Executing d e w 2) :
    (doEngJr d e s).engReg = s.engReg ∧
      EngRan s (doEngJr d e s) d e ((s.eng d e).went 2 (s.reg d e (Ins.rs1 w) + immS w).toNat) := by
  unfold doEngJr
  have hjr : (s.fetchEcc d e).jrTarget d e w = (s.reg d e (Ins.rs1 w) + immS w).toNat := by simp [State.jrTarget]
  rw [State.engRun_body hx (by decide) (by simp [opIs, hop]) (by rw [legalJr, hjr, decide_eq_true htarget]; simp [regOk, hrd, hrs1]) rfl, hjr]
  exact s.goes_on d e 2 _

/-! ## Special registers (R123) -/

theorem State.special_fetchEcc (s : State) (d : Die) (e : Eng) (n : Nat) : (s.fetchEcc d e).special d e n = s.special d e n := by
  have hms : (s.fetchEcc d e).msOf d = s.msOf d := State.msOf_congr (State.fetchEcc_ms ..) (State.fetchEcc_refMs ..) d
  have hepoch : (s.fetchEcc d e).engEpoch d e = s.engEpoch d e :=
    State.fget_congr (s.fetchEcc_onlyRegs d e _ (by have := e.isLt; simp [Csr.engCtrl, Csr.engEccCnt, csrAddr]; omega)) _
  unfold State.special
  rw [hms, hepoch, State.eng_fetchEcc]

/-- MFS; a read of MSLO latches MSHI. -/
theorem doEngMfs_writes {n : Nat} (hn : n ≤ 0x0C) (hop : Ins.op w = 0x23) (hrd : Ins.rd w < 24) (hrs1 : Ins.rs1 w = 0)
    (himm : Ins.imm w = n) (hx : s.Executing d e w 1) :
    WroteReg s (doEngMfs d e s) d e (Ins.rd w) (s.special d e n) ∧
      EngRan s (doEngMfs d e s) d e { (s.eng d e).went 1 ((s.eng d e).pc + 1) with
        mshi := if n = 7 then BitVec.ofNat 32 (s.msOf d / 2 ^ 32) else (s.eng d e).mshi } := by
  have hms : (s.fetchEcc d e).msOf d = s.msOf d := State.msOf_congr (State.fetchEcc_ms ..) (State.fetchEcc_refMs ..) d
  unfold doEngMfs
  rw [State.engRun_body hx (by decide) (by simp [opIs, hop]) (by simp [legalMfs, regOk, hrd, hrs1, himm, hn]) rfl]
  dsimp only
  rw [himm, State.special_fetchEcc, State.eng_fetchEcc, hms]
  obtain ⟨y, hy⟩ : ∃ y : Engine, y = { s.eng d e with mshi := if n = 7 then BitVec.ofNat 32 (s.msOf d / 2 ^ 32) else (s.eng d e).mshi } := ⟨_, rfl⟩
  obtain ⟨u, hu⟩ : ∃ u, u = if n == 7 then (s.fetchEcc d e).setEng d e { s.eng d e with mshi := BitVec.ofNat 32 (s.msOf d / 2 ^ 32) }
    else s.fetchEcc d e := ⟨_, rfl⟩
  have hlatch : s.Runs u d e y ∧ OnlyRecords (s.fetchEcc d e) u := by
    by_cases h7 : n = 7
    · rw [hu, hy, if_pos (by simpa using h7), if_pos h7]
      exact ⟨(State.Runs.fetched s d e).setEng _, (OnlyRecords.refl _).setEng ..⟩
    · rw [hu, hy, if_neg (by simpa using h7), if_neg h7]
      exact ⟨State.Runs.fetched s d e, .refl _⟩
  obtain ⟨hruns, honly⟩ := hlatch
  rw [← hu]
  refine ⟨.of (honly.engReg.trans (State.fetchEcc_engReg ..)) (by rw [hruns.eng, hy]) rfl, ?_⟩
  have hwent : { (s.eng d e).went 1 ((s.eng d e).pc + 1) with
      mshi := if n = 7 then BitVec.ofNat 32 (s.msOf d / 2 ^ 32) else (s.eng d e).mshi } = y.went 1 (y.pc + 1) := by rw [hy]; rfl
  rw [hwent]
  exact .of ((hruns.keep (State.setReg_engs ..)).engDone 1) ((honly.engOnly.setReg ..).engGo ..)

/-- RANKS shows the ranks of the locks that are held (Table 03-8). -/
theorem ranksOf_testBit (l : List (Word × Nat)) (r : Nat) : (ranksOf l).testBit r = l.any (fun x => x.2 == r) := by
  have hfold : ∀ b, (l.foldl (fun b (x : Word × Nat) => b ||| 2 ^ x.2) b).testBit r = (b.testBit r || l.any (fun x => x.2 == r)) := by
    induction l with
    | nil => simp
    | cons x l ih =>
      intro b
      rw [List.foldl_cons, ih, Nat.testBit_or, Nat.testBit_two_pow, List.any_cons, Bool.or_assoc]
      rfl
  rw [ranksOf, hfold, Nat.zero_testBit, Bool.false_or]

/-- The record after a move of `v` to special register `n`. -/
def Engine.mts (x : Engine) (v : Word) (n : Nat) : Engine :=
  match n with
  | 2 => { x with spp := v }
  | 3 => { x with spl := v }
  | _ => { x with tpc := v.toNat % 4096 }

theorem doEngMts_writes {n : Nat} (hn : 2 ≤ n ∧ n ≤ 4) (hop : Ins.op w = 0x24) (hrd : Ins.rd w = 0) (hrs1 : Ins.rs1 w < 24)
    (himm : Ins.imm w = n) (hx : s.Executing d e w 1) :
    let y := (s.eng d e).mts (s.reg d e (Ins.rs1 w)) n
    (doEngMts d e s).engReg = s.engReg ∧ EngRan s (doEngMts d e s) d e (y.went 1 (y.pc + 1)) := by
  unfold doEngMts
  rw [State.engRun_body hx (by decide) (by simp [opIs, hop]) (by simp [legalMts, regOk, hrd, hrs1, himm, hn]) rfl]
  dsimp only
  rw [himm, State.eng_fetchEcc, State.reg_fetchEcc]
  exact ⟨State.fetchEcc_engReg .., .of (((State.Runs.fetched s d e).setEng _).engDone 1) (((EngOnly.refl _).setEng ..).engGo ..)⟩

end

/-! ## O10 -/

/-- Settles O10: each branch by its condition, JR by its target, and each special register by its number. -/
theorem engineBranchesAndSpecialRegisters : Obligations.EngineBranchesAndSpecialRegisters := by
  unfold Obligations.EngineBranchesAndSpecialRegisters
  constructor
  · intro d e s w x a b target
    refine ⟨?_, ?_, fun hop hrd hrs1 htarget hx => ⟨_, rfl, ?_⟩⟩
    · have hb {op : Nat} {p : Prop} (hp : branchCond op a b = true ↔ p) (hop : Ins.op w = op) (hrd : Ins.rd w < 24) (hrs1 : Ins.rs1 w < 24)
          (h0 : 0 ≤ target) (h1 : target ≤ 4095) := State.branchOp_branches (s := s) (d := d) (e := e) hop hrd hrs1 ((inStore_iff _).2 ⟨h0, h1⟩) hp
      have both {c : Instr} {t : State} {p : Prop} (hc : exec c s = .next t) (h : s.Branches t d e w p) :
          (p → s.Executing d e w 2 → Completes c s fun t => t.engReg = s.engReg ∧ EngRan s t d e (x.went 2 target.toNat)) ∧
          (¬ p → s.Executing d e w 1 → Completes c s fun t => t.engReg = s.engReg ∧ EngRan s t d e (x.went 1 (x.pc + 1))) :=
        ⟨fun hp hx => ⟨t, hc, h.1 hp hx⟩, fun hp hx => ⟨t, hc, h.2 hp hx⟩⟩
      obtain ⟨heq, hne, hlt, hge, hltu, hgeu⟩ := branchCond_iff a b
      simp only [List.forall_mem_cons, List.not_mem_nil, false_implies, implies_true, and_true]
      exact ⟨fun hop hrd hrs1 h0 h1 => both rfl (hb heq hop hrd hrs1 h0 h1), fun hop hrd hrs1 h0 h1 => both rfl (hb hne hop hrd hrs1 h0 h1),
        fun hop hrd hrs1 h0 h1 => both rfl (hb hlt hop hrd hrs1 h0 h1), fun hop hrd hrs1 h0 h1 => both rfl (hb hge hop hrd hrs1 h0 h1),
        fun hop hrd hrs1 h0 h1 => both rfl (hb hltu hop hrd hrs1 h0 h1), fun hop hrd hrs1 h0 h1 => both rfl (hb hgeu hop hrd hrs1 h0 h1)⟩
    · have both {c : Nat} {p : Prop} (hc : c < 4) (hp : bstCond c x.ost = true ↔ p) (hop : Ins.op w = 0x1B) (hrd : Ins.rd w = c)
          (hrs1 : Ins.rs1 w = 0) (h0 : 0 ≤ target) (h1 : target ≤ 4095) :
          (p → s.Executing d e w 2 → Completes (.engBst d e) s fun t => t.engReg = s.engReg ∧ EngRan s t d e (x.went 2 target.toNat)) ∧
          (¬ p → s.Executing d e w 1 → Completes (.engBst d e) s fun t => t.engReg = s.engReg ∧ EngRan s t d e (x.went 1 (x.pc + 1))) :=
        have h := doEngBst_branches (s := s) hop hrd hc hrs1 ((inStore_iff _).2 ⟨h0, h1⟩) hp
        ⟨fun hp hx => ⟨_, rfl, h.1 hp hx⟩, fun hp hx => ⟨_, rfl, h.2 hp hx⟩⟩
      obtain ⟨hok, hbad, hpoison, hidle⟩ := bstCond_iff x.ost
      simp only [List.forall_mem_cons, List.not_mem_nil, false_implies, implies_true, and_true]
      exact ⟨both (by decide) hok, both (by decide) hbad, both (by decide) hpoison, both (by decide) hidle⟩
    · rw [← immS_eq] at htarget ⊢
      exact doEngJr_jumps hop hrd hrs1 htarget hx
  · intro d e s w x ranks
    refine ⟨?_, fun hop hrd hg0 hrs1 himm hx => ⟨_, rfl, ?_⟩, ?_⟩
    · have reads {n : Nat} (hn : n ≤ 0x0C) (hop : Ins.op w = 0x23) (hrd : Ins.rd w < 24) (hrs1 : Ins.rs1 w = 0) (himm : Ins.imm w = n)
          (hx : s.Executing d e w 1) : Completes (.engMfs d e) s fun t => WroteReg s t d e (Ins.rd w) (s.special d e n) ∧
            EngRan s t d e { x.went 1 (x.pc + 1) with mshi := if n = 7 then BitVec.ofNat 32 (s.msOf d / 2 ^ 32) else x.mshi } :=
        ⟨_, rfl, doEngMfs_writes hn hop hrd hrs1 himm hx⟩
      simp only [List.forall_mem_cons, List.not_mem_nil, false_implies, implies_true, and_true]
      exact ⟨reads (by decide), reads (by decide), reads (by decide), reads (by decide), reads (by decide), reads (by decide),
        reads (by decide), reads (by decide), reads (by decide), reads (by decide), reads (by decide), reads (by decide)⟩
    · obtain ⟨hwrote, hran⟩ := doEngMfs_writes (by decide) hop hrd hrs1 himm hx
      have hcwp : ((doEngMfs d e s).eng d e).cwp = x.cwp := by rw [hran.1]; rfl
      refine ⟨fun r hr => ?_, fun k hk => hwrote.2 k (.inr hk), hran⟩
      unfold State.reg
      rw [hcwp, hwrote.1, if_neg hg0]
      simp only [State.special, BitVec.getLsbD_ofNat, ranksOf_testBit, ranks]
      simp [show r < 32 by omega, x]
    · simp only [List.forall_mem_cons, List.not_mem_nil, false_implies, implies_true, and_true]
      exact ⟨fun hop hrd hrs1 himm hx => ⟨_, rfl, doEngMts_writes (by decide) hop hrd hrs1 himm hx⟩,
        fun hop hrd hrs1 himm hx => ⟨_, rfl, doEngMts_writes (by decide) hop hrd hrs1 himm hx⟩,
        fun hop hrd hrs1 himm hx => ⟨_, rfl, doEngMts_writes (by decide) hop hrd hrs1 himm hx⟩⟩

end Sys2Proof.Machine

end

section

/-! PROOFS. What an instruction of an engine finds as it was before its word was corrected, and the accesses it sends: to a bank of
its die, and by message to a unit of another die (03 R114, R115, R133, R136). -/

namespace Sys2Proof.Machine

section
variable {s t : State} {d : Die} {e : Eng}

/-! ## What rests on no check bit -/

/-- A register that is not the die's count of corrected words. -/
theorem engEccCnt_ne {d d' : Nat} {off : Nat} (hoff : off < 0x10000000) (h : off ≠ 0x5010018) : csrAddr d' off ≠ Csr.engEccCnt d := by
  simp only [Csr.engEccCnt, csrAddr]
  omega

theorem State.Checks.csrGet (h : s.Checks t d) {a : Nat} (ha : a ≠ Csr.engEccCnt d) : t.csrGet a = s.csrGet a := h.regs a (by simpa using ha)

theorem State.Checks.part (h : s.Checks t d) : t.part = s.part := (congrArg State.part h.frame :)
theorem State.Checks.ms (h : s.Checks t d) : t.ms = s.ms := (congrArg State.ms h.frame :)
theorem State.Checks.refMs (h : s.Checks t d) : t.refMs = s.refMs := (congrArg State.refMs h.frame :)
theorem State.Checks.pllLost (h : s.Checks t d) : t.pllLost = s.pllLost := (congrArg State.pllLost h.frame :)
theorem State.Checks.held (h : s.Checks t d) : t.held = s.held := (congrArg State.held h.frame :)
theorem State.Checks.xin (h : s.Checks t d) : t.xin = s.xin := (congrArg State.xin h.frame :)
theorem State.Checks.xsrc (h : s.Checks t d) : t.xsrc = s.xsrc := (congrArg State.xsrc h.frame :)
theorem State.Checks.xout (h : s.Checks t d) : t.xout = s.xout := (congrArg State.xout h.frame :)
theorem State.Checks.bankQ (h : s.Checks t d) : t.bankQ = s.bankQ := (congrArg State.bankQ h.frame :)
theorem State.Checks.locks (h : s.Checks t d) : t.locks = s.locks := (congrArg State.locks h.frame :)
theorem State.Checks.claims (h : s.Checks t d) : t.claims = s.claims := (congrArg State.claims h.frame :)

theorem State.Checks.populated (h : s.Checks t d) (d' : Nat) : t.populated d' = s.populated d' := by
  unfold State.populated
  rw [h.part]

theorem State.Checks.unitAt (h : s.Checks t d) (a : Nat) : t.unitAt a = s.unitAt a := by
  unfold State.unitAt
  simp only [h.populated]

/-- A register of the steward's block. -/
theorem engEccCnt_ne_stw (d : Die) (off : Nat) : csrAddr stw off ≠ Csr.engEccCnt d := by
  have := d.isLt
  simp only [Csr.engEccCnt, csrAddr, stw]
  omega

theorem State.Checks.dieOn (h : s.Checks t d) (d' : Nat) : t.dieOn d' = s.dieOn d' :=
  State.dieOn_congr d' h.part (h.csrGet (engEccCnt_ne_stw d 0x7000000))

theorem State.Checks.clockOn (h : s.Checks t d) (d' : Nat) : t.clockOn d' = s.clockOn d' := by
  unfold State.clockOn
  rw [h.dieOn, h.pllLost]

theorem State.Checks.fbit (h : s.Checks t d) {a : Nat} (ha : a ≠ Csr.engEccCnt d) (f : Fld) : t.fbit a f = s.fbit a f := by
  unfold State.fbit
  rw [State.fget_congr (h.csrGet ha)]

theorem State.Checks.sluiceOpen (h : s.Checks t d) (d' : Nat) : t.sluiceOpen d' = s.sluiceOpen d' := by
  unfold State.sluiceOpen
  have ha : Csr.sluSts d' ≠ Csr.engEccCnt d := engEccCnt_ne (off := 0x2200000) (by decide) (by decide)
  rw [h.clockOn, h.fbit ha]

theorem State.Checks.borderOpen (h : s.Checks t d) (d' r : Nat) : t.borderOpen d' r = s.borderOpen d' r := by
  unfold State.borderOpen State.isolated State.gated State.inReset
  have hreach : Csr.cfgReachSts d' ≠ Csr.engEccCnt d := engEccCnt_ne (off := 0x9000004) (by decide) (by decide)
  have hgate : Csr.pwrGate d' ≠ Csr.engEccCnt d := engEccCnt_ne_stw d _
  rw [h.dieOn, h.held, State.fget_congr (h.csrGet hreach), State.fget_congr (h.csrGet hgate)]

theorem engCtrl_ne_engEccCnt (d : Nat) (e : Eng) : Csr.engCtrl d e ≠ Csr.engEccCnt d := by
  have := e.isLt
  exact engEccCnt_ne (off := 0x5000000 + 0x40 * e.val) (by omega) (by omega)

theorem State.Checks.ptrap (h : s.Checks t d) : t.fbit (Csr.engCtrl d e) EngCtrl.ptrap = s.fbit (Csr.engCtrl d e) EngCtrl.ptrap :=
  h.fbit (engCtrl_ne_engEccCnt d e) _

theorem State.Checks.msOf (h : s.Checks t d) (d' : Nat) : t.msOf d' = s.msOf d' := State.msOf_congr h.ms h.refMs d'

theorem State.Checks.flying (h : s.Checks t d) (d' e' : Nat) : t.flying d' e' = s.flying d' e' := by
  unfold State.flying
  rw [h.xsrc, h.xin, h.xout]

theorem State.Checks.bankWaits (h : s.Checks t d) (d' e' : Nat) : t.bankWaits d' e' = s.bankWaits d' e' := by
  unfold State.bankWaits
  rw [h.bankQ]

theorem State.accessAddr_fetchEcc (s : State) (d e : Nat) (w : Word) : (s.fetchEcc d e).accessAddr d e w = s.accessAddr d e w := by
  unfold State.accessAddr
  rw [State.reg_fetchEcc]

/-! ## A bank of the own die (R133) -/

theorem SMap.get_set_other {α : Type} [DecidableEq α] (dflt : α) (m : SMap α) (k : Nat) (v : α) : ∀ j ≠ k, SMap.get dflt (SMap.set dflt m k v) j = SMap.get dflt m j :=
  fun _ hj => SMap.get_set_ne dflt dflt m v hj

/-- The request joined the engine network, after which only records of engines changed. -/
theorem State.askBank_asked {b word : Nat} {half : Option Bool} {op : BankOp} {y : Engine}
    (hruns : s.Runs t d e y) (ht : OnlyRecords ((s.fetchEcc d e).askBank d e b word half op) t) : AskedBank s t d e b word half op := by
  have hq : t.bankQ = ((s.fetchEcc d e).askBank d e b word half op).bankQ := (congrArg State.bankQ ht :)
  refine ⟨?_, fun k hk => ?_, hruns.others, ?_⟩
  · rw [hq]
    unfold State.askBank
    dsimp only
    rw [SMap.get_set_same, State.fetchEcc_bankQ, State.fetchEcc_serial]
  · rw [hq]
    unfold State.askBank
    dsimp only
    rw [SMap.get_set_other _ _ _ _ _ hk, State.fetchEcc_bankQ]
  · unfold OnlyRecords at ht
    rw [ht]
    unfold State.askBank
    dsimp only
    rw [State.fetchEcc_serial]

/-! ## A unit of another die, by message (R114, R115, R125) -/

/-- The tag is one that no buffer holds. -/
theorem pickTag_fresh {bufs : List RspBuf} (h : bufs.length < 8) (free : Nat) :
    pickTag bufs free < 2 ^ 16 ∧ ∀ b ∈ bufs, b.xtag ≠ pickTag bufs free := by
  have hnodup : ((List.range 8).map fun i => (free + i) % 65536).Nodup := by
    refine List.Nodup.map_on (fun i hi j hj hij => ?_) List.nodup_range
    have := List.mem_range.1 hi
    have := List.mem_range.1 hj
    omega
  obtain ⟨x, hx⟩ : ∃ x, ((List.range 8).map fun i => (free + i) % 65536).find? (fun t => !bufs.any (·.xtag == t)) = some x := by
    rw [← Option.isSome_iff_exists, List.find?_isSome]
    by_contra hall
    have hsub : ((List.range 8).map fun i => (free + i) % 65536) ⊆ bufs.map (·.xtag) := fun x hx => by
      by_contra hn
      refine hall ⟨x, hx, ?_⟩
      simpa using fun b hb hbx => hn (List.mem_map.2 ⟨b, hb, hbx⟩)
    have hlen := (hnodup.subperm hsub).length_le
    rw [List.length_map, List.length_map, List.length_range] at hlen
    omega
  have hpick : pickTag bufs free = x := by unfold pickTag; rw [hx]; rfl
  obtain ⟨i, -, hi⟩ := List.mem_map.1 (List.mem_of_find?_eq_some hx)
  rw [hpick]
  refine ⟨by omega, fun b hb hbx => ?_⟩
  have hfree := List.find?_some hx
  simp only [Bool.not_eq_true', List.any_eq_false, beq_iff_eq] at hfree
  exact hfree b hb hbx

/-- The buffer that an access by message reserves. -/
def unitBuf (tag : Nat) : RspBuf := { unit := true, xtag := tag, rsp := none, claimed := false, dir := false }

theorem Msg.w_vc (m : Msg) (v : Nat) : (m.w Hd.xtag v).g Hd.vc = m.g Hd.vc := Msg.g_w_apart m _ _ v (by decide)

/-- A message that fits joins its crossbar input. -/
theorem State.inject_fits {s u : State} {m : Msg} {d e : Nat} (hin : u.xin = s.xin) (hsrc : u.xsrc = s.xsrc) (hserial : u.serial = s.serial)
    (h : s.fitsIn d e m = true) (die ep : Nat) :
    u.inject d e m die ep = { u with
      serial := s.serial + 1
      xin := SMap.set [] s.xin (xkey d e (m.g Hd.vc)) (SMap.get [] s.xin (xkey d e (m.g Hd.vc)) ++ [⟨s.serial, m, die, ep⟩]) } := by
  have hfits : State.fitsIn { u with serial := u.serial + 1 } d e m = true := (State.fitsIn_congr hsrc hin rfl rfl _ _).trans h
  rw [← hin, ← hserial]
  exact State.injectX_fits (x := ⟨u.serial, m, die, ep⟩) hfits

/-- An access that can be sent is, under a fresh tag. -/
theorem State.CanAsk.sends {m : Msg} {die : Nat} (h : s.CanAsk d e m die) :
    ∃ tag u, (s.fetchEcc d e).accSend d e m die = some (tag, u) ∧ tag < 2 ^ 16 ∧ (∀ b ∈ (s.eng d e).bufs, b.xtag ≠ tag) ∧
      s.Runs u d e { s.eng d e with bufs := (s.eng d e).bufs ++ [unitBuf tag] } ∧
      (let k := xkey d (13 + e / 8) (m.g Hd.vc)
       SMap.get [] u.xin k = SMap.get [] s.xin k ++ [⟨s.serial, m.w Hd.xtag tag, die, 21⟩] ∧
       (∀ j ≠ k, SMap.get [] u.xin j = SMap.get [] s.xin j)) ∧
      u = { s.fetchEcc d e with draws := s.draws + 1, serial := s.serial + 1, xin := u.xin, engs := u.engs } := by
  obtain ⟨hsluice, hbufs, hfits, hother⟩ := h
  have hc := s.fetchEcc_checks d e
  obtain ⟨tag, htag⟩ : ∃ tag, tag = pickTag (s.eng d e).bufs (Config.freeWord s.draws).toNat := ⟨_, rfl⟩
  obtain ⟨hlt, hfresh⟩ := pickTag_fresh (bufs := (s.eng d e).bufs) (by omega) (Config.freeWord s.draws).toNat
  rw [← htag] at hlt hfresh
  obtain ⟨v, hv⟩ : ∃ v : State, v = { s.fetchEcc d e with draws := s.draws + 1 } := ⟨_, rfl⟩
  obtain ⟨y, hy⟩ : ∃ y, y = reserve (s.eng d e) tag true false none := ⟨_, rfl⟩
  obtain ⟨u, hu⟩ : ∃ u, u = (v.setEng d e y).inject d (13 + e / 8) (m.w Hd.xtag tag) die 21 := ⟨_, rfl⟩
  have hsend : (s.fetchEcc d e).accSend d e m die = some (tag, u) := by
    have hbusy : ((s.flying d e).any fun y => y.msg.unitAcc && y.die == die && decide (y.msg.g Hd.vc ≠ m.g Hd.vc)) = false := by
      simp only [List.any_eq_false, Bool.and_eq_true, decide_eq_true_eq, beq_iff_eq, not_and, not_not, and_imp]
      exact hother
    have hfits' : (s.fetchEcc d e).fitsIn d (engEndpoint e) m = true := (State.fitsIn_congr hc.xsrc hc.xin rfl rfl _ _).trans hfits
    unfold State.accSend
    dsimp only [State.draw]
    rw [State.eng_fetchEcc, hc.flying, hbusy, hc.sluiceOpen, hsluice, hfits', State.fetchEcc_draws]
    simp only [Bool.not_true, Bool.or_false, decide_eq_true_eq]
    rw [if_neg (by omega), hu, hy, htag, hv]
    rfl
  have hv' : v.xin = s.xin ∧ v.xsrc = s.xsrc ∧ v.serial = s.serial := by
    rw [hv]
    exact ⟨hc.xin, hc.xsrc, State.fetchEcc_serial ..⟩
  obtain ⟨hxin, hxsrc, hserial⟩ := hv'
  have hinject := State.inject_fits (u := v.setEng d e y) hxin hxsrc hserial
    ((State.fitsIn_congr rfl rfl (Msg.w_vc m tag) (Msg.w_beats ..) _ _).trans hfits) die 21
  rw [← hu, Msg.w_vc] at hinject
  refine ⟨tag, u, hsend, hlt, hfresh, ?_, ⟨?_, fun j hj => ?_⟩, ?_⟩
  · have hruns : s.Runs (v.setEng d e y) d e y := ((State.Runs.fetched s d e).keep (by rw [hv])).setEng y
    rw [hy] at hruns
    rw [hy] at hinject
    exact hruns.keep (congrArg State.engs hinject :)
  · rw [hinject]
    exact SMap.get_set_same ..
  · rw [hinject]
    exact SMap.get_set_other _ _ _ _ j hj
  · rw [hinject, hv]
    rfl

/-- An access that was sent, after which only records of engines changed. -/
theorem State.CanAsk.sent {m : Msg} {die : Nat} (h : s.CanAsk d e m die) :
    ∃ tag u, (s.fetchEcc d e).accSend d e m die = some (tag, u) ∧
      s.Runs u d e { s.eng d e with bufs := (s.eng d e).bufs ++ [unitBuf tag] } ∧
      ∀ t y, s.Runs t d e y → y.bufs = (s.eng d e).bufs ++ [unitBuf tag] → OnlyRecords u t → SentAccess s t d e m die tag := by
  obtain ⟨tag, u, hsend, hlt, hfresh, hruns, ⟨hlast, hrest⟩, hframe⟩ := h.sends
  refine ⟨tag, u, hsend, hruns, fun t y ht hbufs honly => ?_⟩
  have hxin : t.xin = u.xin := (congrArg State.xin honly :)
  refine ⟨hlt, hfresh, by rw [ht.eng]; exact hbufs, ht.others, by rw [hxin]; exact hlast, fun j hj => by rw [hxin]; exact hrest j hj, ?_⟩
  unfold OnlyRecords at honly
  rw [honly, hframe]

end

end Sys2Proof.Machine

end

section

/-! PROOFS. LD from the units of an engine's address space (03 R113, R114, R116, R133, R134, R142), and O11. -/

namespace Sys2Proof.Machine

section
variable {s t : State} {d : Die} {e : Eng} {w : Word}

/-! ## Addresses (Table 03-4) -/

theorem State.unitAt_scratch {a : Nat} (h : a < 0x4000) : s.unitAt a = .scratch a := if_pos h

theorem State.unitAt_store {a : Nat} (h : 0x4000 ≤ a) (h' : a < 0x8000) : s.unitAt a = .store ((a - 0x4000) / 4) := by
  unfold State.unitAt
  rw [if_neg (by omega), if_pos h']

/-- Above the handler store. -/
theorem State.unitAt_high {a : Nat} (h : 0x8000 ≤ a) : s.unitAt a =
    if 0x10000 ≤ a ∧ a < 0x10240 then .winIn (a - 0x10000)
    else if 0x10400 ≤ a ∧ a < 0x10640 then .winOut (a - 0x10400)
    else if 0x10800 ≤ a ∧ a < 0x10A40 then .winRsp (a - 0x10800)
    else if a = 0x11000 then .portPush
    else if a = 0x11004 then .portPop
    else if a = 0x11008 then .portSts
    else if 0x10000000 ≤ a ∧ a < 0x14000000 then
      if s.populated (a / 2 ^ 23 % 8) && (a / 2 ^ 17 % 64 < 48 : Bool) then .bank (a / 2 ^ 23 % 8) (a / 2 ^ 17 % 64) (a % 2 ^ 17) else .none
    else if 0x20000000 ≤ a ∧ a < 0x20780000 then .flash (a - 0x20000000)
    else .none := by
  unfold State.unitAt
  rw [if_neg (by omega), if_neg (by omega)]
  simp only [Bool.and_eq_true, decide_eq_true_eq, beq_iff_eq]

theorem State.unitAt_winIn {a : Nat} (h : 0x10000 ≤ a) (h' : a < 0x10240) : s.unitAt a = .winIn (a - 0x10000) := by
  rw [State.unitAt_high (by omega), if_pos ⟨h, h'⟩]

theorem State.unitAt_winOut {a : Nat} (h : 0x10400 ≤ a) (h' : a < 0x10640) : s.unitAt a = .winOut (a - 0x10400) := by
  rw [State.unitAt_high (by omega), if_neg (by omega), if_pos ⟨h, h'⟩]

theorem State.unitAt_winRsp {a : Nat} (h : 0x10800 ≤ a) (h' : a < 0x10A40) : s.unitAt a = .winRsp (a - 0x10800) := by
  rw [State.unitAt_high (by omega), if_neg (by omega), if_neg (by omega), if_pos ⟨h, h'⟩]

theorem State.unitAt_portPush : s.unitAt 0x11000 = .portPush := by
  rw [State.unitAt_high (by omega)]
  rfl

theorem State.unitAt_portPop : s.unitAt 0x11004 = .portPop := by
  rw [State.unitAt_high (by omega)]
  rfl

theorem State.unitAt_portSts : s.unitAt 0x11008 = .portSts := by
  rw [State.unitAt_high (by omega)]
  rfl

theorem State.unitAt_bank {a : Nat} (h : 0x10000000 ≤ a) (h' : a < 0x14000000) (hpop : s.populated (a / 2 ^ 23 % 8) = true)
    (hbank : a / 2 ^ 17 % 64 < 48) : s.unitAt a = .bank (a / 2 ^ 23 % 8) (a / 2 ^ 17 % 64) (a % 2 ^ 17) := by
  rw [State.unitAt_high (by omega), if_neg (by omega), if_neg (by omega), if_neg (by omega), if_neg (by omega), if_neg (by omega),
    if_neg (by omega), if_pos ⟨h, h'⟩, hpop, decide_eq_true hbank]
  rfl

theorem State.unitAt_flash {a : Nat} (h : 0x20000000 ≤ a) (h' : a < 0x20780000) : s.unitAt a = .flash (a - 0x20000000) := by
  rw [State.unitAt_high (by omega), if_neg (by omega), if_neg (by omega), if_neg (by omega), if_neg (by omega), if_neg (by omega),
    if_neg (by omega), if_neg (by omega), if_pos ⟨h, h'⟩]

/-! ## Operands -/

theorem memOperands_pair (h : memOperands w) (hp : isPair w = true) : pairOk (Ins.rd w) = true := by
  obtain ⟨-, hrd, -⟩ := h
  rwa [if_pos (by simpa [isPair] using hp)] at hrd

theorem legalM_of_operands (h : memOperands w) : legalM s w = true := by
  obtain ⟨hsz, hrd, hrs1⟩ := h
  by_cases hp : Ins.sz w = 1
  · rw [if_pos hp] at hrd
    simp [legalM, regOk, hp, hrd, hrs1]
  · rw [if_neg hp] at hrd
    simp [legalM, regOk, hp, hrd, hrs1, hsz]

theorem State.ldCost_fetchEcc (s : State) (d : Die) (e : Eng) (w : Word) : (s.fetchEcc d e).ldCost d e w = s.ldCost d e w := by
  unfold State.ldCost
  rw [State.accessAddr_fetchEcc, (s.fetchEcc_checks d e).unitAt]

theorem State.loadable_fetchEcc (s : State) (d : Die) (e : Eng) (a : Nat) (pair : Bool) : (s.fetchEcc d e).loadable a pair = s.loadable a pair := by
  unfold State.loadable
  rw [(s.fetchEcc_checks d e).unitAt]

theorem doEngLd_eq {n : Nat} (hop : Ins.op w = 0x13) (hmem : memOperands w) (hx : s.Executing d e w n) (hn : 0 < n)
    (hcost : s.ldCost d e w = n) : doEngLd d e s = (s.fetchEcc d e).ldBody d e w :=
  State.engRun_body hx hn (by simp [opIs, hop]) (legalM_of_operands hmem) ((s.ldCost_fetchEcc d e w).trans hcost)

/-! ## Loads that do not wait -/

/-- The units that a load reads at once. -/
def Unit_.now : Unit_ → Bool
  | .scratch _ | .store _ | .winIn _ | .winOut _ | .winRsp _ | .portSts => true
  | .portPush | .portPop | .bank _ _ _ | .flash _ | .none => false

theorem State.ldBody_now {u : Unit_} (hunit : s.unitAt (s.accessAddr d e w) = u) (hu : u.now = true)
    (hload : s.loadable (s.accessAddr d e w) (isPair w) = true) :
    let r := s.ldNow d e u (isPair w)
    s.ldBody d e w = (r.2.2.setRegs d e (Ins.rd w) (isPair w) r.1).engDoneS d e (r.2.2.ldCost d e w) (ost 0 r.2.1 false 0) := by
  have hcross : u.crosses = false := by
    revert hu
    cases u <;> simp [Unit_.now, Unit_.crosses]
  unfold State.ldBody
  dsimp only
  rw [hunit, hload, hcross, Bool.not_true, Bool.false_and, if_neg Bool.false_ne_true, if_neg Bool.false_ne_true]
  revert hu
  cases u <;> simp [Unit_.now]

theorem State.ldNow_checks (s : State) (d e : Nat) (u : Unit_) (pair : Bool) : s.Checks (s.ldNow d e u pair).2.2 d := by
  cases u with
  | scratch a =>
    cases pair with
    | false => exact s.scratchCheck_checks d e a
    | true => exact (s.scratchCheck_checks d e a).trans (State.scratchCheck_checks ..)
  | store i => exact s.storeCheck_checks d e i
  | _ => exact .refl s d

@[simp] theorem State.storeCheck_engs (s : State) (d e i : Nat) : (s.storeCheck d e i).2.engs = s.engs := by
  unfold State.storeCheck
  dsimp only
  split
  · rfl
  · exact State.count_engs ..
  · exact State.count_engs ..

@[simp] theorem State.storeCheck_engReg (s : State) (d e i : Nat) : (s.storeCheck d e i).2.engReg = s.engReg := by
  unfold State.storeCheck
  dsimp only
  split
  · rfl
  · exact State.count_engReg ..
  · exact State.count_engReg ..

theorem State.ldNow_engs (s : State) (d e : Nat) (u : Unit_) (pair : Bool) : (s.ldNow d e u pair).2.2.engs = s.engs := by
  cases u with
  | scratch a =>
    cases pair with
    | false => exact s.scratchCheck_engs d e a
    | true => exact (State.scratchCheck_engs ..).trans (s.scratchCheck_engs d e a)
  | store i => exact s.storeCheck_engs d e i
  | _ => rfl

theorem State.ldNow_engReg (s : State) (d e : Nat) (u : Unit_) (pair : Bool) : (s.ldNow d e u pair).2.2.engReg = s.engReg := by
  cases u with
  | scratch a =>
    cases pair with
    | false => exact s.scratchCheck_engReg d e a
    | true => exact (State.scratchCheck_engReg ..).trans (s.scratchCheck_engReg d e a)
  | store i => exact s.storeCheck_engReg d e i
  | _ => rfl

/-- From `s` to `t` a load of `n` cycles brought `v` into its register or pair, with poison `p` in OST. -/
def State.LoadedNow (s t : State) (d : Die) (e : Eng) (w : Word) (n : Nat) (v : BitVec 64) (p : Bool) : Prop :=
  WroteRegs s t d e (Ins.rd w) (isPair w) v ∧
    t.eng d e = { (s.eng d e).went n ((s.eng d e).pc + 1) with ost := ost 0 p false 0 } ∧
    (∀ (d' : Die) (e' : Eng), (d', e') ≠ (d, e) → t.eng d' e' = s.eng d' e') ∧ OnlyRegs s t [Csr.engEccCnt d] ∧
    t = { s with csr := t.csr, storeBad := t.storeBad, scratchBad := t.scratchBad, engs := t.engs, engReg := t.engReg }

/-- A load from a unit that is read at once, without trap POISON. -/
theorem doEngLd_now {n : Nat} {u : Unit_} {v : BitVec 64} {p : Bool} (hop : Ins.op w = 0x13) (hmem : memOperands w)
    (hx : s.Executing d e w n) (hn : 0 < n) (hptrap : s.fbit (Csr.engCtrl d e) EngCtrl.ptrap = false)
    (hunit : s.unitAt (s.accessAddr d e w) = u) (hu : u.now = true) (hload : s.loadable (s.accessAddr d e w) (isPair w) = true)
    (hcost : s.ldCost d e w = n) (hv : ((s.fetchEcc d e).ldNow d e u (isPair w)).1 = v)
    (hp : ((s.fetchEcc d e).ldNow d e u (isPair w)).2.1 = p) : s.LoadedNow (doEngLd d e s) d e w n v p := by
  have hc := s.fetchEcc_checks d e
  obtain ⟨r, hr⟩ : ∃ r, r = (s.fetchEcc d e).ldNow d e u (isPair w) := ⟨_, rfl⟩
  have hchecks : s.Checks r.2.2 d := hc.trans (by rw [hr]; exact State.ldNow_checks ..)
  have hengs : r.2.2.engs = s.engs := by rw [hr, State.ldNow_engs, State.fetchEcc_engs]
  have hreg : r.2.2.engReg = s.engReg := by rw [hr, State.ldNow_engReg, State.fetchEcc_engReg]
  have hcost' : r.2.2.ldCost d e w = n := by
    have haddr : r.2.2.accessAddr d e w = s.accessAddr d e w := by
      unfold State.accessAddr
      rw [State.reg_congr hreg (by rw [State.eng_congr hengs])]
    unfold State.ldCost at hcost ⊢
    rwa [haddr, hchecks.unitAt]
  rw [doEngLd_eq hop hmem hx hn hcost, State.ldBody_now (u := u) (by rw [State.accessAddr_fetchEcc, hc.unitAt, hunit]) hu
    (by rw [State.accessAddr_fetchEcc, State.loadable_fetchEcc, hload]), ← hr, hcost']
  rw [← hr] at hv hp
  have hptrap' : (r.2.2.setRegs d e (Ins.rd w) (isPair w) r.1).fbit (Csr.engCtrl d e) EngCtrl.ptrap = false := by
    rw [(hchecks.trans ((EngOnly.refl _).setRegs ..).checks).ptrap, hptrap]
  have hruns := ((State.Runs.of_engs (d := d) (e := e) hengs).keep (State.setRegs_engs ..)).engDoneS n (o := ost 0 r.2.1 false 0) (.inr hptrap')
  have hall := hchecks.trans (((EngOnly.refl r.2.2).setRegs d e (Ins.rd w) (isPair w) r.1).engDoneS d e n (o := ost 0 r.2.1 false 0) (.inr hptrap')).checks
  rw [← hv, ← hp]
  refine ⟨.of (fun h => memOperands_pair hmem h) hreg (by rw [State.eng_congr hengs]) ?_, hruns.eng, hruns.others, hall.regs, hall.frame⟩
  exact ((OnlyRecords.refl _).engDoneS d e n (.inr hptrap')).engReg

/-! ## What a load reads -/

theorem two_le_of_ne {n : Nat} (h0 : n ≠ 0) (h1 : n ≠ 1) : 2 ≤ n := by omega

theorem State.scratchCheck_poison (s : State) (d e a : Nat) :
    (s.scratchCheck d e a).1 = decide (2 ≤ SMap.get 0 s.scratchBad (engKey d e * 4096 + a / 4)) := by
  unfold State.scratchCheck
  dsimp only
  split
  · rename_i h; rw [h]; rfl
  · rename_i h; rw [h]; rfl
  · rename_i h0 h1
    exact (decide_eq_true (two_le_of_ne h0 h1)).symm

/-- A word that is read twice in a load is another word. -/
theorem State.scratchCheck_scratchBad_ne (s : State) (d e a : Nat) {k : Nat} (h : k ≠ engKey d e * 4096 + a / 4) :
    SMap.get 0 (s.scratchCheck d e a).2.scratchBad k = SMap.get 0 s.scratchBad k := by
  unfold State.scratchCheck
  dsimp only
  split
  · rfl
  · rw [State.count_scratchBad]
    show SMap.get 0 (SMap.set 0 s.scratchBad _ 0) k = _
    exact SMap.get_set_ne _ _ _ _ h
  · rw [State.count_scratchBad]

theorem State.storeCheck_poison (s : State) (d e i : Nat) :
    (s.storeCheck d e i).1 = decide (2 ≤ SMap.get 0 s.storeBad (storeKey d e i)) := by
  unfold State.storeCheck
  dsimp only
  split
  · rename_i h; rw [h]; rfl
  · rename_i h; rw [h]; rfl
  · rename_i h0 h1
    exact (decide_eq_true (two_le_of_ne h0 h1)).symm

theorem State.Checks.store {d : Nat} (h : s.Checks t d) : t.store = s.store := (congrArg State.store h.frame :)

/-- The correction of the fetched word leaves no other mark, and makes none uncorrectable. -/
theorem State.fetchEcc_uncorrectable (s : State) (d e k : Nat) :
    2 ≤ SMap.get 0 (s.fetchEcc d e).storeBad k ↔ 2 ≤ SMap.get 0 s.storeBad k := by
  unfold State.fetchEcc
  dsimp only
  split
  · rename_i h
    rw [State.count_storeBad]
    by_cases hk : k = storeKey d e (s.eng d e).pc
    · rw [hk, beq_iff_eq.1 h]
      exact iff_of_false (by rw [SMap.get_set_same]; decide) (by decide)
    · rw [show SMap.get 0 (SMap.set 0 s.storeBad (storeKey d e (s.eng d e).pc) 0) k = SMap.get 0 s.storeBad k from SMap.get_set_ne _ _ _ _ hk]
  · rfl

/-- The value and the poison of a load from the scratch. -/
theorem State.ldNow_scratch (s : State) (d : Die) (e : Eng) (a : Nat) (pair : Bool) (ha : a % (if pair then 8 else 4) = 0) :
    let r := (s.fetchEcc d e).ldNow d e (.scratch a) pair
    r.1 = (if pair then s.scratchWord d e (a + 4) else 0) ++ s.scratchWord d e a ∧
      r.2.1 = (2 ≤ SMap.get 0 s.scratchBad (engKey d e * 4096 + a / 4) ||
        (pair && 2 ≤ SMap.get 0 s.scratchBad (engKey d e * 4096 + (a + 4) / 4)) : Bool) := by
  have hword (a : Nat) : (s.fetchEcc d e).scratchWord d e a = s.scratchWord d e a := State.scratchWord_congr (State.fetchEcc_scratch ..) ..
  have hfirst := (s.fetchEcc d e).scratchCheck_poison d e a
  rw [State.fetchEcc_scratchBad] at hfirst
  cases pair with
  | false => exact ⟨by unfold State.ldNow; dsimp only; rw [hword a]; simp only [Bool.false_eq_true, if_false], by simp [State.ldNow, hfirst]⟩
  | true =>
    have hsecond := ((s.fetchEcc d e).scratchCheck d e a).2.scratchCheck_poison d e (a + 4)
    rw [State.scratchCheck_scratchBad_ne _ _ _ _ (by omega), State.fetchEcc_scratchBad] at hsecond
    exact ⟨by unfold State.ldNow; dsimp only; rw [hword, hword], by simp [State.ldNow, hfirst, hsecond]⟩

theorem State.ldNow_store (s : State) (d : Die) (e : Eng) (i : Nat) (pair : Bool) :
    let r := (s.fetchEcc d e).ldNow d e (.store i) pair
    r.1 = (0 : Word) ++ s.storeWord d e i ∧ r.2.1 = decide (2 ≤ SMap.get 0 s.storeBad (storeKey d e i)) := by
  refine ⟨?_, ?_⟩
  · unfold State.ldNow
    dsimp only
    unfold State.storeWord
    rw [((s.fetchEcc d e).storeCheck_checks d e i).store, State.fetchEcc_store]
  · show ((s.fetchEcc d e).storeCheck d e i).1 = _
    rw [State.storeCheck_poison]
    exact decide_eq_decide.2 (s.fetchEcc_uncorrectable d e _)

theorem State.ldNow_portSts (s : State) (d : Die) (e : Eng) (pair : Bool) :
    let r := (s.fetchEcc d e).ldNow d e .portSts pair
    r.1 = BitVec.ofNat 64 (4 - (s.eng d e).portOut.length + (s.eng d e).portIn.length * 8 + (if s.borderOpen d (e / 4) then 0 else 64)) ∧
      r.2.1 = false := by
  refine ⟨?_, rfl⟩
  unfold State.ldNow
  dsimp only
  rw [State.eng_fetchEcc, (s.fetchEcc_checks d e).borderOpen]
  unfold engReach
  cases s.borderOpen d (e / 4) <;> rfl

/-! ## Loads that wait -/

theorem State.ldBody_bank_own {b o : Nat} (hunit : s.unitAt (s.accessAddr d e w) = .bank d b o)
    (hload : s.loadable (s.accessAddr d e w) (isPair w) = true) (hsluice : s.sluiceOpen d = true) :
    s.ldBody d e w = (s.askBank d e b (o / 8) (if isPair w then none else some (o / 4 % 2 == 1)) .read).setEng d e
      { s.eng d e with run := (s.eng d e).run + 1, wait := .bank (Ins.rd w) (isPair w) false } := by
  unfold State.ldBody
  simp [hunit, hload, hsluice]

theorem State.ldBody_bank_other {b o dd tag : Nat} {u : State} (hunit : s.unitAt (s.accessAddr d e w) = .bank dd b o)
    (hload : s.loadable (s.accessAddr d e w) (isPair w) = true) (hsluice : s.sluiceOpen d = true) (hdd : dd ≠ d)
    (hsend : s.accSend d e (accMsg d e .bankAcc 0 (s.accessAddr d e w) Uop.read 8 none) dd = some (tag, u)) :
    s.ldBody d e w = u.setEng d e { u.eng d e with
      run := (s.eng d e).run + 1
      wait := .resp tag (some (Ins.rd w)) (isPair w) (if isPair w then none else some (o / 4 % 2 == 1)) } := by
  have hask : s.askBankMsg d e (s.accessAddr d e w) dd .read = some (tag, u) := hsend
  unfold State.ldBody
  simp [hunit, hload, hsluice, hdd, hask]

theorem State.ldBody_flash {o : Nat} (hunit : s.unitAt (s.accessAddr d e w) = .flash o)
    (hload : s.loadable (s.accessAddr d e w) (isPair w) = true) (hsluice : s.sluiceOpen d = true) :
    s.ldBody d e w = State.setEng { s with fl := { s.fl with reads := s.fl.reads ++ [.window (o / 32) (some (d, e)) none] } } d e
      { s.eng d e with run := (s.eng d e).run + 1, wait := .flash (Ins.rd w) (isPair w) o } := by
  unfold State.ldBody
  simp [hunit, hload, hsluice]

theorem State.ldBody_portPop {v : Word} {r : List Word} (hunit : s.unitAt (s.accessAddr d e w) = .portPop)
    (hload : s.loadable (s.accessAddr d e w) (isPair w) = true) (hopen : s.borderOpen d (e / 4) = true) (hport : (s.eng d e).portIn = v :: r) :
    s.ldBody d e w = ((s.setEng d e { s.eng d e with portIn := r }).setReg d e (Ins.rd w) v).engDoneS d e 1 (ost 0 false false 0) := by
  unfold State.ldBody
  simp [hunit, hload, hport, engReach, hopen, Unit_.crosses]

end

/-! ## O11 -/

/-- Settles O11: the unit of the address, then its rule. -/
theorem engineLoads : Obligations.EngineLoads := by
  unfold Obligations.EngineLoads
  intro d e s w x pair a now window hop hmem ha hptrap
  have haligned : aligned a pair = true := beq_iff_eq.2 ha
  have hc := s.fetchEcc_checks d e
  have loads {u : Unit_} {n : Nat} {v : BitVec 64} {p : Bool} (hunit : s.unitAt a = u) (hu : u.now = true) (hpair : s.loadable a pair = true)
      (hcost : s.ldCost d e w = n) (hn : 0 < n) (hx : s.Executing d e w n)
      (hv : ((s.fetchEcc d e).ldNow d e u pair).1 = v ∧ ((s.fetchEcc d e).ldNow d e u pair).2.1 = p) : Completes (.engLd d e) s (now n v p) :=
    ⟨_, rfl, doEngLd_now hop hmem hx hn hptrap hunit hu hpair hcost hv.1 hv.2⟩
  have loadable {u : Unit_} (hunit : s.unitAt a = u) (hu : (match (generalizing := false) u with
      | .scratch _ | .winIn _ | .winOut _ | .winRsp _ | .bank _ _ _ | .flash _ => true
      | .store _ | .portPop | .portSts => !pair
      | .portPush | .none => false) = true) : s.loadable a pair = true := by
    unfold State.loadable
    rw [haligned, hunit]
    exact hu
  have cost {u : Unit_} {n : Nat} (hunit : s.unitAt a = u) (hu : (match (generalizing := false) u with
      | .scratch _ | .store _ => 2
      | _ => 1) = n) : s.ldCost d e w = n := by
    unfold State.ldCost
    rw [hunit]
    exact hu
  refine ⟨fun hlt hx => ?_, fun hge hlt hpair hx => ?_, fun hge hlt hx => ?_, fun hge hlt hx => ?_, fun hge hlt hx => ?_,
    fun haddr hpair hx hopen v r hport => ?_, fun haddr hpair hx => ?_, fun hge hlt hx => ?_, fun hge hlt hx hsluice => ?_⟩
  · have hunit := s.unitAt_scratch hlt
    exact loads hunit rfl (loadable hunit rfl) (cost hunit rfl) (by decide) hx (s.ldNow_scratch d e a pair ha)
  · have hunit := s.unitAt_store hge hlt
    exact loads hunit rfl (loadable hunit (by rw [hpair]; rfl)) (cost hunit rfl) (by decide) hx (s.ldNow_store d e _ pair)
  · have hunit := s.unitAt_winIn hge hlt
    exact loads hunit rfl (loadable hunit rfl) (cost hunit rfl) (by decide) hx (by rw [State.ldNow]; dsimp only; rw [State.eng_fetchEcc]; exact ⟨rfl, rfl⟩)
  · have hunit := s.unitAt_winOut hge hlt
    exact loads hunit rfl (loadable hunit rfl) (cost hunit rfl) (by decide) hx (by rw [State.ldNow]; dsimp only; rw [State.eng_fetchEcc]; exact ⟨rfl, rfl⟩)
  · have hunit := s.unitAt_winRsp hge hlt
    exact loads hunit rfl (loadable hunit rfl) (cost hunit rfl) (by decide) hx (by rw [State.ldNow]; dsimp only; rw [State.eng_fetchEcc]; exact ⟨rfl, rfl⟩)
  · have hunit : s.unitAt a = .portPop := by rw [haddr]; exact State.unitAt_portPop
    have hptrap' : State.fbit (((s.fetchEcc d e).setEng d e { x with portIn := r }).setReg d e (Ins.rd w) v) (Csr.engCtrl d e) EngCtrl.ptrap = false :=
      (State.Checks.ptrap (hc.trans (((EngOnly.refl _).setEng ..).setReg ..).checks)).trans hptrap
    refine ⟨_, rfl, ?_⟩
    rw [doEngLd_eq hop hmem hx (by decide) (cost hunit rfl), State.ldBody_portPop (r := r) (v := v) (by rw [State.accessAddr_fetchEcc, hc.unitAt, hunit])
      (by rw [State.accessAddr_fetchEcc, State.loadable_fetchEcc, loadable hunit (by rw [hpair]; rfl)]) (by rw [hc.borderOpen, hopen])
      (by rw [State.eng_fetchEcc, hport]), State.eng_fetchEcc]
    have hruns := ((State.Runs.fetched s d e).setEng { x with portIn := r })
    refine ⟨.of (u := (s.fetchEcc d e).setEng d e { x with portIn := r }) (State.fetchEcc_engReg ..) (by rw [State.eng_setEng_same])
      ((OnlyRecords.refl _).engDoneS d e 1 (.inr hptrap')).engReg, ?_⟩
    exact .of ((hruns.keep (State.setReg_engs ..)).engDoneS 1 (.inr hptrap')) ((((EngOnly.refl _).setEng ..).setReg ..).engDoneS d e 1 (.inr hptrap'))
  · have hunit : s.unitAt a = .portSts := by rw [haddr]; exact State.unitAt_portSts
    exact loads hunit rfl (loadable hunit (by rw [hpair]; rfl)) (cost hunit rfl) (by decide) hx (s.ldNow_portSts d e pair)
  · intro dd b half m hpop hb
    have hunit : s.unitAt a = .bank dd b (a % 2 ^ 17) := s.unitAt_bank hge hlt hpop hb
    have hhalf : (if pair then none else some (a % 2 ^ 17 / 4 % 2 == 1)) = half := by
      rw [show a % 2 ^ 17 / 4 % 2 = a / 4 % 2 by omega]
    have hunit' : (s.fetchEcc d e).unitAt ((s.fetchEcc d e).accessAddr d e w) = .bank dd b (a % 2 ^ 17) := by
      rw [State.accessAddr_fetchEcc, hc.unitAt, hunit]
    have hload' : (s.fetchEcc d e).loadable ((s.fetchEcc d e).accessAddr d e w) (isPair w) = true := by
      rw [State.accessAddr_fetchEcc, State.loadable_fetchEcc, loadable hunit rfl]
    refine ⟨fun hown hsluice => ⟨_, rfl, ?_⟩, fun hother hask => ⟨_, rfl, ?_⟩⟩
    · rw [doEngLd_eq hop hmem hx (by decide) (cost hunit rfl), State.ldBody_bank_own (by rw [hunit', hown]) hload' (by rw [hc.sluiceOpen, hsluice]),
        hhalf, State.eng_fetchEcc]
      have hruns := ((State.Runs.fetched s d e).keep (u := (s.fetchEcc d e).askBank d e b (a % 2 ^ 17 / 8) half .read) rfl).setEng
        { x with run := x.run + 1, wait := .bank (Ins.rd w) pair false }
      exact ⟨State.askBank_asked hruns ((OnlyRecords.refl _).setEng ..), hruns.eng⟩
    · obtain ⟨tag, u, hsend, hruns, hsent⟩ := hask.sent
      rw [doEngLd_eq hop hmem hx (by decide) (cost hunit rfl), State.ldBody_bank_other (u := u) (tag := tag) hunit' hload'
        (by rw [hc.sluiceOpen, hask.1]) hother (by rw [State.accessAddr_fetchEcc]; exact hsend), hhalf, State.eng_fetchEcc, hruns.eng]
      have hdone := hruns.setEng { s.eng d e with
        bufs := (s.eng d e).bufs ++ [unitBuf tag], run := (s.eng d e).run + 1, wait := .resp tag (some (Ins.rd w)) (isPair w) half }
      exact ⟨tag, hsent _ _ hdone rfl ((OnlyRecords.refl _).setEng ..), by rw [hdone.eng]⟩
  · have hunit := s.unitAt_flash hge hlt
    refine ⟨_, rfl, ?_⟩
    rw [doEngLd_eq hop hmem hx (by decide) (cost hunit rfl), State.ldBody_flash (by rw [State.accessAddr_fetchEcc, hc.unitAt, hunit])
      (by rw [State.accessAddr_fetchEcc, State.loadable_fetchEcc, loadable hunit rfl]) (by rw [hc.sluiceOpen, hsluice]),
      State.eng_fetchEcc, State.fetchEcc_fl]
    exact ⟨rfl, State.eng_setEng_same .., rfl⟩

end Sys2Proof.Machine

end

section

/-! PROOFS. ST to the units of an engine's address space, and the engine port's FIFOs (03 R113, R114, R116, R133, R142), and O12. -/

namespace Sys2Proof.Machine

/-! ## Words of a flit window (R116, R117) -/

theorem beatWord_toNat (b : BitVec 512) (k : Nat) : (beatWord b k).toNat = Fld.get ⟨32 * k, 32⟩ b := by
  unfold beatWord Fld.get Fld.ofNat
  rw [BitVec.extractLsb'_toNat, Nat.shiftRight_eq_div_pow]

theorem beatWord_setBeatWord_same (b : BitVec 512) {k : Nat} (hk : k < 16) (v : Word) : beatWord (setBeatWord b k v) k = v := by
  apply BitVec.eq_of_toNat_eq
  unfold setBeatWord
  rw [beatWord_toNat, Fld.get_put_same _ _ _ (by dsimp only; omega)]
  exact Nat.mod_eq_of_lt v.isLt

theorem beatWord_setBeatWord_ne (b : BitVec 512) {j k : Nat} (h : k ≠ j) (v : Word) : beatWord (setBeatWord b j v) k = beatWord b k := by
  apply BitVec.eq_of_toNat_eq
  unfold setBeatWord
  rw [beatWord_toNat, beatWord_toNat, Fld.get_put_disjoint _ _ _ _ (by dsimp only; omega)]

theorem beatWord_and (b b' : BitVec 512) (k : Nat) : beatWord (b &&& b') k = beatWord b k &&& beatWord b' k := by
  unfold beatWord
  exact BitVec.extractLsb'_and ..

@[simp] theorem retag_hdr (m old : Msg) : (retag m old).hdr = m.hdr := by
  unfold retag
  split
  · rfl
  · split <;> rfl

@[simp] theorem retag_beats (m old : Msg) : (retag m old).beats = m.beats := by
  unfold retag
  split
  · rfl
  · split <;> rfl

theorem setBeat_getD_same (l : List (BitVec 512)) (b : Nat) (v : BitVec 512) : (setBeat l b v).getD b 0 = v := by
  unfold setBeat
  rw [List.getD_eq_getElem?_getD, List.getElem?_set_self (by simp; omega)]
  rfl

theorem setBeat_getD_ne (l : List (BitVec 512)) {j b : Nat} (h : j ≠ b) (v : BitVec 512) : (setBeat l b v).getD j 0 = l.getD j 0 := by
  unfold setBeat
  rw [List.getD_eq_getElem?_getD, List.getD_eq_getElem?_getD, List.getElem?_set_ne (Ne.symm h), List.getElem?_append]
  split
  · rfl
  · rename_i hj
    rw [List.getElem?_eq_none (Nat.not_lt.1 hj), List.getElem?_replicate]
    split <;> rfl

/-- Word `k` of a window with the bits of a header word that Table 03-5 does not name cleared. -/
def namedWord (k : Nat) (v : Word) : Word := if k < 16 then v &&& beatWord hdrMask k else v

theorem namedWord_idem (k : Nat) (v : Word) : namedWord k (namedWord k v) = namedWord k v := by
  unfold namedWord
  split
  · rw [BitVec.and_assoc, BitVec.and_self]
  · rfl

theorem windowWord_header (m : Msg) {k : Nat} (h : k < 16) : windowWord m (4 * k) = beatWord m.hdr k := by
  unfold windowWord
  rw [if_pos (by omega), Nat.mul_div_cancel_left _ (by decide)]

theorem windowWord_data (m : Msg) {k : Nat} (h : 16 ≤ k) : windowWord m (4 * k) = beatWord (m.beats.getD (k / 16 - 1) 0) (k % 16) := by
  unfold windowWord
  rw [if_neg (by omega), show 4 * k / 64 = k / 16 by omega, show 4 * k % 64 / 4 = k % 16 by omega]

theorem setWindowWord_header_hdr (m : Msg) {j : Nat} (h : j < 16) (v : Word) :
    (setWindowWord m (4 * j) v).hdr = setBeatWord m.hdr j v &&& hdrMask := by
  unfold setWindowWord
  rw [if_pos (by omega), retag_hdr, Nat.mul_div_cancel_left _ (by decide)]
  rfl

theorem setWindowWord_header_beats (m : Msg) {j : Nat} (h : j < 16) (v : Word) : (setWindowWord m (4 * j) v).beats = m.beats := by
  unfold setWindowWord
  rw [if_pos (by omega), retag_beats]
  rfl

theorem setWindowWord_data (m : Msg) {j : Nat} (h : 16 ≤ j) (v : Word) :
    setWindowWord m (4 * j) v = { m with beats := setBeat m.beats (j / 16 - 1) (setBeatWord (m.beats.getD (j / 16 - 1) 0) (j % 16) v) } := by
  unfold setWindowWord
  rw [if_neg (by omega), show 4 * j / 64 = j / 16 by omega, show 4 * j % 64 / 4 = j % 16 by omega]

/-- The word written. -/
theorem windowWord_setWindowWord_same (m : Msg) (k : Nat) (v : Word) : windowWord (setWindowWord m (4 * k) v) (4 * k) = namedWord k v := by
  unfold namedWord
  by_cases hk : k < 16
  · rw [windowWord_header _ hk, setWindowWord_header_hdr _ hk, beatWord_and, beatWord_setBeatWord_same _ hk, if_pos hk]
  · rw [windowWord_data _ (by omega), setWindowWord_data _ (by omega), setBeat_getD_same, beatWord_setBeatWord_same _ (by omega), if_neg hk]

/-- A write of the header leaves its named bits. -/
theorem windowWord_setWindowWord_named (m : Msg) {j k : Nat} (h : j < 16) (v : Word) :
    namedWord k (windowWord (setWindowWord m (4 * j) v) (4 * k)) = windowWord (setWindowWord m (4 * j) v) (4 * k) := by
  unfold namedWord
  split
  · rename_i hk
    rw [windowWord_header _ hk, setWindowWord_header_hdr _ h, beatWord_and, BitVec.and_assoc, BitVec.and_self]
  · rfl

/-- Every other word. -/
theorem windowWord_setWindowWord_ne (m : Msg) {j k : Nat} (h : k ≠ j) (v : Word) :
    namedWord k (windowWord (setWindowWord m (4 * j) v) (4 * k)) = namedWord k (windowWord m (4 * k)) := by
  unfold namedWord
  by_cases hj : j < 16
  · split
    · rename_i hk
      rw [windowWord_header _ hk, windowWord_header _ hk, setWindowWord_header_hdr _ hj, beatWord_and, beatWord_setBeatWord_ne _ h,
        BitVec.and_assoc, BitVec.and_self]
    · rename_i hk
      rw [windowWord_data _ (by omega), windowWord_data _ (by omega), setWindowWord_header_beats _ hj]
  · have hword : windowWord (setWindowWord m (4 * j) v) (4 * k) = windowWord m (4 * k) := by
      rw [setWindowWord_data _ (by omega)]
      by_cases hk : k < 16
      · rw [windowWord_header _ hk, windowWord_header _ hk]
      · rw [windowWord_data _ (by omega), windowWord_data _ (by omega)]
        by_cases hb : k / 16 - 1 = j / 16 - 1
        · rw [hb, setBeat_getD_same, beatWord_setBeatWord_ne _ (by omega)]
        · rw [setBeat_getD_ne _ hb]
    rw [hword]

/-- The window after a store of a word or a pair at offset `o`. -/
def storeWindow (m : Msg) (o : Nat) (pair : Bool) (lo hi : Word) : Msg :=
  if pair then setWindowWord (setWindowWord m o lo) (o + 4) hi else setWindowWord m o lo

theorem storeWindow_lo (m : Msg) {k : Nat} {pair : Bool} (hk : pair = true → k % 2 = 0) (lo hi : Word) :
    windowWord (storeWindow m (4 * k) pair lo hi) (4 * k) = namedWord k lo := by
  cases pair with
  | false => exact windowWord_setWindowWord_same m k lo
  | true =>
    have hsame := windowWord_setWindowWord_ne (setWindowWord m (4 * k) lo) (show k ≠ k + 1 by omega) hi
    rw [windowWord_setWindowWord_same, namedWord_idem] at hsame
    specialize hk rfl
    unfold storeWindow
    rw [if_pos rfl, show 4 * k + 4 = 4 * (k + 1) by omega]
    by_cases hh : k + 1 < 16
    · rw [← windowWord_setWindowWord_named _ hh, hsame]
    · have hn (v : Word) : namedWord k v = v := if_neg (by omega)
      rwa [hn] at hsame

theorem storeWindow_hi (m : Msg) (k : Nat) (lo hi : Word) :
    windowWord (storeWindow m (4 * k) true lo hi) (4 * k + 4) = namedWord (k + 1) hi :=
  windowWord_setWindowWord_same _ (k + 1) hi

theorem storeWindow_others (m : Msg) {j k : Nat} {pair : Bool} (h : k < j ∨ j + (if pair then 2 else 1) ≤ k) (lo hi : Word) :
    namedWord k (windowWord (storeWindow m (4 * j) pair lo hi) (4 * k)) = namedWord k (windowWord m (4 * k)) := by
  cases pair with
  | false => exact windowWord_setWindowWord_ne m (by rw [if_neg Bool.false_ne_true] at h; omega) lo
  | true =>
    rw [if_pos rfl] at h
    exact (windowWord_setWindowWord_ne _ (show k ≠ j + 1 by omega) hi).trans (windowWord_setWindowWord_ne m (by omega) lo)

/-! ## Stores -/

section
variable {s t : State} {d : Die} {e : Eng} {w : Word}

theorem State.storable_fetchEcc (s : State) (d : Die) (e : Eng) (a : Nat) (pair : Bool) : (s.fetchEcc d e).storable a pair = s.storable a pair := by
  unfold State.storable
  rw [(s.fetchEcc_checks d e).unitAt]

theorem doEngSt_eq (hop : Ins.op w = 0x14) (hmem : memOperands w) (hx : s.Executing d e w 1) :
    doEngSt d e s = (s.fetchEcc d e).stBody d e w :=
  State.engRun_body hx (by decide) (by simp [opIs, hop]) (legalM_of_operands hmem) rfl

theorem State.stBody_scratch {o : Nat} (hunit : s.unitAt (s.accessAddr d e w) = .scratch o)
    (hstore : s.storable (s.accessAddr d e w) (isPair w) = true) :
    s.stBody d e w = State.engDone (if isPair w then (s.setScratchWord d e o (s.reg d e (Ins.rd w))).setScratchWord d e (o + 4) (s.reg d e (Ins.rd w + 1))
      else s.setScratchWord d e o (s.reg d e (Ins.rd w))) d e 1 := by
  unfold State.stBody
  simp only [hunit, hstore, Unit_.crosses, Bool.not_true, Bool.false_and, Bool.false_eq_true, if_false]
  cases isPair w <;> rfl

/-- From `s` to `t` the word `lo`, or the pair of it and `hi`, went to the scratch at `a`. -/
structure State.StoredScratch (s t : State) (d e a : Nat) (pair : Bool) (lo hi : Word) : Prop where
  lo : t.scratchWord d e a = lo
  hi : pair = true → t.scratchWord d e (a + 4) = hi
  rest : ∀ k, (k < scrKey d e a ∨ scrKey d e a + (if pair then 8 else 4) ≤ k) → Memory.read 0 t.scratch k = Memory.read 0 s.scratch k
  frame : t = { s with scratch := t.scratch, scratchBad := t.scratchBad }

theorem State.storedScratch_word (s : State) (d e a : Nat) (lo hi : Word) : s.StoredScratch (s.setScratchWord d e a lo) d e a false lo hi :=
  ⟨State.scratchWord_setScratchWord_same .., fun h => absurd h Bool.false_ne_true, fun _ hk => State.scratch_setScratchWord_ne _ d e a lo hk, rfl⟩

theorem State.storedScratch_pair (s : State) (d e a : Nat) (lo hi : Word) :
    s.StoredScratch ((s.setScratchWord d e a lo).setScratchWord d e (a + 4) hi) d e a true lo hi := by
  refine ⟨?_, fun _ => State.scratchWord_setScratchWord_same .., fun k hk => ?_, rfl⟩
  · rw [State.scratchWord_setScratchWord_ne _ d e hi (.inl (Nat.le_refl _)), State.scratchWord_setScratchWord_same]
  · rw [if_pos rfl] at hk
    rw [State.scratch_setScratchWord_ne _ d e _ hi (by unfold scrKey at hk ⊢; omega), State.scratch_setScratchWord_ne _ d e a lo (by omega)]

theorem State.storedScratch (s : State) (d e a : Nat) (pair : Bool) (lo hi : Word) :
    s.StoredScratch (if pair then (s.setScratchWord d e a lo).setScratchWord d e (a + 4) hi else s.setScratchWord d e a lo) d e a pair lo hi := by
  cases pair with
  | false => exact s.storedScratch_word d e a lo hi
  | true => exact s.storedScratch_pair d e a lo hi

theorem State.stBody_winOut {o : Nat} (hunit : s.unitAt (s.accessAddr d e w) = .winOut o)
    (hstore : s.storable (s.accessAddr d e w) (isPair w) = true) :
    s.stBody d e w = (s.setEng d e { s.eng d e with
      out := storeWindow (s.eng d e).out o (isPair w) (s.reg d e (Ins.rd w)) (s.reg d e (Ins.rd w + 1)) }).engDone d e 1 := by
  unfold State.stBody
  dsimp only
  rw [hunit, hstore, Bool.not_true, if_neg Bool.false_ne_true, if_neg (by simp [Unit_.crosses])]
  unfold storeWindow
  cases isPair w
  · simp only [Bool.false_eq_true, if_false]
  · simp only [if_true]

theorem State.stBody_portPush (hunit : s.unitAt (s.accessAddr d e w) = .portPush)
    (hstore : s.storable (s.accessAddr d e w) (isPair w) = true) (hroom : (s.eng d e).portOut.length < 4) (hopen : s.borderOpen d (e / 4) = true) :
    s.stBody d e w = (s.setEng d e { s.eng d e with portOut := (s.eng d e).portOut ++ [s.reg d e (Ins.rd w)] }).engDone d e 1 := by
  unfold State.stBody
  simp [hunit, hstore, Unit_.crosses, engReach, hopen, show ¬ 4 ≤ (s.eng d e).portOut.length by omega]

/-- The operation of a store at a bank. -/
theorem storeOp_eq (o : Nat) (pair : Bool) (hi lo : Word) :
    storeOp o pair ((if pair then hi else 0) ++ lo) = .write (if pair then 0xFF else if o / 4 % 2 = 1 then 0xF0 else 0x0F)
      (if pair then hi ++ lo else if o / 4 % 2 = 1 then lo ++ (0 : Word) else (0 : Word) ++ lo) false := by
  cases pair with
  | true => rfl
  | false =>
    have hshift : ((0 : Word) ++ lo) <<< 32 = lo ++ (0 : Word) := by
      apply BitVec.eq_of_toNat_eq
      have := lo.isLt
      simp only [BitVec.toNat_shiftLeft, BitVec.toNat_append, BitVec.ofNat_eq_ofNat, BitVec.toNat_ofNat, Nat.zero_mod, Nat.or_zero, Nat.shiftLeft_eq,
        Nat.zero_mul, Nat.zero_or]
      omega
    unfold storeOp
    by_cases ho : o / 4 % 2 = 1
    · simp only [ho]
      rw [← hshift]
      rfl
    · simp [ho]

theorem State.stBody_bank_own {b o : Nat} (hunit : s.unitAt (s.accessAddr d e w) = .bank d b o)
    (hstore : s.storable (s.accessAddr d e w) (isPair w) = true) (hsluice : s.sluiceOpen d = true) (hcredit : s.storesOut d e ≤ Config.bankCredits) :
    s.stBody d e w = (s.askBank d e b (o / 8) none (storeOp o (isPair w)
      ((if isPair w then s.reg d e (Ins.rd w + 1) else 0) ++ s.reg d e (Ins.rd w)))).engDone d e 1 := by
  unfold State.stBody
  simp [hunit, hstore, hsluice, show ¬ Config.bankCredits < s.storesOut d e by omega]

theorem State.stBody_bank_other {b o dd tag : Nat} {u : State} (hunit : s.unitAt (s.accessAddr d e w) = .bank dd b o)
    (hstore : s.storable (s.accessAddr d e w) (isPair w) = true) (hsluice : s.sluiceOpen d = true) (hdd : dd ≠ d)
    (hsend : s.askBankMsg d e (s.accessAddr d e w) dd (storeOp o (isPair w)
      ((if isPair w then s.reg d e (Ins.rd w + 1) else 0) ++ s.reg d e (Ins.rd w))) = some (tag, u)) :
    s.stBody d e w = u.engDone d e 1 := by
  have hne : (dd == (d : Nat)) = false := beq_eq_false_iff_ne.2 hdd
  unfold State.stBody
  simp only [hunit, hstore, hsluice, hne, hsend, Bool.not_true, Bool.and_false, Bool.false_eq_true, if_false]

/-! ## The engine port (R142) -/

theorem wordsOf_word (w : Word) : wordsOf 2 w.toNat = [w.extractLsb' 0 16, w.extractLsb' 16 16] := by
  have hlow : BitVec.ofNat 16 w.toNat = w.extractLsb' 0 16 := by
    apply BitVec.eq_of_toNat_eq
    simp [BitVec.extractLsb'_toNat]
  have hhigh : BitVec.ofNat 16 (w.toNat / 65536) = w.extractLsb' 16 16 := by
    apply BitVec.eq_of_toNat_eq
    simp [BitVec.extractLsb'_toNat, Nat.shiftRight_eq_div_pow]
  rw [← hlow, ← hhigh, ← Nat.div_one w.toNat]
  simp [wordsOf, List.range_succ]

theorem packWords_word (w : Word) : BitVec.ofNat 256 (packWords [w.extractLsb' 0 16, w.extractLsb' 16 16]) = w.setWidth 256 := by
  apply BitVec.eq_of_toNat_eq
  have := w.isLt
  simp [packWords, BitVec.extractLsb'_toNat, Nat.shiftRight_eq_div_pow]
  omega

/-- A word that an engine port delivers to the fabric. -/
theorem State.toFabric_enginePort (s : State) (d : Die) (e : Eng) (w : Word) (hopen : s.borderOpen d (e / 4) = true) :
    let k := fabInKey d (0x300 + e)
    s.toFabric d (0x300 + e) [⟨wordsOf 2 w.toNat, false, false⟩] = { s with
      outbox := s.outbox ++ [.fabric d (0x300 + e) (w.setWidth 256) false false]
      fabIn := SMap.set [] s.fabIn k (SMap.get [] s.fabIn k ++ [⟨[w.extractLsb' 0 16, w.extractLsb' 16 16], false, false⟩]) } := by
  have hreach : portReach (0x300 + e) = e / 4 := by
    have := e.isLt
    unfold portReach engReach
    rw [show (0x300 + e.val) / 256 = 3 by omega, show (0x300 + e.val) % 256 = e by omega]
    rfl
  unfold State.toFabric
  dsimp only
  rw [hreach, hopen, Bool.not_true, if_neg Bool.false_ne_true, wordsOf_word]
  simp only [List.foldl_cons, List.foldl_nil, packWords_word]
  rfl

theorem doEnginePortFabric_push (hopen : s.portOpen d (e / 4) = true) (hroom : (s.eng d e).portIn.length < 4) (w : Word) :
    doEnginePortFabric d e (some w) s = s.setEng d e { s.eng d e with portIn := (s.eng d e).portIn ++ [w] } := by
  unfold doEnginePortFabric engReach
  dsimp only
  rw [hopen, Bool.not_true, if_neg Bool.false_ne_true, if_pos hroom]

theorem doEnginePortFabric_take {r : List Word} (hopen : s.portOpen d (e / 4) = true) (hport : (s.eng d e).portOut = w :: r) :
    doEnginePortFabric d e none s = (s.setEng d e { s.eng d e with portOut := r }).toFabric d (0x300 + e) [⟨wordsOf 2 w.toNat, false, false⟩] := by
  unfold doEnginePortFabric engReach
  dsimp only
  rw [hopen, hport, Bool.not_true, if_neg Bool.false_ne_true]

end

/-! ## O12 -/

/-- Settles O12: the unit of the address, then its rule; the two directions of an engine port. -/
theorem engineStoresAndPorts : Obligations.EngineStoresAndPorts := by
  unfold Obligations.EngineStoresAndPorts
  constructor
  · intro d e s w x pair a n lo hi hop hmem ha hx
    have haligned : aligned a pair = true := beq_iff_eq.2 ha
    have hc := s.fetchEcc_checks d e
    have heq := doEngSt_eq hop hmem hx
    have hunit' {u : Unit_} (hunit : s.unitAt a = u) : (s.fetchEcc d e).unitAt ((s.fetchEcc d e).accessAddr d e w) = u := by
      rw [State.accessAddr_fetchEcc, hc.unitAt, hunit]
    have storable {u : Unit_} (hunit : s.unitAt a = u) (hu : (match (generalizing := false) u with
        | .scratch _ | .winOut _ | .bank _ _ _ => true
        | .portPush => !pair
        | _ => false) = true) : (s.fetchEcc d e).storable ((s.fetchEcc d e).accessAddr d e w) (isPair w) = true := by
      rw [State.accessAddr_fetchEcc, State.storable_fetchEcc]
      unfold State.storable
      rw [haligned, hunit]
      exact hu
    have hruns := State.Runs.fetched s d e
    refine ⟨fun hlt => ⟨_, rfl, ?_⟩, fun hge hlt => ⟨_, rfl, ?_⟩, fun haddr hpair hroom hopen => ⟨_, rfl, ?_⟩, fun hge hlt => ?_⟩
    · rw [heq, State.stBody_scratch (hunit' (s.unitAt_scratch hlt)) (storable (s.unitAt_scratch hlt) rfl), State.reg_fetchEcc, State.reg_fetchEcc]
      have hstored := (s.fetchEcc d e).storedScratch d e a pair lo hi
      obtain ⟨u, hu⟩ : ∃ u, u = if pair then ((s.fetchEcc d e).setScratchWord d e a lo).setScratchWord d e (a + 4) hi
        else (s.fetchEcc d e).setScratchWord d e a lo := ⟨_, rfl⟩
      rw [← hu] at hstored ⊢
      obtain ⟨hlo, hhi, hrest, hframe⟩ := hstored
      have honly := (OnlyRecords.refl u).engDone d e 1
      refine ⟨(State.scratchWord_congr honly.scratch ..).trans hlo, fun hp => (State.scratchWord_congr honly.scratch ..).trans (hhi hp),
        fun k hk => ?_, ?_, ((hruns.keep (congrArg State.engs hframe :)).engDone 1).eng, ?_⟩
      · rw [honly.scratch, hrest k hk, State.fetchEcc_scratch]
      · exact honly.engReg.trans ((congrArg State.engReg hframe :).trans (State.fetchEcc_engReg ..))
      · unfold OnlyRecords at honly
        rw [honly, hframe]
    · beta_reduce
      intro o named
      have ho : o = 4 * (o / 4) ∧ (pair = true → o / 4 % 2 = 0) := by
        rcases Bool.eq_false_or_eq_true pair with hp | hp
        · simp only [n, hp, if_true] at ha
          omega
        · simp only [n, hp, Bool.false_eq_true, if_false] at ha
          exact ⟨by omega, fun h => absurd (hp.symm.trans h) Bool.false_ne_true⟩
      obtain ⟨ho, heven⟩ := ho
      have hran : EngRan s _ d e _ := .of ((hruns.setEng { x with out := storeWindow x.out o pair lo hi }).engDone 1) (((EngOnly.refl _).setEng ..).engGo ..)
      rw [heq, State.stBody_winOut (hunit' (s.unitAt_winOut hge hlt)) (storable (s.unitAt_winOut hge hlt) rfl), State.eng_fetchEcc,
        State.reg_fetchEcc, State.reg_fetchEcc]
      have hout : (State.eng (((s.fetchEcc d e).setEng d e { x with out := storeWindow x.out o pair lo hi }).engDone d e 1) d e).out =
        storeWindow x.out (4 * (o / 4)) pair lo hi := by rw [hran.1, ← ho]; rfl
      refine ⟨?_, fun hp => ?_, fun k _ hk => ?_, State.fetchEcc_engReg .., ?_⟩
      · rw [hout, ho, Nat.mul_div_cancel_left _ (by decide)]
        exact storeWindow_lo _ heven lo hi
      · rw [hout, hp, ho, Nat.mul_div_cancel_left _ (by decide)]
        exact storeWindow_hi _ _ lo hi
      · rw [hout]
        refine storeWindow_others _ ?_ lo hi
        rcases Bool.eq_false_or_eq_true pair with hp | hp <;> simp only [n, hp, Bool.false_eq_true, if_false, if_true] at hk ⊢ <;> omega
      · rw [hran.1]
        exact hran
    · have hunit : s.unitAt a = .portPush := by rw [haddr]; exact State.unitAt_portPush
      rw [heq, State.stBody_portPush (hunit' hunit) (storable hunit (by rw [hpair]; rfl)) (by rw [State.eng_fetchEcc]; exact hroom)
        (by rw [hc.borderOpen, hopen]), State.eng_fetchEcc, State.reg_fetchEcc]
      exact ⟨State.fetchEcc_engReg .., .of ((hruns.setEng _).engDone 1) (((EngOnly.refl _).setEng ..).engGo ..)⟩
    · intro dd b v be m hpop hb
      have hunit : s.unitAt a = .bank dd b (a % 2 ^ 17) := s.unitAt_bank hge hlt hpop hb
      have hop : storeOp (a % 2 ^ 17) (isPair w) ((if isPair w then hi else 0) ++ lo) = .write be v false := by
        rw [storeOp_eq, show a % 2 ^ 17 / 4 % 2 = a / 4 % 2 by omega]
      refine ⟨fun hown hsluice hcredit => ⟨_, rfl, ?_⟩, fun hother hask => ⟨_, rfl, ?_⟩⟩
      · have hcredit' : (s.fetchEcc d e).storesOut d e ≤ Config.bankCredits := by
          unfold State.storesOut
          rwa [hc.bankWaits]
        rw [heq, State.stBody_bank_own (by rw [hunit' hunit, hown]) (storable hunit rfl) (by rw [hc.sluiceOpen, hsluice]) hcredit',
          State.reg_fetchEcc, State.reg_fetchEcc, hop]
        have hdone := (hruns.keep (u := (s.fetchEcc d e).askBank d e b (a % 2 ^ 17 / 8) none (.write be v false)) rfl).engDone 1
        exact ⟨State.askBank_asked hdone ((OnlyRecords.refl _).engDone ..), hdone.eng⟩
      · obtain ⟨tag, u, hsend, hran, hsent⟩ := hask.sent
        have hcode : opCode (.write be v false) = (Uop.write, some v, n) := by
          have hlen : (if be == 0xFF then 8 else 4) = n := by
            rcases Bool.eq_false_or_eq_true pair with hp | hp
            · simp [be, n, hp]
            · by_cases ho : a / 4 % 2 = 1 <;> simp [be, n, hp, ho]
          rw [opCode, hlen]
        rw [heq, State.stBody_bank_other (u := u) (tag := tag) (hunit' hunit) (storable hunit rfl)
          (by rw [hc.sluiceOpen, hask.1]) hother (by
            rw [State.accessAddr_fetchEcc, State.reg_fetchEcc, State.reg_fetchEcc, hop, State.askBankMsg, hcode]
            exact hsend)]
        have hdone := hran.engDone 1
        exact ⟨tag, hsent _ _ hdone rfl ((OnlyRecords.refl _).engDone ..), by rw [hdone.eng]; rfl⟩
  · intro d e s hopen x
    obtain ⟨hborder, -⟩ := Bool.and_eq_true_iff.1 hopen
    obtain ⟨hborder, -⟩ := Bool.and_eq_true_iff.1 hborder
    refine ⟨fun w hroom => ⟨s.setEng d e { x with portIn := x.portIn ++ [w] }, ?_, ?_⟩, fun w r hport => ⟨_, rfl, ?_⟩⟩
    · exact congrArg Host.Outcome.next (doEnginePortFabric_push hopen hroom w)
    · exact ⟨State.eng_setEng_same .., fun _ _ hne => State.eng_setEng_ne _ _ hne, rfl⟩
    · rw [doEnginePortFabric_take hopen hport, State.toFabric_enginePort (s.setEng d e { s.eng d e with portOut := r }) d e w hborder]
      refine ⟨State.eng_setEng_same .., fun _ _ hne => State.eng_setEng_ne _ _ hne, ⟨?_, fun j hj => ?_⟩, rfl⟩
      · exact SMap.get_set_same ..
      · exact SMap.get_set_other _ _ _ _ j hj

end Sys2Proof.Machine

end

section

/-! PROOFS. SEND, WAITR, FWCP and the arrival of responses (03 R116, R118, R124, R125, R128), and O13. -/

namespace Sys2Proof.Machine

section
variable {s t u : State} {d : Die} {e : Eng} {w : Word}

/-! ## Routes rest on no check bit -/

/-- The registers below the engine block. -/
theorem State.Checks.csrGet_low (h : s.Checks t d) (d' : Nat) {off : Nat} (hoff : off < 0x5000000) :
    t.csrGet (csrAddr d' off) = s.csrGet (csrAddr d' off) := h.csrGet (engEccCnt_ne (by omega) (by omega))

theorem State.Checks.portUp (h : s.Checks t d) (p : Nat) : t.portUp p = s.portUp p := by
  have hgw : portGw p < 2 := Nat.mod_lt _ (by decide)
  have hsub : portSub p < 4 := Nat.mod_lt _ (by decide)
  exact State.portUp_congr h.part (h.csrGet_low _ (by omega)) (h.csrGet_low _ (by omega)) (h.csrGet (engEccCnt_ne_stw d 0x7000000))

theorem Msg.destBus_lt {m : Msg} {b : Nat} (h : Msg.destBus m = some b) : b < 256 := by
  unfold Msg.destBus at h
  split at h
  · have := m.hdr.isLt
    have hrid : m.g Hd.rid < 2 ^ 16 := Fld.get_lt Hd.rid m.hdr
    injection h with h
    omega
  · split at h
    · obtain ⟨v, -, rfl⟩ := Option.map_eq_some_iff.1 h
      exact v.isLt
    · obtain ⟨v, -, rfl⟩ := Option.map_eq_some_iff.1 h
      exact v.isLt

theorem State.Checks.fget_low (h : s.Checks t d) (d' : Nat) {off : Nat} (hoff : off < 0x5000000) (f : Fld) :
    t.fget (csrAddr d' off) f = s.fget (csrAddr d' off) f := State.fget_congr (h.csrGet_low d' hoff) f

/-- Entry `n` of the address table matches (R45). -/
def State.addrMatch (s : State) (d bank page n : Nat) : Bool :=
  s.fbit (Csr.xbAddrW3 d n) XbAddrW3.v && s.fget (Csr.xbAddrW3 d n) XbAddrW3.bank == bank &&
    s.fget (Csr.xbAddrW0 d n) XbAddrW0.baseLo + s.fget (Csr.xbAddrW1 d n) XbAddrW1.baseHi * 2 ^ 20 ≤ page &&
    page ≤ s.fget (Csr.xbAddrW2 d n) XbAddrW2.limitLo + s.fget (Csr.xbAddrW3 d n) XbAddrW3.limitHi * 2 ^ 20

theorem State.Checks.lookup (h : s.Checks t d) (d' : Nat) {route bank : Nat} (hbank : bank < 8) (m : Msg) :
    t.lookup d' route bank m = s.lookup d' route bank m := by
  have hpid : m.g Hd.dpid < 2 ^ 12 := Fld.get_lt Hd.dpid m.hdr
  match route with
  | 0 =>
    have ha : t.csrGet (Csr.xbPid d' (m.g Hd.dpid)) = s.csrGet (Csr.xbPid d' (m.g Hd.dpid)) := h.csrGet_low d' (by omega)
    unfold State.lookup State.fbit
    simp only [State.fget_congr ha]
  | 1 =>
    unfold State.lookup State.fbit
    cases hb : Msg.destBus m with
    | none => rfl
    | some b =>
      have hlt := Msg.destBus_lt hb
      have ha : t.csrGet (Csr.xbBus d' (bank * 256 + b)) = s.csrGet (Csr.xbBus d' (bank * 256 + b)) := h.csrGet_low d' (by omega)
      simp only [State.fget_congr ha]
  | n + 2 =>
    have haddr : ∀ n ∈ List.range 32, (∀ f, t.fget (Csr.xbAddrW0 d' n) f = s.fget (Csr.xbAddrW0 d' n) f) ∧
        (∀ f, t.fget (Csr.xbAddrW1 d' n) f = s.fget (Csr.xbAddrW1 d' n) f) ∧ (∀ f, t.fget (Csr.xbAddrW2 d' n) f = s.fget (Csr.xbAddrW2 d' n) f) ∧
        ∀ f, t.fget (Csr.xbAddrW3 d' n) f = s.fget (Csr.xbAddrW3 d' n) f := fun n hn => by
      have := List.mem_range.1 hn
      exact ⟨h.fget_low d' (by omega), h.fget_low d' (by omega), h.fget_low d' (by omega), h.fget_low d' (by omega)⟩
    have hfind : (List.range 32).find? (t.addrMatch d' bank (m.g Hd.addr / 4096)) = (List.range 32).find? (s.addrMatch d' bank (m.g Hd.addr / 4096)) := by
      refine List.find?_congr fun n hn => ?_
      obtain ⟨h0, h1, h2, h3⟩ := haddr n hn
      unfold State.addrMatch State.fbit
      rw [h0, h1, h2, h3, h3, h3]
    have hlook (s : State) : s.lookup d' (n + 2) bank m = ((List.range 32).find? (s.addrMatch d' bank (m.g Hd.addr / 4096))).map
        (fun n => s.fget (Csr.xbAddrW3 d' n) XbAddrW3.port) := by
      show (match (List.range 32).find? (s.addrMatch d' bank (m.g Hd.addr / 4096)) with
        | some n => some (s.fget (Csr.xbAddrW3 d' n) XbAddrW3.port)
        | none => none) = _
      cases (List.range 32).find? (s.addrMatch d' bank (m.g Hd.addr / 4096)) <;> rfl
    rw [hlook, hlook, hfind]
    cases hn : (List.range 32).find? (s.addrMatch d' bank (m.g Hd.addr / 4096)) with
    | none => rfl
    | some n => exact congrArg some ((haddr n (List.mem_of_find?_eq_some hn)).2.2.2 _)

theorem State.Checks.routeTo (h : s.Checks t d) (d' : Nat) {route bank : Nat} (hbank : bank < 8) (m : Msg) :
    t.routeTo d' route bank m = s.routeTo d' route bank m := by
  unfold State.routeTo
  rw [h.lookup d' hbank]
  cases s.lookup d' route bank m with
  | none => rfl
  | some p => dsimp only; rw [h.portUp]

theorem State.Checks.sendTarget (h : s.Checks t d) (d' : Nat) (m : Msg) : t.sendTarget d' m = s.sendTarget d' m := by
  have hbank : m.g Hd.destBank < 2 ^ 3 := Fld.get_lt Hd.destBank m.hdr
  unfold State.sendTarget
  simp only [h.portUp, h.populated, h.routeTo d' hbank, h.part]

theorem State.Checks.routeUp (h : s.Checks t d) (goal n d' : Nat) : t.routeUp goal n d' = s.routeUp goal n d' := by
  induction n generalizing d' with
  | zero => rfl
  | succ n ih =>
    have hnb (c : Nat) : t.neighbour d' c = s.neighbour d' c := by
      unfold State.neighbour
      simp only [h.populated]
    have hcv (c : Nat) (hc : c ≤ 2) : t.fbit (Csr.cvSts d' c) CvSts.trained = s.fbit (Csr.cvSts d' c) CvSts.trained := by
      have ha : t.csrGet (Csr.cvSts d' c) = s.csrGet (Csr.cvSts d' c) := h.csrGet_low d' (by omega)
      unfold State.fbit
      rw [State.fget_congr ha]
    obtain ⟨c, hc⟩ : ∃ c, c = if d' % 4 < goal % 4 then 1 else if goal % 4 < d' % 4 then 0 else 2 := ⟨_, rfl⟩
    have hc2 : c ≤ 2 := by
      rw [hc]
      split
      · decide
      · split <;> decide
    unfold State.routeUp
    dsimp only
    rw [← hc, hnb]
    cases s.neighbour d' c with
    | none => rfl
    | some m => dsimp only; rw [hcv c hc2, h.dieOn, ih]

theorem State.Checks.pathUp (h : s.Checks t d) (d' goal : Nat) : t.pathUp d' goal = s.pathUp d' goal := by
  unfold State.pathUp
  rw [h.dieOn, h.routeUp]

/-! ## SEND (R124, R125) -/

@[simp] theorem outMsg_g (x : Engine) (f : Fld) : (outMsg x).g f = x.out.g f := rfl

/-- SEND reserves a buffer. -/
def sendReserves (x : Engine) (w : Word) : Bool := (Ins.imm w % 2 == 1) || x.out.g Hd.dkind == 1 || x.out.g Hd.dkind == 3

/-- The message as SEND sends it under a tag. -/
def State.sendMsg (s : State) (d e : Nat) (w : Word) (tag : Nat) : Msg :=
  let x := s.eng d e
  let m := ((((outMsg x).w Hd.srcDie d).w Hd.srcIdx (8 + e)).w Hd.needRsp (b2n (Ins.imm w % 2 == 1))).w Hd.xtag tag
  if x.out.g Hd.dkind == 3 || x.out.g Hd.vc == 2 then (m.w Hd.stamped 1).w Hd.ms24 (s.msOf d % 2 ^ 24) else m.w Hd.stamped 0

/-- The tag that SEND takes. -/
def State.sendTag (s : State) (d e : Nat) (w : Word) : Nat :=
  let x := s.eng d e
  if Ins.imm w % 2 == 1 then pickTag x.bufs (Config.freeWord s.draws).toNat else x.out.g Hd.xtag

/-- The engine's record once SEND took its tag. -/
def sendRecord (x : Engine) (w : Word) (tag : Nat) (r : Option Msg) : Engine :=
  let x' := { x with answered := x.answered || Ins.imm w / 2 % 2 == 1 }
  if sendReserves x w then reserve x' tag false (x.out.g Hd.dkind == 3) r else x'

/-- The state once SEND wrote its record. -/
def State.sendReserved (s : State) (d e : Nat) (w : Word) (r : Option Msg) : State :=
  State.setEng { s with draws := s.draws + 1 } d e (sendRecord (s.eng d e) w (s.sendTag d e w) r)

/-- The state once SEND wrote its record and its tag. -/
def State.sendWrites (s : State) (d e : Nat) (w : Word) (r : Option Msg) : State :=
  (s.sendReserved d e w r).setReg d e (Ins.rd w) (BitVec.ofNat 32 (s.sendTag d e w))

/-- Nothing keeps SEND from sending. -/
structure State.CanSend (s : State) (d e : Nat) (w : Word) : Prop where
  snoop : (s.eng d e).onSnp = true → (s.eng d e).out.g Hd.vc ≠ 0 ∧ (s.eng d e).out.g Hd.vc ≠ 2
  buffer : sendReserves (s.eng d e) w = true → (s.eng d e).bufs.length < 4
  sluice : s.sluiceOpen d = true
  fits : s.fitsIn d (13 + e / 8) (outMsg (s.eng d e)) = true

theorem State.CanSend.sendBody {d e : Nat} (h : s.CanSend d e w) : s.sendBody d e w =
    match s.sendTarget d (outMsg (s.eng d e)) with
    | none => (s.sendWrites d e w (some ((s.sendMsg d e w (s.sendTag d e w)).replyTo d (8 + e) St.notPresent))).engDoneS d e
        (1 + (s.sendMsg d e w (s.sendTag d e w)).g Hd.beats) (ost St.notPresent false false 0)
    | some (die, ep) => ((s.sendWrites d e w none).inject d (13 + e / 8) (routed (s.sendMsg d e w (s.sendTag d e w)) die ep) die ep).engDoneS d e
        (1 + (s.sendMsg d e w (s.sendTag d e w)).g Hd.beats) (ost 0 false false 0) := by
  obtain ⟨hsnoop, hbuffer, hsluice, hfits⟩ := h
  have hrank : ((s.eng d e).onSnp && ((s.eng d e).out.g Hd.vc == 0 || (s.eng d e).out.g Hd.vc == 2)) = false := by
    simpa using hsnoop
  have hbuf : (sendReserves (s.eng d e) w && decide (4 ≤ (s.eng d e).bufs.length)) = false := by
    simpa using hbuffer
  unfold sendReserves at hbuf
  have hfits' : s.fitsIn d (engEndpoint e) (outMsg (s.eng d e)) = true := hfits
  unfold State.sendBody
  refine (if_neg (Bool.eq_false_iff.1 hrank)).trans ((if_neg (Bool.eq_false_iff.1 hbuf)).trans ((if_neg (by simp [hsluice, hfits'])).trans ?_))
  cases s.sendTarget d (outMsg (s.eng d e)) with
  | none => rfl
  | some p => rfl

theorem State.CanSend.fetched (h : s.CanSend d e w) : (s.fetchEcc d e).CanSend d e w := by
  have hc := s.fetchEcc_checks d e
  refine ⟨?_, ?_, ?_, ?_⟩
  · rw [State.eng_fetchEcc]; exact h.snoop
  · rw [State.eng_fetchEcc]; exact h.buffer
  · rw [hc.sluiceOpen]; exact h.sluice
  · rw [State.eng_fetchEcc, State.fitsIn_congr hc.xsrc hc.xin rfl rfl]; exact h.fits

theorem State.sendMsg_fetchEcc (s : State) (d : Die) (e : Eng) (w : Word) (tag : Nat) : (s.fetchEcc d e).sendMsg d e w tag = s.sendMsg d e w tag := by
  unfold State.sendMsg
  rw [State.eng_fetchEcc, (s.fetchEcc_checks d e).msOf]

theorem State.sendTag_fetchEcc (s : State) (d : Die) (e : Eng) (w : Word) : (s.fetchEcc d e).sendTag d e w = s.sendTag d e w := by
  unfold State.sendTag
  rw [State.eng_fetchEcc, State.fetchEcc_draws]

/-- What SEND fills in leaves every other field of the header. -/
theorem State.sendMsg_g (s : State) (d e : Nat) (w : Word) (tag : Nat) (f : Fld)
    (hf : ∀ g ∈ [Hd.srcDie, Hd.srcIdx, Hd.needRsp, Hd.xtag, Hd.stamped, Hd.ms24], g.lo + g.width ≤ f.lo ∨ f.lo + f.width ≤ g.lo) :
    (s.sendMsg d e w tag).g f = (s.eng d e).out.g f := by
  simp only [List.forall_mem_cons, List.not_mem_nil, false_implies, implies_true, and_true] at hf
  obtain ⟨hdie, hidx, hrsp, htag, hstamped, hms⟩ := hf
  unfold State.sendMsg
  dsimp only
  split
  · rw [Msg.g_w_apart _ _ _ _ hms, Msg.g_w_apart _ _ _ _ hstamped, Msg.g_w_apart _ _ _ _ htag, Msg.g_w_apart _ _ _ _ hrsp,
      Msg.g_w_apart _ _ _ _ hidx, Msg.g_w_apart _ _ _ _ hdie, outMsg_g]
  · rw [Msg.g_w_apart _ _ _ _ hstamped, Msg.g_w_apart _ _ _ _ htag, Msg.g_w_apart _ _ _ _ hrsp, Msg.g_w_apart _ _ _ _ hidx,
      Msg.g_w_apart _ _ _ _ hdie, outMsg_g]

theorem State.sendMsg_beats (s : State) (d e : Nat) (w : Word) (tag : Nat) : (s.sendMsg d e w tag).beats = (outMsg (s.eng d e)).beats := by
  unfold State.sendMsg
  dsimp only
  split <;> simp only [Msg.w_beats]

theorem routed_vc (m : Msg) (die ep : Nat) : (routed m die ep).g Hd.vc = m.g Hd.vc := by
  unfold routed
  split
  · rw [Msg.g_w_apart _ _ _ _ (by decide), Msg.g_w_apart _ _ _ _ (by decide)]
  · rfl

theorem routed_beats (m : Msg) (die ep : Nat) : (routed m die ep).beats = m.beats := by
  unfold routed
  split
  · rw [Msg.w_beats, Msg.w_beats]
  · rfl

/-- The tag is the OUT header's, or one that no buffer holds. -/
theorem State.sendTag_good (h : s.CanSend d e w) : s.sendTag d e w < 2 ^ 16 ∧
    (if Ins.imm w % 2 == 1 then (s.eng d e).bufs.all (fun b => b.xtag != s.sendTag d e w) = true else s.sendTag d e w = (s.eng d e).out.g Hd.xtag) := by
  unfold State.sendTag
  dsimp only
  by_cases hrsp : (Ins.imm w % 2 == 1) = true
  · have hfree := pickTag_fresh (bufs := (s.eng d e).bufs) (by have := h.buffer (by simp [sendReserves, beq_iff_eq.1 hrsp]); omega)
      (Config.freeWord s.draws).toNat
    rw [if_pos hrsp, if_pos hrsp]
    exact ⟨hfree.1, by simpa using hfree.2⟩
  · rw [if_neg hrsp, if_neg hrsp]
    exact ⟨Fld.get_lt Hd.xtag _, rfl⟩

/-- The outcome of SEND but for the message: its tag in rd, and its record. -/
def State.SentTag (s t : State) (d : Die) (e : Eng) (w : Word) (tag st : Nat) (r : Option Msg) : Prop :=
  WroteReg s t d e (Ins.rd w) (BitVec.ofNat 32 tag) ∧
    t.eng d e = { (sendRecord (s.eng d e) w tag r).went (1 + (s.eng d e).out.g Hd.beats) ((s.eng d e).pc + 1) with ost := ost st false false 0 } ∧
    (∀ (d' : Die) (e' : Eng), (d', e') ≠ (d, e) → t.eng d' e' = s.eng d' e')

theorem sendRecord_eq (x : Engine) (w : Word) (tag st n pc : Nat) (r : Option Msg) :
    { (sendRecord x w tag r).went n pc with ost := ost st false false 0 } = { x.went n pc with
      answered := x.answered || Ins.imm w / 2 % 2 == 1, ost := ost st false false 0,
      bufs := if sendReserves x w then x.bufs ++ [{ unit := false, xtag := tag, rsp := r, claimed := false, dir := x.out.g Hd.dkind == 3 }]
        else x.bufs } := by
  unfold sendRecord
  cases sendReserves x w <;> rfl

@[simp] theorem sendRecord_cwp (x : Engine) (w : Word) (tag : Nat) (r : Option Msg) : (sendRecord x w tag r).cwp = x.cwp := by
  unfold sendRecord
  cases sendReserves x w <;> rfl

@[simp] theorem sendRecord_pc (x : Engine) (w : Word) (tag : Nat) (r : Option Msg) : (sendRecord x w tag r).pc = x.pc := by
  unfold sendRecord
  cases sendReserves x w <;> rfl

/-- SEND's writes before the message, in the record and the register. -/
theorem State.sendReserved_runs (s : State) (d : Die) (e : Eng) (w : Word) (r : Option Msg) :
    s.Runs ((s.fetchEcc d e).sendReserved d e w r) d e (sendRecord (s.eng d e) w (s.sendTag d e w) r) := by
  unfold State.sendReserved
  rw [State.eng_fetchEcc, State.sendTag_fetchEcc]
  exact ((State.Runs.fetched s d e).keep (u := { s.fetchEcc d e with draws := (s.fetchEcc d e).draws + 1 }) rfl).setEng _

/-- A state that keeps SEND's register, once the instruction ended. -/
theorem State.sendWrites_sent {st : Nat} {r : Option Msg} (hengs : u.engs = ((s.fetchEcc d e).sendWrites d e w r).engs)
    (hreg : u.engReg = ((s.fetchEcc d e).sendWrites d e w r).engReg) :
    s.SentTag (u.engDoneS d e (1 + (s.sendMsg d e w (s.sendTag d e w)).g Hd.beats) (ost st false false 0)) d e w (s.sendTag d e w) st r := by
  have hcalm : Ost.poison.bit (ost st false false 0) = false ∨ u.fbit (Csr.engCtrl d e) EngCtrl.ptrap = false := .inl (ost_poison ..)
  rw [s.sendMsg_g d e w _ Hd.beats (by decide)]
  have hreserved := s.sendReserved_runs d e w r
  have hruns := (hreserved.keep (hengs.trans (State.setReg_engs ..))).engDoneS (1 + (s.eng d e).out.g Hd.beats) hcalm
  rw [sendRecord_pc] at hruns
  refine ⟨?_, hruns.eng, hruns.others⟩
  unfold State.sendWrites at hreg
  rw [State.sendTag_fetchEcc] at hreg
  exact .of (u := (s.fetchEcc d e).sendReserved d e w r) (State.fetchEcc_engReg ..) (by rw [hreserved.eng, sendRecord_cwp]) (((OnlyRecords.refl u).engDoneS d e _ hcalm).engReg.trans hreg)

theorem State.sendWrites_frame (s : State) (d e : Nat) (w : Word) (r : Option Msg) :
    let t := s.sendWrites d e w r
    t = { s with draws := s.draws + 1, engs := t.engs, engReg := t.engReg } := by
  unfold State.sendWrites State.setReg
  dsimp only
  rw [State.setRegIn_rest]
  rfl

/-- The operands and the OUT header that SEND takes (R124). -/
structure SendForm (x : Engine) (w : Word) : Prop where
  op : Ins.op w = 0x27
  rd : Ins.rd w < 24
  rs1 : Ins.rs1 w = 0
  imm : Ins.imm w < 4
  vc : x.out.g Hd.vc ≤ 3
  beats : x.out.g Hd.beats ≤ 8
  data : x.out.g Hd.beats = 0 ∨ x.out.g Hd.vc = 0 ∨ x.out.g Hd.vc = 3
  dkind : x.out.g Hd.dkind ≤ 4

theorem doEngSend_eq (hf : SendForm (s.eng d e) w) (hx : s.Executing d e w (1 + (s.eng d e).out.g Hd.beats)) :
    doEngSend d e s = (s.fetchEcc d e).sendBody d e w := by
  obtain ⟨hop, hrd, hrs1, himm, hvc, hbeats, hdata, hdkind⟩ := hf
  refine State.engRun_body hx (by omega) (by simp [opIs, hop]) ?_ (by rw [State.eng_fetchEcc])
  unfold legalSend
  rw [State.eng_fetchEcc]
  simp [regOk, hrd, hrs1, himm, hvc, hbeats, hdkind]
  tauto

theorem doEngSend_lost (hf : SendForm (s.eng d e) w) (h : s.CanSend d e w) (hx : s.Executing d e w (1 + (s.eng d e).out.g Hd.beats))
    (htarget : s.sendTarget d (outMsg (s.eng d e)) = none) :
    let t := doEngSend d e s
    let tag := s.sendTag d e w
    s.SentTag t d e w tag St.notPresent (some ((s.sendMsg d e w tag).replyTo d (8 + e) St.notPresent)) ∧
      t = { s.fetchEcc d e with draws := s.draws + 1, engs := t.engs, engReg := t.engReg } := by
  have htarget' : (s.fetchEcc d e).sendTarget d (outMsg ((s.fetchEcc d e).eng d e)) = none := by
    rw [(s.fetchEcc_checks d e).sendTarget, State.eng_fetchEcc, htarget]
  dsimp only
  rw [doEngSend_eq hf hx, h.fetched.sendBody, htarget', State.sendTag_fetchEcc, State.sendMsg_fetchEcc]
  refine ⟨State.sendWrites_sent rfl rfl, ?_⟩
  have hframe := (s.fetchEcc d e).sendWrites_frame d e w (some ((s.sendMsg d e w (s.sendTag d e w)).replyTo d (8 + e) St.notPresent))
  obtain ⟨v, hv⟩ : ∃ v, v = (s.fetchEcc d e).sendWrites d e w (some ((s.sendMsg d e w (s.sendTag d e w)).replyTo d (8 + e) St.notPresent)) := ⟨_, rfl⟩
  rw [← hv] at hframe ⊢
  have honly := (EngOnly.refl v).engDoneS d e (1 + (s.sendMsg d e w (s.sendTag d e w)).g Hd.beats) (o := ost St.notPresent false false 0)
    (.inl (ost_poison ..))
  unfold EngOnly at honly
  rw [honly, hframe, State.fetchEcc_draws]

theorem doEngSend_sent (hf : SendForm (s.eng d e) w) (h : s.CanSend d e w) (hx : s.Executing d e w (1 + (s.eng d e).out.g Hd.beats))
    {die ep : Nat} (htarget : s.sendTarget d (outMsg (s.eng d e)) = some (die, ep)) :
    let t := doEngSend d e s
    let tag := s.sendTag d e w
    let k := xkey d (13 + e / 8) ((s.eng d e).out.g Hd.vc)
    s.SentTag t d e w tag 0 none ∧
      SMap.get [] t.xin k = SMap.get [] s.xin k ++ [⟨s.serial, routed (s.sendMsg d e w tag) die ep, die, ep⟩] ∧
      (∀ j ≠ k, SMap.get [] t.xin j = SMap.get [] s.xin j) ∧
      t = { s.fetchEcc d e with draws := s.draws + 1, serial := s.serial + 1, engs := t.engs, engReg := t.engReg, xin := t.xin } := by
  have hc := s.fetchEcc_checks d e
  have htarget' : (s.fetchEcc d e).sendTarget d (outMsg ((s.fetchEcc d e).eng d e)) = some (die, ep) := by
    rw [hc.sendTarget, State.eng_fetchEcc, htarget]
  dsimp only
  rw [doEngSend_eq hf hx, h.fetched.sendBody, htarget', State.sendTag_fetchEcc, State.sendMsg_fetchEcc]
  obtain ⟨m, hm⟩ : ∃ m, m = s.sendMsg d e w (s.sendTag d e w) := ⟨_, rfl⟩
  obtain ⟨v, hv⟩ : ∃ v, v = (s.fetchEcc d e).sendWrites d e w none := ⟨_, rfl⟩
  have hframe := (s.fetchEcc d e).sendWrites_frame d e w none
  rw [← hv, State.fetchEcc_draws] at hframe
  have hvc : (routed m die ep).g Hd.vc = (s.eng d e).out.g Hd.vc := by rw [routed_vc, hm, s.sendMsg_g d e w _ Hd.vc (by decide)]
  have hfits : s.fitsIn d (13 + e / 8) (routed m die ep) = true :=
    (State.fitsIn_congr (m := outMsg (s.eng d e)) rfl rfl hvc (by rw [routed_beats, hm, State.sendMsg_beats]) _ _).trans h.fits
  have hxin : v.xin = s.xin := (congrArg State.xin hframe :).trans hc.xin
  have hxsrc : v.xsrc = s.xsrc := (congrArg State.xsrc hframe :).trans hc.xsrc
  have hserial : v.serial = s.serial := (congrArg State.serial hframe :).trans (State.fetchEcc_serial ..)
  have hinject := State.inject_fits hxin hxsrc hserial hfits die ep
  rw [hvc] at hinject
  obtain ⟨u, hu⟩ : ∃ u, u = v.inject d (13 + e / 8) (routed m die ep) die ep := ⟨_, rfl⟩
  rw [← hu] at hinject
  have hsent : s.SentTag (u.engDoneS d e (1 + m.g Hd.beats) (ost 0 false false 0)) d e w (s.sendTag d e w) 0 none := by
    rw [hm]
    refine State.sendWrites_sent ?_ ?_
    · rw [← hv]; exact (congrArg State.engs hinject :)
    · rw [← hv]; exact (congrArg State.engReg hinject :)
  have honly := (EngOnly.refl u).engDoneS d e (1 + m.g Hd.beats) (o := ost 0 false false 0) (.inl (ost_poison ..))
  rw [← hm, ← hv]
  dsimp only
  rw [← hu]
  obtain ⟨t, ht⟩ : ∃ t, t = u.engDoneS d e (1 + m.g Hd.beats) (ost 0 false false 0) := ⟨_, rfl⟩
  rw [← ht] at honly hsent ⊢
  unfold EngOnly at honly
  have hxin' : t.xin = u.xin := (congrArg State.xin honly :)
  refine ⟨hsent, ?_, fun j hj => ?_, ?_⟩
  · rw [hxin', hinject]
    exact SMap.get_set_same ..
  · rw [hxin', hinject]
    exact SMap.get_set_other _ _ _ _ j hj
  · rw [honly, hinject, hframe]

/-! ## WAITR (R125) -/

theorem ost_calm {st : Nat} {m : Msg} {a : Nat} (h : m.g Hd.poison = 0 ∨ s.fbit a EngCtrl.ptrap = false) :
    Ost.poison.bit (ost st m.poisoned false 0) = false ∨ s.fbit a EngCtrl.ptrap = false := by
  refine h.imp_left fun h => ?_
  rw [ost_poison]
  simp [Msg.poisoned, h]

/-- The record once WAITR claimed the response `m` of buffer `b`. -/
def Engine.claim (x : Engine) (tag : Nat) (m : Msg) : Engine :=
  { x with
    bufs := (x.bufs.filter (fun c => !c.claimed)).map (fun c => if c.xtag == tag then { c with claimed := true } else c)
    rsp := some m }

theorem State.waitrBody_claims {b : RspBuf} {m : Msg}
    (hfind : (s.eng d e).bufs.find? (fun b => b.xtag == (s.reg d e (Ins.rs1 w)).toNat % 65536 && !b.claimed && !b.unit) = some b)
    (hrank : b.dir = true → s.rankBlocked d e = false) (hrsp : b.rsp = some m) :
    s.waitrBody d e w = (s.setEng d e ((s.eng d e).claim b.xtag m)).engDoneS d e 1 (ost (rspStatus m) m.poisoned false 0) := by
  have htag : b.xtag = (s.reg d e (Ins.rs1 w)).toNat % 65536 := by
    have := List.find?_some hfind
    simp only [Bool.and_eq_true, beq_iff_eq] at this
    exact this.1.1
  have hblocked : (b.dir && s.rankBlocked d e) = false := by
    cases hb : b.dir with
    | false => rfl
    | true => exact hrank hb
  rw [htag]
  unfold State.waitrBody Engine.claim
  dsimp only
  rw [hfind]
  dsimp only
  rw [hblocked, hrsp, if_neg Bool.false_ne_true]

theorem State.rankBlocked_fetchEcc (s : State) (d : Die) (e : Eng) : (s.fetchEcc d e).rankBlocked d e = s.rankBlocked d e := by
  have hctrl : (s.fetchEcc d e).csrGet (Csr.dirCtrl d) = s.csrGet (Csr.dirCtrl d) := (s.fetchEcc_checks d e).csrGet_low d (by decide)
  unfold State.rankBlocked
  rw [State.eng_fetchEcc, State.fget_congr hctrl]

/-! ## Responses that arrive (R125) -/

/-- From `s` to `u`, endpoint `n` of die `d` took the message at the head of its buffer of channel `v`. -/
structure State.Drew (s u : State) (d n v : Nat) (rest : List XMsg) : Prop where
  out : SMap.get [] u.xout (xkey d n v) = rest
  regs : OnlyRegs s u [Csr.xbCredit d n v]
  frame : u = { s with csr := u.csr, xout := u.xout }

theorem State.takeOut_drew {v n : Nat} {y : XMsg} {rest : List XMsg} (h : SMap.get [] s.xout (xkey d n v) = y :: rest) :
    ∃ u, s.takeOut d n v = some (y, u) ∧ s.Drew u d n v rest :=
  ⟨_, State.takeOut_cons h, SMap.get_set_same _ _ _ _, .count (.of_csr rfl _) (by simp) _ _, rfl⟩

theorem State.Drew.engs {n v : Nat} {rest : List XMsg} (h : s.Drew u d n v rest) : u.engs = s.engs := (congrArg State.engs h.frame :)

theorem State.Drew.engReg {n v : Nat} {rest : List XMsg} (h : s.Drew u d n v rest) : u.engReg = s.engReg := (congrArg State.engReg h.frame :)

theorem Vc.code_lt (v : Vc) : Vc.code v < 5 := by
  cases v <;> decide

theorem State.Drew.ptrap {c : Fin 8} {v : Vc} {rest : List XMsg} (h : s.Drew u d (13 + c) (Vc.code v) rest) :
    u.fbit (Csr.engCtrl d e) EngCtrl.ptrap = s.fbit (Csr.engCtrl d e) EngCtrl.ptrap := by
  have hne : Csr.engCtrl d e ≠ Csr.xbCredit d (13 + c) (Vc.code v) := by
    have := Vc.code_lt v
    have := c.isLt
    simp only [Csr.engCtrl, Csr.xbCredit, csrAddr]
    omega
  unfold State.fbit
  rw [State.fget_congr (h.regs _ (by simpa using hne))]

/-- A message that leaves its endpoint's buffer is one of the engine that its header names. -/
theorem doEngineResponseArrive_eq {c : Fin 8} {v : Vc} {y : XMsg} (hsluice : s.sluiceOpen d = true)
    (htake : s.takeOut d (13 + c) (Vc.code v) = some (y, u)) (hkind : y.msg.g Hd.dkind = 4) (hidx : y.msg.g Hd.destIdx = 8 + e) :
    doEngineResponseArrive d c v s =
      if (u.eng d e).bufs.any (fun b => b.xtag == y.msg.g Hd.xtag && b.unit) then u.accDone d e y.msg
      else if (u.eng d e).bufs.any (fun b => b.xtag == y.msg.g Hd.xtag && b.rsp.isNone) then
        u.setEng d e { u.eng d e with bufs := (u.eng d e).bufs.map (fun b =>
          if b.xtag == y.msg.g Hd.xtag && b.rsp.isNone then { b with rsp := some y.msg } else b) }
      else u.count (Csr.engMiscCnt d) EngMiscCnt.lateRsp 1 := by
  have he : (8 + e.val - 8) % 64 = e := by have := e.isLt; omega
  unfold doEngineResponseArrive
  rw [hsluice, htake, Bool.not_true, if_neg Bool.false_ne_true]
  dsimp only
  rw [hidx, hkind, he]
  rfl

/-- The record without the buffer of tag `n`. -/
def Engine.freed (x : Engine) (n : Nat) : Engine := { x with bufs := x.bufs.filter (fun b => b.xtag ≠ n) }

/-- The value of an access goes to the register or pair that its instruction names. -/
def State.setRd (s : State) (d e : Nat) (rd : Option Nat) (pair : Bool) (v : BitVec 64) : State :=
  match rd with
  | some c => s.setRegs d e c pair v
  | none => s

theorem State.setRd_engs (s : State) (d e : Nat) (rd : Option Nat) (pair : Bool) (v : BitVec 64) : (s.setRd d e rd pair v).engs = s.engs := by
  cases rd with
  | none => rfl
  | some c => exact State.setRegs_engs ..

theorem EngOnly.setRd (h : EngOnly s t) (d e : Nat) (rd : Option Nat) (pair : Bool) (v : BitVec 64) : EngOnly s (t.setRd d e rd pair v) := by
  cases rd with
  | none => exact h
  | some c => exact h.setRegs d e c pair v

/-- The response to an access by message that the engine waits for. -/
theorem State.accDone_waiting {m : Msg} {rd : Option Nat} {pair : Bool} {half : Option Bool}
    (hwait : (s.eng d e).wait = .resp (m.g Hd.xtag) rd pair half) :
    s.accDone d e m = ((s.setEng d e ((s.eng d e).freed (m.g Hd.xtag))).setRd d e rd pair (halfOf half ((m.beats.headD 0).setWidth 64))).engDoneS d e 0
      (ost (m.g Hd.status) m.poisoned false 0) := by
  unfold State.accDone
  dsimp only
  split
  · rename_i tag rd' pair' half' h
    rw [hwait, EWait.resp.injEq] at h
    obtain ⟨rfl, rfl, rfl, rfl⟩ := h
    rw [if_neg (by simp)]
    cases rd <;> rfl
  · rename_i h
    exact absurd hwait (h _ _ _ _)

/-- A step that keeps the registers. -/
theorem WroteRegs.keep {d e c : Nat} {pair : Bool} {v : BitVec 64} (h : WroteRegs s u d e c pair v) (ht : t.engReg = u.engReg) :
    WroteRegs s t d e c pair v := by
  cases pair with
  | false =>
    obtain ⟨hreg, hrest⟩ := h
    exact ⟨(State.regIn_congr ht ..).trans hreg, fun k hk => by rw [ht]; exact hrest k hk⟩
  | true =>
    obtain ⟨hlow, hhigh, hrest⟩ := h
    exact ⟨(State.regIn_congr ht ..).trans hlow, (State.regIn_congr ht ..).trans hhigh, fun k hk hk' => by rw [ht]; exact hrest k hk hk'⟩

/-! ## FWCP (R118) -/

theorem fwcpOut_header (x : Engine) (all : Bool) (im : InMsg) (him : x.inMsg = some im) {o : Nat} (ho : o < 64) :
    windowWord (fwcpOut x all) o = windowWord im.msg o := by
  unfold windowWord fwcpOut
  rw [if_pos ho, if_pos ho, him]

theorem fwcpOut_data (x : Engine) (im : InMsg) (him : x.inMsg = some im) {o : Nat} (ho : 64 ≤ o) (ho' : o < 64 + 64 * im.msg.beats.length) :
    windowWord (fwcpOut x true) o = windowWord im.msg o := by
  unfold windowWord fwcpOut
  rw [if_neg (by omega), if_neg (by omega), him]
  dsimp only
  rw [if_pos rfl, List.getD_append _ _ _ _ (by omega)]

theorem fwcpOut_kept (x : Engine) (all : Bool) (im : InMsg) (him : x.inMsg = some im) {o : Nat} (ho : 64 ≤ o)
    (ho' : all = true → 64 + 64 * im.msg.beats.length ≤ o) : windowWord (fwcpOut x all) o = windowWord x.out o := by
  unfold windowWord fwcpOut
  rw [if_neg (by omega), if_neg (by omega), him]
  cases all with
  | false => rfl
  | true =>
    specialize ho' rfl
    dsimp only
    rw [if_pos rfl, List.getD_append_right _ _ _ _ (by omega), List.getD_eq_getElem?_getD, List.getD_eq_getElem?_getD, List.getElem?_drop,
      Nat.add_sub_cancel' (by omega)]

end

/-! ## O13 -/

/-- Settles O13: the sending, the claim of a response, its arrival, and the copy of IN. -/
theorem engineMessages : Obligations.EngineMessages := by
  unfold Obligations.EngineMessages
  constructor
  · intro d e s w x o dk vc rsp res filled goodTag done hop hrd hrs1 himm hvc hbeats hdata hdkind hsnoop hbuffer hsluice hfits hx
    have hf : SendForm (s.eng d e) w := ⟨hop, hrd, hrs1, himm, hvc, hbeats, hdata, hdkind⟩
    have hcan : s.CanSend d e w := ⟨hsnoop, hbuffer, hsluice, hfits⟩
    have hdone {t : State} {st : Nat} {r : Option Msg} (h : s.SentTag t d e w (s.sendTag d e w) st r) : done t (s.sendTag d e w) st r := by
      obtain ⟨hreg, hrec, hothers⟩ := h
      rw [sendRecord_eq] at hrec
      exact ⟨hreg, hrec, hothers⟩
    refine ⟨fun die ep htarget => ⟨_, rfl, s.sendTag d e w, State.sendTag_good hcan, ?_⟩, fun htarget => ⟨_, rfl, s.sendTag d e w, State.sendTag_good hcan, ?_⟩⟩
    · obtain ⟨hsent, hlast, hrest, hframe⟩ := doEngSend_sent hf hcan hx htarget
      exact ⟨hdone hsent, hlast, hrest, hframe⟩
    · obtain ⟨hsent, hframe⟩ := doEngSend_lost hf hcan hx htarget
      exact ⟨hdone hsent, hframe⟩
  · intro d e s w x
    refine ⟨fun b m hop hrd hrs1 hrs2 hfn hfind hrank hrsp hcalm hx => ⟨_, rfl, ?_⟩, fun c vc y rest hsluice hhead hkind hidx hunit hbuf => ⟨_, rfl, ?_⟩,
      fun c vc y rest rd pair half hsluice hhead hkind hidx hunit hwait hrd hcalm => ⟨_, rfl, ?_⟩, fun im him hop hlow => ?_⟩
    · have hc := s.fetchEcc_checks d e
      have hcalm' : m.g Hd.poison = 0 ∨ ((s.fetchEcc d e).setEng d e (x.claim b.xtag m)).fbit (Csr.engCtrl d e) EngCtrl.ptrap = false :=
        hcalm.imp_right fun h => (hc.ptrap (e := e)).trans h
      have hbody : doEngWaitr d e s = (s.fetchEcc d e).waitrBody d e w :=
        State.engRun_body hx (by decide) (by simp [opIs, hop]) (by simp [legalWaitr, regOk, hrd, hrs1, hrs2, hfn]) rfl
      rw [hbody, State.waitrBody_claims (b := b) (m := m) (by rw [State.eng_fetchEcc, State.reg_fetchEcc]; exact hfind)
        (by rw [State.rankBlocked_fetchEcc]; exact hrank) hrsp, State.eng_fetchEcc]
      refine ⟨((OnlyRecords.refl _).engDoneS d e 1 (ost_calm hcalm')).engReg.trans (State.fetchEcc_engReg ..), ?_⟩
      exact .of (((State.Runs.fetched s d e).setEng (x.claim b.xtag m)).engDoneS 1 (ost_calm hcalm'))
        (((EngOnly.refl _).setEng ..).engDoneS d e 1 (ost_calm hcalm'))
    · obtain ⟨u, htake, hdrew⟩ := State.takeOut_drew hhead
      have hu : u.eng d e = x := State.eng_congr hdrew.engs d e
      rw [doEngineResponseArrive_eq hsluice htake hkind hidx, hu, if_neg (by rw [hunit]; decide), if_pos hbuf]
      have hruns := (State.Runs.of_engs (d := d) (e := e) hdrew.engs).setEng { x with bufs := x.bufs.map (fun b =>
        if b.xtag == y.msg.g Hd.xtag && b.rsp.isNone then { b with rsp := some y.msg } else b) }
      refine ⟨hruns.eng, hruns.others, hdrew.out, hdrew.regs, ?_⟩
      rw [hdrew.frame]
      rfl
    · obtain ⟨u, htake, hdrew⟩ := State.takeOut_drew hhead
      have hu : u.eng d e = x := State.eng_congr hdrew.engs d e
      rw [doEngineResponseArrive_eq hsluice htake hkind hidx, hu, if_pos hunit, State.accDone_waiting (by rw [hu]; exact hwait), hu]
      obtain ⟨v, hv⟩ : ∃ v, v = halfOf half ((y.msg.beats.headD 0).setWidth 64) := ⟨_, rfl⟩
      have hruns := ((State.Runs.of_engs (d := d) (e := e) hdrew.engs).setEng (x.freed (y.msg.g Hd.xtag))).keep (State.setRd_engs _ d e rd pair v)
      have honly := ((EngOnly.refl u).setEng d e (x.freed (y.msg.g Hd.xtag))).setRd d e rd pair v
      have hwrote (r : Nat) (h : rd = some r) : WroteRegs s ((u.setEng d e (x.freed (y.msg.g Hd.xtag))).setRd d e rd pair v) d e r pair v := by
        refine .of (u := u.setEng d e (x.freed (y.msg.g Hd.xtag))) (fun hp => ?_) hdrew.engReg (by rw [State.eng_setEng_same]; rfl) (by rw [h]; rfl)
        have := hrd r h
        rwa [if_pos hp] at this
      have hkept (h : rd = none) : ((u.setEng d e (x.freed (y.msg.g Hd.xtag))).setRd d e rd pair v).engReg = s.engReg := by
        rw [h]
        exact hdrew.engReg
      rw [← hv]
      obtain ⟨z, hz⟩ : ∃ z, z = (u.setEng d e (x.freed (y.msg.g Hd.xtag))).setRd d e rd pair v := ⟨_, rfl⟩
      rw [← hz] at hruns honly hwrote hkept ⊢
      have hcalm' : y.msg.g Hd.poison = 0 ∨ z.fbit (Csr.engCtrl d e) EngCtrl.ptrap = false := hcalm.imp_right fun h => by
        rw [honly.checks.ptrap, hdrew.ptrap, h]
      replace hcalm' := ost_calm (st := y.msg.g Hd.status) hcalm'
      have hend := (OnlyRecords.refl z).engDoneS d e 0 hcalm'
      have hall := honly.engDoneS d e 0 hcalm'
      obtain ⟨t, ht⟩ : ∃ t, t = z.engDoneS d e 0 (ost (y.msg.g Hd.status) y.msg.poisoned false 0) := ⟨_, rfl⟩
      have hrec := hruns.engDoneS 0 hcalm'
      rw [← ht] at hend hall hrec ⊢
      have hxout : t.xout = u.xout := (congrArg State.xout hall :)
      refine ⟨fun r h => ?_, fun h => hend.engReg.trans (hkept h), hrec.eng, hrec.others, by rw [hxout]; exact hdrew.out,
        hdrew.regs.trans (.of_csr hall.csr _), ?_⟩
      · exact (hwrote r h).keep hend.engReg
      · unfold EngOnly at hall
        rw [hall, hdrew.frame]
    · intro all n hx
      have hcost : fwcpCost x w = n := by
        unfold fwcpCost inBeats
        rw [him]
        by_cases hfn : Ins.fn w = 1 <;> simp [n, hfn]
      have hbody : doEngFwcp d e s = ((s.fetchEcc d e).setEng d e { x with out := fwcpOut x (Ins.fn w == 1) }).engDone d e n := by
        unfold doEngFwcp
        rw [State.engRun_body hx (by simp only [n]; split <;> omega) (by simp [opIs, hop]) (by simp [legalFwcp, hlow])
          (by rw [State.eng_fetchEcc]; exact hcost)]
        dsimp only
        rw [State.eng_fetchEcc, hcost]
      have hran : EngRan s (doEngFwcp d e s) d e ({ x with out := fwcpOut x (Ins.fn w == 1) }.went n (x.pc + 1)) := by
        rw [hbody]
        exact .of (((State.Runs.fetched s d e).setEng _).engDone n) (((EngOnly.refl _).setEng ..).engGo ..)
      have hout : ((doEngFwcp d e s).eng d e).out = fwcpOut x (Ins.fn w == 1) := by rw [hran.1]; rfl
      refine ⟨_, rfl, ?_⟩
      beta_reduce
      rw [hout]
      refine ⟨fun o ho => fwcpOut_header x _ im him ho, fun hall o ho ho' => ?_, fun o ho ho' => fwcpOut_kept x _ im him ho fun h => ho' (beq_iff_eq.1 h),
        ?_, hran⟩
      · rw [show (Ins.fn w == 1) = true from beq_iff_eq.2 hall]
        exact fwcpOut_data x im him ho ho'
      · rw [hbody]
        exact State.fetchEcc_engReg ..

end Sys2Proof.Machine

end

section

/-! PROOFS. BATOM, DQPUSH and DQPOP (03 R133, R135; 07 R241, R253, R254), and O14. -/

namespace Sys2Proof.Machine

section
variable {s t u : State} {d : Die} {e : Eng} {w : Word}

/-! ## BATOM (R133) -/

theorem State.batomBody_own {b o : Nat} {op : BitVec 64 → BankOp} (hunit : s.unitAt (s.reg d e (Ins.rs1 w)).toNat = .bank d b o) (ho : o % 8 = 0)
    (hsluice : s.sluiceOpen d = true) : s.batomBody d e w op = (s.askBank d e b (o / 8) none (op (s.pair d e (Ins.rs2 w)))).setEng d e
      { s.eng d e with run := (s.eng d e).run + 1, wait := .bank (Ins.rd w) true true } := by
  unfold State.batomBody
  simp [hunit, ho, hsluice]

theorem State.batomBody_other {b o dd tag : Nat} {op : BitVec 64 → BankOp} (hunit : s.unitAt (s.reg d e (Ins.rs1 w)).toNat = .bank dd b o)
    (ho : o % 8 = 0) (hsluice : s.sluiceOpen d = true) (hdd : dd ≠ d)
    (hsend : s.askBankMsg d e (s.reg d e (Ins.rs1 w)).toNat dd (op (s.pair d e (Ins.rs2 w))) = some (tag, u)) :
    s.batomBody d e w op = u.setEng d e { u.eng d e with run := (s.eng d e).run + 1, wait := .resp tag (some (Ins.rd w)) true none } := by
  unfold State.batomBody
  simp [hunit, ho, hsluice, hdd, hsend]

/-- The two forms of BATOM. -/
theorem doEngBatom_eq {swap : Bool} {op : BitVec 64 → BankOp} (hop : Ins.op w = 0x2A) (hrd : pairOk (Ins.rd w) = true) (hrs1 : Ins.rs1 w < 24)
    (hrs2 : pairOk (Ins.rs2 w) = true) (hfn : Ins.fn w = b2n swap) (hx : s.Executing d e w 1) :
    s.engRun d e (batomIs swap) legalBatom (cyc 1) (fun s w => s.batomBody d e w op) = (s.fetchEcc d e).batomBody d e w op := by
  refine State.engRun_body hx (by decide) ?_ ?_ rfl
  · cases swap <;> simp [batomIs, opIs, hop, hfn, b2n]
  · cases swap <;> simp [legalBatom, regOk, hrd, hrs1, hrs2, hfn, b2n]

/-! ## DQPUSH (R135) -/

theorem State.ditchOf_fetchEcc (s : State) (d : Die) (e : Eng) (w : Word) : (s.fetchEcc d e).ditchOf d e w = s.ditchOf d e w := by
  unfold State.ditchOf
  rw [State.reg_fetchEcc]

theorem doEngDqpush_eq (hop : Ins.op w = 0x2B) (hrd : pairOk (Ins.rd w) = true) (hrs1 : Ins.rs1 w < 24) (himm : Ins.imm w < 512)
    (hx : s.Executing d e w 2) : doEngDqpush d e s = (s.fetchEcc d e).dqpushBody d e w :=
  State.engRun_body hx (by decide) (by simp [opIs, hop]) (by simp [legalDqpush, regOk, hrd, hrs1, himm]) rfl

/-- The item that DQPUSH makes of its pair. -/
def State.pushItem (s : State) (d e : Nat) (w : Word) : DitchItem :=
  { data := s.pair d e (Ins.rd w), prio := ⟨Ins.imm w / 64 % 8, by omega⟩, poison := false }

theorem State.dqpushBody_room {d e : Nat} (h : (s.eng d e).pushes.length < 4) :
    s.dqpushBody d e w = (State.setEng { s with serial := s.serial + 1 } d e { s.eng d e with
      pushes := (s.eng d e).pushes ++ [⟨s.serial, s.ditchOf d e w, s.pushItem d e w⟩] }).engDoneS d e 2 (ost 0 false false 0) := by
  unfold State.dqpushBody
  dsimp only
  rw [if_pos h]
  rfl

theorem State.dqpushBody_full {d e : Nat} (h : 4 ≤ (s.eng d e).pushes.length) :
    s.dqpushBody d e w = ((s.count (Csr.dqCnt d (s.ditchOf d e w)) DqCnt.drop 1).noticeLim d 0x0407 0
      [(1, d), (1, s.ditchOf d e w), (1, e)]).engDoneS d e 2 (ost 0 false false 0) := by
  unfold State.dqpushBody
  dsimp only
  rw [if_neg (by omega)]

/-! ## The steps of a ditch (07 R254) -/

/-- From `s` to `t` beside the ditch only its counts and flags and notices changed. -/
structure State.Ditched (s t : State) (d q : Nat) : Prop where
  regs : OnlyRegs s t [Csr.dqFlags d q, Csr.dqErrCnt d q, Csr.ndQdropCnt (queueOf d)]
  frame : t = { s with csr := t.csr, queues := t.queues, windows := t.windows, ditches := t.ditches }

theorem State.Ditched.refl (s : State) (d q : Nat) : s.Ditched s d q := ⟨.refl _ _, rfl⟩

theorem State.Ditched.trans {d q : Nat} (h : s.Ditched t d q) (h' : t.Ditched u d q) : s.Ditched u d q := by
  refine ⟨h.regs.trans h'.regs, ?_⟩
  rw [h'.frame, h.frame]

theorem State.Ditched.setDitch {d q : Nat} (h : s.Ditched t d q) (x : DitchSt) : s.Ditched (t.setDitch d q x) d q :=
  h.trans ⟨.of_csr rfl _, rfl⟩

theorem Reports.ditched {d q : Nat} (h : Reports s t) (hregs : OnlyRegs s t [Csr.dqFlags d q, Csr.dqErrCnt d q, Csr.ndQdropCnt (queueOf d)]) :
    s.Ditched t d q := ⟨hregs, by unfold Reports at h; rw [h]⟩

theorem Reports.fsetBit (h : Reports s t) (a : Nat) (f : Fld) (i : Nat) (b : Bool) : Reports s (t.fsetBit a f i b) := h.set a _

theorem OnlyRegs.fsetBit {as : List Nat} {a : Nat} (h : OnlyRegs s t as) (ha : a ∈ as) (f : Fld) (i : Nat) (b : Bool) :
    OnlyRegs s (t.fsetBit a f i b) as := h.set ha _

theorem State.weirEdge_reports (s : State) (d q edge level : Nat) (b : Bool) : Reports s (s.weirEdge d q edge level b) := by
  unfold State.weirEdge
  split
  · exact .refl s
  · dsimp only
    split
    · exact (((Reports.refl s).fsetBit _ _ _ _).count _ _ _).notice _ _ _
    · exact ((Reports.refl s).fsetBit _ _ _ _).count _ _ _

theorem State.weirEdge_ditched (s : State) (d q edge level : Nat) (b : Bool) : s.Ditched (s.weirEdge d q edge level b) d q := by
  refine (s.weirEdge_reports d q edge level b).ditched ?_
  have hflags : Csr.dqFlags d q ∈ [Csr.dqFlags d q, Csr.dqErrCnt d q, Csr.ndQdropCnt (queueOf d)] := List.mem_cons_self
  have herr : Csr.dqErrCnt d q ∈ [Csr.dqFlags d q, Csr.dqErrCnt d q, Csr.ndQdropCnt (queueOf d)] := List.mem_cons_of_mem _ List.mem_cons_self
  have hdrop : Csr.ndQdropCnt (queueOf d) ∈ [Csr.dqFlags d q, Csr.dqErrCnt d q, Csr.ndQdropCnt (queueOf d)] :=
    List.mem_cons_of_mem _ (List.mem_cons_of_mem _ List.mem_cons_self)
  unfold State.weirEdge
  split
  · exact .refl s _
  · dsimp only
    split
    · exact (((OnlyRegs.refl s _).fsetBit hflags _ _ _).count herr _ _).notice hdrop _ _
    · exact ((OnlyRegs.refl s _).fsetBit hflags _ _ _).count herr _ _

theorem State.weirEdge_ditches (s : State) (d q edge level : Nat) (b : Bool) : (s.weirEdge d q edge level b).ditches = s.ditches :=
  (congrArg State.ditches (s.weirEdge_reports d q edge level b) :)

theorem State.ditch_congr (h : t.ditches = s.ditches) (d q : Nat) : t.ditch d q = s.ditch d q := by
  unfold State.ditch
  rw [h]

@[simp] theorem State.ditch_setDitch (s : State) (d q : Nat) (x : DitchSt) : (s.setDitch d q x).ditch d q = x := SMap.get_set_same ..

/-- Two ditches with the same banks in the same roles. -/
structure DitchSt.Alike (x y : DitchSt) : Prop where
  bank0 : y.bank0 = x.bank0
  bank1 : y.bank1 = x.bank1
  role : y.drain1 = x.drain1

theorem DitchSt.Alike.trans {x y z : DitchSt} (h : x.Alike y) (h' : y.Alike z) : x.Alike z :=
  ⟨h'.bank0.trans h.bank0, h'.bank1.trans h.bank1, h'.role.trans h.role⟩

theorem DitchSt.Alike.drain {x y : DitchSt} (h : x.Alike y) : y.drain = x.drain := by
  unfold DitchSt.drain
  rw [h.bank0, h.bank1, h.role]

theorem DitchSt.Alike.fill {x y : DitchSt} (h : x.Alike y) : y.fill = x.fill := by
  unfold DitchSt.fill
  rw [h.bank0, h.bank1, h.role]

theorem DitchSt.Alike.exchange {x y : DitchSt} (h : x.Alike y) : x.exchange.Alike y.exchange := by
  unfold DitchSt.exchange
  rw [h.drain, h.fill]
  split
  · exact ⟨h.bank0, h.bank1, congrArg (!·) h.role⟩
  · exact h

/-- The comparison with the weirs (R259) leaves the banks. -/
theorem State.ditchLevel_alike (s : State) (d q : Nat) : s.Ditched (s.ditchLevel d q) d q ∧ (s.ditch d q).Alike ((s.ditchLevel d q).ditch d q) := by
  unfold State.ditchLevel
  dsimp only
  refine ⟨(((((State.Ditched.refl s d q).setDitch _).trans (State.weirEdge_ditched ..)).trans (State.weirEdge_ditched ..)).trans
    (State.weirEdge_ditched ..)).trans (State.weirEdge_ditched ..), ?_⟩
  rw [State.ditch_congr (State.weirEdge_ditches ..), State.ditch_congr (State.weirEdge_ditches ..), State.ditch_congr (State.weirEdge_ditches ..),
    State.ditch_congr (State.weirEdge_ditches ..), State.ditch_setDitch]
  exact ⟨rfl, rfl, rfl⟩

theorem State.ditchEnd_alike (s : State) (d q : Nat) : s.Ditched (s.ditchEnd d q) d q ∧ (s.ditch d q).Alike ((s.ditchEnd d q).ditch d q) := by
  unfold State.ditchEnd
  dsimp only
  split
  · exact ⟨.refl s d q, rfl, rfl, rfl⟩
  · obtain ⟨hstep, halike⟩ := State.ditchLevel_alike (s.setDitch d q { s.ditch d q with step := 0 }) d q
    rw [State.ditch_setDitch] at halike
    exact ⟨((State.Ditched.refl s d q).setDitch _).trans hstep, halike.bank0, halike.bank1, halike.role⟩

/-- The turn of an engine's pop finds the banks exchanged. -/
theorem State.ditchTurn_pop (s : State) (d q : Nat) :
    s.Ditched (s.ditchTurn d q 3) d q ∧ (s.ditch d q).exchange.Alike ((s.ditchTurn d q 3).ditch d q) := by
  unfold State.ditchTurn
  dsimp only
  split
  · rw [State.ditch_setDitch]
    exact ⟨(State.Ditched.refl s d q).setDitch _, rfl, rfl, rfl⟩
  · obtain ⟨hend, halike⟩ := s.ditchEnd_alike d q
    rw [State.ditch_setDitch]
    exact ⟨hend.setDitch _, halike.exchange.bank0, halike.exchange.bank1, halike.exchange.role⟩

/-! ## DQPOP (07 R253, R254) -/

theorem State.fetched_fetchEcc (s : State) (d e d' e' : Nat) : (s.fetchEcc d e).fetched d' e' = s.fetched d' e' := by
  have hbad (k : Nat) : SMap.get 0 (s.fetchEcc d e).storeBad k ≤ 1 ↔ SMap.get 0 s.storeBad k ≤ 1 := by
    have := s.fetchEcc_uncorrectable d e k
    omega
  unfold State.fetched State.storeWord
  simp only [State.eng_fetchEcc, State.fetchEcc_store, hbad]

theorem State.canRun_fetchEcc (s : State) (d : Die) (e e' : Eng) : (s.fetchEcc d e).canRun d e' = s.canRun d e' := by
  unfold State.canRun State.halted
  rw [State.eng_fetchEcc, (s.fetchEcc_checks d e).clockOn, (s.fetchEcc_checks d e).fbit (engCtrl_ne_engEccCnt d e')]

theorem State.popTurn_fetchEcc (s : State) (d : Die) (e : Eng) (q : Nat) (empty : Bool) :
    (s.fetchEcc d e).popTurn d q empty e = s.popTurn d q empty e := by
  have hwaits (i : Eng) : (s.fetchEcc d e).popWaits d q empty i = s.popWaits d q empty i := by
    unfold State.popWaits State.ditchOf
    simp only [State.canRun_fetchEcc, State.fetched_fetchEcc, State.eng_fetchEcc, State.reg_fetchEcc]
  unfold State.popTurn firstFrom
  rw [State.fetchEcc_ditchRr]
  congr 1
  refine List.find?_congr fun i hi => ?_
  obtain ⟨j, -, rfl⟩ := List.mem_map.1 hi
  exact congrArg _ (hwaits ⟨_, Nat.mod_lt _ (by decide)⟩)

theorem doEngDqpop_eq (hop : Ins.op w = 0x2C) (hrd : pairOk (Ins.rd w) = true) (hrs1 : Ins.rs1 w < 24) (himm : Ins.imm w < 1024)
    (hzero : Ins.imm w / 64 % 8 = 0) (hx : s.Executing d e w 2) : doEngDqpop d e s = (s.fetchEcc d e).dqpopBody d e w :=
  State.engRun_body hx (by decide) (by simp [opIs, hop]) (by simp [legalDqpop, regOk, hrd, hrs1, himm, hzero]) rfl

/-- A DQPOP that is turned away waits and is executed again. -/
theorem State.stalls (s : State) (d : Die) (e : Eng) :
    ((s.fetchEcc d e).engStall d e).engReg = s.engReg ∧ EngRan s ((s.fetchEcc d e).engStall d e) d e { s.eng d e with wait := .retry } := by
  unfold State.engStall
  rw [State.eng_fetchEcc]
  exact ⟨State.fetchEcc_engReg .., .of ((State.Runs.fetched s d e).setEng _) ((EngOnly.refl _).setEng ..)⟩

/-- Nothing but the turn keeps a DQPOP from being served. -/
structure State.CanPop (s : State) (d e q : Nat) : Prop where
  sluice : s.sluiceOpen d = true
  pushes : ∀ p ∈ (s.eng d e).pushes, p.q ≠ q

theorem State.CanPop.fetched {q : Nat} (h : s.CanPop d e q) : (s.fetchEcc d e).CanPop d e q :=
  ⟨by rw [(s.fetchEcc_checks d e).sluiceOpen]; exact h.sluice, by rw [State.eng_fetchEcc]; exact h.pushes⟩

/-- A DQPOP that is served at its turn. -/
def State.servePop (s : State) (d e q : Nat) (w : Word) : State :=
  let r := State.ditchPop { s.ditchTurn d q 3 with ditchRr := SMap.set 0 (s.ditchTurn d q 3).ditchRr (512 + dqKey d q) ((e + 1) % 64) } d q e
  (r.2.2.setPair d e (Ins.rd w) r.1.data).engDoneS d e 2 (ost 0 r.1.poison r.2.1 r.1.prio.val)

theorem State.CanPop.dqpopBody {d e q : Nat} (hq : s.ditchOf d e w = q) (h : s.CanPop d e q) :
    s.dqpopBody d e w =
      if Ins.imm w / 512 % 2 == 1 && (s.ditch d q).exchange.drain.isEmpty then s.engStall d e
      else if !s.popTurn d q (s.ditch d q).exchange.drain.isEmpty e then s.engStall d e
      else s.servePop d e q w := by
  subst hq
  have hpush : (s.eng d e).pushes.any (·.q == s.ditchOf d e w) = false := by simpa using h.pushes
  have hdrain := (s.ditchTurn_pop d (s.ditchOf d e w)).2.drain
  unfold State.dqpopBody
  dsimp only
  rw [if_neg (by simp [h.sluice, hpush]), hdrain]
  rfl

/-- From `s` to `t` a pop of ditch `q` was served to an engine, which has not taken the item yet. -/
structure State.Popped (s t : State) (d q : Nat) (drain fill : List DItem) : Prop where
  regs : OnlyRegs s t [Csr.dqFlags d q, Csr.dqErrCnt d q, Csr.ndQdropCnt (queueOf d)]
  frame : t = { s with csr := t.csr, queues := t.queues, windows := t.windows, ditches := t.ditches, ditchRr := t.ditchRr }
  drain : (t.ditch d q).drain = drain
  fill : (t.ditch d q).fill = fill

theorem DitchSt.drain_setDrain (x : DitchSt) (l : List DItem) : (x.setDrain l).drain = l := by
  unfold DitchSt.setDrain
  split
  · rename_i h
    simp [DitchSt.drain, h]
  · rename_i h
    simp [DitchSt.drain, h]

theorem DitchSt.fill_setDrain (x : DitchSt) (l : List DItem) : (x.setDrain l).fill = x.fill := by
  unfold DitchSt.setDrain
  split
  · rename_i h
    simp [DitchSt.fill, h]
  · rename_i h
    simp [DitchSt.fill, h]

/-- The engine's pop of an item whose parity holds. -/
theorem State.ditchPop_item (s : State) (d q consumer : Nat) (rr : SMap Nat) {i : DItem}
    (hbest : bestItem (s.ditch d q).exchange.drain = some i) (hparity : laneParity i.item.data = i.parity) :
    ∃ u, State.ditchPop { s.ditchTurn d q 3 with ditchRr := rr } d q consumer = (i.item, false, u) ∧
      s.Popped u d q (dropItem i (s.ditch d q).exchange.drain) (s.ditch d q).exchange.fill := by
  obtain ⟨hstep, halike⟩ := s.ditchTurn_pop d q
  obtain ⟨t, ht⟩ : ∃ t, t = s.ditchTurn d q 3 := ⟨_, rfl⟩
  rw [← ht] at hstep halike ⊢
  have hditch : State.ditch { t with ditchRr := rr } d q = t.ditch d q := rfl
  refine ⟨State.setDitch { t with ditchRr := rr } d q ((t.ditch d q).setDrain (dropItem i (t.ditch d q).drain)), ?_, ?_⟩
  · unfold State.ditchPop
    dsimp only
    rw [hditch, halike.drain, hbest]
    dsimp only
    rw [if_pos (beq_iff_eq.2 hparity)]
  · refine ⟨hstep.regs.trans (.of_csr rfl _), ?_, ?_, ?_⟩
    · unfold State.setDitch
      rw [hstep.frame]
    · rw [State.ditch_setDitch, DitchSt.drain_setDrain, halike.drain]
    · rw [State.ditch_setDitch, DitchSt.fill_setDrain, halike.fill]

/-- A pop that finds no item. -/
theorem State.ditchPop_idle (s : State) (d q consumer : Nat) (rr : SMap Nat) (hbest : bestItem (s.ditch d q).exchange.drain = none) :
    ∃ u, State.ditchPop { s.ditchTurn d q 3 with ditchRr := rr } d q consumer = (u.idleItem d q, true, u) ∧
      s.Popped u d q (s.ditch d q).exchange.drain (s.ditch d q).exchange.fill := by
  obtain ⟨hstep, halike⟩ := s.ditchTurn_pop d q
  obtain ⟨t, ht⟩ : ∃ t, t = s.ditchTurn d q 3 := ⟨_, rfl⟩
  rw [← ht] at hstep halike ⊢
  have hditch : State.ditch { t with ditchRr := rr } d q = t.ditch d q := rfl
  refine ⟨{ t with ditchRr := rr }, ?_, hstep.regs.trans (.of_csr rfl _), ?_, halike.drain, halike.fill⟩
  · unfold State.ditchPop
    dsimp only
    rw [hditch, halike.drain, hbest]
  · rw [hstep.frame]

theorem bestItem_isSome {l : List DItem} {i : DItem} (h : bestItem l = some i) : l ≠ [] := by
  rintro rfl
  cases h

theorem bestItem_none {l : List DItem} (h : bestItem l = none) : l = [] := by
  cases l with
  | nil => rfl
  | cons i is =>
    unfold bestItem at h
    split at h
    · cases h
    · split at h <;> cases h

/-- With two empty banks after the exchange, the filling bank is empty. -/
theorem DitchSt.exchange_empty {x : DitchSt} (h : x.exchange.drain = []) : x.exchange.fill = [] := by
  unfold DitchSt.exchange at *
  split
  · rename_i hc
    rw [if_pos hc] at h
    simp only [Bool.and_eq_true, List.isEmpty_iff, Bool.not_eq_true'] at hc
    cases hd : x.drain1 <;> simp_all [DitchSt.drain, DitchSt.fill]
  · rename_i hc
    rw [if_neg hc] at h
    simp only [Bool.and_eq_true, List.isEmpty_iff, Bool.not_eq_true', not_and, Bool.not_eq_false] at hc
    simpa using hc h

/-- An engine takes what its pop brought. -/
theorem State.Popped.taken {q : Nat} {drain fill : List DItem} {i : DitchItem} {idle : Bool} (h : (s.fetchEcc d e).Popped u d q drain fill)
    (hrd : pairOk (Ins.rd w) = true) (hptrap : s.fbit (Csr.engCtrl d e) EngCtrl.ptrap = false) :
    let t := (u.setPair d e (Ins.rd w) i.data).engDoneS d e 2 (ost 0 i.poison idle i.prio.val)
    WrotePair s t d e (Ins.rd w) i.data ∧
      t.eng d e = { (s.eng d e).went 2 ((s.eng d e).pc + 1) with ost := ost 0 i.poison idle i.prio } ∧
      (t.ditch d q).drain = drain ∧ (t.ditch d q).fill = fill := by
  have hne : Csr.engCtrl d e ∉ [Csr.dqFlags d q, Csr.dqErrCnt d q, Csr.ndQdropCnt (queueOf d)] := by
    have := e.isLt
    have := d.isLt
    simp only [Csr.engCtrl, Csr.dqFlags, Csr.dqErrCnt, Csr.ndQdropCnt, csrAddr, stw, queueOf, List.mem_cons, List.not_mem_nil, or_false]
    omega
  have hreg : u.engReg = s.engReg := (congrArg State.engReg h.frame :).trans (State.fetchEcc_engReg ..)
  have hengs : u.engs = s.engs := (congrArg State.engs h.frame :).trans (State.fetchEcc_engs ..)
  have hpop : u.fbit (Csr.engCtrl d e) EngCtrl.ptrap = false := by
    unfold State.fbit
    rw [State.fget_congr (h.regs _ hne)]
    exact ((s.fetchEcc_checks d e).ptrap (e := e)).trans hptrap
  obtain ⟨v, hv⟩ : ∃ v, v = u.setPair d e (Ins.rd w) i.data := ⟨_, rfl⟩
  have hvonly : EngOnly u v := by rw [hv]; exact (EngOnly.refl u).setPair ..
  have hcalm : Ost.poison.bit (ost 0 i.poison idle i.prio.val) = false ∨ v.fbit (Csr.engCtrl d e) EngCtrl.ptrap = false :=
    .inr (hvonly.checks.ptrap.trans hpop)
  have hruns := ((State.Runs.of_engs (d := d) (e := e) hengs).keep (u := v) (by rw [hv]; exact State.setPair_engs ..)).engDoneS 2 hcalm
  have honly := (OnlyRecords.refl v).engDoneS d e 2 hcalm
  have hall := hvonly.engDoneS d e 2 hcalm
  dsimp only
  rw [← hv]
  have hditches : (v.engDoneS d e 2 (ost 0 i.poison idle i.prio.val)).ditches = u.ditches := (congrArg State.ditches hall :)
  rw [State.ditch_congr hditches]
  exact ⟨.of hrd hreg (by rw [State.eng_congr hengs]) (honly.engReg.trans (by rw [hv])), hruns.eng, h.drain, h.fill⟩

theorem State.Popped.idleItem {q : Nat} {drain fill : List DItem} (hq : q < 64) (h : (s.fetchEcc d e).Popped u d q drain fill) :
    (u.idleItem d q).data = s.csrGet (Csr.dqIdleHi d q) ++ s.csrGet (Csr.dqIdleLo d q) := by
  have hlo : Csr.dqIdleLo d q ∉ [Csr.dqFlags d q, Csr.dqErrCnt d q, Csr.ndQdropCnt (queueOf d)] ∧ Csr.dqIdleLo d q ≠ Csr.engEccCnt d := by
    have := d.isLt
    simp only [Csr.dqIdleLo, Csr.dqFlags, Csr.dqErrCnt, Csr.ndQdropCnt, Csr.engEccCnt, csrAddr, stw, queueOf, List.mem_cons, List.not_mem_nil, or_false]
    omega
  have hhi : Csr.dqIdleHi d q ∉ [Csr.dqFlags d q, Csr.dqErrCnt d q, Csr.ndQdropCnt (queueOf d)] ∧ Csr.dqIdleHi d q ≠ Csr.engEccCnt d := by
    have := d.isLt
    simp only [Csr.dqIdleHi, Csr.dqFlags, Csr.dqErrCnt, Csr.ndQdropCnt, Csr.engEccCnt, csrAddr, stw, queueOf, List.mem_cons, List.not_mem_nil, or_false]
    omega
  unfold State.idleItem
  dsimp only
  rw [h.regs _ hlo.1, h.regs _ hhi.1, (s.fetchEcc_checks d e).csrGet hlo.2, (s.fetchEcc_checks d e).csrGet hhi.2]

end

/-! ## O14 -/

/-- Settles O14: the bank asked, the push buffer, and the pop at its turn. -/
theorem engineAtomicsAndDitches : Obligations.EngineAtomicsAndDitches := by
  unfold Obligations.EngineAtomicsAndDitches
  intro d e s w x a q
  have hc := s.fetchEcc_checks d e
  have hfetched := State.Runs.fetched s d e
  refine ⟨?_, fun hop hrd hrs1 himm hx => ?_, fun i hop hrd hrs1 himm hzero hptrap hx hsluice hpush => ?_⟩
  · have atomic {swap : Bool} {op : BitVec 64 → BankOp} {c : Instr} {code : Nat}
        (hexec : exec c s = .next (s.engRun d e (batomIs swap) legalBatom (cyc 1) (fun s w => s.batomBody d e w op)))
        (hcode : ∀ v, opCode (op v) = (code, some v, 8)) (hop : Ins.op w = 0x2A) (hrd : pairOk (Ins.rd w) = true) (hrs1 : Ins.rs1 w < 24)
        (hrs2 : pairOk (Ins.rs2 w) = true) (hfn : Ins.fn w = b2n swap) (hge : 0x10000000 ≤ a) (hlt : a < 0x14000000) (ha : a % 8 = 0)
        (hx : s.Executing d e w 1) (hpop : s.populated (a / 2 ^ 23 % 8) = true) (hb : a / 2 ^ 17 % 64 < 48) :
        (a / 2 ^ 23 % 8 = d.val → s.sluiceOpen d = true → Completes c s fun t =>
          AskedBank s t d e (a / 2 ^ 17 % 64) (a % 2 ^ 17 / 8) none (op (s.pair d e (Ins.rs2 w))) ∧
          t.eng d e = { x with run := x.run + 1, wait := .bank (Ins.rd w) true true }) ∧
        (a / 2 ^ 23 % 8 ≠ d.val → s.CanAsk d e (accMsg d e .bankAcc 3 a code 8 (some (s.pair d e (Ins.rs2 w)))) (a / 2 ^ 23 % 8) →
          Completes c s fun t => ∃ tag, SentAccess s t d e (accMsg d e .bankAcc 3 a code 8 (some (s.pair d e (Ins.rs2 w)))) (a / 2 ^ 23 % 8) tag ∧
          t.eng d e = { x with run := x.run + 1, wait := .resp tag (some (Ins.rd w)) true none, bufs := (t.eng d e).bufs }) := by
      have hunit : (s.fetchEcc d e).unitAt ((s.fetchEcc d e).reg d e (Ins.rs1 w)).toNat = .bank (a / 2 ^ 23 % 8) (a / 2 ^ 17 % 64) (a % 2 ^ 17) := by
        rw [State.reg_fetchEcc, hc.unitAt]
        exact s.unitAt_bank hge hlt hpop hb
      refine ⟨fun hown hsluice => ⟨_, hexec, ?_⟩, fun hother hask => ⟨_, hexec, ?_⟩⟩
      · rw [doEngBatom_eq hop hrd hrs1 hrs2 hfn hx, State.batomBody_own (by rw [hunit, hown]) (by omega) (by rw [hc.sluiceOpen, hsluice]),
          State.eng_fetchEcc, State.pair_fetchEcc]
        have hruns := (hfetched.keep (u := (s.fetchEcc d e).askBank d e (a / 2 ^ 17 % 64) (a % 2 ^ 17 / 8) none (op (s.pair d e (Ins.rs2 w)))) rfl).setEng
          { x with run := x.run + 1, wait := .bank (Ins.rd w) true true }
        exact ⟨State.askBank_asked hruns ((OnlyRecords.refl _).setEng ..), hruns.eng⟩
      · obtain ⟨tag, u, hsend, hruns, hsent⟩ := hask.sent
        rw [doEngBatom_eq hop hrd hrs1 hrs2 hfn hx, State.batomBody_other (u := u) (tag := tag) hunit (by omega)
          (by rw [hc.sluiceOpen, hask.1]) hother (by
            rw [State.reg_fetchEcc, State.pair_fetchEcc, State.askBankMsg, hcode]
            exact hsend), State.eng_fetchEcc, hruns.eng]
        have hdone := hruns.setEng { s.eng d e with
          bufs := (s.eng d e).bufs ++ [unitBuf tag], run := (s.eng d e).run + 1, wait := .resp tag (some (Ins.rd w)) true none }
        exact ⟨tag, hsent _ _ hdone rfl ((OnlyRecords.refl _).setEng ..), by rw [hdone.eng]⟩
    simp only [List.forall_mem_cons, List.not_mem_nil, false_implies, implies_true, and_true]
    exact ⟨fun hop hrd hrs1 hrs2 hfn hge hlt ha hx hpop hb =>
        atomic (swap := false) (op := BankOp.fetchAdd) (code := Uop.fetchAdd) rfl (fun _ => rfl) hop hrd hrs1 hrs2 hfn hge hlt ha hx hpop hb,
      fun hop hrd hrs1 hrs2 hfn hge hlt ha hx hpop hb =>
        atomic (swap := true) (op := BankOp.swap) (code := Uop.swap) rfl (fun _ => rfl) hop hrd hrs1 hrs2 hfn hge hlt ha hx hpop hb⟩
  · intro i
    have hq : (s.fetchEcc d e).ditchOf d e w = q := s.ditchOf_fetchEcc d e w
    have hcalm (t : State) : Ost.poison.bit (ost 0 false false 0) = false ∨ t.fbit (Csr.engCtrl d e) EngCtrl.ptrap = false := .inl (ost_poison ..)
    have hitem : (s.fetchEcc d e).pushItem d e w = i := by
      unfold State.pushItem
      rw [State.pair_fetchEcc]
    refine ⟨fun hroom => ⟨_, rfl, ?_⟩, fun hfull => ⟨_, rfl, ?_⟩⟩
    · rw [doEngDqpush_eq hop hrd hrs1 himm hx, State.dqpushBody_room (by rw [State.eng_fetchEcc]; exact hroom), hq, hitem, State.eng_fetchEcc,
        State.fetchEcc_serial]
      obtain ⟨v, hv⟩ : ∃ v : State, v = { s.fetchEcc d e with serial := s.serial + 1 } := ⟨_, rfl⟩
      rw [← hv]
      have hruns := ((hfetched.keep (u := v) (by rw [hv])).setEng { x with pushes := x.pushes ++ [⟨s.serial, q, i⟩] }).engDoneS 2 (hcalm _)
      have honly := ((OnlyRecords.refl v).setEng d e { x with pushes := x.pushes ++ [⟨s.serial, q, i⟩] }).engDoneS d e 2 (hcalm _)
      refine ⟨hruns.eng, hruns.others, ?_⟩
      unfold OnlyRecords at honly
      rw [honly, hv]
    · rw [doEngDqpush_eq hop hrd hrs1 himm hx, State.dqpushBody_full (by rw [State.eng_fetchEcc]; exact hfull), hq]
      obtain ⟨v, hv⟩ : ∃ v, v = ((s.fetchEcc d e).count (Csr.dqCnt d q) DqCnt.drop 1).noticeLim d 0x0407 0 [(1, d), (1, q), (1, e)] := ⟨_, rfl⟩
      have hreports : Reports (s.fetchEcc d e) v := by rw [hv]; exact ((Reports.refl _).count _ _ _).noticeLim _ _ _ _
      rw [← hv]
      have hruns := (hfetched.keep (u := v) (congrArg State.engs hreports :)).engDoneS 2 (hcalm _)
      have honly := (OnlyRecords.refl v).engDoneS d e 2 (hcalm _)
      exact ⟨honly.engReg.trans ((congrArg State.engReg hreports :).trans (State.fetchEcc_engReg ..)), hruns.eng, honly⟩
  · intro y
    have hq : (s.fetchEcc d e).ditchOf d e w = q := s.ditchOf_fetchEcc d e w
    have hcan : (s.fetchEcc d e).CanPop d e q := (State.CanPop.mk hsluice hpush).fetched
    have hditch : (s.fetchEcc d e).ditch d q = s.ditch d q := State.ditch_congr (State.fetchEcc_ditches ..) d q
    have hbody := hcan.dqpopBody hq
    rw [hditch, State.popTurn_fetchEcc, ← doEngDqpop_eq hop hrd hrs1 himm hzero hx] at hbody
    refine ⟨fun hserve hturn => ⟨_, rfl, ?_⟩, fun hempty hwait => ⟨_, rfl, ?_⟩, fun hturn => ⟨fun hbest hparity => ⟨_, rfl, ?_⟩, fun hbest hidle => ⟨_, rfl, ?_⟩⟩⟩
    · have hstays : ¬ (Ins.imm w / 512 % 2 == 1 && y.drain.isEmpty) = true := by
        rcases hserve with h | h <;> simp [h]
      rw [hbody, if_neg hstays, hturn, if_pos (by decide)]
      exact s.stalls d e
    · rw [hbody, if_pos (by simp [y, hempty, hwait])]
      exact s.stalls d e
    · have hne := bestItem_isSome hbest
      obtain ⟨u, hpop, hpopped⟩ := (s.fetchEcc d e).ditchPop_item d q e (SMap.set 0 ((s.fetchEcc d e).ditchTurn d q 3).ditchRr (512 + dqKey d q) ((e + 1) % 64))
        (i := i) (by rw [hditch]; exact hbest) hparity
      rw [hditch] at hpopped
      rw [hbody, if_neg (by simp [y, hne]), if_neg (by rw [hturn]; decide), State.servePop, hpop]
      exact hpopped.taken hrd hptrap
    · have hempty := bestItem_none hbest
      obtain ⟨u, hpop, hpopped⟩ := (s.fetchEcc d e).ditchPop_idle d q e (SMap.set 0 ((s.fetchEcc d e).ditchTurn d q 3).ditchRr (512 + dqKey d q) ((e + 1) % 64))
        (by rw [hditch]; exact hbest)
      rw [hditch] at hpopped
      have hidleItem := hpopped.idleItem (Nat.mod_lt _ (by decide))
      rw [hbody, if_neg (by simp [hidle]), if_neg (by rw [hturn]; decide), State.servePop, hpop]
      obtain ⟨i, hi⟩ : ∃ i, i = u.idleItem d q := ⟨_, rfl⟩
      have htaken := hpopped.taken (w := w) (i := i) (idle := true) hrd hptrap
      dsimp only at htaken ⊢
      rw [← hi] at hidleItem ⊢
      obtain ⟨hpair, hrec, hdrain, hfill⟩ := htaken
      refine ⟨?_, ?_, hdrain.trans hempty, hfill.trans (DitchSt.exchange_empty hempty)⟩
      · rw [← hidleItem]
        exact hpair
      · rw [hrec, hi]
        rfl

end Sys2Proof.Machine

end

section

/-! PROOFS. DLOOK, DWR and the CSR accesses of an engine (03 R130, R131, R136; 02 R70), and O15. -/

namespace Sys2Proof.Machine

section
variable {s t u : State} {d : Die} {e : Eng} {w : Word}

/-! ## The check of a set's ways (02 R70) -/

/-- From `s` to `t` beside the directory's entries and their check bits only registers, ports, notices and free values changed. -/
def EccChecked (s t : State) : Prop :=
  t = { s with csr := t.csr, ports := t.ports, queues := t.queues, windows := t.windows, dirBad := t.dirBad, dirEnt := t.dirEnt, draws := t.draws }

theorem EccChecked.refl (s : State) : EccChecked s s := rfl

theorem EccChecked.trans (h : EccChecked s t) (h' : EccChecked t u) : EccChecked s u := by
  unfold EccChecked at *
  rw [h', h]

theorem Reports.eccChecked (h : Reports s t) : EccChecked s t := by
  unfold Reports at h
  unfold EccChecked
  rw [h]

theorem EccChecked.csrSet (h : EccChecked s t) (a : Nat) (v : Word) : EccChecked s (t.csrSet a v) := h.trans ((Reports.refl t).set a v).eccChecked

theorem EccChecked.setViral (h : EccChecked s t) (ps : List Nat) : EccChecked s (t.setViral ps) := by
  refine h.trans ?_
  obtain ⟨-, -, -, hframe⟩ := t.setViral_writes ps
  obtain ⟨u, hu⟩ : ∃ u, u = t.setViral ps := ⟨_, rfl⟩
  rw [← hu] at hframe ⊢
  unfold EccChecked
  rw [hframe]

theorem EccChecked.viral (h : EccChecked s t) (p by_ : Nat) : EccChecked s (t.viral p by_) := by
  unfold State.viral
  dsimp only
  split
  · exact h.setViral _
  · split
    · exact h
    · exact (h.setViral _).trans ((Reports.refl _).noticeLim ..).eccChecked

theorem EccChecked.viralAll (h : EccChecked s t) (by_ : Nat) (ps : List Nat) : EccChecked s (State.viralAll t by_ ps) := by
  induction ps generalizing t with
  | nil => exact h
  | cons p ps ih =>
    unfold State.viralAll
    split
    · exact ih (h.viral p by_)
    · exact ih h

theorem State.eccWay_checked (s : State) (d set w : Nat) : EccChecked s (s.eccWay d set w) := by
  have hclear (x : SMap Nat) (y : SMap (BitVec 64)) : EccChecked s { s with dirBad := x, dirEnt := y } := rfl
  unfold State.eccWay
  dsimp only
  split
  · exact .refl s
  · exact (hclear _ _).trans ((Reports.refl _).count ..).eccChecked
  · obtain ⟨v, hv⟩ : ∃ v, v = State.setEntry { s with dirBad := SMap.set 0 s.dirBad (entKey d set w) 0 } d set w 0 := ⟨_, rfl⟩
    have hentry : EccChecked s v := by rw [hv]; exact hclear _ _
    rw [← hv]
    have hlog (b : Bool) (x : Word) : EccChecked s (if b then v else v.csrSet (Csr.dirEccLog d) x) := by
      cases b with
      | true => exact hentry
      | false => exact hentry.csrSet ..
    have hcount := ((hlog (v.fbit (Csr.dirEccLog d) DirEccLog.valid) (DirEccLog.valid.put (DirEccLog.way.put (DirEccLog.setF.put (0 : Word) set) w) 1)).trans
      ((Reports.refl _).count (Csr.dirEccCnt d) DirEccCnt.uncorr 1).eccChecked).trans
        ((Reports.refl _).noticeLim d 0x0201 0 [(1, d), (2, set), (1, w)]).eccChecked
    obtain ⟨z, hz⟩ : ∃ z, z = ((if v.fbit (Csr.dirEccLog d) DirEccLog.valid then v
      else v.csrSet (Csr.dirEccLog d) (DirEccLog.valid.put (DirEccLog.way.put (DirEccLog.setF.put (0 : Word) set) w) 1)).count (Csr.dirEccCnt d)
        DirEccCnt.uncorr 1).noticeLim d 0x0201 0 [(1, d), (2, set), (1, w)] := ⟨_, rfl⟩
    rw [← hz] at hcount ⊢
    have hfree : EccChecked z z.freeByte.2 := rfl
    cases z.fbit (Csr.dirCtrl d) DirCtrl.eccViral with
    | true => exact (hcount.trans hfree).viralAll _ _
    | false => exact hcount

theorem State.eccSet_checked (s : State) (d set : Nat) : EccChecked s (s.eccSet d set) := by
  have hfold : ∀ (ws : List Nat) (t : State), EccChecked s t → EccChecked s (ws.foldl (fun s w => s.eccWay d set w) t) := by
    intro ws
    induction ws with
    | nil => exact fun t h => h
    | cons w ws ih => exact fun t h => ih _ (h.trans (t.eccWay_checked d set w))
  exact hfold _ s (.refl s)

theorem EccChecked.engs (h : EccChecked s t) : t.engs = s.engs := (congrArg State.engs h :)
theorem EccChecked.engReg (h : EccChecked s t) : t.engReg = s.engReg := (congrArg State.engReg h :)
theorem EccChecked.part (h : EccChecked s t) : t.part = s.part := (congrArg State.part h :)
theorem EccChecked.msOf (h : EccChecked s t) (d : Nat) : t.msOf d = s.msOf d :=
  State.msOf_congr (congrArg State.ms h :) (congrArg State.refMs h :) d

/-! ## Accesses to a slice (R130, R131) -/

theorem State.tracked_iff {h a : Nat} : s.tracked h a = true ↔ s.dieOn h = true ∧ s.fbit (Csr.dirCtrl h) DirCtrl.en = true ∧
    inWindow s.part.k (s.fget (Csr.dirWin h) DirWin.base) a = true := by
  simp [State.tracked, State.untracked]

theorem State.Checks.tracked (hc : s.Checks t d) (h a : Nat) : t.tracked h a = s.tracked h a := by
  have hctrl : t.csrGet (Csr.dirCtrl h) = s.csrGet (Csr.dirCtrl h) := hc.csrGet_low h (by decide)
  have hwin : t.csrGet (Csr.dirWin h) = s.csrGet (Csr.dirWin h) := hc.csrGet_low h (by decide)
  unfold State.tracked State.untracked State.fbit
  rw [hc.dieOn, hc.part, State.fget_congr hctrl, State.fget_congr hwin]

theorem State.Checks.sliceReady (hc : s.Checks t d) (d' e' h : Nat) : t.sliceReady d' e' h = s.sliceReady d' e' h := by
  unfold State.sliceReady State.dirPending
  rw [hc.sluiceOpen, hc.sluiceOpen, hc.flying, hc.xout]

/-- An engine's access reaches the slice of its line's home die `h`, and its answer the engine. -/
structure State.ReachesSlice (s : State) (d e c h : Nat) : Prop where
  home : homeDie s.part.k (s.lineAddr d e c) = h
  up : s.pathUp d h = true
  ready : s.sliceReady d e h = true
  back : s.pathUp h d = true

theorem State.ReachesSlice.fetched {c h : Nat} (hr : s.ReachesSlice d e c h) : (s.fetchEcc d e).ReachesSlice d e c h := by
  obtain ⟨hhome, hup, hready, hback⟩ := hr
  have hc := s.fetchEcc_checks d e
  refine ⟨?_, by rw [hc.pathUp, hup], by rw [hc.sliceReady, hready], by rw [hc.pathUp, hback]⟩
  unfold State.lineAddr
  rw [hc.part, State.pair_fetchEcc]
  exact hhome

/-- The end of an access that brings `v` into a pair. -/
def State.endPair (s : State) (d e c : Nat) (v : BitVec 64) (st : Nat) : State := (s.setPair d e c v).engDoneS d e 1 (ost st false false 0)

theorem State.ReachesSlice.dlookBody {d e h : Nat} (hr : s.ReachesSlice d e (Ins.rs1 w) h) :
    let a := s.lineAddr d e (Ins.rs1 w)
    let u := s.eccSet h (lineSet s.part.k a)
    s.dlookBody d e w = if !s.tracked h a then s.endPair d e (Ins.rd w) 0 St.notPresent
      else match u.wayOf h a with
        | none => u.endPair d e (Ins.rd w) 0 St.notPresent
        | some y => u.endPair d e (Ins.rd w) (u.entry h (lineSet s.part.k a) y) 0 := by
  obtain ⟨hhome, hup, hready, hback⟩ := hr
  unfold State.dlookBody
  dsimp only
  rw [hhome, if_neg (by simp [hup]), if_neg (by simp [hready]), if_neg (by simp [hback])]
  cases s.tracked h (s.lineAddr d e (Ins.rs1 w)) with
  | false =>
    rw [if_pos (by decide), if_pos (by decide)]
    rfl
  | true =>
    rw [if_neg (by decide), if_neg (by decide)]
    have hpart := (s.eccSet_checked h (lineSet s.part.k (s.lineAddr d e (Ins.rs1 w)))).part
    unfold State.endPair
    cases (s.eccSet h (lineSet s.part.k (s.lineAddr d e (Ins.rs1 w)))).wayOf h (s.lineAddr d e (Ins.rs1 w)) with
    | none => rfl
    | some y =>
      dsimp only
      rw [hpart]

theorem doEngDlook_eq (hop : Ins.op w = 0x25) (hrd : pairOk (Ins.rd w) = true) (hrs1 : pairOk (Ins.rs1 w) = true) (hrs2 : Ins.rs2 w = 0)
    (hfn : Ins.fn w = 0) (hx : s.Executing d e w 1) : doEngDlook d e s = (s.fetchEcc d e).dlookBody d e w :=
  State.engRun_body hx (by decide) (by simp [opIs, hop]) (by simp [legalDlook, hrd, hrs1, hrs2, hfn]) rfl

/-- An access ended with status `st` after a step that keeps engines. -/
structure State.Ended (s u t : State) (d : Die) (e : Eng) (st : Nat) : Prop where
  record : t.eng d e = { (s.eng d e).went 1 ((s.eng d e).pc + 1) with ost := ost st false false 0 }
  others : ∀ (d' : Die) (e' : Eng), (d', e') ≠ (d, e) → t.eng d' e' = s.eng d' e'
  only : EngOnly u t

theorem State.endPair_ends {c : Nat} (hc : pairOk c = true) (hengs : u.engs = s.engs) (hreg : u.engReg = s.engReg) (v : BitVec 64) (st : Nat) :
    WrotePair s (u.endPair d e c v st) d e c v ∧ s.Ended u (u.endPair d e c v st) d e st := by
  have hcalm : Ost.poison.bit (ost st false false 0) = false ∨ (u.setPair d e c v).fbit (Csr.engCtrl d e) EngCtrl.ptrap = false := .inl (ost_poison ..)
  have hruns := ((State.Runs.of_engs (d := d) (e := e) hengs).keep (u := u.setPair d e c v) (State.setPair_engs ..)).engDoneS 1 hcalm
  exact ⟨.of hc hreg (by rw [State.eng_congr hengs]) ((OnlyRecords.refl _).engDoneS d e 1 hcalm).engReg,
    hruns.eng, hruns.others, ((EngOnly.refl u).setPair d e c v).engDoneS d e 1 hcalm⟩

theorem State.done_ends (hengs : u.engs = s.engs) (st : Nat) :
    s.Ended u (u.engDoneS d e 1 (ost st false false 0)) d e st ∧ OnlyRecords u (u.engDoneS d e 1 (ost st false false 0)) := by
  have hcalm : Ost.poison.bit (ost st false false 0) = false ∨ u.fbit (Csr.engCtrl d e) EngCtrl.ptrap = false := .inl (ost_poison ..)
  have hruns := (State.Runs.of_engs (d := d) (e := e) hengs).engDoneS 1 hcalm
  exact ⟨⟨hruns.eng, hruns.others, (EngOnly.refl u).engDoneS d e 1 hcalm⟩, (OnlyRecords.refl u).engDoneS d e 1 hcalm⟩

/-! ## DWR (R131) -/

/-- The entry that DWR writes: its pair, with the milestone of the slice. -/
def dwrEntry (v : BitVec 64) (ms : Nat) : BitVec 64 := if De.state.get v == 0 then 0 else De.ms.put v ms

theorem State.ReachesSlice.dwrBody {d e h : Nat} (hr : s.ReachesSlice d e (Ins.rs1 w) h) (hrank : s.rankBlocked d e = false) :
    let a := s.lineAddr d e (Ins.rs1 w)
    let v := s.pair d e (Ins.rs2 w)
    let set := lineSet s.part.k a
    let u := s.eccSet h set
    s.dwrBody d e w = if !s.tracked h a then s.engDoneS d e 1 (ost St.notPresent false false 0)
      else if (s.openOn h (a / 64)).isSome then s.engStall d e
      else if 4 ≤ De.state.get v || De.tag.get v ≠ lineTag s.part.k a then s.engDoneS d e 1 (ost St.badArgument false false 0)
      else match (u.wayOf h a).orElse (fun _ => u.freeWay h set) with
        | none => u.engDoneS d e 1 (ost St.busy false false 0)
        | some y => (u.setEntry h set y (dwrEntry v (s.msOf h))).engDoneS d e 1 (ost 0 false false 0) := by
  obtain ⟨hhome, hup, hready, hback⟩ := hr
  unfold State.dwrBody
  dsimp only
  rw [hhome, if_neg (by simp [hrank]), if_neg (by simp [hup]), if_neg (by simp [hready]), if_neg (by simp [hback]), (s.eccSet_checked h _).msOf]
  rfl

theorem doEngDwr_eq (hop : Ins.op w = 0x26) (hrd : Ins.rd w = 0) (hrs1 : pairOk (Ins.rs1 w) = true) (hrs2 : pairOk (Ins.rs2 w) = true)
    (hfn : Ins.fn w = 0) (hx : s.Executing d e w 1) : doEngDwr d e s = (s.fetchEcc d e).dwrBody d e w :=
  State.engRun_body hx (by decide) (by simp [opIs, hop]) (by simp [legalDwr, hrd, hrs1, hrs2, hfn]) rfl

theorem dwrEntry_fields (v : BitVec 64) (ms : Nat) : De.state.get (dwrEntry v ms) = De.state.get v ∧
    (De.state.get v ≠ 0 → De.tag.get (dwrEntry v ms) = De.tag.get v ∧ De.owner.get (dwrEntry v ms) = De.owner.get v ∧
      De.sharers.get (dwrEntry v ms) = De.sharers.get v ∧ De.ms.get (dwrEntry v ms) = ms % 2 ^ 8) := by
  unfold dwrEntry
  by_cases hv : De.state.get v = 0
  · rw [if_pos (beq_iff_eq.2 hv)]
    exact ⟨hv ▸ rfl, fun h => absurd hv h⟩
  · rw [if_neg (by simpa using hv)]
    exact ⟨Fld.get_put_disjoint _ _ _ _ (by decide), fun _ => ⟨Fld.get_put_disjoint _ _ _ _ (by decide), Fld.get_put_disjoint _ _ _ _ (by decide),
      Fld.get_put_disjoint _ _ _ _ (by decide), Fld.get_put_same _ _ _ (by decide)⟩⟩

/-- DWR writes the entry. -/
theorem State.dwr_writes (hengs : u.engs = s.engs) (h set y : Nat) (v : BitVec 64) (ms : Nat) :
    let t := (u.setEntry h set y (dwrEntry v ms)).engDoneS d e 1 (ost 0 false false 0)
    s.Ended (u.setEntry h set y (dwrEntry v ms)) t d e 0 ∧
      (De.state.get (t.entry h set y) = De.state.get v ∧ (De.state.get v ≠ 0 → De.tag.get (t.entry h set y) = De.tag.get v ∧
        De.owner.get (t.entry h set y) = De.owner.get v ∧ De.sharers.get (t.entry h set y) = De.sharers.get v ∧
        De.ms.get (t.entry h set y) = ms % 2 ^ 8)) ∧
      (∀ j ≠ entKey h set y, SMap.get 0 t.dirEnt j = SMap.get 0 u.dirEnt j) ∧ t = { u with engs := t.engs, dirEnt := t.dirEnt } := by
  obtain ⟨n, hn⟩ : ∃ n, n = dwrEntry v ms := ⟨_, rfl⟩
  have hfields := dwrEntry_fields v ms
  rw [← hn] at hfields ⊢
  obtain ⟨z, hz⟩ : ∃ z, z = u.setEntry h set y n := ⟨_, rfl⟩
  have hkeep : z.engs = u.engs := by rw [hz]; rfl
  rw [← hz]
  obtain ⟨hend, honly⟩ := State.done_ends (s := s) (d := d) (e := e) (u := z) (hkeep.trans hengs) 0
  obtain ⟨t, ht⟩ : ∃ t, t = z.engDoneS d e 1 (ost 0 false false 0) := ⟨_, rfl⟩
  rw [← ht] at hend honly ⊢
  have hent : t.dirEnt = z.dirEnt := (congrArg State.dirEnt honly :)
  have hentry : t.entry h set y = n := by
    unfold State.entry
    rw [hent, hz]
    exact State.entry_setEntry_same ..
  refine ⟨hend, ?_, fun j hj => ?_, ?_⟩
  · rw [hentry]
    exact hfields
  · rw [hent, hz]
    exact State.dirEnt_setEntry_ne _ _ hj
  · unfold OnlyRecords at honly
    rw [honly, hz]
    rfl

/-! ## The CSR instruction (R136) -/

/-- The address that a CSR instruction names. -/
def State.csrAt (s : State) (d e : Nat) (w : Word) : Nat := (s.reg d e (Ins.rs1 w)).toNat / 4 * 4

/-- The operands of a CSR instruction. -/
structure CsrForm (w : Word) : Prop where
  op : Ins.op w = 0x2D
  rd : Ins.rd w < 24
  rs1 : Ins.rs1 w < 24
  rs2 : Ins.rs2 w = 0

theorem doEngCsrRead_eq (hf : CsrForm w) (hfn : Ins.fn w = 0) (hx : s.Executing d e w 1) :
    doEngCsrRead d e s = (s.fetchEcc d e).csrReadBody d e w := by
  obtain ⟨hop, hrd, hrs1, hrs2⟩ := hf
  exact State.engRun_body hx (by decide) (by simp [csrIs, opIs, hop, hfn]) (by simp [legalCsr, regOk, hrd, hrs1, hrs2, hfn]) rfl

theorem doEngCsrWrite_eq (hf : CsrForm w) (hfn : Ins.fn w = 1) (hx : s.Executing d e w 1) :
    doEngCsrWrite d e s = (s.fetchEcc d e).csrWriteBody d e w := by
  obtain ⟨hop, hrd, hrs1, hrs2⟩ := hf
  exact State.engRun_body hx (by decide) (by simp [csrIs, opIs, hop, hfn]) (by simp [legalCsr, regOk, hrd, hrs1, hrs2, hfn]) rfl

/-- A register of the engine's own die, or of none. -/
theorem State.csrReadBody_here (hremote : s.csrRemote d (s.csrAt d e w) = false) (hsluice : dieOf (s.csrAt d e w) = d → s.sluiceOpen d = true) {st : Nat}
    (hst : s.csrStatus (s.csrAt d e w) false = st) : s.csrReadBody d e w =
      if st = 0 then ((s.busRead (s.csrAt d e w) none false).2.setReg d e (Ins.rd w) (s.busRead (s.csrAt d e w) none false).1).engDoneS d e 1
        (ost 0 false false 0)
      else (s.setReg d e (Ins.rd w) 0).engDoneS d e 1 (ost st false false 0) := by
  have hstall : (dieOf (s.csrAt d e w) == d && !s.sluiceOpen d) = false := by
    simpa using hsluice
  unfold State.csrAt at *
  unfold State.csrReadBody wordAddr
  dsimp only
  rw [hremote, hstall, hst, if_neg Bool.false_ne_true, if_neg Bool.false_ne_true]
  by_cases h : st = 0
  · subst h
    rfl
  · rw [if_neg h, if_neg (by simpa [St.ok] using h)]

theorem State.csrWriteBody_here (hremote : s.csrRemote d (s.csrAt d e w) = false) (hsluice : dieOf (s.csrAt d e w) = d → s.sluiceOpen d = true) {st : Nat}
    (hst : s.csrStatus (s.csrAt d e w) true = st) : s.csrWriteBody d e w =
      (if st = 0 then s.busWrite (s.csrAt d e w) (s.reg d e (Ins.rd w)) false else s).engDoneS d e 1 (ost st false false 0) := by
  have hstall : (dieOf (s.csrAt d e w) == d && !s.sluiceOpen d) = false := by
    simpa using hsluice
  unfold State.csrAt at *
  unfold State.csrWriteBody wordAddr
  dsimp only
  rw [hremote, hstall, hst, if_neg Bool.false_ne_true, if_neg Bool.false_ne_true]
  by_cases h : st = 0
  · subst h
    rfl
  · rw [if_neg h, if_neg (by simpa [St.ok] using h)]

/-- A register of another die. -/
theorem State.csrReadBody_remote (hremote : s.csrRemote d (s.csrAt d e w) = true) {tag : Nat}
    (hsend : s.accSend d e (accMsg d e .csrAcc 0 (s.csrAt d e w) Uop.read 4 none) (dieOf (s.csrAt d e w)) = some (tag, u)) :
    s.csrReadBody d e w = u.setEng d e { u.eng d e with run := (u.eng d e).run + 1, wait := .resp tag (some (Ins.rd w)) false none } := by
  unfold State.csrAt at *
  unfold State.csrReadBody State.csrAsk wordAddr
  dsimp only
  rw [if_pos hremote, Option.isSome_none, if_neg Bool.false_ne_true, hsend]

theorem State.csrWriteBody_remote (hremote : s.csrRemote d (s.csrAt d e w) = true) {tag : Nat}
    (hsend : s.accSend d e (accMsg d e .csrAcc 3 (s.csrAt d e w) Uop.write 4 (some ((s.reg d e (Ins.rd w)).setWidth 64))) (dieOf (s.csrAt d e w)) = some (tag, u)) :
    s.csrWriteBody d e w = u.setEng d e { u.eng d e with run := (u.eng d e).run + 1, wait := .resp tag none false none } := by
  unfold State.csrAt at *
  unfold State.csrWriteBody State.csrAsk wordAddr
  dsimp only
  rw [if_pos hremote, Option.isSome_some, if_pos rfl, hsend]

theorem State.reachable_fetchEcc (s : State) (d : Die) (e : Eng) (a : Nat) : (s.fetchEcc d e).reachable a = s.reachable a := by
  unfold State.reachable
  rw [(s.fetchEcc_checks d e).dieOn]

theorem State.csrStatus_fetchEcc (s : State) (d : Die) (e : Eng) (a : Nat) (write : Bool) : (s.fetchEcc d e).csrStatus a write = s.csrStatus a write := by
  unfold State.csrStatus
  rw [(s.fetchEcc_checks d e).populated, State.reachable_fetchEcc]

theorem State.csrRemote_fetchEcc (s : State) (d : Die) (e : Eng) (a : Nat) : (s.fetchEcc d e).csrRemote d a = s.csrRemote d a := by
  unfold State.csrRemote
  rw [(s.fetchEcc_checks d e).populated]

theorem State.csrAt_fetchEcc (s : State) (d : Die) (e : Eng) (w : Word) : (s.fetchEcc d e).csrAt d e w = s.csrAt d e w := by
  unfold State.csrAt
  rw [State.reg_fetchEcc]

/-- The status of an access to the engine's own die. -/
theorem State.csrStatus_own {a : Nat} {write : Bool} (hdie : dieOf a = d) (hon : s.dieOn d = true) (hblk : write = true → blockOf a ≠ 9 ∧ blockOf a ≠ 13) :
    s.csrStatus a write = if (findRow a).isSome = false then St.notPresent
      else if (findRow a).map (·.base) = some Rg.engDbgSel.base ∨ (findRow a).map (·.base) = some Rg.engDbgData.base then St.refused else St.ok := by
  have hstw : (dieOf a == stw) = false := by
    have := d.isLt
    rw [hdie]
    simp only [stw, beq_eq_false_iff_ne]
    omega
  have hpop : s.populated (dieOf a) = true := hdie ▸ (Bool.and_eq_true_iff.1 hon).1
  have hblk' : (write && (blockOf a == 9 || blockOf a == 13)) = false := by
    cases write with
    | false => rfl
    | true => simpa using hblk rfl
  have hreach : s.reachable a = (findRow a).isSome := by
    unfold State.reachable
    rw [hstw, if_neg Bool.false_ne_true, hdie, hon, Bool.true_and]
  unfold State.csrStatus
  dsimp only
  rw [hstw, hpop, hblk', hreach, if_neg Bool.false_ne_true, if_neg (by decide), if_neg Bool.false_ne_true]
  simp only [Bool.not_eq_true', Bool.or_eq_true, beq_iff_eq]

theorem State.csrStatus_blocked {a : Nat} (hdie : dieOf a = d) (hpop : s.populated d = true) (hblk : blockOf a = 9 ∨ blockOf a = 13) :
    s.csrStatus a true = St.refused := by
  have hstw : (dieOf a == stw) = false := by
    have := d.isLt
    rw [hdie]
    simp only [stw, beq_eq_false_iff_ne]
    omega
  unfold State.csrStatus
  dsimp only
  rw [hstw, hdie, hpop, if_neg Bool.false_ne_true, if_neg (by decide), if_pos (by simpa using hblk)]

theorem State.csrRemote_own {a : Nat} (hdie : dieOf a = d) : s.csrRemote d a = false := by
  simp [State.csrRemote, hdie]

theorem State.csrRemote_absent {a : Nat} (hpop : s.populated (dieOf a) = false) : s.csrRemote d a = false := by
  simp [State.csrRemote, hpop]

/-- A CSR read that is answered with another status than OK. -/
theorem doEngCsrRead_answers {st : Nat} (hf : CsrForm w) (hfn : Ins.fn w = 0) (hx : s.Executing d e w 1) (hremote : s.csrRemote d (s.csrAt d e w) = false)
    (hsluice : dieOf (s.csrAt d e w) = d → s.sluiceOpen d = true) (hst : s.csrStatus (s.csrAt d e w) false = st) (hne : st ≠ 0) :
    WroteReg s (doEngCsrRead d e s) d e (Ins.rd w) 0 ∧
      EngRan s (doEngCsrRead d e s) d e { (s.eng d e).went 1 ((s.eng d e).pc + 1) with ost := ost st false false 0 } := by
  have hat := s.csrAt_fetchEcc d e w
  rw [doEngCsrRead_eq hf hfn hx, State.csrReadBody_here (st := st) (by rw [hat, State.csrRemote_fetchEcc, hremote])
    (by rw [hat, (s.fetchEcc_checks d e).sluiceOpen]; exact hsluice) (by rw [hat, State.csrStatus_fetchEcc, hst]), if_neg hne]
  obtain ⟨v, hv⟩ : ∃ v, v = (s.fetchEcc d e).setReg d e (Ins.rd w) 0 := ⟨_, rfl⟩
  have hengs : v.engs = s.engs := by rw [hv, State.setReg_engs, State.fetchEcc_engs]
  obtain ⟨hend, honly⟩ := State.done_ends (s := s) (d := d) (e := e) hengs st
  rw [← hv]
  refine ⟨.of (u := s.fetchEcc d e) (State.fetchEcc_engReg ..) (by rw [State.eng_fetchEcc]) (honly.engReg.trans (by rw [hv])), hend.record, hend.others, ?_⟩
  have hwrote : EngOnly (s.fetchEcc d e) v := by rw [hv]; exact (EngOnly.refl _).setReg ..
  exact hwrote.trans hend.only

theorem doEngCsrWrite_answers {st : Nat} (hf : CsrForm w) (hfn : Ins.fn w = 1) (hx : s.Executing d e w 1) (hremote : s.csrRemote d (s.csrAt d e w) = false)
    (hsluice : dieOf (s.csrAt d e w) = d → s.sluiceOpen d = true) (hst : s.csrStatus (s.csrAt d e w) true = st) (hne : st ≠ 0) :
    (doEngCsrWrite d e s).engReg = s.engReg ∧
      EngRan s (doEngCsrWrite d e s) d e { (s.eng d e).went 1 ((s.eng d e).pc + 1) with ost := ost st false false 0 } := by
  have hat := s.csrAt_fetchEcc d e w
  rw [doEngCsrWrite_eq hf hfn hx, State.csrWriteBody_here (st := st) (by rw [hat, State.csrRemote_fetchEcc, hremote])
    (by rw [hat, (s.fetchEcc_checks d e).sluiceOpen]; exact hsluice) (by rw [hat, State.csrStatus_fetchEcc, hst]), if_neg hne]
  obtain ⟨hend, honly⟩ := State.done_ends (s := s) (d := d) (e := e) (u := s.fetchEcc d e) (State.fetchEcc_engs ..) st
  exact ⟨honly.engReg.trans (State.fetchEcc_engReg ..), hend.record, hend.others, hend.only⟩

/-- A CSR access by message. -/
theorem doEngCsrRead_asks {die : Nat} (hf : CsrForm w) (hfn : Ins.fn w = 0) (hx : s.Executing d e w 1) (hdie : dieOf (s.csrAt d e w) = die)
    (hpop : s.populated die = true) (hne : die ≠ d) (hask : s.CanAsk d e (accMsg d e .csrAcc 0 (s.csrAt d e w) Uop.read 4 none) die) :
    ∃ tag, SentAccess s (doEngCsrRead d e s) d e (accMsg d e .csrAcc 0 (s.csrAt d e w) Uop.read 4 none) die tag ∧
      (doEngCsrRead d e s).eng d e = { s.eng d e with
        run := (s.eng d e).run + 1, wait := .resp tag (some (Ins.rd w)) false none, bufs := ((doEngCsrRead d e s).eng d e).bufs } := by
  obtain ⟨tag, u, hsend, hruns, hsent⟩ := hask.sent
  have hat := s.csrAt_fetchEcc d e w
  have hremote : s.csrRemote d (s.csrAt d e w) = true := by simp [State.csrRemote, hdie, hpop, hne]
  rw [doEngCsrRead_eq hf hfn hx, State.csrReadBody_remote (u := u) (tag := tag) (by rw [hat, State.csrRemote_fetchEcc, hremote])
    (by rw [hat, hdie]; exact hsend), hruns.eng]
  have hdone := hruns.setEng { s.eng d e with
    bufs := (s.eng d e).bufs ++ [unitBuf tag], run := (s.eng d e).run + 1, wait := .resp tag (some (Ins.rd w)) false none }
  exact ⟨tag, hsent _ _ hdone rfl ((OnlyRecords.refl _).setEng ..), by rw [hdone.eng]⟩

theorem doEngCsrWrite_asks {die : Nat} (hf : CsrForm w) (hfn : Ins.fn w = 1) (hx : s.Executing d e w 1) (hdie : dieOf (s.csrAt d e w) = die)
    (hpop : s.populated die = true) (hne : die ≠ d)
    (hask : s.CanAsk d e (accMsg d e .csrAcc 3 (s.csrAt d e w) Uop.write 4 (some ((s.reg d e (Ins.rd w)).setWidth 64))) die) :
    ∃ tag, SentAccess s (doEngCsrWrite d e s) d e (accMsg d e .csrAcc 3 (s.csrAt d e w) Uop.write 4 (some ((s.reg d e (Ins.rd w)).setWidth 64))) die tag ∧
      (doEngCsrWrite d e s).eng d e = { s.eng d e with
        run := (s.eng d e).run + 1, wait := .resp tag none false none, bufs := ((doEngCsrWrite d e s).eng d e).bufs } := by
  obtain ⟨tag, u, hsend, hruns, hsent⟩ := hask.sent
  have hat := s.csrAt_fetchEcc d e w
  have hremote : s.csrRemote d (s.csrAt d e w) = true := by simp [State.csrRemote, hdie, hpop, hne]
  rw [doEngCsrWrite_eq hf hfn hx, State.csrWriteBody_remote (u := u) (tag := tag) (by rw [hat, State.csrRemote_fetchEcc, hremote])
    (by rw [hat, hdie, State.reg_fetchEcc]; exact hsend), hruns.eng]
  have hdone := hruns.setEng { s.eng d e with
    bufs := (s.eng d e).bufs ++ [unitBuf tag], run := (s.eng d e).run + 1, wait := .resp tag none false none }
  exact ⟨tag, hsent _ _ hdone rfl ((OnlyRecords.refl _).setEng ..), by rw [hdone.eng]⟩

theorem State.dieOn_of_sluiceOpen {d : Nat} (h : s.sluiceOpen d = true) : s.dieOn d = true := by
  unfold State.sluiceOpen State.clockOn at h
  simp only [Bool.and_eq_true] at h
  exact h.1.1


end

/-! ## O15 -/

/-- Settles O15: the slice's answers, then the status of an address. -/
theorem engineDirectoryAndCsrAccess : Obligations.EngineDirectoryAndCsrAccess := by
  unfold Obligations.EngineDirectoryAndCsrAccess
  constructor
  · intro d e s w x k a h set tracked u after hrs1 hfn hup hready hback hx
    have hc := s.fetchEcc_checks d e
    have hreach : (s.fetchEcc d e).ReachesSlice d e (Ins.rs1 w) h := (State.ReachesSlice.mk rfl hup hready hback).fetched
    have haddr : (s.fetchEcc d e).lineAddr d e (Ins.rs1 w) = a := by
      unfold State.lineAddr
      rw [State.pair_fetchEcc]
    have hon : s.dieOn h = true := (Bool.and_eq_true_iff.1 hup).1
    have htracked : (s.fetchEcc d e).tracked h a = true ↔ tracked := by
      rw [hc.tracked, State.tracked_iff]
      exact and_iff_right hon
    have hu := (s.fetchEcc d e).eccSet_checked h (lineSet s.part.k a)
    have hengs : u.engs = s.engs := hu.engs.trans (State.fetchEcc_engs ..)
    have hreg : u.engReg = s.engReg := hu.engReg.trans (State.fetchEcc_engReg ..)
    constructor
    · intro hop hrd hrs2
      have hbody := hreach.dlookBody
      dsimp only at hbody
      rw [haddr, hc.part, ← doEngDlook_eq hop hrd hrs1 hrs2 hfn hx] at hbody
      refine ⟨fun ht y hy => ⟨_, rfl, ?_⟩, fun ht hnone => ⟨_, rfl, ?_⟩, fun ht => ⟨_, rfl, ?_⟩⟩
      · have hy' : ((s.fetchEcc d e).eccSet h (lineSet s.part.k a)).wayOf h a = some y := hy
        rw [hbody, if_neg (by rw [htracked.2 ht]; decide), hy']
        obtain ⟨hwrote, hend⟩ := State.endPair_ends (s := s) (d := d) (e := e) hrd hengs hreg (u.entry h set y) 0
        exact ⟨hwrote, ⟨hend.record, hend.others⟩, hend.only⟩
      · have hnone' : ((s.fetchEcc d e).eccSet h (lineSet s.part.k a)).wayOf h a = none := hnone
        rw [hbody, if_neg (by rw [htracked.2 ht]; decide), hnone']
        obtain ⟨hwrote, hend⟩ := State.endPair_ends (s := s) (d := d) (e := e) hrd hengs hreg 0 St.notPresent
        exact ⟨hwrote, ⟨hend.record, hend.others⟩, hend.only⟩
      · have hno : (s.fetchEcc d e).tracked h a = false := Bool.eq_false_iff.2 (mt htracked.1 ht)
        rw [hbody, if_pos (by rw [hno]; decide)]
        obtain ⟨hwrote, hend⟩ := State.endPair_ends (s := s) (d := d) (e := e) (u := s.fetchEcc d e) hrd (State.fetchEcc_engs ..)
          (State.fetchEcc_engReg ..) 0 St.notPresent
        exact ⟨hwrote, ⟨hend.record, hend.others⟩, hend.only⟩
    · intro hop hrd hrs2 hrank v good
      have hbody := hreach.dwrBody (w := w) (by rw [State.rankBlocked_fetchEcc]; exact hrank)
      dsimp only at hbody
      rw [haddr, hc.part, hc.msOf, State.openOn_congr (State.fetchEcc_dirTxn ..), State.pair_fetchEcc, ← doEngDwr_eq hop hrd hrs1 hrs2 hfn hx] at hbody
      have hfetched := fun st => State.done_ends (s := s) (d := d) (e := e) (u := s.fetchEcc d e) (State.fetchEcc_engs ..) st
      have hchecked := fun st => State.done_ends (s := s) (d := d) (e := e) hengs st
      have hgood : good → ¬ (decide (4 ≤ De.state.get v) || decide (De.tag.get v ≠ lineTag s.part.k a)) = true := by
        rintro ⟨hstate, htag⟩
        have htag' : De.tag.get v = lineTag s.part.k a := htag
        simp [htag', hstate]
      refine ⟨fun ht => ⟨_, rfl, ?_⟩, fun ht hopen hbad => ⟨_, rfl, ?_⟩, fun ht hopen hg hway hfree => ⟨_, rfl, ?_⟩, fun ht hopen hg y hy => ⟨_, rfl, ?_⟩⟩
      · have hno : (s.fetchEcc d e).tracked h a = false := Bool.eq_false_iff.2 (mt htracked.1 ht)
        obtain ⟨hend, honly⟩ := hfetched St.notPresent
        rw [hbody, if_pos (by rw [hno]; decide)]
        exact ⟨⟨hend.record, hend.others⟩, honly⟩
      · obtain ⟨hend, honly⟩ := hfetched St.badArgument
        have hbad' : (decide (4 ≤ De.state.get v) || decide (De.tag.get v ≠ lineTag s.part.k a)) = true := by
          by_contra hn
          refine hbad ?_
          simp only [Bool.or_eq_true, decide_eq_true_eq, not_or, Nat.not_le, not_not] at hn
          exact hn
        rw [hbody, if_neg (by rw [htracked.2 ht]; decide), hopen, if_neg (by decide), if_pos hbad']
        exact ⟨⟨hend.record, hend.others⟩, honly⟩
      · obtain ⟨hend, honly⟩ := hchecked St.busy
        have hway' : ((s.fetchEcc d e).eccSet h (lineSet s.part.k a)).wayOf h a = none := hway
        have hfree' : ((s.fetchEcc d e).eccSet h (lineSet s.part.k a)).freeWay h (lineSet s.part.k a) = none := hfree
        rw [hbody, if_neg (by rw [htracked.2 ht]; decide), hopen, if_neg (by decide), if_neg (hgood hg), hway', hfree']
        exact ⟨⟨hend.record, hend.others⟩, honly⟩
      · have hway : (((s.fetchEcc d e).eccSet h (lineSet s.part.k a)).wayOf h a).orElse
            (fun _ => ((s.fetchEcc d e).eccSet h (lineSet s.part.k a)).freeWay h (lineSet s.part.k a)) = some y := by
          rcases hy with hy | ⟨hnone, hfree⟩
          · have hy' : ((s.fetchEcc d e).eccSet h (lineSet s.part.k a)).wayOf h a = some y := hy
            rw [hy']
            rfl
          · have hnone' : ((s.fetchEcc d e).eccSet h (lineSet s.part.k a)).wayOf h a = none := hnone
            have hfree' : ((s.fetchEcc d e).eccSet h (lineSet s.part.k a)).freeWay h (lineSet s.part.k a) = some y := hfree
            rw [hnone', hfree']
            rfl
        rw [hbody, if_neg (by rw [htracked.2 ht]; decide), hopen, if_neg (by decide), if_neg (hgood hg), hway]
        dsimp only
        obtain ⟨hend, hfields, hothers, hframe⟩ := State.dwr_writes (s := s) (u := u) (d := d) (e := e) hengs h set y v (s.msOf h)
        exact ⟨⟨hend.record, hend.others⟩, hfields, hothers, hframe⟩
  · intro d e s w x a die v blk u ended hop hrd hrs1 hrs2 hx over_ dbg
    have hc := s.fetchEcc_checks d e
    have hf : CsrForm w := ⟨hop, hrd, hrs1, hrs2⟩
    have hat : (s.fetchEcc d e).csrAt d e w = a := s.csrAt_fetchEcc d e w
    have hover (y : State) : over_ y (y.engDoneS d e 1 (ost 0 false false 0)) := by
      obtain ⟨hend, honly⟩ := State.done_ends (s := y) (d := d) (e := e) (u := y) rfl 0
      exact ⟨hend.record, hend.others, honly⟩
    have hremote (hdie : die = d.val) : (s.fetchEcc d e).csrRemote d ((s.fetchEcc d e).csrAt d e w) = false := by
      rw [hat, State.csrRemote_fetchEcc, State.csrRemote_own hdie]
    refine ⟨fun hdie hsluice hpop hrow hdbg => ⟨fun hfn => ⟨_, rfl, ?_⟩, fun hfn h9 h13 => ⟨_, rfl, ?_⟩⟩,
      fun hdie hsluice hpop => ⟨fun hfn hbad => ⟨_, rfl, ?_⟩, fun hfn hrow hdbg => ⟨_, rfl, ?_⟩⟩,
      fun hdie hpop => ⟨fun hfn => ?_, fun hfn => ?_⟩, ?_⟩
    · have hst : s.csrStatus a false = 0 := by
        rw [State.csrStatus_own hdie (State.dieOn_of_sluiceOpen hsluice) (fun h => absurd h (by decide)), if_neg (by rw [hrow]; decide), if_neg hdbg]
        rfl
      rw [doEngCsrRead_eq hf hfn hx, State.csrReadBody_here (st := 0) (hremote hdie) (fun _ => by rw [hc.sluiceOpen, hsluice])
        (by rw [hat, State.csrStatus_fetchEcc, hst]), if_pos rfl, hat]
      exact hover _
    · have hst : s.csrStatus a true = 0 := by
        rw [State.csrStatus_own hdie (State.dieOn_of_sluiceOpen hsluice) (fun _ => ⟨h9, h13⟩), if_neg (by rw [hrow]; decide), if_neg hdbg]
        rfl
      rw [doEngCsrWrite_eq hf hfn hx, State.csrWriteBody_here (st := 0) (hremote hdie) (fun _ => by rw [hc.sluiceOpen, hsluice])
        (by rw [hat, State.csrStatus_fetchEcc, hst]), if_pos rfl, hat, State.reg_fetchEcc]
      exact hover _
    · refine doEngCsrWrite_answers hf hfn hx (State.csrRemote_own hdie) (fun _ => hsluice) ?_ (by decide)
      by_cases hblk : blockOf a = 9 ∨ blockOf a = 13
      · exact State.csrStatus_blocked hdie hpop hblk
      · rw [not_or] at hblk
        obtain ⟨hrow, hdbg⟩ : (findRow a).isSome = true ∧ dbg := by
          rcases hbad with h | h | h
          · exact absurd h hblk.1
          · exact absurd h hblk.2
          · exact h
        exact (State.csrStatus_own hdie (State.dieOn_of_sluiceOpen hsluice) (fun _ => hblk)).trans
          ((if_neg (by rw [hrow]; decide)).trans (if_pos hdbg))
    · refine doEngCsrRead_answers hf hfn hx (State.csrRemote_own hdie) (fun _ => hsluice) ?_ (by decide)
      exact (State.csrStatus_own hdie (State.dieOn_of_sluiceOpen hsluice) (fun h => absurd h (by decide))).trans
        ((if_neg (by rw [hrow]; decide)).trans (if_pos hdbg))
    · intro m hask
      exact ⟨_, rfl, doEngCsrRead_asks hf hfn hx rfl hpop hdie hask⟩
    · intro m hask
      exact ⟨_, rfl, doEngCsrWrite_asks hf hfn hx rfl hpop hdie hask⟩
    · have hpopulated (n : Nat) (h : n = 15) : s.populated n = false := by
        rw [h]
        exact Bool.eq_false_iff.2 fun hp => absurd (State.populated_lt hp) (by decide)
      have both {st : Nat} (hremote : s.csrRemote d a = false) (hne : st ≠ 0) (hread : Ins.fn w = 0 → s.csrStatus a false = st)
          (hwrite : Ins.fn w = 1 → s.csrStatus a true = st) (hsluice : die = d.val → s.sluiceOpen d = true) :
          (Ins.fn w = 0 → Completes (.engCsrRead d e) s fun t => WroteReg s t d e (Ins.rd w) 0 ∧ EngRan s t d e (ended st)) ∧
            (Ins.fn w = 1 → Completes (.engCsrWrite d e) s fun t => t.engReg = s.engReg ∧ EngRan s t d e (ended st)) :=
        ⟨fun hfn => ⟨_, rfl, doEngCsrRead_answers hf hfn hx hremote hsluice (hread hfn) hne⟩,
          fun hfn => ⟨_, rfl, doEngCsrWrite_answers hf hfn hx hremote hsluice (hwrite hfn) hne⟩⟩
      simp only [List.forall_mem_cons, List.not_mem_nil, false_implies, implies_true, and_true]
      refine ⟨fun hdie hsluice => ?_, fun habsent hsluice => ?_, fun hno hsluice => ?_⟩
      · have hst (write : Bool) : s.csrStatus a write = St.refused := if_pos (by rw [show dieOf a = 15 from hdie]; decide)
        exact both (State.csrRemote_absent (hpopulated _ hdie)) (by decide) (fun _ => hst false) (fun _ => hst true) hsluice
      · obtain ⟨hdie, habsent⟩ := habsent
        have hst (write : Bool) : s.csrStatus a write = St.notPresent :=
          (if_neg (by rw [beq_iff_eq]; exact hdie)).trans (if_pos (by rw [show s.populated (dieOf a) = false from habsent]; decide))
        exact both (State.csrRemote_absent habsent) (by decide) (fun _ => hst false) (fun _ => hst true) hsluice
      · obtain ⟨hdie, hpop, hopen, hrow, hblk⟩ := hno
        have hst (write : Bool) (h : write = true → blk ≠ 9 ∧ blk ≠ 13) : s.csrStatus a write = St.notPresent :=
          (State.csrStatus_own hdie (State.dieOn_of_sluiceOpen hopen) h).trans (if_pos hrow)
        exact both (State.csrRemote_own hdie) (by decide) (fun _ => hst false (fun h => absurd h (by decide))) (fun hfn => hst true fun _ => hblk hfn) hsluice

end Sys2Proof.Machine

end

section

/-! PROOFS. Locks and fences (03 R138 to R141; 02 R94 to R96), and O16. -/

namespace Sys2Proof.Machine

section
variable {s t u : State} {d : Die} {e : Eng} {w : Word}

/-! ## Lock tables -/

theorem State.lockOf_congr (h : t.locks = s.locks) (key : Word) : t.lockOf key = s.lockOf key := by
  unfold State.lockOf
  rw [h]

theorem State.lockOf_setLocks (s : State) {n : Nat} {key : Word} (h : keyDie key = n) (l : List Lock) :
    (s.setLocks n l).lockOf key = l.find? (·.key == key) := by
  subst h
  unfold State.lockOf State.setLocks
  dsimp only
  rw [SMap.get_set_same]

/-- The first lock of a key, when every lock of the key is changed alike. -/
theorem find?_map_key (l : List Lock) (key : Word) (f : Lock → Lock) (hf : ∀ x, (f x).key = x.key) :
    (l.map (fun x => if x.key == key then f x else x)).find? (·.key == key) = (l.find? (·.key == key)).map f := by
  induction l with
  | nil => rfl
  | cons x l ih =>
    cases hx : x.key == key with
    | true =>
      rw [List.map_cons, if_pos hx, List.find?_cons, List.find?_cons, hf, hx]
      rfl
    | false =>
      rw [List.map_cons, if_neg (by rw [hx]; decide), List.find?_cons, List.find?_cons, hx]
      exact ih

/-- The first lock of a key in a table from which the locks that `p` does not take went. -/
theorem find?_filter_key (l : List Lock) (key : Word) (p : Lock → Bool) {b : Bool} (hp : ∀ x ∈ l, x.key = key → p x = b) :
    (l.filter p).find? (·.key == key) = if b then l.find? (·.key == key) else none := by
  induction l with
  | nil => cases b <;> rfl
  | cons x l ih =>
    specialize ih fun y hy => hp y (List.mem_cons_of_mem _ hy)
    cases hx : x.key == key with
    | true =>
      have hpx := hp x List.mem_cons_self (beq_iff_eq.1 hx)
      cases b with
      | true => simp [hpx, hx]
      | false => simpa [hpx] using ih
    | false =>
      cases hpx : p x with
      | true => simpa [hpx, hx] using ih
      | false => simpa [hpx, hx] using ih

/-- A lock of the key without a holder stays in the table while claims wait for it. -/
theorem State.lockOf_sweepLocks (s : State) (key : Word) {b : Bool} (hb : s.claims.any (·.key == key) = b)
    (hfree : b = false → ∀ x ∈ SMap.get [] s.locks (keyDie key), x.key = key → x.holder = none) :
    (s.sweepLocks (keyDie key)).lockOf key = if b then s.lockOf key else none := by
  unfold State.sweepLocks
  rw [State.lockOf_setLocks _ rfl]
  refine find?_filter_key _ key _ fun x hx hkey => ?_
  rw [hkey, hb]
  cases b with
  | true => exact Bool.or_true _
  | false => rw [hfree rfl x hx hkey]; rfl

/-- The table once the key's lock has no holder. -/
def State.unheld (s : State) (key : Word) : State :=
  s.setLocks (keyDie key) ((SMap.get [] s.locks (keyDie key)).map (fun x => if x.key == key then { x with holder := none } else x))

theorem State.unheld_holder (s : State) (key : Word) : ∀ x ∈ SMap.get [] (s.unheld key).locks (keyDie key), x.key = key → x.holder = none := by
  intro x hx hkey
  unfold State.unheld State.setLocks at hx
  dsimp only at hx
  rw [SMap.get_set_same] at hx
  obtain ⟨y, -, rfl⟩ := List.mem_map.1 hx
  split at hkey
  · rename_i hy
    rw [if_pos hy]
  · rename_i hy
    exact absurd (beq_iff_eq.2 hkey) hy

theorem State.lockOf_unheld (s : State) (key : Word) : (s.unheld key).lockOf key = (s.lockOf key).map (fun l => { l with holder := none }) := by
  unfold State.unheld
  rw [State.lockOf_setLocks _ rfl]
  exact find?_map_key _ key _ fun _ => rfl

/-- What a release leaves of its lock. -/
theorem State.lockOf_releaseLock {key : Word} {n m : Nat} {l : Lock} (hl : s.lockOf key = some l) (hheld : l.holder = some (n, m)) :
    (s.releaseLock key n m).lockOf key = if s.claims.any (·.key == key) then some { l with holder := none } else none := by
  have hholds : s.holdsLock key n m = true := by
    unfold State.holdsLock
    rw [hl]
    exact beq_iff_eq.2 hheld
  have hrelease : s.releaseLock key n m = (s.unheld key).sweepLocks (keyDie key) := if_neg (by rw [hholds]; decide)
  rw [hrelease, State.lockOf_sweepLocks (s.unheld key) key (b := s.claims.any (·.key == key)) rfl fun _ => s.unheld_holder key,
    State.lockOf_unheld, hl]
  rfl

theorem State.releaseLock_not_held {key : Word} {n m : Nat} (h : ∀ l, s.lockOf key = some l → l.holder ≠ some (n, m)) :
    s.releaseLock key n m = s := by
  refine if_pos ?_
  unfold State.holdsLock
  cases hl : s.lockOf key with
  | none => rfl
  | some l => simpa using h l hl

theorem State.releaseLock_frame (s : State) (key : Word) (n m : Nat) :
    s.releaseLock key n m = { s with locks := (s.releaseLock key n m).locks } := by
  unfold State.releaseLock
  split
  · rfl
  · rfl

theorem State.abortClaim_frame (s : State) (key : Word) (n m : Nat) :
    let t := s.abortClaim key n m
    t.claims = s.claims.filter (fun c => !(c.eDie == n && c.eng == m && c.key == key)) ∧ t = { s with locks := t.locks, claims := t.claims } := by
  unfold State.abortClaim State.sweepLocks State.setLocks
  dsimp only
  have hframe := State.releaseLock_frame { s with claims := s.claims.filter (fun c => !(c.eDie == n && c.eng == m && c.key == key)) } key n m
  rw [hframe]
  exact ⟨rfl, rfl⟩

/-- What an abort leaves of a lock that was granted on its claim. -/
theorem State.lockOf_abortClaim {key : Word} {n m : Nat} {l : Lock} (hl : s.lockOf key = some l) (hheld : l.holder = some (n, m)) :
    (s.abortClaim key n m).lockOf key = if (s.abortClaim key n m).claims.any (·.key == key) then some { l with holder := none } else none := by
  rw [(s.abortClaim_frame key n m).1]
  obtain ⟨v, hv⟩ : ∃ v : State, v = { s with claims := s.claims.filter (fun c => !(c.eDie == n && c.eng == m && c.key == key)) } := ⟨_, rfl⟩
  have hlv : v.lockOf key = some l := by rw [hv]; exact hl
  have hclaims : s.claims.filter (fun c => !(c.eDie == n && c.eng == m && c.key == key)) = v.claims := by rw [hv]
  have hkeep : (v.releaseLock key n m).claims = v.claims := (congrArg State.claims (v.releaseLock_frame key n m) :)
  have habort : s.abortClaim key n m = (v.releaseLock key n m).sweepLocks (keyDie key) := by rw [hv]; rfl
  have hreleased := State.lockOf_releaseLock hlv hheld
  rw [habort, hclaims]
  by_cases hany : v.claims.any (·.key == key) = true
  · rw [State.lockOf_sweepLocks _ key (b := true) (by rw [hkeep, hany]) (fun h => by cases h), if_pos rfl, hreleased]
  · have hno := Bool.eq_false_iff.2 hany
    rw [hno, if_neg Bool.false_ne_true] at hreleased ⊢
    have hnone : ∀ x ∈ SMap.get [] (v.releaseLock key n m).locks (keyDie key), x.key = key → x.holder = none := by
      intro x hx hkey
      exact absurd (beq_iff_eq.2 hkey) (List.find?_eq_none.1 hreleased x hx)
    rw [State.lockOf_sweepLocks _ key (b := false) (by rw [hkeep, hno]) (fun _ => hnone), if_neg Bool.false_ne_true]

/-! ## LOCK (R138, R139) -/

theorem State.routeUp_congr (hpart : t.part = s.part) (hcsr : t.csr = s.csr) (goal n a : Nat) : t.routeUp goal n a = s.routeUp goal n a := by
  have hget (x : Nat) : t.csrGet x = s.csrGet x := by
    unfold State.csrGet
    rw [hcsr]
  induction n generalizing a with
  | zero => rfl
  | succ n ih =>
    obtain ⟨c, hc⟩ : ∃ c, c = if a % 4 < goal % 4 then 1 else if goal % 4 < a % 4 then 0 else 2 := ⟨_, rfl⟩
    have hnb : t.neighbour a c = s.neighbour a c := by
      unfold State.neighbour State.populated
      rw [hpart]
    unfold State.routeUp
    dsimp only
    rw [← hc, hnb]
    cases s.neighbour a c with
    | none => rfl
    | some m =>
      have hcv : t.fbit (Csr.cvSts a c) CvSts.trained = s.fbit (Csr.cvSts a c) CvSts.trained := by
        unfold State.fbit
        rw [State.fget_congr (hget _)]
      dsimp only
      rw [hcv, State.dieOn_congr m hpart (hget _), ih m]

theorem State.pathUp_congr (hpart : t.part = s.part) (hcsr : t.csr = s.csr) (a b : Nat) : t.pathUp a b = s.pathUp a b := by
  unfold State.pathUp
  rw [State.routeUp_congr hpart hcsr, State.dieOn_congr b hpart (by unfold State.csrGet; rw [hcsr])]

theorem doEngLock_eq (hop : Ins.op w = 0x2E) (hrd : Ins.rd w = 0) (hrs1 : Ins.rs1 w < 24) (himm : Ins.imm w < 16) (hx : s.Executing d e w 1) :
    doEngLock d e s = (s.fetchEcc d e).lockBody d e w :=
  State.engRun_body hx (by decide) (by simp [lockIs, opIs, hop]; omega) (by simp [legalLock, regOk, hrd, hrs1]; omega) rfl

theorem doEngLockRelease_eq (hop : Ins.op w = 0x2E) (hrd : Ins.rd w = 0) (hrs1 : Ins.rs1 w < 24) (hge : 16 ≤ Ins.imm w) (himm : Ins.imm w < 32)
    (hx : s.Executing d e w 1) : doEngLockRelease d e s = (s.fetchEcc d e).unlockBody d e w :=
  State.engRun_body hx (by decide) (by simp [lockIs, opIs, hop]; omega) (by simp [legalLock, regOk, hrd, hrs1, himm]) rfl

/-- A claim of a key that its table may take. -/
structure State.CanClaim (s : State) (d e : Nat) (key : Word) (rank : Nat) : Prop where
  free : key.toNat < 2 ^ 31
  up : s.pathUp d (keyDie key) = true
  back : s.pathUp (keyDie key) d = true
  way : s.lockOnWay d e key = false
  ranks : (s.eng d e).locks.all (fun l => decide (l.2 < rank)) = true
  snoop : (s.eng d e).onSnp = true → s.fget (Csr.dirCtrl d) DirCtrl.txnRank < rank

/-- The engine waits for the lock. -/
def State.holdLock (s : State) (d e : Nat) (key : Word) (rank : Nat) : State :=
  s.setEng d e { s.eng d e with run := (s.eng d e).run + 1, wait := .lock key rank }

/-- The claim joins those that wait for the key. -/
def State.queueClaim (s : State) (d e : Nat) (key : Word) (rank : Nat) : State :=
  State.holdLock { s with claims := s.claims ++ [(⟨keyDie key, key, rank, d, e, (s.eng d e).esc⟩ : Claim)] } d e key rank

theorem State.CanClaim.lockBody {d e : Nat} (h : s.CanClaim d e (s.reg d e (Ins.rs1 w)) (Ins.imm w % 16)) :
    let key := s.reg d e (Ins.rs1 w)
    let rank := Ins.imm w % 16
    s.lockBody d e w = match s.lockOf key with
      | some l => if l.rank ≠ rank then s.engFault d e Fc.rank else s.queueClaim d e key rank
      | none =>
        if (SMap.get [] s.locks (keyDie key)).length < 256 && (s.entryClaims (keyDie key)).isEmpty then
          (s.newLock key rank d e).lockGranted d e key rank 1
        else s.queueClaim d e key rank := by
  obtain ⟨hkey, hup, hback, hway, hranks, hsnoop⟩ := h
  have hsnoop' : ((s.eng d e).onSnp && decide (Ins.imm w % 16 ≤ s.fget (Csr.dirCtrl d) DirCtrl.txnRank)) = false := by
    simpa using hsnoop
  have hranks' : (s.eng d e).locks.any (fun l => decide (Ins.imm w % 16 ≤ l.2)) = false := by
    simpa using hranks
  have hbit : bitOf (s.reg d e (Ins.rs1 w)).toNat 31 = false := by
    unfold bitOf
    rw [Nat.div_eq_of_lt hkey]
    rfl
  have hpop : s.populated (keyDie (s.reg d e (Ins.rs1 w))) = true := (Bool.and_eq_true_iff.1 (Bool.and_eq_true_iff.1 hup).1).1
  have hnew : (s.newLock (s.reg d e (Ins.rs1 w)) (Ins.imm w % 16) d e).pathUp (keyDie (s.reg d e (Ins.rs1 w))) d = true :=
    (State.pathUp_congr rfl rfl _ _).trans hback
  unfold State.lockBody
  dsimp only
  rw [if_neg (by rw [hsnoop']; decide), if_neg (by rw [hranks']; decide), if_neg (by rw [hbit]; decide), if_neg (by rw [hpop]; decide),
    if_neg (by rw [hup]; decide), if_neg (by rw [hway]; decide)]
  cases s.lockOf (s.reg d e (Ins.rs1 w)) with
  | some l => rfl
  | none =>
    dsimp only
    rw [if_pos hnew]
    rfl

theorem State.lockOnWay_fetchEcc (s : State) (d : Die) (e : Eng) (key : Word) : (s.fetchEcc d e).lockOnWay d e key = s.lockOnWay d e key := by
  have hc := s.fetchEcc_checks d e
  unfold State.lockOnWay State.escOnWay
  rw [hc.xsrc, hc.xin, hc.xout]

theorem State.CanClaim.fetched {key : Word} {rank : Nat} (h : s.CanClaim d e key rank) : (s.fetchEcc d e).CanClaim d e key rank := by
  have hc := s.fetchEcc_checks d e
  have hrank : (s.fetchEcc d e).fget (Csr.dirCtrl d) DirCtrl.txnRank = s.fget (Csr.dirCtrl d) DirCtrl.txnRank := hc.fget_low d (by decide) _
  refine ⟨h.free, ?_, ?_, ?_, ?_, ?_⟩
  · rw [hc.pathUp]; exact h.up
  · rw [hc.pathUp]; exact h.back
  · rw [State.lockOnWay_fetchEcc]; exact h.way
  · rw [State.eng_fetchEcc]; exact h.ranks
  · rw [State.eng_fetchEcc, hrank]; exact h.snoop

/-- A new lock has room in its table: an entry is free, and no claim waits for one. -/
def State.lockRoom (s : State) (kd : Nat) : Bool := (SMap.get [] s.locks kd).length < 256 && (s.entryClaims kd).isEmpty

theorem State.lockRoom_iff (kd : Nat) : s.lockRoom kd = true ↔
    (SMap.get [] s.locks kd).length < 256 ∧ ∀ c ∈ s.claims, c.die = kd → (s.lockOf c.key).isSome = true := by
  unfold State.lockRoom State.entryClaims
  simp only [Bool.and_eq_true, decide_eq_true_eq, List.isEmpty_iff, List.filter_eq_nil_iff, beq_iff_eq, not_and, Option.isNone_iff_eq_none,
    ← Option.isSome_iff_ne_none, ← ne_eq]

theorem State.lockOf_fetchEcc (s : State) (d : Die) (e : Eng) (key : Word) : (s.fetchEcc d e).lockOf key = s.lockOf key :=
  State.lockOf_congr (s.fetchEcc_checks d e).locks key

theorem State.lockRoom_fetchEcc (s : State) (d : Die) (e : Eng) (kd : Nat) : (s.fetchEcc d e).lockRoom kd = s.lockRoom kd := by
  unfold State.lockRoom State.entryClaims
  simp only [State.lockOf_fetchEcc, (s.fetchEcc_checks d e).locks, (s.fetchEcc_checks d e).claims]

theorem State.lockGranted_runs (hengs : u.engs = s.engs) (key : Word) (rank n : Nat) :
    s.Runs (u.lockGranted d e key rank n) d e { (s.eng d e).went n ((s.eng d e).pc + 1) with
      locks := (s.eng d e).locks ++ [(key, rank)]
      ost := ost 0 false false 0 } ∧ OnlyRecords u (u.lockGranted d e key rank n) := by
  have hcalm (v : State) : Ost.poison.bit (ost 0 false false 0) = false ∨ v.fbit (Csr.engCtrl d e) EngCtrl.ptrap = false := .inl (ost_poison ..)
  unfold State.lockGranted
  dsimp only
  rw [State.eng_congr hengs]
  exact ⟨((State.Runs.of_engs hengs).setEng _).engDoneS n (hcalm _), ((OnlyRecords.refl u).setEng ..).engDoneS d e n (hcalm _)⟩

/-- A claim that waits: what its LOCK leaves. -/
structure State.Queued (s t : State) (d : Die) (e : Eng) (key : Word) (rank : Nat) : Prop where
  claims : t.claims = s.claims ++ [⟨keyDie key, key, rank, d, e, (s.eng d e).esc⟩]
  record : t.eng d e = { s.eng d e with run := (s.eng d e).run + 1, wait := .lock key rank }
  others : ∀ (d' : Die) (e' : Eng), (d', e') ≠ (d, e) → t.eng d' e' = s.eng d' e'
  frame : t = { s.fetchEcc d e with engs := t.engs, claims := t.claims }

theorem State.queueClaim_queued (s : State) (d : Die) (e : Eng) (key : Word) (rank : Nat) :
    s.Queued ((s.fetchEcc d e).queueClaim d e key rank) d e key rank := by
  have hc := s.fetchEcc_checks d e
  have heng := s.eng_fetchEcc d e
  unfold State.queueClaim State.holdLock
  obtain ⟨u, hu⟩ : ∃ u : State, u = { s.fetchEcc d e with claims := (s.fetchEcc d e).claims ++ [⟨keyDie key, key, rank, d, e, ((s.fetchEcc d e).eng d e).esc⟩] } := ⟨_, rfl⟩
  rw [← hu]
  have hengs : u.engs = s.engs := by rw [hu]; exact State.fetchEcc_engs ..
  have hruns := (State.Runs.of_engs (d := d) (e := e) hengs).setEng { u.eng d e with run := (u.eng d e).run + 1, wait := .lock key rank }
  have hclaims : u.claims = s.claims ++ [⟨keyDie key, key, rank, d, e, (s.eng d e).esc⟩] := by rw [hu, ← hc.claims, ← heng]
  refine ⟨hclaims, ?_, hruns.others, ?_⟩
  · rw [hruns.eng, State.eng_congr hengs]
  · rw [hu]; rfl

theorem State.CanClaim.lock_new (hop : Ins.op w = 0x2E) (hrd : Ins.rd w = 0) (hrs1 : Ins.rs1 w < 24) (himm : Ins.imm w < 16) (hx : s.Executing d e w 1)
    (h : s.CanClaim d e (s.reg d e (Ins.rs1 w)) (Ins.imm w % 16)) (hnone : s.lockOf (s.reg d e (Ins.rs1 w)) = none) :
    doEngLock d e s = if s.lockRoom (keyDie (s.reg d e (Ins.rs1 w))) then
        ((s.fetchEcc d e).newLock (s.reg d e (Ins.rs1 w)) (Ins.imm w % 16) d e).lockGranted d e (s.reg d e (Ins.rs1 w)) (Ins.imm w % 16) 1
      else (s.fetchEcc d e).queueClaim d e (s.reg d e (Ins.rs1 w)) (Ins.imm w % 16) := by
  have hreg := s.reg_fetchEcc d e d e (Ins.rs1 w)
  have hbody := State.CanClaim.lockBody (s := s.fetchEcc d e) (w := w) (by rw [hreg]; exact h.fetched)
  rw [doEngLock_eq hop hrd hrs1 himm hx, hbody, hreg, State.lockOf_fetchEcc, hnone, ← State.lockRoom_fetchEcc s d e]
  rfl

theorem State.CanClaim.lock_waits (hop : Ins.op w = 0x2E) (hrd : Ins.rd w = 0) (hrs1 : Ins.rs1 w < 24) (himm : Ins.imm w < 16) (hx : s.Executing d e w 1)
    (h : s.CanClaim d e (s.reg d e (Ins.rs1 w)) (Ins.imm w % 16)) {l : Lock} (hl : s.lockOf (s.reg d e (Ins.rs1 w)) = some l) (hrank : l.rank = Ins.imm w % 16) :
    doEngLock d e s = (s.fetchEcc d e).queueClaim d e (s.reg d e (Ins.rs1 w)) (Ins.imm w % 16) := by
  have hreg := s.reg_fetchEcc d e d e (Ins.rs1 w)
  have hbody := State.CanClaim.lockBody (s := s.fetchEcc d e) (w := w) (by rw [hreg]; exact h.fetched)
  rw [doEngLock_eq hop hrd hrs1 himm hx, hbody, hreg, State.lockOf_fetchEcc, hl]
  exact if_neg (by simp [hrank])

/-- A grant at once: what its LOCK leaves. -/
theorem State.newLock_granted (s : State) (d : Die) (e : Eng) (key : Word) (rank : Nat) :
    let t := ((s.fetchEcc d e).newLock key rank d e).lockGranted d e key rank 1
    SMap.get [] t.locks (keyDie key) = SMap.get [] s.locks (keyDie key) ++ [{ key := key, rank := rank, holder := some (d.val, e.val) }] ∧
      (∀ n ≠ keyDie key, SMap.get [] t.locks n = SMap.get [] s.locks n) ∧
      t.eng d e = { (s.eng d e).went 1 ((s.eng d e).pc + 1) with locks := (s.eng d e).locks ++ [(key, rank)], ost := ost 0 false false 0 } ∧
      t = { s.fetchEcc d e with engs := t.engs, locks := t.locks } := by
  have hc := s.fetchEcc_checks d e
  obtain ⟨u, hu⟩ : ∃ u : State, u = (s.fetchEcc d e).newLock key rank d e := ⟨_, rfl⟩
  have hengs : u.engs = s.engs := by rw [hu]; exact State.fetchEcc_engs ..
  have hlocks : u.locks = SMap.set [] s.locks (keyDie key) (SMap.get [] s.locks (keyDie key) ++ [{ key := key, rank := rank, holder := some (d.val, e.val) }]) := by
    rw [hu, ← hc.locks]
    rfl
  have hframe : u = { s.fetchEcc d e with locks := u.locks } := by rw [hu]; rfl
  obtain ⟨hruns, honly⟩ := State.lockGranted_runs (d := d) (e := e) hengs key rank 1
  rw [← hu]
  dsimp only
  have hkeep : (u.lockGranted d e key rank 1).locks = u.locks := (congrArg State.locks honly :)
  refine ⟨?_, ?_, hruns.eng, ?_⟩
  · rw [hkeep, hlocks, SMap.get_set_same]
  · intro n hn
    rw [hkeep, hlocks]
    exact SMap.get_set_other _ _ _ _ n hn
  · rw [hkeep]
    unfold OnlyRecords at honly
    rw [honly, hframe]

/-! ## LOCK with REL = 1 -/

/-- What the release of a held lock leaves. -/
theorem State.unlockBody_sends {key : Word} (hkey : s.reg d e (Ins.rs1 w) = key) (hmine : (s.eng d e).locks.any (·.1 == key) = true)
    {l : Lock} (hl : s.lockOf key = some l) (hheld : l.holder = some (d.val, e.val)) :
    let t := (s.fetchEcc d e).unlockBody d e w
    let m := (((escMsg .escRelease).w Hd.srcDie d).w Hd.srcIdx (8 + e)).w Hd.addr key.toNat
    Entered s t d (13 + e / 8) ⟨s.serial, m, keyDie key, 12⟩ ∧
      t.eng d e = { (s.eng d e).went 1 ((s.eng d e).pc + 1) with locks := (s.eng d e).locks.filter (·.1 ≠ key), ost := ost 0 false false 0 } ∧
      (∀ (d' : Die) (e' : Eng), (d', e') ≠ (d, e) → t.eng d' e' = s.eng d' e') ∧
      t = { s.fetchEcc d e with engs := t.engs, xin := t.xin, xsrc := t.xsrc, serial := s.serial + 1 } := by
  have hc := s.fetchEcc_checks d e
  have hholds : (s.fetchEcc d e).holdsLock key d e = true := by
    unfold State.holdsLock
    rw [State.lockOf_fetchEcc, hl]
    exact beq_iff_eq.2 hheld
  obtain ⟨u, hu⟩ : ∃ u : State, u = (s.fetchEcc d e).setEng d e { s.eng d e with locks := (s.eng d e).locks.filter (·.1 ≠ key) } := ⟨_, rfl⟩
  obtain ⟨v, hv⟩ : ∃ v : State, v = u.lockEsc d e .escRelease key := ⟨_, rfl⟩
  have hbody : (s.fetchEcc d e).unlockBody d e w = v.engDoneS d e 1 (ost 0 false false 0) := by
    unfold State.unlockBody
    dsimp only
    rw [State.reg_fetchEcc, State.eng_fetchEcc, hkey, if_neg (by rw [hmine]; decide), hholds, if_pos rfl, ← hu, ← hv]
  have hruns : s.Runs u d e { s.eng d e with locks := (s.eng d e).locks.filter (·.1 ≠ key) } := by
    rw [hu]
    exact (State.Runs.fetched s d e).setEng _
  have hrecords : OnlyRecords (s.fetchEcc d e) u := by
    rw [hu]
    exact (OnlyRecords.refl _).setEng ..
  unfold OnlyRecords at hrecords
  have hin : u.xin = s.xin := (congrArg State.xin hrecords :).trans hc.xin
  have hsrc : u.xsrc = s.xsrc := (congrArg State.xsrc hrecords :).trans hc.xsrc
  have hserial : u.serial = s.serial := (congrArg State.serial hrecords :).trans (congrArg State.serial hc.frame :)
  have hinject := State.inject_frame hv
  have hentered := State.inject_entered hin hsrc hserial d (engEndpoint e) ((((escMsg .escRelease).w Hd.srcDie d).w Hd.srcIdx (engIdx e)).w Hd.addr key.toNat) (keyDie key) 12
  have hcalm : Ost.poison.bit (ost 0 false false 0) = false ∨ v.fbit (Csr.engCtrl d e) EngCtrl.ptrap = false := .inl (ost_poison ..)
  have hdone := (hruns.keep (u := v) (congrArg State.engs hinject :)).engDoneS 1 hcalm
  have honly := (OnlyRecords.refl v).engDoneS d e 1 hcalm
  unfold OnlyRecords at honly
  rw [hbody]
  refine ⟨⟨?_, ?_⟩, hdone.eng, hdone.others, ?_⟩
  · exact (congrArg State.xin honly :).trans ((congrArg State.xin hv :).trans hentered.1)
  · exact (congrArg State.xsrc honly :).trans ((congrArg State.xsrc hv :).trans hentered.2)
  · rw [honly, hinject, hserial, hrecords]

/-! ## ESC messages at their units (02 R94) -/

/-- From `s` to `t` only the crossbar's inputs, pointers and slots changed. -/
def Crossed (s t : State) : Prop :=
  t = { s with xin := t.xin, xsrc := t.xsrc, xrr := t.xrr, xbusy := t.xbusy }

theorem State.holdPointers_frame (s : State) (d e : Nat) : s.holdPointers d e = { s with xrr := (s.holdPointers d e).xrr } := by
  unfold State.holdPointers
  refine List.foldlRecOn (motive := fun t : State => t = { s with xrr := t.xrr }) _ _ rfl fun t ht v _ => ?_
  split
  · split
    · exact ht
    · rw [ht]
  · exact ht

theorem State.took_crossed (s : State) (d e v i : Nat) (x : XMsg) : Crossed s (s.took d e v i x) := by
  have hhold := s.holdPointers_frame d e
  unfold State.took State.xtake State.refillIn
  dsimp only
  generalize s.holdPointers d e = t at hhold ⊢
  unfold Crossed
  rw [hhold]

/-- An output sends an ESC message to a unit that takes it at once. -/
theorem State.Forwards.escSink {ep i : Nat} {y : XMsg} (hep : 11 ≤ ep) (hf : s.Forwards d ep 4 i y) (hunit : escUnit y.msg.name = true) :
    doCrossbarForward d ep s = (s.took d ep 4 i y).escSink d y.msg := by
  obtain ⟨hclock, hslots, -, hselect⟩ := hf
  have hup : (s.took d ep 4 i y).sinkUp d ep = true := by
    unfold State.sinkUp
    rw [if_neg (by omega), if_neg (by omega)]
  unfold doCrossbarForward
  dsimp only
  have hsending : (s.holdPointers d ep).sending d ep = s.sending d ep := by
    unfold State.sending
    rw [s.holdPointers_frame d ep]
  rw [hclock, if_neg (by simpa using hslots), hsending, hselect]
  dsimp only
  rw [hup, if_neg (by decide)]
  unfold State.xdeliver
  rw [if_pos (by rw [hunit]; simpa using hep)]

/-- A release at its lock table. -/
theorem State.Forwards.release {ep i : Nat} {y : XMsg} (hep : 11 ≤ ep) (hf : s.Forwards d ep 4 i y) (hname : y.msg.name = .escRelease) :
    doCrossbarForward d ep s =
      (s.took d ep 4 i y).releaseLock (BitVec.ofNat 32 (y.msg.g Hd.addr)) (y.msg.g Hd.srcDie) (y.msg.g Hd.srcIdx - 8) := by
  rw [hf.escSink hep (by rw [hname]; rfl)]
  unfold State.escSink
  rw [hname]

/-- An abort at its lock table. -/
theorem State.Forwards.abort {ep i : Nat} {y : XMsg} (hep : 11 ≤ ep) (hf : s.Forwards d ep 4 i y) (hname : y.msg.name = .escAbort) :
    doCrossbarForward d ep s =
      (s.took d ep 4 i y).abortClaim (BitVec.ofNat 32 (y.msg.g Hd.addr)) (y.msg.g Hd.srcDie) (y.msg.g Hd.srcIdx - 8) := by
  rw [hf.escSink hep (by rw [hname]; rfl)]
  unfold State.escSink
  rw [hname]

/-- A wake at an engine that waits with its key. -/
theorem State.Forwards.wake {ep i rank : Nat} {y : XMsg} (hep : 11 ≤ ep) (hf : s.Forwards d ep 4 i y) (hname : y.msg.name = .escWake)
    (hdest : y.msg.g Hd.destIdx = 8 + e) (hwait : (s.eng d e).wait = .lock (BitVec.ofNat 32 (y.msg.g Hd.addr)) rank)
    (hrun : (s.eng d e).running = true) :
    doCrossbarForward d ep s = (s.took d ep 4 i y).lockGranted d e (BitVec.ofNat 32 (y.msg.g Hd.addr)) rank 0 := by
  have heng : (s.took d ep 4 i y).eng d e = s.eng d e := State.eng_congr (congrArg State.engs (s.took_crossed d ep 4 i y) :) d e
  have hidx : y.msg.g Hd.destIdx - 8 = e := by omega
  rw [hf.escSink hep (by rw [hname]; rfl)]
  unfold State.escSink
  rw [hname]
  dsimp only
  unfold State.wakeArrives
  rw [hidx, heng, hwait]
  dsimp only
  rw [hrun, if_pos (by simp)]

/-! ## LOCK_WAKE (R138, R139; 02 R96) -/

theorem firstClaim_mem {l : List Claim} {c : Claim} (h : firstClaim l = some c) : c ∈ l := by
  induction l generalizing c with
  | nil => cases h
  | cons x l ih =>
    unfold firstClaim at h
    cases hrest : firstClaim l with
    | none =>
      rw [hrest] at h
      cases h
      exact List.mem_cons_self
    | some y =>
      rw [hrest] at h
      dsimp only at h
      split at h
      · cases h
        exact List.mem_cons_self
      · cases h
        exact List.mem_cons_of_mem _ (ih hrest)

/-- What a served claim leaves but for its lock. -/
structure State.Woke (s t : State) (d : Die) (c : Claim) : Prop where
  entered : Entered s t d 12 ⟨s.serial, (((((escMsg .escWake).w Hd.srcDie d).w Hd.srcIdx 73).w Hd.addr c.key.toNat).w Hd.destDie c.eDie).w Hd.destIdx (8 + c.eng), c.eDie, 13 + c.eng / 8⟩
  claims : t.claims = s.claims.erase c
  frame : t = { s with locks := t.locks, claims := t.claims, xin := t.xin, xsrc := t.xsrc, serial := s.serial + 1 }

/-- The wake of a claim whose lock the table now holds. -/
theorem State.wakeClaim_woke {c : Claim} (hdie : c.die = d) (hclaims : u.claims = s.claims.erase c)
    (hframe : u = { s with locks := u.locks, claims := u.claims }) :
    s.Woke (u.wakeClaim c) d c ∧ ∀ key, (u.wakeClaim c).lockOf key = u.lockOf key := by
  have hin : u.xin = s.xin := (congrArg State.xin hframe :)
  have hsrc : u.xsrc = s.xsrc := (congrArg State.xsrc hframe :)
  have hserial : u.serial = s.serial := (congrArg State.serial hframe :)
  obtain ⟨v, hv⟩ : ∃ v : State, v = u.wakeClaim c := ⟨_, rfl⟩
  have hinject := State.inject_frame hv
  have hentered := State.inject_entered hin hsrc hserial c.die 12
    ((((((escMsg .escWake).w Hd.srcDie c.die).w Hd.srcIdx 73).w Hd.addr c.key.toNat).w Hd.destDie c.eDie).w Hd.destIdx (engIdx c.eng)) c.eDie (engEndpoint c.eng)
  rw [← hv]
  refine ⟨⟨⟨?_, ?_⟩, ?_, ?_⟩, fun key => State.lockOf_congr (congrArg State.locks hinject :) key⟩
  · rw [← hdie]
    exact (congrArg State.xin hv :).trans hentered.1
  · rw [← hdie]
    exact (congrArg State.xsrc hv :).trans hentered.2
  · exact (congrArg State.claims hinject :).trans hclaims
  · rw [hinject, hserial, hframe]

/-- A claim of a key without a lock: the lock is new, and the claimant's. -/
theorem State.serveClaim_new {c : Claim} (hdie : c.die = d) (hnone : s.lockOf c.key = none) :
    (s.serveClaim c).lockOf c.key = some ⟨c.key, c.rank, some (c.eDie, c.eng)⟩ ∧ s.Woke (s.serveClaim c) d c := by
  obtain ⟨u, hu⟩ : ∃ u : State, u = State.newLock { s with claims := s.claims.erase c } c.key c.rank c.eDie c.eng := ⟨_, rfl⟩
  have hserve : s.serveClaim c = u.wakeClaim c := by
    have hnone' : State.lockOf { s with claims := s.claims.erase c } c.key = none := hnone
    unfold State.serveClaim
    dsimp only
    rw [hnone', hu]
  obtain ⟨hwoke, hlock⟩ := State.wakeClaim_woke (s := s) (u := u) hdie (by rw [hu]; rfl) (by rw [hu]; rfl)
  rw [hserve]
  refine ⟨?_, hwoke⟩
  rw [hlock, hu]
  unfold State.newLock
  dsimp only
  rw [State.lockOf_setLocks _ rfl, List.find?_append]
  have hfind : (SMap.get [] s.locks (keyDie c.key)).find? (·.key == c.key) = none := hnone
  rw [hfind]
  simp

/-- A claim of a key whose lock has no holder: the lock is the claimant's. -/
theorem State.serveClaim_freed {c : Claim} {l : Lock} (hdie : c.die = d) (hkey : keyDie c.key = d) (hl : s.lockOf c.key = some l)
    (hrank : c.rank = l.rank) :
    (s.serveClaim c).lockOf c.key = some { l with holder := some (c.eDie, c.eng) } ∧ s.Woke (s.serveClaim c) d c := by
  obtain ⟨u, hu⟩ : ∃ u : State, u = State.setLocks { s with claims := s.claims.erase c } c.die
    ((SMap.get [] s.locks c.die).map (fun x => if x.key == c.key then { x with holder := some (c.eDie, c.eng) } else x)) := ⟨_, rfl⟩
  have hserve : s.serveClaim c = u.wakeClaim c := by
    have hl' : State.lockOf { s with claims := s.claims.erase c } c.key = some l := hl
    unfold State.serveClaim
    dsimp only
    rw [hl']
    dsimp only
    rw [if_neg (by simp [hrank]), hu]
  obtain ⟨hwoke, hlock⟩ := State.wakeClaim_woke (s := s) (u := u) hdie (by rw [hu]; rfl) (by rw [hu]; rfl)
  rw [hserve]
  refine ⟨?_, hwoke⟩
  rw [hlock, hu, State.lockOf_setLocks _ (hkey.trans hdie.symm)]
  have hfind : (SMap.get [] s.locks c.die).find? (·.key == c.key) = some l := by
    rw [hdie, ← hkey]
    exact hl
  refine (find?_map_key _ c.key (fun x => { x with holder := some (c.eDie, c.eng) }) fun _ => rfl).trans ?_
  rw [hfind]
  rfl

theorem doLockWake_freed {key : Word} {l : Lock} {c : Claim} (hclock : s.clockOn d = true) (hkey : keyDie key = d) (hl : s.lockOf key = some l)
    (hfree : l.holder = none) (hfirst : firstClaim (s.claims.filter (·.key == key)) = some c) :
    doLockWake d (some key) s = s.serveClaim c := by
  unfold doLockWake
  rw [hclock, if_neg (by decide)]
  dsimp only
  rw [hl]
  dsimp only
  rw [if_neg (by simp [hkey, hfree]), hfirst]

theorem doLockWake_entry {c : Claim} (hclock : s.clockOn d = true) (hroom : (SMap.get [] s.locks d).length < 256)
    (hfirst : firstClaim (s.entryClaims d) = some c) : doLockWake d none s = s.serveClaim c := by
  unfold doLockWake
  rw [hclock, if_neg (by decide)]
  dsimp only
  rw [if_neg (by omega), hfirst]

/-! ## Fences (R140, R141) -/

theorem State.issued_fetchEcc (s : State) (d : Die) (e : Eng) : (s.fetchEcc d e).issued d e = s.issued d e := by
  have hc := s.fetchEcc_checks d e
  unfold State.issued
  rw [hc.flying, hc.bankWaits, State.eng_fetchEcc]

theorem doEngFenceWait_eq (hop : Ins.op w = 0x2F) (hrd : pairOk (Ins.rd w) = true) (hrs1 : Ins.rs1 w = 0) (hrs2 : Ins.rs2 w = 0) (hfn : Ins.fn w = 0)
    (hx : s.Executing d e w 1) : doEngFenceWait d e s = (s.fetchEcc d e).fenceBody d e w :=
  State.engRun_body hx (by decide) (by simp [fenceIs, opIs, hop, hfn]) (by simp [legalFenceWait, hrd, hrs1, hrs2, hfn]) rfl

theorem doEngFenceNotify_eq (hop : Ins.op w = 0x2F) (hrd : Ins.rd w = 0) (hrs1 : Ins.rs1 w < 24) (hrs2 : Ins.rs2 w = 0) (hfn : Ins.fn w = 1)
    (hx : s.Executing d e w 1) : doEngFenceNotify d e s = (s.fetchEcc d e).notifyBody d e w :=
  State.engRun_body hx (by decide) (by simp [fenceIs, opIs, hop, hfn]) (by simp [legalFenceNotify, regOk, hrd, hrs1, hrs2, hfn]) rfl

theorem State.fenceBody_landed (h : s.landed d e = true) :
    (s.fetchEcc d e).fenceBody d e w = (s.fetchEcc d e).endPair d e (Ins.rd w) (BitVec.ofNat 64 (s.msOf d)) 0 := by
  have hlanded : (s.fetchEcc d e).landed d e = true := by
    unfold State.landed at h ⊢
    rw [State.issued_fetchEcc, h]
  unfold State.fenceBody
  rw [if_pos hlanded, (s.fetchEcc_checks d e).msOf]
  rfl

theorem State.notifyBody_room (h : (s.eng d e).fences.length < 4) :
    (s.fetchEcc d e).notifyBody d e w = ((s.fetchEcc d e).setEng d e { s.eng d e with
      fences := (s.eng d e).fences ++ [{ target := s.reg d e (Ins.rs1 w), ids := s.issued d e }] }).engDoneS d e 1 (ost 0 false false 0) := by
  unfold State.notifyBody
  dsimp only
  rw [State.eng_fetchEcc, if_neg (by omega), State.reg_fetchEcc, State.issued_fetchEcc]

/-- The fields of a fence completion. -/
theorem State.fenceMsg_fields (s : State) (d : Die) (e : Eng) (t : Word) :
    let m := s.fenceMsg d e t
    m.beats = [] ∧ m.g Hd.vc = 1 ∧ m.g Hd.dkind = 1 ∧ m.g Hd.destDie = t.toNat % 8 ∧ m.g Hd.destSlot = t.toNat / 2 ^ 3 % 2 ^ 10 ∧
      m.g Hd.destFlag = t.toNat / 2 ^ 13 % 2 ^ 5 ∧ m.g Hd.epoch = t.toNat / 2 ^ 18 % 2 ^ 6 ∧ m.g Hd.stamped = 1 ∧ m.g Hd.ms24 = s.msOf d % 2 ^ 24 ∧
      m.g Hd.srcDie = d ∧ m.g Hd.srcIdx = 8 + e := by
  have hdie : (d : Nat) % 2 ^ 3 = d := Nat.mod_eq_of_lt d.isLt
  have hidx : (8 + e.val) % 2 ^ 7 = 8 + e := Nat.mod_eq_of_lt (by have := e.isLt; omega)
  unfold State.fenceMsg State.stamp
  refine ⟨by simp only [Msg.w_beats]; rfl, ?_, ?_, ?_, ?_, ?_, ?_, ?_, ?_, ?_, ?_⟩
  all_goals simp (disch := decide) only [Msg.g_w_same, Msg.g_w_apart]
  · rfl
  · rfl
  · exact Nat.mod_mod _ _
  · exact Nat.mod_mod _ _
  · exact Nat.mod_mod _ _
  · exact Nat.mod_mod _ _
  · rfl
  · exact Nat.mod_mod _ _
  · exact hdie
  · exact hidx

theorem doFenceCompletionSend_eq {f : NFence} {fs : List NFence} (hfences : (s.eng d e).fences = f :: fs) (hclock : s.clockOn d = true)
    (hclear : s.fenceClear d e f = true) (hpop : s.populated (f.target.toNat % 8) = true) :
    doFenceCompletionSend d e s = (s.setEng d e { s.eng d e with fences := fs }).inject d (engEndpoint e) (s.fenceMsg d e f.target) (f.target.toNat % 8) 12 := by
  have hpop' (y : Engine) : (s.setEng d e y).populated (f.target.toNat % 8) = true := hpop
  unfold doFenceCompletionSend
  dsimp only
  rw [hfences]
  dsimp only
  rw [hclock, hclear, if_neg (by decide), if_pos (hpop' _)]
  rfl

end

/-! ## O16 -/

/-- What a message that its lock table takes leaves of its key's lock. -/
theorem State.Forwards.freed {s : State} {d : Die} {ep i : Nat} {y : XMsg} {key : Word} {l : Lock} (hl : s.lockOf key = some l) :
    (s.took d ep 4 i y).lockOf key = some l ∧ (s.took d ep 4 i y).claims = s.claims := by
  have hcrossed := s.took_crossed d ep 4 i y
  exact ⟨(State.lockOf_congr (congrArg State.locks hcrossed :) key).trans hl, (congrArg State.claims hcrossed :)⟩

/-- Settles O16: the rules of the lock table, then those of fences. -/
theorem engineLocksAndFences : Obligations.EngineLocksAndFences := by
  unfold Obligations.EngineLocksAndFences
  refine ⟨fun d e s w => ⟨?_, ?_, ?_, ?_⟩, fun d e s w => ⟨?_, ?_, ?_⟩⟩
  · intro hop hrd hrs1 _ hx hkey
    refine ⟨fun himm hup hback hway hranks hsnoop => ?_, fun hge hmine l hl hheld => ?_⟩
    · have hclaim : s.CanClaim d e (s.reg d e (Ins.rs1 w)) (Ins.imm w % 16) := ⟨hkey, hup, hback, hway, hranks, hsnoop⟩
      have hqueued := s.queueClaim_queued d e (s.reg d e (Ins.rs1 w)) (Ins.imm w % 16)
      refine ⟨fun hnone hroom => ?_, fun hnone hfull => ?_, fun l hl hrank => ?_⟩
      · refine ⟨_, rfl, ?_⟩
        rw [hclaim.lock_new hop hrd hrs1 himm hx hnone, if_pos ((State.lockRoom_iff (keyDie (s.reg d e (Ins.rs1 w)))).2 hroom)]
        exact s.newLock_granted d e _ _
      · refine ⟨_, rfl, ?_⟩
        rw [hclaim.lock_new hop hrd hrs1 himm hx hnone, if_neg fun h => hfull ((State.lockRoom_iff (keyDie (s.reg d e (Ins.rs1 w)))).1 h)]
        exact ⟨hqueued.claims, hqueued.record, hqueued.others, hqueued.frame⟩
      · refine ⟨_, rfl, ?_⟩
        rw [hclaim.lock_waits hop hrd hrs1 himm hx hl hrank]
        exact ⟨hqueued.claims, hqueued.record, hqueued.others, hqueued.frame⟩
    · refine ⟨_, rfl, ?_⟩
      rw [doEngLockRelease_eq hop hrd hrs1 hge ‹_› hx]
      exact State.unlockBody_sends rfl hmine hl hheld
  · intro i y ep hep hf
    refine ⟨fun hname => ?_, fun hname => ?_, fun e rank hname hdest hwait hrun => ?_⟩
    · refine ⟨_, rfl, ?_⟩
      rw [hf.release hep hname]
      refine ⟨fun l hl hheld => ?_, fun hother => State.releaseLock_not_held fun l hl => hother l ?_, State.releaseLock_frame _ _ _ _⟩
      · obtain ⟨hlock, hclaims⟩ := State.Forwards.freed (d := d) (ep := ep) (i := i) (y := y) hl
        rw [State.lockOf_releaseLock hlock hheld, hclaims]
      · rw [← hl]
        exact (State.lockOf_congr (congrArg State.locks (s.took_crossed d ep 4 i y) :) _).symm
    · refine ⟨_, rfl, ?_⟩
      rw [hf.abort hep hname]
      obtain ⟨hkept, hframe⟩ := (s.took d ep 4 i y).abortClaim_frame (BitVec.ofNat 32 (y.msg.g Hd.addr)) (y.msg.g Hd.srcDie) (y.msg.g Hd.srcIdx - 8)
      refine ⟨?_, fun l hl hheld => ?_, hframe⟩
      · rw [hkept, (congrArg State.claims (s.took_crossed d ep 4 i y) :)]
      · obtain ⟨hlock, -⟩ := State.Forwards.freed (d := d) (ep := ep) (i := i) (y := y) hl
        exact State.lockOf_abortClaim hlock hheld
    · refine ⟨_, rfl, ?_⟩
      rw [hf.wake hep hname hdest hwait hrun]
      obtain ⟨hruns, honly⟩ := State.lockGranted_runs (d := d) (e := e) (u := s.took d ep 4 i y) (s := s)
        (congrArg State.engs (s.took_crossed d ep 4 i y) :) (BitVec.ofNat 32 (y.msg.g Hd.addr)) rank 0
      exact ⟨hruns.eng, hruns.others, honly⟩
  · intro key l c hclock hkey hl hfree hfirst hdie hrank
    refine ⟨_, rfl, ?_⟩
    have hckey : c.key = key := by simpa using (List.mem_filter.1 (firstClaim_mem hfirst)).2
    rw [doLockWake_freed hclock hkey hl hfree hfirst]
    obtain ⟨hlock, hwoke⟩ := State.serveClaim_freed (s := s) hdie (by rw [hckey]; exact hkey) (by rw [hckey]; exact hl) hrank
    exact ⟨by rw [← hckey]; exact hlock, hwoke.entered, hwoke.claims, hwoke.frame⟩
  · intro c hclock hroom hfirst _
    refine ⟨_, rfl, ?_⟩
    have hmem := (List.mem_filter.1 (firstClaim_mem hfirst)).2
    simp only [Bool.and_eq_true, beq_iff_eq, Option.isNone_iff_eq_none] at hmem
    rw [doLockWake_entry hclock hroom hfirst]
    obtain ⟨hlock, hwoke⟩ := State.serveClaim_new hmem.1 hmem.2
    exact ⟨hlock, hwoke.entered, hwoke.claims, hwoke.frame⟩
  · intro hop hrd hrs1 hrs2 hfn hx hlanded
    refine ⟨_, rfl, ?_⟩
    rw [doEngFenceWait_eq hop hrd hrs1 hrs2 hfn hx, State.fenceBody_landed hlanded]
    obtain ⟨hwrote, hended⟩ := State.endPair_ends (s := s) (u := s.fetchEcc d e) (d := d) (e := e) hrd (State.fetchEcc_engs ..) (State.fetchEcc_engReg ..)
      (BitVec.ofNat 64 (s.msOf d)) 0
    exact ⟨hwrote, hended.record, hended.others, hended.only⟩
  · intro hop hrd hrs1 hrs2 hfn hx hfew
    refine ⟨_, rfl, ?_⟩
    rw [doEngFenceNotify_eq hop hrd hrs1 hrs2 hfn hx, State.notifyBody_room hfew]
    have hcalm (v : State) : Ost.poison.bit (ost 0 false false 0) = false ∨ v.fbit (Csr.engCtrl d e) EngCtrl.ptrap = false := .inl (ost_poison ..)
    have hruns := ((State.Runs.fetched s d e).setEng { s.eng d e with
      fences := (s.eng d e).fences ++ [{ target := s.reg d e (Ins.rs1 w), ids := s.issued d e }] }).engDoneS 1 (hcalm _)
    have honly := ((OnlyRecords.refl (s.fetchEcc d e)).setEng d e { s.eng d e with
      fences := (s.eng d e).fences ++ [{ target := s.reg d e (Ins.rs1 w), ids := s.issued d e }] }).engDoneS d e 1 (hcalm _)
    exact ⟨honly.engReg.trans (State.fetchEcc_engReg ..), hruns.eng, hruns.others, honly.engOnly⟩
  · intro f fs hfences hclock hclear hpop
    obtain ⟨u, hu⟩ : ∃ u : State, u = s.setEng d e { s.eng d e with fences := fs } := ⟨_, rfl⟩
    have hsend := doFenceCompletionSend_eq hfences hclock hclear hpop
    rw [← hu] at hsend
    have hframe : u = { s with engs := u.engs } := by rw [hu]; rfl
    have hinject := State.inject_frame hsend
    have hentered := State.inject_entered (s := s) (congrArg State.xin hframe :) (congrArg State.xsrc hframe :) (congrArg State.serial hframe :)
      d (engEndpoint e) (s.fenceMsg d e f.target) (f.target.toNat % 8) 12
    obtain ⟨hbeats, hvc, hkind, hdie, hslot, hflag, hepoch, hstamped, hms, hsdie, hsidx⟩ := s.fenceMsg_fields d e f.target
    refine ⟨_, rfl, s.fenceMsg d e f.target, ?_, hbeats, hvc, hkind, hdie, hslot, hflag, hepoch, hstamped, hms, hsdie, hsidx, ?_, ?_⟩
    · rw [hsend]
      exact hentered
    · rw [State.eng_congr (congrArg State.engs hinject :), hu]
      exact s.eng_setEng_same d e _
    · rw [hinject, (congrArg State.serial hframe :), hframe]

end Sys2Proof.Machine

end

section

/-! PROOFS. The engine registers of the control path and STEP (03 R106, R149, R151, R166), and O18. -/

namespace Sys2Proof.Machine

section
variable {s t u : State} {d : Die} {e : Eng} {n : Nat} {w : Word}

/-! ## A role epoch and UNSERVABLE (R149; 04 R166) -/

theorem taskW_not_mem_taskRegs {m : Nat} (hm : m < 1024) (hne : m ≠ n) {a : Nat}
    (ha : a ∈ [Csr.taskW0 d m, Csr.taskW1 d m, Csr.taskW2 d m, Csr.taskW3 d m]) : a ∉ taskRegs d n := by
  intro hmem
  rcases List.mem_append.1 hmem with hmem | hmem
  · simp only [List.mem_cons, List.not_mem_nil, or_false, Csr.taskW0, Csr.taskW1, Csr.taskW2, Csr.taskW3, csrAddr] at ha hmem
    omega
  · exact taskW_not_mem_schedRegs hm ha hmem

theorem State.evalServable_invalid (h : s.taskValid d n = false) : s.evalServable d n = s := by
  unfold State.evalServable
  exact if_pos (by rw [h]; rfl)

theorem State.taskValid_evalServable {m : Nat} (hn : n < 1024) (hm : m < 1024) (hne : m ≠ n) :
    (s.evalServable d n).taskValid d m = s.taskValid d m := by
  have hregs := (State.evalServable_moves (d := d) hn s).regs (Csr.taskW0 d m) (taskW_not_mem_taskRegs hm hne (by simp))
  unfold State.taskValid State.fbit
  rw [State.fget_congr hregs]

/-- Only one slot of the die holds a task. -/
theorem State.evalServableAll_only (hn : n < 1024) (h : ∀ m < 1024, m ≠ n → s.taskValid d m = false) :
    s.evalServableAll d = s.evalServable d n := by
  have hprefix (k : Nat) (hk : k ≤ 1024) :
      (List.range k).foldl (fun (s : State) m => s.evalServable d m) s = if n < k then s.evalServable d n else s := by
    induction k with
    | zero => rfl
    | succ k ih =>
      rw [List.range_succ, List.foldl_append, ih (by omega), List.foldl_cons, List.foldl_nil]
      rcases Nat.lt_trichotomy n k with hlt | heq | hgt
      · rw [if_pos hlt, if_pos (by omega)]
        exact State.evalServable_invalid ((State.taskValid_evalServable hn (by omega) (by omega)).trans (h k (by omega) (by omega)))
      · rw [heq, if_neg (by omega), if_pos (by omega)]
      · rw [if_neg (by omega), if_neg (by omega)]
        exact State.evalServable_invalid (h k (by omega) (by omega))
  exact (hprefix 1024 (by omega)).trans (if_pos hn)

theorem State.evalServableAll_empty (h : ∀ m < 1024, s.taskValid d m = false) : s.evalServableAll d = s :=
  (State.evalServableAll_only (n := 0) (by decide) fun m hm _ => h m hm).trans (State.evalServable_invalid (h 0 (by decide)))

/-- An IDLE task that no engine matches becomes UNSERVABLE. -/
theorem State.evalServable_unserved (hn : n < 1024) (hvalid : s.taskValid d n = true) (hidle : s.taskState d n = TSt.idle)
    (hserv : s.servable d n = false) :
    (s.evalServable d n).taskState d n = TSt.unservable ∧ ((s.evalServable d n).taskX d n).inbox = [] := by
  obtain ⟨u, hu⟩ : ∃ u : State, u = State.setTaskState ((s.setTaskX d n { s.taskX d n with inbox := [] }).setTaskX d n
    { (s.setTaskX d n { s.taskX d n with inbox := [] }).taskX d n with stamp := 0, onceAt := none }) d n TSt.unservable := ⟨_, rfl⟩
  obtain ⟨t, ht⟩ : ∃ t : State, t = u.unservedAll d n (s.taskX d n).inbox := ⟨_, rfl⟩
  have heq : s.evalServable d n = t.noticeLim d 0x0306 0 [(1, d), (2, n), (1, t.fget (Csr.taskW3 d n) TaskW3.epoch),
      (1, t.fget (Csr.taskW0 d n) TaskW0.clmask)] := by
    unfold State.evalServable State.takeInbox
    rw [hvalid, hidle, hserv, if_neg (by decide), if_neg (by decide), if_neg (by decide), ht, hu]
  have hreturns : u.Returns (s.evalServable d n) d := by
    rw [heq, ht]
    exact (State.unservedAll_returns u d n _).noticeLim _ _ _
  have hstate : u.taskState d n = TSt.unservable := by
    rw [hu]
    exact State.taskState_setTaskState _ d n (by decide)
  have htask : (u.taskX d n).inbox = [] := by
    have htasks : u.tasks = ((s.setTaskX d n { s.taskX d n with inbox := [] }).setTaskX d n
      { (s.setTaskX d n { s.taskX d n with inbox := [] }).taskX d n with stamp := 0, onceAt := none }).tasks := by rw [hu]; rfl
    unfold State.taskX
    rw [htasks]
    change (State.taskX (State.setTaskX _ d n _) d n).inbox = []
    rw [State.taskX_setTaskX_same, State.taskX_setTaskX_same]
  refine ⟨?_, ?_⟩
  · unfold State.taskState
    rw [State.fget_congr (hreturns.regs _ (taskW_not_mem_schedRegs hn (by simp)))]
    exact hstate
  · have htasks : (s.evalServable d n).tasks = u.tasks := (congrArg State.tasks hreturns.sends :)
    unfold State.taskX at htask ⊢
    rw [htasks, htask]

theorem engCtrl_not_task (d : Die) (e : Eng) (n : Nat) :
    Csr.taskW0 d n ≠ Csr.engCtrl d e ∧ Csr.taskW3 d n ≠ Csr.engCtrl d e := by
  have he := e.isLt
  simp only [Csr.taskW0, Csr.taskW3, Csr.engCtrl, csrAddr]
  omega

theorem engCtrl_other {e' : Nat} (h : e' ≠ e) : Csr.engCtrl d e' ≠ Csr.engCtrl d e := by
  have he := e.isLt
  simp only [Csr.engCtrl, csrAddr]
  omega

/-- The new epoch of the only engine that matched a task is not the task's. -/
theorem State.servable_epoch (ep : Fin 64) (hothers : ∀ f : Eng, f ≠ e → s.eligible d n f = false)
    (hne : ep.val ≠ s.fget (Csr.taskW3 d n) TaskW3.epoch) :
    (s.fset (Csr.engCtrl d e) EngCtrl.epoch ep).servable d n = false := by
  have hmask := s.fget_fset_ne EngCtrl.epoch TaskW0.clmask ep (engCtrl_not_task d e n).1
  have hepoch := s.fget_fset_ne EngCtrl.epoch TaskW3.epoch ep (engCtrl_not_task d e n).2
  unfold State.servable
  rw [List.any_eq_false]
  intro f hf
  have hlt := List.mem_range.1 hf
  by_cases hfe : f = e
  · subst hfe
    unfold State.eligible State.engEpoch
    rw [hmask, hepoch, State.fget_fset_same _ _ _ _ (by decide), Nat.mod_eq_of_lt (show ep.val < 2 ^ EngCtrl.epoch.width from ep.isLt)]
    simp [hne]
  · have hother := s.fget_fset_ne EngCtrl.epoch EngCtrl.epoch ep (engCtrl_other (d := d) hfe)
    have hno := hothers ⟨f, hlt⟩ fun h => hfe (congrArg Fin.val h)
    unfold State.eligible State.engEpoch at hno ⊢
    rw [hmask, hepoch, hother, hno]
    decide

/-! ## ENG_HS_DATA (R149) -/

theorem State.hsAdvance_regs (s : State) (d : Nat) :
    s.hsAdvance d = s.fset (Csr.engHsSel d) EngHsSel.index ((s.fget (Csr.engHsSel d) EngHsSel.index + 1) % 2 ^ 12) := rfl

theorem State.fset_frame (s : State) (a : Nat) (f : Fld) (v : Nat) : s.fset a f v = { s with csr := (s.fset a f v).csr } := rfl

theorem State.fset_onlyRegs (s : State) (a : Nat) (f : Fld) (v : Nat) : OnlyRegs s (s.fset a f v) [a] :=
  (OnlyRegs.refl s [a]).fset List.mem_cons_self f v

/-- The engine whose handler store ENG_HS_SEL names. -/
def State.hsEngine (s : State) (d : Nat) : Nat := s.fget (Csr.engHsSel d) EngHsSel.engine

/-- The word of it. -/
def State.hsIndex (s : State) (d : Nat) : Nat := s.fget (Csr.engHsSel d) EngHsSel.index

theorem doEngHsDataAccess_read (hon : s.dieOn d = true) (hparked : s.parked d (s.hsEngine d) = true) :
    doEngHsDataAccess d none s = s.hsAdvance d := by
  unfold State.hsEngine at hparked
  unfold doEngHsDataAccess
  dsimp only
  rw [hon, if_neg (by decide), hparked, if_neg (by decide)]

theorem doEngHsDataAccess_write (v : Word) (hon : s.dieOn d = true) (hparked : s.parked d (s.hsEngine d) = true) :
    doEngHsDataAccess d (some v) s = (s.setStoreWord d (s.hsEngine d) (s.hsIndex d) v).hsAdvance d := by
  unfold State.hsEngine at hparked
  unfold doEngHsDataAccess
  dsimp only
  rw [hon, if_neg (by decide), hparked, if_neg (by decide)]
  rfl

theorem doEngHsDataAccess_refused (w : Option Word) (hon : s.dieOn d = true) (hparked : s.parked d (s.hsEngine d) = false) :
    doEngHsDataAccess d w s = (s.flag (Csr.engHsSel d) EngHsSel.err).hsAdvance d := by
  unfold State.hsEngine at hparked
  unfold doEngHsDataAccess
  dsimp only
  rw [hon, if_neg (by decide), hparked, if_pos (by decide)]

/-! ## STEP (R151) -/

/-! An engine executes the instruction of the word at its PC by the opcode. -/

theorem State.runNext_alu (hf : s.fetched d e = some w) {op : Nat} (hop : Ins.op w = op) (h : op ≤ 0x12) : s.runNext d e = runAlu op d e s := by
  subst hop
  unfold State.runNext
  rw [hf]
  exact if_pos h

theorem State.runNext_flow (hf : s.fetched d e = some w) {op : Nat} (hop : Ins.op w = op) (hlo : 0x12 < op) (h : op ≤ 0x24) :
    s.runNext d e = runFlow op d e w s := by
  subst hop
  unfold State.runNext
  rw [hf]
  exact (if_neg (by omega)).trans (if_pos h)

theorem State.runNext_unit (hf : s.fetched d e = some w) {op : Nat} (hop : Ins.op w = op) (hlo : 0x24 < op) (h : op ≤ 0x2F) :
    s.runNext d e = runUnit op d e w s := by
  subst hop
  unfold State.runNext
  rw [hf]
  exact (if_neg (by omega)).trans ((if_neg (by omega)).trans (if_pos h))

/-! The bits of a word that choose among the commands of an opcode. -/

theorem Ins.fn_even (w : Word) (h : w.toNat % 2 = 0) : ¬ (Ins.fn w % 2 == 1) = true := by
  simp [Ins.fn, h]

theorem Ins.fn_odd (w : Word) (h : w.toNat % 2 = 1) : (Ins.fn w % 2 == 1) = true := by
  simp [Ins.fn, h]

theorem Ins.rel_clear (w : Word) (h : w.toNat / 16 % 2 = 0) : ¬ (Ins.imm w / 16 % 2 == 1) = true := by
  have hrel : Ins.imm w / 16 % 2 = w.toNat / 16 % 2 := by unfold Ins.imm; omega
  simp [hrel, h]

theorem Ins.rel_set (w : Word) (h : w.toNat / 16 % 2 = 1) : (Ins.imm w / 16 % 2 == 1) = true := by
  have hrel : Ins.imm w / 16 % 2 = w.toNat / 16 % 2 := by unfold Ins.imm; omega
  simp [hrel, h]

/-- The engine once HALT reads 0. -/
def State.unhalted (s : State) (d e : Nat) : State := s.fset (Csr.engCtrl d e) EngCtrl.halt 0

theorem State.fetched_unhalted (s : State) (d e : Nat) : (s.unhalted d e).fetched d e = s.fetched d e := by
  have hbad : (s.unhalted d e).storeBad = s.storeBad := State.fset_storeBad ..
  have hstore : (s.unhalted d e).store = s.store := State.fset_store ..
  have heng : (s.unhalted d e).eng d e = s.eng d e := State.eng_congr (State.fset_engs ..) d e
  unfold State.fetched State.storeWord
  rw [heng, hbad, hstore]

theorem doEngStep_halted {h : HostId} (hon : s.dieOn d = true) (hhalted : s.halted d e = true) (hdbg : s.holds h Right.engdbg = true) :
    doEngStep d e h s = ((s.unhalted d e).runNext d e).fset (Csr.engCtrl d e) EngCtrl.halt 1 := by
  unfold doEngStep State.stepHalted
  rw [hon, hdbg, if_pos (by decide), hhalted, if_neg (by decide)]
  rfl

/-- A command that is an instruction's row executes as STEP lets the engine do. -/
def StepsAs (s : State) (d : Die) (e : Eng) (h : HostId) (c : Instr) : Prop :=
  ∃ u, exec c (s.fset (Csr.engCtrl d e) EngCtrl.halt 0) = .next u ∧ exec (.engStep d e h) s = .next (u.fset (Csr.engCtrl d e) EngCtrl.halt 1)

/-- A halted engine that a host may let execute `w`. -/
structure State.CanStep (s : State) (d : Die) (e : Eng) (h : HostId) (w : Word) : Prop where
  on : s.dieOn d = true
  halted : s.halted d e = true
  debug : s.holds h Right.engdbg = true
  word : s.fetched d e = some w

section
variable {h : HostId} {c : Instr} {op : Nat}

theorem State.CanStep.unhalted (hs : s.CanStep d e h w) : (s.unhalted d e).fetched d e = some w := (s.fetched_unhalted d e).trans hs.word

theorem State.CanStep.steps (hs : s.CanStep d e h w) (hc : exec c (s.unhalted d e) = .next ((s.unhalted d e).runNext d e)) : StepsAs s d e h c :=
  ⟨_, hc, congrArg Host.Outcome.next (doEngStep_halted hs.on hs.halted hs.debug)⟩

theorem State.CanStep.alu (hs : s.CanStep d e h w) (hop : Ins.op w = op) (hhi : Nat.ble op 0x12 = true)
    (hc : exec c (s.unhalted d e) = .next (runAlu op d e (s.unhalted d e))) : StepsAs s d e h c :=
  hs.steps (hc.trans (congrArg _ (State.runNext_alu hs.unhalted hop (Nat.le_of_ble_eq_true hhi)).symm))

theorem State.CanStep.flow (hs : s.CanStep d e h w) (hop : Ins.op w = op) (hlo : Nat.blt 0x12 op = true) (hhi : Nat.ble op 0x24 = true)
    (hc : exec c (s.unhalted d e) = .next (runFlow op d e w (s.unhalted d e))) : StepsAs s d e h c :=
  hs.steps (hc.trans (congrArg _ (State.runNext_flow hs.unhalted hop (Nat.le_of_ble_eq_true hlo) (Nat.le_of_ble_eq_true hhi)).symm))

theorem State.CanStep.unit (hs : s.CanStep d e h w) (hop : Ins.op w = op) (hlo : Nat.blt 0x24 op = true) (hhi : Nat.ble op 0x2F = true)
    (hc : exec c (s.unhalted d e) = .next (runUnit op d e w (s.unhalted d e))) : StepsAs s d e h c :=
  hs.steps (hc.trans (congrArg _ (State.runNext_unit hs.unhalted hop (Nat.le_of_ble_eq_true hlo) (Nat.le_of_ble_eq_true hhi)).symm))

end

end

/-! ## O18 -/

/-- The control registers, and the handler stores by ENG_HS_DATA. -/
theorem engineRegisters (d : Die) (s : State) (hon : s.dieOn d = true) :
    (∀ w : Option Word, s.parked d (s.hsEngine d) = true → Completes (.engHsDataAccess d w) s fun t =>
      t.csrGet (Csr.engHsSel d) = EngHsSel.index.put (s.csrGet (Csr.engHsSel d)) ((s.hsIndex d + 1) % 2 ^ 12) ∧ OnlyRegs s t [Csr.engHsSel d] ∧
      (∀ v, w = some v → t.storeWord d (s.hsEngine d) (s.hsIndex d) = v ∧ SMap.get 0 t.storeBad (storeKey d (s.hsEngine d) (s.hsIndex d)) = 0 ∧
        ∀ k ≠ storeKey d (s.hsEngine d) (s.hsIndex d), SMap.get 0 t.store k = SMap.get 0 s.store k ∧ SMap.get 0 t.storeBad k = SMap.get 0 s.storeBad k) ∧
      (w = none → t.store = s.store ∧ t.storeBad = s.storeBad) ∧
      t = { s with csr := t.csr, store := t.store, storeBad := t.storeBad }) ∧
    (∀ w : Option Word, s.parked d (s.hsEngine d) = false → Completes (.engHsDataAccess d w) s fun t =>
      t.fget (Csr.engHsSel d) EngHsSel.err = 1 ∧ t.fget (Csr.engHsSel d) EngHsSel.index = (s.hsIndex d + 1) % 2 ^ 12 ∧ OnlyRegs s t [Csr.engHsSel d] ∧
        t = { s with csr := t.csr }) := by
  refine ⟨fun w hparked => ⟨_, rfl, ?_⟩, fun w hparked => ⟨_, rfl, ?_⟩⟩
  · cases w with
    | none =>
      rw [doEngHsDataAccess_read hon hparked, State.hsAdvance_regs]
      refine ⟨s.csrGet_fset_same _ _ _, s.fset_onlyRegs _ _ _, nofun, fun _ => ⟨State.fset_store .., State.fset_storeBad ..⟩, ?_⟩
      rw [State.fset_store, State.fset_storeBad]
      exact s.fset_frame _ _ _
    | some v =>
      rw [doEngHsDataAccess_write v hon hparked, State.hsAdvance_regs]
      obtain ⟨u, hu⟩ : ∃ u : State, u = s.setStoreWord d (s.hsEngine d) (s.hsIndex d) v := ⟨_, rfl⟩
      have hframe : u = { s with store := u.store, storeBad := u.storeBad } := by rw [hu]; rfl
      have hsel : u.csrGet (Csr.engHsSel d) = s.csrGet (Csr.engHsSel d) := OnlyRegs.of_csr (congrArg State.csr hframe :) [] _ List.not_mem_nil
      have hindex : u.fget (Csr.engHsSel d) EngHsSel.index = s.hsIndex d := State.fget_congr hsel _
      have hset : u.store = SMap.set 0 s.store (storeKey d (s.hsEngine d) (s.hsIndex d)) v ∧
        u.storeBad = SMap.set 0 s.storeBad (storeKey d (s.hsEngine d) (s.hsIndex d)) 0 := by rw [hu]; exact ⟨rfl, rfl⟩
      rw [← hu, hindex]
      have hstore (f : Fld) (x : Nat) : (u.fset (Csr.engHsSel d) f x).store = u.store := State.fset_store ..
      have hbad (f : Fld) (x : Nat) : (u.fset (Csr.engHsSel d) f x).storeBad = u.storeBad := State.fset_storeBad ..
      refine ⟨(u.csrGet_fset_same _ _ _).trans (by rw [hsel]), (OnlyRegs.of_csr (congrArg State.csr hframe :) _).trans (u.fset_onlyRegs _ _ _), fun v' hv => ?_,
        nofun, ?_⟩
      · cases hv
        unfold State.storeWord
        rw [hstore, hbad, hset.1, hset.2]
        exact ⟨SMap.get_set_same .., SMap.get_set_same .., fun k hk => ⟨SMap.get_set_other _ _ _ _ k hk, SMap.get_set_other _ _ _ _ k hk⟩⟩
      · rw [hstore, hbad, u.fset_frame, hframe]
  · obtain ⟨u, hu⟩ : ∃ u : State, u = s.flag (Csr.engHsSel d) EngHsSel.err := ⟨_, rfl⟩
    have herr : u.fget (Csr.engHsSel d) EngHsSel.err = 1 := by rw [hu]; exact s.fget_fset_same _ _ 1 (by decide)
    have hindex : u.fget (Csr.engHsSel d) EngHsSel.index = s.hsIndex d := by rw [hu]; exact s.fget_fset_disjoint _ _ _ 1 (by decide)
    have hframe : u = { s with csr := u.csr } := by rw [hu]; rfl
    have hregs : OnlyRegs s u [Csr.engHsSel d] := by rw [hu]; exact s.fset_onlyRegs _ _ _
    rw [doEngHsDataAccess_refused w hon hparked, State.hsAdvance_regs, ← hu, hindex]
    refine ⟨(u.fget_fset_disjoint _ _ _ _ (by decide)).trans herr, (u.fget_fset_same _ _ _ (by decide)).trans (Nat.mod_mod _ _), hregs.trans (u.fset_onlyRegs _ _ _), ?_⟩
    rw [u.fset_frame, hframe]

/-- The row of each opcode is what STEP runs. -/
theorem engStep_rows {d : Die} {e : Eng} {h : HostId} {s : State} {w : Word} (hs : s.CanStep d e h w) :
    ∀ r ∈ [(0x00, 0, Instr.engAdd d e), (0x01, 0, .engSub d e), (0x02, 0, .engAnd d e), (0x03, 0, .engOr d e),
        (0x04, 0, .engXor d e), (0x05, 0, .engSll d e), (0x06, 0, .engSrl d e), (0x07, 0, .engSra d e), (0x08, 0, .engSlt d e),
        (0x09, 0, .engSltu d e), (0x0A, 0, .engMul d e), (0x0B, 0, .engAddi d e), (0x0C, 0, .engAndi d e),
        (0x0D, 0, .engOri d e), (0x0E, 0, .engSlti d e), (0x0F, 0, .engShi d e), (0x10, 0, .engLui d e),
        (0x11, 0, .engExt d e), (0x12, 0, .engIns d e), (0x13, 0, .engLd d e), (0x14, 0, .engSt d e), (0x15, 0, .engBeq d e),
        (0x16, 0, .engBne d e), (0x17, 0, .engBlt d e), (0x18, 0, .engBge d e), (0x19, 0, .engBltu d e),
        (0x1A, 0, .engBgeu d e), (0x1B, 0, .engBst d e), (0x1C, 0, .engJr d e), (0x1D, 0, .engCall d e), (0x1E, 0, .engRet d e),
        (0x1F, 0, .engTrap d e), (0x20, 0, .engTret d e), (0x21, 0, .engEnd d e), (0x22, 1, .engWsvSave d e),
        (0x22, 2, .engWsvRestore d e), (0x23, 0, .engMfs d e), (0x24, 0, .engMts d e), (0x25, 0, .engDlook d e),
        (0x26, 0, .engDwr d e), (0x27, 0, .engSend d e), (0x28, 0, .engWaitr d e), (0x29, 0, .engFwcp d e),
        (0x2A, 1, .engBatomFetchAdd d e), (0x2A, 2, .engBatomSwap d e), (0x2B, 0, .engDqpush d e), (0x2C, 0, .engDqpop d e),
        (0x2D, 1, .engCsrRead d e), (0x2D, 2, .engCsrWrite d e), (0x2F, 1, .engFenceWait d e), (0x2F, 2, .engFenceNotify d e),
        (0x2E, 3, .engLock d e), (0x2E, 4, .engLockRelease d e)],
      Ins.op w = r.1 → (r.2.1 = 1 → w.toNat % 2 = 0) → (r.2.1 = 2 → w.toNat % 2 = 1) →
      (r.2.1 = 3 → w.toNat / 16 % 2 = 0) → (r.2.1 = 4 → w.toNat / 16 % 2 = 1) → StepsAs s d e h r.2.2 := by
  iterate 19 refine List.forall_mem_cons.2 ⟨fun hop _ _ _ _ => hs.alu hop rfl rfl, ?_⟩
  iterate 15 refine List.forall_mem_cons.2 ⟨fun hop _ _ _ _ => hs.flow hop rfl rfl rfl, ?_⟩
  refine List.forall_mem_cons.2 ⟨fun hop hbit _ _ _ => hs.flow hop rfl rfl (congrArg Host.Outcome.next (if_neg (Ins.fn_even w (hbit rfl))).symm), ?_⟩
  refine List.forall_mem_cons.2 ⟨fun hop _ hbit _ _ => hs.flow hop rfl rfl (congrArg Host.Outcome.next (if_pos (Ins.fn_odd w (hbit rfl))).symm), ?_⟩
  iterate 2 refine List.forall_mem_cons.2 ⟨fun hop _ _ _ _ => hs.flow hop rfl rfl rfl, ?_⟩
  iterate 5 refine List.forall_mem_cons.2 ⟨fun hop _ _ _ _ => hs.unit hop rfl rfl rfl, ?_⟩
  refine List.forall_mem_cons.2 ⟨fun hop hbit _ _ _ => hs.unit hop rfl rfl (congrArg Host.Outcome.next (if_neg (Ins.fn_even w (hbit rfl))).symm), ?_⟩
  refine List.forall_mem_cons.2 ⟨fun hop _ hbit _ _ => hs.unit hop rfl rfl (congrArg Host.Outcome.next (if_pos (Ins.fn_odd w (hbit rfl))).symm), ?_⟩
  iterate 2 refine List.forall_mem_cons.2 ⟨fun hop _ _ _ _ => hs.unit hop rfl rfl rfl, ?_⟩
  refine List.forall_mem_cons.2 ⟨fun hop hbit _ _ _ => hs.unit hop rfl rfl (congrArg Host.Outcome.next (if_neg (Ins.fn_even w (hbit rfl))).symm), ?_⟩
  refine List.forall_mem_cons.2 ⟨fun hop _ hbit _ _ => hs.unit hop rfl rfl (congrArg Host.Outcome.next (if_pos (Ins.fn_odd w (hbit rfl))).symm), ?_⟩
  refine List.forall_mem_cons.2 ⟨fun hop hbit _ _ _ => hs.unit hop rfl rfl (congrArg Host.Outcome.next (if_neg (Ins.fn_even w (hbit rfl))).symm), ?_⟩
  refine List.forall_mem_cons.2 ⟨fun hop _ hbit _ _ => hs.unit hop rfl rfl (congrArg Host.Outcome.next (if_pos (Ins.fn_odd w (hbit rfl))).symm), ?_⟩
  refine List.forall_mem_cons.2 ⟨fun hop _ _ hbit _ => hs.unit hop rfl rfl (congrArg Host.Outcome.next (if_neg (Ins.rel_clear w (hbit rfl))).symm), ?_⟩
  refine List.forall_mem_cons.2 ⟨fun hop _ _ _ hbit => hs.unit hop rfl rfl (congrArg Host.Outcome.next (if_pos (Ins.rel_set w (hbit rfl))).symm), ?_⟩
  exact fun r hr => absurd hr List.not_mem_nil

/-- Settles O18: the registers by their writes, and STEP by the row of each opcode. -/
theorem engineDebugRegisters : Obligations.EngineDebugRegisters := by
  unfold Obligations.EngineDebugRegisters
  refine ⟨fun d e s hon => ?_, fun d e h s w hon hhalted hdbg hfetch => ?_⟩
  · obtain ⟨hserved, hrefused⟩ := engineRegisters d s hon
    refine ⟨fun b => ?_, fun ep hparked hnone => ?_, fun ep n hparked hvalid hidle honly hothers hne => ?_, fun h b hdbg => ?_, hserved, hrefused, fun v => ⟨fun htop hlim => ?_, fun hbad => ?_⟩⟩
    · refine ⟨_, rfl, ?_⟩
      have hpark : doEngPark d e b s = s.fset (Csr.engCtrl d e) EngCtrl.park (b2n b) := if_pos hon
      rw [hpark]
      exact ⟨s.csrGet_fset_same _ _ _, s.fset_onlyRegs _ _ _, s.fset_frame _ _ _⟩
    · refine ⟨_, rfl, ?_⟩
      obtain ⟨u, hu⟩ : ∃ u : State, u = s.fset (Csr.engCtrl d e) EngCtrl.epoch ep := ⟨_, rfl⟩
      have hempty : ∀ m < 1024, u.taskValid d m = false := fun m hm => by
        rw [hu]
        unfold State.taskValid State.fbit
        rw [State.fget_fset_ne _ _ _ _ (engCtrl_not_task d e m).1]
        exact hnone m hm
      have hwrite : doEngEpochWrite d e ep s = u := by
        unfold doEngEpochWrite
        rw [hon, hparked, if_pos (by decide), ← hu]
        exact State.evalServableAll_empty hempty
      rw [hwrite, hu]
      exact ⟨s.csrGet_fset_same _ _ _, s.fset_onlyRegs _ _ _, s.fset_frame _ _ _⟩
    · refine ⟨_, rfl, ?_⟩
      obtain ⟨u, hu⟩ : ∃ u : State, u = s.fset (Csr.engCtrl d e) EngCtrl.epoch ep := ⟨_, rfl⟩
      have hread (m : Nat) : u.taskValid d m = s.taskValid d m ∧ u.taskState d m = s.taskState d m := by
        rw [hu]
        unfold State.taskValid State.taskState State.fbit
        rw [State.fget_fset_ne _ _ _ _ (engCtrl_not_task d e m).1, State.fget_fset_ne _ _ _ _ (engCtrl_not_task d e m).2]
        exact ⟨rfl, rfl⟩
      have hwrite : doEngEpochWrite d e ep s = u.evalServable d n := by
        unfold doEngEpochWrite
        rw [hon, hparked, if_pos (by decide), ← hu]
        exact State.evalServableAll_only n.isLt fun m hm hmn => (hread m).1.trans (honly m hm hmn)
      rw [hwrite]
      exact State.evalServable_unserved n.isLt ((hread n).1.trans hvalid) ((hread n).2.trans hidle) (by rw [hu]; exact State.servable_epoch ep hothers hne)
    · refine ⟨_, rfl, ?_⟩
      have hhalt : doEngHalt d e h b s = s.fset (Csr.engCtrl d e) EngCtrl.halt (b2n b) := if_pos (by rw [hon, hdbg]; rfl)
      rw [hhalt]
      exact ⟨s.csrGet_fset_same _ _ _, s.fset_onlyRegs _ _ _, s.fset_frame _ _ _⟩
    · refine ⟨_, rfl, ?_⟩
      have hspill : doEngSpillWrite d e v s =
          (s.fset (Csr.engSpill d e) EngSpill.top (EngSpill.top.get v)).fset (Csr.engSpill d e) EngSpill.limit (EngSpill.limit.get v) := by
        unfold doEngSpillWrite
        dsimp only
        exact if_neg (by simp [hon, htop, hlim])
      have hget (f : Fld) : f.get v % 2 ^ f.width = f.get v := Nat.mod_eq_of_lt (Fld.get_lt f v)
      rw [hspill]
      obtain ⟨u, hu⟩ : ∃ u : State, u = s.fset (Csr.engSpill d e) EngSpill.top (EngSpill.top.get v) := ⟨_, rfl⟩
      have htopped : u.fget (Csr.engSpill d e) EngSpill.top = EngSpill.top.get v := by
        rw [hu]
        exact (s.fget_fset_same _ _ _ (by decide)).trans (hget _)
      have hregs : OnlyRegs s u [Csr.engSpill d e] := by rw [hu]; exact s.fset_onlyRegs _ _ _
      have hframe : u = { s with csr := u.csr } := by rw [hu]; exact s.fset_frame _ _ _
      rw [← hu]
      refine ⟨(u.fget_fset_disjoint _ _ _ _ (by decide)).trans htopped, (u.fget_fset_same _ _ _ (by decide)).trans (hget _),
        hregs.trans (u.fset_onlyRegs _ _ _), ?_⟩
      rw [u.fset_frame, hframe]
    · refine ⟨_, rfl, ?_⟩
      unfold doEngSpillWrite
      dsimp only
      exact if_pos (by simpa [hon] using hbad)
  · exact engStep_rows ⟨hon, hhalted, hdbg, hfetch⟩

end Sys2Proof.Machine

end

section

/-! PROOFS. A dispatch (03 R103, R110; 04 R159, R162, R163, R173, R174), and O19. -/

namespace Sys2Proof.Machine

section
variable {s t u : State} {d : Die} {e : Eng} {n : Nat}

/-! ## What a dispatch counts -/

/-- The registers in which a dispatch counts. -/
def heatRegs (d : Nat) : List Nat :=
  [Csr.ndQdropCnt (queueOf d), Csr.schDispCnt d, Csr.schAffCnt d] ++ (List.range 8).map (Csr.pmuGateCnt d)

theorem pmuGateCnt_mem_heatRegs {d c : Nat} (hc : c < 8) : Csr.pmuGateCnt d c ∈ heatRegs d :=
  List.mem_append_right _ (List.mem_map_of_mem (List.mem_range.2 hc))

/-- From `s` to `t` a dispatch only counted. -/
structure State.Tallies (s t : State) (d : Nat) : Prop where
  frame : Reports s t
  regs : OnlyRegs s t (heatRegs d)

theorem State.Tallies.refl (s : State) (d : Nat) : s.Tallies s d := ⟨.refl s, .refl s _⟩

theorem State.Tallies.count {d : Nat} (h : s.Tallies t d) {a : Nat} (ha : a ∈ heatRegs d) (f : Fld) (k : Nat) : s.Tallies (t.count a f k) d :=
  ⟨h.frame.count a f k, h.regs.count ha f k⟩

theorem State.Tallies.noticeLim {d : Nat} (h : s.Tallies t d) (code : Nat) (fs : List (Nat × Nat)) : s.Tallies (t.noticeLim d code 0 fs) d :=
  ⟨h.frame.noticeLim .., h.regs.noticeLim (d := d) (by simp [heatRegs]) _ _ _⟩

theorem State.countSkips_tallies (s : State) (d : Nat) : s.Tallies (s.countSkips d) d := by
  unfold State.countSkips
  dsimp only
  refine List.foldlRecOn (motive := fun t : State => s.Tallies t d) _ _ ?_ fun t ht h _ => ht.noticeLim ..
  refine List.foldlRecOn (motive := fun t : State => s.Tallies t d) _ _ (.refl s d) fun t ht c hc => ht.count ?_ _ _
  exact pmuGateCnt_mem_heatRegs (List.mem_range.1 (List.mem_of_mem_filter hc))

/-- The registers that a dispatch reads hold what they held while it counts. -/
theorem not_mem_heatRegs (d : Die) {a : Nat}
    (ha : (∃ n < 1024, a ∈ [Csr.taskW0 d n, Csr.taskW1 d n, Csr.taskW2 d n, Csr.taskW3 d n]) ∨ (∃ c < 8, a = Csr.pmuAllot d c) ∨
      ∃ e : Eng, a = Csr.engSpill d e) : a ∉ heatRegs d := by
  have hd := d.isLt
  intro hm
  rcases List.mem_append.1 hm with hm | hm
  · simp only [List.mem_cons, List.not_mem_nil, or_false, Csr.ndQdropCnt, Csr.schDispCnt, Csr.schAffCnt, csrAddr, stw] at hm
    rcases ha with ⟨n, hn, ha⟩ | ⟨c, hc, ha⟩ | ⟨e, ha⟩
    · simp only [List.mem_cons, List.not_mem_nil, or_false, Csr.taskW0, Csr.taskW1, Csr.taskW2, Csr.taskW3, csrAddr] at ha
      omega
    · simp only [Csr.pmuAllot, csrAddr] at ha
      omega
    · have he := e.isLt
      simp only [Csr.engSpill, csrAddr] at ha
      omega
  · obtain ⟨v, hv, hm⟩ := List.mem_map.1 hm
    have hv := List.mem_range.1 hv
    simp only [Csr.pmuGateCnt, csrAddr] at hm
    rcases ha with ⟨n, hn, ha⟩ | ⟨c, hc, ha⟩ | ⟨e, ha⟩
    · simp only [List.mem_cons, List.not_mem_nil, or_false, Csr.taskW0, Csr.taskW1, Csr.taskW2, Csr.taskW3, csrAddr] at ha
      omega
    · simp only [Csr.pmuAllot, csrAddr] at ha
      omega
    · have he := e.isLt
      simp only [Csr.engSpill, csrAddr] at ha
      omega

theorem State.Tallies.taskRead (h : s.Tallies t d) (hn : n < 1024) (f : Fld) :
    t.fget (Csr.taskW0 d n) f = s.fget (Csr.taskW0 d n) f ∧ t.fget (Csr.taskW1 d n) f = s.fget (Csr.taskW1 d n) f ∧
      t.fget (Csr.taskW2 d n) f = s.fget (Csr.taskW2 d n) f ∧ t.fget (Csr.taskW3 d n) f = s.fget (Csr.taskW3 d n) f := by
  have hread {a : Nat} (ha : a ∈ [Csr.taskW0 d n, Csr.taskW1 d n, Csr.taskW2 d n, Csr.taskW3 d n]) : t.fget a f = s.fget a f :=
    State.fget_congr (h.regs a (not_mem_heatRegs d (.inl ⟨n, hn, ha⟩))) f
  exact ⟨hread (by simp), hread (by simp), hread (by simp), hread (by simp)⟩

theorem State.Tallies.balance (h : s.Tallies t d) {c : Nat} (hc : c < 8) :
    t.fget (Csr.pmuAllot d c) PmuAllot.balance = s.fget (Csr.pmuAllot d c) PmuAllot.balance :=
  State.fget_congr (h.regs _ (not_mem_heatRegs d (.inr (.inl ⟨c, hc, rfl⟩)))) _

/-! ## What a dispatch writes -/

/-- FLAGS lose the bits of MASK. -/
def State.unflag (s : State) (d n : Nat) : State :=
  s.setTaskFlags d n (s.taskFlags d n - (s.taskFlags d n &&& s.fget (Csr.taskW1 d n) TaskW1.mask))

/-- The head of the inbox goes. -/
def State.unqueue (s : State) (d n e : Nat) : State :=
  s.setTaskX d n { s.taskX d n with
    inbox := (s.taskX d n).inbox.tail, onceAt := none, eng := e, acting := s.fget (Csr.taskW0 d n) TaskW0.prio }

/-- The cluster is debited. -/
def State.debit (s : State) (d c k : Nat) : State :=
  let s := s.setBalance d c (s.balance d c - k)
  s.setSched d { s.schedSt d with cluster := c, debit := k }

/-- The slot and the cluster at a dispatch. -/
def State.debits (s : State) (d n e : Nat) : State :=
  ((s.unflag d n).unqueue d n e).debit d (e / 8) (s.fget (Csr.taskW0 d n) TaskW0.eclass + 1)

/-- The slot is RUNNING, with LAST. -/
def State.assigned (s : State) (d n e : Nat) : State := (s.setTaskState d n TSt.running).fset (Csr.taskW3 d n) TaskW3.last e

/-- An overdraft is counted. -/
def State.overdraw (s : State) (d c : Nat) (b : Bool) : State :=
  if b then s.count (Csr.pmuGateCnt d c) PmuGateCnt.overdraws 1 else s

/-- The dispatch and the step of R163 that chose its engine are counted. -/
def State.tally (s : State) (d step : Nat) : State :=
  let s := s.count (Csr.schDispCnt d) SchDispCnt.dispatches 1
  if step == 1 then s.count (Csr.schAffCnt d) SchAffCnt.lastHit 1
  else if step == 2 then s.count (Csr.schAffCnt d) SchAffCnt.clusterHit 1 else s

theorem State.overdraw_tallies (s : State) (d : Nat) {c : Nat} (hc : c < 8) (b : Bool) : s.Tallies (s.overdraw d c b) d := by
  cases b with
  | true => exact (State.Tallies.refl s d).count (pmuGateCnt_mem_heatRegs hc) _ _
  | false => exact .refl s d

theorem State.tally_tallies (s : State) (d step : Nat) : s.Tallies (s.tally d step) d := by
  have hcounted := (State.Tallies.refl s d).count (a := Csr.schDispCnt d) (by simp [heatRegs]) SchDispCnt.dispatches 1
  unfold State.tally
  dsimp only
  split
  · exact hcounted.count (by simp [heatRegs]) _ _
  · split
    · exact hcounted.count (by simp [heatRegs]) _ _
    · exact hcounted

/-- A dispatch in its stages. -/
theorem State.dispatch_stages (s : State) (d n e step : Nat) : s.dispatch d n e step =
    ((((s.debits d n e).overdraw d (e / 8) (s.eprio d n == 0 && decide (s.testBalance d (e / 8) ≤ 0))).assigned d n e).tally d step).startHandler d e n
      (s.taskFlags d n &&& s.fget (Csr.taskW1 d n) TaskW1.mask) (s.fget (Csr.taskW0 d n) TaskW0.esc) ((s.unflag d n).taskX d n).inbox.head? := by
  unfold State.dispatch State.tally State.assigned State.overdraw State.debits State.debit State.unqueue State.unflag
  dsimp only

/-- From `s` to `t` a task was placed on an engine: what its slot and the cluster then hold. -/
structure State.Placed (s t : State) (d : Die) (n : Nat) (e : Eng) : Prop where
  running : t.taskState d n = TSt.running
  last : t.fget (Csr.taskW3 d n) TaskW3.last = e
  flags : t.taskFlags d n = s.taskFlags d n - (s.taskFlags d n &&& s.fget (Csr.taskW1 d n) TaskW1.mask)
  inbox : (t.taskX d n).inbox = (s.taskX d n).inbox.tail
  balance : t.fget (Csr.pmuAllot d (e / 8)) PmuAllot.balance = wrapInt 18 (s.balance d (e / 8) - (s.fget (Csr.taskW0 d n) TaskW0.eclass + 1))
  regs : OnlyRegs s t ([Csr.taskW2 d n, Csr.taskW3 d n, Csr.pmuAllot d (e / 8)] ++ heatRegs d)
  frame : t = { s with csr := t.csr, queues := t.queues, windows := t.windows, tasks := t.tasks, sched := t.sched }

theorem wrapInt_lt (n : Nat) (x : Int) : wrapInt n x < 2 ^ n := by
  have hpos : (0 : Int) < ((2 ^ n : Nat) : Int) := by positivity
  have hlt := Int.emod_lt_of_pos x hpos
  have hge := Int.emod_nonneg x (ne_of_gt hpos)
  unfold wrapInt
  omega

theorem pmuAllot_not_task (d : Die) {n c : Nat} (hn : n < 1024) (hc : c < 8) {a : Nat}
    (ha : a ∈ [Csr.taskW0 d n, Csr.taskW1 d n, Csr.taskW2 d n, Csr.taskW3 d n]) : a ≠ Csr.pmuAllot d c := by
  simp only [List.mem_cons, List.not_mem_nil, or_false, Csr.taskW0, Csr.taskW1, Csr.taskW2, Csr.taskW3, csrAddr] at ha
  simp only [Csr.pmuAllot, csrAddr]
  omega

theorem State.unflag_writes (s : State) (d n : Nat) :
    (s.unflag d n).taskFlags d n = s.taskFlags d n - (s.taskFlags d n &&& s.fget (Csr.taskW1 d n) TaskW1.mask) ∧
      OnlyRegs s (s.unflag d n) [Csr.taskW2 d n] ∧ s.unflag d n = { s with csr := (s.unflag d n).csr } := by
  have hlt := Fld.get_lt TaskW2.flags (s.csrGet (Csr.taskW2 d n))
  refine ⟨?_, s.fset_onlyRegs _ _ _, s.fset_frame _ _ _⟩
  exact (s.fget_fset_same _ _ _ (by decide)).trans (Nat.mod_eq_of_lt (lt_of_le_of_lt (Nat.sub_le _ _) hlt))

theorem State.unqueue_writes (s : State) (d n e : Nat) :
    ((s.unqueue d n e).taskX d n).inbox = (s.taskX d n).inbox.tail ∧ s.unqueue d n e = { s with tasks := (s.unqueue d n e).tasks } := by
  refine ⟨?_, rfl⟩
  unfold State.unqueue
  rw [State.taskX_setTaskX_same]

theorem State.debit_writes (s : State) (d c k : Nat) :
    (s.debit d c k).fget (Csr.pmuAllot d c) PmuAllot.balance = wrapInt 18 (s.balance d c - k) ∧
      OnlyRegs s (s.debit d c k) [Csr.pmuAllot d c] ∧ s.debit d c k = { s with csr := (s.debit d c k).csr, sched := (s.debit d c k).sched } := by
  obtain ⟨v, hv⟩ : ∃ v : State, v = s.setBalance d c (s.balance d c - k) := ⟨_, rfl⟩
  have hbalance : v.fget (Csr.pmuAllot d c) PmuAllot.balance = wrapInt 18 (s.balance d c - k) := by
    rw [hv]
    exact (s.fget_fset_same _ _ _ (by decide)).trans (Nat.mod_eq_of_lt (wrapInt_lt 18 _))
  have hregs : OnlyRegs s v [Csr.pmuAllot d c] := by rw [hv]; exact s.fset_onlyRegs _ _ _
  have hframe : v = { s with csr := v.csr } := by rw [hv]; exact s.fset_frame _ _ _
  obtain ⟨u, hu⟩ : ∃ u : State, u = v.setSched d { v.schedSt d with cluster := c, debit := k } := ⟨_, rfl⟩
  have hdebit : s.debit d c k = u := by
    unfold State.debit
    dsimp only
    rw [← hv, ← hu]
  have hcsr : u.csr = v.csr := by rw [hu]; rfl
  have hsched : u = { v with sched := u.sched } := by rw [hu]; rfl
  have hread : OnlyRegs v u [] := .of_csr hcsr _
  rw [hdebit]
  refine ⟨(State.fget_congr (hread _ List.not_mem_nil) _).trans hbalance, hregs.trans (hread.mono (List.nil_subset _)), ?_⟩
  rw [hsched, hframe]

/-- The writes of `debits`. -/
theorem State.debits_writes (s : State) (d : Die) (hn : n < 1024) (e : Eng) :
    let u := s.debits d n e
    u.taskFlags d n = s.taskFlags d n - (s.taskFlags d n &&& s.fget (Csr.taskW1 d n) TaskW1.mask) ∧
    (u.taskX d n).inbox = (s.taskX d n).inbox.tail ∧
    u.fget (Csr.pmuAllot d (e / 8)) PmuAllot.balance = wrapInt 18 (s.balance d (e / 8) - (s.fget (Csr.taskW0 d n) TaskW0.eclass + 1)) ∧
    OnlyRegs s u [Csr.taskW2 d n, Csr.pmuAllot d (e / 8)] ∧ u = { s with csr := u.csr, tasks := u.tasks, sched := u.sched } := by
  have hc : e.val / 8 < 8 := by have := e.isLt; omega
  have hne : Csr.taskW2 d n ≠ Csr.pmuAllot d (e / 8) := pmuAllot_not_task d hn hc (by simp)
  obtain ⟨hflags, hsa, hframe⟩ := s.unflag_writes d n
  unfold State.debits
  dsimp only
  obtain ⟨a, ha⟩ : ∃ a : State, a = s.unflag d n := ⟨_, rfl⟩
  rw [← ha] at hflags hsa hframe ⊢
  obtain ⟨hinbox, hframe'⟩ := a.unqueue_writes d n e
  obtain ⟨b, hb⟩ : ∃ b : State, b = a.unqueue d n e := ⟨_, rfl⟩
  rw [← hb] at hinbox hframe' ⊢
  obtain ⟨hbalance, hbu, hframe''⟩ := b.debit_writes d (e / 8) (s.fget (Csr.taskW0 d n) TaskW0.eclass + 1)
  obtain ⟨u, hu⟩ : ∃ u : State, u = b.debit d (e / 8) (s.fget (Csr.taskW0 d n) TaskW0.eclass + 1) := ⟨_, rfl⟩
  rw [← hu] at hbalance hbu hframe'' ⊢
  have hsb : OnlyRegs s b [Csr.taskW2 d n] := hsa.trans (.of_csr (congrArg State.csr hframe' :) _)
  have hba : OnlyRegs a b [] := .of_csr (congrArg State.csr hframe' :) _
  have hold : b.balance d (e / 8) = s.balance d (e / 8) := by
    unfold State.balance
    rw [State.fget_congr (hsb _ (by simpa using hne.symm))]
  have hinbox' : (a.taskX d n).inbox = (s.taskX d n).inbox := by
    unfold State.taskX
    rw [(congrArg State.tasks hframe :)]
  refine ⟨?_, ?_, ?_, ?_, ?_⟩
  · unfold State.taskFlags at hflags ⊢
    rw [State.fget_congr (hbu _ (by simpa using hne)), State.fget_congr (hba _ List.not_mem_nil), hflags]
  · rw [← hinbox', ← hinbox]
    unfold State.taskX
    rw [(congrArg State.tasks hframe'' :)]
  · rw [hbalance, hold]
    rfl
  · exact (hsb.mono (by simp)).trans (hbu.mono (by simp))
  · rw [hframe'', hframe', hframe]

theorem State.assigned_writes (s : State) (d : Die) (n : Nat) (e : Eng) :
    let u := s.assigned d n e
    u.taskState d n = TSt.running ∧ u.fget (Csr.taskW3 d n) TaskW3.last = e ∧ OnlyRegs s u [Csr.taskW3 d n] ∧ u = { s with csr := u.csr } := by
  refine ⟨?_, ?_, ?_, ?_⟩
  · exact (State.fget_fset_disjoint _ _ _ _ _ (by decide)).trans (s.taskState_setTaskState d n (by decide))
  · exact (State.fget_fset_same _ _ _ _ (by decide)).trans (Nat.mod_eq_of_lt e.isLt)
  · exact (s.fset_onlyRegs _ _ _).trans (State.fset_onlyRegs _ _ _ _)
  · obtain ⟨v, hv⟩ : ∃ v : State, v = s.setTaskState d n TSt.running := ⟨_, rfl⟩
    have hframe : v = { s with csr := v.csr } := by rw [hv]; exact s.fset_frame _ _ _
    obtain ⟨u, hu⟩ : ∃ u : State, u = v.fset (Csr.taskW3 d n) TaskW3.last e := ⟨_, rfl⟩
    have hframe' : u = { v with csr := u.csr } := by rw [hu]; exact v.fset_frame _ _ _
    have hassigned : s.assigned d n e = u := by
      unfold State.assigned
      rw [← hv, ← hu]
    rw [hassigned, hframe', hframe]

/-- A dispatch before its handler starts. -/
theorem State.placed (s : State) (d : Die) (hn : n < 1024) (e : Eng) (b : Bool) (step : Nat) :
    s.Placed ((((s.debits d n e).overdraw d (e / 8) b).assigned d n e).tally d step) d n e := by
  have hc : e.val / 8 < 8 := by have := e.isLt; omega
  obtain ⟨hflags, hinbox, hbalance, hregs, hframe⟩ := s.debits_writes d hn e
  obtain ⟨u, hu⟩ : ∃ u : State, u = s.debits d n e := ⟨_, rfl⟩
  rw [← hu] at hflags hinbox hbalance hregs hframe ⊢
  have htally := u.overdraw_tallies d hc b
  obtain ⟨v, hv⟩ : ∃ v : State, v = u.overdraw d (e / 8) b := ⟨_, rfl⟩
  rw [← hv] at htally ⊢
  obtain ⟨hrunning, hlast, hregs', hframe'⟩ := v.assigned_writes d n e
  obtain ⟨a, ha⟩ : ∃ a : State, a = v.assigned d n e := ⟨_, rfl⟩
  rw [← ha] at hrunning hlast hregs' hframe' ⊢
  have htally' := a.tally_tallies d step
  obtain ⟨t, ht⟩ : ∃ t : State, t = a.tally d step := ⟨_, rfl⟩
  rw [← ht] at htally' ⊢
  have hne : Csr.taskW2 d n ≠ Csr.taskW3 d n := (taskW_distinct d n).2.2.1
  have hne' : Csr.pmuAllot d (e / 8) ≠ Csr.taskW3 d n := (pmuAllot_not_task d hn hc (a := Csr.taskW3 d n) (by simp)).symm
  refine ⟨?_, ?_, ?_, ?_, ?_, ?_, ?_⟩
  · exact (htally'.taskRead hn _).2.2.2.trans hrunning
  · exact (htally'.taskRead hn _).2.2.2.trans hlast
  · unfold State.taskFlags at hflags ⊢
    rw [(htally'.taskRead hn _).2.2.1, State.fget_congr (hregs' _ (by simpa using hne)), (htally.taskRead hn _).2.2.1, hflags]
  · have htasks : t.tasks = u.tasks :=
      ((congrArg State.tasks htally'.frame :).trans (congrArg State.tasks hframe' :)).trans (congrArg State.tasks htally.frame :)
    unfold State.taskX at hinbox ⊢
    rw [htasks, hinbox]
  · rw [htally'.balance hc, State.fget_congr (hregs' _ (by simpa using hne')), htally.balance hc, hbalance]
  · exact (((hregs.mono (by simp)).trans (htally.regs.mono (List.subset_append_right _ _))).trans (hregs'.mono (by simp))).trans
      (htally'.regs.mono (List.subset_append_right _ _))
  · have hcounted := htally.frame
    have hcounted' := htally'.frame
    unfold Reports at hcounted hcounted'
    rw [hcounted', hframe', hcounted, hframe]

/-! ## The start of a handler (03 R103, R110) -/

/-- Values that a dispatch loads into window 0. -/
def windowVals (n v1 esc : Nat) (m : Option InMsg) : List Nat :=
  [n, v1, match m with
    | some m => 1 + m.msg.g Hd.vc * 2 + m.msg.g Hd.beats * 16
    | none => 0, esc, 0x10000] ++ List.replicate 11 0

theorem getD_zeros (k i : Nat) : (List.replicate k 0).getD i 0 = 0 := by
  rw [List.getD_eq_getElem?_getD, List.getElem?_replicate]
  split <;> rfl

/-- The first `k` registers of window 0 hold values, and no other register changed. -/
structure State.Window (s t : State) (d e k : Nat) (vals : List Nat) : Prop where
  regs : ∀ v < k, t.regIn d e 0 v = BitVec.ofNat 32 (vals.getD v 0)
  rest : ∀ key, (∀ v < k, key ≠ regKey d e 0 v) → SMap.get 0 t.engReg key = SMap.get 0 s.engReg key
  frame : t = { s with engReg := t.engReg }

theorem State.setRegIns_window (s : State) (d e : Nat) (vals : List Nat) {k : Nat} (hk : k ≤ 16) :
    s.Window ((List.range k).foldl (fun (s : State) i => s.setRegIn d e 0 i (BitVec.ofNat 32 (vals.getD i 0))) s) d e k vals := by
  induction k with
  | zero => exact ⟨fun v hv => absurd hv (by omega), fun _ _ => rfl, rfl⟩
  | succ k ih =>
    specialize ih (by omega)
    rw [List.range_succ, List.foldl_append]
    obtain ⟨u, hu⟩ : ∃ u : State, u = (List.range k).foldl (fun (s : State) i => s.setRegIn d e 0 i (BitVec.ofNat 32 (vals.getD i 0))) s := ⟨_, rfl⟩
    rw [← hu] at ih ⊢
    rw [List.foldl_cons, List.foldl_nil]
    refine ⟨fun v hv => ?_, fun key hkey => ?_, ?_⟩
    · by_cases hvk : v = k
      · rw [hvk, State.regIn_setRegIn_same, if_neg (by omega)]
      · rw [← ih.regs v (by omega)]
        unfold State.regIn
        rw [State.setRegIn_others _ _ _ _ _ _ _ (.inr (regKey_window_ne (by omega) (by omega) hvk))]
    · rw [State.setRegIn_others _ _ _ _ _ _ _ (.inr (hkey k (by omega))), ih.rest key fun v hv => hkey v (by omega)]
    · have hset := State.setRegIn_rest u d e 0 k (BitVec.ofNat 32 (vals.getD k 0))
      rw [hset, ih.frame]

theorem State.loadWindow0_window (s : State) (d e n v1 esc : Nat) (m : Option InMsg) :
    s.Window (s.loadWindow0 d e n v1 esc m) d e 16 (windowVals n v1 esc m) := by
  have hwindow := s.setRegIns_window d e (windowVals n v1 esc m) (le_refl 16)
  unfold State.loadWindow0
  cases m with
  | some m => exact hwindow
  | none => exact hwindow

/-- The record of an engine on which a handler starts. -/
def State.started (s : State) (d e n v1 esc : Nat) (m : Option InMsg) (pc budget : Nat) : Engine :=
  { s.eng d e with
    cwp := 0, wres := 1, depth := 0, spp := BitVec.ofNat 32 (s.fget (Csr.engSpill d e) EngSpill.top * 64),
    spl := BitVec.ofNat 32 (s.fget (Csr.engSpill d e) EngSpill.limit * 64), run := 0, slot := n, pc := pc, budget := budget,
    running := true, wait := .none, v1 := BitVec.ofNat 32 v1, esc := esc, inMsg := m, answered := false }

theorem State.started_congr {d e : Nat} (heng : t.eng d e = s.eng d e) (hspill : t.csrGet (Csr.engSpill d e) = s.csrGet (Csr.engSpill d e))
    (n v1 esc : Nat) (m : Option InMsg) (pc budget : Nat) : t.started d e n v1 esc m pc budget = s.started d e n v1 esc m pc budget := by
  unfold State.started
  dsimp only
  rw [heng, State.fget_congr hspill, State.fget_congr hspill]

/-- From `s` to `t` a handler started. -/
structure State.Started (s t : State) (d e n v1 esc : Nat) (m : Option InMsg) (pc budget : Nat) : Prop where
  record : t.eng d e = s.started d e n v1 esc m pc budget
  window : ∀ v < 16, t.regIn d e 0 v = BitVec.ofNat 32 ((windowVals n v1 esc m).getD v 0)
  rest : ∀ key, (∀ v < 16, key ≠ regKey d e 0 v) → SMap.get 0 t.engReg key = SMap.get 0 s.engReg key
  regs : OnlyRegs s t [Csr.engEccCnt d]
  tasks : t.tasks = s.tasks

theorem State.startHandler_starts (s : State) (d e n v1 esc : Nat) (m : Option InMsg) {entry : Nat} {hw : Word}
    (hentry : s.fget (Csr.taskW0 d n) TaskW0.entry = entry) (hword : s.storeWord d e entry = hw)
    (hbad : SMap.get 0 s.storeBad (storeKey d e entry) ≤ 1) (hheader : headerOk hw = true) :
    s.Started (s.startHandler d e n v1 esc m) d e n v1 esc m (entry + 1) (hw.toNat % 64 + 1) := by
  have hlt : entry < 4096 := hentry ▸ Fld.get_lt TaskW0.entry (s.csrGet (Csr.taskW0 d n))
  obtain ⟨u, hu⟩ : ∃ u : State, u = s.setEng d e (s.started d e n v1 esc m entry 0) := ⟨_, rfl⟩
  have hwindow := u.loadWindow0_window d e n v1 esc m
  obtain ⟨v, hv⟩ : ∃ v : State, v = u.loadWindow0 d e n v1 esc m := ⟨_, rfl⟩
  rw [← hv] at hwindow
  have hu' : u = { s with engs := u.engs } := by rw [hu]; rfl
  have heng : v.eng d e = s.started d e n v1 esc m entry 0 := by
    rw [State.eng_congr (congrArg State.engs hwindow.frame :), hu]
    exact s.eng_setEng_same d e _
  have hpc : (v.eng d e).pc = entry := by rw [heng]; rfl
  have hstore : v.store = s.store := (congrArg State.store hwindow.frame :).trans (congrArg State.store hu' :)
  have hstoreBad : v.storeBad = s.storeBad := (congrArg State.storeBad hwindow.frame :).trans (congrArg State.storeBad hu' :)
  have hfetched : v.fetched d e = some hw := by
    unfold State.fetched State.storeWord
    rw [hpc, hstore, hstoreBad]
    refine (if_pos ?_).trans (congrArg some hword)
    simp [hlt, hbad]
  have hstart : s.startHandler d e n v1 esc m =
      (v.fetchEcc d e).setEng d e { (v.fetchEcc d e).eng d e with pc := entry + 1, budget := hw.toNat % 64 + 1 } := by
    have hu'' : s.setEng d e (s.started d e n v1 esc m (s.fget (Csr.taskW0 d n) TaskW0.entry) 0) = u := by rw [hu, hentry]
    unfold State.started at hu''
    unfold State.startHandler
    dsimp only
    rw [hu'', ← hv, hfetched, hentry]
    dsimp only
    rw [hheader, if_neg (by decide)]
  have hchecks := v.fetchEcc_checks d e
  have hreg : (v.fetchEcc d e).engReg = v.engReg := State.fetchEcc_engReg ..
  rw [hstart, State.eng_fetchEcc, heng]
  refine ⟨State.eng_setEng_same _ d e _, fun w hw => ?_, fun key hkey => ?_, ?_, ?_⟩
  · rw [← hwindow.regs w hw]
    exact State.regIn_congr hreg d e 0 w
  · have hkept := hwindow.rest key hkey
    have hur : u.engReg = s.engReg := (congrArg State.engReg hu' :)
    rw [hur, ← hreg] at hkept
    exact hkept
  · exact (OnlyRegs.of_csr ((congrArg State.csr hwindow.frame :).trans (congrArg State.csr hu' :)) _).trans (hchecks.regs.trans (.of_csr rfl _))
  · exact (congrArg State.tasks hchecks.frame :).trans ((congrArg State.tasks hwindow.frame :).trans (congrArg State.tasks hu' :))

/-- The die in a SCHED cycle in which the scan may dispatch: the step is noted, and skips are counted. -/
def State.scanned (s : State) (d : Nat) : State :=
  (s.setSched d { s.schedSt d with stepAt := s.schedNow + 1, cluster := 0, debit := 0 }).countSkips d

theorem doTaskDispatch_scan {step : Nat} (hclock : s.clockOn d = true) (hen : s.fbit (Csr.schCtrl d) SchCtrl.dispEn = true)
    (hstep : (s.schedSt d).stepAt ≠ s.ticks + 1) (hscan : s.scan d = some (n, e.val, step)) :
    doTaskDispatch d s = (s.scanned d).dispatch d n e step := by
  have hcond : ((!(s.clockOn d && s.fbit (Csr.schCtrl d) SchCtrl.dispEn)) || (s.schedSt d).stepAt == s.schedNow + 1) = false := by
    rw [hclock, hen]
    exact (Bool.or_eq_false_iff.2 ⟨rfl, beq_eq_false_iff_ne.2 hstep⟩)
  unfold doTaskDispatch
  dsimp only
  rw [hcond, if_neg Bool.false_ne_true, hscan]
  rfl

/-- From `s` to `t` a scan left alone what a dispatch reads. -/
structure State.Scanned (s t : State) (d : Die) : Prop where
  regs : OnlyRegs s t (heatRegs d)
  engs : t.engs = s.engs
  engReg : t.engReg = s.engReg
  tasks : t.tasks = s.tasks
  store : t.store = s.store
  storeBad : t.storeBad = s.storeBad

theorem State.scanned_keeps (s : State) (d : Die) : s.Scanned (s.scanned d) d := by
  obtain ⟨u, hu⟩ : ∃ u : State, u = s.setSched d { s.schedSt d with stepAt := s.schedNow + 1, cluster := 0, debit := 0 } := ⟨_, rfl⟩
  have hframe : u = { s with sched := u.sched } := by rw [hu]; rfl
  have htally := u.countSkips_tallies d
  have hreports := htally.frame
  unfold Reports at hreports
  have hscanned : s.scanned d = u.countSkips d := by rw [hu]; rfl
  rw [hscanned]
  exact ⟨(OnlyRegs.of_csr (congrArg State.csr hframe :) _).trans htally.regs,
    (congrArg State.engs hreports :).trans (congrArg State.engs hframe :), (congrArg State.engReg hreports :).trans (congrArg State.engReg hframe :),
    (congrArg State.tasks hreports :).trans (congrArg State.tasks hframe :), (congrArg State.store hreports :).trans (congrArg State.store hframe :),
    (congrArg State.storeBad hreports :).trans (congrArg State.storeBad hframe :)⟩

/-- What a dispatch leaves: the slot, the cluster, and the engine's record and registers. -/
structure State.Dispatched (s t : State) (d : Die) (n : Nat) (e : Eng) (entry : Nat) (hw : Word) : Prop where
  running : t.taskState d n = TSt.running
  last : t.fget (Csr.taskW3 d n) TaskW3.last = e
  flags : t.taskFlags d n = s.taskFlags d n - (s.taskFlags d n &&& s.fget (Csr.taskW1 d n) TaskW1.mask)
  inbox : (t.taskX d n).inbox = (s.taskX d n).inbox.tail
  balance : t.fget (Csr.pmuAllot d (e / 8)) PmuAllot.balance = wrapInt 18 (s.balance d (e / 8) - (s.fget (Csr.taskW0 d n) TaskW0.eclass + 1))
  record : t.eng d e = s.started d e n (s.taskFlags d n &&& s.fget (Csr.taskW1 d n) TaskW1.mask) (s.fget (Csr.taskW0 d n) TaskW0.esc)
    (s.taskX d n).inbox.head? (entry + 1) (hw.toNat % 64 + 1)
  window : ∀ v < 16, t.regIn d e 0 v = BitVec.ofNat 32 ((windowVals n (s.taskFlags d n &&& s.fget (Csr.taskW1 d n) TaskW1.mask)
    (s.fget (Csr.taskW0 d n) TaskW0.esc) (s.taskX d n).inbox.head?).getD v 0)
  rest : ∀ key, (∀ v < 16, key ≠ regKey d e 0 v) → SMap.get 0 t.engReg key = SMap.get 0 s.engReg key

theorem State.dispatch_dispatched (s : State) (d : Die) (hn : n < 1024) (e : Eng) (step : Nat) {hw : Word} {entry : Nat}
    (hentry : s.fget (Csr.taskW0 d n) TaskW0.entry = entry) (hword : s.storeWord d e entry = hw)
    (hbad : SMap.get 0 s.storeBad (storeKey d e entry) ≤ 1) (hheader : headerOk hw = true) :
    s.Dispatched (s.dispatch d n e step) d n e entry hw := by
  have hc : e.val / 8 < 8 := by have := e.isLt; omega
  rw [s.dispatch_stages d n e step]
  have hplaced := s.placed d hn e (s.eprio d n == 0 && decide (s.testBalance d (e / 8) ≤ 0)) step
  generalize (((s.debits d n e).overdraw d (e / 8) (s.eprio d n == 0 && decide (s.testBalance d (e / 8) ≤ 0))).assigned d n e).tally d step = u at hplaced ⊢
  have hread {a : Nat} (ha : a = Csr.taskW0 d n ∨ a = Csr.engSpill d e) : u.csrGet a = s.csrGet a := by
    have he := e.isLt
    refine hplaced.regs a fun hm => ?_
    rcases List.mem_append.1 hm with hm | hm
    · rcases ha with rfl | rfl
      · simp only [List.mem_cons, List.not_mem_nil, or_false, Csr.taskW0, Csr.taskW2, Csr.taskW3, Csr.pmuAllot, csrAddr] at hm
        omega
      · simp only [List.mem_cons, List.not_mem_nil, or_false, Csr.engSpill, Csr.taskW2, Csr.taskW3, Csr.pmuAllot, csrAddr] at hm
        omega
    · rcases ha with rfl | rfl
      · exact not_mem_heatRegs d (.inl ⟨n, hn, by simp⟩) hm
      · exact not_mem_heatRegs d (.inr (.inr ⟨e, rfl⟩)) hm
  have hinbox : ((s.unflag d n).taskX d n).inbox = (s.taskX d n).inbox := by
    unfold State.taskX
    rw [(congrArg State.tasks (s.unflag_writes d n).2.2 :)]
  rw [hinbox]
  have hstored : u.storeWord d e entry = hw := by
    unfold State.storeWord at hword ⊢
    rw [(congrArg State.store hplaced.frame :), hword]
  have hgood : SMap.get 0 u.storeBad (storeKey d e entry) ≤ 1 := by
    rw [(congrArg State.storeBad hplaced.frame :)]
    exact hbad
  obtain ⟨v1, hv1⟩ : ∃ v1, v1 = s.taskFlags d n &&& s.fget (Csr.taskW1 d n) TaskW1.mask := ⟨_, rfl⟩
  obtain ⟨m, hm⟩ : ∃ m, m = (s.taskX d n).inbox.head? := ⟨_, rfl⟩
  have hstarts := u.startHandler_starts d e n v1 (s.fget (Csr.taskW0 d n) TaskW0.esc) m ((State.fget_congr (hread (.inl rfl)) _).trans hentry) hstored hgood hheader
  have hsame := State.started_congr (s := s) (State.eng_congr (congrArg State.engs hplaced.frame :) d e) (hread (.inr rfl))
  rw [← hv1, ← hm]
  generalize u.startHandler d e n v1 (s.fget (Csr.taskW0 d n) TaskW0.esc) m = t at hstarts ⊢
  have hkeep {a : Nat} (ha : a ≠ Csr.engEccCnt d) : t.csrGet a = u.csrGet a := hstarts.regs a (by simpa using ha)
  have htask {a : Nat} (ha : a = Csr.taskW2 d n ∨ a = Csr.taskW3 d n ∨ a = Csr.pmuAllot d (e / 8)) : t.csrGet a = u.csrGet a := by
    refine hkeep ?_
    simp only [Csr.taskW2, Csr.taskW3, Csr.pmuAllot, Csr.engEccCnt, csrAddr] at ha ⊢
    omega
  refine ⟨?_, ?_, ?_, ?_, ?_, ?_, ?_, ?_⟩
  · exact (State.fget_congr (htask (.inr (.inl rfl))) _).trans hplaced.running
  · exact (State.fget_congr (htask (.inr (.inl rfl))) _).trans hplaced.last
  · exact (State.fget_congr (htask (.inl rfl)) _).trans hplaced.flags
  · rw [← hplaced.inbox]
    unfold State.taskX
    rw [hstarts.tasks]
  · exact (State.fget_congr (htask (.inr (.inr rfl))) _).trans hplaced.balance
  · rw [← hv1, ← hm, hstarts.record, hsame]
  · rw [← hv1, ← hm]
    exact hstarts.window
  · intro key hkey
    rw [hstarts.rest key hkey, (congrArg State.engReg hplaced.frame :)]

end

/-! ## O19 -/

/-- Settles O19: a dispatch after the scan that counted what it skipped. -/
theorem taskDispatchStarts : Obligations.TaskDispatchStarts := by
  unfold Obligations.TaskDispatchStarts
  intro d s n e step
  dsimp only
  intro hn he hclock hen hstep hscan hop hzero hbad
  obtain ⟨e, rfl⟩ : ∃ e' : Eng, e'.val = e := ⟨⟨e, he⟩, rfl⟩
  refine ⟨_, rfl, ?_⟩
  rw [doTaskDispatch_scan hclock hen hstep hscan]
  have hkeep := s.scanned_keeps d
  generalize s.scanned d = u at hkeep ⊢
  have hheader : headerOk (s.storeWord d e (s.fget (Csr.taskW0 d n) TaskW0.entry)) = true := by
    unfold headerOk
    rw [hop, hzero]
    rfl
  have hread {a : Nat} (ha : a ∈ [Csr.taskW0 d n, Csr.taskW1 d n, Csr.taskW2 d n, Csr.taskW3 d n]) (f : Fld) : u.fget a f = s.fget a f :=
    State.fget_congr (hkeep.regs a (not_mem_heatRegs d (.inl ⟨n, hn, ha⟩))) f
  have hspill := hkeep.regs (Csr.engSpill d e) (not_mem_heatRegs d (.inr (.inr ⟨e, rfl⟩)))
  have hstored : u.storeWord d e (s.fget (Csr.taskW0 d n) TaskW0.entry) = s.storeWord d e (s.fget (Csr.taskW0 d n) TaskW0.entry) := by
    unfold State.storeWord
    rw [hkeep.store]
  have h := u.dispatch_dispatched d hn e step (hread (by simp) _) hstored (by rw [hkeep.storeBad]; exact hbad) hheader
  generalize u.dispatch d n e step = t at h ⊢
  have hflags : u.taskFlags d n = s.taskFlags d n := hread (by simp) _
  have hinbox : u.taskX d n = s.taskX d n := by
    unfold State.taskX
    rw [hkeep.tasks]
  have hbalance : u.balance d (e / 8) = s.balance d (e / 8) := by
    have hc : e.val / 8 < 8 := by have := e.isLt; omega
    unfold State.balance
    rw [State.fget_congr (hkeep.regs _ (not_mem_heatRegs d (.inr (.inl ⟨_, hc, rfl⟩))))]
  have hflag := h.flags
  have hbox := h.inbox
  have hbal := h.balance
  have hrec := h.record
  have hwin := h.window
  rw [hflags, hread (by simp)] at hflag
  rw [hinbox] at hbox
  rw [hbalance, hread (by simp)] at hbal
  rw [State.started_congr (State.eng_congr hkeep.engs d e) hspill, hflags, hinbox, hread (by simp), hread (by simp)] at hrec
  rw [hflags, hinbox, hread (by simp), hread (by simp)] at hwin
  refine ⟨h.running, h.last, hflag, hbox, hbal, hrec, hwin 0 (by decide), hwin 1 (by decide), ?_, hwin 3 (by decide), hwin 4 (by decide),
    fun v hlo hhi => ?_, fun k hk => ?_⟩
  · exact hwin 2 (by decide)
  · rw [hwin v hhi]
    unfold windowVals
    rw [List.getD_append_right _ _ _ _ (by simpa using hlo), getD_zeros]
    rfl
  · rw [h.rest k hk, hkeep.engReg]

end Sys2Proof.Machine

end

section

/-! PROOFS. Grants of a bank port (07 R237 to R245): a request alone at a port, what its grant takes, and what an access does to a
word. -/

namespace Sys2Proof.Machine

/-! ## Round robin -/

theorem firstFrom_only {n start k : Nat} {p : Nat → Bool} (hk : k < n) (hp : ∀ i, p i = true ↔ i = k) : firstFrom n start p = some k := by
  unfold firstFrom
  obtain ⟨i, hi, heq⟩ : ∃ i < n, (start + i) % n = k := by
    refine ⟨(k + (n - start % n)) % n, Nat.mod_lt _ (by omega), ?_⟩
    have hlt := Nat.mod_lt start (show 0 < n by omega)
    rw [Nat.add_mod, Nat.mod_mod, ← Nat.add_mod, show start + (k + (n - start % n)) = k + n + (start - start % n) by
      have := Nat.mod_le start n
      omega]
    have hmul : start - start % n = n * (start / n) := by
      have := Nat.div_add_mod start n
      omega
    rw [hmul, Nat.add_mul_mod_self_left, Nat.add_mod_right, Nat.mod_eq_of_lt hk]
  cases hfind : ((List.range n).map (fun i => (start + i) % n)).find? p with
  | none =>
    have hno := List.find?_eq_none.1 hfind k (heq ▸ List.mem_map_of_mem (f := fun i => (start + i) % n) (List.mem_range.2 hi))
    exact absurd ((hp k).2 rfl) hno
  | some j => rw [(hp j).1 (List.find?_some hfind)]

theorem firstFrom_none {n start : Nat} {p : Nat → Bool} (hp : ∀ i, p i = false) : firstFrom n start p = none := by
  unfold firstFrom
  rw [List.find?_eq_none]
  intro i _
  rw [hp i]
  decide

section
variable {s t u : State} {d b w port : Nat} {r : PortReq} {q : BankReq} {f : Option FabBankReq}

/-! ## Requests at a port (R235, R237) -/

theorem State.engReq_one (hq : SMap.get [] s.bankQ (bankQKey d b 1) = [q]) (heng : q.eng < 64) :
    s.engReq d b = some ⟨1, q.word, q.op, some q⟩ := by
  have hfirst := firstFrom_only (start := SMap.get 0 s.bankRr (bankKey d b * 4 + 2)) (p := fun e => [q].any (·.eng == e)) heng
    fun i => by simpa using eq_comm
  unfold State.engReq
  dsimp only
  rw [hq, hfirst]
  simp

theorem State.engReq_none (hq : SMap.get [] s.bankQ (bankQKey d b 1) = []) : s.engReq d b = none := by
  have hfirst := firstFrom_none (n := 64) (start := SMap.get 0 s.bankRr (bankKey d b * 4 + 2)) (p := fun e => ([] : List BankReq).any (·.eng == e))
    fun _ => rfl
  unfold State.engReq
  dsimp only
  rw [hq, hfirst]

theorem State.dmaReq_none (hq : SMap.get [] s.bankQ (bankQKey d b 2) = []) : s.dmaReq d b = none := by
  unfold State.dmaReq
  rw [hq]
  rfl

theorem State.dmaReq_one (hq : SMap.get [] s.bankQ (bankQKey d b 2) = [q]) : s.dmaReq d b = some ⟨2, q.word, q.op, some q⟩ := by
  unfold State.dmaReq
  rw [hq]
  rfl

/-- The request of a fabric port that writes a whole word. -/
theorem State.fabReq_write {fb : FabBankReq} {x : BitVec 64} (hreach : fb.reach.val = b / 3) (hopen : s.portOpen d fb.reach = true)
    (hwrites : s.writesEnabled d fb.reach = true) (hop : fb.op = .write 0xFF x false) :
    s.fabReq d b (some fb) = some ⟨0, fb.word, .write 0xFF x false, none⟩ := by
  unfold State.fabReq
  dsimp only
  rw [hop]
  dsimp only
  refine if_pos ?_
  rw [hopen, hwrites, hreach]
  simp
  decide

theorem State.portReqs_single (hb : b < 44) : s.portReqs d b port f = (s.fabReq d b f).toList ++ ((s.engReq d b).toList ++ (s.dmaReq d b).toList) :=
  if_pos hb

/-! ## A request alone (R238) -/

theorem State.pickReq_alone (hmaster : r.master < 3) (helig : s.eligibleReq d b port r = true) : s.pickReq d b port [r] = some r := by
  have hok : [r].filter (s.eligibleReq d b port) = [r] := by rw [List.filter_cons_of_pos helig, List.filter_nil]
  have hfirst := firstFrom_only (start := SMap.get 0 s.bankRr (bankKey d b * 4 + port)) (p := fun m => [r].any (·.master == m)) hmaster
    fun i => by simpa using eq_comm
  unfold State.pickReq
  dsimp only
  rw [hok, hfirst]
  simp

theorem State.conflicts_alone (s : State) (d b port : Nat) (r : PortReq) : s.conflicts d b port (some r) [r] = s := by
  unfold State.conflicts
  simp

theorem State.grantPort_alone (hfree : s.portFree d b port = true) (hreqs : s.portReqs d b port f = [r]) (hmaster : r.master < 3)
    (helig : s.eligibleReq d b port r = true) : s.grantPort d b port f = (s.usePort d b port).serve d b port r := by
  unfold State.grantPort
  dsimp only
  rw [hfree, if_neg (by decide), hreqs, State.pickReq_alone hmaster helig, State.conflicts_alone]

theorem State.grant_single (hclock : s.clockOn d = true) (hb : b < 44) : s.grant d b .single f = s.grantPort d b 0 f := by
  unfold State.grant
  dsimp only
  rw [hclock, if_neg (by decide), if_pos hb]

/-- No bank command has all its words. -/
theorem State.bankAnswers_none (h : s.NoBankAnswerDue) (hcmds : t.cmds = s.cmds) : t.bankAnswers = t := by
  unfold State.bankAnswers
  rw [hcmds]
  unfold State.NoBankAnswerDue at h
  generalize s.cmds = l at h
  induction l with
  | nil => rfl
  | cons c l ih =>
    have hc : t.bankAnswer c = t := by
      cases hwork : c.work with
      | bank n got => rw [t.bankAnswer_bank hwork, if_pos (h c List.mem_cons_self n got hwork)]
      | _ => unfold State.bankAnswer; rw [hwork]
    rw [List.foldl_cons, hc]
    exact ih fun c hc => h c (List.mem_cons_of_mem _ hc)

/-! ## What a grant takes (R238) -/

/-- From `s` to `t` a granted request was taken: the port's turns, its read-modify-writes and the queue. -/
def BankTook (s t : State) : Prop :=
  t = { s with bankRr := t.bankRr, bankRmw := t.bankRmw, bankQ := t.bankQ, bankLast := t.bankLast }

theorem BankTook.refl (s : State) : BankTook s s := rfl

theorem BankTook.trans (h : BankTook s t) (h' : BankTook t u) : BankTook s u := by
  unfold BankTook at *
  rw [h', h]

theorem State.usePort_took (s : State) (d b port : Nat) : BankTook s (s.usePort d b port) := rfl

/-- The port's part of a grant. -/
def State.turned (s : State) (d b port : Nat) (r : PortReq) : State :=
  let s := { s with bankRr := SMap.set 0 s.bankRr (bankKey d b * 4 + port) ((r.master + 1) % 3) }
  let recent := (s.rmws d b port).filter (fun x => s.bankNow ≤ x.2 + 4) ++ [(r.word, s.bankNow)]
  if rmwOp r.op && !s.bankUnav d b then { s with bankRmw := SMap.set [] s.bankRmw (bankKey d b * 2 + port) recent } else s

theorem State.turned_writes (s : State) (d b port : Nat) (r : PortReq) : BankTook s (s.turned d b port r) ∧
    (s.turned d b port r).bankRr = SMap.set 0 s.bankRr (bankKey d b * 4 + port) ((r.master + 1) % 3) ∧
    (s.turned d b port r).bankQ = s.bankQ := by
  unfold State.turned
  dsimp only
  split
  · exact ⟨rfl, rfl, rfl⟩
  · exact ⟨rfl, rfl, rfl⟩

/-- The request leaves its queue. -/
def State.unasked (s : State) (d b m : Nat) (q : BankReq) : State :=
  { s with bankQ := SMap.set [] s.bankQ (bankQKey d b m) ((SMap.get [] s.bankQ (bankQKey d b m)).erase q) }

theorem State.takeReq_fabric (s : State) (hfrom : r.from_ = none) : s.takeReq d b port r = s.turned d b port r := by
  obtain ⟨m, w, op, from_⟩ := r
  cases hfrom
  rfl

theorem State.takeReq_engine (s : State) (hfrom : r.from_ = some q) (hwho : q.who = .engine) (hmaster : r.master = 1) :
    s.takeReq d b port r = { (s.turned d b port r).unasked d b 1 q with
      bankRr := SMap.set 0 (s.turned d b port r).bankRr (bankKey d b * 4 + 2) ((q.eng + 1) % 64) } := by
  obtain ⟨m, w, op, from_⟩ := r
  obtain ⟨id, who, die, eng, word, half, op'⟩ := q
  cases hfrom
  cases hmaster
  cases hwho
  rfl

/-- The engine's request is taken. -/
theorem State.takeReq_engine_took (s : State) (hfrom : r.from_ = some q) (hwho : q.who = .engine) (hmaster : r.master = 1) :
    BankTook s (s.takeReq d b port r) ∧
      SMap.get [] (s.takeReq d b port r).bankQ (bankQKey d b 1) = (SMap.get [] s.bankQ (bankQKey d b 1)).erase q := by
  obtain ⟨htook, -, hq⟩ := s.turned_writes d b port r
  rw [s.takeReq_engine hfrom hwho hmaster]
  generalize s.turned d b port r = u at htook hq ⊢
  refine ⟨htook.trans rfl, ?_⟩
  unfold State.unasked
  dsimp only
  rw [SMap.get_set_same, hq]

/-! ## Words (R234, R242) -/

theorem State.bankRaw_congr (h : t.bankMem = s.bankMem) (d b w : Nat) : t.bankRaw d b w = s.bankRaw d b w := by
  unfold State.bankRaw
  rw [h]

theorem State.bankMarkOf_congr (h : t.bankMark = s.bankMark) (d b w : Nat) : t.bankMarkOf d b w = s.bankMarkOf d b w := by
  unfold State.bankMarkOf
  rw [h]

theorem State.bankUnav_congr (h : t.csr = s.csr) (d b : Nat) : t.bankUnav d b = s.bankUnav d b := by
  unfold State.bankUnav State.fbit State.fget State.csrGet
  rw [h]

/-- What a store leaves: the word's bytes and its mark. -/
structure State.WordStored (s t : State) (d b w : Nat) (v : BitVec 64) (p : Bool) : Prop where
  raw : t.bankRaw d b w = v
  mark : t.bankMarkOf d b w = ⟨p, 0⟩
  rest : ∀ a, (a < bankKey d b * 131072 + 8 * w ∨ bankKey d b * 131072 + 8 * w + 8 ≤ a) → Memory.read 0 t.bankMem a = Memory.read 0 s.bankMem a

theorem State.bankStore_frame (s : State) (d b w : Nat) (v : BitVec 64) (p : Bool) :
    s.bankStore d b w v p = { s with bankMem := (s.bankStore d b w v p).bankMem, bankMark := (s.bankStore d b w v p).bankMark } := rfl

theorem State.bankStore_stored (s : State) (d b w : Nat) (v : BitVec 64) (p : Bool) : s.WordStored (s.bankStore d b w v p) d b w v p := by
  have hmem : (s.bankStore d b w v p).bankMem = Memory.writeLE 0 s.bankMem (bankKey d b * 131072 + 8 * w) 8 v.toNat := rfl
  have hmark : (s.bankStore d b w v p).bankMark = SMap.set WordMark.clean s.bankMark (bankKey d b * 16384 + w) ⟨p, 0⟩ := rfl
  refine ⟨?_, ?_, fun a ha => ?_⟩
  · unfold State.bankRaw
    rw [hmem, Memory.readLE_writeLE]
    exact BitVec.eq_of_toNat_eq (by simpa using v.isLt)
  · unfold State.bankMarkOf
    rw [hmark, SMap.get_set_same]
  · rw [hmem]
    exact Memory.read_writeLE_ne _ _ _ _ _ ha

theorem State.WordStored.of (h : u.WordStored t d b w v p) (hmem : ∀ a, Memory.read 0 u.bankMem a = Memory.read 0 s.bankMem a) :
    s.WordStored t d b w v p := ⟨h.raw, h.mark, fun a ha => (h.rest a ha).trans (hmem a)⟩

theorem State.WordStored.keep (h : s.WordStored t d b w v p) (hmem : u.bankMem = t.bankMem) (hmark : u.bankMark = t.bankMark) :
    s.WordStored u d b w v p :=
  ⟨(State.bankRaw_congr hmem d b w).trans h.raw, (State.bankMarkOf_congr hmark d b w).trans h.mark, fun a ha => by rw [hmem]; exact h.rest a ha⟩

/-- A poisoned word read is counted. -/
def State.readCounted (s : State) (d b w : Nat) : State :=
  if (s.bankMarkOf d b w).poison then s.count (Csr.bankMiscCnt d) BankMiscCnt.poisonRd 1 else s

theorem State.readCounted_clean (h : (s.bankMarkOf d b w).poison = false) : s.readCounted d b w = s := by
  unfold State.readCounted
  rw [h, if_neg Bool.false_ne_true]

theorem State.readCounted_writes (s : State) (d b w : Nat) :
    Reports s (s.readCounted d b w) ∧ OnlyRegs s (s.readCounted d b w) [Csr.bankMiscCnt d] ∧
      s.readCounted d b w = { s with csr := (s.readCounted d b w).csr } := by
  unfold State.readCounted
  split
  · exact ⟨(Reports.refl s).count .., (OnlyRegs.refl s _).count List.mem_cons_self _ _, rfl⟩
  · exact ⟨.refl s, .refl s _, rfl⟩

/-- A read of a word without flipped bits. -/
theorem State.bankLoad_whole (h : (s.bankMarkOf d b w).flips = 0) (master : Nat) :
    s.bankLoad d b w master = (s.bankRaw d b w, (s.bankMarkOf d b w).poison, s.readCounted d b w) := by
  have hcount : popCount 72 0 = 0 := by decide
  unfold State.bankLoad State.readCounted
  dsimp only
  cases hp : (s.bankMarkOf d b w).poison with
  | true => rw [if_pos rfl, if_pos rfl]
  | false => rw [if_neg Bool.false_ne_true, if_neg Bool.false_ne_true, h, hcount]; rfl

theorem State.bankAccess_read (hunav : s.bankUnav d b = false) (h : (s.bankMarkOf d b w).flips = 0) (master : Nat) :
    s.bankAccess d b w master .read = (s.bankRaw d b w, (s.bankMarkOf d b w).poison, St.ok, s.readCounted d b w) := by
  unfold State.bankAccess State.bankDo
  dsimp only
  rw [hunav, if_neg Bool.false_ne_true, State.bankLoad_whole h]

theorem State.bankAccess_write (hunav : s.bankUnav d b = false) (master : Nat) (v : BitVec 64) (p : Bool) :
    s.bankAccess d b w master (.write 0xFF v p) = (0, false, St.ok, s.bankStore d b w v p) := by
  unfold State.bankAccess State.bankDo
  dsimp only
  rw [hunav, if_neg Bool.false_ne_true, if_pos (by decide)]

/-- The word an atomic stores over an old one. -/
def bankStores (op : BankOp) (old : BitVec 64) : Option (BitVec 64) :=
  match op with
  | .fetchAdd y => some (old + y)
  | .swap y => some y
  | _ => none

theorem State.bankAccess_atomic {op : BankOp} {new : BitVec 64} (hunav : s.bankUnav d b = false) (h : (s.bankMarkOf d b w).flips = 0)
    (hop : bankStores op (s.bankRaw d b w) = some new) (master : Nat) :
    s.bankAccess d b w master op = (s.bankRaw d b w, (s.bankMarkOf d b w).poison, St.ok,
      if (s.bankMarkOf d b w).poison then s.readCounted d b w else s.bankStore d b w new false) := by
  have hclean (v : BitVec 64) : (if (s.bankMarkOf d b w).poison then s.readCounted d b w else (s.readCounted d b w).bankStore d b w v false) =
      if (s.bankMarkOf d b w).poison then s.readCounted d b w else s.bankStore d b w v false := by
    cases hp : (s.bankMarkOf d b w).poison with
    | true => rfl
    | false => rw [State.readCounted_clean hp]
  unfold State.bankAccess State.bankDo
  cases op with
  | read => cases hop
  | write be v p => cases hop
  | fetchAdd y =>
    cases hop
    dsimp only
    rw [hunav, if_neg Bool.false_ne_true, State.bankLoad_whole h, hclean]
  | swap y =>
    cases hop
    dsimp only
    rw [hunav, if_neg Bool.false_ne_true, State.bankLoad_whole h, hclean]

theorem State.bankAccess_unavailable (hunav : s.bankUnav d b = true) (master : Nat) (op : BankOp) :
    s.bankAccess d b w master op = (0, answersData op, St.notPresent, s.unavailable d b master) := by
  unfold State.bankAccess
  rw [hunav, if_pos rfl]

end

end Sys2Proof.Machine

end

section

/-! PROOFS. Engines' requests at a bank (03 R133; 07 R237, R239 to R245). -/

namespace Sys2Proof.Machine

section
variable {s t u a : State} {d : Die} {e : Eng} {b w port : Nat} {r : PortReq} {q : BankReq} {f : Option FabBankReq}

/-! ## A granted request -/

theorem State.serve_eq {d : Nat} {v : BitVec 64} {p : Bool} {st : Nat} (h : (s.takeReq d b port r).bankAccess d b r.word r.master r.op = (v, p, st, u)) :
    s.serve d b port r = u.deliver d b r v p st := by
  unfold State.serve
  dsimp only
  rw [h]

theorem State.grant_alone {d : Nat} (hclock : s.clockOn d = true) (hb : b < 44) (hfree : s.portFree d b 0 = true) (hreqs : s.portReqs d b 0 f = [r])
    (hmaster : r.master < 3) (helig : s.eligibleReq d b 0 r = true) : s.grant d b .single f = (s.usePort d b 0).serve d b 0 r := by
  rw [State.grant_single hclock hb, State.grantPort_alone hfree hreqs hmaster helig]

/-- From `s` to `t` a bank was accessed: its words, and what is counted and noticed. -/
def BankDid (s t : State) : Prop :=
  t = { s with csr := t.csr, bankMem := t.bankMem, bankMark := t.bankMark, queues := t.queues, windows := t.windows }

/-- An engine receives what a bank gave. -/
structure State.BankGave (s t : State) (d : Die) (e : Eng) (rd : Nat) (pair : Bool) (v : BitVec 64) (p : Bool) (st : Nat) : Prop where
  wrote : WroteRegs s t d e rd pair v
  record : t.eng d e = { (s.eng d e).went 0 ((s.eng d e).pc + 1) with ost := ost st p false 0 }
  others : ∀ (d' : Die) (e' : Eng), (d', e') ≠ (d, e) → t.eng d' e' = s.eng d' e'

theorem State.deliverEng_received {rd st : Nat} {pair atomic p : Bool} (hengs : u.engs = s.engs) (hreg : u.engReg = s.engReg)
    (hwait : (s.eng d e).wait = .bank rd pair atomic) (hrd : pair = true → pairOk rd = true)
    (hcalm : p = false ∨ u.fbit (Csr.engCtrl d e) EngCtrl.ptrap = false) (half : Option Bool) (v : BitVec 64) :
    s.BankGave (u.deliverEng d e half v p st) d e rd pair (halfOf half v) p st ∧ EngOnly u (u.deliverEng d e half v p st) := by
  have heq : u.deliverEng d e half v p st = (u.setRegs d e rd pair (halfOf half v)).engDoneS d e 0 (ost st p false 0) := by
    unfold State.deliverEng
    rw [State.eng_congr hengs, hwait]
  have hset : EngOnly u (u.setRegs d e rd pair (halfOf half v)) := (EngOnly.refl u).setRegs ..
  have hcalm' : Ost.poison.bit (ost st p false 0) = false ∨ (u.setRegs d e rd pair (halfOf half v)).fbit (Csr.engCtrl d e) EngCtrl.ptrap = false := by
    rw [ost_poison]
    refine hcalm.imp id fun h => ?_
    unfold State.fbit State.fget State.csrGet at h ⊢
    rw [hset.csr, h]
  have hruns := ((State.Runs.of_engs (d := d) (e := e) hengs).keep (State.setRegs_engs u d e rd pair (halfOf half v))).engDoneS 0 hcalm'
  rw [heq]
  refine ⟨⟨?_, hruns.eng, hruns.others⟩, hset.engDoneS d e 0 hcalm'⟩
  exact .of hrd hreg (by rw [State.eng_congr hengs]) ((OnlyRecords.refl _).engDoneS d e 0 hcalm').engReg

/-! ## An engine alone at a bank -/

/-- The engine's request. -/
def BankReq.asks (q : BankReq) (m : Nat) : PortReq := ⟨m, q.word, q.op, some q⟩

/-- One request waits at a single-port bank, an engine's. -/
structure State.EngineAlone (s : State) (d : Die) (e : Eng) (b : Nat) (q : BankReq) : Prop where
  clock : s.clockOn d = true
  due : s.NoBankAnswerDue
  single : b < 44
  free : s.portFree d b 0 = true
  dma : SMap.get [] s.bankQ (bankQKey d b 2) = []
  queue : SMap.get [] s.bankQ (bankQKey d b 1) = [q]
  who : q.who = .engine
  eng : q.eng = e
  elig : s.eligibleReq d b 0 (q.asks 1) = true

/-- The state in which the engine's access takes effect. -/
def State.engTaken (s : State) (d b : Nat) (q : BankReq) : State := (s.usePort d b 0).takeReq d b 0 (q.asks 1)

theorem State.engTaken_took {d : Nat} (hwho : q.who = .engine) (hq : SMap.get [] s.bankQ (bankQKey d b 1) = [q]) :
    BankTook s (s.engTaken d b q) ∧ SMap.get [] (s.engTaken d b q).bankQ (bankQKey d b 1) = [] := by
  have huse := s.usePort_took d b 0
  have hqu : (s.usePort d b 0).bankQ = s.bankQ := rfl
  obtain ⟨htook, hgone⟩ := (s.usePort d b 0).takeReq_engine_took (d := d) (b := b) (port := 0) (r := q.asks 1) rfl hwho rfl
  rw [hqu, hq] at hgone
  refine ⟨huse.trans htook, hgone.trans ?_⟩
  rw [List.erase_cons_head]

theorem State.EngineAlone.reqs (h : s.EngineAlone d e b q) : s.portReqs d b 0 none = [q.asks 1] := by
  have heng := e.isLt
  rw [State.portReqs_single h.single, State.engReq_one h.queue (by rw [h.eng]; exact heng), State.dmaReq_none h.dma]
  rfl

/-- What the grant of an access that answers with data leaves. -/
theorem State.EngineAlone.grant (h : s.EngineAlone d e b q) {v : BitVec 64} {p : Bool} {st : Nat} (hdata : answersData q.op = true)
    (hacc : (s.engTaken d b q).bankAccess d b q.word 1 q.op = (v, p, st, u)) (hdid : BankDid (s.engTaken d b q) u)
    {rd : Nat} {pair atomic : Bool} (hwait : (s.eng d e).wait = .bank rd pair atomic) (hrd : pair = true → pairOk rd = true)
    (hcalm : p = false ∨ u.fbit (Csr.engCtrl d e) EngCtrl.ptrap = false) :
    s.BankGave (doBankGrant d b .single none s) d e rd pair (halfOf q.half v) p st ∧ EngOnly u (doBankGrant d b .single none s) ∧
      SMap.get [] (doBankGrant d b .single none s).bankQ (bankQKey d b 1) = [] ∧
      doBankGrant d b .single none s = { s with
        csr := (doBankGrant d b .single none s).csr
        bankMem := (doBankGrant d b .single none s).bankMem
        bankMark := (doBankGrant d b .single none s).bankMark
        bankQ := (doBankGrant d b .single none s).bankQ
        bankLast := (doBankGrant d b .single none s).bankLast
        bankRr := (doBankGrant d b .single none s).bankRr
        bankRmw := (doBankGrant d b .single none s).bankRmw
        engs := (doBankGrant d b .single none s).engs
        engReg := (doBankGrant d b .single none s).engReg
        queues := (doBankGrant d b .single none s).queues
        windows := (doBankGrant d b .single none s).windows } := by
  obtain ⟨htook, hgone⟩ := State.engTaken_took h.who h.queue
  have hserve : (s.usePort d b 0).serve d b 0 (q.asks 1) = u.deliverEng d e q.half v p st := by
    rw [State.serve_eq (r := q.asks 1) hacc]
    obtain ⟨id, who, die, eng, word, half, op⟩ := q
    have hwho := h.who
    have heng := h.eng
    dsimp only at hwho heng hdata
    subst hwho heng
    unfold State.deliver BankReq.asks
    dsimp only
    rw [hdata, if_pos rfl]
  unfold BankTook at htook
  unfold BankDid at hdid
  have hengs : u.engs = s.engs := (congrArg State.engs hdid :).trans (congrArg State.engs htook :)
  have hreg : u.engReg = s.engReg := (congrArg State.engReg hdid :).trans (congrArg State.engReg htook :)
  obtain ⟨hreceived, honly⟩ := State.deliverEng_received hengs hreg hwait hrd hcalm q.half v (st := st)
  have hgrant : doBankGrant d b .single none s = u.deliverEng d e q.half v p st := by
    unfold doBankGrant
    rw [State.grant_alone h.clock h.single h.free h.reqs (show 1 < 3 by decide) h.elig, hserve]
    refine State.bankAnswers_none h.due ?_
    exact (congrArg State.cmds honly :).trans ((congrArg State.cmds hdid :).trans (congrArg State.cmds htook :))
  rw [hgrant]
  refine ⟨hreceived, honly, ?_, ?_⟩
  · have hq : (u.deliverEng d e q.half v p st).bankQ = (s.engTaken d b q).bankQ := (congrArg State.bankQ honly :).trans (congrArg State.bankQ hdid :)
    rw [hq, hgone]
  · unfold EngOnly at honly
    rw [honly, hdid, htook]

/-- The words, the registers and the availability at the access are those before the grant. -/
theorem BankTook.reads (h : BankTook s t) {d : Nat} : (∀ w, t.bankRaw d b w = s.bankRaw d b w) ∧ (∀ w, t.bankMarkOf d b w = s.bankMarkOf d b w) ∧
    t.bankUnav d b = s.bankUnav d b ∧ t.csr = s.csr ∧ t.bankMem = s.bankMem ∧ t.bankMark = s.bankMark :=
  ⟨fun w => State.bankRaw_congr (congrArg State.bankMem h :) d b w, fun w => State.bankMarkOf_congr (congrArg State.bankMark h :) d b w,
    State.bankUnav_congr (congrArg State.csr h :) d b, (congrArg State.csr h :), (congrArg State.bankMem h :), (congrArg State.bankMark h :)⟩

theorem engCtrl_ne_bankMiscCnt (d : Die) (e : Eng) : Csr.engCtrl d e ≠ Csr.bankMiscCnt d := by
  have he := e.isLt
  simp only [Csr.engCtrl, Csr.bankMiscCnt, csrAddr]
  omega

theorem halfOf_eq (half : Option Bool) (v : BitVec 64) : halfOf half v = match half with
    | none => v
    | some false => (v.setWidth 32).setWidth 64
    | some true => (v >>> 32).setWidth 64 := by
  have hmask (x : BitVec 64) : (x &&& 0xFFFFFFFF).toNat = x.toNat % 2 ^ 32 := by
    rw [BitVec.toNat_and]
    exact Nat.and_two_pow_sub_one_eq_mod x.toNat 32
  match half with
  | none => rfl
  | some false =>
    refine BitVec.eq_of_toNat_eq ((hmask v).trans ?_)
    rw [BitVec.toNat_setWidth, BitVec.toNat_setWidth]
    omega
  | some true =>
    refine BitVec.eq_of_toNat_eq ((hmask (v >>> 32)).trans ?_)
    rw [BitVec.toNat_setWidth, BitVec.toNat_ushiftRight, Nat.shiftRight_eq_div_pow]
    have := v.isLt
    omega

theorem State.readCounted_did (s : State) (d b w : Nat) : BankDid s (s.readCounted d b w) := by
  unfold BankDid
  rw [(s.readCounted_writes d b w).2.2]

theorem State.bankStore_did (s : State) (d b w : Nat) (v : BitVec 64) (p : Bool) : BankDid s (s.bankStore d b w v p) := by
  unfold BankDid
  rw [s.bankStore_frame d b w v p]

/-- What an unavailable bank counts. -/
theorem State.unavailable_writes (s : State) (d : Die) (b master : Nat) :
    BankDid s (s.unavailable d b master) ∧ OnlyRegs s (s.unavailable d b master) [Csr.bankMiscCnt d, Csr.ndQdropCnt (queueOf d)] ∧
      (s.unavailable d b master).bankMem = s.bankMem ∧ (s.unavailable d b master).bankMark = s.bankMark ∧
      (s.unavailable d b master).fget (Csr.bankMiscCnt d) BankMiscCnt.unav =
        min (s.fget (Csr.bankMiscCnt d) BankMiscCnt.unav + 1) (2 ^ BankMiscCnt.unav.width - 1) := by
  have hreports := ((Reports.refl s).count (Csr.bankMiscCnt d) BankMiscCnt.unav 1).noticeLim d 0x0403 0 [(1, d), (1, b), (1, master)]
  have hcounted := (OnlyRegs.refl s [Csr.bankMiscCnt d, Csr.ndQdropCnt (queueOf d)]).count (a := Csr.bankMiscCnt d) (by simp) BankMiscCnt.unav 1
  have hnotice := hcounted.noticeLim (d := d) (by simp) 0x0403 0 [(1, d), (1, b), (1, master)]
  have hne : Csr.bankMiscCnt d ≠ Csr.ndQdropCnt (queueOf d) := by
    have := d.isLt
    simp only [Csr.bankMiscCnt, Csr.ndQdropCnt, csrAddr, stw]
    omega
  unfold State.unavailable
  generalize hu : s.count (Csr.bankMiscCnt d) BankMiscCnt.unav 1 = u at hreports hcounted hnotice ⊢
  have hlast := u.noticeLim_onlyRegs d 0x0403 0 [(1, d), (1, b), (1, master)]
  generalize u.noticeLim d 0x0403 0 [(1, d), (1, b), (1, master)] = t at hreports hnotice hlast ⊢
  unfold Reports at hreports
  refine ⟨?_, hnotice, (congrArg State.bankMem hreports :), (congrArg State.bankMark hreports :), ?_⟩
  · unfold BankDid
    rw [hreports]
  · rw [State.fget_congr (hlast _ (by simpa using hne)), ← hu]
    exact s.fget_count_same _ _ _ (by decide)

/-- Trap POISON is as before the grant. -/
theorem OnlyRegs.ptrap {as : List Nat} (h : OnlyRegs s t as) (has : as ⊆ [Csr.bankMiscCnt d, Csr.ndQdropCnt (queueOf d)])
    (hptrap : s.fbit (Csr.engCtrl d e) EngCtrl.ptrap = false) : t.fbit (Csr.engCtrl d e) EngCtrl.ptrap = false := by
  have hne : Csr.engCtrl d e ∉ as := fun hm => by
    have hd := d.isLt
    have he := e.isLt
    have hm := has hm
    simp only [List.mem_cons, List.not_mem_nil, or_false, Csr.engCtrl, Csr.bankMiscCnt, Csr.ndQdropCnt, csrAddr, stw] at hm
    omega
  unfold State.fbit at hptrap ⊢
  rw [State.fget_congr (h _ hne), hptrap]

/-! ## The accesses of an engine -/

section
variable {rd : Nat} {pair atomic : Bool}

/-- What the grant leaves but for the bank's words. -/
structure State.EngGranted (s t : State) (d : Die) (e : Eng) (b rd : Nat) (pair : Bool) (v : BitVec 64) (p : Bool) (st : Nat) : Prop where
  gave : s.BankGave t d e rd pair v p st
  queue : SMap.get [] t.bankQ (bankQKey d b 1) = []
  frame : t = { s with
    csr := t.csr
    bankMem := t.bankMem
    bankMark := t.bankMark
    bankQ := t.bankQ
    bankLast := t.bankLast
    bankRr := t.bankRr
    bankRmw := t.bankRmw
    engs := t.engs
    engReg := t.engReg
    queues := t.queues
    windows := t.windows }

theorem State.EngineAlone.read (h : s.EngineAlone d e b q) (hop : q.op = .read) (hunav : s.bankUnav d b = false)
    (hflips : (s.bankMarkOf d b q.word).flips = 0) (hwait : (s.eng d e).wait = .bank rd pair atomic) (hrd : pair = true → pairOk rd = true)
    (hptrap : s.fbit (Csr.engCtrl d e) EngCtrl.ptrap = false) :
    let t := doBankGrant d b .single none s
    s.EngGranted t d e b rd pair (halfOf q.half (s.bankRaw d b q.word)) (s.bankMarkOf d b q.word).poison 0 ∧ t.bankMem = s.bankMem ∧ t.bankMark = s.bankMark := by
  obtain ⟨hraw, hmark, hun, hcsr, hmem, hmarks⟩ := (State.engTaken_took h.who h.queue).1.reads (b := b) (d := d)
  have hacc := State.bankAccess_read (s := s.engTaken d b q) (w := q.word) (hun.trans hunav) (by rw [hmark]; exact hflips) 1
  obtain ⟨-, hregs, hframe⟩ := (s.engTaken d b q).readCounted_writes d b q.word
  have hsame : OnlyRegs s (s.engTaken d b q) [] := .of_csr hcsr _
  have hptrap' := ((hsame.mono (List.nil_subset _)).trans hregs).ptrap (by simp) hptrap
  rw [hraw, hmark] at hacc
  obtain ⟨hgave, honly, hqueue, hall⟩ := h.grant (by rw [hop]; rfl) (hop ▸ hacc) (State.readCounted_did _ d b q.word) hwait hrd (.inr hptrap')
  exact ⟨⟨hgave, hqueue, hall⟩, (congrArg State.bankMem honly :).trans ((congrArg State.bankMem hframe :).trans hmem),
    (congrArg State.bankMark honly :).trans ((congrArg State.bankMark hframe :).trans hmarks)⟩

theorem State.EngineAlone.stores {new : BitVec 64} (h : s.EngineAlone d e b q) (hop : bankStores q.op (s.bankRaw d b q.word) = some new)
    (hhalf : q.half = none) (hunav : s.bankUnav d b = false) (hflips : (s.bankMarkOf d b q.word).flips = 0)
    (hpoison : (s.bankMarkOf d b q.word).poison = false) (hwait : (s.eng d e).wait = .bank rd pair atomic) (hrd : pair = true → pairOk rd = true) :
    let t := doBankGrant d b .single none s
    s.EngGranted t d e b rd pair (s.bankRaw d b q.word) false 0 ∧ s.WordStored t d b q.word new false ∧ t.csr = s.csr := by
  obtain ⟨hraw, hmark, hun, hcsr, hmem, hmarks⟩ := (State.engTaken_took h.who h.queue).1.reads (b := b) (d := d)
  have hacc := State.bankAccess_atomic (s := s.engTaken d b q) (w := q.word) (new := new) (hun.trans hunav) (by rw [hmark]; exact hflips) (by rw [hraw]; exact hop) 1
  rw [hraw, hmark, hpoison, if_neg Bool.false_ne_true] at hacc
  have hdata : answersData q.op = true := by
    cases hq : q.op with
    | write be v p => rw [hq] at hop; cases hop
    | _ => rfl
  obtain ⟨hgave, honly, hqueue, hall⟩ := h.grant hdata hacc (State.bankStore_did _ d b q.word new false) hwait hrd (.inl rfl)
  rw [hhalf] at hgave
  have hstored := (s.engTaken d b q).bankStore_stored d b q.word new false
  have hframe := (s.engTaken d b q).bankStore_frame d b q.word new false
  exact ⟨⟨hgave, hqueue, hall⟩, (hstored.of fun a => by rw [hmem]).keep (congrArg State.bankMem honly :) (congrArg State.bankMark honly :),
    (congrArg State.csr honly :).trans ((congrArg State.csr hframe :).trans hcsr)⟩

theorem State.EngineAlone.stores_poisoned {new : BitVec 64} (h : s.EngineAlone d e b q) (hop : bankStores q.op (s.bankRaw d b q.word) = some new)
    (hhalf : q.half = none) (hunav : s.bankUnav d b = false) (hflips : (s.bankMarkOf d b q.word).flips = 0)
    (hpoison : (s.bankMarkOf d b q.word).poison = true) (hwait : (s.eng d e).wait = .bank rd pair atomic) (hrd : pair = true → pairOk rd = true)
    (hptrap : s.fbit (Csr.engCtrl d e) EngCtrl.ptrap = false) :
    let t := doBankGrant d b .single none s
    s.EngGranted t d e b rd pair (s.bankRaw d b q.word) true 0 ∧ t.bankMem = s.bankMem ∧ t.bankMark = s.bankMark := by
  obtain ⟨hraw, hmark, hun, hcsr, hmem, hmarks⟩ := (State.engTaken_took h.who h.queue).1.reads (b := b) (d := d)
  have hacc := State.bankAccess_atomic (s := s.engTaken d b q) (w := q.word) (new := new) (hun.trans hunav) (by rw [hmark]; exact hflips) (by rw [hraw]; exact hop) 1
  rw [hraw, hmark, hpoison, if_pos rfl] at hacc
  have hdata : answersData q.op = true := by
    cases hq : q.op with
    | write be v p => rw [hq] at hop; cases hop
    | _ => rfl
  obtain ⟨-, hregs, hframe⟩ := (s.engTaken d b q).readCounted_writes d b q.word
  have hsame : OnlyRegs s (s.engTaken d b q) [] := .of_csr hcsr _
  have hptrap' := ((hsame.mono (List.nil_subset _)).trans hregs).ptrap (by simp) hptrap
  obtain ⟨hgave, honly, hqueue, hall⟩ := h.grant hdata hacc (State.readCounted_did _ d b q.word) hwait hrd (.inr hptrap')
  rw [hhalf] at hgave
  exact ⟨⟨hgave, hqueue, hall⟩, (congrArg State.bankMem honly :).trans ((congrArg State.bankMem hframe :).trans hmem),
    (congrArg State.bankMark honly :).trans ((congrArg State.bankMark hframe :).trans hmarks)⟩

theorem State.EngineAlone.unavailable (h : s.EngineAlone d e b q) (hop : q.op = .read) (hunav : s.bankUnav d b = true)
    (hwait : (s.eng d e).wait = .bank rd pair atomic) (hrd : pair = true → pairOk rd = true)
    (hptrap : s.fbit (Csr.engCtrl d e) EngCtrl.ptrap = false) :
    let t := doBankGrant d b .single none s
    s.EngGranted t d e b rd pair 0 true St.notPresent ∧ t.bankMem = s.bankMem ∧ t.bankMark = s.bankMark ∧
      t.fget (Csr.bankMiscCnt d) BankMiscCnt.unav = min (s.fget (Csr.bankMiscCnt d) BankMiscCnt.unav + 1) (2 ^ BankMiscCnt.unav.width - 1) := by
  obtain ⟨-, -, hun, hcsr, hmem, hmarks⟩ := (State.engTaken_took h.who h.queue).1.reads (b := b) (d := d)
  have hacc := State.bankAccess_unavailable (s := s.engTaken d b q) (w := q.word) (hun.trans hunav) 1 q.op
  obtain ⟨hdid, hregs, hmem', hmark', hcount⟩ := (s.engTaken d b q).unavailable_writes d b 1
  have hsame : OnlyRegs s (s.engTaken d b q) [] := .of_csr hcsr _
  have hptrap' := ((hsame.mono (List.nil_subset _)).trans hregs).ptrap (by simp) hptrap
  have hdata : answersData q.op = true := by rw [hop]; rfl
  rw [hdata] at hacc
  obtain ⟨hgave, honly, hqueue, hall⟩ := h.grant hdata hacc hdid hwait hrd (.inr hptrap')
  have hzero : halfOf q.half 0 = 0 := by
    rw [halfOf_eq]
    match q.half with
    | none => rfl
    | some false => rfl
    | some true => rfl
  rw [hzero] at hgave
  have hread : OnlyRegs ((s.engTaken d b q).unavailable d b 1) (doBankGrant d b .single none s) [] := .of_csr (congrArg State.csr honly :) _
  refine ⟨⟨hgave, hqueue, hall⟩, (congrArg State.bankMem honly :).trans (hmem'.trans hmem), (congrArg State.bankMark honly :).trans (hmark'.trans hmarks), ?_⟩
  rw [State.fget_congr (hread _ List.not_mem_nil), hcount, State.fget_congr (hsame _ List.not_mem_nil)]

end

end

end Sys2Proof.Machine

end

section

/-! PROOFS. Two ports of a twin bank, and two masters at one port, in one cycle (07 R238, R244, Table 07-2). -/

namespace Sys2Proof.Machine

section
variable {s t u v : State} {d : Die} {e : Eng} {b w : Nat} {x : BitVec 64} {q : BankReq} {ra rb : PortReq} {fb : FabBankReq}

/-! ## A whole write at a port -/

/-- The request of the fabric's whole write. -/
def fabWrite (w : Nat) (x : BitVec 64) : PortReq := ⟨0, w, .write 0xFF x false, none⟩

theorem fabWrite_whole : rmwOp (fabWrite w x).op = false ∧ ((fabWrite w x).op == BankOp.read) = false := ⟨rfl, rfl⟩

/-- A fabric port that writes the word `x` at `w`, at an available bank. -/
structure State.FabricWrites (s : State) (d : Die) (b : Nat) (fb : FabBankReq) (w : Nat) (x : BitVec 64) : Prop where
  avail : s.bankUnav d b = false
  due : s.NoBankAnswerDue
  reach : fb.reach.val = b / 3
  opens : s.portOpen d fb.reach = true
  writes : s.writesEnabled d fb.reach = true
  word : fb.word.val = w
  op : fb.op = .write 0xFF x false

theorem State.FabricWrites.req (h : s.FabricWrites d b fb w x) : s.fabReq d b (some fb) = some (fabWrite w x) := by
  rw [State.fabReq_write h.reach h.opens h.writes h.op, h.word]
  rfl

theorem State.FabricWrites.clock (h : s.FabricWrites d b fb w x) : s.clockOn d = true := by
  have hopen := h.opens
  unfold State.portOpen State.sluiceOpen at hopen
  simp only [Bool.and_eq_true] at hopen
  exact hopen.2.1

theorem State.serve_fabric (hunav : s.bankUnav d b = false) (port w : Nat) (x : BitVec 64) :
    s.serve d b port (fabWrite w x) = (s.turned d b port (fabWrite w x)).bankStore d b w x false := by
  have htook := (s.turned_writes d b port (fabWrite w x)).1
  rw [State.serve_eq (r := fabWrite w x) (u := (s.turned d b port (fabWrite w x)).bankStore d b w x false) (v := 0) (p := false) (st := St.ok)]
  · rfl
  · rw [s.takeReq_fabric rfl]
    exact State.bankAccess_write ((htook.reads).2.2.1.trans hunav) 0 x false

theorem State.serve_engWrite {y : BitVec 64} (hunav : s.bankUnav d b = false) (hwho : q.who = .engine) (hop : q.op = .write 0xFF y false) (port : Nat) :
    s.serve d b port (q.asks 1) = (s.takeReq d b port (q.asks 1)).bankStore d b q.word y false := by
  have htook := (s.takeReq_engine_took (d := d) (b := b) (port := port) (r := q.asks 1) rfl hwho rfl).1
  rw [State.serve_eq (r := q.asks 1) (u := (s.takeReq d b port (q.asks 1)).bankStore d b q.word y false) (v := 0) (p := false) (st := St.ok)]
  · obtain ⟨id, who, die, eng, word, half, op⟩ := q
    cases hwho
    cases hop
    rfl
  · have hacc := State.bankAccess_write (w := q.word) ((htook.reads (b := b) (d := d)).2.2.1.trans hunav) 1 y false
    rw [← hop] at hacc
    exact hacc

/-- An engine's read of a clean word. -/
theorem State.serve_engRead (hunav : s.bankUnav d b = false) (hwho : q.who = .engine) (hop : q.op = .read) (heng : q.eng = e)
    (hclean : s.bankMarkOf d b q.word = WordMark.clean) (port : Nat) :
    s.serve d b port (q.asks 1) = (s.takeReq d b port (q.asks 1)).deliverEng d e q.half (s.bankRaw d b q.word) false St.ok := by
  have htook := (s.takeReq_engine_took (d := d) (b := b) (port := port) (r := q.asks 1) rfl hwho rfl).1
  obtain ⟨hraw, hmark, hun, -⟩ := htook.reads (b := b) (d := d)
  have hacc := State.bankAccess_read (w := q.word) (hun.trans hunav) (by rw [hmark, hclean]; rfl) 1
  have hpoison : ((s.takeReq d b port (q.asks 1)).bankMarkOf d b q.word).poison = false := by rw [hmark, hclean]; rfl
  rw [State.readCounted_clean hpoison, hpoison, hraw, ← hop] at hacc
  rw [State.serve_eq (r := q.asks 1) hacc]
  obtain ⟨id, who, die, eng, word, half, op⟩ := q
  cases hwho
  cases hop
  cases heng
  rfl

/-! ## Both ports of a twin bank -/

theorem State.grant_both {f : Option FabBankReq} (hclock : s.clockOn d = true) (hb : 44 ≤ b) (hfree0 : s.portFree d b 0 = true)
    (hfree1 : s.portFree d b 1 = true) (hreq0 : s.portReqs d b 0 f = [ra]) (hreq1 : s.portReqs d b 1 f = [rb]) (hm0 : ra.master < 3) (hm1 : rb.master < 3)
    (he0 : s.eligibleReq d b 0 ra = true) (he1 : s.eligibleReq d b 1 rb = true) :
    s.grant d b .ab f = ((s.usePort d b 0).usePort d b 1).serveTwin d b ra rb := by
  have hboth : s.grantBoth d b f = ((s.usePort d b 0).usePort d b 1).serveTwin d b ra rb := by
    unfold State.grantBoth
    dsimp only
    rw [hfree0, hfree1, if_neg (by decide), hreq0, hreq1, State.pickReq_alone hm0 he0, State.pickReq_alone hm1 he1, State.conflicts_alone,
      State.conflicts_alone]
  unfold State.grant
  dsimp only
  rw [hclock, if_neg (by decide), hfree0, hfree1, if_pos (by simpa using hb), hboth]

theorem State.portReqs_twin {f : Option FabBankReq} (hb : 44 ≤ b) : s.portReqs d b 0 f = (s.fabReq d b f).toList ∧
    s.portReqs d b 1 f = (s.engReq d b).toList ++ (s.dmaReq d b).toList := by
  have hnot : ¬ b < 44 := by omega
  exact ⟨(if_neg hnot).trans (if_pos rfl), (if_neg hnot).trans (if_neg (by decide))⟩

/-- The fabric writes a word of a twin bank at port A, and an engine asks for the same word at port B, in one cycle. -/
structure State.TwinPair (s : State) (d : Die) (e : Eng) (b : Nat) (fb : FabBankReq) (w : Nat) (x : BitVec 64) (q : BankReq) : Prop where
  fabric : s.FabricWrites d b fb w x
  twin : 44 ≤ b
  free0 : s.portFree d b 0 = true
  free1 : s.portFree d b 1 = true
  elig0 : s.eligibleReq d b 0 (fabWrite w x) = true
  elig1 : s.eligibleReq d b 1 (q.asks 1) = true
  dma : SMap.get [] s.bankQ (bankQKey d b 2) = []
  queue : SMap.get [] s.bankQ (bankQKey d b 1) = [q]
  who : q.who = .engine
  eng : q.eng = e
  word : q.word = w

/-- Both ports are used. -/
def State.useBoth (s : State) (d b : Nat) : State := (s.usePort d b 0).usePort d b 1

theorem State.useBoth_took (s : State) (d b : Nat) : BankTook s (s.useBoth d b) := (s.usePort_took d b 0).trans (State.usePort_took _ d b 1)

theorem State.TwinPair.grant (h : s.TwinPair d e b fb w x q) : s.grant d b .ab (some fb) = (s.useBoth d b).serveTwin d b (fabWrite w x) (q.asks 1) := by
  have heng := e.isLt
  refine State.grant_both h.fabric.clock h.twin h.free0 h.free1 ?_ ?_ (show 0 < 3 by decide) (show 1 < 3 by decide) h.elig0 h.elig1
  · rw [(State.portReqs_twin h.twin).1, h.fabric.req]
    rfl
  · rw [(State.portReqs_twin h.twin).2, State.engReq_one h.queue (by rw [h.eng]; exact heng), State.dmaReq_none h.dma]
    rfl

theorem State.TwinPair.writes {y : BitVec 64} (h : s.TwinPair d e b fb w x q) (hop : q.op = .write 0xFF y false) :
    let t := doBankGrant d b .ab (some fb) s
    t.bankRaw d b w = x ∧ t.bankMarkOf d b w = WordMark.clean ∧ SMap.get [] t.bankQ (bankQKey d b 1) = [] ∧
      t.fget (Csr.bankTwinCnt d) BankTwinCnt.ww = min (s.fget (Csr.bankTwinCnt d) BankTwinCnt.ww + 1) (2 ^ BankTwinCnt.ww.width - 1) ∧
      OnlyRegs s t [Csr.bankTwinCnt d] ∧ t.engReg = s.engReg := by
  have huse := s.useBoth_took d b
  have hq : (s.useBoth d b).bankQ = s.bankQ := rfl
  obtain ⟨v, hv⟩ : ∃ v : State, v = s.useBoth d b := ⟨_, rfl⟩
  rw [← hv] at huse hq
  have hunav : v.bankUnav d b = false := (huse.reads (b := b) (d := d)).2.2.1.trans h.fabric.avail
  obtain ⟨htook, hgone⟩ := v.takeReq_engine_took (d := d) (b := b) (port := 1) (r := q.asks 1) rfl h.who rfl
  obtain ⟨a, ha⟩ : ∃ a : State, a = v.takeReq d b 1 (q.asks 1) := ⟨_, rfl⟩
  rw [← ha] at htook hgone
  obtain ⟨c, hc⟩ : ∃ c : State, c = a.bankStore d b q.word y false := ⟨_, rfl⟩
  have hstore := a.bankStore_frame d b q.word y false
  rw [← hc] at hstore
  have hunavc : c.bankUnav d b = false := by
    rw [State.bankUnav_congr (s := a) (congrArg State.csr hstore :), (htook.reads (b := b) (d := d)).2.2.1, hunav]
  obtain ⟨hturned, -, hqt⟩ := c.turned_writes d b 0 (fabWrite w x)
  obtain ⟨g, hg⟩ : ∃ g : State, g = c.turned d b 0 (fabWrite w x) := ⟨_, rfl⟩
  rw [← hg] at hturned hqt
  have hstored := g.bankStore_stored d b w x false
  have hframe := g.bankStore_frame d b w x false
  obtain ⟨k, hk⟩ : ∃ k : State, k = g.bankStore d b w x false := ⟨_, rfl⟩
  rw [← hk] at hstored hframe
  have hcounted := (Reports.refl k).count (Csr.bankTwinCnt d) BankTwinCnt.ww 1
  have hww := k.fget_count_same (Csr.bankTwinCnt d) BankTwinCnt.ww 1 (by decide)
  have honly := (OnlyRegs.refl k [Csr.bankTwinCnt d]).count List.mem_cons_self BankTwinCnt.ww 1
  obtain ⟨t, ht⟩ : ∃ t : State, t = k.count (Csr.bankTwinCnt d) BankTwinCnt.ww 1 := ⟨_, rfl⟩
  rw [← ht] at hcounted hww honly
  unfold Reports at hcounted
  have htwin : v.serveTwin d b (fabWrite w x) (q.asks 1) = t := by
    have hrmw : rmwOp (q.asks 1).op = false := (congrArg rmwOp hop).trans rfl
    have hnot : ((q.asks 1).op == BankOp.read) = false := by
      change (q.op == BankOp.read) = false
      rw [hop]
      rfl
    unfold State.serveTwin
    rw [hunav, if_neg (by simp [BankReq.asks, fabWrite, h.word]), hrmw, fabWrite_whole.1, if_neg (by decide), fabWrite_whole.2, if_neg (by decide), hnot, if_neg Bool.false_ne_true,
      State.serve_engWrite hunav h.who hop, ← ha, ← hc, State.serve_fabric hunavc, ← hg, ← hk, ← ht]
  have hgrant : doBankGrant d b .ab (some fb) s = t := by
    unfold doBankGrant
    rw [h.grant, ← hv, htwin]
    refine State.bankAnswers_none h.fabric.due ?_
    refine (congrArg State.cmds hcounted :).trans ?_
    exact (congrArg State.cmds hframe :).trans ((congrArg State.cmds hturned :).trans ((congrArg State.cmds hstore :).trans
      ((congrArg State.cmds htook :).trans (congrArg State.cmds huse :))))
  have hcsr : k.csr = s.csr := (congrArg State.csr hframe :).trans ((congrArg State.csr hturned :).trans ((congrArg State.csr hstore :).trans
      ((congrArg State.csr htook :).trans (congrArg State.csr huse :))))
  have hsame : OnlyRegs s k [] := .of_csr hcsr _
  rw [hgrant]
  refine ⟨(State.bankRaw_congr (congrArg State.bankMem hcounted :) d b w).trans hstored.raw,
    (State.bankMarkOf_congr (congrArg State.bankMark hcounted :) d b w).trans hstored.mark, ?_, ?_, ?_, ?_⟩
  · have hqueue : t.bankQ = a.bankQ := (congrArg State.bankQ hcounted :).trans ((congrArg State.bankQ hframe :).trans (hqt.trans (congrArg State.bankQ hstore :)))
    rw [hqueue, hgone, hq, h.queue, List.erase_cons_head]
  · rw [hww, State.fget_congr (hsame _ List.not_mem_nil)]
  · exact (hsame.mono (List.nil_subset _)).trans honly
  · exact (congrArg State.engReg hcounted :).trans ((congrArg State.engReg hframe :).trans ((congrArg State.engReg hturned :).trans
      ((congrArg State.engReg hstore :).trans ((congrArg State.engReg htook :).trans (congrArg State.engReg huse :)))))

theorem State.TwinPair.reads {rd : Nat} (h : s.TwinPair d e b fb w x q) (hop : q.op = .read) (hhalf : q.half = none)
    (hwait : (s.eng d e).wait = .bank rd true false) (hrd : pairOk rd = true) (hclean : s.bankMarkOf d b w = WordMark.clean) :
    let t := doBankGrant d b .ab (some fb) s
    t.bankRaw d b w = x ∧ WrotePair s t d e rd (s.bankRaw d b w) ∧ ∀ a, t.csrGet a = s.csrGet a := by
  have huse := s.useBoth_took d b
  obtain ⟨v, hv⟩ : ∃ v : State, v = s.useBoth d b := ⟨_, rfl⟩
  rw [← hv] at huse
  obtain ⟨hraw, hmark, hun, -⟩ := huse.reads (b := b) (d := d)
  have hunav : v.bankUnav d b = false := hun.trans h.fabric.avail
  have htook := (v.takeReq_engine_took (d := d) (b := b) (port := 1) (r := q.asks 1) rfl h.who rfl).1
  obtain ⟨a, ha⟩ : ∃ a : State, a = v.takeReq d b 1 (q.asks 1) := ⟨_, rfl⟩
  rw [← ha] at htook
  have hengs : a.engs = s.engs := (congrArg State.engs htook :).trans (congrArg State.engs huse :)
  have hengReg : a.engReg = s.engReg := (congrArg State.engReg htook :).trans (congrArg State.engReg huse :)
  obtain ⟨hgave, honly⟩ := State.deliverEng_received (p := false) (st := St.ok) hengs hengReg hwait (fun _ => hrd) (.inl rfl) q.half (s.bankRaw d b w)
  obtain ⟨c, hc⟩ : ∃ c : State, c = a.deliverEng d e q.half (s.bankRaw d b w) false St.ok := ⟨_, rfl⟩
  rw [← hc] at hgave honly
  have hunavc : c.bankUnav d b = false := by
    rw [State.bankUnav_congr (s := a) (congrArg State.csr honly :), (htook.reads (b := b) (d := d)).2.2.1, hunav]
  have hturned := (c.turned_writes d b 0 (fabWrite w x)).1
  obtain ⟨g, hg⟩ : ∃ g : State, g = c.turned d b 0 (fabWrite w x) := ⟨_, rfl⟩
  rw [← hg] at hturned
  have hstored := g.bankStore_stored d b w x false
  have hframe := g.bankStore_frame d b w x false
  obtain ⟨k, hk⟩ : ∃ k : State, k = g.bankStore d b w x false := ⟨_, rfl⟩
  rw [← hk] at hstored hframe
  have hcleanv : v.bankMarkOf d b q.word = WordMark.clean := by rw [h.word, hmark, hclean]
  have hrawv : v.bankRaw d b q.word = s.bankRaw d b w := by rw [h.word, hraw]
  have htwin : v.serveTwin d b (fabWrite w x) (q.asks 1) = k := by
    have hrmw : rmwOp (q.asks 1).op = false := (congrArg rmwOp hop).trans rfl
    have hread : ((q.asks 1).op == BankOp.read) = true := beq_iff_eq.2 hop
    unfold State.serveTwin
    rw [hunav, if_neg (by simp [BankReq.asks, fabWrite, h.word]), hrmw, fabWrite_whole.1, if_neg (by decide), fabWrite_whole.2, if_neg (by decide), hread, if_pos rfl,
      State.serve_engRead hunav h.who hop h.eng hcleanv, hrawv, ← ha, ← hc, State.serve_fabric hunavc, ← hg, ← hk]
  have hgrant : doBankGrant d b .ab (some fb) s = k := by
    unfold doBankGrant
    rw [h.grant, ← hv, htwin]
    refine State.bankAnswers_none h.fabric.due ?_
    exact (congrArg State.cmds hframe :).trans ((congrArg State.cmds hturned :).trans ((congrArg State.cmds honly :).trans
      ((congrArg State.cmds htook :).trans (congrArg State.cmds huse :))))
  have hcsr : k.csr = s.csr := (congrArg State.csr hframe :).trans ((congrArg State.csr hturned :).trans ((congrArg State.csr honly :).trans
      ((congrArg State.csr htook :).trans (congrArg State.csr huse :))))
  have hkreg : k.engReg = c.engReg := (congrArg State.engReg hframe :).trans (congrArg State.engReg hturned :)
  have hwrote := hgave.wrote
  rw [hhalf] at hwrote
  rw [hgrant]
  refine ⟨hstored.raw, hwrote.keep hkreg, fun a => OnlyRegs.of_csr hcsr [] a List.not_mem_nil⟩

/-! ## Two masters at one port -/

/-- The fabric writes and an engine asks at a single port in one cycle, the fabric's turn being next. -/
structure State.PortPair (s : State) (d : Die) (e : Eng) (b : Nat) (fb : FabBankReq) (w : Nat) (x : BitVec 64) (q : BankReq) : Prop where
  fabric : s.FabricWrites d b fb w x
  single : b < 44
  free : s.portFree d b 0 = true
  elig0 : s.eligibleReq d b 0 (fabWrite w x) = true
  elig1 : s.eligibleReq d b 0 (q.asks 1) = true
  turn : SMap.get 0 s.bankRr (bankKey d b * 4) = 0
  dma : SMap.get [] s.bankQ (bankQKey d b 2) = []
  queue : SMap.get [] s.bankQ (bankQKey d b 1) = [q]
  eng : q.eng = e

theorem State.PortPair.pick (h : s.PortPair d e b fb w x q) : s.pickReq d b 0 [fabWrite w x, q.asks 1] = some (fabWrite w x) := by
  have hok : [fabWrite w x, q.asks 1].filter (s.eligibleReq d b 0) = [fabWrite w x, q.asks 1] := by
    rw [List.filter_cons_of_pos h.elig0, List.filter_cons_of_pos h.elig1, List.filter_nil]
  have hturn : SMap.get 0 s.bankRr (bankKey d b * 4 + 0) = 0 := h.turn
  unfold State.pickReq
  dsimp only
  rw [hok, hturn]
  rfl

/-- The request that is not granted counts a conflict. -/
theorem State.conflict_engine (hunav : s.bankUnav d b = false) (helig : s.eligibleReq d b 0 (q.asks 1) = true) :
    s.conflict d b 0 (q.asks 1) = s.count (Csr.bankConf0 d b) BankConf0.eng 1 := by
  have htest : s.testHolds d b (q.asks 1) = false := by
    unfold State.eligibleReq at helig
    rw [hunav] at helig
    simp only [Bool.and_eq_true, Bool.false_or, Bool.not_eq_true'] at helig
    exact helig.2.2
  unfold State.conflict
  dsimp only
  rw [htest, Bool.and_false, if_neg Bool.false_ne_true]
  rfl

theorem State.PortPair.grant (h : s.PortPair d e b fb w x q) : s.grant d b .single (some fb) =
    ((s.usePort d b 0).count (Csr.bankConf0 d b) BankConf0.eng 1).serve d b 0 (fabWrite w x) := by
  have heng := e.isLt
  have hreqs : s.portReqs d b 0 (some fb) = [fabWrite w x, q.asks 1] := by
    rw [State.portReqs_single h.single, h.fabric.req, State.engReq_one h.queue (by rw [h.eng]; exact heng), State.dmaReq_none h.dma]
    rfl
  have hne : (some (fabWrite w x) == some (q.asks 1)) = false := by
    rw [beq_eq_false_iff_ne]
    intro heq
    injection heq with heq
    have := congrArg PortReq.master heq
    cases this
  rw [State.grant_single h.fabric.clock h.single]
  unfold State.grantPort
  dsimp only
  rw [h.free, if_neg (by decide), hreqs, h.pick]
  dsimp only
  unfold State.conflicts
  rw [List.foldl_cons, List.foldl_cons, List.foldl_nil, if_pos (beq_self_eq_true _), hne, if_neg Bool.false_ne_true]
  have hunav : (s.usePort d b 0).bankUnav d b = false := h.fabric.avail
  have helig : (s.usePort d b 0).eligibleReq d b 0 (q.asks 1) = true := h.elig1
  rw [State.conflict_engine hunav helig]

theorem State.PortPair.served (h : s.PortPair d e b fb w x q) :
    let t := doBankGrant d b .single (some fb) s
    t.bankRaw d b w = x ∧ SMap.get [] t.bankQ (bankQKey d b 1) = [q] ∧ SMap.get 0 t.bankRr (bankKey d b * 4) = 1 ∧
      t.fget (Csr.bankConf0 d b) BankConf0.eng = min (s.fget (Csr.bankConf0 d b) BankConf0.eng + 1) (2 ^ BankConf0.eng.width - 1) ∧
      OnlyRegs s t [Csr.bankConf0 d b] := by
  have huse := s.usePort_took d b 0
  have hq : (s.usePort d b 0).bankQ = s.bankQ := rfl
  have hrr : (s.usePort d b 0).bankRr = s.bankRr := rfl
  obtain ⟨v, hv⟩ : ∃ v : State, v = s.usePort d b 0 := ⟨_, rfl⟩
  rw [← hv] at huse hq hrr
  have hcounted := (Reports.refl v).count (Csr.bankConf0 d b) BankConf0.eng 1
  have hconf := v.fget_count_same (Csr.bankConf0 d b) BankConf0.eng 1 (by decide)
  have honly := (OnlyRegs.refl v [Csr.bankConf0 d b]).count List.mem_cons_self BankConf0.eng 1
  obtain ⟨c, hc⟩ : ∃ c : State, c = v.count (Csr.bankConf0 d b) BankConf0.eng 1 := ⟨_, rfl⟩
  rw [← hc] at hcounted hconf honly
  unfold Reports at hcounted
  have hunav : c.bankUnav d b = false := by
    have hne : Csr.bankInfo d b ∉ [Csr.bankConf0 d b] := by
      simp only [List.mem_cons, List.not_mem_nil, or_false, Csr.bankInfo, Csr.bankConf0, csrAddr]
      omega
    have hunav : v.bankUnav d b = false := (huse.reads (b := b) (d := d)).2.2.1.trans h.fabric.avail
    unfold State.bankUnav State.fbit at hunav ⊢
    rw [State.fget_congr (honly _ hne), hunav]
  obtain ⟨hturned, hturn, hqt⟩ := c.turned_writes d b 0 (fabWrite w x)
  obtain ⟨g, hg⟩ : ∃ g : State, g = c.turned d b 0 (fabWrite w x) := ⟨_, rfl⟩
  rw [← hg] at hturned hturn hqt
  have hstored := g.bankStore_stored d b w x false
  have hframe := g.bankStore_frame d b w x false
  have hserve : c.serve d b 0 (fabWrite w x) = g.bankStore d b w x false := by rw [State.serve_fabric hunav, ← hg]
  have hgrant : doBankGrant d b .single (some fb) s = g.bankStore d b w x false := by
    unfold doBankGrant
    rw [h.grant, ← hv, ← hc, hserve]
    refine State.bankAnswers_none h.fabric.due ?_
    exact (congrArg State.cmds hframe :).trans ((congrArg State.cmds hturned :).trans ((congrArg State.cmds hcounted :).trans (congrArg State.cmds huse :)))
  rw [hgrant]
  generalize g.bankStore d b w x false = k at hstored hframe ⊢
  have hkc : OnlyRegs c k [] := .of_csr ((congrArg State.csr hframe :).trans (congrArg State.csr hturned :)) _
  have hsv : OnlyRegs s v [] := .of_csr (congrArg State.csr huse :) _
  refine ⟨hstored.raw, ?_, ?_, ?_, ?_⟩
  · have hqueue : k.bankQ = s.bankQ := (congrArg State.bankQ hframe :).trans (hqt.trans ((congrArg State.bankQ hcounted :).trans hq))
    rw [hqueue, h.queue]
  · have hrr' : k.bankRr = SMap.set 0 c.bankRr (bankKey d b * 4 + 0) ((0 + 1) % 3) := (congrArg State.bankRr hframe :).trans hturn
    rw [hrr']
    exact SMap.get_set_same ..
  · rw [State.fget_congr (hkc _ List.not_mem_nil), hconf, State.fget_congr (hsv _ List.not_mem_nil)]
  · exact ((hsv.mono (List.nil_subset _)).trans honly).trans (hkc.mono (List.nil_subset _))

end

end Sys2Proof.Machine

end

section

/-! PROOFS. The bank DMA alone at a bank (03 R133; 07 R235, R237; 09 R312; 01 R36), and O35. -/

namespace Sys2Proof.Machine

section
variable {s t u a : State} {d : Die} {b : Nat} {q : BankReq} {m : Msg}

/-! ## The request of the bank DMA -/

/-- One request waits at a single-port bank, the bank DMA's. -/
structure State.DmaAlone (s : State) (d : Die) (b : Nat) (q : BankReq) : Prop where
  clock : s.clockOn d = true
  due : s.NoBankAnswerDue
  single : b < 44
  free : s.portFree d b 0 = true
  engs : SMap.get [] s.bankQ (bankQKey d b 1) = []
  queue : SMap.get [] s.bankQ (bankQKey d b 2) = [q]
  elig : s.eligibleReq d b 0 (q.asks 2) = true
  avail : s.bankUnav d b = false

/-- The state once the request left the queue. -/
def State.dmaTaken (s : State) (d b : Nat) (q : BankReq) : State := ((s.usePort d b 0).turned d b 0 (q.asks 2)).unasked d b 2 q

theorem State.DmaAlone.grant (h : s.DmaAlone d b q) : s.grant d b .single none = (s.usePort d b 0).serve d b 0 (q.asks 2) := by
  refine State.grant_alone h.clock h.single h.free ?_ (show 2 < 3 by decide) h.elig
  rw [State.portReqs_single h.single, State.engReq_none h.engs, State.dmaReq_one h.queue]
  rfl

theorem State.DmaAlone.taken (h : s.DmaAlone d b q) : BankTook s (s.dmaTaken d b q) ∧ SMap.get [] (s.dmaTaken d b q).bankQ (bankQKey d b 2) = [] := by
  have huse := s.usePort_took d b 0
  have hq : (s.usePort d b 0).bankQ = s.bankQ := rfl
  obtain ⟨htook, -, hqt⟩ := (s.usePort d b 0).turned_writes d b 0 (q.asks 2)
  unfold State.dmaTaken
  generalize (s.usePort d b 0).turned d b 0 (q.asks 2) = v at htook hqt ⊢
  refine ⟨(huse.trans htook).trans rfl, ?_⟩
  unfold State.unasked
  dsimp only
  rw [SMap.get_set_same, hqt, hq, h.queue, List.erase_cons_head]

theorem State.takeReq_message (s : State) (hwho : q.who = .message m) :
    s.takeReq d b 0 (q.asks 2) = ((s.turned d b 0 (q.asks 2)).unasked d b 2 q).count (Csr.xbCredit d 21 (m.g Hd.vc)) XbCredit.avail m.size := by
  obtain ⟨id, who, die, eng, word, half, op⟩ := q
  cases hwho
  rfl

theorem State.takeReq_steward (s : State) {h : CmdHdr} {i : Nat} (hwho : q.who = .steward h i) :
    s.takeReq d b 0 (q.asks 2) = (s.turned d b 0 (q.asks 2)).unasked d b 2 q := by
  obtain ⟨id, who, die, eng, word, half, op⟩ := q
  cases hwho
  rfl

/-! ## A message at the bank DMA -/

/-- The credit of the message returned. -/
def State.dmaCredited (s : State) (d b : Nat) (q : BankReq) (m : Msg) : State :=
  (s.dmaTaken d b q).count (Csr.xbCredit d 21 (m.g Hd.vc)) XbCredit.avail m.size

theorem xbCredit_ne_bank (d : Die) (b : Nat) (m : Msg) :
    Csr.xbCredit d 21 (m.g Hd.vc) ≠ Csr.bankInfo d b ∧ Csr.xbCredit d 21 (m.g Hd.vc) ≠ Csr.bankMiscCnt d := by
  have hvc : m.g Hd.vc < 8 := Fld.get_lt Hd.vc m.hdr
  simp only [Csr.xbCredit, Csr.bankInfo, Csr.bankMiscCnt, csrAddr]
  omega

theorem State.DmaAlone.credited (h : s.DmaAlone d b q) (m : Msg) :
    s.dmaCredited d b q m = { s.dmaTaken d b q with csr := (s.dmaCredited d b q m).csr } ∧
    OnlyRegs s (s.dmaCredited d b q m) [Csr.xbCredit d 21 (m.g Hd.vc)] ∧
    (s.dmaCredited d b q m).fget (Csr.xbCredit d 21 (m.g Hd.vc)) XbCredit.avail =
      min (s.fget (Csr.xbCredit d 21 (m.g Hd.vc)) XbCredit.avail + m.size) (2 ^ XbCredit.avail.width - 1) ∧
    (s.dmaCredited d b q m).bankUnav d b = false := by
  have htook := h.taken.1
  have hreads := htook.reads (b := b) (d := d)
  unfold State.dmaCredited
  generalize s.dmaTaken d b q = v at htook hreads ⊢
  have hcounted : v.count (Csr.xbCredit d 21 (m.g Hd.vc)) XbCredit.avail m.size = { v with csr := (v.count (Csr.xbCredit d 21 (m.g Hd.vc)) XbCredit.avail m.size).csr } := v.csrSet_rest _ _
  have hfield := v.fget_count_same (Csr.xbCredit d 21 (m.g Hd.vc)) XbCredit.avail m.size (by decide)
  have honly := (OnlyRegs.refl v [Csr.xbCredit d 21 (m.g Hd.vc)]).count List.mem_cons_self XbCredit.avail m.size
  generalize v.count (Csr.xbCredit d 21 (m.g Hd.vc)) XbCredit.avail m.size = c at hcounted hfield honly ⊢
  have hsame : OnlyRegs s v [] := .of_csr hreads.2.2.2.1 _
  have hunav := hreads.2.2.1.trans h.avail
  refine ⟨hcounted, (hsame.mono (List.nil_subset _)).trans honly, ?_, ?_⟩
  · rw [hfield, State.fget_congr (hsame _ List.not_mem_nil)]
  · unfold State.bankUnav State.fbit at hunav ⊢
    rw [State.fget_congr (honly _ (by simpa using (xbCredit_ne_bank d b m).1.symm)), hunav]

/-- The reply of a unit: what it names. -/
theorem Msg.unitReply_names (m : Msg) (d : Die) (st : Nat) (value : Option (BitVec 64 × Bool)) :
    let r := m.unitReply d 74 st value
    r.g Hd.dkind = 4 ∧ r.g Hd.xtag = m.g Hd.xtag ∧ r.g Hd.destDie = m.g Hd.srcDie ∧ r.g Hd.destIdx = m.g Hd.srcIdx := by
  unfold Msg.unitReply
  dsimp only
  simp (disch := decide) only [Msg.g_w_same, Msg.g_w_apart]
  exact ⟨rfl, Nat.mod_eq_of_lt (Fld.get_lt Hd.xtag m.hdr), Nat.mod_eq_of_lt (Fld.get_lt Hd.srcDie m.hdr), Nat.mod_eq_of_lt (Fld.get_lt Hd.srcIdx m.hdr)⟩

/-- What a message's access leaves: its answer, its credit, and the queue. -/
structure State.MsgServed (s u t : State) (d : Die) (b : Nat) (m : Msg) (value : Option (BitVec 64 × Bool)) : Prop where
  entered : Entered s t d 21 ⟨s.serial, m.unitReply d 74 St.ok value, (m.unitReply d 74 St.ok value).g Hd.destDie,
    endpointOf ((m.unitReply d 74 St.ok value).g Hd.destIdx)⟩
  serial : t.serial = s.serial + 1
  credit : t.fget (Csr.xbCredit d 21 (m.g Hd.vc)) XbCredit.avail =
    min (s.fget (Csr.xbCredit d 21 (m.g Hd.vc)) XbCredit.avail + m.size) (2 ^ XbCredit.avail.width - 1)
  regs : OnlyRegs s t [Csr.xbCredit d 21 (m.g Hd.vc), Csr.bankMiscCnt d]
  mem : t.bankMem = u.bankMem
  mark : t.bankMark = u.bankMark
  queue : SMap.get [] t.bankQ (bankQKey d b 2) = []
  frame : t = { s with
    csr := t.csr
    bankMem := t.bankMem
    bankMark := t.bankMark
    bankQ := t.bankQ
    bankLast := t.bankLast
    bankRr := t.bankRr
    bankRmw := t.bankRmw
    serial := t.serial
    xin := t.xin
    xsrc := t.xsrc
    cmds := t.cmds }

/-- From `s` to `t` a bank's words and the count of poisoned reads changed. -/
def BankWords (s t : State) : Prop := t = { s with csr := t.csr, bankMem := t.bankMem, bankMark := t.bankMark }

theorem State.DmaAlone.message (h : s.DmaAlone d b q) (hwho : q.who = .message m) {v : BitVec 64} {p : Bool}
    (hacc : (s.dmaCredited d b q m).bankAccess d b q.word 2 q.op = (v, p, St.ok, u)) (hwords : BankWords (s.dmaCredited d b q m) u)
    (hregs : OnlyRegs (s.dmaCredited d b q m) u [Csr.bankMiscCnt d]) :
    s.MsgServed u (doBankGrant d b .single none s) d b m (if answersData q.op then some (v, p) else none) := by
  obtain ⟨htook, hgone⟩ := h.taken
  obtain ⟨hcounted, honly, hcredit, -⟩ := h.credited m
  have hserve : (s.usePort d b 0).serve d b 0 (q.asks 2) = u.injectReply d 21 (m.unitReply d 74 St.ok (if answersData q.op then some (v, p) else none)) := by
    have htaken : (s.usePort d b 0).takeReq d b 0 (q.asks 2) = s.dmaCredited d b q m := State.takeReq_message _ hwho
    rw [State.serve_eq (r := q.asks 2) (u := u) (v := v) (p := p) (st := St.ok) (by rw [htaken]; exact hacc)]
    obtain ⟨id, who, die, eng, word, half, op⟩ := q
    cases hwho
    rfl
  generalize s.dmaCredited d b q m = c at hacc hwords hregs hcounted honly hcredit
  generalize s.dmaTaken d b q = k at htook hgone hcounted
  generalize (if answersData q.op then some (v, p) else none) = value at hserve ⊢
  unfold BankTook at htook
  unfold BankWords at hwords
  obtain ⟨t, ht⟩ : ∃ t : State, t = u.injectReply d 21 (m.unitReply d 74 St.ok value) := ⟨_, rfl⟩
  have hinject := State.inject_frame (t := t) (s := u) ht
  have hc : c = { s with
      csr := c.csr
      bankRr := c.bankRr
      bankRmw := c.bankRmw
      bankQ := c.bankQ
      bankLast := c.bankLast } := by
    rw [hcounted, htook]
  have hgrant : doBankGrant d b .single none s = t := by
    unfold doBankGrant
    rw [h.grant, hserve, ← ht]
    refine State.bankAnswers_none h.due ?_
    exact (congrArg State.cmds hinject :).trans ((congrArg State.cmds hwords :).trans (congrArg State.cmds hc :))
  rw [hgrant]
  have hin : u.xin = s.xin := (congrArg State.xin hwords :).trans (congrArg State.xin hc :)
  have hsrc : u.xsrc = s.xsrc := (congrArg State.xsrc hwords :).trans (congrArg State.xsrc hc :)
  have hserial : u.serial = s.serial := (congrArg State.serial hwords :).trans (congrArg State.serial hc :)
  have hentered := State.inject_entered hin hsrc hserial d 21 (m.unitReply d 74 St.ok value) ((m.unitReply d 74 St.ok value).g Hd.destDie)
    (endpointOf ((m.unitReply d 74 St.ok value).g Hd.destIdx))
  have hut : OnlyRegs u t [] := .of_csr (congrArg State.csr hinject :) _
  have hne := (xbCredit_ne_bank d b m).2
  refine ⟨⟨?_, ?_⟩, ?_, ?_, ?_, ?_, ?_, ?_, ?_⟩
  · exact (congrArg State.xin ht :).trans hentered.1
  · exact (congrArg State.xsrc ht :).trans hentered.2
  · rw [(congrArg State.serial hinject :), hserial]
  · rw [State.fget_congr (hut _ List.not_mem_nil), State.fget_congr (hregs _ (by simpa using hne)), hcredit]
  · exact ((honly.mono (by simp)).trans (hregs.mono (by simp))).trans (hut.mono (List.nil_subset _))
  · exact (congrArg State.bankMem hinject :)
  · exact (congrArg State.bankMark hinject :)
  · have hq : t.bankQ = k.bankQ := (congrArg State.bankQ hinject :).trans ((congrArg State.bankQ hwords :).trans (congrArg State.bankQ hcounted :))
    rw [hq, hgone]
  · rw [hinject, hwords, hc]

theorem State.bankStore_words (s : State) (d b w : Nat) (v : BitVec 64) (p : Bool) : BankWords s (s.bankStore d b w v p) := by
  unfold BankWords
  rw [s.bankStore_frame d b w v p]

theorem State.readCounted_words (s : State) (d b w : Nat) : BankWords s (s.readCounted d b w) := by
  unfold BankWords
  rw [(s.readCounted_writes d b w).2.2]

/-- The words at the access of a message are those before the grant. -/
theorem State.DmaAlone.words (h : s.DmaAlone d b q) (m : Msg) : (∀ w, (s.dmaCredited d b q m).bankRaw d b w = s.bankRaw d b w) ∧
    (∀ w, (s.dmaCredited d b q m).bankMarkOf d b w = s.bankMarkOf d b w) ∧ (s.dmaCredited d b q m).bankMem = s.bankMem := by
  have htook := h.taken.1
  have hcounted := (h.credited m).1
  unfold BankTook at htook
  have hmem : (s.dmaCredited d b q m).bankMem = s.bankMem := (congrArg State.bankMem hcounted :).trans (congrArg State.bankMem htook :)
  have hmark : (s.dmaCredited d b q m).bankMark = s.bankMark := (congrArg State.bankMark hcounted :).trans (congrArg State.bankMark htook :)
  exact ⟨fun w => State.bankRaw_congr hmem d b w, fun w => State.bankMarkOf_congr hmark d b w, hmem⟩

theorem State.DmaAlone.message_reads (h : s.DmaAlone d b q) (hwho : q.who = .message m) (hop : q.op = .read)
    (hflips : (s.bankMarkOf d b q.word).flips = 0) :
    s.MsgServed s (doBankGrant d b .single none s) d b m (some (s.bankRaw d b q.word, (s.bankMarkOf d b q.word).poison)) ∧
      (doBankGrant d b .single none s).bankMem = s.bankMem := by
  obtain ⟨hraw, hmark, hmem⟩ := h.words m
  have hacc := State.bankAccess_read (s := s.dmaCredited d b q m) (w := q.word) (h.credited m).2.2.2 (by rw [hmark]; exact hflips) 2
  rw [hraw, hmark, ← hop] at hacc
  obtain ⟨-, hregs, hframe⟩ := (s.dmaCredited d b q m).readCounted_writes d b q.word
  have hserved := h.message hwho hacc (State.readCounted_words _ d b q.word) hregs
  rw [hop] at hserved
  have hmarks : (s.dmaCredited d b q m).bankMark = s.bankMark := by
    have htook := h.taken.1
    unfold BankTook at htook
    exact (congrArg State.bankMark (h.credited m).1 :).trans (congrArg State.bankMark htook :)
  have hmem' : ((s.dmaCredited d b q m).readCounted d b q.word).bankMem = s.bankMem := (congrArg State.bankMem hframe :).trans hmem
  have hmark' : ((s.dmaCredited d b q m).readCounted d b q.word).bankMark = s.bankMark := (congrArg State.bankMark hframe :).trans hmarks
  exact ⟨⟨hserved.entered, hserved.serial, hserved.credit, hserved.regs, hserved.mem.trans hmem', hserved.mark.trans hmark', hserved.queue, hserved.frame⟩,
    hserved.mem.trans hmem'⟩

theorem State.DmaAlone.message_writes (h : s.DmaAlone d b q) (hwho : q.who = .message m) {v : BitVec 64} {p : Bool} (hop : q.op = .write 0xFF v p) :
    let t := doBankGrant d b .single none s
    s.MsgServed t t d b m none ∧ t.bankRaw d b q.word = v ∧ t.bankMarkOf d b q.word = ⟨p, 0⟩ := by
  have hacc := State.bankAccess_write (s := s.dmaCredited d b q m) (w := q.word) (h.credited m).2.2.2 2 v p
  rw [← hop] at hacc
  have hframe := (s.dmaCredited d b q m).bankStore_frame d b q.word v p
  have hsame : OnlyRegs (s.dmaCredited d b q m) ((s.dmaCredited d b q m).bankStore d b q.word v p) [Csr.bankMiscCnt d] :=
    .of_csr (congrArg State.csr hframe :) _
  have hserved := h.message hwho hacc (State.bankStore_words _ d b q.word v p) hsame
  rw [hop] at hserved
  have hstored := (s.dmaCredited d b q m).bankStore_stored d b q.word v p
  exact ⟨⟨hserved.entered, hserved.serial, hserved.credit, hserved.regs, rfl, rfl, hserved.queue, hserved.frame⟩,
    (State.bankRaw_congr hserved.mem d b q.word).trans hstored.raw, (State.bankMarkOf_congr hserved.mark d b q.word).trans hstored.mark⟩

/-! ## A word of a host's command (09 R312) -/

/-- The state in which a word has been read for a host. -/
def State.wordRead (s : State) (d b : Nat) (q : BankReq) (h : CmdHdr) (i : Nat) : State :=
  let u := (s.dmaTaken d b q).readCounted d b q.word
  { u with cmds := u.cmds.map (Cmd.gotWord h ⟨i, s.bankRaw d b q.word, (s.bankMarkOf d b q.word).poison, St.ok⟩) }

theorem State.DmaAlone.steward (h : s.DmaAlone d b q) {hd : CmdHdr} {i : Nat} (hwho : q.who = .steward hd i) (hop : q.op = .read)
    (hflips : (s.bankMarkOf d b q.word).flips = 0) : s.grant d b .single none = s.wordRead d b q hd i := by
  have htook := h.taken.1
  obtain ⟨hraw, hmark, hun, -⟩ := htook.reads (b := b) (d := d)
  have hacc := State.bankAccess_read (s := s.dmaTaken d b q) (w := q.word) (hun.trans h.avail) (by rw [hmark]; exact hflips) 2
  rw [hraw, hmark, ← hop] at hacc
  have htaken : (s.usePort d b 0).takeReq d b 0 (q.asks 2) = s.dmaTaken d b q := State.takeReq_steward _ hwho
  rw [h.grant, State.serve_eq (r := q.asks 2) (u := (s.dmaTaken d b q).readCounted d b q.word) (v := s.bankRaw d b q.word)
    (p := (s.bankMarkOf d b q.word).poison) (st := St.ok) (by rw [htaken]; exact hacc)]
  obtain ⟨id, who, die, eng, word, half, op⟩ := q
  cases hwho
  rfl

/-- What the read of a word for a host leaves. -/
structure State.WordServed (s t : State) (d : Die) (b : Nat) : Prop where
  xin : t.xin = s.xin
  outbox : t.outbox = s.outbox
  mem : t.bankMem = s.bankMem
  regs : OnlyRegs s t [Csr.bankMiscCnt d]
  queue : SMap.get [] t.bankQ (bankQKey d b 2) = []
  frame : t = { s with
    csr := t.csr
    bankMem := t.bankMem
    bankMark := t.bankMark
    bankQ := t.bankQ
    bankLast := t.bankLast
    bankRr := t.bankRr
    bankRmw := t.bankRmw
    serial := t.serial
    xin := t.xin
    xsrc := t.xsrc
    cmds := t.cmds }

theorem State.DmaAlone.wordServed (h : s.DmaAlone d b q) (hd : CmdHdr) (i : Nat) : s.WordServed (s.wordRead d b q hd i) d b ∧
    (s.wordRead d b q hd i).cmds = s.cmds.map (Cmd.gotWord hd ⟨i, s.bankRaw d b q.word, (s.bankMarkOf d b q.word).poison, St.ok⟩) := by
  obtain ⟨htook, hgone⟩ := h.taken
  obtain ⟨-, hregs, hframe⟩ := (s.dmaTaken d b q).readCounted_writes d b q.word
  unfold State.wordRead
  dsimp only
  generalize (s.dmaTaken d b q).readCounted d b q.word = u at hregs hframe ⊢
  generalize s.dmaTaken d b q = k at htook hgone hregs hframe
  unfold BankTook at htook
  have hcmds : u.cmds = s.cmds := (congrArg State.cmds hframe :).trans (congrArg State.cmds htook :)
  obtain ⟨t, ht⟩ : ∃ t : State, t = { u with cmds := u.cmds.map (Cmd.gotWord hd ⟨i, s.bankRaw d b q.word, (s.bankMarkOf d b q.word).poison, St.ok⟩) } := ⟨_, rfl⟩
  rw [← ht]
  have htu : t = { u with cmds := t.cmds } := by rw [ht]
  have hsk : OnlyRegs s k [] := .of_csr (congrArg State.csr htook :) _
  have hut : OnlyRegs u t [] := .of_csr (congrArg State.csr htu :) _
  refine ⟨⟨?_, ?_, ?_, ?_, ?_, ?_⟩, ?_⟩
  · exact (congrArg State.xin htu :).trans ((congrArg State.xin hframe :).trans (congrArg State.xin htook :))
  · exact (congrArg State.outbox htu :).trans ((congrArg State.outbox hframe :).trans (congrArg State.outbox htook :))
  · exact (congrArg State.bankMem htu :).trans ((congrArg State.bankMem hframe :).trans (congrArg State.bankMem htook :))
  · exact ((hsk.mono (List.nil_subset _)).trans hregs).trans (hut.mono (List.nil_subset _))
  · have hq : t.bankQ = k.bankQ := (congrArg State.bankQ htu :).trans (congrArg State.bankQ hframe :)
    rw [hq, hgone]
  · rw [htu, hframe, htook]
  · rw [hcmds]

theorem Cmd.gotWord_other {hd : CmdHdr} {g : BankGot} {c : Cmd} (h : c.hdr ≠ hd) : c.gotWord hd g = c := by
  unfold Cmd.gotWord
  cases c.work with
  | bank n got => exact if_neg (by simpa using h)
  | _ => rfl

theorem Cmd.gotWord_own {g : BankGot} {c : Cmd} {n : Nat} {got : List BankGot} (h : c.work = .bank n got) :
    c.gotWord c.hdr g = { c with work := .bank n (got ++ [g]) } := by
  unfold Cmd.gotWord
  rw [h]
  exact if_pos (beq_self_eq_true _)

end

/-! ## O35 -/

/-- An engine alone at a bank. -/
theorem engineAtBank (d : Die) (b : Bank) (e : Eng) (w : Nat) (half : Option Bool) (op : BankOp) (rd : Nat) (pair atomic : Bool) (id : Nat) (s : State)
    (h : s.EngineAlone d e b ⟨id, .engine, d, e, w, half, op⟩) (hwait : (s.eng d e).wait = .bank rd pair atomic) (hrd : pair = true → pairOk rd = true)
    (hptrap : s.fbit (Csr.engCtrl d e) EngCtrl.ptrap = false) :
    let old := s.bankRaw d b w
    let m := s.bankMarkOf d b w
    let t := doBankGrant d b .single none s
    (s.bankUnav d b = false → m.flips = 0 →
      (op = .read → s.EngGranted t d e b rd pair (halfOf half old) m.poison 0 ∧ t.bankMem = s.bankMem ∧ t.bankMark = s.bankMark) ∧
      (∀ y : BitVec 64, half = none → m.poison = false → ∀ r ∈ [(BankOp.fetchAdd y, old + y), (BankOp.swap y, y)], op = r.1 →
        s.EngGranted t d e b rd pair old false 0 ∧ s.WordStored t d b w r.2 false ∧ t.csr = s.csr) ∧
      (∀ y : BitVec 64, half = none → m.poison = true → (op = .fetchAdd y ∨ op = .swap y) →
        s.EngGranted t d e b rd pair old true 0 ∧ t.bankMem = s.bankMem ∧ t.bankMark = s.bankMark)) ∧
    (s.bankUnav d b = true → op = .read → s.EngGranted t d e b rd pair 0 true St.notPresent ∧ t.bankMem = s.bankMem ∧ t.bankMark = s.bankMark ∧
      t.fget (Csr.bankMiscCnt d) BankMiscCnt.unav = min (s.fget (Csr.bankMiscCnt d) BankMiscCnt.unav + 1) (2 ^ BankMiscCnt.unav.width - 1)) := by
  refine ⟨fun hunav hflips => ⟨fun hop => h.read hop hunav hflips hwait hrd hptrap, fun y hhalf hpoison => ?_, fun y hhalf hpoison hop => ?_⟩,
    fun hunav hop => h.unavailable hop hunav hwait hrd hptrap⟩
  · intro r hr hop
    have hnew : bankStores op (s.bankRaw d b w) = some r.2 := by
      simp only [List.mem_cons, List.not_mem_nil, or_false] at hr
      rcases hr with rfl | rfl <;> rw [hop] <;> rfl
    exact h.stores hnew hhalf hunav hflips hpoison hwait hrd
  · obtain ⟨new, hnew⟩ : ∃ new, bankStores op (s.bankRaw d b w) = some new := by
      rcases hop with rfl | rfl <;> exact ⟨_, rfl⟩
    exact h.stores_poisoned hnew hhalf hunav hflips hpoison hwait hrd hptrap

/-- Settles O35: an engine alone at a bank, two requests in one cycle, and the bank DMA alone. -/
theorem bankEngineAccessAndConflicts : Obligations.BankEngineAccessAndConflicts := by
  unfold Obligations.BankEngineAccessAndConflicts
  refine ⟨?_, ?_, ?_⟩
  · intro d b e w half op rd pair atomic id s hclock hdue hb hfree hdma
    dsimp only
    intro hqueue hwait hreg hptrap helig _
    have hrd : pair = true → pairOk rd = true := fun hp => by simpa [hp] using hreg
    have h : s.EngineAlone d e b ⟨id, .engine, d, e, w, half, op⟩ := ⟨hclock, hdue, hb, hfree, hdma, hqueue, rfl, rfl, helig⟩
    obtain ⟨havail, hnot⟩ := engineAtBank d b e w half op rd pair atomic id s h hwait hrd hptrap
    refine ⟨fun hunav hflips => ?_, fun hunav hop => ?_⟩
    · obtain ⟨hread, hatomic, hpoisoned⟩ := havail hunav hflips
      refine ⟨fun hop => ⟨_, rfl, ?_⟩, fun y hhalf hpoison r hr hop => ⟨_, rfl, ?_⟩, fun y hhalf hpoison hop => ⟨_, rfl, ?_⟩⟩
      · obtain ⟨⟨hgave, hqueue, hframe⟩, hmem, hmark⟩ := hread hop
        have hwrote := hgave.wrote
        rw [halfOf_eq] at hwrote
        refine ⟨?_, ⟨hgave.record, hgave.others, hqueue⟩, hmem, hmark, hframe⟩
        cases half with
        | none => exact hwrote
        | some hi => cases hi with
          | false => exact hwrote
          | true => exact hwrote
      · obtain ⟨⟨hgave, hqueue, hframe⟩, hstored, hcsr⟩ := hatomic y hhalf hpoison r hr hop
        exact ⟨hgave.wrote, ⟨hgave.record, hgave.others, hqueue⟩, ⟨hstored.raw, hstored.mark, hstored.rest⟩, hcsr, hframe⟩
      · obtain ⟨⟨hgave, hqueue, hframe⟩, hmem, hmark⟩ := hpoisoned y hhalf hpoison hop
        exact ⟨hgave.wrote, ⟨hgave.record, hgave.others, hqueue⟩, hmem, hmark, hframe⟩
    · refine ⟨_, rfl, ?_⟩
      obtain ⟨⟨hgave, hqueue, hframe⟩, hmem, hmark, hcount⟩ := hnot hunav hop
      exact ⟨hgave.wrote, ⟨hgave.record, hgave.others, hqueue⟩, hmem, hmark, hcount, hframe⟩
  · intro d b fb w x e id s hunav hdue hreach hopen hwrites hword hfop hdma op
    dsimp only
    intro hqueue
    have hfab : s.FabricWrites d b fb w x := ⟨hunav, hdue, hreach, hopen, hwrites, hword, hfop⟩
    refine ⟨fun hb hfree0 hfree1 he0 he1 => ?_, fun hb hfree he0 he1 hturn => ⟨_, rfl, ?_⟩⟩
    · have h : s.TwinPair d e b fb w x ⟨id, .engine, d, e, w, none, op⟩ := ⟨hfab, hb, hfree0, hfree1, he0, he1, hdma, hqueue, rfl, rfl, rfl⟩
      exact ⟨fun y hop => ⟨_, rfl, h.writes hop⟩, fun rd hop hwait hrd hclean => ⟨_, rfl, h.reads hop rfl hwait hrd hclean⟩⟩
    · have h : s.PortPair d e b fb w x ⟨id, .engine, d, e, w, none, op⟩ := ⟨hfab, hb, hfree, he0, he1, hturn, hdma, hqueue, rfl⟩
      exact h.served
  · intro d b q s hclock hdue hb hfree hengs hqueue helig _ hunav
    dsimp only
    intro hflips
    have h : s.DmaAlone d b q := ⟨hclock, hdue, hb, hfree, hengs, hqueue, helig, hunav⟩
    refine ⟨fun m hwho _ => ⟨fun hop => ⟨_, rfl, ?_⟩, fun v p hop => ⟨_, rfl, ?_⟩⟩, fun hd i hwho hother hop => ⟨_, rfl, ?_⟩,
      fun c i n got hcmds hwho hwork hop => ?_⟩
    · obtain ⟨hserved, hmem⟩ := h.message_reads hwho hop hflips
      obtain ⟨hkind, htag, hdie, hidx⟩ := Msg.unitReply_names m d St.ok (some (s.bankRaw d b q.word, (s.bankMarkOf d b q.word).poison))
      exact ⟨⟨hkind, htag, hdie, hidx, hserved.entered, hserved.serial⟩, ⟨hserved.credit, hserved.regs⟩, hmem, hserved.queue, hserved.frame⟩
    · obtain ⟨hserved, hraw, hmark⟩ := h.message_writes hwho hop
      obtain ⟨hkind, htag, hdie, hidx⟩ := Msg.unitReply_names m d St.ok none
      exact ⟨⟨hkind, htag, hdie, hidx, hserved.entered, hserved.serial⟩, ⟨hserved.credit, hserved.regs⟩, hraw, hmark, hserved.queue, hserved.frame⟩
    · obtain ⟨hserved, hmap⟩ := h.wordServed hd i
      have hsame : (s.wordRead d b q hd i).cmds = s.cmds := by
        rw [hmap]
        exact List.map_congr_left (fun c hc => Cmd.gotWord_other (hother c hc)) |>.trans (List.map_id _)
      have hgrant : doBankGrant d b .single none s = s.wordRead d b q hd i := by
        unfold doBankGrant
        rw [h.steward hwho hop hflips]
        exact State.bankAnswers_none hdue hsame
      rw [hgrant]
      exact ⟨hsame, hserved.xin, hserved.mem, hserved.regs, hserved.queue, hserved.frame⟩
    · obtain ⟨hserved, hmap⟩ := h.wordServed c.hdr i
      have hone : (s.wordRead d b q c.hdr i).cmds =
          [{ c with work := .bank n (got ++ [⟨i, s.bankRaw d b q.word, (s.bankMarkOf d b q.word).poison, St.ok⟩]) }] := by
        rw [hmap, hcmds, List.map_singleton, Cmd.gotWord_own hwork]
      have hgrant : doBankGrant d b .single none s = (s.wordRead d b q c.hdr i).bankAnswer
          { c with work := .bank n (got ++ [⟨i, s.bankRaw d b q.word, (s.bankMarkOf d b q.word).poison, St.ok⟩]) } := by
        unfold doBankGrant State.bankAnswers
        rw [h.steward hwho hop hflips, hone]
        rfl
      have hlen : (got ++ [(⟨i, s.bankRaw d b q.word, (s.bankMarkOf d b q.word).poison, St.ok⟩ : BankGot)]).length = got.length + 1 := by simp
      refine ⟨fun hlast => ⟨_, rfl, s.wordRead d b q c.hdr i, ?_, hone, hserved.outbox, hserved.xin, hserved.queue, hserved.frame⟩,
        fun hmore => ⟨_, rfl, ?_⟩⟩
      · rw [hgrant, State.bankAnswer_bank _ rfl, if_neg (by rw [hlen, hlast]; omega)]
      · rw [hgrant, State.bankAnswer_bank _ rfl, if_pos (by rw [hlen]; exact hmore)]
        exact ⟨hone, hserved.xin, hserved.mem, hserved.regs, hserved.queue, hserved.frame⟩

end Sys2Proof.Machine

end

section
/-! PROOFS. A release of every die raises LOAD_DONE with the wrong time flag when the register map lists TOW_STS twice
(O39 fails).

The clause of O39 on RELEASE_RESETS_DEASSERT names the LOAD_DONE item by the state before the command, for every state; it has no
premise that the state is canonical (what O3 shows every step to keep). `State.resetCsr`, by which each reach of the release starts
its registers anew, drops an entry that holds its register's reset value: if a second entry of the same register stands behind it,
that one is read from then on. -/

namespace Sys2Proof.Machine

/-- The last step of a release of every die after a load. -/
def lastStep : Release := { scope := .all, step := 2, why := .load, skip := [] }

/-- Die 0 is on, its release waits for its last step, and TOW_STS is listed twice: at its reset value, with MS_SYNC = 0, and
behind that with MS_SYNC = 1. -/
def towStsTwice : State :=
  { State.reset with
    csr := [(Csr.towSts, 0xFF00), (Csr.towSts, 0xFF40), (Csr.pwrSts, 5)]
    releases := [lastStep] }

theorem towStsTwice_releasing : towStsTwice.releaseOf .all = some lastStep ∧ 0 ∈ towStsTwice.relDies lastStep := by
  decide +kernel

theorem towStsTwice_unsynced : towStsTwice.fbit Csr.towSts TowSts.msSync = false := by decide +kernel

/-- The register resets of reach 0 of die 0 uncover the second entry, and the notice shows it. -/
theorem towStsTwice_raises :
    ((doReleaseResetsDeassert .all towStsTwice).waiting stw).map Notice.chainTime = [true] := by
  decide +kernel

/-- Refutes O39: over a state whose register map lists TOW_STS twice, LOAD_DONE of a finished start load carries the time flag of
the second entry, which the release's register resets uncover, and not that of the state before. -/
theorem not_loadEndAndLiveSwap : ¬ Obligations.LoadEndAndLiveSwap := by
  unfold Obligations.LoadEndAndLiveSwap
  rintro ⟨starts, -⟩
  obtain ⟨-, -, deasserts, -⟩ := starts towStsTwice
  obtain ⟨hrel, hdie⟩ := towStsTwice_releasing
  obtain ⟨t, hexec, -, -, -, -, hitem⟩ := deasserts lastStep hrel rfl rfl rfl rfl ⟨0, hdie⟩ (by decide)
  obtain rfl : doReleaseResetsDeassert .all towStsTwice = t := Host.Outcome.next.inj hexec
  have hflags := congrArg (List.map Notice.chainTime) hitem
  rw [towStsTwice_raises] at hflags
  have hflag : true = towStsTwice.fbit Csr.towSts TowSts.msSync := (List.cons.inj hflags).1
  exact absurd (hflag.trans towStsTwice_unsynced) (by decide)

end Sys2Proof.Machine

end
